-- ==== Sys2Proof/Word.lean ====
section
/-! DEFINITION. Sys2Proof/Word.lean: the word types of the SKV6400 and the small records that commands carry.
A command's operand is a fact from outside the block (a sampled level, a reading, a frame, a judgement the analogue or
cryptographic side has made), never a result that the block computes. -/

set_option Elab.async false

namespace Sys2Proof

/-- A register word (R7). -/
abbrev Word := BitVec 32
/-- A byte of a packet, a shard, a frame or a region. -/
abbrev Byte := BitVec 8
/-- One bit for each rail. -/
abbrev Rails := BitVec 64
/-- A step of a program store or an entry of a cooling table (Table 04.2, Table 05.5). -/
abbrev Step64 := BitVec 64
/-- A SHA3-256 value. -/
abbrev Digest := BitVec 256
/-- A unique ID (R351). -/
abbrev Uid := BitVec 128

/-- What a program-store fetch delivers (R102). -/
inductive Fetch where
  /-- the word as stored -/
  | clean
  /-- a single-bit error, corrected and written back -/
  | corrected
  /-- an uncorrectable word, not executed -/
  | uncorrectable
  deriving DecidableEq, Repr

/-- One of the two Garura ports (R248). -/
inductive Link where
  | a
  | b
  deriving DecidableEq, Repr

/-- The outcome of one start-up stage's work (Table 02.2, Table 02.4): what the dies and tests deliver. -/
structure StageResult where
  /-- stage 1: the levels of the ROOT, TWJOIN and TWSIDE pins as they are sampled (R33, R248) -/
  root : Bool
  twjoin : Bool
  twside : Bool
  /-- stage 1: the cells of the copy of the Saggar store marked in force read back as they were written (R239) -/
  sgFirst : Bool
  /-- stage 1: those of the other copy do -/
  sgSecond : Bool
  /-- stage 2: the PLL locked to REFCLK (true) or to the logic-die RC (false) -/
  refLocked : Bool
  /-- stage 3: the log die responds -/
  logDie : Bool
  /-- stage 3: every configuration block has two agreeing copies (R36) -/
  majority : Bool
  /-- stage 3: how many blocks had exactly two agreeing copies, so that their third copy was rewritten -/
  repaired : Nat
  /-- stage 3: the assembled image hashes to the image digest -/
  digestOk : Bool
  /-- stage 4, or a failure in stage 3: crypto known-answer tests (Table 02.4, R243) -/
  kat : Bool
  /-- stage 4: TRNG health tests -/
  trng : Bool
  /-- stage 4: converter reference check -/
  convRef : Bool
  /-- stage 4: comparators (sources 0 to 255) that fail the swap test -/
  swapFailed : List Nat
  /-- stage 5: the 32.768 kHz crystal has produced its 1,024 cycles (R300) -/
  xtal : Bool
  /-- stage 5: comparators that a crossing or a reading of the first scan resolves, each with its side (true: fault) -/
  resolved : List (Nat × Bool)
  /-- stage 5: readings of the first converter scan, each an input and its code -/
  readings : List (Nat × BitVec 16)
  deriving DecidableEq, Repr

/-- A Garura frame as it stands after /S/ (Table 10.3). -/
structure Frame where
  /-- Table 10.4 -/
  kind : Byte
  /-- bit 0 horn, bit 1 turned -/
  flags : Byte
  dest : BitVec 12
  src : BitVec 12
  hornOrig : BitVec 12
  hornSeq : BitVec 4
  hops : BitVec 12
  payload : List Byte
  /-- reserved bits 15:12 of destination, source and hops, the first in bits 3:0 -/
  spare : BitVec 12 := 0
  deriving DecidableEq, Repr

/-- A frame as it reached the device, or left it: its port, the CRC that it carries after the payload, and what stands before it. -/
structure Arrival where
  port : Link
  crc : BitVec 32
  frame : Frame
  deriving DecidableEq, Repr

/-- What a read of one 512-byte MRAM block finds (R197). -/
structure BlockRead where
  /-- words with a single-bit error, corrected and written back -/
  corrected : Nat
  /-- words that are uncorrectable, by their index in the block -/
  lost : List (BitVec 6)
  deriving DecidableEq, Repr

/-- What the verdict lines of the crypto engine, which no other unit drives, report to the sense die of a command (R241). -/
structure Confirm where
  /-- the digest that the crypto engine reports -/
  digest : BitVec 512
  /-- slots whose blocks are reported as verified; of TAKE_OWNERSHIP, bit 0 the pair under the keys of the payload -/
  verified : BitVec 8
  deriving DecidableEq, Repr

/-- What the device's own detectors have found since the last VHOLD_AND_VIN_MEASUREMENT, for which the table has no row of its
own (log entry 32). -/
structure Seen where
  /-- VIN is above 7.5 V again after a dip that left the device powered (R49) -/
  vinBack : Bool := false
  /-- ONREQ and MR pulses that the glitch filters ignored (R149) -/
  onreqShort : Nat := 0
  mrShort : Nat := 0
  /-- short core periods that the frequency-limit detector removed (R306) -/
  gates : Nat := 0
  /-- the most pulses that arose at crossings 1 and 2 before one acknowledge returned (R319) -/
  pulses1 : Nat := 0
  pulses2 : Nat := 0
  /-- symbol errors of ports A and B (R277) -/
  symbolsA : Nat := 0
  symbolsB : Nat := 0
  /-- rails whose TM output is outside 0.3 V to 5.0 V (R158) -/
  compliance : Rails := 0
  /-- two-wire ports on whose idle bus a START of another controller, or SDA low with no request, has been seen (R282, Table 11.5) -/
  busBusy : BitVec 4 := 0
  /-- two-wire ports whose SCL, stuck low before, has been seen high again (R290) -/
  sclHigh : BitVec 4 := 0
  deriving DecidableEq, Repr

end Sys2Proof
end

