-- ==== Sys2Proof/Syntax.lean ====
section
/-! DEFINITION. Sys2Proof/Syntax.lean: the commands of the block, one constructor for each row of the opcode table, in its
order. Operands are facts from outside the block (log entry 6); what a row does is in Machine/. -/

set_option Elab.async false

namespace Sys2Proof

/-- The commands (rows) of the SKV6400. Each docstring names the row's rule. -/
inductive Instr where
  /-- VIN_RISES_PAST_4V (R30): VIN rises past 4.0 V after its 20 µs filter, taking the device from Off into Starting stage 1. -/
  | vinRisesPast4v (root twjoin twside pb mr : Bool)
  /-- VIN_GOOD (R31): The 50 µs UVLO rising filter ends with VIN above 8.2 V, allowing stage 1 to end and stage 2 to begin. -/
  | vinGood
  /-- INPUT_COLLAPSE (R52): VIN falls below 7.5 V with the logic die powered: EN outputs are released, PFW and TRIPO asserted, the open shard captured and the commit sequence started from VHOLD. -/
  | inputCollapse (logDie : Bool) (archive : Bool := false)
  /-- COMMIT_SEQUENCE_END (R55): The hold-up commit sequence finishes, letting the device go to Off or begin stage 2 once VIN is good. -/
  | commitSequenceEnd
  /-- HOLD_UP_FLOOR (R53): VHOLD falls to 4.5 V: the hold-up switch opens and no further MRAM write begins. -/
  | holdUpFloor (done words : Nat)
  /-- VIN_BELOW_4V (R30): VIN falls below 4.0 V and the device enters Off, after any commit sequence in progress has ended. -/
  | vinBelow4v
  /-- STARTUP_STAGE_COMPLETE (R33): A start-up stage finishes its work and the next stage begins; the end of stage 5 enters Ready with cause 0x01. -/
  | startupStageComplete (r : StageResult)
  /-- STARTUP_STAGE_LATE (R33): A start-up stage reaches its limit without ending, and start-up failure is declared with the stage's fail code. -/
  | startupStageLate
  /-- WAKE_TIMER_EXPIRY (R48): The Standby wake timer expires and wakes the device. -/
  | wakeTimerExpiry
  /-- WAKE_PATH_COMPLETE (R49): The wake path finishes power-up, the load of configuration copy 0 and arming, and the device enters Ready. -/
  | wakePathComplete (copyOk : Bool) (r : StageResult)
  /-- WAKE_SELF_TESTS_COMPLETE (R49): The crypto and TRNG tests run after a wake pass, releasing signed commands that were held ahead of verification. -/
  | wakeSelfTestsComplete (pass : Bool)
  /-- LOGIC_DIE_LOST (R23): The sense die declares the logic die lost: it asserts PFW and TRIPO, sets the fault latch and enters Coppice mode with a reduced walk of the Saggar C6. -/
  | logicDieLost
  /-- REDUCED_WALK_ENTRY (R155): The reduced cooling walker on the sense die acts on its next entry of the Saggar copy of C6, and ends with a sweep. -/
  | reducedWalkEntry
  /-- MR_ASSERT (R149): The filtered MR input asserts, which asserts HRST and may wake the device from Standby. -/
  | mrAssert
  /-- MR_RELEASE (R150): The filtered MR input releases, which starts the 140 ms HRST stretch. -/
  | mrRelease
  /-- HRST_STRETCH_END (R150): The HRST stretch of 4,588 periods of the 32.768 kHz clock ends, and HRST is released. -/
  | hrstStretchEnd
  /-- MR_HOLD_RESET (R45): MR has been held for 10 s, and the device resets if its state accepts the hold. -/
  | mrHoldReset
  /-- ONREQ_RISE (R147): A filtered rising edge on ONREQ raises an on request while onreq_en is 1. -/
  | onreqRise
  /-- ONREQ_FALL (R147): A filtered falling edge on ONREQ raises an off request while onreq_en is 1. -/
  | onreqFall
  /-- PB_SHORT_PRESS (R152): A PB press of 50 ms to 4 s ends after 20.02 ms of release, and acts as an on or off request by state. -/
  | pbShortPress (held : Nat)
  /-- PB_LONG_PRESS (R152): The held count of PB reaches the long-press time, causing a force-off by Table 05.10. -/
  | pbLongPress
  /-- PB_LOCKOUT_END (R151): PB has been released for 1 s in lockout, and the PB detector becomes idle. -/
  | pbLockoutEnd
  /-- OWNERSHIP_WINDOW_CLOSE (R235): The ownership window closes when PB is released or 60 s after entry to Ready. -/
  | ownershipWindowClose (released : Bool)
  /-- T_OFFMIN_ELAPSED (R20): The minimum off time elapses, and a pending on request starts firing. -/
  | tOffminElapsed
  /-- COMPARATOR_CROSSING (R70): A comparator's delivered output changes side, and the FLT pins, fault logic, engines and snapshots see it. -/
  | comparatorCrossing (src : BitVec 8) (fault : Bool)
  /-- GRADE_T_PERSIST_EXPIRY (R134): A grade T change has persisted for CT_TRIP_TIMING.persist µs and is received as grade T. -/
  | gradeTPersistExpiry (src : BitVec 8)
  /-- GRACE_DELAY_EXPIRY (R130): The grace delay elapses, and entry 0 of the selected table becomes due. -/
  | graceDelayExpiry
  /-- TRIP_DELAY_EXPIRY (R130): The trip delay elapses, and TRIPO0 to TRIPO3 assert. -/
  | tripDelayExpiry
  /-- COOLING_ENTRY_DUE (R139): A cooling-table entry reaches its due tick, and its release acts or its wait-below begins. -/
  | coolingEntryDue
  /-- WAIT_BELOW_MET (R139): A reading of the waited input completes below the level, and the entry's action is taken. -/
  | waitBelowMet
  /-- WAIT_BELOW_TIMEOUT (R139): An entry's maximum wait elapses: the action is taken, wait_timeout is set and a wait-timeout shard is written. -/
  | waitBelowTimeout
  /-- WALKER_CONVERSION_DEMAND (R140): 100 µs after the last reading of a waited input, the walker demands a conversion. -/
  | walkerConversionDemand
  /-- COOLING_SWEEP (R139): In the tick after the last entry, the walker releases every EN output still asserted. -/
  | coolingSweep
  /-- SETTLE_HOLD_END (R72): A comparator's settle hold ends, and its output is re-evaluated. -/
  | settleHoldEnd (src : BitVec 8)
  /-- RAMP_STEP (R75): Every N ticks a ramping threshold DAC moves one LSB, and the ramp ends on reaching the static code. -/
  | rampDacStep (src : BitVec 8)
  /-- PWMSYNC_EDGE (R79): A synchronised PWMSYNC rising edge starts or restarts a comparator's blanking cycle. -/
  | pwmsyncEdge (pin : BitVec 2)
  /-- PWMSYNC_WINDOW_OPEN (R78): 3 + D ticks after the edge, the PWMSYNC blanking window opens and holds the output. -/
  | pwmsyncWindowOpen (src : BitVec 8)
  /-- PWMSYNC_WINDOW_CLOSE (R78): After W ticks the window closes, and the output takes its present decision. -/
  | pwmsyncWindowClose (src : BitVec 8)
  /-- BLANKING_OVERRUN (R80): PWMSYNC blanking reaches 65,536 ticks: the window closes, a grade W fault is raised and a 256-tick lockout begins. -/
  | blankingOverrun (src : BitVec 8)
  /-- ENABLE_WINDOW_OPEN (R81): De µs after an enable event, the enable-event blanking window opens. -/
  | enableWindowOpen (src : BitVec 8)
  /-- ENABLE_WINDOW_CLOSE (R81): The enable-event window closes after We µs. -/
  | enableWindowClose (src : BitVec 8)
  /-- SELFTEST_SLOT (R86): At each self-test slot the next comparator is tested or skipped. -/
  | selftestSlot
  /-- SELFTEST_PHASE_END (R84): A self-test phase ends, and the next phase or the restore follows. -/
  | selftestPhaseEnd (right : Bool)
  /-- FLT_STRETCH_END (R90): The stretch of an FLT assertion ends, and the pin is released. -/
  | fltStretchEnd (pin : BitVec 3)
  /-- FLT_LATCH_CLEAR (R90): A class 1 write of 1 to FL_PIN_STATUS.latched clears an FLT latch when no routed source is on the fault side. -/
  | fltLatchClear (pins : Byte)
  /-- SCAN_PASS_START (R92): A free-scan pass becomes due at its interval and begins handing entries. -/
  | scanPassStart
  /-- CONVERSION_COMPLETE (R93): A conversion completes with a raw code: the reading register and seq are updated and the converter takes its next entry. -/
  | conversionComplete (conv : BitVec 2) (code : BitVec 16)
  /-- CTRIG_EDGE (R95): A CTRIG or PWMSYNC rising edge triggers a converter group. -/
  | ctrigEdge (source : BitVec 4)
  /-- SAGGAR_CONVERSION_DEMAND (R96): The Saggar engine demands a conversion, served at the next end of a conversion. -/
  | saggarConversionDemand (input : BitVec 7)
  /-- EN_PIN_LEVEL_CHANGE (R270): A filtered change of an EN pin's level under twin supervision arms or disarms the rail's UVF and UVW. -/
  | enPinLevelChange (rail : BitVec 6) (high : Bool)
  /-- NOP_STEP (R105): An engine issues NOP. -/
  | nopStep (k : BitVec 3) (fetch : Fetch)
  /-- ENABLE (R107): ENABLE asserts EN of the selected rails, each not already asserted taking an enable event. -/
  | enableStep (k : BitVec 3) (fetch : Fetch)
  /-- DISABLE (R107): DISABLE pulls EN of the selected rails low, disarming UV comparators and ending ramps. -/
  | disableStep (k : BitVec 3) (fetch : Fetch)
  /-- WAIT (R108): WAIT holds the engine for count × prescale ticks. -/
  | waitStep (k : BitVec 3) (fetch : Fetch)
  /-- WAIT_END (R108): The WAIT duration elapses, and the engine's next step issues. -/
  | waitEnd (k : BitVec 3)
  /-- WAITFOR (R109): WAITFOR starts waiting on a comparator, reading or pin condition. -/
  | waitforStep (k : BitVec 3) (fetch : Fetch)
  /-- WAITFOR_SATISFIED (R111): The WAITFOR condition holds, and the step ends. -/
  | waitforSatisfied (k : BitVec 3) (ctrig : BitVec 4)
  /-- WAITFOR_TIMEOUT (R111): The WAITFOR timeout is reached, and TO is set. -/
  | waitforTimeout (k : BitVec 3) (ctrig : BitVec 4 := 0)
  /-- CHECK (R113): CHECK begins qualification of its rail group against the window comparators. -/
  | checkStep (k : BitVec 3) (fetch : Fetch)
  /-- CHECK_QUALIFIED (R113): A rail has been inside for the qualification time; when all have qualified, the step ends. -/
  | checkQualified (k : BitVec 3) (rail : BitVec 6)
  /-- CHECK_DEADLINE (R113): The CHECK deadline expires: unqualified rails fail with CF, fail bits and check-failure shards. -/
  | checkDeadline (k : BitVec 3)
  /-- RAMP (R75): RAMP arms the ramps of the selected rails. -/
  | rampStep (k : BitVec 3) (fetch : Fetch)
  /-- JUMP (R116): JUMP continues at its target, optionally loading LC. -/
  | jumpStep (k : BitVec 3) (fetch : Fetch)
  /-- JUMPIF (R117): JUMPIF tests a flag, event flag, fail bit or LC and jumps, optionally clearing the flag. -/
  | jumpifStep (k : BitVec 3) (fetch : Fetch)
  /-- SIGNAL (R120): SIGNAL sets or clears event flags at the end of the tick. -/
  | signalStep (k : BitVec 3) (fetch : Fetch)
  /-- SYNC_STEP (R110): SYNC starts waiting on event flags. -/
  | syncStep (k : BitVec 3) (fetch : Fetch)
  /-- SYNC_SATISFIED (R120): The SYNC flags are satisfied, and are consumed if asked. -/
  | syncSatisfied (k : BitVec 3)
  /-- SYNC_TIMEOUT (R111): The SYNC timeout is reached, and TO is set. -/
  | syncTimeout (k : BitVec 3)
  /-- MARGIN_STEP (R121): MARGIN applies nominal, high or low by trim path or starts a PMBus sequence. -/
  | marginStep (k : BitVec 3) (fetch : Fetch)
  /-- TRIM (R160): TRIM sets a rail's trim code, clamped to its band and setting CL when clamped. -/
  | trimStep (k : BitVec 3) (fetch : Fetch)
  /-- SNAP (R121): SNAP captures a snapshot shard carrying the engine, step address and mark. -/
  | snapStep (k : BitVec 3) (fetch : Fetch)
  /-- PWM (R121): A PWM step starts or stops a channel, writes a shadow compare or sets LOAD_ALL. -/
  | pwmStep (k : BitVec 3) (fetch : Fetch)
  /-- HALT (R118): HALT stops its engine; with off = 1 it is also an off request of cause 0x23. -/
  | haltStep (k : BitVec 3) (fetch : Fetch)
  /-- STEP_BUDGET_EXPIRY (R124): An engine issues a step beyond its step budget and enters error with cause 0x1. -/
  | stepBudgetExpiry (k : BitVec 3)
  /-- TIME_BUDGET_EXPIRY (R124): An engine's time budget is reached, and it enters error with cause 0x2. -/
  | timeBudgetExpiry (k : BitVec 3)
  /-- DIE_OVER_TEMPERATURE (R132): An internal die sensor has been above 130 °C for 1 ms, raising cause 0x12. -/
  | dieOverTemperature (sensors : BitVec 4)
  /-- TRIPI_ASSERT (R337): A synchronised TRIPI assertion reaches the fault logic as cause 0x11. -/
  | tripiAssert (levels : BitVec 4)
  /-- SPI_WRITE (R204): A WRITE transaction delivers one packet into the intake buffer, or is refused when cut short or when SPIRDY is low. -/
  | spiWrite (bytes : List Byte)
  /-- SPI_READ (R205): A READ transaction clocks out the head reply, which leaves the buffer only when it has been sent whole. -/
  | spiRead (count : Nat)
  /-- SPI_STATUS (R201): A STATUS transaction returns CM_PORT_STATUS. -/
  | spiStatus
  /-- SPI_UNKNOWN_TRANSFER (R201): A transaction with an unknown transfer code is ignored and answered with 0x00 bytes. -/
  | spiUnknownTransfer (code : Byte) (count : Nat)
  /-- VERIFICATION_COMPLETE (R214): Signature verification of a command finishes, and the quorum and counter checks follow in arrival order. -/
  | verificationComplete (ring : Bool) (tag : BitVec 7)
  /-- PART_TIMEOUT (R209): The last part of a split class 3 command has not arrived 1 s after the first part, and the command is refused with QUORUM_SHORT. -/
  | partTimeout (ring : Bool) (tag : BitVec 7)
  /-- REPLY_SIGNED (R233): Signing of a reply completes, and the reply is queued. -/
  | replySigned (ring : Bool) (tag : BitVec 7)
  /-- REPLY_QUEUED (R205): Reply space is freed, and a final reply that was waiting for room is queued. -/
  | replyQueued
  /-- FORWARD_TIMEOUT (R219): No reply arrives at the root within 1 s, and it replies TARGET_UNREACHABLE. -/
  | forwardTimeout (tag : BitVec 7)
  /-- RESET_TAKES_EFFECT (R218): The reply to RESET leaves the buffer, or 1 ms passes, and the reset occurs, deferred until any Cooling ends. -/
  | resetTakesEffect
  /-- NOP (R210): Class 0 NOP echoes its payload. -/
  | nopCmd
  /-- IDENTIFY (R210): IDENTIFY returns the unique ID, variant, stepping, state, addresses and owner fingerprint. -/
  | identify
  /-- READ_REGS (R346): READ_REGS returns a range of register words, sampling grouped words in one tick. -/
  | readRegs
  /-- CK_TIME_LO_READ (R325): A read of CK_TIME_LO captures the upper half of the time base for CK_TIME_HI. -/
  | ckTimeLoRead
  /-- LOG_READ (R186): LOG_READ returns shards with read status, or window index entries. -/
  | logRead (found : List BlockRead := [])
  /-- GET_CERT (R232): GET_CERT returns part of a certificate of the device chain. -/
  | getCert
  /-- TIME_READ (R210): TIME_READ returns the time stamp and time-base flags. -/
  | timeRead
  /-- QUEUE_STATUS (R210): QUEUE_STATUS returns the port status and tag maps. -/
  | queueStatus
  /-- SKV1200_ID (R28): The SKV1200 identity read returns the model, rail count and stepping. -/
  | skv1200Id
  /-- SKV1200_STATUS (R28): The SKV1200 status read returns EN, latch, PFW and Running bits. -/
  | skv1200Status
  /-- SKV1200_RAIL (R28): The SKV1200 rail read returns a reading in mV with the comparator outputs. -/
  | skv1200Rail
  /-- SKV1200_FIRST_FAULT (R196): Opcode 0x31 returns the 16-byte bisque record. -/
  | skv1200FirstFault
  /-- ON (R148): The ON command raises an on request, handled by state, fault latch and T_OFFMIN. -/
  | onCmd
  /-- OFF (R148): The OFF command raises an off request, starting C0 or removing a pending on request. -/
  | offCmd
  /-- CLEAR (R154): CLEAR resets the fault latch in Ready when no T or H cause is active, releasing PFW and TRIPO. -/
  | clearCmd
  /-- MARGIN (R164): The class 1 margin command applies a margin level in Running on the trim or PMBus path. -/
  | marginCmd
  /-- PMBUS_SEQUENCE_END (R162): The PMBus margin sequence ends, setting pmb_result and releasing the MARGIN step or the final reply. -/
  | pmbusSequenceEnd (rail : BitVec 6)
  /-- STANDBY (R47): STANDBY enters Standby from Ready when its conditions are met, powering down the logic and log dies. -/
  | standbyCmd
  /-- RESET (R218): RESET replies OK in Ready and schedules a device reset. -/
  | resetCmd
  /-- DRAIN (R193): DRAIN advances LG_FA_DRAINED and writes a drain shard. -/
  | drainCmd
  /-- TIME_SET (R312): TIME_SET steps the time base forward to its target. -/
  | timeSet
  /-- WRITE_REGS_CLASS1 (R348): Class 1 WRITE_REGS writes RW1 and W1C fields after judging every word. -/
  | writeRegsClass1 (confirm : Confirm)
  /-- REGISTER_WRITE (R348): A write to a register with no behaviour of its own is judged and applied; `confirm`: the sense die
  confirms it (R242). -/
  | registerWrite (cls : BitVec 2) (addr value : Word) (confirm : Bool := true)
  /-- PROGRAM_LOAD (R126): PROGRAM_LOAD checks and writes a run of steps to the Kiln store, updating the digests. -/
  | programLoad (confirm : Confirm)
  /-- TABLE_LOAD (R141): TABLE_LOAD loads a cooling table that is not an H table. -/
  | tableLoad (confirm : Confirm)
  /-- BISQUE_CLEAR (R196): BISQUE_CLEAR empties the bisque and first-fault records and increments clear_count. -/
  | bisqueClear
  /-- WRITE_REGS_CLASS2 (R348): Class 2 WRITE_REGS writes RW2 fields and updates the image digest. -/
  | writeRegsClass2 (confirm : Confirm)
  /-- TAKE_OWNERSHIP (R235): TAKE_OWNERSHIP writes slot 0 and the owner fingerprint inside the ownership window. -/
  | takeOwnership (confirm : Confirm)
  /-- KEY_SLOT_WRITE (R236): KEY_SLOT_WRITE fills a key slot and raises its held counter. -/
  | keySlotWrite (confirm : Confirm)
  /-- KEY_SLOT_CLEAR (R236): KEY_SLOT_CLEAR empties a key slot, keeping its counter. -/
  | keySlotClear (confirm : Confirm)
  /-- QUORUM_SET (R236): QUORUM_SET sets m and the eligible mask. -/
  | quorumSet (confirm : Confirm)
  /-- SAGGAR_WRITE (R240): SAGGAR_WRITE writes Saggar-held fields through the confirmation path. -/
  | saggarWrite (confirm : Confirm)
  /-- SAGGAR_PROGRAM_LOAD (R246): SAGGAR_PROGRAM_LOAD checks and loads steps into the Saggar store. -/
  | saggarProgramLoad (confirm : Confirm)
  /-- HTABLE_LOAD (R141): HTABLE_LOAD loads C6 or C1 to C5 with their hard attribute. -/
  | htableLoad (confirm : Confirm)
  /-- CALIBRATION_WRITE (R173): CALIBRATION_WRITE replaces the calibration set in Ready and starts settle holds. -/
  | calibrationWrite (confirm : Confirm)
  /-- WRITE_REGS_CLASS3 (R348): Class 3 WRITE_REGS writes RW3 fields outside the partition. -/
  | writeRegsClass3 (confirm : Confirm)
  /-- IMAGE_LOAD (R276): IMAGE_LOAD collects image parts, checks them after the last part and puts the image in force. -/
  | imageLoad (confirm : Confirm)
  /-- DECOMMISSION (R237): DECOMMISSION clears the key slots and ownership, keeping counters and configuration. -/
  | decommission (confirm : Confirm)
  /-- SNAPSHOT (R181): At each snapshot instant a snapshot shard is captured into the capture buffer. -/
  | snapshot
  /-- SHARD_COMMIT (R183): A shard write completes both phases, and the region's position and seq are updated. -/
  | shardCommit
  /-- ARCHIVE_COPY (R188): The archive copier completes one copy and starts the next pending one. -/
  | archiveCopy (corrected : Nat := 0) (lost : List (BitVec 6) := [])
  /-- SCRUB_READ (R197): The scrub reads the next MRAM block, correcting and rewriting errors. -/
  | scrubRead (found : BlockRead)
  /-- WHOLE_SECOND (R308): The time stamp reaches a whole second: the seconds count is loaded and time_floor written. -/
  | wholeSecond
  /-- FQ_POP (R145): A write of 1 to CT_FQ_STATUS.pop removes the head of the fault queue. -/
  | fqPop
  /-- FAIL_BIT_CLEAR (R115): A class 1 write of 1 to KL_FAIL0 or KL_FAIL1 clears rail fail bits. -/
  | failBitClear (high : Bool) (bits : Word)
  /-- START_NOW (R165): A write of 1 to MG_SWEEP_CONTROL.start_now starts a sweep cycle. -/
  | startNow
  /-- SWEEP_STOP (R169): A write of 1 to MG_SWEEP_CONTROL.stop aborts the sweep with result 0x4. -/
  | sweepStop
  /-- SWEEP_CYCLE_START (R165): A scheduled sweep cycle becomes due. -/
  | sweepCycleStart
  /-- SWEEP_RAIL_START (R167): The next eligible rail's sweep starts after its duty wait, with the guard checked. -/
  | sweepRailStart
  /-- SWEEP_POINT (R166): A sweep point's dwell ends, and the next code is applied. -/
  | sweepPoint
  /-- SWEEP_SAMPLE (R166): Every 10 µs of a point a conversion of the rail and its current is requested. -/
  | sweepSample
  /-- LINK_UP (R250): A receiver locks and receives 16 /I2/, and the link is up. -/
  | linkUp (port : Link)
  /-- LINK_DOWN (R263): A link is declared down, and the device wraps. -/
  | linkDown (port : Link)
  /-- UNWRAP (R263): A link up for 1 ms unwraps at the next frame boundary. -/
  | unwrap (port : Link)
  /-- HORN (R255): An arriving /H/ is forwarded and received as cause 0x15 when admitted. -/
  | horn (port : Link) (orig : BitVec 12) (seq : BitVec 4)
  /-- COMMAND (R219): A COMMAND frame at its destination enters that device's pipeline. -/
  | commandFrame (f : Arrival)
  /-- REPLY (R219): A REPLY frame reaches the root and is queued under the held SPI tag. -/
  | replyFrame (f : Arrival)
  /-- BROADCAST (R219): A BROADCAST frame is executed at each admitted device without reply. -/
  | broadcastFrame (f : Arrival)
  /-- TIME (R311): A ring TIME frame gives a reference event and may trigger JOIN or re-admission. -/
  | timeFrame (f : Arrival)
  /-- TIME_SEND (R313): Every 1 ms the root sends a TIME frame. -/
  | timeSend
  /-- TOKEN (R257): A TOKEN is taken: an address is claimed, ENROL sent and the token forwarded. -/
  | tokenFrame (f : Arrival)
  /-- ENUMERATE (R257): The root launches enumeration on Ready, first link up or GL_ENUM_CTRL.reenumerate. -/
  | enumerate
  /-- ENROL (R257): The root receives a device's ENROL. -/
  | enrolFrame (f : Arrival)
  /-- ENROL_WAIT_END (R257): After the token returns, the root resolves duplicates and sends CLOSURE. -/
  | enrolWaitEnd
  /-- CLOSURE (R258): CLOSURE gives each device its final address and admission. -/
  | closureFrame (f : Arrival)
  /-- FORGET (R258): A write of 1 to GL_ENUM_CTRL.forget drops reservations of absent devices. -/
  | forget
  /-- JOIN (R259): The root assigns an address to a joining device and broadcasts ADMIT. -/
  | joinFrame (f : Arrival)
  /-- JOIN_RESEND (R259): An unadmitted device resends JOIN after 100 ms. -/
  | joinResend
  /-- ADMIT (R259): ADMIT updates the admitted and fenced maps. -/
  | admitFrame (f : Arrival)
  /-- CONFLICT (R262): CONFLICT puts the device into root conflict. -/
  | conflictFrame (f : Arrival)
  /-- ISOLATED (R263): No TIME for 10 ms makes the device isolated. -/
  | isolated
  /-- HEARTBEAT_SEND (R268): Every 100 µs a co-supervising device sends a heartbeat. -/
  | heartbeatSend
  /-- HEARTBEAT (R268): A heartbeat from the twin is received and its release mask compared. -/
  | heartbeatFrame (f : Arrival)
  /-- TWIN_LOST (R268): 350 µs without a heartbeat raises cause 0x14, and the device becomes solo. -/
  | twinLost
  /-- SEEK (R272): A serving device answers SEEK with CHALLENGE or REFUSE; `alone`: its sender is alone, not passive (R274). -/
  | seekFrame (f : Arrival) (alone : Bool := false)
  /-- SEEK_RESEND (R271): Every 10 ms a passive device resends SEEK. -/
  | seekResend
  /-- TWIN_SEEK_TIMEOUT (R271): No twin answers within 100 ms, and a passive device founds when all EN lines are low. -/
  | twinSeekTimeout
  /-- CHALLENGE (R272): The joining device answers CHALLENGE with PROOF. -/
  | challengeFrame (f : Arrival)
  /-- PROOF (R272): The serving device checks PROOF and sends SYNC or REFUSE. -/
  | proofFrame (f : Arrival)
  /-- REFUSE (R272): REFUSE ends a pairing attempt with a reason. -/
  | twinRefuse (f : Arrival)
  /-- SYNC (R272): The joining device checks the EN lines against SYNC and sends READY or ABORT. -/
  | twinSync (f : Arrival)
  /-- READY (R272): The serving device sends COMMIT and enters co-supervision. -/
  | twinReady (f : Arrival)
  /-- COMMIT (R272): The joining device takes control of the EN lines and the state of SYNC in one tick. -/
  | twinCommit (f : Arrival)
  /-- ABORT (R273): ABORT ends the handover, and the devices return to solo or passive. -/
  | twinAbort (f : Arrival)
  /-- HANDOVER_TIMEOUT (R273): READY or COMMIT does not arrive within 2 ms, ending the handover. -/
  | handoverTimeout
  /-- REQUEST (R269): A request mirrored from the twin is handled by Table 05.8. -/
  | twinRequest (f : Arrival)
  /-- SHUTDOWN (R269): A SHUTDOWN from the twin is received as cause 0x15. -/
  | twinShutdown (f : Arrival)
  /-- TW_TRANSACTION_END (R286): A two-wire transaction ends with a result, which may end its sequence. -/
  | twTransactionEnd (port : BitVec 2) (result : BitVec 4) (data : BitVec 16) (got : Byte := 0)
  /-- TW_BUS_IDLE (R282): The bus becomes idle, and a queued transaction or retry starts. -/
  | twBusIdle (port : BitVec 2)
  /-- SCL_TIMEOUT (R290): SCL low for 25 ms to 35 ms ends the transaction with result 0x4. -/
  | sclTimeout (port : BitVec 2)
  /-- SDA_STUCK (R291): SDA low for 25 ms to 35 ms on an idle port triggers a bus clear. -/
  | sdaStuck (port : BitVec 2)
  /-- BUS_CLEAR_END (R292): A bus clear ends with STOP, or fails after nine clocks. -/
  | busClearEnd (port : BitVec 2) (stop : Bool)
  /-- TW_REQUEST (R296): SDA low for 2.0 µs with SCL high is recognised as an in-band request, and its answer begins. -/
  | twRequest (port : BitVec 2)
  /-- TW_REQUEST_ANSWER_END (R297): The request answer ends, and its address is recorded or rejected. -/
  | twRequestAnswerEnd (port : BitVec 2) (addr : BitVec 7) (abandoned : Bool)
  /-- TW_PORT_RESET (R293): A write of 1 to TW_CTRLp.reset abandons, resets and clears the port. -/
  | twPortReset (port : BitVec 2)
  /-- TW_BUS_CLEAR (R293): A write of 1 to TW_CTRLp.clear starts a bus clear once the port is idle. -/
  | twBusClear (port : BitVec 2)
  /-- REFCLK_LOST (R304): REFCLK is declared lost, and the core switches to the RC oscillator for a re-lock. -/
  | refclkLost
  /-- REFCLK_BACK (R302): REFCLK has been valid for 10 ms, and a re-lock to REFCLK begins. -/
  | refclkBack
  /-- PLL_LOCK (R304): The PLL locks, and the core switches back to it. -/
  | pllLock
  /-- RELOCK_FAIL (R305): No lock 500 µs into a re-lock raises cause 0x13. -/
  | relockFail
  /-- RELOCK_RETRY (R305): Every 10 ms a further re-lock is attempted. -/
  | relockRetry
  /-- RC_RATIO_MEASURE (R303): Every 1 ms the logic-die RC is measured against REFCLK. -/
  | rcRatioMeasure (ratio : Nat)
  /-- X32_CRYSTAL_FAIL (R300): The crystal shows no edge for 122 µs, and the oscillator returns to its RC. -/
  | x32CrystalFail
  /-- TSYNC_EDGE (R311): A TSYNC edge gives a reference event that steers the time base. -/
  | tsyncEdge
  /-- HOLDOVER_ENTRY (R311): No valid reference event for 2.5 s or 10 ms puts the time base in holdover. -/
  | holdoverEntry
  /-- CROSSING_ERROR (R318): Eight disagreeing sample pairs report a crossing error. -/
  | crossingError (crossing : BitVec 4)
  /-- CLOCK_STOPPED (R321): A crossing watchdog sees no source clock and reports CLOCK_STOPPED. -/
  | clockStopped (crossing : BitVec 4)
  /-- CK_OUT_PHASE_WRITE (R316): A write to CK_OUTn_PHASE adds pending phase steps. -/
  | ckOutPhaseWrite (out : BitVec 2) (steps : Byte)
  /-- PERIOD_START (R326): A PWM counter wraps to 0, with LOAD_ALL transfers and PWMSO. -/
  | periodStart (c : BitVec 4)
  /-- COMPARE_MATCH (R327): The counter reaches the compare value, and the raw signal falls. -/
  | compareMatch (c : BitVec 4)
  /-- DEAD_TIME_END (R328): A source has been high for dt ticks, and its complementary output rises. -/
  | deadTimeEnd (c : BitVec 4)
  /-- PWM_TRIGGER_COMPARE (R331): The counter equals a trigger compare, which fires a converter trigger. -/
  | pwmTriggerCompare (c : BitVec 4) (j : BitVec 1)
  /-- PWMSO_END (R332): The PWMSO pulse width elapses, and PWMSO falls. -/
  | pwmsoEnd
  /-- PWMSI_EDGE (R333): A PWMSI edge loads the counters of channels with si_en set. -/
  | pwmsiEdge
  /-- CHANNEL_START (R329): A PW_RUN bit changes from 0 to 1, copying shadows and starting the counter. -/
  | channelStart (c : BitVec 4)
  /-- CHANNEL_STOP (R329): A PW_RUN bit changes from 1 to 0, stopping the channel at its trip level. -/
  | channelStop (c : BitVec 4)
  /-- LOAD_ALL (R330): LOAD_ALL is set, so that every channel transfers its shadows. -/
  | loadAll
  /-- PWM_TRIP (R334): A named trip source asserts, latching the channel's trip. -/
  | pwmTrip (source : BitVec 4)
  /-- TRIP_LATCH_CLEAR (R336): A write of 1 to PW_TRIP_STATUS clears trip latches, or is refused with TRIP_PERSIST. -/
  | tripLatchClear (bits : BitVec 16)
  /-- TRIPI_SEEN_CLEAR (R337): A write of 1 clears PW_TRIP_SRC.tripi_seen. -/
  | tripiSeenClear (bits : BitVec 4)
  /-- PB_PRESS_LONGER_THAN_50_MS (R48): In Standby with wake_pb set, a PB press that has lasted longer than 50 ms wakes the device into the wake path. -/
  | pbPressLongerThan50Ms
  /-- PB_PRESS (R151): PB is found pressed at a 32.768 kHz edge while the detector is idle, and the detector enters pressed with held set to 1. -/
  | pbPress
  /-- VHOLD_AND_VIN_MEASUREMENT (R51): Every 1 ms from stage 5 on, the device measures VHOLD and VIN, updates PM_SUPPLY and sets or clears hold_ready. -/
  | vholdAndVinMeasurement (vhold vin : Nat) (seen : Seen := { })
  /-- IMAGE_COLLECTION_TIMEOUT (R276): An IMAGE_LOAD collection that is left more than 1 s without its next part is abandoned. -/
  | imageCollectionTimeout
  /-- RESET_AFTER_IMAGE_LOAD (R276): In Starting after a start-up failure, the device resets with cause 0x41 1 ms after the final reply of an accepted IMAGE_LOAD. -/
  | resetAfterImageLoad
  /-- PLL_LOSS_OF_LOCK (R304): The PLL reports loss of lock with its reference present, and a re-lock begins with the core switched to the logic-die RC. -/
  | pllLossOfLock
  /-- CROSSING_RESUMES (R321): A crossing reported CLOCK_STOPPED resumes passing values once its source clock has run for 16 source cycles. -/
  | crossingResumes (crossing : BitVec 4)
  /-- RECEIVER_LOCK (R250): A Garura receiver sees 1,024 consecutive symbols with comma alignment and no code violation, locks, and its port switches from sending /I1/ to sending /I2/. -/
  | receiverLock (port : Link)
  /-- UNKNOWN_FRAME (R251): A frame of a kind not in Table 10.4 reaches its destination, which discards it and increments the port's discarded count. -/
  | unknownFrame (f : Arrival)
  deriving DecidableEq, Repr

end Sys2Proof
end

