-- ==== Sys2Proof/Decode.lean ====
section
/-! DEFINITION. Sys2Proof/Decode.lean: commands that a word spells. No row of the opcode table gives its command bits (log
entry 4). -/

set_option Elab.async false

namespace Sys2Proof

/-- The command that a word of `nbits` bits spells by the opcode table: none, since no row of the table gives bits (log
entry 4). -/
def decodeTableWord (_nbits _w : Nat) : Option Instr := none

end Sys2Proof
end

