-- ==== Sys2Proof/Config.lean ====
section
/-! DEFINITION. Sys2Proof/Config.lean: what the spec leaves to an implementation or to mathematics outside it, as constants
without a body. Nothing can evaluate them, so every claim holds for every choice of them (log entries 7, 8, 10). -/

set_option Elab.async false

namespace Sys2Proof.Config

/-- Ed25519 verification of RFC 8032 5.1 (R223): key, message, signature (log entry 10). -/
opaque edVerify : BitVec 256 → BitVec 512 → List Byte → Bool
/-- Whether 32 bytes are a valid Ed25519 public key encoding (Table 09.4, log entry 10). -/
opaque edKeyValid : BitVec 256 → Bool
/-- ML-DSA-65 verification of FIPS 204 (R223): key, message, signature (log entry 10). -/
opaque mlVerify : List Byte → BitVec 512 → List Byte → Bool
/-- The device's Ed25519 signature (R231, R233) over a reply digest (log entry 10). -/
opaque edSign : BitVec 512 → BitVec 512
/-- The device's hedged ML-DSA-65 signature over a reply digest, 3,309 bytes; the second argument is its fresh randomness
(log entries 7 and 10). -/
opaque mlSign : BitVec 512 → Nat → BitVec 26472
/-- The device's identity public keys (R231): Ed25519 for 0, ML-DSA-65 for 1 (log entry 10). -/
opaque identityKey : Nat → List Byte
/-- What R232 leaves open of device certificate i, each as a DER value: other subject attributes (part 0), serial number, issuer,
notBefore and extensions (log entry 10). -/
opaque certPart : Nat → Nat → List Byte
/-- The signature with which the intermediate signs the body of device certificate i (R232, log entry 10). -/
opaque issuerSign : Nat → List Byte → List Byte
/-- The certificates of the intermediate and the root (R232, log entry 10). -/
opaque issuerCert : Nat → List Byte
/-- A nonce from the TRNG (Table 10.10, log entry 7). -/
opaque nonce : Nat → BitVec 128
/-- A free byte: the content of an MRAM position never written (log entry 7). -/
opaque emptyMram : Nat → Nat → Byte
/-- A free byte: what a read delivers of an uncorrectable MRAM word (R186, log entry 7). -/
opaque lostMram : Nat → Nat → Byte
/-- Whether a quotient that is not whole is taken to the next whole number or to the one below it, where the spec states a
result in whole units and no rounding (log entry 7). -/
opaque roundUp : Int → Nat → Bool
/-- The die that each of the four internal temperature sensors is on: 0 sense, 1 logic, 2 log (R366, log entry 32). -/
opaque sensorDie : Fin 4 → Fin 3
/-- A free number, where the spec states no result (log entry 7). -/
opaque freeInt : Nat → Int
/-- A free answer, where the spec leaves one of two outcomes open (log entry 7). -/
opaque freeBit : Nat → Bool
/-- The image digest the factory leaves in the Saggar store (R242, log entry 8). -/
opaque factoryImage : Digest

end Sys2Proof.Config
end

