-- ==== Sys2Proof/Machine/Hash.lean ====
section
/-! DEFINITION. Sys2Proof/Machine/Hash.lean: the hash functions that the spec names, SHA3-256 and SHA-512, as FIPS 202 and FIPS
180-4 define them (log entry 10). -/

set_option Elab.async false

namespace Sys2Proof.Machine

/-- k bytes of a number, least significant first (R6). -/
def leBytes : Nat → Nat → List Byte
  | 0, _ => []
  | k + 1, n => BitVec.ofNat 8 n :: leBytes k (n / 256)

/-- A digest's 32 bytes, byte 0 in bits 7:0 of word 0. -/
def digestBytes (d : Digest) : List Byte := leBytes 32 d.toNat

/-- A lane of Keccak or a word of SHA-512, below 2^64. -/
abbrev Lane := Nat

/-- Eight bytes as a lane, the least significant first. -/
def laneLe (b : List Byte) : Lane := b.foldr (fun x n => x.toNat + 256 * n) 0

/-- Eight bytes as a word, the most significant first. -/
def laneBe (b : List Byte) : Lane := b.foldl (fun n x => 256 * n + x.toNat) 0

/-- A lane rotated left by r places. -/
def Lane.rol (x : Lane) (r : Nat) : Lane := ((x <<< r) % 0x10000000000000000) ||| (x >>> (64 - r))

/-- A lane rotated right by r places. -/
def Lane.ror (x : Lane) (r : Nat) : Lane := Lane.rol x (64 - r)

/-- The complement of a lane. -/
def Lane.not (x : Lane) : Lane := x ^^^ 0xFFFFFFFFFFFFFFFF

/-- Piece i of k bytes of a list. -/
def piece (k i : Nat) (l : List Byte) : List Byte := (l.drop (k * i)).take k

/-! ## SHA3-256 -/

/-- Round constants of Keccak-f[1600]. -/
def keccakRc : List Lane := [
  0x1, 0x8082, 0x800000000000808A, 0x8000000080008000,
  0x808B, 0x80000001, 0x8000000080008081, 0x8000000000008009,
  0x8A, 0x88, 0x80008009, 0x8000000A,
  0x8000808B, 0x800000000000008B, 0x8000000000008089, 0x8000000000008003,
  0x8000000000008002, 0x8000000000000080, 0x800A, 0x800000008000000A,
  0x8000000080008081, 0x8000000000008080, 0x80000001, 0x8000000080008008]

/-- Rotations of lane x + 5y. -/
def keccakRot : List Nat := [
  0, 1, 62, 28, 27, 36, 44, 6, 55, 20, 3, 10, 43, 25, 39, 41, 45, 15, 21, 8, 18, 2, 61, 56, 14]

/-- Step θ: each lane takes the parities of two columns. -/
def keccakTheta (a : List Lane) : List Lane :=
  let c := (List.range 5).map (fun x => a.getD x 0 ^^^ a.getD (x + 5) 0 ^^^ a.getD (x + 10) 0 ^^^ a.getD (x + 15) 0 ^^^ a.getD (x + 20) 0)
  (List.range 25).map (fun i => a.getD i 0 ^^^ c.getD ((i + 4) % 5) 0 ^^^ Lane.rol (c.getD ((i + 1) % 5) 0) 1)

/-- Steps ρ and π: lanes rotated and moved. -/
def keccakRhoPi (a : List Lane) : List Lane :=
  (List.range 25).map (fun i =>
    let j := (i % 5 + 3 * (i / 5)) % 5 + 5 * (i % 5)
    Lane.rol (a.getD j 0) (keccakRot.getD j 0))

/-- Step χ. -/
def keccakChi (a : List Lane) : List Lane :=
  (List.range 25).map (fun i =>
    let y := 5 * (i / 5)
    a.getD i 0 ^^^ (Lane.not (a.getD (y + (i + 1) % 5) 0) &&& a.getD (y + (i + 2) % 5) 0))

/-- Keccak-f[1600]: 24 rounds, each ending with its constant in lane 0. -/
def keccakF (a : List Lane) : List Lane :=
  keccakRc.foldl (fun b rc =>
    match keccakChi (keccakRhoPi (keccakTheta b)) with
    | x :: rest => (x ^^^ rc) :: rest
    | [] => []) a

/-- The padding of SHA3 to a multiple of 136 bytes. -/
def sha3Pad (n : Nat) : List Byte :=
  let k := 136 - n % 136
  if k = 1 then [0x86] else 0x06 :: List.replicate (k - 2) 0 ++ [0x80]

/-- A block of 136 bytes joins the state. -/
def keccakAbsorb (a : List Lane) (b : List Byte) : List Lane :=
  keccakF ((List.range 25).map (fun i => if i < 17 then a.getD i 0 ^^^ laneLe (piece 8 i b) else a.getD i 0))

/-- SHA3-256 of bytes, digest byte i in bits 8i + 7 to 8i. -/
@[irreducible] def sha3 (l : List Byte) : Digest :=
  let m := l ++ sha3Pad l.length
  let a := (List.range (m.length / 136)).foldl (fun a i => keccakAbsorb a (piece 136 i m)) (List.replicate 25 0)
  BitVec.ofNat 256 ((a.take 4).foldr (fun x n => x + 0x10000000000000000 * n) 0)

/-! ## SHA-512 -/

/-- Initial value of SHA-512. -/
def sha512Init : List Lane := [
  0x6A09E667F3BCC908, 0xBB67AE8584CAA73B, 0x3C6EF372FE94F82B, 0xA54FF53A5F1D36F1,
  0x510E527FADE682D1, 0x9B05688C2B3E6C1F, 0x1F83D9ABFB41BD6B, 0x5BE0CD19137E2179]

/-- Round constants of SHA-512. -/
def sha512K : List Lane := [
  0x428A2F98D728AE22, 0x7137449123EF65CD, 0xB5C0FBCFEC4D3B2F, 0xE9B5DBA58189DBBC,
  0x3956C25BF348B538, 0x59F111F1B605D019, 0x923F82A4AF194F9B, 0xAB1C5ED5DA6D8118,
  0xD807AA98A3030242, 0x12835B0145706FBE, 0x243185BE4EE4B28C, 0x550C7DC3D5FFB4E2,
  0x72BE5D74F27B896F, 0x80DEB1FE3B1696B1, 0x9BDC06A725C71235, 0xC19BF174CF692694,
  0xE49B69C19EF14AD2, 0xEFBE4786384F25E3, 0xFC19DC68B8CD5B5, 0x240CA1CC77AC9C65,
  0x2DE92C6F592B0275, 0x4A7484AA6EA6E483, 0x5CB0A9DCBD41FBD4, 0x76F988DA831153B5,
  0x983E5152EE66DFAB, 0xA831C66D2DB43210, 0xB00327C898FB213F, 0xBF597FC7BEEF0EE4,
  0xC6E00BF33DA88FC2, 0xD5A79147930AA725, 0x6CA6351E003826F, 0x142929670A0E6E70,
  0x27B70A8546D22FFC, 0x2E1B21385C26C926, 0x4D2C6DFC5AC42AED, 0x53380D139D95B3DF,
  0x650A73548BAF63DE, 0x766A0ABB3C77B2A8, 0x81C2C92E47EDAEE6, 0x92722C851482353B,
  0xA2BFE8A14CF10364, 0xA81A664BBC423001, 0xC24B8B70D0F89791, 0xC76C51A30654BE30,
  0xD192E819D6EF5218, 0xD69906245565A910, 0xF40E35855771202A, 0x106AA07032BBD1B8,
  0x19A4C116B8D2D0C8, 0x1E376C085141AB53, 0x2748774CDF8EEB99, 0x34B0BCB5E19B48A8,
  0x391C0CB3C5C95A63, 0x4ED8AA4AE3418ACB, 0x5B9CCA4F7763E373, 0x682E6FF3D6B2B8A3,
  0x748F82EE5DEFB2FC, 0x78A5636F43172F60, 0x84C87814A1F0AB72, 0x8CC702081A6439EC,
  0x90BEFFFA23631E28, 0xA4506CEBDE82BDE9, 0xBEF9A3F7B2C67915, 0xC67178F2E372532B,
  0xCA273ECEEA26619C, 0xD186B8C721C0C207, 0xEADA7DD6CDE0EB1E, 0xF57D4F7FEE6ED178,
  0x6F067AA72176FBA, 0xA637DC5A2C898A6, 0x113F9804BEF90DAE, 0x1B710B35131C471B,
  0x28DB77F523047D84, 0x32CAAB7B40C72493, 0x3C9EBE0A15C9BEBC, 0x431D67C49C100D4C,
  0x4CC5D4BECB3E42B6, 0x597F299CFC657E2A, 0x5FCB6FAB3AD6FAEC, 0x6C44198C4A475817]

/-- The padding of SHA-512 to a multiple of 128 bytes. -/
def sha512Pad (n : Nat) : List Byte :=
  let k := (239 - n % 128) % 128
  ([0x80] : List Byte) ++ List.replicate k (0 : Byte) ++ ((List.range 16).map (fun i => BitVec.ofNat 8 ((8 * n) >>> (8 * (15 - i)))))

/-- The next word of the message schedule; the sixteen before it stand newest first. -/
def sha512Next (w : List Lane) : Lane :=
  let a := w.getD 14 0
  let b := w.getD 1 0
  let s0 := Lane.ror a 1 ^^^ Lane.ror a 8 ^^^ (a >>> 7)
  let s1 := Lane.ror b 19 ^^^ Lane.ror b 61 ^^^ (b >>> 6)
  (w.getD 15 0 + s0 + w.getD 6 0 + s1) % 0x10000000000000000

/-- One round: the eight working words after word w under constant k. -/
def sha512Round (v : List Lane) (k w : Lane) : List Lane :=
  match v with
  | [a, b, c, d, e, f, g, h] =>
    let s1 := Lane.ror e 14 ^^^ Lane.ror e 18 ^^^ Lane.ror e 41
    let t1 := h + s1 + ((e &&& f) ^^^ (Lane.not e &&& g)) + k + w
    let s0 := Lane.ror a 28 ^^^ Lane.ror a 34 ^^^ Lane.ror a 39
    let t2 := s0 + ((a &&& b) ^^^ (a &&& c) ^^^ (b &&& c))
    [(t1 + t2) % 0x10000000000000000, a, b, c, (d + t1) % 0x10000000000000000, e, f, g]
  | _ => v

/-- A block of 128 bytes joins the value. -/
def sha512Block (h : List Lane) (b : List Byte) : List Lane :=
  let first := (List.range 16).map (fun i => laneBe (piece 8 i b))
  let step := fun (x : List Lane × List Lane × Nat) (k : Lane) =>
    let w := if x.2.2 < 16 then first.getD x.2.2 0 else sha512Next x.2.1
    (sha512Round x.1 k w, (w :: x.2.1).take 16, x.2.2 + 1)
  List.zipWith (fun x y => (x + y) % 0x10000000000000000) h (sha512K.foldl step (h, [], 0)).1

/-- SHA-512 of bytes, digest byte i in bits 8i + 7 to 8i. -/
@[irreducible] def sha512 (l : List Byte) : BitVec 512 :=
  let m := l ++ sha512Pad l.length
  let h := (List.range (m.length / 128)).foldl (fun h i => sha512Block h (piece 128 i m)) sha512Init
  let bytes := h.flatMap (fun x => (List.range 8).map (fun i => BitVec.ofNat 8 (x >>> (8 * (7 - i)))))
  BitVec.ofNat 512 (bytes.foldr (fun (x : Byte) n => x.toNat + 256 * n) 0)

end Sys2Proof.Machine
end

