-- ==== Sys2Proof/Machine/State.lean ====
section
/-! DEFINITION. Sys2Proof/Machine/State.lean: the state of the SKV6400 as plain data, block by block, and the state after
the first power-on. Ticks are core ticks of 5 ns counted since power-on; "due" fields hold the tick at which a timer ends
(log entry 1). INVENTORY.md lists each piece with its rule and its reset value. -/

set_option Elab.async false

namespace Sys2Proof.Machine

/-- A sparse table: keys strictly rising, and no entry equal to what an unlisted key reads as. -/
abbrev Tab (α : Type) := List (Nat × α)

/-- Why the model would stop. No command of this hardware ends so; the constructor exists because the host's interface asks
for a type of faults. Nobody raises it; safe. -/
inductive Fault where
  /-- Raised by nobody. Safe. -/
  | none
  deriving DecidableEq, Repr

/-- Why the model would have no meaning for a command. -/
inductive Refusal where
  /-- Raised by Machine/Dispatch.lean for a row that has no meaning yet. Safe. -/
  | notModelled (mnemonic : String)
  deriving DecidableEq, Repr

/-- The eight device states (Table 01.3). -/
inductive DevState where
  | off | standby | starting | ready | firing | running | cooling | coppice
  deriving DecidableEq, Repr

/-! ## Clocks and time base (12) -/

/-- What the time base is doing (Table 12.13). -/
inductive TbMode where
  | free | tracking | slewing | holdover | stepPending | ahead
  deriving DecidableEq, Repr

/-- One clock output (R314 to R316). -/
structure ClkOut where
  /-- the divider runs and the output carries its format -/
  running : Bool := false
  /-- tick from which the divider counts: its start in stage 5, or the rising edge at which a new N took effect -/
  start : Nat := 0
  /-- tick from which the output carries its format, a divider boundary; and the end of the high phase in which it was stopped -/
  begins : Nat := 0
  ends : Nat := 0
  /-- the format it carried before that tick is differential -/
  diff : Bool := true
  /-- steps applied, modulo 64 × N -/
  position : Nat := 0
  /-- steps still to be applied -/
  pending : Int := 0
  /-- tick from which the pending steps are applied, one for each output period -/
  mark : Nat := 0
  deriving DecidableEq, Repr

/-- Clocks, PLL, time base and crossings. -/
structure Clk where
  /-- core ticks since power-on -/
  now : Nat := 0
  pllLocked : Bool := false
  /-- the core runs from the PLL (else from the logic-die RC) -/
  corePll : Bool := false
  pllRefRc : Bool := false
  refOk : Bool := false
  /-- the re-lock in progress is that to a REFCLK declared back -/
  refBack : Bool := false
  x32Xtal : Bool := false
  ratioValid : Bool := false
  /-- the last measured ratio of the logic-die RC to REFCLK (R303), in the unit of its measurement -/
  ratio : Nat := 0
  /-- CK_CFG.ref_sel as taken at stage 2 (R300) -/
  refSel : BitVec 2 := 0
  relockCount : Nat := 0
  gateCount : Nat := 0
  /-- tick at which the re-lock in progress began -/
  relock : Option Nat := none
  /-- tick of the next further attempt (R305) -/
  retryDue : Option Nat := none
  /-- the time stamp (R307) -/
  stamp : Nat := 0
  /-- the time base has been set since the logic die was powered; it holds 0 until then (R309) -/
  tbSet : Bool := false
  mode : TbMode := .free
  epochValid : Bool := false
  /-- 0 none, 1 TSYNC, 2 ring TIME -/
  following : BitVec 2 := 0
  /-- learnt rate in 0.01 ppm -/
  rate : Int := 0
  /-- frequency errors of the last events, newest first, at most 16, in 0.01 ppm -/
  errs : List Int := []
  /-- ticks still to be slewed, signed -/
  slewLeft : Int := 0
  /-- place in the 20,000 ticks between two instants of the slew, in the middle of which the rate has its own; and what the rate
  has still to adjust (R307, log entry 11) -/
  slot : Nat := 0
  rateAcc : Int := 0
  /-- ticks of the RC cycle in progress, while the core runs from the logic-die RC -/
  rcPhase : Nat := 0
  offset : Int := 0
  stepCount : Nat := 0
  jumpCount : Nat := 0
  ignored : Nat := 0
  holdovers : Nat := 0
  /-- tick of the last valid TSYNC edge since holdover, and how many valid edges ran on -/
  lastTsync : Option Nat := none
  tsyncRun : Nat := 0
  /-- tick of the last valid event -/
  lastEvent : Option Nat := none
  aonSeconds : Nat := 0
  aonPeriods : Nat := 0
  /-- tick up to which the always-on counts have been advanced -/
  aonAt : Nat := 0
  aonLoaded : Bool := false
  outs : List ClkOut := [{}, {}, {}, {}]
  xingErr : BitVec 16 := 0
  xingOvf : BitVec 16 := 0
  /-- crossings that report CLOCK_STOPPED and hold their last accepted value (R321) -/
  stopped : BitVec 16 := 0
  deriving DecidableEq, Repr

/-! ## Power and device state (01, 02) -/

/-- The record of a fault: cause, grade, source and detail (Table 05.23). -/
structure FaultRec where
  cause : Byte
  grade : BitVec 2
  source : Byte
  detail : Byte
  deriving DecidableEq, Repr

/-- A fault held until the next Ready (R48, R369). -/
structure HeldFault where
  what : FaultRec
  /-- time stamp from the always-on seconds count -/
  stamp : Nat
  /-- the table its cause selects, 0xFF where none -/
  table : Byte
  deriving DecidableEq, Repr

/-- What the always-on domain records at a collapse (R62): state code, hold_ready, outcome. -/
structure CollapseNote where
  state : BitVec 4
  holdReady : Bool
  outcome : BitVec 2
  deriving DecidableEq, Repr

/-- Power, start-up and device state. -/
structure Pm where
  state : DevState := .starting
  lastCause : Byte := 0
  faultLatch : Bool := false
  /-- PM cause of the pending on request -/
  onPending : Option Byte := none
  stage : Nat := 2
  failCode : Byte := 0
  readyTime : Nat := 0
  twjoin : Bool := false
  resetCause : BitVec 5 := 1
  vinAlive : Bool := true
  vinGood : Bool := true
  /-- tick at which VIN became good (R31) -/
  vinGoodAt : Nat := 0
  /-- VIN below 7.5 V since the last crossing of that level -/
  vinLow : Bool := false
  /-- stage 1 has done its work -/
  stage1Done : Bool := true
  stageEntry : Nat := 0
  origin : Nat := 0
  logicPowered : Bool := true
  vhold : Nat := 0
  vin : Nat := 0
  holdReady : Bool := false
  collapseCount : Nat := 0
  tornCount : Nat := 0
  holdReadyAt : Bool := false
  lastResult : BitVec 2 := 0
  stateAt : BitVec 4 := 0
  note : Option CollapseNote := none
  /-- a commit sequence is in progress; VIN fell below 4.0 V meanwhile -/
  committing : Bool := false
  offAfterCommit : Bool := false
  offMinDue : Option Nat := none
  wakeDue : Option Nat := none
  wakePath : Bool := false
  /-- the self-tests after a wake have not passed yet (R49) -/
  cryptoHeld : Bool := false
  /-- the host port answers (SPIRDY, R38): at entry to Ready, or by a start-up failure -/
  portUp : Bool := false
  /-- RESET replied: the tick of its effect at the latest (R218); an image was put in force in Starting: the tick of the reset (R276) -/
  resetDue : Option Nat := none
  imageReset : Option Nat := none
  /-- the crypto known-answer tests have failed (R243, Table 02.4) -/
  katFailed : Bool := false
  held : List HeldFault := []
  /-- the first grade T or H fault, or force-off, since the first-fault record became unreadable, with its time (R48, R369) -/
  heldFirst : Option (FaultRec × Nat) := none
  /-- a wake source was recognised with VIN below 8.2 V: the wake path begins at VIN good (R49) -/
  wakeHeld : Bool := false
  deriving DecidableEq, Repr

/-- Output pins that remove power or stop the stage (R12). -/
structure Out where
  /-- EN n asserted by the device (not pulled low) -/
  en : Rails := 0
  /-- the EN outputs are neither driven low nor taken in control (R35) -/
  passive : Bool := false
  enpu : Bool := false
  pfw : Bool := true
  tripo : Bool := true
  hrst : Bool := true
  twok : Bool := false
  deriving DecidableEq, Repr

/-- Input pins as the device last accepted them. -/
structure In where
  root : Bool := false
  twside : Bool := false
  twjoin : Bool := false
  mr : Bool := false
  onreq : Bool := false
  pb : Bool := false
  tripi : BitVec 4 := 0
  enHigh : Rails := 0
  /-- internal sensors above 130 °C (R366) -/
  overTemp : BitVec 4 := 0
  deriving DecidableEq, Repr

/-- The PB detector's modes (R151). -/
inductive PbMode where
  | idle | pressed | lockout
  deriving DecidableEq, Repr

/-- Physical controls and their counters (05). -/
structure Ctl where
  pbMode : PbMode := .lockout
  pbHeld : Nat := 0
  /-- tick at which the present press or release began -/
  pbAt : Nat := 0
  pbSinceStage1 : Bool := false
  mrSince : Option Nat := none
  hrstDue : Option Nat := none
  onreqShort : Nat := 0
  mrShort : Nat := 0
  pbShort : Nat := 0
  pbBetween : Nat := 0
  forceOffs : Nat := 0
  ignoredOn : Nat := 0
  warnCount : Nat := 0
  /-- the last on request: its tick and cause, with which on requests of the same tick are one (R147) -/
  lastOn : Option (Nat × Byte) := none
  deriving DecidableEq, Repr

/-! ## Sensing (03) -/

/-- Resolution status of a comparator (Table 02.5). -/
inductive Status where
  | unresolved | good | fault | failed
  deriving DecidableEq, Repr

/-- A ramp in progress (R75): the DAC's position, the step in ticks, and the tick of its next step. -/
structure Ramp where
  pos : Nat
  /-- it moves upward from its start code -/
  up : Bool
  div : Nat
  next : Nat
  /-- tick at which it was armed, and the engine that armed it -/
  armed : Nat
  engine : Nat
  deriving DecidableEq, Repr

/-- One window comparator. -/
structure Cmp where
  status : Status := .unresolved
  /-- its own decision, true for the fault side -/
  side : Bool := true
  /-- its delivered output (R70), true for the fault side -/
  out : Bool := true
  /-- arming of a UVF or UVW (R73) -/
  armed : Bool := false
  settle : Option Nat := none
  ramp : Option Ramp := none
  /-- PWMSYNC cycle: the tick at which its window opens, the tick at which it closes, since when it holds, and the end of
  the lockout after an overrun -/
  syncOpen : Option Nat := none
  syncClose : Option Nat := none
  syncSince : Nat := 0
  syncLock : Nat := 0
  /-- enable-event window: when it opens, and when it closes once open -/
  enOpen : Option Nat := none
  enClose : Option Nat := none
  tested : Bool := false
  skipped : Bool := false
  skipRun : Nat := 0
  deriving DecidableEq, Repr

/-- The latest reading of an input (Table 03.24), and the tick at which it completed. -/
structure Reading where
  code : BitVec 16 := 0
  seq : Byte := 0
  valid : Bool := false
  range : Bool := false
  time : Nat := 0
  deriving DecidableEq, Repr

/-- Whom a conversion serves (Table 03.16). -/
inductive ConvUser where
  /-- the free scan; `last` for the last entry of a pass -/
  | scan (last : Bool)
  | group (g i : Nat)
  | saggar
  | walker
  | sweep (request : Nat)
  deriving DecidableEq, Repr

/-- A conversion in progress. -/
structure Conv where
  input : Nat
  user : ConvUser
  due : Nat
  deriving DecidableEq, Repr

/-- A demanded conversion that waits for a converter: its input, for whom, and since when. -/
structure Demand where
  input : Nat
  user : ConvUser
  since : Nat
  deriving DecidableEq, Repr

/-- The free scan (R92). -/
structure Scan where
  running : Bool := false
  /-- list, interval and start of the pass in progress -/
  list : List Nat := []
  interval : Nat := 0
  start : Nat := 0
  /-- next entry to hand -/
  next : Nat := 0
  /-- the next pass was due before this one had handed its last entry -/
  overdue : Bool := false
  deriving DecidableEq, Repr

/-- A triggered group (R94 to R96). -/
structure Group where
  active : Bool := false
  /-- tick from which its entries may be sampled, and the latest allowed for the first ones -/
  open_ : Nat := 0
  limit : Nat := 0
  late : Bool := false
  next : Nat := 0
  flying : Nat := 0
  overrun : Nat := 0
  lateCount : Nat := 0
  done : Nat := 0
  deriving DecidableEq, Repr

/-- A triggered group's result (Table 03.38). -/
structure TrigResult where
  code : BitVec 16
  seq : Byte
  deriving DecidableEq, Repr

/-- Self-test (R83 to R88). -/
structure SelfTest where
  /-- source under test, its phase (1 to 4, 5 for the restore) and the tick at which the phase ends -/
  src : Option Nat := none
  /-- CH_CMP_CFG, CH_CMP_BLANK and CH_CMP_ENBLANK of that source as the test found them: a write takes effect at its end -/
  held : List Word := []
  phase : Nat := 0
  /-- a phase has given a wrong decision -/
  wrong : Bool := false
  due : Nat := 0
  next : Nat := 0
  /-- the edge of the 32.768 kHz clock at which the next slot begins, counted since power-on -/
  slotDue : Option Nat := none
  skippedNow : Nat := 0
  skipCount : Nat := 0
  starved : Nat := 0
  abandoned : Nat := 0
  deriving DecidableEq, Repr

/-- Sense functions. -/
structure Sense where
  /-- comparators by source s = 4n + k; an unlisted one is as stage 1 leaves it -/
  cmps : Tab Cmp := []
  readings : Tab Reading := []
  blankOverrun : Tab Nat := []
  diodeHalf : BitVec 16 := 0
  scan : Scan := {}
  passCount : Nat := 0
  passOverrun : Nat := 0
  convs : List (Option Conv) := [none, none, none, none]
  groups : List Group := [{}, {}, {}, {}]
  results : Tab TrigResult := []
  /-- demanded conversions that wait for a converter -/
  demands : List Demand := []
  test : SelfTest := {}
  /-- FLT0 to FLT7: latched bits, and the ends of stretches -/
  fltLatched : Byte := 0
  fltStretch : Tab Nat := []
  fltLevel : Byte := 0xFF
  deriving DecidableEq, Repr

/-! ## Engines (04, 09) -/

/-- Engine states (Table 04.1). -/
inductive EngState where
  | idle | running | waiting | halted | error | aborted
  deriving DecidableEq, Repr

/-- One rail of a CHECK in progress (R113). -/
structure CheckRail where
  rail : Nat
  since : Option Nat
  done : Bool
  deriving DecidableEq, Repr

/-- The step an engine is inside. -/
inductive Busy where
  | none
  | wait (due : Nat)
  | waitfor (word : Step64) (t0 : Nat)
  | check (word : Step64) (t0 : Nat) (rails : List CheckRail)
  | sync (word : Step64) (t0 : Nat)
  | margin (rail : Nat)
  deriving DecidableEq, Repr

/-- A sequencer engine (R100, R244). -/
structure Engine where
  st : EngState := .idle
  pc : Nat := 0
  /-- address of the step in progress or of the last step issued (Table 04.25); pc is the address to issue next or in progress -/
  shown : Nat := 0
  opcode : Nat := 0
  err : Nat := 0
  cf : Bool := false
  tmo : Bool := false
  cl : Bool := false
  lc : Nat := 0
  steps : Nat := 0
  /-- started by the on request of the present firing (R18) -/
  started : Bool := false
  /-- tick of its entry step, and the earliest tick of its next step -/
  t0 : Nat := 0
  next : Nat := 0
  busy : Busy := .none
  deriving DecidableEq, Repr

/-- What the steps of one tick have done (R117, R120, R122); the model's own bookkeeping. -/
structure TickLog where
  time : Nat := 0
  disabled : Rails := 0
  /-- rail or channel and the engine that acted on it -/
  trimmed : List (Nat × Nat) := []
  pwm : List (Nat × Nat) := []
  /-- event flags and fail bits as the tick found them, and flags set in it -/
  evBase : BitVec 16 := 0
  evSet : BitVec 16 := 0
  failBase : Rails := 0
  /-- fail bits set in the tick (R349) -/
  failSet : Rails := 0
  deriving DecidableEq, Repr

/-- Engines, stores, flags and fail bits. -/
structure Kiln where
  /-- K0 to K3 and SG -/
  engines : List Engine := [{}, {}, {}, {}, {}]
  store : Tab Step64 := []
  sgStore : Tab Step64 := []
  eventFlags : BitVec 16 := 0
  failBits : Rails := 0
  chatter : Tab Nat := []
  corrected : Nat := 0
  uncorrectable : Nat := 0
  loaded : Bool := false
  loadReason : Nat := 0
  loadAddr : Nat := 0
  sgLoadReason : Nat := 0
  sgLoadAddr : Nat := 0
  tick : TickLog := {}
  deriving DecidableEq, Repr

/-! ## Cooling and faults (05, 07) -/

/-- A cooling table (R137). -/
structure CoolTable where
  hard : Bool := false
  entries : List Step64 := []
  deriving DecidableEq, Repr

/-- The cooling walker, or the reduced one (R139, R155). -/
structure Walk where
  active : Bool := false
  grace : Bool := false
  waiting : Bool := false
  waitTimeout : Bool := false
  swept : Bool := false
  table : Nat := 0
  entries : List Step64 := []
  entry : Nat := 0
  prev : Nat := 0
  due : Option Nat := none
  waitEnd : Nat := 0
  /-- from when 100 µs run to the next demand (R140) -/
  demandFrom : Nat := 0
  graceDue : Option Nat := none
  tripDue : Option Nat := none
  sweepDue : Option Nat := none
  switches : Nat := 0
  released : Rails := 0
  cause : Option FaultRec := none
  reduced : Bool := false
  /-- the reduced walk's sweep has released every EN output -/
  reducedDone : Bool := false
  deriving DecidableEq, Repr

/-- An entry of the fault queue (R145). -/
structure QEntry where
  what : FaultRec
  stamp : Nat
  repeats : Nat
  deriving DecidableEq, Repr

/-- The bisque record (Table 07.9). -/
structure Bisque where
  filled : Bool := false
  rail : Byte := 0xFF
  code : Byte := 0
  cause : Byte := 0
  grade : Byte := 0
  seconds : Nat := 0
  subsecond : Nat := 0
  clears : BitVec 16 := 0
  deriving DecidableEq, Repr

/-- Cooling tables, fault queue, first-fault and bisque records. -/
structure FaultBlk where
  tables : List CoolTable := [{}, {}, {}, {}, {}, {}, { hard := true }, {}]
  queue : List QEntry := []
  overflow : Nat := 0
  first : Option (FaultRec × Nat) := none
  /-- the record in the slot marked current, what the other slot holds, and the mark (R194) -/
  bisque : Bisque := {}
  bisqueOther : Bisque := {}
  bisqueMark : Bool := false
  /-- grade T comparator changes that wait out CT_TRIP_TIMING.persist: source, cause code and due tick -/
  persist : List (Nat × Nat × Nat) := []
  deriving DecidableEq, Repr

/-- The interrupt registers, in the order of the bits of CM_INT_EN (Table 08.20). -/
structure Irq where
  ct : Word := 0
  lg : Word := 0
  cm : Word := 0
  gl : Word := 0
  tw : Word := 0
  ck : Word := 0
  pw : Word := 0
  /-- W1C bits of any register that hardware set in a tick, by address, and that tick (R349); the model's own bookkeeping -/
  fresh : Tab Word := []
  freshAt : Nat := 0
  deriving DecidableEq, Repr

/-! ## Margining (06) -/

/-- A rail's trim output and margin results (Table 06.10, Table 06.13). -/
structure Trim where
  code : BitVec 12 := 0
  level : BitVec 3 := 6
  clamped : Bool := false
  compliance : Bool := false
  pmb : BitVec 2 := 0
  lastResult : BitVec 4 := 0
  aborts : Nat := 0
  sweeps : Nat := 0
  vout : BitVec 16 := 0
  exponent : BitVec 5 := 0
  deriving DecidableEq, Repr

/-- A sample of a sweep point: the tick of its request, the tick at which it was taken, and the codes of rail and current. -/
structure Sample where
  req : Nat
  time : Nat
  code : Option Int := none
  cur : Option Int := none
  deriving DecidableEq, Repr

/-- The in-service sweep (R165 to R169). -/
structure Sweep where
  active : Bool := false
  cycleDue : Option Nat := none
  cycleStart : Nat := 0
  /-- rail being swept -/
  rail : Option Nat := none
  lastRail : Nat := 0
  /-- next rail to consider, and the tick before which it may not start -/
  todo : Nat := 0
  notBefore : Nat := 0
  railStart : Nat := 0
  point : Nat := 0
  pointStart : Nat := 0
  /-- tick of the next request of the present point -/
  sampleDue : Nat := 0
  /-- samples of the present point; requests made and samples missed over the rail -/
  samples : List Sample := []
  requests : Nat := 0
  missed : Nat := 0
  /-- per completed point: code, mean; over the rail: peak, settle time in ticks, (rail, current) pairs, clamped, and the current
  at point 0 -/
  means : List (Int × Int) := []
  peak : Nat := 0
  settle : Nat := 0
  pairs : List (Int × Int) := []
  clamped : Bool := false
  iNom : Int := 0
  cycles : Nat := 0
  deriving DecidableEq, Repr

/-- The factory calibration digest (R172): SHA3-256 over the factory set, whose 240 words are 0 (log entry 8). -/
def factoryCal : Digest := sha3 (List.replicate 960 0)

/-- Trim outputs, sweep and calibration. -/
structure Mg where
  trims : Tab Trim := []
  sweep : Sweep := {}
  /-- calibration words by index 0 to 239, in address order -/
  cal : Tab Word := []
  calDigest : Digest := factoryCal
  calEpoch : Nat := 0
  overwritten : Bool := false
  deriving DecidableEq, Repr

/-! ## The log (07) -/

/-- A captured shard before it has a place in a region (Table 07.2). -/
structure Shard where
  stamp : Nat
  kind : Byte
  flags : Byte
  dstate : Byte
  cause : Byte
  /-- bytes 32 to 255, 256 to 319, 320 to 335, 336 to 351 and 352 to 447 -/
  readings : List Byte
  channel : List Byte
  engines : List Byte
  pwm : List Byte
  event : List Byte
  /-- to be copied into the archive for its kind (Table 07.3), and a trigger of a window (R187); judged at capture -/
  byKind : Bool
  trigger : Bool
  deriving DecidableEq, Repr

/-- A shard in a region. -/
structure Stored where
  shard : Shard
  seq : Nat
  /-- seq of the flight-recorder shard copied -/
  origin : Option Nat
  window : Nat
  chain : Digest
  deriving DecidableEq, Repr

/-- What a position holds: a committed shard, or bytes left by a write that was cut short (R183). -/
inductive Slot where
  | good (s : Stored)
  | raw (bytes : List Byte)
  deriving DecidableEq, Repr

/-- A log region: next seq, next position, chain value of the last committed shard, positions written. -/
structure Region where
  next : Nat := 0
  pos : Nat := 0
  chain : Option Digest := none
  slots : Tab Slot := []
  deriving DecidableEq, Repr

/-- Why a copy is made (R188, R189). A `shard` entry stands for a flight-recorder shard that the copier has not reached. -/
inductive CopyWhy where
  | shard | kind | pre | trigger | post
  deriving DecidableEq, Repr

/-- A pending archive copy: the flight-recorder seq, the reason, and whether it ends windows. -/
structure Copy where
  origin : Nat
  why : CopyWhy
  /-- id of the newest open window, the windows that end on this copy, and whether they end truncated -/
  window : Nat := 0
  ends : List Nat := []
  /-- every window then open ends here, truncated (Table 07.8) -/
  truncated : Bool := false
  /-- of a `shard` entry: its copy by kind is made -/
  kindDone : Bool := false
  /-- of a `shard` entry: the shard is archived by kind or triggers a window, and it is a snapshot -/
  needed : Bool := false
  snap : Bool := false
  deriving DecidableEq, Repr

/-- A window index entry (Table 07.7). -/
structure WinEntry where
  id : Nat
  open_ : Bool
  complete : Bool
  truncated : Bool
  overwritten : Bool
  drained : Bool
  trigger : Nat
  first : Option Nat
  last : Option Nat
  pre : Nat
  post : Nat
  cause : Byte
  grade : Byte
  deriving DecidableEq, Repr

/-- The log controller, copier, scrub and its registers. -/
structure Log where
  /-- captured shards waiting, oldest first -/
  buffer : List Shard := []
  fr : Region := {}
  fa : Region := {}
  drained : Nat := 0
  index : Tab WinEntry := []
  lastWindow : Nat := 0
  /-- open windows: id and snapshots still to come -/
  openWins : List (Nat × Nat) := []
  copies : List Copy := []
  /-- spans of flight-recorder seqs copied for a window, each from its first seq to the one after its last (R189) -/
  spans : List (Nat × Nat) := []
  windowRefused : Nat := 0
  secSuppressed : Nat := 0
  snapSkipped : Nat := 0
  overwrittenLife : Nat := 0
  eventLost : Nat := 0
  lostLife : Nat := 0
  /-- the second being counted, security shards archived in it, and suppressed in it -/
  secSecond : Nat := 0
  secCount : Nat := 0
  secOver : Nat := 0
  /-- consecutive grants of the MRAM port to the copier (R323) -/
  copierRun : Nat := 0
  /-- blocks in which a configuration copy no longer holds the image in force: copy and block (R36, R197) -/
  stray : List (Nat × Nat) := []
  /-- a drop since the last shard written; snapshots and events dropped since the last report -/
  skipFlag : Bool := false
  dropSnaps : Nat := 0
  dropEvents : Nat := 0
  scrubBlock : Nat := 0
  scrubPasses : Nat := 0
  corrected : Nat := 0
  uncorrectable : Nat := 0
  /-- tick from which the time to the next scrub read runs (R197) -/
  scrubFrom : Nat := 0
  /-- uncorrectable words: region 1 or 2, position, and word of the position -/
  bad : List (Nat × Nat × Nat) := []
  /-- torn positions found in stage 3, whose reports are captured at entry to Ready: region and position -/
  torn : List (Nat × Nat) := []
  /-- the captured torn report of the archive, which is written there before any copy (R57) -/
  tornFa : Option Shard := none
  /-- an archive copy was being written when an input collapse was declared; the commit sequence begins with it (R52) -/
  archiving : Bool := false
  timeFloor : Nat := 0
  /-- the log die responds -/
  responds : Bool := true
  deriving DecidableEq, Repr

/-! ## Command port and pipeline (08, 09) -/

/-- A signature block of a command (R208). -/
structure Block where
  slot : Nat
  alg : Nat
  sig : List Byte
  deriving DecidableEq, Repr

/-- Where a command stands in the pipeline (Table 08.12). -/
inductive Phase where
  /-- a split command whose last part has not arrived -/
  | parts
  /-- signatures being verified -/
  | verifying
  /-- verified; waiting at stage 5 for earlier commands of its port -/
  | counting
  /-- in the execution queue -/
  | queued
  /-- accepted on the PMBus path; its final reply follows (R164) -/
  | accepted
  /-- decided; its reply is being signed or waits for room -/
  | replying
  deriving DecidableEq, Repr

/-- What of the key table counts signers (R226, Table 09.2): the role masks by slot, 0 of an empty one, the eligible mask and m. -/
structure Quorum where
  roles : List Byte := []
  eligible : Byte := 0
  m : Nat := 0
  deriving DecidableEq, Repr

/-- A command in flight. -/
structure Cmd where
  ring : Bool
  tag : Nat
  signReply : Bool
  op : Byte
  cls : Nat
  signers : Byte
  counter : Nat
  dest : Nat
  payload : List Byte
  blocks : List Block
  /-- the block structure breaks Table 08.4 -/
  malformed : Bool
  header : List Byte
  phase : Phase
  partDue : Option Nat
  /-- a slot it names was written or cleared while it was not yet through stage 5 (Table 09.3) -/
  spoiled : Bool
  /-- stage 4 has found a block of a filled slot that does not verify (R225) -/
  bad : Bool := false
  /-- slots that stage 5 counted, and whether fewer signers than m were held then (R225, R226) -/
  counted : List Nat := []
  boot : Bool := false
  /-- the table in force at its stage 5, against which the sense die recounts it (R229, R241) -/
  table : Quorum := {}
  consumed : Bool
  bcast : Bool
  /-- source address of the COMMAND or BROADCAST frame it came in, 0 for SPI -/
  src : Nat := 0
  /-- payload_crc of its header, which continuations repeat -/
  pcrc : Word
  size : Nat
  deriving DecidableEq, Repr

/-- A reply that is complete: its port, tag and bytes. -/
structure Reply where
  ring : Bool
  tag : Nat
  bytes : List Byte
  /-- an ACCEPTED reply: the tag stays in flight -/
  keeps : Bool := false
  /-- a reset follows it (R218, R276) -/
  reset : Bool := false
  deriving DecidableEq, Repr

/-- A decided command whose reply is being signed, with its status and payload. -/
structure Unsigned where
  cmd : Cmd
  status : Byte
  payload : List Byte
  deriving DecidableEq, Repr

/-- A command the root has forwarded onto the ring (R219). -/
structure Fwd where
  tag : Nat
  dest : Nat
  due : Nat
  cmd : Cmd
  deriving DecidableEq, Repr

/-- An IMAGE_LOAD collection (R276). -/
structure ImageLoad where
  parts : Nat
  next : Nat
  bytes : List Byte
  due : Nat
  deriving DecidableEq, Repr

/-- Host port, ring port queues and pipeline. -/
structure Port where
  /-- commands in flight, in arrival order -/
  cmds : List Cmd := []
  /-- execution queue: port and tag, first to execute first -/
  execq : List (Bool × Nat) := []
  replies : List Reply := []
  signing : List Unsigned := []
  /-- complete replies that wait for room -/
  waiting : List Reply := []
  fwds : List Fwd := []
  /-- bytes the last transaction clocked out on SPIMISO, status byte first -/
  miso : List Byte := []
  hiCapture : Option Word := none
  received : Nat := 0
  framing : Nat := 0
  overrun : Nat := 0
  secUnsigned : Nat := 0
  secBadSig : Nat := 0
  secStale : Nat := 0
  secQuorum : Nat := 0
  discardCause : Nat := 0
  discardConsumed : Nat := 0
  discardCount : Nat := 0
  bcastStatus : Byte := 0
  bcastOp : Byte := 0
  bcastCounter : Nat := 0
  image : Option ImageLoad := none
  deriving DecidableEq, Repr

/-- A slot of the key table with its counter (R226, R228). -/
structure KeySlot where
  filled : Bool := false
  role : Byte := 0
  ed : BitVec 256 := 0
  ml : List Byte := []
  badSig : Nat := 0
  counter : Nat := 0
  deriving DecidableEq, Repr

/-- The objects of the Saggar partition (Table 09.5) as a copy of the store holds them: key slots without their counters, quorum,
owner, image digest, the held bits of configuration registers that differ from the default, the Saggar store and the H tables. -/
structure SgPart where
  slots : List KeySlot := [{}, {}, {}, {}, {}, {}, {}, {}]
  m : Nat := 2
  eligible : Byte := 7
  owned : Bool := false
  ownerFp : Digest := 0
  epoch : Nat := 0
  imageDigest : Digest := Config.factoryImage
  held : Tab Word := []
  store : Tab Step64 := []
  tables : List (Nat × CoolTable) := [(6, { hard := true })]
  deriving DecidableEq, Repr

/-- Bytes over which a copy of the store is sealed; their layout shows nowhere (log entry 60). -/
def SgPart.bytes (p : SgPart) : List Byte :=
  p.slots.flatMap (fun k => [if k.filled then 1 else 0, k.role] ++ leBytes 32 k.ed.toNat ++ k.ml)
    ++ [BitVec.ofNat 8 p.m, p.eligible, if p.owned then 1 else 0] ++ digestBytes p.ownerFp ++ leBytes 2 p.epoch
    ++ digestBytes p.imageDigest ++ p.held.flatMap (fun e => leBytes 4 e.1 ++ leBytes 4 e.2.toNat)
    ++ p.store.flatMap (fun e => leBytes 2 e.1 ++ leBytes 8 e.2.toNat)
    ++ p.tables.flatMap (fun e => [BitVec.ofNat 8 e.1, BitVec.ofNat 8 e.2.entries.length, if e.2.hard then 1 else 0]
      ++ e.2.entries.flatMap (fun x => leBytes 8 x.toNat))

/-- A copy of the Saggar store with the SHA3-256 digest that seals it (R239). -/
structure SgCopy where
  part : SgPart := {}
  sealDigest : Digest := sha3 ({} : SgPart).bytes
  deriving DecidableEq, Repr

/-- The Saggar partition's keys, quorum, owner and digest (09). -/
structure Sec where
  slots : List KeySlot := [{}, {}, {}, {}, {}, {}, {}, {}]
  m : Nat := 2
  eligible : Byte := 7
  owned : Bool := false
  ownerFp : Digest := 0
  epoch : Nat := 0
  /-- tick at which the ownership window closes; none when closed -/
  windowDue : Option Nat := none
  imageDigest : Digest := Config.factoryImage
  /-- the two copies of the store, and which of them is marked in force: the second (R239) -/
  copyA : SgCopy := {}
  copyB : SgCopy := {}
  storeMark : Bool := false
  writeBlocked : Nat := 0
  confirmFail : Nat := 0
  storeRepair : Nat := 0
  deriving DecidableEq, Repr

/-! ## Ring and twin (10) -/

/-- Ring states (Table 10.19). -/
inductive RingState where
  | noLink | awaiting | admitted | fenced | notAdmitted | conflict | isolated
  deriving DecidableEq, Repr

/-- One Garura port's receiver and link (R250, R263). -/
structure GLink where
  locked : Bool := false
  up : Bool := false
  upSince : Nat := 0
  wrapped : Bool := false
  down : Nat := 0
  crcErr : Nat := 0
  symbolErr : Nat := 0
  discarded : Nat := 0
  /-- tick at which the device's own frames have left by the port (R251, R252) -/
  ownUntil : Nat := 0
  deriving DecidableEq, Repr

/-- A device's claim in an enumeration: unique ID, address, position, fenced, admitted. -/
structure Claim where
  uid : Uid
  addr : Nat
  pos : Nat
  fenced : Bool
  admitted : Bool
  deriving DecidableEq, Repr

/-- An enumeration in progress at the root (R257). -/
structure Enum where
  launch : Nat
  /-- token count once it has returned -/
  returned : Option Nat
  waitDue : Nat
  claims : List Claim
  /-- GL_ENUM_CTRL.reenumerate was written 1 meanwhile: another enumeration follows (R349) -/
  again : Bool := false
  deriving DecidableEq, Repr

/-- A horn handled lately: forwarded from a port (R254), or judged for reception (R255), and when. -/
structure HornSeen where
  orig : Nat
  seq : Nat
  /-- the port by which the /H/ came; of no meaning in an entry of reception -/
  port : Link
  /-- an entry of reception -/
  received : Bool
  time : Nat
  deriving DecidableEq, Repr

/-- A frame acted on lately, by which its other copies are known (R252): kind and source, its key (the sequence of a HEARTBEAT or
TWIN message, else the payload), and the port and tick of its arrival. -/
structure Heard where
  kind : Byte
  src : BitVec 12
  key : List Byte
  port : Link
  time : Nat
  deriving DecidableEq, Repr

/-- The Garura ports and the Hedgerow. -/
structure Ring where
  linkA : GLink := {}
  linkB : GLink := {}
  state : RingState := .noLink
  address : Nat := 0
  rootUid : Uid := 0
  /-- the root's owner fingerprint, from its last TOKEN -/
  rootFp : Digest := 0
  enumNumber : Nat := 0
  /-- the number of the root's last enumeration, which it counts on from (R257, log entry 43) -/
  enumKept : Nat := 0
  /-- enumeration number of the last TOKEN handled -/
  tokenSeen : Option Nat := none
  admittedMap : BitVec 4096 := 0
  fencedMap : BitVec 4096 := 0
  /-- Hedgerow record: ring ID and address (log state block) -/
  record : Option (Word × Nat) := none
  /-- ring map of the root: address and unique ID, and the addresses absent at the last closure -/
  map : Tab Uid := []
  absent : List Nat := []
  enum : Option Enum := none
  overBudget : Bool := false
  enumDone : Bool := false
  duration : Nat := 0
  hornSeq : BitVec 4 := 0
  horns : List HornSeen := []
  hornWindow : Nat := 0
  /-- originator and sequence of the horn whose window is open, as the header's horn field -/
  hornWord : BitVec 16 := 0
  hornOrig : Nat := 0
  hornLastSeq : Nat := 0
  hornReceived : Nat := 0
  hornSuppressed : Nat := 0
  /-- frames sent, oldest first: the port each left by, and whether its CRC is right -/
  tx : List Arrival := []
  /-- horns sent: port, originator, sequence -/
  txHorns : List (Link × Nat × Nat) := []
  joinDue : Option Nat := none
  /-- tag of the ring command whose reply must have left before JOIN is sent (R259) -/
  joinTag : Option Nat := none
  timeDue : Option Nat := none
  lastTime : Nat := 0
  /-- BROADCAST, TIME, HEARTBEAT and TWIN frames already acted on -/
  heard : List Heard := []
  deriving DecidableEq, Repr

/-- Twin states (Table 10.21). -/
inductive TwinState where
  | off | passive | solo | co | blocked | diverged
  deriving DecidableEq, Repr

/-- Where a handover stands (R272): at the joining device J or the serving device S. -/
inductive Handover where
  | none
  | jSeek
  | jProof
  /-- READY sent; the SYNC body taken, and the tick by which COMMIT must arrive -/
  | jReady (sync : List Byte) (due : Nat)
  /-- CHALLENGE sent with this nonce to this unique ID -/
  | sChallenge (nonce : BitVec 128) (uid : Uid)
  /-- SYNC sent; READY must arrive by this tick -/
  | sSync (due : Nat)
  deriving DecidableEq, Repr

/-- Twin supervision. -/
structure Twin where
  state : TwinState := .off
  mismatch : Bool := false
  mismatchRun : Nat := 0
  reason : BitVec 4 := 0
  address : Nat := 0
  uid : Uid := 0
  missed : Nat := 0
  lost : Nat := 0
  hbSeq : BitVec 16 := 0
  hbDue : Option Nat := none
  lastHb : Nat := 0
  /-- state code that the twin's last heartbeat carried -/
  peer : Nat := 0
  msgSeq : BitVec 16 := 0
  hand : Handover := .none
  /-- on requests held between SYNC and COMMIT, by PM cause -/
  heldOn : List Byte := []
  seekDue : Option Nat := none
  seekFrom : Option Nat := none
  /-- horns (true) and SHUTDOWNs of the twin that were received and whose counterpart has not come, with their ticks (R269) -/
  rxStops : List (Bool × Nat) := []
  /-- the device that a handover is under way with is alone too, not passive (R274) -/
  peerSolo : Bool := false
  deriving DecidableEq, Repr

/-! ## Two-wire ports (11) -/

/-- A PMBus margin sequence waiting for or holding a port (R162, R287). -/
structure TwSeq where
  rail : Nat
  level : Nat
  /-- the engine whose MARGIN step it serves, or the command's port and tag -/
  engine : Option Nat
  cmd : Option (Bool × Nat)
  /-- transactions of Table 06.2 done so far -/
  done : Nat
  /-- an abort or device-level fault has ended it; its present transaction runs out (R294) -/
  ending : Bool
  deriving DecidableEq, Repr

/-- A two-wire port. -/
structure TwPort where
  queue : List TwSeq := []
  /-- 0 idle, 1 transaction, 2 request answer, 3 bus clear, 4 waiting for an idle bus, 5 SCL stuck -/
  activity : BitVec 3 := 0
  busy : Bool := false
  retries : Nat := 0
  lastResult : BitVec 4 := 0
  lastAddr : BitVec 7 := 0
  /-- bytes that the port puts on the bus in the present transaction, or in the last one, in bus order (R284, R285) -/
  sent : List Byte := []
  /-- TW_CFGp as taken at the last START (Table 11.5) -/
  cfg : Word := 0
  /-- tick before which the bus is not idle (R282) -/
  idleFrom : Nat := 0
  nack : Nat := 0
  arbLost : Nat := 0
  timeouts : Nat := 0
  pecErr : Nat := 0
  reqCount : BitVec 16 := 0
  reqAddr : BitVec 7 := 0
  /-- SDA as sampled in the seven high periods of the last request answer, first bit first, and whether the port drove the eighth clock
  low (R296) -/
  sampled : List Bool := []
  acked : Bool := false
  badCount : Nat := 0
  clearPending : Bool := false
  deriving DecidableEq, Repr

/-! ## Auxiliary PWM (13) -/

/-- A PWM channel. -/
structure PwmCh where
  running : Bool := false
  /-- counter value at tick start -/
  base : Nat := 0
  start : Nat := 0
  p : Nat := 0
  c : Nat := 0
  t0 : Nat := 0
  t1 : Nat := 0
  latch : Bool := false
  /-- cleared while running; the trip level holds until the next period start (R336) -/
  await : Bool := false
  /-- transfer due under LOAD_ALL -/
  due : Bool := false
  /-- channel output before polarity -/
  out : Bool := false
  /-- tick at which a delayed rising edge is due (R328) -/
  dead : Option Nat := none
  /-- shadow compare written by a PWM step since the last register write of the shadow or configuration load (R121) -/
  stepC : Option Nat := none
  /-- the shadows that were written last, with the tick, and their period and compare, and trigger compares, at its start (R330) -/
  was : Option (Nat × Word × Word) := none
  deriving DecidableEq, Repr

/-- What a tick with a wrap found, for a PWMSI load of the same tick (Table 13.2); the model's own bookkeeping. -/
structure PwmWrap where
  time : Nat
  chs : List PwmCh
  loadAll : Bool
  so : Option Nat
  soFrom : Nat
  /-- PW_IRQ.load_done -/
  done : Bool
  deriving DecidableEq, Repr

/-- The PWM block. -/
structure Pwm where
  chs : List PwmCh := [{}, {}, {}, {}, {}, {}, {}, {}, {}, {}, {}, {}, {}, {}, {}, {}]
  loadAll : Bool := false
  loadTick : Nat := 0
  /-- the last PWMSO pulse until its end: the tick at which it ends, and the one from which PWMSO is high (R332) -/
  so : Option Nat := none
  soFrom : Nat := 0
  wrap : Option PwmWrap := none
  tripiSeen : BitVec 4 := 0
  tripCount : Nat := 0
  clearRefused : Nat := 0
  /-- the pads drive (stage 5 and later states), else high impedance (Table 13.1) -/
  pads : Bool := false
  deriving DecidableEq, Repr

/-! ## The whole -/

/-- Fixed at manufacture (R351). -/
structure Ident where
  uid : Uid := 0
  variantT : Bool := true
  steppingA1 : Bool := false
  deriving DecidableEq, Repr

/-! ## JTAG (15) -/

/-- The JTAG instructions (R360). -/
inductive JtagInstr where
  | bypass | idcode | samplePreload | extest
  deriving DecidableEq, Repr

/-- The test access port: the instruction in force, the shift register between TDI and TDO, and what the boundary register's update
stage holds. -/
structure Tap where
  instr : JtagInstr := .idcode
  shift : List Bool := []
  boundary : List Bool := []
  deriving DecidableEq, Repr

/-! ## The whole, continued -/

/-- What crossing 1 (sense die to core) last passed, while it reports CLOCK_STOPPED (R321, R346): the content of the CH, FL and
SG blocks. -/
structure Frozen where
  sense : Sense
  sec : Sec
  sg : Engine
  sgStore : Tab Step64
  sgLoadReason : Nat
  sgLoadAddr : Nat
  cfg : Tab Word
  deriving DecidableEq, Repr

/-- The state of the block. -/
structure State where
  ident : Ident := {}
  clk : Clk := {}
  pm : Pm := {}
  out : Out := {}
  inp : In := {}
  ctl : Ctl := {}
  sense : Sense := {}
  kiln : Kiln := {}
  walk : Walk := {}
  fault : FaultBlk := {}
  irq : Irq := {}
  mg : Mg := {}
  log : Log := {}
  /-- configuration registers whose content differs from the default configuration, by address -/
  cfg : Tab Word := []
  /-- the configuration load of stage 3 has completed since the last reset (R11) -/
  cfgLoaded : Bool := false
  /-- the Saggar partition was loaded in stage 1 (R247) -/
  sgLoaded : Bool := true
  port : Port := {}
  sec : Sec := {}
  ring : Ring := {}
  twin : Twin := {}
  tw : List TwPort := [{}, {}, {}, {}]
  /-- sequences that have ended, with their pmb_result, and whose MARGIN step or command still waits for it -/
  twEnded : List (TwSeq × BitVec 2) := []
  pwm : Pwm := {}
  /-- held values of a stopped crossing 1 -/
  frozen : Option Frozen := none
  jtag : Tap := {}
  /-- how many free values have been taken; the model's own (log entry 7) -/
  free : Nat := 0
  /-- commands waiting, first in first out -/
  pending : List Instr := []
  deriving DecidableEq, Repr

/-- The machine at its first power-on, once stage 1 has ended and before the configuration load (R11, log entry 9). -/
def State.reset : State := {}

end Sys2Proof.Machine
end

