-- ==== Sys2Proof/Machine/Bits.lean ====
section
/-! DEFINITION. Sys2Proof/Machine/Bits.lean: bit fields, byte order (R6), saturating counters and the check codes. -/

set_option Elab.async false

namespace Sys2Proof.Machine

/-- Bits hi:lo of a word, as a number. -/
def fld {n : Nat} (w : BitVec n) (hi lo : Nat) : Nat := (w.toNat >>> lo) % 2 ^ (hi + 1 - lo)

/-- Bit i of a word. -/
def bit {n : Nat} (w : BitVec n) (i : Nat) : Bool := w.getLsbD i

/-- A word with only bit i set. -/
def one (n i : Nat) : BitVec n := BitVec.ofNat n (2 ^ i)

/-- A word with bit i set to b. -/
def putBit {n : Nat} (w : BitVec n) (i : Nat) (b : Bool) : BitVec n :=
  if b then w ||| one n i else w &&& ~~~ (one n i)

/-- A field value placed at bit lo. -/
def at_ (v lo : Nat) : Word := BitVec.ofNat 32 (v <<< lo)

/-- A flag placed at bit i. -/
def flag (b : Bool) (i : Nat) : Word := if b then one 32 i else 0

/-- A counter that increments and holds at its maximum. -/
def inc (top n : Nat) : Nat := if n < top then n + 1 else n

/-- A counter that grows by k and holds at its maximum. -/
def incBy (top n k : Nat) : Nat := min top (n + k)

/-- The indices of the set bits of a mask, ascending. -/
def bitsOf {n : Nat} (w : BitVec n) : List Nat := (List.range n).filter (fun i => bit w i)

/-- A mask from a predicate on indices. -/
def maskOf (n : Nat) (p : Nat → Bool) : BitVec n :=
  (List.range n).foldl (fun w i => if p i then w ||| one n i else w) 0

/-- The number that bytes hold, least significant first (R6). -/
def ofLe : List Byte → Nat
  | [] => 0
  | b :: t => b.toNat + 256 * ofLe t

/-- k bytes of a list from an offset, as a number. -/
def leAt (l : List Byte) (off k : Nat) : Nat := ofLe ((l.drop off).take k)

/-- Bytes 4i to 4i + 3 of a digest as the register word, byte 4i in bits 7:0. -/
def digestWord (d : Digest) (i : Nat) : Word := BitVec.ofNat 32 (d.toNat >>> (32 * i))

/-- Zero bytes. -/
def zeros (k : Nat) : List Byte := List.replicate k 0

/-- One step of a reflected CRC over k bits. -/
def crcBits (poly : Nat) : Nat → Nat → Nat
  | 0, r => r
  | k + 1, r => crcBits poly k (if r % 2 = 1 then (r / 2) ^^^ poly else r / 2)

/-- CRC-32C (R184): Castagnoli, reflected, initial value and final XOR 0xFFFF_FFFF. -/
def crc32c (l : List Byte) : Nat :=
  (l.foldl (fun r b => crcBits 0x82F63B78 8 (r ^^^ b.toNat)) 0xFFFFFFFF) ^^^ 0xFFFFFFFF

end Sys2Proof.Machine

namespace Sys2Proof
open Sys2Proof.Machine

/-- A frame's 12-byte header (Table 10.3); the length is the payload's. -/
def Frame.header (f : Frame) : List Byte :=
  [f.kind, f.flags] ++ leBytes 2 (f.dest.toNat + 4096 * fld f.spare 3 0) ++ leBytes 2 (f.src.toNat + 4096 * fld f.spare 7 4)
    ++ leBytes 2 (f.hornOrig.toNat + 4096 * f.hornSeq.toNat) ++ leBytes 2 f.payload.length
    ++ leBytes 2 (f.hops.toNat + 4096 * fld f.spare 11 8)

/-- The CRC-32C over header and payload (R251). -/
def Frame.crc (f : Frame) : BitVec 32 := BitVec.ofNat 32 (crc32c (f.header ++ f.payload))

/-- A frame arrives with the CRC that its bytes give. -/
def Arrival.crcOk (a : Arrival) : Bool := a.crc == a.frame.crc

/-- A frame as it leaves by a port: with its CRC, or with its complement where it came with a wrong one (R252). -/
def Frame.sealed (f : Frame) (port : Link) (good : Bool) : Arrival := ⟨port, if good then f.crc else ~~~f.crc, f⟩

end Sys2Proof

namespace Sys2Proof.Machine

/-- One step of an unreflected CRC of the given width over k bits. -/
def crcBitsUp (width poly : Nat) : Nat → Nat → Nat
  | 0, r => r
  | k + 1, r =>
    crcBitsUp width poly k
      (if r >>> (width - 1) % 2 = 1 then ((r * 2) ^^^ poly) % 2 ^ width else (r * 2) % 2 ^ width)

/-- CRC-16/CCITT-FALSE (R194): polynomial 0x1021, initial value 0xFFFF. -/
def crc16 (l : List Byte) : Nat := l.foldl (fun r b => crcBitsUp 16 0x1021 8 (r ^^^ (b.toNat <<< 8))) 0xFFFF

/-- The PEC of a two-wire transaction (R285): CRC-8, polynomial 0x07, initial value 0. -/
def pec (l : List Byte) : Nat := l.foldl (fun r b => crcBitsUp 8 0x07 8 (r ^^^ b.toNat)) 0

/-- A number limited to a signed range. -/
def clampInt (lo hi x : Int) : Int := if x < lo then lo else if hi < x then hi else x

end Sys2Proof.Machine
end

