-- ==== Sys2Proof/Machine/Regs.lean ====
section
/-! DEFINITION. Sys2Proof/Machine/Regs.lean: the register map (14): every register with its address, the access of its
fields (R347), and the default configuration. -/

set_option Elab.async false

namespace Sys2Proof.Machine

/-- The registers of Table 14.11. An array of registers is one name with one or two indices. -/
inductive RegId where
  | idDevice | idMap | idUid | pmState | pmSupply | pmHoldCfg | pmStartup | pmResetCause | pmCollapse | pmWakeCfg
  | pmResolve | chCfg | chStatus | chReading | chCounts | chCmpCfg | chCmpRamp | chCmpBlank | chCmpEnblank
  | chIsReading | chTsCfg | chTsReading | chScanCfg | chScanStatus | chSelftestCfg | chSelftestStatus | chScanList
  | chTrigCfg | chTrigListA | chTrigListB | chTrigStatus | chTrigResult | flRoute | flPinCfg | flPinStatus | klStart
  | klEventFlags | klStoreStatus | klLoadStatus | klFail | klChatter | klStoreDigest | klEngCfg | klEngWdog
  | klEngStatus | klEngFlags | klEngSteps | klStep | ctControl | ctTripTiming | ctGrace | ctOffmin | ctTableCfg
  | ctRailsel | ctCauseCfg | ctWalkStatus | ctWalkCause | ctReleased | ctFirstCause | ctFirstTime | ctFqStatus
  | ctFqHead | ctFqHeadTime | ctInputs | ctInputCounts | ctEventCounts | ctIrq | ctEnt | mgBand | mgLevels | mgCodes
  | mgPmbus | mgSweep | mgSweepSense | mgSweepShunt | mgStatus | mgSweepCfg | mgSweepStatus | mgSweepControl
  | mgPmbVout | mgPmbRead | mgCalSense | mgCalTm | mgCalStatus | mgCalDigest | mgCalFactory | lgSnapCfg | lgFreezeCfg
  | lgPolicy | lgScrubCfg | lgFrSeq | lgFrPos | lgFaSeq | lgFaPos | lgFaDrained | lgFaStatus | lgWindowLast
  | lgCounts | lgCounts2 | lgScrubStatus | lgIrq | lgFrChain | lgFaChain | lgBisque | cmPortStatus | cmIntEn | cmIrq
  | cmCounts | cmSecCounts | cmDiscard | cmBcastStatus | cmTagsSpi | cmTagsRing | glCfg | glRingId | glTwinCfg
  | glTmSide | glStatus | glEnumStatus | glEnumCtrl | glEnumTime | glHornStatus | glTwinStatus | glLink | glIrq
  | glRootUid | glTwinUid | glTwinDigest | twCfg | twCtrl | twStatus | twCounts | twReq | twIrq | ckCfg | ckStatus
  | ckTimeCfg | ckTimeStatus | ckTime | ckTimeOffset | ckTimeCounts | ckXingErr | ckXingOvf | ckIrq | ckOutCfg
  | ckOutPhase | pwSoCfg | pwLoad | pwRun | pwTripStatus | pwTripSrc | pwCounts | pwIrq | pwPairCfg | pwChCfg
  | pwChShadow | pwChActive | pwChTrig | pwChTrigAct | pwChSync | pwChStatus | sgCfg | sgWdog | sgStatus | sgFlags
  | sgSafety | sgQuorum | sgOwner | sgLoadStatus | sgCounts | sgImageDigest | sgStoreDigest | sgKeytabDigest
  | sgOwnerFp | sgSlotCfg | sgSlotCtr | sgSlotFp | sgStep
  deriving DecidableEq, Repr

/-- How a register's content is held: by other state (or not at all), as configuration, or in the Saggar partition. -/
inductive Keep where
  | view | cfg | sg
  deriving DecidableEq, Repr

/-- A row of the map: base address, stride and count of each index, and the masks of the fields of each access type.
A bit in no mask is reserved. -/
structure RegRow where
  id : RegId
  base : Nat
  s1 : Nat
  n1 : Nat
  s2 : Nat
  n2 : Nat
  ro : Word
  rw1 : Word
  rw2 : Word
  rw3 : Word
  w1c : Word
  keep : Keep
  deriving DecidableEq, Repr

/-- Registers of the ID block (Table 14.8). -/
def rowsId : List RegRow := [
  ⟨.idDevice, 0, 0x4, 1, 4, 1, 0xFFFFFFFF, 0, 0, 0, 0, .view⟩,
  ⟨.idMap, 0x4, 0x4, 1, 4, 1, 0xFF, 0, 0, 0, 0, .view⟩,
  ⟨.idUid, 0x10, 0x4, 4, 4, 1, 0xFFFFFFFF, 0, 0, 0, 0, .view⟩]

/-- Registers of the PM block (R27, R58 to R64). -/
def rowsPm : List RegRow := [
  ⟨.pmState, 0x10000, 0x4, 1, 4, 1, 0xFF01800F, 0, 0, 0, 0, .view⟩,
  ⟨.pmSupply, 0x10004, 0x4, 1, 4, 1, 0xFFFFF001, 0, 0, 0, 0, .view⟩,
  ⟨.pmHoldCfg, 0x10008, 0x4, 1, 4, 1, 0, 0, 0x3FF, 0, 0, .cfg⟩,
  ⟨.pmStartup, 0x1000C, 0x4, 1, 4, 1, 0xFFFF010F, 0, 0, 0, 0, .view⟩,
  ⟨.pmResetCause, 0x10010, 0x4, 1, 4, 1, 0, 0, 0, 0, 0x1F, .view⟩,
  ⟨.pmCollapse, 0x10014, 0x4, 1, 4, 1, 0xFFFFFFBF, 0, 0, 0, 0, .view⟩,
  ⟨.pmWakeCfg, 0x10018, 0x4, 1, 4, 1, 0, 0xFFFF0007, 0, 0, 0, .cfg⟩,
  ⟨.pmResolve, 0x1001C, 0x4, 1, 4, 1, 0x1FF01FF, 0, 0, 0, 0, .view⟩]

/-- Registers of the CH block (Table 03.21). -/
def rowsCh : List RegRow := [
  ⟨.chCfg, 0x20000, 0x100, 64, 4, 1, 0x80000000, 0, 0x101, 0, 0, .cfg⟩,
  ⟨.chStatus, 0x20004, 0x100, 64, 4, 1, 0x3FFFFFF, 0, 0, 0, 0, .view⟩,
  ⟨.chReading, 0x20008, 0x100, 64, 4, 1, 0x3FFFFFF, 0, 0, 0, 0, .view⟩,
  ⟨.chCounts, 0x2000C, 0x100, 64, 4, 1, 0xFFFF00FF, 0, 0, 0, 0, .view⟩,
  ⟨.chCmpCfg, 0x20010, 0x100, 64, 4, 4, 0, 0, 0xFF9F0FFF, 0, 0, .cfg⟩,
  ⟨.chCmpRamp, 0x20020, 0x100, 64, 4, 4, 0, 0, 0xFFFFFFF, 0, 0, .cfg⟩,
  ⟨.chCmpBlank, 0x20030, 0x100, 64, 4, 4, 0, 0, 0xFFFFFFFF, 0, 0, .cfg⟩,
  ⟨.chCmpEnblank, 0x20040, 0x100, 64, 4, 4, 0, 0, 0xFFFFFFFF, 0, 0, .cfg⟩,
  ⟨.chIsReading, 0x24000, 0x10, 32, 4, 1, 0x3FFFFFF, 0, 0, 0, 0, .view⟩,
  ⟨.chTsCfg, 0x26000, 0x10, 16, 4, 1, 0, 0, 0x103FF, 0, 0, .cfg⟩,
  ⟨.chTsReading, 0x26004, 0x10, 16, 4, 1, 0x3FFFFFF, 0, 0, 0, 0, .view⟩,
  ⟨.chScanCfg, 0x27000, 0x4, 1, 4, 1, 0, 0, 0xFFFFFF, 0, 0, .cfg⟩,
  ⟨.chScanStatus, 0x27004, 0x4, 1, 4, 1, 0xFFFFFFFF, 0, 0, 0, 0, .view⟩,
  ⟨.chSelftestCfg, 0x27008, 0x4, 1, 4, 1, 0, 0, 0, 0xFF, 0, .cfg⟩,
  ⟨.chSelftestStatus, 0x2700C, 0x4, 1, 4, 1, 0xFFFFFFFF, 0, 0, 0, 0, .view⟩,
  ⟨.chScanList, 0x27100, 0x4, 32, 4, 1, 0, 0, 0x7F7F7F7F, 0, 0, .cfg⟩,
  ⟨.chTrigCfg, 0x27200, 0x10, 4, 4, 1, 0, 0, 0xFFFFFF3F, 0, 0, .cfg⟩,
  ⟨.chTrigListA, 0x27204, 0x10, 4, 4, 1, 0, 0, 0x7F7F7F7F, 0, 0, .cfg⟩,
  ⟨.chTrigListB, 0x27208, 0x10, 4, 4, 1, 0, 0, 0x7F7F7F7F, 0, 0, .cfg⟩,
  ⟨.chTrigStatus, 0x2720C, 0x10, 4, 4, 1, 0xFFFFFFFF, 0, 0, 0, 0, .view⟩,
  ⟨.chTrigResult, 0x27300, 0x20, 4, 4, 8, 0x1FFFFFF, 0, 0, 0, 0, .view⟩,
  ⟨.flRoute, 0x30000, 0x20, 8, 4, 8, 0, 0, 0xFFFFFFFF, 0, 0, .cfg⟩,
  ⟨.flPinCfg, 0x30100, 0x4, 8, 4, 1, 0, 0, 0x3, 0, 0, .cfg⟩,
  ⟨.flPinStatus, 0x30120, 0x4, 1, 4, 1, 0xFF, 0, 0, 0, 0xFF00, .view⟩]

/-- Registers of the KL block (Table 04.14). -/
def rowsKl : List RegRow := [
  ⟨.klStart, 0x40000, 0x4, 1, 4, 1, 0, 0, 0xF, 0, 0, .cfg⟩,
  ⟨.klEventFlags, 0x40004, 0x4, 1, 4, 1, 0xFFFF, 0, 0, 0, 0, .view⟩,
  ⟨.klStoreStatus, 0x40008, 0x4, 1, 4, 1, 0xFFFFFF01, 0, 0, 0, 0, .view⟩,
  ⟨.klLoadStatus, 0x4000C, 0x4, 1, 4, 1, 0xF0000FFF, 0, 0, 0, 0, .view⟩,
  ⟨.klFail, 0x40010, 0x4, 2, 4, 1, 0, 0, 0, 0, 0xFFFFFFFF, .view⟩,
  ⟨.klChatter, 0x40040, 0x4, 16, 4, 1, 0xFFFFFFFF, 0, 0, 0, 0, .view⟩,
  ⟨.klStoreDigest, 0x40080, 0x4, 8, 4, 1, 0xFFFFFFFF, 0, 0, 0, 0, .view⟩,
  ⟨.klEngCfg, 0x40100, 0x20, 4, 4, 1, 0, 0, 0xC0000FFF, 0, 0, .cfg⟩,
  ⟨.klEngWdog, 0x40104, 0x20, 4, 4, 1, 0, 0, 0xFFFFFFFF, 0, 0, .cfg⟩,
  ⟨.klEngStatus, 0x40108, 0x20, 4, 4, 1, 0xFFFFF07, 0, 0, 0, 0, .view⟩,
  ⟨.klEngFlags, 0x4010C, 0x20, 4, 4, 1, 0xFFFF0007, 0, 0, 0, 0, .view⟩,
  ⟨.klEngSteps, 0x40110, 0x20, 4, 4, 1, 0xFFFFFFFF, 0, 0, 0, 0, .view⟩,
  ⟨.klStep, 0x50000, 0x8, 4096, 4, 2, 0xFFFFFFFF, 0, 0, 0, 0, .view⟩]

/-- Registers of the CT block (Table 05.15). -/
def rowsCt : List RegRow := [
  ⟨.ctControl, 0x60000, 0x4, 1, 4, 1, 0, 0, 0x1F000F, 0, 0, .cfg⟩,
  ⟨.ctTripTiming, 0x60004, 0x4, 1, 4, 1, 0, 0, 0xFF07FF, 0, 0, .cfg⟩,
  ⟨.ctGrace, 0x60008, 0x4, 1, 4, 1, 0, 0, 0xFFFF, 0, 0, .cfg⟩,
  ⟨.ctOffmin, 0x6000C, 0x4, 1, 4, 1, 0, 0, 0xFFFF, 0, 0, .cfg⟩,
  ⟨.ctTableCfg, 0x60020, 0x4, 8, 4, 1, 0x8000007F, 0, 0, 0, 0, .view⟩,
  ⟨.ctRailsel, 0x60040, 0x4, 16, 4, 1, 0, 0, 0x77777777, 0, 0, .cfg⟩,
  ⟨.ctCauseCfg, 0x60080, 0x4, 6, 4, 1, 0, 0, 0x37, 0, 0, .cfg⟩,
  ⟨.ctWalkStatus, 0x60100, 0x4, 1, 4, 1, 0xFF7FFF00, 0, 0, 0, 0, .view⟩,
  ⟨.ctWalkCause, 0x60104, 0x4, 1, 4, 1, 0xFFC1FFFF, 0, 0, 0, 0, .view⟩,
  ⟨.ctReleased, 0x60108, 0x4, 2, 4, 1, 0xFFFFFFFF, 0, 0, 0, 0, .view⟩,
  ⟨.ctFirstCause, 0x60120, 0x4, 1, 4, 1, 0xFFC1FFFF, 0, 0, 0, 0, .view⟩,
  ⟨.ctFirstTime, 0x60124, 0x4, 2, 4, 1, 0xFFFFFFFF, 0, 0, 0, 0, .view⟩,
  ⟨.ctFqStatus, 0x60140, 0x4, 1, 4, 1, 0xFF1F0000, 0x1, 0, 0, 0, .view⟩,
  ⟨.ctFqHead, 0x60144, 0x4, 1, 4, 1, 0xFFFFFFFF, 0, 0, 0, 0, .view⟩,
  ⟨.ctFqHeadTime, 0x60148, 0x4, 2, 4, 1, 0xFFFFFFFF, 0, 0, 0, 0, .view⟩,
  ⟨.ctInputs, 0x60160, 0x4, 1, 4, 1, 0x77, 0, 0, 0, 0, .view⟩,
  ⟨.ctInputCounts, 0x60164, 0x4, 1, 4, 1, 0xFFFFFFFF, 0, 0, 0, 0, .view⟩,
  ⟨.ctEventCounts, 0x60168, 0x4, 1, 4, 1, 0xFFFFFFFF, 0, 0, 0, 0, .view⟩,
  ⟨.ctIrq, 0x6016C, 0x4, 1, 4, 1, 0, 0, 0, 0, 0x1F, .view⟩,
  ⟨.ctEnt, 0x61000, 0x200, 8, 4, 128, 0xFFFFFFFF, 0, 0, 0, 0, .view⟩]

/-- Registers of the MG block (Table 06.5). -/
def rowsMg : List RegRow := [
  ⟨.mgBand, 0x70000, 0x20, 64, 4, 1, 0, 0, 0xFFF0FFF, 0, 0, .cfg⟩,
  ⟨.mgLevels, 0x70004, 0x20, 64, 4, 1, 0, 0, 0xFFF0FFF, 0, 0, .cfg⟩,
  ⟨.mgCodes, 0x70008, 0x20, 64, 4, 1, 0, 0, 0xFFF0FFF, 0, 0, .cfg⟩,
  ⟨.mgPmbus, 0x7000C, 0x20, 64, 4, 1, 0, 0, 0xE0FF037F, 0, 0, .cfg⟩,
  ⟨.mgSweep, 0x70010, 0x20, 64, 4, 1, 0, 0, 0x8FFFF0FF, 0, 0, .cfg⟩,
  ⟨.mgSweepSense, 0x70014, 0x20, 64, 4, 1, 0, 0, 0xFFFF9F1F, 0, 0, .cfg⟩,
  ⟨.mgSweepShunt, 0x70018, 0x20, 64, 4, 1, 0, 0, 0xFFFFFFFF, 0, 0, .cfg⟩,
  ⟨.mgStatus, 0x7001C, 0x20, 64, 4, 1, 0xFFFFFFFF, 0, 0, 0, 0, .view⟩,
  ⟨.mgSweepCfg, 0x70800, 0x4, 1, 4, 1, 0, 0, 0xFFFFFFFF, 0, 0, .cfg⟩,
  ⟨.mgSweepStatus, 0x70804, 0x4, 1, 4, 1, 0x803FFFFF, 0, 0, 0, 0, .view⟩,
  ⟨.mgSweepControl, 0x70808, 0x4, 1, 4, 1, 0, 0x3, 0, 0, 0, .view⟩,
  ⟨.mgPmbVout, 0x70900, 0x4, 64, 4, 1, 0, 0, 0xFFFFFFFF, 0, 0, .cfg⟩,
  ⟨.mgPmbRead, 0x70A00, 0x4, 64, 4, 1, 0x1F00FFFF, 0, 0, 0, 0, .view⟩,
  ⟨.mgCalSense, 0x78000, 0x4, 176, 4, 1, 0xFFFFFFFF, 0, 0, 0, 0, .view⟩,
  ⟨.mgCalTm, 0x78300, 0x4, 64, 4, 1, 0xFFFFFFFF, 0, 0, 0, 0, .view⟩,
  ⟨.mgCalStatus, 0x78400, 0x4, 1, 4, 1, 0xC000FFFF, 0, 0, 0, 0, .view⟩,
  ⟨.mgCalDigest, 0x78420, 0x4, 8, 4, 1, 0xFFFFFFFF, 0, 0, 0, 0, .view⟩,
  ⟨.mgCalFactory, 0x78440, 0x4, 8, 4, 1, 0xFFFFFFFF, 0, 0, 0, 0, .view⟩]

/-- Registers of the LG block (Table 07.11). -/
def rowsLg : List RegRow := [
  ⟨.lgSnapCfg, 0x80000, 0x4, 1, 4, 1, 0, 0, 0xFFFF, 0, 0, .cfg⟩,
  ⟨.lgFreezeCfg, 0x80004, 0x4, 1, 4, 1, 0, 0, 0xFFFFFFFF, 0, 0, .cfg⟩,
  ⟨.lgPolicy, 0x80008, 0x4, 1, 4, 1, 0, 0, 0x7, 0, 0, .cfg⟩,
  ⟨.lgScrubCfg, 0x8000C, 0x4, 1, 4, 1, 0, 0, 0xFF, 0, 0, .cfg⟩,
  ⟨.lgFrSeq, 0x80010, 0x4, 2, 4, 1, 0xFFFFFFFF, 0, 0, 0, 0, .view⟩,
  ⟨.lgFrPos, 0x80018, 0x4, 1, 4, 1, 0x7FFFFF, 0, 0, 0, 0, .view⟩,
  ⟨.lgFaSeq, 0x80020, 0x4, 2, 4, 1, 0xFFFFFFFF, 0, 0, 0, 0, .view⟩,
  ⟨.lgFaPos, 0x80028, 0x4, 1, 4, 1, 0x1FFFFF, 0, 0, 0, 0, .view⟩,
  ⟨.lgFaDrained, 0x80030, 0x4, 2, 4, 1, 0xFFFFFFFF, 0, 0, 0, 0, .view⟩,
  ⟨.lgFaStatus, 0x80038, 0x4, 1, 4, 1, 0xC03FFFFF, 0, 0, 0, 0, .view⟩,
  ⟨.lgWindowLast, 0x8003C, 0x4, 1, 4, 1, 0xFFFFFFFF, 0, 0, 0, 0, .view⟩,
  ⟨.lgCounts, 0x80040, 0x4, 1, 4, 1, 0xFFFFFFFF, 0, 0, 0, 0, .view⟩,
  ⟨.lgCounts2, 0x80044, 0x4, 1, 4, 1, 0xFFFFFFFF, 0, 0, 0, 0, .view⟩,
  ⟨.lgScrubStatus, 0x80048, 0x4, 1, 4, 1, 0xFFFFFFFF, 0, 0, 0, 0, .view⟩,
  ⟨.lgIrq, 0x8004C, 0x4, 1, 4, 1, 0, 0, 0, 0, 0x1F, .view⟩,
  ⟨.lgFrChain, 0x80080, 0x4, 8, 4, 1, 0xFFFFFFFF, 0, 0, 0, 0, .view⟩,
  ⟨.lgFaChain, 0x800A0, 0x4, 8, 4, 1, 0xFFFFFFFF, 0, 0, 0, 0, .view⟩,
  ⟨.lgBisque, 0x800C0, 0x4, 4, 4, 1, 0xFFFFFFFF, 0, 0, 0, 0, .view⟩]

/-- Registers of the CM block (Table 08.18). -/
def rowsCm : List RegRow := [
  ⟨.cmPortStatus, 0x90000, 0x4, 2, 4, 1, 0xFFFFFFFF, 0, 0, 0, 0, .view⟩,
  ⟨.cmIntEn, 0x90008, 0x4, 1, 4, 1, 0, 0xFF, 0, 0, 0, .cfg⟩,
  ⟨.cmIrq, 0x9000C, 0x4, 1, 4, 1, 0, 0, 0, 0, 0xF, .view⟩,
  ⟨.cmCounts, 0x90010, 0x4, 1, 4, 1, 0xFFFFFFFF, 0, 0, 0, 0, .view⟩,
  ⟨.cmSecCounts, 0x90014, 0x4, 1, 4, 1, 0xFFFFFFFF, 0, 0, 0, 0, .view⟩,
  ⟨.cmDiscard, 0x90018, 0x4, 1, 4, 1, 0xF0007FFF, 0, 0, 0, 0, .view⟩,
  ⟨.cmBcastStatus, 0x9001C, 0x4, 1, 4, 1, 0xFFFFFFFF, 0, 0, 0, 0, .view⟩,
  ⟨.cmTagsSpi, 0x90020, 0x4, 3, 4, 1, 0xFFFFFFFF, 0, 0, 0, 0, .view⟩,
  ⟨.cmTagsRing, 0x90030, 0x4, 3, 4, 1, 0xFFFFFFFF, 0, 0, 0, 0, .view⟩]

/-- Registers of the GL block (Table 10.16). -/
def rowsGl : List RegRow := [
  ⟨.glCfg, 0xA0000, 0x4, 1, 4, 1, 0, 0, 0x870000FF, 0, 0, .cfg⟩,
  ⟨.glRingId, 0xA0004, 0x4, 1, 4, 1, 0, 0, 0xFFFFFFFF, 0, 0, .cfg⟩,
  ⟨.glTwinCfg, 0xA0008, 0x4, 1, 4, 1, 0, 0, 0xFFFFFFFF, 0, 0, .cfg⟩,
  ⟨.glTmSide, 0xA000C, 0x4, 2, 4, 1, 0, 0, 0xFFFFFFFF, 0, 0, .cfg⟩,
  ⟨.glStatus, 0xA0020, 0x4, 1, 4, 1, 0xFF800FFF, 0, 0, 0, 0, .view⟩,
  ⟨.glEnumStatus, 0xA0024, 0x4, 1, 4, 1, 0xCFFF0FFF, 0, 0, 0, 0, .view⟩,
  ⟨.glEnumCtrl, 0xA0028, 0x4, 1, 4, 1, 0, 0x2, 0x1, 0, 0, .view⟩,
  ⟨.glEnumTime, 0xA002C, 0x4, 1, 4, 1, 0xFFFFFFFF, 0, 0, 0, 0, .view⟩,
  ⟨.glHornStatus, 0xA0030, 0x4, 1, 4, 1, 0xFFFFFFFF, 0, 0, 0, 0, .view⟩,
  ⟨.glTwinStatus, 0xA0034, 0x4, 1, 4, 1, 0xFFFFFFFF, 0, 0, 0, 0, .view⟩,
  ⟨.glLink, 0xA0038, 0x4, 2, 4, 1, 0xFFFFFFFF, 0, 0, 0, 0, .view⟩,
  ⟨.glIrq, 0xA0040, 0x4, 1, 4, 1, 0, 0, 0, 0, 0xFFF, .view⟩,
  ⟨.glRootUid, 0xA0050, 0x4, 4, 4, 1, 0xFFFFFFFF, 0, 0, 0, 0, .view⟩,
  ⟨.glTwinUid, 0xA0060, 0x4, 4, 4, 1, 0xFFFFFFFF, 0, 0, 0, 0, .view⟩,
  ⟨.glTwinDigest, 0xA0080, 0x4, 8, 4, 1, 0xFFFFFFFF, 0, 0, 0, 0, .view⟩]

/-- Registers of the TW block (Table 11.6). -/
def rowsTw : List RegRow := [
  ⟨.twCfg, 0xB0000, 0x40, 4, 4, 1, 0, 0, 0x80000371, 0, 0, .cfg⟩,
  ⟨.twCtrl, 0xB0004, 0x40, 4, 4, 1, 0, 0x3, 0, 0, 0, .view⟩,
  ⟨.twStatus, 0xB0008, 0x40, 4, 4, 1, 0xF8FF7F00, 0, 0, 0, 0, .view⟩,
  ⟨.twCounts, 0xB000C, 0x40, 4, 4, 1, 0xFFFFFFFF, 0, 0, 0, 0, .view⟩,
  ⟨.twReq, 0xB0010, 0x40, 4, 4, 1, 0xFFFF7FFF, 0, 0, 0, 0, .view⟩,
  ⟨.twIrq, 0xB0100, 0x4, 1, 4, 1, 0, 0, 0, 0, 0x1F1F1F1F, .view⟩]

/-- Registers of the CK block (Table 12.9). -/
def rowsCk : List RegRow := [
  ⟨.ckCfg, 0xC0000, 0x4, 1, 4, 1, 0, 0, 0xE0000000, 0, 0, .cfg⟩,
  ⟨.ckStatus, 0xC0004, 0x4, 1, 4, 1, 0xFC00FFFF, 0, 0, 0, 0, .view⟩,
  ⟨.ckTimeCfg, 0xC0008, 0x4, 1, 4, 1, 0, 0, 0xE000FF00, 0, 0, .cfg⟩,
  ⟨.ckTimeStatus, 0xC000C, 0x4, 1, 4, 1, 0xFCFFFFFF, 0, 0, 0, 0, .view⟩,
  ⟨.ckTime, 0xC0010, 0x4, 2, 4, 1, 0xFFFFFFFF, 0, 0, 0, 0, .view⟩,
  ⟨.ckTimeOffset, 0xC0018, 0x4, 1, 4, 1, 0xFFFFFFFF, 0, 0, 0, 0, .view⟩,
  ⟨.ckTimeCounts, 0xC001C, 0x4, 1, 4, 1, 0xFFFFFFFF, 0, 0, 0, 0, .view⟩,
  ⟨.ckXingErr, 0xC0020, 0x4, 1, 4, 1, 0, 0, 0, 0, 0xFFFF, .view⟩,
  ⟨.ckXingOvf, 0xC0024, 0x4, 1, 4, 1, 0, 0, 0, 0, 0xFFFF, .view⟩,
  ⟨.ckIrq, 0xC0028, 0x4, 1, 4, 1, 0, 0, 0, 0, 0x3FF, .view⟩,
  ⟨.ckOutCfg, 0xC0040, 0x10, 4, 4, 1, 0, 0, 0xF8000FFF, 0, 0, .cfg⟩,
  ⟨.ckOutPhase, 0xC0044, 0x10, 4, 4, 1, 0xFFFFC000, 0xFF, 0, 0, 0, .view⟩]

/-- Registers of the PW block (Table 13.4). -/
def rowsPw : List RegRow := [
  ⟨.pwSoCfg, 0xD0000, 0x4, 1, 4, 1, 0, 0, 0xFF0F, 0, 0, .cfg⟩,
  ⟨.pwLoad, 0xD0004, 0x4, 1, 4, 1, 0, 0x1, 0, 0, 0, .view⟩,
  ⟨.pwRun, 0xD0008, 0x4, 1, 4, 1, 0, 0xFFFF, 0, 0, 0, .view⟩,
  ⟨.pwTripStatus, 0xD000C, 0x4, 1, 4, 1, 0, 0, 0, 0, 0xFFFF, .view⟩,
  ⟨.pwTripSrc, 0xD0010, 0x4, 1, 4, 1, 0x3FFF, 0, 0, 0, 0xF0000000, .view⟩,
  ⟨.pwCounts, 0xD0014, 0x4, 1, 4, 1, 0xFFFFFFFF, 0, 0, 0, 0, .view⟩,
  ⟨.pwIrq, 0xD0018, 0x4, 1, 4, 1, 0, 0, 0, 0, 0x7, .view⟩,
  ⟨.pwPairCfg, 0xD0040, 0x4, 8, 4, 1, 0, 0, 0x800003FF, 0, 0, .cfg⟩,
  ⟨.pwChCfg, 0xD0100, 0x20, 16, 4, 1, 0, 0, 0xFFFF0300, 0, 0, .cfg⟩,
  ⟨.pwChShadow, 0xD0104, 0x20, 16, 4, 1, 0, 0xFFFFFFFF, 0, 0, 0, .cfg⟩,
  ⟨.pwChActive, 0xD0108, 0x20, 16, 4, 1, 0xFFFFFFFF, 0, 0, 0, 0, .view⟩,
  ⟨.pwChTrig, 0xD010C, 0x20, 16, 4, 1, 0, 0xFFFFFFFF, 0, 0, 0, .cfg⟩,
  ⟨.pwChTrigAct, 0xD0110, 0x20, 16, 4, 1, 0xFFFFFFFF, 0, 0, 0, 0, .view⟩,
  ⟨.pwChSync, 0xD0114, 0x20, 16, 4, 1, 0, 0, 0xFFFF, 0, 0, .cfg⟩,
  ⟨.pwChStatus, 0xD0118, 0x20, 16, 4, 1, 0xFFFFF000, 0, 0, 0, 0, .view⟩]

/-- Registers of the SG block (Table 09.11). -/
def rowsSg : List RegRow := [
  ⟨.sgCfg, 0xF00000, 0x4, 1, 4, 1, 0, 0, 0, 0xE00001FF, 0, .sg⟩,
  ⟨.sgWdog, 0xF00004, 0x4, 1, 4, 1, 0, 0, 0, 0xFFFFFFFF, 0, .sg⟩,
  ⟨.sgStatus, 0xF00008, 0x4, 1, 4, 1, 0x1FFFF07, 0, 0, 0, 0, .view⟩,
  ⟨.sgFlags, 0xF0000C, 0x4, 1, 4, 1, 0xFFFF0003, 0, 0, 0, 0, .view⟩,
  ⟨.sgSafety, 0xF00010, 0x4, 2, 4, 1, 0, 0, 0, 0xFFFFFFFF, 0, .sg⟩,
  ⟨.sgQuorum, 0xF00018, 0x4, 1, 4, 1, 0xFFFF0F, 0, 0, 0, 0, .view⟩,
  ⟨.sgOwner, 0xF0001C, 0x4, 1, 4, 1, 0xC000FFFF, 0, 0, 0, 0, .view⟩,
  ⟨.sgLoadStatus, 0xF00020, 0x4, 1, 4, 1, 0xF00001FF, 0, 0, 0, 0, .view⟩,
  ⟨.sgCounts, 0xF00024, 0x4, 1, 4, 1, 0xFFFFFFFF, 0, 0, 0, 0, .view⟩,
  ⟨.sgImageDigest, 0xF00040, 0x4, 8, 4, 1, 0xFFFFFFFF, 0, 0, 0, 0, .view⟩,
  ⟨.sgStoreDigest, 0xF00060, 0x4, 8, 4, 1, 0xFFFFFFFF, 0, 0, 0, 0, .view⟩,
  ⟨.sgKeytabDigest, 0xF00080, 0x4, 8, 4, 1, 0xFFFFFFFF, 0, 0, 0, 0, .view⟩,
  ⟨.sgOwnerFp, 0xF000A0, 0x4, 8, 4, 1, 0xFFFFFFFF, 0, 0, 0, 0, .view⟩,
  ⟨.sgSlotCfg, 0xF00100, 0x10, 8, 4, 1, 0x80FF00FF, 0, 0, 0, 0, .view⟩,
  ⟨.sgSlotCtr, 0xF00104, 0x10, 8, 4, 2, 0xFFFFFFFF, 0, 0, 0, 0, .view⟩,
  ⟨.sgSlotFp, 0xF0010C, 0x10, 8, 4, 1, 0xFFFFFFFF, 0, 0, 0, 0, .view⟩,
  ⟨.sgStep, 0xF01000, 0x8, 512, 4, 2, 0xFFFFFFFF, 0, 0, 0, 0, .view⟩]

/-- The rows of the block whose window holds an address (Table 14.1). -/
def rowsAt (a : Nat) : List RegRow :=
  if 0 ≤ a ∧ a < 0x10000 then rowsId else
  if 0x10000 ≤ a ∧ a < 0x20000 then rowsPm else
  if 0x20000 ≤ a ∧ a < 0x40000 then rowsCh else
  if 0x40000 ≤ a ∧ a < 0x60000 then rowsKl else
  if 0x60000 ≤ a ∧ a < 0x70000 then rowsCt else
  if 0x70000 ≤ a ∧ a < 0x80000 then rowsMg else
  if 0x80000 ≤ a ∧ a < 0x90000 then rowsLg else
  if 0x90000 ≤ a ∧ a < 0xA0000 then rowsCm else
  if 0xA0000 ≤ a ∧ a < 0xB0000 then rowsGl else
  if 0xB0000 ≤ a ∧ a < 0xC0000 then rowsTw else
  if 0xC0000 ≤ a ∧ a < 0xD0000 then rowsCk else
  if 0xD0000 ≤ a ∧ a < 0xE0000 then rowsPw else
  if 0xF00000 ≤ a ∧ a < 0xF10000 then rowsSg else
  []

/-- A register: its row and its indices. -/
structure Reg where
  row : RegRow
  i : Nat
  j : Nat
  deriving DecidableEq, Repr

/-- The indices of an address within a row. -/
def RegRow.find (r : RegRow) (a : Nat) : Option Reg :=
  if a < r.base then none else
  let off := a - r.base
  let i := off / r.s1
  let j := off % r.s1 / r.s2
  if i < r.n1 ∧ j < r.n2 ∧ off = i * r.s1 + j * r.s2 then some ⟨r, i, j⟩ else none

/-- The register at an address; none in reserved space (R343). -/
def regAt (a : Nat) : Option Reg := (rowsAt a).findSome? (fun r => r.find a)

/-- The address of a register. -/
def Reg.addr (r : Reg) : Nat := r.row.base + r.i * r.row.s1 + r.j * r.row.s2

/-- The default configuration, and the factory content of the Saggar partition, where the spec states them; 0 elsewhere
(log entry 8). -/
def factoryReg (id : RegId) (i j : Nat) : Word :=
  match id with
  | .pmHoldCfg => 180
  | .pmWakeCfg => 7
  | .chCmpCfg => if j < 2 then 0x30000000 else 0x30000FFF
  | .chTsCfg => 80
  | .chScanCfg => 0x00700000
  | .chSelftestCfg => 4
  | .chScanList => at_ (4 * i) 0 ||| at_ (4 * i + 1) 8 ||| at_ (4 * i + 2) 16 ||| at_ (4 * i + 3) 24
  | .flRoute => if i = 0 then 0x99999999 else if i = 1 then 0x66666666 else 0
  | .flPinCfg => 1
  | .ctControl => 0x00080001
  | .ctTripTiming => 20
  | .ctGrace => 500
  | .ctOffmin => 500
  | .ctRailsel => 0x66666666
  | .ctCauseCfg => if i = 0 then 0x06 else if i = 3 then 0x36 else if i = 4 then 0x16 else 0x26
  | .mgSweep => 0x01001001
  | .mgSweepCfg => 1
  | .lgSnapCfg => 10
  | .lgFreezeCfg => 0x271003E8
  | .lgPolicy => 2
  | .lgScrubCfg => 7
  | .cmIntEn => 0xFF
  | .glCfg => 0x010000FA
  | .twCfg => 0x130
  | .ckCfg => 0x80000000
  | .ckTimeCfg => 0xC0000500
  | .pwChCfg => 0xF0080000
  | .pwChShadow => 0xFFFF0000
  | .pwChTrig => 0xFFFFFFFF
  | .sgCfg => 0x60000000
  | .sgWdog => 0x00640004
  | _ => 0

/-- The configuration content of register (i, j) of a row, whether or not it is in force yet. -/
def rawReg (s : State) (r : Reg) : Word := Tab.getD s.cfg r.addr (factoryReg r.row.id r.i r.j)

/-- The configuration content at an address, 0 where no register is. -/
def State.rawAt (s : State) (a : Nat) : Word :=
  match regAt a with
  | some r => rawReg s r
  | none => 0

/-- What a configuration register reads as: 0 until the configuration load, or the Saggar load, has completed (R11, R247). -/
def State.cfgAt (s : State) (a : Nat) : Word :=
  match regAt a with
  | some r => match r.row.keep with
    | .cfg => if s.cfgLoaded then rawReg s r else 0
    | .sg => if s.sgLoaded then rawReg s r else 0
    | .view => 0
  | none => 0

/-- The rails marked safety (Table 09.14), as the partition holds them. -/
def State.safety (s : State) : Rails :=
  if s.sgLoaded then (s.rawAt 0xF00014 ++ s.rawAt 0xF00010 : BitVec 64) else 0

/-- Rail n is a safety rail. -/
def State.isSafety (s : State) (n : Nat) : Bool := bit s.safety n

/-- The bits of a register that the Saggar partition holds in the present state (Table 09.5). -/
def heldMask (s : State) (r : Reg) : Word :=
  match r.row.id with
  | .chCfg => if s.isSafety r.i then 0x101 else 0
  | .chCmpCfg | .chCmpRamp | .chCmpBlank | .chCmpEnblank =>
    if s.isSafety r.i && (r.j == 0 || r.j == 3) then r.row.rw2 else 0
  | .ctRailsel =>
    (if s.isSafety (4 * r.i) then 0x70 else 0) ||| (if s.isSafety (4 * r.i + 1) then 0x7000 else 0) |||
    (if s.isSafety (4 * r.i + 2) then 0x700000 else 0) ||| (if s.isSafety (4 * r.i + 3) then 0x70000000 else 0)
  | .sgCfg | .sgWdog | .sgSafety => r.row.rw3
  | _ => 0

/-- A comparator register at an offset of its rail, for source src, as configured: the Saggar settings of a safety rail's UVF
and OVF apply from stage 1 (R40). -/
def State.cmpReg (s : State) (off src : Nat) : Word :=
  let a := 0x20000 + off + src / 4 * 0x100 + src % 4 * 4
  if s.cfgLoaded || (s.isSafety (src / 4) && (src % 4 == 0 || src % 4 == 3)) then s.rawAt a else 0

/-- The same as the comparator uses it: during its self-test, as the test found it (Table 03.13); `i` is its place in what the
test holds. -/
def State.cmpUse (s : State) (off i src : Nat) : Word :=
  if s.sense.test.src = some src then s.sense.test.held.getD i (s.cmpReg off src) else s.cmpReg off src

/-- CH_CMP_CFG, CH_CMP_BLANK and CH_CMP_ENBLANK of source src in use. -/
def State.cmpCfg (s : State) (src : Nat) : Word := s.cmpUse 0x10 0 src
def State.cmpBlank (s : State) (src : Nat) : Word := s.cmpUse 0x30 1 src
def State.cmpEnblank (s : State) (src : Nat) : Word := s.cmpUse 0x40 2 src

end Sys2Proof.Machine
end

