-- ==== Sys2Proof/Machine/Time.lean ====
section
/-! DEFINITION. Sys2Proof/Machine/Time.lean: how the tick count, the time base and the always-on counts advance
(R307, R308; log entries 1, 11). -/

set_option Elab.async false

namespace Sys2Proof.Machine

/-- Ticks of a second, a millisecond and a microsecond. -/
def secondTicks : Nat := 200000000
def msTicks : Nat := 200000
def usTicks : Nat := 200

/-- Ticks of k periods of the 32.768 kHz clock, 6,103.515625 ticks each, rounded up. -/
def aonTicks (k : Nat) : Nat := (k * 390625 + 63) / 64

/-- The learnt rate as it is applied: an adjustment tick at most every 10,000 ticks, of which the slew takes at most
every second one (R307); nothing in mode free (R311). -/
def Clk.appliedRate (c : Clk) : Int :=
  if c.mode = .free then 0
  else if c.slewLeft = 0 then clampInt (-10000) 10000 c.rate else clampInt (-5000) 5000 c.rate

/-- Instants of the slew in the next d ticks, one in each 20,000. -/
def Clk.slewSlots (c : Clk) (d : Nat) : Nat := (c.slot + d) / 20000

/-- Instants of the rate in the next d ticks: one in each 10,000, or half-way between those of the slew while there is slew left. -/
def Clk.rateSlots (c : Clk) (d : Nat) : Nat :=
  if c.slewLeft = 0 then (c.slot + d) / 10000 - c.slot / 10000
  else (c.slot + 10000 + d) / 20000 - (c.slot + 10000) / 20000

/-- Ticks up to the last of those instants. -/
def Clk.lastRateSlot (c : Clk) (d : Nat) : Int :=
  if c.slewLeft = 0 then ((c.slot + d) / 10000 * 10000 : Nat) - (c.slot : Int)
  else ((c.slot + 10000 + d) / 20000 * 20000 : Nat) - (c.slot + 10000 : Int)

/-- Rate adjustments made in the next d ticks: at each instant of the rate at most one (log entry 11). -/
def Clk.rateSteps (c : Clk) (d : Nat) : Int :=
  clampInt (-(c.rateSlots d : Int)) (c.rateSlots d) ((c.rateAcc + c.lastRateSlot d * c.appliedRate) / 100000000)

/-- Slew adjustments made in the next d ticks. -/
def Clk.slewSteps (c : Clk) (d : Nat) : Int := clampInt (-(c.slewSlots d : Int)) (c.slewSlots d) c.slewLeft

/-- d core ticks from the PLL, in which slew is left throughout or not at all: the time base advances by 1 for each tick and by the
adjustments of R307, no two of which fall into one 10,000 ticks. -/
def Clk.run (c : Clk) (d : Nat) : Clk :=
  { c with
    stamp := (c.stamp + d + c.rateSteps d + c.slewSteps d).toNat
    rateAcc := c.rateAcc + d * c.appliedRate - 100000000 * c.rateSteps d
    slewLeft := c.slewLeft - c.slewSteps d
    slot := (c.slot + d) % 20000 }

/-- Ticks until the slew is done. -/
def Clk.slewTicks (c : Clk) : Nat := c.slewLeft.natAbs * 20000 - c.slot

/-- The clocks d core ticks later (R307): from the logic-die RC the time base advances by 8 at the end of each RC cycle, with no
adjustment (log entry 11). -/
def Clk.advance (c : Clk) (d : Nat) : Clk :=
  let t :=
    if !c.tbSet then c
    else if c.corePll then (c.run (min d c.slewTicks)).run (d - c.slewTicks)
    else { c with stamp := c.stamp + (c.rcPhase + d) / 8 * 8, rcPhase := (c.rcPhase + d) % 8 }
  { t with now := c.now + d }

/-- The state d core ticks later. -/
def State.wait (s : State) (d : Nat) : State := { s with clk := s.clk.advance d }

/-- The state at tick t; unchanged where t has passed. -/
def State.till (s : State) (t : Nat) : State := s.wait (t - s.clk.now)

/-- The state at a timer's due tick; unchanged where none is set or it has passed. -/
def State.tillDue (s : State) (t : Option Nat) : State := s.wait (t.getD 0 - s.clk.now)

/-- The state in the tick, of the next k, in which the time stamp reaches a value or passes it. -/
def State.creep (s : State) (target : Nat) : Nat → State
  | 0 => s
  | k + 1 => if target ≤ s.clk.stamp then s else (s.wait 1).creep target k

/-- The state in the tick in which the time stamp reaches the next multiple of m, or an advance of 8 passes it (R307): by an
estimate that falls short of it, and tick by tick from there. -/
def State.tillStamp (s : State) (m : Nat) : State :=
  let target := (s.clk.stamp / m + 1) * m
  let d := target - s.clk.stamp
  if s.clk.corePll then
    let n : Int := (s.clk.advance d).stamp - (target : Int)
    let short := n.natAbs / 10000 + 2
    (s.wait ((d : Int) - n - short).toNat).creep target (2 * short + 4)
  else s.wait ((d + 7) / 8 * 8 - s.clk.rcPhase)

/-- Periods of the 32.768 kHz clock that have passed since the always-on counts were last loaded. -/
def Clk.aonSince (c : Clk) : Nat := c.aonPeriods + (c.now - c.aonAt) * 64 / 390625

/-- The always-on seconds count, saturating (R308). -/
def Clk.aonSec (c : Clk) : Nat := min 0xFFFFFFFF (c.aonSeconds + c.aonSince / 32768)

/-- The always-on count of 32.768 kHz periods. -/
def Clk.aonPer (c : Clk) : Nat := c.aonSince % 32768

/-- The time the always-on counts give (R309, R195). -/
def Clk.aonStamp (c : Clk) : Nat := c.aonSec * secondTicks + c.aonPer * 390625 / 64

end Sys2Proof.Machine
end

