-- ==== Sys2Proof/Machine/Flags.lean ====
section
/-! DEFINITION. Sys2Proof/Machine/Flags.lean: codes of the named states, and the status bits that are computed from state. -/

set_option Elab.async false

namespace Sys2Proof.Machine

/-- Table 01.3. -/
def DevState.code : DevState → Nat
  | .off => 0 | .standby => 1 | .starting => 2 | .ready => 3 | .firing => 4 | .running => 5 | .cooling => 6 | .coppice => 7

/-- Table 04.1. -/
def EngState.code : EngState → Nat
  | .idle => 0 | .running => 1 | .waiting => 2 | .halted => 3 | .error => 4 | .aborted => 5

/-- R42. -/
def Status.code : Status → Nat
  | .unresolved => 0 | .good => 1 | .fault => 2 | .failed => 3

/-- Table 12.13. -/
def TbMode.code : TbMode → Nat
  | .free => 0 | .tracking => 1 | .slewing => 2 | .holdover => 3 | .stepPending => 4 | .ahead => 5

/-- Table 05.27. -/
def PbMode.code : PbMode → Nat
  | .idle => 0 | .pressed => 1 | .lockout => 2

/-- Table 10.19. -/
def RingState.code : RingState → Nat
  | .noLink => 0 | .awaiting => 1 | .admitted => 2 | .fenced => 3 | .notAdmitted => 4 | .conflict => 5 | .isolated => 6

/-- Table 10.21. -/
def TwinState.code : TwinState → Nat
  | .off => 0 | .passive => 1 | .solo => 2 | .co => 3 | .blocked => 4 | .diverged => 5

/-- The log controller captures event shards: Ready, Firing, Running or Cooling (R181). -/
def DevState.logs : DevState → Bool
  | .ready | .firing | .running | .cooling => true
  | _ => false

/-! ## Comparators (03) -/

/-- Comparator of source s. -/
def State.cmp (s : State) (src : Nat) : Cmp := Tab.getD s.sense.cmps src {}

/-- The state with the comparator of source src changed. -/
def State.setCmp (s : State) (src : Nat) (c : Cmp) : State :=
  { s with sense := { s.sense with cmps := Tab.put {} s.sense.cmps src c } }

/-- The comparator is under self-test (R84). -/
def State.underTest (s : State) (src : Nat) : Bool := s.sense.test.src == some src

/-- A blanking window of either source is open (R77, R81). -/
def Cmp.blanked (c : Cmp) : Bool := c.syncClose.isSome || c.enClose.isSome

/-- An override holds the delivered output (R70). -/
def State.holdsOutput (s : State) (src : Nat) : Bool :=
  (s.cmp src).settle.isSome || (s.cmp src).blanked || s.underTest src

/-- UVF and UVW of rail n are always armed (CH_CFG.uv_always, R73). -/
def State.uvAlways (s : State) (n : Nat) : Bool := bit (s.cfgAt (0x20000 + n * 0x100)) 8

/-- Under twin supervision EN n reads low, which disarms UVF and UVW of its rail (R270). -/
def State.pinLow (s : State) (n : Nat) : Bool := bit (s.cfgAt 0xA0000) 31 && !s.out.passive && !bit s.inp.enHigh n

/-- The comparator is armed (R73, R270). -/
def State.armed (s : State) (src : Nat) : Bool :=
  decide (2 ≤ src % 4) || (((s.cmp src).armed || s.uvAlways (src / 4)) && !s.pinLow (src / 4))

/-- Delivered outputs of all comparators, bit src set on the fault side. -/
def State.outs (s : State) : BitVec 256 :=
  s.sense.cmps.foldl (fun w e => if e.2.out then w else w &&& ~~~ (one 256 e.1)) (BitVec.allOnes 256)

/-- The number of comparators with a status; an unlisted one is unresolved. -/
def State.countStatus (s : State) (x : Status) : Nat :=
  (s.sense.cmps.filter (fun e => e.2.status == x)).length + (if x = .unresolved then 256 - s.sense.cmps.length else 0)

/-- Grade, mode, threshold and the other fields of CH_CMP_CFGk (Table 03.26). -/
def State.cmpGrade (s : State) (src : Nat) : Nat := fld (s.cmpCfg src) 31 30

/-- The mode in force: mode Z in Standby for a comparator that has not failed, mode F for a safety fault comparator in Coppice mode and
Z else (R47, R97), the configured mode from stage 5, after a wake from its arming (R40, R49, R71). -/
def State.cmpMode (s : State) (src : Nat) : Nat :=
  if s.pm.state = .coppice then (if s.isSafety (src / 4) && (src % 4 == 0 || src % 4 == 3) then 0 else 3)
  else if s.pm.state = .starting ∧ s.pm.stage < 5 then 3
  else if (s.pm.state = .standby ∨ (s.pm.state = .starting ∧ s.pm.stage = 8)) ∧ (s.cmp src).status ≠ .failed then 3
  else fld (s.cmpCfg src) 29 28

/-- Settle time of a mode, in ticks (Table 03.4). -/
def settleTicks : Nat → Nat
  | 0 => 200 | 1 => 400 | 2 => 2000 | _ => 20000

/-- The threshold code T in force: the ramp position while a ramp runs, the static code else (03). -/
def State.threshold (s : State) (src : Nat) : Nat :=
  match (s.cmp src).ramp with
  | some r => r.pos
  | none => fld (s.cmpCfg src) 11 0

/-- What the threshold DAC is set to: code 0x0800 in phases 1 to 4 of the comparator's self-test (R84), else the code in force. -/
def State.dacCode (s : State) (src : Nat) : Nat :=
  if s.underTest src && decide (s.sense.test.phase < 5) then 0x800 else s.threshold src

/-- CH_STATUS of rail n (Table 03.23). -/
def State.chStatus (s : State) (n : Nat) : Word :=
  [0, 1, 2, 3].foldl (fun w k =>
    let c := s.cmp (4 * n + k)
    w ||| at_ c.status.code (2 * k) ||| flag c.out (8 + k) ||| flag c.ramp.isSome (12 + k) ||| flag c.blanked (16 + k)
      ||| flag c.settle.isSome (20 + k)) 0
  ||| flag (s.armed (4 * n)) 24 ||| flag (s.armed (4 * n + 1)) 25

/-- Input is read as a signed code: currents and diodes (Table 03.2). -/
def State.signedInput (s : State) (i : Nat) : Bool :=
  (decide (64 ≤ i) && decide (i < 96)) || (decide (96 ≤ i) && !bit (s.cfgAt (0x26000 + 0x10 * (i - 96))) 16)

/-- A code of an input as the number it stands for. -/
def State.inputValue (s : State) (i : Nat) (c : BitVec 16) : Int := if s.signedInput i then c.toInt else c.toNat

/-- The latest reading of an input. -/
def State.reading (s : State) (i : Nat) : Reading := Tab.getD s.sense.readings i {}

/-- What the core sees of comparator src and of an input's latest reading: while crossing 1 reports CLOCK_STOPPED, what it passed last
(R321). -/
def State.coreCmp (s : State) (src : Nat) : Cmp :=
  match s.frozen with
  | some f => Tab.getD f.sense.cmps src {}
  | none => s.cmp src
def State.coreReading (s : State) (i : Nat) : Reading :=
  match s.frozen with
  | some f => Tab.getD f.sense.readings i {}
  | none => s.reading i

/-- What engine k sees of them: SG runs on the sense die, the engines of the Kiln in the core (R244, R321). -/
def State.engCmp (s : State) (k src : Nat) : Cmp := if k = 4 then s.cmp src else s.coreCmp src
def State.engReading (s : State) (k i : Nat) : Reading := if k = 4 then s.reading i else s.coreReading i

/-! ## PWM (13) -/

/-- Channel c. -/
def State.ch (s : State) (c : Nat) : PwmCh := nth s.pwm.chs c {}

/-- PW_CHc_CFG and PW_PAIRp_CFG. -/
def State.pwCfg (s : State) (c : Nat) : Word := s.cfgAt (0xD0100 + 0x20 * c)
def State.pairComp (s : State) (c : Nat) : Bool := bit (s.cfgAt (0xD0040 + 4 * (c / 2))) 31
def State.deadTime (s : State) (c : Nat) : Nat := fld (s.cfgAt (0xD0040 + 4 * (c / 2))) 9 0

/-- The channel whose counter drives channel c: the even one of a complementary pair (R328). -/
def State.pwBase (s : State) (c : Nat) : Nat := if s.pairComp c then 2 * (c / 2) else c

/-- The counter of a channel (R326). -/
def PwmCh.counter (h : PwmCh) (now : Nat) : Nat :=
  if h.running then (h.base + (now - h.start)) % (h.p + 1) else h.base

/-- The raw signal r of a channel (R327). -/
def PwmCh.raw (h : PwmCh) (now : Nat) : Bool :=
  decide (h.c = 0xFFFF) || (decide (h.c ≠ 0) && decide (h.counter now < h.c))

/-- Channel c runs, the odd one of a complementary pair with its even one (R329). -/
def State.pwRuns (s : State) (c : Nat) : Bool := (s.ch (s.pwBase c)).running

/-- LOAD_ALL as it stands in the present tick: from the tick after it was set, only running channels still have a transfer due (R330). -/
def State.loadAllNow (s : State) : Bool :=
  s.pwm.loadAll && (decide (s.clk.now ≤ s.pwm.loadTick)
    || (List.range 16).any (fun c => (s.ch c).due && s.pwRuns c))

/-- PW_IRQ as it stands in the present tick: load_done sets with the last transfer (R330). -/
def State.pwIrqNow (s : State) : Word := if s.pwm.loadAll && !s.loadAllNow then s.irq.pw ||| 4 else s.irq.pw

/-- The level of PWMSO (R332). -/
def State.pwmso (s : State) : Bool := s.pwm.so.isSome && decide (s.pwm.soFrom ≤ s.clk.now)

/-- The pin of channel c is withheld by twin supervision (R339). -/
def State.pwWithheld (s : State) (c : Nat) : Bool :=
  bit (s.rawAt 0xA0000) 31 && (s.inp.twside != bit (s.rawAt 0xA0008) c)

/-- The level of the pin of channel c; none at high impedance (R329, R335, R339). During a commit sequence the pads keep the trip
levels of the configuration, whose registers have been reset (R52). -/
def State.pwPin (s : State) (c : Nat) : Option Bool :=
  let cfg := s.rawAt (0xD0100 + 0x20 * c)
  if !s.pwm.pads || s.pwWithheld c then none
  else if !s.pwRuns c || (s.ch c).latch || (s.ch c).await then
    (match fld cfg 17 16 with | 0 => some false | 1 => some true | _ => none)
  else some ((s.ch c).out ^^ bit cfg 8)

/-- The trip sources that are asserted, as bits 13:0 of PW_TRIP_SRC (Table 13.6). -/
def State.tripSources (s : State) : Word :=
  s.inp.tripi.zeroExtend 32 ||| at_ s.sense.fltLevel.toNat 4 ||| flag s.out.tripo 12 ||| flag s.out.pfw 13

/-- The sources that channel c names, placed as in PW_TRIP_SRC (Table 13.9). -/
def State.tripNamed (s : State) (c : Nat) : Word :=
  let cfg := s.pwCfg c
  at_ (fld cfg 31 28) 0 ||| at_ (fld cfg 27 20) 4 ||| flag (bit cfg 19) 12 ||| flag (bit cfg 18) 13

/-! ## The byte fields of a shard (Table 07.5) -/

/-- CT_WALK_STATUS bits 31:29. -/
def Walk.bits (w : Walk) : Nat := (if w.active then 4 else 0) + (if w.grace then 2 else 0) + (if w.waiting then 1 else 0)

/-- The readings field: the latest reading of each input, 0 for one never read. -/
def State.shardReadings (s : State) : List Byte :=
  (List.range 112).flatMap (fun i => leBytes 2 (s.reading i).code.toNat)

/-- The channel state byte of rail n. -/
def State.channelByte (s : State) (n : Nat) : Byte :=
  let ks := [0, 1, 2, 3]
  let any := fun p => ks.any (fun k => p (4 * n + k))
  BitVec.ofNat 8 (ks.foldl (fun w k => w + (if (s.cmp (4 * n + k)).out then 2 ^ k else 0)) 0
    + (if bit s.out.en n then 16 else 0) + (if bit s.kiln.failBits n then 32 else 0)
    + (if any (fun x => (s.cmp x).status == .unresolved || (s.cmp x).status == .failed) then 64 else 0)
    + (if any (fun x => s.holdsOutput x) then 128 else 0))

/-- The three bytes of an engine's position. -/
def engineBytes (e : Engine) : List Byte :=
  leBytes 3 (e.shown + e.st.code * 4096 + (if e.cf then 32768 else 0) + (if e.tmo then 65536 else 0)
    + (if e.cl then 131072 else 0))

/-- The engine positions field. -/
def State.shardEngines (s : State) : List Byte :=
  (s.kiln.engines.take 4).flatMap engineBytes ++ leBytes 2 (nth s.kiln.engines 4 {}).shown
    ++ leBytes 2 (s.walk.entry + s.walk.table * 128 + s.walk.bits * 1024)

/-- The PWM and trip state field. -/
def State.shardPwm (s : State) : List Byte :=
  leBytes 2 (maskOf 16 (fun c => s.pwPin c == some true)).toNat ++ leBytes 2 (maskOf 16 s.pwRuns).toNat
    ++ leBytes 2 (maskOf 16 (fun c => (s.ch c).latch)).toNat
    ++ [BitVec.ofNat 8 (s.inp.tripi.toNat + (if s.out.tripo then 240 else 0)), s.sense.fltLevel,
        BitVec.ofNat 8 ((if s.out.pfw then 1 else 0) + (if s.out.hrst then 2 else 0) + (if s.pm.faultLatch then 4 else 0)
          + (if s.loadAllNow then 8 else 0))] ++ zeros 7

/-- The cooling in progress is under an H table: C6 or one loaded hard (R133). -/
def State.isHTable (s : State) (c : Nat) : Bool := decide (c = 6) || (nth s.fault.tables c {}).hard

end Sys2Proof.Machine
end

