-- ==== Sys2Proof/Machine/Cert.lean ====
section
/-! DEFINITION. Sys2Proof/Machine/Cert.lean: the certificates of GET_CERT (R232): X.509 version 3, DER-encoded. What the rule states of
the two device certificates is written out; what it leaves open is a constant without a body (log entry 10). -/

set_option Elab.async false

namespace Sys2Proof.Machine

/-- The DER length octets of a content of n bytes, n below 2^24. -/
def derLen (n : Nat) : List Byte :=
  if n < 128 then [BitVec.ofNat 8 n]
  else if n < 256 then [0x81, BitVec.ofNat 8 n]
  else if n < 65536 then [0x82, BitVec.ofNat 8 (n / 256), BitVec.ofNat 8 n]
  else [0x83, BitVec.ofNat 8 (n / 65536), BitVec.ofNat 8 (n / 256), BitVec.ofNat 8 n]

/-- A DER value: tag, length, content. -/
def der (tag : Byte) (content : List Byte) : List Byte := tag :: (derLen content.length ++ content)

/-- A DER SEQUENCE of values. -/
def derSeq (l : List (List Byte)) : List Byte := der 0x30 l.flatten

/-- A DER BIT STRING of whole bytes. -/
def derBits (l : List Byte) : List Byte := der 0x03 (0 :: l)

/-- The algorithm identifier of a device certificate (R232): 1.3.101.112 for index 0, 2.16.840.1.101.3.4.3.18 for index 1. -/
def certAlgorithm (i : Nat) : List Byte :=
  derSeq [der 0x06 (if i = 0 then [0x2B, 0x65, 0x70] else [0x60, 0x86, 0x48, 0x01, 0x65, 0x03, 0x04, 0x03, 0x12])]

/-- A value below 16 as an upper-case hex digit in ASCII. -/
def hexDigit (n : Nat) : Byte := BitVec.ofNat 8 (if n < 10 then 48 + n else 55 + n)

/-- The unique ID as 32 upper-case hex digits (R232), the most significant first. -/
def uidHex (u : Uid) : List Byte := (List.range 32).map (fun i => hexDigit (u.toNat >>> (4 * (31 - i)) % 16))

/-- The subject: the serialNumber attribute (2.5.4.5), a PrintableString of the unique ID, and what other attributes there are. -/
def certSubject (u : Uid) : List Byte :=
  derSeq [der 0x31 (derSeq [der 0x06 [0x55, 0x04, 0x05], der 0x13 (uidHex u)]), Config.certPart 0 0]

/-- notAfter (R232): the GeneralizedTime 99991231235959Z. -/
def certNotAfter : List Byte :=
  der 0x18 [0x39, 0x39, 0x39, 0x39, 0x31, 0x32, 0x33, 0x31, 0x32, 0x33, 0x35, 0x39, 0x35, 0x39, 0x5A]

/-- What the intermediate signs of device certificate i: version 3, serial number, signature algorithm, issuer, validity, subject,
public key, extensions. -/
def certBody (u : Uid) (i : Nat) : List Byte :=
  derSeq [der 0xA0 (der 0x02 [2]), Config.certPart i 1, certAlgorithm i, Config.certPart i 2,
    derSeq [Config.certPart i 3, certNotAfter], certSubject u,
    derSeq [certAlgorithm i, derBits (Config.identityKey i)], Config.certPart i 4]

/-- The certificate of an index of GET_CERT: the device's two, then the intermediate and the root. -/
def State.cert (s : State) (i : Nat) : List Byte :=
  if i < 2 then
    derSeq [certBody s.ident.uid i, certAlgorithm i, derBits (Config.issuerSign i (certBody s.ident.uid i))]
  else Config.issuerCert i

end Sys2Proof.Machine
end

