-- ==== Sys2Proof/Machine/Ladder.lean ====
section
/-! DEFINITION. Sys2Proof/Machine/Ladder.lean: the priority ladder by which shared resources are granted (R323). -/

set_option Elab.async false

namespace Sys2Proof.Machine

/-- A request that waits for a shared resource: its level of Table 12.7, the tick at which it was raised, and who raised it. -/
structure Ask (α : Type) where
  level : Nat
  since : Nat
  user : α

variable {α : Type}

/-- The place in which R323 looks at a request: level 1, level 2, the requests of levels 4 to 6 that have waited 100 µs, then levels
3 to 6. -/
def Ask.turn (a : Ask α) (now : Nat) : Nat :=
  if a.level ≤ 2 then a.level else if 4 ≤ a.level ∧ a.since + 20000 ≤ now then 3 else a.level + 1

/-- One request is granted before another: by its place, and in one place by its age. -/
def Ask.ahead (a b : Ask α) (now : Nat) : Bool :=
  decide (a.turn now < b.turn now) || (a.turn now == b.turn now && decide (a.since < b.since))

/-- The request that a grant goes to; of two that nothing sets apart, the first of the list. -/
def grant (now : Nat) : List (Ask α) → Option (Ask α)
  | [] => none
  | a :: rest =>
    match grant now rest with
    | some b => if b.ahead a now then some b else some a
    | none => some a

/-- A grant of the MRAM port: after 16 in a row to the archive copier a request of levels 3 to 6 comes before its next one, and a
level 2 write of the flight recorder before either. -/
def mramGrant (copier : α → Bool) (run now : Nat) (l : List (Ask α)) : Option (Ask α) :=
  if run < 16 then grant now l
  else
    (grant now (l.filter (fun a => decide (a.level ≤ 2) && !copier a.user))).or
      ((grant now (l.filter (fun a => decide (3 ≤ a.level)))).or (grant now l))

/-- Of the ring's bypass buffer (true) and the device's own frames (false), the one that sends next: in turn whenever both wait
(R252). -/
def ringTurn (last bypass own : Bool) : Option Bool :=
  if bypass && own then some (!last) else if bypass then some true else if own then some false else none

end Sys2Proof.Machine
end

