-- ==== Sys2Proof/Machine/Ops.lean ====
section
/-! DEFINITION. Sys2Proof/Machine/Ops.lean: the shared operations on state: interrupt bits, shards, pins, trim outputs, ring
transmission. -/

set_option Elab.async false

namespace Sys2Proof.Machine

/-! ## Interrupt registers (R206) -/

/-- Hardware has set bits of the W1C register at an address in the present tick (R349). -/
def State.noteSet (s : State) (a : Nat) (m : Word) : State :=
  let old := if s.irq.freshAt = s.clk.now then s.irq.fresh else []
  { s with irq := { s.irq with freshAt := s.clk.now, fresh := Tab.put 0 old a (Tab.getD old a 0 ||| m) } }

/-- The bits of the W1C register at an address that hardware has set in the present tick: a write of 1 in the same tick leaves them set
(Table 14.5). -/
def State.justSet (s : State) (a : Nat) : Word := if s.irq.freshAt = s.clk.now then Tab.getD s.irq.fresh a 0 else 0

def State.irqCt (s : State) (i : Nat) : State :=
  State.noteSet { s with irq := { s.irq with ct := putBit s.irq.ct i true } } 0x6016C (one 32 i)
def State.irqLg (s : State) (i : Nat) : State :=
  State.noteSet { s with irq := { s.irq with lg := putBit s.irq.lg i true } } 0x8004C (one 32 i)
def State.irqCm (s : State) (i : Nat) : State :=
  State.noteSet { s with irq := { s.irq with cm := putBit s.irq.cm i true } } 0x9000C (one 32 i)
def State.irqGl (s : State) (i : Nat) : State :=
  State.noteSet { s with irq := { s.irq with gl := putBit s.irq.gl i true } } 0xA0040 (one 32 i)
def State.irqTw (s : State) (i : Nat) : State :=
  State.noteSet { s with irq := { s.irq with tw := putBit s.irq.tw i true } } 0xB0100 (one 32 i)
def State.irqCk (s : State) (i : Nat) : State :=
  State.noteSet { s with irq := { s.irq with ck := putBit s.irq.ck i true } } 0xC0028 (one 32 i)
def State.irqPw (s : State) (i : Nat) : State :=
  State.noteSet { s with irq := { s.irq with pw := putBit s.irq.pw i true } } 0xD0018 (one 32 i)

/-- HINT is asserted: a reply waits with CM_INT_EN.reply set, or an enabled block has an interrupt bit set (R206). -/
def State.hint (s : State) : Bool :=
  let en := s.cfgAt 0x90008
  (bit en 7 && s.port.replies.any (fun r => !r.ring)) || (bit en 0 && s.irq.ct != 0) || (bit en 1 && s.irq.lg != 0)
    || (bit en 2 && s.irq.cm != 0) || (bit en 3 && s.irq.gl != 0) || (bit en 4 && s.irq.tw != 0)
    || (bit en 5 && s.irq.ck != 0) || (bit en 6 && s.pwIrqNow != 0)

/-- The number of a fresh free value (log entry 7). -/
def State.takeFree (s : State) : State := { s with free := s.free + 1 }

/-! ## Shards (R178 to R182) -/

/-- Grade and cause of a fault shard's event record. -/
def eventGrade (event : List Byte) : Nat := (event.getD 1 0).toNat

/-- A fault shard of grade T or H, or of a force-off. -/
def gravely (kind : Nat) (event : List Byte) : Bool :=
  kind == 2 && (decide (2 ≤ eventGrade event) || event.headD 0 == 0x28)

/-- Security shards captured in the present whole second. -/
def State.secInSecond (s : State) : Nat := if s.log.secSecond = s.clk.stamp / 200000000 then s.log.secCount else 0

/-- A shard captured now is archived by kind (Table 07.3). -/
def State.archived (s : State) (kind : Nat) (event : List Byte) : Bool :=
  kind == 4 || kind == 7 || kind == 10 || kind == 12 || kind == 13 || gravely kind event
    || (kind == 5 && bit (s.cfgAt 0x70800) 7)
    || (kind == 6 && bit (s.cfgAt 0x80008) 1 && decide (s.secInSecond < 100))

/-- A fault shard captured now triggers a window (R187): disposition other than a repeat, grade T or H or a force-off, or
grade W under freeze_w. A fault that finds the queue full is written to the flight recorder only (R145), while Table 07.3 and R187
archive a shard by its kind and grade: that it is archived and triggers a window is the model's choice (log entry 58). -/
def State.triggers (s : State) (kind : Nat) (event : List Byte) : Bool :=
  kind == 2 && event.getD 4 0 != 4 && (gravely kind event || (eventGrade event == 1 && bit (s.cfgAt 0x80008) 2))

/-- A shard of the present tick: kind, cause byte, extra flags and event record. -/
def State.shardNow (s : State) (kind cause flags : Nat) (event : List Byte) : Shard where
  stamp := s.clk.stamp
  kind := BitVec.ofNat 8 kind
  flags := BitVec.ofNat 8 (flags + (if s.clk.mode = .slewing then 1 else 0))
  dstate := BitVec.ofNat 8 s.pm.state.code
  cause := BitVec.ofNat 8 cause
  readings := s.shardReadings
  channel := (List.range 64).map s.channelByte
  engines := s.shardEngines
  pwm := s.shardPwm
  event := (event ++ zeros 96).take 96
  byKind := s.archived kind event
  trigger := s.triggers kind event

/-- The buffer without its most recent snapshot. -/
def dropSnapshot (b : List Shard) : List Shard := (b.reverse.eraseP (fun x => x.kind == 1)).reverse

/-- A captured shard enters the buffer of 32; a full buffer drops a snapshot, or the event where it holds none (R182). -/
def Log.push (l : Log) (x : Shard) : Log :=
  if l.buffer.length < 32 then { l with buffer := l.buffer ++ [x] }
  else if x.kind = 1 then
    { l with snapSkipped := inc 65535 l.snapSkipped, dropSnaps := l.dropSnaps + 1, skipFlag := true }
  else if l.buffer.any (fun y => y.kind == 1) then
    { l with buffer := dropSnapshot l.buffer ++ [x], snapSkipped := inc 65535 l.snapSkipped,
             dropSnaps := l.dropSnaps + 1, skipFlag := true }
  else { l with eventLost := inc 255 l.eventLost, dropEvents := l.dropEvents + 1, skipFlag := true }

/-- The state with a shard captured. -/
def State.push (s : State) (x : Shard) : State := { s with log := s.log.push x }

/-- A shard is captured in the present tick, where the device's state captures shards (R181). -/
def State.capture (s : State) (kind cause : Nat) (event : List Byte) : State :=
  { s with log := if s.pm.state.logs then s.log.push (s.shardNow kind cause 0 event) else s.log }

/-- A log event of Table 07.8: code, region, values 1 and 2. -/
def State.logEvent (s : State) (code region v1 v2 : Nat) : State :=
  s.capture 0x0D code ([BitVec.ofNat 8 code, BitVec.ofNat 8 region] ++ zeros 6 ++ leBytes 8 v1 ++ leBytes 8 v2)

/-- The fault shard of a fault (Table 07.3). -/
def State.faultShard (s : State) (f : FaultRec) (disposition table repeats : Nat) : State :=
  s.capture 0x02 f.cause.toNat
    ([f.cause, f.grade.zeroExtend 8, f.source, f.detail, BitVec.ofNat 8 disposition, BitVec.ofNat 8 table]
      ++ leBytes 2 repeats)

/-- A transition from one state to another is captured (R181). -/
def transitionLogged (a b : DevState) : Bool :=
  (a.logs && (b.logs || b == .standby)) || (a == .starting && b == .ready)

/-- The device changes state, with its PM cause and its transition shard (R22, R181). -/
def State.goTo (s : State) (st : DevState) (cause : Nat) : State :=
  let t := { s with pm := { s.pm with state := st, lastCause := BitVec.ofNat 8 cause } }
  { t with log := if transitionLogged s.pm.state st then
      t.log.push (t.shardNow 0x03 cause 0
        [BitVec.ofNat 8 s.pm.state.code, BitVec.ofNat 8 st.code, BitVec.ofNat 8 cause]) else t.log }

/-! ## PWM trips (R334, R335) -/

/-- A channel after a trip: latched, output stopped, dead-time count cancelled. -/
def PwmCh.trip (h : PwmCh) : PwmCh := { h with latch := true, dead := none, out := false }

/-- A channel whose partner in a complementary pair trips in dead time: it goes to its trip level at once and its rising edge never
occurs (R335). It names no source that asserted and has no latch set; that it keeps the trip level until its next period start is the
model's choice (log entry 65). -/
def PwmCh.mate (h : PwmCh) : PwmCh := { h with await := true, dead := none, out := false }

/-- Channels that are not hit by a trip, but whose partner is, in the dead time of their complementary pair (R335). -/
def State.tripMates (s : State) (hits : BitVec 16) : BitVec 16 :=
  maskOf 16 (fun c =>
    let d := if c % 2 = 0 then c + 1 else c - 1
    bit hits d && !bit hits c && s.pairComp c && ((s.ch c).dead.isSome || (s.ch d).dead.isSome))

/-- Channels not latched that name one of the sources. -/
def State.tripHits (s : State) (src : Word) : BitVec 16 :=
  maskOf 16 (fun c => s.tripNamed c &&& src != 0 && !(s.ch c).latch)

/-- The named sources assert: each channel that names one of them latches, is counted and raises PW_IRQ.trip, while the
channels live (Table 13.1). -/
def State.tripPwm (s : State) (src : Word) : State :=
  let hits := s.tripHits src
  let mates := s.tripMates hits
  if s.pm.state.logs && hits != 0 then
    State.noteSet (State.irqPw { s with
      pwm := { s.pwm with
        chs := s.pwm.chs.mapIdx (fun c h => if bit hits c then h.trip else if bit mates c then h.mate else h)
        tripCount := incBy 65535 s.pwm.tripCount (bitsOf hits).length } } 0) 0xD000C (hits.zeroExtend 32)
  else s

/-! ## PFW, TRIPO and HRST (R129 to R131, R150) -/

/-- PFW asserts, and with it the channels that name it trip. -/
def State.assertPfw (s : State) : State :=
  { (if s.out.pfw then s else s.tripPwm (flag true 13)) with out := { s.out with pfw := true } }

/-- TRIPO0 to TRIPO3 assert together (R338), and the channels that name the device trip, trip. -/
def State.assertTripo (s : State) : State :=
  { (if s.out.tripo then s else s.tripPwm (flag true 12)) with out := { s.out with tripo := true } }

/-- PFW and TRIPO0 to TRIPO3 are released. -/
def State.releaseTrips (s : State) : State := { s with out := { s.out with pfw := false, tripo := false } }

/-- HRST follows MR, its stretch and the start-up stages (R150). -/
def State.updateHrst (s : State) : State :=
  { s with out := { s.out with hrst := s.inp.mr || s.ctl.hrstDue.isSome || s.pm.state == .starting && s.pm.stage ≤ 5 } }

/-! ## FLT pins (R85, R89 to R91) -/

/-- Delivered outputs as the routing matrix sees them: a tested UVF or OVF with its partner's stand-in (R85); in Coppice
mode only the UVF and OVF of safety rails (R91). -/
def State.fltSources (s : State) : BitVec 256 :=
  let o := s.outs
  let o := match s.sense.test.src with
    | some t => if t % 4 = 0 ∧ bit o (t + 1) = true then o ||| one 256 t
                else if t % 4 = 3 ∧ bit o (t - 1) = true then o ||| one 256 t else o
    | none => o
  if s.pm.state = .coppice then o &&& maskOf 256 (fun x => s.isSafety (x / 4) && (x % 4 == 0 || x % 4 == 3)) else o

/-- The sources routed to pin p. -/
def State.fltRoute (s : State) (p : Nat) : BitVec 256 :=
  BitVec.ofNat 256 ((List.range 8).foldl (fun n w => n + (s.cfgAt (0x30000 + 0x20 * p + 4 * w)).toNat <<< (32 * w)) 0)

/-- Pins with a routed source on the fault side. -/
def State.fltRaw (s : State) : Byte :=
  let o := s.fltSources
  maskOf 8 (fun p => s.fltRoute p &&& o != 0)

/-- FL_PIN_CFGp.stretch and latch of every pin. -/
def State.fltStretchOn (s : State) : Byte := maskOf 8 (fun p => bit (s.cfgAt (0x30100 + 4 * p)) 0)
def State.fltLatchOn (s : State) : Byte := maskOf 8 (fun p => bit (s.cfgAt (0x30100 + 4 * p)) 1)

/-- The FLT pins after the pins with a source on the fault side changed from `before` to `now`: assertions latch, the end of
an assertion is stretched by 1.0 µs (R90, log entry 16). -/
def Sense.flt (n : Sense) (now : Nat) (before raw latchOn stretchOn : Byte) : Sense :=
  let rise := raw &&& ~~~before
  let fall := before &&& ~~~raw
  let latched := n.fltLatched ||| (rise &&& latchOn)
  let stretch := (List.range 8).foldl (fun t p =>
    if bit rise p then Tab.erase t p
    else if bit fall p && bit stretchOn p then Tab.insert (Tab.erase t p) p (now + 200) else t) n.fltStretch
  { n with
    fltLatched := latched
    fltStretch := stretch
    fltLevel := raw ||| latched ||| maskOf 8 (fun p => (Tab.get? stretch p).isSome) }

/-- The pins follow the matrix from stage 5 on; before that they are asserted (R34, R89). -/
def State.fltLive (s : State) : Bool := !(s.pm.state == .off || (s.pm.state == .starting && decide (s.pm.stage < 5)))

/-- The FLT pins after a change of delivered outputs or of their routing, `old` being the state before it; a pin that asserts
trips the PWM channels that name it. -/
def State.refreshFlt (s old : State) : State :=
  if s.fltLive then
    let n := s.sense.flt s.clk.now (if old.fltLive then old.fltRaw else 0) s.fltRaw s.fltLatchOn s.fltStretchOn
    let rise := n.fltLevel &&& ~~~s.sense.fltLevel
    { s with sense := n }.tripPwm (at_ rise.toNat 4)
  else s

/-! ## Trim outputs (R158 to R161) -/

/-- A signed field of a word. -/
def sfld {n : Nat} (w : BitVec n) (hi lo : Nat) : Int := (BitVec.ofNat (hi + 1 - lo) (fld w hi lo)).toInt

/-- The trim codes of rail n (Table 06.6). -/
def State.bandLo (s : State) (n : Nat) : Int := sfld (s.cfgAt (0x70000 + 0x20 * n)) 11 0
def State.bandHi (s : State) (n : Nat) : Int := sfld (s.cfgAt (0x70000 + 0x20 * n)) 27 16
def State.marginLo (s : State) (n : Nat) : Int := sfld (s.cfgAt (0x70004 + 0x20 * n)) 11 0
def State.marginHi (s : State) (n : Nat) : Int := sfld (s.cfgAt (0x70004 + 0x20 * n)) 27 16
def State.discharge (s : State) (n : Nat) : Int := sfld (s.cfgAt (0x70008 + 0x20 * n)) 11 0
def State.nominal (s : State) (n : Nat) : Int := sfld (s.cfgAt (0x70008 + 0x20 * n)) 27 16

/-- The trim output of rail n. -/
def State.trim (s : State) (n : Nat) : Trim := Tab.getD s.mg.trims n {}

/-- The state with a rail's trim record changed. -/
def State.setTrim (s : State) (n : Nat) (t : Trim) : State :=
  { s with mg := { s.mg with trims := Tab.put {} s.mg.trims n t } }

/-- A code as it is applied: clamped to the safe band unless it is the discharge code (R160). -/
def State.clampCode (s : State) (n : Nat) (code : Int) : Int := clampInt (s.bandLo n) (s.bandHi n) code

/-- TM n is held at high impedance because the twin of the other side drives it (R265). -/
def State.trimWithheld (s : State) (n : Nat) : Bool :=
  bit (s.cfgAt 0xA0000) 31 && (s.inp.twside != bit (s.cfgAt (0xA000C + 4 * (n / 32))) (n % 32))

/-- A code is applied to TM n under a level of Table 06.10; every level but the discharge is clamped (R160, R161). -/
def State.applyTrim (s : State) (n level : Nat) (code : Int) : State :=
  if s.trimWithheld n then s else
  let c := if level = 5 then code else s.clampCode n code
  s.setTrim n { s.trim n with code := BitVec.ofInt 12 c, level := BitVec.ofNat 3 level, clamped := decide (c ≠ code) }

/-- Every trim output goes to high impedance (Table 06.1). No code is applied, so that `clamped` stays (R160). -/
def State.trimsOff (s : State) : State :=
  { s with mg := { s.mg with trims :=
      (s.mg.trims.map (fun e => (e.1, { e.2 with level := 6, code := 0 }))).filter (fun e => e.2 != {}) } }

/-- TM n takes its nominal code. -/
def State.trimNominal (s : State) (n : Nat) : State := s.applyTrim n 0 (s.nominal n)

/-- TM n takes its discharge code (R139). -/
def State.trimDischarge (s : State) (n : Nat) : State := s.applyTrim n 5 (s.discharge n)

/-! ## Ring transmission (R250 to R254) -/

/-- The device transmits on its Garura ports (R250, R301). -/
def State.transmits (s : State) : Bool :=
  s.pm.state.logs && s.clk.corePll && s.clk.pllLocked && !s.clk.pllRefRc

/-- Link p. -/
def State.link (s : State) (p : Link) : GLink := match p with | .a => s.ring.linkA | .b => s.ring.linkB

/-- Code violations of the ports' receivers (R277). -/
def State.symbolErrors (s : State) (a b : Nat) : State :=
  { s with ring := { s.ring with
    linkA := { s.ring.linkA with symbolErr := incBy 255 s.ring.linkA.symbolErr a }
    linkB := { s.ring.linkB with symbolErr := incBy 255 s.ring.linkB.symbolErr b } } }

/-- The other port. -/
def otherLink : Link → Link
  | .a => .b
  | .b => .a

/-- Port p carries frames of its direction: its link is up and it is not wrapped (R263). -/
def State.linkOpen (s : State) (p : Link) : Bool := s.transmits && (s.link p).up && !(s.link p).wrapped

/-- A frame leaves in a direction; where that port is down or wrapped it is turned and leaves by the other one (R263). -/
def State.sendAs (s : State) (p : Link) (crcOk : Bool) (f : Frame) : State :=
  if s.linkOpen p then { s with ring := { s.ring with tx := s.ring.tx ++ [f.sealed p crcOk] } }
  else if s.linkOpen (otherLink p) then
    { s with ring := { s.ring with
      tx := s.ring.tx ++ [{ f with flags := f.flags ||| 2 }.sealed (otherLink p) crcOk] } }
  else s

/-- The port by which a frame of a direction leaves, if one is up. -/
def State.outLink (s : State) (p : Link) : Option Link :=
  if s.linkOpen p then some p else if s.linkOpen (otherLink p) then some (otherLink p) else none

/-- A link of the ring block changed. -/
def Ring.setLink (r : Ring) (p : Link) (f : GLink → GLink) : Ring :=
  match p with
  | .a => { r with linkA := f r.linkA }
  | .b => { r with linkB := f r.linkB }

/-- Ticks that a frame occupies its port: /S/, header, payload, CRC and /T/, 25 ns a symbol (R249, R251). -/
def frameTicks (f : Frame) : Nat := 5 * (18 + f.payload.length)

/-- A frame of the device's own leaves in a direction; it occupies its port behind those that have not ended (R251, R252). -/
def State.sendFrame (s : State) (p : Link) (f : Frame) : State :=
  let t := s.sendAs p true f
  match s.outLink p with
  | some q => { t with ring := t.ring.setLink q (fun g => { g with ownUntil := max g.ownUntil s.clk.now + frameTicks f }) }
  | none => t

/-- A frame of the device's own is in progress on the port by which a frame of a direction leaves, which therefore waits in the bypass
buffer (R252). -/
def State.ownInProgress (s : State) (p : Link) : Bool :=
  (s.outLink p).any (fun q => decide (s.clk.now < (s.link q).ownUntil))

/-- An /H/ leaves in a direction, by the other port where that one is down or wrapped (R254, R263). -/
def State.sendHorn (s : State) (p : Link) (orig seq : Nat) : State :=
  if s.linkOpen p then { s with ring := { s.ring with txHorns := s.ring.txHorns ++ [(p, orig, seq)] } }
  else if s.linkOpen (otherLink p) then
    { s with ring := { s.ring with txHorns := s.ring.txHorns ++ [(otherLink p, orig, seq)] } }
  else s

/-- The horn window is open (R254). -/
def State.hornOpen (s : State) : Bool := decide (s.clk.now < s.ring.hornWindow)

/-- A frame of the device's own, with the horn bit while its horn window is open (R252). -/
def State.ownFrame (s : State) (kind dest : Nat) (payload : List Byte) : Frame where
  kind := BitVec.ofNat 8 kind
  flags := if s.hornOpen then 1 else 0
  dest := BitVec.ofNat 12 dest
  src := BitVec.ofNat 12 s.ring.address
  hornOrig := if s.hornOpen then BitVec.ofNat 12 s.ring.hornWord.toNat else 0
  hornSeq := if s.hornOpen then BitVec.ofNat 4 (s.ring.hornWord.toNat / 4096) else 0
  hops := 0
  payload := payload

/-- A horn is originated: /H/ with the device's address from both ports, under the next sequence (R253). -/
def State.originateHorn (s : State) : State :=
  if s.ring.address = 0 then s
  else
    let q := s.ring.hornSeq.toNat
    let t := { s with ring := { s.ring with
        hornSeq := s.ring.hornSeq + 1
        hornWindow := s.clk.now + msTicks
        hornWord := BitVec.ofNat 16 (s.ring.address + 4096 * q) } }
    (t.sendHorn .a s.ring.address q).sendHorn .b s.ring.address q

/-- A TWIN message to the twin, in both directions (Table 10.10). -/
def State.sendTwin (s : State) (dest msg : Nat) (body : List Byte) : State :=
  let p := [BitVec.ofNat 8 msg] ++ leBytes 2 s.twin.msgSeq.toNat ++ [0] ++ body
  let f := s.ownFrame 0x21 dest p
  let t := { s with twin := { s.twin with msgSeq := s.twin.msgSeq + 1 } }
  (t.sendFrame .a f).sendFrame .b f

end Sys2Proof.Machine
end

