-- ==== Sys2Proof/Machine/Reply.lean ====
section
/-! DEFINITION. Sys2Proof/Machine/Reply.lean: stage 7 of the pipeline: replies, their buffer, refusal counts and discards
(R205, R212, R213, R217, R233). -/

set_option Elab.async false

namespace Sys2Proof.Machine

/-- Bytes of an ASCII text. -/
def ascii (t : String) : List Byte := t.toList.map (fun c => BitVec.ofNat 8 c.toNat)

/-- Zero bytes up to the next multiple of k. -/
def padTo (k n : Nat) : List Byte := zeros ((k - n % k) % k)

/-- Bytes 4 to 23 of a reply header (Table 08.3). -/
def replyMid (op tag cls : Nat) (counter src status len : Nat) : List Byte :=
  [BitVec.ofNat 8 op, BitVec.ofNat 8 tag, BitVec.ofNat 8 (0x80 + cls), 0] ++ leBytes 8 counter ++ leBytes 2 0
    ++ leBytes 2 len ++ leBytes 2 src ++ [BitVec.ofNat 8 status, 0]

/-- A reply: header with both CRCs, payload, padding and blocks. -/
def replyPacket (mid payload blocks : List Byte) : List Byte :=
  let body := payload ++ padTo 4 payload.length ++ blocks
  let h := [0x5A, 0xA5] ++ leBytes 2 (32 + body.length) ++ mid
    ++ leBytes 4 (if payload.isEmpty then 0 else crc32c payload)
  h ++ leBytes 4 (crc32c h) ++ body

/-- The address replies carry: 0 unless the device is admitted to a Hedgerow. A fenced device is, and one in root conflict keeps what it
was (R207, R261, R262). -/
def State.replyAddr (s : State) : Nat :=
  match s.ring.state with
  | .admitted => s.ring.address
  | .fenced | .conflict => if bit s.ring.admittedMap s.ring.address then s.ring.address else 0
  | _ => 0

/-- Bytes 4 to 23 of the reply to a command. -/
def State.replyMidOf (s : State) (c : Cmd) (status : Nat) (payload : List Byte) : List Byte :=
  replyMid c.op.toNat (c.tag + (if c.signReply then 128 else 0)) c.cls c.counter s.replyAddr status payload.length

/-- The reply digest R (R233). -/
def State.replyDigest (s : State) (mid payload : List Byte) : BitVec 512 :=
  sha512 (ascii "SKV6400-RPY" ++ [0] ++ leBytes 16 s.ident.uid.toNat ++ mid ++ payload)

/-- The two signature blocks of a signed reply, both with slot 0xFF (R208, R233). -/
def signBlocks (r : BitVec 512) (rand : Nat) : List Byte :=
  [0xFF, 0x01] ++ leBytes 2 64 ++ leBytes 64 (Config.edSign r).toNat
    ++ ([0xFF, 0x02] ++ leBytes 2 3309 ++ leBytes 3309 (Config.mlSign r rand).toNat ++ zeros 3)

/-- The complete reply to a command. -/
def State.replyTo (s : State) (c : Cmd) (status : Nat) (payload : List Byte) : List Byte :=
  let mid := s.replyMidOf c status payload
  replyPacket mid payload (if c.signReply then signBlocks (s.replyDigest mid payload) s.free else [])

/-- A reply with tag 127 (R213): the bytes received as the header, to 32. -/
def State.reply127 (s : State) (status : Nat) (head : List Byte) : List Byte :=
  replyPacket (replyMid 0 127 0 0 s.replyAddr status 32) ((head ++ zeros 32).take 32) []

/-- A command in flight, by port and tag. -/
def State.cmd? (s : State) (ring : Bool) (tag : Nat) : Option Cmd :=
  s.port.cmds.find? (fun c => c.ring == ring && c.tag == tag)

/-- The state with a command's record changed. -/
def State.setCmd (s : State) (c : Cmd) : State :=
  { s with port := { s.port with
      cmds := s.port.cmds.map (fun d => if d.ring = c.ring ∧ d.tag = c.tag then c else d) } }

/-- The state without a command: its tag is free. -/
def State.dropCmd (s : State) (ring : Bool) (tag : Nat) : State :=
  { s with port := { s.port with
      cmds := s.port.cmds.filter (fun d => !(d.ring == ring && d.tag == tag))
      execq := s.port.execq.filter (fun e => !(e == (ring, tag))) } }

/-- Bytes in the SPI reply buffer. -/
def Port.used (p : Port) : Nat := (p.replies.map (fun r => r.bytes.length)).sum

/-- SPI tags in flight. -/
def Port.spiTags (p : Port) : Nat := (p.cmds.filter (fun c => !c.ring)).length

/-- A reply of this length fits: room is kept for one 48-byte reply for each tag in flight (R205). -/
def Port.fits (p : Port) (len : Nat) : Bool :=
  decide (len ≤ 48) || decide (p.used + len + 48 * p.spiTags ≤ 131072)

/-- A reset follows the final reply with this status and payload: to RESET (R218), and to the last part of an IMAGE_LOAD (R276). -/
def resets (op : Byte) (status : Nat) (payload : List Byte) : Bool :=
  status == 0 && (op == 0x45 || (op == 0xC9 && !payload.isEmpty))

/-- The final reply to a command, as it is queued. -/
def State.replyFor (s : State) (c : Cmd) (status : Nat) (payload : List Byte) : Reply where
  ring := c.ring
  tag := c.tag
  bytes := s.replyTo c status payload
  keeps := status == 1
  reset := resets c.op status payload

/-- A reply has been queued, or has left on the ring: the reset that follows it takes effect 1 ms later, or that of RESET at once where
the reply has left (R218, R276). Its opcode tells which of the two resets it is. -/
def State.replyOut (s : State) (r : Reply) : State :=
  if !r.reset then s
  else if r.bytes.getD 4 0 = 0x45 then
    { s with pm := { s.pm with resetDue := s.pm.resetDue.map (fun _ => if r.ring then s.clk.now else s.clk.now + msTicks) } }
  else { s with pm := { s.pm with imageReset := s.pm.imageReset.map (fun _ => s.clk.now + msTicks) } }

/-- A complete reply leaves for its port: the SPI reply buffer, or the list of those that wait for room, or a REPLY frame on
the ring; its tag is free once it is queued (R205, R215, R219). -/
def State.post (s : State) (r : Reply) : State :=
  let t := if r.keeps then s else s.dropCmd r.ring r.tag
  if r.ring then (t.sendFrame .a (s.ownFrame 0x02 0 r.bytes)).replyOut r
  else if s.port.waiting.isEmpty && t.port.fits r.bytes.length then
    State.replyOut { t with port := { t.port with replies := t.port.replies ++ [r] } } r
  else { s with port := { s.port with waiting := s.port.waiting ++ [r] } }

/-- A reply with tag 127 is queued, or leaves on the ring; it holds no tag. -/
def State.post127 (s : State) (ring : Bool) (status : Nat) (head : List Byte) : State :=
  let r : Reply := { ring := ring, tag := 127, bytes := s.reply127 status head }
  if ring then s.sendFrame .a (s.ownFrame 0x02 0 r.bytes)
  else if s.port.waiting.isEmpty && s.port.fits r.bytes.length then
    { s with port := { s.port with replies := s.port.replies ++ [r] } }
  else { s with port := { s.port with waiting := s.port.waiting ++ [r] } }

/-- Counters and interrupt bits of a refusal (R212, Table 08.21 to 08.23). -/
def State.countRefusal (s : State) (status : Nat) : State :=
  let p := s.port
  let hdr := decide (0x10 ≤ status ∧ status ≤ 0x12) || decide (status = 0x30)
  let sec := decide (0x20 ≤ status ∧ status ≤ 0x24)
  let s := { s with
    port := { p with
      framing := if status = 0x10 ∨ status = 0x11 then inc 255 p.framing else p.framing
      secUnsigned := if status = 0x20 then inc 255 p.secUnsigned else p.secUnsigned
      secBadSig := if status = 0x21 then inc 255 p.secBadSig else p.secBadSig
      secStale := if status = 0x22 then inc 255 p.secStale else p.secStale
      secQuorum := if status = 0x23 ∨ status = 0x24 then inc 255 p.secQuorum else p.secQuorum } }
  let s := if hdr then s.irqCm 0 else s
  if sec then s.irqCm 1 else s

/-- The log after a security shard of the present second: its count, and under sec_archive those above 100 (R192). -/
def State.countSecurity (s : State) : Log :=
  let sec := s.clk.stamp / 200000000
  let n := s.secInSecond
  let above := bit (s.cfgAt 0x80008) 1 && decide (100 ≤ n)
  let base := if s.log.secSecond = sec then s.log.secOver else 0
  { s.log with
    secSecond := sec
    secCount := n + 1
    secOver := if above then base + 1 else base
    secSuppressed := if above then inc 255 s.log.secSuppressed else s.log.secSuppressed }

/-- The security shard of a refusal with status 0x20 to 0x24 (Table 07.3). -/
def State.secShard (s : State) (c : Cmd) (status : Nat) : State :=
  if 0x20 ≤ status ∧ status ≤ 0x24 ∧ s.pm.state.logs = true then
    let x := s.shardNow 0x06 status 0 ([BitVec.ofNat 8 status, c.op, BitVec.ofNat 8 c.cls, (if c.ring then 1 else 0)]
      ++ leBytes 2 c.src ++ [c.signers, 0] ++ leBytes 8 c.counter ++ digestBytes (sha3 c.header))
    { s with log := s.countSecurity.push x }
  else s

/-- A status that is a refusal with counts. -/
def State.refusalEffects (s : State) (c : Cmd) (status : Nat) : State := (s.countRefusal status).secShard c status

/-- The final reply to a decided command is queued, or goes to signing where a signed one is asked for or others are ahead of it
there (R217, R233). -/
def State.answer (s : State) (c : Cmd) (status : Nat) (payload : List Byte) : State :=
  let t := s.setCmd { c with phase := .replying }
  if c.signReply || !s.port.signing.isEmpty then
    { t with port := { t.port with signing := t.port.signing ++ [⟨c, BitVec.ofNat 8 status, payload⟩] } }
  else t.post (t.replyFor c status payload)

/-- A broadcast's result at this device (R219). -/
def State.noteBroadcast (s : State) (c : Cmd) (status : Nat) : State :=
  State.irqCm { s with
    port := { s.port with bcastStatus := BitVec.ofNat 8 status, bcastOp := c.op, bcastCounter := c.counter % 65536 } } 3

/-- A broadcast of this root has not passed the ring yet. -/
def Port.bcastOut (p : Port) : Bool := p.fwds.any (fun f => f.dest == 4095)

/-- A command is decided (R212): a broadcast leaves its result in CM_BCAST_STATUS, and the root replies OK to it once it has passed
the ring (R219); any other command gets its final reply. -/
def State.finish (s : State) (c : Cmd) (status : Nat) (payload : List Byte) : State :=
  let s := s.refusalEffects c status
  let s := { s with port := { s.port with execq := s.port.execq.filter (fun e => !(e == (c.ring, c.tag))) } }
  if c.bcast then
    let t := s.noteBroadcast c status
    if c.ring then t.dropCmd c.ring c.tag
    else if status = 0x31 then t.answer c status payload
    else if t.port.bcastOut then t.setCmd { c with phase := .replying }
    else t.answer c 0 []
  else s.answer c status payload

/-- An ACCEPTED reply: the command stays in flight, undecided, until its sequence ends (R164, R212). -/
def State.accept (s : State) (c : Cmd) : State :=
  let s := { s with port := { s.port with execq := s.port.execq.filter (fun e => !(e == (c.ring, c.tag))) } }
  let s := s.setCmd { c with phase := .accepted }
  if c.signReply || !s.port.signing.isEmpty then
    { s with port := { s.port with signing := s.port.signing ++ [⟨c, 1, []⟩] } }
  else s.post (s.replyFor c 1 [])

/-- A decided reply leaves the signing list. -/
def State.postSigned (s : State) (u : Unsigned) : State := s.post (s.replyFor u.cmd u.status.toNat u.payload)

/-- Decided replies at the head of the signing list that need no signature leave at once. -/
def State.flushSigning (s : State) : Nat → State
  | 0 => s
  | k + 1 =>
    match s.port.signing with
    | u :: rest =>
      if u.cmd.signReply then s
      else (({ s with port := { s.port with signing := rest } }).postSigned u).flushSigning k
    | [] => s

/-- A command whose outcome is not decided (R217). -/
def Cmd.undecided (c : Cmd) : Bool := !(c.phase == .replying)

/-- The head sequence's transaction is on the bus, or is to be retried, whatever the port does until then. -/
def TwPort.onBus (p : TwPort) : Bool := p.activity == 1 || decide (0 < p.retries)

/-- The sequences that end at once of those that are to end: all but one whose transaction is on the bus. -/
def TwPort.endedNow (p : TwPort) (f : TwSeq → Bool) : List TwSeq := (if p.onBus then p.queue.drop 1 else p.queue).filter f

/-- A port some of whose sequences are ended: one on the bus stays until its transaction has run out with its retries; the others end
at once with result 0x7 (R294). -/
def TwPort.endSome (p : TwPort) (f : TwSeq → Bool) : TwPort :=
  let stay := p.queue.filter (fun q => !f q)
  let queue := match p.queue with
    | q :: rest => if p.onBus && f q then { q with ending := true } :: rest.filter (fun x => !f x) else stay
    | [] => []
  { p with
    queue := queue
    lastResult := if (p.endedNow f).isEmpty then p.lastResult else 7
    activity := if p.activity = 4 ∧ queue.isEmpty then 0 else p.activity }

/-- pmb_result of a rail. -/
def State.setPmb (s : State) (n : Nat) (r : BitVec 2) : State := s.setTrim n { s.trim n with pmb := r }

/-- Two-wire sequences of some kind end at a device-level fault (R123, R217, R286, R294). -/
def State.endSeqs (s : State) (f : TwSeq → Bool) : State :=
  let rails := (s.tw.flatMap (fun p => p.endedNow f)).map (fun q => q.rail)
  rails.foldl (fun t n => t.setPmb n 2) { s with tw := s.tw.map (fun p => p.endSome f) }

/-- All of them end. -/
def State.endSequences (s : State) : State := s.endSeqs (fun _ => true)

/-- The record of a discard (Table 08.24). -/
def State.recordDiscard (s : State) (cause : Nat) (gone : List Cmd) : State :=
  let t := { s with
    port := { s.port with
      discardCause := cause
      discardConsumed := min 96 (gone.filter (fun c => c.consumed)).length
      discardCount := min 192 gone.length } }
  if gone.isEmpty then t else t.irqCm 2

/-- Undecided commands are discarded with DISCARDED replies, in arrival order, but for the one that caused the fault (entry
to Cooling, Table 08.14). -/
def State.discardCooling (s : State) (pm : Nat) (keep : Option (Bool × Nat)) : State :=
  let gone := s.port.cmds.filter (fun c => c.undecided && !(keep == some (c.ring, c.tag)))
  let left := s.port.fwds.filter (fun f => f.dest == 4095 && !gone.any (fun c => c.bcast && !c.ring))
  let s := { s with port := { s.port with fwds := left, execq := s.port.execq.filter (fun e => keep == some e) } }
  let s := gone.foldl (fun t c =>
    t.finish c 0x31 [1, (if c.consumed then 1 else 0), BitVec.ofNat 8 pm, 0]) s
  s.recordDiscard 1 gone

/-- Undecided commands are discarded with no reply, and decided ones receive none: reset, collapse and Coppice mode. -/
def State.discardSilent (s : State) (cause : Nat) : State :=
  let gone := s.port.cmds.filter Cmd.undecided
  let s := { s with port := { s.port with
      cmds := [], execq := [], replies := [], signing := [], waiting := [], fwds := [], image := none, miso := [] } }
  s.recordDiscard cause gone

end Sys2Proof.Machine
end

