-- ==== Sys2Proof/Machine/SweepOps.lean ====
section
/-! DEFINITION. Sys2Proof/Machine/SweepOps.lean: the in-service sweep's results, trend shard and ends (R168 to R170). -/

set_option Elab.async false

namespace Sys2Proof.Machine

/-- A quotient as a whole number: exact where it is whole, else one of its two neighbours (log entry 7). -/
def quot (num : Int) (den : Nat) : Int :=
  if num % (den : Int) = 0 then num / (den : Int) else num / (den : Int) + (if Config.roundUp num den then 1 else 0)

/-- A result as it is recorded: a free number where it does not fit its field or has no value (log entry 7). -/
def fitOr (lo hi : Int) (free : Nat) (x : Option Int) : Int :=
  match x with
  | some v => if lo ≤ v ∧ v ≤ hi then v else Config.freeInt free
  | none => Config.freeInt free

/-- Sums for a least-squares slope over (x, y): count, Σx, Σy, Σxy, Σx². -/
def slopeParts (l : List (Int × Int)) : Int × Nat :=
  let n : Int := l.length
  let sx := (l.map Prod.fst).sum
  let sy := (l.map Prod.snd).sum
  let sxy := (l.map (fun e => e.1 * e.2)).sum
  let sxx := (l.map (fun e => e.1 * e.1)).sum
  (n * sxy - sx * sy, (n * sxx - sx * sx).toNat)

/-- k times the least-squares slope of y on x; no value where every x is equal. -/
def slopeTimes (k : Int) (l : List (Int × Int)) : Option Int :=
  let p := slopeParts l
  if p.2 = 0 then none else some (quot (k * p.1) p.2)

/-- The entry of largest magnitude of a list, the first of equals. -/
def largest : List Int → Int
  | [] => 0
  | x :: t => let m := largest t; if m.natAbs ≤ x.natAbs then x else m

/-- Maximum and minimum difference of a list. -/
def spanOf (l : List Int) : Int :=
  match l with
  | [] => 0
  | x :: t => t.foldl max x - t.foldl min x

/-- MG_SWEEP_SENSEn fields. -/
def State.sweepSens (s : State) (n : Nat) : Int := sfld (s.cfgAt (0x70014 + 0x20 * n)) 31 16
def State.sweepIsEn (s : State) (n : Nat) : Bool := bit (s.cfgAt (0x70014 + 0x20 * n)) 15
def State.sweepIs (s : State) (n : Nat) : Nat := 64 + fld (s.cfgAt (0x70014 + 0x20 * n)) 12 8

/-- Volts per rail code over volts per current code: 10 at ×1, 40 at ×1/4 (R168). -/
def State.railFactor (s : State) (n : Nat) : Int := if bit (s.cfgAt (0x20000 + 0x100 * n)) 0 then 40 else 10

/-- The trend record (Table 06.4) of rail n with a result; unused means are 0. -/
def State.trendRecord (s : State) (n result : Nat) : List Byte :=
  let w := s.mg.sweep
  let means := w.means.map Prod.snd
  let m0 := means.headD 0
  let nom := (w.means.map Prod.fst).headD 0
  let sense := s.cfgAt (0x70014 + 0x20 * n)
  let shunt := s.cfgAt (0x70018 + 0x20 * n)
  let tIn := 96 + fld sense 3 0
  let tOn := bit sense 4
  let dev := largest (w.means.map (fun e => 256 * e.2 - (256 * m0 + s.sweepSens n * (e.1 - nom))))
  let span := spanOf (w.pairs.map Prod.snd)
  let any := decide (0 < w.means.length)
  let f := s.free
  let sens := if any then fitOr (-0x80000000) 0x7FFFFFFF f (slopeTimes 256 (w.means.map (fun e => (e.1 - nom, e.2)))) else 0
  let load := if any && s.sweepIsEn n then
      fitOr (-0x80000000) 0x7FFFFFFF (f + 1)
        (slopeTimes (-(s.railFactor n * (fld shunt 15 0 : Nat))) (w.pairs.map (fun e => (e.2, e.1)))) else 0
  let sdev := if any then fitOr (-0x8000) 0x7FFF (f + 2) (some (quot dev 256)) else 0
  let invalid := s.sweepIsEn n && decide (span < (fld shunt 31 16 : Nat))
  let missed := decide (w.requests < 100 * w.missed)
  let word := fun (k : Nat) (x : Int) => leBytes k (BitVec.ofInt (8 * k) x).toNat
  [BitVec.ofNat 8 n, BitVec.ofNat 8 result,
    BitVec.ofNat 8 ((if w.clamped then 1 else 0) + (if invalid then 2 else 0)
      + (if tOn && (s.reading tIn).valid then 4 else 0) + (if missed then 8 else 0)),
    BitVec.ofNat 8 w.means.length]
    ++ leBytes 2 s.mg.calEpoch ++ leBytes 2 (s.trim n).sweeps ++ word 2 m0
    ++ word 2 (if s.sweepIsEn n then w.iNom else 0)
    ++ leBytes 2 (if tOn then (s.reading tIn).code.toNat else 0) ++ word 2 sdev ++ word 4 sens ++ word 4 load ++ word 2 span
    ++ leBytes 2 w.peak ++ leBytes 2 (min 65535 (quot w.settle 200).toNat) ++ leBytes 2 (min 65535 w.missed)
    ++ (means.flatMap (word 2) ++ zeros 66).take 66 ++ zeros 126

/-- The trend shard of a rail's sweep, with its record in the place of the readings (R170). -/
def State.trendShard (s : State) (n result : Nat) : State :=
  { s with
    log := if s.pm.state.logs then
        s.log.push { s.shardNow 0x05 result 0 [] with readings := s.trendRecord n result } else s.log
    free := s.free + 3 }

/-- A conversion that the sweep requested at tick `req` has completed now, sampled 40 ticks ago: a sample of the present point, or
missed where it took more than 10 µs (R166). -/
def Sweep.take (w : Sweep) (rail req now : Nat) (input : Nat) (v : Int) : Sweep :=
  if req + 2000 < now then { w with missed := w.missed + 1 }
  else if req < w.pointStart then w
  else
    let put := fun (x : Sample) => if input = rail then { x with code := some v } else { x with cur := some v }
    if w.samples.any (fun (x : Sample) => x.req == req) then
      { w with samples := w.samples.map (fun (x : Sample) => if x.req = req then put x else x) }
    else { w with samples := w.samples ++ [put { req := req, time := now - 40 }] }

/-- The sweep takes a sample of input i (R166), or misses it where crossing 1 passes no readings (R321). -/
def State.sweepTake (s : State) (req i : Nat) (code : BitVec 16) : State :=
  match s.mg.sweep.rail with
  | some n =>
    let w := if bit s.clk.stopped 1 then { s.mg.sweep with missed := s.mg.sweep.missed + 1 }
      else s.mg.sweep.take n req s.clk.now i (s.inputValue i code)
    { s with mg := { s.mg with sweep := w } }
  | none => s

/-- Ticks a sweep of duration d must be followed by before the next one (R165). -/
def State.sweepRest (s : State) (d : Nat) : Nat :=
  let duty := max 1 (min 100 (fld (s.cfgAt 0x70800) 6 0))
  (d * (100 - duty) + duty - 1) / duty

/-- The rail under consideration is done with a result: trend shard, counts and the wait before the next rail (R165, R169). R170 calls
sweep_count 'sweeps of this rail': that it counts skipped and aborted considerations too, includes the present one and is cleared with
stage 1 is the model's choice (log entry 59). -/
def State.endRail (s : State) (n result : Nat) : State :=
  let s := s.setTrim n { s.trim n with sweeps := ((s.trim n).sweeps + 1) % 65536 }
  let s := s.trendShard n result
  let swept := s.mg.sweep.rail == some n
  let s := if swept then s.trimNominal n else s
  let t := s.trim n
  let s := s.setTrim n { t with
    lastResult := BitVec.ofNat 4 result
    aborts := if result = 1 then t.aborts else inc 255 t.aborts }
  { s with mg := { s.mg with sweep := { s.mg.sweep with
      rail := none, lastRail := n, todo := n + 1, samples := [], means := [], pairs := [], requests := 0, missed := 0,
      peak := 0, settle := 0, clamped := false, iNom := 0,
      notBefore := if swept then s.clk.now + s.sweepRest (s.clk.now - s.mg.sweep.railStart) else s.mg.sweep.notBefore } } }

/-- MG_SWEEPn, and whether the rail is swept: eligible, its path the trim output (R165). -/
def State.sweepCfg (s : State) (n : Nat) : Word := s.cfgAt (0x70010 + 0x20 * n)
def State.sweepable (s : State) (n : Nat) : Bool := bit (s.sweepCfg n) 31 && !bit (s.cfgAt (0x7000C + 0x20 * n)) 31

/-- The next rail of the cycle in progress. -/
def State.nextSwept (s : State) : Option Nat :=
  (List.range 64).find? (fun n => decide (s.mg.sweep.todo ≤ n) && s.sweepable n)

/-- The cycle is complete once no rail is left for it. -/
def State.finishCycle (s : State) : State :=
  if s.mg.sweep.active && s.mg.sweep.rail.isNone && s.nextSwept.isNone then
    { s with mg := { s.mg with sweep := { s.mg.sweep with
      active := false, cycles := (s.mg.sweep.cycles + 1) % 65536 } } }
  else s

/-- A sweep in progress on rail n is aborted with a result, and the cycle goes on (Table 06.3). -/
def State.abortRail (s : State) (n result : Nat) : State :=
  if s.mg.sweep.rail = some n then (s.endRail n result).finishCycle else s

/-- The cycle ends, its rail's sweep aborted with a result where one is in progress (R165, R169). -/
def State.endCycle (s : State) (result : Nat) : State :=
  let s := match s.mg.sweep.rail with
    | some n => s.endRail n result
    | none => s
  { s with mg := { s.mg with sweep := { s.mg.sweep with active := false } } }

/-- The TM outputs outside 0.3 V to 5.0 V (R158); one that leaves the range during its rail's sweep aborts it (Table 06.3). -/
def State.compliance (s : State) (out : Rails) : State :=
  let put := fun (t : State) (n : Nat) => t.setTrim n { t.trim n with compliance := bit out n }
  let t := (List.range 64).foldl put s
  match s.mg.sweep.rail with
  | some n => if bit out n && !(s.trim n).compliance then t.abortRail n 7 else t
  | none => t

/-- Leaving Running ends the cycle; the next one is scheduled from the next entry to Running (R165). -/
def State.leaveRunning (s : State) : State :=
  if s.pm.state = .running then
    let t := if s.mg.sweep.active then s.endCycle 3 else s
    { t with mg := { t.mg with sweep := { t.mg.sweep with cycleDue := none } } }
  else s

end Sys2Proof.Machine
end

