-- ==== Sys2Proof/Machine/FaultOps.lean ====
section
/-! DEFINITION. Sys2Proof/Machine/FaultOps.lean: faults, their records, the fault queue, shutdown starts and the cooling walk
(R18 to R20, R129 to R148, R155, R369). -/

set_option Elab.async false

namespace Sys2Proof.Machine

/-! ## Causes (Table 05.4) -/

/-- A fault of grade W. -/
def wFault (cause source : Nat) : FaultRec := ⟨BitVec.ofNat 8 cause, 1, BitVec.ofNat 8 source, 0⟩

/-- The rail of a comparator cause; none for the others and for causes 0x07 to 0x09. -/
def FaultRec.rail? (f : FaultRec) : Option Nat :=
  let c := f.cause.toNat
  if 1 ≤ c ∧ c ≤ 4 then some f.source.toNat else if c = 5 ∨ c = 6 then some (f.source.toNat / 4) else none

/-- The SKV1200 fault code of a cause (Table 07.10). -/
def skvCode (c : Nat) : Nat :=
  if c = 1 ∨ c = 2 then 1 else if c = 3 ∨ c = 4 then 2 else if c = 5 ∨ c = 6 then 3 else if c = 0x11 then 4
  else if c = 0x12 then 5 else if c = 0x28 then 6 else if c = 0x10 ∨ c = 0x13 ∨ c = 0x30 then 7
  else if c = 0x14 ∨ c = 0x15 then 8 else 0

/-- CT_CAUSE_CFGx, x = 0 to 5. -/
def State.causeCfg (s : State) (x : Nat) : Word := s.cfgAt (0x60080 + 4 * x)

/-- The table a fault selects (R132): from CT_RAILSELq for a comparator cause, from CT_CAUSE_CFGx otherwise; 0xFF for a grade
that selects none. -/
def State.tableOf (s : State) (f : FaultRec) : Nat :=
  if f.grade = 0 ∨ f.grade = 1 then 0xFF else
  match f.rail? with
  | some n =>
    let b := fld (s.cfgAt (0x60040 + 4 * (n / 4))) (8 * (n % 4) + 7) (8 * (n % 4))
    if f.grade = 3 then b / 16 % 8 else b % 8
  | none => fld (s.causeCfg (f.cause.toNat - 0x10)) 2 0

/-- The time a fault is recorded with: the time stamp, or the always-on count in Standby, Starting and Coppice (R195, R369). -/
def State.faultStamp (s : State) : Nat :=
  match s.pm.state with
  | .standby | .starting | .coppice => s.clk.aonStamp
  | _ => s.clk.stamp

/-! ## Latch and records (R19, R135, R195) -/

/-- The fault latch is set; a pending on request, and those that a handover holds, are removed and counted (R19). -/
def State.setLatch (s : State) : State :=
  { s with
    pm := { s.pm with faultLatch := true, onPending := none }
    twin := { s.twin with heldOn := [] }
    ctl := { s.ctl with
      ignoredOn := incBy 255 s.ctl.ignoredOn ((if s.pm.onPending.isSome then 1 else 0) + s.twin.heldOn.length) } }

/-- A bisque record is written into the slot that is not current, which then is (R194). -/
def FaultBlk.writeBisque (f : FaultBlk) (b : Bisque) : FaultBlk :=
  { f with bisque := b, bisqueOther := f.bisque, bisqueMark := !f.bisqueMark }

/-- The bisque record takes a fault if it is empty (R195, Table 07.9). -/
def State.recordBisque (s : State) (f : FaultRec) (stamp : Nat) : State :=
  if s.fault.bisque.filled then s else
  let b : Bisque := {
      filled := true
      rail := BitVec.ofNat 8 (f.rail?.getD 0xFF)
      code := BitVec.ofNat 8 (skvCode f.cause.toNat)
      cause := f.cause
      grade := f.grade.zeroExtend 8
      seconds := min 0xFFFFFFFF (stamp / secondTicks)
      subsecond := stamp % secondTicks
      clears := s.fault.bisque.clears }
  { s with fault := s.fault.writeBisque b }

/-- The first-fault record takes a fault if it is empty (R135). -/
def State.recordFirst (s : State) (f : FaultRec) (stamp : Nat) : State :=
  { s with fault := { s.fault with first := some (s.fault.first.getD (f, stamp)) } }

/-- Latch and both records (R135, R136). -/
def State.recordFault (s : State) (f : FaultRec) : State :=
  ((s.setLatch.recordFirst f s.faultStamp).recordBisque f s.faultStamp)

/-! ## The fault queue (R145) -/

/-- Whether a queued entry has the fault's cause and source. -/
def QEntry.same (e : QEntry) (f : FaultRec) : Bool := e.what.cause == f.cause && e.what.source == f.source

/-- A fault enters the queue, repeats a queued entry or finds the queue full. -/
def State.enqueue (s : State) (f : FaultRec) (table : Nat) : State :=
  let s := s.recordFault f
  match s.fault.queue.find? (fun (e : QEntry) => e.same f) with
  | some e =>
    let n := inc 63 e.repeats
    let t := { s with fault := { s.fault with
      queue := s.fault.queue.map (fun (d : QEntry) => if d.same f then { d with repeats := n } else d) } }
    t.faultShard f 4 table n
  | none =>
    if s.fault.queue.length < 16 then
      let t := { s with fault := { s.fault with queue := s.fault.queue ++ [(⟨f, s.clk.stamp, 0⟩ : QEntry)] } }
      (t.irqCt 2).faultShard f 1 table 0
    else
      let t := { s with fault := { s.fault with overflow := inc 255 s.fault.overflow } }
      (t.irqCt 3).faultShard f 2 table 0

/-! ## The cooling walk (R138 to R143) -/

/-- Fields of an entry (Table 05.5). -/
def entAction (x : Step64) : Nat := fld x 63 62
def entRail (x : Step64) : Nat := fld x 61 56
def entWait (x : Step64) : Bool := bit x 39
def entInput (x : Step64) : Nat := fld x 38 32
def entLevel (x : Step64) : BitVec 16 := BitVec.ofNat 16 (fld x 31 16)

/-- Delay of an entry in ticks. -/
def entDelay (x : Step64) : Nat :=
  fld x 53 40 * (match fld x 55 54 with | 0 => 200 | 1 => 2000 | 2 => 20000 | _ => 200000)

/-- Maximum wait of an entry in ticks. -/
def entMaxWait (x : Step64) : Nat :=
  fld x 11 0 * (match fld x 15 14 with | 0 => 200000 | 1 => 2000000 | 2 => 20000000 | _ => 200000000)

/-- The least number of ticks between two of the walker's entries: one, or an RC cycle of 8 ticks for the reduced walker and
while the core runs from the RC oscillator (R142, R155). -/
def State.walkStep (s : State) : Nat := if s.walk.reduced || !s.clk.corePll then 8 else 1

/-- The walk finds its next entry: entries for rails already down are passed over, with their discharge (R139). -/
def State.walkSeek (s : State) : Nat → State
  | 0 => s
  | k + 1 =>
    match s.walk.entries[s.walk.entry]? with
    | none => { s with walk := { s.walk with entry := 64, due := none, sweepDue := some (s.walk.prev + s.walkStep) } }
    | some x =>
      if entAction x ≠ 0 ∧ bit s.out.en (entRail x) = false then
        let t := if entAction x = 2 then s.trimDischarge (entRail x) else s
        State.walkSeek { t with walk := { t.walk with entry := t.walk.entry + 1 } } k
      else
        { s with walk := { s.walk with due := some (s.walk.prev + max s.walkStep (entDelay x)) } }

/-- The walk of the chosen table begins at the present tick. -/
def State.walkBegin (s : State) : State :=
  { s with walk := { s.walk with
      grace := false, graceDue := none, waiting := false, entry := 0, prev := s.clk.now, due := none,
      sweepDue := none } }.walkSeek 66

/-- A table with its entries becomes the one to walk, for a cause. -/
def Walk.take (w : Walk) (table : Nat) (entries : List Step64) (f : FaultRec) : Walk :=
  { w with active := true, table := table, entries := entries, cause := some f, entry := 0, waiting := false }

/-- Entries of table c. -/
def State.tableEntries (s : State) (c : Nat) : List Step64 := (nth s.fault.tables c {}).entries

/-- A running walk switches to another table (R143). -/
def State.walkSwitch (s : State) (table : Nat) (f : FaultRec) : State :=
  { s with walk := { s.walk.take table (s.tableEntries table) f with switches := inc 255 s.walk.switches } }.walkBegin

/-- CT_GRACE and CT_TRIP_TIMING.trip_delay in ticks (R130). -/
def State.graceTicks (s : State) : Nat := fld (s.cfgAt 0x60008) 15 0 * 2000
def State.tripTicks (s : State) : Nat := min 2000 (fld (s.cfgAt 0x60004) 10 0) * 1000

/-! ## Engines at a shutdown and at firing (R101, R123) -/

/-- A running or waiting engine is aborted at its step (R123). -/
def Engine.abort (e : Engine) : Engine :=
  if e.st = .running ∨ e.st = .waiting then { e with st := .aborted, busy := .none } else e

/-- Every engine stops at entry to Cooling. -/
def State.abortEngines (s : State) : State :=
  { s with kiln := { s.kiln with engines := s.kiln.engines.map Engine.abort } }

/-- Entry to Running: every started engine has halted (R18); the sweep's first cycle is scheduled (R165). -/
def State.enterRunning (s : State) : State :=
  let t := s.goTo .running 0x18
  let m := fld (t.cfgAt 0x70800) 31 16
  { t with mg := { t.mg with sweep := { t.mg.sweep with
      cycleStart := t.clk.now
      cycleDue := if m = 0 then none else some (t.clk.now + m * 60 * secondTicks) } } }

/-- Whether the on request of this firing starts engine k (R101, R245). -/
def State.engineStarts (s : State) (k : Nat) : Bool :=
  if k < 4 then bit (s.cfgAt 0x40000) k else bit (s.cfgAt 0xF00000) 31

/-- Engine k runs from an RC oscillator, 8 ticks for each of its cycles (R103, R244). -/
def State.engRc (s : State) (k : Nat) : Bool := k == 4 || !s.clk.corePll

/-- A step duration of engine k: whole cycles of the clock it runs from. -/
def State.engTicks (s : State) (k d : Nat) : Nat := if s.engRc k then (d + 7) / 8 * 8 else d

/-- The entry address of engine k. -/
def State.engineEntry (s : State) (k : Nat) : Nat :=
  if k < 4 then fld (s.cfgAt (0x40100 + 0x20 * k)) 11 0 else fld (s.cfgAt 0xF00000) 8 0

/-- Engine k as firing starts: idle, its entry step to issue in the next cycle of the clock it runs from (R100, R101). R101 names what
becomes of CF, TO, CL, LC, step count and pc; that err_cause returns to 0 and the opcode shown stays is the model's choice (log
entry 57). -/
def State.engineStart (s : State) (k : Nat) (e : Engine) : Engine :=
  let t := s.clk.now + s.engTicks k 1
  if s.engineStarts k then
    { pc := s.engineEntry k, shown := s.engineEntry k, opcode := e.opcode, started := true, t0 := t, next := t }
  else { e with started := false }

/-- Firing starts (R101); with no engine to start it passes to Running in the next core cycle. -/
def State.fireStart (s : State) (cause : Nat) : State :=
  let s := { s with pm := { s.pm with onPending := none } }.goTo .firing cause
  let s := { s with kiln := { s.kiln with
    engines := s.kiln.engines.mapIdx (fun k e => s.engineStart k e)
    eventFlags := 0, failBits := 0, chatter := [] } }
  if s.kiln.engines.any (fun e => e.started) then s else (s.wait (s.engTicks 0 1)).enterRunning

/-- Firing passed to Running by itself, a core cycle after it started. -/
def State.ranOn (s : State) : Bool := s.pm.state == .running && !s.kiln.engines.any (fun e => e.started)

/-! ## On requests (R20, R148) -/

/-- An on request starts firing now: Ready, latch clear, T_OFFMIN elapsed, no reset awaited, not passive, and no handover
between SYNC and COMMIT. -/
def State.mayFire (s : State) : Bool :=
  s.pm.state == .ready && !s.pm.faultLatch && s.pm.offMinDue.isNone && s.pm.resetDue.isNone && !s.out.passive

/-- Between SYNC and COMMIT every on request is held (R272, R273). -/
def Handover.holds : Handover → Bool
  | .sSync _ | .jReady _ _ => true
  | _ => false

/-- CT_CONTROL.discard_pending. -/
def State.discardPending (s : State) : Bool := bit (s.cfgAt 0x60000) 3

/-- The cause of an on request of a tick, with which another one of that tick is one request (R147). -/
def State.onJoinsAt (s : State) (tick : Nat) : Option Byte :=
  match s.ctl.lastOn with
  | some (t, c) => if t = tick then some c else none
  | none => none

/-- The same of the present tick, or of the one in which a firing without engines started that has just passed to Running. -/
def State.onJoins (s : State) : Option Byte :=
  (s.onJoinsAt s.clk.now).or (if s.ranOn then s.onJoinsAt (s.clk.now - s.engTicks 0 1) else none)

/-- A transition shard of that tick from Ready to Firing takes another cause. -/
def Shard.recause (x : Shard) (stamp : Nat) (old new : Byte) : Shard :=
  if x.kind = 3 ∧ stamp ≤ x.stamp + 8 ∧ x.event.take 3 = [3, 4, old] then { x with cause := new, event := x.event.set 2 new } else x

/-- An on request joins one of the same tick: the one request keeps the cause that comes first in the order 0x10 to 0x13
(R147). -/
def State.joinRequest (s : State) (old : Byte) (cause : Nat) : State :=
  let b := BitVec.ofNat 8 cause
  let put := fun (c : Byte) => if c = old then b else c
  if cause < old.toNat then
    { s with
      ctl := { s.ctl with lastOn := s.ctl.lastOn.map (fun e => (e.1, b)) }
      twin := { s.twin with heldOn := s.twin.heldOn.map put }
      pm := { s.pm with
        onPending := s.pm.onPending.map put
        lastCause := if s.pm.state = .firing then put s.pm.lastCause else s.pm.lastCause }
      log := { s.log with buffer := s.log.buffer.map (fun (x : Shard) => x.recause s.clk.stamp old b) } }
  else s

/-- An on request that joins none, in the state found (Table 05.8). -/
def State.newRequest (s : State) (cause : Nat) : State :=
  if s.pm.state = .ready ∨ s.pm.state = .cooling then
    let s := { s with ctl := { s.ctl with lastOn := some (s.clk.now, BitVec.ofNat 8 cause) } }
    if s.pm.faultLatch then { s with ctl := { s.ctl with ignoredOn := inc 255 s.ctl.ignoredOn } }
    else if s.twin.hand.holds then { s with twin := { s.twin with heldOn := s.twin.heldOn ++ [BitVec.ofNat 8 cause] } }
    else if s.mayFire then s.fireStart cause
    else if s.discardPending then s
    else { s with pm := { s.pm with onPending := some (BitVec.ofNat 8 cause) } }
  else s

/-- An on request with its PM cause, from any source (Table 05.8, R147). -/
def State.onRequest (s : State) (cause : Nat) : State :=
  match s.onJoins with
  | some old => s.joinRequest old cause
  | none => s.newRequest cause

/-- A request of Table 05.7 that arises here is sent to the twin in co-supervision (R147, R269). -/
def State.mirror (s : State) (on cause : Nat) : State :=
  if s.twin.state = .co then s.sendTwin s.twin.address 0x09 [BitVec.ofNat 8 on, BitVec.ofNat 8 cause] else s

/-- A pending on request starts firing once nothing holds it any more (R20). -/
def State.tryPending (s : State) : State :=
  match s.pm.onPending with
  | some c => if s.mayFire && !s.twin.hand.holds then s.fireStart c.toNat else s
  | none => s

/-- On requests that were held are handled, and mirrored in co-supervision (R273); a pending one starts firing if T_OFFMIN elapsed
while the handover held it (R20). -/
def State.releaseHeld (s : State) : State :=
  (s.twin.heldOn.foldl (fun (t : State) c => (t.mirror 1 c.toNat).onRequest c.toNat)
    { s with twin := { s.twin with heldOn := [] } }).tryPending

/-! ## Shutdown starts (Table 05.1) -/

/-- The kinds of shutdown start that enter Cooling. -/
inductive Start where
  | off | gradeT | gradeH | forceOff
  deriving DecidableEq, Repr

/-- The bit of GL_CFG that makes a start originate a horn (R253). -/
def Start.hornBit : Start → Nat
  | .off => 32
  | .gradeT => 25
  | .gradeH => 24
  | .forceOff => 26

/-- PM cause of a fault's shutdown start. -/
def Start.pmCause : Start → Nat
  | .gradeT => 0x31
  | .gradeH => 0x30
  | _ => 0x28

/-- TM outputs at entry to Cooling: nominal, but for those at the discharge code (Table 06.1). -/
def State.trimsNominal (s : State) : State :=
  (List.range 64).foldl (fun t n => if (t.trim n).level = 5 then t else t.trimNominal n) s

/-- A serving device's handover is given up with reason 0x6 (Table 10.13). -/
def State.abortHand (s : State) : State :=
  match s.twin.hand with
  | .sChallenge _ _ | .sSync _ =>
    { s with twin := { s.twin with hand := .none, reason := 6, address := 0, uid := 0 } }.sendTwin s.twin.address 8 [6]
  | _ => s

/-- On requests that a handover given up has held are handled after its ABORT (Table 10.13). -/
def State.afterAbort (s : State) : State := if s.twin.hand.holds then s else s.releaseHeld

/-- What the twin is told of a shutdown start (R269, R273): a SHUTDOWN in co-supervision, an ABORT in a handover. -/
def State.tellTwin (s : State) (k : Start) (f : FaultRec) (table : Nat) : State :=
  let t := s.abortHand
  if t.twin.state = .co ∧ k ≠ .off then
    t.sendTwin t.twin.address 0x0A
      [if k = .gradeT then 2 else 3, BitVec.ofNat 8 table, f.cause]
  else t

/-- The horn of a shutdown start or a force-off (R253). -/
def State.soundHorn (s : State) (k : Start) (cause : Byte) : State :=
  if bit (s.cfgAt 0xA0000) k.hornBit && cause != 0x15 then s.originateHorn else s

/-- A shutdown starts: an entry to Cooling by Table 05.1, of kind k, for cause f under a table, with its PM cause; `keep` is
the command that caused it (R217). A trip delay that a fault of grade T has left running goes on (R144). -/
def State.startShutdown (s : State) (k : Start) (f : FaultRec) (table pm : Nat) (keep : Option (Bool × Nat)) : State :=
  let trip := s.walk.tripDue.toList
  let s := s.leaveRunning
  let s := if k = .off then s else (s.faultShard f 0 table 0).recordFault f
  let s := s.assertPfw
  let s := if k = .gradeH ∨ k = .forceOff then s.assertTripo else s
  let s := (s.soundHorn k f.cause).tellTwin k f table
  let s := s.abortEngines.endSequences
  let s := s.goTo .cooling pm
  let s := { s with pm := { s.pm with offMinDue := none } }
  let s := (s.discardCooling pm keep).trimsNominal
  let w := ({} : Walk).take table (s.tableEntries table) f
  let s := { s with walk := { w with
      grace := k == Start.off || k == Start.gradeT
      graceDue := if k = Start.off ∨ k = Start.gradeT then some (s.clk.now + s.graceTicks) else none
      tripDue := if k = Start.gradeT then (trip ++ [s.clk.now + min s.tripTicks s.graceTicks]).min?
        else if k = Start.off then trip.head? else none } }
  let s := s.irqCt 1
  (if k = .gradeH ∨ k = .forceOff then s.walkBegin else s).afterAbort

/-- An off request with its PM cause, in the state found (Table 05.8). -/
def State.offRequest (s : State) (cause : Nat) (keep : Option (Bool × Nat)) : State :=
  match s.pm.state with
  | .firing | .running => s.startShutdown .off ⟨0x40, 0, BitVec.ofNat 8 cause, 0⟩ 0 cause keep
  | .ready | .cooling =>
    let t := s.abortHand
    { t with pm := { t.pm with onPending := none }, twin := { t.twin with heldOn := [] }, ctl := { t.ctl with lastOn := none } }
  | _ => s

/-- The walk in progress is the grace before an H table. -/
def State.graceBeforeH (s : State) : Bool := s.walk.grace && s.isHTable s.walk.table

/-- A grade H fault in Cooling (Table 05.6). A switch of tables within Cooling is no transition of states: PM_STATE.last_cause and the
log stay as they are (log entry 51). -/
def State.coolH (s : State) (f : FaultRec) (table : Nat) : State :=
  if !s.isHTable s.walk.table then
    let t := ((s.faultShard f 0 table 0).recordFault f).assertTripo
    { t with walk := { t.walk with tripDue := none } }.walkSwitch table f
  else if s.walk.grace then
    let t := s.assertTripo
    ({ t with walk := { t.walk with tripDue := none } }.walkBegin).enqueue f table
  else s.enqueue f table

/-- A grade T fault in Cooling (Table 05.6). -/
def State.coolT (s : State) (f : FaultRec) (table : Nat) : State :=
  let t := s.enqueue f table
  if t.out.tripo || t.walk.tripDue.isSome then t
  else { t with walk := { t.walk with tripDue := some (t.clk.now + t.tripTicks) } }

/-- The force-off as a cause (Table 05.4). -/
def forceOffRec : FaultRec := ⟨0x28, 0, 0, 0⟩

/-- A force-off sounds its horn and is told to the twin, in Cooling too (R253, R269). -/
def State.sendForce (s : State) : State := (s.soundHorn .forceOff 0x28).tellTwin .forceOff forceOffRec 7

/-- A force-off in Cooling (Table 05.6). One that is queued sounds no horn (R253), and is told to the twin all the same (R269). -/
def State.coolForce (s : State) : State :=
  if !s.isHTable s.walk.table then
    let t := s.assertPfw.assertTripo
    let t := { t with walk := { t.walk with tripDue := none } }
    if s.walk.table = 7 then (t.tellTwin .forceOff forceOffRec 7).enqueue forceOffRec 7
    else ((t.sendForce.faultShard forceOffRec 0 7 0).recordFault forceOffRec).walkSwitch 7 forceOffRec
  else if s.walk.grace then
    let t := s.assertTripo.tellTwin .forceOff forceOffRec 7
    ({ t with walk := { t.walk with tripDue := none } }.walkBegin).enqueue forceOffRec 7
  else (s.tellTwin .forceOff forceOffRec 7).enqueue forceOffRec 7

/-! ## Faults in Starting and Standby (R48, R369) -/

/-- A fault is held until the next Ready: at most 16, one for each cause and source; others count as overflow, but for repeats of one
that is held (log entry 61). Its table is what CT_RAILSEL and CT_CAUSE_CFG give then, table 0 before the configuration load (log
entry 61). -/
def State.holdFault (s : State) (f : FaultRec) (table : Nat) : State :=
  let real := s.pm.held.filter (fun h => h.what.cause != 0x28)
  if s.pm.held.any (fun h => h.what.cause == f.cause && h.what.source == f.source) then s
  else if f.cause = 0x28 ∨ real.length < 16 then
    { s with pm := { s.pm with held := s.pm.held ++ [⟨f, s.clk.aonStamp, BitVec.ofNat 8 table⟩] } }
  else { s with fault := { s.fault with overflow := inc 255 s.fault.overflow } }

/-- The first-fault record is readable in Starting: the configuration load of this start has been made (R369). -/
def State.firstReadable (s : State) : Bool := s.cfgLoaded && s.pm.state == .starting && s.pm.stage != 8

/-- A grade T or H fault, or a force-off, with no table walked: latch, records, PFW and TRIPO. -/
def State.recordOnly (s : State) (f : FaultRec) : State :=
  let t := s.setLatch.recordBisque f s.clk.aonStamp
  let t :=
    if t.firstReadable then t.recordFirst f s.clk.aonStamp
    else { t with pm := { t.pm with heldFirst := some (t.pm.heldFirst.getD (f, s.clk.aonStamp)) } }
  t.assertPfw.assertTripo

/-- The wake path begins (R49): Starting with cause 0x02, in which PFW and TRIPO0 to TRIPO3 are asserted (R34, R131, R369). -/
def State.wakeUp (s : State) : State :=
  let t := s.goTo .starting 0x02
  { t with
    pm := { t.pm with
      stage := 8, origin := s.clk.now, wakePath := true, logicPowered := true, wakeDue := none, cryptoHeld := true
      wakeHeld := false }
    out := { t.out with pfw := true, tripo := true }
    clk := { t.clk with tbSet := false, stamp := 0 } }

/-- A wake source is recognised in Standby (R48, R49). Below 7.5 V nothing changes; below 8.2 V the wake path waits for VIN good,
the device staying in Standby meanwhile (log entry 49). -/
def State.wake (s : State) : State :=
  if s.pm.state = .standby ∧ s.pm.vinLow = false then
    if s.pm.vinGood then s.wakeUp else { s with pm := { s.pm with wakeHeld := true } }
  else s

/-! ## What the fault logic receives -/

/-- A fault of grade W (R134, R48, R369). -/
def State.receiveW (s : State) (f : FaultRec) : State :=
  match s.pm.state with
  | .ready | .firing | .running | .cooling =>
    ((State.irqCt { s with ctl := { s.ctl with warnCount := inc 65535 s.ctl.warnCount } } 0)).faultShard f 3 0xFF 0
  | .starting => s.holdFault f 0xFF
  | .standby => (s.holdFault f 0xFF).wake
  | _ => s

/-- A fault of grade T or H with the table it selects (Table 05.1, Table 05.6, R48, R369). -/
def State.receiveTH (s : State) (f : FaultRec) (table : Nat) : State :=
  let k := if f.grade = 3 then Start.gradeH else Start.gradeT
  match s.pm.state with
  | .ready | .firing | .running => s.startShutdown k f table k.pmCause none
  | .cooling => if f.grade = 3 then s.coolH f table else s.coolT f table
  | .starting => (s.recordOnly f).holdFault f table
  | .standby => ((s.recordOnly f).holdFault f table).wake
  | _ => s

/-- The fault logic receives a fault with a table (R132). -/
def State.receiveAs (s : State) (f : FaultRec) (table : Nat) : State :=
  if f.grade = 0 then s.faultShard f 5 0xFF 0
  else if f.grade = 1 then s.receiveW f
  else s.receiveTH f table

/-- The fault logic receives a fault, its table by R132. -/
def State.receive (s : State) (f : FaultRec) : State := s.receiveAs f (s.tableOf f)

/-- A cause whose grade CT_CAUSE_CFGx gives (x = 1 to 5) reaches the fault logic. -/
def State.receiveCause (s : State) (x source : Nat) : State :=
  s.receive ⟨BitVec.ofNat 8 (0x10 + x), BitVec.ofNat 2 (fld (s.causeCfg x) 5 4), BitVec.ofNat 8 source, 0⟩

/-- A force-off by PB long press, by state (Table 05.10). -/
def State.forceOff (s : State) : State :=
  let s := { s with ctl := { s.ctl with forceOffs := inc 255 s.ctl.forceOffs } }
  match s.pm.state with
  | .ready | .firing | .running => s.startShutdown .forceOff forceOffRec 7 0x28 none
  | .cooling => s.coolForce
  | .standby | .starting => (s.recordOnly forceOffRec).holdFault forceOffRec 7
  | .coppice => s.recordBisque forceOffRec s.clk.aonStamp
  | .off => s

/-- An engine error as a cause: 0x10 with the engine and its err_cause (R125, R245). -/
def State.engineFault (s : State) (k err : Nat) : State :=
  let g := if k < 4 then fld (s.cfgAt (0x40100 + 0x20 * k)) 31 30 else fld (s.cfgAt 0xF00000) 30 29
  let grade : BitVec 2 := if g = 3 then 3 else if g = 2 then 2 else if k < 4 then 2 else 3
  s.receive ⟨0x10, grade, BitVec.ofNat 8 k, BitVec.ofNat 8 err⟩

/-! ## Mirrored requests (R147, R269) -/

/-- An on request arises here: it is mirrored unless it joins one of the same tick. -/
def State.onArises (s : State) (cause : Nat) : State :=
  (if s.onJoins.isSome then s else s.mirror 1 cause).onRequest cause

/-- CT_CONTROL.onreq_en, pb_short_en and auto_on. -/
def State.onreqEn (s : State) : Bool := bit (s.cfgAt 0x60000) 1
def State.pbShortEn (s : State) : Bool := bit (s.cfgAt 0x60000) 0
def State.autoOn (s : State) : Bool := bit (s.cfgAt 0x60000) 2

end Sys2Proof.Machine
end

