-- ==== Sys2Proof/Machine/SenseOps.lean ====
section
/-! DEFINITION. Sys2Proof/Machine/SenseOps.lean: what a change of comparators' delivered outputs brings about: arming, FLT pins,
CHECK steps, the sweep and the fault logic (R70 to R77, R85, R113); and the EN outputs (R22, R107). -/

set_option Elab.async false

namespace Sys2Proof.Machine

/-- EN n counts as asserted for arming: the device does not pull it low, and under twin supervision the pin reads high
(R73, R270). -/
def State.enUp (s : State) (n : Nat) : Bool := bit s.out.en n && (!bit (s.cfgAt 0xA0000) 31 || bit s.inp.enHigh n)

/-- The other comparator of a pair. -/
def partner (src : Nat) : Nat := if src % 2 = 0 then src + 1 else src - 1

/-- An enable-event window is open, or opens in this tick (R73, R81). -/
def Cmp.enWindow (c : Cmp) (now : Nat) : Bool :=
  c.enClose.isSome || (match c.enOpen with | some t => decide (t ≤ now) | none => false)

/-- The comparator becomes armed in this tick (R73). -/
def State.armsNow (s : State) (src : Nat) : Bool :=
  let c := s.cmp src
  decide (src % 4 < 2) && !c.armed && s.enUp (src / 4)
    && (!c.out || (c.ramp.isSome && c.settle.isNone && !c.enWindow s.clk.now))

/-- The comparators of a list that become armed. -/
def State.armAll (s : State) (srcs : List Nat) : State :=
  srcs.foldl (fun t src => if t.armsNow src then t.setCmp src { t.cmp src with armed := true } else t) s

/-- A comparator's output after an override has ended: its present decision, unless another override holds it or its status
delivers the fault side (R70). -/
def State.reeval (s : State) (src : Nat) : State :=
  let c := s.cmp src
  if s.holdsOutput src then s
  else s.setCmp src { c with out := c.side || c.status == .unresolved || c.status == .failed }

/-- A settle hold of the mode in force begins (R72). -/
def State.startSettle (s : State) (src : Nat) : State :=
  let c := s.cmp src
  s.setCmp src { c with settle := some (max (c.settle.getD 0) (s.clk.now + settleTicks (s.cmpMode src))) }

/-- A ramp ends before its target: the static code, with a settle hold (R72, R76). -/
def State.cutRamp (s : State) (src : Nat) : State :=
  if (s.cmp src).ramp.isSome then (s.setCmp src { s.cmp src with ramp := none }).startSettle src else s

/-- A ramp armed in the present tick is as if it had not been armed; an older one is cut (Table 03.6, Table 04.13). -/
def State.dropRamp (s : State) (src : Nat) : State :=
  match (s.cmp src).ramp with
  | some r =>
    if r.armed = s.clk.now then
      let c := s.cmp src
      let began := c.settle == some (s.clk.now + settleTicks (s.cmpMode src))
      s.setCmp src { c with ramp := none, settle := if began then none else c.settle }
    else s.cutRamp src
  | none => s

/-- A threshold or mode of comparator src that was written during its self-test takes effect as the test that `old` was in ends: with
the settle hold of the mode then in force (Table 03.13). -/
def State.testWrites (s old : State) (src : Nat) : State :=
  let c := s.cmpCfg src ^^^ old.cmpCfg src
  if fld c 11 0 ≠ 0 ∨ fld c 29 28 ≠ 0 then s.startSettle src else s

/-- A self-test in progress is abandoned (R87); its comparator is on the rail again. -/
def State.abandonTest (s : State) : State :=
  match s.sense.test.src with
  | some src =>
    let t := { s with sense := { s.sense with test := { s.sense.test with
      src := none, held := [], wrong := false, abandoned := inc 255 s.sense.test.abandoned } } }
    (t.testWrites s src).reeval src
  | none => s

/-- A ramp of comparator src is armed by an engine (R75, Table 03.6). Armed again while it ramps, with a start code that now equals
the static code, it has no ramp and no settle hold (log entry 50). -/
def State.armRamp (s : State) (engine src : Nat) : State :=
  let c := s.cmp src
  let w := s.cmpReg 0x20 src
  let start := fld w 27 16
  let t := fld (s.cmpCfg src) 11 0
  let n := fld w 15 0 + 1
  if start = t then s.setCmp src { c with ramp := none }
  else
    (s.setCmp src { c with ramp := some {
      pos := start, up := decide (start < t), div := n, next := s.clk.now + n, armed := s.clk.now, engine := engine } }).startSettle
      src

/-- A ramp armed within one RC cycle by the Saggar engine and a Kiln engine is armed once (R244). -/
def Ramp.fresh (r : Ramp) (engine now : Nat) : Bool := decide (now < r.armed + 8) && ((r.engine == 4) != (engine == 4))

/-- The comparators of a list with ramp_en take a ramp. -/
def State.armRamps (s : State) (engine : Nat) (srcs : List Nat) : State :=
  srcs.foldl (fun t src =>
    if bit (t.cmpCfg src) 23 && !(((t.cmp src).ramp.map (fun r => r.fresh engine t.clk.now)).getD false) then
      t.armRamp engine src
    else t) s

/-! ## CHECK steps see the delivered outputs (R113) -/

/-- Rail r is inside its window, as engine k sees it. -/
def State.insideWin (s : State) (k win r : Nat) : Bool :=
  [0, 1, 2, 3].all (fun j => !(win >>> j % 2 == 1) || !(s.engCmp k (4 * r + j)).out)

/-- What a CHECK notes of a rail in a tick, and whether the rail has departed. -/
def CheckRail.observe (r : CheckRail) (inside : Bool) (qt now : Nat) : CheckRail × Bool :=
  if r.done then (r, false) else
  match r.since, inside with
  | none, true => ({ r with since := some now }, false)
  | some t, false => if t + qt < now then ({ r with done := true }, false) else ({ r with since := none }, true)
  | _, _ => (r, false)

/-- One engine's CHECK looks at its rails. -/
def State.observeEngine (s : State) (k : Nat) : State :=
  match (nth s.kiln.engines k {}).busy with
  | .check w t0 rails =>
    let qt := fld w 39 24 * 200
    let rs := rails.map (fun r => r.observe (s.insideWin k (fld w 59 56) r.rail) qt s.clk.now)
    let gone := (rs.filter Prod.snd).map (fun e => e.1.rail)
    { s with kiln := { s.kiln with
        engines := modNth s.kiln.engines k (fun e => { e with busy := .check w t0 (rs.map Prod.fst) })
        chatter := gone.foldl (fun c r => Tab.put 0 c r (inc 255 (Tab.getD c r 0))) s.kiln.chatter } }
  | _ => s

/-- Every CHECK in progress looks at its rails. -/
def State.observeChecks (s : State) : State := [0, 1, 2, 3, 4].foldl State.observeEngine s

/-! ## The fault logic sees a change (Table 03.5) -/

/-- The faults that a change from `old` gives for comparator src, each with the comparator whose output it watches. A change of
status to failed that also moves the output is received by the row of the failure alone (log entry 50). -/
def State.assertionsOf (s old : State) (src : Nat) : List (FaultRec × Nat) :=
  let a := old.cmp src
  let b := s.cmp src
  let g := s.cmpGrade src
  let armed := s.armed src
  let own :=
    if b.status = .failed ∧ a.status ≠ .failed then
      [(⟨5, BitVec.ofNat 2 (if g = 0 then 1 else g), BitVec.ofNat 8 src, 0⟩, src)]
    else if armed && b.out && (!a.out || (a.status == .unresolved && b.status == .fault) || !old.armed src) then
      [(⟨BitVec.ofNat 8 (src % 4 + 1), BitVec.ofNat 2 g, BitVec.ofNat 8 (src / 4), 0⟩, src)]
    else []
  let t := partner src
  let gt := s.cmpGrade t
  let stand :=
    if s.underTest t && (t % 4 == 0 || t % 4 == 3) && s.armed t && gt != 0 && b.out && !a.out then
      [((⟨6, BitVec.ofNat 2 gt, BitVec.ofNat 8 t, 0⟩ : FaultRec), src)]
    else []
  own ++ stand

/-- CT_TRIP_TIMING.persist in ticks. -/
def State.persistTicks (s : State) : Nat := fld (s.cfgAt 0x60004) 23 16 * 200

/-- A comparator assertion is received, or begins to persist where it is of grade T and persist is not 0 (R134). -/
def State.deliver (s : State) (e : FaultRec × Nat) : State :=
  if e.1.grade = 2 ∧ e.1.cause ≠ 5 ∧ s.persistTicks ≠ 0 then
    let key := fun (p : Nat × Nat × Nat) => p.1 == e.2 && p.2.1 == e.1.cause.toNat
    let rest := s.fault.persist.filter (fun p => !key p)
    { s with fault := { s.fault with persist := rest ++ [(e.2, e.1.cause.toNat, s.clk.now + s.persistTicks)] } }
  else s.receive e.1

/-- The fault that a persisting change stands for, at a grade. -/
def persistFault (watch cause grade : Nat) : FaultRec :=
  ⟨BitVec.ofNat 8 cause, BitVec.ofNat 2 grade, BitVec.ofNat 8 (if cause = 6 then partner watch else watch / 4), 0⟩

/-- The persisting changes of a comparator end: as grade T where they have persisted, else as grade W (R134). -/
def State.endPersist (s : State) (src : Nat) : State :=
  let mine := s.fault.persist.filter (fun p => p.1 == src)
  let t := { s with fault := { s.fault with persist := s.fault.persist.filter (fun p => p.1 != src) } }
  mine.foldl (fun u p => u.receive (persistFault p.1 p.2.1 (if u.clk.now < p.2.2 then 1 else 2))) t

/-- The sweep of a rail ends when one of its comparators delivers its fault side (Table 06.3). -/
def State.sweepSees (s : State) : State :=
  match s.mg.sweep.rail with
  | some n => if [0, 1, 2, 3].any (fun k => (s.coreCmp (4 * n + k)).out) then s.abortRail n 2 else s
  | none => s

/-- The core sees a change of the listed comparators, `old` being the state before it: CHECKs, the sweep, then the fault
logic, highest grade first (R26). -/
def State.coreSees (s old : State) (srcs : List Nat) : State :=
  let s := s.observeChecks.sweepSees
  let fs := srcs.flatMap (fun src => s.assertionsOf old src)
  let pick := fun (g : BitVec 2) => fs.filter (fun e => e.1.grade == g)
  let t := (pick 3 ++ pick 2 ++ pick 1 ++ pick 0).foldl State.deliver s
  (srcs.filter (fun src => (old.cmp src).out && !(s.cmp src).out)).foldl State.endPersist t

/-- The consequences of a change of the listed comparators: arming and FLT pins at once, and what the core does of it unless
its crossing from the sense die holds its last values (R321) or it has stopped in Coppice mode (R156). -/
def State.senseChange (s old : State) (srcs : List Nat) : State :=
  let t := (s.armAll srcs).refreshFlt old
  if bit s.clk.stopped 1 || s.pm.state == .coppice then t else t.coreSees old srcs

/-- RAMP steps arm the rails of the listed comparators: a test of one of them is abandoned (Table 03.13), those with ramp_en take a
ramp. -/
def State.rampRails (s : State) (engine : Nat) (srcs : List Nat) : State :=
  match s.sense.test.src with
  | some src =>
    if srcs.contains src then (s.abandonTest.armRamps engine srcs).senseChange s [src] else s.armRamps engine srcs
  | none => s.armRamps engine srcs

/-- A change that is forced, which the fault logic does not receive (Table 03.5): FLT pins, CHECKs and the sweep only. -/
def State.forcedChange (s old : State) : State := (s.refreshFlt old).observeChecks.sweepSees

/-! ## EN outputs -/

/-- The comparators of the rails of a mask. -/
def srcsOf (mask : Rails) : List Nat := (bitsOf mask).flatMap (fun n => [4 * n, 4 * n + 1, 4 * n + 2, 4 * n + 3])

/-- Comparator src when EN of its rail is pulled low: disarmed, its ramp and enable-event windows end (R73, R76, R81). -/
def State.cmpLow (s : State) (src : Nat) : State :=
  let s := s.dropRamp src
  let c := s.cmp src
  (s.setCmp src { c with armed := false, enOpen := none, enClose := none }).reeval src

/-- EN outputs of a mask are pulled low; UVF and UVW of each of its rails are disarmed, ramps and enable-event windows end (R107, R73,
R76, R81). -/
def State.disable (s : State) (m : Rails) : State :=
  if m = 0 then s else
  let t := { s with out := { s.out with en := s.out.en &&& ~~~m } }
  ((srcsOf m).foldl State.cmpLow t).senseChange s (srcsOf m)

/-- The asserted EN outputs of a mask are pulled low. -/
def State.enLow (s : State) (mask : Rails) : State := s.disable (mask &&& s.out.en)

/-- Comparator src at an enable event of its rail: its enable-event timer starts (R81). -/
def State.cmpEnable (s : State) (src : Nat) : State :=
  let w := s.cmpEnblank src
  if bit (s.cmpCfg src) 27 && fld w 15 0 != 0 then
    s.setCmp src { s.cmp src with enOpen := some (s.clk.now + fld w 31 16 * usTicks) }
  else s

/-- EN outputs of a mask are asserted; each not asserted before takes an enable event (R107, R81, Table 06.1). -/
def State.enHigh (s : State) (mask : Rails) : State :=
  let m := mask &&& ~~~s.out.en
  if m = 0 then s else
  let t := { s with out := { s.out with en := s.out.en ||| m } }
  let t := (bitsOf m).foldl (fun u n => if (u.trim n).level = 5 then u.trimNominal n else u) t
  ((srcsOf m).foldl State.cmpEnable t).senseChange s (srcsOf m)

end Sys2Proof.Machine
end

