-- ==== Sys2Proof/Machine/LogOps.lean ====
section
/-! DEFINITION. Sys2Proof/Machine/LogOps.lean: shards as bytes, their writing into a region, and the archive copier's order of
work (R178 to R192). Region 1 is the fault archive, region 2 the flight recorder. -/

set_option Elab.async false

namespace Sys2Proof.Machine

/-- Positions of a region (Table 07.1). -/
def regionSize (r : Nat) : Nat := if r = 1 then 2097152 else 6160384

/-- A region of the log. -/
def State.region (s : State) (r : Nat) : Region := if r = 1 then s.log.fa else s.log.fr

/-- The state with a region changed. -/
def State.setRegion (s : State) (r : Nat) (x : Region) : State :=
  if r = 1 then { s with log := { s.log with fa := x } } else { s with log := { s.log with fr := x } }

/-- The body of a shard: bytes 0 to 471 (Table 07.2). -/
def Stored.body (x : Stored) : List Byte :=
  leBytes 8 x.shard.stamp ++ leBytes 8 x.seq ++ leBytes 8 (x.origin.getD 0xFFFFFFFFFFFFFFFF)
    ++ [x.shard.kind, x.shard.flags, x.shard.dstate, x.shard.cause] ++ leBytes 4 x.window ++ x.shard.readings
    ++ x.shard.channel ++ x.shard.engines ++ x.shard.pwm ++ x.shard.event ++ zeros 24

/-- Bytes 0 to 503 of a shard. -/
def Stored.checked (x : Stored) : List Byte := x.body ++ digestBytes x.chain

/-- The 512 bytes of a shard (R183, R184). -/
def Stored.bytes (x : Stored) : List Byte :=
  x.checked ++ leBytes 4 (crc32c x.checked) ++ leBytes 4 (0xFFFFFFFF - x.seq % 4294967296)

/-- The genesis value of a region (R185). -/
def State.genesis (s : State) (r : Nat) : Digest :=
  sha3 (ascii "SKV6400 LOG" ++ [BitVec.ofNat 8 r] ++ leBytes 16 s.ident.uid.toNat)

/-- The chain value of a region's last committed shard, or its genesis value (R185). -/
def State.chainOf (s : State) (r : Nat) : Digest := (s.region r).chain.getD (s.genesis r)

/-- A shard as a region will hold it: its next seq and its chain value. -/
def State.store (s : State) (r : Nat) (x : Shard) (origin : Option Nat) (window : Nat) : Stored :=
  let y : Stored := { shard := x, seq := (s.region r).next, origin := origin, window := window, chain := 0 }
  { y with chain := sha3 (digestBytes (s.chainOf r) ++ y.body) }

/-- A region with a shard committed at its write position (R183). -/
def Region.commit (g : Region) (size : Nat) (y : Stored) : Region :=
  { next := g.next + 1
    pos := (g.pos + 1) % size
    chain := some y.chain
    slots := Tab.insert g.slots g.pos (.good y) }

/-- A shard is written into a region and committed. A position rewritten whole is no longer uncorrectable. -/
def State.writeShard (s : State) (r : Nat) (x : Shard) (origin : Option Nat) (window : Nat) : State :=
  let g := s.region r
  let t := s.setRegion r (g.commit (regionSize r) (s.store r x origin window))
  { t with log := { t.log with bad := t.log.bad.filter (fun b => !(b.1 == r && b.2.1 == g.pos)) } }

/-- Free archive positions (R190). -/
def State.freeCount (s : State) : Nat := 2097152 - (s.log.fa.next - s.log.drained)

/-- A slot holds the committed shard with a seq. -/
def Slot.hasSeq (q : Nat) : Slot → Bool
  | .good y => y.seq == q
  | .raw _ => false

/-- The position of the flight-recorder shard with a seq, while it is still there, and the shard. Torn positions that a report has
passed over take no seq (R185), so it is found by its seq. -/
def State.frPlace (s : State) (q : Nat) : Option (Nat × Stored) :=
  match s.log.fr.slots.find? (fun e => e.2.hasSeq q) with
  | some (p, .good y) => some (p, y)
  | _ => none

/-- The flight-recorder shard with a seq, while it is still there. -/
def State.frShard (s : State) (q : Nat) : Option Stored := (s.frPlace q).map Prod.snd

/-- A flight-recorder shard is copied, or about to be copied, for a window (R189). -/
def State.forWindow (s : State) (q : Nat) : Bool :=
  s.log.spans.any (fun e => decide (e.1 ≤ q) && decide (q < e.2))
    || s.log.copies.any (fun c => c.origin == q && (c.why == .pre || c.why == .trigger || c.why == .post))

/-- A seq joins the spans copied for a window: the last span where it follows on, else one of its own. -/
def addSpan (l : List (Nat × Nat)) (q : Nat) : List (Nat × Nat) :=
  match l.getLast? with
  | some e => if e.2 = q then l.dropLast ++ [(e.1, q + 1)] else l ++ [(q, q + 1)]
  | none => [(q, q + 1)]

/-- LG_FREEZE_CFG.pre and post. -/
def State.preCount (s : State) : Nat := fld (s.cfgAt 0x80004) 15 0
def State.postCount (s : State) : Nat := fld (s.cfgAt 0x80004) 31 16

/-- Seqs before a trigger that belong to its pre-fault span, oldest first: the last P snapshots and what lies among them
(07), at most `fuel` shards back. -/
def State.preSpan (s : State) : Nat → Nat → Nat → List Nat
  | 0, _, _ => []
  | fuel + 1, q, p =>
    if p = 0 ∨ q = 0 then [] else
    match s.frShard (q - 1) with
    | none => []
    | some y =>
      let left := if y.shard.kind = 1 then p - 1 else p
      s.preSpan fuel (q - 1) left ++ [q - 1]

/-- A window is admitted (R190). -/
def State.admitsWindow (s : State) : Bool :=
  let n := s.preCount + s.postCount + 1
  if bit (s.cfgAt 0x80008) 0 then decide (n ≤ 2093056) else decide (n + 4096 ≤ s.freeCount)

/-- The next window id (R189). -/
def nextId (k : Nat) : Nat := if k = 0xFFFFFFFF then 1 else k + 1

/-- The copier reaches a trigger: the window is refused, or opened with its pre-fault span and the trigger queued (R189). -/
def State.openWindow (s : State) (y : Stored) (rest : List Copy) : State :=
  if s.admitsWindow then
    let id := nextId s.log.lastWindow
    let pre := (s.preSpan 6160384 y.seq s.preCount).filter (fun q => !s.forWindow q)
    let q := s.postCount
    let opened := if q = 0 then s.log.openWins else s.log.openWins ++ [(id, q)]
    let trig : Copy := { origin := y.seq, why := .trigger, window := id, ends := if q = 0 then [id] else [] }
    let e : WinEntry := {
      id := id, open_ := true, complete := false, truncated := false, overwritten := false, drained := false,
      trigger := y.seq, first := none, last := none, pre := 0, post := 0, cause := y.shard.event.headD 0,
      grade := y.shard.event.getD 1 0 }
    State.irqLg { s with log := { s.log with
      lastWindow := id
      openWins := opened
      index := Tab.insert s.log.index (id % 65536) e
      copies := pre.map (fun o => { origin := o, why := .pre, window := id }) ++ [trig] ++ rest } } 0
  else
    let t : State := { s with log := { s.log with copies := rest, windowRefused := inc 255 s.log.windowRefused } }
    (t.irqLg 1).logEvent 0x02 1 s.freeCount 0

/-- The newest window open, 0 if none. -/
def Log.newestOpen (l : Log) : Nat := (l.openWins.getLast?.map Prod.fst).getD 0

/-- The open windows once a further flight-recorder shard is behind them: a snapshot counts toward their last one. -/
def Log.counted (l : Log) (snap : Bool) : List (Nat × Nat) := l.openWins.map (fun w => if snap then (w.1, w.2 - 1) else w)

/-- The copies that a shard inside open windows needs: one, in the newest of them, ending those whose last snapshot it is. -/
def State.postCopy (s : State) (y : Stored) (rest : List Copy) : State :=
  let wins := s.log.counted (y.shard.kind == 1)
  let ends := (wins.filter (fun w => w.2 == 0)).map Prod.fst
  let c : Copy := { origin := y.seq, why := .post, window := s.log.newestOpen, ends := ends }
  { s with log := { s.log with openWins := wins.filter (fun w => w.2 != 0), copies := c :: rest } }

/-- Every open window ends, truncated, on the copies of the shard with seq q (Table 07.8). -/
def Log.closeOn (l : Log) (q : Nat) : Log :=
  let ids := l.openWins.map Prod.fst
  if ids.isEmpty then l else { l with
    openWins := []
    copies := l.copies.map (fun (c : Copy) =>
      if c.origin = q ∧ (c.why = .post ∨ c.why = .trigger) then { c with ends := c.ends ++ ids, truncated := true } else c) }

/-- The copier reaches a shard whose copy by kind, if any, has been made: as a trigger or within open windows (R188, R189). -/
def State.reachShard (s : State) (y : Stored) (c : Copy) (rest : List Copy) : State :=
  let t :=
    if y.shard.trigger then
      let u := s.openWindow y rest
      if s.admitsWindow || s.log.openWins.isEmpty then u else u.postCopy y u.log.copies
    else if s.log.openWins.isEmpty then { s with log := { s.log with copies := rest } }
    else s.postCopy y rest
  if c.truncated then { t with log := t.log.closeOn y.seq } else t

/-- An index entry changed. -/
def Log.setEntry (l : Log) (id : Nat) (f : WinEntry → WinEntry) : Log :=
  match Tab.get? l.index (id % 65536) with
  | some e => { l with index := Tab.insert l.index (id % 65536) (f e) }
  | none => l

/-- A window has ended. -/
def WinEntry.ended (e : WinEntry) (truncated : Bool) : WinEntry :=
  { e with open_ := false, complete := !truncated, truncated := e.truncated || truncated }

/-- The copier reaches a shard that the flight recorder has overwritten: the copies it needed are not made, the windows open
are flagged truncated, and those whose last snapshot it was end, or all where the copier had stopped on it (Table 07.8). -/
def State.missShard (s : State) (c : Copy) (rest : List Copy) : State :=
  let wins := s.log.counted c.snap
  let gone := fun (w : Nat × Nat) => w.2 == 0 || c.truncated
  let flagged := s.log.openWins.foldl (fun (l : Log) w => l.setEntry w.1 (fun e => { e with truncated := true })) s.log
  let shut := (wins.filter gone).foldl (fun (l : Log) w => l.setEntry w.1 (fun e => e.ended true)) flagged
  let t := { s with log := { shut with openWins := wins.filter (fun w => !gone w), copies := rest } }
  if c.needed || !s.log.openWins.isEmpty then t.logEvent 0x04 2 0 0 else t

/-- Entries at the head of the copier's list that stand for shards not reached yet become the copies they need. -/
def State.reach (s : State) : Nat → State
  | 0 => s
  | k + 1 =>
    match s.log.copies with
    | c :: rest =>
      if c.why = .shard then
        match s.frShard c.origin with
        | none => (s.missShard c rest).reach k
        | some y =>
          if y.shard.byKind && !c.kindDone then
            let kind : Copy := { origin := y.seq, why := .kind }
            { s with log := { s.log with copies := kind :: { c with kindDone := true } :: rest } }
          else (s.reachShard y c rest).reach k
      else s
    | [] => s

/-- A torn report is written after the torn position that it names (R57); any other shard at the write position. -/
def State.skipTorn (s : State) (r : Nat) (x : Shard) : State :=
  if x.kind = 8 then s.setRegion r { s.region r with pos := (leAt x.event 8 8 + 1) % regionSize r } else s

/-- The oldest captured shard is written to the flight recorder, and joins the copier's list. -/
def State.writeFr (s : State) (x : Shard) : State :=
  let x := if s.log.skipFlag then { x with flags := x.flags ||| 0x80 } else x
  let q := s.log.fr.next
  let t := (s.skipTorn 2 x).writeShard 2 x none 0
  let entry : Copy := { origin := q, why := .shard, needed := x.byKind || x.trigger, snap := x.kind == 1 }
  { t with log := { t.log with skipFlag := false, copies := t.log.copies ++ [entry] } }

/-- The same, and the copier takes note of it where it runs: in a commit sequence and at a reset it has stopped (Table 07.8). -/
def State.commitFr (s : State) (x : Shard) : State :=
  if s.pm.state.logs then (s.writeFr x).reach 64 else s.writeFr x

/-- The free count fell below its warning level (Table 07.18). -/
def State.archiveLow (s old : State) : State :=
  if 209715 ≤ old.freeCount ∧ s.freeCount < 209715 then s.irqLg 2 else s

/-- The torn report of the archive is written there, with the seq and chain value that follow the last valid shard (R57,
R185). -/
def State.commitTornFa (s : State) : State :=
  match s.log.tornFa with
  | some x =>
    (State.writeShard (State.skipTorn { s with log := { s.log with tornFa := none } } 1 x) 1 x none 0).archiveLow s
  | none => s

/-- The shards of the buffer are written in capture order, and those that the copier's work captures meanwhile, k times over. -/
def State.drainBuffer (s : State) : Nat → State
  | 0 => s
  | k + 1 =>
    if s.log.buffer.isEmpty then s
    else (s.log.buffer.foldl State.commitFr { s with log := { s.log with buffer := [] } }).drainBuffer k

/-- Every shard that waits is written: the archive's torn report, and those of the buffer. -/
def State.flushBuffer (s : State) : State := s.commitTornFa.drainBuffer 4

/-- The torn report of a region (Table 07.3): the seq of the last valid shard is the one before the region's next. -/
def State.tornShard (s : State) (r p : Nat) : Shard :=
  s.shardNow 0x08 0 0 ([1, BitVec.ofNat 8 r] ++ zeros 6 ++ leBytes 8 p ++ leBytes 8 0xFFFFFFFFFFFFFFFF
    ++ leBytes 8 ((s.region r).next - 1))

/-- At entry to Ready the torn reports are captured ahead of every other shard: the flight recorder's joins the buffer first, the
archive's waits to be written there (R57, R182). -/
def State.captureTorn (s : State) : State :=
  let report := fun (r : Nat) => (s.log.torn.find? (fun e => e.1 == r)).map (fun e => s.tornShard r e.2)
  { s with log := { s.log with
      torn := [], tornFa := report 1, buffer := (report 2).toList ++ s.log.buffer } }

/-- The windows that are open when the copier stops, and those that shards not reached yet will open, end on the last
flight-recorder shard committed: on its copy where that is still to come, else at once (Table 07.8). -/
def State.endWindows (s : State) : State :=
  let last := s.log.fr.next - 1
  if s.log.copies.any (fun c => c.origin == last && c.why == .shard) then
    let mark := fun (c : Copy) => if c.origin = last ∧ c.why = .shard then { c with truncated := true } else c
    { s with log := { s.log with copies := s.log.copies.map mark } }
  else if s.log.openWins.isEmpty then s
  else if s.log.copies.any (fun c => c.origin == last) then { s with log := s.log.closeOn last }
  else
    let ids := s.log.openWins.map Prod.fst
    let shut := fun (l : Log) (i : Nat) => l.setEntry i (fun e => e.ended true)
    { s with log := ids.foldl shut { s.log with openWins := [] } }

end Sys2Proof.Machine
end

