-- ==== Sys2Proof/Machine/ConvOps.lean ====
section
/-! DEFINITION. Sys2Proof/Machine/ConvOps.lean: readings, comparator resolution by readings, and the four converters: free scan,
triggered groups and demands (R41, R67, R92 to R96). -/

set_option Elab.async false

namespace Sys2Proof.Machine

/-! ## Observed decisions -/

/-- A comparator observes its input on a side: its decision, its status and, unless an override holds it, its delivered output
(R41, R70). A failed comparator delivers the fault side. -/
def State.observe (s : State) (src : Nat) (fault : Bool) : State :=
  let c := s.cmp src
  if c.status = .failed then s
  else s.setCmp src { c with
    side := fault
    status := if fault then .fault else .good
    out := if s.holdsOutput src then c.out else fault }

/-- The comparator is evaluated at all: from stage 5 and on the wake path, or a safety rail's UVF or OVF from stage 1 with the
partition loaded (R38, R40); in Coppice mode only those (R97). -/
def State.evaluated (s : State) (src : Nat) : Bool :=
  let safe := s.isSafety (src / 4) && (src % 4 == 0 || src % 4 == 3)
  match s.pm.state with
  | .off => false
  | .coppice => safe
  | .starting => safe || (decide (s.pm.stage = 5) && s.pm.logicPowered) || decide (s.pm.stage = 8)
  | _ => true

/-! ## Calibration (R171) -/

/-- The index of an input's calibration word: rails at ×1, rails at ×1/4, currents, temperatures. -/
def State.calIndex (s : State) (i : Nat) : Nat :=
  if i < 64 then (if bit (s.cfgAt (0x20000 + 0x100 * i)) 0 then 64 + i else i) else 64 + i

/-- The word of an index, gain in bits 31:16 and offset in bits 15:0. -/
def State.calWord (s : State) (j : Nat) : Word := Tab.getD s.mg.cal j 0

/-- A raw code with its input's gain and offset applied, at the nearest code, the higher one of two (R67, R171). -/
def State.calibrated (s : State) (i : Nat) (raw : BitVec 16) : BitVec 16 :=
  let w := s.calWord (s.calIndex i)
  let v := (2 * s.inputValue i raw * (0x100000 + sfld w 31 16) + 0x100000) / 0x200000 + sfld w 15 0
  BitVec.ofInt 16 (if s.signedInput i then clampInt (-32768) 32767 v else clampInt 0 65535 v)

/-- The raw level to which the threshold DAC of comparator src is driven, as numerator and denominator in the input's code units:
the level whose calibrated value is T × L above code 4,096, one LSB being 55/4 codes (R68, R69, R171). -/
def State.thresholdDrive (s : State) (src : Nat) : Int × Int :=
  let w := s.calWord (s.calIndex (src / 4))
  ((55 * s.dacCode src + 16384 - 4 * sfld w 15 0) * 0x100000, 4 * (0x100000 + sfld w 31 16))

/-- What the DAC of trim output n is driven with, in 2^-24 LSB: its code by the gain factor, and the offset of o / 16 LSB (R171). -/
def State.trimDrive (s : State) (n : Nat) : Int :=
  let w := s.calWord (176 + n)
  (s.trim n).code.toInt * 16 * (0x100000 + sfld w 31 16) + sfld w 15 0 * 0x100000

/-! ## Readings -/

/-- A reading lies outside the rated range of its input (Table 03.1, R67). -/
def State.outOfRange (s : State) (i : Nat) (code : BitVec 16) : Bool :=
  let v := s.inputValue i code
  if i < 64 then decide (v < 1096 ∨ 59096 < v)
  else if i < 96 then decide (v < -25000 ∨ 25000 < v)
  else if s.signedInput i then decide (v < -7040 ∨ 19200 < v)
  else false

/-- Which side a reading shows for comparator src, true for the fault side; none within 0.05 % of range of its band (R41).
All in quarter codes: one threshold LSB is 55, and 0.05 % of range is 110, at both attenuations. -/
def State.shownSide (s : State) (src : Nat) (code : BitVec 16) : Option Bool :=
  let v : Int := 4 * ((code.toNat : Int) - 4096)
  let t := s.threshold src
  let h := fld (s.cmpCfg src) 20 16
  if src % 4 < 2 then
    if v ≥ 55 * (min (t + h) 4095 : Nat) + 110 then some false
    else if v + 110 ≤ 55 * (t : Int) then some true else none
  else
    if v + 110 ≤ 55 * ((t - h : Nat) : Int) then some false
    else if v ≥ 55 * (t : Int) + 110 then some true else none

/-- Unresolved comparators of rail n take what a reading shows (Table 02.5). -/
def State.resolveBy (s : State) (n : Nat) (code : BitVec 16) : State :=
  let srcs := [4 * n, 4 * n + 1, 4 * n + 2, 4 * n + 3]
  let t := srcs.foldl (fun u src =>
    if (u.cmp src).status = .unresolved ∧ u.evaluated src then
      match u.shownSide src code with
      | some f => u.observe src f
      | none => u
    else u) s
  if t.sense.cmps = s.sense.cmps then s else t.senseChange s srcs

/-- The first conversion of a diode pair gives no new temperature (03): the input's half bit toggles. -/
def State.isHalf (s : State) (i : Nat) : Bool := decide (96 ≤ i) && s.signedInput i && !bit s.sense.diodeHalf (i - 96)

/-- An input's reading register takes a code (R93). -/
def State.putReading (s : State) (i : Nat) (code : BitVec 16) : State :=
  let r : Reading := { code := code, seq := (s.reading i).seq + 1, valid := true, range := s.outOfRange i code,
                       time := s.clk.now }
  { s with
    sense := { s.sense with readings := Tab.put {} s.sense.readings i r }
    walk := { s.walk with
      demandFrom :=
        if s.walk.waiting && ((s.walk.entries[s.walk.entry]?).map entInput == some i) then s.clk.now
        else s.walk.demandFrom } }

/-- The seq of an input's reading register counts a conversion that gives no new reading (Table 03.24). -/
def State.bumpSeq (s : State) (i : Nat) : State :=
  let r := s.reading i
  { s with sense := { s.sense with readings := Tab.put {} s.sense.readings i { r with seq := r.seq + 1 } } }

/-- A conversion of input i has completed with a raw code: reading, seq, range and resolution (R41, R93, R171). -/
def State.takeReading (s : State) (i : Nat) (raw : BitVec 16) : State :=
  if 112 ≤ i then s else
  let half := s.isHalf i
  let code := s.calibrated i raw
  let s := if 96 ≤ i then { s with sense := { s.sense with diodeHalf := putBit s.sense.diodeHalf (i - 96) half } } else s
  if half then s.bumpSeq i
  else
    let t := s.putReading i code
    if i < 64 then t.resolveBy i code else t

/-! ## The converters -/

/-- CH_TRIG_CFGg. -/
def State.trigCfg (s : State) (g : Nat) : Word := s.cfgAt (0x27200 + 0x10 * g)

/-- Converters that groups have reserved (R94). -/
def State.reserved (s : State) (c : Nat) : Bool :=
  decide (0 < c) && [0, 1, 2, 3].any (fun g => bit (s.trigCfg g) 11 && bit (s.trigCfg g) (12 + c))

/-- Entry i of group g. -/
def State.groupEntry (s : State) (g i : Nat) : Nat :=
  fld (s.cfgAt ((if i < 4 then 0x27204 else 0x27208) + 0x10 * g)) (8 * (i % 4) + 6) (8 * (i % 4))

/-- Entries in group g, and converters in its mask. -/
def State.groupLen (s : State) (g : Nat) : Nat := fld (s.trigCfg g) 10 8 + 1
def State.groupConvs (s : State) (g : Nat) : Nat := (bitsOf (BitVec.ofNat 4 (fld (s.trigCfg g) 15 12))).length

/-- Converter c begins a conversion at tick t (200 ns). -/
def State.convert (s : State) (c input t : Nat) (u : ConvUser) : State :=
  { s with sense := { s.sense with convs := modNth s.sense.convs c (fun _ => some ⟨input, u, t + 40⟩) } }

/-- The converters exist for the scan and groups: stage 5 on, and none in Standby and Coppice mode (R97). -/
def State.scanLive (s : State) : Bool := s.pm.state.logs || (s.pm.state == .starting && decide (s.pm.stage = 5))

/-- CH_SCAN_CFG.list_len and the interval in ticks. -/
def State.scanLen (s : State) : Nat := fld (s.cfgAt 0x27000) 23 16
def State.scanInterval (s : State) : Nat := fld (s.cfgAt 0x27000) 15 0 * usTicks

/-- CH_SCAN_LIST as it stands. -/
def State.scanList (s : State) : List Nat :=
  (List.range (min 128 s.scanLen)).map (fun j => fld (s.cfgAt (0x27100 + 4 * (j / 4))) (8 * (j % 4) + 6) (8 * (j % 4)))

/-- A free-scan pass starts now, with the list and interval in force (R92); with no list the scan stops. -/
def State.startPass (s : State) : State :=
  let l := s.scanList
  { s with sense := { s.sense with scan := {
      running := !l.isEmpty, list := l, interval := s.scanInterval, start := s.clk.now, next := 0, overdue := false } } }

/-- The next pass may start: continuous, overdue, or its due tick has come (R92). -/
def State.passDue (s : State) : Bool :=
  s.scanInterval == 0 || s.sense.scan.overdue || decide (s.sense.scan.start + s.scanInterval ≤ s.clk.now)

/-- A pass that has handed its last entry gives way to the next one, if that may start; without a list the scan stops. -/
def State.turnPass (s : State) : State :=
  let p := s.sense.scan
  if p.running && decide (p.list.length ≤ p.next) && (s.scanLen == 0 || s.passDue) then s.startPass else s

/-- The instant from which group g may sample its first inputs. -/
def State.opens (s : State) (g : Nat) : Nat := (nth s.sense.groups g {}).open_

/-- Group g among others by its instant, and of equal ones by its number. -/
def State.putGroup (s : State) (g : Nat) : List Nat → List Nat
  | [] => [g]
  | h :: t => if s.opens g ≤ s.opens h then g :: h :: t else h :: s.putGroup g t

/-- The groups by their instants, of equal ones the lower first. -/
def State.groupOrder (s : State) : List Nat := [0, 1, 2, 3].foldr s.putGroup []

/-- The active group with an entry for converter c whose instant came first, by tick t (Table 03.16, R323). -/
def State.groupFor (s : State) (c t : Nat) : Option Nat :=
  s.groupOrder.find? (fun g =>
    let p := nth s.sense.groups g {}
    p.active && bit (s.trigCfg g) (12 + c) && decide (p.next < s.groupLen g) && decide (p.open_ ≤ t))

/-- A group's record changed. -/
def State.setGroup (s : State) (g : Nat) (f : Group → Group) : State :=
  { s with sense := { s.sense with groups := modNth s.sense.groups g f } }

/-- A group whose entries are all converted is done (R95). -/
def State.groupDone (s : State) (g : Nat) : State :=
  let p := nth s.sense.groups g {}
  if p.active && decide (s.groupLen g ≤ p.next) && decide (p.flying = 0) then
    s.setGroup g (fun q => { q with active := false, done := (q.done + 1) % 256 })
  else s

/-- Empty entries that come next in a group's list convert nothing and complete at once. -/
def State.skipEmpty (s : State) (g : Nat) : Nat → State
  | 0 => s
  | k + 1 =>
    let p := nth s.sense.groups g {}
    if p.active && decide (p.next < s.groupLen g) && decide (112 ≤ s.groupEntry g p.next) then
      State.skipEmpty (s.setGroup g (fun q => { q with next := q.next + 1 })) g k
    else s

/-- Inputs of group g converted before entry i. -/
def State.groupInputs (s : State) (g i : Nat) : Nat := ((List.range i).filter (fun j => decide (s.groupEntry g j < 112))).length

/-- Group g hands its next entry, an input, to converter c, to be sampled at tick t. Sampling later than R95 allows counts once for
the group. -/
def State.handGroup (s : State) (g c t : Nat) : State :=
  let p := nth s.sense.groups g {}
  if 112 ≤ s.groupEntry g p.next then (s.skipEmpty g 8).groupDone g else
  let allowed := p.limit + 40 * (s.groupInputs g p.next / max 1 (s.groupConvs g))
  let late := decide (allowed < t)
  let u := s.setGroup g (fun q => { q with
    next := q.next + 1
    flying := q.flying + 1
    late := q.late || late
    lateCount := if late && !q.late then inc 255 q.lateCount else q.lateCount })
  (u.convert c (s.groupEntry g p.next) t (.group g p.next)).skipEmpty g 8

/-- The level of Table 12.7 of a demand. -/
def ConvUser.level : ConvUser → Nat
  | .saggar => 1
  | .sweep _ => 6
  | _ => 3

/-- What converter c may do next: a demand that waits, a group's entry, or the free scan's next one. -/
inductive ConvTask where
  | demand (d : Demand)
  | group (g : Nat)
  | scan
  deriving DecidableEq, Repr

/-- The demands that converter c may serve: the Saggar engine's on any converter, the others not on one that waits idle for a trigger
(R94, Table 03.16). -/
def State.demandAsks (s : State) (c : Nat) : List (Ask ConvTask) :=
  (s.sense.demands.filter (fun d => d.user == .saggar || !(s.scanLive && s.reserved c))).map
    (fun d => ⟨d.user.level, d.since, .demand d⟩)

/-- The group that may take converter c. -/
def State.groupAsks (s : State) (c : Nat) : List (Ask ConvTask) :=
  (s.groupFor c s.clk.now).toList.map (fun g => ⟨3, s.opens g, .group g⟩)

/-- The free scan's next entry for converter c. Between two passes it gives way to a sweep sample, which it would otherwise keep
waiting beyond the 10 µs of R324 (log entry 63). -/
def State.scanAsks (s : State) (c : Nat) : List (Ask ConvTask) :=
  let p := s.turnPass.sense.scan
  if p.running && !s.reserved c && decide (p.next < p.list.length) then
    [⟨if p.next = 0 && !s.sense.demands.isEmpty then 7 else 5, s.clk.now, .scan⟩] else []

/-- What converter c does next, by the ladder (R323). -/
def State.nextTask (s : State) (c : Nat) : Option ConvTask :=
  (grant s.clk.now (s.demandAsks c ++ (if s.scanLive then s.groupAsks c ++ s.scanAsks c else []))).map Ask.user

/-- Converter c takes a waiting demand. -/
def State.serve (s : State) (c : Nat) (d : Demand) : State :=
  State.convert { s with sense := { s.sense with demands := s.sense.demands.erase d } } c d.input s.clk.now d.user

/-- A late pass that has handed its last entry lets the next one start at once; without an interval that one starts with its first
entry (R92). -/
def State.turnLate (s : State) : State := if s.scanInterval = 0 then s else s.turnPass

/-- Converter c takes the free scan's next entry; an empty slot keeps it idle for a conversion. -/
def State.handScan (s : State) (c : Nat) : State :=
  let t := s.turnPass
  let p := t.sense.scan
  let u := { t with sense := { t.sense with scan := { p with next := p.next + 1 } } }
  (u.convert c (nth p.list p.next 127) s.clk.now (.scan (decide (p.next + 1 = p.list.length)))).turnLate

/-- Converter c, free now, takes its next work (Table 03.16, Table 12.7). -/
def State.assign (s : State) (c : Nat) : Nat → State
  | 0 => s
  | k + 1 =>
    if ((nth s.sense.convs c none).isSome) then s
    else
      match s.nextTask c with
      | some (.demand d) => s.serve c d
      | some (.group g) => (s.handGroup g c s.clk.now).assign c k
      | some .scan => s.handScan c
      | none => if s.scanLive && !s.reserved c then s.turnPass else s

/-- Group g has an entry for converter c, which is idle, and its instant has come: no row tells of the instant, so the converter has
begun then (R95). -/
def State.openOne (s : State) (g c : Nat) : State :=
  let p := nth s.sense.groups g {}
  if p.active && bit (s.trigCfg g) (12 + c) && decide (p.next < s.groupLen g) && decide (p.open_ ≤ s.clk.now)
      && (nth s.sense.convs c none).isNone then s.handGroup g c p.open_
  else s

/-- Idle converters have taken the entries of the groups whose instants have come, in the order of these. -/
def State.openGroups (s : State) : State :=
  s.groupOrder.foldl (fun t g => [0, 1, 2, 3].foldl (fun u c => u.openOne g c) t) s

/-- The first instant for which an idle converter c waits. -/
def State.nextOpen (s : State) (c : Nat) : Option Nat :=
  ([0, 1, 2, 3].filterMap (fun g =>
    let p := nth s.sense.groups g {}
    if p.active && bit (s.trigCfg g) (12 + c) && decide (p.next < s.groupLen g) then some p.open_ else none)).min?

/-- Every free converter takes work, in ascending order. -/
def State.assignAll (s : State) : State := [0, 1, 2, 3].foldl (fun t c => t.assign c 12) s.openGroups

/-- A demanded conversion is queued and, where a converter is free, begun (Table 03.16). -/
def State.demand (s : State) (input : Nat) (u : ConvUser) : State :=
  let s := s.openGroups
  State.assignAll { s with sense := { s.sense with demands := s.sense.demands ++ [⟨input, u, s.clk.now⟩] } }

/-- A trigger reaches group g, its inputs to be sampled from tick t (R95, R96). One that comes during the group's delay D, before any
input is sampled, meets a group that is still converting: ignored and counted (log entry 50). -/
def State.trigger (s : State) (g t : Nat) : State :=
  if (nth s.sense.groups g {}).active then s.setGroup g (fun p => { p with overrun := inc 65535 p.overrun })
  else
    let sharp := bit (s.trigCfg g) 11 && !bit (s.trigCfg g) 12
    let u := s.setGroup g (fun p => { p with
      active := true, open_ := t, limit := if sharp then t else t + 40, late := false, next := 0, flying := 0 })
    ((u.skipEmpty g 8).groupDone g).openGroups

/-- A trigger source fires: every group that names it is triggered, the lower g first; `sync` ticks pass in its
synchroniser (R94, R95). -/
def State.fireTrigger (s : State) (code sync : Nat) : State :=
  [0, 1, 2, 3].foldl (fun u g =>
    if fld (u.trigCfg g) 5 0 = code then u.trigger g (u.clk.now + sync + fld (u.trigCfg g) 31 16) else u) s

end Sys2Proof.Machine
end

