-- ==== Sys2Proof/Machine/ClockOps.lean ====
section
/-! DEFINITION. Sys2Proof/Machine/ClockOps.lean: clock outputs, the core clock's source, the time base's references and whole
seconds (R82, R304, R307 to R316). -/

set_option Elab.async false

namespace Sys2Proof.Machine

/-! ## Clock outputs (R314 to R316) -/

/-- CK_OUTn_CFG. -/
def State.outCfg (s : State) (n : Nat) : Word := s.cfgAt (0xC0040 + 0x10 * n)

/-- N of an output. -/
def outDiv (cfg : Word) : Nat := fld cfg 11 0 + 1

/-- An output with its pending steps applied, one for each period since they began to be (R316). -/
def ClkOut.settle (o : ClkOut) (n now : Nat) : ClkOut :=
  if !o.running || o.pending = 0 then { o with mark := now }
  else
    let k := min o.pending.natAbs ((now - o.mark) / n)
    let step : Int := if o.pending < 0 then -(k : Int) else k
    { o with
      position := ((o.position + step) % (64 * n)).toNat
      pending := o.pending - step
      mark := o.mark + k * n }

/-- Output n at the present tick; a PPS output takes no steps (R316). -/
def State.outNow (s : State) (n : Nat) : ClkOut :=
  let o := nth s.clk.outs n {}
  if bit (s.outCfg n) 27 then { o with mark := s.clk.now } else o.settle (outDiv (s.outCfg n)) s.clk.now

/-- The high phase of an output in steps of one sixty-fourth of a tick (R314): the PLL output at 50 % duty for N = 1, half the period
for an even N, (N + 1) / 2 ticks for any other odd N. -/
def highSteps (n : Nat) : Nat := if n = 1 then 32 else 64 * ((n + 1) / 2)

/-- Steps of one sixty-fourth of a tick since the last rising edge of a divider by n. -/
def ClkOut.phase (o : ClkOut) (n now : Nat) : Nat :=
  ((64 * (now : Int) - 64 * (o.start : Int) - (o.position : Int)) % (64 * n)).toNat

/-- The next divider boundary, at the present tick or later. -/
def ClkOut.boundary (o : ClkOut) (n now : Nat) : Nat :=
  let p := o.phase n now
  if p = 0 then now else now + (64 * n - p + 63) / 64

/-- The last whole second of the time base that the present start has seen, from which a PPS output is high for 20,000 ticks. -/
def Clk.lastSecond (c : Clk) : Option Nat := if c.aonLoaded then some c.aonAt else none

/-- The tick at which the high phase ends that an output of this configuration is in, q sixty-fourths into the present tick; none
outside one. -/
def ClkOut.highEnd (o : ClkOut) (cfg : Word) (c : Clk) (q : Nat := 0) : Option Nat :=
  let h := highSteps (outDiv cfg)
  let p := (o.phase (outDiv cfg) c.now + q) % (64 * outDiv cfg)
  if !o.running || decide (c.now < o.begins) then none
  else if bit cfg 27 then c.lastSecond.filter (fun a => decide (o.begins ≤ a) && decide (c.now < a + 20000)) |>.map (· + 20000)
  else if p < h then some (c.now + (h - p + q + 63) / 64) else none

/-- The output ends at the end of its current high phase, and is then held low (R304, R315). -/
def ClkOut.stop (o : ClkOut) (cfg : Word) (c : Clk) : ClkOut :=
  { o with running := false, ends := (o.highEnd cfg c).getD o.ends }

/-- The output starts with a full high phase at its next divider boundary, a PPS output with the next whole second (R304, R315). -/
def ClkOut.go (o : ClkOut) (cfg : Word) (c : Clk) : ClkOut :=
  { o with running := true, begins := if bit cfg 27 then c.now else o.boundary (outDiv cfg) c.now, mark := c.now }

/-- A new N or format takes effect at the next rising edge, with position 0 and no pending steps (R315); a PPS output leaves its old
one at the end of its pulse. -/
def ClkOut.renew (o : ClkOut) (cfg : Word) (c : Clk) : ClkOut :=
  let e := if bit cfg 27 then (o.highEnd cfg c).getD c.now else o.boundary (outDiv cfg) c.now
  { o with start := e, begins := e, ends := (o.stop cfg c).ends, position := 0, pending := 0, mark := c.now
           diff := if c.now < o.begins then o.diff else decide (fld cfg 30 28 < 2) }

/-- The level of CKOn (its P pin, where the format is differential) q sixty-fourths into the present tick: its phase, or 20,000 ticks
from each whole second of the time base for a PPS output; it is low where it does not run (R314, R315). -/
def State.ckoHigh (s : State) (n : Nat) (q : Nat := 0) : Bool :=
  let o := s.outNow n
  decide (s.clk.now < o.ends) || (o.highEnd (s.outCfg n) s.clk q).isSome

/-- The levels of CKOnP and CKOnN then: a CMOS format holds CKOnN low (R314). -/
def State.ckoPins (s : State) (n : Nat) (q : Nat := 0) : Bool × Bool :=
  let h := s.ckoHigh n q
  let o := s.outNow n
  (h, (if s.clk.now < o.begins then o.diff else decide (fld (s.outCfg n) 30 28 < 2)) && !h)

/-- All outputs are held low from the end of their high phase, keeping their positions (R34, R47, R304). -/
def State.outsStop (s : State) : State :=
  let stop := fun (n : Nat) => (s.outNow n).stop (s.outCfg n) s.clk
  { s with clk := { s.clk with outs := (List.range 4).map stop } }

/-- Outputs that are enabled run, from their next divider boundary (R304, R315). -/
def State.outsRun (s : State) : State :=
  { s with clk := { s.clk with outs := (List.range 4).map (fun n =>
      if bit (s.outCfg n) 31 then (s.outNow n).go (s.outCfg n) s.clk else s.outNow n) } }

/-- The outputs may run: from stage 5 on, outside Standby and Coppice mode (R315). -/
def State.outsLive (s : State) : Bool := s.pm.state.logs || (s.pm.state == .starting && s.pm.stage == 5)

/-- All four dividers start together (R315). -/
def State.outsStart (s : State) : State :=
  State.outsRun { s with clk := { s.clk with outs := s.clk.outs.map (fun (o : ClkOut) => { o with start := s.clk.now }) } }

/-! ## Whole seconds (R308) -/

/-- What happens in the tick in which the time stamp reaches a whole second: the always-on counts are loaded, time_floor is
written, and suppressed security shards of the second that ends are reported (R192). -/
def State.secondReached (s : State) : State :=
  let sec := s.clk.stamp / secondTicks
  let s := { s with clk := { s.clk with
      aonSeconds := min 0xFFFFFFFF sec, aonPeriods := 0, aonAt := s.clk.now, aonLoaded := true } }
  let s := { s with log := { s.log with timeFloor := if s.log.responds then s.clk.stamp else s.log.timeFloor } }
  if s.log.secOver = 0 then s
  else
    let t := s.logEvent 0x05 1 s.log.secOver 0
    { t with log := { t.log with secOver := 0, secCount := 0 } }

/-- LG_SNAP_CFG.period in ticks. -/
def State.snapTicks (s : State) : Nat := fld (s.cfgAt 0x80000) 15 0 * 20000

/-- The time base is stepped to a value; the whole seconds and the snapshot instants passed over act once (R307). -/
def State.stepTo (s : State) (v : Nat) : State :=
  let old := s.clk.stamp
  let t := { s with clk := { s.clk with stamp := v, slewLeft := 0 } }
  let t := if old / secondTicks < v / secondTicks then t.secondReached else t
  if s.snapTicks ≠ 0 ∧ old / s.snapTicks < v / s.snapTicks then t.capture 0x01 0 [] else t

/-! ## Reference events (R310, R311) -/

/-- CK_TIME_CFG.src as it acts: a root follows no ring TIME frames (R310). -/
def State.timeSrc (s : State) : Nat :=
  let v := fld (s.cfgAt 0xC0008) 31 30
  if s.inp.root then (if v = 2 then 0 else if v = 3 then 1 else v) else v

/-- The mean of a list of errors (R311). -/
def meanRate (l : List Int) : Int := if l.isEmpty then 0 else quot l.sum l.length

/-- The clocks after an event within 1 ms with error e: its frequency error joins the last 16 (log entry 25). -/
def Clk.learn (c : Clk) (e : Int) : Clk :=
  match c.lastEvent with
  | some t =>
    if t < c.now then
      let f := c.appliedRate + quot ((e - c.slewLeft) * 100000000) (c.now - t)
      let errs := (f :: c.errs).take 16
      { c with errs := errs, rate := clampInt (-8388608) 8388607 (meanRate errs) }
    else c
  | none => c

/-- A valid reference event with error e from source 1 (TSYNC) or 2 (ring TIME), by Table 12.3. -/
def State.refEvent (s : State) (src : BitVec 2) (e : Int) : State :=
  let c := { s.clk with offset := clampInt (-2147483647) 2147483647 e, following := src }
  let done := fun (d : Clk) => { s with clk := { d with lastEvent := some s.clk.now } }
  if !c.epochValid && src == 2 && decide (0 < e) then
    (done { c with mode := .tracking, epochValid := true, stepCount := inc 255 c.stepCount }).stepTo
      (c.stamp + e.toNat) |>.irqCk 6
  else if e.natAbs ≤ 4 then done { c.learn e with mode := .tracking, slewLeft := 0 }
  else if e.natAbs ≤ 200000 then done { c.learn e with mode := .slewing, slewLeft := e }
  else if 0 < e then
    (done { c with mode := .stepPending, slewLeft := 0, jumpCount := inc 255 c.jumpCount }).irqCk 4
  else if bit (s.cfgAt 0xC0008) 29 then done { c with mode := .slewing, slewLeft := e }
  else (done { c with mode := .ahead, slewLeft := 0, jumpCount := inc 255 c.jumpCount }).irqCk 4

/-- An event that is not used (R310). -/
def State.ignoreEvent (s : State) : State := { s with clk := { s.clk with ignored := inc 255 s.clk.ignored } }

/-! ## The core clock (R304) -/

/-- An open enable-event window of a comparator closes at once. -/
def State.closeEn (s : State) (src : Nat) : State :=
  if (s.cmp src).enClose.isSome then (s.setCmp src { s.cmp src with enClose := none }).reeval src else s

/-- Comparators with an open enable-event window. -/
def State.enOpenSrcs (s : State) : List Nat :=
  (s.sense.cmps.filter (fun e => e.2.enClose.isSome)).map Prod.fst

/-- The frequency-limit detector has removed k short core periods: counted, and CK_IRQ.freq_gate sets (R306). -/
def State.gated (s : State) (k : Nat) : State :=
  if k = 0 then s else { s with clk := { s.clk with gateCount := incBy 255 s.clk.gateCount k } }.irqCk 3

/-- Pulse crossings have overflowed: their bits of CK_XING_OVF and CK_IRQ.overflow set; it is no fault (R319). -/
def State.overflowed (s : State) (m : BitVec 16) : State :=
  if m = 0 then s
  else (State.noteSet { s with clk := { s.clk with xingOvf := s.clk.xingOvf ||| m } } 0xC0024 (m.zeroExtend 32)).irqCk 9

/-- The core leaves the locked PLL for the logic-die RC, and a re-lock begins (R82, R304). -/
def State.startRelock (s : State) : State :=
  let srcs := s.enOpenSrcs
  let t := s.outsStop
  let t := { t with clk := { t.clk with
      corePll := false, pllLocked := false, rcPhase := 0, relock := some s.clk.now, retryDue := none } }
  (srcs.foldl State.closeEn t).senseChange s srcs

/-- The logic die is powered and has a clock, its RC oscillator at least (R38): outside Off, stage 1, Standby and Coppice mode. -/
def State.clocked (s : State) : Bool := s.pm.state.logs || (s.pm.state == .starting && s.pm.logicPowered)

/-- The PLL has locked since the die was powered, so that R304 and R305 govern its re-locks; before, and after fail code 0x08, R33
does. -/
def State.relocks (s : State) : Bool :=
  s.clocked && (s.clk.pllLocked || s.clk.relock.isSome || s.clk.retryDue.isSome)

end Sys2Proof.Machine
end

