-- ==== Sys2Proof/Machine/StartOps.lean ====
section
/-! DEFINITION. Sys2Proof/Machine/StartOps.lean: entry to stage 1, the start-up stages, entry to Ready, Standby, Coppice mode and
input collapse (01, 02). -/

set_option Elab.async false

namespace Sys2Proof.Machine

/-! ## Twin outputs (R267, R271) -/

/-- GL_CFG.twin_en. -/
def State.twinEn (s : State) : Bool := bit (s.cfgAt 0xA0000) 31

/-- TWOK follows its conditions (R267). -/
def State.updateTwok (s : State) : State :=
  { s with out := { s.out with twok := s.twinEn && !s.out.passive && s.pm.state.logs } }

/-- A passive device founds: every EN line low, ENPU on, solo (R271). -/
def State.found (s : State) : State :=
  State.updateTwok { s with
    out := { s.out with passive := false, enpu := true, en := 0 }
    twin := { s.twin with state := .solo, seekDue := none, seekFrom := none, hand := .none } }

/-- A founding condition is met: the device founds if every EN line reads low, else it is blocked (Table 10.12). -/
def State.foundOrBlock (s : State) : State :=
  if s.inp.enHigh = 0 then s.found.tryPending
  else State.irqGl { s with twin := { s.twin with state := .blocked } } 9

/-- Twin supervision at entry to Ready, or where twin_en is written later (R267, R271); an admitted TWSIDE 1 device that starts to
supervise alone seeks its twin (R274). -/
def State.twinAtReady (s : State) : State :=
  if s.out.passive then
    if s.twinEn then
      { s with twin := { s.twin with
          state := .passive, seekDue := some (s.clk.now + 10 * msTicks), seekFrom := some s.clk.now } }
    else s.foundOrBlock
  else
    let seek := s.twinEn && s.inp.twside && s.ring.state == .admitted
    State.updateTwok { s with twin := { s.twin with
      state := if s.twinEn then .solo else .off, seekDue := if seek then some s.clk.now else s.twin.seekDue } }

/-! ## Entry to stage 1 (R40, R46) -/

/-- What every register and unit holds once stage 1 is entered: reset values, but for what is kept in the always-on domain, in
non-volatile storage or in the log (R11, R46, R350). -/
def State.afterReset (s : State) : State where
  ident := s.ident
  clk := {
    now := s.clk.now
    epochValid := s.clk.epochValid
    aonSeconds := s.clk.aonSeconds
    aonPeriods := s.clk.aonPeriods
    aonAt := s.clk.aonAt
    aonLoaded := s.clk.aonLoaded }
  pm := {
    state := .starting
    lastCause := s.pm.lastCause
    faultLatch := s.pm.faultLatch
    stage := 1
    resetCause := s.pm.resetCause
    vinAlive := s.pm.vinAlive
    vinGood := s.pm.vinGood
    vinGoodAt := s.pm.vinGoodAt
    vinLow := s.pm.vinLow
    stage1Done := false
    stageEntry := s.clk.now
    logicPowered := false
    twjoin := s.ident.variantT && s.inp.twjoin
    collapseCount := s.pm.collapseCount
    tornCount := s.pm.tornCount
    holdReadyAt := s.pm.holdReadyAt
    lastResult := s.pm.lastResult
    stateAt := s.pm.stateAt
    note := s.pm.note
    committing := s.pm.committing
    offAfterCommit := s.pm.offAfterCommit }
  out := { passive := s.ident.variantT && s.inp.twjoin, en := 0, enpu := false, pfw := true, tripo := true, hrst := true }
  inp := { s.inp with twside := s.ident.variantT && s.inp.twside }
  ctl := { mrSince := s.ctl.mrSince, hrstDue := s.ctl.hrstDue, pbMode := .lockout, pbAt := s.clk.now,
           pbSinceStage1 := s.inp.pb }
  kiln := { store := s.kiln.store, sgStore := s.kiln.sgStore }
  fault := { tables := s.fault.tables, first := s.fault.first, bisque := s.fault.bisque, bisqueOther := s.fault.bisqueOther
             bisqueMark := s.fault.bisqueMark }
  mg := { cal := s.mg.cal, calDigest := s.mg.calDigest, calEpoch := s.mg.calEpoch, overwritten := s.mg.overwritten }
  log := { s.log with buffer := [], secCount := 0, secOver := 0, torn := [], tornFa := none, archiving := false, copierRun := 0 }
  cfg := s.cfg
  cfgLoaded := false
  sgLoaded := false
  port := {
    secUnsigned := s.port.secUnsigned
    secBadSig := s.port.secBadSig
    secStale := s.port.secStale
    secQuorum := s.port.secQuorum
    discardCause := s.port.discardCause
    discardConsumed := s.port.discardConsumed
    discardCount := s.port.discardCount }
  sec := { s.sec with windowDue := none }
  ring := { record := s.ring.record, map := s.ring.map, absent := s.ring.absent, enumKept := s.ring.enumKept }
  pwm := { pads := s.pm.committing && s.pwm.pads }
  jtag := s.jtag
  free := s.free
  pending := s.pending

/-- The shard being written is completed; a commit sequence writes its own, and in Coppice mode no log controller runs (R46,
R53, R183). -/
def State.finishShard (s : State) : State :=
  match s.log.buffer with
  | x :: rest =>
    if s.pm.committing ∨ s.pm.state = .coppice then s
    else State.writeFr { s with log := { s.log with buffer := rest } } x
  | [] => s

/-- Command work is discarded and windows end, but in Coppice mode, where the logic die is lost already (R46). -/
def State.dropWork (s : State) : State :=
  if s.pm.state = .coppice then s else (s.discardSilent 2).endWindows

/-- A device reset enters stage 1 with a PM cause and its bits of PM_RESET_CAUSE (R44, R46): the shard being written is
completed, command work is discarded, windows end. A commit sequence in progress goes on (R53). -/
def State.deviceReset (s : State) (cause : Nat) (bits : BitVec 5) : State :=
  let u := s.finishShard.dropWork
  let u := { u with pm := { u.pm with lastCause := BitVec.ofNat 8 cause, resetCause := u.pm.resetCause ||| bits } }
  let t := u.afterReset
  if u.pm.committing then { t with log := s.log } else t

/-! ## Start-up stages (R33 to R38) -/

/-- Start-up fails with a code: the device stays in Starting with cause 0x04 (R38). `kat` tells whether the crypto known-answer tests
pass, which run then if stage 4 has not run them (R243). -/
def State.startFail (s : State) (code : Nat) (kat : Bool) : State :=
  { s with pm := { s.pm with
      lastCause := 0x04, failCode := code, stage1Done := true
      portUp := decide (code ≠ 1)
      katFailed := !kat } }

/-- Stage 2 begins: the start-up origin (R31). -/
def State.beginStage2 (s : State) : State :=
  { s with pm := { s.pm with stage := 2, stageEntry := s.clk.now, origin := s.clk.now, logicPowered := true } }

/-- Stage 1 ends once its work is done, VIN is good and no commit sequence runs (R31, R55). -/
def State.leaveStage1 (s : State) : State :=
  if s.pm.state = .starting ∧ s.pm.stage = 1 ∧ s.pm.stage1Done ∧ s.pm.vinGood ∧ s.pm.committing = false then s.beginStage2
  else s

/-- The PLL at the end of stage 2: locked to REFCLK or to the logic-die RC (R33, R300). -/
def State.pllStart (s : State) (ref : Bool) : State :=
  { s with clk := { s.clk with
      pllLocked := true, corePll := true, pllRefRc := !ref, refOk := ref
      refSel := BitVec.ofNat 2 (fld (s.rawAt 0xC0000) 31 30) } }

/-- The time after the newest shard committed in region r: its time stamp + 1 (R309). -/
def State.afterShard (s : State) (r : Nat) : Nat :=
  let g := s.region r
  match Tab.get? g.slots ((if g.pos = 0 then regionSize r else g.pos) - 1) with
  | some (.good y) => y.shard.stamp + 1
  | _ => 0

/-- The time base is set in stage 3 (R309). -/
def State.setTimeBase (s : State) : State :=
  let aon := if s.clk.aonLoaded then s.clk.aonStamp else 0
  let floor := s.log.timeFloor + secondTicks
  let shard := max (s.afterShard 1) (s.afterShard 2)
  let v := max aon (max floor shard)
  let t := { s with clk := { s.clk with
      stamp := v, tbSet := true
      epochValid := if aon < floor ∧ shard < floor then false else s.clk.epochValid } }
  if v % secondTicks = 0 then t.secondReached else t

/-- The bytes of a position fail the marker or the CRC check (R56, Table 07.6). -/
def rawTorn (b : List Byte) : Bool :=
  leAt b 508 4 != 0xFFFFFFFF - leAt b 8 4 || leAt b 504 4 != crc32c (b.take 504)

/-- The torn position of a region, at its write position or the next one (R56). -/
def State.tornAt (s : State) (r : Nat) : Option Nat :=
  let g := s.region r
  [g.pos, (g.pos + 1) % regionSize r].find? (fun p =>
    match Tab.get? g.slots p with
    | some (.raw b) => rawTorn b
    | _ => false)

/-- An intact shard of the region's next seq at its write position is adopted (R56). -/
def State.adopt (s : State) (r : Nat) : State :=
  let g := s.region r
  match Tab.get? g.slots g.pos with
  | some (.good y) =>
    if y.seq = g.next then
      s.setRegion r { g with next := g.next + 1, pos := (g.pos + 1) % regionSize r, chain := some y.chain }
    else s
  | _ => s

/-- The torn-shard examination and the collapse record at a start at which the log die responds (R56, R57, R62). -/
def State.examineLog (s : State) : State :=
  let s := (s.adopt 1).adopt 2
  let torn := ([1, 2].filterMap (fun r => (s.tornAt r).map (fun p => (r, p))))
  let s := match s.pm.note with
    | some n =>
      { s with pm := { s.pm with
          collapseCount := inc 65535 s.pm.collapseCount, holdReadyAt := n.holdReady, lastResult := n.outcome,
          stateAt := n.state, note := none } }
    | none => s
  let s := { s with
    pm := { s.pm with tornCount := torn.length, lastResult := if torn.isEmpty then s.pm.lastResult else 2 }
    log := { s.log with torn := torn } }
  if torn.isEmpty then s else s.irqLg 4

/-- The first-fault record takes the first grade T or H fault or force-off held so far, once it is readable (R369). -/
def State.firstFromHeld (s : State) : State :=
  match s.pm.heldFirst with
  | some h => s.recordFirst h.1 h.2
  | none => s

/-- The configuration is in force (R11): registers hold it, the program store is loaded (R33, KL_STORE_STATUS). -/
def State.configLoaded (s : State) : State :=
  let t := { s with cfgLoaded := true, kiln := { s.kiln with loaded := true } }
  t.firstFromHeld

/-- Comparators whose mode in force differs from that before `old`: a settle hold begins for each (R72). -/
def State.modeChanges (s old : State) : State :=
  (List.range 256).foldl (fun t src => if t.cmpMode src ≠ old.cmpMode src then t.startSettle src else t) s

/-- Stage 5 begins: modes and routing apply, pads drive their trip levels, clock outputs run, the first scan starts
(Table 02.3). -/
def State.beginStage5 (s : State) : State :=
  let t := { s with
    pm := { s.pm with stage := 5, stageEntry := s.clk.now }
    pwm := { s.pwm with pads := true } }
  let t := (t.modeChanges s).refreshFlt s
  (t.outsStart.startPass).assignAll

/-- Comparators of a list are marked failed by the swap test (Table 02.4). -/
def State.failCmps (s : State) (srcs : List Nat) : State :=
  let t := (srcs.filter (· < 256)).foldl (fun u src => u.setCmp src { u.cmp src with status := .failed, out := true }) s
  t.senseChange s (srcs.filter (· < 256))

/-- Every fault held since Starting or Standby is captured, with disposition 0x6 (R48, R369). -/
def State.logHeld (s : State) : State :=
  let t := s.pm.held.foldl (fun u h => if h.what.cause = 0x28 then u else u.faultShard h.what 6 h.table.toNat 0) s
  { t.firstFromHeld with pm := { t.firstFromHeld.pm with held := [], heldFirst := none } }

/-- Each comparator still unresolved raises its grade W fault (R43). -/
def State.raiseUnresolved (s : State) : State :=
  (List.range 256).foldl (fun t src => if (s.cmp src).status = .unresolved then t.receive (wFault 9 src) else t) s

/-- T_OFFMIN runs from now (R20). -/
def State.startOffMin (s : State) : State :=
  let ms := fld (s.cfgAt 0x6000C) 15 0
  { s with pm := { s.pm with offMinDue := if ms = 0 then none else some (s.clk.now + ms * msTicks) } }

/-- On requests at entry to Ready from Starting: a high ONREQ, else the auto-on policy (R147). -/
def State.startRequests (s : State) : State :=
  if s.onreqEn && s.inp.onreq then s.onRequest 0x10
  else if s.autoOn then s.onRequest 0x13
  else s

/-- Elapsed time since the start-up origin in units of 0.1 ms (R60). -/
def State.readyTime (s : State) : Nat := min 255 ((s.clk.now - s.pm.origin) / 20000)

/-- Interval between self-test slots: 32 × test_period periods of the 32.768 kHz clock (R83). -/
def State.slotPeriods (s : State) : Nat :=
  let p := fld (s.cfgAt 0x27008) 7 0
  32 * (if p = 0 then 4 else p)

/-- The number of the next edge of the 32.768 kHz clock, edge k being at tick aonTicks k. -/
def Clk.nextEdge (c : Clk) : Nat := (c.now - 1) * 64 / 390625 + 1

/-- Self-test rounds begin with source 0 (R83), the first slot one interval after the edge that follows the entry to Ready (log
entry 50); rounds that have run on through Standby go on. -/
def State.startSelfTest (s : State) : State :=
  { s with sense := { s.sense with test := { s.sense.test with
      slotDue := some (s.sense.test.slotDue.getD (s.clk.nextEdge + s.slotPeriods)) } } }

/-- Entry to Ready from Starting (R34, R131, Table 02.3): outputs, self-test, twin supervision, the ownership window, held
faults, unresolved comparators, TRIPI levels, T_OFFMIN and the requests found. -/
def State.enterReady (s : State) : State :=
  let s := { s with pm := { s.pm with
    readyTime := s.readyTime, stage := 6, portUp := true, wakePath := false, stage1Done := true } }
  let s := (s.goTo .ready 0x01).captureTorn
  let s := { s with log := { s.log with scrubFrom := s.clk.now } }
  let s := { s with out := { s.out with enpu := !s.out.passive }, pwm := { s.pwm with pads := true } }
  let s := (List.range 64).foldl State.trimNominal s
  let s := (if s.pm.faultLatch then s else s.releaseTrips).updateHrst
  let s := { s with
    sec := { s.sec with windowDue := if s.ctl.pbSinceStage1 && s.inp.pb then some (s.clk.now + 60 * secondTicks) else none }
    tw := s.tw.mapIdx (fun i (p : TwPort) =>
      if bit (s.cfgAt (0xB0000 + 0x40 * i)) 31 then { p with activity := 3, busy := true } else p) }
  let s := s.startSelfTest.twinAtReady
  let s := s.logHeld.raiseUnresolved.startOffMin
  let s : State := (bitsOf s.inp.tripi).foldl (fun t i => t.receiveCause 1 i) s
  s.startRequests

/-! ## Input collapse (R52 to R55) -/

/-- The open shard of a collapse: a snapshot with the collapse flag (R52). -/
def State.openShard (s : State) : Shard := s.shardNow 0x01 0 0x40 []

/-- The collapse shard (Table 07.3). -/
def State.collapseShard (s : State) (code : Nat) : Shard :=
  { s.shardNow 0x09 0x40 0x40
      ([BitVec.ofNat 8 code, (if s.pm.holdReady then 1 else 0)] ++ leBytes 2 s.pm.vhold ++ leBytes 2 s.pm.vin)
    with dstate := 2 }

/-- Every output that a collapse stops (Table 02.7, R16): EN released, PFW and TRIPO asserted, PWM at trip levels. -/
def State.collapseOutputs (s : State) : State :=
  { s with
    out := { s.out with en := 0, pfw := true, tripo := true, enpu := false, twok := false }
    pwm := { s.pwm with chs := s.pwm.chs.map (fun h => { h with running := false, out := false, dead := none }) } }

/-! ## Standby and Coppice mode -/

/-- Ramps end, every window closes, the self-test is abandoned and the converters stop at entry to Standby or Coppice mode (R76, R87,
R97). -/
def State.senseQuiet (s : State) : State :=
  let quiet := fun (c : Cmp) => { c with
    ramp := none, syncOpen := none, syncClose := none, enOpen := none, enClose := none }
  { s with sense := { s.sense with
      cmps := (s.sense.cmps.map (fun e => (e.1, quiet e.2))).filter (fun e => e.2 != {})
      scan := { s.sense.scan with running := false }
      convs := [none, none, none, none]
      groups := s.sense.groups.map (fun g => { g with active := false })
      demands := []
      test := { s.sense.test with
        src := none
        held := []
        wrong := false
        abandoned := if s.sense.test.src.isSome then inc 255 s.sense.test.abandoned else s.sense.test.abandoned } } }

/-- The comparators of `old` with a ramp, and those with a window or a test. -/
def State.ramping (s : State) : List Nat := (s.sense.cmps.filter (fun e => e.2.ramp.isSome)).map Prod.fst
def State.heldOuts (s : State) : List Nat := (s.sense.cmps.filter (fun e => e.2.blanked)).map Prod.fst ++ s.sense.test.src.toList

/-- The sense functions at entry to Standby or Coppice mode: a settle hold begins where the mode changes or a ramp ends (R72), and
an output that was held before and is no longer takes its present decision (R70, R77). -/
def State.quietDown (s old : State) : State :=
  let t := old.ramping.foldl State.startSettle (s.senseQuiet.modeChanges old)
  let t := old.sense.test.src.toList.foldl (fun u src => u.testWrites old src) t
  (old.heldOuts.foldl State.reeval t).senseChange old old.heldOuts

/-- The logic die is lost: Coppice mode (R23, R155): PFW and TRIPO, latch, bisque record, and the reduced walk of C6. -/
def State.enterCoppice (s : State) : State :=
  let f : FaultRec := ⟨0x30, 0, 0, 0⟩
  let s := s.setLatch.recordBisque f s.clk.aonStamp
  let s := (s.discardSilent 2).endWindows
  let old := s
  let s := { s with
    pm := { s.pm with state := .coppice, lastCause := 0x43, offMinDue := none, resetDue := none, held := [], heldFirst := none,
                      portUp := false }
    out := { s.out with pfw := true, tripo := true }
    pwm := { s.pwm with pads := false, chs := s.pwm.chs.map (fun (h : PwmCh) => { h with running := false, out := false, dead := none }) }
    clk := { s.clk with outs := s.clk.outs.map (fun (o : ClkOut) => { o with running := false }), corePll := false, pllLocked := false,
                        relock := none, retryDue := none, refBack := false, rcPhase := 0 }
    mg := { s.mg with
      sweep := { s.mg.sweep with active := false, rail := none, cycleDue := none }
      trims := s.mg.trims.map (fun (e : Nat × Trim) => (e.1, { e.2 with level := if e.2.level = 6 then 6 else 7 })) }
    kiln := { s.kiln with engines := s.kiln.engines.map Engine.abort }
    sense := { s.sense with test := { s.sense.test with slotDue := none } }
    fault := { s.fault with persist := [] }
    tw := [{}, {}, {}, {}]
    twEnded := []
    walk := { (({} : Walk).take 6 (s.tableEntries 6) f) with reduced := true } }
  (s.quietDown old).walkBegin.updateHrst

end Sys2Proof.Machine
end

