-- ==== Sys2Proof/Machine/PwmOps.lean ====
section
/-! DEFINITION. Sys2Proof/Machine/PwmOps.lean: the auxiliary PWM channels: shadows and transfers, starts and stops, outputs with dead
time, loads and clears (R326 to R337). -/

set_option Elab.async false

namespace Sys2Proof.Machine

/-- A channel changed. -/
def State.setCh (s : State) (c : Nat) (f : PwmCh → PwmCh) : State :=
  { s with pwm := { s.pwm with chs := modNth s.pwm.chs c f } }

/-- PW_CHc_SHADOW: the configured word, its compare replaced by one that a PWM step has written since (R121). -/
def State.shadow (s : State) (c : Nat) : Word :=
  let w := s.cfgAt (0xD0104 + 0x20 * c)
  match (s.ch c).stepC with
  | some v => (w &&& 0xFFFF0000) ||| at_ v 0
  | none => w

/-- PW_CHc_TRIG. -/
def State.shadowTrig (s : State) (c : Nat) : Word := s.cfgAt (0xD010C + 0x20 * c)

/-- The shadows of channel c are about to be written: what they hold at the start of the tick is kept (R330). -/
def State.keepShadow (s : State) (c : Nat) : State :=
  if (s.ch c).was.any (fun w => w.1 == s.clk.now) then s
  else s.setCh c (fun h => { h with was := some (s.clk.now, s.shadow c, s.shadowTrig c) })

/-- The shadows of channel c as the present tick found them: period and compare, and trigger compares (R330). -/
def State.shadowAt (s : State) (c : Nat) : Word × Word :=
  match (s.ch c).was with
  | some w => if w.1 = s.clk.now then w.2 else (s.shadow c, s.shadowTrig c)
  | none => (s.shadow c, s.shadowTrig c)

/-- A channel with its shadow values copied to the active registers; a running counter keeps its value (R330). -/
def PwmCh.take (h : PwmCh) (now : Nat) (sh tr : Word) : PwmCh :=
  { h with
    base := h.counter now, start := now, p := fld sh 31 16, c := fld sh 15 0, t0 := fld tr 15 0, t1 := fld tr 31 16
    due := false }

/-- Channel c copies its shadows, as the transfer tick found them. -/
def State.transfer (s : State) (c : Nat) : State :=
  s.setCh c (fun h => h.take s.clk.now (s.shadowAt c).1 (s.shadowAt c).2)

/-- LOAD_ALL clears in the tick of the last transfer (R330). -/
def State.loadDone (s : State) : State :=
  if s.pwm.loadAll && s.pwm.chs.all (fun h => !h.due) then State.irqPw { s with pwm := { s.pwm with loadAll := false } } 2 else s

/-- Stopped channels transfer in the tick after LOAD_ALL was set (R330): the block as it stands at the present tick. -/
def State.pwSettle (s : State) : State :=
  if s.pwm.loadAll && decide (s.pwm.loadTick < s.clk.now) then
    ((List.range 16).foldl (fun t c => if (t.ch c).due && !t.pwRuns c then t.transfer c else t) s).loadDone
  else s

/-- LOAD_ALL is set; while it is set already, nothing happens (R330, Table 13.2). -/
def State.setLoadAll (s : State) : State :=
  if s.pwm.loadAll then s
  else { s with pwm := { s.pwm with
    loadAll := true, loadTick := s.clk.now, chs := s.pwm.chs.map (fun h => { h with due := true }) } }

/-! ## Outputs -/

/-- A channel's output rises once its source has been high for dt ticks (R328); nothing while the trip level holds. -/
def PwmCh.rise (h : PwmCh) (dt now : Nat) : PwmCh :=
  if h.latch || h.await || h.out || h.dead.isSome then h
  else if dt = 0 then { h with out := true } else { h with dead := some (now + dt) }

/-- A channel's output falls with its source. -/
def PwmCh.fall (h : PwmCh) : PwmCh := { h with out := false, dead := none }

/-- A channel follows a source level. -/
def PwmCh.follow (h : PwmCh) (level : Bool) (dt now : Nat) : PwmCh := if level then h.rise dt now else h.fall

/-- The outputs that channel c's counter drives follow its raw signal in the present tick (R327, R328). -/
def State.drive (s : State) (c : Nat) : State :=
  let r := (s.ch c).raw s.clk.now
  if s.pairComp c then
    let dt := s.deadTime c
    (s.setCh c (fun h => h.follow r dt s.clk.now)).setCh (c + 1) (fun h => h.follow (!r) dt s.clk.now)
  else s.setCh c (fun h => h.follow r 0 s.clk.now)

/-- Channels whose pins the counter of channel c drives. -/
def State.driven (s : State) (c : Nat) : List Nat := if s.pairComp c then [c, c + 1] else [c]

/-- Channel c uses its own counter: it is no odd channel of a complementary pair (R328). -/
def State.ownCounter (s : State) (c : Nat) : Bool := s.pwBase c == c

/-- PWMSO after a period start of its channel: high for w ticks from the next tick on; a pulse that lasts until then goes on (R332). -/
def State.pulseSo (s : State) (w : Nat) : State :=
  { s with pwm := { s.pwm with
    so := some (s.clk.now + 1 + w)
    soFrom := if s.pwm.so.any (fun e => decide (s.clk.now < e)) then s.pwm.soFrom else s.clk.now + 1 } }

/-- What a period start of channel c brings (R330, R332, R336): transfers due, cleared trips end, outputs, PWMSO. -/
def State.periodStart (s : State) (c : Nat) : State :=
  let s := (s.driven c).foldl (fun t x =>
    if (t.ch x).due && t.pwm.loadAll && decide (t.pwm.loadTick < t.clk.now) then t.transfer x else t) s
  let s := (s.driven c).foldl (fun t x => t.setCh x (fun h => { h with await := false })) s
  let s := s.loadDone.drive c
  let w := fld (s.cfgAt 0xD0000) 15 8
  if s.pwBase (fld (s.cfgAt 0xD0000) 3 0) = c ∧ w ≠ 0 then s.pulseSo w else s

/-- The counter of channel c is at 0 in the present tick. -/
def State.zeroCounter (s : State) (c : Nat) : State := s.setCh c (fun h => { h with base := 0, start := s.clk.now })

/-- Channel c starts: shadows copied, counter at 0 (R329); it counts as transferred (Table 13.2). -/
def State.startCh (s : State) (c : Nat) : State :=
  if s.pwRuns c || !s.ownCounter c then s
  else
    let s := (s.driven c).foldl State.transfer s
    let s := s.setCh c (fun h => { h with running := true })
    ((s.zeroCounter c).loadDone).periodStart c

/-- Channel c stops: its counter holds, its outputs go to their trip levels (R329). -/
def State.stopCh (s : State) (c : Nat) : State :=
  if !s.pwRuns c || !s.ownCounter c then s
  else
    let s := (s.driven c).foldl (fun t x => t.setCh x PwmCh.fall) s
    s.setCh c (fun h => { h with running := false, base := h.counter s.clk.now, start := s.clk.now })

/-- PW_RUN takes a value: channels whose bit changes start or stop (R329). -/
def State.writeRun (s : State) (v : BitVec 16) : State :=
  (List.range 16).foldl (fun t c => if bit v c then t.startCh c else t.stopCh c) s

/-- What the block is before the wraps of the present tick is kept, for a PWMSI load of the same tick (Table 13.2). -/
def State.keepWrap (s : State) : State :=
  if s.pwm.wrap.any (fun w => w.time == s.clk.now) then s
  else { s with pwm := { s.pwm with wrap := some {
    time := s.clk.now, chs := s.pwm.chs, loadAll := s.pwm.loadAll, so := s.pwm.so, soFrom := s.pwm.soFrom
    done := bit s.irq.pw 2 } } }

/-- A channel as it was before a wrap; a trip that has come since stays. -/
def PwmCh.unwrap (h o : PwmCh) : PwmCh :=
  { h with
    base := o.base, start := o.start, p := o.p, c := o.c, t0 := o.t0, t1 := o.t1, due := o.due, await := o.await
    out := o.out && !h.latch, dead := if h.latch then none else o.dead }

/-- Channel c has wrapped in the present tick, and a PWMSI load makes the wrap no period start: what the period start brought is undone
(Table 13.2). -/
def State.unwrap (s : State) (c : Nat) : State :=
  match s.pwm.wrap with
  | some w =>
    if w.time = s.clk.now ∧ (s.ch c).start = s.clk.now ∧ (nth w.chs c {}).running = true then
      let t := (s.driven c).foldl (fun (t : State) x => t.setCh x (fun h => h.unwrap (nth w.chs x {}))) s
      let t := if w.loadAll && t.pwm.chs.any (fun h => h.due) then
          { t with pwm := { t.pwm with loadAll := true }, irq := { t.irq with pw := putBit t.irq.pw 2 w.done } } else t
      if s.pwBase (fld (s.cfgAt 0xD0000) 3 0) = c then { t with pwm := { t.pwm with so := w.so, soFrom := w.soFrom } } else t
    else s
  | none => s

/-- PWMSI loads the counter of channel c (R333); the load wins over a wrap of the same tick (Table 13.2). -/
def State.loadCh (s : State) (c : Nat) : State :=
  if s.pwRuns c && s.ownCounter c && bit (s.pwCfg c) 9 then
    let s := s.unwrap c
    let v := min (fld (s.cfgAt (0xD0114 + 0x20 * c)) 15 0) (s.ch c).p
    let t := s.setCh c (fun h => { h with base := v, start := s.clk.now })
    if v = 0 then t.periodStart c else t.drive c
  else s

/-- Ticks until channel c's counter next returns to 0; none has to pass where it stands at 0 unhandled. -/
def State.toWrap (s : State) (c : Nat) : Nat :=
  let h := s.ch c
  let n := h.counter s.clk.now
  if n = 0 ∧ h.start < s.clk.now then 0 else h.p + 1 - n

/-- Ticks until channel c's counter next equals v. -/
def State.toCount (s : State) (c v : Nat) : Nat :=
  let h := s.ch c
  let n := h.counter s.clk.now
  if n ≤ v then v - n else h.p + 1 - n + v

/-- Trip latches of a mask are cleared: refused while a source that one of their channels names is asserted (R336). -/
def State.clearRefused (s : State) (m : BitVec 16) : Bool :=
  (bitsOf m).any (fun c => s.tripNamed c &&& s.tripSources != 0)

/-- A refused clear is counted (R336). -/
def State.countClearRefused (s : State) : State :=
  State.irqPw { s with pwm := { s.pwm with clearRefused := inc 65535 s.pwm.clearRefused } } 1

/-- An accepted clear: a running channel keeps its trip level until its next period start (R336). -/
def State.clearLatches (s : State) (m : BitVec 16) : State :=
  (bitsOf m).foldl (fun t c =>
    let run := t.pwRuns c
    t.setCh c (fun h => if h.latch then { h with latch := false, await := run } else h)) s

end Sys2Proof.Machine
end

