-- ==== Sys2Proof/Machine/View.lean ====
section
/-! DEFINITION. Sys2Proof/Machine/View.lean: what every register reads as (14 and the register tables of 01 to 13). -/

set_option Elab.async false

namespace Sys2Proof.Machine

/-! ## Records as bytes -/

/-- The 16 bytes of the bisque record (Table 07.9). -/
def Bisque.bytes (b : Bisque) : List Byte :=
  let head := [b.rail, b.code, b.cause, b.grade] ++ leBytes 4 b.seconds ++ leBytes 4 b.subsecond ++ leBytes 2 b.clears.toNat
  head ++ leBytes 2 (crc16 head)

/-- Word i of a list of bytes. -/
def byteWord (l : List Byte) (i : Nat) : Word := BitVec.ofNat 32 (leAt l (4 * i) 4)

/-- Word i of a wide value, byte 4i in bits 7:0. -/
def wideWord {n : Nat} (v : BitVec n) (i : Nat) : Word := BitVec.ofNat 32 (v.toNat >>> (32 * i))

/-- The low or high word of a 64-bit number. -/
def halfWord (v j : Nat) : Word := BitVec.ofNat 32 (v >>> (32 * j))

/-- The Kiln store image (R127) and the Saggar store image (R246). -/
def storeBytes (t : Tab Step64) (n : Nat) : List Byte := (List.range n).flatMap (fun a => leBytes 8 (Tab.getD t a 0).toNat)

/-- KL_STORE_DIGEST. -/
def State.storeDigest (s : State) : Digest := sha3 (storeBytes s.kiln.store 4096)
/-- SG_STORE_DIGEST. -/
def State.sgStoreDigest (s : State) : Digest := sha3 (storeBytes s.kiln.sgStore 512)

/-- The ML-DSA-65 key of a slot as 1,952 bytes. -/
def KeySlot.mlBytes (k : KeySlot) : List Byte := (k.ml ++ zeros 1952).take 1952

/-- SG_KEYTAB_DIGEST (Table 09.17). -/
def Sec.keyDigest (x : Sec) : Digest :=
  sha3 (x.slots.flatMap (fun k =>
    if k.filled then [k.role] ++ leBytes 32 k.ed.toNat ++ k.mlBytes else zeros 1985) ++ [BitVec.ofNat 8 x.m, x.eligible])

/-- The fingerprint of a pair of public keys: SHA3-256 over both (Table 09.18, R235). -/
def KeySlot.print (k : KeySlot) : Digest := sha3 (leBytes 32 k.ed.toNat ++ k.mlBytes)

/-! ## The configuration image (R275) -/

/-- Every register of a row. -/
def RegRow.regs (r : RegRow) : List Reg :=
  (List.range r.n1).flatMap (fun i => (List.range r.n2).map (fun j => ⟨r, i, j⟩))

/-- A register put in its place in a list in ascending address order. -/
def insertReg (r : Reg) : List Reg → List Reg
  | [] => [r]
  | x :: l => if r.addr ≤ x.addr then r :: x :: l else x :: insertReg r l

/-- Every register of access RW1, RW2 or RW3 whose Reset entry is cfg, in ascending address order. -/
def cfgRegs : List Reg :=
  (((rowsPm ++ rowsCh ++ rowsKl ++ rowsCt ++ rowsMg ++ rowsLg ++ rowsCm ++ rowsGl ++ rowsTw ++ rowsCk
    ++ rowsPw).filter (fun r => r.keep == .cfg)).flatMap RegRow.regs).foldr insertReg []

/-- The writable bits of a register. -/
def RegRow.rw (r : RegRow) : Word := r.rw1 ||| r.rw2 ||| r.rw3

/-- The registers that section 0x01 covers: those with a field that is not Saggar-held (log entry 26). -/
def State.openRegs (s : State) : List Reg := cfgRegs.filter (fun r => r.row.rw &&& ~~~(heldMask s r) != 0)

/-- The CH and CT registers with a Saggar-held field. -/
def State.heldRegs (s : State) : List Reg := cfgRegs.filter (fun r => heldMask s r != 0)

/-- An (address, value) pair. -/
def pairBytes (a : Nat) (v : Word) : List Byte := leBytes 4 a ++ leBytes 4 v.toNat

/-- A section: header, content and zero bytes up to a multiple of 8. -/
def sectionBytes (kind : Nat) (c : List Byte) : List Byte :=
  leBytes 2 kind ++ zeros 2 ++ leBytes 4 c.length ++ c ++ padTo 8 c.length

/-- A cooling table of the image: number, length, hard attribute, reserved bytes, entries. -/
def tableBytes (c : Nat) (t : CoolTable) : List Byte :=
  [BitVec.ofNat 8 c, BitVec.ofNat 8 t.entries.length, (if t.hard then 1 else 0)] ++ zeros 5
    ++ t.entries.flatMap (fun x => leBytes 8 x.toNat)

/-- Section 0x01. -/
def State.section1 (s : State) : List Byte :=
  s.openRegs.flatMap (fun r => pairBytes r.addr (rawReg s r &&& r.row.rw &&& ~~~(heldMask s r)))

/-- Section 0x03: the tables of the CT table memory, which are those that are no H tables. -/
def State.section3 (s : State) : List Byte :=
  ((List.range 8).filter (fun c => !s.isHTable c)).flatMap (fun c => tableBytes c (nth s.fault.tables c {}))

/-- Section 0x04: the Saggar partition. -/
def State.section4 (s : State) : List Byte :=
  leBytes 4 (s.rawAt 0xF00010).toNat ++ leBytes 4 (s.rawAt 0xF00014).toNat ++ leBytes 4 s.heldRegs.length
    ++ s.heldRegs.flatMap (fun r => pairBytes r.addr (rawReg s r &&& heldMask s r))
    ++ leBytes 4 (s.rawAt 0xF00000).toNat ++ leBytes 4 (s.rawAt 0xF00004).toNat ++ storeBytes s.kiln.sgStore 512
    ++ ((List.range 8).filter s.isHTable).flatMap (fun c => tableBytes c { nth s.fault.tables c {} with hard := true })

/-- The 960 bytes of the calibration set (R172). -/
def calBytes (t : Tab Word) : List Byte := (List.range 240).flatMap (fun i => leBytes 4 (Tab.getD t i 0).toNat)

/-- Sections 0x01 to 0x04. -/
def State.sharedImage (s : State) : List Byte :=
  sectionBytes 1 s.section1 ++ sectionBytes 2 (storeBytes s.kiln.store 4096) ++ sectionBytes 3 s.section3
    ++ sectionBytes 4 s.section4

/-- The content of the image is the factory's (log entry 8). -/
def State.factoryContent (s : State) : Bool :=
  s.cfg.isEmpty && s.kiln.store.isEmpty && s.kiln.sgStore.isEmpty && s.mg.cal.isEmpty
    && s.fault.tables == ({} : FaultBlk).tables

/-- The image digest of the content in force (R211, R242); that of the factory's content is the one the factory left (log entry 8). -/
def State.imageNow (s : State) : Digest :=
  if s.factoryContent then Config.factoryImage
  else sha3 (s.sharedImage ++ sectionBytes 0x0E (calBytes s.mg.cal) ++ sectionBytes 0xFFFF [])

/-- The twin digest (R275). -/
def State.twinDigest (s : State) : Digest := sha3 s.sharedImage

/-! ## Status words -/

/-- The device's logic is up and its SPI port answers (R38, R203). -/
def State.portAnswers (s : State) : Bool := s.pm.state.logs || (s.pm.state == .starting && s.pm.portUp)

/-- Bytes of undecided packets of a port in its intake buffer (log entry 17). -/
def Port.intake (p : Port) (ring : Bool) : Nat :=
  ((p.cmds.filter (fun c => c.ring == ring && c.undecided)).map (fun c => c.size)).sum

/-- SPIRDY (R203). -/
def State.spirdy (s : State) : Bool := decide (s.port.intake false + 8192 ≤ 65536) && s.portAnswers

/-- CM_PORT_STATUS and CM_RING_STATUS (Table 08.19). -/
def State.portStatus (s : State) (ring : Bool) : Word :=
  let r := s.port.replies.filter (fun x => x.ring == ring)
  flag (!ring && s.spirdy) 31 ||| flag (!r.isEmpty) 30 ||| at_ (s.port.cmds.filter (fun c => c.ring == ring)).length 23
    ||| at_ (min 96 r.length) 16 ||| at_ ((65536 - s.port.intake ring) / 1024) 8
    ||| at_ ((131072 - (if ring then 0 else s.port.used)) / 1024) 0

/-- CM_TAGS_SPIi and CM_TAGS_RINGi (Table 08.26). -/
def State.tagMap (s : State) (ring : Bool) (i : Nat) : Word :=
  maskOf 32 (fun b => s.port.cmds.any (fun c => c.ring == ring && c.tag == 32 * i + b))

/-- A reading register (Table 03.24). -/
def Reading.word (r : Reading) : Word :=
  flag r.range 25 ||| flag r.valid 24 ||| at_ r.seq.toNat 16 ||| at_ r.code.toNat 0

/-- A fault record as a register (Table 05.23). -/
def FaultRec.word (f : FaultRec) (mid : Nat) : Word :=
  at_ f.cause.toNat 24 ||| at_ f.grade.toNat 22 ||| at_ mid 16 ||| at_ f.source.toNat 8 ||| at_ f.detail.toNat 0

/-- A link's counters (Table 10.22). -/
def GLink.word (g : GLink) : Word := at_ g.down 24 ||| at_ g.crcErr 16 ||| at_ g.symbolErr 8 ||| at_ g.discarded 0

/-- The number of set bits. -/
def countBits {n : Nat} (w : BitVec n) : Nat := (bitsOf w).length

/-- A field that reads 0 until the configuration load (R350). -/
def State.gate (s : State) (w : Word) : Word := if s.cfgLoaded then w else 0

/-- A field that reads 0 until stage 1 has ended (R247). -/
def State.gateSg (s : State) (w : Word) : Word := if s.sgLoaded then w else 0

/-! ## Registers by block -/

/-- ID and PM registers. -/
def readPm (s : State) (r : Reg) : Word :=
  match r.row.id with
  | .idDevice => 0x64000000 ||| at_ (if s.ident.variantT then 0x54 else 0x53) 8 ||| (if s.ident.steppingA1 then 0xA1 else 0xA0)
  | .idMap => 3
  | .idUid => wideWord s.ident.uid r.i
  | .pmState =>
    at_ s.pm.lastCause.toNat 24 ||| flag s.pm.faultLatch 16 ||| flag s.pm.onPending.isSome 15 ||| at_ s.pm.state.code 0
  | .pmSupply => at_ (min 1023 s.pm.vhold) 22 ||| at_ (min 1023 s.pm.vin) 12 ||| flag s.pm.holdReady 0
  | .pmStartup => at_ s.pm.failCode.toNat 24 ||| at_ s.pm.readyTime 16 ||| flag s.pm.twjoin 8 ||| at_ s.pm.stage 0
  | .pmResetCause => at_ s.pm.resetCause.toNat 0
  | .pmCollapse =>
    s.gate (at_ s.pm.collapseCount 16 ||| at_ s.pm.tornCount 8 ||| flag s.pm.holdReadyAt 7 ||| at_ s.pm.lastResult.toNat 4
      ||| at_ s.pm.stateAt.toNat 0)
  | .pmResolve => at_ (s.countStatus .failed) 16 ||| at_ (s.countStatus .unresolved) 0
  | _ => 0

/-- CH and FL registers. -/
def readCh (s : State) (r : Reg) : Word :=
  let n := r.i
  match r.row.id with
  | .chCfg => (s.cfgAt r.addr &&& 0x101) ||| s.gate (flag (s.isSafety n) 31)
  | .chStatus => s.chStatus n
  | .chReading => (s.reading n).word
  | .chIsReading => (s.reading (64 + n)).word
  | .chTsReading => (s.reading (96 + n)).word
  | .chCounts =>
    [0, 1, 2, 3].foldl (fun w k =>
      w ||| flag (s.cmp (4 * n + k)).skipped (4 + k) ||| flag (s.cmp (4 * n + k)).tested k)
      (at_ (Tab.getD s.sense.blankOverrun n 0) 16)
  | .chScanStatus => at_ s.sense.passOverrun 16 ||| at_ s.sense.passCount 0
  | .chSelftestStatus =>
    let t := s.sense.test
    at_ t.starved 24 ||| at_ t.abandoned 16 ||| at_ (t.skipCount % 256) 8 ||| at_ t.next 0
  | .chTrigStatus =>
    let g := nth s.sense.groups n {}
    at_ g.overrun 16 ||| at_ g.lateCount 8 ||| at_ g.done 0
  | .chTrigResult =>
    match Tab.get? s.sense.results (8 * n + r.j) with
    | some x => flag true 24 ||| at_ x.seq.toNat 16 ||| at_ x.code.toNat 0
    | none => 0
  | .flPinStatus => at_ s.sense.fltLatched.toNat 8 ||| at_ s.sense.fltLevel.toNat 0
  | _ => 0

/-- KL registers. -/
def readKl (s : State) (r : Reg) : Word :=
  let e := nth s.kiln.engines r.i {}
  match r.row.id with
  | .klEventFlags => at_ s.kiln.eventFlags.toNat 0
  | .klStoreStatus => at_ s.kiln.corrected 16 ||| at_ s.kiln.uncorrectable 8 ||| flag s.kiln.loaded 0
  | .klLoadStatus => at_ s.kiln.loadReason 28 ||| at_ s.kiln.loadAddr 0
  | .klFail => wideWord s.kiln.failBits r.i
  | .klChatter => [0, 1, 2, 3].foldl (fun w k => w ||| at_ (Tab.getD s.kiln.chatter (4 * r.i + k) 0) (8 * k)) 0
  | .klStoreDigest => s.gate (digestWord s.storeDigest r.i)
  | .klEngStatus => at_ e.shown 16 ||| at_ e.opcode 12 ||| at_ e.err 8 ||| at_ e.st.code 0
  | .klEngFlags => at_ e.lc 16 ||| flag e.cl 2 ||| flag e.tmo 1 ||| flag e.cf 0
  | .klEngSteps => at_ e.steps 0
  | .klStep => s.gate (wideWord (Tab.getD s.kiln.store r.i 0) r.j)
  | _ => 0

/-- CT registers. -/
def readCt (s : State) (r : Reg) : Word :=
  let t := nth s.fault.tables r.i {}
  match r.row.id with
  | .ctTableCfg => s.gate (flag (s.isHTable r.i) 31 ||| at_ t.entries.length 0)
  | .ctWalkStatus =>
    let w := s.walk
    at_ w.bits 29 ||| flag w.waitTimeout 28 ||| flag w.swept 27 ||| at_ w.table 24 ||| at_ w.entry 16 ||| at_ w.switches 8
  | .ctWalkCause =>
    match s.walk.cause with
    | some f => f.word 1
    | none => 0
  | .ctReleased => wideWord s.walk.released r.i
  | .ctFirstCause =>
    match s.fault.first with
    | some e => s.gate (e.1.word 1)
    | none => 0
  | .ctFirstTime =>
    match s.fault.first with
    | some e => s.gate (halfWord e.2 r.i)
    | none => 0
  | .ctFqStatus => at_ s.fault.overflow 24 ||| at_ s.fault.queue.length 16
  | .ctFqHead =>
    match s.fault.queue.head? with
    | some e => e.what.word e.repeats
    | none => 0
  | .ctFqHeadTime =>
    match s.fault.queue.head? with
    | some e => halfWord e.stamp r.i
    | none => 0
  | .ctInputs =>
    at_ s.ctl.pbMode.code 5 ||| flag s.out.hrst 4 ||| flag s.inp.onreq 2 ||| flag s.inp.mr 1 ||| flag s.inp.pb 0
  | .ctInputCounts => at_ s.ctl.pbShort 24 ||| at_ s.ctl.pbBetween 16 ||| at_ s.ctl.mrShort 8 ||| at_ s.ctl.onreqShort 0
  | .ctEventCounts => at_ s.ctl.forceOffs 24 ||| at_ s.ctl.ignoredOn 16 ||| at_ s.ctl.warnCount 0
  | .ctIrq => s.irq.ct
  | .ctEnt => s.gate (wideWord ((t.entries[r.j / 2]?).getD 0) (r.j % 2))
  | _ => 0

/-- MG registers. -/
def readMg (s : State) (r : Reg) : Word :=
  let t := s.trim r.i
  match r.row.id with
  | .mgStatus =>
    at_ t.code.toNat 20 ||| at_ t.level.toNat 17 ||| flag t.clamped 16 ||| flag t.compliance 15
      ||| flag (s.mg.sweep.rail == some r.i) 14 ||| at_ t.pmb.toNat 12 ||| at_ t.lastResult.toNat 8 ||| at_ t.aborts 0
  | .mgSweepStatus =>
    flag s.mg.sweep.active 31 ||| at_ (s.mg.sweep.rail.getD s.mg.sweep.lastRail) 16 ||| at_ s.mg.sweep.cycles 0
  | .mgPmbRead => at_ t.exponent.toNat 24 ||| at_ t.vout.toNat 0
  | .mgCalSense => s.gate (Tab.getD s.mg.cal r.i 0)
  | .mgCalTm => s.gate (Tab.getD s.mg.cal (176 + r.i) 0)
  | .mgCalStatus =>
    s.gate (flag s.mg.overwritten 31 ||| flag (s.mg.calDigest == factoryCal) 30 ||| at_ s.mg.calEpoch 0)
  | .mgCalDigest => s.gate (digestWord s.mg.calDigest r.i)
  | .mgCalFactory => s.gate (digestWord factoryCal r.i)
  | _ => 0

/-- LG registers. -/
def readLg (s : State) (r : Reg) : Word :=
  let l := s.log
  match r.row.id with
  | .lgFrSeq => s.gate (halfWord l.fr.next r.i)
  | .lgFrPos => s.gate (at_ l.fr.pos 0)
  | .lgFaSeq => s.gate (halfWord l.fa.next r.i)
  | .lgFaPos => s.gate (at_ l.fa.pos 0)
  | .lgFaDrained => s.gate (halfWord l.drained r.i)
  | .lgFaStatus => flag (s.pm.state.logs && !l.copies.isEmpty) 31 ||| flag (!l.openWins.isEmpty) 30 ||| s.gate (at_ s.freeCount 0)
  | .lgWindowLast => s.gate (at_ l.lastWindow 0)
  | .lgCounts => s.gate (at_ l.windowRefused 24 ||| at_ l.secSuppressed 16 ||| at_ l.snapSkipped 0)
  | .lgCounts2 =>
    s.gate (at_ (min 65535 (l.overwrittenLife / 1024)) 16 ||| at_ l.eventLost 8 ||| at_ (min 255 (l.lostLife / 1024)) 0)
  | .lgScrubStatus => s.gate (at_ l.corrected 16 ||| at_ l.uncorrectable 8 ||| at_ l.scrubPasses 0)
  | .lgIrq => s.irq.lg
  | .lgFrChain => s.gate (digestWord (s.chainOf 2) r.i)
  | .lgFaChain => s.gate (digestWord (s.chainOf 1) r.i)
  | .lgBisque => byteWord s.fault.bisque.bytes r.i
  | _ => 0

/-- CM registers. -/
def readCm (s : State) (r : Reg) : Word :=
  let p := s.port
  match r.row.id with
  | .cmPortStatus => s.portStatus (decide (r.i = 1))
  | .cmIrq => s.irq.cm
  | .cmCounts => at_ p.received 16 ||| at_ p.framing 8 ||| at_ p.overrun 0
  | .cmSecCounts => s.gate (at_ p.secUnsigned 24 ||| at_ p.secBadSig 16 ||| at_ p.secStale 8 ||| at_ p.secQuorum 0)
  | .cmDiscard => s.gate (at_ p.discardCause 28 ||| at_ p.discardConsumed 8 ||| at_ p.discardCount 0)
  | .cmBcastStatus => at_ p.bcastStatus.toNat 24 ||| at_ p.bcastOp.toNat 16 ||| at_ p.bcastCounter 0
  | .cmTagsSpi => s.tagMap false r.i
  | .cmTagsRing => s.tagMap true r.i
  | _ => 0

/-- GL registers. -/
def readGl (s : State) (r : Reg) : Word :=
  let g := s.ring
  let w := s.twin
  match r.row.id with
  | .glStatus =>
    flag s.inp.root 31 ||| flag s.inp.twside 30 ||| at_ g.state.code 27 ||| flag g.linkA.wrapped 26
      ||| flag g.linkB.wrapped 25 ||| flag g.linkA.up 24 ||| flag g.linkB.up 23 ||| at_ g.address 0
  | .glEnumStatus =>
    flag g.overBudget 31 ||| flag g.enumDone 30 ||| (if s.inp.root then
      at_ (countBits g.admittedMap) 16 ||| at_ (countBits g.fencedMap) 0 else 0)
  | .glEnumTime => at_ (g.enumNumber % 65536) 16 ||| at_ g.duration 0
  | .glHornStatus => at_ g.hornOrig 20 ||| at_ g.hornLastSeq 16 ||| at_ g.hornReceived 8 ||| at_ g.hornSuppressed 0
  | .glTwinStatus =>
    at_ w.state.code 29 ||| flag w.mismatch 28 ||| at_ w.reason.toNat 24 ||| at_ w.address 12 ||| at_ w.missed 8
      ||| at_ w.lost 0
  | .glLink => if r.i = 0 then g.linkA.word else g.linkB.word
  | .glIrq => s.irq.gl
  | .glRootUid => wideWord g.rootUid r.i
  | .glTwinUid => wideWord w.uid r.i
  | .glTwinDigest => s.gate (digestWord s.twinDigest r.i)
  | _ => 0

/-- Two-wire port p (TWp). -/
def State.port2 (s : State) (p : Nat) : TwPort := nth s.tw p {}

/-- TW registers. -/
def readTw (s : State) (r : Reg) : Word :=
  let p := s.port2 r.i
  match r.row.id with
  | .twStatus =>
    flag (bit (s.cfgAt (0xB0000 + 0x40 * r.i)) 31 && s.pm.state.logs) 31 ||| flag p.busy 30 ||| at_ p.activity.toNat 27
      ||| at_ p.lastResult.toNat 20 ||| at_ p.queue.length 16 ||| at_ p.lastAddr.toNat 8
  | .twCounts => at_ p.nack 24 ||| at_ p.arbLost 16 ||| at_ p.timeouts 8 ||| at_ p.pecErr 0
  | .twReq => at_ p.reqCount.toNat 16 ||| at_ p.reqAddr.toNat 8 ||| at_ p.badCount 0
  | .twIrq => s.irq.tw
  | _ => 0

/-- CK registers. CK_TIME_HI reads as the captured half once a read of CK_TIME_LO has captured it (R325). -/
def readCk (s : State) (r : Reg) : Word :=
  let c := s.clk
  match r.row.id with
  | .ckStatus =>
    flag c.pllLocked 31 ||| flag c.corePll 30 ||| flag c.pllRefRc 29 ||| flag c.refOk 28 ||| flag c.x32Xtal 27
      ||| flag c.ratioValid 26 ||| at_ c.relockCount 8 ||| at_ c.gateCount 0
  | .ckTimeStatus =>
    at_ c.mode.code 29 ||| flag c.epochValid 28 ||| at_ c.following.toNat 26 ||| at_ (BitVec.ofInt 24 c.rate).toNat 0
  | .ckTime => if r.i = 0 then halfWord c.stamp 0 else s.port.hiCapture.getD (halfWord c.stamp 1)
  | .ckTimeOffset => BitVec.ofInt 32 c.offset
  | .ckTimeCounts => at_ c.stepCount 24 ||| at_ c.jumpCount 16 ||| at_ c.ignored 8 ||| at_ c.holdovers 0
  | .ckXingErr => at_ c.xingErr.toNat 0
  | .ckXingOvf => at_ c.xingOvf.toNat 0
  | .ckIrq => s.irq.ck
  | .ckOutPhase => at_ (s.outNow r.i).position 14 ||| at_ (BitVec.ofInt 8 (s.outNow r.i).pending).toNat 0
  | _ => 0

/-- PW registers. -/
def readPw (s : State) (r : Reg) : Word :=
  let s := s.pwSettle
  let h := s.ch r.i
  match r.row.id with
  | .pwLoad => flag s.pwm.loadAll 0
  | .pwRun => at_ (maskOf 16 s.pwRuns).toNat 0
  | .pwTripStatus => at_ (maskOf 16 (fun c => (s.ch c).latch)).toNat 0
  | .pwTripSrc => s.tripSources ||| at_ s.pwm.tripiSeen.toNat 28
  | .pwCounts => at_ s.pwm.clearRefused 16 ||| at_ s.pwm.tripCount 0
  | .pwIrq => s.irq.pw
  | .pwChActive => at_ h.p 16 ||| at_ h.c 0
  | .pwChTrigAct => at_ h.t1 16 ||| at_ h.t0 0
  | .pwChStatus =>
    at_ ((s.ch (s.pwBase r.i)).counter s.clk.now) 16 ||| flag (s.pwRuns r.i) 15 ||| flag (h.latch || h.await) 14
      ||| flag (s.pwPin r.i == some true) 13 ||| flag h.due 12
  | _ => 0

/-- SG registers. -/
def readSg (s : State) (r : Reg) : Word :=
  let e := nth s.kiln.engines 4 {}
  let k := nth s.sec.slots r.i {}
  match r.row.id with
  | .sgStatus => at_ e.shown 16 ||| at_ e.opcode 12 ||| at_ e.err 8 ||| at_ e.st.code 0
  | .sgFlags => at_ e.lc 16 ||| flag e.tmo 1 ||| flag e.cf 0
  | .sgQuorum =>
    s.gateSg (at_ (maskOf 8 (fun i => (nth s.sec.slots i {}).filled)).toNat 16 ||| at_ s.sec.eligible.toNat 8 ||| at_ s.sec.m 0)
  | .sgOwner => s.gateSg (flag s.sec.owned 31 ||| at_ s.sec.epoch 0) ||| flag s.sec.windowDue.isSome 30
  | .sgLoadStatus => at_ s.kiln.sgLoadReason 28 ||| at_ s.kiln.sgLoadAddr 0
  | .sgCounts => s.gateSg (at_ s.sec.writeBlocked 16 ||| at_ s.sec.confirmFail 8 ||| at_ s.sec.storeRepair 0)
  | .sgImageDigest => s.gateSg (digestWord s.sec.imageDigest r.i)
  | .sgStoreDigest => s.gateSg (digestWord s.sgStoreDigest r.i)
  | .sgKeytabDigest => s.gateSg (digestWord s.sec.keyDigest r.i)
  | .sgOwnerFp => s.gateSg (digestWord s.sec.ownerFp r.i)
  | .sgSlotCfg => s.gateSg (flag k.filled 31 ||| at_ k.badSig 16 ||| at_ k.role.toNat 0)
  | .sgSlotCtr => s.gateSg (halfWord k.counter r.j)
  | .sgSlotFp => s.gateSg (if k.filled then digestWord k.print 0 else 0)
  | .sgStep => s.gateSg (wideWord (Tab.getD s.kiln.sgStore r.i 0) r.j)
  | _ => 0

/-- The state with the CH, FL and SG blocks as crossing 1 last passed them (R346). -/
def State.seen (s : State) : State :=
  match s.frozen with
  | some f =>
    { s with
      sense := f.sense, sec := f.sec, cfg := f.cfg
      kiln := { s.kiln with
        engines := modNth s.kiln.engines 4 (fun _ => f.sg), sgStore := f.sgStore, sgLoadReason := f.sgLoadReason
        sgLoadAddr := f.sgLoadAddr } }
  | none => s

/-- What a register reads as. -/
def readReg (s : State) (r : Reg) : Word :=
  let b := r.row.base / 0x10000
  let s := if b = 2 ∨ b = 3 ∨ b = 0xF0 then s.seen else s
  if r.row.id = .chCfg then readCh s r
  else if r.row.id = .pwChShadow then s.shadow r.i
  else if r.row.keep ≠ .view then s.cfgAt r.addr
  else if b ≤ 1 then readPm s r
  else if b ≤ 3 then readCh s r
  else if b ≤ 5 then readKl s r
  else match b with
    | 6 => readCt s r
    | 7 => readMg s r
    | 8 => readLg s r
    | 9 => readCm s r
    | 0xA => readGl s r
    | 0xB => readTw s r
    | 0xC => readCk s r
    | 0xD => readPw s r
    | _ => readSg s r

/-- The word at an address; reserved space reads 0 (R345). -/
def State.readWord (s : State) (a : Nat) : Word :=
  match regAt a with
  | some r => readReg s r
  | none => 0

end Sys2Proof.Machine
end

