-- ==== Sys2Proof/Machine/Operands.lean ====
section
/-! DEFINITION. Sys2Proof/Machine/Operands.lean: the operand forms: fields of step words (Tables 04.2 to 04.12), their load checks
(Tables 04.21 and 09.8), legal cooling entries (Table 05.5), and the fields of a packet header (Table 08.3). -/

set_option Elab.async false

namespace Sys2Proof.Machine

/-! ## Step words -/

/-- Opcode of a step (Table 04.3). -/
def stOp (w : Step64) : Nat := fld w 63 60

/-- The rails that ENABLE, DISABLE or RAMP selects (R106). -/
def stRails (w : Step64) : Rails := BitVec.ofNat 64 (fld w 31 0 <<< (if bit w 56 then 32 else 0))

/-- Duration of a WAIT in ticks (R108). -/
def stWaitTicks (w : Step64) : Nat :=
  max 1 (fld w 31 0 * (match fld w 57 56 with | 0 => 1 | 1 => 200 | 2 => 200000 | _ => 20000000))

/-- Timeout of a WAITFOR or SYNC in ticks; none where it never ends the step (R111). -/
def stTimeout (w : Step64) : Option Nat :=
  let n := fld w 55 40
  let u := match fld w 39 38 with | 0 => 200 | 1 => 20000 | 2 => 2000000 | _ => 200000000
  if n = 0 then none else some (n * u)

/-- Kind and condition fields of a WAITFOR (Table 04.6). -/
def wfKind (w : Step64) : Nat := fld w 57 56
def wfSource (w : Step64) : Nat := fld w 7 0
def wfInput (w : Step64) : Nat := fld w 6 0
def wfLevel (w : Step64) : BitVec 16 := BitVec.ofNat 16 (fld w 31 16)
def wfPin (w : Step64) : Nat := fld w 3 0

/-- Fields of SYNC and SIGNAL (Tables 04.7 and 04.11). -/
def stFlags (w : Step64) : BitVec 16 := BitVec.ofNat 16 (fld w 15 0)

/-- Window, qualification and deadline of a CHECK in ticks (Table 04.8). -/
def ckWindow (w : Step64) : Nat := fld w 59 56
def ckQual (w : Step64) : Nat := fld w 39 24 * 200
def ckDeadline (w : Step64) : Nat :=
  fld w 15 0 * (match fld w 23 22 with | 0 => 2000 | 1 => 20000 | 2 => 200000 | _ => 2000000)

/-- The rails of a CHECK's group (R112). -/
def ckRails (w : Step64) : List Nat :=
  (List.range (fld w 45 40 + 1)).map (fun i => fld w 53 48 + i * (if bit w 46 then 2 else 1))

/-- Fields of JUMP, JUMPIF, MARGIN, TRIM, SNAP and PWM (Tables 04.9, 04.12). -/
def stTarget (w : Step64) : Nat := fld w 11 0
def stLcval (w : Step64) : Nat := fld w 31 16
def stCond (w : Step64) : Nat := fld w 59 56
def stOperand (w : Step64) : Nat := fld w 27 16
def stRail (w : Step64) : Nat := fld w 53 48
def stCode (w : Step64) : Int := sfld w 11 0
def stMark (w : Step64) : Nat := fld w 15 0
def pwAction (w : Step64) : Nat := fld w 57 56
def pwChannel (w : Step64) : Nat := fld w 51 48
def pwValue (w : Step64) : Nat := fld w 15 0

/-! ## Load checks -/

/-- Bits hi:lo of a step as a mask. -/
def span (hi lo : Nat) : Step64 := BitVec.ofNat 64 ((2 ^ (hi + 1 - lo) - 1) <<< lo)

/-- The bits that an opcode's encoding uses, beside the opcode. -/
def stUsed (w : Step64) : Step64 :=
  match stOp w with
  | 0x0 => 0
  | 0x1 | 0x2 | 0x6 => span 56 56 ||| span 31 0
  | 0x3 => span 57 56 ||| span 31 0
  | 0x4 => span 57 38 ||| (match wfKind w with
    | 0 => span 8 0
    | 1 => span 31 16 ||| span 7 0
    | 2 => span 8 8 ||| span 3 0
    | _ => span 31 0)
  | 0x5 => span 59 56 ||| span 53 48 ||| span 46 22 ||| span 15 0
  | 0x7 => span 56 56 ||| span 31 16 ||| span 11 0
  | 0x8 => span 59 55 ||| span 27 16 ||| span 11 0
  | 0x9 => span 56 56 ||| span 15 0
  | 0xA => span 57 38 ||| span 15 0
  | 0xB => span 58 56 ||| span 53 48
  | 0xC => span 53 48 ||| span 11 0
  | 0xD => span 15 0
  | 0xE => span 57 56 ||| span 51 48 ||| span 15 0
  | _ => span 56 56

/-- Reason 0x2 of Table 04.21. -/
def stIllegal (w : Step64) : Bool :=
  match stOp w with
  | 0x1 | 0x2 | 0x6 => decide (fld w 31 0 = 0)
  | 0x9 | 0xA => decide (fld w 15 0 = 0)
  | 0x5 => decide (ckWindow w = 0) || (ckRails w).any (fun r => decide (63 < r))
  | 0x4 =>
    (match wfKind w with
    | 0 => false
    | 1 => decide (111 < wfInput w)
    | 2 => decide (8 < wfPin w)
    | _ => true)
  | 0x8 =>
    let c := stCond w
    let n := stOperand w
    decide (0xA < c) || (if c = 6 ∨ c = 7 then decide (15 < n) else if c = 8 ∨ c = 9 then decide (63 < n) else decide (n ≠ 0))
  | 0xB => decide (fld w 57 56 = 3)
  | 0xE => (pwAction w == 3 && pwChannel w != 0) || (pwAction w != 2 && pwValue w != 0)
  | _ => false

/-- The reason for which a word is refused, 0 where it is accepted (Table 04.21). For a word that breaks both checks it is 0x1: the spec
names none of the two, and this is the model's choice (log entry 56). -/
def stRefusal (w : Step64) : Nat :=
  if w &&& ~~~(span 63 60 ||| stUsed w) ≠ 0 then 1 else if stIllegal w then 2 else 0

/-- Opcode and condition permitted in the Saggar store (Table 09.7). -/
def sgPermits (w : Step64) : Bool :=
  match stOp w with
  | 0x0 | 0x3 | 0x4 | 0x7 | 0x5 | 0x6 | 0xF => true
  | 0x8 => stCond w ≤ 3 || (8 ≤ stCond w && stCond w ≤ 0xA)
  | _ => false

/-- The rails that a CHECK or RAMP selects. -/
def stSelects (w : Step64) : Rails :=
  if stOp w = 5 then (ckRails w).foldl (fun m r => m ||| one 64 r) 0 else if stOp w = 6 then stRails w else 0

/-- The reason for which a word is refused in the Saggar store: Table 09.8 first, which leaves any other case to Table 04.21. For a word
that both rows of Table 09.8 name it is 0x5: the spec names none of the two, and this is the model's choice (log entry 56). -/
def sgRefusal (safety : Rails) (w : Step64) : Nat :=
  if !sgPermits w then 5
  else if stSelects w &&& ~~~safety != 0 || ((stOp w == 7 || stOp w == 8) && decide (0x1FF < stTarget w)) then 6
  else stRefusal w

/-! ## Cooling-table entries -/

/-- A legal entry (Table 05.5). -/
def entLegal (x : Step64) : Bool :=
  let w := entWait x
  entAction x != 3 && (entAction x != 0 || entRail x == 0) && decide (fld x 13 12 = 0)
    && (if w then decide (entInput x < 112) && decide (1 ≤ fld x 11 0)
        else entInput x == 0 && entLevel x == 0 && decide (fld x 15 14 = 0) && decide (fld x 11 0 = 0))

/-! ## Packet headers -/

/-- Byte i of a list. -/
def byteAt (l : List Byte) (i : Nat) : Nat := (l.getD i 0).toNat

/-- Fields of a header (Table 08.3). -/
def hdTotal (h : List Byte) : Nat := leAt h 2 2
def hdOp (h : List Byte) : Nat := byteAt h 4
def hdTag (h : List Byte) : Nat := byteAt h 5 % 128
def hdSign (h : List Byte) : Bool := decide (128 ≤ byteAt h 5)
def hdClass (h : List Byte) : Nat := byteAt h 6 % 4
def hdMore (h : List Byte) : Bool := byteAt h 6 / 4 % 2 == 1
def hdCont (h : List Byte) : Bool := byteAt h 6 / 8 % 2 == 1
def hdSigners (h : List Byte) : Byte := h.getD 7 0
def hdCounter (h : List Byte) : Nat := leAt h 8 8
def hdDest (h : List Byte) : Nat := leAt h 16 2
def hdPayLen (h : List Byte) : Nat := leAt h 18 2
def hdPayCrc (h : List Byte) : Nat := leAt h 24 4

/-- Sync and header_crc hold. -/
def hdIntact (h : List Byte) : Bool := leAt h 0 2 == 0xA55A && leAt h 28 4 == crc32c (h.take 28)

/-- Reserved header bits are 0 in a command: class bits 6:4 and 7, destination bits 15:12, source, status and byte 23. -/
def hdReservedOk (h : List Byte) : Bool :=
  decide (byteAt h 6 < 16) && decide (hdDest h < 4096) && leAt h 20 4 == 0

end Sys2Proof.Machine
end

