-- ==== Sys2Proof/Machine/TwOps.lean ====
section
/-! DEFINITION. Sys2Proof/Machine/TwOps.lean: the two-wire ports and the margin levels (R162 to R164, R279 to R298). -/

set_option Elab.async false

namespace Sys2Proof.Machine

/-- TW_CFGp. -/
def State.twCfg (s : State) (p : Nat) : Word := s.cfgAt (0xB0000 + 0x40 * p)

/-- The port takes part in its bus: TW_CFGp.enable in a state in which the logic die runs (R279). -/
def State.twOn (s : State) (p : Nat) : Bool := bit (s.twCfg p) 31 && s.pm.state.logs

/-- A port changed. -/
def State.setTw (s : State) (p : Nat) (f : TwPort → TwPort) : State := { s with tw := modNth s.tw p f }

/-- MG_PMBUSn. -/
def State.pmbus (s : State) (n : Nat) : Word := s.cfgAt (0x7000C + 0x20 * n)

/-- Command codes of a rail's margin sequence, in order (Table 06.2). -/
def State.pmbCodes (s : State) (n level : Nat) : List Nat :=
  (if bit (s.pmbus n) 29 then [0x00] else []) ++ [0x20]
    ++ (if level = 1 then [0x25] else if level = 2 then [0x26] else []) ++ [0x01, 0x8B]

/-- The transaction of a command code is a read (Table 06.2). -/
def pmbReads (code : Nat) : Bool := code == 0x20 || code == 0x8B

/-- The data bytes that a command code writes for rail n and a level, least significant byte first (Table 06.2, R284). -/
def State.pmbData (s : State) (n level code : Nat) : List Byte :=
  let vout := s.cfgAt (0x70900 + 4 * n)
  if code = 0x00 then [BitVec.ofNat 8 (fld (s.pmbus n) 23 16)]
  else if code = 0x25 then leBytes 2 (fld vout 31 16)
  else if code = 0x26 then leBytes 2 (fld vout 15 0)
  else if code = 0x01 then [if level = 1 then 0xA8 else if level = 2 then 0x98 else 0x80]
  else []

/-- A target address with W (0) or R (1). -/
def addrByte (addr rw : Nat) : Byte := BitVec.ofNat 8 (2 * addr + rw)

/-- The bytes that the port puts on the bus in the transaction of a command code for rail n (R284, R285): of a read, address with W,
command, address with R; of a write, address with W, command, data, and PEC if enabled. -/
def State.txBytes (s : State) (n level code : Nat) : List Byte :=
  let addr := fld (s.pmbus n) 6 0
  let head := [addrByte addr 0, BitVec.ofNat 8 code]
  if pmbReads code then head ++ [addrByte addr 1]
  else
    let b := head ++ s.pmbData n level code
    if bit (s.pmbus n) 30 then b ++ [BitVec.ofNat 8 (pec b)] else b

/-- The bytes that a read delivers: one of VOUT_MODE, two of READ_VOUT. -/
def deliveredBytes (code : Nat) (data : BitVec 16) : List Byte := leBytes (if code = 0x20 then 1 else 2) data.toNat

/-- tBUF in ticks by the mode in force (Table 11.1). -/
def tBuf (cfg : Word) : Nat := match fld cfg 9 8 with | 0 => 1000 | 1 => 280 | _ => 110

/-- 50 µs in ticks: the bus is idle after it where no STOP was observed (R282). -/
def noStopTicks : Nat := 10000

/-- A bus clear begins (R292, R293). -/
def TwPort.clear (p : TwPort) : TwPort := { p with activity := 3, busy := true, clearPending := false }

/-- The START of a sequence's next transaction (R284, R287): its target, its bytes, and the configuration it is sent under. -/
def State.startTx (s : State) (p : Nat) (q : TwSeq) : State :=
  let code := (s.pmbCodes q.rail q.level).getD q.done 0
  s.setTw p (fun x => { x with
    activity := 1
    busy := true
    lastAddr := BitVec.ofNat 7 (fld (s.pmbus q.rail) 6 0)
    sent := s.txBytes q.rail q.level code
    cfg := s.twCfg p })

/-- A port without a transaction takes its next work: a pending bus clear, or the head sequence's transaction, which starts on an
idle bus (R282, R287). -/
def State.pump (s : State) (p : Nat) : State :=
  let w := s.port2 p
  if !s.twOn p then s.setTw p (fun x => { x with activity := 0, busy := false, clearPending := false })
  else if w.clearPending then s.setTw p TwPort.clear
  else match w.queue with
    | [] => s.setTw p (fun x => { x with activity := 0 })
    | q :: _ =>
      if w.busy then s.setTw p (fun x => { x with activity := 4 }) else s.startTx p q

/-- A sequence has ended with a pmb_result; its step or command is released by PMBUS_SEQUENCE_END. -/
def State.noteEnd (s : State) (q : TwSeq) (r : BitVec 2) : State := { s with twEnded := s.twEnded ++ [(q, r)] }

/-- The head sequence of port p ends with a transaction result and a pmb_result (R286). -/
def State.endHead (s : State) (p : Nat) (result : BitVec 4) (r : BitVec 2) : State :=
  match (s.port2 p).queue with
  | [] => s
  | q :: rest => (s.setTw p (fun x => { x with queue := rest, lastResult := result, retries := 0 })).noteEnd q r

/-- Every sequence of port p ends with a result other than 0x1. -/
def State.endQueue (s : State) (p : Nat) (result : BitVec 4) : State :=
  (s.port2 p).queue.foldl (fun t _ => t.endHead p result 2) s

/-- A sequence enters its port's queue: those of MARGIN steps ahead of those of margin commands, behind the one that holds the
port (R284, R287). -/
def TwPort.enqueue (p : TwPort) (q : TwSeq) : TwPort :=
  let held := match p.queue with
    | x :: _ => p.activity == 1 || decide (0 < x.done) || decide (0 < p.retries)
    | [] => false
  let k := if held then 1 else 0
  let front := p.queue.take k
  let rest := p.queue.drop k
  { p with queue := front ++ (if q.engine.isSome then
      rest.filter (fun x => x.engine.isSome) ++ [q] ++ rest.filter (fun x => x.engine.isNone) else rest ++ [q]) }

/-- The port of a rail's PMBus path. -/
def State.pmbPort (s : State) (n : Nat) : Nat := fld (s.pmbus n) 9 8

/-- Why a sequence ends without a transaction, if it does: the path is not permitted (R162), or its port is disabled (result
0x8) or finds SCL stuck (result 0x4). -/
def State.seqBlocked (s : State) (n : Nat) : Option (BitVec 4) :=
  if bit (s.pmbus n) 31 = false then some 0
  else if !s.twOn (s.pmbPort n) then some 8
  else if (s.port2 (s.pmbPort n)).activity = 5 then some 4 else none

/-- A margin sequence begins for a rail. -/
def State.startSeq (s : State) (q : TwSeq) : State :=
  let p := s.pmbPort q.rail
  let t := s.setTw p (fun x => x.enqueue q)
  if (t.port2 p).activity = 0 then t.pump p else t

/-- Command sequences queued on a port (R287). -/
def TwPort.commands (p : TwPort) : Nat := (p.queue.filter (fun q => q.cmd.isSome)).length

/-- A complete transaction of the head sequence: VOUT_MODE and READ_VOUT deliver data; the sequence goes on or ends
(Table 06.2). -/
def State.txDone (s : State) (p : Nat) (q : TwSeq) (data : BitVec 16) : State :=
  let codes := s.pmbCodes q.rail q.level
  let code := codes.getD q.done 0
  let t := s.trim q.rail
  let s := if code = 0x20 then s.setTrim q.rail { t with exponent := BitVec.ofNat 5 data.toNat }
    else if code = 0x8B then s.setTrim q.rail { t with vout := data } else s
  if code = 0x20 ∧ fld data 7 5 ≠ 0 then s.endHead p 1 3
  else if codes.length ≤ q.done + 1 then s.endHead p 1 1
  else s.setTw p (fun x => { x with
    lastResult := 1, retries := 0, queue := { q with done := q.done + 1 } :: x.queue.drop 1 })

/-- The bus is busy after a transaction, an answer or a clear, and idle no earlier than d ticks from now (R282); the port goes on. -/
def State.busyPump (s : State) (p d : Nat) : State :=
  (s.setTw p (fun x => { x with busy := true, activity := 0, idleFrom := s.clk.now + d })).pump p

/-- Another controller's START, or SDA held low, on the idle bus of a port (R282, Table 11.5). -/
def State.foreignStart (s : State) (p : Nat) : State :=
  let w := s.port2 p
  if s.twOn p && !w.busy && w.activity == 0 then
    s.setTw p (fun x => { x with busy := true, idleFrom := s.clk.now + tBuf (s.twCfg p) })
  else s

/-- SCL, stuck low before, is seen high again: the port performs a bus clear (R290); a port disabled meanwhile takes no further part. -/
def State.sclFree (s : State) (p : Nat) : State :=
  if (s.port2 p).activity ≠ 5 then s
  else if s.twOn p then s.setTw p TwPort.clear
  else s.setTw p (fun x => { x with activity := 0, busy := false })

/-- What the ports have seen on their buses without a row of its own (log entry 32). -/
def State.foreignStarts (s : State) (busy free : BitVec 4) : State :=
  (bitsOf free).foldl State.sclFree ((bitsOf busy).foldl State.foreignStart s)

/-- TW_CFGp.enable changes (R279, R293, Table 11.5). -/
def State.twEnable (s : State) (p : Nat) : State :=
  if s.twOn p then
    s.setTw p (fun x => if x.activity = 1 then { x with clearPending := true } else x.clear)
  else if (s.port2 p).activity = 1 then
    ((s.port2 p).queue.drop 1).foldl (fun t q => t.noteEnd q 2)
      (s.setTw p (fun x => { x with
        queue := x.queue.take 1, clearPending := false, lastResult := if x.queue.length ≤ 1 then x.lastResult else 8 }))
  else (s.endQueue p 8).setTw p (fun x => { x with activity := 0, busy := false, retries := 0, clearPending := false })

/-- TW_CTRLp.reset (R293). A port that was disabled in mid-transaction releases its pins. -/
def State.twReset (s : State) (p : Nat) : State :=
  let t := (s.endQueue p 7).setTw p (fun x => { x with
    lastResult := if x.activity = 1 then 7 else x.lastResult, retries := 0 })
  if t.twOn p then t.setTw p TwPort.clear
  else t.setTw p (fun x => { x with activity := 0, busy := false, clearPending := false })

/-- TW_CTRLp.clear (R293): at once on an idle port, deferred else. -/
def State.twClear (s : State) (p : Nat) : State :=
  let a := (s.port2 p).activity
  if !s.twOn p then s
  else if a = 0 ∨ a = 4 then s.setTw p TwPort.clear
  else s.setTw p (fun x => { x with clearPending := true })

/-- Entry to Ready (R293): every enabled port performs a bus clear, deferred while a transaction or an answer is on its bus; one that is
performing a clear, or waits for SCL, has its clear already. -/
def State.readyClears (s : State) : State :=
  [0, 1, 2, 3].foldl (fun t p =>
    let a := (t.port2 p).activity
    if a = 3 ∨ a = 5 then t else t.twClear p) s

/-! ## Margin levels -/

/-- A margin level on the trim path (R121, R164): nominal, high or low. -/
def State.marginTrim (s : State) (n level : Nat) : State :=
  s.applyTrim n level (if level = 1 then s.marginHi n else if level = 2 then s.marginLo n else s.nominal n)

/-- The reply payload of MARGIN (Table 08.8). -/
def State.marginReply (s : State) (n : Nat) : List Byte :=
  let t := s.trim n
  [BitVec.ofNat 8 t.pmb.toNat, 0, 0, 0] ++ leBytes 2 t.vout.toNat ++ [BitVec.ofNat 8 t.exponent.toNat, 0]

end Sys2Proof.Machine
end

