-- ==== Sys2Proof/Machine/EngineOps.lean ====
section
/-! DEFINITION. Sys2Proof/Machine/EngineOps.lean: the sequencer engines: the issue of a step, its end, errors, the event flags, and
what steps of one tick see of each other (R100 to R125, R244, R245). -/

set_option Elab.async false

namespace Sys2Proof.Machine

/-! ## Engines -/

/-- Engine k: K0 to K3, and SG as 4. -/
def State.eng (s : State) (k : Nat) : Engine := nth s.kiln.engines k {}

/-- The state with engine k changed. -/
def State.setEng (s : State) (k : Nat) (f : Engine → Engine) : State :=
  { s with kiln := { s.kiln with engines := modNth s.kiln.engines k f } }

/-- The word at an address of engine k's store. -/
def State.stepAt (s : State) (k a : Nat) : Step64 := if k < 4 then Tab.getD s.kiln.store a 0 else Tab.getD s.kiln.sgStore a 0

/-- The step that engine k issues next or is inside. -/
def State.stepOf (s : State) (k : Nat) : Step64 := s.stepAt k (s.eng k).pc

/-- KL_ENGk_WDOG or SG_WDOG: step budget in steps and time budget in ticks; 0 acts as 65,536 (R124). -/
def State.engWdog (s : State) (k : Nat) : Word := s.cfgAt (if k < 4 then 0x40104 + 0x20 * k else 0xF00004)
def State.stepBudget (s : State) (k : Nat) : Nat :=
  let n := fld (s.engWdog k) 15 0
  16 * (if n = 0 then 65536 else n)
def State.timeBudget (s : State) (k : Nat) : Nat :=
  let n := fld (s.engWdog k) 31 16
  msTicks * (if n = 0 then 65536 else n)

/-- The last address of engine k's store. -/
def lastStep (k : Nat) : Nat := if k < 4 then 0xFFF else 0x1FF

/-- An engine enters error with a cause (R124, R125): its step ends, and the fault logic receives cause 0x10. -/
def State.engineError (s : State) (k err : Nat) : State :=
  let t := s.setEng k (fun e => { e with st := .error, err := err, busy := .none })
  let t := { t with tw := t.tw.map (fun (p : TwPort) => { p with
    queue := p.queue.map (fun (q : TwSeq) => if q.engine = some k then { q with ending := true } else q) }) }
  t.engineFault k err

/-- The engine is issuing steps or inside one. -/
def Engine.active (e : Engine) : Bool := e.st == .running || e.st == .waiting

/-- The engine has been reset by a firing and has not issued its entry step: it is idle (Table 04.1). -/
def Engine.entering (e : Engine) : Bool := e.st == .idle && e.started

/-- The step in progress of engine k ends and address a issues after d ticks; nothing follows where the step's own effect has
stopped the engine. -/
def State.goStep (s : State) (k a d : Nat) : State :=
  s.setEng k (fun e =>
    if e.active then { e with st := .running, pc := a, next := s.clk.now + s.engTicks k d, busy := .none } else e)

/-- The step in progress ends, and the next address issues after d ticks; beyond the store's end the engine enters error with
cause 0x4 (R102, R245). -/
def State.endStep (s : State) (k d : Nat) : State :=
  let a := (s.eng k).pc
  if lastStep k ≤ a ∧ (s.eng k).active then s.engineError k 4 else s.goStep k (a + 1) d

/-! ## What the steps of one tick see (R117, R120, R122) -/

/-- The tick's log, opened at the present tick. -/
def State.openTick (s : State) : State :=
  if s.kiln.tick.time = s.clk.now then s
  else { s with kiln := { s.kiln with tick := {
    time := s.clk.now, evBase := s.kiln.eventFlags, failBase := s.kiln.failBits } } }

/-- Event flags and fail bits as the present tick found them. -/
def State.evSeen (s : State) : BitVec 16 := if s.kiln.tick.time = s.clk.now then s.kiln.tick.evBase else s.kiln.eventFlags
def State.failSeen (s : State) : Rails := if s.kiln.tick.time = s.clk.now then s.kiln.tick.failBase else s.kiln.failBits

/-- Flags of a mask are set at the end of the tick. -/
def State.setFlags (s : State) (m : BitVec 16) : State :=
  let t := s.openTick
  { t with kiln := { t.kiln with
    eventFlags := t.kiln.eventFlags ||| m, tick := { t.kiln.tick with evSet := t.kiln.tick.evSet ||| m } } }

/-- Flags of a mask are cleared at the end of the tick, but for those that a step of the same tick sets. -/
def State.clearFlags (s : State) (m : BitVec 16) : State :=
  let t := s.openTick
  { t with kiln := { t.kiln with eventFlags := t.kiln.eventFlags &&& ~~~(m &&& ~~~t.kiln.tick.evSet) } }

/-! ## Issue (R102, R105, R122, R124) -/

/-- Engine k has a step to issue within its budgets, in Firing. -/
def State.hasStep (s : State) (k : Nat) : Bool :=
  let e := s.eng k
  decide (k ≤ 4) && s.pm.state == .firing && (e.st == .running || e.entering) && e.busy == .none
    && decide (e.steps < s.stepBudget k) && decide (max e.next s.clk.now < e.t0 + s.timeBudget k)

/-- Engine k is about to issue a step of opcode op. -/
def State.mayIssue (s : State) (k op : Nat) : Bool := s.hasStep k && stOp (s.stepOf k) == op

/-- The step that engine k issues in the present tick and has not issued yet: the one at its program counter, or, inside a WAIT that
ends in the tick, the one after it (R108). -/
def State.issuesNow (s : State) (k : Nat) : Option Step64 :=
  let e := s.eng k
  if s.hasStep k then if e.next ≤ s.clk.now then some (s.stepOf k) else none
  else match e.busy with
    | .wait due =>
      if k ≤ 4 ∧ s.pm.state = .firing ∧ e.st = .waiting ∧ due ≤ s.clk.now ∧ e.pc < lastStep k ∧ e.steps < s.stepBudget k
          ∧ s.clk.now < e.t0 + s.timeBudget k then
        some (s.stepAt k (e.pc + 1))
      else none
    | _ => none

/-- Rails that a DISABLE due in the present tick selects (Table 04.13). -/
def State.disablesDue (s : State) : Rails :=
  ([0, 1, 2, 3, 4].filterMap s.issuesNow).foldl (fun m w => if stOp w = 2 then m ||| stRails w else m) 0

/-- A step is a HALT with off = 1. -/
def haltsOff (w : Step64) : Bool := stOp w == 0xF && bit w 56

/-- A Kiln engine's HALT with off = 1 is due in the present tick: Cooling is recognised in it, and any other step of the tick has no
effect (R118, Table 04.13). -/
def State.offDue (s : State) : Bool := ([0, 1, 2, 3].filterMap s.issuesNow).any haltsOff

/-- A fetch is corrected: counted for the program store (R102). -/
def State.noteFetch (s : State) (k : Nat) (f : Fetch) : State :=
  if f = .corrected ∧ k < 4 then { s with kiln := { s.kiln with corrected := inc 65535 s.kiln.corrected } } else s

/-- Engine k issues the step at its program counter: its address, opcode and count. -/
def State.issueStep (s : State) (k op : Nat) : State :=
  s.setEng k (fun e => { e with st := .running, opcode := op, shown := e.pc, steps := (e.steps + 1) % 0x100000000 })

/-- A word is uncorrectable: it is not executed, and the engine enters error with cause 0x3 (R102). -/
def State.badFetch (s : State) (k : Nat) : State :=
  let t := if k < 4 then { s with kiln := { s.kiln with uncorrectable := inc 255 s.kiln.uncorrectable } } else s
  t.engineError k 3

/-- Engine k issues its next step, of opcode op: `act` is what the step does in its issue tick. A step of a tick in which a HALT with
off = 1 is due has no effect (R118); that it is not counted in KL_ENGk_STEPS nor shown in pc and opcode either is the model's choice
(log entry 57). -/
def State.engStep (s : State) (k op : Nat) (f : Fetch) (act : State → State) : State :=
  if s.mayIssue k op then
    let t := s.till (s.eng k).next
    match f with
    | .uncorrectable => t.badFetch k
    | _ => if t.offDue && !haltsOff (s.stepOf k) then t else act ((t.noteFetch k f).issueStep k op)
  else s

/-- Engine k is inside a step and waits. -/
def State.waitIn (s : State) (k : Nat) (b : Busy) : State := s.setEng k (fun e => { e with st := .waiting, busy := b })

/-- Engine k is inside a step in Firing, and its time budget lasts beyond tick t (R124). -/
def State.inStep (s : State) (k t : Nat) : Bool :=
  decide (k ≤ 4) && s.pm.state == .firing && (s.eng k).st == .waiting && decide (t < (s.eng k).t0 + s.timeBudget k)

/-- Some step of the present tick has acted on an object already: the engine of that step. -/
def claimed (l : List (Nat × Nat)) (x : Nat) : Option Nat := (l.find? (fun e => e.1 == x)).map Prod.snd

/-- Engine k acts on the trim of rail n, unless a lower engine has in this tick; the one that does not act sets its CL
(Table 04.13). -/
def State.claimTrim (s : State) (k n : Nat) (act : State → State) : State :=
  let s := s.openTick
  let prev := claimed s.kiln.tick.trimmed n
  if prev.any (· < k) then s.setEng k (fun e => { e with cl := true })
  else
    let s := match prev with
      | some j => if j = k then s else s.setEng j (fun e => { e with cl := true })
      | none => s
    act { s with kiln := { s.kiln with tick := { s.kiln.tick with trimmed := (n, k) :: s.kiln.tick.trimmed } } }

/-- Engine k acts on a PWM channel, or on LOAD_ALL as 16, unless another step has in this tick (Table 04.13). -/
def State.claimPwm (s : State) (k c : Nat) (act : State → State) : State :=
  let s := s.openTick
  if (claimed s.kiln.tick.pwm c).any (· < k) then s
  else act { s with kiln := { s.kiln with tick := { s.kiln.tick with pwm := (c, k) :: s.kiln.tick.pwm } } }

/-! ## Firing ends (R18) -/

/-- Every started engine has halted: Running begins. -/
def State.endFiring (s : State) : State :=
  if s.pm.state = .firing ∧ s.kiln.engines.all (fun e => !e.started || e.st == .halted) then s.enterRunning else s

/-! ## CHECK (R113) -/

/-- A rail has been inside for the qualification time. -/
def CheckRail.settled (r : CheckRail) (qt now : Nat) : Bool :=
  r.done || (match r.since with | some t => decide (t + qt ≤ now) | none => false)

/-- The CHECK of engine k ends once every rail has qualified. -/
def State.checkEnd (s : State) (k : Nat) (rails : List CheckRail) : State :=
  if rails.all (fun r => r.done) then s.endStep k 1 else s

/-- Rail r of engine k's CHECK has failed: CF, its fail bit and its shard. -/
def State.checkFail (s : State) (k r : Nat) : State :=
  let s := s.openTick
  let n := Tab.getD s.kiln.chatter r 0
  let t := s.setEng k (fun e => { e with cf := true })
  let t := { t with kiln := { t.kiln with
    failBits := t.kiln.failBits ||| one 64 r, tick := { t.kiln.tick with failSet := t.kiln.tick.failSet ||| one 64 r } } }
  t.capture 0x04 0 ([BitVec.ofNat 8 k, BitVec.ofNat 8 r] ++ leBytes 2 (s.eng k).pc
    ++ [if n = 0 then 1 else 2, BitVec.ofNat 8 n])

/-! ## The sequence of a MARGIN step has ended (R121, R162) -/

/-- Engine k's MARGIN step on rail n ends with a pmb_result. -/
def State.marginEnd (s : State) (k n : Nat) (r : BitVec 2) : State :=
  if (s.eng k).st = .waiting ∧ (s.eng k).busy = .margin n then
    (s.setEng k (fun e => { e with tmo := e.tmo || r != 1 })).endStep k 1
  else s

end Sys2Proof.Machine
end

