-- ==== Sys2Proof/Machine/RingOps.lean ====
section
/-! DEFINITION. Sys2Proof/Machine/RingOps.lean: the root's enumeration and ring map (R256 to R258). -/

set_option Elab.async false

namespace Sys2Proof.Machine

/-- GL_CFG.horn_budget in µs; a value outside 1 to 250 acts as 250. -/
def State.hornBudget (s : State) : Nat :=
  let b := fld (s.cfgAt 0xA0000) 7 0
  if b = 0 ∨ 250 < b then 250 else b

/-- L, the number of devices the root admits (R256). -/
def State.ringLimit (s : State) : Nat := min 4094 (s.hornBudget * 1000 / 60 + 1)

/-- The addresses of the ring map, and address 1 (R257). -/
def State.mapBits (s : State) : BitVec 4096 := s.ring.map.foldl (fun w e => w ||| one 4096 e.1) (one 4096 1)

/-- The payload of the root's TOKEN at launch (Table 10.6). -/
def State.tokenPayload (s : State) : List Byte :=
  leBytes 4 (s.cfgAt 0xA0004).toNat ++ leBytes 16 s.ident.uid.toNat ++ digestBytes s.sec.ownerFp
    ++ leBytes 4 s.ring.enumNumber ++ leBytes 2 1 ++ leBytes 2 s.ringLimit ++ zeros 4 ++ leBytes 512 s.mapBits.toNat

/-- The root launches an enumeration (R257); in root conflict it sends no TOKEN (R262). -/
def State.launchEnum (s : State) : State :=
  if s.inp.root && s.ring.state != .conflict && s.pm.state.logs then
    let t := { s with ring := { s.ring with
      enumNumber := (s.ring.enumKept + 1) % 0x100000000
      enumKept := (s.ring.enumKept + 1) % 0x100000000
      address := 1
      rootUid := s.ident.uid
      enumDone := false
      enum := some { launch := s.clk.now, returned := none, waitDue := 0, claims := [] } } }
    t.sendFrame .a (t.ownFrame 0x10 0 t.tokenPayload)
  else s

/-- GL_ENUM_CTRL.reenumerate is written 1: an enumeration, or one more after the one in progress (R257, R349). -/
def State.reenumerate (s : State) : State :=
  if s.ring.enum.isSome then
    { s with ring := { s.ring with enum := s.ring.enum.map (fun (e : Enum) => { e with again := true }) } }
  else s.launchEnum

/-- Reservations of devices absent at the last closure leave the ring map (R258). -/
def State.forgetAbsent (s : State) : State :=
  if s.inp.root then
    { s with ring := { s.ring with
        map := s.ring.map.filter (fun e => !s.ring.absent.contains e.1)
        absent := [] } }
  else s

end Sys2Proof.Machine
end

