-- ==== Sys2Proof/Machine/WriteOps.lean ====
section
/-! DEFINITION. Sys2Proof/Machine/WriteOps.lean: register writes: the judging of a word (R344 to R348, Tables 14.3 and 14.4), the
content a word leaves, and what follows from it. -/

set_option Elab.async false

namespace Sys2Proof.Machine

/-! ## Judging -/

/-- The opcode that carries a write (Table 14.2). -/
inductive Carrier where
  | class1 | class2 | class3 | saggar
  deriving DecidableEq, Repr

/-- The bits of a register that a carrier may change (Table 14.2). -/
def State.mayWrite (s : State) (k : Carrier) (r : Reg) : Word :=
  match k with
  | .class1 => r.row.rw1 ||| r.row.w1c
  | .class2 => r.row.rw2 &&& ~~~(heldMask s r)
  | .class3 => r.row.rw3 &&& ~~~(heldMask s r)
  | .saggar => heldMask s r

/-- What a register holds, whatever crossing 1 last passed of it. -/
def State.content (s : State) (r : Reg) : Word := readReg { s with frozen := none } r

/-- What the register at an address holds, 0 where none is. -/
def State.contentAt (s : State) (a : Nat) : Word := ((regAt a).map s.content).getD 0

/-- The bits that a write of v would change (R347): a W1C bit written 1, any other bit written with another value; reserved bits
are ignored. -/
def State.changes (s : State) (r : Reg) (v : Word) : Word :=
  (v &&& r.row.w1c) ||| ((v ^^^ s.content r) &&& (r.row.ro ||| r.row.rw) &&& ~~~r.row.w1c)

/-- The content of a register of the configuration after a write of v. -/
def State.after (s : State) (r : Reg) (v : Word) : Word := (s.content r &&& ~~~r.row.rw) ||| (v &&& r.row.rw)

/-- The configuration with a register's content. -/
def State.putCfg (s : State) (r : Reg) (v : Word) : State :=
  { s with cfg := Tab.put (factoryReg r.row.id r.i r.j) s.cfg r.addr (v &&& r.row.rw) }

/-- An h_table value names an H table; a t_table value one of C1 to C6 (R133). -/
def State.tablesAllowed (s : State) (changed byte : Nat) : Bool :=
  (changed / 16 % 8 == 0 || s.isHTable (byte / 16 % 8))
    && (changed % 8 == 0 || (decide (1 ≤ byte % 8) && decide (byte % 8 ≤ 6)))

/-- CT_CAUSE_CFGx as written obeys R133. -/
def State.causeAllowed (s : State) (x : Nat) (v : Word) : Bool :=
  let t := fld v 2 0
  if x = 0 then s.isHTable t
  else match fld v 5 4 with
    | 3 => s.isHTable t
    | 2 => decide (1 ≤ t) && decide (t ≤ 6)
    | _ => true

/-- The relation of R159 holds for rail n. -/
def State.bandOk (s : State) (n : Nat) : Bool :=
  [s.nominal n, s.marginHi n, s.marginLo n].all (fun x => decide (s.bandLo n ≤ x) && decide (x ≤ s.bandHi n))

/-- Format minimum of N; none for a format that is not listed (Table 12.4). -/
def outMin : Nat → Option Nat
  | 0 => some 1 | 1 => some 1 | 2 => some 4 | 3 => some 2 | _ => none

/-- The pending steps of output n after a write of v. -/
def State.phaseTotal (s : State) (n : Nat) (v : Word) : Int := (s.outNow n).pending + (BitVec.ofNat 8 v.toNat).toInt

/-- Rails that CHECK and RAMP steps of the Saggar store select (R246). -/
def State.sgRails (s : State) : Rails := s.kiln.sgStore.foldl (fun m e => m ||| stSelects e.2) 0

/-- The status with which a register's own rule refuses a write of v that changes the bits c (Table 14.4); none where it is
accepted. -/
def State.ownRule (s : State) (r : Reg) (v c : Word) : Option Nat :=
  let refuse := fun (b : Bool) => if b then some 0x40 else none
  let w := s.after r v
  let swept := s.mg.sweep.rail == some r.i
  match r.row.id with
  | .chCfg => refuse (bit c 0 && bit s.out.en r.i)
  | .klStart | .klEngCfg | .klEngWdog => refuse (s.pm.state == .firing || s.pm.state == .cooling)
  | .ctControl | .ctTripTiming | .ctGrace => refuse (s.pm.state == .cooling)
  | .ctRailsel =>
    refuse (s.pm.state == .cooling
      || !([0, 1, 2, 3].all (fun k => s.tablesAllowed (fld c (8 * k + 7) (8 * k)) (fld w (8 * k + 7) (8 * k)))))
  | .ctCauseCfg => refuse (s.pm.state == .cooling || !(s.causeAllowed r.i w))
  | .mgBand | .mgLevels | .mgCodes => refuse (swept || !((s.putCfg r w).bandOk r.i))
  | .mgSweep =>
    refuse (swept || (fld c 27 24 != 0 && (fld w 27 24 == 0 || decide (8 < fld w 27 24)))
      || (fld c 23 12 != 0 && (fld w 23 12 == 0 || decide (2047 < fld w 23 12))))
  | .mgPmbus | .mgSweepSense | .mgSweepShunt | .mgPmbVout => refuse swept
  | .chScanCfg => refuse (fld c 23 16 != 0 && decide (128 < fld w 23 16))
  | .twCfg => refuse (fld w 9 8 == 3 || (fld w 9 8 == 0 && bit w 0))
  | .ckOutCfg => refuse (match outMin (fld w 30 28) with | some m => decide (outDiv w < m) | none => true)
  | .ckOutPhase => refuse (decide (s.phaseTotal r.i v < -128) || decide (127 < s.phaseTotal r.i v))
  | .pwChCfg => refuse (s.pwRuns r.i || fld w 17 16 == 3)
  | .pwChSync => refuse (s.pwRuns r.i)
  | .pwPairCfg => refuse (s.pwRuns (2 * r.i) || s.pwRuns (2 * r.i + 1))
  | .pwChShadow => refuse (fld w 31 16 == 0)
  | .pwTripStatus => if s.clearRefused (BitVec.ofNat 16 v.toNat) then some 0x41 else none
  | .glCfg => refuse (bit c 31 && bit w 31 && !s.ident.variantT)
  | .sgSafety =>
    let unmarked := s.content r &&& ~~~w
    refuse (s.pm.state != .ready || wideWord s.sgRails r.i &&& unmarked != 0)
  | _ => none


/-- A word is judged (Table 14.3): none where it is accepted. A word that changes no field is, and nothing happens; that holds of one
whose steps for CK_OUTn_PHASE equal those pending, too (R347, log entry 66). -/
def State.judgeWord (s : State) (k : Carrier) (a : Nat) (v : Word) : Option Nat :=
  match regAt a with
  | none => none
  | some r =>
    let c := s.changes r v
    if c &&& ~~~(s.mayWrite k r) ≠ 0 then some 0x24
    else if c = 0 then none
    else s.ownRule r v c

/-! ## Content -/

/-- FL_PIN_STATUS.latched: a bit is cleared unless a routed source is still on the fault side (R90). -/
def State.clearFlt (s : State) (pins : Byte) : State :=
  let raw := s.fltRaw
  let latched := s.sense.fltLatched &&& ~~~(pins &&& ~~~raw)
  { s with sense := { s.sense with
    fltLatched := latched
    fltLevel := raw ||| latched ||| maskOf 8 (fun p => (Tab.get? s.sense.fltStretch p).isSome) } }

/-- Rail fail bits are cleared (R115), but for those set in the present tick (R349). -/
def State.clearFail (s : State) (high : Bool) (bits : Word) : State :=
  let m : Rails := BitVec.ofNat 64 (bits.toNat <<< (if high then 32 else 0))
  let s := s.openTick
  { s with kiln := { s.kiln with failBits := s.kiln.failBits &&& ~~~(m &&& ~~~s.kiln.tick.failSet) } }

/-- The head of the fault queue leaves (R145). -/
def State.popQueue (s : State) : State :=
  { s with fault := { s.fault with queue := s.fault.queue.drop 1 } }

/-- Output n with steps added to those pending (R316). -/
def State.addPhase (s : State) (n : Nat) (v : Word) : State :=
  let o := s.outNow n
  { s with clk := { s.clk with outs := modNth s.clk.outs n (fun _ =>
    { o with pending := s.phaseTotal n v, mark := if o.pending = 0 then s.clk.now else o.mark }) } }

/-- An interrupt register of a block with bits cleared (R206); no other register is one. -/
def Irq.clear (q : Irq) (id : RegId) (v : Word) : Irq :=
  match id with
  | .ctIrq => { q with ct := q.ct &&& ~~~v }
  | .lgIrq => { q with lg := q.lg &&& ~~~v }
  | .cmIrq => { q with cm := q.cm &&& ~~~v }
  | .glIrq => { q with gl := q.gl &&& ~~~v }
  | .twIrq => { q with tw := q.tw &&& ~~~v }
  | .ckIrq => { q with ck := q.ck &&& ~~~v }
  | .pwIrq => { q with pw := q.pw &&& ~~~v }
  | _ => q

/-- The settings of a rail's UVF, OVF, table and ranges keep their bits as it is marked or unmarked (Table 09.6): held or not, a
field lies at its own address here. The content of a register that a word leaves, and the actions of RW1 and W1C bits within the
block. A W1C bit that hardware sets in the same tick ends set (R349). -/
def State.writeContent (s : State) (r : Reg) (v : Word) : State :=
  let s := if r.row.base / 0x10000 = 0xD then s.pwSettle else s
  let w := v
  let v := v &&& ~~~(r.row.w1c &&& s.justSet r.addr)
  match r.row.id with
  | .pmResetCause => { s with pm := { s.pm with resetCause := s.pm.resetCause &&& ~~~(BitVec.ofNat 5 v.toNat) } }
  | .flPinStatus => s.clearFlt (BitVec.ofNat 8 (fld v 15 8))
  | .klFail => s.clearFail (decide (r.i = 1)) v
  | .ctFqStatus => if bit v 0 then s.popQueue else s
  | .ckXingErr => { s with clk := { s.clk with xingErr := s.clk.xingErr &&& ~~~(BitVec.ofNat 16 v.toNat) } }
  | .ckXingOvf => { s with clk := { s.clk with xingOvf := s.clk.xingOvf &&& ~~~(BitVec.ofNat 16 v.toNat) } }
  | .ckOutPhase => s.addPhase r.i v
  | .pwLoad => if bit v 0 then s.setLoadAll else s
  | .pwRun => s.writeRun (BitVec.ofNat 16 v.toNat)
  | .pwTripStatus => s.clearLatches (BitVec.ofNat 16 w.toNat)
  | .pwTripSrc =>
    { s with pwm := { s.pwm with tripiSeen := s.pwm.tripiSeen &&& ~~~(BitVec.ofNat 4 (fld v 31 28)) } }
  | .pwChShadow => ((s.keepShadow r.i).putCfg r v).setCh r.i (fun h => { h with stepC := none })
  | .pwChTrig => (s.keepShadow r.i).putCfg r v
  | .pwSoCfg =>
    let t := s.putCfg r v
    if fld v 15 8 = 0 then { t with pwm := { t.pwm with so := none } } else t
  | id => if r.row.keep = .view then { s with irq := s.irq.clear id v } else s.putCfg r v

/-! ## What follows -/

/-- CH_CFG.atten of rail n has changed: its comparators become unresolved with their outputs on the fault side (R66). Each of them
raises the grade W fault of R43, one that was unresolved before too (log entry 50). -/
def State.attenChanged (s : State) (n : Nat) : State :=
  let srcs := ([0, 1, 2, 3].map (fun k => 4 * n + k)).filter (fun x => (s.cmp x).status != .failed)
  let t := srcs.foldl (fun u x => u.setCmp x { u.cmp x with status := .unresolved, side := true, out := true }) s
  srcs.foldl (fun u x => u.receive (wFault 9 x)) (t.forcedChange s)

/-- CH_CMP_CFGk of a rail has changed: a new threshold or mode starts a settle hold, and a cleared ramp_en ends a ramp (R72,
Table 03.6); of a comparator under self-test, at the end of the test (Table 03.13). -/
def State.cmpCfgChanged (s : State) (src : Nat) (c w : Word) : State :=
  if s.underTest src && decide (s.sense.test.phase < 5) then s
  else
    let t := if fld c 11 0 ≠ 0 ∨ fld c 29 28 ≠ 0 then s.startSettle src else s
    if bit c 23 && !bit w 23 then t.cutRamp src else t

/-- A rail's TM or its withholding has changed (R265). -/
def State.trimSide (s old : State) (n : Nat) : State :=
  if s.trimWithheld n && !old.trimWithheld n then
    s.setTrim n { s.trim n with code := 0, level := 6 }
  else if old.trimWithheld n && !s.trimWithheld n then s.trimNominal n else s

/-- GL_CFG.twin_en has changed: TWOK, the twin state, arming by the EN pins, TM outputs (R265, R267, R270, R271). -/
def State.twinEnChanged (s old : State) : State :=
  let t := { s with twin := { s.twin with
    state := .off, hand := .none, seekDue := none, seekFrom := none, hbDue := none, address := 0, uid := 0, rxStops := []
    peerSolo := false } }
  let t := if s.twin.hand.holds then t.releaseHeld else t
  let t := t.twinAtReady
  let srcs := srcsOf t.out.en
  let u := srcs.foldl (fun (u : State) x => if u.enUp (x / 4) then u else u.setCmp x { u.cmp x with armed := false }) t
  (List.range 64).foldl (fun v n => v.trimSide old n) (u.senseChange { t with cfg := old.cfg } srcs)

/-- CK_OUTn_CFG has changed (R315). -/
def State.outChanged (s : State) (n : Nat) (c w : Word) : State :=
  let was := w ^^^ c
  let f := fun (o : ClkOut) =>
    let o := if bit was 27 then { o with mark := s.clk.now } else o.settle (outDiv was) s.clk.now
    let o := if fld c 30 27 ≠ 0 ∨ fld c 11 0 ≠ 0 then o.renew was s.clk else o
    if bit c 31 then (if bit w 31 && s.clk.corePll then o.go w s.clk else o.stop was s.clk) else o
  { s with clk := { s.clk with outs := modNth s.clk.outs n f } }

/-- MG_SWEEP_CFG.interval has changed in Running: the next cycle counts from the last start (R165). -/
def State.intervalChanged (s : State) : State :=
  let m := fld (s.cfgAt 0x70800) 31 16
  if s.pm.state = .running then
    { s with mg := { s.mg with sweep := { s.mg.sweep with
      cycleDue := if m = 0 then none else some (s.mg.sweep.cycleStart + m * 60 * secondTicks) } } }
  else s

/-- A stopped free scan starts once its list is not empty; free converters take work (R92, R94). -/
def State.scanChanged (s : State) : State :=
  State.assignAll (if s.scanLive && !s.sense.scan.running then s.startPass else s.turnLate)

/-- A sweep cycle starts at once, unless one is in progress (R165). -/
def State.startCycle (s : State) : State :=
  if s.pm.state = .running ∧ s.mg.sweep.active = false then
    let m := fld (s.cfgAt 0x70800) 31 16
    State.finishCycle { s with mg := { s.mg with sweep := { s.mg.sweep with
      active := true, rail := none, todo := 0, notBefore := max s.clk.now s.mg.sweep.notBefore, cycleStart := s.clk.now
      cycleDue := if m = 0 then none else some (s.clk.now + m * 60 * secondTicks) } } }
  else s

/-- MG_SWEEP_CONTROL.stop: the cycle is aborted (Table 06.3). -/
def State.stopCycle (s : State) : State := if s.mg.sweep.active then s.endCycle 4 else s

/-- A write that has left its content: r was written v and changed the bits c; `cfg` is the configuration before it. -/
def State.writeAfter (s : State) (cfg : Tab Word) (r : Reg) (v c : Word) : State :=
  let old := { s with cfg := cfg }
  match r.row.id with
  | .chCfg =>
    let t := if bit c 0 then s.attenChanged r.i else s
    if bit c 8 then t.senseChange { t with cfg := cfg } [4 * r.i, 4 * r.i + 1] else t
  | .chCmpCfg => s.cmpCfgChanged (4 * r.i + r.j) c v
  | .flRoute | .flPinCfg => s.refreshFlt old
  | .chScanCfg | .chScanList => s.scanChanged
  | .chTrigCfg => s.assignAll
  | .mgSweepCfg => if fld c 31 16 ≠ 0 then s.intervalChanged else s
  | .mgSweepControl =>
    let t := if bit v 1 then s.stopCycle else s
    if bit v 0 then t.startCycle else t
  | .twCfg => if bit c 31 then s.twEnable r.i else s
  | .twCtrl =>
    let t := if bit v 0 then s.twReset r.i else s
    if bit v 1 then t.twClear r.i else t
  | .glCfg => if bit c 31 then s.twinEnChanged old else s
  | .glTmSide => (List.range 32).foldl (fun t i => t.trimSide old (32 * r.i + i)) s
  | .glEnumCtrl =>
    let t := if bit v 1 then s.reenumerate else s
    if bit v 0 then t.forgetAbsent else t
  | .ckOutCfg => s.outChanged r.i c v
  | _ => s

/-! ## Words of a command -/

/-- What the words of a command have written: configuration before, register, value, changed bits. -/
structure Written where
  cfg : Tab Word
  reg : Reg
  value : Word
  changed : Word

/-- One word is written after those before it, where it changes a field. -/
def State.writeWord (e : State × List Written) (w : Nat × Word) : State × List Written :=
  match regAt w.1 with
  | none => e
  | some r =>
    let c := e.1.changes r w.2
    if c = 0 then e
    else (e.1.writeContent r w.2, e.2 ++ [⟨e.1.cfg, r, w.2, c⟩])

/-- The words of a command are judged in order, each against the content that those before it would leave (R348). -/
def State.judgeWords (s : State) (k : Carrier) : List (Nat × Word) → Option Nat
  | [] => none
  | w :: rest =>
    match s.judgeWord k w.1 w.2 with
    | some st => some st
    | none => (State.writeWord (s, []) w).1.judgeWords k rest

/-- Every word is written. -/
def State.writeAll (s : State) (l : List (Nat × Word)) : State × List Written := l.foldl State.writeWord (s, [])

/-- The first refused word of a command is aimed at the SG block or changes a Saggar-held field: the bus interface of the sense die
drops the write (R240). -/
def State.aimsAtSaggar (s : State) (k : Carrier) : List (Nat × Word) → Bool
  | [] => false
  | w :: rest =>
    if s.judgeWord k w.1 w.2 = some 0x24 then
      (regAt w.1).any (fun r => decide (0xF00000 ≤ w.1) || s.changes r w.2 &&& heldMask s r != 0)
    else (State.writeWord (s, []) w).1.aimsAtSaggar k rest

/-- What follows from the words written, in order. -/
def State.writesFollow (s : State) (l : List Written) : State :=
  l.foldl (fun t w => t.writeAfter w.cfg w.reg w.value w.changed) s

/-- A refusal of register words is counted where it is a refused clear (R336) or a write that the sense die drops (R240). -/
def State.countRefused (s : State) (k : Carrier) (l : List (Nat × Word)) (status : Nat) : State :=
  if status = 0x41 then s.countClearRefused
  else if status = 0x24 ∧ k ≠ .saggar ∧ s.aimsAtSaggar k l then
    { s with sec := { s.sec with writeBlocked := inc 65535 s.sec.writeBlocked } }
  else s

/-- The held bits of the configuration registers that differ from the default (Table 09.5). -/
def State.heldWords (s : State) : Tab Word :=
  s.cfg.filterMap (fun e =>
    match regAt e.1 with
    | some r => let m := heldMask s r; if m = 0 then none else some (e.1, e.2 &&& m)
    | none => none)

/-- The content of the Saggar partition (R238). -/
def State.partition (s : State) : SgPart where
  slots := s.sec.slots.map (fun k => { k with badSig := 0, counter := 0 })
  m := s.sec.m
  eligible := s.sec.eligible
  owned := s.sec.owned
  ownerFp := s.sec.ownerFp
  epoch := s.sec.epoch
  imageDigest := s.sec.imageDigest
  held := s.heldWords
  store := s.kiln.sgStore
  tables := ((List.range 8).filter s.isHTable).map (fun c => (c, nth s.fault.tables c {}))

/-- A copy of the store with its seal (R239). -/
def SgPart.sealed (p : SgPart) : SgCopy := { part := p, sealDigest := sha3 p.bytes }

/-- The partition's keys, quorum, owner and digest are written, with what else of the partition has changed: into the copy of the store
that was not marked in force, which then is; the other copy is rewritten to match (R239). -/
def State.putSec (s : State) (x : Sec) : State :=
  let t := { s with sec := { x with storeMark := !s.sec.storeMark } }
  let c := t.partition.sealed
  { t with sec := { t.sec with copyA := c, copyB := c } }

/-- A copy's digest holds (R239). -/
def SgCopy.intact (c : SgCopy) : Bool := c.sealDigest == sha3 c.part.bytes

/-- The held bits of a register as a copy of the store has them. -/
def State.putHeld (held : Tab Word) (s : State) (r : Reg) : State :=
  let m := heldMask s r
  if m = 0 then s
  else s.putCfg r ((rawReg s r &&& ~~~m) ||| ((Tab.get? held r.addr).getD (factoryReg r.row.id r.i r.j) &&& m))

/-- The held bits of every register: the safety masks first, which say what is held. -/
def State.loadHeld (s : State) (held : Tab Word) : State :=
  let t := ([0xF00010, 0xF00014].filterMap regAt).foldl (State.putHeld held) { s with sgLoaded := true }
  ((t.cfg.map Prod.fst ++ held.map Prod.fst).filterMap regAt).foldl (State.putHeld held) t

/-- The content of a copy of the Saggar store is loaded (R239); counters are held apart from it (R228). -/
def State.loadPart (s : State) (p : SgPart) : State :=
  let t := s.loadHeld p.held
  { t with
    sec := { t.sec with
      slots := t.sec.slots.mapIdx (fun i k => { nth p.slots i {} with badSig := k.badSig, counter := k.counter })
      m := p.m, eligible := p.eligible, owned := p.owned, ownerFp := p.ownerFp, epoch := p.epoch, imageDigest := p.imageDigest }
    kiln := { t.kiln with sgStore := p.store }
    fault := { t.fault with tables := t.fault.tables.mapIdx (fun c x => (Tab.get? p.tables c).getD { x with hard := false }) } }

/-- The image digest follows the configuration in force (R211, R242). -/
def State.newImage (s : State) : State := s.putSec { s.sec with imageDigest := s.imageNow }

/-- The words changed the configuration (R211). -/
def changedCfg (l : List Written) : Bool := l.any (fun w => w.reg.row.keep != .view)

/-- A register word written by its row alone: judged as the one word of a command, and written with what follows. -/
def State.writeOne (s : State) (k : Carrier) (a : Nat) (v : Word) : State :=
  match s.judgeWord k a v with
  | some st => s.countRefused k [(a, v)] st
  | none =>
    let e := State.writeWord (s, []) (a, v)
    let t := if changedCfg e.2 then e.1.newImage else e.1
    t.writesFollow e.2

/-- The same in the states in which commands write registers (Ready, Firing, Running, Cooling). -/
def State.writeLive (s : State) (k : Carrier) (a : Nat) (v : Word) : State :=
  if s.pm.state.logs then s.writeOne k a v else s

end Sys2Proof.Machine
end

