-- ==== Sys2Proof/Machine/Clocks.lean ====
section
/-! DEFINITION. Sys2Proof/Machine/Clocks.lean: clock events, the time base's references and whole seconds, crossings (12). -/

set_option Elab.async false

namespace Sys2Proof.Machine

/-! ## REFCLK and the PLL (R302 to R305) -/

/-- REFCLK_LOST (R304): the core switches to the logic-die RC, and the PLL re-locks to it; before the PLL has locked at all, the
monitor's verdict changes alone. -/
def execRefclkLost (s : State) : Host.Outcome State Fault Refusal :=
  if s.clocked && s.clk.refOk then
    let t := { s with clk := { s.clk with refOk := false, refBack := false } }.irqCk 0
    .next (if s.relocks then { t with clk := { t.clk with pllRefRc := true } }.startRelock else t)
  else .next s

/-- REFCLK_BACK (R302, R304): a re-lock to REFCLK begins. -/
def execRefclkBack (s : State) : Host.Outcome State Fault Refusal :=
  if s.clocked && !s.clk.refOk then
    let t := { s with clk := { s.clk with refOk := true } }
    .next (if s.relocks then { t with clk := { t.clk with refBack := true, pllRefRc := false } }.startRelock else t)
  else .next s

/-- PLL_LOCK (R304): the PLL has locked in a re-lock; the core and, from stage 5 on, the clock outputs run from it again. -/
def execPllLock (s : State) : Host.Outcome State Fault Refusal :=
  if s.clocked && s.clk.relock.isSome then
    let t := { s with clk := { s.clk with
      relock := none, retryDue := none, pllLocked := true, corePll := true, pllRefRc := !s.clk.refOk, refBack := false
      relockCount := inc 255 s.clk.relockCount } }
    let t := if s.clk.refBack then t.irqCk 1 else t
    .next (if t.outsLive then t.outsRun else t)
  else .next s

/-- RELOCK_FAIL (R305): no lock 500 µs into a re-lock: cause 0x13 with source 0. -/
def execRelockFail (s : State) : Host.Outcome State Fault Refusal :=
  match s.clk.relock with
  | some t0 =>
    if s.clocked then
      let t := s.till (t0 + 500 * usTicks)
      let t := { t with clk := { t.clk with relock := none, retryDue := some (t0 + 10 * msTicks) } }
      .next ((t.irqCk 2).receiveCause 3 0)
    else .next s
  | none => .next s

/-- RELOCK_RETRY (R305): a further attempt, every 10 ms. -/
def execRelockRetry (s : State) : Host.Outcome State Fault Refusal :=
  match s.clk.retryDue with
  | some due =>
    if s.clocked then
      let t := s.till due
      .next { t with clk := { t.clk with relock := some t.clk.now, retryDue := none } }
    else .next s
  | none => .next s

/-- PLL_LOSS_OF_LOCK (R304): the PLL loses lock with its reference present. -/
def execPllLossOfLock (s : State) : Host.Outcome State Fault Refusal :=
  if s.relocks && s.clk.pllLocked && (s.clk.refOk || s.clk.pllRefRc) then .next s.startRelock else .next s

/-- RC_RATIO_MEASURE (R303): the logic-die RC is measured against a valid REFCLK. -/
def execRcRatioMeasure (ratio : Nat) (s : State) : Host.Outcome State Fault Refusal :=
  if s.clocked && s.clk.refOk then
    .next { s with clk := { s.clk with ratio := ratio, ratioValid := true } }
  else .next s

/-- X32_CRYSTAL_FAIL (R300): the oscillator returns to its internal RC. -/
def execX32CrystalFail (s : State) : Host.Outcome State Fault Refusal :=
  if s.clk.x32Xtal then
    let t := { s with clk := { s.clk with x32Xtal := false } }
    .next (if t.clocked then t.irqCk 7 else t)
  else .next s

/-! ## References and whole seconds (R308 to R311) -/

/-- The time base runs: set in stage 3, with the logic die powered. -/
def State.tbRuns (s : State) : Bool := s.clocked && s.clk.tbSet

/-- The whole second nearest to the time stamp, minus the time stamp (R310). -/
def Clk.secondError (c : Clk) : Int :=
  let r := c.stamp % secondTicks
  if 2 * r < secondTicks then -(r : Int) else (secondTicks : Int) - r

/-- A TSYNC edge now is valid: 1 s ± 1 ms after the previous valid one, or the first after start-up or holdover (R310). -/
def Clk.tsyncValid (c : Clk) : Bool :=
  match c.lastTsync with
  | some t => decide (secondTicks ≤ c.now - t + msTicks) && decide (c.now - t ≤ secondTicks + msTicks)
  | none => true

/-- TSYNC_EDGE (R310, R311): an edge that the device follows is a reference event; one that is not valid, or comes while ring
TIME is followed and fewer than three valid edges have run on, is ignored. The row stands for the edge at the pin (log entry 55). -/
def execTsyncEdge (s : State) : Host.Outcome State Fault Refusal :=
  let src := s.timeSrc
  if !s.tbRuns || (src != 1 && src != 3) then .next s
  else if s.clk.tsyncValid then
    let n := inc 3 s.clk.tsyncRun
    let t := { s with clk := { s.clk with lastTsync := some s.clk.now, tsyncRun := n } }
    if src = 3 ∧ s.clk.following = 2 ∧ n < 3 then .next t.ignoreEvent
    else .next (t.refEvent 1 t.clk.secondError)
  else
    let t := { s with clk := { s.clk with tsyncRun := 0 } }
    .next t.ignoreEvent

/-- HOLDOVER_ENTRY (R311): no valid event for 2.5 s from TSYNC, or 10 ms from ring TIME. -/
def execHoldoverEntry (s : State) : Host.Outcome State Fault Refusal :=
  match s.clk.lastEvent with
  | some t0 =>
    if s.tbRuns && s.clk.following != 0 then
      let t := s.till (t0 + (if s.clk.following = 1 then 2500 * msTicks else 10 * msTicks))
      .next (State.irqCk { t with clk := { t.clk with
        mode := .holdover, following := 0, slewLeft := 0, holdovers := inc 255 t.clk.holdovers, lastTsync := none
        tsyncRun := 0 } } 5)
    else .next s
  | none => .next s

/-- WHOLE_SECOND (R308): the time stamp reaches the next whole second. -/
def execWholeSecond (s : State) : Host.Outcome State Fault Refusal :=
  if s.tbRuns then .next (s.tillStamp secondTicks).secondReached else .next s

/-- CK_TIME_LO_READ (R325): the upper half of the time base is captured for the next read of CK_TIME_HI. -/
def State.captureHi (s : State) : State :=
  { s with port := { s.port with hiCapture := some (halfWord s.clk.stamp 1) } }

/-- CK_TIME_LO_READ (R325). -/
def execCkTimeLoRead (s : State) : Host.Outcome State Fault Refusal :=
  if s.portAnswers then .next s.captureHi else .next s

/-- CK_OUT_PHASE_WRITE (R316): steps are added to those pending of an output. -/
def execCkOutPhaseWrite (out : BitVec 2) (steps : Byte) (s : State) : Host.Outcome State Fault Refusal :=
  let a := 0xC0044 + 0x10 * out.toNat
  .next (s.writeLive .class1 a ((s.readWord a &&& 0xFFFFC000) ||| at_ steps.toNat 0))

/-! ## Crossings (R318 to R322) -/

/-- Crossing i reports: its bit in CK_XING_ERR, CK_IRQ.crossing, and cause 0x13 with source i where Table 12.6 says so. -/
def State.crossingReport (s : State) (i : Nat) : State :=
  let t := (State.noteSet { s with clk := { s.clk with xingErr := putBit s.clk.xingErr i true } } 0xC0020 (one 32 i)).irqCk 8
  if i = 2 then t else t.receiveCause 3 i

/-- CROSSING_ERROR (R318): the crossing keeps its last accepted value and goes on sampling. -/
def execCrossingError (crossing : BitVec 4) (s : State) : Host.Outcome State Fault Refusal :=
  let i := crossing.toNat
  if s.clocked ∧ 1 ≤ i ∧ i ≤ 4 then .next (s.crossingReport i) else .next s

/-- What crossing 1 last passed. -/
def State.freeze (s : State) : Frozen where
  sense := s.sense
  sec := s.sec
  sg := nth s.kiln.engines 4 {}
  sgStore := s.kiln.sgStore
  sgLoadReason := s.kiln.sgLoadReason
  sgLoadAddr := s.kiln.sgLoadAddr
  cfg := s.cfg

/-- CLOCK_STOPPED (R321): crossings 1 and 3 hold their last accepted values; on crossing 2 the sense die declares the logic die
lost (R23). -/
def execClockStopped (crossing : BitVec 4) (s : State) : Host.Outcome State Fault Refusal :=
  let i := crossing.toNat
  if !s.clocked || bit s.clk.stopped i then .next s
  else if i = 2 then .next s.enterCoppice
  else if i = 1 ∨ i = 3 then
    let t := { s with clk := { s.clk with stopped := putBit s.clk.stopped i true } }
    let t := if i = 1 then { t with frozen := some s.freeze } else t
    .next (t.crossingReport i)
  else .next s

/-- CROSSING_RESUMES (R321): the crossing passes values again; what crossing 1 held back is seen at once. -/
def execCrossingResumes (crossing : BitVec 4) (s : State) : Host.Outcome State Fault Refusal :=
  let i := crossing.toNat
  if s.clocked ∧ bit s.clk.stopped i then
    let t := { s with clk := { s.clk with stopped := putBit s.clk.stopped i false }, frozen := none }
    match i, s.frozen with
    | 1, some f => .next (t.coreSees { t with sense := f.sense } (List.range 256))
    | 1, none => .next t
    | _, _ => .next { t with frozen := s.frozen }
  else .next s

end Sys2Proof.Machine
end

