-- ==== Sys2Proof/Machine/Cooling.lean ====
section
/-! DEFINITION. Sys2Proof/Machine/Cooling.lean: the delays of a shutdown, the cooling walker and its end, the reduced walker, and the
fault queue (05). -/

set_option Elab.async false

namespace Sys2Proof.Machine

/-- GRADE_T_PERSIST_EXPIRY (R134): the grade T change watched on comparator src has persisted, and is received. -/
def execGradeTPersistExpiry (src : BitVec 8) (s : State) : Host.Outcome State Fault Refusal :=
  match s.fault.persist.find? (fun (p : Nat × Nat × Nat) => p.1 == src.toNat) with
  | some p =>
    let t := s.till p.2.2
    let t := { t with fault := { t.fault with persist := t.fault.persist.filter (fun (q : Nat × Nat × Nat) => q != p) } }
    .next (t.receive (persistFault p.1 p.2.1 2))
  | none => .next s

/-- The trip delay ends, with TRIPO0 to TRIPO3 asserted (R130). -/
def State.tripNow (s : State) : State :=
  let t := s.assertTripo
  { t with walk := { t.walk with tripDue := none } }

/-- GRACE_DELAY_EXPIRY (R130): the walk begins. The trip delay of a grade T shutdown is no longer than the grace delay, so that
TRIPO is asserted by now. -/
def execGraceDelayExpiry (s : State) : Host.Outcome State Fault Refusal :=
  match s.pm.state, s.walk.graceDue with
  | .cooling, some due =>
    let t := s.till due
    let t := if t.walk.tripDue.any (fun d => decide (d ≤ t.clk.now)) then t.tripNow else t
    .next t.walkBegin
  | _, _ => .next s

/-- TRIP_DELAY_EXPIRY (R130, Table 05.6). A delay that a grade T fault in Cooling began outlasts the walk. -/
def execTripDelayExpiry (s : State) : Host.Outcome State Fault Refusal :=
  match s.walk.tripDue with
  | some due => .next (s.till due).tripNow
  | none => .next s

/-- A release of EN n by the walk, recorded in CT_RELEASED (R140). -/
def State.walkRelease (s : State) (mask : Rails) : State :=
  let m := mask &&& s.out.en
  (State.enLow { s with walk := { s.walk with released := s.walk.released ||| m } } m)

/-- The action of an entry, at the present tick, and the walk's next entry (R139), unless a fault of the same tick has switched
the walk to another table (R143). -/
def State.walkAct (s : State) (x : Step64) : State :=
  let n := entRail x
  let t := if entAction x = 2 then s.trimDischarge n else s
  let t := if entAction x = 0 then t else t.walkRelease (one 64 n)
  if t.walk.table ≠ s.walk.table then t
  else { t with walk := { t.walk with waiting := false, entry := t.walk.entry + 1, prev := t.clk.now, due := none } }.walkSeek 66

/-- The entry in progress has come due: its action is taken, or its wait begins (R139). -/
def State.walkDue (s : State) (x : Step64) (due : Nat) : State :=
  if entWait x then
    { s with walk := { s.walk with waiting := true, waitEnd := due + entMaxWait x, demandFrom := due } }
  else s.walkAct x

/-- COOLING_ENTRY_DUE (R139). -/
def execCoolingEntryDue (s : State) : Host.Outcome State Fault Refusal :=
  match s.pm.state, s.walk.waiting, s.walk.due, s.walk.entries[s.walk.entry]? with
  | .cooling, false, some due, some x => .next ((s.till due).walkDue x due)
  | _, _, _, _ => .next s

/-- A reading of the waited input, completed at or after its entry's due tick, is below the level (R139). The walker of the logic die
sees the readings that have come over crossing 1 (R321); the reduced walker stands in the always-on domain (R155). -/
def State.waitMet (s : State) (x : Step64) (due : Nat) : Bool :=
  let i := entInput x
  let r := if s.walk.reduced then s.reading i else s.coreReading i
  r.valid && decide (due ≤ r.time) && decide (s.inputValue i r.code < s.inputValue i (entLevel x))

/-- WAIT_BELOW_MET (R139). -/
def execWaitBelowMet (s : State) : Host.Outcome State Fault Refusal :=
  match s.pm.state, s.walk.waiting, s.walk.due, s.walk.entries[s.walk.entry]? with
  | .cooling, true, some due, some x =>
    if s.waitMet x due ∧ s.clk.now ≤ s.walk.waitEnd then .next (s.walkAct x) else .next s
  | _, _, _, _ => .next s

/-- The wait-timeout shard (Table 07.3): table, entry, input, level and latest reading. -/
def State.waitShard (s : State) (x : Step64) : State :=
  s.capture 0x0A 0
    ([BitVec.ofNat 8 s.walk.table, BitVec.ofNat 8 s.walk.entry, BitVec.ofNat 8 (entInput x), 0]
      ++ leBytes 2 (entLevel x).toNat ++ leBytes 2 (s.reading (entInput x)).code.toNat)

/-- The maximum wait has elapsed (R139). -/
def State.noteTimeout (s : State) : State := { s with walk := { s.walk with waitTimeout := true } }

/-- WAIT_BELOW_TIMEOUT (R139). -/
def execWaitBelowTimeout (s : State) : Host.Outcome State Fault Refusal :=
  match s.pm.state, s.walk.waiting, s.walk.entries[s.walk.entry]? with
  | .cooling, true, some x => .next ((((s.till s.walk.waitEnd).noteTimeout).waitShard x).walkAct x)
  | _, _, _ => .next s

/-- WALKER_CONVERSION_DEMAND (R140): 100 µs have passed since the entry came due or its input was last read. The reduced walker's
readings come on Saggar demand (R155). -/
def execWalkerConversionDemand (s : State) : Host.Outcome State Fault Refusal :=
  match s.walk.active, s.walk.waiting, s.walk.entries[s.walk.entry]? with
  | true, true, some x =>
    let t := s.till (s.walk.demandFrom + 100 * usTicks)
    let t := { t with walk := { t.walk with demandFrom := t.clk.now } }
    .next (t.demand (entInput x) (if t.walk.reduced then .saggar else .walker))
  | _, _, _ => .next s

/-- The sweep: every EN output still asserted is released (R139). -/
def State.sweepAll (s : State) : State :=
  let t := { s with walk := { s.walk with swept := s.walk.swept || s.out.en != 0, sweepDue := none, due := none } }
  t.walkRelease t.out.en

/-- The reply that a reset follows has not been queued yet: it is being signed, or waits for room. -/
def State.resetUnsaid (s : State) : Bool :=
  s.port.signing.any (fun u => resets u.cmd.op u.status.toNat u.payload) || s.port.waiting.any (fun r => r.reset)

/-- A reset that RESET has called for is due (R218). -/
def State.resetIsDue (s : State) : Bool := s.pm.resetDue.any (fun d => decide (d ≤ s.clk.now)) && !s.resetUnsaid

/-- Cooling ends (R146): Ready with cause 0x38; T_OFFMIN starts, and PFW is released if the fault latch is clear (R131). A reset that
has waited for it takes effect in this tick (R218). -/
def State.coolingEnds (s : State) : State :=
  let t := State.irqCt { s with walk := { s.walk with active := false, entry := 64 } } 4
  let t := (t.goTo .ready 0x38).startOffMin
  let t := (if t.pm.faultLatch then t else { t with out := { t.out with pfw := false } }).readyClears
  if t.resetIsDue then t.deviceReset 0x41 4 else t.tryPending

/-- COOLING_SWEEP (R139, R146): the sweep tick, and the end of Cooling in the tick after it. -/
def execCoolingSweep (s : State) : Host.Outcome State Fault Refusal :=
  match s.pm.state, s.walk.sweepDue with
  | .cooling, some due =>
    let t := (s.till due).sweepAll
    .next (if t.pm.state = .cooling ∧ t.walk.sweepDue = none ∧ t.walk.due = none then (t.wait 1).coolingEnds else t)
  | _, _ => .next s

/-- The reduced walk ends with its sweep: every EN output released, every TM at high impedance (R155). -/
def State.reducedSweep (s : State) : State :=
  let t := s.sweepAll.trimsOff
  { t with walk := { t.walk with active := false, entry := 64, reducedDone := true } }

/-- REDUCED_WALK_ENTRY (R155): the next thing the reduced walker does: an entry's action or the start of its wait, the end of a
wait by a reading below its level or by its maximum, or the sweep. -/
def execReducedWalkEntry (s : State) : Host.Outcome State Fault Refusal :=
  if s.pm.state = .coppice ∧ s.walk.reduced ∧ s.walk.active then
    match s.walk.sweepDue, s.walk.due, s.walk.entries[s.walk.entry]? with
    | some due, _, _ => .next (s.till due).reducedSweep
    | none, some due, some x =>
      if s.walk.waiting then
        if s.waitMet x due ∧ s.clk.now ≤ s.walk.waitEnd then .next (s.walkAct x)
        else .next ((s.till s.walk.waitEnd).noteTimeout.walkAct x)
      else .next ((s.till due).walkDue x due)
    | _, _, _ => .next s
  else .next s

/-- FQ_POP (R145): CT_FQ_STATUS.pop is written 1. -/
def execFqPop (s : State) : Host.Outcome State Fault Refusal := .next (s.writeLive .class1 0x60140 (s.contentAt 0x60140 ||| 1))

end Sys2Proof.Machine
end

