-- ==== Sys2Proof/Machine/PipeOps.lean ====
section
/-! DEFINITION. Sys2Proof/Machine/PipeOps.lean: the packet and the stages 1 to 5 of the command pipeline (R203 to R230). -/

set_option Elab.async false

namespace Sys2Proof.Machine

/-! ## The packet (R207 to R209) -/

/-- Every byte is 0. -/
def allZero (l : List Byte) : Bool := l.all (fun b => b == 0)

/-- Bytes of zeros after n bytes, up to a multiple of 4. -/
def pad4 (n : Nat) : Nat := (4 - n % 4) % 4

/-- The signature blocks in the bytes behind the payload, at most k; none where their lengths or zero bytes do not hold (R208). -/
def parseBlocks : Nat → List Byte → Option (List Block)
  | 0, l => if l.isEmpty then some [] else none
  | k + 1, l =>
    if l.isEmpty then some []
    else
      let n := leAt l 2 2
      let size := 4 + n + pad4 n
      if l.length < size || !allZero ((l.drop (4 + n)).take (pad4 n)) then none
      else (parseBlocks k (l.drop size)).map (fun t => ⟨byteAt l 0, byteAt l 1, (l.drop 4).take n⟩ :: t)

/-- The slots that a signer-set mask names. -/
def slotsOf (signers : Byte) : List Nat := bitsOf signers

/-- Slot and algorithm of the blocks that a class requires (Table 08.4), in the order of R208. -/
def wantBlocks (cls : Nat) (signers : Byte) : List (Nat × Nat) :=
  (slotsOf signers).flatMap (fun i => if cls = 1 then [(i, 1)] else [(i, 1), (i, 2)])

/-- Signature length of an algorithm (R208). -/
def sigLength (alg : Nat) : Nat := if alg = 1 then 64 else 3309

/-- The blocks of one part keep Table 08.4. -/
def blocksOk (cls : Nat) (signers : Byte) (l : List Block) : Bool :=
  (l.map (fun b => (b.slot, b.alg)) == wantBlocks cls signers) && l.all (fun b => b.sig.length == sigLength b.alg)

/-- Offset of the blocks of a packet. -/
def bodyEnd (h : List Byte) : Nat := 32 + hdPayLen h + pad4 (hdPayLen h)

/-- A packet whose header has been accepted, as a command (Table 08.3). -/
def packetCmd (ring : Bool) (src : Nat) (p : List Byte) : Cmd :=
  let h := p.take 32
  let l := parseBlocks 16 ((p.take (hdTotal h)).drop (bodyEnd h))
  { ring := ring
    tag := hdTag h
    signReply := hdSign h
    op := BitVec.ofNat 8 (hdOp h)
    cls := hdClass h
    signers := hdSigners h
    counter := hdCounter h
    dest := hdDest h
    payload := (p.drop 32).take (hdPayLen h)
    blocks := l.getD []
    malformed := !(match l with | some b => blocksOk (hdClass h) (hdSigners h) b | none => false)
    header := h
    phase := if hdMore h then .parts else .verifying
    partDue := none
    spoiled := false
    consumed := false
    bcast := false
    src := src
    pcrc := BitVec.ofNat 32 (hdPayCrc h)
    size := hdTotal h }

/-! ## Stage 1 (R204, R213, Table 08.12) -/

/-- Lengths of a complete packet, and its zero bytes (R207). -/
def lengthsOk (p : List Byte) : Bool :=
  let h := p.take 32
  decide (32 ≤ hdTotal h) && decide (hdTotal h ≤ 8192) && decide (hdPayLen h ≤ 8160) && decide (bodyEnd h ≤ hdTotal h)
    && allZero ((p.drop (32 + hdPayLen h)).take (pad4 (hdPayLen h)))

/-- A class 0 packet names no signer and carries no block. -/
def class0Ok (h : List Byte) : Bool := hdClass h != 0 || (hdSigners h == 0 && bodyEnd h == hdTotal h)

/-- The tag cannot be used for a reply: above 95, or in flight on the port. -/
def State.tagTaken (s : State) (ring : Bool) (tag : Nat) : Bool := decide (95 < tag) || (s.cmd? ring tag).isSome

/-- The packet has ended before its last byte (R204). -/
def cutShort (p : List Byte) : Bool := decide (p.length < 32) || decide (p.length < hdTotal (p.take 32))

/-- Stage 1's refusal of a packet, if any: whether the reply takes tag 127, and its status. -/
def State.stage1 (s : State) (ring : Bool) (p : List Byte) : Option (Bool × Nat) :=
  let h := p.take 32
  let taken := s.tagTaken ring (hdTag h)
  if p.length < 32 then some (true, 0x11)
  else if !hdIntact h then some (true, 0x10)
  else if cutShort p || !lengthsOk p || !hdReservedOk h || !class0Ok h then some (taken, 0x11)
  else if 95 < hdTag h then some (true, 0x11)
  else if taken then some (true, 0x30)
  else if hdPayCrc h ≠ (if hdPayLen h = 0 then 0 else crc32c ((p.drop 32).take (hdPayLen h))) then some (false, 0x10)
  else none

/-! ## Stage 2 (R219) -/

/-- Where a command goes. -/
inductive Route where
  | here
  /-- forwarded to a device of the ring -/
  | onward
  | broadcast
  | refuse (status : Nat)
  deriving DecidableEq, Repr

/-- Opcodes that may be broadcast. -/
def mayBroadcast (op : Nat) : Bool := op == 0 || op == 0x40 || op == 0x41 || op == 0x42 || op == 0x47

/-- Commands can enter the ring: it is enumerated, and the root is not in root conflict (R219, R262). -/
def State.ringOpen (s : State) : Bool := s.ring.enumDone && s.ring.state != .conflict

/-- Stage 2. -/
def State.route (s : State) (c : Cmd) : Route :=
  if c.dest = 0 ∨ (c.dest = s.ring.address ∧ s.ring.address ≠ 0) then .here
  else if c.ring then (if c.dest = 4095 ∧ c.bcast then .here else .refuse 0x50)
  else if !s.inp.root then .refuse 0x50
  else if c.dest = 4095 then
    if !mayBroadcast c.op.toNat then .refuse 0x40
    else if s.ring.state = .conflict then .refuse 0x50
    else if s.port.cmds.any (fun d => d.bcast && !d.ring) then .refuse 0x30
    else .broadcast
  else if s.ringOpen && bit s.ring.admittedMap c.dest && !bit s.ring.fencedMap c.dest then .onward
  else .refuse 0x50

/-! ## Stage 3 (Table 08.12, R210, R234, R38) -/

/-- The class of an opcode's range. -/
def rangeClass (op : Nat) : Nat := if op < 0x40 then 0 else if op < 0x80 then 1 else if op < 0xC0 then 2 else 3

/-- The opcodes of Tables 08.6 to 08.10. -/
def knownOp (op : Nat) : Bool :=
  decide (op ≤ 0x06) || (decide (0x20 ≤ op) && decide (op ≤ 0x22)) || op == 0x31 || (decide (0x40 ≤ op) && decide (op ≤ 0x48))
    || (decide (0x80 ≤ op) && decide (op ≤ 0x82)) || op == 0x88 || (decide (0xC0 ≤ op) && decide (op ≤ 0xCA))

/-- An address of R344. -/
def addrOk (a : Nat) : Bool := a % 4 == 0 && decide (a ≤ 0xFFFFFF)

/-- The words of a WRITE_REGS or SAGGAR_WRITE payload. -/
def payWords (p : List Byte) : List (Nat × Word) :=
  (List.range (leAt p 0 2)).map (fun i => (leAt p (4 + 8 * i) 4, BitVec.ofNat 32 (leAt p (8 + 8 * i) 4)))

/-- n steps or entries from byte 8 of a payload. -/
def paySteps (p : List Byte) (n : Nat) : List Step64 :=
  (List.range n).map (fun i => BitVec.ofNat 64 (leAt p (8 + 8 * i) 8))

/-- The Ed25519 key and the ML-DSA-65 key of a key-slot record (Table 08.10). -/
def payEd (p : List Byte) : BitVec 256 := BitVec.ofNat 256 (leAt p 4 32)
def payMl (p : List Byte) : List Byte := (p.drop 36).take 1952

/-- A key-slot record: its slot up to a limit (Table 08.10). -/
def keyRecordOk (p : List Byte) (top : Nat) : Bool :=
  p.length == 1988 && decide (byteAt p 0 ≤ top) && leAt p 2 2 == 0

/-- A role mask of 1 to 7 and a valid Ed25519 key, of KEY_SLOT_WRITE (Table 09.4). Another mask in a TAKE_OWNERSHIP is refused by R235,
and under an invalid key its pair does not verify. -/
def roleOk (p : List Byte) : Bool :=
  decide (1 ≤ byteAt p 1) && decide (byteAt p 1 ≤ 7) && Config.edKeyValid (payEd p)

/-- Length and fields of a WRITE_REGS or SAGGAR_WRITE payload. -/
def wordsOk (p : List Byte) : Bool :=
  let n := leAt p 0 2
  decide (4 ≤ p.length) && decide (1 ≤ n) && decide (n ≤ 128) && p.length == 4 + 8 * n && leAt p 2 2 == 0
    && (payWords p).all (fun w => addrOk w.1)

/-- Length and fields of a PROGRAM_LOAD or SAGGAR_PROGRAM_LOAD payload, its start address up to a limit. -/
def stepsOk (p : List Byte) (top : Nat) : Bool :=
  let n := leAt p 2 2
  decide (8 ≤ p.length) && decide (1 ≤ n) && decide (n ≤ 512) && p.length == 8 + 8 * n && leAt p 4 4 == 0
    && decide (leAt p 0 2 ≤ top)

/-- Length of a table load, whose length field is 0 to 64 (Table 08.9, R210). R141 refuses a load of more than 64 entries in stage 6,
which such a load does not reach (log entry 53). -/
def entriesOk (p : List Byte) : Bool := decide (8 ≤ p.length) && p.length == 8 + 8 * byteAt p 1 && decide (byteAt p 1 ≤ 64)

/-- Positions of a LOG_READ region (R210, Table 07.1). -/
def logSize (region : Nat) : Nat := if region = 1 then 2097152 else if region = 2 then 6160384 else 65536

/-- The payload has the length that its opcode defines, and each field lies in its stated range (R210, R344). -/
def payloadOk (op : Nat) (p : List Byte) : Bool :=
  match op with
  | 0x00 => decide (p.length ≤ 256)
  | 0x02 =>
    let n := leAt p 4 2
    p.length == 8 && addrOk (leAt p 0 4) && decide (1 ≤ n) && decide (n ≤ 1024) && leAt p 6 2 == 0
      && addrOk (leAt p 0 4 + 4 * (n - 1))
  | 0x03 =>
    let r := byteAt p 0
    let n := leAt p 8 2
    p.length == 12 && decide (1 ≤ r) && decide (r ≤ 3) && leAt p 1 3 == 0 && decide (leAt p 4 4 < logSize r)
      && decide (1 ≤ n) && decide (n ≤ if r = 3 then 128 else 8) && leAt p 10 2 == 0
  | 0x04 => p.length == 8 && decide (byteAt p 0 ≤ 3) && leAt p 1 3 == 0
  | 0x22 => p.length == 1 && decide (byteAt p 0 ≤ 63)
  | 0x43 =>
    p.length == 4 && decide (byteAt p 0 ≤ 63) && decide (byteAt p 1 ≤ 2) && decide (byteAt p 2 ≤ 1) && byteAt p 3 == 0
  | 0x46 | 0x47 => p.length == 8
  | 0x48 | 0x88 | 0xC4 | 0xC8 => wordsOk p
  | 0x80 => stepsOk p 65535
  | 0xC5 => stepsOk p 511
  | 0x81 => entriesOk p && decide (byteAt p 0 ≤ 7) && leAt p 2 6 == 0
  | 0xC6 =>
    entriesOk p && decide (1 ≤ byteAt p 0) && decide (byteAt p 0 ≤ 6) && decide (byteAt p 2 ≤ 1)
      && (byteAt p 0 != 6 || byteAt p 2 == 1) && leAt p 3 5 == 0
  | 0xC0 => keyRecordOk p 0
  | 0xC1 => keyRecordOk p 7 && roleOk p
  | 0xC2 => p.length == 4 && decide (byteAt p 0 ≤ 7) && leAt p 1 3 == 0
  | 0xC3 => p.length == 4 && decide (1 ≤ byteAt p 0) && decide (byteAt p 0 ≤ 8) && byteAt p 1 != 0 && leAt p 2 2 == 0
  | 0xC7 => p.length == 960
  | 0xC9 =>
    decide (9 ≤ p.length) && decide (p.length ≤ 4104) && decide (1 ≤ leAt p 2 2) && decide (leAt p 2 2 ≤ 16384)
      && leAt p 4 4 == 0
  | _ => p.isEmpty

/-- The header carries neither signers nor blocks, and is no first part of a split command (R28, Table 08.11). -/
def State.unsigned (c : Cmd) (more : Bool) : Bool :=
  c.signers == 0 && c.blocks.isEmpty && bodyEnd c.header == c.size && !(c.cls == 3 && more)

/-- The refusals of R38 in Starting after a start-up failure, with R243's where the crypto known-answer tests failed. -/
def State.failRefuses (s : State) (op : Nat) : Bool :=
  s.pm.state == .starting && s.pm.failCode != 0 && (s.pm.failCode == 1 || s.pm.katFailed || decide (op < 0xC0))

/-- Stage 3's refusal of a command, if any. -/
def State.stage3 (s : State) (c : Cmd) : Option Nat :=
  let op := c.op.toNat
  let signed := decide (0x40 ≤ op) && decide (op ≤ 0xDF)
  let more := hdMore c.header
  let cont := hdCont c.header
  if signed && State.unsigned c more then some 0x20
  else if signed && !s.sec.owned && op != 0xC0 then some 0x40
  else if signed && s.failRefuses op then some 0x40
  else if !knownOp op then some 0x12
  else if c.cls ≠ rangeClass op then some 0x24
  else if !payloadOk op c.payload then some 0x11
  else if c.cls ≠ 3 && (more || cont) then some 0x11
  else none

/-! ## Signatures (R222 to R227) -/

/-- The command digest D (Table 09.1). -/
def State.digest (s : State) (c : Cmd) : BitVec 512 :=
  sha512 (ascii "SKV6400-CMD" ++ [0]
    ++ (if c.dest = 4095 then List.replicate 16 0xFF else leBytes 16 s.ident.uid.toNat)
    ++ [c.op, BitVec.ofNat 8 c.cls] ++ leBytes 8 c.counter ++ leBytes 2 c.payload.length ++ c.payload)

/-- A block verifies under a pair of public keys (R223). -/
def blockGood (d : BitVec 512) (ed : BitVec 256) (ml : List Byte) (b : Block) : Bool :=
  if b.alg = 1 then Config.edVerify ed d b.sig else Config.mlVerify ml d b.sig

/-- A block verifies: under its slot's keys, or for TAKE_OWNERSHIP under the keys of the payload (R223, R235). -/
def State.verifies (s : State) (c : Cmd) (b : Block) : Bool :=
  let k := nth s.sec.slots b.slot {}
  if c.op = 0xC0 then
    (b.alg != 1 || Config.edKeyValid (payEd c.payload)) && blockGood (s.digest c) (payEd c.payload) (payMl c.payload) b
  else blockGood (s.digest c) k.ed k.mlBytes b

/-- The blocks of a slot that fail: the slot holds keys, and a block does not verify under them (R223, Table 09.2). -/
def State.failedBlocks (s : State) (c : Cmd) (i : Nat) : Nat :=
  if c.op = 0xC0 ∨ (nth s.sec.slots i {}).filled then (c.blocks.filter (fun b => b.slot == i && !s.verifies c b)).length else 0

/-- The slots with a block that fails. -/
def State.failedSlots (s : State) (c : Cmd) : List Nat := (slotsOf c.signers).filter (fun i => decide (0 < s.failedBlocks c i))

/-- The block structure breaks Table 08.4. -/
def Cmd.broken (c : Cmd) : Bool := c.malformed || (c.cls == 2 && (slotsOf c.signers).length != 1)

/-- A slot counts for class 3: filled, with role bit 2, in the eligible mask. -/
def Sec.quorumSlot (x : Sec) (i : Nat) : Bool :=
  let k := nth x.slots i {}
  k.filled && bit k.role 2 && bit x.eligible i

/-- f of R226. -/
def Sec.held (x : Sec) : Nat := ((List.range 8).filter x.quorumSlot).length

/-- Fewer slots are filled for the quorum than it needs (R226). -/
def Sec.bootstrap (x : Sec) : Bool := decide (x.held < x.m)

/-- The slots of a command that are counted (Table 09.2). -/
def State.counted (s : State) (c : Cmd) : List Nat :=
  (slotsOf c.signers).filter (fun i =>
    if c.cls = 3 then s.sec.quorumSlot i else bit (nth s.sec.slots i {}).role (c.cls - 1))

/-- The signers make the class's quorum (Table 09.2, R226). -/
def State.quorate (s : State) (c : Cmd) : Bool :=
  let n := (s.counted c).length
  decide (1 ≤ n) && (c.cls != 3 || decide (min s.sec.m s.sec.held ≤ n))

/-- What of the key table counts signers, as it stands. -/
def Sec.quorum (x : Sec) : Quorum where
  roles := x.slots.map (fun k => if k.filled then k.role else 0)
  eligible := x.eligible
  m := x.m

/-- The slots of a command that a key table counts (Table 09.2). -/
def Quorum.counts (q : Quorum) (c : Cmd) : List Nat :=
  (slotsOf c.signers).filter (fun i =>
    if c.cls = 3 then bit (nth q.roles i 0) 2 && bit q.eligible i else bit (nth q.roles i 0) (c.cls - 1))

/-- They make the class's quorum under it (R226): of class 3 m slots, or every one of those that can count where these are fewer. -/
def Quorum.met (q : Quorum) (c : Cmd) : Bool :=
  let f := ((List.range 8).filter (fun i => bit (nth q.roles i 0) 2 && bit q.eligible i)).length
  let n := (q.counts c).length
  decide (1 ≤ n) && (c.cls != 3 || decide (min q.m f ≤ n))

/-- The counter is above every held counter of some slots, and neither 0 nor all ones (R227). -/
def State.counterAbove (s : State) (c : Cmd) (slots : List Nat) : Bool :=
  c.counter != 0 && c.counter != 0xFFFFFFFFFFFFFFFF && slots.all (fun i => decide ((nth s.sec.slots i {}).counter < c.counter))

/-- Stage 5's refusal of a command, if any (Tables 09.2 and 09.3, R227, R235). -/
def State.stage5 (s : State) (c : Cmd) : Option Nat :=
  let own := c.op == 0xC0
  if c.spoiled || c.broken || c.bad then some 0x21
  else if !own && (slotsOf c.signers).any (fun i => !(nth s.sec.slots i {}).filled) then some 0x21
  else if !own && !s.quorate c then some 0x23
  else if !s.counterAbove c (if own then List.range 8 else s.counted c) then some 0x22
  else none

/-- bad_sig of each named slot grows by its blocks that failed (R230, Table 09.18). -/
def State.countBad (s : State) (c : Cmd) : State :=
  let bad := if c.broken then [] else s.failedSlots c
  { s with sec := { s.sec with slots := s.sec.slots.mapIdx (fun i k =>
    if bad.contains i then { k with badSig := min 255 (k.badSig + s.failedBlocks c i) } else k) } }

/-- Held counters of some slots become c's counter (R227). -/
def State.advance (s : State) (c : Cmd) (slots : List Nat) : State :=
  { s with sec := { s.sec with slots := s.sec.slots.mapIdx (fun i k =>
    if slots.contains i then { k with counter := c.counter } else k) } }

/-- A command passes stage 5 into the execution queue (R215, R216); TAKE_OWNERSHIP's counter is written when it is put in force
(R228). -/
def State.pass5 (s : State) (c : Cmd) : State :=
  let own := c.op == 0xC0
  let t := if own then s else s.advance c (s.counted c)
  let t := t.setCmd { c with
    phase := .queued, consumed := !own, boot := s.sec.bootstrap, counted := s.counted c, table := s.sec.quorum }
  { t with port := { t.port with execq := t.port.execq ++ [(c.ring, c.tag)] } }

/-- Stage 4 of one command ends: its blocks have been verified against the key table in force (R225). -/
def State.verified (s : State) (c : Cmd) : State :=
  (s.countBad c).setCmd { c with phase := .counting, bad := !(s.failedSlots c).isEmpty }

/-- Stage 5 of one command. -/
def State.count5 (s : State) (c : Cmd) : State :=
  match s.stage5 c with
  | some st => s.finish c st []
  | none => s.pass5 c

/-- A signed command that has not left stage 5. -/
def Cmd.before5 (c : Cmd) : Bool := c.phase == .parts || c.phase == .verifying || c.phase == .counting

/-- Stage 5 takes the commands of a port in arrival order, up to the first that is not verified (R215). -/
def State.runStage5 (s : State) (ring : Bool) : Nat → State
  | 0 => s
  | k + 1 =>
    match s.port.cmds.find? (fun c => c.ring == ring && c.before5) with
    | some c => if c.phase = .counting then (s.count5 c).runStage5 ring k else s
    | none => s

/-! ## Arrival -/

/-- A packet was received (Table 08.22). -/
def State.noteReceived (s : State) : State :=
  { s with port := { s.port with received := (s.port.received + 1) % 65536 } }

/-- Bytes beyond a packet (R204). -/
def State.noteFraming (s : State) : State := { s with port := { s.port with framing := inc 255 s.port.framing } }

/-- A command takes its tag. -/
def State.takeIn (s : State) (c : Cmd) : State := { s with port := { s.port with cmds := s.port.cmds ++ [c] } }

/-- A packet refused under tag 127 (R213); a broadcast frame gets no reply. -/
def State.refuse127 (s : State) (ring bcast : Bool) (status : Nat) (h : List Byte) : State :=
  let t := s.countRefusal status
  if bcast then t else t.post127 ring status h

/-- A command to this device passes stage 3: class 0 commands are queued, signed ones go to verification (R215). -/
def State.enter (s : State) (c : Cmd) : State :=
  if c.cls = 0 then
    let t := s.takeIn { c with phase := .queued }
    { t with port := { t.port with execq := t.port.execq ++ [(c.ring, c.tag)] } }
  else s.takeIn { c with partDue := if c.phase = .parts then some (s.clk.now + secondTicks) else none }

/-- A packet of the root's host leaves on the ring in a COMMAND or BROADCAST frame (Table 10.4). -/
def State.forward (s : State) (c : Cmd) (kind src : Nat) (p : List Byte) : State :=
  let f : Fwd := { tag := c.tag, dest := c.dest, due := s.clk.now + secondTicks, cmd := c }
  let fr := { s.ownFrame kind c.dest p with src := BitVec.ofNat 12 src }
  State.sendFrame { s with port := { s.port with fwds := s.port.fwds.filter (fun (g : Fwd) => g.tag != c.tag) ++ [f] } } .a fr

/-- Some other device of the ring takes broadcasts. -/
def State.othersTake (s : State) : Bool :=
  s.ringOpen && ((s.ring.admittedMap &&& ~~~s.ring.fencedMap) &&& ~~~(one 4096 s.ring.address)) != 0
    && (s.linkOpen .a || s.linkOpen .b)

/-- Stages 2 and 3 of a command whose packet has passed stage 1. -/
def State.stage23 (s : State) (c : Cmd) (p : List Byte) : State :=
  let refuse := fun (st : Nat) => (s.takeIn { c with phase := .replying }).finish c st []
  match s.route c with
  | .refuse st => refuse st
  | r =>
    match s.stage3 c with
    | some st => refuse st
    | none =>
      match r with
      | .onward =>
        if s.pm.resetDue.isSome then refuse 0x40 else (s.takeIn { c with phase := .accepted }).forward c 0x01 0 p
      | .broadcast =>
        let b := { c with bcast := true }
        if s.pm.resetDue.isSome then refuse 0x40
        else if s.othersTake then (s.enter b).forward b 0x03 s.ring.address p
        else s.enter b
      | _ => s.enter c

/-- A split command that has been forwarded and whose last part has not arrived. -/
def State.partsOnward (s : State) (c : Cmd) : Bool :=
  !c.ring && c.phase == .accepted && s.port.fwds.any (fun f => f.tag == c.tag && f.cmd.phase == .parts)

/-- The split command awaiting parts that holds a tag (Table 08.15). -/
def State.splitCmd (s : State) (ring : Bool) (tag : Nat) : Option Cmd :=
  match s.cmd? ring tag with
  | some c => if c.phase == .parts || s.partsOnward c then some c else none
  | none => none

/-- The first part whose continuation a packet is (R209). -/
def State.firstPart (s : State) (ring : Bool) (h : List Byte) : Option Cmd :=
  match s.splitCmd ring (hdTag h) with
  | some c =>
    if hdClass h = 3 ∧ c.op.toNat = hdOp h ∧ c.counter = hdCounter h ∧ c.dest = hdDest h ∧ hdPayLen h = 0
        ∧ c.pcrc.toNat = hdPayCrc h then some c else none
  | none => none

/-- A packet with cont = 1 is a continuation: of class 3, or under the tag of a split command awaiting parts (R209, Table 08.15). -/
def State.isCont (s : State) (ring : Bool) (h : List Byte) : Bool :=
  hdCont h && (hdClass h == 3 || (s.splitCmd ring (hdTag h)).isSome)

/-- The command with a continuation's blocks (R209): a slot named in two parts is a malformed signature. -/
def Cmd.join (c d : Cmd) (now : Nat) : Cmd :=
  { c with
    signers := c.signers ||| d.signers
    blocks := c.blocks ++ d.blocks
    malformed := c.malformed || d.malformed || c.signers &&& d.signers != 0
    phase := d.phase
    partDue := if d.phase = .parts then some (c.partDue.getD now) else none
    size := c.size + d.size }

/-- A continuation is taken: at this device, or passed on to the one its first part went to. -/
def State.continue_ (s : State) (c d : Cmd) (p : List Byte) : State :=
  if s.partsOnward c then s.forward { c with phase := d.phase } 0x01 0 p else s.setCmd (c.join d s.clk.now)

/-- Stage 1 of a continuation: sync, lengths, reserved bits (R209). -/
def State.arriveCont (s : State) (ring : Bool) (p : List Byte) : State :=
  let h := p.take 32
  match s.firstPart ring h with
  | some c =>
    if lengthsOk p && hdReservedOk h then s.continue_ c (packetCmd ring c.src p) p else s.refuse127 ring false 0x11 h
  | none => s.refuse127 ring false 0x11 h

/-- A packet arrives on a port: stages 1 to 3. Bytes beyond its total_length are ignored (R204). -/
def State.arrive (s : State) (ring : Bool) (src : Nat) (bcast : Bool) (p : List Byte) : State :=
  let h := p.take 32
  let intact := decide (32 ≤ p.length) && hdIntact h
  let s := if cutShort p && (decide (p.length < 32) || intact) then s else s.noteReceived
  let s := if intact && decide (32 ≤ hdTotal h) && decide (hdTotal h < p.length) then s.noteFraming else s
  let p := if intact && decide (32 ≤ hdTotal h) then p.take (hdTotal h) else p
  if intact && !cutShort p && s.isCont ring h then s.arriveCont ring p
  else
    let c := { packetCmd ring src p with bcast := bcast }
    match s.stage1 ring p with
    | some (true, st) => s.refuse127 ring bcast st h
    | some (false, st) => (s.takeIn { c with phase := .replying }).finish c st []
    | none => s.stage23 c p

end Sys2Proof.Machine
end

