-- ==== Sys2Proof/Machine/Port.lean ====
section
/-! DEFINITION. Sys2Proof/Machine/Port.lean: SPI transactions, the stages of the pipeline that take time, replies, and the reset that
follows RESET (08). -/

set_option Elab.async false

namespace Sys2Proof.Machine

/-! ## SPI transactions (R201 to R206) -/

/-- The logic die is powered, so that the SPI port listens. -/
def State.listens (s : State) : Bool :=
  match s.pm.state with
  | .off | .standby | .coppice => false
  | _ => s.pm.logicPowered

/-- The port status byte (R201). -/
def State.statusByte (s : State) : Byte :=
  BitVec.ofNat 8 ((if s.spirdy then 128 else 0) + (if s.port.replies.isEmpty then 0 else 64) + (if s.hint then 32 else 0))

/-- What a transaction has clocked out. -/
def State.clockOut (s : State) (l : List Byte) : State := { s with port := { s.port with miso := l } }

/-- A WRITE started while SPIRDY is low (R203). -/
def State.noteOverrun (s : State) : State := { s with port := { s.port with overrun := inc 255 s.port.overrun } }

/-- SPI_WRITE (R203, R204, R214): the bytes after the transfer code reach the intake buffer, and pass stages 1 to 3. -/
def execSpiWrite (bytes : List Byte) (s : State) : Host.Outcome State Fault Refusal :=
  if s.listens then
    let t := s.clockOut [s.statusByte]
    if s.spirdy then .next (t.arrive false 0 false bytes) else .next (t.noteOverrun.refuse127 false false 0x30 (bytes.take 32))
  else .next s

/-- The reply to RESET has left the reply buffer, so that the reset is due (R218). -/
def State.resetLeft (s : State) (r : Reply) : State :=
  if r.reset then { s with pm := { s.pm with resetDue := s.pm.resetDue.map (min s.clk.now) } } else s

/-- SPI_READ (R205): the head reply leaves the buffer once it has been clocked out whole. -/
def execSpiRead (count : Nat) (s : State) : Host.Outcome State Fault Refusal :=
  if s.listens then
    match s.port.replies with
    | r :: rest =>
      let t := s.clockOut (s.statusByte :: r.bytes.take count)
      if r.bytes.length ≤ count then .next (State.resetLeft { t with port := { t.port with replies := rest } } r) else .next t
    | [] => .next (s.clockOut (s.statusByte :: zeros count))
  else .next s

/-- SPI_STATUS (R201). -/
def execSpiStatus (s : State) : Host.Outcome State Fault Refusal :=
  if s.listens then .next (s.clockOut (s.statusByte :: leBytes 4 (s.portStatus false).toNat)) else .next s

/-- SPI_UNKNOWN_TRANSFER (R201): 0x00 bytes, for a code of none of the three transfers. -/
def execSpiUnknownTransfer (code : Byte) (count : Nat) (s : State) : Host.Outcome State Fault Refusal :=
  if s.listens && code != 0xA1 && code != 0xA2 && code != 0xA3 then .next (s.clockOut (s.statusByte :: zeros count))
  else .next s

/-! ## Stages 4 and 5 (R209, R214, R215) -/

/-- VERIFICATION_COMPLETE (R214, R225, R49): stage 4 of a command ends, and stage 5 takes the commands of its port in arrival order. -/
def execVerificationComplete (ring : Bool) (tag : BitVec 7) (s : State) : Host.Outcome State Fault Refusal :=
  match s.cmd? ring tag.toNat with
  | some c =>
    if c.phase = .verifying ∧ s.pm.cryptoHeld = false then
      .next ((s.verified c).runStage5 ring 96)
    else .next s
  | none => .next s

/-- PART_TIMEOUT (R209): the last part has not arrived 1 s after the first; the parts that have were verified as they came (R230). -/
def execPartTimeout (ring : Bool) (tag : BitVec 7) (s : State) : Host.Outcome State Fault Refusal :=
  match s.cmd? ring tag.toNat with
  | some c =>
    match c.phase, c.partDue with
    | .parts, some due => .next ((((s.till due).countBad c).finish c 0x23 []).runStage5 ring 96)
    | _, _ => .next s
  | none => .next s

/-! ## Stage 7 (R205, R215, R217, R219, R233) -/

/-- REPLY_SIGNED (R233): the reply at the head of the signing list is signed and leaves, and with it those behind it that need no
signature. -/
def execReplySigned (ring : Bool) (tag : BitVec 7) (s : State) : Host.Outcome State Fault Refusal :=
  match s.port.signing with
  | u :: rest =>
    if u.cmd.ring = ring ∧ u.cmd.tag = tag.toNat then
      let t := State.postSigned { s with port := { s.port with signing := rest } } u
      .next (t.takeFree.flushSigning 192)
    else .next s
  | [] => .next s

/-- REPLY_QUEUED (R205): the reply that has waited longest is queued once it fits. -/
def execReplyQueued (s : State) : Host.Outcome State Fault Refusal :=
  match s.port.waiting with
  | r :: rest =>
    let t := if r.keeps || r.tag == 127 then s else s.dropCmd r.ring r.tag
    if t.port.fits r.bytes.length then
      .next (State.replyOut { t with port := { t.port with waiting := rest, replies := t.port.replies ++ [r] } } r)
    else .next s
  | [] => .next s

/-- The record of a forwarded command, or of a broadcast, is dropped. -/
def State.dropFwd (s : State) (tag : Nat) : State :=
  { s with port := { s.port with fwds := s.port.fwds.filter (fun (f : Fwd) => f.tag != tag) } }

/-- FORWARD_TIMEOUT (R219): no reply has arrived at the root within 1 s; a broadcast that has not come back, likewise, once it has
been executed here. -/
def execForwardTimeout (tag : BitVec 7) (s : State) : Host.Outcome State Fault Refusal :=
  match s.port.fwds.find? (fun f => f.tag == tag.toNat), s.cmd? false tag.toNat with
  | some f, some c =>
    let t := (s.till f.due).dropFwd f.tag
    if !c.bcast then .next (t.finish c 0x50 [])
    else if c.phase = .replying then .next (t.answer c 0x50 [])
    else .next s
  | _, _ => .next s

/-! ## The reset that follows RESET (R218) -/

/-- RESET_TAKES_EFFECT (R218): at once in Ready; in Cooling it waits for the entry to Ready, which `State.coolingEnds` checks. -/
def execResetTakesEffect (s : State) : Host.Outcome State Fault Refusal :=
  match s.pm.resetDue with
  | some due =>
    let t := s.till due
    if s.resetUnsaid then .next s else
    match s.pm.state with
    | .ready => .next (t.deviceReset 0x41 4)
    | .cooling => .next t
    | _ => .next s
  | none => .next s

end Sys2Proof.Machine
end

