-- ==== Sys2Proof/Machine/Crossing.lean ====
section
/-! DEFINITION. Sys2Proof/Machine/Crossing.lean: how a signal, a value, a pulse and a word pass from one clock domain to another (R317 to
R320), cycle by cycle of the destination. The rows of the opcode table tell what has passed a crossing and not its samples, so that
State holds none of these between rows (log entry 62); the count of a pulse crossing decides CK_XING_OVF (Machine/Power.lean). -/

set_option Elab.async false

namespace Sys2Proof.Machine

/-- The domains of Table 12.5. -/
inductive Domain where
  | core | sense | alwaysOn | link | host
  deriving DecidableEq, Repr

/-- Synchroniser depth into a domain (Table 12.5). -/
def Domain.depth : Domain → Nat
  | .core => 3
  | _ => 2

/-! ## One signal (R317) -/

/-- A chain of flip-flops, the newest sample first. -/
abbrev Chain := List Bool

/-- One destination cycle: the source's level enters the chain. A change that lasts from one such cycle to before the next is missed. -/
def Chain.clock (c : Chain) (level : Bool) : Chain := (level :: c).take c.length

/-- What the destination sees. -/
def Chain.seen (c : Chain) : Bool := c.getLast?.getD false

/-! ## A value of more than one bit (R318) -/

/-- A crossing of values: the last sample, the value accepted in the cycle before, the value that is visible, how many consecutive pairs
have disagreed, and whether the crossing has reported an error. -/
structure ValueX (α : Type) where
  last : Option α := none
  next : Option α := none
  visible : α
  disagree : Nat := 0
  error : Bool := false

/-- One destination cycle: a sample that agrees with the one before is accepted, and visible from the next cycle on; the eighth
consecutive pair that disagrees is reported, and sampling goes on. -/
def ValueX.clock {α : Type} [DecidableEq α] (x : ValueX α) (v : α) : ValueX α :=
  let same := x.last == some v
  let run := if same || x.last.isNone then 0 else x.disagree + 1
  { last := some v
    next := if same then some v else none
    visible := x.next.getD x.visible
    disagree := run % 8
    error := x.error || run == 8 }

/-- Destination cycles for which the source holds each value, at least (R318). -/
def ValueX.hold : Nat := 4

/-! ## Pulses (R319) -/

/-- A pulse crossing: the count that the request under way delivers, 0 where none is; the accumulator; and whether pulses have been
lost. -/
structure PulseX where
  request : Nat := 0
  count : Nat := 0
  lost : Bool := false
  deriving DecidableEq, Repr

/-- A pulse arises in the source: it makes a request, or is counted until the acknowledge returns. -/
def PulseX.pulse (x : PulseX) : PulseX :=
  if x.request = 0 then { x with request := 1 }
  else if x.count < 15 then { x with count := x.count + 1 } else { x with lost := true }

/-- n pulses arise. -/
def PulseX.pulses (x : PulseX) : Nat → PulseX
  | 0 => x
  | n + 1 => (x.pulses n).pulse

/-- The acknowledge returns: the destination has acted on the count of the request, and the next request delivers what has been counted
meanwhile. -/
def PulseX.acknowledge (x : PulseX) : PulseX := { x with request := x.count, count := 0 }

/-- A request of one pulse is under way, and none has been counted since. -/
def PulseX.sent : PulseX := { request := 1 }

/-! ## Words (R320) -/

/-- A FIFO between two domains: the words not read, oldest first, each with the destination cycle of its write; whether it
resynchronises; and how many words a resynchronisation has discarded. -/
structure FifoX (α : Type) where
  words : List (α × Nat) := []
  resync : Bool := false
  discarded : Nat := 0

/-- A word is written; one written before a resynchronisation's handshake is complete is discarded and counted. -/
def FifoX.write {α : Type} (x : FifoX α) (w : α) (now : Nat) : FifoX α :=
  if x.resync then { x with discarded := x.discarded + 1 } else { x with words := x.words ++ [(w, now)] }

/-- The word that the destination, of depth d, can read in a cycle: the oldest, d + 1 cycles after its write or later. -/
def FifoX.readable {α : Type} (x : FifoX α) (d now : Nat) : Option α :=
  match x.words with
  | [] => none
  | w :: _ => if w.2 + d + 1 ≤ now then some w.1 else none

/-- The oldest word is read. -/
def FifoX.read {α : Type} (x : FifoX α) : FifoX α := { x with words := x.words.drop 1 }

/-- Either side resets: every unread word is discarded and counted. -/
def FifoX.reset {α : Type} (x : FifoX α) : FifoX α :=
  { words := [], resync := true, discarded := x.discarded + x.words.length }

/-- The acknowledge has reached the reset side: words pass again, and the FIFO is empty. -/
def FifoX.resynced {α : Type} (x : FifoX α) : FifoX α := { x with resync := false }

end Sys2Proof.Machine
end

