-- ==== Sys2Proof/Machine/LogRows.lean ====
section
/-! DEFINITION. Sys2Proof/Machine/LogRows.lean: snapshots, shard writes, the archive copier and the scrub (07). -/

set_option Elab.async false

namespace Sys2Proof.Machine

/-- SNAPSHOT (R181): the time stamp reaches the next multiple of the snapshot period. -/
def execSnapshot (s : State) : Host.Outcome State Fault Refusal :=
  if s.pm.state.logs ∧ s.snapTicks ≠ 0 then .next ((s.tillStamp s.snapTicks).capture 0x01 0 []) else .next s

/-! ## Writing (R57, R182, R183) -/

/-- Drops since the last such report are recorded by a log event (Table 07.8). -/
def State.reportDrops (s : State) : State :=
  let l := s.log
  if l.dropSnaps = 0 ∧ l.dropEvents = 0 then s
  else State.logEvent { s with log := { l with dropSnaps := 0, dropEvents := 0 } } 0x04 2 l.dropSnaps l.dropEvents

/-- The MRAM port has been granted to the archive copier, or to another user (R323). -/
def State.mramUsed (s : State) (copier : Bool) : State :=
  { s with log := { s.log with copierRun := if copier then inc 16 s.log.copierRun else 0 } }

/-- SHARD_COMMIT (R183): the archive's torn report is written first after Ready, else the oldest captured shard. -/
def execShardCommit (s : State) : Host.Outcome State Fault Refusal :=
  if s.pm.state.logs then
    let t := s.mramUsed false
    if t.log.tornFa.isSome then .next t.commitTornFa
    else
      match t.log.buffer with
      | x :: rest => .next (State.commitFr { t with log := { t.log with buffer := rest } } x).reportDrops
      | [] => .next s
  else .next s

/-! ## The archive copier (R188 to R190) -/

/-- The flag of Table 07.4 that a copy's reason sets. -/
def CopyWhy.flag : CopyWhy → Byte
  | .pre => 4
  | .trigger => 8
  | .post => 0x10
  | _ => 0

/-- A copied shard's flags (R188). -/
def Copy.flags (c : Copy) (f : Byte) : Byte :=
  (f &&& 0xC1) ||| c.why.flag ||| (if c.ends.isEmpty then 0 else 2) ||| (if c.ends.isEmpty || !c.truncated then 0 else 0x20)

/-- The window that a copy names: the newest one open, 0 if none (Table 07.2). -/
def State.copyWindow (s : State) (c : Copy) : Nat := if c.why = .kind then s.log.newestOpen else c.window

/-- The windows whose span a copy lies in. -/
def State.copyWindows (s : State) (c : Copy) : List Nat :=
  match c.why with
  | .pre | .trigger => [c.window]
  | .post => s.log.openWins.map Prod.fst ++ c.ends
  | _ => []

/-- The index entry of a window after a copy in its span: archive seq q, whether the copy is a post-fault snapshot. -/
def WinEntry.copied (e : WinEntry) (q : Nat) (pre snap : Bool) : WinEntry :=
  { e with
    first := some (e.first.getD q)
    last := some q
    pre := if pre then e.pre + 1 else e.pre
    post := if snap then e.post + 1 else e.post }

/-- Every window that a copy would have ended ends, truncated, without it. -/
def State.endWithout (s : State) (c : Copy) : State :=
  { s with log := c.ends.foldl (fun (l : Log) i => l.setEntry i (fun e => e.ended true)) s.log }

/-- The seq after the last shard of the window that holds archive seq q, with its id. -/
def State.windowOf (s : State) (q : Nat) : Option (Nat × Nat) :=
  (s.log.index.find? (fun e =>
    match e.2.first, e.2.last with
    | some a, some b => decide (a ≤ q) && decide (q ≤ b)
    | _, _ => false)).map (fun e => (e.2.id, e.2.last.getD q + 1))

/-- Undrained shards are passed over to make space: those of the oldest undrained window, or one (R190). -/
def State.makeSpace (s : State) : State :=
  let q := s.log.drained
  let upTo := match s.windowOf q with
    | some w => w.2
    | none => q + 1
  let l := { s.log with drained := upTo, overwrittenLife := s.log.overwrittenLife + (upTo - q) }
  let l := match s.windowOf q with
    | some w => l.setEntry w.1 (fun e => { e with overwritten := true })
    | none => l
  State.logEvent { s with log := l } 0x03 1 q (upTo - q)


/-- The shard that a copy writes (R188). -/
def Copy.shard (c : Copy) (y : Stored) : Shard := { y.shard with flags := c.flags y.shard.flags }

/-- A copy is written into the archive, and the index entries of its windows follow (R188, R191). -/
def State.makeCopy (s : State) (c : Copy) (y : Stored) : State :=
  let q := s.log.fa.next
  let wins := s.copyWindows c
  let t := s.writeShard 1 (c.shard y) (some y.seq) (s.copyWindow c)
  let snap := c.why == .post && y.shard.kind == 1
  let l := wins.foldl (fun (l : Log) i => l.setEntry i (fun e => e.copied q (c.why == .pre) snap)) t.log
  let l := c.ends.foldl (fun (l : Log) i => l.setEntry i (fun e => e.ended c.truncated)) l
  State.archiveLow { t with log := { l with spans := if c.why = .kind then l.spans else addSpan l.spans y.seq } } s

/-- The captured shard that 512 bytes read back hold; how it is archived was judged at its capture. -/
def Shard.ofBytes (b : List Byte) (x : Shard) : Shard where
  stamp := leAt b 0 8
  kind := b.getD 24 0
  flags := b.getD 25 0
  dstate := b.getD 26 0
  cause := b.getD 27 0
  readings := (b.drop 32).take 224
  channel := (b.drop 256).take 64
  engines := (b.drop 320).take 16
  pwm := (b.drop 336).take 16
  event := (b.drop 352).take 96
  byKind := x.byKind
  trigger := x.trigger

/-- What a read of a shard at a position of region r gives: its uncorrectable words read as free bytes (R197, log entry 7). -/
def State.readShard (s : State) (r p : Nat) (y : Stored) : Stored :=
  if s.log.bad.any (fun b => b.1 == r && b.2.1 == p) then
    let b := y.bytes.mapIdx (fun i x => if s.log.bad.contains (r, p, i / 8) then Config.lostMram r (512 * p + i) else x)
    { y with shard := Shard.ofBytes b y.shard }
  else y

/-- The flight-recorder shard with a seq as the copier reads it. -/
def State.frRead (s : State) (q : Nat) : Option Stored := (s.frPlace q).map (fun e => s.readShard 2 e.1 e.2)

/-- The copier acts on the copy at the head of its list (R188, R190, Table 07.8). A shard with uncorrectable words is copied as it is
read (log entry 64). -/
def State.copyHead (s : State) (c : Copy) (rest : List Copy) : State :=
  let s := { s with log := { s.log with copies := rest } }
  match s.frRead c.origin with
  | none =>
    let l := (s.copyWindows c).foldl (fun (l : Log) i => l.setEntry i (fun e => { e with truncated := true })) s.log
    (State.endWithout { s with log := l } c).logEvent 0x04 2 0 0
  | some y =>
    if 0 < s.freeCount then s.makeCopy c y
    else if bit (s.cfgAt 0x80008) 0 then (s.makeSpace).makeCopy c y
    else State.endWithout { s with log := { s.log with lostLife := s.log.lostLife + 1 } } c

/-- Words that a read has corrected and written back are counted (R197). -/
def State.countCorrected (s : State) (n : Nat) : State :=
  { s with log := { s.log with corrected := incBy 65535 s.log.corrected n } }


/-! ## Scrub (R197) -/

/-- 512-byte blocks of the MRAM (Table 07.1). -/
def mramBlocks : Nat := 8388608

/-- Region and position, or 0 and the address, of an MRAM block. -/
def blockPlace (b : Nat) : Nat × Nat :=
  if b < 0x20000 then (0, 512 * b) else if b < 0x220000 then (1, b - 0x20000) else (2, b - 0x220000)

/-- Bytes of a configuration copy (Table 07.1). -/
def copyBytes : Nat := 0x1400000

/-- A block of configuration copy c has an uncorrectable word (R197): it is rewritten from the two other copies, if they agree; if not,
all three are rewritten from the image in force, if that matches its digest; else the copy no longer holds the image there. -/
def State.rewriteBlock (s : State) (c b : Nat) : State :=
  let others := s.log.stray.filter (fun e => e.2 == b && e.1 != c)
  let stray :=
    if others.isEmpty then s.log.stray.filter (fun e => e != (c, b))
    else if s.imageNow = s.sec.imageDigest then s.log.stray.filter (fun e => e.2 != b)
    else if s.log.stray.contains (c, b) then s.log.stray else s.log.stray ++ [(c, b)]
  { s with log := { s.log with stray := stray } }

/-- An uncorrectable word, of a position of region 1 or 2, or of the configuration region at an address: recorded by a log
event, counted and flagged. A shard stays in place; a block of a configuration copy is rewritten, and a record of the log state block
from its majority, which is the one content State holds of it (R177, R197, log entry 14). -/
def State.lostWord (s : State) (r p : Nat) (w : BitVec 6) : State :=
  let e := (r, p, w.toNat)
  let bad := if r = 0 ∨ s.log.bad.contains e then s.log.bad else s.log.bad ++ [e]
  let t := (State.irqLg { s with log := { s.log with uncorrectable := inc 255 s.log.uncorrectable, bad := bad } } 3).logEvent 0x01
    r r (if r = 0 then p + 8 * w.toNat else p)
  if r = 0 ∧ p < 3 * copyBytes then t.rewriteBlock (p / copyBytes) (p % copyBytes / 512) else t

/-- A block has been read: its corrected words are counted, its uncorrectable ones recorded (R197). -/
def State.blockRead (s : State) (r p : Nat) (f : BlockRead) : State :=
  f.lost.foldl (fun t w => t.lostWord r p w) (s.countCorrected f.corrected)

/-- ARCHIVE_COPY (R188): the pending copy is made, its read correcting so many words and finding others uncorrectable, and the next
one is found; a torn report of the archive goes first (R57). -/
def execArchiveCopy (s : State) (corrected : Nat := 0) (lost : List (BitVec 6) := []) : Host.Outcome State Fault Refusal :=
  if s.pm.state.logs ∧ s.log.tornFa = none then
    let s := s.reach 64
    match s.log.copies with
    | c :: rest =>
      if c.why = .shard then .next s
      else
        let t := (s.mramUsed true).countCorrected corrected
        let t := (s.frPlace c.origin).elim t (fun e => lost.foldl (fun (u : State) w => u.lostWord 2 e.1 w) t)
        .next ((t.copyHead c rest).reach 64)
    | [] => .next s
  else .next s

/-- Ticks between two scrub reads: a pass of all blocks in LG_SCRUB_CFG.period days. -/
def State.scrubTicks (s : State) : Nat :=
  let days := fld (s.cfgAt 0x8000C) 7 0
  (if days = 0 then 7 else days) * 86400 * secondTicks / mramBlocks

/-- SCRUB_READ (R197): the next block is read, when its time has come. -/
def execScrubRead (found : BlockRead) (s : State) : Host.Outcome State Fault Refusal :=
  if s.pm.state.logs then
    let due := s.log.scrubFrom + s.scrubTicks
    let t := (s.till due).mramUsed false
    let b := t.log.scrubBlock
    let wrap := decide (mramBlocks ≤ b + 1)
    let place := blockPlace b
    .next (State.blockRead { t with log := { t.log with
      scrubFrom := due
      scrubBlock := if wrap then 0 else b + 1
      scrubPasses := if wrap then (t.log.scrubPasses + 1) % 256 else t.log.scrubPasses } } place.1 place.2 found)
  else .next s

end Sys2Proof.Machine
end

