-- ==== Sys2Proof/Machine/Power.lean ====
section
/-! DEFINITION. Sys2Proof/Machine/Power.lean: VIN, input collapse and its commit sequence, the start-up stages, the wake path, the loss
of the logic die (01, 02). -/

set_option Elab.async false

namespace Sys2Proof.Machine

/-! ## VIN (R30, R31) -/

/-- VIN_RISES_PAST_4V (R30, Table 01.4): Off to stage 1, with the levels found of the pins that are sampled then. -/
def execVinRisesPast4v (root twjoin twside pb mr : Bool) (s : State) : Host.Outcome State Fault Refusal :=
  if s.pm.state = .off then
    let t := { s with
      inp := { s.inp with root := root, twjoin := twjoin, twside := twside, pb := pb, mr := mr }
      ctl := { s.ctl with mrSince := if mr then some s.clk.now else none, hrstDue := none }
      pm := { s.pm with lastCause := 0, resetCause := 1, vinAlive := true, vinGood := false, vinLow := true }
      clk := { s.clk with aonSeconds := 0, aonPeriods := 0, aonAt := s.clk.now, aonLoaded := false, epochValid := false } }
    .next t.afterReset.updateHrst
  else .next s

/-- VIN_GOOD (R31, R49): the UVLO rising filter ends; a stage 1 that has done its work ends, and a wake path that waited for VIN good
begins. -/
def execVinGood (s : State) : Host.Outcome State Fault Refusal :=
  if s.pm.state = .off then .next s
  else
    let t := { s with pm := { s.pm with vinGood := true, vinLow := false, vinGoodAt := s.clk.now } }
    .next (if t.pm.state = .standby ∧ t.pm.wakeHeld then t.wakeUp else t.leaveStage1)

/-! ## Input collapse (R52 to R55, Table 02.8) -/

/-- VIN is below 7.5 V, and the collapse is noted with an outcome (R62). The always-on domain holds one such record: a later
collapse before the next start at which the log die responds replaces it, so the two count once (log entry 49). -/
def State.noteCollapse (s : State) (outcome : BitVec 2) : State :=
  { s with pm := { s.pm with
      vinGood := false, vinLow := true
      note := some { state := BitVec.ofNat 4 s.pm.state.code, holdReady := s.pm.holdReady, outcome := outcome } } }

/-- The device enters stage 1 after a collapse with the logic die powered: cause 0x40. -/
def State.collapseReset (s : State) : State :=
  let t := s.discardSilent 3
  let t := { t with pm := { t.pm with lastCause := 0x40, resetCause := t.pm.resetCause ||| 2 } }
  t.afterReset.updateHrst

/-- A collapse in Ready, Firing, Running or Cooling: the open shard and the collapse shard join the buffer, which the commit
sequence writes from VHOLD if the log die responds, after an archive copy under way. The PWM pads drive their trip levels until
the hold-up switch opens (Table 02.7, Table 13.1). -/
def State.collapseLive (s : State) (logDie archive : Bool) : State :=
  let shards := s.log.buffer ++ [s.openShard, s.collapseShard s.pm.state.code]
  let t := (s.noteCollapse (if logDie then 2 else 3)).collapseReset
  if logDie then
    { t with
      log := { t.log with
        buffer := shards
        skipFlag := s.log.skipFlag
        archiving := archive
        timeFloor := if s.log.responds then s.clk.stamp else t.log.timeFloor }
      pwm := { t.pwm with pads := s.pwm.pads }
      pm := { t.pm with committing := true } }
  else { t.endWindows with log := { t.endWindows.log with responds := false } }

/-- What a fall of VIN below 7.5 V does in the state found. Windows end with it in every state (Table 07.8). -/
def State.collapse (s : State) (logDie archive : Bool) : State :=
  match s.pm.state with
  | .off => s
  | .standby =>
    let t := (s.noteCollapse 3).endWindows
    { t with out := { t.out with pfw := true, tripo := true } }
  | .coppice =>
    let t := ((s.noteCollapse 3).disable s.out.en).collapseOutputs
    { t with walk := { t.walk with active := false, waiting := false, due := none, sweepDue := none, entry := 64,
                                   released := t.walk.released ||| s.out.en, reducedDone := true } }
  | .starting => if s.pm.stage = 1 then s.noteCollapse 3 else (s.noteCollapse 3).endWindows.collapseReset
  | .ready | .firing | .running | .cooling => s.collapseLive (logDie && s.log.responds) archive

/-- INPUT_COLLAPSE (R52): `logDie` tells whether the log die responds, `archive` whether an archive copy was being written. -/
def execInputCollapse (logDie : Bool) (s : State) (archive : Bool := false) : Host.Outcome State Fault Refusal := .next (s.collapse logDie archive)

/-- Off: nothing runs, every output unpowered (Table 01.3), the test access port too. What is kept is in non-volatile storage (R11, R19); the record of a
collapse that the log has not taken yet is kept for it (R62). Work in flight has ended with the collapse (Table 08.14). -/
def State.enterOff (s : State) : State :=
  let t := State.afterReset { s.endWindows with pm := { s.endWindows.pm with committing := false } }
  { t with
    pm := { t.pm with state := .off, stage := 1, vinAlive := false, vinGood := false, vinLow := true, committing := false,
                      offAfterCommit := false, lastCause := 0 }
    clk := { t.clk with aonSeconds := 0, aonPeriods := 0, aonLoaded := false, epochValid := false }
    ctl := { t.ctl with mrSince := none, hrstDue := none }
    jtag := {} }

/-- The commit sequence has ended with an outcome and the hold-up switch opens: the device goes to Off if VIN has fallen below
4.0 V, else stage 1 may end (R53, R55). -/
def State.commitEnds (s : State) (outcome : BitVec 2) : State :=
  let t := { s with
    pm := { s.pm with
      committing := false
      note := s.pm.note.map (fun (n : CollapseNote) => if n.outcome = 2 then { n with outcome := outcome } else n) }
    pwm := { s.pwm with pads := false }
    log := { s.log with buffer := [], archiving := false } }
  if t.pm.offAfterCommit then t.enterOff else t.leaveStage1

/-- The archive copy that was being written at the collapse is completed (R52). -/
def State.finishCopy (s : State) : State :=
  match s.log.copies with
  | c :: rest => if s.log.archiving && c.why != .shard then s.copyHead c rest else s
  | [] => s

/-- The shards of a list are committed, each window that is open ending at the open shard, the last but one of `all`. -/
def State.commitList (s : State) (l : List Shard) (open_ : Bool) : State :=
  if open_ then
    let t := (l.dropLast.foldl State.commitFr s).endWindows
    (l.drop (l.length - 1)).foldl State.commitFr t
  else (l.foldl State.commitFr s).endWindows

/-- COMMIT_SEQUENCE_END (R53, R55): every buffered shard, the open shard and the collapse shard are committed. -/
def execCommitSequenceEnd (s : State) : Host.Outcome State Fault Refusal :=
  if s.pm.committing then .next ((s.finishCopy.commitList s.log.buffer true).commitEnds 1) else .next s

/-- The 512 bytes that a position of a region holds (R183). -/
def State.slotBytes (s : State) (r p : Nat) : List Byte :=
  match Tab.get? (s.region r).slots p with
  | some (.good y) => y.bytes
  | some (.raw b) => b
  | none => (List.range 512).map (fun i => Config.emptyMram r (512 * p + i))

/-- The write of a shard into region r is cut after some 64-bit words of its first phase (R183). -/
def State.cutWrite (s : State) (r : Nat) (y : Stored) (words : Nat) : State :=
  if words = 0 then s
  else
    let g := s.region r
    let n := min (8 * words) 508
    let b := y.bytes.take n ++ (s.slotBytes r g.pos).drop n
    s.setRegion r { g with slots := Tab.insert g.slots g.pos (.raw b) }

/-- The write of a captured shard into the flight recorder is cut; the recorded write position stays (R183), that of a torn position
too, whose report is still to come (R57). -/
def State.cutShard (s : State) (x : Shard) (words : Nat) : State :=
  let x := if s.log.skipFlag then { x with flags := x.flags ||| 0x80 } else x
  let t := s.skipTorn 2 x
  let u := t.cutWrite 2 (t.store 2 x none 0) words
  u.setRegion 2 { u.region 2 with pos := (s.region 2).pos }

/-- The archive copy that was being written at the collapse is cut. -/
def State.cutCopy (s : State) (words : Nat) : State :=
  match s.log.copies with
  | c :: _ =>
    match s.frRead c.origin with
    | some y => s.cutWrite 1 (s.store 1 (c.shard y) (some y.seq) (s.copyWindow c)) words
    | none => s
  | [] => s

/-- HOLD_UP_FLOOR (R53): `done` shards of the sequence have been committed, and `words` words of the next one written. The
sequence is an archive copy under way, and then the shards of the buffer. -/
def execHoldUpFloor (done words : Nat) (s : State) : Host.Outcome State Fault Refusal :=
  if s.pm.committing then
    let l := s.log.buffer
    let first := if s.log.archiving then 1 else 0
    if l.length + first ≤ done then .next ((s.finishCopy.commitList l true).commitEnds 1)
    else if done < first then .next ((s.endWindows.cutCopy words).commitEnds 2)
    else
      let t := s.finishCopy.commitList (l.take (done - first)) false
      let t := (l.drop (done - first)).head?.elim t (fun x => t.cutShard x words)
      .next (t.commitEnds 2)
  else .next s

/-- VIN_BELOW_4V (R30, R53): Off, once a commit sequence has ended; a collapse not declared yet is declared first. -/
def execVinBelow4v (s : State) : Host.Outcome State Fault Refusal :=
  let t := if s.pm.logicPowered && !s.pm.vinLow then s.collapse true false else s
  if t.pm.committing then
    .next { t with pm := { t.pm with vinAlive := false, vinGood := false, vinLow := true, offAfterCommit := true } }
  else if t.pm.state = .off then .next t
  else .next t.enterOff

/-! ## Start-up stages (Table 02.2) -/

/-- The limit of stages 2 to 5 after the start-up origin, in ticks. -/
def stageLimit : Nat → Nat
  | 2 => 100000
  | 3 => 1600000
  | 4 => 4000000
  | _ => 5000000

/-- The tick at which the present stage is late; none where no limit runs yet (R33). -/
def State.stageDue (s : State) : Option Nat :=
  if s.pm.stage = 1 then
    if s.pm.vinGood then some (max (s.pm.stageEntry + 2 * msTicks) s.pm.vinGoodAt) else none
  else some (s.pm.origin + stageLimit s.pm.stage)

/-- The present stage still works: no failure, or stage 2 after fail code 0x01 (R38). -/
def State.stageOpen (s : State) : Bool :=
  s.pm.state == .starting
    && (if s.pm.stage = 1 then !s.pm.stage1Done
        else if s.pm.stage = 2 then s.pm.failCode == 0 || (s.pm.failCode == 1 && !s.pm.portUp)
        else decide (s.pm.stage ≤ 5) && s.pm.failCode == 0)

/-- The fail code of a late stage 3 or 4, which the spec leaves among several (log entry 7). -/
def State.lateCode (s : State) (l : List Nat) : Nat := nth l ((Config.freeInt s.free).natAbs % l.length) 0

/-- The outcome of the crypto known-answer tests after a failure that a late stage brings, which no row gives: free (log entry 7). -/
def State.lateKat (s : State) : Bool := Config.freeBit s.free

/-- The present stage has not ended by its limit (R33, R38). -/
def State.stageLate (s : State) : State :=
  match s.pm.stage with
  | 1 => (s.startFail 1 true).leaveStage1
  | 2 => if s.pm.failCode = 1 then { s with pm := { s.pm with portUp := true } } else (s.startFail 8 s.lateKat).takeFree
  | 3 => let code := s.lateCode [2, 3, 9]
    (State.startFail { s with log := { s.log with responds := s.log.responds && code != 9 } } code s.lateKat).takeFree
  | 4 => let code := s.lateCode [4, 5, 6, 7]
    (s.startFail code (if code = 4 then false else s.lateKat)).takeFree
  | _ => s.startFail 0x0A true

/-- STARTUP_STAGE_LATE (R33). -/
def execStartupStageLate (s : State) : Host.Outcome State Fault Refusal :=
  if s.stageOpen then
    match s.stageDue with
    | some due => .next (s.till due).stageLate
    | none => .next s
  else .next s

/-- Stage 1 samples the ROOT, TWJOIN and TWSIDE pins (R33, R35, R248); an SKV6400-S reads TWJOIN and TWSIDE as low. -/
def State.samplePins (s : State) (r : StageResult) : State :=
  { s with
    inp := { s.inp with root := r.root, twjoin := r.twjoin, twside := s.ident.variantT && r.twside }
    pm := { s.pm with twjoin := s.ident.variantT && r.twjoin }
    out := { s.out with passive := s.ident.variantT && r.twjoin } }

/-- The copies of the Saggar store that can be loaded, the one marked in force first: their cells read back as they were written, and
their digests hold (R239). -/
def State.goodCopies (s : State) (r : StageResult) : Option SgCopy × Option SgCopy :=
  let a := if s.sec.storeMark then s.sec.copyB else s.sec.copyA
  let b := if s.sec.storeMark then s.sec.copyA else s.sec.copyB
  (if r.sgFirst && a.intact then some a else none, if r.sgSecond && b.intact then some b else none)

/-- The partition is loaded from a copy, which both copies hold then. -/
def State.loadCopy (s : State) (c : SgCopy) : State :=
  let t := { s.loadPart c.part with sgLoaded := true }
  { t with pm := { t.pm with stage1Done := true }, sec := { t.sec with copyA := c, copyB := c } }

/-- Stage 1 (R239): pins sampled, and the partition loaded from the copy in force, or from the other one, which is counted. -/
def State.stage1Work (s : State) (r : StageResult) : State :=
  let s := s.samplePins r
  match s.goodCopies r with
  | (some c, _) => (s.loadCopy c).leaveStage1
  | (none, some c) =>
    (State.loadCopy { s with sec := { s.sec with storeRepair := inc 255 s.sec.storeRepair } } c).leaveStage1
  | (none, none) => (s.startFail 1 true).leaveStage1

/-- Stage 2: the PLL locks; after fail code 0x01 start-up ends here with the port answering (R38). -/
def State.stage2Work (s : State) (r : StageResult) : State :=
  let t := s.pllStart r.refLocked
  if s.pm.failCode = 1 then { t with pm := { t.pm with portUp := true } }
  else { t with pm := { t.pm with stage := 3, stageEntry := s.clk.now } }

/-- The time base without the log's state: from the always-on counts alone (R309); a whole second set there loads the seconds count
(R307). -/
def State.aonTimeBase (s : State) : State :=
  let t := { s with clk := { s.clk with stamp := if s.clk.aonLoaded then s.clk.aonStamp else 0, tbSet := true } }
  if t.clk.stamp % secondTicks = 0 then t.secondReached else t

/-- Two configuration copies have lost the image in one block, so that no two agree there (R36). -/
def Log.split (l : Log) : Bool := l.stray.any (fun e => l.stray.any (fun f => f.2 == e.2 && f.1 != e.1))

/-- Stage 3 (R36, R56, R309). Repaired blocks, those that have lost the image in one copy among them, are counted in
LG_SCRUB_STATUS.corrected (log entry 49). -/
def State.stage3Work (s : State) (r : StageResult) : State :=
  if !r.logDie then (State.aonTimeBase { s with log := { s.log with responds := false } }).startFail 9 r.kat
  else
    let t := { s with log := { s.log with
      responds := true
      corrected := incBy 65535 s.log.corrected (max r.repaired s.log.stray.length) } }
    if !r.majority || s.log.split then t.examineLog.setTimeBase.startFail 2 r.kat
    else if !r.digestOk then t.examineLog.setTimeBase.startFail 3 r.kat
    else
      let t := { t with log := { t.log with stray := [] } }.configLoaded.examineLog.setTimeBase
      { t with pm := { t.pm with stage := 4, stageEntry := t.clk.now } }

/-- A failed swap test of a safety rail's UVF or OVF (Table 02.4). -/
def State.safetyFailed (s : State) (l : List Nat) : Bool :=
  l.any (fun src => decide (src < 256) && s.isSafety (src / 4) && (src % 4 == 0 || src % 4 == 3))

/-- Stage 4 (R37). Of several tests that fail, the first in the order of the codes gives the fail code (log entry 49). -/
def State.stage4Work (s : State) (r : StageResult) : State :=
  let t := s.failCmps r.swapFailed
  if !r.kat then t.startFail 4 false
  else if !r.trng then t.startFail 5 true
  else if !r.convRef then t.startFail 6 true
  else if t.safetyFailed r.swapFailed then t.startFail 7 true
  else t.beginStage5

/-- What stage 5 delivers: the crystal, comparators resolved by crossings, and the readings of the first scan (R41). -/
def State.arming (s : State) (r : StageResult) : State :=
  let live := r.resolved.filter (fun e => decide (e.1 < 256) && s.evaluated e.1)
  let t := (live.foldl (fun (u : State) e => u.observe e.1 e.2) s).senseChange s (live.map Prod.fst)
  let t := r.readings.foldl (fun (u : State) e => u.takeReading e.1 e.2) t
  { t with clk := { t.clk with x32Xtal := t.clk.x32Xtal || (r.xtal && !bit (t.cfgAt 0xC0000) 29) } }

/-- STARTUP_STAGE_COMPLETE (R33): the present stage has done its work; after its limit it is late. -/
def execStartupStageComplete (r : StageResult) (s : State) : Host.Outcome State Fault Refusal :=
  if s.stageOpen then
    if s.stageDue.any (fun due => decide (due < s.clk.now)) then .next s.stageLate
    else
      match s.pm.stage with
      | 1 => .next (s.stage1Work r)
      | 2 => .next (s.stage2Work r)
      | 3 => .next (s.stage3Work r)
      | 4 => .next (s.stage4Work r)
      | _ => .next (s.arming r).enterReady
  else .next s

/-! ## The wake path (R48, R49) -/

/-- WAKE_TIMER_EXPIRY (R48). -/
def execWakeTimerExpiry (s : State) : Host.Outcome State Fault Refusal :=
  match s.pm.state, s.pm.wakeDue with
  | .standby, some due =>
    let t := s.till due
    .next (State.wake { t with pm := { t.pm with wakeDue := none } })
  | _, _ => .next s

/-- The wake path falls back to stages 3 to 5, whose outputs are those of Table 02.3 (R34, R49). -/
def State.wakeFallback (s : State) : State :=
  State.updateHrst { s with
    pm := { s.pm with stage := 3, stageEntry := s.clk.now, wakePath := false, cryptoHeld := false }
    out := { s.out with pfw := true, tripo := true }
    cfgLoaded := false
    sense := { s.sense with fltLevel := 0xFF } }

/-- WAKE_PATH_COMPLETE (R49): the PLL has locked and configuration copy 0 passes its digest check or not; VIN must be good. -/
def execWakePathComplete (copyOk : Bool) (r : StageResult) (s : State) : Host.Outcome State Fault Refusal :=
  if s.pm.state = .starting ∧ s.pm.stage = 8 ∧ s.pm.vinGood then
    let t := s.pllStart r.refLocked
    if copyOk && s.log.stray.all (fun e => e.1 != 0) then
      .next ((t.configLoaded.examineLog.setTimeBase.beginStage5).arming r).enterReady
    else .next t.wakeFallback
  else .next s

/-- WAKE_SELF_TESTS_COMPLETE (R49): the tests after a wake have passed, and the signed commands held are verified; while they
have not, they stay held. -/
def execWakeSelfTestsComplete (pass : Bool) (s : State) : Host.Outcome State Fault Refusal :=
  if s.pm.state.logs && pass then .next { s with pm := { s.pm with cryptoHeld := false } } else .next s

/-- Pulses that the ONREQ and MR filters have ignored, in the always-on domain (R149). -/
def State.shortPulses (s : State) (onreq mr : Nat) : State :=
  { s with ctl := { s.ctl with
    onreqShort := incBy 255 s.ctl.onreqShort onreq
    mrShort := incBy 255 s.ctl.mrShort mr } }

/-- VIN is above 7.5 V again after a dip (R49, log entry 32). -/
def State.vinBack (s : State) (b : Bool) : State := if b then { s with pm := { s.pm with vinLow := false } } else s

/-- The crossings 1 and 2 that have lost a pulse (R319). -/
def lostPulses (x : Seen) : BitVec 16 :=
  (if (PulseX.sent.pulses x.pulses1).lost then one 16 1 else 0) ||| (if (PulseX.sent.pulses x.pulses2).lost then one 16 2 else 0)

/-- What the detectors of the logic die and of the sense die have found since the last measurement (log entry 32). -/
def State.takeSeen (s : State) (x : Seen) : State :=
  (((((s.shortPulses x.onreqShort x.mrShort).gated x.gates).overflowed (lostPulses x)).symbolErrors x.symbolsA
    x.symbolsB).compliance x.compliance).foreignStarts x.busBusy x.sclHigh

/-- VHOLD_AND_VIN_MEASUREMENT (R51, R58): levels in mV, kept in units of 50 mV. With it comes what detectors without a row of
their own have found: in every state but Off the pulses of the always-on domain's filters and VIN above 7.5 V again, wherever the logic die
has a clock the core periods removed (R306) and the pulse crossings, and the rest from stage 5 on. -/
def execVholdAndVinMeasurement (vhold vin : Nat) (s : State) (seen : Seen := { }) : Host.Outcome State Fault Refusal :=
  if s.pm.state.logs || (s.pm.state == .starting && s.pm.stage == 5) then
    let level := min 1023 (vhold / 50)
    .next (State.takeSeen { s with pm := { s.pm with
      vhold := level
      vin := min 1023 (vin / 50)
      holdReady := decide (fld (s.cfgAt 0x10008) 9 0 ≤ level) } } seen)
  else if s.pm.state = .off then .next s
  else
    let t := (s.shortPulses seen.onreqShort seen.mrShort).vinBack seen.vinBack
    .next (if t.clocked then (t.gated seen.gates).overflowed (lostPulses seen) else t)

/-- LOGIC_DIE_LOST (R23): Coppice mode, from any state in which the logic die is powered. -/
def execLogicDieLost (s : State) : Host.Outcome State Fault Refusal :=
  if s.pm.logicPowered ∧ s.pm.state ≠ .off ∧ s.pm.state ≠ .coppice ∧ s.pm.state ≠ .standby then .next s.enterCoppice
  else .next s

end Sys2Proof.Machine
end

