-- ==== Sys2Proof/Machine/Class0.lean ====
section
/-! DEFINITION. Sys2Proof/Machine/Class0.lean: stage 6 of the pipeline, and the class 0 and SKV1200 opcodes (R210, R214, Tables 08.6
and 08.7). -/

set_option Elab.async false

namespace Sys2Proof.Machine

/-! ## Stage 6 (R205, R214) -/

/-- The command at the head of the execution queue, where its opcode is `op` and no final reply waits for room. -/
def State.headOp (s : State) (op : Nat) : Option Cmd :=
  match s.port.execq with
  | e :: _ =>
    match s.cmd? e.1 e.2 with
    | some c => if s.port.waiting.isEmpty && c.op.toNat == op then some c else none
    | none => none
  | [] => none

/-- The command at the head of the execution queue is executed; while a reset awaits its effect it is refused (R218). -/
def State.execute (s : State) (op : Nat) (f : Cmd → State) : State :=
  match s.headOp op with
  | some c => if s.pm.resetDue.isSome then s.finish c 0x40 [] else f c
  | none => s

/-- A command is done, with status OK. -/
def State.ok (s : State) (c : Cmd) (payload : List Byte) : State := s.finish c 0 payload

/-- A command is refused in stage 6. -/
def State.refuse (s : State) (c : Cmd) (status : Nat) : State := s.finish c status []

/-! ## Class 0 (Table 08.6) -/

/-- NOP (R210). -/
def execNopCmd (s : State) : Host.Outcome State Fault Refusal := .next (s.execute 0x00 (fun c => s.ok c c.payload))

/-- ID_DEVICE's variant and stepping codes (R351). -/
def State.variantCode (s : State) : Byte := if s.ident.variantT then 0x54 else 0x53
def State.steppingCode (s : State) : Byte := if s.ident.steppingA1 then 0xA1 else 0xA0

/-- The reply payload of IDENTIFY. -/
def State.identity (s : State) : List Byte :=
  leBytes 16 s.ident.uid.toNat ++ [s.variantCode, s.steppingCode, BitVec.ofNat 8 s.pm.state.code, 0]
    ++ leBytes 2 s.ring.address ++ leBytes 2 (if s.twin.address = 0 then 0xFFFF else s.twin.address)
    ++ digestBytes s.sec.ownerFp ++ zeros 8

/-- IDENTIFY (R210). -/
def execIdentify (s : State) : Host.Outcome State Fault Refusal := .next (s.execute 0x01 (fun c => s.ok c s.identity))

/-- The words of a READ_REGS (R346). -/
def State.readWords (s : State) (a n : Nat) : List Byte :=
  (List.range n).flatMap (fun i => leBytes 4 (s.readWord (a + 4 * i)).toNat)

/-- An address lies in the range of a READ_REGS. -/
def inRange (a n x : Nat) : Bool := decide (a ≤ x) && decide (x < a + 4 * n)

/-- The side effect of a READ_REGS (R325): CK_TIME_LO captures the upper half of the time base, which the next read of CK_TIME_HI
delivers. -/
def State.afterRead (s : State) (a n : Nat) : State :=
  let t := if inRange a n 0xC0010 then s.captureHi else s
  if inRange a n 0xC0014 then { t with port := { t.port with hiCapture := none } } else t

/-- READ_REGS (R346): a range that holds CK_TIME_LO and CK_TIME_HI samples both in one tick. -/
def execReadRegs (s : State) : Host.Outcome State Fault Refusal :=
  .next (s.execute 0x02 (fun c =>
    let a := leAt c.payload 0 4
    let n := leAt c.payload 4 2
    let seen := if inRange a n 0xC0010 then s.captureHi else s
    (s.afterRead a n).ok c (seen.readWords a n)))

/-- The read status of a position (Table 07.6). -/
def State.readStatus (s : State) (r p : Nat) : Nat :=
  if !s.log.responds || s.log.bad.any (fun b => b.1 == r && b.2.1 == p) then 3
  else match Tab.get? (s.region r).slots p with
    | none => 2
    | some (.raw b) => if rawTorn b then 1 else 0
    | some (.good y) => if r = 1 ∧ y.seq < s.log.drained then 4 else 0

/-- The bytes of a position as a read delivers them. Those of an uncorrectable word, and all of them where the log die does not
respond, are not stated (log entry 7). -/
def State.readBytes (s : State) (r p : Nat) : List Byte :=
  (s.slotBytes r p).mapIdx (fun i b =>
    if !s.log.responds || s.log.bad.contains (r, p, i / 8) then Config.lostMram r (512 * p + i) else b)

/-- One position in a LOG_READ reply. -/
def State.readSlot (s : State) (r p : Nat) : List Byte :=
  [BitVec.ofNat 8 (s.readStatus r p), 0, 0, 0] ++ s.readBytes r p

/-- A window index entry (Table 07.7), which is written when the window opens and again when it ends (R191). -/
def WinEntry.bytes (e : WinEntry) : List Byte :=
  let f := fun (b : Bool) (i : Nat) => if b then 2 ^ i else 0
  let done := fun (n : Nat) => if e.open_ then 0 else n
  leBytes 4 e.id ++ leBytes 4 (f e.open_ 0 + f e.complete 1 + f e.truncated 2 + f e.overwritten 3 + f e.drained 4)
    ++ leBytes 8 e.trigger ++ leBytes 4 (done (e.first.getD 0)) ++ leBytes 4 (done (e.last.getD 0)) ++ leBytes 2 (done e.pre)
    ++ leBytes 2 (done e.post) ++ [e.cause, e.grade] ++ zeros 2

/-- Entry i of the window index; one never written holds what the MRAM held (log entry 7). -/
def State.indexBytes (s : State) (i : Nat) : List Byte :=
  match Tab.get? s.log.index i with
  | some e => e.bytes
  | none => (List.range 32).map (fun k => Config.emptyMram 3 (32 * i + k))

/-- The reply payload of LOG_READ; positions wrap at the region size. -/
def State.logPayload (s : State) (p : List Byte) : List Byte :=
  let r := byteAt p 0
  (List.range (leAt p 8 2)).flatMap (fun i =>
    let q := (leAt p 4 4 + i) % logSize r
    if r = 3 then s.indexBytes q else s.readSlot r q)

/-- The MRAM block behind a position of region r of LOG_READ: region and position, or 0 and the address of the block that holds a
window index entry (Table 07.1, R191). -/
def logPlace (r q : Nat) : Nat × Nat := if r = 3 then (0, 0x03E00000 + 32 * q / 512 * 512) else (r, q)

/-- The blocks of a LOG_READ have been read, with what each read found (R197). -/
def State.logBlocks (s : State) (p : List Byte) (found : List BlockRead) : State :=
  if s.log.responds then
    ((found.take (leAt p 8 2)).zipIdx).foldl (fun t e =>
      let b := logPlace (byteAt p 0) ((leAt p 4 4 + e.2) % logSize (byteAt p 0))
      t.blockRead b.1 b.2 e.1) s
  else s

/-- LOG_READ (R186): each block's read corrects and records what it finds. -/
def execLogRead (s : State) (found : List BlockRead := []) : Host.Outcome State Fault Refusal :=
  .next (s.execute 0x03 (fun c =>
    let t := s.logBlocks c.payload found
    t.ok c (t.logPayload c.payload)))

/-- GET_CERT (R232). -/
def execGetCert (s : State) : Host.Outcome State Fault Refusal :=
  .next (s.execute 0x04 (fun c =>
    let l := s.cert (byteAt c.payload 0)
    s.ok c (leBytes 4 l.length ++ (l.drop (leAt c.payload 4 4)).take 4096)))

/-- The flags of TIME_READ. -/
def Clk.timeFlags (c : Clk) : Byte :=
  BitVec.ofNat 8 ((if c.mode = .slewing then 1 else 0) + (if c.mode = .holdover then 2 else 0)
    + (if c.following = 1 then 4 else 0) + (if c.following = 2 then 8 else 0))

/-- TIME_READ (R210). -/
def execTimeRead (s : State) : Host.Outcome State Fault Refusal :=
  .next (s.execute 0x05 (fun c => s.ok c (leBytes 8 s.clk.stamp ++ [s.clk.timeFlags] ++ zeros 7)))

/-- The reply payload of QUEUE_STATUS. -/
def State.queueStatus (s : State) : List Byte :=
  leBytes 4 (s.portStatus false).toNat
    ++ [(false, 0), (false, 1), (false, 2), (true, 0), (true, 1), (true, 2)].flatMap (fun (q : Bool × Nat) =>
      leBytes 4 (s.tagMap q.1 q.2).toNat)

/-- QUEUE_STATUS (R210). -/
def execQueueStatus (s : State) : Host.Outcome State Fault Refusal := .next (s.execute 0x06 (fun c => s.ok c s.queueStatus))

/-! ## SKV1200 reads (Table 08.7) -/

/-- SKV1200_ID (R28). -/
def execSkv1200Id (s : State) : Host.Outcome State Fault Refusal :=
  .next (s.execute 0x20 (fun c => s.ok c ([0x00, 0x64, 64, s.steppingCode] ++ zeros 4)))

/-- SKV1200_STATUS (R28). -/
def execSkv1200Status (s : State) : Host.Outcome State Fault Refusal :=
  .next (s.execute 0x21 (fun c =>
    s.ok c ([BitVec.ofNat 8 ((if s.out.en = 0 then 0 else 1) + (if s.pm.faultLatch then 2 else 0) + (if s.out.pfw then 4 else 0)
      + (if s.pm.state = .running then 8 else 0))] ++ zeros 3)))

/-- A rail's latest reading in mV, rounded toward zero (Table 03.2, Table 08.7). -/
def State.railMv (s : State) (n : Nat) : Int :=
  let x := (((s.reading n).code.toNat : Int) - 4096) * (if bit (s.cfgAt (0x20000 + 0x100 * n)) 0 then 4 else 1)
  Int.tdiv x 10

/-- The reply payload of SKV1200_RAIL. -/
def State.skvRail (s : State) (n : Nat) : List Byte :=
  let got := (s.reading n).valid
  leBytes 2 (BitVec.ofInt 16 (if got then s.railMv n else 0)).toNat
    ++ [BitVec.ofNat 8 (fld (s.chStatus n) 11 8), if got then 0 else 1]

/-- SKV1200_RAIL (R28). -/
def execSkv1200Rail (s : State) : Host.Outcome State Fault Refusal :=
  .next (s.execute 0x22 (fun c => s.ok c (s.skvRail (byteAt c.payload 0))))

/-- SKV1200_FIRST_FAULT (R196). -/
def execSkv1200FirstFault (s : State) : Host.Outcome State Fault Refusal :=
  .next (s.execute 0x31 (fun c => s.ok c s.fault.bisque.bytes))

end Sys2Proof.Machine
end

