-- ==== Sys2Proof/Machine/CmdOps.lean ====
section
/-! DEFINITION. Sys2Proof/Machine/CmdOps.lean: what the signed opcodes share: register writes by command, the configuration shard, and
the confirmation path (R211, R241, R242, R348, Table 07.3). -/

set_option Elab.async false

namespace Sys2Proof.Machine

/-! ## Configuration shard (Table 07.3) -/

/-- The rail whose registers an address belongs to, at B(n) or M(n). -/
def railOf (a : Nat) : Option Nat :=
  if regAt a = none then none
  else if 0x20000 ≤ a ∧ a < 0x24000 then some ((a - 0x20000) / 0x100)
  else if 0x70000 ≤ a ∧ a < 0x70800 then some ((a - 0x70000) / 0x20)
  else none

/-- The object index of a WRITE_REGS or SAGGAR_WRITE. -/
def wordsObject (l : List (Nat × Word)) : Nat :=
  match l with
  | [] => 0xFFFF
  | w :: _ =>
    match railOf w.1 with
    | some n => if l.all (fun x => railOf x.1 == some n) then n else 0xFFFF
    | none => 0xFFFF

/-- The event record of a configuration shard. -/
def cfgEvent (c : Cmd) (object : Nat) (before after : Digest) : List Byte :=
  [c.op, c.signers] ++ leBytes 2 object ++ zeros 4 ++ digestBytes before ++ digestBytes after

/-- A configuration shard is captured. -/
def State.cfgShard (s : State) (c : Cmd) (object : Nat) (before after : Digest) : State :=
  s.capture 0x07 0 (cfgEvent c object before after)

/-- The shard of a command whose digests are those of the configuration image, `old` being the state before it. -/
def State.imageShard (s old : State) (c : Cmd) (object : Nat) : State :=
  s.cfgShard c object old.sec.imageDigest s.sec.imageDigest

/-- The reply payload that carries the image digest. -/
def State.imageReply (s : State) : List Byte := digestBytes s.sec.imageDigest

/-! ## The confirmation path (R241, R242) -/

/-- A confirmation has failed: nothing is written. -/
def State.confirmFails (s : State) (c : Cmd) : State :=
  State.refuse { s with sec := { s.sec with confirmFail := inc 255 s.sec.confirmFail } } c 0x7F

/-- The sense die confirms a command (R241, R242): it recomputes D, which is the digest that the verdict lines report; they report
every slot counted as verified; the signers, recounted, make the quorum under the table that was in force at the command's stage 5 (Table
09.3, log entry 52); and its bank holds the counter just advanced, or a later one. Of TAKE_OWNERSHIP: the pair under the payload's
keys, and a counter above every held one; R235's conditions are those under which the opcode executes. -/
def State.confirms (s : State) (c : Cmd) (k : Confirm) : Bool :=
  k.digest == s.digest c &&
    (if c.op = 0xC0 then bit k.verified 0 && s.counterAbove c (List.range 8)
     else c.table.met c && (c.table.counts c).all (fun i => bit k.verified i)
       && c.counted.all (fun i => decide (c.counter ≤ (nth s.sec.slots i {}).counter)))

/-- A change goes through the confirmation path (R241, R242); where it changes nothing that the path guards, nothing can fail. -/
def State.confirmed (s : State) (c : Cmd) (needed : Bool) (k : Confirm) (f : State) : State :=
  if needed && !s.confirms c k then s.confirmFails c else f

/-! ## Register writes by command (R9, R211, R348) -/

/-- The words of a command are written. A class 2 or 3 command writes its configuration shard and replies with the image digest. What
follows from the words comes after the reply is decided, since the command is complete in that tick (R211). -/
def State.doWords (s : State) (c : Cmd) (l : List (Nat × Word)) : State :=
  let e := s.writeAll l
  let t := if changedCfg e.2 then e.1.newImage else e.1
  let t := if c.cls = 1 then t.ok c [] else (t.imageShard s c (wordsObject l)).ok c t.imageReply
  t.writesFollow e.2

/-- WRITE_REGS and SAGGAR_WRITE (R348). -/
def State.writeRegs (s : State) (c : Cmd) (k : Carrier) (confirm : Confirm) : State :=
  let l := payWords c.payload
  match s.judgeWords k l with
  | some st => (s.countRefused k l st).refuse c st
  | none => s.confirmed c (changedCfg (s.writeAll l).2) confirm (s.doWords c l)

/-! ## States in which an opcode is accepted -/

/-- Ready or Running. -/
def State.readyOrRunning (s : State) : Bool := s.pm.state == .ready || s.pm.state == .running

/-- Starting after a start-up failure, where a class 3 command of Table 09.6 is accepted. -/
def State.failedStart (s : State) : Bool := s.pm.state == .starting && s.pm.failCode != 0

end Sys2Proof.Machine
end

