-- ==== Sys2Proof/Machine/Class1.lean ====
section
/-! DEFINITION. Sys2Proof/Machine/Class1.lean: the class 1 opcodes (Table 08.8), and register writes told as rows of their own. -/

set_option Elab.async false

namespace Sys2Proof.Machine

/-! ## Requests (R148) -/

/-- An ON command in Ready or Cooling with the fault latch clear (Table 05.8, R272). -/
def State.onAccepted (s : State) (c : Cmd) : State :=
  if s.twin.hand.holds || s.mayFire || !s.discardPending then (s.ok c []).onArises 0x12
  else (if s.onJoins.isSome then s else s.mirror 1 0x12).refuse c 0x40

/-- An ON command in the tick in which another on request has started firing is one request with it (R147). -/
def State.onFired (s : State) : Bool := s.pm.state == .firing && s.onJoins.isSome

/-- ON (R148). -/
def execOnCmd (s : State) : Host.Outcome State Fault Refusal :=
  .next (s.execute 0x40 (fun c =>
    if s.onFired then (s.ok c []).onArises 0x12
    else if (s.pm.state = .ready ∨ s.pm.state = .cooling) ∧ s.pm.faultLatch = false then s.onAccepted c
    else (if s.onJoins.isSome then s else s.mirror 1 0x12).refuse c 0x40))

/-- OFF (R148). It is decided before the shutdown that it may start, so that it completes with OK (R217). -/
def execOffCmd (s : State) : Host.Outcome State Fault Refusal :=
  .next (s.execute 0x41 (fun c => ((s.mirror 2 0x22).ok c []).offRequest 0x22 none))

/-! ## CLEAR (R154) -/

/-- A cause of grade T or H is still active. -/
def State.tripPersists (s : State) : Bool :=
  (List.range 256).any (fun x => decide (2 ≤ s.cmpGrade x) && s.armed x && (s.cmp x).out)
    || (s.inp.tripi != 0 && decide (2 ≤ fld (s.causeCfg 1) 5 4))
    || (s.inp.overTemp != 0 && decide (2 ≤ fld (s.causeCfg 2) 5 4))

/-- The fault latch is cleared: PFW and TRIPO are released (R131), and a trip delay still running ends (log entry 51). -/
def State.clearLatch (s : State) : State :=
  let t := s.releaseTrips
  { t with pm := { t.pm with faultLatch := false }, walk := { t.walk with tripDue := none } }

/-- The ONREQ level is evaluated after a clear (R19). -/
def State.onreqLevel (s : State) : State :=
  if s.onreqEn && s.inp.onreq then s.onArises 0x10 else s

/-- CLEAR (R154). -/
def execClearCmd (s : State) : Host.Outcome State Fault Refusal :=
  .next (s.execute 0x42 (fun c =>
    if s.pm.state ≠ .ready then s.refuse c 0x40
    else if s.tripPersists then s.refuse c 0x41
    else (s.clearLatch.ok c []).onreqLevel))

/-! ## MARGIN (R164, R287) -/

/-- A margin command on the PMBus path. -/
def State.marginPmbus (s : State) (c : Cmd) (n level : Nat) : State :=
  if 4 ≤ (s.port2 (s.pmbPort n)).commands then s.refuse c 0x30
  else
    match s.seqBlocked n with
    | some r =>
      let t := if r = 0 then s else s.setTw (s.pmbPort n) (fun p => { p with lastResult := r })
      let t := t.setPmb n 2
      t.ok c (t.marginReply n)
    | none =>
      (s.accept c).startSeq
        { rail := n, level := level, engine := none, cmd := some (c.ring, c.tag), done := 0, ending := false }

/-- MARGIN (R164). -/
def execMarginCmd (s : State) : Host.Outcome State Fault Refusal :=
  .next (s.execute 0x43 (fun c =>
    let n := byteAt c.payload 0
    let level := byteAt c.payload 1
    if s.pm.state ≠ .running ∨ s.mg.sweep.rail = some n then s.refuse c 0x40
    else if byteAt c.payload 2 = 0 then
      let t := s.marginTrim n level
      t.ok c (t.marginReply n)
    else s.marginPmbus c n level))

/-! ## STANDBY (R21, R47, R218) -/

/-- STANDBY's conditions: Ready, no request pending or held, the twin in Ready or Standby, and no other command in flight. -/
def State.mayStandby (s : State) (c : Cmd) : Bool :=
  s.pm.state == .ready && s.pm.onPending.isNone && s.twin.heldOn.isEmpty
    && (s.twin.state != .co || s.twin.peer == 1 || s.twin.peer == 3)
    && s.port.cmds.all (fun d => d.ring == c.ring && d.tag == c.tag)

/-- PM_WAKE_CFG.wake_timer: the tick at which it ends, none where it is 0. -/
def State.wakeTimer (s : State) : Option Nat :=
  let n := fld (s.cfgAt 0x10018) 31 16
  if n = 0 then none else some (s.clk.now + n * secondTicks)

/-- The clocks of the logic die stop and its time base holds 0 until the wake sets it again (R47, R309, Table 12.3); counts, and what
the always-on domain keeps, stay. -/
def Clk.powerDown (c : Clk) : Clk :=
  { c with
    pllLocked := false, corePll := false, pllRefRc := false, refOk := false, ratioValid := false, relock := none
    retryDue := none, stamp := 0, tbSet := false, mode := .free, following := 0, errs := [], rate := 0, slewLeft := 0
    slot := 0, rateAcc := 0, rcPhase := 0, refBack := false, lastTsync := none, tsyncRun := 0, lastEvent := none, stopped := 0
    outs := c.outs.map (fun (o : ClkOut) => { o with running := false, pending := 0 }) }

/-- A Garura port without its logic die: no link. -/
def GLink.powerDown (l : GLink) : GLink := { l with locked := false, up := false, wrapped := false }

/-- The ring as Standby leaves it: the device takes no part, keeps its record and rejoins after the wake (R21, R259). -/
def Ring.powerDown (r : Ring) : Ring :=
  { r with
    linkA := r.linkA.powerDown, linkB := r.linkB.powerDown, state := .noLink, address := 0, tokenSeen := none, enum := none
    enumDone := false, horns := [], hornWindow := 0, hornWord := 0, tx := [], txHorns := [], joinDue := none, timeDue := none
    heard := [] }

/-- The twin's supervision as Standby leaves it. -/
def Twin.powerDown (w : Twin) : Twin :=
  { w with
    state := .off, mismatch := false, mismatchRun := 0, missed := 0, hbDue := none, peer := 0, hand := .none, heldOn := []
    seekDue := none, seekFrom := none, rxStops := [], peerSolo := false, address := 0, uid := 0 }

/-- The logic and log dies are powered down (R47). Standby is no reset (R44): records, counters, interrupt bits, the fault queue, the
engines and what VHOLD was last measured at stay (log entry 49), and what is at work on these dies ends (log entry 30). A grade T
change that waits out its persist time is dropped, received neither as T nor as W: the spec does not say what becomes of it, and this is
the model's choice (log entry 58). -/
def State.diesOff (s : State) : State :=
  { s with
    clk := s.clk.powerDown
    pm := { s.pm with
      state := .standby, logicPowered := false, portUp := false, offMinDue := none, wakeDue := s.wakeTimer, held := [] }
    out := { s.out with en := 0, enpu := false, twok := false }
    ctl := { s.ctl with pbSinceStage1 := false, lastOn := none }
    fault := { s.fault with persist := [] }
    mg := { s.trimsOff.mg with sweep := { s.mg.sweep with active := false, rail := none, cycleDue := none } }
    port := { s.port with
      cmds := [], execq := [], replies := [], signing := [], waiting := [], fwds := [], miso := [], hiCapture := none, image := none }
    sec := { s.sec with windowDue := none }
    ring := s.ring.powerDown
    twin := s.twin.powerDown
    tw := s.tw.map (fun (p : TwPort) =>
      { p with queue := [], activity := 0, busy := false, retries := 0, clearPending := false })
    twEnded := []
    pwm := { s.pwm with
      pads := false, loadAll := false, so := none
      chs := s.pwm.chs.map (fun (h : PwmCh) => { h with running := false, await := false, due := false, out := false, dead := none }) }
    frozen := none }

/-- Entry to Standby (R47): the transition shard and every shard that waits are written first (R181); comparators go to mode Z. -/
def State.enterStandby (s : State) : State :=
  let t := (s.goTo .standby 0x03).flushBuffer
  t.diesOff.quietDown t

/-- STANDBY (Table 01.4). Its reply, queued with the logic die's power lost, is lost with it (R218). -/
def execStandbyCmd (s : State) : Host.Outcome State Fault Refusal :=
  .next (s.execute 0x44 (fun c => if s.mayStandby c then s.enterStandby else s.refuse c 0x40))

/-! ## RESET (R44, R218) -/

/-- A reset is awaited: its tick counts from the queueing of the reply. -/
def State.awaitReset (s : State) : State := { s with pm := { s.pm with resetDue := some s.clk.now } }

/-- RESET (R44, R218). -/
def execResetCmd (s : State) : Host.Outcome State Fault Refusal :=
  .next (s.execute 0x45 (fun c => if s.pm.state = .ready then s.awaitReset.ok c [] else s.refuse c 0x40))

/-! ## DRAIN (R193) -/

/-- The first undrained seq may become n. -/
def State.mayDrain (s : State) (n : Nat) : Bool :=
  s.pm.state.logs && decide (s.log.drained ≤ n) && decide (n ≤ s.log.fa.next)
    && s.log.index.all (fun e => !e.2.open_ || e.2.first.all (fun q => decide (n ≤ q)))

/-- A closed entry whose last copy lies below n is drained. -/
def WinEntry.drainTo (e : WinEntry) (n : Nat) : WinEntry :=
  { e with drained := e.drained || (!e.open_ && e.last.any (fun q => decide (q < n))) }

/-- Archive shards below n are drained, with the drain shard. -/
def State.drainTo (s : State) (signers : Byte) (n : Nat) : State :=
  State.capture { s with log := { s.log with
      drained := n, index := s.log.index.map (fun (e : Nat × WinEntry) => (e.1, e.2.drainTo n)) } } 0x0C 0
    ([signers] ++ zeros 7 ++ leBytes 8 n ++ leBytes 8 s.log.drained)

/-- DRAIN (R193). -/
def execDrainCmd (s : State) : Host.Outcome State Fault Refusal :=
  .next (s.execute 0x46 (fun c =>
    let n := leAt c.payload 0 8
    if s.mayDrain n then (s.drainTo c.signers n).ok c (leBytes 8 n) else s.refuse c 0x40))

/-! ## TIME_SET (R312) -/

/-- The time base is set to a target. -/
def State.setTime (s : State) (v : Nat) : State :=
  let m := if s.clk.mode = .stepPending ∨ s.clk.mode = .ahead then TbMode.tracking else s.clk.mode
  (State.stepTo { s with clk := { s.clk with mode := m, epochValid := true, stepCount := inc 255 s.clk.stepCount } } v).irqCk 6

/-- TIME_SET (R312). -/
def execTimeSet (s : State) : Host.Outcome State Fault Refusal :=
  .next (s.execute 0x47 (fun c =>
    let v := leAt c.payload 0 8
    if s.pm.state.logs = false ∨ v < s.clk.stamp then s.refuse c 0x40
    else
      let t := s.setTime v
      t.ok c (leBytes 8 t.clk.stamp)))

/-! ## Register writes (R348) -/

/-- WRITE_REGS of class 1. -/
def execWriteRegsClass1 (confirm : Confirm) (s : State) : Host.Outcome State Fault Refusal :=
  .next (s.execute 0x48 (fun c => s.writeRegs c .class1 confirm))

/-- The opcode and the rights of a WRITE_REGS of a class (Table 14.2). -/
def rowOp (cls : Nat) : Byte := if cls = 1 then 0x48 else if cls = 2 then 0x88 else 0xC8
def rowCarrier (cls : Nat) : Carrier := if cls = 1 then .class1 else if cls = 2 then .class2 else .class3

/-- The command that the row REGISTER_WRITE stands for. Its signers, counter and header, which the row does not name, are free (log
entry 52). -/
def State.rowCmd (s : State) (cls : Nat) : Cmd where
  ring := false
  tag := 0
  signReply := false
  op := rowOp cls
  cls := cls
  signers := BitVec.ofInt 8 (Config.freeInt s.free)
  counter := (BitVec.ofInt 64 (Config.freeInt (s.free + 1))).toNat
  dest := 0
  payload := []
  blocks := []
  malformed := false
  header := leBytes 32 (BitVec.ofInt 256 (Config.freeInt (s.free + 2))).toNat
  phase := .queued
  partDue := none
  spoiled := false
  consumed := true
  bcast := false
  pcrc := 0
  size := 0

/-- Its word is refused: counted, and with the security shard of a refusal with CLASS_MISMATCH (R212, R240, R348). -/
def State.refuseRow (s : State) (cls addr : Nat) (value : Word) (status : Nat) : State :=
  let t := (s.countRefused (rowCarrier cls) [(addr, value)] status).refusalEffects (s.rowCmd cls) status
  { t with free := t.free + 3 }

/-- Its word is written; one of class 2 or 3 leaves the configuration shard of a WRITE_REGS of that opcode (Table 07.3), whose byte of
signers, which the row does not name, is free (log entry 52). -/
def State.writeSigned (s : State) (cls addr : Nat) (value : Word) : State :=
  let t := s.writeLive (rowCarrier cls) addr value
  if cls = 1 then t
  else
    let e := [rowOp cls, BitVec.ofInt 8 (Config.freeInt s.free)] ++ leBytes 2 (wordsObject [(addr, value)]) ++ zeros 4
      ++ digestBytes s.sec.imageDigest ++ digestBytes t.sec.imageDigest
    (t.capture 0x07 0 e).takeFree

/-- The confirmation path is to carry a change of the image digest that a word makes (R242). -/
def State.rowChanges (s : State) (addr : Nat) (value : Word) : Bool :=
  changedCfg (State.writeWord (s, []) (addr, value)).2

/-- A word is judged and written, or refused (Table 14.3): at an address out of range it is, in stage 3; and where the sense die does not
confirm a change of the configuration, nothing is put in force (R242). -/
def State.writeRow (s : State) (cls addr : Nat) (value : Word) (confirm : Bool) : State :=
  if !addrOk addr then s.countRefusal 0x11
  else match s.judgeWord (rowCarrier cls) addr value with
    | some st => s.refuseRow cls addr value st
    | none =>
      if !confirm && s.rowChanges addr value then
        { s with sec := { s.sec with confirmFail := inc 255 s.sec.confirmFail } }
      else s.writeSigned cls addr value

/-- REGISTER_WRITE (R348): one word, as the one word of a WRITE_REGS of its class, in the states that accept one; no opcode of class 0
writes registers (log entry 40). `confirm` tells whether the sense die confirms the command (R242), of which the row names no more (log
entry 52). -/
def execRegisterWrite (cls : BitVec 2) (addr value : Word) (s : State) (confirm : Bool := true) :
    Host.Outcome State Fault Refusal :=
  match cls.toNat with
  | 0 => .next s
  | 3 => if s.readyOrRunning then .next (s.writeRow 3 addr.toNat value confirm) else .next s
  | c => if s.pm.state.logs then .next (s.writeRow c addr.toNat value confirm) else .next s

/-- FAIL_BIT_CLEAR (R115): KL_FAIL0 or KL_FAIL1 is written. -/
def execFailBitClear (high : Bool) (bits : Word) (s : State) : Host.Outcome State Fault Refusal :=
  .next (s.writeLive .class1 (if high then 0x40014 else 0x40010) bits)

end Sys2Proof.Machine
end

