-- ==== Sys2Proof/Machine/Class2.lean ====
section
/-! DEFINITION. Sys2Proof/Machine/Class2.lean: the class 2 opcodes (Table 08.9). -/

set_option Elab.async false

namespace Sys2Proof.Machine

/-! ## PROGRAM_LOAD (R126) -/

/-- The steps of a load with their addresses. -/
def loadWords (p : List Byte) : List (Nat × Step64) :=
  (paySteps p (leAt p 2 2)).mapIdx (fun i w => (leAt p 0 2 + i, w))

/-- The reason for which a word of a Kiln load fails at its address, 0 where it passes (Table 04.21). -/
def loadReason (e : Nat × Step64) : Nat := if 0xFFF < e.1 then 3 else stRefusal e.2

/-- The Kiln store with words written. -/
def State.loadSteps (s : State) (l : List (Nat × Step64)) : State :=
  { s with kiln := { s.kiln with store := l.foldl (fun t e => Tab.put 0 t e.1 e.2) s.kiln.store } }

/-- A refused load: KL_LOAD_STATUS. Where the load fails and no word of it does (reasons 0x3 and 0x4), the spec states no address:
it is free (log entry 7). -/
def State.noteLoad (s : State) (reason addr : Nat) : State :=
  let a := if reason = 3 ∨ reason = 4 then (Config.freeInt s.free).natAbs else addr
  State.takeFree { s with kiln := { s.kiln with loadReason := reason, loadAddr := a % 4096 } }

/-- The load is written and put in force, with its shard and the store digest as its reply. -/
def State.programLoad (s : State) (c : Cmd) (l : List (Nat × Step64)) : State :=
  let t := (s.loadSteps l).newImage
  (t.imageShard s c 0xFFFF).ok c (digestBytes t.storeDigest)

/-- PROGRAM_LOAD (R126). Of a load that runs past the store's end and also holds a failing word inside it, the first failing word gives
reason and address: the spec names none of the two reasons, and this is the model's choice (log entry 56). -/
def execProgramLoad (confirm : Confirm) (s : State) : Host.Outcome State Fault Refusal :=
  .next (s.execute 0x80 (fun c =>
    let l := loadWords c.payload
    if !s.readyOrRunning then (s.noteLoad 4 (leAt c.payload 0 2)).refuse c 0x40
    else
      match l.find? (fun e => loadReason e != 0) with
      | some e => (s.noteLoad (loadReason e) e.1).refuse c 0x40
      | none => s.confirmed c ((s.loadSteps l).kiln.store != s.kiln.store) confirm (s.programLoad c l)))

/-! ## TABLE_LOAD (R141) -/

/-- A cooling table is put in force. -/
def State.putTable (s : State) (c : Nat) (t : CoolTable) : State :=
  { s with fault := { s.fault with tables := modNth s.fault.tables c (fun _ => t) } }

/-- A table load in force, with its shard and the image digest as its reply. -/
def State.tableLoad (s : State) (c : Cmd) (n : Nat) (x : CoolTable) : State :=
  let t := (s.putTable n x).newImage
  (t.imageShard s c n).ok c t.imageReply

/-- Every entry of a load is legal and there are at most 64 (R141). -/
def CoolTable.legal (t : CoolTable) : Bool := decide (t.entries.length ≤ 64) && t.entries.all entLegal

/-- TABLE_LOAD (R141, R210). -/
def execTableLoad (confirm : Confirm) (s : State) : Host.Outcome State Fault Refusal :=
  .next (s.execute 0x81 (fun c =>
    let n := byteAt c.payload 0
    let x : CoolTable := { hard := false, entries := paySteps c.payload (byteAt c.payload 1) }
    if s.isHTable n then s.refuse c 0x24
    else if !s.readyOrRunning || !x.legal then s.refuse c 0x40
    else s.confirmed c (nth s.fault.tables n {} != x) confirm (s.tableLoad c n x)))

/-! ## BISQUE_CLEAR (R196) -/

/-- The bisque record and the first-fault record are emptied. -/
def State.clearBisque (s : State) : State :=
  { s with fault := { s.fault.writeBisque { clears := s.fault.bisque.clears + 1 } with first := none } }

/-- BISQUE_CLEAR (R196). -/
def execBisqueClear (s : State) : Host.Outcome State Fault Refusal :=
  .next (s.execute 0x82 (fun c =>
    if s.readyOrRunning then
      let t := s.clearBisque
      t.ok c (leBytes 2 t.fault.bisque.clears.toNat)
    else s.refuse c 0x40))

/-- WRITE_REGS of class 2 (R348). -/
def execWriteRegsClass2 (confirm : Confirm) (s : State) : Host.Outcome State Fault Refusal :=
  .next (s.execute 0x88 (fun c => s.writeRegs c .class2 confirm))

end Sys2Proof.Machine
end

