-- ==== Sys2Proof/Machine/Frames.lean ====
section
/-! DEFINITION. Sys2Proof/Machine/Frames.lean: what a device does with every Garura frame and horn that arrives (R252 to R255), and its
admission to the ring (R258 to R262). -/

set_option Elab.async false

namespace Sys2Proof.Machine

/-! ## Horns (R254, R255) -/

/-- The horns handled within the preceding 1 ms. -/
def State.hornsLive (s : State) : List HornSeen := s.ring.horns.filter (fun h => decide (s.clk.now < h.time + msTicks))

/-- An entry of the horns handled lately. -/
def State.noteHorn (s : State) (p : Link) (orig seq : Nat) (received : Bool) : State :=
  { s with ring := { s.ring with horns := s.hornsLive ++ [⟨orig, seq, p, received, s.clk.now⟩] } }

/-- The device is admitted and not fenced, so that it receives horns; root conflict leaves that as it was (R255, R262). -/
def State.hearsHorns (s : State) : Bool :=
  (s.ring.state == .admitted || s.ring.state == .conflict) && bit s.ring.admittedMap s.ring.address
    && !bit s.ring.fencedMap s.ring.address

/-- A horn of this originator would be received (R255). -/
def State.hornCounts (s : State) (orig : Nat) : Bool :=
  s.hearsHorns && bit s.ring.admittedMap orig && !bit s.ring.fencedMap orig && orig != s.ring.address

/-- Horns (true) and SHUTDOWNs (false) of the twin whose counterpart can still come: received within the last 1 ms (log entry 46). -/
def State.stopsLive (s : State) : List (Bool × Nat) := s.twin.rxStops.filter (fun e => decide (s.clk.now < e.2 + msTicks))

/-- The counterpart of a horn or a SHUTDOWN of the twin has been received: both tell of the same event (R269). -/
def State.twinTold (s : State) (horn : Bool) : Bool := s.stopsLive.any (fun e => e.1 != horn)

/-- The event of a counterpart is told in full. -/
def State.matchStop (s : State) (horn : Bool) : State :=
  { s with twin := { s.twin with rxStops := s.stopsLive.eraseP (fun e => e.1 != horn) } }

/-- A horn or a SHUTDOWN of the twin in co-supervision is noted as the first sign of its event. -/
def State.noteStop (s : State) (horn : Bool) : State :=
  { s with twin := { s.twin with rxStops := s.stopsLive ++ [(horn, s.clk.now)] } }

/-- The horn is received by the fault logic as cause 0x15. -/
def State.takeHorn (s : State) (orig seq : Nat) : State :=
  let t := State.irqGl { s with ring := { s.ring with
    hornOrig := orig, hornLastSeq := seq, hornReceived := inc 255 s.ring.hornReceived } } 10
  let twin := t.twin.state == .co && orig == t.twin.address
  if twin && t.twinTold true then t.matchStop true
  else (if twin then t.noteStop true else t).receiveCause 5 (orig % 256)

/-- A horn reaches the device, by an /H/ or a frame; each originator and sequence is judged once within 1 ms (R255). -/
def State.hornReaches (s : State) (p : Link) (orig seq : Nat) : State :=
  if s.hornsLive.any (fun h => h.received && h.orig == orig && h.seq == seq) then s
  else
    let t := s.noteHorn p orig seq true
    if s.hornCounts orig then t.takeHorn orig seq
    else { t with ring := { t.ring with hornSuppressed := inc 255 t.ring.hornSuppressed } }

/-- An /H/ is passed on in its direction, unless it was so within the preceding 1 ms (R254). -/
def State.passHorn (s : State) (p : Link) (orig seq : Nat) : State :=
  let t := (s.noteHorn p orig seq false).sendHorn (otherLink p) orig seq
  { t with ring := { t.ring with
      hornWindow := t.clk.now + msTicks, hornWord := BitVec.ofNat 16 (orig % 4096 + 4096 * (seq % 16)) } }

/-- An /H/ with this originator and sequence has been forwarded in this direction within the preceding 1 ms. -/
def State.hornPassed (s : State) (p : Link) (orig seq : Nat) : Bool :=
  s.hornsLive.any (fun h => !h.received && h.port == p && h.orig == orig && h.seq == seq)

/-! ## Frames (R252) -/

/-- The key by which another copy of a frame is known (R252): the sequence of a HEARTBEAT or TWIN message, else the payload. -/
def frameKey (f : Frame) : List Byte :=
  if f.kind = 0x20 then f.payload.take 2 else if f.kind = 0x21 then (f.payload.drop 1).take 2 else f.payload

/-- The longest that a frame can be on its way: there and back over a wrapped ring, with 205.31 µs at each hop (R252). -/
def copyTicks : Nat := 8190 * 41062

/-- The frames acted on of which copies can still be on their way. -/
def State.heardLive (s : State) : List Heard := s.ring.heard.filter (fun h => decide (s.clk.now < h.time + copyTicks))

/-- An entry is of the same message. -/
def Heard.of (h : Heard) (f : Frame) : Bool := h.kind == f.kind && h.src == f.src && h.key == frameKey f

/-- A HEARTBEAT or TWIN message whose first copy has been acted on (R252). -/
def State.secondCopy (s : State) (a : Arrival) : Bool := s.heardLive.any (fun h => h.of a.frame)

/-- A BROADCAST or TIME frame that has been acted on and comes back from the other end of a wrapped ring; one of the same content by
the same port is another frame, since its source takes a frame off the ring that has gone round (R252). -/
def State.laterCopy (s : State) (a : Arrival) : Bool :=
  s.heardLive.any (fun h => h.of a.frame && h.port == otherLink a.port)

/-- A frame is entered as acted on. -/
def State.noteFrame (s : State) (a : Arrival) : State :=
  { s with ring := { s.ring with
    heard := s.heardLive.filter (fun h => !h.of a.frame) ++ [⟨a.frame.kind, a.frame.src, frameKey a.frame, a.port, s.clk.now⟩] } }

/-- Both copies of a frame have come. -/
def State.dropNote (s : State) (a : Arrival) : State :=
  { s with ring := { s.ring with heard := s.heardLive.filter (fun h => !h.of a.frame) } }

/-- Link p changed. -/
def State.setLink (s : State) (p : Link) (f : GLink → GLink) : State :=
  match p with
  | .a => { s with ring := { s.ring with linkA := f s.ring.linkA } }
  | .b => { s with ring := { s.ring with linkB := f s.ring.linkB } }

/-- A frame of this kind reaches the device: its receivers run, and the link is up. -/
def State.hears (s : State) (a : Arrival) (kind : Nat) : Bool :=
  s.pm.state.logs && (s.link a.port).up && a.frame.kind.toNat == kind

/-- The frame's source is the device itself. -/
def State.ownSource (s : State) (f : Frame) : Bool := s.ring.address != 0 && f.src.toNat == s.ring.address

/-- The frame is for this device alone. -/
def State.forMe (s : State) (f : Frame) : Bool := s.ring.address != 0 && f.dest.toNat == s.ring.address

/-- The device takes a frame off the ring (R252). -/
def State.removes (s : State) (f : Frame) : Bool :=
  (s.ownSource f && decide (1 ≤ f.hops.toNat)) || s.forMe f || (f.kind == 2 && s.inp.root)

/-- A frame as it is passed on: one more hop, and the horn bit while a horn window is open. -/
def State.stamped (s : State) (f : Frame) : Frame :=
  let f := { f with hops := f.hops + 1 }
  if s.hornOpen && !bit f.flags 0 then
    { f with flags := f.flags ||| 1, hornOrig := BitVec.ofNat 12 s.ring.hornWord.toNat
             hornSeq := BitVec.ofNat 4 (s.ring.hornWord.toNat / 4096) }
  else f

/-- A frame goes on in its direction; one whose hops reach 4,095 is discarded. -/
def State.passFrame (s : State) (a : Arrival) (f : Frame) : State :=
  if 4095 ≤ a.frame.hops.toNat + 1 then s.setLink a.port (fun g => { g with discarded := inc 255 g.discarded })
  else s.sendAs (otherLink a.port) a.crcOk f

/-- What every arriving frame causes: a wrong CRC is counted, and a horn bit reaches the device. -/
def State.meet (s : State) (a : Arrival) : State :=
  let t := if a.crcOk then s else s.setLink a.port (fun g => { g with crcErr := inc 255 g.crcErr })
  if a.crcOk && bit a.frame.flags 0 then t.hornReaches a.port a.frame.hornOrig.toNat a.frame.hornSeq.toNat else t

/-- A frame is met, and passed on where the device does not take it off the ring. -/
def State.pass (s : State) (a : Arrival) : State :=
  let t := s.meet a
  if s.removes a.frame then t else t.passFrame a (t.stamped a.frame)

/-- The same frame passed on a second time, unchanged. -/
def State.passAgain (s : State) (a : Arrival) : State :=
  let t := s.meet a
  if s.removes a.frame then t else t.sendAs (otherLink a.port) a.crcOk a.frame

/-! ## Admission (R258, R259, R261, R271) -/

/-- The device becomes fenced: the undecided work of its ring port is discarded without replies, and margin sequences of its commands
end as at any device-level fault (R217, R261, R294). Root conflict lasts until the next stage 1 (R262). -/
def State.becomeFenced (s : State) : State :=
  if s.ring.state = .fenced ∨ (s.ring.state = .conflict ∧ bit s.ring.fencedMap s.ring.address = true) then s
  else
    let gone := s.port.cmds.filter (fun c => c.ring && c.undecided)
    let s := s.endSeqs (fun q => q.cmd.any (fun k => k.1 && gone.any (fun c => c.tag == k.2)))
    let t := { s with
      ring := { s.ring with
        state := if s.ring.state = RingState.conflict then RingState.conflict else .fenced
        fencedMap := s.ring.fencedMap ||| one 4096 s.ring.address }
      port := { s.port with
        cmds := s.port.cmds.filter (fun c => !(c.ring && c.undecided))
        execq := s.port.execq.filter (fun e => !e.1) } }
    (t.recordDiscard 4 gone).irqGl 5

/-- The device becomes admitted: a twin that waits counts from here (R271), and one that supervises alone seeks again (R274). -/
def State.becomeAdmitted (s : State) : State :=
  let seek := s.twin.state == .passive || (s.twin.state == .solo && s.inp.twside)
  let fresh := s.ring.state != .admitted
  { s with
    ring := { s.ring with state := .admitted }
    twin := if fresh && s.twinEn && seek then { s.twin with seekFrom := some s.clk.now, seekDue := some s.clk.now } else s.twin }

/-- The device's standing by its maps (Table 10.19). -/
def State.standing (s : State) : State :=
  let s := { s with ring := { s.ring with lastTime := s.clk.now } }
  if s.ring.address ≠ 0 ∧ bit s.ring.admittedMap s.ring.address = true then
    let t := { s with ring := { s.ring with joinDue := none } }
    if bit t.ring.fencedMap t.ring.address then t.becomeFenced else t.becomeAdmitted
  else { s with ring := { s.ring with state := .notAdmitted } }

/-- The payload of ENROL and JOIN (Table 10.4). -/
def State.enrolPayload (s : State) (addr pos : Nat) (fenced admitted : Bool) : List Byte :=
  leBytes 16 s.ident.uid.toNat ++ digestBytes s.sec.ownerFp ++ leBytes 2 (fld (s.cfgAt 0xA0008) 31 16) ++ leBytes 2 addr
    ++ leBytes 2 pos ++ leBytes 2 ((if fenced then 1 else 0) + (if admitted then 2 else 0))

/-- JOIN is sent, with the address of the Hedgerow record, and again after 100 ms (R259). -/
def State.sendJoin (s : State) : State :=
  let a := (s.ring.record.map Prod.snd).getD 0
  let t := s.sendFrame .a (s.ownFrame 0x13 1 (s.enrolPayload a 0 (s.ring.rootFp != s.sec.ownerFp) false))
  { t with ring := { t.ring with joinDue := some (t.clk.now + 100 * msTicks), joinTag := none } }

/-- The device is fenced, or was when TIME last reached it (R261, Table 10.8). -/
def State.fencedHere (s : State) : Bool :=
  s.ring.state == .fenced || (s.ring.state == .isolated && bit s.ring.fencedMap s.ring.address)

/-- The owner fingerprint has been changed by a command on a device that is on a Hedgerow: JOIN is due once the command's reply has left
its ring port, and at once where it came in by SPI (R259, R261). -/
def State.ownerChanged (s : State) (c : Cmd) : State :=
  if s.ring.state = .noLink ∨ s.inp.root then s
  else
    let t := { s with ring := { s.ring with
      joinDue := if s.ring.state = .conflict then s.ring.joinDue else some s.clk.now
      joinTag := if c.ring then some c.tag else none } }
    if s.ring.address ≠ 0 ∧ s.ring.rootFp ≠ 0 ∧ s.ring.rootFp ≠ s.sec.ownerFp then t.becomeFenced else t

/-! ## Root conflict (R262) -/

/-- The device enters root conflict. -/
def State.enterConflict (s : State) : State :=
  if s.ring.state = .conflict then s
  else State.irqGl { s with ring := { s.ring with state := .conflict, enum := none, timeDue := none, joinDue := none } } 4

/-- A root has met another root: CONFLICT leaves in both directions. -/
def State.meetRoot (s : State) (other : Nat) : State :=
  if s.ring.state = .conflict then s
  else
    let f := s.ownFrame 0x15 4095 (leBytes 16 s.ident.uid.toNat ++ leBytes 16 other)
    ((s.sendFrame .a f).sendFrame .b f).enterConflict

/-- The root unique ID of a TOKEN, CLOSURE or TIME payload. -/
def rootOf (f : Frame) : Nat := leAt f.payload (if f.kind = 0x04 then 8 else 4) 16

/-- A root receives a TOKEN, CLOSURE or TIME frame that carries another root's unique ID. -/
def State.rivalRoot (s : State) (a : Arrival) : Bool := s.inp.root && a.crcOk && rootOf a.frame != s.ident.uid.toNat

end Sys2Proof.Machine
end

