-- ==== Sys2Proof/Machine/Image.lean ====
section
/-! DEFINITION. Sys2Proof/Machine/Image.lean: the sections of a configuration image as IMAGE_LOAD brings them, and their checks (R275,
R276, Table 10.14). -/

set_option Elab.async false

namespace Sys2Proof.Machine

/-! ## Sections -/

/-- The sections of an image, in its order: type and content; none where a header, a length or a zero byte does not hold. A section of
type 0xFFFF and length 0 ends it, where there is one. -/
def parseSections : Nat → List Byte → Option (List (Nat × List Byte))
  | 0, _ => none
  | k + 1, l =>
    if l.isEmpty then some []
    else
      let n := leAt l 4 4
      let gap := (8 - n % 8) % 8
      if leAt l 2 2 ≠ 0 ∨ l.length < 8 + n + gap ∨ allZero ((l.drop (8 + n)).take gap) = false then none
      else if leAt l 0 2 = 0xFFFF then (if n = 0 ∧ l.length = 8 then some [] else none)
      else (parseSections k (l.drop (8 + n + gap))).map (fun t => (leAt l 0 2, (l.drop 8).take n) :: t)

/-- The first k groups of 8 bytes. -/
def eights : Nat → List Byte → List (List Byte)
  | 0, _ => []
  | k + 1, l => l.take 8 :: eights k (l.drop 8)

/-- (address, value) pairs. -/
def pairsOf (l : List Byte) : List (Nat × Word) :=
  (eights (l.length / 8) l).map (fun p => (leAt p 0 4, BitVec.ofNat 32 (leAt p 4 4)))

/-- 64-bit words. -/
def words64 (l : List Byte) : List Step64 := (eights (l.length / 8) l).map (fun p => BitVec.ofNat 64 (leAt p 0 8))

/-- Cooling tables, each with its number; none where a length or a reserved byte does not hold. -/
def parseTables : Nat → List Byte → Option (List (Nat × CoolTable))
  | 0, l => if l.isEmpty then some [] else none
  | k + 1, l =>
    if l.isEmpty then some []
    else
      let n := byteAt l 1
      if l.length < 8 + 8 * n ∨ 64 < n ∨ 1 < byteAt l 2 ∨ leAt l 3 5 ≠ 0 then none
      else (parseTables k (l.drop (8 + 8 * n))).map (fun t =>
        (byteAt l 0, { hard := byteAt l 2 == 1, entries := words64 ((l.drop 8).take (8 * n)) }) :: t)

/-- What an image brings, as it stands in its sections. -/
structure ImageParts where
  regs : List (Nat × Word)
  store : List Step64
  soft : List (Nat × CoolTable)
  safety0 : Word
  safety1 : Word
  held : List (Nat × Word)
  sgCfg : Word
  sgWdog : Word
  sgStore : List Step64
  hard : List (Nat × CoolTable)
  deriving DecidableEq, Repr

/-- Sections 0x01 to 0x04 in this order, each once, and a calibration section of 960 bytes where one follows. -/
def orderedSections (l : List (Nat × List Byte)) : Option (List Byte × List Byte × List Byte × List Byte) :=
  match l with
  | (1, a) :: (2, b) :: (3, c) :: (4, d) :: rest =>
    match rest with
    | [] => some (a, b, c, d)
    | [(0x0E, x)] => if x.length = 960 then some (a, b, c, d) else none
    | _ => none
  | _ => none

/-- The content of section 0x04. -/
def parseSaggar (regs : List (Nat × Word)) (store : List Step64) (soft : List (Nat × CoolTable)) (d : List Byte) :
    Option ImageParts :=
  let n := leAt d 8 4
  let rest := d.drop (12 + 8 * n)
  if d.length < 12 + 8 * n + 8 + 4096 then none
  else (parseTables 8 (rest.drop 4104)).map (fun t => {
    regs := regs
    store := store
    soft := soft
    safety0 := BitVec.ofNat 32 (leAt d 0 4)
    safety1 := BitVec.ofNat 32 (leAt d 4 4)
    held := pairsOf ((d.drop 12).take (8 * n))
    sgCfg := BitVec.ofNat 32 (leAt rest 0 4)
    sgWdog := BitVec.ofNat 32 (leAt rest 4 4)
    sgStore := words64 ((rest.drop 8).take 4096)
    hard := t })

/-- An image as its parts; none where its form is broken. -/
def parseImage (l : List Byte) : Option ImageParts :=
  match (parseSections 8 l).bind orderedSections with
  | some (a, b, c, d) =>
    if a.length % 8 ≠ 0 ∨ b.length ≠ 32768 then none
    else (parseTables 8 c).bind (fun soft => parseSaggar (pairsOf a) (words64 b) soft d)
  | none => none

/-! ## The content an image would leave -/

/-- A store from a list of steps. -/
def storeOf (l : List Step64) : Tab Step64 := (l.mapIdx (fun i w => (i, w))).filter (fun e => e.2 != 0)

/-- The rail masks of an image put in place. -/
def State.imageSafety (s : State) (x : ImageParts) : State :=
  let put := fun (t : State) (a : Nat) (v : Word) => match regAt a with | some r => t.putCfg r v | none => t
  put (put s 0xF00010 x.safety0) 0xF00014 x.safety1

/-- The configuration of an image put in place: every register that it covers, the Saggar-held fields, the engine configuration, the
stores and the tables; a shadow that LOAD_ALL has just transferred has been (R330). -/
def State.imageContent (s : State) (x : ImageParts) : State :=
  let t := s.pwSettle.imageSafety x
  let value := fun (l : List (Nat × Word)) (a : Nat) => ((l.find? (fun e => e.1 == a)).map Prod.snd).getD 0
  let t := cfgRegs.foldl (fun (u : State) r => u.putCfg r (value x.regs r.addr ||| value x.held r.addr)) t
  let put := fun (u : State) (a : Nat) (v : Word) => match regAt a with | some r => u.putCfg r v | none => u
  let t := put (put t 0xF00000 x.sgCfg) 0xF00004 x.sgWdog
  let tables := (List.range 8).map (fun c => (((x.soft ++ x.hard).find? (fun e => e.1 == c)).map Prod.snd).getD {})
  { t with
    kiln := { t.kiln with store := storeOf x.store, sgStore := storeOf x.sgStore }
    fault := { t.fault with tables := tables } }

/-! ## The checks (R276) -/

/-- The tables: those of section 0x03 with no hard attribute, those of section 0x04 with it, each table once, C6 in section 0x04, C0 and
C7 in section 0x03, every entry legal. -/
def tablesOk (x : ImageParts) : Bool :=
  x.soft.all (fun e => !e.2.hard) && x.hard.all (fun e => e.2.hard)
    && (List.range 8).all (fun c => ((x.soft ++ x.hard).filter (fun e => e.1 == c)).length == 1)
    && (x.soft ++ x.hard).length == 8
    && x.hard.any (fun e => e.1 == 6) && x.soft.any (fun e => e.1 == 0) && x.soft.any (fun e => e.1 == 7)
    && (x.soft.map Prod.fst).Pairwise (· < ·) && (x.hard.map Prod.fst).Pairwise (· < ·)
    && (x.soft ++ x.hard).all (fun e => e.2.entries.all entLegal)

/-- Section 0x01 names every register that it covers once, and sets no read-only or Saggar-held field; the pairs of section 0x04 name
every register with a Saggar-held field, and set nothing else. `t` has the rail masks of the image. -/
def State.coversOk (t : State) (x : ImageParts) : Bool :=
  (x.regs.map Prod.fst == t.openRegs.map Reg.addr)
    && (x.held.map Prod.fst == t.heldRegs.map Reg.addr)
    && (List.zip t.openRegs x.regs).all (fun e => e.2.2 &&& (e.1.row.ro ||| heldMask t e.1) == 0)
    && (List.zip t.heldRegs x.held).all (fun e => e.2.2 &&& ~~~(heldMask t e.1) == 0)

/-- Field values (R133, R159, Tables 03.31 and 06.8, R2) of the content that an image would leave, as configured. -/
def State.valuesOk (t : State) : Bool :=
  let raw := t.rawAt
  let live := { t with cfgLoaded := true }
  (List.range 64).all (fun n =>
      let b := fld (raw (0x60040 + 4 * (n / 4))) (8 * (n % 4) + 7) (8 * (n % 4))
      let w := raw (0x70010 + 0x20 * n)
      live.tablesAllowed 0xFF b && live.bandOk n && decide (1 ≤ fld w 27 24) && decide (fld w 27 24 ≤ 8)
        && decide (1 ≤ fld w 23 12) && decide (fld w 23 12 ≤ 2047))
    && (List.range 6).all (fun k => live.causeAllowed k (raw (0x60080 + 4 * k)))
    && decide (fld (raw 0x27000) 23 16 ≤ 128)
    && (t.ident.variantT || !bit (raw 0xA0000) 31)

/-- Every section passes. -/
def State.imageOk (s : State) (x : ImageParts) : Bool :=
  let t := s.imageSafety x
  tablesOk x && t.coversOk x && x.store.all (fun w => stRefusal w == 0)
    && x.sgStore.all (fun w => sgRefusal (x.safety1 ++ x.safety0 : BitVec 64) w == 0)
    && (s.imageContent x).valuesOk

/-! ## In force (R211) -/

/-- The registers whose content an image has changed, as words written. -/
def State.imageWritten (s old : State) : List Written :=
  (cfgRegs.filter (fun r => rawReg s r != rawReg old r)).map (fun r =>
    { cfg := old.cfg, reg := r, value := rawReg s r, changed := rawReg s r ^^^ rawReg old r })

end Sys2Proof.Machine
end

