-- ==== Sys2Proof/Machine/Class3.lean ====
section
/-! DEFINITION. Sys2Proof/Machine/Class3.lean: the class 3 opcodes (Table 08.10, R234 to R247, R276). -/

set_option Elab.async false

namespace Sys2Proof.Machine

/-- Opcodes that a device in bootstrap executes (R226); TAKE_OWNERSHIP is judged by R235 alone. -/
def bootOpcode (op : Nat) : Bool := op == 0xC0 || op == 0xC1 || op == 0xC3 || op == 0xCA

/-- A class 3 command is executed: in bootstrap only where R226 allows its opcode. -/
def State.execute3 (s : State) (op : Nat) (f : Cmd → State) : State :=
  s.execute op (fun c => if c.boot && !bootOpcode op then s.refuse c 0x40 else f c)

/-! ## The key table (R228, R229, R235 to R237) -/

/-- Commands past stage 4 that have not passed stage 5 and name a slot of the list are spoiled (R229, Table 09.3). -/
def State.spoil (s : State) (slots : List Nat) : State :=
  { s with port := { s.port with cmds := s.port.cmds.map (fun (d : Cmd) =>
    if d.phase == .counting && slots.any (fun i => bit d.signers i) then { d with spoiled := true } else d) } }

/-- Slot i changed. -/
def Sec.setSlot (x : Sec) (i : Nat) (k : KeySlot) : Sec := { x with slots := modNth x.slots i (fun _ => k) }

/-- The highest counter held in any slot (R236). -/
def Sec.topCounter (x : Sec) : Nat := x.slots.foldl (fun m k => max m k.counter) 0

/-- Another filled slot has either key. -/
def Sec.keyTaken (x : Sec) (i : Nat) (ed : BitVec 256) (ml : List Byte) : Bool :=
  (List.range 8).any (fun j =>
    let k := nth x.slots j {}
    j != i && k.filled && (k.ed == ed || k.mlBytes == ml))

/-- A key-table command is put in force, with its configuration shard and the key-table digest as its reply. -/
def State.keysInForce (s : State) (c : Cmd) (object : Nat) (x : Sec) (slots : List Nat) : State :=
  let t := (s.putSec x).spoil slots
  (t.cfgShard c object s.sec.keyDigest x.keyDigest).ok c (digestBytes x.keyDigest)

/-- The owner fingerprint of R235. -/
def ownerPrint (ed : BitVec 256) (ml : List Byte) : Digest :=
  sha3 (ascii "SKV6400-OWNER" ++ leBytes 32 ed.toNat ++ ml)

/-- What TAKE_OWNERSHIP leaves of the partition (R235): slot 0 holds the command's counter, which stage 5 found above every held
counter. -/
def Sec.owned_ (x : Sec) (c : Cmd) : Sec :=
  let k := nth x.slots 0 {}
  let counter := max k.counter c.counter
  { x.setSlot 0 { k with filled := true, role := 7, ed := payEd c.payload, ml := payMl c.payload, counter := counter } with
    owned := true, ownerFp := ownerPrint (payEd c.payload) (payMl c.payload), epoch := inc 65535 x.epoch, windowDue := none }

/-- TAKE_OWNERSHIP's conditions in stage 6 (R235). -/
def State.mayOwn (s : State) (c : Cmd) : Bool :=
  !s.sec.owned && s.pm.state == .ready && s.sec.windowDue.isSome && c.signers == 1 && byteAt c.payload 1 == 7

/-- TAKE_OWNERSHIP (R235). -/
def execTakeOwnership (confirm : Confirm) (s : State) : Host.Outcome State Fault Refusal :=
  .next (s.execute3 0xC0 (fun c =>
    if !s.mayOwn c then s.refuse c 0x40
    else s.confirmed c true confirm (
      let x := s.sec.owned_ c
      let t := (s.putSec x).spoil [0]
      ((t.cfgShard c 0 s.sec.keyDigest x.keyDigest).ok c (digestBytes x.ownerFp)).ownerChanged c)))

/-- A change of the key table leaves class 3 a quorum: f not below m unless it was so before, and not 0 (Table 09.4). -/
def Sec.keepsQuorum (x y : Sec) : Bool := (x.bootstrap || !y.bootstrap) && y.held != 0

/-- What KEY_SLOT_WRITE leaves of the partition (R236). -/
def Sec.withKey (x : Sec) (p : List Byte) : Sec :=
  let i := byteAt p 0
  let k := nth x.slots i {}
  x.setSlot i { k with filled := true, role := BitVec.ofNat 8 (byteAt p 1), ed := payEd p, ml := payMl p, counter := x.topCounter }

/-- KEY_SLOT_WRITE (R236, Table 09.4). -/
def execKeySlotWrite (confirm : Confirm) (s : State) : Host.Outcome State Fault Refusal :=
  .next (s.execute3 0xC1 (fun c =>
    let i := byteAt c.payload 0
    let y := s.sec.withKey c.payload
    if !s.readyOrRunning || s.sec.keyTaken i (payEd c.payload) (payMl c.payload) || !s.sec.keepsQuorum y then s.refuse c 0x40
    else s.confirmed c true confirm (s.keysInForce c i y [i])))

/-- What KEY_SLOT_CLEAR leaves of the partition: the slot's held counter stays (R236). -/
def Sec.withoutKey (x : Sec) (i : Nat) : Sec :=
  let k := nth x.slots i {}
  x.setSlot i { counter := k.counter, badSig := k.badSig }

/-- Some filled slot has role bit 2. -/
def Sec.hasClass3 (x : Sec) : Bool := x.slots.any (fun k => k.filled && bit k.role 2)

/-- KEY_SLOT_CLEAR (R236, Table 09.4). -/
def execKeySlotClear (confirm : Confirm) (s : State) : Host.Outcome State Fault Refusal :=
  .next (s.execute3 0xC2 (fun c =>
    let i := byteAt c.payload 0
    let y := s.sec.withoutKey i
    if !s.readyOrRunning || !(nth s.sec.slots i {}).filled || y.bootstrap || !y.hasClass3 then s.refuse c 0x40
    else s.confirmed c true confirm (s.keysInForce c i y [i])))

/-- QUORUM_SET (R236, Table 09.4). -/
def execQuorumSet (confirm : Confirm) (s : State) : Host.Outcome State Fault Refusal :=
  .next (s.execute3 0xC3 (fun c =>
    let y := { s.sec with m := byteAt c.payload 0, eligible := BitVec.ofNat 8 (byteAt c.payload 1) }
    if !s.readyOrRunning || y.bootstrap then s.refuse c 0x40
    else s.confirmed c true confirm (s.keysInForce c 0xFF y [])))

/-- What DECOMMISSION leaves of the partition (R237). -/
def Sec.cleared (x : Sec) : Sec :=
  { x with
    slots := x.slots.map (fun k => { counter := k.counter, badSig := k.badSig })
    m := 2, eligible := 7, ownerFp := 0, owned := false, windowDue := none }

/-- DECOMMISSION's configuration shard, which is written before the change, in Starting too where the log die responds. -/
def State.decommissionShard (s : State) (c : Cmd) : State :=
  let e := cfgEvent c 0xFFFF s.sec.keyDigest s.sec.cleared.keyDigest
  if s.pm.state.logs then s.capture 0x07 0 e
  else if s.log.responds then s.commitFr (s.shardNow 0x07 0 0 e)
  else s

/-- DECOMMISSION (R237). -/
def execDecommission (confirm : Confirm) (s : State) : Host.Outcome State Fault Refusal :=
  .next (s.execute3 0xCA (fun c =>
    if s.pm.state ≠ .ready ∧ s.failedStart = false then s.refuse c 0x40
    else s.confirmed c true confirm (
      let t := s.decommissionShard c
      (((t.putSec s.sec.cleared).spoil (List.range 8)).ok c []).ownerChanged c)))

/-! ## The partition (R240, R246) -/

/-- SAGGAR_WRITE (R240, R348). -/
def execSaggarWrite (confirm : Confirm) (s : State) : Host.Outcome State Fault Refusal :=
  .next (s.execute3 0xC4 (fun c => if s.readyOrRunning then s.writeRegs c .saggar confirm else s.refuse c 0x40))

/-- WRITE_REGS of class 3 (R348). -/
def execWriteRegsClass3 (confirm : Confirm) (s : State) : Host.Outcome State Fault Refusal :=
  .next (s.execute3 0xC8 (fun c => if s.readyOrRunning then s.writeRegs c .class3 confirm else s.refuse c 0x40))

/-- The reason for which a word of a Saggar load fails at its address, 0 where it passes (Tables 04.21 and 09.8). -/
def State.sgLoadReason (s : State) (e : Nat × Step64) : Nat := if 0x1FF < e.1 then 6 else sgRefusal s.safety e.2

/-- The Saggar store with words written. -/
def State.loadSgSteps (s : State) (l : List (Nat × Step64)) : State :=
  { s with kiln := { s.kiln with sgStore := l.foldl (fun t e => Tab.put 0 t e.1 e.2) s.kiln.sgStore } }

/-- A refused Saggar load: SG_LOAD_STATUS. Where the load fails and no word of it does (its run or the state), the spec states no
address: it is free (log entry 7). -/
def State.noteSgLoad (s : State) (reason addr : Nat) : State :=
  let a := if reason = 4 ∨ 0x1FF < addr then (Config.freeInt s.free).natAbs else addr
  State.takeFree { s with kiln := { s.kiln with sgLoadReason := reason, sgLoadAddr := a % 512 } }

/-- The Saggar load is put in force, with its shard and the Saggar store digest as its reply. -/
def State.sgProgramLoad (s : State) (c : Cmd) (l : List (Nat × Step64)) : State :=
  let t := (s.loadSgSteps l).newImage
  (t.imageShard s c 0xFFFF).ok c (digestBytes t.sgStoreDigest)

/-- SAGGAR_PROGRAM_LOAD (R246). -/
def execSaggarProgramLoad (confirm : Confirm) (s : State) : Host.Outcome State Fault Refusal :=
  .next (s.execute3 0xC5 (fun c =>
    let l := loadWords c.payload
    if !s.readyOrRunning then (s.noteSgLoad 4 (leAt c.payload 0 2)).refuse c 0x40
    else
      match l.find? (fun e => s.sgLoadReason e != 0) with
      | some e => (s.noteSgLoad (s.sgLoadReason e) e.1).refuse c 0x40
      | none => s.confirmed c ((s.loadSgSteps l).kiln.sgStore != s.kiln.sgStore) confirm (s.sgProgramLoad c l)))

/-- Table c is named by an h_table field, or by the table field of a cause of grade H or of CT_CAUSE_CFG0 (R133). -/
def State.namedHard (s : State) (c : Nat) : Bool :=
  (List.range 64).any (fun n =>
      fld (s.cfgAt (0x60040 + 4 * (n / 4))) (8 * (n % 4) + 6) (8 * (n % 4) + 4) == c)
    || (List.range 6).any (fun x => fld (s.causeCfg x) 2 0 == c && (x == 0 || fld (s.causeCfg x) 5 4 == 3))

/-- HTABLE_LOAD (R133, R141). -/
def execHtableLoad (confirm : Confirm) (s : State) : Host.Outcome State Fault Refusal :=
  .next (s.execute3 0xC6 (fun c =>
    let n := byteAt c.payload 0
    let x : CoolTable := { hard := byteAt c.payload 2 == 1, entries := paySteps c.payload (byteAt c.payload 1) }
    if !s.readyOrRunning || !x.legal || (s.isHTable n && !x.hard && s.namedHard n) then s.refuse c 0x40
    else s.confirmed c (nth s.fault.tables n {} != x) confirm (s.tableLoad c n x)))

/-! ## Calibration (R173) -/

/-- The calibration set of a payload. -/
def calOf (p : List Byte) : Tab Word :=
  ((List.range 240).map (fun i => (i, BitVec.ofNat 32 (leAt p (4 * i) 4)))).filter (fun e => e.2 != 0)

/-- A calibration set in force: its digest, the overwritten flag, the epoch, and a settle hold on every comparator. -/
def State.calibrate (s : State) (p : List Byte) : State :=
  let cal := calOf p
  let t := { s with mg := { s.mg with
    cal := cal, calDigest := sha3 (calBytes cal), overwritten := true, calEpoch := inc 65535 s.mg.calEpoch } }
  ((List.range 256).foldl State.startSettle t).newImage

/-- CALIBRATION_WRITE (R173). -/
def execCalibrationWrite (confirm : Confirm) (s : State) : Host.Outcome State Fault Refusal :=
  .next (s.execute3 0xC7 (fun c =>
    if s.pm.state ≠ .ready then s.refuse c 0x40
    else s.confirmed c true confirm (
      let t := s.calibrate c.payload
      (t.cfgShard c 0xFFFF s.mg.calDigest t.mg.calDigest).ok c (digestBytes t.mg.calDigest))))

/-! ## IMAGE_LOAD (R276) -/

/-- The collection after a part, with the part's outcome: none where the part is out of order. -/
def ImageLoad.take (im : Option ImageLoad) (p : List Byte) (due : Nat) : Option ImageLoad :=
  let part := leAt p 0 2
  let parts := leAt p 2 2
  let data := p.drop 8
  if part = 0 then some { parts := parts, next := 1, bytes := data, due := due }
  else
    match im with
    | some x => if x.next = part ∧ x.parts = parts then
        some { x with next := part + 1, bytes := x.bytes ++ data, due := due } else none
    | none => none

/-- The collection, or its end. -/
def State.setImage (s : State) (im : Option ImageLoad) : State := { s with port := { s.port with image := im } }

/-- The image is put in force: in Ready with what follows from its registers; in Starting a reset follows the final reply by 1 ms. -/
def State.imageInForce (s : State) (c : Cmd) (x : ImageParts) : State :=
  let t := (s.imageContent x).newImage
  if s.pm.state = .ready then ((t.imageShard s c 0xFFFF).ok c t.imageReply).writesFollow (t.imageWritten s)
  else State.ok { t.imageShard s c 0xFFFF with pm := { (t.imageShard s c 0xFFFF).pm with imageReset := some t.clk.now } } c t.imageReply

/-- The last part has arrived: the image is checked and put in force, or refused with nothing changed. -/
def State.imageEnd (s : State) (c : Cmd) (bytes : List Byte) (confirm : Confirm) : State :=
  if s.pm.state = .starting ∧ s.pm.failCode = 9 then s.refuse c 0x40
  else
    match parseImage bytes with
    | some x =>
      if s.imageOk x then
        s.confirmed c (s.imageContent x != s) confirm (s.imageInForce c x)
      else s.refuse c 0x40
    | none => s.refuse c 0x40

/-- IMAGE_LOAD (R276). -/
def execImageLoad (confirm : Confirm) (s : State) : Host.Outcome State Fault Refusal :=
  .next (s.execute3 0xC9 (fun c =>
    if s.pm.state ≠ .ready ∧ s.failedStart = false then s.refuse c 0x40
    else
      match ImageLoad.take s.port.image c.payload (s.clk.now + secondTicks) with
      | none => s.refuse c 0x40
      | some im =>
        if 20971520 < im.bytes.length then (s.setImage none).refuse c 0x40
        else if im.next < im.parts then (s.setImage (some im)).ok c []
        else (s.setImage none).imageEnd c im.bytes confirm))

/-- IMAGE_COLLECTION_TIMEOUT (R276). -/
def execImageCollectionTimeout (s : State) : Host.Outcome State Fault Refusal :=
  match s.port.image with
  | some im => .next ((s.till im.due).setImage none)
  | none => .next s

/-- RESET_AFTER_IMAGE_LOAD (R276): a reset with cause 0x41 that none of the bits of PM_RESET_CAUSE names. -/
def execResetAfterImageLoad (s : State) : Host.Outcome State Fault Refusal :=
  match s.pm.imageReset with
  | some due => if s.failedStart && !s.resetUnsaid then .next ((s.till due).deviceReset 0x41 0) else .next s
  | none => .next s

end Sys2Proof.Machine
end

