-- ==== Sys2Proof/Machine/Controls.lean ====
section
/-! DEFINITION. Sys2Proof/Machine/Controls.lean: MR and HRST, ONREQ, PB, T_OFFMIN, the ownership window, die sensors and TRIPI
(05, R45, R48, R235, R337). -/

set_option Elab.async false

namespace Sys2Proof.Machine

/-- PM_WAKE_CFG bit i lets its source wake the device (R63). -/
def State.wakesBy (s : State) (i : Nat) : Bool := bit (s.cfgAt 0x10018) i

/-- MR, PB and ONREQ reach the device: it is powered, and crossing 3 does not hold their last accepted levels for want of the
32.768 kHz clock, which their filters and counts need too (R321, Table 12.6). -/
def State.hearsPins (s : State) : Bool := s.pm.state != .off && !bit s.clk.stopped 3

/-! ## MR and HRST (R149, R150) -/

/-- MR_ASSERT (R150, R48). -/
def execMrAssert (s : State) : Host.Outcome State Fault Refusal :=
  if !s.hearsPins then .next s
  else
    let t := State.updateHrst { s with
      inp := { s.inp with mr := true }
      ctl := { s.ctl with mrSince := some (s.ctl.mrSince.getD s.clk.now), hrstDue := none } }
    .next (if t.wakesBy 2 then t.wake else t)

/-- Periods of the HRST stretch (R150). -/
def hrstPeriods : Nat := 4588

/-- MR_RELEASE (R150): the stretch starts. -/
def execMrRelease (s : State) : Host.Outcome State Fault Refusal :=
  if !s.hearsPins || !s.inp.mr then .next s
  else
    .next (State.updateHrst { s with
      inp := { s.inp with mr := false }
      ctl := { s.ctl with mrSince := none, hrstDue := some (s.clk.now + aonTicks hrstPeriods) } })

/-- HRST_STRETCH_END (R150). -/
def execHrstStretchEnd (s : State) : Host.Outcome State Fault Refusal :=
  match s.ctl.hrstDue with
  | some due =>
    let t := s.till due
    .next (State.updateHrst { t with ctl := { t.ctl with hrstDue := none } })
  | none => .next s

/-- The MR hold resets a device in this state (Table 02.6). -/
def State.mrResets (s : State) : Bool :=
  match s.pm.state with
  | .starting | .ready | .standby => true
  | .coppice => !s.walk.active
  | _ => false

/-- MR_HOLD_RESET (R44, R45): MR has been held for 10 s; where the state does not accept it, MR must be released and held
again. -/
def execMrHoldReset (s : State) : Host.Outcome State Fault Refusal :=
  match s.ctl.mrSince with
  | some since =>
    let t := s.till (since + 10 * secondTicks)
    let t := { t with ctl := { t.ctl with mrSince := none } }
    if t.mrResets then
      .next (if t.pm.state = .coppice then t.deviceReset 0x42 0x18 else t.deviceReset 0x41 8)
    else .next t
  | none => .next s

/-! ## ONREQ (R147) -/

/-- ONREQ_RISE (R147, R148, R48). -/
def execOnreqRise (s : State) : Host.Outcome State Fault Refusal :=
  if !s.hearsPins || s.inp.onreq then .next s
  else
    let t := { s with inp := { s.inp with onreq := true } }
    if t.pm.state = .standby then .next (if t.wakesBy 0 then t.wake else t)
    else if t.onreqEn && t.pm.state.logs then .next (t.onArises 0x10)
    else .next t

/-- ONREQ_FALL (R147, R148). -/
def execOnreqFall (s : State) : Host.Outcome State Fault Refusal :=
  if !s.hearsPins || !s.inp.onreq then .next s
  else
    let t := { s with inp := { s.inp with onreq := false } }
    if t.onreqEn && t.pm.state.logs then .next ((t.mirror 2 0x20).offRequest 0x20 none) else .next t

/-! ## PB (R151, R152) -/

/-- CT_CONTROL.long_press in periods of the 32.768 kHz clock; a value outside 4 to 16 s acts as 8 s. -/
def State.longPeriods (s : State) : Nat :=
  let v := fld (s.cfgAt 0x60000) 20 16
  (if 4 ≤ v ∧ v ≤ 16 then v else 8) * 32768

/-- The state with the PB detector in a mode since the present tick, PB at a level. -/
def State.setPb (s : State) (m : PbMode) (pressed : Bool) (held : Nat) : State :=
  { s with
    ctl := { s.ctl with pbMode := m, pbHeld := held, pbAt := s.clk.now, pbSinceStage1 := s.ctl.pbSinceStage1 && pressed }
    inp := { s.inp with pb := pressed } }

/-- PB_PRESS (R151): a press begins; in lockout it only sets the release count back to 0. -/
def execPbPress (s : State) : Host.Outcome State Fault Refusal :=
  if !s.hearsPins then .next s
  else match s.ctl.pbMode with
    | .idle => .next (s.setPb .pressed true 1)
    | .lockout => .next (s.setPb .lockout true s.ctl.pbHeld)
    | .pressed => .next s

/-- A short press that ends at a tick is a request while pb_short_en is 1 (Table 05.7), an on request too where firing has started in
that very tick (R147); else it is counted. -/
def State.shortPress (s : State) (tick : Nat) : State :=
  if !s.pbShortEn then { s with ctl := { s.ctl with pbBetween := inc 255 s.ctl.pbBetween } }
  else match s.pm.state with
    | .ready | .cooling => s.onArises 0x11
    | .firing | .running => if (s.onJoinsAt tick).isSome then s.onArises 0x11 else (s.mirror 2 0x21).offRequest 0x21 none
    | _ => s

/-- PB_SHORT_PRESS (R151, R152): a press of `held` periods has ended, its release having lasted 656 periods. Under 1,639 periods
it only counts, from 131,072 periods it is neither short nor long. -/
def execPbShortPress (held : Nat) (s : State) : Host.Outcome State Fault Refusal :=
  if s.hearsPins = true ∧ s.ctl.pbMode = .pressed ∧ 0 < held ∧ held < s.longPeriods then
    let due := s.ctl.pbAt + aonTicks (held + 655)
    let t := (s.till due).setPb .idle false 0
    if held < 1639 then .next { t with ctl := { t.ctl with pbShort := inc 255 t.ctl.pbShort } }
    else if held < 131072 then .next (t.shortPress due)
    else .next { t with ctl := { t.ctl with pbBetween := inc 255 t.ctl.pbBetween } }
  else .next s

/-- PB_LONG_PRESS (R151, R152): the held count reaches the long-press time, and the force-off acts. -/
def execPbLongPress (s : State) : Host.Outcome State Fault Refusal :=
  if s.hearsPins = true ∧ s.ctl.pbMode = .pressed then
    let t := s.till (s.ctl.pbAt + aonTicks (s.longPeriods - 1))
    .next (t.setPb .lockout true s.longPeriods).forceOff
  else .next s

/-- PB_LOCKOUT_END (R151): PB has been released for 1 s, which runs from the last release told in lockout; while PB is pressed the
lockout goes on (log entry 32). -/
def execPbLockoutEnd (s : State) : Host.Outcome State Fault Refusal :=
  if s.hearsPins = true ∧ s.ctl.pbMode = .lockout ∧ s.inp.pb = false then
    .next ((s.till (s.ctl.pbAt + aonTicks 32768)).setPb .idle false 0)
  else .next s

/-- PB_PRESS_LONGER_THAN_50_MS (R48): it wakes a device in Standby with wake_pb set. -/
def execPbPressLongerThan50Ms (s : State) : Host.Outcome State Fault Refusal :=
  if s.hearsPins = true ∧ s.pm.state = .standby ∧ s.ctl.pbMode = .pressed ∧ s.wakesBy 1 = true then
    .next (s.till (s.ctl.pbAt + aonTicks 1639)).wake
  else .next s

/-- OWNERSHIP_WINDOW_CLOSE (R235): PB is released in lockout (also before the window could open), from which the 1 s of R151 runs;
or 60 s have passed. -/
def execOwnershipWindowClose (released : Bool) (s : State) : Host.Outcome State Fault Refusal :=
  let shut := fun (t : State) => { t with sec := { t.sec with windowDue := none } }
  if released then
    if s.inp.pb && s.ctl.pbMode == .lockout then .next (shut (s.setPb .lockout false 0)) else .next s
  else match s.sec.windowDue with
    | some due => .next (shut (s.till due))
    | none => .next s

/-! ## Requests held, and the other inputs -/

/-- T_OFFMIN_ELAPSED (R20): a pending on request starts firing. -/
def execTOffminElapsed (s : State) : Host.Outcome State Fault Refusal :=
  match s.pm.offMinDue with
  | some due =>
    let t := s.till due
    .next (State.tryPending { t with pm := { t.pm with offMinDue := none } })
  | none => .next s

/-- The die of an internal temperature sensor, the source of cause 0x12 (Table 05.4, R366). -/
def dieOf (i : Nat) : Nat := (Config.sensorDie (Fin.ofNat 4 i)).val

/-- DIE_OVER_TEMPERATURE (R132, R366): the sensors now above 130 °C for 1 ms; each one that was not before is received as cause 0x12
with its die. -/
def execDieOverTemperature (sensors : BitVec 4) (s : State) : Host.Outcome State Fault Refusal :=
  if s.pm.state = .off then .next s
  else
    let rise := sensors &&& ~~~s.inp.overTemp
    let t := { s with inp := { s.inp with overTemp := sensors } }
    if s.pm.state = .standby then .next t
    else .next ((bitsOf rise).foldl (fun (u : State) i => u.receiveCause 2 (dieOf i)) t)

/-- TRIPI_ASSERT (R334, R337): the synchronised TRIPI levels; each line that was not asserted before trips its channels and is
received as cause 0x11, in Starting too once the core has a clock (R369), in the tick in which the core sees it (log entry 55). -/
def execTripiAssert (levels : BitVec 4) (s : State) : Host.Outcome State Fault Refusal :=
  if s.pm.state = .off then .next s
  else
    let rise := levels &&& ~~~s.inp.tripi
    let t := { s with inp := { s.inp with tripi := levels } }
    if s.clocked && rise != 0 then
      let t := State.noteSet { t with pwm := { t.pwm with tripiSeen := t.pwm.tripiSeen ||| rise } } 0xD0010 (at_ rise.toNat 28)
      .next ((bitsOf rise).foldl (fun (u : State) i => u.receiveCause 1 i) (t.tripPwm (rise.zeroExtend 32)))
    else .next t

end Sys2Proof.Machine
end

