-- ==== Sys2Proof/Machine/Kiln.lean ====
section
/-! DEFINITION. Sys2Proof/Machine/Kiln.lean: the steps of the Kiln engines and the Saggar engine, and what ends them (04, 09). Engine
k is 0 to 3 for K0 to K3 and 4 for SG; a step row issues the step at the engine's program counter if it has the row's opcode. -/

set_option Elab.async false

namespace Sys2Proof.Machine

/-- NOP (R105). -/
def execNopStep (k : BitVec 3) (fetch : Fetch) (s : State) : Host.Outcome State Fault Refusal :=
  .next (s.engStep k.toNat 0x0 fetch (fun t => t.endStep k.toNat 1))

/-- Rails that a DISABLE of the present tick has selected, or that one due in it selects (Table 04.13). -/
def State.disabledNow (s : State) : Rails :=
  (if s.kiln.tick.time = s.clk.now then s.kiln.tick.disabled else 0) ||| s.disablesDue

/-- ENABLE (R107): a DISABLE of the same tick wins (Table 04.13). -/
def execEnableStep (k : BitVec 3) (fetch : Fetch) (s : State) : Host.Outcome State Fault Refusal :=
  let w := s.stepOf k.toNat
  .next (s.engStep k.toNat 0x1 fetch (fun t => (t.enHigh (stRails w &&& ~~~t.disabledNow)).endStep k.toNat 1))

/-- DISABLE (R107). -/
def execDisableStep (k : BitVec 3) (fetch : Fetch) (s : State) : Host.Outcome State Fault Refusal :=
  let m := stRails (s.stepOf k.toNat)
  .next (s.engStep k.toNat 0x2 fetch (fun t =>
    let u := t.openTick
    let u := { u with kiln := { u.kiln with tick := { u.kiln.tick with disabled := u.kiln.tick.disabled ||| m } } }
    (u.disable m).endStep k.toNat 1))

/-- WAIT (R108). -/
def execWaitStep (k : BitVec 3) (fetch : Fetch) (s : State) : Host.Outcome State Fault Refusal :=
  let w := s.stepOf k.toNat
  .next (s.engStep k.toNat 0x3 fetch (fun t =>
    t.waitIn k.toNat (.wait (t.clk.now + t.engTicks k.toNat (stWaitTicks w)))))

/-- WAIT_END (R108): the duration has elapsed; the next step issues in this tick. -/
def execWaitEnd (k : BitVec 3) (s : State) : Host.Outcome State Fault Refusal :=
  let n := k.toNat
  match (s.eng n).busy with
  | .wait due => if s.inStep n (max due s.clk.now) then .next ((s.till due).endStep n 0) else .next s
  | _ => .next s

/-- WAITFOR (R109). -/
def execWaitforStep (k : BitVec 3) (fetch : Fetch) (s : State) : Host.Outcome State Fault Refusal :=
  let w := s.stepOf k.toNat
  .next (s.engStep k.toNat 0x4 fetch (fun t => t.waitIn k.toNat (.waitfor w t.clk.now)))

/-- The level of a WAITFOR's pin (Table 04.6): TRIPI, which is active low, and ONREQ as last accepted, CTRIG as the row gives it. -/
def State.pinLevel (s : State) (ctrig : BitVec 4) (p : Nat) : Bool :=
  if p < 4 then !bit s.inp.tripi p else if p < 8 then bit ctrig (p - 4) else s.inp.onreq

/-- A WAITFOR condition of engine k holds in the present tick (Table 04.6), with the levels of CTRIG0 to CTRIG3. -/
def State.waitforHolds (s : State) (k : Nat) (w : Step64) (t0 : Nat) (ctrig : BitVec 4) : Bool :=
  match wfKind w with
  | 0 => (s.engCmp k (wfSource w)).out == bit w 8
  | 1 =>
    let r := s.engReading k (wfInput w)
    let below := decide (s.inputValue (wfInput w) r.code < s.inputValue (wfInput w) (wfLevel w))
    r.valid && decide (t0 < r.time) && (below != bit w 7)
  | 2 => s.pinLevel ctrig (wfPin w) == bit w 8
  | _ => false

/-- The tick of a WAITFOR's or SYNC's timeout (R111). -/
def State.stepTimeout (s : State) (k : Nat) (w : Step64) (t0 : Nat) : Option Nat :=
  (stTimeout w).map (fun d => t0 + s.engTicks k d)

/-- The timeout tick has not passed. -/
def State.inTime (s : State) (k : Nat) (w : Step64) (t0 : Nat) : Bool :=
  match s.stepTimeout k w t0 with
  | some t => decide (s.clk.now ≤ t)
  | none => true

/-- WAITFOR_SATISFIED (R111): the condition holds. -/
def execWaitforSatisfied (k : BitVec 3) (ctrig : BitVec 4) (s : State) : Host.Outcome State Fault Refusal :=
  let n := k.toNat
  match (s.eng n).busy with
  | .waitfor w t0 =>
    if s.inStep n s.clk.now ∧ s.inTime n w t0 ∧ s.waitforHolds n w t0 ctrig then .next (s.endStep n 1) else .next s
  | _ => .next s

/-- TO sets. -/
def State.setTo (s : State) (k : Nat) : State := s.setEng k (fun e => { e with tmo := true })

/-- WAITFOR_TIMEOUT (R111): the timeout tick is reached; a condition that holds in it ends the step without TO. -/
def execWaitforTimeout (k : BitVec 3) (s : State) (ctrig : BitVec 4 := 0) : Host.Outcome State Fault Refusal :=
  let n := k.toNat
  match (s.eng n).busy with
  | .waitfor w t0 =>
    match s.stepTimeout n w t0 with
    | some due =>
      if s.inStep n (max due s.clk.now) then
        let t := s.till due
        .next ((if t.waitforHolds n w t0 ctrig then t else t.setTo n).endStep n 1)
      else .next s
    | none => .next s
  | _ => .next s

/-- CHECK (R113): chatter counts of the group become 0, and qualification begins. -/
def execCheckStep (k : BitVec 3) (fetch : Fetch) (s : State) : Host.Outcome State Fault Refusal :=
  let n := k.toNat
  let w := s.stepOf n
  .next (s.engStep n 0x5 fetch (fun t =>
    let rails := ckRails w
    let u := { t with kiln := { t.kiln with chatter := rails.foldl (fun c r => Tab.put 0 c r 0) t.kiln.chatter } }
    (u.waitIn n (.check w t.clk.now (rails.map (fun r => ⟨r, none, false⟩)))).observeEngine n))

/-- CHECK_QUALIFIED (R113): a rail has been inside for the qualification time; when every rail has, the step ends. -/
def execCheckQualified (k : BitVec 3) (rail : BitVec 6) (s : State) : Host.Outcome State Fault Refusal :=
  let n := k.toNat
  match (s.eng n).busy with
  | .check w t0 rails =>
    match rails.find? (fun r => r.rail == rail.toNat) with
    | some r =>
      let due := if r.done then some s.clk.now else r.since.map (· + ckQual w)
      match due with
      | some t =>
        if s.inStep n (max t s.clk.now) ∧ t ≤ t0 + ckDeadline w then
          let u := s.till t
          let rs := rails.map (fun (x : CheckRail) => if x.rail = rail.toNat then { x with done := true } else x)
          .next ((u.setEng n (fun e => { e with busy := .check w t0 rs })).checkEnd n rs)
        else .next s
      | none => .next s
    | none => .next s
  | _ => .next s

/-- CHECK_DEADLINE (R113): rails that have not qualified by the deadline fail, and the step ends. -/
def execCheckDeadline (k : BitVec 3) (s : State) : Host.Outcome State Fault Refusal :=
  let n := k.toNat
  match (s.eng n).busy with
  | .check w t0 rails =>
    let due := t0 + ckDeadline w
    if s.inStep n (max due s.clk.now) then
      let t := s.till due
      let bad := (rails.filter (fun r => !r.settled (ckQual w) due)).map (fun r => r.rail)
      .next ((bad.foldl (fun u r => u.checkFail n r) t).endStep n 1)
    else .next s
  | _ => .next s

/-- RAMP (R75, R107): a DISABLE of the same tick wins (Table 04.13). -/
def execRampStep (k : BitVec 3) (fetch : Fetch) (s : State) : Host.Outcome State Fault Refusal :=
  let w := s.stepOf k.toNat
  .next (s.engStep k.toNat 0x6 fetch (fun t =>
    (t.rampRails k.toNat (srcsOf (stRails w &&& ~~~t.disabledNow))).endStep k.toNat 1))

/-- JUMP (R116). -/
def execJumpStep (k : BitVec 3) (fetch : Fetch) (s : State) : Host.Outcome State Fault Refusal :=
  let n := k.toNat
  let w := s.stepOf n
  .next (s.engStep n 0x7 fetch (fun t =>
    let u := if bit w 56 then t.setEng n (fun e => { e with lc := stLcval w }) else t
    u.goStep n (stTarget w) 1))

/-- Whether a JUMPIF jumps (Table 04.10), seeing flags and bits as its tick found them (R117). -/
def State.jumps (s : State) (k : Nat) (w : Step64) : Bool :=
  let e := s.eng k
  let x := stOperand w
  match stCond w with
  | 0x0 => e.cf
  | 0x1 => !e.cf
  | 0x2 => e.tmo
  | 0x3 => !e.tmo
  | 0x4 => e.cl
  | 0x5 => !e.cl
  | 0x6 => bit s.evSeen x
  | 0x7 => !bit s.evSeen x
  | 0x8 => bit s.failSeen x
  | 0x9 => !bit s.failSeen x
  | _ => decide (e.lc ≠ 0)

/-- An engine after a JUMPIF: the tested flag cleared with clr = 1, LC counted down by cond 0xA. -/
def Engine.afterJumpif (e : Engine) (w : Step64) : Engine :=
  let c := stCond w
  let clr := bit w 55
  { e with
    cf := if clr && (c == 0 || c == 1) then false else e.cf
    tmo := if clr && (c == 2 || c == 3) then false else e.tmo
    cl := if clr && (c == 4 || c == 5) then false else e.cl
    lc := if c = 0xA then e.lc - 1 else e.lc }

/-- JUMPIF (R117). -/
def execJumpifStep (k : BitVec 3) (fetch : Fetch) (s : State) : Host.Outcome State Fault Refusal :=
  let n := k.toNat
  let w := s.stepOf n
  .next (s.engStep n 0x8 fetch (fun t =>
    let u := t.setEng n (fun e => e.afterJumpif w)
    if t.jumps n w then u.goStep n (stTarget w) 1 else u.endStep n 1))

/-- SIGNAL (R119, R120). -/
def execSignalStep (k : BitVec 3) (fetch : Fetch) (s : State) : Host.Outcome State Fault Refusal :=
  let w := s.stepOf k.toNat
  .next (s.engStep k.toNat 0x9 fetch (fun t =>
    (if bit w 56 then t.clearFlags (stFlags w) else t.setFlags (stFlags w)).endStep k.toNat 1))

/-- SYNC (R110). -/
def execSyncStep (k : BitVec 3) (fetch : Fetch) (s : State) : Host.Outcome State Fault Refusal :=
  let w := s.stepOf k.toNat
  .next (s.engStep k.toNat 0xA fetch (fun t => t.waitIn k.toNat (.sync w t.clk.now)))

/-- A SYNC's condition in the present tick (Table 04.7). -/
def State.syncHolds (s : State) (w : Step64) : Bool :=
  let hit := s.evSeen &&& stFlags w
  if bit w 56 then hit != 0 else hit == stFlags w

/-- A satisfied SYNC ends; with consume = 1 the flags that satisfied it clear (R120). -/
def State.syncEnd (s : State) (k : Nat) (w : Step64) : State :=
  let hit := s.evSeen &&& stFlags w
  (if bit w 57 then s.clearFlags hit else s).endStep k 1

/-- SYNC_SATISFIED (R111, R120). -/
def execSyncSatisfied (k : BitVec 3) (s : State) : Host.Outcome State Fault Refusal :=
  let n := k.toNat
  match (s.eng n).busy with
  | .sync w t0 => if s.inStep n s.clk.now ∧ s.inTime n w t0 ∧ s.syncHolds w then .next (s.syncEnd n w) else .next s
  | _ => .next s

/-- SYNC_TIMEOUT (R111): a condition that holds in the timeout tick ends the step without TO. -/
def execSyncTimeout (k : BitVec 3) (s : State) : Host.Outcome State Fault Refusal :=
  let n := k.toNat
  match (s.eng n).busy with
  | .sync w t0 =>
    match s.stepTimeout n w t0 with
    | some due =>
      if s.inStep n (max due s.clk.now) then
        let t := s.till due
        .next (if t.syncHolds w then t.syncEnd n w else (t.setTo n).endStep n 1)
      else .next s
    | none => .next s
  | _ => .next s

/-- A MARGIN step of engine k on the PMBus path: it waits for its sequence, which may end at once (R121, R162). -/
def State.marginPm (s : State) (k n level : Nat) : State :=
  match s.seqBlocked n with
  | some r =>
    let t := if r = 0 then s else s.setTw (s.pmbPort n) (fun x => { x with lastResult := r })
    (((t.setPmb n 2).setTo k)).endStep k 1
  | none =>
    (s.waitIn k (.margin n)).startSeq
      { rail := n, level := level, engine := some k, cmd := none, done := 0, ending := false }

/-- MARGIN (R121). -/
def execMarginStep (k : BitVec 3) (fetch : Fetch) (s : State) : Host.Outcome State Fault Refusal :=
  let n := k.toNat
  let w := s.stepOf n
  .next (s.engStep n 0xB fetch (fun t =>
    let u := t.claimTrim n (stRail w) (fun x =>
      if bit w 58 then x.marginPm n (stRail w) (fld w 57 56) else x.marginTrim (stRail w) (fld w 57 56))
    if (u.eng n).busy = .none ∧ (u.eng n).pc = (t.eng n).pc then u.endStep n 1 else u))

/-- TRIM (R160). -/
def execTrimStep (k : BitVec 3) (fetch : Fetch) (s : State) : Host.Outcome State Fault Refusal :=
  let n := k.toNat
  let w := s.stepOf n
  .next (s.engStep n 0xC fetch (fun t =>
    (t.claimTrim n (stRail w) (fun x =>
      let clamped := decide (x.clampCode (stRail w) (stCode w) ≠ stCode w)
      (x.applyTrim (stRail w) 3 (stCode w)).setEng n (fun e => { e with cl := e.cl || clamped }))).endStep n 1))

/-- SNAP (R121). -/
def execSnapStep (k : BitVec 3) (fetch : Fetch) (s : State) : Host.Outcome State Fault Refusal :=
  let n := k.toNat
  let w := s.stepOf n
  .next (s.engStep n 0xD fetch (fun t =>
    (t.capture 0x0B 0 ([BitVec.ofNat 8 n, 0] ++ leBytes 2 (t.eng n).pc ++ leBytes 2 (stMark w))).endStep n 1))

/-- What a PWM step does with its channel (Table 04.12). -/
def State.pwmAct (s : State) (w : Step64) : State :=
  let c := pwChannel w
  let s := s.pwSettle
  match pwAction w with
  | 0 => s.stopCh c
  | 1 => s.startCh c
  | 2 => (s.keepShadow c).setCh c (fun h => { h with stepC := some (pwValue w) })
  | _ => s.setLoadAll

/-- PWM (R121). -/
def execPwmStep (k : BitVec 3) (fetch : Fetch) (s : State) : Host.Outcome State Fault Refusal :=
  let n := k.toNat
  let w := s.stepOf n
  let c := if pwAction w = 3 then 16 else pwChannel w
  .next (s.engStep n 0xE fetch (fun t => (t.claimPwm n c (fun x => x.pwmAct w)).endStep n 1))

/-- HALT of engine k (R118, R245): with off = 1 an off request of cause 0x23, mirrored to the twin; of SG, an error cause 0x5. -/
def State.halt (s : State) (k : Nat) (off : Bool) : State :=
  let t := s.setEng k (fun e => { e with st := .halted, busy := .none })
  if off && k == 4 then (t.setEng k (fun e => { e with err := 5 })).engineFault k 5
  else if off then (t.mirror 2 0x23).offRequest 0x23 none
  else t.endFiring

/-- HALT (R118). -/
def execHaltStep (k : BitVec 3) (fetch : Fetch) (s : State) : Host.Outcome State Fault Refusal :=
  let w := s.stepOf k.toNat
  .next (s.engStep k.toNat 0xF fetch (fun t => t.halt k.toNat (bit w 56)))

/-- STEP_BUDGET_EXPIRY (R124): the first step beyond the budget would issue; error cause 0x1. -/
def execStepBudgetExpiry (k : BitVec 3) (s : State) : Host.Outcome State Fault Refusal :=
  let n := k.toNat
  let e := s.eng n
  if n ≤ 4 ∧ s.pm.state = .firing ∧ e.st = .running ∧ s.stepBudget n ≤ e.steps
      ∧ max e.next s.clk.now < e.t0 + s.timeBudget n then
    .next ((s.till e.next).engineError n 1)
  else .next s

/-- TIME_BUDGET_EXPIRY (R124): the time budget is reached; error cause 0x2. -/
def execTimeBudgetExpiry (k : BitVec 3) (s : State) : Host.Outcome State Fault Refusal :=
  let n := k.toNat
  let e := s.eng n
  if n ≤ 4 ∧ s.pm.state = .firing ∧ (e.active ∨ e.entering) then
    .next ((s.till (e.t0 + s.timeBudget n)).engineError n 2)
  else .next s

/-- A margin command's sequence has ended: its final reply carries pmb_result (R164). -/
def State.marginDone (s : State) (n : Nat) (key : Bool × Nat) : State :=
  match s.cmd? key.1 key.2 with
  | some c => if c.phase = .accepted then s.finish c 0 (s.marginReply n) else s
  | none => s

/-- PMBUS_SEQUENCE_END (R162): pmb_result is set, and the MARGIN step or the final reply is released. -/
def execPmbusSequenceEnd (rail : BitVec 6) (s : State) : Host.Outcome State Fault Refusal :=
  let n := rail.toNat
  match s.twEnded.find? (fun e => e.1.rail == n) with
  | some e =>
    let t := { s with twEnded := s.twEnded.eraseP (fun x => x.1.rail == n) }.setPmb n e.2
    match e.1.engine, e.1.cmd with
    | some k, _ => .next (t.marginEnd k n e.2)
    | none, some key => .next (t.marginDone n key)
    | none, none => .next t
  | none => .next s

end Sys2Proof.Machine
end

