-- ==== Sys2Proof/Machine/Pwm.lean ====
section
/-! DEFINITION. Sys2Proof/Machine/Pwm.lean: the auxiliary PWM and trip lines (13): counters, outputs, triggers, synchronisation, trips
and the rows that write PW registers. -/

set_option Elab.async false

namespace Sys2Proof.Machine

/-- The PWM channels live (Table 13.1), and channel c runs on its own counter. -/
def State.pwLive (s : State) (c : Nat) : Bool := s.pm.state.logs && (s.ch c).running && s.ownCounter c

/-- PERIOD_START (R326, R330, R332, R336): the counter of channel c wraps to 0 at the next tick in which it does. -/
def execPeriodStart (c : BitVec 4) (s : State) : Host.Outcome State Fault Refusal :=
  let n := c.toNat
  if s.pwLive n then
    let t := (s.wait (s.toWrap n)).pwSettle
    .next ((t.keepWrap.zeroCounter n).periodStart n)
  else .next s

/-- Channel c's raw signal falls within its period (R327). -/
def PwmCh.falls (h : PwmCh) : Bool := decide (0 < h.c) && decide (h.c ≤ h.p) && decide (h.c ≠ 0xFFFF)

/-- COMPARE_MATCH (R327, R328): the counter of channel c reaches its active compare value, and its raw signal falls. -/
def execCompareMatch (c : BitVec 4) (s : State) : Host.Outcome State Fault Refusal :=
  let n := c.toNat
  let h := s.ch n
  if s.pwLive n && h.falls then
    let t := (s.wait (h.c - h.counter s.clk.now)).pwSettle
    .next (t.drive n)
  else .next s

/-- The level of the source that output c follows: its counter's raw signal, inverted for the odd output of a complementary
pair (R328). -/
def State.pwSource (s : State) (c : Nat) : Bool :=
  let b := s.pwBase c
  ((s.ch b).raw s.clk.now) != (b != c)

/-- DEAD_TIME_END (R328): the source of channel c has been high for dt ticks, and its output rises. -/
def execDeadTimeEnd (c : BitVec 4) (s : State) : Host.Outcome State Fault Refusal :=
  let n := c.toNat
  match (s.ch n).dead with
  | some due =>
    let t := s.till due
    let up := t.pwSource n
    .next (t.setCh n (fun h => { h with out := up, dead := none }))
  | none => .next s

/-- PWM_TRIGGER_COMPARE (R331): the counter that channel c follows equals its active Tj, and trigger 16 + 2c + j fires. -/
def execPwmTriggerCompare (c : BitVec 4) (j : BitVec 1) (s : State) : Host.Outcome State Fault Refusal :=
  let n := c.toNat
  let b := s.pwBase n
  let v := if j = 0 then (s.ch n).t0 else (s.ch n).t1
  if s.pwLive b && decide (v ≤ (s.ch b).p) then
    let t := (s.wait (s.toCount b v)).pwSettle
    .next (t.fireTrigger (16 + 2 * n + j.toNat) 0)
  else .next s

/-- PWMSO_END (R332): PWMSO has been high for its width, whether or not its channel still runs (log entry 55). -/
def execPwmsoEnd (s : State) : Host.Outcome State Fault Refusal :=
  match s.pwm.so with
  | some due =>
    let t := s.till due
    .next { t with pwm := { t.pwm with so := none } }
  | none => .next s

/-- PWMSI_EDGE (R333): a synchronised PWMSI edge loads the counters of the running channels with si_en, in the tick of
the load (log entry 55). -/
def execPwmsiEdge (s : State) : Host.Outcome State Fault Refusal :=
  if s.pm.state.logs then .next ((List.range 16).foldl State.loadCh s.pwSettle) else .next s

/-- The value of PW_RUN. -/
def State.runMask (s : State) : BitVec 16 := maskOf 16 s.pwRuns

/-- CHANNEL_START (R329): PW_RUN bit c is written 1. -/
def execChannelStart (c : BitVec 4) (s : State) : Host.Outcome State Fault Refusal :=
  .next (s.writeLive .class1 0xD0008 ((s.runMask ||| one 16 c.toNat).zeroExtend 32))

/-- CHANNEL_STOP (R329): PW_RUN bit c is written 0. -/
def execChannelStop (c : BitVec 4) (s : State) : Host.Outcome State Fault Refusal :=
  .next (s.writeLive .class1 0xD0008 ((s.runMask &&& ~~~(one 16 c.toNat)).zeroExtend 32))

/-- LOAD_ALL (R330): PW_LOAD.load_all is written 1. -/
def execLoadAll (s : State) : Host.Outcome State Fault Refusal := .next (s.writeLive .class1 0xD0004 1)

/-- A TRIPI line asserts for 5 ns or more: tripi_seen sets while the logic die is powered (R337), and the channels that name it trip
where the channels live (R334, Table 13.1). -/
def State.tripiPulse (s : State) (i : Nat) : State :=
  (State.noteSet { s with pwm := { s.pwm with tripiSeen := putBit s.pwm.tripiSeen i true } } 0xD0010 (one 32 (28 + i))).tripPwm
    (flag true i)

/-- PWM_TRIP (R334): a trip source asserts: TRIPI0 to 3, FLT0 to 7 as 4 to 11, the device trip as 12, PFW as 13. -/
def execPwmTrip (source : BitVec 4) (s : State) : Host.Outcome State Fault Refusal :=
  let n := source.toNat
  if n < 4 ∧ s.clocked = true then .next (s.tripiPulse n)
  else if !s.pm.state.logs then .next s
  else if n ≤ 13 ∧ bit s.tripSources n then .next (s.tripPwm (flag true n))
  else .next s

/-- TRIP_LATCH_CLEAR (R336): PW_TRIP_STATUS is written. -/
def execTripLatchClear (bits : BitVec 16) (s : State) : Host.Outcome State Fault Refusal :=
  .next (s.writeLive .class1 0xD000C (bits.zeroExtend 32))

/-- TRIPI_SEEN_CLEAR (R337): PW_TRIP_SRC.tripi_seen is written, its other bits as they read. -/
def execTripiSeenClear (bits : BitVec 4) (s : State) : Host.Outcome State Fault Refusal :=
  .next (s.writeLive .class1 0xD0010 (s.tripSources ||| at_ bits.toNat 28))

end Sys2Proof.Machine
end

