-- ==== Sys2Proof/Machine/Ring.lean ====
section
/-! DEFINITION. Sys2Proof/Machine/Ring.lean: Garura links, horns, ring frames, enumeration and late joining (10). -/

set_option Elab.async false

namespace Sys2Proof.Machine

/-! ## Links (R250, R263) -/

/-- A port's wrap bit changes (Table 10.23). -/
def State.setWrap (s : State) (p : Link) (w : Bool) : State :=
  if (s.link p).wrapped = w then s else (s.setLink p (fun g => { g with wrapped := w })).irqGl 1

/-- RECEIVER_LOCK (R250): the port's receiver is locked. -/
def execReceiverLock (port : Link) (s : State) : Host.Outcome State Fault Refusal :=
  if s.transmits then .next (s.setLink port (fun g => { g with locked := true })) else .next s

/-- The ring state once a link is up: a device admitted before is isolated until TIME reaches it, and others await admission
(Tables 10.8 and 10.19). -/
def State.linkState (s : State) : State :=
  if s.ring.state ≠ .noLink then s
  else
    let was := s.ring.address != 0 && bit s.ring.admittedMap s.ring.address
    { s with ring := { s.ring with state :=
      if !was then .awaiting else if s.inp.root then .admitted else if bit s.ring.fencedMap s.ring.address then .fenced
      else .isolated } }

/-- Root conflict is over for a device that is no root once a root's later frame shows that the root has left it (R262, log entry
54): its address and maps stand. -/
def State.endConflict (s : State) : State :=
  if s.ring.state = .conflict then State.linkState { s with ring := { s.ring with state := .noLink } } else s

/-- LINK_UP (R250, R263): a port whose other link is down is the only way out, so that the other one wraps. -/
def execLinkUp (port : Link) (s : State) : Host.Outcome State Fault Refusal :=
  if s.transmits && !(s.link port).up then
    let t := s.setLink port (fun g => { g with locked := true, up := true, upSince := s.clk.now })
    let t := if (t.link (otherLink port)).up then t else t.setWrap (otherLink port) true
    .next (t.linkState.irqGl 0)
  else .next s

/-- LINK_DOWN (R250, R263). -/
def execLinkDown (port : Link) (s : State) : Host.Outcome State Fault Refusal :=
  if (s.link port).up then
    let t := s.setLink port (fun g => { g with locked := false, up := false, down := inc 255 g.down })
    let t := (t.setWrap port true).irqGl 0
    .next (if (t.link (otherLink port)).up then t else { t with ring := { t.ring with state :=
      if t.ring.state = .conflict then .conflict else .noLink } })
  else .next s

/-- UNWRAP (R263): the link has been up for 1 ms. -/
def execUnwrap (port : Link) (s : State) : Host.Outcome State Fault Refusal :=
  if (s.link port).up && (s.link port).wrapped then
    .next ((s.till ((s.link port).upSince + msTicks)).setWrap port false)
  else .next s

/-! ## Horns -/

/-- HORN (R254, R255): an /H/ of the device's own is absorbed, and one forwarded lately in that direction dropped. -/
def execHorn (port : Link) (orig : BitVec 12) (seq : BitVec 4) (s : State) : Host.Outcome State Fault Refusal :=
  if s.pm.state.logs && (s.link port).up then
    if s.ring.address ≠ 0 ∧ orig.toNat = s.ring.address then .next s
    else if s.hornPassed port orig.toNat seq.toNat then .next s
    else .next ((s.passHorn port orig.toNat seq.toNat).hornReaches port orig.toNat seq.toNat)
  else .next s

/-! ## Commands and replies on the ring (R219) -/

/-- The device executes frames from the ring: admitted, and not fenced (R39, R261). -/
def State.obeys (s : State) : Bool := s.ring.state == .admitted

/-- COMMAND (R219): at its destination the packet enters the pipeline; elsewhere it goes on. -/
def execCommandFrame (f : Arrival) (s : State) : Host.Outcome State Fault Refusal :=
  if s.hears f 1 then
    let t := s.pass f
    if f.crcOk && s.forMe f.frame && s.obeys then .next (t.arrive true f.frame.src.toNat false f.frame.payload) else .next t
  else .next s

/-- The forwarded command that a reply from an address answers: one whose reply is awaited, or that was accepted. -/
def State.awaited (s : State) (tag src : Nat) : Option Cmd :=
  match s.cmd? false tag with
  | some c =>
    if c.dest = src ∧ src ≠ 0 ∧ (s.port.fwds.any (fun g => g.tag == tag && g.dest == src) ∨ c.phase = .accepted) then some c
    else none
  | none => none

/-- A reply packet is queued under the SPI tag that the root has held for it; a late one is dropped (R219). -/
def State.takeReply (s : State) (src : Nat) (p : List Byte) : State :=
  let tag := hdTag p
  match s.awaited tag src with
  | some _ => (s.dropFwd tag).post { ring := false, tag := tag, bytes := p, keeps := byteAt p 22 == 1 }
  | none => s

/-- REPLY (R219, R252): the root takes it off the ring. -/
def execReplyFrame (f : Arrival) (s : State) : Host.Outcome State Fault Refusal :=
  if s.hears f 2 then
    let t := s.pass f
    if f.crcOk && s.inp.root then .next (t.takeReply f.frame.src.toNat f.frame.payload) else .next t
  else .next s

/-- The root's broadcast has come back: it has passed the ring, and its final reply, OK, follows once it is decided (R219). -/
def State.bcastBack (s : State) : State :=
  match s.port.fwds.find? (fun g => g.dest == 4095) with
  | some g =>
    let t := s.dropFwd g.tag
    match s.cmd? false g.tag with
    | some c => if c.phase = .replying then t.answer c 0 [] else t
    | none => t
  | none => s

/-- BROADCAST (R219, R252): acted on once, by an admitted device. -/
def execBroadcastFrame (f : Arrival) (s : State) : Host.Outcome State Fault Refusal :=
  if s.hears f 3 then
    if f.crcOk && s.ownSource f.frame && decide (1 ≤ f.frame.hops.toNat) then .next (s.pass f).bcastBack
    else if f.crcOk && s.laterCopy f then .next ((s.passAgain f).dropNote f)
    else if f.crcOk && s.obeys then .next (((s.pass f).noteFrame f).arrive true f.frame.src.toNat true f.frame.payload)
    else .next (s.pass f)
  else .next s

/-! ## TIME (R259, R263, R310, R313) -/

/-- The error of a TIME frame in ticks, its hops counted at 60 ns and the cable's delay each (R310). -/
def State.timeError (s : State) (f : Frame) : Int :=
  let ns := f.hops.toNat * (60 + fld (s.cfgAt 0xC0008) 15 8)
  (leAt f.payload 0 8 : Int) + quot ns 5 - s.clk.stamp

/-- Ring TIME is what the time base follows at present (R310). -/
def State.followsRing (s : State) : Bool := s.timeSrc == 2 || (s.timeSrc == 3 && s.clk.following != 1)

/-- A TIME frame as a reference (R310): an event only with flags bits 0 and 1 clear. -/
def State.timeEvent (s : State) (f : Frame) : State :=
  if !s.tbRuns || !s.followsRing then s
  else if leAt f.payload 28 4 % 4 = 0 then s.refEvent 2 (s.timeError f) else s.ignoreEvent

/-- TIME reaches the device: an isolated one is what it was before, admitted or fenced with its address unchanged, or not yet
admitted (Table 10.8). -/
def State.reached (s : State) : State :=
  let s := { s with ring := { s.ring with lastTime := s.clk.now } }
  if s.ring.state ≠ .isolated then s
  else if s.ring.address = 0 ∨ bit s.ring.admittedMap s.ring.address = false then
    { s with ring := { s.ring with state := .notAdmitted } }
  else if bit s.ring.fencedMap s.ring.address then { s with ring := { s.ring with state := .fenced } }
  else s.becomeAdmitted

/-- What a TIME frame does at a device that is no root, by its standing: no part of it reaches a fenced device or one in root
conflict but the sign that the root is there. -/
def State.takeTime (s : State) (f : Frame) : State :=
  let t := (if leAt f.payload 24 4 = s.ring.enumNumber then s else s.endConflict).reached
  match t.ring.state with
  | .admitted => if rootOf f = t.ring.rootUid.toNat then t.timeEvent f else t
  | .fenced | .conflict => t
  | _ =>
    let t := { t with ring := { t.ring with
      rootUid := BitVec.ofNat 128 (rootOf f), enumNumber := leAt f.payload 24 4 } }
    if t.ring.joinDue.isSome then t else t.sendJoin

/-- The first copy of a TIME frame is passed on. A frame waits in the bypass buffer while a frame of the device's own is in progress on
the outgoing port; bit 0 of the payload's flags is set then (R252, R313). -/
def State.passTime (s : State) (a : Arrival) : State :=
  let t := s.meet a
  if s.removes a.frame then t
  else
    let f := t.stamped a.frame
    t.passFrame a (if t.ownInProgress (otherLink a.port) then
        { f with payload := f.payload.take 28 ++ leBytes 4 (leAt f.payload 28 4 ||| 1) ++ f.payload.drop 32 } else f)

/-- TIME (R310, R311, R259, R262): a later copy goes on unchanged. -/
def execTimeFrame (f : Arrival) (s : State) : Host.Outcome State Fault Refusal :=
  if s.hears f 4 then
    if s.rivalRoot f then .next ((s.pass f).meetRoot (rootOf f.frame))
    else if s.inp.root || !f.crcOk then .next (s.pass f)
    else if s.laterCopy f then .next ((s.passAgain f).dropNote f)
    else .next (((s.passTime f).noteFrame f).takeTime f.frame)
  else .next s

/-- The payload of the root's TIME frame (Table 10.4, R313). -/
def State.timePayload (s : State) : List Byte :=
  leBytes 8 s.clk.stamp ++ leBytes 16 s.ident.uid.toNat ++ leBytes 4 s.ring.enumNumber
    ++ leBytes 4 ((if s.clk.epochValid then 0 else 2) + (if s.clk.mode = .holdover then 4 else 0)
      + (if s.clk.mode = .slewing then 8 else 0))

/-- TIME_SEND (R313). -/
def execTimeSend (s : State) : Host.Outcome State Fault Refusal :=
  match s.ring.timeDue with
  | some due =>
    if s.pm.state.logs && s.inp.root && s.ring.enumDone && s.ring.state != .conflict then
      let t := s.till due
      let t := t.sendFrame .a (t.ownFrame 0x04 0 t.timePayload)
      .next { t with ring := { t.ring with timeDue := some (t.clk.now + msTicks) } }
    else .next s
  | none => .next s

/-- The device has been on a Hedgerow and may lose it: it is no root, is not isolated yet and not in root conflict, and a link is up
or it has an address (Table 10.8). -/
def State.mayIsolate (s : State) : Bool :=
  !s.inp.root && s.pm.state.logs && s.ring.state != .isolated && s.ring.state != .conflict
    && (s.ring.state != .noLink || s.ring.address != 0)

/-- ISOLATED (R263): no TIME for 10 ms. -/
def execIsolated (s : State) : Host.Outcome State Fault Refusal :=
  if s.mayIsolate then
    let t := s.till (s.ring.lastTime + 10 * msTicks)
    .next (State.irqGl { t with ring := { t.ring with state := .isolated } } 11)
  else .next s

/-! ## Enumeration (R257, R258) -/

/-- ENUMERATE (R257): the root launches an enumeration. -/
def execEnumerate (s : State) : Host.Outcome State Fault Refusal := .next s.launchEnum

/-- The lowest address from 2 to 4,094 whose bit in a map is 0, or 0. -/
def lowestFree (map : BitVec 4096) : Nat := (((List.range 4093).map (· + 2)).find? (fun a => !bit map a)).getD 0

/-- The map of a TOKEN payload. -/
def tokenMap (p : List Byte) : BitVec 4096 := BitVec.ofNat 4096 (leAt p 64 512)

/-- The address that a device claims in a TOKEN (R257). -/
def State.claimOf (s : State) (p : List Byte) : Nat :=
  match s.ring.record with
  | some r => if r.1.toNat = leAt p 0 4 ∧ 2 ≤ r.2 ∧ r.2 ≤ 4094 then r.2 else lowestFree (tokenMap p)
  | none => lowestFree (tokenMap p)

/-- A TOKEN payload with its claim and count. -/
def tokenTaken (p : List Byte) (a : Nat) : List Byte :=
  let map := if a = 0 then tokenMap p else tokenMap p ||| one 4096 a
  p.take 56 ++ leBytes 2 (leAt p 56 2 + 1) ++ leBytes 6 (leAt p 58 6) ++ leBytes 512 map.toNat

/-- A device that is no root takes a TOKEN with a new number: it claims an address and sends ENROL (R257). -/
def State.takeToken (s : State) (p : List Byte) : State :=
  let a := s.claimOf p
  let pos := leAt p 56 2
  let fp : Digest := BitVec.ofNat 256 (leAt p 20 32)
  let t := { s with ring := { s.ring with
    tokenSeen := some (leAt p 52 4), enumNumber := leAt p 52 4, enumDone := false, address := a
    rootUid := BitVec.ofNat 128 (leAt p 4 16), rootFp := fp } }
  t.sendFrame .a (t.ownFrame 0x11 1
    (t.enrolPayload a pos (s.sec.ownerFp != fp) (a != 0 && decide (pos < leAt p 58 2))))

/-- The root's TOKEN has returned: the ENROL frames are awaited for 1 ms at most. -/
def State.tokenBack (s : State) (p : List Byte) : State :=
  match s.ring.enum with
  | some e =>
    if leAt p 52 4 = s.ring.enumNumber ∧ e.returned = none then
      { s with ring := { s.ring with enum := some { e with
        returned := some (leAt p 56 2), waitDue := s.clk.now + msTicks } } }
    else s
  | none => s

/-- TOKEN (R257, R262): claimed once for each enumeration, and passed on. -/
def execTokenFrame (f : Arrival) (s : State) : Host.Outcome State Fault Refusal :=
  if s.hears f 0x10 then
    if s.rivalRoot f then .next ((s.pass f).meetRoot (rootOf f.frame))
    else if !f.crcOk then .next (s.pass f)
    else if s.inp.root then .next ((s.pass f).tokenBack f.frame.payload)
    else if s.ring.tokenSeen = some (leAt f.frame.payload 52 4) then .next (s.pass f)
    else
      let t := (s.meet f).endConflict.takeToken f.frame.payload
      .next (t.passFrame f (t.stamped { f.frame with payload := tokenTaken f.frame.payload (s.claimOf f.frame.payload) }))
  else .next s

/-- ENROL (R257): the root notes the claim. -/
def State.takeEnrol (s : State) (p : List Byte) : State :=
  match s.ring.enum with
  | some e =>
    let c : Claim := { uid := BitVec.ofNat 128 (leAt p 0 16), addr := leAt p 50 2, pos := leAt p 52 2
                       fenced := leAt p 54 2 % 2 == 1, admitted := leAt p 54 2 / 2 % 2 == 1 }
    { s with ring := { s.ring with enum := some { e with claims := e.claims.filter (fun d => d.uid != c.uid) ++ [c] } } }
  | none => s

/-- ENROL at the root; elsewhere it goes on. -/
def execEnrolFrame (f : Arrival) (s : State) : Host.Outcome State Fault Refusal :=
  if s.hears f 0x11 then
    let t := s.pass f
    .next (if f.crcOk && s.inp.root && s.forMe f.frame then t.takeEnrol f.frame.payload else t)
  else .next s

/-- A claim keeps its address: the ring map holds it for this device, or for none of its claimants and it is the first of them in
token order (R257). -/
def claimKeeps (map : Tab Uid) (l : List Claim) (c : Claim) : Bool :=
  let rivals := l.filter (fun d => d.addr == c.addr && d.uid != c.uid)
  c.addr != 0 && (Tab.get? map c.addr == some c.uid
    || (!rivals.any (fun d => Tab.get? map c.addr == some d.uid) && rivals.all (fun d => decide (c.pos < d.pos))))

/-- New addresses for the claims that lose theirs, in token order: at most 64, each the lowest with no claim. -/
def reassign (used : BitVec 4096) : Nat → List Claim → List (Claim × Nat)
  | 0, _ => []
  | _, [] => []
  | k + 1, c :: t =>
    let a := lowestFree used
    if a = 0 then [] else (c, a) :: reassign (used ||| one 4096 a) k t

/-- How an enumeration is settled: each enrolled device with its final address, and the reassignments. -/
def State.settleClaims (s : State) (l : List Claim) : List (Claim × Nat) × List (Claim × Nat) :=
  let l := l.mergeSort (fun a b => decide (a.pos ≤ b.pos))
  let keep := l.filter (claimKeeps s.ring.map l)
  let lose := l.filter (fun c => c.addr != 0 && !claimKeeps s.ring.map l c)
  let used := l.foldl (fun w c => w ||| one 4096 c.addr) 0
  let moved := reassign used 64 lose
  (keep.map (fun c => (c, c.addr)) ++ moved, moved)

/-- The mask of the final addresses of the devices that meet a condition. -/
def claimMask (l : List (Claim × Nat)) (p : Claim → Bool) : BitVec 4096 :=
  l.foldl (fun w e => if p e.1 then w ||| one 4096 e.2 else w) 0

/-- The ring map after an enumeration: earlier reservations, but those of devices that have moved, and the enrolled devices. -/
def State.newMap (s : State) (l : List (Claim × Nat)) : Tab Uid :=
  let old := s.ring.map.filter (fun e => !l.any (fun x => x.1.uid == e.2))
  l.foldl (fun m e => Tab.insert m e.2 e.1.uid) old

/-- The payload of CLOSURE (Table 10.4). -/
def State.closurePayload (s : State) (count : Nat) (moved : List (Claim × Nat)) : List Byte :=
  leBytes 4 (s.cfgAt 0xA0004).toNat ++ leBytes 16 s.ident.uid.toNat ++ leBytes 4 s.ring.enumNumber ++ leBytes 2 count
    ++ leBytes 2 moved.length ++ leBytes 512 s.ring.admittedMap.toNat ++ leBytes 512 s.ring.fencedMap.toNat
    ++ moved.flatMap (fun e => leBytes 16 e.1.uid.toNat ++ leBytes 2 e.2)

/-- The claims that are admitted at closure: those admitted by the token or by a late JOIN, in the order of their positions, devices that
joined late last, and no more than the root may admit beside itself (R256). -/
def State.admittedClaims (s : State) (l : List (Claim × Nat)) : List (Claim × Nat) :=
  ((l.mergeSort (fun a b => decide (a.1.pos ≤ b.1.pos))).filter (fun e => e.1.admitted)).take (s.ringLimit - 1)

/-- The root closes an enumeration of `count` positions (R256 to R258). -/
def State.closeEnum (s : State) (e : Enum) (count : Nat) : State :=
  let r := s.settleClaims e.claims
  let adm := s.admittedClaims r.1
  let beyond := decide (s.ringLimit < count) || decide (adm.length < (r.1.filter (fun x => x.1.admitted)).length)
  let map := s.newMap r.1
  let fenced := claimMask r.1 (fun c => c.fenced)
  let t := { s with ring := { s.ring with
    enum := none, enumDone := true, joinDue := none
    admittedMap := one 4096 1 ||| claimMask adm (fun _ => true), fencedMap := fenced
    map := map, absent := (map.map Prod.fst).filter (fun a => !r.1.any (fun x => x.2 == a))
    overBudget := beyond, duration := min 65535 ((s.clk.now - e.launch) / 2000), timeDue := some (s.clk.now + msTicks) } }
  let t := t.becomeAdmitted.irqGl 2
  let t := if beyond && !s.ring.overBudget then t.irqGl 3 else t
  let t := if fenced &&& ~~~s.ring.fencedMap != 0 then t.irqGl 5 else t
  let t := t.sendFrame .b (t.ownFrame 0x12 0 (t.closurePayload count r.2))
  if e.again then t.launchEnum else t

/-- The ENROL of every position has come. -/
def Enum.complete (e : Enum) (count : Nat) : Bool :=
  (List.range count).all (fun i => i == 0 || e.claims.any (fun c => c.pos == i))

/-- ENROL_WAIT_END (R257): every ENROL is in, or 1 ms has passed since the token's return. -/
def execEnrolWaitEnd (s : State) : Host.Outcome State Fault Refusal :=
  match s.ring.enum with
  | some e =>
    match e.returned with
    | some n =>
      if s.pm.state.logs then .next ((if e.complete n then s else s.till e.waitDue).closeEnum e n) else .next s
    | none => .next s
  | none => .next s

/-- The address that a CLOSURE's reassignments give this device (Table 10.4). -/
def State.reassigned (s : State) (p : List Byte) : Option Nat :=
  ((List.range (leAt p 26 2)).find? (fun i => leAt p (1052 + 18 * i) 16 == s.ident.uid.toNat)).map (fun i =>
    leAt p (1068 + 18 * i) 2)

/-- A CLOSURE with all 64 reassignments that does not list this device: no field says whether its ENROL was rejected (R258). -/
def State.closureFull (s : State) (p : List Byte) : Bool := leAt p 26 2 == 64 && (s.reassigned p).isNone

/-- CLOSURE at a device with its own enumeration number (R258). A device whose ENROL the root has rejected for want of a 65th
reassignment has no address and stays unadmitted; whether it is one is a free value where CLOSURE cannot tell (log entry 43). -/
def State.takeClosure (s : State) (p : List Byte) : State :=
  let out := s.closureFull p && Config.freeBit s.free
  let a := if out then 0 else (s.reassigned p).getD s.ring.address
  let t := if s.closureFull p then s.takeFree else s
  let t := { t with ring := { t.ring with
    address := a, enumDone := true
    admittedMap := BitVec.ofNat 4096 (leAt p 28 512), fencedMap := BitVec.ofNat 4096 (leAt p 540 512)
    record := if a = 0 then s.ring.record else some (BitVec.ofNat 32 (leAt p 0 4), a) } }
  t.standing.irqGl 2

/-- CLOSURE (R258, R262). -/
def execClosureFrame (f : Arrival) (s : State) : Host.Outcome State Fault Refusal :=
  if s.hears f 0x12 then
    if s.rivalRoot f then .next ((s.pass f).meetRoot (rootOf f.frame))
    else
      let t := s.pass f
      if f.crcOk && !s.inp.root && s.ring.state != .conflict && s.ring.tokenSeen == some (leAt f.frame.payload 20 4)
          && !s.ring.enumDone then
        .next (t.takeClosure f.frame.payload)
      else .next t
  else .next s

/-- FORGET (R258): GL_ENUM_CTRL.forget is written 1. -/
def execForget (s : State) : Host.Outcome State Fault Refusal := .next (s.writeLive .class2 0xA0028 1)

/-! ## Joining late (R259) -/

/-- The address the root gives a device that joins: the one the ring map holds for it, the one it claims where that is free, else the
lowest that is. -/
def State.joinAddress (s : State) (uid : Uid) (claim : Nat) : Nat :=
  match s.ring.map.find? (fun e => e.2 == uid) with
  | some e => e.1
  | none => if 2 ≤ claim ∧ claim ≤ 4094 ∧ bit s.mapBits claim = false then claim else lowestFree s.mapBits

/-- A device is entered in the maps. -/
def State.enterMaps (s : State) (a : Nat) (admitted fenced : Bool) : State :=
  { s with ring := { s.ring with
    admittedMap := putBit s.ring.admittedMap a admitted, fencedMap := putBit s.ring.fencedMap a fenced } }

/-- The root answers a JOIN with ADMIT; an enumeration in progress counts the device as enrolled. -/
def State.takeJoin (s : State) (p : List Byte) : State :=
  let uid : Uid := BitVec.ofNat 128 (leAt p 0 16)
  let a := s.joinAddress uid (leAt p 50 2)
  let others := s.ring.admittedMap &&& ~~~(one 4096 a)
  let claimed := match s.ring.enum with
    | some e => 1 + (e.claims.filter (fun d => d.admitted && d.uid != uid)).length
    | none => 0
  let room := decide (countBits others < s.ringLimit) && decide (claimed < s.ringLimit)
  let admitted := a != 0 && room
  let fenced := leAt p 16 32 != s.sec.ownerFp.toNat
  let t := if a = 0 then s else
    State.enterMaps { s with ring := { s.ring with
      map := Tab.insert s.ring.map a uid, absent := s.ring.absent.filter (· != a) } } a admitted fenced
  let t := if a != 0 && !room && !s.ring.overBudget then State.irqGl { t with ring := { t.ring with overBudget := true } } 3 else t
  let t := if fenced && !bit s.ring.fencedMap a && a != 0 then t.irqGl 5 else t
  let c : Claim := { uid := uid, addr := a, pos := 4095, fenced := fenced, admitted := admitted }
  let t := { t with ring := { t.ring with
    enum := t.ring.enum.map (fun (e : Enum) => { e with claims := e.claims.filter (fun (d : Claim) => d.uid != uid) ++ [c] }) } }
  t.sendFrame .a (t.ownFrame 0x14 4095 (leBytes 16 uid.toNat ++ leBytes 2 a
    ++ leBytes 2 ((if fenced then 1 else 0) + (if admitted then 2 else 0))))

/-- JOIN (R259): the root answers every one, but in root conflict it admits no device (R262). -/
def execJoinFrame (f : Arrival) (s : State) : Host.Outcome State Fault Refusal :=
  if s.hears f 0x13 then
    let t := s.pass f
    .next (if f.crcOk && s.inp.root && s.forMe f.frame && s.ring.state != .conflict then t.takeJoin f.frame.payload else t)
  else .next s

/-- The reply of the command for which JOIN waits is still on its way to the ring port: being signed, or waiting (R259). -/
def State.joinWaits (s : State) : Bool :=
  s.ring.joinTag.any (fun t =>
    (s.cmd? true t).isSome || s.port.signing.any (fun u => u.cmd.ring && u.cmd.tag == t)
      || s.port.waiting.any (fun r => r.ring && r.tag == t))

/-- JOIN_RESEND (R259): 100 ms have passed without an ADMIT, or the owner fingerprint has changed and the reply of the command that
changed it has left its ring port. -/
def execJoinResend (s : State) : Host.Outcome State Fault Refusal :=
  match s.ring.joinDue with
  | some due =>
    if s.pm.state.logs && (s.ring.linkA.up || s.ring.linkB.up) && !s.joinWaits then .next (s.till due).sendJoin else .next s
  | none => .next s

/-- ADMIT at a device: its maps, and its own address and standing where the frame names it (R258, R259); one that is not fenced has the
root's fingerprint (R261). -/
def State.takeAdmit (s : State) (p : List Byte) : State :=
  let a := leAt p 16 2
  let flags := leAt p 18 2
  let t := s.enterMaps a (flags / 2 % 2 == 1) (flags % 2 == 1)
  if leAt p 0 16 = s.ident.uid.toNat then
    let freed := t.ring.state == .fenced && flags % 2 == 0
    State.standing { t with ring := { t.ring with
      address := a, state := if freed then .awaiting else t.ring.state
      rootFp := if flags % 2 = 0 then s.sec.ownerFp else s.ring.rootFp } }
  else t

/-- ADMIT (R259). -/
def execAdmitFrame (f : Arrival) (s : State) : Host.Outcome State Fault Refusal :=
  if s.hears f 0x14 then
    let t := s.pass f
    .next (if f.crcOk && !s.inp.root && s.ring.state != .conflict then t.takeAdmit f.frame.payload else t)
  else .next s

/-- CONFLICT (R262). -/
def execConflictFrame (f : Arrival) (s : State) : Host.Outcome State Fault Refusal :=
  if s.hears f 0x15 then
    let t := s.pass f
    .next (if f.crcOk then t.enterConflict else t)
  else .next s

/-- A frame kind of Table 10.4. -/
def knownKind (k : Nat) : Bool := [1, 2, 3, 4, 0x10, 0x11, 0x12, 0x13, 0x14, 0x15, 0x20, 0x21].contains k

/-- UNKNOWN_FRAME (R251): discarded and counted by its destination, passed on by others. -/
def execUnknownFrame (f : Arrival) (s : State) : Host.Outcome State Fault Refusal :=
  if s.pm.state.logs && (s.link f.port).up && !knownKind f.frame.kind.toNat then
    let t := s.pass f
    .next (if s.forMe f.frame then t.setLink f.port (fun g => { g with discarded := inc 255 g.discarded }) else t)
  else .next s

end Sys2Proof.Machine
end

