-- ==== Sys2Proof/Machine/Sense.lean ====
section
/-! DEFINITION. Sys2Proof/Machine/Sense.lean: comparator changes, settle holds, ramps, blanking, self-test, FLT pins, converters and
EN pin levels (03, R270). -/

set_option Elab.async false

namespace Sys2Proof.Machine

/-- A fault that the sense die finds reaches the fault logic, unless its crossing holds its last values (R321). -/
def State.senseFault (s : State) (f : FaultRec) : State := if bit s.clk.stopped 1 then s else s.receive f

/-- A comparator's output after one of its overrides has ended, seen by every consumer (R70). -/
def State.release (s old : State) (src : Nat) : State := (s.reeval src).senseChange old [src]

/-! ## Comparators (R41, R70, R72) -/

/-- COMPARATOR_CROSSING (R70, R41): the decision of comparator src is now `fault` or not; during a self-test its input is
disconnected (R84). -/
def execComparatorCrossing (src : BitVec 8) (fault : Bool) (s : State) : Host.Outcome State Fault Refusal :=
  let n := src.toNat
  if s.evaluated n && !(s.underTest n && decide (s.sense.test.phase < 5)) then .next ((s.observe n fault).senseChange s [n])
  else .next s

/-- The test of a comparator is over (R84). -/
def State.endTest (s : State) : State :=
  { s with sense := { s.sense with test := { s.sense.test with src := none, held := [], phase := 0, wrong := false } } }

/-- SETTLE_HOLD_END (R72); of a comparator whose self-test has restored it, also the end of that test (Table 03.11). -/
def execSettleHoldEnd (src : BitVec 8) (s : State) : Host.Outcome State Fault Refusal :=
  let n := src.toNat
  match (s.cmp n).settle with
  | some due =>
    let t := s.till due
    let u := t.setCmp n { t.cmp n with settle := none }
    let u := if u.underTest n && u.sense.test.phase == 5 then u.endTest else u
    .next (u.release t n)
  | none => .next s

/-! ## Ramps (R75, R76) -/

/-- A ramp after its next step toward the static code; none where it has reached it, or finds it passed. -/
def Ramp.advance (r : Ramp) (target : Nat) : Option Ramp :=
  let p := if r.up then r.pos + 1 else r.pos - 1
  if (r.up && decide (target ≤ p)) || (!r.up && decide (p ≤ target)) then none
  else some { r with pos := p, next := r.next + r.div }

/-- RAMP_STEP (R75): the DAC moves one LSB. -/
def execRampDacStep (src : BitVec 8) (s : State) : Host.Outcome State Fault Refusal :=
  let n := src.toNat
  match (s.cmp n).ramp with
  | some r =>
    let t := s.till r.next
    .next (t.setCmp n { t.cmp n with ramp := r.advance (fld (t.cmpCfg n) 11 0) })
  | none => .next s

/-! ## Blanking (R77 to R82) -/

/-- Delay and width of CH_CMP_BLANK. -/
def State.blankDelay (s : State) (src : Nat) : Nat := fld (s.cmpBlank src) 15 0
def State.blankWidth (s : State) (src : Nat) : Nat := fld (s.cmpBlank src) 31 16

/-- The comparator takes PWMSYNC blanking, outside Standby and Coppice mode. -/
def State.syncUses (s : State) (src : Nat) : Bool :=
  bit (s.cmpCfg src) 26 && s.blankWidth src != 0 && (s.pm.state.logs || (s.pm.state == .starting && s.pm.stage == 5))

/-- Its window may open now: the core clock is taken from the locked PLL (R82), whatever the PLL is locked to (R301). -/
def State.syncBlanks (s : State) (src : Nat) : Bool := s.syncUses src && s.clk.corePll

/-- A PWMSYNC edge at comparator src (Table 03.8). -/
def State.syncEdge (s : State) (src : Nat) : State :=
  let c := s.cmp src
  let start := s.clk.now + 3 + s.blankDelay src
  if c.syncClose.isSome then s.setCmp src { c with syncClose := some (start + s.blankWidth src) }
  else s.setCmp src { c with syncOpen := some start }

/-- PWMSYNC_EDGE (R78, R79). -/
def execPwmsyncEdge (pin : BitVec 2) (s : State) : Host.Outcome State Fault Refusal :=
  .next ((List.range 256).foldl (fun (t : State) src =>
    if t.syncUses src && fld (t.cmpCfg src) 25 24 == pin.toNat then t.syncEdge src else t) s)

/-- PWMSYNC_WINDOW_OPEN (R78, R80). A write of blank_src, sync_sel, D or W moves no opening that is pending and no window that is open;
blank_src and W are read at the opening (log entry 50). -/
def execPwmsyncWindowOpen (src : BitVec 8) (s : State) : Host.Outcome State Fault Refusal :=
  let n := src.toNat
  match (s.cmp n).syncOpen with
  | some due =>
    let t := s.till due
    let c := t.cmp n
    if t.syncBlanks n && decide (c.syncLock ≤ t.clk.now) then
      .next (t.setCmp n { c with
        syncOpen := none, syncSince := t.clk.now, syncClose := some (t.clk.now + t.blankWidth n) })
    else .next (t.setCmp n { c with syncOpen := none })
  | none => .next s

/-- The most ticks for which PWMSYNC holds a comparator (R80). -/
def syncLimit : Nat := 65536

/-- PWMSYNC_WINDOW_CLOSE (R78). -/
def execPwmsyncWindowClose (src : BitVec 8) (s : State) : Host.Outcome State Fault Refusal :=
  let n := src.toNat
  match (s.cmp n).syncClose with
  | some due =>
    if due < (s.cmp n).syncSince + syncLimit then
      let t := s.till due
      .next ((t.setCmp n { t.cmp n with syncClose := none }).release t n)
    else .next s
  | none => .next s

/-- BLANKING_OVERRUN (R80). -/
def execBlankingOverrun (src : BitVec 8) (s : State) : Host.Outcome State Fault Refusal :=
  let n := src.toNat
  let limit := (s.cmp n).syncSince + syncLimit
  match (s.cmp n).syncClose with
  | some due =>
    if due < limit then .next s
    else
      let t := s.till limit
      let u := t.setCmp n { t.cmp n with syncClose := none, syncLock := t.clk.now + 256 }
      let k := inc 65535 (Tab.getD u.sense.blankOverrun (n / 4) 0)
      let u := { u with sense := { u.sense with blankOverrun := Tab.put 0 u.sense.blankOverrun (n / 4) k } }
      .next ((u.release t n).senseFault (wFault 7 n))
  | none => .next s

/-- ENABLE_WINDOW_OPEN (R81). A write of blank_src, De or We moves no opening that is pending and no window that is open; We is read
at the opening (log entry 50). -/
def execEnableWindowOpen (src : BitVec 8) (s : State) : Host.Outcome State Fault Refusal :=
  let n := src.toNat
  match (s.cmp n).enOpen with
  | some due =>
    let t := s.till due
    let we := fld (t.cmpEnblank n) 15 0
    .next (t.setCmp n { t.cmp n with
      enOpen := none, enClose := if we = 0 then none else some (t.clk.now + we * usTicks) })
  | none => .next s

/-- ENABLE_WINDOW_CLOSE (R81). -/
def execEnableWindowClose (src : BitVec 8) (s : State) : Host.Outcome State Fault Refusal :=
  let n := src.toNat
  match (s.cmp n).enClose with
  | some due =>
    let t := s.till due
    .next ((t.setCmp n { t.cmp n with enClose := none }).release t n)
  | none => .next s

/-! ## Self-test (R83 to R88) -/

/-- The length of a phase in ticks (Table 03.10). -/
def phaseTicks : Nat → Nat
  | 0 => 24 | 1 => 56 | 2 => 400 | _ => 6000

/-- The comparator is skipped at its slot (Table 03.12). -/
def State.testSkips (s : State) (src : Nat) : Bool :=
  let p := s.cmp (partner src)
  [0, 1, 2, 3].any (fun k => (s.cmp (4 * (src / 4) + k)).ramp.isSome) || p.status == .failed || p.status == .unresolved
    || p.settle.isSome || (s.cmp src).settle.isSome

/-- The test of comparator src begins. CH_COUNTS.tested clears as the test begins, and skipped with it (log entry 50). -/
def State.beginTest (s : State) (src : Nat) : State :=
  let t := s.setCmp src { s.cmp src with tested := false, skipped := false, skipRun := 0 }
  { t with sense := { t.sense with test := { t.sense.test with
      src := some src
      held := [s.cmpCfg src, s.cmpBlank src, s.cmpEnblank src]
      phase := 1
      wrong := false
      due := s.clk.now + phaseTicks (s.cmpMode src) } } }

/-- The comparator is skipped; the fourth round in a row raises "self-test starved" (R86). -/
def State.skipTest (s : State) (src : Nat) : State :=
  let run := (s.cmp src).skipRun + 1
  let starved := decide (4 ≤ run)
  let t := s.setCmp src { s.cmp src with tested := false, skipped := true, skipRun := if starved then 0 else run }
  let t := { t with sense := { t.sense with test := { t.sense.test with
      skippedNow := t.sense.test.skippedNow + 1
      starved := if starved then inc 255 t.sense.test.starved else t.sense.test.starved } } }
  if starved then t.senseFault (wFault 8 src) else t

/-- The slot passes to the next source; after source 255 a round is over, and skip_count takes its number (log entry 50). `due` is
the slot's edge of the 32.768 kHz clock. -/
def State.nextSlot (s : State) (due : Nat) : State :=
  let t := s.sense.test
  let last := decide (t.next = 255)
  { s with sense := { s.sense with test := { t with
      next := (t.next + 1) % 256
      slotDue := some (due + s.slotPeriods)
      skipCount := if last then t.skippedNow else t.skipCount
      skippedNow := if last then 0 else t.skippedNow } } }

/-- SELFTEST_SLOT (R86). -/
def execSelftestSlot (s : State) : Host.Outcome State Fault Refusal :=
  match s.sense.test.slotDue, s.sense.test.src with
  | some due, none =>
    let t := s.till (aonTicks due)
    let src := t.sense.test.next
    let u :=
      if (t.cmp src).status = .failed then t.setCmp src { t.cmp src with tested := false, skipped := false }
      else if t.testSkips src then t.skipTest src
      else (t.beginTest src).refreshFlt t
    .next (u.nextSlot due)
  | _, _ => .next s

/-- The result of a test is recorded and the comparator restored: failed, or good with a settle hold of the mode now in force
(Table 03.11, R88). -/
def State.restoreTest (s : State) (src : Nat) (wrong : Bool) : State :=
  if wrong then
    let t := s.endTest
    (t.setCmp src { t.cmp src with status := .failed, out := true }).senseChange s [src]
  else
    let t := { s with sense := { s.sense with test := { s.sense.test with held := [], phase := 5 } } }
    (t.setCmp src { t.cmp src with tested := true }).startSettle src

/-- SELFTEST_PHASE_END (R84, R88): a phase has given the required decision, `right`, or not. -/
def execSelftestPhaseEnd (right : Bool) (s : State) : Host.Outcome State Fault Refusal :=
  match s.sense.test.src with
  | some src =>
    if s.sense.test.phase < 5 then
      let t := s.till s.sense.test.due
      let wrong := t.sense.test.wrong || !right
      if t.sense.test.phase = 4 then .next (t.restoreTest src wrong)
      else
        .next { t with sense := { t.sense with test := { t.sense.test with
          phase := t.sense.test.phase + 1, wrong := wrong, due := t.clk.now + phaseTicks (t.cmpMode src) } } }
    else execSettleHoldEnd (BitVec.ofNat 8 src) s
  | none => .next s

/-! ## FLT pins (R90) -/

/-- FLT_STRETCH_END (R90). -/
def execFltStretchEnd (pin : BitVec 3) (s : State) : Host.Outcome State Fault Refusal :=
  match Tab.get? s.sense.fltStretch pin.toNat with
  | some due =>
    let t := s.till due
    let rest := Tab.erase t.sense.fltStretch pin.toNat
    let up := bit t.fltRaw pin.toNat || bit t.sense.fltLatched pin.toNat
    .next { t with sense := { t.sense with fltStretch := rest, fltLevel := putBit t.sense.fltLevel pin.toNat up } }
  | none => .next s

/-- FLT_LATCH_CLEAR (R90): FL_PIN_STATUS.latched is written. -/
def execFltLatchClear (pins : Byte) (s : State) : Host.Outcome State Fault Refusal :=
  .next (s.writeLive .class1 0x30120 ((s.contentAt 0x30120 &&& 0xFF) ||| at_ pins.toNat 8))

/-! ## Converters (R92 to R96) -/

/-- SCAN_PASS_START (R92): a pass is due at its interval; one that is still handing its entries delays it. -/
def execScanPassStart (s : State) : Host.Outcome State Fault Refusal :=
  let p := s.sense.scan
  if p.running && s.scanLive && s.scanInterval != 0 && !p.overdue then
    let t := s.till (p.start + s.scanInterval)
    if p.list.length ≤ p.next then .next t.openGroups.startPass.assignAll
    else
      .next { t with sense := { t.sense with
        scan := { p with overdue := true }, passOverrun := inc 65535 t.sense.passOverrun } }
  else .next s

/-- What a completed conversion does for the user it served. CH_TRIG_RESULTg_i takes the calibrated code of its own conversion, that of
a diode pair's first one too, which gives no new temperature (log entry 50). -/
def State.served (s : State) (x : Conv) (code : BitVec 16) : State :=
  match x.user with
  | .scan last =>
    if last then { s with sense := { s.sense with passCount := (s.sense.passCount + 1) % 65536 } } else s
  | .group g i =>
    let r : TrigResult := { code := code, seq := BitVec.ofNat 8 ((nth s.sense.groups g {}).done + 1) }
    let t := { s with sense := { s.sense with results := Tab.insert s.sense.results (8 * g + i) r } }
    (t.setGroup g (fun (q : Group) => { q with flying := q.flying - 1 })).groupDone g
  | .sweep req => s.sweepTake req x.input code
  | .saggar | .walker => s

/-- Converter c completes conversion x with a raw code: the calibrated code goes to the reading and to the user served (R93, R171),
and the converter takes its next work. -/
def State.convDone (s : State) (c : Nat) (x : Conv) (raw : BitVec 16) : State :=
  let t := (s.till x.due).openGroups
  let t := { t with sense := { t.sense with convs := modNth t.sense.convs c (fun _ => none) } }
  ((t.takeReading x.input raw).served x (t.calibrated x.input raw)).assign c 12

/-- CONVERSION_COMPLETE (R93): converter `conv` delivers a raw code; an idle one that waits for a group's instant has begun at that
instant (R95). -/
def execConversionComplete (conv : BitVec 2) (code : BitVec 16) (s : State) : Host.Outcome State Fault Refusal :=
  match nth s.sense.convs conv.toNat none with
  | some x => .next (s.convDone conv.toNat x code)
  | none =>
    match s.nextOpen conv.toNat with
    | some due =>
      let t := (s.till due).openGroups
      match nth t.sense.convs conv.toNat none with
      | some x => .next (t.convDone conv.toNat x code)
      | none => .next t
    | none => .next s

/-- CTRIG_EDGE (R94, R95): an edge on CTRIG0 to CTRIG3 (1 to 4) or PWMSYNC0 to PWMSYNC3 (5 to 8). -/
def execCtrigEdge (source : BitVec 4) (s : State) : Host.Outcome State Fault Refusal :=
  if s.scanLive ∧ 1 ≤ source.toNat ∧ source.toNat ≤ 8 then .next (s.fireTrigger source.toNat 3) else .next s

/-- The converters serve a Saggar demand of this input (R97): of any input from stage 5, in Coppice mode of those that C6 waits
on. -/
def State.demandLive (s : State) (input : Nat) : Bool :=
  decide (input < 112) && (s.scanLive
    || (s.pm.state == .coppice && s.walk.entries.any (fun x => entWait x && entInput x == input)))

/-- SAGGAR_CONVERSION_DEMAND (R96, Table 03.16). -/
def execSaggarConversionDemand (input : BitVec 7) (s : State) : Host.Outcome State Fault Refusal :=
  if s.demandLive input.toNat then .next (s.demand input.toNat .saggar) else .next s

/-! ## EN pins (R270) -/

/-- Founding waited for EN lines that read high, and every one reads low now (Table 10.12). -/
def State.unblock (s : State) : State :=
  if s.out.passive && s.twin.state == .blocked && s.inp.enHigh == 0 && s.pm.state.logs then s.found.tryPending else s

/-- EN_PIN_LEVEL_CHANGE (R270): the filtered level of pin EN n; under twin supervision it arms or disarms UVF and UVW. -/
def execEnPinLevelChange (rail : BitVec 6) (high : Bool) (s : State) : Host.Outcome State Fault Refusal :=
  if s.pm.state = .off then .next s
  else
    let n := rail.toNat
    let t := { s with inp := { s.inp with enHigh := putBit s.inp.enHigh n high } }
    if t.twinEn && !t.out.passive then
      let u := if high then t else
        [4 * n, 4 * n + 1].foldl (fun (v : State) src => v.setCmp src { v.cmp src with armed := false }) t
      .next (u.senseChange s [4 * n, 4 * n + 1])
    else .next t.unblock

end Sys2Proof.Machine
end

