-- ==== Sys2Proof/Machine/Sweep.lean ====
section
/-! DEFINITION. Sys2Proof/Machine/Sweep.lean: the in-service sweep (R165 to R170). -/

set_option Elab.async false

namespace Sys2Proof.Machine

/-- START_NOW (R165): MG_SWEEP_CONTROL.start_now is written 1. -/
def execStartNow (s : State) : Host.Outcome State Fault Refusal := .next (s.writeLive .class1 0x70808 1)

/-- SWEEP_STOP (R169): MG_SWEEP_CONTROL.stop is written 1. -/
def execSweepStop (s : State) : Host.Outcome State Fault Refusal := .next (s.writeLive .class1 0x70808 2)

/-- SWEEP_CYCLE_START (R165): a scheduled cycle is due, and the one before it has ended. -/
def execSweepCycleStart (s : State) : Host.Outcome State Fault Refusal :=
  match s.mg.sweep.cycleDue with
  | some due =>
    if s.pm.state = .running ∧ s.mg.sweep.active = false then .next (s.till due).startCycle else .next s
  | none => .next s

/-- Fields of MG_SWEEPn: s, amp and dwell in ticks (Table 06.8). -/
def State.sweepSteps (s : State) (n : Nat) : Nat := max 1 (fld (s.sweepCfg n) 27 24)
def State.sweepAmp (s : State) (n : Nat) : Nat := fld (s.sweepCfg n) 23 12
def State.sweepDwell (s : State) (n : Nat) : Nat := max 1 (fld (s.sweepCfg n) 7 0) * msTicks

/-- j(p) of R166. -/
def sweepJ (steps p : Nat) : Int :=
  if p ≤ steps then p else if p ≤ 3 * steps then 2 * (steps : Int) - p else (p : Int) - 4 * steps

/-- a / b to the nearest whole number, halves away from zero. -/
def roundHalf (a : Int) (b : Nat) : Int :=
  if 0 ≤ a then (2 * a + b) / (2 * b : Nat) else -((-2 * a + b) / (2 * b : Nat))

/-- The code of point p before it is clamped (R166). -/
def State.pointCode (s : State) (n p : Nat) : Int :=
  s.nominal n + roundHalf (sweepJ (s.sweepSteps n) p * (s.sweepAmp n : Nat)) (s.sweepSteps n)

/-- Release codes of rail n: the higher of the UV ones and the lower of the OV ones (Table 03.3). -/
def State.uvRelease (s : State) (n : Nat) : Nat :=
  let r := fun k => min 4095 (s.threshold (4 * n + k) + fld (s.cmpCfg (4 * n + k)) 20 16)
  max (r 0) (r 1)
def State.ovRelease (s : State) (n : Nat) : Nat :=
  let r := fun k => s.threshold (4 * n + k) - fld (s.cmpCfg (4 * n + k)) 20 16
  min (r 2) (r 3)

/-- The guard of R167, in 1/1,024 of a rail code: one threshold LSB is 55/4 rail codes and 0.5 % of range 275. -/
def State.guardHolds (s : State) (n : Nat) : Bool :=
  let x0 : Int := ((s.coreReading n).code.toNat : Int) - 4096
  let dev := s.sweepSens n * (s.sweepAmp n : Nat)
  let lo : Int := 256 * (55 * (s.uvRelease n : Nat) + 1100)
  let hi : Int := 256 * (55 * (s.ovRelease n : Nat) - 1100)
  [dev, -dev].all (fun d => decide (lo ≤ 1024 * x0 + 4 * d) && decide (1024 * x0 + 4 * d ≤ hi))

/-- The result with which a rail is skipped at its start, 0 where its sweep starts (Table 06.3). -/
def State.sweepSkip (s : State) (n : Nat) : Nat :=
  if bit s.out.en n = false ∨ [0, 1, 2, 3].any (fun k => (s.coreCmp (4 * n + k)).status != .good) then 8
  else if (s.trim n).level ≠ 0 then 6
  else if s.guardHolds n then 0 else 5

/-- Point p of rail n begins: its code is applied. -/
def State.beginPoint (s : State) (n p : Nat) : State :=
  let t := s.applyTrim n 4 (s.pointCode n p)
  { t with mg := { t.mg with sweep := { t.mg.sweep with
      rail := some n, point := p, pointStart := t.clk.now, sampleDue := t.clk.now, samples := []
      clamped := t.mg.sweep.clamped || (t.trim n).clamped } } }

/-- SWEEP_RAIL_START (R165, R167): the next rail is swept or skipped. -/
def execSweepRailStart (s : State) : Host.Outcome State Fault Refusal :=
  if s.pm.state = .running ∧ s.mg.sweep.active ∧ s.mg.sweep.rail = none then
    match s.nextSwept with
    | some n =>
      let t := s.till s.mg.sweep.notBefore
      if t.sweepSkip n = 0 then
        let t := { t with mg := { t.mg with sweep := { t.mg.sweep with railStart := t.clk.now, clamped := false } } }
        .next (t.beginPoint n 0).sweepSees
      else .next ((t.endRail n (t.sweepSkip n)).finishCycle)
    | none => .next s.finishCycle
  else .next s

/-- SWEEP_SAMPLE (R166): a conversion of the rail, and of its current where is_en is set, is requested. -/
def execSweepSample (s : State) : Host.Outcome State Fault Refusal :=
  let w := s.mg.sweep
  match w.rail with
  | some n =>
    if s.pm.state = .running ∧ w.sampleDue < w.pointStart + s.sweepDwell n then
      let t := s.till w.sampleDue
      let cur := s.sweepIsEn n
      let t := { t with mg := { t.mg with sweep := { w with
          sampleDue := w.sampleDue + 2000, requests := w.requests + (if cur then 2 else 1) } } }
      let t := t.demand n (.sweep t.clk.now)
      .next (if cur then t.demand (t.sweepIs n) (.sweep t.clk.now) else t)
    else .next s
  | none => .next s

/-- What a completed point adds to the sweep's results (R168): its samples before and from the middle of its dwell give mean,
peak and settling time; a result without samples is a free number (log entry 7). -/
def State.pointDone (s : State) (n : Nat) : State :=
  let w := s.mg.sweep
  let half := w.pointStart + s.sweepDwell n / 2
  let all := w.samples.filterMap (fun (x : Sample) => x.code.map (fun c => (x.time, c)))
  let first := all.filter (fun e => decide (e.1 < half))
  let second := all.filter (fun e => decide (half ≤ e.1))
  let mean := fitOr (-0x8000) 0xFFFF s.free
    (if second.isEmpty then none else some (quot (second.map Prod.snd).sum second.length))
  let off := fun (e : Nat × Int) => (e.2 - mean).natAbs
  let tol := fld (s.cfgAt 0x70800) 15 8
  let far := first.filter (fun e => decide ((if tol = 0 then 4 else tol) < off e))
  let peak := if first.isEmpty then (Config.freeInt (s.free + 1)).natAbs % 65536 else (first.map off).foldl max 0
  let settle := (far.map (fun e => e.1 - w.pointStart)).foldl max 0
  let p := w.point
  let steps := s.sweepSteps n
  let pairs := w.samples.filterMap (fun (x : Sample) =>
    match x.code, x.cur with
    | some c, some i => if half ≤ x.time then some (c, i) else none
    | _, _ => none)
  let cur := (w.samples.filterMap (fun (x : Sample) => x.cur)).getLast?
  let iNom := fitOr (-0x8000) 0x7FFF (s.free + 2) cur
  { s with
    free := s.free + 3
    mg := { s.mg with sweep := { w with
      means := w.means ++ [((s.trim n).code.toInt, mean)]
      peak := if p = 0 then w.peak else max w.peak peak
      settle := if p = 0 then w.settle else max w.settle settle
      pairs := if s.sweepIsEn n && (p == 0 || p == 2 * steps || p == 4 * steps) then w.pairs ++ pairs else w.pairs
      iNom := if p = 0 && s.sweepIsEn n then iNom else w.iNom } } }

/-- SWEEP_POINT (R166, R168): a point's dwell ends, and the next code is applied or the rail is complete. -/
def execSweepPoint (s : State) : Host.Outcome State Fault Refusal :=
  match s.mg.sweep.rail with
  | some n =>
    if s.pm.state = .running then
      let t := (s.till (s.mg.sweep.pointStart + s.sweepDwell n)).pointDone n
      let p := t.mg.sweep.point
      .next (if p < 4 * t.sweepSteps n then t.beginPoint n (p + 1) else (t.endRail n 1).finishCycle)
    else .next s
  | none => .next s

end Sys2Proof.Machine
end

