-- ==== Sys2Proof/Machine/Tw.lean ====
section
/-! DEFINITION. Sys2Proof/Machine/Tw.lean: what happens on the buses of the two-wire ports (11): ends of transactions, idle buses,
stuck lines, bus clears, in-band requests, and the writes of TW_CTRLp. -/

set_option Elab.async false

namespace Sys2Proof.Machine

/-- How a transaction can end on the bus (Table 11.2): every byte acknowledged, one not acknowledged, arbitration lost, or a repeated
START where an acknowledge was due. -/
def busResult (result : BitVec 4) : Bool := result == 1 || result == 2 || result == 3 || result == 9

/-- The result of sequence q's transaction: a read whose PEC byte is not the CRC-8 of all its bytes ends with 0x5 (R285). -/
def State.twResult (s : State) (p : Nat) (q : TwSeq) (result : BitVec 4) (data : BitVec 16) (got : Byte) : BitVec 4 :=
  let code := (s.pmbCodes q.rail q.level).getD q.done 0
  if result = 1 ∧ pmbReads code = true ∧ bit (s.pmbus q.rail) 30 = true
      ∧ got ≠ BitVec.ofNat 8 (pec ((s.port2 p).sent ++ deliveredBytes code data)) then 5
  else result

/-- The counts of a transaction's result (Table 11.10). -/
def TwPort.count (p : TwPort) (result : BitVec 4) : TwPort :=
  { p with
    nack := if result = 2 then inc 255 p.nack else p.nack
    arbLost := if result = 3 ∨ result = 9 then inc 255 p.arbLost else p.arbLost
    pecErr := if result = 5 then inc 255 p.pecErr else p.pecErr }

/-- A transaction of sequence q has ended for good with a result (R286, R294). -/
def State.twFinal (s : State) (p : Nat) (q : TwSeq) (result : BitVec 4) (data : BitVec 16) : State :=
  if q.ending then s.endHead p 7 2
  else if result = 1 then s.txDone p q data
  else s.endHead p result 2

/-- The transaction of the head sequence q has ended with a result: a lost one is retried (R286), and after the last try the sequence
goes on or ends. -/
def State.twEnd (s : State) (p : Nat) (q : TwSeq) (result : BitVec 4) (data : BitVec 16) : State :=
  let s := s.setTw p (fun x => x.count result)
  let s := if result = 9 then s.irqTw (8 * p + 4) else s
  let w := s.port2 p
  if (result = 3 ∨ result = 9) ∧ w.retries < fld w.cfg 6 4 ∧ s.twOn p then
    s.setTw p (fun x => { x with
      retries := x.retries + 1, busy := true, activity := 4, idleFrom := s.clk.now + tBuf x.cfg })
  else
    let t := s.twFinal p q result data
    (if t.twOn p then t else t.endQueue p 8).busyPump p (tBuf w.cfg)

/-- TW_TRANSACTION_END (R284 to R286): the transaction on the bus ends; `data` and `got` are what a read delivers, and its PEC byte. -/
def execTwTransactionEnd (port : BitVec 2) (result : BitVec 4) (data : BitVec 16) (s : State) (got : Byte := 0) :
    Host.Outcome State Fault Refusal :=
  let p := port.toNat
  match (s.port2 p).queue with
  | [] => .next s
  | q :: _ =>
    if (s.port2 p).activity = 1 ∧ busResult result then .next (s.twEnd p q (s.twResult p q result data got) data) else .next s

/-- TW_BUS_IDLE (R282): the bus of the port becomes idle, no earlier than tBUF after its last STOP, or 50 µs without one. -/
def execTwBusIdle (port : BitVec 2) (s : State) : Host.Outcome State Fault Refusal :=
  let p := port.toNat
  let w := s.port2 p
  if s.twOn p && w.busy && (w.activity == 0 || w.activity == 4) then
    let t := s.till w.idleFrom
    .next ((t.setTw p (fun x => { x with busy := false })).pump p)
  else .next s

/-- The port takes part in its bus: it is enabled, or was disabled in mid-transaction, which runs on (R279, Table 11.5). -/
def State.twBusy (s : State) (p : Nat) : Bool := s.twOn p || (s.pm.state.logs && (s.port2 p).activity == 1)

/-- SCL_TIMEOUT (R290): SCL has been low for 25 ms to 35 ms. -/
def execSclTimeout (port : BitVec 2) (s : State) : Host.Outcome State Fault Refusal :=
  let p := port.toNat
  if s.twBusy p && (s.port2 p).activity != 5 then
    let t := (s.endQueue p 4).setTw p (fun x => { x with
      badCount := if x.activity = 2 then inc 255 x.badCount else x.badCount
      timeouts := inc 255 x.timeouts, activity := 5, busy := true, retries := 0 })
    .next (t.irqTw (8 * p + 1))
  else .next s

/-- SDA_STUCK (R291): SDA has been low for 25 ms to 35 ms outside a transaction and an answer: a bus clear, unless one is being
performed or waits for SCL (R290). -/
def execSdaStuck (port : BitVec 2) (s : State) : Host.Outcome State Fault Refusal :=
  let p := port.toNat
  let w := s.port2 p
  if s.twOn p && w.activity != 1 && w.activity != 2 then
    .next ((if w.activity = 0 ∨ w.activity = 4 then s.setTw p TwPort.clear else s).irqTw (8 * p + 2))
  else .next s

/-- BUS_CLEAR_END (R292): a bus clear ends with STOP, or fails after nine clocks. -/
def execBusClearEnd (port : BitVec 2) (stop : Bool) (s : State) : Host.Outcome State Fault Refusal :=
  let p := port.toNat
  if s.twOn p && (s.port2 p).activity == 3 then
    if stop then .next (s.busyPump p (tBuf (s.twCfg p)))
    else .next (((s.irqTw (8 * p + 3)).endHead p 6 2).busyPump p noStopTicks)
  else .next s

/-- In-band requests are answered on the port (R295). -/
def State.answers (s : State) (p : Nat) : Bool := s.twOn p && bit (s.twCfg p) 0 && fld (s.twCfg p) 9 8 != 0

/-- 2.0 µs in ticks: SDA has been low for it when a request is recognised (R296). -/
def requestTicks : Nat := 400

/-- The port pulls SCL low for the answer, in the mode in force (Table 11.5). -/
def State.beginAnswer (s : State) (p : Nat) : State :=
  s.setTw p (fun x => { x with activity := 2, busy := true, cfg := s.twCfg p, sampled := [], acked := false })

/-- TW_REQUEST (R296): a request is recognised on a bus that was idle, before the next queued transaction (R287). On a port that waits
for an idle bus the target can pull SDA low no earlier than the bus is idle. -/
def execTwRequest (port : BitVec 2) (s : State) : Host.Outcome State Fault Refusal :=
  let p := port.toNat
  let w := s.port2 p
  if s.answers p && w.activity == 0 && !w.busy then .next (s.beginAnswer p)
  else if s.answers p && w.activity == 4 then .next ((s.till (w.idleFrom + requestTicks)).beginAnswer p)
  else .next s

/-- A sampled address that is recorded (Table 11.3). -/
def requestOk (addr : BitVec 7) : Bool := decide (0x08 ≤ addr.toNat) && decide (addr.toNat ≤ 0x77)

/-- The seven bits of an address in the order of their clocks, the most significant first (R296). -/
def addressBits (addr : BitVec 7) : List Bool := (List.range 7).map (fun i => bit addr (6 - i))

/-- TW_REQUEST_ANSWER_END (R296, R297): the answer ends with the address sampled in its seven high periods, acknowledged with SDA low in
the eighth clock where it is recorded, or is abandoned at a START or STOP. The bus is idle tBUF later, by the mode in which the answer
began (Table 11.5). -/
def execTwRequestAnswerEnd (port : BitVec 2) (addr : BitVec 7) (abandoned : Bool) (s : State) :
    Host.Outcome State Fault Refusal :=
  let p := port.toNat
  if s.twOn p && (s.port2 p).activity == 2 then
    if !abandoned && requestOk addr then
      let t := (s.setTw p (fun x => { x with
        reqAddr := addr, reqCount := x.reqCount + 1, sampled := addressBits addr, acked := true })).irqTw (8 * p)
      .next (t.busyPump p (tBuf (s.port2 p).cfg))
    else .next ((s.setTw p (fun x => { x with
        badCount := inc 255 x.badCount, sampled := if abandoned then [] else addressBits addr })).busyPump p
      (tBuf (s.port2 p).cfg))
  else .next s

/-- TW_PORT_RESET (R293): TW_CTRLp.reset is written 1. -/
def execTwPortReset (port : BitVec 2) (s : State) : Host.Outcome State Fault Refusal :=
  .next (s.writeLive .class1 (0xB0004 + 0x40 * port.toNat) 1)

/-- TW_BUS_CLEAR (R293): TW_CTRLp.clear is written 1. -/
def execTwBusClear (port : BitVec 2) (s : State) : Host.Outcome State Fault Refusal :=
  .next (s.writeLive .class1 (0xB0004 + 0x40 * port.toNat) 2)

end Sys2Proof.Machine
end

