-- ==== Sys2Proof/Machine/Twin.lean ====
section
/-! DEFINITION. Sys2Proof/Machine/Twin.lean: twin supervision: heartbeats, handover, mirrored requests and shutdowns (R264 to R274). -/

set_option Elab.async false

namespace Sys2Proof.Machine

/-! ## Messages (Table 10.10) -/

/-- The body of a TWIN message, from byte 4. -/
def twinBody (f : Frame) : List Byte := f.payload.drop 4

/-- A TWIN frame with this message reaches the device. -/
def State.hearsTwin (s : State) (a : Arrival) (msg : Nat) : Bool := s.hears a 0x21 && byteAt a.frame.payload 0 == msg

/-- A message is meant for the device: for it or for all, from another device, and it is not fenced (R252, R261). -/
def State.actsOn (s : State) (a : Arrival) : Bool :=
  a.crcOk && (s.forMe a.frame || a.frame.dest == 4095) && !s.ownSource a.frame && !s.fencedHere

/-- What a message causes: it is passed on by R252, its first copy acted on and the second discarded. -/
def State.onTwin (s : State) (a : Arrival) (msg : Nat) (f : State → State) : State :=
  if s.hearsTwin a msg then
    let t := s.pass a
    if s.actsOn a then (if s.secondCopy a then t.dropNote a else f (t.noteFrame a)) else t
  else s

/-- A message comes from the twin, or from the device that a handover is under way with. -/
def State.fromTwin (s : State) (f : Frame) : Bool := s.twin.address != 0 && f.src.toNat == s.twin.address

/-- A REFUSE (0x04) or ABORT (0x08) leaves with its reason. -/
def State.tellReason (s : State) (dest msg : Nat) (reason : BitVec 4) : State :=
  State.sendTwin { s with twin := { s.twin with reason := reason } } dest msg [reason.zeroExtend 8]

/-! ## Heartbeats (R268) -/

/-- The payload of a heartbeat (Table 10.9). -/
def State.heartbeat (s : State) : List Byte :=
  leBytes 2 s.twin.hbSeq.toNat ++ [BitVec.ofNat 8 s.pm.state.code,
    BitVec.ofNat 8 ((if s.pm.faultLatch then 1 else 0) + (if s.out.passive then 2 else 0) + (if s.pm.state = .cooling then 4 else 0))]
    ++ leBytes 8 s.out.en.toNat ++ leBytes 8 s.inp.enHigh.toNat ++ leBytes 8 s.clk.stamp
    ++ (digestBytes s.twinDigest).take 8 ++ zeros 12

/-- HEARTBEAT_SEND (R268): every 100 µs, in both directions; heartbeats missing by now are noted. -/
def execHeartbeatSend (s : State) : Host.Outcome State Fault Refusal :=
  match s.twin.hbDue with
  | some due =>
    if s.twin.state = .co ∧ s.pm.state.logs = true then
      let t := s.till due
      let f := t.ownFrame 0x20 t.twin.address t.heartbeat
      .next ((State.sendFrame { t with twin := { t.twin with
        hbSeq := t.twin.hbSeq + 1, hbDue := some (t.clk.now + 100 * usTicks)
        missed := min 15 ((t.clk.now - t.twin.lastHb) / (100 * usTicks)) } } .a f).sendFrame .b f)
    else .next s
  | none => .next s

/-- Ready or Running, by its state code. -/
def readyRunningCode (c : Nat) : Bool := c == 3 || c == 5

/-- The release masks of both devices are compared (R268). -/
def State.compareMasks (s : State) (peer : Nat) (mask : Rails) : State :=
  let both := s.readyOrRunning && readyRunningCode peer
  let run := if both && mask != s.out.en then s.twin.mismatchRun + 1 else 0
  let hit := decide (10 ≤ run)
  let t := { s with twin := { s.twin with
    mismatchRun := min 10 run, mismatch := hit || (s.twin.mismatch && mask != s.out.en) } }
  if hit && !s.twin.mismatch then t.irqGl 8 else t

/-- A valid heartbeat of the twin. -/
def State.takeHeartbeat (s : State) (p : List Byte) : State :=
  State.compareMasks { s with twin := { s.twin with
    lastHb := s.clk.now, missed := 0, peer := byteAt p 2 } }
    (byteAt p 2) (BitVec.ofNat 64 (leAt p 4 8))

/-- HEARTBEAT (R252, R268): the first copy of each counts. -/
def execHeartbeatFrame (f : Arrival) (s : State) : Host.Outcome State Fault Refusal :=
  if s.hears f 0x20 then
    let t := s.pass f
    if f.crcOk && s.forMe f.frame && s.twin.state == .co && s.fromTwin f.frame && !s.fencedHere then
      .next (if s.secondCopy f then t.dropNote f else (t.noteFrame f).takeHeartbeat f.frame.payload)
    else .next t
  else .next s

/-- The device continues alone, its twin gone; the TWSIDE 1 device seeks it again (R268, R274). -/
def State.aloneAgain (s : State) (wait : Nat) : State :=
  { s with twin := { s.twin with
    state := .solo, hbDue := none, address := 0, uid := 0, rxStops := [], mismatchRun := 0
    seekDue := if s.inp.twside then some (s.clk.now + wait) else none } }

/-- TWIN_LOST (R268): no valid heartbeat for 350 µs. -/
def execTwinLost (s : State) : Host.Outcome State Fault Refusal :=
  if s.twin.state = .co ∧ s.pm.state.logs = true then
    let t := s.till (s.twin.lastHb + 350 * usTicks)
    let addr := t.twin.address
    let t := State.irqGl { t with twin := { t.twin with lost := inc 255 t.twin.lost } } 7
    .next ((t.aloneAgain (10 * msTicks)).receiveCause 4 (addr % 256))
  else .next s

/-! ## SEEK (R271, R272, R274) -/

/-- GL_TWIN_CFG.twin_group. -/
def State.twinGroup (s : State) : Nat := fld (s.cfgAt 0xA0008) 31 16

/-- The body of SEEK. -/
def State.seekBody (s : State) : List Byte :=
  leBytes 2 s.twinGroup ++ [if s.inp.twside then 1 else 0, 0] ++ leBytes 16 s.ident.uid.toNat

/-- A device that may join: passive under twin_en, or alone with TWSIDE 1 (R271, R274). -/
def State.mayJoin (s : State) : Bool :=
  s.twinEn && (s.out.passive || (s.twin.state == .solo && s.inp.twside)) && s.pm.state.logs

/-- SEEK_RESEND (R271): SEEK leaves, and again after 10 ms; a READY that waits for COMMIT is not given up for it. -/
def execSeekResend (s : State) : Host.Outcome State Fault Refusal :=
  match s.twin.seekDue with
  | some due =>
    if s.mayJoin then
      let t := s.till due
      let t := { t with twin := { t.twin with seekDue := some (t.clk.now + 10 * msTicks) } }
      if t.twin.hand.holds then .next t
      else .next (State.sendTwin { t with twin := { t.twin with hand := .jSeek } } 4095 1 t.seekBody)
    else .next s
  | none => .next s

/-- A device is admitted and not fenced by this device's maps. -/
def State.inRing (s : State) (a : Nat) : Bool := a != 0 && bit s.ring.admittedMap a && !bit s.ring.fencedMap a

/-- A pairing of two devices that are both alone fails where they are not in Ready or Running, or their masks or latches differ:
twin_state then reads diverged (R274). -/
def State.diverge (s : State) : State :=
  if s.twin.state = .solo ∧ s.twin.peerSolo = true then { s with twin := { s.twin with state := .diverged } } else s

/-- A serving device answers SEEK: CHALLENGE, or REFUSE with its reason (R264, R272). -/
def State.answerSeek (s : State) (src : Nat) (side : Bool) (uid : Uid) : State :=
  if side = s.inp.twside then s.tellReason src 4 2
  else if !(s.obeys && s.inRing src) then s.tellReason src 4 5
  else if !s.readyOrRunning then s.diverge.tellReason src 4 7
  else
    let n := Config.nonce s.free
    let t := s.takeFree
    State.sendTwin { t with twin := { t.twin with hand := .sChallenge n uid, address := src } } src 2 (leBytes 16 n.toNat)

/-- SEEK at a device of the same group: the same TWSIDE is refused whatever the device does (R264); else a passive TWSIDE 0 device
founds first where every EN line is low, and one alone serves (Table 10.12, R272). Twins are both admitted and not fenced (R264).
`alone` says that the seeking device is solo and not passive, which no message tells (log entry 45). -/
def State.takeSeek (s : State) (src : Nat) (p : List Byte) (alone : Bool) : State :=
  let side := byteAt p 2 == 1
  let uid : Uid := BitVec.ofNat 128 (leAt p 4 16)
  if !s.twinEn || s.twinGroup == 0 || leAt p 0 2 != s.twinGroup then s
  else if side = s.inp.twside then s.tellReason src 4 2
  else if s.twin.hand.holds then s
  else if s.out.passive then
    if s.inp.twside || s.pm.state != .ready || alone || !(s.obeys && s.inRing src) then s
    else
      let t := s.foundOrBlock
      if t.out.passive then t else State.answerSeek { t with twin := { t.twin with peerSolo := false } } src side uid
  else match s.twin.state with
    | .solo | .diverged => State.answerSeek { s with twin := { s.twin with peerSolo := alone } } src side uid
    | _ => s

/-- SEEK (R272). -/
def execSeekFrame (f : Arrival) (s : State) (alone : Bool := false) : Host.Outcome State Fault Refusal :=
  .next (s.onTwin f 1 (fun t => t.takeSeek f.frame.src.toNat (twinBody f.frame) alone))

/-- TWIN_SEEK_TIMEOUT (R271): no twin has answered for 100 ms after admission, or after Ready with no link up. -/
def execTwinSeekTimeout (s : State) : Host.Outcome State Fault Refusal :=
  match s.twin.seekFrom with
  | some t0 =>
    if s.twinEn && s.out.passive && s.pm.state == .ready && !s.twin.hand.holds
        && (s.obeys || (!s.ring.linkA.up && !s.ring.linkB.up)) then
      let t := s.till (t0 + 100 * msTicks)
      .next (State.foundOrBlock { t with twin := { t.twin with seekFrom := none } })
    else .next s
  | none => .next s

/-! ## The handover (R272) -/

/-- The proof of a device with a unique ID and a twin digest. -/
def State.proofFor (s : State) (nonce : Nat) (uid : Uid) : Digest :=
  sha3 (ascii "SKV6400-TWIN" ++ leBytes 16 nonce ++ leBytes 16 uid.toNat ++ digestBytes s.twinDigest)

/-- CHALLENGE at the joining device: a twin has answered; PROOF leaves. A device that is alone and not in Ready or Running cannot pair:
both read diverged, as its ABORT tells the other (R274, log entry 45). -/
def State.takeChallenge (s : State) (src : Nat) (p : List Byte) : State :=
  if s.twin.hand = .jSeek ∧ s.mayJoin = true ∧ s.readyOrRunning = false ∧ s.out.passive = false then
    State.tellReason { s with twin := { s.twin with hand := .none, state := .diverged } } src 8 7
  else
  if s.twin.hand = .jSeek ∧ s.mayJoin = true ∧ s.readyOrRunning = true then
    let t := { s with twin := { s.twin with
      hand := .jProof, address := src, seekFrom := if s.out.passive then some s.clk.now else none } }
    t.sendTwin src 3 (digestBytes (s.proofFor (leAt p 0 16) s.ident.uid))
  else s

/-- CHALLENGE (R272). -/
def execChallengeFrame (f : Arrival) (s : State) : Host.Outcome State Fault Refusal :=
  .next (s.onTwin f 2 (fun t => t.takeChallenge f.frame.src.toNat (twinBody f.frame)))

/-- One engine in SYNC: state, pc and flags. -/
def engineSync (e : Engine) : List Byte :=
  [BitVec.ofNat 8 e.st.code] ++ leBytes 2 e.shown
    ++ [BitVec.ofNat 8 ((if e.cf then 1 else 0) + (if e.tmo then 2 else 0) + (if e.cl then 4 else 0))]

/-- T_OFFMIN remaining, in ms; how a part of a ms is told is not stated (log entry 7). -/
def State.offMinLeft (s : State) : Nat :=
  match s.pm.offMinDue with
  | some due => min 65535 (quot ((due - s.clk.now : Nat) : Int) msTicks).toNat
  | none => 0

/-- The body of SYNC. -/
def State.syncBody (s : State) : List Byte :=
  [BitVec.ofNat 8 s.pm.state.code, if s.pm.faultLatch then 1 else 0] ++ leBytes 8 s.out.en.toNat
    ++ (s.kiln.engines.take 5).flatMap engineSync ++ leBytes 8 s.kiln.failBits.toNat
    ++ (List.range 64).map (fun n => BitVec.ofNat 8 (Tab.getD s.kiln.chatter n 0)) ++ leBytes 2 s.offMinLeft

/-- PROOF at the serving device: SYNC, or REFUSE where the digests differ; from then on, on requests are held. -/
def State.takeProof (s : State) (src : Nat) (p : List Byte) : State :=
  match s.twin.hand with
  | .sChallenge n uid =>
    if src ≠ s.twin.address then s
    else if leAt p 0 32 ≠ (s.proofFor n.toNat uid).toNat then
      State.tellReason { s with twin := { s.twin with hand := .none, address := 0 } } src 4 1
    else if !s.readyOrRunning then
      State.tellReason (State.diverge { s with twin := { s.twin with hand := .none, address := 0 } }) src 4 7
    else
      State.sendTwin { s with twin := { s.twin with hand := .sSync (s.clk.now + 2 * msTicks), uid := uid } } src 5 s.syncBody
  | _ => s

/-- PROOF (R272). -/
def execProofFrame (f : Arrival) (s : State) : Host.Outcome State Fault Refusal :=
  .next (s.onTwin f 3 (fun t => t.takeProof f.frame.src.toNat (twinBody f.frame)))

/-- REFUSE with its reason at the joining device: a twin that is not in Ready or Running has answered all the same, and leaves a device
that is alone diverged (R272, R274). -/
def State.noteRefuse (s : State) (reason : Nat) : State :=
  let late := reason == 7
  { s with twin := { s.twin with
    reason := BitVec.ofNat 4 reason
    seekFrom := if late && s.out.passive then some s.clk.now else s.twin.seekFrom
    state := if late && !s.out.passive then .diverged else s.twin.state } }

/-- REFUSE at the joining device: from the device that the handover is under way with it ends the attempt; a device that answers SEEK so
takes no part, and SEEK may still be answered by another (R272, Table 10.13). -/
def State.takeRefuse (s : State) (src reason : Nat) : State :=
  match s.twin.hand with
  | .jSeek => s.noteRefuse reason
  | .jProof =>
    if src ≠ s.twin.address then s
    else State.noteRefuse { s with twin := { s.twin with hand := .none, address := 0 } } reason
  | _ => s

/-- REFUSE (R272). -/
def execTwinRefuse (f : Arrival) (s : State) : Host.Outcome State Fault Refusal :=
  .next (s.onTwin f 4 (fun t => t.takeRefuse f.frame.src.toNat (byteAt (twinBody f.frame) 0)))

/-- The release mask of SYNC. -/
def syncMask (p : List Byte) : Rails := BitVec.ofNat 64 (leAt p 2 8)

/-- Why the joining device aborts on SYNC, if it does: a passive one by its EN lines and its latch; one that is alone where release
masks or latches differ (R272, R274). -/
def State.syncObjection (s : State) (p : List Byte) : Option (BitVec 4) :=
  let latch := byteAt p 1 == 1
  if (if s.out.passive then s.inp.enHigh else s.out.en) ≠ syncMask p then some 3
  else if s.pm.faultLatch && !latch then some 8
  else if !s.out.passive && s.pm.faultLatch != latch then some 8
  else none

/-- SYNC at the joining device: READY, or ABORT and another SEEK after 100 ms. -/
def State.takeSync (s : State) (src : Nat) (p : List Byte) : State :=
  if s.twin.hand = .jProof ∧ src = s.twin.address ∧ s.readyOrRunning = true then
    match s.syncObjection p with
    | none => State.sendTwin { s with twin := { s.twin with hand := .jReady p (s.clk.now + 2 * msTicks) } } src 6 []
    | some r =>
      State.tellReason { s with twin := { s.twin with
        hand := .none, address := 0, seekDue := if s.out.passive then some (s.clk.now + 100 * msTicks) else none
        state := if s.out.passive then s.twin.state else .diverged } } src 8 r
  else s

/-- SYNC (R272). -/
def execTwinSync (f : Arrival) (s : State) : Host.Outcome State Fault Refusal :=
  .next (s.onTwin f 5 (fun t => t.takeSync f.frame.src.toNat (twinBody f.frame)))

/-- Co-supervision begins: heartbeats from now on (R268, R272). -/
def State.pairUp (s : State) : State :=
  State.irqGl { s with twin := { s.twin with
    state := .co, hand := .none, hbDue := some (s.clk.now + 100 * usTicks), lastHb := s.clk.now, missed := 0
    rxStops := [], mismatch := false, mismatchRun := 0, peer := s.pm.state.code, seekDue := none, seekFrom := none } } 6

/-- READY at the serving device: COMMIT leaves, and co-supervision begins; on requests held are handled (R272, R273). -/
def State.takeReady (s : State) (src : Nat) : State :=
  match s.twin.hand with
  | .sSync _ => if src = s.twin.address then ((s.sendTwin src 7 []).pairUp).releaseHeld else s
  | _ => s

/-- READY (R272). -/
def execTwinReady (f : Arrival) (s : State) : Host.Outcome State Fault Refusal :=
  .next (s.onTwin f 6 (fun t => t.takeReady f.frame.src.toNat))

/-- The engine state of a code (Table 04.1). -/
def engStateOf (c : Nat) : EngState :=
  match c with
  | 0 => .idle | 1 => .running | 2 => .waiting | 3 => .halted | 4 => .error | _ => .aborted

/-- An engine as SYNC gives it. -/
def engineFrom (p : List Byte) (k : Nat) (e : Engine) : Engine :=
  let o := 10 + 4 * k
  let f := byteAt p (o + 3)
  { e with st := engStateOf (byteAt p o), pc := leAt p (o + 1) 2, shown := leAt p (o + 1) 2, cf := f % 2 == 1, tmo := f / 2 % 2 == 1, cl := f / 4 % 2 == 1 }

/-- What the joining device takes over in the tick of COMMIT (R272, step 6). -/
def State.takeOver (s : State) (p : List Byte) : State :=
  let left := leAt p 102 2
  let t := State.updateTwok { s with out := { s.out with passive := false, enpu := true } }
  let t := t.enHigh (syncMask p)
  let t := { t with
    kiln := { t.kiln with
      engines := t.kiln.engines.mapIdx (engineFrom p)
      failBits := BitVec.ofNat 64 (leAt p 30 8)
      chatter := ((List.range 64).map (fun n => (n, byteAt p (38 + n)))).filter (fun e => e.2 != 0) }
    pm := { t.pm with offMinDue := if left = 0 then none else some (t.clk.now + left * msTicks) } }
  let t := if byteAt p 1 = 1 then t.setLatch else t
  let t := (List.range 64).foldl State.trimNominal t
  if byteAt p 0 = 5 ∧ t.pm.state = .ready then t.enterRunning else t

/-- COMMIT at the joining device. -/
def State.takeCommit (s : State) (src : Nat) : State :=
  match s.twin.hand with
  | .jReady p _ => if src = s.twin.address then ((s.takeOver p).pairUp).releaseHeld else s
  | _ => s

/-- COMMIT (R272). -/
def execTwinCommit (f : Arrival) (s : State) : Host.Outcome State Fault Refusal :=
  .next (s.onTwin f 7 (fun t => t.takeCommit f.frame.src.toNat))

/-! ## Interrupted handovers (Table 10.13) -/

/-- The handover is over at the joining device: it stays as it is and seeks again after 100 ms. -/
def State.joinFails (s : State) : State :=
  State.releaseHeld { s with twin := { s.twin with hand := .none, address := 0, seekDue := some (s.clk.now + 100 * msTicks) } }

/-- The handover is over at the serving device, by an ABORT with this reason (0: none). One for masks, latches or the state of a device
that is alone too leaves both diverged (R272, R274). -/
def State.serveFails (s : State) (reason : Nat) : State :=
  let t := { s with twin := { s.twin with hand := .none, address := 0, uid := 0 } }
  (if reason = 3 ∨ reason = 7 ∨ reason = 8 then t.diverge else t).releaseHeld

/-- ABORT, by where the handover stands (Table 10.13): one that reaches a serving device after COMMIT returns it to solo. -/
def State.takeAbort (s : State) (src reason : Nat) : State :=
  if src ≠ s.twin.address ∨ src = 0 then s
  else
    let t := { s with twin := { s.twin with reason := BitVec.ofNat 4 reason } }
    match s.twin.hand with
    | .jSeek | .jProof | .jReady _ _ => t.joinFails
    | .sChallenge _ _ | .sSync _ => t.serveFails reason
    | .none => if s.twin.state = .co then t.aloneAgain (100 * msTicks) else s

/-- ABORT (R273). -/
def execTwinAbort (f : Arrival) (s : State) : Host.Outcome State Fault Refusal :=
  .next (s.onTwin f 8 (fun t => t.takeAbort f.frame.src.toNat (byteAt (twinBody f.frame) 0)))

/-- HANDOVER_TIMEOUT (R273): no READY within 2 ms of SYNC, or no COMMIT within 2 ms of READY. -/
def execHandoverTimeout (s : State) : Host.Outcome State Fault Refusal :=
  match s.twin.hand with
  | .sSync due =>
    let t := s.till due
    .next ((t.tellReason t.twin.address 8 4).serveFails 0)
  | .jReady _ due => .next (s.till due).joinFails
  | _ => .next s

/-! ## Mirrored requests and shutdowns (R269) -/

/-- A request of the twin, by Table 05.8. -/
def State.takeRequest (s : State) (p : List Byte) : State :=
  match byteAt p 0 with
  | 1 => s.onRequest (byteAt p 1)
  | 2 => s.offRequest (byteAt p 1) none
  | _ => s

/-- REQUEST (R269). -/
def execTwinRequest (f : Arrival) (s : State) : Host.Outcome State Fault Refusal :=
  .next (s.onTwin f 9 (fun t =>
    if t.twin.state = .co ∧ t.fromTwin f.frame = true then t.takeRequest (twinBody f.frame) else t))

/-- A shutdown of the twin: cause 0x15 with the grade and table of the message, once with the horn of the same event. -/
def State.takeShutdown (s : State) (src : Nat) (p : List Byte) : State :=
  if s.twinTold false then s.matchStop false
  else (s.noteStop false).receiveAs ⟨0x15, BitVec.ofNat 2 (byteAt p 0), BitVec.ofNat 8 src, 0⟩ (byteAt p 1)

/-- SHUTDOWN (R269). -/
def execTwinShutdown (f : Arrival) (s : State) : Host.Outcome State Fault Refusal :=
  .next (s.onTwin f 0x0A (fun t =>
    if t.twin.state = .co ∧ t.fromTwin f.frame = true then t.takeShutdown f.frame.src.toNat (twinBody f.frame) else t))

end Sys2Proof.Machine
end

