-- ==== Sys2Proof/Machine/Dispatch.lean ====
section
/-! DEFINITION. Sys2Proof/Machine/Dispatch.lean: each command of the opcode table and its meaning, one arm for each. -/

namespace Sys2Proof.Machine

/-- The effect of a command on everything but the queue. -/
def exec (i : Instr) (s : State) : Host.Outcome State Fault Refusal :=
  match i with
  | .vinRisesPast4v root twjoin twside pb mr => Sys2Proof.Machine.execVinRisesPast4v root twjoin twside pb mr s
  | .vinGood => Sys2Proof.Machine.execVinGood s
  | .inputCollapse logDie archive => Sys2Proof.Machine.execInputCollapse logDie s archive
  | .commitSequenceEnd => Sys2Proof.Machine.execCommitSequenceEnd s
  | .holdUpFloor done words => Sys2Proof.Machine.execHoldUpFloor done words s
  | .vinBelow4v => Sys2Proof.Machine.execVinBelow4v s
  | .startupStageComplete r => Sys2Proof.Machine.execStartupStageComplete r s
  | .startupStageLate => Sys2Proof.Machine.execStartupStageLate s
  | .wakeTimerExpiry => Sys2Proof.Machine.execWakeTimerExpiry s
  | .wakePathComplete copyOk r => Sys2Proof.Machine.execWakePathComplete copyOk r s
  | .wakeSelfTestsComplete pass => Sys2Proof.Machine.execWakeSelfTestsComplete pass s
  | .logicDieLost => Sys2Proof.Machine.execLogicDieLost s
  | .reducedWalkEntry => Sys2Proof.Machine.execReducedWalkEntry s
  | .mrAssert => Sys2Proof.Machine.execMrAssert s
  | .mrRelease => Sys2Proof.Machine.execMrRelease s
  | .hrstStretchEnd => Sys2Proof.Machine.execHrstStretchEnd s
  | .mrHoldReset => Sys2Proof.Machine.execMrHoldReset s
  | .onreqRise => Sys2Proof.Machine.execOnreqRise s
  | .onreqFall => Sys2Proof.Machine.execOnreqFall s
  | .pbShortPress held => Sys2Proof.Machine.execPbShortPress held s
  | .pbLongPress => Sys2Proof.Machine.execPbLongPress s
  | .pbLockoutEnd => Sys2Proof.Machine.execPbLockoutEnd s
  | .ownershipWindowClose released => Sys2Proof.Machine.execOwnershipWindowClose released s
  | .tOffminElapsed => Sys2Proof.Machine.execTOffminElapsed s
  | .comparatorCrossing src fault => Sys2Proof.Machine.execComparatorCrossing src fault s
  | .gradeTPersistExpiry src => Sys2Proof.Machine.execGradeTPersistExpiry src s
  | .graceDelayExpiry => Sys2Proof.Machine.execGraceDelayExpiry s
  | .tripDelayExpiry => Sys2Proof.Machine.execTripDelayExpiry s
  | .coolingEntryDue => Sys2Proof.Machine.execCoolingEntryDue s
  | .waitBelowMet => Sys2Proof.Machine.execWaitBelowMet s
  | .waitBelowTimeout => Sys2Proof.Machine.execWaitBelowTimeout s
  | .walkerConversionDemand => Sys2Proof.Machine.execWalkerConversionDemand s
  | .coolingSweep => Sys2Proof.Machine.execCoolingSweep s
  | .settleHoldEnd src => Sys2Proof.Machine.execSettleHoldEnd src s
  | .rampDacStep src => Sys2Proof.Machine.execRampDacStep src s
  | .pwmsyncEdge pin => Sys2Proof.Machine.execPwmsyncEdge pin s
  | .pwmsyncWindowOpen src => Sys2Proof.Machine.execPwmsyncWindowOpen src s
  | .pwmsyncWindowClose src => Sys2Proof.Machine.execPwmsyncWindowClose src s
  | .blankingOverrun src => Sys2Proof.Machine.execBlankingOverrun src s
  | .enableWindowOpen src => Sys2Proof.Machine.execEnableWindowOpen src s
  | .enableWindowClose src => Sys2Proof.Machine.execEnableWindowClose src s
  | .selftestSlot => Sys2Proof.Machine.execSelftestSlot s
  | .selftestPhaseEnd right => Sys2Proof.Machine.execSelftestPhaseEnd right s
  | .fltStretchEnd pin => Sys2Proof.Machine.execFltStretchEnd pin s
  | .fltLatchClear pins => Sys2Proof.Machine.execFltLatchClear pins s
  | .scanPassStart => Sys2Proof.Machine.execScanPassStart s
  | .conversionComplete conv code => Sys2Proof.Machine.execConversionComplete conv code s
  | .ctrigEdge source => Sys2Proof.Machine.execCtrigEdge source s
  | .saggarConversionDemand input => Sys2Proof.Machine.execSaggarConversionDemand input s
  | .enPinLevelChange rail high => Sys2Proof.Machine.execEnPinLevelChange rail high s
  | .nopStep k fetch => Sys2Proof.Machine.execNopStep k fetch s
  | .enableStep k fetch => Sys2Proof.Machine.execEnableStep k fetch s
  | .disableStep k fetch => Sys2Proof.Machine.execDisableStep k fetch s
  | .waitStep k fetch => Sys2Proof.Machine.execWaitStep k fetch s
  | .waitEnd k => Sys2Proof.Machine.execWaitEnd k s
  | .waitforStep k fetch => Sys2Proof.Machine.execWaitforStep k fetch s
  | .waitforSatisfied k ctrig => Sys2Proof.Machine.execWaitforSatisfied k ctrig s
  | .waitforTimeout k ctrig => Sys2Proof.Machine.execWaitforTimeout k s ctrig
  | .checkStep k fetch => Sys2Proof.Machine.execCheckStep k fetch s
  | .checkQualified k rail => Sys2Proof.Machine.execCheckQualified k rail s
  | .checkDeadline k => Sys2Proof.Machine.execCheckDeadline k s
  | .rampStep k fetch => Sys2Proof.Machine.execRampStep k fetch s
  | .jumpStep k fetch => Sys2Proof.Machine.execJumpStep k fetch s
  | .jumpifStep k fetch => Sys2Proof.Machine.execJumpifStep k fetch s
  | .signalStep k fetch => Sys2Proof.Machine.execSignalStep k fetch s
  | .syncStep k fetch => Sys2Proof.Machine.execSyncStep k fetch s
  | .syncSatisfied k => Sys2Proof.Machine.execSyncSatisfied k s
  | .syncTimeout k => Sys2Proof.Machine.execSyncTimeout k s
  | .marginStep k fetch => Sys2Proof.Machine.execMarginStep k fetch s
  | .trimStep k fetch => Sys2Proof.Machine.execTrimStep k fetch s
  | .snapStep k fetch => Sys2Proof.Machine.execSnapStep k fetch s
  | .pwmStep k fetch => Sys2Proof.Machine.execPwmStep k fetch s
  | .haltStep k fetch => Sys2Proof.Machine.execHaltStep k fetch s
  | .stepBudgetExpiry k => Sys2Proof.Machine.execStepBudgetExpiry k s
  | .timeBudgetExpiry k => Sys2Proof.Machine.execTimeBudgetExpiry k s
  | .dieOverTemperature sensors => Sys2Proof.Machine.execDieOverTemperature sensors s
  | .tripiAssert levels => Sys2Proof.Machine.execTripiAssert levels s
  | .spiWrite bytes => Sys2Proof.Machine.execSpiWrite bytes s
  | .spiRead count => Sys2Proof.Machine.execSpiRead count s
  | .spiStatus => Sys2Proof.Machine.execSpiStatus s
  | .spiUnknownTransfer code count => Sys2Proof.Machine.execSpiUnknownTransfer code count s
  | .verificationComplete ring tag => Sys2Proof.Machine.execVerificationComplete ring tag s
  | .partTimeout ring tag => Sys2Proof.Machine.execPartTimeout ring tag s
  | .replySigned ring tag => Sys2Proof.Machine.execReplySigned ring tag s
  | .replyQueued => Sys2Proof.Machine.execReplyQueued s
  | .forwardTimeout tag => Sys2Proof.Machine.execForwardTimeout tag s
  | .resetTakesEffect => Sys2Proof.Machine.execResetTakesEffect s
  | .nopCmd => Sys2Proof.Machine.execNopCmd s
  | .identify => Sys2Proof.Machine.execIdentify s
  | .readRegs => Sys2Proof.Machine.execReadRegs s
  | .ckTimeLoRead => Sys2Proof.Machine.execCkTimeLoRead s
  | .logRead found => Sys2Proof.Machine.execLogRead s found
  | .getCert => Sys2Proof.Machine.execGetCert s
  | .timeRead => Sys2Proof.Machine.execTimeRead s
  | .queueStatus => Sys2Proof.Machine.execQueueStatus s
  | .skv1200Id => Sys2Proof.Machine.execSkv1200Id s
  | .skv1200Status => Sys2Proof.Machine.execSkv1200Status s
  | .skv1200Rail => Sys2Proof.Machine.execSkv1200Rail s
  | .skv1200FirstFault => Sys2Proof.Machine.execSkv1200FirstFault s
  | .onCmd => Sys2Proof.Machine.execOnCmd s
  | .offCmd => Sys2Proof.Machine.execOffCmd s
  | .clearCmd => Sys2Proof.Machine.execClearCmd s
  | .marginCmd => Sys2Proof.Machine.execMarginCmd s
  | .pmbusSequenceEnd rail => Sys2Proof.Machine.execPmbusSequenceEnd rail s
  | .standbyCmd => Sys2Proof.Machine.execStandbyCmd s
  | .resetCmd => Sys2Proof.Machine.execResetCmd s
  | .drainCmd => Sys2Proof.Machine.execDrainCmd s
  | .timeSet => Sys2Proof.Machine.execTimeSet s
  | .writeRegsClass1 confirm => Sys2Proof.Machine.execWriteRegsClass1 confirm s
  | .registerWrite cls addr value confirm => Sys2Proof.Machine.execRegisterWrite cls addr value s confirm
  | .programLoad confirm => Sys2Proof.Machine.execProgramLoad confirm s
  | .tableLoad confirm => Sys2Proof.Machine.execTableLoad confirm s
  | .bisqueClear => Sys2Proof.Machine.execBisqueClear s
  | .writeRegsClass2 confirm => Sys2Proof.Machine.execWriteRegsClass2 confirm s
  | .takeOwnership confirm => Sys2Proof.Machine.execTakeOwnership confirm s
  | .keySlotWrite confirm => Sys2Proof.Machine.execKeySlotWrite confirm s
  | .keySlotClear confirm => Sys2Proof.Machine.execKeySlotClear confirm s
  | .quorumSet confirm => Sys2Proof.Machine.execQuorumSet confirm s
  | .saggarWrite confirm => Sys2Proof.Machine.execSaggarWrite confirm s
  | .saggarProgramLoad confirm => Sys2Proof.Machine.execSaggarProgramLoad confirm s
  | .htableLoad confirm => Sys2Proof.Machine.execHtableLoad confirm s
  | .calibrationWrite confirm => Sys2Proof.Machine.execCalibrationWrite confirm s
  | .writeRegsClass3 confirm => Sys2Proof.Machine.execWriteRegsClass3 confirm s
  | .imageLoad confirm => Sys2Proof.Machine.execImageLoad confirm s
  | .decommission confirm => Sys2Proof.Machine.execDecommission confirm s
  | .snapshot => Sys2Proof.Machine.execSnapshot s
  | .shardCommit => Sys2Proof.Machine.execShardCommit s
  | .archiveCopy corrected lost => Sys2Proof.Machine.execArchiveCopy s corrected lost
  | .scrubRead found => Sys2Proof.Machine.execScrubRead found s
  | .wholeSecond => Sys2Proof.Machine.execWholeSecond s
  | .fqPop => Sys2Proof.Machine.execFqPop s
  | .failBitClear high bits => Sys2Proof.Machine.execFailBitClear high bits s
  | .startNow => Sys2Proof.Machine.execStartNow s
  | .sweepStop => Sys2Proof.Machine.execSweepStop s
  | .sweepCycleStart => Sys2Proof.Machine.execSweepCycleStart s
  | .sweepRailStart => Sys2Proof.Machine.execSweepRailStart s
  | .sweepPoint => Sys2Proof.Machine.execSweepPoint s
  | .sweepSample => Sys2Proof.Machine.execSweepSample s
  | .linkUp port => Sys2Proof.Machine.execLinkUp port s
  | .linkDown port => Sys2Proof.Machine.execLinkDown port s
  | .unwrap port => Sys2Proof.Machine.execUnwrap port s
  | .horn port orig seq => Sys2Proof.Machine.execHorn port orig seq s
  | .commandFrame f => Sys2Proof.Machine.execCommandFrame f s
  | .replyFrame f => Sys2Proof.Machine.execReplyFrame f s
  | .broadcastFrame f => Sys2Proof.Machine.execBroadcastFrame f s
  | .timeFrame f => Sys2Proof.Machine.execTimeFrame f s
  | .timeSend => Sys2Proof.Machine.execTimeSend s
  | .tokenFrame f => Sys2Proof.Machine.execTokenFrame f s
  | .enumerate => Sys2Proof.Machine.execEnumerate s
  | .enrolFrame f => Sys2Proof.Machine.execEnrolFrame f s
  | .enrolWaitEnd => Sys2Proof.Machine.execEnrolWaitEnd s
  | .closureFrame f => Sys2Proof.Machine.execClosureFrame f s
  | .forget => Sys2Proof.Machine.execForget s
  | .joinFrame f => Sys2Proof.Machine.execJoinFrame f s
  | .joinResend => Sys2Proof.Machine.execJoinResend s
  | .admitFrame f => Sys2Proof.Machine.execAdmitFrame f s
  | .conflictFrame f => Sys2Proof.Machine.execConflictFrame f s
  | .isolated => Sys2Proof.Machine.execIsolated s
  | .heartbeatSend => Sys2Proof.Machine.execHeartbeatSend s
  | .heartbeatFrame f => Sys2Proof.Machine.execHeartbeatFrame f s
  | .twinLost => Sys2Proof.Machine.execTwinLost s
  | .seekFrame f alone => Sys2Proof.Machine.execSeekFrame f s alone
  | .seekResend => Sys2Proof.Machine.execSeekResend s
  | .twinSeekTimeout => Sys2Proof.Machine.execTwinSeekTimeout s
  | .challengeFrame f => Sys2Proof.Machine.execChallengeFrame f s
  | .proofFrame f => Sys2Proof.Machine.execProofFrame f s
  | .twinRefuse f => Sys2Proof.Machine.execTwinRefuse f s
  | .twinSync f => Sys2Proof.Machine.execTwinSync f s
  | .twinReady f => Sys2Proof.Machine.execTwinReady f s
  | .twinCommit f => Sys2Proof.Machine.execTwinCommit f s
  | .twinAbort f => Sys2Proof.Machine.execTwinAbort f s
  | .handoverTimeout => Sys2Proof.Machine.execHandoverTimeout s
  | .twinRequest f => Sys2Proof.Machine.execTwinRequest f s
  | .twinShutdown f => Sys2Proof.Machine.execTwinShutdown f s
  | .twTransactionEnd port result data got => Sys2Proof.Machine.execTwTransactionEnd port result data s got
  | .twBusIdle port => Sys2Proof.Machine.execTwBusIdle port s
  | .sclTimeout port => Sys2Proof.Machine.execSclTimeout port s
  | .sdaStuck port => Sys2Proof.Machine.execSdaStuck port s
  | .busClearEnd port stop => Sys2Proof.Machine.execBusClearEnd port stop s
  | .twRequest port => Sys2Proof.Machine.execTwRequest port s
  | .twRequestAnswerEnd port addr abandoned => Sys2Proof.Machine.execTwRequestAnswerEnd port addr abandoned s
  | .twPortReset port => Sys2Proof.Machine.execTwPortReset port s
  | .twBusClear port => Sys2Proof.Machine.execTwBusClear port s
  | .refclkLost => Sys2Proof.Machine.execRefclkLost s
  | .refclkBack => Sys2Proof.Machine.execRefclkBack s
  | .pllLock => Sys2Proof.Machine.execPllLock s
  | .relockFail => Sys2Proof.Machine.execRelockFail s
  | .relockRetry => Sys2Proof.Machine.execRelockRetry s
  | .rcRatioMeasure ratio => Sys2Proof.Machine.execRcRatioMeasure ratio s
  | .x32CrystalFail => Sys2Proof.Machine.execX32CrystalFail s
  | .tsyncEdge => Sys2Proof.Machine.execTsyncEdge s
  | .holdoverEntry => Sys2Proof.Machine.execHoldoverEntry s
  | .crossingError crossing => Sys2Proof.Machine.execCrossingError crossing s
  | .clockStopped crossing => Sys2Proof.Machine.execClockStopped crossing s
  | .ckOutPhaseWrite out steps => Sys2Proof.Machine.execCkOutPhaseWrite out steps s
  | .periodStart c => Sys2Proof.Machine.execPeriodStart c s
  | .compareMatch c => Sys2Proof.Machine.execCompareMatch c s
  | .deadTimeEnd c => Sys2Proof.Machine.execDeadTimeEnd c s
  | .pwmTriggerCompare c j => Sys2Proof.Machine.execPwmTriggerCompare c j s
  | .pwmsoEnd => Sys2Proof.Machine.execPwmsoEnd s
  | .pwmsiEdge => Sys2Proof.Machine.execPwmsiEdge s
  | .channelStart c => Sys2Proof.Machine.execChannelStart c s
  | .channelStop c => Sys2Proof.Machine.execChannelStop c s
  | .loadAll => Sys2Proof.Machine.execLoadAll s
  | .pwmTrip source => Sys2Proof.Machine.execPwmTrip source s
  | .tripLatchClear bits => Sys2Proof.Machine.execTripLatchClear bits s
  | .tripiSeenClear bits => Sys2Proof.Machine.execTripiSeenClear bits s
  | .pbPressLongerThan50Ms => Sys2Proof.Machine.execPbPressLongerThan50Ms s
  | .pbPress => Sys2Proof.Machine.execPbPress s
  | .vholdAndVinMeasurement vhold vin seen => Sys2Proof.Machine.execVholdAndVinMeasurement vhold vin s seen
  | .imageCollectionTimeout => Sys2Proof.Machine.execImageCollectionTimeout s
  | .resetAfterImageLoad => Sys2Proof.Machine.execResetAfterImageLoad s
  | .pllLossOfLock => Sys2Proof.Machine.execPllLossOfLock s
  | .crossingResumes crossing => Sys2Proof.Machine.execCrossingResumes crossing s
  | .receiverLock port => Sys2Proof.Machine.execReceiverLock port s
  | .unknownFrame f => Sys2Proof.Machine.execUnknownFrame f s

end Sys2Proof.Machine
end

