-- ==== Sys2Proof/Machine/Idle.lean ====
section
/-! DEFINITION. Sys2Proof/Machine/Idle.lean: what the block does when no command waits. -/

set_option Elab.async false

namespace Sys2Proof.Machine

/-- With no command waiting, one core tick passes (log entry 3). -/
def idle (s : State) : State := s.wait 1

end Sys2Proof.Machine
end

