-- ==== Sys2Proof/Safety.lean ====
section
/-! DEFINITION. Sys2Proof/Safety.lean: what a well-kept state is, and what no command may undo, in the terms the statements use. -/

set_option Elab.async false

namespace Sys2Proof.Machine

/-- No entry of a table equals what an unlisted key reads as. -/
def Tab.sparse {α : Type} [DecidableEq α] (d : α) (t : Tab α) : Bool := t.all (fun e => e.2 ≠ d)

/-- The program store in a copy of the Saggar store is in canonical form. -/
def SgPart.storeOk (p : SgPart) : Bool := Tab.wf p.store && Tab.sparse 0 p.store

/-- It is in both copies. -/
def Sec.copiesOk (x : Sec) : Bool := x.copyA.part.storeOk && x.copyB.part.storeOk

/-- The addressed stores and the sparse register tables are in canonical form: keys strictly rising, and in the program stores no entry
that equals the NOP word an unlisted step reads as. -/
def State.tablesOk (s : State) : Bool :=
  Tab.wf s.cfg && Tab.wf s.sense.cmps && Tab.wf s.sense.readings && Tab.wf s.kiln.store && Tab.wf s.kiln.sgStore
    && Tab.wf s.mg.trims && Tab.wf s.kiln.chatter && Tab.wf s.log.fr.slots && Tab.wf s.log.fa.slots
    && Tab.sparse 0 s.kiln.store && Tab.sparse 0 s.kiln.sgStore && s.sec.copiesOk

/-- The lists of the block's fixed units have their lengths: converters and trigger groups, engines, clock outputs, cooling tables,
key slots, two-wire ports and PWM channels. -/
def State.unitsOk (s : State) : Bool :=
  s.sense.convs.length == 4 && s.sense.groups.length == 4 && s.kiln.engines.length == 5 && s.clk.outs.length == 4
    && s.fault.tables.length == 8 && s.sec.slots.length == 8 && s.tw.length == 4 && s.pwm.chs.length == 16

/-- The held counter of key slot i (R227). -/
def State.heldCounter (s : State) (i : Nat) : Nat := (nth s.sec.slots i {}).counter

/-- What no command undoes: the queue and the device's identity stay, time and the numbering of free values never run back, no
held counter falls, the tables stay in canonical form, and the lists of units keep their lengths. -/
structure Keeps (s t : State) : Prop where
  pending : t.pending = s.pending
  ident : t.ident = s.ident
  now : s.clk.now ≤ t.clk.now
  free : s.free ≤ t.free
  counters : ∀ i, s.heldCounter i ≤ t.heldCounter i
  tables : s.tablesOk = true → t.tablesOk = true
  units : s.unitsOk = true → t.unitsOk = true

/-- The parts of the state, one per field. -/
inductive Part
  | ident | clk | pm | out | inp | ctl | sense | kiln | walk
  | fault | irq | mg | log | cfg | cfgLoaded | sgLoaded | port | sec
  | ring | twin | tw | twEnded | pwm | frozen | jtag | free | pending
  deriving DecidableEq, Repr

/-- One part reads the same in both states. -/
def Part.same : Part → State → State → Prop
  | .ident, s, t => t.ident = s.ident
  | .clk, s, t => t.clk = s.clk
  | .pm, s, t => t.pm = s.pm
  | .out, s, t => t.out = s.out
  | .inp, s, t => t.inp = s.inp
  | .ctl, s, t => t.ctl = s.ctl
  | .sense, s, t => t.sense = s.sense
  | .kiln, s, t => t.kiln = s.kiln
  | .walk, s, t => t.walk = s.walk
  | .fault, s, t => t.fault = s.fault
  | .irq, s, t => t.irq = s.irq
  | .mg, s, t => t.mg = s.mg
  | .log, s, t => t.log = s.log
  | .cfg, s, t => t.cfg = s.cfg
  | .cfgLoaded, s, t => t.cfgLoaded = s.cfgLoaded
  | .sgLoaded, s, t => t.sgLoaded = s.sgLoaded
  | .port, s, t => t.port = s.port
  | .sec, s, t => t.sec = s.sec
  | .ring, s, t => t.ring = s.ring
  | .twin, s, t => t.twin = s.twin
  | .tw, s, t => t.tw = s.tw
  | .twEnded, s, t => t.twEnded = s.twEnded
  | .pwm, s, t => t.pwm = s.pwm
  | .frozen, s, t => t.frozen = s.frozen
  | .jtag, s, t => t.jtag = s.jtag
  | .free, s, t => t.free = s.free
  | .pending, s, t => t.pending = s.pending

/-- What a command leaves unchanged: every part but those listed. -/
def Only (ps : List Part) (s t : State) : Prop := ∀ p, p ∉ ps → p.same s t

/-- What lies in non-volatile storage, with the records kept beside it, reads the same: identity, configuration, key table and
ownership, programs, tables, fault records, calibration and the two log regions. -/
def SameStorage (s t : State) : Prop :=
  t.ident = s.ident ∧ t.cfg = s.cfg ∧ t.sec.slots = s.sec.slots ∧ t.sec.m = s.sec.m ∧ t.sec.eligible = s.sec.eligible
    ∧ t.sec.owned = s.sec.owned ∧ t.sec.ownerFp = s.sec.ownerFp ∧ t.sec.epoch = s.sec.epoch ∧ t.kiln.store = s.kiln.store
    ∧ t.kiln.sgStore = s.kiln.sgStore ∧ t.fault.tables = s.fault.tables ∧ t.fault.first = s.fault.first
    ∧ t.fault.bisque = s.fault.bisque ∧ t.mg.cal = s.mg.cal ∧ t.log.fr = s.log.fr ∧ t.log.fa = s.log.fa

/-- Command i, run at s, answers a next state in which P holds. -/
def Answers (i : Instr) (s : State) (P : State → Prop) : Prop := ∃ t, exec i s = .next t ∧ P t

/-! ## Terms of the statements -/

/-- The Saggar partition has been written, its keys, quorum, owner and digest being x's: the mark turns, and both copies of the store
hold the partition, sealed (R239). -/
def PartitionPut (x : Sec) (t : State) : Prop :=
  t.sec = { x with storeMark := !x.storeMark, copyA := t.partition.sealed, copyB := t.partition.sealed }

/-- REGISTER_WRITE of a class runs with the rights of k: classes 1 and 2 in Ready to Cooling, class 3 in Ready and Running. -/
def RowRuns (cls : BitVec 2) (k : Carrier) (s : State) : Prop :=
  cls = 1 ∧ k = .class1 ∧ s.pm.state.logs = true ∨ cls = 2 ∧ k = .class2 ∧ s.pm.state.logs = true
    ∨ cls = 3 ∧ k = .class3 ∧ s.readyOrRunning = true

/-- The word v at the class 1 address a is what row i writes. -/
def OneWord (a v : Word) (i : Instr) (s : State) : Prop :=
  a = 0x30120 ∧ i = .fltLatchClear (BitVec.ofNat 8 (fld v 15 8))
    ∨ a = 0x40010 ∧ i = .failBitClear false v ∨ a = 0x40014 ∧ i = .failBitClear true v
    ∨ a = 0x60140 ∧ bit v 0 = true ∧ i = .fqPop
    ∨ a = 0x70808 ∧ (v = 1 ∧ i = .startNow ∨ v = 2 ∧ i = .sweepStop)
    ∨ a = 0xA0028 ∧ v = 2 ∧ s.ring.enum = none ∧ i = .enumerate
    ∨ (∃ p : BitVec 2, a.toNat = 0xB0004 + 0x40 * p.toNat ∧ (v = 1 ∧ i = .twPortReset p ∨ v = 2 ∧ i = .twBusClear p))
    ∨ (∃ n : BitVec 2, a.toNat = 0xC0044 + 0x10 * n.toNat ∧ i = .ckOutPhaseWrite n (BitVec.ofNat 8 v.toNat))
    ∨ a = 0xD0004 ∧ v = 1 ∧ i = .loadAll
    ∨ (∃ c : BitVec 4, a = 0xD0008 ∧ (v = (s.runMask ||| one 16 c.toNat).zeroExtend 32 ∧ i = .channelStart c
        ∨ v = (s.runMask &&& ~~~(one 16 c.toNat)).zeroExtend 32 ∧ i = .channelStop c))
    ∨ a = 0xD000C ∧ v.toNat < 65536 ∧ i = .tripLatchClear (BitVec.ofNat 16 v.toNat)
    ∨ a = 0xD0010 ∧ i = .tripiSeenClear (BitVec.ofNat 4 (fld v 31 28))

/-- Command c carries the last part of an image, and so many bytes have been collected with it: an image of one part, or the part that
the collection awaits (R276). -/
def LastPart (bytes : List Byte) (c : Cmd) (s : State) : Prop :=
  leAt c.payload 0 2 = 0 ∧ leAt c.payload 2 2 = 1 ∧ bytes = c.payload.drop 8
    ∨ ∃ y ∈ s.port.image, leAt c.payload 0 2 = y.next ∧ leAt c.payload 2 2 = y.parts ∧ 0 < y.next ∧ y.next + 1 = y.parts
        ∧ bytes = y.bytes ++ c.payload.drop 8

/-- A wake source has been taken in Standby (R48, R49). With VIN good the wake path begins: Starting, with cause 0x02, PFW and TRIPO
asserted. Below 8.2 V it waits in Standby for VIN good, and below 7.5 V nothing changes (log entry 49). -/
def WakeTaken (s t : State) : Prop :=
  (s.pm.vinLow = false → s.pm.vinGood = true →
      t.pm.state = .starting ∧ t.pm.stage = 8 ∧ t.pm.wakePath = true ∧ t.pm.cryptoHeld = true ∧ t.pm.lastCause = 0x02
        ∧ t.pm.wakeDue = none ∧ t.pm.wakeHeld = false ∧ t.pm.logicPowered = true ∧ t.clk.tbSet = false
        ∧ t.out.pfw = true ∧ t.out.tripo = true)
    ∧ (s.pm.vinLow = true ∨ s.pm.vinGood = false →
        t.pm.state = .standby ∧ t.pm.stage = s.pm.stage ∧ t.pm.lastCause = s.pm.lastCause ∧ t.log = s.log
          ∧ t.out.pfw = s.out.pfw ∧ t.out.tripo = s.out.tripo ∧ t.pm.wakeHeld = (s.pm.wakeHeld || !s.pm.vinLow))

/-- The fault queue takes a fault in Cooling (R145): a repeat of a queued one counts there, and a full queue only counts it. The latch and
the records are set (R135). -/
def Queued (f : FaultRec) (s t : State) : Prop :=
  (∀ e, s.fault.queue.find? (fun d => d.same f) = some e →
      t.fault.queue = s.fault.queue.map (fun d => if d.same f then { d with repeats := inc 63 e.repeats } else d)
        ∧ t.fault.overflow = s.fault.overflow)
    ∧ (s.fault.queue.find? (fun d => d.same f) = none → s.fault.queue.length < 16 →
        t.fault.queue = s.fault.queue ++ [⟨f, t.clk.stamp, 0⟩] ∧ t.fault.overflow = s.fault.overflow ∧ bit t.irq.ct 2 = true)
    ∧ (s.fault.queue.find? (fun d => d.same f) = none → 16 ≤ s.fault.queue.length →
        t.fault.queue = s.fault.queue ∧ t.fault.overflow = inc 255 s.fault.overflow ∧ bit t.irq.ct 3 = true)
    ∧ t.pm.faultLatch = true ∧ t.fault.first = some (s.fault.first.getD (f, t.clk.stamp)) ∧ t.fault.bisque.filled = true

/-- A walk has switched to a table for a cause (R143): from its entry 0, the present tick its start. -/
def Switched (table : Nat) (f : FaultRec) (s t : State) : Prop :=
  t.pm.state = .cooling ∧ t.walk.active = true ∧ t.walk.table = table ∧ t.walk.entries = s.tableEntries table
    ∧ t.walk.cause = some f ∧ t.walk.switches = inc 255 s.walk.switches ∧ t.walk.grace = false ∧ t.walk.prev = t.clk.now
    ∧ t.out.tripo = true ∧ t.walk.tripDue = none ∧ t.fault.queue = s.fault.queue ∧ t.pm.faultLatch = true

/-- The fault logic holds a fault in Standby or Starting (R48, R369), where it is none of those held already and fewer than 16 are; `now` is
the state at the tick of receipt. -/
def HoldsFault (f : FaultRec) (table : Nat) (now s t : State) : Prop :=
  (s.pm.held.any (fun h => h.what.cause == f.cause && h.what.source == f.source) = true →
      t.pm.held = s.pm.held ∧ t.fault.overflow = s.fault.overflow)
    ∧ (s.pm.held.any (fun h => h.what.cause == f.cause && h.what.source == f.source) = false →
        (s.pm.held.filter (fun h => h.what.cause != 0x28)).length < 16 →
        t.pm.held = s.pm.held ++ [⟨f, now.clk.aonStamp, BitVec.ofNat 8 table⟩] ∧ t.fault.overflow = s.fault.overflow)
    ∧ (s.pm.held.any (fun h => h.what.cause == f.cause && h.what.source == f.source) = false → f.cause ≠ 0x28 →
        16 ≤ (s.pm.held.filter (fun h => h.what.cause != 0x28)).length →
        t.pm.held = s.pm.held ∧ t.fault.overflow = inc 255 s.fault.overflow)

/-- The fault of a pin or sensor cause 0x10 + x, from a source (Table 05.4). -/
def State.pinFault (s : State) (x source : Nat) : FaultRec :=
  ⟨BitVec.ofNat 8 (0x10 + x), BitVec.ofNat 2 (fld (s.causeCfg x) 5 4), BitVec.ofNat 8 source, 0⟩

/-- The fault of a comparator's fault side: the cause by its kind, its grade and its rail (Table 05.4). -/
def State.srcFault (s : State) (src : BitVec 8) : FaultRec :=
  ⟨BitVec.ofNat 8 (src.toNat % 4 + 1), BitVec.ofNat 2 (s.cmpGrade src.toNat), BitVec.ofNat 8 (src.toNat / 4), 0⟩

/-- A crossing to its fault side makes the comparator assert: it is evaluated, armed and good, nothing holds its output, no self-test runs,
and crossing 1 passes. -/
def State.Asserts (s : State) (src : BitVec 8) : Prop :=
  s.evaluated src.toNat = true ∧ s.sense.test.src = none ∧ bit s.clk.stopped 1 = false ∧ (s.cmp src.toNat).status = .good
    ∧ s.holdsOutput src.toNat = false ∧ (s.cmp src.toNat).out = false ∧ s.armed src.toNat = true

/-- The content of a copy of the Saggar store is in force and in both copies (R239); the counts and counters of the key slots, which are
held apart from it, stay. -/
def Loaded (c : SgCopy) (s t : State) : Prop :=
  t.sgLoaded = true ∧ t.sec.copyA = c ∧ t.sec.copyB = c ∧ t.sec.m = c.part.m ∧ t.sec.eligible = c.part.eligible
    ∧ t.sec.owned = c.part.owned ∧ t.sec.ownerFp = c.part.ownerFp ∧ t.sec.epoch = c.part.epoch ∧ t.sec.imageDigest = c.part.imageDigest
    ∧ (∀ i, i < s.sec.slots.length → nth t.sec.slots i {} = { nth c.part.slots i {} with
        badSig := (nth s.sec.slots i {}).badSig, counter := (nth s.sec.slots i {}).counter })
    ∧ t.kiln = { s.kiln with sgStore := c.part.store }
    ∧ (∀ n, n < s.fault.tables.length →
        nth t.fault.tables n {} = (Tab.get? c.part.tables n).getD { nth s.fault.tables n {} with hard := false })

/-- The power outputs as stage 1 and a collapse leave them: no EN output asserted, ENPU off, PFW and TRIPO asserted, TWOK low. -/
def OutputsOff (t : State) : Prop :=
  t.out.en = 0 ∧ t.out.enpu = false ∧ t.out.pfw = true ∧ t.out.tripo = true ∧ t.out.twok = false

/-- What a shutdown start leaves in the walk registers: table c chosen, the walk in progress. -/
def Shutdown (t : State) (c : Nat) : Prop :=
  t.pm.state = .cooling ∧ t.walk.active = true ∧ t.walk.table = c ∧ t.out.pfw = true

/-- The stores that no shutdown and no request touches. -/
def SameStores (s t : State) : Prop :=
  t.ident = s.ident ∧ t.cfg = s.cfg ∧ t.sec.slots = s.sec.slots ∧ t.kiln.store = s.kiln.store ∧ t.kiln.sgStore = s.kiln.sgStore
    ∧ t.fault.tables = s.fault.tables ∧ t.log.fr = s.log.fr ∧ t.log.fa = s.log.fa ∧ t.pending = s.pending

/-- Some engine starts with the next on request. -/
def SomeEngine (s : State) : Prop := ∃ k, k < s.kiln.engines.length ∧ s.engineStarts k = true

/-- Firing has started for an on request with a PM cause; where no engine starts, Running follows in the next core cycle (R101). -/
def Fired (s t : State) (cause : Byte) : Prop :=
  (SomeEngine s → t.pm.state = .firing ∧ t.pm.lastCause = cause ∧ t.clk.now = s.clk.now)
    ∧ (¬ SomeEngine s → t.pm.state = .running ∧ t.pm.lastCause = 0x18 ∧ t.clk.now = s.clk.now + s.engTicks 0 1)
    ∧ t.kiln.eventFlags = 0 ∧ t.kiln.failBits = 0 ∧ t.pm.onPending = none ∧ Only [.pm, .log, .kiln, .clk, .mg] s t

/-- What a comparator delivers while no override holds its output: its decision, or the fault side where it is unresolved or failed (R70). -/
def Cmp.decided (c : Cmp) : Bool := c.side || c.status == .unresolved || c.status == .failed

/-- Every comparator but src reads as before. -/
def SameCmps (src : Nat) (s t : State) : Prop := ∀ x, x ≠ src → t.cmp x = s.cmp x

/-- The step rows, of engine k with what its fetch finds, each with its opcode (Table 04.3). -/
def stepRows (k : BitVec 3) (f : Fetch) : List (Instr × Nat) :=
  [(.nopStep k f, 0x0), (.enableStep k f, 0x1), (.disableStep k f, 0x2), (.waitStep k f, 0x3), (.waitforStep k f, 0x4), (.checkStep k f, 0x5),
    (.rampStep k f, 0x6), (.jumpStep k f, 0x7), (.jumpifStep k f, 0x8), (.signalStep k f, 0x9), (.syncStep k f, 0xA),
    (.marginStep k f, 0xB), (.trimStep k f, 0xC), (.snapStep k f, 0xD), (.pwmStep k f, 0xE), (.haltStep k f, 0xF)]

/-- The rows of steps that act at once and go on with the next address, whatever they do. -/
def passingRows (k : BitVec 3) (f : Fetch) : List (Instr × Nat) :=
  [(.nopStep k f, 0x0), (.rampStep k f, 0x6), (.signalStep k f, 0x9), (.trimStep k f, 0xC), (.snapStep k f, 0xD), (.pwmStep k f, 0xE)]

/-- The tick in which engine k issues its next step. -/
def issueTick (k : BitVec 3) (s : State) : Nat := max s.clk.now (s.eng k.toNat).next

/-- Engine k issues the step at its program counter, of opcode op, from a word that reads right, in a tick in which no HALT with off = 1 is
due: a step of that tick would have no effect (R118). -/
def Issues (k : BitVec 3) (op : Nat) (f : Fetch) (s : State) : Prop :=
  s.mayIssue k.toNat op = true ∧ f ≠ .uncorrectable ∧ (s.till (issueTick k s)).offDue = false

/-- Engine k has issued the step at its counter, of opcode op: the tick, and what its status shows (R124, Table 04.25). -/
def Issued (k : BitVec 3) (op : Nat) (s t : State) : Prop :=
  t.clk.now = issueTick k s ∧ (t.eng k.toNat).opcode = op ∧ (t.eng k.toNat).shown = (s.eng k.toNat).pc
    ∧ (t.eng k.toNat).steps = ((s.eng k.toNat).steps + 1) % 0x100000000 ∧ (t.eng k.toNat).err = (s.eng k.toNat).err

/-- The step is over, and the engine issues the one at address a one of its cycles later. -/
def GoesTo (k : BitVec 3) (a : Nat) (s t : State) : Prop :=
  (t.eng k.toNat).st = .running ∧ (t.eng k.toNat).pc = a ∧ (t.eng k.toNat).busy = .none
    ∧ (t.eng k.toNat).next = t.clk.now + s.engTicks k.toNat 1

/-- The engine is inside the step. -/
def WaitsIn (k : BitVec 3) (b : Busy) (s t : State) : Prop :=
  (t.eng k.toNat).st = .waiting ∧ (t.eng k.toNat).busy = b ∧ (t.eng k.toNat).pc = (s.eng k.toNat).pc

/-- The flags and the loop counter of engine k. -/
def SameFlags (k : BitVec 3) (s t : State) : Prop :=
  (t.eng k.toNat).cf = (s.eng k.toNat).cf ∧ (t.eng k.toNat).tmo = (s.eng k.toNat).tmo ∧ (t.eng k.toNat).cl = (s.eng k.toNat).cl
    ∧ (t.eng k.toNat).lc = (s.eng k.toNat).lc

/-- Every engine but k reads as before. -/
def OtherEngines (k : BitVec 3) (s t : State) : Prop := ∀ j, j ≠ k.toNat → t.eng j = s.eng j

/-- Nothing of the engines' block but the engines and the count of corrected words changes. -/
def EnginesOnly (s t : State) : Prop := t.kiln = { s.kiln with engines := t.kiln.engines, corrected := t.kiln.corrected }

/-- The stores and load registers of the engines' block. -/
def SamePrograms (s t : State) : Prop :=
  t.kiln.store = s.kiln.store ∧ t.kiln.sgStore = s.kiln.sgStore ∧ t.kiln.loaded = s.kiln.loaded

/-- The rails on which an ENABLE or RAMP of engine k acts: those it selects, but for those that a DISABLE of its tick selects, issued
already or due in it (Table 04.13). -/
def actRails (k : BitVec 3) (s : State) : Rails :=
  stRails (s.stepOf k.toNat) &&& ~~~((if s.kiln.tick.time = issueTick k s then s.kiln.tick.disabled else 0)
    ||| (s.till (issueTick k s)).disablesDue)

/-- No step of engine k's issue tick has acted on the trim of rail n yet. -/
def TrimFree (k : BitVec 3) (n : Nat) (s : State) : Prop :=
  claimed (if s.kiln.tick.time = issueTick k s then s.kiln.tick.trimmed else []) n = none

/-- No step of engine k's issue tick has acted on PWM channel c (LOAD_ALL as 16) yet. -/
def PwmFree (k : BitVec 3) (c : Nat) (s : State) : Prop :=
  claimed (if s.kiln.tick.time = issueTick k s then s.kiln.tick.pwm else []) c = none

/-- TM n carries a code under a level of Table 06.10, clamped to the safe band, unless the twin drives that output; no other rail's record
changes. -/
def Trimmed (n level : Nat) (code : Int) (s t : State) : Prop :=
  t.trim n = (if s.trimWithheld n then s.trim n else { s.trim n with
      code := BitVec.ofInt 12 (s.clampCode n code), level := BitVec.ofNat 3 level, clamped := decide (s.clampCode n code ≠ code) })
    ∧ ∀ m, m ≠ n → t.trim m = s.trim m

/-- Engine k has entered error with a cause, and its fault has started a shutdown (R124, R125). -/
def Failed (k : BitVec 3) (err : Nat) (s t : State) : Prop :=
  (t.eng k.toNat).st = .error ∧ (t.eng k.toNat).err = err ∧ (t.eng k.toNat).busy = .none ∧ t.pm.state = .cooling
    ∧ t.pm.faultLatch = true ∧ t.out.pfw = true ∧ t.out.en = s.out.en
    ∧ (s.fault.first = none → ∃ r n, t.fault.first = some (r, n) ∧ r.cause = 0x10 ∧ r.source = BitVec.ofNat 8 k.toNat
        ∧ r.detail = BitVec.ofNat 8 err)
    ∧ (∀ j, (t.eng j).st ≠ .running ∧ (t.eng j).st ≠ .waiting)

/-- Every channel but c runs, or does not run, as before. -/
def SameRuns (c : Nat) (s t : State) : Prop := ∀ d, d ≠ c → (t.ch d).running = (s.ch d).running

/-- Each channel that names a source of the mask and was not latched has tripped: latched, its output and dead-time count stopped, and
counted; the partner of one that trips in the dead time of their pair goes to its trip level; every other channel reads as before (R334,
R335). -/
def Tripped (src : Word) (s t : State) : Prop :=
  (∀ c, c < 16 → t.ch c = if s.tripNamed c &&& src ≠ 0 ∧ (s.ch c).latch = false
      then { s.ch c with latch := true, dead := none, out := false }
      else if bit (s.tripMates (s.tripHits src)) c then { s.ch c with await := true, dead := none, out := false } else s.ch c)
    ∧ (s.tripHits src = 0 → t.pwm.tripCount = s.pwm.tripCount ∧ t.irq.pw = s.irq.pw)
    ∧ (s.tripHits src ≠ 0 → bit t.irq.pw 0 = true
        ∧ t.pwm.tripCount = incBy 65535 s.pwm.tripCount (bitsOf (s.tripHits src)).length) ∧ t.pwm.loadAll = s.pwm.loadAll ∧ Only [.pwm, .irq] s t

/-- The fault logic has received the cause of CT_CAUSE_CFGx, by its grade (R132, R134, Table 05.1). -/
def CauseSeen (x : Nat) (s t : State) : Prop :=
  (fld (s.causeCfg x) 5 4 = 0 → t.pm = s.pm ∧ t.out = s.out)
    ∧ (s.pm.state.logs = true → fld (s.causeCfg x) 5 4 = 1 → t.pm = s.pm ∧ t.out = s.out
        ∧ t.ctl.warnCount = inc 65535 s.ctl.warnCount)
    ∧ ((s.pm.state = .ready ∨ s.pm.state = .firing ∨ s.pm.state = .running) → 2 ≤ fld (s.causeCfg x) 5 4 →
        t.pm.state = .cooling ∧ t.pm.faultLatch = true ∧ t.out.pfw = true ∧ t.walk.active = true)

/-- The core has left the PLL for the logic-die RC and a re-lock begins in this tick: every clock output is held low (R304). -/
def Relocking (s t : State) : Prop :=
  t.clk.corePll = false ∧ t.clk.pllLocked = false ∧ t.clk.relock = some s.clk.now ∧ t.clk.retryDue = none
    ∧ (∀ n, n < 4 → (nth t.clk.outs n {}).running = false) ∧ t.clk.stamp = s.clk.stamp ∧ t.clk.relockCount = s.clk.relockCount

/-- Every two-wire port but p reads as before. -/
def OtherPorts (p : BitVec 2) (s t : State) : Prop := ∀ q, q ≠ p.toNat → t.port2 q = s.port2 q

/-- Every sequence of port p has ended with pmb_result 2 and waits to be reported (R286). -/
def QueueEnded (p : BitVec 2) (s t : State) : Prop :=
  (t.port2 p.toNat).queue = [] ∧ t.twEnded = s.twEnded ++ (s.port2 p.toNat).queue.map (fun q => (q, 2))

/-- Command c has been decided with a status and a reply payload (R205, R212, R219, R233): a broadcast leaves its result in
CM_BCAST_STATUS; a reply to be signed, or behind one, joins the signing list; any other reply of SPI is queued where it fits, and its
tag is free. -/
def Answered (c : Cmd) (status : Nat) (payload : List Byte) (s t : State) : Prop :=
  (c.bcast = true → t.port.bcastStatus = BitVec.ofNat 8 status ∧ t.port.bcastOp = c.op ∧ t.port.bcastCounter = c.counter % 65536)
    ∧ (c.bcast = false → (c.signReply || !s.port.signing.isEmpty) = true →
        t.port.signing = s.port.signing ++ [⟨c, BitVec.ofNat 8 status, payload⟩])
    ∧ (c.bcast = false → c.signReply = false → s.port.signing = [] → c.ring = false → s.port.waiting = [] →
        s.port.fits (s.replyTo c status payload).length = true →
        t.port.replies = s.port.replies ++ [{
            ring := false, tag := c.tag, bytes := s.replyTo c status payload, reset := resets c.op status payload }]
          ∧ t.cmd? false c.tag = none)
    ∧ (c.bcast = false → c.signReply = false → s.port.signing = [] → c.ring = true → t.cmd? true c.tag = none)

/-- What the sweep does not touch of the margin block: calibration, and every rail's record but one. -/
def MarginKept (n : Nat) (s t : State) : Prop :=
  t.mg.cal = s.mg.cal ∧ t.mg.calDigest = s.mg.calDigest ∧ t.mg.calEpoch = s.mg.calEpoch ∧ ∀ m, m ≠ n → t.trim m = s.trim m

/-- A conversion of an input has been asked for by a user: it waits, or a converter has begun it (Table 03.16). -/
def Asked (i : Nat) (u : ConvUser) (t : State) : Prop :=
  t.sense.demands.any (fun d => d.input == i && d.user == u) = true ∨ ∃ c ∈ t.sense.convs, ∃ v, c = some v ∧ v.input = i ∧ v.user = u

/-- A position of a region holds a committed shard with a seq, origin and window, chained to the one before it (R183 to R185). -/
def Committed (r pos : Nat) (x : Shard) (seq : Nat) (origin : Option Nat) (s t : State) : Prop :=
  ∃ y : Stored, Tab.get? (t.region r).slots pos = some (.good y) ∧ y.shard = x ∧ y.seq = seq ∧ y.origin = origin
    ∧ y.chain = sha3 (digestBytes (s.chainOf r) ++ { y with chain := 0 }.body)
    ∧ (t.region r).chain = some y.chain ∧ (t.region r).next = seq + 1 ∧ (t.region r).pos = (pos + 1) % regionSize r

/-- The command that a packet on SPI carries. -/
def spiCmd (bytes : List Byte) : Cmd := packetCmd false 0 bytes

/-- The packet is whole and its header right, it is no continuation, and stages 1 to 3 accept it for this device (Table 08.12). -/
def AcceptedHere (bytes : List Byte) (s : State) : Prop :=
  s.stage1 false bytes = none ∧ hdCont (bytes.take 32) = false
    ∧ hdTotal (bytes.take 32) = bytes.length ∧ s.route (spiCmd bytes) = .here ∧ s.stage3 (spiCmd bytes) = none

/-- Command c of opcode op is at the head of the execution queue, no final reply waits for room, and no reset is awaited (R214, R218). -/
def Runs (op : Nat) (c : Cmd) (s : State) : Prop := s.headOp op = some c ∧ s.pm.resetDue = none

/-- Command c is done with status OK and a reply payload, and nothing but that has happened (R205, R212). -/
def Replies (c : Cmd) (payload : List Byte) (s t : State) : Prop :=
  Answered c 0 payload s t ∧ (c.bcast = false → t.irq = s.irq) ∧ (c.ring = false → t.ring = s.ring)
    ∧ t.port.hiCapture = s.port.hiCapture ∧ Only [.port, .irq, .ring] s t

/-- An on request with a PM cause has started firing, and where no engine starts, Running follows in the next core cycle (R101, R148). -/
def FiresBy (cause : Byte) (s t : State) : Prop :=
  (SomeEngine s → t.pm.state = .firing ∧ t.pm.lastCause = cause ∧ t.clk.now = s.clk.now)
    ∧ (¬ SomeEngine s → t.pm.state = .running ∧ t.pm.lastCause = 0x18 ∧ t.clk.now = s.clk.now + s.engTicks 0 1)
    ∧ t.kiln.eventFlags = 0 ∧ t.kiln.failBits = 0 ∧ t.pm.onPending = none

/-- The rows that write register words by command, with their opcodes and carriers (Table 14.2). -/
def wordRows (confirm : Confirm) : List (Instr × Nat × Carrier) :=
  [(.writeRegsClass1 confirm, 0x48, .class1), (.writeRegsClass2 confirm, 0x88, .class2), (.saggarWrite confirm, 0xC4, .saggar),
    (.writeRegsClass3 confirm, 0xC8, .class3)]

/-- A class 3 command meets the conditions of R226 and Table 09.6: Ready or Running, and not in bootstrap. -/
def Allowed3 (op : Nat) (c : Cmd) (s : State) : Prop := 0xC0 ≤ op → s.readyOrRunning = true ∧ c.boot = false

/-- The frame reaches the device whole and with no horn bit (R252). -/
def Clean (a : Arrival) : Prop := a.crcOk = true ∧ bit a.frame.flags 0 = false

/-- The frame goes on through the port of its direction, which carries frames and whose horn window is closed: one more hop, and nothing else
of it changes (R252). -/
def GoesOn (a : Arrival) (s t : State) : Prop :=
  s.linkOpen (otherLink a.port) = true → a.frame.hops.toNat + 1 < 4095 → s.clk.now ≥ s.ring.hornWindow →
    t.ring.tx = s.ring.tx ++ [Frame.sealed { a.frame with hops := a.frame.hops + 1 } (otherLink a.port) a.crcOk]

/-- The ring block but for what it has sent reads as before. -/
def RingKept (s t : State) : Prop := t.ring = { s.ring with tx := t.ring.tx }

/-- A frame of the device's own of a kind, for a destination, with a payload, has left on direction A, the last of those sent
(R251, R263). -/
def Sent (kind dest : Nat) (payload : List Byte) (s t : State) : Prop :=
  s.linkOpen .a = true → ∃ f ∈ t.ring.tx, f.port = .a ∧ f.crcOk = true ∧ f.frame.kind = BitVec.ofNat 8 kind
    ∧ f.frame.dest = BitVec.ofNat 12 dest ∧ f.frame.src = BitVec.ofNat 12 t.ring.address ∧ f.frame.hops = 0
    ∧ f.frame.payload = payload

/-- No horn of this originator and sequence was handled within the preceding 1 ms (R254, R255). -/
def NewHorn (orig seq : Nat) (s : State) : Prop :=
  ∀ h ∈ s.ring.horns, s.clk.now < h.time + msTicks → ¬ (h.orig = orig ∧ h.seq = seq)

/-- The first whole copy of a TWIN message has reached the device that it is for (R252). -/
def TwinMsg (a : Arrival) (msg : Nat) (s : State) : Prop :=
  s.hearsTwin a msg = true ∧ s.actsOn a = true ∧ Clean a ∧ s.forMe a.frame = true ∧ s.secondCopy a = false

/-- The first whole copy of a SEEK of the device's own twin group has reached a device that twin_en covers (R264, R272). -/
def SeekHeard (a : Arrival) (s : State) : Prop :=
  s.hearsTwin a 1 = true ∧ s.actsOn a = true ∧ Clean a ∧ s.secondCopy a = false ∧ s.twinEn = true ∧ s.twinGroup ≠ 0
    ∧ leAt (twinBody a.frame) 0 2 = s.twinGroup

/-- The first copy of a TIME frame of another device has reached a device that is no root and takes no frame like it off the ring. -/
def TimeHeard (a : Arrival) (s : State) : Prop :=
  s.hears a 4 = true ∧ Clean a ∧ s.inp.root = false ∧ s.ownSource a.frame = false ∧ s.forMe a.frame = false ∧ s.laterCopy a = false

/-- A TIME frame goes on with one more hop, bit 0 of its flags set where the port is busy, which is a free value (R252, log entry 44). -/
def TimeGoesOn (a : Arrival) (s t : State) : Prop :=
  s.linkOpen (otherLink a.port) = true → a.frame.hops.toNat + 1 < 4095 → s.clk.now ≥ s.ring.hornWindow → 32 ≤ a.frame.payload.length →
    ∃ p, t.ring.tx = s.ring.tx ++ [Frame.sealed { a.frame with hops := a.frame.hops + 1, payload := p } (otherLink a.port) true]
      ∧ p.take 28 = a.frame.payload.take 28 ∧ leAt p 28 4 / 2 = leAt a.frame.payload 28 4 / 2
      ∧ (Config.freeBit s.free = false → p = a.frame.payload) ∧ (Config.freeBit s.free = true → leAt p 28 4 % 2 = 1)

/-- A TWIN message with its body has left for a destination, under the next sequence (Table 10.10). -/
def Tells (dest msg : Nat) (body : List Byte) (s t : State) : Prop :=
  s.linkOpen .a = true → ∃ f ∈ t.ring.tx, f.port = .a ∧ f.frame.kind = 0x21 ∧ f.frame.dest = BitVec.ofNat 12 dest
    ∧ f.frame.payload = [BitVec.ofNat 8 msg] ++ leBytes 2 s.twin.msgSeq.toNat ++ [0] ++ body

/-- The twin block but for some of its fields: nothing of the pairing changes. -/
def SamePair (s t : State) : Prop :=
  t.twin.state = s.twin.state ∧ t.twin.uid = s.twin.uid ∧ t.twin.heldOn = s.twin.heldOn ∧ t.twin.hbDue = s.twin.hbDue
    ∧ t.twin.lost = s.twin.lost

/-- The rows that write words of the configuration: register writes by command, or one word told as a row, and an image (R211). -/
def WritesCfg : Instr → Prop
  | .writeRegsClass1 _ | .writeRegsClass2 _ | .writeRegsClass3 _ | .saggarWrite _ | .registerWrite _ _ _ | .imageLoad _ => True
  | _ => False

/-- The rows that change the key table, the quorum or the ownership (R235 to R237). -/
def ChangesKeys : Instr → Prop
  | .takeOwnership _ | .keySlotWrite _ | .keySlotClear _ | .quorumSet _ | .decommission _ => True
  | _ => False

/-- The keys and what is decided by them: every slot's role and keys, m, the eligible mask, the owner and the epoch. -/
def SameKeys (s t : State) : Prop :=
  t.sec.slots.map (fun k => (k.filled, k.role, k.ed, k.ml)) = s.sec.slots.map (fun k => (k.filled, k.role, k.ed, k.ml))
    ∧ t.sec.m = s.sec.m ∧ t.sec.eligible = s.sec.eligible ∧ t.sec.owned = s.sec.owned ∧ t.sec.ownerFp = s.sec.ownerFp
    ∧ t.sec.epoch = s.sec.epoch

end Sys2Proof.Machine
end

