-- ==== Sys2Proof/Certificates/Slice0/Obligations.lean ====
section
/-! DEFINITION. Sys2Proof/Certificates/Slice0/Obligations.lean: the statements for the provers, in the order of the specification's chapters and then
those about every command. Each docstring names the rules it rests on. -/

set_option Elab.async false

open Sys2Proof Sys2Proof.Machine

/-- VIN_RISES_PAST_4V (R30) takes a device in Off into stage 1 with the levels found on its pins, every output off and storage as it was.
VIN_GOOD (R31) sets vinGood and ends a stage 1 whose work is done, with the start-up origin at that tick; in Standby it begins a wake path
that waited for it (R49; that it waits in Standby is the model's choice, log entry 49). INPUT_COLLAPSE (R52, Table 02.8): in
Ready, Firing, Running and Cooling the device enters stage 1 with cause 0x40, outputs off, the collapse noted for the log, and, where the log
die responds, the open shard and the collapse shard behind the captured ones with the commit sequence begun; in stages 2 to 5 it enters
stage 1; in stage 1 it only notes the fall; in Standby PFW and TRIPO assert; in Coppice mode every output goes off and the walk ends.
COMMIT_SEQUENCE_END (R53, R55) writes every shard that waits to the flight recorder and notes outcome 1; HOLD_UP_FLOOR keeps those written
before it, of which an archive copy under way is the first, and leaves outcome 2; after either the PWM outputs are released. VIN_BELOW_4V
takes the device to Off, after the commit sequence where one runs. -/
def Obligations.SupplyAndCollapse : Prop :=
  (∀ (root twjoin twside pb mr : Bool) (s : State), s.pm.state = .off →
    Answers (.vinRisesPast4v root twjoin twside pb mr) s fun t =>
      t.pm.state = .starting ∧ t.pm.stage = 1 ∧ t.pm.vinAlive = true ∧ t.pm.vinGood = false ∧ t.pm.stage1Done = false
        ∧ t.pm.lastCause = 0 ∧ t.pm.resetCause = 1 ∧ OutputsOff t ∧ t.out.hrst = true
        ∧ t.inp = { s.inp with root := root, twjoin := twjoin, twside := s.ident.variantT && twside, pb := pb, mr := mr }
        ∧ SameStorage s t ∧ t.pending = s.pending)
  ∧ (∀ s : State, s.pm.state ≠ .off →
    Answers .vinGood s fun t =>
      t.pm.vinGood = true ∧ t.pm.vinLow = false ∧ t.pm.vinGoodAt = s.clk.now
        ∧ (s.pm.state = .starting → s.pm.stage = 1 → s.pm.stage1Done = true → s.pm.committing = false →
            t.pm.stage = 2 ∧ t.pm.origin = s.clk.now ∧ t.pm.logicPowered = true ∧ Only [.pm] s t)
        ∧ (s.pm.state = .standby → s.pm.wakeHeld = true →
            t.pm.state = .starting ∧ t.pm.stage = 8 ∧ t.pm.wakePath = true ∧ t.pm.wakeHeld = false ∧ t.pm.lastCause = 0x02
              ∧ t.pm.origin = s.clk.now ∧ t.out = { s.out with pfw := true, tripo := true } ∧ Only [.pm, .out, .clk, .log] s t)
        ∧ (¬ (s.pm.state = .starting ∧ s.pm.stage = 1 ∧ s.pm.stage1Done = true ∧ s.pm.committing = false) →
            ¬ (s.pm.state = .standby ∧ s.pm.wakeHeld = true) →
            t.pm = { s.pm with vinGood := true, vinLow := false, vinGoodAt := s.clk.now } ∧ Only [.pm] s t))
  ∧ (∀ (logDie archive : Bool) (s : State), s.pm.state.logs = true →
    Answers (.inputCollapse logDie archive) s fun t =>
      t.pm.state = .starting ∧ t.pm.stage = 1 ∧ t.pm.lastCause = 0x40 ∧ t.pm.resetCause = s.pm.resetCause ||| 2
        ∧ t.pm.vinGood = false ∧ t.pm.vinLow = true
        ∧ t.pm.note = some {
            state := BitVec.ofNat 4 s.pm.state.code, holdReady := s.pm.holdReady,
            outcome := if logDie && s.log.responds then 2 else 3 }
        ∧ (logDie = true → s.log.responds = true →
            t.pm.committing = true ∧ t.log.buffer = s.log.buffer ++ [s.openShard, s.collapseShard s.pm.state.code]
              ∧ t.log.archiving = archive ∧ t.pwm.pads = s.pwm.pads)
        ∧ OutputsOff t ∧ SameStorage s t ∧ t.pending = s.pending)
  ∧ (∀ (logDie archive : Bool) (s : State), s.pm.state = .starting → s.pm.stage ≠ 1 →
    Answers (.inputCollapse logDie archive) s fun t =>
      t.pm.state = .starting ∧ t.pm.stage = 1 ∧ t.pm.lastCause = 0x40 ∧ t.pm.resetCause = s.pm.resetCause ||| 2
        ∧ t.pm.vinLow = true ∧ OutputsOff t ∧ SameStorage s t ∧ t.pending = s.pending)
  ∧ (∀ (logDie archive : Bool) (s : State), s.pm.state = .starting → s.pm.stage = 1 →
    Answers (.inputCollapse logDie archive) s fun t =>
      t.pm.stage = 1 ∧ t.pm.vinGood = false ∧ t.pm.vinLow = true ∧ Only [.pm] s t)
  ∧ (∀ (logDie archive : Bool) (s : State), s.pm.state = .standby →
    Answers (.inputCollapse logDie archive) s fun t =>
      t.pm.state = .standby ∧ t.pm.vinLow = true ∧ t.out = { s.out with pfw := true, tripo := true }
        ∧ t.log.fr = s.log.fr ∧ t.log.fa = s.log.fa ∧ Only [.pm, .out, .log] s t)
  ∧ (∀ (logDie archive : Bool) (s : State), s.pm.state = .coppice →
    Answers (.inputCollapse logDie archive) s fun t =>
      t.pm.state = .coppice ∧ t.pm.vinLow = true ∧ OutputsOff t ∧ t.walk.active = false
        ∧ (∀ c, (nth t.pwm.chs c {}).out = false) ∧ t.sense.readings = s.sense.readings
        ∧ Only [.pm, .out, .pwm, .walk, .sense, .irq] s t)
  ∧ (∀ s : State, s.pm.committing = true →
    Answers .commitSequenceEnd s fun t =>
      t.pm.committing = false ∧ t.log.buffer = [] ∧ t.log.fr.next = s.log.fr.next + s.log.buffer.length
        ∧ (∀ n, s.pm.note = some n → n.outcome = 2 → t.pm.note = some { n with outcome := 1 })
        ∧ (s.pm.offAfterCommit = true → t.pm.state = .off ∧ OutputsOff t)
        ∧ (s.pm.offAfterCommit = false → t.pwm = { s.pwm with pads := false } ∧ Only [.pm, .log, .irq, .pwm] s t)
        ∧ t.cfg = s.cfg ∧ t.sec.slots = s.sec.slots ∧ t.kiln.store = s.kiln.store ∧ t.pending = s.pending)
  ∧ (∀ (done words : Nat) (s : State), s.pm.committing = true →
    done < s.log.buffer.length + (if s.log.archiving then 1 else 0) →
    Answers (.holdUpFloor done words) s fun t =>
      t.pm.committing = false ∧ t.log.buffer = []
        ∧ t.log.fr.next = s.log.fr.next + (if s.log.archiving then done - 1 else done)
        ∧ (∀ n, s.pm.note = some n → n.outcome = 2 → t.pm.note = some n)
        ∧ (s.pm.offAfterCommit = true → t.pm.state = .off ∧ OutputsOff t)
        ∧ (s.pm.offAfterCommit = false → t.pwm = { s.pwm with pads := false } ∧ Only [.pm, .log, .irq, .pwm] s t)
        ∧ t.cfg = s.cfg ∧ t.sec.slots = s.sec.slots ∧ t.kiln.store = s.kiln.store ∧ t.pending = s.pending)
  ∧ (∀ s : State, s.pm.state ≠ .off → s.pm.vinLow = true → s.pm.committing = false →
    Answers .vinBelow4v s fun t =>
      t.pm.state = .off ∧ t.pm.vinAlive = false ∧ OutputsOff t ∧ SameStorage s t ∧ t.pending = s.pending)
  ∧ (∀ s : State, s.pm.vinLow = true → s.pm.committing = true →
    Answers .vinBelow4v s fun t =>
      t.pm = { s.pm with vinAlive := false, vinGood := false, vinLow := true, offAfterCommit := true } ∧ Only [.pm] s t)

/-- STARTUP_STAGE_COMPLETE within the stage's limit (R33, Table 02.4). Stage 1 takes the pins sampled and loads the Saggar partition from
the copy in force, or from the other, counted as a repair, or with neither whole fails with code 0x01 (R239); it hands over to stage 2 once
VIN is good. Stage 2 locks the PLL and hands over to stage 3. Stage 3 sets the time base and hands over to stage 4, or fails with code 9, 2
or 3; stage 4 hands over to stage 5, or fails with code 4, 5, 6 or 7, of several failing tests the first in that order (the model's choice,
log entry 49). A failure leaves the device in Starting with cause 0x04; so does, as a late stage, a STARTUP_STAGE_COMPLETE after the limit.
Stage 5, with no request and no TRIPI line found, ends in Ready with cause 0x01: ENPU on, PFW and TRIPO released unless the latch is set,
T_OFFMIN running, the held faults told. STARTUP_STAGE_LATE fails the stage with its code, in stages 3 and 4 with one of its codes, which the
model leaves a free value (log entry 7). Where no stage is open nothing changes (the model's choice, log entry 2). -/
def Obligations.StartUp : Prop :=
  (∀ (r : StageResult) (s : State), s.stageOpen = true → s.stageDue.all (fun d => decide (s.clk.now ≤ d)) = true → s.pm.stage = 1 →
    Answers (.startupStageComplete r) s fun t =>
      t.pm.stage1Done = true ∧ Only [.pm, .sgLoaded, .sec, .inp, .out, .cfg, .kiln, .fault] s t
        ∧ t.inp = { s.inp with root := r.root, twjoin := r.twjoin, twside := s.ident.variantT && r.twside }
        ∧ t.out = { s.out with passive := s.ident.variantT && r.twjoin }
        ∧ (∀ c, (s.goodCopies r).1 = some c → Loaded c s t ∧ t.pm.failCode = s.pm.failCode ∧ t.sec.storeRepair = s.sec.storeRepair)
        ∧ (∀ c, (s.goodCopies r).2 = some c → (s.goodCopies r).1 = none →
            Loaded c s t ∧ t.pm.failCode = s.pm.failCode ∧ t.sec.storeRepair = inc 255 s.sec.storeRepair)
        ∧ ((s.goodCopies r).1 = none → (s.goodCopies r).2 = none →
            t.pm.failCode = 1 ∧ t.pm.portUp = false ∧ t.pm.lastCause = 0x04 ∧ Only [.pm, .inp, .out] s t)
        ∧ (s.pm.vinGood = true → s.pm.committing = false → t.pm.stage = 2 ∧ t.pm.origin = s.clk.now)
        ∧ (s.pm.vinGood = false ∨ s.pm.committing = true → t.pm.stage = 1))
  ∧ (∀ (r : StageResult) (s : State), s.stageOpen = true → s.stageDue.all (fun d => decide (s.clk.now ≤ d)) = true → s.pm.stage = 2 →
    Answers (.startupStageComplete r) s fun t =>
      t.clk.pllLocked = true ∧ t.clk.corePll = true ∧ t.clk.pllRefRc = !r.refLocked ∧ t.clk.refOk = r.refLocked
        ∧ Only [.pm, .clk] s t
        ∧ (s.pm.failCode = 0 → t.pm = { s.pm with stage := 3, stageEntry := s.clk.now })
        ∧ (s.pm.failCode = 1 → t.pm = { s.pm with portUp := true }))
  ∧ (∀ (r : StageResult) (s : State), s.stageOpen = true → s.stageDue.all (fun d => decide (s.clk.now ≤ d)) = true → s.pm.stage = 3 →
    Answers (.startupStageComplete r) s fun t =>
      t.clk.tbSet = true ∧ t.pm.state = .starting ∧ t.log.responds = r.logDie
        ∧ (r.logDie = true → r.majority = true → s.log.split = false → r.digestOk = true →
            t.pm.stage = 4 ∧ t.pm.failCode = s.pm.failCode ∧ t.cfgLoaded = true ∧ t.kiln.loaded = true)
        ∧ (r.logDie = false → t.pm.failCode = 9)
        ∧ (r.logDie = true → r.majority = false ∨ s.log.split = true → t.pm.failCode = 2)
        ∧ (r.logDie = true → r.majority = true → s.log.split = false → r.digestOk = false → t.pm.failCode = 3)
        ∧ (t.pm.failCode ≠ s.pm.failCode → t.pm.lastCause = 0x04 ∧ t.pm.portUp = true ∧ t.pm.stage = 3)
        ∧ t.cfg = s.cfg ∧ t.sec = s.sec ∧ t.out = s.out)
  ∧ (∀ (r : StageResult) (s : State), s.stageOpen = true → s.stageDue.all (fun d => decide (s.clk.now ≤ d)) = true → s.pm.stage = 4 →
    Answers (.startupStageComplete r) s fun t =>
      t.cfg = s.cfg ∧ t.sec = s.sec ∧ t.log.fr = s.log.fr ∧ t.log.fa = s.log.fa
        ∧ (r.kat = true → r.trng = true → r.convRef = true → s.safetyFailed r.swapFailed = false →
            t.pm.stage = 5 ∧ t.pm.stageEntry = s.clk.now)
        ∧ (r.kat = false → t.pm.failCode = 4)
        ∧ (r.kat = true → r.trng = false → t.pm.failCode = 5)
        ∧ (r.kat = true → r.trng = true → r.convRef = false → t.pm.failCode = 6)
        ∧ (r.kat = true → r.trng = true → r.convRef = true → s.safetyFailed r.swapFailed = true → t.pm.failCode = 7)
        ∧ (¬ (r.kat = true ∧ r.trng = true ∧ r.convRef = true ∧ s.safetyFailed r.swapFailed = false) →
            t.pm.lastCause = 0x04 ∧ t.pm.portUp = true ∧ t.pm.stage = 4 ∧ t.pm.state = .starting))
  ∧ (∀ (r : StageResult) (s : State), s.stageOpen = true → s.stageDue.all (fun d => decide (s.clk.now ≤ d)) = true → s.pm.stage = 5 →
      s.onreqEn = false → s.autoOn = false → s.inp.tripi = 0 → s.out.passive = false →
    Answers (.startupStageComplete r) s fun t =>
      t.pm.state = .ready ∧ t.pm.lastCause = 0x01 ∧ t.pm.stage = 6 ∧ t.pm.portUp = true ∧ t.pm.held = [] ∧ t.out.enpu = true
        ∧ t.pm.readyTime = min 255 ((s.clk.now - s.pm.origin) / 20000) ∧ (t.pm.faultLatch = false → t.out.pfw = false ∧ t.out.tripo = false)
        ∧ t.pm.offMinDue = (if fld (s.cfgAt 0x6000C) 15 0 = 0 then none
            else some (s.clk.now + fld (s.cfgAt 0x6000C) 15 0 * msTicks))
        ∧ t.sec = { s.sec with windowDue := if s.ctl.pbSinceStage1 && s.inp.pb then some (s.clk.now + 60 * secondTicks) else none }
        ∧ t.cfg = s.cfg ∧ t.kiln.store = s.kiln.store ∧ t.out.en = s.out.en)
  ∧ (∀ (due : Nat) (s : State), s.stageOpen = true → s.stageDue = some due → s.pm.stage = 1 →
    Answers .startupStageLate s fun t => t.pm.failCode = 1 ∧ t.pm.lastCause = 0x04 ∧ t.pm.portUp = false ∧ t.pm.state = .starting
      ∧ t.clk.now = max s.clk.now due ∧ Only [.clk, .pm] s t)
  ∧ (∀ (due : Nat) (s : State), s.stageOpen = true → s.stageDue = some due → s.pm.stage = 2 → s.pm.failCode = 0 →
    Answers .startupStageLate s fun t => t.pm.failCode = 8 ∧ t.pm.lastCause = 0x04 ∧ t.pm.portUp = true ∧ t.pm.state = .starting
      ∧ t.clk.now = max s.clk.now due ∧ Only [.clk, .pm, .free] s t)
  ∧ (∀ (due : Nat) (s : State), s.stageOpen = true → s.stageDue = some due → s.pm.stage = 2 → s.pm.failCode = 1 →
    Answers .startupStageLate s fun t => t.pm = { s.pm with portUp := true } ∧ t.clk.now = max s.clk.now due ∧ Only [.clk, .pm] s t)
  ∧ (∀ (due : Nat) (s : State), s.stageOpen = true → s.stageDue = some due → s.pm.stage = 3 →
    Answers .startupStageLate s fun t => (t.pm.failCode = 2 ∨ t.pm.failCode = 3 ∨ t.pm.failCode = 9) ∧ t.pm.lastCause = 0x04
      ∧ t.pm.portUp = true ∧ t.pm.state = .starting ∧ (t.pm.failCode = 9 → t.log.responds = false)
      ∧ (t.pm.failCode ≠ 9 → t.log = s.log) ∧ Only [.clk, .pm, .free, .log] s t)
  ∧ (∀ (due : Nat) (s : State), s.stageOpen = true → s.stageDue = some due → s.pm.stage = 4 →
    Answers .startupStageLate s fun t => (t.pm.failCode = 4 ∨ t.pm.failCode = 5 ∨ t.pm.failCode = 6 ∨ t.pm.failCode = 7)
      ∧ t.pm.lastCause = 0x04 ∧ t.pm.portUp = true ∧ t.pm.state = .starting ∧ Only [.clk, .pm, .free] s t)
  ∧ (∀ (due : Nat) (s : State), s.stageOpen = true → s.stageDue = some due → s.pm.stage = 5 →
    Answers .startupStageLate s fun t => t.pm.failCode = 0x0A ∧ t.pm.lastCause = 0x04 ∧ t.pm.portUp = true ∧ t.pm.state = .starting
      ∧ Only [.clk, .pm] s t)
  ∧ (∀ (r : StageResult) (due : Nat) (s : State), s.stageOpen = true → s.stageDue = some due → due < s.clk.now →
      exec (.startupStageComplete r) s = .next s.stageLate)
  ∧ (∀ (r : StageResult) (s : State), s.stageOpen = false →
      Answers (.startupStageComplete r) s (fun t => t = s) ∧ Answers .startupStageLate s (fun t => t = s))

/-- The wake-up timer, and a PB press of 50 ms with wake_pb set, wake a device in Standby (R48, R49; what waits below 8.2 V is the model's
choice, log entry 49); in any other state, or with the timer not armed or wake_pb clear, nothing changes (the model's choice, log entry 2).
WAKE_PATH_COMPLETE needs VIN good: with copy 0 whole, no request and no TRIPI line found, it ends in Ready with cause 0x01; with copy 0
failing its check it goes to stage 3 with PFW, TRIPO and HRST asserted; off the wake path it changes nothing (log entry 2). Once the
self-tests after a wake have passed, signed commands are no longer held; elsewhere that row changes nothing (log entry 2).
VHOLD_AND_VIN_MEASUREMENT keeps the two levels in units of 50 mV, and hold_ready compares VHOLD with its threshold (R51, R58); that the
counts and levels of detectors without a row of their own come with it, such as the pulses of the ONREQ and MR filters, VIN back above
7.5 V, short core periods, crossing overflows and symbol errors, is the model's choice (log entry 32). -/
def Obligations.WakeAndSupply : Prop :=
  (∀ (due : Nat) (s : State), s.pm.state = .standby → s.pm.wakeDue = some due →
    Answers .wakeTimerExpiry s fun t =>
      t.clk.now = max s.clk.now due ∧ WakeTaken s t ∧ t.pm.wakeDue = none ∧ Only [.clk, .pm, .log, .out] s t)
  ∧ (∀ s : State, s.pm.state ≠ .standby ∨ s.pm.wakeDue = none → Answers .wakeTimerExpiry s fun t => t = s)
  ∧ (∀ s : State, s.hearsPins = true → s.pm.state = .standby → s.ctl.pbMode = .pressed → s.wakesBy 1 = true →
    Answers .pbPressLongerThan50Ms s fun t =>
      t.clk.now = max s.clk.now (s.ctl.pbAt + aonTicks 1639) ∧ WakeTaken s t ∧ Only [.clk, .pm, .log, .out] s t)
  ∧ (∀ s : State, s.hearsPins = false ∨ s.pm.state ≠ .standby ∨ s.ctl.pbMode ≠ .pressed ∨ s.wakesBy 1 = false →
    Answers .pbPressLongerThan50Ms s fun t => t = s)
  ∧ (∀ (r : StageResult) (s : State), s.pm.state = .starting → s.pm.stage = 8 → s.pm.vinGood = true →
      s.log.stray.all (fun e => e.1 != 0) = true →
    Answers (.wakePathComplete true r) s fun t =>
      t.pm.stage = 6 ∧ t.pm.portUp = true ∧ t.pm.wakePath = false ∧ t.cfgLoaded = true ∧ t.clk.tbSet = true ∧ t.clk.corePll = true
        ∧ t.cfg = s.cfg ∧ t.sec.slots = s.sec.slots
        ∧ (s.inp.tripi = 0 → s.out.passive = false → bit (s.rawAt 0x60000) 1 = false → bit (s.rawAt 0x60000) 2 = false →
            t.pm.state = .ready ∧ t.pm.lastCause = 0x01 ∧ t.out.enpu = true))
  ∧ (∀ (copyOk : Bool) (r : StageResult) (s : State), s.pm.state = .starting → s.pm.stage = 8 → s.pm.vinGood = true →
      copyOk = false ∨ s.log.stray.all (fun e => e.1 != 0) = false →
    Answers (.wakePathComplete copyOk r) s fun t =>
      t.pm = { s.pm with stage := 3, stageEntry := s.clk.now, wakePath := false, cryptoHeld := false }
        ∧ t.out = { s.out with pfw := true, tripo := true, hrst := true } ∧ t.cfgLoaded = false ∧ t.clk.pllRefRc = !r.refLocked
        ∧ t.clk.corePll = true ∧ t.clk.now = s.clk.now ∧ t.sense = { s.sense with fltLevel := 0xFF }
        ∧ Only [.clk, .pm, .sense, .out, .cfgLoaded] s t)
  ∧ (∀ (copyOk : Bool) (r : StageResult) (s : State), s.pm.state ≠ .starting ∨ s.pm.stage ≠ 8 ∨ s.pm.vinGood = false →
    Answers (.wakePathComplete copyOk r) s fun t => t = s)
  ∧ (∀ s : State, s.pm.state.logs = true →
    Answers (.wakeSelfTestsComplete true) s fun t => t.pm = { s.pm with cryptoHeld := false } ∧ Only [.pm] s t)
  ∧ (∀ (pass : Bool) (s : State), pass = false ∨ s.pm.state.logs = false → Answers (.wakeSelfTestsComplete pass) s fun t => t = s)
  ∧ (∀ (vhold vin : Nat) (seen : Seen) (s : State), s.pm.state.logs = true ∨ s.pm.state = .starting ∧ s.pm.stage = 5 →
    Answers (.vholdAndVinMeasurement vhold vin seen) s fun t =>
      t.pm = { s.pm with
          vhold := min 1023 (vhold / 50), vin := min 1023 (vin / 50)
          holdReady := decide (fld (s.cfgAt 0x10008) 9 0 ≤ min 1023 (vhold / 50)) }
        ∧ t.ctl = { s.ctl with
            onreqShort := incBy 255 s.ctl.onreqShort seen.onreqShort, mrShort := incBy 255 s.ctl.mrShort seen.mrShort }
        ∧ (seen.gates ≠ 0 → t.clk.gateCount = incBy 255 s.clk.gateCount seen.gates ∧ bit t.irq.ck 3 = true)
        ∧ (seen.gates = 0 → t.clk.gateCount = s.clk.gateCount)
        ∧ t.clk.xingOvf = s.clk.xingOvf ||| lostPulses seen
        ∧ t.ring.linkA.symbolErr = incBy 255 s.ring.linkA.symbolErr seen.symbolsA
        ∧ t.ring.linkB.symbolErr = incBy 255 s.ring.linkB.symbolErr seen.symbolsB
        ∧ t.out = s.out ∧ t.sense = s.sense ∧ t.kiln = s.kiln ∧ t.cfg = s.cfg ∧ t.sec = s.sec ∧ t.port = s.port)
  ∧ (∀ (vhold vin : Nat) (seen : Seen) (s : State), s.pm.state.logs = false → ¬ (s.pm.state = .starting ∧ s.pm.stage = 5) →
      s.pm.state ≠ .off →
    Answers (.vholdAndVinMeasurement vhold vin seen) s fun t =>
      t.ctl = { s.ctl with
          onreqShort := incBy 255 s.ctl.onreqShort seen.onreqShort, mrShort := incBy 255 s.ctl.mrShort seen.mrShort }
        ∧ t.pm = { s.pm with vinLow := s.pm.vinLow && !seen.vinBack }
        ∧ (s.clocked = true → t.clk.xingOvf = s.clk.xingOvf ||| lostPulses seen)
        ∧ (s.clocked = true → seen.gates ≠ 0 → t.clk.gateCount = incBy 255 s.clk.gateCount seen.gates ∧ bit t.irq.ck 3 = true)
        ∧ (s.clocked = false → t.clk = s.clk ∧ t.irq = s.irq) ∧ Only [.ctl, .pm, .clk, .irq] s t)

/-- LOGIC_DIE_LOST (R23, R155) enters Coppice mode with PFW and TRIPO asserted, the latch set, an empty bisque record holding cause 0x30,
and the reduced walk of table 6 in progress. MR asserts HRST; its release starts the stretch, whose end leaves HRST to MR and the start-up
stages (R150); with wake_mr set, MR wakes a device in Standby (R48). A hold of MR for 10 s resets a device in Starting, Ready or Standby
with cause 0x41, and one in Coppice mode after its walk with cause 0x42; in Firing, Running and Cooling it resets nothing (R44, Table
02.6). Where crossing 3 holds its last levels for want of the 32.768 kHz clock (R321), or in Off, neither MR row changes anything. -/
def Obligations.CoppiceAndMr : Prop :=
  (∀ s : State, s.pm.logicPowered = true → s.pm.state ≠ .off → s.pm.state ≠ .coppice → s.pm.state ≠ .standby →
    Answers .logicDieLost s fun t =>
      t.pm.state = .coppice ∧ t.pm.lastCause = 0x43 ∧ t.pm.faultLatch = true ∧ t.pm.onPending = none
        ∧ t.out.pfw = true ∧ t.out.tripo = true ∧ t.out.en = s.out.en ∧ t.pwm.pads = false
        ∧ t.walk.active = true ∧ t.walk.reduced = true ∧ t.walk.table = 6 ∧ t.walk.entries = s.tableEntries 6
        ∧ (∀ k, (nth t.kiln.engines k {}).st ≠ .running ∧ (nth t.kiln.engines k {}).st ≠ .waiting)
        ∧ (s.fault.bisque.filled = false → t.fault.bisque.filled = true ∧ t.fault.bisque.cause = 0x30)
        ∧ (s.fault.bisque.filled = true → t.fault.bisque = s.fault.bisque)
        ∧ SameStores s t)
  ∧ (∀ s : State, s.hearsPins = true → (s.pm.state = .standby → s.wakesBy 2 = false) →
    Answers .mrAssert s fun t =>
      t.inp = { s.inp with mr := true } ∧ t.out = { s.out with hrst := true }
        ∧ t.ctl = { s.ctl with mrSince := some (s.ctl.mrSince.getD s.clk.now), hrstDue := none }
        ∧ Only [.inp, .out, .ctl] s t)
  ∧ (∀ s : State, s.hearsPins = true → s.pm.state = .standby → s.wakesBy 2 = true →
    Answers .mrAssert s fun t =>
      t.inp = { s.inp with mr := true } ∧ t.out = { s.out with hrst := true, pfw := t.out.pfw, tripo := t.out.tripo } ∧ WakeTaken s t
        ∧ t.ctl = { s.ctl with mrSince := some (s.ctl.mrSince.getD s.clk.now), hrstDue := none }
        ∧ Only [.inp, .out, .ctl, .clk, .pm, .log] s t)
  ∧ (∀ s : State, s.hearsPins = false →
      Answers .mrAssert s (fun t => t = s) ∧ Answers .mrRelease s (fun t => t = s))
  ∧ (∀ s : State, s.hearsPins = true → s.inp.mr = true →
    Answers .mrRelease s fun t =>
      t.inp = { s.inp with mr := false } ∧ t.out = { s.out with hrst := true }
        ∧ t.ctl = { s.ctl with mrSince := none, hrstDue := some (s.clk.now + aonTicks hrstPeriods) } ∧ Only [.inp, .out, .ctl] s t)
  ∧ (∀ (due : Nat) (s : State), s.ctl.hrstDue = some due →
    Answers .hrstStretchEnd s fun t =>
      t.clk.now = max s.clk.now due ∧ t.ctl = { s.ctl with hrstDue := none }
        ∧ t.out = { s.out with hrst := s.inp.mr || (s.pm.state == .starting && decide (s.pm.stage ≤ 5)) }
        ∧ Only [.clk, .ctl, .out] s t)
  ∧ (∀ (since : Nat) (s : State), s.ctl.mrSince = some since →
      (s.pm.state = .starting ∨ s.pm.state = .ready ∨ s.pm.state = .standby) →
    Answers .mrHoldReset s fun t =>
      t.clk.now = max s.clk.now (since + 10 * secondTicks) ∧ t.pm.state = .starting ∧ t.pm.stage = 1 ∧ t.pm.lastCause = 0x41
        ∧ t.pm.resetCause = s.pm.resetCause ||| 8 ∧ OutputsOff t ∧ t.port.cmds = [] ∧ t.cfg = s.cfg ∧ t.sec.slots = s.sec.slots
        ∧ t.kiln.store = s.kiln.store ∧ t.fault.first = s.fault.first ∧ t.pending = s.pending)
  ∧ (∀ (since : Nat) (s : State), s.ctl.mrSince = some since → s.pm.state = .coppice → s.walk.active = false →
    Answers .mrHoldReset s fun t =>
      t.pm.state = .starting ∧ t.pm.stage = 1 ∧ t.pm.lastCause = 0x42 ∧ t.pm.resetCause = s.pm.resetCause ||| 0x18 ∧ OutputsOff t)
  ∧ (∀ (since : Nat) (s : State), s.ctl.mrSince = some since →
      (s.pm.state = .firing ∨ s.pm.state = .running ∨ s.pm.state = .cooling ∨ s.pm.state = .coppice ∧ s.walk.active = true) →
    Answers .mrHoldReset s fun t => t.pm = s.pm ∧ t.ctl = { s.ctl with mrSince := none } ∧ Only [.clk, .ctl] s t)

/-- ONREQ_RISE with onreq_en set and no other on request in the same tick (R147, R148, Table 05.8): in Ready with nothing in its way it
starts firing with cause 0x10; with the fault latch set it is counted as ignored; in Ready or Cooling otherwise it is left pending, or
discarded where discard_pending is set, and a handover between SYNC and COMMIT holds it. One that joins another on request of its tick starts
nothing. In Standby it wakes the device where wake_onreq is set (R48), whatever onreq_en is (the model's choice, log entry 30), and below
8.2 V the wake waits (the model's choice, log entry 49). ONREQ_FALL in Firing or Running is an off request: PFW, the grace and
table 0, while TRIPO and the latch stay as they are; in Ready and Cooling, outside a handover, it removes a pending on request. With onreq_en
clear only the level is taken, and in Off or where crossing 3 holds its last levels (R321) nothing changes. -/
def Obligations.OnreqRequests : Prop :=
  (∀ s : State, s.hearsPins = true → s.inp.onreq = false → s.onreqEn = true → s.onJoins = none → s.mayFire = true →
      s.twin.hand.holds = false →
    Answers .onreqRise s fun t => t.inp = { s.inp with onreq := true } ∧ FiresBy 0x10 s t
      ∧ t.ctl = { s.ctl with lastOn := some (s.clk.now, 0x10) } ∧ (s.twin.state ≠ .co → t.ring = s.ring ∧ t.twin = s.twin)
      ∧ Only [.inp, .ctl, .pm, .log, .kiln, .clk, .mg, .ring, .twin] s t)
  ∧ (∀ s : State, s.hearsPins = true → s.inp.onreq = false → s.onreqEn = true → s.onJoins = none →
      (s.pm.state = .ready ∨ s.pm.state = .cooling) → s.pm.faultLatch = true →
    Answers .onreqRise s fun t => t.inp = { s.inp with onreq := true }
      ∧ t.ctl = { s.ctl with ignoredOn := inc 255 s.ctl.ignoredOn, lastOn := some (s.clk.now, 0x10) }
      ∧ (s.twin.state ≠ .co → t.ring = s.ring ∧ t.twin = s.twin) ∧ Only [.inp, .ctl, .ring, .twin] s t)
  ∧ (∀ s : State, s.hearsPins = true → s.inp.onreq = false → s.onreqEn = true → s.onJoins = none →
      (s.pm.state = .ready ∨ s.pm.state = .cooling) → s.pm.faultLatch = false → s.mayFire = false → s.twin.hand.holds = false →
    Answers .onreqRise s fun t => t.inp = { s.inp with onreq := true }
      ∧ t.pm = (if s.discardPending then s.pm else { s.pm with onPending := some 0x10 })
      ∧ (s.twin.state ≠ .co → t.ring = s.ring ∧ t.twin = s.twin) ∧ Only [.inp, .ctl, .pm, .ring, .twin] s t)
  ∧ (∀ s : State, s.hearsPins = true → s.inp.onreq = false → s.onreqEn = true → s.onJoins = none →
      (s.pm.state = .ready ∨ s.pm.state = .cooling) → s.pm.faultLatch = false → s.twin.hand.holds = true →
    Answers .onreqRise s fun t => t.inp = { s.inp with onreq := true } ∧ t.twin.heldOn = s.twin.heldOn ++ [0x10] ∧ t.pm = s.pm
      ∧ Only [.inp, .ctl, .ring, .twin] s t)
  ∧ (∀ (c : Byte) (s : State), s.hearsPins = true → s.inp.onreq = false → s.onreqEn = true → s.pm.state.logs = true →
      s.onJoins = some c →
    Answers .onreqRise s fun t => t.inp = { s.inp with onreq := true } ∧ t.pm.state = s.pm.state ∧ t.out = s.out ∧ t.kiln = s.kiln
      ∧ Only [.inp, .ctl, .twin, .pm, .log] s t)
  ∧ (∀ s : State, s.hearsPins = true → s.inp.onreq = false → s.pm.state = .standby → s.wakesBy 0 = true →
    Answers .onreqRise s fun t => t.inp = { s.inp with onreq := true } ∧ WakeTaken s t ∧ Only [.inp, .clk, .pm, .log, .out] s t)
  ∧ (∀ s : State, s.hearsPins = true → s.inp.onreq = true → s.onreqEn = true → (s.pm.state = .firing ∨ s.pm.state = .running) →
    Answers .onreqFall s fun t =>
      t.inp = { s.inp with onreq := false } ∧ Shutdown t 0 ∧ t.pm.lastCause = 0x20 ∧ t.walk.grace = true ∧ t.out.en = s.out.en
        ∧ t.out.tripo = s.out.tripo ∧ t.pm.faultLatch = s.pm.faultLatch ∧ t.fault.first = s.fault.first ∧ SameStores s t)
  ∧ (∀ s : State, s.hearsPins = true → s.inp.onreq = true → s.onreqEn = true → (s.pm.state = .ready ∨ s.pm.state = .cooling) →
      s.twin.hand = .none →
    Answers .onreqFall s fun t =>
      t.inp = { s.inp with onreq := false } ∧ t.pm = { s.pm with onPending := none } ∧ t.twin.heldOn = []
        ∧ (s.twin.state ≠ .co → t.ring = s.ring ∧ t.twin = { s.twin with heldOn := [] })
        ∧ t.ctl = { s.ctl with lastOn := none } ∧ Only [.inp, .pm, .twin, .ctl, .ring] s t)
  ∧ (∀ s : State, s.hearsPins = true → s.pm.state ≠ .standby → s.onreqEn = false →
    (s.inp.onreq = false → Answers .onreqRise s fun t => t.inp = { s.inp with onreq := true } ∧ Only [.inp] s t)
      ∧ (s.inp.onreq = true → Answers .onreqFall s fun t => t.inp = { s.inp with onreq := false } ∧ Only [.inp] s t))
  ∧ (∀ s : State, s.hearsPins = false →
      Answers .onreqRise s (fun t => t = s) ∧ Answers .onreqFall s (fun t => t = s))

/-- The PB detector (R151, R152), in every state but Off and while its clock runs (R321). PB_PRESS begins a press, and in lockout only
starts the release count again. A press of fewer than 1,639 periods only counts; one of at least 1,639 and fewer than 131,072 is an on
request in Ready and an off request in Firing and Running where pb_short_en is 1, and else counts as between, as do longer ones that end
before the long press. In Ready and Cooling the on request is ignored and counted under the latch (R19), held by a handover between SYNC and
COMMIT (R273), and where the machine may not start it is left pending, or discarded where discard_pending is set (R20). A long press is a
force-off (Table 05.10): in Ready, Firing and Running the latch, PFW, TRIPO and table 7 at once; in Cooling (Table 05.6) PFW and TRIPO with
a switch to C7, the walk of C7 going on with the force-off queued, and an H table walked on, or begun if its grace ran, with the force-off
queued; in Standby and Starting it is held with the latch set and PFW and TRIPO asserted; in Coppice mode only the bisque record, where it
is empty, takes it. The lockout ends 1 s after the last press or release told in it, and not while PB is pressed; that a release in lockout
is told by OWNERSHIP_WINDOW_CLOSE is the model's choice (log entry 32), and that the lockout's end changes nothing where there is none (log
entry 2). -/
def Obligations.PbPresses : Prop :=
  (∀ s : State, s.hearsPins = true → s.ctl.pbMode = .idle →
    Answers .pbPress s fun t =>
      t.ctl = { s.ctl with pbMode := .pressed, pbHeld := 1, pbAt := s.clk.now } ∧ t.inp = { s.inp with pb := true }
        ∧ Only [.ctl, .inp] s t)
  ∧ (∀ s : State, s.hearsPins = true → s.ctl.pbMode = .lockout →
    Answers .pbPress s fun t =>
      t.ctl = { s.ctl with pbAt := s.clk.now } ∧ t.inp = { s.inp with pb := true } ∧ Only [.ctl, .inp] s t)
  ∧ (∀ (held : Nat) (s : State), s.hearsPins = true → s.ctl.pbMode = .pressed → 0 < held → held < 1639 → held < s.longPeriods →
    Answers (.pbShortPress held) s fun t =>
      t.clk.now = max s.clk.now (s.ctl.pbAt + aonTicks (held + 655)) ∧ t.ctl.pbMode = .idle ∧ t.inp = { s.inp with pb := false }
        ∧ t.ctl.pbShort = inc 255 s.ctl.pbShort ∧ t.ctl.pbBetween = s.ctl.pbBetween ∧ Only [.clk, .ctl, .inp] s t)
  ∧ (∀ (held : Nat) (s : State), s.hearsPins = true → s.ctl.pbMode = .pressed → 131072 ≤ held → held < s.longPeriods →
    Answers (.pbShortPress held) s fun t =>
      t.ctl.pbMode = .idle ∧ t.ctl.pbBetween = inc 255 s.ctl.pbBetween ∧ t.ctl.pbShort = s.ctl.pbShort ∧ Only [.clk, .ctl, .inp] s t)
  ∧ (∀ (held : Nat) (s : State), s.hearsPins = true → s.ctl.pbMode = .pressed → 1639 ≤ held → held < 131072 → s.pbShortEn = false →
    Answers (.pbShortPress held) s fun t =>
      t.ctl.pbMode = .idle ∧ t.ctl.pbBetween = inc 255 s.ctl.pbBetween ∧ Only [.clk, .ctl, .inp] s t)
  ∧ (∀ (held : Nat) (s : State), s.hearsPins = true → s.ctl.pbMode = .pressed → 1639 ≤ held → held < 131072 → s.pbShortEn = true →
      s.mayFire = true → s.twin.hand.holds = false → (s.till (s.ctl.pbAt + aonTicks (held + 655))).onJoins = none →
    Answers (.pbShortPress held) s fun t =>
      t.ctl.pbMode = .idle ∧ t.inp = { s.inp with pb := false } ∧ (SomeEngine s → t.pm.state = .firing ∧ t.pm.lastCause = 0x11)
        ∧ (¬ SomeEngine s → t.pm.state = .running))
  ∧ (∀ (held : Nat) (s : State), s.hearsPins = true → s.ctl.pbMode = .pressed → 1639 ≤ held → held < 131072 → s.pbShortEn = true →
      (s.pm.state = .ready ∨ s.pm.state = .cooling) → s.pm.faultLatch = true →
      (s.till (s.ctl.pbAt + aonTicks (held + 655))).onJoins = none →
    Answers (.pbShortPress held) s fun t =>
      t.ctl.pbMode = .idle ∧ t.inp = { s.inp with pb := false } ∧ t.ctl.ignoredOn = inc 255 s.ctl.ignoredOn
        ∧ (s.twin.state ≠ .co → t.ring = s.ring ∧ t.twin = s.twin) ∧ Only [.clk, .ctl, .inp, .ring, .twin] s t)
  ∧ (∀ (held : Nat) (s : State), s.hearsPins = true → s.ctl.pbMode = .pressed → 1639 ≤ held → held < 131072 → s.pbShortEn = true →
      (s.pm.state = .ready ∨ s.pm.state = .cooling) → s.pm.faultLatch = false → s.twin.hand.holds = true →
      (s.till (s.ctl.pbAt + aonTicks (held + 655))).onJoins = none →
    Answers (.pbShortPress held) s fun t =>
      t.ctl.pbMode = .idle ∧ t.inp = { s.inp with pb := false } ∧ t.twin.heldOn = s.twin.heldOn ++ [0x11]
        ∧ Only [.clk, .ctl, .inp, .ring, .twin] s t)
  ∧ (∀ (held : Nat) (s : State), s.hearsPins = true → s.ctl.pbMode = .pressed → 1639 ≤ held → held < 131072 → s.pbShortEn = true →
      (s.pm.state = .ready ∨ s.pm.state = .cooling) → s.pm.faultLatch = false → s.mayFire = false → s.twin.hand.holds = false →
      (s.till (s.ctl.pbAt + aonTicks (held + 655))).onJoins = none →
    Answers (.pbShortPress held) s fun t =>
      t.ctl.pbMode = .idle ∧ t.inp = { s.inp with pb := false }
        ∧ t.pm = (if s.discardPending then s.pm else { s.pm with onPending := some 0x11 })
        ∧ (s.twin.state ≠ .co → t.ring = s.ring ∧ t.twin = s.twin) ∧ Only [.clk, .ctl, .inp, .pm, .ring, .twin] s t)
  ∧ (∀ (held : Nat) (s : State), s.hearsPins = true → s.ctl.pbMode = .pressed → 1639 ≤ held → held < 131072 → s.pbShortEn = true →
      (s.pm.state = .firing ∨ s.pm.state = .running) → (s.till (s.ctl.pbAt + aonTicks (held + 655))).onJoins = none →
    Answers (.pbShortPress held) s fun t =>
      t.ctl.pbMode = .idle ∧ t.inp = { s.inp with pb := false } ∧ Shutdown t 0 ∧ t.pm.lastCause = 0x21 ∧ t.out.en = s.out.en
        ∧ SameStores s t)
  ∧ (∀ s : State, s.hearsPins = true → s.ctl.pbMode = .pressed → (s.pm.state = .ready ∨ s.pm.state = .firing ∨ s.pm.state = .running) →
    Answers .pbLongPress s fun t =>
      t.clk.now = max s.clk.now (s.ctl.pbAt + aonTicks (s.longPeriods - 1)) ∧ t.ctl.pbMode = .lockout
        ∧ t.ctl.forceOffs = inc 255 s.ctl.forceOffs ∧ Shutdown t 7 ∧ t.walk.grace = false ∧ t.pm.lastCause = 0x28
        ∧ t.pm.faultLatch = true ∧ t.pm.onPending = none ∧ t.out.tripo = true ∧ t.out.en = s.out.en ∧ SameStores s t)
  ∧ (∀ s : State, s.hearsPins = true → s.ctl.pbMode = .pressed → s.pm.state = .cooling → s.isHTable s.walk.table = false →
      s.walk.table ≠ 7 →
    Answers .pbLongPress s fun t =>
      t.ctl.pbMode = .lockout ∧ t.ctl.forceOffs = inc 255 s.ctl.forceOffs ∧ Switched 7 forceOffRec s t ∧ t.out.pfw = true
        ∧ t.fault.first = some (s.fault.first.getD (forceOffRec, t.clk.stamp)) ∧ t.pm.lastCause = s.pm.lastCause ∧ t.out.en = s.out.en
        ∧ SameStores s t)
  ∧ (∀ s : State, s.hearsPins = true → s.ctl.pbMode = .pressed → s.pm.state = .cooling → s.isHTable s.walk.table = false →
      s.walk.table = 7 →
    Answers .pbLongPress s fun t =>
      t.ctl.pbMode = .lockout ∧ t.ctl.forceOffs = inc 255 s.ctl.forceOffs ∧ Queued forceOffRec s t
        ∧ t.out = { s.out with pfw := true, tripo := true } ∧ t.walk = { s.walk with tripDue := none } ∧ t.pm.state = .cooling
        ∧ SameStores s t)
  ∧ (∀ s : State, s.hearsPins = true → s.ctl.pbMode = .pressed → s.pm.state = .cooling → s.isHTable s.walk.table = true →
    Answers .pbLongPress s fun t =>
      t.ctl.pbMode = .lockout ∧ t.ctl.forceOffs = inc 255 s.ctl.forceOffs ∧ Queued forceOffRec s t ∧ t.pm.state = .cooling
        ∧ t.walk.table = s.walk.table ∧ t.walk.entries = s.walk.entries ∧ t.out.en = s.out.en ∧ t.out.pfw = s.out.pfw
        ∧ (s.walk.grace = true → t.out.tripo = true ∧ t.walk.grace = false ∧ t.walk.prev = t.clk.now ∧ t.walk.tripDue = none)
        ∧ (s.walk.grace = false → t.out = s.out ∧ t.walk = s.walk) ∧ SameStores s t)
  ∧ (∀ s : State, s.hearsPins = true → s.ctl.pbMode = .pressed → (s.pm.state = .standby ∨ s.pm.state = .starting) →
    Answers .pbLongPress s fun t =>
      t.ctl.pbMode = .lockout ∧ t.pm.state = s.pm.state ∧ t.pm.faultLatch = true ∧ t.out.pfw = true ∧ t.out.tripo = true
        ∧ t.pm.held.any (fun h => h.what.cause == 0x28) = true ∧ t.out.en = s.out.en ∧ SameStores s t)
  ∧ (∀ s : State, s.hearsPins = true → s.ctl.pbMode = .pressed → s.pm.state = .coppice →
    Answers .pbLongPress s fun t => t.ctl.pbMode = .lockout ∧ t.ctl.forceOffs = inc 255 s.ctl.forceOffs
      ∧ (s.fault.bisque.filled = false → t.fault.bisque.filled = true ∧ t.fault.bisque.cause = 0x28)
      ∧ (s.fault.bisque.filled = true → t.fault = s.fault) ∧ Only [.clk, .ctl, .inp, .fault] s t)
  ∧ (∀ s : State, s.hearsPins = true → s.ctl.pbMode = .lockout → s.inp.pb = false →
    Answers .pbLockoutEnd s fun t =>
      t.clk.now = max s.clk.now (s.ctl.pbAt + aonTicks 32768) ∧ t.ctl.pbMode = .idle ∧ t.inp = s.inp ∧ Only [.clk, .ctl] s t)
  ∧ (∀ s : State, s.ctl.pbMode ≠ .lockout ∨ s.inp.pb = true → Answers .pbLockoutEnd s fun t => t = s)
  ∧ (∀ (held : Nat) (s : State), s.hearsPins = false →
      Answers .pbPress s (fun t => t = s) ∧ Answers (.pbShortPress held) s (fun t => t = s) ∧ Answers .pbLongPress s (fun t => t = s)
        ∧ Answers .pbLockoutEnd s (fun t => t = s))

/-- T_OFFMIN's end lets a pending on request fire where nothing else holds it (R20); the ownership window closes at its due tick, or with
PB's release in lockout (R235), which this row tells (log entry 32). The levels of TRIPI and of the die sensors are taken in every state but
Off; in Ready, Firing and Running a line or sensor newly asserted whose configured grade is T or H starts a shutdown with the latch set
(R132, R337), and a line that was asserted before is no new assertion; that TRIPI_ASSERT acts in the tick of its row is the model's choice
(log entry 55). In Starting, with the logic die powered, such a line is received and held: latch, PFW and TRIPO, no change of state (R369);
that a repeat of one that is held counts nowhere, and that it holds table 0 before the configuration load, are the model's choices (log
entry 61); in Cooling it enters the fault queue, or under a table that is not hard a grade H one switches the walk to its own (R144, R145).
-/
def Obligations.HeldRequestsAndPins : Prop :=
  (∀ (due : Nat) (s : State), s.pm.offMinDue = some due → s.pm.onPending = none →
    Answers .tOffminElapsed s fun t =>
      t.clk.now = max s.clk.now due ∧ t.pm = { s.pm with offMinDue := none } ∧ Only [.clk, .pm] s t)
  ∧ (∀ (due : Nat) (c : Byte) (s : State), s.pm.offMinDue = some due → s.pm.onPending = some c → s.pm.state = .ready →
      s.pm.faultLatch = false → s.pm.resetDue = none → s.out.passive = false → s.twin.hand.holds = false →
    Answers .tOffminElapsed s fun t =>
      (SomeEngine s → t.pm.state = .firing ∧ t.pm.lastCause = c) ∧ (¬ SomeEngine s → t.pm.state = .running) ∧ t.pm.onPending = none
        ∧ t.pm.offMinDue = none ∧ Only [.pm, .log, .kiln, .clk, .mg] s t)
  ∧ (∀ (due : Nat) (s : State), s.sec.windowDue = some due →
    Answers (.ownershipWindowClose false) s fun t =>
      t.clk.now = max s.clk.now due ∧ t.sec = { s.sec with windowDue := none } ∧ Only [.clk, .sec] s t)
  ∧ (∀ s : State, s.inp.pb = true → s.ctl.pbMode = .lockout →
    Answers (.ownershipWindowClose true) s fun t =>
      t.sec = { s.sec with windowDue := none } ∧ t.inp = { s.inp with pb := false }
        ∧ t.ctl = { s.ctl with pbHeld := 0, pbAt := s.clk.now, pbSinceStage1 := false } ∧ Only [.sec, .ctl, .inp] s t)
  ∧ (∀ (levels : BitVec 4) (s : State), s.pm.state ≠ .off →
    Answers (.tripiAssert levels) s fun t => t.inp = { s.inp with tripi := levels } ∧ t.cfg = s.cfg ∧ t.sec.slots = s.sec.slots)
  ∧ (∀ (levels : BitVec 4) (s : State), s.pm.state.logs = true → levels &&& ~~~s.inp.tripi = 0 →
    Answers (.tripiAssert levels) s fun t => t.inp = { s.inp with tripi := levels } ∧ Only [.inp] s t)
  ∧ (∀ (levels : BitVec 4) (s : State), (s.pm.state = .ready ∨ s.pm.state = .firing ∨ s.pm.state = .running) →
      levels &&& ~~~s.inp.tripi ≠ 0 → 2 ≤ fld (s.causeCfg 1) 5 4 →
    Answers (.tripiAssert levels) s fun t =>
      t.pm.state = .cooling ∧ t.pm.faultLatch = true ∧ t.out.pfw = true ∧ t.walk.active = true
        ∧ t.pwm.tripiSeen = s.pwm.tripiSeen ||| (levels &&& ~~~s.inp.tripi) ∧ SameStores s t)
  ∧ (∀ (i : BitVec 2) (s : State), s.pm.state = .starting → s.pm.logicPowered = true → bit s.inp.tripi i.toNat = false →
      2 ≤ fld (s.causeCfg 1) 5 4 →
    Answers (.tripiAssert (s.inp.tripi ||| one 4 i.toNat)) s fun t =>
      t.pm.state = .starting ∧ t.pm.stage = s.pm.stage ∧ t.pm.faultLatch = true ∧ t.out.pfw = true ∧ t.out.tripo = true
        ∧ HoldsFault (s.pinFault 1 i.toNat) (s.tableOf (s.pinFault 1 i.toNat)) s s t
        ∧ t.fault.queue = s.fault.queue ∧ t.out.en = s.out.en ∧ SameStores s t)
  ∧ (∀ (i : BitVec 2) (s : State), s.pm.state = .cooling → bit s.inp.tripi i.toNat = false → fld (s.causeCfg 1) 5 4 = 2 →
    Answers (.tripiAssert (s.inp.tripi ||| one 4 i.toNat)) s fun t =>
      Queued (s.pinFault 1 i.toNat) s t ∧ t.pm.state = .cooling ∧ t.out = s.out
        ∧ t.walk = { s.walk with
            tripDue := if s.out.tripo || s.walk.tripDue.isSome then s.walk.tripDue else some (s.clk.now + s.tripTicks) }
        ∧ SameStores s t)
  ∧ (∀ (i : BitVec 2) (s : State), s.pm.state = .cooling → bit s.inp.tripi i.toNat = false → fld (s.causeCfg 1) 5 4 = 3 →
      s.isHTable s.walk.table = false →
    Answers (.tripiAssert (s.inp.tripi ||| one 4 i.toNat)) s fun t =>
      Switched (s.tableOf (s.pinFault 1 i.toNat)) (s.pinFault 1 i.toNat) s t ∧ t.out = { s.out with tripo := true } ∧ SameStores s t)
  ∧ (∀ (sensors : BitVec 4) (s : State), s.pm.state ≠ .off →
    Answers (.dieOverTemperature sensors) s fun t => t.inp = { s.inp with overTemp := sensors } ∧ t.cfg = s.cfg ∧ t.sec.slots = s.sec.slots)
  ∧ (∀ (sensors : BitVec 4) (s : State), (s.pm.state = .ready ∨ s.pm.state = .firing ∨ s.pm.state = .running) →
      sensors &&& ~~~s.inp.overTemp ≠ 0 → 2 ≤ fld (s.causeCfg 2) 5 4 →
    Answers (.dieOverTemperature sensors) s fun t =>
      t.pm.state = .cooling ∧ t.pm.faultLatch = true ∧ t.out.pfw = true ∧ t.walk.active = true ∧ SameStores s t)

/-- The grace delay ends in the walk of the table, with TRIPO asserted by then where a trip delay due in it is running; the trip delay
asserts TRIPO alone (R130). An entry of the cooling table that has come due releases EN of its rail and no other, or begins its wait; a wait
ends by a reading below the level or at its maximum; the sweep releases every EN output still asserted (R139). While an entry waits, a
conversion of its input is demanded 100 µs after it came due or was last demanded (R140). With every EN output released already, and no
pending request or reset, the sweep ends Cooling in the tick after it: Ready with cause 0x38, T_OFFMIN running, and PFW released where the
fault latch is clear (R146). The reduced walker of Coppice mode acts on its entries as the walker does, and its sweep ends it with every EN
output released and every trim output at high impedance (R155). A grade T change that has persisted leaves the watch list and, with no table
walked, starts a grade T shutdown (R134); a fault queue pop removes the head of the queue and nothing else (R145). -/
def Obligations.CoolingAndQueue : Prop :=
  (∀ (due : Nat) (s : State), s.pm.state = .cooling → s.walk.graceDue = some due →
    Answers .graceDelayExpiry s fun t =>
      t.clk.now = max s.clk.now due ∧ t.walk.grace = false ∧ t.walk.graceDue = none ∧ t.walk.table = s.walk.table
        ∧ t.walk.active = s.walk.active
        ∧ (∀ d, s.walk.tripDue = some d → d ≤ t.clk.now → t.out.tripo = true ∧ t.walk.tripDue = none)
        ∧ (s.walk.tripDue = none → t.out = s.out)
        ∧ t.out.en = s.out.en ∧ t.out.pfw = s.out.pfw ∧ Only [.clk, .out, .walk, .irq, .mg, .pwm] s t)
  ∧ (∀ (due : Nat) (s : State), s.walk.tripDue = some due →
    Answers .tripDelayExpiry s fun t =>
      t.clk.now = max s.clk.now due ∧ t.out = { s.out with tripo := true } ∧ t.walk = { s.walk with tripDue := none }
        ∧ Only [.clk, .out, .walk, .irq, .pwm] s t)
  ∧ (∀ (due : Nat) (x : Step64) (s : State), s.pm.state = .cooling → s.walk.waiting = false → s.walk.due = some due →
      s.walk.entries[s.walk.entry]? = some x → entWait x = true →
    Answers .coolingEntryDue s fun t =>
      t.clk.now = max s.clk.now due ∧ t.walk = { s.walk with waiting := true, waitEnd := due + entMaxWait x, demandFrom := due }
        ∧ Only [.clk, .walk] s t)
  ∧ (∀ (due : Nat) (x : Step64) (s : State), s.pm.state = .cooling → s.walk.waiting = false → s.walk.due = some due →
      s.walk.entries[s.walk.entry]? = some x → entWait x = false →
    Answers .coolingEntryDue s fun t =>
      t.clk.now = max s.clk.now due ∧ t.out.en = (if entAction x = 0 then s.out.en else s.out.en &&& ~~~ one 64 (entRail x))
        ∧ t.cfg = s.cfg ∧ t.sec.slots = s.sec.slots ∧ t.kiln.store = s.kiln.store ∧ t.fault.tables = s.fault.tables)
  ∧ (∀ (due : Nat) (x : Step64) (s : State), s.pm.state = .cooling → s.walk.waiting = true → s.walk.due = some due →
      s.walk.entries[s.walk.entry]? = some x → s.waitMet x due = true → s.clk.now ≤ s.walk.waitEnd →
    Answers .waitBelowMet s fun t =>
      t.clk.now = s.clk.now ∧ t.out.en = (if entAction x = 0 then s.out.en else s.out.en &&& ~~~ one 64 (entRail x))
        ∧ t.cfg = s.cfg ∧ t.sec.slots = s.sec.slots ∧ t.kiln.store = s.kiln.store)
  ∧ (∀ (x : Step64) (s : State), s.pm.state = .cooling → s.walk.waiting = true → s.walk.entries[s.walk.entry]? = some x →
    Answers .waitBelowTimeout s fun t =>
      t.clk.now = max s.clk.now s.walk.waitEnd
        ∧ t.out.en = (if entAction x = 0 then s.out.en else s.out.en &&& ~~~ one 64 (entRail x))
        ∧ t.cfg = s.cfg ∧ t.sec.slots = s.sec.slots ∧ t.kiln.store = s.kiln.store)
  ∧ (∀ (x : Step64) (s : State), s.unitsOk = true → s.walk.active = true → s.walk.waiting = true →
      s.walk.entries[s.walk.entry]? = some x →
    Answers .walkerConversionDemand s fun t =>
      t.clk.now = max s.clk.now (s.walk.demandFrom + 100 * usTicks) ∧ t.walk = { s.walk with demandFrom := t.clk.now }
        ∧ Asked (entInput x) (if s.walk.reduced then .saggar else .walker) t ∧ Only [.clk, .walk, .sense] s t)
  ∧ (∀ (due : Nat) (s : State), s.pm.state = .cooling → s.walk.sweepDue = some due →
    Answers .coolingSweep s fun t => t.out.en = 0 ∧ t.cfg = s.cfg ∧ t.sec.slots = s.sec.slots ∧ t.kiln.store = s.kiln.store)
  ∧ (∀ (due : Nat) (s : State), s.pm.state = .cooling → s.walk.sweepDue = some due → s.walk.due = none → s.out.en = 0 →
      s.pm.onPending = none → s.pm.resetDue = none →
    Answers .coolingSweep s fun t =>
      t.clk.now = max s.clk.now due + 1 ∧ t.pm.state = .ready ∧ t.pm.lastCause = 0x38 ∧ t.walk.active = false ∧ t.walk.entry = 64
        ∧ t.pm.offMinDue = (if fld (s.cfgAt 0x6000C) 15 0 = 0 then none else some (t.clk.now + fld (s.cfgAt 0x6000C) 15 0 * msTicks))
        ∧ t.out = { s.out with pfw := s.pm.faultLatch && s.out.pfw } ∧ t.pm.faultLatch = s.pm.faultLatch
        ∧ Only [.clk, .pm, .walk, .out, .log, .irq] s t)
  ∧ (∀ (due : Nat) (s : State), s.pm.state = .coppice → s.walk.reduced = true → s.walk.active = true → s.walk.sweepDue = some due →
    Answers .reducedWalkEntry s fun t =>
      t.clk.now = max s.clk.now due ∧ t.pm.state = .coppice ∧ t.out.en = 0 ∧ t.walk.active = false ∧ t.walk.reducedDone = true
        ∧ (∀ n, (t.trim n).level = 6) ∧ t.cfg = s.cfg ∧ t.sec.slots = s.sec.slots)
  ∧ (∀ (due : Nat) (x : Step64) (s : State), s.pm.state = .coppice → s.walk.reduced = true → s.walk.active = true →
      s.walk.sweepDue = none → s.walk.due = some due → s.walk.entries[s.walk.entry]? = some x → s.walk.waiting = false →
    Answers .reducedWalkEntry s fun t =>
      t.clk.now = max s.clk.now due ∧ t.pm.state = .coppice
        ∧ (entWait x = true → t.out = s.out ∧ t.walk.waiting = true ∧ t.walk.waitEnd = due + entMaxWait x)
        ∧ (entWait x = false → t.out.en = (if entAction x = 0 then s.out.en else s.out.en &&& ~~~ one 64 (entRail x))))
  ∧ (∀ (due : Nat) (x : Step64) (s : State), s.pm.state = .coppice → s.walk.reduced = true → s.walk.active = true →
      s.walk.sweepDue = none → s.walk.due = some due → s.walk.entries[s.walk.entry]? = some x → s.walk.waiting = true →
    Answers .reducedWalkEntry s fun t =>
      t.pm.state = .coppice ∧ t.out.en = (if entAction x = 0 then s.out.en else s.out.en &&& ~~~ one 64 (entRail x))
        ∧ (¬ (s.waitMet x due = true ∧ s.clk.now ≤ s.walk.waitEnd) → t.clk.now = max s.clk.now s.walk.waitEnd))
  ∧ (∀ (src : BitVec 8) (w : Nat × Nat × Nat) (s : State),
      s.fault.persist.find? (fun p => p.1 == src.toNat) = some w → (s.pm.state = .ready ∨ s.pm.state = .firing ∨ s.pm.state = .running) →
    Answers (.gradeTPersistExpiry src) s fun t =>
      t.clk.now = max s.clk.now w.2.2 ∧ t.fault.persist = s.fault.persist.filter (fun q => q != w)
        ∧ Shutdown t (s.tableOf (persistFault w.1 w.2.1 2)) ∧ t.walk.grace = true ∧ t.pm.lastCause = 0x31 ∧ t.pm.faultLatch = true
        ∧ t.out.tripo = s.out.tripo ∧ t.out.en = s.out.en ∧ SameStores s t
        ∧ (s.fault.first = none → ∃ n, t.fault.first = some (persistFault w.1 w.2.1 2, n)))
  ∧ (∀ s : State, s.pm.state.logs = true →
    Answers .fqPop s fun t => t.fault = { s.fault with queue := s.fault.queue.drop 1 } ∧ Only [.fault] s t)

/-- A crossing of a comparator that is evaluated and not under test sets its decision and status, and its delivered output unless an
override holds it; a failed comparator keeps its status and output; no other comparator changes (R41, R70). An armed comparator's assertion
of grade T (without persistence) or grade H in Ready, Firing or Running starts a shutdown under the table CT_RAILSEL names, with the latch,
PFW, and TRIPO at once for grade H (R132, R134). In Cooling (Table 05.6) one of grade T is queued, with TRIPO after the trip delay; one of
grade H asserts TRIPO and switches the walk to its own table, begins an H table whose grace ran, or is queued while an H table is walked
(R143 to R145). In Standby it sets the latch, asserts PFW and TRIPO, is held, and wakes the device (R48); in stage 5 it is held, and no
state changes (R369). A crossing of one that is not evaluated, or whose input the self-test has disconnected, changes nothing (R70, R84).
What a wake waits for below 8.2 V (log entry 49), and that a repeat of a fault that is held counts nowhere (log entry 61), are the model's
choices. -/
def Obligations.ComparatorFaults : Prop :=
  (∀ (src : BitVec 8) (fault : Bool) (s : State), s.tablesOk = true → s.evaluated src.toNat = true → s.sense.test.src ≠ some src.toNat →
      (s.cmp src.toNat).status ≠ .failed →
    Answers (.comparatorCrossing src fault) s fun t =>
      (t.cmp src.toNat).side = fault ∧ (t.cmp src.toNat).status = (if fault then .fault else .good)
        ∧ (s.holdsOutput src.toNat = false → (t.cmp src.toNat).out = fault)
        ∧ (s.holdsOutput src.toNat = true → (t.cmp src.toNat).out = (s.cmp src.toNat).out)
        ∧ SameCmps src.toNat s t ∧ t.out.en = s.out.en ∧ t.cfg = s.cfg ∧ t.sec.slots = s.sec.slots ∧ t.kiln.store = s.kiln.store)
  ∧ (∀ (src : BitVec 8) (fault : Bool) (s : State), s.tablesOk = true → s.evaluated src.toNat = true → s.sense.test.src ≠ some src.toNat →
      (s.cmp src.toNat).status = .failed →
    Answers (.comparatorCrossing src fault) s fun t =>
      (t.cmp src.toNat).status = .failed ∧ (t.cmp src.toNat).out = (s.cmp src.toNat).out ∧ SameCmps src.toNat s t ∧ t.out.en = s.out.en)
  ∧ (∀ (src : BitVec 8) (s : State), s.tablesOk = true → s.evaluated src.toNat = true → s.sense.test.src = none →
      (s.pm.state = .ready ∨ s.pm.state = .firing ∨ s.pm.state = .running) → bit s.clk.stopped 1 = false →
      (s.cmp src.toNat).status = .good → s.holdsOutput src.toNat = false → (s.cmp src.toNat).out = false →
      s.armed src.toNat = true → (s.cmpGrade src.toNat = 3 ∨ s.cmpGrade src.toNat = 2 ∧ s.persistTicks = 0) →
    Answers (.comparatorCrossing src true) s fun t =>
      Shutdown t (s.tableOf ⟨BitVec.ofNat 8 (src.toNat % 4 + 1), BitVec.ofNat 2 (s.cmpGrade src.toNat),
          BitVec.ofNat 8 (src.toNat / 4), 0⟩)
        ∧ t.pm.faultLatch = true ∧ t.pm.lastCause = (if s.cmpGrade src.toNat = 3 then 0x30 else 0x31)
        ∧ t.walk.grace = decide (s.cmpGrade src.toNat = 2) ∧ (s.cmpGrade src.toNat = 3 → t.out.tripo = true)
        ∧ t.out.en = s.out.en ∧ SameStores s t)
  ∧ (∀ (src : BitVec 8) (s : State), s.tablesOk = true → s.Asserts src → s.pm.state = .cooling → s.cmpGrade src.toNat = 2 →
      s.persistTicks = 0 →
    Answers (.comparatorCrossing src true) s fun t =>
      Queued (s.srcFault src) s t ∧ t.pm.state = .cooling ∧ t.out.tripo = s.out.tripo ∧ t.out.pfw = s.out.pfw ∧ t.out.en = s.out.en
        ∧ t.walk = { s.walk with
            tripDue := if s.out.tripo || s.walk.tripDue.isSome then s.walk.tripDue else some (s.clk.now + s.tripTicks) }
        ∧ SameStores s t)
  ∧ (∀ (src : BitVec 8) (s : State), s.tablesOk = true → s.Asserts src → s.pm.state = .cooling → s.cmpGrade src.toNat = 3 →
      s.isHTable s.walk.table = false →
    Answers (.comparatorCrossing src true) s fun t =>
      Switched (s.tableOf (s.srcFault src)) (s.srcFault src) s t ∧ t.out.en = s.out.en ∧ t.out.pfw = s.out.pfw
        ∧ t.fault.first = some (s.fault.first.getD (s.srcFault src, s.clk.stamp)) ∧ SameStores s t)
  ∧ (∀ (src : BitVec 8) (s : State), s.tablesOk = true → s.Asserts src → s.pm.state = .cooling → s.cmpGrade src.toNat = 3 →
      s.isHTable s.walk.table = true →
    Answers (.comparatorCrossing src true) s fun t =>
      Queued (s.srcFault src) s t ∧ t.pm.state = .cooling ∧ t.walk.table = s.walk.table ∧ t.walk.entries = s.walk.entries
        ∧ t.out.en = s.out.en ∧ (s.walk.grace = true → t.out.tripo = true ∧ t.walk.grace = false ∧ t.walk.prev = s.clk.now)
        ∧ (s.walk.grace = false → t.walk = s.walk ∧ t.out.tripo = s.out.tripo) ∧ SameStores s t)
  ∧ (∀ (src : BitVec 8) (s : State), s.tablesOk = true → s.Asserts src → s.pm.state = .standby →
      (s.cmpGrade src.toNat = 3 ∨ s.cmpGrade src.toNat = 2 ∧ s.persistTicks = 0) →
    Answers (.comparatorCrossing src true) s fun t =>
      t.pm.faultLatch = true ∧ t.out.pfw = true ∧ t.out.tripo = true ∧ t.out.en = s.out.en ∧ t.fault.bisque.filled = true
        ∧ HoldsFault (s.srcFault src) (s.tableOf (s.srcFault src)) s s t ∧ t.walk = s.walk ∧ t.fault.queue = s.fault.queue
        ∧ (s.pm.vinLow = false → s.pm.vinGood = true → t.pm.state = .starting ∧ t.pm.stage = 8 ∧ t.pm.lastCause = 0x02)
        ∧ (s.pm.vinLow = true ∨ s.pm.vinGood = false → t.pm.state = .standby) ∧ SameStores s t)
  ∧ (∀ (src : BitVec 8) (s : State), s.tablesOk = true → s.Asserts src → s.pm.state = .starting → s.pm.stage = 5 →
      (s.cmpGrade src.toNat = 3 ∨ s.cmpGrade src.toNat = 2 ∧ s.persistTicks = 0) →
    Answers (.comparatorCrossing src true) s fun t =>
      t.pm.state = .starting ∧ t.pm.stage = 5 ∧ t.pm.faultLatch = true ∧ t.out.pfw = true ∧ t.out.tripo = true ∧ t.out.en = s.out.en
        ∧ HoldsFault (s.srcFault src) (s.tableOf (s.srcFault src)) s s t
        ∧ (s.cfgLoaded = true → t.fault.first = some (s.fault.first.getD (s.srcFault src, s.clk.aonStamp)))
        ∧ t.fault.bisque.filled = true ∧ t.walk = s.walk ∧ t.fault.queue = s.fault.queue ∧ SameStores s t)
  ∧ (∀ (src : BitVec 8) (fault : Bool) (s : State),
      s.evaluated src.toNat = false ∨ s.underTest src.toNat = true ∧ s.sense.test.phase < 5 →
    Answers (.comparatorCrossing src fault) s fun t => t = s)

/-- The holds, windows and ramps of a comparator, each at its tick (R72 to R82). A settle hold, a PWMSYNC window or an enable-event window
ends; the comparator then delivers its present decision, unless another of these or a self-test still holds its output; a settle hold that
restores a tested comparator ends its test too. A window opens, PWMSYNC's only while the core clock is taken from the locked PLL and no
lockout runs; one that has held for 65,536 ticks is an overrun, counted and locked out. An enable-event window opens for the We read at its
opening, and with We 0 none opens (that We is read then is the model's choice, log entry 50). A ramp moves one LSB toward the static code;
one that finds it passed by a rewritten threshold ends without a hold (the model's choice, log entry 29). A PWMSYNC edge sets the opening of
every comparator that takes it, or the closing of a window that is open; that a pending opening keeps its instant is the model's choice (log
entry 50). Where nothing of the kind is pending, nothing changes (the model's choice, log entry 2). -/
def Obligations.ComparatorTimers : Prop :=
  (∀ (src : BitVec 8) (due : Nat) (s : State), s.tablesOk = true → (s.cmp src.toNat).settle = some due →
    Answers (.settleHoldEnd src) s fun t =>
      t.clk.now = max s.clk.now due ∧ (t.cmp src.toNat).settle = none
        ∧ ((s.cmp src.toNat).blanked = false → (s.underTest src.toNat = false ∨ s.sense.test.phase = 5) →
            (t.cmp src.toNat).out = (s.cmp src.toNat).decided)
        ∧ ((s.cmp src.toNat).blanked = true ∨ s.underTest src.toNat = true ∧ s.sense.test.phase ≠ 5 →
            (t.cmp src.toNat).out = (s.cmp src.toNat).out)
        ∧ (s.underTest src.toNat = true → s.sense.test.phase = 5 → t.sense.test.src = none)
        ∧ SameCmps src.toNat s t ∧ t.out.en = s.out.en ∧ t.cfg = s.cfg)
  ∧ (∀ (src : BitVec 8) (s : State), (s.cmp src.toNat).settle = none → Answers (.settleHoldEnd src) s fun t => t = s)
  ∧ (∀ (src : BitVec 8) (due : Nat) (s : State), s.tablesOk = true → (s.cmp src.toNat).syncOpen = some due →
      s.syncBlanks src.toNat = true → (s.cmp src.toNat).syncLock ≤ max s.clk.now due →
    Answers (.pwmsyncWindowOpen src) s fun t =>
      t.clk.now = max s.clk.now due
        ∧ t.cmp src.toNat = { s.cmp src.toNat with
            syncOpen := none, syncSince := t.clk.now, syncClose := some (t.clk.now + s.blankWidth src.toNat) }
        ∧ SameCmps src.toNat s t ∧ Only [.clk, .sense] s t)
  ∧ (∀ (src : BitVec 8) (due : Nat) (s : State), s.tablesOk = true → (s.cmp src.toNat).syncOpen = some due →
      (s.syncBlanks src.toNat = false ∨ max s.clk.now due < (s.cmp src.toNat).syncLock) →
    Answers (.pwmsyncWindowOpen src) s fun t =>
      t.clk.now = max s.clk.now due ∧ t.cmp src.toNat = { s.cmp src.toNat with syncOpen := none }
        ∧ SameCmps src.toNat s t ∧ Only [.clk, .sense] s t)
  ∧ (∀ (src : BitVec 8) (due : Nat) (s : State), s.tablesOk = true → (s.cmp src.toNat).syncClose = some due →
      due < (s.cmp src.toNat).syncSince + syncLimit →
    Answers (.pwmsyncWindowClose src) s fun t =>
      t.clk.now = max s.clk.now due ∧ (t.cmp src.toNat).syncClose = none
        ∧ (t.cmp src.toNat).out = (if (s.cmp src.toNat).settle.isSome || (s.cmp src.toNat).enClose.isSome || s.underTest src.toNat
            then (s.cmp src.toNat).out else (s.cmp src.toNat).decided)
        ∧ SameCmps src.toNat s t ∧ t.out.en = s.out.en ∧ t.cfg = s.cfg)
  ∧ (∀ (src : BitVec 8) (due : Nat) (s : State), s.tablesOk = true → (s.cmp src.toNat).syncClose = some due →
      (s.cmp src.toNat).syncSince + syncLimit ≤ due →
    Answers (.blankingOverrun src) s fun t =>
      t.clk.now = max s.clk.now ((s.cmp src.toNat).syncSince + syncLimit) ∧ (t.cmp src.toNat).syncClose = none
        ∧ (t.cmp src.toNat).syncLock = t.clk.now + 256
        ∧ (t.cmp src.toNat).out = (if (s.cmp src.toNat).settle.isSome || (s.cmp src.toNat).enClose.isSome || s.underTest src.toNat
            then (s.cmp src.toNat).out else (s.cmp src.toNat).decided)
        ∧ Tab.getD t.sense.blankOverrun (src.toNat / 4) 0 = inc 65535 (Tab.getD s.sense.blankOverrun (src.toNat / 4) 0)
        ∧ SameCmps src.toNat s t ∧ t.out.en = s.out.en ∧ t.cfg = s.cfg)
  ∧ (∀ (src : BitVec 8) (due : Nat) (s : State), s.tablesOk = true → (s.cmp src.toNat).enOpen = some due →
    Answers (.enableWindowOpen src) s fun t =>
      t.clk.now = max s.clk.now due
        ∧ t.cmp src.toNat = { s.cmp src.toNat with
            enOpen := none
            enClose := if fld (s.cmpEnblank src.toNat) 15 0 = 0 then none
              else some (t.clk.now + fld (s.cmpEnblank src.toNat) 15 0 * usTicks) }
        ∧ SameCmps src.toNat s t ∧ Only [.clk, .sense] s t)
  ∧ (∀ (src : BitVec 8) (due : Nat) (s : State), s.tablesOk = true → (s.cmp src.toNat).enClose = some due →
    Answers (.enableWindowClose src) s fun t =>
      t.clk.now = max s.clk.now due ∧ (t.cmp src.toNat).enClose = none
        ∧ (t.cmp src.toNat).out = (if (s.cmp src.toNat).settle.isSome || (s.cmp src.toNat).syncClose.isSome || s.underTest src.toNat
            then (s.cmp src.toNat).out else (s.cmp src.toNat).decided)
        ∧ SameCmps src.toNat s t ∧ t.out.en = s.out.en ∧ t.cfg = s.cfg)
  ∧ (∀ (src : BitVec 8) (s : State), (s.cmp src.toNat).syncOpen = none → Answers (.pwmsyncWindowOpen src) s fun t => t = s)
  ∧ (∀ (src : BitVec 8) (s : State), (s.cmp src.toNat).syncClose = none →
      Answers (.pwmsyncWindowClose src) s (fun t => t = s) ∧ Answers (.blankingOverrun src) s (fun t => t = s))
  ∧ (∀ (src : BitVec 8) (s : State), (s.cmp src.toNat).enOpen = none → Answers (.enableWindowOpen src) s fun t => t = s)
  ∧ (∀ (src : BitVec 8) (s : State), (s.cmp src.toNat).enClose = none → Answers (.enableWindowClose src) s fun t => t = s)
  ∧ (∀ (src : BitVec 8) (s : State), (s.cmp src.toNat).ramp = none → Answers (.rampDacStep src) s fun t => t = s)
  ∧ (∀ (src : BitVec 8) (r : Ramp) (s : State), s.tablesOk = true → (s.cmp src.toNat).ramp = some r →
    Answers (.rampDacStep src) s fun t =>
      t.clk.now = max s.clk.now r.next
        ∧ t.cmp src.toNat = { s.cmp src.toNat with ramp := r.advance (fld (s.cmpCfg src.toNat) 11 0) }
        ∧ (∀ q, (t.cmp src.toNat).ramp = some q → q.pos = (if r.up then r.pos + 1 else r.pos - 1) ∧ q.next = r.next + r.div)
        ∧ SameCmps src.toNat s t ∧ Only [.clk, .sense] s t)
  ∧ (∀ (pin : BitVec 2) (s : State), s.tablesOk = true →
    Answers (.pwmsyncEdge pin) s fun t =>
      Only [.sense] s t
        ∧ ∀ x, x < 256 →
          (s.syncUses x = true ∧ fld (s.cmpCfg x) 25 24 = pin.toNat →
            ((s.cmp x).syncClose ≠ none →
                t.cmp x = { s.cmp x with syncClose := some (s.clk.now + 3 + s.blankDelay x + s.blankWidth x) })
              ∧ ((s.cmp x).syncClose = none → t.cmp x = { s.cmp x with syncOpen := some (s.clk.now + 3 + s.blankDelay x) }))
          ∧ (¬ (s.syncUses x = true ∧ fld (s.cmpCfg x) 25 24 = pin.toNat) → t.cmp x = s.cmp x))

/-- The self-test (R83 to R88). A slot passes over a failed comparator, skips one that cannot be tested, the fourth time in a row as starved,
and starts the test of any other, with its threshold DAC at code 0x0800 in phases 1 to 4; the next slot follows after the slot interval. That
a starved comparator's run of skips restarts from 0 (log entry 27), and that tested clears as the test begins (log entry 50), are the
model's choices. The phases follow each other; the last one fails the comparator, or restores it with a settle hold, whose end ends the
test. With no slot due, or with a test in progress, a slot changes nothing, and with no test in progress the end of a phase changes nothing
(the model's choice, log entry 2). -/
def Obligations.SelfTestSlots : Prop :=
  (∀ (due : Nat) (s : State), s.tablesOk = true → s.sense.test.slotDue = some due → s.sense.test.src = none →
      (s.cmp s.sense.test.next).status ≠ .failed → s.testSkips s.sense.test.next = false →
    Answers .selftestSlot s fun t =>
      t.clk.now = max s.clk.now (aonTicks due) ∧ t.sense.test.src = some s.sense.test.next ∧ t.sense.test.phase = 1
        ∧ t.sense.test.next = (s.sense.test.next + 1) % 256 ∧ t.sense.test.slotDue = some (due + s.slotPeriods)
        ∧ (t.cmp s.sense.test.next).tested = false ∧ t.dacCode s.sense.test.next = 0x0800
        ∧ SameCmps s.sense.test.next s t ∧ t.out = s.out
        ∧ Only [.clk, .sense, .pwm, .irq] s t)
  ∧ (∀ (due : Nat) (s : State), s.tablesOk = true → s.sense.test.slotDue = some due → s.sense.test.src = none →
      (s.cmp s.sense.test.next).status = .failed →
    Answers .selftestSlot s fun t =>
      t.clk.now = max s.clk.now (aonTicks due) ∧ t.sense.test.src = none ∧ t.sense.test.next = (s.sense.test.next + 1) % 256
        ∧ t.sense.test.slotDue = some (due + s.slotPeriods) ∧ (t.cmp s.sense.test.next).status = .failed
        ∧ SameCmps s.sense.test.next s t ∧ Only [.clk, .sense] s t)
  ∧ (∀ (due : Nat) (s : State), s.tablesOk = true → s.sense.test.slotDue = some due → s.sense.test.src = none →
      (s.cmp s.sense.test.next).status ≠ .failed → s.testSkips s.sense.test.next = true → (s.cmp s.sense.test.next).skipRun < 3 →
    Answers .selftestSlot s fun t =>
      t.sense.test.src = none ∧ (t.cmp s.sense.test.next).skipped = true
        ∧ (t.cmp s.sense.test.next).skipRun = (s.cmp s.sense.test.next).skipRun + 1
        ∧ t.sense.test.slotDue = some (due + s.slotPeriods) ∧ SameCmps s.sense.test.next s t ∧ Only [.clk, .sense] s t)
  ∧ (∀ (due : Nat) (s : State), s.tablesOk = true → s.sense.test.slotDue = some due → s.sense.test.src = none →
      (s.cmp s.sense.test.next).status ≠ .failed → s.testSkips s.sense.test.next = true → 3 ≤ (s.cmp s.sense.test.next).skipRun →
    Answers .selftestSlot s fun t =>
      t.sense.test.src = none ∧ (t.cmp s.sense.test.next).skipped = true ∧ (t.cmp s.sense.test.next).skipRun = 0
        ∧ t.sense.test.starved = inc 255 s.sense.test.starved ∧ t.sense.test.slotDue = some (due + s.slotPeriods)
        ∧ t.out = s.out ∧ SameCmps s.sense.test.next s t)
  ∧ (∀ s : State, s.sense.test.slotDue = none ∨ s.sense.test.src ≠ none → Answers .selftestSlot s fun t => t = s)
  ∧ (∀ (right : Bool) (src : Nat) (s : State), s.sense.test.src = some src → s.sense.test.phase < 4 →
    Answers (.selftestPhaseEnd right) s fun t =>
      t.clk.now = max s.clk.now s.sense.test.due ∧ t.sense.test.src = some src ∧ t.sense.test.phase = s.sense.test.phase + 1
        ∧ t.sense.test.wrong = (s.sense.test.wrong || !right) ∧ t.sense.cmps = s.sense.cmps ∧ Only [.clk, .sense] s t)
  ∧ (∀ (src : Nat) (s : State), s.tablesOk = true → s.sense.test.src = some src → s.sense.test.phase = 4 → s.sense.test.wrong = false →
    Answers (.selftestPhaseEnd true) s fun t =>
      t.sense.test.src = some src ∧ t.sense.test.phase = 5 ∧ (t.cmp src).tested = true ∧ (t.cmp src).status = (s.cmp src).status
        ∧ (t.cmp src).settle ≠ none ∧ SameCmps src s t ∧ Only [.clk, .sense] s t)
  ∧ (∀ (right : Bool) (src : Nat) (s : State), s.tablesOk = true → s.sense.test.src = some src → s.sense.test.phase = 4 →
      (s.sense.test.wrong || !right) = true →
    Answers (.selftestPhaseEnd right) s fun t =>
      t.sense.test.src = none ∧ (t.cmp src).status = .failed ∧ (t.cmp src).out = true ∧ SameCmps src s t ∧ t.out.en = s.out.en)
  ∧ (∀ (right : Bool) (src : Nat) (s : State), s.sense.test.src = some src → 5 ≤ s.sense.test.phase →
      exec (.selftestPhaseEnd right) s = exec (.settleHoldEnd (BitVec.ofNat 8 src)) s)
  ∧ (∀ (right : Bool) (s : State), s.sense.test.src = none → Answers (.selftestPhaseEnd right) s fun t => t = s)

/-- An FLT pin follows its sources when its stretch ends, and a latch clears where its sources are inactive (R90). A free-scan pass that is
due starts over, or is counted as overrun while the pass before it still hands its entries (R92). A completed conversion leaves its
calibrated code in the input's reading register with the next seq; the first of a diode pair counts the seq alone (R93, R171). A trigger
edge sets the group that names it active, or counts an overrun where it is active already, and changes sense registers only (R94, R95). A
demand of the Saggar engine is queued, or a converter has begun it (R96). A change of an EN pin's level is taken; where the device supervises
EN lines with a twin, a fall disarms the rail's UVF and UVW (R270); a passive device founds where that is what it waited for. A completion
with no conversion, and a demand that is not live, change nothing (the model's choice, log entry 2). -/
def Obligations.ConversionsAndPins : Prop :=
  (∀ (pin : BitVec 3) (due : Nat) (s : State), Tab.wf s.sense.fltStretch = true → Tab.get? s.sense.fltStretch pin.toNat = some due →
    Answers (.fltStretchEnd pin) s fun t =>
      t.clk.now = max s.clk.now due ∧ Tab.get? t.sense.fltStretch pin.toNat = none
        ∧ (∀ q, q ≠ pin.toNat → Tab.get? t.sense.fltStretch q = Tab.get? s.sense.fltStretch q)
        ∧ bit t.sense.fltLevel pin.toNat = (bit s.fltRaw pin.toNat || bit s.sense.fltLatched pin.toNat)
        ∧ t.sense.fltLatched = s.sense.fltLatched ∧ t.sense.cmps = s.sense.cmps ∧ Only [.clk, .sense] s t)
  ∧ (∀ (pins : Byte) (s : State), s.pm.state.logs = true →
    Answers (.fltLatchClear pins) s fun t =>
      t.sense.fltLatched = s.sense.fltLatched &&& ~~~(pins &&& ~~~s.fltRaw) ∧ t.sense.cmps = s.sense.cmps ∧ Only [.sense] s t)
  ∧ (∀ s : State, s.sense.scan.running = true → s.scanLive = true → s.scanInterval ≠ 0 → s.sense.scan.overdue = false →
      s.sense.scan.next < s.sense.scan.list.length →
    Answers .scanPassStart s fun t =>
      t.clk.now = max s.clk.now (s.sense.scan.start + s.scanInterval)
        ∧ t.sense = { s.sense with
            scan := { s.sense.scan with overdue := true }, passOverrun := inc 65535 s.sense.passOverrun }
        ∧ Only [.clk, .sense] s t)
  ∧ (∀ s : State, s.sense.scan.running = true → s.scanLive = true → s.scanInterval ≠ 0 → s.sense.scan.overdue = false →
      s.sense.scan.list.length ≤ s.sense.scan.next → s.scanList ≠ [] →
    Answers .scanPassStart s fun t =>
      t.clk.now = max s.clk.now (s.sense.scan.start + s.scanInterval) ∧ t.sense.scan.running = true ∧ t.sense.scan.list = s.scanList
        ∧ t.sense.scan.interval = s.scanInterval ∧ t.sense.readings = s.sense.readings ∧ t.sense.cmps = s.sense.cmps
        ∧ Only [.clk, .sense] s t)
  ∧ (∀ (conv : BitVec 2) (code : BitVec 16) (x : Conv) (s : State), s.tablesOk = true →
      nth s.sense.convs conv.toNat none = some x → x.input < 112 → s.isHalf x.input = false →
    Answers (.conversionComplete conv code) s fun t =>
      t.clk.now = max s.clk.now x.due
        ∧ t.reading x.input = {
            code := s.calibrated x.input code, seq := (s.reading x.input).seq + 1, valid := true
            range := s.outOfRange x.input (s.calibrated x.input code), time := t.clk.now }
        ∧ (∀ j, j ≠ x.input → t.reading j = s.reading j)
        ∧ t.out.en = s.out.en ∧ t.cfg = s.cfg ∧ t.sec.slots = s.sec.slots ∧ t.kiln.store = s.kiln.store)
  ∧ (∀ (conv : BitVec 2) (code : BitVec 16) (x : Conv) (s : State), s.tablesOk = true →
      nth s.sense.convs conv.toNat none = some x → x.input < 112 → s.isHalf x.input = true →
    Answers (.conversionComplete conv code) s fun t =>
      t.clk.now = max s.clk.now x.due
        ∧ t.reading x.input = { s.reading x.input with seq := (s.reading x.input).seq + 1 }
        ∧ (∀ j, j ≠ x.input → t.reading j = s.reading j) ∧ t.out = s.out ∧ t.pm = s.pm)
  ∧ (∀ (conv : BitVec 2) (code : BitVec 16) (s : State), nth s.sense.convs conv.toNat none = none → s.nextOpen conv.toNat = none →
    Answers (.conversionComplete conv code) s fun t => t = s)
  ∧ (∀ (source : BitVec 4) (s : State), s.scanLive = true → 1 ≤ source.toNat → source.toNat ≤ 8 → s.unitsOk = true →
    Answers (.ctrigEdge source) s fun t =>
      (∀ g, g < 4 → fld (s.trigCfg g) 5 0 = source.toNat → (nth s.sense.groups g {}).active = true →
          (nth t.sense.groups g {}).overrun = inc 65535 (nth s.sense.groups g {}).overrun)
        ∧ (∀ g, g < 4 → fld (s.trigCfg g) 5 0 = source.toNat → (nth s.sense.groups g {}).active = false →
          (nth t.sense.groups g {}).active = true
            ∨ (nth t.sense.groups g {}).done = ((nth s.sense.groups g {}).done + 1) % 256)
        ∧ (∀ g, g < 4 → fld (s.trigCfg g) 5 0 ≠ source.toNat → nth t.sense.groups g {} = nth s.sense.groups g {})
        ∧ t.sense.readings = s.sense.readings ∧ t.sense.cmps = s.sense.cmps ∧ Only [.sense] s t)
  ∧ (∀ (input : BitVec 7) (s : State), s.unitsOk = true → s.demandLive input.toNat = true →
    Answers (.saggarConversionDemand input) s fun t =>
      (t.sense.demands.any (fun d => d.input == input.toNat && d.user == .saggar) = true
          ∨ ∃ c ∈ t.sense.convs, ∃ v, c = some v ∧ v.input = input.toNat ∧ v.user = .saggar)
        ∧ t.sense.readings = s.sense.readings ∧ t.sense.cmps = s.sense.cmps ∧ Only [.sense] s t)
  ∧ (∀ (input : BitVec 7) (s : State), s.demandLive input.toNat = false →
    Answers (.saggarConversionDemand input) s fun t => t = s)
  ∧ (∀ (rail : BitVec 6) (high : Bool) (s : State), s.pm.state ≠ .off → s.twinEn = false → s.out.passive = false →
    Answers (.enPinLevelChange rail high) s fun t =>
      t.inp = { s.inp with enHigh := putBit s.inp.enHigh rail.toNat high } ∧ Only [.inp] s t)
  ∧ (∀ (rail : BitVec 6) (high : Bool) (s : State), s.pm.state ≠ .off → s.out.passive = true →
      ¬ (s.twin.state = .blocked ∧ putBit s.inp.enHigh rail.toNat high = 0 ∧ s.pm.state.logs = true) →
    Answers (.enPinLevelChange rail high) s fun t =>
      t.inp = { s.inp with enHigh := putBit s.inp.enHigh rail.toNat high } ∧ Only [.inp] s t)
  ∧ (∀ (rail : BitVec 6) (high : Bool) (s : State), s.pm.state.logs = true → s.out.passive = true → s.twin.state = .blocked →
      putBit s.inp.enHigh rail.toNat high = 0 →
    Answers (.enPinLevelChange rail high) s fun t =>
      t.inp = { s.inp with enHigh := 0 } ∧ t.out.passive = false ∧ t.out.enpu = true ∧ t.out.en = 0 ∧ t.twin.state = .solo)
  ∧ (∀ (rail : BitVec 6) (s : State), s.tablesOk = true → s.pm.state ≠ .off → s.twinEn = true → s.out.passive = false →
    Answers (.enPinLevelChange rail false) s fun t =>
      t.inp = { s.inp with enHigh := putBit s.inp.enHigh rail.toNat false } ∧ t.out.en = s.out.en
        ∧ t.cmp (4 * rail.toNat) = { s.cmp (4 * rail.toNat) with armed := false }
        ∧ t.cmp (4 * rail.toNat + 1) = { s.cmp (4 * rail.toNat + 1) with armed := false }
        ∧ (∀ x, x ≠ 4 * rail.toNat → x ≠ 4 * rail.toNat + 1 → t.cmp x = s.cmp x))
  ∧ (∀ (rail : BitVec 6) (s : State), s.tablesOk = true → s.pm.state ≠ .off → s.twinEn = true → s.out.passive = false →
    Answers (.enPinLevelChange rail true) s fun t =>
      t.inp = { s.inp with enHigh := putBit s.inp.enHigh rail.toNat true } ∧ t.out.en = s.out.en
        ∧ (∀ x, x ≠ 4 * rail.toNat → x ≠ 4 * rail.toNat + 1 → t.cmp x = s.cmp x)
        ∧ (∀ x, (s.cmp x).armed = true → (t.cmp x).armed = true) ∧ t.cfg = s.cfg ∧ t.sec.slots = s.sec.slots)

/-- The steps that act on no other block, where their word reads right and no HALT with off = 1 is due in their tick: NOP goes on with the
next address (R105); WAIT, WAITFOR and SYNC hold the engine inside the step (R108 to R110); JUMP goes on at its target, setting LC where it
says so (R116); JUMPIF goes on at its target or at the next address, clearing the flag it tests where it says so and counting LC down for
cond 0xA (R117). No other engine changes. What these rows do at the last address is HaltsAndEngineErrors'. -/
def Obligations.PlainSteps : Prop :=
  (∀ (k : BitVec 3) (f : Fetch) (s : State), Issues k 0x0 f s → (s.eng k.toNat).pc < lastStep k.toNat →
    Answers (.nopStep k f) s fun t =>
      Issued k 0x0 s t ∧ GoesTo k ((s.eng k.toNat).pc + 1) s t ∧ SameFlags k s t ∧ OtherEngines k s t ∧ EnginesOnly s t
        ∧ Only [.clk, .kiln] s t)
  ∧ (∀ (k : BitVec 3) (f : Fetch) (s : State), Issues k 0x3 f s →
    Answers (.waitStep k f) s fun t =>
      Issued k 0x3 s t ∧ WaitsIn k (.wait (issueTick k s + s.engTicks k.toNat (stWaitTicks (s.stepOf k.toNat)))) s t
        ∧ SameFlags k s t ∧ OtherEngines k s t ∧ EnginesOnly s t ∧ Only [.clk, .kiln] s t)
  ∧ (∀ (k : BitVec 3) (f : Fetch) (s : State), Issues k 0x4 f s →
    Answers (.waitforStep k f) s fun t =>
      Issued k 0x4 s t ∧ WaitsIn k (.waitfor (s.stepOf k.toNat) (issueTick k s)) s t ∧ SameFlags k s t ∧ OtherEngines k s t
        ∧ EnginesOnly s t ∧ Only [.clk, .kiln] s t)
  ∧ (∀ (k : BitVec 3) (f : Fetch) (s : State), Issues k 0xA f s →
    Answers (.syncStep k f) s fun t =>
      Issued k 0xA s t ∧ WaitsIn k (.sync (s.stepOf k.toNat) (issueTick k s)) s t ∧ SameFlags k s t ∧ OtherEngines k s t
        ∧ EnginesOnly s t ∧ Only [.clk, .kiln] s t)
  ∧ (∀ (k : BitVec 3) (f : Fetch) (s : State), Issues k 0x7 f s →
    Answers (.jumpStep k f) s fun t =>
      Issued k 0x7 s t ∧ GoesTo k (stTarget (s.stepOf k.toNat)) s t
        ∧ (t.eng k.toNat).lc = (if bit (s.stepOf k.toNat) 56 then stLcval (s.stepOf k.toNat) else (s.eng k.toNat).lc)
        ∧ (t.eng k.toNat).cf = (s.eng k.toNat).cf ∧ (t.eng k.toNat).tmo = (s.eng k.toNat).tmo
        ∧ (t.eng k.toNat).cl = (s.eng k.toNat).cl ∧ OtherEngines k s t ∧ EnginesOnly s t ∧ Only [.clk, .kiln] s t)
  ∧ (∀ (k : BitVec 3) (f : Fetch) (s : State), Issues k 0x8 f s → (s.eng k.toNat).pc < lastStep k.toNat →
    Answers (.jumpifStep k f) s fun t =>
      let w := s.stepOf k.toNat
      let c := stCond w
      let e := s.eng k.toNat
      Issued k 0x8 s t
        ∧ GoesTo k (if (s.till (issueTick k s)).jumps k.toNat w then stTarget w else e.pc + 1) s t
        ∧ (t.eng k.toNat).cf = (e.cf && !(bit w 55 && (c == 0 || c == 1)))
        ∧ (t.eng k.toNat).tmo = (e.tmo && !(bit w 55 && (c == 2 || c == 3)))
        ∧ (t.eng k.toNat).cl = (e.cl && !(bit w 55 && (c == 4 || c == 5)))
        ∧ (t.eng k.toNat).lc = (if c = 0xA then e.lc - 1 else e.lc)
        ∧ OtherEngines k s t ∧ EnginesOnly s t ∧ Only [.clk, .kiln] s t)

/-- The ends of WAIT, WAITFOR and SYNC before the store's last address (R108, R111, R120): the engine goes on with the next address; TO sets
where a timeout is reached with the condition still false; the flags that satisfied a SYNC are consumed where it asks for that, but for
those set in the same tick. The level of TRIPI and ONREQ that a WAITFOR sees is the one last accepted, that of CTRIG is the row's. -/
def Obligations.WaitsEnd : Prop :=
  (∀ (k : BitVec 3) (due : Nat) (s : State), (s.eng k.toNat).busy = .wait due → s.inStep k.toNat (max due s.clk.now) = true →
      (s.eng k.toNat).pc < lastStep k.toNat →
    Answers (.waitEnd k) s fun t =>
      t.clk.now = max s.clk.now due ∧ (t.eng k.toNat).st = .running ∧ (t.eng k.toNat).pc = (s.eng k.toNat).pc + 1
        ∧ (t.eng k.toNat).next = t.clk.now ∧ (t.eng k.toNat).busy = .none ∧ SameFlags k s t ∧ OtherEngines k s t ∧ EnginesOnly s t
        ∧ Only [.clk, .kiln] s t)
  ∧ (∀ (k : BitVec 3) (ctrig : BitVec 4) (w : Step64) (t0 : Nat) (s : State), (s.eng k.toNat).busy = .waitfor w t0 →
      s.inStep k.toNat s.clk.now = true → s.inTime k.toNat w t0 = true → s.waitforHolds k.toNat w t0 ctrig = true →
      (s.eng k.toNat).pc < lastStep k.toNat →
    Answers (.waitforSatisfied k ctrig) s fun t =>
      GoesTo k ((s.eng k.toNat).pc + 1) s t ∧ SameFlags k s t ∧ OtherEngines k s t ∧ EnginesOnly s t ∧ Only [.kiln] s t)
  ∧ (∀ (k : BitVec 3) (ctrig : BitVec 4) (w : Step64) (t0 due : Nat) (s : State), (s.eng k.toNat).busy = .waitfor w t0 →
      s.stepTimeout k.toNat w t0 = some due → s.inStep k.toNat (max due s.clk.now) = true →
      (s.eng k.toNat).pc < lastStep k.toNat →
    Answers (.waitforTimeout k ctrig) s fun t =>
      t.clk.now = max s.clk.now due ∧ GoesTo k ((s.eng k.toNat).pc + 1) s t
        ∧ (t.eng k.toNat).tmo = ((s.eng k.toNat).tmo || !(s.till due).waitforHolds k.toNat w t0 ctrig)
        ∧ (t.eng k.toNat).cf = (s.eng k.toNat).cf ∧ OtherEngines k s t ∧ EnginesOnly s t ∧ Only [.clk, .kiln] s t)
  ∧ (∀ (k : BitVec 3) (w : Step64) (t0 : Nat) (s : State), (s.eng k.toNat).busy = .sync w t0 → s.inStep k.toNat s.clk.now = true →
      s.inTime k.toNat w t0 = true → s.syncHolds w = true → (s.eng k.toNat).pc < lastStep k.toNat →
    Answers (.syncSatisfied k) s fun t =>
      GoesTo k ((s.eng k.toNat).pc + 1) s t ∧ SameFlags k s t ∧ OtherEngines k s t ∧ SamePrograms s t
        ∧ (bit w 57 = false → t.kiln.eventFlags = s.kiln.eventFlags)
        ∧ (bit w 57 = true → t.kiln.eventFlags = s.kiln.eventFlags &&& ~~~(s.evSeen &&& stFlags w
            &&& ~~~(if s.kiln.tick.time = s.clk.now then s.kiln.tick.evSet else 0)))
        ∧ t.kiln.failBits = s.kiln.failBits ∧ Only [.kiln] s t)
  ∧ (∀ (k : BitVec 3) (w : Step64) (t0 due : Nat) (s : State), (s.eng k.toNat).busy = .sync w t0 →
      s.stepTimeout k.toNat w t0 = some due → s.inStep k.toNat (max due s.clk.now) = true → (s.till due).syncHolds w = false →
      (s.eng k.toNat).pc < lastStep k.toNat →
    Answers (.syncTimeout k) s fun t =>
      t.clk.now = max s.clk.now due ∧ GoesTo k ((s.eng k.toNat).pc + 1) s t ∧ (t.eng k.toNat).tmo = true
        ∧ (t.eng k.toNat).cf = (s.eng k.toNat).cf ∧ OtherEngines k s t ∧ EnginesOnly s t ∧ Only [.clk, .kiln] s t)
  ∧ (∀ (k : BitVec 3) (w : Step64) (t0 due : Nat) (s : State), (s.eng k.toNat).busy = .sync w t0 →
      s.stepTimeout k.toNat w t0 = some due → s.inStep k.toNat (max due s.clk.now) = true → (s.till due).syncHolds w = true →
      (s.eng k.toNat).pc < lastStep k.toNat →
    Answers (.syncTimeout k) s fun t =>
      t.clk.now = max s.clk.now due ∧ GoesTo k ((s.eng k.toNat).pc + 1) s t ∧ SameFlags k s t ∧ OtherEngines k s t
        ∧ SamePrograms s t ∧ (bit w 57 = false → t.kiln.eventFlags = s.kiln.eventFlags) ∧ Only [.clk, .kiln] s t)

/-- ENABLE asserts EN of the rails it selects, but for those that a DISABLE of its tick selects, and DISABLE pulls them low, no other EN output
changing (R107); while Firing goes on the next address follows, and a fault that the change brings aborts the engine at this step (R123).
RAMP starts the ramps of the comparators of the rails it selects that have ramp_en set, and changes no others but one whose self-test it
abandons (R75, R87); SIGNAL sets or clears event flags (R119); SNAP captures one shard with its engine, address and mark (R121). Their word
reads right, and no HALT with off = 1 is due in their tick. -/
def Obligations.EnableAndSignalSteps : Prop :=
  (∀ (k : BitVec 3) (f : Fetch) (s : State), Issues k 0x1 f s → (s.eng k.toNat).pc < lastStep k.toNat →
    Answers (.enableStep k f) s fun t =>
      t.out.en = s.out.en ||| actRails k s ∧ Issued k 0x1 s t
        ∧ (t.pm.state = .firing → GoesTo k ((s.eng k.toNat).pc + 1) s t)
        ∧ (t.pm.state ≠ .firing → t.pm.state = .cooling ∧ (t.eng k.toNat).st = .aborted ∧ t.pm.faultLatch = true)
        ∧ SamePrograms s t ∧ t.kiln.eventFlags = s.kiln.eventFlags ∧ t.cfg = s.cfg ∧ t.sec.slots = s.sec.slots)
  ∧ (∀ (k : BitVec 3) (f : Fetch) (s : State), Issues k 0x2 f s → (s.eng k.toNat).pc < lastStep k.toNat →
    Answers (.disableStep k f) s fun t =>
      t.out.en = s.out.en &&& ~~~stRails (s.stepOf k.toNat) ∧ Issued k 0x2 s t
        ∧ (t.pm.state = .firing → GoesTo k ((s.eng k.toNat).pc + 1) s t)
        ∧ (t.pm.state ≠ .firing → t.pm.state = .cooling ∧ (t.eng k.toNat).st = .aborted ∧ t.pm.faultLatch = true)
        ∧ SamePrograms s t ∧ t.kiln.eventFlags = s.kiln.eventFlags ∧ t.cfg = s.cfg ∧ t.sec.slots = s.sec.slots)
  ∧ (∀ (k : BitVec 3) (f : Fetch) (s : State), s.tablesOk = true → Issues k 0x6 f s → (s.eng k.toNat).pc < lastStep k.toNat →
    Answers (.rampStep k f) s fun t =>
      Issued k 0x6 s t ∧ (t.pm.state = .firing → GoesTo k ((s.eng k.toNat).pc + 1) s t) ∧ SameFlags k s t
        ∧ (s.sense.test.src = none → t.pm.state = .firing ∧ OtherEngines k s t ∧ EnginesOnly s t)
        ∧ (∀ x, (bit (actRails k s) (x / 4) = false ∨ bit (s.cmpCfg x) 23 = false) → s.underTest x = false → t.cmp x = s.cmp x)
        ∧ (∀ x, x < 256 → bit (actRails k s) (x / 4) = true → bit (s.cmpCfg x) 23 = true → (s.cmp x).ramp = none →
            s.underTest x = false → fld (s.cmpReg 0x20 x) 27 16 ≠ fld (s.cmpCfg x) 11 0 →
          (t.cmp x).ramp = some {
              pos := fld (s.cmpReg 0x20 x) 27 16, up := decide (fld (s.cmpReg 0x20 x) 27 16 < fld (s.cmpCfg x) 11 0)
              div := fld (s.cmpReg 0x20 x) 15 0 + 1, next := issueTick k s + fld (s.cmpReg 0x20 x) 15 0 + 1
              armed := issueTick k s, engine := k.toNat }
            ∧ (t.cmp x).settle ≠ none ∧ (t.cmp x).out = (s.cmp x).out)
        ∧ (s.sense.test.src = none → Only [.clk, .kiln, .sense] s t))
  ∧ (∀ (k : BitVec 3) (f : Fetch) (s : State), Issues k 0x9 f s → (s.eng k.toNat).pc < lastStep k.toNat →
    Answers (.signalStep k f) s fun t =>
      let w := s.stepOf k.toNat
      Issued k 0x9 s t ∧ GoesTo k ((s.eng k.toNat).pc + 1) s t ∧ SameFlags k s t ∧ OtherEngines k s t
        ∧ (bit w 56 = false → t.kiln.eventFlags = s.kiln.eventFlags ||| stFlags w)
        ∧ (bit w 56 = true → t.kiln.eventFlags = s.kiln.eventFlags
            &&& ~~~(stFlags w &&& ~~~(if s.kiln.tick.time = issueTick k s then s.kiln.tick.evSet else 0)))
        ∧ SamePrograms s t ∧ t.kiln.failBits = s.kiln.failBits ∧ Only [.clk, .kiln] s t)
  ∧ (∀ (k : BitVec 3) (f : Fetch) (s : State), Issues k 0xD f s → (s.eng k.toNat).pc < lastStep k.toNat →
      s.log.buffer.length < 32 →
    Answers (.snapStep k f) s fun t =>
      Issued k 0xD s t ∧ GoesTo k ((s.eng k.toNat).pc + 1) s t ∧ SameFlags k s t ∧ OtherEngines k s t ∧ EnginesOnly s t
        ∧ (∃ x : Shard, t.log = { s.log with buffer := s.log.buffer ++ [x] } ∧ x.kind = 0x0B
            ∧ x.event.take 6 = [BitVec.ofNat 8 k.toNat, 0] ++ leBytes 2 (s.eng k.toNat).pc ++ leBytes 2 (stMark (s.stepOf k.toNat)))
        ∧ Only [.clk, .kiln, .log] s t)

/-- CHECK clears the chatter counts of its rails and holds the engine inside the step, noting which rails are inside their windows in its
issue tick (R112, R113). A rail that has been inside for the qualification time, which ends within the deadline, qualifies, and the last one
ends the step; the deadline ends it too, and where some rail has not settled CF is set, with the fail bits of those rails and no other. The
word reads right, no HALT with off = 1 is due in its tick, and the step's end is at an address before the store's last. An end told of an
engine that is in no CHECK changes nothing (the model's choice, log entry 2). -/
def Obligations.CheckSteps : Prop :=
  (∀ (k : BitVec 3) (f : Fetch) (s : State), s.tablesOk = true → Issues k 0x5 f s →
    Answers (.checkStep k f) s fun t =>
      let w := s.stepOf k.toNat
      Issued k 0x5 s t
        ∧ WaitsIn k (.check w (issueTick k s) ((ckRails w).map fun r =>
            ⟨r, if s.insideWin k.toNat (ckWindow w) r then some (issueTick k s) else none, false⟩)) s t
        ∧ (∀ r, Tab.getD t.kiln.chatter r 0 = if r ∈ ckRails w then 0 else Tab.getD s.kiln.chatter r 0)
        ∧ SameFlags k s t ∧ OtherEngines k s t ∧ SamePrograms s t ∧ t.kiln.failBits = s.kiln.failBits ∧ Only [.clk, .kiln] s t)
  ∧ (∀ (k : BitVec 3) (rail : BitVec 6) (w : Step64) (t0 since : Nat) (rails : List CheckRail) (s : State),
      (s.eng k.toNat).busy = .check w t0 rails → rails.find? (fun r => r.rail == rail.toNat) = some ⟨rail.toNat, some since, false⟩ →
      s.inStep k.toNat (max (since + ckQual w) s.clk.now) = true → since + ckQual w ≤ t0 + ckDeadline w →
      (s.eng k.toNat).pc < lastStep k.toNat →
    Answers (.checkQualified k rail) s fun t =>
      t.clk.now = max s.clk.now (since + ckQual w)
        ∧ (rails.all (fun r => r.done || r.rail == rail.toNat) = true → GoesTo k ((s.eng k.toNat).pc + 1) s t)
        ∧ (rails.all (fun r => r.done || r.rail == rail.toNat) = false →
            (t.eng k.toNat).busy = .check w t0 (rails.map fun x => if x.rail = rail.toNat then { x with done := true } else x)
              ∧ (t.eng k.toNat).st = .waiting ∧ (t.eng k.toNat).pc = (s.eng k.toNat).pc)
        ∧ SameFlags k s t ∧ OtherEngines k s t ∧ EnginesOnly s t ∧ Only [.clk, .kiln] s t)
  ∧ (∀ (k : BitVec 3) (w : Step64) (t0 : Nat) (rails : List CheckRail) (s : State), (s.eng k.toNat).busy = .check w t0 rails →
      s.inStep k.toNat (max (t0 + ckDeadline w) s.clk.now) = true → (s.eng k.toNat).pc < lastStep k.toNat →
    Answers (.checkDeadline k) s fun t =>
      let bad := rails.filter fun r => !r.settled (ckQual w) (t0 + ckDeadline w)
      t.clk.now = max s.clk.now (t0 + ckDeadline w) ∧ GoesTo k ((s.eng k.toNat).pc + 1) s t
        ∧ (t.eng k.toNat).cf = ((s.eng k.toNat).cf || !bad.isEmpty)
        ∧ (∀ n, n < 64 → bit t.kiln.failBits n = (bit s.kiln.failBits n || bad.any (fun r => r.rail == n)))
        ∧ (bad = [] → t.log = s.log) ∧ OtherEngines k s t ∧ SamePrograms s t ∧ t.kiln.eventFlags = s.kiln.eventFlags
        ∧ Only [.clk, .kiln, .log] s t)
  ∧ (∀ (k : BitVec 3) (rail : BitVec 6) (s : State), (∀ w t0 rails, (s.eng k.toNat).busy ≠ .check w t0 rails) →
      Answers (.checkQualified k rail) s (fun t => t = s) ∧ Answers (.checkDeadline k) s (fun t => t = s))

/-- MARGIN applies a level by the trim path, or queues a PMBus sequence and holds the engine until it ends, or, where that path is not open,
ends at once with TO (R121, R160, R162); TRIM applies a code and sets CL where the safe band clamps it, or where a lower engine has acted on
the same trim in its tick (Table 04.13). A PWM step stops or starts its channel's own counter, writes the channel's shadow compare, or sets
LOAD_ALL (R121); where a lower engine has acted on the same channel in its tick it does nothing else than go on. Their word reads right, no
HALT with off = 1 is due in their tick, and they do not stand at the store's last address. -/
def Obligations.MarginAndPwmSteps : Prop :=
  (∀ (k : BitVec 3) (f : Fetch) (s : State), s.tablesOk = true → Issues k 0xB f s → (s.eng k.toNat).pc < lastStep k.toNat →
      bit (s.stepOf k.toNat) 58 = false → TrimFree k (stRail (s.stepOf k.toNat)) s →
    Answers (.marginStep k f) s fun t =>
      let n := stRail (s.stepOf k.toNat)
      let l := fld (s.stepOf k.toNat) 57 56
      Issued k 0xB s t ∧ GoesTo k ((s.eng k.toNat).pc + 1) s t ∧ SameFlags k s t ∧ OtherEngines k s t ∧ SamePrograms s t
        ∧ Trimmed n l (if l = 1 then s.marginHi n else if l = 2 then s.marginLo n else s.nominal n) s t
        ∧ Only [.clk, .kiln, .mg] s t)
  ∧ (∀ (k : BitVec 3) (f : Fetch) (s : State), Issues k 0xB f s → (s.eng k.toNat).pc < lastStep k.toNat →
      bit (s.stepOf k.toNat) 58 = true → TrimFree k (stRail (s.stepOf k.toNat)) s → s.seqBlocked (stRail (s.stepOf k.toNat)) ≠ none →
    Answers (.marginStep k f) s fun t =>
      Issued k 0xB s t ∧ GoesTo k ((s.eng k.toNat).pc + 1) s t ∧ (t.eng k.toNat).tmo = true
        ∧ (t.eng k.toNat).cf = (s.eng k.toNat).cf ∧ OtherEngines k s t ∧ SamePrograms s t ∧ Only [.clk, .kiln, .mg, .tw] s t)
  ∧ (∀ (k : BitVec 3) (f : Fetch) (s : State), s.unitsOk = true → Issues k 0xB f s → bit (s.stepOf k.toNat) 58 = true →
      TrimFree k (stRail (s.stepOf k.toNat)) s → s.seqBlocked (stRail (s.stepOf k.toNat)) = none →
    Answers (.marginStep k f) s fun t =>
      let n := stRail (s.stepOf k.toNat)
      Issued k 0xB s t ∧ WaitsIn k (.margin n) s t ∧ SameFlags k s t ∧ OtherEngines k s t ∧ SamePrograms s t
        ∧ (∃ q ∈ (t.port2 (s.pmbPort n)).queue, q = {
            rail := n, level := fld (s.stepOf k.toNat) 57 56, engine := some k.toNat, cmd := none, done := 0, ending := false })
        ∧ Only [.clk, .kiln, .tw] s t)
  ∧ (∀ (k : BitVec 3) (f : Fetch) (s : State), s.tablesOk = true → Issues k 0xC f s → (s.eng k.toNat).pc < lastStep k.toNat →
      TrimFree k (stRail (s.stepOf k.toNat)) s →
    Answers (.trimStep k f) s fun t =>
      let n := stRail (s.stepOf k.toNat)
      let c := stCode (s.stepOf k.toNat)
      Issued k 0xC s t ∧ GoesTo k ((s.eng k.toNat).pc + 1) s t
        ∧ (t.eng k.toNat).cl = ((s.eng k.toNat).cl || decide (s.clampCode n c ≠ c)) ∧ (t.eng k.toNat).cf = (s.eng k.toNat).cf
        ∧ Trimmed n 3 c s t ∧ OtherEngines k s t ∧ SamePrograms s t ∧ Only [.clk, .kiln, .mg] s t)
  ∧ (∀ (k : BitVec 3) (f : Fetch) (j : Nat) (s : State), Issues k 0xC f s → (s.eng k.toNat).pc < lastStep k.toNat →
      s.kiln.tick.time = issueTick k s → j < k.toNat → claimed s.kiln.tick.trimmed (stRail (s.stepOf k.toNat)) = some j →
    Answers (.trimStep k f) s fun t =>
      Issued k 0xC s t ∧ GoesTo k ((s.eng k.toNat).pc + 1) s t ∧ (t.eng k.toNat).cl = true ∧ OtherEngines k s t ∧ EnginesOnly s t
        ∧ Only [.clk, .kiln] s t)
  ∧ (∀ (k : BitVec 3) (f : Fetch) (s : State), s.unitsOk = true → Issues k 0xE f s → (s.eng k.toNat).pc < lastStep k.toNat →
      pwAction (s.stepOf k.toNat) < 3 → PwmFree k (pwChannel (s.stepOf k.toNat)) s →
    Answers (.pwmStep k f) s fun t =>
      let w := s.stepOf k.toNat
      let c := pwChannel w
      Issued k 0xE s t ∧ GoesTo k ((s.eng k.toNat).pc + 1) s t ∧ SameFlags k s t ∧ OtherEngines k s t ∧ SamePrograms s t
        ∧ (pwAction w = 0 → s.ownCounter c = true → (t.ch c).running = false)
        ∧ (pwAction w < 2 → s.ownCounter c = false → (t.ch c).running = (s.ch c).running)
        ∧ (pwAction w = 1 → s.ownCounter c = true → (t.ch c).running = true
            ∧ ((s.ch c).running = false → (t.ch c).counter t.clk.now = 0
                ∧ (t.ch c).p = fld ((s.till (issueTick k s)).shadowAt c).1 31 16
                ∧ (t.ch c).c = fld ((s.till (issueTick k s)).shadowAt c).1 15 0))
        ∧ (pwAction w = 2 → (t.ch c).stepC = some (pwValue w) ∧ (t.ch c).running = (s.ch c).running)
        ∧ Only [.clk, .kiln, .pwm, .irq] s t)
  ∧ (∀ (k : BitVec 3) (f : Fetch) (s : State), Issues k 0xE f s → (s.eng k.toNat).pc < lastStep k.toNat →
      pwAction (s.stepOf k.toNat) = 3 → PwmFree k 16 s →
    Answers (.pwmStep k f) s fun t =>
      Issued k 0xE s t ∧ GoesTo k ((s.eng k.toNat).pc + 1) s t ∧ t.pwm.loadAll = true ∧ SameFlags k s t ∧ OtherEngines k s t
        ∧ SamePrograms s t ∧ Only [.clk, .kiln, .pwm, .irq] s t)
  ∧ (∀ (k : BitVec 3) (f : Fetch) (j : Nat) (s : State), Issues k 0xE f s → (s.eng k.toNat).pc < lastStep k.toNat →
      s.kiln.tick.time = issueTick k s → j < k.toNat →
      claimed s.kiln.tick.pwm (if pwAction (s.stepOf k.toNat) = 3 then 16 else pwChannel (s.stepOf k.toNat)) = some j →
    Answers (.pwmStep k f) s fun t =>
      Issued k 0xE s t ∧ GoesTo k ((s.eng k.toNat).pc + 1) s t ∧ SameFlags k s t ∧ OtherEngines k s t ∧ EnginesOnly s t
        ∧ Only [.clk, .kiln] s t)

/-- HALT stops its engine (R18, R118, R245): the last started engine's HALT with off = 0 begins Running with cause 0x18; off = 1 of a Kiln
engine is an off request with cause 0x23, of the Saggar engine an engine error with cause 0x5. A step of a tick in which a Kiln engine's HALT
with off = 1 is due has no effect (R118), and a row of a step that its engine does not issue changes nothing (the model's choice, log entry
2). The errors of an engine
(R102, R124): a step beyond its step budget (cause 0x1), its time budget reached (0x2), a word that does not read (0x3), and a step after
the store's last address (0x4), which NOP, RAMP, SIGNAL, TRIM, SNAP and PWM at that address bring. Each starts a shutdown with cause 0x10. -/
def Obligations.HaltsAndEngineErrors : Prop :=
  (∀ (k : BitVec 3) (f : Fetch) (s : State), Issues k 0xF f s → bit (s.stepOf k.toNat) 56 = false →
      (∃ j, j ≠ k.toNat ∧ (s.eng j).started = true ∧ (s.eng j).st ≠ .halted) →
    Answers (.haltStep k f) s fun t =>
      Issued k 0xF s t ∧ (t.eng k.toNat).st = .halted ∧ (t.eng k.toNat).busy = .none ∧ SameFlags k s t ∧ OtherEngines k s t
        ∧ EnginesOnly s t ∧ Only [.clk, .kiln] s t)
  ∧ (∀ (k : BitVec 3) (f : Fetch) (s : State), Issues k 0xF f s → bit (s.stepOf k.toNat) 56 = false →
      (∀ j, j ≠ k.toNat → (s.eng j).started = true → (s.eng j).st = .halted) →
    Answers (.haltStep k f) s fun t =>
      Issued k 0xF s t ∧ (t.eng k.toNat).st = .halted ∧ t.pm.state = .running ∧ t.pm.lastCause = 0x18
        ∧ t.mg.sweep.cycleDue = (if fld (s.cfgAt 0x70800) 31 16 = 0 then none
            else some (t.clk.now + fld (s.cfgAt 0x70800) 31 16 * 60 * secondTicks))
        ∧ OtherEngines k s t ∧ EnginesOnly s t ∧ Only [.clk, .kiln, .pm, .log, .mg] s t)
  ∧ (∀ (k : BitVec 3) (f : Fetch) (s : State), s.mayIssue k.toNat 0xF = true → f ≠ .uncorrectable → bit (s.stepOf k.toNat) 56 = true →
      k.toNat < 4 →
    Answers (.haltStep k f) s fun t =>
      (t.eng k.toNat).st = .halted ∧ Shutdown t 0 ∧ t.pm.lastCause = 0x23 ∧ t.walk.grace = true ∧ t.out.en = s.out.en
        ∧ t.pm.faultLatch = s.pm.faultLatch ∧ SameStores s t)
  ∧ (∀ (f : Fetch) (s : State), s.mayIssue 4 0xF = true → f ≠ .uncorrectable → bit (s.stepOf 4) 56 = true →
    Answers (.haltStep 4 f) s fun t =>
      (t.eng 4).st = .halted ∧ (t.eng 4).err = 5 ∧ t.pm.state = .cooling ∧ t.pm.faultLatch = true ∧ t.out.pfw = true
        ∧ (s.fault.first = none → ∃ r n, t.fault.first = some (r, n) ∧ r.cause = 0x10 ∧ r.source = 4 ∧ r.detail = 5)
        ∧ t.out.en = s.out.en ∧ SameStores s t)
  ∧ (∀ (k : BitVec 3) (s : State), k.toNat ≤ 4 → s.pm.state = .firing → (s.eng k.toNat).st = .running →
      s.stepBudget k.toNat ≤ (s.eng k.toNat).steps →
      max (s.eng k.toNat).next s.clk.now < (s.eng k.toNat).t0 + s.timeBudget k.toNat →
    Answers (.stepBudgetExpiry k) s fun t => t.clk.now = issueTick k s ∧ Failed k 1 s t ∧ SameStores s t)
  ∧ (∀ (k : BitVec 3) (s : State), k.toNat ≤ 4 → s.pm.state = .firing → ((s.eng k.toNat).active = true ∨ (s.eng k.toNat).entering = true) →
    Answers (.timeBudgetExpiry k) s fun t =>
      t.clk.now = max s.clk.now ((s.eng k.toNat).t0 + s.timeBudget k.toNat) ∧ Failed k 2 s t ∧ SameStores s t)
  ∧ (∀ (k : BitVec 3) (i : Instr) (op : Nat) (s : State), (i, op) ∈ stepRows k .uncorrectable → s.mayIssue k.toNat op = true →
    Answers i s fun t =>
      t.clk.now = issueTick k s ∧ Failed k 3 s t ∧ (t.eng k.toNat).steps = (s.eng k.toNat).steps
        ∧ t.kiln.uncorrectable = (if k.toNat < 4 then inc 255 s.kiln.uncorrectable else s.kiln.uncorrectable) ∧ SameStores s t)
  ∧ (∀ (k : BitVec 3) (f : Fetch) (i : Instr) (op : Nat) (s : State), (i, op) ∈ passingRows k f → Issues k op f s →
      s.sense.test.src = none → lastStep k.toNat ≤ (s.eng k.toNat).pc →
    Answers i s fun t => t.clk.now = issueTick k s ∧ Failed k 4 s t ∧ SameStores s t)
  ∧ (∀ (k : BitVec 3) (f : Fetch) (i : Instr) (op : Nat) (s : State), (i, op) ∈ stepRows k f → s.mayIssue k.toNat op = true →
      f ≠ .uncorrectable → (s.till (issueTick k s)).offDue = true → haltsOff (s.stepOf k.toNat) = false →
    Answers i s fun t => t.clk.now = issueTick k s ∧ Only [.clk] s t)
  ∧ (∀ (k : BitVec 3) (f : Fetch) (i : Instr) (op : Nat) (s : State), (i, op) ∈ stepRows k f → s.mayIssue k.toNat op = false →
    Answers i s fun t => t = s)

/-- The PWM channels as they count (R326 to R328, R330 to R333, R336). At a period start the counter is at 0, a transfer that is due is made, a
cleared trip ends, and PWMSO rises in the tick after where this channel drives it; at the compare value the output falls; a delayed edge
takes the level of its channel when its dead time ends; a PWMSO pulse ends at its tick. A trigger compare fires the converter triggers of
its code; a PWMSI edge loads the counters of the running channels that have si_en set, each with its phase or its period, whichever is less.
That the row PWMSI_EDGE stands for the tick of the load, 3 ticks after the edge at the pin (R333), is the model's choice (log entry 55); a
load wins over a wrap of its tick (Table 13.2). -/
def Obligations.PwmCounting : Prop :=
  (∀ (c : BitVec 4) (s : State), s.unitsOk = true → s.pwLive c.toNat = true →
    Answers (.periodStart c) s fun t =>
      let n := c.toNat
      t.clk.now = s.clk.now + s.toWrap n ∧ (t.ch n).running = true ∧ (t.ch n).counter t.clk.now = 0 ∧ (t.ch n).await = false
        ∧ (t.ch n).latch = (s.ch n).latch
        ∧ ((s.ch n).due = true → s.pwm.loadAll = true → s.pwm.loadTick < t.clk.now →
            (t.ch n).due = false ∧ (t.ch n).p = fld ((s.wait (s.toWrap n)).shadowAt n).1 31 16
              ∧ (t.ch n).c = fld ((s.wait (s.toWrap n)).shadowAt n).1 15 0)
        ∧ ((s.ch n).due = false → (t.ch n).p = (s.ch n).p ∧ (t.ch n).c = (s.ch n).c)
        ∧ (s.pairComp n = false → (s.ch n).latch = false → (s.ch n).dead = none → (t.ch n).out = (t.ch n).raw t.clk.now)
        ∧ (¬ (s.pwBase (fld (s.cfgAt 0xD0000) 3 0) = n ∧ fld (s.cfgAt 0xD0000) 15 8 ≠ 0) →
            t.pwm.so = s.pwm.so ∧ t.pwm.soFrom = s.pwm.soFrom)
        ∧ (s.pwBase (fld (s.cfgAt 0xD0000) 3 0) = n → fld (s.cfgAt 0xD0000) 15 8 ≠ 0 →
            t.pwm.so = some (t.clk.now + 1 + fld (s.cfgAt 0xD0000) 15 8) ∧ (s.pwm.so = none → t.pwm.soFrom = t.clk.now + 1))
        ∧ Only [.clk, .pwm, .irq] s t)
  ∧ (∀ (c : BitVec 4) (s : State), s.unitsOk = true → s.pwLive c.toNat = true → (s.ch c.toNat).falls = true →
      (s.ch c.toNat).counter s.clk.now ≤ (s.ch c.toNat).c → (s.ch c.toNat).start ≤ s.clk.now →
    Answers (.compareMatch c) s fun t =>
      let n := c.toNat
      t.clk.now = s.clk.now + ((s.ch n).c - (s.ch n).counter s.clk.now) ∧ (t.ch n).counter t.clk.now = (s.ch n).c
        ∧ (t.ch n).out = false ∧ (t.ch n).dead = none ∧ (t.ch n).latch = (s.ch n).latch ∧ Only [.clk, .pwm, .irq] s t)
  ∧ (∀ (c : BitVec 4) (due : Nat) (s : State), (s.ch c.toNat).dead = some due →
    Answers (.deadTimeEnd c) s fun t =>
      t.clk.now = max s.clk.now due ∧ t.ch c.toNat = { s.ch c.toNat with out := (s.till due).pwSource c.toNat, dead := none }
        ∧ (∀ d, d ≠ c.toNat → t.ch d = s.ch d) ∧ Only [.clk, .pwm] s t)
  ∧ (∀ (due : Nat) (s : State), s.pwm.so = some due →
    Answers .pwmsoEnd s fun t => t.clk.now = max s.clk.now due ∧ t.pwm = { s.pwm with so := none } ∧ Only [.clk, .pwm] s t)
  ∧ (∀ (c : BitVec 4) (j : BitVec 1) (s : State), s.unitsOk = true → s.pwLive (s.pwBase c.toNat) = true →
      (if j = 0 then (s.ch c.toNat).t0 else (s.ch c.toNat).t1) ≤ (s.ch (s.pwBase c.toNat)).p →
    Answers (.pwmTriggerCompare c j) s fun t =>
      t.clk.now = s.clk.now + s.toCount (s.pwBase c.toNat) (if j = 0 then (s.ch c.toNat).t0 else (s.ch c.toNat).t1)
        ∧ (∀ g, g < 4 → fld (s.trigCfg g) 5 0 = 16 + 2 * c.toNat + j.toNat → (nth s.sense.groups g {}).active = true →
            (nth t.sense.groups g {}).overrun = inc 65535 (nth s.sense.groups g {}).overrun)
        ∧ (∀ g, g < 4 → fld (s.trigCfg g) 5 0 = 16 + 2 * c.toNat + j.toNat → (nth s.sense.groups g {}).active = false →
            (nth t.sense.groups g {}).active = true
              ∨ (nth t.sense.groups g {}).done = ((nth s.sense.groups g {}).done + 1) % 256)
        ∧ (∀ g, g < 4 → fld (s.trigCfg g) 5 0 ≠ 16 + 2 * c.toNat + j.toNat → nth t.sense.groups g {} = nth s.sense.groups g {})
        ∧ t.sense.readings = s.sense.readings ∧ Only [.clk, .sense, .pwm, .irq] s t)
  ∧ (∀ s : State, s.unitsOk = true → s.pm.state.logs = true →
    Answers .pwmsiEdge s fun t =>
      (∀ c, c < 16 → s.pwRuns c = true → s.ownCounter c = true → bit (s.pwCfg c) 9 = true →
          (s.ch c).start ≠ s.clk.now ∨ (∀ w, s.pwm.wrap = some w → w.time ≠ s.clk.now) →
          (t.ch c).counter t.clk.now = min (fld (s.cfgAt (0xD0114 + 0x20 * c)) 15 0) (s.ch c).p ∧ (t.ch c).running = true)
        ∧ (∀ w, s.pwm.wrap = some w → w.time = s.clk.now → ∀ c, c < 16 → s.pwRuns c = true → s.ownCounter c = true →
          bit (s.pwCfg c) 9 = true → (s.ch c).start = s.clk.now → (nth w.chs c {}).running = true →
          (t.ch c).counter t.clk.now = min (fld (s.cfgAt (0xD0114 + 0x20 * c)) 15 0) (nth w.chs c {}).p ∧ (t.ch c).running = true)
        ∧ (∀ c, c < 16 → s.pwRuns c = true → s.ownCounter c = true → bit (s.pwCfg c) 9 = false → t.ch c = s.ch c)
        ∧ (∀ c, (t.ch c).running = (s.ch c).running ∧ (t.ch c).latch = (s.ch c).latch) ∧ Only [.pwm, .irq] s t)

/-- PWM starts, stops and trips. A channel that starts copies its shadows and counts from 0, and one that runs already goes on; one that stops
holds its counter with its output at the trip level; LOAD_ALL makes a transfer due for every channel, and while one is due changes nothing
(R329, R330). A trip source that asserts trips the channels that name it; TRIPI also leaves its mark in tripi_seen, which is cleared bit by
bit; a latch is cleared only while no source that its channel names is asserted, and a refused clear is counted (R334 to R337). That the
partner of a channel that trips in dead time keeps its trip level until its next period start is the model's choice (log entry 65). -/
def Obligations.PwmStartsAndTrips : Prop :=
  (∀ (c : BitVec 4) (s : State), s.unitsOk = true → s.pm.state.logs = true → s.ownCounter c.toNat = true →
      (s.ch c.toNat).running = false →
    Answers (.channelStart c) s fun t =>
      (t.ch c.toNat).running = true ∧ (t.ch c.toNat).counter t.clk.now = 0 ∧ (t.ch c.toNat).p = fld (s.shadowAt c.toNat).1 31 16
        ∧ (t.ch c.toNat).c = fld (s.shadowAt c.toNat).1 15 0 ∧ (t.ch c.toNat).latch = (s.ch c.toNat).latch ∧ SameRuns c.toNat s t
        ∧ Only [.pwm, .irq] s t)
  ∧ (∀ (c : BitVec 4) (s : State), s.unitsOk = true → s.pm.state.logs = true → s.ownCounter c.toNat = true →
      (s.ch c.toNat).running = true →
    Answers (.channelStart c) s fun t => t = s)
  ∧ (∀ (c : BitVec 4) (s : State), s.unitsOk = true → s.pm.state.logs = true → s.ownCounter c.toNat = true →
      (s.ch c.toNat).running = true →
    Answers (.channelStop c) s fun t =>
      (t.ch c.toNat).running = false ∧ (t.ch c.toNat).base = (s.ch c.toNat).counter s.clk.now ∧ (t.ch c.toNat).out = false
        ∧ (t.ch c.toNat).dead = none ∧ (t.ch c.toNat).latch = (s.ch c.toNat).latch ∧ SameRuns c.toNat s t ∧ Only [.pwm, .irq] s t)
  ∧ (∀ (c : BitVec 4) (s : State), s.unitsOk = true → s.pm.state.logs = true → s.ownCounter c.toNat = false →
    (Answers (.channelStart c) s fun t => (∀ d, (t.ch d).running = (s.ch d).running) ∧ Only [.pwm, .irq] s t)
      ∧ Answers (.channelStop c) s fun t => (∀ d, (t.ch d).running = (s.ch d).running) ∧ Only [.pwm, .irq] s t)
  ∧ (∀ s : State, s.unitsOk = true → s.pm.state.logs = true → s.pwm.loadAll = false →
    Answers .loadAll s fun t =>
      t.pwm.loadAll = true ∧ t.pwm.loadTick = s.clk.now ∧ (∀ c, c < 16 → t.ch c = { s.ch c with due := true }) ∧ Only [.pwm] s t)
  ∧ (∀ (source : BitVec 4) (s : State), s.unitsOk = true → s.pm.state.logs = true → 4 ≤ source.toNat → source.toNat ≤ 13 →
      bit s.tripSources source.toNat = true →
    Answers (.pwmTrip source) s fun t => Tripped (flag true source.toNat) s t ∧ t.pwm.tripiSeen = s.pwm.tripiSeen)
  ∧ (∀ (source : BitVec 4) (s : State), s.unitsOk = true → s.pm.state.logs = true → source.toNat < 4 →
    Answers (.pwmTrip source) s fun t =>
      Tripped (flag true source.toNat) s t ∧ t.pwm.tripiSeen = putBit s.pwm.tripiSeen source.toNat true)
  ∧ (∀ (bits : BitVec 16) (s : State), s.unitsOk = true → s.pm.state.logs = true → s.clearRefused bits = false →
    Answers (.tripLatchClear bits) s fun t =>
      (∀ c, c < 16 → bit bits c = true → (t.ch c).latch = false
          ∧ ((s.ch c).latch = true → (t.ch c).await = s.pwRuns c))
        ∧ (∀ c, c < 16 → bit bits c = false → (t.ch c).latch = (s.ch c).latch ∧ (t.ch c).await = (s.ch c).await)
        ∧ t.pwm.clearRefused = s.pwm.clearRefused ∧ Only [.pwm, .irq] s t)
  ∧ (∀ (bits : BitVec 16) (s : State), s.pm.state.logs = true → s.clearRefused bits = true →
    Answers (.tripLatchClear bits) s fun t =>
      t.pwm = { s.pwm with clearRefused := inc 65535 s.pwm.clearRefused } ∧ bit t.irq.pw 1 = true ∧ Only [.pwm, .irq] s t)
  ∧ (∀ (bits : BitVec 4) (s : State), s.pm.state.logs = true →
    Answers (.tripiSeenClear bits) s fun t =>
      t.pwm.tripiSeen = s.pwm.tripiSeen &&& ~~~bits ∧ (∀ c, (t.ch c).latch = (s.ch c).latch ∧ (t.ch c).running = (s.ch c).running)
        ∧ Only [.pwm, .irq] s t)

/-- Clock and crossing events. The loss of REFCLK or of the PLL's lock, and REFCLK's return, each begin a re-lock with the core on the RC
once the PLL has locked, and before that only change the monitor's verdict; a lock brings the core, and from stage 5 on the enabled outputs,
back to the PLL; a re-lock that fails is tried again (R302 to R305). The RC's ratio is kept, and a failing crystal gives way to the internal
RC (R300, R303). A crossing that errs or stops is reported in CK_XING_ERR and CK_IRQ, crossing 2's error without a cause; a stopped crossing
1 keeps what it last passed; crossing 2 stopped is the loss of the logic die; a crossing resumes (R318, R321). -/
def Obligations.ClocksAndCrossings : Prop :=
  (∀ s : State, s.relocks = true → s.clk.refOk = true →
    Answers .refclkLost s fun t =>
      t.clk.refOk = false ∧ t.clk.pllRefRc = true ∧ bit t.irq.ck 0 = true ∧ Relocking s t ∧ t.out.en = s.out.en ∧ SameStores s t)
  ∧ (∀ s : State, s.relocks = true → s.clk.refOk = false →
    Answers .refclkBack s fun t =>
      t.clk.refOk = true ∧ t.clk.pllRefRc = false ∧ t.clk.refBack = true ∧ Relocking s t ∧ t.out.en = s.out.en ∧ SameStores s t)
  ∧ (∀ s : State, s.clocked = true → s.relocks = false →
      (s.clk.refOk = true → Answers .refclkLost s fun t =>
          t.clk = { s.clk with refOk := false, refBack := false } ∧ bit t.irq.ck 0 = true ∧ Only [.clk, .irq] s t)
        ∧ (s.clk.refOk = false → Answers .refclkBack s fun t => t.clk = { s.clk with refOk := true } ∧ Only [.clk] s t))
  ∧ (∀ s : State, s.clocked = true → s.clk.pllLocked = true → (s.clk.refOk || s.clk.pllRefRc) = true →
    Answers .pllLossOfLock s fun t =>
      t.clk.refOk = s.clk.refOk ∧ t.clk.pllRefRc = s.clk.pllRefRc ∧ Relocking s t ∧ t.out.en = s.out.en ∧ SameStores s t)
  ∧ (∀ s : State, s.clocked = true → s.clk.relock ≠ none →
    Answers .pllLock s fun t =>
      t.clk.pllLocked = true ∧ t.clk.corePll = true ∧ t.clk.relock = none ∧ t.clk.pllRefRc = !s.clk.refOk
        ∧ t.clk.relockCount = inc 255 s.clk.relockCount ∧ t.clk.refBack = false ∧ (s.clk.refBack = true → bit t.irq.ck 1 = true)
        ∧ (s.clk.refBack = false → t.irq = s.irq)
        ∧ (s.outsLive = true → ∀ n, n < 4 → bit (s.outCfg n) 31 = true → (nth t.clk.outs n {}).running = true
            ∧ (nth t.clk.outs n {}).start = (nth s.clk.outs n {}).start
            ∧ (nth t.clk.outs n {}).begins
                = (if bit (s.outCfg n) 27 then s.clk.now else (s.outNow n).boundary (outDiv (s.outCfg n)) s.clk.now))
        ∧ (s.outsLive = false → t.clk.outs = s.clk.outs)
        ∧ t.clk.now = s.clk.now ∧ t.clk.stamp = s.clk.stamp ∧ Only [.clk, .irq] s t)
  ∧ (∀ (t0 : Nat) (s : State), s.clk.relock = some t0 → s.clocked = true →
    Answers .relockFail s fun t =>
      t.clk.now = max s.clk.now (t0 + 500 * usTicks) ∧ t.clk.relock = none ∧ t.clk.retryDue = some (t0 + 10 * msTicks)
        ∧ bit t.irq.ck 2 = true ∧ CauseSeen 3 s t ∧ t.out.en = s.out.en ∧ SameStores s t)
  ∧ (∀ (due : Nat) (s : State), s.clk.retryDue = some due → s.clocked = true →
    Answers .relockRetry s fun t =>
      t.clk.now = max s.clk.now due ∧ t.clk.relock = some t.clk.now ∧ t.clk.retryDue = none ∧ t.clk.corePll = s.clk.corePll
        ∧ Only [.clk] s t)
  ∧ (∀ (ratio : Nat) (s : State), s.clocked = true → s.clk.refOk = true →
    Answers (.rcRatioMeasure ratio) s fun t => t.clk = { s.clk with ratio := ratio, ratioValid := true } ∧ Only [.clk] s t)
  ∧ (∀ s : State, s.clk.x32Xtal = true →
    Answers .x32CrystalFail s fun t =>
      t.clk = { s.clk with x32Xtal := false } ∧ (s.clocked = true → bit t.irq.ck 7 = true) ∧ Only [.clk, .irq] s t)
  ∧ (∀ (c : BitVec 4) (s : State), s.clocked = true → 1 ≤ c.toNat → c.toNat ≤ 4 → c.toNat ≠ 2 →
    Answers (.crossingError c) s fun t =>
      t.clk.xingErr = putBit s.clk.xingErr c.toNat true ∧ bit t.irq.ck 8 = true ∧ CauseSeen 3 s t ∧ t.clk.stopped = s.clk.stopped
        ∧ t.out.en = s.out.en ∧ SameStores s t)
  ∧ (∀ s : State, s.clocked = true →
    Answers (.crossingError 2) s fun t =>
      t.clk = { s.clk with xingErr := putBit s.clk.xingErr 2 true } ∧ bit t.irq.ck 8 = true ∧ Only [.clk, .irq] s t)
  ∧ (∀ (c : BitVec 4) (s : State), s.clocked = true → (c = 1 ∨ c = 3) → bit s.clk.stopped c.toNat = false →
    Answers (.clockStopped c) s fun t =>
      t.clk.stopped = putBit s.clk.stopped c.toNat true ∧ t.clk.xingErr = putBit s.clk.xingErr c.toNat true
        ∧ (c = 1 → ∃ f, t.frozen = some f ∧ f.sense = s.sense ∧ f.sec = s.sec ∧ f.cfg = s.cfg ∧ f.sgStore = s.kiln.sgStore)
        ∧ (c = 3 → t.frozen = s.frozen) ∧ bit t.irq.ck 8 = true ∧ CauseSeen 3 s t ∧ t.out.en = s.out.en ∧ SameStores s t)
  ∧ (∀ s : State, s.clocked = true → bit s.clk.stopped 2 = false →
    Answers (.clockStopped 2) s fun t =>
      t.pm.state = .coppice ∧ t.pm.lastCause = 0x43 ∧ t.pm.faultLatch = true ∧ t.out.pfw = true ∧ t.out.tripo = true
        ∧ t.walk.reduced = true ∧ t.walk.table = 6 ∧ SameStores s t)
  ∧ (∀ s : State, s.clocked = true → bit s.clk.stopped 3 = true →
    Answers (.crossingResumes 3) s fun t =>
      t.clk = { s.clk with stopped := putBit s.clk.stopped 3 false } ∧ Only [.clk] s t)
  ∧ (∀ s : State, s.clocked = true → bit s.clk.stopped 1 = true →
    Answers (.crossingResumes 1) s fun t =>
      t.clk.stopped = putBit s.clk.stopped 1 false ∧ t.frozen = none ∧ t.sense = s.sense ∧ t.out.en = s.out.en ∧ SameStores s t)

/-- What a valid TSYNC edge does to the time base by its error, where TSYNC alone is the source; an edge that is not valid, or that comes while
ring TIME is followed and fewer than three valid edges have run on; and the entry to holdover (R310, R311, Table 12.3). A whole second loads
the always-on seconds count, and time_floor where the log die responds (R308), from the RC within the eight ticks of one of its cycles
(R307); a read of CK_TIME_LO captures the upper half (R325); a phase write adds its steps to those pending, and a total outside a signed
byte is refused (R316). That a write of the steps already pending changes no field and so adds nothing is the model's choice (log entry 66). -/
def Obligations.TimeBase : Prop :=
  (∀ s : State, s.tbRuns = true → s.timeSrc = 1 → s.clk.tsyncValid = true →
    Answers .tsyncEdge s fun t =>
      let e := s.clk.secondError
      t.clk.offset = e ∧ t.clk.following = 1 ∧ t.clk.lastEvent = some s.clk.now ∧ t.clk.lastTsync = some s.clk.now
        ∧ (e.natAbs ≤ 4 → t.clk.mode = .tracking ∧ t.clk.slewLeft = 0)
        ∧ (4 < e.natAbs → e.natAbs ≤ 200000 → t.clk.mode = .slewing ∧ t.clk.slewLeft = e)
        ∧ (200000 < e → t.clk.mode = .stepPending ∧ t.clk.slewLeft = 0 ∧ t.clk.jumpCount = inc 255 s.clk.jumpCount
            ∧ bit t.irq.ck 4 = true)
        ∧ (e < -200000 → bit (s.cfgAt 0xC0008) 29 = true → t.clk.mode = .slewing ∧ t.clk.slewLeft = e)
        ∧ (e < -200000 → bit (s.cfgAt 0xC0008) 29 = false → t.clk.mode = .ahead ∧ t.clk.slewLeft = 0
            ∧ t.clk.jumpCount = inc 255 s.clk.jumpCount ∧ bit t.irq.ck 4 = true)
        ∧ t.clk.stamp = s.clk.stamp ∧ t.clk.now = s.clk.now ∧ t.clk.stepCount = s.clk.stepCount ∧ Only [.clk, .irq] s t)
  ∧ (∀ s : State, s.tbRuns = true → (s.timeSrc = 1 ∨ s.timeSrc = 3) → s.clk.tsyncValid = false →
    Answers .tsyncEdge s fun t =>
      t.clk = { s.clk with tsyncRun := 0, ignored := inc 255 s.clk.ignored } ∧ Only [.clk] s t)
  ∧ (∀ s : State, s.tbRuns = true → s.timeSrc = 3 → s.clk.tsyncValid = true → s.clk.following = 2 → s.clk.tsyncRun < 2 →
    Answers .tsyncEdge s fun t =>
      t.clk = { s.clk with
          lastTsync := some s.clk.now, tsyncRun := s.clk.tsyncRun + 1, ignored := inc 255 s.clk.ignored }
        ∧ Only [.clk] s t)
  ∧ (∀ (t0 : Nat) (s : State), s.clk.lastEvent = some t0 → s.tbRuns = true → s.clk.following ≠ 0 →
    Answers .holdoverEntry s fun t =>
      t.clk.now = max s.clk.now (t0 + (if s.clk.following = 1 then 2500 * msTicks else 10 * msTicks)) ∧ t.clk.mode = .holdover
        ∧ t.clk.following = 0 ∧ t.clk.slewLeft = 0 ∧ t.clk.holdovers = inc 255 s.clk.holdovers ∧ t.clk.rate = s.clk.rate
        ∧ bit t.irq.ck 5 = true ∧ Only [.clk, .irq] s t)
  ∧ (∀ s : State, s.tbRuns = true →
    Answers .wholeSecond s fun t =>
      t.clk.aonSeconds = min 0xFFFFFFFF (t.clk.stamp / secondTicks) ∧ t.clk.aonPeriods = 0 ∧ t.clk.aonAt = t.clk.now
        ∧ t.clk.aonLoaded = true ∧ t.log.timeFloor = (if s.log.responds then t.clk.stamp else s.log.timeFloor)
        ∧ (s.clk.corePll = true → s.clk.appliedRate = 0 → s.clk.slewLeft = 0 → 0 ≤ s.clk.rateAcc → s.clk.rateAcc < 100000000 →
            t.clk.stamp = (s.clk.stamp / secondTicks + 1) * secondTicks ∧ t.clk.now = s.clk.now + (t.clk.stamp - s.clk.stamp))
        ∧ (s.clk.corePll = false → s.clk.rcPhase < 8 →
            (s.clk.stamp / secondTicks + 1) * secondTicks ≤ t.clk.stamp
              ∧ t.clk.stamp < (s.clk.stamp / secondTicks + 1) * secondTicks + 8
              ∧ t.clk.now + s.clk.rcPhase = s.clk.now + (t.clk.stamp - s.clk.stamp))
        ∧ (s.log.secOver = 0 → t.log = { s.log with timeFloor := t.log.timeFloor }) ∧ Only [.clk, .log] s t)
  ∧ (∀ s : State, s.portAnswers = true →
    Answers .ckTimeLoRead s fun t =>
      t.port = { s.port with hiCapture := some (halfWord s.clk.stamp 1) } ∧ Only [.port] s t)
  ∧ (∀ (out : BitVec 2) (steps : Byte) (s : State), s.unitsOk = true → s.pm.state.logs = true →
      -128 ≤ (s.outNow out.toNat).pending + steps.toInt → (s.outNow out.toNat).pending + steps.toInt ≤ 127 →
      steps ≠ BitVec.ofInt 8 (s.outNow out.toNat).pending →
    Answers (.ckOutPhaseWrite out steps) s fun t =>
      (nth t.clk.outs out.toNat {}).pending = (s.outNow out.toNat).pending + steps.toInt
        ∧ (nth t.clk.outs out.toNat {}).position = (s.outNow out.toNat).position
        ∧ (∀ n, n ≠ out.toNat → nth t.clk.outs n {} = nth s.clk.outs n {}) ∧ t.clk.now = s.clk.now ∧ Only [.clk] s t)
  ∧ (∀ (out : BitVec 2) (steps : Byte) (s : State), s.pm.state.logs = true →
      ((s.outNow out.toNat).pending + steps.toInt < -128 ∨ 127 < (s.outNow out.toNat).pending + steps.toInt
        ∨ steps = BitVec.ofInt 8 (s.outNow out.toNat).pending) →
    Answers (.ckOutPhaseWrite out steps) s fun t => t = s)

/-- The end of the transaction on the bus (R284 to R286, Table 06.2). A lost one is retried while retries are left; a good one leaves what
VOUT_MODE or READ_VOUT has read, and completes its sequence or hands over to its next transaction; a VOUT_MODE whose mode bits are not 0 ends
its sequence with pmb_result 3; any other result fails it with pmb_result 2, and so does a read whose PEC byte is not the CRC-8 of the
transaction's bytes (result 5). Of a sequence that an abort has ended the transaction only runs out (R294); a port disabled meanwhile ends
them all. A row without a transaction on the bus, or with a result that no bus gives, changes nothing (the model's choice, log entry 2). The
end of a PMBus sequence leaves
pmb_result; the MARGIN step that waited for it goes on, with TO unless the result is 1, or the margin command's final reply is made (R121,
R164). -/
def Obligations.TwSequences : Prop :=
  (∀ (p : BitVec 2) (result : BitVec 4) (data : BitVec 16) (got : Byte) (q : TwSeq) (rest : List TwSeq) (s : State), s.unitsOk = true →
      (s.port2 p.toNat).queue = q :: rest → (s.port2 p.toNat).activity = 1 → (result = 3 ∨ result = 9) →
      (s.port2 p.toNat).retries < fld (s.port2 p.toNat).cfg 6 4 → s.twOn p.toNat = true →
    Answers (.twTransactionEnd p result data got) s fun t =>
      t.port2 p.toNat = { s.port2 p.toNat with
          arbLost := inc 255 (s.port2 p.toNat).arbLost, retries := (s.port2 p.toNat).retries + 1, busy := true, activity := 4
          idleFrom := s.clk.now + tBuf (s.port2 p.toNat).cfg }
        ∧ (result = 9 → bit t.irq.tw (8 * p.toNat + 4) = true) ∧ OtherPorts p s t ∧ Only [.tw, .irq] s t)
  ∧ (∀ (p : BitVec 2) (data : BitVec 16) (got : Byte) (q : TwSeq) (rest : List TwSeq) (s : State), s.unitsOk = true → s.tablesOk = true →
      (s.port2 p.toNat).queue = q :: rest → (s.port2 p.toNat).activity = 1 → q.ending = false → s.twOn p.toNat = true →
      (s.port2 p.toNat).clearPending = false → s.twResult p.toNat q 1 data got = 1 →
    Answers (.twTransactionEnd p 1 data got) s fun t =>
      let codes := s.pmbCodes q.rail q.level
      let code := codes.getD q.done 0
      (t.port2 p.toNat).busy = true ∧ (t.port2 p.toNat).lastResult = 1 ∧ (t.port2 p.toNat).retries = 0
        ∧ (code = 0x20 → (t.trim q.rail).exponent = BitVec.ofNat 5 data.toNat) ∧ (code = 0x8B → (t.trim q.rail).vout = data)
        ∧ (∀ n, n ≠ q.rail → t.trim n = s.trim n)
        ∧ (code = 0x20 → fld data 7 5 ≠ 0 → (t.port2 p.toNat).queue = rest ∧ t.twEnded = s.twEnded ++ [(q, 3)])
        ∧ (¬ (code = 0x20 ∧ fld data 7 5 ≠ 0) → codes.length ≤ q.done + 1 →
            (t.port2 p.toNat).queue = rest ∧ t.twEnded = s.twEnded ++ [(q, 1)])
        ∧ (¬ (code = 0x20 ∧ fld data 7 5 ≠ 0) → q.done + 1 < codes.length →
            (t.port2 p.toNat).queue = { q with done := q.done + 1 } :: rest ∧ (t.port2 p.toNat).activity = 4
              ∧ t.twEnded = s.twEnded)
        ∧ OtherPorts p s t ∧ Only [.tw, .twEnded, .mg] s t)
  ∧ (∀ (p : BitVec 2) (result : BitVec 4) (data : BitVec 16) (got : Byte) (q : TwSeq) (rest : List TwSeq) (s : State), s.unitsOk = true →
      (s.port2 p.toNat).queue = q :: rest → (s.port2 p.toNat).activity = 1 → q.ending = false → s.twOn p.toNat = true →
      (result = 2 ∨ result = 1 ∧ s.twResult p.toNat q 1 data got = 5
        ∨ (result = 3 ∨ result = 9) ∧ fld (s.port2 p.toNat).cfg 6 4 ≤ (s.port2 p.toNat).retries) →
    Answers (.twTransactionEnd p result data got) s fun t =>
      (t.port2 p.toNat).queue = rest ∧ t.twEnded = s.twEnded ++ [(q, 2)]
        ∧ (t.port2 p.toNat).lastResult = (if result = 1 then 5 else result) ∧ (t.port2 p.toNat).retries = 0
        ∧ (result = 2 → (t.port2 p.toNat).nack = inc 255 (s.port2 p.toNat).nack)
        ∧ (result = 1 → (t.port2 p.toNat).pecErr = inc 255 (s.port2 p.toNat).pecErr)
        ∧ OtherPorts p s t ∧ Only [.tw, .twEnded, .irq] s t)
  ∧ (∀ (p : BitVec 2) (result : BitVec 4) (data : BitVec 16) (got : Byte) (q : TwSeq) (rest : List TwSeq) (s : State), s.unitsOk = true →
      (s.port2 p.toNat).queue = q :: rest → (s.port2 p.toNat).activity = 1 → q.ending = true → s.twOn p.toNat = true →
      (result = 1 ∨ result = 2) →
    Answers (.twTransactionEnd p result data got) s fun t =>
      (t.port2 p.toNat).queue = rest ∧ t.twEnded = s.twEnded ++ [(q, 2)] ∧ (t.port2 p.toNat).lastResult = 7
        ∧ OtherPorts p s t ∧ Only [.tw, .twEnded] s t)
  ∧ (∀ (p : BitVec 2) (result : BitVec 4) (data : BitVec 16) (got : Byte) (q : TwSeq) (rest : List TwSeq) (s : State), s.unitsOk = true →
      (s.port2 p.toNat).queue = q :: rest → (s.port2 p.toNat).activity = 1 → busResult result = true → s.twOn p.toNat = false →
    Answers (.twTransactionEnd p result data got) s fun t =>
      (t.port2 p.toNat).queue = [] ∧ (t.port2 p.toNat).activity = 0 ∧ (t.port2 p.toNat).busy = false ∧ OtherPorts p s t)
  ∧ (∀ (p : BitVec 2) (result : BitVec 4) (data : BitVec 16) (got : Byte) (s : State),
      (s.port2 p.toNat).queue = [] ∨ (s.port2 p.toNat).activity ≠ 1 ∨ busResult result = false →
    Answers (.twTransactionEnd p result data got) s fun t => t = s)
  ∧ (∀ (rail : BitVec 6) (q : TwSeq) (r : BitVec 2) (k : BitVec 3) (s : State), s.tablesOk = true →
      s.twEnded.find? (fun e => e.1.rail == rail.toNat) = some (q, r) → q.engine = some k.toNat →
      (s.eng k.toNat).st = .waiting → (s.eng k.toNat).busy = .margin rail.toNat → (s.eng k.toNat).pc < lastStep k.toNat →
    Answers (.pmbusSequenceEnd rail) s fun t =>
      (t.trim rail.toNat).pmb = r ∧ (∀ n, n ≠ rail.toNat → t.trim n = s.trim n)
        ∧ t.twEnded = s.twEnded.eraseP (fun e => e.1.rail == rail.toNat)
        ∧ GoesTo k ((s.eng k.toNat).pc + 1) s t ∧ (t.eng k.toNat).tmo = ((s.eng k.toNat).tmo || r != 1) ∧ OtherEngines k s t
        ∧ EnginesOnly s t ∧ Only [.mg, .twEnded, .kiln] s t)
  ∧ (∀ (rail : BitVec 6) (q : TwSeq) (r : BitVec 2) (key : Bool × Nat) (c : Cmd) (s : State), s.tablesOk = true →
      s.twEnded.find? (fun e => e.1.rail == rail.toNat) = some (q, r) → q.engine = none → q.cmd = some key →
      s.cmd? key.1 key.2 = some c → c.phase = .accepted →
    Answers (.pmbusSequenceEnd rail) s fun t =>
      (t.trim rail.toNat).pmb = r ∧ (∀ n, n ≠ rail.toNat → t.trim n = s.trim n)
        ∧ t.twEnded = s.twEnded.eraseP (fun e => e.1.rail == rail.toNat)
        ∧ Answered c 0 (t.marginReply rail.toNat) s t ∧ Only [.mg, .twEnded, .port, .irq, .ring] s t)

/-- Events and controls of a two-wire port that takes part in its bus. An idle bus, no earlier than the port allows, lets the head sequence's
transaction start, with its bytes and its target (R282, R284). SCL low for the timeout ends every sequence and marks the port, one that was
disabled in mid-transaction too (R290, Table 11.5); SDA low starts a bus clear, which ends with STOP or fails the head sequence (R291,
R292). An in-band request on an idle bus is answered, on a port that waits for an idle bus 2.0 µs after that at the earliest, and its seven
sampled bits are recorded and acknowledged, or rejected (R296, R297). A port reset ends the port's sequences with a bus clear, or on a
disabled port with its pins released; a bus clear is taken at once on an idle port and waits else (R293). An SCL timeout in activity 5, SDA
low during a transaction or an answer, and the end of a clear that is not being performed change nothing (the model's choice, log entry 2). -/
def Obligations.TwBusAndRequests : Prop :=
  (∀ (p : BitVec 2) (s : State), s.unitsOk = true → s.twOn p.toNat = true → (s.port2 p.toNat).busy = true →
      ((s.port2 p.toNat).activity = 0 ∨ (s.port2 p.toNat).activity = 4) → (s.port2 p.toNat).clearPending = false →
    Answers (.twBusIdle p) s fun t =>
      t.clk.now = max s.clk.now (s.port2 p.toNat).idleFrom
        ∧ ((s.port2 p.toNat).queue = [] → (t.port2 p.toNat).activity = 0 ∧ (t.port2 p.toNat).busy = false)
        ∧ (∀ q rest, (s.port2 p.toNat).queue = q :: rest → (t.port2 p.toNat).activity = 1 ∧ (t.port2 p.toNat).busy = true
            ∧ (t.port2 p.toNat).lastAddr = BitVec.ofNat 7 (fld (s.pmbus q.rail) 6 0)
            ∧ (t.port2 p.toNat).sent = s.txBytes q.rail q.level ((s.pmbCodes q.rail q.level).getD q.done 0))
        ∧ (t.port2 p.toNat).queue = (s.port2 p.toNat).queue ∧ OtherPorts p s t ∧ Only [.clk, .tw] s t)
  ∧ (∀ (p : BitVec 2) (s : State), s.unitsOk = true → s.twBusy p.toNat = true → (s.port2 p.toNat).activity ≠ 5 →
    Answers (.sclTimeout p) s fun t =>
      (t.port2 p.toNat).activity = 5 ∧ (t.port2 p.toNat).busy = true
        ∧ (t.port2 p.toNat).timeouts = inc 255 (s.port2 p.toNat).timeouts
        ∧ ((s.port2 p.toNat).queue ≠ [] → (t.port2 p.toNat).lastResult = 4) ∧ QueueEnded p s t
        ∧ bit t.irq.tw (8 * p.toNat + 1) = true ∧ OtherPorts p s t ∧ Only [.tw, .twEnded, .irq] s t)
  ∧ (∀ (p : BitVec 2) (s : State), s.unitsOk = true → s.twOn p.toNat = true →
      ((s.port2 p.toNat).activity = 0 ∨ (s.port2 p.toNat).activity = 4) →
    Answers (.sdaStuck p) s fun t =>
      t.port2 p.toNat = { s.port2 p.toNat with activity := 3, busy := true, clearPending := false }
        ∧ bit t.irq.tw (8 * p.toNat + 2) = true ∧ OtherPorts p s t ∧ Only [.tw, .irq] s t)
  ∧ (∀ (p : BitVec 2) (s : State), (s.port2 p.toNat).activity = 5 → Answers (.sclTimeout p) s fun t => t = s)
  ∧ (∀ (p : BitVec 2) (s : State), (s.port2 p.toNat).activity = 1 ∨ (s.port2 p.toNat).activity = 2 →
      Answers (.sdaStuck p) s fun t => t = s)
  ∧ (∀ (p : BitVec 2) (s : State), s.unitsOk = true → s.twOn p.toNat = true →
      (s.port2 p.toNat).activity = 3 → (s.port2 p.toNat).clearPending = false →
    Answers (.busClearEnd p true) s fun t =>
      t.port2 p.toNat = { s.port2 p.toNat with
          busy := true, activity := if (s.port2 p.toNat).queue.isEmpty then 0 else 4
          idleFrom := s.clk.now + tBuf (s.twCfg p.toNat) }
        ∧ OtherPorts p s t ∧ Only [.tw] s t)
  ∧ (∀ (p : BitVec 2) (stop : Bool) (s : State), (s.port2 p.toNat).activity ≠ 3 → Answers (.busClearEnd p stop) s fun t => t = s)
  ∧ (∀ (p : BitVec 2) (s : State), s.unitsOk = true → s.twOn p.toNat = true → (s.port2 p.toNat).activity = 3 →
      (s.port2 p.toNat).queue = [] →
    Answers (.busClearEnd p false) s fun t =>
      (t.port2 p.toNat).queue = [] ∧ t.twEnded = s.twEnded ∧ bit t.irq.tw (8 * p.toNat + 3) = true ∧ OtherPorts p s t
        ∧ Only [.tw, .irq] s t)
  ∧ (∀ (p : BitVec 2) (q : TwSeq) (rest : List TwSeq) (s : State), s.unitsOk = true → s.twOn p.toNat = true →
      (s.port2 p.toNat).activity = 3 → (s.port2 p.toNat).queue = q :: rest →
    Answers (.busClearEnd p false) s fun t =>
      (t.port2 p.toNat).queue = rest ∧ t.twEnded = s.twEnded ++ [(q, 2)] ∧ (t.port2 p.toNat).lastResult = 6
        ∧ bit t.irq.tw (8 * p.toNat + 3) = true ∧ OtherPorts p s t ∧ Only [.tw, .twEnded, .irq] s t)
  ∧ (∀ (p : BitVec 2) (s : State), s.unitsOk = true → s.answers p.toNat = true → (s.port2 p.toNat).activity = 0 →
      (s.port2 p.toNat).busy = false →
    Answers (.twRequest p) s fun t =>
      t.port2 p.toNat = { s.port2 p.toNat with
          activity := 2, busy := true, cfg := s.twCfg p.toNat, sampled := [], acked := false }
        ∧ OtherPorts p s t ∧ Only [.tw] s t)
  ∧ (∀ (p : BitVec 2) (s : State), s.unitsOk = true → s.answers p.toNat = true → (s.port2 p.toNat).activity = 4 →
    Answers (.twRequest p) s fun t =>
      t.clk.now = max s.clk.now ((s.port2 p.toNat).idleFrom + requestTicks)
        ∧ t.port2 p.toNat = { s.port2 p.toNat with
            activity := 2, busy := true, cfg := s.twCfg p.toNat, sampled := [], acked := false }
        ∧ OtherPorts p s t ∧ Only [.clk, .tw] s t)
  ∧ (∀ (p : BitVec 2) (addr : BitVec 7) (s : State), s.unitsOk = true → s.twOn p.toNat = true → (s.port2 p.toNat).activity = 2 →
      0x08 ≤ addr.toNat → addr.toNat ≤ 0x77 →
    Answers (.twRequestAnswerEnd p addr false) s fun t =>
      (t.port2 p.toNat).reqAddr = addr ∧ (t.port2 p.toNat).sampled = addressBits addr ∧ (t.port2 p.toNat).acked = true
        ∧ (t.port2 p.toNat).idleFrom = s.clk.now + tBuf (s.port2 p.toNat).cfg
        ∧ (t.port2 p.toNat).reqCount = (s.port2 p.toNat).reqCount + 1
        ∧ (t.port2 p.toNat).badCount = (s.port2 p.toNat).badCount ∧ bit t.irq.tw (8 * p.toNat) = true
        ∧ (t.port2 p.toNat).queue = (s.port2 p.toNat).queue ∧ OtherPorts p s t ∧ Only [.tw, .irq] s t)
  ∧ (∀ (p : BitVec 2) (addr : BitVec 7) (abandoned : Bool) (s : State), s.unitsOk = true → s.twOn p.toNat = true →
      (s.port2 p.toNat).activity = 2 → (abandoned = true ∨ addr.toNat < 0x08 ∨ 0x77 < addr.toNat) →
    Answers (.twRequestAnswerEnd p addr abandoned) s fun t =>
      (t.port2 p.toNat).badCount = inc 255 (s.port2 p.toNat).badCount ∧ (t.port2 p.toNat).reqAddr = (s.port2 p.toNat).reqAddr
        ∧ (t.port2 p.toNat).reqCount = (s.port2 p.toNat).reqCount ∧ (t.port2 p.toNat).queue = (s.port2 p.toNat).queue
        ∧ (t.port2 p.toNat).acked = (s.port2 p.toNat).acked ∧ (t.port2 p.toNat).idleFrom = s.clk.now + tBuf (s.port2 p.toNat).cfg
        ∧ OtherPorts p s t ∧ Only [.tw] s t)
  ∧ (∀ (p : BitVec 2) (s : State), s.unitsOk = true → s.pm.state.logs = true →
    Answers (.twPortReset p) s fun t =>
      QueueEnded p s t ∧ (t.port2 p.toNat).retries = 0
        ∧ (s.twOn p.toNat = true → (t.port2 p.toNat).activity = 3 ∧ (t.port2 p.toNat).busy = true
            ∧ (t.port2 p.toNat).clearPending = false)
        ∧ (s.twOn p.toNat = false → (t.port2 p.toNat).activity = 0 ∧ (t.port2 p.toNat).busy = false
            ∧ (t.port2 p.toNat).clearPending = false)
        ∧ ((s.port2 p.toNat).activity = 1 ∨ (s.port2 p.toNat).queue ≠ [] → (t.port2 p.toNat).lastResult = 7)
        ∧ OtherPorts p s t ∧ Only [.tw, .twEnded] s t)
  ∧ (∀ (p : BitVec 2) (s : State), s.unitsOk = true → s.pm.state.logs = true → s.twOn p.toNat = true →
    Answers (.twBusClear p) s fun t =>
      t.port2 p.toNat = (if (s.port2 p.toNat).activity = 0 ∨ (s.port2 p.toNat).activity = 4
          then { s.port2 p.toNat with activity := 3, busy := true, clearPending := false }
          else { s.port2 p.toNat with clearPending := true })
        ∧ OtherPorts p s t ∧ Only [.tw] s t)

/-- In Running a sweep cycle starts by its interval or by start_now, where none is in progress (R165); stop ends the cycle in progress and
aborts its rail with result 0x4 (Table 06.3). The next rail is swept from point 0, or skipped with the result that says why (R166, R167), or
aborted at once with result 0x2 where a comparator of it delivers its fault side (R169). A sweepable rail is an eligible one with no PMBus
path, and its first sample is requested at the point's start: the model's choices (log entry 28). A sample requests conversions of the rail
and, with is_en set, of its current; the end of a point's dwell applies the next point's code, and after the last point the rail is complete
with result 0x1 and returns to its nominal code. That sweep_count counts skipped and aborted sweeps too is the model's choice (log entry 59). -/
def Obligations.Sweeps : Prop :=
  (∀ (due : Nat) (s : State), s.mg.sweep.cycleDue = some due → s.pm.state = .running → s.mg.sweep.active = false →
    Answers .sweepCycleStart s fun t =>
      t.clk.now = max s.clk.now due ∧ t.mg.sweep.cycleStart = t.clk.now ∧ t.mg.sweep.rail = none
        ∧ t.mg.sweep.cycleDue = (if fld (s.cfgAt 0x70800) 31 16 = 0 then none
            else some (t.clk.now + fld (s.cfgAt 0x70800) 31 16 * 60 * secondTicks))
        ∧ ((∃ n, n < 64 ∧ s.sweepable n = true) → t.mg.sweep.active = true ∧ t.mg.sweep.cycles = s.mg.sweep.cycles)
        ∧ ((∀ n, n < 64 → s.sweepable n = false) →
            t.mg.sweep.active = false ∧ t.mg.sweep.cycles = (s.mg.sweep.cycles + 1) % 65536)
        ∧ t.mg.trims = s.mg.trims ∧ Only [.clk, .mg] s t)
  ∧ (∀ s : State, s.pm.state = .running → s.mg.sweep.active = false →
    Answers .startNow s fun t =>
      t.mg.sweep.cycleStart = s.clk.now
        ∧ ((∃ n, n < 64 ∧ s.sweepable n = true) → t.mg.sweep.active = true ∧ t.mg.sweep.cycles = s.mg.sweep.cycles)
        ∧ ((∀ n, n < 64 → s.sweepable n = false) →
            t.mg.sweep.active = false ∧ t.mg.sweep.cycles = (s.mg.sweep.cycles + 1) % 65536)
        ∧ t.mg.trims = s.mg.trims ∧ Only [.mg] s t)
  ∧ (∀ s : State, s.pm.state.logs = true → (s.pm.state ≠ .running ∨ s.mg.sweep.active = true) →
    Answers .startNow s fun t => t = s)
  ∧ (∀ (n : Nat) (s : State), s.tablesOk = true → s.pm.state.logs = true → s.mg.sweep.active = true → s.mg.sweep.rail = some n →
    Answers .sweepStop s fun t =>
      t.mg.sweep.active = false ∧ t.mg.sweep.rail = none ∧ (t.trim n).lastResult = 4
        ∧ (t.trim n).aborts = inc 255 (s.trim n).aborts ∧ (t.trim n).sweeps = ((s.trim n).sweeps + 1) % 65536
        ∧ MarginKept n s t ∧ Only [.mg, .log, .free] s t)
  ∧ (∀ s : State, s.pm.state.logs = true → s.mg.sweep.active = true → s.mg.sweep.rail = none →
    Answers .sweepStop s fun t => t.mg = { s.mg with sweep := { s.mg.sweep with active := false } } ∧ Only [.mg] s t)
  ∧ (∀ (n : Nat) (s : State), s.tablesOk = true → s.pm.state = .running → s.mg.sweep.active = true → s.mg.sweep.rail = none →
      s.nextSwept = some n → s.sweepSkip n = 0 → (∀ k, k < 4 → (s.coreCmp (4 * n + k)).out = false) →
    Answers .sweepRailStart s fun t =>
      t.clk.now = max s.clk.now s.mg.sweep.notBefore ∧ t.mg.sweep.rail = some n ∧ t.mg.sweep.point = 0
        ∧ t.mg.sweep.railStart = t.clk.now ∧ t.mg.sweep.pointStart = t.clk.now ∧ t.mg.sweep.sampleDue = t.clk.now
        ∧ Trimmed n 4 (s.nominal n) s t ∧ MarginKept n s t ∧ Only [.clk, .mg] s t)
  ∧ (∀ (n : Nat) (s : State), s.tablesOk = true → s.pm.state = .running → s.mg.sweep.active = true → s.mg.sweep.rail = none →
      s.nextSwept = some n → s.sweepSkip n = 0 → (∃ k, k < 4 ∧ (s.coreCmp (4 * n + k)).out = true) →
    Answers .sweepRailStart s fun t =>
      t.mg.sweep.rail = none ∧ (t.trim n).lastResult = 2 ∧ (t.trim n).aborts = inc 255 (s.trim n).aborts
        ∧ MarginKept n s t ∧ Only [.clk, .mg, .log, .free] s t)
  ∧ (∀ (n : Nat) (s : State), s.tablesOk = true → s.pm.state = .running → s.mg.sweep.active = true → s.mg.sweep.rail = none →
      s.nextSwept = some n → s.sweepSkip n ≠ 0 →
    Answers .sweepRailStart s fun t =>
      t.mg.sweep.rail = none ∧ t.mg.sweep.todo = n + 1 ∧ (t.trim n).lastResult = BitVec.ofNat 4 (s.sweepSkip n)
        ∧ (t.trim n).code = (s.trim n).code ∧ (t.trim n).level = (s.trim n).level
        ∧ (t.trim n).aborts = inc 255 (s.trim n).aborts ∧ MarginKept n s t ∧ Only [.clk, .mg, .log, .free] s t)
  ∧ (∀ (n : Nat) (s : State), s.unitsOk = true → s.mg.sweep.rail = some n → s.pm.state = .running →
      s.mg.sweep.sampleDue < s.mg.sweep.pointStart + s.sweepDwell n → s.sweepIsEn n = false →
    Answers .sweepSample s fun t =>
      t.clk.now = max s.clk.now s.mg.sweep.sampleDue
        ∧ t.mg = { s.mg with sweep := { s.mg.sweep with
            sampleDue := s.mg.sweep.sampleDue + 2000, requests := s.mg.sweep.requests + 1 } }
        ∧ Asked n (.sweep t.clk.now) t
        ∧ t.sense.readings = s.sense.readings ∧ t.sense.cmps = s.sense.cmps ∧ Only [.clk, .mg, .sense] s t)
  ∧ (∀ (n : Nat) (s : State), s.unitsOk = true → s.mg.sweep.rail = some n → s.pm.state = .running →
      s.mg.sweep.sampleDue < s.mg.sweep.pointStart + s.sweepDwell n → s.sweepIsEn n = true →
    Answers .sweepSample s fun t =>
      t.clk.now = max s.clk.now s.mg.sweep.sampleDue
        ∧ t.mg = { s.mg with sweep := { s.mg.sweep with
            sampleDue := s.mg.sweep.sampleDue + 2000, requests := s.mg.sweep.requests + 2 } }
        ∧ Asked n (.sweep t.clk.now) t ∧ Asked (s.sweepIs n) (.sweep t.clk.now) t
        ∧ t.sense.readings = s.sense.readings ∧ t.sense.cmps = s.sense.cmps ∧ Only [.clk, .mg, .sense] s t)
  ∧ (∀ (n : Nat) (s : State), s.tablesOk = true → s.mg.sweep.rail = some n → s.pm.state = .running →
      s.mg.sweep.point < 4 * s.sweepSteps n →
    Answers .sweepPoint s fun t =>
      t.clk.now = max s.clk.now (s.mg.sweep.pointStart + s.sweepDwell n) ∧ t.mg.sweep.rail = some n
        ∧ t.mg.sweep.point = s.mg.sweep.point + 1 ∧ t.mg.sweep.pointStart = t.clk.now ∧ t.mg.sweep.samples = []
        ∧ Trimmed n 4 (s.pointCode n (s.mg.sweep.point + 1)) s t ∧ MarginKept n s t ∧ Only [.clk, .mg, .free] s t)
  ∧ (∀ (n : Nat) (s : State), s.tablesOk = true → s.mg.sweep.rail = some n → s.pm.state = .running →
      4 * s.sweepSteps n ≤ s.mg.sweep.point → s.trimWithheld n = false →
    Answers .sweepPoint s fun t =>
      t.mg.sweep.rail = none ∧ t.mg.sweep.lastRail = n ∧ (t.trim n).lastResult = 1 ∧ (t.trim n).aborts = (s.trim n).aborts
        ∧ (t.trim n).sweeps = ((s.trim n).sweeps + 1) % 65536 ∧ (t.trim n).level = 0
        ∧ (t.trim n).code = BitVec.ofInt 12 (s.clampCode n (s.nominal n)) ∧ MarginKept n s t ∧ Only [.clk, .mg, .log, .free] s t)

/-- At a snapshot instant of Ready, Firing, Running and Cooling, the snapshot period not being off, one snapshot shard of that tick joins the
capture buffer, or is dropped and counted where the buffer is full (R181, R182). SHARD_COMMIT writes the oldest captured shard at the flight
recorder's position with the next seq and its chain value, marked after a drop; a torn report is written behind the torn position that it
names, and that of the archive is written there before the recorder's shards (R57, R183 to R185). The other region stays as it is. That a
report takes the position after the torn one (log entry 31), and that with nothing to write nothing changes (log entry 2), are the model's
choices. -/
def Obligations.ShardsWritten : Prop :=
  (∀ s : State, s.pm.state.logs = true → s.snapTicks ≠ 0 → s.log.buffer.length < 32 →
    Answers .snapshot s fun t =>
      s.clk.now ≤ t.clk.now ∧ Only [.clk, .log] s t
        ∧ ∃ x : Shard, t.log = { s.log with buffer := s.log.buffer ++ [x] } ∧ x.kind = 1 ∧ x.stamp = t.clk.stamp
            ∧ x.dstate = BitVec.ofNat 8 s.pm.state.code)
  ∧ (∀ s : State, s.pm.state.logs = true → s.snapTicks ≠ 0 → 32 ≤ s.log.buffer.length →
    Answers .snapshot s fun t =>
      t.log = { s.log with
          snapSkipped := inc 65535 s.log.snapSkipped, dropSnaps := s.log.dropSnaps + 1, skipFlag := true }
        ∧ Only [.clk, .log] s t)
  ∧ (∀ (x : Shard) (rest : List Shard) (s : State), s.tablesOk = true → s.pm.state.logs = true → s.log.tornFa = none →
      s.log.buffer = x :: rest → x.kind ≠ 8 →
    Answers .shardCommit s fun t =>
      Committed 2 s.log.fr.pos { x with flags := if s.log.skipFlag then x.flags ||| 0x80 else x.flags } s.log.fr.next none s t
        ∧ (∀ q, q ≠ s.log.fr.pos → Tab.get? t.log.fr.slots q = Tab.get? s.log.fr.slots q) ∧ t.log.fa = s.log.fa
        ∧ (s.log.copies = [] → x.trigger = false → s.log.dropSnaps = 0 → s.log.dropEvents = 0 → t.log.buffer = rest)
        ∧ Only [.log, .irq] s t)
  ∧ (∀ (x : Shard) (s : State), s.tablesOk = true → s.pm.state.logs = true → s.log.tornFa = some x → x.kind = 8 →
    Answers .shardCommit s fun t =>
      t.log.tornFa = none ∧ t.log.fr = s.log.fr ∧ t.log.buffer = s.log.buffer
        ∧ Committed 1 ((leAt x.event 8 8 + 1) % regionSize 1) x s.log.fa.next none s t ∧ Only [.log] s t)
  ∧ (∀ (x : Shard) (rest : List Shard) (s : State), s.tablesOk = true → s.pm.state.logs = true → s.log.tornFa = none →
      s.log.buffer = x :: rest → x.kind = 8 →
    Answers .shardCommit s fun t =>
      t.log.fa = s.log.fa
        ∧ Committed 2 ((leAt x.event 8 8 + 1) % regionSize 2) { x with flags := if s.log.skipFlag then x.flags ||| 0x80 else x.flags }
            s.log.fr.next none s t
        ∧ Only [.log, .irq] s t)
  ∧ (∀ s : State, s.pm.state.logs = false ∨ (s.log.tornFa = none ∧ s.log.buffer = []) → Answers .shardCommit s fun t => t = s)
  ∧ (∀ s : State, s.pm.state.logs = false ∨ s.snapTicks = 0 → Answers .snapshot s fun t => t = s)

/-- ARCHIVE_COPY, with no torn report of the archive waiting, writes a pending copy of a shard that is still in the flight recorder into the
archive with its flags and its origin's seq, where a position is free (R188), words that the read finds lost being counted (R197): the
shard is copied as it reads, the words lost with free bytes (the model's choice, log entry 64). A copy whose shard the recorder has
overwritten is not made, and nothing is written. SCRUB_READ goes on to the next block when its time has come, and after the last one begins
the next pass; words found correctable or lost are counted, the place of a lost word in a log region is kept, and no region's shards change
(R197). An ARCHIVE_COPY with no copy pending, and a SCRUB_READ outside Ready to Cooling, change nothing (the model's choice, log entry 2). -/
def Obligations.ArchiveAndScrub : Prop :=
  (∀ (n : Nat) (c : Copy) (rest : List Copy) (y : Stored) (s : State), s.tablesOk = true → s.pm.state.logs = true →
      s.log.tornFa = none → s.log.copies = c :: rest → c.why ≠ .shard → s.frRead c.origin = some y →
      0 < s.freeCount →
    Answers (.archiveCopy n) s fun t =>
      Committed 1 s.log.fa.pos { y.shard with flags := c.flags y.shard.flags } s.log.fa.next (some y.seq) s t
        ∧ (∀ q, q ≠ s.log.fa.pos → Tab.get? t.log.fa.slots q = Tab.get? s.log.fa.slots q) ∧ t.log.fr = s.log.fr
        ∧ t.log.drained = s.log.drained ∧ t.log.corrected = incBy 65535 s.log.corrected n ∧ Only [.log, .irq] s t)
  ∧ (∀ (n : Nat) (c : Copy) (rest : List Copy) (s : State), s.pm.state.logs = true → s.log.tornFa = none →
      s.log.copies = c :: rest → c.why ≠ .shard → s.frShard c.origin = none →
    Answers (.archiveCopy n) s fun t => t.log.fa = s.log.fa ∧ t.log.fr = s.log.fr ∧ Only [.log, .irq] s t)
  ∧ (∀ (n : Nat) (lost : List (BitVec 6)) (c : Copy) (rest : List Copy) (e : Nat × Stored) (s : State), s.pm.state.logs = true →
      s.log.tornFa = none → s.log.copies = c :: rest → c.why ≠ .shard → s.frPlace c.origin = some e → s.log.uncorrectable ≤ 255 →
    Answers (.archiveCopy n lost) s fun t =>
      t.log.corrected = incBy 65535 s.log.corrected n ∧ t.log.uncorrectable = min 255 (s.log.uncorrectable + lost.length)
        ∧ t.log.fr = s.log.fr)
  ∧ (∀ (n : Nat) (s : State), s.pm.state.logs = false ∨ s.log.tornFa.isSome = true ∨ s.log.copies = [] →
    Answers (.archiveCopy n) s fun t => t = s)
  ∧ (∀ (n : Nat) (s : State), s.pm.state.logs = true →
    Answers (.scrubRead ⟨n, []⟩) s fun t =>
      t.clk.now = max s.clk.now (s.log.scrubFrom + s.scrubTicks)
        ∧ t.log = { s.log with
          scrubFrom := s.log.scrubFrom + s.scrubTicks
          scrubBlock := if mramBlocks ≤ s.log.scrubBlock + 1 then 0 else s.log.scrubBlock + 1
          scrubPasses := if mramBlocks ≤ s.log.scrubBlock + 1 then (s.log.scrubPasses + 1) % 256 else s.log.scrubPasses
          corrected := incBy 65535 s.log.corrected n, copierRun := 0 }
        ∧ Only [.clk, .log] s t)
  ∧ (∀ (n : Nat) (w : BitVec 6) (s : State), s.pm.state.logs = true →
    Answers (.scrubRead ⟨n, [w]⟩) s fun t =>
      t.clk.now = max s.clk.now (s.log.scrubFrom + s.scrubTicks) ∧ t.log.corrected = incBy 65535 s.log.corrected n
        ∧ t.log.uncorrectable = inc 255 s.log.uncorrectable ∧ bit t.irq.lg 3 = true
        ∧ (0x20000 ≤ s.log.scrubBlock →
            t.log.bad.contains ((blockPlace s.log.scrubBlock).1, (blockPlace s.log.scrubBlock).2, w.toNat) = true)
        ∧ (∀ e ∈ s.log.bad, e ∈ t.log.bad) ∧ t.log.fr = s.log.fr ∧ t.log.fa = s.log.fa ∧ Only [.clk, .log, .irq] s t)
  ∧ (∀ (f : BlockRead) (s : State), s.pm.state.logs = true →
    Answers (.scrubRead f) s fun t =>
      t.log.corrected = incBy 65535 s.log.corrected f.corrected ∧ (s.log.uncorrectable ≤ 255 →
          t.log.uncorrectable = min 255 (s.log.uncorrectable + f.lost.length))
        ∧ t.log.fr = s.log.fr ∧ t.log.fa = s.log.fa ∧ Only [.clk, .log, .irq] s t)
  ∧ (∀ (f : BlockRead) (s : State), s.pm.state.logs = false → Answers (.scrubRead f) s fun t => t = s)

/-- While the SPI port listens: a WRITE with SPIRDY low is counted and refused (R203); a packet accepted for this device takes its tag, one of
class 0 in the execution queue and a signed one for verification (R214, R215); one whose header does not check is counted and leaves every
command as it was (R213). A READ clocks out the head reply, which leaves the buffer only when it was sent whole, a reply that a reset
follows making that reset due at once (R205, R218); STATUS clocks out CM_PORT_STATUS; an unknown transfer code is answered with bytes of
zero (R201). The model's choices (log entry 37): a READ with SPIRDY low reads the head reply all the same; with no reply, and past a reply's
end, bytes of zero are clocked out; the port clocks bytes before it is up, as long as the logic die is powered, and changes nothing else. -/
def Obligations.SpiTransactions : Prop :=
  (∀ (bytes : List Byte) (s : State), s.listens = true → s.spirdy = false →
    Answers (.spiWrite bytes) s fun t =>
      t.port.overrun = inc 255 s.port.overrun ∧ t.port.miso = [s.statusByte] ∧ t.port.cmds = s.port.cmds
        ∧ t.port.execq = s.port.execq ∧ t.port.received = s.port.received ∧ bit t.irq.cm 0 = true ∧ Only [.port, .irq] s t)
  ∧ (∀ (bytes : List Byte) (s : State), s.listens = true → s.spirdy = true → AcceptedHere bytes s → (spiCmd bytes).cls = 0 →
    Answers (.spiWrite bytes) s fun t =>
      t.port = { s.port with
          miso := [s.statusByte], received := (s.port.received + 1) % 65536
          cmds := s.port.cmds ++ [{ spiCmd bytes with phase := .queued }]
          execq := s.port.execq ++ [(false, (spiCmd bytes).tag)] }
        ∧ Only [.port] s t)
  ∧ (∀ (bytes : List Byte) (s : State), s.listens = true → s.spirdy = true → AcceptedHere bytes s → (spiCmd bytes).cls ≠ 0 →
    Answers (.spiWrite bytes) s fun t =>
      t.port = { s.port with
          miso := [s.statusByte], received := (s.port.received + 1) % 65536
          cmds := s.port.cmds ++ [{ spiCmd bytes with
            partDue := if (spiCmd bytes).phase = .parts then some (s.clk.now + secondTicks) else none }] }
        ∧ Only [.port] s t)
  ∧ (∀ (bytes : List Byte) (s : State), s.listens = true → s.spirdy = true → 32 ≤ bytes.length → hdIntact (bytes.take 32) = false →
    Answers (.spiWrite bytes) s fun t =>
      t.port.framing = inc 255 s.port.framing ∧ t.port.miso = [s.statusByte] ∧ t.port.cmds = s.port.cmds
        ∧ t.port.execq = s.port.execq ∧ bit t.irq.cm 0 = true ∧ Only [.port, .irq] s t)
  ∧ (∀ (count : Nat) (r : Reply) (rest : List Reply) (s : State), s.listens = true → s.port.replies = r :: rest →
      r.bytes.length ≤ count → r.reset = false →
    Answers (.spiRead count) s fun t =>
      t.port = { s.port with miso := s.statusByte :: r.bytes, replies := rest } ∧ Only [.port] s t)
  ∧ (∀ (count : Nat) (r : Reply) (rest : List Reply) (s : State), s.listens = true → s.port.replies = r :: rest →
      count < r.bytes.length →
    Answers (.spiRead count) s fun t =>
      t.port = { s.port with miso := s.statusByte :: r.bytes.take count } ∧ Only [.port] s t)
  ∧ (∀ (count : Nat) (s : State), s.listens = true → s.port.replies = [] →
    Answers (.spiRead count) s fun t =>
      t.port = { s.port with miso := s.statusByte :: List.replicate count 0 } ∧ Only [.port] s t)
  ∧ (∀ (due count : Nat) (r : Reply) (rest : List Reply) (s : State), s.listens = true → s.port.replies = r :: rest →
      r.bytes.length ≤ count → s.pm.resetDue = some due → r.reset = true →
    Answers (.spiRead count) s fun t =>
      t.port = { s.port with miso := s.statusByte :: r.bytes, replies := rest }
        ∧ t.pm = { s.pm with resetDue := some (min s.clk.now due) } ∧ Only [.port, .pm] s t)
  ∧ (∀ s : State, s.listens = true →
    Answers .spiStatus s fun t =>
      t.port = { s.port with miso := s.statusByte :: leBytes 4 (s.portStatus false).toNat } ∧ Only [.port] s t)
  ∧ (∀ (code : Byte) (count : Nat) (s : State), s.listens = true → code ≠ 0xA1 → code ≠ 0xA2 → code ≠ 0xA3 →
    Answers (.spiUnknownTransfer code count) s fun t =>
      t.port = { s.port with miso := s.statusByte :: List.replicate count 0 } ∧ Only [.port] s t)
  ∧ (∀ (bytes : List Byte) (code : Byte) (count : Nat) (s : State), s.listens = false →
      Answers (.spiWrite bytes) s (fun t => t = s) ∧ Answers (.spiRead count) s (fun t => t = s) ∧ Answers .spiStatus s (fun t => t = s)
        ∧ Answers (.spiUnknownTransfer code count) s (fun t => t = s))

/-- VERIFICATION_COMPLETE judges a command's blocks against the key table in force. The only command of its port before stage 5 then passes it
into the execution queue, every slot counted holding its counter (R214, R227; TAKE_OWNERSHIP consumes none, R228), or is refused with stage
5's status; each slot's bad_sig grows by its blocks that do not verify (R230). One that is not the first of its port before stage 5 waits
(R215), and while the crypto self-tests of a wake hold commands nothing changes (R49). The parts of a split command that do not arrive
within 1 s are refused with QUORUM_NOT_MET, those that have arrived being counted by their blocks (R209). That a row of a tag that no command
holds changes nothing is the model's choice (log entry 2). -/
def Obligations.Verification : Prop :=
  (∀ (ring : Bool) (tag : BitVec 7) (c : Cmd) (s : State), s.cmd? ring tag.toNat = some c → c.phase = .verifying →
      s.pm.cryptoHeld = false → s.port.cmds.filter (fun d => d.ring == ring && d.before5) = [c] →
      s.stage5 { c with bad := !(s.failedSlots c).isEmpty } = none → c.op ≠ 0xC0 →
    Answers (.verificationComplete ring tag) s fun t =>
      t.port.execq = s.port.execq ++ [(ring, tag.toNat)]
        ∧ t.cmd? ring tag.toNat = some { c with
            phase := .queued, consumed := true, bad := false, boot := s.sec.bootstrap, counted := s.counted c
            table := s.sec.quorum }
        ∧ (∀ i, i < s.sec.slots.length → i ∈ s.counted c → t.heldCounter i = c.counter)
        ∧ (∀ i, i ∉ s.counted c → t.heldCounter i = s.heldCounter i)
        ∧ (∀ i, (nth t.sec.slots i {}).filled = (nth s.sec.slots i {}).filled
            ∧ (nth t.sec.slots i {}).ed = (nth s.sec.slots i {}).ed ∧ (nth t.sec.slots i {}).badSig = (nth s.sec.slots i {}).badSig)
        ∧ t.sec = { s.sec with slots := t.sec.slots } ∧ Only [.port, .sec] s t)
  ∧ (∀ (ring : Bool) (tag : BitVec 7) (c : Cmd) (s : State), s.cmd? ring tag.toNat = some c → c.phase = .verifying →
      s.pm.cryptoHeld = false → s.port.cmds.filter (fun d => d.ring == ring && d.before5) = [c] →
      s.stage5 { c with bad := !(s.failedSlots c).isEmpty } = none → c.op = 0xC0 →
    Answers (.verificationComplete ring tag) s fun t =>
      t.port.execq = s.port.execq ++ [(ring, tag.toNat)]
        ∧ t.cmd? ring tag.toNat = some { c with
            phase := .queued, consumed := false, bad := false, boot := s.sec.bootstrap, counted := s.counted c
            table := s.sec.quorum }
        ∧ t.sec = s.sec ∧ Only [.port, .sec] s t)
  ∧ (∀ (ring : Bool) (tag : BitVec 7) (c : Cmd) (st : Nat) (s : State), s.cmd? ring tag.toNat = some c → c.phase = .verifying →
      s.pm.cryptoHeld = false → s.port.cmds.filter (fun d => d.ring == ring && d.before5) = [c] →
      s.stage5 { c with bad := !(s.failedSlots c).isEmpty } = some st →
    Answers (.verificationComplete ring tag) s fun t =>
      Answered { c with phase := .counting, bad := !(s.failedSlots c).isEmpty } st [] s t ∧ (∀ i, t.heldCounter i = s.heldCounter i)
        ∧ (∀ i, i < s.sec.slots.length → (nth t.sec.slots i {}).badSig
            = if c.broken = false ∧ i ∈ s.failedSlots c then min 255 ((nth s.sec.slots i {}).badSig + s.failedBlocks c i)
              else (nth s.sec.slots i {}).badSig)
        ∧ Only [.port, .sec, .irq, .log, .ring] s t)
  ∧ (∀ (ring : Bool) (tag : BitVec 7) (c d : Cmd) (s : State), s.cmd? ring tag.toNat = some c → c.phase = .verifying →
      s.pm.cryptoHeld = false → s.port.cmds.find? (fun x => x.ring == ring && x.before5) = some d → d.tag ≠ c.tag →
      d.phase ≠ .counting →
    Answers (.verificationComplete ring tag) s fun t =>
      t.cmd? ring tag.toNat = some { c with phase := .counting, bad := !(s.failedSlots c).isEmpty } ∧ t.port.execq = s.port.execq
        ∧ (∀ i, t.heldCounter i = s.heldCounter i) ∧ Only [.port, .sec] s t)
  ∧ (∀ (ring : Bool) (tag : BitVec 7) (s : State), s.pm.cryptoHeld = true →
    Answers (.verificationComplete ring tag) s fun t => t = s)
  ∧ (∀ (ring : Bool) (tag : BitVec 7) (c : Cmd) (due : Nat) (s : State), s.cmd? ring tag.toNat = some c → c.phase = .parts →
      c.partDue = some due → s.port.cmds.filter (fun d => d.ring == ring && d.before5) = [c] →
    Answers (.partTimeout ring tag) s fun t =>
      t.clk.now = max s.clk.now due ∧ Answered c 0x23 [] s t ∧ (∀ i, t.heldCounter i = s.heldCounter i)
        ∧ (∀ i, i < s.sec.slots.length → (nth t.sec.slots i {}).badSig
            = if c.broken = false ∧ i ∈ s.failedSlots c then min 255 ((nth s.sec.slots i {}).badSig + s.failedBlocks c i)
              else (nth s.sec.slots i {}).badSig)
        ∧ Only [.clk, .port, .sec, .irq, .log, .ring] s t)
  ∧ (∀ (ring : Bool) (tag : BitVec 7) (s : State), s.cmd? ring tag.toNat = none →
    Answers (.verificationComplete ring tag) s (fun t => t = s) ∧ Answers (.partTimeout ring tag) s (fun t => t = s))

/-- A signed reply leaves the signing list, for the SPI buffer where it fits or for the ring, and frees its tag but for one of ACCEPTED (R205,
R233); a reply that waited for room is queued and its tag is free. A reply that a reset follows starts the 1 ms to it when it is queued
(R218). A forwarded command without a reply is answered with TARGET_UNREACHABLE (R219). The reset that RESET asked for happens in Ready once
its reply is no longer unsaid, and waits in Cooling. The model's choices: with no signature asked, no reply waiting or fitting, nothing
forwarded, or no reset asked for or its reply unsaid, a row changes nothing (log entry 2); each signature made draws one free value
(log entry 7). -/
def Obligations.RepliesAndReset : Prop :=
  (∀ (tag : BitVec 7) (u : Unsigned) (s : State), s.port.signing = [u] → u.cmd.ring = false → u.cmd.tag = tag.toNat →
      s.port.waiting = [] → s.port.fits (s.replyTo u.cmd u.status.toNat u.payload).length = true →
      resets u.cmd.op u.status.toNat u.payload = false →
    Answers (.replySigned false tag) s fun t =>
      t.port.signing = [] ∧ t.free = s.free + 1
        ∧ t.port.replies = s.port.replies ++ [{
            ring := false, tag := tag.toNat, bytes := s.replyTo u.cmd u.status.toNat u.payload, keeps := u.status == 1 }]
        ∧ (u.status ≠ 1 → t.cmd? false tag.toNat = none) ∧ Only [.port, .free] s t)
  ∧ (∀ (tag : BitVec 7) (u : Unsigned) (s : State), s.port.signing = [u] → u.cmd.ring = true → u.cmd.tag = tag.toNat →
      resets u.cmd.op u.status.toNat u.payload = false →
    Answers (.replySigned true tag) s fun t =>
      t.port.signing = [] ∧ t.free = s.free + 1 ∧ t.port.replies = s.port.replies
        ∧ (u.status ≠ 1 → t.cmd? true tag.toNat = none) ∧ Only [.port, .ring, .free] s t)
  ∧ (∀ (tag : BitVec 7) (u : Unsigned) (due : Nat) (s : State), s.port.signing = [u] → u.cmd.ring = false → u.cmd.tag = tag.toNat →
      s.port.waiting = [] → s.port.fits (s.replyTo u.cmd u.status.toNat u.payload).length = true → u.cmd.op = 0x45 → u.status = 0 →
      s.pm.resetDue = some due →
    Answers (.replySigned false tag) s fun t =>
      t.port.signing = [] ∧ t.port.replies.length = s.port.replies.length + 1 ∧ t.pm.resetDue = some (s.clk.now + msTicks)
        ∧ Only [.pm, .port, .free] s t)
  ∧ (∀ (ring : Bool) (tag : BitVec 7) (s : State), s.port.signing = [] → Answers (.replySigned ring tag) s fun t => t = s)
  ∧ (∀ (r : Reply) (rest : List Reply) (s : State), s.port.waiting = r :: rest → r.keeps = false → r.tag ≠ 127 →
      (s.dropCmd r.ring r.tag).port.fits r.bytes.length = true → r.reset = false →
    Answers .replyQueued s fun t =>
      t.port.waiting = rest ∧ t.port.replies = s.port.replies ++ [r] ∧ t.cmd? r.ring r.tag = none ∧ Only [.port] s t)
  ∧ (∀ (r : Reply) (rest : List Reply) (s : State), s.port.waiting = r :: rest → r.keeps = false → r.tag ≠ 127 →
      (s.dropCmd r.ring r.tag).port.fits r.bytes.length = false → Answers .replyQueued s fun t => t = s)
  ∧ (∀ s : State, s.port.waiting = [] → Answers .replyQueued s fun t => t = s)
  ∧ (∀ (tag : BitVec 7) (f : Fwd) (c : Cmd) (s : State), s.port.fwds.find? (fun f => f.tag == tag.toNat) = some f →
      s.cmd? false tag.toNat = some c → c.bcast = false →
    Answers (.forwardTimeout tag) s fun t =>
      t.clk.now = max s.clk.now f.due ∧ t.port.fwds = s.port.fwds.filter (fun g => g.tag != tag.toNat) ∧ Answered c 0x50 [] s t
        ∧ Only [.clk, .port, .irq, .log] s t)
  ∧ (∀ (due : Nat) (s : State), s.pm.resetDue = some due → s.resetUnsaid = false → s.pm.state = .ready →
    Answers .resetTakesEffect s fun t =>
      t.clk.now = max s.clk.now due ∧ t.pm.state = .starting ∧ t.pm.stage = 1 ∧ t.pm.lastCause = 0x41
        ∧ t.pm.resetCause = s.pm.resetCause ||| 4 ∧ t.pm.resetDue = none ∧ OutputsOff t ∧ t.port.cmds = [] ∧ t.cfg = s.cfg
        ∧ t.sec.slots = s.sec.slots ∧ t.kiln.store = s.kiln.store ∧ t.fault.first = s.fault.first ∧ t.pending = s.pending)
  ∧ (∀ (due : Nat) (s : State), s.pm.resetDue = some due → s.resetUnsaid = false → s.pm.state = .cooling →
    Answers .resetTakesEffect s fun t => t.clk.now = max s.clk.now due ∧ t.pm.resetDue = some due ∧ Only [.clk] s t)
  ∧ (∀ s : State, s.pm.resetDue = none ∨ s.resetUnsaid = true → Answers .resetTakesEffect s fun t => t = s)
  ∧ (∀ (tag : BitVec 7) (s : State), s.port.fwds.find? (fun f => f.tag == tag.toNat) = none →
    Answers (.forwardTimeout tag) s fun t => t = s)

/-- The replies of the class 0 opcodes and of the SKV1200 reads, with nothing else changed (Tables 08.6 and 08.7); a LOG_READ that finds words
corrected or lost counts them, and delivers the bytes of a lost word as free values (log entry 7). While a reset is awaited, every command
of the opcodes named that reaches the head of the execution queue is refused with STATE_REFUSED and does nothing else (R218). -/
def Obligations.ClassZeroCommands : Prop :=
  (∀ (c : Cmd) (s : State), Runs 0x00 c s → Answers .nopCmd s (Replies c c.payload s))
  ∧ (∀ (c : Cmd) (s : State), Runs 0x01 c s →
    Answers .identify s (Replies c (leBytes 16 s.ident.uid.toNat
      ++ [if s.ident.variantT then 0x54 else 0x53, if s.ident.steppingA1 then 0xA1 else 0xA0, BitVec.ofNat 8 s.pm.state.code, 0]
      ++ leBytes 2 s.ring.address ++ leBytes 2 (if s.twin.address = 0 then 0xFFFF else s.twin.address)
      ++ digestBytes s.sec.ownerFp ++ List.replicate 8 0) s))
  ∧ (∀ (c : Cmd) (s : State), Runs 0x02 c s →
      (∀ i, i < leAt c.payload 4 2 → leAt c.payload 0 4 + 4 * i ≠ 0xC0010 ∧ leAt c.payload 0 4 + 4 * i ≠ 0xC0014) →
      leAt c.payload 0 4 % 4 = 0 →
    Answers .readRegs s (Replies c
      ((List.range (leAt c.payload 4 2)).flatMap (fun i => leBytes 4 (s.readWord (leAt c.payload 0 4 + 4 * i)).toNat)) s))
  ∧ (∀ (c : Cmd) (s : State), Runs 0x02 c s → leAt c.payload 0 4 = 0xC0010 → leAt c.payload 4 2 = 2 →
    Answers .readRegs s fun t =>
      Answered c 0 (leBytes 4 (s.clk.stamp % 0x100000000) ++ leBytes 4 (s.clk.stamp / 0x100000000 % 0x100000000)) s t
        ∧ t.port.hiCapture = none ∧ Only [.port, .irq, .ring] s t)
  ∧ (∀ (c : Cmd) (s : State), Runs 0x03 c s → (byteAt c.payload 0 = 1 ∨ byteAt c.payload 0 = 2) →
    Answers (.logRead []) s (Replies c ((List.range (leAt c.payload 8 2)).flatMap (fun i =>
      let r := byteAt c.payload 0
      let q := (leAt c.payload 4 4 + i) % logSize r
      [BitVec.ofNat 8 (s.readStatus r q), 0, 0, 0]
        ++ (s.slotBytes r q).mapIdx (fun j b => if s.log.responds = false ∨ s.log.bad.contains (r, q, j / 8) = true
            then Config.lostMram r (512 * q + j) else b))) s))
  ∧ (∀ (c : Cmd) (s : State), Runs 0x03 c s → byteAt c.payload 0 = 3 →
    Answers (.logRead []) s (Replies c ((List.range (leAt c.payload 8 2)).flatMap (fun i =>
      s.indexBytes ((leAt c.payload 4 4 + i) % logSize 3))) s))
  ∧ (∀ (n : Nat) (c : Cmd) (s : State), Runs 0x03 c s → 1 ≤ leAt c.payload 8 2 → s.log.responds = true →
    Answers (.logRead [⟨n, []⟩]) s fun t =>
      Answered c 0 (s.logPayload c.payload) s t ∧ t.log = { s.log with corrected := incBy 65535 s.log.corrected n }
        ∧ Only [.log, .port, .irq, .ring] s t)
  ∧ (∀ (n : Nat) (w : BitVec 6) (c : Cmd) (s : State), Runs 0x03 c s → 1 ≤ leAt c.payload 8 2 → s.log.responds = true →
      (byteAt c.payload 0 = 1 ∨ byteAt c.payload 0 = 2) → leAt c.payload 4 4 < logSize (byteAt c.payload 0) →
    Answers (.logRead [⟨n, [w]⟩]) s fun t =>
      t.log.corrected = incBy 65535 s.log.corrected n ∧ t.log.uncorrectable = inc 255 s.log.uncorrectable
        ∧ t.readStatus (byteAt c.payload 0) (leAt c.payload 4 4) = 3 ∧ t.log.fr = s.log.fr ∧ t.log.fa = s.log.fa
        ∧ Only [.log, .port, .irq, .ring] s t)
  ∧ (∀ (c : Cmd) (s : State), Runs 0x04 c s →
    Answers .getCert s (Replies c (leBytes 4 (s.cert (byteAt c.payload 0)).length
      ++ ((s.cert (byteAt c.payload 0)).drop (leAt c.payload 4 4)).take 4096) s))
  ∧ (∀ (c : Cmd) (s : State), Runs 0x05 c s →
    Answers .timeRead s (Replies c (leBytes 8 s.clk.stamp ++ [BitVec.ofNat 8 ((if s.clk.mode = .slewing then 1 else 0)
      + (if s.clk.mode = .holdover then 2 else 0) + (if s.clk.following = 1 then 4 else 0) + (if s.clk.following = 2 then 8 else 0))]
      ++ List.replicate 7 0) s))
  ∧ (∀ (c : Cmd) (s : State), Runs 0x06 c s →
    Answers .queueStatus s (Replies c (leBytes 4 (s.portStatus false).toNat
      ++ leBytes 4 (s.tagMap false 0).toNat ++ leBytes 4 (s.tagMap false 1).toNat ++ leBytes 4 (s.tagMap false 2).toNat
      ++ leBytes 4 (s.tagMap true 0).toNat ++ leBytes 4 (s.tagMap true 1).toNat ++ leBytes 4 (s.tagMap true 2).toNat) s))
  ∧ (∀ (c : Cmd) (s : State), Runs 0x20 c s →
    Answers .skv1200Id s (Replies c [0x00, 0x64, 64, if s.ident.steppingA1 then 0xA1 else 0xA0, 0, 0, 0, 0] s))
  ∧ (∀ (c : Cmd) (s : State), Runs 0x21 c s →
    Answers .skv1200Status s (Replies c [BitVec.ofNat 8 ((if s.out.en = 0 then 0 else 1) + (if s.pm.faultLatch then 2 else 0)
      + (if s.out.pfw then 4 else 0) + (if s.pm.state = .running then 8 else 0)), 0, 0, 0] s))
  ∧ (∀ (c : Cmd) (n : Nat) (s : State), Runs 0x22 c s → byteAt c.payload 0 = n → n < 64 → (s.reading n).valid = true →
    Answers .skv1200Rail s (Replies c (leBytes 2 (BitVec.ofInt 16 (Int.tdiv ((((s.reading n).code.toNat : Int) - 4096)
        * (if bit (s.cfgAt (0x20000 + 0x100 * n)) 0 then 4 else 1)) 10)).toNat
      ++ [BitVec.ofNat 8 (fld (s.chStatus n) 11 8), 0]) s))
  ∧ (∀ (c : Cmd) (n : Nat) (s : State), Runs 0x22 c s → byteAt c.payload 0 = n → n < 64 → (s.reading n).valid = false →
    Answers .skv1200Rail s (Replies c [0, 0, BitVec.ofNat 8 (fld (s.chStatus n) 11 8), 1] s))
  ∧ (∀ (c : Cmd) (s : State), Runs 0x31 c s → Answers .skv1200FirstFault s (Replies c s.fault.bisque.bytes s))
  ∧ (∀ (i : Instr) (op : Nat) (b : Confirm) (l : List BlockRead) (c : Cmd) (s : State), (i, op) ∈ [(Instr.nopCmd, 0x00), (.identify, 0x01),
      (.readRegs, 0x02), (.logRead l, 0x03), (.getCert, 0x04), (.timeRead, 0x05), (.queueStatus, 0x06), (.skv1200Id, 0x20),
      (.skv1200Status, 0x21), (.skv1200Rail, 0x22), (.skv1200FirstFault, 0x31), (.onCmd, 0x40), (.offCmd, 0x41), (.clearCmd, 0x42),
      (.marginCmd, 0x43), (.standbyCmd, 0x44), (.resetCmd, 0x45), (.drainCmd, 0x46), (.timeSet, 0x47), (.writeRegsClass1 b, 0x48),
      (.programLoad b, 0x80), (.tableLoad b, 0x81), (.bisqueClear, 0x82), (.writeRegsClass2 b, 0x88)] →
    s.headOp op = some c → s.pm.resetDue ≠ none → c.bcast = false →
    Answers i s fun t => Answered c 0x40 [] s t ∧ t.irq = s.irq ∧ Only [.port, .ring] s t)

/-- ON in Ready with nothing in its way fires (R148); in Cooling it waits as the pending request, or, with discard_pending set, is refused
(R20); with the fault latch set, or in another state, it is refused (R19). One that joins another on request of its tick is answered OK and
starts nothing (R147). OFF in Firing or Running starts a shutdown with table 0, and is itself completed with OK (R217); in Ready and Cooling
it removes the pending request. -/
def Obligations.OnAndOff : Prop :=
  (∀ (c : Cmd) (s : State), Runs 0x40 c s → s.onJoins = none → s.mayFire = true → s.twin.hand.holds = false →
    Answers .onCmd s fun t =>
      Answered c 0 [] s t ∧ FiresBy 0x12 s t ∧ t.ctl = { s.ctl with lastOn := some (s.clk.now, 0x12) }
        ∧ (s.twin.state ≠ .co → t.twin = s.twin) ∧ Only [.pm, .ctl, .log, .kiln, .clk, .mg, .port, .irq, .ring, .twin] s t)
  ∧ (∀ (c : Cmd) (s : State), Runs 0x40 c s → s.onJoins = none → (s.pm.state = .ready ∨ s.pm.state = .cooling) →
      s.pm.faultLatch = false → s.mayFire = false → s.twin.hand.holds = false → s.discardPending = false →
    Answers .onCmd s fun t =>
      Answered c 0 [] s t ∧ t.pm = { s.pm with onPending := some 0x12 } ∧ (s.twin.state ≠ .co → t.twin = s.twin)
        ∧ Only [.pm, .ctl, .port, .irq, .ring, .twin] s t)
  ∧ (∀ (c : Cmd) (s : State), Runs 0x40 c s → (s.pm.state = .ready ∨ s.pm.state = .cooling) →
      s.pm.faultLatch = false → s.mayFire = false → s.twin.hand.holds = false → s.discardPending = true →
    Answers .onCmd s fun t =>
      Answered c 0x40 [] s t ∧ (s.twin.state ≠ .co → t.twin = s.twin) ∧ Only [.port, .irq, .ring, .twin] s t)
  ∧ (∀ (c : Cmd) (s : State), Runs 0x40 c s → s.onJoins = none → (s.pm.state = .ready ∨ s.pm.state = .cooling) →
      s.pm.faultLatch = false → s.twin.hand.holds = true →
    Answers .onCmd s fun t =>
      Answered c 0 [] s t ∧ t.twin.heldOn = s.twin.heldOn ++ [0x12] ∧ Only [.ctl, .port, .irq, .ring, .twin] s t)
  ∧ (∀ (c : Cmd) (s : State), Runs 0x40 c s → s.onFired = true →
    Answers .onCmd s fun t =>
      Answered c 0 [] s t ∧ t.pm.state = .firing ∧ t.kiln = s.kiln ∧ t.out = s.out
        ∧ Only [.pm, .ctl, .log, .port, .irq, .ring, .twin] s t)
  ∧ (∀ (c : Cmd) (s : State), Runs 0x40 c s → s.onFired = false →
      (s.pm.faultLatch = true ∨ (s.pm.state ≠ .ready ∧ s.pm.state ≠ .cooling)) →
    Answers .onCmd s fun t =>
      Answered c 0x40 [] s t ∧ (s.twin.state ≠ .co → t.twin = s.twin) ∧ Only [.port, .irq, .ring, .twin] s t)
  ∧ (∀ (c : Cmd) (s : State), Runs 0x41 c s → (s.pm.state = .firing ∨ s.pm.state = .running) →
    Answers .offCmd s fun t =>
      Shutdown t 0 ∧ t.pm.lastCause = 0x22 ∧ t.walk.grace = true ∧ t.out.en = s.out.en ∧ t.out.tripo = s.out.tripo
        ∧ t.pm.faultLatch = s.pm.faultLatch ∧ t.fault.first = s.fault.first ∧ t.fault.bisque = s.fault.bisque
        ∧ t.cfg = s.cfg ∧ t.sec = s.sec ∧ t.kiln.store = s.kiln.store ∧ t.kiln.sgStore = s.kiln.sgStore
        ∧ t.fault.tables = s.fault.tables ∧ (s.port.cmds = [c] → Answered c 0 [] s t))
  ∧ (∀ (c : Cmd) (s : State), Runs 0x41 c s → (s.pm.state = .ready ∨ s.pm.state = .cooling) → s.twin.hand = .none →
    Answers .offCmd s fun t =>
      Answered c 0 [] s t ∧ t.pm = { s.pm with onPending := none } ∧ t.twin.heldOn = []
        ∧ (s.twin.state ≠ .co → t.twin = { s.twin with heldOn := [] }) ∧ t.ctl = { s.ctl with lastOn := none }
        ∧ Only [.pm, .twin, .ctl, .port, .irq, .ring] s t)
  ∧ (∀ (c : Cmd) (s : State), Runs 0x41 c s → s.pm.state ≠ .ready → s.pm.state ≠ .cooling → s.pm.state ≠ .firing →
      s.pm.state ≠ .running →
    Answers .offCmd s fun t => Answered c 0 [] s t ∧ Only [.port, .irq, .ring, .twin] s t)

/-- CLEAR in Ready with no cause of grade T or H active clears the fault latch, releases PFW and TRIPO (R131, R154) and ends a trip delay (log
entry 51); a high ONREQ with onreq_en set then is an on request (R19), which fires, or is left pending where T_OFFMIN still runs. With such a
cause active, or in another state, it is refused and the latch stays. -/
def Obligations.ClearCommand : Prop :=
  (∀ (c : Cmd) (s : State), Runs 0x42 c s → s.pm.state = .ready → s.tripPersists = false →
      (s.onreqEn = false ∨ s.inp.onreq = false) →
    Answers .clearCmd s fun t =>
      Answered c 0 [] s t ∧ t.pm = { s.pm with faultLatch := false } ∧ t.out = { s.out with pfw := false, tripo := false }
        ∧ t.walk = { s.walk with tripDue := none } ∧ Only [.pm, .out, .walk, .port, .irq, .ring] s t)
  ∧ (∀ (c : Cmd) (s : State), Runs 0x42 c s → s.pm.state = .ready → s.tripPersists = false → s.onreqEn = true →
      s.inp.onreq = true → s.onJoins = none → s.pm.offMinDue = none → s.out.passive = false → s.twin.hand.holds = false →
    Answers .clearCmd s fun t =>
      Answered c 0 [] s t ∧ t.pm.faultLatch = false ∧ FiresBy 0x10 s t ∧ t.out = { s.out with pfw := false, tripo := false }
        ∧ t.fault = s.fault)
  ∧ (∀ (c : Cmd) (s : State), Runs 0x42 c s → s.pm.state = .ready → s.tripPersists = false → s.onreqEn = true →
      s.inp.onreq = true → s.onJoins = none → s.pm.offMinDue ≠ none → s.twin.hand.holds = false →
    Answers .clearCmd s fun t =>
      Answered c 0 [] s t ∧ t.out = { s.out with pfw := false, tripo := false } ∧ t.fault = s.fault
        ∧ t.pm = { s.pm with faultLatch := false, onPending := if s.discardPending then s.pm.onPending else some 0x10 })
  ∧ (∀ (c : Cmd) (s : State), Runs 0x42 c s → s.pm.state = .ready → s.tripPersists = true →
    Answers .clearCmd s fun t => Answered c 0x41 [] s t ∧ Only [.port, .irq, .ring] s t)
  ∧ (∀ (c : Cmd) (s : State), Runs 0x42 c s → s.pm.state ≠ .ready →
    Answers .clearCmd s fun t => Answered c 0x40 [] s t ∧ Only [.port, .irq, .ring] s t)

/-- MARGIN by the trim path applies the level and is answered in the tick of execution; by the PMBus path it is accepted and its sequence
queued, refused with BUSY where four commands are queued on that port, and ended at once with pmb_result 2 where the path is not open (R164,
R287); outside Running, and while the rail is swept, it is refused. TIME_SET in Ready, Firing, Running and Cooling sets the time base to its
target, sets epoch_valid, leaves step pending or ahead for tracking, counts the step and raises CK_IRQ.step; one whose target lies below the
time stamp is refused (R312). STANDBY in Ready with nothing pending and no other command in flight powers the logic and log dies down with
every shard written and the wake timer set, and is refused else (R47, R218, Table 01.4); an armed comparator whose output was held, and
shows a fault as the hold ends with the entry, is a fault in Standby (WakeAndSupply). RESET in Ready is answered, and the reset is due
1 ms after its reply is queued; else it is refused. WRITE_REGS of class 1 and 2 and the rows that write one word are WordsByCommand's. The
model's choices: a RESET by the ring is due at once (log entry 36), and the fault queue is kept on entry to Standby (log entry 30). -/
def Obligations.ClassOneCommands : Prop :=
  (∀ (c : Cmd) (n level : Nat) (s : State), s.tablesOk = true → Runs 0x43 c s → s.pm.state = .running → byteAt c.payload 0 = n →
      byteAt c.payload 1 = level → level ≤ 2 → byteAt c.payload 2 = 0 → s.mg.sweep.rail ≠ some n →
    Answers .marginCmd s fun t =>
      Answered c 0 ([BitVec.ofNat 8 (s.trim n).pmb.toNat, 0, 0, 0] ++ leBytes 2 (s.trim n).vout.toNat
          ++ [BitVec.ofNat 8 (s.trim n).exponent.toNat, 0]) s t
        ∧ Trimmed n level (if level = 1 then s.marginHi n else if level = 2 then s.marginLo n else s.nominal n) s t
        ∧ Only [.mg, .port, .irq, .ring] s t)
  ∧ (∀ (c : Cmd) (n : Nat) (s : State), s.unitsOk = true → Runs 0x43 c s → s.pm.state = .running → byteAt c.payload 0 = n →
      byteAt c.payload 2 = 1 → s.mg.sweep.rail ≠ some n → (s.port2 (s.pmbPort n)).commands < 4 → s.seqBlocked n = none →
    Answers .marginCmd s fun t =>
      t.cmd? c.ring c.tag = some { c with phase := .accepted } ∧ (c.ring, c.tag) ∉ t.port.execq
        ∧ (∃ q ∈ (t.port2 (s.pmbPort n)).queue, q = {
            rail := n, level := byteAt c.payload 1, engine := none, cmd := some (c.ring, c.tag), done := 0, ending := false })
        ∧ (c.signReply = false → s.port.signing = [] → c.ring = false →
            t.port.replies = s.port.replies ++ [{ ring := false, tag := c.tag, bytes := s.replyTo c 1 [], keeps := true }])
        ∧ Only [.tw, .port, .ring] s t)
  ∧ (∀ (c : Cmd) (n : Nat) (s : State), Runs 0x43 c s → s.pm.state = .running → byteAt c.payload 0 = n → byteAt c.payload 2 = 1 →
      s.mg.sweep.rail ≠ some n → 4 ≤ (s.port2 (s.pmbPort n)).commands →
    Answers .marginCmd s fun t => Answered c 0x30 [] s t ∧ Only [.port, .irq, .ring] s t)
  ∧ (∀ (c : Cmd) (n : Nat) (s : State), Runs 0x43 c s → s.pm.state = .running → byteAt c.payload 0 = n → byteAt c.payload 2 = 1 →
      s.mg.sweep.rail ≠ some n → (s.port2 (s.pmbPort n)).commands < 4 → s.seqBlocked n ≠ none →
    Answers .marginCmd s fun t =>
      Answered c 0 ([2, 0, 0, 0] ++ leBytes 2 (s.trim n).vout.toNat ++ [BitVec.ofNat 8 (s.trim n).exponent.toNat, 0]) s t
        ∧ (t.trim n).pmb = 2 ∧ Only [.mg, .tw, .port, .irq, .ring] s t)
  ∧ (∀ (c : Cmd) (s : State), Runs 0x43 c s → (s.pm.state ≠ .running ∨ s.mg.sweep.rail = some (byteAt c.payload 0)) →
    Answers .marginCmd s fun t => Answered c 0x40 [] s t ∧ Only [.port, .irq, .ring] s t)
  ∧ (∀ (c : Cmd) (v : Nat) (s : State), Runs 0x47 c s → leAt c.payload 0 8 = v → s.pm.state.logs = true → s.clk.stamp ≤ v →
    Answers .timeSet s fun t =>
      Answered c 0 (leBytes 8 v) s t ∧ t.clk.stamp = v ∧ t.clk.slewLeft = 0 ∧ t.clk.epochValid = true
        ∧ t.clk.stepCount = inc 255 s.clk.stepCount
        ∧ t.clk.mode = (if s.clk.mode = .stepPending ∨ s.clk.mode = .ahead then .tracking else s.clk.mode)
        ∧ bit t.irq.ck 6 = true ∧ t.clk.now = s.clk.now ∧ t.clk.outs = s.clk.outs ∧ Only [.clk, .log, .port, .irq, .ring] s t)
  ∧ (∀ (c : Cmd) (s : State), Runs 0x47 c s → (s.pm.state.logs = false ∨ leAt c.payload 0 8 < s.clk.stamp) →
    Answers .timeSet s fun t => Answered c 0x40 [] s t ∧ Only [.port, .irq, .ring] s t)
  ∧ (∀ (c : Cmd) (s : State), Runs 0x44 c s → s.mayStandby c = true → (∀ x ∈ s.heldOuts, s.armed x = false) →
    Answers .standbyCmd s fun t =>
      t.pm.state = .standby ∧ t.pm.lastCause = 0x03 ∧ t.pm.logicPowered = false ∧ t.pm.portUp = false
        ∧ t.pm.wakeDue = (if fld (s.cfgAt 0x10018) 31 16 = 0 then none
            else some (s.clk.now + fld (s.cfgAt 0x10018) 31 16 * secondTicks))
        ∧ t.out.en = 0 ∧ t.out.enpu = false ∧ t.port.cmds = [] ∧ t.port.replies = [] ∧ t.log.buffer = [] ∧ t.cfgLoaded = s.cfgLoaded
        ∧ t.fault.queue = s.fault.queue ∧ t.pm.faultLatch = s.pm.faultLatch
        ∧ t.cfg = s.cfg ∧ t.sec.slots = s.sec.slots ∧ t.kiln.store = s.kiln.store ∧ t.kiln.sgStore = s.kiln.sgStore
        ∧ t.fault.tables = s.fault.tables ∧ t.fault.bisque = s.fault.bisque ∧ t.clk.now = s.clk.now)
  ∧ (∀ (c : Cmd) (s : State), Runs 0x44 c s → s.mayStandby c = false →
    Answers .standbyCmd s fun t => Answered c 0x40 [] s t ∧ Only [.port, .irq, .ring] s t)
  ∧ (∀ (c : Cmd) (s : State), Runs 0x45 c s → s.pm.state = .ready →
    Answers .resetCmd s fun t =>
      Answered c 0 [] s t ∧ t.pm = { s.pm with resetDue := t.pm.resetDue }
        ∧ (c.bcast = false → c.signReply = false → s.port.signing = [] →
            t.pm.resetDue = some (if c.ring then s.clk.now else s.clk.now + msTicks))
        ∧ (c.bcast = false → c.signReply = true → t.pm.resetDue = some s.clk.now ∧ t.resetUnsaid = true)
        ∧ Only [.pm, .port, .irq, .ring] s t)
  ∧ (∀ (c : Cmd) (s : State), Runs 0x45 c s → s.pm.state ≠ .ready →
    Answers .resetCmd s fun t => Answered c 0x40 [] s t ∧ Only [.port, .irq, .ring] s t)

/-- DRAIN to N, in Ready, Firing, Running and Cooling, moves LG_FA_DRAINED to N, flags the closed windows that lie wholly below it, and
captures the drain shard where the buffer has room (R193); one below LG_FA_DRAINED, above the archive's next seq or above the first copy of
an open window is refused, and one in another state. -/
def Obligations.DrainCommand : Prop :=
  (∀ (c : Cmd) (n : Nat) (s : State), Runs 0x46 c s → leAt c.payload 0 8 = n → s.pm.state.logs = true → s.log.drained ≤ n →
      n ≤ s.log.fa.next → (∀ e ∈ s.log.index, e.2.open_ = true → ∀ q, e.2.first = some q → n ≤ q) →
    Answers .drainCmd s fun t =>
      Answered c 0 (leBytes 8 n) s t ∧ t.log.drained = n
        ∧ t.log.index = s.log.index.map (fun e => (e.1, { e.2 with
            drained := e.2.drained || (!e.2.open_ && e.2.last.any (fun q => decide (q < n))) }))
        ∧ t.log.fa = s.log.fa ∧ t.log.fr = s.log.fr
        ∧ (s.log.buffer.length < 32 → t.log.buffer = s.log.buffer ++ [s.shardNow 0x0C 0 0
            ([c.signers] ++ List.replicate 7 0 ++ leBytes 8 n ++ leBytes 8 s.log.drained)])
        ∧ Only [.log, .port, .irq, .ring] s t)
  ∧ (∀ (c : Cmd) (s : State), Runs 0x46 c s → (s.pm.state.logs = false ∨ leAt c.payload 0 8 < s.log.drained
      ∨ s.log.fa.next < leAt c.payload 0 8 ∨ ∃ e ∈ s.log.index, e.2.open_ = true ∧ ∃ q, e.2.first = some q ∧ q < leAt c.payload 0 8) →
    Answers .drainCmd s fun t => Answered c 0x40 [] s t ∧ Only [.port, .irq, .ring] s t)

/-- The words of a WRITE_REGS or SAGGAR_WRITE are all judged before any is written, and the first that is refused decides the status, with no
word written (R348); a refusal that the sense die's bus interface would have dropped is counted in write_blocked (R240). Accepted words are
written in payload order, so that of two words for one register the later is left; a change of the configuration puts the new image digest
in force, and nothing is written where its confirmation fails (R211, R242). Alone in flight, the command is answered, one of class 2 or 3
with the image digest. REGISTER_WRITE writes one word by the same rules: a word of the configuration is left in its register, of every class;
one of a class 1 register that sets bits off clears them but for those set in that tick (R206, R349), and one with an effect acts as the row
of that effect does. FAIL_BIT_CLEAR clears the rail fail bits that it names (R115). The model's choices: what the row REGISTER_WRITE does not
tell of its command (log entry 52); that of class 0, of class 3 outside Ready and Running, and outside the states that accept commands it
writes nothing (log entry 40); that FAIL_BIT_CLEAR outside those states changes nothing (log entry 2). -/
def Obligations.WordsByCommand : Prop :=
  (∀ (b : Confirm) (i : Instr) (op : Nat) (k : Carrier) (c : Cmd) (st : Nat) (s : State), (i, op, k) ∈ wordRows b → Runs op c s →
      Allowed3 op c s → s.judgeWords k (payWords c.payload) = some st →
    Answers i s fun t =>
      Answered c st [] s t ∧ (st ≠ 0x41 → t.pwm = s.pwm)
        ∧ t.sec = (if st = 0x24 ∧ k ≠ .saggar ∧ s.aimsAtSaggar k (payWords c.payload) = true
            then { s.sec with writeBlocked := inc 65535 s.sec.writeBlocked } else s.sec)
        ∧ Only [.port, .irq, .ring, .log, .pwm, .sec] s t)
  ∧ (∀ (b : Confirm) (i : Instr) (op : Nat) (k : Carrier) (c : Cmd) (s : State), (i, op, k) ∈ wordRows b → Runs op c s →
      Allowed3 op c s → s.judgeWords k (payWords c.payload) = none →
      (changedCfg (s.writeAll (payWords c.payload)).2 = true → s.confirms c b = true) →
    Answers i s fun t =>
      t.cfg = (s.writeAll (payWords c.payload)).1.cfg
        ∧ (changedCfg (s.writeAll (payWords c.payload)).2 = true →
            PartitionPut { s.sec with imageDigest := (s.writeAll (payWords c.payload)).1.imageNow } t)
        ∧ (changedCfg (s.writeAll (payWords c.payload)).2 = false → t.sec = s.sec)
        ∧ (s.port.cmds = [c] → Answered c 0 (if c.cls = 1 then [] else digestBytes t.sec.imageDigest) s t)
        ∧ t.ident = s.ident ∧ t.inp = s.inp ∧ t.kiln.store = s.kiln.store ∧ t.kiln.sgStore = s.kiln.sgStore
        ∧ t.fault.tables = s.fault.tables ∧ t.log.fr = s.log.fr ∧ t.log.fa = s.log.fa)
  ∧ (∀ (b : Confirm) (i : Instr) (op : Nat) (k : Carrier) (c : Cmd) (xs ys : List (Nat × Word)) (a : Nat) (v : Word) (r : Reg) (s : State),
      (i, op, k) ∈ wordRows b → Runs op c s → Allowed3 op c s → s.cfgLoaded = true → s.sgLoaded = true →
      s.judgeWords k (payWords c.payload) = none →
      (changedCfg (s.writeAll (payWords c.payload)).2 = true → s.confirms c b = true) →
      payWords c.payload = xs ++ (a, v) :: ys → regAt a = some r → r.row.keep ≠ .view → r.row.id ≠ .pwChShadow →
      (∀ w ∈ ys, regAt w.1 ≠ some r) →
    Answers i s fun t => rawReg t r &&& r.row.rw = v &&& r.row.rw)
  ∧ (∀ (b : Confirm) (i : Instr) (op : Nat) (k : Carrier) (c : Cmd) (s : State), (i, op, k) ∈ wordRows b → Runs op c s →
      Allowed3 op c s → s.judgeWords k (payWords c.payload) = none → changedCfg (s.writeAll (payWords c.payload)).2 = true →
      s.confirms c b = false →
    Answers i s fun t =>
      Answered c 0x7F [] s t ∧ t.sec = { s.sec with confirmFail := inc 255 s.sec.confirmFail } ∧ Only [.port, .irq, .ring, .sec] s t)
  ∧ (∀ (b : Confirm) (c : Cmd) (s : State), Runs 0x48 c s → c.cls = 1 → s.port.cmds = [c] → s.judgeWords .class1 (payWords c.payload) = none →
      (changedCfg (s.writeAll (payWords c.payload)).2 = true → s.confirms c b = true) →
    Answers (.writeRegsClass1 b) s fun t => Answered c 0 [] s t ∧ t.cfg = (s.writeAll (payWords c.payload)).1.cfg)
  ∧ (∀ (b : Confirm) (c : Cmd) (s : State), Runs 0x88 c s → c.cls = 2 → s.port.cmds = [c] → s.judgeWords .class2 (payWords c.payload) = none →
      (changedCfg (s.writeAll (payWords c.payload)).2 = true → s.confirms c b = true) →
    Answers (.writeRegsClass2 b) s fun t =>
      Answered c 0 (digestBytes t.sec.imageDigest) s t ∧ t.cfg = (s.writeAll (payWords c.payload)).1.cfg
        ∧ (s.pm.state.logs = true → s.log.buffer.length < 32 → ∃ x ∈ t.log.buffer, x.kind = 7 ∧ x.event.take 2 = [c.op, c.signers]))
  ∧ (∀ (cls : BitVec 2) (k : Carrier) (a v : Word) (r : Reg) (s : State), RowRuns cls k s →
      s.cfgLoaded = true → s.sgLoaded = true → addrOk a.toNat = true → regAt a.toNat = some r → r.row.keep ≠ .view →
      s.judgeWord k a.toNat v = none →
    Answers (.registerWrite cls a v) s fun t =>
      rawReg t r &&& r.row.rw = v &&& r.row.rw ∧ (∀ q, q ≠ a.toNat → Tab.get? t.cfg q = Tab.get? s.cfg q)
        ∧ (s.changes r v ≠ 0 → t.sec.imageDigest = (s.writeAll [(a.toNat, v)]).1.imageNow ∧ PartitionPut { s.sec with
            imageDigest := t.sec.imageDigest } t)
        ∧ t.sec.slots = s.sec.slots ∧ t.port.execq = s.port.execq ∧ t.kiln.store = s.kiln.store ∧ t.fault.tables = s.fault.tables)
  ∧ (∀ (cls : BitVec 2) (k : Carrier) (a v : Word) (st : Nat) (ok : Bool) (s : State), RowRuns cls k s → addrOk a.toNat = true →
      s.judgeWord k a.toNat v = some st →
    Answers (.registerWrite cls a v ok) s fun t =>
      t.sec = { s.sec with writeBlocked := t.sec.writeBlocked } ∧ (st ≠ 0x24 → t.sec = s.sec) ∧ (st ≠ 0x41 → t.pwm = s.pwm)
        ∧ (st = 0x24 → t.port.secQuorum = inc 255 s.port.secQuorum ∧ bit t.irq.cm 1 = true ∧ (s.log.buffer.length < 32 →
            ∃ x ∈ t.log.buffer, x.kind = 6 ∧ x.event.take 3 = [0x24, rowOp cls.toNat, BitVec.ofNat 8 cls.toNat]))
        ∧ Only [.sec, .pwm, .port, .irq, .log, .free] s t)
  ∧ (∀ (cls : BitVec 2) (k : Carrier) (a v : Word) (ok : Bool) (s : State), RowRuns cls k s → addrOk a.toNat = false →
    Answers (.registerWrite cls a v ok) s fun t => t.port.framing = inc 255 s.port.framing ∧ bit t.irq.cm 0 = true
      ∧ Only [.port, .irq] s t)
  ∧ (∀ (cls : BitVec 2) (k : Carrier) (a v : Word) (r : Reg) (s : State), RowRuns cls k s → addrOk a.toNat = true →
      regAt a.toNat = some r → r.row.keep ≠ .view → s.judgeWord k a.toNat v = none → s.changes r v ≠ 0 →
    Answers (.registerWrite cls a v false) s fun t =>
      t.sec = { s.sec with confirmFail := inc 255 s.sec.confirmFail } ∧ Only [.sec] s t)
  ∧ (∀ (a v : Word) (i : Instr) (s : State), s.pm.state.logs = true → s.judgeWord .class1 a.toNat v = none → OneWord a v i s →
    Answers (.registerWrite 1 a v) s fun t => exec i s = .next t)
  ∧ (∀ (a v : Word) (r : Reg) (s : State), s.pm.state.logs = true → s.judgeWord .class1 a.toNat v = none → regAt a.toNat = some r →
      r.row.id ∈ [RegId.pmResetCause, .ctIrq, .lgIrq, .cmIrq, .glIrq, .twIrq, .ckXingErr, .ckXingOvf, .ckIrq, .pwIrq] →
    Answers (.registerWrite 1 a v) s fun t =>
      t.content r &&& r.row.w1c = s.content r &&& r.row.w1c &&& ~~~(v &&& ~~~(s.pwSettle.justSet a.toNat)) ∧ Only [.pm, .irq, .clk, .pwm] s t)
  ∧ (∀ (e : Enum) (s : State), s.pm.state.logs = true → s.ring.enum = some e → s.judgeWord .class1 0xA0028 2 = none →
    Answers (.registerWrite 1 0xA0028 2) s fun t => t.ring = { s.ring with enum := some { e with again := true } } ∧ Only [.ring] s t)
  ∧ (∀ (cls : BitVec 2) (a v : Word) (s : State), (cls = 0 ∨ s.pm.state.logs = false ∨ (cls = 3 ∧ s.readyOrRunning = false)) →
    Answers (.registerWrite cls a v) s fun t => t = s)
  ∧ (∀ (high : Bool) (bits : Word) (s : State), s.pm.state.logs = true →
    Answers (.failBitClear high bits) s fun t =>
      t.kiln.failBits = s.kiln.failBits
          &&& ~~~(BitVec.ofNat 64 (bits.toNat <<< (if high then 32 else 0)) &&& ~~~s.openTick.kiln.tick.failSet)
        ∧ t.kiln.engines = s.kiln.engines ∧ t.kiln.eventFlags = s.kiln.eventFlags ∧ t.kiln.store = s.kiln.store ∧ Only [.kiln] s t)
  ∧ (∀ (high : Bool) (bits : Word) (s : State), s.pm.state.logs = false → Answers (.failBitClear high bits) s fun t => t = s)

/-- PROGRAM_LOAD in Ready or Running writes its steps from its start address and no other word, the digests following (R126, R211); a word that
its checks refuse, or another state, refuses the whole load, and KL_LOAD_STATUS holds the reason, with the word's address where it lies in
the store and else a free value (log entry 7); that the first failing word decides, be it inside the store or past its end, is the model's
choice (log entry 56). SAGGAR_PROGRAM_LOAD does the same with the Saggar store and SG_LOAD_STATUS (R246, Table 09.8).
TABLE_LOAD puts a table of at most 64 legal entries in force without the hard attribute, and refuses one that names an H table with
CLASS_MISMATCH; HTABLE_LOAD gives the table the attribute that its payload states, and does not take it from a table that is named hard (R133,
R141). A load whose confirmation fails is refused and counted. That the H table is judged before the state (log entry 40), and that a command
of more than 64 entries, which stage 3 answers with BAD_LENGTH (R210), would be refused with STATE_REFUSED if it came this far (log entry
53), are the model's choices. -/
def Obligations.ProgramAndTableLoads : Prop :=
  (∀ (b : Confirm) (c : Cmd) (s : State), s.tablesOk = true → Runs 0x80 c s → s.readyOrRunning = true →
      (∀ e ∈ loadWords c.payload, loadReason e = 0) →
      (s.kiln.store ≠ (s.loadSteps (loadWords c.payload)).kiln.store → s.confirms c b = true) →
    Answers (.programLoad b) s fun t =>
      Answered c 0 (digestBytes t.storeDigest) s t
        ∧ (∀ i, i < leAt c.payload 2 2 → Tab.getD t.kiln.store (leAt c.payload 0 2 + i) 0 = BitVec.ofNat 64 (leAt c.payload (8 + 8 * i) 8))
        ∧ (∀ a, a < leAt c.payload 0 2 ∨ leAt c.payload 0 2 + leAt c.payload 2 2 ≤ a →
            Tab.getD t.kiln.store a 0 = Tab.getD s.kiln.store a 0)
        ∧ t.kiln = { s.kiln with store := t.kiln.store }
        ∧ PartitionPut { s.sec with imageDigest := t.imageNow } t
        ∧ Only [.kiln, .sec, .log, .port, .irq, .ring] s t)
  ∧ (∀ (b : Confirm) (c : Cmd) (xs ys : List (Nat × Step64)) (a : Nat) (w : Step64) (s : State), Runs 0x80 c s → s.readyOrRunning = true →
      loadWords c.payload = xs ++ (a, w) :: ys → (∀ e ∈ xs, loadReason e = 0) → loadReason (a, w) ≠ 0 →
    Answers (.programLoad b) s fun t =>
      Answered c 0x40 [] s t ∧ t.kiln = { s.kiln with loadReason := loadReason (a, w), loadAddr := t.kiln.loadAddr }
        ∧ (a ≤ 0xFFF → t.kiln.loadAddr = a) ∧ Only [.kiln, .free, .port, .irq, .ring] s t)
  ∧ (∀ (b : Confirm) (c : Cmd) (s : State), Runs 0x80 c s → s.readyOrRunning = false →
    Answers (.programLoad b) s fun t =>
      Answered c 0x40 [] s t ∧ t.kiln = { s.kiln with loadReason := 4, loadAddr := t.kiln.loadAddr }
        ∧ Only [.kiln, .free, .port, .irq, .ring] s t)
  ∧ (∀ (b : Confirm) (c : Cmd) (s : State), Runs 0x80 c s → s.readyOrRunning = true → (∀ e ∈ loadWords c.payload, loadReason e = 0) →
      s.kiln.store ≠ (s.loadSteps (loadWords c.payload)).kiln.store → s.confirms c b = false →
    Answers (.programLoad b) s fun t =>
      Answered c 0x7F [] s t ∧ t.sec = { s.sec with confirmFail := inc 255 s.sec.confirmFail } ∧ Only [.port, .irq, .ring, .sec] s t)
  ∧ (∀ (b : Confirm) (c : Cmd) (s : State), s.tablesOk = true → Runs 0xC5 c s → c.boot = false → s.readyOrRunning = true →
      (∀ e ∈ loadWords c.payload, s.sgLoadReason e = 0) →
      (s.kiln.sgStore ≠ (s.loadSgSteps (loadWords c.payload)).kiln.sgStore → s.confirms c b = true) →
    Answers (.saggarProgramLoad b) s fun t =>
      Answered c 0 (digestBytes t.sgStoreDigest) s t
        ∧ (∀ i, i < leAt c.payload 2 2 →
            Tab.getD t.kiln.sgStore (leAt c.payload 0 2 + i) 0 = BitVec.ofNat 64 (leAt c.payload (8 + 8 * i) 8))
        ∧ (∀ a, a < leAt c.payload 0 2 ∨ leAt c.payload 0 2 + leAt c.payload 2 2 ≤ a →
            Tab.getD t.kiln.sgStore a 0 = Tab.getD s.kiln.sgStore a 0)
        ∧ t.kiln = { s.kiln with sgStore := t.kiln.sgStore }
        ∧ PartitionPut { s.sec with imageDigest := t.imageNow } t
        ∧ Only [.kiln, .sec, .log, .port, .irq, .ring] s t)
  ∧ (∀ (b : Confirm) (c : Cmd) (xs ys : List (Nat × Step64)) (a : Nat) (w : Step64) (s : State), Runs 0xC5 c s → c.boot = false →
      s.readyOrRunning = true → loadWords c.payload = xs ++ (a, w) :: ys → (∀ e ∈ xs, s.sgLoadReason e = 0) → s.sgLoadReason (a, w) ≠ 0 →
    Answers (.saggarProgramLoad b) s fun t =>
      Answered c 0x40 [] s t
        ∧ t.kiln = { s.kiln with sgLoadReason := s.sgLoadReason (a, w), sgLoadAddr := t.kiln.sgLoadAddr }
        ∧ (a ≤ 0x1FF → t.kiln.sgLoadAddr = a) ∧ Only [.kiln, .free, .port, .irq, .ring] s t)
  ∧ (∀ (b : Confirm) (c : Cmd) (s : State), Runs 0xC5 c s → c.boot = false → s.readyOrRunning = false →
    Answers (.saggarProgramLoad b) s fun t =>
      Answered c 0x40 [] s t ∧ t.kiln = { s.kiln with sgLoadReason := 4, sgLoadAddr := t.kiln.sgLoadAddr }
        ∧ Only [.kiln, .free, .port, .irq, .ring] s t)
  ∧ (∀ (b : Confirm) (c : Cmd) (n : Nat) (s : State), s.unitsOk = true → Runs 0x81 c s → byteAt c.payload 0 = n → n < 8 →
      byteAt c.payload 1 ≤ 64 → s.isHTable n = false →
      s.readyOrRunning = true → (paySteps c.payload (byteAt c.payload 1)).all entLegal = true →
      (nth s.fault.tables n {} ≠ { hard := false, entries := paySteps c.payload (byteAt c.payload 1) } → s.confirms c b = true) →
    Answers (.tableLoad b) s fun t =>
      Answered c 0 (digestBytes t.imageNow) s t ∧ PartitionPut { s.sec with imageDigest := t.imageNow } t
        ∧ nth t.fault.tables n {} = { hard := false, entries := paySteps c.payload (byteAt c.payload 1) }
        ∧ (∀ m, m ≠ n → nth t.fault.tables m {} = nth s.fault.tables m {}) ∧ t.fault = { s.fault with tables := t.fault.tables }
        ∧ Only [.fault, .sec, .log, .port, .irq, .ring] s t)
  ∧ (∀ (b : Confirm) (c : Cmd) (s : State), Runs 0x81 c s → s.isHTable (byteAt c.payload 0) = true →
    Answers (.tableLoad b) s fun t => Answered c 0x24 [] s t ∧ Only [.port, .irq, .ring, .log] s t)
  ∧ (∀ (b : Confirm) (c : Cmd) (s : State), Runs 0x81 c s → s.isHTable (byteAt c.payload 0) = false →
      (s.readyOrRunning = false ∨ 64 < byteAt c.payload 1 ∨ (paySteps c.payload (byteAt c.payload 1)).all entLegal = false) →
    Answers (.tableLoad b) s fun t => Answered c 0x40 [] s t ∧ Only [.port, .irq, .ring] s t)
  ∧ (∀ (b : Confirm) (c : Cmd) (n : Nat) (h : Bool) (s : State), s.unitsOk = true → Runs 0xC6 c s → c.boot = false → byteAt c.payload 0 = n →
      n < 8 → byteAt c.payload 1 ≤ 64 → (h = true ↔ byteAt c.payload 2 = 1) → s.readyOrRunning = true →
      (paySteps c.payload (byteAt c.payload 1)).all entLegal = true → (h = true ∨ s.isHTable n = false ∨ s.namedHard n = false) →
      (nth s.fault.tables n {} ≠ { hard := h, entries := paySteps c.payload (byteAt c.payload 1) } → s.confirms c b = true) →
    Answers (.htableLoad b) s fun t =>
      Answered c 0 (digestBytes t.imageNow) s t ∧ PartitionPut { s.sec with imageDigest := t.imageNow } t
        ∧ nth t.fault.tables n {} = { hard := h, entries := paySteps c.payload (byteAt c.payload 1) }
        ∧ (∀ m, m ≠ n → nth t.fault.tables m {} = nth s.fault.tables m {}) ∧ t.fault = { s.fault with tables := t.fault.tables }
        ∧ Only [.fault, .sec, .log, .port, .irq, .ring] s t)
  ∧ (∀ (b : Confirm) (c : Cmd) (s : State), Runs 0xC6 c s → c.boot = false → (s.readyOrRunning = false ∨ 64 < byteAt c.payload 1
      ∨ (paySteps c.payload (byteAt c.payload 1)).all entLegal = false
      ∨ (s.isHTable (byteAt c.payload 0) = true ∧ byteAt c.payload 2 ≠ 1 ∧ s.namedHard (byteAt c.payload 0) = true)) →
    Answers (.htableLoad b) s fun t => Answered c 0x40 [] s t ∧ Only [.port, .irq, .ring] s t)

/-- BISQUE_CLEAR in Ready or Running empties the bisque record and the first-fault record, counts, and answers with the count, the former
content staying in the slot that is no longer current (R194, R196); in another state it is refused. -/
def Obligations.BisqueClear : Prop :=
  (∀ (c : Cmd) (s : State), Runs 0x82 c s → s.readyOrRunning = true →
    Answers .bisqueClear s fun t =>
      Answered c 0 (leBytes 2 (s.fault.bisque.clears + 1).toNat) s t
        ∧ t.fault = { s.fault with
            bisque := { clears := s.fault.bisque.clears + 1 }, bisqueOther := s.fault.bisque, bisqueMark := !s.fault.bisqueMark
            first := none }
        ∧ Only [.fault, .port, .irq, .ring] s t)
  ∧ (∀ (c : Cmd) (s : State), Runs 0x82 c s → s.readyOrRunning = false →
    Answers .bisqueClear s fun t => Answered c 0x40 [] s t ∧ Only [.port, .irq, .ring] s t)

/-- TAKE_OWNERSHIP of an un-owned device in Ready inside its ownership window, confirmed by the sense die, fills slot 0, sets the owner
fingerprint and the epoch, and spoils the commands past stage 4 that name the slot; else it is refused (R229, R235). KEY_SLOT_WRITE fills its
slot and gives it the highest held counter; KEY_SLOT_CLEAR empties it and keeps its counter; QUORUM_SET writes m and the eligible mask; each
leaves a class 3 quorum possible, or is refused (R228, R236, Table 09.4). DECOMMISSION in Ready, or in Starting after a start-up failure,
empties the key table and the ownership, sets m to 2 and the eligible mask to 0x07, closes the ownership window, and keeps every held counter
and the epoch (R237). Every change of the partition goes into both copies of the store (R239, log entry 60). That a key slot keeps its count
of bad signatures when it is written or cleared is the model's choice (log entry 39). -/
def Obligations.KeysAndOwnership : Prop :=
  (∀ (k : Confirm) (c : Cmd) (s : State), s.unitsOk = true → Runs 0xC0 c s → s.mayOwn c = true → s.confirms c k = true →
    Answers (.takeOwnership k) s fun t =>
      Answered c 0 (digestBytes (sha3 (ascii "SKV6400-OWNER" ++ leBytes 32 (payEd c.payload).toNat ++ payMl c.payload))) s t
        ∧ t.sec.owned = true ∧ t.sec.ownerFp = sha3 (ascii "SKV6400-OWNER" ++ leBytes 32 (payEd c.payload).toNat ++ payMl c.payload)
        ∧ t.sec.epoch = inc 65535 s.sec.epoch ∧ t.sec.windowDue = none
        ∧ (nth t.sec.slots 0 {}).filled = true ∧ (nth t.sec.slots 0 {}).role = 7 ∧ (nth t.sec.slots 0 {}).ed = payEd c.payload
        ∧ (nth t.sec.slots 0 {}).ml = payMl c.payload ∧ t.heldCounter 0 = max (s.heldCounter 0) c.counter
        ∧ (∀ i, i ≠ 0 → nth t.sec.slots i {} = nth s.sec.slots i {}) ∧ t.sec.m = s.sec.m ∧ t.sec.eligible = s.sec.eligible
        ∧ (∀ d ∈ t.port.cmds, d.phase = .counting → bit d.signers 0 = true → d.spoiled = true)
        ∧ Only [.sec, .log, .port, .irq, .ring, .tw, .twEnded, .mg] s t)
  ∧ (∀ (k : Confirm) (c : Cmd) (s : State), Runs 0xC0 c s → s.mayOwn c = false →
    Answers (.takeOwnership k) s fun t => Answered c 0x40 [] s t ∧ Only [.port, .irq, .ring] s t)
  ∧ (∀ (c : Cmd) (s : State), s.mayOwn c = true ↔ s.sec.owned = false ∧ s.pm.state = .ready ∧ s.sec.windowDue.isSome = true
      ∧ c.signers = 1 ∧ byteAt c.payload 1 = 7)
  ∧ (∀ (k : Confirm) (c : Cmd) (i : Nat) (s : State), s.unitsOk = true → Runs 0xC1 c s → s.readyOrRunning = true → byteAt c.payload 0 = i →
      i < 8 → s.sec.keyTaken i (payEd c.payload) (payMl c.payload) = false → s.sec.keepsQuorum (s.sec.withKey c.payload) = true →
      s.confirms c k = true →
    Answers (.keySlotWrite k) s fun t =>
      Answered c 0 (digestBytes t.sec.keyDigest) s t
        ∧ nth t.sec.slots i {} = { nth s.sec.slots i {} with
            filled := true, role := BitVec.ofNat 8 (byteAt c.payload 1), ed := payEd c.payload, ml := payMl c.payload
            counter := s.sec.slots.foldl (fun m k => max m k.counter) 0 }
        ∧ (∀ j, j ≠ i → nth t.sec.slots j {} = nth s.sec.slots j {})
        ∧ PartitionPut { s.sec with slots := t.sec.slots } t
        ∧ (∀ d ∈ t.port.cmds, d.phase = .counting → bit d.signers i = true → d.spoiled = true)
        ∧ Only [.sec, .log, .port, .irq, .ring] s t)
  ∧ (∀ (k : Confirm) (c : Cmd) (s : State), Runs 0xC1 c s → (s.readyOrRunning = false
      ∨ s.sec.keyTaken (byteAt c.payload 0) (payEd c.payload) (payMl c.payload) = true
      ∨ s.sec.keepsQuorum (s.sec.withKey c.payload) = false) →
    Answers (.keySlotWrite k) s fun t => Answered c 0x40 [] s t ∧ Only [.port, .irq, .ring] s t)
  ∧ (∀ (k : Confirm) (c : Cmd) (i : Nat) (s : State), s.unitsOk = true → Runs 0xC2 c s → c.boot = false → s.readyOrRunning = true →
      byteAt c.payload 0 = i → i < 8 → (nth s.sec.slots i {}).filled = true → (s.sec.withoutKey i).bootstrap = false →
      (s.sec.withoutKey i).hasClass3 = true → s.confirms c k = true →
    Answers (.keySlotClear k) s fun t =>
      Answered c 0 (digestBytes t.sec.keyDigest) s t
        ∧ nth t.sec.slots i {} = { counter := (nth s.sec.slots i {}).counter, badSig := (nth s.sec.slots i {}).badSig }
        ∧ (∀ j, j ≠ i → nth t.sec.slots j {} = nth s.sec.slots j {})
        ∧ PartitionPut { s.sec with slots := t.sec.slots } t
        ∧ Only [.sec, .log, .port, .irq, .ring] s t)
  ∧ (∀ (k : Confirm) (c : Cmd) (s : State), Runs 0xC2 c s → c.boot = false → (s.readyOrRunning = false
      ∨ (nth s.sec.slots (byteAt c.payload 0) {}).filled = false ∨ (s.sec.withoutKey (byteAt c.payload 0)).bootstrap = true
      ∨ (s.sec.withoutKey (byteAt c.payload 0)).hasClass3 = false) →
    Answers (.keySlotClear k) s fun t => Answered c 0x40 [] s t ∧ Only [.port, .irq, .ring] s t)
  ∧ (∀ (k : Confirm) (c : Cmd) (s : State), Runs 0xC3 c s → s.readyOrRunning = true →
      ({ s.sec with m := byteAt c.payload 0, eligible := BitVec.ofNat 8 (byteAt c.payload 1) } : Sec).bootstrap = false →
      s.confirms c k = true →
    Answers (.quorumSet k) s fun t =>
      Answered c 0 (digestBytes t.sec.keyDigest) s t
        ∧ PartitionPut { s.sec with m := byteAt c.payload 0, eligible := BitVec.ofNat 8 (byteAt c.payload 1) } t
        ∧ Only [.sec, .log, .port, .irq, .ring] s t)
  ∧ (∀ (k : Confirm) (c : Cmd) (s : State), Runs 0xC3 c s → (s.readyOrRunning = false
      ∨ ({ s.sec with m := byteAt c.payload 0, eligible := BitVec.ofNat 8 (byteAt c.payload 1) } : Sec).bootstrap = true) →
    Answers (.quorumSet k) s fun t => Answered c 0x40 [] s t ∧ Only [.port, .irq, .ring] s t)
  ∧ (∀ (k : Confirm) (c : Cmd) (s : State), s.unitsOk = true → Runs 0xCA c s → (s.pm.state = .ready ∨ s.failedStart = true) →
      s.confirms c k = true →
    Answers (.decommission k) s fun t =>
      Answered c 0 [] s t ∧ t.sec.owned = false ∧ t.sec.ownerFp = 0 ∧ t.sec.m = 2 ∧ t.sec.eligible = 7 ∧ t.sec.epoch = s.sec.epoch
        ∧ (∀ i, (nth t.sec.slots i {}).filled = false ∧ t.heldCounter i = s.heldCounter i)
        ∧ PartitionPut { s.sec with
            slots := t.sec.slots, m := 2, eligible := 7, ownerFp := 0, owned := false, windowDue := none } t
        ∧ (∀ d ∈ t.port.cmds, d.phase = .counting → (∃ i, i < 8 ∧ bit d.signers i = true) → d.spoiled = true)
        ∧ Only [.sec, .log, .port, .irq, .ring, .tw, .twEnded, .mg] s t)
  ∧ (∀ (k : Confirm) (c : Cmd) (s : State), Runs 0xCA c s → s.pm.state ≠ .ready → s.failedStart = false →
    Answers (.decommission k) s fun t => Answered c 0x40 [] s t ∧ Only [.port, .irq, .ring] s t)

/-- CALIBRATION_WRITE in Ready, confirmed by the sense die, puts its 240 words in force with their digest, the overwritten flag and the epoch;
in another state it is refused (R173). In bootstrap the class 3 opcodes but TAKE_OWNERSHIP, KEY_SLOT_WRITE, QUORUM_SET and DECOMMISSION are
refused (R226). A change of keys, quorum, ownership or calibration whose confirmation fails is refused with INTERNAL, counted, and changes
nothing else (R241). -/
def Obligations.CalibrationAndConfirmation : Prop :=
  (∀ (k : Confirm) (c : Cmd) (s : State), Runs 0xC7 c s → c.boot = false → s.pm.state = .ready → s.confirms c k = true →
    Answers (.calibrationWrite k) s fun t =>
      Answered c 0 (digestBytes t.mg.calDigest) s t
        ∧ (∀ i, i < 240 → Tab.getD t.mg.cal i 0 = BitVec.ofNat 32 (leAt c.payload (4 * i) 4))
        ∧ t.mg.calDigest = sha3 (calBytes t.mg.cal) ∧ t.mg.overwritten = true ∧ t.mg.calEpoch = inc 65535 s.mg.calEpoch
        ∧ t.mg.trims = s.mg.trims ∧ t.mg.sweep = s.mg.sweep
        ∧ PartitionPut { s.sec with imageDigest := t.imageNow } t
        ∧ Only [.sense, .mg, .sec, .log, .port, .irq, .ring] s t)
  ∧ (∀ (k : Confirm) (c : Cmd) (s : State), Runs 0xC7 c s → c.boot = false → s.pm.state ≠ .ready →
    Answers (.calibrationWrite k) s fun t => Answered c 0x40 [] s t ∧ Only [.port, .irq, .ring] s t)
  ∧ (∀ (k : Confirm) (i : Instr) (op : Nat) (c : Cmd) (s : State), (i, op) ∈ [(Instr.keySlotClear k, 0xC2), (.saggarWrite k, 0xC4),
      (.saggarProgramLoad k, 0xC5), (.htableLoad k, 0xC6), (.calibrationWrite k, 0xC7), (.writeRegsClass3 k, 0xC8), (.imageLoad k, 0xC9)] →
      Runs op c s → c.boot = true →
    Answers i s fun t => Answered c 0x40 [] s t ∧ Only [.port, .irq, .ring] s t)
  ∧ (∀ (k : Confirm) (i : Instr) (c : Cmd) (s : State),
      (i = .takeOwnership k ∧ Runs 0xC0 c s ∧ s.mayOwn c = true
        ∨ i = .keySlotWrite k ∧ Runs 0xC1 c s ∧ s.readyOrRunning = true
            ∧ s.sec.keyTaken (byteAt c.payload 0) (payEd c.payload) (payMl c.payload) = false
            ∧ s.sec.keepsQuorum (s.sec.withKey c.payload) = true
        ∨ i = .keySlotClear k ∧ Runs 0xC2 c s ∧ c.boot = false ∧ s.readyOrRunning = true
            ∧ (nth s.sec.slots (byteAt c.payload 0) {}).filled = true ∧ (s.sec.withoutKey (byteAt c.payload 0)).bootstrap = false
            ∧ (s.sec.withoutKey (byteAt c.payload 0)).hasClass3 = true
        ∨ i = .quorumSet k ∧ Runs 0xC3 c s ∧ s.readyOrRunning = true
            ∧ ({ s.sec with m := byteAt c.payload 0, eligible := BitVec.ofNat 8 (byteAt c.payload 1) } : Sec).bootstrap = false
        ∨ i = .calibrationWrite k ∧ Runs 0xC7 c s ∧ c.boot = false ∧ s.pm.state = .ready
        ∨ i = .decommission k ∧ Runs 0xCA c s ∧ (s.pm.state = .ready ∨ s.failedStart = true)) →
      s.confirms c k = false →
    Answers i s fun t =>
      Answered c 0x7F [] s t ∧ t.sec = { s.sec with confirmFail := inc 255 s.sec.confirmFail } ∧ Only [.sec, .port, .irq, .ring] s t)
  ∧ (∀ (k : Confirm) (c : Cmd) (s : State), s.confirms c k = true ↔ k.digest = s.digest c
      ∧ (c.op = 0xC0 → bit k.verified 0 = true ∧ s.counterAbove c (List.range 8) = true)
      ∧ (c.op ≠ 0xC0 → c.table.met c = true ∧ (∀ i ∈ c.table.counts c, bit k.verified i = true)
          ∧ ∀ i ∈ c.counted, c.counter ≤ s.heldCounter i))

/-- The parts of an image are collected in order, each within 1 s of the one before (R276). The last, confirmed by the sense die, puts an image
whose sections pass in force: in Ready with the image digest, after a start-up failure with a reset 1 ms after its final reply is queued. A
part out of order, or an image that does not pass, is refused with nothing changed but the end of the collection, and so is every part
outside Ready and a failed start. An image of one part is judged as the last part is. The model's choices (log entry 41): the 1 s counts from
a part's execution; a part that takes the collection above 20 MiB is refused and ends it, and so does an image that does not pass; and the
reset after an image sets no bit of PM_RESET_CAUSE. With no collection, or no such reset due, the rows of their ends change nothing (log
entry 2). -/
def Obligations.ImageLoading : Prop :=
  (∀ (k : Confirm) (c : Cmd) (s : State), Runs 0xC9 c s → c.boot = false → (s.pm.state = .ready ∨ s.failedStart = true) →
      leAt c.payload 0 2 = 0 → 1 < leAt c.payload 2 2 → c.payload.length ≤ 4104 →
    Answers (.imageLoad k) s fun t =>
      Answered c 0 [] s t ∧ t.port.image = some {
          parts := leAt c.payload 2 2, next := 1, bytes := c.payload.drop 8, due := s.clk.now + secondTicks }
        ∧ Only [.port, .irq, .ring] s t)
  ∧ (∀ (k : Confirm) (c : Cmd) (x : ImageLoad) (s : State), Runs 0xC9 c s → c.boot = false → (s.pm.state = .ready ∨ s.failedStart = true) →
      s.port.image = some x → leAt c.payload 0 2 = x.next → leAt c.payload 2 2 = x.parts → 0 < x.next → x.next + 1 < x.parts →
      (x.bytes ++ c.payload.drop 8).length ≤ 20971520 →
    Answers (.imageLoad k) s fun t =>
      Answered c 0 [] s t ∧ t.port.image = some { x with
          next := x.next + 1, bytes := x.bytes ++ c.payload.drop 8, due := s.clk.now + secondTicks }
        ∧ Only [.port, .irq, .ring] s t)
  ∧ (∀ (k : Confirm) (c : Cmd) (s : State), Runs 0xC9 c s → c.boot = false → leAt c.payload 0 2 ≠ 0 →
      (∀ x, s.port.image = some x → x.next ≠ leAt c.payload 0 2 ∨ x.parts ≠ leAt c.payload 2 2) →
    Answers (.imageLoad k) s fun t =>
      Answered c 0x40 [] s t ∧ t.port.image = s.port.image ∧ Only [.port, .irq, .ring] s t)
  ∧ (∀ (k : Confirm) (c : Cmd) (s : State), Runs 0xC9 c s → c.boot = false → s.pm.state ≠ .ready → s.failedStart = false →
    Answers (.imageLoad k) s fun t => Answered c 0x40 [] s t ∧ t.port.image = s.port.image ∧ Only [.port, .irq, .ring] s t)
  ∧ (∀ (k : Confirm) (c : Cmd) (bytes : List Byte) (s : State), Runs 0xC9 c s → c.boot = false → (s.pm.state = .ready ∨ s.failedStart = true) →
      LastPart bytes c s → bytes.length ≤ 20971520 →
    Answers (.imageLoad k) s fun t =>
      t.port.image = none
        ∧ (∀ x, parseImage bytes = some x → s.imageOk x = true → s.confirms c k = true → s.pm.state = .ready →
            s.tablesOk = true → s.unitsOk = true →
            (∀ r ∈ cfgRegs, rawReg t r = (((x.regs.find? (fun e => e.1 == r.addr)).map Prod.snd).getD 0
                ||| ((x.held.find? (fun e => e.1 == r.addr)).map Prod.snd).getD 0) &&& r.row.rw)
              ∧ (∀ i, Tab.getD t.kiln.store i 0 = x.store.getD i 0) ∧ (∀ i, Tab.getD t.kiln.sgStore i 0 = x.sgStore.getD i 0)
              ∧ (∀ n < 8, some (nth t.fault.tables n {}) = ((x.soft ++ x.hard).find? (fun e => e.1 == n)).map Prod.snd)
              ∧ PartitionPut { s.sec with imageDigest := (s.imageContent x).imageNow } t ∧ t.mg.cal = s.mg.cal)
        ∧ (∀ x, parseImage bytes = some x → s.imageOk x = true → s.confirms c k = true → s.failedStart = true →
            s.pm.failCode ≠ 9 →
            Answered c 0 (digestBytes (s.imageContent x).imageNow) s t ∧ t.cfg = (s.imageContent x).cfg
              ∧ t.kiln = (s.imageContent x).kiln ∧ t.fault = (s.imageContent x).fault
              ∧ t.pm = { s.pm with imageReset := t.pm.imageReset }
              ∧ (c.bcast = false → c.signReply = false → s.port.signing = [] →
                  (c.ring = true ∨ s.port.fits (s.replyTo c 0 (digestBytes (s.imageContent x).imageNow)).length = true) →
                  t.pm.imageReset = some (s.clk.now + msTicks))
              ∧ (c.bcast = false → c.signReply = true → t.pm.imageReset = some s.clk.now ∧ t.resetUnsaid = true))
        ∧ (∀ x, parseImage bytes = some x → s.imageOk x = true → (s.imageContent x).cfg ≠ s.cfg →
            s.confirms c k = false → s.pm.state = .ready →
            Answered c 0x7F [] s t ∧ t.sec = { s.sec with confirmFail := inc 255 s.sec.confirmFail } ∧ Only [.sec, .port, .irq, .ring] s t)
        ∧ ((∀ x, parseImage bytes = some x → s.imageOk x = false) →
            Answered c 0x40 [] s t ∧ Only [.port, .irq, .ring] s t))
  ∧ (∀ (im : ImageLoad) (s : State), s.port.image = some im →
    Answers .imageCollectionTimeout s fun t =>
      t.clk.now = max s.clk.now im.due ∧ t.port = { s.port with image := none } ∧ Only [.clk, .port] s t)
  ∧ (∀ (due : Nat) (s : State), s.pm.imageReset = some due → s.failedStart = true → s.resetUnsaid = false →
    Answers .resetAfterImageLoad s fun t =>
      t.clk.now = max s.clk.now due ∧ t.pm.state = .starting ∧ t.pm.stage = 1 ∧ t.pm.lastCause = 0x41 ∧ t.pm.failCode = 0
        ∧ t.pm.resetCause = s.pm.resetCause ∧ t.pm.imageReset = none ∧ OutputsOff t ∧ t.port.cmds = [] ∧ t.cfg = s.cfg
        ∧ t.kiln.store = s.kiln.store ∧ t.kiln.sgStore = s.kiln.sgStore ∧ t.fault.tables = s.fault.tables ∧ t.sec.slots = s.sec.slots)
  ∧ (∀ s : State, s.port.image = none → Answers .imageCollectionTimeout s fun t => t = s)
  ∧ (∀ s : State, s.pm.imageReset = none ∨ s.failedStart = false ∨ s.resetUnsaid = true → Answers .resetAfterImageLoad s fun t => t = s)

/-- RECEIVER_LOCK and LINK_UP act while the port transmits: the receiver locks; the link is up, and one that is the first up wraps the other
port and awaits admission or TIME (R250, R263, Table 10.8). LINK_DOWN wraps its port, and with both down the device has no link. UNWRAP ends
the wrap 1 ms after the link came up. An /H/ goes on out of the port of its direction, but for the device's own, which it absorbs, and one
that it has forwarded within 1 ms, which it drops (R254); the fault logic receives cause 0x15 from it where device and originator are
admitted and not fenced, once with the twin's SHUTDOWN, and any other is counted as suppressed (R255, R269). The model's choices: a device
whose link comes up is isolated where it was admitted before and awaits TIME or TOKEN else (log entry 44); its own horn is absorbed without
being counted, and a horn is judged for reception once within 1 ms, whichever port it comes by (log entry 42); a horn and a SHUTDOWN of the
twin within 1 ms tell of one event (log entry 46); a row of a port that does not transmit, or whose link is not as the row has it, changes
nothing (log entry 2); and `txHorns` is the model's record of what has been sent (log entry 47). -/
def Obligations.LinksAndHorns : Prop :=
  (∀ (p : Link) (s : State), s.transmits = true →
    Answers (.receiverLock p) s fun t =>
      t.link p = { s.link p with locked := true } ∧ t.link (otherLink p) = s.link (otherLink p) ∧ Only [.ring] s t)
  ∧ (∀ (p : Link) (s : State), s.transmits = true → (s.link p).up = false → (s.link (otherLink p)).up = true →
      s.ring.state ≠ .noLink →
    Answers (.linkUp p) s fun t =>
      t.link p = { s.link p with locked := true, up := true, upSince := s.clk.now } ∧ t.link (otherLink p) = s.link (otherLink p)
        ∧ t.ring.state = s.ring.state ∧ t.irq.gl = putBit s.irq.gl 0 true ∧ Only [.ring, .irq] s t)
  ∧ (∀ (p : Link) (s : State), s.transmits = true → (s.link p).up = false → (s.link (otherLink p)).up = false →
      s.ring.state = .noLink →
    Answers (.linkUp p) s fun t =>
      (t.link p).up = true ∧ (t.link (otherLink p)).wrapped = true ∧ bit t.irq.gl 0 = true
        ∧ ((s.ring.address = 0 ∨ bit s.ring.admittedMap s.ring.address = false) → t.ring.state = .awaiting)
        ∧ (s.ring.address ≠ 0 → bit s.ring.admittedMap s.ring.address = true → s.inp.root = false →
            bit s.ring.fencedMap s.ring.address = false → t.ring.state = .isolated)
        ∧ t.ring.address = s.ring.address ∧ Only [.ring, .irq] s t)
  ∧ (∀ (p : Link) (s : State), s.transmits = false ∨ (s.link p).up = true → Answers (.linkUp p) s fun t => t = s)
  ∧ (∀ (p : Link) (s : State), s.transmits = false → Answers (.receiverLock p) s fun t => t = s)
  ∧ (∀ (p : Link) (s : State), (s.link p).up = false →
      Answers (.linkDown p) s (fun t => t = s) ∧ Answers (.unwrap p) s (fun t => t = s))
  ∧ (∀ (p : Link) (s : State), (s.link p).up = true →
    Answers (.linkDown p) s fun t =>
      t.link p = { s.link p with locked := false, up := false, wrapped := true, down := inc 255 (s.link p).down }
        ∧ t.link (otherLink p) = s.link (otherLink p) ∧ bit t.irq.gl 0 = true
        ∧ ((s.link (otherLink p)).up = true → t.ring.state = s.ring.state)
        ∧ ((s.link (otherLink p)).up = false → s.ring.state ≠ .conflict → t.ring.state = .noLink)
        ∧ t.ring.address = s.ring.address ∧ Only [.ring, .irq] s t)
  ∧ (∀ (p : Link) (s : State), (s.link p).up = true → (s.link p).wrapped = true →
    Answers (.unwrap p) s fun t =>
      t.clk.now = max s.clk.now ((s.link p).upSince + msTicks) ∧ t.link p = { s.link p with wrapped := false }
        ∧ t.link (otherLink p) = s.link (otherLink p) ∧ bit t.irq.gl 1 = true ∧ Only [.clk, .ring, .irq] s t)
  ∧ (∀ (p : Link) (orig : BitVec 12) (seq : BitVec 4) (s : State), s.ring.address ≠ 0 → orig.toNat = s.ring.address →
    Answers (.horn p orig seq) s fun t => t = s)
  ∧ (∀ (p : Link) (orig : BitVec 12) (seq : BitVec 4) (h : HornSeen) (s : State), h ∈ s.ring.horns → s.clk.now < h.time + msTicks →
      h.received = false → h.port = p → h.orig = orig.toNat → h.seq = seq.toNat →
    Answers (.horn p orig seq) s fun t => t = s)
  ∧ (∀ (p : Link) (orig : BitVec 12) (seq : BitVec 4) (s : State), s.pm.state.logs = true → (s.link p).up = true →
      (s.ring.address = 0 ∨ orig.toNat ≠ s.ring.address) → NewHorn orig.toNat seq.toNat s → s.hornCounts orig.toNat = false →
    Answers (.horn p orig seq) s fun t =>
      (s.linkOpen (otherLink p) = true → t.ring.txHorns = s.ring.txHorns ++ [(otherLink p, orig.toNat, seq.toNat)])
        ∧ t.ring.hornWindow = s.clk.now + msTicks ∧ t.ring.hornSuppressed = inc 255 s.ring.hornSuppressed
        ∧ t.ring.hornReceived = s.ring.hornReceived ∧ Only [.ring] s t)
  ∧ (∀ (p : Link) (orig : BitVec 12) (seq : BitVec 4) (s : State), s.pm.state.logs = true → (s.link p).up = true →
      orig.toNat ≠ s.ring.address → NewHorn orig.toNat seq.toNat s → s.hornCounts orig.toNat = true →
      ¬ (s.twin.state = .co ∧ orig.toNat = s.twin.address ∧ s.twinTold true = true) →
    Answers (.horn p orig seq) s fun t =>
      (s.linkOpen (otherLink p) = true → (otherLink p, orig.toNat, seq.toNat) ∈ t.ring.txHorns)
        ∧ t.ring.hornOrig = orig.toNat ∧ t.ring.hornLastSeq = seq.toNat ∧ t.ring.hornReceived = inc 255 s.ring.hornReceived
        ∧ t.ring.hornSuppressed = s.ring.hornSuppressed ∧ bit t.irq.gl 10 = true ∧ CauseSeen 5 s t)
  ∧ (∀ (p : Link) (orig : BitVec 12) (seq : BitVec 4) (s : State), s.pm.state.logs = true → (s.link p).up = true →
      orig.toNat ≠ s.ring.address → NewHorn orig.toNat seq.toNat s → s.hornCounts orig.toNat = true → s.twin.state = .co →
      orig.toNat = s.twin.address → s.twinTold true = true →
    Answers (.horn p orig seq) s fun t =>
      t.ring.hornReceived = inc 255 s.ring.hornReceived ∧ bit t.irq.gl 10 = true ∧ t.twin = { s.twin with rxStops := t.twin.rxStops }
        ∧ t.twin.rxStops.length + 1 = s.stopsLive.length ∧ Only [.ring, .irq, .twin] s t)

/-- A COMMAND for another device goes on with one more hop (R252); at its destination a class 0 packet that stages 1 to 3 accept enters the
execution queue where the device is admitted, and a device that is not admitted takes the frame off the ring and does nothing (R219, R261). A
REPLY goes on past a device that is no root, and the root queues it under the tag that it holds for it. A BROADCAST goes on and is acted on
once by an admitted device, its other copy going on unchanged; the root's own, come back, completes the command that has been decided. The
model's choices: only an admitted device obeys, and the copies of a BROADCAST are known by kind, source and payload, for as long as one can be
on its way (log entry 42); the root's own broadcast completes when it is back (log entry 38); `tx` is the model's record of what has been sent
(log entry 47). -/
def Obligations.RingCommands : Prop :=
  (∀ (a : Arrival) (s : State), s.hears a 1 = true → Clean a → s.forMe a.frame = false → s.ownSource a.frame = false →
    Answers (.commandFrame a) s fun t => GoesOn a s t ∧ (a.frame.hops.toNat + 1 < 4095 → RingKept s t) ∧ Only [.ring] s t)
  ∧ (∀ (a : Arrival) (s : State), s.hears a 1 = true → Clean a → s.forMe a.frame = true → s.ring.state ≠ .admitted →
    Answers (.commandFrame a) s fun t => t = s)
  ∧ (∀ (a : Arrival) (s : State), s.hears a 1 = true → Clean a → s.forMe a.frame = true → s.ring.state = .admitted →
      s.stage1 true a.frame.payload = none → s.isCont true (a.frame.payload.take 32) = false →
      hdTotal (a.frame.payload.take 32) = a.frame.payload.length →
      s.route (packetCmd true a.frame.src.toNat a.frame.payload) = .here →
      s.stage3 (packetCmd true a.frame.src.toNat a.frame.payload) = none →
      (packetCmd true a.frame.src.toNat a.frame.payload).cls = 0 →
    Answers (.commandFrame a) s fun t =>
      t.port = { s.port with
          received := (s.port.received + 1) % 65536
          cmds := s.port.cmds ++ [{ packetCmd true a.frame.src.toNat a.frame.payload with phase := .queued }]
          execq := s.port.execq ++ [(true, (packetCmd true a.frame.src.toNat a.frame.payload).tag)] }
        ∧ t.ring = s.ring ∧ Only [.port] s t)
  ∧ (∀ (a : Arrival) (s : State), s.hears a 2 = true → Clean a → s.forMe a.frame = false → s.ownSource a.frame = false →
      s.inp.root = false →
    Answers (.replyFrame a) s fun t => GoesOn a s t ∧ Only [.ring] s t)
  ∧ (∀ (a : Arrival) (c : Cmd) (s : State), s.hears a 2 = true → Clean a → s.inp.root = true →
      s.awaited (hdTag a.frame.payload) a.frame.src.toNat = some c → byteAt a.frame.payload 22 ≠ 1 → s.port.waiting = [] →
      a.frame.payload.length ≤ 48 →
    Answers (.replyFrame a) s fun t =>
      t.port.replies = s.port.replies ++ [{ ring := false, tag := hdTag a.frame.payload, bytes := a.frame.payload }]
        ∧ t.port.fwds = s.port.fwds.filter (fun g => g.tag != hdTag a.frame.payload)
        ∧ t.cmd? false (hdTag a.frame.payload) = none ∧ Only [.port] s t)
  ∧ (∀ (a : Arrival) (s : State), s.hears a 3 = true → Clean a → s.ownSource a.frame = false → a.frame.dest = 4095 →
      s.ring.address ≠ 4095 → s.laterCopy a = true →
    Answers (.broadcastFrame a) s fun t =>
      (s.linkOpen (otherLink a.port) = true →
          t.ring.tx = s.ring.tx ++ [a.frame.sealed (otherLink a.port) true])
        ∧ t.secondCopy a = false ∧ t.ring = { s.ring with tx := t.ring.tx, heard := t.ring.heard } ∧ Only [.ring] s t)
  ∧ (∀ (a : Arrival) (s : State), s.hears a 3 = true → Clean a → s.ownSource a.frame = false → a.frame.dest = 4095 →
      s.ring.address ≠ 4095 → s.ring.state ≠ .admitted → s.laterCopy a = false →
    Answers (.broadcastFrame a) s fun t => GoesOn a s t ∧ Only [.ring] s t)
  ∧ (∀ (a : Arrival) (s : State), s.hears a 3 = true → Clean a → s.ownSource a.frame = false → a.frame.dest = 4095 →
      s.ring.address ≠ 4095 → s.ring.state = .admitted → s.laterCopy a = false →
      s.stage1 true a.frame.payload = none → s.isCont true (a.frame.payload.take 32) = false →
      hdTotal (a.frame.payload.take 32) = a.frame.payload.length → (packetCmd true a.frame.src.toNat a.frame.payload).dest = 4095 →
      s.stage3 { packetCmd true a.frame.src.toNat a.frame.payload with bcast := true } = none →
      1 ≤ (packetCmd true a.frame.src.toNat a.frame.payload).cls → hdMore (a.frame.payload.take 32) = false →
    Answers (.broadcastFrame a) s fun t =>
      t.secondCopy a = true ∧ GoesOn a s t
        ∧ t.port.cmds = s.port.cmds ++ [{ packetCmd true a.frame.src.toNat a.frame.payload with bcast := true }]
        ∧ Only [.ring, .port] s t)
  ∧ (∀ (a : Arrival) (g : Fwd) (c : Cmd) (s : State), s.hears a 3 = true → Clean a → s.ownSource a.frame = true →
      1 ≤ a.frame.hops.toNat → s.port.fwds.find? (fun x => x.dest == 4095) = some g → s.cmd? false g.tag = some c →
      c.ring = false → c.bcast = true → c.phase = .replying → c.signReply = false → s.port.signing = [] → s.port.waiting = [] →
      mayBroadcast c.op.toNat = true →
    Answers (.broadcastFrame a) s fun t =>
      t.port.replies = s.port.replies ++ [{ ring := false, tag := c.tag, bytes := s.replyTo c 0 [] }]
        ∧ t.port.fwds = s.port.fwds.filter (fun x => x.tag != g.tag) ∧ t.cmd? false g.tag = none ∧ Only [.port] s t)

/-- The first copy of a TIME frame goes on and is acted on: at an admitted device that follows ring TIME of its root as a reference event, whose
error decides the time base's mode (R310); at an isolated one as the sign that gives it back what it was (R263); at one not admitted as the
occasion for JOIN (R259); at a root of another ID as a conflict (R262). The other copy goes on unchanged and is not acted on (R252). The root
sends TIME, and the next one 1 ms later (R313). A device that is on a Hedgerow and no root is isolated 10 ms after the last TIME. The model's
choices: a device in root conflict is not isolated, and which device is (log entry 44); how the copies of TIME are known (log entry 42); JOIN
carries the recorded address and leaves once in 100 ms (log entry 43); a row of TIME_SEND or ISOLATED outside its condition changes nothing
(log entry 2); `tx` is the model's record of what has been sent (log entry 47); the rounding of an error that is not whole is a free value (log
entry 7). -/
def Obligations.RingTime : Prop :=
  (∀ (a : Arrival) (s : State), TimeHeard a s → s.ring.state = .admitted → rootOf a.frame = s.ring.rootUid.toNat →
      s.tbRuns = true → s.timeSrc = 2 → leAt a.frame.payload 28 4 % 4 = 0 → s.clk.epochValid = true →
    Answers (.timeFrame a) s fun t =>
      let e := s.timeError a.frame
      TimeGoesOn a s t ∧ t.ring.lastTime = s.clk.now ∧ t.ring.state = .admitted ∧ t.clk.following = 2 ∧ t.clk.lastEvent = some s.clk.now
        ∧ (e.natAbs ≤ 4 → t.clk.mode = .tracking ∧ t.clk.slewLeft = 0)
        ∧ (4 < e.natAbs → e.natAbs ≤ 200000 → t.clk.mode = .slewing ∧ t.clk.slewLeft = e)
        ∧ (200000 < e → t.clk.mode = .stepPending ∧ bit t.irq.ck 4 = true)
        ∧ (e < -200000 → bit (s.cfgAt 0xC0008) 29 = false → t.clk.mode = .ahead ∧ t.clk.slewLeft = 0
            ∧ t.clk.jumpCount = inc 255 s.clk.jumpCount ∧ bit t.irq.ck 4 = true)
        ∧ (e < -200000 → bit (s.cfgAt 0xC0008) 29 = true → t.clk.mode = .slewing ∧ t.clk.slewLeft = e)
        ∧ t.clk.stamp = s.clk.stamp ∧ t.secondCopy a = true ∧ Only [.ring, .clk, .irq, .free] s t)
  ∧ (∀ (a : Arrival) (s : State), TimeHeard a s → s.ring.state = .isolated → s.ring.address ≠ 0 →
      bit s.ring.admittedMap s.ring.address = true → rootOf a.frame ≠ s.ring.rootUid.toNat →
    Answers (.timeFrame a) s fun t =>
      t.ring.state = (if bit s.ring.fencedMap s.ring.address then .fenced else .admitted) ∧ t.ring.address = s.ring.address
        ∧ t.ring.lastTime = s.clk.now ∧ TimeGoesOn a s t ∧ Only [.ring, .twin, .free] s t)
  ∧ (∀ (a : Arrival) (s : State), TimeHeard a s → (s.ring.state = .awaiting ∨ s.ring.state = .notAdmitted) →
      s.ring.joinDue = none →
    Answers (.timeFrame a) s fun t =>
      t.ring.joinDue = some (s.clk.now + 100 * msTicks)
        ∧ Sent 0x13 1 (s.enrolPayload ((s.ring.record.map Prod.snd).getD 0) 0 (s.ring.rootFp != s.sec.ownerFp) false) s t
        ∧ Only [.ring, .free] s t)
  ∧ (∀ (a : Arrival) (s : State), s.hears a 4 = true → Clean a → s.inp.root = false → s.ownSource a.frame = false →
      s.forMe a.frame = false → s.laterCopy a = true →
    Answers (.timeFrame a) s fun t =>
      (s.linkOpen (otherLink a.port) = true → t.ring.tx = s.ring.tx ++ [a.frame.sealed (otherLink a.port) true])
        ∧ t.secondCopy a = false ∧ t.ring = { s.ring with tx := t.ring.tx, heard := t.ring.heard } ∧ Only [.ring] s t)
  ∧ (∀ (a : Arrival) (s : State), s.hears a 4 = true → Clean a → s.inp.root = true → s.ownSource a.frame = false → s.forMe a.frame = false →
      rootOf a.frame ≠ s.ident.uid.toNat → s.ring.state ≠ .conflict →
    Answers (.timeFrame a) s fun t =>
      t.ring.state = .conflict ∧ t.ring.enum = none ∧ t.ring.timeDue = none ∧ bit t.irq.gl 4 = true
        ∧ t.ring.address = s.ring.address ∧ t.ring.admittedMap = s.ring.admittedMap
        ∧ Sent 0x15 4095 (leBytes 16 s.ident.uid.toNat ++ leBytes 16 (rootOf a.frame)) s t ∧ Only [.ring, .irq] s t)
  ∧ (∀ (due : Nat) (s : State), s.ring.timeDue = some due → s.pm.state.logs = true → s.inp.root = true → s.ring.enumDone = true →
      s.ring.state ≠ .conflict →
    Answers .timeSend s fun t =>
      t.clk.now = max s.clk.now due ∧ t.ring.timeDue = some (t.clk.now + msTicks)
        ∧ Sent 0x04 0 (leBytes 8 t.clk.stamp ++ leBytes 16 s.ident.uid.toNat ++ leBytes 4 s.ring.enumNumber
            ++ leBytes 4 ((if s.clk.epochValid then 0 else 2) + (if t.clk.mode = .holdover then 4 else 0)
              + (if t.clk.mode = .slewing then 8 else 0))) s t
        ∧ Only [.clk, .ring] s t)
  ∧ (∀ s : State, s.inp.root = false ∨ s.ring.timeDue = none → Answers .timeSend s fun t => t = s)
  ∧ (∀ s : State, s.inp.root = false → s.pm.state.logs = true → s.ring.state ≠ .isolated → s.ring.state ≠ .conflict →
      (s.ring.state ≠ .noLink ∨ s.ring.address ≠ 0) →
    Answers .isolated s fun t =>
      t.clk.now = max s.clk.now (s.ring.lastTime + 10 * msTicks) ∧ t.ring = { s.ring with state := .isolated }
        ∧ bit t.irq.gl 11 = true ∧ Only [.clk, .ring, .irq] s t)
  ∧ (∀ s : State, s.mayIsolate = false → Answers .isolated s fun t => t = s)

/-- The root, not in root conflict, launches an enumeration with the number after that of its last (R257); a device that has not seen the
token claims its recorded address, or the lowest that is free, sends ENROL and passes the token with its claim, and in root conflict leaves
it by that (log entry 54); one that has seen it passes it on. The root notes each ENROL, and when the token is back, and closes with the
maps of the claims, which keep their addresses where no two are alike (R258). A device that the enumeration's token has reached takes its
address and standing from CLOSURE; where all 64 reassignments are used and none names it, whether its claim was rejected is a free value
(log entry 43). No more devices are admitted than the limit allows, the first in the token's order (R256). A re-enumeration asked for
meanwhile begins as this one closes (R349). FORGET drops the reservations of absent devices. That ENUMERATE changes nothing elsewhere is the
model's choice (log entry 2). -/
def Obligations.Enumeration : Prop :=
  (∀ s : State, s.inp.root = true → s.ring.state ≠ .conflict → s.pm.state.logs = true →
    Answers .enumerate s fun t =>
      t.ring.enumNumber = (s.ring.enumKept + 1) % 0x100000000 ∧ t.ring.enumKept = t.ring.enumNumber ∧ t.ring.address = 1 ∧ t.ring.rootUid = s.ident.uid
        ∧ t.ring.enumDone = false ∧ t.ring.enum = some { launch := s.clk.now, returned := none, waitDue := 0, claims := [] }
        ∧ Sent 0x10 0 (leBytes 4 (s.cfgAt 0xA0004).toNat ++ leBytes 16 s.ident.uid.toNat ++ digestBytes s.sec.ownerFp
            ++ leBytes 4 t.ring.enumNumber ++ leBytes 2 1 ++ leBytes 2 s.ringLimit ++ List.replicate 4 0
            ++ leBytes 512 s.mapBits.toNat) s t
        ∧ Only [.ring] s t)
  ∧ (∀ s : State, s.inp.root = false ∨ s.ring.state = .conflict ∨ s.pm.state.logs = false → Answers .enumerate s fun t => t = s)
  ∧ (∀ (a : Arrival) (s : State), s.hears a 0x10 = true → Clean a → s.inp.root = false →
      s.ring.tokenSeen ≠ some (leAt a.frame.payload 52 4) → a.frame.hops.toNat + 1 < 4095 →
    Answers (.tokenFrame a) s fun t =>
      let c := s.claimOf a.frame.payload
      t.ring.address = c ∧ t.ring.state ≠ .conflict ∧ t.ring.tokenSeen = some (leAt a.frame.payload 52 4) ∧ t.ring.enumNumber = leAt a.frame.payload 52 4
        ∧ t.ring.rootUid = BitVec.ofNat 128 (leAt a.frame.payload 4 16) ∧ t.ring.rootFp = BitVec.ofNat 256 (leAt a.frame.payload 20 32)
        ∧ Sent 0x11 1 (s.enrolPayload c (leAt a.frame.payload 56 2)
            (s.sec.ownerFp != BitVec.ofNat 256 (leAt a.frame.payload 20 32))
            (c != 0 && decide (leAt a.frame.payload 56 2 < leAt a.frame.payload 58 2))) s t
        ∧ (s.linkOpen (otherLink a.port) = true → s.ring.hornWindow ≤ s.clk.now → ∃ f ∈ t.ring.tx, f.port = otherLink a.port
            ∧ f.frame.payload = tokenTaken a.frame.payload c ∧ f.frame.hops = a.frame.hops + 1)
        ∧ Only [.ring] s t)
  ∧ (∀ (p : List Byte) (r : Word × Nat) (s : State), s.ring.record = some r → r.1.toNat = leAt p 0 4 → 2 ≤ r.2 → r.2 ≤ 4094 →
      s.claimOf p = r.2)
  ∧ (∀ (p : List Byte) (s : State), (∀ r, s.ring.record = some r → r.1.toNat ≠ leAt p 0 4) →
      (s.claimOf p = 0 ∧ (∀ a, 2 ≤ a → a ≤ 4094 → bit (tokenMap p) a = true))
        ∨ (2 ≤ s.claimOf p ∧ s.claimOf p ≤ 4094 ∧ bit (tokenMap p) (s.claimOf p) = false
            ∧ ∀ a, 2 ≤ a → a < s.claimOf p → bit (tokenMap p) a = true))
  ∧ (∀ (a : Arrival) (s : State), s.hears a 0x10 = true → Clean a → s.inp.root = false → s.ownSource a.frame = false →
      s.forMe a.frame = false → s.ring.tokenSeen = some (leAt a.frame.payload 52 4) →
    Answers (.tokenFrame a) s fun t => GoesOn a s t ∧ t.ring.address = s.ring.address ∧ Only [.ring] s t)
  ∧ (∀ (a : Arrival) (e : Enum) (s : State), s.hears a 0x10 = true → Clean a → s.inp.root = true → rootOf a.frame = s.ident.uid.toNat →
      s.ownSource a.frame = true → 1 ≤ a.frame.hops.toNat → s.ring.enum = some e → e.returned = none →
      leAt a.frame.payload 52 4 = s.ring.enumNumber →
    Answers (.tokenFrame a) s fun t =>
      t.ring = { s.ring with enum := some { e with
          returned := some (leAt a.frame.payload 56 2), waitDue := s.clk.now + msTicks } }
        ∧ Only [.ring] s t)
  ∧ (∀ (a : Arrival) (e : Enum) (s : State), s.hears a 0x11 = true → Clean a → s.inp.root = true → s.forMe a.frame = true →
      s.ring.enum = some e →
    Answers (.enrolFrame a) s fun t =>
      t.ring = { s.ring with enum := some { e with
          claims := e.claims.filter (fun d => d.uid != BitVec.ofNat 128 (leAt a.frame.payload 0 16)) ++ [{
            uid := BitVec.ofNat 128 (leAt a.frame.payload 0 16), addr := leAt a.frame.payload 50 2, pos := leAt a.frame.payload 52 2
            fenced := leAt a.frame.payload 54 2 % 2 == 1, admitted := leAt a.frame.payload 54 2 / 2 % 2 == 1 }] } }
        ∧ Only [.ring] s t)
  ∧ (∀ (e : Enum) (n : Nat) (s : State), s.ring.enum = some e → e.returned = some n → s.pm.state.logs = true → e.complete n = true →
      e.again = false → (∀ c ∈ e.claims, c.addr ≠ 0 ∧ (∀ d ∈ e.claims, d.addr = c.addr → d = c)
        ∧ (Tab.get? s.ring.map c.addr = none ∨ Tab.get? s.ring.map c.addr = some c.uid)) →
    Answers .enrolWaitEnd s fun t =>
      t.clk.now = s.clk.now ∧ t.ring.enum = none ∧ t.ring.enumDone = true ∧ t.ring.state = .admitted
        ∧ (∀ a, a < 4096 → a ≠ 1 → bit t.ring.admittedMap a = true → ∃ c ∈ e.claims, c.addr = a ∧ c.admitted = true)
        ∧ ((e.claims.filter (fun c => c.admitted)).length ≤ s.ringLimit - 1 →
            ∀ c ∈ e.claims, c.admitted = true → c.addr < 4096 → bit t.ring.admittedMap c.addr = true)
        ∧ countBits t.ring.admittedMap ≤ 1 + (s.ringLimit - 1)
        ∧ (∀ a, a < 4096 → (bit t.ring.fencedMap a = true ↔ ∃ c ∈ e.claims, c.addr = a ∧ c.fenced = true))
        ∧ (∀ c ∈ e.claims, c.uid ≠ 0 → (∀ d ∈ e.claims, d.uid = c.uid → d = c) → Tab.wf s.ring.map = true →
            Tab.get? t.ring.map c.addr = some c.uid)
        ∧ (t.ring.overBudget = true ↔ s.ringLimit < n ∨ s.ringLimit - 1 < (e.claims.filter (fun c => c.admitted)).length)
        ∧ t.ring.timeDue = some (s.clk.now + msTicks) ∧ bit t.irq.gl 2 = true ∧ Only [.ring, .twin, .irq] s t)
  ∧ (∀ (e : Enum) (n : Nat) (s : State), s.ring.enum = some e → e.returned = some n → s.pm.state.logs = true → s.inp.root = true →
      e.again = true →
    Answers .enrolWaitEnd s fun t =>
      t.ring.enum = some { launch := t.clk.now, returned := none, waitDue := 0, claims := [] } ∧ t.ring.enumDone = false
        ∧ t.ring.enumNumber = (s.ring.enumKept + 1) % 0x100000000 ∧ bit t.irq.gl 2 = true ∧ Only [.clk, .ring, .twin, .irq] s t)
  ∧ (∀ (e : Enum) (n : Nat) (s : State), s.ring.enum = some e → e.returned = some n → s.pm.state.logs = true → e.complete n = false →
      e.again = false →
    Answers .enrolWaitEnd s fun t =>
      t.clk.now = max s.clk.now e.waitDue ∧ t.ring.enum = none ∧ t.ring.enumDone = true ∧ bit t.irq.gl 2 = true
        ∧ Only [.clk, .ring, .twin, .irq] s t)
  ∧ (∀ (a : Arrival) (s : State), s.hears a 0x12 = true → Clean a → s.inp.root = false → s.ring.state ≠ .conflict →
      s.ring.tokenSeen = some (leAt a.frame.payload 20 4) → s.ring.enumDone = false → s.closureFull a.frame.payload = false →
    Answers (.closureFrame a) s fun t =>
      let c := (s.reassigned a.frame.payload).getD s.ring.address
      t.ring.address = c ∧ t.ring.enumDone = true ∧ t.ring.admittedMap = BitVec.ofNat 4096 (leAt a.frame.payload 28 512)
        ∧ (c ≠ 0 → t.ring.record = some (BitVec.ofNat 32 (leAt a.frame.payload 0 4), c))
        ∧ (c ≠ 0 → bit t.ring.admittedMap c = true → bit (BitVec.ofNat 4096 (leAt a.frame.payload 540 512)) c = false →
            t.ring.state = .admitted ∧ t.ring.fencedMap = BitVec.ofNat 4096 (leAt a.frame.payload 540 512))
        ∧ (c ≠ 0 → bit t.ring.admittedMap c = true → bit (BitVec.ofNat 4096 (leAt a.frame.payload 540 512)) c = true →
            t.ring.state = .fenced ∧ (s.ring.state ≠ .fenced → ∀ d ∈ t.port.cmds, d.ring = true → d.undecided = false))
        ∧ (bit t.ring.admittedMap c = false → t.ring.state = .notAdmitted) ∧ bit t.irq.gl 2 = true
        ∧ Only [.ring, .twin, .irq, .port, .tw, .twEnded, .mg] s t)
  ∧ (∀ (a : Arrival) (s : State), s.hears a 0x12 = true → Clean a → s.inp.root = false → s.ring.state ≠ .conflict →
      s.ring.tokenSeen = some (leAt a.frame.payload 20 4) → s.ring.enumDone = false → s.closureFull a.frame.payload = true →
    Answers (.closureFrame a) s fun t =>
      t.ring.address = (if Config.freeBit s.free then 0 else s.ring.address) ∧ t.free = s.free + 1 ∧ t.ring.enumDone = true
        ∧ (t.ring.address = 0 → t.ring.state = .notAdmitted ∧ t.ring.record = s.ring.record)
        ∧ Only [.ring, .twin, .irq, .port, .tw, .twEnded, .mg, .free] s t)
  ∧ (∀ (a : Arrival) (s : State), s.hears a 0x12 = true → Clean a → s.inp.root = false → s.ownSource a.frame = false →
      s.forMe a.frame = false → (s.ring.tokenSeen ≠ some (leAt a.frame.payload 20 4) ∨ s.ring.enumDone = true) →
    Answers (.closureFrame a) s fun t => GoesOn a s t ∧ t.ring.state = s.ring.state ∧ Only [.ring] s t)
  ∧ (∀ s : State, s.pm.state.logs = true → s.inp.root = true →
    Answers .forget s fun t =>
      t.ring = { s.ring with map := s.ring.map.filter (fun e => !s.ring.absent.contains e.1), absent := [] } ∧ Only [.ring] s t)

/-- The root, not in root conflict, answers a JOIN with ADMIT and enters the device in its maps, under the address that the ring map holds for
it or else one that is free, admitted where the ring has room (R259). JOIN is sent again when it is due, but not while the reply of the command
that changed the owner has not left. Every device that is no root and not in root conflict updates its maps from ADMIT, and the device that it
names takes its address and standing. CONFLICT puts a device in root conflict (R262). That JOIN carries the recorded address and leaves again
100 ms later, and that one during an enumeration is answered too (log entry 43), and that with no JOIN due nothing changes (log entry 2), are
the model's choices. A frame of an unknown kind is discarded and counted by its destination; at another device one with a wrong CRC is counted
and goes on (R251, R252). -/
def Obligations.JoiningAndConflict : Prop :=
  (∀ (a : Arrival) (s : State), s.hears a 0x13 = true → Clean a → s.inp.root = true → s.forMe a.frame = true →
      s.ring.state ≠ .conflict →
      s.joinAddress (BitVec.ofNat 128 (leAt a.frame.payload 0 16)) (leAt a.frame.payload 50 2) ≠ 0 →
      countBits (s.ring.admittedMap &&& ~~~(one 4096 (s.joinAddress (BitVec.ofNat 128 (leAt a.frame.payload 0 16))
        (leAt a.frame.payload 50 2)))) < s.ringLimit →
    Answers (.joinFrame a) s fun t =>
      let uid : Uid := BitVec.ofNat 128 (leAt a.frame.payload 0 16)
      let c := s.joinAddress uid (leAt a.frame.payload 50 2)
      let fenced := leAt a.frame.payload 16 32 != s.sec.ownerFp.toNat
      t.ring.map = Tab.insert s.ring.map c uid ∧ t.ring.absent = s.ring.absent.filter (· != c)
        ∧ t.ring.admittedMap = putBit s.ring.admittedMap c true ∧ t.ring.fencedMap = putBit s.ring.fencedMap c fenced
        ∧ t.ring.address = s.ring.address
        ∧ Sent 0x14 4095 (leBytes 16 uid.toNat ++ leBytes 2 c ++ leBytes 2 ((if fenced then 1 else 0) + 2)) s t
        ∧ Only [.ring, .irq] s t)
  ∧ (∀ (a : Arrival) (s : State), s.hears a 0x13 = true → Clean a → s.inp.root = true → s.forMe a.frame = true →
      s.ring.state ≠ .conflict →
      s.joinAddress (BitVec.ofNat 128 (leAt a.frame.payload 0 16)) (leAt a.frame.payload 50 2) ≠ 0 →
      s.ringLimit ≤ countBits (s.ring.admittedMap &&& ~~~(one 4096 (s.joinAddress (BitVec.ofNat 128 (leAt a.frame.payload 0 16))
        (leAt a.frame.payload 50 2)))) →
    Answers (.joinFrame a) s fun t =>
      let uid : Uid := BitVec.ofNat 128 (leAt a.frame.payload 0 16)
      let c := s.joinAddress uid (leAt a.frame.payload 50 2)
      let fenced := leAt a.frame.payload 16 32 != s.sec.ownerFp.toNat
      t.ring.admittedMap = putBit s.ring.admittedMap c false ∧ t.ring.overBudget = true
        ∧ Sent 0x14 4095 (leBytes 16 uid.toNat ++ leBytes 2 c ++ leBytes 2 (if fenced then 1 else 0)) s t
        ∧ Only [.ring, .irq] s t)
  ∧ (∀ s : State, s.ring.joinDue = none ∨ s.joinWaits = true → Answers .joinResend s fun t => t = s)
  ∧ (∀ (uid : Uid) (claim : Nat) (e : Nat × Uid) (s : State), s.ring.map.find? (fun x => x.2 == uid) = some e →
      s.joinAddress uid claim = e.1)
  ∧ (∀ (due : Nat) (s : State), s.ring.joinDue = some due → s.pm.state.logs = true → (s.ring.linkA.up = true ∨ s.ring.linkB.up = true) →
      s.joinWaits = false →
    Answers .joinResend s fun t =>
      t.clk.now = max s.clk.now due ∧ t.ring.joinDue = some (t.clk.now + 100 * msTicks)
        ∧ Sent 0x13 1 (s.enrolPayload ((s.ring.record.map Prod.snd).getD 0) 0 (s.ring.rootFp != s.sec.ownerFp) false) s t
        ∧ Only [.clk, .ring] s t)
  ∧ (∀ (a : Arrival) (s : State), s.hears a 0x14 = true → Clean a → s.inp.root = false → s.ring.state ≠ .conflict →
      leAt a.frame.payload 0 16 ≠ s.ident.uid.toNat → leAt a.frame.payload 16 2 < 4096 →
    Answers (.admitFrame a) s fun t =>
      t.ring.admittedMap = putBit s.ring.admittedMap (leAt a.frame.payload 16 2) (leAt a.frame.payload 18 2 / 2 % 2 == 1)
        ∧ t.ring.fencedMap = putBit s.ring.fencedMap (leAt a.frame.payload 16 2) (leAt a.frame.payload 18 2 % 2 == 1)
        ∧ t.ring.address = s.ring.address ∧ t.ring.state = s.ring.state ∧ Only [.ring] s t)
  ∧ (∀ (a : Arrival) (c : Nat) (s : State), s.hears a 0x14 = true → Clean a → s.inp.root = false → s.ring.state ≠ .conflict →
      leAt a.frame.payload 0 16 = s.ident.uid.toNat → leAt a.frame.payload 16 2 = c → 0 < c → c < 4096 →
      leAt a.frame.payload 18 2 = 2 →
    Answers (.admitFrame a) s fun t =>
      t.ring.address = c ∧ t.ring.state = .admitted ∧ t.ring.joinDue = none ∧ t.ring.lastTime = s.clk.now
        ∧ t.ring.admittedMap = putBit s.ring.admittedMap c true ∧ t.ring.fencedMap = putBit s.ring.fencedMap c false
        ∧ t.ring.rootFp = s.sec.ownerFp ∧ Only [.ring, .twin] s t)
  ∧ (∀ (a : Arrival) (c : Nat) (s : State), s.hears a 0x14 = true → Clean a → s.inp.root = false → s.ring.state ≠ .conflict →
      leAt a.frame.payload 0 16 = s.ident.uid.toNat → leAt a.frame.payload 16 2 = c → 0 < c → c < 4096 →
      leAt a.frame.payload 18 2 = 3 →
    Answers (.admitFrame a) s fun t =>
      t.ring.address = c ∧ t.ring.state = .fenced ∧ t.ring.joinDue = none ∧ Only [.ring, .port, .irq, .tw, .twEnded, .mg] s t)
  ∧ (∀ (a : Arrival) (s : State), s.hears a 0x15 = true → Clean a → s.ring.state ≠ .conflict →
    Answers (.conflictFrame a) s fun t =>
      t.ring.state = .conflict ∧ t.ring.address = s.ring.address ∧ t.ring.admittedMap = s.ring.admittedMap
        ∧ t.ring.fencedMap = s.ring.fencedMap ∧ t.ring.enum = none ∧ bit t.irq.gl 4 = true ∧ Only [.ring, .irq] s t)
  ∧ (∀ (a : Arrival) (s : State), s.pm.state.logs = true → (s.link a.port).up = true → knownKind a.frame.kind.toNat = false → Clean a →
      s.forMe a.frame = true →
    Answers (.unknownFrame a) s fun t =>
      t.link a.port = { s.link a.port with discarded := inc 255 (s.link a.port).discarded } ∧ t.ring.tx = s.ring.tx ∧ Only [.ring] s t)
  ∧ (∀ (a : Arrival) (s : State), s.pm.state.logs = true → (s.link a.port).up = true → knownKind a.frame.kind.toNat = false →
      a.crcOk = false → s.forMe a.frame = false → s.ownSource a.frame = false → a.frame.hops.toNat + 1 < 4095 →
    Answers (.unknownFrame a) s fun t =>
      (t.link a.port).crcErr = inc 255 (s.link a.port).crcErr ∧ GoesOn a s t ∧ Only [.ring] s t)

/-- In co-supervision a heartbeat leaves when it is due and the next is due 100 µs later; the first copy of the twin's resets the count of those
missing, the tenth in a row whose release mask differs in Ready or Running sets mismatch, and its second copy is discarded; 350 µs without
one make the device solo, with cause 0x14 (R268). A REQUEST of the twin, in co-supervision, is handled with its own cause and not sent back;
a SHUTDOWN of the twin reaches the fault logic as cause 0x15 with its address, grade and table, once with its horn (R269). The model's choices:
of a device not in co-supervision, HEARTBEAT_SEND and TWIN_LOST change nothing (log entry 2); `missed` is computed when the device sends its
own heartbeat, a mismatch clears when the masks agree again, and a horn and a SHUTDOWN within 1 ms are one event (log entry 46); how the copies
of a message are known (log entry 42). -/
def Obligations.HeartbeatsAndRequests : Prop :=
  (∀ (due : Nat) (s : State), s.twin.hbDue = some due → s.twin.state = .co → s.pm.state.logs = true →
    Answers .heartbeatSend s fun t =>
      t.clk.now = max s.clk.now due ∧ t.twin.hbSeq = s.twin.hbSeq + 1 ∧ t.twin.hbDue = some (t.clk.now + 100 * usTicks)
        ∧ t.twin.missed = min 15 ((t.clk.now - s.twin.lastHb) / (100 * usTicks)) ∧ SamePair { s with twin := { s.twin with hbDue := t.twin.hbDue } } t
        ∧ Sent 0x20 s.twin.address (leBytes 2 s.twin.hbSeq.toNat ++ [BitVec.ofNat 8 s.pm.state.code,
            BitVec.ofNat 8 ((if s.pm.faultLatch then 1 else 0) + (if s.out.passive then 2 else 0) + (if s.pm.state = .cooling then 4 else 0))]
            ++ leBytes 8 s.out.en.toNat ++ leBytes 8 s.inp.enHigh.toNat ++ leBytes 8 t.clk.stamp
            ++ (digestBytes s.twinDigest).take 8 ++ List.replicate 12 0) s t
        ∧ Only [.clk, .twin, .ring] s t)
  ∧ (∀ (a : Arrival) (s : State), s.hears a 0x20 = true → Clean a → s.forMe a.frame = true → s.twin.state = .co →
      s.fromTwin a.frame = true → s.fencedHere = false → s.secondCopy a = true →
    Answers (.heartbeatFrame a) s fun t => t.secondCopy a = false ∧ t.ring.tx = s.ring.tx ∧ Only [.ring] s t)
  ∧ (∀ s : State, s.twin.state ≠ .co → Answers .heartbeatSend s (fun t => t = s) ∧ Answers .twinLost s (fun t => t = s))
  ∧ (∀ (a : Arrival) (s : State), s.hears a 0x20 = true → Clean a → s.forMe a.frame = true → s.twin.state = .co →
      s.fromTwin a.frame = true → s.fencedHere = false → s.secondCopy a = false →
    Answers (.heartbeatFrame a) s fun t =>
      let mask : Rails := BitVec.ofNat 64 (leAt a.frame.payload 4 8)
      let both := (s.pm.state = .ready ∨ s.pm.state = .running) ∧ (byteAt a.frame.payload 2 = 3 ∨ byteAt a.frame.payload 2 = 5)
      t.twin.lastHb = s.clk.now ∧ t.twin.missed = 0 ∧ t.twin.peer = byteAt a.frame.payload 2
        ∧ t.secondCopy a = true ∧ t.ring.tx = s.ring.tx ∧ SamePair s t
        ∧ (both → mask ≠ s.out.en → t.twin.mismatchRun = min 10 (s.twin.mismatchRun + 1))
        ∧ (¬ both ∨ mask = s.out.en → t.twin.mismatchRun = 0)
        ∧ (both → mask ≠ s.out.en → 9 ≤ s.twin.mismatchRun → t.twin.mismatch = true ∧ (s.twin.mismatch = false → bit t.irq.gl 8 = true))
        ∧ (s.twin.mismatch = false → s.twin.mismatchRun < 9 → t.twin.mismatch = false ∧ t.irq = s.irq)
        ∧ Only [.ring, .twin, .irq] s t)
  ∧ (∀ s : State, s.twin.state = .co → s.pm.state.logs = true →
    Answers .twinLost s fun t =>
      t.clk.now = max s.clk.now (s.twin.lastHb + 350 * usTicks) ∧ t.twin.state = .solo ∧ t.twin.hbDue = none
        ∧ t.twin.lost = inc 255 s.twin.lost ∧ bit t.irq.gl 7 = true ∧ t.out.en = s.out.en ∧ CauseSeen 4 s t)
  ∧ (∀ (a : Arrival) (s : State), TwinMsg a 9 s → s.twin.state = .co → s.fromTwin a.frame = true → byteAt (twinBody a.frame) 0 = 1 →
      s.mayFire = true → s.twin.hand.holds = false → s.onJoins = none →
    Answers (.twinRequest a) s fun t =>
      FiresBy (BitVec.ofNat 8 (byteAt (twinBody a.frame) 1)) s t ∧ t.ring.tx = s.ring.tx
        ∧ Only [.pm, .ctl, .log, .kiln, .clk, .mg, .ring] s t)
  ∧ (∀ (a : Arrival) (s : State), TwinMsg a 9 s → (s.twin.state ≠ .co ∨ s.fromTwin a.frame = false) →
    Answers (.twinRequest a) s fun t => t.ring.tx = s.ring.tx ∧ Only [.ring] s t)
  ∧ (∀ (a : Arrival) (s : State), TwinMsg a 9 s → s.twin.state = .co → s.fromTwin a.frame = true → byteAt (twinBody a.frame) 0 = 2 →
      (s.pm.state = .firing ∨ s.pm.state = .running) →
    Answers (.twinRequest a) s fun t =>
      Shutdown t 0 ∧ t.pm.lastCause = BitVec.ofNat 8 (byteAt (twinBody a.frame) 1) ∧ t.walk.grace = true ∧ t.out.en = s.out.en
        ∧ t.out.tripo = s.out.tripo ∧ t.pm.faultLatch = s.pm.faultLatch ∧ SameStores s t)
  ∧ (∀ (a : Arrival) (s : State), TwinMsg a 0x0A s → s.twin.state = .co → s.fromTwin a.frame = true → s.twinTold false = false →
      (byteAt (twinBody a.frame) 0 = 2 ∨ byteAt (twinBody a.frame) 0 = 3) →
      (s.pm.state = .ready ∨ s.pm.state = .firing ∨ s.pm.state = .running) →
    Answers (.twinShutdown a) s fun t =>
      Shutdown t (byteAt (twinBody a.frame) 1) ∧ t.pm.faultLatch = true
        ∧ t.pm.lastCause = (if byteAt (twinBody a.frame) 0 = 3 then 0x30 else 0x31)
        ∧ (byteAt (twinBody a.frame) 0 = 3 → t.out.tripo = true) ∧ t.out.en = s.out.en
        ∧ (s.fault.first = none → ∃ r n, t.fault.first = some (r, n) ∧ r.cause = 0x15
            ∧ r.source = BitVec.ofNat 8 a.frame.src.toNat ∧ r.grade = BitVec.ofNat 2 (byteAt (twinBody a.frame) 0))
        ∧ t.twin.rxStops = s.stopsLive ++ [(false, s.clk.now)] ∧ SameStores s t)
  ∧ (∀ (a : Arrival) (s : State), TwinMsg a 0x0A s → s.twin.state = .co → s.fromTwin a.frame = true → s.twinTold false = true →
    Answers (.twinShutdown a) s fun t =>
      t.twin = { s.twin with rxStops := t.twin.rxStops } ∧ t.twin.rxStops.length + 1 = s.stopsLive.length ∧ t.ring.tx = s.ring.tx
        ∧ Only [.ring, .twin] s t)
  ∧ (∀ (a : Arrival) (s : State), TwinMsg a 0x0A s → (s.twin.state ≠ .co ∨ s.fromTwin a.frame = false) →
    Answers (.twinShutdown a) s fun t => t.ring.tx = s.ring.tx ∧ Only [.ring] s t)

/-- A device that may join and holds no requests for COMMIT sends SEEK when it is due, and the next is due 10 ms later (R271). A SEEK of its
group and its own TWSIDE is refused with reason 0x2 whatever the device does (R264). A solo or diverged device outside a handover answers one
of the other side with CHALLENGE in Ready or Running, with REFUSE 0x5 where it or the seeker is not admitted, and with REFUSE 0x7 in another
state, where a solo device becomes diverged if the seeker is alone too (R272, R274). A passive device founds 100 ms after admission without an
answer where every EN line reads low, or on a SEEK of a passive TWSIDE 1 device that is its twin, and is blocked where one reads high (R271).
That SEEK goes to every device and is refused for its side whatever the device does, and that the operand `alone` tells of the seeker what no
message does, are the model's choices (log entry 45); with no SEEK due nothing changes (log entry 2). -/
def Obligations.SeekingAndFounding : Prop :=
  (∀ (due : Nat) (s : State), s.twin.seekDue = some due → s.mayJoin = true → s.twin.hand.holds = false →
    Answers .seekResend s fun t =>
      t.clk.now = max s.clk.now due ∧ t.twin.seekDue = some (t.clk.now + 10 * msTicks) ∧ t.twin.hand = .jSeek ∧ SamePair s t
        ∧ Tells 4095 1 (leBytes 2 (fld (s.cfgAt 0xA0008) 31 16) ++ [if s.inp.twside then 1 else 0, 0] ++ leBytes 16 s.ident.uid.toNat) s t
        ∧ Only [.clk, .twin, .ring] s t)
  ∧ (∀ s : State, s.twin.seekDue = none ∨ s.mayJoin = false → Answers .seekResend s fun t => t = s)
  ∧ (∀ (a : Arrival) (alone : Bool) (s : State), SeekHeard a s → s.twin.hand.holds = false → s.out.passive = false →
      (s.twin.state = .solo ∨ s.twin.state = .diverged) → (byteAt (twinBody a.frame) 2 == 1) ≠ s.inp.twside → s.ring.state = .admitted →
      s.inRing a.frame.src.toNat = true → s.readyOrRunning = true →
    Answers (.seekFrame a alone) s fun t =>
      t.twin.peerSolo = alone ∧ t.twin.hand = .sChallenge (Config.nonce s.free) (BitVec.ofNat 128 (leAt (twinBody a.frame) 4 16))
        ∧ t.twin.address = a.frame.src.toNat ∧ t.free = s.free + 1 ∧ SamePair s t
        ∧ Tells a.frame.src.toNat 2 (leBytes 16 (Config.nonce s.free).toNat) s t ∧ Only [.twin, .ring, .free] s t)
  ∧ (∀ (a : Arrival) (alone : Bool) (r : BitVec 4) (s : State), SeekHeard a s →
      (r = 2 ∧ (byteAt (twinBody a.frame) 2 == 1) = s.inp.twside
        ∨ r = 5 ∧ s.twin.hand.holds = false ∧ s.out.passive = false ∧ (s.twin.state = .solo ∨ s.twin.state = .diverged)
            ∧ (byteAt (twinBody a.frame) 2 == 1) ≠ s.inp.twside ∧ (s.ring.state ≠ .admitted ∨ s.inRing a.frame.src.toNat = false)) →
    Answers (.seekFrame a alone) s fun t =>
      t.twin.reason = r ∧ t.twin.hand = s.twin.hand ∧ SamePair s t ∧ Tells a.frame.src.toNat 4 [r.zeroExtend 8] s t
        ∧ Only [.twin, .ring] s t)
  ∧ (∀ (a : Arrival) (alone : Bool) (s : State), SeekHeard a s → s.twin.hand.holds = false → s.out.passive = false →
      (s.twin.state = .solo ∨ s.twin.state = .diverged) → (byteAt (twinBody a.frame) 2 == 1) ≠ s.inp.twside →
      s.ring.state = .admitted → s.inRing a.frame.src.toNat = true → s.readyOrRunning = false →
    Answers (.seekFrame a alone) s fun t =>
      t.twin.reason = 7 ∧ t.twin.hand = s.twin.hand ∧ Tells a.frame.src.toNat 4 [7] s t
        ∧ t.twin.state = (if s.twin.state = .solo ∧ alone = true then .diverged else s.twin.state)
        ∧ Only [.twin, .ring] s t)
  ∧ (∀ (a : Arrival) (alone : Bool) (s : State), SeekHeard a s → s.twin.hand.holds = false → s.out.passive = true →
      (byteAt (twinBody a.frame) 2 == 1) ≠ s.inp.twside →
      (alone = true ∨ s.inp.twside = true ∨ s.pm.state ≠ .ready ∨ s.ring.state ≠ .admitted ∨ s.inRing a.frame.src.toNat = false) →
    Answers (.seekFrame a alone) s fun t => t.twin = s.twin ∧ t.out = s.out ∧ Only [.ring] s t)
  ∧ (∀ (a : Arrival) (s : State), SeekHeard a s → s.twin.hand.holds = false → s.out.passive = true → s.inp.twside = false →
      byteAt (twinBody a.frame) 2 = 1 → s.pm.state = .ready → s.inp.enHigh = 0 → s.pm.onPending = none → s.ring.state = .admitted →
      s.inRing a.frame.src.toNat = true →
    Answers (.seekFrame a) s fun t =>
      t.out = { s.out with passive := false, enpu := true, en := 0, twok := true } ∧ t.twin.state = .solo
        ∧ t.twin.hand = .sChallenge (Config.nonce s.free) (BitVec.ofNat 128 (leAt (twinBody a.frame) 4 16))
        ∧ Only [.out, .twin, .ring, .free] s t)
  ∧ (∀ (t0 : Nat) (s : State), s.twin.seekFrom = some t0 → s.twinEn = true → s.out.passive = true → s.pm.state = .ready →
      s.twin.hand.holds = false → (s.ring.state = .admitted ∨ (s.ring.linkA.up = false ∧ s.ring.linkB.up = false)) → s.inp.enHigh = 0 →
      s.pm.onPending = none →
    Answers .twinSeekTimeout s fun t =>
      t.clk.now = max s.clk.now (t0 + 100 * msTicks)
        ∧ t.out = { s.out with passive := false, enpu := true, en := 0, twok := true }
        ∧ t.twin = { s.twin with state := .solo, seekDue := none, seekFrom := none, hand := .none } ∧ Only [.clk, .out, .twin] s t)
  ∧ (∀ (t0 : Nat) (s : State), s.twin.seekFrom = some t0 → s.twinEn = true → s.out.passive = true → s.pm.state = .ready →
      s.twin.hand.holds = false → (s.ring.state = .admitted ∨ (s.ring.linkA.up = false ∧ s.ring.linkB.up = false)) → s.inp.enHigh ≠ 0 →
    Answers .twinSeekTimeout s fun t =>
      t.twin = { s.twin with state := .blocked, seekFrom := none } ∧ bit t.irq.gl 9 = true ∧ t.out = s.out
        ∧ Only [.clk, .twin, .irq] s t)

/-- The first copies of the messages of a handover (R272). CHALLENGE is answered with PROOF; a right PROOF with SYNC, or REFUSE 0x7 outside Ready
and Running, and a wrong one with REFUSE 0x1; SYNC with READY or, where an EN line, a release mask or a latch disagrees, with ABORT, which
leaves a device that is not passive diverged (R274); READY with COMMIT. REFUSE of the device it is under way with ends the attempt, and leaves
it where it comes from another (Table 10.13). At COMMIT a passive joining device in Ready takes over, in one tick, the release mask, the fail
bits, the chatter counts, the engines' states and flags and T_OFFMIN, and both are in co-supervision. The model's choices: a device that is
alone and not in Ready or Running answers CHALLENGE with ABORT 0x7 and reads diverged (log entry 45); the twin's address is cleared with an
attempt that ends, and COMMIT asserts rails as an ENABLE does (log entry 46). -/
def Obligations.Handovers : Prop :=
  (∀ (a : Arrival) (s : State), TwinMsg a 2 s → s.twin.hand = .jSeek → s.mayJoin = true → s.readyOrRunning = true →
    Answers (.challengeFrame a) s fun t =>
      t.twin.hand = .jProof ∧ t.twin.address = a.frame.src.toNat ∧ SamePair s t
        ∧ Tells a.frame.src.toNat 3 (digestBytes (sha3 (ascii "SKV6400-TWIN" ++ leBytes 16 (leAt (twinBody a.frame) 0 16)
            ++ leBytes 16 s.ident.uid.toNat ++ digestBytes s.twinDigest))) s t
        ∧ Only [.twin, .ring] s t)
  ∧ (∀ (a : Arrival) (n : BitVec 128) (uid : Uid) (s : State), TwinMsg a 3 s → s.twin.hand = .sChallenge n uid →
      a.frame.src.toNat = s.twin.address → s.readyOrRunning = true →
      leAt (twinBody a.frame) 0 32 = (sha3 (ascii "SKV6400-TWIN" ++ leBytes 16 n.toNat ++ leBytes 16 uid.toNat
        ++ digestBytes s.twinDigest)).toNat →
    Answers (.proofFrame a) s fun t =>
      t.twin.hand = .sSync (s.clk.now + 2 * msTicks) ∧ t.twin.uid = uid ∧ t.twin.state = s.twin.state
        ∧ Tells a.frame.src.toNat 5 s.syncBody s t ∧ Only [.twin, .ring] s t)
  ∧ (∀ (a : Arrival) (n : BitVec 128) (uid : Uid) (s : State), TwinMsg a 3 s → s.twin.hand = .sChallenge n uid →
      a.frame.src.toNat = s.twin.address →
      leAt (twinBody a.frame) 0 32 ≠ (sha3 (ascii "SKV6400-TWIN" ++ leBytes 16 n.toNat ++ leBytes 16 uid.toNat
        ++ digestBytes s.twinDigest)).toNat →
    Answers (.proofFrame a) s fun t =>
      t.twin.hand = .none ∧ t.twin.reason = 1 ∧ t.twin.state = s.twin.state ∧ Tells a.frame.src.toNat 4 [1] s t
        ∧ Only [.twin, .ring] s t)
  ∧ (∀ (a : Arrival) (n : BitVec 128) (uid : Uid) (s : State), TwinMsg a 3 s → s.twin.hand = .sChallenge n uid →
      a.frame.src.toNat = s.twin.address → s.readyOrRunning = false →
      leAt (twinBody a.frame) 0 32 = (sha3 (ascii "SKV6400-TWIN" ++ leBytes 16 n.toNat ++ leBytes 16 uid.toNat
        ++ digestBytes s.twinDigest)).toNat →
    Answers (.proofFrame a) s fun t =>
      t.twin.hand = .none ∧ t.twin.reason = 7 ∧ Tells a.frame.src.toNat 4 [7] s t ∧ Only [.twin, .ring, .free] s t)
  ∧ (∀ (a : Arrival) (s : State), TwinMsg a 2 s → s.twin.hand = .jSeek → s.mayJoin = true → s.readyOrRunning = false →
      s.out.passive = false →
    Answers (.challengeFrame a) s fun t =>
      t.twin.hand = .none ∧ t.twin.state = .diverged ∧ t.twin.reason = 7 ∧ Tells a.frame.src.toNat 8 [7] s t ∧ Only [.twin, .ring] s t)
  ∧ (∀ (a : Arrival) (s : State), TwinMsg a 4 s →
      (s.twin.hand = .jSeek ∨ s.twin.hand = .jProof ∧ a.frame.src.toNat = s.twin.address) →
    Answers (.twinRefuse a) s fun t =>
      t.twin.hand = (if s.twin.hand = .jSeek then .jSeek else .none) ∧ t.twin.reason = BitVec.ofNat 4 (byteAt (twinBody a.frame) 0)
        ∧ (s.out.passive = true ∨ byteAt (twinBody a.frame) 0 ≠ 7 → t.twin.state = s.twin.state)
        ∧ (s.out.passive = false → byteAt (twinBody a.frame) 0 = 7 → t.twin.state = .diverged) ∧ t.out = s.out
        ∧ Only [.twin, .ring] s t)
  ∧ (∀ (a : Arrival) (s : State), TwinMsg a 4 s → s.twin.hand ≠ .jSeek →
      (s.twin.hand ≠ .jProof ∨ a.frame.src.toNat ≠ s.twin.address) →
    Answers (.twinRefuse a) s fun t => t.twin = s.twin ∧ Only [.ring] s t)
  ∧ (∀ (a : Arrival) (s : State), TwinMsg a 5 s → s.twin.hand = .jProof → a.frame.src.toNat = s.twin.address → s.readyOrRunning = true →
      s.out.passive = true → s.inp.enHigh = BitVec.ofNat 64 (leAt (twinBody a.frame) 2 8) →
      (s.pm.faultLatch = false ∨ byteAt (twinBody a.frame) 1 = 1) →
    Answers (.twinSync a) s fun t =>
      t.twin.hand = .jReady (twinBody a.frame) (s.clk.now + 2 * msTicks) ∧ SamePair s t ∧ Tells a.frame.src.toNat 6 [] s t
        ∧ Only [.twin, .ring] s t)
  ∧ (∀ (a : Arrival) (r : BitVec 4) (s : State), TwinMsg a 5 s → s.twin.hand = .jProof → a.frame.src.toNat = s.twin.address →
      s.readyOrRunning = true → s.out.passive = true →
      (r = 3 ∧ s.inp.enHigh ≠ BitVec.ofNat 64 (leAt (twinBody a.frame) 2 8)
        ∨ r = 8 ∧ s.inp.enHigh = BitVec.ofNat 64 (leAt (twinBody a.frame) 2 8) ∧ s.pm.faultLatch = true
            ∧ byteAt (twinBody a.frame) 1 ≠ 1) →
    Answers (.twinSync a) s fun t =>
      t.twin.hand = .none ∧ t.twin.reason = r ∧ t.twin.seekDue = some (s.clk.now + 100 * msTicks) ∧ SamePair s t
        ∧ Tells a.frame.src.toNat 8 [r.zeroExtend 8] s t ∧ t.out = s.out ∧ Only [.twin, .ring] s t)
  ∧ (∀ (a : Arrival) (s : State), TwinMsg a 5 s → s.twin.hand = .jProof → a.frame.src.toNat = s.twin.address →
      s.readyOrRunning = true → s.out.passive = false →
    Answers (.twinSync a) s fun t =>
      (s.out.en = BitVec.ofNat 64 (leAt (twinBody a.frame) 2 8) → (s.pm.faultLatch = true ↔ byteAt (twinBody a.frame) 1 = 1) →
          t.twin.hand = .jReady (twinBody a.frame) (s.clk.now + 2 * msTicks) ∧ Tells a.frame.src.toNat 6 [] s t)
        ∧ (s.out.en ≠ BitVec.ofNat 64 (leAt (twinBody a.frame) 2 8) →
          t.twin.hand = .none ∧ t.twin.state = .diverged ∧ Tells a.frame.src.toNat 8 [3] s t)
        ∧ (s.out.en = BitVec.ofNat 64 (leAt (twinBody a.frame) 2 8) → ¬ (s.pm.faultLatch = true ↔ byteAt (twinBody a.frame) 1 = 1) →
          t.twin.hand = .none ∧ t.twin.state = .diverged ∧ Tells a.frame.src.toNat 8 [8] s t)
        ∧ Only [.twin, .ring] s t)
  ∧ (∀ (a : Arrival) (due : Nat) (s : State), TwinMsg a 6 s → s.twin.hand = .sSync due → a.frame.src.toNat = s.twin.address →
      s.twin.heldOn = [] → (s.pm.onPending = none ∨ s.mayFire = false) →
    Answers (.twinReady a) s fun t =>
      t.twin.state = .co ∧ t.twin.hand = .none ∧ t.twin.hbDue = some (s.clk.now + 100 * usTicks) ∧ t.twin.lastHb = s.clk.now
        ∧ t.twin.address = s.twin.address ∧ bit t.irq.gl 6 = true ∧ Tells a.frame.src.toNat 7 [] s t ∧ t.out = s.out
        ∧ Only [.twin, .ring, .irq] s t)
  ∧ (∀ (a : Arrival) (p : List Byte) (due : Nat) (s : State), TwinMsg a 7 s → s.twin.hand = .jReady p due →
      a.frame.src.toNat = s.twin.address → s.out.passive = true → s.out.en = 0 → s.twin.heldOn = [] → s.pm.state = .ready →
      s.kiln.engines.length = 5 → s.pm.onPending = none →
    Answers (.twinCommit a) s fun t =>
      t.out.passive = false ∧ t.out.enpu = true ∧ t.out.twok = s.twinEn ∧ t.out.en = BitVec.ofNat 64 (leAt p 2 8)
        ∧ t.twin.state = .co ∧ t.twin.hand = .none ∧ t.twin.hbDue = some (s.clk.now + 100 * usTicks) ∧ bit t.irq.gl 6 = true
        ∧ t.kiln.failBits = BitVec.ofNat 64 (leAt p 30 8) ∧ (∀ n, n < 64 → Tab.getD t.kiln.chatter n 0 = byteAt p (38 + n))
        ∧ (∀ k, k < 5 → (t.eng k).st = engStateOf (byteAt p (10 + 4 * k)) ∧ (t.eng k).pc = leAt p (11 + 4 * k) 2
            ∧ ((t.eng k).cf = true ↔ byteAt p (13 + 4 * k) % 2 = 1))
        ∧ t.pm.offMinDue = (if leAt p 102 2 = 0 then none else some (s.clk.now + leAt p 102 2 * msTicks))
        ∧ (byteAt p 1 = 1 ∨ s.pm.faultLatch = true → t.pm.faultLatch = true)
        ∧ (byteAt p 0 = 5 → t.pm.state = .running ∧ t.pm.lastCause = 0x18 ∨ t.pm.state = .cooling)
        ∧ (byteAt p 0 = 5 → leAt p 2 8 = 0 → t.pm.state = .running ∧ t.pm.lastCause = 0x18)
        ∧ (byteAt p 0 = 3 → leAt p 2 8 = 0 → byteAt p 1 ≠ 1 → t.pm.state = .ready ∧ t.pm.faultLatch = s.pm.faultLatch))

/-- The twin's ABORT, or 2 ms without the next message, ends a handover (R273, Table 10.13): the joining device stays as it is and seeks again
100 ms later; the serving device tells it why at the timeout, and where both are solo it is diverged by an ABORT for masks, latches or the
state (R274); one that has sent COMMIT already is solo again with no cause 0x14. An on request that was held, or one pending whose T_OFFMIN
has elapsed meanwhile, fires at the timeout where nothing is in its way (R20). That the address of the other device is cleared with the attempt
is the model's choice (log entry 46), and so is that a row outside a handover changes nothing (log entry 2). -/
def Obligations.InterruptedHandovers : Prop :=
  (∀ (a : Arrival) (s : State), TwinMsg a 8 s → a.frame.src.toNat = s.twin.address → s.twin.address ≠ 0 → s.twin.heldOn = [] →
      (s.pm.onPending = none ∨ s.mayFire = false) → (s.twin.hand = .jProof ∨ ∃ p due, s.twin.hand = .jReady p due) →
    Answers (.twinAbort a) s fun t =>
      t.twin.hand = .none ∧ t.twin.reason = BitVec.ofNat 4 (byteAt (twinBody a.frame) 0) ∧ t.twin.address = 0
        ∧ t.twin.seekDue = some (s.clk.now + 100 * msTicks) ∧ SamePair s t ∧ t.out = s.out ∧ Only [.twin, .ring] s t)
  ∧ (∀ (a : Arrival) (due : Nat) (s : State), TwinMsg a 8 s → a.frame.src.toNat = s.twin.address → s.twin.address ≠ 0 → s.twin.heldOn = [] →
      (s.pm.onPending = none ∨ s.mayFire = false) → s.twin.hand = .sSync due →
    Answers (.twinAbort a) s fun t =>
      let r := byteAt (twinBody a.frame) 0
      t.twin.hand = .none ∧ t.twin.address = 0 ∧ t.twin.reason = BitVec.ofNat 4 r
        ∧ t.twin.state = (if s.twin.state = .solo ∧ s.twin.peerSolo = true ∧ (r = 3 ∨ r = 7 ∨ r = 8) then .diverged else s.twin.state)
        ∧ Only [.twin, .ring] s t)
  ∧ (∀ (a : Arrival) (s : State), TwinMsg a 8 s → a.frame.src.toNat = s.twin.address → s.twin.address ≠ 0 → s.twin.hand = .none →
      s.twin.state = .co →
    Answers (.twinAbort a) s fun t =>
      t.twin.state = .solo ∧ t.twin.hbDue = none ∧ t.twin.lost = s.twin.lost ∧ t.pm = s.pm ∧ Only [.twin, .ring] s t)
  ∧ (∀ s : State, s.twin.hand.holds = false → Answers .handoverTimeout s fun t => t = s)
  ∧ (∀ (due : Nat) (s : State), s.twin.hand = .sSync due → s.twin.heldOn = [] → (s.pm.onPending = none ∨ s.mayFire = false) →
    Answers .handoverTimeout s fun t =>
      t.clk.now = max s.clk.now due ∧ t.twin.hand = .none ∧ t.twin.reason = 4 ∧ t.twin.state = s.twin.state
        ∧ Tells s.twin.address 8 [4] s t ∧ Only [.clk, .twin, .ring] s t)
  ∧ (∀ (c : Byte) (due : Nat) (s : State), s.twin.hand = .sSync due → s.twin.heldOn = [] → s.pm.onPending = some c → s.mayFire = true →
    Answers .handoverTimeout s fun t =>
      t.twin.hand = .none ∧ t.pm.onPending = none ∧ (SomeEngine s → t.pm.state = .firing ∧ t.pm.lastCause = c)
        ∧ (¬ SomeEngine s → t.pm.state = .running))
  ∧ (∀ (p : List Byte) (due : Nat) (s : State), s.twin.hand = .jReady p due → s.twin.heldOn = [] →
      (s.pm.onPending = none ∨ s.mayFire = false) →
    Answers .handoverTimeout s fun t =>
      t.clk.now = max s.clk.now due ∧ t.twin.hand = .none ∧ t.twin.seekDue = some (t.clk.now + 100 * msTicks) ∧ t.out = s.out
        ∧ Only [.clk, .twin] s t)
  ∧ (∀ (c : Byte) (due : Nat) (s : State), s.twin.hand = .sSync due → s.twin.heldOn = [c] →
      s.twin.state = .solo → s.mayFire = true → (s.till due).onJoins = none →
    Answers .handoverTimeout s fun t =>
      t.twin.heldOn = [] ∧ t.twin.hand = .none ∧ (SomeEngine s → t.pm.state = .firing ∧ t.pm.lastCause = c)
        ∧ (¬ SomeEngine s → t.pm.state = .running))

/-- A step of the block is the command at the front of its queue, run with the queue's rest; with an empty queue one core tick passes, the
model's choice (log entry 3). -/
def Obligations.StepRunsTheFrontCommand : Prop :=
  (∀ (c : Instr) (rest : List Instr) (s : State), s.pending = c :: rest → step s = exec c { s with pending := rest })
  ∧ (∀ s : State, s.pending = [] → ∃ t, step s = .next t ∧ t.clk.now = s.clk.now + 1 ∧ Only [.clk] s t)

/-- No command ends in a fault or a refusal: every command answers a next state in every state, with any operands (log entries 2 and 6). -/
def Obligations.EveryCommandAnswers : Prop := ∀ (i : Instr) (s : State), ∃ t, exec i s = .next t

/-- R11, R34, R40, R61, R226, R237, R250: reset leaves the device in Starting with every comparator unresolved and on the fault side, no rail
enabled, PFW, TRIPO and HRST asserted, every configuration register reading 0, no owner, no link, and nothing waiting; the state is well
kept. The instant that reset stands for, and the values of the latch, the fault records, m, the eligible mask, the keys and the owner, are
the model's choice (log entries 8 and 9). -/
def Obligations.ResetState : Prop :=
  State.reset.pm.state = .starting ∧ State.reset.pm.resetCause = 1 ∧ State.reset.pm.faultLatch = false
    ∧ (∀ x, x < 256 → (State.reset.cmp x).status = .unresolved ∧ (State.reset.cmp x).out = true)
    ∧ State.reset.out.en = 0 ∧ State.reset.out.enpu = false ∧ State.reset.out.pfw = true ∧ State.reset.out.tripo = true
    ∧ State.reset.out.hrst = true ∧ State.reset.out.twok = false
    ∧ (∀ a r, regAt a = some r → r.row.keep = .cfg → State.reset.cfgAt a = 0)
    ∧ State.reset.sec.m = 2 ∧ State.reset.sec.eligible = 7 ∧ State.reset.sec.owned = false
    ∧ (∀ i, (nth State.reset.sec.slots i {}).filled = false)
    ∧ State.reset.ring.state = .noLink ∧ State.reset.ring.address = 0 ∧ State.reset.fault.first = none
    ∧ State.reset.fault.queue = [] ∧ State.reset.port.cmds = [] ∧ State.reset.port.replies = [] ∧ State.reset.clk.tbSet = false
    ∧ State.reset.pending = [] ∧ State.reset.tablesOk = true ∧ State.reset.unitsOk = true

/-- In every state, reached or not, a step keeps the stores and tables in canonical form and the lists of units at their lengths. -/
def Obligations.StepsKeepTheForm : Prop :=
  ∀ s t : State, step s = .next t → s.tablesOk = true → s.unitsOk = true → t.tablesOk = true ∧ t.unitsOk = true

/-- R227 for the held counters, the rest by log entries 1 and 7: no command touches the queue or the identity, turns time or the numbering of
free values back, or lowers a held counter. -/
def Obligations.CommandsNeverTurnBack : Prop := ∀ (i : Instr) (s t : State), exec i s = .next t → Keeps s t

/-- R9, R126, R141, R172, R211, R229, R246: the configuration, the two program stores, the cooling tables, the calibration set and the key
table change only by the commands that write them. -/
def Obligations.OnlyTheirCommandsWrite : Prop :=
  (∀ (i : Instr) (s t : State), exec i s = .next t → ¬ WritesCfg i → t.cfg = s.cfg)
  ∧ (∀ (i : Instr) (s t : State), exec i s = .next t → (∀ b, i ≠ .programLoad b) → (∀ b, i ≠ .imageLoad b) → t.kiln.store = s.kiln.store)
  ∧ (∀ (i : Instr) (s t : State), exec i s = .next t → (∀ b, i ≠ .saggarProgramLoad b) → (∀ b, i ≠ .imageLoad b) →
      t.kiln.sgStore = s.kiln.sgStore)
  ∧ (∀ (i : Instr) (s t : State), exec i s = .next t → (∀ b, i ≠ .tableLoad b) → (∀ b, i ≠ .htableLoad b) → (∀ b, i ≠ .imageLoad b) →
      t.fault.tables = s.fault.tables)
  ∧ (∀ (i : Instr) (s t : State), exec i s = .next t → (∀ b, i ≠ .calibrationWrite b) → t.mg.cal = s.mg.cal)
  ∧ (∀ (i : Instr) (s t : State), exec i s = .next t → ¬ ChangesKeys i → SameKeys s t)

/-- R19, R135: only CLEAR resets the fault latch, and only BISQUE_CLEAR empties the first-fault and bisque records; no later fault overwrites
either. -/
def Obligations.LatchAndRecordsStay : Prop :=
  (∀ (i : Instr) (s t : State), exec i s = .next t → i ≠ .clearCmd → s.pm.faultLatch = true → t.pm.faultLatch = true)
  ∧ (∀ (i : Instr) (x : FaultRec × Nat) (s t : State), exec i s = .next t → i ≠ .bisqueClear → s.fault.first = some x → t.fault.first = some x)
  ∧ (∀ (i : Instr) (s t : State), exec i s = .next t → i ≠ .bisqueClear → s.fault.bisque.filled = true → t.fault.bisque = s.fault.bisque)

/-- R136: a grade T or H fault and a force-off each set the fault latch, whether they start a shutdown or enter the fault queue. -/
def Obligations.FaultsSetTheLatch : Prop :=
  (∀ (f : FaultRec) (table : Nat) (s : State), (f.grade = 2 ∨ f.grade = 3) → s.pm.state ≠ .off → s.pm.state ≠ .coppice →
    (s.receiveAs f table).pm.faultLatch = true)
  ∧ (∀ s : State, s.pm.state ≠ .off → s.pm.state ≠ .coppice → s.forceOff.pm.faultLatch = true)

/-- R24: a device in Coppice mode stays there until a device reset or until VIN falls below 4.0 V; no command reaches it; it leaves by full
start-up, and cause 0x42 is then recorded. -/
def Obligations.CoppiceStays : Prop :=
  (∀ (i : Instr) (s t : State), exec i s = .next t → s.pm.state = .coppice →
    t.pm.state = .coppice ∨ (t.pm.state = .off ∧ (i = .vinBelow4v ∨ s.pm.committing = true))
      ∨ (t.pm.state = .starting ∧ t.pm.stage = 1 ∧ t.pm.lastCause = 0x42 ∧ i = .mrHoldReset))
  ∧ (∀ (bytes : List Byte) (s : State), s.pm.state = .coppice → exec (.spiWrite bytes) s = .next s)
  ∧ (∀ (f : Arrival) (s : State), s.pm.state = .coppice → exec (.commandFrame f) s = .next s ∧ exec (.broadcastFrame f) s = .next s)

/-- R12, R105, R272: a rail is enabled by nothing but an ENABLE step of an engine or, at the joining device of a handover, COMMIT. -/
def Obligations.RailsAreEnabledOnlyBySteps : Prop :=
  ∀ (i : Instr) (n : Nat) (s t : State), exec i s = .next t → bit t.out.en n = true → bit s.out.en n = false →
    (∃ k f, i = .enableStep k f) ∨ ∃ a, i = .twinCommit a
end

