-- ==== Sys2Proof/Laws/Crossing.lean ====
section
/-! SUPPORT. Sys2Proof/Laws/Crossing.lean: what the crossings between clock domains do, each in one lemma (R317 to R320). -/

set_option Elab.async false

namespace Sys2Proof.Machine

/-- A level held for as many destination cycles as the chain has flip-flops is seen (R317). -/
theorem Chain.seen_held (level : Bool) (c : Chain) (h : c ≠ []) : ((Chain.clock · level)^[c.length] c).seen = level := by
  have g : ∀ k, k ≤ c.length → (Chain.clock · level)^[k] c = List.replicate k level ++ c.take (c.length - k) := by
    intro k
    induction k with
    | zero => simp
    | succ k ih =>
      intro hk
      rw [Function.iterate_succ_apply', ih (by omega), Chain.clock, List.replicate_succ, List.cons_append]
      have hl : (List.replicate k level ++ c.take (c.length - k)).length = c.length := by simp; omega
      rw [hl, show c.length = (c.length - 1) + 1 by omega, List.take_succ_cons, List.take_append]
      simp only [List.length_replicate, List.take_replicate, List.take_take]
      congr 3 <;> omega
  rw [g _ le_rfl]
  have hc : c.length ≠ 0 := by simpa using h
  simp [Chain.seen, List.getLast?_replicate, hc]

/-- After a request of one pulse, n pulses are counted without a loss up to 15, and the sixteenth is lost (R319). -/
theorem PulseX.sent_pulses (n : Nat) : PulseX.sent.pulses n = { request := 1, count := min n 15, lost := decide (15 < n) } := by
  induction n with
  | zero => rfl
  | succ n ih =>
    rw [PulseX.pulses, ih, PulseX.pulse]
    by_cases h : n < 15
    · have h1 : min n 15 = n := by omega
      have h2 : min (n + 1) 15 = n + 1 := by omega
      simp [h1, h, show ¬ 15 < n by omega, show ¬ 15 < n + 1 by omega]
    · have h1 : min n 15 = 15 := by omega
      have h2 : min (n + 1) 15 = 15 := by omega
      simp [h1, h2, show 15 < n + 1 by omega]

/-- The acknowledge delivers the count of the pulses between, 1 to 15 of them (R319). -/
theorem PulseX.acknowledge_count (n : Nat) : (PulseX.sent.pulses n).acknowledge.request = min n 15 := by
  rw [PulseX.sent_pulses]
  rfl

/-- A value is visible in the cycle after the one in which two consecutive samples of it agree (R318). -/
theorem ValueX.visible_after {α : Type} [DecidableEq α] (x : ValueX α) (v w : α) :
    (((x.clock v).clock v).clock w).visible = v := by
  simp [ValueX.clock]

/-- A word can be read d + 1 destination cycles after its write, and no sooner (R320). -/
theorem FifoX.readable_write {α : Type} (w : α) (t d now : Nat) :
    (({} : FifoX α).write w t).readable d now = if t + d + 1 ≤ now then some w else none := rfl

/-- CK_XING_OVF takes the bit of a crossing on which a pulse was lost (R319). -/
theorem lostPulses_eq (x : Seen) :
    lostPulses x = (if 15 < x.pulses1 then 2 else 0) ||| (if 15 < x.pulses2 then 4 else 0) := by
  simp only [lostPulses, PulseX.sent_pulses]
  by_cases h1 : 15 < x.pulses1 <;> by_cases h2 : 15 < x.pulses2 <;> simp [h1, h2] <;> rfl

end Sys2Proof.Machine
end

