-- ==== Sys2Proof/Laws/Tab.lean ====
section
/-! SUPPORT. Sys2Proof/Laws/Tab.lean: the sparse tables: every operation keeps the canonical form, and a read sees the last
write. -/

set_option Elab.async false

namespace Sys2Proof.Machine

variable {α β : Type}

/-- The canonical form as a chain of keys. -/
theorem Tab.wf_iff (t : Tab α) : Tab.wf t = true ↔ (t.map Prod.fst).Pairwise (· < ·) := by
  induction t with
  | nil => simp [Tab.wf]
  | cons x t ih =>
    obtain ⟨a, x⟩ := x
    cases t with
    | nil => simp [Tab.wf]
    | cons y t =>
      obtain ⟨b, y⟩ := y
      simp only [Tab.wf, Bool.and_eq_true, decide_eq_true_eq, ih]
      simp only [List.map_cons, List.pairwise_cons, List.mem_cons]
      constructor
      · rintro ⟨hab, hb, ht⟩
        refine ⟨?_, hb, ht⟩
        rintro k (rfl | hk)
        · exact hab
        · exact hab.trans (hb k hk)
      · rintro ⟨ha, hb, ht⟩
        exact ⟨ha b (Or.inl rfl), hb, ht⟩

theorem Tab.wf_nil : Tab.wf ([] : Tab α) = true := rfl

theorem Tab.wf_cons {a : Nat} {x : α} {t : Tab α} :
    Tab.wf ((a, x) :: t) = true ↔ (∀ e ∈ t, a < e.1) ∧ Tab.wf t = true := by
  simp [Tab.wf_iff]

theorem Tab.mem_insert {t : Tab α} {k : Nat} {v : α} {e : Nat × α} (h : e ∈ Tab.insert t k v) : e = (k, v) ∨ e ∈ t := by
  induction t with
  | nil => simpa [Tab.insert] using h
  | cons x t ih =>
    simp only [Tab.insert] at h
    split at h
    · simpa using h
    · split at h
      · rcases List.mem_cons.1 h with h | h
        · exact Or.inl h
        · exact Or.inr (List.mem_cons_of_mem _ h)
      · rcases List.mem_cons.1 h with h | h
        · exact Or.inr (by simp [h])
        · exact (ih h).imp id (List.mem_cons_of_mem _)

theorem Tab.mem_erase {t : Tab α} {k : Nat} {e : Nat × α} (h : e ∈ Tab.erase t k) : e ∈ t := by
  induction t with
  | nil => simp [Tab.erase] at h
  | cons x t ih =>
    simp only [Tab.erase] at h
    split at h
    · exact List.mem_cons_of_mem _ h
    · split at h
      · exact h
      · rcases List.mem_cons.1 h with h | h
        · simp [h]
        · exact List.mem_cons_of_mem _ (ih h)

theorem Tab.wf_insert {t : Tab α} (h : Tab.wf t = true) (k : Nat) (v : α) : Tab.wf (Tab.insert t k v) = true := by
  induction t with
  | nil => rfl
  | cons x t ih =>
    obtain ⟨a, x⟩ := x
    obtain ⟨ha, ht⟩ := Tab.wf_cons.1 h
    simp only [Tab.insert]
    split
    · rename_i hk
      refine Tab.wf_cons.2 ⟨?_, h⟩
      rintro e he
      rcases List.mem_cons.1 he with he | he
      · simpa [he] using hk
      · exact hk.trans (ha e he)
    · split
      · rename_i hk
        subst hk
        exact Tab.wf_cons.2 ⟨ha, ht⟩
      · refine Tab.wf_cons.2 ⟨?_, ih ht⟩
        intro e he
        rcases Tab.mem_insert he with he | he
        · simp only [he]
          omega
        · exact ha e he

theorem Tab.wf_erase {t : Tab α} (h : Tab.wf t = true) (k : Nat) : Tab.wf (Tab.erase t k) = true := by
  induction t with
  | nil => rfl
  | cons x t ih =>
    obtain ⟨a, x⟩ := x
    obtain ⟨ha, ht⟩ := Tab.wf_cons.1 h
    simp only [Tab.erase]
    split
    · exact ht
    · split
      · exact h
      · exact Tab.wf_cons.2 ⟨fun e he => ha e (Tab.mem_erase he), ih ht⟩

theorem Tab.wf_put [DecidableEq α] {t : Tab α} (h : Tab.wf t = true) (d : α) (k : Nat) (v : α) :
    Tab.wf (Tab.put d t k v) = true := by
  unfold Tab.put
  split
  · exact Tab.wf_erase h k
  · exact Tab.wf_insert h k v

theorem Tab.wf_mapVal {t : Tab α} (h : Tab.wf t = true) (f : Nat × α → β) :
    Tab.wf (t.map (fun e => (e.1, f e)) : Tab β) = true := by
  rw [Tab.wf_iff] at *
  simpa [Function.comp_def] using h

theorem Tab.wf_filter {t : Tab α} (h : Tab.wf t = true) (p : Nat × α → Bool) : Tab.wf (t.filter p : Tab α) = true := by
  rw [Tab.wf_iff] at *
  exact h.sublist (List.filter_sublist.map _)

/-- Many writes one after another keep the canonical form. -/
theorem Tab.wf_foldl {γ : Type} (f : Tab α → γ → Tab α) (hf : ∀ t x, Tab.wf t = true → Tab.wf (f t x) = true) (l : List γ)
    {t : Tab α} (h : Tab.wf t = true) : Tab.wf (l.foldl f t) = true := by
  induction l generalizing t with
  | nil => exact h
  | cons x l ih => exact ih (hf t x h)

theorem Tab.get?_none {t : Tab α} {k : Nat} (h : ∀ e ∈ t, k < e.1) : Tab.get? t k = none := by
  induction t with
  | nil => rfl
  | cons x t ih =>
    obtain ⟨a, x⟩ := x
    have ha : k < a := h (a, x) (by simp)
    simp only [Tab.get?]
    rw [if_neg (by omega)]
    exact ih (fun e he => h e (List.mem_cons_of_mem _ he))

theorem Tab.get?_insert (t : Tab α) (k j : Nat) (v : α) (h : Tab.wf t = true) :
    Tab.get? (Tab.insert t k v) j = if k = j then some v else Tab.get? t j := by
  induction t with
  | nil => simp [Tab.insert, Tab.get?]
  | cons x t ih =>
    obtain ⟨a, x⟩ := x
    obtain ⟨ha, ht⟩ := Tab.wf_cons.1 h
    simp only [Tab.insert]
    split
    · simp [Tab.get?]
    · split
      · rename_i hk
        subst hk
        by_cases hj : a = j <;> simp [Tab.get?, hj]
      · rename_i h1 h2
        simp only [Tab.get?, ih ht]
        by_cases hj : a = j
        · subst hj
          rw [if_pos rfl, if_neg (fun hk => h2 hk.symm), if_pos rfl]
        · simp [hj]

theorem Tab.get?_erase (t : Tab α) (k j : Nat) (h : Tab.wf t = true) :
    Tab.get? (Tab.erase t k) j = if k = j then none else Tab.get? t j := by
  induction t with
  | nil => simp [Tab.erase, Tab.get?]
  | cons x t ih =>
    obtain ⟨a, x⟩ := x
    obtain ⟨ha, ht⟩ := Tab.wf_cons.1 h
    simp only [Tab.erase]
    split
    · rename_i hk
      subst hk
      by_cases hj : a = j
      · subst hj
        simp [Tab.get?_none ha]
      · simp [Tab.get?, hj]
    · split
      · rename_i h1 h2
        by_cases hj : k = j
        · subst hj
          rw [if_pos rfl]
          refine Tab.get?_none ?_
          rintro e he
          rcases List.mem_cons.1 he with he | he
          · simpa [he] using h2
          · exact h2.trans (ha e he)
        · rw [if_neg hj]
      · rename_i h1 h2
        simp only [Tab.get?, ih ht]
        by_cases hj : a = j
        · subst hj
          rw [if_pos rfl, if_neg (fun hk => h1 hk.symm), if_pos rfl]
        · simp [hj]

/-- A read after a write gives the value written, and every other key reads as before. -/
theorem Tab.getD_put [DecidableEq α] (t : Tab α) (d : α) (k j : Nat) (v : α) (h : Tab.wf t = true) :
    Tab.getD (Tab.put d t k v) j d = if k = j then v else Tab.getD t j d := by
  unfold Tab.put Tab.getD
  split
  · rename_i hv
    rw [Tab.get?_erase t k j h]
    by_cases hk : k = j <;> simp [hk, hv]
  · rw [Tab.get?_insert t k j v h]
    by_cases hk : k = j <;> simp [hk]

theorem Tab.sparse_put [DecidableEq α] {d : α} {t : Tab α} (h : Tab.sparse d t = true) (k : Nat) (v : α) :
    Tab.sparse d (Tab.put d t k v) = true := by
  simp only [Tab.sparse, List.all_eq_true, decide_eq_true_eq] at *
  unfold Tab.put
  intro e he
  split at he
  · exact h e (Tab.mem_erase he)
  · rename_i hv
    rcases Tab.mem_insert he with he | he
    · simpa [he] using hv
    · exact h e he

@[simp] theorem modNth_length (l : List α) (i : Nat) (f : α → α) : (modNth l i f).length = l.length := by
  simp [modNth]

theorem nth_modNth (l : List α) (i j : Nat) (f : α → α) (d : α) (hi : i < l.length) :
    nth (modNth l i f) j d = if i = j then f (nth l i d) else nth l j d := by
  unfold nth modNth
  rw [List.getElem?_modify]
  by_cases h : i = j
  · subst h
    simp [List.getElem?_eq_getElem hi]
  · simp [h]

/-- Beyond the list nothing changes, so a place that is not the changed one reads as before. -/
theorem nth_modNth_ne (l : List α) (i j : Nat) (f : α → α) (d : α) (h : i ≠ j) : nth (modNth l i f) j d = nth l j d := by
  unfold nth modNth
  rw [List.getElem?_modify]
  simp [h]

end Sys2Proof.Machine
end

