-- ==== Sys2Proof/Laws/Keeps.lean ====
section
/-! SUPPORT. Sys2Proof/Laws/Keeps.lean: the relation Keeps composes, and which updates of State are within it. -/

set_option Elab.async false

namespace Sys2Proof.Machine

/-- The lengths of the unit lists, one by one. -/
theorem State.units_of {t u : State}
    (g1 : t.sense.convs.length = 4 → u.sense.convs.length = 4)
    (g2 : t.sense.groups.length = 4 → u.sense.groups.length = 4)
    (g3 : t.kiln.engines.length = 5 → u.kiln.engines.length = 5)
    (g4 : t.clk.outs.length = 4 → u.clk.outs.length = 4)
    (g5 : t.fault.tables.length = 8 → u.fault.tables.length = 8)
    (g6 : t.sec.slots.length = 8 → u.sec.slots.length = 8)
    (g7 : t.tw.length = 4 → u.tw.length = 4)
    (g8 : t.pwm.chs.length = 16 → u.pwm.chs.length = 16) :
    t.unitsOk = true → u.unitsOk = true := by
  intro x
  simp only [State.unitsOk, Bool.and_eq_true, beq_iff_eq] at *
  obtain ⟨⟨⟨⟨⟨⟨⟨x1, x2⟩, x3⟩, x4⟩, x5⟩, x6⟩, x7⟩, x8⟩ := x
  exact ⟨⟨⟨⟨⟨⟨⟨g1 x1, g2 x2⟩, g3 x3⟩, g4 x4⟩, g5 x5⟩, g6 x6⟩, g7 x7⟩, g8 x8⟩

theorem Keeps.refl (s : State) : Keeps s s := ⟨rfl, rfl, le_rfl, le_rfl, fun _ => le_rfl, id, id⟩

theorem Keeps.trans {a b c : State} (h : Keeps a b) (k : Keeps b c) : Keeps a c :=
  ⟨k.pending.trans h.pending, k.ident.trans h.ident, h.now.trans k.now, h.free.trans k.free,
    fun i => (h.counters i).trans (k.counters i), fun x => k.tables (h.tables x),
    fun x => k.units (h.units x)⟩

/-- An update of anything but the queue, the identity, the tick count, the free values' numbering, the key slots and the tables. -/
theorem Keeps.upd {a t u : State} (h : Keeps a t) (hp : u.pending = t.pending) (hi : u.ident = t.ident)
    (hn : u.clk.now = t.clk.now) (hf : u.free = t.free) (hk : u.sec.slots = t.sec.slots) (h1 : u.cfg = t.cfg)
    (h2 : u.sense.cmps = t.sense.cmps) (h3 : u.sense.readings = t.sense.readings) (h4 : u.kiln.store = t.kiln.store)
    (h5 : u.kiln.sgStore = t.kiln.sgStore) (h6 : u.mg.trims = t.mg.trims) (h7 : u.kiln.chatter = t.kiln.chatter)
    (h8 : u.log.fr.slots = t.log.fr.slots) (h9 : u.log.fa.slots = t.log.fa.slots) (hq : u.sec.copiesOk = t.sec.copiesOk)
    (g1 : t.sense.convs.length = 4 → u.sense.convs.length = 4 := by first | exact id | exact fun _ => rfl | simp)
    (g2 : t.sense.groups.length = 4 → u.sense.groups.length = 4 := by first | exact id | exact fun _ => rfl | simp)
    (g3 : t.kiln.engines.length = 5 → u.kiln.engines.length = 5 := by first | exact id | exact fun _ => rfl | simp)
    (g4 : t.clk.outs.length = 4 → u.clk.outs.length = 4 := by first | exact id | exact fun _ => rfl | simp)
    (g5 : t.fault.tables.length = 8 → u.fault.tables.length = 8 := by first | exact id | exact fun _ => rfl | simp)
    (g6 : t.sec.slots.length = 8 → u.sec.slots.length = 8 := by first | exact id | exact fun _ => rfl | simp)
    (g7 : t.tw.length = 4 → u.tw.length = 4 := by first | exact id | exact fun _ => rfl | simp)
    (g8 : t.pwm.chs.length = 16 → u.pwm.chs.length = 16 := by first | exact id | exact fun _ => rfl | simp) : Keeps a u := by
  refine h.trans ⟨hp, hi, hn.ge, hf.ge, fun i => ?_, fun x => ?_, State.units_of g1 g2 g3 g4 g5 g6 g7 g8⟩
  · simp [State.heldCounter, hk]
  · simpa [State.tablesOk, h1, h2, h3, h4, h5, h6, h7, h8, h9, hq] using x

/-- A record update that leaves those parts as they were. -/
theorem Keeps.mk_upd {a t : State} {clk : Clk} {pm : Pm} {out : Out} {inp : In} {ctl : Ctl} {sense : Sense} {kiln : Kiln}
    {walk : Walk} {fault : FaultBlk} {irq : Irq} {mg : Mg} {log : Log} {cfg : Tab Word} {cfgLoaded sgLoaded : Bool} {port : Port}
    {sec : Sec} {ring : Ring} {twin : Twin} {tw : List TwPort} {twEnded : List (TwSeq × BitVec 2)} {pwm : Pwm} {frozen : Option Frozen}
    {jtag : Tap} (h : Keeps a t)
    (hn : clk.now = t.clk.now := by first | rfl | simp)
    (hk : sec.slots = t.sec.slots := by first | rfl | simp)
    (h1 : cfg = t.cfg := by first | rfl | simp)
    (h2 : sense.cmps = t.sense.cmps := by first | rfl | simp)
    (h3 : sense.readings = t.sense.readings := by first | rfl | simp)
    (h4 : kiln.store = t.kiln.store := by first | rfl | simp)
    (h5 : kiln.sgStore = t.kiln.sgStore := by first | rfl | simp)
    (h6 : mg.trims = t.mg.trims := by first | rfl | simp)
    (h7 : kiln.chatter = t.kiln.chatter := by first | rfl | simp)
    (h8 : log.fr.slots = t.log.fr.slots := by first | rfl | simp)
    (h9 : log.fa.slots = t.log.fa.slots := by first | rfl | simp)
    (hqa : sec.copyA = t.sec.copyA := by first | rfl | simp) (hqb : sec.copyB = t.sec.copyB := by first | rfl | simp)
    (g1 : t.sense.convs.length = 4 → sense.convs.length = 4 := by first | exact id | exact fun _ => rfl | simp)
    (g2 : t.sense.groups.length = 4 → sense.groups.length = 4 := by first | exact id | exact fun _ => rfl | simp)
    (g3 : t.kiln.engines.length = 5 → kiln.engines.length = 5 := by first | exact id | exact fun _ => rfl | simp)
    (g4 : t.clk.outs.length = 4 → clk.outs.length = 4 := by first | exact id | exact fun _ => rfl | simp)
    (g5 : t.fault.tables.length = 8 → fault.tables.length = 8 := by first | exact id | exact fun _ => rfl | simp)
    (g6 : t.sec.slots.length = 8 → sec.slots.length = 8 := by first | exact id | exact fun _ => rfl | simp)
    (g7 : t.tw.length = 4 → tw.length = 4 := by first | exact id | exact fun _ => rfl | simp)
    (g8 : t.pwm.chs.length = 16 → pwm.chs.length = 16 := by first | exact id | exact fun _ => rfl | simp) :
    Keeps a {
      ident := t.ident, clk := clk, pm := pm, out := out, inp := inp, ctl := ctl, sense := sense, kiln := kiln, walk := walk,
      fault := fault, irq := irq, mg := mg, log := log, cfg := cfg, cfgLoaded := cfgLoaded, sgLoaded := sgLoaded, port := port,
      sec := sec, ring := ring, twin := twin, tw := tw, twEnded := twEnded, pwm := pwm, frozen := frozen, jtag := jtag, free := t.free,
      pending := t.pending } :=
  h.upd rfl rfl hn rfl hk h1 h2 h3 h4 h5 h6 h7 h8 h9 (by simp only [Sec.copiesOk, hqa, hqb]) g1 g2 g3 g4 g5 g6 g7 g8

/-- A record update within the relation, part by part. -/
theorem Keeps.mk_gen {a t : State} {clk : Clk} {pm : Pm} {out : Out} {inp : In} {ctl : Ctl} {sense : Sense} {kiln : Kiln}
    {walk : Walk} {fault : FaultBlk} {irq : Irq} {mg : Mg} {log : Log} {cfg : Tab Word} {cfgLoaded sgLoaded : Bool} {port : Port}
    {sec : Sec} {ring : Ring} {twin : Twin} {tw : List TwPort} {twEnded : List (TwSeq × BitVec 2)} {pwm : Pwm}
    {frozen : Option Frozen} {jtag : Tap} {free : Nat}
    (h : Keeps a t) (hn : t.clk.now ≤ clk.now) (hf : t.free ≤ free)
    (hk : ∀ i, (nth t.sec.slots i {}).counter ≤ (nth sec.slots i {}).counter) (h1 : Tab.wf t.cfg = true → Tab.wf cfg = true)
    (h2 : Tab.wf t.sense.cmps = true → Tab.wf sense.cmps = true)
    (h3 : Tab.wf t.sense.readings = true → Tab.wf sense.readings = true)
    (h4 : Tab.wf t.kiln.store = true → Tab.wf kiln.store = true)
    (h5 : Tab.wf t.kiln.sgStore = true → Tab.wf kiln.sgStore = true) (h6 : Tab.wf t.mg.trims = true → Tab.wf mg.trims = true)
    (h7 : Tab.wf t.kiln.chatter = true → Tab.wf kiln.chatter = true)
    (h8 : Tab.wf t.log.fr.slots = true → Tab.wf log.fr.slots = true)
    (h9 : Tab.wf t.log.fa.slots = true → Tab.wf log.fa.slots = true)
    (h10 : Tab.sparse 0 t.kiln.store = true → Tab.sparse 0 kiln.store = true)
    (h11 : Tab.sparse 0 t.kiln.sgStore = true → Tab.sparse 0 kiln.sgStore = true)
    (hq : t.sec.copiesOk = true → sec.copiesOk = true := by exact id)
    (g1 : t.sense.convs.length = 4 → sense.convs.length = 4 := by first | exact id | exact fun _ => rfl | simp)
    (g2 : t.sense.groups.length = 4 → sense.groups.length = 4 := by first | exact id | exact fun _ => rfl | simp)
    (g3 : t.kiln.engines.length = 5 → kiln.engines.length = 5 := by first | exact id | exact fun _ => rfl | simp)
    (g4 : t.clk.outs.length = 4 → clk.outs.length = 4 := by first | exact id | exact fun _ => rfl | simp)
    (g5 : t.fault.tables.length = 8 → fault.tables.length = 8 := by first | exact id | exact fun _ => rfl | simp)
    (g6 : t.sec.slots.length = 8 → sec.slots.length = 8 := by first | exact id | exact fun _ => rfl | simp)
    (g7 : t.tw.length = 4 → tw.length = 4 := by first | exact id | exact fun _ => rfl | simp)
    (g8 : t.pwm.chs.length = 16 → pwm.chs.length = 16 := by first | exact id | exact fun _ => rfl | simp) :
    Keeps a {
      ident := t.ident, clk := clk, pm := pm, out := out, inp := inp, ctl := ctl, sense := sense, kiln := kiln, walk := walk,
      fault := fault, irq := irq, mg := mg, log := log, cfg := cfg, cfgLoaded := cfgLoaded, sgLoaded := sgLoaded, port := port,
      sec := sec, ring := ring, twin := twin, tw := tw, twEnded := twEnded, pwm := pwm, frozen := frozen, jtag := jtag, free := free,
      pending := t.pending } := by
  refine h.trans ⟨rfl, rfl, hn, hf, hk, fun x => ?_, State.units_of g1 g2 g3 g4 g5 g6 g7 g8⟩
  simp only [State.tablesOk, Bool.and_eq_true] at *
  obtain ⟨⟨⟨⟨⟨⟨⟨⟨⟨⟨⟨x1, x2⟩, x3⟩, x4⟩, x5⟩, x6⟩, x7⟩, x8⟩, x9⟩, x10⟩, x11⟩, xq⟩ := x
  exact ⟨⟨⟨⟨⟨⟨⟨⟨⟨⟨⟨h1 x1, h2 x2⟩, h3 x3⟩, h4 x4⟩, h5 x5⟩, h6 x6⟩, h7 x7⟩, h8 x8⟩, h9 x9⟩, h10 x10⟩, h11 x11⟩, hq xq⟩

/-- Free values are taken. -/
theorem Keeps.addFree {a t : State} (h : Keeps a t) (n : Nat) : Keeps a { t with free := t.free + n } :=
  h.trans ⟨rfl, rfl, le_rfl, Nat.le_add_right _ _, fun _ => le_rfl, id, id⟩

/-- Operations one after another. -/
theorem Keeps.foldl {γ : Type} {a s : State} {f : State → γ → State} (l : List γ) (h : Keeps a s)
    (hf : ∀ u x, Keeps a u → Keeps a (f u x)) : Keeps a (l.foldl f s) := by
  induction l generalizing s with
  | nil => exact h
  | cons x l ih => exact ih (hf s x h)

theorem Keeps.ite {a s t : State} {c : Prop} [Decidable c] (hs : Keeps a s) (ht : Keeps a t) : Keeps a (if c then s else t) := by
  split <;> assumption

/-- A captured shard enters the buffer; the regions stay. -/
@[simp] theorem Log.push_fr (l : Log) (x : Shard) : (l.push x).fr = l.fr := by
  unfold Log.push
  repeat' split
  all_goals rfl

@[simp] theorem Log.push_fa (l : Log) (x : Shard) : (l.push x).fa = l.fa := by
  unfold Log.push
  repeat' split
  all_goals rfl

@[simp] theorem Sense.flt_cmps (n : Sense) (now : Nat) (b r l x : Byte) : (n.flt now b r l x).cmps = n.cmps := rfl
@[simp] theorem Sense.flt_readings (n : Sense) (now : Nat) (b r l x : Byte) : (n.flt now b r l x).readings = n.readings := rfl
@[simp] theorem Sense.flt_convs (n : Sense) (now : Nat) (b r l x : Byte) : (n.flt now b r l x).convs = n.convs := rfl
@[simp] theorem Sense.flt_groups (n : Sense) (now : Nat) (b r l x : Byte) : (n.flt now b r l x).groups = n.groups := rfl

end Sys2Proof.Machine
end

