-- ==== Sys2Proof/Laws/State.lean ====
section
/-! SUPPORT. Sys2Proof/Laws/State.lean: what each basic update of State leaves as it was, one lemma for each field. -/

set_option Elab.async false

namespace Sys2Proof.Machine

variable (s : State)

@[simp] theorem State.wait_ident (d : Nat) : (s.wait d).ident = s.ident := rfl
@[simp] theorem State.wait_pm (d : Nat) : (s.wait d).pm = s.pm := rfl
@[simp] theorem State.wait_out (d : Nat) : (s.wait d).out = s.out := rfl
@[simp] theorem State.wait_inp (d : Nat) : (s.wait d).inp = s.inp := rfl
@[simp] theorem State.wait_ctl (d : Nat) : (s.wait d).ctl = s.ctl := rfl
@[simp] theorem State.wait_sense (d : Nat) : (s.wait d).sense = s.sense := rfl
@[simp] theorem State.wait_kiln (d : Nat) : (s.wait d).kiln = s.kiln := rfl
@[simp] theorem State.wait_walk (d : Nat) : (s.wait d).walk = s.walk := rfl
@[simp] theorem State.wait_fault (d : Nat) : (s.wait d).fault = s.fault := rfl
@[simp] theorem State.wait_irq (d : Nat) : (s.wait d).irq = s.irq := rfl
@[simp] theorem State.wait_mg (d : Nat) : (s.wait d).mg = s.mg := rfl
@[simp] theorem State.wait_log (d : Nat) : (s.wait d).log = s.log := rfl
@[simp] theorem State.wait_cfg (d : Nat) : (s.wait d).cfg = s.cfg := rfl
@[simp] theorem State.wait_cfgLoaded (d : Nat) : (s.wait d).cfgLoaded = s.cfgLoaded := rfl
@[simp] theorem State.wait_sgLoaded (d : Nat) : (s.wait d).sgLoaded = s.sgLoaded := rfl
@[simp] theorem State.wait_port (d : Nat) : (s.wait d).port = s.port := rfl
@[simp] theorem State.wait_sec (d : Nat) : (s.wait d).sec = s.sec := rfl
@[simp] theorem State.wait_ring (d : Nat) : (s.wait d).ring = s.ring := rfl
@[simp] theorem State.wait_twin (d : Nat) : (s.wait d).twin = s.twin := rfl
@[simp] theorem State.wait_tw (d : Nat) : (s.wait d).tw = s.tw := rfl
@[simp] theorem State.wait_twEnded (d : Nat) : (s.wait d).twEnded = s.twEnded := rfl
@[simp] theorem State.wait_pwm (d : Nat) : (s.wait d).pwm = s.pwm := rfl
@[simp] theorem State.wait_frozen (d : Nat) : (s.wait d).frozen = s.frozen := rfl
@[simp] theorem State.wait_jtag (d : Nat) : (s.wait d).jtag = s.jtag := rfl
@[simp] theorem State.wait_free (d : Nat) : (s.wait d).free = s.free := rfl
@[simp] theorem State.wait_pending (d : Nat) : (s.wait d).pending = s.pending := rfl

@[simp] theorem State.till_ident (t : Nat) : (s.till t).ident = s.ident := rfl
@[simp] theorem State.till_pm (t : Nat) : (s.till t).pm = s.pm := rfl
@[simp] theorem State.till_out (t : Nat) : (s.till t).out = s.out := rfl
@[simp] theorem State.till_inp (t : Nat) : (s.till t).inp = s.inp := rfl
@[simp] theorem State.till_ctl (t : Nat) : (s.till t).ctl = s.ctl := rfl
@[simp] theorem State.till_sense (t : Nat) : (s.till t).sense = s.sense := rfl
@[simp] theorem State.till_kiln (t : Nat) : (s.till t).kiln = s.kiln := rfl
@[simp] theorem State.till_walk (t : Nat) : (s.till t).walk = s.walk := rfl
@[simp] theorem State.till_fault (t : Nat) : (s.till t).fault = s.fault := rfl
@[simp] theorem State.till_irq (t : Nat) : (s.till t).irq = s.irq := rfl
@[simp] theorem State.till_mg (t : Nat) : (s.till t).mg = s.mg := rfl
@[simp] theorem State.till_log (t : Nat) : (s.till t).log = s.log := rfl
@[simp] theorem State.till_cfg (t : Nat) : (s.till t).cfg = s.cfg := rfl
@[simp] theorem State.till_cfgLoaded (t : Nat) : (s.till t).cfgLoaded = s.cfgLoaded := rfl
@[simp] theorem State.till_sgLoaded (t : Nat) : (s.till t).sgLoaded = s.sgLoaded := rfl
@[simp] theorem State.till_port (t : Nat) : (s.till t).port = s.port := rfl
@[simp] theorem State.till_sec (t : Nat) : (s.till t).sec = s.sec := rfl
@[simp] theorem State.till_ring (t : Nat) : (s.till t).ring = s.ring := rfl
@[simp] theorem State.till_twin (t : Nat) : (s.till t).twin = s.twin := rfl
@[simp] theorem State.till_tw (t : Nat) : (s.till t).tw = s.tw := rfl
@[simp] theorem State.till_twEnded (t : Nat) : (s.till t).twEnded = s.twEnded := rfl
@[simp] theorem State.till_pwm (t : Nat) : (s.till t).pwm = s.pwm := rfl
@[simp] theorem State.till_frozen (t : Nat) : (s.till t).frozen = s.frozen := rfl
@[simp] theorem State.till_jtag (t : Nat) : (s.till t).jtag = s.jtag := rfl
@[simp] theorem State.till_free (t : Nat) : (s.till t).free = s.free := rfl
@[simp] theorem State.till_pending (t : Nat) : (s.till t).pending = s.pending := rfl

@[simp] theorem State.tillDue_ident (t : Option Nat) : (s.tillDue t).ident = s.ident := rfl
@[simp] theorem State.tillDue_pm (t : Option Nat) : (s.tillDue t).pm = s.pm := rfl
@[simp] theorem State.tillDue_out (t : Option Nat) : (s.tillDue t).out = s.out := rfl
@[simp] theorem State.tillDue_inp (t : Option Nat) : (s.tillDue t).inp = s.inp := rfl
@[simp] theorem State.tillDue_ctl (t : Option Nat) : (s.tillDue t).ctl = s.ctl := rfl
@[simp] theorem State.tillDue_sense (t : Option Nat) : (s.tillDue t).sense = s.sense := rfl
@[simp] theorem State.tillDue_kiln (t : Option Nat) : (s.tillDue t).kiln = s.kiln := rfl
@[simp] theorem State.tillDue_walk (t : Option Nat) : (s.tillDue t).walk = s.walk := rfl
@[simp] theorem State.tillDue_fault (t : Option Nat) : (s.tillDue t).fault = s.fault := rfl
@[simp] theorem State.tillDue_irq (t : Option Nat) : (s.tillDue t).irq = s.irq := rfl
@[simp] theorem State.tillDue_mg (t : Option Nat) : (s.tillDue t).mg = s.mg := rfl
@[simp] theorem State.tillDue_log (t : Option Nat) : (s.tillDue t).log = s.log := rfl
@[simp] theorem State.tillDue_cfg (t : Option Nat) : (s.tillDue t).cfg = s.cfg := rfl
@[simp] theorem State.tillDue_cfgLoaded (t : Option Nat) : (s.tillDue t).cfgLoaded = s.cfgLoaded := rfl
@[simp] theorem State.tillDue_sgLoaded (t : Option Nat) : (s.tillDue t).sgLoaded = s.sgLoaded := rfl
@[simp] theorem State.tillDue_port (t : Option Nat) : (s.tillDue t).port = s.port := rfl
@[simp] theorem State.tillDue_sec (t : Option Nat) : (s.tillDue t).sec = s.sec := rfl
@[simp] theorem State.tillDue_ring (t : Option Nat) : (s.tillDue t).ring = s.ring := rfl
@[simp] theorem State.tillDue_twin (t : Option Nat) : (s.tillDue t).twin = s.twin := rfl
@[simp] theorem State.tillDue_tw (t : Option Nat) : (s.tillDue t).tw = s.tw := rfl
@[simp] theorem State.tillDue_twEnded (t : Option Nat) : (s.tillDue t).twEnded = s.twEnded := rfl
@[simp] theorem State.tillDue_pwm (t : Option Nat) : (s.tillDue t).pwm = s.pwm := rfl
@[simp] theorem State.tillDue_frozen (t : Option Nat) : (s.tillDue t).frozen = s.frozen := rfl
@[simp] theorem State.tillDue_jtag (t : Option Nat) : (s.tillDue t).jtag = s.jtag := rfl
@[simp] theorem State.tillDue_free (t : Option Nat) : (s.tillDue t).free = s.free := rfl
@[simp] theorem State.tillDue_pending (t : Option Nat) : (s.tillDue t).pending = s.pending := rfl

@[simp] theorem State.noteSet_ident (a : Nat) (m : Word) : (s.noteSet a m).ident = s.ident := rfl
@[simp] theorem State.noteSet_clk (a : Nat) (m : Word) : (s.noteSet a m).clk = s.clk := rfl
@[simp] theorem State.noteSet_pm (a : Nat) (m : Word) : (s.noteSet a m).pm = s.pm := rfl
@[simp] theorem State.noteSet_out (a : Nat) (m : Word) : (s.noteSet a m).out = s.out := rfl
@[simp] theorem State.noteSet_inp (a : Nat) (m : Word) : (s.noteSet a m).inp = s.inp := rfl
@[simp] theorem State.noteSet_ctl (a : Nat) (m : Word) : (s.noteSet a m).ctl = s.ctl := rfl
@[simp] theorem State.noteSet_sense (a : Nat) (m : Word) : (s.noteSet a m).sense = s.sense := rfl
@[simp] theorem State.noteSet_kiln (a : Nat) (m : Word) : (s.noteSet a m).kiln = s.kiln := rfl
@[simp] theorem State.noteSet_walk (a : Nat) (m : Word) : (s.noteSet a m).walk = s.walk := rfl
@[simp] theorem State.noteSet_fault (a : Nat) (m : Word) : (s.noteSet a m).fault = s.fault := rfl
@[simp] theorem State.noteSet_mg (a : Nat) (m : Word) : (s.noteSet a m).mg = s.mg := rfl
@[simp] theorem State.noteSet_log (a : Nat) (m : Word) : (s.noteSet a m).log = s.log := rfl
@[simp] theorem State.noteSet_cfg (a : Nat) (m : Word) : (s.noteSet a m).cfg = s.cfg := rfl
@[simp] theorem State.noteSet_cfgLoaded (a : Nat) (m : Word) : (s.noteSet a m).cfgLoaded = s.cfgLoaded := rfl
@[simp] theorem State.noteSet_sgLoaded (a : Nat) (m : Word) : (s.noteSet a m).sgLoaded = s.sgLoaded := rfl
@[simp] theorem State.noteSet_port (a : Nat) (m : Word) : (s.noteSet a m).port = s.port := rfl
@[simp] theorem State.noteSet_sec (a : Nat) (m : Word) : (s.noteSet a m).sec = s.sec := rfl
@[simp] theorem State.noteSet_ring (a : Nat) (m : Word) : (s.noteSet a m).ring = s.ring := rfl
@[simp] theorem State.noteSet_twin (a : Nat) (m : Word) : (s.noteSet a m).twin = s.twin := rfl
@[simp] theorem State.noteSet_tw (a : Nat) (m : Word) : (s.noteSet a m).tw = s.tw := rfl
@[simp] theorem State.noteSet_twEnded (a : Nat) (m : Word) : (s.noteSet a m).twEnded = s.twEnded := rfl
@[simp] theorem State.noteSet_pwm (a : Nat) (m : Word) : (s.noteSet a m).pwm = s.pwm := rfl
@[simp] theorem State.noteSet_frozen (a : Nat) (m : Word) : (s.noteSet a m).frozen = s.frozen := rfl
@[simp] theorem State.noteSet_jtag (a : Nat) (m : Word) : (s.noteSet a m).jtag = s.jtag := rfl
@[simp] theorem State.noteSet_free (a : Nat) (m : Word) : (s.noteSet a m).free = s.free := rfl
@[simp] theorem State.noteSet_pending (a : Nat) (m : Word) : (s.noteSet a m).pending = s.pending := rfl

@[simp] theorem State.irqCt_ident (i : Nat) : (s.irqCt i).ident = s.ident := rfl
@[simp] theorem State.irqCt_clk (i : Nat) : (s.irqCt i).clk = s.clk := rfl
@[simp] theorem State.irqCt_pm (i : Nat) : (s.irqCt i).pm = s.pm := rfl
@[simp] theorem State.irqCt_out (i : Nat) : (s.irqCt i).out = s.out := rfl
@[simp] theorem State.irqCt_inp (i : Nat) : (s.irqCt i).inp = s.inp := rfl
@[simp] theorem State.irqCt_ctl (i : Nat) : (s.irqCt i).ctl = s.ctl := rfl
@[simp] theorem State.irqCt_sense (i : Nat) : (s.irqCt i).sense = s.sense := rfl
@[simp] theorem State.irqCt_kiln (i : Nat) : (s.irqCt i).kiln = s.kiln := rfl
@[simp] theorem State.irqCt_walk (i : Nat) : (s.irqCt i).walk = s.walk := rfl
@[simp] theorem State.irqCt_fault (i : Nat) : (s.irqCt i).fault = s.fault := rfl
@[simp] theorem State.irqCt_mg (i : Nat) : (s.irqCt i).mg = s.mg := rfl
@[simp] theorem State.irqCt_log (i : Nat) : (s.irqCt i).log = s.log := rfl
@[simp] theorem State.irqCt_cfg (i : Nat) : (s.irqCt i).cfg = s.cfg := rfl
@[simp] theorem State.irqCt_cfgLoaded (i : Nat) : (s.irqCt i).cfgLoaded = s.cfgLoaded := rfl
@[simp] theorem State.irqCt_sgLoaded (i : Nat) : (s.irqCt i).sgLoaded = s.sgLoaded := rfl
@[simp] theorem State.irqCt_port (i : Nat) : (s.irqCt i).port = s.port := rfl
@[simp] theorem State.irqCt_sec (i : Nat) : (s.irqCt i).sec = s.sec := rfl
@[simp] theorem State.irqCt_ring (i : Nat) : (s.irqCt i).ring = s.ring := rfl
@[simp] theorem State.irqCt_twin (i : Nat) : (s.irqCt i).twin = s.twin := rfl
@[simp] theorem State.irqCt_tw (i : Nat) : (s.irqCt i).tw = s.tw := rfl
@[simp] theorem State.irqCt_twEnded (i : Nat) : (s.irqCt i).twEnded = s.twEnded := rfl
@[simp] theorem State.irqCt_pwm (i : Nat) : (s.irqCt i).pwm = s.pwm := rfl
@[simp] theorem State.irqCt_frozen (i : Nat) : (s.irqCt i).frozen = s.frozen := rfl
@[simp] theorem State.irqCt_jtag (i : Nat) : (s.irqCt i).jtag = s.jtag := rfl
@[simp] theorem State.irqCt_free (i : Nat) : (s.irqCt i).free = s.free := rfl
@[simp] theorem State.irqCt_pending (i : Nat) : (s.irqCt i).pending = s.pending := rfl

@[simp] theorem State.irqLg_ident (i : Nat) : (s.irqLg i).ident = s.ident := rfl
@[simp] theorem State.irqLg_clk (i : Nat) : (s.irqLg i).clk = s.clk := rfl
@[simp] theorem State.irqLg_pm (i : Nat) : (s.irqLg i).pm = s.pm := rfl
@[simp] theorem State.irqLg_out (i : Nat) : (s.irqLg i).out = s.out := rfl
@[simp] theorem State.irqLg_inp (i : Nat) : (s.irqLg i).inp = s.inp := rfl
@[simp] theorem State.irqLg_ctl (i : Nat) : (s.irqLg i).ctl = s.ctl := rfl
@[simp] theorem State.irqLg_sense (i : Nat) : (s.irqLg i).sense = s.sense := rfl
@[simp] theorem State.irqLg_kiln (i : Nat) : (s.irqLg i).kiln = s.kiln := rfl
@[simp] theorem State.irqLg_walk (i : Nat) : (s.irqLg i).walk = s.walk := rfl
@[simp] theorem State.irqLg_fault (i : Nat) : (s.irqLg i).fault = s.fault := rfl
@[simp] theorem State.irqLg_mg (i : Nat) : (s.irqLg i).mg = s.mg := rfl
@[simp] theorem State.irqLg_log (i : Nat) : (s.irqLg i).log = s.log := rfl
@[simp] theorem State.irqLg_cfg (i : Nat) : (s.irqLg i).cfg = s.cfg := rfl
@[simp] theorem State.irqLg_cfgLoaded (i : Nat) : (s.irqLg i).cfgLoaded = s.cfgLoaded := rfl
@[simp] theorem State.irqLg_sgLoaded (i : Nat) : (s.irqLg i).sgLoaded = s.sgLoaded := rfl
@[simp] theorem State.irqLg_port (i : Nat) : (s.irqLg i).port = s.port := rfl
@[simp] theorem State.irqLg_sec (i : Nat) : (s.irqLg i).sec = s.sec := rfl
@[simp] theorem State.irqLg_ring (i : Nat) : (s.irqLg i).ring = s.ring := rfl
@[simp] theorem State.irqLg_twin (i : Nat) : (s.irqLg i).twin = s.twin := rfl
@[simp] theorem State.irqLg_tw (i : Nat) : (s.irqLg i).tw = s.tw := rfl
@[simp] theorem State.irqLg_twEnded (i : Nat) : (s.irqLg i).twEnded = s.twEnded := rfl
@[simp] theorem State.irqLg_pwm (i : Nat) : (s.irqLg i).pwm = s.pwm := rfl
@[simp] theorem State.irqLg_frozen (i : Nat) : (s.irqLg i).frozen = s.frozen := rfl
@[simp] theorem State.irqLg_jtag (i : Nat) : (s.irqLg i).jtag = s.jtag := rfl
@[simp] theorem State.irqLg_free (i : Nat) : (s.irqLg i).free = s.free := rfl
@[simp] theorem State.irqLg_pending (i : Nat) : (s.irqLg i).pending = s.pending := rfl

@[simp] theorem State.irqCm_ident (i : Nat) : (s.irqCm i).ident = s.ident := rfl
@[simp] theorem State.irqCm_clk (i : Nat) : (s.irqCm i).clk = s.clk := rfl
@[simp] theorem State.irqCm_pm (i : Nat) : (s.irqCm i).pm = s.pm := rfl
@[simp] theorem State.irqCm_out (i : Nat) : (s.irqCm i).out = s.out := rfl
@[simp] theorem State.irqCm_inp (i : Nat) : (s.irqCm i).inp = s.inp := rfl
@[simp] theorem State.irqCm_ctl (i : Nat) : (s.irqCm i).ctl = s.ctl := rfl
@[simp] theorem State.irqCm_sense (i : Nat) : (s.irqCm i).sense = s.sense := rfl
@[simp] theorem State.irqCm_kiln (i : Nat) : (s.irqCm i).kiln = s.kiln := rfl
@[simp] theorem State.irqCm_walk (i : Nat) : (s.irqCm i).walk = s.walk := rfl
@[simp] theorem State.irqCm_fault (i : Nat) : (s.irqCm i).fault = s.fault := rfl
@[simp] theorem State.irqCm_mg (i : Nat) : (s.irqCm i).mg = s.mg := rfl
@[simp] theorem State.irqCm_log (i : Nat) : (s.irqCm i).log = s.log := rfl
@[simp] theorem State.irqCm_cfg (i : Nat) : (s.irqCm i).cfg = s.cfg := rfl
@[simp] theorem State.irqCm_cfgLoaded (i : Nat) : (s.irqCm i).cfgLoaded = s.cfgLoaded := rfl
@[simp] theorem State.irqCm_sgLoaded (i : Nat) : (s.irqCm i).sgLoaded = s.sgLoaded := rfl
@[simp] theorem State.irqCm_port (i : Nat) : (s.irqCm i).port = s.port := rfl
@[simp] theorem State.irqCm_sec (i : Nat) : (s.irqCm i).sec = s.sec := rfl
@[simp] theorem State.irqCm_ring (i : Nat) : (s.irqCm i).ring = s.ring := rfl
@[simp] theorem State.irqCm_twin (i : Nat) : (s.irqCm i).twin = s.twin := rfl
@[simp] theorem State.irqCm_tw (i : Nat) : (s.irqCm i).tw = s.tw := rfl
@[simp] theorem State.irqCm_twEnded (i : Nat) : (s.irqCm i).twEnded = s.twEnded := rfl
@[simp] theorem State.irqCm_pwm (i : Nat) : (s.irqCm i).pwm = s.pwm := rfl
@[simp] theorem State.irqCm_frozen (i : Nat) : (s.irqCm i).frozen = s.frozen := rfl
@[simp] theorem State.irqCm_jtag (i : Nat) : (s.irqCm i).jtag = s.jtag := rfl
@[simp] theorem State.irqCm_free (i : Nat) : (s.irqCm i).free = s.free := rfl
@[simp] theorem State.irqCm_pending (i : Nat) : (s.irqCm i).pending = s.pending := rfl

@[simp] theorem State.irqGl_ident (i : Nat) : (s.irqGl i).ident = s.ident := rfl
@[simp] theorem State.irqGl_clk (i : Nat) : (s.irqGl i).clk = s.clk := rfl
@[simp] theorem State.irqGl_pm (i : Nat) : (s.irqGl i).pm = s.pm := rfl
@[simp] theorem State.irqGl_out (i : Nat) : (s.irqGl i).out = s.out := rfl
@[simp] theorem State.irqGl_inp (i : Nat) : (s.irqGl i).inp = s.inp := rfl
@[simp] theorem State.irqGl_ctl (i : Nat) : (s.irqGl i).ctl = s.ctl := rfl
@[simp] theorem State.irqGl_sense (i : Nat) : (s.irqGl i).sense = s.sense := rfl
@[simp] theorem State.irqGl_kiln (i : Nat) : (s.irqGl i).kiln = s.kiln := rfl
@[simp] theorem State.irqGl_walk (i : Nat) : (s.irqGl i).walk = s.walk := rfl
@[simp] theorem State.irqGl_fault (i : Nat) : (s.irqGl i).fault = s.fault := rfl
@[simp] theorem State.irqGl_mg (i : Nat) : (s.irqGl i).mg = s.mg := rfl
@[simp] theorem State.irqGl_log (i : Nat) : (s.irqGl i).log = s.log := rfl
@[simp] theorem State.irqGl_cfg (i : Nat) : (s.irqGl i).cfg = s.cfg := rfl
@[simp] theorem State.irqGl_cfgLoaded (i : Nat) : (s.irqGl i).cfgLoaded = s.cfgLoaded := rfl
@[simp] theorem State.irqGl_sgLoaded (i : Nat) : (s.irqGl i).sgLoaded = s.sgLoaded := rfl
@[simp] theorem State.irqGl_port (i : Nat) : (s.irqGl i).port = s.port := rfl
@[simp] theorem State.irqGl_sec (i : Nat) : (s.irqGl i).sec = s.sec := rfl
@[simp] theorem State.irqGl_ring (i : Nat) : (s.irqGl i).ring = s.ring := rfl
@[simp] theorem State.irqGl_twin (i : Nat) : (s.irqGl i).twin = s.twin := rfl
@[simp] theorem State.irqGl_tw (i : Nat) : (s.irqGl i).tw = s.tw := rfl
@[simp] theorem State.irqGl_twEnded (i : Nat) : (s.irqGl i).twEnded = s.twEnded := rfl
@[simp] theorem State.irqGl_pwm (i : Nat) : (s.irqGl i).pwm = s.pwm := rfl
@[simp] theorem State.irqGl_frozen (i : Nat) : (s.irqGl i).frozen = s.frozen := rfl
@[simp] theorem State.irqGl_jtag (i : Nat) : (s.irqGl i).jtag = s.jtag := rfl
@[simp] theorem State.irqGl_free (i : Nat) : (s.irqGl i).free = s.free := rfl
@[simp] theorem State.irqGl_pending (i : Nat) : (s.irqGl i).pending = s.pending := rfl

@[simp] theorem State.irqTw_ident (i : Nat) : (s.irqTw i).ident = s.ident := rfl
@[simp] theorem State.irqTw_clk (i : Nat) : (s.irqTw i).clk = s.clk := rfl
@[simp] theorem State.irqTw_pm (i : Nat) : (s.irqTw i).pm = s.pm := rfl
@[simp] theorem State.irqTw_out (i : Nat) : (s.irqTw i).out = s.out := rfl
@[simp] theorem State.irqTw_inp (i : Nat) : (s.irqTw i).inp = s.inp := rfl
@[simp] theorem State.irqTw_ctl (i : Nat) : (s.irqTw i).ctl = s.ctl := rfl
@[simp] theorem State.irqTw_sense (i : Nat) : (s.irqTw i).sense = s.sense := rfl
@[simp] theorem State.irqTw_kiln (i : Nat) : (s.irqTw i).kiln = s.kiln := rfl
@[simp] theorem State.irqTw_walk (i : Nat) : (s.irqTw i).walk = s.walk := rfl
@[simp] theorem State.irqTw_fault (i : Nat) : (s.irqTw i).fault = s.fault := rfl
@[simp] theorem State.irqTw_mg (i : Nat) : (s.irqTw i).mg = s.mg := rfl
@[simp] theorem State.irqTw_log (i : Nat) : (s.irqTw i).log = s.log := rfl
@[simp] theorem State.irqTw_cfg (i : Nat) : (s.irqTw i).cfg = s.cfg := rfl
@[simp] theorem State.irqTw_cfgLoaded (i : Nat) : (s.irqTw i).cfgLoaded = s.cfgLoaded := rfl
@[simp] theorem State.irqTw_sgLoaded (i : Nat) : (s.irqTw i).sgLoaded = s.sgLoaded := rfl
@[simp] theorem State.irqTw_port (i : Nat) : (s.irqTw i).port = s.port := rfl
@[simp] theorem State.irqTw_sec (i : Nat) : (s.irqTw i).sec = s.sec := rfl
@[simp] theorem State.irqTw_ring (i : Nat) : (s.irqTw i).ring = s.ring := rfl
@[simp] theorem State.irqTw_twin (i : Nat) : (s.irqTw i).twin = s.twin := rfl
@[simp] theorem State.irqTw_tw (i : Nat) : (s.irqTw i).tw = s.tw := rfl
@[simp] theorem State.irqTw_twEnded (i : Nat) : (s.irqTw i).twEnded = s.twEnded := rfl
@[simp] theorem State.irqTw_pwm (i : Nat) : (s.irqTw i).pwm = s.pwm := rfl
@[simp] theorem State.irqTw_frozen (i : Nat) : (s.irqTw i).frozen = s.frozen := rfl
@[simp] theorem State.irqTw_jtag (i : Nat) : (s.irqTw i).jtag = s.jtag := rfl
@[simp] theorem State.irqTw_free (i : Nat) : (s.irqTw i).free = s.free := rfl
@[simp] theorem State.irqTw_pending (i : Nat) : (s.irqTw i).pending = s.pending := rfl

@[simp] theorem State.irqCk_ident (i : Nat) : (s.irqCk i).ident = s.ident := rfl
@[simp] theorem State.irqCk_clk (i : Nat) : (s.irqCk i).clk = s.clk := rfl
@[simp] theorem State.irqCk_pm (i : Nat) : (s.irqCk i).pm = s.pm := rfl
@[simp] theorem State.irqCk_out (i : Nat) : (s.irqCk i).out = s.out := rfl
@[simp] theorem State.irqCk_inp (i : Nat) : (s.irqCk i).inp = s.inp := rfl
@[simp] theorem State.irqCk_ctl (i : Nat) : (s.irqCk i).ctl = s.ctl := rfl
@[simp] theorem State.irqCk_sense (i : Nat) : (s.irqCk i).sense = s.sense := rfl
@[simp] theorem State.irqCk_kiln (i : Nat) : (s.irqCk i).kiln = s.kiln := rfl
@[simp] theorem State.irqCk_walk (i : Nat) : (s.irqCk i).walk = s.walk := rfl
@[simp] theorem State.irqCk_fault (i : Nat) : (s.irqCk i).fault = s.fault := rfl
@[simp] theorem State.irqCk_mg (i : Nat) : (s.irqCk i).mg = s.mg := rfl
@[simp] theorem State.irqCk_log (i : Nat) : (s.irqCk i).log = s.log := rfl
@[simp] theorem State.irqCk_cfg (i : Nat) : (s.irqCk i).cfg = s.cfg := rfl
@[simp] theorem State.irqCk_cfgLoaded (i : Nat) : (s.irqCk i).cfgLoaded = s.cfgLoaded := rfl
@[simp] theorem State.irqCk_sgLoaded (i : Nat) : (s.irqCk i).sgLoaded = s.sgLoaded := rfl
@[simp] theorem State.irqCk_port (i : Nat) : (s.irqCk i).port = s.port := rfl
@[simp] theorem State.irqCk_sec (i : Nat) : (s.irqCk i).sec = s.sec := rfl
@[simp] theorem State.irqCk_ring (i : Nat) : (s.irqCk i).ring = s.ring := rfl
@[simp] theorem State.irqCk_twin (i : Nat) : (s.irqCk i).twin = s.twin := rfl
@[simp] theorem State.irqCk_tw (i : Nat) : (s.irqCk i).tw = s.tw := rfl
@[simp] theorem State.irqCk_twEnded (i : Nat) : (s.irqCk i).twEnded = s.twEnded := rfl
@[simp] theorem State.irqCk_pwm (i : Nat) : (s.irqCk i).pwm = s.pwm := rfl
@[simp] theorem State.irqCk_frozen (i : Nat) : (s.irqCk i).frozen = s.frozen := rfl
@[simp] theorem State.irqCk_jtag (i : Nat) : (s.irqCk i).jtag = s.jtag := rfl
@[simp] theorem State.irqCk_free (i : Nat) : (s.irqCk i).free = s.free := rfl
@[simp] theorem State.irqCk_pending (i : Nat) : (s.irqCk i).pending = s.pending := rfl

@[simp] theorem State.irqPw_ident (i : Nat) : (s.irqPw i).ident = s.ident := rfl
@[simp] theorem State.irqPw_clk (i : Nat) : (s.irqPw i).clk = s.clk := rfl
@[simp] theorem State.irqPw_pm (i : Nat) : (s.irqPw i).pm = s.pm := rfl
@[simp] theorem State.irqPw_out (i : Nat) : (s.irqPw i).out = s.out := rfl
@[simp] theorem State.irqPw_inp (i : Nat) : (s.irqPw i).inp = s.inp := rfl
@[simp] theorem State.irqPw_ctl (i : Nat) : (s.irqPw i).ctl = s.ctl := rfl
@[simp] theorem State.irqPw_sense (i : Nat) : (s.irqPw i).sense = s.sense := rfl
@[simp] theorem State.irqPw_kiln (i : Nat) : (s.irqPw i).kiln = s.kiln := rfl
@[simp] theorem State.irqPw_walk (i : Nat) : (s.irqPw i).walk = s.walk := rfl
@[simp] theorem State.irqPw_fault (i : Nat) : (s.irqPw i).fault = s.fault := rfl
@[simp] theorem State.irqPw_mg (i : Nat) : (s.irqPw i).mg = s.mg := rfl
@[simp] theorem State.irqPw_log (i : Nat) : (s.irqPw i).log = s.log := rfl
@[simp] theorem State.irqPw_cfg (i : Nat) : (s.irqPw i).cfg = s.cfg := rfl
@[simp] theorem State.irqPw_cfgLoaded (i : Nat) : (s.irqPw i).cfgLoaded = s.cfgLoaded := rfl
@[simp] theorem State.irqPw_sgLoaded (i : Nat) : (s.irqPw i).sgLoaded = s.sgLoaded := rfl
@[simp] theorem State.irqPw_port (i : Nat) : (s.irqPw i).port = s.port := rfl
@[simp] theorem State.irqPw_sec (i : Nat) : (s.irqPw i).sec = s.sec := rfl
@[simp] theorem State.irqPw_ring (i : Nat) : (s.irqPw i).ring = s.ring := rfl
@[simp] theorem State.irqPw_twin (i : Nat) : (s.irqPw i).twin = s.twin := rfl
@[simp] theorem State.irqPw_tw (i : Nat) : (s.irqPw i).tw = s.tw := rfl
@[simp] theorem State.irqPw_twEnded (i : Nat) : (s.irqPw i).twEnded = s.twEnded := rfl
@[simp] theorem State.irqPw_pwm (i : Nat) : (s.irqPw i).pwm = s.pwm := rfl
@[simp] theorem State.irqPw_frozen (i : Nat) : (s.irqPw i).frozen = s.frozen := rfl
@[simp] theorem State.irqPw_jtag (i : Nat) : (s.irqPw i).jtag = s.jtag := rfl
@[simp] theorem State.irqPw_free (i : Nat) : (s.irqPw i).free = s.free := rfl
@[simp] theorem State.irqPw_pending (i : Nat) : (s.irqPw i).pending = s.pending := rfl

@[simp] theorem State.takeFree_ident : (s.takeFree).ident = s.ident := rfl
@[simp] theorem State.takeFree_clk : (s.takeFree).clk = s.clk := rfl
@[simp] theorem State.takeFree_pm : (s.takeFree).pm = s.pm := rfl
@[simp] theorem State.takeFree_out : (s.takeFree).out = s.out := rfl
@[simp] theorem State.takeFree_inp : (s.takeFree).inp = s.inp := rfl
@[simp] theorem State.takeFree_ctl : (s.takeFree).ctl = s.ctl := rfl
@[simp] theorem State.takeFree_sense : (s.takeFree).sense = s.sense := rfl
@[simp] theorem State.takeFree_kiln : (s.takeFree).kiln = s.kiln := rfl
@[simp] theorem State.takeFree_walk : (s.takeFree).walk = s.walk := rfl
@[simp] theorem State.takeFree_fault : (s.takeFree).fault = s.fault := rfl
@[simp] theorem State.takeFree_irq : (s.takeFree).irq = s.irq := rfl
@[simp] theorem State.takeFree_mg : (s.takeFree).mg = s.mg := rfl
@[simp] theorem State.takeFree_log : (s.takeFree).log = s.log := rfl
@[simp] theorem State.takeFree_cfg : (s.takeFree).cfg = s.cfg := rfl
@[simp] theorem State.takeFree_cfgLoaded : (s.takeFree).cfgLoaded = s.cfgLoaded := rfl
@[simp] theorem State.takeFree_sgLoaded : (s.takeFree).sgLoaded = s.sgLoaded := rfl
@[simp] theorem State.takeFree_port : (s.takeFree).port = s.port := rfl
@[simp] theorem State.takeFree_sec : (s.takeFree).sec = s.sec := rfl
@[simp] theorem State.takeFree_ring : (s.takeFree).ring = s.ring := rfl
@[simp] theorem State.takeFree_twin : (s.takeFree).twin = s.twin := rfl
@[simp] theorem State.takeFree_tw : (s.takeFree).tw = s.tw := rfl
@[simp] theorem State.takeFree_twEnded : (s.takeFree).twEnded = s.twEnded := rfl
@[simp] theorem State.takeFree_pwm : (s.takeFree).pwm = s.pwm := rfl
@[simp] theorem State.takeFree_frozen : (s.takeFree).frozen = s.frozen := rfl
@[simp] theorem State.takeFree_jtag : (s.takeFree).jtag = s.jtag := rfl
@[simp] theorem State.takeFree_pending : (s.takeFree).pending = s.pending := rfl

@[simp] theorem State.setCmp_ident (n : Nat) (c : Cmp) : (s.setCmp n c).ident = s.ident := rfl
@[simp] theorem State.setCmp_clk (n : Nat) (c : Cmp) : (s.setCmp n c).clk = s.clk := rfl
@[simp] theorem State.setCmp_pm (n : Nat) (c : Cmp) : (s.setCmp n c).pm = s.pm := rfl
@[simp] theorem State.setCmp_out (n : Nat) (c : Cmp) : (s.setCmp n c).out = s.out := rfl
@[simp] theorem State.setCmp_inp (n : Nat) (c : Cmp) : (s.setCmp n c).inp = s.inp := rfl
@[simp] theorem State.setCmp_ctl (n : Nat) (c : Cmp) : (s.setCmp n c).ctl = s.ctl := rfl
@[simp] theorem State.setCmp_kiln (n : Nat) (c : Cmp) : (s.setCmp n c).kiln = s.kiln := rfl
@[simp] theorem State.setCmp_walk (n : Nat) (c : Cmp) : (s.setCmp n c).walk = s.walk := rfl
@[simp] theorem State.setCmp_fault (n : Nat) (c : Cmp) : (s.setCmp n c).fault = s.fault := rfl
@[simp] theorem State.setCmp_irq (n : Nat) (c : Cmp) : (s.setCmp n c).irq = s.irq := rfl
@[simp] theorem State.setCmp_mg (n : Nat) (c : Cmp) : (s.setCmp n c).mg = s.mg := rfl
@[simp] theorem State.setCmp_log (n : Nat) (c : Cmp) : (s.setCmp n c).log = s.log := rfl
@[simp] theorem State.setCmp_cfg (n : Nat) (c : Cmp) : (s.setCmp n c).cfg = s.cfg := rfl
@[simp] theorem State.setCmp_cfgLoaded (n : Nat) (c : Cmp) : (s.setCmp n c).cfgLoaded = s.cfgLoaded := rfl
@[simp] theorem State.setCmp_sgLoaded (n : Nat) (c : Cmp) : (s.setCmp n c).sgLoaded = s.sgLoaded := rfl
@[simp] theorem State.setCmp_port (n : Nat) (c : Cmp) : (s.setCmp n c).port = s.port := rfl
@[simp] theorem State.setCmp_sec (n : Nat) (c : Cmp) : (s.setCmp n c).sec = s.sec := rfl
@[simp] theorem State.setCmp_ring (n : Nat) (c : Cmp) : (s.setCmp n c).ring = s.ring := rfl
@[simp] theorem State.setCmp_twin (n : Nat) (c : Cmp) : (s.setCmp n c).twin = s.twin := rfl
@[simp] theorem State.setCmp_tw (n : Nat) (c : Cmp) : (s.setCmp n c).tw = s.tw := rfl
@[simp] theorem State.setCmp_twEnded (n : Nat) (c : Cmp) : (s.setCmp n c).twEnded = s.twEnded := rfl
@[simp] theorem State.setCmp_pwm (n : Nat) (c : Cmp) : (s.setCmp n c).pwm = s.pwm := rfl
@[simp] theorem State.setCmp_frozen (n : Nat) (c : Cmp) : (s.setCmp n c).frozen = s.frozen := rfl
@[simp] theorem State.setCmp_jtag (n : Nat) (c : Cmp) : (s.setCmp n c).jtag = s.jtag := rfl
@[simp] theorem State.setCmp_free (n : Nat) (c : Cmp) : (s.setCmp n c).free = s.free := rfl
@[simp] theorem State.setCmp_pending (n : Nat) (c : Cmp) : (s.setCmp n c).pending = s.pending := rfl

@[simp] theorem State.setTrim_ident (n : Nat) (x : Trim) : (s.setTrim n x).ident = s.ident := rfl
@[simp] theorem State.setTrim_clk (n : Nat) (x : Trim) : (s.setTrim n x).clk = s.clk := rfl
@[simp] theorem State.setTrim_pm (n : Nat) (x : Trim) : (s.setTrim n x).pm = s.pm := rfl
@[simp] theorem State.setTrim_out (n : Nat) (x : Trim) : (s.setTrim n x).out = s.out := rfl
@[simp] theorem State.setTrim_inp (n : Nat) (x : Trim) : (s.setTrim n x).inp = s.inp := rfl
@[simp] theorem State.setTrim_ctl (n : Nat) (x : Trim) : (s.setTrim n x).ctl = s.ctl := rfl
@[simp] theorem State.setTrim_sense (n : Nat) (x : Trim) : (s.setTrim n x).sense = s.sense := rfl
@[simp] theorem State.setTrim_kiln (n : Nat) (x : Trim) : (s.setTrim n x).kiln = s.kiln := rfl
@[simp] theorem State.setTrim_walk (n : Nat) (x : Trim) : (s.setTrim n x).walk = s.walk := rfl
@[simp] theorem State.setTrim_fault (n : Nat) (x : Trim) : (s.setTrim n x).fault = s.fault := rfl
@[simp] theorem State.setTrim_irq (n : Nat) (x : Trim) : (s.setTrim n x).irq = s.irq := rfl
@[simp] theorem State.setTrim_log (n : Nat) (x : Trim) : (s.setTrim n x).log = s.log := rfl
@[simp] theorem State.setTrim_cfg (n : Nat) (x : Trim) : (s.setTrim n x).cfg = s.cfg := rfl
@[simp] theorem State.setTrim_cfgLoaded (n : Nat) (x : Trim) : (s.setTrim n x).cfgLoaded = s.cfgLoaded := rfl
@[simp] theorem State.setTrim_sgLoaded (n : Nat) (x : Trim) : (s.setTrim n x).sgLoaded = s.sgLoaded := rfl
@[simp] theorem State.setTrim_port (n : Nat) (x : Trim) : (s.setTrim n x).port = s.port := rfl
@[simp] theorem State.setTrim_sec (n : Nat) (x : Trim) : (s.setTrim n x).sec = s.sec := rfl
@[simp] theorem State.setTrim_ring (n : Nat) (x : Trim) : (s.setTrim n x).ring = s.ring := rfl
@[simp] theorem State.setTrim_twin (n : Nat) (x : Trim) : (s.setTrim n x).twin = s.twin := rfl
@[simp] theorem State.setTrim_tw (n : Nat) (x : Trim) : (s.setTrim n x).tw = s.tw := rfl
@[simp] theorem State.setTrim_twEnded (n : Nat) (x : Trim) : (s.setTrim n x).twEnded = s.twEnded := rfl
@[simp] theorem State.setTrim_pwm (n : Nat) (x : Trim) : (s.setTrim n x).pwm = s.pwm := rfl
@[simp] theorem State.setTrim_frozen (n : Nat) (x : Trim) : (s.setTrim n x).frozen = s.frozen := rfl
@[simp] theorem State.setTrim_jtag (n : Nat) (x : Trim) : (s.setTrim n x).jtag = s.jtag := rfl
@[simp] theorem State.setTrim_free (n : Nat) (x : Trim) : (s.setTrim n x).free = s.free := rfl
@[simp] theorem State.setTrim_pending (n : Nat) (x : Trim) : (s.setTrim n x).pending = s.pending := rfl

@[simp] theorem State.setCh_ident (n : Nat) (f : PwmCh → PwmCh) : (s.setCh n f).ident = s.ident := rfl
@[simp] theorem State.setCh_clk (n : Nat) (f : PwmCh → PwmCh) : (s.setCh n f).clk = s.clk := rfl
@[simp] theorem State.setCh_pm (n : Nat) (f : PwmCh → PwmCh) : (s.setCh n f).pm = s.pm := rfl
@[simp] theorem State.setCh_out (n : Nat) (f : PwmCh → PwmCh) : (s.setCh n f).out = s.out := rfl
@[simp] theorem State.setCh_inp (n : Nat) (f : PwmCh → PwmCh) : (s.setCh n f).inp = s.inp := rfl
@[simp] theorem State.setCh_ctl (n : Nat) (f : PwmCh → PwmCh) : (s.setCh n f).ctl = s.ctl := rfl
@[simp] theorem State.setCh_sense (n : Nat) (f : PwmCh → PwmCh) : (s.setCh n f).sense = s.sense := rfl
@[simp] theorem State.setCh_kiln (n : Nat) (f : PwmCh → PwmCh) : (s.setCh n f).kiln = s.kiln := rfl
@[simp] theorem State.setCh_walk (n : Nat) (f : PwmCh → PwmCh) : (s.setCh n f).walk = s.walk := rfl
@[simp] theorem State.setCh_fault (n : Nat) (f : PwmCh → PwmCh) : (s.setCh n f).fault = s.fault := rfl
@[simp] theorem State.setCh_irq (n : Nat) (f : PwmCh → PwmCh) : (s.setCh n f).irq = s.irq := rfl
@[simp] theorem State.setCh_mg (n : Nat) (f : PwmCh → PwmCh) : (s.setCh n f).mg = s.mg := rfl
@[simp] theorem State.setCh_log (n : Nat) (f : PwmCh → PwmCh) : (s.setCh n f).log = s.log := rfl
@[simp] theorem State.setCh_cfg (n : Nat) (f : PwmCh → PwmCh) : (s.setCh n f).cfg = s.cfg := rfl
@[simp] theorem State.setCh_cfgLoaded (n : Nat) (f : PwmCh → PwmCh) : (s.setCh n f).cfgLoaded = s.cfgLoaded := rfl
@[simp] theorem State.setCh_sgLoaded (n : Nat) (f : PwmCh → PwmCh) : (s.setCh n f).sgLoaded = s.sgLoaded := rfl
@[simp] theorem State.setCh_port (n : Nat) (f : PwmCh → PwmCh) : (s.setCh n f).port = s.port := rfl
@[simp] theorem State.setCh_sec (n : Nat) (f : PwmCh → PwmCh) : (s.setCh n f).sec = s.sec := rfl
@[simp] theorem State.setCh_ring (n : Nat) (f : PwmCh → PwmCh) : (s.setCh n f).ring = s.ring := rfl
@[simp] theorem State.setCh_twin (n : Nat) (f : PwmCh → PwmCh) : (s.setCh n f).twin = s.twin := rfl
@[simp] theorem State.setCh_tw (n : Nat) (f : PwmCh → PwmCh) : (s.setCh n f).tw = s.tw := rfl
@[simp] theorem State.setCh_twEnded (n : Nat) (f : PwmCh → PwmCh) : (s.setCh n f).twEnded = s.twEnded := rfl
@[simp] theorem State.setCh_frozen (n : Nat) (f : PwmCh → PwmCh) : (s.setCh n f).frozen = s.frozen := rfl
@[simp] theorem State.setCh_jtag (n : Nat) (f : PwmCh → PwmCh) : (s.setCh n f).jtag = s.jtag := rfl
@[simp] theorem State.setCh_free (n : Nat) (f : PwmCh → PwmCh) : (s.setCh n f).free = s.free := rfl
@[simp] theorem State.setCh_pending (n : Nat) (f : PwmCh → PwmCh) : (s.setCh n f).pending = s.pending := rfl

@[simp] theorem State.setEng_ident (n : Nat) (f : Engine → Engine) : (s.setEng n f).ident = s.ident := rfl
@[simp] theorem State.setEng_clk (n : Nat) (f : Engine → Engine) : (s.setEng n f).clk = s.clk := rfl
@[simp] theorem State.setEng_pm (n : Nat) (f : Engine → Engine) : (s.setEng n f).pm = s.pm := rfl
@[simp] theorem State.setEng_out (n : Nat) (f : Engine → Engine) : (s.setEng n f).out = s.out := rfl
@[simp] theorem State.setEng_inp (n : Nat) (f : Engine → Engine) : (s.setEng n f).inp = s.inp := rfl
@[simp] theorem State.setEng_ctl (n : Nat) (f : Engine → Engine) : (s.setEng n f).ctl = s.ctl := rfl
@[simp] theorem State.setEng_sense (n : Nat) (f : Engine → Engine) : (s.setEng n f).sense = s.sense := rfl
@[simp] theorem State.setEng_walk (n : Nat) (f : Engine → Engine) : (s.setEng n f).walk = s.walk := rfl
@[simp] theorem State.setEng_fault (n : Nat) (f : Engine → Engine) : (s.setEng n f).fault = s.fault := rfl
@[simp] theorem State.setEng_irq (n : Nat) (f : Engine → Engine) : (s.setEng n f).irq = s.irq := rfl
@[simp] theorem State.setEng_mg (n : Nat) (f : Engine → Engine) : (s.setEng n f).mg = s.mg := rfl
@[simp] theorem State.setEng_log (n : Nat) (f : Engine → Engine) : (s.setEng n f).log = s.log := rfl
@[simp] theorem State.setEng_cfg (n : Nat) (f : Engine → Engine) : (s.setEng n f).cfg = s.cfg := rfl
@[simp] theorem State.setEng_cfgLoaded (n : Nat) (f : Engine → Engine) : (s.setEng n f).cfgLoaded = s.cfgLoaded := rfl
@[simp] theorem State.setEng_sgLoaded (n : Nat) (f : Engine → Engine) : (s.setEng n f).sgLoaded = s.sgLoaded := rfl
@[simp] theorem State.setEng_port (n : Nat) (f : Engine → Engine) : (s.setEng n f).port = s.port := rfl
@[simp] theorem State.setEng_sec (n : Nat) (f : Engine → Engine) : (s.setEng n f).sec = s.sec := rfl
@[simp] theorem State.setEng_ring (n : Nat) (f : Engine → Engine) : (s.setEng n f).ring = s.ring := rfl
@[simp] theorem State.setEng_twin (n : Nat) (f : Engine → Engine) : (s.setEng n f).twin = s.twin := rfl
@[simp] theorem State.setEng_tw (n : Nat) (f : Engine → Engine) : (s.setEng n f).tw = s.tw := rfl
@[simp] theorem State.setEng_twEnded (n : Nat) (f : Engine → Engine) : (s.setEng n f).twEnded = s.twEnded := rfl
@[simp] theorem State.setEng_pwm (n : Nat) (f : Engine → Engine) : (s.setEng n f).pwm = s.pwm := rfl
@[simp] theorem State.setEng_frozen (n : Nat) (f : Engine → Engine) : (s.setEng n f).frozen = s.frozen := rfl
@[simp] theorem State.setEng_jtag (n : Nat) (f : Engine → Engine) : (s.setEng n f).jtag = s.jtag := rfl
@[simp] theorem State.setEng_free (n : Nat) (f : Engine → Engine) : (s.setEng n f).free = s.free := rfl
@[simp] theorem State.setEng_pending (n : Nat) (f : Engine → Engine) : (s.setEng n f).pending = s.pending := rfl

@[simp] theorem State.setTw_ident (n : Nat) (f : TwPort → TwPort) : (s.setTw n f).ident = s.ident := rfl
@[simp] theorem State.setTw_clk (n : Nat) (f : TwPort → TwPort) : (s.setTw n f).clk = s.clk := rfl
@[simp] theorem State.setTw_pm (n : Nat) (f : TwPort → TwPort) : (s.setTw n f).pm = s.pm := rfl
@[simp] theorem State.setTw_out (n : Nat) (f : TwPort → TwPort) : (s.setTw n f).out = s.out := rfl
@[simp] theorem State.setTw_inp (n : Nat) (f : TwPort → TwPort) : (s.setTw n f).inp = s.inp := rfl
@[simp] theorem State.setTw_ctl (n : Nat) (f : TwPort → TwPort) : (s.setTw n f).ctl = s.ctl := rfl
@[simp] theorem State.setTw_sense (n : Nat) (f : TwPort → TwPort) : (s.setTw n f).sense = s.sense := rfl
@[simp] theorem State.setTw_kiln (n : Nat) (f : TwPort → TwPort) : (s.setTw n f).kiln = s.kiln := rfl
@[simp] theorem State.setTw_walk (n : Nat) (f : TwPort → TwPort) : (s.setTw n f).walk = s.walk := rfl
@[simp] theorem State.setTw_fault (n : Nat) (f : TwPort → TwPort) : (s.setTw n f).fault = s.fault := rfl
@[simp] theorem State.setTw_irq (n : Nat) (f : TwPort → TwPort) : (s.setTw n f).irq = s.irq := rfl
@[simp] theorem State.setTw_mg (n : Nat) (f : TwPort → TwPort) : (s.setTw n f).mg = s.mg := rfl
@[simp] theorem State.setTw_log (n : Nat) (f : TwPort → TwPort) : (s.setTw n f).log = s.log := rfl
@[simp] theorem State.setTw_cfg (n : Nat) (f : TwPort → TwPort) : (s.setTw n f).cfg = s.cfg := rfl
@[simp] theorem State.setTw_cfgLoaded (n : Nat) (f : TwPort → TwPort) : (s.setTw n f).cfgLoaded = s.cfgLoaded := rfl
@[simp] theorem State.setTw_sgLoaded (n : Nat) (f : TwPort → TwPort) : (s.setTw n f).sgLoaded = s.sgLoaded := rfl
@[simp] theorem State.setTw_port (n : Nat) (f : TwPort → TwPort) : (s.setTw n f).port = s.port := rfl
@[simp] theorem State.setTw_sec (n : Nat) (f : TwPort → TwPort) : (s.setTw n f).sec = s.sec := rfl
@[simp] theorem State.setTw_ring (n : Nat) (f : TwPort → TwPort) : (s.setTw n f).ring = s.ring := rfl
@[simp] theorem State.setTw_twin (n : Nat) (f : TwPort → TwPort) : (s.setTw n f).twin = s.twin := rfl
@[simp] theorem State.setTw_twEnded (n : Nat) (f : TwPort → TwPort) : (s.setTw n f).twEnded = s.twEnded := rfl
@[simp] theorem State.setTw_pwm (n : Nat) (f : TwPort → TwPort) : (s.setTw n f).pwm = s.pwm := rfl
@[simp] theorem State.setTw_frozen (n : Nat) (f : TwPort → TwPort) : (s.setTw n f).frozen = s.frozen := rfl
@[simp] theorem State.setTw_jtag (n : Nat) (f : TwPort → TwPort) : (s.setTw n f).jtag = s.jtag := rfl
@[simp] theorem State.setTw_free (n : Nat) (f : TwPort → TwPort) : (s.setTw n f).free = s.free := rfl
@[simp] theorem State.setTw_pending (n : Nat) (f : TwPort → TwPort) : (s.setTw n f).pending = s.pending := rfl

@[simp] theorem State.push_ident (x : Shard) : (s.push x).ident = s.ident := rfl
@[simp] theorem State.push_clk (x : Shard) : (s.push x).clk = s.clk := rfl
@[simp] theorem State.push_pm (x : Shard) : (s.push x).pm = s.pm := rfl
@[simp] theorem State.push_out (x : Shard) : (s.push x).out = s.out := rfl
@[simp] theorem State.push_inp (x : Shard) : (s.push x).inp = s.inp := rfl
@[simp] theorem State.push_ctl (x : Shard) : (s.push x).ctl = s.ctl := rfl
@[simp] theorem State.push_sense (x : Shard) : (s.push x).sense = s.sense := rfl
@[simp] theorem State.push_kiln (x : Shard) : (s.push x).kiln = s.kiln := rfl
@[simp] theorem State.push_walk (x : Shard) : (s.push x).walk = s.walk := rfl
@[simp] theorem State.push_fault (x : Shard) : (s.push x).fault = s.fault := rfl
@[simp] theorem State.push_irq (x : Shard) : (s.push x).irq = s.irq := rfl
@[simp] theorem State.push_mg (x : Shard) : (s.push x).mg = s.mg := rfl
@[simp] theorem State.push_cfg (x : Shard) : (s.push x).cfg = s.cfg := rfl
@[simp] theorem State.push_cfgLoaded (x : Shard) : (s.push x).cfgLoaded = s.cfgLoaded := rfl
@[simp] theorem State.push_sgLoaded (x : Shard) : (s.push x).sgLoaded = s.sgLoaded := rfl
@[simp] theorem State.push_port (x : Shard) : (s.push x).port = s.port := rfl
@[simp] theorem State.push_sec (x : Shard) : (s.push x).sec = s.sec := rfl
@[simp] theorem State.push_ring (x : Shard) : (s.push x).ring = s.ring := rfl
@[simp] theorem State.push_twin (x : Shard) : (s.push x).twin = s.twin := rfl
@[simp] theorem State.push_tw (x : Shard) : (s.push x).tw = s.tw := rfl
@[simp] theorem State.push_twEnded (x : Shard) : (s.push x).twEnded = s.twEnded := rfl
@[simp] theorem State.push_pwm (x : Shard) : (s.push x).pwm = s.pwm := rfl
@[simp] theorem State.push_frozen (x : Shard) : (s.push x).frozen = s.frozen := rfl
@[simp] theorem State.push_jtag (x : Shard) : (s.push x).jtag = s.jtag := rfl
@[simp] theorem State.push_free (x : Shard) : (s.push x).free = s.free := rfl
@[simp] theorem State.push_pending (x : Shard) : (s.push x).pending = s.pending := rfl

@[simp] theorem State.releaseTrips_ident : (s.releaseTrips).ident = s.ident := rfl
@[simp] theorem State.releaseTrips_clk : (s.releaseTrips).clk = s.clk := rfl
@[simp] theorem State.releaseTrips_pm : (s.releaseTrips).pm = s.pm := rfl
@[simp] theorem State.releaseTrips_inp : (s.releaseTrips).inp = s.inp := rfl
@[simp] theorem State.releaseTrips_ctl : (s.releaseTrips).ctl = s.ctl := rfl
@[simp] theorem State.releaseTrips_sense : (s.releaseTrips).sense = s.sense := rfl
@[simp] theorem State.releaseTrips_kiln : (s.releaseTrips).kiln = s.kiln := rfl
@[simp] theorem State.releaseTrips_walk : (s.releaseTrips).walk = s.walk := rfl
@[simp] theorem State.releaseTrips_fault : (s.releaseTrips).fault = s.fault := rfl
@[simp] theorem State.releaseTrips_irq : (s.releaseTrips).irq = s.irq := rfl
@[simp] theorem State.releaseTrips_mg : (s.releaseTrips).mg = s.mg := rfl
@[simp] theorem State.releaseTrips_log : (s.releaseTrips).log = s.log := rfl
@[simp] theorem State.releaseTrips_cfg : (s.releaseTrips).cfg = s.cfg := rfl
@[simp] theorem State.releaseTrips_cfgLoaded : (s.releaseTrips).cfgLoaded = s.cfgLoaded := rfl
@[simp] theorem State.releaseTrips_sgLoaded : (s.releaseTrips).sgLoaded = s.sgLoaded := rfl
@[simp] theorem State.releaseTrips_port : (s.releaseTrips).port = s.port := rfl
@[simp] theorem State.releaseTrips_sec : (s.releaseTrips).sec = s.sec := rfl
@[simp] theorem State.releaseTrips_ring : (s.releaseTrips).ring = s.ring := rfl
@[simp] theorem State.releaseTrips_twin : (s.releaseTrips).twin = s.twin := rfl
@[simp] theorem State.releaseTrips_tw : (s.releaseTrips).tw = s.tw := rfl
@[simp] theorem State.releaseTrips_twEnded : (s.releaseTrips).twEnded = s.twEnded := rfl
@[simp] theorem State.releaseTrips_pwm : (s.releaseTrips).pwm = s.pwm := rfl
@[simp] theorem State.releaseTrips_frozen : (s.releaseTrips).frozen = s.frozen := rfl
@[simp] theorem State.releaseTrips_jtag : (s.releaseTrips).jtag = s.jtag := rfl
@[simp] theorem State.releaseTrips_free : (s.releaseTrips).free = s.free := rfl
@[simp] theorem State.releaseTrips_pending : (s.releaseTrips).pending = s.pending := rfl

@[simp] theorem State.updateHrst_ident : (s.updateHrst).ident = s.ident := rfl
@[simp] theorem State.updateHrst_clk : (s.updateHrst).clk = s.clk := rfl
@[simp] theorem State.updateHrst_pm : (s.updateHrst).pm = s.pm := rfl
@[simp] theorem State.updateHrst_inp : (s.updateHrst).inp = s.inp := rfl
@[simp] theorem State.updateHrst_ctl : (s.updateHrst).ctl = s.ctl := rfl
@[simp] theorem State.updateHrst_sense : (s.updateHrst).sense = s.sense := rfl
@[simp] theorem State.updateHrst_kiln : (s.updateHrst).kiln = s.kiln := rfl
@[simp] theorem State.updateHrst_walk : (s.updateHrst).walk = s.walk := rfl
@[simp] theorem State.updateHrst_fault : (s.updateHrst).fault = s.fault := rfl
@[simp] theorem State.updateHrst_irq : (s.updateHrst).irq = s.irq := rfl
@[simp] theorem State.updateHrst_mg : (s.updateHrst).mg = s.mg := rfl
@[simp] theorem State.updateHrst_log : (s.updateHrst).log = s.log := rfl
@[simp] theorem State.updateHrst_cfg : (s.updateHrst).cfg = s.cfg := rfl
@[simp] theorem State.updateHrst_cfgLoaded : (s.updateHrst).cfgLoaded = s.cfgLoaded := rfl
@[simp] theorem State.updateHrst_sgLoaded : (s.updateHrst).sgLoaded = s.sgLoaded := rfl
@[simp] theorem State.updateHrst_port : (s.updateHrst).port = s.port := rfl
@[simp] theorem State.updateHrst_sec : (s.updateHrst).sec = s.sec := rfl
@[simp] theorem State.updateHrst_ring : (s.updateHrst).ring = s.ring := rfl
@[simp] theorem State.updateHrst_twin : (s.updateHrst).twin = s.twin := rfl
@[simp] theorem State.updateHrst_tw : (s.updateHrst).tw = s.tw := rfl
@[simp] theorem State.updateHrst_twEnded : (s.updateHrst).twEnded = s.twEnded := rfl
@[simp] theorem State.updateHrst_pwm : (s.updateHrst).pwm = s.pwm := rfl
@[simp] theorem State.updateHrst_frozen : (s.updateHrst).frozen = s.frozen := rfl
@[simp] theorem State.updateHrst_jtag : (s.updateHrst).jtag = s.jtag := rfl
@[simp] theorem State.updateHrst_free : (s.updateHrst).free = s.free := rfl
@[simp] theorem State.updateHrst_pending : (s.updateHrst).pending = s.pending := rfl

@[simp] theorem State.noteSet_irq_ct (a : Nat) (m : Word) : (s.noteSet a m).irq.ct = s.irq.ct := rfl
@[simp] theorem State.noteSet_irq_lg (a : Nat) (m : Word) : (s.noteSet a m).irq.lg = s.irq.lg := rfl
@[simp] theorem State.noteSet_irq_cm (a : Nat) (m : Word) : (s.noteSet a m).irq.cm = s.irq.cm := rfl
@[simp] theorem State.noteSet_irq_gl (a : Nat) (m : Word) : (s.noteSet a m).irq.gl = s.irq.gl := rfl
@[simp] theorem State.noteSet_irq_tw (a : Nat) (m : Word) : (s.noteSet a m).irq.tw = s.irq.tw := rfl
@[simp] theorem State.noteSet_irq_ck (a : Nat) (m : Word) : (s.noteSet a m).irq.ck = s.irq.ck := rfl
@[simp] theorem State.noteSet_irq_pw (a : Nat) (m : Word) : (s.noteSet a m).irq.pw = s.irq.pw := rfl
@[simp] theorem State.irqCt_irq_ct (i : Nat) : (s.irqCt i).irq.ct = putBit s.irq.ct i true := rfl
@[simp] theorem State.irqCt_irq_lg (i : Nat) : (s.irqCt i).irq.lg = s.irq.lg := rfl
@[simp] theorem State.irqCt_irq_cm (i : Nat) : (s.irqCt i).irq.cm = s.irq.cm := rfl
@[simp] theorem State.irqCt_irq_gl (i : Nat) : (s.irqCt i).irq.gl = s.irq.gl := rfl
@[simp] theorem State.irqCt_irq_tw (i : Nat) : (s.irqCt i).irq.tw = s.irq.tw := rfl
@[simp] theorem State.irqCt_irq_ck (i : Nat) : (s.irqCt i).irq.ck = s.irq.ck := rfl
@[simp] theorem State.irqCt_irq_pw (i : Nat) : (s.irqCt i).irq.pw = s.irq.pw := rfl
@[simp] theorem State.irqLg_irq_ct (i : Nat) : (s.irqLg i).irq.ct = s.irq.ct := rfl
@[simp] theorem State.irqLg_irq_lg (i : Nat) : (s.irqLg i).irq.lg = putBit s.irq.lg i true := rfl
@[simp] theorem State.irqLg_irq_cm (i : Nat) : (s.irqLg i).irq.cm = s.irq.cm := rfl
@[simp] theorem State.irqLg_irq_gl (i : Nat) : (s.irqLg i).irq.gl = s.irq.gl := rfl
@[simp] theorem State.irqLg_irq_tw (i : Nat) : (s.irqLg i).irq.tw = s.irq.tw := rfl
@[simp] theorem State.irqLg_irq_ck (i : Nat) : (s.irqLg i).irq.ck = s.irq.ck := rfl
@[simp] theorem State.irqLg_irq_pw (i : Nat) : (s.irqLg i).irq.pw = s.irq.pw := rfl
@[simp] theorem State.irqCm_irq_ct (i : Nat) : (s.irqCm i).irq.ct = s.irq.ct := rfl
@[simp] theorem State.irqCm_irq_lg (i : Nat) : (s.irqCm i).irq.lg = s.irq.lg := rfl
@[simp] theorem State.irqCm_irq_cm (i : Nat) : (s.irqCm i).irq.cm = putBit s.irq.cm i true := rfl
@[simp] theorem State.irqCm_irq_gl (i : Nat) : (s.irqCm i).irq.gl = s.irq.gl := rfl
@[simp] theorem State.irqCm_irq_tw (i : Nat) : (s.irqCm i).irq.tw = s.irq.tw := rfl
@[simp] theorem State.irqCm_irq_ck (i : Nat) : (s.irqCm i).irq.ck = s.irq.ck := rfl
@[simp] theorem State.irqCm_irq_pw (i : Nat) : (s.irqCm i).irq.pw = s.irq.pw := rfl
@[simp] theorem State.irqGl_irq_ct (i : Nat) : (s.irqGl i).irq.ct = s.irq.ct := rfl
@[simp] theorem State.irqGl_irq_lg (i : Nat) : (s.irqGl i).irq.lg = s.irq.lg := rfl
@[simp] theorem State.irqGl_irq_cm (i : Nat) : (s.irqGl i).irq.cm = s.irq.cm := rfl
@[simp] theorem State.irqGl_irq_gl (i : Nat) : (s.irqGl i).irq.gl = putBit s.irq.gl i true := rfl
@[simp] theorem State.irqGl_irq_tw (i : Nat) : (s.irqGl i).irq.tw = s.irq.tw := rfl
@[simp] theorem State.irqGl_irq_ck (i : Nat) : (s.irqGl i).irq.ck = s.irq.ck := rfl
@[simp] theorem State.irqGl_irq_pw (i : Nat) : (s.irqGl i).irq.pw = s.irq.pw := rfl
@[simp] theorem State.irqTw_irq_ct (i : Nat) : (s.irqTw i).irq.ct = s.irq.ct := rfl
@[simp] theorem State.irqTw_irq_lg (i : Nat) : (s.irqTw i).irq.lg = s.irq.lg := rfl
@[simp] theorem State.irqTw_irq_cm (i : Nat) : (s.irqTw i).irq.cm = s.irq.cm := rfl
@[simp] theorem State.irqTw_irq_gl (i : Nat) : (s.irqTw i).irq.gl = s.irq.gl := rfl
@[simp] theorem State.irqTw_irq_tw (i : Nat) : (s.irqTw i).irq.tw = putBit s.irq.tw i true := rfl
@[simp] theorem State.irqTw_irq_ck (i : Nat) : (s.irqTw i).irq.ck = s.irq.ck := rfl
@[simp] theorem State.irqTw_irq_pw (i : Nat) : (s.irqTw i).irq.pw = s.irq.pw := rfl
@[simp] theorem State.irqCk_irq_ct (i : Nat) : (s.irqCk i).irq.ct = s.irq.ct := rfl
@[simp] theorem State.irqCk_irq_lg (i : Nat) : (s.irqCk i).irq.lg = s.irq.lg := rfl
@[simp] theorem State.irqCk_irq_cm (i : Nat) : (s.irqCk i).irq.cm = s.irq.cm := rfl
@[simp] theorem State.irqCk_irq_gl (i : Nat) : (s.irqCk i).irq.gl = s.irq.gl := rfl
@[simp] theorem State.irqCk_irq_tw (i : Nat) : (s.irqCk i).irq.tw = s.irq.tw := rfl
@[simp] theorem State.irqCk_irq_ck (i : Nat) : (s.irqCk i).irq.ck = putBit s.irq.ck i true := rfl
@[simp] theorem State.irqCk_irq_pw (i : Nat) : (s.irqCk i).irq.pw = s.irq.pw := rfl
@[simp] theorem State.irqPw_irq_ct (i : Nat) : (s.irqPw i).irq.ct = s.irq.ct := rfl
@[simp] theorem State.irqPw_irq_lg (i : Nat) : (s.irqPw i).irq.lg = s.irq.lg := rfl
@[simp] theorem State.irqPw_irq_cm (i : Nat) : (s.irqPw i).irq.cm = s.irq.cm := rfl
@[simp] theorem State.irqPw_irq_gl (i : Nat) : (s.irqPw i).irq.gl = s.irq.gl := rfl
@[simp] theorem State.irqPw_irq_tw (i : Nat) : (s.irqPw i).irq.tw = s.irq.tw := rfl
@[simp] theorem State.irqPw_irq_ck (i : Nat) : (s.irqPw i).irq.ck = s.irq.ck := rfl
@[simp] theorem State.irqPw_irq_pw (i : Nat) : (s.irqPw i).irq.pw = putBit s.irq.pw i true := rfl

@[simp] theorem Clk.run_now (c : Clk) (d : Nat) : (c.run d).now = c.now := rfl
@[simp] theorem Clk.run_outs (c : Clk) (d : Nat) : (c.run d).outs = c.outs := rfl
@[simp] theorem Clk.advance_now (c : Clk) (d : Nat) : (c.advance d).now = c.now + d := rfl
@[simp] theorem Clk.advance_outs (c : Clk) (d : Nat) : (c.advance d).outs = c.outs := by
  simp only [Clk.advance]
  repeat' split
  all_goals rfl
@[simp] theorem State.wait_now (d : Nat) : (s.wait d).clk.now = s.clk.now + d := rfl
@[simp] theorem State.wait_outs (d : Nat) : (s.wait d).clk.outs = s.clk.outs := Clk.advance_outs _ _

end Sys2Proof.Machine
end

