-- ==== Sys2Proof/Laws/KeepsOps.lean ====
section
/-! SUPPORT. Each shared operation on time, flags, replies, sweeps and faults stays within `Keeps` (Safety.lean).
A lemma reads: if a state keeps what `Keeps` says of an earlier one, the operation's result does too. -/

set_option Elab.async false

namespace Sys2Proof.Machine

theorem State.wait_keeps {a s : State} (h : Keeps a s) (d : Nat) : Keeps a (s.wait d) :=
  h.mk_gen (Nat.le_add_right _ _) le_rfl (fun _ => le_rfl) id id id id id id id id id id id
    (g4 := fun x => by simpa using x)

theorem State.till_keeps {a s : State} (h : Keeps a s) (t : Nat) : Keeps a (State.till s t) := by
  unfold State.till
  repeat' first | assumption | with_reducible apply State.wait_keeps

theorem State.tillDue_keeps {a s : State} (h : Keeps a s) (t : Option Nat) : Keeps a (State.tillDue s t) := by
  unfold State.tillDue
  repeat' first | assumption | with_reducible apply State.wait_keeps

theorem State.creep_keeps {a : State} (target k : Nat) {s : State} (h : Keeps a s) : Keeps a (s.creep target k) := by
  induction k generalizing s with
  | zero => exact h
  | succ k ih => unfold State.creep; split <;> [exact h; exact ih (State.wait_keeps h 1)]

theorem State.tillStamp_keeps {a s : State} (h : Keeps a s) (m : Nat) : Keeps a (State.tillStamp s m) := by
  unfold State.tillStamp
  try dsimp only
  repeat' first
    | with_reducible assumption | with_reducible apply State.advance_keeps | with_reducible apply State.wait_keeps
    | with_reducible apply State.creep_keeps | split

theorem State.setCmp_keeps {a s : State} (h : Keeps a s) (src : Nat) (c : Cmp) : Keeps a (s.setCmp src c) :=
  h.mk_gen le_rfl le_rfl (fun _ => le_rfl) id (fun x => Tab.wf_put x _ _ _) id id id id id id id id id

theorem State.noteSet_keeps {z s : State} (h : Keeps z s) (a : Nat) (m : Word) : Keeps z (State.noteSet s a m) := by
  unfold State.noteSet
  try dsimp only
  repeat' first | with_reducible assumption | split | with_reducible refine Keeps.mk_upd ?_

theorem State.irqCt_keeps {a s : State} (h : Keeps a s) (i : Nat) : Keeps a (State.irqCt s i) := by
  unfold State.irqCt
  try dsimp only
  repeat' first
    | with_reducible assumption | with_reducible apply State.noteSet_keeps | with_reducible refine Keeps.mk_upd ?_

theorem State.irqLg_keeps {a s : State} (h : Keeps a s) (i : Nat) : Keeps a (State.irqLg s i) := by
  unfold State.irqLg
  try dsimp only
  repeat' first
    | with_reducible assumption | with_reducible apply State.noteSet_keeps | with_reducible refine Keeps.mk_upd ?_

theorem State.irqCm_keeps {a s : State} (h : Keeps a s) (i : Nat) : Keeps a (State.irqCm s i) := by
  unfold State.irqCm
  try dsimp only
  repeat' first
    | with_reducible assumption | with_reducible apply State.noteSet_keeps | with_reducible refine Keeps.mk_upd ?_

theorem State.irqGl_keeps {a s : State} (h : Keeps a s) (i : Nat) : Keeps a (State.irqGl s i) := by
  unfold State.irqGl
  try dsimp only
  repeat' first
    | with_reducible assumption | with_reducible apply State.noteSet_keeps | with_reducible refine Keeps.mk_upd ?_

theorem State.irqTw_keeps {a s : State} (h : Keeps a s) (i : Nat) : Keeps a (State.irqTw s i) := by
  unfold State.irqTw
  try dsimp only
  repeat' first
    | with_reducible assumption | with_reducible apply State.noteSet_keeps | with_reducible refine Keeps.mk_upd ?_

theorem State.irqCk_keeps {a s : State} (h : Keeps a s) (i : Nat) : Keeps a (State.irqCk s i) := by
  unfold State.irqCk
  try dsimp only
  repeat' first
    | with_reducible assumption | with_reducible apply State.noteSet_keeps | with_reducible refine Keeps.mk_upd ?_

theorem State.irqPw_keeps {a s : State} (h : Keeps a s) (i : Nat) : Keeps a (State.irqPw s i) := by
  unfold State.irqPw
  try dsimp only
  repeat' first
    | with_reducible assumption | with_reducible apply State.noteSet_keeps | with_reducible refine Keeps.mk_upd ?_

theorem State.takeFree_keeps {a s : State} (h : Keeps a s) : Keeps a s.takeFree :=
  h.mk_gen le_rfl (Nat.le_succ _) (fun _ => le_rfl) id id id id id id id id id id id

theorem State.push_keeps {a s : State} (h : Keeps a s) (x : Shard) : Keeps a (State.push s x) := by
  unfold State.push
  repeat' first | assumption | with_reducible refine Keeps.mk_upd ?_

theorem State.capture_keeps {a s : State} (h : Keeps a s) (kind : Nat) (cause : Nat) (event : List Byte) :
    Keeps a (State.capture s kind cause event) := by
  unfold State.capture
  repeat' first | assumption | split | with_reducible refine Keeps.mk_upd ?_

theorem State.logEvent_keeps {a s : State} (h : Keeps a s) (code : Nat) (region : Nat) (v1 : Nat) (v2 : Nat) :
    Keeps a (State.logEvent s code region v1 v2) := by
  unfold State.logEvent
  repeat' first | assumption | with_reducible apply State.capture_keeps

theorem State.faultShard_keeps {a s : State} (h : Keeps a s) (f : FaultRec) (disposition : Nat) (table : Nat) (repeats : Nat) :
    Keeps a (State.faultShard s f disposition table repeats) := by
  unfold State.faultShard
  repeat' first | assumption | with_reducible apply State.capture_keeps

theorem State.goTo_keeps {a s : State} (h : Keeps a s) (st : DevState) (cause : Nat) :
    Keeps a (State.goTo s st cause) := by
  unfold State.goTo
  try dsimp only
  repeat' first | assumption | split | with_reducible refine Keeps.mk_upd ?_

theorem State.tripPwm_keeps {a s : State} (h : Keeps a s) (src : Word) : Keeps a (State.tripPwm s src) := by
  unfold State.tripPwm
  try dsimp only
  repeat' first
    | with_reducible assumption | with_reducible apply State.noteSet_keeps | with_reducible apply State.irqPw_keeps
    | split | with_reducible refine Keeps.mk_upd ?_

theorem State.assertPfw_keeps {a s : State} (h : Keeps a s) : Keeps a (State.assertPfw s) := by
  unfold State.assertPfw
  repeat' first | assumption | with_reducible apply State.tripPwm_keeps | split | with_reducible refine Keeps.mk_upd ?_

theorem State.assertTripo_keeps {a s : State} (h : Keeps a s) : Keeps a (State.assertTripo s) := by
  unfold State.assertTripo
  repeat' first | assumption | with_reducible apply State.tripPwm_keeps | split | with_reducible refine Keeps.mk_upd ?_

theorem State.releaseTrips_keeps {a s : State} (h : Keeps a s) : Keeps a (State.releaseTrips s) := by
  unfold State.releaseTrips
  repeat' first | assumption | with_reducible refine Keeps.mk_upd ?_

theorem State.updateHrst_keeps {a s : State} (h : Keeps a s) : Keeps a (State.updateHrst s) := by
  unfold State.updateHrst
  repeat' first | assumption | with_reducible refine Keeps.mk_upd ?_

theorem State.refreshFlt_keeps {a s : State} (h : Keeps a s) (old : State) : Keeps a (State.refreshFlt s old) := by
  unfold State.refreshFlt
  try dsimp only
  repeat' first | assumption | with_reducible apply State.tripPwm_keeps | split | with_reducible refine Keeps.mk_upd ?_

theorem State.setTrim_keeps {a s : State} (h : Keeps a s) (n : Nat) (t : Trim) : Keeps a (s.setTrim n t) :=
  h.mk_gen le_rfl le_rfl (fun _ => le_rfl) id id id id id (fun x => Tab.wf_put x _ _ _) id id id id id

theorem State.applyTrim_keeps {a s : State} (h : Keeps a s) (n : Nat) (level : Nat) (code : ℤ) :
    Keeps a (State.applyTrim s n level code) := by
  unfold State.applyTrim
  try dsimp only
  repeat' first | assumption | with_reducible apply State.setTrim_keeps | split | with_reducible refine Keeps.mk_upd ?_

theorem State.trimsOff_keeps {a s : State} (h : Keeps a s) : Keeps a s.trimsOff :=
  h.mk_gen le_rfl le_rfl (fun _ => le_rfl) id id id id id (fun x => Tab.wf_filter (Tab.wf_mapVal x _) _) id id id id id

theorem State.trimNominal_keeps {a s : State} (h : Keeps a s) (n : Nat) : Keeps a (State.trimNominal s n) := by
  unfold State.trimNominal
  repeat' first | assumption | with_reducible apply State.applyTrim_keeps

theorem State.trimDischarge_keeps {a s : State} (h : Keeps a s) (n : Nat) : Keeps a (State.trimDischarge s n) := by
  unfold State.trimDischarge
  repeat' first | assumption | with_reducible apply State.applyTrim_keeps

theorem State.symbolErrors_keeps {z s : State} (h : Keeps z s) (a : Nat) (b : Nat) : Keeps z (State.symbolErrors s a b) :=
    by
  unfold State.symbolErrors
  try dsimp only
  repeat' first | with_reducible assumption | with_reducible refine Keeps.mk_upd ?_

theorem State.sendAs_keeps {a s : State} (h : Keeps a s) (p : Link) (crcOk : Bool) (f : Frame) : Keeps a (State.sendAs s p
    crcOk f) := by
  unfold State.sendAs
  try dsimp only
  repeat' first | with_reducible assumption | split | with_reducible refine Keeps.mk_upd ?_

theorem State.sendFrame_keeps {a s : State} (h : Keeps a s) (p : Link) (f : Frame) : Keeps a (State.sendFrame s p f) := by
  unfold State.sendFrame
  try dsimp only
  repeat' first
    | with_reducible assumption | with_reducible apply State.sendAs_keeps | with_reducible apply State.setLink_keeps
    | split | with_reducible refine Keeps.mk_upd ?_

theorem State.sendHorn_keeps {a s : State} (h : Keeps a s) (p : Link) (orig : Nat) (seq : Nat) :
    Keeps a (State.sendHorn s p orig seq) := by
  unfold State.sendHorn
  repeat' first | assumption | split | with_reducible refine Keeps.mk_upd ?_

theorem State.originateHorn_keeps {a s : State} (h : Keeps a s) : Keeps a (State.originateHorn s) := by
  unfold State.originateHorn
  try dsimp only
  repeat' first | assumption | with_reducible apply State.sendHorn_keeps | split | with_reducible refine Keeps.mk_upd ?_

theorem State.sendTwin_keeps {a s : State} (h : Keeps a s) (dest : Nat) (msg : Nat) (body : List Byte) :
    Keeps a (State.sendTwin s dest msg body) := by
  unfold State.sendTwin
  try dsimp only
  repeat' first | assumption | with_reducible apply State.sendFrame_keeps | with_reducible refine Keeps.mk_upd ?_

theorem State.setCmd_keeps {a s : State} (h : Keeps a s) (c : Cmd) : Keeps a (State.setCmd s c) := by
  unfold State.setCmd
  repeat' first | with_reducible assumption | split | with_reducible refine Keeps.mk_upd ?_

theorem State.dropCmd_keeps {a s : State} (h : Keeps a s) (ring : Bool) (tag : Nat) :
    Keeps a (State.dropCmd s ring tag) := by
  unfold State.dropCmd
  repeat' first | with_reducible assumption | with_reducible refine Keeps.mk_upd ?_

theorem State.replyOut_keeps {a s : State} (h : Keeps a s) (r : Reply) : Keeps a (State.replyOut s r) := by
  unfold State.replyOut
  try dsimp only
  repeat' first | with_reducible assumption | split | with_reducible refine Keeps.mk_upd ?_

theorem State.post_keeps {a s : State} (h : Keeps a s) (r : Reply) : Keeps a (State.post s r) := by
  unfold State.post
  try dsimp only
  repeat' first
    | with_reducible assumption | with_reducible apply State.dropCmd_keeps | with_reducible apply State.sendFrame_keeps
    | with_reducible apply State.replyOut_keeps | split | with_reducible refine Keeps.mk_upd ?_

theorem State.post127_keeps {a s : State} (h : Keeps a s) (ring : Bool) (status : Nat) (head : List Byte) :
    Keeps a (State.post127 s ring status head) := by
  unfold State.post127
  try dsimp only
  repeat' first
    | with_reducible assumption | with_reducible apply State.sendFrame_keeps | split
    | with_reducible refine Keeps.mk_upd ?_

theorem State.countRefusal_keeps {a s : State} (h : Keeps a s) (status : Nat) : Keeps a (State.countRefusal s status) :=
    by
  unfold State.countRefusal
  try dsimp only
  repeat' first
    | with_reducible assumption | with_reducible apply State.irqCm_keeps | split | with_reducible refine Keeps.mk_upd ?_

theorem State.countSecurity_fr (s : State) : s.countSecurity.fr = s.log.fr := rfl
theorem State.countSecurity_fa (s : State) : s.countSecurity.fa = s.log.fa := rfl

theorem State.secShard_keeps {a s : State} (h : Keeps a s) (c : Cmd) (status : Nat) :
    Keeps a (s.secShard c status) := by
  unfold State.secShard
  split
  · exact h.mk_upd rfl rfl rfl rfl rfl rfl rfl rfl rfl (by simp [State.countSecurity_fr]) (by simp [State.countSecurity_fa])
  · exact h

theorem State.refusalEffects_keeps {a s : State} (h : Keeps a s) (c : Cmd) (status : Nat) :
    Keeps a (State.refusalEffects s c status) := by
  unfold State.refusalEffects
  repeat' first
    | with_reducible assumption | with_reducible apply State.secShard_keeps
    | with_reducible apply State.countRefusal_keeps

theorem State.answer_keeps {a s : State} (h : Keeps a s) (c : Cmd) (status : Nat) (payload : List Byte) : Keeps a
    (State.answer s c status payload) := by
  unfold State.answer
  try dsimp only
  repeat' first
    | with_reducible assumption | with_reducible apply State.setCmd_keeps | with_reducible apply State.post_keeps | split
    | with_reducible refine Keeps.mk_upd ?_

theorem State.noteBroadcast_keeps {a s : State} (h : Keeps a s) (c : Cmd) (status : Nat) : Keeps a (State.noteBroadcast s
    c status) := by
  unfold State.noteBroadcast
  try dsimp only
  repeat' first
    | with_reducible assumption | with_reducible apply State.irqCm_keeps | with_reducible refine Keeps.mk_upd ?_

theorem State.finish_keeps {a s : State} (h : Keeps a s) (c : Cmd) (status : Nat) (payload : List Byte) :
    Keeps a (State.finish s c status payload) := by
  unfold State.finish
  try dsimp only
  repeat' first
    | with_reducible assumption | with_reducible apply State.refusalEffects_keeps
    | with_reducible apply State.noteBroadcast_keeps | with_reducible apply State.dropCmd_keeps
    | with_reducible apply State.answer_keeps | with_reducible apply State.setCmd_keeps | split
    | with_reducible refine Keeps.mk_upd ?_

theorem State.accept_keeps {a s : State} (h : Keeps a s) (c : Cmd) : Keeps a (State.accept s c) := by
  unfold State.accept
  try dsimp only
  repeat' first
    | with_reducible assumption | with_reducible apply State.setCmd_keeps | with_reducible apply State.post_keeps | split
    | with_reducible refine Keeps.mk_upd ?_

theorem State.postSigned_keeps {a s : State} (h : Keeps a s) (u : Unsigned) : Keeps a (State.postSigned s u) := by
  unfold State.postSigned
  try dsimp only
  repeat' first | with_reducible assumption | with_reducible apply State.post_keeps

theorem State.flushSigning_keeps {a s : State} (h : Keeps a s) (n : Nat) : Keeps a (s.flushSigning n) := by
  induction n generalizing s with
  | zero => exact h
  | succ k ih =>
    unfold State.flushSigning
    split
    · split
      · exact h
      · exact ih (State.postSigned_keeps (Keeps.mk_upd h) _)
    · exact h

theorem State.setPmb_keeps {a s : State} (h : Keeps a s) (n : Nat) (r : BitVec 2) : Keeps a (State.setPmb s n r) := by
  unfold State.setPmb
  repeat' first
    | with_reducible assumption | with_reducible apply State.setTrim_keeps
    | with_reducible refine Keeps.mk_upd ?_

theorem State.endSeqs_keeps {a s : State} (h : Keeps a s) (f : TwSeq → Bool) : Keeps a (State.endSeqs s f) := by
  unfold State.endSeqs
  try dsimp only
  repeat' first
    | with_reducible assumption | with_reducible apply State.setPmb_keeps
    | with_reducible refine Keeps.foldl _ ?_ (fun u x hu => ?_) | split | with_reducible refine Keeps.mk_upd ?_

theorem State.endSequences_keeps {a s : State} (h : Keeps a s) : Keeps a (State.endSequences s) := by
  unfold State.endSequences
  try dsimp only
  repeat' first | with_reducible assumption | with_reducible apply State.endSeqs_keeps

theorem State.recordDiscard_keeps {a s : State} (h : Keeps a s) (cause : Nat) (gone : List Cmd) : Keeps a
    (State.recordDiscard s cause gone) := by
  unfold State.recordDiscard
  try dsimp only
  repeat' first
    | with_reducible assumption | with_reducible apply State.irqCm_keeps | split | with_reducible refine Keeps.mk_upd ?_

theorem State.discardCooling_keeps {a s : State} (h : Keeps a s) (pm : Nat) (keep : Option (Bool × Nat)) :
    Keeps a (State.discardCooling s pm keep) := by
  unfold State.discardCooling
  try dsimp only
  repeat' first
    | with_reducible assumption | with_reducible apply State.finish_keeps
    | with_reducible apply State.recordDiscard_keeps | with_reducible refine Keeps.foldl _ ?_ (fun u x hu => ?_)
    | split | with_reducible refine Keeps.mk_upd ?_

theorem State.discardSilent_keeps {a s : State} (h : Keeps a s) (cause : Nat) :
    Keeps a (State.discardSilent s cause) := by
  unfold State.discardSilent
  try dsimp only
  repeat' first
    | with_reducible assumption | with_reducible apply State.recordDiscard_keeps
    | with_reducible refine Keeps.mk_upd ?_

theorem State.trendShard_keeps {a s : State} (h : Keeps a s) (n result : Nat) : Keeps a (s.trendShard n result) := by
  refine h.mk_gen le_rfl (Nat.le_add_right _ 3) (fun _ => le_rfl) id id id id id id id ?_ ?_ id id <;> dsimp only <;> split <;> simp

theorem State.sweepTake_keeps {a s : State} (h : Keeps a s) (req : Nat) (i : Nat) (code : BitVec 16) : Keeps a
    (State.sweepTake s req i code) := by
  unfold State.sweepTake
  try dsimp only
  repeat' first | with_reducible assumption | split | with_reducible refine Keeps.mk_upd ?_

theorem State.endRail_keeps {a s : State} (h : Keeps a s) (n result : Nat) : Keeps a (s.endRail n result) := by
  unfold State.endRail
  have h1 := State.trendShard_keeps (State.setTrim_keeps h n { s.trim n with sweeps := ((s.trim n).sweeps + 1) % 65536 }) n result
  refine (State.setTrim_keeps ?_ _ _).mk_upd
  split
  · exact State.trimNominal_keeps h1 _
  · exact h1

theorem State.finishCycle_keeps {a s : State} (h : Keeps a s) : Keeps a (State.finishCycle s) := by
  unfold State.finishCycle
  repeat' first | with_reducible assumption | split | with_reducible refine Keeps.mk_upd ?_

theorem State.abortRail_keeps {a s : State} (h : Keeps a s) (n : Nat) (result : Nat) :
    Keeps a (State.abortRail s n result) := by
  unfold State.abortRail
  repeat' first
    | with_reducible assumption | with_reducible apply State.finishCycle_keeps
    | with_reducible apply State.endRail_keeps | split

theorem State.endCycle_keeps {a s : State} (h : Keeps a s) (result : Nat) : Keeps a (State.endCycle s result) := by
  unfold State.endCycle
  try dsimp only
  repeat' first
    | with_reducible assumption | with_reducible apply State.endRail_keeps | split
    | with_reducible refine Keeps.mk_upd ?_

theorem State.compliance_keeps {a s : State} (h : Keeps a s) (out : Rails) : Keeps a (State.compliance s out) := by
  unfold State.compliance
  try dsimp only
  repeat' first
    | with_reducible assumption | with_reducible apply State.setTrim_keeps | with_reducible apply State.abortRail_keeps
    | with_reducible refine Keeps.foldl _ ?_ (fun u x hu => ?_) | split | with_reducible refine Keeps.mk_upd ?_

theorem State.leaveRunning_keeps {a s : State} (h : Keeps a s) : Keeps a (State.leaveRunning s) := by
  unfold State.leaveRunning
  try dsimp only
  repeat' first
    | with_reducible assumption | with_reducible apply State.endCycle_keeps | split
    | with_reducible refine Keeps.mk_upd ?_

theorem State.setLatch_keeps {a s : State} (h : Keeps a s) : Keeps a (State.setLatch s) := by
  unfold State.setLatch
  try dsimp only
  repeat' first | with_reducible assumption | split | with_reducible refine Keeps.mk_upd ?_

@[simp] theorem FaultBlk.writeBisque_tables (f : FaultBlk) (b : Bisque) : (f.writeBisque b).tables = f.tables := rfl
@[simp] theorem FaultBlk.writeBisque_first (f : FaultBlk) (b : Bisque) : (f.writeBisque b).first = f.first := rfl
@[simp] theorem FaultBlk.writeBisque_bisque (f : FaultBlk) (b : Bisque) : (f.writeBisque b).bisque = b := rfl

theorem State.recordBisque_keeps {a s : State} (h : Keeps a s) (f : FaultRec) (stamp : Nat) : Keeps a (State.recordBisque
    s f stamp) := by
  unfold State.recordBisque
  try dsimp only
  repeat' first | with_reducible assumption | split | with_reducible refine Keeps.mk_upd ?_

theorem State.recordFirst_keeps {a s : State} (h : Keeps a s) (f : FaultRec) (stamp : Nat) :
    Keeps a (State.recordFirst s f stamp) := by
  unfold State.recordFirst
  repeat' first | with_reducible assumption | with_reducible refine Keeps.mk_upd ?_

theorem State.recordFault_keeps {a s : State} (h : Keeps a s) (f : FaultRec) : Keeps a (State.recordFault s f) := by
  unfold State.recordFault
  repeat' first
    | with_reducible assumption | with_reducible apply State.recordBisque_keeps
    | with_reducible apply State.recordFirst_keeps | with_reducible apply State.setLatch_keeps

theorem State.enqueue_keeps {a s : State} (h : Keeps a s) (f : FaultRec) (table : Nat) :
    Keeps a (State.enqueue s f table) := by
  unfold State.enqueue
  try dsimp only
  repeat' first
    | with_reducible assumption | with_reducible apply State.recordFault_keeps
    | with_reducible apply State.faultShard_keeps | with_reducible apply State.irqCt_keeps | split
    | with_reducible refine Keeps.mk_upd ?_

theorem State.walkSeek_keeps {a s : State} (h : Keeps a s) (n : Nat) : Keeps a (s.walkSeek n) := by
  induction n generalizing s with
  | zero => exact h
  | succ k ih =>
    unfold State.walkSeek
    split
    · exact h.mk_upd
    · split
      · apply ih
        dsimp only
        split
        · exact (State.trimDischarge_keeps h _).mk_upd
        · exact h.mk_upd
      · exact h.mk_upd

theorem State.walkBegin_keeps {a s : State} (h : Keeps a s) : Keeps a (State.walkBegin s) := by
  unfold State.walkBegin
  repeat' first
    | with_reducible assumption | with_reducible apply State.walkSeek_keeps
    | with_reducible refine Keeps.mk_upd ?_

theorem State.walkSwitch_keeps {a s : State} (h : Keeps a s) (table : Nat) (f : FaultRec) :
    Keeps a (State.walkSwitch s table f) := by
  unfold State.walkSwitch
  repeat' first
    | with_reducible assumption | with_reducible apply State.walkBegin_keeps
    | with_reducible refine Keeps.mk_upd ?_

theorem State.abortEngines_keeps {a s : State} (h : Keeps a s) : Keeps a (State.abortEngines s) := by
  unfold State.abortEngines
  repeat' first | with_reducible assumption | with_reducible refine Keeps.mk_upd ?_

theorem State.enterRunning_keeps {a s : State} (h : Keeps a s) : Keeps a (State.enterRunning s) := by
  unfold State.enterRunning
  try dsimp only
  repeat' first
    | with_reducible assumption | with_reducible apply State.goTo_keeps | split
    | with_reducible refine Keeps.mk_upd ?_

theorem State.fireStart_keeps {a s : State} (h : Keeps a s) (cause : Nat) : Keeps a (s.fireStart cause) := by
  have h1 : Keeps a (State.goTo { s with pm := { s.pm with onPending := none } } .firing cause) := State.goTo_keeps h.mk_upd _ _
  unfold State.fireStart
  generalize State.goTo { s with pm := { s.pm with onPending := none } } .firing cause = t at h1 ⊢
  have h2 : Keeps a { t with kiln := { t.kiln with
      engines := t.kiln.engines.mapIdx (fun k e => t.engineStart k e)
      eventFlags := 0, failBits := 0, chatter := [] } } :=
    h1.mk_gen le_rfl le_rfl (fun _ => le_rfl) id id id id id id (fun _ => rfl) id id id id
  dsimp only
  split
  · exact h2
  · exact State.enterRunning_keeps (State.wait_keeps h2 _)

theorem State.joinRequest_keeps {a s : State} (h : Keeps a s) (old : Byte) (cause : Nat) : Keeps a (State.joinRequest s
    old cause) := by
  unfold State.joinRequest
  try dsimp only
  repeat' first | with_reducible assumption | split | with_reducible refine Keeps.mk_upd ?_

theorem State.newRequest_keeps {a s : State} (h : Keeps a s) (cause : Nat) : Keeps a (State.newRequest s cause) := by
  unfold State.newRequest
  try dsimp only
  repeat' first
    | with_reducible assumption | with_reducible apply State.fireStart_keeps | split
    | with_reducible refine Keeps.mk_upd ?_

theorem State.onRequest_keeps {a s : State} (h : Keeps a s) (cause : Nat) : Keeps a (State.onRequest s cause) := by
  unfold State.onRequest
  try dsimp only
  repeat' first
    | with_reducible assumption | with_reducible apply State.joinRequest_keeps
    | with_reducible apply State.newRequest_keeps | split | with_reducible refine Keeps.mk_upd ?_

theorem State.mirror_keeps {a s : State} (h : Keeps a s) (on : Nat) (cause : Nat) :
    Keeps a (State.mirror s on cause) := by
  unfold State.mirror
  repeat' first | with_reducible assumption | with_reducible apply State.sendTwin_keeps | split

theorem State.tryPending_keeps {a s : State} (h : Keeps a s) : Keeps a (State.tryPending s) := by
  unfold State.tryPending
  repeat' first
    | with_reducible assumption | with_reducible apply State.fireStart_keeps | split
    | with_reducible refine Keeps.mk_upd ?_

theorem State.releaseHeld_keeps {a s : State} (h : Keeps a s) : Keeps a (State.releaseHeld s) := by
  unfold State.releaseHeld
  try dsimp only
  repeat' first
    | with_reducible assumption | with_reducible apply State.mirror_keeps | with_reducible apply State.onRequest_keeps
    | with_reducible apply State.tryPending_keeps | with_reducible refine Keeps.foldl _ ?_ (fun u x hu => ?_) | split
    | with_reducible refine Keeps.mk_upd ?_

theorem State.trimsNominal_keeps {a s : State} (h : Keeps a s) : Keeps a s.trimsNominal := by
  unfold State.trimsNominal
  refine Keeps.foldl _ h (fun u x hu => ?_)
  split
  · exact hu
  · exact State.trimNominal_keeps hu _

theorem State.abortHand_keeps {a s : State} (h : Keeps a s) : Keeps a (State.abortHand s) := by
  unfold State.abortHand
  try dsimp only
  repeat' first
    | with_reducible assumption | with_reducible apply State.sendTwin_keeps | split
    | with_reducible refine Keeps.mk_upd ?_

theorem State.afterAbort_keeps {a s : State} (h : Keeps a s) : Keeps a (State.afterAbort s) := by
  unfold State.afterAbort
  try dsimp only
  repeat' first | with_reducible assumption | with_reducible apply State.releaseHeld_keeps | split

theorem State.tellTwin_keeps {a s : State} (h : Keeps a s) (k : Start) (f : FaultRec) (table : Nat) : Keeps a
    (State.tellTwin s k f table) := by
  unfold State.tellTwin
  try dsimp only
  repeat' first
    | with_reducible assumption | with_reducible apply State.abortHand_keeps | with_reducible apply State.sendTwin_keeps
    | split

theorem State.soundHorn_keeps {a s : State} (h : Keeps a s) (k : Start) (cause : Byte) : Keeps a (State.soundHorn s k
    cause) := by
  unfold State.soundHorn
  try dsimp only
  repeat' first | with_reducible assumption | with_reducible apply State.originateHorn_keeps | split

theorem State.startShutdown_keeps {a s : State} (h : Keeps a s) (k : Start) (f : FaultRec) (table pm : Nat)
    (keep : Option (Bool × Nat)) : Keeps a (s.startShutdown k f table pm keep) := by
  unfold State.startShutdown
  dsimp only
  have h1 := State.leaveRunning_keeps h
  generalize s.leaveRunning = s1 at h1 ⊢
  have h2 : Keeps a (State.assertPfw (if k = .off then s1 else (s1.faultShard f 0 table 0).recordFault f)) :=
    State.assertPfw_keeps (h1.ite (State.recordFault_keeps (State.faultShard_keeps h1 _ _ _ _) _))
  generalize State.assertPfw (if k = .off then s1 else (s1.faultShard f 0 table 0).recordFault f) = s2 at h2 ⊢
  have h3 : Keeps a (if k = .gradeH ∨ k = .forceOff then s2.assertTripo else s2) := (State.assertTripo_keeps h2).ite h2
  generalize (if k = .gradeH ∨ k = .forceOff then s2.assertTripo else s2) = s3 at h3 ⊢
  have h5 : Keeps a (((((s3.soundHorn k f.cause).tellTwin k f table).abortEngines.endSequences).goTo .cooling pm)) :=
    State.goTo_keeps (State.endSequences_keeps (State.abortEngines_keeps
      (State.tellTwin_keeps (State.soundHorn_keeps h3 _ _) _ _ _))) _ _
  generalize ((((s3.soundHorn k f.cause).tellTwin k f table).abortEngines.endSequences).goTo .cooling pm) = s5 at h5 ⊢
  have h5' : Keeps a { s5 with pm := { s5.pm with offMinDue := none } } := h5.mk_upd
  have h6 : Keeps a (State.trimsNominal (State.discardCooling { s5 with pm := { s5.pm with offMinDue := none } } pm keep)) :=
    State.trimsNominal_keeps (State.discardCooling_keeps h5' _ _)
  generalize State.trimsNominal (State.discardCooling { s5 with pm := { s5.pm with offMinDue := none } } pm keep) = s6 at h6 ⊢
  refine State.afterAbort_keeps ?_
  split
  · refine State.walkBegin_keeps (State.irqCt_keeps ?_ _)
    with_reducible refine Keeps.mk_upd h6
  · refine State.irqCt_keeps ?_ _
    with_reducible refine Keeps.mk_upd h6

theorem State.offRequest_keeps {a s : State} (h : Keeps a s) (cause : Nat) (keep : Option (Bool × Nat)) : Keeps a
    (State.offRequest s cause keep) := by
  unfold State.offRequest
  try dsimp only
  repeat' first
    | with_reducible assumption | with_reducible apply State.startShutdown_keeps
    | with_reducible apply State.abortHand_keeps | split | with_reducible refine Keeps.mk_upd ?_

theorem State.coolH_keeps {a s : State} (h : Keeps a s) (f : FaultRec) (table : Nat) :
    Keeps a (State.coolH s f table) := by
  unfold State.coolH
  try dsimp only
  repeat' first
    | with_reducible assumption | with_reducible apply State.assertTripo_keeps
    | with_reducible apply State.recordFault_keeps | with_reducible apply State.faultShard_keeps
    | with_reducible apply State.walkSwitch_keeps | with_reducible apply State.enqueue_keeps
    | with_reducible apply State.walkBegin_keeps | split | with_reducible refine Keeps.mk_upd ?_

theorem State.coolT_keeps {a s : State} (h : Keeps a s) (f : FaultRec) (table : Nat) :
    Keeps a (State.coolT s f table) := by
  unfold State.coolT
  try dsimp only
  repeat' first
    | with_reducible assumption | with_reducible apply State.enqueue_keeps | split
    | with_reducible refine Keeps.mk_upd ?_

theorem State.sendForce_keeps {a s : State} (h : Keeps a s) : Keeps a (State.sendForce s) := by
  unfold State.sendForce
  try dsimp only
  repeat' first
    | with_reducible assumption | with_reducible apply State.soundHorn_keeps | with_reducible apply State.tellTwin_keeps

theorem State.coolForce_keeps {a s : State} (h : Keeps a s) : Keeps a (State.coolForce s) := by
  unfold State.coolForce
  try dsimp only
  repeat' first
    | with_reducible assumption | with_reducible apply State.assertPfw_keeps
    | with_reducible apply State.assertTripo_keeps | with_reducible apply State.tellTwin_keeps
    | with_reducible apply State.enqueue_keeps | with_reducible apply State.sendForce_keeps
    | with_reducible apply State.faultShard_keeps | with_reducible apply State.recordFault_keeps
    | with_reducible apply State.walkSwitch_keeps | with_reducible apply State.walkBegin_keeps | split
    | with_reducible refine Keeps.mk_upd ?_

theorem State.holdFault_keeps {a s : State} (h : Keeps a s) (f : FaultRec) (table : Nat) :
    Keeps a (State.holdFault s f table) := by
  unfold State.holdFault
  try dsimp only
  repeat' first | with_reducible assumption | split | with_reducible refine Keeps.mk_upd ?_

theorem State.recordOnly_keeps {a s : State} (h : Keeps a s) (f : FaultRec) : Keeps a (State.recordOnly s f) := by
  unfold State.recordOnly
  try dsimp only
  repeat' first
    | with_reducible assumption | with_reducible apply State.setLatch_keeps
    | with_reducible apply State.recordBisque_keeps | with_reducible apply State.recordFirst_keeps
    | with_reducible apply State.assertPfw_keeps | with_reducible apply State.assertTripo_keeps | split
    | with_reducible refine Keeps.mk_upd ?_

theorem State.wakeUp_keeps {a s : State} (h : Keeps a s) : Keeps a (State.wakeUp s) := by
  unfold State.wakeUp
  try dsimp only
  repeat' first
    | with_reducible assumption | with_reducible apply State.goTo_keeps | with_reducible refine Keeps.mk_upd ?_

theorem State.wake_keeps {a s : State} (h : Keeps a s) : Keeps a (State.wake s) := by
  unfold State.wake
  try dsimp only
  repeat' first
    | with_reducible assumption | with_reducible apply State.wakeUp_keeps | split | with_reducible refine Keeps.mk_upd ?_

theorem State.receiveW_keeps {a s : State} (h : Keeps a s) (f : FaultRec) : Keeps a (State.receiveW s f) := by
  unfold State.receiveW
  repeat' first
    | with_reducible assumption | with_reducible apply State.faultShard_keeps
    | with_reducible apply State.irqCt_keeps | with_reducible apply State.holdFault_keeps
    | with_reducible apply State.wake_keeps | split | with_reducible refine Keeps.mk_upd ?_

theorem State.receiveTH_keeps {a s : State} (h : Keeps a s) (f : FaultRec) (table : Nat) :
    Keeps a (State.receiveTH s f table) := by
  unfold State.receiveTH
  try dsimp only
  repeat' first
    | with_reducible assumption | with_reducible apply State.startShutdown_keeps
    | with_reducible apply State.coolH_keeps | with_reducible apply State.coolT_keeps
    | with_reducible apply State.holdFault_keeps | with_reducible apply State.recordOnly_keeps
    | with_reducible apply State.wake_keeps | split | with_reducible refine Keeps.mk_upd ?_

theorem State.receiveAs_keeps {a s : State} (h : Keeps a s) (f : FaultRec) (table : Nat) :
    Keeps a (State.receiveAs s f table) := by
  unfold State.receiveAs
  repeat' first
    | with_reducible assumption | with_reducible apply State.faultShard_keeps
    | with_reducible apply State.receiveW_keeps | with_reducible apply State.receiveTH_keeps | split

theorem State.receive_keeps {a s : State} (h : Keeps a s) (f : FaultRec) : Keeps a (State.receive s f) := by
  unfold State.receive
  repeat' first | with_reducible assumption | with_reducible apply State.receiveAs_keeps

theorem State.receiveCause_keeps {a s : State} (h : Keeps a s) (x : Nat) (source : Nat) :
    Keeps a (State.receiveCause s x source) := by
  unfold State.receiveCause
  repeat' first | with_reducible assumption | with_reducible apply State.receive_keeps

theorem State.forceOff_keeps {a s : State} (h : Keeps a s) : Keeps a (State.forceOff s) := by
  unfold State.forceOff
  try dsimp only
  repeat' first
    | with_reducible assumption | with_reducible apply State.startShutdown_keeps
    | with_reducible apply State.coolForce_keeps | with_reducible apply State.holdFault_keeps
    | with_reducible apply State.recordOnly_keeps | with_reducible apply State.recordBisque_keeps | split
    | with_reducible refine Keeps.mk_upd ?_

theorem State.engineFault_keeps {a s : State} (h : Keeps a s) (k : Nat) (err : Nat) :
    Keeps a (State.engineFault s k err) := by
  unfold State.engineFault
  try dsimp only
  repeat' first | with_reducible assumption | with_reducible apply State.receive_keeps | split

theorem State.onArises_keeps {a s : State} (h : Keeps a s) (cause : Nat) : Keeps a (State.onArises s cause) := by
  unfold State.onArises
  try dsimp only
  repeat' first
    | with_reducible assumption | with_reducible apply State.mirror_keeps | with_reducible apply State.onRequest_keeps
    | split

end Sys2Proof.Machine
end

