-- ==== Sys2Proof/Laws/KeepsSense.lean ====
section
/-! SUPPORT. The operations on measurement, the log, conversion and the clocks stay within `Keeps`.
A lemma reads: if a state keeps what `Keeps` says of an earlier one, the operation's result does too. -/

set_option Elab.async false

namespace Sys2Proof.Machine

theorem State.armAll_keeps {a s : State} (h : Keeps a s) (srcs : List Nat) : Keeps a (State.armAll s srcs) := by
  unfold State.armAll
  repeat' first
    | with_reducible assumption | with_reducible apply State.setCmp_keeps
    | with_reducible refine Keeps.foldl _ ?_ (fun u x hu => ?_) | split | with_reducible refine Keeps.mk_upd ?_

theorem State.reeval_keeps {a s : State} (h : Keeps a s) (src : Nat) : Keeps a (State.reeval s src) := by
  unfold State.reeval
  try dsimp only
  repeat' first
    | with_reducible assumption | with_reducible apply State.setCmp_keeps | split
    | with_reducible refine Keeps.mk_upd ?_

theorem State.startSettle_keeps {a s : State} (h : Keeps a s) (src : Nat) : Keeps a (State.startSettle s src) := by
  unfold State.startSettle
  try dsimp only
  repeat' first
    | with_reducible assumption | with_reducible apply State.setCmp_keeps
    | with_reducible refine Keeps.mk_upd ?_

theorem State.cutRamp_keeps {a s : State} (h : Keeps a s) (src : Nat) : Keeps a (State.cutRamp s src) := by
  unfold State.cutRamp
  repeat' first
    | with_reducible assumption | with_reducible apply State.startSettle_keeps
    | with_reducible apply State.setCmp_keeps | split | with_reducible refine Keeps.mk_upd ?_

theorem State.dropRamp_keeps {a s : State} (h : Keeps a s) (src : Nat) : Keeps a (State.dropRamp s src) := by
  unfold State.dropRamp
  try dsimp only
  repeat' first
    | with_reducible assumption | with_reducible apply State.setCmp_keeps
    | with_reducible apply State.cutRamp_keeps | split | with_reducible refine Keeps.mk_upd ?_

theorem State.testWrites_keeps {a s : State} (h : Keeps a s) (old : State) (src : Nat) : Keeps a (State.testWrites s old
    src) := by
  unfold State.testWrites
  try dsimp only
  repeat' first | with_reducible assumption | with_reducible apply State.startSettle_keeps | split

theorem State.abandonTest_keeps {a s : State} (h : Keeps a s) : Keeps a (State.abandonTest s) := by
  unfold State.abandonTest
  try dsimp only
  repeat' first
    | with_reducible assumption | with_reducible apply State.testWrites_keeps | with_reducible apply State.reeval_keeps
    | split | with_reducible refine Keeps.mk_upd ?_

theorem State.armRamp_keeps {a s : State} (h : Keeps a s) (engine : Nat) (src : Nat) : Keeps a (State.armRamp s engine
    src) := by
  unfold State.armRamp
  try dsimp only
  repeat' first
    | with_reducible assumption | with_reducible apply State.setCmp_keeps | with_reducible apply State.startSettle_keeps
    | split | with_reducible refine Keeps.mk_upd ?_

theorem State.armRamps_keeps {a s : State} (h : Keeps a s) (engine : Nat) (srcs : List Nat) :
    Keeps a (State.armRamps s engine srcs) := by
  unfold State.armRamps
  repeat' first
    | with_reducible assumption | with_reducible apply State.armRamp_keeps
    | with_reducible refine Keeps.foldl _ ?_ (fun u x hu => ?_) | split

theorem State.observe_keeps {a s : State} (h : Keeps a s) (src : Nat) (fault : Bool) :
    Keeps a (State.observe s src fault) := by
  unfold State.observe
  try dsimp only
  repeat' first
    | with_reducible assumption | with_reducible apply State.setCmp_keeps | split
    | with_reducible refine Keeps.mk_upd ?_

/-- Writes folded over a table of counts keep it in canonical form. -/
theorem wf_foldl_put {t : Tab Nat} (h : Tab.wf t = true) (l : List Nat) (d : Nat) (f : Tab Nat → Nat → Nat) :
    Tab.wf (l.foldl (fun c r => Tab.put d c r (f c r)) t) = true :=
  Tab.wf_foldl _ (fun _ _ hc => Tab.wf_put hc _ _ _) l h

theorem State.observeEngine_keeps {a s : State} (h : Keeps a s) (k : Nat) : Keeps a (s.observeEngine k) := by
  unfold State.observeEngine
  split
  · exact h.mk_gen le_rfl le_rfl (fun _ => le_rfl) id id id id id id (fun x => wf_foldl_put x _ 0 _) id id id id
  · exact h

theorem State.observeChecks_keeps {a s : State} (h : Keeps a s) : Keeps a (State.observeChecks s) := by
  unfold State.observeChecks
  repeat' first
    | with_reducible assumption | with_reducible apply State.observeEngine_keeps
    | with_reducible refine Keeps.foldl _ ?_ (fun u x hu => ?_)

theorem State.deliver_keeps {a s : State} (h : Keeps a s) (e : FaultRec × Nat) : Keeps a (State.deliver s e) := by
  unfold State.deliver
  try dsimp only
  repeat' first
    | with_reducible assumption | with_reducible apply State.receive_keeps | split
    | with_reducible refine Keeps.mk_upd ?_

theorem State.endPersist_keeps {a s : State} (h : Keeps a s) (src : Nat) : Keeps a (State.endPersist s src) := by
  unfold State.endPersist
  try dsimp only
  repeat' first
    | with_reducible assumption | with_reducible apply State.receive_keeps
    | with_reducible refine Keeps.foldl _ ?_ (fun u x hu => ?_) | split | with_reducible refine Keeps.mk_upd ?_

theorem State.sweepSees_keeps {a s : State} (h : Keeps a s) : Keeps a (State.sweepSees s) := by
  unfold State.sweepSees
  try dsimp only
  repeat' first
    | with_reducible assumption | with_reducible apply State.abortRail_keeps | split
    | with_reducible refine Keeps.mk_upd ?_

theorem State.coreSees_keeps {a s : State} (h : Keeps a s) (old : State) (srcs : List Nat) :
    Keeps a (State.coreSees s old srcs) := by
  unfold State.coreSees
  try dsimp only
  repeat' first
    | with_reducible assumption | with_reducible apply State.sweepSees_keeps
    | with_reducible apply State.observeChecks_keeps | with_reducible apply State.deliver_keeps
    | with_reducible apply State.endPersist_keeps | with_reducible refine Keeps.foldl _ ?_ (fun u x hu => ?_)

theorem State.senseChange_keeps {a s : State} (h : Keeps a s) (old : State) (srcs : List Nat) : Keeps a (State.senseChange
    s old srcs) := by
  unfold State.senseChange
  try dsimp only
  repeat' first
    | with_reducible assumption | with_reducible apply State.armAll_keeps | with_reducible apply State.refreshFlt_keeps
    | with_reducible apply State.coreSees_keeps | split

theorem State.rampRails_keeps {a s : State} (h : Keeps a s) (engine : Nat) (srcs : List Nat) : Keeps a (State.rampRails s
    engine srcs) := by
  unfold State.rampRails
  try dsimp only
  repeat' first
    | with_reducible assumption | with_reducible apply State.abandonTest_keeps | with_reducible apply State.armRamps_keeps
    | with_reducible apply State.senseChange_keeps | split | with_reducible refine Keeps.mk_upd ?_

theorem State.forcedChange_keeps {a s : State} (h : Keeps a s) (old : State) : Keeps a (State.forcedChange s old) := by
  unfold State.forcedChange
  repeat' first
    | with_reducible assumption | with_reducible apply State.sweepSees_keeps
    | with_reducible apply State.observeChecks_keeps | with_reducible apply State.refreshFlt_keeps

theorem State.cmpLow_keeps {a s : State} (h : Keeps a s) (src : Nat) : Keeps a (State.cmpLow s src) := by
  unfold State.cmpLow
  try dsimp only
  repeat' first
    | with_reducible assumption | with_reducible apply State.dropRamp_keeps
    | with_reducible apply State.reeval_keeps | with_reducible apply State.setCmp_keeps
    | with_reducible refine Keeps.mk_upd ?_

theorem State.disable_keeps {a s : State} (h : Keeps a s) (m : Rails) : Keeps a (State.disable s m) := by
  unfold State.disable
  try dsimp only
  repeat' first
    | with_reducible assumption | with_reducible apply State.cmpLow_keeps | with_reducible apply State.senseChange_keeps
    | with_reducible refine Keeps.foldl _ ?_ (fun u x hu => ?_) | split | with_reducible refine Keeps.mk_upd ?_

theorem State.enLow_keeps {a s : State} (h : Keeps a s) (mask : Rails) : Keeps a (State.enLow s mask) := by
  unfold State.enLow
  try dsimp only
  repeat' first | with_reducible assumption | with_reducible apply State.disable_keeps

theorem State.cmpEnable_keeps {a s : State} (h : Keeps a s) (src : Nat) : Keeps a (State.cmpEnable s src) := by
  unfold State.cmpEnable
  try dsimp only
  repeat' first
    | with_reducible assumption | with_reducible apply State.setCmp_keeps | split
    | with_reducible refine Keeps.mk_upd ?_

theorem State.enHigh_keeps {a s : State} (h : Keeps a s) (mask : Rails) : Keeps a (State.enHigh s mask) := by
  unfold State.enHigh
  try dsimp only
  repeat' first
    | with_reducible assumption | with_reducible apply State.trimNominal_keeps
    | with_reducible apply State.senseChange_keeps | with_reducible apply State.cmpEnable_keeps
    | with_reducible refine Keeps.foldl _ ?_ (fun u x hu => ?_) | split | with_reducible refine Keeps.mk_upd ?_

/-- A region changes within the relation while its positions stay in canonical form. -/
theorem State.setRegion_keeps {a s : State} (h : Keeps a s) (r : Nat) (x : Region)
    (hx : Tab.wf (s.region r).slots = true → Tab.wf x.slots = true) : Keeps a (s.setRegion r x) := by
  unfold State.setRegion State.region at *
  split
  · rename_i hr
    rw [if_pos hr] at hx
    exact h.mk_gen le_rfl le_rfl (fun _ => le_rfl) id id id id id id id id hx id id
  · rename_i hr
    rw [if_neg hr] at hx
    exact h.mk_gen le_rfl le_rfl (fun _ => le_rfl) id id id id id id id hx id id id

theorem State.writeShard_keeps {a s : State} (h : Keeps a s) (r : Nat) (x : Shard) (origin : Option Nat) (window : Nat) :
    Keeps a (s.writeShard r x origin window) :=
  Keeps.mk_upd (State.setRegion_keeps h r _ (fun hw => Tab.wf_insert hw _ _))

theorem State.openWindow_keeps {a s : State} (h : Keeps a s) (y : Stored) (rest : List Copy) : Keeps a (State.openWindow s
    y rest) := by
  unfold State.openWindow
  try dsimp only
  repeat' first
    | with_reducible assumption | with_reducible apply State.irqLg_keeps | with_reducible apply State.logEvent_keeps
    | split | with_reducible refine Keeps.mk_upd ?_

theorem State.postCopy_keeps {a s : State} (h : Keeps a s) (y : Stored) (rest : List Copy) : Keeps a (State.postCopy s y
    rest) := by
  unfold State.postCopy
  try dsimp only
  repeat' first | with_reducible assumption | with_reducible refine Keeps.mk_upd ?_

theorem State.setGroup_keeps {a s : State} (h : Keeps a s) (g : Nat) (f : Group → Group) :
    Keeps a (State.setGroup s g f) := by
  unfold State.setGroup
  repeat' first | with_reducible assumption | with_reducible refine Keeps.mk_upd ?_

theorem State.skipEmpty_keeps {a s : State} (h : Keeps a s) (g n : Nat) : Keeps a (s.skipEmpty g n) := by
  induction n generalizing s with
  | zero => exact h
  | succ k ih =>
    unfold State.skipEmpty
    dsimp only
    split
    · exact ih (State.setGroup_keeps h _ _)
    · exact h

theorem State.groupDone_keeps {a s : State} (h : Keeps a s) (g : Nat) : Keeps a (State.groupDone s g) := by
  unfold State.groupDone
  try dsimp only
  repeat' first
    | with_reducible assumption | with_reducible apply State.setGroup_keeps | split
    | with_reducible refine Keeps.mk_upd ?_

theorem State.convert_keeps {a s : State} (h : Keeps a s) (c : Nat) (input : Nat) (t : Nat) (u : ConvUser) :
    Keeps a (State.convert s c input t u) := by
  unfold State.convert
  repeat' first | with_reducible assumption | with_reducible refine Keeps.mk_upd ?_

theorem State.handGroup_keeps {a s : State} (h : Keeps a s) (g : Nat) (c : Nat) (t : Nat) : Keeps a (State.handGroup s g c
    t) := by
  unfold State.handGroup
  try dsimp only
  repeat' first
    | with_reducible assumption | with_reducible apply State.skipEmpty_keeps | with_reducible apply State.groupDone_keeps
    | with_reducible apply State.setGroup_keeps | with_reducible apply State.convert_keeps | split
    | with_reducible refine Keeps.mk_upd ?_

theorem State.openOne_keeps {a s : State} (h : Keeps a s) (g : Nat) (c : Nat) : Keeps a (State.openOne s g c) := by
  unfold State.openOne
  try dsimp only
  repeat' first | with_reducible assumption | with_reducible apply State.handGroup_keeps | split

theorem State.openGroups_keeps {a s : State} (h : Keeps a s) : Keeps a (State.openGroups s) := by
  unfold State.openGroups
  try dsimp only
  repeat' first
    | with_reducible assumption | with_reducible apply State.openOne_keeps
    | with_reducible refine Keeps.foldl _ ?_ (fun u x hu => ?_) | split

theorem State.trigger_keeps {a s : State} (h : Keeps a s) (g : Nat) (t : Nat) : Keeps a (State.trigger s g t) := by
  unfold State.trigger
  try dsimp only
  repeat' first
    | with_reducible assumption | with_reducible apply State.setGroup_keeps | with_reducible apply State.skipEmpty_keeps
    | with_reducible apply State.groupDone_keeps | with_reducible apply State.openGroups_keeps | split
    | with_reducible refine Keeps.mk_upd ?_

@[simp] theorem Log.closeOn_fr (l : Log) (q : Nat) : (l.closeOn q).fr = l.fr := by
  simp only [Log.closeOn]
  split <;> rfl
@[simp] theorem Log.closeOn_fa (l : Log) (q : Nat) : (l.closeOn q).fa = l.fa := by
  simp only [Log.closeOn]
  split <;> rfl

theorem State.reachShard_keeps {a s : State} (h : Keeps a s) (y : Stored) (c : Copy) (rest : List Copy) :
    Keeps a (s.reachShard y c rest) := by
  unfold State.reachShard
  have ht : Keeps a (if y.shard.trigger then
      (if s.admitsWindow || s.log.openWins.isEmpty then s.openWindow y rest
        else (s.openWindow y rest).postCopy y (s.openWindow y rest).log.copies)
    else if s.log.openWins.isEmpty then { s with log := { s.log with copies := rest } } else s.postCopy y rest) :=
    Keeps.ite (Keeps.ite (State.openWindow_keeps h _ _) (State.postCopy_keeps (State.openWindow_keeps h _ _) _ _))
      (Keeps.ite (Keeps.mk_upd h) (State.postCopy_keeps h _ _))
  dsimp only
  generalize (if y.shard.trigger then _ else _ : State) = t at ht ⊢
  split
  · exact ht.mk_upd
  · exact ht

@[simp] theorem Log.setEntry_fr (l : Log) (i : Nat) (f : WinEntry → WinEntry) : (l.setEntry i f).fr = l.fr := by
  unfold Log.setEntry
  split <;> rfl

@[simp] theorem Log.setEntry_fa (l : Log) (i : Nat) (f : WinEntry → WinEntry) : (l.setEntry i f).fa = l.fa := by
  unfold Log.setEntry
  split <;> rfl

/-- Index entries changed one after another leave the regions as they were. -/
@[simp] theorem Log.foldl_setEntry_fr {β : Type} (f : WinEntry → WinEntry) (g : β → Nat) (ids : List β) (l : Log) :
    (ids.foldl (fun l i => l.setEntry (g i) f) l).fr = l.fr := by
  induction ids generalizing l with
  | nil => rfl
  | cons i ids ih => simp [ih]

@[simp] theorem Log.foldl_setEntry_fa {β : Type} (f : WinEntry → WinEntry) (g : β → Nat) (ids : List β) (l : Log) :
    (ids.foldl (fun l i => l.setEntry (g i) f) l).fa = l.fa := by
  induction ids generalizing l with
  | nil => rfl
  | cons i ids ih => simp [ih]

theorem State.missShard_keeps {a s : State} (h : Keeps a s) (c : Copy) (rest : List Copy) : Keeps a (s.missShard c rest) := by
  unfold State.missShard
  dsimp only
  have ht : ∀ l : Log, l.fr = s.log.fr → l.fa = s.log.fa → Keeps a { s with log := l } := fun l e f =>
    h.mk_upd rfl rfl rfl rfl rfl rfl rfl rfl rfl (by rw [e]) (by rw [f])
  split
  · exact State.logEvent_keeps (ht _ (by simp) (by simp)) _ _ _ _
  · exact ht _ (by simp) (by simp)

theorem State.reach_keeps {a s : State} (h : Keeps a s) (n : Nat) : Keeps a (s.reach n) := by
  induction n generalizing s with
  | zero => exact h
  | succ k ih =>
    unfold State.reach
    split
    · split
      · split
        · exact ih (State.missShard_keeps h _ _)
        · split
          · exact h.mk_upd
          · exact ih (State.reachShard_keeps h _ _ _)
      · exact h
    · exact h

theorem State.skipTorn_keeps {a s : State} (h : Keeps a s) (r : Nat) (x : Shard) : Keeps a (s.skipTorn r x) := by
  unfold State.skipTorn
  split
  · exact State.setRegion_keeps h _ _ (fun e => e)
  · exact h

theorem State.writeFr_keeps {a s : State} (h : Keeps a s) (x : Shard) : Keeps a (State.writeFr s x) := by
  unfold State.writeFr
  try dsimp only
  repeat' first
    | with_reducible assumption | with_reducible apply State.skipTorn_keeps | with_reducible apply State.writeShard_keeps
    | with_reducible apply State.trigger_keeps | split | with_reducible refine Keeps.mk_upd ?_

theorem State.commitFr_keeps {a s : State} (h : Keeps a s) (x : Shard) : Keeps a (s.commitFr x) := by
  unfold State.commitFr
  split
  · exact State.reach_keeps (State.writeFr_keeps h x) _
  · exact State.writeFr_keeps h x

theorem State.archiveLow_keeps {a s : State} (h : Keeps a s) (old : State) : Keeps a (State.archiveLow s old) := by
  unfold State.archiveLow
  repeat' first | with_reducible assumption | with_reducible apply State.irqLg_keeps | split

theorem State.commitTornFa_keeps {a s : State} (h : Keeps a s) : Keeps a (State.commitTornFa s) := by
  unfold State.commitTornFa
  try dsimp only
  repeat' first
    | with_reducible assumption | with_reducible apply State.writeShard_keeps | with_reducible apply State.skipTorn_keeps
    | with_reducible apply State.archiveLow_keeps | split | with_reducible refine Keeps.mk_upd ?_

theorem State.drainBuffer_keeps {a : State} (n : Nat) {s : State} (h : Keeps a s) : Keeps a (s.drainBuffer n) := by
  induction n generalizing s with
  | zero => exact h
  | succ n ih =>
    unfold State.drainBuffer
    split
    · exact h
    · exact ih (Keeps.foldl _ h.mk_upd fun u x hu => State.commitFr_keeps hu x)

theorem State.flushBuffer_keeps {a s : State} (h : Keeps a s) : Keeps a (State.flushBuffer s) := by
  unfold State.flushBuffer
  try dsimp only
  repeat' first
    | with_reducible assumption | with_reducible apply State.commitTornFa_keeps
    | with_reducible apply State.drainBuffer_keeps

theorem State.captureTorn_keeps {a s : State} (h : Keeps a s) : Keeps a (State.captureTorn s) := by
  unfold State.captureTorn
  try dsimp only
  repeat' first | with_reducible assumption | with_reducible refine Keeps.mk_upd ?_

theorem State.endWindows_keeps {a s : State} (h : Keeps a s) : Keeps a s.endWindows := by
  unfold State.endWindows
  dsimp only
  split
  · exact h.mk_upd
  · split
    · exact h
    · split
      · exact h.mk_upd
      · exact h.mk_upd rfl rfl rfl rfl rfl rfl rfl rfl rfl (by rw [Log.foldl_setEntry_fr _ (fun i => i)])
          (by rw [Log.foldl_setEntry_fa _ (fun i => i)])

theorem State.resolveBy_keeps {a s : State} (h : Keeps a s) (n : Nat) (code : BitVec 16) :
    Keeps a (State.resolveBy s n code) := by
  unfold State.resolveBy
  try dsimp only
  repeat' first
    | with_reducible assumption | with_reducible apply State.observe_keeps
    | with_reducible apply State.senseChange_keeps | with_reducible refine Keeps.foldl _ ?_ (fun u x hu => ?_) | split
    | with_reducible refine Keeps.mk_upd ?_

theorem State.putReading_keeps {a s : State} (h : Keeps a s) (i : Nat) (code : BitVec 16) :
    Keeps a (s.putReading i code) :=
  h.mk_gen le_rfl le_rfl (fun _ => le_rfl) id id (fun x => Tab.wf_put x _ _ _) id id id id id id id id

theorem State.bumpSeq_keeps {a s : State} (h : Keeps a s) (i : Nat) : Keeps a (s.bumpSeq i) :=
  h.mk_gen le_rfl le_rfl (fun _ => le_rfl) id id (fun x => Tab.wf_put x _ _ _) id id id id id id id id

theorem State.takeReading_keeps {a s : State} (h : Keeps a s) (i : Nat) (raw : BitVec 16) : Keeps a (State.takeReading s i
    raw) := by
  unfold State.takeReading
  try dsimp only
  repeat' first
    | with_reducible assumption | with_reducible apply State.bumpSeq_keeps | with_reducible apply State.putReading_keeps
    | with_reducible apply State.resolveBy_keeps | split | with_reducible refine Keeps.mk_upd ?_

theorem State.startPass_keeps {a s : State} (h : Keeps a s) : Keeps a (State.startPass s) := by
  unfold State.startPass
  try dsimp only
  repeat' first | with_reducible assumption | with_reducible refine Keeps.mk_upd ?_

theorem State.turnPass_keeps {a s : State} (h : Keeps a s) : Keeps a (State.turnPass s) := by
  unfold State.turnPass
  try dsimp only
  repeat' first | with_reducible assumption | with_reducible apply State.startPass_keeps | split

theorem State.serve_keeps {a s : State} (h : Keeps a s) (c : Nat) (d : Demand) : Keeps a (State.serve s c d) := by
  unfold State.serve
  try dsimp only
  repeat' first
    | with_reducible assumption | with_reducible apply State.convert_keeps | with_reducible refine Keeps.mk_upd ?_

theorem State.turnLate_keeps {a s : State} (h : Keeps a s) : Keeps a (State.turnLate s) := by
  unfold State.turnLate
  try dsimp only
  repeat' first | with_reducible assumption | with_reducible apply State.turnPass_keeps | split

theorem State.handScan_keeps {a s : State} (h : Keeps a s) (c : Nat) : Keeps a (State.handScan s c) := by
  unfold State.handScan
  try dsimp only
  repeat' first
    | with_reducible assumption | with_reducible apply State.turnPass_keeps | with_reducible apply State.convert_keeps
    | with_reducible apply State.turnLate_keeps | with_reducible refine Keeps.mk_upd ?_

theorem State.assign_keeps {a s : State} (h : Keeps a s) (c n : Nat) : Keeps a (s.assign c n) := by
  induction n generalizing s with
  | zero => exact h
  | succ k ih =>
    unfold State.assign
    split
    · exact h
    · split
      · exact State.serve_keeps h _ _
      · exact ih (State.handGroup_keeps h _ _ _)
      · exact State.handScan_keeps h _
      · split
        · exact State.turnPass_keeps h
        · exact h

theorem State.assignAll_keeps {a s : State} (h : Keeps a s) : Keeps a s.assignAll :=
  Keeps.foldl _ (State.openGroups_keeps h) (fun _ c hu => State.assign_keeps hu c 12)

theorem State.demand_keeps {a s : State} (h : Keeps a s) (input : Nat) (u : ConvUser) : Keeps a (State.demand s input u)
    := by
  unfold State.demand
  try dsimp only
  repeat' first
    | with_reducible assumption | with_reducible apply State.openGroups_keeps | with_reducible apply State.assignAll_keeps
    | with_reducible refine Keeps.mk_upd ?_

theorem State.fireTrigger_keeps {a s : State} (h : Keeps a s) (code : Nat) (sync : Nat) :
    Keeps a (State.fireTrigger s code sync) := by
  unfold State.fireTrigger
  repeat' first
    | with_reducible assumption | with_reducible apply State.trigger_keeps
    | with_reducible refine Keeps.foldl _ ?_ (fun u x hu => ?_) | split

theorem State.outsStop_keeps {a s : State} (h : Keeps a s) : Keeps a (State.outsStop s) := by
  unfold State.outsStop
  try dsimp only
  repeat' first | with_reducible assumption | with_reducible refine Keeps.mk_upd ?_

theorem State.outsRun_keeps {a s : State} (h : Keeps a s) : Keeps a (State.outsRun s) := by
  unfold State.outsRun
  try dsimp only
  repeat' first | with_reducible assumption | split | with_reducible refine Keeps.mk_upd ?_

theorem State.outsStart_keeps {a s : State} (h : Keeps a s) : Keeps a (State.outsStart s) := by
  unfold State.outsStart
  try dsimp only
  repeat' first
    | with_reducible assumption | with_reducible apply State.outsRun_keeps | with_reducible refine Keeps.mk_upd ?_

theorem State.secondReached_keeps {a s : State} (h : Keeps a s) : Keeps a (State.secondReached s) := by
  unfold State.secondReached
  try dsimp only
  repeat' first
    | with_reducible assumption | with_reducible apply State.logEvent_keeps | split
    | with_reducible refine Keeps.mk_upd ?_

theorem State.stepTo_keeps {a s : State} (h : Keeps a s) (v : Nat) : Keeps a (State.stepTo s v) := by
  unfold State.stepTo
  try dsimp only
  repeat' first
    | with_reducible assumption | with_reducible apply State.secondReached_keeps
    | with_reducible apply State.capture_keeps | split | with_reducible refine Keeps.mk_upd ?_

@[simp] theorem Clk.learn_now (c : Clk) (e : Int) : (c.learn e).now = c.now := by
  unfold Clk.learn
  split
  · split <;> rfl
  · rfl

@[simp] theorem Clk.learn_outs (c : Clk) (e : Int) : (c.learn e).outs = c.outs := by
  unfold Clk.learn
  split
  · split <;> rfl
  · rfl

theorem State.refEvent_keeps {a s : State} (h : Keeps a s) (src : BitVec 2) (e : Int) : Keeps a (s.refEvent src e) := by
  unfold State.refEvent
  dsimp only
  repeat' split
  · exact State.irqCk_keeps (State.stepTo_keeps h.mk_upd _) _
  · exact h.mk_upd (by simp)
  · exact h.mk_upd (by simp)
  · exact State.irqCk_keeps h.mk_upd _
  · exact h.mk_upd
  · exact State.irqCk_keeps h.mk_upd _

theorem State.ignoreEvent_keeps {a s : State} (h : Keeps a s) : Keeps a (State.ignoreEvent s) := by
  unfold State.ignoreEvent
  repeat' first | with_reducible assumption | with_reducible refine Keeps.mk_upd ?_

theorem State.closeEn_keeps {a s : State} (h : Keeps a s) (src : Nat) : Keeps a (State.closeEn s src) := by
  unfold State.closeEn
  repeat' first
    | with_reducible assumption | with_reducible apply State.reeval_keeps
    | with_reducible apply State.setCmp_keeps | split | with_reducible refine Keeps.mk_upd ?_

theorem State.gated_keeps {a s : State} (h : Keeps a s) (k : Nat) : Keeps a (State.gated s k) := by
  unfold State.gated
  try dsimp only
  repeat' first
    | with_reducible assumption | with_reducible apply State.irqCk_keeps | split | with_reducible refine Keeps.mk_upd ?_

theorem State.overflowed_keeps {a s : State} (h : Keeps a s) (m : BitVec 16) : Keeps a (State.overflowed s m) := by
  unfold State.overflowed
  try dsimp only
  repeat' first
    | with_reducible assumption | with_reducible apply State.noteSet_keeps | with_reducible apply State.irqCk_keeps
    | split | with_reducible refine Keeps.mk_upd ?_

theorem State.startRelock_keeps {a s : State} (h : Keeps a s) : Keeps a (State.startRelock s) := by
  unfold State.startRelock
  try dsimp only
  repeat' first
    | with_reducible assumption | with_reducible apply State.outsStop_keeps | with_reducible apply State.closeEn_keeps
    | with_reducible apply State.senseChange_keeps | with_reducible refine Keeps.foldl _ ?_ (fun u x hu => ?_) | split
    | with_reducible refine Keeps.mk_upd ?_

end Sys2Proof.Machine
end

