-- ==== Sys2Proof/Laws/KeepsStart.lean ====
section
/-! SUPPORT. The operations of start-up, the PWM channels, the twin-wire ports, the engines and the ring stay within `Keeps`.
A lemma reads: if a state keeps what `Keeps` says of an earlier one, the operation's result does too. -/

set_option Elab.async false

namespace Sys2Proof.Machine

theorem State.updateTwok_keeps {a s : State} (h : Keeps a s) : Keeps a (State.updateTwok s) := by
  unfold State.updateTwok
  repeat' first | with_reducible assumption | with_reducible refine Keeps.mk_upd ?_

theorem State.found_keeps {a s : State} (h : Keeps a s) : Keeps a (State.found s) := by
  unfold State.found
  repeat' first
    | with_reducible assumption | with_reducible apply State.updateTwok_keeps
    | with_reducible refine Keeps.mk_upd ?_

theorem State.foundOrBlock_keeps {a s : State} (h : Keeps a s) : Keeps a (State.foundOrBlock s) := by
  unfold State.foundOrBlock
  repeat' first
    | with_reducible assumption | with_reducible apply State.tryPending_keeps
    | with_reducible apply State.found_keeps | with_reducible apply State.irqGl_keeps | split
    | with_reducible refine Keeps.mk_upd ?_

theorem State.twinAtReady_keeps {a s : State} (h : Keeps a s) : Keeps a (State.twinAtReady s) := by
  unfold State.twinAtReady
  try dsimp only
  repeat' first
    | with_reducible assumption | with_reducible apply State.foundOrBlock_keeps
    | with_reducible apply State.updateTwok_keeps | split | with_reducible refine Keeps.mk_upd ?_

theorem State.afterReset_keeps {a s : State} (h : Keeps a s) : Keeps a s.afterReset := by
  unfold State.afterReset
  exact h.mk_gen le_rfl le_rfl (fun _ => le_rfl) id (fun _ => rfl) (fun _ => rfl) id id (fun _ => rfl) (fun _ => rfl) id id id id

theorem State.finishShard_keeps {a s : State} (h : Keeps a s) : Keeps a (State.finishShard s) := by
  unfold State.finishShard
  try dsimp only
  repeat' first
    | with_reducible assumption | with_reducible apply State.writeFr_keeps | split | with_reducible refine Keeps.mk_upd ?_

theorem State.dropWork_keeps {a s : State} (h : Keeps a s) : Keeps a (State.dropWork s) := by
  unfold State.dropWork
  repeat' first
    | with_reducible assumption | with_reducible apply State.endWindows_keeps
    | with_reducible apply State.discardSilent_keeps | split

/-- The log of one kept state in another. -/
theorem Keeps.withLog {a s t : State} (hs : Keeps a s) (ht : Keeps a t) : Keeps a { t with log := s.log } := by
  refine ⟨ht.pending, ht.ident, ht.now, ht.free, ht.counters, fun x => ?_, ht.units⟩
  have h1 := hs.tables x
  have h2 := ht.tables x
  simp only [State.tablesOk, Bool.and_eq_true] at h1 h2 ⊢
  obtain ⟨⟨⟨⟨⟨-, x8⟩, x9⟩, -⟩, -⟩, -⟩ := h1
  obtain ⟨⟨⟨⟨⟨h2, -⟩, -⟩, x10⟩, x11⟩, xq⟩ := h2
  exact ⟨⟨⟨⟨⟨h2, x8⟩, x9⟩, x10⟩, x11⟩, xq⟩

theorem State.deviceReset_keeps {a s : State} (h : Keeps a s) (cause : Nat) (bits : BitVec 5) :
    Keeps a (s.deviceReset cause bits) := by
  unfold State.deviceReset
  have h1 := State.dropWork_keeps (State.finishShard_keeps h)
  generalize s.finishShard.dropWork = u at h1 ⊢
  dsimp only
  split
  · refine h.withLog (State.afterReset_keeps ?_)
    exact h1.mk_upd
  · refine State.afterReset_keeps ?_
    exact h1.mk_upd

theorem State.startFail_keeps {a s : State} (h : Keeps a s) (code : Nat) (kat : Bool) : Keeps a (State.startFail s code
    kat) := by
  unfold State.startFail
  try dsimp only
  repeat' first | with_reducible assumption | with_reducible refine Keeps.mk_upd ?_

theorem State.beginStage2_keeps {a s : State} (h : Keeps a s) : Keeps a (State.beginStage2 s) := by
  unfold State.beginStage2
  repeat' first | with_reducible assumption | with_reducible refine Keeps.mk_upd ?_

theorem State.leaveStage1_keeps {a s : State} (h : Keeps a s) : Keeps a (State.leaveStage1 s) := by
  unfold State.leaveStage1
  repeat' first | with_reducible assumption | with_reducible apply State.beginStage2_keeps | split

theorem State.pllStart_keeps {a s : State} (h : Keeps a s) (ref : Bool) : Keeps a (State.pllStart s ref) := by
  unfold State.pllStart
  try dsimp only
  repeat' first | with_reducible assumption | with_reducible refine Keeps.mk_upd ?_

theorem State.setTimeBase_keeps {a s : State} (h : Keeps a s) : Keeps a (State.setTimeBase s) := by
  unfold State.setTimeBase
  try dsimp only
  repeat' first
    | with_reducible assumption | with_reducible apply State.secondReached_keeps | split
    | with_reducible refine Keeps.mk_upd ?_

theorem State.adopt_keeps {a s : State} (h : Keeps a s) (r : Nat) : Keeps a (s.adopt r) := by
  unfold State.adopt
  dsimp only
  split
  · split
    · exact State.setRegion_keeps h _ _ id
    · exact h
  · exact h

theorem State.examineLog_keeps {a s : State} (h : Keeps a s) : Keeps a (State.examineLog s) := by
  unfold State.examineLog
  try dsimp only
  repeat' first
    | with_reducible assumption | with_reducible apply State.adopt_keeps
    | with_reducible apply State.irqLg_keeps | split | with_reducible refine Keeps.mk_upd ?_

theorem State.firstFromHeld_keeps {a s : State} (h : Keeps a s) : Keeps a (State.firstFromHeld s) := by
  unfold State.firstFromHeld
  try dsimp only
  repeat' first
    | with_reducible assumption | with_reducible apply State.recordFirst_keeps | split
    | with_reducible refine Keeps.mk_upd ?_

theorem State.configLoaded_keeps {a s : State} (h : Keeps a s) : Keeps a (State.configLoaded s) := by
  unfold State.configLoaded
  try dsimp only
  repeat' first
    | with_reducible assumption | with_reducible apply State.firstFromHeld_keeps
    | with_reducible refine Keeps.mk_upd ?_

theorem State.modeChanges_keeps {a s : State} (h : Keeps a s) (old : State) : Keeps a (State.modeChanges s old) := by
  unfold State.modeChanges
  repeat' first
    | with_reducible assumption | with_reducible apply State.startSettle_keeps
    | with_reducible refine Keeps.foldl _ ?_ (fun u x hu => ?_) | split

theorem State.beginStage5_keeps {a s : State} (h : Keeps a s) : Keeps a (State.beginStage5 s) := by
  unfold State.beginStage5
  try dsimp only
  repeat' first
    | with_reducible assumption | with_reducible apply State.modeChanges_keeps
    | with_reducible apply State.refreshFlt_keeps | with_reducible apply State.outsStart_keeps
    | with_reducible apply State.startPass_keeps | with_reducible apply State.assignAll_keeps
    | with_reducible refine Keeps.mk_upd ?_

theorem State.failCmps_keeps {a s : State} (h : Keeps a s) (srcs : List Nat) : Keeps a (State.failCmps s srcs) := by
  unfold State.failCmps
  try dsimp only
  repeat' first
    | with_reducible assumption | with_reducible apply State.setCmp_keeps
    | with_reducible apply State.senseChange_keeps | with_reducible refine Keeps.foldl _ ?_ (fun u x hu => ?_)
    | with_reducible refine Keeps.mk_upd ?_

theorem State.logHeld_keeps {a s : State} (h : Keeps a s) : Keeps a (State.logHeld s) := by
  unfold State.logHeld
  try dsimp only
  repeat' first
    | with_reducible assumption | with_reducible apply State.faultShard_keeps
    | with_reducible apply State.firstFromHeld_keeps | with_reducible refine Keeps.foldl _ ?_ (fun u x hu => ?_) | split
    | with_reducible refine Keeps.mk_upd ?_

theorem State.raiseUnresolved_keeps {a s : State} (h : Keeps a s) : Keeps a (State.raiseUnresolved s) := by
  unfold State.raiseUnresolved
  repeat' first
    | with_reducible assumption | with_reducible apply State.receive_keeps
    | with_reducible refine Keeps.foldl _ ?_ (fun u x hu => ?_) | split

theorem State.startOffMin_keeps {a s : State} (h : Keeps a s) : Keeps a (State.startOffMin s) := by
  unfold State.startOffMin
  try dsimp only
  repeat' first | with_reducible assumption | split | with_reducible refine Keeps.mk_upd ?_

theorem State.startRequests_keeps {a s : State} (h : Keeps a s) : Keeps a (State.startRequests s) := by
  unfold State.startRequests
  repeat' first | with_reducible assumption | with_reducible apply State.onRequest_keeps | split

theorem State.startSelfTest_keeps {a s : State} (h : Keeps a s) : Keeps a (State.startSelfTest s) := by
  unfold State.startSelfTest
  try dsimp only
  repeat' first | with_reducible assumption | with_reducible refine Keeps.mk_upd ?_

theorem State.enterReady_keeps {a s : State} (h : Keeps a s) : Keeps a (State.enterReady s) := by
  unfold State.enterReady
  try dsimp only
  repeat' first
    | with_reducible assumption | with_reducible apply State.goTo_keeps | with_reducible apply State.captureTorn_keeps
    | with_reducible apply State.trimNominal_keeps | with_reducible apply State.releaseTrips_keeps
    | with_reducible apply State.updateHrst_keeps | with_reducible apply State.startSelfTest_keeps
    | with_reducible apply State.twinAtReady_keeps | with_reducible apply State.logHeld_keeps
    | with_reducible apply State.raiseUnresolved_keeps | with_reducible apply State.startOffMin_keeps
    | with_reducible apply State.receiveCause_keeps | with_reducible apply State.startRequests_keeps
    | with_reducible refine Keeps.foldl _ ?_ (fun u x hu => ?_) | split | with_reducible refine Keeps.mk_upd ?_

theorem State.collapseOutputs_keeps {a s : State} (h : Keeps a s) : Keeps a (State.collapseOutputs s) := by
  unfold State.collapseOutputs
  repeat' first | with_reducible assumption | with_reducible refine Keeps.mk_upd ?_

theorem State.senseQuiet_keeps {a s : State} (h : Keeps a s) : Keeps a s.senseQuiet :=
  h.mk_gen le_rfl le_rfl (fun _ => le_rfl) id (fun x => Tab.wf_filter (Tab.wf_mapVal x _) _) id id id id id id id id id

theorem State.quietDown_keeps {a s : State} (h : Keeps a s) (old : State) : Keeps a (State.quietDown s old) := by
  unfold State.quietDown
  try dsimp only
  repeat' first
    | with_reducible assumption | with_reducible apply State.startSettle_keeps
    | with_reducible apply State.senseQuiet_keeps | with_reducible apply State.modeChanges_keeps
    | with_reducible apply State.testWrites_keeps | with_reducible apply State.reeval_keeps
    | with_reducible apply State.senseChange_keeps | with_reducible refine Keeps.foldl _ ?_ (fun u x hu => ?_) | split

theorem State.enterCoppice_keeps {a s : State} (h : Keeps a s) : Keeps a s.enterCoppice := by
  unfold State.enterCoppice
  dsimp only
  refine State.updateHrst_keeps (State.walkBegin_keeps (State.quietDown_keeps ?_ _))
  have h2 := State.endWindows_keeps (State.discardSilent_keeps
    (State.recordBisque_keeps (State.setLatch_keeps h) ⟨0x30, 0, 0, 0⟩ s.clk.aonStamp) 2)
  exact h2.mk_gen le_rfl le_rfl (fun _ => le_rfl) id id id id id (fun x => Tab.wf_mapVal x _) id id id id id

theorem State.setCh_keeps {a s : State} (h : Keeps a s) (c : Nat) (f : PwmCh → PwmCh) :
    Keeps a (State.setCh s c f) := by
  unfold State.setCh
  repeat' first | with_reducible assumption | with_reducible refine Keeps.mk_upd ?_

theorem State.keepShadow_keeps {a s : State} (h : Keeps a s) (c : Nat) : Keeps a (State.keepShadow s c) := by
  unfold State.keepShadow
  try dsimp only
  repeat' first
    | with_reducible assumption | with_reducible apply State.setCh_keeps | split | with_reducible refine Keeps.mk_upd ?_

theorem State.transfer_keeps {a s : State} (h : Keeps a s) (c : Nat) : Keeps a (State.transfer s c) := by
  unfold State.transfer
  try dsimp only
  repeat' first | with_reducible assumption | with_reducible apply State.setCh_keeps

theorem State.loadDone_keeps {a s : State} (h : Keeps a s) : Keeps a (State.loadDone s) := by
  unfold State.loadDone
  repeat' first
    | with_reducible assumption | with_reducible apply State.irqPw_keeps | split
    | with_reducible refine Keeps.mk_upd ?_

theorem State.pwSettle_keeps {a s : State} (h : Keeps a s) : Keeps a (State.pwSettle s) := by
  unfold State.pwSettle
  repeat' first
    | with_reducible assumption | with_reducible apply State.loadDone_keeps
    | with_reducible apply State.transfer_keeps | with_reducible refine Keeps.foldl _ ?_ (fun u x hu => ?_) | split

theorem State.setLoadAll_keeps {a s : State} (h : Keeps a s) : Keeps a (State.setLoadAll s) := by
  unfold State.setLoadAll
  repeat' first | with_reducible assumption | split | with_reducible refine Keeps.mk_upd ?_

theorem State.drive_keeps {a s : State} (h : Keeps a s) (c : Nat) : Keeps a (State.drive s c) := by
  unfold State.drive
  try dsimp only
  repeat' first | with_reducible assumption | with_reducible apply State.setCh_keeps | split

theorem State.pulseSo_keeps {a s : State} (h : Keeps a s) (w : Nat) : Keeps a (State.pulseSo s w) := by
  unfold State.pulseSo
  try dsimp only
  repeat' first | with_reducible assumption | split | with_reducible refine Keeps.mk_upd ?_

theorem State.periodStart_keeps {a s : State} (h : Keeps a s) (c : Nat) : Keeps a (State.periodStart s c) := by
  unfold State.periodStart
  try dsimp only
  repeat' first
    | with_reducible assumption | with_reducible apply State.transfer_keeps | with_reducible apply State.setCh_keeps
    | with_reducible apply State.loadDone_keeps | with_reducible apply State.drive_keeps
    | with_reducible apply State.pulseSo_keeps | with_reducible refine Keeps.foldl _ ?_ (fun u x hu => ?_) | split
    | with_reducible refine Keeps.mk_upd ?_

theorem State.zeroCounter_keeps {a s : State} (h : Keeps a s) (c : Nat) : Keeps a (State.zeroCounter s c) := by
  unfold State.zeroCounter
  repeat' first
    | with_reducible assumption | with_reducible apply State.setCh_keeps
    | with_reducible refine Keeps.mk_upd ?_

theorem State.startCh_keeps {a s : State} (h : Keeps a s) (c : Nat) : Keeps a (State.startCh s c) := by
  unfold State.startCh
  try dsimp only
  repeat' first
    | with_reducible assumption | with_reducible apply State.transfer_keeps
    | with_reducible apply State.setCh_keeps | with_reducible apply State.periodStart_keeps
    | with_reducible apply State.loadDone_keeps | with_reducible apply State.zeroCounter_keeps
    | with_reducible refine Keeps.foldl _ ?_ (fun u x hu => ?_) | split | with_reducible refine Keeps.mk_upd ?_

theorem State.stopCh_keeps {a s : State} (h : Keeps a s) (c : Nat) : Keeps a (State.stopCh s c) := by
  unfold State.stopCh
  try dsimp only
  repeat' first
    | with_reducible assumption | with_reducible apply State.setCh_keeps
    | with_reducible refine Keeps.foldl _ ?_ (fun u x hu => ?_) | split | with_reducible refine Keeps.mk_upd ?_

theorem State.writeRun_keeps {a s : State} (h : Keeps a s) (v : BitVec 16) : Keeps a (State.writeRun s v) := by
  unfold State.writeRun
  repeat' first
    | with_reducible assumption | with_reducible apply State.startCh_keeps
    | with_reducible apply State.stopCh_keeps | with_reducible refine Keeps.foldl _ ?_ (fun u x hu => ?_) | split

theorem State.keepWrap_keeps {a s : State} (h : Keeps a s) : Keeps a (State.keepWrap s) := by
  unfold State.keepWrap
  try dsimp only
  repeat' first | with_reducible assumption | split | with_reducible refine Keeps.mk_upd ?_

theorem State.unwrap_keeps {a s : State} (h : Keeps a s) (c : Nat) : Keeps a (State.unwrap s c) := by
  unfold State.unwrap
  try dsimp only
  repeat' first
    | with_reducible assumption | with_reducible apply State.setCh_keeps
    | with_reducible refine Keeps.foldl _ ?_ (fun u x hu => ?_) | split | with_reducible refine Keeps.mk_upd ?_

theorem State.loadCh_keeps {a s : State} (h : Keeps a s) (c : Nat) : Keeps a (State.loadCh s c) := by
  unfold State.loadCh
  try dsimp only
  repeat' first
    | with_reducible assumption | with_reducible apply State.unwrap_keeps | with_reducible apply State.setCh_keeps
    | with_reducible apply State.periodStart_keeps | with_reducible apply State.drive_keeps | split
    | with_reducible refine Keeps.mk_upd ?_

theorem State.countClearRefused_keeps {a s : State} (h : Keeps a s) : Keeps a (State.countClearRefused s) := by
  unfold State.countClearRefused
  repeat' first
    | with_reducible assumption | with_reducible apply State.irqPw_keeps
    | with_reducible refine Keeps.mk_upd ?_

theorem State.clearLatches_keeps {a s : State} (h : Keeps a s) (m : BitVec 16) : Keeps a (State.clearLatches s m) := by
  unfold State.clearLatches
  try dsimp only
  repeat' first
    | with_reducible assumption | with_reducible apply State.setCh_keeps
    | with_reducible refine Keeps.foldl _ ?_ (fun u x hu => ?_) | split | with_reducible refine Keeps.mk_upd ?_

theorem State.setTw_keeps {a s : State} (h : Keeps a s) (p : Nat) (f : TwPort → TwPort) :
    Keeps a (State.setTw s p f) := by
  unfold State.setTw
  repeat' first | with_reducible assumption | with_reducible refine Keeps.mk_upd ?_

theorem State.startTx_keeps {a s : State} (h : Keeps a s) (p : Nat) (q : TwSeq) : Keeps a (State.startTx s p q) := by
  unfold State.startTx
  try dsimp only
  repeat' first
    | with_reducible assumption | with_reducible apply State.setTw_keeps | with_reducible refine Keeps.mk_upd ?_

theorem State.pump_keeps {a s : State} (h : Keeps a s) (p : Nat) : Keeps a (State.pump s p) := by
  unfold State.pump
  try dsimp only
  repeat' first
    | with_reducible assumption | with_reducible apply State.setTw_keeps | with_reducible apply State.startTx_keeps
    | split | with_reducible refine Keeps.mk_upd ?_

theorem State.noteEnd_keeps {a s : State} (h : Keeps a s) (q : TwSeq) (r : BitVec 2) :
    Keeps a (State.noteEnd s q r) := by
  unfold State.noteEnd
  repeat' first | with_reducible assumption | with_reducible refine Keeps.mk_upd ?_

theorem State.endHead_keeps {a s : State} (h : Keeps a s) (p : Nat) (result : BitVec 4) (r : BitVec 2) :
    Keeps a (State.endHead s p result r) := by
  unfold State.endHead
  repeat' first
    | with_reducible assumption | with_reducible apply State.noteEnd_keeps
    | with_reducible apply State.setTw_keeps | split | with_reducible refine Keeps.mk_upd ?_

theorem State.endQueue_keeps {a s : State} (h : Keeps a s) (p : Nat) (result : BitVec 4) :
    Keeps a (State.endQueue s p result) := by
  unfold State.endQueue
  repeat' first
    | with_reducible assumption | with_reducible apply State.endHead_keeps
    | with_reducible refine Keeps.foldl _ ?_ (fun u x hu => ?_)

theorem State.startSeq_keeps {a s : State} (h : Keeps a s) (q : TwSeq) : Keeps a (State.startSeq s q) := by
  unfold State.startSeq
  try dsimp only
  repeat' first
    | with_reducible assumption | with_reducible apply State.setTw_keeps
    | with_reducible apply State.pump_keeps | split

theorem State.txDone_keeps {a s : State} (h : Keeps a s) (p : Nat) (q : TwSeq) (data : BitVec 16) :
    Keeps a (State.txDone s p q data) := by
  unfold State.txDone
  try dsimp only
  repeat' first
    | with_reducible assumption | with_reducible apply State.setTrim_keeps
    | with_reducible apply State.endHead_keeps | with_reducible apply State.setTw_keeps | split
    | with_reducible refine Keeps.mk_upd ?_

theorem State.busyPump_keeps {a s : State} (h : Keeps a s) (p : Nat) (d : Nat) : Keeps a (State.busyPump s p d) := by
  unfold State.busyPump
  try dsimp only
  repeat' first
    | with_reducible assumption | with_reducible apply State.setTw_keeps | with_reducible apply State.pump_keeps
    | with_reducible refine Keeps.mk_upd ?_

theorem State.foreignStart_keeps {a s : State} (h : Keeps a s) (p : Nat) : Keeps a (State.foreignStart s p) := by
  unfold State.foreignStart
  try dsimp only
  repeat' first
    | with_reducible assumption | with_reducible apply State.setTw_keeps | split | with_reducible refine Keeps.mk_upd ?_

theorem State.sclFree_keeps {a s : State} (h : Keeps a s) (p : Nat) : Keeps a (State.sclFree s p) := by
  unfold State.sclFree
  try dsimp only
  repeat' first
    | with_reducible assumption | with_reducible apply State.setTw_keeps | split | with_reducible refine Keeps.mk_upd ?_

theorem State.foreignStarts_keeps {a s : State} (h : Keeps a s) (busy : BitVec 4) (free : BitVec 4) : Keeps a
    (State.foreignStarts s busy free) := by
  unfold State.foreignStarts
  try dsimp only
  repeat' first
    | with_reducible assumption | with_reducible apply State.sclFree_keeps | with_reducible apply State.foreignStart_keeps
    | with_reducible refine Keeps.foldl _ ?_ (fun u x hu => ?_) | split

theorem State.twEnable_keeps {a s : State} (h : Keeps a s) (p : Nat) : Keeps a (State.twEnable s p) := by
  unfold State.twEnable
  try dsimp only
  repeat' first
    | with_reducible assumption | with_reducible apply State.setTw_keeps | with_reducible apply State.noteEnd_keeps
    | with_reducible apply State.endQueue_keeps | with_reducible refine Keeps.foldl _ ?_ (fun u x hu => ?_) | split
    | with_reducible refine Keeps.mk_upd ?_

theorem State.twReset_keeps {a s : State} (h : Keeps a s) (p : Nat) : Keeps a (State.twReset s p) := by
  unfold State.twReset
  try dsimp only
  repeat' first
    | with_reducible assumption | with_reducible apply State.endQueue_keeps | with_reducible apply State.setTw_keeps
    | split | with_reducible refine Keeps.mk_upd ?_

theorem State.twClear_keeps {a s : State} (h : Keeps a s) (p : Nat) : Keeps a (State.twClear s p) := by
  unfold State.twClear
  try dsimp only
  repeat' first
    | with_reducible assumption | with_reducible apply State.setTw_keeps | split
    | with_reducible refine Keeps.mk_upd ?_

theorem State.readyClears_keeps {a s : State} (h : Keeps a s) : Keeps a (State.readyClears s) := by
  unfold State.readyClears
  try dsimp only
  repeat' first
    | with_reducible assumption | with_reducible apply State.twClear_keeps
    | with_reducible refine Keeps.foldl _ ?_ (fun u x hu => ?_) | split

theorem State.marginTrim_keeps {a s : State} (h : Keeps a s) (n : Nat) (level : Nat) :
    Keeps a (State.marginTrim s n level) := by
  unfold State.marginTrim
  repeat' first | with_reducible assumption | with_reducible apply State.applyTrim_keeps | split

theorem State.setEng_keeps {a s : State} (h : Keeps a s) (k : Nat) (f : Engine → Engine) :
    Keeps a (State.setEng s k f) := by
  unfold State.setEng
  repeat' first | with_reducible assumption | with_reducible refine Keeps.mk_upd ?_

theorem State.engineError_keeps {a s : State} (h : Keeps a s) (k : Nat) (err : Nat) :
    Keeps a (State.engineError s k err) := by
  unfold State.engineError
  try dsimp only
  repeat' first
    | with_reducible assumption | with_reducible apply State.setEng_keeps
    | with_reducible apply State.engineFault_keeps | split | with_reducible refine Keeps.mk_upd ?_

theorem State.goStep_keeps {a s : State} (h : Keeps a s) (k : Nat) (a' : Nat) (d : Nat) :
    Keeps a (State.goStep s k a' d) := by
  unfold State.goStep
  repeat' first
    | with_reducible assumption | with_reducible apply State.setEng_keeps | split
    | with_reducible refine Keeps.mk_upd ?_

theorem State.endStep_keeps {a s : State} (h : Keeps a s) (k : Nat) (d : Nat) : Keeps a (State.endStep s k d) := by
  unfold State.endStep
  try dsimp only
  repeat' first
    | with_reducible assumption | with_reducible apply State.engineError_keeps
    | with_reducible apply State.goStep_keeps | split

theorem State.openTick_keeps {a s : State} (h : Keeps a s) : Keeps a (State.openTick s) := by
  unfold State.openTick
  repeat' first | with_reducible assumption | split | with_reducible refine Keeps.mk_upd ?_

theorem State.setFlags_keeps {a s : State} (h : Keeps a s) (m : BitVec 16) : Keeps a (State.setFlags s m) := by
  unfold State.setFlags
  try dsimp only
  repeat' first
    | with_reducible assumption | with_reducible apply State.openTick_keeps
    | with_reducible refine Keeps.mk_upd ?_

theorem State.clearFlags_keeps {a s : State} (h : Keeps a s) (m : BitVec 16) : Keeps a (State.clearFlags s m) := by
  unfold State.clearFlags
  try dsimp only
  repeat' first
    | with_reducible assumption | with_reducible apply State.openTick_keeps
    | with_reducible refine Keeps.mk_upd ?_

theorem State.noteFetch_keeps {a s : State} (h : Keeps a s) (k : Nat) (f : Fetch) :
    Keeps a (State.noteFetch s k f) := by
  unfold State.noteFetch
  repeat' first | with_reducible assumption | split | with_reducible refine Keeps.mk_upd ?_

theorem State.issueStep_keeps {a s : State} (h : Keeps a s) (k : Nat) (op : Nat) : Keeps a (State.issueStep s k op) := by
  unfold State.issueStep
  try dsimp only
  repeat' first
    | with_reducible assumption | with_reducible apply State.setEng_keeps | with_reducible refine Keeps.mk_upd ?_

theorem State.badFetch_keeps {a s : State} (h : Keeps a s) (k : Nat) : Keeps a (State.badFetch s k) := by
  unfold State.badFetch
  try dsimp only
  repeat' first
    | with_reducible assumption | with_reducible apply State.engineError_keeps | split
    | with_reducible refine Keeps.mk_upd ?_

theorem State.engStep_keeps {a s : State} (h : Keeps a s) (k : Nat) (op : Nat) (f : Fetch) (act : State → State) (hact : ∀ u, Keeps a u → Keeps a (act u)) :
    Keeps a (State.engStep s k op f act) := by
  unfold State.engStep
  try dsimp only
  repeat' first
    | with_reducible assumption | apply hact | with_reducible apply State.till_keeps
    | with_reducible apply State.badFetch_keeps | with_reducible apply State.issueStep_keeps
    | with_reducible apply State.noteFetch_keeps | split | with_reducible refine Keeps.mk_upd ?_

theorem State.waitIn_keeps {a s : State} (h : Keeps a s) (k : Nat) (b : Busy) : Keeps a (State.waitIn s k b) := by
  unfold State.waitIn
  repeat' first
    | with_reducible assumption | with_reducible apply State.setEng_keeps
    | with_reducible refine Keeps.mk_upd ?_

theorem State.claimTrim_keeps {a s : State} (h : Keeps a s) (k : Nat) (n : Nat) (act : State → State) (hact : ∀ u, Keeps a u → Keeps a (act u)) :
    Keeps a (State.claimTrim s k n act) := by
  unfold State.claimTrim
  try dsimp only
  repeat' first
    | with_reducible assumption | apply hact | with_reducible apply State.openTick_keeps
    | with_reducible apply State.setEng_keeps | split | with_reducible refine Keeps.mk_upd ?_

theorem State.claimPwm_keeps {a s : State} (h : Keeps a s) (k : Nat) (c : Nat) (act : State → State) (hact : ∀ u, Keeps a u → Keeps a (act u)) :
    Keeps a (State.claimPwm s k c act) := by
  unfold State.claimPwm
  try dsimp only
  repeat' first
    | with_reducible assumption | apply hact | with_reducible apply State.openTick_keeps | split
    | with_reducible refine Keeps.mk_upd ?_

theorem State.endFiring_keeps {a s : State} (h : Keeps a s) : Keeps a (State.endFiring s) := by
  unfold State.endFiring
  repeat' first | with_reducible assumption | with_reducible apply State.enterRunning_keeps | split

theorem State.checkEnd_keeps {a s : State} (h : Keeps a s) (k : Nat) (rails : List CheckRail) :
    Keeps a (State.checkEnd s k rails) := by
  unfold State.checkEnd
  repeat' first | with_reducible assumption | with_reducible apply State.endStep_keeps | split

theorem State.checkFail_keeps {a s : State} (h : Keeps a s) (k : Nat) (r : Nat) : Keeps a (State.checkFail s k r) := by
  unfold State.checkFail
  try dsimp only
  repeat' first
    | with_reducible assumption | with_reducible apply State.openTick_keeps | with_reducible apply State.setEng_keeps
    | with_reducible apply State.capture_keeps | split | with_reducible refine Keeps.mk_upd ?_

theorem State.marginEnd_keeps {a s : State} (h : Keeps a s) (k : Nat) (n : Nat) (r : BitVec 2) :
    Keeps a (State.marginEnd s k n r) := by
  unfold State.marginEnd
  repeat' first
    | with_reducible assumption | with_reducible apply State.endStep_keeps
    | with_reducible apply State.setEng_keeps | split | with_reducible refine Keeps.mk_upd ?_

theorem State.launchEnum_keeps {a s : State} (h : Keeps a s) : Keeps a (State.launchEnum s) := by
  unfold State.launchEnum
  try dsimp only
  repeat' first
    | with_reducible assumption | with_reducible apply State.sendFrame_keeps | split
    | with_reducible refine Keeps.mk_upd ?_

theorem State.reenumerate_keeps {a s : State} (h : Keeps a s) : Keeps a (State.reenumerate s) := by
  unfold State.reenumerate
  try dsimp only
  repeat' first
    | with_reducible assumption | with_reducible apply State.launchEnum_keeps | split
    | with_reducible refine Keeps.mk_upd ?_

theorem State.forgetAbsent_keeps {a s : State} (h : Keeps a s) : Keeps a (State.forgetAbsent s) := by
  unfold State.forgetAbsent
  repeat' first | with_reducible assumption | split | with_reducible refine Keeps.mk_upd ?_

end Sys2Proof.Machine
end

