-- ==== Sys2Proof/Laws/KeepsWrite.lean ====
section
/-! SUPPORT. The judged register write and the command pipeline stay within `Keeps`.
A lemma reads: if a state keeps what `Keeps` says of an earlier one, the operation's result does too. -/

set_option Elab.async false

namespace Sys2Proof.Machine

theorem State.putCfg_keeps {a s : State} (h : Keeps a s) (r : Reg) (v : Word) : Keeps a (s.putCfg r v) :=
  h.mk_gen le_rfl le_rfl (fun _ => le_rfl) (fun x => Tab.wf_put x _ _ _) id id id id id id id id id id

theorem State.clearFlt_keeps {a s : State} (h : Keeps a s) (pins : Byte) : Keeps a (State.clearFlt s pins) := by
  unfold State.clearFlt
  try dsimp only
  repeat' first | with_reducible assumption | with_reducible refine Keeps.mk_upd ?_

theorem State.clearFail_keeps {a s : State} (h : Keeps a s) (high : Bool) (bits : Word) : Keeps a (State.clearFail s high
    bits) := by
  unfold State.clearFail
  try dsimp only
  repeat' first
    | with_reducible assumption | with_reducible apply State.openTick_keeps | split
    | with_reducible refine Keeps.mk_upd ?_

theorem State.popQueue_keeps {a s : State} (h : Keeps a s) : Keeps a (State.popQueue s) := by
  unfold State.popQueue
  repeat' first | with_reducible assumption | with_reducible refine Keeps.mk_upd ?_

theorem State.addPhase_keeps {a s : State} (h : Keeps a s) (n : Nat) (v : Word) : Keeps a (State.addPhase s n v) := by
  unfold State.addPhase
  try dsimp only
  repeat' first | with_reducible assumption | split | with_reducible refine Keeps.mk_upd ?_

theorem State.writeContent_keeps {a s : State} (h : Keeps a s) (r : Reg) (v : Word) : Keeps a (s.writeContent r v) := by
  unfold State.writeContent
  have h1 : Keeps a (if r.row.base / 0x10000 = 0xD then s.pwSettle else s) := (State.pwSettle_keeps h).ite h
  dsimp only
  generalize (if r.row.base / 0x10000 = 0xD then s.pwSettle else s) = t at h1 ⊢
  repeat' first
    | with_reducible assumption
    | with_reducible apply State.clearFlt_keeps
    | with_reducible apply State.clearFail_keeps | with_reducible apply State.popQueue_keeps
    | with_reducible apply State.addPhase_keeps | with_reducible apply State.setLoadAll_keeps
    | with_reducible apply State.writeRun_keeps | with_reducible apply State.clearLatches_keeps
    | with_reducible apply State.setCh_keeps | with_reducible apply State.putCfg_keeps
    | with_reducible apply State.keepShadow_keeps | split | with_reducible refine Keeps.mk_upd ?_

theorem State.attenChanged_keeps {a s : State} (h : Keeps a s) (n : Nat) : Keeps a (State.attenChanged s n) := by
  unfold State.attenChanged
  try dsimp only
  repeat' first
    | with_reducible assumption | with_reducible apply State.setCmp_keeps
    | with_reducible apply State.receive_keeps | with_reducible apply State.forcedChange_keeps
    | with_reducible refine Keeps.foldl _ ?_ (fun u x hu => ?_) | with_reducible refine Keeps.mk_upd ?_

theorem State.cmpCfgChanged_keeps {a s : State} (h : Keeps a s) (src : Nat) (c : Word) (w : Word) :
    Keeps a (State.cmpCfgChanged s src c w) := by
  unfold State.cmpCfgChanged
  try dsimp only
  repeat' first
    | with_reducible assumption | with_reducible apply State.startSettle_keeps
    | with_reducible apply State.cutRamp_keeps | split

theorem State.trimSide_keeps {a s : State} (h : Keeps a s) (old : State) (n : Nat) : Keeps a (State.trimSide s old n) :=
    by
  unfold State.trimSide
  try dsimp only
  repeat' first
    | with_reducible assumption | with_reducible apply State.setTrim_keeps | with_reducible apply State.trimNominal_keeps
    | split | with_reducible refine Keeps.mk_upd ?_

theorem State.twinEnChanged_keeps {a s : State} (h : Keeps a s) (old : State) : Keeps a (State.twinEnChanged s old) := by
  unfold State.twinEnChanged
  try dsimp only
  repeat' first
    | with_reducible assumption | with_reducible apply State.releaseHeld_keeps
    | with_reducible apply State.twinAtReady_keeps | with_reducible apply State.setCmp_keeps
    | with_reducible apply State.trimSide_keeps | with_reducible apply State.senseChange_keeps
    | with_reducible refine Keeps.foldl _ ?_ (fun u x hu => ?_) | split | with_reducible refine Keeps.mk_upd ?_

theorem State.outChanged_keeps {a s : State} (h : Keeps a s) (n : Nat) (c : Word) (w : Word) : Keeps a (State.outChanged s
    n c w) := by
  unfold State.outChanged
  try dsimp only
  repeat' first | with_reducible assumption | split | with_reducible refine Keeps.mk_upd ?_

theorem State.intervalChanged_keeps {a s : State} (h : Keeps a s) : Keeps a (State.intervalChanged s) := by
  unfold State.intervalChanged
  try dsimp only
  repeat' first | with_reducible assumption | split | with_reducible refine Keeps.mk_upd ?_

theorem State.scanChanged_keeps {a s : State} (h : Keeps a s) : Keeps a (State.scanChanged s) := by
  unfold State.scanChanged
  try dsimp only
  repeat' first
    | with_reducible assumption | with_reducible apply State.assignAll_keeps | with_reducible apply State.startPass_keeps
    | with_reducible apply State.turnLate_keeps | split

theorem State.startCycle_keeps {a s : State} (h : Keeps a s) : Keeps a (State.startCycle s) := by
  unfold State.startCycle
  try dsimp only
  repeat' first
    | with_reducible assumption | with_reducible apply State.finishCycle_keeps | split
    | with_reducible refine Keeps.mk_upd ?_

theorem State.stopCycle_keeps {a s : State} (h : Keeps a s) : Keeps a (State.stopCycle s) := by
  unfold State.stopCycle
  repeat' first | with_reducible assumption | with_reducible apply State.endCycle_keeps | split

theorem State.writeAfter_keeps {a s : State} (h : Keeps a s) (cfg : Tab Word) (r : Reg) (v : Word) (c : Word) : Keeps a
    (State.writeAfter s cfg r v c) := by
  unfold State.writeAfter
  try dsimp only
  repeat' first
    | with_reducible assumption | with_reducible apply State.attenChanged_keeps
    | with_reducible apply State.senseChange_keeps | with_reducible apply State.cmpCfgChanged_keeps
    | with_reducible apply State.refreshFlt_keeps | with_reducible apply State.scanChanged_keeps
    | with_reducible apply State.assignAll_keeps | with_reducible apply State.intervalChanged_keeps
    | with_reducible apply State.stopCycle_keeps | with_reducible apply State.startCycle_keeps
    | with_reducible apply State.twEnable_keeps | with_reducible apply State.twReset_keeps
    | with_reducible apply State.twClear_keeps | with_reducible apply State.twinEnChanged_keeps
    | with_reducible apply State.trimSide_keeps | with_reducible apply State.reenumerate_keeps
    | with_reducible apply State.forgetAbsent_keeps | with_reducible apply State.outChanged_keeps
    | with_reducible refine Keeps.foldl _ ?_ (fun u x hu => ?_) | split

theorem State.writesFollow_keeps {a s : State} (h : Keeps a s) (l : List Written) :
    Keeps a (State.writesFollow s l) := by
  unfold State.writesFollow
  repeat' first
    | with_reducible assumption | with_reducible apply State.writeAfter_keeps
    | with_reducible refine Keeps.foldl _ ?_ (fun u x hu => ?_)

theorem State.countRefused_keeps {a s : State} (h : Keeps a s) (k : Carrier) (l : List (Nat × Word)) (status : Nat) :
    Keeps a (State.countRefused s k l status) := by
  unfold State.countRefused
  try dsimp only
  repeat' first
    | with_reducible assumption | with_reducible apply State.countClearRefused_keeps | split
    | with_reducible refine Keeps.mk_upd ?_

/-- The keys put in force keep every held counter and the number of slots; both copies of the store then hold the program in force. -/
theorem State.putSec_keeps {a s : State} (h : Keeps a s) (x : Sec)
    (hc : ∀ i, s.heldCounter i ≤ (nth x.slots i {}).counter) (hl : s.sec.slots.length = 8 → x.slots.length = 8) :
    Keeps a (s.putSec x) := by
  refine h.trans ⟨rfl, rfl, le_rfl, le_rfl, hc, fun y => ?_, State.units_of id id id id id hl id id⟩
  simp only [State.tablesOk, Bool.and_eq_true] at y ⊢
  obtain ⟨⟨⟨⟨⟨⟨⟨⟨⟨⟨⟨x1, x2⟩, x3⟩, x4⟩, x5⟩, x6⟩, x7⟩, x8⟩, x9⟩, x10⟩, x11⟩, -⟩ := y
  refine ⟨⟨⟨⟨⟨⟨⟨⟨⟨⟨⟨x1, x2⟩, x3⟩, x4⟩, x5⟩, x6⟩, x7⟩, x8⟩, x9⟩, x10⟩, x11⟩, ?_⟩
  have hs : (State.partition { s with sec := { x with storeMark := !s.sec.storeMark } }).storeOk = true := by
    simp only [SgPart.storeOk, Bool.and_eq_true]
    exact ⟨x5, x11⟩
  simp only [Sec.copiesOk, Bool.and_eq_true]
  exact ⟨hs, hs⟩

theorem State.putHeld_keeps {a s : State} (h : Keeps a s) (held : Tab Word) (r : Reg) : Keeps a (State.putHeld held s r) := by
  unfold State.putHeld
  dsimp only
  split
  · exact h
  · exact State.putCfg_keeps h _ _

theorem State.loadHeld_keeps {a s : State} (h : Keeps a s) (held : Tab Word) : Keeps a (s.loadHeld held) := by
  unfold State.loadHeld
  dsimp only
  exact Keeps.foldl _ (Keeps.foldl _ h.mk_upd fun u x hu => State.putHeld_keeps hu held x)
    fun u x hu => State.putHeld_keeps hu held x

/-- A copy whose program is in canonical form is loaded; the held counters stay (R228). -/
theorem State.loadPart_keeps {a s : State} (h : Keeps a s) (p : SgPart) (hp : s.tablesOk = true → p.storeOk = true) :
    Keeps a (s.loadPart p) := by
  unfold State.loadPart
  have ht := State.loadHeld_keeps h p.held
  generalize s.loadHeld p.held = t at ht ⊢
  dsimp only
  refine ⟨ht.pending, ht.ident, ht.now, ht.free, fun i => (ht.counters i).trans ?_, fun y => ?_, fun y => ?_⟩
  · simp only [State.heldCounter, nth, List.getD_eq_getElem?_getD, List.getElem?_mapIdx]
    cases t.sec.slots[i]? <;> simp
  · have hs := hp (h.tables y)
    have hy := ht.tables y
    simp only [State.tablesOk, SgPart.storeOk, Bool.and_eq_true] at hs hy ⊢
    obtain ⟨⟨⟨⟨⟨⟨⟨⟨⟨⟨⟨x1, x2⟩, x3⟩, x4⟩, -⟩, x6⟩, x7⟩, x8⟩, x9⟩, x10⟩, -⟩, xq⟩ := hy
    exact ⟨⟨⟨⟨⟨⟨⟨⟨⟨⟨⟨x1, x2⟩, x3⟩, x4⟩, hs.1⟩, x6⟩, x7⟩, x8⟩, x9⟩, x10⟩, hs.2⟩, xq⟩
  · exact State.units_of (t := t) id id id id (by simp) (by simp) id id (ht.units y)

theorem State.newImage_keeps {a s : State} (h : Keeps a s) : Keeps a s.newImage :=
  State.putSec_keeps h _ (fun _ => le_rfl) id

/-- One word written, as a state. -/
theorem State.writeWord_keeps {a : State} {e : State × List Written} (h : Keeps a e.1) (w : Nat × Word) :
    Keeps a (State.writeWord e w).1 := by
  unfold State.writeWord
  split
  · exact h
  · dsimp only
    split
    · exact h
    · exact State.writeContent_keeps h _ _

theorem State.writeAll_keeps {a s : State} (h : Keeps a s) (l : List (Nat × Word)) : Keeps a (s.writeAll l).1 := by
  unfold State.writeAll
  generalize hx : (s, ([] : List Written)) = x
  have hx1 : Keeps a x.1 := by
    rw [← hx]
    exact h
  clear hx
  induction l generalizing x with
  | nil => exact hx1
  | cons w l ih => exact ih _ (State.writeWord_keeps hx1 w)

theorem State.writeOne_keeps {a s : State} (h : Keeps a s) (k : Carrier) (n : Nat) (v : Word) :
    Keeps a (s.writeOne k n v) := by
  unfold State.writeOne
  split
  · exact State.countRefused_keeps h _ _ _
  · have h1 := State.writeWord_keeps (e := (s, [])) h (n, v)
    generalize State.writeWord (s, []) (n, v) = e at h1 ⊢
    dsimp only
    refine State.writesFollow_keeps ?_ _
    split
    · exact State.newImage_keeps h1
    · exact h1

theorem State.writeLive_keeps {a s : State} (h : Keeps a s) (k : Carrier) (a' : Nat) (v : Word) :
    Keeps a (State.writeLive s k a' v) := by
  unfold State.writeLive
  repeat' first | with_reducible assumption | with_reducible apply State.writeOne_keeps | split

/-- Key slots changed by place. -/
theorem counter_mapIdx (l : List KeySlot) (f : Nat → KeySlot → KeySlot)
    (hf : ∀ i, (hi : i < l.length) → (l[i]).counter ≤ (f i l[i]).counter) (i : Nat) :
    (nth l i {}).counter ≤ (nth (l.mapIdx f) i {}).counter := by
  unfold nth
  rw [List.getElem?_mapIdx]
  cases h : l[i]? with
  | none => simp
  | some k =>
    obtain ⟨hi, rfl⟩ := List.getElem?_eq_some_iff.1 h
    exact hf i hi

theorem State.countBad_keeps {a s : State} (h : Keeps a s) (c : Cmd) : Keeps a (s.countBad c) := by
  refine h.mk_gen le_rfl le_rfl (counter_mapIdx _ _ (fun i hi => ?_)) id id id id id id id id id id id
  simp only [apply_ite KeySlot.counter, ite_self, le_refl]

/-- Held counters advance within the relation where the command's counter is above them (R227). -/
theorem State.advance_keeps {a s : State} (h : Keeps a s) (c : Cmd) (slots : List Nat)
    (hc : ∀ i ∈ slots, s.heldCounter i ≤ c.counter) : Keeps a (s.advance c slots) := by
  refine h.mk_gen le_rfl le_rfl (counter_mapIdx _ _ (fun i hi => ?_)) id id id id id id id id id id id
  split
  · rename_i hs
    have := hc i (by simpa using hs)
    simpa [State.heldCounter, nth, List.getElem?_eq_getElem hi] using this
  · exact le_rfl

/-- A command that stage 5 does not refuse passes within the relation: its counter is above those it advances (R227). -/
theorem State.pass5_keeps {a s : State} (h : Keeps a s) (c : Cmd) (hs : s.stage5 c = none) : Keeps a (s.pass5 c) := by
  unfold State.pass5
  dsimp only
  have hk : Keeps a (if (c.op == 0xC0) = true then s else s.advance c (s.counted c)) := by
    split
    · exact h
    · rename_i ho
      refine State.advance_keeps h _ _ (fun i hi => ?_)
      unfold State.stage5 at hs
      simp only [ho, Bool.false_eq_true, if_false] at hs
      split at hs
      · exact absurd hs (by simp)
      · split at hs
        · exact absurd hs (by simp)
        · split at hs
          · exact absurd hs (by simp)
          · split at hs
            · exact absurd hs (by simp)
            · rename_i hcnt
              simp only [State.counterAbove, Bool.not_eq_true', Bool.not_eq_false, Bool.and_eq_true, List.all_eq_true,
                decide_eq_true_eq] at hcnt
              exact (hcnt.2 i hi).le
  exact (State.setCmd_keeps hk _).mk_upd

theorem State.verified_keeps {a s : State} (h : Keeps a s) (c : Cmd) : Keeps a (State.verified s c) := by
  unfold State.verified
  try dsimp only
  repeat' first
    | with_reducible assumption | with_reducible apply State.countBad_keeps | with_reducible apply State.setCmd_keeps
    | with_reducible refine Keeps.mk_upd ?_

theorem State.count5_keeps {a s : State} (h : Keeps a s) (c : Cmd) : Keeps a (s.count5 c) := by
  unfold State.count5
  split
  · exact State.finish_keeps h _ _ _
  · rename_i hs
    exact State.pass5_keeps h c hs

theorem State.runStage5_keeps {a s : State} (h : Keeps a s) (ring : Bool) (n : Nat) : Keeps a (s.runStage5 ring n) := by
  induction n generalizing s with
  | zero => exact h
  | succ k ih =>
    unfold State.runStage5
    split
    · split
      · exact ih (State.count5_keeps h _)
      · exact h
    · exact h

theorem State.noteReceived_keeps {a s : State} (h : Keeps a s) : Keeps a (State.noteReceived s) := by
  unfold State.noteReceived
  repeat' first | with_reducible assumption | with_reducible refine Keeps.mk_upd ?_

theorem State.noteFraming_keeps {a s : State} (h : Keeps a s) : Keeps a (State.noteFraming s) := by
  unfold State.noteFraming
  repeat' first | with_reducible assumption | with_reducible refine Keeps.mk_upd ?_

theorem State.takeIn_keeps {a s : State} (h : Keeps a s) (c : Cmd) : Keeps a (State.takeIn s c) := by
  unfold State.takeIn
  repeat' first | with_reducible assumption | with_reducible refine Keeps.mk_upd ?_

theorem State.refuse127_keeps {a s : State} (h : Keeps a s) (ring : Bool) (bcast : Bool) (status : Nat) (h' : List Byte) :
    Keeps a (State.refuse127 s ring bcast status h') := by
  unfold State.refuse127
  try dsimp only
  repeat' first
    | with_reducible assumption | with_reducible apply State.countRefusal_keeps
    | with_reducible apply State.post127_keeps | split

theorem State.enter_keeps {a s : State} (h : Keeps a s) (c : Cmd) : Keeps a (State.enter s c) := by
  unfold State.enter
  try dsimp only
  repeat' first
    | with_reducible assumption | with_reducible apply State.takeIn_keeps | split
    | with_reducible refine Keeps.mk_upd ?_

theorem State.forward_keeps {a s : State} (h : Keeps a s) (c : Cmd) (kind : Nat) (src : Nat) (p : List Byte) :
    Keeps a (State.forward s c kind src p) := by
  unfold State.forward
  try dsimp only
  repeat' first
    | with_reducible assumption | with_reducible apply State.sendFrame_keeps
    | with_reducible refine Keeps.mk_upd ?_

theorem State.stage23_keeps {a s : State} (h : Keeps a s) (c : Cmd) (p : List Byte) : Keeps a (State.stage23 s c p) := by
  unfold State.stage23
  try dsimp only
  repeat' first
    | with_reducible assumption | with_reducible apply State.takeIn_keeps | with_reducible apply State.finish_keeps
    | with_reducible apply State.forward_keeps | with_reducible apply State.enter_keeps | split
    | with_reducible refine Keeps.mk_upd ?_

theorem State.continue__keeps {a s : State} (h : Keeps a s) (c : Cmd) (d : Cmd) (p : List Byte) : Keeps a (State.continue_
    s c d p) := by
  unfold State.continue_
  try dsimp only
  repeat' first
    | with_reducible assumption | with_reducible apply State.forward_keeps | with_reducible apply State.setCmd_keeps
    | split | with_reducible refine Keeps.mk_upd ?_

theorem State.arriveCont_keeps {a s : State} (h : Keeps a s) (ring : Bool) (p : List Byte) :
    Keeps a (State.arriveCont s ring p) := by
  unfold State.arriveCont
  try dsimp only
  repeat' first
    | with_reducible assumption | with_reducible apply State.continue__keeps
    | with_reducible apply State.refuse127_keeps | split | with_reducible refine Keeps.mk_upd ?_

theorem State.arrive_keeps {a s : State} (h : Keeps a s) (ring : Bool) (src : Nat) (bcast : Bool) (p : List Byte) : Keeps
    a (State.arrive s ring src bcast p) := by
  unfold State.arrive
  try dsimp only
  repeat' first
    | with_reducible assumption | with_reducible apply State.noteReceived_keeps
    | with_reducible apply State.noteFraming_keeps | with_reducible apply State.arriveCont_keeps
    | with_reducible apply State.refuse127_keeps | with_reducible apply State.takeIn_keeps
    | with_reducible apply State.finish_keeps | with_reducible apply State.stage23_keeps | split
    | with_reducible refine Keeps.mk_upd ?_

end Sys2Proof.Machine
end

