-- ==== Sys2Proof/Laws/KeepsRows.lean ====
section
/-! SUPPORT. The operations behind the command rows, and the tick of an idle block, stay within `Keeps`.
A lemma reads: if a state keeps what `Keeps` says of an earlier one, the operation's result does too. -/

set_option Elab.async false

namespace Sys2Proof.Machine

theorem State.tripiPulse_keeps {a s : State} (h : Keeps a s) (i : Nat) : Keeps a (State.tripiPulse s i) := by
  unfold State.tripiPulse
  try dsimp only
  repeat' first
    | with_reducible assumption | with_reducible apply State.noteSet_keeps | with_reducible apply State.tripPwm_keeps
    | with_reducible refine Keeps.mk_upd ?_

theorem State.twFinal_keeps {a s : State} (h : Keeps a s) (p : Nat) (q : TwSeq) (result : BitVec 4) (data : BitVec 16) :
    Keeps a (State.twFinal s p q result data) := by
  unfold State.twFinal
  repeat' first
    | with_reducible assumption | with_reducible apply State.endHead_keeps
    | with_reducible apply State.txDone_keeps | split

theorem State.twEnd_keeps {a s : State} (h : Keeps a s) (p : Nat) (q : TwSeq) (result : BitVec 4) (data : BitVec 16) :
    Keeps a (State.twEnd s p q result data) := by
  unfold State.twEnd
  try dsimp only
  repeat' first
    | with_reducible assumption | with_reducible apply State.setTw_keeps | with_reducible apply State.irqTw_keeps
    | with_reducible apply State.twFinal_keeps | with_reducible apply State.endQueue_keeps
    | with_reducible apply State.busyPump_keeps | split | with_reducible refine Keeps.mk_upd ?_

theorem State.beginAnswer_keeps {a s : State} (h : Keeps a s) (p : Nat) : Keeps a (State.beginAnswer s p) := by
  unfold State.beginAnswer
  try dsimp only
  repeat' first
    | with_reducible assumption | with_reducible apply State.setTw_keeps | with_reducible refine Keeps.mk_upd ?_

theorem State.setTo_keeps {a s : State} (h : Keeps a s) (k : Nat) : Keeps a (State.setTo s k) := by
  unfold State.setTo
  repeat' first
    | with_reducible assumption | with_reducible apply State.setEng_keeps
    | with_reducible refine Keeps.mk_upd ?_

theorem State.syncEnd_keeps {a s : State} (h : Keeps a s) (k : Nat) (w : Step64) : Keeps a (State.syncEnd s k w) := by
  unfold State.syncEnd
  try dsimp only
  repeat' first
    | with_reducible assumption | with_reducible apply State.endStep_keeps
    | with_reducible apply State.clearFlags_keeps | split

theorem State.marginPm_keeps {a s : State} (h : Keeps a s) (k : Nat) (n : Nat) (level : Nat) :
    Keeps a (State.marginPm s k n level) := by
  unfold State.marginPm
  try dsimp only
  repeat' first
    | with_reducible assumption | with_reducible apply State.setTw_keeps
    | with_reducible apply State.endStep_keeps | with_reducible apply State.setTo_keeps
    | with_reducible apply State.setPmb_keeps | with_reducible apply State.startSeq_keeps
    | with_reducible apply State.waitIn_keeps | split | with_reducible refine Keeps.mk_upd ?_

theorem State.pwmAct_keeps {a s : State} (h : Keeps a s) (w : Step64) : Keeps a (State.pwmAct s w) := by
  unfold State.pwmAct
  try dsimp only
  repeat' first
    | with_reducible assumption | with_reducible apply State.pwSettle_keeps | with_reducible apply State.stopCh_keeps
    | with_reducible apply State.startCh_keeps | with_reducible apply State.keepShadow_keeps
    | with_reducible apply State.setCh_keeps | with_reducible apply State.setLoadAll_keeps | split
    | with_reducible refine Keeps.mk_upd ?_

theorem State.halt_keeps {a s : State} (h : Keeps a s) (k : Nat) (off : Bool) : Keeps a (State.halt s k off) := by
  unfold State.halt
  try dsimp only
  repeat' first
    | with_reducible assumption | with_reducible apply State.setEng_keeps
    | with_reducible apply State.engineFault_keeps | with_reducible apply State.offRequest_keeps
    | with_reducible apply State.mirror_keeps | with_reducible apply State.endFiring_keeps | split
    | with_reducible refine Keeps.mk_upd ?_

theorem State.marginDone_keeps {a s : State} (h : Keeps a s) (n : Nat) (key : Bool × Nat) :
    Keeps a (State.marginDone s n key) := by
  unfold State.marginDone
  repeat' first
    | with_reducible assumption | with_reducible apply State.finish_keeps | split
    | with_reducible refine Keeps.mk_upd ?_

theorem State.captureHi_keeps {a s : State} (h : Keeps a s) : Keeps a (State.captureHi s) := by
  unfold State.captureHi
  repeat' first | with_reducible assumption | with_reducible refine Keeps.mk_upd ?_

theorem State.crossingReport_keeps {a s : State} (h : Keeps a s) (i : Nat) : Keeps a (State.crossingReport s i) := by
  unfold State.crossingReport
  try dsimp only
  repeat' first
    | with_reducible assumption | with_reducible apply State.noteSet_keeps | with_reducible apply State.irqCk_keeps
    | with_reducible apply State.receiveCause_keeps | split | with_reducible refine Keeps.mk_upd ?_

theorem State.tripNow_keeps {a s : State} (h : Keeps a s) : Keeps a (State.tripNow s) := by
  unfold State.tripNow
  try dsimp only
  repeat' first
    | with_reducible assumption | with_reducible apply State.assertTripo_keeps
    | with_reducible refine Keeps.mk_upd ?_

theorem State.walkRelease_keeps {a s : State} (h : Keeps a s) (mask : Rails) : Keeps a (State.walkRelease s mask) := by
  unfold State.walkRelease
  try dsimp only
  repeat' first
    | with_reducible assumption | with_reducible apply State.enLow_keeps
    | with_reducible refine Keeps.mk_upd ?_

theorem State.walkAct_keeps {a s : State} (h : Keeps a s) (x : Step64) : Keeps a (State.walkAct s x) := by
  unfold State.walkAct
  try dsimp only
  repeat' first
    | with_reducible assumption | with_reducible apply State.trimDischarge_keeps
    | with_reducible apply State.walkRelease_keeps | with_reducible apply State.walkSeek_keeps | split
    | with_reducible refine Keeps.mk_upd ?_

theorem State.walkDue_keeps {a s : State} (h : Keeps a s) (x : Step64) (due : Nat) :
    Keeps a (State.walkDue s x due) := by
  unfold State.walkDue
  repeat' first
    | with_reducible assumption | with_reducible apply State.walkAct_keeps | split
    | with_reducible refine Keeps.mk_upd ?_

theorem State.waitShard_keeps {a s : State} (h : Keeps a s) (x : Step64) : Keeps a (State.waitShard s x) := by
  unfold State.waitShard
  try dsimp only
  repeat' first | with_reducible assumption | with_reducible apply State.capture_keeps

theorem State.noteTimeout_keeps {a s : State} (h : Keeps a s) : Keeps a (State.noteTimeout s) := by
  unfold State.noteTimeout
  repeat' first | with_reducible assumption | with_reducible refine Keeps.mk_upd ?_

theorem State.sweepAll_keeps {a s : State} (h : Keeps a s) : Keeps a (State.sweepAll s) := by
  unfold State.sweepAll
  try dsimp only
  repeat' first
    | with_reducible assumption | with_reducible apply State.walkRelease_keeps
    | with_reducible refine Keeps.mk_upd ?_

theorem State.coolingEnds_keeps {a s : State} (h : Keeps a s) : Keeps a (State.coolingEnds s) := by
  unfold State.coolingEnds
  try dsimp only
  repeat' first
    | with_reducible assumption | with_reducible apply State.irqCt_keeps | with_reducible apply State.goTo_keeps
    | with_reducible apply State.startOffMin_keeps | with_reducible apply State.readyClears_keeps
    | with_reducible apply State.deviceReset_keeps | with_reducible apply State.tryPending_keeps | split
    | with_reducible refine Keeps.mk_upd ?_

theorem State.reducedSweep_keeps {a s : State} (h : Keeps a s) : Keeps a (State.reducedSweep s) := by
  unfold State.reducedSweep
  try dsimp only
  repeat' first
    | with_reducible assumption | with_reducible apply State.trimsOff_keeps
    | with_reducible apply State.sweepAll_keeps | with_reducible refine Keeps.mk_upd ?_

theorem State.reportDrops_keeps {a s : State} (h : Keeps a s) : Keeps a (State.reportDrops s) := by
  unfold State.reportDrops
  try dsimp only
  repeat' first
    | with_reducible assumption | with_reducible apply State.logEvent_keeps | split
    | with_reducible refine Keeps.mk_upd ?_

theorem State.mramUsed_keeps {a s : State} (h : Keeps a s) (copier : Bool) : Keeps a (State.mramUsed s copier) := by
  unfold State.mramUsed
  try dsimp only
  repeat' first | with_reducible assumption | split | with_reducible refine Keeps.mk_upd ?_

theorem State.endWithout_keeps {a s : State} (h : Keeps a s) (c : Copy) : Keeps a (s.endWithout c) :=
  h.mk_upd rfl rfl rfl rfl rfl rfl rfl rfl rfl (by rw [Log.foldl_setEntry_fr]) (by rw [Log.foldl_setEntry_fa])

theorem State.makeSpace_keeps {a s : State} (h : Keeps a s) : Keeps a (State.makeSpace s) := by
  unfold State.makeSpace
  try dsimp only
  repeat' first
    | with_reducible assumption | with_reducible apply State.logEvent_keeps | split
    | with_reducible refine Keeps.mk_upd ?_

theorem State.makeCopy_keeps {a s : State} (h : Keeps a s) (c : Copy) (y : Stored) : Keeps a (s.makeCopy c y) := by
  unfold State.makeCopy
  refine State.archiveLow_keeps ?_ _
  have h1 := State.writeShard_keeps h 1 (c.shard y) (some y.seq) (s.copyWindow c)
  exact h1.mk_upd rfl rfl rfl rfl rfl rfl rfl rfl rfl
    (by rw [Log.foldl_setEntry_fr _ (fun i => i), Log.foldl_setEntry_fr _ (fun i => i)])
    (by rw [Log.foldl_setEntry_fa _ (fun i => i), Log.foldl_setEntry_fa _ (fun i => i)])

theorem State.copyHead_keeps {a s : State} (h : Keeps a s) (c : Copy) (rest : List Copy) :
    Keeps a (s.copyHead c rest) := by
  unfold State.copyHead
  have h1 : Keeps a { s with log := { s.log with copies := rest } } := h.mk_upd
  generalize { s with log := { s.log with copies := rest } } = t at h1 ⊢
  dsimp only
  split
  · refine State.logEvent_keeps (State.endWithout_keeps ?_ _) _ _ _ _
    exact h1.mk_upd rfl rfl rfl rfl rfl rfl rfl rfl rfl (by rw [Log.foldl_setEntry_fr]) (by rw [Log.foldl_setEntry_fa])
  · split
    · exact State.makeCopy_keeps h1 _ _
    · split
      · exact State.makeCopy_keeps (State.makeSpace_keeps h1) _ _
      · exact State.endWithout_keeps h1.mk_upd _

theorem State.countCorrected_keeps {a s : State} (h : Keeps a s) (n : Nat) : Keeps a (State.countCorrected s n) := by
  unfold State.countCorrected
  try dsimp only
  repeat' first | with_reducible assumption | with_reducible refine Keeps.mk_upd ?_

theorem State.rewriteBlock_keeps {a s : State} (h : Keeps a s) (c : Nat) (b : Nat) : Keeps a (State.rewriteBlock s c b) :=
    by
  unfold State.rewriteBlock
  try dsimp only
  repeat' first | with_reducible assumption | split | with_reducible refine Keeps.mk_upd ?_

theorem State.lostWord_keeps {a s : State} (h : Keeps a s) (r : Nat) (p : Nat) (w : BitVec 6) : Keeps a (State.lostWord s
    r p w) := by
  unfold State.lostWord
  try dsimp only
  repeat' first
    | with_reducible assumption | with_reducible apply State.irqLg_keeps | with_reducible apply State.logEvent_keeps
    | with_reducible apply State.rewriteBlock_keeps | split | with_reducible refine Keeps.mk_upd ?_

theorem State.blockRead_keeps {a s : State} (h : Keeps a s) (r : Nat) (p : Nat) (f : BlockRead) : Keeps a (State.blockRead
    s r p f) := by
  unfold State.blockRead
  try dsimp only
  repeat' first
    | with_reducible assumption | with_reducible apply State.lostWord_keeps
    | with_reducible apply State.countCorrected_keeps | with_reducible refine Keeps.foldl _ ?_ (fun u x hu => ?_) | split

theorem State.noteCollapse_keeps {a s : State} (h : Keeps a s) (outcome : BitVec 2) :
    Keeps a (State.noteCollapse s outcome) := by
  unfold State.noteCollapse
  repeat' first | with_reducible assumption | with_reducible refine Keeps.mk_upd ?_

theorem State.collapseReset_keeps {a s : State} (h : Keeps a s) : Keeps a (State.collapseReset s) := by
  unfold State.collapseReset
  try dsimp only
  repeat' first
    | with_reducible assumption | with_reducible apply State.discardSilent_keeps
    | with_reducible apply State.updateHrst_keeps | with_reducible apply State.afterReset_keeps
    | with_reducible refine Keeps.mk_upd ?_

theorem State.collapseLive_keeps {a s : State} (h : Keeps a s) (logDie : Bool) (archive : Bool) : Keeps a
    (State.collapseLive s logDie archive) := by
  unfold State.collapseLive
  try dsimp only
  repeat' first
    | with_reducible assumption | with_reducible apply State.noteCollapse_keeps
    | with_reducible apply State.collapseReset_keeps | with_reducible apply State.endWindows_keeps | split
    | with_reducible refine Keeps.mk_upd ?_

theorem State.collapse_keeps {a s : State} (h : Keeps a s) (logDie : Bool) (archive : Bool) : Keeps a (State.collapse s
    logDie archive) := by
  unfold State.collapse
  try dsimp only
  repeat' first
    | with_reducible assumption | with_reducible apply State.noteCollapse_keeps
    | with_reducible apply State.endWindows_keeps | with_reducible apply State.disable_keeps
    | with_reducible apply State.collapseOutputs_keeps | with_reducible apply State.collapseReset_keeps
    | with_reducible apply State.collapseLive_keeps | split | with_reducible refine Keeps.mk_upd ?_

theorem State.enterOff_keeps {a s : State} (h : Keeps a s) : Keeps a (State.enterOff s) := by
  unfold State.enterOff
  try dsimp only
  repeat' first
    | with_reducible assumption | with_reducible apply State.afterReset_keeps
    | with_reducible apply State.endWindows_keeps | with_reducible refine Keeps.mk_upd ?_

theorem State.commitEnds_keeps {a s : State} (h : Keeps a s) (outcome : BitVec 2) : Keeps a (State.commitEnds s outcome)
    := by
  unfold State.commitEnds
  try dsimp only
  repeat' first
    | with_reducible assumption | with_reducible apply State.enterOff_keeps | with_reducible apply State.leaveStage1_keeps
    | split | with_reducible refine Keeps.mk_upd ?_

theorem State.finishCopy_keeps {a s : State} (h : Keeps a s) : Keeps a (State.finishCopy s) := by
  unfold State.finishCopy
  try dsimp only
  repeat' first
    | with_reducible assumption | with_reducible apply State.copyHead_keeps | split
    | with_reducible refine Keeps.mk_upd ?_

theorem State.commitList_keeps {a s : State} (h : Keeps a s) (l : List Shard) (open_ : Bool) :
    Keeps a (State.commitList s l open_) := by
  unfold State.commitList
  try dsimp only
  repeat' first
    | with_reducible assumption | with_reducible apply State.endWindows_keeps
    | with_reducible apply State.commitFr_keeps | with_reducible refine Keeps.foldl _ ?_ (fun u x hu => ?_) | split

theorem State.cutWrite_keeps {a s : State} (h : Keeps a s) (r : Nat) (y : Stored) (words : Nat) :
    Keeps a (s.cutWrite r y words) := by
  unfold State.cutWrite
  dsimp only
  split
  · exact h
  · exact State.setRegion_keeps h r _ (fun hw => Tab.wf_insert hw _ _)

theorem State.cutShard_keeps {a s : State} (h : Keeps a s) (x : Shard) (words : Nat) : Keeps a (s.cutShard x words) := by
  unfold State.cutShard
  exact State.setRegion_keeps (State.cutWrite_keeps (State.skipTorn_keeps h _ _) _ _ _) _ _ (fun e => e)

theorem State.cutCopy_keeps {a s : State} (h : Keeps a s) (words : Nat) : Keeps a (State.cutCopy s words) := by
  unfold State.cutCopy
  try dsimp only
  repeat' first
    | with_reducible assumption | with_reducible apply State.cutWrite_keeps | split
    | with_reducible refine Keeps.mk_upd ?_

theorem State.stageLate_keeps {a s : State} (h : Keeps a s) : Keeps a (State.stageLate s) := by
  unfold State.stageLate
  try dsimp only
  repeat' first
    | with_reducible assumption | with_reducible apply State.startFail_keeps
    | with_reducible apply State.leaveStage1_keeps | with_reducible apply State.takeFree_keeps | split
    | with_reducible refine Keeps.mk_upd ?_

theorem State.samplePins_keeps {a s : State} (h : Keeps a s) (r : StageResult) : Keeps a (State.samplePins s r) := by
  unfold State.samplePins
  try dsimp only
  repeat' first | with_reducible assumption | with_reducible refine Keeps.mk_upd ?_

theorem State.loadCopy_keeps {a s : State} (h : Keeps a s) (c : SgCopy) (hc : s.tablesOk = true → c.part.storeOk = true) :
    Keeps a (s.loadCopy c) := by
  unfold State.loadCopy
  have ht := State.loadPart_keeps h c.part hc
  have hx := h.tables
  generalize s.loadPart c.part = t at ht ⊢
  dsimp only
  refine ⟨ht.pending, ht.ident, ht.now, ht.free, ht.counters, fun y => ?_, ht.units⟩
  have hs := hc (hx y)
  have hy := ht.tables y
  simp only [State.tablesOk, Bool.and_eq_true] at hy ⊢
  obtain ⟨hy, -⟩ := hy
  exact ⟨hy, by simp only [Sec.copiesOk, Bool.and_eq_true]; exact ⟨hs, hs⟩⟩

/-- The copies that stage 1 may load are those of the store. -/
theorem State.goodCopies_ok {s : State} (r : StageResult) (hs : s.tablesOk = true) :
    (∀ c, (s.goodCopies r).1 = some c → c.part.storeOk = true) ∧ ∀ c, (s.goodCopies r).2 = some c → c.part.storeOk = true := by
  simp only [State.tablesOk, Sec.copiesOk, Bool.and_eq_true] at hs
  obtain ⟨-, ha, hb⟩ := hs
  unfold State.goodCopies
  dsimp only
  refine ⟨fun c hc => ?_, fun c hc => ?_⟩
  · rw [Option.ite_none_right_eq_some] at hc
    cases hc.2
    split <;> assumption
  · rw [Option.ite_none_right_eq_some] at hc
    cases hc.2
    split <;> assumption

theorem State.stage1Work_keeps {a s : State} (h : Keeps a s) (r : StageResult) : Keeps a (s.stage1Work r) := by
  unfold State.stage1Work
  have h1 := State.samplePins_keeps h r
  generalize s.samplePins r = u at h1 ⊢
  dsimp only
  split
  · next c x e =>
    exact State.leaveStage1_keeps (State.loadCopy_keeps h1 c fun hu => (State.goodCopies_ok r hu).1 c (by rw [e]))
  · next c e =>
    exact State.leaveStage1_keeps (State.loadCopy_keeps h1.mk_upd c fun hu => (State.goodCopies_ok (s := u) r hu).2 c (by rw [e]))
  · exact State.leaveStage1_keeps (State.startFail_keeps h1 _ _)

theorem State.stage2Work_keeps {a s : State} (h : Keeps a s) (r : StageResult) : Keeps a (State.stage2Work s r) := by
  unfold State.stage2Work
  try dsimp only
  repeat' first
    | with_reducible assumption | with_reducible apply State.pllStart_keeps | split
    | with_reducible refine Keeps.mk_upd ?_

theorem State.aonTimeBase_keeps {a s : State} (h : Keeps a s) : Keeps a (State.aonTimeBase s) := by
  unfold State.aonTimeBase
  try dsimp only
  repeat' first
    | with_reducible assumption | with_reducible apply State.secondReached_keeps | split
    | with_reducible refine Keeps.mk_upd ?_

theorem State.stage3Work_keeps {a s : State} (h : Keeps a s) (r : StageResult) : Keeps a (State.stage3Work s r) := by
  unfold State.stage3Work
  try dsimp only
  repeat' first
    | with_reducible assumption | with_reducible apply State.aonTimeBase_keeps
    | with_reducible apply State.startFail_keeps | with_reducible apply State.examineLog_keeps
    | with_reducible apply State.setTimeBase_keeps | with_reducible apply State.configLoaded_keeps | split
    | with_reducible refine Keeps.mk_upd ?_

theorem State.stage4Work_keeps {a s : State} (h : Keeps a s) (r : StageResult) : Keeps a (State.stage4Work s r) := by
  unfold State.stage4Work
  try dsimp only
  repeat' first
    | with_reducible assumption | with_reducible apply State.failCmps_keeps | with_reducible apply State.startFail_keeps
    | with_reducible apply State.beginStage5_keeps | split

theorem State.arming_keeps {a s : State} (h : Keeps a s) (r : StageResult) : Keeps a (State.arming s r) := by
  unfold State.arming
  try dsimp only
  repeat' first
    | with_reducible assumption | with_reducible apply State.senseChange_keeps
    | with_reducible apply State.observe_keeps | with_reducible apply State.takeReading_keeps
    | with_reducible refine Keeps.foldl _ ?_ (fun u x hu => ?_) | with_reducible refine Keeps.mk_upd ?_

theorem State.wakeFallback_keeps {a s : State} (h : Keeps a s) : Keeps a (State.wakeFallback s) := by
  unfold State.wakeFallback
  try dsimp only
  repeat' first
    | with_reducible assumption | with_reducible apply State.updateHrst_keeps | with_reducible refine Keeps.mk_upd ?_

theorem State.shortPulses_keeps {a s : State} (h : Keeps a s) (onreq : Nat) (mr : Nat) : Keeps a (State.shortPulses s
    onreq mr) := by
  unfold State.shortPulses
  try dsimp only
  repeat' first | with_reducible assumption | with_reducible refine Keeps.mk_upd ?_

theorem State.vinBack_keeps {a s : State} (h : Keeps a s) (b : Bool) : Keeps a (State.vinBack s b) := by
  unfold State.vinBack
  try dsimp only
  repeat' first | with_reducible assumption | split | with_reducible refine Keeps.mk_upd ?_

theorem State.takeSeen_keeps {a s : State} (h : Keeps a s) (x : Seen) : Keeps a (State.takeSeen s x) := by
  unfold State.takeSeen
  try dsimp only
  repeat' first
    | with_reducible assumption | with_reducible apply State.shortPulses_keeps | with_reducible apply State.gated_keeps
    | with_reducible apply State.overflowed_keeps | with_reducible apply State.symbolErrors_keeps
    | with_reducible apply State.compliance_keeps | with_reducible apply State.foreignStarts_keeps

theorem State.setPb_keeps {a s : State} (h : Keeps a s) (m : PbMode) (pressed : Bool) (held : Nat) :
    Keeps a (State.setPb s m pressed held) := by
  unfold State.setPb
  repeat' first | with_reducible assumption | with_reducible refine Keeps.mk_upd ?_

theorem State.shortPress_keeps {a s : State} (h : Keeps a s) (tick : Nat) : Keeps a (State.shortPress s tick) := by
  unfold State.shortPress
  try dsimp only
  repeat' first
    | with_reducible assumption | with_reducible apply State.onArises_keeps | with_reducible apply State.mirror_keeps
    | with_reducible apply State.offRequest_keeps | split | with_reducible refine Keeps.mk_upd ?_

theorem State.senseFault_keeps {a s : State} (h : Keeps a s) (f : FaultRec) : Keeps a (State.senseFault s f) := by
  unfold State.senseFault
  repeat' first | with_reducible assumption | with_reducible apply State.receive_keeps | split

theorem State.release_keeps {a s : State} (h : Keeps a s) (old : State) (src : Nat) :
    Keeps a (State.release s old src) := by
  unfold State.release
  repeat' first
    | with_reducible assumption | with_reducible apply State.senseChange_keeps
    | with_reducible apply State.reeval_keeps

theorem State.endTest_keeps {a s : State} (h : Keeps a s) : Keeps a (State.endTest s) := by
  unfold State.endTest
  repeat' first | with_reducible assumption | with_reducible refine Keeps.mk_upd ?_

theorem State.syncEdge_keeps {a s : State} (h : Keeps a s) (src : Nat) : Keeps a (State.syncEdge s src) := by
  unfold State.syncEdge
  try dsimp only
  repeat' first
    | with_reducible assumption | with_reducible apply State.setCmp_keeps | split
    | with_reducible refine Keeps.mk_upd ?_

theorem State.beginTest_keeps {a s : State} (h : Keeps a s) (src : Nat) : Keeps a (State.beginTest s src) := by
  unfold State.beginTest
  try dsimp only
  repeat' first
    | with_reducible assumption | with_reducible apply State.setCmp_keeps
    | with_reducible refine Keeps.mk_upd ?_

theorem State.skipTest_keeps {a s : State} (h : Keeps a s) (src : Nat) : Keeps a (State.skipTest s src) := by
  unfold State.skipTest
  try dsimp only
  repeat' first
    | with_reducible assumption | with_reducible apply State.setCmp_keeps
    | with_reducible apply State.senseFault_keeps | split | with_reducible refine Keeps.mk_upd ?_

theorem State.nextSlot_keeps {a s : State} (h : Keeps a s) (due : Nat) : Keeps a (State.nextSlot s due) := by
  unfold State.nextSlot
  try dsimp only
  repeat' first | with_reducible assumption | split | with_reducible refine Keeps.mk_upd ?_

theorem State.restoreTest_keeps {a s : State} (h : Keeps a s) (src : Nat) (wrong : Bool) :
    Keeps a (State.restoreTest s src wrong) := by
  unfold State.restoreTest
  try dsimp only
  repeat' first
    | with_reducible assumption | with_reducible apply State.endTest_keeps
    | with_reducible apply State.senseChange_keeps | with_reducible apply State.setCmp_keeps
    | with_reducible apply State.startSettle_keeps | split | with_reducible refine Keeps.mk_upd ?_

theorem State.served_keeps {a s : State} (h : Keeps a s) (x : Conv) (code : BitVec 16) :
    Keeps a (State.served s x code) := by
  unfold State.served
  try dsimp only
  repeat' first
    | with_reducible assumption | with_reducible apply State.groupDone_keeps
    | with_reducible apply State.setGroup_keeps | with_reducible apply State.sweepTake_keeps | split
    | with_reducible refine Keeps.mk_upd ?_

theorem State.convDone_keeps {a s : State} (h : Keeps a s) (c : Nat) (x : Conv) (raw : BitVec 16) : Keeps a
    (State.convDone s c x raw) := by
  unfold State.convDone
  try dsimp only
  repeat' first
    | with_reducible assumption | with_reducible apply State.till_keeps | with_reducible apply State.openGroups_keeps
    | with_reducible apply State.takeReading_keeps | with_reducible apply State.served_keeps
    | with_reducible apply State.assign_keeps | with_reducible refine Keeps.mk_upd ?_

theorem State.unblock_keeps {a s : State} (h : Keeps a s) : Keeps a (State.unblock s) := by
  unfold State.unblock
  repeat' first
    | with_reducible assumption | with_reducible apply State.tryPending_keeps
    | with_reducible apply State.found_keeps | split

theorem State.beginPoint_keeps {a s : State} (h : Keeps a s) (n : Nat) (p : Nat) :
    Keeps a (State.beginPoint s n p) := by
  unfold State.beginPoint
  try dsimp only
  repeat' first
    | with_reducible assumption | with_reducible apply State.applyTrim_keeps
    | with_reducible refine Keeps.mk_upd ?_

theorem State.pointDone_keeps {a s : State} (h : Keeps a s) (n : Nat) : Keeps a (s.pointDone n) :=
  h.mk_gen le_rfl (Nat.le_add_right _ 3) (fun _ => le_rfl) id id id id id id id id id id id

theorem State.clockOut_keeps {a s : State} (h : Keeps a s) (l : List Byte) : Keeps a (State.clockOut s l) := by
  unfold State.clockOut
  repeat' first | with_reducible assumption | with_reducible refine Keeps.mk_upd ?_

theorem State.noteOverrun_keeps {a s : State} (h : Keeps a s) : Keeps a (State.noteOverrun s) := by
  unfold State.noteOverrun
  repeat' first | with_reducible assumption | with_reducible refine Keeps.mk_upd ?_

theorem State.resetLeft_keeps {a s : State} (h : Keeps a s) (r : Reply) : Keeps a (State.resetLeft s r) := by
  unfold State.resetLeft
  try dsimp only
  repeat' first | with_reducible assumption | split | with_reducible refine Keeps.mk_upd ?_

theorem State.dropFwd_keeps {a s : State} (h : Keeps a s) (tag : Nat) : Keeps a (State.dropFwd s tag) := by
  unfold State.dropFwd
  repeat' first | with_reducible assumption | with_reducible refine Keeps.mk_upd ?_

theorem State.execute_keeps {a s : State} (h : Keeps a s) (op : Nat) (f : Cmd → State) (hf : ∀ c, Keeps a (f c)) :
    Keeps a (State.execute s op f) := by
  unfold State.execute
  repeat' first
    | with_reducible assumption | apply hf | with_reducible apply State.finish_keeps | split
    | with_reducible refine Keeps.mk_upd ?_

theorem State.ok_keeps {a s : State} (h : Keeps a s) (c : Cmd) (payload : List Byte) :
    Keeps a (State.ok s c payload) := by
  unfold State.ok
  repeat' first | with_reducible assumption | with_reducible apply State.finish_keeps

theorem State.refuse_keeps {a s : State} (h : Keeps a s) (c : Cmd) (status : Nat) :
    Keeps a (State.refuse s c status) := by
  unfold State.refuse
  repeat' first | with_reducible assumption | with_reducible apply State.finish_keeps

theorem State.afterRead_keeps {a s : State} (h : Keeps a s) (a' : Nat) (n : Nat) :
    Keeps a (State.afterRead s a' n) := by
  unfold State.afterRead
  try dsimp only
  repeat' first
    | with_reducible assumption | with_reducible apply State.captureHi_keeps | split
    | with_reducible refine Keeps.mk_upd ?_

theorem State.logBlocks_keeps {a s : State} (h : Keeps a s) (p : List Byte) (found : List BlockRead) : Keeps a
    (State.logBlocks s p found) := by
  unfold State.logBlocks
  try dsimp only
  repeat' first
    | with_reducible assumption | with_reducible apply State.blockRead_keeps
    | with_reducible refine Keeps.foldl _ ?_ (fun u x hu => ?_) | split

theorem State.cfgShard_keeps {a s : State} (h : Keeps a s) (c : Cmd) (object : Nat) (before : Digest) (after : Digest) :
    Keeps a (State.cfgShard s c object before after) := by
  unfold State.cfgShard
  repeat' first | with_reducible assumption | with_reducible apply State.capture_keeps

theorem State.imageShard_keeps {a s : State} (h : Keeps a s) (old : State) (c : Cmd) (object : Nat) :
    Keeps a (State.imageShard s old c object) := by
  unfold State.imageShard
  repeat' first | with_reducible assumption | with_reducible apply State.cfgShard_keeps

theorem State.confirmFails_keeps {a s : State} (h : Keeps a s) (c : Cmd) : Keeps a (State.confirmFails s c) := by
  unfold State.confirmFails
  repeat' first
    | with_reducible assumption | with_reducible apply State.refuse_keeps
    | with_reducible refine Keeps.mk_upd ?_

theorem State.confirmed_keeps {a s : State} (h : Keeps a s) (c : Cmd) (needed : Bool) (confirm : Confirm) (f : State) (hf : Keeps a f) :
    Keeps a (State.confirmed s c needed confirm f) := by
  unfold State.confirmed
  repeat' first | with_reducible assumption | apply hf | with_reducible apply State.confirmFails_keeps | split

theorem State.doWords_keeps {a s : State} (h : Keeps a s) (c : Cmd) (l : List (Nat × Word)) :
    Keeps a (s.doWords c l) := by
  unfold State.doWords
  have h1 := State.writeAll_keeps h l
  generalize s.writeAll l = e at h1 ⊢
  have h2 : Keeps a (if changedCfg e.2 then e.1.newImage else e.1) := (State.newImage_keeps h1).ite h1
  dsimp only
  generalize (if changedCfg e.2 then e.1.newImage else e.1) = t at h2 ⊢
  refine State.writesFollow_keeps ?_ _
  split
  · exact State.ok_keeps h2 _ _
  · exact State.ok_keeps (State.imageShard_keeps h2 _ _ _) _ _

theorem State.writeRegs_keeps {a s : State} (h : Keeps a s) (c : Cmd) (k : Carrier) (confirm : Confirm) : Keeps a
    (State.writeRegs s c k confirm) := by
  unfold State.writeRegs
  try dsimp only
  repeat' first
    | with_reducible assumption | with_reducible apply State.countRefused_keeps | with_reducible apply State.refuse_keeps
    | with_reducible apply State.confirmed_keeps | with_reducible apply State.doWords_keeps | split
    | with_reducible refine Keeps.mk_upd ?_

theorem State.onAccepted_keeps {a s : State} (h : Keeps a s) (c : Cmd) : Keeps a (State.onAccepted s c) := by
  unfold State.onAccepted
  try dsimp only
  repeat' first
    | with_reducible assumption | with_reducible apply State.ok_keeps | with_reducible apply State.onArises_keeps
    | with_reducible apply State.mirror_keeps | with_reducible apply State.refuse_keeps | split

theorem State.clearLatch_keeps {a s : State} (h : Keeps a s) : Keeps a (State.clearLatch s) := by
  unfold State.clearLatch
  try dsimp only
  repeat' first
    | with_reducible assumption | with_reducible apply State.releaseTrips_keeps | with_reducible refine Keeps.mk_upd ?_

theorem State.onreqLevel_keeps {a s : State} (h : Keeps a s) : Keeps a (State.onreqLevel s) := by
  unfold State.onreqLevel
  try dsimp only
  repeat' first | with_reducible assumption | with_reducible apply State.onArises_keeps | split

theorem State.marginPmbus_keeps {a s : State} (h : Keeps a s) (c : Cmd) (n : Nat) (level : Nat) :
    Keeps a (State.marginPmbus s c n level) := by
  unfold State.marginPmbus
  try dsimp only
  repeat' first
    | with_reducible assumption | with_reducible apply State.refuse_keeps
    | with_reducible apply State.setTw_keeps | with_reducible apply State.setPmb_keeps
    | with_reducible apply State.ok_keeps | with_reducible apply State.startSeq_keeps
    | with_reducible apply State.accept_keeps | split | with_reducible refine Keeps.mk_upd ?_

theorem State.diesOff_keeps {a s : State} (h : Keeps a s) : Keeps a s.diesOff :=
  h.mk_gen le_rfl le_rfl (fun _ => le_rfl) id id id id id (fun x => Tab.wf_filter (Tab.wf_mapVal x _) _) id id id id id
    (g4 := fun x => by simpa [Clk.powerDown] using x)

theorem State.enterStandby_keeps {a s : State} (h : Keeps a s) : Keeps a (State.enterStandby s) := by
  unfold State.enterStandby
  try dsimp only
  repeat' first
    | with_reducible assumption | with_reducible apply State.goTo_keeps | with_reducible apply State.flushBuffer_keeps
    | with_reducible apply State.diesOff_keeps | with_reducible apply State.quietDown_keeps

theorem State.awaitReset_keeps {a s : State} (h : Keeps a s) : Keeps a (State.awaitReset s) := by
  unfold State.awaitReset
  try dsimp only
  repeat' first | with_reducible assumption | with_reducible refine Keeps.mk_upd ?_

theorem State.drainTo_keeps {a s : State} (h : Keeps a s) (signers : Byte) (n : Nat) :
    Keeps a (State.drainTo s signers n) := by
  unfold State.drainTo
  repeat' first
    | with_reducible assumption | with_reducible apply State.capture_keeps
    | with_reducible refine Keeps.mk_upd ?_

theorem State.setTime_keeps {a s : State} (h : Keeps a s) (v : Nat) : Keeps a (State.setTime s v) := by
  unfold State.setTime
  try dsimp only
  repeat' first
    | with_reducible assumption | with_reducible apply State.irqCk_keeps
    | with_reducible apply State.stepTo_keeps | split | with_reducible refine Keeps.mk_upd ?_

theorem State.refuseRow_keeps {a s : State} (h : Keeps a s) (cls addr : Nat) (value : Word) (status : Nat) :
    Keeps a (s.refuseRow cls addr value status) :=
  (State.refusalEffects_keeps (State.countRefused_keeps h _ _ _) _ _).addFree 3

theorem State.writeSigned_keeps {a s : State} (h : Keeps a s) (cls : Nat) (addr : Nat) (value : Word) : Keeps a
    (State.writeSigned s cls addr value) := by
  unfold State.writeSigned
  try dsimp only
  repeat' first
    | with_reducible assumption | with_reducible apply State.writeLive_keeps | with_reducible apply State.capture_keeps
    | with_reducible apply State.takeFree_keeps | split

theorem State.writeRow_keeps {a s : State} (h : Keeps a s) (cls : Nat) (addr : Nat) (value : Word) (confirm : Bool) :
    Keeps a (State.writeRow s cls addr value confirm) := by
  unfold State.writeRow
  try dsimp only
  repeat' first
    | with_reducible assumption | with_reducible apply State.countRefusal_keeps
    | with_reducible apply State.refuseRow_keeps | with_reducible apply State.writeSigned_keeps | split
    | with_reducible refine Keeps.mk_upd ?_

/-- Program words written one after another keep a store in canonical form. -/
theorem store_foldl_put (l : List (Nat × Step64)) {t : Tab Step64} (h : Tab.wf t = true) :
    Tab.wf (l.foldl (fun t e => Tab.put 0 t e.1 e.2) t) = true :=
  Tab.wf_foldl _ (fun _ _ hc => Tab.wf_put hc _ _ _) l h

theorem store_foldl_sparse (l : List (Nat × Step64)) {t : Tab Step64} (h : Tab.sparse 0 t = true) :
    Tab.sparse 0 (l.foldl (fun t e => Tab.put 0 t e.1 e.2) t) = true := by
  induction l generalizing t with
  | nil => exact h
  | cons e l ih => exact ih (Tab.sparse_put h _ _)

theorem State.loadSteps_keeps {a s : State} (h : Keeps a s) (l : List (Nat × Step64)) : Keeps a (s.loadSteps l) :=
  h.mk_gen le_rfl le_rfl (fun _ => le_rfl) id id id (store_foldl_put l) id id id id id (store_foldl_sparse l) id

theorem State.noteLoad_keeps {a s : State} (h : Keeps a s) (reason : Nat) (addr : Nat) :
    Keeps a (State.noteLoad s reason addr) := by
  unfold State.noteLoad
  try dsimp only
  repeat' first
    | with_reducible assumption | with_reducible apply State.takeFree_keeps | split
    | with_reducible refine Keeps.mk_upd ?_

theorem State.programLoad_keeps {a s : State} (h : Keeps a s) (c : Cmd) (l : List (Nat × Step64)) :
    Keeps a (State.programLoad s c l) := by
  unfold State.programLoad
  try dsimp only
  repeat' first
    | with_reducible assumption | with_reducible apply State.newImage_keeps
    | with_reducible apply State.loadSteps_keeps | with_reducible apply State.ok_keeps
    | with_reducible apply State.imageShard_keeps

theorem State.putTable_keeps {a s : State} (h : Keeps a s) (c : Nat) (t : CoolTable) :
    Keeps a (State.putTable s c t) := by
  unfold State.putTable
  repeat' first | with_reducible assumption | with_reducible refine Keeps.mk_upd ?_

theorem State.tableLoad_keeps {a s : State} (h : Keeps a s) (c : Cmd) (n : Nat) (x : CoolTable) :
    Keeps a (State.tableLoad s c n x) := by
  unfold State.tableLoad
  try dsimp only
  repeat' first
    | with_reducible assumption | with_reducible apply State.newImage_keeps
    | with_reducible apply State.putTable_keeps | with_reducible apply State.ok_keeps
    | with_reducible apply State.imageShard_keeps

theorem State.clearBisque_keeps {a s : State} (h : Keeps a s) : Keeps a (State.clearBisque s) := by
  unfold State.clearBisque
  try dsimp only
  repeat' first | with_reducible assumption | with_reducible refine Keeps.mk_upd ?_

theorem State.noteHorn_keeps {a s : State} (h : Keeps a s) (p : Link) (orig : Nat) (seq : Nat) (received : Bool) :
    Keeps a (State.noteHorn s p orig seq received) := by
  unfold State.noteHorn
  repeat' first | with_reducible assumption | with_reducible refine Keeps.mk_upd ?_

theorem State.matchStop_keeps {a s : State} (h : Keeps a s) (horn : Bool) : Keeps a (State.matchStop s horn) := by
  unfold State.matchStop
  try dsimp only
  repeat' first | with_reducible assumption | with_reducible refine Keeps.mk_upd ?_

theorem State.noteStop_keeps {a s : State} (h : Keeps a s) (horn : Bool) : Keeps a (State.noteStop s horn) := by
  unfold State.noteStop
  try dsimp only
  repeat' first | with_reducible assumption | with_reducible refine Keeps.mk_upd ?_

theorem State.takeHorn_keeps {a s : State} (h : Keeps a s) (orig : Nat) (seq : Nat) : Keeps a (State.takeHorn s orig seq)
    := by
  unfold State.takeHorn
  try dsimp only
  repeat' first
    | with_reducible assumption | with_reducible apply State.irqGl_keeps | with_reducible apply State.matchStop_keeps
    | with_reducible apply State.noteStop_keeps | with_reducible apply State.receiveCause_keeps | split
    | with_reducible refine Keeps.mk_upd ?_

theorem State.hornReaches_keeps {a s : State} (h : Keeps a s) (p : Link) (orig : Nat) (seq : Nat) :
    Keeps a (State.hornReaches s p orig seq) := by
  unfold State.hornReaches
  try dsimp only
  repeat' first
    | with_reducible assumption | with_reducible apply State.noteHorn_keeps
    | with_reducible apply State.takeHorn_keeps | split | with_reducible refine Keeps.mk_upd ?_

theorem State.passHorn_keeps {a s : State} (h : Keeps a s) (p : Link) (orig : Nat) (seq : Nat) :
    Keeps a (State.passHorn s p orig seq) := by
  unfold State.passHorn
  try dsimp only
  repeat' first
    | with_reducible assumption | with_reducible apply State.sendHorn_keeps
    | with_reducible apply State.noteHorn_keeps | with_reducible refine Keeps.mk_upd ?_

theorem State.noteFrame_keeps {z s : State} (h : Keeps z s) (a : Arrival) : Keeps z (State.noteFrame s a) := by
  unfold State.noteFrame
  try dsimp only
  repeat' first | with_reducible assumption | with_reducible refine Keeps.mk_upd ?_

theorem State.dropNote_keeps {z s : State} (h : Keeps z s) (a : Arrival) : Keeps z (State.dropNote s a) := by
  unfold State.dropNote
  try dsimp only
  repeat' first | with_reducible assumption | with_reducible refine Keeps.mk_upd ?_

theorem State.setLink_keeps {a s : State} (h : Keeps a s) (p : Link) (f : GLink → GLink) :
    Keeps a (State.setLink s p f) := by
  unfold State.setLink
  repeat' first | with_reducible assumption | split | with_reducible refine Keeps.mk_upd ?_

theorem State.passFrame_keeps {a s : State} (h : Keeps a s) (a' : Arrival) (f : Frame) :
    Keeps a (State.passFrame s a' f) := by
  unfold State.passFrame
  repeat' first
    | with_reducible assumption | with_reducible apply State.setLink_keeps
    | with_reducible apply State.sendAs_keeps | split | with_reducible refine Keeps.mk_upd ?_

theorem State.meet_keeps {a s : State} (h : Keeps a s) (a' : Arrival) : Keeps a (State.meet s a') := by
  unfold State.meet
  try dsimp only
  repeat' first
    | with_reducible assumption | with_reducible apply State.setLink_keeps
    | with_reducible apply State.hornReaches_keeps | split | with_reducible refine Keeps.mk_upd ?_

theorem State.pass_keeps {a s : State} (h : Keeps a s) (a' : Arrival) : Keeps a (State.pass s a') := by
  unfold State.pass
  try dsimp only
  repeat' first
    | with_reducible assumption | with_reducible apply State.meet_keeps
    | with_reducible apply State.passFrame_keeps | split

theorem State.passAgain_keeps {a s : State} (h : Keeps a s) (a' : Arrival) : Keeps a (State.passAgain s a') := by
  unfold State.passAgain
  try dsimp only
  repeat' first
    | with_reducible assumption | with_reducible apply State.meet_keeps
    | with_reducible apply State.sendAs_keeps | split

theorem State.becomeFenced_keeps {a s : State} (h : Keeps a s) : Keeps a (State.becomeFenced s) := by
  unfold State.becomeFenced
  try dsimp only
  repeat' first
    | with_reducible assumption | with_reducible apply State.endSeqs_keeps
    | with_reducible apply State.recordDiscard_keeps | with_reducible apply State.irqGl_keeps | split
    | with_reducible refine Keeps.mk_upd ?_

theorem State.becomeAdmitted_keeps {a s : State} (h : Keeps a s) : Keeps a (State.becomeAdmitted s) := by
  unfold State.becomeAdmitted
  try dsimp only
  repeat' first | with_reducible assumption | split | with_reducible refine Keeps.mk_upd ?_

theorem State.standing_keeps {a s : State} (h : Keeps a s) : Keeps a (State.standing s) := by
  unfold State.standing
  try dsimp only
  repeat' first
    | with_reducible assumption | with_reducible apply State.becomeFenced_keeps
    | with_reducible apply State.becomeAdmitted_keeps | split | with_reducible refine Keeps.mk_upd ?_

theorem State.sendJoin_keeps {a s : State} (h : Keeps a s) : Keeps a (State.sendJoin s) := by
  unfold State.sendJoin
  try dsimp only
  repeat' first
    | with_reducible assumption | with_reducible apply State.sendFrame_keeps | with_reducible refine Keeps.mk_upd ?_

theorem State.ownerChanged_keeps {a s : State} (h : Keeps a s) (c : Cmd) : Keeps a (State.ownerChanged s c) := by
  unfold State.ownerChanged
  try dsimp only
  repeat' first
    | with_reducible assumption | with_reducible apply State.becomeFenced_keeps | split
    | with_reducible refine Keeps.mk_upd ?_

theorem State.enterConflict_keeps {a s : State} (h : Keeps a s) : Keeps a (State.enterConflict s) := by
  unfold State.enterConflict
  repeat' first
    | with_reducible assumption | with_reducible apply State.irqGl_keeps | split
    | with_reducible refine Keeps.mk_upd ?_

theorem State.meetRoot_keeps {a s : State} (h : Keeps a s) (other : Nat) : Keeps a (State.meetRoot s other) := by
  unfold State.meetRoot
  try dsimp only
  repeat' first
    | with_reducible assumption | with_reducible apply State.enterConflict_keeps
    | with_reducible apply State.sendFrame_keeps | split

theorem State.imageSafety_keeps {a s : State} (h : Keeps a s) (x : ImageParts) : Keeps a (State.imageSafety s x) := by
  unfold State.imageSafety
  try dsimp only
  repeat' first
    | with_reducible assumption | with_reducible apply State.putCfg_keeps | split
    | with_reducible refine Keeps.mk_upd ?_

/-- A store made from a list of steps is in canonical form. -/
theorem storeOf_wf (l : List Step64) : Tab.wf (storeOf l) = true := by
  refine Tab.wf_filter ?_ _
  rw [Tab.wf_iff]
  have : (l.mapIdx (fun i w => (i, w))).map Prod.fst = List.range l.length := by
    apply List.ext_getElem <;> simp
  rw [this]
  exact List.pairwise_lt_range

theorem storeOf_sparse (l : List Step64) : Tab.sparse 0 (storeOf l) = true := by
  simp only [Tab.sparse, storeOf, List.all_eq_true, decide_eq_true_eq]
  intro e he
  simpa using (List.mem_filter.1 he).2

theorem State.imageContent_keeps {a s : State} (h : Keeps a s) (x : ImageParts) : Keeps a (s.imageContent x) := by
  unfold State.imageContent
  generalize cfgRegs = l
  have put : ∀ (u : State) (n : Nat) (v : Word), Keeps a u → Keeps a (match regAt n with | some r => u.putCfg r v | none => u) := by
    intro u n v hu
    split
    · exact State.putCfg_keeps hu _ _
    · exact hu
  have h1 := put _ 0xF00004 x.sgWdog (put _ 0xF00000 x.sgCfg (Keeps.foldl l (State.imageSafety_keeps (State.pwSettle_keeps h) x)
    (f := fun (u : State) r => u.putCfg r (((x.regs.find? (fun e => e.1 == r.addr)).map Prod.snd).getD 0
      ||| ((x.held.find? (fun e => e.1 == r.addr)).map Prod.snd).getD 0)) (fun u r hu => State.putCfg_keeps hu _ _)))
  exact h1.mk_gen le_rfl le_rfl (fun _ => le_rfl) id id id (fun _ => storeOf_wf _) (fun _ => storeOf_wf _) id id id id
    (fun _ => storeOf_sparse _) (fun _ => storeOf_sparse _)

theorem State.execute3_keeps {a s : State} (h : Keeps a s) (op : Nat) (f : Cmd → State) (hf : ∀ c, Keeps a (f c)) :
    Keeps a (s.execute3 op f) :=
  State.execute_keeps h op _ (fun c => (State.refuse_keeps h c _).ite (hf c))

theorem State.spoil_keeps {a s : State} (h : Keeps a s) (slots : List Nat) : Keeps a (State.spoil s slots) := by
  unfold State.spoil
  try dsimp only
  repeat' first | with_reducible assumption | split | with_reducible refine Keeps.mk_upd ?_

/-- A key-table command is put in force within the relation where no held counter falls and no slot is lost. -/
theorem State.keysInForce_keeps {a s : State} (h : Keeps a s) (c : Cmd) (object : Nat) (x : Sec) (slots : List Nat)
    (hx : ∀ i, (nth s.sec.slots i {}).counter ≤ (nth x.slots i {}).counter)
    (hl : s.sec.slots.length = 8 → x.slots.length = 8) : Keeps a (s.keysInForce c object x slots) :=
  State.ok_keeps (State.cfgShard_keeps (State.spoil_keeps (State.putSec_keeps h x hx hl) _) _ _ _ _) _ _

theorem State.decommissionShard_keeps {a s : State} (h : Keeps a s) (c : Cmd) :
    Keeps a (State.decommissionShard s c) := by
  unfold State.decommissionShard
  try dsimp only
  repeat' first
    | with_reducible assumption | with_reducible apply State.capture_keeps
    | with_reducible apply State.commitFr_keeps | split

theorem State.loadSgSteps_keeps {a s : State} (h : Keeps a s) (l : List (Nat × Step64)) : Keeps a (s.loadSgSteps l) :=
  h.mk_gen le_rfl le_rfl (fun _ => le_rfl) id id id id (store_foldl_put l) id id id id id (store_foldl_sparse l)

theorem State.noteSgLoad_keeps {a s : State} (h : Keeps a s) (reason : Nat) (addr : Nat) :
    Keeps a (State.noteSgLoad s reason addr) := by
  unfold State.noteSgLoad
  try dsimp only
  repeat' first
    | with_reducible assumption | with_reducible apply State.takeFree_keeps | split
    | with_reducible refine Keeps.mk_upd ?_

theorem State.sgProgramLoad_keeps {a s : State} (h : Keeps a s) (c : Cmd) (l : List (Nat × Step64)) :
    Keeps a (State.sgProgramLoad s c l) := by
  unfold State.sgProgramLoad
  try dsimp only
  repeat' first
    | with_reducible assumption | with_reducible apply State.newImage_keeps
    | with_reducible apply State.loadSgSteps_keeps | with_reducible apply State.ok_keeps
    | with_reducible apply State.imageShard_keeps

theorem State.calibrate_keeps {a s : State} (h : Keeps a s) (p : List Byte) : Keeps a (State.calibrate s p) := by
  unfold State.calibrate
  try dsimp only
  repeat' first
    | with_reducible assumption | with_reducible apply State.startSettle_keeps | with_reducible apply State.newImage_keeps
    | with_reducible refine Keeps.foldl _ ?_ (fun u x hu => ?_) | split | with_reducible refine Keeps.mk_upd ?_

theorem State.setImage_keeps {a s : State} (h : Keeps a s) (im : Option ImageLoad) : Keeps a (State.setImage s im) := by
  unfold State.setImage
  repeat' first | with_reducible assumption | with_reducible refine Keeps.mk_upd ?_

theorem State.imageInForce_keeps {a s : State} (h : Keeps a s) (c : Cmd) (x : ImageParts) :
    Keeps a (s.imageInForce c x) := by
  unfold State.imageInForce
  have h1 : Keeps a (s.imageContent x).newImage := State.newImage_keeps (State.imageContent_keeps h x)
  generalize (s.imageContent x).newImage = t at h1 ⊢
  have h2 : Keeps a (t.imageShard s c 0xFFFF) := State.imageShard_keeps h1 _ _ _
  dsimp only
  generalize t.imageShard s c 0xFFFF = u at h2 ⊢
  split
  · exact State.writesFollow_keeps (State.ok_keeps h2 _ _) _
  · exact State.ok_keeps (Keeps.mk_upd h2) _ _

theorem State.imageEnd_keeps {a s : State} (h : Keeps a s) (c : Cmd) (bytes : List Byte) (confirm : Confirm) : Keeps a
    (State.imageEnd s c bytes confirm) := by
  unfold State.imageEnd
  try dsimp only
  repeat' first
    | with_reducible assumption | with_reducible apply State.refuse_keeps | with_reducible apply State.confirmed_keeps
    | with_reducible apply State.imageContent_keeps | with_reducible apply State.imageInForce_keeps | split
    | with_reducible refine Keeps.mk_upd ?_

theorem State.setWrap_keeps {a s : State} (h : Keeps a s) (p : Link) (w : Bool) : Keeps a (State.setWrap s p w) := by
  unfold State.setWrap
  repeat' first
    | with_reducible assumption | with_reducible apply State.irqGl_keeps
    | with_reducible apply State.setLink_keeps | split | with_reducible refine Keeps.mk_upd ?_

theorem State.linkState_keeps {a s : State} (h : Keeps a s) : Keeps a (State.linkState s) := by
  unfold State.linkState
  try dsimp only
  repeat' first | with_reducible assumption | split | with_reducible refine Keeps.mk_upd ?_

theorem State.endConflict_keeps {a s : State} (h : Keeps a s) : Keeps a (State.endConflict s) := by
  unfold State.endConflict
  try dsimp only
  repeat' first
    | with_reducible assumption | with_reducible apply State.linkState_keeps | split
    | with_reducible refine Keeps.mk_upd ?_

theorem State.takeReply_keeps {a s : State} (h : Keeps a s) (src : Nat) (p : List Byte) :
    Keeps a (State.takeReply s src p) := by
  unfold State.takeReply
  try dsimp only
  repeat' first
    | with_reducible assumption | with_reducible apply State.post_keeps
    | with_reducible apply State.dropFwd_keeps | split | with_reducible refine Keeps.mk_upd ?_

theorem State.bcastBack_keeps {a s : State} (h : Keeps a s) : Keeps a (State.bcastBack s) := by
  unfold State.bcastBack
  try dsimp only
  repeat' first
    | with_reducible assumption | with_reducible apply State.dropFwd_keeps
    | with_reducible apply State.answer_keeps | split | with_reducible refine Keeps.mk_upd ?_

theorem State.timeEvent_keeps {a s : State} (h : Keeps a s) (f : Frame) : Keeps a (State.timeEvent s f) := by
  unfold State.timeEvent
  repeat' first
    | with_reducible assumption | with_reducible apply State.refEvent_keeps
    | with_reducible apply State.ignoreEvent_keeps | split

theorem State.reached_keeps {a s : State} (h : Keeps a s) : Keeps a (State.reached s) := by
  unfold State.reached
  try dsimp only
  repeat' first
    | with_reducible assumption | with_reducible apply State.becomeAdmitted_keeps | split
    | with_reducible refine Keeps.mk_upd ?_

theorem State.takeTime_keeps {a s : State} (h : Keeps a s) (f : Frame) : Keeps a (State.takeTime s f) := by
  unfold State.takeTime
  try dsimp only
  repeat' first
    | with_reducible assumption | with_reducible apply State.endConflict_keeps | with_reducible apply State.reached_keeps
    | with_reducible apply State.timeEvent_keeps | with_reducible apply State.sendJoin_keeps | split
    | with_reducible refine Keeps.mk_upd ?_

theorem State.passTime_keeps {z s : State} (h : Keeps z s) (a : Arrival) : Keeps z (State.passTime s a) := by
  unfold State.passTime
  try dsimp only
  repeat' first
    | with_reducible assumption | with_reducible apply State.meet_keeps | with_reducible apply State.passFrame_keeps
    | split | with_reducible refine Keeps.mk_upd ?_

theorem State.takeToken_keeps {a s : State} (h : Keeps a s) (p : List Byte) : Keeps a (State.takeToken s p) := by
  unfold State.takeToken
  try dsimp only
  repeat' first
    | with_reducible assumption | with_reducible apply State.sendFrame_keeps
    | with_reducible refine Keeps.mk_upd ?_

theorem State.tokenBack_keeps {a s : State} (h : Keeps a s) (p : List Byte) : Keeps a (State.tokenBack s p) := by
  unfold State.tokenBack
  repeat' first | with_reducible assumption | split | with_reducible refine Keeps.mk_upd ?_

theorem State.takeEnrol_keeps {a s : State} (h : Keeps a s) (p : List Byte) : Keeps a (State.takeEnrol s p) := by
  unfold State.takeEnrol
  try dsimp only
  repeat' first | with_reducible assumption | split | with_reducible refine Keeps.mk_upd ?_

theorem State.closeEnum_keeps {a s : State} (h : Keeps a s) (e : Enum) (count : Nat) : Keeps a (State.closeEnum s e count)
    := by
  unfold State.closeEnum
  try dsimp only
  repeat' first
    | with_reducible assumption | with_reducible apply State.becomeAdmitted_keeps | with_reducible apply State.irqGl_keeps
    | with_reducible apply State.sendFrame_keeps | with_reducible apply State.launchEnum_keeps | split
    | with_reducible refine Keeps.mk_upd ?_

theorem State.takeClosure_keeps {a s : State} (h : Keeps a s) (p : List Byte) : Keeps a (State.takeClosure s p) := by
  unfold State.takeClosure
  try dsimp only
  repeat' first
    | with_reducible assumption | with_reducible apply State.takeFree_keeps | with_reducible apply State.standing_keeps
    | with_reducible apply State.irqGl_keeps | split | with_reducible refine Keeps.mk_upd ?_

theorem State.enterMaps_keeps {a s : State} (h : Keeps a s) (a' : Nat) (admitted : Bool) (fenced : Bool) :
    Keeps a (State.enterMaps s a' admitted fenced) := by
  unfold State.enterMaps
  repeat' first | with_reducible assumption | with_reducible refine Keeps.mk_upd ?_

theorem State.takeJoin_keeps {a s : State} (h : Keeps a s) (p : List Byte) : Keeps a (State.takeJoin s p) := by
  unfold State.takeJoin
  try dsimp only
  repeat' first
    | with_reducible assumption | with_reducible apply State.enterMaps_keeps | with_reducible apply State.irqGl_keeps
    | with_reducible apply State.sendFrame_keeps | split | with_reducible refine Keeps.mk_upd ?_

theorem State.takeAdmit_keeps {a s : State} (h : Keeps a s) (p : List Byte) : Keeps a (State.takeAdmit s p) := by
  unfold State.takeAdmit
  try dsimp only
  repeat' first
    | with_reducible assumption | with_reducible apply State.enterMaps_keeps | with_reducible apply State.standing_keeps
    | split | with_reducible refine Keeps.mk_upd ?_

theorem State.onTwin_keeps {a s : State} (h : Keeps a s) (a' : Arrival) (msg : Nat) (f : State → State) (hf : ∀ u, Keeps a u → Keeps a (f u)) :
    Keeps a (State.onTwin s a' msg f) := by
  unfold State.onTwin
  try dsimp only
  repeat' first
    | with_reducible assumption | apply hf | with_reducible apply State.pass_keeps
    | with_reducible apply State.dropNote_keeps | with_reducible apply State.noteFrame_keeps | split
   

theorem State.tellReason_keeps {a s : State} (h : Keeps a s) (dest : Nat) (msg : Nat) (reason : BitVec 4) :
    Keeps a (State.tellReason s dest msg reason) := by
  unfold State.tellReason
  repeat' first
    | with_reducible assumption | with_reducible apply State.sendTwin_keeps
    | with_reducible refine Keeps.mk_upd ?_

theorem State.compareMasks_keeps {a s : State} (h : Keeps a s) (peer : Nat) (mask : Rails) :
    Keeps a (State.compareMasks s peer mask) := by
  unfold State.compareMasks
  try dsimp only
  repeat' first
    | with_reducible assumption | with_reducible apply State.irqGl_keeps | split
    | with_reducible refine Keeps.mk_upd ?_

theorem State.takeHeartbeat_keeps {a s : State} (h : Keeps a s) (p : List Byte) : Keeps a (State.takeHeartbeat s p) := by
  unfold State.takeHeartbeat
  try dsimp only
  repeat' first
    | with_reducible assumption | with_reducible apply State.compareMasks_keeps | with_reducible refine Keeps.mk_upd ?_

theorem State.aloneAgain_keeps {a s : State} (h : Keeps a s) (wait : Nat) : Keeps a (State.aloneAgain s wait) := by
  unfold State.aloneAgain
  try dsimp only
  repeat' first | with_reducible assumption | split | with_reducible refine Keeps.mk_upd ?_

theorem State.diverge_keeps {a s : State} (h : Keeps a s) : Keeps a (State.diverge s) := by
  unfold State.diverge
  try dsimp only
  repeat' first | with_reducible assumption | split | with_reducible refine Keeps.mk_upd ?_

theorem State.answerSeek_keeps {a s : State} (h : Keeps a s) (src : Nat) (side : Bool) (uid : Uid) : Keeps a
    (State.answerSeek s src side uid) := by
  unfold State.answerSeek
  try dsimp only
  repeat' first
    | with_reducible assumption | with_reducible apply State.tellReason_keeps | with_reducible apply State.diverge_keeps
    | with_reducible apply State.takeFree_keeps | with_reducible apply State.sendTwin_keeps | split
    | with_reducible refine Keeps.mk_upd ?_

theorem State.takeSeek_keeps {a s : State} (h : Keeps a s) (src : Nat) (p : List Byte) (alone : Bool) : Keeps a
    (State.takeSeek s src p alone) := by
  unfold State.takeSeek
  try dsimp only
  repeat' first
    | with_reducible assumption | with_reducible apply State.tellReason_keeps
    | with_reducible apply State.foundOrBlock_keeps | with_reducible apply State.answerSeek_keeps | split
    | with_reducible refine Keeps.mk_upd ?_

theorem State.takeChallenge_keeps {a s : State} (h : Keeps a s) (src : Nat) (p : List Byte) : Keeps a (State.takeChallenge
    s src p) := by
  unfold State.takeChallenge
  try dsimp only
  repeat' first
    | with_reducible assumption | with_reducible apply State.tellReason_keeps | with_reducible apply State.sendTwin_keeps
    | split | with_reducible refine Keeps.mk_upd ?_

theorem State.takeProof_keeps {a s : State} (h : Keeps a s) (src : Nat) (p : List Byte) : Keeps a (State.takeProof s src
    p) := by
  unfold State.takeProof
  try dsimp only
  repeat' first
    | with_reducible assumption | with_reducible apply State.tellReason_keeps | with_reducible apply State.diverge_keeps
    | with_reducible apply State.sendTwin_keeps | split | with_reducible refine Keeps.mk_upd ?_

theorem State.noteRefuse_keeps {a s : State} (h : Keeps a s) (reason : Nat) : Keeps a (State.noteRefuse s reason) := by
  unfold State.noteRefuse
  try dsimp only
  repeat' first | with_reducible assumption | split | with_reducible refine Keeps.mk_upd ?_

theorem State.takeRefuse_keeps {a s : State} (h : Keeps a s) (src : Nat) (reason : Nat) : Keeps a (State.takeRefuse s src
    reason) := by
  unfold State.takeRefuse
  try dsimp only
  repeat' first
    | with_reducible assumption | with_reducible apply State.noteRefuse_keeps | split
    | with_reducible refine Keeps.mk_upd ?_

theorem State.takeSync_keeps {a s : State} (h : Keeps a s) (src : Nat) (p : List Byte) :
    Keeps a (State.takeSync s src p) := by
  unfold State.takeSync
  repeat' first
    | with_reducible assumption | with_reducible apply State.sendTwin_keeps
    | with_reducible apply State.tellReason_keeps | split | with_reducible refine Keeps.mk_upd ?_

theorem State.pairUp_keeps {a s : State} (h : Keeps a s) : Keeps a (State.pairUp s) := by
  unfold State.pairUp
  try dsimp only
  repeat' first
    | with_reducible assumption | with_reducible apply State.irqGl_keeps | with_reducible refine Keeps.mk_upd ?_

theorem State.takeReady_keeps {a s : State} (h : Keeps a s) (src : Nat) : Keeps a (State.takeReady s src) := by
  unfold State.takeReady
  repeat' first
    | with_reducible assumption | with_reducible apply State.releaseHeld_keeps
    | with_reducible apply State.pairUp_keeps | with_reducible apply State.sendTwin_keeps | split
    | with_reducible refine Keeps.mk_upd ?_

theorem State.takeOver_keeps {a s : State} (h : Keeps a s) (p : List Byte) : Keeps a (s.takeOver p) := by
  unfold State.takeOver
  have h0 : Keeps a { s with out := { s.out with passive := false, enpu := true } } := h.mk_upd
  have h1 := State.enHigh_keeps (State.updateTwok_keeps h0) (syncMask p)
  dsimp only at h1 ⊢
  generalize (State.updateTwok { s with out := { s.out with passive := false, enpu := true } }).enHigh (syncMask p) = t at h1 ⊢
  have h2 : Keeps a { t with
      kiln := { t.kiln with
        engines := t.kiln.engines.mapIdx (engineFrom p)
        failBits := BitVec.ofNat 64 (leAt p 30 8)
        chatter := ((List.range 64).map (fun n => (n, byteAt p (38 + n)))).filter (fun e => e.2 != 0) }
      pm := { t.pm with
        offMinDue := if leAt p 102 2 = 0 then none else some (t.clk.now + leAt p 102 2 * msTicks) } } := by
    refine h1.mk_gen le_rfl le_rfl (fun _ => le_rfl) id id id id id id (fun _ => Tab.wf_filter ?_ _) id id id id
    rw [Tab.wf_iff]
    simp only [List.map_map, Function.comp_def, List.map_id']
    exact List.pairwise_lt_range
  dsimp only at h2 ⊢
  generalize (State.mk _ _ _ _ _ _ _ _ _ _ _ _ _ _ _ _ _ _ _ _ _ _ _ _ _ _ _ : State) = t2 at h2 ⊢
  have h3 : Keeps a (if byteAt p 1 = 1 then t2.setLatch else t2) := (State.setLatch_keeps h2).ite h2
  generalize (if byteAt p 1 = 1 then t2.setLatch else t2) = t3 at h3 ⊢
  have h4 : Keeps a ((List.range 64).foldl State.trimNominal t3) := Keeps.foldl _ h3 (fun _ _ hu => State.trimNominal_keeps hu _)
  generalize (List.range 64).foldl State.trimNominal t3 = t4 at h4 ⊢
  split
  · exact State.enterRunning_keeps h4
  · exact h4

theorem State.takeCommit_keeps {a s : State} (h : Keeps a s) (src : Nat) : Keeps a (State.takeCommit s src) := by
  unfold State.takeCommit
  repeat' first
    | with_reducible assumption | with_reducible apply State.releaseHeld_keeps
    | with_reducible apply State.pairUp_keeps | with_reducible apply State.takeOver_keeps | split
    | with_reducible refine Keeps.mk_upd ?_

theorem State.joinFails_keeps {a s : State} (h : Keeps a s) : Keeps a (State.joinFails s) := by
  unfold State.joinFails
  repeat' first
    | with_reducible assumption | with_reducible apply State.releaseHeld_keeps
    | with_reducible refine Keeps.mk_upd ?_

theorem State.serveFails_keeps {a s : State} (h : Keeps a s) (reason : Nat) : Keeps a (State.serveFails s reason) := by
  unfold State.serveFails
  try dsimp only
  repeat' first
    | with_reducible assumption | with_reducible apply State.diverge_keeps | with_reducible apply State.releaseHeld_keeps
    | split | with_reducible refine Keeps.mk_upd ?_

theorem State.takeAbort_keeps {a s : State} (h : Keeps a s) (src : Nat) (reason : Nat) : Keeps a (State.takeAbort s src
    reason) := by
  unfold State.takeAbort
  try dsimp only
  repeat' first
    | with_reducible assumption | with_reducible apply State.joinFails_keeps | with_reducible apply State.serveFails_keeps
    | with_reducible apply State.aloneAgain_keeps | split | with_reducible refine Keeps.mk_upd ?_

theorem State.takeRequest_keeps {a s : State} (h : Keeps a s) (p : List Byte) : Keeps a (State.takeRequest s p) := by
  unfold State.takeRequest
  repeat' first
    | with_reducible assumption | with_reducible apply State.onRequest_keeps
    | with_reducible apply State.offRequest_keeps | split | with_reducible refine Keeps.mk_upd ?_

theorem State.takeShutdown_keeps {a s : State} (h : Keeps a s) (src : Nat) (p : List Byte) : Keeps a (State.takeShutdown s
    src p) := by
  unfold State.takeShutdown
  try dsimp only
  repeat' first
    | with_reducible assumption | with_reducible apply State.matchStop_keeps | with_reducible apply State.noteStop_keeps
    | with_reducible apply State.receiveAs_keeps | split

theorem idle_keeps {a s : State} (h : Keeps a s) : Keeps a (idle s) := by
  unfold idle
  repeat' first | with_reducible assumption | with_reducible apply State.wait_keeps

end Sys2Proof.Machine
end

