-- ==== Sys2Proof/Laws/Only.lean ====
section
/-! SUPPORT. Sys2Proof/Laws/Only.lean: the frame relation Only composes, and which updates of State are within it. -/

set_option Elab.async false

namespace Sys2Proof.Machine

/-- Every part of the first list is in the second. -/
def Part.sub (ps qs : List Part) : Bool := ps.all (fun p => decide (p ∈ qs))

theorem Part.sub_trans {ps qs rs : List Part} (h : Part.sub ps qs = true) (k : Part.sub qs rs = true) : Part.sub ps rs = true := by
  simp only [Part.sub, List.all_eq_true, decide_eq_true_eq] at *
  exact fun p hp => k p (h p hp)

theorem Part.same_refl (p : Part) (s : State) : p.same s s := by cases p <;> rfl

theorem Part.same_trans {p : Part} {a b c : State} (h : p.same a b) (k : p.same b c) : p.same a c := by
  cases p <;> exact Eq.trans k h

theorem Only.refl (ps : List Part) (s : State) : Only ps s s := fun p _ => p.same_refl s

theorem Only.trans {ps : List Part} {a b c : State} (h : Only ps a b) (k : Only ps b c) : Only ps a c :=
  fun p hp => Part.same_trans (h p hp) (k p hp)

theorem Only.mono {ps qs : List Part} {a b : State} (h : Only ps a b) (hs : Part.sub ps qs = true) : Only qs a b :=
  fun p hp => h p (fun hq => hp (of_decide_eq_true (List.all_eq_true.mp hs p hq)))

/-- What one operation leaves unchanged, a longer run through it leaves unchanged too. -/
theorem Only.lift {ps qs : List Part} {a b c : State} (k : Only ps b c) (hs : Part.sub ps qs = true) (h : Only qs a b) :
    Only qs a c := h.trans (k.mono hs)

theorem Only.ite {ps : List Part} {a b c : State} {p : Prop} [Decidable p] (h : Only ps a b) (k : Only ps a c) :
    Only ps a (if p then b else c) := by split <;> assumption

theorem Only.foldl {ps : List Part} {a s : State} {β : Type} {f : State → β → State} (l : List β) (h : Only ps a s)
    (hf : ∀ u x, Only ps a u → Only ps a (f u x)) : Only ps a (l.foldl f s) := by
  induction l generalizing s with
  | nil => exact h
  | cons x l ih => exact ih (hf s x h)

/-- A record update of listed parts. -/
theorem Only.mk_upd {ps : List Part} {a t : State} {ident : Ident} {clk : Clk} {pm : Pm} {out : Out} {inp : In} {ctl : Ctl}
    {sense : Sense} {kiln : Kiln} {walk : Walk} {fault : FaultBlk} {irq : Irq} {mg : Mg} {log : Log} {cfg : Tab Word}
    {cfgLoaded sgLoaded : Bool} {port : Port} {sec : Sec} {ring : Ring} {twin : Twin} {tw : List TwPort}
    {twEnded : List (TwSeq × BitVec 2)} {pwm : Pwm} {frozen : Option Frozen} {jtag : Tap} {free : Nat} {pending : List Instr}
    (h : Only ps a t)
    (h0 : .ident ∈ ps ∨ ident = t.ident := by first | with_reducible exact .inr rfl | exact .inl (by decide) | exact .inr rfl)
    (h1 : .clk ∈ ps ∨ clk = t.clk := by first | with_reducible exact .inr rfl | exact .inl (by decide) | exact .inr rfl)
    (h2 : .pm ∈ ps ∨ pm = t.pm := by first | with_reducible exact .inr rfl | exact .inl (by decide) | exact .inr rfl)
    (h3 : .out ∈ ps ∨ out = t.out := by first | with_reducible exact .inr rfl | exact .inl (by decide) | exact .inr rfl)
    (h4 : .inp ∈ ps ∨ inp = t.inp := by first | with_reducible exact .inr rfl | exact .inl (by decide) | exact .inr rfl)
    (h5 : .ctl ∈ ps ∨ ctl = t.ctl := by first | with_reducible exact .inr rfl | exact .inl (by decide) | exact .inr rfl)
    (h6 : .sense ∈ ps ∨ sense = t.sense := by first | with_reducible exact .inr rfl | exact .inl (by decide) | exact .inr rfl)
    (h7 : .kiln ∈ ps ∨ kiln = t.kiln := by first | with_reducible exact .inr rfl | exact .inl (by decide) | exact .inr rfl)
    (h8 : .walk ∈ ps ∨ walk = t.walk := by first | with_reducible exact .inr rfl | exact .inl (by decide) | exact .inr rfl)
    (h9 : .fault ∈ ps ∨ fault = t.fault := by first | with_reducible exact .inr rfl | exact .inl (by decide) | exact .inr rfl)
    (h10 : .irq ∈ ps ∨ irq = t.irq := by first | with_reducible exact .inr rfl | exact .inl (by decide) | exact .inr rfl)
    (h11 : .mg ∈ ps ∨ mg = t.mg := by first | with_reducible exact .inr rfl | exact .inl (by decide) | exact .inr rfl)
    (h12 : .log ∈ ps ∨ log = t.log := by first | with_reducible exact .inr rfl | exact .inl (by decide) | exact .inr rfl)
    (h13 : .cfg ∈ ps ∨ cfg = t.cfg := by first | with_reducible exact .inr rfl | exact .inl (by decide) | exact .inr rfl)
    (h14 : .cfgLoaded ∈ ps ∨ cfgLoaded = t.cfgLoaded := by first | with_reducible exact .inr rfl | exact .inl (by decide) | exact .inr rfl)
    (h15 : .sgLoaded ∈ ps ∨ sgLoaded = t.sgLoaded := by first | with_reducible exact .inr rfl | exact .inl (by decide) | exact .inr rfl)
    (h16 : .port ∈ ps ∨ port = t.port := by first | with_reducible exact .inr rfl | exact .inl (by decide) | exact .inr rfl)
    (h17 : .sec ∈ ps ∨ sec = t.sec := by first | with_reducible exact .inr rfl | exact .inl (by decide) | exact .inr rfl)
    (h18 : .ring ∈ ps ∨ ring = t.ring := by first | with_reducible exact .inr rfl | exact .inl (by decide) | exact .inr rfl)
    (h19 : .twin ∈ ps ∨ twin = t.twin := by first | with_reducible exact .inr rfl | exact .inl (by decide) | exact .inr rfl)
    (h20 : .tw ∈ ps ∨ tw = t.tw := by first | with_reducible exact .inr rfl | exact .inl (by decide) | exact .inr rfl)
    (h21 : .twEnded ∈ ps ∨ twEnded = t.twEnded := by first | with_reducible exact .inr rfl | exact .inl (by decide) | exact .inr rfl)
    (h22 : .pwm ∈ ps ∨ pwm = t.pwm := by first | with_reducible exact .inr rfl | exact .inl (by decide) | exact .inr rfl)
    (h23 : .frozen ∈ ps ∨ frozen = t.frozen := by first | with_reducible exact .inr rfl | exact .inl (by decide) | exact .inr rfl)
    (h24 : .free ∈ ps ∨ free = t.free := by first | with_reducible exact .inr rfl | exact .inl (by decide) | exact .inr rfl)
    (h25 : .pending ∈ ps ∨ pending = t.pending := by first | with_reducible exact .inr rfl | exact .inl (by decide) | exact .inr rfl)
    (h26 : .jtag ∈ ps ∨ jtag = t.jtag := by first | with_reducible exact .inr rfl | exact .inl (by decide) | exact .inr rfl) :
    Only ps a {
      ident := ident, clk := clk, pm := pm, out := out, inp := inp, ctl := ctl, sense := sense,
      kiln := kiln, walk := walk, fault := fault, irq := irq, mg := mg, log := log, cfg := cfg,
      cfgLoaded := cfgLoaded, sgLoaded := sgLoaded, port := port, sec := sec, ring := ring, twin := twin, tw := tw,
      twEnded := twEnded, pwm := pwm, frozen := frozen, jtag := jtag, free := free, pending := pending } :=
  h.trans (fun p hp => by
    cases p <;> first
      | exact h0.resolve_left hp
      | exact h1.resolve_left hp
      | exact h2.resolve_left hp
      | exact h3.resolve_left hp
      | exact h4.resolve_left hp
      | exact h5.resolve_left hp
      | exact h6.resolve_left hp
      | exact h7.resolve_left hp
      | exact h8.resolve_left hp
      | exact h9.resolve_left hp
      | exact h10.resolve_left hp
      | exact h11.resolve_left hp
      | exact h12.resolve_left hp
      | exact h13.resolve_left hp
      | exact h14.resolve_left hp
      | exact h15.resolve_left hp
      | exact h16.resolve_left hp
      | exact h17.resolve_left hp
      | exact h18.resolve_left hp
      | exact h19.resolve_left hp
      | exact h20.resolve_left hp
      | exact h21.resolve_left hp
      | exact h22.resolve_left hp
      | exact h23.resolve_left hp
      | exact h24.resolve_left hp
      | exact h25.resolve_left hp
      | exact h26.resolve_left hp)

end Sys2Proof.Machine
end

