-- ==== Sys2Proof/Laws/OnlyOps.lean ====
section
/-! SUPPORT. What each shared operation on time, flags, replies, sweeps and faults can change: every part of the state but those listed stays. -/

set_option Elab.async false

namespace Sys2Proof.Machine

theorem State.wait_only (s : State) (d : Nat) : Only [.clk] s (State.wait s d) := by
  have h := Only.refl [.clk] s
  unfold State.wait
  repeat' first | with_reducible assumption | with_reducible refine Only.mk_upd ?_

theorem State.till_only (s : State) (t : Nat) : Only [.clk] s (State.till s t) := by
  have h := Only.refl [.clk] s
  unfold State.till
  repeat' first
    | with_reducible assumption | with_reducible apply Only.lift (State.wait_only _ _)
    | (with_reducible show Part.sub _ _ = true; decide)

theorem State.tillDue_only (s : State) (t : Option Nat) : Only [.clk] s (State.tillDue s t) := by
  have h := Only.refl [.clk] s
  unfold State.tillDue
  repeat' first
    | with_reducible assumption | with_reducible apply Only.lift (State.wait_only _ _)
    | (with_reducible show Part.sub _ _ = true; decide)

theorem State.creep_only (s : State) (target n : Nat) : Only [.clk] s (s.creep target n) := by
  induction n generalizing s with
  | zero => exact Only.refl _ s
  | succ k ih => unfold State.creep; split <;> [exact Only.refl _ s; exact (State.wait_only s 1).trans (ih _)]

theorem State.tillStamp_only (s : State) (m : Nat) : Only [.clk] s (State.tillStamp s m) := by
  have h := Only.refl [.clk] s
  unfold State.tillStamp
  try dsimp only
  repeat' first
    | with_reducible assumption
    | with_reducible apply Only.lift (State.wait_only _ _) | with_reducible apply Only.lift (State.creep_only _ _ _)
    | split | (with_reducible show Part.sub _ _ = true; decide)

theorem State.setCmp_only (s : State) (src : Nat) (c : Cmp) : Only [.sense] s (State.setCmp s src c) := by
  have h := Only.refl [.sense] s
  unfold State.setCmp
  repeat' first | with_reducible assumption | with_reducible refine Only.mk_upd ?_

theorem State.noteSet_only (s : State) (a : Nat) (m : Word) : Only [.irq] s (State.noteSet s a m) := by
  have h := Only.refl [.irq] s
  unfold State.noteSet
  try dsimp only
  repeat' first | with_reducible assumption | split | with_reducible refine Only.mk_upd ?_

theorem State.irqCt_only (s : State) (i : Nat) : Only [.irq] s (State.irqCt s i) := by
  have h := Only.refl [.irq] s
  unfold State.irqCt
  try dsimp only
  repeat' first
    | with_reducible assumption | with_reducible apply Only.lift (State.noteSet_only _ _ _)
    | with_reducible refine Only.mk_upd ?_ | (with_reducible show Part.sub _ _ = true; decide)

theorem State.irqLg_only (s : State) (i : Nat) : Only [.irq] s (State.irqLg s i) := by
  have h := Only.refl [.irq] s
  unfold State.irqLg
  try dsimp only
  repeat' first
    | with_reducible assumption | with_reducible apply Only.lift (State.noteSet_only _ _ _)
    | with_reducible refine Only.mk_upd ?_ | (with_reducible show Part.sub _ _ = true; decide)

theorem State.irqCm_only (s : State) (i : Nat) : Only [.irq] s (State.irqCm s i) := by
  have h := Only.refl [.irq] s
  unfold State.irqCm
  try dsimp only
  repeat' first
    | with_reducible assumption | with_reducible apply Only.lift (State.noteSet_only _ _ _)
    | with_reducible refine Only.mk_upd ?_ | (with_reducible show Part.sub _ _ = true; decide)

theorem State.irqGl_only (s : State) (i : Nat) : Only [.irq] s (State.irqGl s i) := by
  have h := Only.refl [.irq] s
  unfold State.irqGl
  try dsimp only
  repeat' first
    | with_reducible assumption | with_reducible apply Only.lift (State.noteSet_only _ _ _)
    | with_reducible refine Only.mk_upd ?_ | (with_reducible show Part.sub _ _ = true; decide)

theorem State.irqTw_only (s : State) (i : Nat) : Only [.irq] s (State.irqTw s i) := by
  have h := Only.refl [.irq] s
  unfold State.irqTw
  try dsimp only
  repeat' first
    | with_reducible assumption | with_reducible apply Only.lift (State.noteSet_only _ _ _)
    | with_reducible refine Only.mk_upd ?_ | (with_reducible show Part.sub _ _ = true; decide)

theorem State.irqCk_only (s : State) (i : Nat) : Only [.irq] s (State.irqCk s i) := by
  have h := Only.refl [.irq] s
  unfold State.irqCk
  try dsimp only
  repeat' first
    | with_reducible assumption | with_reducible apply Only.lift (State.noteSet_only _ _ _)
    | with_reducible refine Only.mk_upd ?_ | (with_reducible show Part.sub _ _ = true; decide)

theorem State.irqPw_only (s : State) (i : Nat) : Only [.irq] s (State.irqPw s i) := by
  have h := Only.refl [.irq] s
  unfold State.irqPw
  try dsimp only
  repeat' first
    | with_reducible assumption | with_reducible apply Only.lift (State.noteSet_only _ _ _)
    | with_reducible refine Only.mk_upd ?_ | (with_reducible show Part.sub _ _ = true; decide)

theorem State.takeFree_only (s : State) : Only [.free] s (State.takeFree s) := by
  have h := Only.refl [.free] s
  unfold State.takeFree
  repeat' first | with_reducible assumption | with_reducible refine Only.mk_upd ?_

theorem State.push_only (s : State) (x : Shard) : Only [.log] s (State.push s x) := by
  have h := Only.refl [.log] s
  unfold State.push
  repeat' first | with_reducible assumption | with_reducible refine Only.mk_upd ?_

theorem State.capture_only (s : State) (kind : Nat) (cause : Nat) (event : List Byte) : Only [.log] s (State.capture s kind
    cause event) := by
  have h := Only.refl [.log] s
  unfold State.capture
  repeat' first | with_reducible assumption | split | with_reducible refine Only.mk_upd ?_

theorem State.logEvent_only (s : State) (code : Nat) (region : Nat) (v1 : Nat) (v2 : Nat) : Only [.log] s (State.logEvent s
    code region v1 v2) := by
  have h := Only.refl [.log] s
  unfold State.logEvent
  repeat' first
    | with_reducible assumption | with_reducible apply Only.lift (State.capture_only _ _ _ _)
    | (with_reducible show Part.sub _ _ = true; decide)

theorem State.faultShard_only (s : State) (f : FaultRec) (disposition : Nat) (table : Nat) (repeats : Nat) : Only [.log] s
    (State.faultShard s f disposition table repeats) := by
  have h := Only.refl [.log] s
  unfold State.faultShard
  repeat' first
    | with_reducible assumption | with_reducible apply Only.lift (State.capture_only _ _ _ _)
    | (with_reducible show Part.sub _ _ = true; decide)

theorem State.goTo_only (s : State) (st : DevState) (cause : Nat) : Only [.pm, .log] s (State.goTo s st cause) := by
  have h := Only.refl [.pm, .log] s
  unfold State.goTo
  try dsimp only
  repeat' first | with_reducible assumption | split | with_reducible refine Only.mk_upd ?_

theorem State.tripPwm_only (s : State) (src : Word) : Only [.irq, .pwm] s (State.tripPwm s src) := by
  have h := Only.refl [.irq, .pwm] s
  unfold State.tripPwm
  try dsimp only
  repeat' first
    | with_reducible assumption | with_reducible apply Only.lift (State.noteSet_only _ _ _)
    | with_reducible apply Only.lift (State.irqPw_only _ _) | split | with_reducible refine Only.mk_upd ?_
    | (with_reducible show Part.sub _ _ = true; decide)

theorem State.assertPfw_only (s : State) : Only [.out, .irq, .pwm] s (State.assertPfw s) := by
  have h := Only.refl [.out, .irq, .pwm] s
  unfold State.assertPfw
  try dsimp only
  repeat' first
    | with_reducible assumption | with_reducible apply Only.lift (State.tripPwm_only _ _) | split
    | with_reducible refine Only.mk_upd ?_ | (with_reducible show Part.sub _ _ = true; decide)

theorem State.assertTripo_only (s : State) : Only [.out, .irq, .pwm] s (State.assertTripo s) := by
  have h := Only.refl [.out, .irq, .pwm] s
  unfold State.assertTripo
  try dsimp only
  repeat' first
    | with_reducible assumption | with_reducible apply Only.lift (State.tripPwm_only _ _) | split
    | with_reducible refine Only.mk_upd ?_ | (with_reducible show Part.sub _ _ = true; decide)

theorem State.releaseTrips_only (s : State) : Only [.out] s (State.releaseTrips s) := by
  have h := Only.refl [.out] s
  unfold State.releaseTrips
  repeat' first | with_reducible assumption | with_reducible refine Only.mk_upd ?_

theorem State.updateHrst_only (s : State) : Only [.out] s (State.updateHrst s) := by
  have h := Only.refl [.out] s
  unfold State.updateHrst
  repeat' first | with_reducible assumption | with_reducible refine Only.mk_upd ?_

theorem State.refreshFlt_only (s : State) (old : State) : Only [.sense, .irq, .pwm] s (State.refreshFlt s old) := by
  have h := Only.refl [.sense, .irq, .pwm] s
  unfold State.refreshFlt
  try dsimp only
  repeat' first
    | with_reducible assumption | with_reducible apply Only.lift (State.tripPwm_only _ _) | split
    | with_reducible refine Only.mk_upd ?_ | (with_reducible show Part.sub _ _ = true; decide)

theorem State.setTrim_only (s : State) (n : Nat) (t : Trim) : Only [.mg] s (State.setTrim s n t) := by
  have h := Only.refl [.mg] s
  unfold State.setTrim
  repeat' first | with_reducible assumption | with_reducible refine Only.mk_upd ?_

theorem State.applyTrim_only (s : State) (n : Nat) (level : Nat) (code : ℤ) : Only [.mg] s (State.applyTrim s n level code)
    := by
  have h := Only.refl [.mg] s
  unfold State.applyTrim
  try dsimp only
  repeat' first
    | with_reducible assumption | with_reducible apply Only.lift (State.setTrim_only _ _ _) | split
    | with_reducible refine Only.mk_upd ?_ | (with_reducible show Part.sub _ _ = true; decide)

theorem State.trimsOff_only (s : State) : Only [.mg] s (State.trimsOff s) := by
  have h := Only.refl [.mg] s
  unfold State.trimsOff
  try dsimp only
  repeat' first | with_reducible assumption | with_reducible refine Only.mk_upd ?_

theorem State.trimNominal_only (s : State) (n : Nat) : Only [.mg] s (State.trimNominal s n) := by
  have h := Only.refl [.mg] s
  unfold State.trimNominal
  repeat' first
    | with_reducible assumption | with_reducible apply Only.lift (State.applyTrim_only _ _ _ _)
    | (with_reducible show Part.sub _ _ = true; decide)

theorem State.trimDischarge_only (s : State) (n : Nat) : Only [.mg] s (State.trimDischarge s n) := by
  have h := Only.refl [.mg] s
  unfold State.trimDischarge
  repeat' first
    | with_reducible assumption | with_reducible apply Only.lift (State.applyTrim_only _ _ _ _)
    | (with_reducible show Part.sub _ _ = true; decide)

theorem State.symbolErrors_only (s : State) (a : Nat) (b : Nat) : Only [.ring] s (State.symbolErrors s a b) := by
  have h := Only.refl [.ring] s
  unfold State.symbolErrors
  try dsimp only
  repeat' first | with_reducible assumption | with_reducible refine Only.mk_upd ?_

theorem State.sendAs_only (s : State) (p : Link) (crcOk : Bool) (f : Frame) : Only [.ring] s (State.sendAs s p crcOk f) :=
    by
  have h := Only.refl [.ring] s
  unfold State.sendAs
  try dsimp only
  repeat' first | with_reducible assumption | split | with_reducible refine Only.mk_upd ?_

theorem State.sendFrame_only (s : State) (p : Link) (f : Frame) : Only [.ring] s (State.sendFrame s p f) := by
  have h := Only.refl [.ring] s
  unfold State.sendFrame
  try dsimp only
  repeat' first
    | with_reducible assumption | with_reducible apply Only.lift (State.sendAs_only _ _ _ _)
    | with_reducible apply Only.lift (State.setLink_only _ _ _) | split | with_reducible refine Only.mk_upd ?_
    | (with_reducible show Part.sub _ _ = true; decide)

theorem State.sendHorn_only (s : State) (p : Link) (orig : Nat) (seq : Nat) : Only [.ring] s (State.sendHorn s p orig seq)
    := by
  have h := Only.refl [.ring] s
  unfold State.sendHorn
  repeat' first | with_reducible assumption | split | with_reducible refine Only.mk_upd ?_

theorem State.originateHorn_only (s : State) : Only [.ring] s (State.originateHorn s) := by
  have h := Only.refl [.ring] s
  unfold State.originateHorn
  try dsimp only
  repeat' first
    | with_reducible assumption | with_reducible apply Only.lift (State.sendHorn_only _ _ _ _) | split
    | with_reducible refine Only.mk_upd ?_ | (with_reducible show Part.sub _ _ = true; decide)

theorem State.sendTwin_only (s : State) (dest : Nat) (msg : Nat) (body : List Byte) : Only [.ring, .twin] s (State.sendTwin
    s dest msg body) := by
  have h := Only.refl [.ring, .twin] s
  unfold State.sendTwin
  try dsimp only
  repeat' first
    | with_reducible assumption | with_reducible apply Only.lift (State.sendFrame_only _ _ _)
    | with_reducible refine Only.mk_upd ?_ | (with_reducible show Part.sub _ _ = true; decide)

theorem State.setCmd_only (s : State) (c : Cmd) : Only [.port] s (State.setCmd s c) := by
  have h := Only.refl [.port] s
  unfold State.setCmd
  repeat' first | with_reducible assumption | split | with_reducible refine Only.mk_upd ?_

theorem State.dropCmd_only (s : State) (ring : Bool) (tag : Nat) : Only [.port] s (State.dropCmd s ring tag) := by
  have h := Only.refl [.port] s
  unfold State.dropCmd
  repeat' first | with_reducible assumption | with_reducible refine Only.mk_upd ?_

theorem State.replyOut_only (s : State) (r : Reply) : Only [.pm] s (State.replyOut s r) := by
  have h := Only.refl [.pm] s
  unfold State.replyOut
  try dsimp only
  repeat' first | with_reducible assumption | split | with_reducible refine Only.mk_upd ?_

theorem State.post_only (s : State) (r : Reply) : Only [.pm, .port, .ring] s (State.post s r) := by
  have h := Only.refl [.pm, .port, .ring] s
  unfold State.post
  try dsimp only
  repeat' first
    | with_reducible assumption | with_reducible apply Only.lift (State.dropCmd_only _ _ _)
    | with_reducible apply Only.lift (State.sendFrame_only _ _ _)
    | with_reducible apply Only.lift (State.replyOut_only _ _) | split | with_reducible refine Only.mk_upd ?_
    | (with_reducible show Part.sub _ _ = true; decide)

theorem State.post127_only (s : State) (ring : Bool) (status : Nat) (head : List Byte) : Only [.port, .ring] s
    (State.post127 s ring status head) := by
  have h := Only.refl [.port, .ring] s
  unfold State.post127
  try dsimp only
  repeat' first
    | with_reducible assumption | with_reducible apply Only.lift (State.sendFrame_only _ _ _) | split
    | with_reducible refine Only.mk_upd ?_ | (with_reducible show Part.sub _ _ = true; decide)

theorem State.countRefusal_only (s : State) (status : Nat) : Only [.irq, .port] s (State.countRefusal s status) := by
  have h := Only.refl [.irq, .port] s
  unfold State.countRefusal
  try dsimp only
  repeat' first
    | with_reducible assumption | with_reducible apply Only.lift (State.irqCm_only _ _) | split
    | with_reducible refine Only.mk_upd ?_ | (with_reducible show Part.sub _ _ = true; decide)

theorem State.secShard_only (s : State) (c : Cmd) (status : Nat) : Only [.log] s (State.secShard s c status) := by
  have h := Only.refl [.log] s
  unfold State.secShard
  try dsimp only
  repeat' first
    | with_reducible assumption | with_reducible apply Only.lift (State.push_only _ _) | split
    | with_reducible refine Only.mk_upd ?_ | (with_reducible show Part.sub _ _ = true; decide)

theorem State.refusalEffects_only (s : State) (c : Cmd) (status : Nat) : Only [.irq, .log, .port] s (State.refusalEffects s
    c status) := by
  have h := Only.refl [.irq, .log, .port] s
  unfold State.refusalEffects
  repeat' first
    | with_reducible assumption | with_reducible apply Only.lift (State.secShard_only _ _ _)
    | with_reducible apply Only.lift (State.countRefusal_only _ _) | (with_reducible show Part.sub _ _ = true; decide)

theorem State.answer_only (s : State) (c : Cmd) (status : Nat) (payload : List Byte) : Only [.pm, .port, .ring] s
    (State.answer s c status payload) := by
  have h := Only.refl [.pm, .port, .ring] s
  unfold State.answer
  try dsimp only
  repeat' first
    | with_reducible assumption | with_reducible apply Only.lift (State.setCmd_only _ _)
    | with_reducible apply Only.lift (State.post_only _ _) | split | with_reducible refine Only.mk_upd ?_
    | (with_reducible show Part.sub _ _ = true; decide)

theorem State.noteBroadcast_only (s : State) (c : Cmd) (status : Nat) : Only [.irq, .port] s (State.noteBroadcast s c
    status) := by
  have h := Only.refl [.irq, .port] s
  unfold State.noteBroadcast
  try dsimp only
  repeat' first
    | with_reducible assumption | with_reducible apply Only.lift (State.irqCm_only _ _)
    | with_reducible refine Only.mk_upd ?_ | (with_reducible show Part.sub _ _ = true; decide)

theorem State.finish_only (s : State) (c : Cmd) (status : Nat) (payload : List Byte) : Only [.pm, .irq, .log, .port,
    .ring] s (State.finish s c status payload) := by
  have h := Only.refl [.pm, .irq, .log, .port, .ring] s
  unfold State.finish
  try dsimp only
  repeat' first
    | with_reducible assumption | with_reducible apply Only.lift (State.refusalEffects_only _ _ _)
    | with_reducible apply Only.lift (State.noteBroadcast_only _ _ _)
    | with_reducible apply Only.lift (State.dropCmd_only _ _ _)
    | with_reducible apply Only.lift (State.answer_only _ _ _ _) | with_reducible apply Only.lift (State.setCmd_only _ _)
    | split | with_reducible refine Only.mk_upd ?_ | (with_reducible show Part.sub _ _ = true; decide)

theorem State.accept_only (s : State) (c : Cmd) : Only [.pm, .port, .ring] s (State.accept s c) := by
  have h := Only.refl [.pm, .port, .ring] s
  unfold State.accept
  try dsimp only
  repeat' first
    | with_reducible assumption | with_reducible apply Only.lift (State.setCmd_only _ _)
    | with_reducible apply Only.lift (State.post_only _ _) | split | with_reducible refine Only.mk_upd ?_
    | (with_reducible show Part.sub _ _ = true; decide)

theorem State.postSigned_only (s : State) (u : Unsigned) : Only [.pm, .port, .ring] s (State.postSigned s u) := by
  have h := Only.refl [.pm, .port, .ring] s
  unfold State.postSigned
  try dsimp only
  repeat' first
    | with_reducible assumption | with_reducible apply Only.lift (State.post_only _ _)
    | (with_reducible show Part.sub _ _ = true; decide)

theorem State.flushSigning_only (s : State) (n : Nat) : Only [.pm, .port, .ring] s (State.flushSigning s n) := by
  induction n generalizing s with
  | zero => exact Only.refl _ s
  | succ k ih =>
    unfold State.flushSigning
    split
    · split
      · exact Only.refl _ s
      · refine Only.lift (ih _) (by decide) (Only.lift (State.postSigned_only _ _) (by decide) ?_)
        exact Only.mk_upd (Only.refl _ s)
    · exact Only.refl _ s

theorem State.setPmb_only (s : State) (n : Nat) (r : BitVec 2) : Only [.mg] s (State.setPmb s n r) := by
  have h := Only.refl [.mg] s
  unfold State.setPmb
  repeat' first
    | with_reducible assumption | with_reducible apply Only.lift (State.setTrim_only _ _ _)
    | with_reducible refine Only.mk_upd ?_ | (with_reducible show Part.sub _ _ = true; decide)

theorem State.endSeqs_only (s : State) (f : TwSeq → Bool) : Only [.mg, .tw] s (State.endSeqs s f) := by
  have h := Only.refl [.mg, .tw] s
  unfold State.endSeqs
  try dsimp only
  repeat' first
    | with_reducible assumption | with_reducible apply Only.lift (State.setPmb_only _ _ _)
    | with_reducible refine Only.foldl _ ?_ (fun u x hu => ?_) | split | with_reducible refine Only.mk_upd ?_
    | (with_reducible show Part.sub _ _ = true; decide)

theorem State.endSequences_only (s : State) : Only [.mg, .tw] s (State.endSequences s) := by
  have h := Only.refl [.mg, .tw] s
  unfold State.endSequences
  try dsimp only
  repeat' first
    | with_reducible assumption | with_reducible apply Only.lift (State.endSeqs_only _ _)
    | (with_reducible show Part.sub _ _ = true; decide)

theorem State.recordDiscard_only (s : State) (cause : Nat) (gone : List Cmd) : Only [.irq, .port] s (State.recordDiscard s
    cause gone) := by
  have h := Only.refl [.irq, .port] s
  unfold State.recordDiscard
  try dsimp only
  repeat' first
    | with_reducible assumption | with_reducible apply Only.lift (State.irqCm_only _ _) | split
    | with_reducible refine Only.mk_upd ?_ | (with_reducible show Part.sub _ _ = true; decide)

theorem State.discardCooling_only (s : State) (pm : Nat) (keep : Option (Bool × Nat)) : Only [.pm, .irq, .log, .port,
    .ring] s (State.discardCooling s pm keep) := by
  have h := Only.refl [.pm, .irq, .log, .port, .ring] s
  unfold State.discardCooling
  try dsimp only
  repeat' first
    | with_reducible assumption | with_reducible apply Only.lift (State.finish_only _ _ _ _)
    | with_reducible apply Only.lift (State.recordDiscard_only _ _ _)
    | with_reducible refine Only.foldl _ ?_ (fun u x hu => ?_) | split | with_reducible refine Only.mk_upd ?_
    | (with_reducible show Part.sub _ _ = true; decide)

theorem State.discardSilent_only (s : State) (cause : Nat) : Only [.irq, .port] s (State.discardSilent s cause) := by
  have h := Only.refl [.irq, .port] s
  unfold State.discardSilent
  try dsimp only
  repeat' first
    | with_reducible assumption | with_reducible apply Only.lift (State.recordDiscard_only _ _ _)
    | with_reducible refine Only.mk_upd ?_ | (with_reducible show Part.sub _ _ = true; decide)

theorem State.trendShard_only (s : State) (n : Nat) (result : Nat) : Only [.log, .free] s (State.trendShard s n result) :=
    by
  have h := Only.refl [.log, .free] s
  unfold State.trendShard
  repeat' first | with_reducible assumption | split | with_reducible refine Only.mk_upd ?_

theorem State.sweepTake_only (s : State) (req : Nat) (i : Nat) (code : BitVec 16) : Only [.mg] s (State.sweepTake s req i
    code) := by
  have h := Only.refl [.mg] s
  unfold State.sweepTake
  try dsimp only
  repeat' first | with_reducible assumption | split | with_reducible refine Only.mk_upd ?_

theorem State.endRail_only (s : State) (n : Nat) (result : Nat) : Only [.mg, .log, .free] s (State.endRail s n result) := by
  unfold State.endRail
  have h1 : Only [.mg, .log, .free] s ((s.setTrim n { s.trim n with sweeps := ((s.trim n).sweeps + 1) % 65536 }).trendShard n
      result) :=
    Only.lift (State.trendShard_only _ _ _) (by decide) (Only.lift (State.setTrim_only _ _ _) (by decide) (Only.refl _ s))
  refine Only.mk_upd (Only.lift (State.setTrim_only _ _ _) (by decide) ?_)
  split
  · exact Only.lift (State.trimNominal_only _ _) (by decide) h1
  · exact h1

theorem State.finishCycle_only (s : State) : Only [.mg] s (State.finishCycle s) := by
  have h := Only.refl [.mg] s
  unfold State.finishCycle
  repeat' first | with_reducible assumption | split | with_reducible refine Only.mk_upd ?_

theorem State.abortRail_only (s : State) (n : Nat) (result : Nat) : Only [.mg, .log, .free] s (State.abortRail s n result)
    := by
  have h := Only.refl [.mg, .log, .free] s
  unfold State.abortRail
  repeat' first
    | with_reducible assumption | with_reducible apply Only.lift (State.finishCycle_only _)
    | with_reducible apply Only.lift (State.endRail_only _ _ _) | split
    | (with_reducible show Part.sub _ _ = true; decide)

theorem State.endCycle_only (s : State) (result : Nat) : Only [.mg, .log, .free] s (State.endCycle s result) := by
  have h := Only.refl [.mg, .log, .free] s
  unfold State.endCycle
  try dsimp only
  repeat' first
    | with_reducible assumption | with_reducible apply Only.lift (State.endRail_only _ _ _) | split
    | with_reducible refine Only.mk_upd ?_ | (with_reducible show Part.sub _ _ = true; decide)

theorem State.compliance_only (s : State) (out : Rails) : Only [.mg, .log, .free] s (State.compliance s out) := by
  have h := Only.refl [.mg, .log, .free] s
  unfold State.compliance
  try dsimp only
  repeat' first
    | with_reducible assumption | with_reducible apply Only.lift (State.setTrim_only _ _ _)
    | with_reducible apply Only.lift (State.abortRail_only _ _ _)
    | with_reducible refine Only.foldl _ ?_ (fun u x hu => ?_) | split | with_reducible refine Only.mk_upd ?_
    | (with_reducible show Part.sub _ _ = true; decide)

theorem State.leaveRunning_only (s : State) : Only [.mg, .log, .free] s (State.leaveRunning s) := by
  have h := Only.refl [.mg, .log, .free] s
  unfold State.leaveRunning
  try dsimp only
  repeat' first
    | with_reducible assumption | with_reducible apply Only.lift (State.endCycle_only _ _) | split
    | with_reducible refine Only.mk_upd ?_ | (with_reducible show Part.sub _ _ = true; decide)

theorem State.setLatch_only (s : State) : Only [.pm, .ctl, .twin] s (State.setLatch s) := by
  have h := Only.refl [.pm, .ctl, .twin] s
  unfold State.setLatch
  try dsimp only
  repeat' first | with_reducible assumption | split | with_reducible refine Only.mk_upd ?_

theorem State.recordBisque_only (s : State) (f : FaultRec) (stamp : Nat) : Only [.fault] s (State.recordBisque s f stamp)
    := by
  have h := Only.refl [.fault] s
  unfold State.recordBisque
  try dsimp only
  repeat' first | with_reducible assumption | split | with_reducible refine Only.mk_upd ?_

theorem State.recordFirst_only (s : State) (f : FaultRec) (stamp : Nat) : Only [.fault] s (State.recordFirst s f stamp) :=
    by
  have h := Only.refl [.fault] s
  unfold State.recordFirst
  repeat' first | with_reducible assumption | with_reducible refine Only.mk_upd ?_

theorem State.recordFault_only (s : State) (f : FaultRec) : Only [.pm, .ctl, .fault, .twin] s (State.recordFault s f) :=
    by
  have h := Only.refl [.pm, .ctl, .fault, .twin] s
  unfold State.recordFault
  try dsimp only
  repeat' first
    | with_reducible assumption | with_reducible apply Only.lift (State.setLatch_only _)
    | with_reducible apply Only.lift (State.recordFirst_only _ _ _)
    | with_reducible apply Only.lift (State.recordBisque_only _ _ _) | (with_reducible show Part.sub _ _ = true; decide)

theorem State.enqueue_only (s : State) (f : FaultRec) (table : Nat) : Only [.pm, .ctl, .fault, .irq, .log, .twin] s
    (State.enqueue s f table) := by
  have h := Only.refl [.pm, .ctl, .fault, .irq, .log, .twin] s
  unfold State.enqueue
  try dsimp only
  repeat' first
    | with_reducible assumption | with_reducible apply Only.lift (State.recordFault_only _ _)
    | with_reducible apply Only.lift (State.faultShard_only _ _ _ _ _)
    | with_reducible apply Only.lift (State.irqCt_only _ _) | split | with_reducible refine Only.mk_upd ?_
    | (with_reducible show Part.sub _ _ = true; decide)

theorem State.walkSeek_only (s : State) (n : Nat) : Only [.walk, .mg] s (State.walkSeek s n) := by
  induction n generalizing s with
  | zero => exact Only.refl _ s
  | succ k ih =>
    unfold State.walkSeek
    split
    · exact Only.mk_upd (Only.refl _ s)
    · split
      · refine Only.lift (ih _) (by decide) ?_
        dsimp only
        split
        · exact Only.mk_upd (Only.lift (State.trimDischarge_only _ _) (by decide) (Only.refl _ s))
        · exact Only.mk_upd (Only.refl _ s)
      · exact Only.mk_upd (Only.refl _ s)

theorem State.walkBegin_only (s : State) : Only [.walk, .mg] s (State.walkBegin s) := by
  have h := Only.refl [.walk, .mg] s
  unfold State.walkBegin
  repeat' first
    | with_reducible assumption | with_reducible apply Only.lift (State.walkSeek_only _ _)
    | with_reducible refine Only.mk_upd ?_ | (with_reducible show Part.sub _ _ = true; decide)

theorem State.walkSwitch_only (s : State) (table : Nat) (f : FaultRec) : Only [.walk, .mg] s (State.walkSwitch s table f) :=
    by
  have h := Only.refl [.walk, .mg] s
  unfold State.walkSwitch
  repeat' first
    | with_reducible assumption | with_reducible apply Only.lift (State.walkBegin_only _)
    | with_reducible refine Only.mk_upd ?_ | (with_reducible show Part.sub _ _ = true; decide)

theorem State.abortEngines_only (s : State) : Only [.kiln] s (State.abortEngines s) := by
  have h := Only.refl [.kiln] s
  unfold State.abortEngines
  repeat' first | with_reducible assumption | with_reducible refine Only.mk_upd ?_

theorem State.enterRunning_only (s : State) : Only [.pm, .mg, .log] s (State.enterRunning s) := by
  have h := Only.refl [.pm, .mg, .log] s
  unfold State.enterRunning
  try dsimp only
  repeat' first
    | with_reducible assumption | with_reducible apply Only.lift (State.goTo_only _ _ _) | split
    | with_reducible refine Only.mk_upd ?_ | (with_reducible show Part.sub _ _ = true; decide)

theorem State.fireStart_only (s : State) (cause : Nat) : Only [.clk, .pm, .kiln, .mg, .log] s (State.fireStart s cause) :=
    by
  have h := Only.refl [.clk, .pm, .kiln, .mg, .log] s
  unfold State.fireStart
  try dsimp only
  repeat' first
    | with_reducible assumption | with_reducible apply Only.lift (State.goTo_only _ _ _)
    | with_reducible apply Only.lift (State.wait_only _ _) | with_reducible apply Only.lift (State.enterRunning_only _)
    | split | with_reducible refine Only.mk_upd ?_ | (with_reducible show Part.sub _ _ = true; decide)

theorem State.joinRequest_only (s : State) (old : Byte) (cause : Nat) : Only [.pm, .ctl, .log, .twin] s (State.joinRequest
    s old cause) := by
  have h := Only.refl [.pm, .ctl, .log, .twin] s
  unfold State.joinRequest
  try dsimp only
  repeat' first | with_reducible assumption | split | with_reducible refine Only.mk_upd ?_

theorem State.newRequest_only (s : State) (cause : Nat) : Only [.clk, .pm, .ctl, .kiln, .mg, .log, .twin] s
    (State.newRequest s cause) := by
  have h := Only.refl [.clk, .pm, .ctl, .kiln, .mg, .log, .twin] s
  unfold State.newRequest
  try dsimp only
  repeat' first
    | with_reducible assumption | with_reducible apply Only.lift (State.fireStart_only _ _) | split
    | with_reducible refine Only.mk_upd ?_ | (with_reducible show Part.sub _ _ = true; decide)

theorem State.onRequest_only (s : State) (cause : Nat) : Only [.clk, .pm, .ctl, .kiln, .mg, .log, .twin] s
    (State.onRequest s cause) := by
  have h := Only.refl [.clk, .pm, .ctl, .kiln, .mg, .log, .twin] s
  unfold State.onRequest
  try dsimp only
  repeat' first
    | with_reducible assumption | with_reducible apply Only.lift (State.joinRequest_only _ _ _)
    | with_reducible apply Only.lift (State.newRequest_only _ _) | split | with_reducible refine Only.mk_upd ?_
    | (with_reducible show Part.sub _ _ = true; decide)

theorem State.mirror_only (s : State) (on : Nat) (cause : Nat) : Only [.ring, .twin] s (State.mirror s on cause) := by
  have h := Only.refl [.ring, .twin] s
  unfold State.mirror
  repeat' first
    | with_reducible assumption | with_reducible apply Only.lift (State.sendTwin_only _ _ _ _) | split
    | (with_reducible show Part.sub _ _ = true; decide)

theorem State.tryPending_only (s : State) : Only [.clk, .pm, .kiln, .mg, .log] s (State.tryPending s) := by
  have h := Only.refl [.clk, .pm, .kiln, .mg, .log] s
  unfold State.tryPending
  repeat' first
    | with_reducible assumption | with_reducible apply Only.lift (State.fireStart_only _ _) | split
    | with_reducible refine Only.mk_upd ?_ | (with_reducible show Part.sub _ _ = true; decide)

theorem State.releaseHeld_only (s : State) : Only [.clk, .pm, .ctl, .kiln, .mg, .log, .ring, .twin] s (State.releaseHeld
    s) := by
  have h := Only.refl [.clk, .pm, .ctl, .kiln, .mg, .log, .ring, .twin] s
  unfold State.releaseHeld
  try dsimp only
  repeat' first
    | with_reducible assumption | with_reducible apply Only.lift (State.mirror_only _ _ _)
    | with_reducible apply Only.lift (State.onRequest_only _ _) | with_reducible apply Only.lift (State.tryPending_only _)
    | with_reducible refine Only.foldl _ ?_ (fun u x hu => ?_) | split | with_reducible refine Only.mk_upd ?_
    | (with_reducible show Part.sub _ _ = true; decide)

theorem State.trimsNominal_only (s : State) : Only [.mg] s (State.trimsNominal s) := by
  have h := Only.refl [.mg] s
  unfold State.trimsNominal
  repeat' first
    | with_reducible assumption | with_reducible refine Only.foldl _ ?_ (fun u x hu => ?_)
    | with_reducible apply Only.lift (State.trimNominal_only _ _) | split
    | (with_reducible show Part.sub _ _ = true; decide)

theorem State.abortHand_only (s : State) : Only [.ring, .twin] s (State.abortHand s) := by
  have h := Only.refl [.ring, .twin] s
  unfold State.abortHand
  try dsimp only
  repeat' first
    | with_reducible assumption | with_reducible apply Only.lift (State.sendTwin_only _ _ _ _) | split
    | with_reducible refine Only.mk_upd ?_ | (with_reducible show Part.sub _ _ = true; decide)

theorem State.afterAbort_only (s : State) : Only [.clk, .pm, .ctl, .kiln, .mg, .log, .ring, .twin] s (State.afterAbort s)
    := by
  have h := Only.refl [.clk, .pm, .ctl, .kiln, .mg, .log, .ring, .twin] s
  unfold State.afterAbort
  try dsimp only
  repeat' first
    | with_reducible assumption | with_reducible apply Only.lift (State.releaseHeld_only _) | split
    | (with_reducible show Part.sub _ _ = true; decide)

theorem State.tellTwin_only (s : State) (k : Start) (f : FaultRec) (table : Nat) : Only [.ring, .twin] s (State.tellTwin s
    k f table) := by
  have h := Only.refl [.ring, .twin] s
  unfold State.tellTwin
  try dsimp only
  repeat' first
    | with_reducible assumption | with_reducible apply Only.lift (State.abortHand_only _)
    | with_reducible apply Only.lift (State.sendTwin_only _ _ _ _) | split
    | (with_reducible show Part.sub _ _ = true; decide)

theorem State.soundHorn_only (s : State) (k : Start) (cause : Byte) : Only [.ring] s (State.soundHorn s k cause) := by
  have h := Only.refl [.ring] s
  unfold State.soundHorn
  try dsimp only
  repeat' first
    | with_reducible assumption | with_reducible apply Only.lift (State.originateHorn_only _) | split
    | (with_reducible show Part.sub _ _ = true; decide)

theorem State.startShutdown_only (s : State) (k : Start) (f : FaultRec) (table : Nat) (pm : Nat) (keep : Option (Bool × Nat)) :
    Only [.clk, .pm, .out, .ctl, .kiln, .walk, .fault, .irq, .mg, .log, .port, .ring, .twin, .tw, .pwm, .free] s
      (State.startShutdown s k f table pm keep) := by
  unfold State.startShutdown
  dsimp only
  have h1 : Only [.clk, .pm, .out, .ctl, .kiln, .walk, .fault, .irq, .mg, .log, .port, .ring, .twin, .tw, .pwm, .free] s
      s.leaveRunning := (State.leaveRunning_only s).mono (by decide)
  generalize s.leaveRunning = s1 at h1 ⊢
  have h2 : Only [.clk, .pm, .out, .ctl, .kiln, .walk, .fault, .irq, .mg, .log, .port, .ring, .twin, .tw, .pwm, .free] s
      (State.assertPfw (if k = .off then s1 else (s1.faultShard f 0 table 0).recordFault f)) :=
    Only.lift (State.assertPfw_only _) (by decide) (Only.ite h1 (Only.lift (State.recordFault_only _ _) (by decide)
      (Only.lift (State.faultShard_only _ _ _ _ _) (by decide) h1)))
  generalize State.assertPfw (if k = .off then s1 else (s1.faultShard f 0 table 0).recordFault f) = s2 at h2 ⊢
  have h3 : Only [.clk, .pm, .out, .ctl, .kiln, .walk, .fault, .irq, .mg, .log, .port, .ring, .twin, .tw, .pwm, .free] s
      (if k = .gradeH ∨ k = .forceOff then s2.assertTripo else s2) :=
    Only.ite (Only.lift (State.assertTripo_only _) (by decide) h2) h2
  generalize (if k = .gradeH ∨ k = .forceOff then s2.assertTripo else s2) = s3 at h3 ⊢
  have h5 : Only [.clk, .pm, .out, .ctl, .kiln, .walk, .fault, .irq, .mg, .log, .port, .ring, .twin, .tw, .pwm, .free] s
      (((((s3.soundHorn k f.cause).tellTwin k f table).abortEngines.endSequences).goTo .cooling pm)) :=
    Only.lift (State.goTo_only _ _ _) (by decide) (Only.lift (State.endSequences_only _) (by decide)
      (Only.lift (State.abortEngines_only _) (by decide) (Only.lift (State.tellTwin_only _ _ _ _) (by decide)
        (Only.lift (State.soundHorn_only _ _ _) (by decide) h3))))
  generalize ((((s3.soundHorn k f.cause).tellTwin k f table).abortEngines.endSequences).goTo .cooling pm) = s5 at h5 ⊢
  have h5' : Only [.clk, .pm, .out, .ctl, .kiln, .walk, .fault, .irq, .mg, .log, .port, .ring, .twin, .tw, .pwm, .free] s
      { s5 with pm := { s5.pm with offMinDue := none } } := Only.mk_upd h5
  have h6 : Only [.clk, .pm, .out, .ctl, .kiln, .walk, .fault, .irq, .mg, .log, .port, .ring, .twin, .tw, .pwm, .free] s
      (State.trimsNominal (State.discardCooling { s5 with pm := { s5.pm with offMinDue := none } } pm keep)) :=
    Only.lift (State.trimsNominal_only _) (by decide) (Only.lift (State.discardCooling_only _ _ _) (by decide) h5')
  generalize State.trimsNominal (State.discardCooling { s5 with pm := { s5.pm with offMinDue := none } } pm keep) = s6 at h6 ⊢
  refine Only.lift (State.afterAbort_only _) (by decide) ?_
  split
  · refine Only.lift (State.walkBegin_only _) (by decide) (Only.lift (State.irqCt_only _ _) (by decide) ?_)
    with_reducible refine Only.mk_upd h6
  · refine Only.lift (State.irqCt_only _ _) (by decide) ?_
    with_reducible refine Only.mk_upd h6

theorem State.offRequest_only (s : State) (cause : Nat) (keep : Option (Bool × Nat)) : Only [.clk, .pm, .out, .ctl, .kiln,
    .walk, .fault, .irq, .mg, .log, .port, .ring, .twin, .tw, .pwm, .free] s (State.offRequest s cause keep) := by
  have h := Only.refl [.clk, .pm, .out, .ctl, .kiln, .walk, .fault, .irq, .mg, .log, .port, .ring, .twin, .tw, .pwm,
      .free] s
  unfold State.offRequest
  try dsimp only
  repeat' first
    | with_reducible assumption | with_reducible apply Only.lift (State.startShutdown_only _ _ _ _ _ _)
    | with_reducible apply Only.lift (State.abortHand_only _) | split | with_reducible refine Only.mk_upd ?_
    | (with_reducible show Part.sub _ _ = true; decide)

theorem State.coolH_only (s : State) (f : FaultRec) (table : Nat) : Only [.pm, .out, .ctl, .walk, .fault, .irq, .mg, .log,
    .twin, .pwm] s (State.coolH s f table) := by
  have h := Only.refl [.pm, .out, .ctl, .walk, .fault, .irq, .mg, .log, .twin, .pwm] s
  unfold State.coolH
  try dsimp only
  repeat' first
    | with_reducible assumption | with_reducible apply Only.lift (State.faultShard_only _ _ _ _ _)
    | with_reducible apply Only.lift (State.recordFault_only _ _)
    | with_reducible apply Only.lift (State.assertTripo_only _)
    | with_reducible apply Only.lift (State.walkSwitch_only _ _ _)
    | with_reducible apply Only.lift (State.walkBegin_only _) | with_reducible apply Only.lift (State.enqueue_only _ _ _)
    | split | with_reducible refine Only.mk_upd ?_ | (with_reducible show Part.sub _ _ = true; decide)

theorem State.coolT_only (s : State) (f : FaultRec) (table : Nat) : Only [.pm, .ctl, .walk, .fault, .irq, .log, .twin] s
    (State.coolT s f table) := by
  have h := Only.refl [.pm, .ctl, .walk, .fault, .irq, .log, .twin] s
  unfold State.coolT
  try dsimp only
  repeat' first
    | with_reducible assumption | with_reducible apply Only.lift (State.enqueue_only _ _ _) | split
    | with_reducible refine Only.mk_upd ?_ | (with_reducible show Part.sub _ _ = true; decide)

theorem State.sendForce_only (s : State) : Only [.ring, .twin] s (State.sendForce s) := by
  have h := Only.refl [.ring, .twin] s
  unfold State.sendForce
  try dsimp only
  repeat' first
    | with_reducible assumption | with_reducible apply Only.lift (State.soundHorn_only _ _ _)
    | with_reducible apply Only.lift (State.tellTwin_only _ _ _ _) | (with_reducible show Part.sub _ _ = true; decide)

theorem State.coolForce_only (s : State) : Only [.pm, .out, .ctl, .walk, .fault, .irq, .mg, .log, .ring, .twin, .pwm] s
    (State.coolForce s) := by
  have h := Only.refl [.pm, .out, .ctl, .walk, .fault, .irq, .mg, .log, .ring, .twin, .pwm] s
  unfold State.coolForce
  try dsimp only
  repeat' first
    | with_reducible assumption | with_reducible apply Only.lift (State.assertPfw_only _)
    | with_reducible apply Only.lift (State.assertTripo_only _)
    | with_reducible apply Only.lift (State.tellTwin_only _ _ _ _)
    | with_reducible apply Only.lift (State.enqueue_only _ _ _) | with_reducible apply Only.lift (State.sendForce_only _)
    | with_reducible apply Only.lift (State.faultShard_only _ _ _ _ _)
    | with_reducible apply Only.lift (State.recordFault_only _ _)
    | with_reducible apply Only.lift (State.walkSwitch_only _ _ _)
    | with_reducible apply Only.lift (State.walkBegin_only _) | split | with_reducible refine Only.mk_upd ?_
    | (with_reducible show Part.sub _ _ = true; decide)

theorem State.holdFault_only (s : State) (f : FaultRec) (table : Nat) : Only [.pm, .fault] s (State.holdFault s f table) :=
    by
  have h := Only.refl [.pm, .fault] s
  unfold State.holdFault
  try dsimp only
  repeat' first | with_reducible assumption | split | with_reducible refine Only.mk_upd ?_

theorem State.recordOnly_only (s : State) (f : FaultRec) : Only [.pm, .out, .ctl, .fault, .irq, .twin, .pwm] s
    (State.recordOnly s f) := by
  have h := Only.refl [.pm, .out, .ctl, .fault, .irq, .twin, .pwm] s
  unfold State.recordOnly
  try dsimp only
  repeat' first
    | with_reducible assumption | with_reducible apply Only.lift (State.setLatch_only _)
    | with_reducible apply Only.lift (State.recordBisque_only _ _ _)
    | with_reducible apply Only.lift (State.recordFirst_only _ _ _)
    | with_reducible apply Only.lift (State.assertPfw_only _) | with_reducible apply Only.lift (State.assertTripo_only _)
    | split | with_reducible refine Only.mk_upd ?_ | (with_reducible show Part.sub _ _ = true; decide)

theorem State.wakeUp_only (s : State) : Only [.clk, .pm, .out, .log] s (State.wakeUp s) := by
  have h := Only.refl [.clk, .pm, .out, .log] s
  unfold State.wakeUp
  try dsimp only
  repeat' first
    | with_reducible assumption | with_reducible apply Only.lift (State.goTo_only _ _ _)
    | with_reducible refine Only.mk_upd ?_ | (with_reducible show Part.sub _ _ = true; decide)

theorem State.wake_only (s : State) : Only [.clk, .pm, .out, .log] s (State.wake s) := by
  have h := Only.refl [.clk, .pm, .out, .log] s
  unfold State.wake
  try dsimp only
  repeat' first
    | with_reducible assumption | with_reducible apply Only.lift (State.wakeUp_only _) | split
    | with_reducible refine Only.mk_upd ?_ | (with_reducible show Part.sub _ _ = true; decide)

theorem State.receiveW_only (s : State) (f : FaultRec) : Only [.clk, .pm, .out, .ctl, .fault, .irq, .log, .free] s
    (State.receiveW s f) := by
  have h := Only.refl [.clk, .pm, .out, .ctl, .fault, .irq, .log, .free] s
  unfold State.receiveW
  try dsimp only
  repeat' first
    | with_reducible assumption | with_reducible apply Only.lift (State.irqCt_only _ _)
    | with_reducible apply Only.lift (State.faultShard_only _ _ _ _ _)
    | with_reducible apply Only.lift (State.holdFault_only _ _ _) | with_reducible apply Only.lift (State.wake_only _)
    | split | with_reducible refine Only.mk_upd ?_ | (with_reducible show Part.sub _ _ = true; decide)

theorem State.receiveTH_only (s : State) (f : FaultRec) (table : Nat) : Only [.clk, .pm, .out, .ctl, .kiln, .walk, .fault,
    .irq, .mg, .log, .port, .ring, .twin, .tw, .pwm, .free] s (State.receiveTH s f table) := by
  have h := Only.refl [.clk, .pm, .out, .ctl, .kiln, .walk, .fault, .irq, .mg, .log, .port, .ring, .twin, .tw, .pwm, .free] s
  unfold State.receiveTH
  try dsimp only
  repeat' first
    | with_reducible assumption | with_reducible apply Only.lift (State.startShutdown_only _ _ _ _ _ _)
    | with_reducible apply Only.lift (State.coolH_only _ _ _) | with_reducible apply Only.lift (State.coolT_only _ _ _)
    | with_reducible apply Only.lift (State.holdFault_only _ _ _)
    | with_reducible apply Only.lift (State.recordOnly_only _ _) | with_reducible apply Only.lift (State.wake_only _)
    | split | with_reducible refine Only.mk_upd ?_ | (with_reducible show Part.sub _ _ = true; decide)

theorem State.receiveAs_only (s : State) (f : FaultRec) (table : Nat) : Only [.clk, .pm, .out, .ctl, .kiln, .walk, .fault,
    .irq, .mg, .log, .port, .ring, .twin, .tw, .pwm, .free] s (State.receiveAs s f table) := by
  have h := Only.refl [.clk, .pm, .out, .ctl, .kiln, .walk, .fault, .irq, .mg, .log, .port, .ring, .twin, .tw, .pwm, .free] s
  unfold State.receiveAs
  repeat' first
    | with_reducible assumption | with_reducible apply Only.lift (State.faultShard_only _ _ _ _ _)
    | with_reducible apply Only.lift (State.receiveW_only _ _)
    | with_reducible apply Only.lift (State.receiveTH_only _ _ _) | split
    | (with_reducible show Part.sub _ _ = true; decide)

theorem State.receive_only (s : State) (f : FaultRec) : Only [.clk, .pm, .out, .ctl, .kiln, .walk, .fault, .irq, .mg, .log,
    .port, .ring, .twin, .tw, .pwm, .free] s (State.receive s f) := by
  have h := Only.refl [.clk, .pm, .out, .ctl, .kiln, .walk, .fault, .irq, .mg, .log, .port, .ring, .twin, .tw, .pwm, .free] s
  unfold State.receive
  repeat' first
    | with_reducible assumption | with_reducible apply Only.lift (State.receiveAs_only _ _ _)
    | (with_reducible show Part.sub _ _ = true; decide)

theorem State.receiveCause_only (s : State) (x : Nat) (source : Nat) : Only [.clk, .pm, .out, .ctl, .kiln, .walk, .fault,
    .irq, .mg, .log, .port, .ring, .twin, .tw, .pwm, .free] s (State.receiveCause s x source) := by
  have h := Only.refl [.clk, .pm, .out, .ctl, .kiln, .walk, .fault, .irq, .mg, .log, .port, .ring, .twin, .tw, .pwm, .free] s
  unfold State.receiveCause
  repeat' first
    | with_reducible assumption | with_reducible apply Only.lift (State.receive_only _ _)
    | (with_reducible show Part.sub _ _ = true; decide)

theorem State.forceOff_only (s : State) : Only [.clk, .pm, .out, .ctl, .kiln, .walk, .fault, .irq, .mg, .log, .port,
    .ring, .twin, .tw, .pwm, .free] s (State.forceOff s) := by
  have h := Only.refl [.clk, .pm, .out, .ctl, .kiln, .walk, .fault, .irq, .mg, .log, .port, .ring, .twin, .tw, .pwm, .free]
      s
  unfold State.forceOff
  try dsimp only
  repeat' first
    | with_reducible assumption | with_reducible apply Only.lift (State.startShutdown_only _ _ _ _ _ _)
    | with_reducible apply Only.lift (State.coolForce_only _) | with_reducible apply Only.lift (State.recordOnly_only _ _)
    | with_reducible apply Only.lift (State.holdFault_only _ _ _)
    | with_reducible apply Only.lift (State.recordBisque_only _ _ _) | split | with_reducible refine Only.mk_upd ?_
    | (with_reducible show Part.sub _ _ = true; decide)

theorem State.engineFault_only (s : State) (k : Nat) (err : Nat) : Only [.clk, .pm, .out, .ctl, .kiln, .walk, .fault, .irq,
    .mg, .log, .port, .ring, .twin, .tw, .pwm, .free] s (State.engineFault s k err) := by
  have h := Only.refl [.clk, .pm, .out, .ctl, .kiln, .walk, .fault, .irq, .mg, .log, .port, .ring, .twin, .tw, .pwm, .free] s
  unfold State.engineFault
  try dsimp only
  repeat' first
    | with_reducible assumption | with_reducible apply Only.lift (State.receive_only _ _) | split
    | (with_reducible show Part.sub _ _ = true; decide)

theorem State.onArises_only (s : State) (cause : Nat) : Only [.clk, .pm, .ctl, .kiln, .mg, .log, .ring, .twin] s
    (State.onArises s cause) := by
  have h := Only.refl [.clk, .pm, .ctl, .kiln, .mg, .log, .ring, .twin] s
  unfold State.onArises
  try dsimp only
  repeat' first
    | with_reducible assumption | with_reducible apply Only.lift (State.mirror_only _ _ _)
    | with_reducible apply Only.lift (State.onRequest_only _ _) | split
    | (with_reducible show Part.sub _ _ = true; decide)

end Sys2Proof.Machine
end

