-- ==== Sys2Proof/Laws/OnlySense.lean ====
section
/-! SUPPORT. What each operation on measurement, the log, conversion and the clocks can change. -/

set_option Elab.async false

namespace Sys2Proof.Machine

theorem State.armAll_only (s : State) (srcs : List Nat) : Only [.sense] s (State.armAll s srcs) := by
  have h := Only.refl [.sense] s
  unfold State.armAll
  repeat' first
    | with_reducible assumption | with_reducible refine Only.foldl _ ?_ (fun u x hu => ?_)
    | with_reducible apply Only.lift (State.setCmp_only _ _ _) | split | with_reducible refine Only.mk_upd ?_
    | (with_reducible show Part.sub _ _ = true; decide)

theorem State.reeval_only (s : State) (src : Nat) : Only [.sense] s (State.reeval s src) := by
  have h := Only.refl [.sense] s
  unfold State.reeval
  try dsimp only
  repeat' first
    | with_reducible assumption | with_reducible apply Only.lift (State.setCmp_only _ _ _) | split
    | with_reducible refine Only.mk_upd ?_ | (with_reducible show Part.sub _ _ = true; decide)

theorem State.startSettle_only (s : State) (src : Nat) : Only [.sense] s (State.startSettle s src) := by
  have h := Only.refl [.sense] s
  unfold State.startSettle
  try dsimp only
  repeat' first
    | with_reducible assumption | with_reducible apply Only.lift (State.setCmp_only _ _ _)
    | with_reducible refine Only.mk_upd ?_ | (with_reducible show Part.sub _ _ = true; decide)

theorem State.cutRamp_only (s : State) (src : Nat) : Only [.sense] s (State.cutRamp s src) := by
  have h := Only.refl [.sense] s
  unfold State.cutRamp
  repeat' first
    | with_reducible assumption | with_reducible apply Only.lift (State.startSettle_only _ _)
    | with_reducible apply Only.lift (State.setCmp_only _ _ _) | split | with_reducible refine Only.mk_upd ?_
    | (with_reducible show Part.sub _ _ = true; decide)

theorem State.dropRamp_only (s : State) (src : Nat) : Only [.sense] s (State.dropRamp s src) := by
  have h := Only.refl [.sense] s
  unfold State.dropRamp
  try dsimp only
  repeat' first
    | with_reducible assumption | with_reducible apply Only.lift (State.setCmp_only _ _ _)
    | with_reducible apply Only.lift (State.cutRamp_only _ _) | split | with_reducible refine Only.mk_upd ?_
    | (with_reducible show Part.sub _ _ = true; decide)

theorem State.testWrites_only (s : State) (old : State) (src : Nat) : Only [.sense] s (State.testWrites s old src) := by
  have h := Only.refl [.sense] s
  unfold State.testWrites
  try dsimp only
  repeat' first
    | with_reducible assumption | with_reducible apply Only.lift (State.startSettle_only _ _) | split
    | (with_reducible show Part.sub _ _ = true; decide)

theorem State.abandonTest_only (s : State) : Only [.sense] s (State.abandonTest s) := by
  have h := Only.refl [.sense] s
  unfold State.abandonTest
  try dsimp only
  repeat' first
    | with_reducible assumption | with_reducible apply Only.lift (State.testWrites_only _ _ _)
    | with_reducible apply Only.lift (State.reeval_only _ _) | split | with_reducible refine Only.mk_upd ?_
    | (with_reducible show Part.sub _ _ = true; decide)

theorem State.armRamp_only (s : State) (engine : Nat) (src : Nat) : Only [.sense] s (State.armRamp s engine src) := by
  have h := Only.refl [.sense] s
  unfold State.armRamp
  try dsimp only
  repeat' first
    | with_reducible assumption | with_reducible apply Only.lift (State.setCmp_only _ _ _)
    | with_reducible apply Only.lift (State.startSettle_only _ _) | split | with_reducible refine Only.mk_upd ?_
    | (with_reducible show Part.sub _ _ = true; decide)

theorem State.armRamps_only (s : State) (engine : Nat) (srcs : List Nat) : Only [.sense] s (State.armRamps s engine srcs) :=
    by
  have h := Only.refl [.sense] s
  unfold State.armRamps
  repeat' first
    | with_reducible assumption | with_reducible refine Only.foldl _ ?_ (fun u x hu => ?_)
    | with_reducible apply Only.lift (State.armRamp_only _ _ _) | split
    | (with_reducible show Part.sub _ _ = true; decide)

theorem State.observe_only (s : State) (src : Nat) (fault : Bool) : Only [.sense] s (State.observe s src fault) := by
  have h := Only.refl [.sense] s
  unfold State.observe
  try dsimp only
  repeat' first
    | with_reducible assumption | with_reducible apply Only.lift (State.setCmp_only _ _ _) | split
    | with_reducible refine Only.mk_upd ?_ | (with_reducible show Part.sub _ _ = true; decide)

theorem State.observeEngine_only (s : State) (k : Nat) : Only [.kiln] s (State.observeEngine s k) := by
  have h := Only.refl [.kiln] s
  unfold State.observeEngine
  try dsimp only
  repeat' first
    | with_reducible assumption | with_reducible apply Only.lift (State.observe_only _ _ _)
    | with_reducible refine Only.foldl _ ?_ (fun u x hu => ?_) | split | with_reducible refine Only.mk_upd ?_
    | (with_reducible show Part.sub _ _ = true; decide)

theorem State.observeChecks_only (s : State) : Only [.kiln] s (State.observeChecks s) := by
  have h := Only.refl [.kiln] s
  unfold State.observeChecks
  repeat' first
    | with_reducible assumption | with_reducible refine Only.foldl _ ?_ (fun u x hu => ?_)
    | with_reducible apply Only.lift (State.observeEngine_only _ _) | (with_reducible show Part.sub _ _ = true; decide)

theorem State.deliver_only (s : State) (e : FaultRec × Nat) : Only [.clk, .pm, .out, .ctl, .kiln, .walk, .fault, .irq, .mg,
    .log, .port, .ring, .twin, .tw, .pwm, .free] s (State.deliver s e) := by
  have h := Only.refl [.clk, .pm, .out, .ctl, .kiln, .walk, .fault, .irq, .mg, .log, .port, .ring, .twin, .tw, .pwm, .free] s
  unfold State.deliver
  try dsimp only
  repeat' first
    | with_reducible assumption | with_reducible apply Only.lift (State.receive_only _ _) | split
    | with_reducible refine Only.mk_upd ?_ | (with_reducible show Part.sub _ _ = true; decide)

theorem State.endPersist_only (s : State) (src : Nat) : Only [.clk, .pm, .out, .ctl, .kiln, .walk, .fault, .irq, .mg, .log,
    .port, .ring, .twin, .tw, .pwm, .free] s (State.endPersist s src) := by
  have h := Only.refl [.clk, .pm, .out, .ctl, .kiln, .walk, .fault, .irq, .mg, .log, .port, .ring, .twin, .tw, .pwm, .free] s
  unfold State.endPersist
  try dsimp only
  repeat' first
    | with_reducible assumption | with_reducible refine Only.foldl _ ?_ (fun u x hu => ?_)
    | with_reducible apply Only.lift (State.receive_only _ _) | split | with_reducible refine Only.mk_upd ?_
    | (with_reducible show Part.sub _ _ = true; decide)

theorem State.sweepSees_only (s : State) : Only [.mg, .log, .free] s (State.sweepSees s) := by
  have h := Only.refl [.mg, .log, .free] s
  unfold State.sweepSees
  try dsimp only
  repeat' first
    | with_reducible assumption | with_reducible apply Only.lift (State.abortRail_only _ _ _) | split
    | with_reducible refine Only.mk_upd ?_ | (with_reducible show Part.sub _ _ = true; decide)

theorem State.coreSees_only (s : State) (old : State) (srcs : List Nat) : Only [.clk, .pm, .out, .ctl, .kiln, .walk, .fault,
    .irq, .mg, .log, .port, .ring, .twin, .tw, .pwm, .free] s (State.coreSees s old srcs) := by
  have h := Only.refl [.clk, .pm, .out, .ctl, .kiln, .walk, .fault, .irq, .mg, .log, .port, .ring, .twin, .tw, .pwm, .free] s
  unfold State.coreSees
  try dsimp only
  repeat' first
    | with_reducible assumption | with_reducible refine Only.foldl _ ?_ (fun u x hu => ?_)
    | with_reducible apply Only.lift (State.sweepSees_only _)
    | with_reducible apply Only.lift (State.observeChecks_only _)
    | with_reducible apply Only.lift (State.deliver_only _ _) | with_reducible apply Only.lift (State.endPersist_only _ _)
    | (with_reducible show Part.sub _ _ = true; decide)

theorem State.senseChange_only (s : State) (old : State) (srcs : List Nat) : Only [.clk, .pm, .out, .ctl, .sense, .kiln,
    .walk, .fault, .irq, .mg, .log, .port, .ring, .twin, .tw, .pwm, .free] s (State.senseChange s old srcs) := by
  have h := Only.refl [.clk, .pm, .out, .ctl, .sense, .kiln, .walk, .fault, .irq, .mg, .log, .port, .ring, .twin, .tw,
      .pwm, .free] s
  unfold State.senseChange
  try dsimp only
  repeat' first
    | with_reducible assumption | with_reducible apply Only.lift (State.armAll_only _ _)
    | with_reducible apply Only.lift (State.refreshFlt_only _ _)
    | with_reducible apply Only.lift (State.coreSees_only _ _ _) | split
    | (with_reducible show Part.sub _ _ = true; decide)

theorem State.rampRails_only (s : State) (engine : Nat) (srcs : List Nat) : Only [.clk, .pm, .out, .ctl, .sense, .kiln,
    .walk, .fault, .irq, .mg, .log, .port, .ring, .twin, .tw, .pwm, .free] s (State.rampRails s engine srcs) := by
  have h := Only.refl [.clk, .pm, .out, .ctl, .sense, .kiln, .walk, .fault, .irq, .mg, .log, .port, .ring, .twin, .tw,
      .pwm, .free] s
  unfold State.rampRails
  try dsimp only
  repeat' first
    | with_reducible assumption | with_reducible apply Only.lift (State.abandonTest_only _)
    | with_reducible apply Only.lift (State.armRamps_only _ _ _)
    | with_reducible apply Only.lift (State.senseChange_only _ _ _) | split | with_reducible refine Only.mk_upd ?_
    | (with_reducible show Part.sub _ _ = true; decide)

theorem State.forcedChange_only (s : State) (old : State) : Only [.sense, .kiln, .irq, .mg, .log, .pwm, .free] s
    (State.forcedChange s old) := by
  have h := Only.refl [.sense, .kiln, .irq, .mg, .log, .pwm, .free] s
  unfold State.forcedChange
  repeat' first
    | with_reducible assumption | with_reducible apply Only.lift (State.sweepSees_only _)
    | with_reducible apply Only.lift (State.observeChecks_only _)
    | with_reducible apply Only.lift (State.refreshFlt_only _ _) | (with_reducible show Part.sub _ _ = true; decide)

theorem State.cmpLow_only (s : State) (src : Nat) : Only [.sense] s (State.cmpLow s src) := by
  have h := Only.refl [.sense] s
  unfold State.cmpLow
  try dsimp only
  repeat' first
    | with_reducible assumption | with_reducible apply Only.lift (State.dropRamp_only _ _)
    | with_reducible apply Only.lift (State.reeval_only _ _) | with_reducible apply Only.lift (State.setCmp_only _ _ _)
    | with_reducible refine Only.mk_upd ?_ | (with_reducible show Part.sub _ _ = true; decide)

theorem State.disable_only (s : State) (m : Rails) : Only [.clk, .pm, .out, .ctl, .sense, .kiln, .walk, .fault, .irq, .mg,
    .log, .port, .ring, .twin, .tw, .pwm, .free] s (State.disable s m) := by
  have h := Only.refl [.clk, .pm, .out, .ctl, .sense, .kiln, .walk, .fault, .irq, .mg, .log, .port, .ring, .twin, .tw,
      .pwm, .free] s
  unfold State.disable
  try dsimp only
  repeat' first
    | with_reducible assumption | with_reducible apply Only.lift (State.cmpLow_only _ _)
    | with_reducible apply Only.lift (State.senseChange_only _ _ _)
    | with_reducible refine Only.foldl _ ?_ (fun u x hu => ?_) | split | with_reducible refine Only.mk_upd ?_
    | (with_reducible show Part.sub _ _ = true; decide)

theorem State.enLow_only (s : State) (mask : Rails) : Only [.clk, .pm, .out, .ctl, .sense, .kiln, .walk, .fault, .irq,
    .mg, .log, .port, .ring, .twin, .tw, .pwm, .free] s (State.enLow s mask) := by
  have h := Only.refl [.clk, .pm, .out, .ctl, .sense, .kiln, .walk, .fault, .irq, .mg, .log, .port, .ring, .twin, .tw,
      .pwm, .free] s
  unfold State.enLow
  try dsimp only
  repeat' first
    | with_reducible assumption | with_reducible apply Only.lift (State.disable_only _ _)
    | (with_reducible show Part.sub _ _ = true; decide)

theorem State.cmpEnable_only (s : State) (src : Nat) : Only [.sense] s (State.cmpEnable s src) := by
  have h := Only.refl [.sense] s
  unfold State.cmpEnable
  try dsimp only
  repeat' first
    | with_reducible assumption | with_reducible apply Only.lift (State.setCmp_only _ _ _) | split
    | with_reducible refine Only.mk_upd ?_ | (with_reducible show Part.sub _ _ = true; decide)

theorem State.enHigh_only (s : State) (mask : Rails) : Only [.clk, .pm, .out, .ctl, .sense, .kiln, .walk, .fault, .irq, .mg,
    .log, .port, .ring, .twin, .tw, .pwm, .free] s (State.enHigh s mask) := by
  have h := Only.refl [.clk, .pm, .out, .ctl, .sense, .kiln, .walk, .fault, .irq, .mg, .log, .port, .ring, .twin, .tw, .pwm,
      .free] s
  unfold State.enHigh
  try dsimp only
  repeat' first
    | with_reducible assumption | with_reducible refine Only.foldl _ ?_ (fun u x hu => ?_)
    | with_reducible apply Only.lift (State.trimNominal_only _ _)
    | with_reducible apply Only.lift (State.senseChange_only _ _ _)
    | with_reducible apply Only.lift (State.cmpEnable_only _ _) | split | with_reducible refine Only.mk_upd ?_
    | (with_reducible show Part.sub _ _ = true; decide)

theorem State.setRegion_only (s : State) (r : Nat) (x : Region) : Only [.log] s (State.setRegion s r x) := by
  have h := Only.refl [.log] s
  unfold State.setRegion
  repeat' first | with_reducible assumption | split | with_reducible refine Only.mk_upd ?_

theorem State.writeShard_only (s : State) (r : Nat) (x : Shard) (origin : Option Nat) (window : Nat) : Only [.log] s
    (State.writeShard s r x origin window) := by
  have h := Only.refl [.log] s
  unfold State.writeShard
  try dsimp only
  repeat' first
    | with_reducible assumption | with_reducible apply Only.lift (State.setRegion_only _ _ _)
    | with_reducible refine Only.mk_upd ?_ | (with_reducible show Part.sub _ _ = true; decide)

theorem State.openWindow_only (s : State) (y : Stored) (rest : List Copy) : Only [.irq, .log] s (State.openWindow s y
    rest) := by
  have h := Only.refl [.irq, .log] s
  unfold State.openWindow
  try dsimp only
  repeat' first
    | with_reducible assumption | with_reducible apply Only.lift (State.irqLg_only _ _)
    | with_reducible apply Only.lift (State.logEvent_only _ _ _ _ _) | split | with_reducible refine Only.mk_upd ?_
    | (with_reducible show Part.sub _ _ = true; decide)

theorem State.postCopy_only (s : State) (y : Stored) (rest : List Copy) : Only [.log] s (State.postCopy s y rest) := by
  have h := Only.refl [.log] s
  unfold State.postCopy
  try dsimp only
  repeat' first | with_reducible assumption | with_reducible refine Only.mk_upd ?_

theorem State.setGroup_only (s : State) (g : Nat) (f : Group → Group) : Only [.sense] s (State.setGroup s g f) := by
  have h := Only.refl [.sense] s
  unfold State.setGroup
  repeat' first | with_reducible assumption | with_reducible refine Only.mk_upd ?_

theorem State.skipEmpty_only (s : State) (g n : Nat) : Only [.sense] s (s.skipEmpty g n) := by
  induction n generalizing s with
  | zero => exact Only.refl _ s
  | succ k ih =>
    unfold State.skipEmpty
    dsimp only
    split
    · exact (State.setGroup_only _ _ _).trans (ih _)
    · exact Only.refl _ s

theorem State.groupDone_only (s : State) (g : Nat) : Only [.sense] s (State.groupDone s g) := by
  have h := Only.refl [.sense] s
  unfold State.groupDone
  try dsimp only
  repeat' first
    | with_reducible assumption | with_reducible apply Only.lift (State.setGroup_only _ _ _) | split
    | with_reducible refine Only.mk_upd ?_ | (with_reducible show Part.sub _ _ = true; decide)

theorem State.convert_only (s : State) (c : Nat) (input : Nat) (t : Nat) (u : ConvUser) : Only [.sense] s (State.convert s c
    input t u) := by
  have h := Only.refl [.sense] s
  unfold State.convert
  repeat' first | with_reducible assumption | with_reducible refine Only.mk_upd ?_

theorem State.handGroup_only (s : State) (g : Nat) (c : Nat) (t : Nat) : Only [.sense] s (State.handGroup s g c t) := by
  have h := Only.refl [.sense] s
  unfold State.handGroup
  try dsimp only
  repeat' first
    | with_reducible assumption | with_reducible apply Only.lift (State.skipEmpty_only _ _ _)
    | with_reducible apply Only.lift (State.groupDone_only _ _)
    | with_reducible apply Only.lift (State.setGroup_only _ _ _)
    | with_reducible apply Only.lift (State.convert_only _ _ _ _ _) | split | with_reducible refine Only.mk_upd ?_
    | (with_reducible show Part.sub _ _ = true; decide)

theorem State.openOne_only (s : State) (g : Nat) (c : Nat) : Only [.sense] s (State.openOne s g c) := by
  have h := Only.refl [.sense] s
  unfold State.openOne
  try dsimp only
  repeat' first
    | with_reducible assumption | with_reducible apply Only.lift (State.handGroup_only _ _ _ _) | split
    | (with_reducible show Part.sub _ _ = true; decide)

theorem State.openGroups_only (s : State) : Only [.sense] s (State.openGroups s) := by
  have h := Only.refl [.sense] s
  unfold State.openGroups
  try dsimp only
  repeat' first
    | with_reducible assumption | with_reducible apply Only.lift (State.openOne_only _ _ _)
    | with_reducible refine Only.foldl _ ?_ (fun u x hu => ?_) | split | (with_reducible show Part.sub _ _ = true; decide)

theorem State.trigger_only (s : State) (g : Nat) (t : Nat) : Only [.sense] s (State.trigger s g t) := by
  have h := Only.refl [.sense] s
  unfold State.trigger
  try dsimp only
  repeat' first
    | with_reducible assumption | with_reducible apply Only.lift (State.setGroup_only _ _ _)
    | with_reducible apply Only.lift (State.skipEmpty_only _ _ _)
    | with_reducible apply Only.lift (State.groupDone_only _ _) | with_reducible apply Only.lift (State.openGroups_only _)
    | split | with_reducible refine Only.mk_upd ?_ | (with_reducible show Part.sub _ _ = true; decide)

theorem State.reachShard_only (s : State) (y : Stored) (c : Copy) (rest : List Copy) : Only [.irq, .log] s (State.reachShard
    s y c rest) := by
  have h := Only.refl [.irq, .log] s
  unfold State.reachShard
  try dsimp only
  repeat' first
    | with_reducible assumption | with_reducible apply Only.lift (State.openWindow_only _ _ _)
    | with_reducible apply Only.lift (State.postCopy_only _ _ _) | split | with_reducible refine Only.mk_upd ?_
    | (with_reducible show Part.sub _ _ = true; decide)

theorem State.missShard_only (s : State) (c : Copy) (rest : List Copy) : Only [.log] s (State.missShard s c rest) := by
  have h := Only.refl [.log] s
  unfold State.missShard
  try dsimp only
  repeat' first
    | with_reducible assumption | with_reducible apply Only.lift (State.logEvent_only _ _ _ _ _)
    | with_reducible refine Only.foldl _ ?_ (fun u x hu => ?_) | split | with_reducible refine Only.mk_upd ?_
    | (with_reducible show Part.sub _ _ = true; decide)

theorem State.reach_only (s : State) (n : Nat) : Only [.irq, .log] s (s.reach n) := by
  induction n generalizing s with
  | zero => exact Only.refl _ s
  | succ k ih =>
    unfold State.reach
    split
    · split
      · split
        · exact Only.trans ((State.missShard_only _ _ _).mono (by decide)) (ih _)
        · split
          · exact (Only.refl _ s).mk_upd
          · exact Only.trans ((State.reachShard_only _ _ _ _).mono (by decide)) (ih _)
      · exact Only.refl _ s
    · exact Only.refl _ s

theorem State.skipTorn_only (s : State) (r : Nat) (x : Shard) : Only [.log] s (State.skipTorn s r x) := by
  have h := Only.refl [.log] s
  unfold State.skipTorn
  try dsimp only
  repeat' first
    | with_reducible assumption | with_reducible apply Only.lift (State.setRegion_only _ _ _) | split
    | with_reducible refine Only.mk_upd ?_ | (with_reducible show Part.sub _ _ = true; decide)

theorem State.writeFr_only (s : State) (x : Shard) : Only [.log] s (State.writeFr s x) := by
  have h := Only.refl [.log] s
  unfold State.writeFr
  try dsimp only
  repeat' first
    | with_reducible assumption | with_reducible apply Only.lift (State.skipTorn_only _ _ _)
    | with_reducible apply Only.lift (State.writeShard_only _ _ _ _ _)
    | with_reducible apply Only.lift (State.trigger_only _ _ _) | split | with_reducible refine Only.mk_upd ?_
    | (with_reducible show Part.sub _ _ = true; decide)

theorem State.commitFr_only (s : State) (x : Shard) : Only [.irq, .log] s (State.commitFr s x) := by
  have h := Only.refl [.irq, .log] s
  unfold State.commitFr
  try dsimp only
  repeat' first
    | with_reducible assumption | with_reducible apply Only.lift (State.writeFr_only _ _)
    | with_reducible apply Only.lift (State.reach_only _ _) | split | (with_reducible show Part.sub _ _ = true; decide)

theorem State.archiveLow_only (s : State) (old : State) : Only [.irq] s (State.archiveLow s old) := by
  have h := Only.refl [.irq] s
  unfold State.archiveLow
  repeat' first
    | with_reducible assumption | with_reducible apply Only.lift (State.irqLg_only _ _) | split
    | (with_reducible show Part.sub _ _ = true; decide)

theorem State.commitTornFa_only (s : State) : Only [.irq, .log] s (State.commitTornFa s) := by
  have h := Only.refl [.irq, .log] s
  unfold State.commitTornFa
  try dsimp only
  repeat' first
    | with_reducible assumption | with_reducible apply Only.lift (State.writeShard_only _ _ _ _ _)
    | with_reducible apply Only.lift (State.skipTorn_only _ _ _)
    | with_reducible apply Only.lift (State.archiveLow_only _ _) | split | with_reducible refine Only.mk_upd ?_
    | (with_reducible show Part.sub _ _ = true; decide)

theorem State.drainBuffer_only (s : State) (n : Nat) : Only [.irq, .log] s (s.drainBuffer n) := by
  induction n generalizing s with
  | zero => exact Only.refl _ s
  | succ n ih =>
    unfold State.drainBuffer
    split
    · exact Only.refl _ s
    · exact (Only.foldl _ (Only.refl _ s).mk_upd fun u x hu => hu.trans (State.commitFr_only u x)).trans (ih _)

theorem State.flushBuffer_only (s : State) : Only [.irq, .log] s (State.flushBuffer s) := by
  have h := Only.refl [.irq, .log] s
  unfold State.flushBuffer
  try dsimp only
  repeat' first
    | with_reducible assumption | with_reducible apply Only.lift (State.commitTornFa_only _)
    | with_reducible apply Only.lift (State.drainBuffer_only _ _) | (with_reducible show Part.sub _ _ = true; decide)

theorem State.captureTorn_only (s : State) : Only [.log] s (State.captureTorn s) := by
  have h := Only.refl [.log] s
  unfold State.captureTorn
  try dsimp only
  repeat' first | with_reducible assumption | with_reducible refine Only.mk_upd ?_

theorem State.endWindows_only (s : State) : Only [.log] s (State.endWindows s) := by
  have h := Only.refl [.log] s
  unfold State.endWindows
  try dsimp only
  repeat' first
    | with_reducible assumption | with_reducible refine Only.foldl _ ?_ (fun u x hu => ?_) | split
    | with_reducible refine Only.mk_upd ?_

theorem State.resolveBy_only (s : State) (n : Nat) (code : BitVec 16) : Only [.clk, .pm, .out, .ctl, .sense, .kiln, .walk,
    .fault, .irq, .mg, .log, .port, .ring, .twin, .tw, .pwm, .free] s (State.resolveBy s n code) := by
  have h := Only.refl [.clk, .pm, .out, .ctl, .sense, .kiln, .walk, .fault, .irq, .mg, .log, .port, .ring, .twin, .tw, .pwm,
      .free] s
  unfold State.resolveBy
  try dsimp only
  repeat' first
    | with_reducible assumption | with_reducible refine Only.foldl _ ?_ (fun u x hu => ?_)
    | with_reducible apply Only.lift (State.observe_only _ _ _)
    | with_reducible apply Only.lift (State.senseChange_only _ _ _) | split | with_reducible refine Only.mk_upd ?_
    | (with_reducible show Part.sub _ _ = true; decide)

theorem State.putReading_only (s : State) (i : Nat) (code : BitVec 16) : Only [.sense, .walk] s (State.putReading s i code)
    := by
  have h := Only.refl [.sense, .walk] s
  unfold State.putReading
  try dsimp only
  repeat' first | with_reducible assumption | split | with_reducible refine Only.mk_upd ?_

theorem State.bumpSeq_only (s : State) (i : Nat) : Only [.sense] s (State.bumpSeq s i) := by
  have h := Only.refl [.sense] s
  unfold State.bumpSeq
  try dsimp only
  repeat' first | with_reducible assumption | with_reducible refine Only.mk_upd ?_

theorem State.takeReading_only (s : State) (i : Nat) (raw : BitVec 16) : Only [.clk, .pm, .out, .ctl, .sense, .kiln,
    .walk, .fault, .irq, .mg, .log, .port, .ring, .twin, .tw, .pwm, .free] s (State.takeReading s i raw) := by
  have h := Only.refl [.clk, .pm, .out, .ctl, .sense, .kiln, .walk, .fault, .irq, .mg, .log, .port, .ring, .twin, .tw,
      .pwm, .free] s
  unfold State.takeReading
  try dsimp only
  repeat' first
    | with_reducible assumption | with_reducible apply Only.lift (State.bumpSeq_only _ _)
    | with_reducible apply Only.lift (State.putReading_only _ _ _)
    | with_reducible apply Only.lift (State.resolveBy_only _ _ _) | split | with_reducible refine Only.mk_upd ?_
    | (with_reducible show Part.sub _ _ = true; decide)

theorem State.startPass_only (s : State) : Only [.sense] s (State.startPass s) := by
  have h := Only.refl [.sense] s
  unfold State.startPass
  try dsimp only
  repeat' first | with_reducible assumption | with_reducible refine Only.mk_upd ?_

theorem State.turnPass_only (s : State) : Only [.sense] s (State.turnPass s) := by
  have h := Only.refl [.sense] s
  unfold State.turnPass
  try dsimp only
  repeat' first
    | with_reducible assumption | with_reducible apply Only.lift (State.startPass_only _) | split
    | (with_reducible show Part.sub _ _ = true; decide)

theorem State.serve_only (s : State) (c : Nat) (d : Demand) : Only [.sense] s (State.serve s c d) := by
  have h := Only.refl [.sense] s
  unfold State.serve
  try dsimp only
  repeat' first
    | with_reducible assumption | with_reducible apply Only.lift (State.convert_only _ _ _ _ _)
    | with_reducible refine Only.mk_upd ?_ | (with_reducible show Part.sub _ _ = true; decide)

theorem State.turnLate_only (s : State) : Only [.sense] s (State.turnLate s) := by
  have h := Only.refl [.sense] s
  unfold State.turnLate
  try dsimp only
  repeat' first
    | with_reducible assumption | with_reducible apply Only.lift (State.turnPass_only _) | split
    | (with_reducible show Part.sub _ _ = true; decide)

theorem State.handScan_only (s : State) (c : Nat) : Only [.sense] s (State.handScan s c) := by
  have h := Only.refl [.sense] s
  unfold State.handScan
  try dsimp only
  repeat' first
    | with_reducible assumption | with_reducible apply Only.lift (State.turnPass_only _)
    | with_reducible apply Only.lift (State.convert_only _ _ _ _ _)
    | with_reducible apply Only.lift (State.turnLate_only _) | with_reducible refine Only.mk_upd ?_
    | (with_reducible show Part.sub _ _ = true; decide)

theorem State.assign_only (s : State) (c n : Nat) : Only [.sense] s (s.assign c n) := by
  induction n generalizing s with
  | zero => exact Only.refl _ s
  | succ k ih =>
    unfold State.assign
    split
    · exact Only.refl _ s
    · split
      · exact State.serve_only _ _ _
      · exact (State.handGroup_only _ _ _ _).trans (ih _)
      · exact State.handScan_only _ _
      · split
        · exact State.turnPass_only _
        · exact Only.refl _ s

theorem State.assignAll_only (s : State) : Only [.sense] s (State.assignAll s) := by
  have h := Only.refl [.sense] s
  unfold State.assignAll
  try dsimp only
  repeat' first
    | with_reducible assumption | with_reducible apply Only.lift (State.assign_only _ _ _)
    | with_reducible apply Only.lift (State.openGroups_only _) | with_reducible refine Only.foldl _ ?_ (fun u x hu => ?_)
    | split | (with_reducible show Part.sub _ _ = true; decide)

theorem State.demand_only (s : State) (input : Nat) (u : ConvUser) : Only [.sense] s (State.demand s input u) := by
  unfold State.demand
  have h := State.openGroups_only s
  generalize s.openGroups = t at h ⊢
  exact Only.lift (State.assignAll_only _) (by decide) (Only.mk_upd h)

theorem State.fireTrigger_only (s : State) (code : Nat) (sync : Nat) : Only [.sense] s (State.fireTrigger s code sync) := by
  have h := Only.refl [.sense] s
  unfold State.fireTrigger
  repeat' first
    | with_reducible assumption | with_reducible refine Only.foldl _ ?_ (fun u x hu => ?_)
    | with_reducible apply Only.lift (State.trigger_only _ _ _) | split
    | (with_reducible show Part.sub _ _ = true; decide)

theorem State.outsStop_only (s : State) : Only [.clk] s (State.outsStop s) := by
  have h := Only.refl [.clk] s
  unfold State.outsStop
  try dsimp only
  repeat' first | with_reducible assumption | with_reducible refine Only.mk_upd ?_

theorem State.outsRun_only (s : State) : Only [.clk] s (State.outsRun s) := by
  have h := Only.refl [.clk] s
  unfold State.outsRun
  try dsimp only
  repeat' first | with_reducible assumption | split | with_reducible refine Only.mk_upd ?_

theorem State.outsStart_only (s : State) : Only [.clk] s (State.outsStart s) := by
  have h := Only.refl [.clk] s
  unfold State.outsStart
  try dsimp only
  repeat' first
    | with_reducible assumption | with_reducible apply Only.lift (State.outsRun_only _)
    | with_reducible refine Only.mk_upd ?_ | (with_reducible show Part.sub _ _ = true; decide)

theorem State.secondReached_only (s : State) : Only [.clk, .log] s (State.secondReached s) := by
  have h := Only.refl [.clk, .log] s
  unfold State.secondReached
  try dsimp only
  repeat' first
    | with_reducible assumption | with_reducible apply Only.lift (State.logEvent_only _ _ _ _ _) | split
    | with_reducible refine Only.mk_upd ?_ | (with_reducible show Part.sub _ _ = true; decide)

theorem State.stepTo_only (s : State) (v : Nat) : Only [.clk, .log] s (State.stepTo s v) := by
  have h := Only.refl [.clk, .log] s
  unfold State.stepTo
  try dsimp only
  repeat' first
    | with_reducible assumption | with_reducible apply Only.lift (State.secondReached_only _)
    | with_reducible apply Only.lift (State.capture_only _ _ _ _) | split | with_reducible refine Only.mk_upd ?_
    | (with_reducible show Part.sub _ _ = true; decide)

theorem State.refEvent_only (s : State) (src : BitVec 2) (e : ℤ) : Only [.clk, .irq, .log] s (State.refEvent s src e) := by
  have h := Only.refl [.clk, .irq, .log] s
  unfold State.refEvent
  try dsimp only
  repeat' first
    | with_reducible assumption | with_reducible apply Only.lift (State.irqCk_only _ _)
    | with_reducible apply Only.lift (State.stepTo_only _ _) | split | with_reducible refine Only.mk_upd ?_
    | (with_reducible show Part.sub _ _ = true; decide)

theorem State.ignoreEvent_only (s : State) : Only [.clk] s (State.ignoreEvent s) := by
  have h := Only.refl [.clk] s
  unfold State.ignoreEvent
  repeat' first | with_reducible assumption | with_reducible refine Only.mk_upd ?_

theorem State.closeEn_only (s : State) (src : Nat) : Only [.sense] s (State.closeEn s src) := by
  have h := Only.refl [.sense] s
  unfold State.closeEn
  repeat' first
    | with_reducible assumption | with_reducible apply Only.lift (State.reeval_only _ _)
    | with_reducible apply Only.lift (State.setCmp_only _ _ _) | split | with_reducible refine Only.mk_upd ?_
    | (with_reducible show Part.sub _ _ = true; decide)

theorem State.gated_only (s : State) (k : Nat) : Only [.clk, .irq] s (State.gated s k) := by
  have h := Only.refl [.clk, .irq] s
  unfold State.gated
  try dsimp only
  repeat' first
    | with_reducible assumption | with_reducible apply Only.lift (State.irqCk_only _ _) | split
    | with_reducible refine Only.mk_upd ?_ | (with_reducible show Part.sub _ _ = true; decide)

theorem State.overflowed_only (s : State) (m : BitVec 16) : Only [.clk, .irq] s (State.overflowed s m) := by
  have h := Only.refl [.clk, .irq] s
  unfold State.overflowed
  try dsimp only
  repeat' first
    | with_reducible assumption | with_reducible apply Only.lift (State.noteSet_only _ _ _)
    | with_reducible apply Only.lift (State.irqCk_only _ _) | split | with_reducible refine Only.mk_upd ?_
    | (with_reducible show Part.sub _ _ = true; decide)

theorem State.startRelock_only (s : State) : Only [.clk, .pm, .out, .ctl, .sense, .kiln, .walk, .fault, .irq, .mg, .log,
    .port, .ring, .twin, .tw, .pwm, .free] s (State.startRelock s) := by
  have h := Only.refl [.clk, .pm, .out, .ctl, .sense, .kiln, .walk, .fault, .irq, .mg, .log, .port, .ring, .twin, .tw,
      .pwm, .free] s
  unfold State.startRelock
  try dsimp only
  repeat' first
    | with_reducible assumption | with_reducible apply Only.lift (State.outsStop_only _)
    | with_reducible apply Only.lift (State.closeEn_only _ _)
    | with_reducible apply Only.lift (State.senseChange_only _ _ _)
    | with_reducible refine Only.foldl _ ?_ (fun u x hu => ?_) | split | with_reducible refine Only.mk_upd ?_
    | (with_reducible show Part.sub _ _ = true; decide)

end Sys2Proof.Machine
end

