-- ==== Sys2Proof/Laws/OnlyStart.lean ====
section
/-! SUPPORT. What each operation of start-up, the PWM channels, the twin-wire ports, the engines and the ring can change. -/

set_option Elab.async false

namespace Sys2Proof.Machine

theorem State.updateTwok_only (s : State) : Only [.out] s (State.updateTwok s) := by
  have h := Only.refl [.out] s
  unfold State.updateTwok
  repeat' first | with_reducible assumption | with_reducible refine Only.mk_upd ?_

theorem State.found_only (s : State) : Only [.out, .twin] s (State.found s) := by
  have h := Only.refl [.out, .twin] s
  unfold State.found
  repeat' first
    | with_reducible assumption | with_reducible apply Only.lift (State.updateTwok_only _)
    | with_reducible refine Only.mk_upd ?_ | (with_reducible show Part.sub _ _ = true; decide)

theorem State.foundOrBlock_only (s : State) : Only [.clk, .pm, .out, .kiln, .irq, .mg, .log, .twin] s (State.foundOrBlock s)
    := by
  have h := Only.refl [.clk, .pm, .out, .kiln, .irq, .mg, .log, .twin] s
  unfold State.foundOrBlock
  repeat' first
    | with_reducible assumption | with_reducible apply Only.lift (State.tryPending_only _)
    | with_reducible apply Only.lift (State.found_only _) | with_reducible apply Only.lift (State.irqGl_only _ _) | split
    | with_reducible refine Only.mk_upd ?_ | (with_reducible show Part.sub _ _ = true; decide)

theorem State.twinAtReady_only (s : State) : Only [.clk, .pm, .out, .kiln, .irq, .mg, .log, .twin] s (State.twinAtReady s)
    := by
  have h := Only.refl [.clk, .pm, .out, .kiln, .irq, .mg, .log, .twin] s
  unfold State.twinAtReady
  try dsimp only
  repeat' first
    | with_reducible assumption | with_reducible apply Only.lift (State.foundOrBlock_only _)
    | with_reducible apply Only.lift (State.updateTwok_only _) | split | with_reducible refine Only.mk_upd ?_
    | (with_reducible show Part.sub _ _ = true; decide)

theorem State.afterReset_only (s : State) : Only [.clk, .pm, .out, .inp, .ctl, .sense, .kiln, .walk, .fault, .irq, .mg,
    .log, .cfgLoaded, .sgLoaded, .port, .sec, .ring, .twin, .tw, .twEnded, .pwm, .frozen] s (State.afterReset s) := by
  have h := Only.refl [.clk, .pm, .out, .inp, .ctl, .sense, .kiln, .walk, .fault, .irq, .mg, .log, .cfgLoaded, .sgLoaded,
      .port, .sec, .ring, .twin, .tw, .twEnded, .pwm, .frozen] s
  unfold State.afterReset
  try dsimp only
  repeat' first | with_reducible assumption | with_reducible refine Only.mk_upd ?_

theorem State.finishShard_only (s : State) : Only [.log] s (State.finishShard s) := by
  have h := Only.refl [.log] s
  unfold State.finishShard
  try dsimp only
  repeat' first
    | with_reducible assumption | with_reducible apply Only.lift (State.writeFr_only _ _) | split
    | with_reducible refine Only.mk_upd ?_ | (with_reducible show Part.sub _ _ = true; decide)

theorem State.dropWork_only (s : State) : Only [.irq, .log, .port] s (State.dropWork s) := by
  have h := Only.refl [.irq, .log, .port] s
  unfold State.dropWork
  repeat' first
    | with_reducible assumption | with_reducible apply Only.lift (State.endWindows_only _)
    | with_reducible apply Only.lift (State.discardSilent_only _ _) | split
    | (with_reducible show Part.sub _ _ = true; decide)

theorem State.deviceReset_only (s : State) (cause : Nat) (bits : BitVec 5) : Only [.clk, .pm, .out, .inp, .ctl, .sense,
    .kiln, .walk, .fault, .irq, .mg, .log, .cfgLoaded, .sgLoaded, .port, .sec, .ring, .twin, .tw, .twEnded, .pwm, .frozen] s
    (State.deviceReset s cause bits) := by
  have h := Only.refl [.clk, .pm, .out, .inp, .ctl, .sense, .kiln, .walk, .fault, .irq, .mg, .log, .cfgLoaded, .sgLoaded,
      .port, .sec, .ring, .twin, .tw, .twEnded, .pwm, .frozen] s
  unfold State.deviceReset
  try dsimp only
  repeat' first
    | with_reducible assumption | with_reducible apply Only.lift (State.dropWork_only _)
    | with_reducible apply Only.lift (State.finishShard_only _) | with_reducible apply Only.lift (State.afterReset_only _)
    | split | with_reducible refine Only.mk_upd ?_ | (with_reducible show Part.sub _ _ = true; decide)

theorem State.startFail_only (s : State) (code : Nat) (kat : Bool) : Only [.pm] s (State.startFail s code kat) := by
  have h := Only.refl [.pm] s
  unfold State.startFail
  try dsimp only
  repeat' first | with_reducible assumption | with_reducible refine Only.mk_upd ?_

theorem State.beginStage2_only (s : State) : Only [.pm] s (State.beginStage2 s) := by
  have h := Only.refl [.pm] s
  unfold State.beginStage2
  repeat' first | with_reducible assumption | with_reducible refine Only.mk_upd ?_

theorem State.leaveStage1_only (s : State) : Only [.pm] s (State.leaveStage1 s) := by
  have h := Only.refl [.pm] s
  unfold State.leaveStage1
  repeat' first
    | with_reducible assumption | with_reducible apply Only.lift (State.beginStage2_only _) | split
    | (with_reducible show Part.sub _ _ = true; decide)

theorem State.pllStart_only (s : State) (ref : Bool) : Only [.clk] s (State.pllStart s ref) := by
  have h := Only.refl [.clk] s
  unfold State.pllStart
  try dsimp only
  repeat' first | with_reducible assumption | with_reducible refine Only.mk_upd ?_

theorem State.setTimeBase_only (s : State) : Only [.clk, .log] s (State.setTimeBase s) := by
  have h := Only.refl [.clk, .log] s
  unfold State.setTimeBase
  try dsimp only
  repeat' first
    | with_reducible assumption | with_reducible apply Only.lift (State.secondReached_only _) | split
    | with_reducible refine Only.mk_upd ?_ | (with_reducible show Part.sub _ _ = true; decide)

theorem State.adopt_only (s : State) (r : Nat) : Only [.log] s (State.adopt s r) := by
  have h := Only.refl [.log] s
  unfold State.adopt
  try dsimp only
  repeat' first
    | with_reducible assumption | with_reducible apply Only.lift (State.setRegion_only _ _ _) | split
    | with_reducible refine Only.mk_upd ?_ | (with_reducible show Part.sub _ _ = true; decide)

theorem State.examineLog_only (s : State) : Only [.pm, .irq, .log] s (State.examineLog s) := by
  have h := Only.refl [.pm, .irq, .log] s
  unfold State.examineLog
  try dsimp only
  repeat' first
    | with_reducible assumption | with_reducible apply Only.lift (State.adopt_only _ _)
    | with_reducible apply Only.lift (State.irqLg_only _ _) | split | with_reducible refine Only.mk_upd ?_
    | (with_reducible show Part.sub _ _ = true; decide)

theorem State.firstFromHeld_only (s : State) : Only [.fault] s (State.firstFromHeld s) := by
  have h := Only.refl [.fault] s
  unfold State.firstFromHeld
  try dsimp only
  repeat' first
    | with_reducible assumption | with_reducible apply Only.lift (State.recordFirst_only _ _ _) | split
    | with_reducible refine Only.mk_upd ?_ | (with_reducible show Part.sub _ _ = true; decide)

theorem State.configLoaded_only (s : State) : Only [.kiln, .fault, .cfgLoaded] s (State.configLoaded s) := by
  have h := Only.refl [.kiln, .fault, .cfgLoaded] s
  unfold State.configLoaded
  try dsimp only
  repeat' first
    | with_reducible assumption | with_reducible apply Only.lift (State.firstFromHeld_only _)
    | with_reducible refine Only.mk_upd ?_ | (with_reducible show Part.sub _ _ = true; decide)

theorem State.modeChanges_only (s : State) (old : State) : Only [.sense] s (State.modeChanges s old) := by
  have h := Only.refl [.sense] s
  unfold State.modeChanges
  repeat' first
    | with_reducible assumption | with_reducible refine Only.foldl _ ?_ (fun u x hu => ?_)
    | with_reducible apply Only.lift (State.startSettle_only _ _) | split
    | (with_reducible show Part.sub _ _ = true; decide)

theorem State.beginStage5_only (s : State) : Only [.clk, .pm, .sense, .irq, .pwm] s (State.beginStage5 s) := by
  have h := Only.refl [.clk, .pm, .sense, .irq, .pwm] s
  unfold State.beginStage5
  try dsimp only
  repeat' first
    | with_reducible assumption | with_reducible apply Only.lift (State.modeChanges_only _ _)
    | with_reducible apply Only.lift (State.refreshFlt_only _ _) | with_reducible apply Only.lift (State.outsStart_only _)
    | with_reducible apply Only.lift (State.startPass_only _) | with_reducible apply Only.lift (State.assignAll_only _)
    | with_reducible refine Only.mk_upd ?_ | (with_reducible show Part.sub _ _ = true; decide)

theorem State.failCmps_only (s : State) (srcs : List Nat) : Only [.clk, .pm, .out, .ctl, .sense, .kiln, .walk, .fault, .irq,
    .mg, .log, .port, .ring, .twin, .tw, .pwm, .free] s (State.failCmps s srcs) := by
  have h := Only.refl [.clk, .pm, .out, .ctl, .sense, .kiln, .walk, .fault, .irq, .mg, .log, .port, .ring, .twin, .tw, .pwm,
      .free] s
  unfold State.failCmps
  try dsimp only
  repeat' first
    | with_reducible assumption | with_reducible refine Only.foldl _ ?_ (fun u x hu => ?_)
    | with_reducible apply Only.lift (State.setCmp_only _ _ _)
    | with_reducible apply Only.lift (State.senseChange_only _ _ _) | with_reducible refine Only.mk_upd ?_
    | (with_reducible show Part.sub _ _ = true; decide)

theorem State.logHeld_only (s : State) : Only [.pm, .fault, .log] s (State.logHeld s) := by
  have h := Only.refl [.pm, .fault, .log] s
  unfold State.logHeld
  try dsimp only
  repeat' first
    | with_reducible assumption | with_reducible apply Only.lift (State.faultShard_only _ _ _ _ _)
    | with_reducible apply Only.lift (State.firstFromHeld_only _)
    | with_reducible refine Only.foldl _ ?_ (fun u x hu => ?_) | split | with_reducible refine Only.mk_upd ?_
    | (with_reducible show Part.sub _ _ = true; decide)

theorem State.raiseUnresolved_only (s : State) : Only [.clk, .pm, .out, .ctl, .kiln, .walk, .fault, .irq, .mg, .log, .port,
    .ring, .twin, .tw, .pwm, .free] s (State.raiseUnresolved s) := by
  have h := Only.refl [.clk, .pm, .out, .ctl, .kiln, .walk, .fault, .irq, .mg, .log, .port, .ring, .twin, .tw, .pwm, .free] s
  unfold State.raiseUnresolved
  repeat' first
    | with_reducible assumption | with_reducible refine Only.foldl _ ?_ (fun u x hu => ?_)
    | with_reducible apply Only.lift (State.receive_only _ _) | split | (with_reducible show Part.sub _ _ = true; decide)

theorem State.startOffMin_only (s : State) : Only [.pm] s (State.startOffMin s) := by
  have h := Only.refl [.pm] s
  unfold State.startOffMin
  try dsimp only
  repeat' first | with_reducible assumption | split | with_reducible refine Only.mk_upd ?_

theorem State.startRequests_only (s : State) : Only [.clk, .pm, .ctl, .kiln, .mg, .log, .twin] s (State.startRequests s) :=
    by
  have h := Only.refl [.clk, .pm, .ctl, .kiln, .mg, .log, .twin] s
  unfold State.startRequests
  repeat' first
    | with_reducible assumption | with_reducible apply Only.lift (State.onRequest_only _ _) | split
    | (with_reducible show Part.sub _ _ = true; decide)

theorem State.startSelfTest_only (s : State) : Only [.sense] s (State.startSelfTest s) := by
  have h := Only.refl [.sense] s
  unfold State.startSelfTest
  try dsimp only
  repeat' first | with_reducible assumption | with_reducible refine Only.mk_upd ?_

theorem State.enterReady_only (s : State) : Only [.clk, .pm, .out, .ctl, .sense, .kiln, .walk, .fault, .irq, .mg, .log,
    .port, .sec, .ring, .twin, .tw, .pwm, .free] s (State.enterReady s) := by
  have h := Only.refl [.clk, .pm, .out, .ctl, .sense, .kiln, .walk, .fault, .irq, .mg, .log, .port, .sec, .ring, .twin,
      .tw, .pwm, .free] s
  unfold State.enterReady
  try dsimp only
  repeat' first
    | with_reducible assumption | with_reducible apply Only.lift (State.goTo_only _ _ _)
    | with_reducible apply Only.lift (State.captureTorn_only _)
    | with_reducible apply Only.lift (State.trimNominal_only _ _)
    | with_reducible apply Only.lift (State.releaseTrips_only _)
    | with_reducible apply Only.lift (State.updateHrst_only _)
    | with_reducible apply Only.lift (State.startSelfTest_only _)
    | with_reducible apply Only.lift (State.twinAtReady_only _) | with_reducible apply Only.lift (State.logHeld_only _)
    | with_reducible apply Only.lift (State.raiseUnresolved_only _)
    | with_reducible apply Only.lift (State.startOffMin_only _)
    | with_reducible apply Only.lift (State.receiveCause_only _ _ _)
    | with_reducible apply Only.lift (State.startRequests_only _)
    | with_reducible refine Only.foldl _ ?_ (fun u x hu => ?_) | split | with_reducible refine Only.mk_upd ?_
    | (with_reducible show Part.sub _ _ = true; decide)

theorem State.collapseOutputs_only (s : State) : Only [.out, .pwm] s (State.collapseOutputs s) := by
  have h := Only.refl [.out, .pwm] s
  unfold State.collapseOutputs
  repeat' first | with_reducible assumption | with_reducible refine Only.mk_upd ?_

theorem State.senseQuiet_only (s : State) : Only [.sense] s (State.senseQuiet s) := by
  have h := Only.refl [.sense] s
  unfold State.senseQuiet
  try dsimp only
  repeat' first | with_reducible assumption | split | with_reducible refine Only.mk_upd ?_

theorem State.quietDown_only (s : State) (old : State) : Only [.clk, .pm, .out, .ctl, .sense, .kiln, .walk, .fault, .irq,
    .mg, .log, .port, .ring, .twin, .tw, .pwm, .free] s (State.quietDown s old) := by
  have h := Only.refl [.clk, .pm, .out, .ctl, .sense, .kiln, .walk, .fault, .irq, .mg, .log, .port, .ring, .twin, .tw,
      .pwm, .free] s
  unfold State.quietDown
  try dsimp only
  repeat' first
    | with_reducible assumption | with_reducible apply Only.lift (State.startSettle_only _ _)
    | with_reducible apply Only.lift (State.senseQuiet_only _)
    | with_reducible apply Only.lift (State.modeChanges_only _ _)
    | with_reducible apply Only.lift (State.testWrites_only _ _ _)
    | with_reducible apply Only.lift (State.reeval_only _ _)
    | with_reducible apply Only.lift (State.senseChange_only _ _ _)
    | with_reducible refine Only.foldl _ ?_ (fun u x hu => ?_) | split | (with_reducible show Part.sub _ _ = true; decide)

theorem State.enterCoppice_only (s : State) : Only [.clk, .pm, .out, .ctl, .sense, .kiln, .walk, .fault, .irq, .mg, .log,
    .port, .ring, .twin, .tw, .twEnded, .pwm, .free] s (State.enterCoppice s) := by
  have h := Only.refl [.clk, .pm, .out, .ctl, .sense, .kiln, .walk, .fault, .irq, .mg, .log, .port, .ring, .twin, .tw,
      .twEnded, .pwm, .free] s
  unfold State.enterCoppice
  try dsimp only
  repeat' first
    | with_reducible assumption | with_reducible apply Only.lift (State.setLatch_only _)
    | with_reducible apply Only.lift (State.recordBisque_only _ _ _)
    | with_reducible apply Only.lift (State.discardSilent_only _ _)
    | with_reducible apply Only.lift (State.endWindows_only _) | with_reducible apply Only.lift (State.quietDown_only _ _)
    | with_reducible apply Only.lift (State.walkBegin_only _) | with_reducible apply Only.lift (State.updateHrst_only _)
    | split | with_reducible refine Only.mk_upd ?_ | (with_reducible show Part.sub _ _ = true; decide)

theorem State.setCh_only (s : State) (c : Nat) (f : PwmCh → PwmCh) : Only [.pwm] s (State.setCh s c f) := by
  have h := Only.refl [.pwm] s
  unfold State.setCh
  repeat' first | with_reducible assumption | with_reducible refine Only.mk_upd ?_

theorem State.keepShadow_only (s : State) (c : Nat) : Only [.pwm] s (State.keepShadow s c) := by
  have h := Only.refl [.pwm] s
  unfold State.keepShadow
  try dsimp only
  repeat' first
    | with_reducible assumption | with_reducible apply Only.lift (State.setCh_only _ _ _) | split
    | with_reducible refine Only.mk_upd ?_ | (with_reducible show Part.sub _ _ = true; decide)

theorem State.transfer_only (s : State) (c : Nat) : Only [.pwm] s (State.transfer s c) := by
  have h := Only.refl [.pwm] s
  unfold State.transfer
  try dsimp only
  repeat' first
    | with_reducible assumption | with_reducible apply Only.lift (State.setCh_only _ _ _)
    | (with_reducible show Part.sub _ _ = true; decide)

theorem State.loadDone_only (s : State) : Only [.irq, .pwm] s (State.loadDone s) := by
  have h := Only.refl [.irq, .pwm] s
  unfold State.loadDone
  repeat' first
    | with_reducible assumption | with_reducible apply Only.lift (State.irqPw_only _ _) | split
    | with_reducible refine Only.mk_upd ?_ | (with_reducible show Part.sub _ _ = true; decide)

theorem State.pwSettle_only (s : State) : Only [.irq, .pwm] s (State.pwSettle s) := by
  have h := Only.refl [.irq, .pwm] s
  unfold State.pwSettle
  repeat' first
    | with_reducible assumption | with_reducible refine Only.foldl _ ?_ (fun u x hu => ?_)
    | with_reducible apply Only.lift (State.loadDone_only _) | with_reducible apply Only.lift (State.transfer_only _ _)
    | split | (with_reducible show Part.sub _ _ = true; decide)

theorem State.setLoadAll_only (s : State) : Only [.pwm] s (State.setLoadAll s) := by
  have h := Only.refl [.pwm] s
  unfold State.setLoadAll
  repeat' first | with_reducible assumption | split | with_reducible refine Only.mk_upd ?_

theorem State.drive_only (s : State) (c : Nat) : Only [.pwm] s (State.drive s c) := by
  have h := Only.refl [.pwm] s
  unfold State.drive
  try dsimp only
  repeat' first
    | with_reducible assumption | with_reducible apply Only.lift (State.setCh_only _ _ _) | split
    | (with_reducible show Part.sub _ _ = true; decide)

theorem State.pulseSo_only (s : State) (w : Nat) : Only [.pwm] s (State.pulseSo s w) := by
  have h := Only.refl [.pwm] s
  unfold State.pulseSo
  try dsimp only
  repeat' first | with_reducible assumption | split | with_reducible refine Only.mk_upd ?_

theorem State.periodStart_only (s : State) (c : Nat) : Only [.irq, .pwm] s (State.periodStart s c) := by
  have h := Only.refl [.irq, .pwm] s
  unfold State.periodStart
  try dsimp only
  repeat' first
    | with_reducible assumption | with_reducible apply Only.lift (State.transfer_only _ _)
    | with_reducible apply Only.lift (State.setCh_only _ _ _) | with_reducible apply Only.lift (State.loadDone_only _)
    | with_reducible apply Only.lift (State.drive_only _ _) | with_reducible apply Only.lift (State.pulseSo_only _ _)
    | with_reducible refine Only.foldl _ ?_ (fun u x hu => ?_) | split | with_reducible refine Only.mk_upd ?_
    | (with_reducible show Part.sub _ _ = true; decide)

theorem State.zeroCounter_only (s : State) (c : Nat) : Only [.pwm] s (State.zeroCounter s c) := by
  have h := Only.refl [.pwm] s
  unfold State.zeroCounter
  repeat' first
    | with_reducible assumption | with_reducible apply Only.lift (State.setCh_only _ _ _)
    | with_reducible refine Only.mk_upd ?_ | (with_reducible show Part.sub _ _ = true; decide)

theorem State.startCh_only (s : State) (c : Nat) : Only [.irq, .pwm] s (State.startCh s c) := by
  have h := Only.refl [.irq, .pwm] s
  unfold State.startCh
  try dsimp only
  repeat' first
    | with_reducible assumption | with_reducible refine Only.foldl _ ?_ (fun u x hu => ?_)
    | with_reducible apply Only.lift (State.transfer_only _ _) | with_reducible apply Only.lift (State.setCh_only _ _ _)
    | with_reducible apply Only.lift (State.periodStart_only _ _) | with_reducible apply Only.lift (State.loadDone_only _)
    | with_reducible apply Only.lift (State.zeroCounter_only _ _) | split | with_reducible refine Only.mk_upd ?_
    | (with_reducible show Part.sub _ _ = true; decide)

theorem State.stopCh_only (s : State) (c : Nat) : Only [.pwm] s (State.stopCh s c) := by
  have h := Only.refl [.pwm] s
  unfold State.stopCh
  try dsimp only
  repeat' first
    | with_reducible assumption | with_reducible refine Only.foldl _ ?_ (fun u x hu => ?_)
    | with_reducible apply Only.lift (State.setCh_only _ _ _) | split | with_reducible refine Only.mk_upd ?_
    | (with_reducible show Part.sub _ _ = true; decide)

theorem State.writeRun_only (s : State) (v : BitVec 16) : Only [.irq, .pwm] s (State.writeRun s v) := by
  have h := Only.refl [.irq, .pwm] s
  unfold State.writeRun
  repeat' first
    | with_reducible assumption | with_reducible refine Only.foldl _ ?_ (fun u x hu => ?_)
    | with_reducible apply Only.lift (State.startCh_only _ _) | with_reducible apply Only.lift (State.stopCh_only _ _)
    | split | (with_reducible show Part.sub _ _ = true; decide)

theorem State.keepWrap_only (s : State) : Only [.pwm] s (State.keepWrap s) := by
  have h := Only.refl [.pwm] s
  unfold State.keepWrap
  try dsimp only
  repeat' first | with_reducible assumption | split | with_reducible refine Only.mk_upd ?_

theorem State.unwrap_only (s : State) (c : Nat) : Only [.irq, .pwm] s (State.unwrap s c) := by
  have h := Only.refl [.irq, .pwm] s
  unfold State.unwrap
  try dsimp only
  repeat' first
    | with_reducible assumption | with_reducible apply Only.lift (State.setCh_only _ _ _)
    | with_reducible refine Only.foldl _ ?_ (fun u x hu => ?_) | split | with_reducible refine Only.mk_upd ?_
    | (with_reducible show Part.sub _ _ = true; decide)

theorem State.loadCh_only (s : State) (c : Nat) : Only [.irq, .pwm] s (State.loadCh s c) := by
  have h := Only.refl [.irq, .pwm] s
  unfold State.loadCh
  try dsimp only
  repeat' first
    | with_reducible assumption | with_reducible apply Only.lift (State.unwrap_only _ _)
    | with_reducible apply Only.lift (State.setCh_only _ _ _)
    | with_reducible apply Only.lift (State.periodStart_only _ _) | with_reducible apply Only.lift (State.drive_only _ _)
    | split | with_reducible refine Only.mk_upd ?_ | (with_reducible show Part.sub _ _ = true; decide)

theorem State.countClearRefused_only (s : State) : Only [.irq, .pwm] s (State.countClearRefused s) := by
  have h := Only.refl [.irq, .pwm] s
  unfold State.countClearRefused
  repeat' first
    | with_reducible assumption | with_reducible apply Only.lift (State.irqPw_only _ _)
    | with_reducible refine Only.mk_upd ?_ | (with_reducible show Part.sub _ _ = true; decide)

theorem State.clearLatches_only (s : State) (m : BitVec 16) : Only [.pwm] s (State.clearLatches s m) := by
  have h := Only.refl [.pwm] s
  unfold State.clearLatches
  try dsimp only
  repeat' first
    | with_reducible assumption | with_reducible refine Only.foldl _ ?_ (fun u x hu => ?_)
    | with_reducible apply Only.lift (State.setCh_only _ _ _) | split | with_reducible refine Only.mk_upd ?_
    | (with_reducible show Part.sub _ _ = true; decide)

theorem State.setTw_only (s : State) (p : Nat) (f : TwPort → TwPort) : Only [.tw] s (State.setTw s p f) := by
  have h := Only.refl [.tw] s
  unfold State.setTw
  repeat' first | with_reducible assumption | with_reducible refine Only.mk_upd ?_

theorem State.startTx_only (s : State) (p : Nat) (q : TwSeq) : Only [.tw] s (State.startTx s p q) := by
  have h := Only.refl [.tw] s
  unfold State.startTx
  try dsimp only
  repeat' first
    | with_reducible assumption | with_reducible apply Only.lift (State.setTw_only _ _ _)
    | with_reducible refine Only.mk_upd ?_ | (with_reducible show Part.sub _ _ = true; decide)

theorem State.pump_only (s : State) (p : Nat) : Only [.tw] s (State.pump s p) := by
  have h := Only.refl [.tw] s
  unfold State.pump
  try dsimp only
  repeat' first
    | with_reducible assumption | with_reducible apply Only.lift (State.setTw_only _ _ _)
    | with_reducible apply Only.lift (State.startTx_only _ _ _) | split | with_reducible refine Only.mk_upd ?_
    | (with_reducible show Part.sub _ _ = true; decide)

theorem State.noteEnd_only (s : State) (q : TwSeq) (r : BitVec 2) : Only [.twEnded] s (State.noteEnd s q r) := by
  have h := Only.refl [.twEnded] s
  unfold State.noteEnd
  repeat' first | with_reducible assumption | with_reducible refine Only.mk_upd ?_

theorem State.endHead_only (s : State) (p : Nat) (result : BitVec 4) (r : BitVec 2) : Only [.tw, .twEnded] s (State.endHead
    s p result r) := by
  have h := Only.refl [.tw, .twEnded] s
  unfold State.endHead
  repeat' first
    | with_reducible assumption | with_reducible apply Only.lift (State.noteEnd_only _ _ _)
    | with_reducible apply Only.lift (State.setTw_only _ _ _) | split | with_reducible refine Only.mk_upd ?_
    | (with_reducible show Part.sub _ _ = true; decide)

theorem State.endQueue_only (s : State) (p : Nat) (result : BitVec 4) : Only [.tw, .twEnded] s (State.endQueue s p result)
    := by
  have h := Only.refl [.tw, .twEnded] s
  unfold State.endQueue
  repeat' first
    | with_reducible assumption | with_reducible refine Only.foldl _ ?_ (fun u x hu => ?_)
    | with_reducible apply Only.lift (State.endHead_only _ _ _ _) | (with_reducible show Part.sub _ _ = true; decide)

theorem State.startSeq_only (s : State) (q : TwSeq) : Only [.tw] s (State.startSeq s q) := by
  have h := Only.refl [.tw] s
  unfold State.startSeq
  try dsimp only
  repeat' first
    | with_reducible assumption | with_reducible apply Only.lift (State.setTw_only _ _ _)
    | with_reducible apply Only.lift (State.pump_only _ _) | split | (with_reducible show Part.sub _ _ = true; decide)

theorem State.txDone_only (s : State) (p : Nat) (q : TwSeq) (data : BitVec 16) : Only [.mg, .tw, .twEnded] s (State.txDone s
    p q data) := by
  have h := Only.refl [.mg, .tw, .twEnded] s
  unfold State.txDone
  try dsimp only
  repeat' first
    | with_reducible assumption | with_reducible apply Only.lift (State.setTrim_only _ _ _)
    | with_reducible apply Only.lift (State.endHead_only _ _ _ _)
    | with_reducible apply Only.lift (State.setTw_only _ _ _) | split | with_reducible refine Only.mk_upd ?_
    | (with_reducible show Part.sub _ _ = true; decide)

theorem State.busyPump_only (s : State) (p : Nat) (d : Nat) : Only [.tw] s (State.busyPump s p d) := by
  have h := Only.refl [.tw] s
  unfold State.busyPump
  try dsimp only
  repeat' first
    | with_reducible assumption | with_reducible apply Only.lift (State.setTw_only _ _ _)
    | with_reducible apply Only.lift (State.pump_only _ _) | with_reducible refine Only.mk_upd ?_
    | (with_reducible show Part.sub _ _ = true; decide)

theorem State.foreignStart_only (s : State) (p : Nat) : Only [.tw] s (State.foreignStart s p) := by
  have h := Only.refl [.tw] s
  unfold State.foreignStart
  try dsimp only
  repeat' first
    | with_reducible assumption | with_reducible apply Only.lift (State.setTw_only _ _ _) | split
    | with_reducible refine Only.mk_upd ?_ | (with_reducible show Part.sub _ _ = true; decide)

theorem State.sclFree_only (s : State) (p : Nat) : Only [.tw] s (State.sclFree s p) := by
  have h := Only.refl [.tw] s
  unfold State.sclFree
  try dsimp only
  repeat' first
    | with_reducible assumption | with_reducible apply Only.lift (State.setTw_only _ _ _) | split
    | with_reducible refine Only.mk_upd ?_ | (with_reducible show Part.sub _ _ = true; decide)

theorem State.foreignStarts_only (s : State) (busy : BitVec 4) (free : BitVec 4) : Only [.tw] s (State.foreignStarts s
    busy free) := by
  have h := Only.refl [.tw] s
  unfold State.foreignStarts
  try dsimp only
  repeat' first
    | with_reducible assumption | with_reducible apply Only.lift (State.sclFree_only _ _)
    | with_reducible apply Only.lift (State.foreignStart_only _ _)
    | with_reducible refine Only.foldl _ ?_ (fun u x hu => ?_) | split | (with_reducible show Part.sub _ _ = true; decide)

theorem State.twEnable_only (s : State) (p : Nat) : Only [.tw, .twEnded] s (State.twEnable s p) := by
  have h := Only.refl [.tw, .twEnded] s
  unfold State.twEnable
  try dsimp only
  repeat' first
    | with_reducible assumption | with_reducible apply Only.lift (State.setTw_only _ _ _)
    | with_reducible apply Only.lift (State.noteEnd_only _ _ _)
    | with_reducible apply Only.lift (State.endQueue_only _ _ _)
    | with_reducible refine Only.foldl _ ?_ (fun u x hu => ?_) | split | with_reducible refine Only.mk_upd ?_
    | (with_reducible show Part.sub _ _ = true; decide)

theorem State.twReset_only (s : State) (p : Nat) : Only [.tw, .twEnded] s (State.twReset s p) := by
  have h := Only.refl [.tw, .twEnded] s
  unfold State.twReset
  try dsimp only
  repeat' first
    | with_reducible assumption | with_reducible apply Only.lift (State.endQueue_only _ _ _)
    | with_reducible apply Only.lift (State.setTw_only _ _ _) | split | with_reducible refine Only.mk_upd ?_
    | (with_reducible show Part.sub _ _ = true; decide)

theorem State.twClear_only (s : State) (p : Nat) : Only [.tw] s (State.twClear s p) := by
  have h := Only.refl [.tw] s
  unfold State.twClear
  try dsimp only
  repeat' first
    | with_reducible assumption | with_reducible apply Only.lift (State.setTw_only _ _ _) | split
    | with_reducible refine Only.mk_upd ?_ | (with_reducible show Part.sub _ _ = true; decide)

theorem State.readyClears_only (s : State) : Only [.tw] s (State.readyClears s) := by
  have h := Only.refl [.tw] s
  unfold State.readyClears
  try dsimp only
  repeat' first
    | with_reducible assumption | with_reducible apply Only.lift (State.twClear_only _ _)
    | with_reducible refine Only.foldl _ ?_ (fun u x hu => ?_) | split | (with_reducible show Part.sub _ _ = true; decide)

theorem State.marginTrim_only (s : State) (n : Nat) (level : Nat) : Only [.mg] s (State.marginTrim s n level) := by
  have h := Only.refl [.mg] s
  unfold State.marginTrim
  repeat' first
    | with_reducible assumption | with_reducible apply Only.lift (State.applyTrim_only _ _ _ _) | split
    | (with_reducible show Part.sub _ _ = true; decide)

theorem State.setEng_only (s : State) (k : Nat) (f : Engine → Engine) : Only [.kiln] s (State.setEng s k f) := by
  have h := Only.refl [.kiln] s
  unfold State.setEng
  repeat' first | with_reducible assumption | with_reducible refine Only.mk_upd ?_

theorem State.engineError_only (s : State) (k : Nat) (err : Nat) : Only [.clk, .pm, .out, .ctl, .kiln, .walk, .fault, .irq,
    .mg, .log, .port, .ring, .twin, .tw, .pwm, .free] s (State.engineError s k err) := by
  have h := Only.refl [.clk, .pm, .out, .ctl, .kiln, .walk, .fault, .irq, .mg, .log, .port, .ring, .twin, .tw, .pwm, .free] s
  unfold State.engineError
  try dsimp only
  repeat' first
    | with_reducible assumption | with_reducible apply Only.lift (State.setEng_only _ _ _)
    | with_reducible apply Only.lift (State.engineFault_only _ _ _) | split | with_reducible refine Only.mk_upd ?_
    | (with_reducible show Part.sub _ _ = true; decide)

theorem State.goStep_only (s : State) (k : Nat) (a' : Nat) (d : Nat) : Only [.kiln] s (State.goStep s k a' d) := by
  have h := Only.refl [.kiln] s
  unfold State.goStep
  repeat' first
    | with_reducible assumption | with_reducible apply Only.lift (State.setEng_only _ _ _) | split
    | with_reducible refine Only.mk_upd ?_ | (with_reducible show Part.sub _ _ = true; decide)

theorem State.endStep_only (s : State) (k : Nat) (d : Nat) : Only [.clk, .pm, .out, .ctl, .kiln, .walk, .fault, .irq, .mg,
    .log, .port, .ring, .twin, .tw, .pwm, .free] s (State.endStep s k d) := by
  have h := Only.refl [.clk, .pm, .out, .ctl, .kiln, .walk, .fault, .irq, .mg, .log, .port, .ring, .twin, .tw, .pwm, .free] s
  unfold State.endStep
  try dsimp only
  repeat' first
    | with_reducible assumption | with_reducible apply Only.lift (State.engineError_only _ _ _)
    | with_reducible apply Only.lift (State.goStep_only _ _ _ _) | split
    | (with_reducible show Part.sub _ _ = true; decide)

theorem State.openTick_only (s : State) : Only [.kiln] s (State.openTick s) := by
  have h := Only.refl [.kiln] s
  unfold State.openTick
  repeat' first | with_reducible assumption | split | with_reducible refine Only.mk_upd ?_

theorem State.setFlags_only (s : State) (m : BitVec 16) : Only [.kiln] s (State.setFlags s m) := by
  have h := Only.refl [.kiln] s
  unfold State.setFlags
  try dsimp only
  repeat' first
    | with_reducible assumption | with_reducible apply Only.lift (State.openTick_only _)
    | with_reducible refine Only.mk_upd ?_ | (with_reducible show Part.sub _ _ = true; decide)

theorem State.clearFlags_only (s : State) (m : BitVec 16) : Only [.kiln] s (State.clearFlags s m) := by
  have h := Only.refl [.kiln] s
  unfold State.clearFlags
  try dsimp only
  repeat' first
    | with_reducible assumption | with_reducible apply Only.lift (State.openTick_only _)
    | with_reducible refine Only.mk_upd ?_ | (with_reducible show Part.sub _ _ = true; decide)

theorem State.noteFetch_only (s : State) (k : Nat) (f : Fetch) : Only [.kiln] s (State.noteFetch s k f) := by
  have h := Only.refl [.kiln] s
  unfold State.noteFetch
  repeat' first | with_reducible assumption | split | with_reducible refine Only.mk_upd ?_

theorem State.issueStep_only (s : State) (k : Nat) (op : Nat) : Only [.kiln] s (State.issueStep s k op) := by
  have h := Only.refl [.kiln] s
  unfold State.issueStep
  try dsimp only
  repeat' first
    | with_reducible assumption | with_reducible apply Only.lift (State.setEng_only _ _ _)
    | with_reducible refine Only.mk_upd ?_ | (with_reducible show Part.sub _ _ = true; decide)

theorem State.badFetch_only (s : State) (k : Nat) : Only [.clk, .pm, .out, .ctl, .kiln, .walk, .fault, .irq, .mg, .log,
    .port, .ring, .twin, .tw, .pwm, .free] s (State.badFetch s k) := by
  have h := Only.refl [.clk, .pm, .out, .ctl, .kiln, .walk, .fault, .irq, .mg, .log, .port, .ring, .twin, .tw, .pwm, .free] s
  unfold State.badFetch
  try dsimp only
  repeat' first
    | with_reducible assumption | with_reducible apply Only.lift (State.engineError_only _ _ _) | split
    | with_reducible refine Only.mk_upd ?_ | (with_reducible show Part.sub _ _ = true; decide)

theorem State.engStep_only {ps : List Part} {a s : State}
    (hp : Part.sub [.clk, .pm, .out, .ctl, .kiln, .walk, .fault, .irq, .mg, .log, .port, .ring, .twin, .tw, .pwm, .free] ps = true) (h : Only ps a s)
    (k op : Nat) (f : Fetch) (act : State → State) (hact : ∀ u, Only ps a u → Only ps a (act u)) :
    Only ps a (s.engStep k op f act) := by
  unfold State.engStep
  have ht : Only ps a (s.till (s.eng k).next) := Only.lift (State.till_only _ _) (Part.sub_trans (by decide) hp) h
  generalize s.till (s.eng k).next = t at ht ⊢
  dsimp only
  split
  · split
    · exact Only.lift (State.badFetch_only _ _) (Part.sub_trans (by decide) hp) ht
    · split
      · exact ht
      · exact hact _ (Only.lift (State.issueStep_only _ _ _) (Part.sub_trans (by decide) hp)
          (Only.lift (State.noteFetch_only _ _ _) (Part.sub_trans (by decide) hp) ht))
  · exact h

theorem State.waitIn_only (s : State) (k : Nat) (b : Busy) : Only [.kiln] s (State.waitIn s k b) := by
  have h := Only.refl [.kiln] s
  unfold State.waitIn
  repeat' first
    | with_reducible assumption | with_reducible apply Only.lift (State.setEng_only _ _ _)
    | with_reducible refine Only.mk_upd ?_ | (with_reducible show Part.sub _ _ = true; decide)

theorem State.claimTrim_only {ps : List Part} {a s : State} (hp : Part.sub [.kiln] ps = true) (h : Only ps a s) (k : Nat) (n
    : Nat) (act : State → State) (hact : ∀ u, Only ps a u → Only ps a (act u)) :
    Only ps a (State.claimTrim s k n act) := by
  unfold State.claimTrim
  try dsimp only
  repeat' first
    | with_reducible assumption | apply hact | with_reducible apply Only.lift (State.openTick_only _)
    | with_reducible apply Only.lift (State.setEng_only _ _ _) | split
    | with_reducible refine Only.lift (Only.mk_upd (Only.refl [.kiln] _)) hp ?_
    | (with_reducible show Part.sub _ _ = true; exact Part.sub_trans (by decide) hp)

theorem State.claimPwm_only {ps : List Part} {a s : State} (hp : Part.sub [.kiln] ps = true) (h : Only ps a s) (k : Nat) (c
    : Nat) (act : State → State) (hact : ∀ u, Only ps a u → Only ps a (act u)) :
    Only ps a (State.claimPwm s k c act) := by
  unfold State.claimPwm
  try dsimp only
  repeat' first
    | with_reducible assumption | apply hact | with_reducible apply Only.lift (State.openTick_only _) | split
    | with_reducible refine Only.lift (Only.mk_upd (Only.refl [.kiln] _)) hp ?_
    | (with_reducible show Part.sub _ _ = true; exact Part.sub_trans (by decide) hp)

theorem State.endFiring_only (s : State) : Only [.pm, .mg, .log] s (State.endFiring s) := by
  have h := Only.refl [.pm, .mg, .log] s
  unfold State.endFiring
  repeat' first
    | with_reducible assumption | with_reducible apply Only.lift (State.enterRunning_only _) | split
    | (with_reducible show Part.sub _ _ = true; decide)

theorem State.checkEnd_only (s : State) (k : Nat) (rails : List CheckRail) : Only [.clk, .pm, .out, .ctl, .kiln, .walk,
    .fault, .irq, .mg, .log, .port, .ring, .twin, .tw, .pwm, .free] s (State.checkEnd s k rails) := by
  have h := Only.refl [.clk, .pm, .out, .ctl, .kiln, .walk, .fault, .irq, .mg, .log, .port, .ring, .twin, .tw, .pwm, .free] s
  unfold State.checkEnd
  repeat' first
    | with_reducible assumption | with_reducible apply Only.lift (State.endStep_only _ _ _) | split
    | (with_reducible show Part.sub _ _ = true; decide)

theorem State.checkFail_only (s : State) (k : Nat) (r : Nat) : Only [.kiln, .log] s (State.checkFail s k r) := by
  have h := Only.refl [.kiln, .log] s
  unfold State.checkFail
  try dsimp only
  repeat' first
    | with_reducible assumption | with_reducible apply Only.lift (State.openTick_only _)
    | with_reducible apply Only.lift (State.setEng_only _ _ _)
    | with_reducible apply Only.lift (State.capture_only _ _ _ _) | split | with_reducible refine Only.mk_upd ?_
    | (with_reducible show Part.sub _ _ = true; decide)

theorem State.marginEnd_only (s : State) (k : Nat) (n : Nat) (r : BitVec 2) : Only [.clk, .pm, .out, .ctl, .kiln, .walk,
    .fault, .irq, .mg, .log, .port, .ring, .twin, .tw, .pwm, .free] s (State.marginEnd s k n r) := by
  have h := Only.refl [.clk, .pm, .out, .ctl, .kiln, .walk, .fault, .irq, .mg, .log, .port, .ring, .twin, .tw, .pwm, .free] s
  unfold State.marginEnd
  repeat' first
    | with_reducible assumption | with_reducible apply Only.lift (State.endStep_only _ _ _)
    | with_reducible apply Only.lift (State.setEng_only _ _ _) | split | with_reducible refine Only.mk_upd ?_
    | (with_reducible show Part.sub _ _ = true; decide)

theorem State.launchEnum_only (s : State) : Only [.ring] s (State.launchEnum s) := by
  have h := Only.refl [.ring] s
  unfold State.launchEnum
  try dsimp only
  repeat' first
    | with_reducible assumption | with_reducible apply Only.lift (State.sendFrame_only _ _ _) | split
    | with_reducible refine Only.mk_upd ?_ | (with_reducible show Part.sub _ _ = true; decide)

theorem State.reenumerate_only (s : State) : Only [.ring] s (State.reenumerate s) := by
  have h := Only.refl [.ring] s
  unfold State.reenumerate
  try dsimp only
  repeat' first
    | with_reducible assumption | with_reducible apply Only.lift (State.launchEnum_only _) | split
    | with_reducible refine Only.mk_upd ?_ | (with_reducible show Part.sub _ _ = true; decide)

theorem State.forgetAbsent_only (s : State) : Only [.ring] s (State.forgetAbsent s) := by
  have h := Only.refl [.ring] s
  unfold State.forgetAbsent
  repeat' first | with_reducible assumption | split | with_reducible refine Only.mk_upd ?_

end Sys2Proof.Machine
end

