-- ==== Sys2Proof/Laws/OnlyWrite.lean ====
section
/-! SUPPORT. What the judged register write and the command pipeline can change. -/

set_option Elab.async false

namespace Sys2Proof.Machine

theorem State.putCfg_only (s : State) (r : Reg) (v : Word) : Only [.cfg] s (State.putCfg s r v) := by
  have h := Only.refl [.cfg] s
  unfold State.putCfg
  repeat' first | with_reducible assumption | with_reducible refine Only.mk_upd ?_

theorem State.clearFlt_only (s : State) (pins : Byte) : Only [.sense] s (State.clearFlt s pins) := by
  have h := Only.refl [.sense] s
  unfold State.clearFlt
  try dsimp only
  repeat' first | with_reducible assumption | with_reducible refine Only.mk_upd ?_

theorem State.clearFail_only (s : State) (high : Bool) (bits : Word) : Only [.kiln] s (State.clearFail s high bits) := by
  have h := Only.refl [.kiln] s
  unfold State.clearFail
  try dsimp only
  repeat' first
    | with_reducible assumption | with_reducible apply Only.lift (State.openTick_only _) | split
    | with_reducible refine Only.mk_upd ?_ | (with_reducible show Part.sub _ _ = true; decide)

theorem State.popQueue_only (s : State) : Only [.fault] s (State.popQueue s) := by
  have h := Only.refl [.fault] s
  unfold State.popQueue
  repeat' first | with_reducible assumption | with_reducible refine Only.mk_upd ?_

theorem State.addPhase_only (s : State) (n : Nat) (v : Word) : Only [.clk] s (State.addPhase s n v) := by
  have h := Only.refl [.clk] s
  unfold State.addPhase
  try dsimp only
  repeat' first | with_reducible assumption | split | with_reducible refine Only.mk_upd ?_

theorem State.writeContent_only (s : State) (r : Reg) (v : Word) : Only [.clk, .pm, .sense, .kiln, .fault, .irq, .cfg,
    .pwm] s (State.writeContent s r v) := by
  have h := Only.refl [.clk, .pm, .sense, .kiln, .fault, .irq, .cfg, .pwm] s
  unfold State.writeContent
  try dsimp only
  repeat' first
    | with_reducible assumption | with_reducible apply Only.lift (State.pwSettle_only _)
    | with_reducible apply Only.lift (State.clearFlt_only _ _)
    | with_reducible apply Only.lift (State.clearFail_only _ _ _) | with_reducible apply Only.lift (State.popQueue_only _)
    | with_reducible apply Only.lift (State.addPhase_only _ _ _)
    | with_reducible apply Only.lift (State.setLoadAll_only _) | with_reducible apply Only.lift (State.writeRun_only _ _)
    | with_reducible apply Only.lift (State.clearLatches_only _ _)
    | with_reducible apply Only.lift (State.keepShadow_only _ _)
    | with_reducible apply Only.lift (State.putCfg_only _ _ _) | with_reducible apply Only.lift (State.setCh_only _ _ _)
    | split | with_reducible refine Only.mk_upd ?_ | (with_reducible show Part.sub _ _ = true; decide)

theorem State.attenChanged_only (s : State) (n : Nat) : Only [.clk, .pm, .out, .ctl, .sense, .kiln, .walk, .fault, .irq,
    .mg, .log, .port, .ring, .twin, .tw, .pwm, .free] s (State.attenChanged s n) := by
  have h := Only.refl [.clk, .pm, .out, .ctl, .sense, .kiln, .walk, .fault, .irq, .mg, .log, .port, .ring, .twin, .tw, .pwm,
      .free] s
  unfold State.attenChanged
  try dsimp only
  repeat' first
    | with_reducible assumption | with_reducible refine Only.foldl _ ?_ (fun u x hu => ?_)
    | with_reducible apply Only.lift (State.setCmp_only _ _ _) | with_reducible apply Only.lift (State.receive_only _ _)
    | with_reducible apply Only.lift (State.forcedChange_only _ _) | with_reducible refine Only.mk_upd ?_
    | (with_reducible show Part.sub _ _ = true; decide)

theorem State.cmpCfgChanged_only (s : State) (src : Nat) (c : Word) (w : Word) : Only [.sense] s (State.cmpCfgChanged s src
    c w) := by
  have h := Only.refl [.sense] s
  unfold State.cmpCfgChanged
  try dsimp only
  repeat' first
    | with_reducible assumption | with_reducible apply Only.lift (State.startSettle_only _ _)
    | with_reducible apply Only.lift (State.cutRamp_only _ _) | split | (with_reducible show Part.sub _ _ = true; decide)

theorem State.trimSide_only (s : State) (old : State) (n : Nat) : Only [.mg] s (State.trimSide s old n) := by
  have h := Only.refl [.mg] s
  unfold State.trimSide
  try dsimp only
  repeat' first
    | with_reducible assumption | with_reducible apply Only.lift (State.setTrim_only _ _ _)
    | with_reducible apply Only.lift (State.trimNominal_only _ _) | split | with_reducible refine Only.mk_upd ?_
    | (with_reducible show Part.sub _ _ = true; decide)

theorem State.twinEnChanged_only (s : State) (old : State) : Only [.clk, .pm, .out, .ctl, .sense, .kiln, .walk, .fault,
    .irq, .mg, .log, .port, .ring, .twin, .tw, .pwm, .free] s (State.twinEnChanged s old) := by
  have h := Only.refl [.clk, .pm, .out, .ctl, .sense, .kiln, .walk, .fault, .irq, .mg, .log, .port, .ring, .twin, .tw,
      .pwm, .free] s
  unfold State.twinEnChanged
  try dsimp only
  repeat' first
    | with_reducible assumption | with_reducible apply Only.lift (State.releaseHeld_only _)
    | with_reducible apply Only.lift (State.twinAtReady_only _) | with_reducible apply Only.lift (State.setCmp_only _ _ _)
    | with_reducible apply Only.lift (State.trimSide_only _ _ _)
    | with_reducible apply Only.lift (State.senseChange_only _ _ _)
    | with_reducible refine Only.foldl _ ?_ (fun u x hu => ?_) | split | with_reducible refine Only.mk_upd ?_
    | (with_reducible show Part.sub _ _ = true; decide)

theorem State.outChanged_only (s : State) (n : Nat) (c : Word) (w : Word) : Only [.clk] s (State.outChanged s n c w) := by
  have h := Only.refl [.clk] s
  unfold State.outChanged
  try dsimp only
  repeat' first | with_reducible assumption | split | with_reducible refine Only.mk_upd ?_

theorem State.intervalChanged_only (s : State) : Only [.mg] s (State.intervalChanged s) := by
  have h := Only.refl [.mg] s
  unfold State.intervalChanged
  try dsimp only
  repeat' first | with_reducible assumption | split | with_reducible refine Only.mk_upd ?_

theorem State.scanChanged_only (s : State) : Only [.sense] s (State.scanChanged s) := by
  have h := Only.refl [.sense] s
  unfold State.scanChanged
  try dsimp only
  repeat' first
    | with_reducible assumption | with_reducible apply Only.lift (State.assignAll_only _)
    | with_reducible apply Only.lift (State.startPass_only _) | with_reducible apply Only.lift (State.turnLate_only _)
    | split | (with_reducible show Part.sub _ _ = true; decide)

theorem State.startCycle_only (s : State) : Only [.mg] s (State.startCycle s) := by
  have h := Only.refl [.mg] s
  unfold State.startCycle
  try dsimp only
  repeat' first
    | with_reducible assumption | with_reducible apply Only.lift (State.finishCycle_only _) | split
    | with_reducible refine Only.mk_upd ?_ | (with_reducible show Part.sub _ _ = true; decide)

theorem State.stopCycle_only (s : State) : Only [.mg, .log, .free] s (State.stopCycle s) := by
  have h := Only.refl [.mg, .log, .free] s
  unfold State.stopCycle
  repeat' first
    | with_reducible assumption | with_reducible apply Only.lift (State.endCycle_only _ _) | split
    | (with_reducible show Part.sub _ _ = true; decide)

theorem State.writeAfter_only (s : State) (cfg : Tab Word) (r : Reg) (v : Word) (c : Word) : Only [.clk, .pm, .out, .ctl,
    .sense, .kiln, .walk, .fault, .irq, .mg, .log, .cfg, .port, .ring, .twin, .tw, .twEnded, .pwm, .free] s
    (State.writeAfter s cfg r v c) := by
  have h := Only.refl [.clk, .pm, .out, .ctl, .sense, .kiln, .walk, .fault, .irq, .mg, .log, .cfg, .port, .ring, .twin,
      .tw, .twEnded, .pwm, .free] s
  unfold State.writeAfter
  try dsimp only
  repeat' first
    | with_reducible assumption | with_reducible apply Only.lift (State.attenChanged_only _ _)
    | with_reducible apply Only.lift (State.senseChange_only _ _ _)
    | with_reducible apply Only.lift (State.cmpCfgChanged_only _ _ _ _)
    | with_reducible apply Only.lift (State.refreshFlt_only _ _)
    | with_reducible apply Only.lift (State.scanChanged_only _) | with_reducible apply Only.lift (State.assignAll_only _)
    | with_reducible apply Only.lift (State.intervalChanged_only _)
    | with_reducible apply Only.lift (State.stopCycle_only _) | with_reducible apply Only.lift (State.startCycle_only _)
    | with_reducible apply Only.lift (State.twEnable_only _ _) | with_reducible apply Only.lift (State.twReset_only _ _)
    | with_reducible apply Only.lift (State.twClear_only _ _)
    | with_reducible apply Only.lift (State.twinEnChanged_only _ _)
    | with_reducible apply Only.lift (State.trimSide_only _ _ _)
    | with_reducible apply Only.lift (State.reenumerate_only _)
    | with_reducible apply Only.lift (State.forgetAbsent_only _)
    | with_reducible apply Only.lift (State.outChanged_only _ _ _ _)
    | with_reducible refine Only.foldl _ ?_ (fun u x hu => ?_) | split | with_reducible refine Only.mk_upd ?_
    | (with_reducible show Part.sub _ _ = true; decide)

theorem State.writesFollow_only (s : State) (l : List Written) : Only [.clk, .pm, .out, .ctl, .sense, .kiln, .walk, .fault,
    .irq, .mg, .log, .cfg, .port, .ring, .twin, .tw, .twEnded, .pwm, .free] s (State.writesFollow s l) := by
  have h := Only.refl [.clk, .pm, .out, .ctl, .sense, .kiln, .walk, .fault, .irq, .mg, .log, .cfg, .port, .ring, .twin, .tw,
      .twEnded, .pwm, .free] s
  unfold State.writesFollow
  repeat' first
    | with_reducible assumption | with_reducible refine Only.foldl _ ?_ (fun u x hu => ?_)
    | with_reducible apply Only.lift (State.writeAfter_only _ _ _ _ _) | (with_reducible show Part.sub _ _ = true; decide)

theorem State.countRefused_only (s : State) (k : Carrier) (l : List (Nat × Word)) (status : Nat) : Only [.irq, .sec, .pwm]
    s (State.countRefused s k l status) := by
  have h := Only.refl [.irq, .sec, .pwm] s
  unfold State.countRefused
  try dsimp only
  repeat' first
    | with_reducible assumption | with_reducible apply Only.lift (State.countClearRefused_only _) | split
    | with_reducible refine Only.mk_upd ?_ | (with_reducible show Part.sub _ _ = true; decide)

theorem State.putSec_only (s : State) (x : Sec) : Only [.sec] s (s.putSec x) :=
  fun p hp => by cases p <;> first | rfl | exact (hp (by decide)).elim

theorem State.putHeld_only (held : Tab Word) (s : State) (r : Reg) : Only [.cfg] s (State.putHeld held s r) := by
  unfold State.putHeld
  dsimp only
  split
  · exact Only.refl _ s
  · exact State.putCfg_only _ _ _

theorem State.loadHeld_only (s : State) (held : Tab Word) : Only [.cfg, .sgLoaded] s (s.loadHeld held) := by
  unfold State.loadHeld
  dsimp only
  exact Only.foldl _ (Only.foldl _ (Only.refl _ s).mk_upd fun u x hu => Only.lift (State.putHeld_only _ _ _) (by decide) hu)
    fun u x hu => Only.lift (State.putHeld_only _ _ _) (by decide) hu

theorem State.loadPart_only (s : State) (p : SgPart) : Only [.kiln, .fault, .cfg, .sgLoaded, .sec] s (s.loadPart p) := by
  unfold State.loadPart
  have h := State.loadHeld_only s p.held
  generalize s.loadHeld p.held = t at h ⊢
  exact (h.mono (by decide)).mk_upd

theorem State.newImage_only (s : State) : Only [.sec] s s.newImage := State.putSec_only _ _

theorem State.writeWord_only (e : State × List Written) (w : Nat × Word) :
    Only [.clk, .pm, .sense, .kiln, .fault, .irq, .cfg, .pwm] e.1 (State.writeWord e w).1 := by
  unfold State.writeWord
  split
  · exact Only.refl _ _
  · dsimp only
    split
    · exact Only.refl _ _
    · exact State.writeContent_only _ _ _

theorem State.writeAll_only (s : State) (l : List (Nat × Word)) :
    Only [.clk, .pm, .sense, .kiln, .fault, .irq, .cfg, .pwm] s (s.writeAll l).1 := by
  unfold State.writeAll
  generalize hx : (s, ([] : List Written)) = x
  have hx1 : Only [.clk, .pm, .sense, .kiln, .fault, .irq, .cfg, .pwm] s x.1 := by
    rw [← hx]
    exact Only.refl _ _
  clear hx
  induction l generalizing x with
  | nil => exact hx1
  | cons w l ih => exact ih _ (Only.lift (State.writeWord_only _ w) (by decide) hx1)

theorem State.writeOne_only (s : State) (k : Carrier) (a' : Nat) (v : Word) : Only [.clk, .pm, .out, .ctl, .sense, .kiln, .walk, .fault, .irq, .mg, .log, .cfg, .port, .sec, .ring, .twin, .tw, .twEnded, .pwm, .free] s (State.writeOne
    s k a' v) := by
  unfold State.writeOne
  split
  · exact State.countRefused_only s _ _ _ |>.mono (by decide)
  · have h1 : Only [.clk, .pm, .out, .ctl, .sense, .kiln, .walk, .fault, .irq, .mg, .log, .cfg, .port, .sec, .ring, .twin, .tw, .twEnded, .pwm, .free] s (State.writeWord (s, []) (a', v)).1 := (State.writeWord_only (s, []) (a',
      v)).mono (by decide)
    generalize State.writeWord (s, []) (a', v) = e at h1 ⊢
    have h2 : Only [.clk, .pm, .out, .ctl, .sense, .kiln, .walk, .fault, .irq, .mg, .log, .cfg, .port, .sec, .ring, .twin, .tw, .twEnded, .pwm, .free] s (if changedCfg e.2 then e.1.newImage else e.1) :=
      Only.ite (Only.lift (State.newImage_only _) (by decide) h1) h1
    dsimp only at h2 ⊢
    exact Only.lift (State.writesFollow_only _ _) (by decide) h2

theorem State.writeLive_only (s : State) (k : Carrier) (a' : Nat) (v : Word) : Only [.clk, .pm, .out, .ctl, .sense, .kiln,
    .walk, .fault, .irq, .mg, .log, .cfg, .port, .sec, .ring, .twin, .tw, .twEnded, .pwm, .frozen, .free] s (State.writeLive
    s k a' v) := by
  have h := Only.refl [.clk, .pm, .out, .ctl, .sense, .kiln, .walk, .fault, .irq, .mg, .log, .cfg, .port, .sec, .ring, .twin,
      .tw, .twEnded, .pwm, .frozen, .free] s
  unfold State.writeLive
  repeat' first
    | with_reducible assumption | with_reducible apply Only.lift (State.writeOne_only _ _ _ _) | split
    | (with_reducible show Part.sub _ _ = true; decide)

theorem State.countBad_only (s : State) (c : Cmd) : Only [.sec] s (State.countBad s c) := by
  have h := Only.refl [.sec] s
  unfold State.countBad
  try dsimp only
  repeat' first | with_reducible assumption | split | with_reducible refine Only.mk_upd ?_

theorem State.advance_only (s : State) (c : Cmd) (slots : List Nat) : Only [.sec] s (State.advance s c slots) := by
  have h := Only.refl [.sec] s
  unfold State.advance
  repeat' first | with_reducible assumption | split | with_reducible refine Only.mk_upd ?_

theorem State.pass5_only (s : State) (c : Cmd) : Only [.port, .sec] s (State.pass5 s c) := by
  have h := Only.refl [.port, .sec] s
  unfold State.pass5
  try dsimp only
  repeat' first
    | with_reducible assumption | with_reducible apply Only.lift (State.advance_only _ _ _)
    | with_reducible apply Only.lift (State.setCmd_only _ _) | split | with_reducible refine Only.mk_upd ?_
    | (with_reducible show Part.sub _ _ = true; decide)

theorem State.verified_only (s : State) (c : Cmd) : Only [.port, .sec] s (State.verified s c) := by
  have h := Only.refl [.port, .sec] s
  unfold State.verified
  try dsimp only
  repeat' first
    | with_reducible assumption | with_reducible apply Only.lift (State.countBad_only _ _)
    | with_reducible apply Only.lift (State.setCmd_only _ _) | with_reducible refine Only.mk_upd ?_
    | (with_reducible show Part.sub _ _ = true; decide)

theorem State.count5_only (s : State) (c : Cmd) : Only [.pm, .irq, .log, .port, .sec, .ring] s (State.count5 s c) := by
  have h := Only.refl [.pm, .irq, .log, .port, .sec, .ring] s
  unfold State.count5
  try dsimp only
  repeat' first
    | with_reducible assumption | with_reducible apply Only.lift (State.finish_only _ _ _ _)
    | with_reducible apply Only.lift (State.pass5_only _ _) | split | with_reducible refine Only.mk_upd ?_
    | (with_reducible show Part.sub _ _ = true; decide)

theorem State.runStage5_only (s : State) (ring : Bool) (n : Nat) : Only [.pm, .irq, .log, .port, .sec, .ring] s (s.runStage5 ring
    n) := by
  have k_count5 : ∀ {a s : State}, Only [.pm, .irq, .log, .port, .sec, .ring] a s → ∀ x0, Only [.pm, .irq, .log, .port, .sec, .ring] a
      (State.count5 s x0) :=
    fun h _ => Only.lift (State.count5_only _ _) (by decide) h
  suffices g : ∀ {a s : State}, Only [.pm, .irq, .log, .port, .sec, .ring] a s → Only [.pm, .irq, .log, .port, .sec, .ring] a
      (s.runStage5 ring n) from g (Only.refl _ s)
  intro a s h
  induction n generalizing s with
  | zero => exact h
  | succ k ih =>
    unfold State.runStage5
    split
    · split
      · exact ih (k_count5 h _)
      · exact h
    · exact h

theorem State.noteReceived_only (s : State) : Only [.port] s (State.noteReceived s) := by
  have h := Only.refl [.port] s
  unfold State.noteReceived
  repeat' first | with_reducible assumption | with_reducible refine Only.mk_upd ?_

theorem State.noteFraming_only (s : State) : Only [.port] s (State.noteFraming s) := by
  have h := Only.refl [.port] s
  unfold State.noteFraming
  repeat' first | with_reducible assumption | with_reducible refine Only.mk_upd ?_

theorem State.takeIn_only (s : State) (c : Cmd) : Only [.port] s (State.takeIn s c) := by
  have h := Only.refl [.port] s
  unfold State.takeIn
  repeat' first | with_reducible assumption | with_reducible refine Only.mk_upd ?_

theorem State.refuse127_only (s : State) (ring : Bool) (bcast : Bool) (status : Nat) (h' : List Byte) : Only [.irq, .port,
    .ring] s (State.refuse127 s ring bcast status h') := by
  have h := Only.refl [.irq, .port, .ring] s
  unfold State.refuse127
  try dsimp only
  repeat' first
    | with_reducible assumption | with_reducible apply Only.lift (State.countRefusal_only _ _)
    | with_reducible apply Only.lift (State.post127_only _ _ _ _) | split
    | (with_reducible show Part.sub _ _ = true; decide)

theorem State.enter_only (s : State) (c : Cmd) : Only [.port] s (State.enter s c) := by
  have h := Only.refl [.port] s
  unfold State.enter
  try dsimp only
  repeat' first
    | with_reducible assumption | with_reducible apply Only.lift (State.takeIn_only _ _) | split
    | with_reducible refine Only.mk_upd ?_ | (with_reducible show Part.sub _ _ = true; decide)

theorem State.forward_only (s : State) (c : Cmd) (kind : Nat) (src : Nat) (p : List Byte) : Only [.port, .ring] s
    (State.forward s c kind src p) := by
  have h := Only.refl [.port, .ring] s
  unfold State.forward
  try dsimp only
  repeat' first
    | with_reducible assumption | with_reducible apply Only.lift (State.sendFrame_only _ _ _)
    | with_reducible refine Only.mk_upd ?_ | (with_reducible show Part.sub _ _ = true; decide)

theorem State.stage23_only (s : State) (c : Cmd) (p : List Byte) : Only [.pm, .irq, .log, .port, .ring] s (State.stage23 s
    c p) := by
  have h := Only.refl [.pm, .irq, .log, .port, .ring] s
  unfold State.stage23
  try dsimp only
  repeat' first
    | with_reducible assumption | with_reducible apply Only.lift (State.takeIn_only _ _)
    | with_reducible apply Only.lift (State.finish_only _ _ _ _)
    | with_reducible apply Only.lift (State.forward_only _ _ _ _ _)
    | with_reducible apply Only.lift (State.enter_only _ _) | split | with_reducible refine Only.mk_upd ?_
    | (with_reducible show Part.sub _ _ = true; decide)

theorem State.continue__only (s : State) (c : Cmd) (d : Cmd) (p : List Byte) : Only [.port, .ring] s (State.continue_ s c
    d p) := by
  have h := Only.refl [.port, .ring] s
  unfold State.continue_
  try dsimp only
  repeat' first
    | with_reducible assumption | with_reducible apply Only.lift (State.forward_only _ _ _ _ _)
    | with_reducible apply Only.lift (State.setCmd_only _ _) | split | with_reducible refine Only.mk_upd ?_
    | (with_reducible show Part.sub _ _ = true; decide)

theorem State.arriveCont_only (s : State) (ring : Bool) (p : List Byte) : Only [.irq, .port, .ring] s (State.arriveCont s
    ring p) := by
  have h := Only.refl [.irq, .port, .ring] s
  unfold State.arriveCont
  try dsimp only
  repeat' first
    | with_reducible assumption | with_reducible apply Only.lift (State.continue__only _ _ _ _)
    | with_reducible apply Only.lift (State.refuse127_only _ _ _ _ _) | split | with_reducible refine Only.mk_upd ?_
    | (with_reducible show Part.sub _ _ = true; decide)

theorem State.arrive_only (s : State) (ring : Bool) (src : Nat) (bcast : Bool) (p : List Byte) : Only [.pm, .irq, .log,
    .port, .ring] s (State.arrive s ring src bcast p) := by
  have h := Only.refl [.pm, .irq, .log, .port, .ring] s
  unfold State.arrive
  try dsimp only
  repeat' first
    | with_reducible assumption | with_reducible apply Only.lift (State.noteReceived_only _)
    | with_reducible apply Only.lift (State.noteFraming_only _)
    | with_reducible apply Only.lift (State.arriveCont_only _ _ _)
    | with_reducible apply Only.lift (State.refuse127_only _ _ _ _ _)
    | with_reducible apply Only.lift (State.takeIn_only _ _) | with_reducible apply Only.lift (State.finish_only _ _ _ _)
    | with_reducible apply Only.lift (State.stage23_only _ _ _) | split | with_reducible refine Only.mk_upd ?_
    | (with_reducible show Part.sub _ _ = true; decide)

end Sys2Proof.Machine
end

