-- ==== Sys2Proof/Laws/OnlyRows.lean ====
section
/-! SUPPORT. What each operation behind the command rows, and the tick of an idle block, can change. -/

set_option Elab.async false

namespace Sys2Proof.Machine

theorem State.tripiPulse_only (s : State) (i : Nat) : Only [.irq, .pwm] s (State.tripiPulse s i) := by
  have h := Only.refl [.irq, .pwm] s
  unfold State.tripiPulse
  try dsimp only
  repeat' first
    | with_reducible assumption | with_reducible apply Only.lift (State.noteSet_only _ _ _)
    | with_reducible apply Only.lift (State.tripPwm_only _ _) | with_reducible refine Only.mk_upd ?_
    | (with_reducible show Part.sub _ _ = true; decide)

theorem State.twFinal_only (s : State) (p : Nat) (q : TwSeq) (result : BitVec 4) (data : BitVec 16) : Only [.mg, .tw,
    .twEnded] s (State.twFinal s p q result data) := by
  have h := Only.refl [.mg, .tw, .twEnded] s
  unfold State.twFinal
  repeat' first
    | with_reducible assumption | with_reducible apply Only.lift (State.endHead_only _ _ _ _)
    | with_reducible apply Only.lift (State.txDone_only _ _ _ _) | split
    | (with_reducible show Part.sub _ _ = true; decide)

theorem State.twEnd_only (s : State) (p : Nat) (q : TwSeq) (result : BitVec 4) (data : BitVec 16) : Only [.irq, .mg, .tw,
    .twEnded] s (State.twEnd s p q result data) := by
  have h := Only.refl [.irq, .mg, .tw, .twEnded] s
  unfold State.twEnd
  try dsimp only
  repeat' first
    | with_reducible assumption | with_reducible apply Only.lift (State.setTw_only _ _ _)
    | with_reducible apply Only.lift (State.irqTw_only _ _)
    | with_reducible apply Only.lift (State.twFinal_only _ _ _ _ _)
    | with_reducible apply Only.lift (State.endQueue_only _ _ _)
    | with_reducible apply Only.lift (State.busyPump_only _ _ _) | split | with_reducible refine Only.mk_upd ?_
    | (with_reducible show Part.sub _ _ = true; decide)

theorem State.beginAnswer_only (s : State) (p : Nat) : Only [.cfg, .tw] s (State.beginAnswer s p) := by
  have h := Only.refl [.cfg, .tw] s
  unfold State.beginAnswer
  try dsimp only
  repeat' first
    | with_reducible assumption | with_reducible apply Only.lift (State.setTw_only _ _ _)
    | with_reducible refine Only.mk_upd ?_ | (with_reducible show Part.sub _ _ = true; decide)

theorem State.setTo_only (s : State) (k : Nat) : Only [.kiln] s (State.setTo s k) := by
  have h := Only.refl [.kiln] s
  unfold State.setTo
  repeat' first
    | with_reducible assumption | with_reducible apply Only.lift (State.setEng_only _ _ _)
    | with_reducible refine Only.mk_upd ?_ | (with_reducible show Part.sub _ _ = true; decide)

theorem State.syncEnd_only (s : State) (k : Nat) (w : Step64) : Only [.clk, .pm, .out, .ctl, .kiln, .walk, .fault, .irq,
    .mg, .log, .port, .ring, .twin, .tw, .pwm, .free] s (State.syncEnd s k w) := by
  have h := Only.refl [.clk, .pm, .out, .ctl, .kiln, .walk, .fault, .irq, .mg, .log, .port, .ring, .twin, .tw, .pwm, .free] s
  unfold State.syncEnd
  try dsimp only
  repeat' first
    | with_reducible assumption | with_reducible apply Only.lift (State.endStep_only _ _ _)
    | with_reducible apply Only.lift (State.clearFlags_only _ _) | split
    | (with_reducible show Part.sub _ _ = true; decide)

theorem State.marginPm_only (s : State) (k : Nat) (n : Nat) (level : Nat) : Only [.clk, .pm, .out, .ctl, .kiln, .walk,
    .fault, .irq, .mg, .log, .port, .ring, .twin, .tw, .pwm, .free] s (State.marginPm s k n level) := by
  have h := Only.refl [.clk, .pm, .out, .ctl, .kiln, .walk, .fault, .irq, .mg, .log, .port, .ring, .twin, .tw, .pwm, .free] s
  unfold State.marginPm
  try dsimp only
  repeat' first
    | with_reducible assumption | with_reducible apply Only.lift (State.setTw_only _ _ _)
    | with_reducible apply Only.lift (State.endStep_only _ _ _) | with_reducible apply Only.lift (State.setTo_only _ _)
    | with_reducible apply Only.lift (State.setPmb_only _ _ _) | with_reducible apply Only.lift (State.startSeq_only _ _)
    | with_reducible apply Only.lift (State.waitIn_only _ _ _) | split | with_reducible refine Only.mk_upd ?_
    | (with_reducible show Part.sub _ _ = true; decide)

theorem State.pwmAct_only (s : State) (w : Step64) : Only [.irq, .pwm] s (State.pwmAct s w) := by
  have h := Only.refl [.irq, .pwm] s
  unfold State.pwmAct
  try dsimp only
  repeat' first
    | with_reducible assumption | with_reducible apply Only.lift (State.pwSettle_only _)
    | with_reducible apply Only.lift (State.stopCh_only _ _) | with_reducible apply Only.lift (State.startCh_only _ _)
    | with_reducible apply Only.lift (State.keepShadow_only _ _) | with_reducible apply Only.lift (State.setCh_only _ _ _)
    | with_reducible apply Only.lift (State.setLoadAll_only _) | split | with_reducible refine Only.mk_upd ?_
    | (with_reducible show Part.sub _ _ = true; decide)

theorem State.halt_only (s : State) (k : Nat) (off : Bool) : Only [.clk, .pm, .out, .ctl, .kiln, .walk, .fault, .irq, .mg,
    .log, .port, .ring, .twin, .tw, .pwm, .free] s (State.halt s k off) := by
  have h := Only.refl [.clk, .pm, .out, .ctl, .kiln, .walk, .fault, .irq, .mg, .log, .port, .ring, .twin, .tw, .pwm, .free] s
  unfold State.halt
  try dsimp only
  repeat' first
    | with_reducible assumption | with_reducible apply Only.lift (State.setEng_only _ _ _)
    | with_reducible apply Only.lift (State.engineFault_only _ _ _)
    | with_reducible apply Only.lift (State.offRequest_only _ _ _)
    | with_reducible apply Only.lift (State.mirror_only _ _ _) | with_reducible apply Only.lift (State.endFiring_only _)
    | split | with_reducible refine Only.mk_upd ?_ | (with_reducible show Part.sub _ _ = true; decide)

theorem State.marginDone_only (s : State) (n : Nat) (key : Bool × Nat) : Only [.pm, .irq, .log, .port, .ring] s
    (State.marginDone s n key) := by
  have h := Only.refl [.pm, .irq, .log, .port, .ring] s
  unfold State.marginDone
  try dsimp only
  repeat' first
    | with_reducible assumption | with_reducible apply Only.lift (State.finish_only _ _ _ _) | split
    | with_reducible refine Only.mk_upd ?_ | (with_reducible show Part.sub _ _ = true; decide)

theorem State.captureHi_only (s : State) : Only [.port] s (State.captureHi s) := by
  have h := Only.refl [.port] s
  unfold State.captureHi
  repeat' first | with_reducible assumption | with_reducible refine Only.mk_upd ?_

theorem State.crossingReport_only (s : State) (i : Nat) : Only [.clk, .pm, .out, .ctl, .kiln, .walk, .fault, .irq, .mg,
    .log, .port, .ring, .twin, .tw, .pwm, .free] s (State.crossingReport s i) := by
  have h := Only.refl [.clk, .pm, .out, .ctl, .kiln, .walk, .fault, .irq, .mg, .log, .port, .ring, .twin, .tw, .pwm,
      .free] s
  unfold State.crossingReport
  try dsimp only
  repeat' first
    | with_reducible assumption | with_reducible apply Only.lift (State.noteSet_only _ _ _)
    | with_reducible apply Only.lift (State.irqCk_only _ _)
    | with_reducible apply Only.lift (State.receiveCause_only _ _ _) | split | with_reducible refine Only.mk_upd ?_
    | (with_reducible show Part.sub _ _ = true; decide)

theorem State.tripNow_only (s : State) : Only [.out, .walk, .irq, .pwm] s (State.tripNow s) := by
  have h := Only.refl [.out, .walk, .irq, .pwm] s
  unfold State.tripNow
  try dsimp only
  repeat' first
    | with_reducible assumption | with_reducible apply Only.lift (State.assertTripo_only _)
    | with_reducible refine Only.mk_upd ?_ | (with_reducible show Part.sub _ _ = true; decide)

theorem State.walkRelease_only (s : State) (mask : Rails) : Only [.clk, .pm, .out, .ctl, .sense, .kiln, .walk, .fault, .irq,
    .mg, .log, .port, .ring, .twin, .tw, .pwm, .free] s (State.walkRelease s mask) := by
  have h := Only.refl [.clk, .pm, .out, .ctl, .sense, .kiln, .walk, .fault, .irq, .mg, .log, .port, .ring, .twin, .tw, .pwm,
      .free] s
  unfold State.walkRelease
  try dsimp only
  repeat' first
    | with_reducible assumption | with_reducible apply Only.lift (State.enLow_only _ _)
    | with_reducible refine Only.mk_upd ?_ | (with_reducible show Part.sub _ _ = true; decide)

theorem State.walkAct_only (s : State) (x : Step64) : Only [.clk, .pm, .out, .ctl, .sense, .kiln, .walk, .fault, .irq, .mg,
    .log, .port, .ring, .twin, .tw, .pwm, .free] s (State.walkAct s x) := by
  have h := Only.refl [.clk, .pm, .out, .ctl, .sense, .kiln, .walk, .fault, .irq, .mg, .log, .port, .ring, .twin, .tw, .pwm,
      .free] s
  unfold State.walkAct
  try dsimp only
  repeat' first
    | with_reducible assumption | with_reducible apply Only.lift (State.trimDischarge_only _ _)
    | with_reducible apply Only.lift (State.walkRelease_only _ _)
    | with_reducible apply Only.lift (State.walkSeek_only _ _) | split | with_reducible refine Only.mk_upd ?_
    | (with_reducible show Part.sub _ _ = true; decide)

theorem State.walkDue_only (s : State) (x : Step64) (due : Nat) : Only [.clk, .pm, .out, .ctl, .sense, .kiln, .walk, .fault,
    .irq, .mg, .log, .port, .ring, .twin, .tw, .pwm, .free] s (State.walkDue s x due) := by
  have h := Only.refl [.clk, .pm, .out, .ctl, .sense, .kiln, .walk, .fault, .irq, .mg, .log, .port, .ring, .twin, .tw, .pwm,
      .free] s
  unfold State.walkDue
  repeat' first
    | with_reducible assumption | with_reducible apply Only.lift (State.walkAct_only _ _) | split
    | with_reducible refine Only.mk_upd ?_ | (with_reducible show Part.sub _ _ = true; decide)

theorem State.waitShard_only (s : State) (x : Step64) : Only [.log] s (State.waitShard s x) := by
  have h := Only.refl [.log] s
  unfold State.waitShard
  try dsimp only
  repeat' first
    | with_reducible assumption | with_reducible apply Only.lift (State.capture_only _ _ _ _)
    | (with_reducible show Part.sub _ _ = true; decide)

theorem State.noteTimeout_only (s : State) : Only [.walk] s (State.noteTimeout s) := by
  have h := Only.refl [.walk] s
  unfold State.noteTimeout
  repeat' first | with_reducible assumption | with_reducible refine Only.mk_upd ?_

theorem State.sweepAll_only (s : State) : Only [.clk, .pm, .out, .ctl, .sense, .kiln, .walk, .fault, .irq, .mg, .log, .port,
    .ring, .twin, .tw, .pwm, .free] s (State.sweepAll s) := by
  have h := Only.refl [.clk, .pm, .out, .ctl, .sense, .kiln, .walk, .fault, .irq, .mg, .log, .port, .ring, .twin, .tw, .pwm,
      .free] s
  unfold State.sweepAll
  try dsimp only
  repeat' first
    | with_reducible assumption | with_reducible apply Only.lift (State.walkRelease_only _ _)
    | with_reducible refine Only.mk_upd ?_ | (with_reducible show Part.sub _ _ = true; decide)

theorem State.coolingEnds_only (s : State) : Only [.clk, .pm, .out, .inp, .ctl, .sense, .kiln, .walk, .fault, .irq, .mg,
    .log, .cfgLoaded, .sgLoaded, .port, .sec, .ring, .twin, .tw, .twEnded, .pwm, .frozen] s (State.coolingEnds s) := by
  have h := Only.refl [.clk, .pm, .out, .inp, .ctl, .sense, .kiln, .walk, .fault, .irq, .mg, .log, .cfgLoaded, .sgLoaded,
      .port, .sec, .ring, .twin, .tw, .twEnded, .pwm, .frozen] s
  unfold State.coolingEnds
  try dsimp only
  repeat' first
    | with_reducible assumption | with_reducible apply Only.lift (State.irqCt_only _ _)
    | with_reducible apply Only.lift (State.goTo_only _ _ _) | with_reducible apply Only.lift (State.startOffMin_only _)
    | with_reducible apply Only.lift (State.readyClears_only _)
    | with_reducible apply Only.lift (State.deviceReset_only _ _ _)
    | with_reducible apply Only.lift (State.tryPending_only _) | split | with_reducible refine Only.mk_upd ?_
    | (with_reducible show Part.sub _ _ = true; decide)

theorem State.reducedSweep_only (s : State) : Only [.clk, .pm, .out, .ctl, .sense, .kiln, .walk, .fault, .irq, .mg, .log,
    .port, .ring, .twin, .tw, .pwm, .free] s (State.reducedSweep s) := by
  have h := Only.refl [.clk, .pm, .out, .ctl, .sense, .kiln, .walk, .fault, .irq, .mg, .log, .port, .ring, .twin, .tw, .pwm,
      .free] s
  unfold State.reducedSweep
  try dsimp only
  repeat' first
    | with_reducible assumption | with_reducible apply Only.lift (State.trimsOff_only _)
    | with_reducible apply Only.lift (State.sweepAll_only _) | with_reducible refine Only.mk_upd ?_
    | (with_reducible show Part.sub _ _ = true; decide)

theorem State.reportDrops_only (s : State) : Only [.log] s (State.reportDrops s) := by
  have h := Only.refl [.log] s
  unfold State.reportDrops
  try dsimp only
  repeat' first
    | with_reducible assumption | with_reducible apply Only.lift (State.logEvent_only _ _ _ _ _) | split
    | with_reducible refine Only.mk_upd ?_ | (with_reducible show Part.sub _ _ = true; decide)

theorem State.mramUsed_only (s : State) (copier : Bool) : Only [.log] s (State.mramUsed s copier) := by
  have h := Only.refl [.log] s
  unfold State.mramUsed
  try dsimp only
  repeat' first | with_reducible assumption | split | with_reducible refine Only.mk_upd ?_

theorem State.endWithout_only (s : State) (c : Copy) : Only [.log] s (State.endWithout s c) := by
  have h := Only.refl [.log] s
  unfold State.endWithout
  repeat' first
    | with_reducible assumption | with_reducible refine Only.foldl _ ?_ (fun u x hu => ?_)
    | with_reducible refine Only.mk_upd ?_

theorem State.makeSpace_only (s : State) : Only [.log] s (State.makeSpace s) := by
  have h := Only.refl [.log] s
  unfold State.makeSpace
  try dsimp only
  repeat' first
    | with_reducible assumption | with_reducible apply Only.lift (State.logEvent_only _ _ _ _ _) | split
    | with_reducible refine Only.mk_upd ?_ | (with_reducible show Part.sub _ _ = true; decide)

theorem State.makeCopy_only (s : State) (c : Copy) (y : Stored) : Only [.irq, .log] s (State.makeCopy s c y) := by
  have h := Only.refl [.irq, .log] s
  unfold State.makeCopy
  try dsimp only
  repeat' first
    | with_reducible assumption | with_reducible apply Only.lift (State.writeShard_only _ _ _ _ _)
    | with_reducible apply Only.lift (State.archiveLow_only _ _)
    | with_reducible refine Only.foldl _ ?_ (fun u x hu => ?_) | split | with_reducible refine Only.mk_upd ?_
    | (with_reducible show Part.sub _ _ = true; decide)

theorem State.copyHead_only (s : State) (c : Copy) (rest : List Copy) : Only [.irq, .log] s (State.copyHead s c rest) :=
    by
  have h := Only.refl [.irq, .log] s
  unfold State.copyHead
  try dsimp only
  repeat' first
    | with_reducible assumption | with_reducible apply Only.lift (State.endWithout_only _ _)
    | with_reducible apply Only.lift (State.logEvent_only _ _ _ _ _)
    | with_reducible apply Only.lift (State.makeCopy_only _ _ _) | with_reducible apply Only.lift (State.makeSpace_only _)
    | with_reducible refine Only.foldl _ ?_ (fun u x hu => ?_) | split | with_reducible refine Only.mk_upd ?_
    | (with_reducible show Part.sub _ _ = true; decide)

theorem State.countCorrected_only (s : State) (n : Nat) : Only [.log] s (State.countCorrected s n) := by
  have h := Only.refl [.log] s
  unfold State.countCorrected
  try dsimp only
  repeat' first | with_reducible assumption | with_reducible refine Only.mk_upd ?_

theorem State.rewriteBlock_only (s : State) (c : Nat) (b : Nat) : Only [.log] s (State.rewriteBlock s c b) := by
  have h := Only.refl [.log] s
  unfold State.rewriteBlock
  try dsimp only
  repeat' first | with_reducible assumption | split | with_reducible refine Only.mk_upd ?_

theorem State.lostWord_only (s : State) (r : Nat) (p : Nat) (w : BitVec 6) : Only [.irq, .log] s (State.lostWord s r p w)
    := by
  have h := Only.refl [.irq, .log] s
  unfold State.lostWord
  try dsimp only
  repeat' first
    | with_reducible assumption | with_reducible apply Only.lift (State.irqLg_only _ _)
    | with_reducible apply Only.lift (State.logEvent_only _ _ _ _ _)
    | with_reducible apply Only.lift (State.rewriteBlock_only _ _ _) | split | with_reducible refine Only.mk_upd ?_
    | (with_reducible show Part.sub _ _ = true; decide)

theorem State.blockRead_only (s : State) (r : Nat) (p : Nat) (f : BlockRead) : Only [.irq, .log] s (State.blockRead s r p
    f) := by
  have h := Only.refl [.irq, .log] s
  unfold State.blockRead
  try dsimp only
  repeat' first
    | with_reducible assumption | with_reducible apply Only.lift (State.lostWord_only _ _ _ _)
    | with_reducible apply Only.lift (State.countCorrected_only _ _)
    | with_reducible refine Only.foldl _ ?_ (fun u x hu => ?_) | split | (with_reducible show Part.sub _ _ = true; decide)

theorem State.noteCollapse_only (s : State) (outcome : BitVec 2) : Only [.pm] s (State.noteCollapse s outcome) := by
  have h := Only.refl [.pm] s
  unfold State.noteCollapse
  repeat' first | with_reducible assumption | with_reducible refine Only.mk_upd ?_

theorem State.collapseReset_only (s : State) : Only [.clk, .pm, .out, .inp, .ctl, .sense, .kiln, .walk, .fault, .irq, .mg,
    .log, .cfgLoaded, .sgLoaded, .port, .sec, .ring, .twin, .tw, .twEnded, .pwm, .frozen] s (State.collapseReset s) := by
  have h := Only.refl [.clk, .pm, .out, .inp, .ctl, .sense, .kiln, .walk, .fault, .irq, .mg, .log, .cfgLoaded, .sgLoaded,
      .port, .sec, .ring, .twin, .tw, .twEnded, .pwm, .frozen] s
  unfold State.collapseReset
  try dsimp only
  repeat' first
    | with_reducible assumption | with_reducible apply Only.lift (State.discardSilent_only _ _)
    | with_reducible apply Only.lift (State.updateHrst_only _) | with_reducible apply Only.lift (State.afterReset_only _)
    | with_reducible refine Only.mk_upd ?_ | (with_reducible show Part.sub _ _ = true; decide)

theorem State.collapseLive_only (s : State) (logDie : Bool) (archive : Bool) : Only [.clk, .pm, .out, .inp, .ctl, .sense,
    .kiln, .walk, .fault, .irq, .mg, .log, .cfgLoaded, .sgLoaded, .port, .sec, .ring, .twin, .tw, .twEnded, .pwm, .frozen]
    s (State.collapseLive s logDie archive) := by
  have h := Only.refl [.clk, .pm, .out, .inp, .ctl, .sense, .kiln, .walk, .fault, .irq, .mg, .log, .cfgLoaded, .sgLoaded,
      .port, .sec, .ring, .twin, .tw, .twEnded, .pwm, .frozen] s
  unfold State.collapseLive
  try dsimp only
  repeat' first
    | with_reducible assumption | with_reducible apply Only.lift (State.noteCollapse_only _ _)
    | with_reducible apply Only.lift (State.collapseReset_only _)
    | with_reducible apply Only.lift (State.endWindows_only _) | split | with_reducible refine Only.mk_upd ?_
    | (with_reducible show Part.sub _ _ = true; decide)

theorem State.collapse_only (s : State) (logDie : Bool) (archive : Bool) : Only [.clk, .pm, .out, .inp, .ctl, .sense,
    .kiln, .walk, .fault, .irq, .mg, .log, .cfgLoaded, .sgLoaded, .port, .sec, .ring, .twin, .tw, .twEnded, .pwm, .frozen,
    .free] s (State.collapse s logDie archive) := by
  have h := Only.refl [.clk, .pm, .out, .inp, .ctl, .sense, .kiln, .walk, .fault, .irq, .mg, .log, .cfgLoaded, .sgLoaded,
      .port, .sec, .ring, .twin, .tw, .twEnded, .pwm, .frozen, .free] s
  unfold State.collapse
  try dsimp only
  repeat' first
    | with_reducible assumption | with_reducible apply Only.lift (State.noteCollapse_only _ _)
    | with_reducible apply Only.lift (State.endWindows_only _) | with_reducible apply Only.lift (State.disable_only _ _)
    | with_reducible apply Only.lift (State.collapseOutputs_only _)
    | with_reducible apply Only.lift (State.collapseReset_only _)
    | with_reducible apply Only.lift (State.collapseLive_only _ _ _) | split | with_reducible refine Only.mk_upd ?_
    | (with_reducible show Part.sub _ _ = true; decide)

theorem State.enterOff_only (s : State) : Only [.clk, .pm, .out, .inp, .ctl, .sense, .kiln, .walk, .fault, .irq, .mg,
    .log, .cfgLoaded, .sgLoaded, .port, .sec, .ring, .twin, .tw, .twEnded, .pwm, .frozen, .jtag] s (State.enterOff s) := by
  have h := Only.refl [.clk, .pm, .out, .inp, .ctl, .sense, .kiln, .walk, .fault, .irq, .mg, .log, .cfgLoaded, .sgLoaded,
      .port, .sec, .ring, .twin, .tw, .twEnded, .pwm, .frozen, .jtag] s
  unfold State.enterOff
  try dsimp only
  repeat' first
    | with_reducible assumption | with_reducible apply Only.lift (State.afterReset_only _)
    | with_reducible apply Only.lift (State.endWindows_only _) | with_reducible refine Only.mk_upd ?_
    | (with_reducible show Part.sub _ _ = true; decide)

theorem State.commitEnds_only (s : State) (outcome : BitVec 2) : Only [.clk, .pm, .out, .inp, .ctl, .sense, .kiln, .walk,
    .fault, .irq, .mg, .log, .cfgLoaded, .sgLoaded, .port, .sec, .ring, .twin, .tw, .twEnded, .pwm, .frozen, .jtag] s
    (State.commitEnds s outcome) := by
  have h := Only.refl [.clk, .pm, .out, .inp, .ctl, .sense, .kiln, .walk, .fault, .irq, .mg, .log, .cfgLoaded, .sgLoaded,
      .port, .sec, .ring, .twin, .tw, .twEnded, .pwm, .frozen, .jtag] s
  unfold State.commitEnds
  try dsimp only
  repeat' first
    | with_reducible assumption | with_reducible apply Only.lift (State.enterOff_only _)
    | with_reducible apply Only.lift (State.leaveStage1_only _) | split | with_reducible refine Only.mk_upd ?_
    | (with_reducible show Part.sub _ _ = true; decide)

theorem State.finishCopy_only (s : State) : Only [.pm, .irq, .log, .port, .ring] s (State.finishCopy s) := by
  have h := Only.refl [.pm, .irq, .log, .port, .ring] s
  unfold State.finishCopy
  try dsimp only
  repeat' first
    | with_reducible assumption | with_reducible apply Only.lift (State.copyHead_only _ _ _) | split
    | with_reducible refine Only.mk_upd ?_ | (with_reducible show Part.sub _ _ = true; decide)

theorem State.commitList_only (s : State) (l : List Shard) (open_ : Bool) : Only [.irq, .log] s (State.commitList s l open_)
    := by
  have h := Only.refl [.irq, .log] s
  unfold State.commitList
  try dsimp only
  repeat' first
    | with_reducible assumption | with_reducible refine Only.foldl _ ?_ (fun u x hu => ?_)
    | with_reducible apply Only.lift (State.endWindows_only _) | with_reducible apply Only.lift (State.commitFr_only _ _)
    | split | (with_reducible show Part.sub _ _ = true; decide)

theorem State.cutWrite_only (s : State) (r : Nat) (y : Stored) (words : Nat) : Only [.log] s (State.cutWrite s r y words)
    := by
  have h := Only.refl [.log] s
  unfold State.cutWrite
  try dsimp only
  repeat' first
    | with_reducible assumption | with_reducible apply Only.lift (State.setRegion_only _ _ _) | split
    | with_reducible refine Only.mk_upd ?_ | (with_reducible show Part.sub _ _ = true; decide)

theorem State.cutShard_only (s : State) (x : Shard) (words : Nat) : Only [.log] s (State.cutShard s x words) := by
  have h := Only.refl [.log] s
  unfold State.cutShard
  try dsimp only
  repeat' first
    | with_reducible assumption | with_reducible apply Only.lift (State.skipTorn_only _ _ _)
    | with_reducible apply Only.lift (State.cutWrite_only _ _ _ _)
    | with_reducible apply Only.lift (State.setRegion_only _ _ _) | split | with_reducible refine Only.mk_upd ?_
    | (with_reducible show Part.sub _ _ = true; decide)

theorem State.cutCopy_only (s : State) (words : Nat) : Only [.log] s (State.cutCopy s words) := by
  have h := Only.refl [.log] s
  unfold State.cutCopy
  try dsimp only
  repeat' first
    | with_reducible assumption | with_reducible apply Only.lift (State.cutWrite_only _ _ _ _) | split
    | with_reducible refine Only.mk_upd ?_ | (with_reducible show Part.sub _ _ = true; decide)

theorem State.stageLate_only (s : State) : Only [.pm, .log, .free] s (State.stageLate s) := by
  have h := Only.refl [.pm, .log, .free] s
  unfold State.stageLate
  try dsimp only
  repeat' first
    | with_reducible assumption | with_reducible apply Only.lift (State.startFail_only _ _ _)
    | with_reducible apply Only.lift (State.leaveStage1_only _) | with_reducible apply Only.lift (State.takeFree_only _)
    | split | with_reducible refine Only.mk_upd ?_ | (with_reducible show Part.sub _ _ = true; decide)

theorem State.samplePins_only (s : State) (r : StageResult) : Only [.pm, .out, .inp] s (State.samplePins s r) := by
  have h := Only.refl [.pm, .out, .inp] s
  unfold State.samplePins
  try dsimp only
  repeat' first | with_reducible assumption | with_reducible refine Only.mk_upd ?_

theorem State.loadCopy_only (s : State) (c : SgCopy) : Only [.pm, .kiln, .fault, .cfg, .sgLoaded, .sec] s (State.loadCopy s c)
    := by
  have h := Only.refl [.pm, .kiln, .fault, .cfg, .sgLoaded, .sec] s
  unfold State.loadCopy
  try dsimp only
  repeat' first
    | with_reducible assumption | with_reducible apply Only.lift (State.loadPart_only _ _)
    | with_reducible refine Only.mk_upd ?_ | (with_reducible show Part.sub _ _ = true; decide)

theorem State.stage1Work_only (s : State) (r : StageResult) : Only [.pm, .out, .inp, .kiln, .fault, .cfg, .sgLoaded, .sec] s
    (State.stage1Work s r) := by
  have h := Only.refl [.pm, .out, .inp, .kiln, .fault, .cfg, .sgLoaded, .sec] s
  unfold State.stage1Work
  try dsimp only
  repeat' first
    | with_reducible assumption | with_reducible apply Only.lift (State.samplePins_only _ _)
    | with_reducible apply Only.lift (State.loadCopy_only _ _) | with_reducible apply Only.lift (State.leaveStage1_only _)
    | with_reducible apply Only.lift (State.startFail_only _ _ _) | split | with_reducible refine Only.mk_upd ?_
    | (with_reducible show Part.sub _ _ = true; decide)

theorem State.stage2Work_only (s : State) (r : StageResult) : Only [.clk, .pm] s (State.stage2Work s r) := by
  have h := Only.refl [.clk, .pm] s
  unfold State.stage2Work
  try dsimp only
  repeat' first
    | with_reducible assumption | with_reducible apply Only.lift (State.pllStart_only _ _) | split
    | with_reducible refine Only.mk_upd ?_ | (with_reducible show Part.sub _ _ = true; decide)

theorem State.aonTimeBase_only (s : State) : Only [.clk, .log] s (State.aonTimeBase s) := by
  have h := Only.refl [.clk, .log] s
  unfold State.aonTimeBase
  try dsimp only
  repeat' first
    | with_reducible assumption | with_reducible apply Only.lift (State.secondReached_only _) | split
    | with_reducible refine Only.mk_upd ?_ | (with_reducible show Part.sub _ _ = true; decide)

/-- A new power block touches nothing else. -/
theorem Only.withPm {ps : List Part} {s t : State} (hp : Part.sub [.pm] ps = true) (p : Pm) (h : Only ps s t) :
    Only ps s { t with pm := p } := Only.lift (Only.mk_upd (ps := [.pm]) (Only.refl _ t)) hp h

/-- A new log block touches nothing else. -/
theorem Only.withLog {ps : List Part} {s t : State} (hp : Part.sub [.log] ps = true) (l : Log) (h : Only ps s t) :
    Only ps s { t with log := l } := Only.lift (Only.mk_upd (ps := [.log]) (Only.refl _ t)) hp h

theorem State.stage3Work_only (s : State) (r : StageResult) : Only [.clk, .pm, .kiln, .fault, .irq, .log, .cfgLoaded] s
    (State.stage3Work s r) := by
  have a : ∀ l : Log, Only [.clk, .pm, .kiln, .fault, .irq, .log, .cfgLoaded] s { s with log := l } :=
    fun l => Only.withLog (by decide) l (Only.refl _ s)
  have b : ∀ t, Only [.clk, .pm, .kiln, .fault, .irq, .log, .cfgLoaded] s t →
      Only [.clk, .pm, .kiln, .fault, .irq, .log, .cfgLoaded] s t.examineLog.setTimeBase := fun t h =>
    Only.lift (State.setTimeBase_only _) (by decide) (Only.lift (State.examineLog_only _) (by decide) h)
  exact Only.ite (Only.lift (State.startFail_only _ _ _) (by decide) (Only.lift (State.aonTimeBase_only _) (by decide) (a _)))
    (Only.ite (Only.lift (State.startFail_only _ _ _) (by decide) (b _ (a _)))
      (Only.ite (Only.lift (State.startFail_only _ _ _) (by decide) (b _ (a _)))
        (Only.withPm (by decide) _ (b _ (Only.lift (State.configLoaded_only _) (by decide) (a _))))))

theorem State.stage4Work_only (s : State) (r : StageResult) : Only [.clk, .pm, .out, .ctl, .sense, .kiln, .walk, .fault,
    .irq, .mg, .log, .port, .ring, .twin, .tw, .pwm, .free] s (State.stage4Work s r) := by
  have h := Only.refl [.clk, .pm, .out, .ctl, .sense, .kiln, .walk, .fault, .irq, .mg, .log, .port, .ring, .twin, .tw,
      .pwm, .free] s
  unfold State.stage4Work
  try dsimp only
  repeat' first
    | with_reducible assumption | with_reducible apply Only.lift (State.failCmps_only _ _)
    | with_reducible apply Only.lift (State.startFail_only _ _ _)
    | with_reducible apply Only.lift (State.beginStage5_only _) | split
    | (with_reducible show Part.sub _ _ = true; decide)

theorem State.arming_only (s : State) (r : StageResult) : Only [.clk, .pm, .out, .ctl, .sense, .kiln, .walk, .fault, .irq,
    .mg, .log, .port, .ring, .twin, .tw, .pwm, .free] s (State.arming s r) := by
  have h := Only.refl [.clk, .pm, .out, .ctl, .sense, .kiln, .walk, .fault, .irq, .mg, .log, .port, .ring, .twin, .tw, .pwm,
      .free] s
  unfold State.arming
  try dsimp only
  repeat' first
    | with_reducible assumption | with_reducible refine Only.foldl _ ?_ (fun u x hu => ?_)
    | with_reducible apply Only.lift (State.senseChange_only _ _ _)
    | with_reducible apply Only.lift (State.observe_only _ _ _)
    | with_reducible apply Only.lift (State.takeReading_only _ _ _) | with_reducible refine Only.mk_upd ?_
    | (with_reducible show Part.sub _ _ = true; decide)

theorem State.wakeFallback_only (s : State) : Only [.pm, .out, .sense, .cfgLoaded] s (State.wakeFallback s) := by
  have h := Only.refl [.pm, .out, .sense, .cfgLoaded] s
  unfold State.wakeFallback
  try dsimp only
  repeat' first
    | with_reducible assumption | with_reducible apply Only.lift (State.updateHrst_only _)
    | with_reducible refine Only.mk_upd ?_ | (with_reducible show Part.sub _ _ = true; decide)

theorem State.shortPulses_only (s : State) (onreq : Nat) (mr : Nat) : Only [.ctl] s (State.shortPulses s onreq mr) := by
  have h := Only.refl [.ctl] s
  unfold State.shortPulses
  try dsimp only
  repeat' first | with_reducible assumption | with_reducible refine Only.mk_upd ?_

theorem State.vinBack_only (s : State) (b : Bool) : Only [.pm] s (State.vinBack s b) := by
  have h := Only.refl [.pm] s
  unfold State.vinBack
  try dsimp only
  repeat' first | with_reducible assumption | split | with_reducible refine Only.mk_upd ?_

theorem State.takeSeen_only (s : State) (x : Seen) : Only [.clk, .ctl, .irq, .mg, .log, .ring, .tw, .free] s
    (State.takeSeen s x) := by
  have h := Only.refl [.clk, .ctl, .irq, .mg, .log, .ring, .tw, .free] s
  unfold State.takeSeen
  try dsimp only
  repeat' first
    | with_reducible assumption | with_reducible apply Only.lift (State.shortPulses_only _ _ _)
    | with_reducible apply Only.lift (State.gated_only _ _) | with_reducible apply Only.lift (State.overflowed_only _ _)
    | with_reducible apply Only.lift (State.symbolErrors_only _ _ _)
    | with_reducible apply Only.lift (State.compliance_only _ _)
    | with_reducible apply Only.lift (State.foreignStarts_only _ _ _) | (with_reducible show Part.sub _ _ = true; decide)

theorem State.setPb_only (s : State) (m : PbMode) (pressed : Bool) (held : Nat) : Only [.inp, .ctl] s (State.setPb s m
    pressed held) := by
  have h := Only.refl [.inp, .ctl] s
  unfold State.setPb
  repeat' first | with_reducible assumption | with_reducible refine Only.mk_upd ?_

theorem State.shortPress_only (s : State) (tick : Nat) : Only [.clk, .pm, .out, .ctl, .kiln, .walk, .fault, .irq, .mg,
    .log, .port, .ring, .twin, .tw, .pwm, .free] s (State.shortPress s tick) := by
  have h := Only.refl [.clk, .pm, .out, .ctl, .kiln, .walk, .fault, .irq, .mg, .log, .port, .ring, .twin, .tw, .pwm,
      .free] s
  unfold State.shortPress
  try dsimp only
  repeat' first
    | with_reducible assumption | with_reducible apply Only.lift (State.onArises_only _ _)
    | with_reducible apply Only.lift (State.mirror_only _ _ _)
    | with_reducible apply Only.lift (State.offRequest_only _ _ _) | split | with_reducible refine Only.mk_upd ?_
    | (with_reducible show Part.sub _ _ = true; decide)

theorem State.senseFault_only (s : State) (f : FaultRec) : Only [.clk, .pm, .out, .ctl, .kiln, .walk, .fault, .irq, .mg,
    .log, .port, .ring, .twin, .tw, .pwm, .free] s (State.senseFault s f) := by
  have h := Only.refl [.clk, .pm, .out, .ctl, .kiln, .walk, .fault, .irq, .mg, .log, .port, .ring, .twin, .tw, .pwm, .free] s
  unfold State.senseFault
  repeat' first
    | with_reducible assumption | with_reducible apply Only.lift (State.receive_only _ _) | split
    | (with_reducible show Part.sub _ _ = true; decide)

theorem State.release_only (s : State) (old : State) (src : Nat) : Only [.clk, .pm, .out, .ctl, .sense, .kiln, .walk,
    .fault, .irq, .mg, .log, .port, .ring, .twin, .tw, .pwm, .free] s (State.release s old src) := by
  have h := Only.refl [.clk, .pm, .out, .ctl, .sense, .kiln, .walk, .fault, .irq, .mg, .log, .port, .ring, .twin, .tw, .pwm,
      .free] s
  unfold State.release
  repeat' first
    | with_reducible assumption | with_reducible apply Only.lift (State.senseChange_only _ _ _)
    | with_reducible apply Only.lift (State.reeval_only _ _) | (with_reducible show Part.sub _ _ = true; decide)

theorem State.endTest_only (s : State) : Only [.sense] s (State.endTest s) := by
  have h := Only.refl [.sense] s
  unfold State.endTest
  repeat' first | with_reducible assumption | with_reducible refine Only.mk_upd ?_

theorem State.syncEdge_only (s : State) (src : Nat) : Only [.sense] s (State.syncEdge s src) := by
  have h := Only.refl [.sense] s
  unfold State.syncEdge
  try dsimp only
  repeat' first
    | with_reducible assumption | with_reducible apply Only.lift (State.setCmp_only _ _ _) | split
    | with_reducible refine Only.mk_upd ?_ | (with_reducible show Part.sub _ _ = true; decide)

theorem State.beginTest_only (s : State) (src : Nat) : Only [.sense] s (State.beginTest s src) := by
  have h := Only.refl [.sense] s
  unfold State.beginTest
  try dsimp only
  repeat' first
    | with_reducible assumption | with_reducible apply Only.lift (State.setCmp_only _ _ _)
    | with_reducible refine Only.mk_upd ?_ | (with_reducible show Part.sub _ _ = true; decide)

theorem State.skipTest_only (s : State) (src : Nat) : Only [.clk, .pm, .out, .ctl, .sense, .kiln, .walk, .fault, .irq, .mg,
    .log, .port, .ring, .twin, .tw, .pwm, .free] s (State.skipTest s src) := by
  have h := Only.refl [.clk, .pm, .out, .ctl, .sense, .kiln, .walk, .fault, .irq, .mg, .log, .port, .ring, .twin, .tw, .pwm,
      .free] s
  unfold State.skipTest
  try dsimp only
  repeat' first
    | with_reducible assumption | with_reducible apply Only.lift (State.setCmp_only _ _ _)
    | with_reducible apply Only.lift (State.senseFault_only _ _) | split | with_reducible refine Only.mk_upd ?_
    | (with_reducible show Part.sub _ _ = true; decide)

theorem State.nextSlot_only (s : State) (due : Nat) : Only [.sense] s (State.nextSlot s due) := by
  have h := Only.refl [.sense] s
  unfold State.nextSlot
  try dsimp only
  repeat' first | with_reducible assumption | split | with_reducible refine Only.mk_upd ?_

theorem State.restoreTest_only (s : State) (src : Nat) (wrong : Bool) : Only [.clk, .pm, .out, .ctl, .sense, .kiln, .walk,
    .fault, .irq, .mg, .log, .port, .ring, .twin, .tw, .pwm, .free] s (State.restoreTest s src wrong) := by
  have h := Only.refl [.clk, .pm, .out, .ctl, .sense, .kiln, .walk, .fault, .irq, .mg, .log, .port, .ring, .twin, .tw, .pwm,
      .free] s
  unfold State.restoreTest
  try dsimp only
  repeat' first
    | with_reducible assumption | with_reducible apply Only.lift (State.endTest_only _)
    | with_reducible apply Only.lift (State.senseChange_only _ _ _)
    | with_reducible apply Only.lift (State.setCmp_only _ _ _)
    | with_reducible apply Only.lift (State.startSettle_only _ _) | split | with_reducible refine Only.mk_upd ?_
    | (with_reducible show Part.sub _ _ = true; decide)

theorem State.served_only (s : State) (x : Conv) (code : BitVec 16) : Only [.sense, .mg] s (State.served s x code) := by
  have h := Only.refl [.sense, .mg] s
  unfold State.served
  try dsimp only
  repeat' first
    | with_reducible assumption | with_reducible apply Only.lift (State.groupDone_only _ _)
    | with_reducible apply Only.lift (State.setGroup_only _ _ _)
    | with_reducible apply Only.lift (State.sweepTake_only _ _ _ _) | split | with_reducible refine Only.mk_upd ?_
    | (with_reducible show Part.sub _ _ = true; decide)

theorem State.convDone_only (s : State) (c : Nat) (x : Conv) (raw : BitVec 16) :
    Only [.clk, .pm, .out, .ctl, .sense, .kiln, .walk, .fault, .irq, .mg, .log, .port, .ring, .twin, .tw, .pwm, .free] s (s.convDone c x raw) := by
  unfold State.convDone
  have h : Only [.clk, .pm, .out, .ctl, .sense, .kiln, .walk, .fault, .irq, .mg, .log, .port, .ring, .twin, .tw, .pwm, .free] s
      (s.till x.due).openGroups :=
    Only.lift (State.openGroups_only _) (by decide) ((State.till_only _ _).mono (by decide))
  generalize (s.till x.due).openGroups = t at h ⊢
  dsimp only
  exact Only.lift (State.assign_only _ _ _) (by decide) (Only.lift (State.served_only _ _ _) (by decide)
    (Only.lift (State.takeReading_only _ _ _) (by decide) (Only.mk_upd h)))

theorem State.unblock_only (s : State) : Only [.clk, .pm, .out, .kiln, .mg, .log, .twin] s (State.unblock s) := by
  have h := Only.refl [.clk, .pm, .out, .kiln, .mg, .log, .twin] s
  unfold State.unblock
  repeat' first
    | with_reducible assumption | with_reducible apply Only.lift (State.tryPending_only _)
    | with_reducible apply Only.lift (State.found_only _) | split | (with_reducible show Part.sub _ _ = true; decide)

theorem State.beginPoint_only (s : State) (n : Nat) (p : Nat) : Only [.mg] s (State.beginPoint s n p) := by
  have h := Only.refl [.mg] s
  unfold State.beginPoint
  try dsimp only
  repeat' first
    | with_reducible assumption | with_reducible apply Only.lift (State.applyTrim_only _ _ _ _)
    | with_reducible refine Only.mk_upd ?_ | (with_reducible show Part.sub _ _ = true; decide)

theorem State.pointDone_only (s : State) (n : Nat) : Only [.mg, .free] s (State.pointDone s n) := by
  have h := Only.refl [.mg, .free] s
  unfold State.pointDone
  try dsimp only
  repeat' first
    | with_reducible assumption | with_reducible refine Only.foldl _ ?_ (fun u x hu => ?_) | split
    | with_reducible refine Only.mk_upd ?_

theorem State.clockOut_only (s : State) (l : List Byte) : Only [.port] s (State.clockOut s l) := by
  have h := Only.refl [.port] s
  unfold State.clockOut
  repeat' first | with_reducible assumption | with_reducible refine Only.mk_upd ?_

theorem State.noteOverrun_only (s : State) : Only [.port] s (State.noteOverrun s) := by
  have h := Only.refl [.port] s
  unfold State.noteOverrun
  repeat' first | with_reducible assumption | with_reducible refine Only.mk_upd ?_

theorem State.resetLeft_only (s : State) (r : Reply) : Only [.pm] s (State.resetLeft s r) := by
  have h := Only.refl [.pm] s
  unfold State.resetLeft
  try dsimp only
  repeat' first | with_reducible assumption | split | with_reducible refine Only.mk_upd ?_

theorem State.dropFwd_only (s : State) (tag : Nat) : Only [.port] s (State.dropFwd s tag) := by
  have h := Only.refl [.port] s
  unfold State.dropFwd
  repeat' first | with_reducible assumption | with_reducible refine Only.mk_upd ?_

theorem State.execute_only {ps : List Part} {a s : State} (hp : Part.sub [.pm, .irq, .log, .port, .ring] ps = true)
    (h : Only ps a s) (op : Nat) (f : Cmd → State) (hf : ∀ c, Only ps a (f c)) : Only ps a (s.execute op f) := by
  unfold State.execute
  split
  · split
    · exact Only.lift (State.finish_only _ _ _ _) (Part.sub_trans (by decide) hp) h
    · exact hf _
  · exact h

theorem State.ok_only (s : State) (c : Cmd) (payload : List Byte) : Only [.pm, .irq, .log, .port, .ring] s (State.ok s c
    payload) := by
  have h := Only.refl [.pm, .irq, .log, .port, .ring] s
  unfold State.ok
  try dsimp only
  repeat' first
    | with_reducible assumption | with_reducible apply Only.lift (State.finish_only _ _ _ _)
    | (with_reducible show Part.sub _ _ = true; decide)

theorem State.refuse_only (s : State) (c : Cmd) (status : Nat) : Only [.pm, .irq, .log, .port, .ring] s (State.refuse s c
    status) := by
  have h := Only.refl [.pm, .irq, .log, .port, .ring] s
  unfold State.refuse
  try dsimp only
  repeat' first
    | with_reducible assumption | with_reducible apply Only.lift (State.finish_only _ _ _ _)
    | (with_reducible show Part.sub _ _ = true; decide)

theorem State.afterRead_only (s : State) (a' : Nat) (n : Nat) : Only [.port] s (State.afterRead s a' n) := by
  have h := Only.refl [.port] s
  unfold State.afterRead
  try dsimp only
  repeat' first
    | with_reducible assumption | with_reducible apply Only.lift (State.captureHi_only _) | split
    | with_reducible refine Only.mk_upd ?_ | (with_reducible show Part.sub _ _ = true; decide)

theorem State.logBlocks_only (s : State) (p : List Byte) (found : List BlockRead) : Only [.irq, .log] s (State.logBlocks s
    p found) := by
  have h := Only.refl [.irq, .log] s
  unfold State.logBlocks
  try dsimp only
  repeat' first
    | with_reducible assumption | with_reducible apply Only.lift (State.blockRead_only _ _ _ _)
    | with_reducible refine Only.foldl _ ?_ (fun u x hu => ?_) | split | (with_reducible show Part.sub _ _ = true; decide)

theorem State.cfgShard_only (s : State) (c : Cmd) (object : Nat) (before : Digest) (after : Digest) : Only [.log] s
    (State.cfgShard s c object before after) := by
  have h := Only.refl [.log] s
  unfold State.cfgShard
  repeat' first
    | with_reducible assumption | with_reducible apply Only.lift (State.capture_only _ _ _ _)
    | (with_reducible show Part.sub _ _ = true; decide)

theorem State.imageShard_only (s : State) (old : State) (c : Cmd) (object : Nat) : Only [.log] s (State.imageShard s old c
    object) := by
  have h := Only.refl [.log] s
  unfold State.imageShard
  repeat' first
    | with_reducible assumption | with_reducible apply Only.lift (State.cfgShard_only _ _ _ _ _)
    | (with_reducible show Part.sub _ _ = true; decide)

theorem State.confirmFails_only (s : State) (c : Cmd) : Only [.pm, .irq, .log, .port, .sec, .ring] s (State.confirmFails s
    c) := by
  have h := Only.refl [.pm, .irq, .log, .port, .sec, .ring] s
  unfold State.confirmFails
  try dsimp only
  repeat' first
    | with_reducible assumption | with_reducible apply Only.lift (State.refuse_only _ _ _)
    | with_reducible refine Only.mk_upd ?_ | (with_reducible show Part.sub _ _ = true; decide)

theorem State.confirmed_only {ps : List Part} {a s : State} (hp : Part.sub [.pm, .irq, .log, .port, .sec, .ring] ps = true)
    (h : Only ps a s) (c : Cmd) (needed : Bool) (k : Confirm) (f : State) (hf : Only ps a f) :
    Only ps a (s.confirmed c needed k f) :=
  Only.ite (Only.lift (State.confirmFails_only _ _) (Part.sub_trans (by decide) hp) h) hf

theorem State.doWords_only (s : State) (c : Cmd) (l : List (Nat × Word)) :
    Only [.clk, .pm, .out, .ctl, .sense, .kiln, .walk, .fault, .irq, .mg, .log, .cfg, .port, .sec, .ring, .twin, .tw, .twEnded, .pwm, .free] s (s.doWords c l) := by
  have h : Only [.clk, .pm, .out, .ctl, .sense, .kiln, .walk, .fault, .irq, .mg, .log, .cfg, .port, .sec, .ring, .twin, .tw, .twEnded, .pwm, .free] s (s.writeAll l).1 := (State.writeAll_only s l).mono (by decide)
  unfold State.doWords
  generalize s.writeAll l = e at h ⊢
  have h2 : Only [.clk, .pm, .out, .ctl, .sense, .kiln, .walk, .fault, .irq, .mg, .log, .cfg, .port, .sec, .ring, .twin, .tw, .twEnded, .pwm, .free] s (if changedCfg e.2 then e.1.newImage else e.1) :=
    Only.ite (Only.lift (State.newImage_only _) (by decide) h) h
  dsimp only
  generalize (if changedCfg e.2 then e.1.newImage else e.1) = t at h2 ⊢
  refine Only.lift (State.writesFollow_only _ _) (by decide) ?_
  split
  · exact Only.lift (State.ok_only _ _ _) (by decide) h2
  · exact Only.lift (State.ok_only _ _ _) (by decide) (Only.lift (State.imageShard_only _ _ _ _) (by decide) h2)

theorem State.writeRegs_only (s : State) (c : Cmd) (k : Carrier) (confirm : Confirm) : Only [.clk, .pm, .out, .ctl,
    .sense, .kiln, .walk, .fault, .irq, .mg, .log, .cfg, .port, .sec, .ring, .twin, .tw, .twEnded, .pwm, .free] s
    (State.writeRegs s c k confirm) := by
  have h := Only.refl [.clk, .pm, .out, .ctl, .sense, .kiln, .walk, .fault, .irq, .mg, .log, .cfg, .port, .sec, .ring,
      .twin, .tw, .twEnded, .pwm, .free] s
  unfold State.writeRegs
  try dsimp only
  repeat' first
    | with_reducible assumption | with_reducible apply Only.lift (State.countRefused_only _ _ _ _)
    | with_reducible apply Only.lift (State.refuse_only _ _ _)
    | with_reducible apply State.confirmed_only (by decide)
    | with_reducible apply Only.lift (State.doWords_only _ _ _) | split | with_reducible refine Only.mk_upd ?_
    | (with_reducible show Part.sub _ _ = true; decide)

theorem State.onAccepted_only (s : State) (c : Cmd) : Only [.clk, .pm, .ctl, .kiln, .irq, .mg, .log, .port, .ring, .twin]
    s (State.onAccepted s c) := by
  have h := Only.refl [.clk, .pm, .ctl, .kiln, .irq, .mg, .log, .port, .ring, .twin] s
  unfold State.onAccepted
  try dsimp only
  repeat' first
    | with_reducible assumption | with_reducible apply Only.lift (State.ok_only _ _ _)
    | with_reducible apply Only.lift (State.onArises_only _ _) | with_reducible apply Only.lift (State.mirror_only _ _ _)
    | with_reducible apply Only.lift (State.refuse_only _ _ _) | split | (with_reducible show Part.sub _ _ = true; decide)

theorem State.clearLatch_only (s : State) : Only [.pm, .out, .walk] s (State.clearLatch s) := by
  have h := Only.refl [.pm, .out, .walk] s
  unfold State.clearLatch
  try dsimp only
  repeat' first
    | with_reducible assumption | with_reducible apply Only.lift (State.releaseTrips_only _)
    | with_reducible refine Only.mk_upd ?_ | (with_reducible show Part.sub _ _ = true; decide)

theorem State.onreqLevel_only (s : State) : Only [.clk, .pm, .ctl, .kiln, .mg, .log, .ring, .twin] s (State.onreqLevel s)
    := by
  have h := Only.refl [.clk, .pm, .ctl, .kiln, .mg, .log, .ring, .twin] s
  unfold State.onreqLevel
  try dsimp only
  repeat' first
    | with_reducible assumption | with_reducible apply Only.lift (State.onArises_only _ _) | split
    | (with_reducible show Part.sub _ _ = true; decide)

theorem State.marginPmbus_only (s : State) (c : Cmd) (n : Nat) (level : Nat) : Only [.pm, .irq, .mg, .log, .port, .ring,
    .tw] s (State.marginPmbus s c n level) := by
  have h := Only.refl [.pm, .irq, .mg, .log, .port, .ring, .tw] s
  unfold State.marginPmbus
  try dsimp only
  repeat' first
    | with_reducible assumption | with_reducible apply Only.lift (State.refuse_only _ _ _)
    | with_reducible apply Only.lift (State.setTw_only _ _ _) | with_reducible apply Only.lift (State.setPmb_only _ _ _)
    | with_reducible apply Only.lift (State.ok_only _ _ _) | with_reducible apply Only.lift (State.accept_only _ _)
    | with_reducible apply Only.lift (State.startSeq_only _ _) | split | with_reducible refine Only.mk_upd ?_
    | (with_reducible show Part.sub _ _ = true; decide)

theorem State.diesOff_only (s : State) : Only [.clk, .pm, .out, .ctl, .fault, .mg, .port, .sec, .ring, .twin, .tw,
    .twEnded, .pwm, .frozen] s (State.diesOff s) := by
  have h := Only.refl [.clk, .pm, .out, .ctl, .fault, .mg, .port, .sec, .ring, .twin, .tw, .twEnded, .pwm, .frozen] s
  unfold State.diesOff
  try dsimp only
  repeat' first
    | with_reducible assumption | with_reducible apply Only.lift (State.trimsOff_only _)
    | with_reducible refine Only.mk_upd ?_ | (with_reducible show Part.sub _ _ = true; decide)

theorem State.enterStandby_only (s : State) : Only [.clk, .pm, .out, .ctl, .sense, .kiln, .walk, .fault, .irq, .mg, .log,
    .port, .sec, .ring, .twin, .tw, .twEnded, .pwm, .frozen, .free] s (State.enterStandby s) := by
  have h := Only.refl [.clk, .pm, .out, .ctl, .sense, .kiln, .walk, .fault, .irq, .mg, .log, .port, .sec, .ring, .twin,
      .tw, .twEnded, .pwm, .frozen, .free] s
  unfold State.enterStandby
  try dsimp only
  repeat' first
    | with_reducible assumption | with_reducible apply Only.lift (State.goTo_only _ _ _)
    | with_reducible apply Only.lift (State.flushBuffer_only _) | with_reducible apply Only.lift (State.diesOff_only _)
    | with_reducible apply Only.lift (State.quietDown_only _ _) | (with_reducible show Part.sub _ _ = true; decide)

theorem State.awaitReset_only (s : State) : Only [.pm] s (State.awaitReset s) := by
  have h := Only.refl [.pm] s
  unfold State.awaitReset
  try dsimp only
  repeat' first | with_reducible assumption | with_reducible refine Only.mk_upd ?_

theorem State.drainTo_only (s : State) (signers : Byte) (n : Nat) : Only [.log] s (State.drainTo s signers n) := by
  have h := Only.refl [.log] s
  unfold State.drainTo
  repeat' first
    | with_reducible assumption | with_reducible apply Only.lift (State.capture_only _ _ _ _)
    | with_reducible refine Only.mk_upd ?_ | (with_reducible show Part.sub _ _ = true; decide)

theorem State.setTime_only (s : State) (v : Nat) : Only [.clk, .irq, .log] s (State.setTime s v) := by
  have h := Only.refl [.clk, .irq, .log] s
  unfold State.setTime
  try dsimp only
  repeat' first
    | with_reducible assumption | with_reducible apply Only.lift (State.irqCk_only _ _)
    | with_reducible apply Only.lift (State.stepTo_only _ _) | split | with_reducible refine Only.mk_upd ?_
    | (with_reducible show Part.sub _ _ = true; decide)

theorem State.refuseRow_only (s : State) (cls : Nat) (addr : Nat) (value : Word) (status : Nat) : Only [.irq, .log, .port,
    .sec, .pwm, .free] s (State.refuseRow s cls addr value status) := by
  have h := Only.refl [.irq, .log, .port, .sec, .pwm, .free] s
  unfold State.refuseRow
  try dsimp only
  repeat' first
    | with_reducible assumption | with_reducible apply Only.lift (State.countRefused_only _ _ _ _)
    | with_reducible apply Only.lift (State.refusalEffects_only _ _ _) | with_reducible refine Only.mk_upd ?_
    | (with_reducible show Part.sub _ _ = true; decide)

theorem State.writeSigned_only (s : State) (cls : Nat) (addr : Nat) (value : Word) : Only [.clk, .pm, .out, .ctl, .sense,
    .kiln, .walk, .fault, .irq, .mg, .log, .cfg, .port, .sec, .ring, .twin, .tw, .twEnded, .pwm, .frozen, .free] s
    (State.writeSigned s cls addr value) := by
  have h := Only.refl [.clk, .pm, .out, .ctl, .sense, .kiln, .walk, .fault, .irq, .mg, .log, .cfg, .port, .sec, .ring,
      .twin, .tw, .twEnded, .pwm, .frozen, .free] s
  unfold State.writeSigned
  try dsimp only
  repeat' first
    | with_reducible assumption | with_reducible apply Only.lift (State.writeLive_only _ _ _ _)
    | with_reducible apply Only.lift (State.capture_only _ _ _ _) | with_reducible apply Only.lift (State.takeFree_only _)
    | split | (with_reducible show Part.sub _ _ = true; decide)

theorem State.writeRow_only (s : State) (cls : Nat) (addr : Nat) (value : Word) (confirm : Bool) : Only [.clk, .pm, .out,
    .ctl, .sense, .kiln, .walk, .fault, .irq, .mg, .log, .cfg, .port, .sec, .ring, .twin, .tw, .twEnded, .pwm, .frozen,
    .free] s (State.writeRow s cls addr value confirm) := by
  have h := Only.refl [.clk, .pm, .out, .ctl, .sense, .kiln, .walk, .fault, .irq, .mg, .log, .cfg, .port, .sec, .ring,
      .twin, .tw, .twEnded, .pwm, .frozen, .free] s
  unfold State.writeRow
  try dsimp only
  repeat' first
    | with_reducible assumption | with_reducible apply Only.lift (State.countRefusal_only _ _)
    | with_reducible apply Only.lift (State.refuseRow_only _ _ _ _ _)
    | with_reducible apply Only.lift (State.writeSigned_only _ _ _ _) | split | with_reducible refine Only.mk_upd ?_
    | (with_reducible show Part.sub _ _ = true; decide)

theorem State.loadSteps_only (s : State) (l : List (Nat × Step64)) : Only [.kiln] s (State.loadSteps s l) := by
  have h := Only.refl [.kiln] s
  unfold State.loadSteps
  repeat' first
    | with_reducible assumption | with_reducible refine Only.foldl _ ?_ (fun u x hu => ?_)
    | with_reducible refine Only.mk_upd ?_

theorem State.noteLoad_only (s : State) (reason : Nat) (addr : Nat) : Only [.kiln, .free] s (State.noteLoad s reason addr)
    := by
  have h := Only.refl [.kiln, .free] s
  unfold State.noteLoad
  try dsimp only
  repeat' first
    | with_reducible assumption | with_reducible apply Only.lift (State.takeFree_only _) | split
    | with_reducible refine Only.mk_upd ?_ | (with_reducible show Part.sub _ _ = true; decide)

theorem State.programLoad_only (s : State) (c : Cmd) (l : List (Nat × Step64)) : Only [.pm, .kiln, .irq, .log, .port,
    .sec, .ring] s (State.programLoad s c l) := by
  have h := Only.refl [.pm, .kiln, .irq, .log, .port, .sec, .ring] s
  unfold State.programLoad
  try dsimp only
  repeat' first
    | with_reducible assumption | with_reducible apply Only.lift (State.loadSteps_only _ _)
    | with_reducible apply Only.lift (State.newImage_only _)
    | with_reducible apply Only.lift (State.imageShard_only _ _ _ _)
    | with_reducible apply Only.lift (State.ok_only _ _ _) | (with_reducible show Part.sub _ _ = true; decide)

theorem State.putTable_only (s : State) (c : Nat) (t : CoolTable) : Only [.fault] s (State.putTable s c t) := by
  have h := Only.refl [.fault] s
  unfold State.putTable
  repeat' first | with_reducible assumption | with_reducible refine Only.mk_upd ?_

theorem State.tableLoad_only (s : State) (c : Cmd) (n : Nat) (x : CoolTable) : Only [.pm, .fault, .irq, .log, .port, .sec,
    .ring] s (State.tableLoad s c n x) := by
  have h := Only.refl [.pm, .fault, .irq, .log, .port, .sec, .ring] s
  unfold State.tableLoad
  try dsimp only
  repeat' first
    | with_reducible assumption | with_reducible apply Only.lift (State.putTable_only _ _ _)
    | with_reducible apply Only.lift (State.newImage_only _)
    | with_reducible apply Only.lift (State.imageShard_only _ _ _ _)
    | with_reducible apply Only.lift (State.ok_only _ _ _) | (with_reducible show Part.sub _ _ = true; decide)

theorem State.clearBisque_only (s : State) : Only [.fault] s (State.clearBisque s) := by
  have h := Only.refl [.fault] s
  unfold State.clearBisque
  try dsimp only
  repeat' first | with_reducible assumption | with_reducible refine Only.mk_upd ?_

theorem State.noteHorn_only (s : State) (p : Link) (orig : Nat) (seq : Nat) (received : Bool) : Only [.ring] s
    (State.noteHorn s p orig seq received) := by
  have h := Only.refl [.ring] s
  unfold State.noteHorn
  repeat' first | with_reducible assumption | with_reducible refine Only.mk_upd ?_

theorem State.matchStop_only (s : State) (horn : Bool) : Only [.twin] s (State.matchStop s horn) := by
  have h := Only.refl [.twin] s
  unfold State.matchStop
  try dsimp only
  repeat' first | with_reducible assumption | with_reducible refine Only.mk_upd ?_

theorem State.noteStop_only (s : State) (horn : Bool) : Only [.twin] s (State.noteStop s horn) := by
  have h := Only.refl [.twin] s
  unfold State.noteStop
  try dsimp only
  repeat' first | with_reducible assumption | with_reducible refine Only.mk_upd ?_

theorem State.takeHorn_only (s : State) (orig : Nat) (seq : Nat) : Only [.clk, .pm, .out, .ctl, .kiln, .walk, .fault,
    .irq, .mg, .log, .port, .ring, .twin, .tw, .pwm, .free] s (State.takeHorn s orig seq) := by
  have h := Only.refl [.clk, .pm, .out, .ctl, .kiln, .walk, .fault, .irq, .mg, .log, .port, .ring, .twin, .tw, .pwm,
      .free] s
  unfold State.takeHorn
  try dsimp only
  repeat' first
    | with_reducible assumption | with_reducible apply Only.lift (State.irqGl_only _ _)
    | with_reducible apply Only.lift (State.matchStop_only _ _) | with_reducible apply Only.lift (State.noteStop_only _ _)
    | with_reducible apply Only.lift (State.receiveCause_only _ _ _) | split | with_reducible refine Only.mk_upd ?_
    | (with_reducible show Part.sub _ _ = true; decide)

theorem State.hornReaches_only (s : State) (p : Link) (orig : Nat) (seq : Nat) : Only [.clk, .pm, .out, .ctl, .kiln, .walk,
    .fault, .irq, .mg, .log, .port, .ring, .twin, .tw, .pwm, .free] s (State.hornReaches s p orig seq) := by
  have h := Only.refl [.clk, .pm, .out, .ctl, .kiln, .walk, .fault, .irq, .mg, .log, .port, .ring, .twin, .tw, .pwm, .free] s
  unfold State.hornReaches
  try dsimp only
  repeat' first
    | with_reducible assumption | with_reducible apply Only.lift (State.noteHorn_only _ _ _ _ _)
    | with_reducible apply Only.lift (State.takeHorn_only _ _ _) | split | with_reducible refine Only.mk_upd ?_
    | (with_reducible show Part.sub _ _ = true; decide)

theorem State.passHorn_only (s : State) (p : Link) (orig : Nat) (seq : Nat) : Only [.ring] s (State.passHorn s p orig seq)
    := by
  have h := Only.refl [.ring] s
  unfold State.passHorn
  try dsimp only
  repeat' first
    | with_reducible assumption | with_reducible apply Only.lift (State.sendHorn_only _ _ _ _)
    | with_reducible apply Only.lift (State.noteHorn_only _ _ _ _ _) | with_reducible refine Only.mk_upd ?_
    | (with_reducible show Part.sub _ _ = true; decide)

theorem State.noteFrame_only (s : State) (a : Arrival) : Only [.ring] s (State.noteFrame s a) := by
  have h := Only.refl [.ring] s
  unfold State.noteFrame
  try dsimp only
  repeat' first | with_reducible assumption | with_reducible refine Only.mk_upd ?_

theorem State.dropNote_only (s : State) (a : Arrival) : Only [.ring] s (State.dropNote s a) := by
  have h := Only.refl [.ring] s
  unfold State.dropNote
  try dsimp only
  repeat' first | with_reducible assumption | with_reducible refine Only.mk_upd ?_

theorem State.setLink_only (s : State) (p : Link) (f : GLink → GLink) : Only [.ring] s (State.setLink s p f) := by
  have h := Only.refl [.ring] s
  unfold State.setLink
  repeat' first | with_reducible assumption | split | with_reducible refine Only.mk_upd ?_

theorem State.passFrame_only (s : State) (a' : Arrival) (f : Frame) : Only [.ring] s (State.passFrame s a' f) := by
  have h := Only.refl [.ring] s
  unfold State.passFrame
  repeat' first
    | with_reducible assumption | with_reducible apply Only.lift (State.setLink_only _ _ _)
    | with_reducible apply Only.lift (State.sendAs_only _ _ _ _) | split | with_reducible refine Only.mk_upd ?_
    | (with_reducible show Part.sub _ _ = true; decide)

theorem State.meet_only (s : State) (a' : Arrival) : Only [.clk, .pm, .out, .ctl, .kiln, .walk, .fault, .irq, .mg, .log,
    .port, .ring, .twin, .tw, .pwm, .free] s (State.meet s a') := by
  have h := Only.refl [.clk, .pm, .out, .ctl, .kiln, .walk, .fault, .irq, .mg, .log, .port, .ring, .twin, .tw, .pwm, .free] s
  unfold State.meet
  try dsimp only
  repeat' first
    | with_reducible assumption | with_reducible apply Only.lift (State.setLink_only _ _ _)
    | with_reducible apply Only.lift (State.hornReaches_only _ _ _ _) | split | with_reducible refine Only.mk_upd ?_
    | (with_reducible show Part.sub _ _ = true; decide)

theorem State.pass_only (s : State) (a' : Arrival) : Only [.clk, .pm, .out, .ctl, .kiln, .walk, .fault, .irq, .mg, .log,
    .port, .ring, .twin, .tw, .pwm, .free] s (State.pass s a') := by
  have h := Only.refl [.clk, .pm, .out, .ctl, .kiln, .walk, .fault, .irq, .mg, .log, .port, .ring, .twin, .tw, .pwm, .free] s
  unfold State.pass
  try dsimp only
  repeat' first
    | with_reducible assumption | with_reducible apply Only.lift (State.meet_only _ _)
    | with_reducible apply Only.lift (State.passFrame_only _ _ _) | split
    | (with_reducible show Part.sub _ _ = true; decide)

theorem State.passAgain_only (s : State) (a' : Arrival) : Only [.clk, .pm, .out, .ctl, .kiln, .walk, .fault, .irq, .mg,
    .log, .port, .ring, .twin, .tw, .pwm, .free] s (State.passAgain s a') := by
  have h := Only.refl [.clk, .pm, .out, .ctl, .kiln, .walk, .fault, .irq, .mg, .log, .port, .ring, .twin, .tw, .pwm, .free] s
  unfold State.passAgain
  try dsimp only
  repeat' first
    | with_reducible assumption | with_reducible apply Only.lift (State.meet_only _ _)
    | with_reducible apply Only.lift (State.sendAs_only _ _ _ _) | split
    | (with_reducible show Part.sub _ _ = true; decide)

theorem State.becomeFenced_only (s : State) : Only [.irq, .mg, .port, .ring, .tw] s (State.becomeFenced s) := by
  have h := Only.refl [.irq, .mg, .port, .ring, .tw] s
  unfold State.becomeFenced
  try dsimp only
  repeat' first
    | with_reducible assumption | with_reducible apply Only.lift (State.endSeqs_only _ _)
    | with_reducible apply Only.lift (State.recordDiscard_only _ _ _)
    | with_reducible apply Only.lift (State.irqGl_only _ _) | split | with_reducible refine Only.mk_upd ?_
    | (with_reducible show Part.sub _ _ = true; decide)

theorem State.becomeAdmitted_only (s : State) : Only [.ring, .twin] s (State.becomeAdmitted s) := by
  have h := Only.refl [.ring, .twin] s
  unfold State.becomeAdmitted
  try dsimp only
  repeat' first | with_reducible assumption | split | with_reducible refine Only.mk_upd ?_

theorem State.standing_only (s : State) : Only [.irq, .mg, .port, .ring, .twin, .tw] s (State.standing s) := by
  have h := Only.refl [.irq, .mg, .port, .ring, .twin, .tw] s
  unfold State.standing
  try dsimp only
  repeat' first
    | with_reducible assumption | with_reducible apply Only.lift (State.becomeFenced_only _)
    | with_reducible apply Only.lift (State.becomeAdmitted_only _) | split | with_reducible refine Only.mk_upd ?_
    | (with_reducible show Part.sub _ _ = true; decide)

theorem State.sendJoin_only (s : State) : Only [.ring] s (State.sendJoin s) := by
  have h := Only.refl [.ring] s
  unfold State.sendJoin
  try dsimp only
  repeat' first
    | with_reducible assumption | with_reducible apply Only.lift (State.sendFrame_only _ _ _)
    | with_reducible refine Only.mk_upd ?_ | (with_reducible show Part.sub _ _ = true; decide)

theorem State.ownerChanged_only (s : State) (c : Cmd) : Only [.irq, .mg, .port, .ring, .tw] s (State.ownerChanged s c) :=
    by
  have h := Only.refl [.irq, .mg, .port, .ring, .tw] s
  unfold State.ownerChanged
  try dsimp only
  repeat' first
    | with_reducible assumption | with_reducible apply Only.lift (State.becomeFenced_only _) | split
    | with_reducible refine Only.mk_upd ?_ | (with_reducible show Part.sub _ _ = true; decide)

theorem State.enterConflict_only (s : State) : Only [.irq, .ring] s (State.enterConflict s) := by
  have h := Only.refl [.irq, .ring] s
  unfold State.enterConflict
  repeat' first
    | with_reducible assumption | with_reducible apply Only.lift (State.irqGl_only _ _) | split
    | with_reducible refine Only.mk_upd ?_ | (with_reducible show Part.sub _ _ = true; decide)

theorem State.meetRoot_only (s : State) (other : Nat) : Only [.irq, .ring] s (State.meetRoot s other) := by
  have h := Only.refl [.irq, .ring] s
  unfold State.meetRoot
  try dsimp only
  repeat' first
    | with_reducible assumption | with_reducible apply Only.lift (State.enterConflict_only _)
    | with_reducible apply Only.lift (State.sendFrame_only _ _ _) | split
    | (with_reducible show Part.sub _ _ = true; decide)

theorem State.imageSafety_only (s : State) (x : ImageParts) : Only [.cfg] s (State.imageSafety s x) := by
  have h := Only.refl [.cfg] s
  unfold State.imageSafety
  try dsimp only
  repeat' first
    | with_reducible assumption | with_reducible apply Only.lift (State.putCfg_only _ _ _) | split
    | with_reducible refine Only.mk_upd ?_ | (with_reducible show Part.sub _ _ = true; decide)

theorem State.imageContent_only (s : State) (x : ImageParts) : Only [.kiln, .fault, .irq, .cfg, .pwm] s (State.imageContent s x) := by
  have h := Only.refl [.kiln, .fault, .irq, .cfg, .pwm] s
  unfold State.imageContent
  generalize cfgRegs = l
  try dsimp only
  repeat' first
    | with_reducible assumption | with_reducible refine Only.foldl _ ?_ (fun u x hu => ?_)
    | with_reducible apply Only.lift (State.imageSafety_only _ _) | with_reducible apply Only.lift (State.pwSettle_only _)
    | with_reducible apply Only.lift (State.putCfg_only _ _ _) | split | with_reducible refine Only.mk_upd ?_
    | (with_reducible show Part.sub _ _ = true; decide)

theorem State.execute3_only {ps : List Part} {a s : State} (hp : Part.sub [.pm, .irq, .log, .port, .ring] ps = true) (h : Only ps
    a s) (op : Nat) (f : Cmd → State) (hf : ∀ c, Only ps a (f c)) :
    Only ps a (State.execute3 s op f) := by
  unfold State.execute3
  exact State.execute_only (Part.sub_trans (by decide) hp) h _ _
    (fun c => Only.ite (Only.lift (State.refuse_only _ _ _) (Part.sub_trans (by decide) hp) h) (hf c))

theorem State.spoil_only (s : State) (slots : List Nat) : Only [.port] s (State.spoil s slots) := by
  have h := Only.refl [.port] s
  unfold State.spoil
  try dsimp only
  repeat' first | with_reducible assumption | split | with_reducible refine Only.mk_upd ?_

theorem State.keysInForce_only (s : State) (c : Cmd) (object : Nat) (x : Sec) (slots : List Nat) : Only [.pm, .irq, .log,
    .port, .sec, .ring] s (State.keysInForce s c object x slots) := by
  have h := Only.refl [.pm, .irq, .log, .port, .sec, .ring] s
  unfold State.keysInForce
  try dsimp only
  repeat' first
    | with_reducible assumption | with_reducible apply Only.lift (State.putSec_only _ _)
    | with_reducible apply Only.lift (State.spoil_only _ _)
    | with_reducible apply Only.lift (State.cfgShard_only _ _ _ _ _)
    | with_reducible apply Only.lift (State.ok_only _ _ _) | (with_reducible show Part.sub _ _ = true; decide)

theorem State.decommissionShard_only (s : State) (c : Cmd) : Only [.irq, .log] s (State.decommissionShard s c) := by
  have h := Only.refl [.irq, .log] s
  unfold State.decommissionShard
  try dsimp only
  repeat' first
    | with_reducible assumption | with_reducible apply Only.lift (State.capture_only _ _ _ _)
    | with_reducible apply Only.lift (State.commitFr_only _ _) | split | (with_reducible show Part.sub _ _ = true; decide)

theorem State.loadSgSteps_only (s : State) (l : List (Nat × Step64)) : Only [.kiln] s (State.loadSgSteps s l) := by
  have h := Only.refl [.kiln] s
  unfold State.loadSgSteps
  repeat' first
    | with_reducible assumption | with_reducible refine Only.foldl _ ?_ (fun u x hu => ?_)
    | with_reducible refine Only.mk_upd ?_

theorem State.noteSgLoad_only (s : State) (reason : Nat) (addr : Nat) : Only [.kiln, .free] s (State.noteSgLoad s reason
    addr) := by
  have h := Only.refl [.kiln, .free] s
  unfold State.noteSgLoad
  try dsimp only
  repeat' first
    | with_reducible assumption | with_reducible apply Only.lift (State.takeFree_only _) | split
    | with_reducible refine Only.mk_upd ?_ | (with_reducible show Part.sub _ _ = true; decide)

theorem State.sgProgramLoad_only (s : State) (c : Cmd) (l : List (Nat × Step64)) : Only [.pm, .kiln, .irq, .log, .port,
    .sec, .ring] s (State.sgProgramLoad s c l) := by
  have h := Only.refl [.pm, .kiln, .irq, .log, .port, .sec, .ring] s
  unfold State.sgProgramLoad
  try dsimp only
  repeat' first
    | with_reducible assumption | with_reducible apply Only.lift (State.loadSgSteps_only _ _)
    | with_reducible apply Only.lift (State.newImage_only _)
    | with_reducible apply Only.lift (State.imageShard_only _ _ _ _)
    | with_reducible apply Only.lift (State.ok_only _ _ _) | (with_reducible show Part.sub _ _ = true; decide)

theorem State.calibrate_only (s : State) (p : List Byte) : Only [.sense, .mg, .sec] s (State.calibrate s p) := by
  have h := Only.refl [.sense, .mg, .sec] s
  unfold State.calibrate
  try dsimp only
  repeat' first
    | with_reducible assumption | with_reducible apply Only.lift (State.startSettle_only _ _)
    | with_reducible apply Only.lift (State.newImage_only _) | with_reducible refine Only.foldl _ ?_ (fun u x hu => ?_)
    | split | with_reducible refine Only.mk_upd ?_ | (with_reducible show Part.sub _ _ = true; decide)

theorem State.setImage_only (s : State) (im : Option ImageLoad) : Only [.port] s (State.setImage s im) := by
  have h := Only.refl [.port] s
  unfold State.setImage
  repeat' first | with_reducible assumption | with_reducible refine Only.mk_upd ?_

theorem State.imageInForce_only (s : State) (c : Cmd) (x : ImageParts) :
    Only [.clk, .pm, .out, .ctl, .sense, .kiln, .walk, .fault, .irq, .mg, .log, .cfg, .port, .sec, .ring, .twin, .tw, .twEnded,
      .pwm, .free] s (s.imageInForce c x) := by
  unfold State.imageInForce
  have h : Only [.clk, .pm, .out, .ctl, .sense, .kiln, .walk, .fault, .irq, .mg, .log, .cfg, .port, .sec, .ring, .twin, .tw, .twEnded,
      .pwm, .free] s (s.imageContent x).newImage :=
    Only.lift (State.newImage_only _) (by decide) ((State.imageContent_only _ _).mono (by decide))
  generalize (s.imageContent x).newImage = t at h ⊢
  have h2 : Only [.clk, .pm, .out, .ctl, .sense, .kiln, .walk, .fault, .irq, .mg, .log, .cfg, .port, .sec, .ring, .twin, .tw, .twEnded,
      .pwm, .free] s (t.imageShard s c 0xFFFF) :=
    Only.lift (State.imageShard_only _ _ _ _) (by decide) h
  dsimp only
  generalize t.imageShard s c 0xFFFF = u at h2 ⊢
  split
  · exact Only.lift (State.writesFollow_only _ _) (by decide) (Only.lift (State.ok_only _ _ _) (by decide) h2)
  · exact Only.lift (State.ok_only _ _ _) (by decide) (Only.mk_upd h2)

theorem State.imageEnd_only (s : State) (c : Cmd) (bytes : List Byte) (confirm : Confirm) : Only [.clk, .pm, .out, .ctl,
    .sense, .kiln, .walk, .fault, .irq, .mg, .log, .cfg, .port, .sec, .ring, .twin, .tw, .twEnded, .pwm, .free] s
    (State.imageEnd s c bytes confirm) := by
  have h := Only.refl [.clk, .pm, .out, .ctl, .sense, .kiln, .walk, .fault, .irq, .mg, .log, .cfg, .port, .sec, .ring,
      .twin, .tw, .twEnded, .pwm, .free] s
  unfold State.imageEnd
  try dsimp only
  repeat' first
    | with_reducible assumption | with_reducible apply Only.lift (State.refuse_only _ _ _)
    | with_reducible apply State.confirmed_only (by decide)
    | with_reducible apply Only.lift (State.imageContent_only _ _)
    | with_reducible apply Only.lift (State.imageInForce_only _ _ _) | split | with_reducible refine Only.mk_upd ?_
    | (with_reducible show Part.sub _ _ = true; decide)

theorem State.setWrap_only (s : State) (p : Link) (w : Bool) : Only [.irq, .ring] s (State.setWrap s p w) := by
  have h := Only.refl [.irq, .ring] s
  unfold State.setWrap
  repeat' first
    | with_reducible assumption | with_reducible apply Only.lift (State.irqGl_only _ _)
    | with_reducible apply Only.lift (State.setLink_only _ _ _) | split | with_reducible refine Only.mk_upd ?_
    | (with_reducible show Part.sub _ _ = true; decide)

theorem State.linkState_only (s : State) : Only [.ring] s (State.linkState s) := by
  have h := Only.refl [.ring] s
  unfold State.linkState
  try dsimp only
  repeat' first | with_reducible assumption | split | with_reducible refine Only.mk_upd ?_

theorem State.endConflict_only (s : State) : Only [.ring] s (State.endConflict s) := by
  have h := Only.refl [.ring] s
  unfold State.endConflict
  try dsimp only
  repeat' first
    | with_reducible assumption | with_reducible apply Only.lift (State.linkState_only _) | split
    | with_reducible refine Only.mk_upd ?_ | (with_reducible show Part.sub _ _ = true; decide)

theorem State.takeReply_only (s : State) (src : Nat) (p : List Byte) : Only [.pm, .port, .ring] s (State.takeReply s src
    p) := by
  have h := Only.refl [.pm, .port, .ring] s
  unfold State.takeReply
  try dsimp only
  repeat' first
    | with_reducible assumption | with_reducible apply Only.lift (State.dropFwd_only _ _)
    | with_reducible apply Only.lift (State.post_only _ _) | split | with_reducible refine Only.mk_upd ?_
    | (with_reducible show Part.sub _ _ = true; decide)

theorem State.bcastBack_only (s : State) : Only [.pm, .port, .ring] s (State.bcastBack s) := by
  have h := Only.refl [.pm, .port, .ring] s
  unfold State.bcastBack
  try dsimp only
  repeat' first
    | with_reducible assumption | with_reducible apply Only.lift (State.dropFwd_only _ _)
    | with_reducible apply Only.lift (State.answer_only _ _ _ _) | split | with_reducible refine Only.mk_upd ?_
    | (with_reducible show Part.sub _ _ = true; decide)

theorem State.timeEvent_only (s : State) (f : Frame) : Only [.clk, .irq, .log] s (State.timeEvent s f) := by
  have h := Only.refl [.clk, .irq, .log] s
  unfold State.timeEvent
  repeat' first
    | with_reducible assumption | with_reducible apply Only.lift (State.refEvent_only _ _ _)
    | with_reducible apply Only.lift (State.ignoreEvent_only _) | split
    | (with_reducible show Part.sub _ _ = true; decide)

theorem State.reached_only (s : State) : Only [.ring, .twin] s (State.reached s) := by
  have h := Only.refl [.ring, .twin] s
  unfold State.reached
  try dsimp only
  repeat' first
    | with_reducible assumption | with_reducible apply Only.lift (State.becomeAdmitted_only _) | split
    | with_reducible refine Only.mk_upd ?_ | (with_reducible show Part.sub _ _ = true; decide)

theorem State.takeTime_only (s : State) (f : Frame) : Only [.clk, .irq, .log, .ring, .twin] s (State.takeTime s f) := by
  have h := Only.refl [.clk, .irq, .log, .ring, .twin] s
  unfold State.takeTime
  try dsimp only
  repeat' first
    | with_reducible assumption | with_reducible apply Only.lift (State.endConflict_only _)
    | with_reducible apply Only.lift (State.reached_only _) | with_reducible apply Only.lift (State.timeEvent_only _ _)
    | with_reducible apply Only.lift (State.sendJoin_only _) | split | with_reducible refine Only.mk_upd ?_
    | (with_reducible show Part.sub _ _ = true; decide)

theorem State.passTime_only (s : State) (a : Arrival) : Only [.clk, .pm, .out, .ctl, .kiln, .walk, .fault, .irq, .mg,
    .log, .port, .ring, .twin, .tw, .pwm, .free] s (State.passTime s a) := by
  have h := Only.refl [.clk, .pm, .out, .ctl, .kiln, .walk, .fault, .irq, .mg, .log, .port, .ring, .twin, .tw, .pwm,
      .free] s
  unfold State.passTime
  try dsimp only
  repeat' first
    | with_reducible assumption | with_reducible apply Only.lift (State.meet_only _ _)
    | with_reducible apply Only.lift (State.passFrame_only _ _ _) | split | with_reducible refine Only.mk_upd ?_
    | (with_reducible show Part.sub _ _ = true; decide)

theorem State.takeToken_only (s : State) (p : List Byte) : Only [.ring] s (State.takeToken s p) := by
  have h := Only.refl [.ring] s
  unfold State.takeToken
  try dsimp only
  repeat' first
    | with_reducible assumption | with_reducible apply Only.lift (State.sendFrame_only _ _ _)
    | with_reducible refine Only.mk_upd ?_ | (with_reducible show Part.sub _ _ = true; decide)

theorem State.tokenBack_only (s : State) (p : List Byte) : Only [.ring] s (State.tokenBack s p) := by
  have h := Only.refl [.ring] s
  unfold State.tokenBack
  repeat' first | with_reducible assumption | split | with_reducible refine Only.mk_upd ?_

theorem State.takeEnrol_only (s : State) (p : List Byte) : Only [.ring] s (State.takeEnrol s p) := by
  have h := Only.refl [.ring] s
  unfold State.takeEnrol
  try dsimp only
  repeat' first | with_reducible assumption | split | with_reducible refine Only.mk_upd ?_

theorem State.closeEnum_only (s : State) (e : Enum) (count : Nat) : Only [.irq, .ring, .twin] s (State.closeEnum s e
    count) := by
  have h := Only.refl [.irq, .ring, .twin] s
  unfold State.closeEnum
  try dsimp only
  repeat' first
    | with_reducible assumption | with_reducible apply Only.lift (State.becomeAdmitted_only _)
    | with_reducible apply Only.lift (State.irqGl_only _ _) | with_reducible apply Only.lift (State.sendFrame_only _ _ _)
    | with_reducible apply Only.lift (State.launchEnum_only _) | split | with_reducible refine Only.mk_upd ?_
    | (with_reducible show Part.sub _ _ = true; decide)

theorem State.takeClosure_only (s : State) (p : List Byte) : Only [.irq, .mg, .port, .ring, .twin, .tw, .free] s
    (State.takeClosure s p) := by
  have h := Only.refl [.irq, .mg, .port, .ring, .twin, .tw, .free] s
  unfold State.takeClosure
  try dsimp only
  repeat' first
    | with_reducible assumption | with_reducible apply Only.lift (State.takeFree_only _)
    | with_reducible apply Only.lift (State.standing_only _) | with_reducible apply Only.lift (State.irqGl_only _ _)
    | split | with_reducible refine Only.mk_upd ?_ | (with_reducible show Part.sub _ _ = true; decide)

theorem State.enterMaps_only (s : State) (a' : Nat) (admitted : Bool) (fenced : Bool) : Only [.ring] s (State.enterMaps s a'
    admitted fenced) := by
  have h := Only.refl [.ring] s
  unfold State.enterMaps
  repeat' first | with_reducible assumption | with_reducible refine Only.mk_upd ?_

theorem State.takeJoin_only (s : State) (p : List Byte) : Only [.irq, .ring] s (State.takeJoin s p) := by
  have h := Only.refl [.irq, .ring] s
  unfold State.takeJoin
  try dsimp only
  repeat' first
    | with_reducible assumption | with_reducible apply Only.lift (State.enterMaps_only _ _ _ _)
    | with_reducible apply Only.lift (State.irqGl_only _ _) | with_reducible apply Only.lift (State.sendFrame_only _ _ _)
    | split | with_reducible refine Only.mk_upd ?_ | (with_reducible show Part.sub _ _ = true; decide)

theorem State.takeAdmit_only (s : State) (p : List Byte) : Only [.irq, .mg, .port, .ring, .twin, .tw] s (State.takeAdmit s
    p) := by
  have h := Only.refl [.irq, .mg, .port, .ring, .twin, .tw] s
  unfold State.takeAdmit
  try dsimp only
  repeat' first
    | with_reducible assumption | with_reducible apply Only.lift (State.enterMaps_only _ _ _ _)
    | with_reducible apply Only.lift (State.standing_only _) | split | with_reducible refine Only.mk_upd ?_
    | (with_reducible show Part.sub _ _ = true; decide)

theorem State.onTwin_only {ps : List Part} {a s : State}
    (hp : Part.sub [.clk, .pm, .out, .ctl, .kiln, .walk, .fault, .irq, .mg, .log, .port, .ring, .twin, .tw, .pwm, .free] ps = true) (h : Only ps a s)
    (a' : Arrival) (msg : Nat) (f : State → State) (hf : ∀ u, Only ps a u → Only ps a (f u)) :
    Only ps a (s.onTwin a' msg f) := by
  unfold State.onTwin
  have ht : Only ps a (s.pass a') := Only.lift (State.pass_only _ _) (Part.sub_trans (by decide) hp) h
  generalize s.pass a' = t at ht ⊢
  dsimp only
  split
  · split
    · split
      · exact Only.lift (State.dropNote_only _ _) (Part.sub_trans (by decide) hp) ht
      · exact hf _ (Only.lift (State.noteFrame_only _ _) (Part.sub_trans (by decide) hp) ht)
    · exact ht
  · exact h

theorem State.tellReason_only (s : State) (dest : Nat) (msg : Nat) (reason : BitVec 4) : Only [.ring, .twin] s
    (State.tellReason s dest msg reason) := by
  have h := Only.refl [.ring, .twin] s
  unfold State.tellReason
  repeat' first
    | with_reducible assumption | with_reducible apply Only.lift (State.sendTwin_only _ _ _ _)
    | with_reducible refine Only.mk_upd ?_ | (with_reducible show Part.sub _ _ = true; decide)

theorem State.compareMasks_only (s : State) (peer : Nat) (mask : Rails) : Only [.irq, .twin] s (State.compareMasks s peer
    mask) := by
  have h := Only.refl [.irq, .twin] s
  unfold State.compareMasks
  try dsimp only
  repeat' first
    | with_reducible assumption | with_reducible apply Only.lift (State.irqGl_only _ _) | split
    | with_reducible refine Only.mk_upd ?_ | (with_reducible show Part.sub _ _ = true; decide)

theorem State.takeHeartbeat_only (s : State) (p : List Byte) : Only [.irq, .twin] s (State.takeHeartbeat s p) := by
  have h := Only.refl [.irq, .twin] s
  unfold State.takeHeartbeat
  try dsimp only
  repeat' first
    | with_reducible assumption | with_reducible apply Only.lift (State.compareMasks_only _ _ _)
    | with_reducible refine Only.mk_upd ?_ | (with_reducible show Part.sub _ _ = true; decide)

theorem State.aloneAgain_only (s : State) (wait : Nat) : Only [.twin] s (State.aloneAgain s wait) := by
  have h := Only.refl [.twin] s
  unfold State.aloneAgain
  try dsimp only
  repeat' first | with_reducible assumption | split | with_reducible refine Only.mk_upd ?_

theorem State.diverge_only (s : State) : Only [.twin] s (State.diverge s) := by
  have h := Only.refl [.twin] s
  unfold State.diverge
  try dsimp only
  repeat' first | with_reducible assumption | split | with_reducible refine Only.mk_upd ?_

theorem State.answerSeek_only (s : State) (src : Nat) (side : Bool) (uid : Uid) : Only [.ring, .twin, .free] s
    (State.answerSeek s src side uid) := by
  have h := Only.refl [.ring, .twin, .free] s
  unfold State.answerSeek
  try dsimp only
  repeat' first
    | with_reducible assumption | with_reducible apply Only.lift (State.tellReason_only _ _ _ _)
    | with_reducible apply Only.lift (State.diverge_only _) | with_reducible apply Only.lift (State.takeFree_only _)
    | with_reducible apply Only.lift (State.sendTwin_only _ _ _ _) | split | with_reducible refine Only.mk_upd ?_
    | (with_reducible show Part.sub _ _ = true; decide)

theorem State.takeSeek_only (s : State) (src : Nat) (p : List Byte) (alone : Bool) : Only [.clk, .pm, .out, .kiln, .irq,
    .mg, .log, .ring, .twin, .free] s (State.takeSeek s src p alone) := by
  have h := Only.refl [.clk, .pm, .out, .kiln, .irq, .mg, .log, .ring, .twin, .free] s
  unfold State.takeSeek
  try dsimp only
  repeat' first
    | with_reducible assumption | with_reducible apply Only.lift (State.tellReason_only _ _ _ _)
    | with_reducible apply Only.lift (State.foundOrBlock_only _)
    | with_reducible apply Only.lift (State.answerSeek_only _ _ _ _) | split | with_reducible refine Only.mk_upd ?_
    | (with_reducible show Part.sub _ _ = true; decide)

theorem State.takeChallenge_only (s : State) (src : Nat) (p : List Byte) : Only [.ring, .twin] s (State.takeChallenge s
    src p) := by
  have h := Only.refl [.ring, .twin] s
  unfold State.takeChallenge
  try dsimp only
  repeat' first
    | with_reducible assumption | with_reducible apply Only.lift (State.tellReason_only _ _ _ _)
    | with_reducible apply Only.lift (State.sendTwin_only _ _ _ _) | split | with_reducible refine Only.mk_upd ?_
    | (with_reducible show Part.sub _ _ = true; decide)

theorem State.takeProof_only (s : State) (src : Nat) (p : List Byte) : Only [.ring, .twin] s (State.takeProof s src p) :=
    by
  have h := Only.refl [.ring, .twin] s
  unfold State.takeProof
  try dsimp only
  repeat' first
    | with_reducible assumption | with_reducible apply Only.lift (State.tellReason_only _ _ _ _)
    | with_reducible apply Only.lift (State.diverge_only _) | with_reducible apply Only.lift (State.sendTwin_only _ _ _ _)
    | split | with_reducible refine Only.mk_upd ?_ | (with_reducible show Part.sub _ _ = true; decide)

theorem State.noteRefuse_only (s : State) (reason : Nat) : Only [.twin] s (State.noteRefuse s reason) := by
  have h := Only.refl [.twin] s
  unfold State.noteRefuse
  try dsimp only
  repeat' first | with_reducible assumption | split | with_reducible refine Only.mk_upd ?_

theorem State.takeRefuse_only (s : State) (src : Nat) (reason : Nat) : Only [.twin] s (State.takeRefuse s src reason) :=
    by
  have h := Only.refl [.twin] s
  unfold State.takeRefuse
  try dsimp only
  repeat' first
    | with_reducible assumption | with_reducible apply Only.lift (State.noteRefuse_only _ _) | split
    | with_reducible refine Only.mk_upd ?_ | (with_reducible show Part.sub _ _ = true; decide)

theorem State.takeSync_only (s : State) (src : Nat) (p : List Byte) : Only [.ring, .twin] s (State.takeSync s src p) := by
  have h := Only.refl [.ring, .twin] s
  unfold State.takeSync
  repeat' first
    | with_reducible assumption | with_reducible apply Only.lift (State.sendTwin_only _ _ _ _)
    | with_reducible apply Only.lift (State.tellReason_only _ _ _ _) | split | with_reducible refine Only.mk_upd ?_
    | (with_reducible show Part.sub _ _ = true; decide)

theorem State.pairUp_only (s : State) : Only [.irq, .twin] s (State.pairUp s) := by
  have h := Only.refl [.irq, .twin] s
  unfold State.pairUp
  try dsimp only
  repeat' first
    | with_reducible assumption | with_reducible apply Only.lift (State.irqGl_only _ _)
    | with_reducible refine Only.mk_upd ?_ | (with_reducible show Part.sub _ _ = true; decide)

theorem State.takeReady_only (s : State) (src : Nat) : Only [.clk, .pm, .ctl, .kiln, .irq, .mg, .log, .ring, .twin] s
    (State.takeReady s src) := by
  have h := Only.refl [.clk, .pm, .ctl, .kiln, .irq, .mg, .log, .ring, .twin] s
  unfold State.takeReady
  repeat' first
    | with_reducible assumption | with_reducible apply Only.lift (State.releaseHeld_only _)
    | with_reducible apply Only.lift (State.pairUp_only _) | with_reducible apply Only.lift (State.sendTwin_only _ _ _ _)
    | split | with_reducible refine Only.mk_upd ?_ | (with_reducible show Part.sub _ _ = true; decide)

theorem State.takeOver_only (s : State) (p : List Byte) : Only [.clk, .pm, .out, .ctl, .sense, .kiln, .walk, .fault, .irq,
    .mg, .log, .port, .ring, .twin, .tw, .pwm, .free] s (State.takeOver s p) := by
  have h := Only.refl [.clk, .pm, .out, .ctl, .sense, .kiln, .walk, .fault, .irq, .mg, .log, .port, .ring, .twin, .tw, .pwm,
      .free] s
  unfold State.takeOver
  try dsimp only
  repeat' first
    | with_reducible assumption | with_reducible refine Only.foldl _ ?_ (fun u x hu => ?_)
    | with_reducible apply Only.lift (State.updateTwok_only _) | with_reducible apply Only.lift (State.enHigh_only _ _)
    | with_reducible apply Only.lift (State.setLatch_only _) | with_reducible apply Only.lift (State.trimNominal_only _ _)
    | with_reducible apply Only.lift (State.enterRunning_only _) | split | with_reducible refine Only.mk_upd ?_
    | (with_reducible show Part.sub _ _ = true; decide)

theorem State.takeCommit_only (s : State) (src : Nat) : Only [.clk, .pm, .out, .ctl, .sense, .kiln, .walk, .fault, .irq,
    .mg, .log, .port, .ring, .twin, .tw, .pwm, .free] s (State.takeCommit s src) := by
  have h := Only.refl [.clk, .pm, .out, .ctl, .sense, .kiln, .walk, .fault, .irq, .mg, .log, .port, .ring, .twin, .tw, .pwm,
      .free] s
  unfold State.takeCommit
  repeat' first
    | with_reducible assumption | with_reducible apply Only.lift (State.releaseHeld_only _)
    | with_reducible apply Only.lift (State.pairUp_only _) | with_reducible apply Only.lift (State.takeOver_only _ _)
    | split | with_reducible refine Only.mk_upd ?_ | (with_reducible show Part.sub _ _ = true; decide)

theorem State.joinFails_only (s : State) : Only [.clk, .pm, .ctl, .kiln, .mg, .log, .ring, .twin] s (State.joinFails s) :=
    by
  have h := Only.refl [.clk, .pm, .ctl, .kiln, .mg, .log, .ring, .twin] s
  unfold State.joinFails
  repeat' first
    | with_reducible assumption | with_reducible apply Only.lift (State.releaseHeld_only _)
    | with_reducible refine Only.mk_upd ?_ | (with_reducible show Part.sub _ _ = true; decide)

theorem State.serveFails_only (s : State) (reason : Nat) : Only [.clk, .pm, .ctl, .kiln, .mg, .log, .ring, .twin] s
    (State.serveFails s reason) := by
  have h := Only.refl [.clk, .pm, .ctl, .kiln, .mg, .log, .ring, .twin] s
  unfold State.serveFails
  try dsimp only
  repeat' first
    | with_reducible assumption | with_reducible apply Only.lift (State.diverge_only _)
    | with_reducible apply Only.lift (State.releaseHeld_only _) | split | with_reducible refine Only.mk_upd ?_
    | (with_reducible show Part.sub _ _ = true; decide)

theorem State.takeAbort_only (s : State) (src : Nat) (reason : Nat) : Only [.clk, .pm, .ctl, .kiln, .mg, .log, .ring,
    .twin, .free] s (State.takeAbort s src reason) := by
  have h := Only.refl [.clk, .pm, .ctl, .kiln, .mg, .log, .ring, .twin, .free] s
  unfold State.takeAbort
  try dsimp only
  repeat' first
    | with_reducible assumption | with_reducible apply Only.lift (State.joinFails_only _)
    | with_reducible apply Only.lift (State.serveFails_only _ _)
    | with_reducible apply Only.lift (State.aloneAgain_only _ _) | split | with_reducible refine Only.mk_upd ?_
    | (with_reducible show Part.sub _ _ = true; decide)

theorem State.takeRequest_only (s : State) (p : List Byte) : Only [.clk, .pm, .out, .ctl, .kiln, .walk, .fault, .irq, .mg,
    .log, .port, .ring, .twin, .tw, .pwm, .free] s (State.takeRequest s p) := by
  have h := Only.refl [.clk, .pm, .out, .ctl, .kiln, .walk, .fault, .irq, .mg, .log, .port, .ring, .twin, .tw, .pwm, .free] s
  unfold State.takeRequest
  repeat' first
    | with_reducible assumption | with_reducible apply Only.lift (State.onRequest_only _ _)
    | with_reducible apply Only.lift (State.offRequest_only _ _ _) | split | with_reducible refine Only.mk_upd ?_
    | (with_reducible show Part.sub _ _ = true; decide)

theorem State.takeShutdown_only (s : State) (src : Nat) (p : List Byte) : Only [.clk, .pm, .out, .ctl, .kiln, .walk,
    .fault, .irq, .mg, .log, .port, .ring, .twin, .tw, .pwm, .free] s (State.takeShutdown s src p) := by
  have h := Only.refl [.clk, .pm, .out, .ctl, .kiln, .walk, .fault, .irq, .mg, .log, .port, .ring, .twin, .tw, .pwm,
      .free] s
  unfold State.takeShutdown
  try dsimp only
  repeat' first
    | with_reducible assumption | with_reducible apply Only.lift (State.matchStop_only _ _)
    | with_reducible apply Only.lift (State.noteStop_only _ _)
    | with_reducible apply Only.lift (State.receiveAs_only _ _ _) | split
    | (with_reducible show Part.sub _ _ = true; decide)

theorem idle_only (s : State) : Only [.clk] s (idle s) := by
  have h := Only.refl [.clk] s
  unfold idle
  repeat' first
    | with_reducible assumption | with_reducible apply Only.lift (State.wait_only _ _)
    | (with_reducible show Part.sub _ _ = true; decide)

end Sys2Proof.Machine
end

