-- ==== Sys2Proof/Machine/Pins.lean ====
section
/-! DEFINITION. Sys2Proof/Machine/Pins.lean: the logic pins of Table 15.3: which level is the asserted one, what the device does to an
output, and the pulls of the inputs (R354). -/

set_option Elab.async false

namespace Sys2Proof.Machine

/-- The logic outputs of Table 15.3. -/
inductive OutPin where
  | en (rail : Fin 64)
  | enpu (k : Fin 4)
  | flt (p : Fin 8)
  | hrst
  | hint
  | pfw
  | tripo (k : Fin 4)
  | twok
  | spirdy
  | pwm (c : Fin 16)
  | pwmso
  | spimiso
  | tdo
  deriving DecidableEq, Repr

/-- The logic inputs of Table 15.3. -/
inductive InPin where
  | mr
  | pb
  | onreq
  | tripi (k : Fin 4)
  | pwmsync (k : Fin 4)
  | ctrig (k : Fin 4)
  | pwmsi
  | tsync
  | root
  | twjoin
  | twside
  | spics
  | spisck
  | spimosi
  | tck
  | trst
  | tms
  | tdi
  deriving DecidableEq, Repr

/-- The level at which an input is asserted, true for high; none where Table 15.3 gives none. Of PWMSYNC, CTRIG, PWMSI and TSYNC it is
the rising edge that counts. -/
def InPin.activeLevel : InPin → Option Bool
  | .mr | .pb | .tripi _ | .spics | .trst => some false
  | .onreq | .pwmsync _ | .ctrig _ | .pwmsi | .tsync | .root | .twjoin | .twside => some true
  | .spisck | .spimosi | .tck | .tms | .tdi => none

/-- The direction of an input's internal pull, true for up: the level that an open input has. -/
def InPin.pull : InPin → Bool
  | .mr | .pb | .tripi _ | .spics | .tms | .tdi => true
  | .onreq | .pwmsync _ | .ctrig _ | .pwmsi | .tsync | .root | .twjoin | .twside | .spisck | .spimosi | .tck | .trst => false

/-- An input's pull is powered from the always-on domain. -/
def InPin.pullAlwaysOn : InPin → Bool
  | .mr | .pb | .onreq | .root | .twjoin | .twside => true
  | _ => false

/-- What a device does to a pin: it drives it low, drives it high (ENPU: supplies it), or leaves it to its pull and its line. -/
inductive Drive where
  | low
  | high
  | left
  deriving DecidableEq, Repr

/-- A push-pull pin at a level. -/
def Drive.level (b : Bool) : Drive := if b then .high else .low

/-- How a powered device drives an output that is asserted or released (Table 15.3): EN is asserted by not being pulled low; FLT, HRST
and HINT are open drain and active low; PFW and TRIPO are push-pull and active low; TWOK and SPIRDY push-pull and active high. The other
pins are push-pull with no asserted level: what is asserted is high. -/
def OutPin.drive (asserted : Bool) : OutPin → Drive
  | .en _ => if asserted then .left else .low
  | .enpu _ => if asserted then .high else .left
  | .flt _ | .hrst | .hint => if asserted then .low else .left
  | .pfw | .tripo _ => if asserted then .low else .high
  | .twok | .spirdy | .pwm _ | .pwmso | .spimiso | .tdo => Drive.level asserted

/-- What stands on the serial lines of the host port and of JTAG, on which no row of the table is a single bit: SPICS is low, the bit
that SPIMISO sends then, and the TAP is shifting. -/
structure SerialPins where
  selected : Bool := false
  miso : Bool := false
  shifting : Bool := false
  deriving DecidableEq, Repr

/-- The bit at TDO: the first of the shift register. -/
def Tap.tdo (t : Tap) : Bool := t.shift.headD false

/-- The device asserts an output; of a push-pull pin with no asserted level: it is high. -/
def State.asserts (s : State) (x : SerialPins := {}) : OutPin → Bool
  | .en n => bit s.out.en n.val
  | .enpu _ => s.out.enpu
  | .flt p => bit s.sense.fltLevel p.val
  | .hrst => s.out.hrst
  | .hint => s.hint
  | .pfw => s.out.pfw
  | .tripo _ => s.out.tripo
  | .twok => s.out.twok
  | .spirdy => s.spirdy
  | .pwm c => (s.pwPin c.val).getD false
  | .pwmso => s.pwmso
  | .spimiso => x.miso
  | .tdo => s.jtag.tdo

/-- A powered device drives a pin: the EN lines unless it is passive (R35, R266); a PWM pin unless it is at high impedance (R335, R339);
PWMSO and SPIMISO while the logic die is powered, SPIMISO only while SPICS is low (Table 08.2); TDO while the TAP shifts (log entry
12). -/
def State.drives (s : State) (x : SerialPins := {}) : OutPin → Bool
  | .en _ => !s.out.passive
  | .pwm c => (s.pwPin c.val).isSome
  | .pwmso => s.pm.logicPowered
  | .spimiso => s.pm.logicPowered && x.selected
  | .tdo => s.pm.logicPowered && x.shifting
  | _ => true

/-- What the device does to an output pin: nothing while it is unpowered (R354). -/
def State.pinDrive (s : State) (p : OutPin) (x : SerialPins := {}) : Drive :=
  if s.pm.state = .off || !s.drives x p then .left else p.drive (s.asserts x p)

end Sys2Proof.Machine
end

