-- ==== Sys2Proof/Machine/Jtag.lean ====
section
/-! DEFINITION. Sys2Proof/Machine/Jtag.lean: what JTAG offers (R360): the instructions BYPASS, IDCODE, SAMPLE/PRELOAD and EXTEST of the
test access port in State.jtag. The opcode table has no row for the TAP, and nothing that JTAG does changes the rest of the state (R44):
these are its operations, and what EXTEST does to the pins. The order of the boundary cells, which the spec does not give, is an
argument `chain` (log entry 12). -/

set_option Elab.async false

namespace Sys2Proof.Machine

/-- A cell of the boundary register: at an output pin, at a trim output, or at an input pin. -/
inductive Cell where
  | out (p : OutPin)
  | tm (n : Fin 64)
  | input (p : InPin)
  deriving DecidableEq, Repr

/-- The IDCODE by stepping (R360). -/
def Ident.idcode (d : Ident) : Word := if d.steppingA1 then 0x164004F3 else 0x064004F3

/-- The cells that are observe-only in every instruction (R360); a cell at an input pin observes by what it is. -/
def Cell.observeOnly : Cell → Bool
  | .out .hint | .out .spirdy | .out .pwmso | .out .spimiso => false
  | _ => true

/-- A boundary cell drives its pin: in EXTEST, and not where it is observe-only (R360). -/
def Cell.drives (c : Cell) (i : JtagInstr) : Bool := i == .extest && !c.observeOnly

/-- The level of a pin while JTAG holds an instruction: what its cell drives, if it drives, else what the device gives it. EXTEST
therefore drives no pin that can change a rail or the power stage (R360). -/
def Cell.level (c : Cell) (i : JtagInstr) (cell device : Bool) : Bool := if c.drives i then cell else device

/-- The TAP is reset by TRST, as by five clocks with TMS high: IDCODE is the instruction. It resets nothing of the device (R44). -/
def State.tapReset (s : State) : State := { s with jtag := { s.jtag with instr := .idcode } }

/-- An instruction is taken into force. -/
def State.tapInstr (s : State) (i : JtagInstr) : State := { s with jtag := { s.jtag with instr := i } }

/-- What a selected data register captures: 0 in the bypass bit, the 32 bits of IDCODE, or in the boundary register the levels that stand
at the pins (R360). -/
def State.jtagData (s : State) (chain : List Cell) (pins : Cell → Bool) : List Bool :=
  match s.jtag.instr with
  | .bypass => [false]
  | .idcode => (List.range 32).map (fun k => s.ident.idcode.getLsbD k)
  | .samplePreload | .extest => chain.map pins

/-- Capture into the register between TDI and TDO. -/
def State.tapCapture (s : State) (chain : List Cell) (pins : Cell → Bool) : State :=
  { s with jtag := { s.jtag with shift := s.jtagData chain pins } }

/-- A bit is shifted in at TDI, and the first one out at TDO. -/
def State.tapShift (s : State) (tdi : Bool) : State :=
  { s with jtag := { s.jtag with shift := s.jtag.shift.drop 1 ++ [tdi] } }

/-- Update: PRELOAD and EXTEST take what was shifted in to the update stage of the boundary register; the other instructions have
none. -/
def State.tapUpdate (s : State) : State :=
  match s.jtag.instr with
  | .samplePreload | .extest => { s with jtag := { s.jtag with boundary := s.jtag.shift } }
  | .bypass | .idcode => s

/-- What the update stage holds for a cell. -/
def Tap.held (t : Tap) (chain : List Cell) (c : Cell) : Bool := t.boundary.getD (chain.idxOf c) false

/-- What the device does to an output pin with JTAG at work: in EXTEST a pin whose cell drives takes the level of its cell, an open-drain
pin only a low one (R360). -/
def State.padDrive (s : State) (chain : List Cell) (p : OutPin) (x : SerialPins := {}) : Drive :=
  if (Cell.out p).drives s.jtag.instr && chain.contains (.out p) then
    (match p, s.jtag.held chain (.out p) with | .hint, true => .left | _, b => Drive.level b)
  else s.pinDrive p x

end Sys2Proof.Machine
end

