-- ==== Sys2Proof/Machine/Rank.lean ====
section
/-! DEFINITION. Sys2Proof/Machine/Rank.lean: the ranking of events that are recognised in the same core cycle (R26) and the MRAM
port's next user (R323), as conditions on the sender: step takes the front of the queue, so that the rows of one tick must stand in
it by rank (log entry 6). -/

set_option Elab.async false

namespace Sys2Proof.Machine

/-! ## Events of one tick (R26) -/

/-- The place of a transition in the ranking of R26, from 1, by the state it leads to and its cause (Table 01.6); 11 for one that the
ranking does not name. -/
def transitionRank (dst : DevState) (cause : Nat) : Nat :=
  if dst = .off then 1
  else if cause = 0x40 then 2
  else if cause = 0x43 then 3
  else if cause = 0x41 ∨ cause = 0x42 then 4
  else if cause = 0x30 then 5
  else if cause = 0x28 then 6
  else if cause = 0x31 then 7
  else if 0x20 ≤ cause ∧ cause ≤ 0x23 then 8
  else if 0x10 ≤ cause ∧ cause ≤ 0x13 then 9
  else if cause = 0x03 then 10
  else 11

/-- The rank of a row that is an event of R26 by its name, whether or not it changes the state. -/
def State.namedRank (s : State) (i : Instr) : Option Nat :=
  match i with
  | .vinBelow4v => some 1
  | .inputCollapse _ _ => some 2
  | .logicDieLost => some 3
  | .clockStopped c => if c = 2 then some 3 else none
  | .mrHoldReset | .resetAfterImageLoad => some 4
  | .pbLongPress => some 6
  | .onreqFall | .offCmd => some 8
  | .onreqRise | .onCmd => some 9
  | .pbShortPress _ => some (if s.pm.state = .firing ∨ s.pm.state = .running then 8 else 9)
  | .standbyCmd => some 10
  | _ => none

/-- The grades of the faults received between two states: of the fault shards captured, and of those held for the next Ready. -/
def newGrades (s t : State) : List Nat :=
  let shards := fun (u : State) => u.log.buffer.filter (fun x => x.kind == 2)
  ((shards t).drop (shards s).length).map (fun x => eventGrade x.event)
    ++ (t.pm.held.drop s.pm.held.length).map (fun h => h.what.grade.toNat)

/-- The rank of the event that a row brings in this state: by its name, by the grade of a fault it brings, or by the transition it
causes. -/
def State.rank (s : State) (i : Instr) : Nat :=
  match s.namedRank i, exec i s with
  | some r, _ => r
  | none, .next t =>
    let by_ := if t.pm.state = s.pm.state then 11 else transitionRank t.pm.state t.pm.lastCause.toNat
    let g := newGrades s t
    min by_ (if g.contains 3 then 5 else if g.contains 2 then 7 else 11)
  | none, _ => 11

/-- The rows of one tick stand in the order of R26, each ranked in the state that the tick begins with; each is then run in the
state that the ones before it have produced, which is how a lower-ranked event is handled. -/
def State.rankedTick (s : State) (rows : List Instr) : Bool :=
  (rows.map s.rank).zip ((rows.map s.rank).drop 1) |>.all (fun p => decide (p.1 ≤ p.2))

/-! ## The MRAM port (R323) -/

/-- Who uses the MRAM port: the flight recorder's writes, the archive copier, or the scrub. -/
inductive MramUser where
  | recorder | copier | scrub
  deriving DecidableEq, Repr

/-- The requests that wait for the MRAM port, by Table 12.7: a write of the flight recorder up to and including a waiting fault shard
at level 2, with the copier; any other one at level 5, and a scrub read that is due at level 6. A request is as old as its shard. -/
def State.mramAsks (s : State) : List (Ask MramUser) :=
  let fault := s.log.buffer.any (fun x => x.kind == 2)
  let write := s.log.buffer.head?.toList.map (fun x => (⟨if fault then 2 else 5, x.stamp, .recorder⟩ : Ask MramUser))
  let copy := (s.log.copies.find? (fun c => c.why != .shard)).toList.map (fun c =>
    (⟨2, ((s.frShard c.origin).map (fun y => y.shard.stamp)).getD 0, .copier⟩ : Ask MramUser))
  let scrub := if s.log.scrubFrom + s.scrubTicks ≤ s.clk.now then
      [(⟨6, s.clk.stamp - (s.clk.now - (s.log.scrubFrom + s.scrubTicks)), .scrub⟩ : Ask MramUser)] else []
  write ++ copy ++ scrub

/-- The user to whom the port is granted next; SHARD_COMMIT, ARCHIVE_COPY and SCRUB_READ are to be told in this order. -/
def State.mramNext (s : State) : Option MramUser :=
  (mramGrant (fun u => u == .copier) s.log.copierRun s.clk.stamp s.mramAsks).map Ask.user

end Sys2Proof.Machine
end

