-- ==== Sys2Proof/WellFormed.lean ====
section
/-! DEFINITION. Sys2Proof/WellFormed.lean: operands a command may carry. A command outside these bounds names nothing that the
hardware can meet; the meanings are total on it all the same (log entry 6). -/

set_option Elab.async false

namespace Sys2Proof

/-- An engine number: 0 to 3 for K0 to K3, 4 for SG. -/
def engineOk (k : BitVec 3) : Bool := decide (k.toNat ≤ 4)

/-- A payload of 0 to 8,192 bytes (R251). -/
def arrivalOk (f : Arrival) : Bool := decide (f.frame.payload.length ≤ 8192)

/-- How a transaction ends on the bus: every byte acknowledged, one not acknowledged, arbitration lost, or a repeated START where an
acknowledge was due (Table 11.2). -/
def resultOk (r : BitVec 4) : Bool := r == 1 || r == 2 || r == 3 || r == 9

/-- The bounds on a command's operands. -/
def Instr.wf : Instr → Bool
  | .pbShortPress held => decide (0 < held)
  | .holdUpFloor _ words => decide (words ≤ 64)
  | .ctrigEdge source => decide (1 ≤ source.toNat ∧ source.toNat ≤ 8)
  | .saggarConversionDemand input => decide (input.toNat < 112)
  | .nopStep k _ | .enableStep k _ | .disableStep k _ | .waitStep k _ | .waitforStep k _ | .checkStep k _ | .rampStep k _
  | .jumpStep k _ | .jumpifStep k _ | .signalStep k _ | .syncStep k _ | .marginStep k _ | .trimStep k _ | .snapStep k _
  | .pwmStep k _ | .haltStep k _ => engineOk k
  | .waitEnd k | .waitforTimeout k _ | .checkDeadline k | .syncSatisfied k | .syncTimeout k | .stepBudgetExpiry k
  | .timeBudgetExpiry k => engineOk k
  | .waitforSatisfied k _ | .checkQualified k _ => engineOk k
  | .spiUnknownTransfer code _ => decide (code ≠ 0xA1 ∧ code ≠ 0xA2 ∧ code ≠ 0xA3)
  | .registerWrite cls _ _ _ => decide (cls ≠ 0)
  | .crossingError crossing => decide (1 ≤ crossing.toNat ∧ crossing.toNat ≤ 4)
  | .clockStopped crossing => decide (1 ≤ crossing.toNat ∧ crossing.toNat ≤ 3)
  | .crossingResumes crossing => crossing == 1 || crossing == 3
  | .twTransactionEnd _ result _ _ => resultOk result
  | .pwmTrip source => decide (source.toNat ≤ 13)
  | .commandFrame f | .replyFrame f | .broadcastFrame f | .timeFrame f | .tokenFrame f | .enrolFrame f | .closureFrame f
  | .joinFrame f | .admitFrame f | .conflictFrame f | .heartbeatFrame f | .seekFrame f _ | .challengeFrame f | .proofFrame f
  | .twinRefuse f | .twinSync f | .twinReady f | .twinCommit f | .twinAbort f | .twinRequest f | .twinShutdown f
  | .unknownFrame f => arrivalOk f
  | _ => true

end Sys2Proof
end

