-- ==== Sys2Proof/Tests/Slice0.lean ====
section
/-! SUPPORT. Sys2Proof/Tests/Slice0.lean: small states, the witnesses that the hypotheses of each statement can be met, the refusals of
ill-formed commands, and tests on fixed values from the spec's tables. -/

set_option Elab.async false

namespace Sys2Proof.Machine
/-! ## Small states and operands -/

/-- A device in Ready with its configuration loaded, the core on the PLL, at ring address 5 with both links up. -/
def ready : State :=
  { State.reset with
    pm.state := .ready, pm.portUp := true, clk.corePll := true, clk.pllLocked := true, clk.refOk := true, clk.tbSet := true
    cfgLoaded := true, ring.address := 5, ring.admittedMap := 0x28, ring.linkA.up := true, ring.linkB.up := true }

/-- A device in Starting whose present stage has not ended. -/
def starting : State := { State.reset with pm.stage1Done := false }

/-- A stage that finds everything right. -/
def good : StageResult := ⟨false, false, false, true, true, true, true, true, 0, true, true, true, true, [], true, [], []⟩

/-- A command in the execution queue, with an empty payload. -/
def cmd : Cmd := {
  ring := false, tag := 1, signReply := false, op := 0, cls := 0, signers := 0, counter := 0, dest := 0, payload := [], blocks := []
  malformed := false, header := [], phase := .queued, partDue := none, spoiled := false, consumed := false, bcast := false, pcrc := 0
  size := 36 }

/-- A packet (Table 08.3). -/
def packet (op tag cls signers counter dest : Nat) (pay blocks : List Byte) : List Byte :=
  let pad := (4 - pay.length % 4) % 4
  let h := leBytes 2 0xA55A ++ leBytes 2 (32 + pay.length + pad + blocks.length) ++ leBytes 1 op ++ leBytes 1 tag ++ leBytes 1 cls
    ++ leBytes 1 signers ++ leBytes 8 counter ++ leBytes 2 dest ++ leBytes 2 pay.length ++ leBytes 4 0
    ++ leBytes 4 (if pay.length = 0 then 0 else crc32c pay)
  h ++ leBytes 4 (crc32c h) ++ pay ++ List.replicate pad 0 ++ blocks

/-- A signature block of slot 0, Ed25519 (Table 08.4). -/
def edBlock : List Byte := leBytes 1 0 ++ leBytes 1 1 ++ leBytes 2 64 ++ List.replicate 64 7

/-- A frame from address 3, and as it arrives whole on port A. -/
def sent : Frame := ⟨0, 0, 0, 3, 0, 0, 0, [], 0⟩
def heard : Arrival := sent.sealed .a true

/-- A command of one signer, whose block counts under the table in force. -/
def signed : Cmd := { cmd with signers := 1, table.roles := [7] }

/-- The verdict lines report every block as verified, of some digest. -/
def lines : Confirm := ⟨0, 0xFF⟩

/-- They report the digest that the sense die recomputes. -/
def State.agrees (s : State) (c : Cmd) : Confirm := ⟨s.digest c, 0xFF⟩

/-- A margin sequence of rail 0. -/
def seq : TwSeq := ⟨0, 1, none, none, 0, false⟩

/-- An enumeration just launched. -/
def enumer : Enum := ⟨0, none, 0, [], false⟩

/-- A snapshot shard. -/
def shard : Shard := ⟨0, 3, 0, 3, 0, [], [], [], [], [], false, false⟩

/-- The same state with a word of the configuration. -/
def State.withReg (s : State) (a : Nat) (w : Word) : State := { s with cfg := Tab.insert s.cfg a w }

/-- Engine k in firing, with a word at its program counter, and budgets that allow it to run. -/
def State.withEng (s : State) (k : Nat) (e : Engine) (w : Step64) : State :=
  ({ s with
      pm.state := .firing
      kiln.engines := s.kiln.engines.set k e
      kiln.store := if k = 4 ∨ w = 0 then s.kiln.store else [(e.pc, w)]
      kiln.sgStore := if k = 4 ∧ w ≠ 0 then [(e.pc, w)] else s.kiln.sgStore }).withReg (0x40104 + 0x20 * k) 0xFFFFFFFF

/-- A command at the head of the execution queue. -/
def State.toRun (s : State) (c : Cmd) : State := { s with port.execq := [(c.ring, c.tag)], port.cmds := [c] }

/-- The same state with a two-wire port, a PWM channel or a comparator replaced. -/
def State.withPort (s : State) (p : Nat) (x : TwPort) : State := { s with tw := s.tw.set p x }
def State.withCh (s : State) (c : Nat) (x : PwmCh) : State := { s with pwm.chs := s.pwm.chs.set c x }
def State.withCmp (s : State) (src : Nat) (x : Cmp) : State := { s with sense.cmps := Tab.insert s.sense.cmps src x }

theorem length_leBytes : ∀ k n, (leBytes k n).length = k
  | 0, _ => rfl
  | k + 1, n => by simp [leBytes, length_leBytes k]

theorem ofLe_leBytes : ∀ k n, n < 256 ^ k → ofLe (leBytes k n) = n
  | 0, n, h => by simp at h; simp [leBytes, ofLe, h]
  | k + 1, n, h => by
    have := ofLe_leBytes k (n / 256) (by rw [Nat.div_lt_iff_lt_mul (by decide)]; rwa [pow_succ] at h)
    simp only [leBytes, ofLe, this, BitVec.toNat_ofNat]; omega

/-- A digest in the body of a TWIN message is read back. -/
theorem leAt_leBytes (l : List Byte) (n : Nat) (h : l.length = 4) (hn : n < 2 ^ 256) : leAt ((l ++ leBytes 32 n).drop 4) 0 32 = n := by
  rw [← h, List.drop_left]
  simp only [leAt, List.drop_zero]
  rw [List.take_of_length_le (by rw [length_leBytes])]
  exact ofLe_leBytes 32 n (by norm_num; norm_num at hn; exact hn)

/-- For every number there is a digest that is another one. -/
theorem exists_other (x : Nat) : ∃ n, n < 2 ^ 256 ∧ n ≠ x := by
  by_cases h : x = 0
  · exact ⟨1, by norm_num, by omega⟩
  · exact ⟨0, by norm_num, by omega⟩

/-- A sealed frame is whole. -/
theorem sealed_ok (f : Frame) (p : Link) : (f.sealed p true).crcOk = true := by simp [Frame.sealed, Arrival.crcOk]

/-- A command of one signer is confirmed where the digests agree and the bank holds its counter. -/
theorem confirms_agrees (s : State) (c : Cmd) (h : c.op ≠ 0xC0) (hm : c.table.met c = true)
    (hv : (c.table.counts c).all (fun i => bit (0xFF : Byte) i) = true)
    (hc : c.counted.all (fun i => decide (c.counter ≤ (nth s.sec.slots i {}).counter)) = true) : s.confirms c (s.agrees c) = true := by
  simp only [State.confirms, State.agrees, if_neg h, hm, hc, beq_self_eq_true, Bool.true_and, Bool.and_true]; exact hv

/-- TAKE_OWNERSHIP is confirmed where the digests agree and its counter is above every held one. -/
theorem confirms_owner (s : State) (c : Cmd) (h : c.op = 0xC0) (hc : s.counterAbove c (List.range 8) = true) :
    s.confirms c (s.agrees c) = true := by
  simp only [State.confirms, State.agrees, if_pos h, hc, beq_self_eq_true, Bool.and_true, Bool.true_and]; decide

/-- A command without the quorum of its class is not confirmed. -/
theorem confirms_unmet (s : State) (c : Cmd) (k : Confirm) (h : c.op ≠ 0xC0) (hm : c.table.met c = false) : s.confirms c k = false := by
  simp only [State.confirms, if_neg h, hm, Bool.false_and, Bool.and_false]

/-! ## The hypotheses of the statements can be met -/

/-- The hypotheses of each clause of Obligations.SupplyAndCollapse can be met. -/
theorem witness_SupplyAndCollapse :
    (∃ (s : State), s.pm.state = .off)
    ∧ (∃ (s : State), s.pm.state ≠ .off)
    ∧ (∃ (s : State), s.pm.state.logs = true)
    ∧ (∃ (s : State), s.pm.state = .starting ∧ s.pm.stage ≠ 1)
    ∧ (∃ (s : State), s.pm.state = .starting ∧ s.pm.stage = 1)
    ∧ (∃ (s : State), s.pm.state = .standby)
    ∧ (∃ (s : State), s.pm.state = .coppice)
    ∧ (∃ (s : State), s.pm.committing = true)
    ∧ (∃ (done : Nat) (s : State), s.pm.committing = true ∧ done < s.log.buffer.length + (if s.log.archiving then 1 else 0))
    ∧ (∃ (s : State), s.pm.state ≠ .off ∧ s.pm.vinLow = true ∧ s.pm.committing = false)
    ∧ (∃ (s : State), s.pm.vinLow = true ∧ s.pm.committing = true) :=
  ⟨⟨{ ready with pm.state := .off }, by decide +kernel⟩,
   ⟨ready, by decide +kernel⟩,
   ⟨ready, by decide +kernel⟩,
   ⟨{ ready with pm.state := .starting }, by decide +kernel⟩,
   ⟨{ ready with pm.state := .starting, pm.stage := 1 }, by decide +kernel⟩,
   ⟨{ ready with pm.state := .standby }, by decide +kernel⟩,
   ⟨{ ready with pm.state := .coppice }, by decide +kernel⟩,
   ⟨{ ready with pm.committing := true }, by decide +kernel⟩,
   ⟨0, { ready with pm.committing := true, log.buffer := [shard] }, by decide +kernel⟩,
   ⟨{ ready with pm.vinLow := true, pm.committing := false }, by decide +kernel⟩,
   ⟨{ ready with pm.vinLow := true, pm.committing := true }, by decide +kernel⟩⟩

/-- The hypotheses of each clause of Obligations.StartUp can be met. -/
theorem witness_StartUp :
    (∃ (s : State), s.stageOpen = true ∧ s.stageDue.all (fun d => decide (s.clk.now ≤ d)) = true ∧ s.pm.stage = 1)
    ∧ (∃ (s : State), s.stageOpen = true ∧ s.stageDue.all (fun d => decide (s.clk.now ≤ d)) = true ∧ s.pm.stage = 2)
    ∧ (∃ (s : State), s.stageOpen = true ∧ s.stageDue.all (fun d => decide (s.clk.now ≤ d)) = true ∧ s.pm.stage = 3)
    ∧ (∃ (s : State), s.stageOpen = true ∧ s.stageDue.all (fun d => decide (s.clk.now ≤ d)) = true ∧ s.pm.stage = 4)
    ∧ (∃ (s : State), s.stageOpen = true ∧ s.stageDue.all (fun d => decide (s.clk.now ≤ d)) = true ∧ s.pm.stage = 5 ∧ s.onreqEn = false
        ∧ s.autoOn = false ∧ s.inp.tripi = 0 ∧ s.out.passive = false)
    ∧ (∃ (due : Nat) (s : State), s.stageOpen = true ∧ s.stageDue = some due ∧ s.pm.stage = 1)
    ∧ (∃ (due : Nat) (s : State), s.stageOpen = true ∧ s.stageDue = some due ∧ s.pm.stage = 2 ∧ s.pm.failCode = 0)
    ∧ (∃ (due : Nat) (s : State), s.stageOpen = true ∧ s.stageDue = some due ∧ s.pm.stage = 2 ∧ s.pm.failCode = 1)
    ∧ (∃ (due : Nat) (s : State), s.stageOpen = true ∧ s.stageDue = some due ∧ s.pm.stage = 3)
    ∧ (∃ (due : Nat) (s : State), s.stageOpen = true ∧ s.stageDue = some due ∧ s.pm.stage = 4)
    ∧ (∃ (due : Nat) (s : State), s.stageOpen = true ∧ s.stageDue = some due ∧ s.pm.stage = 5)
    ∧ (∃ (due : Nat) (s : State), s.stageOpen = true ∧ s.stageDue = some due ∧ due < s.clk.now)
    ∧ (∃ (s : State), s.stageOpen = false) :=
  ⟨⟨{ starting with pm.stage := 1 }, by decide +kernel⟩,
   ⟨{ starting with pm.stage := 2 }, by decide +kernel⟩,
   ⟨{ starting with pm.stage := 3 }, by decide +kernel⟩,
   ⟨{ starting with pm.stage := 4 }, by decide +kernel⟩,
   ⟨{ starting with pm.stage := 5, inp.tripi := 0, out.passive := false }, by decide +kernel⟩,
   ⟨2 * msTicks, { starting with pm.stage := 1 }, by decide +kernel⟩,
   ⟨stageLimit 2, { starting with pm.stage := 2, pm.failCode := 0 }, by decide +kernel⟩,
   ⟨stageLimit 2, { starting with pm.stage := 2, pm.failCode := 1 }, by decide +kernel⟩,
   ⟨stageLimit 3, { starting with pm.stage := 3 }, by decide +kernel⟩,
   ⟨stageLimit 4, { starting with pm.stage := 4 }, by decide +kernel⟩,
   ⟨stageLimit 5, { starting with pm.stage := 5 }, by decide +kernel⟩,
   ⟨2 * msTicks, { starting with pm.stage := 1, clk.now := 2 * msTicks + 1 }, by decide +kernel⟩,
   ⟨ready, by decide +kernel⟩⟩

/-- The hypotheses of each clause of Obligations.WakeAndSupply can be met. -/
theorem witness_WakeAndSupply :
    (∃ (due : Nat) (s : State), s.pm.state = .standby ∧ s.pm.wakeDue = some due)
    ∧ (∃ (s : State), s.pm.state ≠ .standby ∨ s.pm.wakeDue = none)
    ∧ (∃ (s : State), s.hearsPins = true ∧ s.pm.state = .standby ∧ s.ctl.pbMode = .pressed ∧ s.wakesBy 1 = true)
    ∧ (∃ (s : State), s.hearsPins = false ∨ s.pm.state ≠ .standby ∨ s.ctl.pbMode ≠ .pressed ∨ s.wakesBy 1 = false)
    ∧ (∃ (s : State), s.pm.state = .starting ∧ s.pm.stage = 8 ∧ s.pm.vinGood = true ∧ s.log.stray.all (fun e => e.1 != 0) = true)
    ∧ (∃ (copyOk : Bool) (s : State), s.pm.state = .starting ∧ s.pm.stage = 8 ∧ s.pm.vinGood = true ∧ (copyOk = false ∨ s.log.stray.all
        (fun e => e.1 != 0) = false))
    ∧ (∃ (s : State), s.pm.state ≠ .starting ∨ s.pm.stage ≠ 8 ∨ s.pm.vinGood = false)
    ∧ (∃ (s : State), s.pm.state.logs = true)
    ∧ (∃ (pass : Bool) (s : State), pass = false ∨ s.pm.state.logs = false)
    ∧ (∃ (s : State), s.pm.state.logs = true ∨ s.pm.state = .starting ∧ s.pm.stage = 5)
    ∧ (∃ (s : State), s.pm.state.logs = false ∧ ¬ (s.pm.state = .starting ∧ s.pm.stage = 5) ∧ s.pm.state ≠ .off) :=
  ⟨⟨5, { ready with pm.state := .standby, pm.wakeDue := some 5 }, by decide +kernel⟩,
   ⟨ready, by decide +kernel⟩,
   ⟨({ ready with pm.state := .standby, ctl.pbMode := .pressed }).withReg 0x10018 0x2, by decide +kernel⟩,
   ⟨ready, by decide +kernel⟩,
   ⟨{ ready with pm.state := .starting, pm.stage := 8, pm.vinGood := true }, by decide +kernel⟩,
   ⟨true, { ready with pm.state := .starting, pm.stage := 8, pm.vinGood := true, log.stray := [(0, 9)] }, by decide +kernel⟩,
   ⟨ready, by decide +kernel⟩,
   ⟨ready, by decide +kernel⟩,
   ⟨false, ready, by decide +kernel⟩,
   ⟨ready, by decide +kernel⟩,
   ⟨starting, by decide +kernel⟩⟩

/-- The hypotheses of each clause of Obligations.CoppiceAndMr can be met. -/
theorem witness_CoppiceAndMr :
    (∃ (s : State), s.pm.logicPowered = true ∧ s.pm.state ≠ .off ∧ s.pm.state ≠ .coppice ∧ s.pm.state ≠ .standby)
    ∧ (∃ (s : State), s.hearsPins = true ∧ (s.pm.state = .standby → s.wakesBy 2 = false))
    ∧ (∃ (s : State), s.hearsPins = true ∧ s.pm.state = .standby ∧ s.wakesBy 2 = true)
    ∧ (∃ (s : State), s.hearsPins = false)
    ∧ (∃ (s : State), s.hearsPins = true ∧ s.inp.mr = true)
    ∧ (∃ (due : Nat) (s : State), s.ctl.hrstDue = some due)
    ∧ (∃ (since : Nat) (s : State), s.ctl.mrSince = some since ∧ (s.pm.state = .starting ∨ s.pm.state = .ready ∨ s.pm.state = .standby))
    ∧ (∃ (since : Nat) (s : State), s.ctl.mrSince = some since ∧ s.pm.state = .coppice ∧ s.walk.active = false)
    ∧ (∃ (since : Nat) (s : State), s.ctl.mrSince = some since ∧ (s.pm.state = .firing ∨ s.pm.state = .running ∨ s.pm.state = .cooling ∨
        s.pm.state = .coppice ∧ s.walk.active = true)) :=
  ⟨⟨{ ready with pm.logicPowered := true }, by decide +kernel⟩,
   ⟨ready, by decide +kernel⟩,
   ⟨({ ready with pm.state := .standby }).withReg 0x10018 0x4, by decide +kernel⟩,
   ⟨{ ready with pm.state := .off }, by decide +kernel⟩,
   ⟨{ ready with inp.mr := true }, by decide +kernel⟩,
   ⟨5, { ready with ctl.hrstDue := some 5 }, by decide +kernel⟩,
   ⟨5, { ready with ctl.mrSince := some 5, pm.state := .starting }, by decide +kernel⟩,
   ⟨5, { ready with ctl.mrSince := some 5, pm.state := .coppice, walk.active := false }, by decide +kernel⟩,
   ⟨5, { ready with ctl.mrSince := some 5, pm.state := .firing }, by decide +kernel⟩⟩

/-- The hypotheses of each clause of Obligations.OnreqRequests can be met. -/
theorem witness_OnreqRequests :
    (∃ (s : State), s.hearsPins = true ∧ s.inp.onreq = false ∧ s.onreqEn = true ∧ s.onJoins = none ∧ s.mayFire = true ∧
        s.twin.hand.holds = false)
    ∧ (∃ (s : State), s.hearsPins = true ∧ s.inp.onreq = false ∧ s.onreqEn = true ∧ s.onJoins = none ∧ (s.pm.state = .ready ∨ s.pm.state
        = .cooling) ∧ s.pm.faultLatch = true)
    ∧ (∃ (s : State), s.hearsPins = true ∧ s.inp.onreq = false ∧ s.onreqEn = true ∧ s.onJoins = none ∧ (s.pm.state = .ready ∨ s.pm.state
        = .cooling) ∧ s.pm.faultLatch = false ∧ s.mayFire = false ∧ s.twin.hand.holds = false)
    ∧ (∃ (s : State), s.hearsPins = true ∧ s.inp.onreq = false ∧ s.onreqEn = true ∧ s.onJoins = none ∧ (s.pm.state = .ready ∨ s.pm.state
        = .cooling) ∧ s.pm.faultLatch = false ∧ s.twin.hand.holds = true)
    ∧ (∃ (c : Byte) (s : State), s.hearsPins = true ∧ s.inp.onreq = false ∧ s.onreqEn = true ∧ s.pm.state.logs = true ∧ s.onJoins = some
        c)
    ∧ (∃ (s : State), s.hearsPins = true ∧ s.inp.onreq = false ∧ s.pm.state = .standby ∧ s.wakesBy 0 = true)
    ∧ (∃ (s : State), s.hearsPins = true ∧ s.inp.onreq = true ∧ s.onreqEn = true ∧ (s.pm.state = .firing ∨ s.pm.state = .running))
    ∧ (∃ (s : State), s.hearsPins = true ∧ s.inp.onreq = true ∧ s.onreqEn = true ∧ (s.pm.state = .ready ∨ s.pm.state = .cooling) ∧
        s.twin.hand = .none)
    ∧ (∃ (s : State), s.hearsPins = true ∧ s.pm.state ≠ .standby ∧ s.onreqEn = false)
    ∧ (∃ (s : State), s.hearsPins = false) :=
  ⟨⟨({ ready with inp.onreq := false }).withReg 0x60000 0x2, by decide +kernel⟩,
   ⟨({ ready with inp.onreq := false, pm.state := .ready, pm.faultLatch := true }).withReg 0x60000 0x2, by decide +kernel⟩,
   ⟨({ ready with inp.onreq := false, pm.state := .cooling } : State).withReg 0x60000 2, by decide +kernel⟩,
   ⟨({ ready with inp.onreq := false, twin.hand := .sSync 9 } : State).withReg 0x60000 2, by decide +kernel⟩,
   ⟨0x11, ({ ready with inp.onreq := false, ctl.lastOn := some (0, 0x11) } : State).withReg 0x60000 2, by decide +kernel⟩,
   ⟨({ ready with inp.onreq := false, pm.state := .standby }).withReg 0x10018 0x1, by decide +kernel⟩,
   ⟨({ ready with inp.onreq := true, pm.state := .firing }).withReg 0x60000 0x2, by decide +kernel⟩,
   ⟨({ ready with inp.onreq := true, pm.state := .ready, twin.hand := .none }).withReg 0x60000 0x2, by decide +kernel⟩,
   ⟨ready, by decide +kernel⟩,
   ⟨{ ready with pm.state := .off }, by decide +kernel⟩⟩

/-- The hypotheses of each clause of Obligations.PbPresses can be met. -/
theorem witness_PbPresses :
    (∃ (s : State), s.hearsPins = true ∧ s.ctl.pbMode = .idle)
    ∧ (∃ (s : State), s.hearsPins = true ∧ s.ctl.pbMode = .lockout)
    ∧ (∃ (held : Nat) (s : State), s.hearsPins = true ∧ s.ctl.pbMode = .pressed ∧ 0 < held ∧ held < 1639 ∧ held < s.longPeriods)
    ∧ (∃ (held : Nat) (s : State), s.hearsPins = true ∧ s.ctl.pbMode = .pressed ∧ 131072 ≤ held ∧ held < s.longPeriods)
    ∧ (∃ (held : Nat) (s : State), s.hearsPins = true ∧ s.ctl.pbMode = .pressed ∧ 1639 ≤ held ∧ held < 131072 ∧ s.pbShortEn = false)
    ∧ (∃ (held : Nat) (s : State), s.hearsPins = true ∧ s.ctl.pbMode = .pressed ∧ 1639 ≤ held ∧ held < 131072 ∧ s.pbShortEn = true ∧
        s.mayFire = true ∧ s.twin.hand.holds = false ∧ (s.till (s.ctl.pbAt + aonTicks (held + 655))).onJoins = none)
    ∧ (∃ (held : Nat) (s : State), s.hearsPins = true ∧ s.ctl.pbMode = .pressed ∧ 1639 ≤ held ∧ held < 131072 ∧ s.pbShortEn = true ∧
        (s.pm.state = .ready ∨ s.pm.state = .cooling) ∧ s.pm.faultLatch = true ∧ (s.till (s.ctl.pbAt + aonTicks (held +
        655))).onJoins = none)
    ∧ (∃ (held : Nat) (s : State), s.hearsPins = true ∧ s.ctl.pbMode = .pressed ∧ 1639 ≤ held ∧ held < 131072 ∧ s.pbShortEn = true ∧
        (s.pm.state = .ready ∨ s.pm.state = .cooling) ∧ s.pm.faultLatch = false ∧ s.twin.hand.holds = true ∧ (s.till (s.ctl.pbAt +
        aonTicks (held + 655))).onJoins = none)
    ∧ (∃ (held : Nat) (s : State), s.hearsPins = true ∧ s.ctl.pbMode = .pressed ∧ 1639 ≤ held ∧ held < 131072 ∧ s.pbShortEn = true ∧
        (s.pm.state = .ready ∨ s.pm.state = .cooling) ∧ s.pm.faultLatch = false ∧ s.mayFire = false ∧ s.twin.hand.holds = false ∧
        (s.till (s.ctl.pbAt + aonTicks (held + 655))).onJoins = none)
    ∧ (∃ (held : Nat) (s : State), s.hearsPins = true ∧ s.ctl.pbMode = .pressed ∧ 1639 ≤ held ∧ held < 131072 ∧ s.pbShortEn = true ∧
        (s.pm.state = .firing ∨ s.pm.state = .running) ∧ (s.till (s.ctl.pbAt + aonTicks (held + 655))).onJoins = none)
    ∧ (∃ (s : State), s.hearsPins = true ∧ s.ctl.pbMode = .pressed ∧ (s.pm.state = .ready ∨ s.pm.state = .firing ∨ s.pm.state =
        .running))
    ∧ (∃ (s : State), s.hearsPins = true ∧ s.ctl.pbMode = .pressed ∧ s.pm.state = .cooling ∧ s.isHTable s.walk.table = false ∧
        s.walk.table ≠ 7)
    ∧ (∃ (s : State), s.hearsPins = true ∧ s.ctl.pbMode = .pressed ∧ s.pm.state = .cooling ∧ s.isHTable s.walk.table = false ∧
        s.walk.table = 7)
    ∧ (∃ (s : State), s.hearsPins = true ∧ s.ctl.pbMode = .pressed ∧ s.pm.state = .cooling ∧ s.isHTable s.walk.table = true)
    ∧ (∃ (s : State), s.hearsPins = true ∧ s.ctl.pbMode = .pressed ∧ (s.pm.state = .standby ∨ s.pm.state = .starting))
    ∧ (∃ (s : State), s.hearsPins = true ∧ s.ctl.pbMode = .pressed ∧ s.pm.state = .coppice)
    ∧ (∃ (s : State), s.hearsPins = true ∧ s.ctl.pbMode = .lockout ∧ s.inp.pb = false)
    ∧ (∃ (s : State), s.ctl.pbMode ≠ .lockout ∨ s.inp.pb = true)
    ∧ (∃ (s : State), s.hearsPins = false) :=
  ⟨⟨{ ready with ctl.pbMode := .idle }, by decide +kernel⟩,
   ⟨{ ready with ctl.pbMode := .lockout }, by decide +kernel⟩,
   ⟨1638, { ready with ctl.pbMode := .pressed }, by decide +kernel⟩,
   ⟨262143, { ready with ctl.pbMode := .pressed }, by decide +kernel⟩,
   ⟨1639, ({ ready with ctl.pbMode := .pressed }).withReg 0x60000 0x0, by decide +kernel⟩,
   ⟨131071, ({ ready with ctl.pbMode := .pressed }).withReg 0x60000 0x1, by decide +kernel⟩,
   ⟨1639, (({ ready with ctl.pbMode := .pressed, pm.faultLatch := true } : State).withReg 0x60000 0x1), by decide +kernel⟩,
   ⟨1639, (({ ready with ctl.pbMode := .pressed, pm.state := .cooling, twin.hand := .sSync 5 } : State).withReg 0x60000 0x1), by decide +kernel⟩,
   ⟨131071, (({ ready with ctl.pbMode := .pressed, pm.offMinDue := some 5 } : State).withReg 0x60000 0x1), by decide +kernel⟩,
   ⟨1639, ({ ready with ctl.pbMode := .pressed, pm.state := .firing }).withReg 0x60000 0x1, by decide +kernel⟩,
   ⟨{ ready with ctl.pbMode := .pressed, pm.state := .ready }, by decide +kernel⟩,
   ⟨{ ready with ctl.pbMode := .pressed, pm.state := .cooling, walk.table := 5 }, by decide +kernel⟩,
   ⟨{ ready with ctl.pbMode := .pressed, pm.state := .cooling, walk.table := 7 }, by decide +kernel⟩,
   ⟨{ ready with ctl.pbMode := .pressed, pm.state := .cooling, walk.table := 6 }, by decide +kernel⟩,
   ⟨{ ready with ctl.pbMode := .pressed, pm.state := .standby }, by decide +kernel⟩,
   ⟨{ ready with ctl.pbMode := .pressed, pm.state := .coppice }, by decide +kernel⟩,
   ⟨{ ready with ctl.pbMode := .lockout }, by decide +kernel⟩,
   ⟨{ ready with ctl.pbMode := .lockout, inp.pb := true }, by decide +kernel⟩,
   ⟨{ ready with pm.state := .off }, by decide +kernel⟩⟩

/-- The hypotheses of each clause of Obligations.HeldRequestsAndPins can be met. -/
theorem witness_HeldRequestsAndPins :
    (∃ (due : Nat) (s : State), s.pm.offMinDue = some due ∧ s.pm.onPending = none)
    ∧ (∃ (due : Nat) (c : Byte) (s : State), s.pm.offMinDue = some due ∧ s.pm.onPending = some c ∧ s.pm.state = .ready ∧ s.pm.faultLatch
        = false ∧ s.pm.resetDue = none ∧ s.out.passive = false ∧ s.twin.hand.holds = false)
    ∧ (∃ (due : Nat) (s : State), s.sec.windowDue = some due)
    ∧ (∃ (s : State), s.inp.pb = true ∧ s.ctl.pbMode = .lockout)
    ∧ (∃ (s : State), s.pm.state ≠ .off)
    ∧ (∃ (levels : BitVec 4) (s : State), s.pm.state.logs = true ∧ levels &&& ~~~s.inp.tripi = 0)
    ∧ (∃ (levels : BitVec 4) (s : State), (s.pm.state = .ready ∨ s.pm.state = .firing ∨ s.pm.state = .running) ∧ levels &&&
        ~~~s.inp.tripi ≠ 0 ∧ 2 ≤ fld (s.causeCfg 1) 5 4)
    ∧ (∃ (i : BitVec 2) (s : State), s.pm.state = .starting ∧ s.pm.logicPowered = true ∧ bit s.inp.tripi i.toNat = false ∧ 2 ≤ fld
        (s.causeCfg 1) 5 4)
    ∧ (∃ (i : BitVec 2) (s : State), s.pm.state = .cooling ∧ bit s.inp.tripi i.toNat = false ∧ fld (s.causeCfg 1) 5 4 = 2)
    ∧ (∃ (i : BitVec 2) (s : State), s.pm.state = .cooling ∧ bit s.inp.tripi i.toNat = false ∧ fld (s.causeCfg 1) 5 4 = 3 ∧ s.isHTable
        s.walk.table = false)
    ∧ (∃ (s : State), s.pm.state ≠ .off)
    ∧ (∃ (sensors : BitVec 4) (s : State), (s.pm.state = .ready ∨ s.pm.state = .firing ∨ s.pm.state = .running) ∧ sensors &&&
        ~~~s.inp.overTemp ≠ 0 ∧ 2 ≤ fld (s.causeCfg 2) 5 4) :=
  ⟨⟨5, { ready with pm.offMinDue := some 5, pm.onPending := none }, by decide +kernel⟩,
   ⟨5, 1, { ready with pm.offMinDue := some 5, pm.onPending := some 1, pm.state := .ready, pm.faultLatch := false, pm.resetDue := none, out.passive := false }, by decide +kernel⟩,
   ⟨5, { ready with sec.windowDue := some 5 }, by decide +kernel⟩,
   ⟨{ ready with inp.pb := true, ctl.pbMode := .lockout }, by decide +kernel⟩,
   ⟨ready, by decide +kernel⟩,
   ⟨0, ready, by decide +kernel⟩,
   ⟨1, ({ ready with pm.state := .ready }).withReg 0x60084 0x20, by decide +kernel⟩,
   ⟨3, ({ ready with pm.state := .starting, pm.logicPowered := true } : State).withReg 0x60084 0x20, by decide +kernel⟩,
   ⟨0, ({ ready with pm.state := .cooling } : State).withReg 0x60084 0x20, by decide +kernel⟩,
   ⟨3, ({ ready with pm.state := .cooling, walk.table := 1 } : State).withReg 0x60084 0x30, by decide +kernel⟩,
   ⟨ready, by decide +kernel⟩,
   ⟨8, ({ ready with pm.state := .ready } : State).withReg 0x60088 0x20, by decide +kernel⟩⟩

/-- The hypotheses of each clause of Obligations.CoolingAndQueue can be met. -/
theorem witness_CoolingAndQueue :
    (∃ (due : Nat) (s : State), s.pm.state = .cooling ∧ s.walk.graceDue = some due)
    ∧ (∃ (due : Nat) (s : State), s.walk.tripDue = some due)
    ∧ (∃ (due : Nat) (x : Step64) (s : State), s.pm.state = .cooling ∧ s.walk.waiting = false ∧ s.walk.due = some due ∧
        s.walk.entries[s.walk.entry]? = some x ∧ entWait x = true)
    ∧ (∃ (due : Nat) (x : Step64) (s : State), s.pm.state = .cooling ∧ s.walk.waiting = false ∧ s.walk.due = some due ∧
        s.walk.entries[s.walk.entry]? = some x ∧ entWait x = false)
    ∧ (∃ (due : Nat) (x : Step64) (s : State), s.pm.state = .cooling ∧ s.walk.waiting = true ∧ s.walk.due = some due ∧
        s.walk.entries[s.walk.entry]? = some x ∧ s.waitMet x due = true ∧ s.clk.now ≤ s.walk.waitEnd)
    ∧ (∃ (x : Step64) (s : State), s.pm.state = .cooling ∧ s.walk.waiting = true ∧ s.walk.entries[s.walk.entry]? = some x)
    ∧ (∃ (x : Step64) (s : State), s.unitsOk = true ∧ s.walk.active = true ∧ s.walk.waiting = true ∧ s.walk.entries[s.walk.entry]? =
        some x)
    ∧ (∃ (due : Nat) (s : State), s.pm.state = .cooling ∧ s.walk.sweepDue = some due)
    ∧ (∃ (due : Nat) (s : State), s.pm.state = .cooling ∧ s.walk.sweepDue = some due ∧ s.walk.due = none ∧ s.out.en = 0 ∧ s.pm.onPending
        = none ∧ s.pm.resetDue = none)
    ∧ (∃ (due : Nat) (s : State), s.pm.state = .coppice ∧ s.walk.reduced = true ∧ s.walk.active = true ∧ s.walk.sweepDue = some due)
    ∧ (∃ (due : Nat) (x : Step64) (s : State), s.pm.state = .coppice ∧ s.walk.reduced = true ∧ s.walk.active = true ∧ s.walk.sweepDue =
        none ∧ s.walk.due = some due ∧ s.walk.entries[s.walk.entry]? = some x ∧ s.walk.waiting = false)
    ∧ (∃ (due : Nat) (x : Step64) (s : State), s.pm.state = .coppice ∧ s.walk.reduced = true ∧ s.walk.active = true ∧ s.walk.sweepDue =
        none ∧ s.walk.due = some due ∧ s.walk.entries[s.walk.entry]? = some x ∧ s.walk.waiting = true)
    ∧ (∃ (src : BitVec 8) (w : Nat × Nat × Nat) (s : State), s.fault.persist.find? (fun p => p.1 == src.toNat) = some w ∧ (s.pm.state =
        .ready ∨ s.pm.state = .firing ∨ s.pm.state = .running))
    ∧ (∃ (s : State), s.pm.state.logs = true) :=
  ⟨⟨5, { ready with pm.state := .cooling, walk.graceDue := some 5 }, by decide +kernel⟩,
   ⟨5, { ready with walk.tripDue := some 5 }, by decide +kernel⟩,
   ⟨5, 0x8000000000, { ready with pm.state := .cooling, walk.waiting := false, walk.due := some 5, walk.entries := [0x8000000000] }, by decide +kernel⟩,
   ⟨5, 0, { ready with pm.state := .cooling, walk.waiting := false, walk.due := some 5, walk.entries := [0] }, by decide +kernel⟩,
   ⟨5, 0x10000, { ready with pm.state := .cooling, walk.waiting := true, walk.due := some 5, walk.entries := [0x10000], walk.waitEnd := 5, sense.readings := [(0, { valid := true, time := 5 })] }, by decide +kernel⟩,
   ⟨0, { ready with pm.state := .cooling, walk.waiting := true, walk.entries := [0] }, by decide +kernel⟩,
   ⟨0, { ready with walk.active := true, walk.waiting := true, walk.entries := [0] }, by decide +kernel⟩,
   ⟨5, { ready with pm.state := .cooling, walk.sweepDue := some 5 }, by decide +kernel⟩,
   ⟨5, { ready with pm.state := .cooling, walk.sweepDue := some 5, walk.due := none, out.en := 0, pm.onPending := none, pm.resetDue := none }, by decide +kernel⟩,
   ⟨5, { ready with pm.state := .coppice, walk.reduced := true, walk.active := true, walk.sweepDue := some 5 }, by decide +kernel⟩,
   ⟨5, 0, { ready with pm.state := .coppice, walk.reduced := true, walk.active := true, walk.sweepDue := none, walk.due := some 5, walk.entries := [0], walk.waiting := false }, by decide +kernel⟩,
   ⟨5, 0, { ready with pm.state := .coppice, walk.reduced := true, walk.active := true, walk.sweepDue := none, walk.due := some 5, walk.entries := [0], walk.waiting := true }, by decide +kernel⟩,
   ⟨1, (1, 0, 0), { ready with pm.state := .ready, fault.persist := [(1, 0, 0)] }, by decide +kernel⟩,
   ⟨ready, by decide +kernel⟩⟩

/-- The hypotheses of each clause of Obligations.ComparatorFaults can be met. -/
theorem witness_ComparatorFaults :
    (∃ (src : BitVec 8) (s : State), s.tablesOk = true ∧ s.evaluated src.toNat = true ∧ s.sense.test.src ≠ some src.toNat ∧ (s.cmp
        src.toNat).status ≠ .failed)
    ∧ (∃ (src : BitVec 8) (s : State), s.tablesOk = true ∧ s.evaluated src.toNat = true ∧ s.sense.test.src ≠ some src.toNat ∧ (s.cmp
        src.toNat).status = .failed)
    ∧ (∃ (src : BitVec 8) (s : State), s.tablesOk = true ∧ s.evaluated src.toNat = true ∧ s.sense.test.src = none ∧ (s.pm.state = .ready
        ∨ s.pm.state = .firing ∨ s.pm.state = .running) ∧ bit s.clk.stopped 1 = false ∧ (s.cmp src.toNat).status = .good ∧
        s.holdsOutput src.toNat = false ∧ (s.cmp src.toNat).out = false ∧ s.armed src.toNat = true ∧ (s.cmpGrade src.toNat = 3 ∨
        s.cmpGrade src.toNat = 2 ∧ s.persistTicks = 0))
    ∧ (∃ (src : BitVec 8) (s : State), s.tablesOk = true ∧ s.Asserts src ∧ s.pm.state = .cooling ∧ s.cmpGrade src.toNat = 2 ∧
        s.persistTicks = 0)
    ∧ (∃ (src : BitVec 8) (s : State), s.tablesOk = true ∧ s.Asserts src ∧ s.pm.state = .cooling ∧ s.cmpGrade src.toNat = 3 ∧ s.isHTable
        s.walk.table = false)
    ∧ (∃ (src : BitVec 8) (s : State), s.tablesOk = true ∧ s.Asserts src ∧ s.pm.state = .cooling ∧ s.cmpGrade src.toNat = 3 ∧ s.isHTable
        s.walk.table = true)
    ∧ (∃ (src : BitVec 8) (s : State), s.tablesOk = true ∧ s.Asserts src ∧ s.pm.state = .standby ∧ (s.cmpGrade src.toNat = 3 ∨
        s.cmpGrade src.toNat = 2 ∧ s.persistTicks = 0))
    ∧ (∃ (src : BitVec 8) (s : State), s.tablesOk = true ∧ s.Asserts src ∧ s.pm.state = .starting ∧ s.pm.stage = 5 ∧ (s.cmpGrade
        src.toNat = 3 ∨ s.cmpGrade src.toNat = 2 ∧ s.persistTicks = 0))
    ∧ (∃ (src : BitVec 8) (s : State), s.evaluated src.toNat = false ∨ s.underTest src.toNat = true ∧ s.sense.test.phase < 5) :=
  ⟨⟨1, ready, by decide +kernel⟩,
   ⟨1, ready.withCmp 1 { status := .failed }, by decide +kernel⟩,
   ⟨255, (({ ready with sense.test.src := none, pm.state := .ready }).withReg 0x23F1C 0xC0000000).withCmp 255 { status := .good, out := false }, by decide +kernel⟩,
   ⟨255, (({ ready with sense.test.src := none, pm.state := .cooling } : State).withReg 0x23F1C 0x80000000).withCmp 255 { status := .good, out := false }, by unfold State.Asserts; decide +kernel⟩,
   ⟨255, (({ ready with sense.test.src := none, pm.state := .cooling, walk.table := 1 } : State).withReg 0x23F1C 0xC0000000).withCmp 255 { status := .good, out := false }, by unfold State.Asserts; decide +kernel⟩,
   ⟨255, (({ ready with sense.test.src := none, pm.state := .cooling, walk.table := 6 } : State).withReg 0x23F1C 0xC0000000).withCmp 255 { status := .good, out := false }, by unfold State.Asserts; decide +kernel⟩,
   ⟨255, (({ ready with sense.test.src := none, pm.state := .standby } : State).withReg 0x23F1C 0xC0000000).withCmp 255 { status := .good, out := false }, by unfold State.Asserts; decide +kernel⟩,
   ⟨255, (({ ready with sense.test.src := none, pm.state := .starting, pm.stage := 5 } : State).withReg 0x23F1C 0xC0000000).withCmp 255 { status := .good, out := false }, by unfold State.Asserts; decide +kernel⟩,
   ⟨1, { ready with pm.state := .off }, by decide +kernel⟩⟩

/-- The hypotheses of each clause of Obligations.ComparatorTimers can be met. -/
theorem witness_ComparatorTimers :
    (∃ (src : BitVec 8) (due : Nat) (s : State), s.tablesOk = true ∧ (s.cmp src.toNat).settle = some due)
    ∧ (∃ (src : BitVec 8) (s : State), (s.cmp src.toNat).settle = none)
    ∧ (∃ (src : BitVec 8) (due : Nat) (s : State), s.tablesOk = true ∧ (s.cmp src.toNat).syncOpen = some due ∧ s.syncBlanks src.toNat =
        true ∧ (s.cmp src.toNat).syncLock ≤ max s.clk.now due)
    ∧ (∃ (src : BitVec 8) (due : Nat) (s : State), s.tablesOk = true ∧ (s.cmp src.toNat).syncOpen = some due ∧ (s.syncBlanks src.toNat =
        false ∨ max s.clk.now due < (s.cmp src.toNat).syncLock))
    ∧ (∃ (src : BitVec 8) (due : Nat) (s : State), s.tablesOk = true ∧ (s.cmp src.toNat).syncClose = some due ∧ due < (s.cmp
        src.toNat).syncSince + syncLimit)
    ∧ (∃ (src : BitVec 8) (due : Nat) (s : State), s.tablesOk = true ∧ (s.cmp src.toNat).syncClose = some due ∧ (s.cmp
        src.toNat).syncSince + syncLimit ≤ due)
    ∧ (∃ (src : BitVec 8) (due : Nat) (s : State), s.tablesOk = true ∧ (s.cmp src.toNat).enOpen = some due)
    ∧ (∃ (src : BitVec 8) (due : Nat) (s : State), s.tablesOk = true ∧ (s.cmp src.toNat).enClose = some due)
    ∧ (∃ (src : BitVec 8) (s : State), (s.cmp src.toNat).syncOpen = none)
    ∧ (∃ (src : BitVec 8) (s : State), (s.cmp src.toNat).syncClose = none)
    ∧ (∃ (src : BitVec 8) (s : State), (s.cmp src.toNat).enOpen = none)
    ∧ (∃ (src : BitVec 8) (s : State), (s.cmp src.toNat).enClose = none)
    ∧ (∃ (src : BitVec 8) (s : State), (s.cmp src.toNat).ramp = none)
    ∧ (∃ (src : BitVec 8) (r : Ramp) (s : State), s.tablesOk = true ∧ (s.cmp src.toNat).ramp = some r)
    ∧ (∃ (s : State), s.tablesOk = true) :=
  ⟨⟨1, 5, ready.withCmp 1 { settle := some 5 }, by decide +kernel⟩,
   ⟨1, ready.withCmp 1 { settle := none }, by decide +kernel⟩,
   ⟨1, 5, ((ready.withReg 0x20014 0x4000000).withReg 0x20034 0x90000).withCmp 1 { syncOpen := some 5 }, by decide +kernel⟩,
   ⟨1, 5, ready.withCmp 1 { syncOpen := some 5 }, by decide +kernel⟩,
   ⟨1, 5, ready.withCmp 1 { syncClose := some 5 }, by decide +kernel⟩,
   ⟨1, syncLimit, ready.withCmp 1 { syncClose := some syncLimit }, by decide +kernel⟩,
   ⟨1, 5, ready.withCmp 1 { enOpen := some 5 }, by decide +kernel⟩,
   ⟨1, 5, ready.withCmp 1 { enClose := some 5 }, by decide +kernel⟩,
   ⟨1, ready.withCmp 1 { syncOpen := none }, by decide +kernel⟩,
   ⟨1, ready.withCmp 1 { syncClose := none }, by decide +kernel⟩,
   ⟨1, ready.withCmp 1 { enOpen := none }, by decide +kernel⟩,
   ⟨1, ready.withCmp 1 { enClose := none }, by decide +kernel⟩,
   ⟨1, ready.withCmp 1 { ramp := none }, by decide +kernel⟩,
   ⟨1, ⟨5, true, 10, 20, 0, 0⟩, ready.withCmp 1 { ramp := some (⟨5, true, 10, 20, 0, 0⟩) }, by decide +kernel⟩,
   ⟨ready, by decide +kernel⟩⟩

/-- The hypotheses of each clause of Obligations.SelfTestSlots can be met. -/
theorem witness_SelfTestSlots :
    (∃ (due : Nat) (s : State), s.tablesOk = true ∧ s.sense.test.slotDue = some due ∧ s.sense.test.src = none ∧ (s.cmp
        s.sense.test.next).status ≠ .failed ∧ s.testSkips s.sense.test.next = false)
    ∧ (∃ (due : Nat) (s : State), s.tablesOk = true ∧ s.sense.test.slotDue = some due ∧ s.sense.test.src = none ∧ (s.cmp
        s.sense.test.next).status = .failed)
    ∧ (∃ (due : Nat) (s : State), s.tablesOk = true ∧ s.sense.test.slotDue = some due ∧ s.sense.test.src = none ∧ (s.cmp
        s.sense.test.next).status ≠ .failed ∧ s.testSkips s.sense.test.next = true ∧ (s.cmp s.sense.test.next).skipRun < 3)
    ∧ (∃ (due : Nat) (s : State), s.tablesOk = true ∧ s.sense.test.slotDue = some due ∧ s.sense.test.src = none ∧ (s.cmp
        s.sense.test.next).status ≠ .failed ∧ s.testSkips s.sense.test.next = true ∧ 3 ≤ (s.cmp s.sense.test.next).skipRun)
    ∧ (∃ (s : State), s.sense.test.slotDue = none ∨ s.sense.test.src ≠ none)
    ∧ (∃ (src : Nat) (s : State), s.sense.test.src = some src ∧ s.sense.test.phase < 4)
    ∧ (∃ (src : Nat) (s : State), s.tablesOk = true ∧ s.sense.test.src = some src ∧ s.sense.test.phase = 4 ∧ s.sense.test.wrong = false)
    ∧ (∃ (right : Bool) (src : Nat) (s : State), s.tablesOk = true ∧ s.sense.test.src = some src ∧ s.sense.test.phase = 4 ∧
        (s.sense.test.wrong || !right) = true)
    ∧ (∃ (src : Nat) (s : State), s.sense.test.src = some src ∧ 5 ≤ s.sense.test.phase)
    ∧ (∃ (s : State), s.sense.test.src = none) :=
  ⟨⟨5, { ready with sense.test.slotDue := some 5, sense.test.src := none, sense.cmps := [(1, { status := .good })] }, by decide +kernel⟩,
   ⟨5, { ready with sense.test.slotDue := some 5, sense.test.src := none, sense.cmps := [(0, { status := .failed })] }, by decide +kernel⟩,
   ⟨5, { ready with sense.test.slotDue := some 5, sense.test.src := none }, by decide +kernel⟩,
   ⟨5, { ready with sense.test.slotDue := some 5, sense.test.src := none, sense.cmps := [(0, { skipRun := 3 })] }, by decide +kernel⟩,
   ⟨{ ready with sense.test.slotDue := none }, by decide +kernel⟩,
   ⟨5, { ready with sense.test.src := some 5 }, by decide +kernel⟩,
   ⟨5, { ready with sense.test.src := some 5, sense.test.phase := 4, sense.test.wrong := false }, by decide +kernel⟩,
   ⟨false, 5, { ready with sense.test.src := some 5, sense.test.phase := 4 }, by decide +kernel⟩,
   ⟨5, { ready with sense.test.src := some 5, sense.test.phase := 5 }, by decide +kernel⟩,
   ⟨{ ready with sense.test.src := none }, by decide +kernel⟩⟩

/-- The hypotheses of each clause of Obligations.ConversionsAndPins can be met. -/
theorem witness_ConversionsAndPins :
    (∃ (pin : BitVec 3) (due : Nat) (s : State), Tab.wf s.sense.fltStretch = true ∧ Tab.get? s.sense.fltStretch pin.toNat = some due)
    ∧ (∃ (s : State), s.pm.state.logs = true)
    ∧ (∃ (s : State), s.sense.scan.running = true ∧ s.scanLive = true ∧ s.scanInterval ≠ 0 ∧ s.sense.scan.overdue = false ∧
        s.sense.scan.next < s.sense.scan.list.length)
    ∧ (∃ (s : State), s.sense.scan.running = true ∧ s.scanLive = true ∧ s.scanInterval ≠ 0 ∧ s.sense.scan.overdue = false ∧
        s.sense.scan.list.length ≤ s.sense.scan.next ∧ s.scanList ≠ [])
    ∧ (∃ (conv : BitVec 2) (x : Conv) (s : State), s.tablesOk = true ∧ nth s.sense.convs conv.toNat none = some x ∧ x.input < 112 ∧
        s.isHalf x.input = false)
    ∧ (∃ (conv : BitVec 2) (x : Conv) (s : State), s.tablesOk = true ∧ nth s.sense.convs conv.toNat none = some x ∧ x.input < 112 ∧
        s.isHalf x.input = true)
    ∧ (∃ (conv : BitVec 2) (s : State), nth s.sense.convs conv.toNat none = none ∧ s.nextOpen conv.toNat = none)
    ∧ (∃ (source : BitVec 4) (s : State), s.scanLive = true ∧ 1 ≤ source.toNat ∧ source.toNat ≤ 8 ∧ s.unitsOk = true)
    ∧ (∃ (input : BitVec 7) (s : State), s.unitsOk = true ∧ s.demandLive input.toNat = true)
    ∧ (∃ (input : BitVec 7) (s : State), s.demandLive input.toNat = false)
    ∧ (∃ (s : State), s.pm.state ≠ .off ∧ s.twinEn = false ∧ s.out.passive = false)
    ∧ (∃ (rail : BitVec 6) (high : Bool) (s : State), s.pm.state ≠ .off ∧ s.out.passive = true ∧ ¬ (s.twin.state = .blocked ∧ putBit
        s.inp.enHigh rail.toNat high = 0 ∧ s.pm.state.logs = true))
    ∧ (∃ (rail : BitVec 6) (high : Bool) (s : State), s.pm.state.logs = true ∧ s.out.passive = true ∧ s.twin.state = .blocked ∧ putBit
        s.inp.enHigh rail.toNat high = 0)
    ∧ (∃ (s : State), s.tablesOk = true ∧ s.pm.state ≠ .off ∧ s.twinEn = true ∧ s.out.passive = false)
    ∧ (∃ (s : State), s.tablesOk = true ∧ s.pm.state ≠ .off ∧ s.twinEn = true ∧ s.out.passive = false) :=
  ⟨⟨1, 5, { ready with sense.fltStretch := [(1, 5)] }, by decide +kernel⟩,
   ⟨ready, by decide +kernel⟩,
   ⟨({ ready with sense.scan.running := true, sense.scan.overdue := false, sense.scan.list := [3] }).withReg 0x27000 0x1, by decide +kernel⟩,
   ⟨({ ready with sense.scan.running := true, sense.scan.overdue := false }).withReg 0x27000 0x10001, by decide +kernel⟩,
   ⟨1, ⟨3, .saggar, 9⟩, { ready with sense.convs := [none, some ⟨3, .saggar, 9⟩, none, none] }, by decide +kernel⟩,
   ⟨1, ⟨111, .saggar, 9⟩, { ready with sense.convs := [none, some ⟨111, .saggar, 9⟩, none, none] }, by decide +kernel⟩,
   ⟨1, ready, by decide +kernel⟩,
   ⟨8, ready, by decide +kernel⟩,
   ⟨111, ready, by decide +kernel⟩,
   ⟨112, ready, by decide +kernel⟩,
   ⟨{ ready with out.passive := false }, by decide +kernel⟩,
   ⟨1, true, { ready with out.passive := true }, by decide +kernel⟩,
   ⟨1, false, { ready with out.passive := true, twin.state := .blocked, inp.enHigh := 2 }, by decide +kernel⟩,
   ⟨({ ready with out.passive := false }).withReg 0xA0000 0x80000000, by decide +kernel⟩,
   ⟨({ ready with out.passive := false }).withReg 0xA0000 0x80000000, by decide +kernel⟩⟩

/-- The hypotheses of each clause of Obligations.PlainSteps can be met. -/
theorem witness_PlainSteps :
    (∃ (k : BitVec 3) (f : Fetch) (s : State), Issues k 0x0 f s ∧ (s.eng k.toNat).pc < lastStep k.toNat)
    ∧ (∃ (k : BitVec 3) (f : Fetch) (s : State), Issues k 0x3 f s)
    ∧ (∃ (k : BitVec 3) (f : Fetch) (s : State), Issues k 0x4 f s)
    ∧ (∃ (k : BitVec 3) (f : Fetch) (s : State), Issues k 0xA f s)
    ∧ (∃ (k : BitVec 3) (f : Fetch) (s : State), Issues k 0x7 f s)
    ∧ (∃ (k : BitVec 3) (f : Fetch) (s : State), Issues k 0x8 f s ∧ (s.eng k.toNat).pc < lastStep k.toNat) :=
  ⟨⟨1, .clean, ready.withEng 1 { st := .running } 0x0, by unfold Issues; decide +kernel⟩,
   ⟨1, .clean, ready.withEng 1 { st := .running } 0x3000000000000000, by unfold Issues; decide +kernel⟩,
   ⟨1, .clean, ready.withEng 1 { st := .running } 0x4000000000000000, by unfold Issues; decide +kernel⟩,
   ⟨1, .clean, ready.withEng 1 { st := .running } 0xA000000000000000, by unfold Issues; decide +kernel⟩,
   ⟨1, .clean, ready.withEng 1 { st := .running } 0x7000000000000000, by unfold Issues; decide +kernel⟩,
   ⟨1, .clean, ready.withEng 1 { st := .running } 0x8000000000000000, by unfold Issues; decide +kernel⟩⟩

/-- The hypotheses of each clause of Obligations.WaitsEnd can be met. -/
theorem witness_WaitsEnd :
    (∃ (k : BitVec 3) (due : Nat) (s : State), (s.eng k.toNat).busy = .wait due ∧ s.inStep k.toNat (max due s.clk.now) = true ∧ (s.eng
        k.toNat).pc < lastStep k.toNat)
    ∧ (∃ (k : BitVec 3) (ctrig : BitVec 4) (w : Step64) (t0 : Nat) (s : State), (s.eng k.toNat).busy = .waitfor w t0 ∧ s.inStep k.toNat
        s.clk.now = true ∧ s.inTime k.toNat w t0 = true ∧ s.waitforHolds k.toNat w t0 ctrig = true ∧ (s.eng k.toNat).pc < lastStep
        k.toNat)
    ∧ (∃ (k : BitVec 3) (w : Step64) (t0 due : Nat) (s : State), (s.eng k.toNat).busy = .waitfor w t0 ∧ s.stepTimeout k.toNat w t0 =
        some due ∧ s.inStep k.toNat (max due s.clk.now) = true ∧ (s.eng k.toNat).pc < lastStep k.toNat)
    ∧ (∃ (k : BitVec 3) (w : Step64) (t0 : Nat) (s : State), (s.eng k.toNat).busy = .sync w t0 ∧ s.inStep k.toNat s.clk.now = true ∧
        s.inTime k.toNat w t0 = true ∧ s.syncHolds w = true ∧ (s.eng k.toNat).pc < lastStep k.toNat)
    ∧ (∃ (k : BitVec 3) (w : Step64) (t0 due : Nat) (s : State), (s.eng k.toNat).busy = .sync w t0 ∧ s.stepTimeout k.toNat w t0 = some
        due ∧ s.inStep k.toNat (max due s.clk.now) = true ∧ (s.till due).syncHolds w = false ∧ (s.eng k.toNat).pc < lastStep
        k.toNat)
    ∧ (∃ (k : BitVec 3) (w : Step64) (t0 due : Nat) (s : State), (s.eng k.toNat).busy = .sync w t0 ∧ s.stepTimeout k.toNat w t0 = some
        due ∧ s.inStep k.toNat (max due s.clk.now) = true ∧ (s.till due).syncHolds w = true ∧ (s.eng k.toNat).pc < lastStep
        k.toNat) :=
  ⟨⟨1, 5, ready.withEng 1 { busy := .wait 5, st := .waiting } 0x0, by decide +kernel⟩,
   ⟨1, 1, 0x100, 5, ready.withEng 1 { busy := .waitfor 0x100 5, st := .waiting } 0x0, by decide +kernel⟩,
   ⟨1, 0x10000000000, 0, 200, ready.withEng 1 { busy := .waitfor 0x10000000000 0, st := .waiting } 0x0, by decide +kernel⟩,
   ⟨1, 0, 5, ready.withEng 1 { busy := .sync 0 5, st := .waiting } 0x0, by decide +kernel⟩,
   ⟨1, 0x10000000001, 0, 200, ready.withEng 1 { busy := .sync 0x10000000001 0, st := .waiting } 0x0, by decide +kernel⟩,
   ⟨1, 0x10000000001, 0, 200, ({ ready with kiln.eventFlags := 1 } : State).withEng 1 { busy := .sync 0x10000000001 0, st := .waiting } 0x0, by decide +kernel⟩⟩

/-- The hypotheses of each clause of Obligations.EnableAndSignalSteps can be met. -/
theorem witness_EnableAndSignalSteps :
    (∃ (k : BitVec 3) (f : Fetch) (s : State), Issues k 0x1 f s ∧ (s.eng k.toNat).pc < lastStep k.toNat)
    ∧ (∃ (k : BitVec 3) (f : Fetch) (s : State), Issues k 0x2 f s ∧ (s.eng k.toNat).pc < lastStep k.toNat)
    ∧ (∃ (k : BitVec 3) (f : Fetch) (s : State), s.tablesOk = true ∧ Issues k 0x6 f s ∧ (s.eng k.toNat).pc < lastStep k.toNat)
    ∧ (∃ (k : BitVec 3) (f : Fetch) (s : State), Issues k 0x9 f s ∧ (s.eng k.toNat).pc < lastStep k.toNat)
    ∧ (∃ (k : BitVec 3) (f : Fetch) (s : State), Issues k 0xD f s ∧ (s.eng k.toNat).pc < lastStep k.toNat ∧ s.log.buffer.length < 32) :=
  ⟨⟨1, .clean, ready.withEng 1 { st := .running } 0x1000000000000000, by unfold Issues; decide +kernel⟩,
   ⟨1, .clean, ready.withEng 1 { st := .running } 0x2000000000000000, by unfold Issues; decide +kernel⟩,
   ⟨1, .clean, ready.withEng 1 { st := .running } 0x6000000000000000, by unfold Issues; decide +kernel⟩,
   ⟨1, .clean, ready.withEng 1 { st := .running } 0x9000000000000000, by unfold Issues; decide +kernel⟩,
   ⟨1, .clean, ready.withEng 1 { st := .running } 0xD000000000000000, by unfold Issues; decide +kernel⟩⟩

/-- The hypotheses of each clause of Obligations.CheckSteps can be met. -/
theorem witness_CheckSteps :
    (∃ (k : BitVec 3) (f : Fetch) (s : State), s.tablesOk = true ∧ Issues k 0x5 f s)
    ∧ (∃ (k : BitVec 3) (rail : BitVec 6) (w : Step64) (t0 since : Nat) (rails : List CheckRail) (s : State), (s.eng k.toNat).busy =
        .check w t0 rails ∧ rails.find? (fun r => r.rail == rail.toNat) = some ⟨rail.toNat, some since, false⟩ ∧ s.inStep k.toNat
        (max (since + ckQual w) s.clk.now) = true ∧ since + ckQual w ≤ t0 + ckDeadline w ∧ (s.eng k.toNat).pc < lastStep k.toNat)
    ∧ (∃ (k : BitVec 3) (w : Step64) (t0 : Nat) (rails : List CheckRail) (s : State), (s.eng k.toNat).busy = .check w t0 rails ∧
        s.inStep k.toNat (max (t0 + ckDeadline w) s.clk.now) = true ∧ (s.eng k.toNat).pc < lastStep k.toNat)
    ∧ (∃ (k : BitVec 3) (s : State), (∀ w t0 rails, (s.eng k.toNat).busy ≠ .check w t0 rails)) :=
  ⟨⟨1, .clean, ready.withEng 1 { st := .running } 0x5000000000000000, by unfold Issues; decide +kernel⟩,
   ⟨1, 1, 0, 5, 5, [⟨1, some 5, false⟩], ready.withEng 1 { busy := .check 0 5 ([⟨1, some 5, false⟩]), st := .waiting } 0x0, by decide +kernel⟩,
   ⟨1, 0, 5, [], ready.withEng 1 { busy := .check 0 5 ([]), st := .waiting } 0x0, by decide +kernel⟩,
   ⟨1, ready, by intro w t0 rails h; simp [ready, State.eng, nth, State.reset] at h⟩⟩

/-- The hypotheses of each clause of Obligations.MarginAndPwmSteps can be met. -/
theorem witness_MarginAndPwmSteps :
    (∃ (k : BitVec 3) (f : Fetch) (s : State), s.tablesOk = true ∧ Issues k 0xB f s ∧ (s.eng k.toNat).pc < lastStep k.toNat ∧ bit
        (s.stepOf k.toNat) 58 = false ∧ TrimFree k (stRail (s.stepOf k.toNat)) s)
    ∧ (∃ (k : BitVec 3) (f : Fetch) (s : State), Issues k 0xB f s ∧ (s.eng k.toNat).pc < lastStep k.toNat ∧ bit (s.stepOf k.toNat) 58 =
        true ∧ TrimFree k (stRail (s.stepOf k.toNat)) s ∧ s.seqBlocked (stRail (s.stepOf k.toNat)) ≠ none)
    ∧ (∃ (k : BitVec 3) (f : Fetch) (s : State), s.unitsOk = true ∧ Issues k 0xB f s ∧ bit (s.stepOf k.toNat) 58 = true ∧ TrimFree k
        (stRail (s.stepOf k.toNat)) s ∧ s.seqBlocked (stRail (s.stepOf k.toNat)) = none)
    ∧ (∃ (k : BitVec 3) (f : Fetch) (s : State), s.tablesOk = true ∧ Issues k 0xC f s ∧ (s.eng k.toNat).pc < lastStep k.toNat ∧ TrimFree
        k (stRail (s.stepOf k.toNat)) s)
    ∧ (∃ (k : BitVec 3) (f : Fetch) (j : Nat) (s : State), Issues k 0xC f s ∧ (s.eng k.toNat).pc < lastStep k.toNat ∧ s.kiln.tick.time =
        issueTick k s ∧ j < k.toNat ∧ claimed s.kiln.tick.trimmed (stRail (s.stepOf k.toNat)) = some j)
    ∧ (∃ (k : BitVec 3) (f : Fetch) (s : State), s.unitsOk = true ∧ Issues k 0xE f s ∧ (s.eng k.toNat).pc < lastStep k.toNat ∧ pwAction
        (s.stepOf k.toNat) < 3 ∧ PwmFree k (pwChannel (s.stepOf k.toNat)) s)
    ∧ (∃ (k : BitVec 3) (f : Fetch) (s : State), Issues k 0xE f s ∧ (s.eng k.toNat).pc < lastStep k.toNat ∧ pwAction (s.stepOf k.toNat)
        = 3 ∧ PwmFree k 16 s)
    ∧ (∃ (k : BitVec 3) (f : Fetch) (j : Nat) (s : State), Issues k 0xE f s ∧ (s.eng k.toNat).pc < lastStep k.toNat ∧ s.kiln.tick.time =
        issueTick k s ∧ j < k.toNat ∧ claimed s.kiln.tick.pwm (if pwAction (s.stepOf k.toNat) = 3 then 16 else pwChannel (s.stepOf
        k.toNat)) = some j) :=
  ⟨⟨1, .clean, ready.withEng 1 { st := .running } 0xB000000000000000, by unfold Issues TrimFree; decide +kernel⟩,
   ⟨1, .clean, ready.withEng 1 { st := .running } 0xB400000000000000, by unfold Issues TrimFree; decide +kernel⟩,
   ⟨1, .clean, ((ready.withReg 0x7000C 0x80000000).withReg 0xB0000 0x80000000).withEng 1 { st := .running } 0xB400000000000000, by unfold Issues TrimFree; decide +kernel⟩,
   ⟨1, .clean, ready.withEng 1 { st := .running } 0xC000000000000000, by unfold Issues TrimFree; decide +kernel⟩,
   ⟨1, .clean, 0, ({ ready with kiln.tick.time := 0, kiln.tick.trimmed := [(0, 0)] }).withEng 1 { st := .running } 0xC000000000000000, by unfold Issues; decide +kernel⟩,
   ⟨1, .clean, ready.withEng 1 { st := .running } 0xE000000000000000, by unfold Issues PwmFree; decide +kernel⟩,
   ⟨1, .clean, ready.withEng 1 { st := .running } 0xE300000000000000, by unfold Issues PwmFree; decide +kernel⟩,
   ⟨1, .clean, 0, ({ ready with kiln.tick.time := 0, kiln.tick.pwm := [(0, 0)] }).withEng 1 { st := .running } 0xE000000000000000, by unfold Issues; decide +kernel⟩⟩

/-- The hypotheses of each clause of Obligations.HaltsAndEngineErrors can be met. -/
theorem witness_HaltsAndEngineErrors :
    (∃ (k : BitVec 3) (f : Fetch) (s : State), Issues k 0xF f s ∧ bit (s.stepOf k.toNat) 56 = false ∧ (∃ j, j ≠ k.toNat ∧ (s.eng
        j).started = true ∧ (s.eng j).st ≠ .halted))
    ∧ (∃ (k : BitVec 3) (f : Fetch) (s : State), Issues k 0xF f s ∧ bit (s.stepOf k.toNat) 56 = false ∧ (∀ j, j ≠ k.toNat → (s.eng
        j).started = true → (s.eng j).st = .halted))
    ∧ (∃ (k : BitVec 3) (f : Fetch) (s : State), s.mayIssue k.toNat 0xF = true ∧ f ≠ .uncorrectable ∧ bit (s.stepOf k.toNat) 56 = true ∧
        k.toNat < 4)
    ∧ (∃ (f : Fetch) (s : State), s.mayIssue 4 0xF = true ∧ f ≠ .uncorrectable ∧ bit (s.stepOf 4) 56 = true)
    ∧ (∃ (k : BitVec 3) (s : State), k.toNat ≤ 4 ∧ s.pm.state = .firing ∧ (s.eng k.toNat).st = .running ∧ s.stepBudget k.toNat ≤ (s.eng
        k.toNat).steps ∧ max (s.eng k.toNat).next s.clk.now < (s.eng k.toNat).t0 + s.timeBudget k.toNat)
    ∧ (∃ (k : BitVec 3) (s : State), k.toNat ≤ 4 ∧ s.pm.state = .firing ∧ ((s.eng k.toNat).active = true ∨ (s.eng k.toNat).entering =
        true))
    ∧ (∃ (k : BitVec 3) (i : Instr) (op : Nat) (s : State), (i, op) ∈ stepRows k .uncorrectable ∧ s.mayIssue k.toNat op = true)
    ∧ (∃ (k : BitVec 3) (f : Fetch) (i : Instr) (op : Nat) (s : State), (i, op) ∈ passingRows k f ∧ Issues k op f s ∧ s.sense.test.src =
        none ∧ lastStep k.toNat ≤ (s.eng k.toNat).pc)
    ∧ (∃ (k : BitVec 3) (f : Fetch) (i : Instr) (op : Nat) (s : State), (i, op) ∈ stepRows k f ∧ s.mayIssue k.toNat op = true ∧ f ≠
        .uncorrectable ∧ (s.till (issueTick k s)).offDue = true ∧ haltsOff (s.stepOf k.toNat) = false)
    ∧ (∃ (k : BitVec 3) (f : Fetch) (i : Instr) (op : Nat) (s : State), (i, op) ∈ stepRows k f ∧ s.mayIssue k.toNat op = false) :=
  ⟨⟨1, .clean, (ready.withEng 1 { st := .running } 0xF000000000000000).withEng 2 { st := .running, started := true } 0x0, by unfold Issues; exact ⟨by decide +kernel, by decide +kernel, 2, by decide +kernel⟩⟩,
   ⟨1, .clean, ready.withEng 1 { st := .running } 0xF000000000000000, by unfold Issues; exact ⟨by decide +kernel, by decide +kernel, fun j _ h => by rcases j with _ | _ | _ | _ | _ | j <;> exact absurd h (by first | decide +kernel | simp [ready, State.withEng, State.withReg, State.eng, nth, State.reset])⟩⟩,
   ⟨1, .clean, ready.withEng 1 { st := .running } 0xF100000000000000, by decide +kernel⟩,
   ⟨.clean, ready.withEng 4 { st := .running } 0xF100000000000000, by decide +kernel⟩,
   ⟨4, ({ ready with pm.state := .firing }).withEng 4 { st := .running, steps := 1048576 } 0x0, by decide +kernel⟩,
   ⟨1, ({ ready with pm.state := .firing }).withEng 1 { st := .waiting } 0x0, by decide +kernel⟩,
   ⟨1, .nopStep 1 .uncorrectable, 0, ready.withEng 1 { st := .running } 0x0, by decide +kernel⟩,
   ⟨1, .clean, .nopStep 1 .clean, 0, ready.withEng 1 { st := .running, pc := 0xFFF } 0x0, by unfold Issues; decide +kernel⟩,
   ⟨1, .clean, .nopStep 1 .clean, 0, (ready.withEng 1 { st := .running, pc := 7 } 0x0).withEng 2 { st := .running } 0xF100000000000000, by decide +kernel⟩,
   ⟨1, .clean, .nopStep 1 .clean, 0, ready, by decide +kernel⟩⟩

/-- The hypotheses of each clause of Obligations.PwmCounting can be met. -/
theorem witness_PwmCounting :
    (∃ (c : BitVec 4) (s : State), s.unitsOk = true ∧ s.pwLive c.toNat = true)
    ∧ (∃ (c : BitVec 4) (s : State), s.unitsOk = true ∧ s.pwLive c.toNat = true ∧ (s.ch c.toNat).falls = true ∧ (s.ch c.toNat).counter
        s.clk.now ≤ (s.ch c.toNat).c ∧ (s.ch c.toNat).start ≤ s.clk.now)
    ∧ (∃ (c : BitVec 4) (due : Nat) (s : State), (s.ch c.toNat).dead = some due)
    ∧ (∃ (due : Nat) (s : State), s.pwm.so = some due)
    ∧ (∃ (c : BitVec 4) (j : BitVec 1) (s : State), s.unitsOk = true ∧ s.pwLive (s.pwBase c.toNat) = true ∧ (if j = 0 then (s.ch
        c.toNat).t0 else (s.ch c.toNat).t1) ≤ (s.ch (s.pwBase c.toNat)).p)
    ∧ (∃ (s : State), s.unitsOk = true ∧ s.pm.state.logs = true) :=
  ⟨⟨1, ready.withCh 1 { running := true }, by decide +kernel⟩,
   ⟨1, ready.withCh 1 { running := true, p := 10, c := 5 }, by decide +kernel⟩,
   ⟨1, 5, ready.withCh 1 { dead := some 5 }, by decide +kernel⟩,
   ⟨5, { ready with pwm.so := some 5 }, by decide +kernel⟩,
   ⟨1, 1, ready.withCh 1 { running := true }, by decide +kernel⟩,
   ⟨ready, by decide +kernel⟩⟩

/-- The hypotheses of each clause of Obligations.PwmStartsAndTrips can be met. -/
theorem witness_PwmStartsAndTrips :
    (∃ (c : BitVec 4) (s : State), s.unitsOk = true ∧ s.pm.state.logs = true ∧ s.ownCounter c.toNat = true ∧ (s.ch c.toNat).running =
        false)
    ∧ (∃ (c : BitVec 4) (s : State), s.unitsOk = true ∧ s.pm.state.logs = true ∧ s.ownCounter c.toNat = true ∧ (s.ch c.toNat).running =
        true)
    ∧ (∃ (c : BitVec 4) (s : State), s.unitsOk = true ∧ s.pm.state.logs = true ∧ s.ownCounter c.toNat = true ∧ (s.ch c.toNat).running =
        true)
    ∧ (∃ (c : BitVec 4) (s : State), s.unitsOk = true ∧ s.pm.state.logs = true ∧ s.ownCounter c.toNat = false)
    ∧ (∃ (s : State), s.unitsOk = true ∧ s.pm.state.logs = true ∧ s.pwm.loadAll = false)
    ∧ (∃ (source : BitVec 4) (s : State), s.unitsOk = true ∧ s.pm.state.logs = true ∧ 4 ≤ source.toNat ∧ source.toNat ≤ 13 ∧ bit
        s.tripSources source.toNat = true)
    ∧ (∃ (source : BitVec 4) (s : State), s.unitsOk = true ∧ s.pm.state.logs = true ∧ source.toNat < 4)
    ∧ (∃ (bits : BitVec 16) (s : State), s.unitsOk = true ∧ s.pm.state.logs = true ∧ s.clearRefused bits = false)
    ∧ (∃ (bits : BitVec 16) (s : State), s.pm.state.logs = true ∧ s.clearRefused bits = true)
    ∧ (∃ (s : State), s.pm.state.logs = true) :=
  ⟨⟨1, ready.withCh 1 { running := false }, by decide +kernel⟩,
   ⟨1, ready.withCh 1 { running := true }, by decide +kernel⟩,
   ⟨1, ready.withCh 1 { running := true }, by decide +kernel⟩,
   ⟨1, ready.withReg 0xD0040 0x80000000, by decide +kernel⟩,
   ⟨{ ready with pwm.loadAll := false }, by decide +kernel⟩,
   ⟨13, ready, by decide +kernel⟩,
   ⟨3, ready, by decide +kernel⟩,
   ⟨0x8001, { ready with out.tripo := false, out.pfw := false, sense.fltLevel := 0 }, by decide +kernel⟩,
   ⟨1, ready, by decide +kernel⟩,
   ⟨ready, by decide +kernel⟩⟩

/-- The hypotheses of each clause of Obligations.ClocksAndCrossings can be met. -/
theorem witness_ClocksAndCrossings :
    (∃ (s : State), s.relocks = true ∧ s.clk.refOk = true)
    ∧ (∃ (s : State), s.relocks = true ∧ s.clk.refOk = false)
    ∧ (∃ (s : State), s.clocked = true ∧ s.relocks = false)
    ∧ (∃ (s : State), s.clocked = true ∧ s.clk.pllLocked = true ∧ (s.clk.refOk || s.clk.pllRefRc) = true)
    ∧ (∃ (s : State), s.clocked = true ∧ s.clk.relock ≠ none)
    ∧ (∃ (t0 : Nat) (s : State), s.clk.relock = some t0 ∧ s.clocked = true)
    ∧ (∃ (due : Nat) (s : State), s.clk.retryDue = some due ∧ s.clocked = true)
    ∧ (∃ (s : State), s.clocked = true ∧ s.clk.refOk = true)
    ∧ (∃ (s : State), s.clk.x32Xtal = true)
    ∧ (∃ (c : BitVec 4) (s : State), s.clocked = true ∧ 1 ≤ c.toNat ∧ c.toNat ≤ 4 ∧ c.toNat ≠ 2)
    ∧ (∃ (s : State), s.clocked = true)
    ∧ (∃ (c : BitVec 4) (s : State), s.clocked = true ∧ (c = 1 ∨ c = 3) ∧ bit s.clk.stopped c.toNat = false)
    ∧ (∃ (s : State), s.clocked = true ∧ bit s.clk.stopped 2 = false)
    ∧ (∃ (s : State), s.clocked = true ∧ bit s.clk.stopped 3 = true)
    ∧ (∃ (s : State), s.clocked = true ∧ bit s.clk.stopped 1 = true) :=
  ⟨⟨{ ready with clk.refOk := true }, by decide +kernel⟩,
   ⟨{ ready with clk.refOk := false }, by decide +kernel⟩,
   ⟨{ ready with clk.pllLocked := false, clk.corePll := false }, by decide +kernel⟩,
   ⟨{ ready with clk.pllLocked := true }, by decide +kernel⟩,
   ⟨{ ready with clk.relock := some 0 }, by decide +kernel⟩,
   ⟨5, { ready with clk.relock := some 5 }, by decide +kernel⟩,
   ⟨5, { ready with clk.retryDue := some 5 }, by decide +kernel⟩,
   ⟨{ ready with clk.refOk := true }, by decide +kernel⟩,
   ⟨{ ready with clk.x32Xtal := true }, by decide +kernel⟩,
   ⟨1, ready, by decide +kernel⟩,
   ⟨ready, by decide +kernel⟩,
   ⟨1, ready, by decide +kernel⟩,
   ⟨ready, by decide +kernel⟩,
   ⟨{ ready with clk.stopped := 8 }, by decide +kernel⟩,
   ⟨{ ready with clk.stopped := 2 }, by decide +kernel⟩⟩

/-- The hypotheses of each clause of Obligations.TimeBase can be met. -/
theorem witness_TimeBase :
    (∃ (s : State), s.tbRuns = true ∧ s.timeSrc = 1 ∧ s.clk.tsyncValid = true)
    ∧ (∃ (s : State), s.tbRuns = true ∧ (s.timeSrc = 1 ∨ s.timeSrc = 3) ∧ s.clk.tsyncValid = false)
    ∧ (∃ (s : State), s.tbRuns = true ∧ s.timeSrc = 3 ∧ s.clk.tsyncValid = true ∧ s.clk.following = 2 ∧ s.clk.tsyncRun < 2)
    ∧ (∃ (t0 : Nat) (s : State), s.clk.lastEvent = some t0 ∧ s.tbRuns = true ∧ s.clk.following ≠ 0)
    ∧ (∃ (s : State), s.tbRuns = true)
    ∧ (∃ (s : State), s.portAnswers = true)
    ∧ (∃ (out : BitVec 2) (steps : Byte) (s : State), s.unitsOk = true ∧ s.pm.state.logs = true ∧ -128 ≤ (s.outNow out.toNat).pending +
        steps.toInt ∧ (s.outNow out.toNat).pending + steps.toInt ≤ 127 ∧ steps ≠ BitVec.ofInt 8 (s.outNow out.toNat).pending)
    ∧ (∃ (out : BitVec 2) (steps : Byte) (s : State), s.pm.state.logs = true ∧ ((s.outNow out.toNat).pending + steps.toInt < -128 ∨ 127
        < (s.outNow out.toNat).pending + steps.toInt ∨ steps = BitVec.ofInt 8 (s.outNow out.toNat).pending)) :=
  ⟨⟨ready.withReg 0xC0008 0x40000000, by decide +kernel⟩,
   ⟨({ ready with clk.lastTsync := some 0 }).withReg 0xC0008 0x40000000, by decide +kernel⟩,
   ⟨({ ready with clk.following := 2 }).withReg 0xC0008 0xC0000000, by decide +kernel⟩,
   ⟨5, { ready with clk.lastEvent := some 5, clk.following := 1 }, by decide +kernel⟩,
   ⟨ready, by decide +kernel⟩,
   ⟨ready, by decide +kernel⟩,
   ⟨1, 1, ready, by decide +kernel⟩,
   ⟨1, 127, { ready with clk.outs := [{}, { pending := 1 }, {}, {}] }, by decide +kernel⟩⟩

/-- The hypotheses of each clause of Obligations.TwSequences can be met. -/
theorem witness_TwSequences :
    (∃ (p : BitVec 2) (result : BitVec 4) (q : TwSeq) (rest : List TwSeq) (s : State), s.unitsOk = true ∧ (s.port2 p.toNat).queue = q
        :: rest ∧ (s.port2 p.toNat).activity = 1 ∧ (result = 3 ∨ result = 9) ∧ (s.port2 p.toNat).retries < fld (s.port2
        p.toNat).cfg 6 4 ∧ s.twOn p.toNat = true)
    ∧ (∃ (p : BitVec 2) (data : BitVec 16) (got : Byte) (q : TwSeq) (rest : List TwSeq) (s : State), s.unitsOk = true ∧ s.tablesOk =
        true ∧ (s.port2 p.toNat).queue = q :: rest ∧ (s.port2 p.toNat).activity = 1 ∧ q.ending = false ∧ s.twOn p.toNat = true ∧
        (s.port2 p.toNat).clearPending = false ∧ s.twResult p.toNat q 1 data got = 1)
    ∧ (∃ (p : BitVec 2) (result : BitVec 4) (data : BitVec 16) (got : Byte) (q : TwSeq) (rest : List TwSeq) (s : State), s.unitsOk =
        true ∧ (s.port2 p.toNat).queue = q :: rest ∧ (s.port2 p.toNat).activity = 1 ∧ q.ending = false ∧ s.twOn p.toNat = true ∧
        (result = 2 ∨ result = 1 ∧ s.twResult p.toNat q 1 data got = 5 ∨ (result = 3 ∨ result = 9) ∧ fld (s.port2 p.toNat).cfg 6 4
        ≤ (s.port2 p.toNat).retries))
    ∧ (∃ (p : BitVec 2) (result : BitVec 4) (q : TwSeq) (rest : List TwSeq) (s : State), s.unitsOk = true ∧ (s.port2 p.toNat).queue = q
        :: rest ∧ (s.port2 p.toNat).activity = 1 ∧ q.ending = true ∧ s.twOn p.toNat = true ∧ (result = 1 ∨ result = 2))
    ∧ (∃ (p : BitVec 2) (result : BitVec 4) (q : TwSeq) (rest : List TwSeq) (s : State), s.unitsOk = true ∧ (s.port2 p.toNat).queue = q
        :: rest ∧ (s.port2 p.toNat).activity = 1 ∧ busResult result = true ∧ s.twOn p.toNat = false)
    ∧ (∃ (p : BitVec 2) (result : BitVec 4) (s : State), (s.port2 p.toNat).queue = [] ∨ (s.port2 p.toNat).activity ≠ 1 ∨ busResult
        result = false)
    ∧ (∃ (rail : BitVec 6) (q : TwSeq) (r : BitVec 2) (k : BitVec 3) (s : State), s.tablesOk = true ∧ s.twEnded.find? (fun e => e.1.rail
        == rail.toNat) = some (q, r) ∧ q.engine = some k.toNat ∧ (s.eng k.toNat).st = .waiting ∧ (s.eng k.toNat).busy = .margin
        rail.toNat ∧ (s.eng k.toNat).pc < lastStep k.toNat)
    ∧ (∃ (rail : BitVec 6) (q : TwSeq) (r : BitVec 2) (key : Bool × Nat) (c : Cmd) (s : State), s.tablesOk = true ∧ s.twEnded.find? (fun
        e => e.1.rail == rail.toNat) = some (q, r) ∧ q.engine = none ∧ q.cmd = some key ∧ s.cmd? key.1 key.2 = some c ∧ c.phase =
        .accepted) :=
  ⟨⟨1, 3, seq, [], (ready.withReg 0xB0040 0x80000010).withPort 1 { queue := [seq], activity := 1, cfg := 0x80000010 }, by decide +kernel⟩,
   ⟨1, 1, 1, seq, [], (ready.withReg 0xB0040 0x80000000).withPort 1 { queue := seq :: ([]), activity := 1, clearPending := false }, by decide +kernel⟩,
   ⟨1, 2, 1, 1, seq, [], (ready.withReg 0xB0040 0x80000000).withPort 1 { queue := seq :: ([]), activity := 1 }, by decide +kernel⟩,
   ⟨1, 2, { seq with ending := true }, [], (ready.withReg 0xB0040 0x80000000).withPort 1 { queue := [{ seq with ending := true }], activity := 1 }, by decide +kernel⟩,
   ⟨1, 2, seq, [], ready.withPort 1 { queue := seq :: ([]), activity := 1 }, by decide +kernel⟩,
   ⟨1, 3, (ready.withReg 0xB0040 0x80000010).withPort 1 { queue := [] }, by decide +kernel⟩,
   ⟨1, { seq with rail := 1, engine := some 1 }, 1, 1, ({ ready with twEnded := [({ seq with rail := 1, engine := some 1 }, 1)] }).withEng 1 { st := .waiting, busy := .margin 1 } 0x0, by decide +kernel⟩,
   ⟨1, { seq with rail := 1, cmd := some (false, 1) }, 1, (false, 1), { cmd with phase := .accepted }, { ready with twEnded := [({ seq with rail := 1, cmd := some (false, 1) }, 1)], port.cmds := [{ cmd with phase := .accepted }] }, by decide +kernel⟩⟩

/-- The hypotheses of each clause of Obligations.TwBusAndRequests can be met. -/
theorem witness_TwBusAndRequests :
    (∃ (p : BitVec 2) (s : State), s.unitsOk = true ∧ s.twOn p.toNat = true ∧ (s.port2 p.toNat).busy = true ∧ ((s.port2
        p.toNat).activity = 0 ∨ (s.port2 p.toNat).activity = 4) ∧ (s.port2 p.toNat).clearPending = false)
    ∧ (∃ (p : BitVec 2) (s : State), s.unitsOk = true ∧ s.twBusy p.toNat = true ∧ (s.port2 p.toNat).activity ≠ 5)
    ∧ (∃ (p : BitVec 2) (s : State), s.unitsOk = true ∧ s.twOn p.toNat = true ∧ ((s.port2 p.toNat).activity = 0 ∨ (s.port2
        p.toNat).activity = 4))
    ∧ (∃ (p : BitVec 2) (s : State), (s.port2 p.toNat).activity = 5)
    ∧ (∃ (p : BitVec 2) (s : State), (s.port2 p.toNat).activity = 1 ∨ (s.port2 p.toNat).activity = 2)
    ∧ (∃ (p : BitVec 2) (s : State), s.unitsOk = true ∧ s.twOn p.toNat = true ∧ (s.port2 p.toNat).activity = 3 ∧ (s.port2
        p.toNat).clearPending = false)
    ∧ (∃ (p : BitVec 2) (s : State), (s.port2 p.toNat).activity ≠ 3)
    ∧ (∃ (p : BitVec 2) (s : State), s.unitsOk = true ∧ s.twOn p.toNat = true ∧ (s.port2 p.toNat).activity = 3 ∧ (s.port2 p.toNat).queue
        = [])
    ∧ (∃ (p : BitVec 2) (q : TwSeq) (rest : List TwSeq) (s : State), s.unitsOk = true ∧ s.twOn p.toNat = true ∧ (s.port2
        p.toNat).activity = 3 ∧ (s.port2 p.toNat).queue = q :: rest)
    ∧ (∃ (p : BitVec 2) (s : State), s.unitsOk = true ∧ s.answers p.toNat = true ∧ (s.port2 p.toNat).activity = 0 ∧ (s.port2
        p.toNat).busy = false)
    ∧ (∃ (p : BitVec 2) (s : State), s.unitsOk = true ∧ s.answers p.toNat = true ∧ (s.port2 p.toNat).activity = 4)
    ∧ (∃ (p : BitVec 2) (addr : BitVec 7) (s : State), s.unitsOk = true ∧ s.twOn p.toNat = true ∧ (s.port2 p.toNat).activity = 2 ∧ 0x08
        ≤ addr.toNat ∧ addr.toNat ≤ 0x77)
    ∧ (∃ (p : BitVec 2) (addr : BitVec 7) (abandoned : Bool) (s : State), s.unitsOk = true ∧ s.twOn p.toNat = true ∧ (s.port2
        p.toNat).activity = 2 ∧ (abandoned = true ∨ addr.toNat < 0x08 ∨ 0x77 < addr.toNat))
    ∧ (∃ (s : State), s.unitsOk = true ∧ s.pm.state.logs = true)
    ∧ (∃ (p : BitVec 2) (s : State), s.unitsOk = true ∧ s.pm.state.logs = true ∧ s.twOn p.toNat = true) :=
  ⟨⟨1, (ready.withReg 0xB0040 0x80000000).withPort 1 { busy := true, activity := 0, clearPending := false }, by decide +kernel⟩,
   ⟨1, ready.withPort 1 { activity := 1 }, by decide +kernel⟩,
   ⟨1, (ready.withReg 0xB0040 0x80000000).withPort 1 { activity := 0 }, by decide +kernel⟩,
   ⟨1, ready.withPort 1 { activity := 5 }, by decide +kernel⟩,
   ⟨1, ready.withPort 1 { activity := 1 }, by decide +kernel⟩,
   ⟨1, (ready.withReg 0xB0040 0x80000000).withPort 1 { activity := 3, clearPending := false }, by decide +kernel⟩,
   ⟨1, ready, by decide +kernel⟩,
   ⟨1, (ready.withReg 0xB0040 0x80000000).withPort 1 { activity := 3, queue := [] }, by decide +kernel⟩,
   ⟨1, seq, [], (ready.withReg 0xB0040 0x80000000).withPort 1 { activity := 3, queue := seq :: ([]) }, by decide +kernel⟩,
   ⟨1, (ready.withReg 0xB0040 0x80000101).withPort 1 { activity := 0, busy := false }, by decide +kernel⟩,
   ⟨1, (ready.withReg 0xB0040 0x80000101).withPort 1 { activity := 4 }, by decide +kernel⟩,
   ⟨1, 0x08, (ready.withReg 0xB0040 0x80000000).withPort 1 { activity := 2 }, by decide +kernel⟩,
   ⟨1, 1, true, (ready.withReg 0xB0040 0x80000000).withPort 1 { activity := 2 }, by decide +kernel⟩,
   ⟨ready, by decide +kernel⟩,
   ⟨1, ready.withReg 0xB0040 0x80000000, by decide +kernel⟩⟩

/-- The hypotheses of each clause of Obligations.Sweeps can be met. -/
theorem witness_Sweeps :
    (∃ (due : Nat) (s : State), s.mg.sweep.cycleDue = some due ∧ s.pm.state = .running ∧ s.mg.sweep.active = false)
    ∧ (∃ (s : State), s.pm.state = .running ∧ s.mg.sweep.active = false)
    ∧ (∃ (s : State), s.pm.state.logs = true ∧ (s.pm.state ≠ .running ∨ s.mg.sweep.active = true))
    ∧ (∃ (n : Nat) (s : State), s.tablesOk = true ∧ s.pm.state.logs = true ∧ s.mg.sweep.active = true ∧ s.mg.sweep.rail = some n)
    ∧ (∃ (s : State), s.pm.state.logs = true ∧ s.mg.sweep.active = true ∧ s.mg.sweep.rail = none)
    ∧ (∃ (n : Nat) (s : State), s.tablesOk = true ∧ s.pm.state = .running ∧ s.mg.sweep.active = true ∧ s.mg.sweep.rail = none ∧
        s.nextSwept = some n ∧ s.sweepSkip n = 0 ∧ (∀ k, k < 4 → (s.coreCmp (4 * n + k)).out = false))
    ∧ (∃ (n : Nat) (s : State), s.tablesOk = true ∧ s.pm.state = .running ∧ s.mg.sweep.active = true ∧ s.mg.sweep.rail = none ∧
        s.nextSwept = some n ∧ s.sweepSkip n = 0 ∧ (∃ k, k < 4 ∧ (s.coreCmp (4 * n + k)).out = true))
    ∧ (∃ (n : Nat) (s : State), s.tablesOk = true ∧ s.pm.state = .running ∧ s.mg.sweep.active = true ∧ s.mg.sweep.rail = none ∧
        s.nextSwept = some n ∧ s.sweepSkip n ≠ 0)
    ∧ (∃ (n : Nat) (s : State), s.unitsOk = true ∧ s.mg.sweep.rail = some n ∧ s.pm.state = .running ∧ s.mg.sweep.sampleDue <
        s.mg.sweep.pointStart + s.sweepDwell n ∧ s.sweepIsEn n = false)
    ∧ (∃ (n : Nat) (s : State), s.unitsOk = true ∧ s.mg.sweep.rail = some n ∧ s.pm.state = .running ∧ s.mg.sweep.sampleDue <
        s.mg.sweep.pointStart + s.sweepDwell n ∧ s.sweepIsEn n = true)
    ∧ (∃ (n : Nat) (s : State), s.tablesOk = true ∧ s.mg.sweep.rail = some n ∧ s.pm.state = .running ∧ s.mg.sweep.point < 4 *
        s.sweepSteps n)
    ∧ (∃ (n : Nat) (s : State), s.tablesOk = true ∧ s.mg.sweep.rail = some n ∧ s.pm.state = .running ∧ 4 * s.sweepSteps n ≤
        s.mg.sweep.point ∧ s.trimWithheld n = false) :=
  ⟨⟨5, { ready with mg.sweep.cycleDue := some 5, pm.state := .running, mg.sweep.active := false }, by decide +kernel⟩,
   ⟨{ ready with pm.state := .running, mg.sweep.active := false }, by decide +kernel⟩,
   ⟨ready, by decide +kernel⟩,
   ⟨5, { ready with mg.sweep.active := true, mg.sweep.rail := some 5 }, by decide +kernel⟩,
   ⟨{ ready with mg.sweep.active := true, mg.sweep.rail := none }, by decide +kernel⟩,
   ⟨0, ((({ ready with pm.state := .running, mg.sweep.active := true, mg.sweep.rail := none, out.en := 1, sense.cmps := [(0, { status := .good, out := false }), (1, { status := .good, out := false }), (2, { status := .good, out := false }), (3, { status := .good, out := false })], sense.readings := [(0, { code := 5096 })], mg.trims := [(0, { level := 0 })] }).withReg 0x20018 0xFFF).withReg 0x2001C 0xFFF).withReg 0x70010 0x80000000, by decide +kernel⟩,
   ⟨0, ((({ ready with pm.state := .running, mg.sweep.active := true, mg.sweep.rail := none, out.en := 1, sense.cmps := [(0, { status := .good }), (1, { status := .good }), (2, { status := .good }), (3, { status := .good, out := true })], sense.readings := [(0, { code := 5096 })], mg.trims := [(0, { level := 0 })] }).withReg 0x20018 0xFFF).withReg 0x2001C 0xFFF).withReg 0x70010 0x80000000, by
      refine ⟨?_, ?_, ?_, ?_, ?_, ?_, 3, ?_, ?_⟩ <;> decide +kernel⟩,
   ⟨63, ({ ready with pm.state := .running, mg.sweep.active := true, mg.sweep.rail := none }).withReg 0x707F0 0x80000000, by decide +kernel⟩,
   ⟨5, { ready with mg.sweep.rail := some 5, pm.state := .running }, by decide +kernel⟩,
   ⟨5, ({ ready with mg.sweep.rail := some 5, pm.state := .running }).withReg 0x700B4 0x8000, by decide +kernel⟩,
   ⟨5, { ready with mg.sweep.rail := some 5, pm.state := .running }, by decide +kernel⟩,
   ⟨5, { ready with mg.sweep.rail := some 5, pm.state := .running, mg.sweep.point := 64 }, by decide +kernel⟩⟩

/-- The hypotheses of each clause of Obligations.ShardsWritten can be met. -/
theorem witness_ShardsWritten :
    (∃ (s : State), s.pm.state.logs = true ∧ s.snapTicks ≠ 0 ∧ s.log.buffer.length < 32)
    ∧ (∃ (s : State), s.pm.state.logs = true ∧ s.snapTicks ≠ 0 ∧ 32 ≤ s.log.buffer.length)
    ∧ (∃ (x : Shard) (rest : List Shard) (s : State), s.tablesOk = true ∧ s.pm.state.logs = true ∧ s.log.tornFa = none ∧ s.log.buffer =
        x :: rest ∧ x.kind ≠ 8)
    ∧ (∃ (x : Shard) (s : State), s.tablesOk = true ∧ s.pm.state.logs = true ∧ s.log.tornFa = some x ∧ x.kind = 8)
    ∧ (∃ (x : Shard) (rest : List Shard) (s : State), s.tablesOk = true ∧ s.pm.state.logs = true ∧ s.log.tornFa = none ∧ s.log.buffer =
        x :: rest ∧ x.kind = 8)
    ∧ (∃ (s : State), s.pm.state.logs = false ∨ (s.log.tornFa = none ∧ s.log.buffer = []))
    ∧ (∃ (s : State), s.pm.state.logs = false ∨ s.snapTicks = 0) :=
  ⟨⟨ready, by decide +kernel⟩,
   ⟨{ ready with log.buffer := List.replicate 32 shard }, by decide +kernel⟩,
   ⟨shard, [], { ready with log.tornFa := none, log.buffer := shard :: ([]) }, by decide +kernel⟩,
   ⟨{ shard with kind := 8 }, { ready with log.tornFa := some { shard with kind := 8 } }, by decide +kernel⟩,
   ⟨{ shard with kind := 8 }, [], { ready with log.buffer := [{ shard with kind := 8 }] }, by decide +kernel⟩,
   ⟨ready, by decide +kernel⟩,
   ⟨starting, by decide +kernel⟩⟩

/-- The hypotheses of each clause of Obligations.ArchiveAndScrub can be met. -/
theorem witness_ArchiveAndScrub :
    (∃ (c : Copy) (rest : List Copy) (y : Stored) (s : State), s.tablesOk = true ∧ s.pm.state.logs = true ∧ s.log.tornFa = none ∧
        s.log.copies = c :: rest ∧ c.why ≠ .shard ∧ s.frRead c.origin = some y ∧ 0 < s.freeCount)
    ∧ (∃ (c : Copy) (rest : List Copy) (s : State), s.pm.state.logs = true ∧ s.log.tornFa = none ∧ s.log.copies = c :: rest ∧ c.why ≠
        .shard ∧ s.frShard c.origin = none)
    ∧ (∃ (c : Copy) (rest : List Copy) (e : Nat × Stored) (s : State), s.pm.state.logs = true ∧ s.log.tornFa = none ∧ s.log.copies = c
        :: rest ∧ c.why ≠ .shard ∧ s.frPlace c.origin = some e ∧ s.log.uncorrectable ≤ 255)
    ∧ (∃ (s : State), s.pm.state.logs = false ∨ s.log.tornFa.isSome = true ∨ s.log.copies = [])
    ∧ (∃ (s : State), s.pm.state.logs = true)
    ∧ (∃ (s : State), s.pm.state.logs = true)
    ∧ (∃ (s : State), s.pm.state.logs = true)
    ∧ (∃ (s : State), s.pm.state.logs = false) :=
  ⟨⟨{ origin := 0, why := .kind }, [], ⟨shard, 0, none, 0, 0⟩, { ready with log.tornFa := none, log.copies := [{ origin := 0, why := .kind }], log.fr := { next := 1, pos := 1, slots := [(0, .good ⟨shard, 0, none, 0, 0⟩)] } }, by decide +kernel⟩,
   ⟨{ origin := 0, why := .kind }, [], { ready with log.tornFa := none, log.copies := ({ origin := 0, why := .kind }) :: ([]) }, by decide +kernel⟩,
   ⟨{ origin := 0, why := .kind }, [], (0, ⟨shard, 0, none, 0, 0⟩), { ready with log.tornFa := none, log.copies := [{ origin := 0, why := .kind }], log.fr := { next := 1, pos := 1, slots := [(0, .good ⟨shard, 0, none, 0, 0⟩)] } }, by decide +kernel⟩,
   ⟨ready, by decide +kernel⟩,
   ⟨ready, by decide +kernel⟩,
   ⟨ready, by decide +kernel⟩,
   ⟨ready, by decide +kernel⟩,
   ⟨starting, by decide +kernel⟩⟩

/-- The hypotheses of each clause of Obligations.SpiTransactions can be met. -/
theorem witness_SpiTransactions :
    (∃ (s : State), s.listens = true ∧ s.spirdy = false)
    ∧ (∃ (bytes : List Byte) (s : State), s.listens = true ∧ s.spirdy = true ∧ AcceptedHere bytes s ∧ (spiCmd bytes).cls = 0)
    ∧ (∃ (bytes : List Byte) (s : State), s.listens = true ∧ s.spirdy = true ∧ AcceptedHere bytes s ∧ (spiCmd bytes).cls ≠ 0)
    ∧ (∃ (bytes : List Byte) (s : State), s.listens = true ∧ s.spirdy = true ∧ 32 ≤ bytes.length ∧ hdIntact (bytes.take 32) = false)
    ∧ (∃ (count : Nat) (r : Reply) (rest : List Reply) (s : State), s.listens = true ∧ s.port.replies = r :: rest ∧ r.bytes.length ≤
        count ∧ r.reset = false)
    ∧ (∃ (count : Nat) (r : Reply) (rest : List Reply) (s : State), s.listens = true ∧ s.port.replies = r :: rest ∧ count <
        r.bytes.length)
    ∧ (∃ (s : State), s.listens = true ∧ s.port.replies = [])
    ∧ (∃ (due count : Nat) (r : Reply) (rest : List Reply) (s : State), s.listens = true ∧ s.port.replies = r :: rest ∧ r.bytes.length ≤
        count ∧ s.pm.resetDue = some due ∧ r.reset = true)
    ∧ (∃ (s : State), s.listens = true)
    ∧ (∃ (code : Byte) (s : State), s.listens = true ∧ code ≠ 0xA1 ∧ code ≠ 0xA2 ∧ code ≠ 0xA3)
    ∧ (∃ (s : State), s.listens = false) :=
  ⟨⟨starting, by decide +kernel⟩,
   ⟨packet 0x00 1 0 0 0 0 [] [], ready, by unfold AcceptedHere; decide +kernel⟩,
   ⟨packet 0x41 1 1 1 7 0 [] edBlock, { ready with sec.owned := true }, by unfold AcceptedHere; decide +kernel⟩,
   ⟨List.replicate 32 0, ready, by decide +kernel⟩,
   ⟨5, ⟨false, 1, [], false, false⟩, [], { ready with port.replies := (⟨false, 1, [], false, false⟩) :: ([]) }, by decide +kernel⟩,
   ⟨0, ⟨false, 1, [7], false, false⟩, [], { ready with port.replies := [⟨false, 1, [7], false, false⟩] }, by decide +kernel⟩,
   ⟨{ ready with port.replies := [] }, by decide +kernel⟩,
   ⟨5, 5, ⟨false, 1, [7], false, true⟩, [], { ready with port.replies := [⟨false, 1, [7], false, true⟩], pm.resetDue := some 5 }, by decide +kernel⟩,
   ⟨ready, by decide +kernel⟩,
   ⟨1, ready, by decide +kernel⟩,
   ⟨{ ready with pm.state := .off }, by decide +kernel⟩⟩

/-- The hypotheses of each clause of Obligations.Verification can be met. -/
theorem witness_Verification :
    (∃ (ring : Bool) (tag : BitVec 7) (c : Cmd) (s : State), s.cmd? ring tag.toNat = some c ∧ c.phase = .verifying ∧ s.pm.cryptoHeld =
        false ∧ s.port.cmds.filter (fun d => d.ring == ring && d.before5) = [c] ∧ s.stage5 { c with bad := !(s.failedSlots
        c).isEmpty } = none ∧ c.op ≠ 0xC0)
    ∧ (∃ (ring : Bool) (tag : BitVec 7) (c : Cmd) (s : State), s.cmd? ring tag.toNat = some c ∧ c.phase = .verifying ∧ s.pm.cryptoHeld =
        false ∧ s.port.cmds.filter (fun d => d.ring == ring && d.before5) = [c] ∧ s.stage5 { c with bad := !(s.failedSlots
        c).isEmpty } = none ∧ c.op = 0xC0)
    ∧ (∃ (ring : Bool) (tag : BitVec 7) (c : Cmd) (st : Nat) (s : State), s.cmd? ring tag.toNat = some c ∧ c.phase = .verifying ∧
        s.pm.cryptoHeld = false ∧ s.port.cmds.filter (fun d => d.ring == ring && d.before5) = [c] ∧ s.stage5 { c with bad :=
        !(s.failedSlots c).isEmpty } = some st)
    ∧ (∃ (ring : Bool) (tag : BitVec 7) (c d : Cmd) (s : State), s.cmd? ring tag.toNat = some c ∧ c.phase = .verifying ∧ s.pm.cryptoHeld
        = false ∧ s.port.cmds.find? (fun x => x.ring == ring && x.before5) = some d ∧ d.tag ≠ c.tag ∧ d.phase ≠ .counting)
    ∧ (∃ (s : State), s.pm.cryptoHeld = true)
    ∧ (∃ (ring : Bool) (tag : BitVec 7) (c : Cmd) (due : Nat) (s : State), s.cmd? ring tag.toNat = some c ∧ c.phase = .parts ∧ c.partDue
        = some due ∧ s.port.cmds.filter (fun d => d.ring == ring && d.before5) = [c])
    ∧ (∃ (ring : Bool) (tag : BitVec 7) (s : State), s.cmd? ring tag.toNat = none) :=
  ⟨⟨false, 1, { cmd with phase := .verifying, op := 0x41, cls := 1, signers := 1, counter := 1 }, { ready with pm.cryptoHeld := false, sec.slots := [{ filled := true, role := 7 }, {}, {}, {}, {}, {}, {}, {}], port.cmds := [{ cmd with phase := .verifying, op := 0x41, cls := 1, signers := 1, counter := 1 }] }, by decide +kernel⟩,
   ⟨false, 1, { cmd with phase := .verifying, op := 0xC0, cls := 3, signers := 1, counter := 1 }, { ready with port.cmds := [{ cmd with phase := .verifying, op := 0xC0, cls := 3, signers := 1, counter := 1 }] }, by decide +kernel⟩,
   ⟨false, 1, { cmd with phase := .verifying, malformed := true }, 0x21, { ready with pm.cryptoHeld := false, port.cmds := [{ cmd with phase := .verifying, malformed := true }] }, by decide +kernel⟩,
   ⟨false, 1, { cmd with phase := .verifying }, { cmd with tag := 2, phase := .verifying }, { ready with pm.cryptoHeld := false, port.cmds := [{ cmd with tag := 2, phase := .verifying }, { cmd with phase := .verifying }] }, by decide +kernel⟩,
   ⟨{ ready with pm.cryptoHeld := true }, by decide +kernel⟩,
   ⟨false, 1, { cmd with phase := .parts, partDue := some 5 }, 5, { ready with port.cmds := [{ cmd with phase := .parts, partDue := some 5 }] }, by decide +kernel⟩,
   ⟨true, 1, ready, by decide +kernel⟩⟩

/-- The hypotheses of each clause of Obligations.RepliesAndReset can be met. -/
theorem witness_RepliesAndReset :
    (∃ (tag : BitVec 7) (u : Unsigned) (s : State), s.port.signing = [u] ∧ u.cmd.ring = false ∧ u.cmd.tag = tag.toNat ∧ s.port.waiting
        = [] ∧ s.port.fits (s.replyTo u.cmd u.status.toNat u.payload).length = true ∧ resets u.cmd.op u.status.toNat u.payload =
        false)
    ∧ (∃ (tag : BitVec 7) (u : Unsigned) (s : State), s.port.signing = [u] ∧ u.cmd.ring = true ∧ u.cmd.tag = tag.toNat ∧ resets u.cmd.op
        u.status.toNat u.payload = false)
    ∧ (∃ (tag : BitVec 7) (u : Unsigned) (due : Nat) (s : State), s.port.signing = [u] ∧ u.cmd.ring = false ∧ u.cmd.tag = tag.toNat ∧
        s.port.waiting = [] ∧ s.port.fits (s.replyTo u.cmd u.status.toNat u.payload).length = true ∧ u.cmd.op = 0x45 ∧ u.status =
        0 ∧ s.pm.resetDue = some due)
    ∧ (∃ (s : State), s.port.signing = [])
    ∧ (∃ (r : Reply) (rest : List Reply) (s : State), s.port.waiting = r :: rest ∧ r.keeps = false ∧ r.tag ≠ 127 ∧ (s.dropCmd r.ring
        r.tag).port.fits r.bytes.length = true ∧ r.reset = false)
    ∧ (∃ (r : Reply) (rest : List Reply) (s : State), s.port.waiting = r :: rest ∧ r.keeps = false ∧ r.tag ≠ 127 ∧ (s.dropCmd r.ring
        r.tag).port.fits r.bytes.length = false)
    ∧ (∃ (s : State), s.port.waiting = [])
    ∧ (∃ (tag : BitVec 7) (f : Fwd) (c : Cmd) (s : State), s.port.fwds.find? (fun f => f.tag == tag.toNat) = some f ∧ s.cmd? false
        tag.toNat = some c ∧ c.bcast = false)
    ∧ (∃ (due : Nat) (s : State), s.pm.resetDue = some due ∧ s.resetUnsaid = false ∧ s.pm.state = .ready)
    ∧ (∃ (due : Nat) (s : State), s.pm.resetDue = some due ∧ s.resetUnsaid = false ∧ s.pm.state = .cooling)
    ∧ (∃ (s : State), s.pm.resetDue = none ∨ s.resetUnsaid = true)
    ∧ (∃ (tag : BitVec 7) (s : State), s.port.fwds.find? (fun f => f.tag == tag.toNat) = none) :=
  ⟨⟨1, ⟨cmd, 0, []⟩, { ready with port.signing := [(⟨cmd, 0, []⟩)], port.waiting := [] }, by decide +kernel⟩,
   ⟨1, ⟨{ cmd with ring := true }, 0, []⟩, { ready with port.signing := [⟨{ cmd with ring := true }, 0, []⟩] }, by decide +kernel⟩,
   ⟨1, ⟨{ cmd with op := 0x45 }, 0, []⟩, 5, { ready with port.signing := [⟨{ cmd with op := 0x45 }, 0, []⟩], pm.resetDue := some 5 }, by decide +kernel⟩,
   ⟨ready, by decide +kernel⟩,
   ⟨⟨false, 1, [], false, false⟩, [], { ready with port.waiting := (⟨false, 1, [], false, false⟩) :: ([]) }, by decide +kernel⟩,
   ⟨⟨false, 1, List.replicate 49 0, false, false⟩, [], { ready with port.waiting := [⟨false, 1, List.replicate 49 0, false, false⟩], port.replies := List.replicate 2731 ⟨false, 2, List.replicate 48 0, false, false⟩ }, by decide +kernel⟩,
   ⟨{ ready with port.waiting := [] }, by decide +kernel⟩,
   ⟨1, ⟨1, 3, 9, cmd⟩, { cmd with bcast := false }, { ready with port.fwds := [⟨1, 3, 9, cmd⟩], port.cmds := [{ cmd with bcast := false }] }, by decide +kernel⟩,
   ⟨5, { ready with pm.resetDue := some 5, pm.state := .ready }, by decide +kernel⟩,
   ⟨5, { ready with pm.resetDue := some 5, pm.state := .cooling }, by decide +kernel⟩,
   ⟨{ ready with pm.resetDue := none }, by decide +kernel⟩,
   ⟨1, ready, by decide +kernel⟩⟩

/-- The hypotheses of each clause of Obligations.ClassZeroCommands can be met. -/
theorem witness_ClassZeroCommands :
    (∃ (c : Cmd) (s : State), Runs 0x00 c s)
    ∧ (∃ (c : Cmd) (s : State), Runs 0x01 c s)
    ∧ (∃ (c : Cmd) (s : State), Runs 0x02 c s ∧ (∀ i, i < leAt c.payload 4 2 → leAt c.payload 0 4 + 4 * i ≠ 0xC0010 ∧ leAt c.payload 0 4
        + 4 * i ≠ 0xC0014) ∧ leAt c.payload 0 4 % 4 = 0)
    ∧ (∃ (c : Cmd) (s : State), Runs 0x02 c s ∧ leAt c.payload 0 4 = 0xC0010 ∧ leAt c.payload 4 2 = 2)
    ∧ (∃ (c : Cmd) (s : State), Runs 0x03 c s ∧ (byteAt c.payload 0 = 1 ∨ byteAt c.payload 0 = 2))
    ∧ (∃ (c : Cmd) (s : State), Runs 0x03 c s ∧ byteAt c.payload 0 = 3)
    ∧ (∃ (c : Cmd) (s : State), Runs 0x03 c s ∧ 1 ≤ leAt c.payload 8 2 ∧ s.log.responds = true)
    ∧ (∃ (c : Cmd) (s : State), Runs 0x03 c s ∧ 1 ≤ leAt c.payload 8 2 ∧ s.log.responds = true ∧ (byteAt c.payload 0 = 1 ∨ byteAt
        c.payload 0 = 2) ∧ leAt c.payload 4 4 < logSize (byteAt c.payload 0))
    ∧ (∃ (c : Cmd) (s : State), Runs 0x04 c s)
    ∧ (∃ (c : Cmd) (s : State), Runs 0x05 c s)
    ∧ (∃ (c : Cmd) (s : State), Runs 0x06 c s)
    ∧ (∃ (c : Cmd) (s : State), Runs 0x20 c s)
    ∧ (∃ (c : Cmd) (s : State), Runs 0x21 c s)
    ∧ (∃ (c : Cmd) (n : Nat) (s : State), Runs 0x22 c s ∧ byteAt c.payload 0 = n ∧ n < 64 ∧ (s.reading n).valid = true)
    ∧ (∃ (c : Cmd) (n : Nat) (s : State), Runs 0x22 c s ∧ byteAt c.payload 0 = n ∧ n < 64 ∧ (s.reading n).valid = false)
    ∧ (∃ (c : Cmd) (s : State), Runs 0x31 c s)
    ∧ (∃ (i : Instr) (op : Nat) (b : Confirm) (l : List BlockRead) (c : Cmd) (s : State), (i, op) ∈ [(Instr.nopCmd, 0x00), (.identify,
        0x01), (.readRegs, 0x02), (.logRead l, 0x03), (.getCert, 0x04), (.timeRead, 0x05), (.queueStatus, 0x06), (.skv1200Id,
        0x20), (.skv1200Status, 0x21), (.skv1200Rail, 0x22), (.skv1200FirstFault, 0x31), (.onCmd, 0x40), (.offCmd, 0x41),
        (.clearCmd, 0x42), (.marginCmd, 0x43), (.standbyCmd, 0x44), (.resetCmd, 0x45), (.drainCmd, 0x46), (.timeSet, 0x47),
        (.writeRegsClass1 b, 0x48), (.programLoad b, 0x80), (.tableLoad b, 0x81), (.bisqueClear, 0x82), (.writeRegsClass2 b,
        0x88)] ∧ s.headOp op = some c ∧ s.pm.resetDue ≠ none ∧ c.bcast = false) :=
  ⟨⟨{ cmd with op := 0x00 }, ready.toRun { cmd with op := 0x00 }, by unfold Runs; decide +kernel⟩,
   ⟨{ cmd with op := 0x01 }, ready.toRun { cmd with op := 0x01 }, by unfold Runs; decide +kernel⟩,
   ⟨{ cmd with op := 0x02 }, ready.toRun { cmd with op := 0x02 }, by unfold Runs; decide +kernel⟩,
   ⟨{ cmd with op := 0x02, payload := [16, 0, 12, 0, 2, 0] }, ready.toRun { cmd with op := 0x02, payload := [16, 0, 12, 0, 2, 0] }, by unfold Runs; decide +kernel⟩,
   ⟨{ cmd with op := 0x03, payload := [1] }, ready.toRun { cmd with op := 0x03, payload := [1] }, by unfold Runs; decide +kernel⟩,
   ⟨{ cmd with op := 0x03, payload := [3] }, ready.toRun { cmd with op := 0x03, payload := [3] }, by unfold Runs; decide +kernel⟩,
   ⟨{ cmd with op := 0x03, payload := [1, 0, 0, 0, 0, 0, 0, 0, 1, 0] }, ({ ready with log.responds := true } : State).toRun { cmd with op := 0x03, payload := [1, 0, 0, 0, 0, 0, 0, 0, 1, 0] }, by unfold Runs; decide +kernel⟩,
   ⟨{ cmd with op := 0x03, payload := [1, 0, 0, 0, 0, 0, 0, 0, 1, 0] }, ({ ready with log.responds := true } : State).toRun { cmd with op := 0x03, payload := [1, 0, 0, 0, 0, 0, 0, 0, 1, 0] }, by unfold Runs; decide +kernel⟩,
   ⟨{ cmd with op := 0x04 }, ready.toRun { cmd with op := 0x04 }, by unfold Runs; decide +kernel⟩,
   ⟨{ cmd with op := 0x05 }, ready.toRun { cmd with op := 0x05 }, by unfold Runs; decide +kernel⟩,
   ⟨{ cmd with op := 0x06 }, ready.toRun { cmd with op := 0x06 }, by unfold Runs; decide +kernel⟩,
   ⟨{ cmd with op := 0x20 }, ready.toRun { cmd with op := 0x20 }, by unfold Runs; decide +kernel⟩,
   ⟨{ cmd with op := 0x21 }, ready.toRun { cmd with op := 0x21 }, by unfold Runs; decide +kernel⟩,
   ⟨{ cmd with op := 0x22, payload := [63] }, 63, ({ ready with sense.readings := [(63, { valid := true })] }).toRun { cmd with op := 0x22, payload := [63] }, by unfold Runs; decide +kernel⟩,
   ⟨{ cmd with op := 0x22, payload := [63] }, 63, ready.toRun { cmd with op := 0x22, payload := [63] }, by unfold Runs; decide +kernel⟩,
   ⟨{ cmd with op := 0x31 }, ready.toRun { cmd with op := 0x31 }, by unfold Runs; decide +kernel⟩,
   ⟨.nopCmd, 0, lines, [], cmd, ({ ready with pm.resetDue := some 5 } : State).toRun cmd, by decide +kernel⟩⟩

/-- The hypotheses of each clause of Obligations.OnAndOff can be met. -/
theorem witness_OnAndOff :
    (∃ (c : Cmd) (s : State), Runs 0x40 c s ∧ s.onJoins = none ∧ s.mayFire = true ∧ s.twin.hand.holds = false)
    ∧ (∃ (c : Cmd) (s : State), Runs 0x40 c s ∧ s.onJoins = none ∧ (s.pm.state = .ready ∨ s.pm.state = .cooling) ∧ s.pm.faultLatch =
        false ∧ s.mayFire = false ∧ s.twin.hand.holds = false ∧ s.discardPending = false)
    ∧ (∃ (c : Cmd) (s : State), Runs 0x40 c s ∧ (s.pm.state = .ready ∨ s.pm.state = .cooling) ∧ s.pm.faultLatch = false ∧ s.mayFire =
        false ∧ s.twin.hand.holds = false ∧ s.discardPending = true)
    ∧ (∃ (c : Cmd) (s : State), Runs 0x40 c s ∧ s.onJoins = none ∧ (s.pm.state = .ready ∨ s.pm.state = .cooling) ∧ s.pm.faultLatch =
        false ∧ s.twin.hand.holds = true)
    ∧ (∃ (c : Cmd) (s : State), Runs 0x40 c s ∧ s.onFired = true)
    ∧ (∃ (c : Cmd) (s : State), Runs 0x40 c s ∧ s.onFired = false ∧ (s.pm.faultLatch = true ∨ (s.pm.state ≠ .ready ∧ s.pm.state ≠
        .cooling)))
    ∧ (∃ (c : Cmd) (s : State), Runs 0x41 c s ∧ (s.pm.state = .firing ∨ s.pm.state = .running))
    ∧ (∃ (c : Cmd) (s : State), Runs 0x41 c s ∧ (s.pm.state = .ready ∨ s.pm.state = .cooling) ∧ s.twin.hand = .none)
    ∧ (∃ (c : Cmd) (s : State), Runs 0x41 c s ∧ s.pm.state ≠ .ready ∧ s.pm.state ≠ .cooling ∧ s.pm.state ≠ .firing ∧ s.pm.state ≠
        .running) :=
  ⟨⟨{ cmd with op := 0x40 }, ready.toRun { cmd with op := 0x40 }, by unfold Runs; decide +kernel⟩,
   ⟨{ cmd with op := 0x40 }, ({ ready with pm.offMinDue := some 5 } : State).toRun { cmd with op := 0x40 }, by unfold Runs; decide +kernel⟩,
   ⟨{ cmd with op := 0x40 }, (({ ready with pm.offMinDue := some 5 } : State).withReg 0x60000 8).toRun { cmd with op := 0x40 }, by unfold Runs; decide +kernel⟩,
   ⟨{ cmd with op := 0x40 }, ({ ready with twin.hand := .sSync 9 } : State).toRun { cmd with op := 0x40 }, by unfold Runs; decide +kernel⟩,
   ⟨{ cmd with op := 0x40 }, ({ ready with pm.state := .firing, ctl.lastOn := some (0, 0x10) } : State).toRun { cmd with op := 0x40 }, by unfold Runs; decide +kernel⟩,
   ⟨{ cmd with op := 0x40 }, ({ ready with pm.faultLatch := true }).toRun { cmd with op := 0x40 }, by unfold Runs; decide +kernel⟩,
   ⟨{ cmd with op := 0x41 }, ({ ready with pm.state := .firing }).toRun { cmd with op := 0x41 }, by unfold Runs; decide +kernel⟩,
   ⟨{ cmd with op := 0x41 }, ({ ready with pm.state := .ready, twin.hand := .none }).toRun { cmd with op := 0x41 }, by unfold Runs; decide +kernel⟩,
   ⟨{ cmd with op := 0x41 }, ({ ready with pm.state := .standby } : State).toRun { cmd with op := 0x41 }, by unfold Runs; decide +kernel⟩⟩

/-- The hypotheses of each clause of Obligations.ClearCommand can be met. -/
theorem witness_ClearCommand :
    (∃ (c : Cmd) (s : State), Runs 0x42 c s ∧ s.pm.state = .ready ∧ s.tripPersists = false ∧ (s.onreqEn = false ∨ s.inp.onreq =
        false))
    ∧ (∃ (c : Cmd) (s : State), Runs 0x42 c s ∧ s.pm.state = .ready ∧ s.tripPersists = false ∧ s.onreqEn = true ∧ s.inp.onreq = true ∧
        s.onJoins = none ∧ s.pm.offMinDue = none ∧ s.out.passive = false ∧ s.twin.hand.holds = false)
    ∧ (∃ (c : Cmd) (s : State), Runs 0x42 c s ∧ s.pm.state = .ready ∧ s.tripPersists = false ∧ s.onreqEn = true ∧ s.inp.onreq = true ∧
        s.onJoins = none ∧ s.pm.offMinDue ≠ none ∧ s.twin.hand.holds = false)
    ∧ (∃ (c : Cmd) (s : State), Runs 0x42 c s ∧ s.pm.state = .ready ∧ s.tripPersists = true)
    ∧ (∃ (c : Cmd) (s : State), Runs 0x42 c s ∧ s.pm.state ≠ .ready) :=
  ⟨⟨{ cmd with op := 0x42 }, ({ ready with pm.state := .ready }).toRun { cmd with op := 0x42 }, by unfold Runs; decide +kernel⟩,
   ⟨{ cmd with op := 0x42 }, (({ ready with pm.state := .ready, inp.onreq := true, pm.offMinDue := none, out.passive := false }).withReg 0x60000 0x2).toRun { cmd with op := 0x42 }, by unfold Runs; decide +kernel⟩,
   ⟨{ cmd with op := 0x42 }, (({ ready with inp.onreq := true, pm.offMinDue := some 5 } : State).withReg 0x60000 2).toRun { cmd with op := 0x42 }, by unfold Runs; decide +kernel⟩,
   ⟨{ cmd with op := 0x42 }, (({ ready with pm.state := .ready, inp.tripi := 1 }).withReg 0x60084 0x20).toRun { cmd with op := 0x42 }, by unfold Runs; decide +kernel⟩,
   ⟨{ cmd with op := 0x42 }, ({ ready with pm.state := .firing }).toRun { cmd with op := 0x42 }, by unfold Runs; decide +kernel⟩⟩

/-- The hypotheses of each clause of Obligations.ClassOneCommands can be met. -/
theorem witness_ClassOneCommands :
    (∃ (c : Cmd) (n level : Nat) (s : State), s.tablesOk = true ∧ Runs 0x43 c s ∧ s.pm.state = .running ∧ byteAt c.payload 0 = n ∧
        byteAt c.payload 1 = level ∧ level ≤ 2 ∧ byteAt c.payload 2 = 0 ∧ s.mg.sweep.rail ≠ some n)
    ∧ (∃ (c : Cmd) (n : Nat) (s : State), s.unitsOk = true ∧ Runs 0x43 c s ∧ s.pm.state = .running ∧ byteAt c.payload 0 = n ∧ byteAt
        c.payload 2 = 1 ∧ s.mg.sweep.rail ≠ some n ∧ (s.port2 (s.pmbPort n)).commands < 4 ∧ s.seqBlocked n = none)
    ∧ (∃ (c : Cmd) (n : Nat) (s : State), Runs 0x43 c s ∧ s.pm.state = .running ∧ byteAt c.payload 0 = n ∧ byteAt c.payload 2 = 1 ∧
        s.mg.sweep.rail ≠ some n ∧ 4 ≤ (s.port2 (s.pmbPort n)).commands)
    ∧ (∃ (c : Cmd) (n : Nat) (s : State), Runs 0x43 c s ∧ s.pm.state = .running ∧ byteAt c.payload 0 = n ∧ byteAt c.payload 2 = 1 ∧
        s.mg.sweep.rail ≠ some n ∧ (s.port2 (s.pmbPort n)).commands < 4 ∧ s.seqBlocked n ≠ none)
    ∧ (∃ (c : Cmd) (s : State), Runs 0x43 c s ∧ (s.pm.state ≠ .running ∨ s.mg.sweep.rail = some (byteAt c.payload 0)))
    ∧ (∃ (c : Cmd) (v : Nat) (s : State), Runs 0x47 c s ∧ leAt c.payload 0 8 = v ∧ s.pm.state.logs = true ∧ s.clk.stamp ≤ v)
    ∧ (∃ (c : Cmd) (s : State), Runs 0x47 c s ∧ (s.pm.state.logs = false ∨ leAt c.payload 0 8 < s.clk.stamp))
    ∧ (∃ (c : Cmd) (s : State), Runs 0x44 c s ∧ s.mayStandby c = true ∧ (∀ x ∈ s.heldOuts, s.armed x = false))
    ∧ (∃ (c : Cmd) (s : State), Runs 0x44 c s ∧ s.mayStandby c = false)
    ∧ (∃ (c : Cmd) (s : State), Runs 0x45 c s ∧ s.pm.state = .ready)
    ∧ (∃ (c : Cmd) (s : State), Runs 0x45 c s ∧ s.pm.state ≠ .ready) :=
  ⟨⟨{ cmd with op := 0x43, payload := [0, 2, 0] }, 0, 2, ({ ready with pm.state := .running }).toRun { cmd with op := 0x43, payload := [0, 2, 0] }, by unfold Runs; decide +kernel⟩,
   ⟨{ cmd with op := 0x43, payload := [0, 0, 1] }, 0, ((({ ready with pm.state := .running }).withReg 0x7000C 0x80000000).withReg 0xB0000 0x80000000).toRun { cmd with op := 0x43, payload := [0, 0, 1] }, by unfold Runs; decide +kernel⟩,
   ⟨{ cmd with op := 0x43, payload := [0, 0, 1] }, 0, ({ ready with pm.state := .running, tw := [{ queue := List.replicate 4 { seq with cmd := some (false, 2) } }, {}, {}, {}] }).toRun { cmd with op := 0x43, payload := [0, 0, 1] }, by unfold Runs; decide +kernel⟩,
   ⟨{ cmd with op := 0x43, payload := [0, 0, 1] }, 0, (({ ready with pm.state := .running } : State).withReg 0x7000C 0x80000000).toRun { cmd with op := 0x43, payload := [0, 0, 1] }, by unfold Runs; decide +kernel⟩,
   ⟨{ cmd with op := 0x43 }, ready.toRun { cmd with op := 0x43 }, by unfold Runs; decide +kernel⟩,
   ⟨{ cmd with op := 0x47, payload := [5] }, 5, ready.toRun { cmd with op := 0x47, payload := [5] }, by unfold Runs; decide +kernel⟩,
   ⟨{ cmd with op := 0x47 }, ({ ready with clk.stamp := 1 }).toRun { cmd with op := 0x47 }, by unfold Runs; decide +kernel⟩,
   ⟨{ cmd with op := 0x44 }, ready.toRun { cmd with op := 0x44 }, by unfold Runs; decide +kernel⟩,
   ⟨{ cmd with op := 0x44 }, ({ ready with pm.state := .running }).toRun { cmd with op := 0x44 }, by unfold Runs; decide +kernel⟩,
   ⟨{ cmd with op := 0x45 }, ({ ready with pm.state := .ready }).toRun { cmd with op := 0x45 }, by unfold Runs; decide +kernel⟩,
   ⟨{ cmd with op := 0x45 }, ({ ready with pm.state := .running }).toRun { cmd with op := 0x45 }, by unfold Runs; decide +kernel⟩⟩

/-- The hypotheses of each clause of Obligations.DrainCommand can be met. -/
theorem witness_DrainCommand :
    (∃ (c : Cmd) (n : Nat) (s : State), Runs 0x46 c s ∧ leAt c.payload 0 8 = n ∧ s.pm.state.logs = true ∧ s.log.drained ≤ n ∧ n ≤
        s.log.fa.next ∧ (∀ e ∈ s.log.index, e.2.open_ = true → ∀ q, e.2.first = some q → n ≤ q))
    ∧ (∃ (c : Cmd) (s : State), Runs 0x46 c s ∧ (s.pm.state.logs = false ∨ leAt c.payload 0 8 < s.log.drained ∨ s.log.fa.next < leAt
        c.payload 0 8 ∨ ∃ e ∈ s.log.index, e.2.open_ = true ∧ ∃ q, e.2.first = some q ∧ q < leAt c.payload 0 8)) :=
  ⟨⟨{ cmd with op := 0x46 }, 0, ready.toRun { cmd with op := 0x46 }, by unfold Runs; decide +kernel⟩,
   ⟨{ cmd with op := 0x46, payload := [1] }, ready.toRun { cmd with op := 0x46, payload := [1] }, by unfold Runs; decide +kernel⟩⟩

/-- The hypotheses of each clause of Obligations.WordsByCommand can be met. -/
theorem witness_WordsByCommand :
    (∃ (b : Confirm) (i : Instr) (op : Nat) (k : Carrier) (c : Cmd) (st : Nat) (s : State), (i, op, k) ∈ wordRows b ∧ Runs op c s ∧
        Allowed3 op c s ∧ s.judgeWords k (payWords c.payload) = some st)
    ∧ (∃ (b : Confirm) (i : Instr) (op : Nat) (k : Carrier) (c : Cmd) (s : State), (i, op, k) ∈ wordRows b ∧ Runs op c s ∧ Allowed3 op c
        s ∧ s.judgeWords k (payWords c.payload) = none ∧ (changedCfg (s.writeAll (payWords c.payload)).2 = true → s.confirms c b =
        true))
    ∧ (∃ (b : Confirm) (i : Instr) (op : Nat) (k : Carrier) (c : Cmd) (xs ys : List (Nat × Word)) (a : Nat) (v : Word) (r : Reg) (s :
        State), (i, op, k) ∈ wordRows b ∧ Runs op c s ∧ Allowed3 op c s ∧ s.cfgLoaded = true ∧ s.sgLoaded = true ∧ s.judgeWords k
        (payWords c.payload) = none ∧ (changedCfg (s.writeAll (payWords c.payload)).2 = true → s.confirms c b = true) ∧ payWords
        c.payload = xs ++ (a, v) :: ys ∧ regAt a = some r ∧ r.row.keep ≠ .view ∧ r.row.id ≠ .pwChShadow ∧ (∀ w ∈ ys, regAt w.1 ≠
        some r))
    ∧ (∃ (b : Confirm) (i : Instr) (op : Nat) (k : Carrier) (c : Cmd) (s : State), (i, op, k) ∈ wordRows b ∧ Runs op c s ∧ Allowed3 op c
        s ∧ s.judgeWords k (payWords c.payload) = none ∧ changedCfg (s.writeAll (payWords c.payload)).2 = true ∧ s.confirms c b =
        false)
    ∧ (∃ (b : Confirm) (c : Cmd) (s : State), Runs 0x48 c s ∧ c.cls = 1 ∧ s.port.cmds = [c] ∧ s.judgeWords .class1 (payWords c.payload)
        = none ∧ (changedCfg (s.writeAll (payWords c.payload)).2 = true → s.confirms c b = true))
    ∧ (∃ (b : Confirm) (c : Cmd) (s : State), Runs 0x88 c s ∧ c.cls = 2 ∧ s.port.cmds = [c] ∧ s.judgeWords .class2 (payWords c.payload)
        = none ∧ (changedCfg (s.writeAll (payWords c.payload)).2 = true → s.confirms c b = true))
    ∧ (∃ (cls : BitVec 2) (k : Carrier) (a : Word) (v : Word) (r : Reg) (s : State), RowRuns cls k s ∧ s.cfgLoaded = true ∧ s.sgLoaded =
        true ∧ addrOk a.toNat = true ∧ regAt a.toNat = some r ∧ r.row.keep ≠ .view ∧ s.judgeWord k a.toNat v = none)
    ∧ (∃ (cls : BitVec 2) (k : Carrier) (a : Word) (v : Word) (st : Nat) (s : State), RowRuns cls k s ∧ addrOk a.toNat = true ∧
        s.judgeWord k a.toNat v = some st)
    ∧ (∃ (cls : BitVec 2) (k : Carrier) (a : Word) (s : State), RowRuns cls k s ∧ addrOk a.toNat = false)
    ∧ (∃ (cls : BitVec 2) (k : Carrier) (a : Word) (v : Word) (r : Reg) (s : State), RowRuns cls k s ∧ addrOk a.toNat = true ∧ regAt
        a.toNat = some r ∧ r.row.keep ≠ .view ∧ s.judgeWord k a.toNat v = none ∧ s.changes r v ≠ 0)
    ∧ (∃ (a : Word) (v : Word) (i : Instr) (s : State), s.pm.state.logs = true ∧ s.judgeWord .class1 a.toNat v = none ∧ OneWord a v i s)
    ∧ (∃ (a : Word) (v : Word) (r : Reg) (s : State), s.pm.state.logs = true ∧ s.judgeWord .class1 a.toNat v = none ∧ regAt a.toNat =
        some r ∧ r.row.id ∈ [RegId.pmResetCause, .ctIrq, .lgIrq, .cmIrq, .glIrq, .twIrq, .ckXingErr, .ckXingOvf, .ckIrq, .pwIrq])
    ∧ (∃ (e : Enum) (s : State), s.pm.state.logs = true ∧ s.ring.enum = some e ∧ s.judgeWord .class1 0xA0028 2 = none)
    ∧ (∃ (cls : BitVec 2) (s : State), (cls = 0 ∨ s.pm.state.logs = false ∨ (cls = 3 ∧ s.readyOrRunning = false)))
    ∧ (∃ (s : State), s.pm.state.logs = true)
    ∧ (∃ (s : State), s.pm.state.logs = false) :=
  ⟨⟨lines, .writeRegsClass1 lines, 0x48, .class1, { cmd with op := 0x48, payload := [1, 0, 0, 0, 0, 0, 6, 0, 255, 255, 255, 255] }, 0x24, ready.toRun { cmd with op := 0x48, payload := [1, 0, 0, 0, 0, 0, 6, 0, 255, 255, 255, 255] }, by unfold Runs Allowed3; decide +kernel⟩,
   ⟨lines, .writeRegsClass1 lines, 0x48, .class1, { cmd with op := 0x48 }, ready.toRun { cmd with op := 0x48 }, by unfold Runs Allowed3; decide +kernel⟩,
   ⟨lines, .writeRegsClass3 lines, 0xC8, .class3, { cmd with op := 0xC8, payload := [1, 0, 0, 0, 0, 0, 6, 0, 0, 0, 0, 0] }, [], [], 0x60000, 0, (regAt 0x60000).get (by decide +kernel), (({ ready with cfgLoaded := true, sgLoaded := true }).withReg 0x60000 0x0).toRun { cmd with op := 0xC8, payload := [1, 0, 0, 0, 0, 0, 6, 0, 0, 0, 0, 0] }, by unfold Runs Allowed3; decide +kernel⟩,
   ⟨lines, .writeRegsClass2 lines, 0x88, .class2, { cmd with op := 0x88, payload := [1, 0, 0, 0, 8, 0, 6, 0, 5, 0, 0, 0] }, ready.toRun { cmd with op := 0x88, payload := [1, 0, 0, 0, 8, 0, 6, 0, 5, 0, 0, 0] }, by unfold Runs Allowed3; exact ⟨by decide +kernel, by decide +kernel, by decide +kernel, by decide +kernel, by decide +kernel, confirms_unmet _ _ _ (by decide) (by decide)⟩⟩,
   ⟨lines, { cmd with op := 0x48, cls := 1 }, ready.toRun { cmd with op := 0x48, cls := 1 }, by unfold Runs; decide +kernel⟩,
   ⟨lines, { cmd with op := 0x88, cls := 2 }, ready.toRun { cmd with op := 0x88, cls := 2 }, by unfold Runs; decide +kernel⟩,
   ⟨2, .class2, 0x60008, 5, (regAt 0x60008).get (by decide +kernel), { ready with cfgLoaded := true, sgLoaded := true }, by unfold RowRuns; decide +kernel⟩,
   ⟨1, .class1, 0x60000, 0xFFFFFFFF, 0x24, ready, by unfold RowRuns; decide +kernel⟩,
   ⟨2, .class2, 1, ready, by unfold RowRuns; decide +kernel⟩,
   ⟨2, .class2, 0x60008, 5, (regAt 0x60008).get (by decide +kernel), { ready with cfgLoaded := true, sgLoaded := true }, by unfold RowRuns; decide +kernel⟩,
   ⟨0xD0004, 1, .loadAll, ready, by decide +kernel, by decide +kernel, by unfold OneWord; decide +kernel⟩,
   ⟨0xD0018, 1, (regAt 0xD0018).get (by decide +kernel), ready, by decide +kernel⟩,
   ⟨enumer, { ready with ring.enum := some enumer }, by decide +kernel⟩,
   ⟨0, ready, by decide +kernel⟩,
   ⟨ready, by decide +kernel⟩,
   ⟨starting, by decide +kernel⟩⟩

/-- The hypotheses of each clause of Obligations.ProgramAndTableLoads can be met. -/
theorem witness_ProgramAndTableLoads :
    (∃ (b : Confirm) (c : Cmd) (s : State), s.tablesOk = true ∧ Runs 0x80 c s ∧ s.readyOrRunning = true ∧ (∀ e ∈ loadWords c.payload,
        loadReason e = 0) ∧ (s.kiln.store ≠ (s.loadSteps (loadWords c.payload)).kiln.store → s.confirms c b = true))
    ∧ (∃ (c : Cmd) (xs ys : List (Nat × Step64)) (a : Nat) (w : Step64) (s : State), Runs 0x80 c s ∧ s.readyOrRunning = true ∧ loadWords
        c.payload = xs ++ (a, w) :: ys ∧ (∀ e ∈ xs, loadReason e = 0) ∧ loadReason (a, w) ≠ 0)
    ∧ (∃ (c : Cmd) (s : State), Runs 0x80 c s ∧ s.readyOrRunning = false)
    ∧ (∃ (b : Confirm) (c : Cmd) (s : State), Runs 0x80 c s ∧ s.readyOrRunning = true ∧ (∀ e ∈ loadWords c.payload, loadReason e = 0) ∧
        s.kiln.store ≠ (s.loadSteps (loadWords c.payload)).kiln.store ∧ s.confirms c b = false)
    ∧ (∃ (b : Confirm) (c : Cmd) (s : State), s.tablesOk = true ∧ Runs 0xC5 c s ∧ c.boot = false ∧ s.readyOrRunning = true ∧ (∀ e ∈
        loadWords c.payload, s.sgLoadReason e = 0) ∧ (s.kiln.sgStore ≠ (s.loadSgSteps (loadWords c.payload)).kiln.sgStore →
        s.confirms c b = true))
    ∧ (∃ (c : Cmd) (xs ys : List (Nat × Step64)) (a : Nat) (w : Step64) (s : State), Runs 0xC5 c s ∧ c.boot = false ∧ s.readyOrRunning =
        true ∧ loadWords c.payload = xs ++ (a, w) :: ys ∧ (∀ e ∈ xs, s.sgLoadReason e = 0) ∧ s.sgLoadReason (a, w) ≠ 0)
    ∧ (∃ (c : Cmd) (s : State), Runs 0xC5 c s ∧ c.boot = false ∧ s.readyOrRunning = false)
    ∧ (∃ (b : Confirm) (c : Cmd) (n : Nat) (s : State), s.unitsOk = true ∧ Runs 0x81 c s ∧ byteAt c.payload 0 = n ∧ n < 8 ∧ byteAt
        c.payload 1 ≤ 64 ∧ s.isHTable n = false ∧ s.readyOrRunning = true ∧ (paySteps c.payload (byteAt c.payload 1)).all entLegal
        = true ∧ (nth s.fault.tables n {} ≠ { hard := false, entries := paySteps c.payload (byteAt c.payload 1) } → s.confirms c b
        = true))
    ∧ (∃ (c : Cmd) (s : State), Runs 0x81 c s ∧ s.isHTable (byteAt c.payload 0) = true)
    ∧ (∃ (c : Cmd) (s : State), Runs 0x81 c s ∧ s.isHTable (byteAt c.payload 0) = false ∧ (s.readyOrRunning = false ∨ 64 < byteAt
        c.payload 1 ∨ (paySteps c.payload (byteAt c.payload 1)).all entLegal = false))
    ∧ (∃ (b : Confirm) (c : Cmd) (n : Nat) (h : Bool) (s : State), s.unitsOk = true ∧ Runs 0xC6 c s ∧ c.boot = false ∧ byteAt c.payload
        0 = n ∧ n < 8 ∧ byteAt c.payload 1 ≤ 64 ∧ (h = true ↔ byteAt c.payload 2 = 1) ∧ s.readyOrRunning = true ∧ (paySteps
        c.payload (byteAt c.payload 1)).all entLegal = true ∧ (h = true ∨ s.isHTable n = false ∨ s.namedHard n = false) ∧ (nth
        s.fault.tables n {} ≠ { hard := h, entries := paySteps c.payload (byteAt c.payload 1) } → s.confirms c b = true))
    ∧ (∃ (c : Cmd) (s : State), Runs 0xC6 c s ∧ c.boot = false ∧ (s.readyOrRunning = false ∨ 64 < byteAt c.payload 1 ∨ (paySteps
        c.payload (byteAt c.payload 1)).all entLegal = false ∨ (s.isHTable (byteAt c.payload 0) = true ∧ byteAt c.payload 2 ≠ 1 ∧
        s.namedHard (byteAt c.payload 0) = true))) :=
  ⟨⟨lines, { cmd with op := 0x80 }, ready.toRun { cmd with op := 0x80 }, by unfold Runs; decide +kernel⟩,
   ⟨{ cmd with op := 0x80, payload := [0, 0x10, 1] }, [], [], 0x1000, 0, ready.toRun { cmd with op := 0x80, payload := [0, 0x10, 1] }, by unfold Runs; decide +kernel⟩,
   ⟨{ cmd with op := 0x80 }, ({ ready with pm.state := .firing }).toRun { cmd with op := 0x80 }, by unfold Runs; decide +kernel⟩,
   ⟨lines, { cmd with op := 0x80, payload := [0, 0, 1, 0, 0, 0, 0, 0, 0, 0, 0, 0, 0, 0, 0, 0xF0] }, ready.toRun { cmd with op := 0x80, payload := [0, 0, 1, 0, 0, 0, 0, 0, 0, 0, 0, 0, 0, 0, 0, 0xF0] }, by unfold Runs; exact ⟨by decide +kernel, by decide +kernel, by decide +kernel, by decide +kernel, confirms_unmet _ _ _ (by decide) (by decide)⟩⟩,
   ⟨lines, { cmd with op := 0xC5, boot := false }, ready.toRun { cmd with op := 0xC5, boot := false }, by unfold Runs; decide +kernel⟩,
   ⟨{ cmd with op := 0xC5, payload := [0, 2, 1], boot := false }, [], [], 0x200, 0, ready.toRun { cmd with op := 0xC5, payload := [0, 2, 1], boot := false }, by unfold Runs; decide +kernel⟩,
   ⟨{ cmd with op := 0xC5, boot := false }, ({ ready with pm.state := .firing }).toRun { cmd with op := 0xC5, boot := false }, by unfold Runs; decide +kernel⟩,
   ⟨lines, { cmd with op := 0x81, payload := [1] }, 1, ready.toRun { cmd with op := 0x81, payload := [1] }, by unfold Runs; decide +kernel⟩,
   ⟨{ cmd with op := 0x81, payload := [6] }, ready.toRun { cmd with op := 0x81, payload := [6] }, by unfold Runs; decide +kernel⟩,
   ⟨{ cmd with op := 0x81 }, ({ ready with pm.state := .firing }).toRun { cmd with op := 0x81 }, by unfold Runs; decide +kernel⟩,
   ⟨ready.agrees { signed with op := 0xC6, payload := [1, 0, 1] }, { signed with op := 0xC6, payload := [1, 0, 1] }, 1, true, ready.toRun { signed with op := 0xC6, payload := [1, 0, 1] }, by unfold Runs; exact ⟨by decide +kernel, by decide +kernel, by decide +kernel, by decide +kernel, by decide +kernel, by decide +kernel, by decide +kernel, by decide +kernel, by decide +kernel, by decide +kernel, fun _ => confirms_agrees _ _ (by decide) (by decide) (by decide) (by decide +kernel)⟩⟩,
   ⟨{ cmd with op := 0xC6, payload := [6], boot := false }, ready.toRun { cmd with op := 0xC6, payload := [6], boot := false }, by unfold Runs; decide +kernel⟩⟩

/-- The hypotheses of each clause of Obligations.BisqueClear can be met. -/
theorem witness_BisqueClear :
    (∃ (c : Cmd) (s : State), Runs 0x82 c s ∧ s.readyOrRunning = true)
    ∧ (∃ (c : Cmd) (s : State), Runs 0x82 c s ∧ s.readyOrRunning = false) :=
  ⟨⟨{ cmd with op := 0x82 }, ready.toRun { cmd with op := 0x82 }, by unfold Runs; decide +kernel⟩,
   ⟨{ cmd with op := 0x82 }, ({ ready with pm.state := .firing }).toRun { cmd with op := 0x82 }, by unfold Runs; decide +kernel⟩⟩

/-- The hypotheses of each clause of Obligations.KeysAndOwnership can be met. -/
theorem witness_KeysAndOwnership :
    (∃ (k : Confirm) (c : Cmd) (s : State), s.unitsOk = true ∧ Runs 0xC0 c s ∧ s.mayOwn c = true ∧ s.confirms c k = true)
    ∧ (∃ (c : Cmd) (s : State), Runs 0xC0 c s ∧ s.mayOwn c = false)
    ∧ (∃ (k : Confirm) (c : Cmd) (i : Nat) (s : State), s.unitsOk = true ∧ Runs 0xC1 c s ∧ s.readyOrRunning = true ∧ byteAt c.payload 0
        = i ∧ i < 8 ∧ s.sec.keyTaken i (payEd c.payload) (payMl c.payload) = false ∧ s.sec.keepsQuorum (s.sec.withKey c.payload) =
        true ∧ s.confirms c k = true)
    ∧ (∃ (c : Cmd) (s : State), Runs 0xC1 c s ∧ (s.readyOrRunning = false ∨ s.sec.keyTaken (byteAt c.payload 0) (payEd c.payload) (payMl
        c.payload) = true ∨ s.sec.keepsQuorum (s.sec.withKey c.payload) = false))
    ∧ (∃ (k : Confirm) (c : Cmd) (i : Nat) (s : State), s.unitsOk = true ∧ Runs 0xC2 c s ∧ c.boot = false ∧ s.readyOrRunning = true ∧
        byteAt c.payload 0 = i ∧ i < 8 ∧ (nth s.sec.slots i {}).filled = true ∧ (s.sec.withoutKey i).bootstrap = false ∧
        (s.sec.withoutKey i).hasClass3 = true ∧ s.confirms c k = true)
    ∧ (∃ (c : Cmd) (s : State), Runs 0xC2 c s ∧ c.boot = false ∧ (s.readyOrRunning = false ∨ (nth s.sec.slots (byteAt c.payload 0)
        {}).filled = false ∨ (s.sec.withoutKey (byteAt c.payload 0)).bootstrap = true ∨ (s.sec.withoutKey (byteAt c.payload
        0)).hasClass3 = false))
    ∧ (∃ (k : Confirm) (c : Cmd) (s : State), Runs 0xC3 c s ∧ s.readyOrRunning = true ∧ ({ s.sec with m := byteAt c.payload 0, eligible := BitVec.ofNat 8 (byteAt c.payload 1) } : Sec).bootstrap = false ∧ s.confirms c k = true)
    ∧ (∃ (c : Cmd) (s : State), Runs 0xC3 c s ∧ (s.readyOrRunning = false ∨
        ({ s.sec with m := byteAt c.payload 0, eligible := BitVec.ofNat 8 (byteAt c.payload 1) } : Sec).bootstrap = true))
    ∧ (∃ (k : Confirm) (c : Cmd) (s : State), s.unitsOk = true ∧ Runs 0xCA c s ∧ (s.pm.state = .ready ∨ s.failedStart = true) ∧
        s.confirms c k = true)
    ∧ (∃ (c : Cmd) (s : State), Runs 0xCA c s ∧ s.pm.state ≠ .ready ∧ s.failedStart = false) :=
  ⟨⟨({ ready with sec.windowDue := some 5 } : State).agrees { cmd with op := 0xC0, payload := [0, 7], signers := 1, counter := 1 }, { cmd with op := 0xC0, payload := [0, 7], signers := 1, counter := 1 }, ({ ready with sec.windowDue := some 5 } : State).toRun { cmd with op := 0xC0, payload := [0, 7], signers := 1, counter := 1 }, by unfold Runs; exact ⟨by decide +kernel, by decide +kernel, by decide +kernel, confirms_owner _ _ (by decide) (by decide +kernel)⟩⟩,
   ⟨{ cmd with op := 0xC0 }, ready.toRun { cmd with op := 0xC0 }, by unfold Runs; decide +kernel⟩,
   ⟨ready.agrees { signed with op := 0xC1, payload := [2, 7] }, { signed with op := 0xC1, payload := [2, 7] }, 2, ready.toRun { signed with op := 0xC1, payload := [2, 7] }, by unfold Runs; exact ⟨by decide +kernel, by decide +kernel, by decide +kernel, by decide +kernel, by decide +kernel, by decide +kernel, by decide +kernel, confirms_agrees _ _ (by decide) (by decide) (by decide) (by decide +kernel)⟩⟩,
   ⟨{ cmd with op := 0xC1 }, ready.toRun { cmd with op := 0xC1 }, by unfold Runs; decide +kernel⟩,
   ⟨({ ready with sec.slots := [{ filled := true, role := 7 }, { filled := true, role := 7 }, { filled := true, role := 7 }, {}, {}, {}, {}, {}] } : State).agrees { signed with op := 0xC2, payload := [2] }, { signed with op := 0xC2, payload := [2] }, 2, ({ ready with sec.slots := [{ filled := true, role := 7 }, { filled := true, role := 7 }, { filled := true, role := 7 }, {}, {}, {}, {}, {}] } : State).toRun { signed with op := 0xC2, payload := [2] }, by unfold Runs; exact ⟨by decide +kernel, by decide +kernel, by decide +kernel, by decide +kernel, by decide +kernel, by decide +kernel, by decide +kernel, by decide +kernel, by decide +kernel, confirms_agrees _ _ (by decide) (by decide) (by decide) (by decide +kernel)⟩⟩,
   ⟨{ cmd with op := 0xC2, boot := false }, ready.toRun { cmd with op := 0xC2, boot := false }, by unfold Runs; decide +kernel⟩,
   ⟨({ ready with sec.slots := [{ filled := true, role := 7 }, { filled := true, role := 7 }, { filled := true, role := 7 }, {}, {}, {}, {}, {}] } : State).agrees { signed with op := 0xC3, payload := [1, 7] }, { signed with op := 0xC3, payload := [1, 7] }, ({ ready with sec.slots := [{ filled := true, role := 7 }, { filled := true, role := 7 }, { filled := true, role := 7 }, {}, {}, {}, {}, {}] } : State).toRun { signed with op := 0xC3, payload := [1, 7] }, by unfold Runs; exact ⟨by decide +kernel, by decide +kernel, by decide +kernel, confirms_agrees _ _ (by decide) (by decide) (by decide) (by decide +kernel)⟩⟩,
   ⟨{ cmd with op := 0xC3 }, ({ ready with pm.state := .standby } : State).toRun { cmd with op := 0xC3 }, by unfold Runs; decide +kernel⟩,
   ⟨ready.agrees { signed with op := 0xCA }, { signed with op := 0xCA }, ready.toRun { signed with op := 0xCA }, by unfold Runs; exact ⟨by decide +kernel, by decide +kernel, by decide +kernel, confirms_agrees _ _ (by decide) (by decide) (by decide) (by decide +kernel)⟩⟩,
   ⟨{ cmd with op := 0xCA }, ({ ready with pm.state := .running }).toRun { cmd with op := 0xCA }, by unfold Runs; decide +kernel⟩⟩

/-- The hypotheses of each clause of Obligations.CalibrationAndConfirmation can be met. -/
theorem witness_CalibrationAndConfirmation :
    (∃ (k : Confirm) (c : Cmd) (s : State), Runs 0xC7 c s ∧ c.boot = false ∧ s.pm.state = .ready ∧ s.confirms c k = true)
    ∧ (∃ (c : Cmd) (s : State), Runs 0xC7 c s ∧ c.boot = false ∧ s.pm.state ≠ .ready)
    ∧ (∃ (k : Confirm) (i : Instr) (op : Nat) (c : Cmd) (s : State), (i, op) ∈ [(Instr.keySlotClear k, 0xC2), (.saggarWrite k, 0xC4),
        (.saggarProgramLoad k, 0xC5), (.htableLoad k, 0xC6), (.calibrationWrite k, 0xC7), (.writeRegsClass3 k, 0xC8), (.imageLoad
        k, 0xC9)] ∧ Runs op c s ∧ c.boot = true)
    ∧ (∃ (k : Confirm) (i : Instr) (c : Cmd) (s : State), (i = .takeOwnership k ∧ Runs 0xC0 c s ∧ s.mayOwn c = true ∨ i = .keySlotWrite
        k ∧ Runs 0xC1 c s ∧ s.readyOrRunning = true ∧ s.sec.keyTaken (byteAt c.payload 0) (payEd c.payload) (payMl c.payload) =
        false ∧ s.sec.keepsQuorum (s.sec.withKey c.payload) = true ∨ i = .keySlotClear k ∧ Runs 0xC2 c s ∧ c.boot = false ∧
        s.readyOrRunning = true ∧ (nth s.sec.slots (byteAt c.payload 0) {}).filled = true ∧ (s.sec.withoutKey (byteAt c.payload
        0)).bootstrap = false ∧ (s.sec.withoutKey (byteAt c.payload 0)).hasClass3 = true ∨ i = .quorumSet k ∧ Runs 0xC3 c s ∧
        s.readyOrRunning = true ∧ ({ s.sec with m := byteAt c.payload 0, eligible := BitVec.ofNat 8 (byteAt c.payload 1) } :
        Sec).bootstrap = false ∨ i = .calibrationWrite k ∧ Runs 0xC7 c s ∧ c.boot = false ∧ s.pm.state = .ready ∨ i =
        .decommission k ∧ Runs 0xCA c s ∧ (s.pm.state = .ready ∨ s.failedStart = true)) ∧ s.confirms c k = false) :=
  ⟨⟨ready.agrees { signed with op := 0xC7 }, { signed with op := 0xC7 }, ready.toRun { signed with op := 0xC7 }, by unfold Runs; exact ⟨by decide +kernel, by decide +kernel, by decide +kernel, confirms_agrees _ _ (by decide) (by decide) (by decide) (by decide +kernel)⟩⟩,
   ⟨{ cmd with op := 0xC7, boot := false }, ({ ready with pm.state := .running }).toRun { cmd with op := 0xC7, boot := false }, by unfold Runs; decide +kernel⟩,
   ⟨lines, .keySlotClear lines, 0xC2, { cmd with op := 0xC2, boot := true }, ready.toRun { cmd with op := 0xC2, boot := true }, by unfold Runs; decide +kernel⟩,
   ⟨lines, .calibrationWrite lines, { cmd with op := 0xC7 }, ready.toRun { cmd with op := 0xC7 }, .inr (.inr (.inr (.inr (.inl (by unfold Runs; decide +kernel))))), confirms_unmet _ _ _ (by decide) (by decide)⟩⟩

/-- The hypotheses of each clause of Obligations.ImageLoading can be met. -/
theorem witness_ImageLoading :
    (∃ (c : Cmd) (s : State), Runs 0xC9 c s ∧ c.boot = false ∧ (s.pm.state = .ready ∨ s.failedStart = true) ∧ leAt c.payload 0 2 = 0 ∧
        1 < leAt c.payload 2 2 ∧ c.payload.length ≤ 4104)
    ∧ (∃ (c : Cmd) (x : ImageLoad) (s : State), Runs 0xC9 c s ∧ c.boot = false ∧ (s.pm.state = .ready ∨ s.failedStart = true) ∧
        s.port.image = some x ∧ leAt c.payload 0 2 = x.next ∧ leAt c.payload 2 2 = x.parts ∧ 0 < x.next ∧ x.next + 1 < x.parts ∧
        (x.bytes ++ c.payload.drop 8).length ≤ 20971520)
    ∧ (∃ (c : Cmd) (s : State), Runs 0xC9 c s ∧ c.boot = false ∧ leAt c.payload 0 2 ≠ 0 ∧ (∀ x, s.port.image = some x → x.next ≠ leAt
        c.payload 0 2 ∨ x.parts ≠ leAt c.payload 2 2))
    ∧ (∃ (c : Cmd) (s : State), Runs 0xC9 c s ∧ c.boot = false ∧ s.pm.state ≠ .ready ∧ s.failedStart = false)
    ∧ (∃ (c : Cmd) (bytes : List Byte) (s : State), Runs 0xC9 c s ∧ c.boot = false ∧ (s.pm.state = .ready ∨ s.failedStart = true) ∧
        LastPart bytes c s ∧ bytes.length ≤ 20971520)
    ∧ (∃ (im : ImageLoad) (s : State), s.port.image = some im)
    ∧ (∃ (due : Nat) (s : State), s.pm.imageReset = some due ∧ s.failedStart = true ∧ s.resetUnsaid = false)
    ∧ (∃ (s : State), s.port.image = none)
    ∧ (∃ (s : State), s.pm.imageReset = none ∨ s.failedStart = false ∨ s.resetUnsaid = true) :=
  ⟨⟨{ cmd with op := 0xC9, payload := [0, 0, 2, 0], boot := false }, ({ ready with pm.state := .ready }).toRun { cmd with op := 0xC9, payload := [0, 0, 2, 0], boot := false }, by unfold Runs; decide +kernel⟩,
   ⟨{ cmd with op := 0xC9, payload := [1, 0, 3, 0], boot := false }, ⟨3, 1, [], 0⟩, ({ ready with pm.state := .ready, port.image := some ⟨3, 1, [], 0⟩ }).toRun { cmd with op := 0xC9, payload := [1, 0, 3, 0], boot := false }, by unfold Runs; decide +kernel⟩,
   ⟨{ cmd with op := 0xC9, payload := [1, 0], boot := false }, ready.toRun { cmd with op := 0xC9, payload := [1, 0], boot := false }, by unfold Runs; decide +kernel⟩,
   ⟨{ cmd with op := 0xC9 }, ({ ready with pm.state := .running } : State).toRun { cmd with op := 0xC9 }, by unfold Runs; decide +kernel⟩,
   ⟨{ cmd with op := 0xC9, payload := [0, 0, 1, 0] }, [], ready.toRun { cmd with op := 0xC9, payload := [0, 0, 1, 0] }, by
      unfold Runs LastPart; exact ⟨by decide +kernel, by decide +kernel, by decide +kernel, .inl (by decide +kernel), by decide +kernel⟩⟩,
   ⟨⟨1, 0, [], 0⟩, { ready with port.image := some (⟨1, 0, [], 0⟩) }, by decide +kernel⟩,
   ⟨5, { starting with pm.imageReset := some 5, pm.failCode := 1 }, by decide +kernel⟩,
   ⟨{ ready with port.image := none }, by decide +kernel⟩,
   ⟨{ ready with pm.imageReset := none }, by decide +kernel⟩⟩

/-- The hypotheses of each clause of Obligations.LinksAndHorns can be met. -/
theorem witness_LinksAndHorns :
    (∃ (s : State), s.transmits = true)
    ∧ (∃ (p : Link) (s : State), s.transmits = true ∧ (s.link p).up = false ∧ (s.link (otherLink p)).up = true ∧ s.ring.state ≠ .noLink)
    ∧ (∃ (p : Link) (s : State), s.transmits = true ∧ (s.link p).up = false ∧ (s.link (otherLink p)).up = false ∧ s.ring.state =
        .noLink)
    ∧ (∃ (p : Link) (s : State), s.transmits = false ∨ (s.link p).up = true)
    ∧ (∃ (s : State), s.transmits = false)
    ∧ (∃ (p : Link) (s : State), (s.link p).up = false)
    ∧ (∃ (p : Link) (s : State), (s.link p).up = true)
    ∧ (∃ (p : Link) (s : State), (s.link p).up = true ∧ (s.link p).wrapped = true)
    ∧ (∃ (orig : BitVec 12) (s : State), s.ring.address ≠ 0 ∧ orig.toNat = s.ring.address)
    ∧ (∃ (p : Link) (orig : BitVec 12) (seq : BitVec 4) (h : HornSeen) (s : State), h ∈ s.ring.horns ∧ s.clk.now < h.time + msTicks ∧
        h.received = false ∧ h.port = p ∧ h.orig = orig.toNat ∧ h.seq = seq.toNat)
    ∧ (∃ (p : Link) (orig : BitVec 12) (seq : BitVec 4) (s : State), s.pm.state.logs = true ∧ (s.link p).up = true ∧ (s.ring.address = 0
        ∨ orig.toNat ≠ s.ring.address) ∧ NewHorn orig.toNat seq.toNat s ∧ s.hornCounts orig.toNat = false)
    ∧ (∃ (p : Link) (orig : BitVec 12) (seq : BitVec 4) (s : State), s.pm.state.logs = true ∧ (s.link p).up = true ∧ orig.toNat ≠
        s.ring.address ∧ NewHorn orig.toNat seq.toNat s ∧ s.hornCounts orig.toNat = true ∧ ¬ (s.twin.state = .co ∧ orig.toNat =
        s.twin.address ∧ s.twinTold true = true))
    ∧ (∃ (p : Link) (orig : BitVec 12) (seq : BitVec 4) (s : State), s.pm.state.logs = true ∧ (s.link p).up = true ∧ orig.toNat ≠
        s.ring.address ∧ NewHorn orig.toNat seq.toNat s ∧ s.hornCounts orig.toNat = true ∧ s.twin.state = .co ∧ orig.toNat =
        s.twin.address ∧ s.twinTold true = true) :=
  ⟨⟨ready, by decide +kernel⟩,
   ⟨.a, { ready with ring.linkA.up := false, ring.linkB.up := true, ring.state := .admitted }, by decide +kernel⟩,
   ⟨.a, { ready with ring.linkA.up := false, ring.linkB.up := false, ring.state := .noLink }, by decide +kernel⟩,
   ⟨.a, ready, by decide +kernel⟩,
   ⟨{ ready with pm.state := .off }, by decide +kernel⟩,
   ⟨.a, { ready with ring.linkA.up := false }, by decide +kernel⟩,
   ⟨.a, { ready with ring.linkA.up := true }, by decide +kernel⟩,
   ⟨.a, { ready with ring.linkA.up := true, ring.linkA.wrapped := true }, by decide +kernel⟩,
   ⟨5, ready, by decide +kernel⟩,
   ⟨.a, 1, 1, ⟨1, 1, .a, false, 0⟩, { ready with ring.horns := [⟨1, 1, .a, false, 0⟩] }, by decide +kernel⟩,
   ⟨.a, 1, 1, { ready with ring.linkA.up := true, ring.address := 0 }, by unfold NewHorn; decide +kernel⟩,
   ⟨.a, 3, 1, { ready with ring.linkA.up := true, ring.state := .admitted }, by unfold NewHorn; decide +kernel⟩,
   ⟨.a, 3, 1, { ready with twin.state := .co, twin.address := 3, twin.rxStops := [(false, 0)], ring.state := .admitted }, by unfold NewHorn; decide +kernel⟩⟩

/-- The hypotheses of each clause of Obligations.RingCommands can be met. -/
theorem witness_RingCommands :
    (∃ (a : Arrival) (s : State), s.hears a 1 = true ∧ Clean a ∧ s.forMe a.frame = false ∧ s.ownSource a.frame = false)
    ∧ (∃ (a : Arrival) (s : State), s.hears a 1 = true ∧ Clean a ∧ s.forMe a.frame = true ∧ s.ring.state ≠ .admitted)
    ∧ (∃ (a : Arrival) (s : State), s.hears a 1 = true ∧ Clean a ∧ s.forMe a.frame = true ∧ s.ring.state = .admitted ∧ s.stage1 true
        a.frame.payload = none ∧ s.isCont true (a.frame.payload.take 32) = false ∧ hdTotal (a.frame.payload.take 32) =
        a.frame.payload.length ∧ s.route (packetCmd true a.frame.src.toNat a.frame.payload) = .here ∧ s.stage3 (packetCmd true
        a.frame.src.toNat a.frame.payload) = none ∧ (packetCmd true a.frame.src.toNat a.frame.payload).cls = 0)
    ∧ (∃ (a : Arrival) (s : State), s.hears a 2 = true ∧ Clean a ∧ s.forMe a.frame = false ∧ s.ownSource a.frame = false ∧ s.inp.root =
        false)
    ∧ (∃ (a : Arrival) (c : Cmd) (s : State), s.hears a 2 = true ∧ Clean a ∧ s.inp.root = true ∧ s.awaited (hdTag a.frame.payload)
        a.frame.src.toNat = some c ∧ byteAt a.frame.payload 22 ≠ 1 ∧ s.port.waiting = [] ∧ a.frame.payload.length ≤ 48)
    ∧ (∃ (a : Arrival) (s : State), s.hears a 3 = true ∧ Clean a ∧ s.ownSource a.frame = false ∧ a.frame.dest = 4095 ∧ s.ring.address ≠
        4095 ∧ s.laterCopy a = true)
    ∧ (∃ (a : Arrival) (s : State), s.hears a 3 = true ∧ Clean a ∧ s.ownSource a.frame = false ∧ a.frame.dest = 4095 ∧ s.ring.address ≠
        4095 ∧ s.ring.state ≠ .admitted ∧ s.laterCopy a = false)
    ∧ (∃ (a : Arrival) (s : State), s.hears a 3 = true ∧ Clean a ∧ s.ownSource a.frame = false ∧ a.frame.dest = 4095 ∧ s.ring.address ≠
        4095 ∧ s.ring.state = .admitted ∧ s.laterCopy a = false ∧ s.stage1 true a.frame.payload = none ∧ s.isCont true
        (a.frame.payload.take 32) = false ∧ hdTotal (a.frame.payload.take 32) = a.frame.payload.length ∧ (packetCmd true
        a.frame.src.toNat a.frame.payload).dest = 4095 ∧ s.stage3 { packetCmd true a.frame.src.toNat a.frame.payload with bcast :=
        true } = none ∧ 1 ≤ (packetCmd true a.frame.src.toNat a.frame.payload).cls ∧ hdMore (a.frame.payload.take 32) = false)
    ∧ (∃ (a : Arrival) (g : Fwd) (c : Cmd) (s : State), s.hears a 3 = true ∧ Clean a ∧ s.ownSource a.frame = true ∧ 1 ≤
        a.frame.hops.toNat ∧ s.port.fwds.find? (fun x => x.dest == 4095) = some g ∧ s.cmd? false g.tag = some c ∧ c.ring = false ∧
        c.bcast = true ∧ c.phase = .replying ∧ c.signReply = false ∧ s.port.signing = [] ∧ s.port.waiting = [] ∧ mayBroadcast
        c.op.toNat = true) :=
  ⟨⟨(Frame.sealed { sent with kind := 1 } .a true), ready, by unfold Clean; decide +kernel⟩,
   ⟨(Frame.sealed { sent with kind := 1, dest := 5 } .a true), ready, by unfold Clean; decide +kernel⟩,
   ⟨Frame.sealed { sent with kind := 1, dest := 5, payload := packet 0x00 1 0 0 0 5 [] [] } .a true, { ready with ring.state := .admitted }, by unfold Clean; decide +kernel⟩,
   ⟨(Frame.sealed { sent with kind := 2 } .a true), { ready with inp.root := false }, by unfold Clean; decide +kernel⟩,
   ⟨(Frame.sealed { sent with kind := 2, payload := [0, 0, 0, 0, 0, 1] } .a true), { cmd with dest := 3, phase := .accepted }, { ready with inp.root := true, port.waiting := [], port.cmds := [{ cmd with dest := 3, phase := .accepted }] }, by unfold Clean; decide +kernel⟩,
   ⟨Frame.sealed { sent with kind := 3, dest := 4095 } .a true, { ready with ring.heard := [⟨3, 3, [], .b, 0⟩] }, by unfold Clean; decide +kernel⟩,
   ⟨Frame.sealed { sent with kind := 3, dest := 4095 } .a true, ready, by unfold Clean; decide +kernel⟩,
   ⟨Frame.sealed { sent with kind := 3, dest := 4095, payload := packet 0x41 1 1 1 7 4095 [] edBlock } .a true, { ready with ring.state := .admitted, sec.owned := true }, by unfold Clean; decide +kernel⟩,
   ⟨Frame.sealed { sent with kind := 3, src := 5, hops := 1 } .a true, ⟨1, 4095, 9, cmd⟩, { cmd with ring := false, bcast := true, phase := .replying, signReply := false }, { ready with port.signing := [], port.waiting := [], port.fwds := [⟨1, 4095, 9, cmd⟩], port.cmds := [{ cmd with ring := false, bcast := true, phase := .replying, signReply := false }] }, by unfold Clean; decide +kernel⟩⟩

/-- The hypotheses of each clause of Obligations.RingTime can be met. -/
theorem witness_RingTime :
    (∃ (a : Arrival) (s : State), TimeHeard a s ∧ s.ring.state = .admitted ∧ rootOf a.frame = s.ring.rootUid.toNat ∧ s.tbRuns = true ∧
        s.timeSrc = 2 ∧ leAt a.frame.payload 28 4 % 4 = 0 ∧ s.clk.epochValid = true)
    ∧ (∃ (a : Arrival) (s : State), TimeHeard a s ∧ s.ring.state = .isolated ∧ s.ring.address ≠ 0 ∧ bit s.ring.admittedMap
        s.ring.address = true ∧ rootOf a.frame ≠ s.ring.rootUid.toNat)
    ∧ (∃ (a : Arrival) (s : State), TimeHeard a s ∧ (s.ring.state = .awaiting ∨ s.ring.state = .notAdmitted) ∧ s.ring.joinDue = none)
    ∧ (∃ (a : Arrival) (s : State), s.hears a 4 = true ∧ Clean a ∧ s.inp.root = false ∧ s.ownSource a.frame = false ∧ s.forMe a.frame =
        false ∧ s.laterCopy a = true)
    ∧ (∃ (a : Arrival) (s : State), s.hears a 4 = true ∧ Clean a ∧ s.inp.root = true ∧ s.ownSource a.frame = false ∧ s.forMe a.frame =
        false ∧ rootOf a.frame ≠ s.ident.uid.toNat ∧ s.ring.state ≠ .conflict)
    ∧ (∃ (due : Nat) (s : State), s.ring.timeDue = some due ∧ s.pm.state.logs = true ∧ s.inp.root = true ∧ s.ring.enumDone = true ∧
        s.ring.state ≠ .conflict)
    ∧ (∃ (s : State), s.inp.root = false ∨ s.ring.timeDue = none)
    ∧ (∃ (s : State), s.inp.root = false ∧ s.pm.state.logs = true ∧ s.ring.state ≠ .isolated ∧ s.ring.state ≠ .conflict ∧ (s.ring.state
        ≠ .noLink ∨ s.ring.address ≠ 0))
    ∧ (∃ (s : State), s.mayIsolate = false) :=
  ⟨⟨Frame.sealed { sent with kind := 4, dest := 4095 } .a true, ({ ready with ring.state := .admitted, clk.epochValid := true } : State).withReg 0xC0008 0x80000000, by unfold TimeHeard Clean; decide +kernel⟩,
   ⟨Frame.sealed { sent with kind := 4, dest := 4095 } .a true, { ready with ring.state := .isolated, ring.rootUid := 9 }, by unfold TimeHeard Clean; decide +kernel⟩,
   ⟨Frame.sealed { sent with kind := 4, dest := 4095 } .a true, { ready with ring.state := .awaiting, ring.joinDue := none }, by unfold TimeHeard Clean; decide +kernel⟩,
   ⟨Frame.sealed { sent with kind := 4, dest := 4095 } .a true, { ready with ring.heard := [⟨4, 3, [], .b, 0⟩] }, by unfold Clean; decide +kernel⟩,
   ⟨(Frame.sealed { sent with kind := 4 } .a true), { ready with inp.root := true, ident.uid := 9 }, by unfold Clean; decide +kernel⟩,
   ⟨5, { ready with ring.timeDue := some 5, inp.root := true, ring.enumDone := true }, by decide +kernel⟩,
   ⟨{ ready with inp.root := false }, by decide +kernel⟩,
   ⟨{ ready with inp.root := false }, by decide +kernel⟩,
   ⟨starting, by decide +kernel⟩⟩

/-- The hypotheses of each clause of Obligations.Enumeration can be met. -/
theorem witness_Enumeration :
    (∃ (s : State), s.inp.root = true ∧ s.ring.state ≠ .conflict ∧ s.pm.state.logs = true)
    ∧ (∃ (s : State), s.inp.root = false ∨ s.ring.state = .conflict ∨ s.pm.state.logs = false)
    ∧ (∃ (a : Arrival) (s : State), s.hears a 0x10 = true ∧ Clean a ∧ s.inp.root = false ∧ s.ring.tokenSeen ≠ some (leAt a.frame.payload
        52 4) ∧ a.frame.hops.toNat + 1 < 4095)
    ∧ (∃ (p : List Byte) (r : Word × Nat) (s : State), s.ring.record = some r ∧ r.1.toNat = leAt p 0 4 ∧ 2 ≤ r.2 ∧ r.2 ≤ 4094)
    ∧ (∃ (p : List Byte) (s : State), (∀ r, s.ring.record = some r → r.1.toNat ≠ leAt p 0 4))
    ∧ (∃ (a : Arrival) (s : State), s.hears a 0x10 = true ∧ Clean a ∧ s.inp.root = false ∧ s.ownSource a.frame = false ∧ s.forMe a.frame
        = false ∧ s.ring.tokenSeen = some (leAt a.frame.payload 52 4))
    ∧ (∃ (a : Arrival) (e : Enum) (s : State), s.hears a 0x10 = true ∧ Clean a ∧ s.inp.root = true ∧ rootOf a.frame = s.ident.uid.toNat
        ∧ s.ownSource a.frame = true ∧ 1 ≤ a.frame.hops.toNat ∧ s.ring.enum = some e ∧ e.returned = none ∧ leAt a.frame.payload 52
        4 = s.ring.enumNumber)
    ∧ (∃ (a : Arrival) (e : Enum) (s : State), s.hears a 0x11 = true ∧ Clean a ∧ s.inp.root = true ∧ s.forMe a.frame = true ∧
        s.ring.enum = some e)
    ∧ (∃ (e : Enum) (n : Nat) (s : State), s.ring.enum = some e ∧ e.returned = some n ∧ s.pm.state.logs = true ∧ e.complete n = true ∧
        e.again = false ∧ (∀ c ∈ e.claims, c.addr ≠ 0 ∧ (∀ d ∈ e.claims, d.addr = c.addr → d = c) ∧ (Tab.get? s.ring.map c.addr =
        none ∨ Tab.get? s.ring.map c.addr = some c.uid)))
    ∧ (∃ (e : Enum) (n : Nat) (s : State), s.ring.enum = some e ∧ e.returned = some n ∧ s.pm.state.logs = true ∧ s.inp.root = true ∧
        e.again = true)
    ∧ (∃ (e : Enum) (n : Nat) (s : State), s.ring.enum = some e ∧ e.returned = some n ∧ s.pm.state.logs = true ∧ e.complete n = false ∧
        e.again = false)
    ∧ (∃ (a : Arrival) (s : State), s.hears a 0x12 = true ∧ Clean a ∧ s.inp.root = false ∧ s.ring.state ≠ .conflict ∧ s.ring.tokenSeen =
        some (leAt a.frame.payload 20 4) ∧ s.ring.enumDone = false ∧ s.closureFull a.frame.payload = false)
    ∧ (∃ (a : Arrival) (s : State), s.hears a 0x12 = true ∧ Clean a ∧ s.inp.root = false ∧ s.ring.state ≠ .conflict ∧ s.ring.tokenSeen =
        some (leAt a.frame.payload 20 4) ∧ s.ring.enumDone = false ∧ s.closureFull a.frame.payload = true)
    ∧ (∃ (a : Arrival) (s : State), s.hears a 0x12 = true ∧ Clean a ∧ s.inp.root = false ∧ s.ownSource a.frame = false ∧ s.forMe a.frame
        = false ∧ (s.ring.tokenSeen ≠ some (leAt a.frame.payload 20 4) ∨ s.ring.enumDone = true))
    ∧ (∃ (s : State), s.pm.state.logs = true ∧ s.inp.root = true) :=
  ⟨⟨{ ready with inp.root := true }, by decide +kernel⟩,
   ⟨{ ready with inp.root := false }, by decide +kernel⟩,
   ⟨Frame.sealed { sent with kind := 0x10 } .a true, { ready with inp.root := false }, by unfold Clean; decide +kernel⟩,
   ⟨[7], (7, 4094), { ready with ring.record := some (7, 4094) }, by decide +kernel⟩,
   ⟨[], ready, by intro r h; cases h⟩,
   ⟨(Frame.sealed { sent with kind := 0x10 } .a true), { ready with inp.root := false, ring.tokenSeen := some (leAt heard.frame.payload 52 4) }, by unfold Clean; decide +kernel⟩,
   ⟨(Frame.sealed { sent with kind := 0x10, src := 5, hops := 1 } .a true), enumer, { ready with inp.root := true, ring.enum := some enumer }, by unfold Clean; decide +kernel⟩,
   ⟨(Frame.sealed { sent with kind := 0x11, dest := 5 } .a true), enumer, { ready with inp.root := true, ring.enum := some enumer }, by unfold Clean; decide +kernel⟩,
   ⟨⟨0, some 2, 0, [⟨9, 3, 1, false, false⟩], false⟩, 2, { ready with ring.enum := some ⟨0, some 2, 0, [⟨9, 3, 1, false, false⟩], false⟩ }, by decide +kernel⟩,
   ⟨⟨0, some 2, 0, [], true⟩, 2, { ready with inp.root := true, ring.enum := some ⟨0, some 2, 0, [], true⟩ }, by decide +kernel⟩,
   ⟨⟨0, some 2, 0, [], false⟩, 2, { ready with ring.enum := some ⟨0, some 2, 0, [], false⟩ }, by decide +kernel⟩,
   ⟨Frame.sealed { sent with kind := 0x12 } .a true, { ready with inp.root := false, ring.tokenSeen := some (leAt heard.frame.payload 20 4), ring.enumDone := false }, by unfold Clean; decide +kernel⟩,
   ⟨Frame.sealed { sent with kind := 0x12, dest := 4095, payload := List.replicate 26 0 ++ [64, 0] } .a true, { ready with ident.uid := 9, ring.tokenSeen := some 0, ring.enumDone := false }, by unfold Clean; decide +kernel⟩,
   ⟨Frame.sealed { sent with kind := 0x12 } .a true, { ready with inp.root := false }, by unfold Clean; decide +kernel⟩,
   ⟨{ ready with inp.root := true }, by decide +kernel⟩⟩

/-- The hypotheses of each clause of Obligations.JoiningAndConflict can be met. -/
theorem witness_JoiningAndConflict :
    (∃ (a : Arrival) (s : State), s.hears a 0x13 = true ∧ Clean a ∧ s.inp.root = true ∧ s.forMe a.frame = true ∧ s.ring.state ≠
        .conflict ∧ s.joinAddress (BitVec.ofNat 128 (leAt a.frame.payload 0 16)) (leAt a.frame.payload 50 2) ≠ 0 ∧ countBits
        (s.ring.admittedMap &&& ~~~(one 4096 (s.joinAddress (BitVec.ofNat 128 (leAt a.frame.payload 0 16)) (leAt a.frame.payload
        50 2)))) < s.ringLimit)
    ∧ (∃ (a : Arrival) (s : State), s.hears a 0x13 = true ∧ Clean a ∧ s.inp.root = true ∧ s.forMe a.frame = true ∧ s.ring.state ≠
        .conflict ∧ s.joinAddress (BitVec.ofNat 128 (leAt a.frame.payload 0 16)) (leAt a.frame.payload 50 2) ≠ 0 ∧ s.ringLimit ≤
        countBits (s.ring.admittedMap &&& ~~~(one 4096 (s.joinAddress (BitVec.ofNat 128 (leAt a.frame.payload 0 16)) (leAt
        a.frame.payload 50 2)))))
    ∧ (∃ (s : State), s.ring.joinDue = none ∨ s.joinWaits = true)
    ∧ (∃ (uid : Uid) (e : Nat × Uid) (s : State), s.ring.map.find? (fun x => x.2 == uid) = some e)
    ∧ (∃ (due : Nat) (s : State), s.ring.joinDue = some due ∧ s.pm.state.logs = true ∧ (s.ring.linkA.up = true ∨ s.ring.linkB.up = true)
        ∧ s.joinWaits = false)
    ∧ (∃ (a : Arrival) (s : State), s.hears a 0x14 = true ∧ Clean a ∧ s.inp.root = false ∧ s.ring.state ≠ .conflict ∧ leAt
        a.frame.payload 0 16 ≠ s.ident.uid.toNat ∧ leAt a.frame.payload 16 2 < 4096)
    ∧ (∃ (a : Arrival) (c : Nat) (s : State), s.hears a 0x14 = true ∧ Clean a ∧ s.inp.root = false ∧ s.ring.state ≠ .conflict ∧ leAt
        a.frame.payload 0 16 = s.ident.uid.toNat ∧ leAt a.frame.payload 16 2 = c ∧ 0 < c ∧ c < 4096 ∧ leAt a.frame.payload 18 2 =
        2)
    ∧ (∃ (a : Arrival) (c : Nat) (s : State), s.hears a 0x14 = true ∧ Clean a ∧ s.inp.root = false ∧ s.ring.state ≠ .conflict ∧ leAt
        a.frame.payload 0 16 = s.ident.uid.toNat ∧ leAt a.frame.payload 16 2 = c ∧ 0 < c ∧ c < 4096 ∧ leAt a.frame.payload 18 2 =
        3)
    ∧ (∃ (a : Arrival) (s : State), s.hears a 0x15 = true ∧ Clean a ∧ s.ring.state ≠ .conflict)
    ∧ (∃ (a : Arrival) (s : State), s.pm.state.logs = true ∧ (s.link a.port).up = true ∧ knownKind a.frame.kind.toNat = false ∧ Clean a
        ∧ s.forMe a.frame = true)
    ∧ (∃ (a : Arrival) (s : State), s.pm.state.logs = true ∧ (s.link a.port).up = true ∧ knownKind a.frame.kind.toNat = false ∧ a.crcOk
        = false ∧ s.forMe a.frame = false ∧ s.ownSource a.frame = false ∧ a.frame.hops.toNat + 1 < 4095) :=
  ⟨⟨Frame.sealed { sent with kind := 0x13, dest := 5 } .a true, { ready with inp.root := true, ring.enumDone := true, ring.state := .admitted }, by unfold Clean; decide +kernel⟩,
   ⟨Frame.sealed { sent with kind := 0x13, dest := 5 } .a true, { ready with inp.root := true, ring.enumDone := true, ring.state := .admitted, ring.admittedMap := BitVec.allOnes 4096 }, by unfold Clean; decide +kernel⟩,
   ⟨{ ready with ring.joinDue := none, ring.map := [(5, 5)] }, by decide +kernel⟩,
   ⟨5, (5, 5), { ready with ring.map := [(5, 5)] }, by decide +kernel⟩,
   ⟨5, { ready with ring.joinDue := some 5, ring.linkA.up := true }, by decide +kernel⟩,
   ⟨(Frame.sealed { sent with kind := 0x14 } .a true), { ready with inp.root := false, ident.uid := 9 }, by unfold Clean; decide +kernel⟩,
   ⟨(Frame.sealed { sent with kind := 0x14, payload := List.replicate 16 0 ++ [255, 15, 2, 0] } .a true), 4095, { ready with inp.root := false }, by unfold Clean; decide +kernel⟩,
   ⟨Frame.sealed { sent with kind := 0x14, payload := List.replicate 16 0 ++ [255, 15, 3, 0] } .a true, 4095, { ready with inp.root := false }, by unfold Clean; decide +kernel⟩,
   ⟨(Frame.sealed { sent with kind := 0x15 } .a true), ready, by unfold Clean; decide +kernel⟩,
   ⟨(Frame.sealed { sent with dest := 5 } .a true), { ready with ring.linkA.up := true }, by unfold Clean; decide +kernel⟩,
   ⟨(Frame.sealed { sent with  } .a false), { ready with ring.linkA.up := true }, by decide +kernel⟩⟩

/-- The hypotheses of each clause of Obligations.HeartbeatsAndRequests can be met. -/
theorem witness_HeartbeatsAndRequests :
    (∃ (due : Nat) (s : State), s.twin.hbDue = some due ∧ s.twin.state = .co ∧ s.pm.state.logs = true)
    ∧ (∃ (a : Arrival) (s : State), s.hears a 0x20 = true ∧ Clean a ∧ s.forMe a.frame = true ∧ s.twin.state = .co ∧ s.fromTwin a.frame =
        true ∧ s.fencedHere = false ∧ s.secondCopy a = true)
    ∧ (∃ (s : State), s.twin.state ≠ .co)
    ∧ (∃ (a : Arrival) (s : State), s.hears a 0x20 = true ∧ Clean a ∧ s.forMe a.frame = true ∧ s.twin.state = .co ∧ s.fromTwin a.frame =
        true ∧ s.fencedHere = false ∧ s.secondCopy a = false)
    ∧ (∃ (s : State), s.twin.state = .co ∧ s.pm.state.logs = true)
    ∧ (∃ (a : Arrival) (s : State), TwinMsg a 9 s ∧ s.twin.state = .co ∧ s.fromTwin a.frame = true ∧ byteAt (twinBody a.frame) 0 = 1 ∧
        s.mayFire = true ∧ s.twin.hand.holds = false ∧ s.onJoins = none)
    ∧ (∃ (a : Arrival) (s : State), TwinMsg a 9 s ∧ (s.twin.state ≠ .co ∨ s.fromTwin a.frame = false))
    ∧ (∃ (a : Arrival) (s : State), TwinMsg a 9 s ∧ s.twin.state = .co ∧ s.fromTwin a.frame = true ∧ byteAt (twinBody a.frame) 0 = 2 ∧
        (s.pm.state = .firing ∨ s.pm.state = .running))
    ∧ (∃ (a : Arrival) (s : State), TwinMsg a 0x0A s ∧ s.twin.state = .co ∧ s.fromTwin a.frame = true ∧ s.twinTold false = false ∧
        (byteAt (twinBody a.frame) 0 = 2 ∨ byteAt (twinBody a.frame) 0 = 3) ∧ (s.pm.state = .ready ∨ s.pm.state = .firing ∨
        s.pm.state = .running))
    ∧ (∃ (a : Arrival) (s : State), TwinMsg a 0x0A s ∧ s.twin.state = .co ∧ s.fromTwin a.frame = true ∧ s.twinTold false = true)
    ∧ (∃ (a : Arrival) (s : State), TwinMsg a 0x0A s ∧ (s.twin.state ≠ .co ∨ s.fromTwin a.frame = false)) :=
  ⟨⟨5, { ready with twin.hbDue := some 5, twin.state := .co }, by decide +kernel⟩,
   ⟨Frame.sealed { sent with kind := 0x20, dest := 5 } .a true, { ready with twin.state := .co, twin.address := 3, ring.heard := [⟨0x20, 3, frameKey { sent with kind := 0x20, dest := 5 }, .b, 0⟩] }, by unfold Clean; decide +kernel⟩,
   ⟨{ ready with twin.rxStops := [(false, 0)] }, by decide +kernel⟩,
   ⟨Frame.sealed { sent with kind := 0x20, dest := 5 } .a true, { ready with twin.state := .co, twin.address := 3 }, by unfold Clean; decide +kernel⟩,
   ⟨{ ready with twin.state := .co }, by decide +kernel⟩,
   ⟨Frame.sealed { sent with kind := 0x21, dest := 5, payload := [9, 0, 0, 0, 1] } .a true, { ready with twin.state := .co, twin.address := 3 }, by unfold TwinMsg Clean; decide +kernel⟩,
   ⟨Frame.sealed { sent with kind := 0x21, dest := 5, payload := [9] } .a true, { ready with twin.rxStops := [(false, 0)] }, by unfold TwinMsg Clean; decide +kernel⟩,
   ⟨(Frame.sealed { sent with kind := 0x21, dest := 5, payload := [9, 0, 0, 0, 2] } .a true), { ready with twin.state := .co, twin.address := 3, pm.state := .firing }, by unfold TwinMsg Clean; decide +kernel⟩,
   ⟨Frame.sealed { sent with kind := 0x21, dest := 5, payload := [10, 0, 0, 0, 2] } .a true, { ready with twin.state := .co, twin.address := 3, pm.state := .ready }, by unfold TwinMsg Clean; decide +kernel⟩,
   ⟨Frame.sealed { sent with kind := 0x21, dest := 5, payload := [10] } .a true, { ready with twin.state := .co, twin.address := 3, twin.rxStops := [(true, 0)] }, by unfold TwinMsg Clean; decide +kernel⟩,
   ⟨Frame.sealed { sent with kind := 0x21, dest := 5, payload := [10] } .a true, { ready with twin.rxStops := [(false, 0)] }, by unfold TwinMsg Clean; decide +kernel⟩⟩

/-- The hypotheses of each clause of Obligations.SeekingAndFounding can be met. -/
theorem witness_SeekingAndFounding :
    (∃ (due : Nat) (s : State), s.twin.seekDue = some due ∧ s.mayJoin = true ∧ s.twin.hand.holds = false)
    ∧ (∃ (s : State), s.twin.seekDue = none ∨ s.mayJoin = false)
    ∧ (∃ (a : Arrival) (s : State), SeekHeard a s ∧ s.twin.hand.holds = false ∧ s.out.passive = false ∧ (s.twin.state = .solo ∨
        s.twin.state = .diverged) ∧ (byteAt (twinBody a.frame) 2 == 1) ≠ s.inp.twside ∧ s.ring.state = .admitted ∧ s.inRing
        a.frame.src.toNat = true ∧ s.readyOrRunning = true)
    ∧ (∃ (a : Arrival) (r : BitVec 4) (s : State), SeekHeard a s ∧ (r = 2 ∧ (byteAt (twinBody a.frame) 2 == 1) = s.inp.twside ∨ r = 5 ∧
        s.twin.hand.holds = false ∧ s.out.passive = false ∧ (s.twin.state = .solo ∨ s.twin.state = .diverged) ∧ (byteAt (twinBody
        a.frame) 2 == 1) ≠ s.inp.twside ∧ (s.ring.state ≠ .admitted ∨ s.inRing a.frame.src.toNat = false)))
    ∧ (∃ (a : Arrival) (s : State), SeekHeard a s ∧ s.twin.hand.holds = false ∧ s.out.passive = false ∧ (s.twin.state = .solo ∨
        s.twin.state = .diverged) ∧ (byteAt (twinBody a.frame) 2 == 1) ≠ s.inp.twside ∧ s.ring.state = .admitted ∧ s.inRing
        a.frame.src.toNat = true ∧ s.readyOrRunning = false)
    ∧ (∃ (a : Arrival) (alone : Bool) (s : State), SeekHeard a s ∧ s.twin.hand.holds = false ∧ s.out.passive = true ∧ (byteAt (twinBody
        a.frame) 2 == 1) ≠ s.inp.twside ∧ (alone = true ∨ s.inp.twside = true ∨ s.pm.state ≠ .ready ∨ s.ring.state ≠ .admitted ∨
        s.inRing a.frame.src.toNat = false))
    ∧ (∃ (a : Arrival) (s : State), SeekHeard a s ∧ s.twin.hand.holds = false ∧ s.out.passive = true ∧ s.inp.twside = false ∧ byteAt
        (twinBody a.frame) 2 = 1 ∧ s.pm.state = .ready ∧ s.inp.enHigh = 0 ∧ s.pm.onPending = none ∧ s.ring.state = .admitted ∧
        s.inRing a.frame.src.toNat = true)
    ∧ (∃ (t0 : Nat) (s : State), s.twin.seekFrom = some t0 ∧ s.twinEn = true ∧ s.out.passive = true ∧ s.pm.state = .ready ∧
        s.twin.hand.holds = false ∧ (s.ring.state = .admitted ∨ (s.ring.linkA.up = false ∧ s.ring.linkB.up = false)) ∧
        s.inp.enHigh = 0 ∧ s.pm.onPending = none)
    ∧ (∃ (t0 : Nat) (s : State), s.twin.seekFrom = some t0 ∧ s.twinEn = true ∧ s.out.passive = true ∧ s.pm.state = .ready ∧
        s.twin.hand.holds = false ∧ (s.ring.state = .admitted ∨ (s.ring.linkA.up = false ∧ s.ring.linkB.up = false)) ∧
        s.inp.enHigh ≠ 0) :=
  ⟨⟨5, ({ ready with twin.seekDue := some 5, out.passive := true }).withReg 0xA0000 0x80000000, by decide +kernel⟩,
   ⟨({ ready with twin.seekDue := none, out.passive := true }).withReg 0xA0000 0x80000000, by decide +kernel⟩,
   ⟨Frame.sealed { sent with kind := 0x21, dest := 4095, payload := [1, 0, 0, 0, 7, 0, 1] } .a true, (({ ready with twin.state := .solo, ring.state := .admitted } : State).withReg 0xA0000 0x80000000).withReg 0xA0008 0x70000, by unfold SeekHeard Clean; decide +kernel⟩,
   ⟨Frame.sealed { sent with kind := 0x21, dest := 4095, payload := [1, 0, 0, 0, 7, 0, 0] } .a true, 2, (ready.withReg 0xA0000 0x80000000).withReg 0xA0008 0x70000, by unfold SeekHeard Clean; decide +kernel⟩,
   ⟨Frame.sealed { sent with kind := 0x21, dest := 4095, payload := [1, 0, 0, 0, 7, 0, 1] } .a true, (({ ready with twin.state := .solo, ring.state := .admitted, pm.state := .cooling } : State).withReg 0xA0000 0x80000000).withReg 0xA0008 0x70000, by unfold SeekHeard Clean; decide +kernel⟩,
   ⟨Frame.sealed { sent with kind := 0x21, dest := 4095, payload := [1, 0, 0, 0, 7, 0, 1] } .a true, true, (({ ready with out.passive := true, ring.state := .admitted } : State).withReg 0xA0000 0x80000000).withReg 0xA0008 0x70000, by unfold SeekHeard Clean; decide +kernel⟩,
   ⟨Frame.sealed { sent with kind := 0x21, dest := 4095, payload := [1, 0, 0, 0, 7, 0, 1] } .a true, (({ ready with out.passive := true, ring.state := .admitted } : State).withReg 0xA0000 0x80000000).withReg 0xA0008 0x70000, by unfold SeekHeard Clean; decide +kernel⟩,
   ⟨5, ({ ready with twin.seekFrom := some 5, out.passive := true, pm.state := .ready, ring.state := .admitted, inp.enHigh := 0, pm.onPending := none }).withReg 0xA0000 0x80000000, by decide +kernel⟩,
   ⟨5, ({ ready with twin.seekFrom := some 5, out.passive := true, pm.state := .ready, ring.state := .admitted, inp.enHigh := 1 }).withReg 0xA0000 0x80000000, by decide +kernel⟩⟩

/-- The hypotheses of each clause of Obligations.Handovers can be met. -/
theorem witness_Handovers :
    (∃ (a : Arrival) (s : State), TwinMsg a 2 s ∧ s.twin.hand = .jSeek ∧ s.mayJoin = true ∧ s.readyOrRunning = true)
    ∧ (∃ (a : Arrival) (n : BitVec 128) (uid : Uid) (s : State), TwinMsg a 3 s ∧ s.twin.hand = .sChallenge n uid ∧ a.frame.src.toNat =
        s.twin.address ∧ s.readyOrRunning = true ∧ leAt (twinBody a.frame) 0 32 = (sha3 (ascii "SKV6400-TWIN" ++ leBytes 16
        n.toNat ++ leBytes 16 uid.toNat ++ digestBytes s.twinDigest)).toNat)
    ∧ (∃ (a : Arrival) (n : BitVec 128) (uid : Uid) (s : State), TwinMsg a 3 s ∧ s.twin.hand = .sChallenge n uid ∧ a.frame.src.toNat =
        s.twin.address ∧ leAt (twinBody a.frame) 0 32 ≠ (sha3 (ascii "SKV6400-TWIN" ++ leBytes 16 n.toNat ++ leBytes 16 uid.toNat
        ++ digestBytes s.twinDigest)).toNat)
    ∧ (∃ (a : Arrival) (n : BitVec 128) (uid : Uid) (s : State), TwinMsg a 3 s ∧ s.twin.hand = .sChallenge n uid ∧ a.frame.src.toNat =
        s.twin.address ∧ s.readyOrRunning = false ∧ leAt (twinBody a.frame) 0 32 = (sha3 (ascii "SKV6400-TWIN" ++ leBytes 16
        n.toNat ++ leBytes 16 uid.toNat ++ digestBytes s.twinDigest)).toNat)
    ∧ (∃ (a : Arrival) (s : State), TwinMsg a 2 s ∧ s.twin.hand = .jSeek ∧ s.mayJoin = true ∧ s.readyOrRunning = false ∧ s.out.passive =
        false)
    ∧ (∃ (a : Arrival) (s : State), TwinMsg a 4 s ∧ (s.twin.hand = .jSeek ∨ s.twin.hand = .jProof ∧ a.frame.src.toNat = s.twin.address))
    ∧ (∃ (a : Arrival) (s : State), TwinMsg a 4 s ∧ s.twin.hand ≠ .jSeek ∧ (s.twin.hand ≠ .jProof ∨ a.frame.src.toNat ≠ s.twin.address))
    ∧ (∃ (a : Arrival) (s : State), TwinMsg a 5 s ∧ s.twin.hand = .jProof ∧ a.frame.src.toNat = s.twin.address ∧ s.readyOrRunning = true
        ∧ s.out.passive = true ∧ s.inp.enHigh = BitVec.ofNat 64 (leAt (twinBody a.frame) 2 8) ∧ (s.pm.faultLatch = false ∨ byteAt
        (twinBody a.frame) 1 = 1))
    ∧ (∃ (a : Arrival) (r : BitVec 4) (s : State), TwinMsg a 5 s ∧ s.twin.hand = .jProof ∧ a.frame.src.toNat = s.twin.address ∧
        s.readyOrRunning = true ∧ s.out.passive = true ∧ (r = 3 ∧ s.inp.enHigh ≠ BitVec.ofNat 64 (leAt (twinBody a.frame) 2 8) ∨ r
        = 8 ∧ s.inp.enHigh = BitVec.ofNat 64 (leAt (twinBody a.frame) 2 8) ∧ s.pm.faultLatch = true ∧ byteAt (twinBody a.frame) 1
        ≠ 1))
    ∧ (∃ (a : Arrival) (s : State), TwinMsg a 5 s ∧ s.twin.hand = .jProof ∧ a.frame.src.toNat = s.twin.address ∧ s.readyOrRunning = true
        ∧ s.out.passive = false)
    ∧ (∃ (a : Arrival) (due : Nat) (s : State), TwinMsg a 6 s ∧ s.twin.hand = .sSync due ∧ a.frame.src.toNat = s.twin.address ∧
        s.twin.heldOn = [] ∧ (s.pm.onPending = none ∨ s.mayFire = false))
    ∧ (∃ (a : Arrival) (p : List Byte) (due : Nat) (s : State), TwinMsg a 7 s ∧ s.twin.hand = .jReady p due ∧ a.frame.src.toNat =
        s.twin.address ∧ s.out.passive = true ∧ s.out.en = 0 ∧ s.twin.heldOn = [] ∧ s.pm.state = .ready ∧ s.kiln.engines.length =
        5 ∧ s.pm.onPending = none) :=
  ⟨⟨(Frame.sealed { sent with kind := 0x21, dest := 5, payload := [2] } .a true), ({ ready with twin.hand := .jSeek, out.passive := true }).withReg 0xA0000 0x80000000, by unfold TwinMsg Clean; decide +kernel⟩,
   (⟨Frame.sealed { sent with kind := 0x21, dest := 5, payload := [3, 0, 0, 0] ++ leBytes 32 (sha3 (ascii "SKV6400-TWIN" ++ leBytes 16 (1 : BitVec 128).toNat ++ leBytes 16 (5 : Uid).toNat ++ digestBytes (State.twinDigest { ready with twin.hand := .sChallenge 1 5, twin.address := 3 }))).toNat } .a true, 1, 5, { ready with twin.hand := .sChallenge 1 5, twin.address := 3 },
    ⟨rfl, by unfold State.actsOn; rw [sealed_ok]; rfl, ⟨sealed_ok _ _, rfl⟩, rfl, rfl⟩, rfl, rfl, rfl, leAt_leBytes _ _ rfl (BitVec.isLt _)⟩),
   (by
      obtain ⟨n, hn, h⟩ := exists_other (sha3 (ascii "SKV6400-TWIN" ++ leBytes 16 (1 : BitVec 128).toNat ++ leBytes 16 (5 : Uid).toNat ++ digestBytes (State.twinDigest { ready with twin.hand := .sChallenge 1 5, twin.address := 3 }))).toNat
      exact ⟨Frame.sealed { sent with kind := 0x21, dest := 5, payload := [3, 0, 0, 0] ++ leBytes 32 n } .a true, 1, 5, { ready with twin.hand := .sChallenge 1 5, twin.address := 3 },
        ⟨rfl, by unfold State.actsOn; rw [sealed_ok]; rfl, ⟨sealed_ok _ _, show bit sent.flags 0 = false from rfl⟩, rfl, rfl⟩, rfl, rfl,
        fun e => h ((leAt_leBytes [3, 0, 0, 0] n rfl hn).symm.trans e)⟩),
   (⟨Frame.sealed { sent with kind := 0x21, dest := 5, payload := [3, 0, 0, 0] ++ leBytes 32 (sha3 (ascii "SKV6400-TWIN" ++ leBytes 16 (1 : BitVec 128).toNat ++ leBytes 16 (5 : Uid).toNat ++ digestBytes (State.twinDigest { ready with pm.state := .cooling, twin.hand := .sChallenge 1 5, twin.address := 3 }))).toNat } .a true, 1, 5,
      { ready with pm.state := .cooling, twin.hand := .sChallenge 1 5, twin.address := 3 },
      ⟨rfl, by unfold State.actsOn; rw [sealed_ok]; rfl, ⟨sealed_ok _ _, rfl⟩, rfl, rfl⟩, rfl, rfl, rfl, leAt_leBytes _ _ rfl (BitVec.isLt _)⟩),
   ⟨Frame.sealed { sent with kind := 0x21, dest := 5, payload := [2] } .a true, ({ ready with twin.hand := .jSeek, twin.state := .solo, inp.twside := true, pm.state := .cooling } : State).withReg 0xA0000 0x80000000, by unfold TwinMsg Clean; decide +kernel⟩,
   ⟨Frame.sealed { sent with kind := 0x21, dest := 5, payload := [4] } .a true, { ready with twin.hand := .jSeek }, by unfold TwinMsg Clean; decide +kernel⟩,
   ⟨Frame.sealed { sent with kind := 0x21, dest := 5, payload := [4] } .a true, { ready with twin.hand := .jProof, twin.address := 9 }, by unfold TwinMsg Clean; decide +kernel⟩,
   ⟨(Frame.sealed { sent with kind := 0x21, dest := 5, payload := [5] } .a true), { ready with twin.hand := .jProof, twin.address := 3, out.passive := true, inp.enHigh := BitVec.ofNat 64 (leAt (twinBody heard.frame) 2 8), pm.faultLatch := false }, by unfold TwinMsg Clean; decide +kernel⟩,
   ⟨(Frame.sealed { sent with kind := 0x21, dest := 5, payload := [5] } .a true), 3, { ready with twin.hand := .jProof, twin.address := 3, out.passive := true, inp.enHigh := 1 }, by unfold TwinMsg Clean; decide +kernel⟩,
   ⟨Frame.sealed { sent with kind := 0x21, dest := 5, payload := [5] } .a true, { ready with twin.hand := .jProof, twin.address := 3, out.passive := false }, by unfold TwinMsg Clean; decide +kernel⟩,
   ⟨Frame.sealed { sent with kind := 0x21, dest := 5, payload := [6] } .a true, 5, { ready with twin.hand := .sSync 5, twin.address := 3, twin.heldOn := [] }, by unfold TwinMsg Clean; decide +kernel⟩,
   ⟨Frame.sealed { sent with kind := 0x21, dest := 5, payload := [7] } .a true, [], 5, { ready with twin.hand := .jReady [] 5, twin.address := 3, out.passive := true, out.en := 0, twin.heldOn := [], pm.state := .ready }, by unfold TwinMsg Clean; decide +kernel⟩⟩

/-- The hypotheses of each clause of Obligations.InterruptedHandovers can be met. -/
theorem witness_InterruptedHandovers :
    (∃ (a : Arrival) (s : State), TwinMsg a 8 s ∧ a.frame.src.toNat = s.twin.address ∧ s.twin.address ≠ 0 ∧ s.twin.heldOn = [] ∧
        (s.pm.onPending = none ∨ s.mayFire = false) ∧ (s.twin.hand = .jProof ∨ ∃ p due, s.twin.hand = .jReady p due))
    ∧ (∃ (a : Arrival) (due : Nat) (s : State), TwinMsg a 8 s ∧ a.frame.src.toNat = s.twin.address ∧ s.twin.address ≠ 0 ∧ s.twin.heldOn
        = [] ∧ (s.pm.onPending = none ∨ s.mayFire = false) ∧ s.twin.hand = .sSync due)
    ∧ (∃ (a : Arrival) (s : State), TwinMsg a 8 s ∧ a.frame.src.toNat = s.twin.address ∧ s.twin.address ≠ 0 ∧ s.twin.hand = .none ∧
        s.twin.state = .co)
    ∧ (∃ (s : State), s.twin.hand.holds = false)
    ∧ (∃ (due : Nat) (s : State), s.twin.hand = .sSync due ∧ s.twin.heldOn = [] ∧ (s.pm.onPending = none ∨ s.mayFire = false))
    ∧ (∃ (c : Byte) (due : Nat) (s : State), s.twin.hand = .sSync due ∧ s.twin.heldOn = [] ∧ s.pm.onPending = some c ∧ s.mayFire = true)
    ∧ (∃ (p : List Byte) (due : Nat) (s : State), s.twin.hand = .jReady p due ∧ s.twin.heldOn = [] ∧ (s.pm.onPending = none ∨ s.mayFire
        = false))
    ∧ (∃ (c : Byte) (due : Nat) (s : State), s.twin.hand = .sSync due ∧ s.twin.heldOn = [c] ∧ s.twin.state = .solo ∧ s.mayFire = true ∧
        (s.till due).onJoins = none) :=
  ⟨⟨Frame.sealed { sent with kind := 0x21, dest := 5, payload := [8] } .a true, { ready with twin.address := 3, twin.heldOn := [], twin.hand := .jProof }, by
      unfold TwinMsg Clean; exact ⟨by decide +kernel, by decide +kernel, by decide +kernel, by decide +kernel, by decide +kernel, .inl rfl⟩⟩,
   ⟨Frame.sealed { sent with kind := 0x21, dest := 5, payload := [8] } .a true, 5, { ready with twin.address := 3, twin.heldOn := [], twin.hand := .sSync 5 }, by unfold TwinMsg Clean; decide +kernel⟩,
   ⟨(Frame.sealed { sent with kind := 0x21, dest := 5, payload := [8] } .a true), { ready with twin.address := 3, twin.hand := .none, twin.state := .co }, by unfold TwinMsg Clean; decide +kernel⟩,
   ⟨ready, by decide +kernel⟩,
   ⟨5, { ready with twin.hand := .sSync 5, twin.heldOn := [] }, by decide +kernel⟩,
   ⟨1, 5, { ready with twin.hand := .sSync 5, twin.heldOn := [], pm.onPending := some 1 }, by decide +kernel⟩,
   ⟨[], 5, { ready with twin.hand := .jReady [] 5, twin.heldOn := [] }, by decide +kernel⟩,
   ⟨1, 5, { ready with twin.hand := .sSync 5, twin.heldOn := [1], twin.state := .solo }, by decide +kernel⟩⟩

/-- The hypotheses of each clause of Obligations.StepRunsTheFrontCommand can be met. -/
theorem witness_StepRunsTheFrontCommand :
    (∃ (c : Instr) (rest : List Instr) (s : State), s.pending = c :: rest)
    ∧ (∃ (s : State), s.pending = []) :=
  ⟨⟨.vinGood, [.vinGood], { ready with pending := .vinGood :: ([.vinGood]) }, by decide +kernel⟩,
   ⟨{ ready with pending := [] }, by decide +kernel⟩⟩

/-- The hypotheses of each clause of Obligations.StepsKeepTheForm can be met. -/
theorem witness_StepsKeepTheForm :
    (∃ (s t : State), step s = .next t ∧ s.tablesOk = true ∧ s.unitsOk = true) :=
  ⟨ready, _, rfl, by decide +kernel, by decide +kernel⟩

/-- The hypotheses of each clause of Obligations.CommandsNeverTurnBack can be met. -/
theorem witness_CommandsNeverTurnBack :
    (∃ (i : Instr) (s t : State), exec i s = .next t) :=
  ⟨.mrAssert, ready, _, rfl⟩

/-- The hypotheses of each clause of Obligations.OnlyTheirCommandsWrite can be met. -/
theorem witness_OnlyTheirCommandsWrite :
    (∃ (i : Instr) (s t : State), exec i s = .next t ∧ ¬ WritesCfg i)
    ∧ (∃ (i : Instr) (s t : State), exec i s = .next t ∧ (∀ b, i ≠ .programLoad b) ∧ (∀ b, i ≠ .imageLoad b))
    ∧ (∃ (i : Instr) (s t : State), exec i s = .next t ∧ (∀ b, i ≠ .saggarProgramLoad b) ∧ (∀ b, i ≠ .imageLoad b))
    ∧ (∃ (i : Instr) (s t : State), exec i s = .next t ∧ (∀ b, i ≠ .tableLoad b) ∧ (∀ b, i ≠ .htableLoad b) ∧ (∀ b, i ≠ .imageLoad b))
    ∧ (∃ (i : Instr) (s t : State), exec i s = .next t ∧ (∀ b, i ≠ .calibrationWrite b))
    ∧ (∃ (i : Instr) (s t : State), exec i s = .next t ∧ ¬ ChangesKeys i) :=
  ⟨⟨.mrAssert, ready, _, rfl, id⟩,
   ⟨.mrAssert, ready, _, rfl, fun _ h => Instr.noConfusion h, fun _ h => Instr.noConfusion h⟩,
   ⟨.mrAssert, ready, _, rfl, fun _ h => Instr.noConfusion h, fun _ h => Instr.noConfusion h⟩,
   ⟨.mrAssert, ready, _, rfl, fun _ h => Instr.noConfusion h, fun _ h => Instr.noConfusion h, fun _ h => Instr.noConfusion h⟩,
   ⟨.mrAssert, ready, _, rfl, fun _ h => Instr.noConfusion h⟩,
   ⟨.mrAssert, ready, _, rfl, id⟩⟩

/-- The hypotheses of each clause of Obligations.LatchAndRecordsStay can be met. -/
theorem witness_LatchAndRecordsStay :
    (∃ (i : Instr) (s t : State), exec i s = .next t ∧ i ≠ .clearCmd ∧ s.pm.faultLatch = true)
    ∧ (∃ (i : Instr) (x : FaultRec × Nat) (s t : State), exec i s = .next t ∧ i ≠ .bisqueClear ∧ s.fault.first = some x)
    ∧ (∃ (i : Instr) (s t : State), exec i s = .next t ∧ i ≠ .bisqueClear ∧ s.fault.bisque.filled = true) :=
  ⟨⟨.mrAssert, { ready with pm.faultLatch := true }, _, rfl, nofun, rfl⟩,
   ⟨.mrAssert, (⟨1, 3, 0, 0⟩, 0), { ready with fault.first := some ((⟨1, 3, 0, 0⟩, 0)) }, _, rfl, nofun, rfl⟩,
   ⟨.mrAssert, { ready with fault.bisque.filled := true }, _, rfl, nofun, rfl⟩⟩

/-- The hypotheses of each clause of Obligations.FaultsSetTheLatch can be met. -/
theorem witness_FaultsSetTheLatch :
    (∃ (f : FaultRec) (s : State), (f.grade = 2 ∨ f.grade = 3) ∧ s.pm.state ≠ .off ∧ s.pm.state ≠ .coppice)
    ∧ (∃ (s : State), s.pm.state ≠ .off ∧ s.pm.state ≠ .coppice) :=
  ⟨⟨⟨1, 3, 0, 0⟩, ready, by decide +kernel⟩,
   ⟨ready, by decide +kernel⟩⟩

/-- The hypotheses of each clause of Obligations.CoppiceStays can be met. -/
theorem witness_CoppiceStays :
    (∃ (i : Instr) (s t : State), exec i s = .next t ∧ s.pm.state = .coppice)
    ∧ (∃ (s : State), s.pm.state = .coppice)
    ∧ (∃ (s : State), s.pm.state = .coppice) :=
  ⟨⟨.mrAssert, { ready with pm.state := .coppice }, _, rfl, rfl⟩,
   ⟨{ ready with pm.state := .coppice }, by decide +kernel⟩,
   ⟨{ ready with pm.state := .coppice }, by decide +kernel⟩⟩

/-- The hypotheses of each clause of Obligations.RailsAreEnabledOnlyBySteps can be met. -/
theorem witness_RailsAreEnabledOnlyBySteps :
    (∃ (i : Instr) (n : Nat) (s t : State), exec i s = .next t ∧ bit t.out.en n = true ∧ bit s.out.en n = false) :=
  ⟨.enableStep 1 .clean, 0, ready.withEng 1 { st := .running } 0x1000000000000001, _, rfl, by decide +kernel, by decide +kernel⟩

/-! ## Ill-formed commands are refused -/

theorem test_wf_pbShortPress : (Instr.pbShortPress 0).wf = false := by decide
theorem test_wf_holdUpFloor : (Instr.holdUpFloor 0 65).wf = false := by decide
theorem test_wf_ctrigEdge : (Instr.ctrigEdge 0).wf = false ∧ (Instr.ctrigEdge 9).wf = false := by decide
theorem test_wf_saggarConversionDemand : (Instr.saggarConversionDemand 112).wf = false := by decide
theorem test_wf_engineRows : (Instr.nopStep 5 .clean).wf = false ∧ (Instr.haltStep 7 .clean).wf = false ∧ (Instr.waitEnd 5).wf = false
    ∧ (Instr.waitforSatisfied 5 0).wf = false ∧ (Instr.checkQualified 6 0).wf = false := by decide
theorem test_wf_spiUnknownTransfer : (Instr.spiUnknownTransfer 0xA1 0).wf = false ∧ (Instr.spiUnknownTransfer 0xA3 0).wf = false := by
  decide
theorem test_wf_registerWrite : (Instr.registerWrite 0 0x60000 0).wf = false := by decide
theorem test_wf_crossings : (Instr.crossingError 0).wf = false ∧ (Instr.crossingError 5).wf = false ∧ (Instr.clockStopped 4).wf = false
    ∧ (Instr.crossingResumes 2).wf = false := by decide
theorem test_wf_twTransactionEnd : (Instr.twTransactionEnd 0 4 0).wf = false ∧ (Instr.twTransactionEnd 0 8 0).wf = false := by decide
theorem test_wf_pwmTrip : (Instr.pwmTrip 14).wf = false := by decide
theorem test_wf_frames :
    (Instr.commandFrame (Frame.sealed { sent with payload := List.replicate 8193 0 } .a true)).wf = false
      ∧ (Instr.unknownFrame (Frame.sealed { sent with payload := List.replicate 8193 0 } .a true)).wf = false := by decide +kernel

/-! ## Tests on fixed values -/

/-- The state that a command answers. -/
def after (i : Instr) (s : State) : State :=
  match exec i s with
  | .next t => t
  | _ => State.reset

/-- CRC-32C of the nine digits is the value that every description of it gives (R184). -/
theorem test_crc32c : crc32c (ascii "123456789") = 0xE3069283 := by decide +kernel

/-- FIPS 202 and FIPS 180-4: the digests of the empty message, first byte least significant. -/
theorem test_sha3 : sha3 [] = 0x4a43f8804b0ad882fa493be44dff80f562d661a05647c15166d71ebff8c6ffa7 := by decide +kernel
theorem test_sha512 : sha512 [] = BitVec.ofNat 512
    0x3eda27f97a3238a5817a4147bd31b9632fec7e87d21883ffb0f2855d3cd1d047cee96cd321a9f483dc15570b05e420d607806dd6502854f1bdb8ef7e35e183cf := by
  decide +kernel

/-- R360: the identification code of stepping A1, and no boundary cell that drives an EN pin. -/
theorem test_jtag : Ident.idcode { State.reset.ident with steppingA1 := true } = 0x164004F3
    ∧ (Cell.out (.en 3)).level .extest true false = false := by decide

/-- R360: the boundary register captures the pins under SAMPLE/PRELOAD, and BYPASS one bit of 0. -/
theorem test_jtag_capture : let t := (ready.tapInstr .samplePreload).tapCapture [.out .hint, .out (.flt 2)] (fun c => c == .out .hint)
    (t.jtag.shift, (ready.tapInstr .bypass).jtagData [] (fun _ => true)) = ([true, false], [false]) := by decide +kernel

/-- R318: the eighth consecutive pair of samples that disagree is an error, and the seventh is not. -/
theorem test_value_crossing : let x : ValueX Nat := { visible := 0 }
    (([1, 2, 3, 4, 5, 6, 7, 8].foldl ValueX.clock x).error, ([1, 2, 3, 4, 5, 6, 7, 8, 9].foldl ValueX.clock x).error)
      = (false, true) := by decide +kernel

/-- R323: after 16 grants in a row to the copier, level 2, a level 5 request comes first. -/
theorem test_mram_ladder : let l : List (Ask Bool) := [⟨2, 0, true⟩, ⟨5, 0, false⟩]
    ((mramGrant id 15 1 l).map (·.level), (mramGrant id 16 1 l).map (·.level)) = (some 2, some 5) := by decide +kernel

/-- R354, Table 15.3: a released EN is held low, and a passive device leaves it to its line. -/
theorem test_pins : ready.pinDrive (.en 3) = .low ∧ State.pinDrive { ready with out.passive := true } (.en 3) = .left := by decide +kernel

/-- R26: a long press ranks before an on request of the same cycle. -/
theorem test_rank : State.rankedTick (State.withReg { ready with ctl.pbMode := .pressed } 0x60000 3) [.pbLongPress, .onreqRise] = true := by
  decide +kernel

/-- No row of the table gives bits, so no word spells a command. -/
theorem test_no_word_spells_a_command : decodeTableWord 16 0 = none := by decide

/-- The command at the front of the queue runs on the rest of it. -/
theorem test_step_takes_the_front :
    (match step { ready with pending := [.mrAssert, .onreqRise] } with | .next t => (t.pending, t.inp.mr) | _ => ([], false))
      = ([.onreqRise], true) := by decide +kernel

/-- R101: an on request with no engine in the start mask goes through Firing to Running in the next tick. -/
theorem test_onreq_fires : let t := after .onreqRise ((ready.withReg 0x60000 2).withReg 0x40000 0)
    (t.pm.state, t.pm.lastCause, t.clk.now) = (.running, 0x18, 1) := by decide +kernel

/-- R148: with the fault latch set the request is counted, and nothing else. -/
theorem test_onreq_ignored : let t := after .onreqRise (({ ready with pm.faultLatch := true } : State).withReg 0x60000 2)
    (t.pm.state, t.ctl.ignoredOn) = (.ready, 1) := by decide +kernel

/-- R152: a long press in Running asserts PFW and TRIPO, sets the latch and takes table 7. -/
theorem test_long_press : let t := after .pbLongPress { ready with
      pm.state := .running, ctl.pbMode := .pressed, out.pfw := false, out.tripo := false }
    (t.pm.state, t.out.pfw, t.out.tripo, t.pm.faultLatch, t.walk.table) = (.cooling, true, true, true, 7) := by decide +kernel

/-- R155: the loss of the logic die enters Coppice mode under table 6. -/
theorem test_logic_die_lost : let t := after .logicDieLost { ready with pm.state := .running }
    (t.pm.state, t.walk.table, t.walk.reduced, t.fault.bisque.cause) = (.coppice, 6, true, 0x30) := by decide +kernel

/-- R106: ENABLE with its upper bit set selects rails 32 to 63. -/
theorem test_enable_upper : (after (.enableStep 0 .clean) (ready.withEng 0 { st := .running } 0x1100000080000000)).out.en
    = 0x8000000000000000 := by decide +kernel

/-- R117: a DISABLE of the same tick wins over an ENABLE. -/
theorem test_disable_wins : (after (.enableStep 0 .clean) (State.withEng { ready with kiln.tick.disabled := 1 } 0 { st := .running }
    0x1000000000000003)).out.en = 2 := by decide +kernel

/-- Table 04.5: a WAIT of 3 units of 1 µs. -/
theorem test_wait : ((after (.waitStep 0 .clean) (ready.withEng 0 { st := .running } 0x3100000000000003)).eng 0).busy
    = .wait 600 := by decide +kernel

/-- R124: an engine that would run past the last address of its store ends in error. -/
theorem test_runs_past_the_store : ((after (.nopStep 1 .clean) (ready.withEng 1 { st := .running, pc := 0xFFF } 0)).eng 1).st
    = .error := by decide +kernel

/-- R102: an uncorrectable word ends the engine in error, and counts. -/
theorem test_uncorrectable_word : let t := after (.nopStep 1 .uncorrectable) (ready.withEng 1 { st := .running } 0)
    ((t.eng 1).st, t.kiln.uncorrectable) = (.error, 1) := by decide +kernel

/-- R70: a crossing changes the delivered output of a comparator on the good side. -/
theorem test_crossing : ((after (.comparatorCrossing 5 true) (ready.withCmp 5 { status := .good, side := false, out := false })).cmp 5).out
    = true := by decide +kernel

/-- R334: an asserted PFW trips a channel that names it, and no other. -/
theorem test_pwm_trip : let t := after (.pwmTrip 13) (ready.withReg 0xD0120 0x40000)
    ((t.ch 1).latch, (t.ch 0).latch || (t.ch 2).latch, t.pwm.tripCount) = (true, false, 1) := by decide +kernel

/-- Table 14.2: a class 1 write of a class 2 field is refused with 0x24, and nothing is written. -/
theorem test_write_refused : let t := after (.writeRegsClass1 lines) (ready.toRun
      { cmd with op := 0x48, payload := [1, 0, 0, 0, 8, 0, 6, 0, 5, 0, 0, 0] })
    (t.port.replies.map (fun r => byteAt r.bytes 22), t.cfg) = ([0x24], []) := by decide +kernel

/-- R347: a class 2 write of CT_GRACE changes the register. -/
theorem test_write_taken : (ready.writeAll [(0x60008, 5)]).1.cfgAt 0x60008 = 5 := by decide +kernel

/-- R211: the same command without its confirmation changes nothing. -/
theorem test_write_unconfirmed : (ready.confirmed cmd true lines { ready with free := 9 }).free = 0
    ∧ (ready.confirmFails cmd).sec.confirmFail = 1 := by
  rw [State.confirmed, confirms_unmet _ _ _ (by decide) (by decide)]; decide +kernel

/-- R154: CLEAR with no cause active clears the latch. -/
theorem test_clear : (after .clearCmd (State.toRun { ready with pm.faultLatch := true } { cmd with op := 0x42 })).pm.faultLatch
    = false := by decide +kernel

/-- R190: DRAIN sets the drained mark. -/
theorem test_drain : (after .drainCmd (State.toRun { ready with log.fa.next := 9 } { cmd with op := 0x46, payload := [7] })).log.drained
    = 7 := by decide +kernel

/-- R204: a NOP packet joins the execution queue as the command that it spells. -/
theorem test_spi_write : let t := after (.spiWrite (packet 0x00 17 0 0 0 0 [] [])) ready
    (t.port.execq, t.port.received) = ([(false, 17)], 1) := by decide +kernel

/-- R204: a packet whose header CRC does not hold is answered with 0x10 under tag 127. -/
theorem test_spi_bad_header : (after (.spiWrite (List.replicate 32 0)) ready).port.replies.map (fun r => (byteAt r.bytes 5, byteAt r.bytes 22))
    = [(127, 0x10)] := by decide +kernel

/-- Table 11.2: a transaction that is not acknowledged ends its sequence with result 2. -/
theorem test_tw_nack : let t := after (.twTransactionEnd 1 2 0) ((ready.withReg 0xB0040 0x80000000).withPort 1
      { queue := [seq], activity := 1 })
    ((t.port2 1).nack, (t.port2 1).queue, t.twEnded) = (1, [], [(seq, 2)]) := by decide +kernel

/-- R252: a frame whose CRC does not hold is counted and not acted on. -/
theorem test_bad_frame : let t := after (.conflictFrame (Frame.sealed { sent with kind := 0x15 } .a false)) ready
    (t.ring.linkA.crcErr, t.ring.state) = (1, .noLink) := by decide +kernel

/-- R263: a port's loss of link is counted. -/
theorem test_link_down : let t := after (.linkDown .a) ready
    (t.ring.linkA.up, t.ring.linkA.down) = (false, 1) := by decide +kernel

end Sys2Proof.Machine
end

section
/-! SUPPORT. How long Coppice mode lasts (O59): what each operation and each row does to the device state in Coppice mode. -/

set_option Elab.async false

namespace Sys2Proof.Machine

/-! ## Reading the power mode through an operation -/

theorem Only.pm_eq {ps : List Part} {s t : State} (h : Only ps s t) (hp : Part.pm ∉ ps := by decide) : t.pm = s.pm :=
  h .pm hp

theorem foldl_coppice {α : Type} {f : State → α → State} {s : State} (hs : s.pm.state = .coppice) (l : List α)
    (hf : ∀ t x, t.pm.state = .coppice → (f t x).pm.state = .coppice) : (l.foldl f s).pm.state = .coppice := by
  induction l generalizing s with
  | nil => exact hs
  | cons x l ih => exact ih (hf s x hs)

@[simp] theorem foldl_pm {α : Type} {f : State → α → State} (hf : ∀ t x, (f t x).pm = t.pm) (l : List α) (s : State) :
    (l.foldl f s).pm = s.pm := by
  induction l generalizing s with
  | nil => rfl
  | cons x l ih => rw [List.foldl_cons, ih, hf]

@[simp] theorem State.ite_pm (c : Prop) [Decidable c] (s t : State) : (if c then s else t).pm = if c then s.pm else t.pm :=
  apply_ite State.pm c s t

@[simp] theorem Pm.ite_state (c : Prop) [Decidable c] (p q : Pm) : (if c then p else q).state =
    if c then p.state else q.state :=
  apply_ite Pm.state c p q

/-! ## Replies and refusals keep the device state -/

section
variable (s : State)

@[simp] theorem State.replyOut_state (r : Reply) : (s.replyOut r).pm.state = s.pm.state := by
  simp [State.replyOut]

@[simp] theorem State.post_state (r : Reply) : (s.post r).pm.state = s.pm.state := by
  simp [State.post, (State.dropCmd_only _ _ _).pm_eq, (State.sendFrame_only _ _ _).pm_eq]

@[simp] theorem State.answer_state (c : Cmd) (status : Nat) (payload : List Byte) :
    (s.answer c status payload).pm.state = s.pm.state := by
  simp [State.answer, (State.setCmd_only _ _).pm_eq]

@[simp] theorem State.finish_state (c : Cmd) (status : Nat) (payload : List Byte) :
    (s.finish c status payload).pm.state = s.pm.state := by
  simp [State.finish, (State.refusalEffects_only _ _ _).pm_eq, (State.noteBroadcast_only _ _ _).pm_eq,
    (State.dropCmd_only _ _ _).pm_eq, (State.setCmd_only _ _).pm_eq]

@[simp] theorem State.ok_state (c : Cmd) (payload : List Byte) : (s.ok c payload).pm.state = s.pm.state :=
  s.finish_state c 0 payload

@[simp] theorem State.refuse_state (c : Cmd) (status : Nat) : (s.refuse c status).pm.state = s.pm.state :=
  s.finish_state c status []

@[simp] theorem State.confirmFails_state (c : Cmd) : (s.confirmFails c).pm.state = s.pm.state := by
  simp [State.confirmFails]

@[simp] theorem State.postSigned_state (u : Unsigned) : (s.postSigned u).pm.state = s.pm.state := by
  simp [State.postSigned]

@[simp] theorem State.flushSigning_state (n : Nat) : (s.flushSigning n).pm.state = s.pm.state := by
  induction n generalizing s with
  | zero => rfl
  | succ n ih =>
    unfold State.flushSigning
    split
    · split
      · rfl
      · rw [ih, State.postSigned_state]
    · rfl

@[simp] theorem State.count5_state (c : Cmd) : (s.count5 c).pm.state = s.pm.state := by
  unfold State.count5
  split
  · exact s.finish_state c _ []
  · rw [(State.pass5_only _ _).pm_eq]

@[simp] theorem State.runStage5_state (ring : Bool) (n : Nat) : (s.runStage5 ring n).pm.state = s.pm.state := by
  induction n generalizing s with
  | zero => rfl
  | succ n ih =>
    unfold State.runStage5
    split
    · split
      · rw [ih, State.count5_state]
      · rfl
    · rfl

@[simp] theorem State.marginDone_state (n : Nat) (key : Bool × Nat) : (s.marginDone n key).pm.state = s.pm.state := by
  unfold State.marginDone
  split
  · split <;> simp
  · rfl

end

/-! ## Operations in Coppice mode

No fault is received and no request answered; what else an operation does leaves the device in Coppice mode. -/

section
variable {s : State} (h : s.pm.state = .coppice)
include h

@[simp] theorem State.receiveW_coppice (f : FaultRec) : s.receiveW f = s := by simp [State.receiveW, h]

@[simp] theorem State.receiveTH_coppice (f : FaultRec) (table : Nat) : s.receiveTH f table = s := by simp [State.receiveTH, h]

@[simp] theorem State.receiveAs_coppice (f : FaultRec) (table : Nat) : (s.receiveAs f table).pm = s.pm := by
  simp [State.receiveAs, h, (State.faultShard_only _ _ _ _ _).pm_eq]

@[simp] theorem State.receive_coppice (f : FaultRec) : (s.receive f).pm = s.pm := by simp [State.receive, h]

@[simp] theorem State.receiveCause_coppice (x source : Nat) : (s.receiveCause x source).pm = s.pm := by
  simp [State.receiveCause, h]

@[simp] theorem State.senseFault_coppice (f : FaultRec) : (s.senseFault f).pm = s.pm := by simp [State.senseFault, h]

@[simp] theorem State.forceOff_coppice : s.forceOff.pm = s.pm := by
  simp [State.forceOff, h, (State.recordBisque_only _ _ _).pm_eq]

@[simp] theorem State.engineFault_coppice (k err : Nat) : (s.engineFault k err).pm = s.pm := by
  simp [State.engineFault, h]

@[simp] theorem State.engineError_coppice (k err : Nat) : (s.engineError k err).pm = s.pm := by
  simp [State.engineError, h]

@[simp] theorem State.endStep_coppice (k d : Nat) : (s.endStep k d).pm = s.pm := by
  simp [State.endStep, h, State.goStep]

@[simp] theorem State.marginEnd_coppice (k n : Nat) (r : BitVec 2) : (s.marginEnd k n r).pm = s.pm := by
  simp [State.marginEnd, h]

/-! Comparators, rails, conversions and self-tests -/

@[simp] theorem State.senseChange_coppice (old : State) (srcs : List Nat) : (s.senseChange old srcs).pm = s.pm := by
  simp [State.senseChange, h, (State.refreshFlt_only _ _).pm_eq, (State.armAll_only _ _).pm_eq]

theorem State.senseChange_stays (old : State) (srcs : List Nat) : (s.senseChange old srcs).pm.state = .coppice := by simp [h]

@[simp] theorem State.release_coppice (old : State) (src : Nat) : (s.release old src).pm = s.pm := by
  simp [State.release, h, (State.reeval_only _ _).pm_eq]

@[simp] theorem State.disable_coppice (m : Rails) : (s.disable m).pm = s.pm := by
  simp [State.disable, h, (State.cmpLow_only _ _).pm_eq]

@[simp] theorem State.enLow_coppice (m : Rails) : (s.enLow m).pm = s.pm := by simp [State.enLow, h]

@[simp] theorem State.resolveBy_coppice (n : Nat) (code : BitVec 16) : (s.resolveBy n code).pm = s.pm := by
  unfold State.resolveBy
  extract_lets srcs t
  have ht : t.pm = s.pm := by
    refine (Only.foldl srcs (Only.refl [.sense] s) fun u x hu => ?_).pm_eq
    split
    · split
      · exact hu.trans (u.observe_only x _)
      · exact hu
    · exact hu
  simp [h, ht]

@[simp] theorem State.takeReading_coppice (i : Nat) (raw : BitVec 16) : (s.takeReading i raw).pm = s.pm := by
  simp [State.takeReading, h, (State.putReading_only _ _ _).pm_eq, (State.bumpSeq_only _ _).pm_eq]

@[simp] theorem State.convDone_coppice (c : Nat) (x : Conv) (raw : BitVec 16) : (s.convDone c x raw).pm = s.pm := by
  simp [State.convDone, h, (State.assign_only _ _ _).pm_eq, (State.served_only _ _ _).pm_eq, (State.openGroups_only _).pm_eq]

@[simp] theorem State.skipTest_coppice (src : Nat) : (s.skipTest src).pm = s.pm := by
  simp [State.skipTest, h]

@[simp] theorem State.restoreTest_coppice (src : Nat) (wrong : Bool) : (s.restoreTest src wrong).pm = s.pm := by
  simp [State.restoreTest, h, State.endTest, (State.startSettle_only _ _).pm_eq]

/-! Requests, and the twin that they reach -/

@[simp] theorem State.mayFire_coppice : s.mayFire = false := by simp [State.mayFire, h]

@[simp] theorem State.tryPending_coppice : s.tryPending = s := by
  unfold State.tryPending
  split <;> simp [h]

@[simp] theorem State.newRequest_coppice (cause : Nat) : s.newRequest cause = s := by simp [State.newRequest, h]

@[simp] theorem State.onRequest_coppice (cause : Nat) : (s.onRequest cause).pm.state = .coppice := by
  unfold State.onRequest
  split
  · simp [State.joinRequest, h]
  · simp [h]

@[simp] theorem State.offRequest_coppice (cause : Nat) (keep : Option (Bool × Nat)) : s.offRequest cause keep = s := by
  simp [State.offRequest, h]

@[simp] theorem State.releaseHeld_coppice : s.releaseHeld.pm.state = .coppice := by
  have hf : (s.twin.heldOn.foldl (fun (t : State) c => (t.mirror 1 c.toNat).onRequest c.toNat)
      { s with twin := { s.twin with heldOn := [] } }).pm.state = .coppice := by
    refine foldl_coppice ?_ _ fun t c ht => State.onRequest_coppice ?_ _
    · exact h
    · rw [(State.mirror_only _ _ _).pm_eq, ht]
  simp [State.releaseHeld, hf]

@[simp] theorem State.joinFails_coppice : s.joinFails.pm.state = .coppice := by simp [State.joinFails, h]

@[simp] theorem State.serveFails_coppice (reason : Nat) : (s.serveFails reason).pm.state = .coppice := by
  simp [State.serveFails, h, (State.diverge_only _).pm_eq]

@[simp] theorem State.foundOrBlock_coppice : s.foundOrBlock.pm.state = .coppice := by
  simp [State.foundOrBlock, h, (State.found_only _).pm_eq]

@[simp] theorem State.twinAtReady_coppice : s.twinAtReady.pm.state = .coppice := by
  simp [State.twinAtReady, h, (State.updateTwok_only _).pm_eq]

/-! The reduced walk -/

@[simp] theorem State.walkRelease_coppice (m : Rails) : (s.walkRelease m).pm = s.pm := by simp [State.walkRelease, h]

@[simp] theorem State.walkAct_coppice (x : Step64) : (s.walkAct x).pm = s.pm := by
  simp [State.walkAct, h, (State.trimDischarge_only _ _).pm_eq, (State.walkSeek_only _ _).pm_eq]

@[simp] theorem State.walkDue_coppice (x : Step64) (due : Nat) : (s.walkDue x due).pm = s.pm := by
  simp [State.walkDue, h]

@[simp] theorem State.sweepAll_coppice : s.sweepAll.pm = s.pm := by simp [State.sweepAll, h]

@[simp] theorem State.reducedSweep_coppice : s.reducedSweep.pm = s.pm := by
  simp [State.reducedSweep, h, (State.trimsOff_only _).pm_eq]

end

/-! ## Register writes -/

theorem State.writeContent_state (s : State) (r : Reg) (v : Word) : (s.writeContent r v).pm.state = s.pm.state := by
  have hs : (if r.row.base / 0x10000 = 0xD then s.pwSettle else s).pm = s.pm := by simp [(State.pwSettle_only _).pm_eq]
  unfold State.writeContent
  dsimp only
  generalize (if r.row.base / 0x10000 = 0xD then s.pwSettle else s) = u at hs
  split <;> simp [hs, (State.clearFlt_only _ _).pm_eq, (State.clearFail_only _ _ _).pm_eq, (State.popQueue_only _).pm_eq,
    (State.addPhase_only _ _ _).pm_eq, (State.setLoadAll_only _).pm_eq, (State.writeRun_only _ _).pm_eq,
    (State.clearLatches_only _ _).pm_eq, (State.keepShadow_only _ _).pm_eq, (State.putCfg_only _ _ _).pm_eq]

theorem State.writeWord_state (e : State × List Written) (w : Nat × Word) :
    (State.writeWord e w).1.pm.state = e.1.pm.state := by
  unfold State.writeWord
  split
  · rfl
  · dsimp only
    split
    · rfl
    · exact State.writeContent_state _ _ _

theorem State.writeWords_state (l : List (Nat × Word)) (e : State × List Written) :
    (l.foldl State.writeWord e).1.pm.state = e.1.pm.state := by
  induction l generalizing e with
  | nil => rfl
  | cons w l ih => rw [List.foldl_cons, ih, State.writeWord_state]

@[simp] theorem State.writeAll_state (s : State) (l : List (Nat × Word)) : (s.writeAll l).1.pm.state = s.pm.state :=
  State.writeWords_state l (s, [])

section
variable {s : State} (h : s.pm.state = .coppice)
include h

@[simp] theorem State.attenChanged_coppice (n : Nat) : (s.attenChanged n).pm.state = .coppice := by
  refine foldl_coppice ?_ _ fun u x hu => by simp [hu]
  rw [(State.forcedChange_only _ _).pm_eq]
  exact foldl_coppice h _ fun u x hu => hu

@[simp] theorem State.twinEnChanged_coppice (old : State) : (s.twinEnChanged old).pm.state = .coppice := by
  refine foldl_coppice (State.senseChange_stays ?_ _ _) _ fun v n hv => by rw [(State.trimSide_only _ _ _).pm_eq, hv]
  refine foldl_coppice (State.twinAtReady_coppice ?_) _ fun u x hu => by simp [hu]
  simp [h]

theorem State.writeAfter_coppice (cfg : Tab Word) (r : Reg) (v c : Word) : (s.writeAfter cfg r v c).pm.state = .coppice := by
  unfold State.writeAfter
  dsimp only
  split <;> simp [h, (State.trimSide_only _ _ _).pm_eq, (State.cmpCfgChanged_only _ _ _ _).pm_eq,
    (State.refreshFlt_only _ _).pm_eq, (State.scanChanged_only _).pm_eq, (State.assignAll_only _).pm_eq,
    (State.intervalChanged_only _).pm_eq,
    (State.stopCycle_only _).pm_eq, (State.startCycle_only _).pm_eq, (State.twEnable_only _ _).pm_eq,
    (State.twReset_only _ _).pm_eq, (State.twClear_only _ _).pm_eq, (State.reenumerate_only _).pm_eq,
    (State.forgetAbsent_only _).pm_eq, (State.outChanged_only _ _ _ _).pm_eq]

@[simp] theorem State.writesFollow_coppice (l : List Written) : (s.writesFollow l).pm.state = .coppice :=
  foldl_coppice h l fun _ _ ht => State.writeAfter_coppice ht _ _ _ _

@[simp] theorem State.doWords_coppice (c : Cmd) (l : List (Nat × Word)) : (s.doWords c l).pm.state = .coppice := by
  simp [State.doWords, h, (State.newImage_only _).pm_eq, (State.imageShard_only _ _ _ _).pm_eq]

@[simp] theorem State.writeRegs_coppice (c : Cmd) (k : Carrier) (confirm : Confirm) :
    (s.writeRegs c k confirm).pm.state = .coppice := by
  unfold State.writeRegs
  extract_lets l
  split
  · simp [h, (State.countRefused_only _ _ _ _).pm_eq]
  · simp [State.confirmed, h]

end

/-! ## What ends Coppice mode -/

@[simp] theorem State.noteCollapse_state (s : State) (o : BitVec 2) : (s.noteCollapse o).pm.state = s.pm.state := rfl

@[simp] theorem State.enterOff_state (s : State) : s.enterOff.pm.state = .off := rfl

theorem State.deviceReset_pm (s : State) (cause : Nat) (bits : BitVec 5) :
    (s.deviceReset cause bits).pm.state = .starting ∧ (s.deviceReset cause bits).pm.stage = 1
      ∧ (s.deviceReset cause bits).pm.lastCause = BitVec.ofNat 8 cause := by
  simp [State.deviceReset, State.afterReset]

section
variable {s : State} (h : s.pm.state = .coppice)
include h

@[simp] theorem State.collapse_coppice (logDie archive : Bool) : (s.collapse logDie archive).pm.state = .coppice := by
  simp [State.collapse, h, (State.collapseOutputs_only _).pm_eq]

@[simp] theorem State.leaveStage1_coppice : s.leaveStage1 = s := by simp [State.leaveStage1, h]

theorem State.commitEnds_coppice (outcome : BitVec 2) :
    (s.commitEnds outcome).pm.state = .coppice ∨ (s.commitEnds outcome).pm.state = .off := by
  simp only [State.commitEnds]
  split
  · exact .inr (State.enterOff_state _)
  · exact .inl (by rw [State.leaveStage1_coppice] <;> exact h)

end

/-! ## What Coppice mode shuts

Each guard of a row that is false in Coppice mode, and each state operation whose own guard is. -/

@[simp] theorem DevState.logs_coppice : DevState.coppice.logs = false := rfl

section
variable {s : State} (h : s.pm.state = .coppice)
include h

@[simp] theorem State.clocked_coppice : s.clocked = false := by simp [State.clocked, h]

@[simp] theorem State.relocks_coppice : s.relocks = false := by simp [State.relocks, h]

@[simp] theorem State.tbRuns_coppice : s.tbRuns = false := by simp [State.tbRuns, h]

@[simp] theorem State.listens_coppice : s.listens = false := by simp [State.listens, h]

@[simp] theorem State.portAnswers_coppice : s.portAnswers = false := by simp [State.portAnswers, h]

@[simp] theorem State.transmits_coppice : s.transmits = false := by simp [State.transmits, h]

@[simp] theorem State.readyOrRunning_coppice : s.readyOrRunning = false := by simp [State.readyOrRunning, h]

@[simp] theorem State.pwLive_coppice (c : Nat) : s.pwLive c = false := by simp [State.pwLive, h]

@[simp] theorem State.scanLive_coppice : s.scanLive = false := by simp [State.scanLive, h]

@[simp] theorem State.failedStart_coppice : s.failedStart = false := by simp [State.failedStart, h]

@[simp] theorem State.stageOpen_coppice : s.stageOpen = false := by simp [State.stageOpen, h]

@[simp] theorem State.hears_coppice (a : Arrival) (kind : Nat) : s.hears a kind = false := by simp [State.hears, h]

@[simp] theorem State.onTwin_coppice (a : Arrival) (msg : Nat) (f : State → State) : s.onTwin a msg f = s := by
  simp [State.onTwin, State.hearsTwin, h]

@[simp] theorem State.mayJoin_coppice : s.mayJoin = false := by simp [State.mayJoin, h]

@[simp] theorem State.mayIsolate_coppice : s.mayIsolate = false := by simp [State.mayIsolate, h]

@[simp] theorem State.engStep_coppice (k op : Nat) (f : Fetch) (act : State → State) : s.engStep k op f act = s := by
  simp [State.engStep, State.mayIssue, State.hasStep, h]

@[simp] theorem State.inStep_coppice (k t : Nat) : s.inStep k t = false := by simp [State.inStep, h]

@[simp] theorem State.writeLive_coppice (k : Carrier) (a : Nat) (v : Word) : s.writeLive k a v = s := by
  simp [State.writeLive, h]

@[simp] theorem State.launchEnum_coppice : s.launchEnum = s := by simp [State.launchEnum, h]

@[simp] theorem State.unblock_coppice : s.unblock = s := by simp [State.unblock, h]

@[simp] theorem State.wake_coppice : s.wake = s := by simp [State.wake, h]

@[simp] theorem State.shortPress_coppice (tick : Nat) : (s.shortPress tick).pm = s.pm := by
  simp [State.shortPress, h]

@[simp] theorem State.onFired_coppice : s.onFired = false := by simp [State.onFired, h]

@[simp] theorem State.mayOwn_coppice (c : Cmd) : s.mayOwn c = false := by simp [State.mayOwn, h]

@[simp] theorem State.mayStandby_coppice (c : Cmd) : s.mayStandby c = false := by simp [State.mayStandby, h]

@[simp] theorem State.mayDrain_coppice (n : Nat) : s.mayDrain n = false := by simp [State.mayDrain, h]

theorem State.execute_coppice (op : Nat) {f : Cmd → State} (hf : ∀ c, (f c).pm.state = .coppice) :
    (s.execute op f).pm.state = .coppice := by
  unfold State.execute
  split
  · split
    · simp [h]
    · exact hf _
  · exact h

theorem State.execute3_coppice (op : Nat) {f : Cmd → State} (hf : ∀ c, (f c).pm.state = .coppice) :
    (s.execute3 op f).pm.state = .coppice := by
  refine State.execute_coppice h op fun c => ?_
  split
  · simp [h]
  · exact hf c

end

/-! ## The rows that keep the device in Coppice mode -/

/-- An outcome whose state, if it has one, is in Coppice mode. -/
def StaysInCoppice : Host.Outcome State Fault Refusal → Prop
  | .next t => t.pm.state = .coppice
  | _ => True

@[simp] theorem staysInCoppice_next (t : State) : StaysInCoppice (.next t) ↔ t.pm.state = .coppice := Iff.rfl

@[simp] theorem staysInCoppice_ite (c : Prop) [Decidable c] (x y : Host.Outcome State Fault Refusal) :
    StaysInCoppice (if c then x else y) ↔ if c then StaysInCoppice x else StaysInCoppice y := by
  split <;> rfl

/-- The rows that can end Coppice mode: VIN falls away, a commit sequence that VIN's fall is waiting for ends, or MR is held. -/
inductive MayEndCoppice : Instr → Prop
  | commitSequenceEnd : MayEndCoppice .commitSequenceEnd
  | holdUpFloor (done words : Nat) : MayEndCoppice (.holdUpFloor done words)
  | vinBelow4v : MayEndCoppice .vinBelow4v
  | mrHoldReset : MayEndCoppice .mrHoldReset

section
variable {s : State} (h : s.pm.state = .coppice)
include h

/-! The rows of several branches. Where a row's time holds a large numeral, the state at that time gets a name first, so that
the kernel never evaluates the time. -/

theorem State.exists_till_coppice (due : Nat) : ∃ t, s.till due = t ∧ t.pm.state = .coppice :=
  ⟨_, rfl, by rw [State.till_pm, h]⟩

theorem execVholdAndVinMeasurement_coppice (vhold vin : Nat) (seen : Seen) :
    StaysInCoppice (execVholdAndVinMeasurement vhold vin s seen) := by
  have hb : ((s.shortPulses seen.onreqShort seen.mrShort).vinBack seen.vinBack).pm.state = .coppice := by
    unfold State.vinBack
    split <;> exact h
  simp [execVholdAndVinMeasurement, h, hb]

theorem execReducedWalkEntry_coppice : StaysInCoppice (execReducedWalkEntry s) := by
  unfold execReducedWalkEntry
  split
  · split
    · simp [h]
    · simp [h, (State.noteTimeout_only _).pm_eq]
    · exact h
  · exact h

theorem execPbPress_coppice : StaysInCoppice (execPbPress s) := by
  unfold execPbPress
  split
  · exact h
  · split <;> simp [h, (State.setPb_only _ _ _ _).pm_eq]

theorem State.setPb_till_coppice (due held : Nat) (m : PbMode) (pressed : Bool) :
    ((s.till due).setPb m pressed held).pm.state = .coppice := by
  rw [(State.setPb_only _ _ _ _).pm_eq, State.till_pm, h]

theorem execPbShortPress_coppice (held : Nat) : StaysInCoppice (execPbShortPress held s) := by
  simp [execPbShortPress, h, State.setPb_till_coppice h]

theorem execPbLongPress_coppice : StaysInCoppice (execPbLongPress s) := by
  simp [execPbLongPress, h, State.setPb_till_coppice h]

theorem execPbLockoutEnd_coppice : StaysInCoppice (execPbLockoutEnd s) := by
  simp [execPbLockoutEnd, h, State.setPb_till_coppice h]

theorem execOwnershipWindowClose_coppice (released : Bool) : StaysInCoppice (execOwnershipWindowClose released s) := by
  unfold execOwnershipWindowClose
  split
  · simp [h, (State.setPb_only _ _ _ _).pm_eq]
  · split <;> exact h

theorem execDieOverTemperature_coppice (sensors : BitVec 4) : StaysInCoppice (execDieOverTemperature sensors s) := by
  unfold execDieOverTemperature
  simp only [h, reduceCtorEq, if_false]
  refine foldl_coppice ?_ _ fun u i hu => ?_
  · exact h
  · simp [hu]

theorem execWalkerConversionDemand_coppice : StaysInCoppice (execWalkerConversionDemand s) := by
  obtain ⟨t, ht, hs⟩ := State.exists_till_coppice h (s.walk.demandFrom + 100 * usTicks)
  unfold execWalkerConversionDemand
  dsimp only
  rw [ht]
  split <;> simp [h, hs, (State.demand_only _ _ _).pm_eq]

theorem execSettleHoldEnd_coppice (src : BitVec 8) : StaysInCoppice (execSettleHoldEnd src s) := by
  unfold execSettleHoldEnd
  dsimp only
  split <;> simp [h, (State.endTest_only _).pm_eq]

theorem execPwmsyncEdge_coppice (pin : BitVec 2) : StaysInCoppice (execPwmsyncEdge pin s) :=
  foldl_coppice h _ fun t src ht => by simp [ht, (State.syncEdge_only _ _).pm_eq]

theorem execBlankingOverrun_coppice (src : BitVec 8) : StaysInCoppice (execBlankingOverrun src s) := by
  obtain ⟨t, ht, hs⟩ := State.exists_till_coppice h ((s.cmp src.toNat).syncSince + syncLimit)
  unfold execBlankingOverrun
  dsimp only
  rw [ht]
  split <;> simp [h, hs]

theorem execSelftestSlot_coppice : StaysInCoppice (execSelftestSlot s) := by
  unfold execSelftestSlot
  split
  next due _ _ =>
    obtain ⟨t, ht, hs⟩ := State.exists_till_coppice h (aonTicks due)
    dsimp only
    rw [ht, staysInCoppice_next, (State.nextSlot_only _ _).pm_eq]
    split
    · simp [hs]
    · split <;> simp [hs, (State.refreshFlt_only _ _).pm_eq, (State.beginTest_only _ _).pm_eq]
  next => exact h

theorem execSelftestPhaseEnd_coppice (right : Bool) : StaysInCoppice (execSelftestPhaseEnd right s) := by
  unfold execSelftestPhaseEnd
  split
  · split
    · dsimp only
      split <;> simp [h]
    · exact execSettleHoldEnd_coppice h _
  · exact h

theorem execConversionComplete_coppice (conv : BitVec 2) (code : BitVec 16) :
    StaysInCoppice (execConversionComplete conv code s) := by
  have ho (due : Nat) : (s.till due).openGroups.pm.state = .coppice := by rw [(State.openGroups_only _).pm_eq, State.till_pm, h]
  unfold execConversionComplete
  split
  · simp [h]
  · split
    · dsimp only
      split <;> simp [ho]
    · exact h

theorem execWaitforTimeout_coppice (k : BitVec 3) (ctrig : BitVec 4) : StaysInCoppice (execWaitforTimeout k s ctrig) := by
  unfold execWaitforTimeout
  dsimp only
  split
  · split <;> simp [h]
  · exact h

theorem execCheckQualified_coppice (k : BitVec 3) (rail : BitVec 6) : StaysInCoppice (execCheckQualified k rail s) := by
  unfold execCheckQualified
  dsimp only
  split
  · split
    · split <;> simp [h]
    · exact h
  · exact h

theorem execSyncTimeout_coppice (k : BitVec 3) : StaysInCoppice (execSyncTimeout k s) := by
  unfold execSyncTimeout
  dsimp only
  split
  · split <;> simp [h]
  · exact h

theorem execPartTimeout_coppice (ring : Bool) (tag : BitVec 7) : StaysInCoppice (execPartTimeout ring tag s) := by
  unfold execPartTimeout
  split
  · split <;> simp [h, (State.countBad_only _ _).pm_eq]
  · exact h

theorem execPmbusSequenceEnd_coppice (rail : BitVec 6) : StaysInCoppice (execPmbusSequenceEnd rail s) := by
  unfold execPmbusSequenceEnd
  dsimp only
  split
  · split <;> simp [h, (State.setPmb_only _ _ _).pm_eq]
  · exact h

theorem execUnwrap_coppice (port : Link) : StaysInCoppice (execUnwrap port s) := by
  unfold execUnwrap
  split
  · rw [staysInCoppice_next, (State.setWrap_only _ _ _).pm_eq, State.till_pm, h]
  · exact h

theorem execLinkDown_coppice (port : Link) : StaysInCoppice (execLinkDown port s) := by
  simp [execLinkDown, h, (State.setWrap_only _ _ _).pm_eq, (State.setLink_only _ _ _).pm_eq]

theorem execEnrolWaitEnd_coppice : StaysInCoppice (execEnrolWaitEnd s) := by
  unfold execEnrolWaitEnd
  split
  · split <;> simp [h]
  · exact h

/-- Every other row keeps the device in Coppice mode. -/
theorem exec_coppice (i : Instr) (hi : ¬ MayEndCoppice i) : StaysInCoppice (exec i s) := by
  cases i with
  -- Engines issue their steps, and their waits and budgets end, in Firing alone.
  | nopStep | enableStep | disableStep | waitStep | waitforStep | checkStep | rampStep | jumpStep | jumpifStep
  | signalStep | syncStep | marginStep | trimStep | snapStep | pwmStep | haltStep =>
    simp [exec, h, execNopStep, execEnableStep, execDisableStep, execWaitStep, execWaitforStep, execCheckStep, execRampStep,
      execJumpStep, execJumpifStep, execSignalStep, execSyncStep, execMarginStep, execTrimStep, execSnapStep,
      execPwmStep, execHaltStep]
  | waitEnd | waitforSatisfied | checkDeadline | syncSatisfied =>
    simp only [exec, execWaitEnd, execWaitforSatisfied, execCheckDeadline, execSyncSatisfied]
    split <;> simp [h]
  -- Frames are heard and sent in the states with a running ring.
  | linkUp | horn | commandFrame | replyFrame | broadcastFrame | timeFrame | tokenFrame | enumerate | enrolFrame
  | closureFrame | joinFrame | admitFrame | conflictFrame | isolated | heartbeatFrame | twinLost | seekFrame
  | challengeFrame | proofFrame | twinRefuse | twinSync | twinReady | twinCommit | twinAbort | twinRequest
  | twinShutdown | receiverLock | unknownFrame =>
    simp [exec, h, execLinkUp, execHorn, execCommandFrame, execReplyFrame, execBroadcastFrame, execTimeFrame,
      execTokenFrame, execEnumerate, execEnrolFrame, execClosureFrame, execJoinFrame, execAdmitFrame,
      execConflictFrame, execIsolated, execHeartbeatFrame, execTwinLost, execSeekFrame, execChallengeFrame,
      execProofFrame, execTwinRefuse, execTwinSync, execTwinReady, execTwinCommit, execTwinAbort,
      execTwinRequest, execTwinShutdown, execReceiverLock, execUnknownFrame]
  | timeSend | joinResend | heartbeatSend | seekResend | twinSeekTimeout =>
    simp only [exec, execTimeSend, execJoinResend, execHeartbeatSend, execSeekResend, execTwinSeekTimeout]
    split <;> simp [h]
  -- The SPI port is dark, and the rows that write one field of a register are shut.
  | fltLatchClear | spiWrite | spiRead | spiStatus | spiUnknownTransfer | ckTimeLoRead | fqPop | failBitClear
  | startNow | sweepStop | forget | twPortReset | twBusClear | ckOutPhaseWrite | channelStart | channelStop | loadAll
  | tripLatchClear | tripiSeenClear =>
    simp [exec, h, execFltLatchClear, execSpiWrite, execSpiRead, execSpiStatus, execSpiUnknownTransfer, execCkTimeLoRead,
      execFqPop, execFailBitClear, execStartNow, execSweepStop, execForget, execTwPortReset, execTwBusClear,
      execCkOutPhaseWrite, execChannelStart, execChannelStop, execLoadAll, execTripLatchClear,
      execTripiSeenClear]
  -- The rows of other states: start-up, waking, the cooling walk, the log, the scan, the sweep and the PWM channels.
  | vinRisesPast4v | startupStageComplete | startupStageLate | wakeTimerExpiry | wakePathComplete
  | wakeSelfTestsComplete | logicDieLost | graceDelayExpiry | coolingEntryDue | waitBelowMet | waitBelowTimeout
  | coolingSweep | scanPassStart | ctrigEdge | enPinLevelChange | stepBudgetExpiry | timeBudgetExpiry | tripiAssert
  | snapshot | shardCommit | archiveCopy | scrubRead | sweepRailStart | periodStart | compareMatch | pwmTriggerCompare
  | pwmsiEdge | pwmTrip | pbPressLongerThan50Ms =>
    simp [exec, h, execVinRisesPast4v, execStartupStageComplete, execStartupStageLate, execWakeTimerExpiry,
      execWakePathComplete, execWakeSelfTestsComplete, execLogicDieLost, execGraceDelayExpiry,
      execCoolingEntryDue, execWaitBelowMet, execWaitBelowTimeout, execCoolingSweep, execScanPassStart,
      execCtrigEdge, execEnPinLevelChange, execStepBudgetExpiry, execTimeBudgetExpiry, execTripiAssert,
      execSnapshot, execShardCommit, execArchiveCopy, execScrubRead, execSweepRailStart, execPeriodStart,
      execCompareMatch, execPwmTriggerCompare, execPwmsiEdge, execPwmTrip, execPbPressLongerThan50Ms]
  | resetTakesEffect | registerWrite | sweepCycleStart | sweepPoint | sweepSample | resetAfterImageLoad =>
    simp only [exec, execResetTakesEffect, execRegisterWrite, execSweepCycleStart, execSweepPoint, execSweepSample,
      execResetAfterImageLoad]
    split <;> simp [h]
  -- The PLL and the time base stand still.
  | wholeSecond | refclkLost | refclkBack | pllLock | rcRatioMeasure | x32CrystalFail | tsyncEdge | crossingError
  | clockStopped | pllLossOfLock | crossingResumes =>
    simp [exec, h, execWholeSecond, execRefclkLost, execRefclkBack, execPllLock, execRcRatioMeasure, execX32CrystalFail,
      execTsyncEdge, execCrossingError, execClockStopped, execPllLossOfLock, execCrossingResumes]
  | relockFail | relockRetry | holdoverEntry =>
    simp only [exec, execRelockFail, execRelockRetry, execHoldoverEntry]
    split <;> simp [h]
  -- Supply and pins: noted, and the requests they bring meet a state that takes none.
  | vinGood | inputCollapse | mrAssert | mrRelease | onreqRise | onreqFall =>
    simp [exec, h, execVinGood, execInputCollapse, execMrAssert, execMrRelease, execOnreqRise, execOnreqFall]
  | hrstStretchEnd | tOffminElapsed =>
    simp only [exec, execHrstStretchEnd, execTOffminElapsed]
    split <;> simp [h]
  -- Timers of the comparators and of the PWM outputs, and a fault that persists: Coppice receives no fault (R24).
  | gradeTPersistExpiry | rampDacStep | pwmsyncWindowOpen | pwmsyncWindowClose | enableWindowOpen | enableWindowClose
  | fltStretchEnd | deadTimeEnd | pwmsoEnd =>
    simp only [exec, execGradeTPersistExpiry, execRampDacStep, execPwmsyncWindowOpen, execPwmsyncWindowClose,
      execEnableWindowOpen, execEnableWindowClose, execFltStretchEnd, execDeadTimeEnd, execPwmsoEnd]
    split <;> simp [h]
  | comparatorCrossing | tripDelayExpiry | saggarConversionDemand | imageCollectionTimeout =>
    simp only [exec, execComparatorCrossing, execTripDelayExpiry, execSaggarConversionDemand, execImageCollectionTimeout]
    split <;> simp [h, (State.observe_only _ _ _).pm_eq, (State.tripNow_only _).pm_eq, (State.demand_only _ _ _).pm_eq,
      (State.setImage_only _ _).pm_eq]
  -- Two-wire ports.
  | twTransactionEnd | twBusIdle | sclTimeout | sdaStuck | busClearEnd | twRequest | twRequestAnswerEnd =>
    simp only [exec, execTwTransactionEnd, execTwBusIdle, execSclTimeout, execSdaStuck, execBusClearEnd, execTwRequest,
      execTwRequestAnswerEnd]
    split <;> simp [h, (State.twEnd_only _ _ _ _ _).pm_eq, (State.pump_only _ _).pm_eq, (State.endQueue_only _ _ _).pm_eq,
      (State.busyPump_only _ _ _).pm_eq, (State.endHead_only _ _ _ _).pm_eq, (State.beginAnswer_only _ _).pm_eq]
  -- Commands under way: verification, replies, the handover with the twin.
  | verificationComplete | replySigned | replyQueued | forwardTimeout | handoverTimeout =>
    simp only [exec, execVerificationComplete, execReplySigned, execReplyQueued, execForwardTimeout, execHandoverTimeout]
    split <;> simp [h, (State.verified_only _ _).pm_eq, (State.dropCmd_only _ _ _).pm_eq, (State.dropFwd_only _ _).pm_eq,
      (State.tellReason_only _ _ _ _).pm_eq]
  -- A command that is executed answers, and finds the device in none of the states it acts in.
  | nopCmd | identify | readRegs | logRead | getCert | timeRead | queueStatus | skv1200Id | skv1200Status | skv1200Rail
  | skv1200FirstFault | onCmd | offCmd | clearCmd | marginCmd | standbyCmd | resetCmd | drainCmd | timeSet
  | writeRegsClass1 | programLoad | tableLoad | bisqueClear | writeRegsClass2 =>
    exact State.execute_coppice h _ fun c => by simp [h, (State.afterRead_only _ _ _).pm_eq, (State.logBlocks_only _ _ _).pm_eq,
      (State.mirror_only _ _ _).pm_eq, (State.noteLoad_only _ _ _).pm_eq]
  | takeOwnership | keySlotWrite | keySlotClear | quorumSet | saggarWrite | saggarProgramLoad | htableLoad
  | calibrationWrite | writeRegsClass3 | imageLoad | decommission =>
    exact State.execute3_coppice h _ fun c => by simp [h, (State.noteSgLoad_only _ _ _).pm_eq]
  -- The rows of several branches.
  | reducedWalkEntry => exact execReducedWalkEntry_coppice h
  | pbShortPress => exact execPbShortPress_coppice h _
  | pbLongPress => exact execPbLongPress_coppice h
  | pbLockoutEnd => exact execPbLockoutEnd_coppice h
  | ownershipWindowClose => exact execOwnershipWindowClose_coppice h _
  | walkerConversionDemand => exact execWalkerConversionDemand_coppice h
  | settleHoldEnd => exact execSettleHoldEnd_coppice h _
  | pwmsyncEdge => exact execPwmsyncEdge_coppice h _
  | blankingOverrun => exact execBlankingOverrun_coppice h _
  | selftestSlot => exact execSelftestSlot_coppice h
  | selftestPhaseEnd => exact execSelftestPhaseEnd_coppice h _
  | conversionComplete => exact execConversionComplete_coppice h _ _
  | waitforTimeout => exact execWaitforTimeout_coppice h _ _
  | checkQualified => exact execCheckQualified_coppice h _ _
  | syncTimeout => exact execSyncTimeout_coppice h _
  | dieOverTemperature => exact execDieOverTemperature_coppice h _
  | partTimeout => exact execPartTimeout_coppice h _ _
  | pmbusSequenceEnd => exact execPmbusSequenceEnd_coppice h _
  | linkDown => exact execLinkDown_coppice h _
  | unwrap => exact execUnwrap_coppice h _
  | enrolWaitEnd => exact execEnrolWaitEnd_coppice h
  | pbPress => exact execPbPress_coppice h
  | vholdAndVinMeasurement => exact execVholdAndVinMeasurement_coppice h _ _ _
  | commitSequenceEnd => exact absurd .commitSequenceEnd hi
  | holdUpFloor => exact absurd (.holdUpFloor _ _) hi
  | vinBelow4v => exact absurd .vinBelow4v hi
  | mrHoldReset => exact absurd .mrHoldReset hi

end

/-! ## The rows that can end Coppice mode -/

theorem State.finishCopy_pm (s : State) : s.finishCopy.pm = s.pm := by
  unfold State.finishCopy
  split
  · split
    · exact (State.copyHead_only _ _ _).pm_eq
    · rfl
  · rfl

theorem elim_cutShard_pm (o : Option Shard) (s : State) (words : Nat) :
    (o.elim s fun x => s.cutShard x words).pm = s.pm := by
  cases o with
  | none => rfl
  | some x => exact (State.cutShard_only _ _ _).pm_eq

section
variable {s : State} (h : s.pm.state = .coppice)
include h

theorem execCommitSequenceEnd_coppice : ∃ t, execCommitSequenceEnd s = .next t ∧
    (t.pm.state = .coppice ∨ t.pm.state = .off ∧ s.pm.committing = true) := by
  unfold execCommitSequenceEnd
  split
  next hc =>
    refine ⟨_, rfl, (State.commitEnds_coppice ?_ _).imp_right fun ho => ⟨ho, hc⟩⟩
    rw [(State.commitList_only _ _ _).pm_eq, State.finishCopy_pm, h]
  next => exact ⟨s, rfl, .inl h⟩

theorem execHoldUpFloor_coppice (done words : Nat) : ∃ t, execHoldUpFloor done words s = .next t ∧
    (t.pm.state = .coppice ∨ t.pm.state = .off ∧ s.pm.committing = true) := by
  unfold execHoldUpFloor
  split
  next hc =>
    have he (u : State) (o : BitVec 2) (hu : u.pm.state = .coppice) : (u.commitEnds o).pm.state = .coppice ∨
        (u.commitEnds o).pm.state = .off ∧ s.pm.committing = true :=
      (State.commitEnds_coppice hu o).imp_right fun ho => ⟨ho, hc⟩
    dsimp only
    generalize (if s.log.archiving then 1 else 0) = first
    split
    · refine ⟨_, rfl, he _ _ ?_⟩
      rw [(State.commitList_only _ _ _).pm_eq, State.finishCopy_pm, h]
    · split
      · refine ⟨_, rfl, he _ _ ?_⟩
        rw [(State.cutCopy_only _ _).pm_eq, (State.endWindows_only _).pm_eq, h]
      · refine ⟨_, rfl, he _ _ ?_⟩
        rw [elim_cutShard_pm, (State.commitList_only _ _ _).pm_eq, State.finishCopy_pm, h]
  next => exact ⟨s, rfl, .inl h⟩

theorem execVinBelow4v_coppice : ∃ t, execVinBelow4v s = .next t ∧ (t.pm.state = .coppice ∨ t.pm.state = .off) := by
  have hc : (if s.pm.logicPowered && !s.pm.vinLow then s.collapse true false else s).pm.state = .coppice := by
    split <;> simp [h]
  unfold execVinBelow4v
  dsimp only
  generalize (if s.pm.logicPowered && !s.pm.vinLow then s.collapse true false else s) = t at hc ⊢
  split
  · exact ⟨_, rfl, .inl hc⟩
  · split
    · exact ⟨_, rfl, .inl hc⟩
    · exact ⟨_, rfl, .inr (State.enterOff_state _)⟩

/-- MR held for ten seconds resets the device once the reduced walk has ended (R24). -/
theorem execMrHoldReset_coppice : ∃ t, execMrHoldReset s = .next t ∧ (t.pm.state = .coppice ∨
    t.pm.state = .starting ∧ t.pm.stage = 1 ∧ t.pm.lastCause = 0x42) := by
  unfold execMrHoldReset
  split
  next since _ =>
    obtain ⟨t, ht, hs⟩ := State.exists_till_coppice h (since + 10 * secondTicks)
    dsimp only
    rw [ht]
    split
    · exact ⟨_, rfl, .inr (State.deviceReset_pm _ _ _)⟩
    · exact ⟨_, rfl, .inl hs⟩
  next => exact ⟨s, rfl, .inl h⟩

end

/-- Settles O59: of the rows only VIN's fall, the end of a commit sequence that VIN's fall waits for, and MR's hold end Coppice
mode; the ports that commands arrive on are shut. -/
theorem coppiceStays : Obligations.CoppiceStays := by
  unfold Obligations.CoppiceStays
  refine ⟨fun i s t ht h => ?_, fun bytes s h => ?_, fun f s h => ⟨?_, ?_⟩⟩
  · by_cases hi : MayEndCoppice i
    · cases hi with
      | commitSequenceEnd =>
        obtain ⟨u, hu, hs | ⟨hs, hc⟩⟩ := execCommitSequenceEnd_coppice h <;> cases hu.symm.trans ht
        · exact .inl hs
        · exact .inr (.inl ⟨hs, .inr hc⟩)
      | holdUpFloor done words =>
        obtain ⟨u, hu, hs | ⟨hs, hc⟩⟩ := execHoldUpFloor_coppice h done words <;> cases hu.symm.trans ht
        · exact .inl hs
        · exact .inr (.inl ⟨hs, .inr hc⟩)
      | vinBelow4v =>
        obtain ⟨u, hu, hs | hs⟩ := execVinBelow4v_coppice h <;> cases hu.symm.trans ht
        · exact .inl hs
        · exact .inr (.inl ⟨hs, .inl rfl⟩)
      | mrHoldReset =>
        obtain ⟨u, hu, hs | ⟨hs, h1, hc⟩⟩ := execMrHoldReset_coppice h <;> cases hu.symm.trans ht
        · exact .inl hs
        · exact .inr (.inr ⟨hs, h1, hc, rfl⟩)
    · have hk := exec_coppice h i hi
      rw [ht] at hk
      exact .inl hk
  · simp [exec, execSpiWrite, h]
  · simp [exec, execCommandFrame, h]
  · simp [exec, execBroadcastFrame, h]

end Sys2Proof.Machine
end

section
/-! SUPPORT. The fault latch (O58, R136): which operations set it, and that what follows in the same shutdown keeps it set. -/

set_option Elab.async false

namespace Sys2Proof.Machine

/-! ## Operations that leave the latch as it is -/

@[simp] theorem Pm.ite_faultLatch (c : Prop) [Decidable c] (p q : Pm) :
    (if c then p else q).faultLatch = if c then p.faultLatch else q.faultLatch :=
  apply_ite Pm.faultLatch c p q

section
variable (s : State)

@[simp] theorem State.goTo_faultLatch (st : DevState) (cause : Nat) : (s.goTo st cause).pm.faultLatch = s.pm.faultLatch :=
  rfl

@[simp] theorem State.replyOut_faultLatch (r : Reply) : (s.replyOut r).pm.faultLatch = s.pm.faultLatch := by
  simp [State.replyOut]

@[simp] theorem State.post_faultLatch (r : Reply) : (s.post r).pm.faultLatch = s.pm.faultLatch := by
  simp [State.post, (State.dropCmd_only _ _ _).pm_eq, (State.sendFrame_only _ _ _).pm_eq]

@[simp] theorem State.answer_faultLatch (c : Cmd) (status : Nat) (payload : List Byte) :
    (s.answer c status payload).pm.faultLatch = s.pm.faultLatch := by
  simp [State.answer, (State.setCmd_only _ _).pm_eq]

@[simp] theorem State.finish_faultLatch (c : Cmd) (status : Nat) (payload : List Byte) :
    (s.finish c status payload).pm.faultLatch = s.pm.faultLatch := by
  simp [State.finish, (State.refusalEffects_only _ _ _).pm_eq, (State.noteBroadcast_only _ _ _).pm_eq,
    (State.dropCmd_only _ _ _).pm_eq, (State.setCmd_only _ _).pm_eq]

@[simp] theorem State.discardCooling_faultLatch (cause : Nat) (keep : Option (Bool × Nat)) :
    (s.discardCooling cause keep).pm.faultLatch = s.pm.faultLatch := by
  unfold State.discardCooling
  extract_lets gone left t u
  rw [(State.recordDiscard_only _ _ _).pm_eq]
  exact List.foldlRecOn (motive := fun v : State => v.pm.faultLatch = s.pm.faultLatch) gone _ rfl
    fun v hv c _ => (State.finish_faultLatch _ _ _ _).trans hv

@[simp] theorem State.holdFault_faultLatch (f : FaultRec) (table : Nat) :
    (s.holdFault f table).pm.faultLatch = s.pm.faultLatch := by
  unfold State.holdFault
  dsimp only
  split
  · rfl
  · split <;> rfl

@[simp] theorem State.wake_faultLatch : s.wake.pm.faultLatch = s.pm.faultLatch := by
  unfold State.wake
  split
  · split <;> rfl
  · rfl

end

/-! ## Requests that a set latch stops

A handover given up by a shutdown hands over the on requests it held; while the latch is set none of them starts firing (R19). -/

section
variable {s : State} (h : s.pm.faultLatch = true)
include h

theorem State.mayFire_latched : s.mayFire = false := by simp [State.mayFire, h]

theorem State.tryPending_latched : s.tryPending = s := by
  unfold State.tryPending
  split <;> simp [State.mayFire_latched h]

theorem State.newRequest_latched (cause : Nat) : (s.newRequest cause).pm = s.pm := by
  simp [State.newRequest, h]

theorem State.onRequest_latched (cause : Nat) : (s.onRequest cause).pm.faultLatch = true := by
  unfold State.onRequest
  split
  · unfold State.joinRequest
    dsimp only
    split <;> exact h
  · rw [State.newRequest_latched h, h]

theorem State.releaseHeld_latched : s.releaseHeld.pm.faultLatch = true := by
  have hl : (s.twin.heldOn.foldl (fun (t : State) c => (t.mirror 1 c.toNat).onRequest c.toNat)
      { s with twin := { s.twin with heldOn := [] } }).pm.faultLatch = true :=
    List.foldlRecOn (motive := fun v : State => v.pm.faultLatch = true) _ _ h fun v hv c _ =>
      State.onRequest_latched (by rw [(State.mirror_only _ _ _).pm_eq, hv]) _
  rw [State.releaseHeld, State.tryPending_latched hl, hl]

theorem State.afterAbort_latched : s.afterAbort.pm.faultLatch = true := by
  unfold State.afterAbort
  split
  · exact h
  · exact State.releaseHeld_latched h

end

/-! ## Operations that set the latch -/

section
variable (s : State) (f : FaultRec) (table : Nat)

@[simp] theorem State.setLatch_faultLatch : s.setLatch.pm.faultLatch = true := rfl

@[simp] theorem State.recordFault_faultLatch : (s.recordFault f).pm.faultLatch = true := by
  rw [State.recordFault, (State.recordBisque_only _ _ _).pm_eq, (State.recordFirst_only _ _ _).pm_eq, State.setLatch_faultLatch]

@[simp] theorem State.enqueue_faultLatch : (s.enqueue f table).pm.faultLatch = true := by
  unfold State.enqueue
  dsimp only
  split
  · rw [(State.faultShard_only _ _ _ _ _).pm_eq, State.recordFault_faultLatch]
  · split <;> rw [(State.faultShard_only _ _ _ _ _).pm_eq, State.irqCt_pm, State.recordFault_faultLatch]

@[simp] theorem State.recordOnly_faultLatch : (s.recordOnly f).pm.faultLatch = true := by
  have hr (stamp : Nat) : (s.setLatch.recordBisque f stamp).pm.faultLatch = true := by
    rw [(State.recordBisque_only _ _ _).pm_eq, State.setLatch_faultLatch]
  unfold State.recordOnly
  dsimp only
  rw [(State.assertTripo_only _).pm_eq, (State.assertPfw_only _).pm_eq]
  split
  · rw [(State.recordFirst_only _ _ _).pm_eq, hr]
  · exact hr _

/-- Every shutdown start but an off request's records its cause, and nothing that follows in the shutdown resets the latch. -/
theorem State.startShutdown_faultLatch {k : Start} (hk : k ≠ .off) (cause : Nat) (keep : Option (Bool × Nat)) :
    (s.startShutdown k f table cause keep).pm.faultLatch = true := by
  unfold State.startShutdown
  extract_lets trip left recorded warned tripped told ended cooled pm noOffMin nominal w walked raised
  have hrecorded : recorded.pm.faultLatch = true := by simp [recorded, hk]
  have htold : told.pm.faultLatch = true := by
    simp [told, tripped, warned, hrecorded, (State.tellTwin_only _ _ _ _).pm_eq, (State.soundHorn_only _ _ _).pm_eq,
      (State.assertTripo_only _).pm_eq, (State.assertPfw_only _).pm_eq]
  have hcooled : cooled.pm.faultLatch = true := by
    simp [cooled, ended, htold, (State.endSequences_only _).pm_eq, (State.abortEngines_only _).pm_eq]
  have hraised : raised.pm.faultLatch = true := by
    simp [raised, walked, nominal, noOffMin, pm, hcooled, (State.trimsNominal_only _).pm_eq]
  exact State.afterAbort_latched (by simp [hraised, (State.walkBegin_only _).pm_eq])

@[simp] theorem State.coolH_faultLatch : (s.coolH f table).pm.faultLatch = true := by
  unfold State.coolH
  dsimp only
  split
  · rw [(State.walkSwitch_only _ _ _).pm_eq, (State.assertTripo_only _).pm_eq, State.recordFault_faultLatch]
  · split <;> exact State.enqueue_faultLatch _ _ _

@[simp] theorem State.coolT_faultLatch : (s.coolT f table).pm.faultLatch = true := by
  unfold State.coolT
  dsimp only
  split <;> exact State.enqueue_faultLatch _ _ _

@[simp] theorem State.coolForce_faultLatch : s.coolForce.pm.faultLatch = true := by
  unfold State.coolForce
  dsimp only
  split
  · split
    · exact State.enqueue_faultLatch _ _ _
    · rw [(State.walkSwitch_only _ _ _).pm_eq, State.recordFault_faultLatch]
  · split <;> exact State.enqueue_faultLatch _ _ _

end

/-! ## What the fault logic receives (R136) -/

section
variable {s : State} (hoff : s.pm.state ≠ .off) (hcoppice : s.pm.state ≠ .coppice)
include hoff hcoppice

/-- Ready, Firing and Running start a shutdown, Cooling switches its table or queues the fault, Starting and Standby hold it. -/
theorem State.receiveTH_faultLatch (f : FaultRec) (table : Nat) : (s.receiveTH f table).pm.faultLatch = true := by
  have hk : (if f.grade = 3 then Start.gradeH else Start.gradeT) ≠ .off := by split <;> exact Start.noConfusion
  unfold State.receiveTH
  dsimp only
  cases hs : s.pm.state with
  | off => exact absurd hs hoff
  | coppice => exact absurd hs hcoppice
  | ready | firing | running => exact State.startShutdown_faultLatch s f table hk _ _
  | cooling =>
    dsimp only
    split
    · exact State.coolH_faultLatch s f table
    · exact State.coolT_faultLatch s f table
  | starting | standby => simp

theorem State.forceOff_faultLatch : s.forceOff.pm.faultLatch = true := by
  unfold State.forceOff
  dsimp only
  cases hs : s.pm.state with
  | off => exact absurd hs hoff
  | coppice => exact absurd hs hcoppice
  | ready | firing | running =>
    dsimp only
    exact State.startShutdown_faultLatch _ _ _ (by decide) _ _
  | cooling => exact State.coolForce_faultLatch _
  | starting | standby => simp

end

/-- A grade other than log only and W reaches the fault logic's branch for grades T and H. -/
theorem State.receiveAs_eq_receiveTH {f : FaultRec} (hf : f.grade = 2 ∨ f.grade = 3) (table : Nat) (s : State) :
    s.receiveAs f table = s.receiveTH f table := by
  obtain hg | hg := hf <;> simp [State.receiveAs, hg]

/-- Settles O58, by the device state that the fault or the force-off finds. -/
theorem faultsSetTheLatch : Obligations.FaultsSetTheLatch := by
  unfold Obligations.FaultsSetTheLatch
  refine ⟨fun f table s hf hoff hcoppice => ?_, fun s hoff hcoppice => State.forceOff_faultLatch hoff hcoppice⟩
  rw [State.receiveAs_eq_receiveTH hf]
  exact State.receiveTH_faultLatch hoff hcoppice f table

end Sys2Proof.Machine
end

section
/-! SUPPORT. Every row answers a next state and undoes nothing that Keeps names (O51 to O55). -/

set_option Elab.async false

namespace Sys2Proof.Machine

/-- The command answers a next state, and P holds in it. -/
def Leads (P : State → Prop) : Host.Outcome State Fault Refusal → Prop
  | .next t => P t
  | _ => False

theorem Leads.next {P : State → Prop} {t : State} (h : P t) : Leads P (.next t) := h

theorem Leads.ite {P : State → Prop} {c : Prop} [Decidable c] {x y : Host.Outcome State Fault Refusal} (hx : Leads P x)
    (hy : Leads P y) : Leads P (if c then x else y) := by
  split <;> assumption

/-- A command that leads to P answers a next state. -/
theorem Leads.exists_next {P : State → Prop} {x : Host.Outcome State Fault Refusal} (h : Leads P x) : ∃ t, x = .next t ∧ P t := by
  cases x with
  | next t => exact ⟨t, rfl, h⟩
  | fault | refused => exact h.elim

theorem Leads.of_eq {P : State → Prop} {x : Host.Outcome State Fault Refusal} {t : State} (h : Leads P x) (ht : x = .next t) : P t := by
  rw [ht] at h
  exact h


theorem execRefclkLost_keeps (s : State) : Leads (Keeps s) (execRefclkLost s) := by
  unfold execRefclkLost
  dsimp only
  repeat' first
    | with_reducible exact Keeps.refl _ | split | with_reducible refine Leads.next ?_
    | with_reducible apply State.irqCk_keeps | with_reducible apply State.startRelock_keeps
    | with_reducible refine Keeps.mk_upd ?_

theorem execRefclkBack_keeps (s : State) : Leads (Keeps s) (execRefclkBack s) := by
  unfold execRefclkBack
  dsimp only
  repeat' first
    | with_reducible exact Keeps.refl _ | split | with_reducible refine Leads.next ?_
    | with_reducible apply State.startRelock_keeps | with_reducible refine Keeps.mk_upd ?_

theorem execPllLock_keeps (s : State) : Leads (Keeps s) (execPllLock s) := by
  unfold execPllLock
  dsimp only
  repeat' first
    | with_reducible exact Keeps.refl _ | split | with_reducible refine Leads.next ?_
    | with_reducible apply State.irqCk_keeps | with_reducible apply State.outsRun_keeps
    | with_reducible refine Keeps.mk_upd ?_

theorem execRelockFail_keeps (s : State) : Leads (Keeps s) (execRelockFail s) := by
  unfold execRelockFail
  dsimp only
  repeat' first
    | with_reducible exact Keeps.refl _ | split | with_reducible refine Leads.next ?_
    | with_reducible apply State.till_keeps | with_reducible apply State.irqCk_keeps
    | with_reducible apply State.receiveCause_keeps | with_reducible refine Keeps.mk_upd ?_

theorem execRelockRetry_keeps (s : State) : Leads (Keeps s) (execRelockRetry s) := by
  unfold execRelockRetry
  dsimp only
  repeat' first
    | with_reducible exact Keeps.refl _ | split | with_reducible refine Leads.next ?_
    | with_reducible apply State.till_keeps | with_reducible refine Keeps.mk_upd ?_

theorem execPllLossOfLock_keeps (s : State) : Leads (Keeps s) (execPllLossOfLock s) := by
  unfold execPllLossOfLock
  repeat' first
    | with_reducible exact Keeps.refl _ | split | with_reducible refine Leads.next ?_
    | with_reducible apply State.startRelock_keeps | with_reducible refine Keeps.mk_upd ?_

theorem execRcRatioMeasure_keeps (ratio : Nat) (s : State) : Leads (Keeps s) (execRcRatioMeasure ratio s) := by
  unfold execRcRatioMeasure
  repeat' first
    | with_reducible exact Keeps.refl _ | split | with_reducible refine Leads.next ?_
    | with_reducible refine Keeps.mk_upd ?_

theorem execX32CrystalFail_keeps (s : State) : Leads (Keeps s) (execX32CrystalFail s) := by
  unfold execX32CrystalFail
  dsimp only
  repeat' first
    | with_reducible exact Keeps.refl _ | split | with_reducible refine Leads.next ?_
    | with_reducible apply State.irqCk_keeps | with_reducible refine Keeps.mk_upd ?_

theorem execTsyncEdge_keeps (s : State) : Leads (Keeps s) (execTsyncEdge s) := by
  unfold execTsyncEdge
  dsimp only
  repeat' first
    | with_reducible exact Keeps.refl _ | split | with_reducible refine Leads.next ?_
    | with_reducible apply State.ignoreEvent_keeps | with_reducible apply State.refEvent_keeps
    | with_reducible refine Keeps.mk_upd ?_

theorem execHoldoverEntry_keeps (s : State) : Leads (Keeps s) (execHoldoverEntry s) := by
  unfold execHoldoverEntry
  dsimp only
  repeat' first
    | with_reducible exact Keeps.refl _ | split | with_reducible refine Leads.next ?_
    | with_reducible apply State.till_keeps | with_reducible apply State.irqCk_keeps
    | with_reducible refine Keeps.mk_upd ?_

theorem execWholeSecond_keeps (s : State) : Leads (Keeps s) (execWholeSecond s) := by
  unfold execWholeSecond
  repeat' first
    | with_reducible exact Keeps.refl _ | split | with_reducible refine Leads.next ?_
    | with_reducible apply State.tillStamp_keeps | with_reducible apply State.secondReached_keeps
    | with_reducible refine Keeps.mk_upd ?_

theorem execCkTimeLoRead_keeps (s : State) : Leads (Keeps s) (execCkTimeLoRead s) := by
  unfold execCkTimeLoRead
  repeat' first
    | with_reducible exact Keeps.refl _ | split | with_reducible refine Leads.next ?_
    | with_reducible apply State.captureHi_keeps | with_reducible refine Keeps.mk_upd ?_

theorem execCkOutPhaseWrite_keeps (out : BitVec 2) (steps : Byte) (s : State) :
    Leads (Keeps s) (execCkOutPhaseWrite out steps s) := by
  unfold execCkOutPhaseWrite
  dsimp only
  repeat' first
    | with_reducible exact Keeps.refl _ | with_reducible refine Leads.next ?_
    | with_reducible apply State.writeLive_keeps | with_reducible refine Keeps.mk_upd ?_

theorem execCrossingError_keeps (crossing : BitVec 4) (s : State) : Leads (Keeps s) (execCrossingError crossing s) := by
  unfold execCrossingError
  dsimp only
  repeat' first
    | with_reducible exact Keeps.refl _ | split | with_reducible refine Leads.next ?_
    | with_reducible apply State.crossingReport_keeps | with_reducible refine Keeps.mk_upd ?_

theorem execClockStopped_keeps (crossing : BitVec 4) (s : State) : Leads (Keeps s) (execClockStopped crossing s) := by
  unfold execClockStopped
  dsimp only
  repeat' first
    | with_reducible exact Keeps.refl _ | split | with_reducible refine Leads.next ?_
    | with_reducible apply State.enterCoppice_keeps | with_reducible apply State.crossingReport_keeps
    | with_reducible refine Keeps.mk_upd ?_

theorem execCrossingResumes_keeps (crossing : BitVec 4) (s : State) :
    Leads (Keeps s) (execCrossingResumes crossing s) := by
  unfold execCrossingResumes
  dsimp only
  repeat' first
    | with_reducible exact Keeps.refl _ | split | with_reducible refine Leads.next ?_
    | with_reducible apply State.coreSees_keeps | with_reducible refine Keeps.mk_upd ?_

theorem execGradeTPersistExpiry_keeps (src : BitVec 8) (s : State) :
    Leads (Keeps s) (execGradeTPersistExpiry src s) := by
  unfold execGradeTPersistExpiry
  dsimp only
  repeat' first
    | with_reducible exact Keeps.refl _ | split | with_reducible refine Leads.next ?_
    | with_reducible apply State.till_keeps | with_reducible apply State.receive_keeps
    | with_reducible refine Keeps.mk_upd ?_

theorem execGraceDelayExpiry_keeps (s : State) : Leads (Keeps s) (execGraceDelayExpiry s) := by
  unfold execGraceDelayExpiry
  dsimp only
  repeat' first
    | with_reducible exact Keeps.refl _ | split | with_reducible refine Leads.next ?_
    | with_reducible apply State.till_keeps | with_reducible apply State.tripNow_keeps
    | with_reducible apply State.walkBegin_keeps | with_reducible refine Keeps.mk_upd ?_

theorem execTripDelayExpiry_keeps (s : State) : Leads (Keeps s) (execTripDelayExpiry s) := by
  unfold execTripDelayExpiry
  repeat' first
    | with_reducible exact Keeps.refl _ | split | with_reducible refine Leads.next ?_
    | with_reducible apply State.till_keeps | with_reducible apply State.tripNow_keeps
    | with_reducible refine Keeps.mk_upd ?_

theorem execCoolingEntryDue_keeps (s : State) : Leads (Keeps s) (execCoolingEntryDue s) := by
  unfold execCoolingEntryDue
  repeat' first
    | with_reducible exact Keeps.refl _ | split | with_reducible refine Leads.next ?_
    | with_reducible apply State.till_keeps | with_reducible apply State.walkDue_keeps
    | with_reducible refine Keeps.mk_upd ?_

theorem execWaitBelowMet_keeps (s : State) : Leads (Keeps s) (execWaitBelowMet s) := by
  unfold execWaitBelowMet
  repeat' first
    | with_reducible exact Keeps.refl _ | split | with_reducible refine Leads.next ?_
    | with_reducible apply State.walkAct_keeps | with_reducible refine Keeps.mk_upd ?_

theorem execWaitBelowTimeout_keeps (s : State) : Leads (Keeps s) (execWaitBelowTimeout s) := by
  unfold execWaitBelowTimeout
  repeat' first
    | with_reducible exact Keeps.refl _ | split | with_reducible refine Leads.next ?_
    | with_reducible apply State.till_keeps | with_reducible apply State.noteTimeout_keeps
    | with_reducible apply State.waitShard_keeps | with_reducible apply State.walkAct_keeps
    | with_reducible refine Keeps.mk_upd ?_

theorem execWalkerConversionDemand_keeps (s : State) : Leads (Keeps s) (execWalkerConversionDemand s) := by
  unfold execWalkerConversionDemand
  dsimp only
  repeat' first
    | with_reducible exact Keeps.refl _ | split | with_reducible refine Leads.next ?_
    | with_reducible apply State.till_keeps | with_reducible apply State.demand_keeps
    | with_reducible refine Keeps.mk_upd ?_

theorem execCoolingSweep_keeps (s : State) : Leads (Keeps s) (execCoolingSweep s) := by
  unfold execCoolingSweep
  dsimp only
  repeat' first
    | with_reducible exact Keeps.refl _ | split | with_reducible refine Leads.next ?_
    | with_reducible apply State.till_keeps | with_reducible apply State.sweepAll_keeps
    | with_reducible apply State.wait_keeps | with_reducible apply State.coolingEnds_keeps
    | with_reducible refine Keeps.mk_upd ?_

theorem execReducedWalkEntry_keeps (s : State) : Leads (Keeps s) (execReducedWalkEntry s) := by
  unfold execReducedWalkEntry
  repeat' first
    | with_reducible exact Keeps.refl _ | split | with_reducible refine Leads.next ?_
    | with_reducible apply State.till_keeps | with_reducible apply State.reducedSweep_keeps
    | with_reducible apply State.walkAct_keeps | with_reducible apply State.noteTimeout_keeps
    | with_reducible apply State.walkDue_keeps | with_reducible refine Keeps.mk_upd ?_

theorem execFqPop_keeps (s : State) : Leads (Keeps s) (execFqPop s) := by
  unfold execFqPop
  repeat' first
    | with_reducible exact Keeps.refl _ | with_reducible refine Leads.next ?_
    | with_reducible apply State.writeLive_keeps | with_reducible refine Keeps.mk_upd ?_

theorem execSpiWrite_keeps (bytes : List Byte) (s : State) : Leads (Keeps s) (execSpiWrite bytes s) := by
  have ht := State.clockOut_keeps (Keeps.refl s) [s.statusByte]
  unfold execSpiWrite
  generalize s.spirdy = ready
  exact Leads.ite (Leads.ite (Leads.next (State.arrive_keeps ht _ _ _ _))
    (Leads.next (State.refuse127_keeps (State.noteOverrun_keeps ht) _ _ _ _))) (Leads.next (Keeps.refl s))

theorem execSpiRead_keeps (count : Nat) (s : State) : Leads (Keeps s) (execSpiRead count s) := by
  unfold execSpiRead
  dsimp only
  repeat' first
    | with_reducible exact Keeps.refl _ | split | with_reducible refine Leads.next ?_
    | with_reducible apply State.clockOut_keeps | with_reducible apply State.resetLeft_keeps
    | with_reducible refine Keeps.mk_upd ?_

theorem execSpiStatus_keeps (s : State) : Leads (Keeps s) (execSpiStatus s) := by
  unfold execSpiStatus
  repeat' first
    | with_reducible exact Keeps.refl _ | split | with_reducible refine Leads.next ?_
    | with_reducible apply State.clockOut_keeps | with_reducible refine Keeps.mk_upd ?_

theorem execSpiUnknownTransfer_keeps (code : Byte) (count : Nat) (s : State) :
    Leads (Keeps s) (execSpiUnknownTransfer code count s) := by
  unfold execSpiUnknownTransfer
  repeat' first
    | with_reducible exact Keeps.refl _ | split | with_reducible refine Leads.next ?_
    | with_reducible apply State.clockOut_keeps | with_reducible refine Keeps.mk_upd ?_

theorem execVerificationComplete_keeps (ring : Bool) (tag : BitVec 7) (s : State) :
    Leads (Keeps s) (execVerificationComplete ring tag s) := by
  unfold execVerificationComplete
  repeat' first
    | with_reducible exact Keeps.refl _ | split | with_reducible refine Leads.next ?_
    | with_reducible apply State.verified_keeps | with_reducible apply State.runStage5_keeps
    | with_reducible refine Keeps.mk_upd ?_

theorem execPartTimeout_keeps (ring : Bool) (tag : BitVec 7) (s : State) :
    Leads (Keeps s) (execPartTimeout ring tag s) := by
  unfold execPartTimeout
  repeat' first
    | with_reducible exact Keeps.refl _ | split | with_reducible refine Leads.next ?_
    | with_reducible apply State.till_keeps | with_reducible apply State.countBad_keeps
    | with_reducible apply State.finish_keeps | with_reducible apply State.runStage5_keeps
    | with_reducible refine Keeps.mk_upd ?_

theorem execReplySigned_keeps (ring : Bool) (tag : BitVec 7) (s : State) :
    Leads (Keeps s) (execReplySigned ring tag s) := by
  unfold execReplySigned
  dsimp only
  repeat' first
    | with_reducible exact Keeps.refl _ | split | with_reducible refine Leads.next ?_
    | with_reducible apply State.postSigned_keeps | with_reducible apply State.takeFree_keeps
    | with_reducible apply State.flushSigning_keeps | with_reducible refine Keeps.mk_upd ?_

theorem execReplyQueued_keeps (s : State) : Leads (Keeps s) (execReplyQueued s) := by
  unfold execReplyQueued
  dsimp only
  repeat' first
    | with_reducible exact Keeps.refl _ | split | with_reducible refine Leads.next ?_
    | with_reducible apply State.dropCmd_keeps | with_reducible apply State.replyOut_keeps
    | with_reducible refine Keeps.mk_upd ?_

theorem execForwardTimeout_keeps (tag : BitVec 7) (s : State) : Leads (Keeps s) (execForwardTimeout tag s) := by
  unfold execForwardTimeout
  dsimp only
  repeat' first
    | with_reducible exact Keeps.refl _ | split | with_reducible refine Leads.next ?_
    | with_reducible apply State.till_keeps | with_reducible apply State.dropFwd_keeps
    | with_reducible apply State.finish_keeps | with_reducible apply State.answer_keeps
    | with_reducible refine Keeps.mk_upd ?_

theorem execResetTakesEffect_keeps (s : State) : Leads (Keeps s) (execResetTakesEffect s) := by
  unfold execResetTakesEffect
  dsimp only
  repeat' first
    | with_reducible exact Keeps.refl _ | split | with_reducible refine Leads.next ?_
    | with_reducible apply State.till_keeps | with_reducible apply State.deviceReset_keeps
    | with_reducible refine Keeps.mk_upd ?_

theorem execSnapshot_keeps (s : State) : Leads (Keeps s) (execSnapshot s) := by
  unfold execSnapshot
  repeat' first
    | with_reducible exact Keeps.refl _ | split | with_reducible refine Leads.next ?_
    | with_reducible apply State.tillStamp_keeps | with_reducible apply State.capture_keeps
    | with_reducible refine Keeps.mk_upd ?_

theorem execShardCommit_keeps (s : State) : Leads (Keeps s) (execShardCommit s) := by
  unfold execShardCommit
  dsimp only
  repeat' first
    | with_reducible exact Keeps.refl _ | split | with_reducible refine Leads.next ?_
    | with_reducible apply State.mramUsed_keeps | with_reducible apply State.commitTornFa_keeps
    | with_reducible apply State.commitFr_keeps | with_reducible apply State.reportDrops_keeps
    | with_reducible refine Keeps.mk_upd ?_

theorem execArchiveCopy_keeps (s : State) (corrected : Nat) (lost : List (BitVec 6)) :
    Leads (Keeps s) (execArchiveCopy s corrected lost) := by
  have hr := State.reach_keeps (Keeps.refl s) 64
  unfold execArchiveCopy
  dsimp only
  split
  · generalize s.reach 64 = u at hr ⊢
    have ht := State.countCorrected_keeps (State.mramUsed_keeps hr true) corrected
    split
    · split
      · exact Leads.next hr
      · refine Leads.next (State.reach_keeps (State.copyHead_keeps ?_ _ _) _)
        cases State.frPlace _ _ with
        | none => exact ht
        | some e => exact Keeps.foldl _ ht fun v w hv => State.lostWord_keeps hv _ _ _
    · exact Leads.next hr
  · exact Leads.next (Keeps.refl s)

theorem execScrubRead_keeps (found : BlockRead) (s : State) : Leads (Keeps s) (execScrubRead found s) := by
  unfold execScrubRead
  dsimp only
  repeat' first
    | with_reducible exact Keeps.refl _ | split | with_reducible refine Leads.next ?_
    | with_reducible apply State.till_keeps | with_reducible apply State.mramUsed_keeps
    | with_reducible apply State.blockRead_keeps | with_reducible apply State.found_keeps
    | with_reducible refine Keeps.mk_upd ?_

theorem execVinRisesPast4v_keeps (root twjoin twside pb mr : Bool) (s : State) :
    Leads (Keeps s) (execVinRisesPast4v root twjoin twside pb mr s) := by
  unfold execVinRisesPast4v
  dsimp only
  repeat' first
    | with_reducible exact Keeps.refl _ | split | with_reducible refine Leads.next ?_
    | with_reducible apply State.afterReset_keeps | with_reducible apply State.updateHrst_keeps
    | with_reducible refine Keeps.mk_upd ?_

theorem execVinGood_keeps (s : State) : Leads (Keeps s) (execVinGood s) := by
  unfold execVinGood
  dsimp only
  repeat' first
    | with_reducible exact Keeps.refl _ | split | with_reducible refine Leads.next ?_
    | with_reducible apply State.wakeUp_keeps | with_reducible apply State.leaveStage1_keeps
    | with_reducible refine Keeps.mk_upd ?_

theorem execInputCollapse_keeps (logDie : Bool) (s : State) (archive : Bool) :
    Leads (Keeps s) (execInputCollapse logDie s archive) := by
  unfold execInputCollapse
  repeat' first
    | with_reducible exact Keeps.refl _ | with_reducible refine Leads.next ?_
    | with_reducible apply State.collapse_keeps | with_reducible refine Keeps.mk_upd ?_

theorem execCommitSequenceEnd_keeps (s : State) : Leads (Keeps s) (execCommitSequenceEnd s) := by
  unfold execCommitSequenceEnd
  repeat' first
    | with_reducible exact Keeps.refl _ | split | with_reducible refine Leads.next ?_
    | with_reducible apply State.finishCopy_keeps | with_reducible apply State.commitList_keeps
    | with_reducible apply State.commitEnds_keeps | with_reducible refine Keeps.mk_upd ?_

theorem execHoldUpFloor_keeps (done words : Nat) (s : State) : Leads (Keeps s) (execHoldUpFloor done words s) := by
  have hf (l : List Shard) (b : Bool) : Keeps s (s.finishCopy.commitList l b) :=
    State.commitList_keeps (State.finishCopy_keeps (Keeps.refl s)) l b
  unfold execHoldUpFloor
  dsimp only
  generalize (if s.log.archiving then 1 else 0) = first
  split
  · split
    · exact Leads.next (State.commitEnds_keeps (hf _ _) _)
    · split
      · exact Leads.next (State.commitEnds_keeps (State.cutCopy_keeps (State.endWindows_keeps (Keeps.refl s)) _) _)
      · refine Leads.next (State.commitEnds_keeps ?_ _)
        cases (List.drop _ s.log.buffer).head? with
        | none => exact hf _ _
        | some x => exact State.cutShard_keeps (hf _ _) x words
  · exact Leads.next (Keeps.refl s)

theorem execVinBelow4v_keeps (s : State) : Leads (Keeps s) (execVinBelow4v s) := by
  unfold execVinBelow4v
  dsimp only
  repeat' first
    | with_reducible exact Keeps.refl _ | split | with_reducible refine Leads.next ?_
    | with_reducible apply State.collapse_keeps | with_reducible apply State.enterOff_keeps
    | with_reducible refine Keeps.mk_upd ?_

theorem execStartupStageLate_keeps (s : State) : Leads (Keeps s) (execStartupStageLate s) := by
  unfold execStartupStageLate
  repeat' first
    | with_reducible exact Keeps.refl _ | split | with_reducible refine Leads.next ?_
    | with_reducible apply State.till_keeps | with_reducible apply State.stageLate_keeps
    | with_reducible refine Keeps.mk_upd ?_

theorem execStartupStageComplete_keeps (r : StageResult) (s : State) :
    Leads (Keeps s) (execStartupStageComplete r s) := by
  unfold execStartupStageComplete
  repeat' first
    | with_reducible exact Keeps.refl _ | split | with_reducible refine Leads.next ?_
    | with_reducible apply State.stageLate_keeps | with_reducible apply State.stage1Work_keeps
    | with_reducible apply State.stage2Work_keeps | with_reducible apply State.stage3Work_keeps
    | with_reducible apply State.stage4Work_keeps | with_reducible apply State.arming_keeps
    | with_reducible apply State.enterReady_keeps | with_reducible refine Keeps.mk_upd ?_

theorem execWakeTimerExpiry_keeps (s : State) : Leads (Keeps s) (execWakeTimerExpiry s) := by
  unfold execWakeTimerExpiry
  dsimp only
  repeat' first
    | with_reducible exact Keeps.refl _ | split | with_reducible refine Leads.next ?_
    | with_reducible apply State.till_keeps | with_reducible apply State.wake_keeps
    | with_reducible refine Keeps.mk_upd ?_

theorem execWakePathComplete_keeps (copyOk : Bool) (r : StageResult) (s : State) :
    Leads (Keeps s) (execWakePathComplete copyOk r s) := by
  unfold execWakePathComplete
  dsimp only
  repeat' first
    | with_reducible exact Keeps.refl _ | split | with_reducible refine Leads.next ?_
    | with_reducible apply State.pllStart_keeps | with_reducible apply State.configLoaded_keeps
    | with_reducible apply State.examineLog_keeps | with_reducible apply State.setTimeBase_keeps
    | with_reducible apply State.beginStage5_keeps | with_reducible apply State.arming_keeps
    | with_reducible apply State.enterReady_keeps | with_reducible apply State.wakeFallback_keeps
    | with_reducible refine Keeps.mk_upd ?_

theorem execWakeSelfTestsComplete_keeps (pass : Bool) (s : State) :
    Leads (Keeps s) (execWakeSelfTestsComplete pass s) := by
  unfold execWakeSelfTestsComplete
  repeat' first
    | with_reducible exact Keeps.refl _ | split | with_reducible refine Leads.next ?_
    | with_reducible apply State.pass_keeps | with_reducible refine Keeps.mk_upd ?_

theorem execVholdAndVinMeasurement_keeps (vhold vin : Nat) (s : State) (seen : Seen) :
    Leads (Keeps s) (execVholdAndVinMeasurement vhold vin s seen) := by
  unfold execVholdAndVinMeasurement
  dsimp only
  repeat' first
    | with_reducible exact Keeps.refl _ | split | with_reducible refine Leads.next ?_
    | with_reducible apply State.takeSeen_keeps | with_reducible apply State.shortPulses_keeps
    | with_reducible apply State.vinBack_keeps | with_reducible apply State.gated_keeps
    | with_reducible apply State.overflowed_keeps | with_reducible refine Keeps.mk_upd ?_

theorem execLogicDieLost_keeps (s : State) : Leads (Keeps s) (execLogicDieLost s) := by
  unfold execLogicDieLost
  repeat' first
    | with_reducible exact Keeps.refl _ | split | with_reducible refine Leads.next ?_
    | with_reducible apply State.enterCoppice_keeps | with_reducible refine Keeps.mk_upd ?_

theorem execNopCmd_keeps (s : State) : Leads (Keeps s) (execNopCmd s) := by
  unfold execNopCmd
  repeat' first
    | with_reducible assumption | with_reducible exact Keeps.refl _ | with_reducible refine Leads.next ?_
    | with_reducible apply State.execute_keeps | with_reducible apply State.ok_keeps
    | with_reducible refine Keeps.mk_upd ?_ | intro _

theorem execIdentify_keeps (s : State) : Leads (Keeps s) (execIdentify s) := by
  unfold execIdentify
  repeat' first
    | with_reducible assumption | with_reducible exact Keeps.refl _ | with_reducible refine Leads.next ?_
    | with_reducible apply State.execute_keeps | with_reducible apply State.ok_keeps
    | with_reducible refine Keeps.mk_upd ?_ | intro _

theorem execReadRegs_keeps (s : State) : Leads (Keeps s) (execReadRegs s) := by
  unfold execReadRegs
  dsimp only
  repeat' first
    | with_reducible assumption | with_reducible exact Keeps.refl _ | split | with_reducible refine Leads.next ?_
    | with_reducible apply State.execute_keeps | with_reducible apply State.captureHi_keeps
    | with_reducible apply State.afterRead_keeps | with_reducible apply State.ok_keeps
    | with_reducible refine Keeps.mk_upd ?_ | intro _

theorem execLogRead_keeps (s : State) (found : List BlockRead) : Leads (Keeps s) (execLogRead s found) := by
  unfold execLogRead
  dsimp only
  repeat' first
    | with_reducible assumption | with_reducible exact Keeps.refl _ | with_reducible refine Leads.next ?_
    | with_reducible apply State.execute_keeps | with_reducible apply State.logBlocks_keeps
    | with_reducible apply State.found_keeps | with_reducible apply State.ok_keeps
    | with_reducible refine Keeps.mk_upd ?_ | intro _

theorem execGetCert_keeps (s : State) : Leads (Keeps s) (execGetCert s) := by
  unfold execGetCert
  dsimp only
  repeat' first
    | with_reducible assumption | with_reducible exact Keeps.refl _ | with_reducible refine Leads.next ?_
    | with_reducible apply State.execute_keeps | with_reducible apply State.ok_keeps
    | with_reducible refine Keeps.mk_upd ?_ | intro _

theorem execTimeRead_keeps (s : State) : Leads (Keeps s) (execTimeRead s) := by
  unfold execTimeRead
  repeat' first
    | with_reducible assumption | with_reducible exact Keeps.refl _ | with_reducible refine Leads.next ?_
    | with_reducible apply State.execute_keeps | with_reducible apply State.ok_keeps
    | with_reducible refine Keeps.mk_upd ?_ | intro _

theorem execQueueStatus_keeps (s : State) : Leads (Keeps s) (execQueueStatus s) := by
  unfold execQueueStatus
  repeat' first
    | with_reducible assumption | with_reducible exact Keeps.refl _ | with_reducible refine Leads.next ?_
    | with_reducible apply State.execute_keeps | with_reducible apply State.ok_keeps
    | with_reducible refine Keeps.mk_upd ?_ | intro _

theorem execSkv1200Id_keeps (s : State) : Leads (Keeps s) (execSkv1200Id s) := by
  unfold execSkv1200Id
  repeat' first
    | with_reducible assumption | with_reducible exact Keeps.refl _ | with_reducible refine Leads.next ?_
    | with_reducible apply State.execute_keeps | with_reducible apply State.ok_keeps
    | with_reducible refine Keeps.mk_upd ?_ | intro _

theorem execSkv1200Status_keeps (s : State) : Leads (Keeps s) (execSkv1200Status s) := by
  unfold execSkv1200Status
  repeat' first
    | with_reducible assumption | with_reducible exact Keeps.refl _ | split | with_reducible refine Leads.next ?_
    | with_reducible apply State.execute_keeps | with_reducible apply State.ok_keeps
    | with_reducible refine Keeps.mk_upd ?_ | intro _

theorem execSkv1200Rail_keeps (s : State) : Leads (Keeps s) (execSkv1200Rail s) := by
  unfold execSkv1200Rail
  repeat' first
    | with_reducible assumption | with_reducible exact Keeps.refl _ | with_reducible refine Leads.next ?_
    | with_reducible apply State.execute_keeps | with_reducible apply State.ok_keeps
    | with_reducible refine Keeps.mk_upd ?_ | intro _

theorem execSkv1200FirstFault_keeps (s : State) : Leads (Keeps s) (execSkv1200FirstFault s) := by
  unfold execSkv1200FirstFault
  repeat' first
    | with_reducible assumption | with_reducible exact Keeps.refl _ | with_reducible refine Leads.next ?_
    | with_reducible apply State.execute_keeps | with_reducible apply State.ok_keeps
    | with_reducible refine Keeps.mk_upd ?_ | intro _

theorem execOnCmd_keeps (s : State) : Leads (Keeps s) (execOnCmd s) := by
  unfold execOnCmd
  repeat' first
    | with_reducible assumption | with_reducible exact Keeps.refl _ | split | with_reducible refine Leads.next ?_
    | with_reducible apply State.execute_keeps | with_reducible apply State.ok_keeps
    | with_reducible apply State.onArises_keeps | with_reducible apply State.onAccepted_keeps
    | with_reducible apply State.mirror_keeps | with_reducible apply State.refuse_keeps
    | with_reducible refine Keeps.mk_upd ?_ | intro _

theorem execOffCmd_keeps (s : State) : Leads (Keeps s) (execOffCmd s) := by
  unfold execOffCmd
  repeat' first
    | with_reducible assumption | with_reducible exact Keeps.refl _ | with_reducible refine Leads.next ?_
    | with_reducible apply State.execute_keeps | with_reducible apply State.mirror_keeps
    | with_reducible apply State.ok_keeps | with_reducible apply State.offRequest_keeps
    | with_reducible refine Keeps.mk_upd ?_ | intro _

theorem execClearCmd_keeps (s : State) : Leads (Keeps s) (execClearCmd s) := by
  unfold execClearCmd
  repeat' first
    | with_reducible assumption | with_reducible exact Keeps.refl _ | split | with_reducible refine Leads.next ?_
    | with_reducible apply State.execute_keeps | with_reducible apply State.refuse_keeps
    | with_reducible apply State.clearLatch_keeps | with_reducible apply State.ok_keeps
    | with_reducible apply State.onreqLevel_keeps | with_reducible refine Keeps.mk_upd ?_ | intro _

theorem execMarginCmd_keeps (s : State) : Leads (Keeps s) (execMarginCmd s) := by
  unfold execMarginCmd
  dsimp only
  repeat' first
    | with_reducible assumption | with_reducible exact Keeps.refl _ | split | with_reducible refine Leads.next ?_
    | with_reducible apply State.execute_keeps | with_reducible apply State.refuse_keeps
    | with_reducible apply State.marginTrim_keeps | with_reducible apply State.ok_keeps
    | with_reducible apply State.marginPmbus_keeps | with_reducible refine Keeps.mk_upd ?_ | intro _

theorem execStandbyCmd_keeps (s : State) : Leads (Keeps s) (execStandbyCmd s) := by
  unfold execStandbyCmd
  repeat' first
    | with_reducible assumption | with_reducible exact Keeps.refl _ | split | with_reducible refine Leads.next ?_
    | with_reducible apply State.execute_keeps | with_reducible apply State.enterStandby_keeps
    | with_reducible apply State.refuse_keeps | with_reducible refine Keeps.mk_upd ?_ | intro _

theorem execResetCmd_keeps (s : State) : Leads (Keeps s) (execResetCmd s) := by
  unfold execResetCmd
  repeat' first
    | with_reducible assumption | with_reducible exact Keeps.refl _ | split | with_reducible refine Leads.next ?_
    | with_reducible apply State.execute_keeps | with_reducible apply State.awaitReset_keeps
    | with_reducible apply State.ok_keeps | with_reducible apply State.refuse_keeps
    | with_reducible refine Keeps.mk_upd ?_ | intro _

theorem execDrainCmd_keeps (s : State) : Leads (Keeps s) (execDrainCmd s) := by
  unfold execDrainCmd
  dsimp only
  repeat' first
    | with_reducible assumption | with_reducible exact Keeps.refl _ | split | with_reducible refine Leads.next ?_
    | with_reducible apply State.execute_keeps | with_reducible apply State.drainTo_keeps
    | with_reducible apply State.ok_keeps | with_reducible apply State.refuse_keeps
    | with_reducible refine Keeps.mk_upd ?_ | intro _

theorem execTimeSet_keeps (s : State) : Leads (Keeps s) (execTimeSet s) := by
  unfold execTimeSet
  dsimp only
  repeat' first
    | with_reducible assumption | with_reducible exact Keeps.refl _ | split | with_reducible refine Leads.next ?_
    | with_reducible apply State.execute_keeps | with_reducible apply State.refuse_keeps
    | with_reducible apply State.setTime_keeps | with_reducible apply State.ok_keeps
    | with_reducible refine Keeps.mk_upd ?_ | intro _

theorem execWriteRegsClass1_keeps (confirm : Confirm) (s : State) :
    Leads (Keeps s) (execWriteRegsClass1 confirm s) := by
  unfold execWriteRegsClass1
  repeat' first
    | with_reducible assumption | with_reducible exact Keeps.refl _ | with_reducible refine Leads.next ?_
    | with_reducible apply State.execute_keeps | with_reducible apply State.writeRegs_keeps
    | with_reducible refine Keeps.mk_upd ?_ | intro _

theorem execRegisterWrite_keeps (cls : BitVec 2) (addr value : Word) (s : State) (confirm : Bool) :
    Leads (Keeps s) (execRegisterWrite cls addr value s confirm) := by
  unfold execRegisterWrite
  repeat' first
    | with_reducible exact Keeps.refl _ | split | with_reducible refine Leads.next ?_
    | with_reducible apply State.writeRow_keeps | with_reducible refine Keeps.mk_upd ?_

theorem execFailBitClear_keeps (high : Bool) (bits : Word) (s : State) :
    Leads (Keeps s) (execFailBitClear high bits s) := by
  unfold execFailBitClear
  repeat' first
    | with_reducible exact Keeps.refl _ | split | with_reducible refine Leads.next ?_
    | with_reducible apply State.writeLive_keeps | with_reducible refine Keeps.mk_upd ?_

theorem execProgramLoad_keeps (confirm : Confirm) (s : State) : Leads (Keeps s) (execProgramLoad confirm s) := by
  unfold execProgramLoad
  dsimp only
  repeat' first
    | with_reducible assumption | with_reducible exact Keeps.refl _ | split | with_reducible refine Leads.next ?_
    | with_reducible apply State.execute_keeps | with_reducible apply State.noteLoad_keeps
    | with_reducible apply State.refuse_keeps | with_reducible apply State.confirmed_keeps
    | with_reducible apply State.loadSteps_keeps | with_reducible apply State.programLoad_keeps
    | with_reducible refine Keeps.mk_upd ?_ | intro _

theorem execTableLoad_keeps (confirm : Confirm) (s : State) : Leads (Keeps s) (execTableLoad confirm s) := by
  unfold execTableLoad
  dsimp only
  repeat' first
    | with_reducible assumption | with_reducible exact Keeps.refl _ | split | with_reducible refine Leads.next ?_
    | with_reducible apply State.execute_keeps | with_reducible apply State.refuse_keeps
    | with_reducible apply State.confirmed_keeps | with_reducible apply State.tableLoad_keeps
    | with_reducible refine Keeps.mk_upd ?_ | intro _

theorem execBisqueClear_keeps (s : State) : Leads (Keeps s) (execBisqueClear s) := by
  unfold execBisqueClear
  dsimp only
  repeat' first
    | with_reducible assumption | with_reducible exact Keeps.refl _ | split | with_reducible refine Leads.next ?_
    | with_reducible apply State.execute_keeps | with_reducible apply State.clearBisque_keeps
    | with_reducible apply State.ok_keeps | with_reducible apply State.refuse_keeps
    | with_reducible refine Keeps.mk_upd ?_ | intro _

theorem execWriteRegsClass2_keeps (confirm : Confirm) (s : State) :
    Leads (Keeps s) (execWriteRegsClass2 confirm s) := by
  unfold execWriteRegsClass2
  repeat' first
    | with_reducible assumption | with_reducible exact Keeps.refl _ | with_reducible refine Leads.next ?_
    | with_reducible apply State.execute_keeps | with_reducible apply State.writeRegs_keeps
    | with_reducible refine Keeps.mk_upd ?_ | intro _

/-- A slot that keeps its counter, or takes a higher one, lowers no held counter. -/
theorem Sec.setSlot_counter (x : Sec) (i : Nat) (k : KeySlot) (hk : (nth x.slots i {}).counter ≤ k.counter) (j : Nat) :
    (nth x.slots j {}).counter ≤ (nth (x.setSlot i k).slots j {}).counter := by
  by_cases hj : i = j
  · subst hj
    by_cases hi : i < x.slots.length
    · simpa [Sec.setSlot, nth_modNth _ _ _ _ _ hi] using hk
    · simp [Sec.setSlot, nth, modNth, hi]
  · simp [Sec.setSlot, nth_modNth_ne _ _ _ _ _ hj]

@[simp] theorem Sec.setSlot_length (x : Sec) (i : Nat) (k : KeySlot) : (x.setSlot i k).slots.length = x.slots.length := by
  simp [Sec.setSlot]

theorem Sec.counter_le_topCounter (x : Sec) (i : Nat) : (nth x.slots i {}).counter ≤ x.topCounter := by
  have key (l : List KeySlot) (m : Nat) : m ≤ l.foldl (fun m k => max m k.counter) m
      ∧ ∀ k ∈ l, k.counter ≤ l.foldl (fun m k => max m k.counter) m := by
    induction l generalizing m with
    | nil => simp
    | cons k l ih =>
      obtain ⟨h, hl⟩ := ih (max m k.counter)
      refine ⟨(le_max_left _ _).trans h, fun j hj => ?_⟩
      rcases List.mem_cons.1 hj with rfl | hj
      · exact (le_max_right _ _).trans h
      · exact hl j hj
  by_cases hi : i < x.slots.length
  · simpa [nth, hi, Sec.topCounter] using (key x.slots 0).2 _ (List.getElem_mem hi)
  · simp [nth, hi]

theorem execTakeOwnership_keeps (confirm : Confirm) (s : State) : Leads (Keeps s) (execTakeOwnership confirm s) := by
  have h := Keeps.refl s
  refine Leads.next (State.execute3_keeps h _ _ fun c => Keeps.ite (State.refuse_keeps h _ _) (State.confirmed_keeps h _ _ _ _ ?_))
  refine State.ownerChanged_keeps (State.ok_keeps (State.cfgShard_keeps (State.spoil_keeps (State.putSec_keeps h _ ?_ ?_) _) _ _ _ _) _ _) _
  · exact s.sec.setSlot_counter 0 _ (le_max_left _ _)
  · exact fun hl => (s.sec.setSlot_length 0 _).trans hl

theorem execKeySlotWrite_keeps (confirm : Confirm) (s : State) : Leads (Keeps s) (execKeySlotWrite confirm s) := by
  have h := Keeps.refl s
  refine Leads.next (State.execute3_keeps h _ _ fun c => Keeps.ite (State.refuse_keeps h _ _) (State.confirmed_keeps h _ _ _ _ ?_))
  refine State.keysInForce_keeps h _ _ _ _ ?_ fun hl => (s.sec.setSlot_length _ _).trans hl
  exact s.sec.setSlot_counter _ _ (s.sec.counter_le_topCounter _)

theorem execKeySlotClear_keeps (confirm : Confirm) (s : State) : Leads (Keeps s) (execKeySlotClear confirm s) := by
  have h := Keeps.refl s
  refine Leads.next (State.execute3_keeps h _ _ fun c => Keeps.ite (State.refuse_keeps h _ _) (State.confirmed_keeps h _ _ _ _ ?_))
  refine State.keysInForce_keeps h _ _ _ _ ?_ fun hl => (s.sec.setSlot_length _ _).trans hl
  exact s.sec.setSlot_counter _ _ le_rfl

theorem execQuorumSet_keeps (confirm : Confirm) (s : State) : Leads (Keeps s) (execQuorumSet confirm s) := by
  have h := Keeps.refl s
  refine Leads.next (State.execute3_keeps h _ _ fun c => Keeps.ite (State.refuse_keeps h _ _) (State.confirmed_keeps h _ _ _ _ ?_))
  exact State.keysInForce_keeps h _ _ _ _ (fun _ => le_rfl) id

theorem execDecommission_keeps (confirm : Confirm) (s : State) : Leads (Keeps s) (execDecommission confirm s) := by
  have h := Keeps.refl s
  refine Leads.next (State.execute3_keeps h _ _ fun c => Keeps.ite (State.refuse_keeps h _ _) (State.confirmed_keeps h _ _ _ _ ?_))
  have ht := State.decommissionShard_keeps h c
  have hs : (s.decommissionShard c).sec = s.sec := State.decommissionShard_only s c .sec (by decide)
  refine State.ownerChanged_keeps (State.ok_keeps (State.spoil_keeps (State.putSec_keeps ht _ (fun i => ?_) fun hl => ?_) _) _ _) _
  · simp only [State.heldCounter, hs, Sec.cleared, nth, List.getD_eq_getElem?_getD, List.getElem?_map]
    cases s.sec.slots[i]? <;> simp
  · simpa [Sec.cleared, hs] using hl

theorem execSaggarWrite_keeps (confirm : Confirm) (s : State) : Leads (Keeps s) (execSaggarWrite confirm s) := by
  unfold execSaggarWrite
  repeat' first
    | with_reducible assumption | with_reducible exact Keeps.refl _ | split | with_reducible refine Leads.next ?_
    | with_reducible apply State.execute3_keeps | with_reducible apply State.writeRegs_keeps
    | with_reducible apply State.refuse_keeps | with_reducible refine Keeps.mk_upd ?_ | intro _

theorem execWriteRegsClass3_keeps (confirm : Confirm) (s : State) :
    Leads (Keeps s) (execWriteRegsClass3 confirm s) := by
  unfold execWriteRegsClass3
  repeat' first
    | with_reducible assumption | with_reducible exact Keeps.refl _ | split | with_reducible refine Leads.next ?_
    | with_reducible apply State.execute3_keeps | with_reducible apply State.writeRegs_keeps
    | with_reducible apply State.refuse_keeps | with_reducible refine Keeps.mk_upd ?_ | intro _

theorem execSaggarProgramLoad_keeps (confirm : Confirm) (s : State) :
    Leads (Keeps s) (execSaggarProgramLoad confirm s) := by
  unfold execSaggarProgramLoad
  dsimp only
  repeat' first
    | with_reducible assumption | with_reducible exact Keeps.refl _ | split | with_reducible refine Leads.next ?_
    | with_reducible apply State.execute3_keeps | with_reducible apply State.noteSgLoad_keeps
    | with_reducible apply State.refuse_keeps | with_reducible apply State.confirmed_keeps
    | with_reducible apply State.loadSgSteps_keeps | with_reducible apply State.sgProgramLoad_keeps
    | with_reducible refine Keeps.mk_upd ?_ | intro _

theorem execHtableLoad_keeps (confirm : Confirm) (s : State) : Leads (Keeps s) (execHtableLoad confirm s) := by
  unfold execHtableLoad
  dsimp only
  repeat' first
    | with_reducible assumption | with_reducible exact Keeps.refl _ | split | with_reducible refine Leads.next ?_
    | with_reducible apply State.execute3_keeps | with_reducible apply State.refuse_keeps
    | with_reducible apply State.confirmed_keeps | with_reducible apply State.tableLoad_keeps
    | with_reducible refine Keeps.mk_upd ?_ | intro _

theorem execCalibrationWrite_keeps (confirm : Confirm) (s : State) :
    Leads (Keeps s) (execCalibrationWrite confirm s) := by
  unfold execCalibrationWrite
  dsimp only
  repeat' first
    | with_reducible assumption | with_reducible exact Keeps.refl _ | split | with_reducible refine Leads.next ?_
    | with_reducible apply State.execute3_keeps | with_reducible apply State.refuse_keeps
    | with_reducible apply State.confirmed_keeps | with_reducible apply State.calibrate_keeps
    | with_reducible apply State.cfgShard_keeps | with_reducible apply State.ok_keeps
    | with_reducible refine Keeps.mk_upd ?_ | intro _

theorem execImageLoad_keeps (confirm : Confirm) (s : State) : Leads (Keeps s) (execImageLoad confirm s) := by
  unfold execImageLoad
  repeat' first
    | with_reducible assumption | with_reducible exact Keeps.refl _ | split | with_reducible refine Leads.next ?_
    | with_reducible apply State.execute3_keeps | with_reducible apply State.refuse_keeps
    | with_reducible apply State.setImage_keeps | with_reducible apply State.ok_keeps
    | with_reducible apply State.imageEnd_keeps | with_reducible refine Keeps.mk_upd ?_ | intro _

theorem execImageCollectionTimeout_keeps (s : State) : Leads (Keeps s) (execImageCollectionTimeout s) := by
  unfold execImageCollectionTimeout
  repeat' first
    | with_reducible exact Keeps.refl _ | split | with_reducible refine Leads.next ?_
    | with_reducible apply State.till_keeps | with_reducible apply State.setImage_keeps
    | with_reducible refine Keeps.mk_upd ?_

theorem execResetAfterImageLoad_keeps (s : State) : Leads (Keeps s) (execResetAfterImageLoad s) := by
  unfold execResetAfterImageLoad
  repeat' first
    | with_reducible exact Keeps.refl _ | split | with_reducible refine Leads.next ?_
    | with_reducible apply State.till_keeps | with_reducible apply State.deviceReset_keeps
    | with_reducible refine Keeps.mk_upd ?_

theorem execMrAssert_keeps (s : State) : Leads (Keeps s) (execMrAssert s) := by
  unfold execMrAssert
  dsimp only
  repeat' first
    | with_reducible exact Keeps.refl _ | split | with_reducible refine Leads.next ?_
    | with_reducible apply State.updateHrst_keeps | with_reducible apply State.wake_keeps
    | with_reducible refine Keeps.mk_upd ?_

theorem execMrRelease_keeps (s : State) : Leads (Keeps s) (execMrRelease s) := by
  unfold execMrRelease
  repeat' first
    | with_reducible exact Keeps.refl _ | split | with_reducible refine Leads.next ?_
    | with_reducible apply State.updateHrst_keeps | with_reducible refine Keeps.mk_upd ?_

theorem execHrstStretchEnd_keeps (s : State) : Leads (Keeps s) (execHrstStretchEnd s) := by
  unfold execHrstStretchEnd
  dsimp only
  repeat' first
    | with_reducible exact Keeps.refl _ | split | with_reducible refine Leads.next ?_
    | with_reducible apply State.till_keeps | with_reducible apply State.updateHrst_keeps
    | with_reducible refine Keeps.mk_upd ?_

theorem execMrHoldReset_keeps (s : State) : Leads (Keeps s) (execMrHoldReset s) := by
  unfold execMrHoldReset
  dsimp only
  repeat' first
    | with_reducible exact Keeps.refl _ | split | with_reducible refine Leads.next ?_
    | with_reducible apply State.till_keeps | with_reducible apply State.deviceReset_keeps
    | with_reducible refine Keeps.mk_upd ?_

theorem execOnreqRise_keeps (s : State) : Leads (Keeps s) (execOnreqRise s) := by
  unfold execOnreqRise
  dsimp only
  repeat' first
    | with_reducible exact Keeps.refl _ | split | with_reducible refine Leads.next ?_
    | with_reducible apply State.wake_keeps | with_reducible apply State.onArises_keeps
    | with_reducible refine Keeps.mk_upd ?_

theorem execOnreqFall_keeps (s : State) : Leads (Keeps s) (execOnreqFall s) := by
  unfold execOnreqFall
  dsimp only
  repeat' first
    | with_reducible exact Keeps.refl _ | split | with_reducible refine Leads.next ?_
    | with_reducible apply State.mirror_keeps | with_reducible apply State.offRequest_keeps
    | with_reducible refine Keeps.mk_upd ?_

theorem execPbPress_keeps (s : State) : Leads (Keeps s) (execPbPress s) := by
  unfold execPbPress
  repeat' first
    | with_reducible exact Keeps.refl _ | split | with_reducible refine Leads.next ?_
    | with_reducible apply State.setPb_keeps | with_reducible refine Keeps.mk_upd ?_

theorem execPbShortPress_keeps (held : Nat) (s : State) : Leads (Keeps s) (execPbShortPress held s) := by
  unfold execPbShortPress
  dsimp only
  repeat' first
    | with_reducible exact Keeps.refl _ | split | with_reducible refine Leads.next ?_
    | with_reducible apply State.till_keeps | with_reducible apply State.setPb_keeps
    | with_reducible apply State.shortPress_keeps | with_reducible refine Keeps.mk_upd ?_

theorem execPbLongPress_keeps (s : State) : Leads (Keeps s) (execPbLongPress s) := by
  unfold execPbLongPress
  dsimp only
  repeat' first
    | with_reducible exact Keeps.refl _ | split | with_reducible refine Leads.next ?_
    | with_reducible apply State.till_keeps | with_reducible apply State.setPb_keeps
    | with_reducible apply State.forceOff_keeps | with_reducible refine Keeps.mk_upd ?_

theorem execPbLockoutEnd_keeps (s : State) : Leads (Keeps s) (execPbLockoutEnd s) := by
  unfold execPbLockoutEnd
  repeat' first
    | with_reducible exact Keeps.refl _ | split | with_reducible refine Leads.next ?_
    | with_reducible apply State.till_keeps | with_reducible apply State.setPb_keeps
    | with_reducible refine Keeps.mk_upd ?_

theorem execPbPressLongerThan50Ms_keeps (s : State) : Leads (Keeps s) (execPbPressLongerThan50Ms s) := by
  unfold execPbPressLongerThan50Ms
  repeat' first
    | with_reducible exact Keeps.refl _ | split | with_reducible refine Leads.next ?_
    | with_reducible apply State.till_keeps | with_reducible apply State.wake_keeps
    | with_reducible refine Keeps.mk_upd ?_

theorem execOwnershipWindowClose_keeps (released : Bool) (s : State) :
    Leads (Keeps s) (execOwnershipWindowClose released s) := by
  unfold execOwnershipWindowClose
  dsimp only
  repeat' first
    | with_reducible exact Keeps.refl _ | split | with_reducible refine Leads.next ?_
    | with_reducible apply State.setPb_keeps | with_reducible apply State.till_keeps
    | with_reducible refine Keeps.mk_upd ?_

theorem execTOffminElapsed_keeps (s : State) : Leads (Keeps s) (execTOffminElapsed s) := by
  unfold execTOffminElapsed
  dsimp only
  repeat' first
    | with_reducible exact Keeps.refl _ | split | with_reducible refine Leads.next ?_
    | with_reducible apply State.till_keeps | with_reducible apply State.tryPending_keeps
    | with_reducible refine Keeps.mk_upd ?_

theorem execDieOverTemperature_keeps (sensors : BitVec 4) (s : State) :
    Leads (Keeps s) (execDieOverTemperature sensors s) := by
  unfold execDieOverTemperature
  dsimp only
  repeat' first
    | with_reducible exact Keeps.refl _ | with_reducible assumption
    | with_reducible refine Keeps.foldl _ ?_ (fun u x hu => ?_) | split | with_reducible refine Leads.next ?_
    | with_reducible apply State.receiveCause_keeps | with_reducible refine Keeps.mk_upd ?_

theorem execTripiAssert_keeps (levels : BitVec 4) (s : State) : Leads (Keeps s) (execTripiAssert levels s) := by
  unfold execTripiAssert
  dsimp only
  repeat' first
    | with_reducible exact Keeps.refl _ | with_reducible assumption
    | with_reducible refine Keeps.foldl _ ?_ (fun u x hu => ?_) | split | with_reducible refine Leads.next ?_
    | with_reducible apply State.noteSet_keeps | with_reducible apply State.receiveCause_keeps
    | with_reducible apply State.tripPwm_keeps | with_reducible refine Keeps.mk_upd ?_

theorem execNopStep_keeps (k : BitVec 3) (fetch : Fetch) (s : State) : Leads (Keeps s) (execNopStep k fetch s) := by
  unfold execNopStep
  repeat' first
    | with_reducible assumption | with_reducible exact Keeps.refl _ | with_reducible refine Leads.next ?_
    | with_reducible apply State.engStep_keeps | with_reducible apply State.endStep_keeps
    | with_reducible refine Keeps.mk_upd ?_ | intro _

theorem execEnableStep_keeps (k : BitVec 3) (fetch : Fetch) (s : State) :
    Leads (Keeps s) (execEnableStep k fetch s) := by
  unfold execEnableStep
  dsimp only
  repeat' first
    | with_reducible assumption | with_reducible exact Keeps.refl _ | with_reducible refine Leads.next ?_
    | with_reducible apply State.engStep_keeps | with_reducible apply State.enHigh_keeps
    | with_reducible apply State.endStep_keeps | with_reducible refine Keeps.mk_upd ?_ | intro _

theorem execDisableStep_keeps (k : BitVec 3) (fetch : Fetch) (s : State) :
    Leads (Keeps s) (execDisableStep k fetch s) := by
  unfold execDisableStep
  dsimp only
  repeat' first
    | with_reducible assumption | with_reducible exact Keeps.refl _ | with_reducible refine Leads.next ?_
    | with_reducible apply State.engStep_keeps | with_reducible apply State.openTick_keeps
    | with_reducible apply State.disable_keeps | with_reducible apply State.endStep_keeps
    | with_reducible refine Keeps.mk_upd ?_ | intro _

theorem execWaitStep_keeps (k : BitVec 3) (fetch : Fetch) (s : State) : Leads (Keeps s) (execWaitStep k fetch s) := by
  unfold execWaitStep
  dsimp only
  repeat' first
    | with_reducible assumption | with_reducible exact Keeps.refl _ | with_reducible refine Leads.next ?_
    | with_reducible apply State.engStep_keeps | with_reducible apply State.waitIn_keeps
    | with_reducible apply State.wait_keeps | with_reducible refine Keeps.mk_upd ?_ | intro _

theorem execWaitEnd_keeps (k : BitVec 3) (s : State) : Leads (Keeps s) (execWaitEnd k s) := by
  unfold execWaitEnd
  dsimp only
  repeat' first
    | with_reducible exact Keeps.refl _ | split | with_reducible refine Leads.next ?_
    | with_reducible apply State.wait_keeps | with_reducible apply State.till_keeps
    | with_reducible apply State.endStep_keeps | with_reducible refine Keeps.mk_upd ?_

theorem execWaitforStep_keeps (k : BitVec 3) (fetch : Fetch) (s : State) :
    Leads (Keeps s) (execWaitforStep k fetch s) := by
  unfold execWaitforStep
  dsimp only
  repeat' first
    | with_reducible assumption | with_reducible exact Keeps.refl _ | with_reducible refine Leads.next ?_
    | with_reducible apply State.engStep_keeps | with_reducible apply State.waitIn_keeps
    | with_reducible refine Keeps.mk_upd ?_ | intro _

theorem execWaitforSatisfied_keeps (k : BitVec 3) (ctrig : BitVec 4) (s : State) :
    Leads (Keeps s) (execWaitforSatisfied k ctrig s) := by
  unfold execWaitforSatisfied
  dsimp only
  repeat' first
    | with_reducible exact Keeps.refl _ | split | with_reducible refine Leads.next ?_
    | with_reducible apply State.endStep_keeps | with_reducible refine Keeps.mk_upd ?_

theorem execWaitforTimeout_keeps (k : BitVec 3) (s : State) (ctrig : BitVec 4) :
    Leads (Keeps s) (execWaitforTimeout k s ctrig) := by
  unfold execWaitforTimeout
  dsimp only
  repeat' first
    | with_reducible exact Keeps.refl _ | split | with_reducible refine Leads.next ?_
    | with_reducible apply State.till_keeps | with_reducible apply State.setTo_keeps
    | with_reducible apply State.endStep_keeps | with_reducible refine Keeps.mk_upd ?_

theorem execCheckStep_keeps (k : BitVec 3) (fetch : Fetch) (s : State) : Leads (Keeps s) (execCheckStep k fetch s) := by
  refine Leads.next (State.engStep_keeps (Keeps.refl s) _ _ _ _ fun u hu => State.observeEngine_keeps (State.waitIn_keeps ?_ _ _) _)
  exact hu.mk_gen le_rfl le_rfl (fun _ => le_rfl) id id id id id id
    (fun hw => Tab.wf_foldl _ (fun _ _ ht => Tab.wf_put ht _ _ _) _ hw) id id id id

theorem execCheckQualified_keeps (k : BitVec 3) (rail : BitVec 6) (s : State) :
    Leads (Keeps s) (execCheckQualified k rail s) := by
  unfold execCheckQualified
  dsimp only
  repeat' first
    | with_reducible exact Keeps.refl _ | split | with_reducible refine Leads.next ?_
    | with_reducible apply State.till_keeps | with_reducible apply State.setEng_keeps
    | with_reducible apply State.checkEnd_keeps | with_reducible refine Keeps.mk_upd ?_

theorem execCheckDeadline_keeps (k : BitVec 3) (s : State) : Leads (Keeps s) (execCheckDeadline k s) := by
  unfold execCheckDeadline
  dsimp only
  repeat' first
    | with_reducible exact Keeps.refl _ | with_reducible assumption
    | with_reducible refine Keeps.foldl _ ?_ (fun u x hu => ?_) | split | with_reducible refine Leads.next ?_
    | with_reducible apply State.till_keeps | with_reducible apply State.checkFail_keeps
    | with_reducible apply State.endStep_keeps | with_reducible refine Keeps.mk_upd ?_

theorem execRampStep_keeps (k : BitVec 3) (fetch : Fetch) (s : State) : Leads (Keeps s) (execRampStep k fetch s) := by
  unfold execRampStep
  dsimp only
  repeat' first
    | with_reducible assumption | with_reducible exact Keeps.refl _ | with_reducible refine Leads.next ?_
    | with_reducible apply State.engStep_keeps | with_reducible apply State.rampRails_keeps
    | with_reducible apply State.endStep_keeps | with_reducible refine Keeps.mk_upd ?_ | intro _

theorem execJumpStep_keeps (k : BitVec 3) (fetch : Fetch) (s : State) : Leads (Keeps s) (execJumpStep k fetch s) := by
  unfold execJumpStep
  dsimp only
  repeat' first
    | with_reducible assumption | with_reducible exact Keeps.refl _ | split | with_reducible refine Leads.next ?_
    | with_reducible apply State.engStep_keeps | with_reducible apply State.setEng_keeps
    | with_reducible apply State.goStep_keeps | with_reducible refine Keeps.mk_upd ?_ | intro _

theorem execJumpifStep_keeps (k : BitVec 3) (fetch : Fetch) (s : State) :
    Leads (Keeps s) (execJumpifStep k fetch s) := by
  unfold execJumpifStep
  dsimp only
  repeat' first
    | with_reducible assumption | with_reducible exact Keeps.refl _ | split | with_reducible refine Leads.next ?_
    | with_reducible apply State.engStep_keeps | with_reducible apply State.setEng_keeps
    | with_reducible apply State.goStep_keeps | with_reducible apply State.endStep_keeps
    | with_reducible refine Keeps.mk_upd ?_ | intro _

theorem execSignalStep_keeps (k : BitVec 3) (fetch : Fetch) (s : State) :
    Leads (Keeps s) (execSignalStep k fetch s) := by
  unfold execSignalStep
  dsimp only
  repeat' first
    | with_reducible assumption | with_reducible exact Keeps.refl _ | split | with_reducible refine Leads.next ?_
    | with_reducible apply State.engStep_keeps | with_reducible apply State.clearFlags_keeps
    | with_reducible apply State.setFlags_keeps | with_reducible apply State.endStep_keeps
    | with_reducible refine Keeps.mk_upd ?_ | intro _

theorem execSyncStep_keeps (k : BitVec 3) (fetch : Fetch) (s : State) : Leads (Keeps s) (execSyncStep k fetch s) := by
  unfold execSyncStep
  dsimp only
  repeat' first
    | with_reducible assumption | with_reducible exact Keeps.refl _ | with_reducible refine Leads.next ?_
    | with_reducible apply State.engStep_keeps | with_reducible apply State.waitIn_keeps
    | with_reducible refine Keeps.mk_upd ?_ | intro _

theorem execSyncSatisfied_keeps (k : BitVec 3) (s : State) : Leads (Keeps s) (execSyncSatisfied k s) := by
  unfold execSyncSatisfied
  dsimp only
  repeat' first
    | with_reducible exact Keeps.refl _ | split | with_reducible refine Leads.next ?_
    | with_reducible apply State.syncEnd_keeps | with_reducible refine Keeps.mk_upd ?_

theorem execSyncTimeout_keeps (k : BitVec 3) (s : State) : Leads (Keeps s) (execSyncTimeout k s) := by
  unfold execSyncTimeout
  dsimp only
  repeat' first
    | with_reducible exact Keeps.refl _ | split | with_reducible refine Leads.next ?_
    | with_reducible apply State.till_keeps | with_reducible apply State.syncEnd_keeps
    | with_reducible apply State.setTo_keeps | with_reducible apply State.endStep_keeps
    | with_reducible refine Keeps.mk_upd ?_

theorem execMarginStep_keeps (k : BitVec 3) (fetch : Fetch) (s : State) :
    Leads (Keeps s) (execMarginStep k fetch s) := by
  unfold execMarginStep
  dsimp only
  repeat' first
    | with_reducible assumption | with_reducible exact Keeps.refl _ | split | with_reducible refine Leads.next ?_
    | with_reducible apply State.engStep_keeps | with_reducible apply State.claimTrim_keeps
    | with_reducible apply State.marginPm_keeps | with_reducible apply State.marginTrim_keeps
    | with_reducible apply State.endStep_keeps | with_reducible refine Keeps.mk_upd ?_ | intro _

theorem execTrimStep_keeps (k : BitVec 3) (fetch : Fetch) (s : State) : Leads (Keeps s) (execTrimStep k fetch s) := by
  unfold execTrimStep
  dsimp only
  repeat' first
    | with_reducible assumption | with_reducible exact Keeps.refl _ | with_reducible refine Leads.next ?_
    | with_reducible apply State.engStep_keeps | with_reducible apply State.claimTrim_keeps
    | with_reducible apply State.applyTrim_keeps | with_reducible apply State.setEng_keeps
    | with_reducible apply State.endStep_keeps | with_reducible refine Keeps.mk_upd ?_ | intro _

theorem execSnapStep_keeps (k : BitVec 3) (fetch : Fetch) (s : State) : Leads (Keeps s) (execSnapStep k fetch s) := by
  unfold execSnapStep
  dsimp only
  repeat' first
    | with_reducible assumption | with_reducible exact Keeps.refl _ | with_reducible refine Leads.next ?_
    | with_reducible apply State.engStep_keeps | with_reducible apply State.capture_keeps
    | with_reducible apply State.endStep_keeps | with_reducible refine Keeps.mk_upd ?_ | intro _

theorem execPwmStep_keeps (k : BitVec 3) (fetch : Fetch) (s : State) : Leads (Keeps s) (execPwmStep k fetch s) := by
  unfold execPwmStep
  dsimp only
  repeat' first
    | with_reducible assumption | with_reducible exact Keeps.refl _ | split | with_reducible refine Leads.next ?_
    | with_reducible apply State.engStep_keeps | with_reducible apply State.claimPwm_keeps
    | with_reducible apply State.pwmAct_keeps | with_reducible apply State.endStep_keeps
    | with_reducible refine Keeps.mk_upd ?_ | intro _

theorem execHaltStep_keeps (k : BitVec 3) (fetch : Fetch) (s : State) : Leads (Keeps s) (execHaltStep k fetch s) := by
  unfold execHaltStep
  dsimp only
  repeat' first
    | with_reducible assumption | with_reducible exact Keeps.refl _ | with_reducible refine Leads.next ?_
    | with_reducible apply State.engStep_keeps | with_reducible apply State.halt_keeps
    | with_reducible refine Keeps.mk_upd ?_ | intro _

theorem execStepBudgetExpiry_keeps (k : BitVec 3) (s : State) : Leads (Keeps s) (execStepBudgetExpiry k s) := by
  unfold execStepBudgetExpiry
  dsimp only
  repeat' first
    | with_reducible exact Keeps.refl _ | split | with_reducible refine Leads.next ?_
    | with_reducible apply State.till_keeps | with_reducible apply State.engineError_keeps
    | with_reducible refine Keeps.mk_upd ?_

theorem execTimeBudgetExpiry_keeps (k : BitVec 3) (s : State) : Leads (Keeps s) (execTimeBudgetExpiry k s) := by
  unfold execTimeBudgetExpiry
  dsimp only
  repeat' first
    | with_reducible exact Keeps.refl _ | split | with_reducible refine Leads.next ?_
    | with_reducible apply State.till_keeps | with_reducible apply State.engineError_keeps
    | with_reducible refine Keeps.mk_upd ?_

theorem execPmbusSequenceEnd_keeps (rail : BitVec 6) (s : State) : Leads (Keeps s) (execPmbusSequenceEnd rail s) := by
  unfold execPmbusSequenceEnd
  dsimp only
  repeat' first
    | with_reducible exact Keeps.refl _ | split | with_reducible refine Leads.next ?_
    | with_reducible apply State.setPmb_keeps | with_reducible apply State.marginEnd_keeps
    | with_reducible apply State.marginDone_keeps | with_reducible refine Keeps.mk_upd ?_

theorem execPeriodStart_keeps (c : BitVec 4) (s : State) : Leads (Keeps s) (execPeriodStart c s) := by
  unfold execPeriodStart
  dsimp only
  repeat' first
    | with_reducible exact Keeps.refl _ | split | with_reducible refine Leads.next ?_
    | with_reducible apply State.wait_keeps | with_reducible apply State.pwSettle_keeps
    | with_reducible apply State.keepWrap_keeps | with_reducible apply State.zeroCounter_keeps
    | with_reducible apply State.periodStart_keeps | with_reducible refine Keeps.mk_upd ?_

theorem execCompareMatch_keeps (c : BitVec 4) (s : State) : Leads (Keeps s) (execCompareMatch c s) := by
  unfold execCompareMatch
  dsimp only
  repeat' first
    | with_reducible exact Keeps.refl _ | split | with_reducible refine Leads.next ?_
    | with_reducible apply State.wait_keeps | with_reducible apply State.pwSettle_keeps
    | with_reducible apply State.drive_keeps | with_reducible refine Keeps.mk_upd ?_

theorem execDeadTimeEnd_keeps (c : BitVec 4) (s : State) : Leads (Keeps s) (execDeadTimeEnd c s) := by
  unfold execDeadTimeEnd
  dsimp only
  repeat' first
    | with_reducible exact Keeps.refl _ | split | with_reducible refine Leads.next ?_
    | with_reducible apply State.till_keeps | with_reducible apply State.setCh_keeps
    | with_reducible refine Keeps.mk_upd ?_

theorem execPwmTriggerCompare_keeps (c : BitVec 4) (j : BitVec 1) (s : State) :
    Leads (Keeps s) (execPwmTriggerCompare c j s) := by
  unfold execPwmTriggerCompare
  dsimp only
  repeat' first
    | with_reducible exact Keeps.refl _ | split | with_reducible refine Leads.next ?_
    | with_reducible apply State.wait_keeps | with_reducible apply State.pwSettle_keeps
    | with_reducible apply State.fireTrigger_keeps | with_reducible refine Keeps.mk_upd ?_

theorem execPwmsoEnd_keeps (s : State) : Leads (Keeps s) (execPwmsoEnd s) := by
  unfold execPwmsoEnd
  dsimp only
  repeat' first
    | with_reducible exact Keeps.refl _ | split | with_reducible refine Leads.next ?_
    | with_reducible apply State.till_keeps | with_reducible refine Keeps.mk_upd ?_

theorem execPwmsiEdge_keeps (s : State) : Leads (Keeps s) (execPwmsiEdge s) := by
  unfold execPwmsiEdge
  repeat' first
    | with_reducible exact Keeps.refl _ | with_reducible assumption
    | with_reducible refine Keeps.foldl _ ?_ (fun u x hu => ?_) | split | with_reducible refine Leads.next ?_
    | with_reducible apply State.loadCh_keeps | with_reducible apply State.pwSettle_keeps
    | with_reducible refine Keeps.mk_upd ?_

theorem execChannelStart_keeps (c : BitVec 4) (s : State) : Leads (Keeps s) (execChannelStart c s) := by
  unfold execChannelStart
  repeat' first
    | with_reducible exact Keeps.refl _ | with_reducible refine Leads.next ?_
    | with_reducible apply State.writeLive_keeps | with_reducible refine Keeps.mk_upd ?_

theorem execChannelStop_keeps (c : BitVec 4) (s : State) : Leads (Keeps s) (execChannelStop c s) := by
  unfold execChannelStop
  repeat' first
    | with_reducible exact Keeps.refl _ | with_reducible refine Leads.next ?_
    | with_reducible apply State.writeLive_keeps | with_reducible refine Keeps.mk_upd ?_

theorem execLoadAll_keeps (s : State) : Leads (Keeps s) (execLoadAll s) := by
  unfold execLoadAll
  repeat' first
    | with_reducible exact Keeps.refl _ | with_reducible refine Leads.next ?_
    | with_reducible apply State.writeLive_keeps | with_reducible refine Keeps.mk_upd ?_

theorem execPwmTrip_keeps (source : BitVec 4) (s : State) : Leads (Keeps s) (execPwmTrip source s) := by
  unfold execPwmTrip
  dsimp only
  repeat' first
    | with_reducible exact Keeps.refl _ | split | with_reducible refine Leads.next ?_
    | with_reducible apply State.tripiPulse_keeps | with_reducible apply State.tripPwm_keeps
    | with_reducible refine Keeps.mk_upd ?_

theorem execTripLatchClear_keeps (bits : BitVec 16) (s : State) : Leads (Keeps s) (execTripLatchClear bits s) := by
  unfold execTripLatchClear
  repeat' first
    | with_reducible exact Keeps.refl _ | with_reducible refine Leads.next ?_
    | with_reducible apply State.writeLive_keeps | with_reducible refine Keeps.mk_upd ?_

theorem execTripiSeenClear_keeps (bits : BitVec 4) (s : State) : Leads (Keeps s) (execTripiSeenClear bits s) := by
  unfold execTripiSeenClear
  repeat' first
    | with_reducible exact Keeps.refl _ | with_reducible refine Leads.next ?_
    | with_reducible apply State.writeLive_keeps | with_reducible refine Keeps.mk_upd ?_

theorem execReceiverLock_keeps (port : Link) (s : State) : Leads (Keeps s) (execReceiverLock port s) := by
  unfold execReceiverLock
  repeat' first
    | with_reducible exact Keeps.refl _ | split | with_reducible refine Leads.next ?_
    | with_reducible apply State.setLink_keeps | with_reducible refine Keeps.mk_upd ?_

theorem execLinkUp_keeps (port : Link) (s : State) : Leads (Keeps s) (execLinkUp port s) := by
  unfold execLinkUp
  dsimp only
  repeat' first
    | with_reducible exact Keeps.refl _ | split | with_reducible refine Leads.next ?_
    | with_reducible apply State.setLink_keeps | with_reducible apply State.setWrap_keeps
    | with_reducible apply State.linkState_keeps | with_reducible apply State.irqGl_keeps
    | with_reducible refine Keeps.mk_upd ?_

theorem execLinkDown_keeps (port : Link) (s : State) : Leads (Keeps s) (execLinkDown port s) := by
  unfold execLinkDown
  dsimp only
  repeat' first
    | with_reducible exact Keeps.refl _ | split | with_reducible refine Leads.next ?_
    | with_reducible apply State.setLink_keeps | with_reducible apply State.setWrap_keeps
    | with_reducible apply State.irqGl_keeps | with_reducible refine Keeps.mk_upd ?_

theorem execUnwrap_keeps (port : Link) (s : State) : Leads (Keeps s) (execUnwrap port s) := by
  unfold execUnwrap
  repeat' first
    | with_reducible exact Keeps.refl _ | split | with_reducible refine Leads.next ?_
    | with_reducible apply State.till_keeps | with_reducible apply State.setWrap_keeps
    | with_reducible refine Keeps.mk_upd ?_

theorem execHorn_keeps (port : Link) (orig : BitVec 12) (seq : BitVec 4) (s : State) :
    Leads (Keeps s) (execHorn port orig seq s) := by
  unfold execHorn
  repeat' first
    | with_reducible exact Keeps.refl _ | split | with_reducible refine Leads.next ?_
    | with_reducible apply State.passHorn_keeps | with_reducible apply State.hornReaches_keeps
    | with_reducible refine Keeps.mk_upd ?_

theorem execCommandFrame_keeps (f : Arrival) (s : State) : Leads (Keeps s) (execCommandFrame f s) := by
  unfold execCommandFrame
  dsimp only
  repeat' first
    | with_reducible exact Keeps.refl _ | split | with_reducible refine Leads.next ?_
    | with_reducible apply State.pass_keeps | with_reducible apply State.arrive_keeps
    | with_reducible refine Keeps.mk_upd ?_

theorem execReplyFrame_keeps (f : Arrival) (s : State) : Leads (Keeps s) (execReplyFrame f s) := by
  unfold execReplyFrame
  dsimp only
  repeat' first
    | with_reducible exact Keeps.refl _ | split | with_reducible refine Leads.next ?_
    | with_reducible apply State.pass_keeps | with_reducible apply State.takeReply_keeps
    | with_reducible refine Keeps.mk_upd ?_

theorem execBroadcastFrame_keeps (f : Arrival) (s : State) : Leads (Keeps s) (execBroadcastFrame f s) := by
  unfold execBroadcastFrame
  repeat' first
    | with_reducible exact Keeps.refl _ | split | with_reducible refine Leads.next ?_
    | with_reducible apply State.pass_keeps | with_reducible apply State.bcastBack_keeps
    | with_reducible apply State.passAgain_keeps | with_reducible apply State.dropNote_keeps
    | with_reducible apply State.noteFrame_keeps | with_reducible apply State.arrive_keeps
    | with_reducible refine Keeps.mk_upd ?_

theorem execTimeFrame_keeps (f : Arrival) (s : State) : Leads (Keeps s) (execTimeFrame f s) := by
  unfold execTimeFrame
  repeat' first
    | with_reducible exact Keeps.refl _ | split | with_reducible refine Leads.next ?_
    | with_reducible apply State.pass_keeps | with_reducible apply State.meetRoot_keeps
    | with_reducible apply State.passAgain_keeps | with_reducible apply State.dropNote_keeps
    | with_reducible apply State.passTime_keeps | with_reducible apply State.noteFrame_keeps
    | with_reducible apply State.takeTime_keeps | with_reducible refine Keeps.mk_upd ?_

theorem execTimeSend_keeps (s : State) : Leads (Keeps s) (execTimeSend s) := by
  unfold execTimeSend
  dsimp only
  repeat' first
    | with_reducible exact Keeps.refl _ | split | with_reducible refine Leads.next ?_
    | with_reducible apply State.till_keeps | with_reducible apply State.sendFrame_keeps
    | with_reducible refine Keeps.mk_upd ?_

theorem execIsolated_keeps (s : State) : Leads (Keeps s) (execIsolated s) := by
  unfold execIsolated
  dsimp only
  repeat' first
    | with_reducible exact Keeps.refl _ | split | with_reducible refine Leads.next ?_
    | with_reducible apply State.till_keeps | with_reducible apply State.irqGl_keeps
    | with_reducible refine Keeps.mk_upd ?_

theorem execEnumerate_keeps (s : State) : Leads (Keeps s) (execEnumerate s) := by
  unfold execEnumerate
  repeat' first
    | with_reducible exact Keeps.refl _ | with_reducible refine Leads.next ?_
    | with_reducible apply State.launchEnum_keeps | with_reducible refine Keeps.mk_upd ?_

theorem execTokenFrame_keeps (f : Arrival) (s : State) : Leads (Keeps s) (execTokenFrame f s) := by
  unfold execTokenFrame
  dsimp only
  repeat' first
    | with_reducible exact Keeps.refl _ | split | with_reducible refine Leads.next ?_
    | with_reducible apply State.pass_keeps | with_reducible apply State.meetRoot_keeps
    | with_reducible apply State.tokenBack_keeps | with_reducible apply State.meet_keeps
    | with_reducible apply State.endConflict_keeps | with_reducible apply State.takeToken_keeps
    | with_reducible apply State.passFrame_keeps | with_reducible refine Keeps.mk_upd ?_

theorem execEnrolFrame_keeps (f : Arrival) (s : State) : Leads (Keeps s) (execEnrolFrame f s) := by
  unfold execEnrolFrame
  dsimp only
  repeat' first
    | with_reducible exact Keeps.refl _ | split | with_reducible refine Leads.next ?_
    | with_reducible apply State.pass_keeps | with_reducible apply State.takeEnrol_keeps
    | with_reducible refine Keeps.mk_upd ?_

theorem execEnrolWaitEnd_keeps (s : State) : Leads (Keeps s) (execEnrolWaitEnd s) := by
  unfold execEnrolWaitEnd
  repeat' first
    | with_reducible exact Keeps.refl _ | split | with_reducible refine Leads.next ?_
    | with_reducible apply State.till_keeps | with_reducible apply State.closeEnum_keeps
    | with_reducible refine Keeps.mk_upd ?_

theorem execClosureFrame_keeps (f : Arrival) (s : State) : Leads (Keeps s) (execClosureFrame f s) := by
  unfold execClosureFrame
  dsimp only
  repeat' first
    | with_reducible exact Keeps.refl _ | split | with_reducible refine Leads.next ?_
    | with_reducible apply State.pass_keeps | with_reducible apply State.meetRoot_keeps
    | with_reducible apply State.takeClosure_keeps | with_reducible refine Keeps.mk_upd ?_

theorem execForget_keeps (s : State) : Leads (Keeps s) (execForget s) := by
  unfold execForget
  repeat' first
    | with_reducible exact Keeps.refl _ | with_reducible refine Leads.next ?_
    | with_reducible apply State.writeLive_keeps | with_reducible refine Keeps.mk_upd ?_

theorem execJoinFrame_keeps (f : Arrival) (s : State) : Leads (Keeps s) (execJoinFrame f s) := by
  unfold execJoinFrame
  dsimp only
  repeat' first
    | with_reducible exact Keeps.refl _ | split | with_reducible refine Leads.next ?_
    | with_reducible apply State.pass_keeps | with_reducible apply State.takeJoin_keeps
    | with_reducible refine Keeps.mk_upd ?_

theorem execJoinResend_keeps (s : State) : Leads (Keeps s) (execJoinResend s) := by
  unfold execJoinResend
  repeat' first
    | with_reducible exact Keeps.refl _ | split | with_reducible refine Leads.next ?_
    | with_reducible apply State.till_keeps | with_reducible apply State.sendJoin_keeps
    | with_reducible refine Keeps.mk_upd ?_

theorem execAdmitFrame_keeps (f : Arrival) (s : State) : Leads (Keeps s) (execAdmitFrame f s) := by
  unfold execAdmitFrame
  dsimp only
  repeat' first
    | with_reducible exact Keeps.refl _ | split | with_reducible refine Leads.next ?_
    | with_reducible apply State.pass_keeps | with_reducible apply State.takeAdmit_keeps
    | with_reducible refine Keeps.mk_upd ?_

theorem execConflictFrame_keeps (f : Arrival) (s : State) : Leads (Keeps s) (execConflictFrame f s) := by
  unfold execConflictFrame
  dsimp only
  repeat' first
    | with_reducible exact Keeps.refl _ | split | with_reducible refine Leads.next ?_
    | with_reducible apply State.pass_keeps | with_reducible apply State.enterConflict_keeps
    | with_reducible refine Keeps.mk_upd ?_

theorem execUnknownFrame_keeps (f : Arrival) (s : State) : Leads (Keeps s) (execUnknownFrame f s) := by
  unfold execUnknownFrame
  dsimp only
  repeat' first
    | with_reducible exact Keeps.refl _ | split | with_reducible refine Leads.next ?_
    | with_reducible apply State.pass_keeps | with_reducible apply State.setLink_keeps
    | with_reducible refine Keeps.mk_upd ?_

theorem execComparatorCrossing_keeps (src : BitVec 8) (fault : Bool) (s : State) :
    Leads (Keeps s) (execComparatorCrossing src fault s) := by
  unfold execComparatorCrossing
  dsimp only
  repeat' first
    | with_reducible exact Keeps.refl _ | split | with_reducible refine Leads.next ?_
    | with_reducible apply State.observe_keeps | with_reducible apply State.senseChange_keeps
    | with_reducible refine Keeps.mk_upd ?_

theorem execSettleHoldEnd_keeps (src : BitVec 8) (s : State) : Leads (Keeps s) (execSettleHoldEnd src s) := by
  unfold execSettleHoldEnd
  dsimp only
  repeat' first
    | with_reducible exact Keeps.refl _ | split | with_reducible refine Leads.next ?_
    | with_reducible apply State.till_keeps | with_reducible apply State.setCmp_keeps
    | with_reducible apply State.endTest_keeps | with_reducible apply State.release_keeps
    | with_reducible refine Keeps.mk_upd ?_

theorem execRampDacStep_keeps (src : BitVec 8) (s : State) : Leads (Keeps s) (execRampDacStep src s) := by
  unfold execRampDacStep
  dsimp only
  repeat' first
    | with_reducible assumption | with_reducible exact Keeps.refl _ | split | with_reducible refine Leads.next ?_
    | with_reducible apply State.till_keeps | with_reducible apply State.setCmp_keeps
    | with_reducible apply State.advance_keeps | with_reducible refine Keeps.mk_upd ?_ | intro _

theorem execPwmsyncEdge_keeps (pin : BitVec 2) (s : State) : Leads (Keeps s) (execPwmsyncEdge pin s) := by
  unfold execPwmsyncEdge
  repeat' first
    | with_reducible exact Keeps.refl _ | with_reducible assumption
    | with_reducible refine Keeps.foldl _ ?_ (fun u x hu => ?_) | split | with_reducible refine Leads.next ?_
    | with_reducible apply State.syncEdge_keeps | with_reducible refine Keeps.mk_upd ?_

theorem execPwmsyncWindowOpen_keeps (src : BitVec 8) (s : State) : Leads (Keeps s) (execPwmsyncWindowOpen src s) := by
  unfold execPwmsyncWindowOpen
  dsimp only
  repeat' first
    | with_reducible exact Keeps.refl _ | split | with_reducible refine Leads.next ?_
    | with_reducible apply State.till_keeps | with_reducible apply State.setCmp_keeps
    | with_reducible refine Keeps.mk_upd ?_

theorem execPwmsyncWindowClose_keeps (src : BitVec 8) (s : State) : Leads (Keeps s) (execPwmsyncWindowClose src s) := by
  unfold execPwmsyncWindowClose
  dsimp only
  repeat' first
    | with_reducible exact Keeps.refl _ | split | with_reducible refine Leads.next ?_
    | with_reducible apply State.till_keeps | with_reducible apply State.setCmp_keeps
    | with_reducible apply State.release_keeps | with_reducible refine Keeps.mk_upd ?_

theorem execBlankingOverrun_keeps (src : BitVec 8) (s : State) : Leads (Keeps s) (execBlankingOverrun src s) := by
  unfold execBlankingOverrun
  dsimp only
  repeat' first
    | with_reducible exact Keeps.refl _ | split | with_reducible refine Leads.next ?_
    | with_reducible apply State.till_keeps | with_reducible apply State.setCmp_keeps
    | with_reducible apply State.release_keeps | with_reducible apply State.senseFault_keeps
    | with_reducible refine Keeps.mk_upd ?_

theorem execEnableWindowOpen_keeps (src : BitVec 8) (s : State) : Leads (Keeps s) (execEnableWindowOpen src s) := by
  unfold execEnableWindowOpen
  dsimp only
  repeat' first
    | with_reducible exact Keeps.refl _ | split | with_reducible refine Leads.next ?_
    | with_reducible apply State.till_keeps | with_reducible apply State.setCmp_keeps
    | with_reducible refine Keeps.mk_upd ?_

theorem execEnableWindowClose_keeps (src : BitVec 8) (s : State) : Leads (Keeps s) (execEnableWindowClose src s) := by
  unfold execEnableWindowClose
  dsimp only
  repeat' first
    | with_reducible exact Keeps.refl _ | split | with_reducible refine Leads.next ?_
    | with_reducible apply State.till_keeps | with_reducible apply State.setCmp_keeps
    | with_reducible apply State.release_keeps | with_reducible refine Keeps.mk_upd ?_

theorem execSelftestSlot_keeps (s : State) : Leads (Keeps s) (execSelftestSlot s) := by
  unfold execSelftestSlot
  dsimp only
  repeat' first
    | with_reducible exact Keeps.refl _ | split | with_reducible refine Leads.next ?_
    | with_reducible apply State.till_keeps | with_reducible apply State.setCmp_keeps
    | with_reducible apply State.skipTest_keeps | with_reducible apply State.beginTest_keeps
    | with_reducible apply State.refreshFlt_keeps | with_reducible apply State.nextSlot_keeps
    | with_reducible refine Keeps.mk_upd ?_

theorem execSelftestPhaseEnd_keeps (right : Bool) (s : State) : Leads (Keeps s) (execSelftestPhaseEnd right s) := by
  unfold execSelftestPhaseEnd
  dsimp only
  repeat' first
    | with_reducible exact Keeps.refl _ | with_reducible exact execSettleHoldEnd_keeps _ _ | split
    | with_reducible refine Leads.next ?_ | with_reducible apply State.till_keeps
    | with_reducible apply State.restoreTest_keeps | with_reducible refine Keeps.mk_upd ?_

theorem execFltStretchEnd_keeps (pin : BitVec 3) (s : State) : Leads (Keeps s) (execFltStretchEnd pin s) := by
  unfold execFltStretchEnd
  dsimp only
  repeat' first
    | with_reducible exact Keeps.refl _ | split | with_reducible refine Leads.next ?_
    | with_reducible apply State.till_keeps | with_reducible refine Keeps.mk_upd ?_

theorem execFltLatchClear_keeps (pins : Byte) (s : State) : Leads (Keeps s) (execFltLatchClear pins s) := by
  unfold execFltLatchClear
  repeat' first
    | with_reducible exact Keeps.refl _ | with_reducible refine Leads.next ?_
    | with_reducible apply State.writeLive_keeps | with_reducible refine Keeps.mk_upd ?_

theorem execScanPassStart_keeps (s : State) : Leads (Keeps s) (execScanPassStart s) := by
  unfold execScanPassStart
  dsimp only
  repeat' first
    | with_reducible exact Keeps.refl _ | split | with_reducible refine Leads.next ?_
    | with_reducible apply State.till_keeps | with_reducible apply State.openGroups_keeps
    | with_reducible apply State.startPass_keeps | with_reducible apply State.assignAll_keeps
    | with_reducible refine Keeps.mk_upd ?_

theorem execConversionComplete_keeps (conv : BitVec 2) (code : BitVec 16) (s : State) :
    Leads (Keeps s) (execConversionComplete conv code s) := by
  unfold execConversionComplete
  dsimp only
  repeat' first
    | with_reducible exact Keeps.refl _ | split | with_reducible refine Leads.next ?_
    | with_reducible apply State.convDone_keeps | with_reducible apply State.till_keeps
    | with_reducible apply State.openGroups_keeps | with_reducible refine Keeps.mk_upd ?_

theorem execCtrigEdge_keeps (source : BitVec 4) (s : State) : Leads (Keeps s) (execCtrigEdge source s) := by
  unfold execCtrigEdge
  repeat' first
    | with_reducible exact Keeps.refl _ | split | with_reducible refine Leads.next ?_
    | with_reducible apply State.fireTrigger_keeps | with_reducible refine Keeps.mk_upd ?_

theorem execSaggarConversionDemand_keeps (input : BitVec 7) (s : State) :
    Leads (Keeps s) (execSaggarConversionDemand input s) := by
  unfold execSaggarConversionDemand
  repeat' first
    | with_reducible exact Keeps.refl _ | split | with_reducible refine Leads.next ?_
    | with_reducible apply State.demand_keeps | with_reducible refine Keeps.mk_upd ?_

theorem execEnPinLevelChange_keeps (rail : BitVec 6) (high : Bool) (s : State) :
    Leads (Keeps s) (execEnPinLevelChange rail high s) := by
  unfold execEnPinLevelChange
  dsimp only
  repeat' first
    | with_reducible exact Keeps.refl _ | with_reducible assumption
    | with_reducible refine Keeps.foldl _ ?_ (fun u x hu => ?_) | split | with_reducible refine Leads.next ?_
    | with_reducible apply State.enHigh_keeps | with_reducible apply State.setCmp_keeps
    | with_reducible apply State.senseChange_keeps | with_reducible apply State.unblock_keeps
    | with_reducible refine Keeps.mk_upd ?_

theorem execStartNow_keeps (s : State) : Leads (Keeps s) (execStartNow s) := by
  unfold execStartNow
  repeat' first
    | with_reducible exact Keeps.refl _ | with_reducible refine Leads.next ?_
    | with_reducible apply State.writeLive_keeps | with_reducible refine Keeps.mk_upd ?_

theorem execSweepStop_keeps (s : State) : Leads (Keeps s) (execSweepStop s) := by
  unfold execSweepStop
  repeat' first
    | with_reducible exact Keeps.refl _ | with_reducible refine Leads.next ?_
    | with_reducible apply State.writeLive_keeps | with_reducible refine Keeps.mk_upd ?_

theorem execSweepCycleStart_keeps (s : State) : Leads (Keeps s) (execSweepCycleStart s) := by
  unfold execSweepCycleStart
  repeat' first
    | with_reducible exact Keeps.refl _ | split | with_reducible refine Leads.next ?_
    | with_reducible apply State.till_keeps | with_reducible apply State.startCycle_keeps
    | with_reducible refine Keeps.mk_upd ?_

theorem execSweepRailStart_keeps (s : State) : Leads (Keeps s) (execSweepRailStart s) := by
  unfold execSweepRailStart
  dsimp only
  repeat' first
    | with_reducible exact Keeps.refl _ | split | with_reducible refine Leads.next ?_
    | with_reducible apply State.till_keeps | with_reducible apply State.beginPoint_keeps
    | with_reducible apply State.sweepSees_keeps | with_reducible apply State.endRail_keeps
    | with_reducible apply State.finishCycle_keeps | with_reducible refine Keeps.mk_upd ?_

theorem execSweepSample_keeps (s : State) : Leads (Keeps s) (execSweepSample s) := by
  unfold execSweepSample
  dsimp only
  repeat' first
    | with_reducible exact Keeps.refl _ | split | with_reducible refine Leads.next ?_
    | with_reducible apply State.till_keeps | with_reducible apply State.demand_keeps
    | with_reducible refine Keeps.mk_upd ?_

theorem execSweepPoint_keeps (s : State) : Leads (Keeps s) (execSweepPoint s) := by
  unfold execSweepPoint
  dsimp only
  repeat' first
    | with_reducible exact Keeps.refl _ | split | with_reducible refine Leads.next ?_
    | with_reducible apply State.till_keeps | with_reducible apply State.pointDone_keeps
    | with_reducible apply State.beginPoint_keeps | with_reducible apply State.endRail_keeps
    | with_reducible apply State.finishCycle_keeps | with_reducible refine Keeps.mk_upd ?_

theorem execTwTransactionEnd_keeps (port : BitVec 2) (result : BitVec 4) (data : BitVec 16) (s : State) (got : Byte) :
    Leads (Keeps s) (execTwTransactionEnd port result data s got) := by
  unfold execTwTransactionEnd
  dsimp only
  repeat' first
    | with_reducible exact Keeps.refl _ | split | with_reducible refine Leads.next ?_
    | with_reducible apply State.twEnd_keeps | with_reducible refine Keeps.mk_upd ?_

theorem execTwBusIdle_keeps (port : BitVec 2) (s : State) : Leads (Keeps s) (execTwBusIdle port s) := by
  unfold execTwBusIdle
  dsimp only
  repeat' first
    | with_reducible exact Keeps.refl _ | split | with_reducible refine Leads.next ?_
    | with_reducible apply State.till_keeps | with_reducible apply State.setTw_keeps
    | with_reducible apply State.pump_keeps | with_reducible refine Keeps.mk_upd ?_

theorem execSclTimeout_keeps (port : BitVec 2) (s : State) : Leads (Keeps s) (execSclTimeout port s) := by
  unfold execSclTimeout
  dsimp only
  repeat' first
    | with_reducible exact Keeps.refl _ | split | with_reducible refine Leads.next ?_
    | with_reducible apply State.endQueue_keeps | with_reducible apply State.setTw_keeps
    | with_reducible apply State.irqTw_keeps | with_reducible refine Keeps.mk_upd ?_

theorem execSdaStuck_keeps (port : BitVec 2) (s : State) : Leads (Keeps s) (execSdaStuck port s) := by
  unfold execSdaStuck
  dsimp only
  repeat' first
    | with_reducible exact Keeps.refl _ | split | with_reducible refine Leads.next ?_
    | with_reducible apply State.setTw_keeps | with_reducible apply State.irqTw_keeps
    | with_reducible refine Keeps.mk_upd ?_

theorem execBusClearEnd_keeps (port : BitVec 2) (stop : Bool) (s : State) :
    Leads (Keeps s) (execBusClearEnd port stop s) := by
  unfold execBusClearEnd
  dsimp only
  repeat' first
    | with_reducible exact Keeps.refl _ | split | with_reducible refine Leads.next ?_
    | with_reducible apply State.busyPump_keeps | with_reducible apply State.irqTw_keeps
    | with_reducible apply State.endHead_keeps | with_reducible refine Keeps.mk_upd ?_

theorem execTwRequest_keeps (port : BitVec 2) (s : State) : Leads (Keeps s) (execTwRequest port s) := by
  unfold execTwRequest
  dsimp only
  repeat' first
    | with_reducible exact Keeps.refl _ | split | with_reducible refine Leads.next ?_
    | with_reducible apply State.beginAnswer_keeps | with_reducible apply State.till_keeps
    | with_reducible refine Keeps.mk_upd ?_

theorem execTwRequestAnswerEnd_keeps (port : BitVec 2) (addr : BitVec 7) (abandoned : Bool) (s : State) :
    Leads (Keeps s) (execTwRequestAnswerEnd port addr abandoned s) := by
  unfold execTwRequestAnswerEnd
  dsimp only
  repeat' first
    | with_reducible exact Keeps.refl _ | split | with_reducible refine Leads.next ?_
    | with_reducible apply State.setTw_keeps | with_reducible apply State.irqTw_keeps
    | with_reducible apply State.busyPump_keeps | with_reducible refine Keeps.mk_upd ?_

theorem execTwPortReset_keeps (port : BitVec 2) (s : State) : Leads (Keeps s) (execTwPortReset port s) := by
  unfold execTwPortReset
  repeat' first
    | with_reducible exact Keeps.refl _ | with_reducible refine Leads.next ?_
    | with_reducible apply State.writeLive_keeps | with_reducible refine Keeps.mk_upd ?_

theorem execTwBusClear_keeps (port : BitVec 2) (s : State) : Leads (Keeps s) (execTwBusClear port s) := by
  unfold execTwBusClear
  repeat' first
    | with_reducible exact Keeps.refl _ | with_reducible refine Leads.next ?_
    | with_reducible apply State.writeLive_keeps | with_reducible refine Keeps.mk_upd ?_

theorem execHeartbeatSend_keeps (s : State) : Leads (Keeps s) (execHeartbeatSend s) := by
  unfold execHeartbeatSend
  dsimp only
  repeat' first
    | with_reducible exact Keeps.refl _ | split | with_reducible refine Leads.next ?_
    | with_reducible apply State.till_keeps | with_reducible apply State.sendFrame_keeps
    | with_reducible refine Keeps.mk_upd ?_

theorem execHeartbeatFrame_keeps (f : Arrival) (s : State) : Leads (Keeps s) (execHeartbeatFrame f s) := by
  unfold execHeartbeatFrame
  dsimp only
  repeat' first
    | with_reducible exact Keeps.refl _ | split | with_reducible refine Leads.next ?_
    | with_reducible apply State.pass_keeps | with_reducible apply State.dropNote_keeps
    | with_reducible apply State.noteFrame_keeps | with_reducible apply State.takeHeartbeat_keeps
    | with_reducible refine Keeps.mk_upd ?_

theorem execTwinLost_keeps (s : State) : Leads (Keeps s) (execTwinLost s) := by
  unfold execTwinLost
  dsimp only
  repeat' first
    | with_reducible exact Keeps.refl _ | split | with_reducible refine Leads.next ?_
    | with_reducible apply State.till_keeps | with_reducible apply State.irqGl_keeps
    | with_reducible apply State.aloneAgain_keeps | with_reducible apply State.receiveCause_keeps
    | with_reducible refine Keeps.mk_upd ?_

theorem execSeekResend_keeps (s : State) : Leads (Keeps s) (execSeekResend s) := by
  unfold execSeekResend
  dsimp only
  repeat' first
    | with_reducible exact Keeps.refl _ | split | with_reducible refine Leads.next ?_
    | with_reducible apply State.till_keeps | with_reducible apply State.sendTwin_keeps
    | with_reducible refine Keeps.mk_upd ?_

theorem execSeekFrame_keeps (f : Arrival) (s : State) (alone : Bool) : Leads (Keeps s) (execSeekFrame f s alone) := by
  unfold execSeekFrame
  repeat' first
    | with_reducible assumption | with_reducible exact Keeps.refl _ | with_reducible refine Leads.next ?_
    | with_reducible apply State.onTwin_keeps | with_reducible apply State.takeSeek_keeps
    | with_reducible refine Keeps.mk_upd ?_ | intro _

theorem execTwinSeekTimeout_keeps (s : State) : Leads (Keeps s) (execTwinSeekTimeout s) := by
  unfold execTwinSeekTimeout
  dsimp only
  repeat' first
    | with_reducible exact Keeps.refl _ | split | with_reducible refine Leads.next ?_
    | with_reducible apply State.till_keeps | with_reducible apply State.foundOrBlock_keeps
    | with_reducible refine Keeps.mk_upd ?_

theorem execChallengeFrame_keeps (f : Arrival) (s : State) : Leads (Keeps s) (execChallengeFrame f s) := by
  unfold execChallengeFrame
  repeat' first
    | with_reducible assumption | with_reducible exact Keeps.refl _ | with_reducible refine Leads.next ?_
    | with_reducible apply State.onTwin_keeps | with_reducible apply State.takeChallenge_keeps
    | with_reducible refine Keeps.mk_upd ?_ | intro _

theorem execProofFrame_keeps (f : Arrival) (s : State) : Leads (Keeps s) (execProofFrame f s) := by
  unfold execProofFrame
  repeat' first
    | with_reducible assumption | with_reducible exact Keeps.refl _ | with_reducible refine Leads.next ?_
    | with_reducible apply State.onTwin_keeps | with_reducible apply State.takeProof_keeps
    | with_reducible refine Keeps.mk_upd ?_ | intro _

theorem execTwinRefuse_keeps (f : Arrival) (s : State) : Leads (Keeps s) (execTwinRefuse f s) := by
  unfold execTwinRefuse
  repeat' first
    | with_reducible assumption | with_reducible exact Keeps.refl _ | with_reducible refine Leads.next ?_
    | with_reducible apply State.onTwin_keeps | with_reducible apply State.takeRefuse_keeps
    | with_reducible refine Keeps.mk_upd ?_ | intro _

theorem execTwinSync_keeps (f : Arrival) (s : State) : Leads (Keeps s) (execTwinSync f s) := by
  unfold execTwinSync
  repeat' first
    | with_reducible assumption | with_reducible exact Keeps.refl _ | with_reducible refine Leads.next ?_
    | with_reducible apply State.onTwin_keeps | with_reducible apply State.takeSync_keeps
    | with_reducible refine Keeps.mk_upd ?_ | intro _

theorem execTwinReady_keeps (f : Arrival) (s : State) : Leads (Keeps s) (execTwinReady f s) := by
  unfold execTwinReady
  repeat' first
    | with_reducible assumption | with_reducible exact Keeps.refl _ | with_reducible refine Leads.next ?_
    | with_reducible apply State.onTwin_keeps | with_reducible apply State.takeReady_keeps
    | with_reducible refine Keeps.mk_upd ?_ | intro _

theorem execTwinCommit_keeps (f : Arrival) (s : State) : Leads (Keeps s) (execTwinCommit f s) := by
  unfold execTwinCommit
  repeat' first
    | with_reducible assumption | with_reducible exact Keeps.refl _ | with_reducible refine Leads.next ?_
    | with_reducible apply State.onTwin_keeps | with_reducible apply State.takeCommit_keeps
    | with_reducible refine Keeps.mk_upd ?_ | intro _

theorem execTwinAbort_keeps (f : Arrival) (s : State) : Leads (Keeps s) (execTwinAbort f s) := by
  unfold execTwinAbort
  repeat' first
    | with_reducible assumption | with_reducible exact Keeps.refl _ | with_reducible refine Leads.next ?_
    | with_reducible apply State.onTwin_keeps | with_reducible apply State.takeAbort_keeps
    | with_reducible refine Keeps.mk_upd ?_ | intro _

theorem execHandoverTimeout_keeps (s : State) : Leads (Keeps s) (execHandoverTimeout s) := by
  unfold execHandoverTimeout
  dsimp only
  repeat' first
    | with_reducible exact Keeps.refl _ | split | with_reducible refine Leads.next ?_
    | with_reducible apply State.till_keeps | with_reducible apply State.tellReason_keeps
    | with_reducible apply State.serveFails_keeps | with_reducible apply State.joinFails_keeps
    | with_reducible refine Keeps.mk_upd ?_

theorem execTwinRequest_keeps (f : Arrival) (s : State) : Leads (Keeps s) (execTwinRequest f s) := by
  unfold execTwinRequest
  repeat' first
    | with_reducible assumption | with_reducible exact Keeps.refl _ | split | with_reducible refine Leads.next ?_
    | with_reducible apply State.onTwin_keeps | with_reducible apply State.takeRequest_keeps
    | with_reducible refine Keeps.mk_upd ?_ | intro _

theorem execTwinShutdown_keeps (f : Arrival) (s : State) : Leads (Keeps s) (execTwinShutdown f s) := by
  unfold execTwinShutdown
  repeat' first
    | with_reducible assumption | with_reducible exact Keeps.refl _ | split | with_reducible refine Leads.next ?_
    | with_reducible apply State.onTwin_keeps | with_reducible apply State.takeShutdown_keeps
    | with_reducible refine Keeps.mk_upd ?_ | intro _

/-- No command undoes what Keeps names. -/
theorem exec_keeps (i : Instr) (s : State) : Leads (Keeps s) (exec i s) :=
  match i with
  | .vinRisesPast4v root twjoin twside pb mr => execVinRisesPast4v_keeps root twjoin twside pb mr s
  | .vinGood => execVinGood_keeps s
  | .inputCollapse logDie archive => execInputCollapse_keeps logDie s archive
  | .commitSequenceEnd => execCommitSequenceEnd_keeps s
  | .holdUpFloor done words => execHoldUpFloor_keeps done words s
  | .vinBelow4v => execVinBelow4v_keeps s
  | .startupStageComplete r => execStartupStageComplete_keeps r s
  | .startupStageLate => execStartupStageLate_keeps s
  | .wakeTimerExpiry => execWakeTimerExpiry_keeps s
  | .wakePathComplete copyOk r => execWakePathComplete_keeps copyOk r s
  | .wakeSelfTestsComplete pass => execWakeSelfTestsComplete_keeps pass s
  | .logicDieLost => execLogicDieLost_keeps s
  | .reducedWalkEntry => execReducedWalkEntry_keeps s
  | .mrAssert => execMrAssert_keeps s
  | .mrRelease => execMrRelease_keeps s
  | .hrstStretchEnd => execHrstStretchEnd_keeps s
  | .mrHoldReset => execMrHoldReset_keeps s
  | .onreqRise => execOnreqRise_keeps s
  | .onreqFall => execOnreqFall_keeps s
  | .pbShortPress held => execPbShortPress_keeps held s
  | .pbLongPress => execPbLongPress_keeps s
  | .pbLockoutEnd => execPbLockoutEnd_keeps s
  | .ownershipWindowClose released => execOwnershipWindowClose_keeps released s
  | .tOffminElapsed => execTOffminElapsed_keeps s
  | .comparatorCrossing src fault => execComparatorCrossing_keeps src fault s
  | .gradeTPersistExpiry src => execGradeTPersistExpiry_keeps src s
  | .graceDelayExpiry => execGraceDelayExpiry_keeps s
  | .tripDelayExpiry => execTripDelayExpiry_keeps s
  | .coolingEntryDue => execCoolingEntryDue_keeps s
  | .waitBelowMet => execWaitBelowMet_keeps s
  | .waitBelowTimeout => execWaitBelowTimeout_keeps s
  | .walkerConversionDemand => execWalkerConversionDemand_keeps s
  | .coolingSweep => execCoolingSweep_keeps s
  | .settleHoldEnd src => execSettleHoldEnd_keeps src s
  | .rampDacStep src => execRampDacStep_keeps src s
  | .pwmsyncEdge pin => execPwmsyncEdge_keeps pin s
  | .pwmsyncWindowOpen src => execPwmsyncWindowOpen_keeps src s
  | .pwmsyncWindowClose src => execPwmsyncWindowClose_keeps src s
  | .blankingOverrun src => execBlankingOverrun_keeps src s
  | .enableWindowOpen src => execEnableWindowOpen_keeps src s
  | .enableWindowClose src => execEnableWindowClose_keeps src s
  | .selftestSlot => execSelftestSlot_keeps s
  | .selftestPhaseEnd right => execSelftestPhaseEnd_keeps right s
  | .fltStretchEnd pin => execFltStretchEnd_keeps pin s
  | .fltLatchClear pins => execFltLatchClear_keeps pins s
  | .scanPassStart => execScanPassStart_keeps s
  | .conversionComplete conv code => execConversionComplete_keeps conv code s
  | .ctrigEdge source => execCtrigEdge_keeps source s
  | .saggarConversionDemand input => execSaggarConversionDemand_keeps input s
  | .enPinLevelChange rail high => execEnPinLevelChange_keeps rail high s
  | .nopStep k fetch => execNopStep_keeps k fetch s
  | .enableStep k fetch => execEnableStep_keeps k fetch s
  | .disableStep k fetch => execDisableStep_keeps k fetch s
  | .waitStep k fetch => execWaitStep_keeps k fetch s
  | .waitEnd k => execWaitEnd_keeps k s
  | .waitforStep k fetch => execWaitforStep_keeps k fetch s
  | .waitforSatisfied k ctrig => execWaitforSatisfied_keeps k ctrig s
  | .waitforTimeout k ctrig => execWaitforTimeout_keeps k s ctrig
  | .checkStep k fetch => execCheckStep_keeps k fetch s
  | .checkQualified k rail => execCheckQualified_keeps k rail s
  | .checkDeadline k => execCheckDeadline_keeps k s
  | .rampStep k fetch => execRampStep_keeps k fetch s
  | .jumpStep k fetch => execJumpStep_keeps k fetch s
  | .jumpifStep k fetch => execJumpifStep_keeps k fetch s
  | .signalStep k fetch => execSignalStep_keeps k fetch s
  | .syncStep k fetch => execSyncStep_keeps k fetch s
  | .syncSatisfied k => execSyncSatisfied_keeps k s
  | .syncTimeout k => execSyncTimeout_keeps k s
  | .marginStep k fetch => execMarginStep_keeps k fetch s
  | .trimStep k fetch => execTrimStep_keeps k fetch s
  | .snapStep k fetch => execSnapStep_keeps k fetch s
  | .pwmStep k fetch => execPwmStep_keeps k fetch s
  | .haltStep k fetch => execHaltStep_keeps k fetch s
  | .stepBudgetExpiry k => execStepBudgetExpiry_keeps k s
  | .timeBudgetExpiry k => execTimeBudgetExpiry_keeps k s
  | .dieOverTemperature sensors => execDieOverTemperature_keeps sensors s
  | .tripiAssert levels => execTripiAssert_keeps levels s
  | .spiWrite bytes => execSpiWrite_keeps bytes s
  | .spiRead count => execSpiRead_keeps count s
  | .spiStatus => execSpiStatus_keeps s
  | .spiUnknownTransfer code count => execSpiUnknownTransfer_keeps code count s
  | .verificationComplete ring tag => execVerificationComplete_keeps ring tag s
  | .partTimeout ring tag => execPartTimeout_keeps ring tag s
  | .replySigned ring tag => execReplySigned_keeps ring tag s
  | .replyQueued => execReplyQueued_keeps s
  | .forwardTimeout tag => execForwardTimeout_keeps tag s
  | .resetTakesEffect => execResetTakesEffect_keeps s
  | .nopCmd => execNopCmd_keeps s
  | .identify => execIdentify_keeps s
  | .readRegs => execReadRegs_keeps s
  | .ckTimeLoRead => execCkTimeLoRead_keeps s
  | .logRead found => execLogRead_keeps s found
  | .getCert => execGetCert_keeps s
  | .timeRead => execTimeRead_keeps s
  | .queueStatus => execQueueStatus_keeps s
  | .skv1200Id => execSkv1200Id_keeps s
  | .skv1200Status => execSkv1200Status_keeps s
  | .skv1200Rail => execSkv1200Rail_keeps s
  | .skv1200FirstFault => execSkv1200FirstFault_keeps s
  | .onCmd => execOnCmd_keeps s
  | .offCmd => execOffCmd_keeps s
  | .clearCmd => execClearCmd_keeps s
  | .marginCmd => execMarginCmd_keeps s
  | .pmbusSequenceEnd rail => execPmbusSequenceEnd_keeps rail s
  | .standbyCmd => execStandbyCmd_keeps s
  | .resetCmd => execResetCmd_keeps s
  | .drainCmd => execDrainCmd_keeps s
  | .timeSet => execTimeSet_keeps s
  | .writeRegsClass1 confirm => execWriteRegsClass1_keeps confirm s
  | .registerWrite cls addr value confirm => execRegisterWrite_keeps cls addr value s confirm
  | .programLoad confirm => execProgramLoad_keeps confirm s
  | .tableLoad confirm => execTableLoad_keeps confirm s
  | .bisqueClear => execBisqueClear_keeps s
  | .writeRegsClass2 confirm => execWriteRegsClass2_keeps confirm s
  | .takeOwnership confirm => execTakeOwnership_keeps confirm s
  | .keySlotWrite confirm => execKeySlotWrite_keeps confirm s
  | .keySlotClear confirm => execKeySlotClear_keeps confirm s
  | .quorumSet confirm => execQuorumSet_keeps confirm s
  | .saggarWrite confirm => execSaggarWrite_keeps confirm s
  | .saggarProgramLoad confirm => execSaggarProgramLoad_keeps confirm s
  | .htableLoad confirm => execHtableLoad_keeps confirm s
  | .calibrationWrite confirm => execCalibrationWrite_keeps confirm s
  | .writeRegsClass3 confirm => execWriteRegsClass3_keeps confirm s
  | .imageLoad confirm => execImageLoad_keeps confirm s
  | .decommission confirm => execDecommission_keeps confirm s
  | .snapshot => execSnapshot_keeps s
  | .shardCommit => execShardCommit_keeps s
  | .archiveCopy corrected lost => execArchiveCopy_keeps s corrected lost
  | .scrubRead found => execScrubRead_keeps found s
  | .wholeSecond => execWholeSecond_keeps s
  | .fqPop => execFqPop_keeps s
  | .failBitClear high bits => execFailBitClear_keeps high bits s
  | .startNow => execStartNow_keeps s
  | .sweepStop => execSweepStop_keeps s
  | .sweepCycleStart => execSweepCycleStart_keeps s
  | .sweepRailStart => execSweepRailStart_keeps s
  | .sweepPoint => execSweepPoint_keeps s
  | .sweepSample => execSweepSample_keeps s
  | .linkUp port => execLinkUp_keeps port s
  | .linkDown port => execLinkDown_keeps port s
  | .unwrap port => execUnwrap_keeps port s
  | .horn port orig seq => execHorn_keeps port orig seq s
  | .commandFrame f => execCommandFrame_keeps f s
  | .replyFrame f => execReplyFrame_keeps f s
  | .broadcastFrame f => execBroadcastFrame_keeps f s
  | .timeFrame f => execTimeFrame_keeps f s
  | .timeSend => execTimeSend_keeps s
  | .tokenFrame f => execTokenFrame_keeps f s
  | .enumerate => execEnumerate_keeps s
  | .enrolFrame f => execEnrolFrame_keeps f s
  | .enrolWaitEnd => execEnrolWaitEnd_keeps s
  | .closureFrame f => execClosureFrame_keeps f s
  | .forget => execForget_keeps s
  | .joinFrame f => execJoinFrame_keeps f s
  | .joinResend => execJoinResend_keeps s
  | .admitFrame f => execAdmitFrame_keeps f s
  | .conflictFrame f => execConflictFrame_keeps f s
  | .isolated => execIsolated_keeps s
  | .heartbeatSend => execHeartbeatSend_keeps s
  | .heartbeatFrame f => execHeartbeatFrame_keeps f s
  | .twinLost => execTwinLost_keeps s
  | .seekFrame f alone => execSeekFrame_keeps f s alone
  | .seekResend => execSeekResend_keeps s
  | .twinSeekTimeout => execTwinSeekTimeout_keeps s
  | .challengeFrame f => execChallengeFrame_keeps f s
  | .proofFrame f => execProofFrame_keeps f s
  | .twinRefuse f => execTwinRefuse_keeps f s
  | .twinSync f => execTwinSync_keeps f s
  | .twinReady f => execTwinReady_keeps f s
  | .twinCommit f => execTwinCommit_keeps f s
  | .twinAbort f => execTwinAbort_keeps f s
  | .handoverTimeout => execHandoverTimeout_keeps s
  | .twinRequest f => execTwinRequest_keeps f s
  | .twinShutdown f => execTwinShutdown_keeps f s
  | .twTransactionEnd port result data got => execTwTransactionEnd_keeps port result data s got
  | .twBusIdle port => execTwBusIdle_keeps port s
  | .sclTimeout port => execSclTimeout_keeps port s
  | .sdaStuck port => execSdaStuck_keeps port s
  | .busClearEnd port stop => execBusClearEnd_keeps port stop s
  | .twRequest port => execTwRequest_keeps port s
  | .twRequestAnswerEnd port addr abandoned => execTwRequestAnswerEnd_keeps port addr abandoned s
  | .twPortReset port => execTwPortReset_keeps port s
  | .twBusClear port => execTwBusClear_keeps port s
  | .refclkLost => execRefclkLost_keeps s
  | .refclkBack => execRefclkBack_keeps s
  | .pllLock => execPllLock_keeps s
  | .relockFail => execRelockFail_keeps s
  | .relockRetry => execRelockRetry_keeps s
  | .rcRatioMeasure ratio => execRcRatioMeasure_keeps ratio s
  | .x32CrystalFail => execX32CrystalFail_keeps s
  | .tsyncEdge => execTsyncEdge_keeps s
  | .holdoverEntry => execHoldoverEntry_keeps s
  | .crossingError crossing => execCrossingError_keeps crossing s
  | .clockStopped crossing => execClockStopped_keeps crossing s
  | .ckOutPhaseWrite out steps => execCkOutPhaseWrite_keeps out steps s
  | .periodStart c => execPeriodStart_keeps c s
  | .compareMatch c => execCompareMatch_keeps c s
  | .deadTimeEnd c => execDeadTimeEnd_keeps c s
  | .pwmTriggerCompare c j => execPwmTriggerCompare_keeps c j s
  | .pwmsoEnd => execPwmsoEnd_keeps s
  | .pwmsiEdge => execPwmsiEdge_keeps s
  | .channelStart c => execChannelStart_keeps c s
  | .channelStop c => execChannelStop_keeps c s
  | .loadAll => execLoadAll_keeps s
  | .pwmTrip source => execPwmTrip_keeps source s
  | .tripLatchClear bits => execTripLatchClear_keeps bits s
  | .tripiSeenClear bits => execTripiSeenClear_keeps bits s
  | .pbPressLongerThan50Ms => execPbPressLongerThan50Ms_keeps s
  | .pbPress => execPbPress_keeps s
  | .vholdAndVinMeasurement vhold vin seen => execVholdAndVinMeasurement_keeps vhold vin s seen
  | .imageCollectionTimeout => execImageCollectionTimeout_keeps s
  | .resetAfterImageLoad => execResetAfterImageLoad_keeps s
  | .pllLossOfLock => execPllLossOfLock_keeps s
  | .crossingResumes crossing => execCrossingResumes_keeps crossing s
  | .receiverLock port => execReceiverLock_keeps port s
  | .unknownFrame f => execUnknownFrame_keeps f s

/-- Settles O52: every row leads to a next state. -/
theorem everyCommandAnswers : Obligations.EveryCommandAnswers := by
  unfold Obligations.EveryCommandAnswers
  intro i s
  obtain ⟨t, ht, -⟩ := (exec_keeps i s).exists_next
  exact ⟨t, ht⟩

/-- Settles O55, row by row. -/
theorem commandsNeverTurnBack : Obligations.CommandsNeverTurnBack := by
  unfold Obligations.CommandsNeverTurnBack
  exact fun i s t ht => (exec_keeps i s).of_eq ht

/-- Settles O54: a step is the front command on the queue's rest, or an idle tick, and both keep the form. -/
theorem stepsKeepTheForm : Obligations.StepsKeepTheForm := by
  unfold Obligations.StepsKeepTheForm
  intro s t ht htab hunits
  unfold step at ht
  split at ht
  · cases ht
    have hk := idle_keeps (Keeps.refl s)
    exact ⟨hk.tables htab, hk.units hunits⟩
  · next c rest _ =>
    have hk := (exec_keeps c { s with pending := rest }).of_eq ht
    exact ⟨hk.tables htab, hk.units hunits⟩

/-- Settles O51: the equation of step in the two forms of the queue. -/
theorem stepRunsTheFrontCommand : Obligations.StepRunsTheFrontCommand := by
  unfold Obligations.StepRunsTheFrontCommand
  refine ⟨fun c rest s h => by simp [step, h], fun s h => ⟨idle s, by simp [step, h], ?_, idle_only s⟩⟩
  rfl

/-- A register of the configuration block reads 0 until the configuration is loaded. -/
theorem State.cfgAt_unloaded {s : State} (h : s.cfgLoaded = false) {a : Nat} {r : Reg} (hr : regAt a = some r) (hk : r.row.keep = .cfg) :
    s.cfgAt a = 0 := by
  simp [State.cfgAt, hr, hk, h]

/-- Settles O53 by evaluation of the reset state. -/
theorem resetState : Obligations.ResetState := by
  unfold Obligations.ResetState
  refine ⟨rfl, rfl, rfl, fun x _ => ⟨rfl, rfl⟩, rfl, rfl, rfl, rfl, rfl, rfl, fun a r hr hk => State.cfgAt_unloaded rfl hr hk, rfl,
    rfl, rfl, fun i => ?_, rfl, rfl, rfl, rfl, rfl, rfl, rfl, rfl, by decide, rfl⟩
  obtain hi | hi := Nat.lt_or_ge i 8
  · have key : ∀ j, j < 8 → (nth State.reset.sec.slots j {}).filled = false := by decide
    exact key i hi
  · rw [nth, List.getElem?_eq_none hi]
    rfl

end Sys2Proof.Machine
end

section
/-! SUPPORT. What resets the fault latch, empties the fault records or enables a rail: the relation, and the operations within it. -/

set_option Elab.async false

namespace Sys2Proof.Machine

/-- What a command may undo: the fault latch, the fault records, or that a rail is off. -/
inductive Loose
  | none | latch | records | rails

/-- But for what `l` allows, the fault latch stays set, the first-fault and bisque records stay as they were filled, and no rail becomes
enabled. -/
structure Retains (l : Loose) (s t : State) : Prop where
  latch : l ≠ .latch → s.pm.faultLatch = true → t.pm.faultLatch = true
  first : l ≠ .records → ∀ x, s.fault.first = some x → t.fault.first = some x
  bisque : l ≠ .records → s.fault.bisque.filled = true → t.fault.bisque = s.fault.bisque
  rails : l ≠ .rails → ∀ n, bit t.out.en n = true → bit s.out.en n = true

theorem Retains.refl (l : Loose) (s : State) : Retains l s s := ⟨fun _ => id, fun _ _ => id, fun _ _ => rfl, fun _ _ => id⟩

theorem Retains.trans {l : Loose} {a b c : State} (h : Retains l a b) (k : Retains l b c) : Retains l a c where
  latch hl x := k.latch hl (h.latch hl x)
  first hl x hx := k.first hl x (h.first hl x hx)
  bisque hl x := by
    have hb := h.bisque hl x
    rw [k.bisque hl (hb ▸ x), hb]
  rails hl n x := h.rails hl n (k.rails hl n x)

/-- None of the three is among the parts. -/
def Part.apart (ps : List Part) : Bool := decide (Part.pm ∉ ps) && decide (Part.fault ∉ ps) && decide (Part.out ∉ ps)

/-- An operation that changes neither the power mode nor the fault block nor the outputs. -/
theorem Retains.only {l : Loose} {ps : List Part} {a b c : State} (k : Only ps b c) (hp : Part.apart ps = true) (h : Retains l a b) :
    Retains l a c := by
  simp only [Part.apart, Bool.and_eq_true, decide_eq_true_eq] at hp
  obtain ⟨⟨hp, hf⟩, ho⟩ := hp
  have kp : c.pm = b.pm := k .pm hp
  have kf : c.fault = b.fault := k .fault hf
  have ko : c.out = b.out := k .out ho
  exact h.trans ⟨fun _ x => kp ▸ x, fun _ x hx => kf ▸ hx, fun _ _ => by rw [kf], fun _ n x => ko ▸ x⟩

/-- A record update that does not lower the latch, nor change the records, nor enable a rail. -/
theorem Retains.mk_upd {l : Loose} {a t : State} {ident : Ident} {clk : Clk} {pm : Pm} {out : Out} {inp : In} {ctl : Ctl}
    {sense : Sense} {kiln : Kiln} {walk : Walk} {fault : FaultBlk} {irq : Irq} {mg : Mg} {log : Log} {cfg : Tab Word}
    {cfgLoaded sgLoaded : Bool} {port : Port} {sec : Sec} {ring : Ring} {twin : Twin} {tw : List TwPort}
    {twEnded : List (TwSeq × BitVec 2)} {pwm : Pwm} {frozen : Option Frozen} {jtag : Tap} {free : Nat} {pending : List Instr}
    (h : Retains l a t)
    (hl : t.pm.faultLatch = true → pm.faultLatch = true := by first | with_reducible exact id | simp)
    (hf : fault.first = t.fault.first := by first | with_reducible rfl | simp)
    (hb : fault.bisque = t.fault.bisque := by first | with_reducible rfl | simp)
    (hr : ∀ n, bit out.en n = true → bit t.out.en n = true := by first | with_reducible exact fun _ => id | simp [bit]) :
    Retains l a {
      ident := ident, clk := clk, pm := pm, out := out, inp := inp, ctl := ctl, sense := sense, kiln := kiln, walk := walk,
      fault := fault, irq := irq, mg := mg, log := log, cfg := cfg, cfgLoaded := cfgLoaded, sgLoaded := sgLoaded, port := port,
      sec := sec, ring := ring, twin := twin, tw := tw, twEnded := twEnded, pwm := pwm, frozen := frozen, jtag := jtag, free := free,
      pending := pending } :=
  h.trans ⟨fun _ => hl, fun _ _ hx => hf.trans hx, fun _ _ => hb, fun _ => hr⟩

theorem Retains.foldl {γ : Type} {l : Loose} {a s : State} {f : State → γ → State} (xs : List γ) (h : Retains l a s)
    (hf : ∀ u x, Retains l a u → Retains l a (f u x)) : Retains l a (xs.foldl f s) := by
  induction xs generalizing s with
  | nil => exact h
  | cons x xs ih => exact ih (hf s x h)

theorem Retains.ite {l : Loose} {a s t : State} {c : Prop} [Decidable c] (hs : Retains l a s) (ht : Retains l a t) :
    Retains l a (if c then s else t) := by
  split <;> assumption

theorem State.goTo_retains {lo : Loose} {a s : State} (h : Retains lo a s) (st : DevState) (cause : Nat) :
    Retains lo a (State.goTo s st cause) := by
  unfold State.goTo
  dsimp only
  repeat' first
    | with_reducible assumption | with_reducible apply Retains.only (State.push_only _ _) | split
    | with_reducible refine Retains.mk_upd ?_ | (with_reducible show Part.apart _ = true; decide)

theorem State.assertPfw_retains {lo : Loose} {a s : State} (h : Retains lo a s) : Retains lo a s.assertPfw := by
  unfold State.assertPfw
  split
  · exact Retains.mk_upd h
  · exact (Retains.only (State.tripPwm_only s _) (by decide) h).mk_upd (hr := fun _ x => (State.tripPwm_only s _ .out (by decide)) ▸ x)

theorem State.assertTripo_retains {lo : Loose} {a s : State} (h : Retains lo a s) : Retains lo a s.assertTripo := by
  unfold State.assertTripo
  split
  · exact Retains.mk_upd h
  · exact (Retains.only (State.tripPwm_only s _) (by decide) h).mk_upd (hr := fun _ x => (State.tripPwm_only s _ .out (by decide)) ▸ x)

theorem State.releaseTrips_retains {lo : Loose} {a s : State} (h : Retains lo a s) :
    Retains lo a (State.releaseTrips s) := by
  unfold State.releaseTrips
  repeat' first
    | with_reducible assumption | with_reducible refine Retains.mk_upd ?_

theorem State.updateHrst_retains {lo : Loose} {a s : State} (h : Retains lo a s) :
    Retains lo a (State.updateHrst s) := by
  unfold State.updateHrst
  repeat' first
    | with_reducible assumption | with_reducible refine Retains.mk_upd ?_

theorem State.replyOut_retains {lo : Loose} {a s : State} (h : Retains lo a s) (r : Reply) :
    Retains lo a (State.replyOut s r) := by
  unfold State.replyOut
  repeat' first
    | with_reducible assumption | split | with_reducible refine Retains.mk_upd ?_

theorem State.post_retains {lo : Loose} {a s : State} (h : Retains lo a s) (r : Reply) :
    Retains lo a (State.post s r) := by
  unfold State.post
  dsimp only
  repeat' first
    | with_reducible assumption | with_reducible apply Retains.only (State.dropCmd_only _ _ _)
    | with_reducible apply Retains.only (State.sendFrame_only _ _ _) | with_reducible apply State.replyOut_retains
    | split | with_reducible refine Retains.mk_upd ?_ | (with_reducible show Part.apart _ = true; decide)

theorem State.answer_retains {lo : Loose} {a s : State} (h : Retains lo a s) (c : Cmd) (status : Nat) (payload : List Byte) :
    Retains lo a (State.answer s c status payload) := by
  unfold State.answer
  dsimp only
  repeat' first
    | with_reducible assumption | with_reducible apply Retains.only (State.setCmd_only _ _)
    | with_reducible apply State.post_retains | split | with_reducible refine Retains.mk_upd ?_
    | (with_reducible show Part.apart _ = true; decide)

theorem State.finish_retains {lo : Loose} {a s : State} (h : Retains lo a s) (c : Cmd) (status : Nat) (payload : List Byte) :
    Retains lo a (State.finish s c status payload) := by
  unfold State.finish
  dsimp only
  repeat' first
    | with_reducible assumption | with_reducible apply Retains.only (State.refusalEffects_only _ _ _)
    | with_reducible apply Retains.only (State.noteBroadcast_only _ _ _)
    | with_reducible apply Retains.only (State.dropCmd_only _ _ _) | with_reducible apply State.answer_retains
    | with_reducible apply Retains.only (State.setCmd_only _ _) | split | with_reducible refine Retains.mk_upd ?_
    | (with_reducible show Part.apart _ = true; decide)

theorem State.accept_retains {lo : Loose} {a s : State} (h : Retains lo a s) (c : Cmd) :
    Retains lo a (State.accept s c) := by
  unfold State.accept
  dsimp only
  repeat' first
    | with_reducible assumption | with_reducible apply Retains.only (State.setCmd_only _ _)
    | with_reducible apply State.post_retains | split | with_reducible refine Retains.mk_upd ?_
    | (with_reducible show Part.apart _ = true; decide)

theorem State.postSigned_retains {lo : Loose} {a s : State} (h : Retains lo a s) (u : Unsigned) :
    Retains lo a (State.postSigned s u) := by
  unfold State.postSigned
  repeat' first
    | with_reducible assumption | with_reducible apply State.post_retains | with_reducible refine Retains.mk_upd ?_

theorem State.flushSigning_retains {lo : Loose} {a s : State} (h : Retains lo a s) (n : Nat) :
    Retains lo a (State.flushSigning s n) := by
  induction n generalizing s with
  | zero => exact h
  | succ n ih =>
    unfold State.flushSigning
    repeat' first
      | with_reducible assumption | split | with_reducible apply ih | with_reducible apply State.postSigned_retains
      | with_reducible refine Retains.mk_upd ?_

theorem State.discardCooling_retains {lo : Loose} {a s : State} (h : Retains lo a s) (pm : Nat) (keep : Option (Bool × Nat)) :
    Retains lo a (State.discardCooling s pm keep) := by
  unfold State.discardCooling
  dsimp only
  repeat' first
    | with_reducible assumption | with_reducible refine Retains.foldl _ ?_ (fun u x hu => ?_)
    | with_reducible apply State.finish_retains | with_reducible apply Retains.only (State.recordDiscard_only _ _ _)
    | split | with_reducible refine Retains.mk_upd ?_ | (with_reducible show Part.apart _ = true; decide)

theorem State.setLatch_retains {lo : Loose} {a s : State} (h : Retains lo a s) : Retains lo a (State.setLatch s) := by
  unfold State.setLatch
  repeat' first
    | with_reducible assumption | split | with_reducible refine Retains.mk_upd ?_

/-- A record that is filled is not written again (R135). -/
theorem State.recordBisque_retains {lo : Loose} {a s : State} (h : Retains lo a s) (f : FaultRec) (stamp : Nat) :
    Retains lo a (s.recordBisque f stamp) := by
  unfold State.recordBisque
  split
  · exact h
  · next hf => exact h.trans ⟨fun _ => id, fun _ _ => id, fun _ x => absurd x hf, fun _ _ => id⟩

/-- The first fault stays the first (R135). -/
theorem State.recordFirst_retains {lo : Loose} {a s : State} (h : Retains lo a s) (f : FaultRec) (stamp : Nat) :
    Retains lo a (s.recordFirst f stamp) :=
  h.trans ⟨fun _ => id, fun _ x hx => by simp [State.recordFirst, hx], fun _ _ => rfl, fun _ _ => id⟩

theorem State.recordFault_retains {lo : Loose} {a s : State} (h : Retains lo a s) (f : FaultRec) :
    Retains lo a (State.recordFault s f) := by
  unfold State.recordFault
  repeat' first
    | with_reducible assumption | with_reducible apply State.setLatch_retains
    | with_reducible apply State.recordFirst_retains | with_reducible apply State.recordBisque_retains
    | with_reducible refine Retains.mk_upd ?_

theorem State.enqueue_retains {lo : Loose} {a s : State} (h : Retains lo a s) (f : FaultRec) (table : Nat) :
    Retains lo a (State.enqueue s f table) := by
  unfold State.enqueue
  dsimp only
  repeat' first
    | with_reducible assumption | with_reducible apply State.recordFault_retains
    | with_reducible apply Retains.only (State.faultShard_only _ _ _ _ _)
    | with_reducible apply Retains.only (State.irqCt_only _ _) | split | with_reducible refine Retains.mk_upd ?_
    | (with_reducible show Part.apart _ = true; decide)

theorem State.enterRunning_retains {lo : Loose} {a s : State} (h : Retains lo a s) :
    Retains lo a (State.enterRunning s) := by
  unfold State.enterRunning
  dsimp only
  repeat' first
    | with_reducible assumption | with_reducible apply State.goTo_retains | split
    | with_reducible refine Retains.mk_upd ?_

theorem State.fireStart_retains {lo : Loose} {a s : State} (h : Retains lo a s) (cause : Nat) :
    Retains lo a (State.fireStart s cause) := by
  unfold State.fireStart
  dsimp only
  repeat' first
    | with_reducible assumption | with_reducible apply State.goTo_retains
    | with_reducible apply Retains.only (State.wait_only _ _) | with_reducible apply State.enterRunning_retains
    | split | with_reducible refine Retains.mk_upd ?_ | (with_reducible show Part.apart _ = true; decide)

theorem State.joinRequest_retains {lo : Loose} {a s : State} (h : Retains lo a s) (old : Byte) (cause : Nat) :
    Retains lo a (State.joinRequest s old cause) := by
  unfold State.joinRequest
  dsimp only
  repeat' first
    | with_reducible assumption | split | with_reducible refine Retains.mk_upd ?_

theorem State.newRequest_retains {lo : Loose} {a s : State} (h : Retains lo a s) (cause : Nat) :
    Retains lo a (State.newRequest s cause) := by
  unfold State.newRequest
  dsimp only
  repeat' first
    | with_reducible assumption | with_reducible apply State.fireStart_retains | split
    | with_reducible refine Retains.mk_upd ?_

theorem State.onRequest_retains {lo : Loose} {a s : State} (h : Retains lo a s) (cause : Nat) :
    Retains lo a (State.onRequest s cause) := by
  unfold State.onRequest
  repeat' first
    | with_reducible assumption | with_reducible apply State.joinRequest_retains
    | with_reducible apply State.newRequest_retains | split | with_reducible refine Retains.mk_upd ?_

theorem State.tryPending_retains {lo : Loose} {a s : State} (h : Retains lo a s) :
    Retains lo a (State.tryPending s) := by
  unfold State.tryPending
  repeat' first
    | with_reducible assumption | with_reducible apply State.fireStart_retains | split
    | with_reducible refine Retains.mk_upd ?_

theorem State.releaseHeld_retains {lo : Loose} {a s : State} (h : Retains lo a s) :
    Retains lo a (State.releaseHeld s) := by
  unfold State.releaseHeld
  repeat' first
    | with_reducible assumption | with_reducible refine Retains.foldl _ ?_ (fun u x hu => ?_)
    | with_reducible apply Retains.only (State.mirror_only _ _ _) | with_reducible apply State.onRequest_retains
    | with_reducible apply State.tryPending_retains | with_reducible refine Retains.mk_upd ?_
    | (with_reducible show Part.apart _ = true; decide)

theorem State.afterAbort_retains {lo : Loose} {a s : State} (h : Retains lo a s) :
    Retains lo a (State.afterAbort s) := by
  unfold State.afterAbort
  repeat' first
    | with_reducible assumption | with_reducible apply State.releaseHeld_retains | split
    | with_reducible refine Retains.mk_upd ?_

theorem State.startShutdown_retains {lo : Loose} {a s : State} (h : Retains lo a s) (k : Start) (f : FaultRec) (table : Nat) (pm : Nat) (keep : Option (Bool × Nat)) :
    Retains lo a (State.startShutdown s k f table pm keep) := by
  unfold State.startShutdown
  dsimp only
  repeat' first
    | with_reducible assumption | with_reducible apply Retains.only (State.leaveRunning_only _)
    | with_reducible apply Retains.only (State.faultShard_only _ _ _ _ _)
    | with_reducible apply State.recordFault_retains | with_reducible apply State.assertPfw_retains
    | with_reducible apply State.forceOff_retains | with_reducible apply State.assertTripo_retains
    | with_reducible apply Retains.only (State.soundHorn_only _ _ _)
    | with_reducible apply Retains.only (State.tellTwin_only _ _ _ _)
    | with_reducible apply Retains.only (State.abortEngines_only _)
    | with_reducible apply Retains.only (State.endSequences_only _) | with_reducible apply State.goTo_retains
    | with_reducible apply State.discardCooling_retains
    | with_reducible apply Retains.only (State.trimsNominal_only _)
    | with_reducible apply Retains.only (State.irqCt_only _ _)
    | with_reducible apply Retains.only (State.walkBegin_only _) | with_reducible apply State.afterAbort_retains
    | split | with_reducible refine Retains.mk_upd ?_ | (with_reducible show Part.apart _ = true; decide)

theorem State.offRequest_retains {lo : Loose} {a s : State} (h : Retains lo a s) (cause : Nat) (keep : Option (Bool × Nat)) :
    Retains lo a (State.offRequest s cause keep) := by
  unfold State.offRequest
  dsimp only
  repeat' first
    | with_reducible assumption | with_reducible apply State.startShutdown_retains
    | with_reducible apply Retains.only (State.abortHand_only _) | split | with_reducible refine Retains.mk_upd ?_
    | (with_reducible show Part.apart _ = true; decide)

theorem State.coolH_retains {lo : Loose} {a s : State} (h : Retains lo a s) (f : FaultRec) (table : Nat) :
    Retains lo a (State.coolH s f table) := by
  unfold State.coolH
  dsimp only
  repeat' first
    | with_reducible assumption | with_reducible apply Retains.only (State.faultShard_only _ _ _ _ _)
    | with_reducible apply State.recordFault_retains | with_reducible apply State.assertTripo_retains
    | with_reducible apply Retains.only (State.walkSwitch_only _ _ _)
    | with_reducible apply Retains.only (State.walkBegin_only _) | with_reducible apply State.enqueue_retains | split
    | with_reducible refine Retains.mk_upd ?_ | (with_reducible show Part.apart _ = true; decide)

theorem State.coolT_retains {lo : Loose} {a s : State} (h : Retains lo a s) (f : FaultRec) (table : Nat) :
    Retains lo a (State.coolT s f table) := by
  unfold State.coolT
  dsimp only
  repeat' first
    | with_reducible assumption | with_reducible apply State.enqueue_retains | split
    | with_reducible refine Retains.mk_upd ?_

theorem State.coolForce_retains {lo : Loose} {a s : State} (h : Retains lo a s) : Retains lo a (State.coolForce s) := by
  unfold State.coolForce
  dsimp only
  repeat' first
    | with_reducible assumption | with_reducible apply State.assertPfw_retains
    | with_reducible apply State.assertTripo_retains | with_reducible apply Retains.only (State.tellTwin_only _ _ _ _)
    | with_reducible apply State.forceOff_retains | with_reducible apply State.enqueue_retains
    | with_reducible apply Retains.only (State.sendForce_only _)
    | with_reducible apply Retains.only (State.faultShard_only _ _ _ _ _)
    | with_reducible apply State.recordFault_retains | with_reducible apply Retains.only (State.walkSwitch_only _ _ _)
    | with_reducible apply Retains.only (State.walkBegin_only _) | split | with_reducible refine Retains.mk_upd ?_
    | (with_reducible show Part.apart _ = true; decide)

theorem State.holdFault_retains {lo : Loose} {a s : State} (h : Retains lo a s) (f : FaultRec) (table : Nat) :
    Retains lo a (State.holdFault s f table) := by
  unfold State.holdFault
  dsimp only
  repeat' first
    | with_reducible assumption | split | with_reducible refine Retains.mk_upd ?_

theorem State.recordOnly_retains {lo : Loose} {a s : State} (h : Retains lo a s) (f : FaultRec) :
    Retains lo a (State.recordOnly s f) := by
  unfold State.recordOnly
  dsimp only
  repeat' first
    | with_reducible assumption | with_reducible apply State.setLatch_retains
    | with_reducible apply State.recordBisque_retains | with_reducible apply State.recordFirst_retains
    | with_reducible apply State.assertPfw_retains | with_reducible apply State.assertTripo_retains | split
    | with_reducible refine Retains.mk_upd ?_

theorem State.wakeUp_retains {lo : Loose} {a s : State} (h : Retains lo a s) : Retains lo a (State.wakeUp s) := by
  unfold State.wakeUp
  dsimp only
  repeat' first
    | with_reducible assumption | with_reducible apply State.goTo_retains | with_reducible refine Retains.mk_upd ?_

theorem State.wake_retains {lo : Loose} {a s : State} (h : Retains lo a s) : Retains lo a (State.wake s) := by
  unfold State.wake
  repeat' first
    | with_reducible assumption | with_reducible apply State.wakeUp_retains | split
    | with_reducible refine Retains.mk_upd ?_

theorem State.receiveW_retains {lo : Loose} {a s : State} (h : Retains lo a s) (f : FaultRec) :
    Retains lo a (State.receiveW s f) := by
  unfold State.receiveW
  repeat' first
    | with_reducible assumption | with_reducible apply Retains.only (State.irqCt_only _ _)
    | with_reducible apply Retains.only (State.faultShard_only _ _ _ _ _)
    | with_reducible apply State.holdFault_retains | with_reducible apply State.wake_retains | split
    | with_reducible refine Retains.mk_upd ?_ | (with_reducible show Part.apart _ = true; decide)

theorem State.receiveTH_retains {lo : Loose} {a s : State} (h : Retains lo a s) (f : FaultRec) (table : Nat) :
    Retains lo a (State.receiveTH s f table) := by
  unfold State.receiveTH
  dsimp only
  repeat' first
    | with_reducible assumption | with_reducible apply State.startShutdown_retains
    | with_reducible apply State.coolH_retains | with_reducible apply State.coolT_retains
    | with_reducible apply State.recordOnly_retains | with_reducible apply State.holdFault_retains
    | with_reducible apply State.wake_retains | split | with_reducible refine Retains.mk_upd ?_

theorem State.receiveAs_retains {lo : Loose} {a s : State} (h : Retains lo a s) (f : FaultRec) (table : Nat) :
    Retains lo a (State.receiveAs s f table) := by
  unfold State.receiveAs
  repeat' first
    | with_reducible assumption | with_reducible apply Retains.only (State.faultShard_only _ _ _ _ _)
    | with_reducible apply State.receiveW_retains | with_reducible apply State.receiveTH_retains | split
    | with_reducible refine Retains.mk_upd ?_ | (with_reducible show Part.apart _ = true; decide)

theorem State.receive_retains {lo : Loose} {a s : State} (h : Retains lo a s) (f : FaultRec) :
    Retains lo a (State.receive s f) := by
  unfold State.receive
  repeat' first
    | with_reducible assumption | with_reducible apply State.receiveAs_retains
    | with_reducible refine Retains.mk_upd ?_

theorem State.receiveCause_retains {lo : Loose} {a s : State} (h : Retains lo a s) (x : Nat) (source : Nat) :
    Retains lo a (State.receiveCause s x source) := by
  unfold State.receiveCause
  repeat' first
    | with_reducible assumption | with_reducible apply State.receive_retains | with_reducible refine Retains.mk_upd ?_

theorem State.forceOff_retains {lo : Loose} {a s : State} (h : Retains lo a s) : Retains lo a (State.forceOff s) := by
  unfold State.forceOff
  dsimp only
  repeat' first
    | with_reducible assumption | with_reducible apply State.startShutdown_retains
    | with_reducible apply State.coolForce_retains | with_reducible apply State.recordOnly_retains
    | with_reducible apply State.holdFault_retains | with_reducible apply State.recordBisque_retains | split
    | with_reducible refine Retains.mk_upd ?_

theorem State.engineFault_retains {lo : Loose} {a s : State} (h : Retains lo a s) (k : Nat) (err : Nat) :
    Retains lo a (State.engineFault s k err) := by
  unfold State.engineFault
  dsimp only
  repeat' first
    | with_reducible assumption | with_reducible apply State.receive_retains | split
    | with_reducible refine Retains.mk_upd ?_

theorem State.onArises_retains {lo : Loose} {a s : State} (h : Retains lo a s) (cause : Nat) :
    Retains lo a (State.onArises s cause) := by
  unfold State.onArises
  repeat' first
    | with_reducible assumption | with_reducible apply Retains.only (State.mirror_only _ _ _)
    | with_reducible apply State.onRequest_retains | split | with_reducible refine Retains.mk_upd ?_
    | (with_reducible show Part.apart _ = true; decide)

theorem State.deliver_retains {lo : Loose} {a s : State} (h : Retains lo a s) (e : FaultRec × Nat) :
    Retains lo a (State.deliver s e) := by
  unfold State.deliver
  dsimp only
  repeat' first
    | with_reducible assumption | with_reducible apply State.receive_retains | split
    | with_reducible refine Retains.mk_upd ?_

theorem State.endPersist_retains {lo : Loose} {a s : State} (h : Retains lo a s) (src : Nat) :
    Retains lo a (State.endPersist s src) := by
  unfold State.endPersist
  dsimp only
  repeat' first
    | with_reducible assumption | with_reducible refine Retains.foldl _ ?_ (fun u x hu => ?_)
    | with_reducible apply State.receive_retains | split | with_reducible refine Retains.mk_upd ?_

theorem State.coreSees_retains {lo : Loose} {a s : State} (h : Retains lo a s) (old : State) (srcs : List Nat) :
    Retains lo a (State.coreSees s old srcs) := by
  unfold State.coreSees
  dsimp only
  repeat' first
    | with_reducible assumption | with_reducible refine Retains.foldl _ ?_ (fun u x hu => ?_)
    | with_reducible apply Retains.only (State.observeChecks_only _)
    | with_reducible apply Retains.only (State.sweepSees_only _) | with_reducible apply State.deliver_retains
    | with_reducible apply State.endPersist_retains | with_reducible refine Retains.mk_upd ?_
    | (with_reducible show Part.apart _ = true; decide)

theorem State.senseChange_retains {lo : Loose} {a s : State} (h : Retains lo a s) (old : State) (srcs : List Nat) :
    Retains lo a (State.senseChange s old srcs) := by
  unfold State.senseChange
  dsimp only
  repeat' first
    | with_reducible assumption | with_reducible apply Retains.only (State.armAll_only _ _)
    | with_reducible apply Retains.only (State.refreshFlt_only _ _) | with_reducible apply State.coreSees_retains
    | split | with_reducible refine Retains.mk_upd ?_ | (with_reducible show Part.apart _ = true; decide)

theorem State.rampRails_retains {lo : Loose} {a s : State} (h : Retains lo a s) (engine : Nat) (srcs : List Nat) :
    Retains lo a (State.rampRails s engine srcs) := by
  unfold State.rampRails
  repeat' first
    | with_reducible assumption | with_reducible apply Retains.only (State.abandonTest_only _)
    | with_reducible apply Retains.only (State.armRamps_only _ _ _) | with_reducible apply State.senseChange_retains
    | split | with_reducible refine Retains.mk_upd ?_ | (with_reducible show Part.apart _ = true; decide)

theorem State.disable_retains {lo : Loose} {a s : State} (h : Retains lo a s) (m : Rails) : Retains lo a (s.disable m) := by
  unfold State.disable
  split
  · exact h
  · refine State.senseChange_retains (Retains.foldl _ (h.mk_upd (hr := fun n x => ?_)) fun u x hu => ?_) _ _
    · simp only [bit, BitVec.getLsbD_and, Bool.and_eq_true] at x
      exact x.1
    · exact Retains.only (State.cmpLow_only _ _) (by decide) hu

theorem State.enLow_retains {lo : Loose} {a s : State} (h : Retains lo a s) (mask : Rails) : Retains lo a (s.enLow mask) :=
  State.disable_retains h _

/-- ENABLE and COMMIT raise rails; they undo nothing else. -/
theorem State.enHigh_retains {a s : State} (h : Retains .rails a s) (mask : Rails) : Retains .rails a (s.enHigh mask) := by
  unfold State.enHigh
  dsimp only
  split
  · exact h
  · refine State.senseChange_retains (Retains.foldl _ (Retains.foldl _ (h.trans ?_) fun u x hu => ?_) fun u x hu => ?_) _ _
    · exact ⟨fun _ => id, fun _ _ => id, fun _ _ => rfl, fun hl => absurd rfl hl⟩
    · split
      · exact Retains.only (State.trimNominal_only _ _) (by decide) hu
      · exact hu
    · exact Retains.only (State.cmpEnable_only _ _) (by decide) hu

theorem State.resolveBy_retains {lo : Loose} {a s : State} (h : Retains lo a s) (n : Nat) (code : BitVec 16) :
    Retains lo a (State.resolveBy s n code) := by
  unfold State.resolveBy
  dsimp only
  repeat' first
    | with_reducible assumption | with_reducible refine Retains.foldl _ ?_ (fun u x hu => ?_)
    | with_reducible apply Retains.only (State.observe_only _ _ _) | with_reducible apply State.senseChange_retains
    | split | with_reducible refine Retains.mk_upd ?_ | (with_reducible show Part.apart _ = true; decide)

theorem State.takeReading_retains {lo : Loose} {a s : State} (h : Retains lo a s) (i : Nat) (raw : BitVec 16) :
    Retains lo a (State.takeReading s i raw) := by
  unfold State.takeReading
  dsimp only
  repeat' first
    | with_reducible assumption | with_reducible apply Retains.only (State.bumpSeq_only _ _)
    | with_reducible apply Retains.only (State.putReading_only _ _ _) | with_reducible apply State.resolveBy_retains
    | split | with_reducible refine Retains.mk_upd ?_ | (with_reducible show Part.apart _ = true; decide)

theorem State.startRelock_retains {lo : Loose} {a s : State} (h : Retains lo a s) :
    Retains lo a (State.startRelock s) := by
  unfold State.startRelock
  dsimp only
  repeat' first
    | with_reducible assumption | with_reducible refine Retains.foldl _ ?_ (fun u x hu => ?_)
    | with_reducible apply Retains.only (State.outsStop_only _)
    | with_reducible apply Retains.only (State.closeEn_only _ _) | with_reducible apply State.senseChange_retains
    | with_reducible refine Retains.mk_upd ?_ | (with_reducible show Part.apart _ = true; decide)

theorem State.updateTwok_retains {lo : Loose} {a s : State} (h : Retains lo a s) :
    Retains lo a (State.updateTwok s) := by
  unfold State.updateTwok
  repeat' first
    | with_reducible assumption | with_reducible refine Retains.mk_upd ?_

theorem State.found_retains {lo : Loose} {a s : State} (h : Retains lo a s) : Retains lo a (State.found s) := by
  unfold State.found
  repeat' first
    | with_reducible assumption | with_reducible apply State.updateTwok_retains
    | with_reducible refine Retains.mk_upd ?_

theorem State.foundOrBlock_retains {lo : Loose} {a s : State} (h : Retains lo a s) :
    Retains lo a (State.foundOrBlock s) := by
  unfold State.foundOrBlock
  repeat' first
    | with_reducible assumption | with_reducible apply State.enHigh_retains | with_reducible apply State.found_retains
    | with_reducible apply State.tryPending_retains | with_reducible apply Retains.only (State.irqGl_only _ _) | split
    | with_reducible refine Retains.mk_upd ?_ | (with_reducible show Part.apart _ = true; decide)

theorem State.twinAtReady_retains {lo : Loose} {a s : State} (h : Retains lo a s) :
    Retains lo a (State.twinAtReady s) := by
  unfold State.twinAtReady
  dsimp only
  repeat' first
    | with_reducible assumption | with_reducible apply State.foundOrBlock_retains
    | with_reducible apply State.updateTwok_retains | split | with_reducible refine Retains.mk_upd ?_

theorem State.afterReset_retains {lo : Loose} {a s : State} (h : Retains lo a s) :
    Retains lo a (State.afterReset s) := by
  unfold State.afterReset
  repeat' first
    | with_reducible assumption | with_reducible refine Retains.mk_upd ?_

theorem State.deviceReset_retains {lo : Loose} {a s : State} (h : Retains lo a s) (cause : Nat) (bits : BitVec 5) :
    Retains lo a (State.deviceReset s cause bits) := by
  unfold State.deviceReset
  dsimp only
  repeat' first
    | with_reducible assumption | with_reducible apply Retains.only (State.finishShard_only _)
    | with_reducible apply Retains.only (State.dropWork_only _) | with_reducible apply State.afterReset_retains
    | split | with_reducible refine Retains.mk_upd ?_ | (with_reducible show Part.apart _ = true; decide)

theorem State.startFail_retains {lo : Loose} {a s : State} (h : Retains lo a s) (code : Nat) (kat : Bool) :
    Retains lo a (State.startFail s code kat) := by
  unfold State.startFail
  repeat' first
    | with_reducible assumption | with_reducible refine Retains.mk_upd ?_

theorem State.beginStage2_retains {lo : Loose} {a s : State} (h : Retains lo a s) :
    Retains lo a (State.beginStage2 s) := by
  unfold State.beginStage2
  repeat' first
    | with_reducible assumption | with_reducible refine Retains.mk_upd ?_

theorem State.leaveStage1_retains {lo : Loose} {a s : State} (h : Retains lo a s) :
    Retains lo a (State.leaveStage1 s) := by
  unfold State.leaveStage1
  repeat' first
    | with_reducible assumption | with_reducible apply State.beginStage2_retains | split
    | with_reducible refine Retains.mk_upd ?_

theorem State.examineLog_retains {lo : Loose} {a s : State} (h : Retains lo a s) :
    Retains lo a (State.examineLog s) := by
  unfold State.examineLog
  dsimp only
  repeat' first
    | with_reducible assumption | with_reducible apply Retains.only (State.adopt_only _ _)
    | with_reducible apply Retains.only (State.irqLg_only _ _) | split | with_reducible refine Retains.mk_upd ?_
    | (with_reducible show Part.apart _ = true; decide)

theorem State.firstFromHeld_retains {lo : Loose} {a s : State} (h : Retains lo a s) :
    Retains lo a (State.firstFromHeld s) := by
  unfold State.firstFromHeld
  repeat' first
    | with_reducible assumption | with_reducible apply State.recordFirst_retains | split
    | with_reducible refine Retains.mk_upd ?_

theorem State.configLoaded_retains {lo : Loose} {a s : State} (h : Retains lo a s) :
    Retains lo a (State.configLoaded s) := by
  unfold State.configLoaded
  dsimp only
  repeat' first
    | with_reducible assumption | with_reducible apply State.firstFromHeld_retains
    | with_reducible refine Retains.mk_upd ?_

theorem State.beginStage5_retains {lo : Loose} {a s : State} (h : Retains lo a s) :
    Retains lo a (State.beginStage5 s) := by
  unfold State.beginStage5
  dsimp only
  repeat' first
    | with_reducible assumption | with_reducible apply Retains.only (State.modeChanges_only _ _)
    | with_reducible apply Retains.only (State.refreshFlt_only _ _)
    | with_reducible apply Retains.only (State.outsStart_only _)
    | with_reducible apply Retains.only (State.startPass_only _)
    | with_reducible apply Retains.only (State.assignAll_only _) | with_reducible refine Retains.mk_upd ?_
    | (with_reducible show Part.apart _ = true; decide)

theorem State.failCmps_retains {lo : Loose} {a s : State} (h : Retains lo a s) (srcs : List Nat) :
    Retains lo a (State.failCmps s srcs) := by
  unfold State.failCmps
  dsimp only
  repeat' first
    | with_reducible assumption | with_reducible refine Retains.foldl _ ?_ (fun u x hu => ?_)
    | with_reducible apply Retains.only (State.setCmp_only _ _ _) | with_reducible apply State.senseChange_retains
    | with_reducible refine Retains.mk_upd ?_ | (with_reducible show Part.apart _ = true; decide)

theorem State.logHeld_retains {lo : Loose} {a s : State} (h : Retains lo a s) : Retains lo a (State.logHeld s) := by
  unfold State.logHeld
  dsimp only
  repeat' first
    | with_reducible assumption | with_reducible refine Retains.foldl _ ?_ (fun u x hu => ?_)
    | with_reducible apply Retains.only (State.faultShard_only _ _ _ _ _)
    | with_reducible apply State.firstFromHeld_retains | split | with_reducible refine Retains.mk_upd ?_
    | (with_reducible show Part.apart _ = true; decide)

theorem State.raiseUnresolved_retains {lo : Loose} {a s : State} (h : Retains lo a s) :
    Retains lo a (State.raiseUnresolved s) := by
  unfold State.raiseUnresolved
  repeat' first
    | with_reducible assumption | with_reducible refine Retains.foldl _ ?_ (fun u x hu => ?_)
    | with_reducible apply State.receive_retains | split | with_reducible refine Retains.mk_upd ?_

theorem State.startOffMin_retains {lo : Loose} {a s : State} (h : Retains lo a s) :
    Retains lo a (State.startOffMin s) := by
  unfold State.startOffMin
  dsimp only
  repeat' first
    | with_reducible assumption | split | with_reducible refine Retains.mk_upd ?_

theorem State.startRequests_retains {lo : Loose} {a s : State} (h : Retains lo a s) :
    Retains lo a (State.startRequests s) := by
  unfold State.startRequests
  repeat' first
    | with_reducible assumption | with_reducible apply State.onRequest_retains | split
    | with_reducible refine Retains.mk_upd ?_

theorem State.enterReady_retains {lo : Loose} {a s : State} (h : Retains lo a s) :
    Retains lo a (State.enterReady s) := by
  unfold State.enterReady
  dsimp only
  repeat' first
    | with_reducible assumption | with_reducible refine Retains.foldl _ ?_ (fun u x hu => ?_)
    | with_reducible apply State.goTo_retains | with_reducible apply Retains.only (State.captureTorn_only _)
    | with_reducible apply Retains.only (State.trimNominal_only _ _) | with_reducible apply State.releaseTrips_retains
    | with_reducible apply State.updateHrst_retains | with_reducible apply Retains.only (State.startSelfTest_only _)
    | with_reducible apply State.twinAtReady_retains | with_reducible apply State.logHeld_retains
    | with_reducible apply State.raiseUnresolved_retains | with_reducible apply State.startOffMin_retains
    | with_reducible apply State.receiveCause_retains | with_reducible apply State.startRequests_retains | split
    | with_reducible refine Retains.mk_upd ?_ | (with_reducible show Part.apart _ = true; decide)

theorem State.collapseOutputs_retains {lo : Loose} {a s : State} (h : Retains lo a s) :
    Retains lo a (State.collapseOutputs s) := by
  unfold State.collapseOutputs
  repeat' first
    | with_reducible assumption | with_reducible refine Retains.mk_upd ?_

theorem State.quietDown_retains {lo : Loose} {a s : State} (h : Retains lo a s) (old : State) :
    Retains lo a (State.quietDown s old) := by
  unfold State.quietDown
  dsimp only
  repeat' first
    | with_reducible assumption | with_reducible refine Retains.foldl _ ?_ (fun u x hu => ?_)
    | with_reducible apply Retains.only (State.startSettle_only _ _)
    | with_reducible apply Retains.only (State.senseQuiet_only _)
    | with_reducible apply Retains.only (State.modeChanges_only _ _)
    | with_reducible apply Retains.only (State.testWrites_only _ _ _)
    | with_reducible apply Retains.only (State.reeval_only _ _) | with_reducible apply State.senseChange_retains
    | with_reducible refine Retains.mk_upd ?_ | (with_reducible show Part.apart _ = true; decide)

theorem State.enterCoppice_retains {lo : Loose} {a s : State} (h : Retains lo a s) :
    Retains lo a (State.enterCoppice s) := by
  unfold State.enterCoppice
  dsimp only
  repeat' first
    | with_reducible assumption | with_reducible apply State.setLatch_retains
    | with_reducible apply State.recordBisque_retains
    | with_reducible apply Retains.only (State.discardSilent_only _ _)
    | with_reducible apply Retains.only (State.endWindows_only _) | with_reducible apply State.quietDown_retains
    | with_reducible apply Retains.only (State.walkBegin_only _) | with_reducible apply State.updateHrst_retains
    | split | with_reducible refine Retains.mk_upd ?_ | (with_reducible show Part.apart _ = true; decide)

theorem State.engineError_retains {lo : Loose} {a s : State} (h : Retains lo a s) (k : Nat) (err : Nat) :
    Retains lo a (State.engineError s k err) := by
  unfold State.engineError
  dsimp only
  repeat' first
    | with_reducible assumption | with_reducible apply Retains.only (State.setEng_only _ _ _)
    | with_reducible apply State.engineFault_retains | split | with_reducible refine Retains.mk_upd ?_
    | (with_reducible show Part.apart _ = true; decide)

theorem State.endStep_retains {lo : Loose} {a s : State} (h : Retains lo a s) (k : Nat) (d : Nat) :
    Retains lo a (State.endStep s k d) := by
  unfold State.endStep
  dsimp only
  repeat' first
    | with_reducible assumption | with_reducible apply State.engineError_retains
    | with_reducible apply Retains.only (State.goStep_only _ _ _ _) | split | with_reducible refine Retains.mk_upd ?_
    | (with_reducible show Part.apart _ = true; decide)

theorem State.badFetch_retains {lo : Loose} {a s : State} (h : Retains lo a s) (k : Nat) :
    Retains lo a (State.badFetch s k) := by
  unfold State.badFetch
  dsimp only
  repeat' first
    | with_reducible assumption | with_reducible apply State.engineError_retains | split
    | with_reducible refine Retains.mk_upd ?_

theorem State.engStep_retains {lo : Loose} {a s : State} (h : Retains lo a s) (k op : Nat) (f : Fetch) (act : State → State)
    (hact : ∀ u, Retains lo a u → Retains lo a (act u)) : Retains lo a (s.engStep k op f act) := by
  unfold State.engStep
  have ht : Retains lo a (s.till (s.eng k).next) := Retains.only (State.till_only _ _) (by decide) h
  generalize s.till (s.eng k).next = t at ht ⊢
  dsimp only
  split
  · split
    · exact State.badFetch_retains ht _
    · refine Retains.ite ht (hact _ ?_)
      exact Retains.only (State.issueStep_only _ _ _) (by decide) (Retains.only (State.noteFetch_only _ _ _) (by decide) ht)
  · exact h

theorem State.claimTrim_retains {lo : Loose} {a s : State} (h : Retains lo a s) (k : Nat) (n : Nat) (act : State → State)
    (hact : ∀ u, Retains lo a u → Retains lo a (act u)) : Retains lo a (s.claimTrim k n act) := by
  unfold State.claimTrim
  dsimp only
  repeat' first
    | with_reducible assumption | with_reducible apply hact | with_reducible apply Retains.only (State.openTick_only _)
    | with_reducible apply Retains.only (State.setEng_only _ _ _) | split | with_reducible refine Retains.mk_upd ?_
    | (with_reducible show Part.apart _ = true; decide)

theorem State.claimPwm_retains {lo : Loose} {a s : State} (h : Retains lo a s) (k : Nat) (c : Nat) (act : State → State)
    (hact : ∀ u, Retains lo a u → Retains lo a (act u)) : Retains lo a (s.claimPwm k c act) := by
  unfold State.claimPwm
  dsimp only
  repeat' first
    | with_reducible assumption | with_reducible apply hact | with_reducible apply Retains.only (State.openTick_only _)
    | with_reducible apply Retains.only (State.setEng_only _ _ _) | split | with_reducible refine Retains.mk_upd ?_
    | (with_reducible show Part.apart _ = true; decide)

theorem State.endFiring_retains {lo : Loose} {a s : State} (h : Retains lo a s) : Retains lo a (State.endFiring s) := by
  unfold State.endFiring
  repeat' first
    | with_reducible assumption | with_reducible apply State.enterRunning_retains | split
    | with_reducible refine Retains.mk_upd ?_

theorem State.checkEnd_retains {lo : Loose} {a s : State} (h : Retains lo a s) (k : Nat) (rails : List CheckRail) :
    Retains lo a (State.checkEnd s k rails) := by
  unfold State.checkEnd
  repeat' first
    | with_reducible assumption | with_reducible apply State.endStep_retains | split
    | with_reducible refine Retains.mk_upd ?_

theorem State.marginEnd_retains {lo : Loose} {a s : State} (h : Retains lo a s) (k : Nat) (n : Nat) (r : BitVec 2) :
    Retains lo a (State.marginEnd s k n r) := by
  unfold State.marginEnd
  repeat' first
    | with_reducible assumption | with_reducible apply Retains.only (State.setEng_only _ _ _)
    | with_reducible apply State.endStep_retains | split | with_reducible refine Retains.mk_upd ?_
    | (with_reducible show Part.apart _ = true; decide)

theorem State.popQueue_retains {lo : Loose} {a s : State} (h : Retains lo a s) : Retains lo a (State.popQueue s) := by
  unfold State.popQueue
  repeat' first
    | with_reducible assumption | with_reducible refine Retains.mk_upd ?_

theorem State.writeContent_retains {lo : Loose} {a s : State} (h : Retains lo a s) (r : Reg) (v : Word) :
    Retains lo a (State.writeContent s r v) := by
  unfold State.writeContent
  dsimp only
  repeat' first
    | with_reducible assumption | with_reducible apply Retains.only (State.pwSettle_only _)
    | with_reducible apply Retains.only (State.clearFlt_only _ _)
    | with_reducible apply Retains.only (State.clearFail_only _ _ _) | with_reducible apply State.popQueue_retains
    | with_reducible apply Retains.only (State.addPhase_only _ _ _)
    | with_reducible apply Retains.only (State.setLoadAll_only _)
    | with_reducible apply Retains.only (State.writeRun_only _ _)
    | with_reducible apply Retains.only (State.clearLatches_only _ _)
    | with_reducible apply Retains.only (State.keepShadow_only _ _)
    | with_reducible apply Retains.only (State.putCfg_only _ _ _)
    | with_reducible apply Retains.only (State.setCh_only _ _ _) | split | with_reducible refine Retains.mk_upd ?_
    | (with_reducible show Part.apart _ = true; decide)

theorem State.attenChanged_retains {lo : Loose} {a s : State} (h : Retains lo a s) (n : Nat) :
    Retains lo a (State.attenChanged s n) := by
  unfold State.attenChanged
  dsimp only
  repeat' first
    | with_reducible assumption | with_reducible refine Retains.foldl _ ?_ (fun u x hu => ?_)
    | with_reducible apply Retains.only (State.setCmp_only _ _ _) | with_reducible apply State.receive_retains
    | with_reducible apply Retains.only (State.forcedChange_only _ _) | with_reducible refine Retains.mk_upd ?_
    | (with_reducible show Part.apart _ = true; decide)

theorem State.twinEnChanged_retains {lo : Loose} {a s : State} (h : Retains lo a s) (old : State) :
    Retains lo a (State.twinEnChanged s old) := by
  unfold State.twinEnChanged
  dsimp only
  repeat' first
    | with_reducible assumption | with_reducible refine Retains.foldl _ ?_ (fun u x hu => ?_)
    | with_reducible apply State.releaseHeld_retains | with_reducible apply State.twinAtReady_retains
    | with_reducible apply Retains.only (State.setCmp_only _ _ _)
    | with_reducible apply Retains.only (State.trimSide_only _ _ _) | with_reducible apply State.senseChange_retains
    | split | with_reducible refine Retains.mk_upd ?_ | (with_reducible show Part.apart _ = true; decide)

theorem State.writeAfter_retains {lo : Loose} {a s : State} (h : Retains lo a s) (cfg : Tab Word) (r : Reg) (v : Word) (c : Word) :
    Retains lo a (State.writeAfter s cfg r v c) := by
  unfold State.writeAfter
  dsimp only
  repeat' first
    | with_reducible assumption | with_reducible refine Retains.foldl _ ?_ (fun u x hu => ?_)
    | with_reducible apply State.attenChanged_retains | with_reducible apply State.senseChange_retains
    | with_reducible apply Retains.only (State.cmpCfgChanged_only _ _ _ _)
    | with_reducible apply Retains.only (State.refreshFlt_only _ _)
    | with_reducible apply Retains.only (State.scanChanged_only _)
    | with_reducible apply Retains.only (State.assignAll_only _)
    | with_reducible apply Retains.only (State.intervalChanged_only _)
    | with_reducible apply Retains.only (State.stopCycle_only _)
    | with_reducible apply Retains.only (State.startCycle_only _)
    | with_reducible apply Retains.only (State.twEnable_only _ _)
    | with_reducible apply Retains.only (State.twReset_only _ _)
    | with_reducible apply Retains.only (State.twClear_only _ _) | with_reducible apply State.twinEnChanged_retains
    | with_reducible apply Retains.only (State.trimSide_only _ _ _)
    | with_reducible apply Retains.only (State.reenumerate_only _)
    | with_reducible apply Retains.only (State.forgetAbsent_only _)
    | with_reducible apply Retains.only (State.outChanged_only _ _ _ _) | split
    | with_reducible refine Retains.mk_upd ?_ | (with_reducible show Part.apart _ = true; decide)

theorem State.writesFollow_retains {lo : Loose} {a s : State} (h : Retains lo a s) (l : List Written) :
    Retains lo a (State.writesFollow s l) := by
  unfold State.writesFollow
  repeat' first
    | with_reducible assumption | with_reducible refine Retains.foldl _ ?_ (fun u x hu => ?_)
    | with_reducible apply State.writeAfter_retains | with_reducible refine Retains.mk_upd ?_

theorem State.loadPart_retains {lo : Loose} {a s : State} (h : Retains lo a s) (p : SgPart) :
    Retains lo a (State.loadPart s p) := by
  unfold State.loadPart
  dsimp only
  repeat' first
    | with_reducible assumption | with_reducible apply Retains.only (State.loadHeld_only _ _)
    | with_reducible refine Retains.mk_upd ?_ | (with_reducible show Part.apart _ = true; decide)

theorem State.writeWord_retains {lo : Loose} {a : State} {e : State × List Written} (h : Retains lo a e.1) (w : Nat × Word) :
    Retains lo a (State.writeWord e w).1 := by
  unfold State.writeWord
  split
  · exact h
  · dsimp only
    split
    · exact h
    · exact State.writeContent_retains h _ _

theorem State.writeAll_retains {lo : Loose} {a s : State} (h : Retains lo a s) (l : List (Nat × Word)) :
    Retains lo a (s.writeAll l).1 := by
  unfold State.writeAll
  generalize hx : (s, ([] : List Written)) = x
  replace h : Retains lo a x.1 := hx ▸ h
  clear hx
  induction l generalizing x with
  | nil => exact h
  | cons w l ih => exact ih _ (State.writeWord_retains h w)

theorem State.writeOne_retains {lo : Loose} {z s : State} (h : Retains lo z s) (k : Carrier) (a : Nat) (v : Word) :
    Retains lo z (s.writeOne k a v) := by
  unfold State.writeOne
  split
  · exact Retains.only (State.countRefused_only _ _ _ _) (by decide) h
  · have hw : Retains lo z (State.writeWord (s, []) (a, v)).1 := State.writeWord_retains h _
    exact State.writesFollow_retains (Retains.ite (Retains.only (State.newImage_only _) (by decide) hw) hw) _

theorem State.writeLive_retains {lo : Loose} {z s : State} (h : Retains lo z s) (k : Carrier) (a : Nat) (v : Word) :
    Retains lo z (s.writeLive k a v) :=
  Retains.ite (State.writeOne_retains h _ _ _) h

theorem State.count5_retains {lo : Loose} {a s : State} (h : Retains lo a s) (c : Cmd) :
    Retains lo a (State.count5 s c) := by
  unfold State.count5
  repeat' first
    | with_reducible assumption | with_reducible apply State.finish_retains
    | with_reducible apply Retains.only (State.pass5_only _ _) | split | with_reducible refine Retains.mk_upd ?_
    | (with_reducible show Part.apart _ = true; decide)

theorem State.runStage5_retains {lo : Loose} {a s : State} (h : Retains lo a s) (ring : Bool) (n : Nat) :
    Retains lo a (State.runStage5 s ring n) := by
  induction n generalizing s with
  | zero => exact h
  | succ n ih =>
    unfold State.runStage5
    repeat' first
      | with_reducible assumption | split | with_reducible apply ih | with_reducible apply State.count5_retains

theorem State.stage23_retains {lo : Loose} {a s : State} (h : Retains lo a s) (c : Cmd) (p : List Byte) :
    Retains lo a (State.stage23 s c p) := by
  unfold State.stage23
  dsimp only
  repeat' first
    | with_reducible assumption | with_reducible apply State.refuse_retains
    | with_reducible apply Retains.only (State.takeIn_only _ _) | with_reducible apply State.finish_retains
    | with_reducible apply Retains.only (State.forward_only _ _ _ _ _)
    | with_reducible apply Retains.only (State.enter_only _ _) | split | with_reducible refine Retains.mk_upd ?_
    | (with_reducible show Part.apart _ = true; decide)

theorem State.arrive_retains {lo : Loose} {a s : State} (h : Retains lo a s) (ring : Bool) (src : Nat) (bcast : Bool) (p : List Byte) :
    Retains lo a (State.arrive s ring src bcast p) := by
  unfold State.arrive
  dsimp only
  repeat' first
    | with_reducible assumption | with_reducible apply Retains.only (State.noteReceived_only _)
    | with_reducible apply Retains.only (State.noteFraming_only _)
    | with_reducible apply Retains.only (State.arriveCont_only _ _ _)
    | with_reducible apply Retains.only (State.refuse127_only _ _ _ _ _)
    | with_reducible apply Retains.only (State.takeIn_only _ _) | with_reducible apply State.finish_retains
    | with_reducible apply State.stage23_retains | split | with_reducible refine Retains.mk_upd ?_
    | (with_reducible show Part.apart _ = true; decide)

theorem State.syncEnd_retains {lo : Loose} {a s : State} (h : Retains lo a s) (k : Nat) (w : Step64) :
    Retains lo a (State.syncEnd s k w) := by
  unfold State.syncEnd
  dsimp only
  repeat' first
    | with_reducible assumption | with_reducible apply Retains.only (State.clearFlags_only _ _)
    | with_reducible apply State.endStep_retains | split | with_reducible refine Retains.mk_upd ?_
    | (with_reducible show Part.apart _ = true; decide)

theorem State.marginPm_retains {lo : Loose} {a s : State} (h : Retains lo a s) (k : Nat) (n : Nat) (level : Nat) :
    Retains lo a (State.marginPm s k n level) := by
  unfold State.marginPm
  dsimp only
  repeat' first
    | with_reducible assumption | with_reducible apply Retains.only (State.setTw_only _ _ _)
    | with_reducible apply Retains.only (State.setPmb_only _ _ _)
    | with_reducible apply Retains.only (State.setTo_only _ _) | with_reducible apply State.endStep_retains
    | with_reducible apply Retains.only (State.waitIn_only _ _ _)
    | with_reducible apply Retains.only (State.startSeq_only _ _) | split | with_reducible refine Retains.mk_upd ?_
    | (with_reducible show Part.apart _ = true; decide)

theorem State.halt_retains {lo : Loose} {a s : State} (h : Retains lo a s) (k : Nat) (off : Bool) :
    Retains lo a (State.halt s k off) := by
  unfold State.halt
  dsimp only
  repeat' first
    | with_reducible assumption | with_reducible apply Retains.only (State.setEng_only _ _ _)
    | with_reducible apply State.engineFault_retains | with_reducible apply Retains.only (State.mirror_only _ _ _)
    | with_reducible apply State.offRequest_retains | with_reducible apply State.endFiring_retains | split
    | with_reducible refine Retains.mk_upd ?_ | (with_reducible show Part.apart _ = true; decide)

theorem State.marginDone_retains {lo : Loose} {a s : State} (h : Retains lo a s) (n : Nat) (key : Bool × Nat) :
    Retains lo a (State.marginDone s n key) := by
  unfold State.marginDone
  repeat' first
    | with_reducible assumption | with_reducible apply State.finish_retains | split
    | with_reducible refine Retains.mk_upd ?_

theorem State.crossingReport_retains {lo : Loose} {a s : State} (h : Retains lo a s) (i : Nat) :
    Retains lo a (State.crossingReport s i) := by
  unfold State.crossingReport
  dsimp only
  repeat' first
    | with_reducible assumption | with_reducible apply Retains.only (State.noteSet_only _ _ _)
    | with_reducible apply Retains.only (State.irqCk_only _ _) | with_reducible apply State.receiveCause_retains
    | split | with_reducible refine Retains.mk_upd ?_ | (with_reducible show Part.apart _ = true; decide)

theorem State.tripNow_retains {lo : Loose} {a s : State} (h : Retains lo a s) : Retains lo a (State.tripNow s) := by
  unfold State.tripNow
  dsimp only
  repeat' first
    | with_reducible assumption | with_reducible apply State.assertTripo_retains
    | with_reducible refine Retains.mk_upd ?_

theorem State.walkRelease_retains {lo : Loose} {a s : State} (h : Retains lo a s) (mask : Rails) :
    Retains lo a (State.walkRelease s mask) := by
  unfold State.walkRelease
  dsimp only
  repeat' first
    | with_reducible assumption | with_reducible apply State.enLow_retains | with_reducible refine Retains.mk_upd ?_

theorem State.walkAct_retains {lo : Loose} {a s : State} (h : Retains lo a s) (x : Step64) :
    Retains lo a (State.walkAct s x) := by
  unfold State.walkAct
  dsimp only
  repeat' first
    | with_reducible assumption | with_reducible apply Retains.only (State.trimDischarge_only _ _)
    | with_reducible apply State.walkRelease_retains | with_reducible apply Retains.only (State.walkSeek_only _ _)
    | split | with_reducible refine Retains.mk_upd ?_ | (with_reducible show Part.apart _ = true; decide)

theorem State.walkDue_retains {lo : Loose} {a s : State} (h : Retains lo a s) (x : Step64) (due : Nat) :
    Retains lo a (State.walkDue s x due) := by
  unfold State.walkDue
  repeat' first
    | with_reducible assumption | with_reducible apply State.walkAct_retains | split
    | with_reducible refine Retains.mk_upd ?_

theorem State.sweepAll_retains {lo : Loose} {a s : State} (h : Retains lo a s) : Retains lo a (State.sweepAll s) := by
  unfold State.sweepAll
  dsimp only
  repeat' first
    | with_reducible assumption | with_reducible apply State.walkRelease_retains
    | with_reducible refine Retains.mk_upd ?_

theorem State.coolingEnds_retains {lo : Loose} {a s : State} (h : Retains lo a s) :
    Retains lo a (State.coolingEnds s) := by
  unfold State.coolingEnds
  dsimp only
  repeat' first
    | with_reducible assumption | with_reducible apply Retains.only (State.irqCt_only _ _)
    | with_reducible apply State.goTo_retains | with_reducible apply State.startOffMin_retains
    | with_reducible apply Retains.only (State.readyClears_only _) | with_reducible apply State.deviceReset_retains
    | with_reducible apply State.tryPending_retains | split | with_reducible refine Retains.mk_upd ?_
    | (with_reducible show Part.apart _ = true; decide)

theorem State.reducedSweep_retains {lo : Loose} {a s : State} (h : Retains lo a s) :
    Retains lo a (State.reducedSweep s) := by
  unfold State.reducedSweep
  dsimp only
  repeat' first
    | with_reducible assumption | with_reducible apply State.sweepAll_retains
    | with_reducible apply Retains.only (State.trimsOff_only _) | with_reducible refine Retains.mk_upd ?_
    | (with_reducible show Part.apart _ = true; decide)

theorem State.noteCollapse_retains {lo : Loose} {a s : State} (h : Retains lo a s) (outcome : BitVec 2) :
    Retains lo a (State.noteCollapse s outcome) := by
  unfold State.noteCollapse
  repeat' first
    | with_reducible assumption | with_reducible refine Retains.mk_upd ?_

theorem State.collapseReset_retains {lo : Loose} {a s : State} (h : Retains lo a s) :
    Retains lo a (State.collapseReset s) := by
  unfold State.collapseReset
  dsimp only
  repeat' first
    | with_reducible assumption | with_reducible apply Retains.only (State.discardSilent_only _ _)
    | with_reducible apply State.afterReset_retains | with_reducible apply State.updateHrst_retains
    | with_reducible refine Retains.mk_upd ?_ | (with_reducible show Part.apart _ = true; decide)

theorem State.collapseLive_retains {lo : Loose} {a s : State} (h : Retains lo a s) (logDie : Bool) (archive : Bool) :
    Retains lo a (State.collapseLive s logDie archive) := by
  unfold State.collapseLive
  dsimp only
  repeat' first
    | with_reducible assumption | with_reducible apply State.noteCollapse_retains
    | with_reducible apply State.collapseReset_retains | with_reducible apply Retains.only (State.endWindows_only _)
    | split | with_reducible refine Retains.mk_upd ?_ | (with_reducible show Part.apart _ = true; decide)

theorem State.collapse_retains {lo : Loose} {a s : State} (h : Retains lo a s) (logDie : Bool) (archive : Bool) :
    Retains lo a (State.collapse s logDie archive) := by
  unfold State.collapse
  dsimp only
  repeat' first
    | with_reducible assumption | with_reducible apply State.noteCollapse_retains
    | with_reducible apply Retains.only (State.endWindows_only _) | with_reducible apply State.disable_retains
    | with_reducible apply State.collapseOutputs_retains | with_reducible apply State.collapseReset_retains
    | with_reducible apply State.collapseLive_retains | split | with_reducible refine Retains.mk_upd ?_
    | (with_reducible show Part.apart _ = true; decide)

theorem State.enterOff_retains {lo : Loose} {a s : State} (h : Retains lo a s) : Retains lo a (State.enterOff s) := by
  unfold State.enterOff
  dsimp only
  repeat' first
    | with_reducible assumption | with_reducible apply State.afterReset_retains
    | with_reducible apply Retains.only (State.endWindows_only _) | with_reducible refine Retains.mk_upd ?_
    | (with_reducible show Part.apart _ = true; decide)

theorem State.commitEnds_retains {lo : Loose} {a s : State} (h : Retains lo a s) (outcome : BitVec 2) :
    Retains lo a (State.commitEnds s outcome) := by
  unfold State.commitEnds
  dsimp only
  repeat' first
    | with_reducible assumption | with_reducible apply State.enterOff_retains
    | with_reducible apply State.leaveStage1_retains | split | with_reducible refine Retains.mk_upd ?_

theorem State.finishCopy_retains {lo : Loose} {a s : State} (h : Retains lo a s) :
    Retains lo a (State.finishCopy s) := by
  unfold State.finishCopy
  repeat' first
    | with_reducible assumption | with_reducible apply Retains.only (State.copyHead_only _ _ _) | split
    | with_reducible refine Retains.mk_upd ?_ | (with_reducible show Part.apart _ = true; decide)

theorem State.stageLate_retains {lo : Loose} {a s : State} (h : Retains lo a s) : Retains lo a (State.stageLate s) := by
  unfold State.stageLate
  dsimp only
  repeat' first
    | with_reducible assumption | with_reducible apply State.startFail_retains
    | with_reducible apply State.leaveStage1_retains | with_reducible apply Retains.only (State.takeFree_only _)
    | split | with_reducible refine Retains.mk_upd ?_ | (with_reducible show Part.apart _ = true; decide)

theorem State.samplePins_retains {lo : Loose} {a s : State} (h : Retains lo a s) (r : StageResult) :
    Retains lo a (State.samplePins s r) := by
  unfold State.samplePins
  repeat' first
    | with_reducible assumption | with_reducible refine Retains.mk_upd ?_

theorem State.loadCopy_retains {lo : Loose} {a s : State} (h : Retains lo a s) (c : SgCopy) :
    Retains lo a (State.loadCopy s c) := by
  unfold State.loadCopy
  dsimp only
  repeat' first
    | with_reducible assumption | with_reducible apply State.loadPart_retains
    | with_reducible refine Retains.mk_upd ?_

theorem State.stage1Work_retains {lo : Loose} {a s : State} (h : Retains lo a s) (r : StageResult) :
    Retains lo a (State.stage1Work s r) := by
  unfold State.stage1Work
  dsimp only
  repeat' first
    | with_reducible assumption | with_reducible apply State.samplePins_retains
    | with_reducible apply State.loadCopy_retains | with_reducible apply State.leaveStage1_retains
    | with_reducible apply State.startFail_retains | split | with_reducible refine Retains.mk_upd ?_

theorem State.stage2Work_retains {lo : Loose} {a s : State} (h : Retains lo a s) (r : StageResult) :
    Retains lo a (State.stage2Work s r) := by
  unfold State.stage2Work
  dsimp only
  repeat' first
    | with_reducible assumption | with_reducible apply Retains.only (State.pllStart_only _ _) | split
    | with_reducible refine Retains.mk_upd ?_ | (with_reducible show Part.apart _ = true; decide)

theorem State.stage3Work_retains {lo : Loose} {a s : State} (h : Retains lo a s) (r : StageResult) :
    Retains lo a (State.stage3Work s r) := by
  unfold State.stage3Work
  dsimp only
  repeat' first
    | with_reducible assumption | with_reducible apply Retains.only (State.aonTimeBase_only _)
    | with_reducible apply State.startFail_retains | with_reducible apply State.examineLog_retains
    | with_reducible apply Retains.only (State.setTimeBase_only _) | with_reducible apply State.configLoaded_retains
    | split | with_reducible refine Retains.mk_upd ?_ | (with_reducible show Part.apart _ = true; decide)

theorem State.stage4Work_retains {lo : Loose} {a s : State} (h : Retains lo a s) (r : StageResult) :
    Retains lo a (State.stage4Work s r) := by
  unfold State.stage4Work
  dsimp only
  repeat' first
    | with_reducible assumption | with_reducible apply State.failCmps_retains
    | with_reducible apply State.startFail_retains | with_reducible apply State.beginStage5_retains | split
    | with_reducible refine Retains.mk_upd ?_

theorem State.arming_retains {lo : Loose} {a s : State} (h : Retains lo a s) (r : StageResult) :
    Retains lo a (State.arming s r) := by
  unfold State.arming
  dsimp only
  repeat' first
    | with_reducible assumption | with_reducible refine Retains.foldl _ ?_ (fun u x hu => ?_)
    | with_reducible apply Retains.only (State.observe_only _ _ _) | with_reducible apply State.senseChange_retains
    | with_reducible apply State.takeReading_retains | with_reducible refine Retains.mk_upd ?_
    | (with_reducible show Part.apart _ = true; decide)

theorem State.wakeFallback_retains {lo : Loose} {a s : State} (h : Retains lo a s) :
    Retains lo a (State.wakeFallback s) := by
  unfold State.wakeFallback
  repeat' first
    | with_reducible assumption | with_reducible apply State.updateHrst_retains
    | with_reducible refine Retains.mk_upd ?_

theorem State.vinBack_retains {lo : Loose} {a s : State} (h : Retains lo a s) (b : Bool) :
    Retains lo a (State.vinBack s b) := by
  unfold State.vinBack
  repeat' first
    | with_reducible assumption | split | with_reducible refine Retains.mk_upd ?_

theorem State.shortPress_retains {lo : Loose} {a s : State} (h : Retains lo a s) (tick : Nat) :
    Retains lo a (State.shortPress s tick) := by
  unfold State.shortPress
  repeat' first
    | with_reducible assumption | with_reducible apply State.onArises_retains
    | with_reducible apply Retains.only (State.mirror_only _ _ _) | with_reducible apply State.offRequest_retains
    | split | with_reducible refine Retains.mk_upd ?_ | (with_reducible show Part.apart _ = true; decide)

theorem State.senseFault_retains {lo : Loose} {a s : State} (h : Retains lo a s) (f : FaultRec) :
    Retains lo a (State.senseFault s f) := by
  unfold State.senseFault
  repeat' first
    | with_reducible assumption | with_reducible apply State.receive_retains | split
    | with_reducible refine Retains.mk_upd ?_

theorem State.release_retains {lo : Loose} {a s : State} (h : Retains lo a s) (old : State) (src : Nat) :
    Retains lo a (State.release s old src) := by
  unfold State.release
  repeat' first
    | with_reducible assumption | with_reducible apply Retains.only (State.reeval_only _ _)
    | with_reducible apply State.senseChange_retains | with_reducible refine Retains.mk_upd ?_
    | (with_reducible show Part.apart _ = true; decide)

theorem State.skipTest_retains {lo : Loose} {a s : State} (h : Retains lo a s) (src : Nat) :
    Retains lo a (State.skipTest s src) := by
  unfold State.skipTest
  dsimp only
  repeat' first
    | with_reducible assumption | with_reducible apply Retains.only (State.setCmp_only _ _ _)
    | with_reducible apply State.senseFault_retains | split | with_reducible refine Retains.mk_upd ?_
    | (with_reducible show Part.apart _ = true; decide)

theorem State.restoreTest_retains {lo : Loose} {a s : State} (h : Retains lo a s) (src : Nat) (wrong : Bool) :
    Retains lo a (State.restoreTest s src wrong) := by
  unfold State.restoreTest
  dsimp only
  repeat' first
    | with_reducible assumption | with_reducible apply Retains.only (State.endTest_only _)
    | with_reducible apply Retains.only (State.setCmp_only _ _ _) | with_reducible apply State.senseChange_retains
    | with_reducible apply Retains.only (State.startSettle_only _ _) | split | with_reducible refine Retains.mk_upd ?_
    | (with_reducible show Part.apart _ = true; decide)

theorem State.convDone_retains {lo : Loose} {a s : State} (h : Retains lo a s) (c : Nat) (x : Conv) (raw : BitVec 16) :
    Retains lo a (State.convDone s c x raw) := by
  unfold State.convDone
  dsimp only
  repeat' first
    | with_reducible assumption | with_reducible apply Retains.only (State.till_only _ _)
    | with_reducible apply Retains.only (State.openGroups_only _) | with_reducible apply State.takeReading_retains
    | with_reducible apply Retains.only (State.served_only _ _ _)
    | with_reducible apply Retains.only (State.assign_only _ _ _) | with_reducible refine Retains.mk_upd ?_
    | (with_reducible show Part.apart _ = true; decide)

theorem State.unblock_retains {lo : Loose} {a s : State} (h : Retains lo a s) : Retains lo a (State.unblock s) := by
  unfold State.unblock
  repeat' first
    | with_reducible assumption | with_reducible apply State.enHigh_retains | with_reducible apply State.found_retains
    | with_reducible apply State.tryPending_retains | split | with_reducible refine Retains.mk_upd ?_

theorem State.resetLeft_retains {lo : Loose} {a s : State} (h : Retains lo a s) (r : Reply) :
    Retains lo a (State.resetLeft s r) := by
  unfold State.resetLeft
  repeat' first
    | with_reducible assumption | split | with_reducible refine Retains.mk_upd ?_

theorem State.execute_retains {lo : Loose} {a s : State} (h : Retains lo a s) (op : Nat) (f : Cmd → State)
    (hf : ∀ c, Retains lo a (f c)) : Retains lo a (s.execute op f) := by
  unfold State.execute
  split
  · split
    · exact State.finish_retains h _ _ _
    · exact hf _
  · exact h

theorem State.ok_retains {lo : Loose} {a s : State} (h : Retains lo a s) (c : Cmd) (payload : List Byte) :
    Retains lo a (State.ok s c payload) := by
  unfold State.ok
  repeat' first
    | with_reducible assumption | with_reducible apply State.finish_retains | with_reducible refine Retains.mk_upd ?_

theorem State.refuse_retains {lo : Loose} {a s : State} (h : Retains lo a s) (c : Cmd) (status : Nat) :
    Retains lo a (State.refuse s c status) := by
  unfold State.refuse
  repeat' first
    | with_reducible assumption | with_reducible apply State.finish_retains | with_reducible refine Retains.mk_upd ?_

theorem State.confirmFails_retains {lo : Loose} {a s : State} (h : Retains lo a s) (c : Cmd) :
    Retains lo a (State.confirmFails s c) := by
  unfold State.confirmFails
  repeat' first
    | with_reducible assumption | with_reducible apply State.refuse_retains | with_reducible refine Retains.mk_upd ?_

theorem State.confirmed_retains {lo : Loose} {a s : State} (h : Retains lo a s) (c : Cmd) (needed : Bool) (k : Confirm) (f : State)
    (hf : Retains lo a f) : Retains lo a (s.confirmed c needed k f) :=
  Retains.ite (State.confirmFails_retains h _) hf

theorem State.doWords_retains {lo : Loose} {a s : State} (h : Retains lo a s) (c : Cmd) (l : List (Nat × Word)) :
    Retains lo a (s.doWords c l) := by
  unfold State.doWords
  have hw := State.writeAll_retains h l
  generalize s.writeAll l = e at hw ⊢
  have ht : Retains lo a (if changedCfg e.2 then e.1.newImage else e.1) :=
    Retains.ite (Retains.only (State.newImage_only _) (by decide) hw) hw
  refine State.writesFollow_retains (Retains.ite (State.ok_retains ht _ _) (State.ok_retains ?_ _ _)) _
  exact Retains.only (State.imageShard_only _ _ _ _) (by decide) ht

theorem State.writeRegs_retains {lo : Loose} {a s : State} (h : Retains lo a s) (c : Cmd) (k : Carrier) (confirm : Confirm) :
    Retains lo a (State.writeRegs s c k confirm) := by
  unfold State.writeRegs
  dsimp only
  repeat' first
    | with_reducible assumption | with_reducible apply Retains.only (State.countRefused_only _ _ _ _)
    | with_reducible apply State.refuse_retains | with_reducible apply State.confirmed_retains
    | with_reducible apply State.writeAll_retains | with_reducible apply State.doWords_retains | split
    | with_reducible refine Retains.mk_upd ?_ | (with_reducible show Part.apart _ = true; decide) | intro _

theorem State.onAccepted_retains {lo : Loose} {a s : State} (h : Retains lo a s) (c : Cmd) :
    Retains lo a (State.onAccepted s c) := by
  unfold State.onAccepted
  repeat' first
    | with_reducible assumption | with_reducible apply State.ok_retains | with_reducible apply State.onArises_retains
    | with_reducible apply Retains.only (State.mirror_only _ _ _) | with_reducible apply State.refuse_retains | split
    | with_reducible refine Retains.mk_upd ?_ | (with_reducible show Part.apart _ = true; decide)

theorem State.clearLatch_retains {a s : State} (h : Retains .latch a s) : Retains .latch a s.clearLatch :=
  (State.releaseTrips_retains h).trans ⟨fun hl => absurd rfl hl, fun _ _ => id, fun _ _ => rfl, fun _ _ => id⟩

theorem State.onreqLevel_retains {lo : Loose} {a s : State} (h : Retains lo a s) :
    Retains lo a (State.onreqLevel s) := by
  unfold State.onreqLevel
  repeat' first
    | with_reducible assumption | with_reducible apply State.onArises_retains | split
    | with_reducible refine Retains.mk_upd ?_

theorem State.marginPmbus_retains {lo : Loose} {a s : State} (h : Retains lo a s) (c : Cmd) (n : Nat) (level : Nat) :
    Retains lo a (State.marginPmbus s c n level) := by
  unfold State.marginPmbus
  dsimp only
  repeat' first
    | with_reducible assumption | with_reducible apply State.refuse_retains
    | with_reducible apply Retains.only (State.setTw_only _ _ _)
    | with_reducible apply Retains.only (State.setPmb_only _ _ _) | with_reducible apply State.ok_retains
    | with_reducible apply State.accept_retains | with_reducible apply Retains.only (State.startSeq_only _ _) | split
    | with_reducible refine Retains.mk_upd ?_ | (with_reducible show Part.apart _ = true; decide)

theorem State.diesOff_retains {lo : Loose} {a s : State} (h : Retains lo a s) : Retains lo a (State.diesOff s) := by
  unfold State.diesOff
  repeat' first
    | with_reducible assumption | with_reducible apply Retains.only (State.trimsOff_only _)
    | with_reducible refine Retains.mk_upd ?_ | (with_reducible show Part.apart _ = true; decide)

theorem State.enterStandby_retains {lo : Loose} {a s : State} (h : Retains lo a s) :
    Retains lo a (State.enterStandby s) := by
  unfold State.enterStandby
  dsimp only
  repeat' first
    | with_reducible assumption | with_reducible apply State.goTo_retains
    | with_reducible apply Retains.only (State.flushBuffer_only _) | with_reducible apply State.diesOff_retains
    | with_reducible apply State.quietDown_retains | with_reducible refine Retains.mk_upd ?_
    | (with_reducible show Part.apart _ = true; decide)

theorem State.awaitReset_retains {lo : Loose} {a s : State} (h : Retains lo a s) :
    Retains lo a (State.awaitReset s) := by
  unfold State.awaitReset
  repeat' first
    | with_reducible assumption | with_reducible refine Retains.mk_upd ?_

theorem State.writeSigned_retains {lo : Loose} {a s : State} (h : Retains lo a s) (cls : Nat) (addr : Nat) (value : Word) :
    Retains lo a (State.writeSigned s cls addr value) := by
  unfold State.writeSigned
  dsimp only
  repeat' first
    | with_reducible assumption | with_reducible apply State.writeLive_retains
    | with_reducible apply Retains.only (State.capture_only _ _ _ _)
    | with_reducible apply Retains.only (State.takeFree_only _) | split | with_reducible refine Retains.mk_upd ?_
    | (with_reducible show Part.apart _ = true; decide)

theorem State.writeRow_retains {lo : Loose} {a s : State} (h : Retains lo a s) (cls addr : Nat) (value : Word) (confirm : Bool) :
    Retains lo a (s.writeRow cls addr value confirm) := by
  unfold State.writeRow
  repeat' first
    | with_reducible assumption | split | with_reducible apply Retains.only (State.countRefusal_only _ _)
    | with_reducible apply Retains.only (State.refuseRow_only _ _ _ _ _) | with_reducible apply State.writeSigned_retains
    | with_reducible refine Retains.mk_upd ?_ | (with_reducible show Part.apart _ = true; decide)

theorem State.programLoad_retains {lo : Loose} {a s : State} (h : Retains lo a s) (c : Cmd) (l : List (Nat × Step64)) :
    Retains lo a (s.programLoad c l) :=
  State.ok_retains (Retains.only (State.imageShard_only _ _ _ _) (by decide) (Retains.only (State.newImage_only _) (by decide)
    (Retains.only (State.loadSteps_only _ _) (by decide) h))) _ _

theorem State.putTable_retains {lo : Loose} {a s : State} (h : Retains lo a s) (c : Nat) (t : CoolTable) :
    Retains lo a (State.putTable s c t) := by
  unfold State.putTable
  repeat' first
    | with_reducible assumption | with_reducible refine Retains.mk_upd ?_

theorem State.tableLoad_retains {lo : Loose} {a s : State} (h : Retains lo a s) (c : Cmd) (n : Nat) (x : CoolTable) :
    Retains lo a (State.tableLoad s c n x) := by
  unfold State.tableLoad
  dsimp only
  repeat' first
    | with_reducible assumption | with_reducible apply State.putTable_retains
    | with_reducible apply Retains.only (State.newImage_only _)
    | with_reducible apply Retains.only (State.imageShard_only _ _ _ _) | with_reducible apply State.ok_retains
    | with_reducible refine Retains.mk_upd ?_ | (with_reducible show Part.apart _ = true; decide)

theorem State.clearBisque_retains {a s : State} (h : Retains .records a s) : Retains .records a s.clearBisque :=
  h.trans ⟨fun _ => id, fun hl => absurd rfl hl, fun hl => absurd rfl hl, fun _ _ => id⟩

theorem State.takeHorn_retains {lo : Loose} {a s : State} (h : Retains lo a s) (orig : Nat) (seq : Nat) :
    Retains lo a (State.takeHorn s orig seq) := by
  unfold State.takeHorn
  dsimp only
  repeat' first
    | with_reducible assumption | with_reducible apply Retains.only (State.irqGl_only _ _)
    | with_reducible apply Retains.only (State.matchStop_only _ _)
    | with_reducible apply Retains.only (State.noteStop_only _ _) | with_reducible apply State.receiveCause_retains
    | split | with_reducible refine Retains.mk_upd ?_ | (with_reducible show Part.apart _ = true; decide)

theorem State.hornReaches_retains {lo : Loose} {a s : State} (h : Retains lo a s) (p : Link) (orig : Nat) (seq : Nat) :
    Retains lo a (State.hornReaches s p orig seq) := by
  unfold State.hornReaches
  dsimp only
  repeat' first
    | with_reducible assumption | with_reducible apply Retains.only (State.noteHorn_only _ _ _ _ _)
    | with_reducible apply State.takeHorn_retains | split | with_reducible refine Retains.mk_upd ?_
    | (with_reducible show Part.apart _ = true; decide)

theorem State.meet_retains {lo : Loose} {z s : State} (h : Retains lo z s) (a' : Arrival) :
    Retains lo z (State.meet s a') := by
  unfold State.meet
  dsimp only
  repeat' first
    | with_reducible assumption | with_reducible apply Retains.only (State.setLink_only _ _ _)
    | with_reducible apply State.hornReaches_retains | split | with_reducible refine Retains.mk_upd ?_
    | (with_reducible show Part.apart _ = true; decide)

theorem State.pass_retains {lo : Loose} {z s : State} (h : Retains lo z s) (a' : Arrival) :
    Retains lo z (State.pass s a') := by
  unfold State.pass
  dsimp only
  repeat' first
    | with_reducible assumption | with_reducible apply State.meet_retains
    | with_reducible apply Retains.only (State.passFrame_only _ _ _) | split | with_reducible refine Retains.mk_upd ?_
    | (with_reducible show Part.apart _ = true; decide)

theorem State.passAgain_retains {lo : Loose} {z s : State} (h : Retains lo z s) (a' : Arrival) :
    Retains lo z (State.passAgain s a') := by
  unfold State.passAgain
  dsimp only
  repeat' first
    | with_reducible assumption | with_reducible apply State.meet_retains
    | with_reducible apply Retains.only (State.sendAs_only _ _ _ _) | split | with_reducible refine Retains.mk_upd ?_
    | (with_reducible show Part.apart _ = true; decide)

/-- Stores and tables put in place. -/
theorem Retains.stores {lo : Loose} {a u : State} (h : Retains lo a u) (st sg : Tab Step64) (ts : List CoolTable) :
    Retains lo a { u with kiln := { u.kiln with store := st, sgStore := sg }, fault := { u.fault with tables := ts } } := Retains.mk_upd h

theorem State.imageContent_retains {lo : Loose} {a s : State} (h : Retains lo a s) (x : ImageParts) :
    Retains lo a (State.imageContent s x) := by
  unfold State.imageContent
  dsimp only
  refine Retains.stores ?_ _ _ _
  repeat' first
    | with_reducible assumption | with_reducible refine Retains.foldl _ ?_ (fun u x hu => ?_)
    | with_reducible apply Retains.only (State.pwSettle_only _)
    | with_reducible apply Retains.only (State.imageSafety_only _ _)
    | with_reducible apply Retains.only (State.putCfg_only _ _ _) | split
    | (with_reducible show Part.apart _ = true; decide)

theorem State.execute3_retains {lo : Loose} {a s : State} (h : Retains lo a s) (op : Nat) (f : Cmd → State)
    (hf : ∀ c, Retains lo a (f c)) : Retains lo a (s.execute3 op f) :=
  State.execute_retains h _ _ fun c => Retains.ite (State.refuse_retains h _ _) (hf c)

theorem State.keysInForce_retains {lo : Loose} {a s : State} (h : Retains lo a s) (c : Cmd) (object : Nat) (x : Sec) (slots : List Nat) :
    Retains lo a (State.keysInForce s c object x slots) := by
  unfold State.keysInForce
  dsimp only
  repeat' first
    | with_reducible assumption | with_reducible apply Retains.only (State.putSec_only _ _)
    | with_reducible apply Retains.only (State.spoil_only _ _)
    | with_reducible apply Retains.only (State.cfgShard_only _ _ _ _ _) | with_reducible apply State.ok_retains
    | with_reducible refine Retains.mk_upd ?_ | (with_reducible show Part.apart _ = true; decide)

theorem State.sgProgramLoad_retains {lo : Loose} {a s : State} (h : Retains lo a s) (c : Cmd) (l : List (Nat × Step64)) :
    Retains lo a (s.sgProgramLoad c l) :=
  State.ok_retains (Retains.only (State.imageShard_only _ _ _ _) (by decide) (Retains.only (State.newImage_only _) (by decide)
    (Retains.only (State.loadSgSteps_only _ _) (by decide) h))) _ _

theorem Retains.imageReset {lo : Loose} {a u : State} (h : Retains lo a u) (due : Option Nat) :
    Retains lo a { u with pm := { u.pm with imageReset := due } } := Retains.mk_upd h

theorem State.imageInForce_retains {lo : Loose} {a s : State} (h : Retains lo a s) (c : Cmd) (x : ImageParts) :
    Retains lo a (s.imageInForce c x) := by
  unfold State.imageInForce
  have ht : Retains lo a (((s.imageContent x).newImage).imageShard s c 0xFFFF) :=
    Retains.only (State.imageShard_only _ _ _ _) (by decide)
      (Retains.only (State.newImage_only _) (by decide) (State.imageContent_retains h _))
  dsimp only
  split
  · exact State.writesFollow_retains (State.ok_retains ht _ _) _
  · exact State.ok_retains (Retains.imageReset ht _) _ _

theorem State.imageEnd_retains {lo : Loose} {a s : State} (h : Retains lo a s) (c : Cmd) (bytes : List Byte) (confirm : Confirm) :
    Retains lo a (State.imageEnd s c bytes confirm) := by
  unfold State.imageEnd
  repeat' first
    | with_reducible assumption | with_reducible apply State.refuse_retains
    | with_reducible apply State.confirmed_retains | with_reducible apply State.imageContent_retains
    | with_reducible apply State.imageInForce_retains | split | with_reducible refine Retains.mk_upd ?_ | intro _

theorem State.takeReply_retains {lo : Loose} {a s : State} (h : Retains lo a s) (src : Nat) (p : List Byte) :
    Retains lo a (State.takeReply s src p) := by
  unfold State.takeReply
  dsimp only
  repeat' first
    | with_reducible assumption | with_reducible apply Retains.only (State.dropFwd_only _ _)
    | with_reducible apply State.post_retains | split | with_reducible refine Retains.mk_upd ?_
    | (with_reducible show Part.apart _ = true; decide)

theorem State.bcastBack_retains {lo : Loose} {a s : State} (h : Retains lo a s) : Retains lo a (State.bcastBack s) := by
  unfold State.bcastBack
  dsimp only
  repeat' first
    | with_reducible assumption | with_reducible apply Retains.only (State.dropFwd_only _ _)
    | with_reducible apply State.answer_retains | split | with_reducible refine Retains.mk_upd ?_
    | (with_reducible show Part.apart _ = true; decide)

theorem State.passTime_retains {lo : Loose} {z s : State} (h : Retains lo z s) (a : Arrival) :
    Retains lo z (State.passTime s a) := by
  unfold State.passTime
  dsimp only
  repeat' first
    | with_reducible assumption | with_reducible apply State.meet_retains
    | with_reducible apply Retains.only (State.passFrame_only _ _ _) | split | with_reducible refine Retains.mk_upd ?_
    | (with_reducible show Part.apart _ = true; decide)

theorem State.onTwin_retains {lo : Loose} {a s : State} (h : Retains lo a s) (a' : Arrival) (msg : Nat) (f : State → State)
    (hf : ∀ u, Retains lo a u → Retains lo a (f u)) : Retains lo a (s.onTwin a' msg f) := by
  unfold State.onTwin
  have ht : Retains lo a (s.pass a') := State.pass_retains h _
  generalize s.pass a' = t at ht ⊢
  dsimp only
  split
  · split
    · split
      · exact Retains.only (State.dropNote_only _ _) (by decide) ht
      · exact hf _ (Retains.only (State.noteFrame_only _ _) (by decide) ht)
    · exact ht
  · exact h

theorem State.takeSeek_retains {lo : Loose} {a s : State} (h : Retains lo a s) (src : Nat) (p : List Byte) (alone : Bool) :
    Retains lo a (State.takeSeek s src p alone) := by
  unfold State.takeSeek
  dsimp only
  repeat' first
    | with_reducible assumption | with_reducible apply Retains.only (State.tellReason_only _ _ _ _)
    | with_reducible apply State.foundOrBlock_retains
    | with_reducible apply Retains.only (State.answerSeek_only _ _ _ _) | split
    | with_reducible refine Retains.mk_upd ?_ | (with_reducible show Part.apart _ = true; decide)

theorem State.takeReady_retains {lo : Loose} {a s : State} (h : Retains lo a s) (src : Nat) :
    Retains lo a (State.takeReady s src) := by
  unfold State.takeReady
  repeat' first
    | with_reducible assumption | with_reducible apply Retains.only (State.sendTwin_only _ _ _ _)
    | with_reducible apply Retains.only (State.pairUp_only _) | with_reducible apply State.releaseHeld_retains | split
    | with_reducible refine Retains.mk_upd ?_ | (with_reducible show Part.apart _ = true; decide)

theorem State.takeOver_retains {a s : State} (h : Retains .rails a s) (p : List Byte) : Retains .rails a (s.takeOver p) := by
  unfold State.takeOver
  dsimp only
  repeat' first
    | with_reducible assumption | with_reducible refine Retains.foldl _ ?_ (fun u x hu => ?_)
    | with_reducible apply State.updateTwok_retains | with_reducible apply State.enHigh_retains
    | with_reducible apply State.setLatch_retains | with_reducible apply Retains.only (State.trimNominal_only _ _)
    | with_reducible apply State.enterRunning_retains | split | with_reducible refine Retains.mk_upd ?_
    | (with_reducible show Part.apart _ = true; decide)

theorem State.takeCommit_retains {a s : State} (h : Retains .rails a s) (src : Nat) : Retains .rails a (s.takeCommit src) := by
  unfold State.takeCommit
  split
  · exact Retains.ite (State.releaseHeld_retains (Retains.only (State.pairUp_only _) (by decide) (State.takeOver_retains h _))) h
  · exact h

theorem State.joinFails_retains {lo : Loose} {a s : State} (h : Retains lo a s) : Retains lo a (State.joinFails s) := by
  unfold State.joinFails
  repeat' first
    | with_reducible assumption | with_reducible apply State.releaseHeld_retains
    | with_reducible refine Retains.mk_upd ?_

theorem State.serveFails_retains {lo : Loose} {a s : State} (h : Retains lo a s) (reason : Nat) :
    Retains lo a (State.serveFails s reason) := by
  unfold State.serveFails
  dsimp only
  repeat' first
    | with_reducible assumption | with_reducible apply Retains.only (State.diverge_only _)
    | with_reducible apply State.releaseHeld_retains | split | with_reducible refine Retains.mk_upd ?_
    | (with_reducible show Part.apart _ = true; decide)

theorem State.takeAbort_retains {lo : Loose} {a s : State} (h : Retains lo a s) (src : Nat) (reason : Nat) :
    Retains lo a (State.takeAbort s src reason) := by
  unfold State.takeAbort
  dsimp only
  repeat' first
    | with_reducible assumption | with_reducible apply State.joinFails_retains
    | with_reducible apply State.serveFails_retains | with_reducible apply Retains.only (State.aloneAgain_only _ _)
    | split | with_reducible refine Retains.mk_upd ?_ | (with_reducible show Part.apart _ = true; decide)

theorem State.takeRequest_retains {lo : Loose} {a s : State} (h : Retains lo a s) (p : List Byte) :
    Retains lo a (State.takeRequest s p) := by
  unfold State.takeRequest
  repeat' first
    | with_reducible assumption | with_reducible apply State.onRequest_retains
    | with_reducible apply State.offRequest_retains | split | with_reducible refine Retains.mk_upd ?_

theorem State.takeShutdown_retains {lo : Loose} {a s : State} (h : Retains lo a s) (src : Nat) (p : List Byte) :
    Retains lo a (State.takeShutdown s src p) := by
  unfold State.takeShutdown
  repeat' first
    | with_reducible assumption | with_reducible apply Retains.only (State.matchStop_only _ _)
    | with_reducible apply Retains.only (State.noteStop_only _ _) | with_reducible apply State.receiveAs_retains
    | split | with_reducible refine Retains.mk_upd ?_ | (with_reducible show Part.apart _ = true; decide)

end Sys2Proof.Machine
end

section
/-! SUPPORT. The fault latch, the fault records and the rails through each row (O57, O60). -/

set_option Elab.async false

namespace Sys2Proof.Machine

theorem execRefclkLost_retains (s : State) : Leads (Retains .none s) (execRefclkLost s) := by
  unfold execRefclkLost
  dsimp only
  repeat' first
    | with_reducible exact Retains.refl _ _ | with_reducible refine Leads.next ?_
    | with_reducible apply Retains.only (State.irqCk_only _ _) | with_reducible apply State.startRelock_retains
    | split | with_reducible refine Retains.mk_upd ?_ | (with_reducible show Part.apart _ = true; decide)

theorem execRefclkBack_retains (s : State) : Leads (Retains .none s) (execRefclkBack s) := by
  unfold execRefclkBack
  dsimp only
  repeat' first
    | with_reducible exact Retains.refl _ _ | with_reducible refine Leads.next ?_
    | with_reducible apply State.startRelock_retains | split | with_reducible refine Retains.mk_upd ?_

theorem execPllLock_retains (s : State) : Leads (Retains .none s) (execPllLock s) := by
  unfold execPllLock
  dsimp only
  repeat' first
    | with_reducible exact Retains.refl _ _ | with_reducible refine Leads.next ?_
    | with_reducible apply Retains.only (State.irqCk_only _ _)
    | with_reducible apply Retains.only (State.outsRun_only _) | split | with_reducible refine Retains.mk_upd ?_
    | (with_reducible show Part.apart _ = true; decide)

theorem execRelockFail_retains (s : State) : Leads (Retains .none s) (execRelockFail s) := by
  unfold execRelockFail
  dsimp only
  repeat' first
    | with_reducible exact Retains.refl _ _ | with_reducible refine Leads.next ?_
    | with_reducible apply Retains.only (State.till_only _ _)
    | with_reducible apply Retains.only (State.irqCk_only _ _) | with_reducible apply State.receiveCause_retains
    | split | with_reducible refine Retains.mk_upd ?_ | (with_reducible show Part.apart _ = true; decide)

theorem execRelockRetry_retains (s : State) : Leads (Retains .none s) (execRelockRetry s) := by
  unfold execRelockRetry
  dsimp only
  repeat' first
    | with_reducible exact Retains.refl _ _ | with_reducible refine Leads.next ?_
    | with_reducible apply Retains.only (State.till_only _ _) | split | with_reducible refine Retains.mk_upd ?_
    | (with_reducible show Part.apart _ = true; decide)

theorem execPllLossOfLock_retains (s : State) : Leads (Retains .none s) (execPllLossOfLock s) := by
  unfold execPllLossOfLock
  repeat' first
    | with_reducible exact Retains.refl _ _ | with_reducible refine Leads.next ?_
    | with_reducible apply State.startRelock_retains | split | with_reducible refine Retains.mk_upd ?_

theorem execRcRatioMeasure_retains (ratio : Nat) (s : State) :
    Leads (Retains .none s) (execRcRatioMeasure ratio s) := by
  unfold execRcRatioMeasure
  repeat' first
    | with_reducible exact Retains.refl _ _ | with_reducible refine Leads.next ?_ | split
    | with_reducible refine Retains.mk_upd ?_

theorem execX32CrystalFail_retains (s : State) : Leads (Retains .none s) (execX32CrystalFail s) := by
  unfold execX32CrystalFail
  dsimp only
  repeat' first
    | with_reducible exact Retains.refl _ _ | with_reducible refine Leads.next ?_
    | with_reducible apply Retains.only (State.irqCk_only _ _) | split | with_reducible refine Retains.mk_upd ?_
    | (with_reducible show Part.apart _ = true; decide)

theorem execTsyncEdge_retains (s : State) : Leads (Retains .none s) (execTsyncEdge s) := by
  unfold execTsyncEdge
  dsimp only
  repeat' first
    | with_reducible exact Retains.refl _ _ | with_reducible refine Leads.next ?_
    | with_reducible apply Retains.only (State.ignoreEvent_only _)
    | with_reducible apply Retains.only (State.refEvent_only _ _ _) | split | with_reducible refine Retains.mk_upd ?_
    | (with_reducible show Part.apart _ = true; decide)

theorem execHoldoverEntry_retains (s : State) : Leads (Retains .none s) (execHoldoverEntry s) := by
  unfold execHoldoverEntry
  dsimp only
  repeat' first
    | with_reducible exact Retains.refl _ _ | with_reducible refine Leads.next ?_
    | with_reducible apply Retains.only (State.till_only _ _)
    | with_reducible apply Retains.only (State.irqCk_only _ _) | split | with_reducible refine Retains.mk_upd ?_
    | (with_reducible show Part.apart _ = true; decide)

theorem execWholeSecond_retains (s : State) : Leads (Retains .none s) (execWholeSecond s) := by
  unfold execWholeSecond
  repeat' first
    | with_reducible exact Retains.refl _ _ | with_reducible refine Leads.next ?_
    | with_reducible apply Retains.only (State.tillStamp_only _ _)
    | with_reducible apply Retains.only (State.secondReached_only _) | split | with_reducible refine Retains.mk_upd ?_
    | (with_reducible show Part.apart _ = true; decide)

theorem execCkTimeLoRead_retains (s : State) : Leads (Retains .none s) (execCkTimeLoRead s) := by
  unfold execCkTimeLoRead
  repeat' first
    | with_reducible exact Retains.refl _ _ | with_reducible refine Leads.next ?_
    | with_reducible apply Retains.only (State.captureHi_only _) | split | with_reducible refine Retains.mk_upd ?_
    | (with_reducible show Part.apart _ = true; decide)

theorem execCkOutPhaseWrite_retains (out : BitVec 2) (steps : Byte) (s : State) :
    Leads (Retains .none s) (execCkOutPhaseWrite out steps s) := by
  unfold execCkOutPhaseWrite
  dsimp only
  repeat' first
    | with_reducible exact Retains.refl _ _ | with_reducible refine Leads.next ?_
    | with_reducible apply State.writeLive_retains | with_reducible refine Retains.mk_upd ?_

theorem execCrossingError_retains (crossing : BitVec 4) (s : State) :
    Leads (Retains .none s) (execCrossingError crossing s) := by
  unfold execCrossingError
  dsimp only
  repeat' first
    | with_reducible exact Retains.refl _ _ | with_reducible refine Leads.next ?_
    | with_reducible apply State.crossingReport_retains | split | with_reducible refine Retains.mk_upd ?_

theorem execClockStopped_retains (crossing : BitVec 4) (s : State) :
    Leads (Retains .none s) (execClockStopped crossing s) := by
  unfold execClockStopped
  dsimp only
  repeat' first
    | with_reducible exact Retains.refl _ _ | with_reducible refine Leads.next ?_
    | with_reducible apply State.enterCoppice_retains | with_reducible apply State.crossingReport_retains | split
    | with_reducible refine Retains.mk_upd ?_

theorem execCrossingResumes_retains (crossing : BitVec 4) (s : State) :
    Leads (Retains .none s) (execCrossingResumes crossing s) := by
  unfold execCrossingResumes
  dsimp only
  repeat' first
    | with_reducible exact Retains.refl _ _ | with_reducible refine Leads.next ?_
    | with_reducible apply State.coreSees_retains | split | with_reducible refine Retains.mk_upd ?_

theorem execGradeTPersistExpiry_retains (src : BitVec 8) (s : State) :
    Leads (Retains .none s) (execGradeTPersistExpiry src s) := by
  unfold execGradeTPersistExpiry
  dsimp only
  repeat' first
    | with_reducible exact Retains.refl _ _ | with_reducible refine Leads.next ?_
    | with_reducible apply Retains.only (State.till_only _ _) | with_reducible apply State.receive_retains | split
    | with_reducible refine Retains.mk_upd ?_ | (with_reducible show Part.apart _ = true; decide)

theorem execGraceDelayExpiry_retains (s : State) : Leads (Retains .none s) (execGraceDelayExpiry s) := by
  unfold execGraceDelayExpiry
  dsimp only
  repeat' first
    | with_reducible exact Retains.refl _ _ | with_reducible refine Leads.next ?_
    | with_reducible apply Retains.only (State.till_only _ _) | with_reducible apply State.tripNow_retains
    | with_reducible apply Retains.only (State.walkBegin_only _) | split | with_reducible refine Retains.mk_upd ?_
    | (with_reducible show Part.apart _ = true; decide)

theorem execTripDelayExpiry_retains (s : State) : Leads (Retains .none s) (execTripDelayExpiry s) := by
  unfold execTripDelayExpiry
  repeat' first
    | with_reducible exact Retains.refl _ _ | with_reducible refine Leads.next ?_
    | with_reducible apply Retains.only (State.till_only _ _) | with_reducible apply State.tripNow_retains | split
    | with_reducible refine Retains.mk_upd ?_ | (with_reducible show Part.apart _ = true; decide)

theorem execCoolingEntryDue_retains (s : State) : Leads (Retains .none s) (execCoolingEntryDue s) := by
  unfold execCoolingEntryDue
  repeat' first
    | with_reducible exact Retains.refl _ _ | with_reducible refine Leads.next ?_
    | with_reducible apply Retains.only (State.till_only _ _) | with_reducible apply State.walkDue_retains | split
    | with_reducible refine Retains.mk_upd ?_ | (with_reducible show Part.apart _ = true; decide)

theorem execWaitBelowMet_retains (s : State) : Leads (Retains .none s) (execWaitBelowMet s) := by
  unfold execWaitBelowMet
  repeat' first
    | with_reducible exact Retains.refl _ _ | with_reducible refine Leads.next ?_
    | with_reducible apply State.walkAct_retains | split | with_reducible refine Retains.mk_upd ?_

theorem execWaitBelowTimeout_retains (s : State) : Leads (Retains .none s) (execWaitBelowTimeout s) := by
  unfold execWaitBelowTimeout
  repeat' first
    | with_reducible exact Retains.refl _ _ | with_reducible refine Leads.next ?_
    | with_reducible apply Retains.only (State.till_only _ _)
    | with_reducible apply Retains.only (State.noteTimeout_only _)
    | with_reducible apply Retains.only (State.waitShard_only _ _) | with_reducible apply State.walkAct_retains
    | split | with_reducible refine Retains.mk_upd ?_ | (with_reducible show Part.apart _ = true; decide)

theorem execWalkerConversionDemand_retains (s : State) : Leads (Retains .none s) (execWalkerConversionDemand s) := by
  unfold execWalkerConversionDemand
  dsimp only
  repeat' first
    | with_reducible exact Retains.refl _ _ | with_reducible refine Leads.next ?_
    | with_reducible apply Retains.only (State.till_only _ _)
    | with_reducible apply Retains.only (State.demand_only _ _ _) | split | with_reducible refine Retains.mk_upd ?_
    | (with_reducible show Part.apart _ = true; decide)

theorem execCoolingSweep_retains (s : State) : Leads (Retains .none s) (execCoolingSweep s) := by
  unfold execCoolingSweep
  dsimp only
  repeat' first
    | with_reducible exact Retains.refl _ _ | with_reducible refine Leads.next ?_
    | with_reducible apply Retains.only (State.till_only _ _) | with_reducible apply State.sweepAll_retains
    | with_reducible apply Retains.only (State.wait_only _ _) | with_reducible apply State.coolingEnds_retains | split
    | with_reducible refine Retains.mk_upd ?_ | (with_reducible show Part.apart _ = true; decide)

theorem execReducedWalkEntry_retains (s : State) : Leads (Retains .none s) (execReducedWalkEntry s) := by
  unfold execReducedWalkEntry
  repeat' first
    | with_reducible exact Retains.refl _ _ | with_reducible refine Leads.next ?_
    | with_reducible apply Retains.only (State.till_only _ _) | with_reducible apply State.reducedSweep_retains
    | with_reducible apply State.walkAct_retains | with_reducible apply Retains.only (State.noteTimeout_only _)
    | with_reducible apply State.walkDue_retains | split | with_reducible refine Retains.mk_upd ?_
    | (with_reducible show Part.apart _ = true; decide)

theorem execFqPop_retains (s : State) : Leads (Retains .none s) (execFqPop s) := by
  unfold execFqPop
  repeat' first
    | with_reducible exact Retains.refl _ _ | with_reducible refine Leads.next ?_
    | with_reducible apply State.writeLive_retains | with_reducible refine Retains.mk_upd ?_

theorem execSpiWrite_retains (bytes : List Byte) (s : State) : Leads (Retains .none s) (execSpiWrite bytes s) := by
  have ht := Retains.only (State.clockOut_only s [s.statusByte]) (by decide) (Retains.refl .none s)
  unfold execSpiWrite
  generalize s.spirdy = ready
  exact Leads.ite (Leads.ite (Leads.next (State.arrive_retains ht _ _ _ _))
    (Leads.next (Retains.only (State.refuse127_only _ _ _ _ _) (by decide)
      (Retains.only (State.noteOverrun_only _) (by decide) ht)))) (Leads.next (Retains.refl _ s))

theorem execSpiRead_retains (count : Nat) (s : State) : Leads (Retains .none s) (execSpiRead count s) := by
  unfold execSpiRead
  dsimp only
  repeat' first
    | with_reducible exact Retains.refl _ _ | with_reducible refine Leads.next ?_
    | with_reducible apply Retains.only (State.clockOut_only _ _) | with_reducible apply State.resetLeft_retains
    | split | with_reducible refine Retains.mk_upd ?_ | (with_reducible show Part.apart _ = true; decide)

theorem execSpiStatus_retains (s : State) : Leads (Retains .none s) (execSpiStatus s) := by
  unfold execSpiStatus
  repeat' first
    | with_reducible exact Retains.refl _ _ | with_reducible refine Leads.next ?_
    | with_reducible apply Retains.only (State.clockOut_only _ _) | split | with_reducible refine Retains.mk_upd ?_
    | (with_reducible show Part.apart _ = true; decide)

theorem execSpiUnknownTransfer_retains (code : Byte) (count : Nat) (s : State) :
    Leads (Retains .none s) (execSpiUnknownTransfer code count s) := by
  unfold execSpiUnknownTransfer
  repeat' first
    | with_reducible exact Retains.refl _ _ | with_reducible refine Leads.next ?_
    | with_reducible apply Retains.only (State.clockOut_only _ _) | split | with_reducible refine Retains.mk_upd ?_
    | (with_reducible show Part.apart _ = true; decide)

theorem execVerificationComplete_retains (ring : Bool) (tag : BitVec 7) (s : State) :
    Leads (Retains .none s) (execVerificationComplete ring tag s) := by
  unfold execVerificationComplete
  repeat' first
    | with_reducible exact Retains.refl _ _ | with_reducible refine Leads.next ?_
    | with_reducible apply Retains.only (State.verified_only _ _) | with_reducible apply State.runStage5_retains
    | split | with_reducible refine Retains.mk_upd ?_ | (with_reducible show Part.apart _ = true; decide)

theorem execPartTimeout_retains (ring : Bool) (tag : BitVec 7) (s : State) :
    Leads (Retains .none s) (execPartTimeout ring tag s) := by
  unfold execPartTimeout
  repeat' first
    | with_reducible exact Retains.refl _ _ | with_reducible refine Leads.next ?_
    | with_reducible apply Retains.only (State.till_only _ _)
    | with_reducible apply Retains.only (State.countBad_only _ _) | with_reducible apply State.finish_retains
    | with_reducible apply State.runStage5_retains | split | with_reducible refine Retains.mk_upd ?_
    | (with_reducible show Part.apart _ = true; decide)

theorem execReplySigned_retains (ring : Bool) (tag : BitVec 7) (s : State) :
    Leads (Retains .none s) (execReplySigned ring tag s) := by
  unfold execReplySigned
  dsimp only
  repeat' first
    | with_reducible exact Retains.refl _ _ | with_reducible refine Leads.next ?_
    | with_reducible apply State.postSigned_retains | with_reducible apply Retains.only (State.takeFree_only _)
    | with_reducible apply State.flushSigning_retains | split | with_reducible refine Retains.mk_upd ?_
    | (with_reducible show Part.apart _ = true; decide)

theorem execReplyQueued_retains (s : State) : Leads (Retains .none s) (execReplyQueued s) := by
  unfold execReplyQueued
  dsimp only
  repeat' first
    | with_reducible exact Retains.refl _ _ | with_reducible refine Leads.next ?_
    | with_reducible apply Retains.only (State.dropCmd_only _ _ _) | with_reducible apply State.replyOut_retains
    | split | with_reducible refine Retains.mk_upd ?_ | (with_reducible show Part.apart _ = true; decide)

theorem execForwardTimeout_retains (tag : BitVec 7) (s : State) :
    Leads (Retains .none s) (execForwardTimeout tag s) := by
  unfold execForwardTimeout
  dsimp only
  repeat' first
    | with_reducible exact Retains.refl _ _ | with_reducible refine Leads.next ?_
    | with_reducible apply Retains.only (State.till_only _ _)
    | with_reducible apply Retains.only (State.dropFwd_only _ _) | with_reducible apply State.finish_retains
    | with_reducible apply State.answer_retains | split | with_reducible refine Retains.mk_upd ?_
    | (with_reducible show Part.apart _ = true; decide)

theorem execResetTakesEffect_retains (s : State) : Leads (Retains .none s) (execResetTakesEffect s) := by
  unfold execResetTakesEffect
  dsimp only
  repeat' first
    | with_reducible exact Retains.refl _ _ | with_reducible refine Leads.next ?_
    | with_reducible apply Retains.only (State.till_only _ _) | with_reducible apply State.deviceReset_retains | split
    | with_reducible refine Retains.mk_upd ?_ | (with_reducible show Part.apart _ = true; decide)

theorem execSnapshot_retains (s : State) : Leads (Retains .none s) (execSnapshot s) := by
  unfold execSnapshot
  repeat' first
    | with_reducible exact Retains.refl _ _ | with_reducible refine Leads.next ?_
    | with_reducible apply Retains.only (State.tillStamp_only _ _)
    | with_reducible apply Retains.only (State.capture_only _ _ _ _) | split | with_reducible refine Retains.mk_upd ?_
    | (with_reducible show Part.apart _ = true; decide)

theorem execShardCommit_retains (s : State) : Leads (Retains .none s) (execShardCommit s) := by
  unfold execShardCommit
  dsimp only
  repeat' first
    | with_reducible exact Retains.refl _ _ | with_reducible refine Leads.next ?_
    | with_reducible apply Retains.only (State.mramUsed_only _ _)
    | with_reducible apply Retains.only (State.commitTornFa_only _)
    | with_reducible apply Retains.only (State.commitFr_only _ _)
    | with_reducible apply Retains.only (State.reportDrops_only _) | split | with_reducible refine Retains.mk_upd ?_
    | (with_reducible show Part.apart _ = true; decide)

theorem execArchiveCopy_retains (s : State) (corrected : Nat) (lost : List (BitVec 6)) :
    Leads (Retains .none s) (execArchiveCopy s corrected lost) := by
  have hr := Retains.only (State.reach_only s 64) (by decide) (Retains.refl .none s)
  unfold execArchiveCopy
  dsimp only
  split
  · generalize s.reach 64 = u at hr ⊢
    have ht := Retains.only (State.countCorrected_only _ corrected) (by decide)
      (Retains.only (State.mramUsed_only _ true) (by decide) hr)
    split
    · split
      · exact Leads.next hr
      · refine Leads.next (Retains.only (State.reach_only _ _) (by decide) (Retains.only (State.copyHead_only _ _ _) (by decide) ?_))
        cases State.frPlace _ _ with
        | none => exact ht
        | some e => exact Retains.foldl _ ht fun v w hv => Retains.only (State.lostWord_only _ _ _ _) (by decide) hv
    · exact Leads.next hr
  · exact Leads.next (Retains.refl _ s)

theorem execScrubRead_retains (found : BlockRead) (s : State) : Leads (Retains .none s) (execScrubRead found s) := by
  unfold execScrubRead
  dsimp only
  repeat' first
    | with_reducible exact Retains.refl _ _ | with_reducible refine Leads.next ?_
    | with_reducible apply Retains.only (State.till_only _ _)
    | with_reducible apply Retains.only (State.mramUsed_only _ _)
    | with_reducible apply Retains.only (State.blockRead_only _ _ _ _) | with_reducible apply State.found_retains
    | split | with_reducible refine Retains.mk_upd ?_ | (with_reducible show Part.apart _ = true; decide)

theorem execVinRisesPast4v_retains (root twjoin twside pb mr : Bool) (s : State) :
    Leads (Retains .none s) (execVinRisesPast4v root twjoin twside pb mr s) := by
  unfold execVinRisesPast4v
  dsimp only
  repeat' first
    | with_reducible exact Retains.refl _ _ | with_reducible refine Leads.next ?_
    | with_reducible apply State.afterReset_retains | with_reducible apply State.updateHrst_retains | split
    | with_reducible refine Retains.mk_upd ?_

theorem execVinGood_retains (s : State) : Leads (Retains .none s) (execVinGood s) := by
  unfold execVinGood
  dsimp only
  repeat' first
    | with_reducible exact Retains.refl _ _ | with_reducible refine Leads.next ?_
    | with_reducible apply State.wakeUp_retains | with_reducible apply State.leaveStage1_retains | split
    | with_reducible refine Retains.mk_upd ?_

theorem execInputCollapse_retains (logDie : Bool) (s : State) (archive : Bool) :
    Leads (Retains .none s) (execInputCollapse logDie s archive) := by
  unfold execInputCollapse
  repeat' first
    | with_reducible exact Retains.refl _ _ | with_reducible refine Leads.next ?_
    | with_reducible apply State.collapse_retains | with_reducible refine Retains.mk_upd ?_

theorem execCommitSequenceEnd_retains (s : State) : Leads (Retains .none s) (execCommitSequenceEnd s) := by
  unfold execCommitSequenceEnd
  repeat' first
    | with_reducible exact Retains.refl _ _ | with_reducible refine Leads.next ?_
    | with_reducible apply State.finishCopy_retains | with_reducible apply Retains.only (State.commitList_only _ _ _)
    | with_reducible apply State.commitEnds_retains | split | with_reducible refine Retains.mk_upd ?_
    | (with_reducible show Part.apart _ = true; decide)

theorem execHoldUpFloor_retains (done words : Nat) (s : State) : Leads (Retains .none s) (execHoldUpFloor done words s) := by
  have hf (l : List Shard) (b : Bool) : Retains .none s (s.finishCopy.commitList l b) :=
    Retains.only (State.commitList_only _ _ _) (by decide) (State.finishCopy_retains (Retains.refl _ s))
  unfold execHoldUpFloor
  dsimp only
  generalize (if s.log.archiving then 1 else 0) = first
  split
  · split
    · exact Leads.next (State.commitEnds_retains (hf _ _) _)
    · split
      · exact Leads.next (State.commitEnds_retains (Retains.only (State.cutCopy_only _ _) (by decide)
          (Retains.only (State.endWindows_only _) (by decide) (Retains.refl _ s))) _)
      · refine Leads.next (State.commitEnds_retains ?_ _)
        cases (List.drop _ s.log.buffer).head? with
        | none => exact hf _ _
        | some x => exact Retains.only (State.cutShard_only _ x words) (by decide) (hf _ _)
  · exact Leads.next (Retains.refl _ s)

theorem execVinBelow4v_retains (s : State) : Leads (Retains .none s) (execVinBelow4v s) := by
  unfold execVinBelow4v
  dsimp only
  repeat' first
    | with_reducible exact Retains.refl _ _ | with_reducible refine Leads.next ?_
    | with_reducible apply State.collapse_retains | with_reducible apply State.enterOff_retains | split
    | with_reducible refine Retains.mk_upd ?_

theorem execStartupStageLate_retains (s : State) : Leads (Retains .none s) (execStartupStageLate s) := by
  unfold execStartupStageLate
  repeat' first
    | with_reducible exact Retains.refl _ _ | with_reducible refine Leads.next ?_
    | with_reducible apply Retains.only (State.till_only _ _) | with_reducible apply State.stageLate_retains | split
    | with_reducible refine Retains.mk_upd ?_ | (with_reducible show Part.apart _ = true; decide)

theorem execStartupStageComplete_retains (r : StageResult) (s : State) :
    Leads (Retains .none s) (execStartupStageComplete r s) := by
  unfold execStartupStageComplete
  repeat' first
    | with_reducible exact Retains.refl _ _ | with_reducible refine Leads.next ?_
    | with_reducible apply State.stageLate_retains | with_reducible apply State.stage1Work_retains
    | with_reducible apply State.stage2Work_retains | with_reducible apply State.stage3Work_retains
    | with_reducible apply State.stage4Work_retains | with_reducible apply State.arming_retains
    | with_reducible apply State.enterReady_retains | split | with_reducible refine Retains.mk_upd ?_

theorem execWakeTimerExpiry_retains (s : State) : Leads (Retains .none s) (execWakeTimerExpiry s) := by
  unfold execWakeTimerExpiry
  dsimp only
  repeat' first
    | with_reducible exact Retains.refl _ _ | with_reducible refine Leads.next ?_
    | with_reducible apply Retains.only (State.till_only _ _) | with_reducible apply State.wake_retains | split
    | with_reducible refine Retains.mk_upd ?_ | (with_reducible show Part.apart _ = true; decide)

theorem execWakePathComplete_retains (copyOk : Bool) (r : StageResult) (s : State) :
    Leads (Retains .none s) (execWakePathComplete copyOk r s) := by
  unfold execWakePathComplete
  dsimp only
  repeat' first
    | with_reducible exact Retains.refl _ _ | with_reducible refine Leads.next ?_
    | with_reducible apply Retains.only (State.pllStart_only _ _) | with_reducible apply State.configLoaded_retains
    | with_reducible apply State.examineLog_retains | with_reducible apply Retains.only (State.setTimeBase_only _)
    | with_reducible apply State.beginStage5_retains | with_reducible apply State.arming_retains
    | with_reducible apply State.enterReady_retains | with_reducible apply State.wakeFallback_retains | split
    | with_reducible refine Retains.mk_upd ?_ | (with_reducible show Part.apart _ = true; decide)

theorem execWakeSelfTestsComplete_retains (pass : Bool) (s : State) :
    Leads (Retains .none s) (execWakeSelfTestsComplete pass s) := by
  unfold execWakeSelfTestsComplete
  repeat' first
    | with_reducible exact Retains.refl _ _ | with_reducible refine Leads.next ?_
    | with_reducible apply State.pass_retains | split | with_reducible refine Retains.mk_upd ?_

theorem execVholdAndVinMeasurement_retains (vhold vin : Nat) (s : State) (seen : Seen) :
    Leads (Retains .none s) (execVholdAndVinMeasurement vhold vin s seen) := by
  unfold execVholdAndVinMeasurement
  dsimp only
  repeat' first
    | with_reducible exact Retains.refl _ _ | with_reducible refine Leads.next ?_
    | with_reducible apply Retains.only (State.takeSeen_only _ _)
    | with_reducible apply Retains.only (State.shortPulses_only _ _ _) | with_reducible apply State.vinBack_retains
    | with_reducible apply Retains.only (State.gated_only _ _)
    | with_reducible apply Retains.only (State.overflowed_only _ _) | split | with_reducible refine Retains.mk_upd ?_
    | (with_reducible show Part.apart _ = true; decide)

theorem execLogicDieLost_retains (s : State) : Leads (Retains .none s) (execLogicDieLost s) := by
  unfold execLogicDieLost
  repeat' first
    | with_reducible exact Retains.refl _ _ | with_reducible refine Leads.next ?_
    | with_reducible apply State.enterCoppice_retains | split | with_reducible refine Retains.mk_upd ?_

theorem execNopCmd_retains (s : State) : Leads (Retains .none s) (execNopCmd s) := by
  unfold execNopCmd
  repeat' first
    | with_reducible exact Retains.refl _ _ | with_reducible refine Leads.next ?_ | with_reducible assumption
    | with_reducible apply State.execute_retains | with_reducible apply State.ok_retains
    | with_reducible refine Retains.mk_upd ?_ | intro _

theorem execIdentify_retains (s : State) : Leads (Retains .none s) (execIdentify s) := by
  unfold execIdentify
  repeat' first
    | with_reducible exact Retains.refl _ _ | with_reducible refine Leads.next ?_ | with_reducible assumption
    | with_reducible apply State.execute_retains | with_reducible apply State.ok_retains
    | with_reducible refine Retains.mk_upd ?_ | intro _

theorem execReadRegs_retains (s : State) : Leads (Retains .none s) (execReadRegs s) := by
  unfold execReadRegs
  dsimp only
  repeat' first
    | with_reducible exact Retains.refl _ _ | with_reducible refine Leads.next ?_ | with_reducible assumption
    | with_reducible apply State.execute_retains | with_reducible apply Retains.only (State.captureHi_only _)
    | with_reducible apply Retains.only (State.afterRead_only _ _ _) | with_reducible apply State.ok_retains | split
    | with_reducible refine Retains.mk_upd ?_ | (with_reducible show Part.apart _ = true; decide) | intro _

theorem execLogRead_retains (s : State) (found : List BlockRead) : Leads (Retains .none s) (execLogRead s found) := by
  unfold execLogRead
  dsimp only
  repeat' first
    | with_reducible exact Retains.refl _ _ | with_reducible refine Leads.next ?_ | with_reducible assumption
    | with_reducible apply State.execute_retains | with_reducible apply Retains.only (State.logBlocks_only _ _ _)
    | with_reducible apply State.found_retains | with_reducible apply State.ok_retains
    | with_reducible refine Retains.mk_upd ?_ | (with_reducible show Part.apart _ = true; decide) | intro _

theorem execGetCert_retains (s : State) : Leads (Retains .none s) (execGetCert s) := by
  unfold execGetCert
  dsimp only
  repeat' first
    | with_reducible exact Retains.refl _ _ | with_reducible refine Leads.next ?_ | with_reducible assumption
    | with_reducible apply State.execute_retains | with_reducible apply State.ok_retains
    | with_reducible refine Retains.mk_upd ?_ | intro _

theorem execTimeRead_retains (s : State) : Leads (Retains .none s) (execTimeRead s) := by
  unfold execTimeRead
  repeat' first
    | with_reducible exact Retains.refl _ _ | with_reducible refine Leads.next ?_ | with_reducible assumption
    | with_reducible apply State.execute_retains | with_reducible apply State.ok_retains
    | with_reducible refine Retains.mk_upd ?_ | intro _

theorem execQueueStatus_retains (s : State) : Leads (Retains .none s) (execQueueStatus s) := by
  unfold execQueueStatus
  repeat' first
    | with_reducible exact Retains.refl _ _ | with_reducible refine Leads.next ?_ | with_reducible assumption
    | with_reducible apply State.execute_retains | with_reducible apply State.ok_retains
    | with_reducible refine Retains.mk_upd ?_ | intro _

theorem execSkv1200Id_retains (s : State) : Leads (Retains .none s) (execSkv1200Id s) := by
  unfold execSkv1200Id
  repeat' first
    | with_reducible exact Retains.refl _ _ | with_reducible refine Leads.next ?_ | with_reducible assumption
    | with_reducible apply State.execute_retains | with_reducible apply State.ok_retains
    | with_reducible refine Retains.mk_upd ?_ | intro _

theorem execSkv1200Status_retains (s : State) : Leads (Retains .none s) (execSkv1200Status s) := by
  unfold execSkv1200Status
  repeat' first
    | with_reducible exact Retains.refl _ _ | with_reducible refine Leads.next ?_ | with_reducible assumption
    | with_reducible apply State.execute_retains | with_reducible apply State.ok_retains | split
    | with_reducible refine Retains.mk_upd ?_ | intro _

theorem execSkv1200Rail_retains (s : State) : Leads (Retains .none s) (execSkv1200Rail s) := by
  unfold execSkv1200Rail
  repeat' first
    | with_reducible exact Retains.refl _ _ | with_reducible refine Leads.next ?_ | with_reducible assumption
    | with_reducible apply State.execute_retains | with_reducible apply State.ok_retains
    | with_reducible refine Retains.mk_upd ?_ | intro _

theorem execSkv1200FirstFault_retains (s : State) : Leads (Retains .none s) (execSkv1200FirstFault s) := by
  unfold execSkv1200FirstFault
  repeat' first
    | with_reducible exact Retains.refl _ _ | with_reducible refine Leads.next ?_ | with_reducible assumption
    | with_reducible apply State.execute_retains | with_reducible apply State.ok_retains
    | with_reducible refine Retains.mk_upd ?_ | intro _

theorem execOnCmd_retains (s : State) : Leads (Retains .none s) (execOnCmd s) := by
  unfold execOnCmd
  repeat' first
    | with_reducible exact Retains.refl _ _ | with_reducible refine Leads.next ?_ | with_reducible assumption
    | with_reducible apply State.execute_retains | with_reducible apply State.ok_retains
    | with_reducible apply State.onArises_retains | with_reducible apply State.onAccepted_retains
    | with_reducible apply Retains.only (State.mirror_only _ _ _) | with_reducible apply State.refuse_retains | split
    | with_reducible refine Retains.mk_upd ?_ | (with_reducible show Part.apart _ = true; decide) | intro _

theorem execOffCmd_retains (s : State) : Leads (Retains .none s) (execOffCmd s) := by
  unfold execOffCmd
  repeat' first
    | with_reducible exact Retains.refl _ _ | with_reducible refine Leads.next ?_ | with_reducible assumption
    | with_reducible apply State.execute_retains | with_reducible apply Retains.only (State.mirror_only _ _ _)
    | with_reducible apply State.ok_retains | with_reducible apply State.offRequest_retains
    | with_reducible refine Retains.mk_upd ?_ | (with_reducible show Part.apart _ = true; decide) | intro _

theorem execClearCmd_retains (s : State) : Leads (Retains .latch s) (execClearCmd s) := by
  unfold execClearCmd
  repeat' first
    | with_reducible exact Retains.refl _ _ | with_reducible refine Leads.next ?_ | with_reducible assumption
    | with_reducible apply State.execute_retains | with_reducible apply State.refuse_retains
    | with_reducible apply State.clearLatch_retains | with_reducible apply State.ok_retains
    | with_reducible apply State.onreqLevel_retains | split | with_reducible refine Retains.mk_upd ?_ | intro _

theorem execMarginCmd_retains (s : State) : Leads (Retains .none s) (execMarginCmd s) := by
  unfold execMarginCmd
  dsimp only
  repeat' first
    | with_reducible exact Retains.refl _ _ | with_reducible refine Leads.next ?_ | with_reducible assumption
    | with_reducible apply State.execute_retains | with_reducible apply State.refuse_retains
    | with_reducible apply Retains.only (State.marginTrim_only _ _ _) | with_reducible apply State.ok_retains
    | with_reducible apply State.marginPmbus_retains | split | with_reducible refine Retains.mk_upd ?_
    | (with_reducible show Part.apart _ = true; decide) | intro _

theorem execStandbyCmd_retains (s : State) : Leads (Retains .none s) (execStandbyCmd s) := by
  unfold execStandbyCmd
  repeat' first
    | with_reducible exact Retains.refl _ _ | with_reducible refine Leads.next ?_ | with_reducible assumption
    | with_reducible apply State.execute_retains | with_reducible apply State.enterStandby_retains
    | with_reducible apply State.refuse_retains | split | with_reducible refine Retains.mk_upd ?_ | intro _

theorem execResetCmd_retains (s : State) : Leads (Retains .none s) (execResetCmd s) := by
  unfold execResetCmd
  repeat' first
    | with_reducible exact Retains.refl _ _ | with_reducible refine Leads.next ?_ | with_reducible assumption
    | with_reducible apply State.execute_retains | with_reducible apply State.awaitReset_retains
    | with_reducible apply State.ok_retains | with_reducible apply State.refuse_retains | split
    | with_reducible refine Retains.mk_upd ?_ | intro _

theorem execDrainCmd_retains (s : State) : Leads (Retains .none s) (execDrainCmd s) := by
  unfold execDrainCmd
  dsimp only
  repeat' first
    | with_reducible exact Retains.refl _ _ | with_reducible refine Leads.next ?_ | with_reducible assumption
    | with_reducible apply State.execute_retains | with_reducible apply Retains.only (State.drainTo_only _ _ _)
    | with_reducible apply State.ok_retains | with_reducible apply State.refuse_retains | split
    | with_reducible refine Retains.mk_upd ?_ | (with_reducible show Part.apart _ = true; decide) | intro _

theorem execTimeSet_retains (s : State) : Leads (Retains .none s) (execTimeSet s) := by
  unfold execTimeSet
  dsimp only
  repeat' first
    | with_reducible exact Retains.refl _ _ | with_reducible refine Leads.next ?_ | with_reducible assumption
    | with_reducible apply State.execute_retains | with_reducible apply State.refuse_retains
    | with_reducible apply Retains.only (State.setTime_only _ _) | with_reducible apply State.ok_retains | split
    | with_reducible refine Retains.mk_upd ?_ | (with_reducible show Part.apart _ = true; decide) | intro _

theorem execWriteRegsClass1_retains (confirm : Confirm) (s : State) :
    Leads (Retains .none s) (execWriteRegsClass1 confirm s) := by
  unfold execWriteRegsClass1
  repeat' first
    | with_reducible exact Retains.refl _ _ | with_reducible refine Leads.next ?_ | with_reducible assumption
    | with_reducible apply State.execute_retains | with_reducible apply State.writeRegs_retains
    | with_reducible refine Retains.mk_upd ?_ | intro _

theorem execRegisterWrite_retains (cls : BitVec 2) (addr value : Word) (s : State) (confirm : Bool) :
    Leads (Retains .none s) (execRegisterWrite cls addr value s confirm) := by
  unfold execRegisterWrite
  repeat' first
    | with_reducible exact Retains.refl _ _ | with_reducible refine Leads.next ?_
    | with_reducible apply State.writeRow_retains | split | with_reducible refine Retains.mk_upd ?_

theorem execFailBitClear_retains (high : Bool) (bits : Word) (s : State) :
    Leads (Retains .none s) (execFailBitClear high bits s) := by
  unfold execFailBitClear
  repeat' first
    | with_reducible exact Retains.refl _ _ | with_reducible refine Leads.next ?_
    | with_reducible apply State.writeLive_retains | split | with_reducible refine Retains.mk_upd ?_

theorem execProgramLoad_retains (confirm : Confirm) (s : State) :
    Leads (Retains .none s) (execProgramLoad confirm s) := by
  unfold execProgramLoad
  dsimp only
  repeat' first
    | with_reducible exact Retains.refl _ _ | with_reducible refine Leads.next ?_ | with_reducible assumption
    | with_reducible apply State.execute_retains | with_reducible apply Retains.only (State.noteLoad_only _ _ _)
    | with_reducible apply State.refuse_retains | with_reducible apply State.confirmed_retains
    | with_reducible apply Retains.only (State.loadSteps_only _ _) | with_reducible apply State.programLoad_retains
    | split | with_reducible refine Retains.mk_upd ?_ | (with_reducible show Part.apart _ = true; decide) | intro _

theorem execTableLoad_retains (confirm : Confirm) (s : State) : Leads (Retains .none s) (execTableLoad confirm s) := by
  unfold execTableLoad
  dsimp only
  repeat' first
    | with_reducible exact Retains.refl _ _ | with_reducible refine Leads.next ?_ | with_reducible assumption
    | with_reducible apply State.execute_retains | with_reducible apply State.refuse_retains
    | with_reducible apply State.confirmed_retains | with_reducible apply State.tableLoad_retains | split
    | with_reducible refine Retains.mk_upd ?_ | intro _

theorem execBisqueClear_retains (s : State) : Leads (Retains .records s) (execBisqueClear s) := by
  unfold execBisqueClear
  dsimp only
  repeat' first
    | with_reducible exact Retains.refl _ _ | with_reducible refine Leads.next ?_ | with_reducible assumption
    | with_reducible apply State.execute_retains | with_reducible apply State.clearBisque_retains
    | with_reducible apply State.ok_retains | with_reducible apply State.refuse_retains | split
    | with_reducible refine Retains.mk_upd ?_ | intro _

theorem execWriteRegsClass2_retains (confirm : Confirm) (s : State) :
    Leads (Retains .none s) (execWriteRegsClass2 confirm s) := by
  unfold execWriteRegsClass2
  repeat' first
    | with_reducible exact Retains.refl _ _ | with_reducible refine Leads.next ?_ | with_reducible assumption
    | with_reducible apply State.execute_retains | with_reducible apply State.writeRegs_retains
    | with_reducible refine Retains.mk_upd ?_ | intro _

theorem execTakeOwnership_retains (confirm : Confirm) (s : State) :
    Leads (Retains .none s) (execTakeOwnership confirm s) := by
  unfold execTakeOwnership
  dsimp only
  repeat' first
    | with_reducible exact Retains.refl _ _ | with_reducible refine Leads.next ?_ | with_reducible assumption
    | with_reducible apply State.execute3_retains | with_reducible apply State.refuse_retains
    | with_reducible apply State.confirmed_retains | with_reducible apply Retains.only (State.putSec_only _ _)
    | with_reducible apply Retains.only (State.spoil_only _ _)
    | with_reducible apply Retains.only (State.cfgShard_only _ _ _ _ _) | with_reducible apply State.ok_retains
    | with_reducible apply Retains.only (State.ownerChanged_only _ _) | split
    | with_reducible refine Retains.mk_upd ?_ | (with_reducible show Part.apart _ = true; decide) | intro _

theorem execKeySlotWrite_retains (confirm : Confirm) (s : State) :
    Leads (Retains .none s) (execKeySlotWrite confirm s) := by
  unfold execKeySlotWrite
  dsimp only
  repeat' first
    | with_reducible exact Retains.refl _ _ | with_reducible refine Leads.next ?_ | with_reducible assumption
    | with_reducible apply State.execute3_retains | with_reducible apply State.refuse_retains
    | with_reducible apply State.confirmed_retains | with_reducible apply State.keysInForce_retains | split
    | with_reducible refine Retains.mk_upd ?_ | intro _

theorem execKeySlotClear_retains (confirm : Confirm) (s : State) :
    Leads (Retains .none s) (execKeySlotClear confirm s) := by
  unfold execKeySlotClear
  dsimp only
  repeat' first
    | with_reducible exact Retains.refl _ _ | with_reducible refine Leads.next ?_ | with_reducible assumption
    | with_reducible apply State.execute3_retains | with_reducible apply State.refuse_retains
    | with_reducible apply State.confirmed_retains | with_reducible apply State.keysInForce_retains | split
    | with_reducible refine Retains.mk_upd ?_ | intro _

theorem execQuorumSet_retains (confirm : Confirm) (s : State) : Leads (Retains .none s) (execQuorumSet confirm s) := by
  unfold execQuorumSet
  dsimp only
  repeat' first
    | with_reducible exact Retains.refl _ _ | with_reducible refine Leads.next ?_ | with_reducible assumption
    | with_reducible apply State.execute3_retains | with_reducible apply State.refuse_retains
    | with_reducible apply State.confirmed_retains | with_reducible apply State.keysInForce_retains | split
    | with_reducible refine Retains.mk_upd ?_ | intro _

theorem execDecommission_retains (confirm : Confirm) (s : State) :
    Leads (Retains .none s) (execDecommission confirm s) := by
  unfold execDecommission
  dsimp only
  repeat' first
    | with_reducible exact Retains.refl _ _ | with_reducible refine Leads.next ?_ | with_reducible assumption
    | with_reducible apply State.execute3_retains | with_reducible apply State.refuse_retains
    | with_reducible apply State.confirmed_retains
    | with_reducible apply Retains.only (State.decommissionShard_only _ _)
    | with_reducible apply Retains.only (State.putSec_only _ _)
    | with_reducible apply Retains.only (State.spoil_only _ _) | with_reducible apply State.ok_retains
    | with_reducible apply Retains.only (State.ownerChanged_only _ _) | split
    | with_reducible refine Retains.mk_upd ?_ | (with_reducible show Part.apart _ = true; decide) | intro _

theorem execSaggarWrite_retains (confirm : Confirm) (s : State) :
    Leads (Retains .none s) (execSaggarWrite confirm s) := by
  unfold execSaggarWrite
  repeat' first
    | with_reducible exact Retains.refl _ _ | with_reducible refine Leads.next ?_ | with_reducible assumption
    | with_reducible apply State.execute3_retains | with_reducible apply State.writeRegs_retains
    | with_reducible apply State.refuse_retains | split | with_reducible refine Retains.mk_upd ?_ | intro _

theorem execWriteRegsClass3_retains (confirm : Confirm) (s : State) :
    Leads (Retains .none s) (execWriteRegsClass3 confirm s) := by
  unfold execWriteRegsClass3
  repeat' first
    | with_reducible exact Retains.refl _ _ | with_reducible refine Leads.next ?_ | with_reducible assumption
    | with_reducible apply State.execute3_retains | with_reducible apply State.writeRegs_retains
    | with_reducible apply State.refuse_retains | split | with_reducible refine Retains.mk_upd ?_ | intro _

theorem execSaggarProgramLoad_retains (confirm : Confirm) (s : State) :
    Leads (Retains .none s) (execSaggarProgramLoad confirm s) := by
  unfold execSaggarProgramLoad
  dsimp only
  repeat' first
    | with_reducible exact Retains.refl _ _ | with_reducible refine Leads.next ?_ | with_reducible assumption
    | with_reducible apply State.execute3_retains | with_reducible apply Retains.only (State.noteSgLoad_only _ _ _)
    | with_reducible apply State.refuse_retains | with_reducible apply State.confirmed_retains
    | with_reducible apply Retains.only (State.loadSgSteps_only _ _)
    | with_reducible apply State.sgProgramLoad_retains | split | with_reducible refine Retains.mk_upd ?_
    | (with_reducible show Part.apart _ = true; decide) | intro _

theorem execHtableLoad_retains (confirm : Confirm) (s : State) :
    Leads (Retains .none s) (execHtableLoad confirm s) := by
  unfold execHtableLoad
  dsimp only
  repeat' first
    | with_reducible exact Retains.refl _ _ | with_reducible refine Leads.next ?_ | with_reducible assumption
    | with_reducible apply State.execute3_retains | with_reducible apply State.refuse_retains
    | with_reducible apply State.confirmed_retains | with_reducible apply State.tableLoad_retains | split
    | with_reducible refine Retains.mk_upd ?_ | intro _

theorem execCalibrationWrite_retains (confirm : Confirm) (s : State) :
    Leads (Retains .none s) (execCalibrationWrite confirm s) := by
  unfold execCalibrationWrite
  dsimp only
  repeat' first
    | with_reducible exact Retains.refl _ _ | with_reducible refine Leads.next ?_ | with_reducible assumption
    | with_reducible apply State.execute3_retains | with_reducible apply State.refuse_retains
    | with_reducible apply State.confirmed_retains | with_reducible apply Retains.only (State.calibrate_only _ _)
    | with_reducible apply Retains.only (State.cfgShard_only _ _ _ _ _) | with_reducible apply State.ok_retains
    | split | with_reducible refine Retains.mk_upd ?_ | (with_reducible show Part.apart _ = true; decide) | intro _

theorem execImageLoad_retains (confirm : Confirm) (s : State) : Leads (Retains .none s) (execImageLoad confirm s) := by
  unfold execImageLoad
  repeat' first
    | with_reducible exact Retains.refl _ _ | with_reducible refine Leads.next ?_ | with_reducible assumption
    | with_reducible apply State.execute3_retains | with_reducible apply State.refuse_retains
    | with_reducible apply Retains.only (State.setImage_only _ _) | with_reducible apply State.ok_retains
    | with_reducible apply State.imageEnd_retains | split | with_reducible refine Retains.mk_upd ?_
    | (with_reducible show Part.apart _ = true; decide) | intro _

theorem execImageCollectionTimeout_retains (s : State) : Leads (Retains .none s) (execImageCollectionTimeout s) := by
  unfold execImageCollectionTimeout
  repeat' first
    | with_reducible exact Retains.refl _ _ | with_reducible refine Leads.next ?_
    | with_reducible apply Retains.only (State.till_only _ _)
    | with_reducible apply Retains.only (State.setImage_only _ _) | split | with_reducible refine Retains.mk_upd ?_
    | (with_reducible show Part.apart _ = true; decide)

theorem execResetAfterImageLoad_retains (s : State) : Leads (Retains .none s) (execResetAfterImageLoad s) := by
  unfold execResetAfterImageLoad
  repeat' first
    | with_reducible exact Retains.refl _ _ | with_reducible refine Leads.next ?_
    | with_reducible apply Retains.only (State.till_only _ _) | with_reducible apply State.deviceReset_retains | split
    | with_reducible refine Retains.mk_upd ?_ | (with_reducible show Part.apart _ = true; decide)

theorem execMrAssert_retains (s : State) : Leads (Retains .none s) (execMrAssert s) := by
  unfold execMrAssert
  dsimp only
  repeat' first
    | with_reducible exact Retains.refl _ _ | with_reducible refine Leads.next ?_
    | with_reducible apply State.updateHrst_retains | with_reducible apply State.wake_retains | split
    | with_reducible refine Retains.mk_upd ?_

theorem execMrRelease_retains (s : State) : Leads (Retains .none s) (execMrRelease s) := by
  unfold execMrRelease
  repeat' first
    | with_reducible exact Retains.refl _ _ | with_reducible refine Leads.next ?_
    | with_reducible apply State.updateHrst_retains | split | with_reducible refine Retains.mk_upd ?_

theorem execHrstStretchEnd_retains (s : State) : Leads (Retains .none s) (execHrstStretchEnd s) := by
  unfold execHrstStretchEnd
  dsimp only
  repeat' first
    | with_reducible exact Retains.refl _ _ | with_reducible refine Leads.next ?_
    | with_reducible apply Retains.only (State.till_only _ _) | with_reducible apply State.updateHrst_retains | split
    | with_reducible refine Retains.mk_upd ?_ | (with_reducible show Part.apart _ = true; decide)

theorem execMrHoldReset_retains (s : State) : Leads (Retains .none s) (execMrHoldReset s) := by
  unfold execMrHoldReset
  dsimp only
  repeat' first
    | with_reducible exact Retains.refl _ _ | with_reducible refine Leads.next ?_
    | with_reducible apply Retains.only (State.till_only _ _) | with_reducible apply State.deviceReset_retains | split
    | with_reducible refine Retains.mk_upd ?_ | (with_reducible show Part.apart _ = true; decide)

theorem execOnreqRise_retains (s : State) : Leads (Retains .none s) (execOnreqRise s) := by
  unfold execOnreqRise
  dsimp only
  repeat' first
    | with_reducible exact Retains.refl _ _ | with_reducible refine Leads.next ?_
    | with_reducible apply State.wake_retains | with_reducible apply State.onArises_retains | split
    | with_reducible refine Retains.mk_upd ?_

theorem execOnreqFall_retains (s : State) : Leads (Retains .none s) (execOnreqFall s) := by
  unfold execOnreqFall
  dsimp only
  repeat' first
    | with_reducible exact Retains.refl _ _ | with_reducible refine Leads.next ?_
    | with_reducible apply Retains.only (State.mirror_only _ _ _) | with_reducible apply State.offRequest_retains
    | split | with_reducible refine Retains.mk_upd ?_ | (with_reducible show Part.apart _ = true; decide)

theorem execPbPress_retains (s : State) : Leads (Retains .none s) (execPbPress s) := by
  unfold execPbPress
  repeat' first
    | with_reducible exact Retains.refl _ _ | with_reducible refine Leads.next ?_
    | with_reducible apply Retains.only (State.setPb_only _ _ _ _) | split | with_reducible refine Retains.mk_upd ?_
    | (with_reducible show Part.apart _ = true; decide)

theorem execPbShortPress_retains (held : Nat) (s : State) : Leads (Retains .none s) (execPbShortPress held s) := by
  unfold execPbShortPress
  dsimp only
  repeat' first
    | with_reducible exact Retains.refl _ _ | with_reducible refine Leads.next ?_
    | with_reducible apply Retains.only (State.till_only _ _)
    | with_reducible apply Retains.only (State.setPb_only _ _ _ _) | with_reducible apply State.shortPress_retains
    | split | with_reducible refine Retains.mk_upd ?_ | (with_reducible show Part.apart _ = true; decide)

theorem execPbLongPress_retains (s : State) : Leads (Retains .none s) (execPbLongPress s) := by
  unfold execPbLongPress
  dsimp only
  repeat' first
    | with_reducible exact Retains.refl _ _ | with_reducible refine Leads.next ?_
    | with_reducible apply Retains.only (State.till_only _ _)
    | with_reducible apply Retains.only (State.setPb_only _ _ _ _) | with_reducible apply State.forceOff_retains
    | split | with_reducible refine Retains.mk_upd ?_ | (with_reducible show Part.apart _ = true; decide)

theorem execPbLockoutEnd_retains (s : State) : Leads (Retains .none s) (execPbLockoutEnd s) := by
  unfold execPbLockoutEnd
  repeat' first
    | with_reducible exact Retains.refl _ _ | with_reducible refine Leads.next ?_
    | with_reducible apply Retains.only (State.till_only _ _)
    | with_reducible apply Retains.only (State.setPb_only _ _ _ _) | split | with_reducible refine Retains.mk_upd ?_
    | (with_reducible show Part.apart _ = true; decide)

theorem execPbPressLongerThan50Ms_retains (s : State) : Leads (Retains .none s) (execPbPressLongerThan50Ms s) := by
  unfold execPbPressLongerThan50Ms
  repeat' first
    | with_reducible exact Retains.refl _ _ | with_reducible refine Leads.next ?_
    | with_reducible apply Retains.only (State.till_only _ _) | with_reducible apply State.wake_retains | split
    | with_reducible refine Retains.mk_upd ?_ | (with_reducible show Part.apart _ = true; decide)

theorem execOwnershipWindowClose_retains (released : Bool) (s : State) :
    Leads (Retains .none s) (execOwnershipWindowClose released s) := by
  unfold execOwnershipWindowClose
  dsimp only
  repeat' first
    | with_reducible exact Retains.refl _ _ | with_reducible refine Leads.next ?_
    | with_reducible apply Retains.only (State.setPb_only _ _ _ _)
    | with_reducible apply Retains.only (State.till_only _ _) | split | with_reducible refine Retains.mk_upd ?_
    | (with_reducible show Part.apart _ = true; decide)

theorem execTOffminElapsed_retains (s : State) : Leads (Retains .none s) (execTOffminElapsed s) := by
  unfold execTOffminElapsed
  dsimp only
  repeat' first
    | with_reducible exact Retains.refl _ _ | with_reducible refine Leads.next ?_
    | with_reducible apply Retains.only (State.till_only _ _) | with_reducible apply State.tryPending_retains | split
    | with_reducible refine Retains.mk_upd ?_ | (with_reducible show Part.apart _ = true; decide)

theorem execDieOverTemperature_retains (sensors : BitVec 4) (s : State) :
    Leads (Retains .none s) (execDieOverTemperature sensors s) := by
  unfold execDieOverTemperature
  dsimp only
  repeat' first
    | with_reducible exact Retains.refl _ _ | with_reducible refine Leads.next ?_ | with_reducible assumption
    | with_reducible refine Retains.foldl _ ?_ (fun u x hu => ?_) | with_reducible apply State.receiveCause_retains
    | split | with_reducible refine Retains.mk_upd ?_

theorem execTripiAssert_retains (levels : BitVec 4) (s : State) :
    Leads (Retains .none s) (execTripiAssert levels s) := by
  unfold execTripiAssert
  dsimp only
  repeat' first
    | with_reducible exact Retains.refl _ _ | with_reducible refine Leads.next ?_ | with_reducible assumption
    | with_reducible refine Retains.foldl _ ?_ (fun u x hu => ?_)
    | with_reducible apply Retains.only (State.noteSet_only _ _ _) | with_reducible apply State.receiveCause_retains
    | with_reducible apply Retains.only (State.tripPwm_only _ _) | split | with_reducible refine Retains.mk_upd ?_
    | (with_reducible show Part.apart _ = true; decide)

theorem execNopStep_retains (k : BitVec 3) (fetch : Fetch) (s : State) :
    Leads (Retains .none s) (execNopStep k fetch s) := by
  unfold execNopStep
  repeat' first
    | with_reducible exact Retains.refl _ _ | with_reducible refine Leads.next ?_ | with_reducible assumption
    | with_reducible apply State.engStep_retains | with_reducible apply State.endStep_retains
    | with_reducible refine Retains.mk_upd ?_ | intro _

theorem execEnableStep_retains (k : BitVec 3) (fetch : Fetch) (s : State) :
    Leads (Retains .rails s) (execEnableStep k fetch s) := by
  unfold execEnableStep
  dsimp only
  repeat' first
    | with_reducible exact Retains.refl _ _ | with_reducible refine Leads.next ?_ | with_reducible assumption
    | with_reducible apply State.engStep_retains | with_reducible apply State.enHigh_retains
    | with_reducible apply State.endStep_retains | with_reducible refine Retains.mk_upd ?_ | intro _

theorem execDisableStep_retains (k : BitVec 3) (fetch : Fetch) (s : State) :
    Leads (Retains .none s) (execDisableStep k fetch s) := by
  unfold execDisableStep
  dsimp only
  repeat' first
    | with_reducible exact Retains.refl _ _ | with_reducible refine Leads.next ?_ | with_reducible assumption
    | with_reducible apply State.engStep_retains | with_reducible apply Retains.only (State.openTick_only _)
    | with_reducible apply State.disable_retains | with_reducible apply State.endStep_retains
    | with_reducible refine Retains.mk_upd ?_ | (with_reducible show Part.apart _ = true; decide) | intro _

theorem execWaitStep_retains (k : BitVec 3) (fetch : Fetch) (s : State) :
    Leads (Retains .none s) (execWaitStep k fetch s) := by
  unfold execWaitStep
  dsimp only
  repeat' first
    | with_reducible exact Retains.refl _ _ | with_reducible refine Leads.next ?_ | with_reducible assumption
    | with_reducible apply State.engStep_retains | with_reducible apply Retains.only (State.waitIn_only _ _ _)
    | with_reducible apply Retains.only (State.wait_only _ _) | with_reducible refine Retains.mk_upd ?_
    | (with_reducible show Part.apart _ = true; decide) | intro _

theorem execWaitEnd_retains (k : BitVec 3) (s : State) : Leads (Retains .none s) (execWaitEnd k s) := by
  unfold execWaitEnd
  dsimp only
  repeat' first
    | with_reducible exact Retains.refl _ _ | with_reducible refine Leads.next ?_
    | with_reducible apply Retains.only (State.wait_only _ _)
    | with_reducible apply Retains.only (State.till_only _ _) | with_reducible apply State.endStep_retains | split
    | with_reducible refine Retains.mk_upd ?_ | (with_reducible show Part.apart _ = true; decide)

theorem execWaitforStep_retains (k : BitVec 3) (fetch : Fetch) (s : State) :
    Leads (Retains .none s) (execWaitforStep k fetch s) := by
  unfold execWaitforStep
  dsimp only
  repeat' first
    | with_reducible exact Retains.refl _ _ | with_reducible refine Leads.next ?_ | with_reducible assumption
    | with_reducible apply State.engStep_retains | with_reducible apply Retains.only (State.waitIn_only _ _ _)
    | with_reducible refine Retains.mk_upd ?_ | (with_reducible show Part.apart _ = true; decide) | intro _

theorem execWaitforSatisfied_retains (k : BitVec 3) (ctrig : BitVec 4) (s : State) :
    Leads (Retains .none s) (execWaitforSatisfied k ctrig s) := by
  unfold execWaitforSatisfied
  dsimp only
  repeat' first
    | with_reducible exact Retains.refl _ _ | with_reducible refine Leads.next ?_
    | with_reducible apply State.endStep_retains | split | with_reducible refine Retains.mk_upd ?_

theorem execWaitforTimeout_retains (k : BitVec 3) (s : State) (ctrig : BitVec 4) :
    Leads (Retains .none s) (execWaitforTimeout k s ctrig) := by
  unfold execWaitforTimeout
  dsimp only
  repeat' first
    | with_reducible exact Retains.refl _ _ | with_reducible refine Leads.next ?_
    | with_reducible apply Retains.only (State.till_only _ _)
    | with_reducible apply Retains.only (State.setTo_only _ _) | with_reducible apply State.endStep_retains | split
    | with_reducible refine Retains.mk_upd ?_ | (with_reducible show Part.apart _ = true; decide)

theorem execCheckStep_retains (k : BitVec 3) (fetch : Fetch) (s : State) :
    Leads (Retains .none s) (execCheckStep k fetch s) := by
  unfold execCheckStep
  dsimp only
  repeat' first
    | with_reducible exact Retains.refl _ _ | with_reducible refine Leads.next ?_ | with_reducible assumption
    | with_reducible refine Retains.foldl _ ?_ (fun u x hu => ?_) | with_reducible apply State.engStep_retains
    | with_reducible apply Retains.only (State.waitIn_only _ _ _)
    | with_reducible apply Retains.only (State.observeEngine_only _ _) | with_reducible refine Retains.mk_upd ?_
    | (with_reducible show Part.apart _ = true; decide) | intro _

theorem execCheckQualified_retains (k : BitVec 3) (rail : BitVec 6) (s : State) :
    Leads (Retains .none s) (execCheckQualified k rail s) := by
  unfold execCheckQualified
  dsimp only
  repeat' first
    | with_reducible exact Retains.refl _ _ | with_reducible refine Leads.next ?_
    | with_reducible apply Retains.only (State.till_only _ _)
    | with_reducible apply Retains.only (State.setEng_only _ _ _) | with_reducible apply State.checkEnd_retains
    | split | with_reducible refine Retains.mk_upd ?_ | (with_reducible show Part.apart _ = true; decide)

theorem execCheckDeadline_retains (k : BitVec 3) (s : State) : Leads (Retains .none s) (execCheckDeadline k s) := by
  unfold execCheckDeadline
  dsimp only
  repeat' first
    | with_reducible exact Retains.refl _ _ | with_reducible refine Leads.next ?_ | with_reducible assumption
    | with_reducible refine Retains.foldl _ ?_ (fun u x hu => ?_)
    | with_reducible apply Retains.only (State.till_only _ _)
    | with_reducible apply Retains.only (State.checkFail_only _ _ _) | with_reducible apply State.endStep_retains
    | split | with_reducible refine Retains.mk_upd ?_ | (with_reducible show Part.apart _ = true; decide)

theorem execRampStep_retains (k : BitVec 3) (fetch : Fetch) (s : State) :
    Leads (Retains .none s) (execRampStep k fetch s) := by
  unfold execRampStep
  dsimp only
  repeat' first
    | with_reducible exact Retains.refl _ _ | with_reducible refine Leads.next ?_ | with_reducible assumption
    | with_reducible apply State.engStep_retains | with_reducible apply State.rampRails_retains
    | with_reducible apply State.endStep_retains | with_reducible refine Retains.mk_upd ?_ | intro _

theorem execJumpStep_retains (k : BitVec 3) (fetch : Fetch) (s : State) :
    Leads (Retains .none s) (execJumpStep k fetch s) := by
  unfold execJumpStep
  dsimp only
  repeat' first
    | with_reducible exact Retains.refl _ _ | with_reducible refine Leads.next ?_ | with_reducible assumption
    | with_reducible apply State.engStep_retains | with_reducible apply Retains.only (State.setEng_only _ _ _)
    | with_reducible apply Retains.only (State.goStep_only _ _ _ _) | split | with_reducible refine Retains.mk_upd ?_
    | (with_reducible show Part.apart _ = true; decide) | intro _

theorem execJumpifStep_retains (k : BitVec 3) (fetch : Fetch) (s : State) :
    Leads (Retains .none s) (execJumpifStep k fetch s) := by
  unfold execJumpifStep
  dsimp only
  repeat' first
    | with_reducible exact Retains.refl _ _ | with_reducible refine Leads.next ?_ | with_reducible assumption
    | with_reducible apply State.engStep_retains | with_reducible apply Retains.only (State.setEng_only _ _ _)
    | with_reducible apply Retains.only (State.goStep_only _ _ _ _) | with_reducible apply State.endStep_retains
    | split | with_reducible refine Retains.mk_upd ?_ | (with_reducible show Part.apart _ = true; decide) | intro _

theorem execSignalStep_retains (k : BitVec 3) (fetch : Fetch) (s : State) :
    Leads (Retains .none s) (execSignalStep k fetch s) := by
  unfold execSignalStep
  dsimp only
  repeat' first
    | with_reducible exact Retains.refl _ _ | with_reducible refine Leads.next ?_ | with_reducible assumption
    | with_reducible apply State.engStep_retains | with_reducible apply Retains.only (State.clearFlags_only _ _)
    | with_reducible apply Retains.only (State.setFlags_only _ _) | with_reducible apply State.endStep_retains | split
    | with_reducible refine Retains.mk_upd ?_ | (with_reducible show Part.apart _ = true; decide) | intro _

theorem execSyncStep_retains (k : BitVec 3) (fetch : Fetch) (s : State) :
    Leads (Retains .none s) (execSyncStep k fetch s) := by
  unfold execSyncStep
  dsimp only
  repeat' first
    | with_reducible exact Retains.refl _ _ | with_reducible refine Leads.next ?_ | with_reducible assumption
    | with_reducible apply State.engStep_retains | with_reducible apply Retains.only (State.waitIn_only _ _ _)
    | with_reducible refine Retains.mk_upd ?_ | (with_reducible show Part.apart _ = true; decide) | intro _

theorem execSyncSatisfied_retains (k : BitVec 3) (s : State) : Leads (Retains .none s) (execSyncSatisfied k s) := by
  unfold execSyncSatisfied
  dsimp only
  repeat' first
    | with_reducible exact Retains.refl _ _ | with_reducible refine Leads.next ?_
    | with_reducible apply State.syncEnd_retains | split | with_reducible refine Retains.mk_upd ?_

theorem execSyncTimeout_retains (k : BitVec 3) (s : State) : Leads (Retains .none s) (execSyncTimeout k s) := by
  unfold execSyncTimeout
  dsimp only
  repeat' first
    | with_reducible exact Retains.refl _ _ | with_reducible refine Leads.next ?_
    | with_reducible apply Retains.only (State.till_only _ _) | with_reducible apply State.syncEnd_retains
    | with_reducible apply Retains.only (State.setTo_only _ _) | with_reducible apply State.endStep_retains | split
    | with_reducible refine Retains.mk_upd ?_ | (with_reducible show Part.apart _ = true; decide)

theorem execMarginStep_retains (k : BitVec 3) (fetch : Fetch) (s : State) :
    Leads (Retains .none s) (execMarginStep k fetch s) := by
  unfold execMarginStep
  dsimp only
  repeat' first
    | with_reducible exact Retains.refl _ _ | with_reducible refine Leads.next ?_ | with_reducible assumption
    | with_reducible apply State.engStep_retains | with_reducible apply State.claimTrim_retains
    | with_reducible apply State.marginPm_retains | with_reducible apply Retains.only (State.marginTrim_only _ _ _)
    | with_reducible apply State.endStep_retains | split | with_reducible refine Retains.mk_upd ?_
    | (with_reducible show Part.apart _ = true; decide) | intro _

theorem execTrimStep_retains (k : BitVec 3) (fetch : Fetch) (s : State) :
    Leads (Retains .none s) (execTrimStep k fetch s) := by
  unfold execTrimStep
  dsimp only
  repeat' first
    | with_reducible exact Retains.refl _ _ | with_reducible refine Leads.next ?_ | with_reducible assumption
    | with_reducible apply State.engStep_retains | with_reducible apply State.claimTrim_retains
    | with_reducible apply Retains.only (State.applyTrim_only _ _ _ _)
    | with_reducible apply Retains.only (State.setEng_only _ _ _) | with_reducible apply State.endStep_retains
    | with_reducible refine Retains.mk_upd ?_ | (with_reducible show Part.apart _ = true; decide) | intro _

theorem execSnapStep_retains (k : BitVec 3) (fetch : Fetch) (s : State) :
    Leads (Retains .none s) (execSnapStep k fetch s) := by
  unfold execSnapStep
  dsimp only
  repeat' first
    | with_reducible exact Retains.refl _ _ | with_reducible refine Leads.next ?_ | with_reducible assumption
    | with_reducible apply State.engStep_retains | with_reducible apply Retains.only (State.capture_only _ _ _ _)
    | with_reducible apply State.endStep_retains | with_reducible refine Retains.mk_upd ?_
    | (with_reducible show Part.apart _ = true; decide) | intro _

theorem execPwmStep_retains (k : BitVec 3) (fetch : Fetch) (s : State) :
    Leads (Retains .none s) (execPwmStep k fetch s) := by
  unfold execPwmStep
  dsimp only
  repeat' first
    | with_reducible exact Retains.refl _ _ | with_reducible refine Leads.next ?_ | with_reducible assumption
    | with_reducible apply State.engStep_retains | with_reducible apply State.claimPwm_retains
    | with_reducible apply Retains.only (State.pwmAct_only _ _) | with_reducible apply State.endStep_retains | split
    | with_reducible refine Retains.mk_upd ?_ | (with_reducible show Part.apart _ = true; decide) | intro _

theorem execHaltStep_retains (k : BitVec 3) (fetch : Fetch) (s : State) :
    Leads (Retains .none s) (execHaltStep k fetch s) := by
  unfold execHaltStep
  dsimp only
  repeat' first
    | with_reducible exact Retains.refl _ _ | with_reducible refine Leads.next ?_ | with_reducible assumption
    | with_reducible apply State.engStep_retains | with_reducible apply State.halt_retains
    | with_reducible refine Retains.mk_upd ?_ | intro _

theorem execStepBudgetExpiry_retains (k : BitVec 3) (s : State) :
    Leads (Retains .none s) (execStepBudgetExpiry k s) := by
  unfold execStepBudgetExpiry
  dsimp only
  repeat' first
    | with_reducible exact Retains.refl _ _ | with_reducible refine Leads.next ?_
    | with_reducible apply Retains.only (State.till_only _ _) | with_reducible apply State.engineError_retains | split
    | with_reducible refine Retains.mk_upd ?_ | (with_reducible show Part.apart _ = true; decide)

theorem execTimeBudgetExpiry_retains (k : BitVec 3) (s : State) :
    Leads (Retains .none s) (execTimeBudgetExpiry k s) := by
  unfold execTimeBudgetExpiry
  dsimp only
  repeat' first
    | with_reducible exact Retains.refl _ _ | with_reducible refine Leads.next ?_
    | with_reducible apply Retains.only (State.till_only _ _) | with_reducible apply State.engineError_retains | split
    | with_reducible refine Retains.mk_upd ?_ | (with_reducible show Part.apart _ = true; decide)

theorem execPmbusSequenceEnd_retains (rail : BitVec 6) (s : State) :
    Leads (Retains .none s) (execPmbusSequenceEnd rail s) := by
  unfold execPmbusSequenceEnd
  dsimp only
  repeat' first
    | with_reducible exact Retains.refl _ _ | with_reducible refine Leads.next ?_
    | with_reducible apply Retains.only (State.setPmb_only _ _ _) | with_reducible apply State.marginEnd_retains
    | with_reducible apply State.marginDone_retains | split | with_reducible refine Retains.mk_upd ?_
    | (with_reducible show Part.apart _ = true; decide)

theorem execPeriodStart_retains (c : BitVec 4) (s : State) : Leads (Retains .none s) (execPeriodStart c s) := by
  unfold execPeriodStart
  dsimp only
  repeat' first
    | with_reducible exact Retains.refl _ _ | with_reducible refine Leads.next ?_
    | with_reducible apply Retains.only (State.wait_only _ _)
    | with_reducible apply Retains.only (State.pwSettle_only _)
    | with_reducible apply Retains.only (State.keepWrap_only _)
    | with_reducible apply Retains.only (State.zeroCounter_only _ _)
    | with_reducible apply Retains.only (State.periodStart_only _ _) | split | with_reducible refine Retains.mk_upd ?_
    | (with_reducible show Part.apart _ = true; decide)

theorem execCompareMatch_retains (c : BitVec 4) (s : State) : Leads (Retains .none s) (execCompareMatch c s) := by
  unfold execCompareMatch
  dsimp only
  repeat' first
    | with_reducible exact Retains.refl _ _ | with_reducible refine Leads.next ?_
    | with_reducible apply Retains.only (State.wait_only _ _)
    | with_reducible apply Retains.only (State.pwSettle_only _)
    | with_reducible apply Retains.only (State.drive_only _ _) | split | with_reducible refine Retains.mk_upd ?_
    | (with_reducible show Part.apart _ = true; decide)

theorem execDeadTimeEnd_retains (c : BitVec 4) (s : State) : Leads (Retains .none s) (execDeadTimeEnd c s) := by
  unfold execDeadTimeEnd
  dsimp only
  repeat' first
    | with_reducible exact Retains.refl _ _ | with_reducible refine Leads.next ?_
    | with_reducible apply Retains.only (State.till_only _ _)
    | with_reducible apply Retains.only (State.setCh_only _ _ _) | split | with_reducible refine Retains.mk_upd ?_
    | (with_reducible show Part.apart _ = true; decide)

theorem execPwmTriggerCompare_retains (c : BitVec 4) (j : BitVec 1) (s : State) :
    Leads (Retains .none s) (execPwmTriggerCompare c j s) := by
  unfold execPwmTriggerCompare
  dsimp only
  repeat' first
    | with_reducible exact Retains.refl _ _ | with_reducible refine Leads.next ?_
    | with_reducible apply Retains.only (State.wait_only _ _)
    | with_reducible apply Retains.only (State.pwSettle_only _)
    | with_reducible apply Retains.only (State.fireTrigger_only _ _ _) | split
    | with_reducible refine Retains.mk_upd ?_ | (with_reducible show Part.apart _ = true; decide)

theorem execPwmsoEnd_retains (s : State) : Leads (Retains .none s) (execPwmsoEnd s) := by
  unfold execPwmsoEnd
  dsimp only
  repeat' first
    | with_reducible exact Retains.refl _ _ | with_reducible refine Leads.next ?_
    | with_reducible apply Retains.only (State.till_only _ _) | split | with_reducible refine Retains.mk_upd ?_
    | (with_reducible show Part.apart _ = true; decide)

theorem execPwmsiEdge_retains (s : State) : Leads (Retains .none s) (execPwmsiEdge s) := by
  unfold execPwmsiEdge
  repeat' first
    | with_reducible exact Retains.refl _ _ | with_reducible refine Leads.next ?_ | with_reducible assumption
    | with_reducible refine Retains.foldl _ ?_ (fun u x hu => ?_)
    | with_reducible apply Retains.only (State.loadCh_only _ _)
    | with_reducible apply Retains.only (State.pwSettle_only _) | split | with_reducible refine Retains.mk_upd ?_
    | (with_reducible show Part.apart _ = true; decide)

theorem execChannelStart_retains (c : BitVec 4) (s : State) : Leads (Retains .none s) (execChannelStart c s) := by
  unfold execChannelStart
  repeat' first
    | with_reducible exact Retains.refl _ _ | with_reducible refine Leads.next ?_
    | with_reducible apply State.writeLive_retains | with_reducible refine Retains.mk_upd ?_

theorem execChannelStop_retains (c : BitVec 4) (s : State) : Leads (Retains .none s) (execChannelStop c s) := by
  unfold execChannelStop
  repeat' first
    | with_reducible exact Retains.refl _ _ | with_reducible refine Leads.next ?_
    | with_reducible apply State.writeLive_retains | with_reducible refine Retains.mk_upd ?_

theorem execLoadAll_retains (s : State) : Leads (Retains .none s) (execLoadAll s) := by
  unfold execLoadAll
  repeat' first
    | with_reducible exact Retains.refl _ _ | with_reducible refine Leads.next ?_
    | with_reducible apply State.writeLive_retains | with_reducible refine Retains.mk_upd ?_

theorem execPwmTrip_retains (source : BitVec 4) (s : State) : Leads (Retains .none s) (execPwmTrip source s) := by
  unfold execPwmTrip
  dsimp only
  repeat' first
    | with_reducible exact Retains.refl _ _ | with_reducible refine Leads.next ?_
    | with_reducible apply Retains.only (State.tripiPulse_only _ _)
    | with_reducible apply Retains.only (State.tripPwm_only _ _) | split | with_reducible refine Retains.mk_upd ?_
    | (with_reducible show Part.apart _ = true; decide)

theorem execTripLatchClear_retains (bits : BitVec 16) (s : State) :
    Leads (Retains .none s) (execTripLatchClear bits s) := by
  unfold execTripLatchClear
  repeat' first
    | with_reducible exact Retains.refl _ _ | with_reducible refine Leads.next ?_
    | with_reducible apply State.writeLive_retains | with_reducible refine Retains.mk_upd ?_

theorem execTripiSeenClear_retains (bits : BitVec 4) (s : State) :
    Leads (Retains .none s) (execTripiSeenClear bits s) := by
  unfold execTripiSeenClear
  repeat' first
    | with_reducible exact Retains.refl _ _ | with_reducible refine Leads.next ?_
    | with_reducible apply State.writeLive_retains | with_reducible refine Retains.mk_upd ?_

theorem execReceiverLock_retains (port : Link) (s : State) : Leads (Retains .none s) (execReceiverLock port s) := by
  unfold execReceiverLock
  repeat' first
    | with_reducible exact Retains.refl _ _ | with_reducible refine Leads.next ?_
    | with_reducible apply Retains.only (State.setLink_only _ _ _) | split | with_reducible refine Retains.mk_upd ?_
    | (with_reducible show Part.apart _ = true; decide)

theorem execLinkUp_retains (port : Link) (s : State) : Leads (Retains .none s) (execLinkUp port s) := by
  unfold execLinkUp
  dsimp only
  repeat' first
    | with_reducible exact Retains.refl _ _ | with_reducible refine Leads.next ?_
    | with_reducible apply Retains.only (State.setLink_only _ _ _)
    | with_reducible apply Retains.only (State.setWrap_only _ _ _)
    | with_reducible apply Retains.only (State.linkState_only _)
    | with_reducible apply Retains.only (State.irqGl_only _ _) | split | with_reducible refine Retains.mk_upd ?_
    | (with_reducible show Part.apart _ = true; decide)

theorem execLinkDown_retains (port : Link) (s : State) : Leads (Retains .none s) (execLinkDown port s) := by
  unfold execLinkDown
  dsimp only
  repeat' first
    | with_reducible exact Retains.refl _ _ | with_reducible refine Leads.next ?_
    | with_reducible apply Retains.only (State.setLink_only _ _ _)
    | with_reducible apply Retains.only (State.setWrap_only _ _ _)
    | with_reducible apply Retains.only (State.irqGl_only _ _) | split | with_reducible refine Retains.mk_upd ?_
    | (with_reducible show Part.apart _ = true; decide)

theorem execUnwrap_retains (port : Link) (s : State) : Leads (Retains .none s) (execUnwrap port s) := by
  unfold execUnwrap
  repeat' first
    | with_reducible exact Retains.refl _ _ | with_reducible refine Leads.next ?_
    | with_reducible apply Retains.only (State.till_only _ _)
    | with_reducible apply Retains.only (State.setWrap_only _ _ _) | split | with_reducible refine Retains.mk_upd ?_
    | (with_reducible show Part.apart _ = true; decide)

theorem execHorn_retains (port : Link) (orig : BitVec 12) (seq : BitVec 4) (s : State) :
    Leads (Retains .none s) (execHorn port orig seq s) := by
  unfold execHorn
  repeat' first
    | with_reducible exact Retains.refl _ _ | with_reducible refine Leads.next ?_
    | with_reducible apply Retains.only (State.passHorn_only _ _ _ _) | with_reducible apply State.hornReaches_retains
    | split | with_reducible refine Retains.mk_upd ?_ | (with_reducible show Part.apart _ = true; decide)

theorem execCommandFrame_retains (f : Arrival) (s : State) : Leads (Retains .none s) (execCommandFrame f s) := by
  unfold execCommandFrame
  dsimp only
  repeat' first
    | with_reducible exact Retains.refl _ _ | with_reducible refine Leads.next ?_
    | with_reducible apply State.pass_retains | with_reducible apply State.arrive_retains | split
    | with_reducible refine Retains.mk_upd ?_

theorem execReplyFrame_retains (f : Arrival) (s : State) : Leads (Retains .none s) (execReplyFrame f s) := by
  unfold execReplyFrame
  dsimp only
  repeat' first
    | with_reducible exact Retains.refl _ _ | with_reducible refine Leads.next ?_
    | with_reducible apply State.pass_retains | with_reducible apply State.takeReply_retains | split
    | with_reducible refine Retains.mk_upd ?_

theorem execBroadcastFrame_retains (f : Arrival) (s : State) : Leads (Retains .none s) (execBroadcastFrame f s) := by
  unfold execBroadcastFrame
  repeat' first
    | with_reducible exact Retains.refl _ _ | with_reducible refine Leads.next ?_
    | with_reducible apply State.pass_retains | with_reducible apply State.bcastBack_retains
    | with_reducible apply State.passAgain_retains | with_reducible apply Retains.only (State.dropNote_only _ _)
    | with_reducible apply Retains.only (State.noteFrame_only _ _) | with_reducible apply State.arrive_retains | split
    | with_reducible refine Retains.mk_upd ?_ | (with_reducible show Part.apart _ = true; decide)

theorem execTimeFrame_retains (f : Arrival) (s : State) : Leads (Retains .none s) (execTimeFrame f s) := by
  unfold execTimeFrame
  repeat' first
    | with_reducible exact Retains.refl _ _ | with_reducible refine Leads.next ?_
    | with_reducible apply State.pass_retains | with_reducible apply Retains.only (State.meetRoot_only _ _)
    | with_reducible apply State.passAgain_retains | with_reducible apply Retains.only (State.dropNote_only _ _)
    | with_reducible apply State.passTime_retains | with_reducible apply Retains.only (State.noteFrame_only _ _)
    | with_reducible apply Retains.only (State.takeTime_only _ _) | split | with_reducible refine Retains.mk_upd ?_
    | (with_reducible show Part.apart _ = true; decide)

theorem execTimeSend_retains (s : State) : Leads (Retains .none s) (execTimeSend s) := by
  unfold execTimeSend
  dsimp only
  repeat' first
    | with_reducible exact Retains.refl _ _ | with_reducible refine Leads.next ?_
    | with_reducible apply Retains.only (State.till_only _ _)
    | with_reducible apply Retains.only (State.sendFrame_only _ _ _) | split | with_reducible refine Retains.mk_upd ?_
    | (with_reducible show Part.apart _ = true; decide)

theorem execIsolated_retains (s : State) : Leads (Retains .none s) (execIsolated s) := by
  unfold execIsolated
  dsimp only
  repeat' first
    | with_reducible exact Retains.refl _ _ | with_reducible refine Leads.next ?_
    | with_reducible apply Retains.only (State.till_only _ _)
    | with_reducible apply Retains.only (State.irqGl_only _ _) | split | with_reducible refine Retains.mk_upd ?_
    | (with_reducible show Part.apart _ = true; decide)

theorem execEnumerate_retains (s : State) : Leads (Retains .none s) (execEnumerate s) := by
  unfold execEnumerate
  repeat' first
    | with_reducible exact Retains.refl _ _ | with_reducible refine Leads.next ?_
    | with_reducible apply Retains.only (State.launchEnum_only _) | with_reducible refine Retains.mk_upd ?_
    | (with_reducible show Part.apart _ = true; decide)

theorem execTokenFrame_retains (f : Arrival) (s : State) : Leads (Retains .none s) (execTokenFrame f s) := by
  unfold execTokenFrame
  dsimp only
  repeat' first
    | with_reducible exact Retains.refl _ _ | with_reducible refine Leads.next ?_
    | with_reducible apply State.pass_retains | with_reducible apply Retains.only (State.meetRoot_only _ _)
    | with_reducible apply Retains.only (State.tokenBack_only _ _) | with_reducible apply State.meet_retains
    | with_reducible apply Retains.only (State.endConflict_only _)
    | with_reducible apply Retains.only (State.takeToken_only _ _)
    | with_reducible apply Retains.only (State.passFrame_only _ _ _) | split | with_reducible refine Retains.mk_upd ?_
    | (with_reducible show Part.apart _ = true; decide)

theorem execEnrolFrame_retains (f : Arrival) (s : State) : Leads (Retains .none s) (execEnrolFrame f s) := by
  unfold execEnrolFrame
  dsimp only
  repeat' first
    | with_reducible exact Retains.refl _ _ | with_reducible refine Leads.next ?_
    | with_reducible apply State.pass_retains | with_reducible apply Retains.only (State.takeEnrol_only _ _) | split
    | with_reducible refine Retains.mk_upd ?_ | (with_reducible show Part.apart _ = true; decide)

theorem execEnrolWaitEnd_retains (s : State) : Leads (Retains .none s) (execEnrolWaitEnd s) := by
  unfold execEnrolWaitEnd
  repeat' first
    | with_reducible exact Retains.refl _ _ | with_reducible refine Leads.next ?_
    | with_reducible apply Retains.only (State.till_only _ _)
    | with_reducible apply Retains.only (State.closeEnum_only _ _ _) | split | with_reducible refine Retains.mk_upd ?_
    | (with_reducible show Part.apart _ = true; decide)

theorem execClosureFrame_retains (f : Arrival) (s : State) : Leads (Retains .none s) (execClosureFrame f s) := by
  unfold execClosureFrame
  dsimp only
  repeat' first
    | with_reducible exact Retains.refl _ _ | with_reducible refine Leads.next ?_
    | with_reducible apply State.pass_retains | with_reducible apply Retains.only (State.meetRoot_only _ _)
    | with_reducible apply Retains.only (State.takeClosure_only _ _) | split | with_reducible refine Retains.mk_upd ?_
    | (with_reducible show Part.apart _ = true; decide)

theorem execForget_retains (s : State) : Leads (Retains .none s) (execForget s) := by
  unfold execForget
  repeat' first
    | with_reducible exact Retains.refl _ _ | with_reducible refine Leads.next ?_
    | with_reducible apply State.writeLive_retains | with_reducible refine Retains.mk_upd ?_

theorem execJoinFrame_retains (f : Arrival) (s : State) : Leads (Retains .none s) (execJoinFrame f s) := by
  unfold execJoinFrame
  dsimp only
  repeat' first
    | with_reducible exact Retains.refl _ _ | with_reducible refine Leads.next ?_
    | with_reducible apply State.pass_retains | with_reducible apply Retains.only (State.takeJoin_only _ _) | split
    | with_reducible refine Retains.mk_upd ?_ | (with_reducible show Part.apart _ = true; decide)

theorem execJoinResend_retains (s : State) : Leads (Retains .none s) (execJoinResend s) := by
  unfold execJoinResend
  repeat' first
    | with_reducible exact Retains.refl _ _ | with_reducible refine Leads.next ?_
    | with_reducible apply Retains.only (State.till_only _ _)
    | with_reducible apply Retains.only (State.sendJoin_only _) | split | with_reducible refine Retains.mk_upd ?_
    | (with_reducible show Part.apart _ = true; decide)

theorem execAdmitFrame_retains (f : Arrival) (s : State) : Leads (Retains .none s) (execAdmitFrame f s) := by
  unfold execAdmitFrame
  dsimp only
  repeat' first
    | with_reducible exact Retains.refl _ _ | with_reducible refine Leads.next ?_
    | with_reducible apply State.pass_retains | with_reducible apply Retains.only (State.takeAdmit_only _ _) | split
    | with_reducible refine Retains.mk_upd ?_ | (with_reducible show Part.apart _ = true; decide)

theorem execConflictFrame_retains (f : Arrival) (s : State) : Leads (Retains .none s) (execConflictFrame f s) := by
  unfold execConflictFrame
  dsimp only
  repeat' first
    | with_reducible exact Retains.refl _ _ | with_reducible refine Leads.next ?_
    | with_reducible apply State.pass_retains | with_reducible apply Retains.only (State.enterConflict_only _) | split
    | with_reducible refine Retains.mk_upd ?_ | (with_reducible show Part.apart _ = true; decide)

theorem execUnknownFrame_retains (f : Arrival) (s : State) : Leads (Retains .none s) (execUnknownFrame f s) := by
  unfold execUnknownFrame
  dsimp only
  repeat' first
    | with_reducible exact Retains.refl _ _ | with_reducible refine Leads.next ?_
    | with_reducible apply State.pass_retains | with_reducible apply Retains.only (State.setLink_only _ _ _) | split
    | with_reducible refine Retains.mk_upd ?_ | (with_reducible show Part.apart _ = true; decide)

theorem execComparatorCrossing_retains (src : BitVec 8) (fault : Bool) (s : State) :
    Leads (Retains .none s) (execComparatorCrossing src fault s) := by
  unfold execComparatorCrossing
  dsimp only
  repeat' first
    | with_reducible exact Retains.refl _ _ | with_reducible refine Leads.next ?_
    | with_reducible apply Retains.only (State.observe_only _ _ _) | with_reducible apply State.senseChange_retains
    | split | with_reducible refine Retains.mk_upd ?_ | (with_reducible show Part.apart _ = true; decide)

theorem execSettleHoldEnd_retains (src : BitVec 8) (s : State) : Leads (Retains .none s) (execSettleHoldEnd src s) := by
  unfold execSettleHoldEnd
  dsimp only
  repeat' first
    | with_reducible exact Retains.refl _ _ | with_reducible refine Leads.next ?_
    | with_reducible apply Retains.only (State.till_only _ _)
    | with_reducible apply Retains.only (State.setCmp_only _ _ _)
    | with_reducible apply Retains.only (State.endTest_only _) | with_reducible apply State.release_retains | split
    | with_reducible refine Retains.mk_upd ?_ | (with_reducible show Part.apart _ = true; decide)

theorem execRampDacStep_retains (src : BitVec 8) (s : State) : Leads (Retains .none s) (execRampDacStep src s) := by
  unfold execRampDacStep
  dsimp only
  repeat' first
    | with_reducible exact Retains.refl _ _ | with_reducible refine Leads.next ?_
    | with_reducible apply Retains.only (State.till_only _ _)
    | with_reducible apply Retains.only (State.setCmp_only _ _ _)
    | with_reducible apply Retains.only (State.advance_only _ _ _) | split | with_reducible refine Retains.mk_upd ?_
    | (with_reducible show Part.apart _ = true; decide)

theorem execPwmsyncEdge_retains (pin : BitVec 2) (s : State) : Leads (Retains .none s) (execPwmsyncEdge pin s) := by
  unfold execPwmsyncEdge
  repeat' first
    | with_reducible exact Retains.refl _ _ | with_reducible refine Leads.next ?_ | with_reducible assumption
    | with_reducible refine Retains.foldl _ ?_ (fun u x hu => ?_)
    | with_reducible apply Retains.only (State.syncEdge_only _ _) | split | with_reducible refine Retains.mk_upd ?_
    | (with_reducible show Part.apart _ = true; decide)

theorem execPwmsyncWindowOpen_retains (src : BitVec 8) (s : State) :
    Leads (Retains .none s) (execPwmsyncWindowOpen src s) := by
  unfold execPwmsyncWindowOpen
  dsimp only
  repeat' first
    | with_reducible exact Retains.refl _ _ | with_reducible refine Leads.next ?_
    | with_reducible apply Retains.only (State.till_only _ _)
    | with_reducible apply Retains.only (State.setCmp_only _ _ _) | split | with_reducible refine Retains.mk_upd ?_
    | (with_reducible show Part.apart _ = true; decide)

theorem execPwmsyncWindowClose_retains (src : BitVec 8) (s : State) :
    Leads (Retains .none s) (execPwmsyncWindowClose src s) := by
  unfold execPwmsyncWindowClose
  dsimp only
  repeat' first
    | with_reducible exact Retains.refl _ _ | with_reducible refine Leads.next ?_
    | with_reducible apply Retains.only (State.till_only _ _)
    | with_reducible apply Retains.only (State.setCmp_only _ _ _) | with_reducible apply State.release_retains | split
    | with_reducible refine Retains.mk_upd ?_ | (with_reducible show Part.apart _ = true; decide)

theorem execBlankingOverrun_retains (src : BitVec 8) (s : State) :
    Leads (Retains .none s) (execBlankingOverrun src s) := by
  unfold execBlankingOverrun
  dsimp only
  repeat' first
    | with_reducible exact Retains.refl _ _ | with_reducible refine Leads.next ?_
    | with_reducible apply Retains.only (State.till_only _ _)
    | with_reducible apply Retains.only (State.setCmp_only _ _ _) | with_reducible apply State.release_retains
    | with_reducible apply State.senseFault_retains | split | with_reducible refine Retains.mk_upd ?_
    | (with_reducible show Part.apart _ = true; decide)

theorem execEnableWindowOpen_retains (src : BitVec 8) (s : State) :
    Leads (Retains .none s) (execEnableWindowOpen src s) := by
  unfold execEnableWindowOpen
  dsimp only
  repeat' first
    | with_reducible exact Retains.refl _ _ | with_reducible refine Leads.next ?_
    | with_reducible apply Retains.only (State.till_only _ _)
    | with_reducible apply Retains.only (State.setCmp_only _ _ _) | split | with_reducible refine Retains.mk_upd ?_
    | (with_reducible show Part.apart _ = true; decide)

theorem execEnableWindowClose_retains (src : BitVec 8) (s : State) :
    Leads (Retains .none s) (execEnableWindowClose src s) := by
  unfold execEnableWindowClose
  dsimp only
  repeat' first
    | with_reducible exact Retains.refl _ _ | with_reducible refine Leads.next ?_
    | with_reducible apply Retains.only (State.till_only _ _)
    | with_reducible apply Retains.only (State.setCmp_only _ _ _) | with_reducible apply State.release_retains | split
    | with_reducible refine Retains.mk_upd ?_ | (with_reducible show Part.apart _ = true; decide)

theorem execSelftestSlot_retains (s : State) : Leads (Retains .none s) (execSelftestSlot s) := by
  unfold execSelftestSlot
  dsimp only
  repeat' first
    | with_reducible exact Retains.refl _ _ | with_reducible refine Leads.next ?_
    | with_reducible apply Retains.only (State.till_only _ _)
    | with_reducible apply Retains.only (State.setCmp_only _ _ _) | with_reducible apply State.skipTest_retains
    | with_reducible apply Retains.only (State.beginTest_only _ _)
    | with_reducible apply Retains.only (State.refreshFlt_only _ _)
    | with_reducible apply Retains.only (State.nextSlot_only _ _) | split | with_reducible refine Retains.mk_upd ?_
    | (with_reducible show Part.apart _ = true; decide)

theorem execSelftestPhaseEnd_retains (right : Bool) (s : State) : Leads (Retains .none s) (execSelftestPhaseEnd right s) := by
  unfold execSelftestPhaseEnd
  dsimp only
  repeat' first
    | with_reducible exact Retains.refl _ _ | with_reducible exact execSettleHoldEnd_retains _ _ | split
    | with_reducible refine Leads.next ?_ | with_reducible apply Retains.only (State.till_only _ _)
    | with_reducible apply State.restoreTest_retains | with_reducible refine Retains.mk_upd ?_
    | (with_reducible show Part.apart _ = true; decide)

theorem execFltStretchEnd_retains (pin : BitVec 3) (s : State) : Leads (Retains .none s) (execFltStretchEnd pin s) := by
  unfold execFltStretchEnd
  dsimp only
  repeat' first
    | with_reducible exact Retains.refl _ _ | with_reducible refine Leads.next ?_
    | with_reducible apply Retains.only (State.till_only _ _) | split | with_reducible refine Retains.mk_upd ?_
    | (with_reducible show Part.apart _ = true; decide)

theorem execFltLatchClear_retains (pins : Byte) (s : State) : Leads (Retains .none s) (execFltLatchClear pins s) := by
  unfold execFltLatchClear
  repeat' first
    | with_reducible exact Retains.refl _ _ | with_reducible refine Leads.next ?_
    | with_reducible apply State.writeLive_retains | with_reducible refine Retains.mk_upd ?_

theorem execScanPassStart_retains (s : State) : Leads (Retains .none s) (execScanPassStart s) := by
  unfold execScanPassStart
  dsimp only
  repeat' first
    | with_reducible exact Retains.refl _ _ | with_reducible refine Leads.next ?_
    | with_reducible apply Retains.only (State.till_only _ _)
    | with_reducible apply Retains.only (State.openGroups_only _)
    | with_reducible apply Retains.only (State.startPass_only _)
    | with_reducible apply Retains.only (State.assignAll_only _) | split | with_reducible refine Retains.mk_upd ?_
    | (with_reducible show Part.apart _ = true; decide)

theorem execConversionComplete_retains (conv : BitVec 2) (code : BitVec 16) (s : State) :
    Leads (Retains .none s) (execConversionComplete conv code s) := by
  unfold execConversionComplete
  dsimp only
  repeat' first
    | with_reducible exact Retains.refl _ _ | with_reducible refine Leads.next ?_
    | with_reducible apply State.convDone_retains | with_reducible apply Retains.only (State.till_only _ _)
    | with_reducible apply Retains.only (State.openGroups_only _) | split | with_reducible refine Retains.mk_upd ?_
    | (with_reducible show Part.apart _ = true; decide)

theorem execCtrigEdge_retains (source : BitVec 4) (s : State) : Leads (Retains .none s) (execCtrigEdge source s) := by
  unfold execCtrigEdge
  repeat' first
    | with_reducible exact Retains.refl _ _ | with_reducible refine Leads.next ?_
    | with_reducible apply Retains.only (State.fireTrigger_only _ _ _) | split
    | with_reducible refine Retains.mk_upd ?_ | (with_reducible show Part.apart _ = true; decide)

theorem execSaggarConversionDemand_retains (input : BitVec 7) (s : State) :
    Leads (Retains .none s) (execSaggarConversionDemand input s) := by
  unfold execSaggarConversionDemand
  repeat' first
    | with_reducible exact Retains.refl _ _ | with_reducible refine Leads.next ?_
    | with_reducible apply Retains.only (State.demand_only _ _ _) | split | with_reducible refine Retains.mk_upd ?_
    | (with_reducible show Part.apart _ = true; decide)

theorem execEnPinLevelChange_retains (rail : BitVec 6) (high : Bool) (s : State) :
    Leads (Retains .none s) (execEnPinLevelChange rail high s) := by
  unfold execEnPinLevelChange
  dsimp only
  repeat' first
    | with_reducible exact Retains.refl _ _ | with_reducible refine Leads.next ?_ | with_reducible assumption
    | with_reducible refine Retains.foldl _ ?_ (fun u x hu => ?_) | with_reducible apply State.enHigh_retains
    | with_reducible apply Retains.only (State.setCmp_only _ _ _) | with_reducible apply State.senseChange_retains
    | with_reducible apply State.unblock_retains | split | with_reducible refine Retains.mk_upd ?_
    | (with_reducible show Part.apart _ = true; decide)

theorem execStartNow_retains (s : State) : Leads (Retains .none s) (execStartNow s) := by
  unfold execStartNow
  repeat' first
    | with_reducible exact Retains.refl _ _ | with_reducible refine Leads.next ?_
    | with_reducible apply State.writeLive_retains | with_reducible refine Retains.mk_upd ?_

theorem execSweepStop_retains (s : State) : Leads (Retains .none s) (execSweepStop s) := by
  unfold execSweepStop
  repeat' first
    | with_reducible exact Retains.refl _ _ | with_reducible refine Leads.next ?_
    | with_reducible apply State.writeLive_retains | with_reducible refine Retains.mk_upd ?_

theorem execSweepCycleStart_retains (s : State) : Leads (Retains .none s) (execSweepCycleStart s) := by
  unfold execSweepCycleStart
  repeat' first
    | with_reducible exact Retains.refl _ _ | with_reducible refine Leads.next ?_
    | with_reducible apply Retains.only (State.till_only _ _)
    | with_reducible apply Retains.only (State.startCycle_only _) | split | with_reducible refine Retains.mk_upd ?_
    | (with_reducible show Part.apart _ = true; decide)

theorem execSweepRailStart_retains (s : State) : Leads (Retains .none s) (execSweepRailStart s) := by
  unfold execSweepRailStart
  dsimp only
  repeat' first
    | with_reducible exact Retains.refl _ _ | with_reducible refine Leads.next ?_
    | with_reducible apply Retains.only (State.till_only _ _)
    | with_reducible apply Retains.only (State.beginPoint_only _ _ _)
    | with_reducible apply Retains.only (State.sweepSees_only _)
    | with_reducible apply Retains.only (State.endRail_only _ _ _)
    | with_reducible apply Retains.only (State.finishCycle_only _) | split | with_reducible refine Retains.mk_upd ?_
    | (with_reducible show Part.apart _ = true; decide)

theorem execSweepSample_retains (s : State) : Leads (Retains .none s) (execSweepSample s) := by
  unfold execSweepSample
  dsimp only
  repeat' first
    | with_reducible exact Retains.refl _ _ | with_reducible refine Leads.next ?_
    | with_reducible apply Retains.only (State.till_only _ _)
    | with_reducible apply Retains.only (State.demand_only _ _ _) | split | with_reducible refine Retains.mk_upd ?_
    | (with_reducible show Part.apart _ = true; decide)

theorem execSweepPoint_retains (s : State) : Leads (Retains .none s) (execSweepPoint s) := by
  unfold execSweepPoint
  dsimp only
  repeat' first
    | with_reducible exact Retains.refl _ _ | with_reducible refine Leads.next ?_
    | with_reducible apply Retains.only (State.till_only _ _)
    | with_reducible apply Retains.only (State.pointDone_only _ _)
    | with_reducible apply Retains.only (State.beginPoint_only _ _ _)
    | with_reducible apply Retains.only (State.endRail_only _ _ _)
    | with_reducible apply Retains.only (State.finishCycle_only _) | split | with_reducible refine Retains.mk_upd ?_
    | (with_reducible show Part.apart _ = true; decide)

theorem execTwTransactionEnd_retains (port : BitVec 2) (result : BitVec 4) (data : BitVec 16) (s : State) (got : Byte) :
    Leads (Retains .none s) (execTwTransactionEnd port result data s got) := by
  unfold execTwTransactionEnd
  dsimp only
  repeat' first
    | with_reducible exact Retains.refl _ _ | with_reducible refine Leads.next ?_
    | with_reducible apply Retains.only (State.twEnd_only _ _ _ _ _) | split | with_reducible refine Retains.mk_upd ?_
    | (with_reducible show Part.apart _ = true; decide)

theorem execTwBusIdle_retains (port : BitVec 2) (s : State) : Leads (Retains .none s) (execTwBusIdle port s) := by
  unfold execTwBusIdle
  dsimp only
  repeat' first
    | with_reducible exact Retains.refl _ _ | with_reducible refine Leads.next ?_
    | with_reducible apply Retains.only (State.till_only _ _)
    | with_reducible apply Retains.only (State.setTw_only _ _ _)
    | with_reducible apply Retains.only (State.pump_only _ _) | split | with_reducible refine Retains.mk_upd ?_
    | (with_reducible show Part.apart _ = true; decide)

theorem execSclTimeout_retains (port : BitVec 2) (s : State) : Leads (Retains .none s) (execSclTimeout port s) := by
  unfold execSclTimeout
  dsimp only
  repeat' first
    | with_reducible exact Retains.refl _ _ | with_reducible refine Leads.next ?_
    | with_reducible apply Retains.only (State.endQueue_only _ _ _)
    | with_reducible apply Retains.only (State.setTw_only _ _ _)
    | with_reducible apply Retains.only (State.irqTw_only _ _) | split | with_reducible refine Retains.mk_upd ?_
    | (with_reducible show Part.apart _ = true; decide)

theorem execSdaStuck_retains (port : BitVec 2) (s : State) : Leads (Retains .none s) (execSdaStuck port s) := by
  unfold execSdaStuck
  dsimp only
  repeat' first
    | with_reducible exact Retains.refl _ _ | with_reducible refine Leads.next ?_
    | with_reducible apply Retains.only (State.setTw_only _ _ _)
    | with_reducible apply Retains.only (State.irqTw_only _ _) | split | with_reducible refine Retains.mk_upd ?_
    | (with_reducible show Part.apart _ = true; decide)

theorem execBusClearEnd_retains (port : BitVec 2) (stop : Bool) (s : State) :
    Leads (Retains .none s) (execBusClearEnd port stop s) := by
  unfold execBusClearEnd
  dsimp only
  repeat' first
    | with_reducible exact Retains.refl _ _ | with_reducible refine Leads.next ?_
    | with_reducible apply Retains.only (State.busyPump_only _ _ _)
    | with_reducible apply Retains.only (State.irqTw_only _ _)
    | with_reducible apply Retains.only (State.endHead_only _ _ _ _) | split | with_reducible refine Retains.mk_upd ?_
    | (with_reducible show Part.apart _ = true; decide)

theorem execTwRequest_retains (port : BitVec 2) (s : State) : Leads (Retains .none s) (execTwRequest port s) := by
  unfold execTwRequest
  dsimp only
  repeat' first
    | with_reducible exact Retains.refl _ _ | with_reducible refine Leads.next ?_
    | with_reducible apply Retains.only (State.beginAnswer_only _ _)
    | with_reducible apply Retains.only (State.till_only _ _) | split | with_reducible refine Retains.mk_upd ?_
    | (with_reducible show Part.apart _ = true; decide)

theorem execTwRequestAnswerEnd_retains (port : BitVec 2) (addr : BitVec 7) (abandoned : Bool) (s : State) :
    Leads (Retains .none s) (execTwRequestAnswerEnd port addr abandoned s) := by
  unfold execTwRequestAnswerEnd
  dsimp only
  repeat' first
    | with_reducible exact Retains.refl _ _ | with_reducible refine Leads.next ?_
    | with_reducible apply Retains.only (State.setTw_only _ _ _)
    | with_reducible apply Retains.only (State.irqTw_only _ _)
    | with_reducible apply Retains.only (State.busyPump_only _ _ _) | split | with_reducible refine Retains.mk_upd ?_
    | (with_reducible show Part.apart _ = true; decide)

theorem execTwPortReset_retains (port : BitVec 2) (s : State) : Leads (Retains .none s) (execTwPortReset port s) := by
  unfold execTwPortReset
  repeat' first
    | with_reducible exact Retains.refl _ _ | with_reducible refine Leads.next ?_
    | with_reducible apply State.writeLive_retains | with_reducible refine Retains.mk_upd ?_

theorem execTwBusClear_retains (port : BitVec 2) (s : State) : Leads (Retains .none s) (execTwBusClear port s) := by
  unfold execTwBusClear
  repeat' first
    | with_reducible exact Retains.refl _ _ | with_reducible refine Leads.next ?_
    | with_reducible apply State.writeLive_retains | with_reducible refine Retains.mk_upd ?_

theorem execHeartbeatSend_retains (s : State) : Leads (Retains .none s) (execHeartbeatSend s) := by
  unfold execHeartbeatSend
  dsimp only
  repeat' first
    | with_reducible exact Retains.refl _ _ | with_reducible refine Leads.next ?_
    | with_reducible apply Retains.only (State.till_only _ _)
    | with_reducible apply Retains.only (State.sendFrame_only _ _ _) | split | with_reducible refine Retains.mk_upd ?_
    | (with_reducible show Part.apart _ = true; decide)

theorem execHeartbeatFrame_retains (f : Arrival) (s : State) : Leads (Retains .none s) (execHeartbeatFrame f s) := by
  unfold execHeartbeatFrame
  dsimp only
  repeat' first
    | with_reducible exact Retains.refl _ _ | with_reducible refine Leads.next ?_
    | with_reducible apply State.pass_retains | with_reducible apply Retains.only (State.dropNote_only _ _)
    | with_reducible apply Retains.only (State.noteFrame_only _ _)
    | with_reducible apply Retains.only (State.takeHeartbeat_only _ _) | split
    | with_reducible refine Retains.mk_upd ?_ | (with_reducible show Part.apart _ = true; decide)

theorem execTwinLost_retains (s : State) : Leads (Retains .none s) (execTwinLost s) := by
  unfold execTwinLost
  dsimp only
  repeat' first
    | with_reducible exact Retains.refl _ _ | with_reducible refine Leads.next ?_
    | with_reducible apply Retains.only (State.till_only _ _)
    | with_reducible apply Retains.only (State.irqGl_only _ _)
    | with_reducible apply Retains.only (State.aloneAgain_only _ _) | with_reducible apply State.receiveCause_retains
    | split | with_reducible refine Retains.mk_upd ?_ | (with_reducible show Part.apart _ = true; decide)

theorem execSeekResend_retains (s : State) : Leads (Retains .none s) (execSeekResend s) := by
  unfold execSeekResend
  dsimp only
  repeat' first
    | with_reducible exact Retains.refl _ _ | with_reducible refine Leads.next ?_
    | with_reducible apply Retains.only (State.till_only _ _)
    | with_reducible apply Retains.only (State.sendTwin_only _ _ _ _) | split
    | with_reducible refine Retains.mk_upd ?_ | (with_reducible show Part.apart _ = true; decide)

theorem execSeekFrame_retains (f : Arrival) (s : State) (alone : Bool) :
    Leads (Retains .none s) (execSeekFrame f s alone) := by
  unfold execSeekFrame
  repeat' first
    | with_reducible exact Retains.refl _ _ | with_reducible refine Leads.next ?_ | with_reducible assumption
    | with_reducible apply State.onTwin_retains | with_reducible apply State.takeSeek_retains
    | with_reducible refine Retains.mk_upd ?_ | intro _

theorem execTwinSeekTimeout_retains (s : State) : Leads (Retains .none s) (execTwinSeekTimeout s) := by
  unfold execTwinSeekTimeout
  dsimp only
  repeat' first
    | with_reducible exact Retains.refl _ _ | with_reducible refine Leads.next ?_
    | with_reducible apply Retains.only (State.till_only _ _) | with_reducible apply State.foundOrBlock_retains
    | split | with_reducible refine Retains.mk_upd ?_ | (with_reducible show Part.apart _ = true; decide)

theorem execChallengeFrame_retains (f : Arrival) (s : State) : Leads (Retains .none s) (execChallengeFrame f s) := by
  unfold execChallengeFrame
  repeat' first
    | with_reducible exact Retains.refl _ _ | with_reducible refine Leads.next ?_ | with_reducible assumption
    | with_reducible apply State.onTwin_retains | with_reducible apply Retains.only (State.takeChallenge_only _ _ _)
    | with_reducible refine Retains.mk_upd ?_ | (with_reducible show Part.apart _ = true; decide) | intro _

theorem execProofFrame_retains (f : Arrival) (s : State) : Leads (Retains .none s) (execProofFrame f s) := by
  unfold execProofFrame
  repeat' first
    | with_reducible exact Retains.refl _ _ | with_reducible refine Leads.next ?_ | with_reducible assumption
    | with_reducible apply State.onTwin_retains | with_reducible apply Retains.only (State.takeProof_only _ _ _)
    | with_reducible refine Retains.mk_upd ?_ | (with_reducible show Part.apart _ = true; decide) | intro _

theorem execTwinRefuse_retains (f : Arrival) (s : State) : Leads (Retains .none s) (execTwinRefuse f s) := by
  unfold execTwinRefuse
  repeat' first
    | with_reducible exact Retains.refl _ _ | with_reducible refine Leads.next ?_ | with_reducible assumption
    | with_reducible apply State.onTwin_retains | with_reducible apply Retains.only (State.takeRefuse_only _ _ _)
    | with_reducible refine Retains.mk_upd ?_ | (with_reducible show Part.apart _ = true; decide) | intro _

theorem execTwinSync_retains (f : Arrival) (s : State) : Leads (Retains .none s) (execTwinSync f s) := by
  unfold execTwinSync
  repeat' first
    | with_reducible exact Retains.refl _ _ | with_reducible refine Leads.next ?_ | with_reducible assumption
    | with_reducible apply State.onTwin_retains | with_reducible apply Retains.only (State.takeSync_only _ _ _)
    | with_reducible refine Retains.mk_upd ?_ | (with_reducible show Part.apart _ = true; decide) | intro _

theorem execTwinReady_retains (f : Arrival) (s : State) : Leads (Retains .none s) (execTwinReady f s) := by
  unfold execTwinReady
  repeat' first
    | with_reducible exact Retains.refl _ _ | with_reducible refine Leads.next ?_ | with_reducible assumption
    | with_reducible apply State.onTwin_retains | with_reducible apply State.takeReady_retains
    | with_reducible refine Retains.mk_upd ?_ | intro _

theorem execTwinCommit_retains (f : Arrival) (s : State) : Leads (Retains .rails s) (execTwinCommit f s) := by
  unfold execTwinCommit
  repeat' first
    | with_reducible exact Retains.refl _ _ | with_reducible refine Leads.next ?_ | with_reducible assumption
    | with_reducible apply State.onTwin_retains | with_reducible apply State.takeCommit_retains
    | with_reducible refine Retains.mk_upd ?_ | intro _

theorem execTwinAbort_retains (f : Arrival) (s : State) : Leads (Retains .none s) (execTwinAbort f s) := by
  unfold execTwinAbort
  repeat' first
    | with_reducible exact Retains.refl _ _ | with_reducible refine Leads.next ?_ | with_reducible assumption
    | with_reducible apply State.onTwin_retains | with_reducible apply State.takeAbort_retains
    | with_reducible refine Retains.mk_upd ?_ | intro _

theorem execHandoverTimeout_retains (s : State) : Leads (Retains .none s) (execHandoverTimeout s) := by
  unfold execHandoverTimeout
  dsimp only
  repeat' first
    | with_reducible exact Retains.refl _ _ | with_reducible refine Leads.next ?_
    | with_reducible apply Retains.only (State.till_only _ _)
    | with_reducible apply Retains.only (State.tellReason_only _ _ _ _)
    | with_reducible apply State.serveFails_retains | with_reducible apply State.joinFails_retains | split
    | with_reducible refine Retains.mk_upd ?_ | (with_reducible show Part.apart _ = true; decide)

theorem execTwinRequest_retains (f : Arrival) (s : State) : Leads (Retains .none s) (execTwinRequest f s) := by
  unfold execTwinRequest
  repeat' first
    | with_reducible exact Retains.refl _ _ | with_reducible refine Leads.next ?_ | with_reducible assumption
    | with_reducible apply State.onTwin_retains | with_reducible apply State.takeRequest_retains | split
    | with_reducible refine Retains.mk_upd ?_ | intro _

theorem execTwinShutdown_retains (f : Arrival) (s : State) : Leads (Retains .none s) (execTwinShutdown f s) := by
  unfold execTwinShutdown
  repeat' first
    | with_reducible exact Retains.refl _ _ | with_reducible refine Leads.next ?_ | with_reducible assumption
    | with_reducible apply State.onTwin_retains | with_reducible apply State.takeShutdown_retains | split
    | with_reducible refine Retains.mk_upd ?_ | intro _

/-- What each command may undo: CLEAR the latch (R19), BISQUE_CLEAR the records (R135); ENABLE and COMMIT enable rails (R12, R272). -/
def loosens : Instr → Loose
  | .clearCmd => .latch
  | .bisqueClear => .records
  | .enableStep _ _ | .twinCommit _ => .rails
  | _ => .none

theorem exec_retains (i : Instr) (s : State) : Leads (Retains (loosens i) s) (exec i s) :=
  match i with
  | .vinRisesPast4v root twjoin twside pb mr => execVinRisesPast4v_retains root twjoin twside pb mr s
  | .vinGood => execVinGood_retains s
  | .inputCollapse logDie archive => execInputCollapse_retains logDie s archive
  | .commitSequenceEnd => execCommitSequenceEnd_retains s
  | .holdUpFloor done words => execHoldUpFloor_retains done words s
  | .vinBelow4v => execVinBelow4v_retains s
  | .startupStageComplete r => execStartupStageComplete_retains r s
  | .startupStageLate => execStartupStageLate_retains s
  | .wakeTimerExpiry => execWakeTimerExpiry_retains s
  | .wakePathComplete copyOk r => execWakePathComplete_retains copyOk r s
  | .wakeSelfTestsComplete pass => execWakeSelfTestsComplete_retains pass s
  | .logicDieLost => execLogicDieLost_retains s
  | .reducedWalkEntry => execReducedWalkEntry_retains s
  | .mrAssert => execMrAssert_retains s
  | .mrRelease => execMrRelease_retains s
  | .hrstStretchEnd => execHrstStretchEnd_retains s
  | .mrHoldReset => execMrHoldReset_retains s
  | .onreqRise => execOnreqRise_retains s
  | .onreqFall => execOnreqFall_retains s
  | .pbShortPress held => execPbShortPress_retains held s
  | .pbLongPress => execPbLongPress_retains s
  | .pbLockoutEnd => execPbLockoutEnd_retains s
  | .ownershipWindowClose released => execOwnershipWindowClose_retains released s
  | .tOffminElapsed => execTOffminElapsed_retains s
  | .comparatorCrossing src fault => execComparatorCrossing_retains src fault s
  | .gradeTPersistExpiry src => execGradeTPersistExpiry_retains src s
  | .graceDelayExpiry => execGraceDelayExpiry_retains s
  | .tripDelayExpiry => execTripDelayExpiry_retains s
  | .coolingEntryDue => execCoolingEntryDue_retains s
  | .waitBelowMet => execWaitBelowMet_retains s
  | .waitBelowTimeout => execWaitBelowTimeout_retains s
  | .walkerConversionDemand => execWalkerConversionDemand_retains s
  | .coolingSweep => execCoolingSweep_retains s
  | .settleHoldEnd src => execSettleHoldEnd_retains src s
  | .rampDacStep src => execRampDacStep_retains src s
  | .pwmsyncEdge pin => execPwmsyncEdge_retains pin s
  | .pwmsyncWindowOpen src => execPwmsyncWindowOpen_retains src s
  | .pwmsyncWindowClose src => execPwmsyncWindowClose_retains src s
  | .blankingOverrun src => execBlankingOverrun_retains src s
  | .enableWindowOpen src => execEnableWindowOpen_retains src s
  | .enableWindowClose src => execEnableWindowClose_retains src s
  | .selftestSlot => execSelftestSlot_retains s
  | .selftestPhaseEnd right => execSelftestPhaseEnd_retains right s
  | .fltStretchEnd pin => execFltStretchEnd_retains pin s
  | .fltLatchClear pins => execFltLatchClear_retains pins s
  | .scanPassStart => execScanPassStart_retains s
  | .conversionComplete conv code => execConversionComplete_retains conv code s
  | .ctrigEdge source => execCtrigEdge_retains source s
  | .saggarConversionDemand input => execSaggarConversionDemand_retains input s
  | .enPinLevelChange rail high => execEnPinLevelChange_retains rail high s
  | .nopStep k fetch => execNopStep_retains k fetch s
  | .enableStep k fetch => execEnableStep_retains k fetch s
  | .disableStep k fetch => execDisableStep_retains k fetch s
  | .waitStep k fetch => execWaitStep_retains k fetch s
  | .waitEnd k => execWaitEnd_retains k s
  | .waitforStep k fetch => execWaitforStep_retains k fetch s
  | .waitforSatisfied k ctrig => execWaitforSatisfied_retains k ctrig s
  | .waitforTimeout k ctrig => execWaitforTimeout_retains k s ctrig
  | .checkStep k fetch => execCheckStep_retains k fetch s
  | .checkQualified k rail => execCheckQualified_retains k rail s
  | .checkDeadline k => execCheckDeadline_retains k s
  | .rampStep k fetch => execRampStep_retains k fetch s
  | .jumpStep k fetch => execJumpStep_retains k fetch s
  | .jumpifStep k fetch => execJumpifStep_retains k fetch s
  | .signalStep k fetch => execSignalStep_retains k fetch s
  | .syncStep k fetch => execSyncStep_retains k fetch s
  | .syncSatisfied k => execSyncSatisfied_retains k s
  | .syncTimeout k => execSyncTimeout_retains k s
  | .marginStep k fetch => execMarginStep_retains k fetch s
  | .trimStep k fetch => execTrimStep_retains k fetch s
  | .snapStep k fetch => execSnapStep_retains k fetch s
  | .pwmStep k fetch => execPwmStep_retains k fetch s
  | .haltStep k fetch => execHaltStep_retains k fetch s
  | .stepBudgetExpiry k => execStepBudgetExpiry_retains k s
  | .timeBudgetExpiry k => execTimeBudgetExpiry_retains k s
  | .dieOverTemperature sensors => execDieOverTemperature_retains sensors s
  | .tripiAssert levels => execTripiAssert_retains levels s
  | .spiWrite bytes => execSpiWrite_retains bytes s
  | .spiRead count => execSpiRead_retains count s
  | .spiStatus => execSpiStatus_retains s
  | .spiUnknownTransfer code count => execSpiUnknownTransfer_retains code count s
  | .verificationComplete ring tag => execVerificationComplete_retains ring tag s
  | .partTimeout ring tag => execPartTimeout_retains ring tag s
  | .replySigned ring tag => execReplySigned_retains ring tag s
  | .replyQueued => execReplyQueued_retains s
  | .forwardTimeout tag => execForwardTimeout_retains tag s
  | .resetTakesEffect => execResetTakesEffect_retains s
  | .nopCmd => execNopCmd_retains s
  | .identify => execIdentify_retains s
  | .readRegs => execReadRegs_retains s
  | .ckTimeLoRead => execCkTimeLoRead_retains s
  | .logRead found => execLogRead_retains s found
  | .getCert => execGetCert_retains s
  | .timeRead => execTimeRead_retains s
  | .queueStatus => execQueueStatus_retains s
  | .skv1200Id => execSkv1200Id_retains s
  | .skv1200Status => execSkv1200Status_retains s
  | .skv1200Rail => execSkv1200Rail_retains s
  | .skv1200FirstFault => execSkv1200FirstFault_retains s
  | .onCmd => execOnCmd_retains s
  | .offCmd => execOffCmd_retains s
  | .clearCmd => execClearCmd_retains s
  | .marginCmd => execMarginCmd_retains s
  | .pmbusSequenceEnd rail => execPmbusSequenceEnd_retains rail s
  | .standbyCmd => execStandbyCmd_retains s
  | .resetCmd => execResetCmd_retains s
  | .drainCmd => execDrainCmd_retains s
  | .timeSet => execTimeSet_retains s
  | .writeRegsClass1 confirm => execWriteRegsClass1_retains confirm s
  | .registerWrite cls addr value confirm => execRegisterWrite_retains cls addr value s confirm
  | .programLoad confirm => execProgramLoad_retains confirm s
  | .tableLoad confirm => execTableLoad_retains confirm s
  | .bisqueClear => execBisqueClear_retains s
  | .writeRegsClass2 confirm => execWriteRegsClass2_retains confirm s
  | .takeOwnership confirm => execTakeOwnership_retains confirm s
  | .keySlotWrite confirm => execKeySlotWrite_retains confirm s
  | .keySlotClear confirm => execKeySlotClear_retains confirm s
  | .quorumSet confirm => execQuorumSet_retains confirm s
  | .saggarWrite confirm => execSaggarWrite_retains confirm s
  | .saggarProgramLoad confirm => execSaggarProgramLoad_retains confirm s
  | .htableLoad confirm => execHtableLoad_retains confirm s
  | .calibrationWrite confirm => execCalibrationWrite_retains confirm s
  | .writeRegsClass3 confirm => execWriteRegsClass3_retains confirm s
  | .imageLoad confirm => execImageLoad_retains confirm s
  | .decommission confirm => execDecommission_retains confirm s
  | .snapshot => execSnapshot_retains s
  | .shardCommit => execShardCommit_retains s
  | .archiveCopy corrected lost => execArchiveCopy_retains s corrected lost
  | .scrubRead found => execScrubRead_retains found s
  | .wholeSecond => execWholeSecond_retains s
  | .fqPop => execFqPop_retains s
  | .failBitClear high bits => execFailBitClear_retains high bits s
  | .startNow => execStartNow_retains s
  | .sweepStop => execSweepStop_retains s
  | .sweepCycleStart => execSweepCycleStart_retains s
  | .sweepRailStart => execSweepRailStart_retains s
  | .sweepPoint => execSweepPoint_retains s
  | .sweepSample => execSweepSample_retains s
  | .linkUp port => execLinkUp_retains port s
  | .linkDown port => execLinkDown_retains port s
  | .unwrap port => execUnwrap_retains port s
  | .horn port orig seq => execHorn_retains port orig seq s
  | .commandFrame f => execCommandFrame_retains f s
  | .replyFrame f => execReplyFrame_retains f s
  | .broadcastFrame f => execBroadcastFrame_retains f s
  | .timeFrame f => execTimeFrame_retains f s
  | .timeSend => execTimeSend_retains s
  | .tokenFrame f => execTokenFrame_retains f s
  | .enumerate => execEnumerate_retains s
  | .enrolFrame f => execEnrolFrame_retains f s
  | .enrolWaitEnd => execEnrolWaitEnd_retains s
  | .closureFrame f => execClosureFrame_retains f s
  | .forget => execForget_retains s
  | .joinFrame f => execJoinFrame_retains f s
  | .joinResend => execJoinResend_retains s
  | .admitFrame f => execAdmitFrame_retains f s
  | .conflictFrame f => execConflictFrame_retains f s
  | .isolated => execIsolated_retains s
  | .heartbeatSend => execHeartbeatSend_retains s
  | .heartbeatFrame f => execHeartbeatFrame_retains f s
  | .twinLost => execTwinLost_retains s
  | .seekFrame f alone => execSeekFrame_retains f s alone
  | .seekResend => execSeekResend_retains s
  | .twinSeekTimeout => execTwinSeekTimeout_retains s
  | .challengeFrame f => execChallengeFrame_retains f s
  | .proofFrame f => execProofFrame_retains f s
  | .twinRefuse f => execTwinRefuse_retains f s
  | .twinSync f => execTwinSync_retains f s
  | .twinReady f => execTwinReady_retains f s
  | .twinCommit f => execTwinCommit_retains f s
  | .twinAbort f => execTwinAbort_retains f s
  | .handoverTimeout => execHandoverTimeout_retains s
  | .twinRequest f => execTwinRequest_retains f s
  | .twinShutdown f => execTwinShutdown_retains f s
  | .twTransactionEnd port result data got => execTwTransactionEnd_retains port result data s got
  | .twBusIdle port => execTwBusIdle_retains port s
  | .sclTimeout port => execSclTimeout_retains port s
  | .sdaStuck port => execSdaStuck_retains port s
  | .busClearEnd port stop => execBusClearEnd_retains port stop s
  | .twRequest port => execTwRequest_retains port s
  | .twRequestAnswerEnd port addr abandoned => execTwRequestAnswerEnd_retains port addr abandoned s
  | .twPortReset port => execTwPortReset_retains port s
  | .twBusClear port => execTwBusClear_retains port s
  | .refclkLost => execRefclkLost_retains s
  | .refclkBack => execRefclkBack_retains s
  | .pllLock => execPllLock_retains s
  | .relockFail => execRelockFail_retains s
  | .relockRetry => execRelockRetry_retains s
  | .rcRatioMeasure ratio => execRcRatioMeasure_retains ratio s
  | .x32CrystalFail => execX32CrystalFail_retains s
  | .tsyncEdge => execTsyncEdge_retains s
  | .holdoverEntry => execHoldoverEntry_retains s
  | .crossingError crossing => execCrossingError_retains crossing s
  | .clockStopped crossing => execClockStopped_retains crossing s
  | .ckOutPhaseWrite out steps => execCkOutPhaseWrite_retains out steps s
  | .periodStart c => execPeriodStart_retains c s
  | .compareMatch c => execCompareMatch_retains c s
  | .deadTimeEnd c => execDeadTimeEnd_retains c s
  | .pwmTriggerCompare c j => execPwmTriggerCompare_retains c j s
  | .pwmsoEnd => execPwmsoEnd_retains s
  | .pwmsiEdge => execPwmsiEdge_retains s
  | .channelStart c => execChannelStart_retains c s
  | .channelStop c => execChannelStop_retains c s
  | .loadAll => execLoadAll_retains s
  | .pwmTrip source => execPwmTrip_retains source s
  | .tripLatchClear bits => execTripLatchClear_retains bits s
  | .tripiSeenClear bits => execTripiSeenClear_retains bits s
  | .pbPressLongerThan50Ms => execPbPressLongerThan50Ms_retains s
  | .pbPress => execPbPress_retains s
  | .vholdAndVinMeasurement vhold vin seen => execVholdAndVinMeasurement_retains vhold vin s seen
  | .imageCollectionTimeout => execImageCollectionTimeout_retains s
  | .resetAfterImageLoad => execResetAfterImageLoad_retains s
  | .pllLossOfLock => execPllLossOfLock_retains s
  | .crossingResumes crossing => execCrossingResumes_retains crossing s
  | .receiverLock port => execReceiverLock_retains port s
  | .unknownFrame f => execUnknownFrame_retains f s

theorem loosens_ne_latch {i : Instr} (h : i ≠ .clearCmd) : loosens i ≠ .latch := by
  cases i with
  | clearCmd => exact absurd rfl h
  | _ => exact Loose.noConfusion

theorem loosens_ne_records {i : Instr} (h : i ≠ .bisqueClear) : loosens i ≠ .records := by
  cases i with
  | bisqueClear => exact absurd rfl h
  | _ => exact Loose.noConfusion

theorem loosens_eq_rails {i : Instr} (h : (loosens i) = .rails) : (∃ k f, i = .enableStep k f) ∨ ∃ a, i = .twinCommit a := by
  cases i with
  | enableStep k f => exact .inl ⟨k, f, rfl⟩
  | twinCommit a => exact .inr ⟨a, rfl⟩
  | _ => exact Loose.noConfusion h

/-- Settles O57: every row but CLEAR keeps the latch, every row but BISQUE_CLEAR the records. -/
theorem latchAndRecordsStay : Obligations.LatchAndRecordsStay := by
  unfold Obligations.LatchAndRecordsStay
  refine ⟨fun i s t ht hi => ?_, fun i x s t ht hi => ?_, fun i s t ht hi => ?_⟩
  · exact ((exec_retains i s).of_eq ht).latch (loosens_ne_latch hi)
  · exact ((exec_retains i s).of_eq ht).first (loosens_ne_records hi) x
  · exact ((exec_retains i s).of_eq ht).bisque (loosens_ne_records hi)

/-- Settles O60: a rail that a command enables is one that ENABLE or COMMIT may raise. -/
theorem railsAreEnabledOnlyBySteps : Obligations.RailsAreEnabledOnlyBySteps := by
  unfold Obligations.RailsAreEnabledOnlyBySteps
  intro i n s t ht hon hoff
  refine loosens_eq_rails (Classical.byContradiction fun hi => ?_)
  rw [((exec_retains i s).of_eq ht).rails hi n hon] at hoff
  exact Bool.noConfusion hoff

end Sys2Proof.Machine
end

section
/-! SUPPORT. Reading one part of the state through an operation, and what the log's operations leave of the two regions. -/

set_option Elab.async false

namespace Sys2Proof.Machine

/-! ## One part through an operation -/

section
variable {ps : List Part} {s t : State} (h : Only ps s t)
include h

theorem Only.ident_eq (hp : Part.ident ∉ ps := by decide) : t.ident = s.ident := h .ident hp
theorem Only.clk_eq (hp : Part.clk ∉ ps := by decide) : t.clk = s.clk := h .clk hp
theorem Only.out_eq (hp : Part.out ∉ ps := by decide) : t.out = s.out := h .out hp
theorem Only.inp_eq (hp : Part.inp ∉ ps := by decide) : t.inp = s.inp := h .inp hp
theorem Only.ctl_eq (hp : Part.ctl ∉ ps := by decide) : t.ctl = s.ctl := h .ctl hp
theorem Only.sense_eq (hp : Part.sense ∉ ps := by decide) : t.sense = s.sense := h .sense hp
theorem Only.kiln_eq (hp : Part.kiln ∉ ps := by decide) : t.kiln = s.kiln := h .kiln hp
theorem Only.walk_eq (hp : Part.walk ∉ ps := by decide) : t.walk = s.walk := h .walk hp
theorem Only.fault_eq (hp : Part.fault ∉ ps := by decide) : t.fault = s.fault := h .fault hp
theorem Only.irq_eq (hp : Part.irq ∉ ps := by decide) : t.irq = s.irq := h .irq hp
theorem Only.mg_eq (hp : Part.mg ∉ ps := by decide) : t.mg = s.mg := h .mg hp
theorem Only.log_eq (hp : Part.log ∉ ps := by decide) : t.log = s.log := h .log hp
theorem Only.cfg_eq (hp : Part.cfg ∉ ps := by decide) : t.cfg = s.cfg := h .cfg hp
theorem Only.cfgLoaded_eq (hp : Part.cfgLoaded ∉ ps := by decide) : t.cfgLoaded = s.cfgLoaded := h .cfgLoaded hp
theorem Only.sgLoaded_eq (hp : Part.sgLoaded ∉ ps := by decide) : t.sgLoaded = s.sgLoaded := h .sgLoaded hp
theorem Only.port_eq (hp : Part.port ∉ ps := by decide) : t.port = s.port := h .port hp
theorem Only.sec_eq (hp : Part.sec ∉ ps := by decide) : t.sec = s.sec := h .sec hp
theorem Only.ring_eq (hp : Part.ring ∉ ps := by decide) : t.ring = s.ring := h .ring hp
theorem Only.twin_eq (hp : Part.twin ∉ ps := by decide) : t.twin = s.twin := h .twin hp
theorem Only.tw_eq (hp : Part.tw ∉ ps := by decide) : t.tw = s.tw := h .tw hp
theorem Only.twEnded_eq (hp : Part.twEnded ∉ ps := by decide) : t.twEnded = s.twEnded := h .twEnded hp
theorem Only.pwm_eq (hp : Part.pwm ∉ ps := by decide) : t.pwm = s.pwm := h .pwm hp
theorem Only.frozen_eq (hp : Part.frozen ∉ ps := by decide) : t.frozen = s.frozen := h .frozen hp
theorem Only.jtag_eq (hp : Part.jtag ∉ ps := by decide) : t.jtag = s.jtag := h .jtag hp
theorem Only.free_eq (hp : Part.free ∉ ps := by decide) : t.free = s.free := h .free hp
theorem Only.pending_eq (hp : Part.pending ∉ ps := by decide) : t.pending = s.pending := h .pending hp

/-- A part that reads the same need not be listed. -/
theorem Only.without {p : Part} (hp : p.same s t) : Only (ps.filter (· ≠ p)) s t := by
  intro q hq
  by_cases hqp : q = p
  · exact hqp ▸ hp
  · exact h q fun hm => hq (List.mem_filter.2 ⟨hm, by simpa using hqp⟩)

end

theorem Answers.of_exec {i : Instr} {s t : State} {P : State → Prop} (h : exec i s = .next t) (hp : P t) : Answers i s P :=
  ⟨t, h, hp⟩

/-! ## The two log regions through the operations of the log -/

section
variable (s : State)

/-- Captures go to the buffer. -/
@[simp] theorem State.capture_fr (kind cause : Nat) (event : List Byte) : (s.capture kind cause event).log.fr = s.log.fr := by
  simp only [State.capture]
  split
  · exact Log.push_fr _ _
  · rfl

@[simp] theorem State.capture_fa (kind cause : Nat) (event : List Byte) : (s.capture kind cause event).log.fa = s.log.fa := by
  simp only [State.capture]
  split
  · exact Log.push_fa _ _
  · rfl

@[simp] theorem State.logEvent_fr (code region v1 v2 : Nat) : (s.logEvent code region v1 v2).log.fr = s.log.fr :=
  s.capture_fr _ _ _

@[simp] theorem State.logEvent_fa (code region v1 v2 : Nat) : (s.logEvent code region v1 v2).log.fa = s.log.fa :=
  s.capture_fa _ _ _

theorem State.endWindows_fr : s.endWindows.log.fr = s.log.fr := by
  unfold State.endWindows
  dsimp only
  repeat' split
  all_goals first
    | rfl
    | exact Log.closeOn_fr _ _
    | rw [Log.foldl_setEntry_fr]

theorem State.endWindows_fa : s.endWindows.log.fa = s.log.fa := by
  unfold State.endWindows
  dsimp only
  repeat' split
  all_goals first
    | rfl
    | exact Log.closeOn_fa _ _
    | rw [Log.foldl_setEntry_fa]


/-! The copier's list, the windows and the index move; the regions stay. -/

@[simp] theorem State.openWindow_fr (y : Stored) (rest : List Copy) : (s.openWindow y rest).log.fr = s.log.fr := by
  unfold State.openWindow
  split <;> simp

@[simp] theorem State.openWindow_fa (y : Stored) (rest : List Copy) : (s.openWindow y rest).log.fa = s.log.fa := by
  unfold State.openWindow
  split <;> simp

@[simp] theorem State.reachShard_fr (y : Stored) (c : Copy) (rest : List Copy) : (s.reachShard y c rest).log.fr = s.log.fr := by
  have ht : (if y.shard.trigger = true then
      if (s.admitsWindow || s.log.openWins.isEmpty) = true then s.openWindow y rest
      else (s.openWindow y rest).postCopy y (s.openWindow y rest).log.copies
    else if s.log.openWins.isEmpty = true then { s with log := { s.log with copies := rest } }
    else s.postCopy y rest).log.fr = s.log.fr := by
    repeat' split
    all_goals simp [State.postCopy]
  simp only [State.reachShard]
  split
  · rw [Log.closeOn_fr, ht]
  · exact ht

@[simp] theorem State.missShard_fr (c : Copy) (rest : List Copy) : (s.missShard c rest).log.fr = s.log.fr := by
  simp only [State.missShard]
  split
  · simp only [State.logEvent_fr]
    rw [Log.foldl_setEntry_fr, Log.foldl_setEntry_fr]
  · simp only []
    rw [Log.foldl_setEntry_fr, Log.foldl_setEntry_fr]

@[simp] theorem State.reach_fr (n : Nat) : (s.reach n).log.fr = s.log.fr := by
  induction n generalizing s with
  | zero => rfl
  | succ n ih =>
    unfold State.reach
    repeat' split
    all_goals simp [ih]

@[simp] theorem State.archiveLow_log (old : State) : (s.archiveLow old).log = s.log := by
  unfold State.archiveLow
  split <;> simp

/-- A copy goes into the archive: the flight recorder stays. -/
@[simp] theorem State.makeCopy_fr (c : Copy) (y : Stored) : (s.makeCopy c y).log.fr = s.log.fr := by
  simp only [State.makeCopy, State.archiveLow_log]
  rw [Log.foldl_setEntry_fr _ (fun i => i), Log.foldl_setEntry_fr _ (fun i => i)]
  rfl

@[simp] theorem State.endWithout_fr (c : Copy) : (s.endWithout c).log.fr = s.log.fr := by
  simp only [State.endWithout]
  rw [Log.foldl_setEntry_fr]

@[simp] theorem State.makeSpace_fr : s.makeSpace.log.fr = s.log.fr := by
  simp only [State.makeSpace, State.logEvent_fr]
  split <;> simp

@[simp] theorem State.copyHead_fr (c : Copy) (rest : List Copy) : (s.copyHead c rest).log.fr = s.log.fr := by
  unfold State.copyHead
  dsimp only
  split
  · rw [State.logEvent_fr, State.endWithout_fr, Log.foldl_setEntry_fr _ (fun i => i)]
  · split
    · simp
    · split <;> simp

@[simp] theorem State.finishCopy_fr : s.finishCopy.log.fr = s.log.fr := by
  unfold State.finishCopy
  repeat' split
  all_goals simp

/-! A shard committed takes one seq of the flight recorder. -/

theorem State.skipTorn_next (x : Shard) : (s.skipTorn 2 x).log.fr.next = s.log.fr.next := by
  unfold State.skipTorn
  split <;> rfl

theorem State.writeFr_next (x : Shard) : (s.writeFr x).log.fr.next = s.log.fr.next + 1 := by
  show ((s.skipTorn 2 _).log.fr.next + 1) = _
  rw [State.skipTorn_next]

@[simp] theorem State.commitFr_next (x : Shard) : (s.commitFr x).log.fr.next = s.log.fr.next + 1 := by
  unfold State.commitFr
  split <;> simp [State.writeFr_next]

theorem State.foldl_commitFr_next (l : List Shard) : (l.foldl State.commitFr s).log.fr.next = s.log.fr.next + l.length := by
  induction l generalizing s with
  | nil => rfl
  | cons x l ih => rw [List.foldl_cons, ih, State.commitFr_next, List.length_cons]; omega

/-- A list of shards committed takes as many seqs, wherever the windows end. -/
theorem State.commitList_next (l : List Shard) (open_ : Bool) : (s.commitList l open_).log.fr.next = s.log.fr.next + l.length := by
  unfold State.commitList
  split
  · simp only [State.foldl_commitFr_next, State.endWindows_fr, List.length_dropLast, List.length_drop]
    omega
  · rw [State.endWindows_fr, State.foldl_commitFr_next]

end

section
variable (s : State)

/-! ## Operations that change comparators alone -/

/-- Nothing but the comparators differs. -/
def CmpsOnly (s t : State) : Prop := ∃ c, t = { s with sense := { s.sense with cmps := c } }

theorem CmpsOnly.refl : CmpsOnly s s := ⟨_, rfl⟩

variable {s} in
theorem CmpsOnly.trans {t u : State} (h : CmpsOnly s t) (k : CmpsOnly t u) : CmpsOnly s u := by
  obtain ⟨c, rfl⟩ := h
  obtain ⟨d, rfl⟩ := k
  exact ⟨d, rfl⟩

theorem CmpsOnly.foldl {α : Type} {f : State → α → State} (hf : ∀ t x, CmpsOnly t (f t x)) (l : List α) : CmpsOnly s (l.foldl f s) := by
  induction l generalizing s with
  | nil => exact CmpsOnly.refl s
  | cons x l ih => exact (hf s x).trans (ih _)

theorem State.setCmp_cmpsOnly (src : Nat) (c : Cmp) : CmpsOnly s (s.setCmp src c) := ⟨_, rfl⟩

theorem State.reeval_cmpsOnly (src : Nat) : CmpsOnly s (s.reeval src) := by
  unfold State.reeval
  dsimp only
  split
  · exact CmpsOnly.refl s
  · exact s.setCmp_cmpsOnly _ _

theorem State.cutRamp_cmpsOnly (src : Nat) : CmpsOnly s (s.cutRamp src) := by
  unfold State.cutRamp
  split
  · exact (s.setCmp_cmpsOnly _ _).trans (State.setCmp_cmpsOnly _ _ _)
  · exact CmpsOnly.refl s

theorem State.dropRamp_cmpsOnly (src : Nat) : CmpsOnly s (s.dropRamp src) := by
  unfold State.dropRamp
  split
  · split
    · exact s.setCmp_cmpsOnly _ _
    · exact s.cutRamp_cmpsOnly src
  · exact CmpsOnly.refl s

theorem State.cmpLow_cmpsOnly (src : Nat) : CmpsOnly s (s.cmpLow src) :=
  (s.dropRamp_cmpsOnly src).trans ((State.setCmp_cmpsOnly _ _ _).trans (State.reeval_cmpsOnly _ _))

theorem State.armAll_cmpsOnly (srcs : List Nat) : CmpsOnly s (s.armAll srcs) :=
  CmpsOnly.foldl s (fun t x => by
    split
    · exact t.setCmp_cmpsOnly _ _
    · exact CmpsOnly.refl t) srcs

variable {s} in
theorem CmpsOnly.readings {t : State} (h : CmpsOnly s t) : t.sense.readings = s.sense.readings := by
  obtain ⟨c, rfl⟩ := h
  rfl

end

end Sys2Proof.Machine
end

section
/-! SUPPORT. The supplies and the commit sequence (O1). -/

set_option Elab.async false

namespace Sys2Proof.Machine

/-! ## What a collapse and the end of a commit sequence leave -/

section
variable (s : State)

/-- After a reset the outputs are off. -/
theorem State.afterReset_outputsOff : OutputsOff s.afterReset.updateHrst := ⟨rfl, rfl, rfl, rfl, rfl⟩

theorem State.afterReset_sameStorage : SameStorage s s.afterReset.updateHrst :=
  ⟨rfl, rfl, rfl, rfl, rfl, rfl, rfl, rfl, rfl, rfl, rfl, rfl, rfl, rfl, rfl, rfl⟩

/-- The part of storage that lies in the log, and the part that does not. -/
theorem SameStorage.of_only {ps : List Part} {s t : State} (h : Only ps s t)
    (hp : Part.ident ∉ ps ∧ Part.cfg ∉ ps ∧ Part.sec ∉ ps ∧ Part.kiln ∉ ps ∧ Part.fault ∉ ps ∧ Part.mg ∉ ps)
    (hr : t.log.fr = s.log.fr) (ha : t.log.fa = s.log.fa) : SameStorage s t := by
  obtain ⟨hi, hc, hs, hk, hf, hm⟩ := hp
  unfold SameStorage
  rw [h.ident_eq hi, h.cfg_eq hc, h.sec_eq hs, h.kiln_eq hk, h.fault_eq hf, h.mg_eq hm, hr, ha]
  simp only [and_self]

theorem SameStorage.trans {a b c : State} (h : SameStorage a b) (k : SameStorage b c) : SameStorage a c := by
  unfold SameStorage at *
  simp only [k, h, and_self]

theorem State.collapseReset_sameStorage : SameStorage s s.collapseReset := by
  refine SameStorage.trans (SameStorage.of_only (State.discardSilent_only s 3) (by decide) ?_ ?_) (State.afterReset_sameStorage _)
  all_goals rw [(State.discardSilent_only s 3).log_eq]

theorem State.noteCollapse_sameStorage (o : BitVec 2) : SameStorage s (s.noteCollapse o) :=
  SameStorage.of_only (State.noteCollapse_only s o) (by decide) rfl rfl

theorem State.endWindows_sameStorage : SameStorage s s.endWindows :=
  SameStorage.of_only (State.endWindows_only s) (by decide) s.endWindows_fr s.endWindows_fa

end

section
variable (s : State)

theorem State.collapseLive_sameStorage (logDie archive : Bool) : SameStorage s (s.collapseLive logDie archive) := by
  have h (o : BitVec 2) : SameStorage s (s.noteCollapse o).collapseReset :=
    (s.noteCollapse_sameStorage o).trans (State.collapseReset_sameStorage _)
  cases logDie with
  | true => exact (h 2).trans ⟨rfl, rfl, rfl, rfl, rfl, rfl, rfl, rfl, rfl, rfl, rfl, rfl, rfl, rfl, rfl, rfl⟩
  | false =>
    refine (h 3).trans (SameStorage.trans (State.endWindows_sameStorage _) ?_)
    exact ⟨rfl, rfl, rfl, rfl, rfl, rfl, rfl, rfl, rfl, rfl, rfl, rfl, rfl, rfl, rfl, rfl⟩

/-- What a collapse leaves of the power mode, the outputs and the queue once the device is in stage 1. -/
theorem State.collapseReset_frame : s.collapseReset.pm.state = .starting ∧ s.collapseReset.pm.stage = 1
    ∧ s.collapseReset.pm.lastCause = 0x40 ∧ s.collapseReset.pm.resetCause = s.pm.resetCause ||| 2
    ∧ s.collapseReset.pm.vinGood = s.pm.vinGood ∧ s.collapseReset.pm.vinLow = s.pm.vinLow ∧ s.collapseReset.pm.note = s.pm.note
    ∧ OutputsOff s.collapseReset ∧ s.collapseReset.pending = s.pending := by
  have hd := State.discardSilent_only s 3
  have hp := hd.pm_eq
  refine ⟨rfl, rfl, rfl, ?_, ?_, ?_, ?_, State.afterReset_outputsOff _, hd.pending_eq⟩
  all_goals
    simp only [State.collapseReset, State.updateHrst_pm, State.afterReset, hp]

theorem State.collapseLive_frame (logDie archive : Bool) : (s.collapseLive logDie archive).pm.state = .starting
    ∧ (s.collapseLive logDie archive).pm.stage = 1 ∧ (s.collapseLive logDie archive).pm.lastCause = 0x40
    ∧ (s.collapseLive logDie archive).pm.resetCause = s.pm.resetCause ||| 2 ∧ (s.collapseLive logDie archive).pm.vinGood = false
    ∧ (s.collapseLive logDie archive).pm.vinLow = true
    ∧ (s.collapseLive logDie archive).pm.note = (s.noteCollapse (if logDie then 2 else 3)).pm.note
    ∧ OutputsOff (s.collapseLive logDie archive) ∧ (s.collapseLive logDie archive).pending = s.pending := by
  cases logDie with
  | true => exact (s.noteCollapse 2).collapseReset_frame
  | false =>
    have h := (s.noteCollapse 3).collapseReset_frame
    have hw := State.endWindows_only (s.noteCollapse 3).collapseReset
    have hp : (s.collapseLive false archive).pm = (s.noteCollapse 3).collapseReset.pm := hw.pm_eq
    have ho : (s.collapseLive false archive).out = (s.noteCollapse 3).collapseReset.out := hw.out_eq
    have hq : (s.collapseLive false archive).pending = (s.noteCollapse 3).collapseReset.pending := hw.pending_eq
    unfold OutputsOff at *
    rw [hp, ho, hq]
    exact h

/-- In Coppice mode the comparators of released rails are disarmed, and nothing sees it but the FLT pins. -/
theorem State.disable_coppice_only {s : State} (h : s.pm.state = .coppice) (m : Rails) : Only [.out, .sense, .irq, .pwm] s (s.disable m) := by
  unfold State.disable
  dsimp only
  split
  · exact Only.refl _ _
  · have hc : Only [.out, .sense] s ((srcsOf m).foldl State.cmpLow { s with out := { s.out with en := s.out.en &&& ~~~m } }) :=
      Only.foldl _ (Only.mk_upd (Only.refl _ s)) fun u x hu => Only.lift (State.cmpLow_only u x) (by decide) hu
    unfold State.senseChange
    rw [if_pos (by simp [(State.refreshFlt_only _ _).pm_eq, (State.armAll_only _ _).pm_eq, hc.pm_eq, h])]
    exact Only.lift (State.refreshFlt_only _ _) (by decide) (Only.lift (State.armAll_only _ _) (by decide) (hc.mono (by decide)))

end
section
variable (s : State)

@[simp] theorem State.refreshFlt_readings (old : State) : (s.refreshFlt old).sense.readings = s.sense.readings := by
  simp only [State.refreshFlt]
  split
  · rw [(State.tripPwm_only _ _).sense_eq]
    rfl
  · rfl

theorem State.disable_coppice_readings {s : State} (h : s.pm.state = .coppice) (m : Rails) :
    (s.disable m).sense.readings = s.sense.readings := by
  unfold State.disable
  dsimp only
  split
  · rfl
  · have hc : ((srcsOf m).foldl State.cmpLow { s with out := { s.out with en := s.out.en &&& ~~~m } }).pm = s.pm :=
      foldl_pm (fun t x => (State.cmpLow_only t x).pm_eq) _ _
    unfold State.senseChange
    rw [if_pos (by simp [(State.refreshFlt_only _ _).pm_eq, (State.armAll_only _ _).pm_eq, hc, h])]
    rw [State.refreshFlt_readings, (State.armAll_cmpsOnly _ _).readings, (CmpsOnly.foldl _ State.cmpLow_cmpsOnly _).readings]

/-! ## The commit sequence -/

theorem State.finishCopy_only_log : Only [.irq, .log] s s.finishCopy := by
  unfold State.finishCopy
  split
  · split
    · exact State.copyHead_only _ _ _
    · exact Only.refl _ _
  · exact Only.refl _ _

/-- Off keeps what the always-on domain and the storage hold. -/
theorem State.enterOff_frame : s.enterOff.pm.state = .off ∧ s.enterOff.pm.vinAlive = false ∧ s.enterOff.pm.committing = false
    ∧ s.enterOff.pm.note = s.pm.note ∧ s.enterOff.log.buffer = [] ∧ OutputsOff s.enterOff ∧ SameStorage s s.enterOff
    ∧ s.enterOff.pending = s.pending := by
  have hw := State.endWindows_only s
  have hn : s.endWindows.pm.note = s.pm.note := congrArg Pm.note hw.pm_eq
  refine ⟨rfl, rfl, rfl, hn, rfl, ⟨rfl, rfl, rfl, rfl, rfl⟩, ?_, hw.pending_eq⟩
  exact s.endWindows_sameStorage.trans ⟨rfl, rfl, rfl, rfl, rfl, rfl, rfl, rfl, rfl, rfl, rfl, rfl, rfl, rfl, rfl, rfl⟩

/-- The sequence is over, and the hold-up switch opens. -/
def State.committed (o : BitVec 2) : State :=
  { s with
    pm := { s.pm with
      committing := false
      note := s.pm.note.map (fun (n : CollapseNote) => if n.outcome = 2 then { n with outcome := o } else n) }
    pwm := { s.pwm with pads := false }
    log := { s.log with buffer := [], archiving := false } }

variable {s}

/-- VIN fell below 4.0 V meanwhile: Off. -/
theorem State.commitEnds_off (o : BitVec 2) (h : s.pm.offAfterCommit = true) : s.commitEnds o = (s.committed o).enterOff :=
  if_pos h

/-- VIN has not: stage 1 may end. -/
theorem State.commitEnds_on (o : BitVec 2) (h : s.pm.offAfterCommit = false) : s.commitEnds o = (s.committed o).leaveStage1 :=
  if_neg (by simp [h])

theorem State.leaveStage1_frame : s.leaveStage1.pm.committing = s.pm.committing ∧ s.leaveStage1.pm.note = s.pm.note := by
  unfold State.leaveStage1
  split <;> exact ⟨rfl, rfl⟩

/-- Either way no sequence runs, the buffer is empty, and an outcome that was still open is noted. -/
theorem State.commitEnds_frame (o : BitVec 2) : (s.commitEnds o).pm.committing = false ∧ (s.commitEnds o).log.buffer = []
    ∧ (s.commitEnds o).log.fr = s.log.fr ∧ (s.commitEnds o).pm.note = (s.committed o).pm.note
    ∧ (s.pm.offAfterCommit = true → (s.commitEnds o).pm.state = .off ∧ OutputsOff (s.commitEnds o))
    ∧ (s.pm.offAfterCommit = false → (s.commitEnds o).pwm = { s.pwm with pads := false } ∧ Only [.pm, .log, .pwm] s (s.commitEnds o))
    ∧ (s.commitEnds o).cfg = s.cfg ∧ (s.commitEnds o).sec.slots = s.sec.slots ∧ (s.commitEnds o).kiln.store = s.kiln.store
    ∧ (s.commitEnds o).pending = s.pending := by
  cases h : s.pm.offAfterCommit with
  | true =>
    rw [State.commitEnds_off o h]
    obtain ⟨hst, -, hc, hn, hb, ho, hs, hp⟩ := (s.committed o).enterOff_frame
    obtain ⟨-, hcfg, hsl, -, -, -, -, -, hks, -, -, -, -, -, hfr, -⟩ := hs
    exact ⟨hc, hb, hfr, hn, fun _ => ⟨hst, ho⟩, fun hf => Bool.noConfusion hf, hcfg, hsl, hks, hp⟩
  | false =>
    rw [State.commitEnds_on o h]
    have hl := State.leaveStage1_only (s.committed o)
    obtain ⟨hc, hn⟩ := (s.committed o).leaveStage1_frame
    refine ⟨hc, ?_, ?_, hn, fun hf => Bool.noConfusion hf, fun _ => ⟨hl.pwm_eq, ?_⟩, hl.cfg_eq, ?_, ?_, hl.pending_eq⟩
    · rw [hl.log_eq]; rfl
    · rw [hl.log_eq]; rfl
    · exact Only.lift hl (by decide) (Only.mk_upd (Only.refl _ s))
    · rw [hl.sec_eq]; rfl
    · rw [hl.kiln_eq]; rfl

end

/-- The sequence's shards are written; nothing outside the log and the interrupt bits changes. -/
theorem State.commitList_finishCopy_only (s : State) (l : List Shard) (b : Bool) : Only [.irq, .log] s (s.finishCopy.commitList l b) :=
  Only.lift (State.commitList_only _ _ _) (by decide) s.finishCopy_only_log

/-- What the end of the sequence leaves, told from the state before it. -/
theorem State.commitEnds_after {s u : State} (hu : Only [.irq, .log] s u) (o : BitVec 2) :
    (u.commitEnds o).pm.committing = false ∧ (u.commitEnds o).log.buffer = [] ∧ (u.commitEnds o).log.fr = u.log.fr
    ∧ (∀ n, s.pm.note = some n → n.outcome = 2 → (u.commitEnds o).pm.note = some { n with outcome := o })
    ∧ (s.pm.offAfterCommit = true → (u.commitEnds o).pm.state = .off ∧ OutputsOff (u.commitEnds o))
    ∧ (s.pm.offAfterCommit = false →
        (u.commitEnds o).pwm = { s.pwm with pads := false } ∧ Only [.pm, .log, .irq, .pwm] s (u.commitEnds o))
    ∧ (u.commitEnds o).cfg = s.cfg ∧ (u.commitEnds o).sec.slots = s.sec.slots ∧ (u.commitEnds o).kiln.store = s.kiln.store
    ∧ (u.commitEnds o).pending = s.pending := by
  obtain ⟨h1, h2, h3, h4, h5, h6, h7, h8, h9, h10⟩ := u.commitEnds_frame o
  rw [hu.pm_eq] at h5 h6
  rw [hu.cfg_eq] at h7
  rw [hu.sec_eq] at h8
  rw [hu.kiln_eq] at h9
  rw [hu.pending_eq] at h10
  refine ⟨h1, h2, h3, fun n hs ho => ?_, h5, fun hf => ?_, h7, h8, h9, h10⟩
  · rw [h4]
    simp only [State.committed, hu.pm_eq, hs, Option.map_some, ho, if_true]
  · obtain ⟨hw, hl⟩ := h6 hf
    exact ⟨hw.trans (by rw [hu.pwm_eq]), Only.lift hl (by decide) (hu.mono (by decide))⟩

theorem State.cutShard_next (s : State) (x : Shard) (words : Nat) : (s.cutShard x words).log.fr.next = s.log.fr.next := by
  have hw (t : State) (y : Stored) : (t.cutWrite 2 y words).log.fr.next = t.log.fr.next := by
    unfold State.cutWrite
    split <;> rfl
  show ((State.cutWrite _ 2 _ words).log.fr.next) = _
  rw [hw, State.skipTorn_next]

/-- A cut archive copy leaves the flight recorder as it was. -/
theorem State.cutCopy_fr (s : State) (words : Nat) : (s.cutCopy words).log.fr = s.log.fr := by
  have hw (y : Stored) : (s.cutWrite 1 y words).log.fr = s.log.fr := by
    unfold State.cutWrite
    split <;> rfl
  unfold State.cutCopy
  repeat' split
  all_goals first | rfl | exact hw _

/-- A sequence that the hold-up floor cuts has written the shards told, and no more of the flight recorder. -/
theorem State.holdUpFloor_cut (s : State) (h : s.pm.committing = true) (done words : Nat)
    (hd : done < s.log.buffer.length + (if s.log.archiving then 1 else 0)) :
    ∃ u, Only [.irq, .log] s u ∧ execHoldUpFloor done words s = .next (u.commitEnds 2)
      ∧ u.log.fr.next = s.log.fr.next + (if s.log.archiving then done - 1 else done) := by
  unfold execHoldUpFloor
  rw [if_pos h]
  dsimp only
  have hfd : (if s.log.archiving then done - 1 else done) = done - (if s.log.archiving then 1 else 0) := by split <;> rfl
  rw [hfd]
  generalize (if s.log.archiving then 1 else 0) = first at hd ⊢
  rw [if_neg (by omega)]
  split
  · next hf =>
    refine ⟨_, ?_, rfl, ?_⟩
    · exact Only.lift (State.cutCopy_only _ _) (by decide) ((State.endWindows_only s).mono (by decide))
    · rw [State.cutCopy_fr, State.endWindows_fr, Nat.sub_eq_zero_of_le (Nat.le_of_lt hf), Nat.add_zero]
  · next hf =>
    have hu := s.commitList_finishCopy_only (s.log.buffer.take (done - first)) false
    have hn := s.finishCopy.commitList_next (s.log.buffer.take (done - first)) false
    rw [State.finishCopy_fr, List.length_take, Nat.min_eq_left (by omega)] at hn
    refine ⟨_, ?_, rfl, ?_⟩
    · cases (s.log.buffer.drop (done - first)).head? with
      | none => exact hu
      | some x => exact Only.lift (State.cutShard_only _ x words) (by decide) hu
    · rw [← hn]
      cases (s.log.buffer.drop (done - first)).head? with
      | none => rfl
      | some x => exact State.cutShard_next _ x words

/-- VIN is good: a wake path that waited for it begins, or a stage 1 whose work is done ends, or nothing follows. -/
theorem State.vinGood_frame (s : State) :
    let v : State := { s with pm := { s.pm with vinGood := true, vinLow := false, vinGoodAt := s.clk.now } }
    let t := if v.pm.state = .standby ∧ v.pm.wakeHeld then v.wakeUp else v.leaveStage1
    t.pm.vinGood = true ∧ t.pm.vinLow = false ∧ t.pm.vinGoodAt = s.clk.now
      ∧ (s.pm.state = .starting → s.pm.stage = 1 → s.pm.stage1Done = true → s.pm.committing = false →
          t.pm.stage = 2 ∧ t.pm.origin = s.clk.now ∧ t.pm.logicPowered = true ∧ Only [.pm] s t)
      ∧ (s.pm.state = .standby → s.pm.wakeHeld = true →
          t.pm.state = .starting ∧ t.pm.stage = 8 ∧ t.pm.wakePath = true ∧ t.pm.wakeHeld = false ∧ t.pm.lastCause = 0x02
            ∧ t.pm.origin = s.clk.now ∧ t.out = { s.out with pfw := true, tripo := true } ∧ Only [.pm, .out, .clk, .log] s t)
      ∧ (¬ (s.pm.state = .starting ∧ s.pm.stage = 1 ∧ s.pm.stage1Done = true ∧ s.pm.committing = false) →
          ¬ (s.pm.state = .standby ∧ s.pm.wakeHeld = true) →
          t.pm = { s.pm with vinGood := true, vinLow := false, vinGoodAt := s.clk.now } ∧ Only [.pm] s t) := by
  intro v
  have hv : Only [.pm] s v := Only.mk_upd (Only.refl _ s)
  by_cases hw : s.pm.state = .standby ∧ s.pm.wakeHeld = true
  · rw [if_pos hw]
    refine ⟨rfl, rfl, rfl, fun h => ?_, fun _ _ => ⟨rfl, rfl, rfl, rfl, rfl, rfl, rfl, ?_⟩, fun _ h => absurd hw h⟩
    · exact absurd (hw.1.symm.trans h) (by decide)
    · exact Only.lift (State.wakeUp_only v) (by decide) (hv.mono (by decide))
  · rw [if_neg hw]
    by_cases hl : s.pm.state = .starting ∧ s.pm.stage = 1 ∧ s.pm.stage1Done = true ∧ s.pm.committing = false
    · obtain ⟨h1, h2, h3, h4⟩ := hl
      have hb : v.leaveStage1 = v.beginStage2 := if_pos ⟨h1, h2, h3, rfl, h4⟩
      rw [hb]
      refine ⟨rfl, rfl, rfl, fun _ _ _ _ => ⟨rfl, rfl, rfl, Only.mk_upd hv⟩, fun hs hh => absurd ⟨hs, hh⟩ hw, fun h => ?_⟩
      exact absurd ⟨h1, h2, h3, h4⟩ h
    · have hb : v.leaveStage1 = v := if_neg fun h => hl ⟨h.1, h.2.1, h.2.2.1, h.2.2.2.2⟩
      rw [hb]
      exact ⟨rfl, rfl, rfl, fun h1 h2 h3 h4 => absurd ⟨h1, h2, h3, h4⟩ hl, fun hs hh => absurd ⟨hs, hh⟩ hw, fun _ _ => ⟨rfl, hv⟩⟩

/-- Settles O1, row by row in each state. -/
theorem supplyAndCollapse : Obligations.SupplyAndCollapse := by
  unfold Obligations.SupplyAndCollapse
  refine ⟨fun root twjoin twside pb mr s h => ?_, fun s h => ?_, fun logDie archive s h => ?_, fun logDie archive s h hst => ?_,
    fun logDie archive s h hst => ?_, fun logDie archive s h => ?_, fun logDie archive s h => ?_, fun s h => ?_,
    fun done words s h hd => ?_, fun s h hv hc => ?_, fun s hv hc => ?_⟩
  · refine Answers.of_exec (if_pos h) ?_
    refine ⟨rfl, rfl, rfl, rfl, rfl, rfl, rfl, State.afterReset_outputsOff _, ?_, rfl, State.afterReset_sameStorage _, rfl⟩
    simp [State.updateHrst, State.afterReset]
  · refine Answers.of_exec (if_neg h) ?_
    obtain ⟨h1, h2, h3, h4, h5, h6⟩ := s.vinGood_frame
    exact ⟨h1, h2, h3, h4, h5, h6⟩
  · refine Answers.of_exec (t := s.collapseLive (logDie && s.log.responds) archive) ?_ ?_
    · cases hs : s.pm.state <;> simp_all [exec, execInputCollapse, State.collapse, DevState.logs]
    · obtain ⟨h1, h2, h3, h4, h5, h6, h7, h8, h9⟩ := s.collapseLive_frame (logDie && s.log.responds) archive
      refine ⟨h1, h2, h3, h4, h5, h6, h7, fun hl hr => ?_, h8, s.collapseLive_sameStorage _ _, h9⟩
      simp only [hl, hr, Bool.and_self]
      exact ⟨rfl, rfl, rfl, rfl⟩
  · refine Answers.of_exec (t := (s.noteCollapse 3).endWindows.collapseReset) (by simp [exec, execInputCollapse, State.collapse, h, hst]) ?_
    have hw := State.endWindows_only (s.noteCollapse 3)
    obtain ⟨h1, h2, h3, h4, -, h6, -, h8, h9⟩ := (s.noteCollapse 3).endWindows.collapseReset_frame
    refine ⟨h1, h2, h3, h4.trans ?_, h6.trans ?_, h8, ?_, h9.trans hw.pending_eq⟩
    · rw [hw.pm_eq]; rfl
    · rw [hw.pm_eq]; rfl
    · exact (s.noteCollapse_sameStorage 3).trans ((State.endWindows_sameStorage _).trans (State.collapseReset_sameStorage _))
  · refine Answers.of_exec (t := s.noteCollapse 3) (by simp [exec, execInputCollapse, State.collapse, h, hst]) ?_
    exact ⟨hst, rfl, rfl, State.noteCollapse_only s 3⟩
  · refine Answers.of_exec (by simp only [exec, execInputCollapse, State.collapse, h]; rfl) ?_
    have hw := State.endWindows_only (s.noteCollapse 3)
    refine ⟨?_, ?_, ?_, State.endWindows_fr _, State.endWindows_fa _, Only.mk_upd ?_⟩
    · exact (congrArg Pm.state hw.pm_eq).trans h
    · exact congrArg Pm.vinLow hw.pm_eq
    · simp only [hw.out_eq]; rfl
    · exact Only.lift hw (by decide) ((State.noteCollapse_only s 3).mono (by decide))
  · refine Answers.of_exec (by simp only [exec, execInputCollapse, State.collapse, h]; rfl) ?_
    have hs : (s.noteCollapse 3).pm.state = .coppice := h
    have hd := State.disable_coppice_only hs s.out.en
    have hp := State.disable_coppice hs s.out.en
    refine ⟨?_, ?_, ⟨rfl, rfl, rfl, rfl, rfl⟩, rfl, fun c => ?_, State.disable_coppice_readings hs _, Only.mk_upd ?_⟩
    · exact (congrArg Pm.state hp).trans h
    · exact congrArg Pm.vinLow hp
    · simp only [State.collapseOutputs, nth, List.getElem?_map]
      cases ((s.noteCollapse 3).disable s.out.en).pwm.chs[c]? <;> rfl
    · refine Only.lift (State.collapseOutputs_only _) (by decide) (Only.lift hd (by decide) ?_)
      exact (State.noteCollapse_only s 3).mono (by decide)
  · refine Answers.of_exec (if_pos h) ?_
    have hn := s.finishCopy.commitList_next s.log.buffer true
    obtain ⟨h1, h2, h3, h4⟩ := State.commitEnds_after (s.commitList_finishCopy_only s.log.buffer true) 1
    exact ⟨h1, h2, by rw [h3, hn, State.finishCopy_fr], h4⟩
  · obtain ⟨u, hu, hex, hn⟩ := s.holdUpFloor_cut h done words hd
    refine Answers.of_exec hex ?_
    obtain ⟨h1, h2, h3, h4, h5⟩ := State.commitEnds_after hu 2
    exact ⟨h1, h2, by rw [h3, hn], fun n hs ho => (h4 n hs ho).trans (by rw [← ho]), h5⟩
  · refine Answers.of_exec (t := s.enterOff) (by simp [exec, execVinBelow4v, hv, hc, h]) ?_
    obtain ⟨h1, h2, -, -, -, h6, h7, h8⟩ := s.enterOff_frame
    exact ⟨h1, h2, h6, h7, h8⟩
  · refine Answers.of_exec (t := { s with
      pm := { s.pm with vinAlive := false, vinGood := false, vinLow := true, offAfterCommit := true } })
      (by simp [exec, execVinBelow4v, hv, hc]) ⟨rfl, Only.mk_upd (Only.refl _ s)⟩

end Sys2Proof.Machine
end

section
/-! SUPPORT. The start-up stages (O2). -/

set_option Elab.async false

namespace Sys2Proof.Machine

/-! ## What a fault or a reading leaves in Starting -/

/-- In Starting the fault logic holds what it receives (R369): the latch, the held faults, PFW and TRIPO may change with the measurement
and the sweep; time, the stages, the levels of every other output and storage stay. -/
structure HeldInStarting (s t : State) : Prop where
  pm : t.pm = { s.pm with
    faultLatch := t.pm.faultLatch, onPending := t.pm.onPending, held := t.pm.held, heldFirst := t.pm.heldFirst }
  out : t.out = { s.out with pfw := t.out.pfw, tripo := t.out.tripo }
  ctl : t.ctl = { s.ctl with ignoredOn := t.ctl.ignoredOn }
  store : t.kiln.store = s.kiln.store
  fr : t.log.fr = s.log.fr
  fa : t.log.fa = s.log.fa
  only : Only [.pm, .out, .ctl, .sense, .kiln, .walk, .fault, .irq, .mg, .log, .twin, .pwm, .free] s t

namespace HeldInStarting

theorem refl (s : State) : HeldInStarting s s := ⟨rfl, rfl, rfl, rfl, rfl, rfl, Only.refl _ s⟩

variable {s t u : State}

theorem trans (h : HeldInStarting s t) (k : HeldInStarting t u) : HeldInStarting s u where
  pm := by rw [k.pm, h.pm]
  out := by rw [k.out, h.out]
  ctl := by rw [k.ctl, h.ctl]
  store := k.store.trans h.store
  fr := k.fr.trans h.fr
  fa := k.fa.trans h.fa
  only := h.only.trans k.only

theorem state (h : HeldInStarting s t) : t.pm.state = s.pm.state := by rw [h.pm]

theorem origin (h : HeldInStarting s t) : t.pm.origin = s.pm.origin := by rw [h.pm]

theorem en (h : HeldInStarting s t) : t.out.en = s.out.en := by rw [h.out]

theorem passive (h : HeldInStarting s t) : t.out.passive = s.out.passive := by rw [h.out]

theorem pbSinceStage1 (h : HeldInStarting s t) : t.ctl.pbSinceStage1 = s.ctl.pbSinceStage1 := by rw [h.ctl]

/-- What changes no part but the measurement, the pins of faults and the channels. -/
theorem of_only {ps : List Part} (h : Only ps s t) (hp : Part.pm ∉ ps ∧ Part.out ∉ ps ∧ Part.ctl ∉ ps ∧ Part.kiln ∉ ps ∧ Part.log ∉ ps)
    (hs : Part.sub ps [.pm, .out, .ctl, .sense, .kiln, .walk, .fault, .irq, .mg, .log, .twin, .pwm, .free] = true) :
    HeldInStarting s t := by
  obtain ⟨h1, h2, h3, h4, h5⟩ := hp
  exact ⟨by rw [h.pm_eq h1], by rw [h.out_eq h2], by rw [h.ctl_eq h3], by rw [h.kiln_eq h4], by rw [h.log_eq h5],
    by rw [h.log_eq h5], h.mono hs⟩

theorem foldl {α : Type} {f : State → α → State} (hf : ∀ t x, t.pm.state = .starting → HeldInStarting t (f t x))
    (hs : s.pm.state = .starting) (l : List α) : HeldInStarting s (l.foldl f s) := by
  induction l generalizing s with
  | nil => exact refl s
  | cons x l ih =>
    have hx := hf s x hs
    exact hx.trans (ih (hx.state.trans hs))

end HeldInStarting

section
variable (s : State)

theorem State.faultShard_heldInStarting (f : FaultRec) (d table repeats : Nat) : HeldInStarting s (s.faultShard f d table repeats) :=
  ⟨rfl, rfl, rfl, rfl, s.capture_fr _ _ _, s.capture_fa _ _ _, (s.faultShard_only f d table repeats).mono (by decide)⟩

theorem State.holdFault_heldInStarting (f : FaultRec) (table : Nat) : HeldInStarting s (s.holdFault f table) := by
  unfold State.holdFault
  dsimp only
  split
  · exact HeldInStarting.refl s
  · split
    · exact ⟨rfl, rfl, rfl, rfl, rfl, rfl, (Only.refl _ s).mk_upd⟩
    · exact ⟨rfl, rfl, rfl, rfl, rfl, rfl, (Only.refl _ s).mk_upd⟩

theorem State.assertPfw_heldInStarting : HeldInStarting s s.assertPfw := by
  have ho := s.assertPfw_only
  refine ⟨by rw [ho.pm_eq], ?_, by rw [ho.ctl_eq], by rw [ho.kiln_eq], by rw [ho.log_eq], by rw [ho.log_eq], ho.mono (by decide)⟩
  unfold State.assertPfw
  split <;> rfl

theorem State.assertTripo_heldInStarting : HeldInStarting s s.assertTripo := by
  have ho := s.assertTripo_only
  refine ⟨by rw [ho.pm_eq], ?_, by rw [ho.ctl_eq], by rw [ho.kiln_eq], by rw [ho.log_eq], by rw [ho.log_eq], ho.mono (by decide)⟩
  unfold State.assertTripo
  split <;> rfl

theorem State.recordOnly_heldInStarting (f : FaultRec) : HeldInStarting s (s.recordOnly f) := by
  unfold State.recordOnly
  dsimp only
  refine HeldInStarting.trans ?_ ((State.assertPfw_heldInStarting _).trans (State.assertTripo_heldInStarting _))
  have hl : HeldInStarting s (s.setLatch.recordBisque f s.clk.aonStamp) := by
    refine HeldInStarting.trans (t := s.setLatch) ⟨rfl, rfl, rfl, rfl, rfl, rfl, s.setLatch_only.mono (by decide)⟩
      (HeldInStarting.of_only (State.recordBisque_only s.setLatch f _) (by decide) (by decide))
  refine hl.trans ?_
  split
  · exact HeldInStarting.of_only (State.recordFirst_only _ _ _) (by decide) (by decide)
  · exact ⟨rfl, rfl, rfl, rfl, rfl, rfl, (Only.refl _ _).mk_upd⟩

variable {s}

theorem State.receive_heldInStarting (h : s.pm.state = .starting) (f : FaultRec) : HeldInStarting s (s.receive f) := by
  unfold State.receive State.receiveAs
  split
  · exact s.faultShard_heldInStarting _ _ _ _
  · split
    · simp only [State.receiveW, h]
      exact s.holdFault_heldInStarting _ _
    · simp only [State.receiveTH, h]
      exact (s.recordOnly_heldInStarting f).trans (State.holdFault_heldInStarting _ _ _)

theorem State.deliver_heldInStarting (h : s.pm.state = .starting) (e : FaultRec × Nat) : HeldInStarting s (s.deliver e) := by
  unfold State.deliver
  split
  · exact ⟨rfl, rfl, rfl, rfl, rfl, rfl, (Only.refl _ s).mk_upd⟩
  · exact State.receive_heldInStarting h _

theorem State.endPersist_heldInStarting (h : s.pm.state = .starting) (src : Nat) : HeldInStarting s (s.endPersist src) := by
  unfold State.endPersist
  refine HeldInStarting.trans (t := { s with fault := { s.fault with persist := s.fault.persist.filter (fun p => p.1 != src) } })
    ⟨rfl, rfl, rfl, rfl, rfl, rfl, (Only.refl _ s).mk_upd⟩ ?_
  exact HeldInStarting.foldl (s := { s with fault := { s.fault with persist := s.fault.persist.filter (fun p => p.1 != src) } })
    (f := fun (u : State) (p : Nat × Nat × Nat) => u.receive (persistFault p.1 p.2.1 (if u.clk.now < p.2.2 then 1 else 2)))
    (fun t p ht => State.receive_heldInStarting ht _) h _

variable (s)

@[simp] theorem State.observeEngine_store (k : Nat) : (s.observeEngine k).kiln.store = s.kiln.store := by
  unfold State.observeEngine
  split <;> rfl

theorem State.observeChecks_store : s.observeChecks.kiln.store = s.kiln.store := by
  simp only [State.observeChecks, List.foldl_cons, List.foldl_nil, State.observeEngine_store]

theorem State.trendShard_fr (n result : Nat) : (s.trendShard n result).log.fr = s.log.fr := by
  unfold State.trendShard
  dsimp only
  split
  · exact Log.push_fr _ _
  · rfl

theorem State.trendShard_fa (n result : Nat) : (s.trendShard n result).log.fa = s.log.fa := by
  unfold State.trendShard
  dsimp only
  split
  · exact Log.push_fa _ _
  · rfl

@[simp] theorem State.endRail_fr (n result : Nat) : (s.endRail n result).log.fr = s.log.fr := by
  unfold State.endRail
  dsimp only
  split
  · rw [State.setTrim_log, (State.trimNominal_only _ _).log_eq, State.trendShard_fr, State.setTrim_log]
  · rw [State.setTrim_log, State.trendShard_fr, State.setTrim_log]

@[simp] theorem State.endRail_fa (n result : Nat) : (s.endRail n result).log.fa = s.log.fa := by
  unfold State.endRail
  dsimp only
  split
  · rw [State.setTrim_log, (State.trimNominal_only _ _).log_eq, State.trendShard_fa, State.setTrim_log]
  · rw [State.setTrim_log, State.trendShard_fa, State.setTrim_log]

@[simp] theorem State.abortRail_fr (n result : Nat) : (s.abortRail n result).log.fr = s.log.fr := by
  unfold State.abortRail
  split
  · rw [(State.finishCycle_only _).log_eq, State.endRail_fr]
  · rfl

@[simp] theorem State.abortRail_fa (n result : Nat) : (s.abortRail n result).log.fa = s.log.fa := by
  unfold State.abortRail
  split
  · rw [(State.finishCycle_only _).log_eq, State.endRail_fa]
  · rfl

theorem State.sweepSees_fr : s.sweepSees.log.fr = s.log.fr := by
  unfold State.sweepSees
  repeat' split
  all_goals first | rfl | exact State.abortRail_fr _ _ _

theorem State.sweepSees_fa : s.sweepSees.log.fa = s.log.fa := by
  unfold State.sweepSees
  repeat' split
  all_goals first | rfl | exact State.abortRail_fa _ _ _

theorem State.observeChecks_heldInStarting : HeldInStarting s s.observeChecks := by
  have ho := s.observeChecks_only
  exact ⟨by rw [ho.pm_eq], by rw [ho.out_eq], by rw [ho.ctl_eq], s.observeChecks_store, by rw [ho.log_eq], by rw [ho.log_eq],
    ho.mono (by decide)⟩

theorem State.sweepSees_heldInStarting : HeldInStarting s s.sweepSees := by
  have ho := s.sweepSees_only
  exact ⟨by rw [ho.pm_eq], by rw [ho.out_eq], by rw [ho.ctl_eq], by rw [ho.kiln_eq], s.sweepSees_fr, s.sweepSees_fa,
    ho.mono (by decide)⟩

variable {s}

theorem State.coreSees_heldInStarting (h : s.pm.state = .starting) (old : State) (srcs : List Nat) :
    HeldInStarting s (s.coreSees old srcs) := by
  unfold State.coreSees
  have h1 : HeldInStarting s s.observeChecks.sweepSees := s.observeChecks_heldInStarting.trans (State.sweepSees_heldInStarting _)
  dsimp only
  refine h1.trans ?_
  have h2 := HeldInStarting.foldl (f := State.deliver) (fun t e ht => State.deliver_heldInStarting ht e) (h1.state.trans h)
  exact (h2 _).trans (HeldInStarting.foldl (fun t src ht => State.endPersist_heldInStarting ht src)
    ((h2 _).state.trans (h1.state.trans h)) _)

theorem State.senseChange_heldInStarting (h : s.pm.state = .starting) (old : State) (srcs : List Nat) :
    HeldInStarting s (s.senseChange old srcs) := by
  have h1 : HeldInStarting s ((s.armAll srcs).refreshFlt old) :=
    (HeldInStarting.of_only (State.armAll_only _ _) (by decide) (by decide)).trans
      (HeldInStarting.of_only (State.refreshFlt_only _ _) (by decide) (by decide))
  unfold State.senseChange
  dsimp only
  split
  · exact h1
  · exact h1.trans (State.coreSees_heldInStarting (h1.state.trans h) _ _)

end

section
variable {s : State}

theorem State.resolveBy_heldInStarting (h : s.pm.state = .starting) (n : Nat) (code : BitVec 16) :
    HeldInStarting s (s.resolveBy n code) := by
  unfold State.resolveBy
  dsimp only
  split
  · exact HeldInStarting.refl s
  · have h1 : HeldInStarting s ([4 * n, 4 * n + 1, 4 * n + 2, 4 * n + 3].foldl (fun u src =>
        if (u.cmp src).status = .unresolved ∧ u.evaluated src then
          match u.shownSide src code with
          | some f => u.observe src f
          | none => u
        else u) s) := by
      refine HeldInStarting.foldl (fun t src _ => ?_) h _
      split
      · split
        · exact HeldInStarting.of_only (State.observe_only _ _ _) (by decide) (by decide)
        · exact HeldInStarting.refl t
      · exact HeldInStarting.refl t
    exact h1.trans (State.senseChange_heldInStarting (h1.state.trans h) _ _)

theorem State.takeReading_heldInStarting (h : s.pm.state = .starting) (i : Nat) (raw : BitVec 16) :
    HeldInStarting s (s.takeReading i raw) := by
  have hb (t : State) : HeldInStarting t (t.bumpSeq i) :=
    HeldInStarting.of_only (State.bumpSeq_only _ _) (by decide) (by decide)
  have hp (t : State) (code : BitVec 16) : HeldInStarting t (t.putReading i code) :=
    HeldInStarting.of_only (State.putReading_only _ _ _) (by decide) (by decide)
  have hr (t : State) (code : BitVec 16) (ht : HeldInStarting s t) : HeldInStarting s (if i < 64 then t.resolveBy i code else t) := by
    split
    · exact ht.trans (State.resolveBy_heldInStarting (ht.state.trans h) _ _)
    · exact ht
  unfold State.takeReading
  split
  · exact HeldInStarting.refl s
  · have hd : HeldInStarting s (if 96 ≤ i then { s with sense := { s.sense with
        diodeHalf := putBit s.sense.diodeHalf (i - 96) (s.isHalf i) } } else s) := by
      split
      · exact ⟨rfl, rfl, rfl, rfl, rfl, rfl, (Only.refl _ s).mk_upd⟩
      · exact HeldInStarting.refl s
    dsimp only
    generalize (if 96 ≤ i then { s with sense := { s.sense with
        diodeHalf := putBit s.sense.diodeHalf (i - 96) (s.isHalf i) } } else s) = u at hd ⊢
    split
    · exact hd.trans (hb u)
    · exact hr _ _ (hd.trans (hp u _))

theorem State.failCmps_heldInStarting (h : s.pm.state = .starting) (srcs : List Nat) : HeldInStarting s (s.failCmps srcs) := by
  unfold State.failCmps
  have h1 : HeldInStarting s ((srcs.filter (· < 256)).foldl
      (fun u src => u.setCmp src { u.cmp src with status := .failed, out := true }) s) :=
    HeldInStarting.foldl (fun t src _ => HeldInStarting.of_only (State.setCmp_only _ _ _) (by decide) (by decide)) h _
  exact h1.trans (State.senseChange_heldInStarting (h1.state.trans h) _ _)

/-- Stage 5's measurements leave all of the clock but the crystal's verdict. -/
theorem State.arming_heldInStarting (h : s.pm.state = .starting) (r : StageResult) :
    HeldInStarting s { s.arming r with clk := s.clk } ∧ (s.arming r).clk = { s.clk with x32Xtal := (s.arming r).clk.x32Xtal } := by
  let live := r.resolved.filter (fun e => decide (e.1 < 256) && s.evaluated e.1)
  let u := r.readings.foldl (fun (u : State) e => u.takeReading e.1 e.2)
    ((live.foldl (fun (u : State) e => u.observe e.1 e.2) s).senseChange s (live.map Prod.fst))
  have h1 : HeldInStarting s (live.foldl (fun (u : State) e => u.observe e.1 e.2) s) :=
    HeldInStarting.foldl (fun t e _ => HeldInStarting.of_only (State.observe_only _ _ _) (by decide) (by decide)) h _
  have h2 := h1.trans (State.senseChange_heldInStarting (h1.state.trans h) s (live.map Prod.fst))
  have h3 : HeldInStarting s u :=
    h2.trans (HeldInStarting.foldl (fun t e ht => State.takeReading_heldInStarting ht _ _) (h2.state.trans h) _)
  have hc : u.clk = s.clk := h3.only.clk_eq
  refine ⟨?_, ?_⟩
  · refine ⟨h3.pm, h3.out, h3.ctl, h3.store, h3.fr, h3.fa, ?_⟩
    intro p hp
    have := h3.only p hp
    cases p <;> first | exact this | rfl
  · have hx : (s.arming r).clk = { u.clk with x32Xtal := (s.arming r).clk.x32Xtal } := rfl
    exact hx.trans (by rw [hc])

end

/-! ## The configuration read -/

/-- What a configuration register reads rests on the configuration and what of it has been loaded. -/
theorem State.cfgAt_congr {s t : State} (h : t.cfg = s.cfg) (hl : t.cfgLoaded = s.cfgLoaded) (hg : t.sgLoaded = s.sgLoaded) (a : Nat) :
    t.cfgAt a = s.cfgAt a := by
  have hr (r : Reg) : rawReg t r = rawReg s r := by simp only [rawReg, h]
  simp only [State.cfgAt, hr, hl, hg]

theorem Only.cfgAt_eq {ps : List Part} {s t : State} (h : Only ps s t) (a : Nat)
    (hp : Part.cfg ∉ ps ∧ Part.cfgLoaded ∉ ps ∧ Part.sgLoaded ∉ ps := by decide) : t.cfgAt a = s.cfgAt a :=
  State.cfgAt_congr (h.cfg_eq hp.1) (h.cfgLoaded_eq hp.2.1) (h.sgLoaded_eq hp.2.2) a

/-! ## The entry to Ready -/

section
variable {s : State}

theorem State.receiveW_live (h : s.pm.state.logs = true) (f : FaultRec) : Only [.ctl, .irq, .log] s (s.receiveW f) := by
  have hw : Only [.ctl, .irq, .log] s
      (((State.irqCt { s with ctl := { s.ctl with warnCount := inc 65535 s.ctl.warnCount } } 0)).faultShard f 3 0xFF 0) :=
    Only.lift (State.faultShard_only _ _ _ _ _) (by decide) (Only.lift (State.irqCt_only _ _) (by decide) (Only.refl _ s).mk_upd)
  unfold State.receiveW
  revert h
  cases hs : s.pm.state <;> intro h
  all_goals first | exact hw | exact absurd h (by decide)

theorem State.raiseUnresolved_live (h : s.pm.state.logs = true) : Only [.ctl, .irq, .log] s s.raiseUnresolved := by
  unfold State.raiseUnresolved
  refine Only.foldl _ (Only.refl _ s) fun u x hu => ?_
  split
  · exact Only.lift (State.receiveW_live (by rw [hu.pm_eq]; exact h) _) (by decide) hu
  · exact hu

theorem State.logHeld_pm : s.logHeld.pm = { s.pm with held := [], heldFirst := none } := by
  have h : (s.pm.held.foldl (fun u h => if h.what.cause = 0x28 then u else u.faultShard h.what 6 h.table.toNat 0) s).pm = s.pm :=
    foldl_pm (fun t x => by
      split
      · rfl
      · exact (State.faultShard_only _ _ _ _ _).pm_eq) _ _
  unfold State.logHeld
  dsimp only
  rw [(State.firstFromHeld_only _).pm_eq, h]

/-- The entry to Ready: the state, and what the log notes of it. -/
def State.readyNoted (s : State) : State :=
  let s := { s with pm := { s.pm with
    readyTime := s.readyTime, stage := 6, portUp := true, wakePath := false, stage1Done := true } }
  let s := (s.goTo .ready 0x01).captureTorn
  { s with log := { s.log with scrubFrom := s.clk.now } }

/-- The entry to Ready: the outputs. -/
def State.readyPins (s : State) : State :=
  let s := { s with out := { s.out with enpu := !s.out.passive }, pwm := { s.pwm with pads := true } }
  let s := (List.range 64).foldl State.trimNominal s
  (if s.pm.faultLatch then s else s.releaseTrips).updateHrst

/-- The entry to Ready: the ownership window, the two-wire ports, the self-tests and the twin. -/
def State.readyUnits (s : State) : State :=
  State.twinAtReady (State.startSelfTest { s with
    sec := { s.sec with windowDue := if s.ctl.pbSinceStage1 && s.inp.pb then some (s.clk.now + 60 * secondTicks) else none }
    tw := s.tw.mapIdx (fun i (p : TwPort) =>
      if bit (s.cfgAt (0xB0000 + 0x40 * i)) 31 then { p with activity := 3, busy := true } else p) })

/-- The entry to Ready: the faults held and the comparators that are unresolved. -/
def State.readyFaults (s : State) : State := s.logHeld.raiseUnresolved.startOffMin

theorem State.enterReady_eq : s.enterReady =
    ((bitsOf s.readyNoted.readyPins.readyUnits.readyFaults.inp.tripi).foldl (fun t i => t.receiveCause 1 i)
      s.readyNoted.readyPins.readyUnits.readyFaults).startRequests := rfl

theorem State.readyNoted_pm : s.readyNoted.pm = { s.pm with
    readyTime := s.readyTime, stage := 6, portUp := true, wakePath := false, stage1Done := true, state := .ready, lastCause := 1 } := by
  show (State.captureTorn _).pm = _
  rw [(State.captureTorn_only _).pm_eq]
  rfl

theorem State.readyNoted_only : Only [.pm, .log] s s.readyNoted := by
  have h := Only.refl [.pm, .log] s
  unfold State.readyNoted
  dsimp only
  repeat' first
      | with_reducible assumption | with_reducible apply Only.lift (State.captureTorn_only ..)
      | with_reducible apply Only.lift (State.goTo_only ..) | with_reducible refine Only.mk_upd ?_
      | (with_reducible show Part.sub _ _ = true; decide)

theorem State.readyPins_only : Only [.out, .pwm, .mg] s s.readyPins := by
  have h := Only.refl [.out, .pwm, .mg] s
  unfold State.readyPins
  dsimp only
  repeat' first
      | with_reducible assumption | with_reducible apply Only.lift (State.updateHrst_only ..) | split
      | with_reducible apply Only.lift (State.releaseTrips_only ..) | with_reducible refine Only.foldl _ ?_ (fun u x hu => ?_)
      | with_reducible apply Only.lift (State.trimNominal_only ..) | with_reducible refine Only.mk_upd ?_
      | (with_reducible show Part.sub _ _ = true; decide)

theorem State.readyPins_out : s.readyPins.out.en = s.out.en ∧ s.readyPins.out.passive = s.out.passive
    ∧ s.readyPins.out.enpu = !s.out.passive
    ∧ (s.pm.faultLatch = false → s.readyPins.out.pfw = false ∧ s.readyPins.out.tripo = false) := by
  have h (t : State) : Only [.mg] t ((List.range 64).foldl State.trimNominal t) :=
    Only.foldl _ (Only.refl _ t) fun u x hu => Only.lift (State.trimNominal_only _ _) (by decide) hu
  unfold State.readyPins
  dsimp only
  have hu := h { s with out := { s.out with enpu := !s.out.passive }, pwm := { s.pwm with pads := true } }
  generalize (List.range 64).foldl State.trimNominal _ = u at hu ⊢
  have hp : u.pm = s.pm := hu.pm_eq
  have ho : u.out = { s.out with enpu := !s.out.passive } := hu.out_eq
  cases hl : u.pm.faultLatch with
  | true =>
    rw [if_pos rfl]
    refine ⟨by rw [State.updateHrst, ho], by rw [State.updateHrst, ho], by rw [State.updateHrst, ho], fun hf => ?_⟩
    rw [hp, hf] at hl
    exact absurd hl (by decide)
  | false =>
    rw [if_neg (by decide)]
    refine ⟨?_, ?_, ?_, fun _ => ⟨rfl, rfl⟩⟩
    all_goals
      rw [State.updateHrst, State.releaseTrips, ho]

theorem State.readyUnits_frame (h : s.out.passive = false) : Only [.sec, .tw, .sense, .twin, .out] s s.readyUnits
    ∧ s.readyUnits.out = { s.out with twok := s.readyUnits.out.twok }
    ∧ s.readyUnits.sec = { s.sec with
        windowDue := if s.ctl.pbSinceStage1 && s.inp.pb then some (s.clk.now + 60 * secondTicks) else none } := by
  unfold State.readyUnits State.twinAtReady
  rw [if_neg (by rw [(State.startSelfTest_only _).out_eq, h]; decide)]
  refine ⟨?_, rfl, rfl⟩
  have h := Only.refl [.sec, .tw, .sense, .twin, .out] s
  dsimp only
  repeat' first
      | with_reducible assumption | with_reducible apply Only.lift (State.updateTwok_only ..)
      | with_reducible apply Only.lift (State.startSelfTest_only ..) | with_reducible refine Only.mk_upd ?_
      | (with_reducible show Part.sub _ _ = true; decide)

theorem State.readyFaults_frame (h : s.pm.state.logs = true) : Only [.pm, .fault, .log, .ctl, .irq] s s.readyFaults
    ∧ s.readyFaults.pm = { s.pm with
        held := [], heldFirst := none,
        offMinDue := if fld (s.cfgAt 0x6000C) 15 0 = 0 then none else some (s.clk.now + fld (s.cfgAt 0x6000C) 15 0 * msTicks) } := by
  have hl := s.logHeld_only
  have hp := s.logHeld_pm
  have hr : Only [.ctl, .irq, .log] s.logHeld s.logHeld.raiseUnresolved := State.raiseUnresolved_live (by rw [hp]; exact h)
  have hc := (hl.mono (by decide : Part.sub _ [.pm, .fault, .log, .ctl, .irq] = true)).trans (hr.mono (by decide))
  refine ⟨Only.lift (State.startOffMin_only _) (by decide) hc, ?_⟩
  unfold State.readyFaults State.startOffMin
  dsimp only
  rw [hr.pm_eq, hp, hc.cfgAt_eq, hc.clk_eq]

/-- The entry to Ready where the device is not passive and no request and no TRIPI line is found. -/
theorem State.enterReady_quiet (hp : s.out.passive = false) (hq : s.onreqEn = false) (ha : s.autoOn = false) (ht : s.inp.tripi = 0) :
    s.enterReady = s.readyNoted.readyPins.readyUnits.readyFaults := by
  have hn := State.readyNoted_only (s := s)
  have ho := State.readyPins_only (s := s.readyNoted)
  have hu := (State.readyUnits_frame (s := s.readyNoted.readyPins) (by rw [State.readyPins_out.2.1, hn.out_eq, hp])).1
  have hf := (State.readyFaults_frame (s := s.readyNoted.readyPins.readyUnits)
    (by rw [hu.pm_eq, ho.pm_eq, State.readyNoted_pm]; rfl)).1
  have hall : Only [.pm, .log, .out, .pwm, .mg, .sec, .tw, .sense, .twin, .fault, .ctl, .irq] s
      s.readyNoted.readyPins.readyUnits.readyFaults :=
    (hn.mono (by decide)).trans ((ho.mono (by decide)).trans ((hu.mono (by decide)).trans (hf.mono (by decide))))
  rw [State.enterReady_eq]
  generalize s.readyNoted.readyPins.readyUnits.readyFaults = t at hall ⊢
  have hi : t.inp = s.inp := hall.inp_eq
  have hb : bitsOf (0 : BitVec 4) = [] := by decide
  rw [hi, ht, hb, List.foldl_nil, State.startRequests]
  have hq' : t.onreqEn = false := by rw [State.onreqEn, hall.cfgAt_eq]; exact hq
  have ha' : t.autoOn = false := by rw [State.autoOn, hall.cfgAt_eq]; exact ha
  rw [hq', ha']
  rfl

theorem State.enterReady_frame (hp : s.out.passive = false) (hq : s.onreqEn = false) (ha : s.autoOn = false) (ht : s.inp.tripi = 0) :
    Only [.pm, .log, .out, .pwm, .mg, .sec, .tw, .sense, .twin, .fault, .ctl, .irq] s s.enterReady
    ∧ s.enterReady.pm = { s.pm with
        readyTime := s.readyTime, stage := 6, portUp := true, wakePath := false, stage1Done := true, state := .ready, lastCause := 1,
        held := [], heldFirst := none,
        offMinDue := if fld (s.cfgAt 0x6000C) 15 0 = 0 then none else some (s.clk.now + fld (s.cfgAt 0x6000C) 15 0 * msTicks) }
    ∧ s.enterReady.out.en = s.out.en ∧ s.enterReady.out.enpu = true
    ∧ (s.pm.faultLatch = false → s.enterReady.out.pfw = false ∧ s.enterReady.out.tripo = false)
    ∧ s.enterReady.sec = { s.sec with
        windowDue := if s.ctl.pbSinceStage1 && s.inp.pb then some (s.clk.now + 60 * secondTicks) else none } := by
  rw [State.enterReady_quiet hp hq ha ht]
  have hn := State.readyNoted_only (s := s)
  have ho := State.readyPins_only (s := s.readyNoted)
  obtain ⟨hen, hpa, henpu, hrel⟩ := State.readyPins_out (s := s.readyNoted)
  obtain ⟨hu, huo, hus⟩ := State.readyUnits_frame (s := s.readyNoted.readyPins) (by rw [hpa, hn.out_eq, hp])
  have hpm : s.readyNoted.readyPins.readyUnits.pm = s.readyNoted.pm := by rw [hu.pm_eq, ho.pm_eq]
  obtain ⟨hf, hfp⟩ := State.readyFaults_frame (s := s.readyNoted.readyPins.readyUnits) (by rw [hpm, State.readyNoted_pm]; rfl)
  have h3 : Only [.pm, .log, .out, .pwm, .mg, .sec, .tw, .sense, .twin] s s.readyNoted.readyPins.readyUnits :=
    (hn.mono (by decide)).trans ((ho.mono (by decide)).trans (hu.mono (by decide)))
  have h2 : Only [.pm, .log, .out, .pwm, .mg] s s.readyNoted.readyPins := (hn.mono (by decide)).trans (ho.mono (by decide))
  refine ⟨(h3.mono (by decide)).trans (hf.mono (by decide)), ?_, ?_, ?_, ?_, ?_⟩
  · rw [hfp, hpm, State.readyNoted_pm, h3.cfgAt_eq, h3.clk_eq]
  · rw [hf.out_eq, huo, ← hn.out_eq, ← hen]
  · rw [hf.out_eq, huo]
    show s.readyNoted.readyPins.out.enpu = true
    rw [henpu, hn.out_eq, hp]
    rfl
  · intro hl
    rw [hf.out_eq, huo]
    exact hrel (by rw [State.readyNoted_pm]; exact hl)
  · rw [hf.sec_eq, hus, h2.sec_eq, h2.ctl_eq, h2.inp_eq, h2.clk_eq]

end

/-! ## Stage 1 -/

theorem nth_mapIdx {α : Type} (l : List α) (f : Nat → α → α) (i : Nat) (d : α) (hi : i < l.length) :
    nth (l.mapIdx f) i d = f i (nth l i d) := by
  simp [nth, List.getElem?_mapIdx, List.getElem?_eq_getElem hi]

section
variable {s : State}

theorem State.loadCopy_only_pm (c : SgCopy) : (s.loadCopy c).pm = { s.pm with stage1Done := true } := by
  show { (s.loadPart c.part).pm with stage1Done := true } = _
  rw [(s.loadPart_only c.part).pm_eq]

theorem State.loadCopy_loaded (c : SgCopy) : Loaded c s (s.loadCopy c) := by
  have h := s.loadHeld_only c.part.held
  refine ⟨rfl, rfl, rfl, rfl, rfl, rfl, rfl, rfl, rfl, fun i hi => ?_, ?_, fun n hn => ?_⟩
  · show nth ((s.loadHeld c.part.held).sec.slots.mapIdx _) i ({} : KeySlot) = _
    rw [h.sec_eq, nth_mapIdx _ _ _ _ hi]
  · show { (s.loadHeld c.part.held).kiln with sgStore := c.part.store } = _
    rw [h.kiln_eq]
  · show nth ((s.loadHeld c.part.held).fault.tables.mapIdx _) n ({} : CoolTable) = _
    rw [h.fault_eq, nth_mapIdx _ _ _ _ hn]

theorem State.loadCopy_storeRepair (c : SgCopy) : (s.loadCopy c).sec.storeRepair = s.sec.storeRepair := by
  show (s.loadHeld c.part.held).sec.storeRepair = _
  rw [(s.loadHeld_only c.part.held).sec_eq]

/-- Stage 1 hands over to stage 2 where its work is done, VIN is good and no commit sequence runs. -/
theorem State.leaveStage1_eq (h : s.pm.state = .starting) (h1 : s.pm.stage = 1) (hd : s.pm.stage1Done = true) :
    (s.pm.vinGood = true → s.pm.committing = false → s.leaveStage1 = s.beginStage2)
      ∧ (s.pm.vinGood = false ∨ s.pm.committing = true → s.leaveStage1 = s) := by
  unfold State.leaveStage1
  refine ⟨fun hv hc => if_pos ⟨h, h1, hd, hv, hc⟩, fun hn => if_neg ?_⟩
  rintro ⟨-, -, -, hv, hc⟩
  cases hn with
  | inl hv' => rw [hv'] at hv; exact absurd hv (by decide)
  | inr hc' => rw [hc'] at hc; exact absurd hc (by decide)

/-- What handing over to stage 2 leaves of the outcome of stage 1. -/
theorem State.leaveStage1_pm : s.leaveStage1.pm.failCode = s.pm.failCode ∧ s.leaveStage1.pm.portUp = s.pm.portUp
    ∧ s.leaveStage1.pm.lastCause = s.pm.lastCause ∧ s.leaveStage1.pm.stage1Done = s.pm.stage1Done
    ∧ s.leaveStage1.pm.state = s.pm.state := by
  unfold State.leaveStage1
  split
  · exact ⟨rfl, rfl, rfl, rfl, rfl⟩
  · exact ⟨rfl, rfl, rfl, rfl, rfl⟩

theorem Loaded.of_leaveStage1 {c : SgCopy} {a : State} (h : Loaded c a s) : Loaded c a s.leaveStage1 := by
  have ho := s.leaveStage1_only
  unfold Loaded at *
  rw [ho.sgLoaded_eq, ho.sec_eq, ho.kiln_eq, ho.fault_eq]
  exact h

end

section
variable {s : State} (r : StageResult)

/-- Stage 1's work before it hands over. -/
def State.stage1Load (s : State) (r : StageResult) : State :=
  match (s.samplePins r).goodCopies r with
  | (some c, _) => (s.samplePins r).loadCopy c
  | (none, some c) =>
    State.loadCopy { s.samplePins r with sec := { s.sec with storeRepair := inc 255 s.sec.storeRepair } } c
  | (none, none) => (s.samplePins r).startFail 1 true

theorem State.stage1Work_eq : s.stage1Work r = (s.stage1Load r).leaveStage1 := by
  unfold State.stage1Work State.stage1Load
  dsimp only
  generalize (s.samplePins r).goodCopies r = g
  obtain ⟨_ | a, _ | b⟩ := g <;> rfl

/-- What stage 1 does is what it loads from the copies. -/
theorem State.stage1Load_copies : (∀ c, (s.goodCopies r).1 = some c → s.stage1Load r = (s.samplePins r).loadCopy c)
    ∧ (∀ c, (s.goodCopies r).2 = some c → (s.goodCopies r).1 = none → s.stage1Load r =
        State.loadCopy { s.samplePins r with sec := { s.sec with storeRepair := inc 255 s.sec.storeRepair } } c)
    ∧ ((s.goodCopies r).1 = none → (s.goodCopies r).2 = none → s.stage1Load r = (s.samplePins r).startFail 1 true) := by
  have hg : (s.samplePins r).goodCopies r = s.goodCopies r := rfl
  unfold State.stage1Load
  rw [hg]
  generalize s.goodCopies r = g
  obtain ⟨_ | a, _ | b⟩ := g
  · exact ⟨nofun, nofun, fun _ _ => rfl⟩
  · exact ⟨nofun, fun c h _ => by cases h; rfl, nofun⟩
  · exact ⟨fun c h => by cases h; rfl, nofun, nofun⟩
  · exact ⟨fun c h => by cases h; rfl, nofun, nofun⟩

theorem State.stage1Load_pm : (s.stage1Load r).pm.state = s.pm.state ∧ (s.stage1Load r).pm.stage = s.pm.stage
    ∧ (s.stage1Load r).pm.stage1Done = true ∧ (s.stage1Load r).pm.vinGood = s.pm.vinGood
    ∧ (s.stage1Load r).pm.committing = s.pm.committing ∧ (s.stage1Load r).inp = (s.samplePins r).inp
    ∧ (s.stage1Load r).out = (s.samplePins r).out ∧ (s.stage1Load r).clk = s.clk := by
  have hl (u : State) (c : SgCopy) : (u.loadCopy c).inp = u.inp ∧ (u.loadCopy c).out = u.out ∧ (u.loadCopy c).clk = u.clk :=
    have h := u.loadCopy_only c
    ⟨h.inp_eq, h.out_eq, h.clk_eq⟩
  unfold State.stage1Load
  split
  · rw [State.loadCopy_only_pm, (hl _ _).1, (hl _ _).2.1, (hl _ _).2.2]
    exact ⟨rfl, rfl, rfl, rfl, rfl, rfl, rfl, rfl⟩
  · rw [State.loadCopy_only_pm, (hl _ _).1, (hl _ _).2.1, (hl _ _).2.2]
    exact ⟨rfl, rfl, rfl, rfl, rfl, rfl, rfl, rfl⟩
  · exact ⟨rfl, rfl, rfl, rfl, rfl, rfl, rfl, rfl⟩

theorem State.stage1Work_frame (h : s.pm.state = .starting) (h1 : s.pm.stage = 1) :
    (s.stage1Work r).pm.stage1Done = true ∧ (s.stage1Work r).inp = (s.samplePins r).inp ∧ (s.stage1Work r).out = (s.samplePins r).out
      ∧ (s.pm.vinGood = true → s.pm.committing = false →
          (s.stage1Work r).pm.stage = 2 ∧ (s.stage1Work r).pm.origin = s.clk.now)
      ∧ (s.pm.vinGood = false ∨ s.pm.committing = true → (s.stage1Work r).pm.stage = 1) := by
  obtain ⟨hs, hg, hd, hv, hc, hi, ho, hk⟩ := State.stage1Load_pm (s := s) r
  have hl := (s.stage1Load r).leaveStage1_only
  obtain ⟨hy, hn⟩ := State.leaveStage1_eq (s := s.stage1Load r) (hs.trans h) (hg.trans h1) hd
  rw [State.stage1Work_eq]
  refine ⟨State.leaveStage1_pm.2.2.2.1.trans hd, hl.inp_eq.trans hi, hl.out_eq.trans ho, fun a b => ?_, fun a => ?_⟩
  · rw [hy (hv.trans a) (hc.trans b)]
    exact ⟨rfl, by show (s.stage1Load r).clk.now = _; rw [hk]⟩
  · rw [hn (by rwa [hv, hc])]
    exact hg.trans h1

theorem State.stage1Work_copies :
    (∀ c, (s.goodCopies r).1 = some c → Loaded c s (s.stage1Work r) ∧ (s.stage1Work r).pm.failCode = s.pm.failCode
        ∧ (s.stage1Work r).sec.storeRepair = s.sec.storeRepair)
    ∧ (∀ c, (s.goodCopies r).2 = some c → (s.goodCopies r).1 = none → Loaded c s (s.stage1Work r)
        ∧ (s.stage1Work r).pm.failCode = s.pm.failCode ∧ (s.stage1Work r).sec.storeRepair = inc 255 s.sec.storeRepair)
    ∧ ((s.goodCopies r).1 = none → (s.goodCopies r).2 = none → (s.stage1Work r).pm.failCode = 1
        ∧ (s.stage1Work r).pm.portUp = false ∧ (s.stage1Work r).pm.lastCause = 0x04 ∧ Only [.pm, .inp, .out] s (s.stage1Work r)) := by
  obtain ⟨hf, hs, hn⟩ := State.stage1Load_copies (s := s) r
  have hl := (s.stage1Load r).leaveStage1_only
  rw [State.stage1Work_eq]
  refine ⟨fun c h => ?_, fun c h h1 => ?_, fun h h1 => ?_⟩
  · have hc := hf c h
    refine ⟨Loaded.of_leaveStage1 ?_, ?_, ?_⟩
    · rw [hc]
      exact State.loadCopy_loaded (s := s.samplePins r) c
    · rw [State.leaveStage1_pm.1, hc, State.loadCopy_only_pm]
      rfl
    · rw [hl.sec_eq, hc, State.loadCopy_storeRepair]
      rfl
  · have hc := hs c h h1
    refine ⟨Loaded.of_leaveStage1 ?_, ?_, ?_⟩
    · rw [hc]
      exact State.loadCopy_loaded (s := { s.samplePins r with sec := { s.sec with storeRepair := inc 255 s.sec.storeRepair } }) c
    · rw [State.leaveStage1_pm.1, hc, State.loadCopy_only_pm]
      rfl
    · rw [hl.sec_eq, hc, State.loadCopy_storeRepair]
  · have hc := hn h h1
    obtain ⟨e1, e2, e3, -, -⟩ := State.leaveStage1_pm (s := s.stage1Load r)
    refine ⟨?_, ?_, ?_, ?_⟩
    · rw [e1, hc]
      rfl
    · rw [e2, hc]
      rfl
    · rw [e3, hc]
      rfl
    · rw [hc]
      have h := Only.refl [.pm, .inp, .out] s
      repeat' first
          | with_reducible assumption | with_reducible apply Only.lift (State.leaveStage1_only ..)
          | with_reducible apply Only.lift (State.startFail_only ..) | with_reducible apply Only.lift (State.samplePins_only ..)
          | with_reducible refine Only.mk_upd ?_ | (with_reducible show Part.sub _ _ = true; decide)

end

/-! ## Stages 2 to 4 -/

theorem Only.rawAt_eq {ps : List Part} {s t : State} (h : Only ps s t) (a : Nat) (hp : Part.cfg ∉ ps := by decide) :
    t.rawAt a = s.rawAt a := by
  simp only [State.rawAt, rawReg, h.cfg_eq hp]

theorem Only.safety_eq {ps : List Part} {s t : State} (h : Only ps s t) (hp : Part.cfg ∉ ps ∧ Part.sgLoaded ∉ ps := by decide) :
    t.safety = s.safety := by
  simp only [State.safety, h.rawAt_eq _ hp.1, h.sgLoaded_eq hp.2]

section
variable {s : State}

@[simp] theorem Log.push_responds (l : Log) (x : Shard) : (l.push x).responds = l.responds := by
  unfold Log.push
  repeat' split
  all_goals rfl

theorem State.secondReached_responds : s.secondReached.log.responds = s.log.responds := by
  unfold State.secondReached
  dsimp only
  split
  · rfl
  · show (State.logEvent _ _ _ _ _).log.responds = _
    unfold State.logEvent State.capture
    dsimp only
    split
    · rw [Log.push_responds]
    · rfl

/-- A whole second leaves the log die's answer and the mark that the time base is set. -/
theorem State.secondReached_ite (p : Prop) [Decidable p] : (if p then s.secondReached else s).clk.tbSet = s.clk.tbSet
    ∧ (if p then s.secondReached else s).log.responds = s.log.responds := by
  have h : s.secondReached.clk.tbSet = s.clk.tbSet := by
    unfold State.secondReached
    dsimp only
    split <;> rfl
  split
  · exact ⟨h, State.secondReached_responds⟩
  · exact ⟨rfl, rfl⟩

theorem State.setTimeBase_frame : s.setTimeBase.clk.tbSet = true ∧ s.setTimeBase.log.responds = s.log.responds :=
  State.secondReached_ite _

theorem State.aonTimeBase_frame : s.aonTimeBase.clk.tbSet = true ∧ s.aonTimeBase.log.responds = s.log.responds :=
  State.secondReached_ite _

theorem State.adopt_responds (r : Nat) : (s.adopt r).log.responds = s.log.responds := by
  unfold State.adopt
  dsimp only
  split
  · split
    · unfold State.setRegion
      split <;> rfl
    · rfl
  · rfl

/-- The examination of the log leaves the stage and its outcome as they are. -/
theorem State.examineLog_frame : s.examineLog.pm.state = s.pm.state ∧ s.examineLog.pm.stage = s.pm.stage
    ∧ s.examineLog.pm.failCode = s.pm.failCode ∧ s.examineLog.log.responds = s.log.responds := by
  have ha : ((s.adopt 1).adopt 2).pm = s.pm := by rw [(State.adopt_only _ _).pm_eq, (State.adopt_only _ _).pm_eq]
  have hr : ((s.adopt 1).adopt 2).log.responds = s.log.responds := by rw [State.adopt_responds, State.adopt_responds]
  unfold State.examineLog
  dsimp only
  generalize (s.adopt 1).adopt 2 = u at ha hr ⊢
  rw [← ha, ← hr]
  cases u.pm.note <;> split <;> exact ⟨rfl, rfl, rfl, rfl⟩

/-- Stage 3 after the examination of the log, up to its outcome. -/
theorem State.stage3_log (t : State) : t.examineLog.setTimeBase.pm.state = t.pm.state ∧ t.examineLog.setTimeBase.pm.stage = t.pm.stage
    ∧ t.examineLog.setTimeBase.pm.failCode = t.pm.failCode ∧ t.examineLog.setTimeBase.log.responds = t.log.responds
    ∧ t.examineLog.setTimeBase.clk.tbSet = true := by
  obtain ⟨h1, h2, h3, h4⟩ := State.examineLog_frame (s := t)
  obtain ⟨h5, h6⟩ := State.setTimeBase_frame (s := t.examineLog)
  rw [(State.setTimeBase_only t.examineLog).pm_eq]
  exact ⟨h1, h2, h3, h6.trans h4, h5⟩

/-- Stage 3 from a log die that responds. -/
def State.stage3Alive (t : State) (r : StageResult) : State :=
  if !r.majority || t.log.split then t.examineLog.setTimeBase.startFail 2 r.kat
  else if !r.digestOk then t.examineLog.setTimeBase.startFail 3 r.kat
  else
    let u := { t with log := { t.log with stray := [] } }.configLoaded.examineLog.setTimeBase
    { u with pm := { u.pm with stage := 4, stageEntry := u.clk.now } }

theorem State.stage3Work_alive {r : StageResult} (h : r.logDie = true) : s.stage3Work r = State.stage3Alive { s with log := { s.log with
    responds := true, corrected := incBy 65535 s.log.corrected (max r.repaired s.log.stray.length) } } r := by
  unfold State.stage3Work
  rw [h, if_neg (by decide)]
  rfl

/-- What stage 3 ends with: its outcome, the configuration loaded where it passes. -/
structure Stage3Ends (s : State) (r : StageResult) (t : State) : Prop where
  tbSet : t.clk.tbSet = true
  state : t.pm.state = .starting
  responds : t.log.responds = r.logDie
  pass : r.logDie = true → r.majority = true → s.log.split = false → r.digestOk = true →
    t.pm.stage = 4 ∧ t.pm.failCode = s.pm.failCode ∧ t.cfgLoaded = true ∧ t.kiln.loaded = true
  dead : r.logDie = false → t.pm.failCode = 9
  lost : r.logDie = true → r.majority = false ∨ s.log.split = true → t.pm.failCode = 2
  digest : r.logDie = true → r.majority = true → s.log.split = false → r.digestOk = false → t.pm.failCode = 3
  fail : t.pm.failCode ≠ s.pm.failCode → t.pm.lastCause = 0x04 ∧ t.pm.portUp = true ∧ t.pm.stage = 3

theorem State.stage3Alive_ends {r : StageResult} (hd : r.logDie = true) (hs : s.pm.state = .starting) (h3 : s.pm.stage = 3)
    (hl : s.log.responds = true) : Stage3Ends s r (s.stage3Alive r) := by
  obtain ⟨k1, k2, -, k4, k5⟩ := State.stage3_log s
  unfold State.stage3Alive
  cases hm : !r.majority || s.log.split with
  | true =>
    rw [if_pos rfl]
    refine ⟨k5, k1.trans hs, (k4.trans hl).trans hd.symm, fun _ hm' hp _ => ?_, fun h => ?_, fun _ _ => rfl, fun _ hm' hp _ => ?_,
      fun _ => ⟨rfl, rfl, k2.trans h3⟩⟩
    · rw [hm', hp] at hm
      exact absurd hm (by decide)
    · rw [hd] at h
      exact absurd h (by decide)
    · rw [hm', hp] at hm
      exact absurd hm (by decide)
  | false =>
    rw [if_neg (by decide)]
    have hmp : ¬ (r.majority = false ∨ s.log.split = true) := fun h => by simp_all
    cases hg : r.digestOk with
    | false =>
      rw [if_pos (show (!false) = true from rfl)]
      refine ⟨k5, k1.trans hs, (k4.trans hl).trans hd.symm, fun _ _ _ hk => ?_, fun h => ?_, fun _ h => absurd h hmp, fun _ _ _ _ => rfl,
        fun _ => ⟨rfl, rfl, k2.trans h3⟩⟩
      · rw [hg] at hk
        exact absurd hk (by decide)
      · rw [hd] at h
        exact absurd h (by decide)
    | true =>
      rw [if_neg (by decide)]
      have hc := State.configLoaded_only { s with log := { s.log with stray := [] } }
      have hcl : (State.configLoaded { s with log := { s.log with stray := [] } }).cfgLoaded = true
          ∧ (State.configLoaded { s with log := { s.log with stray := [] } }).kiln.loaded = true := by
        rw [State.configLoaded, (State.firstFromHeld_only _).cfgLoaded_eq, (State.firstFromHeld_only _).kiln_eq]
        exact ⟨rfl, rfl⟩
      generalize State.configLoaded { s with log := { s.log with stray := [] } } = u at hc hcl
      obtain ⟨k1, k2, k3, k4, k5⟩ := State.stage3_log u
      have he := u.examineLog_only
      have hb := u.examineLog.setTimeBase_only
      have hp : u.pm = s.pm := hc.pm_eq
      have hr : u.log = { s.log with stray := [] } := hc.log_eq
      rw [hp] at k1 k2 k3
      rw [hr] at k4
      refine ⟨k5, k1.trans hs, (k4.trans hl).trans hd.symm, fun _ _ _ _ => ⟨rfl, k3, ?_, ?_⟩, fun h => ?_, fun _ h => absurd h hmp,
        fun _ _ _ hk => ?_, fun hn => absurd k3 hn⟩
      · exact (hb.cfgLoaded_eq.trans he.cfgLoaded_eq).trans hcl.1
      · exact (congrArg Kiln.loaded (hb.kiln_eq.trans he.kiln_eq)).trans hcl.2
      · rw [hd] at h
        exact absurd h (by decide)
      · rw [hg] at hk
        exact absurd hk (by decide)

theorem State.stage3Work_ends (r : StageResult) (hs : s.pm.state = .starting) (h3 : s.pm.stage = 3) :
    Stage3Ends s r (s.stage3Work r) := by
  cases hd : r.logDie with
  | true =>
    rw [State.stage3Work_alive hd]
    obtain ⟨h1, h2, h3, h4, h5, h6, h7, h8⟩ := State.stage3Alive_ends (s := { s with log := { s.log with
      responds := true, corrected := incBy 65535 s.log.corrected (max r.repaired s.log.stray.length) } }) hd hs h3 rfl
    exact ⟨h1, h2, h3, h4, h5, h6, h7, h8⟩
  | false =>
    have ht := State.aonTimeBase_only { s with log := { s.log with responds := false } }
    obtain ⟨hb, hr⟩ := State.aonTimeBase_frame (s := { s with log := { s.log with responds := false } })
    unfold State.stage3Work
    rw [hd, if_pos (show (!false) = true from rfl)]
    generalize State.aonTimeBase { s with log := { s.log with responds := false } } = u at ht hb hr
    have hp : u.pm = s.pm := ht.pm_eq
    refine ⟨hb, (congrArg Pm.state hp).trans hs, hr.trans hd.symm, fun h => ?_, fun _ => rfl, fun h => ?_, fun h => ?_,
      fun _ => ⟨rfl, rfl, (congrArg Pm.stage hp).trans h3⟩⟩
    all_goals
      rw [hd] at h
      exact absurd h (by decide)

theorem State.stage4Work_frame (r : StageResult) (hs : s.pm.state = .starting) (h4 : s.pm.stage = 4) :
    (s.stage4Work r).log.fr = s.log.fr ∧ (s.stage4Work r).log.fa = s.log.fa
      ∧ (r.kat = true → r.trng = true → r.convRef = true → s.safetyFailed r.swapFailed = false →
          (s.stage4Work r).pm.stage = 5 ∧ (s.stage4Work r).pm.stageEntry = s.clk.now)
      ∧ (r.kat = false → (s.stage4Work r).pm.failCode = 4)
      ∧ (r.kat = true → r.trng = false → (s.stage4Work r).pm.failCode = 5)
      ∧ (r.kat = true → r.trng = true → r.convRef = false → (s.stage4Work r).pm.failCode = 6)
      ∧ (r.kat = true → r.trng = true → r.convRef = true → s.safetyFailed r.swapFailed = true → (s.stage4Work r).pm.failCode = 7)
      ∧ (¬ (r.kat = true ∧ r.trng = true ∧ r.convRef = true ∧ s.safetyFailed r.swapFailed = false) →
          (s.stage4Work r).pm.lastCause = 0x04 ∧ (s.stage4Work r).pm.portUp = true ∧ (s.stage4Work r).pm.stage = 4
            ∧ (s.stage4Work r).pm.state = .starting) := by
  have hk := State.failCmps_heldInStarting hs r.swapFailed
  have hp : (s.failCmps r.swapFailed).pm.stage = 4 := by rw [hk.pm]; exact h4
  have ht : (s.failCmps r.swapFailed).pm.state = .starting := hk.state.trans hs
  have hf : (s.failCmps r.swapFailed).safetyFailed r.swapFailed = s.safetyFailed r.swapFailed := by
    simp only [State.safetyFailed, State.isSafety, hk.only.safety_eq]
  unfold State.stage4Work
  dsimp only
  rw [hf]
  generalize s.failCmps r.swapFailed = u at hk hp ht ⊢
  generalize s.safetyFailed r.swapFailed = b
  cases r.kat
  · exact ⟨hk.fr, hk.fa, nofun, fun _ => rfl, nofun, nofun, nofun, fun _ => ⟨rfl, rfl, hp, ht⟩⟩
  cases r.trng
  · exact ⟨hk.fr, hk.fa, nofun, nofun, fun _ _ => rfl, nofun, nofun, fun _ => ⟨rfl, rfl, hp, ht⟩⟩
  cases r.convRef
  · exact ⟨hk.fr, hk.fa, nofun, nofun, nofun, fun _ _ _ => rfl, nofun, fun _ => ⟨rfl, rfl, hp, ht⟩⟩
  cases b
  · simp only [Bool.not_true, Bool.false_eq_true, if_false]
    have hb := u.beginStage5_only
    refine ⟨?_, ?_, fun _ _ _ _ => ?_, nofun, nofun, nofun, nofun, fun h => absurd ⟨trivial, trivial, trivial, trivial⟩ h⟩
    · exact (congrArg Log.fr hb.log_eq).trans hk.fr
    · exact (congrArg Log.fa hb.log_eq).trans hk.fa
    · rw [State.beginStage5, (State.assignAll_only _).pm_eq, (State.startPass_only _).pm_eq, (State.outsStart_only _).pm_eq,
        (State.refreshFlt_only _ _).pm_eq, (State.modeChanges_only _ _).pm_eq]
      exact ⟨rfl, congrArg Clk.now hk.only.clk_eq⟩
  · exact ⟨hk.fr, hk.fa, nofun, nofun, nofun, nofun, fun _ _ _ _ => rfl, fun _ => ⟨rfl, rfl, hp, ht⟩⟩

end

/-! ## Late stages -/

section
variable {s : State}

theorem State.till_clock (due : Nat) : (s.till due).clk.now = max s.clk.now due := by
  show s.clk.now + (due - s.clk.now) = _
  omega

theorem nth_mem {α : Type} (l : List α) (i : Nat) (d : α) (hi : i < l.length) : nth l i d ∈ l := by
  rw [nth, List.getElem?_eq_getElem hi, Option.getD_some]
  exact List.getElem_mem hi

theorem State.lateCode_mem (l : List Nat) (h : 0 < l.length) : s.lateCode l ∈ l := nth_mem _ _ _ (Nat.mod_lt _ h)

theorem execStartupStageLate_open {due : Nat} (ho : s.stageOpen = true) (hd : s.stageDue = some due) :
    exec .startupStageLate s = .next (s.till due).stageLate := by
  show execStartupStageLate s = _
  rw [execStartupStageLate, if_pos ho, hd]

/-- An open stage is in Starting. -/
theorem State.starting_of_stageOpen (h : s.stageOpen = true) : s.pm.state = .starting := by
  unfold State.stageOpen at h
  rw [Bool.and_eq_true] at h
  simpa using h.1

/-- Stages 3 to 5 are open only before a failure. -/
theorem State.failCode_of_stageOpen (h : s.stageOpen = true) (h1 : s.pm.stage ≠ 1) (h2 : s.pm.stage ≠ 2) : s.pm.failCode = 0 := by
  unfold State.stageOpen at h
  rw [Bool.and_eq_true, if_neg h1, if_neg h2, Bool.and_eq_true] at h
  simpa using h.2.2

theorem State.stageDue_all (h : s.stageDue.all (fun d => decide (s.clk.now ≤ d)) = true) :
    s.stageDue.any (fun due => decide (due < s.clk.now)) = false := by
  cases hd : s.stageDue with
  | none => rfl
  | some d =>
    rw [hd] at h
    simpa using h

theorem execStartupStageComplete_open {r : StageResult} (ho : s.stageOpen = true)
    (hd : s.stageDue.all (fun d => decide (s.clk.now ≤ d)) = true) : exec (.startupStageComplete r) s =
      match s.pm.stage with
      | 1 => .next (s.stage1Work r)
      | 2 => .next (s.stage2Work r)
      | 3 => .next (s.stage3Work r)
      | 4 => .next (s.stage4Work r)
      | _ => .next (s.arming r).enterReady := by
  show execStartupStageComplete r s = _
  rw [execStartupStageComplete, if_pos ho, if_neg (by rw [State.stageDue_all hd]; decide)] <;> rfl

/-- A stage 1 that is late has failed; it hands over all the same once VIN is good. -/
theorem State.stageLate_stage1 (h : s.pm.stage = 1) : s.stageLate = (s.startFail 1 true).leaveStage1 := by
  simp only [State.stageLate, h]

theorem State.stageLate_stage2 (h : s.pm.stage = 2) : s.stageLate =
    if s.pm.failCode = 1 then { s with pm := { s.pm with portUp := true } } else (s.startFail 8 s.lateKat).takeFree := by
  simp only [State.stageLate, h]

theorem State.stageLate_stage3 (h : s.pm.stage = 3) : s.stageLate =
    (State.startFail { s with log := { s.log with responds := s.log.responds && s.lateCode [2, 3, 9] != 9 } } (s.lateCode [2, 3, 9])
      s.lateKat).takeFree := by
  simp only [State.stageLate, h]

theorem State.stageLate_stage4 (h : s.pm.stage = 4) : s.stageLate =
    (s.startFail (s.lateCode [4, 5, 6, 7]) (if s.lateCode [4, 5, 6, 7] = 4 then false else s.lateKat)).takeFree := by
  simp only [State.stageLate, h]

theorem State.stageLate_stage5 (h : s.pm.stage = 5) : s.stageLate = s.startFail 0x0A true := by
  simp only [State.stageLate, h]

end

/-- Settles O2, stage by stage: stages 1 to 4 by what each ends with, stage 5 by the entry to Ready, late stages by their code. -/
theorem startUp : Obligations.StartUp := by
  unfold Obligations.StartUp
  refine ⟨fun r s ho hd h1 => ?_, fun r s ho hd h2 => ?_, fun r s ho hd h3 => ?_, fun r s ho hd h4 => ?_,
    fun r s ho hd h5 hq ha ht hp => ?_, fun due s ho hd h1 => ?_, fun due s ho hd h2 hf => ?_, fun due s ho hd h2 hf => ?_,
    fun due s ho hd h3 => ?_, fun due s ho hd h4 => ?_, fun due s ho hd h5 => ?_, fun r due s ho hd hlt => ?_, fun r s ho => ?_⟩
  · refine Answers.of_exec (t := s.stage1Work r) (by rw [execStartupStageComplete_open ho hd, h1]; rfl) ?_
    obtain ⟨hw, hi, hout, hv, hn⟩ := State.stage1Work_frame r (State.starting_of_stageOpen (s := s) ho) h1
    obtain ⟨hA, hB, hC⟩ := State.stage1Work_copies (s := s) r
    exact ⟨hw, (s.stage1Work_only r).mono (by decide), hi, hout, hA, hB, hC, hv, hn⟩
  · refine Answers.of_exec (t := s.stage2Work r) (by rw [execStartupStageComplete_open ho hd, h2]; rfl) ?_
    have hoz := s.stage2Work_only r
    unfold State.stage2Work at hoz ⊢
    dsimp only at hoz ⊢
    split at hoz
    case isTrue hf =>
      rw [if_pos hf]
      refine ⟨rfl, rfl, rfl, rfl, hoz.mono (by decide), fun h0 => ?_, fun _ => rfl⟩
      rw [h0] at hf
      exact absurd hf (by decide)
    case isFalse hf =>
      rw [if_neg hf]
      exact ⟨rfl, rfl, rfl, rfl, hoz.mono (by decide), fun _ => rfl, fun h1 => absurd h1 hf⟩
  · refine Answers.of_exec (t := s.stage3Work r) (by rw [execStartupStageComplete_open ho hd, h3]; rfl) ?_
    obtain ⟨e1, e2, e3, e4, e5, e6, e7, e8⟩ := State.stage3Work_ends r (State.starting_of_stageOpen (s := s) ho) h3
    have hk := s.stage3Work_only r
    exact ⟨e1, e2, e3, e4, e5, e6, e7, e8, hk.cfg_eq, hk.sec_eq, hk.out_eq⟩
  · refine Answers.of_exec (t := s.stage4Work r) (by rw [execStartupStageComplete_open ho hd, h4]; rfl) ?_
    have hk := s.stage4Work_only r
    exact ⟨hk.cfg_eq, hk.sec_eq, State.stage4Work_frame r (State.starting_of_stageOpen (s := s) ho) h4⟩
  · refine Answers.of_exec (t := (s.arming r).enterReady) (by rw [execStartupStageComplete_open ho hd, h5]; rfl) ?_
    obtain ⟨hk, hc⟩ := State.arming_heldInStarting (State.starting_of_stageOpen (s := s) ho) r
    have hr := s.arming_only r
    have hpass : (s.arming r).out.passive = false := hk.passive.trans hp
    have hoq : (s.arming r).onreqEn = false := by rw [State.onreqEn, hr.cfgAt_eq]; exact hq
    have hoa : (s.arming r).autoOn = false := by rw [State.autoOn, hr.cfgAt_eq]; exact ha
    obtain ⟨eo, epm, een, eenpu, erel, esec⟩ := State.enterReady_frame hpass hoq hoa (by rw [hr.inp_eq]; exact ht)
    have hnow : (s.arming r).clk.now = s.clk.now := by rw [hc]
    have horigin : (s.arming r).pm.origin = s.pm.origin := hk.origin
    refine ⟨by rw [epm], by rw [epm], by rw [epm], by rw [epm], by rw [epm], eenpu, ?_, fun hl => erel ?_, ?_, ?_, ?_, ?_, ?_⟩
    · rw [epm, ← horigin, ← hnow]
      rfl
    · rw [epm] at hl
      exact hl
    · rw [epm, hr.cfgAt_eq, hnow]
    · have hpb : (s.arming r).ctl.pbSinceStage1 = s.ctl.pbSinceStage1 := hk.pbSinceStage1
      rw [esec, hr.sec_eq, hpb, hr.inp_eq, hnow]
    · rw [eo.cfg_eq, hr.cfg_eq]
    · rw [eo.kiln_eq]
      exact hk.store
    · rw [een]
      exact hk.en
  · refine Answers.of_exec (execStartupStageLate_open ho hd) ?_
    rw [State.stageLate_stage1 (s := s.till due) h1]
    obtain ⟨e1, e2, e3, -, e5⟩ := State.leaveStage1_pm (s := (s.till due).startFail 1 true)
    have hl := ((s.till due).startFail 1 true).leaveStage1_only
    refine ⟨e1, e3, e2, Eq.trans (c := DevState.starting) e5 (State.starting_of_stageOpen (s := s) ho), ?_, ?_⟩
    · rw [hl.clk_eq]
      exact State.till_clock due
    · have h := Only.refl [.clk, .pm] s
      repeat' first
          | with_reducible assumption | with_reducible apply Only.lift (State.leaveStage1_only ..)
          | with_reducible apply Only.lift (State.startFail_only ..) | with_reducible apply Only.lift (State.till_only ..)
          | with_reducible refine Only.mk_upd ?_ | (with_reducible show Part.sub _ _ = true; decide)
  · refine Answers.of_exec (execStartupStageLate_open ho hd) ?_
    rw [State.stageLate_stage2 (s := s.till due) h2, if_neg (by rw [State.till_pm, hf]; decide)]
    refine ⟨rfl, rfl, rfl, State.starting_of_stageOpen (s := s) ho, State.till_clock due, ?_⟩
    have h := Only.refl [.clk, .pm, .free] s
    repeat' first
        | with_reducible assumption | with_reducible apply Only.lift (State.takeFree_only ..)
        | with_reducible apply Only.lift (State.startFail_only ..) | with_reducible apply Only.lift (State.till_only ..)
        | with_reducible refine Only.mk_upd ?_ | (with_reducible show Part.sub _ _ = true; decide)
  · refine Answers.of_exec (execStartupStageLate_open ho hd) ?_
    rw [State.stageLate_stage2 (s := s.till due) h2, if_pos (by rw [State.till_pm, hf])]
    refine ⟨rfl, State.till_clock due, ?_⟩
    have h := Only.refl [.clk, .pm] s
    repeat' first
        | with_reducible assumption | with_reducible apply Only.lift (State.till_only ..) | with_reducible refine Only.mk_upd ?_
        | (with_reducible show Part.sub _ _ = true; decide)
  · refine Answers.of_exec (execStartupStageLate_open ho hd) ?_
    rw [State.stageLate_stage3 (s := s.till due) h3]
    have hm := State.lateCode_mem (s := s.till due) [2, 3, 9] (by decide)
    generalize (s.till due).lateCode [2, 3, 9] = code at hm ⊢
    have hc : code = 2 ∨ code = 3 ∨ code = 9 := by simpa using hm
    refine ⟨?_, rfl, ?_, State.starting_of_stageOpen (s := s) ho, ?_, ?_, ?_⟩
    · rcases hc with rfl | rfl | rfl
      · exact Or.inl rfl
      · exact Or.inr (Or.inl rfl)
      · exact Or.inr (Or.inr rfl)
    · rcases hc with rfl | rfl | rfl <;> rfl
    · rcases hc with rfl | rfl | rfl <;> intro h
      · exact absurd (show (2 : Byte) = 9 from h) (by decide)
      · exact absurd (show (3 : Byte) = 9 from h) (by decide)
      · show (s.log.responds && false) = false
        rw [Bool.and_false]
    · rcases hc with rfl | rfl | rfl <;> intro h
      · show { s.log with responds := s.log.responds && true } = s.log
        rw [Bool.and_true]
      · show { s.log with responds := s.log.responds && true } = s.log
        rw [Bool.and_true]
      · exact absurd rfl h
    · have h := Only.refl [.clk, .pm, .free, .log] s
      repeat' first
          | with_reducible assumption | with_reducible apply Only.lift (State.takeFree_only ..)
          | with_reducible apply Only.lift (State.startFail_only ..) | with_reducible apply Only.lift (State.till_only ..)
          | with_reducible refine Only.mk_upd ?_ | (with_reducible show Part.sub _ _ = true; decide)
  · refine Answers.of_exec (execStartupStageLate_open ho hd) ?_
    rw [State.stageLate_stage4 (s := s.till due) h4]
    have hm := State.lateCode_mem (s := s.till due) [4, 5, 6, 7] (by decide)
    generalize (s.till due).lateCode [4, 5, 6, 7] = code at hm ⊢
    have hc : code = 4 ∨ code = 5 ∨ code = 6 ∨ code = 7 := by simpa using hm
    refine ⟨?_, rfl, ?_, State.starting_of_stageOpen (s := s) ho, ?_⟩
    · rcases hc with rfl | rfl | rfl | rfl
      · exact Or.inl rfl
      · exact Or.inr (Or.inl rfl)
      · exact Or.inr (Or.inr (Or.inl rfl))
      · exact Or.inr (Or.inr (Or.inr rfl))
    · rcases hc with rfl | rfl | rfl | rfl <;> rfl
    · have h := Only.refl [.clk, .pm, .free] s
      repeat' first
          | with_reducible assumption | with_reducible apply Only.lift (State.takeFree_only ..)
          | with_reducible apply Only.lift (State.startFail_only ..) | with_reducible apply Only.lift (State.till_only ..)
          | with_reducible refine Only.mk_upd ?_ | (with_reducible show Part.sub _ _ = true; decide)
  · refine Answers.of_exec (execStartupStageLate_open ho hd) ?_
    rw [State.stageLate_stage5 (s := s.till due) h5]
    refine ⟨rfl, rfl, rfl, State.starting_of_stageOpen (s := s) ho, ?_⟩
    have h := Only.refl [.clk, .pm] s
    repeat' first
        | with_reducible assumption | with_reducible apply Only.lift (State.startFail_only ..)
        | with_reducible apply Only.lift (State.till_only ..) | with_reducible refine Only.mk_upd ?_
        | (with_reducible show Part.sub _ _ = true; decide)
  · show execStartupStageComplete r s = _
    rw [execStartupStageComplete, if_pos ho, hd, if_pos (by simpa using hlt)]
  · refine ⟨Answers.of_exec (t := s) ?_ rfl, Answers.of_exec (t := s) ?_ rfl⟩
    · show execStartupStageComplete r s = _
      rw [execStartupStageComplete, if_neg (by rw [ho]; decide)]
    · show execStartupStageLate s = _
      rw [execStartupStageLate, if_neg (by rw [ho]; decide)]

end Sys2Proof.Machine
end

section
/-! SUPPORT. Faults, requests and shutdowns in the states that log: what they leave as it was, and what they set. -/

set_option Elab.async false

namespace Sys2Proof.Machine

/-! ## What the fault logic leaves as it was -/

/-- What the fault logic leaves as it was, but for a wake: the stages, the levels of the outputs but PFW and TRIPO, the programs and tables,
the two log regions, and every part that it has no business with. A device that is not in Standby does not get there. -/
structure FaultFrame (s t : State) : Prop where
  pm : t.pm = { s.pm with
    state := t.pm.state, lastCause := t.pm.lastCause, faultLatch := t.pm.faultLatch, onPending := t.pm.onPending,
    offMinDue := t.pm.offMinDue, resetDue := t.pm.resetDue, imageReset := t.pm.imageReset, held := t.pm.held,
    heldFirst := t.pm.heldFirst }
  awake : s.pm.state ≠ .standby → t.pm.state ≠ .standby
  live : s.pm.state.logs = true → t.pm.state.logs = true
  out : t.out = { s.out with pfw := t.out.pfw, tripo := t.out.tripo }
  programs : SamePrograms s t
  tables : t.fault.tables = s.fault.tables
  fr : t.log.fr = s.log.fr
  fa : t.log.fa = s.log.fa
  only : Only [.pm, .out, .ctl, .sense, .kiln, .walk, .fault, .irq, .mg, .log, .port, .ring, .twin, .tw, .pwm, .free] s t

namespace FaultFrame

theorem refl (s : State) : FaultFrame s s := ⟨rfl, id, id, rfl, ⟨rfl, rfl, rfl⟩, rfl, rfl, rfl, Only.refl _ s⟩

variable {s t u : State}

theorem trans (h : FaultFrame s t) (k : FaultFrame t u) : FaultFrame s u where
  pm := by rw [k.pm, h.pm]
  awake := k.awake ∘ h.awake
  live := k.live ∘ h.live
  out := by rw [k.out, h.out]
  programs := ⟨k.programs.1.trans h.programs.1, k.programs.2.1.trans h.programs.2.1, k.programs.2.2.trans h.programs.2.2⟩
  tables := k.tables.trans h.tables
  fr := k.fr.trans h.fr
  fa := k.fa.trans h.fa
  only := h.only.trans k.only

/-- What changes neither the power mode nor outputs, programs, tables and log. -/
theorem of_only {ps : List Part} (h : Only ps s t)
    (hp : Part.pm ∉ ps ∧ Part.out ∉ ps ∧ Part.kiln ∉ ps ∧ Part.fault ∉ ps ∧ Part.log ∉ ps := by decide)
    (hs : Part.sub ps [.pm, .out, .ctl, .sense, .kiln, .walk, .fault, .irq, .mg, .log, .port, .ring, .twin, .tw, .pwm, .free] = true := by
      decide) : FaultFrame s t := by
  obtain ⟨h1, h2, h3, h4, h5⟩ := hp
  have hpm := h.pm_eq h1
  refine ⟨by rw [hpm], fun x => by rwa [hpm], fun x => by rwa [hpm], by rw [h.out_eq h2], ?_, by rw [h.fault_eq h4],
    by rw [h.log_eq h5], by rw [h.log_eq h5], h.mono hs⟩
  unfold SamePrograms
  rw [h.kiln_eq h3]
  exact ⟨rfl, rfl, rfl⟩

theorem foldl {α : Type} {f : State → α → State} (hf : ∀ t x, FaultFrame t (f t x)) (l : List α) : FaultFrame s (l.foldl f s) := by
  induction l generalizing s with
  | nil => exact refl s
  | cons x l ih => exact (hf s x).trans ih

theorem sameStores (h : FaultFrame s t) : SameStores s t :=
  ⟨h.only.ident_eq, h.only.cfg_eq, by rw [h.only.sec_eq], h.programs.1, h.programs.2.1, h.tables, h.fr, h.fa, h.only.pending_eq⟩

theorem stage (h : FaultFrame s t) : t.pm.stage = s.pm.stage := by rw [h.pm]

theorem portUp (h : FaultFrame s t) : t.pm.portUp = s.pm.portUp := by rw [h.pm]

theorem wakePath (h : FaultFrame s t) : t.pm.wakePath = s.pm.wakePath := by rw [h.pm]

theorem en (h : FaultFrame s t) : t.out.en = s.out.en := by rw [h.out]

theorem passive (h : FaultFrame s t) : t.out.passive = s.out.passive := by rw [h.out]

theorem clk (h : FaultFrame s t) : t.clk = s.clk := h.only.clk_eq

theorem cfgAt (h : FaultFrame s t) (a : Nat) : t.cfgAt a = s.cfgAt a := h.only.cfgAt_eq a

end FaultFrame

section
variable (s : State)

theorem State.capture_faultFrame (kind cause : Nat) (event : List Byte) : FaultFrame s (s.capture kind cause event) :=
  ⟨rfl, id, id, rfl, ⟨rfl, rfl, rfl⟩, rfl, s.capture_fr _ _ _, s.capture_fa _ _ _, (s.capture_only _ _ _).mono (by decide)⟩

theorem State.faultShard_faultFrame (f : FaultRec) (d table repeats : Nat) : FaultFrame s (s.faultShard f d table repeats) :=
  s.capture_faultFrame _ _ _

theorem State.setLatch_faultFrame : FaultFrame s s.setLatch :=
  ⟨rfl, id, id, rfl, ⟨rfl, rfl, rfl⟩, rfl, rfl, rfl, s.setLatch_only.mono (by decide)⟩

theorem State.recordFirst_faultFrame (f : FaultRec) (stamp : Nat) : FaultFrame s (s.recordFirst f stamp) :=
  ⟨rfl, id, id, rfl, ⟨rfl, rfl, rfl⟩, rfl, rfl, rfl, (s.recordFirst_only f stamp).mono (by decide)⟩

theorem State.recordBisque_faultFrame (f : FaultRec) (stamp : Nat) : FaultFrame s (s.recordBisque f stamp) := by
  have ho := s.recordBisque_only f stamp
  refine ⟨by rw [ho.pm_eq], by rw [ho.pm_eq]; exact id, by rw [ho.pm_eq]; exact id, by rw [ho.out_eq], ?_, ?_, by rw [ho.log_eq],
    by rw [ho.log_eq], ho.mono (by decide)⟩
  · unfold SamePrograms
    rw [ho.kiln_eq]
    exact ⟨rfl, rfl, rfl⟩
  · unfold State.recordBisque
    split <;> rfl

theorem State.recordFault_faultFrame (f : FaultRec) : FaultFrame s (s.recordFault f) :=
  s.setLatch_faultFrame.trans ((State.recordFirst_faultFrame _ _ _).trans (State.recordBisque_faultFrame _ _ _))

theorem State.assertPfw_out : s.assertPfw.out = { s.out with pfw := true } := rfl

theorem State.assertTripo_out : s.assertTripo.out = { s.out with tripo := true } := rfl

/-- What changes the outputs, and neither the power mode nor programs, tables and log. -/
theorem FaultFrame.of_out {ps : List Part} {s t : State} (h : Only ps s t) (ho : t.out = { s.out with pfw := t.out.pfw, tripo := t.out.tripo })
    (hp : Part.pm ∉ ps ∧ Part.kiln ∉ ps ∧ Part.fault ∉ ps ∧ Part.log ∉ ps := by decide)
    (hs : Part.sub ps [.pm, .out, .ctl, .sense, .kiln, .walk, .fault, .irq, .mg, .log, .port, .ring, .twin, .tw, .pwm, .free] = true := by
      decide) : FaultFrame s t := by
  obtain ⟨h1, h3, h4, h5⟩ := hp
  have hpm := h.pm_eq h1
  refine ⟨by rw [hpm], fun x => by rwa [hpm], fun x => by rwa [hpm], ho, ?_, by rw [h.fault_eq h4],
    by rw [h.log_eq h5], by rw [h.log_eq h5], h.mono hs⟩
  unfold SamePrograms
  rw [h.kiln_eq h3]
  exact ⟨rfl, rfl, rfl⟩

theorem State.assertPfw_faultFrame : FaultFrame s s.assertPfw := .of_out s.assertPfw_only rfl

theorem State.assertTripo_faultFrame : FaultFrame s s.assertTripo := .of_out s.assertTripo_only rfl

theorem State.abortEngines_faultFrame : FaultFrame s s.abortEngines :=
  ⟨rfl, id, id, rfl, ⟨rfl, rfl, rfl⟩, rfl, rfl, rfl, s.abortEngines_only.mono (by decide)⟩

theorem State.goTo_fr (st : DevState) (cause : Nat) : (s.goTo st cause).log.fr = s.log.fr := by
  unfold State.goTo
  dsimp only
  split
  · exact Log.push_fr _ _
  · rfl

theorem State.goTo_fa (st : DevState) (cause : Nat) : (s.goTo st cause).log.fa = s.log.fa := by
  unfold State.goTo
  dsimp only
  split
  · exact Log.push_fa _ _
  · rfl

theorem State.goTo_faultFrame {st : DevState} (h : st.logs = true) (cause : Nat) : FaultFrame s (s.goTo st cause) :=
  ⟨rfl, fun _ hs => by
      have hs' : st = .standby := hs
      rw [hs'] at h
      exact absurd h (by decide),
    fun _ => h, rfl, ⟨rfl, rfl, rfl⟩, rfl, s.goTo_fr _ _, s.goTo_fa _ _, (s.goTo_only _ _).mono (by decide)⟩

/-- What changes the log's buffer, and neither the power mode nor outputs, programs and tables. -/
theorem FaultFrame.of_log {ps : List Part} {s t : State} (h : Only ps s t) (hr : t.log.fr = s.log.fr) (ha : t.log.fa = s.log.fa)
    (hp : Part.pm ∉ ps ∧ Part.out ∉ ps ∧ Part.kiln ∉ ps ∧ Part.fault ∉ ps := by decide)
    (hs : Part.sub ps [.pm, .out, .ctl, .sense, .kiln, .walk, .fault, .irq, .mg, .log, .port, .ring, .twin, .tw, .pwm, .free] = true := by
      decide) : FaultFrame s t := by
  obtain ⟨h1, h2, h3, h4⟩ := hp
  have hpm := h.pm_eq h1
  refine ⟨by rw [hpm], fun x => by rwa [hpm], fun x => by rwa [hpm], by rw [h.out_eq h2], ?_, by rw [h.fault_eq h4], hr, ha,
    h.mono hs⟩
  unfold SamePrograms
  rw [h.kiln_eq h3]
  exact ⟨rfl, rfl, rfl⟩

theorem State.leaveRunning_fr : s.leaveRunning.log.fr = s.log.fr := by
  unfold State.leaveRunning State.endCycle
  dsimp only
  repeat' split
  · exact s.endRail_fr _ _
  all_goals rfl

theorem State.leaveRunning_fa : s.leaveRunning.log.fa = s.log.fa := by
  unfold State.leaveRunning State.endCycle
  dsimp only
  repeat' split
  · exact s.endRail_fa _ _
  all_goals rfl

theorem State.leaveRunning_faultFrame : FaultFrame s s.leaveRunning :=
  .of_log s.leaveRunning_only s.leaveRunning_fr s.leaveRunning_fa

/-! Replies -/

theorem State.replyOut_faultFrame (r : Reply) : FaultFrame s (s.replyOut r) := by
  unfold State.replyOut
  split
  · exact FaultFrame.refl s
  · split
    · exact ⟨rfl, id, id, rfl, ⟨rfl, rfl, rfl⟩, rfl, rfl, rfl, (Only.refl _ s).mk_upd⟩
    · exact ⟨rfl, id, id, rfl, ⟨rfl, rfl, rfl⟩, rfl, rfl, rfl, (Only.refl _ s).mk_upd⟩

theorem State.dropCmd_faultFrame (ring : Bool) (tag : Nat) : FaultFrame s (s.dropCmd ring tag) := .of_only (s.dropCmd_only _ _)

theorem State.sendFrame_faultFrame (p : Link) (f : Frame) : FaultFrame s (s.sendFrame p f) := .of_only (s.sendFrame_only _ _)

/-- A change of the host port alone. -/
theorem FaultFrame.port (p : Port) : FaultFrame s { s with port := p } := .of_only (ps := [.port]) (Only.refl _ s).mk_upd

theorem State.post_faultFrame (r : Reply) : FaultFrame s (s.post r) := by
  have hd : FaultFrame s (if r.keeps then s else s.dropCmd r.ring r.tag) := by
    split
    · exact FaultFrame.refl s
    · exact s.dropCmd_faultFrame _ _
  unfold State.post
  dsimp only
  generalize (if r.keeps then s else s.dropCmd r.ring r.tag) = u at hd ⊢
  split
  · exact hd.trans ((State.sendFrame_faultFrame _ _ _).trans (State.replyOut_faultFrame _ _))
  · split
    · exact hd.trans ((FaultFrame.port _ _).trans (State.replyOut_faultFrame _ _))
    · exact FaultFrame.port _ _

theorem State.answer_faultFrame (c : Cmd) (status : Nat) (payload : List Byte) : FaultFrame s (s.answer c status payload) := by
  have hc : FaultFrame s (s.setCmd { c with phase := .replying }) := .of_only (s.setCmd_only _)
  unfold State.answer
  dsimp only
  split
  · exact hc.trans (FaultFrame.port _ _)
  · exact hc.trans (State.post_faultFrame _ _)

theorem State.secShard_fr (c : Cmd) (status : Nat) : (s.secShard c status).log.fr = s.log.fr := by
  unfold State.secShard
  split
  · exact (Log.push_fr _ _).trans (State.countSecurity_fr _)
  · rfl

theorem State.secShard_fa (c : Cmd) (status : Nat) : (s.secShard c status).log.fa = s.log.fa := by
  unfold State.secShard
  split
  · exact (Log.push_fa _ _).trans (State.countSecurity_fa _)
  · rfl

theorem State.refusalEffects_faultFrame (c : Cmd) (status : Nat) : FaultFrame s (s.refusalEffects c status) :=
  (FaultFrame.of_only (s.countRefusal_only status)).trans
    (.of_log (State.secShard_only _ _ _) (State.secShard_fr _ _ _) (State.secShard_fa _ _ _))

theorem State.finish_faultFrame (c : Cmd) (status : Nat) (payload : List Byte) : FaultFrame s (s.finish c status payload) := by
  have h := (s.refusalEffects_faultFrame c status).trans (FaultFrame.port _ { (s.refusalEffects c status).port with
    execq := (s.refusalEffects c status).port.execq.filter (fun e => !(e == (c.ring, c.tag))) })
  have hn (t : State) : FaultFrame t (t.noteBroadcast c status) := .of_only (t.noteBroadcast_only c status)
  unfold State.finish
  dsimp only
  refine h.trans ?_
  split
  · refine (hn _).trans ?_
    split
    · exact State.dropCmd_faultFrame _ _ _
    · split
      · exact State.answer_faultFrame _ _ _ _
      · split
        · exact .of_only (State.setCmd_only _ _)
        · exact State.answer_faultFrame _ _ _ _
  · exact State.answer_faultFrame _ _ _ _

theorem State.discardCooling_faultFrame (pm : Nat) (keep : Option (Bool × Nat)) : FaultFrame s (s.discardCooling pm keep) := by
  have hf (t : State) (l : List Cmd) : FaultFrame t (l.foldl (fun t c =>
      t.finish c 0x31 [1, (if c.consumed then 1 else 0), BitVec.ofNat 8 pm, 0]) t) :=
    FaultFrame.foldl (fun t c => t.finish_faultFrame c _ _) l
  unfold State.discardCooling
  dsimp only
  exact (FaultFrame.port s _).trans ((hf _ _).trans (.of_only (State.recordDiscard_only _ _ _)))

end

/-! ## What replies leave of the power mode -/

/-- The power mode reads the same but for the resets that wait for a reply. -/
def SamePower (s t : State) : Prop := t.pm = { s.pm with resetDue := t.pm.resetDue, imageReset := t.pm.imageReset }

theorem SamePower.refl (s : State) : SamePower s s := rfl

theorem SamePower.trans {s t u : State} (h : SamePower s t) (k : SamePower t u) : SamePower s u := by
  unfold SamePower at *
  rw [k, h]

theorem SamePower.of_pm {s t : State} (h : t.pm = s.pm) : SamePower s t := by
  unfold SamePower
  rw [h]

theorem SamePower.foldl {α : Type} {f : State → α → State} (hf : ∀ t x, SamePower t (f t x)) (s : State) (l : List α) :
    SamePower s (l.foldl f s) := by
  induction l generalizing s with
  | nil => exact refl s
  | cons x l ih => exact (hf s x).trans (ih _)

section
variable (s : State)

theorem State.replyOut_samePower (r : Reply) : SamePower s (s.replyOut r) := by
  unfold State.replyOut
  split
  · exact SamePower.refl s
  · split
    · rfl
    · rfl

theorem State.post_samePower (r : Reply) : SamePower s (s.post r) := by
  have hd : SamePower s (if r.keeps then s else s.dropCmd r.ring r.tag) := by
    split
    · exact SamePower.refl s
    · exact .of_pm (s.dropCmd_only _ _).pm_eq
  unfold State.post
  dsimp only
  generalize (if r.keeps then s else s.dropCmd r.ring r.tag) = u at hd ⊢
  split
  · exact hd.trans ((SamePower.of_pm (State.sendFrame_only _ _ _).pm_eq).trans (State.replyOut_samePower _ _))
  · split
    · exact hd.trans (State.replyOut_samePower { u with port := _ } _)
    · exact .of_pm rfl

theorem State.answer_samePower (c : Cmd) (status : Nat) (payload : List Byte) : SamePower s (s.answer c status payload) := by
  have hc : SamePower s (s.setCmd { c with phase := .replying }) := .of_pm (s.setCmd_only _).pm_eq
  unfold State.answer
  dsimp only
  split
  · exact hc
  · exact hc.trans (State.post_samePower _ _)

theorem State.finish_samePower (c : Cmd) (status : Nat) (payload : List Byte) : SamePower s (s.finish c status payload) := by
  have h : SamePower s { s.refusalEffects c status with port := { (s.refusalEffects c status).port with
      execq := (s.refusalEffects c status).port.execq.filter (fun e => !(e == (c.ring, c.tag))) } } :=
    .of_pm (s.refusalEffects_only c status).pm_eq
  have hn (t : State) : SamePower t (t.noteBroadcast c status) := .of_pm (t.noteBroadcast_only c status).pm_eq
  unfold State.finish
  dsimp only
  refine h.trans ?_
  split
  · refine (hn _).trans ?_
    split
    · exact .of_pm (State.dropCmd_only _ _ _).pm_eq
    · split
      · exact State.answer_samePower _ _ _ _
      · split
        · exact .of_pm (State.setCmd_only _ _).pm_eq
        · exact State.answer_samePower _ _ _ _
  · exact State.answer_samePower _ _ _ _

theorem State.discardCooling_samePower (pm : Nat) (keep : Option (Bool × Nat)) : SamePower s (s.discardCooling pm keep) := by
  have hf (t : State) (l : List Cmd) : SamePower t (l.foldl (fun t c =>
      t.finish c 0x31 [1, (if c.consumed then 1 else 0), BitVec.ofNat 8 pm, 0]) t) :=
    SamePower.foldl (fun t c => t.finish_samePower c _ _) t l
  unfold State.discardCooling
  dsimp only
  exact SamePower.trans (t := { s with port := _ }) rfl ((hf _ _).trans (.of_pm (State.recordDiscard_only _ _ _).pm_eq))

end

/-! ## Requests in Cooling -/

section
variable {s : State}

/-- A change of the power mode's pending on request alone. -/
def RequestKept (s t : State) : Prop :=
  t.pm = { s.pm with onPending := t.pm.onPending } ∧ t.log.fr = s.log.fr ∧ t.log.fa = s.log.fa
    ∧ Only [.pm, .ctl, .log, .ring, .twin] s t

theorem RequestKept.refl (s : State) : RequestKept s s := ⟨rfl, rfl, rfl, Only.refl _ s⟩

theorem RequestKept.trans {s t u : State} (h : RequestKept s t) (k : RequestKept t u) : RequestKept s u := by
  obtain ⟨h1, h2, h3, h4⟩ := h
  obtain ⟨k1, k2, k3, k4⟩ := k
  exact ⟨by rw [k1, h1], k2.trans h2, k3.trans h3, h4.trans k4⟩

theorem RequestKept.state {s t : State} (h : RequestKept s t) : t.pm.state = s.pm.state := by rw [h.1]

theorem State.mirror_requestKept (on cause : Nat) : RequestKept s (s.mirror on cause) := by
  have h := s.mirror_only on cause
  exact ⟨by rw [h.pm_eq], by rw [h.log_eq], by rw [h.log_eq], h.mono (by decide)⟩

/-- An on request in Cooling is ignored, held or left pending. -/
theorem State.onRequest_cooling (h : s.pm.state = .cooling) (cause : Nat) : RequestKept s (s.onRequest cause) := by
  have hm : s.mayFire = false := by simp [State.mayFire, h]
  unfold State.onRequest
  split
  · unfold State.joinRequest
    dsimp only
    split
    · refine ⟨?_, rfl, rfl, (Only.refl _ s).mk_upd⟩
      rw [if_neg (by rw [h]; decide)]
    · exact RequestKept.refl s
  · unfold State.newRequest
    rw [if_pos (Or.inr h)]
    dsimp only
    have hm' : State.mayFire { s with ctl := { s.ctl with lastOn := some (s.clk.now, BitVec.ofNat 8 cause) } } = false := hm
    rw [hm']
    split
    · exact ⟨rfl, rfl, rfl, (Only.refl _ s).mk_upd⟩
    · split
      · exact ⟨rfl, rfl, rfl, (Only.refl _ s).mk_upd⟩
      · rw [if_neg (by decide)]
        split
        · exact ⟨rfl, rfl, rfl, (Only.refl _ s).mk_upd⟩
        · exact ⟨rfl, rfl, rfl, (Only.refl _ s).mk_upd⟩

theorem State.tryPending_cooling (h : s.pm.state = .cooling) : s.tryPending = s := by
  have hm : s.mayFire = false := by simp [State.mayFire, h]
  unfold State.tryPending
  rw [hm]
  split
  · rw [Bool.false_and]
    exact if_neg Bool.false_ne_true
  · rfl

theorem State.releaseHeld_cooling (h : s.pm.state = .cooling) : RequestKept s s.releaseHeld := by
  have hf (l : List Byte) (t : State) (ht : t.pm.state = .cooling) :
      RequestKept t (l.foldl (fun (t : State) c => (t.mirror 1 c.toNat).onRequest c.toNat) t) := by
    induction l generalizing t with
    | nil => exact RequestKept.refl t
    | cons c l ih =>
      have h1 := State.mirror_requestKept (s := t) 1 c.toNat
      have h2 := h1.trans (State.onRequest_cooling (h1.state.trans ht) c.toNat)
      exact h2.trans (ih _ (h2.state.trans ht))
  have h0 : RequestKept s { s with twin := { s.twin with heldOn := [] } } := ⟨rfl, rfl, rfl, (Only.refl _ s).mk_upd⟩
  have h1 := h0.trans (hf s.twin.heldOn { s with twin := { s.twin with heldOn := [] } } h)
  unfold State.releaseHeld
  rw [State.tryPending_cooling (h1.state.trans h)]
  exact h1

theorem State.afterAbort_cooling (h : s.pm.state = .cooling) : RequestKept s s.afterAbort := by
  unfold State.afterAbort
  split
  · exact RequestKept.refl s
  · exact State.releaseHeld_cooling h

/-- With none held, and in Cooling, giving up a handover does nothing to the requests. -/
theorem State.afterAbort_none (h : s.pm.state = .cooling) (hn : s.twin.heldOn = []) : s.afterAbort.pm = s.pm := by
  have ht (w : Twin) : ({ s with twin := w } : State).tryPending.pm = s.pm := by
    rw [State.tryPending_cooling (s := { s with twin := w }) h]
  unfold State.afterAbort
  split
  · rfl
  · unfold State.releaseHeld
    rw [hn, List.foldl_nil]
    exact ht _

theorem RequestKept.faultFrame {s t : State} (h : RequestKept s t) : FaultFrame s t := by
  obtain ⟨h1, h2, h3, h4⟩ := h
  have hs : t.pm.state = s.pm.state := by rw [h1]
  refine ⟨by rw [h1], fun x => by rwa [hs], fun x => by rwa [hs], by rw [h4.out_eq], ?_, by rw [h4.fault_eq], h2, h3,
    h4.mono (by decide)⟩
  unfold SamePrograms
  rw [h4.kiln_eq]
  exact ⟨rfl, rfl, rfl⟩

end

/-! ## The walk -/

section
variable (s : State)

/-- What finding the next entry of a walk leaves of it: the table, its entries and cause, and the walk's delays. -/
theorem State.walkSeek_walk (n : Nat) : (s.walkSeek n).walk = { s.walk with
    entry := (s.walkSeek n).walk.entry, due := (s.walkSeek n).walk.due, sweepDue := (s.walkSeek n).walk.sweepDue } := by
  induction n generalizing s with
  | zero => rfl
  | succ n ih =>
    unfold State.walkSeek
    split
    · rfl
    · split
      · rename_i x _ _
        have hd : (if entAction x = 2 then s.trimDischarge (entRail x) else s).walk = s.walk := by
          split
          · exact (State.trimDischarge_only _ _).walk_eq
          · rfl
        dsimp only
        rw [ih]
        dsimp only
        rw [hd]
      · rfl

/-- What the start of a walk leaves of it. -/
theorem State.walkBegin_walk : s.walkBegin.walk = { s.walk with
    grace := false, graceDue := none, waiting := false, prev := s.clk.now,
    entry := s.walkBegin.walk.entry, due := s.walkBegin.walk.due, sweepDue := s.walkBegin.walk.sweepDue } := by
  have h := State.walkSeek_walk { s with walk := { s.walk with
    grace := false, graceDue := none, waiting := false, entry := 0, prev := s.clk.now, due := none, sweepDue := none } } 66
  exact h

theorem State.walkSwitch_walk (table : Nat) (f : FaultRec) : (s.walkSwitch table f).walk = { s.walk with
    active := true, table := table, entries := s.tableEntries table, cause := some f, switches := inc 255 s.walk.switches,
    grace := false, graceDue := none, waiting := false, prev := s.clk.now, entry := (s.walkSwitch table f).walk.entry,
    due := (s.walkSwitch table f).walk.due, sweepDue := (s.walkSwitch table f).walk.sweepDue } := by
  have h := State.walkBegin_walk { s with walk := { s.walk.take table (s.tableEntries table) f with switches := inc 255 s.walk.switches } }
  exact h

/-- An aborted engine neither runs nor waits. -/
theorem Engine.abort_st (e : Engine) : e.abort.st ≠ .running ∧ e.abort.st ≠ .waiting := by
  unfold Engine.abort
  split
  · exact ⟨nofun, nofun⟩
  · rename_i h
    exact ⟨fun hr => h (Or.inl hr), fun hw => h (Or.inr hw)⟩

theorem State.abortEngines_st (k : Nat) : (nth s.abortEngines.kiln.engines k {}).st ≠ .running
    ∧ (nth s.abortEngines.kiln.engines k {}).st ≠ .waiting := by
  have h : nth s.abortEngines.kiln.engines k {} = ((s.kiln.engines[k]?).map Engine.abort).getD {} := by
    show nth (s.kiln.engines.map Engine.abort) k ({} : Engine) = _
    rw [nth, List.getElem?_map]
  rw [h]
  cases s.kiln.engines[k]? with
  | none => exact ⟨(by decide), (by decide)⟩
  | some e => exact e.abort_st

end

/-! ## A shutdown start -/

/-- What a shutdown start of kind k, for a cause under a table, leaves. -/
structure ShutdownStarts (k : Start) (f : FaultRec) (table cause : Nat) (s t : State) : Prop where
  frame : FaultFrame s t
  state : t.pm.state = .cooling
  lastCause : t.pm.lastCause = BitVec.ofNat 8 cause
  offMinDue : t.pm.offMinDue = none
  latch : t.pm.faultLatch = (s.pm.faultLatch || decide (k ≠ .off))
  onPending : k ≠ .off → t.pm.onPending = none
  out : t.out = { s.out with pfw := true, tripo := s.out.tripo || decide (k = .gradeH ∨ k = .forceOff) }
  fault : t.fault = if k = .off then s.fault else (s.recordFault f).fault
  kiln : t.kiln = s.abortEngines.kiln
  walk : t.walk = { ({} : Walk).take table (s.tableEntries table) f with
    grace := k == Start.off || k == Start.gradeT, graceDue := t.walk.graceDue, tripDue := t.walk.tripDue, entry := t.walk.entry,
    due := t.walk.due, sweepDue := t.walk.sweepDue, prev := t.walk.prev }
  only : Only [.pm, .out, .ctl, .kiln, .walk, .fault, .irq, .mg, .log, .port, .ring, .twin, .tw, .pwm, .free] s t

theorem FaultFrame.withWalk (s : State) (w : Walk) : FaultFrame s { s with walk := w } := .of_only (ps := [.walk]) (Only.refl _ s).mk_upd

theorem FaultFrame.withOffMin (s : State) (d : Option Nat) : FaultFrame s { s with pm := { s.pm with offMinDue := d } } :=
  ⟨rfl, id, id, rfl, ⟨rfl, rfl, rfl⟩, rfl, rfl, rfl, (Only.refl _ s).mk_upd⟩

theorem State.tellTwin_heldOn (s : State) (k : Start) (f : FaultRec) (table : Nat) : (s.tellTwin k f table).twin.heldOn = s.twin.heldOn := by
  have hf (t : State) (p : Link) (g : Frame) : (t.sendFrame p g).twin = t.twin := (t.sendFrame_only p g).twin_eq
  have hs (t : State) (d m : Nat) (b : List Byte) : (t.sendTwin d m b).twin.heldOn = t.twin.heldOn := by
    unfold State.sendTwin
    dsimp only
    rw [hf, hf]
  have ha : s.abortHand.twin.heldOn = s.twin.heldOn := by
    unfold State.abortHand
    split
    · exact hs _ _ _ _
    · exact hs _ _ _ _
    · rfl
  unfold State.tellTwin
  dsimp only
  split
  · rw [hs, ha]
  · exact ha

theorem State.faultStamp_congr {s t : State} (hc : t.clk = s.clk) (hp : t.pm.state = s.pm.state) : t.faultStamp = s.faultStamp := by
  simp only [State.faultStamp, hp, hc]

/-- The records of a fault rest on the fault block, the state and the time. -/
theorem State.recordFault_fault_congr {s t : State} (hf : t.fault = s.fault) (hc : t.clk = s.clk) (hp : t.pm.state = s.pm.state)
    (f : FaultRec) : (t.recordFault f).fault = (s.recordFault f).fault := by
  have hst := State.faultStamp_congr hc hp
  have hs (u : State) (stamp : Nat) : ((u.setLatch.recordFirst f stamp).recordBisque f stamp).fault =
      if u.fault.bisque.filled then { u.fault with first := some (u.fault.first.getD (f, stamp)) }
      else { u.fault with first := some (u.fault.first.getD (f, stamp)) }.writeBisque {
        filled := true, rail := BitVec.ofNat 8 (f.rail?.getD 0xFF), code := BitVec.ofNat 8 (skvCode f.cause.toNat), cause := f.cause,
        grade := f.grade.zeroExtend 8, seconds := min 0xFFFFFFFF (stamp / secondTicks), subsecond := stamp % secondTicks,
        clears := u.fault.bisque.clears } := by
    unfold State.recordBisque
    split
    · rename_i h
      rw [if_pos (show u.fault.bisque.filled = true from h)]
      rfl
    · rename_i h
      rw [if_neg (show ¬ u.fault.bisque.filled = true from h)]
      rfl
  unfold State.recordFault
  rw [hs, hs, hf, hst]

/-- A shutdown start: its records. -/
def State.shutdownRecord (s : State) (k : Start) (f : FaultRec) (table : Nat) : State :=
  let s := s.leaveRunning
  if k = .off then s else (s.faultShard f 0 table 0).recordFault f

/-- A shutdown start: the pins and what others are told. -/
def State.shutdownTell (s : State) (k : Start) (f : FaultRec) (table : Nat) : State :=
  let s := s.assertPfw
  let s := if k = .gradeH ∨ k = .forceOff then s.assertTripo else s
  (s.soundHorn k f.cause).tellTwin k f table

/-- A shutdown start: what ends with it, and the entry to Cooling. -/
def State.shutdownEnter (s : State) (cause : Nat) (keep : Option (Bool × Nat)) : State :=
  let s := s.abortEngines.endSequences.goTo .cooling cause
  let s := { s with pm := { s.pm with offMinDue := none } }
  (s.discardCooling cause keep).trimsNominal

/-- A shutdown start: the walk. -/
def State.shutdownWalk (s : State) (k : Start) (f : FaultRec) (table : Nat) (trip : List Nat) : State :=
  let w := ({} : Walk).take table (s.tableEntries table) f
  let s := { s with walk := { w with
      grace := k == Start.off || k == Start.gradeT
      graceDue := if k = Start.off ∨ k = Start.gradeT then some (s.clk.now + s.graceTicks) else none
      tripDue := if k = Start.gradeT then (trip ++ [s.clk.now + min s.tripTicks s.graceTicks]).min?
        else if k = Start.off then trip.head? else none } }
  let s := s.irqCt 1
  if k = .gradeH ∨ k = .forceOff then s.walkBegin else s

theorem State.startShutdown_eq (s : State) (k : Start) (f : FaultRec) (table cause : Nat) (keep : Option (Bool × Nat)) :
    s.startShutdown k f table cause keep =
      (((((s.shutdownRecord k f table).shutdownTell k f table).shutdownEnter cause keep).shutdownWalk k f table
        s.walk.tripDue.toList).afterAbort) := by
  simp only [State.startShutdown, State.shutdownRecord, State.shutdownTell, State.shutdownEnter, State.shutdownWalk]

section
variable (s : State) (k : Start) (f : FaultRec) (table : Nat)

theorem State.goTo_pm (st : DevState) (cause : Nat) :
    (s.goTo st cause).pm = { s.pm with state := st, lastCause := BitVec.ofNat 8 cause } := rfl

theorem State.shutdownRecord_only : Only [.pm, .ctl, .fault, .mg, .log, .twin, .free] s (s.shutdownRecord k f table) := by
  have h := Only.refl [.pm, .ctl, .fault, .mg, .log, .twin, .free] s
  unfold State.shutdownRecord
  dsimp only
  repeat' first
      | with_reducible assumption | with_reducible apply Only.lift (State.leaveRunning_only ..)
      | with_reducible apply Only.lift (State.recordFault_only ..) | with_reducible apply Only.lift (State.faultShard_only ..) | split
      | with_reducible refine Only.mk_upd ?_ | (with_reducible show Part.sub _ _ = true; decide)

theorem State.shutdownRecord_frame : FaultFrame s (s.shutdownRecord k f table) := by
  unfold State.shutdownRecord
  dsimp only
  split
  · exact s.leaveRunning_faultFrame
  · exact s.leaveRunning_faultFrame.trans ((State.faultShard_faultFrame _ _ _ _ _).trans (State.recordFault_faultFrame _ _))

theorem State.recordFault_pm : (s.recordFault f).pm = { s.pm with faultLatch := true, onPending := none } := by
  unfold State.recordFault
  rw [(State.recordBisque_only _ _ _).pm_eq]
  rfl

theorem State.recordFault_heldOn : (s.recordFault f).twin.heldOn = [] := by
  unfold State.recordFault
  rw [(State.recordBisque_only _ _ _).twin_eq]
  rfl

theorem State.shutdownRecord_sets : (s.shutdownRecord k f table).pm = { s.pm with
      faultLatch := s.pm.faultLatch || decide (k ≠ .off), onPending := if k = .off then s.pm.onPending else none }
    ∧ (s.shutdownRecord k f table).fault = (if k = .off then s.fault else (s.recordFault f).fault)
    ∧ (k ≠ .off → (s.shutdownRecord k f table).twin.heldOn = [])
    ∧ (s.shutdownRecord k f table).out = s.out ∧ (s.shutdownRecord k f table).kiln = s.kiln
    ∧ (s.shutdownRecord k f table).walk = s.walk := by
  have hl := s.leaveRunning_only
  unfold State.shutdownRecord
  dsimp only
  split
  · rename_i hk
    rw [hl.pm_eq, hl.fault_eq, hl.out_eq, hl.kiln_eq, hl.walk_eq]
    refine ⟨?_, rfl, fun h => absurd hk h, rfl, rfl, rfl⟩
    simp [hk]
  · rename_i hk
    have hf := State.faultShard_only s.leaveRunning f 0 table 0
    have hr := State.recordFault_only (s.leaveRunning.faultShard f 0 table 0) f
    refine ⟨?_, State.recordFault_fault_congr (by rw [hf.fault_eq, hl.fault_eq]) (by rw [hf.clk_eq, hl.clk_eq])
      (by rw [hf.pm_eq, hl.pm_eq]) f, fun _ => State.recordFault_heldOn _ f, ?_, ?_, ?_⟩
    · rw [State.recordFault_pm, hf.pm_eq, hl.pm_eq]
      simp [hk]
    · rw [hr.out_eq, hf.out_eq, hl.out_eq]
    · rw [hr.kiln_eq, hf.kiln_eq, hl.kiln_eq]
    · rw [hr.walk_eq, hf.walk_eq, hl.walk_eq]

theorem State.shutdownTell_frame : FaultFrame s (s.shutdownTell k f table) := by
  unfold State.shutdownTell
  dsimp only
  refine FaultFrame.trans ?_ ((FaultFrame.of_only (State.soundHorn_only _ _ _)).trans (.of_only (State.tellTwin_only _ _ _ _)))
  split
  · exact s.assertPfw_faultFrame.trans (State.assertTripo_faultFrame _)
  · exact s.assertPfw_faultFrame

theorem State.shutdownTell_sets : Only [.out, .irq, .pwm, .ring, .twin] s (s.shutdownTell k f table)
    ∧ (s.shutdownTell k f table).out = { s.out with pfw := true, tripo := s.out.tripo || decide (k = .gradeH ∨ k = .forceOff) }
    ∧ (s.shutdownTell k f table).twin.heldOn = s.twin.heldOn := by
  have h : Only [.out, .irq, .pwm] s (if k = .gradeH ∨ k = .forceOff then s.assertPfw.assertTripo else s.assertPfw)
      ∧ (if k = .gradeH ∨ k = .forceOff then s.assertPfw.assertTripo else s.assertPfw).out =
        { s.out with pfw := true, tripo := s.out.tripo || decide (k = .gradeH ∨ k = .forceOff) } := by
    split
    · rename_i hk
      refine ⟨(State.assertPfw_only _).trans (State.assertTripo_only _), ?_⟩
      rw [State.assertTripo_out, State.assertPfw_out, decide_eq_true hk, Bool.or_true]
    · rename_i hk
      refine ⟨State.assertPfw_only _, ?_⟩
      rw [State.assertPfw_out, decide_eq_false hk, Bool.or_false]
  unfold State.shutdownTell
  dsimp only
  generalize (if k = .gradeH ∨ k = .forceOff then s.assertPfw.assertTripo else s.assertPfw) = u at h ⊢
  have hs := u.soundHorn_only k f.cause
  have ht := (u.soundHorn k f.cause).tellTwin_only k f table
  refine ⟨(h.1.mono (by decide)).trans ((hs.mono (by decide)).trans (ht.mono (by decide))), ?_, ?_⟩
  · rw [ht.out_eq, hs.out_eq, h.2]
  · rw [State.tellTwin_heldOn, hs.twin_eq, h.1.twin_eq]

variable (cause : Nat) (keep : Option (Bool × Nat))

theorem State.shutdownEnter_frame : FaultFrame s (s.shutdownEnter cause keep) := by
  unfold State.shutdownEnter
  dsimp only
  exact (s.abortEngines_faultFrame.trans (.of_only (State.endSequences_only _))).trans ((State.goTo_faultFrame _ rfl _).trans
    ((FaultFrame.withOffMin _ _).trans ((State.discardCooling_faultFrame _ _ _).trans (.of_only (State.trimsNominal_only _)))))

theorem State.shutdownEnter_sets : Only [.pm, .log, .kiln, .mg, .tw, .irq, .port, .ring] s (s.shutdownEnter cause keep)
    ∧ (s.shutdownEnter cause keep).pm = { s.pm with
        state := .cooling, lastCause := BitVec.ofNat 8 cause, offMinDue := none,
        resetDue := (s.shutdownEnter cause keep).pm.resetDue, imageReset := (s.shutdownEnter cause keep).pm.imageReset }
    ∧ (s.shutdownEnter cause keep).kiln = s.abortEngines.kiln := by
  have ha := s.abortEngines_only
  have he := s.abortEngines.endSequences_only
  have hg := s.abortEngines.endSequences.goTo_only .cooling cause
  have hgp : (s.abortEngines.endSequences.goTo .cooling cause).pm =
      { s.pm with state := .cooling, lastCause := BitVec.ofNat 8 cause } := by
    rw [State.goTo_pm, he.pm_eq, ha.pm_eq]
  unfold State.shutdownEnter
  dsimp only
  generalize s.abortEngines.endSequences.goTo .cooling cause = u at hg hgp ⊢
  have hd := State.discardCooling_only { u with pm := { u.pm with offMinDue := none } } cause keep
  have hp := State.discardCooling_samePower { u with pm := { u.pm with offMinDue := none } } cause keep
  have hu : Only [.pm] u { u with pm := { u.pm with offMinDue := none } } := (Only.refl _ u).mk_upd
  generalize State.discardCooling { u with pm := { u.pm with offMinDue := none } } cause keep = v at hd hp ⊢
  have ht := v.trimsNominal_only
  refine ⟨?_, ?_, ?_⟩
  · exact (ha.mono (by decide)).trans ((he.mono (by decide)).trans ((hg.mono (by decide)).trans ((hu.mono (by decide)).trans
      ((hd.mono (by decide)).trans (ht.mono (by decide))))))
  · rw [ht.pm_eq, hp, hgp]
  · rw [ht.kiln_eq, hd.kiln_eq]
    exact hg.kiln_eq.trans he.kiln_eq

variable (trip : List Nat)

theorem State.shutdownWalk_only : Only [.walk, .irq, .mg] s (s.shutdownWalk k f table trip) := by
  have h := Only.refl [.walk, .irq, .mg] s
  unfold State.shutdownWalk
  dsimp only
  repeat' first
      | with_reducible assumption | with_reducible apply Only.lift (State.walkBegin_only ..)
      | with_reducible apply Only.lift (State.irqCt_only ..) | split | with_reducible refine Only.mk_upd ?_
      | (with_reducible show Part.sub _ _ = true; decide)

theorem State.shutdownWalk_walk : (s.shutdownWalk k f table trip).walk = { ({} : Walk).take table (s.tableEntries table) f with
    grace := k == Start.off || k == Start.gradeT, graceDue := (s.shutdownWalk k f table trip).walk.graceDue,
    tripDue := (s.shutdownWalk k f table trip).walk.tripDue, entry := (s.shutdownWalk k f table trip).walk.entry,
    due := (s.shutdownWalk k f table trip).walk.due, sweepDue := (s.shutdownWalk k f table trip).walk.sweepDue,
    prev := (s.shutdownWalk k f table trip).walk.prev } := by
  unfold State.shutdownWalk
  dsimp only
  split
  · rename_i hk
    rw [State.walkBegin_walk, State.irqCt_walk]
    have hg : (k == Start.off || k == Start.gradeT) = false := by rcases hk with rfl | rfl <;> rfl
    rw [hg]
    rfl
  · rfl

end

theorem State.startShutdown_starts (s : State) (k : Start) (f : FaultRec) (table cause : Nat) (keep : Option (Bool × Nat)) :
    ShutdownStarts k f table cause s (s.startShutdown k f table cause keep) := by
  rw [State.startShutdown_eq]
  obtain ⟨rpm, rfault, rheld, rout, rkiln, rwalk⟩ := s.shutdownRecord_sets k f table
  have rframe := s.shutdownRecord_frame k f table
  have ronly := s.shutdownRecord_only k f table
  generalize s.shutdownRecord k f table = r at *
  obtain ⟨tonly, tout, theld⟩ := r.shutdownTell_sets k f table
  have tframe := r.shutdownTell_frame k f table
  generalize r.shutdownTell k f table = t at *
  obtain ⟨eonly, epm, ekiln⟩ := t.shutdownEnter_sets cause keep
  have eframe := t.shutdownEnter_frame cause keep
  generalize t.shutdownEnter cause keep = e at *
  have wonly := e.shutdownWalk_only k f table s.walk.tripDue.toList
  have wwalk := e.shutdownWalk_walk k f table s.walk.tripDue.toList
  generalize e.shutdownWalk k f table s.walk.tripDue.toList = w at *
  have frame : FaultFrame s w := rframe.trans (tframe.trans (eframe.trans (.of_only wonly)))
  have wpm : w.pm = { s.pm with
      faultLatch := s.pm.faultLatch || decide (k ≠ .off), onPending := if k = .off then s.pm.onPending else none,
      state := .cooling, lastCause := BitVec.ofNat 8 cause, offMinDue := none, resetDue := w.pm.resetDue,
      imageReset := w.pm.imageReset } := by
    rw [wonly.pm_eq, epm, tonly.pm_eq, rpm]
  have hs : w.pm.state = .cooling := by rw [wpm]
  have ha := State.afterAbort_cooling hs
  have hap := ha.1
  have hao := ha.2.2.2
  have hent : e.tableEntries table = s.tableEntries table := by
    unfold State.tableEntries
    rw [(rframe.trans (tframe.trans eframe)).tables]
  refine ⟨frame.trans ha.faultFrame, ?_, ?_, ?_, ?_, fun hk => ?_, ?_, ?_, ?_, ?_, ?_⟩
  · rw [hap, wpm]
  · rw [hap, wpm]
  · rw [hap, wpm]
  · rw [hap, wpm]
  · have hn : w.twin.heldOn = [] := by
      rw [wonly.twin_eq, eonly.twin_eq, theld, rheld hk]
    rw [State.afterAbort_none hs hn, wpm, if_neg hk]
  · rw [hao.out_eq, wonly.out_eq, eonly.out_eq, tout, rout]
  · rw [hao.fault_eq, wonly.fault_eq, eonly.fault_eq, tonly.fault_eq, rfault]
  · rw [hao.kiln_eq, wonly.kiln_eq, ekiln, State.abortEngines, tonly.kiln_eq, rkiln]
    rfl
  · rw [hao.walk_eq, wwalk, hent]
  · exact (ronly.mono (by decide)).trans ((tonly.mono (by decide)).trans ((eonly.mono (by decide)).trans
      ((wonly.mono (by decide)).trans (hao.mono (by decide)))))

/-! ## Faults received, by state -/

section
variable (s : State)

/-- A change of the fault block but for its tables. -/
theorem FaultFrame.withFault {s : State} {b : FaultBlk} (h : b.tables = s.fault.tables) : FaultFrame s { s with fault := b } :=
  ⟨rfl, id, id, rfl, ⟨rfl, rfl, rfl⟩, h, rfl, rfl, (Only.refl _ s).mk_upd⟩

theorem State.enqueue_faultFrame (f : FaultRec) (table : Nat) : FaultFrame s (s.enqueue f table) := by
  have hr := s.recordFault_faultFrame f
  unfold State.enqueue
  dsimp only
  generalize s.recordFault f = u at hr ⊢
  split
  · refine FaultFrame.trans ?_ (State.faultShard_faultFrame _ _ _ _ _)
    exact hr.trans (FaultFrame.withFault rfl)
  · split
    · refine FaultFrame.trans (FaultFrame.trans ?_ (.of_only (State.irqCt_only _ _))) (State.faultShard_faultFrame _ _ _ _ _)
      exact hr.trans (FaultFrame.withFault rfl)
    · refine FaultFrame.trans (FaultFrame.trans ?_ (.of_only (State.irqCt_only _ _))) (State.faultShard_faultFrame _ _ _ _ _)
      exact hr.trans (FaultFrame.withFault rfl)

theorem State.coolH_faultFrame (f : FaultRec) (table : Nat) : FaultFrame s (s.coolH f table) := by
  have ht (u : State) : FaultFrame u { u.assertTripo with walk := { u.assertTripo.walk with tripDue := none } } :=
    u.assertTripo_faultFrame.trans (FaultFrame.withWalk _ _)
  unfold State.coolH
  dsimp only
  split
  · exact ((State.faultShard_faultFrame _ _ _ _ _).trans (State.recordFault_faultFrame _ _)).trans
      ((ht _).trans (.of_only (State.walkSwitch_only _ _ _)))
  · split
    · exact (ht _).trans ((FaultFrame.of_only (State.walkBegin_only _)).trans (State.enqueue_faultFrame _ _ _))
    · exact s.enqueue_faultFrame _ _

theorem State.coolT_faultFrame (f : FaultRec) (table : Nat) : FaultFrame s (s.coolT f table) := by
  unfold State.coolT
  dsimp only
  split
  · exact s.enqueue_faultFrame f table
  · exact (s.enqueue_faultFrame f table).trans (FaultFrame.withWalk _ _)

theorem State.coolForce_faultFrame : FaultFrame s s.coolForce := by
  have hw (u : State) : FaultFrame u { u with walk := { u.walk with tripDue := none } } := FaultFrame.withWalk _ _
  have ht (u : State) : FaultFrame u (u.tellTwin .forceOff forceOffRec 7) := .of_only (State.tellTwin_only _ _ _ _)
  have hs (u : State) : FaultFrame u u.sendForce := .of_only (State.sendForce_only _)
  have ha := s.assertPfw_faultFrame.trans (State.assertTripo_faultFrame _)
  unfold State.coolForce
  dsimp only
  split
  · split
    · exact ha.trans ((hw _).trans ((ht _).trans (State.enqueue_faultFrame _ _ _)))
    · exact ha.trans ((hw _).trans ((hs _).trans ((State.faultShard_faultFrame _ _ _ _ _).trans
        ((State.recordFault_faultFrame _ _).trans (.of_only (State.walkSwitch_only _ _ _))))))
  · split
    · exact s.assertTripo_faultFrame.trans ((ht _).trans ((hw _).trans ((FaultFrame.of_only (State.walkBegin_only _)).trans
        (State.enqueue_faultFrame _ _ _))))
    · exact (ht _).trans (State.enqueue_faultFrame _ _ _)

theorem State.holdFault_faultFrame (f : FaultRec) (table : Nat) : FaultFrame s (s.holdFault f table) := by
  unfold State.holdFault
  dsimp only
  split
  · exact FaultFrame.refl s
  · split
    · exact ⟨rfl, id, id, rfl, ⟨rfl, rfl, rfl⟩, rfl, rfl, rfl, (Only.refl _ s).mk_upd⟩
    · exact FaultFrame.withFault rfl

theorem State.recordOnly_faultFrame (f : FaultRec) : FaultFrame s (s.recordOnly f) := by
  have hl : FaultFrame s (s.setLatch.recordBisque f s.clk.aonStamp) :=
    s.setLatch_faultFrame.trans (State.recordBisque_faultFrame _ _ _)
  unfold State.recordOnly
  dsimp only
  refine FaultFrame.trans ?_ ((State.assertPfw_faultFrame _).trans (State.assertTripo_faultFrame _))
  split
  · exact hl.trans (State.recordFirst_faultFrame _ _ _)
  · exact hl.trans ⟨rfl, id, id, rfl, ⟨rfl, rfl, rfl⟩, rfl, rfl, rfl, (Only.refl _ _).mk_upd⟩

theorem State.receiveW_faultFrame {s : State} (h : s.pm.state ≠ .standby) (f : FaultRec) : FaultFrame s (s.receiveW f) := by
  have hw : FaultFrame s ((State.irqCt { s with ctl := { s.ctl with warnCount := inc 65535 s.ctl.warnCount } } 0).faultShard f 3 0xFF 0) :=
    (FaultFrame.of_only (ps := [.ctl, .irq]) (Only.lift (State.irqCt_only _ _) (by decide) (Only.refl _ s).mk_upd)).trans
      (State.faultShard_faultFrame _ _ _ _ _)
  unfold State.receiveW
  cases hs : s.pm.state with
  | ready | firing | running | cooling => exact hw
  | starting => exact s.holdFault_faultFrame f 0xFF
  | standby => exact absurd hs h
  | off | coppice => exact FaultFrame.refl s

theorem State.receiveTH_faultFrame {s : State} (h : s.pm.state ≠ .standby) (f : FaultRec) (table : Nat) :
    FaultFrame s (s.receiveTH f table) := by
  unfold State.receiveTH
  dsimp only
  cases hs : s.pm.state with
  | ready | firing | running => exact (s.startShutdown_starts _ f table _ none).frame
  | cooling =>
    simp only []
    split
    · exact s.coolH_faultFrame f table
    · exact s.coolT_faultFrame f table
  | starting => exact (s.recordOnly_faultFrame f).trans (State.holdFault_faultFrame _ _ _)
  | standby => exact absurd hs h
  | off | coppice => exact FaultFrame.refl s

theorem State.receiveAs_faultFrame {s : State} (h : s.pm.state ≠ .standby) (f : FaultRec) (table : Nat) :
    FaultFrame s (s.receiveAs f table) := by
  unfold State.receiveAs
  split
  · exact s.faultShard_faultFrame _ _ _ _
  · split
    · exact State.receiveW_faultFrame h f
    · exact State.receiveTH_faultFrame h f table

theorem State.receive_faultFrame {s : State} (h : s.pm.state ≠ .standby) (f : FaultRec) : FaultFrame s (s.receive f) :=
  State.receiveAs_faultFrame h f _

theorem State.receiveCause_faultFrame {s : State} (h : s.pm.state ≠ .standby) (x source : Nat) : FaultFrame s (s.receiveCause x source) :=
  State.receive_faultFrame h _

theorem FaultFrame.foldl_awake {α : Type} {f : State → α → State} (hf : ∀ t x, t.pm.state ≠ .standby → FaultFrame t (f t x)) {s : State}
    (hs : s.pm.state ≠ .standby) (l : List α) : FaultFrame s (l.foldl f s) := by
  induction l generalizing s with
  | nil => exact refl s
  | cons x l ih =>
    have hx := hf s x hs
    exact hx.trans (ih (hx.awake hs))

/-! ## What a change of comparators brings about -/

theorem State.deliver_faultFrame {s : State} (h : s.pm.state ≠ .standby) (e : FaultRec × Nat) : FaultFrame s (s.deliver e) := by
  unfold State.deliver
  split
  · exact FaultFrame.withFault rfl
  · exact State.receive_faultFrame h _

theorem State.endPersist_faultFrame {s : State} (h : s.pm.state ≠ .standby) (src : Nat) : FaultFrame s (s.endPersist src) := by
  have h1 : FaultFrame s { s with fault := { s.fault with persist := s.fault.persist.filter (fun p => p.1 != src) } } :=
    FaultFrame.withFault rfl
  exact h1.trans (FaultFrame.foldl_awake (s := { s with fault := { s.fault with persist := s.fault.persist.filter (fun p => p.1 != src) } })
    (f := fun (u : State) (p : Nat × Nat × Nat) => u.receive (persistFault p.1 p.2.1 (if u.clk.now < p.2.2 then 1 else 2)))
    (fun t p ht => State.receive_faultFrame ht _) h _)

theorem State.observeEngine_programs (k : Nat) : SamePrograms s (s.observeEngine k) := by
  unfold State.observeEngine
  split <;> exact ⟨rfl, rfl, rfl⟩

theorem State.observeChecks_faultFrame : FaultFrame s s.observeChecks := by
  have h (t : State) (k : Nat) : FaultFrame t (t.observeEngine k) := by
    have ho := t.observeEngine_only k
    have hp := ho.pm_eq
    exact ⟨by rw [hp], fun x => by rwa [hp], fun x => by rwa [hp], by rw [ho.out_eq], t.observeEngine_programs k, by rw [ho.fault_eq],
      by rw [ho.log_eq], by rw [ho.log_eq], ho.mono (by decide)⟩
  exact FaultFrame.foldl (fun t k => h t k) _

theorem State.sweepSees_faultFrame : FaultFrame s s.sweepSees := .of_log s.sweepSees_only s.sweepSees_fr s.sweepSees_fa

theorem State.coreSees_faultFrame {s : State} (h : s.pm.state ≠ .standby) (old : State) (srcs : List Nat) :
    FaultFrame s (s.coreSees old srcs) := by
  have h1 : FaultFrame s s.observeChecks.sweepSees := s.observeChecks_faultFrame.trans (State.sweepSees_faultFrame _)
  have hd (l : List (FaultRec × Nat)) := FaultFrame.foldl_awake (f := State.deliver) (fun t e ht => State.deliver_faultFrame ht e) (h1.awake h) l
  have he {u : State} (hu : u.pm.state ≠ .standby) (l : List Nat) :=
    FaultFrame.foldl_awake (f := State.endPersist) (fun t src ht => State.endPersist_faultFrame ht src) hu l
  unfold State.coreSees
  dsimp only
  exact h1.trans ((hd _).trans (he ((hd _).awake (h1.awake h)) _))

theorem State.senseChange_faultFrame {s : State} (h : s.pm.state ≠ .standby) (old : State) (srcs : List Nat) :
    FaultFrame s (s.senseChange old srcs) := by
  have h1 : FaultFrame s ((s.armAll srcs).refreshFlt old) :=
    (FaultFrame.of_only (State.armAll_only _ _)).trans (.of_only (State.refreshFlt_only _ _))
  unfold State.senseChange
  dsimp only
  split
  · exact h1
  · exact h1.trans (State.coreSees_faultFrame (h1.awake h) _ _)

theorem State.resolveBy_faultFrame {s : State} (h : s.pm.state ≠ .standby) (n : Nat) (code : BitVec 16) :
    FaultFrame s (s.resolveBy n code) := by
  have h1 (l : List Nat) : FaultFrame s (l.foldl (fun u src =>
      if (u.cmp src).status = .unresolved ∧ u.evaluated src then
        match u.shownSide src code with
        | some f => u.observe src f
        | none => u
      else u) s) := by
    refine FaultFrame.foldl (fun t src => ?_) _
    split
    · split
      · exact .of_only (State.observe_only _ _ _)
      · exact FaultFrame.refl t
    · exact FaultFrame.refl t
  unfold State.resolveBy
  dsimp only
  split
  · exact FaultFrame.refl s
  · exact (h1 _).trans (State.senseChange_faultFrame ((h1 _).awake h) _ _)

theorem State.takeReading_faultFrame {s : State} (h : s.pm.state ≠ .standby) (i : Nat) (raw : BitVec 16) :
    FaultFrame s (s.takeReading i raw) := by
  have hr (t : State) (code : BitVec 16) (ht : FaultFrame s t) : FaultFrame s (if i < 64 then t.resolveBy i code else t) := by
    split
    · exact ht.trans (State.resolveBy_faultFrame (ht.awake h) _ _)
    · exact ht
  unfold State.takeReading
  split
  · exact FaultFrame.refl s
  · have hd : FaultFrame s (if 96 ≤ i then { s with sense := { s.sense with
        diodeHalf := putBit s.sense.diodeHalf (i - 96) (s.isHalf i) } } else s) := by
      split
      · exact .of_only (ps := [.sense]) (Only.refl _ s).mk_upd
      · exact FaultFrame.refl s
    dsimp only
    generalize (if 96 ≤ i then { s with sense := { s.sense with
        diodeHalf := putBit s.sense.diodeHalf (i - 96) (s.isHalf i) } } else s) = u at hd ⊢
    split
    · exact hd.trans (.of_only (State.bumpSeq_only _ _))
    · exact hr _ _ (hd.trans (.of_only (State.putReading_only _ _ _)))

end

/-! ## Firing starts -/

section
variable (s : State)

theorem Clk.advance_tbSet (c : Clk) (d : Nat) : (c.advance d).tbSet = c.tbSet ∧ (c.advance d).corePll = c.corePll := by
  unfold Clk.advance
  dsimp only
  split
  · exact ⟨rfl, rfl⟩
  · split
    · exact ⟨rfl, rfl⟩
    · exact ⟨rfl, rfl⟩

/-- Firing before its engines are looked at. -/
def State.firing (s : State) (cause : Nat) : State :=
  let s := { s with pm := { s.pm with onPending := none } }.goTo .firing cause
  { s with kiln := { s.kiln with
    engines := s.kiln.engines.mapIdx (fun k e => s.engineStart k e)
    eventFlags := 0, failBits := 0, chatter := [] } }

theorem State.fireStart_eq (cause : Nat) : s.fireStart cause =
    if (s.firing cause).kiln.engines.any (fun e => e.started) then s.firing cause
    else ((s.firing cause).wait ((s.firing cause).engTicks 0 1)).enterRunning := rfl

theorem State.engineStarts_congr {s t : State} (h : ∀ a, t.cfgAt a = s.cfgAt a) (k : Nat) : t.engineStarts k = s.engineStarts k := by
  simp only [State.engineStarts, h]

theorem State.firing_only (cause : Nat) : Only [.pm, .log, .kiln] s (s.firing cause) := by
  have h := Only.refl [.pm, .log, .kiln] s
  unfold State.firing
  dsimp only
  repeat' first
      | with_reducible assumption | with_reducible apply Only.lift (State.goTo_only ..) | with_reducible refine Only.mk_upd ?_
      | (with_reducible show Part.sub _ _ = true; decide)

/-- An engine is started exactly where the on request starts it. -/
theorem State.firing_started (cause : Nat) : (s.firing cause).kiln.engines.any (fun e => e.started) = true ↔ SomeEngine s := by
  let u := { s with pm := { s.pm with onPending := none } }.goTo .firing cause
  have hu (a : Nat) : u.cfgAt a = s.cfgAt a :=
    (Only.trans (ps := [.pm, .log]) (Only.mk_upd (Only.refl _ s)) (State.goTo_only _ _ _) : Only [.pm, .log] s u).cfgAt_eq a
  have he : (s.firing cause).kiln.engines = s.kiln.engines.mapIdx (fun k e => u.engineStart k e) := rfl
  have hst (k : Nat) (e : Engine) : (u.engineStart k e).started = s.engineStarts k := by
    unfold State.engineStart
    dsimp only
    rw [State.engineStarts_congr hu k]
    cases s.engineStarts k <;> rfl
  rw [he, List.any_eq_true]
  constructor
  · rintro ⟨e, hm, hs⟩
    obtain ⟨k, hk, rfl⟩ := List.mem_mapIdx.1 hm
    exact ⟨k, hk, by rwa [hst] at hs⟩
  · rintro ⟨k, hk, hs⟩
    exact ⟨u.engineStart k s.kiln.engines[k], List.mem_mapIdx.2 ⟨k, hk, rfl⟩, by rw [hst]; exact hs⟩

theorem State.firing_sets (cause : Nat) : (s.firing cause).pm = { s.pm with
      onPending := none, state := .firing, lastCause := BitVec.ofNat 8 cause }
    ∧ (s.firing cause).kiln.eventFlags = 0 ∧ (s.firing cause).kiln.failBits = 0 ∧ SamePrograms s (s.firing cause)
    ∧ (s.firing cause).log.fr = s.log.fr ∧ (s.firing cause).log.fa = s.log.fa :=
  ⟨rfl, rfl, rfl, ⟨rfl, rfl, rfl⟩, State.goTo_fr _ _ _, State.goTo_fa _ _ _⟩

theorem State.enterRunning_pm : s.enterRunning.pm = { s.pm with state := .running, lastCause := 0x18 } := rfl

theorem State.enterRunning_fr : s.enterRunning.log.fr = s.log.fr := State.goTo_fr _ _ _

theorem State.enterRunning_fa : s.enterRunning.log.fa = s.log.fa := State.goTo_fa _ _ _

/-- What an on request with a PM cause that starts firing leaves. -/
structure FiringStarts (cause : Nat) (s t : State) : Prop where
  some : SomeEngine s → t.pm = { s.pm with onPending := none, state := .firing, lastCause := BitVec.ofNat 8 cause } ∧ t.clk = s.clk
    ∧ t.mg = s.mg
  none : ¬ SomeEngine s → t.pm = { s.pm with onPending := none, state := .running, lastCause := 0x18 }
    ∧ t.clk = s.clk.advance (s.engTicks 0 1)
  eventFlags : t.kiln.eventFlags = 0
  failBits : t.kiln.failBits = 0
  programs : SamePrograms s t
  fr : t.log.fr = s.log.fr
  fa : t.log.fa = s.log.fa
  only : Only [.pm, .log, .kiln, .clk, .mg] s t

theorem State.fireStart_starts (cause : Nat) : FiringStarts cause s (s.fireStart cause) := by
  obtain ⟨fpm, fev, ffail, fprog, ffr, ffa⟩ := s.firing_sets cause
  have fonly := s.firing_only cause
  have hst := s.firing_started cause
  have htick : (s.firing cause).engTicks 0 1 = s.engTicks 0 1 := by
    unfold State.engTicks State.engRc
    rw [fonly.clk_eq]
  rw [State.fireStart_eq]
  split
  · rename_i h
    have hs := hst.1 h
    exact ⟨fun _ => ⟨fpm, fonly.clk_eq, fonly.mg_eq⟩, fun hn => absurd hs hn, fev, ffail, fprog, ffr, ffa, fonly.mono (by decide)⟩
  · rename_i h
    have hs : ¬ SomeEngine s := fun hs => h (hst.2 hs)
    have hr := State.enterRunning_only ((s.firing cause).wait ((s.firing cause).engTicks 0 1))
    have hw := State.wait_only (s.firing cause) ((s.firing cause).engTicks 0 1)
    refine ⟨fun h => absurd h hs, fun _ => ⟨?_, ?_⟩, ?_, ?_, ?_, ?_, ?_, ?_⟩
    · rw [State.enterRunning_pm, hw.pm_eq, fpm]
    · rw [hr.clk_eq, htick]
      show (s.firing cause).clk.advance _ = _
      rw [fonly.clk_eq]
    · rw [hr.kiln_eq, hw.kiln_eq, fev]
    · rw [hr.kiln_eq, hw.kiln_eq, ffail]
    · unfold SamePrograms at *
      rw [hr.kiln_eq, hw.kiln_eq]
      exact fprog
    · rw [State.enterRunning_fr, hw.log_eq, ffr]
    · rw [State.enterRunning_fa, hw.log_eq, ffa]
    · exact (fonly.mono (by decide)).trans ((hw.mono (by decide)).trans (hr.mono (by decide)))

variable {s}

theorem FiringStarts.firesBy {cause : Nat} {c : Byte} {s t : State} (h : FiringStarts cause s t) (hc : BitVec.ofNat 8 cause = c) :
    FiresBy c s t := by
  refine ⟨fun he => ?_, fun hn => ?_, h.eventFlags, h.failBits, ?_⟩
  · obtain ⟨hp, hk, -⟩ := h.some he
    rw [hp, hk]
    exact ⟨rfl, hc, rfl⟩
  · obtain ⟨hp, hk⟩ := h.none hn
    rw [hp, hk, Clk.advance_now]
    exact ⟨rfl, rfl, rfl⟩
  · by_cases he : SomeEngine s
    · rw [(h.some he).1]
    · rw [(h.none he).1]

/-! ## What neither a fault nor a request changes, whatever it starts -/

/-- The stage, the host port and the clock's base stay, and a device that is not in Standby does not get there. -/
structure Onward (s t : State) : Prop where
  stage : t.pm.stage = s.pm.stage
  portUp : t.pm.portUp = s.pm.portUp
  wakePath : t.pm.wakePath = s.pm.wakePath
  tbSet : t.clk.tbSet = s.clk.tbSet
  corePll : t.clk.corePll = s.clk.corePll
  awake : s.pm.state ≠ .standby → t.pm.state ≠ .standby

theorem Onward.refl (s : State) : Onward s s := ⟨rfl, rfl, rfl, rfl, rfl, id⟩

theorem Onward.trans {s t u : State} (h : Onward s t) (k : Onward t u) : Onward s u :=
  ⟨k.stage.trans h.stage, k.portUp.trans h.portUp, k.wakePath.trans h.wakePath, k.tbSet.trans h.tbSet, k.corePll.trans h.corePll,
    k.awake ∘ h.awake⟩

theorem FaultFrame.onward {s t : State} (h : FaultFrame s t) : Onward s t :=
  ⟨h.stage, h.portUp, h.wakePath, by rw [h.clk], by rw [h.clk], h.awake⟩

theorem Onward.of_only {ps : List Part} {s t : State} (h : Only ps s t) (hp : Part.pm ∉ ps ∧ Part.clk ∉ ps := by decide) : Onward s t := by
  have h1 := h.pm_eq hp.1
  have h2 := h.clk_eq hp.2
  exact ⟨by rw [h1], by rw [h1], by rw [h1], by rw [h2], by rw [h2], fun x => by rwa [h1]⟩

theorem FiringStarts.onward {cause : Nat} {s t : State} (h : FiringStarts cause s t) : Onward s t := by
  by_cases he : SomeEngine s
  · obtain ⟨hp, hk, -⟩ := h.some he
    refine ⟨by rw [hp], by rw [hp], by rw [hp], by rw [hk], by rw [hk], fun _ => ?_⟩
    rw [hp]
    exact nofun
  · obtain ⟨hp, hk⟩ := h.none he
    have ha := Clk.advance_tbSet s.clk (s.engTicks 0 1)
    refine ⟨by rw [hp], by rw [hp], by rw [hp], by rw [hk, ha.1], by rw [hk, ha.2], fun _ => ?_⟩
    rw [hp]
    exact nofun

theorem State.newRequest_onward (cause : Nat) : Onward s (s.newRequest cause) := by
  have hc : Onward s { s with ctl := { s.ctl with lastOn := some (s.clk.now, BitVec.ofNat 8 cause) } } := ⟨rfl, rfl, rfl, rfl, rfl, id⟩
  unfold State.newRequest
  split
  · dsimp only
    split
    · exact ⟨rfl, rfl, rfl, rfl, rfl, id⟩
    · split
      · exact ⟨rfl, rfl, rfl, rfl, rfl, id⟩
      · split
        · exact hc.trans (State.fireStart_starts _ cause).onward
        · split
          · exact hc
          · exact ⟨rfl, rfl, rfl, rfl, rfl, id⟩
  · exact Onward.refl s

theorem State.joinRequest_onward (old : Byte) (cause : Nat) : Onward s (s.joinRequest old cause) := by
  unfold State.joinRequest
  dsimp only
  split
  · exact ⟨rfl, rfl, rfl, rfl, rfl, id⟩
  · exact Onward.refl s

theorem State.onRequest_onward (cause : Nat) : Onward s (s.onRequest cause) := by
  unfold State.onRequest
  split
  · exact State.joinRequest_onward _ _
  · exact State.newRequest_onward _

theorem State.tryPending_onward : Onward s s.tryPending := by
  unfold State.tryPending
  split
  · split
    · exact (State.fireStart_starts _ _).onward
    · exact Onward.refl s
  · exact Onward.refl s

theorem State.startRequests_onward : Onward s s.startRequests := by
  unfold State.startRequests
  split
  · exact State.onRequest_onward _
  · split
    · exact State.onRequest_onward _
    · exact Onward.refl s

theorem State.twinAtReady_onward : Onward s s.twinAtReady := by
  unfold State.twinAtReady
  split
  · split
    · exact ⟨rfl, rfl, rfl, rfl, rfl, id⟩
    · unfold State.foundOrBlock
      split
      · exact (Onward.of_only s.found_only).trans State.tryPending_onward
      · exact .of_only (ps := [.twin, .irq]) (Only.lift (State.irqGl_only _ _) (by decide) (Only.refl _ s).mk_upd)
  · exact .of_only (ps := [.twin, .out]) (Only.lift (State.updateTwok_only _) (by decide) (Only.refl _ s).mk_upd)

end

section
variable (s : State)

/-! ## The wake -/

/-- A wake source taken in Standby. -/
theorem State.wake_taken {s : State} (h : s.pm.state = .standby) : WakeTaken s s.wake := by
  unfold State.wake
  refine ⟨fun hl hg => ?_, fun hn => ?_⟩
  · rw [if_pos ⟨h, hl⟩, if_pos hg]
    exact ⟨rfl, rfl, rfl, rfl, rfl, rfl, rfl, rfl, rfl, rfl, rfl⟩
  · cases hl : s.pm.vinLow with
    | true =>
      rw [if_neg (by rintro ⟨-, hl'⟩; exact absurd hl' (by decide))]
      exact ⟨h, rfl, rfl, rfl, rfl, rfl, by rw [Bool.not_true, Bool.or_false]⟩
    | false =>
      have hg : s.pm.vinGood = false := by
        rcases hn with hn | hn
        · rw [hl] at hn
          exact absurd hn (by decide)
        · exact hn
      rw [if_pos ⟨h, rfl⟩, hg, if_neg (by decide)]
      exact ⟨h, rfl, rfl, rfl, rfl, rfl, by rw [Bool.not_false, Bool.or_true]⟩

theorem State.wake_wakeDue {s : State} (h : s.pm.wakeDue = none) : s.wake.pm.wakeDue = none := by
  unfold State.wake
  split
  · split
    · rfl
    · exact h
  · exact h

theorem State.wake_now : s.wake.clk.now = s.clk.now := by
  unfold State.wake
  repeat' split
  all_goals rfl

/-! ## The entry to Ready, whatever it finds -/

theorem State.enterReady_onward : s.enterReady.pm.stage = 6 ∧ s.enterReady.pm.portUp = true ∧ s.enterReady.pm.wakePath = false
    ∧ s.enterReady.clk.tbSet = s.clk.tbSet ∧ s.enterReady.clk.corePll = s.clk.corePll
    ∧ s.enterReady.sec.slots = s.sec.slots := by
  have hn := State.readyNoted_pm (s := s)
  have hno := State.readyNoted_only (s := s)
  have hpo := State.readyPins_only (s := s.readyNoted)
  have hpp : s.readyNoted.readyPins.pm = s.readyNoted.pm := hpo.pm_eq
  have hck : s.readyNoted.readyPins.clk = s.clk := hpo.clk_eq.trans hno.clk_eq
  have hse : s.readyNoted.readyPins.sec = s.sec := hpo.sec_eq.trans hno.sec_eq
  rw [State.enterReady_eq]
  generalize s.readyNoted.readyPins = p at hpp hck hse ⊢
  -- the units
  have hu : Onward p p.readyUnits := by
    unfold State.readyUnits
    refine Onward.trans (Onward.trans ?_ (.of_only (State.startSelfTest_only _))) State.twinAtReady_onward
    exact ⟨rfl, rfl, rfl, rfl, rfl, id⟩
  have hus : p.readyUnits.sec.slots = p.sec.slots := by
    unfold State.readyUnits
    rw [(State.twinAtReady_only _).sec_eq, (State.startSelfTest_only _).sec_eq]
  generalize p.readyUnits = u at hu hus ⊢
  have hawake : u.pm.state ≠ .standby := hu.awake (by rw [hpp, hn]; exact nofun)
  -- the faults held, and those found
  have hl : Onward u u.logHeld := by
    have hlp := State.logHeld_pm (s := u)
    have hlc := u.logHeld_only.clk_eq
    exact ⟨by rw [hlp], by rw [hlp], by rw [hlp], by rw [hlc], by rw [hlc], fun x => by rwa [hlp]⟩
  have hr : Onward u.logHeld u.logHeld.raiseUnresolved := by
    refine FaultFrame.onward (FaultFrame.foldl_awake (fun t x ht => ?_) (hl.awake hawake) _)
    split
    · exact State.receive_faultFrame ht _
    · exact FaultFrame.refl t
  have hf : Onward u u.readyFaults := hl.trans (hr.trans ⟨rfl, rfl, rfl, rfl, rfl, id⟩)
  have hfs : u.readyFaults.sec = u.sec := by
    unfold State.readyFaults
    rw [(State.startOffMin_only _).sec_eq, (State.raiseUnresolved_only _).sec_eq, u.logHeld_only.sec_eq]
  generalize u.readyFaults = v at hf hfs ⊢
  have ht := FaultFrame.foldl_awake (f := fun t i => t.receiveCause 1 i) (fun t i ht => State.receiveCause_faultFrame ht 1 i)
    (hf.awake hawake) (bitsOf v.inp.tripi)
  have hall := hu.trans (hf.trans (ht.onward.trans State.startRequests_onward))
  refine ⟨hall.stage.trans ?_, hall.portUp.trans ?_, hall.wakePath.trans ?_, hall.tbSet.trans ?_, hall.corePll.trans ?_, ?_⟩
  · rw [hpp, hn]
  · rw [hpp, hn]
  · rw [hpp, hn]
  · rw [hck]
  · rw [hck]
  · rw [(State.startRequests_only _).sec_eq, ht.only.sec_eq, hfs, hus, hse]

/-! ## A configuration register read before and after the load -/

theorem State.cfgAt_or (a : Nat) : s.cfgAt a = s.rawAt a ∨ s.cfgAt a = 0 := by
  unfold State.cfgAt State.rawAt
  split
  · split
    · split
      · exact Or.inl rfl
      · exact Or.inr rfl
    · split
      · exact Or.inl rfl
      · exact Or.inr rfl
    · exact Or.inr rfl
  · exact Or.inl rfl

theorem bit_zero {n : Nat} (i : Nat) : bit (0 : BitVec n) i = false := by
  simp [bit]

/-- A bit that is clear in a register reads clear, loaded or not. -/
theorem State.cfgAt_bit_clear {a i : Nat} (h : bit (s.rawAt a) i = false) : bit (s.cfgAt a) i = false := by
  rcases s.cfgAt_or a with e | e
  · rw [e, h]
  · rw [e, bit_zero]

/-! ## The detectors' counts -/

theorem bit_one {n : Nat} (i j : Nat) : bit (one n i) j = decide (i = j ∧ j < n) := by
  simp only [bit, one, BitVec.getLsbD_ofNat, Nat.testBit_two_pow]
  by_cases h : i = j <;> by_cases k : j < n <;> simp [h, k]

theorem bit_putBit_same {n : Nat} (w : BitVec n) {i : Nat} (hi : i < n) (b : Bool) : bit (putBit w i b) i = b := by
  have h1 : (one n i).getLsbD i = true := (bit_one i i).trans (by simp [hi])
  cases b <;> simp [putBit, bit, h1, hi]

theorem State.irqCk_bit (i : Nat) (hi : i < 32) : bit (s.irqCk i).irq.ck i = true := by
  rw [State.irqCk_irq_ck]
  exact bit_putBit_same _ hi _

end

end Sys2Proof.Machine
end

section
/-! SUPPORT. The wake path and the measurement of the supplies (O3). -/

set_option Elab.async false

namespace Sys2Proof.Machine

section
variable {s : State}

theorem State.beginStage5_pm : s.beginStage5.pm = { s.pm with stage := 5, stageEntry := s.clk.now } := by
  rw [State.beginStage5, (State.assignAll_only _).pm_eq, (State.startPass_only _).pm_eq, (State.outsStart_only _).pm_eq,
    (State.refreshFlt_only _ _).pm_eq, (State.modeChanges_only _ _).pm_eq]

/-- The clock outputs that start leave the clock's base. -/
theorem State.beginStage5_clk : s.beginStage5.clk.tbSet = s.clk.tbSet ∧ s.beginStage5.clk.corePll = s.clk.corePll := by
  rw [State.beginStage5, (State.assignAll_only _).clk_eq, (State.startPass_only _).clk_eq]
  have h (u : State) : u.outsStart.clk.tbSet = u.clk.tbSet ∧ u.outsStart.clk.corePll = u.clk.corePll := ⟨rfl, rfl⟩
  rw [(h _).1, (h _).2, (State.refreshFlt_only _ _).clk_eq, (State.modeChanges_only _ _).clk_eq]
  exact ⟨rfl, rfl⟩

theorem State.setTimeBase_corePll : s.setTimeBase.clk.corePll = s.clk.corePll := by
  have h (u : State) (p : Prop) [Decidable p] : (if p then u.secondReached else u).clk.corePll = u.clk.corePll := by
    split
    · unfold State.secondReached
      dsimp only
      split <;> rfl
    · rfl
  exact h _ _

theorem State.wake_till_taken (h : s.pm.state = .standby) (n : Nat) : WakeTaken s (s.till n).wake :=
  State.wake_taken (s := s.till n) h

/-- The wake path as it ends with configuration copy 0 whole, up to the entry to Ready. -/
def State.woken (s : State) (r : StageResult) : State :=
  ((s.pllStart r.refLocked).configLoaded.examineLog.setTimeBase.beginStage5).arming r

theorem State.woken_frame (r : StageResult) (h : s.pm.state = .starting) :
    (s.woken r).pm.state = .starting ∧ (s.woken r).cfgLoaded = true ∧ (s.woken r).clk.tbSet = true ∧ (s.woken r).clk.corePll = true
      ∧ (s.woken r).cfg = s.cfg ∧ (s.woken r).sec = s.sec ∧ (s.woken r).inp = s.inp ∧ (s.woken r).out.passive = s.out.passive := by
  have hp := s.pllStart_only r.refLocked
  have hpc : (s.pllStart r.refLocked).clk.corePll = true := rfl
  unfold State.woken
  generalize s.pllStart r.refLocked = a at hp hpc ⊢
  have hc := a.configLoaded_only
  have hcl : a.configLoaded.cfgLoaded = true := by
    rw [State.configLoaded, (State.firstFromHeld_only _).cfgLoaded_eq]
  generalize a.configLoaded = b at hc hcl ⊢
  have he := b.examineLog_only
  obtain ⟨es, -, -, -⟩ := State.examineLog_frame (s := b)
  generalize b.examineLog = c at he es ⊢
  have ht := c.setTimeBase_only
  obtain ⟨tb, -⟩ := State.setTimeBase_frame (s := c)
  have tc := State.setTimeBase_corePll (s := c)
  generalize c.setTimeBase = d at ht tb tc ⊢
  have hb := d.beginStage5_only
  have bp := State.beginStage5_pm (s := d)
  obtain ⟨bt, bc⟩ := State.beginStage5_clk (s := d)
  generalize d.beginStage5 = e at hb bp bt bc ⊢
  have hes : e.pm.state = .starting := by
    rw [bp]
    show d.pm.state = _
    rw [ht.pm_eq, es, hc.pm_eq, hp.pm_eq, h]
  obtain ⟨hk, hck⟩ := State.arming_heldInStarting hes r
  have ha := e.arming_only r
  have hall : Only [.clk, .kiln, .fault, .cfgLoaded, .pm, .irq, .log, .sense, .pwm] s e :=
    (hp.mono (by decide)).trans ((hc.mono (by decide)).trans ((he.mono (by decide)).trans ((ht.mono (by decide)).trans
      (hb.mono (by decide)))))
  refine ⟨hk.state.trans hes, ?_, ?_, ?_, ?_, ?_, ?_, ?_⟩
  · rw [ha.cfgLoaded_eq, hb.cfgLoaded_eq, ht.cfgLoaded_eq, he.cfgLoaded_eq, hcl]
  · rw [hck]
    exact bt.trans tb
  · rw [hck]
    show e.clk.corePll = true
    rw [bc, tc, he.clk_eq, hc.clk_eq, hpc]
  · rw [ha.cfg_eq, hall.cfg_eq]
  · rw [ha.sec_eq, hall.sec_eq]
  · rw [ha.inp_eq, hall.inp_eq]
  · exact hk.passive.trans (by rw [hall.out_eq])

end

/-! ## What comes with a measurement -/

section
variable (s : State)

theorem bit_putBit_true {n : Nat} (w : BitVec n) (i : Nat) {j : Nat} (h : bit w j = true) : bit (putBit w i true) j = true := by
  simp only [putBit, if_true, bit, BitVec.getLsbD_or] at *
  rw [h, Bool.true_or]

/-- Removed core periods are counted and raise their bit. -/
theorem State.gated_sets (k : Nat) : (k ≠ 0 → (s.gated k).clk.gateCount = incBy 255 s.clk.gateCount k ∧ bit (s.gated k).irq.ck 3 = true)
    ∧ (k = 0 → (s.gated k).clk.gateCount = s.clk.gateCount) ∧ (s.gated k).clk.xingOvf = s.clk.xingOvf := by
  unfold State.gated
  by_cases hk : k = 0
  · rw [if_pos hk]
    exact ⟨fun h => absurd hk h, fun _ => rfl, rfl⟩
  · rw [if_neg hk]
    exact ⟨fun _ => ⟨rfl, State.irqCk_bit _ _ (by decide)⟩, fun h => absurd h hk, rfl⟩

theorem State.overflowed_sets (m : BitVec 16) : (s.overflowed m).clk.xingOvf = s.clk.xingOvf ||| m
    ∧ (s.overflowed m).clk.gateCount = s.clk.gateCount ∧ (bit s.irq.ck 3 = true → bit (s.overflowed m).irq.ck 3 = true) := by
  unfold State.overflowed
  by_cases hm : m = 0
  · rw [if_pos hm, hm]
    exact ⟨by simp, rfl, id⟩
  · rw [if_neg hm]
    refine ⟨rfl, rfl, fun h => ?_⟩
    rw [State.irqCk_irq_ck, State.noteSet_irq_ck]
    exact bit_putBit_true _ _ h

theorem State.takeSeen_frame (x : Seen) : Only [.ctl, .clk, .irq, .ring, .mg, .log, .free, .tw] s (s.takeSeen x)
    ∧ (s.takeSeen x).ctl = { s.ctl with
        onreqShort := incBy 255 s.ctl.onreqShort x.onreqShort, mrShort := incBy 255 s.ctl.mrShort x.mrShort }
    ∧ (x.gates ≠ 0 → (s.takeSeen x).clk.gateCount = incBy 255 s.clk.gateCount x.gates ∧ bit (s.takeSeen x).irq.ck 3 = true)
    ∧ (x.gates = 0 → (s.takeSeen x).clk.gateCount = s.clk.gateCount)
    ∧ (s.takeSeen x).clk.xingOvf = s.clk.xingOvf ||| lostPulses x
    ∧ (s.takeSeen x).ring.linkA.symbolErr = incBy 255 s.ring.linkA.symbolErr x.symbolsA
    ∧ (s.takeSeen x).ring.linkB.symbolErr = incBy 255 s.ring.linkB.symbolErr x.symbolsB := by
  unfold State.takeSeen
  have hp := s.shortPulses_only x.onreqShort x.mrShort
  have hpc : (s.shortPulses x.onreqShort x.mrShort).ctl = { s.ctl with
    onreqShort := incBy 255 s.ctl.onreqShort x.onreqShort, mrShort := incBy 255 s.ctl.mrShort x.mrShort } := rfl
  generalize s.shortPulses x.onreqShort x.mrShort = a at hp hpc ⊢
  have hg := a.gated_only x.gates
  obtain ⟨g1, g2, g3⟩ := a.gated_sets x.gates
  generalize a.gated x.gates = b at hg g1 g2 g3 ⊢
  have ho := b.overflowed_only (lostPulses x)
  obtain ⟨o1, o2, o3⟩ := b.overflowed_sets (lostPulses x)
  generalize b.overflowed (lostPulses x) = c at ho o1 o2 o3 ⊢
  have hs := c.symbolErrors_only x.symbolsA x.symbolsB
  have hc := (c.symbolErrors x.symbolsA x.symbolsB).compliance_only x.compliance
  have hf := ((c.symbolErrors x.symbolsA x.symbolsB).compliance x.compliance).foreignStarts_only x.busBusy x.sclHigh
  have hk : Only [.ring, .mg, .log, .free, .tw] c _ := (hs.mono (by decide)).trans ((hc.mono (by decide)).trans (hf.mono (by decide)))
  have hr := hf.ring_eq.trans hc.ring_eq
  have hcr : c.ring = s.ring := (ho.ring_eq.trans hg.ring_eq).trans hp.ring_eq
  have hac : a.clk = s.clk := hp.clk_eq
  refine ⟨(hp.mono (by decide)).trans ((hg.mono (by decide)).trans ((ho.mono (by decide)).trans (hk.mono (by decide)))), ?_, fun h => ⟨?_, ?_⟩,
    fun h => ?_, ?_, ?_, ?_⟩
  · rw [hk.ctl_eq, ho.ctl_eq, hg.ctl_eq, hpc]
  · rw [hk.clk_eq, o2, (g1 h).1, hac]
  · rw [hk.irq_eq]
    exact o3 (g1 h).2
  · rw [hk.clk_eq, o2, g2 h, hac]
  · rw [hk.clk_eq, o1, g3, hac]
  · rw [hr, ← hcr]
    rfl
  · rw [hr, ← hcr]
    rfl

/-- The pulses counted and VIN back leave whether the logic die has a clock. -/
theorem State.pulsesAndVin_frame (x : Seen) : Only [.ctl, .pm] s ((s.shortPulses x.onreqShort x.mrShort).vinBack x.vinBack)
    ∧ ((s.shortPulses x.onreqShort x.mrShort).vinBack x.vinBack).ctl = { s.ctl with
        onreqShort := incBy 255 s.ctl.onreqShort x.onreqShort, mrShort := incBy 255 s.ctl.mrShort x.mrShort }
    ∧ ((s.shortPulses x.onreqShort x.mrShort).vinBack x.vinBack).pm = { s.pm with vinLow := s.pm.vinLow && !x.vinBack }
    ∧ ((s.shortPulses x.onreqShort x.mrShort).vinBack x.vinBack).clocked = s.clocked := by
  unfold State.vinBack
  cases x.vinBack with
  | true =>
    rw [if_pos rfl, Bool.not_true, Bool.and_false]
    exact ⟨((s.shortPulses_only _ _).mono (by decide)).mk_upd, rfl, rfl, rfl⟩
  | false =>
    rw [if_neg (by decide), Bool.not_false, Bool.and_true]
    exact ⟨(s.shortPulses_only _ _).mono (by decide), rfl, rfl, rfl⟩

end

/-- Settles O3, row by row: a wake is what `WakeTaken` says, the wake path ends as a start-up does. -/
theorem wakeAndSupply : Obligations.WakeAndSupply := by
  unfold Obligations.WakeAndSupply
  refine ⟨fun due s hs hd => ?_, fun s h => ?_, fun s hp hs hb hw => ?_, fun s h => ?_, fun r s hs h8 hv hl => ?_,
    fun copyOk r s hs h8 hv hc => ?_, fun copyOk r s h => ?_, fun s h => ?_, fun pass s h => ?_, fun vhold vin seen s h => ?_,
    fun vhold vin seen s hl hs ho => ?_⟩
  · let u : State := { s.till due with pm := { (s.till due).pm with wakeDue := none } }
    refine Answers.of_exec (t := u.wake) ?_ ?_
    · show execWakeTimerExpiry s = _
      simp only [execWakeTimerExpiry, hs, hd]
      rfl
    · refine ⟨u.wake_now.trans (State.till_clock due), State.wake_taken (s := u) hs, State.wake_wakeDue rfl, ?_⟩
      have h := Only.refl [.clk, .pm, .log, .out] s
      repeat' first
          | with_reducible assumption | with_reducible apply Only.lift (State.wake_only ..)
          | with_reducible apply Only.lift (State.till_only ..) | with_reducible refine Only.mk_upd ?_
          | (with_reducible show Part.sub _ _ = true; decide)
  · refine Answers.of_exec ?_ rfl
    show execWakeTimerExpiry s = _
    unfold execWakeTimerExpiry
    split
    · rename_i hs hd
      rcases h with h | h
      · exact absurd hs h
      · rw [h] at hd
        exact absurd hd nofun
    · rfl
  · have hx : exec .pbPressLongerThan50Ms s = .next (s.till (s.ctl.pbAt + aonTicks 1639)).wake := by
      show execPbPressLongerThan50Ms s = _
      rw [execPbPressLongerThan50Ms, if_pos ⟨hp, hs, hb, hw⟩]
    refine Answers.of_exec hx ?_
    refine ⟨(State.wake_now _).trans (State.till_clock _), State.wake_till_taken hs _, ?_⟩
    have h := Only.refl [.clk, .pm, .log, .out] s
    repeat' first
        | with_reducible assumption | with_reducible apply Only.lift (State.wake_only ..)
        | with_reducible apply Only.lift (State.till_only ..) | with_reducible refine Only.mk_upd ?_
        | (with_reducible show Part.sub _ _ = true; decide)
  · refine Answers.of_exec (if_neg ?_) rfl
    rintro ⟨h1, h2, h3, h4⟩
    rcases h with h | h | h | h
    · rw [h] at h1
      exact absurd h1 (by decide)
    · exact h h2
    · exact h h3
    · rw [h] at h4
      exact absurd h4 (by decide)
  · refine Answers.of_exec (t := (s.woken r).enterReady) ?_ ?_
    · show execWakePathComplete true r s = _
      rw [execWakePathComplete, if_pos ⟨hs, h8, hv⟩, hl]
      rfl
    · obtain ⟨ws, wl, wt, wc, wcfg, wsec, winp, wpass⟩ := State.woken_frame r hs
      generalize s.woken r = w at ws wl wt wc wcfg wsec winp wpass ⊢
      obtain ⟨e1, e2, e3, e4, e5, e6⟩ := State.enterReady_onward w
      have he := w.enterReady_only
      refine ⟨e1, e2, e3, he.cfgLoaded_eq.trans wl, e4.trans wt, e5.trans wc, he.cfg_eq.trans wcfg, by rw [e6, wsec],
        fun ht hp hq ha => ?_⟩
      have hraw (i : Nat) (h : bit (s.rawAt 0x60000) i = false) : bit (w.cfgAt 0x60000) i = false := by
        refine State.cfgAt_bit_clear w ?_
        have : w.rawAt 0x60000 = s.rawAt 0x60000 := by simp only [State.rawAt, rawReg, wcfg]
        rw [this, h]
      obtain ⟨-, epm, -, eenpu, -, -⟩ := State.enterReady_frame (s := w) (wpass.trans hp) (hraw 1 hq) (hraw 2 ha) (by rw [winp, ht])
      rw [epm]
      exact ⟨rfl, rfl, eenpu⟩
  · refine Answers.of_exec (t := (s.pllStart r.refLocked).wakeFallback) ?_ ?_
    · show execWakePathComplete copyOk r s = _
      rw [execWakePathComplete, if_pos ⟨hs, h8, hv⟩]
      have hb : (copyOk && s.log.stray.all (fun e => e.1 != 0)) = false := by
        rcases hc with hc | hc
        · rw [hc, Bool.false_and]
        · rw [hc, Bool.and_false]
      dsimp only
      rw [if_neg]
      show ¬ (copyOk && s.log.stray.all (fun e => e.1 != 0)) = true
      rw [hb]
      decide
    · refine ⟨rfl, ?_, rfl, rfl, rfl, rfl, rfl, ?_⟩
      · show { s.out with pfw := true, tripo := true, hrst := s.inp.mr || s.ctl.hrstDue.isSome || s.pm.state == DevState.starting && decide (3 ≤ 5) } = _
        rw [hs]
        simp
      · have h := Only.refl [.clk, .pm, .sense, .out, .cfgLoaded] s
        unfold State.wakeFallback
        repeat' first
            | with_reducible assumption | with_reducible apply Only.lift (State.updateHrst_only ..)
            | with_reducible apply Only.lift (State.pllStart_only ..) | with_reducible refine Only.mk_upd ?_
            | (with_reducible show Part.sub _ _ = true; decide)
  · refine Answers.of_exec (if_neg ?_) rfl
    rintro ⟨h1, h2, h3⟩
    rcases h with h | h | h
    · exact h h1
    · exact h h2
    · rw [h] at h3
      exact absurd h3 (by decide)
  · refine Answers.of_exec (if_pos ?_) ⟨rfl, (Only.refl _ s).mk_upd⟩
    rw [h]
    rfl
  · refine Answers.of_exec (if_neg ?_) rfl
    rcases h with h | h
    · rw [h, Bool.and_false]
      decide
    · rw [h, Bool.false_and]
      decide
  · let u : State := { s with pm := { s.pm with
      vhold := min 1023 (vhold / 50), vin := min 1023 (vin / 50),
      holdReady := decide (fld (s.cfgAt 0x10008) 9 0 ≤ min 1023 (vhold / 50)) } }
    refine Answers.of_exec (t := u.takeSeen seen) (if_pos ?_) ?_
    · rcases h with h | ⟨h, h5⟩
      · rw [h, Bool.true_or]
      · rw [h, h5]
        rfl
    · obtain ⟨ho, hctl, hgate, hno, hovf, ha, hb⟩ := u.takeSeen_frame seen
      exact ⟨ho.pm_eq, hctl, hgate, hno, hovf, ha, hb, ho.out_eq, ho.sense_eq, ho.kiln_eq, ho.cfg_eq, ho.sec_eq, ho.port_eq⟩
  · have hn : ¬ (s.pm.state.logs || (s.pm.state == .starting && s.pm.stage == 5)) = true := by
      rw [hl, Bool.false_or, Bool.and_eq_true, beq_iff_eq, beq_iff_eq]
      exact hs
    obtain ⟨uo, uctl, upm, uclk⟩ := s.pulsesAndVin_frame seen
    generalize hu : (s.shortPulses seen.onreqShort seen.mrShort).vinBack seen.vinBack = u at uo uctl upm uclk
    refine Answers.of_exec (t := if u.clocked then (u.gated seen.gates).overflowed (lostPulses seen) else u) ?_ ?_
    · show execVholdAndVinMeasurement vhold vin s seen = _
      rw [execVholdAndVinMeasurement, if_neg hn, if_neg ho, hu]
    · have hg := u.gated_only seen.gates
      obtain ⟨g1, g2, g3⟩ := u.gated_sets seen.gates
      have hv := (u.gated seen.gates).overflowed_only (lostPulses seen)
      obtain ⟨o1, o2, o3⟩ := (u.gated seen.gates).overflowed_sets (lostPulses seen)
      have hc : Only [.clk, .irq] u ((u.gated seen.gates).overflowed (lostPulses seen)) := hg.trans hv
      rw [uclk]
      cases hk : s.clocked with
      | true =>
        rw [if_pos rfl]
        refine ⟨by rw [hc.ctl_eq, uctl], by rw [hc.pm_eq, upm], fun _ => ?_, fun _ h => ⟨?_, o3 (g1 h).2⟩, nofun, ?_⟩
        · rw [o1, g3, uo.clk_eq]
        · rw [o2, (g1 h).1, uo.clk_eq]
        · exact (uo.mono (by decide)).trans (hc.mono (by decide))
      | false =>
        rw [if_neg (by decide)]
        exact ⟨uctl, upm, nofun, nofun, fun _ => ⟨uo.clk_eq, uo.irq_eq⟩, uo.mono (by decide)⟩

end Sys2Proof.Machine
end

section
/-! SUPPORT. Coppice mode, MR and its reset (O4). -/

set_option Elab.async false

namespace Sys2Proof.Machine

/-! ## The entry to Coppice mode -/

section
variable {s : State}

theorem State.tripPwm_silent (h : s.pm.state.logs = false) (src : Word) : s.tripPwm src = s := by
  unfold State.tripPwm
  dsimp only
  rw [if_neg]
  rw [h, Bool.false_and]
  decide

/-- In Coppice mode a change of comparators' outputs reaches no other part. -/
theorem State.senseChange_coppice_only (h : s.pm.state = .coppice) (old : State) (srcs : List Nat) :
    Only [.sense] s (s.senseChange old srcs) := by
  have ha := s.armAll_only srcs
  have hr : Only [.sense] (s.armAll srcs) ((s.armAll srcs).refreshFlt old) := by
    unfold State.refreshFlt
    split
    · dsimp only
      rw [State.tripPwm_silent]
      · exact (Only.refl _ _).mk_upd
      · show (s.armAll srcs).pm.state.logs = false
        rw [ha.pm_eq, h]
        rfl
    · exact Only.refl _ _
  unfold State.senseChange
  dsimp only
  rw [if_pos (by rw [h]; simp)]
  exact ha.trans hr

theorem State.quietDown_coppice_only (h : s.pm.state = .coppice) (old : State) : Only [.sense] s (s.quietDown old) := by
  have h1 : Only [.sense] s (old.heldOuts.foldl State.reeval (old.sense.test.src.toList.foldl (fun u src => u.testWrites old src)
      (old.ramping.foldl State.startSettle (s.senseQuiet.modeChanges old)))) := by
    have h := Only.refl [.sense] s
    repeat' first
        | with_reducible assumption | with_reducible refine Only.foldl _ ?_ (fun u x hu => ?_)
        | with_reducible apply Only.lift (State.reeval_only ..) | with_reducible apply Only.lift (State.testWrites_only ..)
        | with_reducible apply Only.lift (State.startSettle_only ..) | with_reducible apply Only.lift (State.modeChanges_only ..)
        | with_reducible apply Only.lift (State.senseQuiet_only ..) | with_reducible refine Only.mk_upd ?_
        | (with_reducible show Part.sub _ _ = true; decide)
  exact h1.trans (State.senseChange_coppice_only (by rw [h1.pm_eq, h]) _ _)

/-- The entry to Coppice mode: the latch, the bisque record, and what is discarded. -/
def State.coppiceDropped (s : State) : State := ((s.setLatch.recordBisque ⟨0x30, 0, 0, 0⟩ s.clk.aonStamp).discardSilent 2).endWindows

/-- The entry to Coppice mode: the parts that fall still, and the reduced walk's table. -/
def State.coppiceSet (s : State) : State :=
  { s with
    pm := { s.pm with state := .coppice, lastCause := 0x43, offMinDue := none, resetDue := none, held := [], heldFirst := none,
                      portUp := false }
    out := { s.out with pfw := true, tripo := true }
    pwm := { s.pwm with pads := false, chs := s.pwm.chs.map (fun (h : PwmCh) => { h with running := false, out := false, dead := none }) }
    clk := { s.clk with outs := s.clk.outs.map (fun (o : ClkOut) => { o with running := false }), corePll := false, pllLocked := false,
                        relock := none, retryDue := none, refBack := false, rcPhase := 0 }
    mg := { s.mg with
      sweep := { s.mg.sweep with active := false, rail := none, cycleDue := none }
      trims := s.mg.trims.map (fun (e : Nat × Trim) => (e.1, { e.2 with level := if e.2.level = 6 then 6 else 7 })) }
    kiln := { s.kiln with engines := s.kiln.engines.map Engine.abort }
    sense := { s.sense with test := { s.sense.test with slotDue := none } }
    fault := { s.fault with persist := [] }
    tw := [{}, {}, {}, {}]
    twEnded := []
    walk := { (({} : Walk).take 6 (s.tableEntries 6) ⟨0x30, 0, 0, 0⟩) with reduced := true } }

/-- Coppice mode before the measurement is quietened. -/
def State.coppiceBegun (s : State) : State := s.coppiceDropped.coppiceSet

/-- What is discarded at the entry to Coppice mode, and the latch and records set there. -/
theorem State.coppiceBegun_frame : s.coppiceBegun.pm.state = .coppice ∧ s.coppiceBegun.pm.lastCause = 0x43
    ∧ s.coppiceBegun.pm.faultLatch = true ∧ s.coppiceBegun.pm.onPending = none ∧ s.coppiceBegun.out = { s.out with pfw := true, tripo := true }
    ∧ s.coppiceBegun.pwm.pads = false ∧ s.coppiceBegun.kiln = s.abortEngines.kiln
    ∧ s.coppiceBegun.walk = { (({} : Walk).take 6 (s.tableEntries 6) ⟨0x30, 0, 0, 0⟩) with reduced := true }
    ∧ (s.fault.bisque.filled = false → s.coppiceBegun.fault.bisque.filled = true ∧ s.coppiceBegun.fault.bisque.cause = 0x30)
    ∧ (s.fault.bisque.filled = true → s.coppiceBegun.fault.bisque = s.fault.bisque)
    ∧ s.coppiceBegun.fault.tables = s.fault.tables ∧ s.coppiceBegun.log.fr = s.log.fr ∧ s.coppiceBegun.log.fa = s.log.fa
    ∧ s.coppiceBegun.ident = s.ident ∧ s.coppiceBegun.cfg = s.cfg ∧ s.coppiceBegun.sec = s.sec
    ∧ s.coppiceBegun.pending = s.pending := by
  have hb : FaultFrame s (s.setLatch.recordBisque ⟨0x30, 0, 0, 0⟩ s.clk.aonStamp) :=
    s.setLatch_faultFrame.trans (State.recordBisque_faultFrame _ _ _)
  have hbo : Only [.pm, .ctl, .twin, .fault] s (s.setLatch.recordBisque ⟨0x30, 0, 0, 0⟩ s.clk.aonStamp) :=
    (s.setLatch_only.mono (by decide)).trans ((State.recordBisque_only _ _ _).mono (by decide))
  have hbp : (s.setLatch.recordBisque ⟨0x30, 0, 0, 0⟩ s.clk.aonStamp).pm = { s.pm with faultLatch := true, onPending := none } :=
    (State.recordBisque_only _ _ _).pm_eq
  have hbis : (s.fault.bisque.filled = false → (s.setLatch.recordBisque ⟨0x30, 0, 0, 0⟩ s.clk.aonStamp).fault.bisque.filled = true
        ∧ (s.setLatch.recordBisque ⟨0x30, 0, 0, 0⟩ s.clk.aonStamp).fault.bisque.cause = 0x30)
      ∧ (s.fault.bisque.filled = true → (s.setLatch.recordBisque ⟨0x30, 0, 0, 0⟩ s.clk.aonStamp).fault.bisque = s.fault.bisque) := by
    unfold State.recordBisque
    refine ⟨fun h => ?_, fun h => ?_⟩
    · rw [if_neg (by show ¬ s.fault.bisque.filled = true; rw [h]; decide)]
      exact ⟨rfl, rfl⟩
    · rw [if_pos (show s.setLatch.fault.bisque.filled = true from h)]
      rfl
  unfold State.coppiceBegun State.coppiceDropped
  generalize s.setLatch.recordBisque ⟨0x30, 0, 0, 0⟩ s.clk.aonStamp = a at hb hbo hbp hbis ⊢
  have hd := a.discardSilent_only 2
  have he := (a.discardSilent 2).endWindows_only
  have hfr := ((a.discardSilent 2).endWindows_fr.trans (congrArg Log.fr hd.log_eq)).trans hb.fr
  have hfa := ((a.discardSilent 2).endWindows_fa.trans (congrArg Log.fa hd.log_eq)).trans hb.fa
  have hc : Only [.irq, .port, .log] a ((a.discardSilent 2).endWindows) := (hd.mono (by decide)).trans (he.mono (by decide))
  generalize (a.discardSilent 2).endWindows = b at hc hfr hfa ⊢
  have hent : b.tableEntries 6 = s.tableEntries 6 := by
    unfold State.tableEntries
    rw [hc.fault_eq, hb.tables]
  have hp : b.pm = { s.pm with faultLatch := true, onPending := none } := hc.pm_eq.trans hbp
  refine ⟨rfl, rfl, ?_, ?_, ?_, rfl, ?_, ?_, ?_, ?_, ?_, hfr, hfa, ?_, ?_, ?_, ?_⟩
  · show b.pm.faultLatch = true
    rw [hp]
  · show b.pm.onPending = none
    rw [hp]
  · show { b.out with pfw := true, tripo := true } = _
    rw [hc.out_eq, hbo.out_eq]
  · show { b.kiln with engines := b.kiln.engines.map Engine.abort } = _
    rw [hc.kiln_eq, hbo.kiln_eq]
    rfl
  · show { (({} : Walk).take 6 (b.tableEntries 6) ⟨0x30, 0, 0, 0⟩) with reduced := true } = _
    rw [hent]
  · intro h
    show b.fault.bisque.filled = true ∧ b.fault.bisque.cause = 0x30
    rw [hc.fault_eq]
    exact hbis.1 h
  · intro h
    show b.fault.bisque = _
    rw [hc.fault_eq]
    exact hbis.2 h
  · show b.fault.tables = _
    rw [hc.fault_eq, hb.tables]
  · exact hc.ident_eq.trans hbo.ident_eq
  · exact hc.cfg_eq.trans hbo.cfg_eq
  · exact hc.sec_eq.trans hbo.sec_eq
  · exact hc.pending_eq.trans hbo.pending_eq

theorem State.enterCoppice_eq : s.enterCoppice =
    (s.coppiceBegun.quietDown s.coppiceDropped).walkBegin.updateHrst := by
  simp only [State.enterCoppice, State.coppiceBegun, State.coppiceDropped, State.coppiceSet]

theorem State.enterCoppice_frame : Only [.sense, .walk, .mg, .out] s.coppiceBegun s.enterCoppice
    ∧ s.enterCoppice.out = { s.coppiceBegun.out with hrst := s.enterCoppice.out.hrst }
    ∧ s.enterCoppice.walk = { s.coppiceBegun.walk with
        grace := false, graceDue := none, waiting := false, prev := s.enterCoppice.walk.prev, entry := s.enterCoppice.walk.entry,
        due := s.enterCoppice.walk.due, sweepDue := s.enterCoppice.walk.sweepDue } := by
  have hq := State.quietDown_coppice_only (State.coppiceBegun_frame (s := s)).1 s.coppiceDropped
  rw [State.enterCoppice_eq]
  generalize s.coppiceBegun.quietDown _ = q at hq ⊢
  have hw := q.walkBegin_only
  have hu := q.walkBegin.updateHrst_only
  refine ⟨(hq.mono (by decide)).trans ((hw.mono (by decide)).trans (hu.mono (by decide))), ?_, ?_⟩
  · have hr : q.walkBegin.updateHrst.out = { q.walkBegin.out with hrst := q.walkBegin.updateHrst.out.hrst } := rfl
    rw [hr, hw.out_eq, hq.out_eq]
  · rw [hu.walk_eq, q.walkBegin_walk, hq.walk_eq]

/-! ## A reset -/

theorem State.finishShard_only_log : Only [.log] s s.finishShard := s.finishShard_only

/-- What a reset keeps of storage and sets of the outputs and causes. -/
theorem State.deviceReset_frame (cause : Nat) (bits : BitVec 5) : (s.deviceReset cause bits).pm.resetCause = s.pm.resetCause ||| bits
    ∧ OutputsOff (s.deviceReset cause bits) ∧ (s.deviceReset cause bits).port.cmds = [] ∧ (s.deviceReset cause bits).cfg = s.cfg
    ∧ (s.deviceReset cause bits).sec.slots = s.sec.slots ∧ (s.deviceReset cause bits).kiln.store = s.kiln.store
    ∧ (s.deviceReset cause bits).fault.first = s.fault.first ∧ (s.deviceReset cause bits).pending = s.pending
    ∧ (s.deviceReset cause bits).clk.now = s.clk.now := by
  have hf := s.finishShard_only
  have hd := s.finishShard.dropWork_only
  have hc : Only [.log, .irq, .port] s s.finishShard.dropWork := (hf.mono (by decide)).trans (hd.mono (by decide))
  unfold State.deviceReset
  dsimp only
  generalize s.finishShard.dropWork = u at hc ⊢
  have hk (c : Bool) (a : State) (l : Log) : OutputsOff (if c then { a.afterReset with log := l } else a.afterReset) := by
    cases c <;> exact ⟨rfl, rfl, rfl, rfl, rfl⟩
  have hr (v : State) (c : Bool) (l : Log) : (if c then { v.afterReset with log := l } else v.afterReset).pm.resetCause = v.pm.resetCause
      ∧ (if c then { v.afterReset with log := l } else v.afterReset).port.cmds = []
      ∧ (if c then { v.afterReset with log := l } else v.afterReset).cfg = v.cfg
      ∧ (if c then { v.afterReset with log := l } else v.afterReset).sec.slots = v.sec.slots
      ∧ (if c then { v.afterReset with log := l } else v.afterReset).kiln.store = v.kiln.store
      ∧ (if c then { v.afterReset with log := l } else v.afterReset).fault.first = v.fault.first
      ∧ (if c then { v.afterReset with log := l } else v.afterReset).pending = v.pending
      ∧ (if c then { v.afterReset with log := l } else v.afterReset).clk.now = v.clk.now := by
    cases c <;> exact ⟨rfl, rfl, rfl, rfl, rfl, rfl, rfl, rfl⟩
  obtain ⟨h1, h2, h3, h4, h5, h6, h7, h8⟩ :=
    hr { u with pm := { u.pm with lastCause := BitVec.ofNat 8 cause, resetCause := u.pm.resetCause ||| bits } } u.pm.committing s.log
  refine ⟨h1.trans ?_, hk _ _ _, h2, h3.trans hc.cfg_eq, h4.trans ?_, h5.trans ?_, h6.trans ?_, h7.trans hc.pending_eq, h8.trans ?_⟩
  · show u.pm.resetCause ||| bits = _
    rw [hc.pm_eq]
  · exact congrArg Sec.slots hc.sec_eq
  · exact congrArg Kiln.store hc.kiln_eq
  · exact congrArg FaultBlk.first hc.fault_eq
  · exact congrArg Clk.now hc.clk_eq

end

/-- MR's hold told at a tick. -/
def State.mrHeldAt (s : State) (n : Nat) : State :=
  let t := s.till n
  { t with ctl := { t.ctl with mrSince := none } }

theorem State.mrHeldAt_ctl (s : State) (n : Nat) : (s.mrHeldAt n).ctl = { s.ctl with mrSince := none } := rfl

/-- MR's hold, at its tick. -/
def State.mrHeld (s : State) (since : Nat) : State := s.mrHeldAt (since + 10 * secondTicks)

theorem execMrHoldReset_held {s : State} {since : Nat} (h : s.ctl.mrSince = some since) : exec .mrHoldReset s =
    if (s.mrHeld since).mrResets then
      .next (if (s.mrHeld since).pm.state = .coppice then (s.mrHeld since).deviceReset 0x42 0x18 else (s.mrHeld since).deviceReset 0x41 8)
    else .next (s.mrHeld since) := by
  show execMrHoldReset s = _
  unfold execMrHoldReset State.mrHeld State.mrHeldAt
  rw [h]

theorem State.updateHrst_out (s : State) : s.updateHrst.out = { s.out with
    hrst := s.inp.mr || s.ctl.hrstDue.isSome || s.pm.state == .starting && s.pm.stage ≤ 5 } := rfl

theorem State.mrHeld_now (s : State) (since : Nat) : (s.mrHeld since).clk.now = max s.clk.now (since + 10 * secondTicks) :=
  s.till_clock _

theorem State.mrHeld_only (s : State) (since : Nat) : Only [.clk, .ctl] s (s.mrHeld since) := by
  have h := Only.refl [.clk, .ctl] s
  unfold State.mrHeld State.mrHeldAt
  repeat' first
      | with_reducible assumption | with_reducible apply Only.lift (State.till_only ..) | with_reducible refine Only.mk_upd ?_
      | (with_reducible show Part.sub _ _ = true; decide)

theorem State.mrHeld_ctl (s : State) (since : Nat) : (s.mrHeld since).ctl = { s.ctl with mrSince := none } :=
  s.mrHeldAt_ctl _

theorem State.mrHeld_resets (s : State) (since : Nat) : (s.mrHeld since).mrResets = s.mrResets := by
  have h := s.mrHeld_only since
  simp only [State.mrResets, h.pm_eq, h.walk_eq]

/-- Settles O4, row by row. -/
theorem coppiceAndMr : Obligations.CoppiceAndMr := by
  unfold Obligations.CoppiceAndMr
  refine ⟨fun s hl h1 h2 h3 => ?_, fun s hp hw => ?_, fun s hp hs hw => ?_, fun s hp => ?_, fun s hp hm => ?_, fun due s hd => ?_,
    fun since s hd hs => ?_, fun since s hd hs hw => ?_, fun since s hd hs => ?_⟩
  · refine Answers.of_exec (t := s.enterCoppice) (if_pos ⟨hl, h1, h2, h3⟩) ?_
    obtain ⟨ho, hout, hwalk⟩ := State.enterCoppice_frame (s := s)
    obtain ⟨b1, b2, b3, b4, b5, b6, b7, b8, b9, b10, b11, b12, b13, b14, b15, b16, b17⟩ := State.coppiceBegun_frame (s := s)
    generalize s.enterCoppice = t at ho hout hwalk ⊢
    generalize s.coppiceBegun = b at *
    rw [b8] at hwalk
    rw [b5] at hout
    refine ⟨?_, ?_, ?_, ?_, ?_, ?_, ?_, ?_, ?_, ?_, ?_, ?_, fun k => ?_, fun hb => ?_, fun hb => ?_, ?_⟩
    · rw [ho.pm_eq, b1]
    · rw [ho.pm_eq, b2]
    · rw [ho.pm_eq, b3]
    · rw [ho.pm_eq, b4]
    · rw [hout]
    · rw [hout]
    · rw [hout]
    · rw [ho.pwm_eq, b6]
    · rw [hwalk]
      rfl
    · rw [hwalk]
    · rw [hwalk]
      rfl
    · rw [hwalk]
      rfl
    · rw [ho.kiln_eq, b7]
      exact s.abortEngines_st k
    · rw [ho.fault_eq]
      exact b9 hb
    · rw [ho.fault_eq]
      exact b10 hb
    · unfold SameStores
      rw [ho.ident_eq, ho.cfg_eq, ho.sec_eq, ho.kiln_eq, ho.fault_eq, ho.log_eq, ho.pending_eq, b7, b16]
      exact ⟨b14, b15, rfl, rfl, rfl, b11, b12, b13, b17⟩
  · have hh : (!s.hearsPins) = false := by rw [hp]; rfl
    let u : State := State.updateHrst { s with
      inp := { s.inp with mr := true }, ctl := { s.ctl with mrSince := some (s.ctl.mrSince.getD s.clk.now), hrstDue := none } }
    have hu : (if u.wakesBy 2 then u.wake else u) = u := by
      split
      · rename_i h
        unfold State.wake
        refine if_neg ?_
        rintro ⟨hs, -⟩
        have := hw hs
        rw [show u.wakesBy 2 = s.wakesBy 2 from rfl, this] at h
        exact absurd h (by decide)
      · rfl
    refine Answers.of_exec (t := u) ?_ ⟨rfl, ?_, rfl, ?_⟩
    · show execMrAssert s = _
      unfold execMrAssert
      rw [if_neg (by rw [hh]; decide)]
      exact congrArg Host.Outcome.next hu
    · rw [State.updateHrst_out]
      simp
    · have h := Only.refl [.inp, .out, .ctl] s
      repeat' first
          | with_reducible assumption | with_reducible apply Only.lift (State.updateHrst_only ..) | with_reducible refine Only.mk_upd ?_
          | (with_reducible show Part.sub _ _ = true; decide)
  · have hh : (!s.hearsPins) = false := by rw [hp]; rfl
    let u : State := State.updateHrst { s with
      inp := { s.inp with mr := true }, ctl := { s.ctl with mrSince := some (s.ctl.mrSince.getD s.clk.now), hrstDue := none } }
    have hu : (if u.wakesBy 2 then u.wake else u) = u.wake := if_pos hw
    have ho := u.wake_only
    refine Answers.of_exec (t := u.wake) ?_ ⟨?_, ?_, State.wake_taken (s := u) hs, ?_, ?_⟩
    · show execMrAssert s = _
      unfold execMrAssert
      rw [if_neg (by rw [hh]; decide)]
      exact congrArg Host.Outcome.next hu
    · exact ho.inp_eq
    · have hu : u.out.hrst = true := rfl
      have hw : u.wake.out = { u.out with pfw := u.wake.out.pfw, tripo := u.wake.out.tripo } := by
        unfold State.wake
        repeat' split
        all_goals rfl
      rw [hw]
      exact rfl
    · exact ho.ctl_eq
    · have h := Only.refl [.inp, .out, .ctl, .clk, .pm, .log] s
      repeat' first
          | with_reducible assumption | with_reducible apply Only.lift (State.wake_only ..)
          | with_reducible apply Only.lift (State.updateHrst_only ..) | with_reducible refine Only.mk_upd ?_
          | (with_reducible show Part.sub _ _ = true; decide)
  · have hh : (!s.hearsPins) = true := by rw [hp]; rfl
    refine ⟨Answers.of_exec (if_pos hh) rfl, Answers.of_exec (if_pos ?_) rfl⟩
    rw [hh, Bool.true_or]
  · refine Answers.of_exec (if_neg ?_) ⟨rfl, ?_, rfl, ?_⟩
    · rw [hp, hm]
      decide
    · rw [State.updateHrst_out]
      simp
    · have h := Only.refl [.inp, .out, .ctl] s
      repeat' first
          | with_reducible assumption | with_reducible apply Only.lift (State.updateHrst_only ..) | with_reducible refine Only.mk_upd ?_
          | (with_reducible show Part.sub _ _ = true; decide)
  · refine Answers.of_exec (t := State.updateHrst { s.till due with ctl := { (s.till due).ctl with hrstDue := none } }) ?_ ?_
    · show execHrstStretchEnd s = _
      simp only [execHrstStretchEnd, hd]
    · refine ⟨s.till_clock due, rfl, ?_, ?_⟩
      · rw [State.updateHrst_out]
        simp only [Option.isSome_none, Bool.or_false, State.till_inp, State.till_pm]
        rfl
      · have h := Only.refl [.clk, .ctl, .out] s
        repeat' first
            | with_reducible assumption | with_reducible apply Only.lift (State.updateHrst_only ..)
            | with_reducible apply Only.lift (State.till_only ..) | with_reducible refine Only.mk_upd ?_
            | (with_reducible show Part.sub _ _ = true; decide)
  · have hm := s.mrHeld_only since
    have hne : (s.mrHeld since).pm.state ≠ .coppice := by
      rw [hm.pm_eq]
      rcases hs with hs | hs | hs <;> rw [hs] <;> exact nofun
    have hr : (s.mrHeld since).mrResets = true := by
      rw [State.mrHeld_resets]
      rcases hs with hs | hs | hs <;> simp [State.mrResets, hs]
    obtain ⟨p1, p2, p3⟩ := (s.mrHeld since).deviceReset_pm 0x41 8
    obtain ⟨d1, d2, d3, d4, d5, d6, d7, d8, d9⟩ := (s.mrHeld since).deviceReset_frame 0x41 8
    refine Answers.of_exec (t := (s.mrHeld since).deviceReset 0x41 8) ?_ ?_
    · rw [execMrHoldReset_held hd, if_pos hr, if_neg hne]
    · rw [hm.pm_eq] at d1
      rw [hm.cfg_eq] at d4
      rw [hm.sec_eq] at d5
      rw [hm.kiln_eq] at d6
      rw [hm.fault_eq] at d7
      rw [hm.pending_eq] at d8
      exact ⟨d9.trans (s.mrHeld_now since), p1, p2, p3, d1, d2, d3, d4, d5, d6, d7, d8⟩
  · have hm := s.mrHeld_only since
    have hr : (s.mrHeld since).mrResets = true := by
      rw [State.mrHeld_resets]
      simp [State.mrResets, hs, hw]
    obtain ⟨p1, p2, p3⟩ := (s.mrHeld since).deviceReset_pm 0x42 0x18
    obtain ⟨d1, d2, -⟩ := (s.mrHeld since).deviceReset_frame 0x42 0x18
    refine Answers.of_exec (t := (s.mrHeld since).deviceReset 0x42 0x18) ?_ ?_
    · rw [execMrHoldReset_held hd, if_pos hr, if_pos (by rw [hm.pm_eq, hs])]
    · rw [hm.pm_eq] at d1
      exact ⟨p1, p2, p3, d1, d2⟩
  · have hm := s.mrHeld_only since
    have hr : (s.mrHeld since).mrResets = false := by
      rw [State.mrHeld_resets]
      rcases hs with hs | hs | hs | ⟨hs, hw⟩
      · simp [State.mrResets, hs]
      · simp [State.mrResets, hs]
      · simp [State.mrResets, hs]
      · simp [State.mrResets, hs, hw]
    refine Answers.of_exec (t := s.mrHeld since) ?_ ⟨hm.pm_eq, s.mrHeld_ctl since, hm⟩
    rw [execMrHoldReset_held hd, if_neg (by rw [hr]; decide)]

end Sys2Proof.Machine
end

section
/-! SUPPORT. Requests that arise at the pins: ONREQ (O5). -/

set_option Elab.async false

namespace Sys2Proof.Machine

/-! ## Requests that arise here -/

section
variable {s : State}

theorem State.sendTwin_twin (s : State) (dest msg : Nat) (body : List Byte) :
    (s.sendTwin dest msg body).twin = { s.twin with msgSeq := s.twin.msgSeq + 1 } := by
  unfold State.sendTwin
  dsimp only
  rw [(State.sendFrame_only _ _ _).twin_eq, (State.sendFrame_only _ _ _).twin_eq]

/-- A request that is mirrored takes a message number at most. -/
theorem State.mirror_twin (s : State) (on cause : Nat) :
    (s.mirror on cause).twin = { s.twin with msgSeq := (s.mirror on cause).twin.msgSeq } := by
  unfold State.mirror
  split
  · rw [State.sendTwin_twin]
  · rfl

theorem State.mirror_apart (h : s.twin.state ≠ .co) (on cause : Nat) : s.mirror on cause = s := if_neg h

theorem State.onJoins_congr {s t : State} {ps : List Part} (h : Only ps s t)
    (hp : Part.ctl ∉ ps ∧ Part.clk ∉ ps ∧ Part.pm ∉ ps ∧ Part.kiln ∉ ps := by decide) : t.onJoins = s.onJoins := by
  simp only [State.onJoins, State.onJoinsAt, State.ranOn, State.engTicks, State.engRc, h.ctl_eq hp.1, h.clk_eq hp.2.1, h.pm_eq hp.2.2.1,
    h.kiln_eq hp.2.2.2]
  rfl

theorem State.mayFire_congr {s t : State} {ps : List Part} (h : Only ps s t) (hp : Part.pm ∉ ps ∧ Part.out ∉ ps := by decide) :
    t.mayFire = s.mayFire := by
  simp only [State.mayFire, h.pm_eq hp.1, h.out_eq hp.2]

theorem State.discardPending_congr {s t : State} {ps : List Part} (h : Only ps s t)
    (hp : Part.cfg ∉ ps ∧ Part.cfgLoaded ∉ ps ∧ Part.sgLoaded ∉ ps := by decide) : t.discardPending = s.discardPending := by
  simp only [State.discardPending, h.cfgAt_eq _ hp]

theorem SomeEngine.congr {s t : State} {ps : List Part} (h : Only ps s t)
    (hp : (Part.cfg ∉ ps ∧ Part.cfgLoaded ∉ ps ∧ Part.sgLoaded ∉ ps) ∧ Part.kiln ∉ ps := by decide) : SomeEngine t ↔ SomeEngine s := by
  unfold SomeEngine
  simp only [State.engineStarts_congr (fun a => h.cfgAt_eq a hp.1), h.kiln_eq hp.2]

theorem State.engTicks_congr {s t : State} {ps : List Part} (h : Only ps s t) (k d : Nat) (hp : Part.clk ∉ ps := by decide) :
    t.engTicks k d = s.engTicks k d := by
  simp only [State.engTicks, State.engRc, h.clk_eq hp]
  rfl

/-- Firing that starts from a state that differs where firing does not look. -/
theorem FiresBy.of_only {c : Byte} {s u t : State} {ps : List Part} (h : FiresBy c u t) (k : Only ps s u)
    (hp : (Part.cfg ∉ ps ∧ Part.cfgLoaded ∉ ps ∧ Part.sgLoaded ∉ ps) ∧ Part.kiln ∉ ps := by decide) (hc : Part.clk ∉ ps := by decide) :
    FiresBy c s t := by
  obtain ⟨h1, h2, h3, h4, h5⟩ := h
  rw [SomeEngine.congr k hp] at h1 h2
  rw [k.clk_eq hc] at h1 h2
  rw [State.engTicks_congr k 0 1 hc] at h2
  exact ⟨h1, h2, h3, h4, h5⟩

/-- A request that joins none is mirrored and handled as a new one. -/
theorem State.onArises_new (h : s.onJoins = none) (cause : Nat) : s.onArises cause = (s.mirror 1 cause).newRequest cause := by
  have hm : (s.mirror 1 cause).onJoins = none := (State.onJoins_congr (s.mirror_only 1 cause)).trans h
  unfold State.onArises State.onRequest
  rw [h, if_neg (by decide), hm]

/-- A request that joins another of its tick. -/
theorem State.onArises_join {old : Byte} (h : s.onJoins = some old) (cause : Nat) : s.onArises cause = s.joinRequest old cause := by
  unfold State.onArises State.onRequest
  rw [h, if_pos (by rfl), h]

/-! A new request, by what it finds. -/

theorem State.newRequest_ignored (hs : s.pm.state = .ready ∨ s.pm.state = .cooling) (hl : s.pm.faultLatch = true) (cause : Nat) :
    s.newRequest cause = { s with ctl := { s.ctl with
      lastOn := some (s.clk.now, BitVec.ofNat 8 cause), ignoredOn := inc 255 s.ctl.ignoredOn } } := by
  unfold State.newRequest
  rw [if_pos hs]
  dsimp only
  rw [if_pos hl]

theorem State.newRequest_held (hs : s.pm.state = .ready ∨ s.pm.state = .cooling) (hl : s.pm.faultLatch = false)
    (hh : s.twin.hand.holds = true) (cause : Nat) : s.newRequest cause = { s with
      ctl := { s.ctl with lastOn := some (s.clk.now, BitVec.ofNat 8 cause) }
      twin := { s.twin with heldOn := s.twin.heldOn ++ [BitVec.ofNat 8 cause] } } := by
  unfold State.newRequest
  rw [if_pos hs]
  dsimp only
  rw [if_neg (by rw [hl]; decide), if_pos hh]

theorem State.newRequest_fires (hm : s.mayFire = true) (hh : s.twin.hand.holds = false) (cause : Nat) :
    s.newRequest cause = State.fireStart { s with ctl := { s.ctl with lastOn := some (s.clk.now, BitVec.ofNat 8 cause) } } cause := by
  have hm' := hm
  simp only [State.mayFire, Bool.and_eq_true, beq_iff_eq, Bool.not_eq_true'] at hm'
  obtain ⟨⟨⟨⟨hs, hl⟩, -⟩, -⟩, -⟩ := hm'
  unfold State.newRequest
  rw [if_pos (Or.inl hs)]
  dsimp only
  have hf : State.mayFire { s with ctl := { s.ctl with lastOn := some (s.clk.now, BitVec.ofNat 8 cause) } } = true := hm
  rw [if_neg (by rw [hl]; decide), if_neg (by rw [hh]; decide), if_pos hf]

theorem State.newRequest_pends (hs : s.pm.state = .ready ∨ s.pm.state = .cooling) (hl : s.pm.faultLatch = false) (hm : s.mayFire = false)
    (hh : s.twin.hand.holds = false) (cause : Nat) : s.newRequest cause = { s with
      ctl := { s.ctl with lastOn := some (s.clk.now, BitVec.ofNat 8 cause) }
      pm := if s.discardPending then s.pm else { s.pm with onPending := some (BitVec.ofNat 8 cause) } } := by
  unfold State.newRequest
  rw [if_pos hs]
  dsimp only
  have hm' : ¬ State.mayFire { s with ctl := { s.ctl with lastOn := some (s.clk.now, BitVec.ofNat 8 cause) } } = true := by
    show ¬ s.mayFire = true
    rw [hm]
    decide
  rw [if_neg (by rw [hl]; decide), if_neg (by rw [hh]; decide), if_neg hm']
  have hd : State.discardPending { s with ctl := { s.ctl with lastOn := some (s.clk.now, BitVec.ofNat 8 cause) } } = s.discardPending := rfl
  rw [hd]
  cases s.discardPending <;> rfl

/-- What a joined request moves: the cause of the one request. -/
theorem State.joinRequest_frame (old : Byte) (cause : Nat) : (s.joinRequest old cause).pm.state = s.pm.state
    ∧ Only [.ctl, .twin, .pm, .log] s (s.joinRequest old cause) := by
  refine ⟨?_, (s.joinRequest_only old cause).mono (by decide)⟩
  unfold State.joinRequest
  dsimp only
  split <;> rfl

/-! An off request, by what it finds. -/

theorem State.offRequest_stops (h : s.pm.state = .firing ∨ s.pm.state = .running) (cause : Nat) (keep : Option (Bool × Nat)) :
    s.offRequest cause keep = s.startShutdown .off ⟨0x40, 0, BitVec.ofNat 8 cause, 0⟩ 0 cause keep := by
  unfold State.offRequest
  rcases h with h | h <;> rw [h]

theorem State.offRequest_idle (h : s.pm.state = .ready ∨ s.pm.state = .cooling) (hh : s.twin.hand = .none) (cause : Nat)
    (keep : Option (Bool × Nat)) : s.offRequest cause keep = { s with
      pm := { s.pm with onPending := none }, twin := { s.twin with heldOn := [] }, ctl := { s.ctl with lastOn := none } } := by
  have ha : s.abortHand = s := by
    unfold State.abortHand
    rw [hh]
  unfold State.offRequest
  rw [ha]
  rcases h with h | h <;> rw [h]

/-- What a shutdown start leaves in terms of the statements. -/
theorem ShutdownStarts.shutdown {k : Start} {f : FaultRec} {table cause : Nat} {t : State} (h : ShutdownStarts k f table cause s t) :
    Shutdown t table := by
  refine ⟨h.state, ?_, ?_, ?_⟩
  · rw [h.walk]
    rfl
  · rw [h.walk]
    rfl
  · rw [h.out]

theorem ShutdownStarts.grace {k : Start} {f : FaultRec} {table cause : Nat} {t : State} (h : ShutdownStarts k f table cause s t) :
    t.walk.grace = (k == Start.off || k == Start.gradeT) := by
  rw [h.walk]

end

/-- ONREQ rises, in a state that takes its requests. -/
theorem execOnreqRise_request {s : State} (hp : s.hearsPins = true) (hi : s.inp.onreq = false) (hq : s.onreqEn = true)
    (hl : s.pm.state.logs = true) : exec .onreqRise s = .next (State.onArises { s with inp := { s.inp with onreq := true } } 0x10) := by
  have hn : ¬ (!s.hearsPins || s.inp.onreq) = true := by
    rw [hp, hi]
    decide
  have hs : ¬ s.pm.state = .standby := fun h => by
    rw [h] at hl
    exact absurd hl (by decide)
  show execOnreqRise s = _
  unfold execOnreqRise
  rw [if_neg hn]
  dsimp only
  rw [if_neg hs, if_pos]
  show (s.onreqEn && s.pm.state.logs) = true
  rw [hq, hl]
  rfl

theorem execOnreqFall_request {s : State} (hp : s.hearsPins = true) (hi : s.inp.onreq = true) (hq : s.onreqEn = true)
    (hl : s.pm.state.logs = true) : exec .onreqFall s =
      .next ((State.mirror { s with inp := { s.inp with onreq := false } } 2 0x20).offRequest 0x20 none) := by
  have hn : ¬ (!s.hearsPins || !s.inp.onreq) = true := by
    rw [hp, hi]
    decide
  show execOnreqFall s = _
  unfold execOnreqFall
  rw [if_neg hn]
  dsimp only
  rw [if_pos]
  show (s.onreqEn && s.pm.state.logs) = true
  rw [hq, hl]
  rfl

theorem logs_of_ready_or_cooling {d : DevState} (h : d = .ready ∨ d = .cooling) : d.logs = true := by
  rcases h with rfl | rfl <;> rfl

theorem logs_of_firing_or_running {d : DevState} (h : d = .firing ∨ d = .running) : d.logs = true := by
  rcases h with rfl | rfl <;> rfl

theorem State.ready_of_mayFire {s : State} (h : s.mayFire = true) : s.pm.state = .ready := by
  simp only [State.mayFire, Bool.and_eq_true, beq_iff_eq] at h
  exact h.1.1.1.1

theorem SameStores.of_only_left {s u t : State} {ps : List Part} (h : Only ps s u) (k : SameStores u t)
    (hp : Part.ident ∉ ps ∧ Part.cfg ∉ ps ∧ Part.sec ∉ ps ∧ Part.kiln ∉ ps ∧ Part.fault ∉ ps ∧ Part.log ∉ ps ∧ Part.pending ∉ ps := by decide) :
    SameStores s t := by
  obtain ⟨h1, h2, h3, h4, h5, h6, h7⟩ := hp
  unfold SameStores at *
  rw [h.ident_eq h1, h.cfg_eq h2, h.sec_eq h3, h.kiln_eq h4, h.fault_eq h5, h.log_eq h6, h.pending_eq h7] at k
  exact k

/-- Settles O5, row by row: a new request by what it finds, one that joins another, and the off request. -/
theorem onreqRequests : Obligations.OnreqRequests := by
  unfold Obligations.OnreqRequests
  refine ⟨fun s hp hi hq hj hm hh => ?_, fun s hp hi hq hj hs hl => ?_, fun s hp hi hq hj hs hl hm hh => ?_,
    fun s hp hi hq hj hs hl hh => ?_, fun c s hp hi hq hl hj => ?_, fun s hp hi hs hw => ?_, fun s hp hi hq hs => ?_,
    fun s hp hi hq hs hh => ?_, fun s hp hs hq => ?_, fun s hp => ?_⟩
  · have hs := State.ready_of_mayFire hm
    let u : State := { s with inp := { s.inp with onreq := true } }
    have hu : Only [.inp] s u := (Only.refl _ s).mk_upd
    have hmo := u.mirror_only 1 0x10
    have hmt := u.mirror_twin 1 0x10
    have hjm : u.onJoins = none := (State.onJoins_congr hu).trans hj
    have he := State.onArises_new hjm 0x10
    have hf := State.newRequest_fires (s := u.mirror 1 0x10) ((State.mayFire_congr hmo).trans hm) (by rw [hmt]; exact hh) 0x10
    have hap : s.twin.state ≠ .co → u.mirror 1 0x10 = u := fun h => State.mirror_apart (s := u) h 1 0x10
    refine Answers.of_exec (execOnreqRise_request hp hi hq (by rw [hs]; rfl)) ?_
    rw [he, hf]
    generalize u.mirror 1 0x10 = v at hmo hap ⊢
    let w : State := { v with ctl := { v.ctl with lastOn := some (v.clk.now, BitVec.ofNat 8 0x10) } }
    have hw : Only [.inp, .ring, .twin, .ctl] s w := (hu.mono (by decide)).trans (Only.mk_upd (hmo.mono (by decide)))
    have hst := State.fireStart_starts w 0x10
    have ho := hst.only
    refine ⟨?_, (hst.firesBy rfl).of_only hw, ?_, fun hco => ?_, ?_⟩
    · rw [ho.inp_eq]
      exact hmo.inp_eq
    · have hx : w.ctl = { v.ctl with lastOn := some (v.clk.now, 0x10) } := rfl
      rw [ho.ctl_eq, hx, hmo.ctl_eq, hmo.clk_eq]
    · rw [ho.ring_eq, ho.twin_eq]
      show v.ring = s.ring ∧ v.twin = s.twin
      rw [hap hco]
      exact ⟨rfl, rfl⟩
    · exact (hw.mono (by decide)).trans (ho.mono (by decide))
  · let u : State := { s with inp := { s.inp with onreq := true } }
    have hu : Only [.inp] s u := (Only.refl _ s).mk_upd
    have hmo := u.mirror_only 1 0x10
    have hjm : u.onJoins = none := (State.onJoins_congr hu).trans hj
    have he := State.onArises_new hjm 0x10
    have hf := State.newRequest_ignored (s := u.mirror 1 0x10) (by rw [hmo.pm_eq]; exact hs) (by rw [hmo.pm_eq]; exact hl) 0x10
    have hap : s.twin.state ≠ .co → u.mirror 1 0x10 = u := fun h => State.mirror_apart (s := u) h 1 0x10
    refine Answers.of_exec (execOnreqRise_request hp hi hq (logs_of_ready_or_cooling hs)) ?_
    rw [he, hf]
    generalize u.mirror 1 0x10 = v at hmo hap ⊢
    refine ⟨hmo.inp_eq, ?_, fun hco => ?_, ?_⟩
    · exact congrArg₂ (fun (c : Ctl) (k : Clk) => { c with ignoredOn := inc 255 c.ignoredOn, lastOn := some (k.now, 0x10) })
        hmo.ctl_eq hmo.clk_eq
    · show v.ring = s.ring ∧ v.twin = s.twin
      rw [hap hco]
      exact ⟨rfl, rfl⟩
    · exact (hu.mono (by decide)).trans (Only.mk_upd (hmo.mono (by decide)))
  · let u : State := { s with inp := { s.inp with onreq := true } }
    have hu : Only [.inp] s u := (Only.refl _ s).mk_upd
    have hmo := u.mirror_only 1 0x10
    have hmt := u.mirror_twin 1 0x10
    have hjm : u.onJoins = none := (State.onJoins_congr hu).trans hj
    have he := State.onArises_new hjm 0x10
    have hf := State.newRequest_pends (s := u.mirror 1 0x10) (by rw [hmo.pm_eq]; exact hs) (by rw [hmo.pm_eq]; exact hl)
      ((State.mayFire_congr hmo).trans hm) (by rw [hmt]; exact hh) 0x10
    have hap : s.twin.state ≠ .co → u.mirror 1 0x10 = u := fun h => State.mirror_apart (s := u) h 1 0x10
    have hd : (u.mirror 1 0x10).discardPending = s.discardPending := (State.discardPending_congr hmo).trans (State.discardPending_congr hu)
    refine Answers.of_exec (execOnreqRise_request hp hi hq (logs_of_ready_or_cooling hs)) ?_
    rw [he, hf, hd]
    generalize u.mirror 1 0x10 = v at hmo hap ⊢
    refine ⟨hmo.inp_eq, ?_, fun hco => ?_, ?_⟩
    · show (if s.discardPending then v.pm else { v.pm with onPending := some 0x10 }) = _
      rw [hmo.pm_eq]
    · show v.ring = s.ring ∧ v.twin = s.twin
      rw [hap hco]
      exact ⟨rfl, rfl⟩
    · exact (hu.mono (by decide)).trans (Only.mk_upd (hmo.mono (by decide)))
  · let u : State := { s with inp := { s.inp with onreq := true } }
    have hu : Only [.inp] s u := (Only.refl _ s).mk_upd
    have hmo := u.mirror_only 1 0x10
    have hmt := u.mirror_twin 1 0x10
    have hjm : u.onJoins = none := (State.onJoins_congr hu).trans hj
    have he := State.onArises_new hjm 0x10
    have hf := State.newRequest_held (s := u.mirror 1 0x10) (by rw [hmo.pm_eq]; exact hs) (by rw [hmo.pm_eq]; exact hl)
      (by rw [hmt]; exact hh) 0x10
    refine Answers.of_exec (execOnreqRise_request hp hi hq (logs_of_ready_or_cooling hs)) ?_
    rw [he, hf]
    have hheld : (u.mirror 1 0x10).twin.heldOn = s.twin.heldOn := by rw [hmt]
    generalize u.mirror 1 0x10 = v at hmo hheld ⊢
    refine ⟨hmo.inp_eq, congrArg (· ++ [_]) hheld, hmo.pm_eq, ?_⟩
    exact (hu.mono (by decide)).trans (Only.mk_upd (hmo.mono (by decide)))
  · let u : State := { s with inp := { s.inp with onreq := true } }
    have hu : Only [.inp] s u := (Only.refl _ s).mk_upd
    have hju : u.onJoins = some c := (State.onJoins_congr hu).trans hj
    have he := State.onArises_join hju 0x10
    obtain ⟨hst, ho⟩ := State.joinRequest_frame (s := u) c 0x10
    refine Answers.of_exec (execOnreqRise_request hp hi hq hl) ?_
    rw [he]
    exact ⟨ho.inp_eq, hst, ho.out_eq, ho.kiln_eq, (hu.mono (by decide)).trans (ho.mono (by decide))⟩
  · let u : State := { s with inp := { s.inp with onreq := true } }
    have hu : Only [.inp] s u := (Only.refl _ s).mk_upd
    have hn : ¬ (!s.hearsPins || s.inp.onreq) = true := by
      rw [hp, hi]
      decide
    have hx : exec .onreqRise s = .next u.wake := by
      show execOnreqRise s = _
      unfold execOnreqRise
      rw [if_neg hn]
      dsimp only
      rw [if_pos hs, if_pos (show u.wakesBy 0 = true from hw)]
    refine Answers.of_exec hx ⟨u.wake_only.inp_eq, State.wake_taken (s := u) hs, ?_⟩
    exact (hu.mono (by decide)).trans (u.wake_only.mono (by decide))
  · let u : State := { s with inp := { s.inp with onreq := false } }
    have hu : Only [.inp] s u := (Only.refl _ s).mk_upd
    have hmo := u.mirror_only 2 0x20
    have hf := State.offRequest_stops (s := u.mirror 2 0x20) (by rw [hmo.pm_eq]; exact hs) 0x20 none
    refine Answers.of_exec (execOnreqFall_request hp hi hq (logs_of_firing_or_running hs)) ?_
    rw [hf]
    generalize u.mirror 2 0x20 = v at hmo ⊢
    have hst := State.startShutdown_starts v .off ⟨0x40, 0, 0x20, 0⟩ 0 0x20 none
    have hsame := hst.frame.sameStores
    generalize v.startShutdown .off ⟨0x40, 0, 0x20, 0⟩ 0 0x20 none = t at hst hsame ⊢
    have hso : Only [.inp, .twin, .ring] s v := (hu.mono (by decide)).trans (hmo.mono (by decide))
    refine ⟨?_, hst.shutdown, hst.lastCause, hst.grace, ?_, ?_, ?_, ?_, ?_⟩
    · rw [hst.only.inp_eq]
      exact hmo.inp_eq
    · rw [hst.out, hso.out_eq]
    · rw [hst.out, hso.out_eq]
      exact Bool.or_false _
    · rw [hst.latch, hso.pm_eq]
      exact Bool.or_false _
    · rw [hst.fault, hso.fault_eq]
      rfl
    · exact SameStores.of_only_left hso hsame
  · let u : State := { s with inp := { s.inp with onreq := false } }
    have hu : Only [.inp] s u := (Only.refl _ s).mk_upd
    have hmo := u.mirror_only 2 0x20
    have hmt := u.mirror_twin 2 0x20
    have hf := State.offRequest_idle (s := u.mirror 2 0x20) (by rw [hmo.pm_eq]; exact hs) (by rw [hmt]; exact hh) 0x20 none
    have hap : s.twin.state ≠ .co → u.mirror 2 0x20 = u := fun h => State.mirror_apart (s := u) h 2 0x20
    refine Answers.of_exec (execOnreqFall_request hp hi hq (logs_of_ready_or_cooling hs)) ?_
    rw [hf]
    generalize u.mirror 2 0x20 = v at hmo hap ⊢
    refine ⟨hmo.inp_eq, ?_, rfl, fun hco => ?_, ?_, ?_⟩
    · rw [hmo.pm_eq]
    · rw [hap hco]
      exact ⟨rfl, rfl⟩
    · rw [hmo.ctl_eq]
    · exact (hu.mono (by decide)).trans (Only.mk_upd (hmo.mono (by decide)))
  · constructor
    · intro hi
      refine Answers.of_exec (t := { s with inp := { s.inp with onreq := true } }) ?_ ⟨rfl, (Only.refl _ s).mk_upd⟩
      show execOnreqRise s = _
      unfold execOnreqRise
      have hn : ¬ (!s.hearsPins || s.inp.onreq) = true := by
        rw [hp, hi]
        decide
      rw [if_neg hn]
      dsimp only
      rw [if_neg hs, if_neg]
      show ¬ (s.onreqEn && s.pm.state.logs) = true
      rw [hq]
      exact Bool.false_ne_true
    · intro hi
      refine Answers.of_exec (t := { s with inp := { s.inp with onreq := false } }) ?_ ⟨rfl, (Only.refl _ s).mk_upd⟩
      show execOnreqFall s = _
      unfold execOnreqFall
      have hn : ¬ (!s.hearsPins || !s.inp.onreq) = true := by
        rw [hp, hi]
        decide
      rw [if_neg hn]
      dsimp only
      rw [if_neg]
      show ¬ (s.onreqEn && s.pm.state.logs) = true
      rw [hq]
      exact Bool.false_ne_true
  · have hn : (!s.hearsPins) = true := by rw [hp]; rfl
    exact ⟨Answers.of_exec (if_pos (by rw [hn]; rfl)) rfl, Answers.of_exec (if_pos (by rw [hn]; rfl)) rfl⟩

end Sys2Proof.Machine
end

section
/-! SUPPORT. Commands at the head of the execution queue, and what their decision leaves (R205, R212). -/

set_option Elab.async false

namespace Sys2Proof.Machine

/-! ## Commands at the head of the execution queue -/

section
variable {s : State} {c : Cmd} {op : Nat}

theorem State.headOp_some (h : s.headOp op = some c) :
    c.op.toNat = op ∧ s.port.waiting = [] ∧ c ∈ s.port.cmds ∧ ∃ rest, s.port.execq = (c.ring, c.tag) :: rest := by
  unfold State.headOp at h
  cases he : s.port.execq with
  | nil =>
    rw [he] at h
    exact absurd h (by nofun)
  | cons e rest =>
    rw [he] at h
    dsimp only at h
    cases hc : s.cmd? e.1 e.2 with
    | none =>
      rw [hc] at h
      exact absurd h (by nofun)
    | some d =>
      rw [hc] at h
      dsimp only at h
      split at h
      · next hw =>
        cases h
        simp only [Bool.and_eq_true, List.isEmpty_iff, beq_iff_eq] at hw
        have hk := List.find?_some hc
        simp only [Bool.and_eq_true, beq_iff_eq] at hk
        exact ⟨hw.2, hw.1, List.mem_of_find?_eq_some hc, rest, by rw [hk.1, hk.2]⟩
      · exact absurd h (by nofun)

theorem Runs.waiting (h : Runs op c s) : s.port.waiting = [] := (State.headOp_some h.1).2.1

theorem Runs.op_eq (h : Runs op c s) : c.op.toNat = op := (State.headOp_some h.1).1

theorem State.execute_runs (h : Runs op c s) (f : Cmd → State) : s.execute op f = f c := by
  unfold State.execute
  rw [h.1, h.2]
  rfl

/-- A command's row, told by what its opcode does at the head of the execution queue. -/
theorem Answers.of_runs {i : Instr} {f : Cmd → State} {P : State → Prop} (he : exec i s = .next (s.execute op f)) (h : Runs op c s)
    (hp : P (f c)) : Answers i s P :=
  ⟨f c, by rw [he, State.execute_runs h], hp⟩

theorem State.execute_awaits (h : s.headOp op = some c) (hr : s.pm.resetDue ≠ none) (f : Cmd → State) :
    s.execute op f = s.finish c 0x40 [] := by
  unfold State.execute
  rw [h]
  exact if_pos (Option.isSome_iff_ne_none.2 hr)

end

/-! ## What a decision of a command leaves of the host port -/

/-- The host port but for what the decision of a command changes: the commands, the queues of replies, the result of a broadcast and the
counts of refusals. -/
def PortDecided (p q : Port) : Prop := q = { p with
  cmds := q.cmds, execq := q.execq, replies := q.replies, signing := q.signing, waiting := q.waiting
  bcastStatus := q.bcastStatus, bcastOp := q.bcastOp, bcastCounter := q.bcastCounter, framing := q.framing
  secUnsigned := q.secUnsigned, secBadSig := q.secBadSig, secStale := q.secStale, secQuorum := q.secQuorum }

theorem PortDecided.refl (p : Port) : PortDecided p p := rfl

theorem PortDecided.trans {p q r : Port} (h : PortDecided p q) (k : PortDecided q r) : PortDecided p r := by
  unfold PortDecided at *
  rw [k, h]

theorem PortDecided.hiCapture {p q : Port} (h : PortDecided p q) : q.hiCapture = p.hiCapture := by
  rw [h]

/-- The result of the last broadcast reads the same. -/
def SameBcast (p q : Port) : Prop :=
  q.bcastStatus = p.bcastStatus ∧ q.bcastOp = p.bcastOp ∧ q.bcastCounter = p.bcastCounter

/-- The ring but for what has been sent. -/
def RingSent (r q : Ring) : Prop := q = { r with tx := q.tx, linkA := q.linkA, linkB := q.linkB }

theorem RingSent.refl (r : Ring) : RingSent r r := rfl

theorem RingSent.trans {p q r : Ring} (h : RingSent p q) (k : RingSent q r) : RingSent p r := by
  unfold RingSent at *
  rw [k, h]

section
variable (s : State)

theorem State.sendAs_ringSent (p : Link) (b : Bool) (f : Frame) : RingSent s.ring (s.sendAs p b f).ring := by
  unfold State.sendAs
  split
  · rfl
  · split
    · rfl
    · rfl

theorem Ring.setLink_sent (r : Ring) (p : Link) (f : GLink → GLink) : RingSent r (r.setLink p f) := by
  cases p <;> rfl

theorem State.sendFrame_ringSent (p : Link) (f : Frame) : RingSent s.ring (s.sendFrame p f).ring := by
  unfold State.sendFrame
  dsimp only
  split
  · refine (s.sendAs_ringSent p true f).trans ?_
    dsimp only
    exact Ring.setLink_sent _ _ _
  · exact s.sendAs_ringSent p true f

theorem State.sendTwin_ringSent (dest msg : Nat) (body : List Byte) : RingSent s.ring (s.sendTwin dest msg body).ring := by
  exact (State.sendFrame_ringSent { s with twin := { s.twin with msgSeq := s.twin.msgSeq + 1 } } .a _).trans
    (State.sendFrame_ringSent _ .b _)

theorem State.mirror_ringSent (on cause : Nat) : RingSent s.ring (s.mirror on cause).ring := by
  unfold State.mirror
  split
  · exact s.sendTwin_ringSent _ _ _
  · exact RingSent.refl _

theorem State.replyOut_port (r : Reply) : (s.replyOut r).port = s.port := (s.replyOut_only r).port_eq

theorem State.replyOut_idle {r : Reply} (h : r.reset = false) : s.replyOut r = s := by
  unfold State.replyOut
  rw [h]
  rfl

end

/-! ## What a reply says depends on -/

/-- What a reply to a command is made from reads the same: the replies of the port, the number of its tags, the address and the identity. -/
structure SameReply (s u : State) : Prop where
  tags : u.port.spiTags = s.port.spiTags
  replies : u.port.replies = s.port.replies
  signing : u.port.signing = s.port.signing
  waiting : u.port.waiting = s.port.waiting
  addr : u.replyAddr = s.replyAddr
  ident : u.ident = s.ident

theorem State.replyTo_congr {s u : State} (ha : u.replyAddr = s.replyAddr) (hi : u.ident = s.ident) {c : Cmd}
    (hf : u.free = s.free ∨ c.signReply = false) (status : Nat) (payload : List Byte) :
    u.replyTo c status payload = s.replyTo c status payload := by
  simp only [State.replyTo, State.replyMidOf, State.replyDigest, ha, hi]
  rcases hf with hf | hf
  · rw [hf]
  · rw [hf]
    rfl

theorem State.replyAddr_sent {s u : State} (h : RingSent s.ring u.ring) : u.replyAddr = s.replyAddr := by
  unfold State.replyAddr
  rw [h] <;> rfl

theorem SameReply.refl (s : State) : SameReply s s := ⟨rfl, rfl, rfl, rfl, rfl, rfl⟩

theorem SameReply.of_port {s u : State} (hp : u.port = s.port) (ha : u.replyAddr = s.replyAddr) (hi : u.ident = s.ident) :
    SameReply s u := by
  refine ⟨?_, ?_, ?_, ?_, ha, hi⟩ <;> rw [hp]

theorem SameReply.of_only {s u : State} {ps : List Part} (h : Only ps s u)
    (hp : Part.port ∉ ps ∧ Part.ring ∉ ps ∧ Part.ident ∉ ps := by decide) : SameReply s u := by
  refine .of_port (h.port_eq hp.1) ?_ (h.ident_eq hp.2.2)
  unfold State.replyAddr
  rw [h.ring_eq hp.2.1]

theorem SameReply.of_sent {s u : State} {ps : List Part} (h : Only ps s u) (hr : RingSent s.ring u.ring)
    (hp : Part.port ∉ ps ∧ Part.ident ∉ ps := by decide) : SameReply s u :=
  .of_port (h.port_eq hp.1) (State.replyAddr_sent hr) (h.ident_eq hp.2)

theorem State.mirror_sameReply (s : State) (on cause : Nat) : SameReply s (s.mirror on cause) :=
  .of_sent (s.mirror_only on cause) (s.mirror_ringSent on cause)

theorem SameReply.trans {s u v : State} (h : SameReply s u) (k : SameReply u v) : SameReply s v :=
  ⟨k.tags.trans h.tags, k.replies.trans h.replies, k.signing.trans h.signing, k.waiting.trans h.waiting, k.addr.trans h.addr,
    k.ident.trans h.ident⟩

section
variable {c : Cmd} {status : Nat} {payload : List Byte} {s t u : State}

theorem Answered.of_same (h : Answered c status payload u t) (k : SameReply s u) : Answered c status payload s t := by
  have hf (n : Nat) : u.port.fits n = s.port.fits n := by
    unfold Port.fits Port.used
    rw [k.tags, k.replies]
  obtain ⟨h1, h2, h3, h4⟩ := h
  refine ⟨h1, fun hb hq => ?_, fun hb hs hg hr hw hfit => ?_, fun hb hs hg => h4 hb hs (k.signing.trans hg)⟩
  · rw [← k.signing] at hq ⊢
    exact h2 hb hq
  · have hp := State.replyTo_congr k.addr k.ident (.inr hs) status payload
    have h := h3 hb hs (k.signing.trans hg) hr (k.waiting.trans hw) (by rw [hf, hp]; exact hfit)
    rw [k.replies, hp] at h
    exact h

/-- What says of a command that it has been answered reads the same. -/
structure SameAnswer (p q : Port) : Prop where
  cmds : q.cmds = p.cmds
  replies : q.replies = p.replies
  signing : q.signing = p.signing
  bcast : SameBcast p q

theorem SameAnswer.of_eq {p q : Port} (h : q = p) : SameAnswer p q := by
  subst h
  exact ⟨rfl, rfl, rfl, rfl, rfl, rfl⟩

theorem SameAnswer.trans {p q r : Port} (h : SameAnswer p q) (k : SameAnswer q r) : SameAnswer p r :=
  ⟨k.cmds.trans h.cmds, k.replies.trans h.replies, k.signing.trans h.signing, k.bcast.1.trans h.bcast.1, k.bcast.2.1.trans h.bcast.2.1,
    k.bcast.2.2.trans h.bcast.2.2⟩

theorem Answered.kept (h : Answered c status payload s u) (k : SameAnswer u.port t.port) : Answered c status payload s t := by
  obtain ⟨k1, k2, k3, k4, k5, k6⟩ := k
  unfold Answered State.cmd? at *
  rw [k1, k2, k3, k4, k5, k6]
  exact h

theorem Answered.of_port (h : Answered c status payload s u) (k : t.port = u.port) : Answered c status payload s t :=
  h.kept (.of_eq k)

end

/-! ## A command is decided -/

section
variable {c : Cmd} {status : Nat} {payload : List Byte} {s : State}

theorem Port.fits_of_fewer {p q : Port} (hr : q.replies = p.replies) (ht : q.spiTags ≤ p.spiTags) {n : Nat} (h : p.fits n = true) :
    q.fits n = true := by
  have hu : q.used = p.used := by
    unfold Port.used
    rw [hr]
  unfold Port.fits at *
  rw [hu]
  simp only [Bool.or_eq_true, decide_eq_true_eq] at h ⊢
  omega

theorem State.dropCmd_spiTags (s : State) (ring : Bool) (tag : Nat) : (s.dropCmd ring tag).port.spiTags ≤ s.port.spiTags :=
  (List.filter_sublist.filter _).length_le

theorem State.setCmd_spiTags (s : State) (c : Cmd) : (s.setCmd c).port.spiTags = s.port.spiTags := by
  show ((s.port.cmds.map _).filter _).length = (s.port.cmds.filter _).length
  rw [List.filter_map, List.length_map]
  congr 1
  refine List.filter_congr fun d _ => ?_
  show (!(if d.ring = c.ring ∧ d.tag = c.tag then c else d).ring) = !d.ring
  split
  · next h => rw [h.1]
  · rfl

theorem State.dropCmd_cmd? (s : State) (ring : Bool) (tag : Nat) : (s.dropCmd ring tag).cmd? ring tag = none := by
  refine List.find?_eq_none.2 fun d hd => ?_
  have := (List.mem_filter.1 hd).2
  simpa [Classical.not_and_iff_not_or_not, imp_iff_not_or] using this

/-- The state in which a reply leaves: a final one frees its tag. -/
def State.unlisted (s : State) (r : Reply) : State := if r.keeps then s else s.dropCmd r.ring r.tag

theorem State.post_eq (s : State) (r : Reply) : s.post r =
    if r.ring then ((s.unlisted r).sendFrame .a (s.ownFrame 0x02 0 r.bytes)).replyOut r
    else if s.port.waiting.isEmpty && (s.unlisted r).port.fits r.bytes.length then
      State.replyOut { s.unlisted r with port := { (s.unlisted r).port with replies := (s.unlisted r).port.replies ++ [r] } } r
    else { s with port := { s.port with waiting := s.port.waiting ++ [r] } } := by
  have hk : (if r.keeps then s else s.dropCmd r.ring r.tag) = s.unlisted r := rfl
  unfold State.post
  rw [hk]

theorem State.unlisted_only (s : State) (r : Reply) : Only [.port] s (s.unlisted r) := by
  unfold State.unlisted
  split
  · exact Only.refl _ s
  · exact s.dropCmd_only _ _

theorem State.unlisted_port (s : State) (r : Reply) : PortDecided s.port (s.unlisted r).port := by
  unfold State.unlisted
  split
  · rfl
  · rfl

/-- What posting a final reply that fits does to the port of SPI. -/
theorem State.post_spi {r : Reply} (hr : r.ring = false) (hk : r.keeps = false) (hw : s.port.waiting = [])
    (hf : s.port.fits r.bytes.length = true) : (s.post r).port = { (s.dropCmd false r.tag).port with replies := s.port.replies ++ [r] } := by
  have hu : s.unlisted r = s.dropCmd false r.tag := by
    unfold State.unlisted
    rw [hk, hr]
    rfl
  have hd : (s.dropCmd false r.tag).port.fits r.bytes.length = true :=
    Port.fits_of_fewer (p := s.port) (q := (s.dropCmd false r.tag).port) rfl (s.dropCmd_spiTags _ _) hf
  rw [State.post_eq, hu, if_neg (by rw [hr]; decide), if_pos (by rw [hw, hd]; rfl), State.replyOut_port]
  rfl

/-- What posting a final reply to the ring does to the port. -/
theorem State.post_ring {r : Reply} (hr : r.ring = true) (hk : r.keeps = false) : (s.post r).port = (s.dropCmd true r.tag).port := by
  have hu : s.unlisted r = s.dropCmd true r.tag := by
    unfold State.unlisted
    rw [hk, hr]
    rfl
  rw [State.post_eq, hu, if_pos hr, State.replyOut_port, (State.sendFrame_only _ _ _).port_eq]

theorem State.post_decided (s : State) (r : Reply) : PortDecided s.port (s.post r).port := by
  rw [State.post_eq]
  split
  · rw [State.replyOut_port, (State.sendFrame_only _ _ _).port_eq]
    exact s.unlisted_port r
  · split
    · rw [State.replyOut_port]
      exact (s.unlisted_port r).trans rfl
    · rfl

theorem State.post_sameBcast (r : Reply) : SameBcast s.port (s.post r).port := by
  have hd : SameBcast s.port (s.unlisted r).port := by
    unfold State.unlisted
    split <;> exact ⟨rfl, rfl, rfl⟩
  rw [State.post_eq]
  split
  · rw [State.replyOut_port, (State.sendFrame_only _ _ _).port_eq]
    exact hd
  · split
    · rw [State.replyOut_port]
      exact hd
    · exact ⟨rfl, rfl, rfl⟩

theorem State.answer_decided : PortDecided s.port (s.answer c status payload).port := by
  unfold State.answer
  dsimp only
  split
  · rfl
  · exact (show PortDecided s.port (s.setCmd { c with phase := .replying }).port from rfl).trans (State.post_decided _ _)

theorem State.answer_sameBcast : SameBcast s.port (s.answer c status payload).port := by
  unfold State.answer
  dsimp only
  split
  · exact ⟨rfl, rfl, rfl⟩
  · exact State.post_sameBcast (s := s.setCmd { c with phase := .replying }) _

/-- The reply to a command that is no broadcast, with a status other than ACCEPTED. -/
theorem State.answer_answered (hb : c.bcast = false) (hs : status ≠ 1) : Answered c status payload s (s.answer c status payload) := by
  have hk : (s.replyFor c status payload).keeps = false := beq_eq_false_iff_ne.2 hs
  have hn (h1 : c.signReply = false) (h2 : s.port.signing = []) : s.answer c status payload =
      (s.setCmd { c with phase := .replying }).post (s.replyFor c status payload) := by
    unfold State.answer
    dsimp only
    rw [if_neg (by rw [h1, h2]; decide)]
    rfl
  refine ⟨fun h => absurd (hb.symm.trans h) (by decide), fun _ hq => ?_, fun _ h1 h2 hr hw hf => ?_, fun _ h1 h2 hr => ?_⟩
  · unfold State.answer
    dsimp only
    rw [if_pos hq]
    rfl
  · have hf' : (s.setCmd { c with phase := .replying }).port.fits (s.replyFor c status payload).bytes.length = true :=
      Port.fits_of_fewer (p := s.port) (q := (s.setCmd { c with phase := .replying }).port) rfl (s.setCmd_spiTags _).le hf
    have hp := State.post_spi (s := s.setCmd { c with phase := .replying }) (r := s.replyFor c status payload) hr hk hw hf'
    rw [hn h1 h2]
    refine ⟨?_, ?_⟩
    · rw [hp]
      show s.port.replies ++ [s.replyFor c status payload] = _
      unfold State.replyFor
      rw [hr, show (status == 1) = false from hk]
    · have := State.dropCmd_cmd? (s.setCmd { c with phase := .replying }) false c.tag
      unfold State.cmd? at *
      rw [hp]
      exact this
  · have hp := State.post_ring (s := s.setCmd { c with phase := .replying }) (r := s.replyFor c status payload) hr hk
    have := State.dropCmd_cmd? (s.setCmd { c with phase := .replying }) true c.tag
    rw [hn h1 h2]
    unfold State.cmd? at *
    rw [hp]
    exact this

/-! The decision: what a refusal counts, and the reply. -/

/-- The state in which a decided command is answered: its refusal counted, the command off the execution queue. -/
def State.decided (s : State) (c : Cmd) (status : Nat) : State :=
  let u := s.refusalEffects c status
  { u with port := { u.port with execq := u.port.execq.filter (fun e => !(e == (c.ring, c.tag))) } }

theorem State.finish_eq (s : State) (c : Cmd) (status : Nat) (payload : List Byte) : s.finish c status payload =
    if c.bcast then
      (if c.ring then ((s.decided c status).noteBroadcast c status).dropCmd c.ring c.tag
       else if status = 0x31 then ((s.decided c status).noteBroadcast c status).answer c status payload
       else if ((s.decided c status).noteBroadcast c status).port.bcastOut then
        ((s.decided c status).noteBroadcast c status).setCmd { c with phase := .replying }
       else ((s.decided c status).noteBroadcast c status).answer c 0 [])
    else (s.decided c status).answer c status payload := rfl

theorem State.countRefusal_port (s : State) (status : Nat) : ∃ a b d e f, (s.countRefusal status).port =
    { s.port with framing := a, secUnsigned := b, secBadSig := d, secStale := e, secQuorum := f } := by
  unfold State.countRefusal
  dsimp only
  split <;> split <;> exact ⟨_, _, _, _, _, rfl⟩

/-- What the reply is made from stays as the refusal is counted, but for the counts themselves. -/
theorem State.decided_port (s : State) (c : Cmd) (status : Nat) : ∃ a b d e f, (s.decided c status).port =
    { s.port with framing := a, secUnsigned := b, secBadSig := d, secStale := e, secQuorum := f
                  execq := s.port.execq.filter (fun e => !(e == (c.ring, c.tag))) } := by
  obtain ⟨a, b, d, e, f, h⟩ := s.countRefusal_port status
  have hp : (s.refusalEffects c status).port = (s.countRefusal status).port := (State.secShard_only _ _ _).port_eq
  refine ⟨a, b, d, e, f, ?_⟩
  unfold State.decided
  dsimp only
  rw [hp, h]

theorem State.decided_only (s : State) (c : Cmd) (status : Nat) : Only [.irq, .log, .port] s (s.decided c status) :=
  Only.mk_upd (s.refusalEffects_only c status)

theorem State.decided_replyTo (s : State) (c d : Cmd) (status st : Nat) (payload : List Byte) :
    (s.decided c status).replyTo d st payload = s.replyTo d st payload := by
  have h := s.decided_only c status
  refine State.replyTo_congr ?_ h.ident_eq (.inl h.free_eq) _ _
  unfold State.replyAddr
  rw [h.ring_eq]

/-- A decided command has been answered (R205, R212). -/
theorem State.finish_answered (s : State) (c : Cmd) {status : Nat} (hs : status ≠ 1) (payload : List Byte) :
    Answered c status payload s (s.finish c status payload) := by
  obtain ⟨a, b, d, e, f, hp⟩ := s.decided_port c status
  rw [State.finish_eq]
  cases hb : c.bcast with
  | true =>
    have h1 : (((s.decided c status).noteBroadcast c status).port.bcastStatus = BitVec.ofNat 8 status
        ∧ ((s.decided c status).noteBroadcast c status).port.bcastOp = c.op
        ∧ ((s.decided c status).noteBroadcast c status).port.bcastCounter = c.counter % 65536) := ⟨rfl, rfl, rfl⟩
    have ht : ∀ t : State, SameBcast ((s.decided c status).noteBroadcast c status).port t.port → Answered c status payload s t := by
      rintro t ⟨k1, k2, k3⟩
      rw [h1.1] at k1
      rw [h1.2.1] at k2
      rw [h1.2.2] at k3
      have hn {p : Prop} : c.bcast = false → p := fun h => absurd (hb.symm.trans h) (by decide)
      exact ⟨fun _ => ⟨k1, k2, k3⟩, hn, hn, hn⟩
    rw [if_pos rfl]
    split
    · exact ht _ ⟨rfl, rfl, rfl⟩
    · split
      · exact ht _ State.answer_sameBcast
      · split
        · exact ht _ ⟨rfl, rfl, rfl⟩
        · exact ht _ State.answer_sameBcast
  | false =>
    rw [if_neg (by decide)]
    have h := State.answer_answered (s := s.decided c status) (payload := payload) hb hs
    generalize (s.decided c status).answer c status payload = t at h ⊢
    unfold Answered at *
    rw [State.decided_replyTo, hp] at h
    exact h

theorem State.noteBroadcast_decided (s : State) (c : Cmd) (status : Nat) : PortDecided s.port (s.noteBroadcast c status).port := rfl

theorem State.finish_decided (s : State) (c : Cmd) (status : Nat) (payload : List Byte) :
    PortDecided s.port (s.finish c status payload).port := by
  obtain ⟨a, b, d, e, f, hp⟩ := s.decided_port c status
  have h : PortDecided s.port (s.decided c status).port := by
    rw [hp]
    rfl
  have h2 := h.trans ((s.decided c status).noteBroadcast_decided c status)
  rw [State.finish_eq]
  split
  · split
    · exact h2.trans rfl
    · split
      · exact h2.trans State.answer_decided
      · split
        · exact h2.trans rfl
        · exact h2.trans State.answer_decided
  · exact h.trans State.answer_decided

/-! What else the decision changes. -/

/-- A status that stages 1 to 5 do not count (R212). -/
def Uncounted (status : Nat) : Prop :=
  ¬ (0x10 ≤ status ∧ status ≤ 0x12) ∧ status ≠ 0x30 ∧ ¬ (0x20 ≤ status ∧ status ≤ 0x24)

theorem State.refusalEffects_uncounted (h : Uncounted status) : s.refusalEffects c status = s := by
  obtain ⟨h1, h2, h3⟩ := h
  have hc : s.countRefusal status = s := by
    unfold State.countRefusal
    dsimp only
    rw [if_neg (by rw [decide_eq_false h3]; decide), if_neg (by rw [decide_eq_false h1, decide_eq_false h2]; decide)]
    rw [if_neg (by omega), if_neg (by omega), if_neg (by omega), if_neg (by omega), if_neg (by omega)]
  unfold State.refusalEffects State.secShard
  rw [hc, if_neg (fun k => h3 ⟨k.1, k.2.1⟩)]

/-- No reply of the command is followed by a reset (R218, R276). -/
def NoReset (c : Cmd) : Prop := c.op ≠ 0x45 ∧ c.op ≠ 0xC9

theorem NoReset.resets (h : NoReset c) (status : Nat) (payload : List Byte) : resets c.op status payload = false := by
  unfold Machine.resets
  rw [beq_eq_false_iff_ne.2 h.1, beq_eq_false_iff_ne.2 h.2, Bool.false_and, Bool.false_or, Bool.and_false]

theorem NoReset.of_runs {op : Nat} (h : Runs op c s) (hop : op ≠ 0x45 ∧ op ≠ 0xC9 := by decide) : NoReset c := by
  have := h.op_eq
  exact ⟨fun k => hop.1 (by rw [← this, k]; rfl), fun k => hop.2 (by rw [← this, k]; rfl)⟩

theorem State.post_only_still {r : Reply} (h : r.reset = false) : Only [.port, .ring] s (s.post r)
    ∧ (r.ring = false → (s.post r).ring = s.ring) := by
  have hd := s.unlisted_only r
  rw [State.post_eq]
  split
  · next hr =>
    rw [State.replyOut_idle _ h]
    exact ⟨(hd.mono (by decide)).trans ((State.sendFrame_only _ _ _).mono (by decide)), fun k => absurd (hr.symm.trans k) (by decide)⟩
  · split
    · rw [State.replyOut_idle _ h]
      exact ⟨Only.mk_upd (hd.mono (by decide)), fun _ => hd.ring_eq⟩
    · exact ⟨(Only.refl _ s).mk_upd, fun _ => rfl⟩

theorem State.answer_only_still (h : resets c.op status payload = false) : Only [.port, .ring] s (s.answer c status payload)
    ∧ (c.ring = false → (s.answer c status payload).ring = s.ring) := by
  unfold State.answer
  dsimp only
  split
  · exact ⟨(Only.refl _ s).mk_upd, fun _ => rfl⟩
  · have hp := State.post_only_still (s := s.setCmd { c with phase := .replying }) (r := s.replyFor c status payload) h
    exact ⟨((s.setCmd_only _).mono (by decide)).trans hp.1, hp.2⟩

theorem State.finish_only_still (h1 : resets c.op status payload = false) (h2 : c.bcast = true → c.op ≠ 0x45) (hs : Uncounted status) :
    Only [.port, .irq, .ring] s (s.finish c status payload) ∧ (c.ring = false → (s.finish c status payload).ring = s.ring)
      ∧ (c.bcast = false → (s.finish c status payload).irq = s.irq) := by
  have hd : Only [.port] s (s.decided c status) := by
    unfold State.decided
    rw [State.refusalEffects_uncounted hs]
    exact (Only.refl _ s).mk_upd
  have hn := (hd.mono (by decide : Part.sub _ [.port, .irq, .ring] = true)).trans
    (((s.decided c status).noteBroadcast_only c status).mono (by decide))
  have hr : ((s.decided c status).noteBroadcast c status).ring = s.ring := by
    rw [((s.decided c status).noteBroadcast_only c status).ring_eq, hd.ring_eq]
  rw [State.finish_eq]
  cases hb : c.bcast with
  | true =>
    have hno {p : Prop} : true = false → p := fun h => absurd h (by decide)
    have ha (t : State) := State.answer_only_still (s := t) h1
    have h0 : resets c.op 0 [] = false := by
      unfold Machine.resets
      rw [beq_eq_false_iff_ne.2 (h2 hb)]
      simp
    have hz (t : State) := State.answer_only_still (s := t) h0
    rw [if_pos rfl]
    split
    · exact ⟨hn.trans ((State.dropCmd_only _ _ _).mono (by decide)), fun _ => hr, hno⟩
    · split
      · exact ⟨hn.trans ((ha _).1.mono (by decide)), fun k => ((ha _).2 k).trans hr, hno⟩
      · split
        · exact ⟨hn.trans ((State.setCmd_only _ _).mono (by decide)), fun _ => hr, hno⟩
        · exact ⟨hn.trans ((hz _).1.mono (by decide)), fun k => ((hz _).2 k).trans hr, hno⟩
  | false =>
    have ha := State.answer_only_still (s := s.decided c status) h1
    rw [if_neg (by decide)]
    exact ⟨(hd.mono (by decide)).trans (ha.1.mono (by decide)), fun k => (ha.2 k).trans hd.ring_eq, fun _ => ha.1.irq_eq.trans hd.irq_eq⟩

/-- A command that is answered OK, with nothing else changed. -/
theorem State.ok_replies (h : NoReset c) (payload : List Byte) : Replies c payload s (s.ok c payload) := by
  obtain ⟨h1, h2, h3⟩ := State.finish_only_still (s := s) (h.resets 0 payload) (fun _ => h.1) (by unfold Uncounted; omega)
  exact ⟨s.finish_answered c (by decide) payload, h3, h2, (s.finish_decided c 0 payload).hiCapture, h1⟩

theorem State.refuse_refused (h : NoReset c) (hs : Uncounted status) (h1 : status ≠ 1) :
    Answered c status [] s (s.refuse c status) ∧ Only [.port, .irq, .ring] s (s.refuse c status) :=
  ⟨s.finish_answered c h1 [], (State.finish_only_still (h.resets _ _) (fun _ => h.1) hs).1⟩

end

end Sys2Proof.Machine
end

section
/-! SUPPORT. The class 0 opcodes and the SKV1200 reads (O31). -/

set_option Elab.async false

namespace Sys2Proof.Machine

/-! ## Reads of registers and of the log -/

/-- The log but for what the capture of a shard changes. -/
def LogCaptured (l m : Log) : Prop := m = { l with
  buffer := m.buffer, snapSkipped := m.snapSkipped, dropSnaps := m.dropSnaps, skipFlag := m.skipFlag, eventLost := m.eventLost
  dropEvents := m.dropEvents }

theorem Log.push_captured (l : Log) (x : Shard) : LogCaptured l (l.push x) := by
  unfold Log.push
  split
  · rfl
  · split
    · rfl
    · split <;> rfl

theorem State.capture_captured (s : State) (kind cause : Nat) (event : List Byte) : LogCaptured s.log (s.capture kind cause event).log := by
  unfold State.capture
  dsimp only
  split
  · exact Log.push_captured _ _
  · rfl

theorem inRange_false {a n x : Nat} (ha : a % 4 = 0) (hx : x % 4 = 0) (h : ∀ i, i < n → a + 4 * i ≠ x) : inRange a n x = false := by
  unfold inRange
  rw [Bool.and_eq_false_iff, decide_eq_false_iff_not, decide_eq_false_iff_not]
  by_contra hc
  have := h ((x - a) / 4) (by omega)
  omega

/-- The two halves of the time base, read in one tick. -/
theorem State.readTime (s : State) : s.captureHi.readWords 0xC0010 2 =
    leBytes 4 (s.clk.stamp % 0x100000000) ++ leBytes 4 (s.clk.stamp / 0x100000000 % 0x100000000) := by
  have h0 : s.captureHi.readWord 0xC0010 = halfWord s.clk.stamp 0 := rfl
  have h1 : s.captureHi.readWord 0xC0014 = halfWord s.clk.stamp 1 := rfl
  show leBytes 4 (s.captureHi.readWord 0xC0010).toNat ++ (leBytes 4 (s.captureHi.readWord 0xC0014).toNat ++ []) = _
  rw [h0, h1, List.append_nil, halfWord, halfWord, BitVec.toNat_ofNat, BitVec.toNat_ofNat, Nat.shiftRight_eq_div_pow,
    Nat.shiftRight_eq_div_pow]
  norm_num

theorem State.logBlocks_nil (s : State) (p : List Byte) : s.logBlocks p [] = s := by
  unfold State.logBlocks
  split
  · rw [List.take_nil]
    rfl
  · rfl

theorem State.logBlocks_one (s : State) (p : List Byte) (f : BlockRead) (h1 : 1 ≤ leAt p 8 2) (h : s.log.responds = true) :
    s.logBlocks p [f] = s.blockRead (logPlace (byteAt p 0) (leAt p 4 4 % logSize (byteAt p 0))).1
      (logPlace (byteAt p 0) (leAt p 4 4 % logSize (byteAt p 0))).2 f := by
  obtain ⟨n, hn⟩ : ∃ n, leAt p 8 2 = n + 1 := ⟨leAt p 8 2 - 1, by omega⟩
  unfold State.logBlocks
  rw [if_pos h, hn, List.take_succ_cons, List.take_nil]
  rfl

/-- A word of a log region that a read finds lost is kept with its place. -/
theorem State.lostWord_log (s : State) {r : Nat} (hr : r ≠ 0) (p : Nat) (w : BitVec 6) :
    LogCaptured { s.log with uncorrectable := inc 255 s.log.uncorrectable
                             bad := if r = 0 ∨ s.log.bad.contains (r, p, w.toNat) then s.log.bad else s.log.bad ++ [(r, p, w.toNat)] }
      (s.lostWord r p w).log := by
  unfold State.lostWord
  dsimp only
  have hn : ¬ (r = 0 ∧ p < 3 * copyBytes) := fun h => hr h.1
  rw [if_neg hn]
  exact State.capture_captured _ _ _ _

theorem contains_of_kept {l : List (Nat × Nat × Nat)} {e : Nat × Nat × Nat} {q : Prop} [Decidable q] (hq : ¬ q) :
    e ∈ (if q ∨ l.contains e then l else l ++ [e]) := by
  split
  · next h => simpa using h.resolve_left hq
  · simp

theorem State.readStatus_lost {s : State} {r p w : Nat} (h : (r, p, w) ∈ s.log.bad) : s.readStatus r p = 3 := by
  unfold State.readStatus
  rw [if_pos]
  rw [Bool.or_eq_true, List.any_eq_true]
  exact .inr ⟨_, h, by simp⟩

/-- LOG_READ of a block in which it finds one word lost (R197). -/
theorem logRead_lost {c : Cmd} {s : State} {n : Nat} {w : BitVec 6} (h : Runs 0x03 c s) (h1 : 1 ≤ leAt c.payload 8 2)
    (hl : s.log.responds = true) (hr : byteAt c.payload 0 = 1 ∨ byteAt c.payload 0 = 2)
    (hq : leAt c.payload 4 4 < logSize (byteAt c.payload 0)) :
    Answers (.logRead [⟨n, [w]⟩]) s fun t =>
      t.log.corrected = incBy 65535 s.log.corrected n ∧ t.log.uncorrectable = inc 255 s.log.uncorrectable
        ∧ t.readStatus (byteAt c.payload 0) (leAt c.payload 4 4) = 3 ∧ t.log.fr = s.log.fr ∧ t.log.fa = s.log.fa
        ∧ Only [.log, .port, .irq, .ring] s t := by
  refine Answers.of_runs rfl h ?_
  dsimp only
  have hr0 : byteAt c.payload 0 ≠ 0 := by omega
  have hpl : logPlace (byteAt c.payload 0) (leAt c.payload 4 4 % logSize (byteAt c.payload 0)) = (byteAt c.payload 0, leAt c.payload 4 4) := by
    unfold logPlace
    rw [if_neg (by omega), Nat.mod_eq_of_lt hq]
  rw [State.logBlocks_one s _ _ h1 hl, hpl]
  generalize byteAt c.payload 0 = r at hr0 hr ⊢
  generalize leAt c.payload 4 4 = q
  let u : State := s.countCorrected n
  have hu : s.blockRead r q ⟨n, [w]⟩ = u.lostWord r q w := rfl
  rw [hu]
  have ho := u.lostWord_only r q w
  have hlog := u.lostWord_log hr0 q w
  generalize u.lostWord r q w = v at ho hlog ⊢
  obtain ⟨-, -, -, -, k5⟩ := State.ok_replies (s := v) (.of_runs h) (v.logPayload c.payload)
  have hbad : (r, q, w.toNat) ∈ v.log.bad := by
    rw [hlog]
    exact contains_of_kept hr0
  refine ⟨?_, ?_, State.readStatus_lost (w := w.toNat) ?_, ?_, ?_, ?_⟩
  · rw [k5.log_eq, hlog]
    rfl
  · rw [k5.log_eq, hlog]
    rfl
  · rw [k5.log_eq]
    exact hbad
  · rw [k5.log_eq, hlog]
    rfl
  · rw [k5.log_eq, hlog]
    rfl
  · have h0 : Only [.log, .port, .irq, .ring] s u := (Only.refl _ s).mk_upd
    exact h0.trans ((ho.mono (by decide)).trans (k5.mono (by decide)))

/-- The rows of the opcodes that execute at the head of the queue in every state. -/
def headRows (b : Confirm) (l : List BlockRead) : List (Instr × Nat) :=
  [(Instr.nopCmd, 0x00), (.identify, 0x01),
      (.readRegs, 0x02), (.logRead l, 0x03), (.getCert, 0x04), (.timeRead, 0x05), (.queueStatus, 0x06), (.skv1200Id, 0x20),
      (.skv1200Status, 0x21), (.skv1200Rail, 0x22), (.skv1200FirstFault, 0x31), (.onCmd, 0x40), (.offCmd, 0x41), (.clearCmd, 0x42),
      (.marginCmd, 0x43), (.standbyCmd, 0x44), (.resetCmd, 0x45), (.drainCmd, 0x46), (.timeSet, 0x47), (.writeRegsClass1 b, 0x48),
      (.programLoad b, 0x80), (.tableLoad b, 0x81), (.bisqueClear, 0x82), (.writeRegsClass2 b, 0x88)]

theorem exec_headRows {i : Instr} {op : Nat} {b : Confirm} {l : List BlockRead} (h : (i, op) ∈ headRows b l) (s : State) :
    ∃ f, exec i s = .next (s.execute op f) := by
  simp only [headRows, List.mem_cons, Prod.mk.injEq, List.not_mem_nil, or_false] at h
  rcases h with ⟨rfl, rfl⟩ | ⟨rfl, rfl⟩ | ⟨rfl, rfl⟩ | ⟨rfl, rfl⟩ | ⟨rfl, rfl⟩ | ⟨rfl, rfl⟩ | ⟨rfl, rfl⟩ | ⟨rfl, rfl⟩ | ⟨rfl, rfl⟩
    | ⟨rfl, rfl⟩ | ⟨rfl, rfl⟩ | ⟨rfl, rfl⟩ | ⟨rfl, rfl⟩ | ⟨rfl, rfl⟩ | ⟨rfl, rfl⟩ | ⟨rfl, rfl⟩ | ⟨rfl, rfl⟩ | ⟨rfl, rfl⟩
    | ⟨rfl, rfl⟩ | ⟨rfl, rfl⟩ | ⟨rfl, rfl⟩ | ⟨rfl, rfl⟩ | ⟨rfl, rfl⟩ | ⟨rfl, rfl⟩ <;> exact ⟨_, rfl⟩

/-- While a reset is awaited, each of these rows refuses its command and does nothing else (R218). -/
theorem headRows_refused {i : Instr} {op : Nat} {b : Confirm} {l : List BlockRead} {c : Cmd} {s : State} (hi : (i, op) ∈ headRows b l)
    (hc : s.headOp op = some c) (hr : s.pm.resetDue ≠ none) (hb : c.bcast = false) :
    Answers i s fun t => Answered c 0x40 [] s t ∧ t.irq = s.irq ∧ Only [.port, .ring] s t := by
  obtain ⟨f, hf⟩ := exec_headRows hi s
  have hk := State.finish_only_still (c := c) (status := 0x40) (payload := []) (s := s) rfl (fun k => absurd (hb.symm.trans k) (by decide))
    (by unfold Uncounted; omega)
  refine Answers.of_exec (t := s.finish c 0x40 []) ?_ ⟨s.finish_answered c (by decide) [], hk.2.2 hb, ?_⟩
  · rw [hf, State.execute_awaits hc hr]
  · exact (hk.1.without (p := .irq) (hk.2.2 hb)).mono (by decide)

theorem State.skvRail_valid {s : State} {n : Nat} (h : (s.reading n).valid = true) : s.skvRail n =
    leBytes 2 (BitVec.ofInt 16 (s.railMv n)).toNat ++ [BitVec.ofNat 8 (fld (s.chStatus n) 11 8), 0] := by
  unfold State.skvRail
  rw [h]
  dsimp only
  rw [if_pos rfl, if_pos rfl]

theorem State.skvRail_invalid {s : State} {n : Nat} (h : (s.reading n).valid = false) : s.skvRail n =
    [0, 0, BitVec.ofNat 8 (fld (s.chStatus n) 11 8), 1] := by
  have h0 : leBytes 2 (BitVec.ofInt 16 0).toNat = [0, 0] := by decide
  unfold State.skvRail
  rw [h]
  dsimp only
  rw [if_neg Bool.false_ne_true, if_neg Bool.false_ne_true, h0]
  rfl

/-- Settles O31: each opcode's reply is what its row computes, and the decision changes nothing else. -/
theorem classZeroCommands : Obligations.ClassZeroCommands := by
  unfold Obligations.ClassZeroCommands
  refine ⟨fun c s h => Answers.of_runs rfl h (State.ok_replies (.of_runs h) _),
    fun c s h => Answers.of_runs rfl h (State.ok_replies (.of_runs h) _), fun c s h hi ha => ?_, fun c s h ha hn => ?_,
    fun c s h hr => ?_, fun c s h hr => ?_, fun n c s h h1 hl => ?_, fun n w c s h h1 hl hr hq => ?_,
    fun c s h => Answers.of_runs rfl h (State.ok_replies (.of_runs h) _),
    fun c s h => Answers.of_runs rfl h (State.ok_replies (.of_runs h) _), fun c s h => ?_,
    fun c s h => Answers.of_runs rfl h (State.ok_replies (.of_runs h) _),
    fun c s h => Answers.of_runs rfl h (State.ok_replies (.of_runs h) _), fun c n s h hc hn hv => ?_, fun c n s h hc hn hv => ?_,
    fun c s h => Answers.of_runs rfl h (State.ok_replies (.of_runs h) _), fun i op b l c s hi hc hr hb => ?_⟩
  · have h0 := inRange_false (n := leAt c.payload 4 2) (x := 0xC0010) ha (by decide) fun i k => (hi i k).1
    have h4 := inRange_false (n := leAt c.payload 4 2) (x := 0xC0014) ha (by decide) fun i k => (hi i k).2
    refine Answers.of_runs rfl h ?_
    dsimp only [State.afterRead]
    rw [h0, h4]
    exact State.ok_replies (.of_runs h) _
  · refine Answers.of_runs rfl h ?_
    dsimp only
    rw [ha, hn]
    let u : State := { s.captureHi with port := { s.captureHi.port with hiCapture := none } }
    have hu : s.afterRead 0xC0010 2 = u := rfl
    have hx : (if inRange 0xC0010 2 0xC0010 = true then s.captureHi else s) = s.captureHi := rfl
    have ho : Only [.port] s u := (Only.refl _ s).mk_upd
    rw [hu, hx, State.readTime]
    obtain ⟨h1, -, -, h4, h5⟩ := State.ok_replies (s := u) (.of_runs h)
      (leBytes 4 (s.clk.stamp % 0x100000000) ++ leBytes 4 (s.clk.stamp / 0x100000000 % 0x100000000))
    exact ⟨h1.of_same ⟨rfl, rfl, rfl, rfl, rfl, rfl⟩, h4, (ho.mono (by decide)).trans h5⟩
  · refine Answers.of_runs rfl h ?_
    dsimp only
    rw [State.logBlocks_nil]
    have hp : s.logPayload c.payload = (List.range (leAt c.payload 8 2)).flatMap (fun i =>
        let r := byteAt c.payload 0
        let q := (leAt c.payload 4 4 + i) % logSize r
        [BitVec.ofNat 8 (s.readStatus r q), 0, 0, 0]
          ++ (s.slotBytes r q).mapIdx (fun j b => if s.log.responds = false ∨ s.log.bad.contains (r, q, j / 8) = true
            then Config.lostMram r (512 * q + j) else b)) := by
      have h3 : byteAt c.payload 0 ≠ 3 := by omega
      unfold State.logPayload
      simp only [if_neg h3, State.readSlot, State.readBytes, Bool.or_eq_true, Bool.not_eq_true']
    rw [← hp]
    exact State.ok_replies (.of_runs h) _
  · refine Answers.of_runs rfl h ?_
    dsimp only
    rw [State.logBlocks_nil]
    have hp : s.logPayload c.payload = (List.range (leAt c.payload 8 2)).flatMap (fun i =>
        s.indexBytes ((leAt c.payload 4 4 + i) % logSize 3)) := by
      unfold State.logPayload
      simp only [hr, if_pos]
    rw [← hp]
    exact State.ok_replies (.of_runs h) _
  · refine Answers.of_runs rfl h ?_
    dsimp only
    rw [State.logBlocks_one s _ _ h1 hl]
    let u : State := s.countCorrected n
    have hu (r p : Nat) : s.blockRead r p ⟨n, []⟩ = u := rfl
    have ho : Only [.log] s u := (Only.refl _ s).mk_upd
    have hp : u.logPayload c.payload = s.logPayload c.payload := rfl
    obtain ⟨k1, -, -, -, k5⟩ := State.ok_replies (s := u) (.of_runs h) (s.logPayload c.payload)
    rw [hu, hp]
    exact ⟨k1.of_same (SameReply.of_only ho), k5.log_eq, (ho.mono (by decide)).trans (k5.mono (by decide))⟩
  · exact logRead_lost h h1 hl hr hq
  · refine Answers.of_runs rfl h ?_
    have hp : s.queueStatus = leBytes 4 (s.portStatus false).toNat
      ++ leBytes 4 (s.tagMap false 0).toNat ++ leBytes 4 (s.tagMap false 1).toNat ++ leBytes 4 (s.tagMap false 2).toNat
      ++ leBytes 4 (s.tagMap true 0).toNat ++ leBytes 4 (s.tagMap true 1).toNat ++ leBytes 4 (s.tagMap true 2).toNat := by
      simp only [State.queueStatus, List.flatMap_cons, List.flatMap_nil, List.append_assoc, List.append_nil]
    rw [← hp]
    exact State.ok_replies (.of_runs h) _
  · refine Answers.of_runs rfl h ?_
    rw [hc, State.skvRail_valid hv]
    exact State.ok_replies (.of_runs h) _
  · refine Answers.of_runs rfl h ?_
    rw [hc, State.skvRail_invalid hv]
    exact State.ok_replies (.of_runs h) _
  · have hi' : (i, op) ∈ headRows b l := by
      unfold headRows
      exact hi
    exact headRows_refused hi' hc hr hb

end Sys2Proof.Machine
end

section
/-! SUPPORT. ON and OFF by command (O32). -/

set_option Elab.async false

namespace Sys2Proof.Machine

/-! ## Requests by command (R148) -/

section
variable {s : State} {c : Cmd}

/-- What is left of the commands as c is answered: c reads as replying, the others as before. -/
def AnsweredCmd (c : Cmd) (p : Port) (d : Cmd) : Prop :=
  d = { c with phase := .replying } ∨ d ∈ p.cmds ∧ ¬ (d.ring = c.ring ∧ d.tag = c.tag)

theorem State.setCmd_cmds {d : Cmd} (h : d ∈ (s.setCmd { c with phase := .replying }).port.cmds) : AnsweredCmd c s.port d := by
  obtain ⟨x, hx, rfl⟩ := List.mem_map.1 h
  dsimp only
  split
  · exact .inl rfl
  · next hn => exact .inr ⟨hx, hn⟩

theorem State.dropCmd_cmds {r : Bool} {n : Nat} {d : Cmd} (h : d ∈ (s.dropCmd r n).port.cmds) :
    d ∈ s.port.cmds ∧ ¬ (d.ring = r ∧ d.tag = n) := by
  obtain ⟨h1, h2⟩ := List.mem_filter.1 h
  exact ⟨h1, by simpa [Classical.not_and_iff_not_or_not, imp_iff_not_or] using h2⟩

theorem State.post_cmds {r : Reply} {d : Cmd} (h : d ∈ (s.post r).port.cmds) : d ∈ s.port.cmds := by
  have hu (h : d ∈ (s.unlisted r).port.cmds) : d ∈ s.port.cmds := by
    unfold State.unlisted at h
    split at h
    · exact h
    · exact (State.dropCmd_cmds h).1
  rw [State.post_eq] at h
  split at h
  · rw [State.replyOut_port, (State.sendFrame_only _ _ _).port_eq] at h
    exact hu h
  · split at h
    · rw [State.replyOut_port] at h
      exact hu h
    · exact h

theorem State.answer_cmds {status : Nat} {payload : List Byte} {d : Cmd} (h : d ∈ (s.answer c status payload).port.cmds) :
    AnsweredCmd c s.port d := by
  unfold State.answer at h
  dsimp only at h
  split at h
  · exact State.setCmd_cmds h
  · exact State.setCmd_cmds (State.post_cmds h)

/-- The commands that a decision leaves. -/
theorem State.finish_cmds (s : State) (c : Cmd) (status : Nat) (payload : List Byte) (d : Cmd)
    (hd : d ∈ (s.finish c status payload).port.cmds) : AnsweredCmd c s.port d := by
  have h1 : (s.decided c status).port.cmds = s.port.cmds := by
    obtain ⟨a, b, d, e, f, hp⟩ := s.decided_port c status
    rw [hp]
  have h2 : ((s.decided c status).noteBroadcast c status).port.cmds = s.port.cmds := h1
  have hk {t : State} (ht : t.port.cmds = s.port.cmds) (h : AnsweredCmd c t.port d) : AnsweredCmd c s.port d := by
    unfold AnsweredCmd at *
    rw [ht] at h
    exact h
  rw [State.finish_eq] at hd
  generalize s.decided c status = u at h1 h2 hd
  generalize u.noteBroadcast c status = v at h2 hd
  split at hd
  · split at hd
    · exact hk h2 (.inr (State.dropCmd_cmds hd))
    · split at hd
      · exact hk h2 (State.answer_cmds hd)
      · split at hd
        · exact hk h2 (State.setCmd_cmds hd)
        · exact hk h2 (State.answer_cmds hd)
  · exact hk h1 (State.answer_cmds hd)

/-- With no undecided command left, a shutdown discards none. -/
theorem State.shutdownEnter_answer (h : ∀ d ∈ s.port.cmds, d.undecided = false) (cause : Nat) (keep : Option (Bool × Nat)) :
    SameAnswer s.port (s.shutdownEnter cause keep).port := by
  have hp : (s.abortEngines.endSequences.goTo .cooling cause).port = s.port := by
    rw [(State.goTo_only _ _ _).port_eq, (State.endSequences_only _).port_eq, (State.abortEngines_only _).port_eq]
  unfold State.shutdownEnter
  dsimp only
  rw [(State.trimsNominal_only _).port_eq]
  generalize s.abortEngines.endSequences.goTo .cooling cause = u at hp ⊢
  have hg : u.port.cmds.filter (fun c => c.undecided && !(keep == some (c.ring, c.tag))) = [] := by
    rw [hp]
    refine List.filter_eq_nil_iff.2 fun d hd => ?_
    rw [h d hd]
    exact Bool.false_ne_true
  unfold State.discardCooling
  dsimp only
  rw [hg, hp]
  exact ⟨rfl, rfl, rfl, rfl, rfl, rfl⟩

theorem State.startShutdown_answer (h : ∀ d ∈ s.port.cmds, d.undecided = false) (k : Start) (f : FaultRec) (table cause : Nat)
    (keep : Option (Bool × Nat)) : SameAnswer s.port (s.startShutdown k f table cause keep).port := by
  rw [State.startShutdown_eq]
  have hr := (s.shutdownRecord_only k f table).port_eq
  generalize s.shutdownRecord k f table = r at hr ⊢
  have ht := (r.shutdownTell_sets k f table).1.port_eq
  generalize r.shutdownTell k f table = t at ht ⊢
  have he := State.shutdownEnter_answer (s := t) (by rw [ht, hr]; exact h) cause keep
  have hst : (t.shutdownEnter cause keep).pm.state = .cooling := by
    rw [(t.shutdownEnter_sets cause keep).2.1]
  generalize t.shutdownEnter cause keep = e at he hst ⊢
  have hw := e.shutdownWalk_only k f table s.walk.tripDue.toList
  generalize e.shutdownWalk k f table s.walk.tripDue.toList = w at hw ⊢
  have ha := (State.afterAbort_cooling (s := w) (by rw [hw.pm_eq]; exact hst)).2.2.2
  rw [ha.port_eq, hw.port_eq]
  rw [ht, hr] at he
  exact he

/-! What a decision with status OK or STATE_REFUSED leaves of the rest. -/

theorem State.ok_still (h : NoReset c) (payload : List Byte) : Only [.port, .irq, .ring] s (s.ok c payload) :=
  (State.ok_replies h payload).2.2.2.2

theorem State.ok_answered (s : State) (c : Cmd) (payload : List Byte) : Answered c 0 payload s (s.ok c payload) :=
  s.finish_answered c (by decide) payload

theorem State.refuse40 (h : NoReset c) : Answered c 0x40 [] s (s.refuse c 0x40) ∧ Only [.port, .irq, .ring] s (s.refuse c 0x40) :=
  State.refuse_refused h (by unfold Uncounted; omega) (by decide)

/-- A request that is refused is mirrored all the same (R269). -/
theorem State.mirrored_refused (h : NoReset c) (cause : Nat) (joined : Bool) :
    Answered c 0x40 [] s ((if joined = true then s else s.mirror 1 cause).refuse c 0x40)
      ∧ (s.twin.state ≠ .co → ((if joined = true then s else s.mirror 1 cause).refuse c 0x40).twin = s.twin)
      ∧ Only [.port, .irq, .ring, .twin] s ((if joined = true then s else s.mirror 1 cause).refuse c 0x40) := by
  have hm : SameReply s (if joined = true then s else s.mirror 1 cause)
      ∧ (s.twin.state ≠ .co → (if joined = true then s else s.mirror 1 cause).twin = s.twin)
      ∧ Only [.ring, .twin] s (if joined = true then s else s.mirror 1 cause) := by
    split
    · exact ⟨SameReply.refl s, fun _ => rfl, Only.refl _ s⟩
    · exact ⟨s.mirror_sameReply 1 cause, fun hco => by rw [State.mirror_apart hco], (s.mirror_only 1 cause).mono (by decide)⟩
  generalize (if joined = true then s else s.mirror 1 cause) = u at hm ⊢
  obtain ⟨h1, h2, h3⟩ := hm
  obtain ⟨k1, k2⟩ := State.refuse40 (s := u) h
  exact ⟨k1.of_same h1, fun hco => k2.twin_eq.trans (h2 hco), (h3.mono (by decide)).trans (k2.mono (by decide))⟩

/-- An accepted ON that joins none: answered, then mirrored and handled as a new request. -/
theorem execOnCmd_new (h : Runs 0x40 c s) (hj : s.onJoins = none) (hs : s.pm.state = .ready ∨ s.pm.state = .cooling)
    (hl : s.pm.faultLatch = false) (ha : (s.twin.hand.holds || s.mayFire || !s.discardPending) = true) :
    exec .onCmd s = .next (((s.ok c []).mirror 1 0x12).newRequest 0x12) := by
  have ho := State.ok_still (s := s) (.of_runs h) []
  have hf : s.onFired = false := by
    unfold State.onFired
    rw [hj]
    exact Bool.and_false _
  show Host.Outcome.next (s.execute 0x40 _) = _
  rw [State.execute_runs h, if_neg (by rw [hf]; exact Bool.false_ne_true), if_pos ⟨hs, hl⟩]
  unfold State.onAccepted
  rw [if_pos ha, State.onArises_new ((State.onJoins_congr ho).trans hj)]

/-- The state in which an accepted ON is handled. -/
theorem on_handled (h : Runs 0x40 c s) : Answered c 0 [] s ((s.ok c []).mirror 1 0x12)
    ∧ Only [.port, .irq, .ring, .twin] s ((s.ok c []).mirror 1 0x12)
    ∧ ((s.ok c []).mirror 1 0x12).twin = { s.twin with msgSeq := ((s.ok c []).mirror 1 0x12).twin.msgSeq }
    ∧ (s.twin.state ≠ .co → ((s.ok c []).mirror 1 0x12).twin = s.twin) := by
  have ho := State.ok_still (s := s) (.of_runs h) []
  have hm := (s.ok c []).mirror_only 1 0x12
  refine ⟨(s.ok_answered c []).of_port hm.port_eq, (ho.mono (by decide)).trans (hm.mono (by decide)), ?_, fun hco => ?_⟩
  · have := (s.ok c []).mirror_twin 1 0x12
    rw [ho.twin_eq] at this
    exact this
  · rw [State.mirror_apart (by rw [ho.twin_eq]; exact hco), ho.twin_eq]

end

/-- Settles O32: ON by what it finds, and OFF, each decided before what it starts. -/
theorem onAndOff : Obligations.OnAndOff := by
  unfold Obligations.OnAndOff
  refine ⟨fun c s h hj hm hh => ?_, fun c s h hj hs hl hm hh hd => ?_, fun c s h hs hl hm hh hd => ?_, fun c s h hj hs hl hh => ?_,
    fun c s h hf => ?_, fun c s h hf hn => ?_, fun c s h hs => ?_, fun c s h hs hh => ?_, fun c s h h1 h2 h3 h4 => ?_⟩
  · have hm' := hm
    simp only [State.mayFire, Bool.and_eq_true, beq_iff_eq, Bool.not_eq_true'] at hm'
    obtain ⟨⟨⟨⟨hs, hl⟩, -⟩, -⟩, -⟩ := hm'
    refine Answers.of_exec (execOnCmd_new h hj (.inl hs) hl (by rw [hm, Bool.or_true]; rfl)) ?_
    obtain ⟨ha, hu, htw, hap⟩ := on_handled h
    generalize (s.ok c []).mirror 1 0x12 = u at ha hu htw hap ⊢
    rw [State.newRequest_fires ((State.mayFire_congr hu).trans hm) (by rw [htw]; exact hh)]
    let w : State := { u with ctl := { u.ctl with lastOn := some (u.clk.now, BitVec.ofNat 8 0x12) } }
    have hw : Only [.port, .irq, .ring, .twin, .ctl] s w := Only.mk_upd (hu.mono (by decide))
    have hst := State.fireStart_starts w 0x12
    have ho := hst.only
    have hx : w.ctl = { u.ctl with lastOn := some (u.clk.now, 0x12) } := rfl
    have hwt : w.twin = u.twin := rfl
    have hwp : w.port = u.port := rfl
    refine ⟨ha.of_port (ho.port_eq.trans hwp), (hst.firesBy rfl).of_only hw, ?_, fun hco => ?_, ?_⟩
    · rw [ho.ctl_eq, hx, hu.ctl_eq, hu.clk_eq]
    · rw [ho.twin_eq, hwt, hap hco]
    · exact (hw.mono (by decide)).trans (ho.mono (by decide))
  · refine Answers.of_exec (execOnCmd_new h hj hs hl (by rw [hd, Bool.not_false, Bool.or_true])) ?_
    obtain ⟨ha, hu, htw, hap⟩ := on_handled h
    generalize (s.ok c []).mirror 1 0x12 = u at ha hu htw hap ⊢
    have hdu : u.discardPending = false := (State.discardPending_congr hu).trans hd
    rw [State.newRequest_pends (by rw [hu.pm_eq]; exact hs) (by rw [hu.pm_eq]; exact hl) ((State.mayFire_congr hu).trans hm)
      (by rw [htw]; exact hh), hdu, if_neg Bool.false_ne_true]
    refine ⟨ha.of_port rfl, ?_, hap, Only.mk_upd (hu.mono (by decide))⟩
    rw [hu.pm_eq]
    rfl
  · refine Answers.of_runs rfl h ?_
    have hf : s.onFired = false := by
      unfold State.onFired
      rcases hs with hs | hs <;> rw [hs] <;> rfl
    rw [if_neg (by rw [hf]; exact Bool.false_ne_true), if_pos ⟨hs, hl⟩]
    unfold State.onAccepted
    rw [if_neg (by rw [hh, hm, hd]; decide)]
    exact State.mirrored_refused (.of_runs h) 0x12 _
  · refine Answers.of_exec (execOnCmd_new h hj hs hl (by rw [hh]; rfl)) ?_
    obtain ⟨ha, hu, htw, hap⟩ := on_handled h
    generalize (s.ok c []).mirror 1 0x12 = u at ha hu htw hap ⊢
    rw [State.newRequest_held (by rw [hu.pm_eq]; exact hs) (by rw [hu.pm_eq]; exact hl) (by rw [htw]; exact hh)]
    refine ⟨ha.of_port rfl, ?_, Only.mk_upd (hu.mono (by decide))⟩
    rw [htw]
    rfl
  · have ho := State.ok_still (s := s) (.of_runs h) []
    have hf' := hf
    unfold State.onFired at hf'
    simp only [Bool.and_eq_true, beq_iff_eq, Option.isSome_iff_exists] at hf'
    obtain ⟨hst, old, hj⟩ := hf'
    refine Answers.of_runs rfl h ?_
    rw [if_pos hf, State.onArises_join ((State.onJoins_congr ho).trans hj)]
    obtain ⟨h1, h2⟩ := State.joinRequest_frame (s := s.ok c []) old 0x12
    refine ⟨(s.ok_answered c []).of_port h2.port_eq, ?_, ?_, ?_, (ho.mono (by decide)).trans (h2.mono (by decide))⟩
    · rw [h1, ho.pm_eq, hst]
    · rw [h2.kiln_eq, ho.kiln_eq]
    · rw [h2.out_eq, ho.out_eq]
  · refine Answers.of_runs rfl h ?_
    rw [if_neg (by rw [hf]; exact Bool.false_ne_true), if_neg]
    · exact State.mirrored_refused (.of_runs h) 0x12 _
    · rintro ⟨h1, h2⟩
      rcases hn with hn | ⟨hn1, hn2⟩
      · rw [h2] at hn
        exact absurd hn (by decide)
      · exact h1.elim hn1 hn2
  · refine Answers.of_runs rfl h ?_
    have hm := s.mirror_only 2 0x22
    have ho := State.ok_still (s := s.mirror 2 0x22) (.of_runs h) []
    have hu : Only [.port, .irq, .ring, .twin] s ((s.mirror 2 0x22).ok c []) := (hm.mono (by decide)).trans (ho.mono (by decide))
    have ha : Answered c 0 [] s ((s.mirror 2 0x22).ok c []) := ((s.mirror 2 0x22).ok_answered c []).of_same (s.mirror_sameReply 2 0x22)
    have hcm : s.port.cmds = [c] → ∀ d ∈ ((s.mirror 2 0x22).ok c []).port.cmds, d.undecided = false := by
      intro hc d hd
      rcases State.finish_cmds _ _ _ _ _ hd with rfl | ⟨h1, h2⟩
      · rfl
      · rw [hm.port_eq, hc, List.mem_singleton] at h1
        exact absurd ⟨by rw [h1], by rw [h1]⟩ h2
    generalize (s.mirror 2 0x22).ok c [] = v at hu ha hcm ⊢
    rw [State.offRequest_stops (by rw [hu.pm_eq]; exact hs)]
    have hst := State.startShutdown_starts v .off ⟨0x40, 0, 0x22, 0⟩ 0 0x22 none
    have hans := fun hc => State.startShutdown_answer (s := v) (hcm hc) .off ⟨0x40, 0, 0x22, 0⟩ 0 0x22 none
    have hp := hst.frame.programs
    have htb := hst.frame.tables
    obtain ⟨hp1, hp2, -⟩ := hp
    have hx : (BitVec.ofNat 8 0x22 : Byte) = 0x22 := rfl
    rw [hx]
    generalize v.startShutdown .off ⟨0x40, 0, 0x22, 0⟩ 0 0x22 none = t at hst hans hp1 hp2 htb ⊢
    have hfault : t.fault = s.fault := by rw [hst.fault, hu.fault_eq]; rfl
    refine ⟨hst.shutdown, hst.lastCause, hst.grace, ?_, ?_, ?_, ?_, ?_, ?_, ?_, ?_, ?_, ?_, fun hc => ha.kept (hans hc)⟩
    · rw [hst.out, hu.out_eq]
    · rw [hst.out, hu.out_eq]
      exact Bool.or_false _
    · rw [hst.latch, hu.pm_eq]
      exact Bool.or_false _
    · rw [hfault]
    · rw [hfault]
    · rw [hst.only.cfg_eq, hu.cfg_eq]
    · rw [hst.only.sec_eq, hu.sec_eq]
    · rw [hp1, hu.kiln_eq]
    · rw [hp2, hu.kiln_eq]
    · rw [htb, hu.fault_eq]
  · refine Answers.of_runs rfl h ?_
    have hm := s.mirror_only 2 0x22
    have hmt := s.mirror_twin 2 0x22
    have hap : s.twin.state ≠ .co → (s.mirror 2 0x22).twin = s.twin := fun h => by rw [State.mirror_apart h]
    have ho := State.ok_still (s := s.mirror 2 0x22) (.of_runs h) []
    have ha : Answered c 0 [] s ((s.mirror 2 0x22).ok c []) := ((s.mirror 2 0x22).ok_answered c []).of_same (s.mirror_sameReply 2 0x22)
    rw [← ho.twin_eq] at hmt hap
    have hu : Only [.port, .irq, .ring, .twin] s ((s.mirror 2 0x22).ok c []) := (hm.mono (by decide)).trans (ho.mono (by decide))
    generalize (s.mirror 2 0x22).ok c [] = v at hmt hap hu ha ⊢
    rw [State.offRequest_idle (by rw [hu.pm_eq]; exact hs) (by rw [hmt]; exact hh)]
    refine ⟨ha.of_port rfl, ?_, rfl, fun hco => ?_, ?_, Only.mk_upd (hu.mono (by decide))⟩
    · rw [hu.pm_eq]
    · rw [hap hco]
    · rw [hu.ctl_eq]
  · refine Answers.of_runs rfl h ?_
    have hm := s.mirror_only 2 0x22
    have ho := State.ok_still (s := s.mirror 2 0x22) (.of_runs h) []
    have ha : Answered c 0 [] s ((s.mirror 2 0x22).ok c []) := ((s.mirror 2 0x22).ok_answered c []).of_same (s.mirror_sameReply 2 0x22)
    have hu : Only [.port, .irq, .ring, .twin] s ((s.mirror 2 0x22).ok c []) := (hm.mono (by decide)).trans (ho.mono (by decide))
    generalize (s.mirror 2 0x22).ok c [] = v at hu ha ⊢
    have hk : v.offRequest 0x22 none = v := by
      rw [← hu.pm_eq] at h1 h2 h3 h4
      unfold State.offRequest
      split <;> first | contradiction | rfl
    rw [hk]
    exact ⟨ha, hu.mono (by decide)⟩

end Sys2Proof.Machine
end

section
/-! SUPPORT. CLEAR, BISQUE_CLEAR and DRAIN (O33, O35, O38). -/

set_option Elab.async false

namespace Sys2Proof.Machine

/-! ## CLEAR (R154) -/

theorem FiringStarts.latch {cause : Nat} {s t : State} (h : FiringStarts cause s t) : t.pm.faultLatch = s.pm.faultLatch := by
  by_cases k : SomeEngine s
  · rw [(h.some k).1]
  · rw [(h.none k).1]

section
variable {s : State} {c : Cmd}

/-- CLEAR has cleared the latch and is answered. -/
theorem clear_answered (h : Runs 0x42 c s) : Answered c 0 [] s (s.clearLatch.ok c [])
    ∧ (s.clearLatch.ok c []).pm = { s.pm with faultLatch := false }
    ∧ (s.clearLatch.ok c []).out = { s.out with pfw := false, tripo := false }
    ∧ (s.clearLatch.ok c []).walk = { s.walk with tripDue := none }
    ∧ Only [.pm, .out, .walk, .port, .irq, .ring] s (s.clearLatch.ok c []) := by
  have hu : Only [.pm, .out, .walk] s s.clearLatch := (Only.refl _ s).mk_upd
  have ho := State.ok_still (s := s.clearLatch) (.of_runs h) []
  exact ⟨(s.clearLatch.ok_answered c []).of_same (.of_only hu), ho.pm_eq, ho.out_eq, ho.walk_eq,
    (hu.mono (by decide)).trans (ho.mono (by decide))⟩

theorem execClearCmd_clears (h : Runs 0x42 c s) (hs : s.pm.state = .ready) (hp : s.tripPersists = false) :
    exec .clearCmd s = .next (s.clearLatch.ok c []).onreqLevel := by
  show Host.Outcome.next (s.execute 0x42 _) = _
  rw [State.execute_runs h, if_neg (fun k => k hs), if_neg (by rw [hp]; exact Bool.false_ne_true)]

/-- A high ONREQ after the clear, where no other on request of the tick is joined. -/
theorem clear_request (h : Runs 0x42 c s) (hq : s.onreqEn = true) (hi : s.inp.onreq = true) (hj : s.onJoins = none) :
    (s.clearLatch.ok c []).onreqLevel = ((s.clearLatch.ok c []).mirror 1 0x10).newRequest 0x10 := by
  obtain ⟨-, hpm, -, -, ho⟩ := clear_answered h
  have hj' : (s.clearLatch.ok c []).onJoins = none := by
    rw [← hj]
    simp only [State.onJoins, State.onJoinsAt, State.ranOn, State.engTicks, State.engRc, ho.ctl_eq, ho.clk_eq, ho.kiln_eq, hpm]
    rfl
  have hl : ((s.clearLatch.ok c []).onreqEn && (s.clearLatch.ok c []).inp.onreq) = true := by
    have he : (s.clearLatch.ok c []).onreqEn = s.onreqEn := congrArg (bit · 1) (ho.cfgAt_eq _)
    rw [he, ho.inp_eq, hq, hi]
    rfl
  unfold State.onreqLevel
  rw [if_pos hl, State.onArises_new hj']

end

/-- Settles O33: what the clear releases, and the request that a high ONREQ then is. -/
theorem clearCommand : Obligations.ClearCommand := by
  unfold Obligations.ClearCommand
  refine ⟨fun c s h hs hp hq => ?_, fun c s h hs hp hq hi hj hd hpa hh => ?_, fun c s h hs hp hq hi hj hd hh => ?_,
    fun c s h hs hp => ?_, fun c s h hs => ?_⟩
  · obtain ⟨ha, hpm, hout, hw, ho⟩ := clear_answered h
    refine Answers.of_exec (execClearCmd_clears h hs hp) ?_
    have hl : ¬ ((s.clearLatch.ok c []).onreqEn && (s.clearLatch.ok c []).inp.onreq) = true := by
      have he : (s.clearLatch.ok c []).onreqEn = s.onreqEn := congrArg (bit · 1) (ho.cfgAt_eq _)
      rw [he, ho.inp_eq]
      rcases hq with hq | hq <;> rw [hq] <;> simp
    unfold State.onreqLevel
    rw [if_neg hl]
    exact ⟨ha, hpm, hout, hw, ho⟩
  · obtain ⟨ha, hpm, hout, hw, ho⟩ := clear_answered h
    refine Answers.of_exec (execClearCmd_clears h hs hp) ?_
    rw [clear_request h hq hi hj]
    generalize s.clearLatch.ok c [] = u at ha hpm hout hw ho ⊢
    have hm := u.mirror_only 1 0x10
    have hmt := u.mirror_twin 1 0x10
    have hmf : (u.mirror 1 0x10).mayFire = true := by
      rw [State.mayFire_congr hm]
      unfold State.mayFire
      rw [hpm, hout]
      simp [hs, hd, hpa, h.2]
    rw [State.newRequest_fires hmf (by rw [hmt, ho.twin_eq]; exact hh)]
    generalize u.mirror 1 0x10 = v at hm ⊢
    let w : State := { v with ctl := { v.ctl with lastOn := some (v.clk.now, BitVec.ofNat 8 0x10) } }
    have hvw : Only [.ring, .twin, .ctl] u w := Only.mk_upd (hm.mono (by decide))
    have hst := State.fireStart_starts w 0x10
    have hko := hst.only
    have huw : Only [.pm, .out, .walk, .port, .irq, .ring, .twin, .ctl] s w := (ho.mono (by decide)).trans (hvw.mono (by decide))
    refine ⟨ha.of_port ?_, ?_, (hst.firesBy rfl).of_only huw, ?_, ?_⟩
    · rw [hko.port_eq, hvw.port_eq]
    · rw [hst.latch, hvw.pm_eq, hpm]
    · rw [hko.out_eq, hvw.out_eq, hout]
    · rw [hko.fault_eq, huw.fault_eq]
  · obtain ⟨ha, hpm, hout, hw, ho⟩ := clear_answered h
    refine Answers.of_exec (execClearCmd_clears h hs hp) ?_
    rw [clear_request h hq hi hj]
    have hdc : (s.clearLatch.ok c []).discardPending = s.discardPending := State.discardPending_congr ho
    generalize s.clearLatch.ok c [] = u at ha hpm hout hw ho hdc ⊢
    have hm := u.mirror_only 1 0x10
    have hmt := u.mirror_twin 1 0x10
    have hmf : (u.mirror 1 0x10).mayFire = false := by
      rw [State.mayFire_congr hm]
      unfold State.mayFire
      rw [hpm]
      cases hx : s.pm.offMinDue with
      | none => exact absurd hx hd
      | some d => simp [hx]
    rw [State.newRequest_pends (.inl (by rw [hm.pm_eq, hpm]; exact hs)) (by rw [hm.pm_eq, hpm]) hmf (by rw [hmt, ho.twin_eq]; exact hh),
      State.discardPending_congr hm, hdc]
    generalize u.mirror 1 0x10 = v at hm ⊢
    refine ⟨ha.of_port ?_, ?_, ?_, ?_⟩
    · exact hm.port_eq
    · exact hm.out_eq.trans hout
    · exact hm.fault_eq.trans ho.fault_eq
    · show (if s.discardPending then v.pm else { v.pm with onPending := some 0x10 }) = _
      rw [hm.pm_eq, hpm]
      split <;> rfl
  · refine Answers.of_runs rfl h ?_
    rw [if_neg (fun k => k hs), if_pos hp]
    exact State.refuse_refused (.of_runs h) (by unfold Uncounted; omega) (by decide)
  · refine Answers.of_runs rfl h ?_
    rw [if_pos hs]
    exact State.refuse40 (.of_runs h)

/-- Settles O38: the record that is emptied, and the one that keeps the former content. -/
theorem bisqueClear : Obligations.BisqueClear := by
  unfold Obligations.BisqueClear
  refine ⟨fun c s h hs => ?_, fun c s h hs => ?_⟩
  · refine Answers.of_runs rfl h ?_
    rw [if_pos hs]
    have hu : Only [.fault] s s.clearBisque := (Only.refl _ s).mk_upd
    have ho := State.ok_still (s := s.clearBisque) (.of_runs h) (leBytes 2 s.clearBisque.fault.bisque.clears.toNat)
    exact ⟨(s.clearBisque.ok_answered c _).of_same (.of_only hu), ho.fault_eq, (hu.mono (by decide)).trans (ho.mono (by decide))⟩
  · refine Answers.of_runs rfl h ?_
    rw [if_neg (by rw [hs]; exact Bool.false_ne_true)]
    exact State.refuse40 (.of_runs h)

/-- Settles O35: DRAIN moves the first undrained seq, or is refused. -/
theorem drainCommand : Obligations.DrainCommand := by
  unfold Obligations.DrainCommand
  refine ⟨fun c n s h hn hs h1 h2 h3 => ?_, fun c s h hn => ?_⟩
  · subst hn
    refine Answers.of_runs rfl h ?_
    generalize leAt c.payload 0 8 = n at h1 h2 h3 ⊢
    have hm : s.mayDrain n = true := by
      unfold State.mayDrain
      simp only [hs, h1, h2, decide_true, Bool.and_self, Bool.true_and, List.all_eq_true, Bool.or_eq_true, Bool.not_eq_true']
      intro e he
      cases ho : e.2.open_ with
      | false => exact .inl rfl
      | true =>
        refine .inr ?_
        cases hf : e.2.first with
        | none => rfl
        | some q => simpa using h3 e he ho q hf
    dsimp only
    rw [if_pos hm]
    let u : State := { s with log := { s.log with
      drained := n, index := s.log.index.map (fun (e : Nat × WinEntry) => (e.1, e.2.drainTo n)) } }
    have hd : s.drainTo c.signers n = u.capture 0x0C 0 ([c.signers] ++ zeros 7 ++ leBytes 8 n ++ leBytes 8 s.log.drained) := rfl
    have hu : Only [.log] s u := (Only.refl _ s).mk_upd
    have hc := u.capture_only 0x0C 0 ([c.signers] ++ zeros 7 ++ leBytes 8 n ++ leBytes 8 s.log.drained)
    have hl := u.capture_captured 0x0C 0 ([c.signers] ++ zeros 7 ++ leBytes 8 n ++ leBytes 8 s.log.drained)
    have hb : s.log.buffer.length < 32 → (u.capture 0x0C 0 ([c.signers] ++ zeros 7 ++ leBytes 8 n ++ leBytes 8 s.log.drained)).log.buffer
        = s.log.buffer ++ [s.shardNow 0x0C 0 0 ([c.signers] ++ List.replicate 7 0 ++ leBytes 8 n ++ leBytes 8 s.log.drained)] := by
      intro hlt
      unfold State.capture
      dsimp only
      rw [if_pos (show u.pm.state.logs = true from hs), Log.push, if_pos (show u.log.buffer.length < 32 from hlt)]
      rfl
    rw [hd]
    generalize u.capture 0x0C 0 ([c.signers] ++ zeros 7 ++ leBytes 8 n ++ leBytes 8 s.log.drained) = v at hc hl hb ⊢
    have ho := State.ok_still (s := v) (.of_runs h) (leBytes 8 n)
    have hv : Only [.log] s v := hu.trans hc
    refine ⟨(v.ok_answered c _).of_same (.of_only hv), ?_, ?_, ?_, ?_, fun hlt => ?_, (hv.mono (by decide)).trans (ho.mono (by decide))⟩
    · rw [ho.log_eq, hl]
    · rw [ho.log_eq, hl]
      rfl
    · rw [ho.log_eq, hl]
    · rw [ho.log_eq, hl]
    · rw [ho.log_eq, hb hlt]
  · refine Answers.of_runs rfl h ?_
    generalize leAt c.payload 0 8 = n at hn ⊢
    have hm : ¬ s.mayDrain n = true := by
      intro hm
      unfold State.mayDrain at hm
      simp only [Bool.and_eq_true, decide_eq_true_eq, List.all_eq_true, Bool.or_eq_true, Bool.not_eq_true'] at hm
      obtain ⟨⟨⟨k1, k2⟩, k3⟩, k4⟩ := hm
      rcases hn with hn | hn | hn | ⟨e, he, heo, q, hq, hlt⟩
      · rw [k1] at hn
        exact absurd hn (by decide)
      · omega
      · omega
      · have := (k4 e he).resolve_left (by rw [heo]; decide)
        rw [hq] at this
        simp only [Option.all_some, decide_eq_true_eq] at this
        omega
    dsimp only
    rw [if_neg hm]
    exact State.refuse40 (.of_runs h)

end Sys2Proof.Machine
end

section
/-! SUPPORT. Refutations: states whose tables and lists are not in canonical form. -/

set_option Elab.async false

namespace Sys2Proof.Machine

/-! ## Refutations: what a row leaves, read off by evaluation -/

/-- A reading of the state that a row leaves. -/
def afterRow (i : Instr) (s : State) (f : State → Bool) : Bool :=
  match exec i s with
  | .next t => f t
  | _ => false

theorem afterRow_next {i : Instr} {s t : State} (h : exec i s = .next t) (f : State → Bool) : afterRow i s f = f t := by
  unfold afterRow
  rw [h]

/-- STANDBY at the head of the queue, with a table of comparators that lists comparator 0 twice: the first entry, a blanking window alone,
goes as the measurement is quietened, and the second, of a failed comparator, then reads as a failure that is new. -/
def standbyTwice : State :=
  (({ ready with sense.cmps := [(0, { syncClose := some 5 }), (0, { status := .failed })] } : State).withReg 0x20010 0x80000000).toRun
    { cmd with op := 0x44 }

/-- Refutes O34: its clause on STANDBY admits states whose tables are not in canonical form (no premise `tablesOk`), and in one of them
the entry to Standby receives a comparator's failure, which sets the fault latch. -/
theorem not_classOneCommands : ¬ Obligations.ClassOneCommands := by
  unfold Obligations.ClassOneCommands
  rintro ⟨-, -, -, -, -, -, -, h, -⟩
  obtain ⟨t, ht, -, -, -, -, -, -, -, -, -, -, -, -, hl, -⟩ := h { cmd with op := 0x44 } standbyTwice (by unfold Runs; decide +kernel)
    (by decide +kernel) (by decide +kernel)
  have hx : afterRow .standbyCmd standbyTwice (fun t => t.pm.faultLatch) = true := by decide +kernel
  rw [afterRow_next ht, hl] at hx
  exact absurd hx (by decide +kernel)

/-! ## A register that the configuration lists twice -/

/-- A configuration that lists CT_CONTROL twice. -/
def configTwice : State := { ready with sgLoaded := true, cfg := [(0x60000, 1), (0x60000, 3)] }

/-- The register CT_CONTROL. -/
def ctControlReg : Reg := (regAt 0x60000).get (by decide +kernel)

/-- Refutes O36: its clause on REGISTER_WRITE admits states whose tables are not in canonical form (no premise `tablesOk`). There the
write of a register's factory value takes one of two entries away, and the register then reads as the other. -/
theorem not_wordsByCommand : ¬ Obligations.WordsByCommand := by
  unfold Obligations.WordsByCommand
  rintro ⟨-, -, -, -, -, -, h, -⟩
  obtain ⟨t, ht, hr, -⟩ := h 2 .class2 0x60000 0x00080001 ctControlReg configTwice (.inr (.inl ⟨rfl, rfl, rfl⟩)) rfl rfl (by decide +kernel)
    (by decide +kernel) (by decide +kernel) (by decide +kernel)
  have hx : afterRow (.registerWrite 2 0x60000 0x00080001) configTwice
      (fun t => rawReg t ctControlReg &&& ctControlReg.row.rw == 3) = true := by decide +kernel
  rw [afterRow_next ht, hr] at hx
  exact absurd hx (by decide +kernel)

end Sys2Proof.Machine
end

section
/-! SUPPORT. Program and table loads (O37), and what puts a change of the configuration in force. -/

set_option Elab.async false

namespace Sys2Proof.Machine

/-! ## What the image and the partition are made from -/

section
variable {ps : List Part} {s t : State}

theorem Only.isSafety_eq (h : Only ps s t) (n : Nat) (hp : Part.cfg ∉ ps ∧ Part.sgLoaded ∉ ps := by decide) :
    t.isSafety n = s.isSafety n := by
  unfold State.isSafety
  rw [h.safety_eq hp]

theorem Only.heldMask_eq (h : Only ps s t) (r : Reg) (hp : Part.cfg ∉ ps ∧ Part.sgLoaded ∉ ps := by decide) :
    heldMask t r = heldMask s r := by
  unfold heldMask
  simp only [h.isSafety_eq _ hp]

theorem Only.rawReg_eq (h : Only ps s t) (r : Reg) (hp : Part.cfg ∉ ps := by decide) : rawReg t r = rawReg s r := by
  unfold rawReg
  rw [h.cfg_eq hp]

theorem Only.isHTable_eq (h : Only ps s t) (n : Nat) (hp : Part.fault ∉ ps := by decide) : t.isHTable n = s.isHTable n := by
  unfold State.isHTable
  rw [h.fault_eq hp]

/-- The image reads the configuration, the stores, the tables and the calibration alone. -/
theorem Only.imageNow_eq (h : Only ps s t)
    (hp : (Part.cfg ∉ ps ∧ Part.sgLoaded ∉ ps) ∧ Part.kiln ∉ ps ∧ Part.mg ∉ ps ∧ Part.fault ∉ ps := by decide) :
    t.imageNow = s.imageNow := by
  obtain ⟨hc, hk, hm, hf⟩ := hp
  have ho : t.openRegs = s.openRegs := by
    unfold State.openRegs
    simp only [h.heldMask_eq _ hc]
  have hh : t.heldRegs = s.heldRegs := by
    unfold State.heldRegs
    simp only [h.heldMask_eq _ hc]
  have ht : t.isHTable = s.isHTable := funext fun n => h.isHTable_eq n hf
  simp only [State.imageNow, State.factoryContent, State.sharedImage, State.section1, State.section3, State.section4, ho, hh, ht,
    h.heldMask_eq _ hc, h.rawReg_eq _ hc.1, h.rawAt_eq _ hc.1, h.kiln_eq hk, h.mg_eq hm, h.fault_eq hf, h.cfg_eq hc.1] <;> rfl

/-- What the partition reads. -/
theorem Only.partition_eq (h : Only ps s t)
    (hp : (Part.cfg ∉ ps ∧ Part.sgLoaded ∉ ps) ∧ Part.kiln ∉ ps ∧ Part.sec ∉ ps ∧ Part.fault ∉ ps := by decide) :
    t.partition = s.partition := by
  obtain ⟨hc, hk, hs, hf⟩ := hp
  have hw : t.heldWords = s.heldWords := by
    unfold State.heldWords
    simp only [h.heldMask_eq _ hc, h.cfg_eq hc.1]
  have ht : t.isHTable = s.isHTable := funext fun n => h.isHTable_eq n hf
  simp only [State.partition, hw, ht, h.sec_eq hs, h.kiln_eq hk, h.fault_eq hf]

theorem PartitionPut.kept {x : Sec} {s t : State} (k : PartitionPut x s) (h : Only ps s t)
    (hp : (Part.cfg ∉ ps ∧ Part.sgLoaded ∉ ps) ∧ Part.kiln ∉ ps ∧ Part.sec ∉ ps ∧ Part.fault ∉ ps := by decide) : PartitionPut x t := by
  unfold PartitionPut at *
  rw [h.partition_eq hp, h.sec_eq hp.2.2.1]
  exact k

theorem State.putSec_put (s : State) (x : Sec) (hx : x.storeMark = s.sec.storeMark) : PartitionPut x (s.putSec x) := by
  unfold PartitionPut State.putSec
  dsimp only
  rw [hx]
  rfl

theorem State.putSec_only_sec (s : State) (x : Sec) : Only [.sec] s (s.putSec x) := (Only.refl _ s).mk_upd

/-- A changed configuration is put in force with its digest. -/
theorem State.newImage_put (s : State) : PartitionPut { s.sec with imageDigest := s.imageNow } s.newImage := s.putSec_put _ rfl

theorem State.newImage_digest (s : State) : s.newImage.sec.imageDigest = s.imageNow := rfl

theorem State.newImage_only_sec (s : State) : Only [.sec] s s.newImage := s.putSec_only_sec _

end

/-! ## What a load's command leaves -/

section
variable {s u : State} {c : Cmd}

theorem State.confirmed_passes {needed : Bool} {k : Confirm} {f : State} (h : needed = true → s.confirms c k = true) :
    s.confirmed c needed k f = f := by
  unfold State.confirmed
  rw [if_neg]
  cases needed with
  | false => exact Bool.false_ne_true
  | true =>
    rw [h rfl]
    decide

theorem State.confirmed_fails {needed : Bool} {k : Confirm} {f : State} (h : needed = true) (hk : s.confirms c k = false) :
    s.confirmed c needed k f = s.confirmFails c := by
  unfold State.confirmed
  rw [h, hk]
  rfl

theorem State.confirmFails_refused (h : NoReset c) : Answered c 0x7F [] s (s.confirmFails c)
    ∧ (s.confirmFails c).sec = { s.sec with confirmFail := inc 255 s.sec.confirmFail }
    ∧ Only [.port, .irq, .ring, .sec] s (s.confirmFails c) := by
  let v : State := { s with sec := { s.sec with confirmFail := inc 255 s.sec.confirmFail } }
  have hv : Only [.sec] s v := (Only.refl _ s).mk_upd
  obtain ⟨k1, k2⟩ := State.refuse_refused (s := v) (status := 0x7F) h (by unfold Uncounted; omega) (by decide)
  exact ⟨k1.of_same (.of_only hv), k2.sec_eq, (hv.mono (by decide)).trans (k2.mono (by decide))⟩

/-- A decided command moves nothing but the port, the ring, the interrupts and the log. -/
theorem State.finish_only_logged (h : NoReset c) (status : Nat) (payload : List Byte) :
    Only [.port, .irq, .ring, .log] s (s.finish c status payload) := by
  have hd := s.decided_only c status
  have hn := hd.trans (((s.decided c status).noteBroadcast_only c status).mono (by decide))
  have ha (t : State) (st : Nat) (p : List Byte) := (State.answer_only_still (s := t) (h.resets st p)).1
  rw [State.finish_eq]
  generalize s.decided c status = v at hd hn ⊢
  generalize v.noteBroadcast c status = w at hn ⊢
  have hw : Only [.port, .irq, .ring, .log] s w := hn.mono (by decide)
  split
  · split
    · exact hw.trans ((State.dropCmd_only _ _ _).mono (by decide))
    · split
      · exact hw.trans ((ha _ _ _).mono (by decide))
      · split
        · exact hw.trans ((State.setCmd_only _ _).mono (by decide))
        · exact hw.trans ((ha _ _ _).mono (by decide))
  · exact (hd.mono (by decide)).trans ((ha _ _ _).mono (by decide))

/-- A change u of the configuration, put in force with its shard and answered. -/
theorem State.putInForce {ps : List Part} (hc : NoReset c) (hu : Only ps s u) (hp : Part.port ∉ ps ∧ Part.ring ∉ ps ∧ Part.ident ∉ ps ∧
    Part.sec ∉ ps) (object : Nat) (payload : List Byte) :
    Answered c 0 payload s ((u.newImage.imageShard s c object).ok c payload)
      ∧ PartitionPut { s.sec with imageDigest := u.imageNow } ((u.newImage.imageShard s c object).ok c payload)
      ∧ ((u.newImage.imageShard s c object).ok c payload).imageNow = u.imageNow
      ∧ Only [.sec, .log, .port, .irq, .ring] u ((u.newImage.imageShard s c object).ok c payload) := by
  have h1 := u.newImage_only_sec
  have h2 : Only [.log] u.newImage (u.newImage.imageShard s c object) := State.capture_only _ _ _ _
  have h3 := State.ok_still (s := u.newImage.imageShard s c object) hc payload
  have hall : Only [.sec, .log, .port, .irq, .ring] u ((u.newImage.imageShard s c object).ok c payload) :=
    (h1.mono (by decide)).trans ((h2.mono (by decide)).trans (h3.mono (by decide)))
  have hput := u.newImage_put
  rw [hu.sec_eq hp.2.2.2] at hput
  have h12 : Only [.sec, .log] u (u.newImage.imageShard s c object) := (h1.mono (by decide)).trans (h2.mono (by decide))
  refine ⟨((State.ok_answered _ c payload).of_same (.of_only h12)).of_same (.of_only hu ⟨hp.1, hp.2.1, hp.2.2.1⟩), ?_,
    hall.imageNow_eq, hall⟩
  exact (hput.kept h2).kept h3

end

/-! ## Stores with steps written -/

section

theorem Tab.getD_foldl_put {l : List Step64} : ∀ {t : Tab Step64} {a : Nat}, Tab.wf t = true →
    (∀ i, i < l.length → Tab.getD ((l.mapIdx (fun i w => (a + i, w))).foldl (fun t e => Tab.put 0 t e.1 e.2) t) (a + i) 0 = l.getD i 0)
      ∧ (∀ b, b < a ∨ a + l.length ≤ b →
          Tab.getD ((l.mapIdx (fun i w => (a + i, w))).foldl (fun t e => Tab.put 0 t e.1 e.2) t) b 0 = Tab.getD t b 0) := by
  induction l with
  | nil => exact fun _ => ⟨fun i hi => absurd hi (by simp), fun b _ => rfl⟩
  | cons w l ih =>
    intro t a ht
    have hw := Tab.wf_put ht 0 a w
    have hshift : l.mapIdx (fun i w => (a + (i + 1), w)) = l.mapIdx (fun i w => (a + 1 + i, w)) := by
      congr 1
      funext i w
      rw [Nat.add_right_comm, Nat.add_assoc]
    obtain ⟨h1, h2⟩ := ih (a := a + 1) hw
    rw [List.mapIdx_cons, hshift, List.foldl_cons, Nat.add_zero]
    dsimp only
    refine ⟨fun i hi => ?_, fun b hb => ?_⟩
    · cases i with
      | zero =>
        rw [Nat.add_zero, h2 _ (by omega)]
        show Tab.getD (Tab.put 0 t a w) a 0 = w
        rw [Tab.getD_put _ _ _ _ _ ht, if_pos rfl]
      | succ i =>
        have := h1 i (by simpa using hi)
        rw [Nat.add_right_comm, Nat.add_assoc] at this
        exact this
    · rw [List.length_cons] at hb
      rw [h2 b (by omega)]
      show Tab.getD (Tab.put 0 t a w) b 0 = _
      rw [Tab.getD_put _ _ _ _ _ ht, if_neg (by omega)]

theorem paySteps_length (p : List Byte) (n : Nat) : (paySteps p n).length = n := by
  unfold paySteps
  rw [List.length_map, List.length_range]

theorem paySteps_getD (p : List Byte) {n i : Nat} (h : i < n) : (paySteps p n).getD i 0 = BitVec.ofNat 64 (leAt p (8 + 8 * i) 8) := by
  unfold paySteps
  rw [List.getD_eq_getElem?_getD, List.getElem?_map, List.getElem?_range h]
  rfl

/-- What a load leaves in a store in canonical form. -/
theorem store_loaded {t : Tab Step64} (ht : Tab.wf t = true) (p : List Byte) :
    (∀ i, i < leAt p 2 2 → Tab.getD ((loadWords p).foldl (fun t e => Tab.put 0 t e.1 e.2) t) (leAt p 0 2 + i) 0
        = BitVec.ofNat 64 (leAt p (8 + 8 * i) 8))
      ∧ (∀ a, a < leAt p 0 2 ∨ leAt p 0 2 + leAt p 2 2 ≤ a →
          Tab.getD ((loadWords p).foldl (fun t e => Tab.put 0 t e.1 e.2) t) a 0 = Tab.getD t a 0) := by
  obtain ⟨h1, h2⟩ := Tab.getD_foldl_put (l := paySteps p (leAt p 2 2)) (a := leAt p 0 2) ht
  rw [paySteps_length] at h1 h2
  exact ⟨fun i hi => (h1 i hi).trans (paySteps_getD p hi), h2⟩

theorem State.tablesOk_store {s : State} (h : s.tablesOk = true) : Tab.wf s.kiln.store = true ∧ Tab.wf s.kiln.sgStore = true := by
  simp only [State.tablesOk, Bool.and_eq_true] at h
  obtain ⟨⟨⟨⟨⟨⟨⟨⟨⟨-, h4⟩, h5⟩, -⟩, -⟩, -⟩, -⟩, -⟩, -⟩, -⟩ := h
  exact ⟨h4, h5⟩

/-- The first word of a load that fails a check. -/
theorem find?_first {l xs ys : List (Nat × Step64)} {e : Nat × Step64} {f : Nat × Step64 → Nat} (hl : l = xs ++ e :: ys)
    (hx : ∀ e ∈ xs, f e = 0) (he : f e ≠ 0) : l.find? (fun e => f e != 0) = some e := by
  subst hl
  rw [List.find?_append, List.find?_eq_none.2 (fun x h => by simp [hx x h]), List.find?_cons_of_pos (by simpa using he)]
  rfl

theorem find?_none_of_zero {l : List (Nat × Step64)} {f : Nat × Step64 → Nat} (h : ∀ e ∈ l, f e = 0) :
    l.find? (fun e => f e != 0) = none :=
  List.find?_eq_none.2 (fun x hx => by simp [h x hx])

theorem stRefusal_small (w : Step64) : stRefusal w ≠ 3 ∧ stRefusal w ≠ 4 := by
  unfold stRefusal
  split
  · decide
  · split <;> decide

end

section
variable {s : State} {c : Cmd}

theorem State.execute3_runs {op : Nat} (h : Runs op c s) (hb : c.boot = false) (f : Cmd → State) : s.execute3 op f = f c := by
  unfold State.execute3
  rw [State.execute_runs h, hb]
  rfl

/-- A class 3 command's row, told by what its opcode does at the head of the execution queue. -/
theorem Answers.of_runs3 {op : Nat} {i : Instr} {f : Cmd → State} {P : State → Prop} (he : exec i s = .next (s.execute3 op f))
    (h : Runs op c s) (hb : c.boot = false) (hp : P (f c)) : Answers i s P :=
  ⟨f c, by rw [he, State.execute3_runs h hb], hp⟩

/-- A refused load of the Kiln store. -/
theorem State.noteLoad_refused (h : NoReset c) (reason addr : Nat) :
    Answered c 0x40 [] s ((s.noteLoad reason addr).refuse c 0x40)
      ∧ ((s.noteLoad reason addr).refuse c 0x40).kiln = { s.kiln with
          loadReason := reason, loadAddr := (if reason = 3 ∨ reason = 4 then (Config.freeInt s.free).natAbs else addr) % 4096 }
      ∧ Only [.kiln, .free, .port, .irq, .ring] s ((s.noteLoad reason addr).refuse c 0x40) := by
  have hn : Only [.kiln, .free] s (s.noteLoad reason addr) := (Only.refl _ s).mk_upd
  obtain ⟨k1, k2⟩ := State.refuse40 (s := s.noteLoad reason addr) h
  exact ⟨k1.of_same (.of_only hn), k2.kiln_eq, (hn.mono (by decide)).trans (k2.mono (by decide))⟩

/-- A refused load of the Saggar store. -/
theorem State.noteSgLoad_refused (h : NoReset c) (reason addr : Nat) :
    Answered c 0x40 [] s ((s.noteSgLoad reason addr).refuse c 0x40)
      ∧ ((s.noteSgLoad reason addr).refuse c 0x40).kiln = { s.kiln with
          sgLoadReason := reason, sgLoadAddr := (if reason = 4 ∨ 0x1FF < addr then (Config.freeInt s.free).natAbs else addr) % 512 }
      ∧ Only [.kiln, .free, .port, .irq, .ring] s ((s.noteSgLoad reason addr).refuse c 0x40) := by
  have hn : Only [.kiln, .free] s (s.noteSgLoad reason addr) := (Only.refl _ s).mk_upd
  obtain ⟨k1, k2⟩ := State.refuse40 (s := s.noteSgLoad reason addr) h
  exact ⟨k1.of_same (.of_only hn), k2.kiln_eq, (hn.mono (by decide)).trans (k2.mono (by decide))⟩

theorem sgRefusal_four (m : Rails) (w : Step64) : sgRefusal m w ≠ 4 := by
  unfold sgRefusal
  split
  · decide
  · split
    · decide
    · exact (stRefusal_small w).2

/-- A table load that is put in force. -/
theorem State.tableLoad_puts (hu : s.unitsOk = true) (hc : NoReset c) {n : Nat} (hn : n < 8) (x : CoolTable) :
    Answered c 0 (digestBytes (s.tableLoad c n x).imageNow) s (s.tableLoad c n x)
      ∧ PartitionPut { s.sec with imageDigest := (s.tableLoad c n x).imageNow } (s.tableLoad c n x)
      ∧ nth (s.tableLoad c n x).fault.tables n {} = x
      ∧ (∀ m, m ≠ n → nth (s.tableLoad c n x).fault.tables m {} = nth s.fault.tables m {})
      ∧ (s.tableLoad c n x).fault = { s.fault with tables := (s.tableLoad c n x).fault.tables }
      ∧ Only [.fault, .sec, .log, .port, .irq, .ring] s (s.tableLoad c n x) := by
  have hlen : n < s.fault.tables.length := by
    simp only [State.unitsOk, Bool.and_eq_true, beq_iff_eq] at hu
    omega
  have hp : Only [.fault] s (s.putTable n x) := (Only.refl _ s).mk_upd
  have hr : (s.putTable n x).newImage.imageReply = digestBytes (s.putTable n x).imageNow := rfl
  obtain ⟨h1, h2, h3, h4⟩ := State.putInForce hc hp (by decide) n (digestBytes (s.putTable n x).imageNow)
  have he : s.tableLoad c n x = ((s.putTable n x).newImage.imageShard s c n).ok c (digestBytes (s.putTable n x).imageNow) := by
    unfold State.tableLoad
    dsimp only
    rw [hr]
  rw [← he] at h1 h2 h3 h4
  have hf : (s.tableLoad c n x).fault = { s.fault with tables := modNth s.fault.tables n (fun _ => x) } := h4.fault_eq
  generalize s.tableLoad c n x = t at h1 h2 h3 h4 hf ⊢
  rw [h3, hf]
  refine ⟨h1, h2, ?_, fun m hm => nth_modNth_ne _ _ _ _ _ (Ne.symm hm), rfl, (hp.mono (by decide)).trans (h4.mono (by decide))⟩
  rw [nth_modNth _ _ _ _ _ hlen, if_pos rfl]

end

/-- Settles O37: loads by what their checks find, and what each puts in force. -/
theorem programAndTableLoads : Obligations.ProgramAndTableLoads := by
  unfold Obligations.ProgramAndTableLoads
  refine ⟨fun b c s ht h hs hz hk => ?_, fun b c xs ys a w s h hs hl hx hw => ?_, fun b c s h hs => ?_, fun b c s h hs hz hd hk => ?_,
    fun b c s ht h hb hs hz hk => ?_, fun b c xs ys a w s h hb hs hl hx hw => ?_, fun b c s h hb hs => ?_,
    fun b c n s hu h hn hn8 hlen hH hs hleg hk => ?_, fun b c s h hH => ?_, fun b c s h hH hn => ?_,
    fun b c n hd s hu h hb hn hn8 hlen hdi hs hleg hH hk => ?_, fun b c s h hb hn => ?_⟩
  · refine Answers.of_runs rfl h ?_
    dsimp only
    rw [if_neg (by rw [hs]; decide), find?_none_of_zero hz]
    dsimp only
    rw [State.confirmed_passes (fun hne => hk (Ne.symm (bne_iff_ne.1 hne)))]
    have hp : Only [.kiln] s (s.loadSteps (loadWords c.payload)) := (Only.refl _ s).mk_upd
    obtain ⟨h1, h2, h3, h4⟩ := State.putInForce (NoReset.of_runs h) hp (by decide) 0xFFFF
      (digestBytes (s.loadSteps (loadWords c.payload)).storeDigest)
    have he : s.programLoad c (loadWords c.payload) = ((s.loadSteps (loadWords c.payload)).newImage.imageShard s c 0xFFFF).ok c
        (digestBytes (s.loadSteps (loadWords c.payload)).storeDigest) := rfl
    rw [he]
    generalize ((s.loadSteps (loadWords c.payload)).newImage.imageShard s c 0xFFFF).ok c
        (digestBytes (s.loadSteps (loadWords c.payload)).storeDigest) = t at h1 h2 h3 h4 ⊢
    obtain ⟨hst, hsto⟩ := store_loaded (State.tablesOk_store ht).1 c.payload
    have hkiln : t.kiln = (s.loadSteps (loadWords c.payload)).kiln := h4.kiln_eq
    have hdig : t.storeDigest = (s.loadSteps (loadWords c.payload)).storeDigest := by
      unfold State.storeDigest
      rw [hkiln]
    rw [hdig, h3, hkiln]
    exact ⟨h1, hst, hsto, rfl, h2, (hp.mono (by decide)).trans (h4.mono (by decide))⟩
  · refine Answers.of_runs rfl h ?_
    dsimp only
    rw [if_neg (by rw [hs]; decide), find?_first hl hx hw]
    dsimp only
    obtain ⟨k1, k2, k3⟩ := State.noteLoad_refused (s := s) (NoReset.of_runs h) (loadReason (a, w)) a
    refine ⟨k1, ?_, fun ha => ?_, k3⟩
    · rw [k2]
    · have hr : ¬ (loadReason (a, w) = 3 ∨ loadReason (a, w) = 4) := by
        unfold loadReason
        rw [if_neg (by dsimp only; omega)]
        exact fun hr => hr.elim (stRefusal_small w).1 (stRefusal_small w).2
      rw [k2, if_neg hr]
      dsimp only
      omega
  · refine Answers.of_runs rfl h ?_
    dsimp only
    rw [if_pos (by rw [hs]; decide)]
    obtain ⟨k1, k2, k3⟩ := State.noteLoad_refused (s := s) (NoReset.of_runs h) 4 (leAt c.payload 0 2)
    exact ⟨k1, by rw [k2], k3⟩
  · refine Answers.of_runs rfl h ?_
    dsimp only
    rw [if_neg (by rw [hs]; decide), find?_none_of_zero hz]
    dsimp only
    rw [State.confirmed_fails (bne_iff_ne.2 (Ne.symm hd)) hk]
    exact State.confirmFails_refused (.of_runs h)
  · refine Answers.of_runs3 rfl h hb ?_
    dsimp only
    rw [if_neg (by rw [hs]; decide), find?_none_of_zero hz]
    dsimp only
    rw [State.confirmed_passes (fun hne => hk (Ne.symm (bne_iff_ne.1 hne)))]
    have hp : Only [.kiln] s (s.loadSgSteps (loadWords c.payload)) := (Only.refl _ s).mk_upd
    obtain ⟨h1, h2, h3, h4⟩ := State.putInForce (NoReset.of_runs h) hp (by decide) 0xFFFF
      (digestBytes (s.loadSgSteps (loadWords c.payload)).sgStoreDigest)
    have he : s.sgProgramLoad c (loadWords c.payload) = ((s.loadSgSteps (loadWords c.payload)).newImage.imageShard s c 0xFFFF).ok c
        (digestBytes (s.loadSgSteps (loadWords c.payload)).sgStoreDigest) := rfl
    rw [he]
    generalize ((s.loadSgSteps (loadWords c.payload)).newImage.imageShard s c 0xFFFF).ok c
        (digestBytes (s.loadSgSteps (loadWords c.payload)).sgStoreDigest) = t at h1 h2 h3 h4 ⊢
    obtain ⟨hst, hsto⟩ := store_loaded (State.tablesOk_store ht).2 c.payload
    have hkiln : t.kiln = (s.loadSgSteps (loadWords c.payload)).kiln := h4.kiln_eq
    have hdig : t.sgStoreDigest = (s.loadSgSteps (loadWords c.payload)).sgStoreDigest := by
      unfold State.sgStoreDigest
      rw [hkiln]
    rw [hdig, h3, hkiln]
    exact ⟨h1, hst, hsto, rfl, h2, (hp.mono (by decide)).trans (h4.mono (by decide))⟩
  · refine Answers.of_runs3 rfl h hb ?_
    dsimp only
    rw [if_neg (by rw [hs]; decide), find?_first hl hx hw]
    dsimp only
    obtain ⟨k1, k2, k3⟩ := State.noteSgLoad_refused (s := s) (NoReset.of_runs h) (s.sgLoadReason (a, w)) a
    refine ⟨k1, ?_, fun ha => ?_, k3⟩
    · rw [k2]
    · have hr : ¬ (s.sgLoadReason (a, w) = 4 ∨ 0x1FF < a) := by
        unfold State.sgLoadReason
        rw [if_neg (by dsimp only; omega)]
        rintro (hr | hr)
        · exact sgRefusal_four _ _ hr
        · omega
      rw [k2, if_neg hr]
      dsimp only
      omega
  · refine Answers.of_runs3 rfl h hb ?_
    dsimp only
    rw [if_pos (by rw [hs]; decide)]
    obtain ⟨k1, k2, k3⟩ := State.noteSgLoad_refused (s := s) (NoReset.of_runs h) 4 (leAt c.payload 0 2)
    exact ⟨k1, by rw [k2], k3⟩
  · refine Answers.of_runs rfl h ?_
    subst hn
    have hlegal : CoolTable.legal { hard := false, entries := paySteps c.payload (byteAt c.payload 1) } = true := by
      unfold CoolTable.legal
      rw [hleg, paySteps_length, decide_eq_true hlen]
      rfl
    dsimp only
    rw [if_neg (by rw [hH]; decide), if_neg (by rw [hs, hlegal]; decide), State.confirmed_passes (fun hne => hk (bne_iff_ne.1 hne))]
    exact State.tableLoad_puts hu (.of_runs h) hn8 _
  · refine Answers.of_runs rfl h ?_
    dsimp only
    rw [if_pos hH]
    exact ⟨s.finish_answered c (by decide) [], State.finish_only_logged (.of_runs h) _ _⟩
  · refine Answers.of_runs rfl h ?_
    have hcond : (!s.readyOrRunning || !CoolTable.legal { hard := false, entries := paySteps c.payload (byteAt c.payload 1) }) = true := by
      unfold CoolTable.legal
      rw [paySteps_length]
      rcases hn with hn | hn | hn
      · rw [hn]
        rfl
      · rw [decide_eq_false (Nat.not_le.2 hn)]
        simp
      · rw [hn]
        simp
    dsimp only
    rw [if_neg (by rw [hH]; decide), if_pos hcond]
    exact State.refuse40 (.of_runs h)
  · refine Answers.of_runs3 rfl h hb ?_
    subst hn
    have hx : (byteAt c.payload 2 == 1) = hd := by
      cases hd with
      | true => simpa using hdi
      | false => simpa using hdi
    have hlegal : CoolTable.legal { hard := hd, entries := paySteps c.payload (byteAt c.payload 1) } = true := by
      unfold CoolTable.legal
      rw [hleg, paySteps_length, decide_eq_true hlen]
      rfl
    have hcond : ¬ (!s.readyOrRunning || !CoolTable.legal { hard := hd, entries := paySteps c.payload (byteAt c.payload 1) }
        || (s.isHTable (byteAt c.payload 0) && !hd && s.namedHard (byteAt c.payload 0))) = true := by
      rw [hs, hlegal]
      rcases hH with hH | hH | hH <;> rw [hH] <;> simp
    dsimp only
    rw [hx, if_neg hcond, State.confirmed_passes (fun hne => hk (bne_iff_ne.1 hne))]
    exact State.tableLoad_puts hu (.of_runs h) hn8 _
  · refine Answers.of_runs3 rfl h hb ?_
    have hcond : (!s.readyOrRunning || !CoolTable.legal { hard := byteAt c.payload 2 == 1, entries := paySteps c.payload (byteAt c.payload 1) }
        || (s.isHTable (byteAt c.payload 0) && !(byteAt c.payload 2 == 1) && s.namedHard (byteAt c.payload 0))) = true := by
      unfold CoolTable.legal
      rw [paySteps_length]
      rcases hn with hn | hn | hn | ⟨h1, h2, h3⟩
      · rw [hn]
        rfl
      · rw [decide_eq_false (Nat.not_le.2 hn)]
        simp
      · rw [hn]
        simp
      · rw [h1, beq_eq_false_iff_ne.2 h2, h3]
        simp
    dsimp only
    rw [if_pos hcond]
    exact State.refuse40 (.of_runs h)

end Sys2Proof.Machine
end

section
/-! SUPPORT. The key table and the ownership (O39). -/

set_option Elab.async false

namespace Sys2Proof.Machine

/-! ## The key table and the ownership (R235 to R237) -/

section
variable {s t u : State} {c : Cmd} {status : Nat} {payload : List Byte}

theorem SameReply.of_spoil (s : State) (slots : List Nat) : SameReply s (s.spoil slots) := by
  refine ⟨?_, rfl, rfl, rfl, rfl, rfl⟩
  show ((s.port.cmds.map _).filter _).length = (s.port.cmds.filter _).length
  rw [List.filter_map, List.length_map]
  congr 1
  refine List.filter_congr fun d _ => ?_
  show (!(if d.phase == .counting && slots.any (fun i => bit d.signers i) then { d with spoiled := true } else d).ring) = !d.ring
  split <;> rfl

/-- A command that is spoiled where it names a slot of the list and counts. -/
def Spoiled (slots : List Nat) (d : Cmd) : Prop :=
  d.phase = .counting → slots.any (fun i => bit d.signers i) = true → d.spoiled = true

theorem State.spoil_cmds (s : State) (slots : List Nat) : ∀ d ∈ (s.spoil slots).port.cmds, Spoiled slots d := by
  intro d hd
  obtain ⟨e, -, rfl⟩ := List.mem_map.1 hd
  split
  · exact fun _ _ => rfl
  · next hn => exact fun hp hb => absurd (by rw [hp, hb]; rfl) hn

theorem State.ok_spoiled {slots : List Nat} (h : ∀ d ∈ s.port.cmds, Spoiled slots d) (c : Cmd) (payload : List Byte) :
    ∀ d ∈ (s.ok c payload).port.cmds, Spoiled slots d := by
  intro d hd
  rcases State.finish_cmds _ _ _ _ _ hd with rfl | ⟨h1, -⟩
  · exact fun hp => absurd (show Phase.replying = .counting from hp) (by decide)
  · exact h d h1

/-- A change of the key table, put in force. -/
theorem State.keysInForce_puts (hc : NoReset c) (object : Nat) {x : Sec} (hx : x.storeMark = s.sec.storeMark) (slots : List Nat) :
    Answered c 0 (digestBytes (s.keysInForce c object x slots).sec.keyDigest) s (s.keysInForce c object x slots)
      ∧ (s.keysInForce c object x slots).sec.slots = x.slots ∧ PartitionPut x (s.keysInForce c object x slots)
      ∧ (∀ d ∈ (s.keysInForce c object x slots).port.cmds, Spoiled slots d)
      ∧ Only [.sec, .log, .port, .irq, .ring] s (s.keysInForce c object x slots) := by
  have h1 := s.putSec_only_sec x
  have h2 := (s.putSec x).spoil_only slots
  have h3 : Only [.log] ((s.putSec x).spoil slots) (((s.putSec x).spoil slots).cfgShard c object s.sec.keyDigest x.keyDigest) :=
    State.capture_only _ _ _ _
  have h4 := State.ok_still (s := ((s.putSec x).spoil slots).cfgShard c object s.sec.keyDigest x.keyDigest) hc (digestBytes x.keyDigest)
  have hput : PartitionPut x (s.keysInForce c object x slots) := (((s.putSec_put x hx).kept h2).kept h3).kept h4
  have hk : (s.keysInForce c object x slots).sec.keyDigest = x.keyDigest := by
    rw [hput]
    rfl
  have hr : SameReply s (((s.putSec x).spoil slots).cfgShard c object s.sec.keyDigest x.keyDigest) :=
    (SameReply.of_only h1).trans ((SameReply.of_spoil _ _).trans (.of_only h3))
  have hsp : ∀ d ∈ (((s.putSec x).spoil slots).cfgShard c object s.sec.keyDigest x.keyDigest).port.cmds, Spoiled slots d := by
    rw [h3.port_eq]
    exact State.spoil_cmds _ _
  refine ⟨?_, by rw [hput], hput, State.ok_spoiled hsp _ _, (h1.mono (by decide)).trans ((h2.mono (by decide)).trans
    ((h3.mono (by decide)).trans (h4.mono (by decide))))⟩
  rw [hk]
  exact (State.ok_answered _ c _).of_same hr

/-! A change of the owner, on the ring. -/

/-- Some commands go; nothing else that says of a command that it has been answered changes. -/
structure FewerCmds (p q : Port) : Prop where
  cmds : ∀ d ∈ q.cmds, d ∈ p.cmds
  replies : q.replies = p.replies
  signing : q.signing = p.signing
  bcast : SameBcast p q

theorem FewerCmds.refl (p : Port) : FewerCmds p p := ⟨fun _ h => h, rfl, rfl, rfl, rfl, rfl⟩

theorem Answered.fewer (h : Answered c status payload s u) (k : FewerCmds u.port t.port) : Answered c status payload s t := by
  obtain ⟨k1, k2, k3, k4, k5, k6⟩ := k
  have hn (r : Bool) (n : Nat) (h : u.cmd? r n = none) : t.cmd? r n = none :=
    List.find?_eq_none.2 fun d hd => List.find?_eq_none.1 h d (k1 d hd)
  obtain ⟨h1, h2, h3, h4⟩ := h
  refine ⟨fun hb => ?_, fun hb hq => ?_, fun hb hs hg hr hw hf => ?_, fun hb hs hg hr => hn _ _ (h4 hb hs hg hr)⟩
  · rw [k4, k5, k6]
    exact h1 hb
  · rw [k3]
    exact h2 hb hq
  · obtain ⟨m1, m2⟩ := h3 hb hs hg hr hw hf
    exact ⟨by rw [k2]; exact m1, hn _ _ m2⟩

theorem State.recordDiscard_fewer (s : State) (n : Nat) (l : List Cmd) : FewerCmds s.port (s.recordDiscard n l).port := by
  unfold State.recordDiscard
  dsimp only
  split <;> exact ⟨fun _ h => h, rfl, rfl, rfl, rfl, rfl⟩

theorem State.becomeFenced_fewer (s : State) : FewerCmds s.port s.becomeFenced.port := by
  unfold State.becomeFenced
  split
  · exact FewerCmds.refl _
  · dsimp only
    have hp := (s.endSeqs_only (fun q => q.cmd.any (fun k => k.1 && (s.port.cmds.filter (fun c => c.ring && c.undecided)).any
      (fun c => c.tag == k.2)))).port_eq
    generalize s.endSeqs (fun q => q.cmd.any (fun k => k.1 && (s.port.cmds.filter (fun c => c.ring && c.undecided)).any
      (fun c => c.tag == k.2))) = v at hp ⊢
    rw [State.irqGl_port]
    have hw (w : State) (n : Nat) (l : List Cmd) (h : FewerCmds s.port w.port) : FewerCmds s.port (w.recordDiscard n l).port := by
      obtain ⟨a1, a2, a3, a4, a5, a6⟩ := h
      obtain ⟨b1, b2, b3, b4, b5, b6⟩ := w.recordDiscard_fewer n l
      exact ⟨fun d hd => a1 d (b1 d hd), b2.trans a2, b3.trans a3, b4.trans a4, b5.trans a5, b6.trans a6⟩
    refine hw _ _ _ ?_
    rw [← hp]
    exact ⟨fun d hd => (List.mem_filter.1 hd).1, rfl, rfl, rfl, rfl, rfl⟩

theorem State.ownerChanged_fewer (s : State) (c : Cmd) : FewerCmds s.port (s.ownerChanged c).port := by
  unfold State.ownerChanged
  split
  · exact FewerCmds.refl _
  · dsimp only
    split
    · exact State.becomeFenced_fewer { s with ring := { s.ring with
        joinDue := if s.ring.state = .conflict then s.ring.joinDue else some s.clk.now
        joinTag := if c.ring then some c.tag else none } }
    · exact FewerCmds.refl _

theorem State.unitsOk_slots (h : s.unitsOk = true) : s.sec.slots.length = 8 := by
  simp only [State.unitsOk, Bool.and_eq_true, beq_iff_eq] at h
  obtain ⟨⟨⟨-, h⟩, -⟩, -⟩ := h
  exact h

theorem State.mayOwn_iff (s : State) (c : Cmd) : s.mayOwn c = true ↔ s.sec.owned = false ∧ s.pm.state = .ready
    ∧ s.sec.windowDue.isSome = true ∧ c.signers = 1 ∧ byteAt c.payload 1 = 7 := by
  unfold State.mayOwn
  simp only [Bool.and_eq_true, Bool.not_eq_true', beq_iff_eq, and_assoc]

/-- TAKE_OWNERSHIP in force. -/
theorem takeOwnership_puts (hu : s.unitsOk = true) (hc : NoReset c) :
    let x := s.sec.owned_ c
    let t := ((((s.putSec x).spoil [0]).cfgShard c 0 s.sec.keyDigest x.keyDigest).ok c (digestBytes x.ownerFp)).ownerChanged c
    Answered c 0 (digestBytes x.ownerFp) s t ∧ PartitionPut x t ∧ (∀ d ∈ t.port.cmds, Spoiled [0] d)
      ∧ Only [.sec, .log, .port, .irq, .ring, .tw, .twEnded, .mg] s t
      ∧ nth x.slots 0 {} = { nth s.sec.slots 0 {} with filled := true, role := 7, ed := payEd c.payload, ml := payMl c.payload
                                                       counter := max (s.heldCounter 0) c.counter }
      ∧ ∀ i, i ≠ 0 → nth x.slots i {} = nth s.sec.slots i {} := by
  intro x t
  have h1 := s.putSec_only_sec x
  have h2 := (s.putSec x).spoil_only [0]
  have h3 : Only [.log] ((s.putSec x).spoil [0]) (((s.putSec x).spoil [0]).cfgShard c 0 s.sec.keyDigest x.keyDigest) :=
    State.capture_only _ _ _ _
  have h4 := State.ok_still (s := ((s.putSec x).spoil [0]).cfgShard c 0 s.sec.keyDigest x.keyDigest) hc (digestBytes x.ownerFp)
  have hans := ((((s.putSec x).spoil [0]).cfgShard c 0 s.sec.keyDigest x.keyDigest).ok_answered c (digestBytes x.ownerFp)).of_same
    ((SameReply.of_only h1).trans ((SameReply.of_spoil _ _).trans (.of_only h3)))
  have hput := (((s.putSec_put x rfl).kept h2).kept h3).kept h4
  have hsp : ∀ d ∈ (((s.putSec x).spoil [0]).cfgShard c 0 s.sec.keyDigest x.keyDigest).port.cmds, Spoiled [0] d := by
    rw [h3.port_eq]
    exact State.spoil_cmds _ _
  have hok := State.ok_spoiled hsp c (digestBytes x.ownerFp)
  have hall : Only [.sec, .log, .port, .irq, .ring] s
      ((((s.putSec x).spoil [0]).cfgShard c 0 s.sec.keyDigest x.keyDigest).ok c (digestBytes x.ownerFp)) :=
    (h1.mono (by decide)).trans ((h2.mono (by decide)).trans ((h3.mono (by decide)).trans (h4.mono (by decide))))
  have hlen := State.unitsOk_slots hu
  have ht : t = ((((s.putSec x).spoil [0]).cfgShard c 0 s.sec.keyDigest x.keyDigest).ok c (digestBytes x.ownerFp)).ownerChanged c := rfl
  generalize (((s.putSec x).spoil [0]).cfgShard c 0 s.sec.keyDigest x.keyDigest).ok c (digestBytes x.ownerFp) = v at *
  have hf := v.ownerChanged_fewer c
  have ho := v.ownerChanged_only c
  rw [← ht] at hf ho
  refine ⟨hans.fewer hf, hput.kept ho, fun d hd => hok d (hf.cmds d hd), (hall.mono (by decide)).trans (ho.mono (by decide)), ?_,
    fun i hi => nth_modNth_ne _ _ _ _ _ (Ne.symm hi)⟩
  show nth (modNth s.sec.slots 0 _) 0 {} = _
  rw [nth_modNth _ _ _ _ _ (by omega), if_pos rfl]
  rfl

/-- DECOMMISSION in force. -/
theorem decommission_puts (hc : NoReset c) :
    let t := ((((s.decommissionShard c).putSec s.sec.cleared).spoil (List.range 8)).ok c []).ownerChanged c
    Answered c 0 [] s t ∧ PartitionPut s.sec.cleared t ∧ (∀ d ∈ t.port.cmds, Spoiled (List.range 8) d)
      ∧ Only [.sec, .log, .port, .irq, .ring, .tw, .twEnded, .mg] s t := by
  intro t
  have h0 := s.decommissionShard_only c
  have h1 := (s.decommissionShard c).putSec_only_sec s.sec.cleared
  have h2 := ((s.decommissionShard c).putSec s.sec.cleared).spoil_only (List.range 8)
  have h4 := State.ok_still (s := ((s.decommissionShard c).putSec s.sec.cleared).spoil (List.range 8)) hc []
  have hans := ((((s.decommissionShard c).putSec s.sec.cleared).spoil (List.range 8)).ok_answered c []).of_same
    ((SameReply.of_only h0).trans ((SameReply.of_only h1).trans (SameReply.of_spoil _ _)))
  have hput := (((s.decommissionShard c).putSec_put s.sec.cleared (by rw [h0.sec_eq]; rfl)).kept h2).kept h4
  have hok := State.ok_spoiled (State.spoil_cmds ((s.decommissionShard c).putSec s.sec.cleared) (List.range 8)) c []
  have hall : Only [.sec, .log, .port, .irq, .ring] s ((((s.decommissionShard c).putSec s.sec.cleared).spoil (List.range 8)).ok c []) :=
    (h0.mono (by decide)).trans ((h1.mono (by decide)).trans ((h2.mono (by decide)).trans (h4.mono (by decide))))
  have ht : t = ((((s.decommissionShard c).putSec s.sec.cleared).spoil (List.range 8)).ok c []).ownerChanged c := rfl
  generalize (((s.decommissionShard c).putSec s.sec.cleared).spoil (List.range 8)).ok c [] = v at *
  have hf := v.ownerChanged_fewer c
  have ho := v.ownerChanged_only c
  rw [← ht] at hf ho
  exact ⟨hans.fewer hf, hput.kept ho, fun d hd => hok d (hf.cmds d hd), (hall.mono (by decide)).trans (ho.mono (by decide))⟩

theorem State.execute3_boot {op : Nat} (h : Runs op c s) (hb : bootOpcode op = true) (f : Cmd → State) : s.execute3 op f = f c := by
  unfold State.execute3
  rw [State.execute_runs h, hb]
  cases c.boot <;> rfl

/-- A row of an opcode that bootstrap allows. -/
theorem Answers.of_runsB {op : Nat} {i : Instr} {f : Cmd → State} {P : State → Prop} (he : exec i s = .next (s.execute3 op f))
    (h : Runs op c s) (hb : bootOpcode op = true) (hp : P (f c)) : Answers i s P :=
  ⟨f c, by rw [he, State.execute3_boot h hb], hp⟩

theorem Sec.cleared_slot (x : Sec) (i : Nat) : nth x.cleared.slots i {} =
    { counter := (nth x.slots i {}).counter, badSig := (nth x.slots i {}).badSig } := by
  unfold nth Sec.cleared
  dsimp only
  rw [List.getElem?_map]
  cases x.slots[i]? <;> rfl

/-! What a key-table command does when its conditions hold, and where they do not. -/

theorem ne_true_of_or {a b : Bool} (h : a = true ∨ b = true) : (a || b) = true := by
  rcases h with h | h <;> simp [h]

end

/-- Settles O39: each change of the key table is put in force, spoils what it must, and is refused where its conditions fail. -/
theorem keysAndOwnership : Obligations.KeysAndOwnership := by
  unfold Obligations.KeysAndOwnership
  refine ⟨fun k c s hu h hm hk => ?_, fun k c s h hm => ?_, fun c s => s.mayOwn_iff c, fun k c i s hu h hs hi hi8 ht hq hk => ?_,
    fun k c s h hn => ?_, fun k c i s hu h hb hs hi hi8 hf hbs h3 hk => ?_, fun k c s h hb hn => ?_, fun k c s h hs hbs hk => ?_,
    fun k c s h hn => ?_, fun k c s hu h hs hk => ?_, fun k c s h h1 h2 => ?_⟩
  · refine Answers.of_runsB rfl h rfl ?_
    dsimp only
    rw [if_neg (by rw [hm]; decide), State.confirmed_passes (fun _ => hk)]
    have hrole : byteAt c.payload 1 = 7 := ((s.mayOwn_iff c).1 hm).2.2.2.2
    obtain ⟨ha, hput, hsp, ho, h0, hne⟩ := takeOwnership_puts hu (NoReset.of_runs h)
    generalize ((((s.putSec (s.sec.owned_ c)).spoil [0]).cfgShard c 0 s.sec.keyDigest (s.sec.owned_ c).keyDigest).ok c
      (digestBytes (s.sec.owned_ c).ownerFp)).ownerChanged c = t at ha hput hsp ho ⊢
    have hsec : t.sec.slots = (s.sec.owned_ c).slots := by rw [hput]
    have hheld : t.heldCounter 0 = max (s.heldCounter 0) c.counter := by
      show (nth t.sec.slots 0 {}).counter = _
      rw [hsec, h0]
    refine ⟨ha, by rw [hput]; rfl, by rw [hput]; rfl, by rw [hput]; rfl, by rw [hput]; rfl, ?_, ?_, ?_, ?_, hheld, fun i hi => ?_,
      by rw [hput]; rfl, by rw [hput]; rfl, fun d hd hp hb => hsp d hd hp (by simpa using hb), ho⟩
    all_goals rw [hsec]
    · rw [h0]
    · rw [h0]
    · rw [h0]
    · rw [h0]
    · exact hne i hi
  · refine Answers.of_runsB rfl h rfl ?_
    dsimp only
    rw [if_pos (by rw [hm]; rfl)]
    exact State.refuse40 (.of_runs h)
  · refine Answers.of_runsB rfl h rfl ?_
    subst hi
    dsimp only
    rw [if_neg (by rw [hs, ht, hq]; decide), State.confirmed_passes (fun _ => hk)]
    obtain ⟨ha, hsl, hput, hsp, ho⟩ := State.keysInForce_puts (s := s) (NoReset.of_runs h) (byteAt c.payload 0)
      (x := s.sec.withKey c.payload) rfl [byteAt c.payload 0]
    generalize s.keysInForce c (byteAt c.payload 0) (s.sec.withKey c.payload) [byteAt c.payload 0] = t at ha hsl hput hsp ho ⊢
    have hlen := State.unitsOk_slots hu
    refine ⟨ha, ?_, fun j hj => ?_, ?_, fun d hd hp hb => hsp d hd hp (by simpa using hb), ho⟩
    · rw [hsl]
      show nth (modNth s.sec.slots (byteAt c.payload 0) _) (byteAt c.payload 0) {} = _
      rw [nth_modNth _ _ _ _ _ (by omega), if_pos rfl]
      rfl
    · rw [hsl]
      exact nth_modNth_ne _ _ _ _ _ (Ne.symm hj)
    · rw [hsl]
      exact hput
  · refine Answers.of_runsB rfl h rfl ?_
    dsimp only
    rw [if_pos]
    · exact State.refuse40 (.of_runs h)
    · rcases hn with hn | hn | hn <;> rw [hn] <;> simp
  · refine Answers.of_runs3 rfl h hb ?_
    subst hi
    dsimp only
    rw [if_neg (by rw [hs, hf, hbs, h3]; decide), State.confirmed_passes (fun _ => hk)]
    obtain ⟨ha, hsl, hput, hsp, ho⟩ := State.keysInForce_puts (s := s) (NoReset.of_runs h) (byteAt c.payload 0)
      (x := s.sec.withoutKey (byteAt c.payload 0)) rfl [byteAt c.payload 0]
    generalize s.keysInForce c (byteAt c.payload 0) (s.sec.withoutKey (byteAt c.payload 0)) [byteAt c.payload 0] = t at ha hsl hput hsp ho ⊢
    have hlen := State.unitsOk_slots hu
    refine ⟨ha, ?_, fun j hj => ?_, ?_, ho⟩
    · rw [hsl]
      show nth (modNth s.sec.slots (byteAt c.payload 0) _) (byteAt c.payload 0) {} = _
      rw [nth_modNth _ _ _ _ _ (by omega), if_pos rfl]
    · rw [hsl]
      exact nth_modNth_ne _ _ _ _ _ (Ne.symm hj)
    · rw [hsl]
      exact hput
  · refine Answers.of_runs3 rfl h hb ?_
    dsimp only
    rw [if_pos]
    · exact State.refuse40 (.of_runs h)
    · rcases hn with hn | hn | hn | hn <;> rw [hn] <;> simp
  · refine Answers.of_runsB rfl h rfl ?_
    dsimp only
    rw [if_neg (by rw [hs, hbs]; decide), State.confirmed_passes (fun _ => hk)]
    obtain ⟨ha, -, hput, -, ho⟩ := State.keysInForce_puts (s := s) (NoReset.of_runs h) 0xFF
      (x := { s.sec with m := byteAt c.payload 0, eligible := BitVec.ofNat 8 (byteAt c.payload 1) }) rfl []
    exact ⟨ha, hput, ho⟩
  · refine Answers.of_runsB rfl h rfl ?_
    dsimp only
    rw [if_pos]
    · exact State.refuse40 (.of_runs h)
    · rcases hn with hn | hn <;> rw [hn] <;> simp
  · refine Answers.of_runsB rfl h rfl ?_
    dsimp only
    rw [if_neg (fun hn => hs.elim hn.1 (fun k => by rw [k] at hn; exact absurd hn.2 (by decide))), State.confirmed_passes (fun _ => hk)]
    obtain ⟨ha, hput, hsp, ho⟩ := decommission_puts (s := s) (NoReset.of_runs h)
    generalize ((((s.decommissionShard c).putSec s.sec.cleared).spoil (List.range 8)).ok c []).ownerChanged c = t at ha hput hsp ho ⊢
    have hsl : t.sec.slots = s.sec.cleared.slots := by rw [hput]
    refine ⟨ha, by rw [hput]; rfl, by rw [hput]; rfl, by rw [hput]; rfl, by rw [hput]; rfl, by rw [hput]; rfl, fun i => ?_, ?_,
      fun d hd hp hb => hsp d hd hp ?_, ho⟩
    · unfold State.heldCounter
      rw [hsl, Sec.cleared_slot]
      exact ⟨rfl, rfl⟩
    · rw [hsl]
      exact hput
    · obtain ⟨i, hi, hb⟩ := hb
      exact List.any_eq_true.2 ⟨i, List.mem_range.2 hi, hb⟩
  · refine Answers.of_runsB rfl h rfl ?_
    dsimp only
    rw [if_pos ⟨h1, h2⟩]
    exact State.refuse40 (.of_runs h)

end Sys2Proof.Machine
end

section
/-! SUPPORT. Calibration and the confirmation path (O40). -/

set_option Elab.async false

namespace Sys2Proof.Machine

/-! ## Calibration and confirmation (R173, R226, R241) -/

section
variable {s : State} {c : Cmd}

theorem Tab.getD_filter_map {β : Type} [DecidableEq β] {z : β} {f : Nat → β} : ∀ {l : List Nat}, l.Nodup → ∀ i,
    Tab.getD ((l.map (fun i => (i, f i))).filter (fun e => e.2 != z)) i z = if i ∈ l then f i else z
  | [], _, i => by simp [Tab.getD, Tab.get?]
  | j :: l, h, i => by
    obtain ⟨hj, hl⟩ := List.nodup_cons.1 h
    have ih := Tab.getD_filter_map (z := z) (f := f) hl i
    rw [List.map_cons, List.filter_cons]
    by_cases hf : f j = z
    · rw [if_neg (by simp [hf]), ih]
      by_cases hij : i = j
      · subst hij
        rw [if_neg hj, if_pos (List.mem_cons_self ..), hf]
      · simp [hij]
    · rw [if_pos (by simpa using hf)]
      by_cases hij : i = j
      · subst hij
        rw [if_pos (List.mem_cons_self ..)]
        unfold Tab.getD Tab.get?
        rw [if_pos rfl]
        rfl
      · have hc : Tab.getD ((j, f j) :: (l.map (fun i => (i, f i))).filter (fun e => e.2 != z)) i z
            = Tab.getD ((l.map (fun i => (i, f i))).filter (fun e => e.2 != z)) i z := by
          unfold Tab.getD
          rw [Tab.get?, if_neg (Ne.symm hij)]
        rw [hc, ih]
        simp [hij]

theorem calOf_getD (p : List Byte) {i : Nat} (h : i < 240) : Tab.getD (calOf p) i 0 = BitVec.ofNat 32 (leAt p (4 * i) 4) := by
  unfold calOf
  rw [Tab.getD_filter_map List.nodup_range, if_pos (List.mem_range.2 h)]

/-- A calibration set in force, with its shard and reply. -/
theorem calibrate_puts (hc : NoReset c) (p payload : List Byte) :
    let t := ((s.calibrate p).cfgShard c 0xFFFF s.mg.calDigest (s.calibrate p).mg.calDigest).ok c payload
    Answered c 0 payload s t ∧ PartitionPut { s.sec with imageDigest := t.imageNow } t
      ∧ t.mg = { s.mg with cal := calOf p, calDigest := sha3 (calBytes (calOf p)), overwritten := true
                           calEpoch := inc 65535 s.mg.calEpoch }
      ∧ Only [.sense, .mg, .sec, .log, .port, .irq, .ring] s t := by
  intro t
  let v : State := { s with mg := { s.mg with
    cal := calOf p, calDigest := sha3 (calBytes (calOf p)), overwritten := true, calEpoch := inc 65535 s.mg.calEpoch } }
  have hv : Only [.mg] s v := (Only.refl _ s).mk_upd
  have hw : Only [.sense] v ((List.range 256).foldl State.startSettle v) :=
    Only.foldl _ (Only.refl _ v) (fun u x hu => hu.trans (u.startSettle_only x))
  have he : s.calibrate p = ((List.range 256).foldl State.startSettle v).newImage := rfl
  have ht : t = ((s.calibrate p).cfgShard c 0xFFFF s.mg.calDigest (s.calibrate p).mg.calDigest).ok c payload := rfl
  generalize (List.range 256).foldl State.startSettle v = w at hw he
  have hsw : Only [.mg, .sense] s w := (hv.mono (by decide)).trans (hw.mono (by decide))
  have hput := w.newImage_put
  rw [hsw.sec_eq, ← he] at hput
  have h1 := w.newImage_only_sec
  rw [← he] at h1
  have h2 : Only [.log] (s.calibrate p) ((s.calibrate p).cfgShard c 0xFFFF s.mg.calDigest (s.calibrate p).mg.calDigest) :=
    State.capture_only _ _ _ _
  have h3 := State.ok_still (s := (s.calibrate p).cfgShard c 0xFFFF s.mg.calDigest (s.calibrate p).mg.calDigest) hc payload
  rw [← ht] at h3
  have hwt : Only [.sec, .log, .port, .irq, .ring] w t := (h1.mono (by decide)).trans ((h2.mono (by decide)).trans (h3.mono (by decide)))
  have hst : Only [.mg, .sense, .sec, .log] s ((s.calibrate p).cfgShard c 0xFFFF s.mg.calDigest (s.calibrate p).mg.calDigest) :=
    (hsw.mono (by decide)).trans ((h1.mono (by decide)).trans (h2.mono (by decide)))
  refine ⟨(State.ok_answered _ c payload).of_same (.of_only hst), ?_, ?_, (hsw.mono (by decide)).trans (hwt.mono (by decide))⟩
  · rw [hwt.imageNow_eq]
    exact (hput.kept h2).kept h3
  · rw [hwt.mg_eq, hw.mg_eq]

/-- The class 3 rows that bootstrap refuses. -/
def bootRefused (k : Confirm) : List (Instr × Nat) :=
  [(Instr.keySlotClear k, 0xC2), (.saggarWrite k, 0xC4), (.saggarProgramLoad k, 0xC5), (.htableLoad k, 0xC6), (.calibrationWrite k, 0xC7),
    (.writeRegsClass3 k, 0xC8), (.imageLoad k, 0xC9)]

theorem exec_bootRefused {k : Confirm} {i : Instr} {op : Nat} (h : (i, op) ∈ bootRefused k) (s : State) :
    bootOpcode op = false ∧ ∃ f, exec i s = .next (s.execute3 op f) := by
  simp only [bootRefused, List.mem_cons, Prod.mk.injEq, List.not_mem_nil, or_false] at h
  rcases h with ⟨rfl, rfl⟩ | ⟨rfl, rfl⟩ | ⟨rfl, rfl⟩ | ⟨rfl, rfl⟩ | ⟨rfl, rfl⟩ | ⟨rfl, rfl⟩ | ⟨rfl, rfl⟩ <;> exact ⟨rfl, _, rfl⟩

/-- A refusal with a status that stages 1 to 5 do not count, whatever the opcode, of a device of which no reset is awaited. -/
theorem State.refuse40_image (h : c.op.toNat = 0xC9) : Answered c 0x40 [] s (s.refuse c 0x40)
    ∧ Only [.port, .irq, .ring] s (s.refuse c 0x40) := by
  have h5 : c.op ≠ 0x45 := fun k => by rw [k] at h; exact absurd h (by decide)
  refine ⟨s.finish_answered c (by decide) [], (State.finish_only_still ?_ (fun _ => h5) (by unfold Uncounted; omega)).1⟩
  rfl

/-- What a failed confirmation leaves, in the order the statement lists the parts. -/
theorem State.confirmFails_kept (h : NoReset c) : Answered c 0x7F [] s (s.confirmFails c)
    ∧ (s.confirmFails c).sec = { s.sec with confirmFail := inc 255 s.sec.confirmFail }
    ∧ Only [.sec, .port, .irq, .ring] s (s.confirmFails c) := by
  obtain ⟨h1, h2, h3⟩ := State.confirmFails_refused (s := s) h
  exact ⟨h1, h2, h3.mono (by decide)⟩

theorem State.confirms_iff (s : State) (c : Cmd) (k : Confirm) : s.confirms c k = true ↔ k.digest = s.digest c
    ∧ (c.op = 0xC0 → bit k.verified 0 = true ∧ s.counterAbove c (List.range 8) = true)
    ∧ (c.op ≠ 0xC0 → c.table.met c = true ∧ (∀ i ∈ c.table.counts c, bit k.verified i = true)
        ∧ ∀ i ∈ c.counted, c.counter ≤ s.heldCounter i) := by
  unfold State.confirms State.heldCounter
  by_cases h : c.op = 0xC0
  · rw [if_pos h]
    simp [h]
  · have h' : ¬ c.op = 192#8 := h
    rw [if_neg h]
    simp [h', and_assoc]

end

/-- Settles O40: calibration in force, what bootstrap refuses, and the confirmation that fails. -/
theorem calibrationAndConfirmation : Obligations.CalibrationAndConfirmation := by
  unfold Obligations.CalibrationAndConfirmation
  refine ⟨fun k c s h hb hs hk => ?_, fun k c s h hb hs => ?_, fun k i op c s hi h hb => ?_, fun k i c s hi hk => ?_,
    fun k c s => s.confirms_iff c k⟩
  · refine Answers.of_runs3 rfl h hb ?_
    dsimp only
    rw [if_neg (fun hn => hn hs), State.confirmed_passes (fun _ => hk)]
    obtain ⟨h1, h2, h3, h4⟩ := calibrate_puts (s := s) (NoReset.of_runs h) c.payload (digestBytes (s.calibrate c.payload).mg.calDigest)
    have hd : (s.calibrate c.payload).mg.calDigest = sha3 (calBytes (calOf c.payload)) := by
      unfold State.calibrate
      dsimp only
      rw [State.newImage_only_sec _ |>.mg_eq]
      rw [(Only.foldl (ps := [.sense]) (List.range 256) (Only.refl _ _) (fun u x hu => hu.trans (u.startSettle_only x))).mg_eq]
    generalize ((s.calibrate c.payload).cfgShard c 0xFFFF s.mg.calDigest (s.calibrate c.payload).mg.calDigest).ok c
      (digestBytes (s.calibrate c.payload).mg.calDigest) = t at h1 h2 h3 h4 ⊢
    rw [hd] at h1
    refine ⟨?_, fun i hi => ?_, ?_, ?_, ?_, ?_, ?_, h2, h4⟩
    · rw [h3]
      exact h1
    · rw [h3]
      exact calOf_getD _ hi
    all_goals rw [h3]
  · refine Answers.of_runs3 rfl h hb ?_
    dsimp only
    rw [if_pos hs]
    exact State.refuse40 (.of_runs h)
  · obtain ⟨hbo, f, hf⟩ := exec_bootRefused (k := k) hi s
    refine Answers.of_exec (t := s.refuse c 0x40) ?_ ?_
    · rw [hf]
      unfold State.execute3
      rw [State.execute_runs h, hb, hbo]
      rfl
    · have hop := h.op_eq
      by_cases h9 : op = 0xC9
      · exact State.refuse40_image (hop.trans h9)
      · refine State.refuse40 ⟨fun k => ?_, fun k => ?_⟩
        · rw [k] at hop
          subst hop
          exact absurd hbo (by revert hi; simp)
        · rw [k] at hop
          exact h9 hop.symm
  · rcases hi with ⟨rfl, h, hm⟩ | ⟨rfl, h, hs, ht, hq⟩ | ⟨rfl, h, hb, hs, hf, hbs, h3⟩ | ⟨rfl, h, hs, hbs⟩ | ⟨rfl, h, hb, hs⟩ | ⟨rfl, h, hs⟩
    · refine Answers.of_runsB rfl h rfl ?_
      dsimp only
      rw [if_neg (by rw [hm]; decide), State.confirmed_fails rfl hk]
      exact State.confirmFails_kept (.of_runs h)
    · refine Answers.of_runsB rfl h rfl ?_
      dsimp only
      rw [if_neg (by rw [hs, ht, hq]; decide), State.confirmed_fails rfl hk]
      exact State.confirmFails_kept (.of_runs h)
    · refine Answers.of_runs3 rfl h hb ?_
      dsimp only
      rw [if_neg (by rw [hs, hf, hbs, h3]; decide), State.confirmed_fails rfl hk]
      exact State.confirmFails_kept (.of_runs h)
    · refine Answers.of_runsB rfl h rfl ?_
      dsimp only
      rw [if_neg (by rw [hs, hbs]; decide), State.confirmed_fails rfl hk]
      exact State.confirmFails_kept (.of_runs h)
    · refine Answers.of_runs3 rfl h hb ?_
      dsimp only
      rw [if_neg (fun hn => hn hs), State.confirmed_fails rfl hk]
      exact State.confirmFails_kept (.of_runs h)
    · refine Answers.of_runsB rfl h rfl ?_
      dsimp only
      rw [if_neg (fun hn => hs.elim hn.1 (fun k => by rw [k] at hn; exact absurd hn.2 (by decide))), State.confirmed_fails rfl hk]
      exact State.confirmFails_kept (.of_runs h)

end Sys2Proof.Machine
end

section
/-! SUPPORT. A refutation of what joins do during an enumeration (O46). -/

set_option Elab.async false

namespace Sys2Proof.Machine

/-! ## A JOIN during an enumeration that has admitted as many devices as the ring holds -/

/-- A JOIN of the device with unique ID 0, as it reaches the root at address 5. -/
def joinHeard : Arrival := Frame.sealed { sent with kind := 0x13, dest := 5 } .a true

/-- A root whose horn budget of 1 µs allows 17 devices, and whose enumeration has admitted 16 besides itself already; none of them is
in the maps of the last closure. -/
def enumFull : State :=
  ({ ready with
      inp.root := true, ring.enumDone := true, ring.state := .admitted
      ring.enum := some { enumer with claims := (List.range 16).map (fun i => ⟨BitVec.ofNat 128 (i + 1), i + 10, i, false, true⟩) } } : State)
    |>.withReg 0xA0000 1

/-- Refutes O46: its first clause has no premise on an enumeration in progress. There the devices enrolled so far count too, and a JOIN
beyond the limit is answered without admission although the maps of the last closure have room. -/
theorem not_joiningAndConflict : ¬ Obligations.JoiningAndConflict := by
  unfold Obligations.JoiningAndConflict
  rintro ⟨h, -⟩
  obtain ⟨t, ht, -, -, hm, -⟩ := h joinHeard enumFull (by decide +kernel) (by unfold Clean; decide +kernel) rfl (by decide +kernel)
    (by decide +kernel) (by decide +kernel) (by decide +kernel)
  have hx : afterRow (.joinFrame joinHeard) enumFull (fun t => t.ring.admittedMap
      == putBit enumFull.ring.admittedMap (enumFull.joinAddress (BitVec.ofNat 128 (leAt joinHeard.frame.payload 0 16))
        (leAt joinHeard.frame.payload 50 2)) true) = false := by decide +kernel
  rw [afterRow_next ht, hm] at hx
  exact absurd hx (by simp)

end Sys2Proof.Machine
end

section
/-! SUPPORT. TWIN messages, and handovers that end early (O50). -/

set_option Elab.async false

namespace Sys2Proof.Machine

section
variable (s : State)

/-! ## Time that passes -/

/-- A later clock block: of the fields, passing ticks move these. -/
def Clk.Ran (c d : Clk) : Prop :=
  d = { c with now := d.now, stamp := d.stamp, rateAcc := d.rateAcc, slewLeft := d.slewLeft, slot := d.slot, rcPhase := d.rcPhase }

theorem Clk.advance_ran (c : Clk) (d : Nat) : c.Ran (c.advance d) := by
  unfold Clk.Ran Clk.advance
  dsimp only
  split
  · rfl
  · split <;> rfl

theorem State.till_ran (due : Nat) : s.clk.Ran (s.till due).clk := Clk.advance_ran _ _

theorem State.till_linkOpen (due : Nat) (p : Link) : (s.till due).linkOpen p = s.linkOpen p := by
  have h := s.till_ran due
  have hr : ∀ q, (s.till due).link q = s.link q := fun q => by cases q <;> rfl
  simp only [State.linkOpen, State.transmits, congrArg Clk.corePll h, congrArg Clk.pllLocked h, congrArg Clk.pllRefRc h, State.till_pm, hr]

/-! ## Frames that leave -/

theorem State.sendAs_tx (p : Link) (b : Bool) (f : Frame) : s.ring.tx ⊆ (s.sendAs p b f).ring.tx := by
  unfold State.sendAs
  split
  · exact List.subset_append_left _ _
  · split
    · exact List.subset_append_left _ _
    · exact fun _ h => h

/-- A frame leaves by its own port where that carries frames. -/
theorem State.sendAs_open {p : Link} (h : s.linkOpen p = true) (b : Bool) (f : Frame) :
    s.sendAs p b f = { s with ring := { s.ring with tx := s.ring.tx ++ [f.sealed p b] } } := if_pos h

theorem Ring.setLink_tx (r : Ring) (p : Link) (f : GLink → GLink) : (r.setLink p f).tx = r.tx := by
  cases p <;> rfl

theorem State.sendFrame_tx (p : Link) (f : Frame) : (s.sendFrame p f).ring.tx = (s.sendAs p true f).ring.tx := by
  unfold State.sendFrame
  dsimp only
  split
  · exact Ring.setLink_tx _ _ _
  · rfl

theorem State.sendFrame_kept (p : Link) (f : Frame) : s.ring.tx ⊆ (s.sendFrame p f).ring.tx := by
  rw [State.sendFrame_tx]
  exact s.sendAs_tx p true f

theorem State.sendFrame_sent {p : Link} (h : s.linkOpen p = true) (f : Frame) : f.sealed p true ∈ (s.sendFrame p f).ring.tx := by
  rw [State.sendFrame_tx, s.sendAs_open h]
  exact List.mem_append_right _ (List.mem_singleton_self _)

theorem State.sendTwin_kept (dest msg : Nat) (body : List Byte) : s.ring.tx ⊆ (s.sendTwin dest msg body).ring.tx :=
  fun _ h => State.sendFrame_kept _ .b _ (State.sendFrame_kept { s with twin := { s.twin with msgSeq := s.twin.msgSeq + 1 } } .a _ h)

end

/-- A TWIN message that leaves is told, whatever the state in which it is made has besides the links and the number of the message. -/
theorem Tells.of_sendTwin {s u v : State} {dest msg : Nat} {body : List Byte} (hl : u.linkOpen .a = s.linkOpen .a)
    (hm : u.twin.msgSeq = s.twin.msgSeq) (hv : (u.sendTwin dest msg body).ring.tx ⊆ v.ring.tx) : Tells dest msg body s v := by
  intro h
  let u' : State := { u with twin := { u.twin with msgSeq := u.twin.msgSeq + 1 } }
  have hu : u'.linkOpen .a = true := hl.trans h
  refine ⟨_, hv (State.sendFrame_kept _ .b _ (u'.sendFrame_sent hu _)), rfl, rfl, rfl, ?_⟩
  rw [← hm]
  rfl

theorem Tells.of_tellReason {s u : State} {dest msg : Nat} {r : BitVec 4} (hl : u.linkOpen .a = s.linkOpen .a)
    (hm : u.twin.msgSeq = s.twin.msgSeq) : Tells dest msg [r.zeroExtend 8] s (u.tellReason dest msg r) :=
  .of_sendTwin (u := { u with twin := { u.twin with reason := r } }) hl hm (fun _ h => h)

theorem State.tellReason_twin (s : State) (dest msg : Nat) (r : BitVec 4) :
    (s.tellReason dest msg r).twin = { s.twin with reason := r, msgSeq := s.twin.msgSeq + 1 } :=
  State.sendTwin_twin _ _ _ _

/-! ## Frames that arrive -/

theorem Clean.meet {a : Arrival} (h : Clean a) (s : State) : s.meet a = s := by
  obtain ⟨hc, hb⟩ := h
  unfold State.meet
  rw [hc, hb]
  rfl

/-- A whole frame for this device is taken off the ring. -/
theorem Clean.pass_taken {a : Arrival} {s : State} (h : Clean a) (hf : s.forMe a.frame = true) : s.pass a = s := by
  unfold State.pass State.removes
  rw [h.meet s, hf]
  simp

theorem TwinMsg.onTwin {a : Arrival} {msg : Nat} {s : State} (h : TwinMsg a msg s) (f : State → State) :
    s.onTwin a msg f = f (s.noteFrame a) := by
  obtain ⟨hh, ha, hc, hf, hs⟩ := h
  unfold State.onTwin
  rw [if_pos hh, hc.pass_taken hf]
  dsimp only
  rw [if_pos ha, hs]
  rfl

/-! ## Requests that waited -/

section
variable {s : State}

theorem State.tryPending_idle (h : s.pm.onPending = none ∨ s.mayFire = false) : s.tryPending = s := by
  unfold State.tryPending
  cases hp : s.pm.onPending with
  | none => rfl
  | some c =>
    obtain h | h := h
    · rw [hp] at h
      cases h
    · simp [h]

/-- A pending request fires where nothing is in its way. -/
theorem State.tryPending_fires {c : Byte} (hp : s.pm.onPending = some c) (hm : s.mayFire = true) (hh : s.twin.hand.holds = false) :
    s.tryPending = s.fireStart c.toNat := by
  unfold State.tryPending
  rw [hp, hm, hh]
  rfl

theorem State.releaseHeld_none (h : s.twin.heldOn = []) : s.releaseHeld = s.tryPending := by
  have hs : ({ s with twin := { s.twin with heldOn := [] } } : State) = s := by rw [← h]
  unfold State.releaseHeld
  rw [h, hs]
  rfl

theorem State.releaseHeld_idle (h : s.twin.heldOn = []) (hp : s.pm.onPending = none ∨ s.mayFire = false) : s.releaseHeld = s := by
  rw [State.releaseHeld_none h, State.tryPending_idle hp]

/-- The one request that was held fires, where nothing is in its way and no twin hears of it. -/
theorem State.releaseHeld_one {c : Byte} (h : s.twin.heldOn = [c]) (hs : s.twin.state ≠ .co) (hj : s.onJoins = none) (hm : s.mayFire = true)
    (hh : s.twin.hand.holds = false) : s.releaseHeld = State.fireStart { s with
      ctl := { s.ctl with lastOn := some (s.clk.now, BitVec.ofNat 8 c.toNat) }, twin := { s.twin with heldOn := [] } } c.toNat := by
  let u : State := { s with twin := { s.twin with heldOn := [] } }
  have hu : (u.mirror 1 c.toNat).onRequest c.toNat = State.fireStart { u with
      ctl := { u.ctl with lastOn := some (u.clk.now, BitVec.ofNat 8 c.toNat) } } c.toNat := by
    rw [State.mirror_apart (s := u) hs]
    unfold State.onRequest
    rw [(State.onJoins_congr (s := s) (t := u) (ps := [.twin]) (Only.refl _ s).mk_upd).trans hj]
    exact State.newRequest_fires (s := u) hm hh _
  unfold State.releaseHeld
  rw [h]
  refine (congrArg State.tryPending hu).trans (State.tryPending_idle (.inl ?_))
  have hf := State.fireStart_starts (s := { u with ctl := { u.ctl with lastOn := some (u.clk.now, BitVec.ofNat 8 c.toNat) } }) c.toNat
  by_cases he : SomeEngine ({ u with ctl := { u.ctl with lastOn := some (u.clk.now, BitVec.ofNat 8 c.toNat) } } : State)
  · rw [(hf.some he).1]
  · rw [(hf.none he).1]

end

theorem FiringStarts.noPending {c : Nat} {s t : State} (h : FiringStarts c s t) : t.pm.onPending = Option.none := by
  by_cases he : SomeEngine s
  · rw [(h.some he).1]
  · rw [(h.none he).1]

/-- Firing that starts from a state with the engines and the configuration of another one. -/
theorem FiringStarts.fires {c : Byte} {ps : List Part} {s u t : State} (h : FiringStarts c.toNat u t) (k : Only ps s u)
    (hp : (Part.cfg ∉ ps ∧ Part.cfgLoaded ∉ ps ∧ Part.sgLoaded ∉ ps) ∧ Part.kiln ∉ ps := by decide) :
    SomeEngine s → t.pm.state = .firing ∧ t.pm.lastCause = c := by
  intro he
  rw [(h.some ((SomeEngine.congr k hp).2 he)).1]
  exact ⟨rfl, BitVec.ofNat_toNat ..⟩

theorem FiringStarts.runs {c : Nat} {ps : List Part} {s u t : State} (h : FiringStarts c u t) (k : Only ps s u)
    (hp : (Part.cfg ∉ ps ∧ Part.cfgLoaded ∉ ps ∧ Part.sgLoaded ∉ ps) ∧ Part.kiln ∉ ps := by decide) :
    ¬ SomeEngine s → t.pm.state = .running := by
  intro he
  rw [(h.none (fun hu => he ((SomeEngine.congr k hp).1 hu))).1]

/-! ## A handover that ends early (R273) -/

/-- The device tells its counterpart at the tick of a timeout. -/
theorem State.told_at (s : State) (due msg : Nat) (r : BitVec 4) :
    ((s.till due).tellReason s.twin.address msg r).twin = { s.twin with reason := r, msgSeq := s.twin.msgSeq + 1 }
      ∧ Only [.clk, .ring, .twin] s ((s.till due).tellReason s.twin.address msg r) :=
  ⟨(s.till due).tellReason_twin _ _ _, ((s.till_only due).mono rfl).trans ((State.tellReason_only _ _ _ _).mono rfl)⟩

section
variable {s : State} {src reason : Nat}

/-- The serving side of a handover given up, with what twin_state reads then. -/
def State.unserved (s : State) (st : TwinState) : State :=
  { s with twin := { s.twin with hand := .none, address := 0, uid := 0, state := st } }

theorem State.diverge_eq (u : State) : u.diverge = { u with twin := { u.twin with
    state := if u.twin.state = .solo ∧ u.twin.peerSolo = true then .diverged else u.twin.state } } := by
  unfold State.diverge
  split <;> rfl

theorem State.serveFails_eq : s.serveFails reason = State.releaseHeld (s.unserved
    (if s.twin.state = .solo ∧ s.twin.peerSolo = true ∧ (reason = 3 ∨ reason = 7 ∨ reason = 8) then .diverged else s.twin.state)) := by
  unfold State.serveFails
  dsimp only
  by_cases hr : reason = 3 ∨ reason = 7 ∨ reason = 8
  · rw [if_pos hr, State.diverge_eq]
    simp only [hr, and_true]
    rfl
  · rw [if_neg hr, if_neg (fun k => hr k.2.2)]
    rfl

theorem State.serveFails_kept (h : s.twin.heldOn = []) (hp : s.pm.onPending = none ∨ s.mayFire = false) :
    s.serveFails reason = s.unserved
      (if s.twin.state = .solo ∧ s.twin.peerSolo = true ∧ (reason = 3 ∨ reason = 7 ∨ reason = 8) then .diverged else s.twin.state) := by
  rw [State.serveFails_eq]
  exact State.releaseHeld_idle (s := s.unserved _) h hp

/-- At the timeout of a handover no reason leaves the serving device diverged. -/
theorem State.serveFails_zero : s.serveFails 0 = (s.unserved s.twin.state).releaseHeld := by
  rw [State.serveFails_eq, if_neg (fun k => absurd k.2.2 (by decide))]

theorem State.takeAbort_serving {due : Nat} (hs : src = s.twin.address) (h0 : s.twin.address ≠ 0) (hj : s.twin.hand = .sSync due)
    (h : s.twin.heldOn = []) (hp : s.pm.onPending = none ∨ s.mayFire = false) : s.takeAbort src reason
      = State.unserved { s with twin := { s.twin with reason := BitVec.ofNat 4 reason } }
        (if s.twin.state = .solo ∧ s.twin.peerSolo = true ∧ (reason = 3 ∨ reason = 7 ∨ reason = 8) then .diverged else s.twin.state) := by
  unfold State.takeAbort
  rw [if_neg (by rw [hs]; simpa using h0), hj]
  exact State.serveFails_kept (s := { s with twin := { s.twin with reason := BitVec.ofNat 4 reason } }) h hp

theorem State.takeAbort_late (hs : src = s.twin.address) (h0 : s.twin.address ≠ 0) (hj : s.twin.hand = .none)
    (hc : s.twin.state = .co) : s.takeAbort src reason
      = State.aloneAgain { s with twin := { s.twin with reason := BitVec.ofNat 4 reason } } (100 * msTicks) := by
  unfold State.takeAbort
  rw [if_neg (by rw [hs]; simpa using h0), hj]
  exact if_pos hc

theorem execHandoverTimeout_idle (h : s.twin.hand.holds = false) : execHandoverTimeout s = .next s := by
  unfold execHandoverTimeout
  cases hj : s.twin.hand with
  | sSync due => rw [hj] at h; cases h
  | jReady p due => rw [hj] at h; cases h
  | _ => rfl

theorem execHandoverTimeout_serving {due : Nat} (h : s.twin.hand = .sSync due) :
    execHandoverTimeout s = .next (((s.till due).tellReason s.twin.address 8 4).serveFails 0) := by
  unfold execHandoverTimeout
  rw [h]
  rfl

theorem execHandoverTimeout_joining {p : List Byte} {due : Nat} (h : s.twin.hand = .jReady p due) :
    execHandoverTimeout s = .next (s.till due).joinFails := by
  unfold execHandoverTimeout
  rw [h]

theorem State.joinFails_kept (h : s.twin.heldOn = []) (hp : s.pm.onPending = none ∨ s.mayFire = false) :
    s.joinFails = { s with twin := { s.twin with hand := .none, address := 0, seekDue := some (s.clk.now + 100 * msTicks) } } :=
  State.releaseHeld_idle (s := { s with twin := { s.twin with
    hand := .none, address := 0, seekDue := some (s.clk.now + 100 * msTicks) } }) h hp

theorem State.takeAbort_joining (hs : src = s.twin.address) (h0 : s.twin.address ≠ 0)
    (hj : s.twin.hand = .jProof ∨ ∃ p due, s.twin.hand = .jReady p due) (h : s.twin.heldOn = [])
    (hp : s.pm.onPending = none ∨ s.mayFire = false) : s.takeAbort src reason = { s with twin := { s.twin with
      reason := BitVec.ofNat 4 reason, hand := .none, address := 0, seekDue := some (s.clk.now + 100 * msTicks) } } := by
  have hk := State.joinFails_kept (s := { s with twin := { s.twin with reason := BitVec.ofNat 4 reason } }) h hp
  unfold State.takeAbort
  rw [if_neg (by rw [hs]; simpa using h0)]
  obtain hj | ⟨p, due, hj⟩ := hj
  · rw [hj]
    exact hk
  · rw [hj]
    exact hk

end

/-- Settles O50: each way in which a handover ends early, by the side that the device is on. -/
theorem interruptedHandovers : Obligations.InterruptedHandovers := by
  unfold Obligations.InterruptedHandovers
  refine ⟨fun a s h hs h0 hh hp hj => ?_, fun a due s h hs h0 hh hp hj => ?_, fun a s h hs h0 hj hc => ?_, fun s h => ?_,
    fun due s h hh hp => ?_, fun c due s h hh hp hm => ?_, fun p due s h hh hp => ?_, fun c due s h hh hs hm hj => ?_⟩
  · refine Answers.of_exec (congrArg Host.Outcome.next ((h.onTwin _).trans (State.takeAbort_joining (s := s.noteFrame a) hs h0 hj hh hp))) ?_
    exact ⟨rfl, rfl, rfl, rfl, ⟨rfl, rfl, rfl, rfl, rfl⟩, rfl, (Only.refl _ s).mk_upd⟩
  · refine Answers.of_exec (congrArg Host.Outcome.next ((h.onTwin _).trans (State.takeAbort_serving (s := s.noteFrame a) hs h0 hj hh hp))) ?_
    exact ⟨rfl, rfl, rfl, rfl, (Only.refl _ s).mk_upd⟩
  · refine Answers.of_exec (congrArg Host.Outcome.next ((h.onTwin _).trans (State.takeAbort_late (s := s.noteFrame a) hs h0 hj hc))) ?_
    exact ⟨rfl, rfl, rfl, rfl, (Only.refl _ s).mk_upd⟩
  · exact Answers.of_exec (execHandoverTimeout_idle h) rfl
  · obtain ⟨hw, hv⟩ := s.told_at due 8 4
    have hk := (State.serveFails_zero (s := (s.till due).tellReason s.twin.address 8 4)).trans
      (State.releaseHeld_idle ((congrArg Twin.heldOn hw).trans hh)
        (hp.imp (fun h => (congrArg Pm.onPending hv.pm_eq).trans h) (fun h => (State.mayFire_congr hv).trans h)))
    refine Answers.of_exec ((execHandoverTimeout_serving h).trans (congrArg Host.Outcome.next hk)) ⟨?_, rfl, congrArg Twin.reason hw,
      (congrArg Twin.state hw : ((s.till due).tellReason s.twin.address 8 4).twin.state = _), Tells.of_tellReason (u := s.till due) (s.till_linkOpen due .a) rfl,
      (hv.trans (Only.refl _ _).mk_upd).mono rfl⟩
    exact (congrArg Clk.now (State.tellReason_only _ _ _ _).clk_eq).trans (s.till_clock due)
  · obtain ⟨hw, hv⟩ := s.told_at due 8 4
    let u := ((s.till due).tellReason s.twin.address 8 4).unserved ((s.till due).tellReason s.twin.address 8 4).twin.state
    have hu : Only [.clk, .ring, .twin] s u := hv.trans (Only.refl _ _).mk_upd
    have hk : ((s.till due).tellReason s.twin.address 8 4).serveFails 0 = u.fireStart c.toNat := by
      rw [State.serveFails_zero, State.releaseHeld_none (s := State.unserved _ _) ((congrArg Twin.heldOn hw).trans hh)]
      exact State.tryPending_fires (s := u) ((congrArg Pm.onPending hu.pm_eq).trans hp) ((State.mayFire_congr hu).trans hm) rfl
    refine Answers.of_exec ((execHandoverTimeout_serving h).trans (congrArg Host.Outcome.next hk)) ?_
    have hf := u.fireStart_starts (cause := c.toNat)
    exact ⟨congrArg Twin.hand hf.only.twin_eq, hf.noPending, hf.fires hu, hf.runs hu⟩
  · refine Answers.of_exec ((execHandoverTimeout_joining h).trans (congrArg Host.Outcome.next
      (State.joinFails_kept (s := s.till due) hh hp))) ?_
    exact ⟨s.till_clock due, rfl, rfl, rfl, ((s.till_only due).mono rfl).trans (Only.refl _ _).mk_upd⟩
  · obtain ⟨hw, hv⟩ := s.told_at due 8 4
    let u := ((s.till due).tellReason s.twin.address 8 4).unserved ((s.till due).tellReason s.twin.address 8 4).twin.state
    let v : State := { u with
      ctl := { u.ctl with lastOn := some (u.clk.now, BitVec.ofNat 8 c.toNat) }, twin := { u.twin with heldOn := [] } }
    have hu : Only [.ring, .twin] (s.till due) u := (State.tellReason_only _ _ _ _).trans (Only.refl _ _).mk_upd
    have hs' : Only [.clk, .ctl, .ring, .twin] s v := ((s.till_only due).mono rfl).trans ((hu.mono rfl).trans (Only.refl _ _).mk_upd)
    have hst : u.twin.state = .solo := (congrArg Twin.state hw).trans hs
    have hk : ((s.till due).tellReason s.twin.address 8 4).serveFails 0 = v.fireStart c.toNat := by
      rw [State.serveFails_zero]
      exact State.releaseHeld_one (s := u) ((congrArg Twin.heldOn hw).trans hh) (by rw [hst]; decide) ((State.onJoins_congr hu).trans hj)
        ((State.mayFire_congr hu).trans hm) rfl
    refine Answers.of_exec ((execHandoverTimeout_serving h).trans (congrArg Host.Outcome.next hk)) ?_
    have hf := v.fireStart_starts (cause := c.toNat)
    exact ⟨congrArg Twin.heldOn hf.only.twin_eq, congrArg Twin.hand hf.only.twin_eq, hf.fires hs', hf.runs hs'⟩

end Sys2Proof.Machine
end

section
/-! SUPPORT. Faults received in Ready to Cooling, enabled rails, and the handover (O49). -/

set_option Elab.async false

namespace Sys2Proof.Machine

/-! ## Faults received in Ready to Cooling, one after the other -/

/-- What faults received in Ready to Cooling leave: nothing of the power mode and the engines while no shutdown starts, at most the
engines aborted once one has. -/
structure Received (s t : State) : Prop where
  frame : FaultFrame s t
  latch : s.pm.faultLatch = true → t.pm.faultLatch = true
  heldOn : s.twin.heldOn = [] → t.twin.heldOn = []
  course : (t.pm = s.pm ∧ t.kiln = s.kiln) ∨ (s.pm.state = .cooling ∧ t.pm.state = .cooling ∧ t.kiln = s.kiln)
    ∨ (s.pm.state ≠ .cooling ∧ t.pm.state = .cooling ∧ t.pm.faultLatch = true ∧ t.kiln = s.abortEngines.kiln)

namespace Received

variable {s t u : State}

theorem refl (s : State) : Received s s := ⟨.refl s, id, id, .inl ⟨rfl, rfl⟩⟩

theorem trans (h : Received s t) (k : Received t u) : Received s u := by
  refine ⟨h.frame.trans k.frame, k.latch ∘ h.latch, k.heldOn ∘ h.heldOn, ?_⟩
  have hab : t.kiln = s.kiln → t.abortEngines.kiln = s.abortEngines.kiln := fun he => by
    unfold State.abortEngines
    rw [he]
  obtain ⟨hp, hk⟩ | ⟨h0, h1, hk⟩ | ⟨h0, h1, h2, hk⟩ := h.course
  · obtain ⟨kp, kk⟩ | ⟨k0, k1, kk⟩ | ⟨k0, k1, k2, kk⟩ := k.course
    · exact .inl ⟨kp.trans hp, kk.trans hk⟩
    · exact .inr (.inl ⟨hp ▸ k0, k1, kk.trans hk⟩)
    · exact .inr (.inr ⟨hp ▸ k0, k1, k2, kk.trans (hab hk)⟩)
  · obtain ⟨kp, kk⟩ | ⟨k0, k1, kk⟩ | ⟨k0, k1, k2, kk⟩ := k.course
    · exact .inr (.inl ⟨h0, by rw [kp, h1], kk.trans hk⟩)
    · exact .inr (.inl ⟨h0, k1, kk.trans hk⟩)
    · exact absurd h1 k0
  · obtain ⟨kp, kk⟩ | ⟨k0, k1, kk⟩ | ⟨k0, k1, k2, kk⟩ := k.course
    · exact .inr (.inr ⟨h0, by rw [kp, h1], k.latch h2, kk.trans hk⟩)
    · exact .inr (.inr ⟨h0, k1, k.latch h2, kk.trans hk⟩)
    · exact absurd h1 k0

theorem logs (h : Received s t) (hs : s.pm.state.logs = true) : t.pm.state.logs = true := h.frame.live hs

/-- What changes neither the power mode, the engines nor the twin. -/
theorem of_frame {ps : List Part} (hf : FaultFrame s t) (h : Only ps s t)
    (hp : Part.pm ∉ ps ∧ Part.kiln ∉ ps ∧ Part.twin ∉ ps := by decide) : Received s t :=
  ⟨hf, fun x => by rwa [h.pm_eq hp.1], fun x => by rwa [h.twin_eq hp.2.2], .inl ⟨h.pm_eq hp.1, h.kiln_eq hp.2.1⟩⟩

/-- A fault taken in Cooling, by the records it leaves. -/
theorem of_cooling {ps : List Part} (hf : FaultFrame s t) (h : Only ps s t) (hs : s.pm.state = .cooling) (ht : t.pm.state = .cooling)
    (hl : t.pm.faultLatch = true) (hh : t.twin.heldOn = []) (hp : Part.kiln ∉ ps := by decide) : Received s t :=
  ⟨hf, fun _ => hl, fun _ => hh, .inr (.inl ⟨hs, ht, h.kiln_eq hp⟩)⟩

theorem foldl {α : Type} {f : State → α → State} (hf : ∀ t x, t.pm.state.logs = true → Received t (f t x)) {s : State}
    (hs : s.pm.state.logs = true) (l : List α) : Received s (l.foldl f s) := by
  induction l generalizing s with
  | nil => exact refl s
  | cons x l ih =>
    have hx := hf s x hs
    exact hx.trans (ih (hx.logs hs))

end Received

section
variable (s : State) (f : FaultRec) (table : Nat)

theorem State.enqueue_pm : (s.enqueue f table).pm = { s.pm with faultLatch := true, onPending := none }
    ∧ (s.enqueue f table).twin.heldOn = [] := by
  have hr := s.recordFault_pm f
  have hh := s.recordFault_heldOn f
  unfold State.enqueue
  dsimp only
  generalize s.recordFault f = u at hr hh ⊢
  split
  · exact ⟨(State.faultShard_only _ _ _ _ _).pm_eq.trans hr, (congrArg Twin.heldOn (State.faultShard_only _ _ _ _ _).twin_eq).trans hh⟩
  · split
    · exact ⟨(State.faultShard_only _ _ _ _ _).pm_eq.trans hr, (congrArg Twin.heldOn (State.faultShard_only _ _ _ _ _).twin_eq).trans hh⟩
    · exact ⟨(State.faultShard_only _ _ _ _ _).pm_eq.trans hr, (congrArg Twin.heldOn (State.faultShard_only _ _ _ _ _).twin_eq).trans hh⟩

theorem State.coolT_pm : (s.coolT f table).pm = { s.pm with faultLatch := true, onPending := none }
    ∧ (s.coolT f table).twin.heldOn = [] := by
  unfold State.coolT
  dsimp only
  split
  · exact s.enqueue_pm f table
  · exact s.enqueue_pm f table

theorem State.coolH_pm : (s.coolH f table).pm = { s.pm with faultLatch := true, onPending := none }
    ∧ (s.coolH f table).twin.heldOn = [] := by
  have hw (u : State) (w : Walk) : ({ u.assertTripo with walk := w } : State).pm = u.pm
      ∧ ({ u.assertTripo with walk := w } : State).twin = u.twin := ⟨u.assertTripo_only.pm_eq, u.assertTripo_only.twin_eq⟩
  have hr := (s.faultShard f 0 table 0).recordFault_pm f
  have hh := (s.faultShard f 0 table 0).recordFault_heldOn f
  rw [(s.faultShard_only f 0 table 0).pm_eq] at hr
  unfold State.coolH
  dsimp only
  generalize (s.faultShard f 0 table 0).recordFault f = u at hr hh ⊢
  split
  · exact ⟨((State.walkSwitch_only _ _ _).pm_eq.trans (hw u _).1).trans hr,
      (congrArg Twin.heldOn ((State.walkSwitch_only _ _ _).twin_eq.trans (hw u _).2)).trans hh⟩
  · split
    · have hb := State.walkBegin_only { s.assertTripo with walk := { s.assertTripo.walk with tripDue := none } }
      have hp := hb.pm_eq.trans (hw s _).1
      generalize State.walkBegin { s.assertTripo with walk := { s.assertTripo.walk with tripDue := none } } = v at hp ⊢
      rw [← hp]
      exact v.enqueue_pm f table
    · exact s.enqueue_pm f table

theorem State.startShutdown_heldOn {k : Start} (hk : k ≠ .off) (cause : Nat) (keep : Option (Bool × Nat)) :
    (s.startShutdown k f table cause keep).twin.heldOn = [] := by
  rw [State.startShutdown_eq]
  obtain ⟨-, -, rheld, -, -, -⟩ := s.shutdownRecord_sets k f table
  generalize s.shutdownRecord k f table = r at *
  obtain ⟨-, -, theld⟩ := r.shutdownTell_sets k f table
  generalize r.shutdownTell k f table = t at *
  obtain ⟨eonly, epm, -⟩ := t.shutdownEnter_sets cause keep
  generalize t.shutdownEnter cause keep = e at *
  have wonly := e.shutdownWalk_only k f table s.walk.tripDue.toList
  generalize e.shutdownWalk k f table s.walk.tripDue.toList = w at *
  have hh : w.twin.heldOn = [] := by rw [wonly.twin_eq, eonly.twin_eq, theld, rheld hk]
  have hs : w.pm.state = .cooling := by rw [wonly.pm_eq, epm]
  have hm : w.mayFire = false := by
    unfold State.mayFire
    rw [hs]
    rfl
  unfold State.afterAbort
  split
  · exact hh
  · rw [State.releaseHeld_idle hh (.inr hm), hh]

end

section
variable {s : State}

theorem State.receiveTH_received (h : s.pm.state.logs = true) (f : FaultRec) (table : Nat) : Received s (s.receiveTH f table) := by
  have hf := State.receiveTH_faultFrame (s := s) (fun hs => by rw [hs] at h; cases h) f table
  have hst (k : Start) (hk : k ≠ .off) (cause : Nat) (hs : s.pm.state ≠ .cooling) : Received s (s.startShutdown k f table cause none) := by
    have hx := s.startShutdown_starts k f table cause none
    have hl : (s.startShutdown k f table cause none).pm.faultLatch = true := by
      rw [hx.latch, decide_eq_true hk, Bool.or_true]
    exact ⟨hx.frame, fun _ => hl, fun _ => s.startShutdown_heldOn f table hk cause none, .inr (.inr ⟨hs, hx.state, hl, hx.kiln⟩)⟩
  have hk : (if f.grade = 3 then Start.gradeH else Start.gradeT) ≠ .off := by split <;> decide
  unfold State.receiveTH at hf ⊢
  dsimp only at hf ⊢
  cases hs : s.pm.state with
  | ready | firing | running => exact hst _ hk _ (by rw [hs]; decide)
  | cooling =>
    rw [hs] at hf
    simp only [] at hf ⊢
    split
    · rw [if_pos ‹_›] at hf
      obtain ⟨hp, hh⟩ := s.coolH_pm f table
      exact .of_cooling hf (s.coolH_only f table) hs (by rw [hp, hs]) (by rw [hp]) hh
    · rw [if_neg ‹_›] at hf
      obtain ⟨hp, hh⟩ := s.coolT_pm f table
      exact .of_cooling hf (s.coolT_only f table) hs (by rw [hp, hs]) (by rw [hp]) hh
  | starting | standby | off | coppice => rw [hs] at h; cases h

theorem State.receiveAs_received (h : s.pm.state.logs = true) (f : FaultRec) (table : Nat) : Received s (s.receiveAs f table) := by
  have hn : s.pm.state ≠ .standby := fun hs => by rw [hs] at h; cases h
  unfold State.receiveAs
  split
  · exact .of_frame (s.faultShard_faultFrame f _ _ _) (s.faultShard_only f _ _ _)
  · split
    · have hf := State.receiveW_faultFrame hn f
      have ho : Only [.ctl, .irq, .log] s ((State.irqCt { s with ctl := { s.ctl with
          warnCount := inc 65535 s.ctl.warnCount } } 0).faultShard f 3 0xFF 0) :=
        ((Only.refl [.ctl, .irq, .log] s).mk_upd.trans ((State.irqCt_only _ _).mono rfl)).trans ((State.faultShard_only _ _ _ _ _).mono rfl)
      unfold State.receiveW at hf ⊢
      cases hs : s.pm.state with
      | ready | firing | running | cooling =>
        rw [hs] at hf
        exact .of_frame hf ho
      | starting | standby | off | coppice => rw [hs] at h; cases h
    · exact State.receiveTH_received h f table

theorem State.receive_received (h : s.pm.state.logs = true) (f : FaultRec) : Received s (s.receive f) := State.receiveAs_received h f _

theorem State.deliver_received (h : s.pm.state.logs = true) (e : FaultRec × Nat) : Received s (s.deliver e) := by
  unfold State.deliver
  split
  · exact .of_frame (ps := [.fault]) (.withFault rfl) (Only.refl _ s).mk_upd
  · exact State.receive_received h _

theorem State.endPersist_received (h : s.pm.state.logs = true) (src : Nat) : Received s (s.endPersist src) := by
  have h1 : Received s { s with fault := { s.fault with persist := s.fault.persist.filter (fun p => p.1 != src) } } :=
    .of_frame (ps := [.fault]) (.withFault rfl) (Only.refl _ s).mk_upd
  exact h1.trans (Received.foldl (s := { s with fault := { s.fault with persist := s.fault.persist.filter (fun p => p.1 != src) } })
    (f := fun (u : State) (p : Nat × Nat × Nat) => u.receive (persistFault p.1 p.2.1 (if u.clk.now < p.2.2 then 1 else 2)))
    (fun t p ht => State.receive_received ht _) h _)

/-- The faults that a change of comparators brings, from the state in which the CHECKs and the sweep have seen it. -/
theorem State.coreSees_received (h : s.pm.state.logs = true) (old : State) (srcs : List Nat) :
    Received s.observeChecks.sweepSees (s.coreSees old srcs) := by
  have hl : s.observeChecks.sweepSees.pm.state.logs = true := by
    rw [(State.sweepSees_only _).pm_eq, s.observeChecks_only.pm_eq]
    exact h
  have hd (l : List (FaultRec × Nat)) := Received.foldl (f := State.deliver) (fun t e ht => State.deliver_received ht e) hl l
  unfold State.coreSees
  dsimp only
  exact (hd _).trans (Received.foldl (f := State.endPersist) (fun t src ht => State.endPersist_received ht src) ((hd _).logs hl) _)

/-! ## A change of comparators in Ready to Cooling -/

theorem State.observeEngine_length (k : Nat) : (s.observeEngine k).kiln.engines.length = s.kiln.engines.length := by
  unfold State.observeEngine
  split
  · exact modNth_length _ _ _
  · rfl

theorem State.observeChecks_length : s.observeChecks.kiln.engines.length = s.kiln.engines.length := by
  have h (l : List Nat) (u : State) : (l.foldl State.observeEngine u).kiln.engines.length = u.kiln.engines.length := by
    induction l generalizing u with
    | nil => rfl
    | cons k l ih => exact (ih _).trans (State.observeEngine_length k)
  exact h _ s

/-- What a change of comparators in Ready to Cooling can bring: faults, of which one that starts a shutdown leads to Cooling. -/
structure Sensed (s t : State) : Prop where
  frame : FaultFrame s t
  latch : s.pm.faultLatch = true → t.pm.faultLatch = true
  heldOn : s.twin.heldOn = [] → t.twin.heldOn = []
  length : t.kiln.engines.length = s.kiln.engines.length
  course : t.pm = s.pm ∨ t.pm.state = .cooling

theorem State.senseChange_sensed (h : s.pm.state.logs = true) (old : State) (srcs : List Nat) : Sensed s (s.senseChange old srcs) := by
  have hn : s.pm.state ≠ .standby := fun hs => by rw [hs] at h; cases h
  have hf := State.senseChange_faultFrame hn old srcs
  have ha : Only [.sense, .irq, .pwm] s ((s.armAll srcs).refreshFlt old) :=
    ((State.armAll_only _ _).mono rfl).trans ((State.refreshFlt_only _ _).mono rfl)
  unfold State.senseChange at hf ⊢
  dsimp only at hf ⊢
  generalize (s.armAll srcs).refreshFlt old = u at ha hf ⊢
  split
  · rw [if_pos ‹_›] at hf
    exact ⟨hf, fun x => by rwa [ha.pm_eq], fun x => by rwa [ha.twin_eq], by rw [ha.kiln_eq], .inl ha.pm_eq⟩
  · rw [if_neg ‹_›] at hf
    have hs : Only [.mg, .log, .free, .kiln] u u.observeChecks.sweepSees :=
      ((State.observeChecks_only _).mono rfl).trans ((State.sweepSees_only _).mono rfl)
    have hr := State.coreSees_received (s := u) (by rw [ha.pm_eq]; exact h) old srcs
    have hp := hs.pm_eq.trans ha.pm_eq
    have hw := hs.twin_eq.trans ha.twin_eq
    have hk : u.observeChecks.sweepSees.kiln.engines.length = s.kiln.engines.length := by
      rw [(State.sweepSees_only _).kiln_eq, State.observeChecks_length, ha.kiln_eq]
    generalize u.coreSees old srcs = v at hr hf ⊢
    refine ⟨hf, fun x => hr.latch (by rwa [hp]), fun x => hr.heldOn (by rwa [hw]), ?_, ?_⟩
    · obtain ⟨-, he⟩ | ⟨-, -, he⟩ | ⟨-, -, -, he⟩ := hr.course
      · rw [he, hk]
      · rw [he, hk]
      · rw [he]
        exact (List.length_map ..).trans hk
    · obtain ⟨he, -⟩ | ⟨-, he, -⟩ | ⟨-, he, -, -⟩ := hr.course
      · exact .inl (he.trans hp)
      · exact .inr he
      · exact .inr he

/-- Rails enabled in Ready to Cooling: their outputs, and what the comparators bring. -/
theorem State.enHigh_sensed (h : s.pm.state.logs = true) (mask : Rails) (hm : mask &&& ~~~s.out.en ≠ 0) :
    ∃ u, Only [.out, .mg, .sense] s u ∧ u.out = { s.out with en := s.out.en ||| (mask &&& ~~~s.out.en) } ∧ Sensed u (s.enHigh mask) := by
  let t : State := { s with out := { s.out with en := s.out.en ||| (mask &&& ~~~s.out.en) } }
  let v := (bitsOf (mask &&& ~~~s.out.en)).foldl (fun (u : State) n => if (u.trim n).level = 5 then u.trimNominal n else u) t
  let w := (srcsOf (mask &&& ~~~s.out.en)).foldl State.cmpEnable v
  have hv : Only [.mg] t v := Only.foldl _ (Only.refl _ t) (fun u n hu => Only.ite (hu.trans (u.trimNominal_only n)) hu)
  have hw : Only [.sense] v w := Only.foldl _ (Only.refl _ v) (fun u n hu => hu.trans (u.cmpEnable_only n))
  have ht : Only [.out] s t := (Only.refl _ s).mk_upd
  have ho : Only [.out, .mg, .sense] s w := (ht.mono rfl).trans ((hv.mono rfl).trans (hw.mono rfl))
  refine ⟨w, ho, ?_, ?_⟩
  · rw [hw.out_eq, hv.out_eq]
  · have he : s.enHigh mask = w.senseChange s (srcsOf (mask &&& ~~~s.out.en)) := if_neg hm
    rw [he]
    exact State.senseChange_sensed (by rw [ho.pm_eq]; exact h) _ _

end

/-! ## What a message that leaves keeps -/

section
variable (s : State) (dest msg : Nat) (body : List Byte) (r : BitVec 4)

theorem State.sendTwin_hand : (s.sendTwin dest msg body).twin.hand = s.twin.hand := by rw [State.sendTwin_twin]

theorem State.sendTwin_state : (s.sendTwin dest msg body).twin.state = s.twin.state := by rw [State.sendTwin_twin]

theorem State.sendTwin_address : (s.sendTwin dest msg body).twin.address = s.twin.address := by rw [State.sendTwin_twin]

theorem State.sendTwin_uid : (s.sendTwin dest msg body).twin.uid = s.twin.uid := by rw [State.sendTwin_twin]

theorem State.sendTwin_heldOn : (s.sendTwin dest msg body).twin.heldOn = s.twin.heldOn := by rw [State.sendTwin_twin]

theorem State.tellReason_hand : (s.tellReason dest msg r).twin.hand = s.twin.hand := by rw [State.tellReason_twin]

theorem State.tellReason_state : (s.tellReason dest msg r).twin.state = s.twin.state := by rw [State.tellReason_twin]

theorem State.tellReason_reason : (s.tellReason dest msg r).twin.reason = r := by rw [State.tellReason_twin]

theorem State.tellReason_seekDue : (s.tellReason dest msg r).twin.seekDue = s.twin.seekDue := by rw [State.tellReason_twin]

variable {s} {a : State}

theorem SamePair.sendTwin (h : SamePair a s) : SamePair a (s.sendTwin dest msg body) := by
  unfold SamePair at h ⊢
  rw [State.sendTwin_twin]
  exact h

theorem SamePair.tellReason (h : SamePair a s) : SamePair a (s.tellReason dest msg r) := by
  unfold SamePair at h ⊢
  rw [State.tellReason_twin]
  exact h

theorem Tells.sent (hl : s.linkOpen .a = a.linkOpen .a) (hm : s.twin.msgSeq = a.twin.msgSeq) :
    Tells dest msg body a (s.sendTwin dest msg body) := .of_sendTwin hl hm (fun _ h => h)

theorem Only.sendTwin (h : Only [.twin, .ring] a s) : Only [.twin, .ring] a (s.sendTwin dest msg body) :=
  h.trans ((State.sendTwin_only _ _ _ _).mono rfl)

theorem Only.tellReason (h : Only [.twin, .ring] a s) : Only [.twin, .ring] a (s.tellReason dest msg r) :=
  h.trans ((State.tellReason_only _ _ _ _).mono rfl)

end

/-! ## Messages of a handover (R272) -/

section
variable {s : State} {src : Nat} {p : List Byte}

theorem State.takeChallenge_proof (hj : s.twin.hand = .jSeek) (hm : s.mayJoin = true) (hr : s.readyOrRunning = true) :
    s.takeChallenge src p = State.sendTwin { s with twin := { s.twin with
      hand := .jProof, address := src, seekFrom := if s.out.passive then some s.clk.now else none } } src 3
      (digestBytes (s.proofFor (leAt p 0 16) s.ident.uid)) := by
  unfold State.takeChallenge
  rw [if_neg (fun k => by rw [hr] at k; exact Bool.false_ne_true k.2.2.1.symm), if_pos ⟨hj, hm, hr⟩]

theorem State.takeChallenge_abort (hj : s.twin.hand = .jSeek) (hm : s.mayJoin = true) (hr : s.readyOrRunning = false)
    (hp : s.out.passive = false) : s.takeChallenge src p
      = State.tellReason { s with twin := { s.twin with hand := .none, state := .diverged } } src 8 7 := by
  unfold State.takeChallenge
  rw [if_pos ⟨hj, hm, hr, hp⟩]

theorem State.takeProof_sync {n : BitVec 128} {uid : Uid} (hj : s.twin.hand = .sChallenge n uid) (hs : src = s.twin.address)
    (hr : s.readyOrRunning = true) (hd : leAt p 0 32 = (s.proofFor n.toNat uid).toNat) : s.takeProof src p
      = State.sendTwin { s with twin := { s.twin with hand := .sSync (s.clk.now + 2 * msTicks), uid := uid } } src 5 s.syncBody := by
  unfold State.takeProof
  rw [hj]
  dsimp only
  rw [if_neg (fun k => k hs), if_neg (fun k => k hd), hr]
  rfl

theorem State.takeProof_wrong {n : BitVec 128} {uid : Uid} (hj : s.twin.hand = .sChallenge n uid) (hs : src = s.twin.address)
    (hd : leAt p 0 32 ≠ (s.proofFor n.toNat uid).toNat) : s.takeProof src p
      = State.tellReason { s with twin := { s.twin with hand := .none, address := 0 } } src 4 1 := by
  unfold State.takeProof
  rw [hj]
  dsimp only
  rw [if_neg (fun k => k hs), if_pos hd]

theorem State.takeProof_late {n : BitVec 128} {uid : Uid} (hj : s.twin.hand = .sChallenge n uid) (hs : src = s.twin.address)
    (hr : s.readyOrRunning = false) (hd : leAt p 0 32 = (s.proofFor n.toNat uid).toNat) : s.takeProof src p
      = State.tellReason (State.diverge { s with twin := { s.twin with hand := .none, address := 0 } }) src 4 7 := by
  unfold State.takeProof
  rw [hj]
  dsimp only
  rw [if_neg (fun k => k hs), if_neg (fun k => k hd), hr]
  rfl

theorem State.takeRefuse_seeking (hj : s.twin.hand = .jSeek) (reason : Nat) : s.takeRefuse src reason = s.noteRefuse reason := by
  unfold State.takeRefuse
  rw [hj]

theorem State.takeRefuse_proving (hj : s.twin.hand = .jProof) (hs : src = s.twin.address) (reason : Nat) :
    s.takeRefuse src reason = State.noteRefuse { s with twin := { s.twin with hand := .none, address := 0 } } reason := by
  unfold State.takeRefuse
  rw [hj]
  exact if_neg (fun k => k hs)

theorem State.takeRefuse_apart (hn : s.twin.hand ≠ .jSeek) (h : s.twin.hand ≠ .jProof ∨ src ≠ s.twin.address) (reason : Nat) :
    s.takeRefuse src reason = s := by
  unfold State.takeRefuse
  cases hj : s.twin.hand with
  | jSeek => exact absurd hj hn
  | jProof => exact if_pos (h.resolve_left (fun k => k hj))
  | _ => rfl

/-- A twin's late answer leaves a device that is alone diverged, and any other as it was. -/
theorem State.noteRefuse_state (reason : Nat) : (s.out.passive = true ∨ reason ≠ 7 → (s.noteRefuse reason).twin.state = s.twin.state)
    ∧ (s.out.passive = false → reason = 7 → (s.noteRefuse reason).twin.state = .diverged) := by
  refine ⟨fun h => if_neg ?_, fun h h7 => if_pos ?_⟩
  · obtain h | h := h
    · rw [h]
      simp
    · simp [h]
  · rw [h, h7]
    rfl

theorem State.takeSync_ready (hj : s.twin.hand = .jProof) (hs : src = s.twin.address) (hr : s.readyOrRunning = true)
    (ho : s.syncObjection p = none) : s.takeSync src p
      = State.sendTwin { s with twin := { s.twin with hand := .jReady p (s.clk.now + 2 * msTicks) } } src 6 [] := by
  unfold State.takeSync
  rw [if_pos ⟨hj, hs, hr⟩, ho]

theorem State.takeSync_abort {r : BitVec 4} (hj : s.twin.hand = .jProof) (hs : src = s.twin.address) (hr : s.readyOrRunning = true)
    (ho : s.syncObjection p = some r) : s.takeSync src p = State.tellReason { s with twin := { s.twin with
        hand := .none, address := 0, seekDue := if s.out.passive then some (s.clk.now + 100 * msTicks) else none
        state := if s.out.passive then s.twin.state else .diverged } } src 8 r := by
  unfold State.takeSync
  rw [if_pos ⟨hj, hs, hr⟩, ho]

theorem State.takeReady_commits {due : Nat} (hj : s.twin.hand = .sSync due) (hs : src = s.twin.address) :
    s.takeReady src = ((s.sendTwin src 7 []).pairUp).releaseHeld := by
  unfold State.takeReady
  rw [hj]
  exact if_pos hs

theorem State.takeCommit_takes {q : List Byte} {due : Nat} (hj : s.twin.hand = .jReady q due) (hs : src = s.twin.address) :
    s.takeCommit src = ((s.takeOver q).pairUp).releaseHeld := by
  unfold State.takeCommit
  rw [hj]
  exact if_pos hs

theorem State.syncObjection_passive (hp : s.out.passive = true) : s.syncObjection p
    = if s.inp.enHigh ≠ syncMask p then some 3 else if s.pm.faultLatch = true ∧ byteAt p 1 ≠ 1 then some 8 else none := by
  unfold State.syncObjection
  simp only [hp, Bool.not_true, Bool.false_and, Bool.and_eq_true, Bool.not_eq_true', beq_eq_false_iff_ne, ite_true]
  rfl

theorem State.syncObjection_alone (hp : s.out.passive = false) : s.syncObjection p
    = if s.out.en ≠ syncMask p then some 3 else if (s.pm.faultLatch = true ↔ byteAt p 1 = 1) then none else some 8 := by
  unfold State.syncObjection
  simp only [hp]
  cases s.pm.faultLatch <;> by_cases h1 : byteAt p 1 = 1 <;> simp [h1]

end

/-! ## COMMIT at the joining device -/

section
variable (s : State) (p : List Byte)

/-- The pins of the joining device at COMMIT. -/
def State.takeOverPins : State := State.updateTwok { s with out := { s.out with passive := false, enpu := true } }

/-- The engines, fail bits, counts and T_OFFMIN that SYNC brings. -/
def State.takeOverState : State :=
  { s with
    kiln := { s.kiln with
      engines := s.kiln.engines.mapIdx (engineFrom p)
      failBits := BitVec.ofNat 64 (leAt p 30 8)
      chatter := ((List.range 64).map (fun n => (n, byteAt p (38 + n)))).filter (fun e => e.2 != 0) }
    pm := { s.pm with offMinDue := if leAt p 102 2 = 0 then none else some (s.clk.now + leAt p 102 2 * msTicks) } }

/-- The latch, the trim outputs and the state of the serving device, taken over. -/
def State.takeOverEnd : State :=
  let t := (List.range 64).foldl State.trimNominal (if byteAt p 1 = 1 then s.setLatch else s)
  if byteAt p 0 = 5 ∧ t.pm.state = .ready then t.enterRunning else t

theorem State.takeOver_eq : s.takeOver p = State.takeOverEnd (State.takeOverState (s.takeOverPins.enHigh (syncMask p)) p) p := rfl

/-- What the enabled rails bring by the tick of COMMIT. -/
structure Enabled (t : State) : Prop where
  out : t.out = { s.out with passive := false, enpu := true, twok := s.twinEn, en := syncMask p, pfw := t.out.pfw, tripo := t.out.tripo }
  latch : s.pm.faultLatch = true → t.pm.faultLatch = true
  heldOn : t.twin.heldOn = []
  length : t.kiln.engines.length = 5
  course : t.pm = s.pm ∨ t.pm.state = .cooling
  kept : syncMask p = 0 → t.pm = s.pm
  clk : t.clk = s.clk

variable {s p}

theorem State.enHigh_enabled (he : s.out.en = 0) (hh : s.twin.heldOn = []) (hr : s.pm.state = .ready)
    (hl : s.kiln.engines.length = 5) : Enabled s p (s.takeOverPins.enHigh (syncMask p)) := by
  have ho : s.takeOverPins.out = { s.out with passive := false, enpu := true, twok := s.twinEn } := by
    have ht : (s.twinEn && !false && s.pm.state.logs) = s.twinEn := by
      rw [hr]
      simp [DevState.logs]
    exact congrArg (fun b => ({ s.out with passive := false, enpu := true, twok := b } : Out)) ht
  have hu : Only [.out] s s.takeOverPins := (Only.refl _ s).mk_upd
  have hm : syncMask p &&& ~~~s.takeOverPins.out.en = syncMask p := by
    rw [ho, he]
    exact BitVec.and_allOnes
  have hlogs : s.takeOverPins.pm.state.logs = true := by
    rw [hu.pm_eq, hr]
    rfl
  have hn : s.takeOverPins.kiln.engines.length = 5 := hl
  generalize s.takeOverPins = v at ho hu hm hlogs hn ⊢
  by_cases h0 : syncMask p = 0
  · have hv : v.enHigh (syncMask p) = v := if_pos (hm.trans h0)
    rw [hv]
    exact ⟨by rw [ho, h0, ← he], fun k => by rwa [hu.pm_eq], by rw [hu.twin_eq, hh], hn, .inl hu.pm_eq, fun _ => hu.pm_eq, hu.clk_eq⟩
  · obtain ⟨w, hw, hwo, hs⟩ := State.enHigh_sensed hlogs (syncMask p) (by rwa [hm])
    have hwo' : w.out = { s.out with passive := false, enpu := true, twok := s.twinEn, en := syncMask p } := by
      rw [hwo, hm, ho]
      simp [he]
    have hp : w.pm = s.pm := hw.pm_eq.trans hu.pm_eq
    exact ⟨by rw [hs.frame.out, hwo'], fun k => hs.latch (by rwa [hp]), hs.heldOn (by rw [hw.twin_eq, hu.twin_eq, hh]),
      by rw [hs.length, hw.kiln_eq, hn], hp ▸ hs.course, fun k => absurd k h0, by rw [hs.frame.only.clk_eq, hw.clk_eq, hu.clk_eq]⟩

/-- The end of the takeover, by what it finds. -/
theorem State.takeOverEnd_pm : (s.takeOverEnd p).pm = { s.pm with
    faultLatch := s.pm.faultLatch || decide (byteAt p 1 = 1)
    onPending := if byteAt p 1 = 1 then none else s.pm.onPending
    state := if byteAt p 0 = 5 ∧ s.pm.state = .ready then .running else s.pm.state
    lastCause := if byteAt p 0 = 5 ∧ s.pm.state = .ready then 0x18 else s.pm.lastCause } := by
  unfold State.takeOverEnd
  dsimp only
  have hv : (if byteAt p 1 = 1 then s.setLatch else s).pm = { s.pm with
      faultLatch := s.pm.faultLatch || decide (byteAt p 1 = 1), onPending := if byteAt p 1 = 1 then none else s.pm.onPending } := by
    by_cases h1 : byteAt p 1 = 1
    · simp only [if_pos h1, decide_eq_true h1, Bool.or_true]
      rfl
    · simp only [if_neg h1, decide_eq_false h1, Bool.or_false]
  generalize (if byteAt p 1 = 1 then s.setLatch else s) = v at hv ⊢
  have hf : Only [.mg] v ((List.range 64).foldl State.trimNominal v) :=
    Only.foldl _ (Only.refl _ v) (fun u n hu => hu.trans (u.trimNominal_only n))
  have hp := hf.pm_eq.trans hv
  generalize (List.range 64).foldl State.trimNominal v = w at hp ⊢
  have hs : w.pm.state = s.pm.state := by rw [hp]
  rw [hs]
  by_cases h5 : byteAt p 0 = 5 ∧ s.pm.state = .ready
  · simp only [if_pos h5, State.enterRunning_pm, hp]
  · simp only [if_neg h5, hp]

theorem State.takeOverEnd_only : Only [.pm, .ctl, .mg, .log, .twin] s (s.takeOverEnd p) := by
  unfold State.takeOverEnd
  dsimp only
  have hv : Only [.pm, .ctl, .twin] s (if byteAt p 1 = 1 then s.setLatch else s) := Only.ite s.setLatch_only (Only.refl _ s)
  generalize (if byteAt p 1 = 1 then s.setLatch else s) = v at hv ⊢
  have hf : Only [.mg] v ((List.range 64).foldl State.trimNominal v) :=
    Only.foldl _ (Only.refl _ v) (fun u n hu => hu.trans (u.trimNominal_only n))
  have hw : Only [.pm, .ctl, .mg, .log, .twin] s ((List.range 64).foldl State.trimNominal v) := (hv.mono rfl).trans (hf.mono rfl)
  exact Only.ite (hw.trans ((State.enterRunning_only _).mono rfl)) hw

theorem State.takeOverEnd_heldOn (h : s.twin.heldOn = []) : (s.takeOverEnd p).twin.heldOn = [] := by
  unfold State.takeOverEnd
  dsimp only
  have hv : (if byteAt p 1 = 1 then s.setLatch else s).twin.heldOn = [] := by
    split
    · rfl
    · exact h
  generalize (if byteAt p 1 = 1 then s.setLatch else s) = v at hv ⊢
  have hf : Only [.mg] v ((List.range 64).foldl State.trimNominal v) :=
    Only.foldl _ (Only.refl _ v) (fun u n hu => hu.trans (u.trimNominal_only n))
  have hw := (congrArg Twin.heldOn hf.twin_eq).trans hv
  split
  · exact (congrArg Twin.heldOn (State.enterRunning_only _).twin_eq).trans hw
  · exact hw

end

section
variable {s e : State} {p : List Byte}

/-- Nothing held or pending fires at COMMIT. -/
theorem Enabled.idle (h : Enabled s p e) (hr : s.pm.state = .ready) (hp : s.pm.onPending = none) :
    ((e.takeOverState p).takeOverEnd p).pm.onPending = none ∨ ((e.takeOverState p).takeOverEnd p).mayFire = false := by
  have hpm := (e.takeOverState p).takeOverEnd_pm (p := p)
  obtain hc | hc := h.course
  · left
    have hn : (e.takeOverState p).pm.onPending = none := (congrArg Pm.onPending hc).trans hp
    rw [hpm]
    dsimp only
    rw [hn]
    exact ite_self _
  · right
    have hs : (e.takeOverState p).pm.state = .cooling := hc
    unfold State.mayFire
    rw [hpm]
    dsimp only
    rw [hs, if_neg (fun k => by cases k.2)]
    rfl

/-- COMMIT at the joining device: what it has taken over, in co-supervision. -/
theorem Enabled.commits (h : Enabled s p e) (hr : s.pm.state = .ready) (hp : s.pm.onPending = none) :
    ((e.takeOverState p).takeOverEnd p).pairUp.releaseHeld = ((e.takeOverState p).takeOverEnd p).pairUp :=
  State.releaseHeld_idle (s := State.pairUp _) (State.takeOverEnd_heldOn (s := e.takeOverState p) h.heldOn) (h.idle hr hp)

theorem Enabled.engine (h : Enabled s p e) {k : Nat} (hk : k < 5) :
    ((e.takeOverState p).takeOverEnd p).pairUp.eng k = engineFrom p k (e.eng k) := by
  have ho : ((e.takeOverState p).takeOverEnd p).kiln = (e.takeOverState p).kiln := State.takeOverEnd_only.kiln_eq
  have he : ((e.takeOverState p).takeOverEnd p).pairUp.eng k = nth (e.takeOverState p).kiln.engines k {} :=
    congrArg (fun x : Kiln => nth x.engines k ({} : Engine)) ho
  rw [he]
  exact nth_mapIdx _ _ _ _ (by rw [h.length]; exact hk)

theorem State.takeOverState_chatter {n : Nat} (hn : n < 64) :
    Tab.getD (e.takeOverState p).kiln.chatter n 0 = byteAt p (38 + n) := by
  refine (Tab.getD_filter_map (z := 0) (f := fun n => byteAt p (38 + n)) List.nodup_range n).trans ?_
  exact if_pos (List.mem_range.2 hn)

/-- The power mode after COMMIT, by the state and the latch that SYNC has told. -/
theorem Enabled.mode (h : Enabled s p e) (hr : s.pm.state = .ready) :
    let t := (e.takeOverState p).takeOverEnd p
    (byteAt p 1 = 1 ∨ s.pm.faultLatch = true → t.pm.faultLatch = true)
      ∧ (byteAt p 0 = 5 → t.pm.state = .running ∧ t.pm.lastCause = 0x18 ∨ t.pm.state = .cooling)
      ∧ (byteAt p 0 = 5 → syncMask p = 0 → t.pm.state = .running ∧ t.pm.lastCause = 0x18)
      ∧ (byteAt p 0 = 3 → syncMask p = 0 → byteAt p 1 ≠ 1 → t.pm.state = .ready ∧ t.pm.faultLatch = s.pm.faultLatch) := by
  dsimp only
  have hpm := (e.takeOverState p).takeOverEnd_pm (p := p)
  have hst : (e.takeOverState p).pm.state = e.pm.state := rfl
  have hla : (e.takeOverState p).pm.faultLatch = e.pm.faultLatch := rfl
  rw [hpm, hst, hla]
  dsimp only
  have hrun (hk : e.pm = s.pm) (h5 : byteAt p 0 = 5) : byteAt p 0 = 5 ∧ e.pm.state = .ready := ⟨h5, by rw [hk, hr]⟩
  refine ⟨fun hl => ?_, fun h5 => ?_, fun h5 h0 => ?_, fun h3 h0 h1 => ?_⟩
  · obtain h1 | hl := hl
    · rw [decide_eq_true h1, Bool.or_true]
    · rw [h.latch hl, Bool.true_or]
  · obtain hc | hc := h.course
    · rw [if_pos (hrun hc h5), if_pos (hrun hc h5)]
      exact .inl ⟨rfl, rfl⟩
    · rw [if_neg (fun k => by rw [hc] at k; cases k.2)]
      exact .inr hc
  · rw [if_pos (hrun (h.kept h0) h5), if_pos (hrun (h.kept h0) h5)]
    exact ⟨rfl, rfl⟩
  · rw [if_neg (fun k => by rw [h3] at k; exact absurd k.1 (by decide)), h.kept h0, decide_eq_false h1, Bool.or_false]
    exact ⟨hr, rfl⟩

end

/-- Settles O49: each message of a handover, by the side that the device is on. -/
theorem handovers : Obligations.Handovers := by
  unfold Obligations.Handovers
  refine ⟨fun a s h hj hm hr => ?_, fun a n uid s h hj hs hr hd => ?_, fun a n uid s h hj hs hd => ?_,
    fun a n uid s h hj hs hr hd => ?_, fun a s h hj hm hr hp => ?_, fun a s h hj => ?_, fun a s h hn hj => ?_,
    fun a s h hj hs hr hp hen hl => ?_, fun a r s h hj hs hr hp ho => ?_, fun a s h hj hs hr hp => ?_, fun a due s h hj hs hh hp => ?_,
    fun a p due s h hj hs hpa he hh hr hl hon => ?_⟩
  · refine Answers.of_exec (congrArg Host.Outcome.next ((h.onTwin _).trans (State.takeChallenge_proof (s := s.noteFrame a) hj hm hr))) ?_
    exact ⟨State.sendTwin_hand _ _ _ _, State.sendTwin_address _ _ _ _, .sendTwin _ _ _ ⟨rfl, rfl, rfl, rfl, rfl⟩, .sent _ _ _ rfl rfl,
      Only.sendTwin _ _ _ (Only.refl _ s).mk_upd⟩
  · refine Answers.of_exec (congrArg Host.Outcome.next ((h.onTwin _).trans (State.takeProof_sync (s := s.noteFrame a) hj hs hr hd))) ?_
    exact ⟨State.sendTwin_hand _ _ _ _, State.sendTwin_uid _ _ _ _, State.sendTwin_state _ _ _ _, .sent _ _ _ rfl rfl,
      Only.sendTwin _ _ _ (Only.refl _ s).mk_upd⟩
  · refine Answers.of_exec (congrArg Host.Outcome.next ((h.onTwin _).trans (State.takeProof_wrong (s := s.noteFrame a) hj hs hd))) ?_
    exact ⟨State.tellReason_hand _ _ _ _, State.tellReason_reason _ _ _ _,
      State.tellReason_state _ _ _ _, .of_tellReason rfl rfl,
      Only.tellReason _ _ _ (Only.refl _ s).mk_upd⟩
  · refine Answers.of_exec (congrArg Host.Outcome.next ((h.onTwin _).trans (State.takeProof_late (s := s.noteFrame a) hj hs hr hd))) ?_
    rw [State.diverge_eq]
    exact ⟨State.tellReason_hand _ _ _ _, State.tellReason_reason _ _ _ _,
      .of_tellReason rfl rfl, (Only.refl [.twin, .ring, .free] s).mk_upd.trans ((State.tellReason_only _ _ _ _).mono rfl)⟩
  · refine Answers.of_exec (congrArg Host.Outcome.next ((h.onTwin _).trans (State.takeChallenge_abort (s := s.noteFrame a) hj hm hr hp))) ?_
    exact ⟨State.tellReason_hand _ _ _ _, State.tellReason_state _ _ _ _,
      State.tellReason_reason _ _ _ _, .of_tellReason rfl rfl,
      Only.tellReason _ _ _ (Only.refl _ s).mk_upd⟩
  · obtain hj | ⟨hj, hs⟩ := hj
    · have hk := State.takeRefuse_seeking (s := s.noteFrame a) (src := a.frame.src.toNat) hj (byteAt (twinBody a.frame) 0)
      refine Answers.of_exec (congrArg Host.Outcome.next ((h.onTwin _).trans hk)) ?_
      obtain ⟨h1, h2⟩ := (s.noteFrame a).noteRefuse_state (byteAt (twinBody a.frame) 0)
      exact ⟨(if_pos hj).symm ▸ hj, rfl, h1, h2, rfl, (Only.refl _ s).mk_upd⟩
    · have hk := State.takeRefuse_proving (s := s.noteFrame a) hj hs (byteAt (twinBody a.frame) 0)
      refine Answers.of_exec (congrArg Host.Outcome.next ((h.onTwin _).trans hk)) ?_
      obtain ⟨h1, h2⟩ := State.noteRefuse_state (s := { s.noteFrame a with twin := { s.twin with hand := .none, address := 0 } })
        (byteAt (twinBody a.frame) 0)
      exact ⟨(if_neg (fun k => by rw [hj] at k; cases k)).symm, rfl, h1, h2, rfl, (Only.refl _ s).mk_upd⟩
  · have hk := State.takeRefuse_apart (s := s.noteFrame a) hn hj (byteAt (twinBody a.frame) 0)
    exact Answers.of_exec (congrArg Host.Outcome.next ((h.onTwin _).trans hk)) ⟨rfl, (Only.refl _ s).mk_upd⟩
  · have ho : (s.noteFrame a).syncObjection (twinBody a.frame) = none := by
      rw [State.syncObjection_passive (s := s.noteFrame a) hp]
      have h1 : ¬ (s.noteFrame a).inp.enHigh ≠ syncMask (twinBody a.frame) := fun k => k hen
      have h2 : ¬ ((s.noteFrame a).pm.faultLatch = true ∧ byteAt (twinBody a.frame) 1 ≠ 1) := fun k =>
        hl.elim (fun x => Bool.false_ne_true (x.symm.trans k.1)) k.2
      rw [if_neg h1, if_neg h2]
    refine Answers.of_exec (congrArg Host.Outcome.next ((h.onTwin _).trans (State.takeSync_ready (s := s.noteFrame a) hj hs hr ho))) ?_
    exact ⟨State.sendTwin_hand _ _ _ _, .sendTwin _ _ _ ⟨rfl, rfl, rfl, rfl, rfl⟩, .sent _ _ _ rfl rfl,
      Only.sendTwin _ _ _ (Only.refl _ s).mk_upd⟩
  · have ho' : (s.noteFrame a).syncObjection (twinBody a.frame) = some r := by
      rw [State.syncObjection_passive (s := s.noteFrame a) hp]
      obtain ⟨rfl, h1⟩ | ⟨rfl, h1, h2, h3⟩ := ho
      · exact if_pos h1
      · rw [if_neg (fun k => k h1)]
        exact if_pos ⟨h2, h3⟩
    refine Answers.of_exec (congrArg Host.Outcome.next ((h.onTwin _).trans (State.takeSync_abort (s := s.noteFrame a) hj hs hr ho'))) ?_
    have hp' : (s.noteFrame a).out.passive = true := hp
    rw [if_pos hp', if_pos hp']
    exact ⟨State.tellReason_hand _ _ _ _, State.tellReason_reason _ _ _ _,
      State.tellReason_seekDue _ _ _ _, .tellReason _ _ _ ⟨rfl, rfl, rfl, rfl, rfl⟩, .of_tellReason rfl rfl,
      (State.tellReason_only _ _ _ _).out_eq, Only.tellReason _ _ _ (Only.refl _ s).mk_upd⟩
  · have hob := State.syncObjection_alone (s := s.noteFrame a) (p := twinBody a.frame) hp
    have ht (r : BitVec 4) (ho : (s.noteFrame a).syncObjection (twinBody a.frame) = some r) :
        let t := (s.noteFrame a).takeSync a.frame.src.toNat (twinBody a.frame)
        t.twin.hand = .none ∧ t.twin.state = .diverged ∧ Tells a.frame.src.toNat 8 [r.zeroExtend 8] s t ∧ Only [.twin, .ring] s t := by
      have hp' : ¬ (s.noteFrame a).out.passive = true := fun k => Bool.false_ne_true (hp.symm.trans k)
      rw [State.takeSync_abort (s := s.noteFrame a) hj hs hr ho, if_neg hp', if_neg hp']
      exact ⟨State.tellReason_hand _ _ _ _, State.tellReason_state _ _ _ _, .of_tellReason rfl rfl,
        Only.tellReason _ _ _ (Only.refl _ s).mk_upd⟩
    refine Answers.of_exec (congrArg Host.Outcome.next (h.onTwin _)) ?_
    by_cases hen : (s.noteFrame a).out.en ≠ syncMask (twinBody a.frame)
    · obtain ⟨h1, h2, h3, h4⟩ := ht 3 (hob.trans (if_pos hen))
      exact ⟨fun k => absurd k hen, fun _ => ⟨h1, h2, h3⟩, fun k => absurd k hen, h4⟩
    · rw [if_neg hen] at hob
      by_cases hl : (s.noteFrame a).pm.faultLatch = true ↔ byteAt (twinBody a.frame) 1 = 1
      · have hk := State.takeSync_ready (s := s.noteFrame a) hj hs hr (hob.trans (if_pos hl))
        rw [hk]
        exact ⟨fun _ _ => ⟨State.sendTwin_hand _ _ _ _, .sent _ _ _ rfl rfl⟩, fun k => absurd k hen, fun _ k => absurd hl k,
          Only.sendTwin _ _ _ (Only.refl _ s).mk_upd⟩
      · obtain ⟨h1, h2, h3, h4⟩ := ht 8 (hob.trans (if_neg hl))
        exact ⟨fun _ k => absurd k hl, fun k => absurd k hen, fun _ _ => ⟨h1, h2, h3⟩, h4⟩
  · have hu : Only [.twin, .ring] s ((s.noteFrame a).sendTwin a.frame.src.toNat 7 []) := Only.sendTwin _ _ _ (Only.refl _ s).mk_upd
    have ht : Tells a.frame.src.toNat 7 [] s ((s.noteFrame a).sendTwin a.frame.src.toNat 7 []) := .sent _ _ _ rfl rfl
    have hw := (s.noteFrame a).sendTwin_heldOn a.frame.src.toNat 7 []
    have had := (s.noteFrame a).sendTwin_address a.frame.src.toNat 7 []
    have hk := State.takeReady_commits (s := s.noteFrame a) (src := a.frame.src.toNat) hj hs
    generalize (s.noteFrame a).sendTwin a.frame.src.toNat 7 [] = u at hu ht hw had hk
    have hpu : Only [.twin, .ring, .irq] s u.pairUp := (hu.mono rfl).trans ((State.pairUp_only _).mono rfl)
    have hi : u.pairUp.releaseHeld = u.pairUp := State.releaseHeld_idle (s := u.pairUp) (hw.trans hh)
      (hp.imp (fun x => (congrArg Pm.onPending hpu.pm_eq).trans x) (fun x => (State.mayFire_congr hpu).trans x))
    refine Answers.of_exec (congrArg Host.Outcome.next ((h.onTwin _).trans (hk.trans hi))) ?_
    have hc : u.clk.now = s.clk.now := congrArg Clk.now hu.clk_eq
    exact ⟨rfl, rfl, congrArg (fun n => some (n + 100 * usTicks)) hc, hc, had, bit_putBit_same _ (by decide) _, ht, hpu.out_eq, hpu⟩
  · have hen := State.enHigh_enabled (s := s.noteFrame a) (p := p) he hh hr hl
    have hk := (State.takeCommit_takes (s := s.noteFrame a) (src := a.frame.src.toNat) hj hs).trans
      (congrArg (fun u : State => u.pairUp.releaseHeld) ((s.noteFrame a).takeOver_eq p))
    refine Answers.of_exec (congrArg Host.Outcome.next ((h.onTwin _).trans (hk.trans (hen.commits hr hon)))) ?_
    have heng (k : Nat) (hk : k < 5) := hen.engine hk
    generalize (s.noteFrame a).takeOverPins.enHigh (syncMask p) = e at hen heng
    have hend := (e.takeOverState p).takeOverEnd_only (p := p)
    have hpm := (e.takeOverState p).takeOverEnd_pm (p := p)
    obtain ⟨h1, h2, h3, h4⟩ := hen.mode hr
    have hout : ((e.takeOverState p).takeOverEnd p).pairUp.out = e.out := hend.out_eq
    have hclk : ((e.takeOverState p).takeOverEnd p).clk.now = s.clk.now := congrArg Clk.now (hend.clk_eq.trans hen.clk)
    have hkiln : ((e.takeOverState p).takeOverEnd p).pairUp.kiln = (e.takeOverState p).kiln := hend.kiln_eq
    have hoff : ((e.takeOverState p).takeOverEnd p).pm.offMinDue
        = if leAt p 102 2 = 0 then none else some (s.clk.now + leAt p 102 2 * msTicks) := by
      rw [hpm]
      exact congrArg (fun n => if leAt p 102 2 = 0 then none else some (n + leAt p 102 2 * msTicks)) (congrArg Clk.now hen.clk)
    refine ⟨by rw [hout, hen.out], by rw [hout, hen.out], by rw [hout, hen.out]; rfl, by rw [hout, hen.out]; rfl, rfl, rfl,
      congrArg (fun n => some (n + 100 * usTicks)) hclk, bit_putBit_same _ (by decide) _, by rw [hkiln]; rfl, fun n hn => ?_,
      fun k hk => ?_, hoff, h1, h2, fun h5 h0 => h3 h5 (congrArg (BitVec.ofNat 64) h0), fun h5 h0 => h4 h5 (congrArg (BitVec.ofNat 64) h0)⟩
    · rw [hkiln]
      exact State.takeOverState_chatter hn
    · rw [heng k hk]
      have h11 : 10 + 4 * k + 1 = 11 + 4 * k := by omega
      have h13 : 10 + 4 * k + 3 = 13 + 4 * k := by omega
      refine ⟨rfl, congrArg (fun n => leAt p n 2) h11, ?_⟩
      rw [← h13]
      exact beq_iff_eq

end Sys2Proof.Machine
end

section
/-! SUPPORT. Frames that are passed on, SEEK and founding (O48). -/

set_option Elab.async false

namespace Sys2Proof.Machine

/-! ## Frames that are passed on (R252) -/

/-- What a device that passes a frame on changes: what it has sent, and the count of frames that a port has discarded. -/
def Passed (s t : State) : Prop :=
  t = { s with ring := { s.ring with
    tx := t.ring.tx
    linkA := { s.ring.linkA with discarded := t.ring.linkA.discarded }
    linkB := { s.ring.linkB with discarded := t.ring.linkB.discarded } } }

section
variable {s t : State} {a : Arrival}

theorem Passed.refl (s : State) : Passed s s := rfl

theorem Passed.only (h : Passed s t) : Only [.ring] s t := by
  rw [h]
  exact (Only.refl _ s).mk_upd

theorem Passed.ring (h : Passed s t) : t.ring = { s.ring with
    tx := t.ring.tx
    linkA := { s.ring.linkA with discarded := t.ring.linkA.discarded }
    linkB := { s.ring.linkB with discarded := t.ring.linkB.discarded } } := congrArg State.ring h

theorem Passed.linkOpen (h : Passed s t) (p : Link) : t.linkOpen p = s.linkOpen p := by
  rw [h]
  cases p <;> rfl

theorem Passed.twinEn (h : Passed s t) : t.twinEn = s.twinEn := by
  rw [h]
  rfl

theorem Passed.inRing (h : Passed s t) (n : Nat) : t.inRing n = s.inRing n := by
  rw [h]
  rfl

theorem Passed.obeys (h : Passed s t) : t.obeys = s.obeys := by
  rw [h]
  rfl

theorem Passed.noteFrame (h : Passed s t) (a : Arrival) :
    t.noteFrame a = { s.noteFrame a with ring := (t.noteFrame a).ring } := by
  rw [h]
  rfl

theorem State.sendAs_passed (p : Link) (b : Bool) (f : Frame) : Passed s (s.sendAs p b f) := by
  unfold State.sendAs
  split
  · rfl
  · split <;> rfl

theorem State.passFrame_passed (a : Arrival) (f : Frame) : Passed s (s.passFrame a f) := by
  unfold State.passFrame
  split
  · cases a.port <;> rfl
  · exact State.sendAs_passed _ _ _

theorem Clean.pass_passed (h : Clean a) : Passed s (s.pass a) := by
  unfold State.pass
  rw [h.meet s]
  dsimp only
  split
  · exact .refl s
  · exact State.passFrame_passed _ _

/-- A frame that the device leaves on the ring goes on through the port of its direction. -/
theorem Clean.pass_on (h : Clean a) (hr : s.removes a.frame = false) : s.pass a = s.passFrame a (s.stamped a.frame) := by
  unfold State.pass
  rw [h.meet s, hr]
  rfl

theorem State.stamped_closed (h : s.ring.hornWindow ≤ s.clk.now) (f : Frame) : s.stamped f = { f with hops := f.hops + 1 } := by
  unfold State.stamped State.hornOpen
  rw [decide_eq_false (Nat.not_lt.2 h)]
  rfl

theorem Clean.pass_goesOn (h : Clean a) (hr : s.removes a.frame = false) : GoesOn a s (s.pass a) := by
  intro hl hh hw
  rw [h.pass_on hr, State.stamped_closed hw]
  unfold State.passFrame
  rw [if_neg (Nat.not_le.2 hh), State.sendAs_open s hl]

theorem Clean.pass_kept (h : Clean a) (hh : a.frame.hops.toNat + 1 < 4095) : RingKept s (s.pass a) := by
  unfold RingKept
  cases hr : s.removes a.frame with
  | true =>
    have hp : s.pass a = s := by
      unfold State.pass
      rw [h.meet s, hr]
      rfl
    rw [hp]
  | false =>
    rw [h.pass_on hr]
    unfold State.passFrame
    rw [if_neg (Nat.not_le.2 hh)]
    unfold State.sendAs
    split
    · rfl
    · split <;> rfl

theorem GoesOn.of_tx {u : State} (h : GoesOn a s t) (hu : u.ring.tx = t.ring.tx) : GoesOn a s u :=
  fun hl hh hw => hu.trans (h hl hh hw)

theorem State.removes_false (ho : s.ownSource a.frame = false) (hf : s.forMe a.frame = false)
    (hk : a.frame.kind ≠ 2 ∨ s.inp.root = false) : s.removes a.frame = false := by
  unfold State.removes
  rw [ho, hf]
  obtain hk | hk := hk
  · rw [beq_eq_false_iff_ne.2 hk]
    rfl
  · rw [hk]
    simp

end

/-! ## SEEK and its answers (R271, R272) -/

section
variable {s : State} {src : Nat} {p : List Byte}

/-- The guard of SEEK: a device that twin_en covers, and its own twin group. -/
theorem State.seekGuard (he : s.twinEn = true) (hg : s.twinGroup ≠ 0) (hp : leAt p 0 2 = s.twinGroup) :
    ¬ (!s.twinEn || s.twinGroup == 0 || leAt p 0 2 != s.twinGroup) = true := by
  rw [he, hp, beq_eq_false_iff_ne.2 hg]
  simp

section
variable (hg : ¬ (!s.twinEn || s.twinGroup == 0 || leAt p 0 2 != s.twinGroup) = true) (alone : Bool)
include hg

theorem State.takeSeek_same (hs : (byteAt p 2 == 1) = s.inp.twside) : s.takeSeek src p alone = s.tellReason src 4 2 := by
  unfold State.takeSeek
  dsimp only
  rw [if_neg hg, if_pos hs]

theorem State.takeSeek_serves (hs : (byteAt p 2 == 1) ≠ s.inp.twside) (hh : s.twin.hand.holds = false) (hp : s.out.passive = false)
    (ht : s.twin.state = .solo ∨ s.twin.state = .diverged) : s.takeSeek src p alone
      = State.answerSeek { s with twin := { s.twin with peerSolo := alone } } src (byteAt p 2 == 1) (BitVec.ofNat 128 (leAt p 4 16)) := by
  unfold State.takeSeek
  dsimp only
  rw [if_neg hg, if_neg hs, hh, hp, if_neg Bool.false_ne_true, if_neg Bool.false_ne_true]
  obtain ht | ht := ht
  · rw [ht]
  · rw [ht]

theorem State.takeSeek_waits (hs : (byteAt p 2 == 1) ≠ s.inp.twside) (hh : s.twin.hand.holds = false) (hp : s.out.passive = true)
    (hw : alone = true ∨ s.inp.twside = true ∨ s.pm.state ≠ .ready ∨ s.obeys = false ∨ s.inRing src = false) :
    s.takeSeek src p alone = s := by
  have hb : (s.inp.twside || s.pm.state != .ready || alone || !(s.obeys && s.inRing src)) = true := by
    obtain h | h | h | h | h := hw
    · rw [h]
      simp
    · rw [h]
      rfl
    · rw [bne_iff_ne.2 h]
      simp
    · rw [h]
      simp
    · rw [h]
      simp
  unfold State.takeSeek
  dsimp only
  rw [if_neg hg, if_neg hs, hh, hp, if_neg Bool.false_ne_true, if_pos rfl, if_pos hb]

theorem State.takeSeek_founds (hs : (byteAt p 2 == 1) ≠ s.inp.twside) (hh : s.twin.hand.holds = false) (hp : s.out.passive = true)
    (hw : s.inp.twside = false) (hr : s.pm.state = .ready) (ho : s.obeys = true) (hi : s.inRing src = true)
    (hf : s.foundOrBlock = s.found) : s.takeSeek src p false
      = State.answerSeek { s.found with twin := { s.found.twin with peerSolo := false } } src (byteAt p 2 == 1)
        (BitVec.ofNat 128 (leAt p 4 16)) := by
  have hb : ¬ (s.inp.twside || s.pm.state != .ready || false || !(s.obeys && s.inRing src)) = true := by
    rw [hw, hr, ho, hi]
    decide
  unfold State.takeSeek
  dsimp only
  rw [if_neg hg, if_neg hs, hh, hp, if_neg Bool.false_ne_true, if_pos rfl, if_neg hb, hf]
  exact if_neg Bool.false_ne_true

end

section
variable {side : Bool} (uid : Uid) (hs : side ≠ s.inp.twside)
include hs

theorem State.answerSeek_challenge (ho : s.obeys = true) (hi : s.inRing src = true) (hr : s.readyOrRunning = true) :
    s.answerSeek src side uid = State.sendTwin { s.takeFree with twin := { s.twin with
      hand := .sChallenge (Config.nonce s.free) uid, address := src } } src 2 (leBytes 16 (Config.nonce s.free).toNat) := by
  unfold State.answerSeek
  rw [if_neg hs, ho, hi, hr]
  rfl

theorem State.answerSeek_outside (h : s.obeys = false ∨ s.inRing src = false) : s.answerSeek src side uid = s.tellReason src 4 5 := by
  have hb : (!(s.obeys && s.inRing src)) = true := by
    obtain h | h := h
    · rw [h]
      rfl
    · rw [h]
      simp
  unfold State.answerSeek
  rw [if_neg hs, if_pos hb]

theorem State.answerSeek_late (ho : s.obeys = true) (hi : s.inRing src = true) (hr : s.readyOrRunning = false) :
    s.answerSeek src side uid = s.diverge.tellReason src 4 7 := by
  unfold State.answerSeek
  rw [if_neg hs, ho, hi, hr]
  rfl

end

/-- A device that founds with no request pending only changes its twin and its pins. -/
theorem State.foundOrBlock_founds (he : s.inp.enHigh = 0) (hp : s.pm.onPending = none) : s.foundOrBlock = s.found := by
  unfold State.foundOrBlock
  rw [if_pos he]
  exact State.tryPending_idle (s := s.found) (.inl hp)

theorem State.found_out (he : s.twinEn = true) (hr : s.pm.state = .ready) :
    s.found.out = { s.out with passive := false, enpu := true, en := 0, twok := true } := by
  have ht : (s.twinEn && !false && s.pm.state.logs) = true := by
    rw [he, hr]
    rfl
  exact congrArg (fun b => ({ s.out with passive := false, enpu := true, en := 0, twok := b } : Out)) ht

end

theorem SeekHeard.onTwin {a : Arrival} {s : State} (h : SeekHeard a s) (f : State → State) :
    s.onTwin a 1 f = f ((s.pass a).noteFrame a) := by
  obtain ⟨hh, ha, -, hs, -⟩ := h
  unfold State.onTwin
  rw [if_pos hh]
  dsimp only
  rw [if_pos ha, hs]
  rfl

/-- SEEK acts on the state whose ring block has passed it on and noted it. -/
theorem SeekHeard.acts {a : Arrival} {s : State} (h : SeekHeard a s) (alone : Bool) : ∃ r : Ring,
    exec (.seekFrame a alone) s = .next (State.takeSeek { s with ring := r } a.frame.src.toNat (twinBody a.frame) alone)
      ∧ r.state = s.ring.state ∧ (∀ n, ({ s with ring := r } : State).inRing n = s.inRing n)
      ∧ ({ s with ring := r } : State).linkOpen .a = s.linkOpen .a
      ∧ ¬ (!({ s with ring := r } : State).twinEn || ({ s with ring := r } : State).twinGroup == 0
          || leAt (twinBody a.frame) 0 2 != ({ s with ring := r } : State).twinGroup) = true := by
  obtain ⟨-, -, hc, -, he, hg, hp⟩ := id h
  have hq : Passed s (s.pass a) := hc.pass_passed
  have hx : exec (.seekFrame a alone) s = .next (State.takeSeek ((s.pass a).noteFrame a) a.frame.src.toNat (twinBody a.frame) alone) :=
    congrArg Host.Outcome.next (h.onTwin (fun t => t.takeSeek a.frame.src.toNat (twinBody a.frame) alone))
  generalize s.pass a = u at hq hx
  have hu : u.noteFrame a = { s with ring := (u.noteFrame a).ring } := by
    rw [hq]
    rfl
  have hs : (u.noteFrame a).ring.state = s.ring.state := by
    show u.ring.state = _
    rw [hq.ring]
  have hi (n : Nat) : (u.noteFrame a).inRing n = s.inRing n := hq.inRing n
  have hl : (u.noteFrame a).linkOpen .a = s.linkOpen .a := hq.linkOpen .a
  refine ⟨(u.noteFrame a).ring, ?_, hs, fun n => ?_, ?_, State.seekGuard (s := { s with ring := (u.noteFrame a).ring }) he hg hp⟩
  · rw [← hu]
    exact hx
  · rw [← hu]
    exact hi n
  · rw [← hu]
    exact hl

theorem execTwinSeekTimeout_ends {s : State} {t0 : Nat} (hf : s.twin.seekFrom = some t0) (he : s.twinEn = true) (hp : s.out.passive = true)
    (hr : s.pm.state = .ready) (hh : s.twin.hand.holds = false)
    (hl : s.ring.state = .admitted ∨ (s.ring.linkA.up = false ∧ s.ring.linkB.up = false)) :
    execTwinSeekTimeout s = .next (State.foundOrBlock { s.till (t0 + 100 * msTicks) with twin := {
      (s.till (t0 + 100 * msTicks)).twin with seekFrom := none } }) := by
  have hb : (s.twinEn && s.out.passive && s.pm.state == .ready && !s.twin.hand.holds
      && (s.obeys || (!s.ring.linkA.up && !s.ring.linkB.up))) = true := by
    have hob : (s.obeys || (!s.ring.linkA.up && !s.ring.linkB.up)) = true := by
      obtain hl | ⟨ha, hb⟩ := hl
      · unfold State.obeys
        rw [hl]
        rfl
      · rw [ha, hb]
        exact Bool.or_true _
    rw [he, hp, hr, hh, hob]
    rfl
  unfold execTwinSeekTimeout
  simp only [hf, hb, if_true]

/-- The next SEEK is due at tick n. -/
def State.seeking (s : State) (n : Nat) : State := { s with twin := { s.twin with seekDue := some n, hand := .jSeek } }

theorem execSeekResend_sends {s : State} {due : Nat} (hd : s.twin.seekDue = some due) (hm : s.mayJoin = true)
    (hh : s.twin.hand.holds = false) : execSeekResend s
      = .next (((s.till due).seeking ((s.till due).clk.now + 10 * msTicks)).sendTwin 4095 1 s.seekBody) := by
  unfold execSeekResend
  simp only [hd, hm, if_true, State.till_twin, hh, Bool.false_eq_true, if_false]
  generalize (s.till due).clk.now + 10 * msTicks = n
  rfl

theorem obeys_iff {s : State} : s.obeys = true ↔ s.ring.state = .admitted := beq_iff_eq

theorem obeys_false_iff {s : State} : s.obeys = false ↔ s.ring.state ≠ .admitted := beq_eq_false_iff_ne

section
variable {s : State} {t0 : Nat} (hf : s.twin.seekFrom = some t0) (he : s.twinEn = true) (hp : s.out.passive = true)
  (hr : s.pm.state = .ready) (hh : s.twin.hand.holds = false)
  (hl : s.ring.state = .admitted ∨ (s.ring.linkA.up = false ∧ s.ring.linkB.up = false))
include hf he hp hr hh hl

/-- No twin has answered, and every EN line reads low. -/
theorem foundsAtTimeout (hen : s.inp.enHigh = 0) (hon : s.pm.onPending = none) : Answers .twinSeekTimeout s fun t =>
    t.clk.now = max s.clk.now (t0 + 100 * msTicks)
      ∧ t.out = { s.out with passive := false, enpu := true, en := 0, twok := true }
      ∧ t.twin = { s.twin with state := .solo, seekDue := none, seekFrom := none, hand := .none } ∧ Only [.clk, .out, .twin] s t := by
  have hx := execTwinSeekTimeout_ends hf he hp hr hh hl
  have hc := s.till_clock (t0 + 100 * msTicks)
  have hu := s.till_only (t0 + 100 * msTicks)
  generalize s.till (t0 + 100 * msTicks) = u at hx hc hu
  have hv : Only [.clk, .twin] s { u with twin := { u.twin with seekFrom := none } } := (hu.mono rfl).trans (Only.refl _ _).mk_upd
  have hvc : ({ u with twin := { u.twin with seekFrom := none } } : State).clk = u.clk := rfl
  have hvt : ({ u with twin := { u.twin with seekFrom := none } } : State).twin = { s.twin with seekFrom := none } := by
    rw [← hu.twin_eq]
  generalize ({ u with twin := { u.twin with seekFrom := none } } : State) = v at hx hv hvc hvt
  have hk := State.foundOrBlock_founds (s := v) ((congrArg In.enHigh hv.inp_eq).trans hen) ((congrArg Pm.onPending hv.pm_eq).trans hon)
  have hev : v.twinEn = true := by
    unfold State.twinEn at he ⊢
    rw [hv.cfgAt_eq]
    exact he
  have ho := State.found_out hev ((congrArg Pm.state hv.pm_eq).trans hr)
  rw [hv.out_eq] at ho
  refine Answers.of_exec (hx.trans (congrArg Host.Outcome.next hk)) ⟨?_, ho, ?_, (hv.mono rfl).trans (Only.refl _ _).mk_upd⟩
  · exact (congrArg Clk.now hvc).trans hc
  · exact congrArg (fun w => ({ w with state := .solo, seekDue := none, seekFrom := none, hand := .none } : Twin)) hvt

theorem blockedAtTimeout (hen : s.inp.enHigh ≠ 0) : Answers .twinSeekTimeout s fun t =>
    t.twin = { s.twin with state := .blocked, seekFrom := none } ∧ bit t.irq.gl 9 = true ∧ t.out = s.out
      ∧ Only [.clk, .twin, .irq] s t := by
  have hx := execTwinSeekTimeout_ends hf he hp hr hh hl
  have hu := s.till_only (t0 + 100 * msTicks)
  generalize s.till (t0 + 100 * msTicks) = u at hx hu
  have hk : State.foundOrBlock { u with twin := { u.twin with seekFrom := none } }
      = State.irqGl { u with twin := { u.twin with seekFrom := none, state := .blocked } } 9 :=
    if_neg (fun k => hen ((congrArg In.enHigh hu.inp_eq).symm.trans k))
  refine Answers.of_exec (hx.trans (congrArg Host.Outcome.next hk)) ⟨?_, bit_putBit_same _ (by decide) _, hu.out_eq,
    (hu.mono rfl).trans (Only.refl _ _).mk_upd⟩
  rw [← hu.twin_eq]
  rfl

end

/-- Settles O48: SEEK, each answer to it, and founding. -/
theorem seekingAndFounding : Obligations.SeekingAndFounding := by
  unfold Obligations.SeekingAndFounding
  refine ⟨fun due s hd hm hh => ?_, fun s h => ?_, fun a alone s h hh hp ht hs ho hi hr => ?_, fun a alone r s h hc => ?_,
    fun a alone s h hh hp ht hs ho hi hr => ?_, fun a alone s h hh hp hs hw => ?_,
    fun a s h hh hp hw hs hr he hon ho hi => ?_, fun t0 s hf he hp hr hh hl hen hon => ?_, fun t0 s hf he hp hr hh hl hen => ?_⟩
  · refine Answers.of_exec (execSeekResend_sends hd hm hh) ?_
    have hc := s.till_clock due
    have hu := s.till_only due
    have hl := s.till_linkOpen due .a
    generalize s.till due = u at hc hu hl ⊢
    generalize hn : u.clk.now + 10 * msTicks = n
    have hv : Only [.clk, .twin, .ring] s (u.seeking n) := (hu.mono rfl).trans (Only.refl _ _).mk_upd
    refine ⟨?_, ?_, State.sendTwin_hand _ _ _ _, ?_, ?_, hv.trans ((State.sendTwin_only _ _ _ _).mono rfl)⟩
    · exact (congrArg Clk.now (State.sendTwin_only _ _ _ _).clk_eq).trans hc
    · rw [State.sendTwin_twin, (State.sendTwin_only _ _ _ _).clk_eq]
      exact congrArg some hn.symm
    · have hp : SamePair s (u.seeking n) := by
        unfold SamePair State.seeking
        rw [hu.twin_eq]
        exact ⟨rfl, rfl, rfl, rfl, rfl⟩
      exact hp.sendTwin _ _ _
    · exact .sent _ _ _ hl (congrArg Twin.msgSeq hu.twin_eq : u.twin.msgSeq = _)
  · have hk : exec .seekResend s = .next s := by
      show execSeekResend s = _
      unfold execSeekResend
      obtain h | h := h
      · rw [h]
      · cases s.twin.seekDue with
        | none => rfl
        | some due =>
          dsimp only
          rw [h]
          exact if_neg Bool.false_ne_true
    exact Answers.of_exec hk rfl
  · obtain ⟨r, hx, hrs, hri, hrl, hg⟩ := h.acts alone
    have hk := (State.takeSeek_serves (s := { s with ring := r }) (src := a.frame.src.toNat) hg alone hs hh hp ht).trans
      (State.answerSeek_challenge (s := { s with ring := r, twin := { s.twin with peerSolo := alone } }) _ hs
        (obeys_iff.2 (hrs.trans ho)) ((hri _).trans hi) hr)
    refine Answers.of_exec (hx.trans (congrArg Host.Outcome.next hk)) ?_
    exact ⟨by rw [State.sendTwin_twin], State.sendTwin_hand _ _ _ _, State.sendTwin_address _ _ _ _, (State.sendTwin_only _ _ _ _).free_eq,
      .sendTwin _ _ _ ⟨rfl, rfl, rfl, rfl, rfl⟩, .sent _ _ _ hrl rfl,
      (Only.refl [.twin, .ring, .free] s).mk_upd.trans ((State.sendTwin_only _ _ _ _).mono rfl)⟩
  · obtain ⟨q, hx, hrs, hri, hrl, hg⟩ := h.acts alone
    obtain ⟨rfl, hs⟩ | ⟨rfl, hh, hp, ht, hs, ho⟩ := hc
    · have hk := State.takeSeek_same (s := { s with ring := q }) (src := a.frame.src.toNat) hg alone hs
      refine Answers.of_exec (hx.trans (congrArg Host.Outcome.next hk)) ?_
      exact ⟨State.tellReason_reason _ _ _ _, State.tellReason_hand _ _ _ _, .tellReason _ _ _ ⟨rfl, rfl, rfl, rfl, rfl⟩,
        .of_tellReason hrl rfl, Only.tellReason _ _ _ (Only.refl _ s).mk_upd⟩
    · have hk := (State.takeSeek_serves (s := { s with ring := q }) (src := a.frame.src.toNat) hg alone hs hh hp ht).trans
        (State.answerSeek_outside (s := { s with ring := q, twin := { s.twin with peerSolo := alone } }) _ hs
          (ho.imp (fun x => obeys_false_iff.2 (hrs ▸ x)) (fun x => (hri _).trans x)))
      refine Answers.of_exec (hx.trans (congrArg Host.Outcome.next hk)) ?_
      exact ⟨State.tellReason_reason _ _ _ _, State.tellReason_hand _ _ _ _, .tellReason _ _ _ ⟨rfl, rfl, rfl, rfl, rfl⟩,
        .of_tellReason hrl rfl, Only.tellReason _ _ _ (Only.refl _ s).mk_upd⟩
  · obtain ⟨r, hx, hrs, hri, hrl, hg⟩ := h.acts alone
    have hk := (State.takeSeek_serves (s := { s with ring := r }) (src := a.frame.src.toNat) hg alone hs hh hp ht).trans
      (State.answerSeek_late (s := { s with ring := r, twin := { s.twin with peerSolo := alone } }) _ hs
        (obeys_iff.2 (hrs.trans ho)) ((hri _).trans hi) hr)
    rw [State.diverge_eq] at hk
    refine Answers.of_exec (hx.trans (congrArg Host.Outcome.next hk)) ?_
    exact ⟨State.tellReason_reason _ _ _ _, State.tellReason_hand _ _ _ _, .of_tellReason hrl rfl, State.tellReason_state _ _ _ _,
      Only.tellReason _ _ _ (Only.refl _ s).mk_upd⟩
  · obtain ⟨r, hx, hrs, hri, hrl, hg⟩ := h.acts alone
    have hk := State.takeSeek_waits (s := { s with ring := r }) (src := a.frame.src.toNat) hg alone hs hh hp
      (hw.imp id (.imp id (.imp id (.imp (fun x => obeys_false_iff.2 (hrs ▸ x)) (fun x => (hri _).trans x)))))
    exact Answers.of_exec (hx.trans (congrArg Host.Outcome.next hk)) ⟨rfl, rfl, (Only.refl _ s).mk_upd⟩
  · obtain ⟨r, hx, hrs, hri, hrl, hg⟩ := h.acts false
    have hs' : (byteAt (twinBody a.frame) 2 == 1) ≠ s.inp.twside := by
      rw [hs, hw]
      decide
    have hgen : s.twinEn = true := h.2.2.2.2.1
    have ho' : ({ s with ring := r } : State).obeys = true := obeys_iff.2 (hrs.trans ho)
    have hk := (State.takeSeek_founds (s := { s with ring := r }) (src := a.frame.src.toNat) hg hs' hh hp hw hr ho' ((hri _).trans hi)
      (State.foundOrBlock_founds (s := { s with ring := r }) he hon)).trans
      (State.answerSeek_challenge (s := { State.found { s with ring := r } with twin := { (State.found { s with ring := r }).twin with
        peerSolo := false } }) _ hs' ho' ((hri _).trans hi) (by
          unfold State.readyOrRunning
          show (s.pm.state == _ || s.pm.state == _) = true
          rw [hr]
          rfl))
    refine Answers.of_exec (hx.trans (congrArg Host.Outcome.next hk)) ?_
    refine ⟨(State.sendTwin_only _ _ _ _).out_eq.trans (State.found_out (s := { s with ring := r }) hgen hr),
      State.sendTwin_state _ _ _ _, State.sendTwin_hand _ _ _ _, ?_⟩
    exact (Only.refl [.out, .twin, .ring, .free] s).mk_upd.trans ((State.sendTwin_only _ _ _ _).mono rfl)
  · exact foundsAtTimeout hf he hp hr hh hl hen hon
  · exact blockedAtTimeout hf he hp hr hh hl hen

end Sys2Proof.Machine
end

section
/-! SUPPORT. What faults leave of twin and ring, heartbeats, and the loss, requests and shutdowns of the twin (O47). -/

set_option Elab.async false

namespace Sys2Proof.Machine

/-! ## What faults leave of the twin block, of GL_IRQ and of the horns heard -/

/-- Nothing of the pairing, of GL_IRQ and of the horns received changes; horns are sent after those sent before. -/
structure SideFrame (s t : State) : Prop where
  twin : t.twin = { s.twin with
    hand := t.twin.hand, reason := t.twin.reason, address := t.twin.address, uid := t.twin.uid, msgSeq := t.twin.msgSeq
    heldOn := t.twin.heldOn }
  gl : t.irq.gl = s.irq.gl
  ring : t.ring = { s.ring with
    tx := t.ring.tx, txHorns := t.ring.txHorns, linkA := t.ring.linkA, linkB := t.ring.linkB, hornSeq := t.ring.hornSeq
    hornWindow := t.ring.hornWindow, hornWord := t.ring.hornWord }
  sent : s.ring.txHorns ⊆ t.ring.txHorns

namespace SideFrame

variable {s t u : State}

theorem refl (s : State) : SideFrame s s := ⟨rfl, rfl, rfl, List.Subset.refl _⟩

theorem trans (h : SideFrame s t) (k : SideFrame t u) : SideFrame s u :=
  ⟨by rw [k.twin, h.twin], k.gl.trans h.gl, by rw [k.ring, h.ring], List.Subset.trans h.sent k.sent⟩

/-- What changes nothing of the ring, the interrupts and the twin. -/
theorem of_only {ps : List Part} (h : Only ps s t) (hp : Part.twin ∉ ps ∧ Part.ring ∉ ps ∧ Part.irq ∉ ps := by decide) : SideFrame s t :=
  ⟨by rw [h.twin_eq hp.1], by rw [h.irq_eq hp.2.2], by rw [h.ring_eq hp.2.1], by rw [h.ring_eq hp.2.1]; exact List.Subset.refl _⟩

/-- What changes of them the interrupts alone, and not those of GL_IRQ. -/
theorem of_irq {ps : List Part} (h : Only ps s t) (hg : t.irq.gl = s.irq.gl) (hp : Part.twin ∉ ps ∧ Part.ring ∉ ps := by decide) :
    SideFrame s t :=
  ⟨by rw [h.twin_eq hp.1], hg, by rw [h.ring_eq hp.2], by rw [h.ring_eq hp.2]; exact List.Subset.refl _⟩

/-- What changes of them only what has been sent. -/
theorem of_sent {ps : List Part} (h : Only ps s t) (hr : RingSent s.ring t.ring) (hp : Part.twin ∉ ps ∧ Part.irq ∉ ps := by decide) :
    SideFrame s t := by
  have he : t.ring.txHorns = s.ring.txHorns := by rw [hr]
  exact ⟨by rw [h.twin_eq hp.1], by rw [h.irq_eq hp.2], by rw [hr], by rw [he]; exact List.Subset.refl _⟩

theorem foldl {α : Type} {f : State → α → State} (hf : ∀ t x, SideFrame t (f t x)) {s : State} (l : List α) :
    SideFrame s (l.foldl f s) := by
  induction l generalizing s with
  | nil => exact refl s
  | cons x l ih => exact (hf s x).trans ih

theorem walk (s : State) (w : Walk) : SideFrame s { s with walk := w } := .of_only (ps := [.walk]) (Only.refl _ s).mk_upd

theorem fault (s : State) (b : FaultBlk) : SideFrame s { s with fault := b } := .of_only (ps := [.fault]) (Only.refl _ s).mk_upd

theorem port (s : State) (p : Port) : SideFrame s { s with port := p } := .of_only (ps := [.port]) (Only.refl _ s).mk_upd

/-- A horn of the device's own, before it is sent. -/
theorem horn (s : State) (q : BitVec 4) (n : Nat) (w : BitVec 16) :
    SideFrame s { s with ring := { s.ring with hornSeq := q, hornWindow := n, hornWord := w } } := ⟨rfl, rfl, rfl, List.Subset.refl _⟩

end SideFrame

section
variable (s : State)

/-! ### Pins and records -/

theorem State.tripPwm_gl (src : Word) : (s.tripPwm src).irq.gl = s.irq.gl := by
  unfold State.tripPwm
  dsimp only
  split <;> rfl

theorem State.assertPfw_sideFrame : SideFrame s s.assertPfw := by
  refine .of_irq s.assertPfw_only ?_
  unfold State.assertPfw
  dsimp only
  split
  · rfl
  · exact s.tripPwm_gl _

theorem State.assertTripo_sideFrame : SideFrame s s.assertTripo := by
  refine .of_irq s.assertTripo_only ?_
  unfold State.assertTripo
  dsimp only
  split
  · rfl
  · exact s.tripPwm_gl _

theorem State.recordFault_sideFrame (f : FaultRec) : SideFrame s (s.recordFault f) := by
  have hl : SideFrame s s.setLatch := ⟨rfl, rfl, rfl, List.Subset.refl _⟩
  unfold State.recordFault
  exact hl.trans ((SideFrame.of_only (State.recordFirst_only _ _ _)).trans (.of_only (State.recordBisque_only _ _ _)))

theorem State.irqCt_sideFrame (i : Nat) : SideFrame s (s.irqCt i) := ⟨rfl, rfl, rfl, List.Subset.refl _⟩

theorem State.faultShard_sideFrame (f : FaultRec) (d table repeats : Nat) : SideFrame s (s.faultShard f d table repeats) :=
  .of_only (s.faultShard_only _ _ _ _)

theorem State.enqueue_sideFrame (f : FaultRec) (table : Nat) : SideFrame s (s.enqueue f table) := by
  have hr := s.recordFault_sideFrame f
  unfold State.enqueue
  dsimp only
  generalize s.recordFault f = u at hr ⊢
  split
  · exact hr.trans ((SideFrame.fault _ _).trans (State.faultShard_sideFrame _ _ _ _ _))
  · split
    · exact hr.trans ((SideFrame.fault _ _).trans ((State.irqCt_sideFrame _ _).trans (State.faultShard_sideFrame _ _ _ _ _)))
    · exact hr.trans ((SideFrame.fault _ _).trans ((State.irqCt_sideFrame _ _).trans (State.faultShard_sideFrame _ _ _ _ _)))

theorem State.coolT_sideFrame (f : FaultRec) (table : Nat) : SideFrame s (s.coolT f table) := by
  unfold State.coolT
  dsimp only
  split
  · exact s.enqueue_sideFrame f table
  · exact (s.enqueue_sideFrame f table).trans (.walk _ _)

theorem State.coolH_sideFrame (f : FaultRec) (table : Nat) : SideFrame s (s.coolH f table) := by
  have ht (u : State) : SideFrame u { u.assertTripo with walk := { u.assertTripo.walk with tripDue := none } } :=
    u.assertTripo_sideFrame.trans (.walk _ _)
  unfold State.coolH
  dsimp only
  split
  · exact ((State.faultShard_sideFrame _ _ _ _ _).trans (State.recordFault_sideFrame _ _)).trans
      ((ht _).trans (.of_only (State.walkSwitch_only _ _ _)))
  · split
    · exact (ht _).trans ((SideFrame.of_only (State.walkBegin_only _)).trans (State.enqueue_sideFrame _ _ _))
    · exact s.enqueue_sideFrame _ _

/-! ### Horns, messages and replies that leave -/

theorem State.sendHorn_sideFrame (p : Link) (orig seq : Nat) : SideFrame s (s.sendHorn p orig seq) := by
  unfold State.sendHorn
  split
  · exact ⟨rfl, rfl, rfl, List.subset_append_left _ _⟩
  · split
    · exact ⟨rfl, rfl, rfl, List.subset_append_left _ _⟩
    · exact .refl s

theorem State.originateHorn_sideFrame : SideFrame s s.originateHorn := by
  unfold State.originateHorn
  dsimp only
  split
  · exact .refl s
  · have hh := SideFrame.horn s (s.ring.hornSeq + 1) (s.clk.now + msTicks) (BitVec.ofNat 16 (s.ring.address + 4096 * s.ring.hornSeq.toNat))
    generalize ({ s with ring := { s.ring with
      hornSeq := s.ring.hornSeq + 1, hornWindow := s.clk.now + msTicks
      hornWord := BitVec.ofNat 16 (s.ring.address + 4096 * s.ring.hornSeq.toNat) } } : State) = u at hh ⊢
    exact hh.trans ((State.sendHorn_sideFrame _ _ _ _).trans (State.sendHorn_sideFrame _ _ _ _))

theorem State.soundHorn_sideFrame (k : Start) (cause : Byte) : SideFrame s (s.soundHorn k cause) := by
  unfold State.soundHorn
  split
  · exact s.originateHorn_sideFrame
  · exact .refl s

theorem State.sendTwin_sideFrame (dest msg : Nat) (body : List Byte) : SideFrame s (s.sendTwin dest msg body) := by
  have hr := s.sendTwin_ringSent dest msg body
  have he : (s.sendTwin dest msg body).ring.txHorns = s.ring.txHorns := by rw [hr]
  refine ⟨?_, by rw [(s.sendTwin_only dest msg body).irq_eq], by rw [hr], by rw [he]; exact List.Subset.refl _⟩
  rw [State.sendTwin_twin]

theorem State.abortHand_sideFrame : SideFrame s s.abortHand := by
  have hx : SideFrame s { s with twin := { s.twin with hand := .none, reason := 6, address := 0, uid := 0 } } :=
    ⟨rfl, rfl, rfl, List.Subset.refl _⟩
  unfold State.abortHand
  split
  · exact hx.trans (State.sendTwin_sideFrame _ _ _ _)
  · exact hx.trans (State.sendTwin_sideFrame _ _ _ _)
  · exact .refl s

theorem State.tellTwin_sideFrame (k : Start) (f : FaultRec) (table : Nat) : SideFrame s (s.tellTwin k f table) := by
  unfold State.tellTwin
  dsimp only
  split
  · exact s.abortHand_sideFrame.trans (State.sendTwin_sideFrame _ _ _ _)
  · exact s.abortHand_sideFrame

theorem State.post_sideFrame (r : Reply) : SideFrame s (s.post r) := by
  have hd : SideFrame s (if r.keeps then s else s.dropCmd r.ring r.tag) := by
    split
    · exact .refl s
    · exact .of_only (s.dropCmd_only _ _)
  unfold State.post
  dsimp only
  generalize (if r.keeps then s else s.dropCmd r.ring r.tag) = u at hd ⊢
  split
  · exact hd.trans ((SideFrame.of_sent (State.sendFrame_only _ _ _) (State.sendFrame_ringSent _ _ _)).trans
      (.of_only (State.replyOut_only _ _)))
  · split
    · exact hd.trans ((SideFrame.port _ _).trans (.of_only (State.replyOut_only _ _)))
    · exact .port _ _

theorem State.answer_sideFrame (c : Cmd) (status : Nat) (payload : List Byte) : SideFrame s (s.answer c status payload) := by
  have hc : SideFrame s (s.setCmd { c with phase := .replying }) := .of_only (s.setCmd_only _)
  unfold State.answer
  dsimp only
  split
  · exact hc.trans (.port _ _)
  · exact hc.trans (State.post_sideFrame _ _)

theorem State.refusalEffects_sideFrame (c : Cmd) (status : Nat) : SideFrame s (s.refusalEffects c status) := by
  refine SideFrame.trans (.of_irq (s.countRefusal_only status) ?_) (.of_only (State.secShard_only _ _ _))
  unfold State.countRefusal
  dsimp only
  split
  · split <;> rfl
  · split <;> rfl

theorem State.noteBroadcast_sideFrame (c : Cmd) (status : Nat) : SideFrame s (s.noteBroadcast c status) :=
  ⟨rfl, rfl, rfl, List.Subset.refl _⟩

theorem State.finish_sideFrame (c : Cmd) (status : Nat) (payload : List Byte) : SideFrame s (s.finish c status payload) := by
  have h := (s.refusalEffects_sideFrame c status).trans (SideFrame.port _ { (s.refusalEffects c status).port with
    execq := (s.refusalEffects c status).port.execq.filter (fun e => !(e == (c.ring, c.tag))) })
  unfold State.finish
  dsimp only
  refine h.trans ?_
  split
  · refine (State.noteBroadcast_sideFrame _ c status).trans ?_
    split
    · exact .of_only (State.dropCmd_only _ _ _)
    · split
      · exact State.answer_sideFrame _ _ _ _
      · split
        · exact .of_only (State.setCmd_only _ _)
        · exact State.answer_sideFrame _ _ _ _
  · exact State.answer_sideFrame _ _ _ _

theorem State.recordDiscard_sideFrame (cause : Nat) (gone : List Cmd) : SideFrame s (s.recordDiscard cause gone) := by
  unfold State.recordDiscard
  dsimp only
  split <;> exact ⟨rfl, rfl, rfl, List.Subset.refl _⟩

theorem State.discardCooling_sideFrame (pm : Nat) (keep : Option (Bool × Nat)) : SideFrame s (s.discardCooling pm keep) := by
  unfold State.discardCooling
  dsimp only
  exact (SideFrame.port s _).trans ((SideFrame.foldl (fun t c => t.finish_sideFrame c _ _) _).trans (State.recordDiscard_sideFrame _ _ _))

/-! ### A shutdown start for a cause -/

section
variable (k : Start) (f : FaultRec) (table cause : Nat) (keep : Option (Bool × Nat))

theorem State.shutdownRecord_sideFrame : SideFrame s (s.shutdownRecord k f table) := by
  have hl : SideFrame s s.leaveRunning := .of_only s.leaveRunning_only
  unfold State.shutdownRecord
  dsimp only
  split
  · exact hl
  · exact hl.trans ((State.faultShard_sideFrame _ _ _ _ _).trans (State.recordFault_sideFrame _ _))

theorem State.shutdownTell_sideFrame : SideFrame s (s.shutdownTell k f table) := by
  unfold State.shutdownTell
  dsimp only
  refine SideFrame.trans ?_ ((State.soundHorn_sideFrame _ _ _).trans (State.tellTwin_sideFrame _ _ _ _))
  split
  · exact s.assertPfw_sideFrame.trans (State.assertTripo_sideFrame _)
  · exact s.assertPfw_sideFrame

theorem State.shutdownEnter_sideFrame : SideFrame s (s.shutdownEnter cause keep) := by
  have hp (t : State) : SideFrame t { t with pm := { t.pm with offMinDue := none } } := .of_only (ps := [.pm]) (Only.refl _ t).mk_upd
  unfold State.shutdownEnter
  dsimp only
  exact (((SideFrame.of_only s.abortEngines_only).trans (.of_only (State.endSequences_only _))).trans
    (.of_only (State.goTo_only _ _ _))).trans ((hp _).trans ((State.discardCooling_sideFrame _ _ _).trans
      (.of_only (State.trimsNominal_only _))))

theorem State.shutdownWalk_sideFrame (trip : List Nat) : SideFrame s (s.shutdownWalk k f table trip) := by
  unfold State.shutdownWalk
  dsimp only
  split
  · exact (SideFrame.walk _ _).trans ((State.irqCt_sideFrame _ _).trans (.of_only (State.walkBegin_only _)))
  · exact (SideFrame.walk _ _).trans (State.irqCt_sideFrame _ _)

/-- A shutdown start for a cause leaves no request held that its end could release. -/
theorem State.startShutdown_sideFrame (hk : k ≠ .off) : SideFrame s (s.startShutdown k f table cause keep) := by
  rw [State.startShutdown_eq]
  obtain ⟨-, -, rheld, -, -, -⟩ := s.shutdownRecord_sets k f table
  have rs := s.shutdownRecord_sideFrame k f table
  generalize s.shutdownRecord k f table = r at *
  obtain ⟨-, -, theld⟩ := r.shutdownTell_sets k f table
  have ts := r.shutdownTell_sideFrame k f table
  generalize r.shutdownTell k f table = t at *
  obtain ⟨eonly, epm, -⟩ := t.shutdownEnter_sets cause keep
  have es := t.shutdownEnter_sideFrame cause keep
  generalize t.shutdownEnter cause keep = e at *
  have wonly := e.shutdownWalk_only k f table s.walk.tripDue.toList
  have ws := e.shutdownWalk_sideFrame k f table s.walk.tripDue.toList
  generalize e.shutdownWalk k f table s.walk.tripDue.toList = w at *
  have hh : w.twin.heldOn = [] := by rw [wonly.twin_eq, eonly.twin_eq, theld, rheld hk]
  have hs : w.pm.state = .cooling := by rw [wonly.pm_eq, epm]
  have hm : w.mayFire = false := by
    unfold State.mayFire
    rw [hs]
    rfl
  have hx := rs.trans (ts.trans (es.trans ws))
  unfold State.afterAbort
  split
  · exact hx
  · rwa [State.releaseHeld_idle hh (.inr hm)]

end

/-! ## A cause in Ready to Cooling -/

variable {s}

theorem State.receiveAs_sideFrame (h : s.pm.state.logs = true) (f : FaultRec) (table : Nat) : SideFrame s (s.receiveAs f table) := by
  have hst (k : Start) (hk : k ≠ .off) (cause : Nat) := s.startShutdown_sideFrame k f table cause none hk
  have hk : (if f.grade = 3 then Start.gradeH else Start.gradeT) ≠ .off := by split <;> decide
  have hc (c : Ctl) : SideFrame s { s with ctl := c } := .of_only (ps := [.ctl]) (Only.refl _ s).mk_upd
  unfold State.receiveAs
  split
  · exact s.faultShard_sideFrame _ _ _ _
  · split
    · unfold State.receiveW
      cases hs : s.pm.state with
      | ready | firing | running | cooling =>
        exact (hc _).trans ((State.irqCt_sideFrame _ _).trans (State.faultShard_sideFrame _ _ _ _ _))
      | starting | standby | off | coppice => rw [hs] at h; cases h
    · unfold State.receiveTH
      dsimp only
      cases hs : s.pm.state with
      | ready | firing | running => exact hst _ hk _
      | cooling =>
        dsimp only
        split
        · exact s.coolH_sideFrame f table
        · exact s.coolT_sideFrame f table
      | starting | standby | off | coppice => rw [hs] at h; cases h

/-- A cause of grade T or H in Ready, Firing or Running starts a shutdown under its table. -/
theorem State.receiveAs_stops (hs : s.pm.state = .ready ∨ s.pm.state = .firing ∨ s.pm.state = .running) {f : FaultRec}
    (hg : f.grade = 2 ∨ f.grade = 3) (table : Nat) : s.receiveAs f table = s.startShutdown
      (if f.grade = 3 then Start.gradeH else Start.gradeT) f table (if f.grade = 3 then Start.gradeH else Start.gradeT).pmCause none := by
  have h0 : f.grade ≠ 0 ∧ f.grade ≠ 1 := by rcases hg with h | h <;> rw [h] <;> decide
  unfold State.receiveAs State.receiveTH
  rw [if_neg h0.1, if_neg h0.2]
  rcases hs with hs | hs | hs <;> rw [hs]

theorem fld_lt {n : Nat} (w : BitVec n) (hi lo : Nat) : fld w hi lo < 2 ^ (hi + 1 - lo) := Nat.mod_lt _ (Nat.two_pow_pos _)

/-- A shutdown start for a cause, as CauseSeen tells of it. -/
theorem ShutdownStarts.seen {k : Start} {f : FaultRec} {table cause : Nat} {t : State} (h : ShutdownStarts k f table cause s t)
    (hk : k ≠ .off) : t.pm.state = .cooling ∧ t.pm.faultLatch = true ∧ t.out.pfw = true ∧ t.walk.active = true := by
  obtain ⟨h1, h2, -, h4⟩ := h.shutdown
  exact ⟨h1, by rw [h.latch, decide_eq_true hk, Bool.or_true], h4, h2⟩

theorem State.receiveAs_status {f : FaultRec} (h : f.grade = 0) (table : Nat) : s.receiveAs f table = s.faultShard f 5 0xFF 0 := if_pos h

theorem State.receiveAs_warns {f : FaultRec} (h : f.grade = 1) (table : Nat) : s.receiveAs f table = s.receiveW f := by
  unfold State.receiveAs
  rw [h]
  rfl

theorem State.receiveW_counts (h : s.pm.state.logs = true) (f : FaultRec) : (s.receiveW f).pm = s.pm ∧ (s.receiveW f).out = s.out
    ∧ (s.receiveW f).ctl.warnCount = inc 65535 s.ctl.warnCount := by
  have hf (u : State) := u.faultShard_only f 3 0xFF 0
  unfold State.receiveW
  cases hp : s.pm.state with
  | ready | firing | running | cooling => exact ⟨(hf _).pm_eq, (hf _).out_eq, congrArg Ctl.warnCount (hf _).ctl_eq⟩
  | starting | standby | off | coppice => rw [hp] at h; cases h

/-- A device-level cause is seen as its grade says (R132, R136). -/
theorem State.receiveCause_seen (x source : Nat) : CauseSeen x s (s.receiveCause x source) := by
  have hlt : fld (s.causeCfg x) 5 4 < 4 := fld_lt _ 5 4
  unfold CauseSeen State.receiveCause State.receive
  generalize fld (s.causeCfg x) 5 4 = g at hlt ⊢
  have hgr : (FaultRec.mk (BitVec.ofNat 8 (0x10 + x)) (BitVec.ofNat 2 g) (BitVec.ofNat 8 source) 0).grade = BitVec.ofNat 2 g := rfl
  generalize FaultRec.mk (BitVec.ofNat 8 (0x10 + x)) (BitVec.ofNat 2 g) (BitVec.ofNat 8 source) 0 = f at hgr ⊢
  generalize s.tableOf f = table
  refine ⟨fun h => ?_, fun hs h => ?_, fun hs h => ?_⟩
  · rw [State.receiveAs_status (by rw [hgr, h]; rfl)]
    exact ⟨(s.faultShard_only _ _ _ _).pm_eq, (s.faultShard_only _ _ _ _).out_eq⟩
  · rw [State.receiveAs_warns (by rw [hgr, h]; rfl)]
    exact State.receiveW_counts hs f
  · have hg : f.grade = 2 ∨ f.grade = 3 := by
      have h4 : g = 2 ∨ g = 3 := by omega
      rcases h4 with rfl | rfl
      · exact .inl hgr
      · exact .inr hgr
    rw [State.receiveAs_stops hs hg]
    exact (State.startShutdown_starts s _ f table _ none).seen (by split <;> decide)

end

theorem CauseSeen.of_only {x : Nat} {ps : List Part} {s u t : State} (h : CauseSeen x u t) (k : Only ps s u)
    (hp : (Part.cfg ∉ ps ∧ Part.cfgLoaded ∉ ps ∧ Part.sgLoaded ∉ ps) ∧ Part.pm ∉ ps ∧ Part.out ∉ ps ∧ Part.ctl ∉ ps := by decide) :
    CauseSeen x s t := by
  have hc : u.causeCfg x = s.causeCfg x := k.cfgAt_eq _ hp.1
  unfold CauseSeen at h ⊢
  rwa [hc, k.pm_eq hp.2.1, k.out_eq hp.2.2.1, k.ctl_eq hp.2.2.2] at h

/-! ## Copies of a frame (R252) -/

section
variable (s : State) (a : Arrival)

theorem Heard.of_frame (n : Nat) : (Heard.mk a.frame.kind a.frame.src (frameKey a.frame) a.port n).of a.frame = true := by
  unfold Heard.of
  simp only [beq_self_eq_true, Bool.and_self]

theorem State.noteFrame_second : (s.noteFrame a).secondCopy a = true := by
  have hn : s.clk.now < s.clk.now + copyTicks := Nat.lt_add_of_pos_right (by unfold copyTicks; omega)
  unfold State.secondCopy State.heardLive State.noteFrame
  rw [List.any_eq_true]
  refine ⟨⟨a.frame.kind, a.frame.src, frameKey a.frame, a.port, s.clk.now⟩, List.mem_filter.2 ⟨?_, decide_eq_true hn⟩, Heard.of_frame a _⟩
  exact List.mem_append_right _ (List.mem_singleton_self _)

theorem State.dropNote_second : (s.dropNote a).secondCopy a = false := by
  unfold State.secondCopy State.heardLive
  rw [List.any_eq_false]
  intro h hh
  have hm : h ∈ (s.dropNote a).ring.heard := (List.mem_filter.1 hh).1
  have hf := (List.mem_filter.1 hm).2
  simpa using hf

/-- Which copies a device has heard is told by the ring block and the time. -/
theorem State.secondCopy_congr {s t : State} (hr : t.ring = s.ring) (hc : t.clk = s.clk) : t.secondCopy a = s.secondCopy a := by
  unfold State.secondCopy State.heardLive
  rw [hr, hc]

end

/-! ## Frames of the device's own -/

theorem Frame.sealed_crcOk (f : Frame) (p : Link) : (f.sealed p true).crcOk = true := beq_self_eq_true _

/-- A frame that leaves by link A, whatever follows. -/
theorem Sent.of_sendFrame {s u v w : State} {kind dest : Nat} {payload : List Byte} (hl : u.linkOpen .a = s.linkOpen .a)
    (hv : (u.sendFrame .a (w.ownFrame kind dest payload)).ring.tx ⊆ v.ring.tx) (ha : w.ring.address = v.ring.address) :
    Sent kind dest payload s v := by
  intro h
  refine ⟨_, hv (u.sendFrame_sent (hl.trans h) _), rfl, Frame.sealed_crcOk _ _, rfl, rfl, ?_, rfl, rfl⟩
  exact congrArg (BitVec.ofNat 12) ha

/-! ## Heartbeats (R268) -/

/-- The twin block at a heartbeat that leaves. -/
def State.beating (s : State) : State :=
  { s with twin := { s.twin with
    hbSeq := s.twin.hbSeq + 1, hbDue := some (s.clk.now + 100 * usTicks)
    missed := min 15 ((s.clk.now - s.twin.lastHb) / (100 * usTicks)) } }

theorem execHeartbeatSend_sends {s : State} {due : Nat} (hd : s.twin.hbDue = some due) (hc : s.twin.state = .co)
    (hl : s.pm.state.logs = true) : execHeartbeatSend s
      = .next (((s.till due).beating.sendFrame .a ((s.till due).ownFrame 0x20 (s.till due).twin.address (s.till due).heartbeat)).sendFrame .b
        ((s.till due).ownFrame 0x20 (s.till due).twin.address (s.till due).heartbeat)) := by
  unfold execHeartbeatSend
  rw [hd]
  exact if_pos ⟨hc, hl⟩

theorem execHeartbeatSend_apart {s : State} (h : s.twin.state ≠ .co) : execHeartbeatSend s = .next s := by
  unfold execHeartbeatSend
  cases s.twin.hbDue with
  | none => rfl
  | some due => exact if_neg (fun k => h k.1)

theorem execHeartbeatFrame_taken {a : Arrival} {s : State} (hh : s.hears a 0x20 = true) (hc : Clean a) (hm : s.forMe a.frame = true)
    (ht : s.twin.state = .co) (hf : s.fromTwin a.frame = true) (he : s.fencedHere = false) : execHeartbeatFrame a s
      = .next (if s.secondCopy a then s.dropNote a else (s.noteFrame a).takeHeartbeat a.frame.payload) := by
  have hb : (a.crcOk && s.forMe a.frame && s.twin.state == .co && s.fromTwin a.frame && !s.fencedHere) = true := by
    rw [hc.1, hm, ht, hf, he]
    rfl
  unfold execHeartbeatFrame
  rw [if_pos hh, hc.pass_taken hm]
  exact if_pos hb

/-- The masks of both devices differ where they are compared. -/
def State.maskDiffers (s : State) (peer : Nat) (mask : Rails) : Bool := s.readyOrRunning && readyRunningCode peer && mask != s.out.en

section
variable (s : State) (peer : Nat) (mask : Rails)

theorem State.compareMasks_twin : (s.compareMasks peer mask).twin = { s.twin with
    mismatchRun := min 10 (if s.maskDiffers peer mask then s.twin.mismatchRun + 1 else 0)
    mismatch := decide (10 ≤ if s.maskDiffers peer mask then s.twin.mismatchRun + 1 else 0)
      || (s.twin.mismatch && mask != s.out.en) } := by
  unfold State.compareMasks State.maskDiffers
  dsimp only
  generalize (if (s.readyOrRunning && readyRunningCode peer && mask != s.out.en) = true then s.twin.mismatchRun + 1 else 0) = n
  cases decide (10 ≤ n) && !s.twin.mismatch <;> rfl

theorem State.compareMasks_irq : (s.compareMasks peer mask).irq
    = if decide (10 ≤ if s.maskDiffers peer mask then s.twin.mismatchRun + 1 else 0) && !s.twin.mismatch then
        (s.irqGl 8).irq else s.irq := by
  unfold State.compareMasks State.maskDiffers
  dsimp only
  generalize (if (s.readyOrRunning && readyRunningCode peer && mask != s.out.en) = true then s.twin.mismatchRun + 1 else 0) = n
  cases decide (10 ≤ n) && !s.twin.mismatch <;> rfl

theorem State.maskDiffers_iff : s.maskDiffers peer mask = true
    ↔ ((s.pm.state = .ready ∨ s.pm.state = .running) ∧ (peer = 3 ∨ peer = 5)) ∧ mask ≠ s.out.en := by
  unfold State.maskDiffers State.readyOrRunning readyRunningCode
  simp only [Bool.and_eq_true, Bool.or_eq_true, beq_iff_eq, bne_iff_ne]

end

/-! ## The loss of the twin, its requests and its shutdowns -/

/-- The twin is gone, before the cause is received. -/
def State.forsaken (s : State) : State :=
  (State.irqGl { s with twin := { s.twin with lost := inc 255 s.twin.lost } } 7).aloneAgain (10 * msTicks)

theorem execTwinLost_received {s : State} (hc : s.twin.state = .co) (hl : s.pm.state.logs = true) : execTwinLost s
    = .next ((s.till (s.twin.lastHb + 350 * usTicks)).forsaken.receiveCause 4
      ((s.till (s.twin.lastHb + 350 * usTicks)).twin.address % 256)) := by
  unfold execTwinLost
  rw [if_pos ⟨hc, hl⟩]
  generalize s.till (s.twin.lastHb + 350 * usTicks) = u
  rfl

theorem execTwinLost_apart {s : State} (h : s.twin.state ≠ .co) : execTwinLost s = .next s := by
  unfold execTwinLost
  exact if_neg (fun k => h k.1)

section
variable (u : State)

theorem State.forsaken_only : Only [.twin, .irq] u u.forsaken := (Only.refl _ u).mk_upd

theorem State.forsaken_twin : u.forsaken.twin.state = .solo ∧ u.forsaken.twin.hbDue = none
    ∧ u.forsaken.twin.lost = inc 255 u.twin.lost := ⟨rfl, rfl, rfl⟩

theorem State.forsaken_gl : bit u.forsaken.irq.gl 7 = true := bit_putBit_same _ (by decide) _

end

theorem TwinMsg.request {a : Arrival} {s : State} (h : TwinMsg a 9 s) : exec (.twinRequest a) s = .next
    (if s.twin.state = .co ∧ s.fromTwin a.frame = true then (s.noteFrame a).takeRequest (twinBody a.frame) else s.noteFrame a) :=
  congrArg Host.Outcome.next (h.onTwin (fun t =>
    if t.twin.state = .co ∧ t.fromTwin a.frame = true then t.takeRequest (twinBody a.frame) else t))

theorem TwinMsg.shutdown {a : Arrival} {s : State} (h : TwinMsg a 0x0A s) : exec (.twinShutdown a) s = .next
    (if s.twin.state = .co ∧ s.fromTwin a.frame = true then (s.noteFrame a).takeShutdown a.frame.src.toNat (twinBody a.frame)
      else s.noteFrame a) :=
  congrArg Host.Outcome.next (h.onTwin (fun t =>
    if t.twin.state = .co ∧ t.fromTwin a.frame = true then t.takeShutdown a.frame.src.toNat (twinBody a.frame) else t))

/-- A shutdown or a horn whose counterpart has been received ends its event. -/
theorem State.matchStop_length {s : State} {horn : Bool} (h : s.twinTold horn = true) :
    (s.matchStop horn).twin.rxStops.length + 1 = s.stopsLive.length := by
  unfold State.twinTold at h
  obtain ⟨e, he, hp⟩ := List.any_eq_true.1 h
  exact List.length_eraseP_add_one he hp

/-- What leaves at a heartbeat, from the state whose time is the heartbeat's. -/
theorem heartbeat_sent {s u : State} {due : Nat} (hn : u.clk.now = max s.clk.now due) (hu : Only [.clk] s u)
    (ho : u.linkOpen .a = s.linkOpen .a) (hd : u.twinDigest = s.twinDigest) :
    let t := (u.beating.sendFrame .a (u.ownFrame 0x20 u.twin.address u.heartbeat)).sendFrame .b (u.ownFrame 0x20 u.twin.address u.heartbeat)
    t.clk.now = max s.clk.now due ∧ t.twin.hbSeq = s.twin.hbSeq + 1 ∧ t.twin.hbDue = some (t.clk.now + 100 * usTicks)
      ∧ t.twin.missed = min 15 ((t.clk.now - s.twin.lastHb) / (100 * usTicks)) ∧ SamePair { s with twin := { s.twin with hbDue := t.twin.hbDue } } t
      ∧ Sent 0x20 s.twin.address (leBytes 2 s.twin.hbSeq.toNat ++ [BitVec.ofNat 8 s.pm.state.code,
          BitVec.ofNat 8 ((if s.pm.faultLatch then 1 else 0) + (if s.out.passive then 2 else 0) + (if s.pm.state = .cooling then 4 else 0))]
          ++ leBytes 8 s.out.en.toNat ++ leBytes 8 s.inp.enHigh.toNat ++ leBytes 8 t.clk.stamp
          ++ (digestBytes s.twinDigest).take 8 ++ List.replicate 12 0) s t
      ∧ Only [.clk, .twin, .ring] s t := by
  dsimp only
  have hbo : Only [.twin] u u.beating := (Only.refl _ u).mk_upd
  have hbl : u.beating.linkOpen .a = s.linkOpen .a := ho
  have hbt : u.beating.twin = { s.twin with
      hbSeq := s.twin.hbSeq + 1, hbDue := some (u.clk.now + 100 * usTicks)
      missed := min 15 ((u.clk.now - s.twin.lastHb) / (100 * usTicks)) } := by
    unfold State.beating
    rw [hu.twin_eq]
  have hhb : u.heartbeat = leBytes 2 s.twin.hbSeq.toNat ++ [BitVec.ofNat 8 s.pm.state.code,
      BitVec.ofNat 8 ((if s.pm.faultLatch then 1 else 0) + (if s.out.passive then 2 else 0) + (if s.pm.state = .cooling then 4 else 0))]
      ++ leBytes 8 s.out.en.toNat ++ leBytes 8 s.inp.enHigh.toNat ++ leBytes 8 u.clk.stamp
      ++ (digestBytes s.twinDigest).take 8 ++ List.replicate 12 0 := by
    unfold State.heartbeat
    rw [hd, hu.twin_eq, hu.pm_eq, hu.out_eq, hu.inp_eq]
    rfl
  have hsent : Sent 0x20 u.twin.address u.heartbeat s
      ((u.beating.sendFrame .a (u.ownFrame 0x20 u.twin.address u.heartbeat)).sendFrame .b (u.ownFrame 0x20 u.twin.address u.heartbeat)) :=
    .of_sendFrame hbl (State.sendFrame_kept _ .b _) (by
      rw [State.sendFrame_ringSent _ .b _, State.sendFrame_ringSent _ .a _]
      rfl)
  have hto : Only [.ring] u.beating
      ((u.beating.sendFrame .a (u.ownFrame 0x20 u.twin.address u.heartbeat)).sendFrame .b (u.ownFrame 0x20 u.twin.address u.heartbeat)) :=
    (State.sendFrame_only _ _ _).trans (State.sendFrame_only _ _ _)
  generalize (u.beating.sendFrame .a (u.ownFrame 0x20 u.twin.address u.heartbeat)).sendFrame .b
    (u.ownFrame 0x20 u.twin.address u.heartbeat) = t at hsent hto
  have htw : t.twin = _ := hto.twin_eq.trans hbt
  have htc : t.clk = u.clk := hto.clk_eq.trans hbo.clk_eq
  rw [htc, htw]
  rw [← hhb, ← congrArg Twin.address hu.twin_eq]
  refine ⟨hn, rfl, rfl, rfl, ?_, hsent, (hu.mono rfl).trans ((hbo.mono rfl).trans (hto.mono rfl))⟩
  unfold SamePair
  rw [htw]
  exact ⟨rfl, rfl, rfl, rfl, rfl⟩

/-- The first copy of a heartbeat of the twin. -/
theorem heartbeat_taken (s : State) (a : Arrival) :
    let t := (s.noteFrame a).takeHeartbeat a.frame.payload
    let mask : Rails := BitVec.ofNat 64 (leAt a.frame.payload 4 8)
    let both := (s.pm.state = .ready ∨ s.pm.state = .running) ∧ (byteAt a.frame.payload 2 = 3 ∨ byteAt a.frame.payload 2 = 5)
    t.twin.lastHb = s.clk.now ∧ t.twin.missed = 0 ∧ t.twin.peer = byteAt a.frame.payload 2
      ∧ t.secondCopy a = true ∧ t.ring.tx = s.ring.tx ∧ SamePair s t
      ∧ (both → mask ≠ s.out.en → t.twin.mismatchRun = min 10 (s.twin.mismatchRun + 1))
      ∧ (¬ both ∨ mask = s.out.en → t.twin.mismatchRun = 0)
      ∧ (both → mask ≠ s.out.en → 9 ≤ s.twin.mismatchRun → t.twin.mismatch = true ∧ (s.twin.mismatch = false → bit t.irq.gl 8 = true))
      ∧ (s.twin.mismatch = false → s.twin.mismatchRun < 9 → t.twin.mismatch = false ∧ t.irq = s.irq)
      ∧ Only [.ring, .twin, .irq] s t := by
  dsimp only
  let u : State := { s.noteFrame a with twin := { s.twin with lastHb := s.clk.now, missed := 0, peer := byteAt a.frame.payload 2 } }
  have hu : (s.noteFrame a).takeHeartbeat a.frame.payload
      = u.compareMasks (byteAt a.frame.payload 2) (BitVec.ofNat 64 (leAt a.frame.payload 4 8)) := rfl
  have hw := u.compareMasks_twin (byteAt a.frame.payload 2) (BitVec.ofNat 64 (leAt a.frame.payload 4 8))
  have hi := u.compareMasks_irq (byteAt a.frame.payload 2) (BitVec.ofNat 64 (leAt a.frame.payload 4 8))
  have ho := u.compareMasks_only (byteAt a.frame.payload 2) (BitVec.ofNat 64 (leAt a.frame.payload 4 8))
  have hd := u.maskDiffers_iff (byteAt a.frame.payload 2) (BitVec.ofNat 64 (leAt a.frame.payload 4 8))
  have hus : Only [.ring, .twin] s u := (Only.refl _ s).mk_upd
  have h2 : (u.compareMasks (byteAt a.frame.payload 2) (BitVec.ofNat 64 (leAt a.frame.payload 4 8))).secondCopy a = true :=
    (State.secondCopy_congr (s := s.noteFrame a) a ho.ring_eq ho.clk_eq).trans (s.noteFrame_second a)
  have htx : (u.compareMasks (byteAt a.frame.payload 2) (BitVec.ofNat 64 (leAt a.frame.payload 4 8))).ring.tx = s.ring.tx :=
    (congrArg Ring.tx ho.ring_eq : _ = u.ring.tx)
  rw [hu]
  generalize u.compareMasks (byteAt a.frame.payload 2) (BitVec.ofNat 64 (leAt a.frame.payload 4 8)) = t at hw hi ho h2 htx ⊢
  have hrun : u.twin.mismatchRun = s.twin.mismatchRun := rfl
  have hmis : u.twin.mismatch = s.twin.mismatch := rfl
  have hen : u.out.en = s.out.en := rfl
  have hup : u.pm.state = s.pm.state := rfl
  have hui : u.irq = s.irq := rfl
  have h8 : bit (u.irqGl 8).irq.gl 8 = true := bit_putBit_same _ (by decide) _
  rw [hup, hen] at hd
  rw [hrun, hmis, hen] at hw
  rw [hrun, hmis, hui] at hi
  refine ⟨by rw [hw], by rw [hw], by rw [hw], h2, htx, ?_, ?_, ?_, ?_, ?_, (hus.mono rfl).trans (ho.mono rfl)⟩
  · unfold SamePair
    rw [hw]
    exact ⟨rfl, rfl, rfl, rfl, rfl⟩
  · intro hb hm
    rw [hw]
    dsimp only
    rw [if_pos (hd.2 ⟨hb, hm⟩)]
  · intro hb
    rw [hw]
    dsimp only
    rw [if_neg (fun k => hb.elim (fun x => x (hd.1 k).1) (fun x => (hd.1 k).2 x))]
    rfl
  · intro hb hm hr
    rw [hw, hi]
    dsimp only
    rw [if_pos (hd.2 ⟨hb, hm⟩), decide_eq_true (Nat.succ_le_succ hr)]
    refine ⟨rfl, fun h0 => ?_⟩
    rw [h0]
    exact h8
  · intro h0 hr
    rw [hw, hi]
    dsimp only
    have hn : ¬ 10 ≤ (if u.maskDiffers (byteAt a.frame.payload 2) (BitVec.ofNat 64 (leAt a.frame.payload 4 8)) = true then
        s.twin.mismatchRun + 1 else 0) := by
      split <;> omega
    rw [decide_eq_false hn, h0]
    exact ⟨rfl, rfl⟩

/-- The first fault's record takes the fault, where it is empty (R135). -/
theorem State.recordFault_first {s : State} (h : s.fault.first = none) (f : FaultRec) :
    (s.recordFault f).fault.first = some (f, s.faultStamp) := by
  have hb (u : State) (stamp : Nat) : (u.recordBisque f stamp).fault.first = u.fault.first := by
    unfold State.recordBisque
    split
    · rfl
    · rfl
  unfold State.recordFault
  rw [hb]
  have he : s.setLatch.fault.first = none := h
  unfold State.recordFirst
  dsimp only
  rw [he]
  rfl

/-- A shutdown of the twin, in Ready, Firing or Running, that its horn has not told. -/
theorem shutdown_received {s u : State} {n : Nat} {src : Byte} (hu : Only [.ring, .twin] s u)
    (hrx : u.twin.rxStops = s.stopsLive ++ [(false, s.clk.now)])
    (hs : s.pm.state = .ready ∨ s.pm.state = .firing ∨ s.pm.state = .running) (hg : n = 2 ∨ n = 3) (table : Nat) :
    let t := u.receiveAs ⟨0x15, BitVec.ofNat 2 n, src, 0⟩ table
    Shutdown t table ∧ t.pm.faultLatch = true ∧ t.pm.lastCause = (if n = 3 then 0x30 else 0x31)
      ∧ (n = 3 → t.out.tripo = true) ∧ t.out.en = s.out.en
      ∧ (s.fault.first = none → ∃ r m, t.fault.first = some (r, m) ∧ r.cause = 0x15
          ∧ r.source = src ∧ r.grade = BitVec.ofNat 2 n)
      ∧ t.twin.rxStops = s.stopsLive ++ [(false, s.clk.now)] ∧ SameStores s t := by
  have hgr : (BitVec.ofNat 2 n : BitVec 2) = 2 ∨ (BitVec.ofNat 2 n : BitVec 2) = 3 := by
    rcases hg with rfl | rfl
    · exact .inl rfl
    · exact .inr rfl
  have h3 : (BitVec.ofNat 2 n : BitVec 2) = 3 ↔ n = 3 := by
    rcases hg with rfl | rfl <;> decide
  dsimp only
  rw [State.receiveAs_stops (hu.pm_eq ▸ hs) hgr]
  simp only [h3]
  have hk : (if n = 3 then Start.gradeH else Start.gradeT) ≠ .off := by split <;> decide
  have hc : (if n = 3 then Start.gradeH else Start.gradeT).pmCause = if n = 3 then 0x30 else 0x31 := by split <;> rfl
  have hh : n = 3 → (if n = 3 then Start.gradeH else Start.gradeT) = .gradeH := fun h => if_pos h
  generalize (if n = 3 then Start.gradeH else Start.gradeT) = k at hk hc hh ⊢
  have hx := u.startShutdown_starts k ⟨0x15, BitVec.ofNat 2 n, src, 0⟩ table k.pmCause none
  have hs := u.startShutdown_sideFrame k ⟨0x15, BitVec.ofNat 2 n, src, 0⟩ table k.pmCause none hk
  obtain ⟨-, hl, -, -⟩ := hx.seen hk
  refine ⟨hx.shutdown, hl, ?_, fun h => ?_, ?_, fun h => ?_, ?_, ((FaultFrame.of_only hu).trans hx.frame).sameStores⟩
  · rw [hx.lastCause, hc]
    split <;> rfl
  · rw [hx.out, hh h]
    simp
  · rw [hx.out, hu.out_eq]
  · rw [hx.fault, if_neg hk]
    exact ⟨_, _, u.recordFault_first (by rw [hu.fault_eq, h]) _, rfl, rfl, rfl⟩
  · rw [hs.twin]
    exact hrx

/-- Settles O47: heartbeats, the loss of the twin, and what it asks for. -/
theorem heartbeatsAndRequests : Obligations.HeartbeatsAndRequests := by
  unfold Obligations.HeartbeatsAndRequests
  refine ⟨fun due s hd hc hl => ?_, fun a s hh hc hm ht hf he h2 => ?_, fun s h => ?_, fun a s hh hc hm ht hf he h2 => ?_,
    fun s hc hl => ?_, fun a s h hc hf hb hm hh hj => ?_, fun a s h hc => ?_, fun a s h hc hf hb hs => ?_,
    fun a s h hc hf htold hg hs => ?_, fun a s h hc hf htold => ?_, fun a s h hc => ?_⟩
  · refine Answers.of_exec (execHeartbeatSend_sends hd hc hl) ?_
    have hn := s.till_clock due
    have hu := s.till_only due
    have ho := s.till_linkOpen due .a
    have hd : (s.till due).twinDigest = s.twinDigest := rfl
    generalize s.till due = u at hn hu ho hd
    exact heartbeat_sent hn hu ho hd
  · refine Answers.of_exec ((execHeartbeatFrame_taken hh hc hm ht hf he).trans (congrArg Host.Outcome.next (if_pos h2))) ?_
    exact ⟨s.dropNote_second a, rfl, (Only.refl _ s).mk_upd⟩
  · exact ⟨Answers.of_exec (execHeartbeatSend_apart h) rfl, Answers.of_exec (execTwinLost_apart h) rfl⟩
  · have h2' : ¬ s.secondCopy a = true := by
      rw [h2]
      exact Bool.false_ne_true
    refine Answers.of_exec ((execHeartbeatFrame_taken hh hc hm ht hf he).trans (congrArg Host.Outcome.next (if_neg h2'))) ?_
    exact heartbeat_taken s a
  · refine Answers.of_exec (execTwinLost_received hc hl) ?_
    have hn := s.till_clock (s.twin.lastHb + 350 * usTicks)
    have hu := s.till_only (s.twin.lastHb + 350 * usTicks)
    generalize s.till (s.twin.lastHb + 350 * usTicks) = u at hn hu
    have hfo : Only [.clk, .twin, .irq] s u.forsaken := (hu.mono rfl).trans (u.forsaken_only.mono rfl)
    obtain ⟨h1, h2, h3⟩ := u.forsaken_twin
    have hg := u.forsaken_gl
    have hcl : u.forsaken.clk.now = max s.clk.now (s.twin.lastHb + 350 * usTicks) := (congrArg Clk.now u.forsaken_only.clk_eq).trans hn
    rw [hu.twin_eq] at h3
    generalize u.forsaken = v at hfo h1 h2 h3 hg hcl
    have hv : v.pm.state.logs = true := by rw [hfo.pm_eq, hl]
    have hnv : v.pm.state ≠ .standby := fun hs => by rw [hs] at hv; cases hv
    have hf := State.receiveCause_faultFrame hnv 4 (u.twin.address % 256)
    have hs : SideFrame v (v.receiveCause 4 (u.twin.address % 256)) := State.receiveAs_sideFrame hv _ _
    have hse := State.receiveCause_seen (s := v) 4 (u.twin.address % 256)
    refine ⟨(congrArg Clk.now hf.only.clk_eq).trans hcl, ?_, ?_, ?_, by rw [hs.gl, hg], ?_, hse.of_only hfo⟩
    · rw [hs.twin, h1]
    · rw [hs.twin, h2]
    · rw [hs.twin, h3]
    · rw [hf.out, hfo.out_eq]
  · have hm' : (s.noteFrame a).mayFire = true := hm
    have hk : (s.noteFrame a).takeRequest (twinBody a.frame) = State.fireStart { s.noteFrame a with
        ctl := { s.ctl with lastOn := some (s.clk.now, BitVec.ofNat 8 (byteAt (twinBody a.frame) 1)) } } (byteAt (twinBody a.frame) 1) := by
      unfold State.takeRequest
      rw [hb]
      unfold State.onRequest
      dsimp only
      rw [(State.onJoins_congr (s := s) (t := s.noteFrame a) (ps := [.ring]) (Only.refl _ s).mk_upd).trans hj]
      exact State.newRequest_fires (s := s.noteFrame a) hm' hh _
    refine Answers.of_exec (h.request.trans (congrArg Host.Outcome.next ((if_pos ⟨hc, hf⟩).trans hk))) ?_
    have hu : Only [.ctl, .ring] s { s.noteFrame a with
        ctl := { s.ctl with lastOn := some (s.clk.now, BitVec.ofNat 8 (byteAt (twinBody a.frame) 1)) } } := (Only.refl _ s).mk_upd
    have htx : ({ s.noteFrame a with
        ctl := { s.ctl with lastOn := some (s.clk.now, BitVec.ofNat 8 (byteAt (twinBody a.frame) 1)) } } : State).ring.tx = s.ring.tx := rfl
    generalize ({ s.noteFrame a with
        ctl := { s.ctl with lastOn := some (s.clk.now, BitVec.ofNat 8 (byteAt (twinBody a.frame) 1)) } } : State) = u at hu htx
    have hx := u.fireStart_starts (cause := byteAt (twinBody a.frame) 1)
    exact ⟨(hx.firesBy rfl).of_only hu, by rw [hx.only.ring_eq, htx], (hu.mono rfl).trans (hx.only.mono rfl)⟩
  · exact Answers.of_exec (h.request.trans (congrArg Host.Outcome.next (if_neg (fun k => hc.elim (fun x => x k.1)
      (fun x => Bool.false_ne_true (x.symm.trans k.2)))))) ⟨rfl, (Only.refl _ s).mk_upd⟩
  · have hk : (s.noteFrame a).takeRequest (twinBody a.frame) = (s.noteFrame a).startShutdown .off
        ⟨0x40, 0, BitVec.ofNat 8 (byteAt (twinBody a.frame) 1), 0⟩ 0 (byteAt (twinBody a.frame) 1) none := by
      unfold State.takeRequest
      rw [hb]
      exact State.offRequest_stops (s := s.noteFrame a) hs _ _
    refine Answers.of_exec (h.request.trans (congrArg Host.Outcome.next ((if_pos ⟨hc, hf⟩).trans hk))) ?_
    have hu : Only [.ring] s (s.noteFrame a) := (Only.refl _ s).mk_upd
    have hx := (s.noteFrame a).startShutdown_starts .off ⟨0x40, 0, BitVec.ofNat 8 (byteAt (twinBody a.frame) 1), 0⟩ 0
      (byteAt (twinBody a.frame) 1) none
    generalize s.noteFrame a = u at hu hx
    have hout : ((u.startShutdown .off ⟨0x40, 0, BitVec.ofNat 8 (byteAt (twinBody a.frame) 1), 0⟩ 0
        (byteAt (twinBody a.frame) 1) none).out) = { s.out with pfw := true } := by
      rw [hx.out, hu.out_eq]
      simp
    exact ⟨hx.shutdown, hx.lastCause, hx.grace, by rw [hout], by rw [hout], by rw [hx.latch, hu.pm_eq]; simp,
      ((FaultFrame.of_only hu).trans hx.frame).sameStores⟩
  · have hk : (s.noteFrame a).takeShutdown a.frame.src.toNat (twinBody a.frame) = State.receiveAs ((s.noteFrame a).noteStop false)
        ⟨0x15, BitVec.ofNat 2 (byteAt (twinBody a.frame) 0), BitVec.ofNat 8 a.frame.src.toNat, 0⟩ (byteAt (twinBody a.frame) 1) :=
      if_neg (fun k => Bool.false_ne_true (htold.symm.trans k))
    have hu : Only [.ring, .twin] s ((s.noteFrame a).noteStop false) := (Only.refl _ s).mk_upd
    have hrx : ((s.noteFrame a).noteStop false).twin.rxStops = s.stopsLive ++ [(false, s.clk.now)] := rfl
    refine Answers.of_exec (h.shutdown.trans (congrArg Host.Outcome.next ((if_pos ⟨hc, hf⟩).trans hk))) ?_
    generalize (s.noteFrame a).noteStop false = u at hu hrx
    exact shutdown_received hu hrx hs hg _
  · have hk : (s.noteFrame a).takeShutdown a.frame.src.toNat (twinBody a.frame) = (s.noteFrame a).matchStop false := if_pos htold
    refine Answers.of_exec (h.shutdown.trans (congrArg Host.Outcome.next ((if_pos ⟨hc, hf⟩).trans hk))) ?_
    exact ⟨rfl, State.matchStop_length (s := s.noteFrame a) htold, rfl, (Only.refl _ s).mk_upd⟩
  · exact Answers.of_exec (h.shutdown.trans (congrArg Host.Outcome.next (if_neg (fun k => hc.elim (fun x => x k.1)
      (fun x => Bool.false_ne_true (x.symm.trans k.2)))))) ⟨rfl, (Only.refl _ s).mk_upd⟩

end Sys2Proof.Machine
end

section
/-! SUPPORT. Links and horns (O42). -/

set_option Elab.async false

namespace Sys2Proof.Machine

/-! ## Links (R250, R263) -/

section
variable (s : State) (p : Link) (f : GLink → GLink)

theorem otherLink_ne : otherLink p ≠ p := by cases p <;> decide

theorem State.setLink_same : (s.setLink p f).link p = f (s.link p) := by cases p <;> rfl

theorem State.setLink_other : (s.setLink p f).link (otherLink p) = s.link (otherLink p) := by cases p <;> rfl

theorem State.setLink_ring : (s.setLink p f).ring = { s.ring with
    linkA := (s.setLink p f).ring.linkA, linkB := (s.setLink p f).ring.linkB } := by cases p <;> rfl

theorem State.setWrap_kept {w : Bool} (h : (s.link p).wrapped = w) : s.setWrap p w = s := if_pos h

theorem State.setWrap_changed {w : Bool} (h : (s.link p).wrapped ≠ w) :
    s.setWrap p w = (s.setLink p (fun g => { g with wrapped := w })).irqGl 1 := if_neg h

theorem State.setWrap_link (w : Bool) : (s.setWrap p w).link p = { s.link p with wrapped := w } := by
  by_cases h : (s.link p).wrapped = w
  · rw [s.setWrap_kept p h, ← h]
  · rw [s.setWrap_changed p h]
    exact s.setLink_same p _

theorem State.setWrap_other (w : Bool) : (s.setWrap p w).link (otherLink p) = s.link (otherLink p) := by
  by_cases h : (s.link p).wrapped = w
  · rw [s.setWrap_kept p h]
  · rw [s.setWrap_changed p h]
    exact s.setLink_other p _

/-- A change of a link and of GL_IRQ leaves what else the ring block holds. -/
def LinksOnly (s t : State) : Prop := t.ring = { s.ring with linkA := t.ring.linkA, linkB := t.ring.linkB } ∧ Only [.ring, .irq] s t

theorem State.setLink_linksOnly : LinksOnly s (s.setLink p f) := ⟨s.setLink_ring p f, (s.setLink_only p f).mono rfl⟩

theorem State.irqGl_linksOnly (i : Nat) : LinksOnly s (s.irqGl i) := ⟨rfl, (s.irqGl_only i).mono rfl⟩

theorem LinksOnly.trans {s t u : State} (h : LinksOnly s t) (k : LinksOnly t u) : LinksOnly s u :=
  ⟨by rw [k.1, h.1], h.2.trans k.2⟩

theorem State.setWrap_linksOnly (w : Bool) : LinksOnly s (s.setWrap p w) := by
  by_cases h : (s.link p).wrapped = w
  · rw [s.setWrap_kept p h]
    exact ⟨rfl, Only.refl _ s⟩
  · rw [s.setWrap_changed p h]
    exact (s.setLink_linksOnly p _).trans (State.irqGl_linksOnly _ 1)

theorem State.linkState_kept (h : s.ring.state ≠ .noLink) : s.linkState = s := if_pos h

/-- The standing of a device whose first link comes up. -/
theorem State.linkState_fresh (h : s.ring.state = .noLink) : s.linkState = { s with ring := { s.ring with state := s.linkState.ring.state } }
    ∧ ((s.ring.address = 0 ∨ bit s.ring.admittedMap s.ring.address = false) → s.linkState.ring.state = .awaiting)
    ∧ (s.ring.address ≠ 0 → bit s.ring.admittedMap s.ring.address = true → s.inp.root = false →
        bit s.ring.fencedMap s.ring.address = false → s.linkState.ring.state = .isolated) := by
  have hn : ¬ s.ring.state ≠ .noLink := fun k => k h
  unfold State.linkState
  rw [if_neg hn]
  refine ⟨rfl, fun hw => ?_, fun ha hm hr hf => ?_⟩
  · have hb : (s.ring.address != 0 && bit s.ring.admittedMap s.ring.address) = false := by
      obtain hw | hw := hw
      · rw [hw]
        rfl
      · rw [hw]
        exact Bool.and_false _
    dsimp only
    rw [hb]
    rfl
  · dsimp only
    rw [bne_iff_ne.2 ha, hm, hr, hf]
    rfl

end

section
variable {s : State} {p : Link}

theorem execLinkUp_idle (h : s.transmits = false ∨ (s.link p).up = true) : execLinkUp p s = .next s := by
  unfold execLinkUp
  refine if_neg (fun k => ?_)
  rw [Bool.and_eq_true, Bool.not_eq_true'] at k
  exact h.elim (fun x => Bool.false_ne_true (x.symm.trans k.1)) (fun x => Bool.false_ne_true (k.2.symm.trans x))

theorem execLinkUp_second (ht : s.transmits = true) (hu : (s.link p).up = false) (ho : (s.link (otherLink p)).up = true)
    (hr : s.ring.state ≠ .noLink) : execLinkUp p s
      = .next ((s.setLink p (fun g => { g with locked := true, up := true, upSince := s.clk.now })).irqGl 0) := by
  have hb : (s.transmits && !(s.link p).up) = true := by
    rw [ht, hu]
    rfl
  unfold execLinkUp
  rw [if_pos hb]
  dsimp only
  rw [s.setLink_other, if_pos ho, State.linkState_kept]
  rw [s.setLink_ring]
  exact hr

theorem execLinkUp_first (ht : s.transmits = true) (hu : (s.link p).up = false) (ho : (s.link (otherLink p)).up = false) :
    execLinkUp p s = .next ((((s.setLink p (fun g => { g with locked := true, up := true, upSince := s.clk.now })).setWrap
      (otherLink p) true).linkState).irqGl 0) := by
  have hb : (s.transmits && !(s.link p).up) = true := by
    rw [ht, hu]
    rfl
  unfold execLinkUp
  rw [if_pos hb]
  dsimp only
  rw [s.setLink_other, if_neg (fun k => Bool.false_ne_true (ho.symm.trans k))]

theorem execLinkDown_loses (hu : (s.link p).up = true) : execLinkDown p s
    = .next (if (s.link (otherLink p)).up then
        ((s.setLink p (fun g => { g with locked := false, up := false, down := inc 255 g.down })).setWrap p true).irqGl 0
      else
        let t := ((s.setLink p (fun g => { g with locked := false, up := false, down := inc 255 g.down })).setWrap p true).irqGl 0
        { t with ring := { t.ring with state := if t.ring.state = .conflict then .conflict else .noLink } }) := by
  unfold execLinkDown
  rw [if_pos hu]
  have hl (u : State) : (u.irqGl 0).link (otherLink p) = u.link (otherLink p) := by
    cases p <;> rfl
  dsimp only
  rw [hl, State.setWrap_other, State.setLink_other]

end

/-! ## Horns (R254, R255) -/

section
variable {s : State} {p : Link} {orig : BitVec 12} {seq : BitVec 4}

theorem NewHorn.fresh {o q : Nat} (h : NewHorn o q s) (b : HornSeen → Bool) :
    s.hornsLive.any (fun x => b x && x.orig == o && x.seq == q) = false := by
  rw [List.any_eq_false]
  intro x hx hb
  obtain ⟨hm, ht⟩ := List.mem_filter.1 hx
  rw [Bool.and_eq_true, Bool.and_eq_true, beq_iff_eq, beq_iff_eq] at hb
  exact h x hm (of_decide_eq_true ht) ⟨hb.1.2, hb.2⟩

theorem State.sendHorn_txHorns (q : Link) (o n : Nat) : s.linkOpen q = true →
    (s.sendHorn q o n).ring.txHorns = s.ring.txHorns ++ [(q, o, n)] := fun h => by
  unfold State.sendHorn
  rw [if_pos h]

/-- An /H/ that is passed on leaves the ring block but for the horns sent and seen and the open window. -/
theorem State.passHorn_frame (o n : Nat) : (s.passHorn p o n).ring = { s.ring with
      txHorns := (s.passHorn p o n).ring.txHorns, horns := s.hornsLive ++ [⟨o, n, p, false, s.clk.now⟩]
      hornWindow := s.clk.now + msTicks, hornWord := BitVec.ofNat 16 (o % 4096 + 4096 * (n % 16)) }
    ∧ (s.linkOpen (otherLink p) = true → (s.passHorn p o n).ring.txHorns = s.ring.txHorns ++ [(otherLink p, o, n)])
    ∧ Only [.ring] s (s.passHorn p o n) := by
  have hl : (s.noteHorn p o n false).linkOpen (otherLink p) = s.linkOpen (otherLink p) := by cases p <;> rfl
  have hs : ((s.noteHorn p o n false).sendHorn (otherLink p) o n).ring = { (s.noteHorn p o n false).ring with
      txHorns := ((s.noteHorn p o n false).sendHorn (otherLink p) o n).ring.txHorns } := by
    unfold State.sendHorn
    split
    · rfl
    · split <;> rfl
  have ho : Only [.ring] s ((s.noteHorn p o n false).sendHorn (otherLink p) o n) :=
    (s.noteHorn_only p o n false).trans (State.sendHorn_only _ _ _ _)
  have htx := State.sendHorn_txHorns (s := s.noteHorn p o n false) (otherLink p) o n
  rw [hl] at htx
  have hc := congrArg Clk.now ho.clk_eq
  unfold State.passHorn
  dsimp only
  generalize (s.noteHorn p o n false).sendHorn (otherLink p) o n = u at hs ho htx hc ⊢
  refine ⟨?_, htx, ho.trans (Only.refl _ _).mk_upd⟩
  rw [hc, hs]
  rfl

/-- A horn heard for the first time is judged by its originator (R255). -/
theorem State.hornReaches_new {u : State} {o n : Nat} (h : u.hornsLive.any (fun x => x.received && x.orig == o && x.seq == n) = false) :
    u.hornReaches p o n = if u.hornCounts o = true then (u.noteHorn p o n true).takeHorn o n
      else { u.noteHorn p o n true with ring := { (u.noteHorn p o n true).ring with
        hornSuppressed := inc 255 (u.noteHorn p o n true).ring.hornSuppressed } } := by
  unfold State.hornReaches
  rw [if_neg (fun k => Bool.false_ne_true (h.symm.trans k))]

/-- The horn is told in the registers, before its cause is received. -/
def State.hornTold (s : State) (orig seq : Nat) : State :=
  State.irqGl { s with ring := { s.ring with
    hornOrig := orig, hornLastSeq := seq, hornReceived := inc 255 s.ring.hornReceived } } 10

theorem State.takeHorn_matches {u : State} {o n : Nat} (hc : u.twin.state = .co) (ha : o = u.twin.address) (ht : u.twinTold true = true) :
    u.takeHorn o n = (u.hornTold o n).matchStop true := by
  have hb : (u.twin.state == .co && o == u.twin.address) = true := by
    rw [hc, ha]
    exact beq_self_eq_true _
  have hx : ((u.hornTold o n).twin.state == .co && o == (u.hornTold o n).twin.address && (u.hornTold o n).twinTold true) = true := by
    show ((u.twin.state == .co && o == u.twin.address) && u.twinTold true) = true
    rw [hb, ht]
    rfl
  exact if_pos hx

/-- A horn that tells of an event of its own, with the state in which its cause is received. -/
def State.hornNoted (s : State) (orig seq : Nat) : State :=
  if (s.hornTold orig seq).twin.state == .co && orig == (s.hornTold orig seq).twin.address then (s.hornTold orig seq).noteStop true
  else s.hornTold orig seq

theorem State.takeHorn_receives {u : State} {o n : Nat} (h : ¬ (u.twin.state = .co ∧ o = u.twin.address ∧ u.twinTold true = true)) :
    u.takeHorn o n = (u.hornNoted o n).receiveCause 5 (o % 256) := by
  have hx : ¬ ((u.hornTold o n).twin.state == .co && o == (u.hornTold o n).twin.address && (u.hornTold o n).twinTold true) = true := by
    intro k
    rw [Bool.and_eq_true, Bool.and_eq_true, beq_iff_eq, beq_iff_eq] at k
    exact h ⟨k.1.1, k.1.2, k.2⟩
  exact if_neg hx

theorem State.hornNoted_ring (u : State) (o n : Nat) : (u.hornNoted o n).ring = { u.ring with
      hornOrig := o, hornLastSeq := n, hornReceived := inc 255 u.ring.hornReceived }
    ∧ bit (u.hornNoted o n).irq.gl 10 = true ∧ Only [.ring, .irq, .twin] u (u.hornNoted o n) := by
  have hb : bit (u.hornTold o n).irq.gl 10 = true := bit_putBit_same _ (by decide) _
  have ho : Only [.ring, .irq, .twin] u (u.hornTold o n) := (Only.refl _ u).mk_upd
  unfold State.hornNoted
  split
  · exact ⟨rfl, hb, ho.trans (Only.refl _ _).mk_upd⟩
  · exact ⟨rfl, hb, ho⟩

/-- A horn that the device passes on. -/
theorem execHorn_passes (hl : s.pm.state.logs = true) (hu : (s.link p).up = true)
    (ha : s.ring.address = 0 ∨ orig.toNat ≠ s.ring.address) (hn : NewHorn orig.toNat seq.toNat s) : execHorn p orig seq s
      = .next ((s.passHorn p orig.toNat seq.toNat).hornReaches p orig.toNat seq.toNat) := by
  have hb : (s.pm.state.logs && (s.link p).up) = true := by
    rw [hl, hu]
    rfl
  have hp : s.hornPassed p orig.toNat seq.toNat = false := hn.fresh (fun x => !x.received && x.port == p)
  unfold execHorn
  rw [if_pos hb, if_neg (fun k => ha.elim k.1 (fun x => x k.2)), if_neg (fun k => Bool.false_ne_true (hp.symm.trans k))]

/-- A horn of the device's own, and one forwarded lately, go no further. -/
theorem execHorn_drops (h : (s.ring.address ≠ 0 ∧ orig.toNat = s.ring.address) ∨ s.hornPassed p orig.toNat seq.toNat = true) :
    execHorn p orig seq s = .next s := by
  unfold execHorn
  split
  · by_cases ha : s.ring.address ≠ 0 ∧ orig.toNat = s.ring.address
    · exact if_pos ha
    · rw [if_neg ha, if_pos (h.resolve_left ha)]
  · rfl

/-- The horn that has just been passed on has not been judged within 1 ms. -/
theorem NewHorn.passed (hn : NewHorn orig.toNat seq.toNat s) : (s.passHorn p orig.toNat seq.toNat).hornsLive.any
    (fun x => x.received && x.orig == orig.toNat && x.seq == seq.toNat) = false := by
  obtain ⟨hr, -, ho⟩ := s.passHorn_frame (p := p) orig.toNat seq.toNat
  have hh : (s.passHorn p orig.toNat seq.toNat).ring.horns
      = s.hornsLive ++ [⟨orig.toNat, seq.toNat, p, false, s.clk.now⟩] := congrArg Ring.horns hr
  have hf := List.any_eq_false.1 (hn.fresh (fun x => x.received))
  unfold State.hornsLive
  rw [hh, List.any_eq_false]
  intro x hx
  obtain hm | hm := List.mem_append.1 (List.mem_filter.1 hx).1
  · exact hf x hm
  · rw [List.mem_singleton.1 hm]
    exact Bool.false_ne_true

/-- What decides of a horn is the same after it has been passed on. -/
theorem State.passHorn_hornCounts (o n m : Nat) : (s.passHorn p o n).hornCounts m = s.hornCounts m := by
  obtain ⟨hr, -, -⟩ := s.passHorn_frame (p := p) o n
  unfold State.hornCounts State.hearsHorns
  rw [hr]

end

/-- Settles O42: links that come and go, and the horns that a device hears. -/
theorem linksAndHorns : Obligations.LinksAndHorns := by
  unfold Obligations.LinksAndHorns
  refine ⟨fun p s ht => ?_, fun p s ht hu ho hr => ?_, fun p s ht hu ho hr => ?_, fun p s h => ?_, fun p s h => ?_, fun p s h => ⟨?_, ?_⟩,
    fun p s hu => ?_, fun p s hu hw => ?_, fun p orig seq s ha ho => ?_, fun p orig seq h s hm ht hr hp ho hq => ?_,
    fun p orig seq s hl hu ha hn hc => ?_, fun p orig seq s hl hu ha hn hc ht => ?_, fun p orig seq s hl hu ha hn hc hco had htold => ?_⟩
  · refine Answers.of_exec (if_pos ht : execReceiverLock p s = _) ?_
    exact ⟨s.setLink_same p _, s.setLink_other p _, s.setLink_only p _⟩
  · refine Answers.of_exec (execLinkUp_second ht hu ho hr) ?_
    have hk := (s.setLink_linksOnly p (fun g => { g with locked := true, up := true, upSince := s.clk.now })).trans (State.irqGl_linksOnly _ 0)
    have hs : (s.setLink p (fun g => { g with locked := true, up := true, upSince := s.clk.now })).irq = s.irq :=
      (s.setLink_only p _).irq_eq
    refine ⟨s.setLink_same p _, s.setLink_other p _, by rw [hk.1], ?_, hk.2⟩
    rw [← hs]
    rfl
  · refine Answers.of_exec (execLinkUp_first ht hu ho) ?_
    let u := (s.setLink p (fun g => { g with locked := true, up := true, upSince := s.clk.now })).setWrap (otherLink p) true
    have hk : LinksOnly s u := (s.setLink_linksOnly p _).trans (State.setWrap_linksOnly _ _ _)
    have hup : (u.link p).up = true := by
      have hx := State.setWrap_other (s.setLink p (fun g => { g with locked := true, up := true, upSince := s.clk.now })) (otherLink p) true
      have hpp : otherLink (otherLink p) = p := by cases p <;> rfl
      rw [hpp, s.setLink_same] at hx
      exact congrArg GLink.up hx
    have hwr : (u.link (otherLink p)).wrapped = true := congrArg GLink.wrapped (State.setWrap_link _ (otherLink p) true)
    have hus : u.ring.state = .noLink := (congrArg Ring.state hk.1).trans hr
    obtain ⟨hl, hn, hi⟩ := u.linkState_fresh hus
    have hlink : ∀ q, (u.linkState.irqGl 0).link q = u.link q := fun q => by
      rw [hl]
      cases q <;> rfl
    have hirq := bit_putBit_same u.linkState.irq.gl (i := 0) (by decide) true
    have ho3 : Only [.ring, .irq] s (u.linkState.irqGl 0) := hk.2.trans ((u.linkState_only.mono rfl).trans ((State.irqGl_only _ 0).mono rfl))
    have had : u.linkState.ring.address = s.ring.address := by rw [hl, hk.1]
    rw [hk.1] at hn hi
    rw [hk.2.inp_eq] at hi
    exact ⟨by rw [hlink]; exact hup, by rw [hlink]; exact hwr, hirq, hn, hi, had, ho3⟩
  · exact Answers.of_exec (execLinkUp_idle h) rfl
  · exact Answers.of_exec (if_neg (fun k => Bool.false_ne_true (h.symm.trans k)) : execReceiverLock p s = _) rfl
  · exact Answers.of_exec (if_neg (fun k => Bool.false_ne_true (h.symm.trans k)) : execLinkDown p s = _) rfl
  · refine Answers.of_exec (if_neg (fun k => ?_) : execUnwrap p s = _) rfl
    rw [h] at k
    exact Bool.false_ne_true k
  · refine Answers.of_exec (execLinkDown_loses hu) ?_
    let u := (s.setLink p (fun g => { g with locked := false, up := false, down := inc 255 g.down })).setWrap p true
    have hk : LinksOnly s (u.irqGl 0) := ((s.setLink_linksOnly p _).trans (State.setWrap_linksOnly _ _ _)).trans (State.irqGl_linksOnly _ 0)
    have hlink : ∀ q, (u.irqGl 0).link q = u.link q := fun q => by cases q <;> rfl
    have hp : (u.irqGl 0).link p = { s.link p with locked := false, up := false, wrapped := true, down := inc 255 (s.link p).down } := by
      rw [hlink]
      exact (State.setWrap_link _ p true).trans (congrArg (fun g : GLink => { g with wrapped := true }) (s.setLink_same p _))
    have hq : (u.irqGl 0).link (otherLink p) = s.link (otherLink p) := by
      rw [hlink]
      exact (State.setWrap_other _ p true).trans (s.setLink_other p _)
    have hb := bit_putBit_same u.irq.gl (i := 0) (by decide) true
    have hst : (u.irqGl 0).ring.state = s.ring.state := by rw [hk.1]
    have had : (u.irqGl 0).ring.address = s.ring.address := by rw [hk.1]
    by_cases ho : (s.link (otherLink p)).up = true
    · rw [if_pos ho]
      exact ⟨hp, hq, hb, fun _ => hst, fun k => absurd (ho.symm.trans k) (by decide), had, hk.2⟩
    · rw [if_neg ho]
      refine ⟨?_, ?_, hb, fun k => absurd k ho, fun _ hc => ?_, had, hk.2.trans (Only.refl _ _).mk_upd⟩
      · rw [← hp]
        cases p <;> rfl
      · rw [← hq]
        cases p <;> rfl
      · exact if_neg (fun k => hc (hst.symm.trans k))
  · have hb : ((s.link p).up && (s.link p).wrapped) = true := by
      rw [hu, hw]
      rfl
    have hn := s.till_clock ((s.link p).upSince + msTicks)
    have ht := s.till_only ((s.link p).upSince + msTicks)
    refine Answers.of_exec (if_pos hb : execUnwrap p s = _) ?_
    generalize s.till ((s.link p).upSince + msTicks) = u at hn ht
    have hl : ∀ q, u.link q = s.link q := fun q => by
      unfold State.link
      rw [ht.ring_eq]
    have hwr : (u.link p).wrapped ≠ false := by
      rw [hl, hw]
      decide
    have hso := u.setLink_only p (fun g => { g with wrapped := false })
    have hsp := u.setLink_same p (fun g => { g with wrapped := false })
    have hsq := u.setLink_other p (fun g => { g with wrapped := false })
    rw [u.setWrap_changed p hwr]
    generalize u.setLink p (fun g => { g with wrapped := false }) = v at hso hsp hsq
    have hvl : ∀ q, (v.irqGl 1).link q = v.link q := fun q => by cases q <;> rfl
    refine ⟨(congrArg Clk.now hso.clk_eq).trans hn, by rw [hvl, hsp, hl], by rw [hvl, hsq, hl], bit_putBit_same _ (by decide) _, ?_⟩
    exact (ht.mono rfl).trans ((hso.mono rfl).trans ((v.irqGl_only 1).mono rfl))
  · exact Answers.of_exec (execHorn_drops (.inl ⟨ha, ho⟩)) rfl
  · refine Answers.of_exec (execHorn_drops (.inr ?_)) rfl
    unfold State.hornPassed
    rw [List.any_eq_true]
    refine ⟨h, List.mem_filter.2 ⟨hm, decide_eq_true ht⟩, ?_⟩
    rw [hr, hp, ho, hq]
    simp only [beq_self_eq_true, Bool.not_false, Bool.and_self]
  · have hcv : ¬ (s.passHorn p orig.toNat seq.toNat).hornCounts orig.toNat = true := by
      rw [State.passHorn_hornCounts, hc]
      exact Bool.false_ne_true
    obtain ⟨hr, htx, ho⟩ := s.passHorn_frame (p := p) orig.toNat seq.toNat
    have hj := State.hornReaches_new (p := p) (hn.passed (p := p))
    refine Answers.of_exec ((execHorn_passes hl hu ha hn).trans (congrArg Host.Outcome.next (hj.trans (if_neg hcv)))) ?_
    generalize s.passHorn p orig.toNat seq.toNat = v at hr htx ho
    have hw : v.ring.hornWindow = s.clk.now + msTicks := by rw [hr]
    have hsu : v.ring.hornSuppressed = s.ring.hornSuppressed := by rw [hr]
    have hre : v.ring.hornReceived = s.ring.hornReceived := by rw [hr]
    exact ⟨htx, hw, congrArg (inc 255) hsu, hre, ho.trans (Only.refl _ _).mk_upd⟩
  · have hcv : (s.passHorn p orig.toNat seq.toNat).hornCounts orig.toNat = true := (State.passHorn_hornCounts _ _ _).trans hc
    obtain ⟨hr, htx, ho⟩ := s.passHorn_frame (p := p) orig.toNat seq.toNat
    have hj := (execHorn_passes hl hu (.inr ha) hn).trans
      (congrArg Host.Outcome.next ((State.hornReaches_new (p := p) (hn.passed (p := p))).trans (if_pos hcv)))
    generalize s.passHorn p orig.toNat seq.toNat = v at hr htx ho hj
    let w := v.noteHorn p orig.toNat seq.toNat true
    have hw : Only [.ring] s w := ho.trans (State.noteHorn_only _ _ _ _ _)
    have hwt : w.twinTold true = s.twinTold true := by
      unfold State.twinTold State.stopsLive
      rw [hw.twin_eq, hw.clk_eq]
    have hk := State.takeHorn_receives (u := w) (o := orig.toNat) (n := seq.toNat) (by rw [hwt, hw.twin_eq]; exact ht)
    obtain ⟨hxr, hxg, hxo⟩ := w.hornNoted_ring orig.toNat seq.toNat
    have hwr : w.ring = { s.ring with
        txHorns := v.ring.txHorns, horns := w.ring.horns, hornWindow := v.ring.hornWindow, hornWord := v.ring.hornWord } := by
      have hx : w.ring = { v.ring with horns := w.ring.horns } := rfl
      rw [hx, hr]
    have hx : exec (.horn p orig seq) s = .next ((w.hornNoted orig.toNat seq.toNat).receiveCause 5 (orig.toNat % 256)) :=
      hj.trans (congrArg Host.Outcome.next hk)
    refine Answers.of_exec hx ?_
    have hso : Only [.ring, .irq, .twin] s (w.hornNoted orig.toNat seq.toNat) := (hw.mono rfl).trans hxo
    rw [hwr] at hxr
    generalize w.hornNoted orig.toNat seq.toNat = y at hxr hxg hso
    have hy : y.pm.state.logs = true := by rw [hso.pm_eq, hl]
    have hs : SideFrame y (y.receiveCause 5 (orig.toNat % 256)) := State.receiveAs_sideFrame hy _ _
    refine ⟨fun hopen => hs.sent ?_, by rw [hs.ring, hxr], by rw [hs.ring, hxr], by rw [hs.ring, hxr], by rw [hs.ring, hxr],
      by rw [hs.gl, hxg], (State.receiveCause_seen (s := y) 5 _).of_only hso⟩
    rw [hxr, htx hopen]
    exact List.mem_append_right _ (List.mem_singleton_self _)
  · have hcv : (s.passHorn p orig.toNat seq.toNat).hornCounts orig.toNat = true := (State.passHorn_hornCounts _ _ _).trans hc
    obtain ⟨hr, htx, ho⟩ := s.passHorn_frame (p := p) orig.toNat seq.toNat
    have hj := (execHorn_passes hl hu (.inr ha) hn).trans
      (congrArg Host.Outcome.next ((State.hornReaches_new (p := p) (hn.passed (p := p))).trans (if_pos hcv)))
    generalize s.passHorn p orig.toNat seq.toNat = v at hr htx ho hj
    let w := v.noteHorn p orig.toNat seq.toNat true
    have hw : Only [.ring] s w := ho.trans (State.noteHorn_only _ _ _ _ _)
    have hwl : w.stopsLive = s.stopsLive := by
      unfold State.stopsLive
      rw [hw.twin_eq, hw.clk_eq]
    have hwt : w.twinTold true = true := by
      unfold State.twinTold at htold ⊢
      rwa [hwl]
    have hk := State.takeHorn_matches (u := w) (o := orig.toNat) (n := seq.toNat) (by rw [hw.twin_eq, hco]) (by rw [hw.twin_eq, had]) hwt
    have hx : exec (.horn p orig seq) s = .next ((w.hornTold orig.toNat seq.toNat).matchStop true) :=
      hj.trans (congrArg Host.Outcome.next hk)
    have hlen : ((w.hornTold orig.toNat seq.toNat).matchStop true).twin.rxStops.length + 1 = s.stopsLive.length := by
      rw [← hwl]
      exact State.matchStop_length (s := w.hornTold orig.toNat seq.toNat) hwt
    have hrec : w.ring.hornReceived = s.ring.hornReceived := by
      show v.ring.hornReceived = _
      rw [hr]
    have hgl : bit ((w.hornTold orig.toNat seq.toNat).matchStop true).irq.gl 10 = true := bit_putBit_same _ (by decide) _
    refine Answers.of_exec hx ⟨congrArg (inc 255) hrec, hgl, ?_, hlen, (hw.mono rfl).trans (Only.refl _ _).mk_upd⟩
    rw [← hw.twin_eq]
    rfl

end Sys2Proof.Machine
end

section
/-! SUPPORT. Packets that arrive, and commands and replies on the ring (O43). -/

set_option Elab.async false

namespace Sys2Proof.Machine

/-! ## Packets that arrive whole (R204, R213 to R215) -/

section
variable {s : State} {ring bcast : Bool} {src : Nat} {p : List Byte}

/-- What stage 1 has found of a packet that it lets pass. -/
theorem State.stage1_none (h : s.stage1 ring p = none) :
    32 ≤ p.length ∧ hdIntact (p.take 32) = true ∧ cutShort p = false ∧ lengthsOk p = true ∧ hdReservedOk (p.take 32) = true := by
  unfold State.stage1 at h
  dsimp only at h
  split at h
  · cases h
  · split at h
    · cases h
    · split at h
      · cases h
      · rename_i h1 h2 h3
        rw [Bool.or_eq_true, Bool.or_eq_true, Bool.or_eq_true, not_or, not_or, not_or] at h3
        exact ⟨Nat.le_of_not_lt h1, by simpa using h2, by simpa using h3.1.1.1, by simpa using h3.1.1.2, by simpa using h3.1.2⟩

/-- A whole packet that is no continuation goes through stages 2 and 3. -/
theorem State.arrive_whole (h : s.stage1 ring p = none) (hc : s.isCont ring (p.take 32) = false) (ht : hdTotal (p.take 32) = p.length) :
    s.arrive ring src bcast p = s.noteReceived.stage23 { packetCmd ring src p with bcast := bcast } p := by
  obtain ⟨h32, hi, hs, -, -⟩ := State.stage1_none h
  have hn : s.noteReceived.stage1 ring p = none := h
  have hcn : s.noteReceived.isCont ring (p.take 32) = false := hc
  have hp : p.take (hdTotal (p.take 32)) = p := by rw [ht, List.take_length]
  unfold State.arrive
  dsimp only
  rw [hs, hi, ht, decide_eq_true h32, decide_eq_false (Nat.lt_irrefl _)]
  simp only [Bool.false_and, Bool.false_eq_true, if_false, Bool.and_self, Bool.and_false, if_true, hs, Bool.not_false, hcn, hn, ht,
    List.take_length]

/-- A command to this device that stages 2 and 3 let pass. -/
theorem State.stage23_here {c : Cmd} (hr : s.route c = .here) (h3 : s.stage3 c = none) : s.stage23 c p = s.enter c := by
  unfold State.stage23
  dsimp only
  rw [hr, h3]

/-- A packet for this device that stages 1 to 3 accept. -/
theorem State.arrive_here (h : s.stage1 ring p = none) (hc : s.isCont ring (p.take 32) = false) (ht : hdTotal (p.take 32) = p.length)
    (hr : s.route { packetCmd ring src p with bcast := bcast } = .here)
    (h3 : s.stage3 { packetCmd ring src p with bcast := bcast } = none) :
    s.arrive ring src bcast p = s.noteReceived.enter { packetCmd ring src p with bcast := bcast } := by
  rw [State.arrive_whole h hc ht]
  exact State.stage23_here (s := s.noteReceived) hr h3

/-- A broadcast frame's command is for this device. -/
theorem State.route_broadcast {c : Cmd} (hr : c.ring = true) (hd : c.dest = 4095) (hb : c.bcast = true) : s.route c = .here := by
  unfold State.route
  by_cases h : c.dest = 0 ∨ (c.dest = s.ring.address ∧ s.ring.address ≠ 0)
  · exact if_pos h
  · rw [if_neg h, if_pos hr, if_pos ⟨hd, hb⟩]

theorem State.enter_class0 {c : Cmd} (h : c.cls = 0) : s.enter c = { s with port := { s.port with
    cmds := s.port.cmds ++ [{ c with phase := .queued }], execq := s.port.execq ++ [(c.ring, c.tag)] } } := if_pos h

theorem State.enter_signed {c : Cmd} (h : c.cls ≠ 0) : s.enter c = { s with port := { s.port with
    cmds := s.port.cmds ++ [{ c with partDue := if c.phase = .parts then some (s.clk.now + secondTicks) else none }] } } := if_neg h

end

/-! ## Replies to the SPI port -/

section
variable {s : State}

theorem State.post_spi_only {r : Reply} (hr : r.ring = false) (hs : r.reset = false) : Only [.port] s (s.post r) := by
  have hu : Only [.port] s { s.unlisted r with port := { (s.unlisted r).port with replies := (s.unlisted r).port.replies ++ [r] } } :=
    (s.unlisted_only r).trans (Only.refl _ _).mk_upd
  rw [State.post_eq, if_neg (by rw [hr]; exact Bool.false_ne_true)]
  split
  · rw [State.replyOut_idle _ hs]
    exact hu
  · exact (Only.refl _ s).mk_upd

theorem replyPacket_length (payload blocks : List Byte) (op tag cls counter src status len : Nat) :
    (replyPacket (replyMid op tag cls counter src status len) payload blocks).length
      = 32 + (payload ++ padTo 4 payload.length ++ blocks).length := by
  unfold replyPacket replyMid
  simp only [List.length_append, List.length_cons, List.length_nil, length_leBytes]

theorem State.replyTo_plain {c : Cmd} (h : c.signReply = false) (status : Nat) : (s.replyTo c status []).length = 32 := by
  have hx : (s.replyTo c status []).length = 32 + (([] : List Byte) ++ padTo 4 ([] : List Byte).length ++
      (if c.signReply then signBlocks (s.replyDigest (s.replyMidOf c status []) []) s.free else [])).length :=
    replyPacket_length _ _ _ _ _ _ _ _ _
  rw [hx, h]
  rfl

theorem Port.fits_short (q : Port) {n : Nat} (h : n ≤ 48) : q.fits n = true := by
  unfold Port.fits
  rw [decide_eq_true h]
  rfl

theorem State.cmd?_some {ring : Bool} {tag : Nat} {c : Cmd} (h : s.cmd? ring tag = some c) : c.ring = ring ∧ c.tag = tag := by
  have := List.find?_some h
  rw [Bool.and_eq_true, beq_iff_eq, beq_iff_eq] at this
  exact this

theorem NoReset.of_broadcast {c : Cmd} (h : mayBroadcast c.op.toNat = true) : NoReset c := by
  refine ⟨fun k => ?_, fun k => ?_⟩
  · rw [k] at h
    exact absurd h (by decide)
  · rw [k] at h
    exact absurd h (by decide)

end

/-! ## Commands and replies on the ring (R219) -/

section
variable {s : State} {a : Arrival}

theorem State.hears_kind {k : Nat} (h : s.hears a k = true) : a.frame.kind.toNat = k := by
  unfold State.hears at h
  rw [Bool.and_eq_true] at h
  exact beq_iff_eq.1 h.2

theorem State.hears_kind_ne {k : Nat} (h : s.hears a k = true) (hk : k ≠ 2) : a.frame.kind ≠ 2 := fun he => hk (by
  rw [← State.hears_kind h, he]
  rfl)

theorem Clean.pass_removed (h : Clean a) (hr : s.removes a.frame = true) : s.pass a = s := by
  unfold State.pass
  rw [h.meet s, hr]
  rfl

theorem State.removes_own (h : s.ownSource a.frame = true) (hh : 1 ≤ a.frame.hops.toNat) : s.removes a.frame = true := by
  unfold State.removes
  rw [h, decide_eq_true hh]
  rfl

theorem State.removes_reply (h : a.frame.kind = 2) (hr : s.inp.root = true) : s.removes a.frame = true := by
  unfold State.removes
  rw [h, hr]
  simp

theorem State.forMe_all (hd : a.frame.dest = 4095) (h : s.ring.address ≠ 4095) : s.forMe a.frame = false := by
  unfold State.forMe
  have hn : (a.frame.dest.toNat == s.ring.address) = false := by
    rw [hd]
    exact beq_eq_false_iff_ne.2 (fun k => h k.symm)
  rw [hn, Bool.and_false]

theorem execCommandFrame_kept (hh : s.hears a 1 = true) (h : s.forMe a.frame = false ∨ s.ring.state ≠ .admitted) :
    execCommandFrame a s = .next (s.pass a) := by
  have hb : (a.crcOk && s.forMe a.frame && s.obeys) = false := by
    obtain h | h := h
    · rw [h, Bool.and_false, Bool.false_and]
    · rw [obeys_false_iff.2 h, Bool.and_false]
  unfold execCommandFrame
  rw [if_pos hh]
  exact if_neg (fun k => Bool.false_ne_true (hb.symm.trans k))

theorem execCommandFrame_taken (hh : s.hears a 1 = true) (hc : Clean a) (hf : s.forMe a.frame = true) (hs : s.ring.state = .admitted) :
    execCommandFrame a s = .next (s.arrive true a.frame.src.toNat false a.frame.payload) := by
  have hb : (a.crcOk && s.forMe a.frame && s.obeys) = true := by
    rw [hc.1, hf, obeys_iff.2 hs]
    rfl
  unfold execCommandFrame
  rw [if_pos hh, hc.pass_taken hf]
  exact if_pos hb

/-- A broadcast that goes on and is not acted on. -/
theorem execBroadcastFrame_kept (hh : s.hears a 3 = true) (ho : s.ownSource a.frame = false) (hl : s.laterCopy a = false)
    (hs : s.ring.state ≠ .admitted) : execBroadcastFrame a s = .next (s.pass a) := by
  unfold execBroadcastFrame
  rw [if_pos hh, ho, hl, obeys_false_iff.2 hs, Bool.and_false, Bool.false_and, if_neg Bool.false_ne_true,
    if_neg Bool.false_ne_true, if_neg Bool.false_ne_true]

theorem execBroadcastFrame_taken (hh : s.hears a 3 = true) (hc : Clean a) (ho : s.ownSource a.frame = false) (hl : s.laterCopy a = false)
    (hs : s.ring.state = .admitted) : execBroadcastFrame a s
      = .next (((s.pass a).noteFrame a).arrive true a.frame.src.toNat true a.frame.payload) := by
  unfold execBroadcastFrame
  rw [if_pos hh, ho, hl, obeys_iff.2 hs, hc.1]
  rfl

theorem execBroadcastFrame_again (hh : s.hears a 3 = true) (hc : Clean a) (ho : s.ownSource a.frame = false) (hl : s.laterCopy a = true) :
    execBroadcastFrame a s = .next ((s.passAgain a).dropNote a) := by
  unfold execBroadcastFrame
  rw [if_pos hh, ho, hl, hc.1]
  rfl

theorem execBroadcastFrame_back (hh : s.hears a 3 = true) (hc : Clean a) (ho : s.ownSource a.frame = true) (h1 : 1 ≤ a.frame.hops.toNat) :
    execBroadcastFrame a s = .next s.bcastBack := by
  unfold execBroadcastFrame
  rw [if_pos hh, ho, hc.1, decide_eq_true h1, hc.pass_removed (State.removes_own ho h1)]
  rfl

/-- The root's broadcast is back, and its reply leaves. -/
theorem State.bcastBack_answers {g : Fwd} {c : Cmd} (hg : s.port.fwds.find? (fun x => x.dest == 4095) = some g)
    (hc : s.cmd? false g.tag = some c) (hp : c.phase = .replying) : s.bcastBack = (s.dropFwd g.tag).answer c 0 [] := by
  unfold State.bcastBack
  rw [hg]
  dsimp only
  rw [hc]
  exact if_pos hp

theorem State.answer_posts {c : Cmd} (h1 : c.signReply = false) (h2 : s.port.signing = []) (status : Nat) (payload : List Byte) :
    s.answer c status payload = (s.setCmd { c with phase := .replying }).post (s.replyFor c status payload) := by
  have hb : ¬ (c.signReply || !s.port.signing.isEmpty) = true := by
    rw [h1, h2]
    exact Bool.false_ne_true
  unfold State.answer
  exact if_neg hb

end

/-- Settles O43: the frames that carry commands and replies, by what the device is to them. -/
theorem ringCommands : Obligations.RingCommands := by
  unfold Obligations.RingCommands
  refine ⟨fun a s hh hc hf ho => ?_, fun a s hh hc hf hs => ?_, fun a s hh hc hf hs h1 hct ht hr h3 h0 => ?_,
    fun a s hh hc hf ho hr => ?_, fun a c s hh hc hr haw hk hw hlen => ?_, fun a s hh hc ho hd had hl => ?_,
    fun a s hh hc ho hd had hs hl => ?_, fun a s hh hc ho hd had hs hl h1 hct ht hcd h3 hcl hm => ?_,
    fun a g c s hh hc ho hhop hg hcm hcr hcb hp hsr hsg hw hmb => ?_⟩
  · have hr := State.removes_false ho hf (.inl (State.hears_kind_ne hh (by decide)))
    refine Answers.of_exec (execCommandFrame_kept hh (.inl hf)) ?_
    exact ⟨hc.pass_goesOn hr, hc.pass_kept, hc.pass_passed.only⟩
  · refine Answers.of_exec (execCommandFrame_kept hh (.inr hs)) ?_
    exact hc.pass_taken hf
  · have hx := State.arrive_here (s := s) (bcast := false) h1 hct ht hr h3
    refine Answers.of_exec ((execCommandFrame_taken hh hc hf hs).trans (congrArg Host.Outcome.next (hx.trans
      (State.enter_class0 (s := s.noteReceived) h0)))) ?_
    exact ⟨rfl, rfl, (Only.refl _ s).mk_upd⟩
  · have hrm := State.removes_false ho hf (.inr hr)
    have hx : execReplyFrame a s = .next (s.pass a) := by
      unfold execReplyFrame
      rw [if_pos hh, hr, Bool.and_false]
      rfl
    exact Answers.of_exec hx ⟨hc.pass_goesOn hrm, hc.pass_passed.only⟩
  · have hkind : a.frame.kind = 2 := BitVec.eq_of_toNat_eq (State.hears_kind hh)
    let r : Reply := { ring := false, tag := hdTag a.frame.payload, bytes := a.frame.payload, keeps := byteAt a.frame.payload 22 == 1 }
    have hkp : r.keeps = false := beq_eq_false_iff_ne.2 hk
    have hre : r = { ring := false, tag := hdTag a.frame.payload, bytes := a.frame.payload } := by
      show ({ ring := false, tag := hdTag a.frame.payload, bytes := a.frame.payload, keeps := byteAt a.frame.payload 22 == 1 } : Reply) = _
      rw [beq_eq_false_iff_ne.2 hk]
    have hx : execReplyFrame a s = .next ((s.dropFwd (hdTag a.frame.payload)).post r) := by
      unfold execReplyFrame
      rw [if_pos hh, hc.pass_removed (State.removes_reply hkind hr), hc.1, hr]
      dsimp only
      unfold State.takeReply
      dsimp only
      rw [haw]
      rfl
    have hpost := State.post_spi (s := s.dropFwd (hdTag a.frame.payload)) (r := r) rfl hkp hw (Port.fits_short _ hlen)
    have hcq := State.dropCmd_cmd? (s.dropFwd (hdTag a.frame.payload)) false (hdTag a.frame.payload)
    refine Answers.of_exec hx ⟨?_, ?_, ?_, ?_⟩
    · rw [hpost, hre]
      rfl
    · rw [hpost]
      rfl
    · unfold State.cmd? at hcq ⊢
      rw [hpost]
      exact hcq
    · have hd : Only [.port] s (s.dropFwd (hdTag a.frame.payload)) := (Only.refl _ s).mk_upd
      exact hd.trans (State.post_spi_only rfl rfl)
  · have hrm := State.removes_false ho (State.forMe_all hd had) (.inl (State.hears_kind_ne hh (by decide)))
    have hpa : s.passAgain a = s.sendAs (otherLink a.port) a.crcOk a.frame := by
      unfold State.passAgain
      rw [hc.meet s, hrm]
      rfl
    have hx := execBroadcastFrame_again hh hc ho hl
    rw [hpa] at hx
    have hsa := s.sendAs_ringSent (otherLink a.port) a.crcOk a.frame
    have hso := s.sendAs_only (otherLink a.port) a.crcOk a.frame
    have hop := State.sendAs_open (s := s) (p := otherLink a.port)
    have hpq : Passed s (s.sendAs (otherLink a.port) a.crcOk a.frame) := State.sendAs_passed _ _ _
    have hr : (s.sendAs (otherLink a.port) a.crcOk a.frame).ring = { s.ring with
        tx := (s.sendAs (otherLink a.port) a.crcOk a.frame).ring.tx } := by
      unfold State.sendAs
      split
      · rfl
      · split <;> rfl
    refine Answers.of_exec hx ⟨fun hopen => ?_, State.dropNote_second _ a, ?_, hso.trans (Only.refl _ _).mk_upd⟩
    · show (s.sendAs (otherLink a.port) a.crcOk a.frame).ring.tx = _
      rw [hop hopen, hc.1]
    · show ({ (s.sendAs (otherLink a.port) a.crcOk a.frame).ring with heard := _ } : Ring) = _
      rw [hr]
      rfl
  · have hrm := State.removes_false ho (State.forMe_all hd had) (.inl (State.hears_kind_ne hh (by decide)))
    exact Answers.of_exec (execBroadcastFrame_kept hh ho hl hs) ⟨hc.pass_goesOn hrm, hc.pass_passed.only⟩
  · have hrm := State.removes_false ho (State.forMe_all hd had) (.inl (State.hears_kind_ne hh (by decide)))
    have hq : Passed s (s.pass a) := hc.pass_passed
    have hgo : GoesOn a s (s.pass a) := hc.pass_goesOn hrm
    have hx := execBroadcastFrame_taken hh hc ho hl hs
    generalize s.pass a = u at hq hgo hx
    have hu : u.noteFrame a = { s with ring := (u.noteFrame a).ring } := by
      rw [hq]
      rfl
    have h2 := u.noteFrame_second a
    have htx : (u.noteFrame a).ring.tx = u.ring.tx := rfl
    have hck : (u.noteFrame a).clk = s.clk := by rw [hu]
    generalize (u.noteFrame a).ring = r at hu htx
    rw [hu] at hx h2
    have hen := (State.arrive_here (s := { s with ring := r }) (bcast := true) (src := a.frame.src.toNat) h1 hct ht
      (State.route_broadcast rfl hcd rfl) h3).trans
      (State.enter_signed (s := State.noteReceived { s with ring := r })
        (c := { packetCmd true a.frame.src.toNat a.frame.payload with bcast := true }) (Nat.one_le_iff_ne_zero.1 hcl))
    have hph : (packetCmd true a.frame.src.toNat a.frame.payload).phase = .verifying := by
      show (if hdMore (a.frame.payload.take 32) then Phase.parts else Phase.verifying) = _
      rw [hm]
      rfl
    refine Answers.of_exec (hx.trans (congrArg Host.Outcome.next hen)) ⟨h2, hgo.of_tx htx, ?_, (Only.refl _ s).mk_upd⟩
    show s.port.cmds ++ [_] = _
    rw [if_neg (by show ¬ (packetCmd true a.frame.src.toNat a.frame.payload).phase = .parts; rw [hph]; decide)]
    rfl
  · obtain ⟨-, htag⟩ := State.cmd?_some hcm
    have hk : s.bcastBack = ((s.dropFwd g.tag).setCmd { c with phase := .replying }).post { ring := false, tag := c.tag, bytes := s.replyTo c 0 [] } := by
      rw [State.bcastBack_answers hg hcm hp, State.answer_posts (s := s.dropFwd g.tag) hsr hsg]
      have hr : (s.dropFwd g.tag).replyFor c 0 [] = { ring := false, tag := c.tag, bytes := s.replyTo c 0 [] } := by
        show ({ ring := c.ring, tag := c.tag, bytes := s.replyTo c 0 [], keeps := false, reset := resets c.op 0 [] } : Reply) = _
        rw [hcr, (NoReset.of_broadcast hmb).resets]
      rw [hr]
    have hlen : (s.replyTo c 0 []).length ≤ 48 := by
      rw [State.replyTo_plain hsr]
      decide
    have hpost := State.post_spi (s := (s.dropFwd g.tag).setCmd { c with phase := .replying })
      (r := { ring := false, tag := c.tag, bytes := s.replyTo c 0 [] }) rfl rfl hw (Port.fits_short _ hlen)
    have hcq := State.dropCmd_cmd? ((s.dropFwd g.tag).setCmd { c with phase := .replying }) false c.tag
    refine Answers.of_exec ((execBroadcastFrame_back hh hc ho hhop).trans (congrArg Host.Outcome.next hk)) ⟨?_, ?_, ?_, ?_⟩
    · rw [hpost]
      rfl
    · rw [hpost]
      rfl
    · generalize ((s.dropFwd g.tag).setCmd { c with phase := .replying }).post
        { ring := false, tag := c.tag, bytes := s.replyTo c 0 [] } = t at hpost
      rw [← htag]
      unfold State.cmd? at hcq ⊢
      rw [hpost]
      exact hcq
    · have hd : Only [.port] s ((s.dropFwd g.tag).setCmd { c with phase := .replying }) := (Only.refl _ s).mk_upd
      exact hd.trans (State.post_spi_only rfl rfl)

end Sys2Proof.Machine
end

section
/-! SUPPORT. Transfers of the SPI port (O28). -/

set_option Elab.async false

namespace Sys2Proof.Machine

/-! ## SPI transfers (R201 to R206) -/

section
variable {s : State}

theorem State.isCont_first {ring : Bool} {h : List Byte} (hc : hdCont h = false) : s.isCont ring h = false := by
  unfold State.isCont
  rw [hc]
  rfl

/-- A refusal under tag 127 to the SPI port changes its counters and its replies alone. -/
theorem State.post127_spi (status : Nat) (h : List Byte) : (s.post127 false status h).port = { s.port with
      replies := (s.post127 false status h).port.replies, waiting := (s.post127 false status h).port.waiting }
    ∧ Only [.port] s (s.post127 false status h) := by
  unfold State.post127
  dsimp only
  rw [if_neg Bool.false_ne_true]
  split
  · exact ⟨rfl, (Only.refl _ s).mk_upd⟩
  · exact ⟨rfl, (Only.refl _ s).mk_upd⟩

theorem State.countRefusal_header {status : Nat} (h : status = 0x10 ∨ status = 0x30) : (s.countRefusal status).port = { s.port with
      framing := if status = 0x10 then inc 255 s.port.framing else s.port.framing }
    ∧ bit (s.countRefusal status).irq.cm 0 = true := by
  have hb (u : State) : bit (u.irqCm 0).irq.cm 0 = true := bit_putBit_same _ (by decide) _
  rcases h with rfl | rfl
  · exact ⟨rfl, hb _⟩
  · exact ⟨rfl, hb _⟩

/-- A refusal under tag 127 for a header that is not whole, or that meets a port that takes nothing. -/
theorem State.refuse127_header {status : Nat} (h : status = 0x10 ∨ status = 0x30) (hd : List Byte) :
    (s.refuse127 false false status hd).port = { s.port with
        framing := if status = 0x10 then inc 255 s.port.framing else s.port.framing
        replies := (s.refuse127 false false status hd).port.replies, waiting := (s.refuse127 false false status hd).port.waiting }
      ∧ bit (s.refuse127 false false status hd).irq.cm 0 = true ∧ Only [.port, .irq] s (s.refuse127 false false status hd) := by
  obtain ⟨hp, hb⟩ := State.countRefusal_header (s := s) h
  obtain ⟨hq, ho⟩ := State.post127_spi (s := s.countRefusal status) status hd
  have hx : s.refuse127 false false status hd = (s.countRefusal status).post127 false status hd := rfl
  rw [hx]
  refine ⟨by rw [hq, hp], by rw [ho.irq_eq]; exact hb, ((s.countRefusal_only status).mono rfl).trans (ho.mono rfl)⟩

/-- A packet with a header that does not check is refused (R213). -/
theorem State.arrive_spoiled {p : List Byte} (hl : 32 ≤ p.length) (hi : hdIntact (p.take 32) = false) :
    s.arrive false 0 false p = s.noteReceived.refuse127 false false 0x10 (p.take 32) := by
  have h1 : s.noteReceived.stage1 false p = some (true, 0x10) := by
    unfold State.stage1
    dsimp only
    rw [if_neg (Nat.not_lt.2 hl), hi]
    rfl
  unfold State.arrive
  dsimp only
  rw [hi, decide_eq_false (Nat.not_lt.2 hl)]
  simp only [Bool.and_false, Bool.or_false, Bool.false_and, Bool.false_eq_true, if_false, h1]

theorem execSpiWrite_ready (hl : s.listens = true) (hr : s.spirdy = true) (bytes : List Byte) :
    execSpiWrite bytes s = .next ((s.clockOut [s.statusByte]).arrive false 0 false bytes) := by
  unfold execSpiWrite
  rw [if_pos hl]
  exact if_pos hr

theorem execSpiWrite_busy (hl : s.listens = true) (hr : s.spirdy = false) (bytes : List Byte) :
    execSpiWrite bytes s = .next ((s.clockOut [s.statusByte]).noteOverrun.refuse127 false false 0x30 (bytes.take 32)) := by
  unfold execSpiWrite
  rw [if_pos hl]
  exact if_neg (fun k => Bool.false_ne_true (hr.symm.trans k))

theorem execSpiRead_whole {r : Reply} {rest : List Reply} {count : Nat} (hl : s.listens = true) (hr : s.port.replies = r :: rest)
    (hc : r.bytes.length ≤ count) : execSpiRead count s
      = .next (State.resetLeft { s with port := { s.port with miso := s.statusByte :: r.bytes, replies := rest } } r) := by
  unfold execSpiRead
  rw [if_pos hl, hr]
  dsimp only
  rw [if_pos hc, List.take_of_length_le hc]
  rfl

theorem execSpiRead_part {r : Reply} {rest : List Reply} {count : Nat} (hl : s.listens = true) (hr : s.port.replies = r :: rest)
    (hc : count < r.bytes.length) : execSpiRead count s
      = .next (s.clockOut (s.statusByte :: r.bytes.take count)) := by
  unfold execSpiRead
  rw [if_pos hl, hr]
  exact if_neg (Nat.not_le.2 hc)

theorem execSpiRead_empty {count : Nat} (hl : s.listens = true) (hr : s.port.replies = []) :
    execSpiRead count s = .next (s.clockOut (s.statusByte :: List.replicate count 0)) := by
  unfold execSpiRead
  rw [if_pos hl, hr]
  rfl

end

/-- Settles O28: the transfers of the SPI port, by what it finds. -/
theorem spiTransactions : Obligations.SpiTransactions := by
  unfold Obligations.SpiTransactions
  refine ⟨fun bytes s hl hr => ?_, fun bytes s hl hr ha h0 => ?_, fun bytes s hl hr ha h0 => ?_, fun bytes s hl hr hn hi => ?_,
    fun count r rest s hl hr hc hrs => ?_, fun count r rest s hl hr hc => ?_, fun count s hl hr => ?_,
    fun due count r rest s hl hr hc hd hrs => ?_, fun s hl => ?_, fun code count s hl h1 h2 h3 => ?_,
    fun bytes code count s hl => ⟨?_, ?_, ?_, ?_⟩⟩
  · obtain ⟨hp, hb, ho⟩ := State.refuse127_header (s := (s.clockOut [s.statusByte]).noteOverrun) (status := 0x30) (.inr rfl) (bytes.take 32)
    refine Answers.of_exec (execSpiWrite_busy hl hr bytes) ⟨by rw [hp]; rfl, by rw [hp]; rfl, by rw [hp]; rfl, by rw [hp]; rfl,
      by rw [hp]; rfl, hb, ?_⟩
    exact (Only.refl [.port, .irq] s).mk_upd.trans ho
  · obtain ⟨h1, hct, ht, hro, h3⟩ := ha
    have hx := (State.arrive_here (s := s.clockOut [s.statusByte]) (bcast := false) (src := 0) h1 (State.isCont_first hct) ht hro h3).trans
      (State.enter_class0 (s := (s.clockOut [s.statusByte]).noteReceived) h0)
    exact Answers.of_exec ((execSpiWrite_ready hl hr bytes).trans (congrArg Host.Outcome.next hx)) ⟨rfl, (Only.refl _ s).mk_upd⟩
  · obtain ⟨h1, hct, ht, hro, h3⟩ := ha
    have hx := (State.arrive_here (s := s.clockOut [s.statusByte]) (bcast := false) (src := 0) h1 (State.isCont_first hct) ht hro h3).trans
      (State.enter_signed (s := (s.clockOut [s.statusByte]).noteReceived) h0)
    exact Answers.of_exec ((execSpiWrite_ready hl hr bytes).trans (congrArg Host.Outcome.next hx)) ⟨rfl, (Only.refl _ s).mk_upd⟩
  · obtain ⟨hp, hb, ho⟩ := State.refuse127_header (s := (s.clockOut [s.statusByte]).noteReceived) (status := 0x10) (.inl rfl) (bytes.take 32)
    have hx := State.arrive_spoiled (s := s.clockOut [s.statusByte]) hn hi
    refine Answers.of_exec ((execSpiWrite_ready hl hr bytes).trans (congrArg Host.Outcome.next hx)) ⟨by rw [hp]; rfl, by rw [hp]; rfl,
      by rw [hp]; rfl, by rw [hp]; rfl, hb, ?_⟩
    exact (Only.refl [.port, .irq] s).mk_upd.trans ho
  · have hx : State.resetLeft { s with port := { s.port with miso := s.statusByte :: r.bytes, replies := rest } } r
        = { s with port := { s.port with miso := s.statusByte :: r.bytes, replies := rest } } :=
      if_neg (fun k => Bool.false_ne_true (hrs.symm.trans k))
    exact Answers.of_exec ((execSpiRead_whole hl hr hc).trans (congrArg Host.Outcome.next hx)) ⟨rfl, (Only.refl _ s).mk_upd⟩
  · exact Answers.of_exec (execSpiRead_part hl hr hc) ⟨rfl, (Only.refl _ s).mk_upd⟩
  · exact Answers.of_exec (execSpiRead_empty hl hr) ⟨rfl, (Only.refl _ s).mk_upd⟩
  · have hx : State.resetLeft { s with port := { s.port with miso := s.statusByte :: r.bytes, replies := rest } } r
        = { s with port := { s.port with miso := s.statusByte :: r.bytes, replies := rest }
                   pm := { s.pm with resetDue := s.pm.resetDue.map (min s.clk.now) } } := if_pos hrs
    rw [hd] at hx
    exact Answers.of_exec ((execSpiRead_whole hl hr hc).trans (congrArg Host.Outcome.next hx)) ⟨rfl, rfl, (Only.refl _ s).mk_upd⟩
  · exact Answers.of_exec (if_pos hl : execSpiStatus s = _) ⟨rfl, (Only.refl _ s).mk_upd⟩
  · have hb : (s.listens && code != 0xA1 && code != 0xA2 && code != 0xA3) = true := by
      rw [hl, bne_iff_ne.2 h1, bne_iff_ne.2 h2, bne_iff_ne.2 h3]
      rfl
    exact Answers.of_exec (if_pos hb : execSpiUnknownTransfer code count s = _) ⟨rfl, (Only.refl _ s).mk_upd⟩
  · exact Answers.of_exec (if_neg (fun k => Bool.false_ne_true (hl.symm.trans k)) : execSpiWrite bytes s = _) rfl
  · exact Answers.of_exec (if_neg (fun k => Bool.false_ne_true (hl.symm.trans k)) : execSpiRead count s = _) rfl
  · exact Answers.of_exec (if_neg (fun k => Bool.false_ne_true (hl.symm.trans k)) : execSpiStatus s = _) rfl
  · have hb : (s.listens && code != 0xA1 && code != 0xA2 && code != 0xA3) = false := by
      rw [hl]
      rfl
    exact Answers.of_exec (if_neg (fun k => Bool.false_ne_true (hb.symm.trans k)) : execSpiUnknownTransfer code count s = _) rfl

end Sys2Proof.Machine
end

section
/-! SUPPORT. A refutation of what stage 5's refusals change (O29). -/

set_option Elab.async false

namespace Sys2Proof.Machine

/-! ## A broadcast RESET that stage 5 refuses -/

/-- A RESET that counts as a broadcast of the root's own, before stage 5, its signature malformed. -/
def resetBroadcast : Cmd := { cmd with op := 0x45, cls := 1, phase := .verifying, bcast := true, spoiled := true }

/-- A device that awaits a reset at tick 7, with that command in flight and no broadcast on the ring. -/
def resetAwaited : State := { ready with port.cmds := [resetBroadcast], pm.resetDue := some 7 }

/-- Refutes O29: its clause on refused commands changes nothing of the power mode. A broadcast that is refused with no record of it on
the ring is answered OK all the same, and where its opcode is RESET that reply puts off the reset that is due. -/
theorem not_verification : ¬ Obligations.Verification := by
  unfold Obligations.Verification
  rintro ⟨-, -, h, -⟩
  obtain ⟨t, ht, -, -, -, ho⟩ := h false 1 resetBroadcast 0x21 resetAwaited (by decide +kernel) rfl (by decide +kernel) (by decide +kernel)
    (by decide +kernel)
  have hx : afterRow (.verificationComplete false 1) resetAwaited (fun t => t.pm.resetDue == some 7) = false := by decide +kernel
  rw [afterRow_next ht, ho.pm_eq] at hx
  exact absurd hx (by decide)

end Sys2Proof.Machine
end

section
/-! SUPPORT. Signed replies, replies that waited, forward timeouts and the reset after a reply (O30). -/

set_option Elab.async false

namespace Sys2Proof.Machine

/-! ## Signed replies and replies that waited (R205, R233) -/

section
variable {s : State}

/-- A reply is posted to the SPI buffer where it fits. -/
theorem State.post_fits {r : Reply} (hr : r.ring = false) (hw : s.port.waiting = []) (hf : s.port.fits r.bytes.length = true) :
    s.post r = State.replyOut { s.unlisted r with port := { (s.unlisted r).port with replies := s.port.replies ++ [r] } } r := by
  have ht : (s.unlisted r).port.spiTags ≤ s.port.spiTags ∧ (s.unlisted r).port.replies = s.port.replies := by
    unfold State.unlisted
    split
    · exact ⟨Nat.le_refl _, rfl⟩
    · exact ⟨s.dropCmd_spiTags _ _, rfl⟩
  have hb : (s.port.waiting.isEmpty && (s.unlisted r).port.fits r.bytes.length) = true := by
    rw [hw, Port.fits_of_fewer (p := s.port) (q := (s.unlisted r).port) ht.2 ht.1 hf]
    rfl
  rw [State.post_eq, if_neg (by rw [hr]; exact Bool.false_ne_true), if_pos hb, ht.2]

theorem State.unlisted_cmd? {r : Reply} (hk : r.keeps = false) : (s.unlisted r).cmd? r.ring r.tag = none := by
  unfold State.unlisted
  rw [if_neg (by rw [hk]; exact Bool.false_ne_true)]
  exact s.dropCmd_cmd? _ _

theorem State.unlisted_signing (r : Reply) : (s.unlisted r).port.signing = s.port.signing := by
  unfold State.unlisted
  split <;> rfl

theorem State.unlisted_replies (r : Reply) : (s.unlisted r).port.replies = s.port.replies := by
  unfold State.unlisted
  split <;> rfl

/-- Signing with nothing behind the reply that is signed. -/
theorem State.flushSigning_empty (h : s.port.signing = []) (k : Nat) : s.flushSigning k = s := by
  cases k with
  | zero => rfl
  | succ k =>
    unfold State.flushSigning
    rw [h]

/-- The reply of the signing list's only entry, as it is posted. -/
def Unsigned.reply (u : Unsigned) (s : State) : Reply :=
  { ring := u.cmd.ring, tag := u.cmd.tag, bytes := s.replyTo u.cmd u.status.toNat u.payload, keeps := u.status == 1
    reset := resets u.cmd.op u.status.toNat u.payload }

theorem execReplySigned_last {ring : Bool} {tag : BitVec 7} {u : Unsigned} (h : s.port.signing = [u]) (hr : u.cmd.ring = ring)
    (ht : u.cmd.tag = tag.toNat) (hl : (State.post { s with port := { s.port with signing := [] } } (u.reply s)).port.signing = []) :
    execReplySigned ring tag s = .next (State.post { s with port := { s.port with signing := [] } } (u.reply s)).takeFree := by
  have hst : (u.status.toNat == 1) = (u.status == 1) := by
    rw [Bool.eq_iff_iff, beq_iff_eq, beq_iff_eq]
    exact ⟨fun k => BitVec.eq_of_toNat_eq k, fun k => by rw [k]; rfl⟩
  have hp : State.postSigned { s with port := { s.port with signing := [] } } u
      = State.post { s with port := { s.port with signing := [] } } (u.reply s) := by
    show State.post _ ({ ring := u.cmd.ring, tag := u.cmd.tag, bytes := s.replyTo u.cmd u.status.toNat u.payload
                         keeps := u.status.toNat == 1, reset := resets u.cmd.op u.status.toNat u.payload } : Reply) = _
    rw [hst]
    rfl
  unfold execReplySigned
  rw [h]
  dsimp only
  rw [if_pos ⟨hr, ht⟩, hp]
  exact congrArg Host.Outcome.next (State.flushSigning_empty (s := State.takeFree _) hl 192)

/-- The opcode is the reply's fifth byte (R207). -/
theorem State.replyTo_op (c : Cmd) (status : Nat) (payload : List Byte) :
    (s.replyTo c status payload).getD 4 0 = BitVec.ofNat 8 c.op.toNat := rfl

theorem execReplyQueued_fits {r : Reply} {rest : List Reply} (h : s.port.waiting = r :: rest) (hk : r.keeps = false) (ht : r.tag ≠ 127)
    (hf : (s.dropCmd r.ring r.tag).port.fits r.bytes.length = true) : execReplyQueued s
      = .next (State.replyOut { s.dropCmd r.ring r.tag with port := { (s.dropCmd r.ring r.tag).port with
          waiting := rest, replies := s.port.replies ++ [r] } } r) := by
  have hb : ¬ (r.keeps || r.tag == 127) = true := by
    rw [hk, beq_eq_false_iff_ne.2 ht]
    exact Bool.false_ne_true
  unfold execReplyQueued
  rw [h]
  dsimp only
  rw [if_neg hb, if_pos hf]
  rfl

theorem execReplyQueued_full {r : Reply} {rest : List Reply} (h : s.port.waiting = r :: rest) (hk : r.keeps = false) (ht : r.tag ≠ 127)
    (hf : (s.dropCmd r.ring r.tag).port.fits r.bytes.length = false) : execReplyQueued s = .next s := by
  have hb : ¬ (r.keeps || r.tag == 127) = true := by
    rw [hk, beq_eq_false_iff_ne.2 ht]
    exact Bool.false_ne_true
  unfold execReplyQueued
  rw [h]
  dsimp only
  rw [if_neg hb, hf, if_neg Bool.false_ne_true]

theorem execForwardTimeout_answers {tag : BitVec 7} {f : Fwd} {c : Cmd} (hf : s.port.fwds.find? (fun f => f.tag == tag.toNat) = some f)
    (hc : s.cmd? false tag.toNat = some c) (hb : c.bcast = false) : execForwardTimeout tag s
      = .next (((s.till f.due).dropFwd f.tag).finish c 0x50 []) := by
  unfold execForwardTimeout
  rw [hf, hc]
  dsimp only
  rw [hb]
  rfl

theorem execResetTakesEffect_ready {due : Nat} (hd : s.pm.resetDue = some due) (hu : s.resetUnsaid = false) (hs : s.pm.state = .ready) :
    execResetTakesEffect s = .next ((s.till due).deviceReset 0x41 4) := by
  unfold execResetTakesEffect
  rw [hd]
  dsimp only
  rw [hu, if_neg Bool.false_ne_true, hs]

theorem execResetTakesEffect_cooling {due : Nat} (hd : s.pm.resetDue = some due) (hu : s.resetUnsaid = false)
    (hs : s.pm.state = .cooling) : execResetTakesEffect s = .next (s.till due) := by
  unfold execResetTakesEffect
  rw [hd]
  dsimp only
  rw [hu, if_neg Bool.false_ne_true, hs]

theorem execResetTakesEffect_idle (h : s.pm.resetDue = none ∨ s.resetUnsaid = true) : execResetTakesEffect s = .next s := by
  unfold execResetTakesEffect
  cases hd : s.pm.resetDue with
  | none => rfl
  | some due =>
    rw [hd] at h
    exact if_pos (h.resolve_left (fun k => by cases k))

theorem State.replyOut_reset {r : Reply} (h : r.reset = true) (ho : r.bytes.getD 4 0 = 0x45) (hr : r.ring = false) : s.replyOut r
    = { s with pm := { s.pm with resetDue := s.pm.resetDue.map (fun _ => s.clk.now + msTicks) } } := by
  unfold State.replyOut
  rw [h, hr]
  exact if_pos ho

theorem State.deviceReset_resetDue (s : State) (cause : Nat) (bits : BitVec 5) : (s.deviceReset cause bits).pm.resetDue = none := by
  have hr (v : State) (c : Bool) (l : Log) :
      (if c then { v.afterReset with log := l } else v.afterReset).pm.resetDue = none := by
    cases c <;> rfl
  exact hr _ _ _

end

/-- Settles O30: replies that are signed or have waited, a forwarded command without a reply, and the reset that RESET asked for. -/
theorem repliesAndReset : Obligations.RepliesAndReset := by
  unfold Obligations.RepliesAndReset
  refine ⟨fun tag u s h hr ht hw hf hre => ?_, fun tag u s h hr ht hre => ?_, fun tag u due s h hr ht hw hf ho hst hd => ?_,
    fun ring tag s h => ?_, fun r rest s h hk ht hf hre => ?_, fun r rest s h hk ht hf => ?_, fun s h => ?_,
    fun tag f c s hf hc hb => ?_, fun due s hd hu hs => ?_, fun due s hd hu hs => ?_, fun s h => ?_, fun tag s h => ?_⟩
  · let v : State := { s with port := { s.port with signing := [] } }
    have hx : v.post (u.reply s) = { v.unlisted (u.reply s) with port := { (v.unlisted (u.reply s)).port with
        replies := s.port.replies ++ [u.reply s] } } :=
      (State.post_fits (s := v) (r := u.reply s) hr hw hf).trans (State.replyOut_idle _ hre)
    have hl : (v.post (u.reply s)).port.signing = [] := by
      rw [hx]
      exact State.unlisted_signing (s := v) _
    refine Answers.of_exec (execReplySigned_last h hr ht hl) ?_
    have hrep : u.reply s = { ring := false, tag := tag.toNat, bytes := s.replyTo u.cmd u.status.toNat u.payload, keeps := u.status == 1 } := by
      unfold Unsigned.reply
      rw [hr, ht, hre]
    have hq : u.status ≠ 1 → (v.unlisted (u.reply s)).cmd? false tag.toNat = none := fun hn => by
      have := State.unlisted_cmd? (s := v) (r := u.reply s) (beq_eq_false_iff_ne.2 hn)
      rwa [show (u.reply s).ring = false from hr, show (u.reply s).tag = tag.toNat from ht] at this
    have hvo : Only [.port] s (v.unlisted (u.reply s)) := (Only.refl [.port] s).mk_upd.trans (v.unlisted_only _)
    show (v.post (u.reply s)).port.signing = [] ∧ (v.post (u.reply s)).free + 1 = s.free + 1 ∧ _
    refine ⟨hl, ?_, ?_, fun hn => ?_, ?_⟩
    · rw [hx]
      exact congrArg (· + 1) hvo.free_eq
    · show (v.post (u.reply s)).port.replies = _
      rw [hx, hrep]
    · show (v.post (u.reply s)).cmd? false tag.toNat = none
      rw [hx]
      exact hq hn
    · have hpo : Only [.port] s (v.post (u.reply s)) := by
        rw [hx]
        exact hvo.trans (Only.refl _ _).mk_upd
      exact (hpo.mono rfl).trans ((State.takeFree_only _).mono rfl)
  · let v : State := { s with port := { s.port with signing := [] } }
    have hv : Only [.port] s v := (Only.refl [.port] s).mk_upd
    obtain ⟨hpo, -⟩ := State.post_only_still (s := v) (r := u.reply s) hre
    have hpt : (v.post (u.reply s)).port = (v.unlisted (u.reply s)).port := by
      rw [State.post_eq, if_pos (show (u.reply s).ring = true from hr), State.replyOut_port, (State.sendFrame_only _ _ _).port_eq]
    have hl : (v.post (u.reply s)).port.signing = [] := by
      rw [hpt]
      exact State.unlisted_signing (s := v) _
    refine Answers.of_exec (execReplySigned_last h hr ht hl) ?_
    show (v.post (u.reply s)).port.signing = [] ∧ (v.post (u.reply s)).free + 1 = s.free + 1
      ∧ (v.post (u.reply s)).port.replies = s.port.replies ∧ _
    refine ⟨hl, ?_, ?_, fun hn => ?_, ?_⟩
    · exact congrArg (· + 1) (hpo.free_eq.trans hv.free_eq)
    · rw [hpt]
      exact State.unlisted_replies (s := v) _
    · have hq := State.unlisted_cmd? (s := v) (r := u.reply s) (beq_eq_false_iff_ne.2 hn)
      rw [show (u.reply s).ring = true from hr, show (u.reply s).tag = tag.toNat from ht] at hq
      show (v.post (u.reply s)).cmd? true tag.toNat = none
      unfold State.cmd? at hq ⊢
      rw [hpt]
      exact hq
    · exact ((hv.mono rfl).trans (hpo.mono rfl)).trans ((State.takeFree_only _).mono rfl)
  · let v : State := { s with port := { s.port with signing := [] } }
    have hre : (u.reply s).reset = true := by
      show resets u.cmd.op u.status.toNat u.payload = true
      rw [ho, hst]
      rfl
    have hop : (u.reply s).bytes.getD 4 0 = 0x45 := by
      refine (s.replyTo_op u.cmd _ _).trans ?_
      rw [ho]
      rfl
    have hx := (State.post_fits (s := v) (r := u.reply s) hr hw hf).trans (State.replyOut_reset hre hop hr)
    have hvo : Only [.port] s (v.unlisted (u.reply s)) := (Only.refl [.port] s).mk_upd.trans (v.unlisted_only _)
    have hl : (v.post (u.reply s)).port.signing = [] := by
      rw [hx]
      exact State.unlisted_signing (s := v) _
    have hpo : Only [.pm, .port] s (v.post (u.reply s)) := by
      rw [hx]
      exact (hvo.mono rfl).mk_upd
    refine Answers.of_exec (execReplySigned_last h hr ht hl) ?_
    show (v.post (u.reply s)).port.signing = [] ∧ (v.post (u.reply s)).port.replies.length = s.port.replies.length + 1
      ∧ (v.post (u.reply s)).pm.resetDue = some (s.clk.now + msTicks) ∧ _
    refine ⟨hl, ?_, ?_, (hpo.mono rfl).trans ((State.takeFree_only _).mono rfl)⟩
    · rw [hx]
      exact List.length_append
    · rw [hx]
      show (v.unlisted (u.reply s)).pm.resetDue.map (fun _ => (v.unlisted (u.reply s)).clk.now + msTicks) = _
      rw [hvo.pm_eq, hvo.clk_eq, hd]
      rfl
  · have hx : execReplySigned ring tag s = .next s := by
      unfold execReplySigned
      rw [h]
    exact Answers.of_exec hx rfl
  · refine Answers.of_exec ((execReplyQueued_fits h hk ht hf).trans (congrArg Host.Outcome.next (State.replyOut_idle _ hre))) ?_
    exact ⟨rfl, rfl, s.dropCmd_cmd? _ _, (Only.refl _ s).mk_upd⟩
  · exact Answers.of_exec (execReplyQueued_full h hk ht hf) rfl
  · have hx : execReplyQueued s = .next s := by
      unfold execReplyQueued
      rw [h]
    exact Answers.of_exec hx rfl
  · obtain ⟨hcr, hct⟩ := State.cmd?_some hc
    have hft : f.tag = tag.toNat := beq_iff_eq.1 (List.find?_some hf :)
    have ht := s.till_only f.due
    have hn := s.till_clock f.due
    refine Answers.of_exec (execForwardTimeout_answers hf hc hb) ?_
    generalize s.till f.due = v at ht hn ⊢
    have hvd : Only [.port] v (v.dropFwd f.tag) := (Only.refl [.port] v).mk_upd
    have hre : resets c.op 0x50 [] = false := by simp [resets]
    obtain ⟨hfo, hfr, -⟩ := (v.dropFwd f.tag).finish_only_still (c := c) (status := 0x50) (payload := []) hre
      (fun k => absurd (hb.symm.trans k) Bool.false_ne_true) (by unfold Uncounted; decide)
    have hsd : SameReply s (v.dropFwd f.tag) := (SameReply.of_port ht.port_eq (by unfold State.replyAddr; rw [ht.ring_eq]) ht.ident_eq).trans
      ⟨rfl, rfl, rfl, rfl, rfl, rfl⟩
    refine ⟨?_, ?_, ((v.dropFwd f.tag).finish_answered c (by decide) []).of_same hsd, ?_⟩
    · rw [hfo.clk_eq]
      exact hn
    · have hpd := (v.dropFwd f.tag).finish_decided c 0x50 []
      generalize ((v.dropFwd f.tag).finish c 0x50 []).port = q at hpd ⊢
      rw [hpd]
      show v.port.fwds.filter (fun g => g.tag != f.tag) = _
      rw [ht.port_eq, hft]
    · have hto : Only [.clk, .port, .irq, .ring, .log] s ((v.dropFwd f.tag).finish c 0x50 []) :=
        (ht.mono rfl).trans ((hvd.mono rfl).trans (hfo.mono rfl))
      have hsr : Part.same .ring s ((v.dropFwd f.tag).finish c 0x50 []) := (hfr hcr).trans ht.ring_eq
      exact hto.without hsr
  · refine Answers.of_exec (execResetTakesEffect_ready hd hu hs) ?_
    have ht := s.till_only due
    have hn := s.till_clock due
    obtain ⟨p1, p2, p3⟩ := (s.till due).deviceReset_pm 0x41 4
    obtain ⟨d1, d2, d3, d4, d5, d6, d7, d8, d9⟩ := (s.till due).deviceReset_frame 0x41 4
    have p4 := (s.till due).deviceReset_resetDue 0x41 4
    generalize s.till due = v at ht hn p1 p2 p3 p4 d1 d2 d3 d4 d5 d6 d7 d8 d9 ⊢
    rw [ht.pm_eq] at d1
    rw [ht.cfg_eq] at d4
    rw [ht.sec_eq] at d5
    rw [ht.kiln_eq] at d6
    rw [ht.fault_eq] at d7
    rw [ht.pending_eq] at d8
    exact ⟨d9.trans hn, p1, p2, p3, d1, p4, d2, d3, d4, d5, d6, d7, d8⟩
  · exact Answers.of_exec (execResetTakesEffect_cooling hd hu hs) ⟨s.till_clock due, hd, s.till_only due⟩
  · exact Answers.of_exec (execResetTakesEffect_idle h) rfl
  · have hx : execForwardTimeout tag s = .next s := by
      unfold execForwardTimeout
      rw [h]
    exact Answers.of_exec hx rfl

end Sys2Proof.Machine
end

section
/-! SUPPORT. Registers whose writes act, and the enumeration (O45). -/

set_option Elab.async false

namespace Sys2Proof.Machine

/-! ## Registers whose writes act (R206, R347) -/

/-- A word of a register outside the configuration that may be written is written, and what follows from it happens. -/
theorem State.writeLive_acts {s : State} {k : Carrier} {a : Nat} {v : Word} {r : Reg} (hl : s.pm.state.logs = true) (hr : regAt a = some r)
    (hv : r.row.keep = .view) (hm : s.changes r v &&& ~~~(s.mayWrite k r) = 0) (hc : s.changes r v ≠ 0)
    (ho : s.ownRule r v (s.changes r v) = none) :
    s.writeLive k a v = (s.writeContent r v).writeAfter s.cfg r v (s.changes r v) := by
  have hj : s.judgeWord k a v = none := by
    unfold State.judgeWord
    rw [hr]
    dsimp only
    rw [if_neg (fun h => h hm), if_neg hc, ho]
  have hw : State.writeWord (s, []) (a, v) = (s.writeContent r v, [⟨s.cfg, r, v, s.changes r v⟩]) := by
    unfold State.writeWord
    dsimp only
    rw [hr]
    exact if_neg hc
  have hg : changedCfg [⟨s.cfg, r, v, s.changes r v⟩] = false := by
    unfold changedCfg
    rw [List.any_cons, hv]
    rfl
  unfold State.writeLive State.writeOne
  rw [if_pos hl, hj]
  dsimp only
  rw [hw]
  dsimp only
  rw [hg]
  rfl

/-! ## Claims and masks -/

theorem one_beyond {n a i : Nat} (h : n ≤ a) : bit (one n a) i = false := by
  rw [bit_one, decide_eq_false_iff_not]
  omega

theorem bit_or {n : Nat} (u w : BitVec n) (i : Nat) : bit (u ||| w) i = (bit u i || bit w i) := BitVec.getLsbD_or

theorem mem_bitsOf {n i : Nat} {w : BitVec n} (h : i ∈ bitsOf w) : i < n ∧ bit w i = true := by
  obtain ⟨h1, h2⟩ := List.mem_filter.1 h
  exact ⟨List.mem_range.1 h1, h2⟩

/-- A mask has no more bits than a list that names each of them. -/
theorem countBits_le {n : Nat} {w : BitVec n} {l : List Nat} (h : ∀ i, i < n → bit w i = true → i ∈ l) : countBits w ≤ l.length := by
  have hd : (bitsOf w).Nodup := List.nodup_range.filter _
  refine (hd.subperm (fun i hi => ?_)).length_le
  obtain ⟨h1, h2⟩ := mem_bitsOf hi
  exact h i h1 h2

theorem bit_claimMask_from {l : List (Claim × Nat)} {p : Claim → Bool} {a : Nat} (ha : a < 4096) : ∀ w : BitVec 4096,
    bit (l.foldl (fun w e => if p e.1 then w ||| one 4096 e.2 else w) w) a = true ↔ bit w a = true ∨ ∃ e ∈ l, p e.1 = true ∧ e.2 = a := by
  induction l with
  | nil => exact fun w => ⟨.inl, fun h => h.resolve_right (fun ⟨_, h, _⟩ => by cases h)⟩
  | cons e l ih =>
    intro w
    rw [List.foldl_cons, ih]
    cases hp : p e.1 with
    | false =>
      rw [if_neg Bool.false_ne_true, List.exists_mem_cons_iff, hp]
      simp
    | true =>
      rw [if_pos rfl, bit_or, bit_one, List.exists_mem_cons_iff, hp]
      simp [ha, or_assoc]

theorem bit_claimMask {l : List (Claim × Nat)} {p : Claim → Bool} {a : Nat} (ha : a < 4096) :
    bit (claimMask l p) a = true ↔ ∃ e ∈ l, p e.1 = true ∧ e.2 = a := by
  unfold claimMask
  rw [bit_claimMask_from ha, bit_zero]
  simp

/-- The ring map holds an enrolled device at its address where no other device has that address. -/
theorem get?_foldl_insert {a : Nat} {u : Uid} : ∀ {l : List (Claim × Nat)} {m : Tab Uid}, Tab.wf m = true →
    (∀ x ∈ l, x.2 = a → x.1.uid = u) → ((∃ x ∈ l, x.2 = a) ∨ Tab.get? m a = some u) →
    Tab.get? (l.foldl (fun m e => Tab.insert m e.2 e.1.uid) m) a = some u
  | [], m, _, _, h => h.resolve_left (fun ⟨_, h, _⟩ => by cases h)
  | x :: l, m, hm, hu, h => by
    rw [List.foldl_cons]
    refine get?_foldl_insert (Tab.wf_insert hm _ _) (fun y hy => hu y (List.mem_cons_of_mem _ hy)) ?_
    rw [Tab.get?_insert m x.2 a x.1.uid hm]
    by_cases hx : x.2 = a
    · exact .inr (by rw [if_pos hx, hu x (List.mem_cons_self) hx])
    · rw [if_neg hx]
      refine h.imp_left (fun ⟨y, hy, hya⟩ => ?_)
      rcases List.mem_cons.1 hy with rfl | hy
      · exact absurd hya hx
      · exact ⟨y, hy, hya⟩

/-- Claims in token order. -/
def inOrder (l : List Claim) : List Claim := l.mergeSort (fun a b => decide (a.pos ≤ b.pos))

theorem mem_inOrder {l : List Claim} {c : Claim} : c ∈ inOrder l ↔ c ∈ l := List.mem_mergeSort

theorem claimKeeps_alone {map : Tab Uid} {l : List Claim} {c : Claim} (h0 : c.addr ≠ 0) (h : ∀ d ∈ l, d.addr = c.addr → d = c) :
    claimKeeps map l c = true := by
  have hr : l.filter (fun d => d.addr == c.addr && d.uid != c.uid) = [] := by
    refine List.filter_eq_nil_iff.2 fun d hd hk => ?_
    rw [Bool.and_eq_true, beq_iff_eq, bne_iff_ne] at hk
    exact hk.2 (congrArg Claim.uid (h d hd hk.1))
  unfold claimKeeps
  rw [hr]
  simp [h0]

/-- Claims of different addresses all keep them (R258). -/
theorem State.settleClaims_distinct (s : State) {l : List Claim} (h : ∀ c ∈ l, c.addr ≠ 0 ∧ ∀ d ∈ l, d.addr = c.addr → d = c) :
    s.settleClaims l = ((inOrder l).map (fun c => (c, c.addr)), []) := by
  have hk : ∀ c ∈ inOrder l, claimKeeps s.ring.map (inOrder l) c = true := fun c hc => by
    obtain ⟨h1, h2⟩ := h c (mem_inOrder.1 hc)
    exact claimKeeps_alone h1 (fun d hd => h2 d (mem_inOrder.1 hd))
  have h1 : (inOrder l).filter (claimKeeps s.ring.map (inOrder l)) = inOrder l := List.filter_eq_self.2 hk
  have h2 : (inOrder l).filter (fun c => c.addr != 0 && !claimKeeps s.ring.map (inOrder l) c) = [] := by
    refine List.filter_eq_nil_iff.2 fun c hc k => ?_
    rw [hk c hc] at k
    simp at k
  show (_ ++ _, _) = _
  have hm : ∀ w, reassign w 64 ((inOrder l).filter (fun c => c.addr != 0 && !claimKeeps s.ring.map (inOrder l) c)) = [] := fun w => by
    rw [h2]
    rfl
  show (((inOrder l).filter (claimKeeps s.ring.map (inOrder l))).map (fun c => (c, c.addr))
    ++ reassign _ 64 ((inOrder l).filter (fun c => c.addr != 0 && !claimKeeps s.ring.map (inOrder l) c)),
    reassign _ 64 ((inOrder l).filter (fun c => c.addr != 0 && !claimKeeps s.ring.map (inOrder l) c))) = _
  rw [hm, h1, List.append_nil]

/-- The claims that ask for admission, each with its address, in token order. -/
def wanting (r : List (Claim × Nat)) : List (Claim × Nat) :=
  (r.mergeSort (fun a b => decide (a.1.pos ≤ b.1.pos))).filter (fun e => e.1.admitted)

theorem State.admittedClaims_eq (s : State) (r : List (Claim × Nat)) : s.admittedClaims r = (wanting r).take (s.ringLimit - 1) := rfl

theorem mem_wanting {r : List (Claim × Nat)} {e : Claim × Nat} : e ∈ wanting r ↔ e ∈ r ∧ e.1.admitted = true := by
  unfold wanting
  rw [List.mem_filter, List.mem_mergeSort]

theorem wanting_length (r : List (Claim × Nat)) : (wanting r).length = (r.filter (fun x => x.1.admitted)).length :=
  ((List.mergeSort_perm _ _).filter _).length_eq

theorem settled_admitted (l : List Claim) :
    (((inOrder l).map (fun c => (c, c.addr))).filter (fun x => x.1.admitted)).length = (l.filter (fun c => c.admitted)).length := by
  rw [List.filter_map, List.length_map]
  exact ((List.mergeSort_perm _ _).filter _).length_eq

/-! ## The end of an enumeration (R257, R258) -/

section
variable {s : State} {e : Enum} {n : Nat}

/-- The ring block as an enumeration of `n` positions closes. -/
def State.closedRing (s : State) (e : Enum) (n : Nat) : Ring :=
  let r := s.settleClaims e.claims
  let adm := s.admittedClaims r.1
  let map := s.newMap r.1
  { s.ring with
    enum := none, enumDone := true, joinDue := none
    admittedMap := one 4096 1 ||| claimMask adm (fun _ => true), fencedMap := claimMask r.1 (fun c => c.fenced)
    map := map, absent := (map.map Prod.fst).filter (fun a => !r.1.any (fun x => x.2 == a))
    overBudget := decide (s.ringLimit < n) || decide (adm.length < (r.1.filter (fun x => x.1.admitted)).length)
    duration := min 65535 ((s.clk.now - e.launch) / 2000), timeDue := some (s.clk.now + msTicks), state := .admitted }

/-- A change that leaves the ring block as it is, and keeps GL_IRQ's bits. -/
structure RingStays (s t : State) : Prop where
  ring : RingSent s.ring t.ring
  gl : ∀ i, bit s.irq.gl i = true → bit t.irq.gl i = true
  only : Only [.ring, .irq] s t

theorem RingStays.refl (s : State) : RingStays s s := ⟨.refl _, fun _ h => h, .refl _ s⟩

theorem RingStays.trans {t u : State} (h : RingStays s t) (k : RingStays t u) : RingStays s u :=
  ⟨h.ring.trans k.ring, fun i hi => k.gl i (h.gl i hi), h.only.trans k.only⟩

theorem State.irqGl_stays (s : State) (i : Nat) : RingStays s (s.irqGl i) :=
  ⟨.refl _, fun _ h => bit_putBit_true _ _ h, (s.irqGl_only i).mono rfl⟩

theorem RingStays.ite {t : State} {b : Bool} (h : RingStays s t) : RingStays s (if b then t else s) := by
  cases b
  · exact .refl s
  · exact h

theorem State.sendFrame_stays (s : State) (p : Link) (f : Frame) : RingStays s (s.sendFrame p f) := by
  have h := s.sendFrame_only p f
  exact ⟨s.sendFrame_ringSent p f, fun i hi => by rw [h.irq_eq]; exact hi, h.mono rfl⟩

theorem State.becomeAdmitted_ring (s : State) : s.becomeAdmitted.ring = { s.ring with state := .admitted } := rfl

/-- What the closure of an enumeration leaves, where no other is asked for. -/
theorem State.closeEnum_closes (ha : e.again = false) : RingSent (s.closedRing e n) (s.closeEnum e n).ring
    ∧ bit (s.closeEnum e n).irq.gl 2 = true ∧ Only [.ring, .twin, .irq] s (s.closeEnum e n) := by
  let v : State := { s with ring := { s.closedRing e n with state := s.ring.state } }
  obtain ⟨u, hu, hv⟩ : ∃ u, s.closeEnum e n = u ∧ RingStays (v.becomeAdmitted.irqGl 2) u := by
    refine ⟨_, rfl, ?_⟩
    unfold State.closeEnum
    dsimp only
    rw [ha]
    refine RingStays.trans ?_ (State.sendFrame_stays _ _ _)
    exact (RingStays.ite (State.irqGl_stays _ 3)).trans (RingStays.ite (State.irqGl_stays _ 5))
  rw [hu]
  exact ⟨hv.ring, hv.gl 2 (bit_putBit_same _ (by decide) true), (s.closeEnum_only e n).mono rfl |> fun h => by rwa [← hu]⟩

/-- An enumeration that was asked for meanwhile is launched as the one in progress closes (R349). -/
theorem State.closeEnum_again (ha : e.again = true) : s.closeEnum e n = (s.closeEnum { e with again := false } n).launchEnum := by
  unfold State.closeEnum
  dsimp only
  rw [ha]
  rfl

/-- The claims are all of different addresses, and the ring map holds none of these for another device. -/
def Enum.distinct (e : Enum) (s : State) : Prop :=
  ∀ c ∈ e.claims, c.addr ≠ 0 ∧ (∀ d ∈ e.claims, d.addr = c.addr → d = c)
    ∧ (Tab.get? s.ring.map c.addr = none ∨ Tab.get? s.ring.map c.addr = some c.uid)

/-- The claims that keep their addresses, in token order. -/
def Enum.settled (e : Enum) : List (Claim × Nat) := (inOrder e.claims).map (fun c => (c, c.addr))

theorem Enum.mem_settled {x : Claim × Nat} : x ∈ e.settled ↔ ∃ c ∈ e.claims, (c, c.addr) = x := by
  unfold Enum.settled
  rw [List.mem_map]
  simp only [mem_inOrder]

theorem Enum.distinct.settles (h : e.distinct s) : s.settleClaims e.claims = (e.settled, []) :=
  s.settleClaims_distinct fun c hc => ⟨(h c hc).1, (h c hc).2.1⟩

section
variable (h : e.distinct s)
include h

theorem Enum.distinct.admitted : (s.closedRing e n).admittedMap
    = one 4096 1 ||| claimMask ((wanting e.settled).take (s.ringLimit - 1)) (fun _ => true) := by
  unfold State.closedRing
  dsimp only
  rw [h.settles, State.admittedClaims_eq]

/-- A device that is admitted beside the root has asked for it. -/
theorem Enum.distinct.admitted_claim {a : Nat} (ha : a < 4096) (h1 : a ≠ 1) (hb : bit (s.closedRing e n).admittedMap a = true) :
    ∃ c ∈ e.claims, c.addr = a ∧ c.admitted = true := by
  rw [h.admitted, bit_or, Bool.or_eq_true, bit_one, decide_eq_true_eq] at hb
  obtain ⟨x, hx, -, hxa⟩ := (bit_claimMask ha).1 (hb.resolve_left fun k => h1 k.1.symm)
  obtain ⟨hx1, hx2⟩ := mem_wanting.1 (List.mem_of_mem_take hx)
  obtain ⟨c, hc, rfl⟩ := Enum.mem_settled.1 hx1
  exact ⟨c, hc, hxa, hx2⟩

theorem Enum.distinct.all_admitted (hl : (e.claims.filter (fun c => c.admitted)).length ≤ s.ringLimit - 1) {c : Claim} (hc : c ∈ e.claims)
    (ha : c.admitted = true) (hm : c.addr < 4096) : bit (s.closedRing e n).admittedMap c.addr = true := by
  have hw : (wanting e.settled).length ≤ s.ringLimit - 1 := by
    rw [wanting_length]
    exact (settled_admitted e.claims).trans_le hl
  rw [h.admitted, List.take_of_length_le hw, bit_or, (bit_claimMask hm).2, Bool.or_true]
  exact ⟨(c, c.addr), mem_wanting.2 ⟨Enum.mem_settled.2 ⟨c, hc, rfl⟩, ha⟩, rfl, rfl⟩

theorem Enum.distinct.count_admitted : countBits (s.closedRing e n).admittedMap ≤ 1 + (s.ringLimit - 1) := by
  have hl : (1 :: ((wanting e.settled).take (s.ringLimit - 1)).map Prod.snd).length ≤ 1 + (s.ringLimit - 1) := by
    rw [List.length_cons, List.length_map, Nat.add_comm]
    exact Nat.add_le_add_left (List.length_take_le _ _) 1
  refine le_trans (countBits_le fun a ha hb => ?_) hl
  rw [h.admitted, bit_or, Bool.or_eq_true, bit_one, decide_eq_true_eq] at hb
  rcases hb with hb | hb
  · exact List.mem_cons.2 (.inl hb.1.symm)
  · obtain ⟨x, hx, -, rfl⟩ := (bit_claimMask ha).1 hb
    exact List.mem_cons_of_mem _ (List.mem_map_of_mem hx)

theorem Enum.distinct.fenced {a : Nat} (ha : a < 4096) :
    bit (s.closedRing e n).fencedMap a = true ↔ ∃ c ∈ e.claims, c.addr = a ∧ c.fenced = true := by
  have hf : (s.closedRing e n).fencedMap = claimMask e.settled (fun c => c.fenced) := by
    unfold State.closedRing
    dsimp only
    rw [h.settles]
  rw [hf, bit_claimMask ha]
  constructor
  · rintro ⟨x, hx, h1, h2⟩
    obtain ⟨c, hc, rfl⟩ := Enum.mem_settled.1 hx
    exact ⟨c, hc, h2, h1⟩
  · rintro ⟨c, hc, h1, h2⟩
    exact ⟨(c, c.addr), Enum.mem_settled.2 ⟨c, hc, rfl⟩, h2, h1⟩

theorem Enum.distinct.mapped {c : Claim} (hc : c ∈ e.claims) (hw : Tab.wf s.ring.map = true) :
    Tab.get? (s.closedRing e n).map c.addr = some c.uid := by
  have hm : (s.closedRing e n).map = s.newMap e.settled := by
    unfold State.closedRing
    dsimp only
    rw [h.settles]
  rw [hm]
  refine get?_foldl_insert (Tab.wf_filter hw _) (fun x hx hxa => ?_) (.inl ⟨(c, c.addr), Enum.mem_settled.2 ⟨c, hc, rfl⟩, rfl⟩)
  obtain ⟨d, hd, rfl⟩ := Enum.mem_settled.1 hx
  rw [(h c hc).2.1 d hd hxa]

theorem Enum.distinct.beyond : (s.closedRing e n).overBudget = true
    ↔ s.ringLimit < n ∨ s.ringLimit - 1 < (e.claims.filter (fun c => c.admitted)).length := by
  have hb : (s.closedRing e n).overBudget = (decide (s.ringLimit < n)
      || decide (((wanting e.settled).take (s.ringLimit - 1)).length < (e.settled.filter (fun x => x.1.admitted)).length)) := by
    unfold State.closedRing
    dsimp only
    rw [h.settles, State.admittedClaims_eq]
  rw [hb, Bool.or_eq_true, decide_eq_true_eq, decide_eq_true_eq, List.length_take, wanting_length,
    show (e.settled.filter (fun x => x.1.admitted)).length = _ from settled_admitted e.claims]
  omega

end

end

/-! ## The standing that CLOSURE gives (R258, R261) -/

section
variable {s : State}

/-- What a device's standing in the ring says, beside its address and the maps of the frame. -/
def RingStood (r q : Ring) : Prop :=
  q = { r with state := q.state, fencedMap := q.fencedMap, joinDue := q.joinDue, lastTime := q.lastTime }

theorem State.becomeFenced_kept (h : s.ring.state = .fenced) : s.becomeFenced = s := if_pos (.inl h)

/-- A device that was not fenced drops the undecided commands of the ring (R261). -/
theorem State.becomeFenced_new (hf : s.ring.state ≠ .fenced) (hc : s.ring.state ≠ .conflict) :
    s.becomeFenced.ring = { s.ring with state := .fenced, fencedMap := s.ring.fencedMap ||| one 4096 s.ring.address }
      ∧ ∀ d ∈ s.becomeFenced.port.cmds, d.ring = true → d.undecided = false := by
  have hn : ¬ (s.ring.state = .fenced ∨ (s.ring.state = .conflict ∧ bit s.ring.fencedMap s.ring.address = true)) :=
    fun h => h.elim hf (fun h => hc h.1)
  have hd (v : State) (n : Nat) (l : List Cmd) : (v.recordDiscard n l).ring = v.ring ∧ (v.recordDiscard n l).port.cmds = v.port.cmds := by
    unfold State.recordDiscard
    dsimp only
    split <;> exact ⟨rfl, rfl⟩
  unfold State.becomeFenced
  rw [if_neg hn]
  dsimp only
  have hk := s.endSeqs_only (fun q => q.cmd.any (fun k => k.1 && (s.port.cmds.filter (fun c => c.ring && c.undecided)).any
    (fun c => c.tag == k.2)))
  generalize s.endSeqs (fun q => q.cmd.any (fun k => k.1 && (s.port.cmds.filter (fun c => c.ring && c.undecided)).any
    (fun c => c.tag == k.2))) = v at hk ⊢
  constructor
  · show (State.recordDiscard _ _ _).ring = _
    rw [(hd _ _ _).1]
    dsimp only
    rw [hk.ring_eq, if_neg hc]
  · show ∀ d ∈ (State.recordDiscard _ _ _).port.cmds, _
    rw [(hd _ _ _).2]
    intro d hd hr
    have := (List.mem_filter.1 hd).2
    rw [hr] at this
    simpa using this

theorem State.standing_outside (h : ¬ (s.ring.address ≠ 0 ∧ bit s.ring.admittedMap s.ring.address = true)) :
    s.standing = { s with ring := { s.ring with lastTime := s.clk.now, state := .notAdmitted } } := if_neg h

theorem State.standing_admitted (ha : s.ring.address ≠ 0) (hb : bit s.ring.admittedMap s.ring.address = true)
    (hf : bit s.ring.fencedMap s.ring.address = false) :
    s.standing = State.becomeAdmitted { s with ring := { s.ring with lastTime := s.clk.now, joinDue := none } } := by
  refine (if_pos ⟨ha, hb⟩).trans ?_
  dsimp only
  rw [hf]
  rfl

theorem State.standing_fenced (ha : s.ring.address ≠ 0) (hb : bit s.ring.admittedMap s.ring.address = true)
    (hf : bit s.ring.fencedMap s.ring.address = true) :
    s.standing = State.becomeFenced { s with ring := { s.ring with lastTime := s.clk.now, joinDue := none } } := by
  refine (if_pos ⟨ha, hb⟩).trans ?_
  dsimp only
  rw [hf]
  rfl

theorem State.standing_stood (hc : s.ring.state ≠ .conflict) : RingStood s.ring s.standing.ring := by
  by_cases h : s.ring.address ≠ 0 ∧ bit s.ring.admittedMap s.ring.address = true
  · cases hf : bit s.ring.fencedMap s.ring.address with
    | false =>
      rw [State.standing_admitted h.1 h.2 hf]
      rfl
    | true =>
      rw [State.standing_fenced h.1 h.2 hf]
      by_cases hs : s.ring.state = .fenced
      · rw [State.becomeFenced_kept (s := { s with ring := { s.ring with lastTime := s.clk.now, joinDue := none } }) hs]
        rfl
      · rw [(State.becomeFenced_new (s := { s with ring := { s.ring with lastTime := s.clk.now, joinDue := none } }) hs hc).1]
        rfl
  · rw [State.standing_outside h]
    rfl

/-- The device as CLOSURE tells it its address and the maps. -/
def State.told (s : State) (p : List Byte) (a : Nat) : State :=
  { s with ring := { s.ring with
    address := a, enumDone := true
    admittedMap := BitVec.ofNat 4096 (leAt p 28 512), fencedMap := BitVec.ofNat 4096 (leAt p 540 512)
    record := if a = 0 then s.ring.record else some (BitVec.ofNat 32 (leAt p 0 4), a) } }

theorem State.takeClosure_named {p : List Byte} (h : s.closureFull p = false) :
    s.takeClosure p = (s.told p ((s.reassigned p).getD s.ring.address)).standing.irqGl 2 := by
  unfold State.takeClosure
  rw [h]
  rfl

theorem State.takeClosure_full {p : List Byte} (h : s.closureFull p = true) :
    s.takeClosure p = (s.takeFree.told p (if Config.freeBit s.free then 0 else s.ring.address)).standing.irqGl 2 := by
  have hn : s.reassigned p = none := by
    unfold State.closureFull at h
    rw [Bool.and_eq_true, Option.isNone_iff_eq_none] at h
    exact h.2
  unfold State.takeClosure
  rw [h, hn]
  rfl

end

/-! ## FORGET (R258) -/

/-- The register GL_ENUM_CTRL. -/
def enumCtrlReg : Reg := (regAt 0xA0028).get (by decide +kernel)

theorem State.enumCtrl_content (s : State) : s.content enumCtrlReg = 0 := rfl

theorem State.forget_writes {s : State} (hl : s.pm.state.logs = true) (hr : s.inp.root = true) : execForget s
    = .next { s with ring := { s.ring with map := s.ring.map.filter (fun e => !s.ring.absent.contains e.1), absent := [] } } := by
  have hc : s.changes enumCtrlReg 1 = 1 := by
    unfold State.changes
    rw [s.enumCtrl_content]
    decide +kernel
  have hx := State.writeLive_acts (s := s) (k := .class2) (a := 0xA0028) (v := 1) (r := enumCtrlReg) hl (by decide +kernel) (by decide +kernel)
    (by rw [hc]; exact (by decide +kernel : (1 : Word) &&& ~~~(enumCtrlReg.row.rw2 &&& ~~~0) = 0)) (by rw [hc]; decide) rfl
  unfold execForget
  rw [hx]
  refine congrArg Host.Outcome.next ?_
  show State.forgetAbsent _ = _
  exact if_pos hr

/-! ## TOKEN (R257) -/

section
variable {s : State} {a : Arrival}

/-- The root as it launches an enumeration. -/
def State.launching (s : State) : State :=
  { s with ring := { s.ring with
    enumNumber := (s.ring.enumKept + 1) % 0x100000000
    enumKept := (s.ring.enumKept + 1) % 0x100000000
    address := 1
    rootUid := s.ident.uid
    enumDone := false
    enum := some { launch := s.clk.now, returned := none, waitDue := 0, claims := [] } } }

theorem State.launchEnum_launches (hr : s.inp.root = true) (hc : s.ring.state ≠ .conflict) (hl : s.pm.state.logs = true) :
    s.launchEnum = s.launching.sendFrame .a (s.launching.ownFrame 0x10 0 s.launching.tokenPayload) := by
  unfold State.launchEnum
  rw [hr, hl, bne_iff_ne.2 hc]
  rfl

theorem State.launchEnum_idle (h : s.inp.root = false ∨ s.ring.state = .conflict ∨ s.pm.state.logs = false) : s.launchEnum = s := by
  unfold State.launchEnum
  refine if_neg fun k => ?_
  rw [Bool.and_eq_true, Bool.and_eq_true, bne_iff_ne] at k
  obtain ⟨⟨k1, k2⟩, k3⟩ := k
  rcases h with h | h | h
  · rw [h] at k1
    exact Bool.false_ne_true k1
  · exact k2 h
  · rw [h] at k3
    exact Bool.false_ne_true k3

theorem State.endConflict_ring (s : State) :
    s.endConflict = { s with ring := { s.ring with state := s.endConflict.ring.state } } ∧ s.endConflict.ring.state ≠ .conflict := by
  unfold State.endConflict
  split
  · obtain ⟨h1, -⟩ := State.linkState_fresh (s := { s with ring := { s.ring with state := .noLink } }) rfl
    refine ⟨by rw [h1], ?_⟩
    unfold State.linkState
    rw [if_neg (fun h => h rfl)]
    dsimp only
    split
    · exact fun h => by cases h
    · split
      · exact fun h => by cases h
      · split <;> exact fun h => by cases h
  · next h => exact ⟨rfl, h⟩

/-- A device that is no root as it claims an address. -/
def State.claiming (s : State) (p : List Byte) : State :=
  { s with ring := { s.ring with
    tokenSeen := some (leAt p 52 4), enumNumber := leAt p 52 4, enumDone := false, address := s.claimOf p
    rootUid := BitVec.ofNat 128 (leAt p 4 16), rootFp := BitVec.ofNat 256 (leAt p 20 32) } }

/-- ENROL of a device that claims an address (Table 10.6). -/
def State.enrolOf (s : State) (p : List Byte) : List Byte :=
  s.enrolPayload (s.claimOf p) (leAt p 56 2) (s.sec.ownerFp != BitVec.ofNat 256 (leAt p 20 32))
    (s.claimOf p != 0 && decide (leAt p 56 2 < leAt p 58 2))

theorem State.takeToken_claims (p : List Byte) : s.takeToken p
    = (s.claiming p).sendFrame .a ((s.claiming p).ownFrame 0x11 1 (s.enrolOf p)) := rfl

theorem State.rivalRoot_none (h : s.inp.root = false) : s.rivalRoot a = false := by
  unfold State.rivalRoot
  rw [h]
  rfl

theorem State.rivalRoot_own (h : rootOf a.frame = s.ident.uid.toNat) : s.rivalRoot a = false := by
  unfold State.rivalRoot
  rw [h]
  simp

/-- The state in which a device has claimed an address and passes the token on. -/
def State.claimed (s : State) (p : List Byte) : State := s.endConflict.takeToken p

theorem execTokenFrame_claims (hh : s.hears a 0x10 = true) (hc : Clean a) (hr : s.inp.root = false)
    (ht : s.ring.tokenSeen ≠ some (leAt a.frame.payload 52 4)) : execTokenFrame a s
      = .next ((s.claimed a.frame.payload).passFrame a ((s.claimed a.frame.payload).stamped
          { a.frame with payload := tokenTaken a.frame.payload (s.claimOf a.frame.payload) })) := by
  unfold execTokenFrame
  rw [if_pos hh, State.rivalRoot_none hr, if_neg Bool.false_ne_true, hc.1, if_neg (fun k => by cases k), hr, if_neg Bool.false_ne_true,
    if_neg ht, hc.meet s]
  rfl

theorem execTokenFrame_seen (hh : s.hears a 0x10 = true) (hc : Clean a) (hr : s.inp.root = false)
    (ht : s.ring.tokenSeen = some (leAt a.frame.payload 52 4)) : execTokenFrame a s = .next (s.pass a) := by
  unfold execTokenFrame
  rw [if_pos hh, State.rivalRoot_none hr, if_neg Bool.false_ne_true, hc.1, if_neg (fun k => by cases k), hr, if_neg Bool.false_ne_true,
    if_pos ht]

theorem execTokenFrame_back (hh : s.hears a 0x10 = true) (hc : Clean a) (hr : s.inp.root = true) (ho : rootOf a.frame = s.ident.uid.toNat) :
    execTokenFrame a s = .next ((s.pass a).tokenBack a.frame.payload) := by
  unfold execTokenFrame
  rw [if_pos hh, State.rivalRoot_own ho, if_neg Bool.false_ne_true, hc.1, if_neg (fun k => by cases k), if_pos hr]

theorem execClosureFrame_takes (hh : s.hears a 0x12 = true) (hc : Clean a) (hr : s.inp.root = false) (hs : s.ring.state ≠ .conflict)
    (ht : s.ring.tokenSeen = some (leAt a.frame.payload 20 4)) (hd : s.ring.enumDone = false) :
    execClosureFrame a s = .next ((s.pass a).takeClosure a.frame.payload) := by
  unfold execClosureFrame
  rw [if_pos hh, State.rivalRoot_none hr, if_neg Bool.false_ne_true]
  dsimp only
  rw [hc.1, hr, bne_iff_ne.2 hs, ht, hd, beq_self_eq_true]
  rfl

theorem execClosureFrame_passes (hh : s.hears a 0x12 = true) (hr : s.inp.root = false)
    (h : s.ring.tokenSeen ≠ some (leAt a.frame.payload 20 4) ∨ s.ring.enumDone = true) : execClosureFrame a s = .next (s.pass a) := by
  unfold execClosureFrame
  rw [if_pos hh, State.rivalRoot_none hr, if_neg Bool.false_ne_true]
  refine if_neg fun k => ?_
  rw [Bool.and_eq_true, Bool.and_eq_true, beq_iff_eq, Bool.not_eq_true'] at k
  obtain ⟨⟨-, k1⟩, k2⟩ := k
  rcases h with h | h
  · exact h k1
  · rw [h] at k2
    exact Bool.false_ne_true k2.symm

/-! ## The lowest address that is free (R257) -/

theorem lowestFree_spec (map : BitVec 4096) : (lowestFree map = 0 ∧ ∀ a, 2 ≤ a → a ≤ 4094 → bit map a = true)
    ∨ (2 ≤ lowestFree map ∧ lowestFree map ≤ 4094 ∧ bit map (lowestFree map) = false
        ∧ ∀ a, 2 ≤ a → a < lowestFree map → bit map a = true) := by
  unfold lowestFree
  rw [List.find?_map]
  cases hf : (List.range 4093).find? ((fun a => !bit map a) ∘ (· + 2)) with
  | none =>
    refine .inl ⟨rfl, fun a h1 h2 => ?_⟩
    have := List.find?_eq_none.1 hf (a - 2) (List.mem_range.2 (by omega))
    have he : a - 2 + 2 = a := by omega
    simpa [he] using this
  | some k =>
    obtain ⟨hk, hm, hl⟩ := List.find?_range_eq_some.1 hf
    refine .inr ⟨Nat.le_add_left 2 k, ?_, ?_, fun a h1 h2 => ?_⟩
    · have := List.mem_range.1 hm
      show k + 2 ≤ 4094
      omega
    · simpa using hk
    · have h2 : a < k + 2 := h2
      have := hl (a - 2) (by omega)
      have he : a - 2 + 2 = a := by omega
      simpa [he] using this

theorem State.claimOf_recorded {p : List Byte} {r : Word × Nat} (hr : s.ring.record = some r) (h : r.1.toNat = leAt p 0 4) (h2 : 2 ≤ r.2)
    (h3 : r.2 ≤ 4094) : s.claimOf p = r.2 := by
  unfold State.claimOf
  rw [hr]
  exact if_pos ⟨h, h2, h3⟩

theorem State.claimOf_lowest {p : List Byte} (h : ∀ r, s.ring.record = some r → r.1.toNat ≠ leAt p 0 4) :
    s.claimOf p = lowestFree (tokenMap p) := by
  unfold State.claimOf
  split
  · next r hr => exact if_neg fun k => h r hr k.1
  · rfl

end

/-! ## The rows of an enumeration -/

section
variable {s : State} {a : Arrival}

theorem State.sendFrame_linkOpen (p : Link) (f : Frame) (q : Link) : (s.sendFrame p f).linkOpen q = s.linkOpen q := by
  have h := s.sendAs_passed p true f
  unfold State.sendFrame
  dsimp only
  rw [← h.linkOpen q]
  split
  · next l _ => cases l <;> cases q <;> rfl
  · rfl

theorem State.tokenBack_notes {p : List Byte} {e : Enum} (he : s.ring.enum = some e) (hk : leAt p 52 4 = s.ring.enumNumber)
    (hn : e.returned = none) : s.tokenBack p = { s with ring := { s.ring with enum := some { e with
      returned := some (leAt p 56 2), waitDue := s.clk.now + msTicks } } } := by
  unfold State.tokenBack
  rw [he]
  exact if_pos ⟨hk, hn⟩

/-- What CLOSURE leaves of the standing, at a device that it tells an address `c` and the maps. -/
theorem State.told_standing {p : List Byte} {c : Nat} (hs : s.ring.state ≠ .conflict) :
    RingStood (s.told p c).ring (s.told p c).standing.ring
      ∧ (c ≠ 0 → bit (BitVec.ofNat 4096 (leAt p 28 512)) c = true → bit (BitVec.ofNat 4096 (leAt p 540 512)) c = false →
          (s.told p c).standing.ring.state = .admitted ∧ (s.told p c).standing.ring.fencedMap = BitVec.ofNat 4096 (leAt p 540 512))
      ∧ (c ≠ 0 → bit (BitVec.ofNat 4096 (leAt p 28 512)) c = true → bit (BitVec.ofNat 4096 (leAt p 540 512)) c = true →
          (s.told p c).standing.ring.state = .fenced
            ∧ (s.ring.state ≠ .fenced → ∀ d ∈ (s.told p c).standing.port.cmds, d.ring = true → d.undecided = false))
      ∧ ((c = 0 ∨ bit (BitVec.ofNat 4096 (leAt p 28 512)) c = false) → (s.told p c).standing.ring.state = .notAdmitted) := by
  refine ⟨State.standing_stood (s := s.told p c) hs, fun h0 ha hf => ?_, fun h0 ha hf => ?_, fun h => ?_⟩
  · rw [State.standing_admitted (s := s.told p c) h0 ha hf]
    exact ⟨rfl, rfl⟩
  · rw [State.standing_fenced (s := s.told p c) h0 ha hf]
    let v : State := { s.told p c with ring := { (s.told p c).ring with lastTime := (s.told p c).clk.now, joinDue := none } }
    by_cases hk : s.ring.state = .fenced
    · rw [State.becomeFenced_kept (s := v) hk]
      exact ⟨hk, fun hn => absurd hk hn⟩
    · obtain ⟨h1, h2⟩ := State.becomeFenced_new (s := v) hk hs
      exact ⟨by rw [h1], fun _ => h2⟩
  · rw [State.standing_outside (s := s.told p c) fun k => h.elim k.1 (fun hb => Bool.false_ne_true (hb.symm.trans k.2))]

theorem State.told_only (p : List Byte) (c : Nat) : Only [.ring] s (s.told p c) := (Only.refl _ s).mk_upd

theorem closureFull_pass (hc : Clean a) (p : List Byte) :
    (s.pass a).closureFull p = s.closureFull p ∧ (s.pass a).reassigned p = s.reassigned p := by
  rw [hc.pass_passed (s := s)]
  exact ⟨rfl, rfl⟩

theorem closure_named (hh : s.hears a 0x12 = true) (hc : Clean a) (hr : s.inp.root = false) (hs : s.ring.state ≠ .conflict)
    (ht : s.ring.tokenSeen = some (leAt a.frame.payload 20 4)) (hd : s.ring.enumDone = false) (hf : s.closureFull a.frame.payload = false) :
    Answers (.closureFrame a) s fun t =>
      let c := (s.reassigned a.frame.payload).getD s.ring.address
      t.ring.address = c ∧ t.ring.enumDone = true ∧ t.ring.admittedMap = BitVec.ofNat 4096 (leAt a.frame.payload 28 512)
        ∧ (c ≠ 0 → t.ring.record = some (BitVec.ofNat 32 (leAt a.frame.payload 0 4), c))
        ∧ (c ≠ 0 → bit t.ring.admittedMap c = true → bit (BitVec.ofNat 4096 (leAt a.frame.payload 540 512)) c = false →
            t.ring.state = .admitted ∧ t.ring.fencedMap = BitVec.ofNat 4096 (leAt a.frame.payload 540 512))
        ∧ (c ≠ 0 → bit t.ring.admittedMap c = true → bit (BitVec.ofNat 4096 (leAt a.frame.payload 540 512)) c = true →
            t.ring.state = .fenced ∧ (s.ring.state ≠ .fenced → ∀ d ∈ t.port.cmds, d.ring = true → d.undecided = false))
        ∧ (bit t.ring.admittedMap c = false → t.ring.state = .notAdmitted) ∧ bit t.irq.gl 2 = true
        ∧ Only [.ring, .twin, .irq, .port, .tw, .twEnded, .mg] s t := by
  obtain ⟨hcf, hre⟩ := closureFull_pass (s := s) hc a.frame.payload
  have hpp := hc.pass_passed (s := s)
  have hx := execClosureFrame_takes hh hc hr hs ht hd
  have hpa : (s.pass a).ring.address = s.ring.address ∧ (s.pass a).ring.state = s.ring.state := by
    rw [hpp.ring]
    exact ⟨rfl, rfl⟩
  obtain ⟨hpa, hps⟩ := hpa
  rw [State.takeClosure_named (hcf.trans hf), hre, hpa] at hx
  refine Answers.of_exec hx ?_
  dsimp only
  generalize (s.reassigned a.frame.payload).getD s.ring.address = c
  have huo := hpp.only
  generalize s.pass a = u at huo hps ⊢
  obtain ⟨h1, h2, h3, h4⟩ := u.told_standing (p := a.frame.payload) (c := c) (by rw [hps]; exact hs)
  have ho : Only [.ring, .twin, .irq, .port, .tw, .twEnded, .mg] s ((u.told a.frame.payload c).standing.irqGl 2) :=
    (huo.mono rfl).trans (((u.told_only a.frame.payload c).mono rfl).trans (((State.standing_only _).mono rfl).trans
      ((State.irqGl_only _ 2).mono rfl)))
  have hi : bit ((u.told a.frame.payload c).standing.irqGl 2).irq.gl 2 = true := bit_putBit_same _ (by decide) true
  have hring : ((u.told a.frame.payload c).standing.irqGl 2).ring = (u.told a.frame.payload c).standing.ring := rfl
  have hport : ((u.told a.frame.payload c).standing.irqGl 2).port = (u.told a.frame.payload c).standing.port := rfl
  rw [hring, hport]
  have ha : (u.told a.frame.payload c).standing.ring.admittedMap = BitVec.ofNat 4096 (leAt a.frame.payload 28 512) := by
    rw [h1]
    rfl
  rw [ha]
  rw [hps] at h3
  refine ⟨?_, ?_, rfl, fun h0 => ?_, h2, h3, fun hb => h4 (.inr hb), hi, ho⟩
  · rw [h1]
    rfl
  · rw [h1]
    rfl
  · rw [h1]
    exact if_neg h0

theorem closure_full (hh : s.hears a 0x12 = true) (hc : Clean a) (hr : s.inp.root = false) (hs : s.ring.state ≠ .conflict)
    (ht : s.ring.tokenSeen = some (leAt a.frame.payload 20 4)) (hd : s.ring.enumDone = false) (hf : s.closureFull a.frame.payload = true) :
    Answers (.closureFrame a) s fun t =>
      t.ring.address = (if Config.freeBit s.free then 0 else s.ring.address) ∧ t.free = s.free + 1 ∧ t.ring.enumDone = true
        ∧ (t.ring.address = 0 → t.ring.state = .notAdmitted ∧ t.ring.record = s.ring.record)
        ∧ Only [.ring, .twin, .irq, .port, .tw, .twEnded, .mg, .free] s t := by
  obtain ⟨hcf, hre⟩ := closureFull_pass (s := s) hc a.frame.payload
  have hpp := hc.pass_passed (s := s)
  have hx := execClosureFrame_takes hh hc hr hs ht hd
  have hpr : (s.pass a).ring.address = s.ring.address ∧ (s.pass a).ring.state = s.ring.state ∧ (s.pass a).ring.record = s.ring.record := by
    rw [hpp.ring]
    exact ⟨rfl, rfl, rfl⟩
  obtain ⟨hpa, hps, hpc⟩ := hpr
  have huo := hpp.only
  rw [State.takeClosure_full (hcf.trans hf), hpa, huo.free_eq] at hx
  refine Answers.of_exec hx ?_
  generalize (if Config.freeBit s.free then 0 else s.ring.address) = c
  generalize s.pass a = u at huo hps hpc ⊢
  have hvo : Only [.ring, .free] s u.takeFree := (huo.mono rfl).trans ((State.takeFree_only _).mono rfl)
  have hvf : u.takeFree.free = s.free + 1 := congrArg (· + 1) huo.free_eq
  have hvs : u.takeFree.ring.state ≠ .conflict := by
    show u.ring.state ≠ .conflict
    rw [hps]
    exact hs
  have hvr : u.takeFree.ring.record = s.ring.record := hpc
  generalize u.takeFree = v at hvo hvf hvs hvr ⊢
  obtain ⟨h1, -, -, h4⟩ := v.told_standing (p := a.frame.payload) (c := c) hvs
  have hto := v.told_only a.frame.payload c
  have hso := (v.told a.frame.payload c).standing_only
  have hring : ((v.told a.frame.payload c).standing.irqGl 2).ring = (v.told a.frame.payload c).standing.ring := rfl
  have ha : (v.told a.frame.payload c).standing.ring.address = c := by
    rw [h1]
    rfl
  rw [hring, ha]
  refine ⟨rfl, ?_, ?_, fun h0 => ⟨h4 (.inl h0), ?_⟩,
    (hvo.mono rfl).trans ((hto.mono rfl).trans ((hso.mono rfl).trans ((State.irqGl_only _ 2).mono rfl)))⟩
  · show (v.told a.frame.payload c).standing.free = _
    rw [hso.free_eq]
    exact hvf
  · rw [h1]
    rfl
  · rw [h1]
    exact (if_pos h0).trans hvr

theorem execEnrolWaitEnd_closes {e : Enum} {n : Nat} (he : s.ring.enum = some e) (hn : e.returned = some n) (hl : s.pm.state.logs = true) :
    execEnrolWaitEnd s = .next ((if e.complete n then s else s.till e.waitDue).closeEnum e n) := by
  unfold execEnrolWaitEnd
  rw [he]
  dsimp only
  rw [hn]
  exact if_pos hl

theorem enumerate_launches (hr : s.inp.root = true) (hc : s.ring.state ≠ .conflict) (hl : s.pm.state.logs = true) :
    Answers .enumerate s fun t =>
      t.ring.enumNumber = (s.ring.enumKept + 1) % 0x100000000 ∧ t.ring.enumKept = t.ring.enumNumber ∧ t.ring.address = 1 ∧ t.ring.rootUid = s.ident.uid
        ∧ t.ring.enumDone = false ∧ t.ring.enum = some { launch := s.clk.now, returned := none, waitDue := 0, claims := [] }
        ∧ Sent 0x10 0 (leBytes 4 (s.cfgAt 0xA0004).toNat ++ leBytes 16 s.ident.uid.toNat ++ digestBytes s.sec.ownerFp
            ++ leBytes 4 t.ring.enumNumber ++ leBytes 2 1 ++ leBytes 2 s.ringLimit ++ List.replicate 4 0
            ++ leBytes 512 s.mapBits.toNat) s t
        ∧ Only [.ring] s t := by
  refine Answers.of_exec (congrArg Host.Outcome.next (State.launchEnum_launches hr hc hl)) ?_
  have hk := s.launching.sendFrame_ringSent .a (s.launching.ownFrame 0x10 0 s.launching.tokenPayload)
  have hn : (s.launching.sendFrame .a (s.launching.ownFrame 0x10 0 s.launching.tokenPayload)).ring.enumNumber
      = (s.ring.enumKept + 1) % 0x100000000 := by
    rw [hk]
    rfl
  have hs : Sent 0x10 0 s.launching.tokenPayload s (s.launching.sendFrame .a (s.launching.ownFrame 0x10 0 s.launching.tokenPayload)) :=
    Sent.of_sendFrame (u := s.launching) (w := s.launching) rfl (List.Subset.refl _) (by rw [hk])
  have ho : Only [.ring] s s.launching := (Only.refl _ s).mk_upd
  refine ⟨hn, ?_, ?_, ?_, ?_, ?_, ?_, ho.trans (State.sendFrame_only _ _ _)⟩
  · rw [hk]
    rfl
  · rw [hk]
    rfl
  · rw [hk]
    rfl
  · rw [hk]
    rfl
  · rw [hk]
    rfl
  · rw [hn]
    exact hs

theorem token_claims (hh : s.hears a 0x10 = true) (hc : Clean a) (hr : s.inp.root = false)
    (ht : s.ring.tokenSeen ≠ some (leAt a.frame.payload 52 4)) (hp : a.frame.hops.toNat + 1 < 4095) :
    Answers (.tokenFrame a) s fun t =>
      let c := s.claimOf a.frame.payload
      t.ring.address = c ∧ t.ring.state ≠ .conflict ∧ t.ring.tokenSeen = some (leAt a.frame.payload 52 4) ∧ t.ring.enumNumber = leAt a.frame.payload 52 4
        ∧ t.ring.rootUid = BitVec.ofNat 128 (leAt a.frame.payload 4 16) ∧ t.ring.rootFp = BitVec.ofNat 256 (leAt a.frame.payload 20 32)
        ∧ Sent 0x11 1 (s.enrolPayload c (leAt a.frame.payload 56 2)
            (s.sec.ownerFp != BitVec.ofNat 256 (leAt a.frame.payload 20 32))
            (c != 0 && decide (leAt a.frame.payload 56 2 < leAt a.frame.payload 58 2))) s t
        ∧ (s.linkOpen (otherLink a.port) = true → s.ring.hornWindow ≤ s.clk.now → ∃ f ∈ t.ring.tx, f.port = otherLink a.port
            ∧ f.frame.payload = tokenTaken a.frame.payload c ∧ f.frame.hops = a.frame.hops + 1)
        ∧ Only [.ring] s t := by
  refine Answers.of_exec (execTokenFrame_claims hh hc hr ht) ?_
  obtain ⟨he, hes⟩ := s.endConflict_ring
  let u : State := s.endConflict.claiming a.frame.payload
  have hcl : s.endConflict.claimOf a.frame.payload = s.claimOf a.frame.payload := by
    rw [he]
    rfl
  have hen : s.endConflict.enrolOf a.frame.payload = s.enrolOf a.frame.payload := by
    rw [he]
    rfl
  have huo : Only [.ring] s u := s.endConflict_only.trans (Only.refl _ _).mk_upd
  have hul (q : Link) : u.linkOpen q = s.linkOpen q := by
    show s.endConflict.linkOpen q = s.linkOpen q
    rw [he]
    cases q <;> rfl
  have huw : u.ring.hornWindow = s.ring.hornWindow := by
    show s.endConflict.ring.hornWindow = _
    rw [he]
  have hv : s.claimed a.frame.payload = u.sendFrame .a (u.ownFrame 0x11 1 (s.enrolOf a.frame.payload)) := by
    unfold State.claimed
    rw [State.takeToken_claims, hen]
  have hvr := u.sendFrame_ringSent .a (u.ownFrame 0x11 1 (s.enrolOf a.frame.payload))
  have hvo := u.sendFrame_only .a (u.ownFrame 0x11 1 (s.enrolOf a.frame.payload))
  have hvt : (u.sendFrame .a (u.ownFrame 0x11 1 (s.enrolOf a.frame.payload))).ring.tx ⊆ (s.claimed a.frame.payload).ring.tx :=
    fun f hf => by rwa [hv]
  have hvl (q : Link) := u.sendFrame_linkOpen .a (u.ownFrame 0x11 1 (s.enrolOf a.frame.payload)) q
  rw [← hv] at hvr hvo hvl
  generalize s.claimed a.frame.payload = v at hvr hvo hvt hvl ⊢
  have hpp := v.passFrame_passed a (v.stamped { a.frame with payload := tokenTaken a.frame.payload (s.claimOf a.frame.payload) })
  have hpf : ∀ f : Frame, v.passFrame a f = v.sendAs (otherLink a.port) a.crcOk f := fun f => if_neg (Nat.not_le.2 hp)
  have hkeep := v.sendAs_tx (otherLink a.port) a.crcOk
    (v.stamped { a.frame with payload := tokenTaken a.frame.payload (s.claimOf a.frame.payload) })
  rw [← hpf] at hkeep
  have hs : Sent 0x11 1 (s.enrolOf a.frame.payload) s
      (v.passFrame a (v.stamped { a.frame with payload := tokenTaken a.frame.payload (s.claimOf a.frame.payload) })) := by
    refine Sent.of_sendFrame (u := u) (w := u) (hul .a) (fun f hf => hkeep (hvt hf)) ?_
    rw [hpp.ring, hvr]
  refine ⟨?_, ?_, ?_, ?_, ?_, ?_, hs, fun hl hw => ?_, huo.trans (hvo.trans hpp.only)⟩
  · rw [hpp.ring, hvr]
    exact hcl
  · rw [hpp.ring, hvr]
    exact hes
  · rw [hpp.ring, hvr]
    rfl
  · rw [hpp.ring, hvr]
    rfl
  · rw [hpp.ring, hvr]
    rfl
  · rw [hpp.ring, hvr]
    rfl
  · have hvw : v.ring.hornWindow ≤ v.clk.now := by
      rw [hvr, hvo.clk_eq, huo.clk_eq]
      exact huw.trans_le hw
    rw [hpf, State.stamped_closed hvw, State.sendAs_open v (by rw [hvl, hul, hl])]
    exact ⟨_, List.mem_append_right _ (List.mem_singleton_self _), rfl, rfl, rfl⟩

end

/-- Settles O45: the enumeration as the root and the other devices take it, and FORGET. -/
theorem enumeration : Obligations.Enumeration := by
  unfold Obligations.Enumeration
  refine ⟨fun s hr hc hl => enumerate_launches hr hc hl, fun s h => ?_, fun a s hh hc hr ht hp => token_claims hh hc hr ht hp,
    fun p r s hr h h2 h3 => State.claimOf_recorded hr h h2 h3, fun p s h => ?_, fun a s hh hc hr ho hf ht => ?_,
    fun a e s hh hc hr ho hs hp he hn hk => ?_, fun a e s hh hc hr hf he => ?_, fun e n s he hn hl hc ha hd => ?_,
    fun e n s he hn hl hr ha => ?_, fun e n s he hn hl hc ha => ?_, fun a s hh hc hr hs ht hd hf => ?_,
    fun a s hh hc hr hs ht hd hf => ?_, fun a s hh hc hr ho hf h => ?_, fun s hl hr => ?_⟩
  · exact Answers.of_exec (congrArg Host.Outcome.next (State.launchEnum_idle h)) rfl
  · rw [State.claimOf_lowest h]
    exact lowestFree_spec _
  · have hrm := State.removes_false (a := a) ho hf (.inl (State.hears_kind_ne hh (by decide)))
    have hp := hc.pass_passed (s := s)
    refine Answers.of_exec (execTokenFrame_seen hh hc hr ht) ⟨hc.pass_goesOn hrm, ?_, hp.only⟩
    rw [hp.ring]
  · have hrm : s.removes a.frame = true := by
      unfold State.removes
      rw [hs, decide_eq_true hp]
      rfl
    have hx := execTokenFrame_back hh hc hr ho
    rw [hc.pass_removed hrm, State.tokenBack_notes he hk hn] at hx
    exact Answers.of_exec hx ⟨rfl, (Only.refl _ s).mk_upd⟩
  · have hx : execEnrolFrame a s = .next (s.takeEnrol a.frame.payload) := by
      unfold execEnrolFrame
      rw [if_pos hh, hc.pass_taken hf]
      dsimp only
      rw [hc.1, hr, hf]
      rfl
    have ht : s.takeEnrol a.frame.payload = { s with ring := { s.ring with enum := some { e with
          claims := e.claims.filter (fun d => d.uid != BitVec.ofNat 128 (leAt a.frame.payload 0 16)) ++ [{
            uid := BitVec.ofNat 128 (leAt a.frame.payload 0 16), addr := leAt a.frame.payload 50 2, pos := leAt a.frame.payload 52 2
            fenced := leAt a.frame.payload 54 2 % 2 == 1, admitted := leAt a.frame.payload 54 2 / 2 % 2 == 1 }] } } } := by
      unfold State.takeEnrol
      rw [he]
    exact Answers.of_exec (hx.trans (congrArg Host.Outcome.next ht)) ⟨rfl, (Only.refl _ s).mk_upd⟩
  · have hx : execEnrolWaitEnd s = .next (s.closeEnum e n) := by
      rw [execEnrolWaitEnd_closes he hn hl, hc]
      rfl
    obtain ⟨hg, hi, ho⟩ := State.closeEnum_closes (s := s) (e := e) (n := n) ha
    have hd : e.distinct s := hd
    refine Answers.of_exec hx ?_
    generalize s.closeEnum e n = t at hg hi ho ⊢
    have hg2 : t.ring.admittedMap = (s.closedRing e n).admittedMap ∧ t.ring.fencedMap = (s.closedRing e n).fencedMap
        ∧ t.ring.map = (s.closedRing e n).map ∧ t.ring.overBudget = (s.closedRing e n).overBudget := by
      rw [hg]
      exact ⟨rfl, rfl, rfl, rfl⟩
    obtain ⟨g1, g2, g3, g4⟩ := hg2
    have hg3 : t.ring.enum = none ∧ t.ring.enumDone = true ∧ t.ring.state = .admitted ∧ t.ring.timeDue = some (s.clk.now + msTicks) := by
      rw [hg]
      exact ⟨rfl, rfl, rfl, rfl⟩
    obtain ⟨g5, g6, g7, g8⟩ := hg3
    rw [g1, g2, g3, g4]
    exact ⟨congrArg Clk.now ho.clk_eq, g5, g6, g7, fun b hb h1 hb1 => hd.admitted_claim hb h1 hb1,
      fun hle c hc ha hm => hd.all_admitted hle hc ha hm, hd.count_admitted, fun b hb => hd.fenced hb,
      fun c hc _ _ hw => hd.mapped hc hw, hd.beyond, g8, hi, ho⟩
  · have hx := execEnrolWaitEnd_closes he hn hl
    have hvo : Only [.clk] s (if e.complete n then s else s.till e.waitDue) := (Only.refl _ s).ite (s.till_only _)
    refine Answers.of_exec hx ?_
    generalize (if e.complete n then s else s.till e.waitDue) = v at hvo ⊢
    obtain ⟨hg, hi, ho⟩ := State.closeEnum_closes (s := v) (e := { e with again := false }) (n := n) rfl
    rw [State.closeEnum_again ha]
    have hwo : Only [.clk, .ring, .twin, .irq] s (v.closeEnum { e with again := false } n) := (hvo.mono rfl).trans (ho.mono rfl)
    have hwe : (v.closeEnum { e with again := false } n).ring.enumKept = s.ring.enumKept := by
      rw [hg]
      show v.ring.enumKept = s.ring.enumKept
      rw [hvo.ring_eq]
    have hws : (v.closeEnum { e with again := false } n).ring.state = .admitted := by
      rw [hg]
      rfl
    generalize v.closeEnum { e with again := false } n = w at hwo hwe hws hi ⊢
    rw [State.launchEnum_launches (by rw [hwo.inp_eq, hr]) (by rw [hws]; exact fun k => by cases k) (by rw [hwo.pm_eq, hl])]
    have hk := w.launching.sendFrame_ringSent .a (w.launching.ownFrame 0x10 0 w.launching.tokenPayload)
    have hko := w.launching.sendFrame_only .a (w.launching.ownFrame 0x10 0 w.launching.tokenPayload)
    generalize w.launching.sendFrame .a (w.launching.ownFrame 0x10 0 w.launching.tokenPayload) = x at hk hko ⊢
    have hlo : Only [.ring] w w.launching := (Only.refl _ w).mk_upd
    refine ⟨?_, ?_, ?_, ?_, hwo.trans ((hlo.mono rfl).trans (hko.mono rfl))⟩
    · rw [hk, hko.clk_eq]
      rfl
    · rw [hk]
      rfl
    · rw [hk]
      exact congrArg (fun k => (k + 1) % 0x100000000) hwe
    · rw [hko.irq_eq]
      exact hi
  · have hx : execEnrolWaitEnd s = .next ((s.till e.waitDue).closeEnum e n) := by
      rw [execEnrolWaitEnd_closes he hn hl, hc]
      rfl
    have hvo := s.till_only e.waitDue
    have hvn := s.till_clock e.waitDue
    refine Answers.of_exec hx ?_
    generalize s.till e.waitDue = v at hvo hvn ⊢
    obtain ⟨hg, hi, ho⟩ := State.closeEnum_closes (s := v) (e := e) (n := n) ha
    refine ⟨?_, ?_, ?_, hi, (hvo.mono rfl).trans (ho.mono rfl)⟩
    · rw [ho.clk_eq]
      exact hvn
    · rw [hg]
      rfl
    · rw [hg]
      rfl
  · exact closure_named hh hc hr hs ht hd hf
  · exact closure_full hh hc hr hs ht hd hf
  · have hrm := State.removes_false (a := a) ho hf (.inl (State.hears_kind_ne hh (by decide)))
    have hp := hc.pass_passed (s := s)
    refine Answers.of_exec (execClosureFrame_passes hh hr h) ⟨hc.pass_goesOn hrm, ?_, hp.only⟩
    rw [hp.ring]
  · exact Answers.of_exec (State.forget_writes hl hr) ⟨rfl, (Only.refl _ s).mk_upd⟩

end Sys2Proof.Machine
end

section
/-! SUPPORT. The engines: the issue of a step, its end, and the plain steps (O13). -/

set_option Elab.async false

namespace Sys2Proof.Machine

/-! ## One engine changes -/

section
variable {s t u v : State} {n : Nat}

theorem nth_beyond {α : Type} {l : List α} {i : Nat} {d : α} (h : nth l i d ≠ d) : i < l.length := by
  refine Nat.lt_of_not_le fun hn => h ?_
  unfold nth
  rw [List.getElem?_eq_none hn]
  rfl

/-- An engine that does anything is in the list of engines. -/
theorem State.eng_length (h : s.eng n ≠ {}) : n < s.kiln.engines.length := nth_beyond h

theorem State.setEng_same (f : Engine → Engine) (h : n < s.kiln.engines.length) : (s.setEng n f).eng n = f (s.eng n) := by
  show nth (modNth s.kiln.engines n f) n {} = _
  rw [nth_modNth _ _ _ _ _ h, if_pos rfl]
  rfl

theorem State.setEng_other (f : Engine → Engine) {j : Nat} (h : j ≠ n) : (s.setEng n f).eng j = s.eng j :=
  nth_modNth_ne _ _ _ _ _ (Ne.symm h)

theorem State.setEng_self (n : Nat) {f : Engine → Engine} (h : ∀ e, f e = e) : s.setEng n f = s := by
  have hf : f = id := funext h
  have hm : modNth s.kiln.engines n f = s.kiln.engines := by
    unfold modNth
    rw [hf, List.modify_id]
  unfold State.setEng
  rw [hm]

/-- Engine k is e, and the other engines are as they were. -/
structure Stepped (k : BitVec 3) (e : Engine) (s t : State) : Prop where
  eng : t.eng k.toNat = e
  others : OtherEngines k s t
  length : t.kiln.engines.length = s.kiln.engines.length

section
variable {k : BitVec 3} {e : Engine}

theorem Stepped.refl (k : BitVec 3) (s : State) : Stepped k (s.eng k.toNat) s s := ⟨rfl, fun _ _ => rfl, rfl⟩

theorem Stepped.trans {e' : Engine} (h : Stepped k e s t) (h' : Stepped k e' t u) : Stepped k e' s u :=
  ⟨h'.eng, fun j hj => (h'.others j hj).trans (h.others j hj), h'.length.trans h.length⟩

/-- Changes that leave the list of engines. -/
theorem Stepped.same (h : Stepped k e s t) (hu : u.kiln.engines = t.kiln.engines) : Stepped k e s u := by
  have hx (j : Nat) : u.eng j = t.eng j := by
    unfold State.eng
    rw [hu]
  exact ⟨(hx _).trans h.eng, fun j hj => (hx j).trans (h.others j hj), by rw [hu, h.length]⟩

theorem Stepped.set (h : Stepped k e s t) (hk : k.toNat < s.kiln.engines.length) (f : Engine → Engine) :
    Stepped k (f e) s (t.setEng k.toNat f) := by
  refine ⟨?_, fun j hj => (State.setEng_other f hj).trans (h.others j hj), (modNth_length _ _ _).trans h.length⟩
  rw [State.setEng_same f (by rw [h.length]; exact hk), h.eng]

end

/-! ## Steps end (R102, R105) -/

/-- The engine as it goes on at address a, in tick `next`. -/
def Engine.goes (e : Engine) (a next : Nat) : Engine := { e with st := .running, pc := a, next := next, busy := .none }

theorem Engine.active_running {e : Engine} (h : e.st = .running) : e.active = true := by
  unfold Engine.active
  rw [h]
  rfl

theorem Engine.active_waiting {e : Engine} (h : e.st = .waiting) : e.active = true := by
  unfold Engine.active
  rw [h]
  rfl

theorem Clk.Ran.corePll {c d : Clk} (h : c.Ran d) : d.corePll = c.corePll := by rw [h]

theorem State.engTicks_pll (h : t.clk.corePll = s.clk.corePll) (k d : Nat) : t.engTicks k d = s.engTicks k d := by
  unfold State.engTicks State.engRc
  rw [h]

theorem State.engTicks_till (due k d : Nat) : (s.till due).engTicks k d = s.engTicks k d :=
  State.engTicks_pll (s.till_ran due).corePll k d

section
variable {k : BitVec 3} {e : Engine}

theorem Stepped.goes (h : Stepped k e s t) (hk : k.toNat < s.kiln.engines.length) (ha : e.active = true) (a d : Nat) :
    Stepped k (e.goes a (t.clk.now + t.engTicks k.toNat d)) s (t.goStep k.toNat a d) := by
  have hg := h.set hk (fun e => if e.active then
    { e with st := .running, pc := a, next := t.clk.now + t.engTicks k.toNat d, busy := .none } else e)
  rw [if_pos ha] at hg
  exact hg

theorem State.endStep_goes (hp : (t.eng n).pc < lastStep n) (d : Nat) : t.endStep n d = t.goStep n ((t.eng n).pc + 1) d :=
  if_neg fun k => absurd k.1 (Nat.not_le.2 hp)

theorem Stepped.ends (h : Stepped k e s t) (hk : k.toNat < s.kiln.engines.length) (ha : e.active = true)
    (hp : e.pc < lastStep k.toNat) (d : Nat) :
    Stepped k (e.goes (e.pc + 1) (t.clk.now + t.engTicks k.toNat d)) s (t.endStep k.toNat d) := by
  rw [State.endStep_goes (by rw [h.eng]; exact hp), h.eng]
  exact h.goes hk ha _ d

theorem EnginesOnly.upd {l : List Engine} (h : EnginesOnly s t) (hu : u.kiln = { t.kiln with engines := l }) : EnginesOnly s u := by
  unfold EnginesOnly at *
  rw [hu, h]

theorem State.goStep_enginesOnly (h : EnginesOnly s t) (n a d : Nat) : EnginesOnly s (t.goStep n a d) := h.upd rfl

theorem State.endStep_enginesOnly (h : EnginesOnly s t) (hp : (t.eng n).pc < lastStep n) (d : Nat) : EnginesOnly s (t.endStep n d) := by
  rw [State.endStep_goes hp]
  exact State.goStep_enginesOnly h _ _ _

theorem State.setEng_enginesOnly (h : EnginesOnly s t) (n : Nat) (f : Engine → Engine) : EnginesOnly s (t.setEng n f) :=
  h.upd rfl

theorem State.endStep_only_kiln (hp : (t.eng n).pc < lastStep n) (d : Nat) : Only [.kiln] t (t.endStep n d) := by
  rw [State.endStep_goes hp]
  exact t.goStep_only _ _ _

end

end

/-! ## The step that an engine issues (R102, R122, R124) -/

/-- The engine as it has issued the step at its counter, of opcode op. -/
def Engine.issued (e : Engine) (op : Nat) : Engine :=
  { e with st := .running, opcode := op, shown := e.pc, steps := (e.steps + 1) % 0x100000000 }

/-- The state in which engine k has issued its next step, in the step's tick. -/
def State.atIssue (s : State) (k : BitVec 3) (op : Nat) (f : Fetch) : State :=
  ((s.till (issueTick k s)).noteFetch k.toNat f).issueStep k.toNat op

section
variable {k : BitVec 3} {op : Nat} {f : Fetch} {s t : State} {e : Engine}

theorem till_issueTick : s.till (issueTick k s) = s.till (s.eng k.toNat).next := by
  unfold State.till issueTick
  congr 1
  omega

theorem State.mayIssue_engine (h : s.mayIssue k.toNat op = true) : s.pm.state = .firing ∧ (s.eng k.toNat).busy = .none
    ∧ ((s.eng k.toNat).st = .running ∨ (s.eng k.toNat).entering = true) ∧ stOp (s.stepOf k.toNat) = op := by
  unfold State.mayIssue State.hasStep at h
  simp only [Bool.and_eq_true, Bool.or_eq_true, beq_iff_eq] at h
  obtain ⟨⟨⟨⟨⟨⟨-, h1⟩, h2⟩, h3⟩, -⟩, -⟩, h4⟩ := h
  exact ⟨h1, h3, h2, h4⟩

theorem State.mayIssue_length (h : s.mayIssue k.toNat op = true) : k.toNat < s.kiln.engines.length := by
  obtain ⟨-, -, hs, -⟩ := State.mayIssue_engine h
  refine State.eng_length fun he => ?_
  rw [he] at hs
  rcases hs with hs | hs <;> exact absurd hs (by decide)

theorem State.noteFetch_only_kiln (k : Nat) (f : Fetch) : Only [.kiln] s (s.noteFetch k f) := by
  unfold State.noteFetch
  split
  · exact (Only.refl _ s).mk_upd
  · exact Only.refl _ s

theorem State.noteFetch_kiln (k : Nat) (f : Fetch) :
    (s.noteFetch k f).kiln = { s.kiln with corrected := (s.noteFetch k f).kiln.corrected } := by
  unfold State.noteFetch
  split <;> rfl

theorem Issues.engStep (h : Issues k op f s) (act : State → State) : s.engStep k.toNat op f act = act (s.atIssue k op f) := by
  obtain ⟨h1, h2, h3⟩ := h
  unfold State.engStep
  rw [if_pos h1]
  dsimp only
  rw [till_issueTick] at h3
  unfold State.atIssue
  rw [till_issueTick]
  cases f with
  | uncorrectable => exact absurd rfl h2
  | clean =>
    dsimp only
    rw [h3]
    rfl
  | corrected =>
    dsimp only
    rw [h3]
    rfl

theorem Issues.length (h : Issues k op f s) : k.toNat < s.kiln.engines.length := State.mayIssue_length h.1

/-- What the issue of a step leaves, before the step's own effect. -/
structure AtIssue (k : BitVec 3) (op : Nat) (s v : State) : Prop where
  now : v.clk.now = issueTick k s
  ran : s.clk.Ran v.clk
  stepped : Stepped k ((s.eng k.toNat).issued op) s v
  kiln : EnginesOnly s v
  only : Only [.clk, .kiln] s v

theorem State.atIssue_leaves (h : s.mayIssue k.toNat op = true) (f : Fetch) : AtIssue k op s (s.atIssue k op f) := by
  have hto := s.till_only (issueTick k s)
  have hran := s.till_ran (issueTick k s)
  have htn : (s.till (issueTick k s)).clk.now = issueTick k s := by
    rw [s.till_clock]
    unfold issueTick
    omega
  unfold State.atIssue
  have htk : (s.till (issueTick k s)).kiln = s.kiln := hto.kiln_eq
  generalize s.till (issueTick k s) = u at hto htn htk hran ⊢
  have hno := u.noteFetch_only_kiln k.toNat f
  have hnk := u.noteFetch_kiln k.toNat f
  have hs : Stepped k (s.eng k.toNat) s (u.noteFetch k.toNat f) :=
    (Stepped.refl k s).same (by rw [hnk, htk])
  generalize u.noteFetch k.toNat f = w at hno hnk hs ⊢
  refine ⟨?_, ?_, hs.set (State.mayIssue_length h) (fun e => e.issued op), ?_, ?_⟩
  · show w.clk.now = _
    rw [hno.clk_eq, htn]
  · show s.clk.Ran w.clk
    rw [hno.clk_eq]
    exact hran
  · refine State.setEng_enginesOnly ?_ _ _
    unfold EnginesOnly
    rw [hnk, htk]
  · exact (hto.mono rfl).trans ((hno.mono rfl).trans ((State.issueStep_only w _ _).mono rfl))

theorem Issues.atIssue (h : Issues k op f s) : AtIssue k op s (s.atIssue k op f) := State.atIssue_leaves h.1 f

theorem AtIssue.engTicks {v : State} (h : AtIssue k op s v) (j d : Nat) : v.engTicks j d = s.engTicks j d :=
  State.engTicks_pll h.ran.corePll j d

/-! What an obligation says of the engine, from the engine that is left. -/

theorem Issued.of_eng (hn : t.clk.now = issueTick k s) (he : t.eng k.toNat = e) (h1 : e.opcode = op)
    (h2 : e.shown = (s.eng k.toNat).pc) (h3 : e.steps = ((s.eng k.toNat).steps + 1) % 0x100000000)
    (h4 : e.err = (s.eng k.toNat).err) : Issued k op s t := by
  unfold Issued
  rw [he]
  exact ⟨hn, h1, h2, h3, h4⟩

theorem GoesTo.of_eng {a : Nat} (he : t.eng k.toNat = e.goes a (t.clk.now + s.engTicks k.toNat 1)) : GoesTo k a s t := by
  unfold GoesTo
  rw [he]
  exact ⟨rfl, rfl, rfl, rfl⟩

theorem SameFlags.of_eng (he : t.eng k.toNat = e) (h1 : e.cf = (s.eng k.toNat).cf) (h2 : e.tmo = (s.eng k.toNat).tmo)
    (h3 : e.cl = (s.eng k.toNat).cl) (h4 : e.lc = (s.eng k.toNat).lc) : SameFlags k s t := by
  unfold SameFlags
  rw [he]
  exact ⟨h1, h2, h3, h4⟩

theorem WaitsIn.of_eng {b : Busy} (he : t.eng k.toNat = { (s.eng k.toNat).issued op with st := .waiting, busy := b }) : WaitsIn k b s t := by
  unfold WaitsIn
  rw [he]
  exact ⟨rfl, rfl, rfl⟩

/-- A step that acts on its engine alone goes on with an address. -/
theorem AtIssue.goes {v : State} (h : AtIssue k op s v) (hk : k.toNat < s.kiln.engines.length) {u : State} {e : Engine}
    (hu : Stepped k e s u) (hc : u.clk = v.clk) (ha : e.active = true) (a : Nat) :
    Stepped k (e.goes a ((u.goStep k.toNat a 1).clk.now + s.engTicks k.toNat 1)) s (u.goStep k.toNat a 1) := by
  have hg := hu.goes hk ha a 1
  rw [State.engTicks_pll (s := s) (t := u) (by rw [hc]; exact h.ran.corePll)] at hg
  exact hg

/-- A step that holds its engine inside. -/
theorem Issues.waits (h : Issues k op f s) (b : Busy) (ht : t = (s.atIssue k op f).waitIn k.toNat b) :
    Issued k op s t ∧ WaitsIn k b s t ∧ SameFlags k s t ∧ OtherEngines k s t ∧ EnginesOnly s t ∧ Only [.clk, .kiln] s t := by
  subst ht
  have hv := h.atIssue
  generalize s.atIssue k op f = v at hv ⊢
  have hw := hv.stepped.set h.length (fun e => { e with st := .waiting, busy := b })
  exact ⟨.of_eng hv.now hw.eng rfl rfl rfl rfl, .of_eng hw.eng, .of_eng hw.eng rfl rfl rfl rfl, hw.others,
    State.setEng_enginesOnly hv.kiln _ _, hv.only.trans ((v.setEng_only _ _).mono rfl)⟩

/-- A step that does nothing but go on with the next address. -/
theorem Issues.passes (h : Issues k op f s) (hp : (s.eng k.toNat).pc < lastStep k.toNat) (ht : t = (s.atIssue k op f).endStep k.toNat 1) :
    Issued k op s t ∧ GoesTo k ((s.eng k.toNat).pc + 1) s t ∧ SameFlags k s t ∧ OtherEngines k s t ∧ EnginesOnly s t
      ∧ Only [.clk, .kiln] s t := by
  have hv := h.atIssue
  have hpv : ((s.atIssue k op f).eng k.toNat).pc < lastStep k.toNat := by
    rw [hv.stepped.eng]
    exact hp
  rw [State.endStep_goes hpv, hv.stepped.eng] at ht
  subst ht
  generalize s.atIssue k op f = v at hv ⊢
  have hw := hv.goes h.length hv.stepped rfl rfl ((s.eng k.toNat).pc + 1)
  exact ⟨.of_eng hv.now hw.eng rfl rfl rfl rfl, .of_eng hw.eng, .of_eng hw.eng rfl rfl rfl rfl, hw.others,
    State.goStep_enginesOnly hv.kiln _ _ _, hv.only.trans ((v.goStep_only _ _ _).mono rfl)⟩

/-- A step that changes its engine and goes on with an address. -/
theorem Issues.jumps (h : Issues k op f s) (g : Engine → Engine) (a : Nat) (hg : (g ((s.eng k.toNat).issued op)).st = .running)
    (ht : t = ((s.atIssue k op f).setEng k.toNat g).goStep k.toNat a 1) :
    t.clk.now = issueTick k s ∧ t.eng k.toNat = (g ((s.eng k.toNat).issued op)).goes a (t.clk.now + s.engTicks k.toNat 1)
      ∧ OtherEngines k s t ∧ EnginesOnly s t ∧ Only [.clk, .kiln] s t := by
  subst ht
  have hv := h.atIssue
  generalize s.atIssue k op f = v at hv ⊢
  have hw := hv.goes h.length (hv.stepped.set h.length g) rfl (Engine.active_running hg) a
  exact ⟨hv.now, hw.eng, hw.others, State.goStep_enginesOnly (State.setEng_enginesOnly hv.kiln _ _) _ _ _,
    hv.only.trans (((v.setEng_only _ _).mono rfl).trans ((State.goStep_only _ _ _ _).mono rfl))⟩

theorem State.atIssue_tick (k : BitVec 3) (op : Nat) (f : Fetch) : (s.atIssue k op f).kiln.tick = s.kiln.tick
    ∧ (s.atIssue k op f).kiln.eventFlags = s.kiln.eventFlags ∧ (s.atIssue k op f).kiln.failBits = s.kiln.failBits := by
  have hn := (s.till (issueTick k s)).noteFetch_kiln k.toNat f
  show ((s.till (issueTick k s)).noteFetch k.toNat f).kiln.tick = _ ∧ ((s.till (issueTick k s)).noteFetch k.toNat f).kiln.eventFlags = _
    ∧ ((s.till (issueTick k s)).noteFetch k.toNat f).kiln.failBits = _
  rw [hn]
  exact ⟨rfl, rfl, rfl⟩

/-- A JUMPIF sees the flags as its tick found them (R117). -/
theorem Issues.jumps_seen (h : Issues k op f s) (w : Step64) :
    (s.atIssue k op f).jumps k.toNat w = (s.till (issueTick k s)).jumps k.toNat w := by
  obtain ⟨h1, h2, h3⟩ := State.atIssue_tick (s := s) k op f
  have hn : (s.atIssue k op f).clk.now = (s.till (issueTick k s)).clk.now := by
    rw [h.atIssue.now, s.till_clock]
    unfold issueTick
    omega
  have ht : (s.till (issueTick k s)).kiln = s.kiln := (s.till_only _).kiln_eq
  have he : (s.atIssue k op f).eng k.toNat = ((s.till (issueTick k s)).eng k.toNat).issued op := h.atIssue.stepped.eng
  have hv : (s.atIssue k op f).evSeen = (s.till (issueTick k s)).evSeen := by
    unfold State.evSeen
    rw [h1, h2, hn, ht]
  have hf : (s.atIssue k op f).failSeen = (s.till (issueTick k s)).failSeen := by
    unfold State.failSeen
    rw [h1, h3, hn, ht]
  unfold State.jumps
  dsimp only
  rw [he, hv, hf] <;> rfl

end

/-- Settles O13: each plain step leaves its engine inside it, at the next address or at its target. -/
theorem plainSteps : Obligations.PlainSteps := by
  unfold Obligations.PlainSteps
  refine ⟨fun k f s h hp => ?_, fun k f s h => ?_, fun k f s h => ?_, fun k f s h => ?_, fun k f s h => ?_, fun k f s h hp => ?_⟩
  · exact Answers.of_exec (congrArg Host.Outcome.next (h.engStep _)) (h.passes hp rfl)
  · refine Answers.of_exec (congrArg Host.Outcome.next (h.engStep _)) (h.waits _ ?_)
    rw [h.atIssue.engTicks, h.atIssue.now]
  · refine Answers.of_exec (congrArg Host.Outcome.next (h.engStep _)) (h.waits _ ?_)
    rw [h.atIssue.now]
  · refine Answers.of_exec (congrArg Host.Outcome.next (h.engStep _)) (h.waits _ ?_)
    rw [h.atIssue.now]
  · refine Answers.of_exec (congrArg Host.Outcome.next (h.engStep _)) ?_
    have hx : (if bit (s.stepOf k.toNat) 56 then
          (s.atIssue k 0x7 f).setEng k.toNat (fun e => { e with lc := stLcval (s.stepOf k.toNat) }) else s.atIssue k 0x7 f)
        = (s.atIssue k 0x7 f).setEng k.toNat (fun e => { e with
            lc := if bit (s.stepOf k.toNat) 56 then stLcval (s.stepOf k.toNat) else e.lc }) := by
      cases bit (s.stepOf k.toNat) 56 with
      | true => rfl
      | false => exact (State.setEng_self _ (fun _ => rfl)).symm
    obtain ⟨h1, h2, h3, h4, h5⟩ := h.jumps (fun e => { e with
      lc := if bit (s.stepOf k.toNat) 56 then stLcval (s.stepOf k.toNat) else e.lc }) (stTarget (s.stepOf k.toNat)) rfl rfl
    dsimp only
    rw [hx]
    generalize (((s.atIssue k 0x7 f).setEng k.toNat _).goStep k.toNat (stTarget (s.stepOf k.toNat)) 1) = t at h1 h2 h3 h4 h5 ⊢
    refine ⟨.of_eng h1 h2 rfl rfl rfl rfl, .of_eng h2, ?_, ?_, ?_, ?_, h3, h4, h5⟩ <;> rw [h2] <;> rfl
  · refine Answers.of_exec (congrArg Host.Outcome.next (h.engStep _)) ?_
    let w := s.stepOf k.toNat
    let a := if (s.till (issueTick k s)).jumps k.toNat w then stTarget w else (s.eng k.toNat).pc + 1
    have hpc : (((s.atIssue k 0x8 f).setEng k.toNat (fun e => e.afterJumpif w)).eng k.toNat).pc = (s.eng k.toNat).pc := by
      rw [(h.atIssue.stepped.set h.length _).eng]
      rfl
    have hx : (if (s.atIssue k 0x8 f).jumps k.toNat w then
          ((s.atIssue k 0x8 f).setEng k.toNat (fun e => e.afterJumpif w)).goStep k.toNat (stTarget w) 1
        else ((s.atIssue k 0x8 f).setEng k.toNat (fun e => e.afterJumpif w)).endStep k.toNat 1)
        = ((s.atIssue k 0x8 f).setEng k.toNat (fun e => e.afterJumpif w)).goStep k.toNat a 1 := by
      rw [h.jumps_seen, State.endStep_goes (by rw [hpc]; exact hp), hpc]
      show _ = State.goStep _ _ (if (s.till (issueTick k s)).jumps k.toNat w then stTarget w else (s.eng k.toNat).pc + 1) 1
      split <;> rfl
    obtain ⟨h1, h2, h3, h4, h5⟩ := h.jumps (fun e => e.afterJumpif w) a rfl hx
    dsimp only
    generalize (if (s.atIssue k 0x8 f).jumps k.toNat (s.stepOf k.toNat) then
          ((s.atIssue k 0x8 f).setEng k.toNat (fun e => e.afterJumpif (s.stepOf k.toNat))).goStep k.toNat (stTarget (s.stepOf k.toNat)) 1
        else ((s.atIssue k 0x8 f).setEng k.toNat (fun e => e.afterJumpif (s.stepOf k.toNat))).endStep k.toNat 1) = t at h1 h2 h3 h4 h5 ⊢
    have hb (b c : Bool) : (if b = true then false else c) = (c && !b) := by cases b <;> cases c <;> rfl
    refine ⟨.of_eng h1 h2 rfl rfl rfl rfl, .of_eng h2, ?_, ?_, ?_, ?_, h3, h4, h5⟩ <;> rw [h2]
    · exact hb _ _
    · exact hb _ _
    · exact hb _ _
    · rfl

end Sys2Proof.Machine
end

section
/-! SUPPORT. The ends of waits (O14). -/

set_option Elab.async false

namespace Sys2Proof.Machine

/-! ## The ends of steps (R108, R111) -/

section
variable {k : BitVec 3} {s t u : State} {e : Engine} {n : Nat}

theorem State.inStep_waiting {tick : Nat} (h : s.inStep n tick = true) : (s.eng n).st = .waiting := by
  unfold State.inStep at h
  simp only [Bool.and_eq_true, beq_iff_eq] at h
  exact h.1.2

theorem State.inStep_length {tick : Nat} (h : s.inStep n tick = true) : n < s.kiln.engines.length := by
  have hs := State.inStep_waiting h
  refine State.eng_length fun he => ?_
  rw [he] at hs
  exact absurd hs (by decide)

theorem State.engTicks_zero (k : Nat) : s.engTicks k 0 = 0 := by
  unfold State.engTicks
  split <;> rfl

theorem State.till_enginesOnly (due : Nat) : EnginesOnly s (s.till due) := by
  unfold EnginesOnly
  rw [(s.till_only due).kiln_eq]

theorem State.till_stepped (k : BitVec 3) (due : Nat) : Stepped k (s.eng k.toNat) s (s.till due) :=
  (Stepped.refl k s).same (by rw [(s.till_only due).kiln_eq])

/-- A step that its engine is inside ends, and the next address issues after d ticks. -/
theorem Stepped.finishes (h : Stepped k e s u) {tick : Nat} (hi : s.inStep k.toNat tick = true) (he : e.st = .waiting)
    (hpc : e.pc = (s.eng k.toNat).pc) (hc : u.clk.corePll = s.clk.corePll) (hp : (s.eng k.toNat).pc < lastStep k.toNat) (d : Nat) :
    (u.endStep k.toNat d).clk = u.clk
      ∧ Stepped k (e.goes ((s.eng k.toNat).pc + 1) (u.clk.now + s.engTicks k.toNat d)) s (u.endStep k.toNat d)
      ∧ Only [.kiln] u (u.endStep k.toNat d) := by
  have hpu : (u.eng k.toNat).pc < lastStep k.toNat := by
    rw [h.eng, hpc]
    exact hp
  have ho := State.endStep_only_kiln hpu d
  have hg := h.ends (State.inStep_length hi) (Engine.active_waiting he) (by rw [hpc]; exact hp) d
  rw [State.engTicks_pll hc, hpc] at hg
  exact ⟨ho.clk_eq, hg, ho⟩

theorem GoesTo.of_goes {a : Nat} (hc : t.clk = u.clk) (he : t.eng k.toNat = e.goes a (u.clk.now + s.engTicks k.toNat 1)) :
    GoesTo k a s t :=
  .of_eng (by rw [he, hc])

theorem State.openTick_engines (s : State) : s.openTick.kiln.engines = s.kiln.engines := by
  unfold State.openTick
  split <;> rfl

/-- What the tick's log says, opened at the present tick. -/
theorem State.openTick_evSet (s : State) : s.openTick.kiln.tick.evSet = if s.kiln.tick.time = s.clk.now then s.kiln.tick.evSet else 0 := by
  unfold State.openTick
  split <;> rfl

/-- The tick's log opens; nothing else of the engines' block changes. -/
theorem State.openTick_kiln (s : State) : s.openTick.kiln = { s.kiln with tick := s.openTick.kiln.tick } := by
  unfold State.openTick
  split <;> rfl

theorem State.clearFlags_kiln (s : State) (m : BitVec 16) : (s.clearFlags m).kiln = { s.kiln with
    tick := s.openTick.kiln.tick
    eventFlags := s.kiln.eventFlags &&& ~~~(m &&& ~~~(if s.kiln.tick.time = s.clk.now then s.kiln.tick.evSet else 0)) } := by
  unfold State.clearFlags
  dsimp only
  rw [s.openTick_evSet, s.openTick_kiln]

theorem SamePrograms.of_kiln (h : t.kiln = { s.kiln with
    engines := t.kiln.engines, tick := t.kiln.tick, eventFlags := t.kiln.eventFlags, failBits := t.kiln.failBits
    chatter := t.kiln.chatter, corrected := t.kiln.corrected }) : SamePrograms s t := by
  unfold SamePrograms
  rw [h]
  exact ⟨rfl, rfl, rfl⟩

theorem execSyncSatisfied_ends {w : Step64} {t0 : Nat} (hb : (s.eng k.toNat).busy = .sync w t0) (hi : s.inStep k.toNat s.clk.now = true)
    (ht : s.inTime k.toNat w t0 = true) (hh : s.syncHolds w = true) : execSyncSatisfied k s = .next (s.syncEnd k.toNat w) := by
  unfold execSyncSatisfied
  dsimp only
  rw [hb]
  exact if_pos ⟨hi, ht, hh⟩

theorem execSyncTimeout_due {w : Step64} {t0 due : Nat} (hb : (s.eng k.toNat).busy = .sync w t0)
    (hd : s.stepTimeout k.toNat w t0 = some due) (hi : s.inStep k.toNat (max due s.clk.now) = true) :
    execSyncTimeout k s = .next (if (s.till due).syncHolds w then (s.till due).syncEnd k.toNat w
      else ((s.till due).setTo k.toNat).endStep k.toNat 1) := by
  unfold execSyncTimeout
  dsimp only
  rw [hb]
  dsimp only
  rw [hd]
  exact if_pos hi

theorem execWaitforTimeout_due {w : Step64} {t0 due : Nat} {ctrig : BitVec 4} (hb : (s.eng k.toNat).busy = .waitfor w t0)
    (hd : s.stepTimeout k.toNat w t0 = some due) (hi : s.inStep k.toNat (max due s.clk.now) = true) :
    execWaitforTimeout k s ctrig = .next ((if (s.till due).waitforHolds k.toNat w t0 ctrig then s.till due
      else (s.till due).setTo k.toNat).endStep k.toNat 1) := by
  unfold execWaitforTimeout
  dsimp only
  rw [hb]
  dsimp only
  rw [hd]
  exact if_pos hi

/-- The flags that satisfied a SYNC are consumed where it asks for that. -/
def State.consumed (u : State) (w : Step64) : State := if bit w 57 then u.clearFlags (u.evSeen &&& stFlags w) else u

theorem State.consumed_kiln (u : State) (w : Step64) : Only [.kiln] u (u.consumed w)
    ∧ (u.consumed w).kiln = { u.kiln with tick := (u.consumed w).kiln.tick, eventFlags := (u.consumed w).kiln.eventFlags }
    ∧ (bit w 57 = false → (u.consumed w).kiln.eventFlags = u.kiln.eventFlags)
    ∧ (bit w 57 = true → (u.consumed w).kiln.eventFlags = u.kiln.eventFlags &&& ~~~(u.evSeen &&& stFlags w
        &&& ~~~(if u.kiln.tick.time = u.clk.now then u.kiln.tick.evSet else 0))) := by
  unfold State.consumed
  cases bit w 57 with
  | false => exact ⟨Only.refl _ u, rfl, fun _ => rfl, fun h => absurd h Bool.false_ne_true⟩
  | true =>
    have h := u.clearFlags_kiln (u.evSeen &&& stFlags w)
    refine ⟨State.clearFlags_only _ _, ?_, fun h => absurd h.symm Bool.false_ne_true, fun _ => ?_⟩
    · rw [if_pos rfl, h]
    · rw [if_pos rfl, h]

/-- A SYNC ends: the flags that satisfied it are consumed where it asks for that (R120). -/
theorem Stepped.syncEnds (h : Stepped k (s.eng k.toNat) s u) {tick : Nat} (hi : s.inStep k.toNat tick = true)
    (hc : u.clk.corePll = s.clk.corePll) (hk : u.kiln = s.kiln) (hp : (s.eng k.toNat).pc < lastStep k.toNat) (w : Step64) :
    (u.syncEnd k.toNat w).clk = u.clk ∧ GoesTo k ((s.eng k.toNat).pc + 1) s (u.syncEnd k.toNat w) ∧ SameFlags k s (u.syncEnd k.toNat w)
      ∧ OtherEngines k s (u.syncEnd k.toNat w) ∧ SamePrograms s (u.syncEnd k.toNat w)
      ∧ (bit w 57 = false → (u.syncEnd k.toNat w).kiln.eventFlags = s.kiln.eventFlags)
      ∧ (bit w 57 = true → (u.syncEnd k.toNat w).kiln.eventFlags = s.kiln.eventFlags &&& ~~~(u.evSeen &&& stFlags w
            &&& ~~~(if s.kiln.tick.time = u.clk.now then s.kiln.tick.evSet else 0)))
      ∧ (u.syncEnd k.toNat w).kiln.failBits = s.kiln.failBits ∧ Only [.kiln] u (u.syncEnd k.toNat w) := by
  obtain ⟨hvo, hvk, hv1, hv2⟩ := u.consumed_kiln w
  rw [hk] at hvk hv1 hv2
  have ht : u.syncEnd k.toNat w = (u.consumed w).endStep k.toNat 1 := rfl
  rw [ht]
  generalize u.consumed w = v at hvo hvk hv1 hv2 ⊢
  have hvs : Stepped k (s.eng k.toNat) s v := h.same (by rw [hvk, hk])
  obtain ⟨h1, h2, h3⟩ := hvs.finishes hi (State.inStep_waiting hi) rfl (by rw [hvo.clk_eq]; exact hc) hp 1
  have hvp : (v.eng k.toNat).pc < lastStep k.toNat := by
    rw [hvs.eng]
    exact hp
  have hkl : (v.endStep k.toNat 1).kiln = { v.kiln with engines := (v.endStep k.toNat 1).kiln.engines } := by
    rw [State.endStep_goes hvp]
    rfl
  generalize v.endStep k.toNat 1 = x at h1 h2 h3 hkl ⊢
  refine ⟨h1.trans hvo.clk_eq, .of_goes h1 h2.eng, .of_eng h2.eng rfl rfl rfl rfl, h2.others, ?_, ?_, ?_, ?_, hvo.trans h3⟩
  · refine SamePrograms.of_kiln ?_
    rw [hkl, hvk]
  · rw [hkl]
    exact hv1
  · rw [hkl]
    exact hv2
  · rw [hkl, hvk]

end

/-- Settles O14: a wait ends at its tick, by its condition or at its timeout, and the engine goes on. -/
theorem waitsEnd : Obligations.WaitsEnd := by
  unfold Obligations.WaitsEnd
  refine ⟨fun k due s hb hi hp => ?_, fun k ctrig w t0 s hb hi ht hh hp => ?_, fun k ctrig w t0 due s hb hd hi hp => ?_,
    fun k w t0 s hb hi ht hh hp => ?_, fun k w t0 due s hb hd hi hh hp => ?_, fun k w t0 due s hb hd hi hh hp => ?_⟩
  · have hx : execWaitEnd k s = .next ((s.till due).endStep k.toNat 0) := by
      unfold execWaitEnd
      dsimp only
      rw [hb]
      exact if_pos hi
    refine Answers.of_exec hx ?_
    have hs := s.till_stepped k due
    have hn := s.till_clock due
    have hto := s.till_only due
    have hke := s.till_enginesOnly due
    have hcp := (s.till_ran due).corePll
    generalize s.till due = u at hs hn hto hke hcp ⊢
    obtain ⟨h1, h2, h3⟩ := hs.finishes hi (State.inStep_waiting hi) rfl hcp hp 0
    have hpu : (u.eng k.toNat).pc < lastStep k.toNat := by
      rw [hs.eng]
      exact hp
    have hk2 := State.endStep_enginesOnly hke hpu 0
    generalize u.endStep k.toNat 0 = t at h1 h2 h3 hk2 ⊢
    refine ⟨by rw [h1, hn], ?_, ?_, ?_, ?_, .of_eng h2.eng rfl rfl rfl rfl, h2.others, hk2, (hto.mono rfl).trans (h3.mono rfl)⟩ <;> rw [h2.eng]
    · rfl
    · rfl
    · rw [State.engTicks_zero, h1]
      rfl
    · rfl
  · have hx : execWaitforSatisfied k ctrig s = .next (s.endStep k.toNat 1) := by
      unfold execWaitforSatisfied
      dsimp only
      rw [hb]
      exact if_pos ⟨hi, ht, hh⟩
    refine Answers.of_exec hx ?_
    obtain ⟨h1, h2, h3⟩ := (Stepped.refl k s).finishes hi (State.inStep_waiting hi) rfl rfl hp 1
    exact ⟨.of_goes h1 h2.eng, .of_eng h2.eng rfl rfl rfl rfl, h2.others, State.endStep_enginesOnly rfl hp 1, h3⟩
  · refine Answers.of_exec (execWaitforTimeout_due hb hd hi) ?_
    have hs := s.till_stepped k due
    have hn := s.till_clock due
    have hto := s.till_only due
    have hke := s.till_enginesOnly due
    have hcp := (s.till_ran due).corePll
    generalize s.till due = u at hs hn hto hke hcp ⊢
    have hl := State.inStep_length hi
    have hv : (if u.waitforHolds k.toNat w t0 ctrig then u else u.setTo k.toNat)
        = u.setEng k.toNat (fun e => { e with tmo := e.tmo || !u.waitforHolds k.toNat w t0 ctrig }) := by
      cases u.waitforHolds k.toNat w t0 ctrig with
      | true => exact (State.setEng_self _ (fun e => by simp)).symm
      | false => 
        show u.setEng k.toNat _ = _
        simp
    rw [hv]
    have hv1 := hs.set hl (fun e => { e with tmo := e.tmo || !u.waitforHolds k.toNat w t0 ctrig })
    have hv2 := State.setEng_enginesOnly hke k.toNat (fun e => { e with tmo := e.tmo || !u.waitforHolds k.toNat w t0 ctrig })
    have hv3 := u.setEng_only k.toNat (fun e => { e with tmo := e.tmo || !u.waitforHolds k.toNat w t0 ctrig })
    generalize u.setEng k.toNat (fun e => { e with tmo := e.tmo || !u.waitforHolds k.toNat w t0 ctrig }) = v at hv1 hv2 hv3 ⊢
    obtain ⟨h1, h2, h3⟩ := hv1.finishes hi (State.inStep_waiting hi) rfl (by rw [hv3.clk_eq, hcp]) hp 1
    have hk2 := State.endStep_enginesOnly hv2 (n := k.toNat) (by rw [hv1.eng]; exact hp) 1
    refine ⟨by rw [h1, hv3.clk_eq, hn], .of_goes h1 h2.eng, ?_, ?_, h2.others, hk2, (hto.mono rfl).trans ((hv3.mono rfl).trans (h3.mono rfl))⟩ <;>
      rw [h2.eng] <;> rfl
  · refine Answers.of_exec (execSyncSatisfied_ends hb hi ht hh) ?_
    obtain ⟨-, h2, h3, h4, h5, h6, h7, h8, h9⟩ := (Stepped.refl k s).syncEnds hi rfl rfl hp w
    exact ⟨h2, h3, h4, h5, h6, h7, h8, h9⟩
  · refine Answers.of_exec ((execSyncTimeout_due hb hd hi).trans (congrArg Host.Outcome.next (if_neg (by rw [hh]; exact Bool.false_ne_true)))) ?_
    have hs := s.till_stepped k due
    have hn := s.till_clock due
    have hto := s.till_only due
    have hke := s.till_enginesOnly due
    have hcp := (s.till_ran due).corePll
    generalize s.till due = u at hs hn hto hke hcp ⊢
    have hv1 := hs.set (State.inStep_length hi) (fun e => { e with tmo := true })
    have hv2 := State.setEng_enginesOnly hke k.toNat (fun e => { e with tmo := true })
    have hv3 := u.setEng_only k.toNat (fun e => { e with tmo := true })
    show (State.endStep (u.setEng k.toNat (fun e => { e with tmo := true })) k.toNat 1).clk.now = _ ∧ _
    obtain ⟨h1, h2, h3⟩ := hv1.finishes hi (State.inStep_waiting hi) rfl (by rw [hv3.clk_eq, hcp]) hp 1
    have hk2 := State.endStep_enginesOnly hv2 (n := k.toNat) (by rw [hv1.eng]; exact hp) 1
    refine ⟨by rw [h1, hv3.clk_eq, hn], .of_goes h1 h2.eng, ?_, ?_, h2.others, hk2, (hto.mono rfl).trans ((hv3.mono rfl).trans (h3.mono rfl))⟩ <;>
      exact (congrArg _ h2.eng).trans rfl
  · refine Answers.of_exec ((execSyncTimeout_due hb hd hi).trans (congrArg Host.Outcome.next (if_pos hh))) ?_
    have hs := s.till_stepped k due
    have hn := s.till_clock due
    have hto := s.till_only due
    have hcp := (s.till_ran due).corePll
    have hkk := hto.kiln_eq
    generalize s.till due = u at hs hn hto hcp hkk ⊢
    obtain ⟨h1, h2, h3, h4, h5, h6, -, -, h9⟩ := hs.syncEnds hi hcp hkk hp w
    exact ⟨by rw [h1, hn], h2, h3, h4, h5, h6, (hto.mono rfl).trans (h9.mono rfl)⟩

end Sys2Proof.Machine
end

section
/-! SUPPORT. An engine's error, and HALT (O18). -/

set_option Elab.async false

namespace Sys2Proof.Machine

/-! ## An engine's error (R124, R125) -/

section
variable {s t u : State} {n : Nat}

/-- In Firing the fault of an engine starts a shutdown. -/
theorem State.engineFault_starts (hs : u.pm.state = .firing) (n err : Nat) : ∃ k f table, k ≠ Start.off ∧ f.cause = 0x10
    ∧ f.source = BitVec.ofNat 8 n ∧ f.detail = BitVec.ofNat 8 err
    ∧ ShutdownStarts k f table k.pmCause u (u.engineFault n err) := by
  obtain ⟨g, hg, hx⟩ : ∃ g : BitVec 2, (g = 2 ∨ g = 3)
      ∧ u.engineFault n err = u.receive ⟨0x10, g, BitVec.ofNat 8 n, BitVec.ofNat 8 err⟩ := by
    have hg (g : Nat) : (if g = 3 then (3 : BitVec 2) else if g = 2 then 2 else if n < 4 then 2 else 3) = 2
        ∨ (if g = 3 then (3 : BitVec 2) else if g = 2 then 2 else if n < 4 then 2 else 3) = 3 := by
      split_ifs <;> simp
    exact ⟨_, hg _, rfl⟩
  rw [hx]
  unfold State.receive
  rw [State.receiveAs_stops (.inr (.inl hs)) hg]
  refine ⟨_, _, _, ?_, rfl, rfl, rfl, u.startShutdown_starts _ _ _ _ none⟩
  split <;> exact fun k => by cases k

theorem Engine.abort_error {e : Engine} (h : e.st = .error) : e.abort = e := by
  unfold Engine.abort
  rw [h]
  exact if_neg fun k => k.elim (fun k => by cases k) (fun k => by cases k)

theorem State.abortEngines_eng (u : State) (j : Nat) : u.abortEngines.eng j = (u.eng j).abort := by
  show nth (u.kiln.engines.map Engine.abort) j {} = (nth u.kiln.engines j {}).abort
  unfold nth
  rw [List.getElem?_map]
  cases u.kiln.engines[j]? <;> rfl

/-- The engine as it enters error. -/
def Engine.failed (e : Engine) (err : Nat) : Engine := { e with st := .error, err := err, busy := .none }

/-- What the error of an engine in Firing leaves. -/
theorem State.engineError_stops (hs : u.pm.state = .firing) (hn : n < u.kiln.engines.length) (err : Nat) :
    (u.engineError n err).clk = u.clk ∧ (u.engineError n err).eng n = (u.eng n).failed err
      ∧ (∀ j, ((u.engineError n err).eng j).st ≠ .running ∧ ((u.engineError n err).eng j).st ≠ .waiting)
      ∧ (u.engineError n err).pm.state = .cooling ∧ (u.engineError n err).pm.faultLatch = true ∧ (u.engineError n err).out.pfw = true
      ∧ (u.engineError n err).out.en = u.out.en
      ∧ (u.fault.first = none → ∃ r m, (u.engineError n err).fault.first = some (r, m) ∧ r.cause = 0x10 ∧ r.source = BitVec.ofNat 8 n
          ∧ r.detail = BitVec.ofNat 8 err)
      ∧ (u.engineError n err).kiln.uncorrectable = u.kiln.uncorrectable ∧ SameStores u (u.engineError n err) := by
  let v : State := u.setEng n (fun e => e.failed err)
  let w : State := { v with tw := v.tw.map (fun (p : TwPort) => { p with
    queue := p.queue.map (fun (q : TwSeq) => if q.engine = some n then { q with ending := true } else q) }) }
  have ht : u.engineError n err = w.engineFault n err := rfl
  have hwo : Only [.kiln, .tw] u w := ((u.setEng_only n _).mono rfl).mk_upd
  have hwe : w.eng n = (u.eng n).failed err := State.setEng_same _ hn
  have hwk : w.kiln = { u.kiln with engines := w.kiln.engines } := rfl
  obtain ⟨k, f, table, hk, hf1, hf2, hf3, hx⟩ := w.engineFault_starts (by rw [hwo.pm_eq, hs]) n err
  rw [ht]
  generalize w.engineFault n err = t at hx ⊢
  have hte (j : Nat) : t.eng j = w.abortEngines.eng j := by
    unfold State.eng
    rw [hx.kiln]
  obtain ⟨h1, h2, h3, -⟩ := hx.seen hk
  refine ⟨?_, ?_, fun j => ?_, h1, h2, h3, ?_, fun h0 => ?_, ?_, ?_⟩
  · rw [hx.only.clk_eq, hwo.clk_eq]
  · rw [hte, w.abortEngines_eng, hwe, Engine.abort_error rfl]
  · rw [hte]
    exact w.abortEngines_st j
  · rw [hx.out, hwo.out_eq]
  · rw [hx.fault, if_neg hk]
    exact ⟨_, _, w.recordFault_first (by rw [hwo.fault_eq, h0]) f, hf1, hf2, hf3⟩
  · rw [hx.kiln]
    rfl
  · obtain ⟨a1, a2, a3, a4, a5, a6, a7, a8, a9⟩ := hx.frame.sameStores
    refine ⟨a1.trans hwo.ident_eq, a2.trans hwo.cfg_eq, ?_, a4, a5, ?_, ?_, ?_, a9.trans hwo.pending_eq⟩
    · rw [a3, hwo.sec_eq]
    · rw [a6, hwo.fault_eq]
    · rw [a7, hwo.log_eq]
    · rw [a8, hwo.log_eq]

theorem Failed.of_error {k : BitVec 3} (hs : u.pm.state = .firing) (hn : k.toNat < u.kiln.engines.length) (ho : u.out.en = s.out.en)
    (hf : u.fault = s.fault) (err : Nat) : Failed k err s (u.engineError k.toNat err) := by
  obtain ⟨-, h2, h3, h4, h5, h6, h7, h8, -, -⟩ := State.engineError_stops hs hn err
  unfold Failed
  rw [h2]
  exact ⟨rfl, rfl, rfl, h4, h5, h6, h7.trans ho, fun h0 => h8 (by rw [hf, h0]), h3⟩

theorem SameStores.trans (h : SameStores s u) (k : SameStores u t) : SameStores s t := by
  obtain ⟨h1, h2, h3, h4, h5, h6, h7, h8, h9⟩ := h
  obtain ⟨k1, k2, k3, k4, k5, k6, k7, k8, k9⟩ := k
  exact ⟨k1.trans h1, k2.trans h2, k3.trans h3, k4.trans h4, k5.trans h5, k6.trans h6, k7.trans h7, k8.trans h8, k9.trans h9⟩

/-- A change of neither programs nor logs nor tables. -/
theorem SameStores.of_only {ps : List Part} (h : Only ps s t) (hp : SamePrograms s t) (hr : t.log.fr = s.log.fr) (ha : t.log.fa = s.log.fa)
    (hf : t.fault.tables = s.fault.tables)
    (hs : Part.ident ∉ ps ∧ Part.cfg ∉ ps ∧ Part.sec ∉ ps ∧ Part.pending ∉ ps := by decide) : SameStores s t := by
  obtain ⟨h1, h2, h3, h4⟩ := hs
  exact ⟨h.ident_eq h1, h.cfg_eq h2, by rw [h.sec_eq h3], hp.1, hp.2.1, hf, hr, ha, h.pending_eq h4⟩

/-! ## Rows of steps, by what they do (R102, R118) -/

/-- What the acts of a step that passes on leave of the device, but for the CL of engines. -/
structure Acts (v u : State) : Prop where
  clk : u.clk = v.clk
  pm : u.pm = v.pm
  out : u.out = v.out
  fault : u.fault = v.fault
  length : u.kiln.engines.length = v.kiln.engines.length
  marked : ∀ j, u.eng j = { v.eng j with cl := (u.eng j).cl }
  stores : SameStores v u

theorem SamePrograms.of_same (h : t.kiln = s.kiln) : SamePrograms s t := by
  unfold SamePrograms
  rw [h]
  exact ⟨rfl, rfl, rfl⟩

theorem Acts.of_only {ps : List Part} (h : Only ps s t) (he : t.kiln.engines = s.kiln.engines) (hk : SamePrograms s t)
    (hr : t.log.fr = s.log.fr) (ha : t.log.fa = s.log.fa)
    (hp : (Part.clk ∉ ps ∧ Part.pm ∉ ps ∧ Part.out ∉ ps ∧ Part.fault ∉ ps)
      ∧ Part.ident ∉ ps ∧ Part.cfg ∉ ps ∧ Part.sec ∉ ps ∧ Part.pending ∉ ps := by decide) : Acts s t := by
  obtain ⟨⟨h1, h2, h3, h4⟩, h5⟩ := hp
  refine ⟨h.clk_eq h1, h.pm_eq h2, h.out_eq h3, h.fault_eq h4, by rw [he], fun j => ?_, .of_only h hk hr ha (by rw [h.fault_eq h4]) h5⟩
  unfold State.eng
  rw [he]

theorem Acts.trans (h : Acts s t) (k : Acts t u) : Acts s u :=
  ⟨k.clk.trans h.clk, k.pm.trans h.pm, k.out.trans h.out, k.fault.trans h.fault, k.length.trans h.length,
    fun j => by rw [k.marked, h.marked], h.stores.trans k.stores⟩

theorem Acts.refl (s : State) : Acts s s := .of_only (Only.refl [] s) rfl (.of_same rfl) rfl rfl

theorem State.openTick_acts (s : State) : Acts s s.openTick := by
  have h := s.openTick_kiln
  refine .of_only s.openTick_only (s.openTick_engines) ?_ ?_ ?_
  · unfold SamePrograms
    rw [h]
    exact ⟨rfl, rfl, rfl⟩
  · rw [s.openTick_only.log_eq]
  · rw [s.openTick_only.log_eq]

theorem State.setEng_cl_acts (s : State) (n : Nat) (g : Engine → Bool) : Acts s (s.setEng n (fun e => { e with cl := g e })) := by
  refine ⟨rfl, rfl, rfl, rfl, modNth_length _ _ _, fun j => ?_, .of_only (s.setEng_only n _) ⟨rfl, rfl, rfl⟩ rfl rfl rfl⟩
  by_cases hj : j = n
  · subst hj
    by_cases hl : j < s.kiln.engines.length
    · rw [State.setEng_same _ hl]
    · have hm : modNth s.kiln.engines j (fun e => { e with cl := g e }) = s.kiln.engines :=
        List.modify_eq_self (Nat.le_of_not_lt hl)
      unfold State.eng State.setEng
      dsimp only
      rw [hm]
  · rw [State.setEng_other _ hj]

theorem State.withTick_acts (s : State) (x : TickLog) : Acts s { s with kiln := { s.kiln with tick := x } } :=
  .of_only (ps := [.kiln]) (Only.refl _ s).mk_upd rfl ⟨rfl, rfl, rfl⟩ rfl rfl

theorem State.claimTrim_acts (s : State) (k n : Nat) {act : State → State} (ha : ∀ u, Acts u (act u)) : Acts s (s.claimTrim k n act) := by
  unfold State.claimTrim
  dsimp only
  refine s.openTick_acts.trans ?_
  generalize s.openTick = u
  split
  · exact u.setEng_cl_acts k _
  · refine Acts.trans ?_ (((State.withTick_acts _ _)).trans (ha _))
    split
    · split
      · exact .refl u
      · exact u.setEng_cl_acts _ _
    · exact .refl u

theorem State.claimPwm_acts (s : State) (k n : Nat) {act : State → State} (ha : ∀ u, Acts u (act u)) : Acts s (s.claimPwm k n act) := by
  unfold State.claimPwm
  dsimp only
  refine s.openTick_acts.trans ?_
  split
  · exact .refl _
  · exact (State.withTick_acts _ _).trans (ha _)

theorem State.pwmAct_acts (s : State) (w : Step64) : Acts s (s.pwmAct w) := by
  have h := s.pwmAct_only w
  refine .of_only h ?_ (.of_same h.kiln_eq) ?_ ?_
  · rw [h.kiln_eq]
  · rw [h.log_eq]
  · rw [h.log_eq]

theorem State.applyTrim_acts (s : State) (n level : Nat) (code : Int) : Acts s (s.applyTrim n level code) := by
  have h := s.applyTrim_only n level code
  refine .of_only h ?_ (.of_same h.kiln_eq) ?_ ?_
  · rw [h.kiln_eq]
  · rw [h.log_eq]
  · rw [h.log_eq]

theorem State.flags_acts (s : State) (m : BitVec 16) : Acts s (s.clearFlags m) ∧ Acts s (s.setFlags m) := by
  refine ⟨?_, ?_⟩
  · exact s.openTick_acts.trans (.of_only (ps := [.kiln]) (Only.refl _ _).mk_upd rfl ⟨rfl, rfl, rfl⟩ rfl rfl)
  · exact s.openTick_acts.trans (.of_only (ps := [.kiln]) (Only.refl _ _).mk_upd rfl ⟨rfl, rfl, rfl⟩ rfl rfl)

theorem State.rampRails_idle (h : s.sense.test.src = none) (k : Nat) (srcs : List Nat) : s.rampRails k srcs = s.armRamps k srcs := by
  unfold State.rampRails
  rw [h]

theorem State.armRamps_acts (s : State) (k : Nat) (srcs : List Nat) : Acts s (s.armRamps k srcs) := by
  have h := s.armRamps_only k srcs
  refine .of_only h ?_ (.of_same h.kiln_eq) ?_ ?_
  · rw [h.kiln_eq]
  · rw [h.log_eq]
  · rw [h.log_eq]

theorem Log.push_regions (l : Log) (x : Shard) : (l.push x).fr = l.fr ∧ (l.push x).fa = l.fa := by
  unfold Log.push
  split_ifs <;> exact ⟨rfl, rfl⟩

theorem State.capture_acts (s : State) (kind cause : Nat) (event : List Byte) : Acts s (s.capture kind cause event) := by
  have h := s.capture_only kind cause event
  have hl : (s.capture kind cause event).log.fr = s.log.fr ∧ (s.capture kind cause event).log.fa = s.log.fa := by
    unfold State.capture
    dsimp only
    split
    · exact Log.push_regions _ _
    · exact ⟨rfl, rfl⟩
  refine .of_only h ?_ (.of_same h.kiln_eq) hl.1 hl.2
  rw [h.kiln_eq]

/-- The rows of steps issue their step and act. -/
theorem stepRows_issue {k : BitVec 3} {f : Fetch} {i : Instr} {op : Nat} (h : (i, op) ∈ stepRows k f) (s : State) :
    ∃ act, exec i s = .next (s.engStep k.toNat op f act) := by
  simp only [stepRows, List.mem_cons, Prod.mk.injEq, List.not_mem_nil, or_false] at h
  rcases h with ⟨rfl, rfl⟩ | ⟨rfl, rfl⟩ | ⟨rfl, rfl⟩ | ⟨rfl, rfl⟩ | ⟨rfl, rfl⟩ | ⟨rfl, rfl⟩ | ⟨rfl, rfl⟩ | ⟨rfl, rfl⟩ | ⟨rfl, rfl⟩
    | ⟨rfl, rfl⟩ | ⟨rfl, rfl⟩ | ⟨rfl, rfl⟩ | ⟨rfl, rfl⟩ | ⟨rfl, rfl⟩ | ⟨rfl, rfl⟩ | ⟨rfl, rfl⟩ <;> exact ⟨_, rfl⟩

/-- The rows of steps that pass on act and end their step. -/
theorem passingRows_act {k : BitVec 3} {f : Fetch} {i : Instr} {op : Nat} (h : (i, op) ∈ passingRows k f) (s : State) :
    ∃ act : State → State, exec i s = .next (s.engStep k.toNat op f (fun t => (act t).endStep k.toNat 1))
      ∧ ∀ v, v.sense.test.src = none → Acts v (act v) := by
  simp only [passingRows, List.mem_cons, Prod.mk.injEq, List.not_mem_nil, or_false] at h
  rcases h with ⟨rfl, rfl⟩ | ⟨rfl, rfl⟩ | ⟨rfl, rfl⟩ | ⟨rfl, rfl⟩ | ⟨rfl, rfl⟩ | ⟨rfl, rfl⟩
  · exact ⟨id, rfl, fun v _ => .refl v⟩
  · refine ⟨_, rfl, fun v hv => ?_⟩
    rw [State.rampRails_idle hv]
    exact v.armRamps_acts _ _
  · refine ⟨_, rfl, fun v _ => ?_⟩
    split
    · exact (v.flags_acts _).1
    · exact (v.flags_acts _).2
  · refine ⟨_, rfl, fun v _ => v.claimTrim_acts _ _ fun u => ?_⟩
    exact (u.applyTrim_acts _ _ _).trans (State.setEng_cl_acts _ _ _)
  · exact ⟨_, rfl, fun v _ => v.capture_acts _ _ _⟩
  · exact ⟨_, rfl, fun v _ => v.claimPwm_acts _ _ fun u => u.pwmAct_acts _⟩

end

/-! ## HALT (R18, R118, R245) -/

section
variable {s t u : State} {k : BitVec 3} {op : Nat} {f : Fetch}

theorem State.mayIssue_op (h : s.mayIssue k.toNat op = true) (hb : bit (s.stepOf k.toNat) 56 = true) (ho : op = 0xF) :
    haltsOff (s.stepOf k.toNat) = true := by
  obtain ⟨-, -, -, h4⟩ := State.mayIssue_engine h
  unfold haltsOff
  rw [h4, hb, ho]
  rfl

/-- A HALT with off = 1 acts in a tick in which one is due (R118). -/
theorem State.engStep_halts (h : s.mayIssue k.toNat op = true) (hf : f ≠ .uncorrectable) (hh : haltsOff (s.stepOf k.toNat) = true)
    (act : State → State) : s.engStep k.toNat op f act = act (s.atIssue k op f) := by
  unfold State.engStep
  rw [if_pos h]
  dsimp only
  unfold State.atIssue
  rw [till_issueTick]
  cases f with
  | uncorrectable => exact absurd rfl hf
  | clean =>
    dsimp only
    rw [hh, Bool.not_true, Bool.and_false]
    rfl
  | corrected =>
    dsimp only
    rw [hh, Bool.not_true, Bool.and_false]
    rfl

/-- The state in which engine k has halted. -/
def State.halted (s : State) (k : Nat) : State := s.setEng k (fun e => { e with st := .halted, busy := .none })

theorem State.halt_on (v : State) (n : Nat) : v.halt n false = (v.halted n).endFiring := rfl

theorem State.halt_off (v : State) {n : Nat} (h : n ≠ 4) : v.halt n true = ((v.halted n).mirror 2 0x23).offRequest 0x23 none := by
  unfold State.halt
  dsimp only
  rw [if_neg (by rw [Bool.true_and, beq_iff_eq]; exact h), if_pos rfl]
  rfl

theorem State.halt_saggar (v : State) : v.halt 4 true = ((v.halted 4).setEng 4 (fun e => { e with err := 5 })).engineFault 4 5 := rfl

/-- Engines that have started and not halted keep Firing. -/
theorem State.endFiring_goesOn {j : Nat} (h : (s.eng j).started = true) (hj : (s.eng j).st ≠ .halted) : s.endFiring = s := by
  refine if_neg fun hk => ?_
  have hl : j < s.kiln.engines.length := State.eng_length fun he => by
    rw [he] at h
    exact absurd h (by decide)
  have hm : s.eng j ∈ s.kiln.engines := by
    show nth s.kiln.engines j {} ∈ _
    unfold nth
    rw [List.getElem?_eq_getElem hl]
    exact List.getElem_mem hl
  have := List.all_eq_true.1 hk.2 _ hm
  rw [h, beq_eq_false_iff_ne.2 hj] at this
  exact absurd this (by decide)

theorem State.endFiring_ends (hs : s.pm.state = .firing) (h : ∀ j, (s.eng j).started = true → (s.eng j).st = .halted) :
    s.endFiring = s.enterRunning := by
  refine if_pos ⟨hs, List.all_eq_true.2 fun e he => ?_⟩
  obtain ⟨j, hj, rfl⟩ := List.getElem_of_mem he
  have hx : s.eng j = s.kiln.engines[j] := by
    show nth s.kiln.engines j {} = _
    unfold nth
    rw [List.getElem?_eq_getElem hj]
    rfl
  have := h j
  rw [hx] at this
  cases hst : (s.kiln.engines[j]).started with
  | false => rfl
  | true => rw [this hst]; rfl

theorem AtIssue.pm {v : State} (h : AtIssue k op s v) : v.pm = s.pm := h.only.pm_eq

theorem AtIssue.stores {v : State} (h : AtIssue k op s v) : SameStores s v := by
  refine .of_only h.only (.of_kiln ?_) ?_ ?_ ?_
  · rw [h.kiln]
  · rw [h.only.log_eq]
  · rw [h.only.log_eq]
  · rw [h.only.fault_eq]

/-- An engine's error at a tick that has come. -/
theorem Failed.at_tick (hs : s.pm.state = .firing) (hn : k.toNat < s.kiln.engines.length) (due err : Nat) :
    ((s.till due).engineError k.toNat err).clk.now = (s.till due).clk.now ∧ Failed k err s ((s.till due).engineError k.toNat err)
      ∧ SameStores s ((s.till due).engineError k.toNat err) := by
  have hto := s.till_only due
  generalize s.till due = u at hto ⊢
  have hus : u.pm.state = .firing := by rw [hto.pm_eq, hs]
  have hul : k.toNat < u.kiln.engines.length := by rwa [hto.kiln_eq]
  have hu : SameStores s u := by
    refine .of_only hto (.of_same hto.kiln_eq) ?_ ?_ ?_
    · rw [hto.log_eq]
    · rw [hto.log_eq]
    · rw [hto.fault_eq]
  obtain ⟨h1, -, -, -, -, -, -, -, -, h2⟩ := State.engineError_stops hus hul err
  exact ⟨congrArg Clk.now h1, .of_error hus hul (by rw [hto.out_eq]) hto.fault_eq err, hu.trans h2⟩

end

/-- Settles O18: HALT in each form, and the errors that end an engine. -/
theorem haltsAndEngineErrors : Obligations.HaltsAndEngineErrors := by
  unfold Obligations.HaltsAndEngineErrors
  refine ⟨fun k f s h hb hj => ?_, fun k f s h hb hj => ?_, fun k f s h hf hb hk => ?_, fun f s h hf hb => ?_,
    fun k s hk hs hst hsb ht => ?_, fun k s hk hs ha => ?_, fun k i op s hi h => ?_, fun k f i op s hi h hn hp => ?_,
    fun k f i op s hi h hf ho hh => ?_, fun k f i op s hi h => ?_⟩
  · have hv := h.atIssue
    refine Answers.of_exec (t := (s.atIssue k 0xF f).halted k.toNat) ((congrArg Host.Outcome.next (h.engStep _)).trans ?_) ?_
    · rw [hb, State.halt_on]
      obtain ⟨j, hjk, h1, h2⟩ := hj
      have hje : ((s.atIssue k 0xF f).halted k.toNat).eng j = s.eng j := (State.setEng_other _ hjk).trans (hv.stepped.others j hjk)
      rw [State.endFiring_goesOn (j := j) (by rw [hje, h1]) (by rw [hje]; exact h2)]
    · generalize s.atIssue k 0xF f = v at hv ⊢
      have hw := hv.stepped.set h.length (fun e => { e with st := .halted, busy := .none })
      refine ⟨.of_eng hv.now hw.eng rfl rfl rfl rfl, ?_, ?_, .of_eng hw.eng rfl rfl rfl rfl, hw.others,
        State.setEng_enginesOnly hv.kiln _ _, hv.only.trans ((v.setEng_only _ _).mono rfl)⟩
      · exact (congrArg Engine.st hw.eng).trans rfl
      · exact (congrArg Engine.busy hw.eng).trans rfl
  · have hv := h.atIssue
    have hst := (State.mayIssue_engine h.1).1
    refine Answers.of_exec ((congrArg Host.Outcome.next (h.engStep _))) ?_
    rw [hb, State.halt_on]
    generalize s.atIssue k 0xF f = v at hv ⊢
    have hw := hv.stepped.set h.length (fun e => { e with st := .halted, busy := .none })
    have hwo : Only [.kiln] v (v.halted k.toNat) := v.setEng_only _ _
    have hwk := State.setEng_enginesOnly hv.kiln k.toNat (fun e => { e with st := .halted, busy := .none })
    have hall : ∀ j, ((v.halted k.toNat).eng j).started = true → ((v.halted k.toNat).eng j).st = .halted := fun j hs => by
      by_cases hjk : j = k.toNat
      · subst hjk
        exact (congrArg Engine.st hw.eng).trans rfl
      · have hje : (v.halted k.toNat).eng j = s.eng j := hw.others j hjk
        rw [hje] at hs ⊢
        exact hj j hjk hs
    rw [State.endFiring_ends (by rw [hwo.pm_eq, hv.pm, hst]) hall]
    have hwn : (v.halted k.toNat).clk.now = issueTick k s := hv.now
    have hwu : (v.halted k.toNat).cfgAt 0x70800 = s.cfgAt 0x70800 := by
      rw [hwo.cfgAt_eq, hv.only.cfgAt_eq]
    have hso : Only [.clk, .kiln] s (v.halted k.toNat) := hv.only.trans (hwo.mono rfl)
    have hw2 : Stepped k _ s (v.halted k.toNat) := hw
    have hwk2 : EnginesOnly s (v.halted k.toNat) := hwk
    generalize v.halted k.toNat = w at hwn hwu hso hw2 hwk2 ⊢
    have hro := w.enterRunning_only
    have hpm := w.enterRunning_pm
    have hcy : w.enterRunning.mg.sweep.cycleDue = (if fld (w.cfgAt 0x70800) 31 16 = 0 then none
        else some (w.clk.now + fld (w.cfgAt 0x70800) 31 16 * 60 * secondTicks)) := by
      have hg : (w.goTo .running 0x18).cfgAt 0x70800 = w.cfgAt 0x70800 := (w.goTo_only .running 0x18).cfgAt_eq _
      unfold State.enterRunning
      dsimp only
      rw [hg]
      rfl
    have hrs := hw2.same (u := w.enterRunning) (by rw [hro.kiln_eq])
    generalize w.enterRunning = t at hro hpm hcy hrs ⊢
    refine ⟨.of_eng (by rw [hro.clk_eq, hwn]) hrs.eng rfl rfl rfl rfl, ?_, ?_, ?_, ?_, hrs.others, ?_,
      (hso.mono rfl).trans (hro.mono rfl)⟩
    · exact (congrArg Engine.st hrs.eng).trans rfl
    · rw [hpm]
    · rw [hpm]
    · rw [hcy, hwu, hro.clk_eq]
    · unfold EnginesOnly at *
      rw [hro.kiln_eq]
      exact hwk2
  · have hh := State.mayIssue_op h hb rfl
    have hst := (State.mayIssue_engine h).1
    have hv := State.atIssue_leaves h f
    refine Answers.of_exec (congrArg Host.Outcome.next (State.engStep_halts h hf hh _)) ?_
    rw [hb, State.halt_off _ (by omega)]
    have hvs := hv.stores
    generalize s.atIssue k 0xF f = v at hv hvs ⊢
    have hw := hv.stepped.set (State.mayIssue_length h) (fun e => { e with st := .halted, busy := .none })
    have hwo : Only [.kiln] v (v.halted k.toNat) := v.setEng_only _ _
    have hw2 : Stepped k _ s (v.halted k.toNat) := hw
    have hws : SameStores v (v.halted k.toNat) := .of_only hwo ⟨rfl, rfl, rfl⟩ rfl rfl rfl
    generalize v.halted k.toNat = w at hwo hw2 hws ⊢
    have hmo := w.mirror_only 2 0x23
    have hms : SameStores w (w.mirror 2 0x23) := by
      refine .of_only hmo (.of_same hmo.kiln_eq) ?_ ?_ ?_
      · rw [hmo.log_eq]
      · rw [hmo.log_eq]
      · rw [hmo.fault_eq]
    generalize w.mirror 2 0x23 = x at hmo hms ⊢
    have hxo : Only [.clk, .kiln, .ring, .twin] s x := (hv.only.mono rfl).trans ((hwo.mono rfl).trans (hmo.mono rfl))
    have hxe : x.eng k.toNat = w.eng k.toNat := by
      unfold State.eng
      rw [hmo.kiln_eq]
    rw [State.offRequest_stops (.inl (by rw [hxo.pm_eq, hst]))]
    have hx := x.startShutdown_starts .off ⟨0x40, 0, BitVec.ofNat 8 0x23, 0⟩ 0 0x23 none
    generalize x.startShutdown .off ⟨0x40, 0, BitVec.ofNat 8 0x23, 0⟩ 0 0x23 none = t at hx ⊢
    refine ⟨?_, hx.shutdown, hx.lastCause, ?_, ?_, ?_, hvs.trans (hws.trans (hms.trans hx.frame.sameStores))⟩
    · have hte : t.eng k.toNat = (x.eng k.toNat).abort := by
        rw [← x.abortEngines_eng]
        unfold State.eng
        rw [hx.kiln]
      rw [hte, hxe, hw2.eng]
      rfl
    · rw [hx.grace]
      rfl
    · rw [hx.out, hxo.out_eq]
    · rw [hx.latch, hxo.pm_eq, decide_eq_false (fun h => h rfl), Bool.or_false]
  · have hh := State.mayIssue_op (k := 4) h hb rfl
    have hst := (State.mayIssue_engine (k := 4) h).1
    have hv := State.atIssue_leaves (k := 4) h f
    have hb' : bit (s.stepOf (BitVec.toNat (4 : BitVec 3))) 56 = true := hb
    have hx : execHaltStep 4 f s
        = .next ((((s.atIssue 4 0xF f).halted 4).setEng 4 (fun e => { e with err := 5 })).engineFault 4 5) := by
      refine (congrArg Host.Outcome.next (State.engStep_halts (k := 4) h hf hh _)).trans ?_
      rw [hb']
      rfl
    refine Answers.of_exec hx ?_
    have hvs := hv.stores
    have hvl := hv.stepped.length
    have hvo := hv.only
    have hl := State.mayIssue_length (k := 4) h
    generalize s.atIssue 4 0xF f = v at hvs hvl hvo ⊢
    have hw1 : (v.halted 4).eng 4 = { v.eng 4 with st := .halted, busy := .none } := State.setEng_same _ (by rw [hvl]; exact hl)
    have hw2 : ((v.halted 4).setEng 4 (fun e => { e with err := 5 })).eng 4 = { (v.halted 4).eng 4 with err := 5 } := by
      refine State.setEng_same _ ?_
      show 4 < (modNth v.kiln.engines 4 _).length
      rw [modNth_length, hvl]
      exact hl
    have hwo : Only [.kiln] v ((v.halted 4).setEng 4 (fun e => { e with err := 5 })) := (v.setEng_only _ _).trans (State.setEng_only _ _ _)
    have hws : SameStores v ((v.halted 4).setEng 4 (fun e => { e with err := 5 })) := .of_only hwo ⟨rfl, rfl, rfl⟩ rfl rfl rfl
    generalize (v.halted 4).setEng 4 (fun e => { e with err := 5 }) = w at hw2 hwo hws ⊢
    obtain ⟨k, r, table, hk, hr1, hr2, hr3, hx⟩ := w.engineFault_starts (by rw [hwo.pm_eq, hvo.pm_eq, hst]) 4 5
    obtain ⟨h1, h2, h3, -⟩ := hx.seen hk
    generalize w.engineFault 4 5 = t at hx h1 h2 h3 ⊢
    have hte : t.eng 4 = (w.eng 4).abort := by
      rw [← w.abortEngines_eng]
      unfold State.eng
      rw [hx.kiln]
    rw [hte, hw2, hw1]
    refine ⟨rfl, rfl, h1, h2, h3, fun h0 => ?_, ?_, hvs.trans (hws.trans hx.frame.sameStores)⟩
    · rw [hx.fault, if_neg hk]
      exact ⟨_, _, w.recordFault_first (by rw [hwo.fault_eq, hvo.fault_eq, h0]) r, hr1, hr2, hr3⟩
    · rw [hx.out, hwo.out_eq, hvo.out_eq]
  · have hl : k.toNat < s.kiln.engines.length := State.eng_length fun he => by
      rw [he] at hst
      cases hst
    have hx : execStepBudgetExpiry k s = .next ((s.till (issueTick k s)).engineError k.toNat 1) := by
      unfold execStepBudgetExpiry
      dsimp only
      rw [if_pos ⟨hk, hs, hst, hsb, ht⟩, till_issueTick]
    have hn : (s.till (issueTick k s)).clk.now = issueTick k s := by
      rw [s.till_clock]
      unfold issueTick
      omega
    obtain ⟨h1, h2, h3⟩ := Failed.at_tick hs hl (issueTick k s) 1
    exact Answers.of_exec hx ⟨h1.trans hn, h2, h3⟩
  · have hl : k.toNat < s.kiln.engines.length := State.eng_length fun he => by
      rw [he] at ha
      exact ha.elim (fun k => absurd k (by decide)) (fun k => absurd k (by decide))
    have hx : execTimeBudgetExpiry k s
        = .next ((s.till ((s.eng k.toNat).t0 + s.timeBudget k.toNat)).engineError k.toNat 2) := if_pos ⟨hk, hs, ha⟩
    obtain ⟨h1, h2, h3⟩ := Failed.at_tick hs hl ((s.eng k.toNat).t0 + s.timeBudget k.toNat) 2
    exact Answers.of_exec hx ⟨h1.trans (s.till_clock _), h2, h3⟩
  · obtain ⟨act, hx⟩ := stepRows_issue hi s
    have hs := (State.mayIssue_engine h).1
    have hl := State.mayIssue_length h
    have ht : s.engStep k.toNat op .uncorrectable act = (s.till (issueTick k s)).badFetch k.toNat := by
      unfold State.engStep
      rw [if_pos h, till_issueTick]
    refine Answers.of_exec (hx.trans (congrArg Host.Outcome.next ht)) ?_
    have hn : (s.till (issueTick k s)).clk.now = issueTick k s := by
      rw [s.till_clock]
      unfold issueTick
      omega
    have hto := s.till_only (issueTick k s)
    generalize s.till (issueTick k s) = u at hn hto ⊢
    let v : State := if k.toNat < 4 then { u with kiln := { u.kiln with uncorrectable := inc 255 u.kiln.uncorrectable } } else u
    have hvk : v.kiln = { s.kiln with
        uncorrectable := if k.toNat < 4 then inc 255 s.kiln.uncorrectable else s.kiln.uncorrectable } := by
      show (if k.toNat < 4 then { u with kiln := { u.kiln with uncorrectable := inc 255 u.kiln.uncorrectable } } else u).kiln = _
      rw [← hto.kiln_eq]
      split <;> rfl
    have hvo : Only [.kiln] u v := Only.ite (Only.refl _ u).mk_upd (Only.refl _ u)
    have hb : u.badFetch k.toNat = v.engineError k.toNat 3 := rfl
    rw [hb]
    have hso : Only [.clk, .kiln] s v := (hto.mono rfl).trans (hvo.mono rfl)
    have hve : v.eng k.toNat = s.eng k.toNat := by
      unfold State.eng
      rw [hvk]
    have hvs : SameStores s v := by
      refine .of_only hso ?_ ?_ ?_ ?_
      · unfold SamePrograms
        rw [hvk]
        exact ⟨rfl, rfl, rfl⟩
      · rw [hso.log_eq]
      · rw [hso.log_eq]
      · rw [hso.fault_eq]
    generalize v = w at hvk hvo hso hve hvs ⊢
    have hws : w.pm.state = .firing := by rw [hso.pm_eq, hs]
    have hwl : k.toNat < w.kiln.engines.length := by
      rw [hvk]
      exact hl
    obtain ⟨h1, h2, -, -, -, -, -, -, h3, h4⟩ := State.engineError_stops hws hwl 3
    refine ⟨?_, .of_error hws hwl ?_ ?_ 3, ?_, ?_, hvs.trans h4⟩
    · rw [h1, hvo.clk_eq, hn]
    · rw [hso.out_eq]
    · rw [hso.fault_eq]
    · rw [h2, hve]
      rfl
    · rw [h3, hvk]
  · obtain ⟨act, hx, ha⟩ := passingRows_act hi s
    refine Answers.of_exec (hx.trans (congrArg Host.Outcome.next (h.engStep _))) ?_
    have hv := h.atIssue
    have hst := (State.mayIssue_engine h.1).1
    have hvs := hv.stores
    have hva := ha (s.atIssue k op f) (by rw [hv.only.sense_eq]; exact hn)
    generalize s.atIssue k op f = v at hv hvs hva ⊢
    generalize act v = u at hva ⊢
    have hue := hva.marked k.toNat
    rw [hv.stepped.eng] at hue
    have hul : k.toNat < u.kiln.engines.length := by
      rw [hva.length, hv.stepped.length]
      exact h.length
    have hun : u.endStep k.toNat 1 = u.engineError k.toNat 4 := by
      refine if_pos ⟨?_, ?_⟩
      · rw [hue]
        exact hp
      · rw [hue]
        rfl
    have hus : u.pm.state = .firing := by rw [hva.pm, hv.pm, hst]
    rw [hun]
    obtain ⟨h1, -, -, -, -, -, -, -, -, h2⟩ := State.engineError_stops hus hul 4
    refine ⟨?_, .of_error hus hul ?_ ?_ 4, hvs.trans (hva.stores.trans h2)⟩
    · rw [h1, hva.clk, hv.now]
    · rw [hva.out, hv.only.out_eq]
    · rw [hva.fault, hv.only.fault_eq]
  · obtain ⟨act, hx⟩ := stepRows_issue hi s
    have ht : s.engStep k.toNat op f act = s.till (issueTick k s) := by
      unfold State.engStep
      rw [if_pos h]
      dsimp only
      rw [till_issueTick] at ho ⊢
      cases f with
      | uncorrectable => exact absurd rfl hf
      | clean =>
        dsimp only
        rw [ho, hh]
        rfl
      | corrected =>
        dsimp only
        rw [ho, hh]
        rfl
    refine Answers.of_exec (hx.trans (congrArg Host.Outcome.next ht)) ⟨?_, s.till_only _⟩
    rw [s.till_clock]
    unfold issueTick
    omega
  · obtain ⟨act, hx⟩ := stepRows_issue hi s
    refine Answers.of_exec (hx.trans (congrArg Host.Outcome.next (if_neg ?_))) rfl
    rw [h]
    exact Bool.false_ne_true

end Sys2Proof.Machine
end

section
/-! SUPPORT. CHECK (O16). -/

set_option Elab.async false

namespace Sys2Proof.Machine

/-! ## CHECK (R112, R113) -/

section
variable {s t u : State} {k : BitVec 3}

theorem State.insideWin_congr {ps : List Part} (h : Only ps s t) (k win r : Nat)
    (hp : Part.sense ∉ ps ∧ Part.frozen ∉ ps := by decide) : t.insideWin k win r = s.insideWin k win r := by
  unfold State.insideWin State.engCmp State.coreCmp State.cmp
  rw [h.sense_eq hp.1, h.frozen_eq hp.2]

/-- The chatter counts of a list of rails become 0. -/
theorem getD_foldl_zero {t : Tab Nat} (ht : Tab.wf t = true) (l : List Nat) (r : Nat) :
    Tab.getD (l.foldl (fun c r => Tab.put 0 c r 0) t) r 0 = if r ∈ l then 0 else Tab.getD t r 0 := by
  induction l generalizing t with
  | nil => rfl
  | cons x l ih =>
    rw [List.foldl_cons, ih (Tab.wf_put ht _ _ _), Tab.getD_put _ _ _ _ _ ht]
    by_cases h1 : r ∈ l
    · rw [if_pos h1, if_pos (List.mem_cons_of_mem _ h1)]
    · rw [if_neg h1]
      by_cases h2 : x = r
      · rw [if_pos h2, if_pos (List.mem_cons.2 (.inl h2.symm))]
      · rw [if_neg h2, if_neg (fun h => (List.mem_cons.1 h).elim (fun h => h2 h.symm) h1)]

/-- A rail of a CHECK that begins: inside its windows since its tick, or outside. -/
theorem CheckRail.observe_new (r : Nat) (inside : Bool) (qt now : Nat) :
    (CheckRail.mk r none false).observe inside qt now = (⟨r, if inside then some now else none, false⟩, false) := by
  cases inside <;> rfl

theorem State.tablesOk_chatter (h : s.tablesOk = true) : Tab.wf s.kiln.chatter = true := by
  unfold State.tablesOk at h
  simp only [Bool.and_eq_true] at h
  exact h.1.1.1.1.1.2

theorem State.observeEngine_new {n now : Nat} {w : Step64} {l : List Nat} (h : (s.eng n).busy = .check w now (l.map fun r => ⟨r, none, false⟩)) :
    s.observeEngine n = s.setEng n (fun e => { e with busy := .check w now (l.map fun r =>
      ⟨r, if s.insideWin n (fld w 59 56) r then some s.clk.now else none, false⟩) }) := by
  have hr : (l.map fun r => (CheckRail.mk r none false)).map
        (fun r => r.observe (s.insideWin n (fld w 59 56) r.rail) (fld w 39 24 * 200) s.clk.now)
      = l.map fun r => (⟨r, if s.insideWin n (fld w 59 56) r then some s.clk.now else none, false⟩, false) := by
    rw [List.map_map]
    exact List.map_congr_left fun r _ => CheckRail.observe_new r _ _ _
  have hg : ((l.map fun r => (CheckRail.mk r (if s.insideWin n (fld w 59 56) r then some s.clk.now else none) false, false)).filter
      Prod.snd) = [] := by
    rw [List.filter_eq_nil_iff]
    intro e he
    obtain ⟨r, -, rfl⟩ := List.mem_map.1 he
    exact Bool.false_ne_true
  unfold State.observeEngine
  have h' : (nth s.kiln.engines n ({} : Engine)).busy = .check w now (l.map fun r => ⟨r, none, false⟩) := h
  rw [h']
  dsimp only
  rw [hr, hg, List.map_map]
  rfl

theorem execCheckQualified_at {rail : BitVec 6} {w : Step64} {t0 since : Nat} {rails : List CheckRail}
    (hb : (s.eng k.toNat).busy = .check w t0 rails)
    (hr : rails.find? (fun r => r.rail == rail.toNat) = some ⟨rail.toNat, some since, false⟩)
    (hi : s.inStep k.toNat (max (since + ckQual w) s.clk.now) = true) (hd : since + ckQual w ≤ t0 + ckDeadline w) :
    execCheckQualified k rail s = .next (((s.till (since + ckQual w)).setEng k.toNat (fun e => { e with
      busy := .check w t0 (rails.map (fun (x : CheckRail) => if x.rail = rail.toNat then { x with done := true } else x)) })).checkEnd k.toNat
        (rails.map (fun (x : CheckRail) => if x.rail = rail.toNat then { x with done := true } else x))) := by
  unfold execCheckQualified
  dsimp only
  rw [hb]
  dsimp only
  rw [hr]
  exact if_pos ⟨hi, hd⟩

theorem qualified_all (rails : List CheckRail) (n : Nat) :
    (rails.map (fun (x : CheckRail) => if x.rail = n then { x with done := true } else x)).all (fun r => r.done)
      = rails.all (fun r => r.done || r.rail == n) := by
  rw [List.all_map]
  congr 1
  funext r
  show (if r.rail = n then { r with done := true } else r).done = (r.done || r.rail == n)
  by_cases h : r.rail = n
  · rw [if_pos h, beq_iff_eq.2 h, Bool.or_true]
  · rw [if_neg h, beq_eq_false_iff_ne.2 h, Bool.or_false]

/-- Some rails of engine k's CHECK have failed. -/
structure RailsFail (k : BitVec 3) (l : List Nat) (s u : State) : Prop where
  stepped : Stepped k { s.eng k.toNat with cf := (s.eng k.toNat).cf || !l.isEmpty } s u
  bits : ∀ n, n < 64 → bit u.kiln.failBits n = (bit s.kiln.failBits n || l.any (fun r => r == n))
  programs : SamePrograms s u
  flags : u.kiln.eventFlags = s.kiln.eventFlags
  only : Only [.kiln, .log] s u
  log : l = [] → u.log = s.log

theorem State.checkFail_fails (hk : k.toNat < s.kiln.engines.length) (r : Nat) : RailsFail k [r] s (s.checkFail k.toNat r) := by
  have hto := s.openTick_kiln
  have hso := s.openTick_only
  have hs := (Stepped.refl k s).same s.openTick_engines
  have hx : Only [.log] { s.openTick.setEng k.toNat (fun e => { e with cf := true }) with
        kiln := { (s.openTick.setEng k.toNat (fun e => { e with cf := true })).kiln with
          failBits := s.openTick.kiln.failBits ||| one 64 r
          tick := { s.openTick.kiln.tick with failSet := s.openTick.kiln.tick.failSet ||| one 64 r } } } (s.checkFail k.toNat r) :=
    State.capture_only _ _ _ _
  have hk2 := hx.kiln_eq
  generalize s.checkFail k.toNat r = t at hx hk2 ⊢
  generalize s.openTick = v at hto hso hs hx hk2 ⊢
  have hv := (hs.set hk (fun e => { e with cf := true })).same (u := t) (by rw [hk2])
  refine ⟨by simpa using hv, fun n hn => ?_, ?_, ?_, ?_, fun h => by cases h⟩
  · rw [hk2]
    show bit (v.kiln.failBits ||| one 64 r) n = _
    rw [hto, bit_or, bit_one, List.any_cons, List.any_nil, Bool.or_false]
    congr 1
    rw [Bool.eq_iff_iff, decide_eq_true_eq, beq_iff_eq]
    exact ⟨fun h => h.1, fun h => ⟨h, hn⟩⟩
  · unfold SamePrograms
    rw [hk2]
    show v.kiln.store = _ ∧ v.kiln.sgStore = _ ∧ v.kiln.loaded = _
    rw [hto]
    exact ⟨rfl, rfl, rfl⟩
  · rw [hk2]
    show v.kiln.eventFlags = _
    rw [hto]
  · exact (hso.mono rfl).trans (Only.trans (Only.mk_upd (Only.mono (State.setEng_only _ _ _) rfl)) (hx.mono rfl))

theorem RailsFail.refl (k : BitVec 3) (s : State) : RailsFail k [] s s :=
  ⟨by simpa using Stepped.refl k s, fun _ _ => by simp, .of_same rfl, rfl, Only.refl _ s, fun _ => rfl⟩

theorem State.checkFails (hk : k.toNat < s.kiln.engines.length) (l : List Nat) :
    RailsFail k l s (l.foldl (fun u r => u.checkFail k.toNat r) s) := by
  induction l generalizing s with
  | nil => exact .refl k s
  | cons r l ih =>
    obtain ⟨h1, h2, h3, h4, h5, -⟩ := State.checkFail_fails hk r
    rw [List.foldl_cons]
    obtain ⟨k1, k2, k3, k4, k5, -⟩ := ih (s := s.checkFail k.toNat r) (by rw [h1.length]; exact hk)
    have he := h1.trans k1
    rw [h1.eng] at he
    refine ⟨?_, fun n hn => ?_, ?_, k4.trans h4, h5.trans k5, fun h => by cases h⟩
    · simpa using he
    · rw [k2 n hn, h2 n hn, Bool.or_assoc]
      simp
    · exact ⟨k3.1.trans h3.1, k3.2.1.trans h3.2.1, k3.2.2.trans h3.2.2⟩

/-- CHECK begins: the chatter counts are cleared, and the rails that are inside their windows are noted. -/
theorem checkStep_begins {f : Fetch} (hw : Tab.wf s.kiln.chatter = true) (h : Issues k 0x5 f s) :
    Answers (.checkStep k f) s fun t =>
      let w := s.stepOf k.toNat
      Issued k 0x5 s t
        ∧ WaitsIn k (.check w (issueTick k s) ((ckRails w).map fun r =>
            ⟨r, if s.insideWin k.toNat (ckWindow w) r then some (issueTick k s) else none, false⟩)) s t
        ∧ (∀ r, Tab.getD t.kiln.chatter r 0 = if r ∈ ckRails w then 0 else Tab.getD s.kiln.chatter r 0)
        ∧ SameFlags k s t ∧ OtherEngines k s t ∧ SamePrograms s t ∧ t.kiln.failBits = s.kiln.failBits ∧ Only [.clk, .kiln] s t := by
  refine Answers.of_exec (congrArg Host.Outcome.next (h.engStep _)) ?_
  have hv := h.atIssue
  have hl := h.length
  have hin (r : Nat) : (s.atIssue k 0x5 f).insideWin k.toNat (ckWindow (s.stepOf k.toNat)) r
      = s.insideWin k.toNat (ckWindow (s.stepOf k.toNat)) r := State.insideWin_congr hv.only _ _ _
  generalize s.atIssue k 0x5 f = v at hv hin ⊢
  generalize s.stepOf k.toNat = w at hin ⊢
  dsimp only
  let x : State := { v with kiln := { v.kiln with chatter := (ckRails w).foldl (fun c r => Tab.put 0 c r 0) v.kiln.chatter } }
  let y : State := x.waitIn k.toNat (.check w v.clk.now ((ckRails w).map (fun r => ⟨r, none, false⟩)))
  have hy := (hv.stepped.same (u := x) rfl).set hl
    (fun e => { e with st := .waiting, busy := .check w v.clk.now ((ckRails w).map (fun r => ⟨r, none, false⟩)) })
  have hyo : Only [.kiln] v y := (Only.refl [.kiln] v).mk_upd.trans (x.setEng_only _ _)
  have hyb : (y.eng k.toNat).busy = .check w v.clk.now ((ckRails w).map (fun r => ⟨r, none, false⟩)) :=
    (congrArg Engine.busy hy.eng).trans rfl
  have hyc : y.kiln = { v.kiln with
      engines := y.kiln.engines, chatter := (ckRails w).foldl (fun c r => Tab.put 0 c r 0) v.kiln.chatter } := rfl
  have hy2 : Stepped k _ s y := hy
  have ho := State.observeEngine_new hyb
  show Issued k 0x5 s (y.observeEngine k.toNat) ∧ _
  rw [ho]
  have hyi (r : Nat) : y.insideWin k.toNat (fld w 59 56) r = s.insideWin k.toNat (ckWindow w) r :=
    (State.insideWin_congr hyo _ _ _).trans (hin r)
  simp only [hyi]
  generalize y = z at hy2 hyo hyc
  have hzn : z.clk.now = issueTick k s := by rw [hyo.clk_eq, hv.now]
  rw [hzn, hv.now]
  have ht := hy2.set hl (fun e => { e with
    busy := .check w (issueTick k s) ((ckRails w).map fun r =>
      ⟨r, if s.insideWin k.toNat (ckWindow w) r then some (issueTick k s) else none, false⟩) })
  have hto := z.setEng_only k.toNat (fun e => { e with
    busy := .check w (issueTick k s) ((ckRails w).map fun r =>
      ⟨r, if s.insideWin k.toNat (ckWindow w) r then some (issueTick k s) else none, false⟩) })
  refine ⟨.of_eng hzn ht.eng rfl rfl rfl rfl, .of_eng ht.eng, fun r => ?_, .of_eng ht.eng rfl rfl rfl rfl, ht.others, ?_, ?_,
    hv.only.trans ((hyo.mono rfl).trans (hto.mono rfl))⟩
  · show Tab.getD z.kiln.chatter r 0 = _
    rw [hyc, hv.kiln]
    exact getD_foldl_zero hw _ r
  · show z.kiln.store = _ ∧ z.kiln.sgStore = _ ∧ z.kiln.loaded = _
    rw [hyc, hv.kiln]
    exact ⟨rfl, rfl, rfl⟩
  · show z.kiln.failBits = _
    rw [hyc, hv.kiln]

theorem checkQualified_ends {rail : BitVec 6} {w : Step64} {t0 since : Nat} {rails : List CheckRail}
    (hb : (s.eng k.toNat).busy = .check w t0 rails)
    (hr : rails.find? (fun r => r.rail == rail.toNat) = some ⟨rail.toNat, some since, false⟩)
    (hi : s.inStep k.toNat (max (since + ckQual w) s.clk.now) = true) (hd : since + ckQual w ≤ t0 + ckDeadline w)
    (hp : (s.eng k.toNat).pc < lastStep k.toNat) :
    Answers (.checkQualified k rail) s fun t =>
      t.clk.now = max s.clk.now (since + ckQual w)
        ∧ (rails.all (fun r => r.done || r.rail == rail.toNat) = true → GoesTo k ((s.eng k.toNat).pc + 1) s t)
        ∧ (rails.all (fun r => r.done || r.rail == rail.toNat) = false →
            (t.eng k.toNat).busy = .check w t0 (rails.map fun x => if x.rail = rail.toNat then { x with done := true } else x)
              ∧ (t.eng k.toNat).st = .waiting ∧ (t.eng k.toNat).pc = (s.eng k.toNat).pc)
        ∧ SameFlags k s t ∧ OtherEngines k s t ∧ EnginesOnly s t ∧ Only [.clk, .kiln] s t := by
  refine Answers.of_exec (execCheckQualified_at hb hr hi hd) ?_
  have hl := State.inStep_length hi
  have hst := State.inStep_waiting hi
  have hs := (s.till_stepped k (since + ckQual w)).set hl (fun e => { e with
    busy := .check w t0 (rails.map (fun (x : CheckRail) => if x.rail = rail.toNat then { x with done := true } else x)) })
  have hn := s.till_clock (since + ckQual w)
  have hke := State.setEng_enginesOnly (s.till_enginesOnly (since + ckQual w)) k.toNat (fun e => { e with
    busy := .check w t0 (rails.map (fun (x : CheckRail) => if x.rail = rail.toNat then { x with done := true } else x)) })
  have hcp := (s.till_ran (since + ckQual w)).corePll
  have hto := s.till_only (since + ckQual w)
  generalize s.till (since + ckQual w) = u at hs hn hke hcp hto ⊢
  have huo := u.setEng_only k.toNat (fun e => { e with
    busy := .check w t0 (rails.map (fun (x : CheckRail) => if x.rail = rail.toNat then { x with done := true } else x)) })
  generalize u.setEng k.toNat (fun e => { e with
    busy := .check w t0 (rails.map (fun (x : CheckRail) => if x.rail = rail.toNat then { x with done := true } else x)) }) = v
    at hs hke huo ⊢
  have hvo : Only [.clk, .kiln] s v := (hto.mono rfl).trans (huo.mono rfl)
  have hvn : v.clk.now = max s.clk.now (since + ckQual w) := by rw [huo.clk_eq, hn]
  unfold State.checkEnd
  rw [qualified_all]
  cases rails.all (fun r => r.done || r.rail == rail.toNat) with
  | true =>
    rw [if_pos rfl]
    obtain ⟨h1, h2, h3⟩ := hs.finishes hi hst rfl (by rw [huo.clk_eq]; exact hcp) hp 1
    have hk2 := State.endStep_enginesOnly hke (n := k.toNat) (by rw [hs.eng]; exact hp) 1
    exact ⟨by rw [h1, hvn], fun _ => .of_goes h1 h2.eng, fun h => absurd h.symm Bool.false_ne_true, .of_eng h2.eng rfl rfl rfl rfl,
      h2.others, hk2, hvo.trans (h3.mono rfl)⟩
  | false =>
    rw [if_neg Bool.false_ne_true]
    refine ⟨hvn, fun h => absurd h Bool.false_ne_true, fun _ => ?_, .of_eng hs.eng rfl rfl rfl rfl, hs.others, hke, hvo⟩
    rw [hs.eng]
    exact ⟨rfl, hst, rfl⟩

theorem checkDeadline_ends {w : Step64} {t0 : Nat} {rails : List CheckRail} (hb : (s.eng k.toNat).busy = .check w t0 rails)
    (hi : s.inStep k.toNat (max (t0 + ckDeadline w) s.clk.now) = true) (hp : (s.eng k.toNat).pc < lastStep k.toNat) :
    Answers (.checkDeadline k) s fun t =>
      let bad := rails.filter fun r => !r.settled (ckQual w) (t0 + ckDeadline w)
      t.clk.now = max s.clk.now (t0 + ckDeadline w) ∧ GoesTo k ((s.eng k.toNat).pc + 1) s t
        ∧ (t.eng k.toNat).cf = ((s.eng k.toNat).cf || !bad.isEmpty)
        ∧ (∀ n, n < 64 → bit t.kiln.failBits n = (bit s.kiln.failBits n || bad.any (fun r => r.rail == n)))
        ∧ (bad = [] → t.log = s.log) ∧ OtherEngines k s t ∧ SamePrograms s t ∧ t.kiln.eventFlags = s.kiln.eventFlags
        ∧ Only [.clk, .kiln, .log] s t := by
  have hx : execCheckDeadline k s = .next ((((rails.filter (fun r => !r.settled (ckQual w) (t0 + ckDeadline w))).map (fun r => r.rail)).foldl
      (fun u r => u.checkFail k.toNat r) (s.till (t0 + ckDeadline w))).endStep k.toNat 1) := by
    unfold execCheckDeadline
    dsimp only
    rw [hb]
    exact if_pos hi
  refine Answers.of_exec hx ?_
  dsimp only
  generalize hbad : rails.filter (fun r => !r.settled (ckQual w) (t0 + ckDeadline w)) = bad
  have hl := State.inStep_length hi
  have hs := s.till_stepped k (t0 + ckDeadline w)
  have hn := s.till_clock (t0 + ckDeadline w)
  have hcp := (s.till_ran (t0 + ckDeadline w)).corePll
  have hto := s.till_only (t0 + ckDeadline w)
  have hkk := hto.kiln_eq
  generalize s.till (t0 + ckDeadline w) = u at hs hn hcp hto hkk ⊢
  obtain ⟨h1, h2, h3, h4, h5, h6⟩ := State.checkFails (s := u) (k := k) (by rw [hkk]; exact hl) (bad.map (fun r => r.rail))
  generalize (bad.map (fun r => r.rail)).foldl (fun u r => u.checkFail k.toNat r) u = v at h1 h2 h3 h4 h5 h6 ⊢
  have hv := hs.trans h1
  rw [hs.eng] at hv
  have hvp : (v.eng k.toNat).pc < lastStep k.toNat := by
    rw [hv.eng]
    exact hp
  obtain ⟨k1, k2, k3⟩ := hv.finishes hi (State.inStep_waiting hi) rfl (by rw [h5.clk_eq, hcp]) hp 1
  have hkl : (v.endStep k.toNat 1).kiln = { v.kiln with engines := (v.endStep k.toNat 1).kiln.engines } := by
    rw [State.endStep_goes hvp]
    rfl
  generalize v.endStep k.toNat 1 = t at k1 k2 k3 hkl ⊢
  refine ⟨by rw [k1, h5.clk_eq, hn], .of_goes k1 k2.eng, ?_, fun n hn => ?_, fun hb => ?_, k2.others, ?_, ?_,
    (hto.mono rfl).trans ((h5.mono rfl).trans (k3.mono rfl))⟩
  · rw [k2.eng]
    show ((s.eng k.toNat).cf || !(bad.map (fun r => r.rail)).isEmpty) = _
    rw [List.isEmpty_map]
  · rw [hkl, ← hkk]
    show bit v.kiln.failBits n = _
    rw [h2 n hn, List.any_map]
    rfl
  · rw [k3.log_eq, h6 (by rw [hb]; rfl), hto.log_eq]
  · show t.kiln.store = _ ∧ t.kiln.sgStore = _ ∧ t.kiln.loaded = _
    rw [hkl, ← hkk]
    exact h3
  · rw [hkl, ← hkk]
    exact h4

end

/-- Settles O16: how a CHECK begins, and how it ends. -/
theorem checkSteps : Obligations.CheckSteps := by
  unfold Obligations.CheckSteps
  refine ⟨fun k f s ht h => checkStep_begins (State.tablesOk_chatter ht) h, fun k rail w t0 since rails s hb hr hi hd hp => checkQualified_ends hb hr hi hd hp,
    fun k w t0 rails s hb hi hp => checkDeadline_ends hb hi hp, fun k rail s h => ⟨?_, ?_⟩⟩
  · have hx : execCheckQualified k rail s = .next s := by
      unfold execCheckQualified
      dsimp only
      split
      · next w t0 rails hb => exact absurd hb (h w t0 rails)
      · rfl
    exact Answers.of_exec hx rfl
  · have hx : execCheckDeadline k s = .next s := by
      unfold execCheckDeadline
      dsimp only
      split
      · next w t0 rails hb => exact absurd hb (h w t0 rails)
      · rfl
    exact Answers.of_exec hx rfl

end Sys2Proof.Machine
end

section
/-! SUPPORT. A refutation of what a clear of tripi_seen does (O20). -/

set_option Elab.async false

namespace Sys2Proof.Machine

/-! ## A mark of TRIPI that has set in the tick of its clear -/

/-- A device whose TRIPI0 pulse has set tripi_seen in the present tick. -/
def tripiJustSeen : State :=
  { ready with pwm.tripiSeen := 1, irq.freshAt := ready.clk.now, irq.fresh := [(0xD0010, 0x10000000)] }

/-- Refutes O20: its clause on the clear of tripi_seen holds it to clear every bit that the row names. A bit that hardware sets in the same
tick stays set (R349), and the state has such a bit. -/
theorem not_pwmStartsAndTrips : ¬ Obligations.PwmStartsAndTrips := by
  unfold Obligations.PwmStartsAndTrips
  rintro ⟨-, -, -, -, -, -, -, -, -, h⟩
  obtain ⟨t, ht, hs, -⟩ := h 1 tripiJustSeen (by decide +kernel)
  have hx : afterRow (.tripiSeenClear 1) tripiJustSeen (fun t => t.pwm.tripiSeen == 1) = true := by decide +kernel
  rw [afterRow_next ht, hs] at hx
  exact absurd hx (by decide +kernel)

end Sys2Proof.Machine
end

section
/-! SUPPORT. A refutation of what a clear of an FLT latch does (O12). -/

set_option Elab.async false

namespace Sys2Proof.Machine

/-! ## An FLT latch that has set in the tick of its clear -/

/-- A device whose FLT2 latch has set in the present tick, its source inactive again. -/
def fltJustLatched : State :=
  { ready with sense.fltLatched := 4, irq.freshAt := ready.clk.now, irq.fresh := [(0x30120, 0x400)] }

/-- Refutes O12: its clause on FLT latches clears every latch whose sources are inactive. A latch that hardware sets in the tick of its
clear stays set (R349), and the state has such a latch. -/
theorem not_conversionsAndPins : ¬ Obligations.ConversionsAndPins := by
  unfold Obligations.ConversionsAndPins
  rintro ⟨-, h, -⟩
  obtain ⟨t, ht, hs, -⟩ := h 4 fltJustLatched (by decide +kernel)
  have hx : afterRow (.fltLatchClear 4) fltJustLatched (fun t => t.sense.fltLatched == 4) = true := by decide +kernel
  rw [afterRow_next ht, hs] at hx
  exact absurd hx (by decide +kernel)

end Sys2Proof.Machine
end

section
/-! SUPPORT. A refutation of what a trigger of a PWM channel leaves unchanged (O19). -/

set_option Elab.async false

namespace Sys2Proof.Machine

/-! ## A trigger that opens a group which it does not name -/

/-- A device whose PWM channel 0 counts, where group 0 names its first trigger, and group 1, triggered earlier by another source, has an
entry whose instant has come for converter 0, which is idle. -/
def groupWaits : State :=
  ({ ready.withCh 0 { ready.ch 0 with running := true } with
      sense.groups := modNth ready.sense.groups 1 (fun g => { g with active := true }) }.withReg 0x27200 16).withReg 0x27210 0x1000

/-- Refutes O19: its clause on a trigger compare holds every group that does not name the trigger to stay as it is. Setting the group that
names it lets the idle converters begin the entries whose instant has come (R95), and those may be another active group's, as in the state
given here. -/
theorem not_pwmCounting : ¬ Obligations.PwmCounting := by
  unfold Obligations.PwmCounting
  rintro ⟨-, -, -, -, h, -⟩
  obtain ⟨t, ht, -, -, -, hs, -⟩ := h 0 0 groupWaits (by decide +kernel) (by decide +kernel) (by decide +kernel)
  have hx : afterRow (.pwmTriggerCompare 0 0) groupWaits (fun t => (nth t.sense.groups 1 {}).flying == 1) = true := by decide +kernel
  rw [afterRow_next ht, hs 1 (by decide) (by decide +kernel)] at hx
  exact absurd hx (by decide +kernel)

end Sys2Proof.Machine
end

section
/-! SUPPORT. A refutation of what a PMBus sequence's end leaves unchanged (O23). -/

set_option Elab.async false

namespace Sys2Proof.Machine

/-! ## A sequence that ends for a command of another opcode -/

/-- A RESET by the SPI port, in flight as a broadcast of the root's own, that has been answered with ACCEPTED. -/
def resetAccepted : Cmd := { cmd with op := 0x45, cls := 1, phase := .accepted, bcast := true }

/-- A device that awaits a reset at tick 7, where the ended PMBus sequence of rail 0 names that command. -/
def sequenceOfReset : State :=
  { ready with port.cmds := [resetAccepted], twEnded := [({ seq with cmd := some (false, 1) }, 1)], pm.resetDue := some 7 }

/-- Refutes O23: its clause on the final reply of a margin command takes a command of any opcode. Where the sequence names a RESET, that
reply puts off the reset that is due, which the clause holds to stay. -/
theorem not_twSequences : ¬ Obligations.TwSequences := by
  unfold Obligations.TwSequences
  rintro ⟨-, -, -, -, -, -, -, h⟩
  obtain ⟨t, ht, -, -, -, -, ho⟩ := h 0 { seq with cmd := some (false, 1) } 1 (false, 1) resetAccepted sequenceOfReset (by decide +kernel)
    (by decide +kernel) rfl rfl (by decide +kernel) rfl
  have hx : afterRow (.pmbusSequenceEnd 0) sequenceOfReset (fun t => t.pm.resetDue == some 7) = false := by decide +kernel
  rw [afterRow_next ht, ho.pm_eq] at hx
  exact absurd hx (by decide)

end Sys2Proof.Machine
end

section
/-! SUPPORT. One two-wire port (O24). -/

set_option Elab.async false

namespace Sys2Proof.Machine

/-! ## One two-wire port (R279 to R298) -/

section
variable {s t : State} {p : Nat}

theorem unitsOk_tw (h : s.unitsOk = true) : s.tw.length = 4 := by
  simp only [State.unitsOk, Bool.and_eq_true, beq_iff_eq] at h
  omega

theorem State.setTw_same (f : TwPort → TwPort) (hp : p < s.tw.length) : (s.setTw p f).port2 p = f (s.port2 p) :=
  (nth_modNth _ _ _ _ _ hp).trans (if_pos rfl)

theorem State.setTw_other (f : TwPort → TwPort) {q : Nat} (h : q ≠ p) : (s.setTw p f).port2 q = s.port2 q :=
  nth_modNth_ne _ _ _ _ _ (Ne.symm h)

theorem State.setTw_twOn (f : TwPort → TwPort) (q : Nat) : (s.setTw p f).twOn q = s.twOn q := rfl

theorem twOn_congr (hc : ∀ a, t.cfgAt a = s.cfgAt a) (hp : t.pm = s.pm) (q : Nat) : t.twOn q = s.twOn q := by
  unfold State.twOn State.twCfg
  rw [hc, hp]

/-- What is done at port p leaves every other port, and the number of ports. -/
structure AtPort (p : Nat) (s t : State) : Prop where
  other : ∀ q, q ≠ p → t.port2 q = s.port2 q
  length : t.tw.length = s.tw.length

namespace AtPort

theorem refl : AtPort p s s := ⟨fun _ _ => rfl, rfl⟩

theorem trans {u : State} (h : AtPort p s t) (k : AtPort p t u) : AtPort p s u :=
  ⟨fun q hq => (k.other q hq).trans (h.other q hq), k.length.trans h.length⟩

theorem setTw (f : TwPort → TwPort) : AtPort p s (s.setTw p f) := ⟨fun _ hq => State.setTw_other f hq, modNth_length _ _ _⟩

theorem of_tw (h : t.tw = s.tw) : AtPort p s t := ⟨fun q _ => by unfold State.port2; rw [h], congrArg List.length h⟩

/-- The other ports of a statement. -/
theorem others {b : BitVec 2} (h : AtPort b.toNat s t) : OtherPorts b s t := h.other

end AtPort

/-! ### The port takes its next work (R282, R287) -/

theorem State.pump_atPort (s : State) (p : Nat) : AtPort p s (s.pump p) := by
  unfold State.pump State.startTx
  dsimp only
  split
  · exact .setTw _
  · split
    · exact .setTw _
    · split
      · exact .setTw _
      · split
        · exact .setTw _
        · exact .setTw _

/-- Taking work changes only what the port does and what it has begun to send. -/
theorem State.pump_port (hp : p < s.tw.length) : (s.pump p).port2 p = { s.port2 p with
    activity := ((s.pump p).port2 p).activity, busy := ((s.pump p).port2 p).busy, clearPending := ((s.pump p).port2 p).clearPending
    lastAddr := ((s.pump p).port2 p).lastAddr, sent := ((s.pump p).port2 p).sent, cfg := ((s.pump p).port2 p).cfg } := by
  unfold State.pump State.startTx
  dsimp only
  split
  · rw [State.setTw_same _ hp]
  · split
    · rw [State.setTw_same _ hp]; rfl
    · split
      · rw [State.setTw_same _ hp]
      · split
        · rw [State.setTw_same _ hp]
        · rw [State.setTw_same _ hp]

theorem State.pump_off (hp : p < s.tw.length) (ho : s.twOn p = false) :
    (s.pump p).port2 p = { s.port2 p with activity := 0, busy := false, clearPending := false } := by
  unfold State.pump
  rw [ho]
  exact State.setTw_same _ hp

theorem State.pump_empty (ho : s.twOn p = true) (hc : (s.port2 p).clearPending = false)
    (hq : (s.port2 p).queue = []) : s.pump p = s.setTw p (fun x => { x with activity := 0 }) := by
  unfold State.pump
  dsimp only
  rw [ho, Bool.not_true, if_neg Bool.false_ne_true, hc, if_neg Bool.false_ne_true, hq]

theorem State.pump_waits {q : TwSeq} {rest : List TwSeq} (ho : s.twOn p = true)
    (hc : (s.port2 p).clearPending = false) (hq : (s.port2 p).queue = q :: rest) (hb : (s.port2 p).busy = true) :
    s.pump p = s.setTw p (fun x => { x with activity := 4 }) := by
  unfold State.pump
  dsimp only
  rw [ho, Bool.not_true, if_neg Bool.false_ne_true, hc, if_neg Bool.false_ne_true, hq, hb]
  dsimp only
  exact if_pos rfl

theorem State.pump_starts {q : TwSeq} {rest : List TwSeq} (ho : s.twOn p = true)
    (hc : (s.port2 p).clearPending = false) (hq : (s.port2 p).queue = q :: rest) (hb : (s.port2 p).busy = false) :
    s.pump p = s.startTx p q := by
  unfold State.pump
  dsimp only
  rw [ho, Bool.not_true, if_neg Bool.false_ne_true, hc, if_neg Bool.false_ne_true, hq, hb]
  dsimp only
  exact if_neg Bool.false_ne_true

theorem State.busyPump_atPort (s : State) (p d : Nat) : AtPort p s (s.busyPump p d) :=
  .trans (.setTw _) (State.pump_atPort _ p)

/-- A bus that is busy leaves of the port's work its queue, its results and its counts. -/
theorem State.busyPump_port (hp : p < s.tw.length) (d : Nat) : (s.busyPump p d).port2 p = { s.port2 p with
    activity := ((s.busyPump p d).port2 p).activity, busy := ((s.busyPump p d).port2 p).busy
    clearPending := ((s.busyPump p d).port2 p).clearPending, lastAddr := ((s.busyPump p d).port2 p).lastAddr
    sent := ((s.busyPump p d).port2 p).sent, cfg := ((s.busyPump p d).port2 p).cfg
    idleFrom := s.clk.now + d } := by
  have hx := State.pump_port
    (s := s.setTw p (fun x => { x with busy := true, activity := 0, idleFrom := s.clk.now + d })) (p := p)
    (by rw [AtPort.length (.setTw _)]; exact hp)
  rw [State.setTw_same _ hp] at hx
  exact hx

/-- On a busy bus without a pending clear the port waits for it, if it has work. -/
theorem State.busyPump_waits (hp : p < s.tw.length) (d : Nat) (ho : s.twOn p = true) (hc : (s.port2 p).clearPending = false) :
    (s.busyPump p d).port2 p = { s.port2 p with
      busy := true, activity := if (s.port2 p).queue.isEmpty then 0 else 4, idleFrom := s.clk.now + d } := by
  unfold State.busyPump
  have hw := State.setTw_same (s := s) (fun x => { x with busy := true, activity := 0, idleFrom := s.clk.now + d }) hp
  have ha : AtPort p s (s.setTw p (fun x => { x with busy := true, activity := 0, idleFrom := s.clk.now + d })) := .setTw _
  have ho' := (State.setTw_twOn (s := s) (p := p) (fun x => { x with busy := true, activity := 0, idleFrom := s.clk.now + d }) p).trans ho
  generalize s.setTw p (fun x => { x with busy := true, activity := 0, idleFrom := s.clk.now + d }) = u at hw ha ho' ⊢
  have hl : p < u.tw.length := ha.length ▸ hp
  have hc' : (u.port2 p).clearPending = false := by rw [hw]; exact hc
  obtain hq | ⟨q, rest, hq⟩ : (s.port2 p).queue = [] ∨ ∃ q rest, (s.port2 p).queue = q :: rest := by
    cases (s.port2 p).queue with
    | nil => exact .inl rfl
    | cons q rest => exact .inr ⟨q, rest, rfl⟩
  · rw [State.pump_empty ho' hc' (by rw [hw]; exact hq), State.setTw_same _ hl, hw, if_pos (by rw [hq]; rfl)]
  · rw [State.pump_waits ho' hc' (q := q) (rest := rest) (by rw [hw]; exact hq) (by rw [hw]), State.setTw_same _ hl, hw,
      if_neg (by rw [hq]; exact Bool.false_ne_true)]

/-! ### Sequences end (R286, R293) -/

theorem State.endHead_atPort (s : State) (p : Nat) (result : BitVec 4) (r : BitVec 2) : AtPort p s (s.endHead p result r) := by
  unfold State.endHead
  split
  · exact .refl
  · exact .trans (.setTw _) (.of_tw rfl)

theorem State.endHead_none (h : (s.port2 p).queue = []) (result : BitVec 4) (r : BitVec 2) : s.endHead p result r = s := by
  unfold State.endHead
  rw [h]

theorem State.endHead_port {q : TwSeq} {rest : List TwSeq} (hp : p < s.tw.length) (h : (s.port2 p).queue = q :: rest) (result : BitVec 4)
    (r : BitVec 2) : (s.endHead p result r).port2 p = { s.port2 p with queue := rest, lastResult := result, retries := 0 }
      ∧ (s.endHead p result r).twEnded = s.twEnded ++ [(q, r)] := by
  unfold State.endHead
  rw [h]
  exact ⟨State.setTw_same _ hp, rfl⟩

/-- Ending the heads of a queue one after the other ends every sequence. -/
theorem State.endHeads (result : BitVec 4) : ∀ (l : List TwSeq) (s : State), p < s.tw.length → (s.port2 p).queue = l →
    (l.foldl (fun t _ => t.endHead p result 2) s).port2 p = { s.port2 p with
        queue := [], lastResult := if l = [] then (s.port2 p).lastResult else result, retries := if l = [] then (s.port2 p).retries else 0 }
      ∧ (l.foldl (fun t _ => t.endHead p result 2) s).twEnded = s.twEnded ++ l.map (fun q => (q, 2))
      ∧ AtPort p s (l.foldl (fun t _ => t.endHead p result 2) s)
  | [], s, _, h => ⟨by rw [List.foldl_nil, if_pos rfl, if_pos rfl, ← h], by simp, .refl⟩
  | q :: rest, s, hp, h => by
    have ha := s.endHead_atPort p result 2
    obtain ⟨hx, he⟩ := State.endHead_port hp h result 2
    obtain ⟨hy, hf, hb⟩ := State.endHeads result rest (s.endHead p result 2) (by rw [ha.length]; exact hp) (by rw [hx])
    refine ⟨?_, ?_, ha.trans hb⟩
    · rw [List.foldl_cons, hy, hx, if_neg (List.cons_ne_nil _ _), if_neg (List.cons_ne_nil _ _), ite_self, ite_self]
    · rw [List.foldl_cons, hf, he, List.append_assoc]
      rfl

theorem State.endQueue_port (hp : p < s.tw.length) (result : BitVec 4) :
    (s.endQueue p result).port2 p = { s.port2 p with
        queue := [], lastResult := if (s.port2 p).queue = [] then (s.port2 p).lastResult else result
        retries := if (s.port2 p).queue = [] then (s.port2 p).retries else 0 }
      ∧ (s.endQueue p result).twEnded = s.twEnded ++ (s.port2 p).queue.map (fun q => (q, 2))
      ∧ AtPort p s (s.endQueue p result) := State.endHeads result _ s hp rfl

/-- A fact of a port is noted in the bits of its byte. -/
theorem State.irqTw_bit (s : State) {i : Nat} (hi : i < 32) : bit (s.irqTw i).irq.tw i = true := bit_putBit_same _ hi _

end

/-! ### Controls of a port (R293) -/

/-- TW_CTRLp. -/
def twCtrlReg (p : BitVec 2) : Reg := (regAt (0xB0004 + 0x40 * p.toNat)).get (by revert p; decide +kernel)

theorem twCtrlReg_at : ∀ p, regAt (0xB0004 + 0x40 * p.toNat) = some (twCtrlReg p) := by decide +kernel

theorem twCtrlReg_row : ∀ p, (twCtrlReg p).row = (twCtrlReg 0).row ∧ (twCtrlReg p).i = p.toNat := by decide +kernel

theorem State.twCtrl_content (s : State) : ∀ p, s.content (twCtrlReg p) = 0
  | 0 => rfl
  | 1 => rfl
  | 2 => rfl
  | 3 => rfl

/-- A write of TW_CTRLp resets the port or clears its bus. -/
theorem State.twCtrl_writes {s : State} (hl : s.pm.state.logs = true) (p : BitVec 2) {v : Word} (hv : v = 1 ∨ v = 2) :
    s.writeLive .class1 (0xB0004 + 0x40 * p.toNat) v = if v = 1 then s.twReset p.toNat else s.twClear p.toNat := by
  obtain ⟨hrow, hi⟩ := twCtrlReg_row p
  have hc : s.changes (twCtrlReg p) v = v := by
    unfold State.changes
    rw [s.twCtrl_content, hrow]
    rcases hv with rfl | rfl
    · decide +kernel
    · decide +kernel
  have hm : s.mayWrite .class1 (twCtrlReg p) = 3 := by
    unfold State.mayWrite
    dsimp only
    rw [hrow]
    decide +kernel
  have ho : s.ownRule (twCtrlReg p) v (s.changes (twCtrlReg p) v) = none := by
    unfold State.ownRule
    rw [hrow]
    rfl
  rw [State.writeLive_acts hl (twCtrlReg_at p) (by rw [hrow]; decide +kernel)
    (by rw [hc, hm]; rcases hv with rfl | rfl <;> decide) (by rw [hc]; rcases hv with rfl | rfl <;> decide) ho]
  unfold State.writeContent State.writeAfter
  rw [hrow, hi]
  rcases hv with rfl | rfl <;> rfl

/-! ## Events and controls of a port (R282, R290 to R297) -/

section
variable {s : State} {p : Nat}

theorem execTwBusIdle_case {b : BitVec 2} (ho : s.twOn b.toNat = true) (hb : (s.port2 b.toNat).busy = true)
    (ha : (s.port2 b.toNat).activity = 0 ∨ (s.port2 b.toNat).activity = 4) : execTwBusIdle b s
    = .next (((s.till (s.port2 b.toNat).idleFrom).setTw b.toNat (fun x => { x with busy := false })).pump b.toNat) := by
  unfold execTwBusIdle
  dsimp only
  rw [ho, hb]
  exact if_pos (by rcases ha with h | h <;> rw [h] <;> rfl)

theorem State.till_port2 (s : State) (d q : Nat) : (s.till d).port2 q = s.port2 q := by
  unfold State.port2
  rw [(State.till_only s d).tw_eq]

theorem State.till_twOn (s : State) (d q : Nat) : (s.till d).twOn q = s.twOn q :=
  twOn_congr (fun a => (State.till_only s d).cfgAt_eq a) (State.till_only s d).pm_eq q

/-- The bus of a port is idle at last, and the port takes its next work. -/
theorem busIdle_takes {u : State} (hp : p < u.tw.length) (ho : u.twOn p = true) (hc : (u.port2 p).clearPending = false) :
    let t := (u.setTw p (fun x => { x with busy := false })).pump p
    ((u.port2 p).queue = [] → (t.port2 p).activity = 0 ∧ (t.port2 p).busy = false)
      ∧ (∀ q rest, (u.port2 p).queue = q :: rest → (t.port2 p).activity = 1 ∧ (t.port2 p).busy = true
          ∧ (t.port2 p).lastAddr = BitVec.ofNat 7 (fld (u.pmbus q.rail) 6 0)
          ∧ (t.port2 p).sent = u.txBytes q.rail q.level ((u.pmbCodes q.rail q.level).getD q.done 0))
      ∧ (t.port2 p).queue = (u.port2 p).queue := by
  intro t
  have hv : AtPort p u (u.setTw p (fun x => { x with busy := false })) := .setTw _
  have hw := State.setTw_same (fun x => { x with busy := false }) hp
  have hl : p < (u.setTw p (fun x => { x with busy := false })).tw.length := hv.length ▸ hp
  refine ⟨fun hq => ?_, fun q rest hq => ?_, ?_⟩
  · have ht : t = _ := State.pump_empty (s := u.setTw p _) ho (by rw [hw]; exact hc) (by rw [hw]; exact hq)
    rw [ht, State.setTw_same _ hl, hw]
    exact ⟨rfl, rfl⟩
  · have ht : t = _ := State.pump_starts (s := u.setTw p _) ho (by rw [hw]; exact hc) (q := q) (rest := rest) (by rw [hw]; exact hq)
      (by rw [hw])
    rw [ht]
    unfold State.startTx
    rw [State.setTw_same _ hl]
    exact ⟨rfl, rfl, rfl, rfl⟩
  · have hx := State.pump_port hl
    rw [hw] at hx
    exact (congrArg TwPort.queue hx : _)

/-- SCL has been low for too long: every sequence ends, and the port waits for SCL. -/
theorem execSclTimeout_case {b : BitVec 2} (ho : s.twBusy b.toNat = true) (ha : (s.port2 b.toNat).activity ≠ 5) : execSclTimeout b s
    = .next (((s.endQueue b.toNat 4).setTw b.toNat (fun x => { x with
        badCount := if x.activity = 2 then inc 255 x.badCount else x.badCount
        timeouts := inc 255 x.timeouts, activity := 5, busy := true, retries := 0 })).irqTw (8 * b.toNat + 1)) := by
  unfold execSclTimeout
  dsimp only
  rw [ho]
  rw [Bool.true_and]
  exact if_pos (bne_iff_ne.2 ha)

theorem execSdaStuck_case {b : BitVec 2} (ho : s.twOn b.toNat = true)
    (ha : (s.port2 b.toNat).activity = 0 ∨ (s.port2 b.toNat).activity = 4) :
    execSdaStuck b s = .next ((s.setTw b.toNat TwPort.clear).irqTw (8 * b.toNat + 2)) := by
  unfold execSdaStuck
  dsimp only
  rw [ho, if_pos ha]
  exact if_pos (by rcases ha with h | h <;> rw [h] <;> rfl)

theorem execBusClearEnd_case {b : BitVec 2} (ho : s.twOn b.toNat = true) (ha : (s.port2 b.toNat).activity = 3) (stop : Bool) :
    execBusClearEnd b stop s = .next (if stop then s.busyPump b.toNat (tBuf (s.twCfg b.toNat))
      else ((s.irqTw (8 * b.toNat + 3)).endHead b.toNat 6 2).busyPump b.toNat noStopTicks) := by
  unfold execBusClearEnd
  dsimp only
  rw [ho, ha]
  cases stop <;> rfl

theorem execTwRequestAnswerEnd_good {b : BitVec 2} {addr : BitVec 7} (ho : s.twOn b.toNat = true) (ha : (s.port2 b.toNat).activity = 2)
    (hl : 0x08 ≤ addr.toNat) (hh : addr.toNat ≤ 0x77) : execTwRequestAnswerEnd b addr false s
    = .next (((s.setTw b.toNat (fun x => { x with
        reqAddr := addr, reqCount := x.reqCount + 1, sampled := addressBits addr, acked := true })).irqTw (8 * b.toNat)).busyPump b.toNat
          (tBuf (s.port2 b.toNat).cfg)) := by
  have hr : requestOk addr = true := by unfold requestOk; simp [hl, hh]
  unfold execTwRequestAnswerEnd
  dsimp only
  rw [ho, ha, hr]
  rfl

theorem execTwRequestAnswerEnd_bad {b : BitVec 2} {addr : BitVec 7} {abandoned : Bool} (ho : s.twOn b.toNat = true)
    (ha : (s.port2 b.toNat).activity = 2) (hr : abandoned = true ∨ addr.toNat < 0x08 ∨ 0x77 < addr.toNat) :
    execTwRequestAnswerEnd b addr abandoned s = .next ((s.setTw b.toNat (fun x => { x with
        badCount := inc 255 x.badCount, sampled := if abandoned then [] else addressBits addr })).busyPump b.toNat
          (tBuf (s.port2 b.toNat).cfg)) := by
  have hr : (!abandoned && requestOk addr) = false := by
    unfold requestOk
    rcases hr with h | h | h
    · rw [h]; rfl
    · rw [decide_eq_false (by omega), Bool.false_and, Bool.and_false]
    · rw [decide_eq_false (p := addr.toNat ≤ 0x77) (by omega), Bool.and_false, Bool.and_false]
  unfold execTwRequestAnswerEnd
  dsimp only
  rw [ho, ha, hr]
  rfl

/-- A reset ends the sequences of a port, which then clears its bus, or, disabled, releases its pins. -/
theorem State.twReset_port (hp : p < s.tw.length) :
    (s.twReset p).port2 p = { s.port2 p with
        queue := []
        lastResult := if (s.port2 p).activity = 1 ∨ (s.port2 p).queue ≠ [] then 7 else (s.port2 p).lastResult
        retries := 0
        activity := if s.twOn p then 3 else 0
        busy := s.twOn p
        clearPending := false }
      ∧ (s.twReset p).twEnded = s.twEnded ++ (s.port2 p).queue.map (fun q => (q, 2)) ∧ AtPort p s (s.twReset p) := by
  obtain ⟨hx, he, ha⟩ := State.endQueue_port hp 7
  have ho : (s.endQueue p 7).twOn p = s.twOn p :=
    twOn_congr (fun a => (State.endQueue_only s p 7).cfgAt_eq a) (State.endQueue_only s p 7).pm_eq p
  unfold State.twReset
  generalize s.endQueue p 7 = u at hx he ha ho ⊢
  have hl : p < u.tw.length := ha.length ▸ hp
  dsimp only
  rw [State.setTw_twOn, ho]
  have hw := State.setTw_same (s := u) (fun x => { x with lastResult := if x.activity = 1 then 7 else x.lastResult, retries := 0 }) hl
  have hv : AtPort p u (u.setTw p (fun x => { x with lastResult := if x.activity = 1 then 7 else x.lastResult, retries := 0 })) := .setTw _
  have hr : (if (u.port2 p).activity = 1 then 7 else (u.port2 p).lastResult)
      = if (s.port2 p).activity = 1 ∨ (s.port2 p).queue ≠ [] then 7 else (s.port2 p).lastResult := by
    rw [hx]
    dsimp only
    by_cases h1 : (s.port2 p).activity = 1
    · rw [if_pos h1, if_pos (.inl h1)]
    · by_cases h2 : (s.port2 p).queue = []
      · rw [if_neg h1, if_pos h2, if_neg (not_or.2 ⟨h1, fun h => h h2⟩)]
      · rw [if_neg h1, if_neg h2, if_pos (.inr h2)]
  have he' : (u.setTw p (fun x => { x with lastResult := if x.activity = 1 then 7 else x.lastResult, retries := 0 })).twEnded
    = s.twEnded ++ (s.port2 p).queue.map (fun q => (q, 2)) := he
  generalize u.setTw p (fun x => { x with lastResult := if x.activity = 1 then 7 else x.lastResult, retries := 0 }) = v at hw hv he' ⊢
  have hlv : p < v.tw.length := hv.length ▸ hl
  rw [hr, hx] at hw
  split
  case isTrue hon =>
    refine ⟨?_, he', ha.trans (hv.trans (.setTw _))⟩
    rw [State.setTw_same _ hlv, hw, show s.twOn p = true from hon]
    unfold TwPort.clear
    dsimp only
  case isFalse hoff =>
    refine ⟨?_, he', ha.trans (hv.trans (.setTw _))⟩
    rw [State.setTw_same _ hlv, hw, Bool.eq_false_iff.2 hoff]

/-! ### What each row answers -/

section
variable {b : BitVec 2}

theorem twBusIdle_answers (hu : s.unitsOk = true) (ho : s.twOn b.toNat = true) (hb : (s.port2 b.toNat).busy = true)
    (ha : (s.port2 b.toNat).activity = 0 ∨ (s.port2 b.toNat).activity = 4) (hc : (s.port2 b.toNat).clearPending = false) :
    Answers (.twBusIdle b) s fun t =>
      t.clk.now = max s.clk.now (s.port2 b.toNat).idleFrom
        ∧ ((s.port2 b.toNat).queue = [] → (t.port2 b.toNat).activity = 0 ∧ (t.port2 b.toNat).busy = false)
        ∧ (∀ q rest, (s.port2 b.toNat).queue = q :: rest → (t.port2 b.toNat).activity = 1 ∧ (t.port2 b.toNat).busy = true
            ∧ (t.port2 b.toNat).lastAddr = BitVec.ofNat 7 (fld (s.pmbus q.rail) 6 0)
            ∧ (t.port2 b.toNat).sent = s.txBytes q.rail q.level ((s.pmbCodes q.rail q.level).getD q.done 0))
        ∧ (t.port2 b.toNat).queue = (s.port2 b.toNat).queue ∧ OtherPorts b s t ∧ Only [.clk, .tw] s t := by
  refine Answers.of_exec (execTwBusIdle_case ho hb ha) ?_
  have hl := unitsOk_tw hu
  have hcl := State.till_clock (s := s) (s.port2 b.toNat).idleFrom
  have hon := State.till_only s (s.port2 b.toNat).idleFrom
  have hp := State.till_port2 s (s.port2 b.toNat).idleFrom
  have ht := State.till_twOn s (s.port2 b.toNat).idleFrom b.toNat
  generalize s.till (s.port2 b.toNat).idleFrom = u at hcl hon hp ht ⊢
  have hbus : ∀ n, u.pmbus n = s.pmbus n := fun n => hon.cfgAt_eq _
  have hcodes : ∀ n l, u.pmbCodes n l = s.pmbCodes n l := fun n l => by unfold State.pmbCodes; rw [hbus]
  have htx : ∀ n l c, u.txBytes n l c = s.txBytes n l c := fun n l c => by
    unfold State.txBytes State.pmbData
    rw [hbus, hon.cfgAt_eq]
  obtain ⟨h1, h2, h3⟩ := busIdle_takes (u := u) (p := b.toNat) (by rw [hon.tw_eq, hl]; exact b.isLt) (by rw [ht]; exact ho)
    (by rw [hp]; exact hc)
  simp only [hp, hbus, hcodes, htx] at h1 h2 h3
  have ho2 : Only [.tw] u ((u.setTw b.toNat (fun x => { x with busy := false })).pump b.toNat) :=
    (State.setTw_only _ _ _).trans (State.pump_only _ _)
  exact ⟨(congrArg Clk.now ho2.clk_eq).trans hcl, h1, h2, h3,
    fun q hq => ((AtPort.setTw (s := u) _).trans (State.pump_atPort _ _) |>.other q hq).trans (hp q), (hon.mono rfl).trans (ho2.mono rfl)⟩

theorem sclTimeout_answers (hu : s.unitsOk = true) (ho : s.twBusy b.toNat = true) (ha : (s.port2 b.toNat).activity ≠ 5) :
    Answers (.sclTimeout b) s fun t =>
      (t.port2 b.toNat).activity = 5 ∧ (t.port2 b.toNat).busy = true
        ∧ (t.port2 b.toNat).timeouts = inc 255 (s.port2 b.toNat).timeouts
        ∧ ((s.port2 b.toNat).queue ≠ [] → (t.port2 b.toNat).lastResult = 4) ∧ QueueEnded b s t
        ∧ bit t.irq.tw (8 * b.toNat + 1) = true ∧ OtherPorts b s t ∧ Only [.tw, .twEnded, .irq] s t := by
  refine Answers.of_exec (execSclTimeout_case ho ha) ?_
  have hl := unitsOk_tw hu
  have hb := b.isLt
  obtain ⟨hx, he, hat⟩ := State.endQueue_port (s := s) (p := b.toNat) (by omega) 4
  have hq := State.endQueue_only s b.toNat 4
  generalize s.endQueue b.toNat 4 = u at hx he hat hq ⊢
  have hw := State.setTw_same (s := u) (p := b.toNat) (fun x => { x with
        badCount := if x.activity = 2 then inc 255 x.badCount else x.badCount
        timeouts := inc 255 x.timeouts, activity := 5, busy := true, retries := 0 }) (by rw [hat.length]; omega)
  rw [hx] at hw
  have hf {α : Type} (f : TwPort → α) := congrArg f hw
  refine ⟨hf TwPort.activity, hf TwPort.busy, hf TwPort.timeouts, fun hn => (hf TwPort.lastResult).trans (if_neg hn),
    ⟨hf TwPort.queue, he⟩, State.irqTw_bit _ (by omega), (hat.trans (.setTw _)).others, ?_⟩
  exact (hq.trans ((State.setTw_only _ _ _).mono rfl)).mono rfl |>.trans ((State.irqTw_only _ _).mono rfl)

theorem busClearFails_answers (hu : s.unitsOk = true) (ho : s.twOn b.toNat = true) (ha : (s.port2 b.toNat).activity = 3) :
    Answers (.busClearEnd b false) s fun t =>
      ((s.port2 b.toNat).queue = [] → (t.port2 b.toNat).queue = [] ∧ t.twEnded = s.twEnded ∧ Only [.tw, .irq] s t)
        ∧ (∀ q rest, (s.port2 b.toNat).queue = q :: rest → (t.port2 b.toNat).queue = rest ∧ t.twEnded = s.twEnded ++ [(q, 2)]
            ∧ (t.port2 b.toNat).lastResult = 6)
        ∧ bit t.irq.tw (8 * b.toNat + 3) = true ∧ OtherPorts b s t ∧ Only [.tw, .twEnded, .irq] s t := by
  refine Answers.of_exec (execBusClearEnd_case ho ha false) ?_
  have hl := unitsOk_tw hu
  have hb := b.isLt
  have hi := State.irqTw_only s (8 * b.toNat + 3)
  have hbit := State.irqTw_bit s (i := 8 * b.toNat + 3) (by omega)
  have hp : ∀ q, (s.irqTw (8 * b.toNat + 3)).port2 q = s.port2 q := fun q => rfl
  simp only [Bool.false_eq_true, if_false]
  generalize s.irqTw (8 * b.toNat + 3) = u at hi hbit hp ⊢
  have hlu : u.tw.length = 4 := by rw [hi.tw_eq]; exact hl
  have he := State.endHead_only u b.toNat 6 2
  have hat := State.endHead_atPort u b.toNat 6 2
  have hpl : b.toNat < (u.endHead b.toNat 6 2).tw.length := by rw [hat.length]; omega
  have hx := State.busyPump_port hpl noStopTicks
  have hb2 := State.busyPump_only (u.endHead b.toNat 6 2) b.toNat noStopTicks
  refine ⟨fun hq => ?_, fun q rest hq => ?_, ?_, ?_, ?_⟩
  · rw [State.endHead_none (by rw [hp]; exact hq)] at hx hb2 ⊢
    exact ⟨(congrArg TwPort.queue hx).trans ((congrArg TwPort.queue (hp _)).trans hq), hb2.twEnded_eq.trans hi.twEnded_eq,
      (hi.mono rfl).trans (hb2.mono rfl)⟩
  · obtain ⟨hy, hz⟩ := State.endHead_port (s := u) (p := b.toNat) (by omega) (by rw [hp]; exact hq) 6 2
    rw [hy] at hx
    exact ⟨(congrArg TwPort.queue hx : _), hb2.twEnded_eq.trans (hz.trans (by rw [hi.twEnded_eq])), (congrArg TwPort.lastResult hx : _)⟩
  · rw [hb2.irq_eq, he.irq_eq]
    exact hbit
  · exact fun q hq => ((hat.trans (State.busyPump_atPort _ _ _)).other q hq).trans (hp q)
  · exact (hi.mono rfl).trans ((he.mono rfl).trans (hb2.mono rfl))

theorem requestAnswered_answers {addr : BitVec 7} (hu : s.unitsOk = true) (ho : s.twOn b.toNat = true)
    (ha : (s.port2 b.toNat).activity = 2) (hlo : 0x08 ≤ addr.toNat) (hhi : addr.toNat ≤ 0x77) :
    Answers (.twRequestAnswerEnd b addr false) s fun t =>
      (t.port2 b.toNat).reqAddr = addr ∧ (t.port2 b.toNat).sampled = addressBits addr ∧ (t.port2 b.toNat).acked = true
        ∧ (t.port2 b.toNat).idleFrom = s.clk.now + tBuf (s.port2 b.toNat).cfg
        ∧ (t.port2 b.toNat).reqCount = (s.port2 b.toNat).reqCount + 1
        ∧ (t.port2 b.toNat).badCount = (s.port2 b.toNat).badCount ∧ bit t.irq.tw (8 * b.toNat) = true
        ∧ (t.port2 b.toNat).queue = (s.port2 b.toNat).queue ∧ OtherPorts b s t ∧ Only [.tw, .irq] s t := by
  refine Answers.of_exec (execTwRequestAnswerEnd_good ho ha hlo hhi) ?_
  have hl := unitsOk_tw hu
  have hb := b.isLt
  generalize tBuf (s.port2 b.toNat).cfg = d
  have hw := State.setTw_same (s := s) (p := b.toNat)
    (fun x => { x with reqAddr := addr, reqCount := x.reqCount + 1, sampled := addressBits addr, acked := true }) (by omega)
  have hat : AtPort b.toNat s (s.setTw b.toNat
    (fun x => { x with reqAddr := addr, reqCount := x.reqCount + 1, sampled := addressBits addr, acked := true })) := .setTw _
  have hon := State.setTw_only s b.toNat
    (fun x => { x with reqAddr := addr, reqCount := x.reqCount + 1, sampled := addressBits addr, acked := true })
  generalize s.setTw b.toNat _ = u at hw hat hon ⊢
  have hi := State.irqTw_only u (8 * b.toNat)
  have hbit := State.irqTw_bit u (i := 8 * b.toNat) (by omega)
  have hp : ∀ q, (u.irqTw (8 * b.toNat)).port2 q = u.port2 q := fun q => rfl
  generalize u.irqTw (8 * b.toNat) = v at hi hbit hp ⊢
  have hb2 := State.busyPump_only v b.toNat d
  have hx := State.busyPump_port (s := v) (p := b.toNat) (by rw [hi.tw_eq, hat.length]; omega) d
  rw [hp, hw, hi.clk_eq, hon.clk_eq] at hx
  have hf {α : Type} (f : TwPort → α) := congrArg f hx
  refine ⟨hf TwPort.reqAddr, hf TwPort.sampled, hf TwPort.acked, hf TwPort.idleFrom, hf TwPort.reqCount, hf TwPort.badCount, ?_,
    hf TwPort.queue, ?_, ?_⟩
  · rw [hb2.irq_eq]
    exact hbit
  · exact fun q hq => ((State.busyPump_atPort v b.toNat d).other q hq).trans ((hp q).trans (hat.other q hq))
  · exact (hon.mono rfl).trans ((hi.mono rfl).trans (hb2.mono rfl))

theorem requestRejected_answers {addr : BitVec 7} {abandoned : Bool} (hu : s.unitsOk = true) (ho : s.twOn b.toNat = true)
    (ha : (s.port2 b.toNat).activity = 2) (hr : abandoned = true ∨ addr.toNat < 0x08 ∨ 0x77 < addr.toNat) :
    Answers (.twRequestAnswerEnd b addr abandoned) s fun t =>
      (t.port2 b.toNat).badCount = inc 255 (s.port2 b.toNat).badCount ∧ (t.port2 b.toNat).reqAddr = (s.port2 b.toNat).reqAddr
        ∧ (t.port2 b.toNat).reqCount = (s.port2 b.toNat).reqCount ∧ (t.port2 b.toNat).queue = (s.port2 b.toNat).queue
        ∧ (t.port2 b.toNat).acked = (s.port2 b.toNat).acked ∧ (t.port2 b.toNat).idleFrom = s.clk.now + tBuf (s.port2 b.toNat).cfg
        ∧ OtherPorts b s t ∧ Only [.tw] s t := by
  refine Answers.of_exec (execTwRequestAnswerEnd_bad ho ha hr) ?_
  have hl := unitsOk_tw hu
  have hb := b.isLt
  generalize tBuf (s.port2 b.toNat).cfg = d
  have hw := State.setTw_same (s := s) (p := b.toNat)
    (fun x => { x with badCount := inc 255 x.badCount, sampled := if abandoned then [] else addressBits addr }) (by omega)
  have hat : AtPort b.toNat s (s.setTw b.toNat
    (fun x => { x with badCount := inc 255 x.badCount, sampled := if abandoned then [] else addressBits addr })) := .setTw _
  have hon := State.setTw_only s b.toNat
    (fun x => { x with badCount := inc 255 x.badCount, sampled := if abandoned then [] else addressBits addr })
  generalize s.setTw b.toNat _ = u at hw hat hon ⊢
  have hb2 := State.busyPump_only u b.toNat d
  have hx := State.busyPump_port (s := u) (p := b.toNat) (by rw [hat.length]; omega) d
  rw [hw, hon.clk_eq] at hx
  have hf {α : Type} (f : TwPort → α) := congrArg f hx
  exact ⟨hf TwPort.badCount, hf TwPort.reqAddr, hf TwPort.reqCount, hf TwPort.queue, hf TwPort.acked, hf TwPort.idleFrom,
    (hat.trans (State.busyPump_atPort u b.toNat d)).others, hon.trans hb2⟩

theorem twPortReset_answers (hu : s.unitsOk = true) (hs : s.pm.state.logs = true) :
    Answers (.twPortReset b) s fun t =>
      QueueEnded b s t ∧ (t.port2 b.toNat).retries = 0
        ∧ (s.twOn b.toNat = true → (t.port2 b.toNat).activity = 3 ∧ (t.port2 b.toNat).busy = true
            ∧ (t.port2 b.toNat).clearPending = false)
        ∧ (s.twOn b.toNat = false → (t.port2 b.toNat).activity = 0 ∧ (t.port2 b.toNat).busy = false
            ∧ (t.port2 b.toNat).clearPending = false)
        ∧ ((s.port2 b.toNat).activity = 1 ∨ (s.port2 b.toNat).queue ≠ [] → (t.port2 b.toNat).lastResult = 7)
        ∧ OtherPorts b s t ∧ Only [.tw, .twEnded] s t := by
  refine Answers.of_exec (t := s.twReset b.toNat)
    (congrArg Host.Outcome.next ((State.twCtrl_writes hs b (.inl rfl)).trans (if_pos rfl))) ?_
  have hl := unitsOk_tw hu
  have hb := b.isLt
  obtain ⟨hx, he, ha⟩ := State.twReset_port (s := s) (p := b.toNat) (by omega)
  have hf {α : Type} (f : TwPort → α) := congrArg f hx
  exact ⟨⟨hf TwPort.queue, he⟩, hf TwPort.retries, fun ho => ⟨(hf TwPort.activity).trans (if_pos ho), (hf TwPort.busy).trans ho,
    hf TwPort.clearPending⟩, fun ho => ⟨(hf TwPort.activity).trans (if_neg (by rw [ho]; exact Bool.false_ne_true)),
      (hf TwPort.busy).trans ho, hf TwPort.clearPending⟩, fun h => (hf TwPort.lastResult).trans (if_pos h), ha.others,
    State.twReset_only _ _⟩

theorem twBusClear_answers (hu : s.unitsOk = true) (hs : s.pm.state.logs = true) (ho : s.twOn b.toNat = true) :
    Answers (.twBusClear b) s fun t =>
      t.port2 b.toNat = (if (s.port2 b.toNat).activity = 0 ∨ (s.port2 b.toNat).activity = 4
          then { s.port2 b.toNat with activity := 3, busy := true, clearPending := false }
          else { s.port2 b.toNat with clearPending := true })
        ∧ OtherPorts b s t ∧ Only [.tw] s t := by
  refine Answers.of_exec (t := s.twClear b.toNat)
    (congrArg Host.Outcome.next ((State.twCtrl_writes hs b (.inr rfl)).trans (if_neg (by decide)))) ?_
  have hl := unitsOk_tw hu
  have hb := b.isLt
  refine ⟨?_, ?_, State.twClear_only _ _⟩
  · unfold State.twClear
    dsimp only
    rw [ho, Bool.not_true, if_neg Bool.false_ne_true]
    split
    · exact State.setTw_same _ (by omega)
    · exact State.setTw_same _ (by omega)
  · unfold State.twClear
    dsimp only
    rw [ho, Bool.not_true, if_neg Bool.false_ne_true]
    split
    · exact (AtPort.setTw _).others
    · exact (AtPort.setTw _).others

end

end

/-- Settles O24, by what ending a queue and taking the next work leave of a port. -/
theorem twBusAndRequests : Obligations.TwBusAndRequests := by
  unfold Obligations.TwBusAndRequests
  refine ⟨fun p s => twBusIdle_answers, fun p s => sclTimeout_answers, fun p s hu ho ha => ?_, fun p s ha => ?_, fun p s ha => ?_,
    fun p s hu ho ha hc => ?_, fun p stop s ha => ?_, fun p s hu ho ha hq => ?_, fun p q rest s hu ho ha hq => ?_,
    fun p s hu hn ha hb => ?_, fun p s hu hn ha => ?_, fun p addr s => requestAnswered_answers,
    fun p addr abandoned s => requestRejected_answers, fun p s => twPortReset_answers, fun p s => twBusClear_answers⟩
  · have hl := unitsOk_tw hu
    have hb := p.isLt
    exact Answers.of_exec (execSdaStuck_case ho ha) ⟨State.setTw_same _ (by omega), State.irqTw_bit _ (by omega), (AtPort.setTw _).others,
      ((State.setTw_only _ _ _).mono rfl).trans ((State.irqTw_only _ _).mono rfl)⟩
  · refine Answers.of_exec (t := s) ?_ rfl
    unfold exec execSclTimeout
    dsimp only
    rw [ha]
    exact if_neg (by simp)
  · refine Answers.of_exec (t := s) ?_ rfl
    unfold exec execSdaStuck
    dsimp only
    exact if_neg (by rcases ha with h | h <;> rw [h] <;> simp)
  · have hl := unitsOk_tw hu
    have hb := p.isLt
    exact Answers.of_exec (execBusClearEnd_case ho ha true)
      ⟨State.busyPump_waits (by omega) _ ho hc, (State.busyPump_atPort s p.toNat _).others, State.busyPump_only _ _ _⟩
  · refine Answers.of_exec (t := s) ?_ rfl
    unfold exec execBusClearEnd
    dsimp only
    exact if_neg (fun h => ha (beq_iff_eq.1 (Bool.and_eq_true _ _ ▸ h).2))
  · obtain ⟨t, he0, h1, -, h3, h4, -⟩ := busClearFails_answers hu ho ha
    obtain ⟨ht, he, hx⟩ := h1 hq
    exact ⟨t, he0, ht, he, h3, h4, hx⟩
  · obtain ⟨t, he0, -, h2, h3, h4, hx⟩ := busClearFails_answers hu ho ha
    obtain ⟨ht, he, hr⟩ := h2 q rest hq
    exact ⟨t, he0, ht, he, hr, h3, h4, hx⟩
  · have hl := unitsOk_tw hu
    have hp := p.isLt
    refine Answers.of_exec (t := s.beginAnswer p.toNat) ?_ ⟨State.setTw_same _ (by omega), (AtPort.setTw _).others, State.setTw_only _ _ _⟩
    unfold exec execTwRequest
    dsimp only
    rw [hn, ha, hb]
    rfl
  · have hl := unitsOk_tw hu
    have hp := p.isLt
    refine Answers.of_exec (t := (s.till ((s.port2 p.toNat).idleFrom + requestTicks)).beginAnswer p.toNat) ?_ ?_
    · unfold exec execTwRequest
      dsimp only
      rw [hn, ha]
      rfl
    · have hcl := State.till_clock (s := s) ((s.port2 p.toNat).idleFrom + requestTicks)
      have hon := State.till_only s ((s.port2 p.toNat).idleFrom + requestTicks)
      have hpt := State.till_port2 s ((s.port2 p.toNat).idleFrom + requestTicks)
      generalize s.till ((s.port2 p.toNat).idleFrom + requestTicks) = u at hcl hon hpt ⊢
      have hcfg : u.twCfg p.toNat = s.twCfg p.toNat := hon.cfgAt_eq _
      refine ⟨hcl, ?_, fun q hq => ((AtPort.setTw _).other q hq).trans (hpt q), (hon.mono rfl).trans ((State.setTw_only _ _ _).mono rfl)⟩
      rw [← hpt, ← hcfg]
      exact State.setTw_same _ (by rw [hon.tw_eq]; omega)

end Sys2Proof.Machine
end

section
/-! SUPPORT. Trim outputs and the sweep's ends (O25). -/

set_option Elab.async false

namespace Sys2Proof.Machine

/-! ## Trim outputs (R156 to R160) -/

section
variable {s t : State} {n : Nat}

/-- A state in which only the clocks have gone on. -/
theorem Only.clk_upd (h : Only [.clk] s t) : t = { s with clk := t.clk } := by
  cases s
  cases t
  simp only [State.mk.injEq]
  exact ⟨h.ident_eq, trivial, h.pm_eq, h.out_eq, h.inp_eq, h.ctl_eq, h.sense_eq, h.kiln_eq, h.walk_eq, h.fault_eq, h.irq_eq, h.mg_eq, h.log_eq,
    h.cfg_eq, h.cfgLoaded_eq, h.sgLoaded_eq, h.port_eq, h.sec_eq, h.ring_eq, h.twin_eq, h.tw_eq, h.twEnded_eq, h.pwm_eq, h.frozen_eq,
    h.jtag_eq, h.free_eq, h.pending_eq⟩

theorem tablesOk_trims (h : s.tablesOk = true) : Tab.wf s.mg.trims = true := by
  simp only [State.tablesOk, Bool.and_eq_true] at h
  tauto

/-- What is done to the trim of rail n leaves the others, the calibration and the sweep's own record. -/
structure AtTrim (n : Nat) (s t : State) : Prop where
  only : Only [.mg] s t
  mg : t.mg = { s.mg with trims := t.mg.trims }
  wf : Tab.wf s.mg.trims = true → Tab.wf t.mg.trims = true
  other : Tab.wf s.mg.trims = true → ∀ m, m ≠ n → t.trim m = s.trim m

namespace AtTrim

theorem refl : AtTrim n s s := ⟨Only.refl _ _, rfl, id, fun _ _ _ => rfl⟩

theorem trans {u : State} (h : AtTrim n s t) (k : AtTrim n t u) : AtTrim n s u :=
  ⟨h.only.trans k.only, k.mg.trans (by rw [h.mg]), fun hw => k.wf (h.wf hw),
    fun hw m hm => (k.other (h.wf hw) m hm).trans (h.other hw m hm)⟩

theorem sweep (h : AtTrim n s t) : t.mg.sweep = s.mg.sweep := by rw [h.mg]

end AtTrim

theorem State.setTrim_trim (hw : Tab.wf s.mg.trims = true) (x : Trim) (m : Nat) :
    (s.setTrim n x).trim m = if n = m then x else s.trim m := Tab.getD_put _ _ _ _ _ hw

theorem State.setTrim_atTrim (s : State) (n : Nat) (x : Trim) : AtTrim n s (s.setTrim n x) :=
  ⟨State.setTrim_only _ _ _, rfl, fun hw => Tab.wf_put hw _ _ _,
    fun hw m hm => (State.setTrim_trim hw x m).trans (if_neg (Ne.symm hm))⟩

theorem State.applyTrim_atTrim (s : State) (n level : Nat) (code : Int) : AtTrim n s (s.applyTrim n level code) := by
  unfold State.applyTrim
  split
  · exact .refl
  · exact State.setTrim_atTrim _ _ _

/-- A code applied below test is clamped by the safe band. -/
theorem State.applyTrim_trimmed (hw : Tab.wf s.mg.trims = true) {level : Nat} (hl : level ≠ 5) (code : Int) :
    Trimmed n level code s (s.applyTrim n level code) := by
  refine ⟨?_, (s.applyTrim_atTrim n level code).other hw⟩
  unfold State.applyTrim
  split
  · rfl
  · dsimp only
    exact (State.setTrim_trim hw _ _).trans (if_pos rfl)

end

/-! ## The sweep's ends (R165, R169) -/

section
variable {s : State} {n result : Nat}

/-- The end of a cycle touches two fields of the sweep. -/
theorem State.finishCycle_mg (s : State) : s.finishCycle.mg = { s.mg with sweep := { s.mg.sweep with
    active := s.finishCycle.mg.sweep.active, cycles := s.finishCycle.mg.sweep.cycles } } := by
  unfold State.finishCycle
  split <;> rfl

theorem State.finishCycle_trim (s : State) (m : Nat) : s.finishCycle.trim m = s.trim m := by
  unfold State.trim
  rw [s.finishCycle_mg]

/-- The consideration of rail n has ended with a result. -/
structure RailEnded (n result : Nat) (s t : State) : Prop where
  rail : t.mg.sweep.rail = none
  lastRail : t.mg.sweep.lastRail = n
  todo : t.mg.sweep.todo = n + 1
  active : t.mg.sweep.active = s.mg.sweep.active
  kept : MarginKept n s t
  lastResult : (t.trim n).lastResult = BitVec.ofNat 4 result
  aborts : (t.trim n).aborts = if result = 1 then (s.trim n).aborts else inc 255 (s.trim n).aborts
  sweeps : (t.trim n).sweeps = ((s.trim n).sweeps + 1) % 65536
  unswept : s.mg.sweep.rail ≠ some n → (t.trim n).code = (s.trim n).code ∧ (t.trim n).level = (s.trim n).level
  nominal : s.mg.sweep.rail = some n → s.trimWithheld n = false →
    (t.trim n).level = 0 ∧ (t.trim n).code = BitVec.ofInt 12 (s.clampCode n (s.nominal n))
  only : Only [.mg, .log, .free] s t

/-- A rail that was swept goes back to its nominal code, and its counts stay. -/
theorem State.trimNominal_trim (hw : Tab.wf s.mg.trims = true) :
    ((s.trimNominal n).trim n).aborts = (s.trim n).aborts ∧ ((s.trimNominal n).trim n).sweeps = (s.trim n).sweeps
      ∧ (s.trimWithheld n = false → ((s.trimNominal n).trim n).level = 0
          ∧ ((s.trimNominal n).trim n).code = BitVec.ofInt 12 (s.clampCode n (s.nominal n))) := by
  obtain ⟨h, -⟩ := State.applyTrim_trimmed (n := n) hw (level := 0) (by decide) (s.nominal n)
  unfold State.trimNominal
  rw [h]
  refine ⟨?_, ?_, fun hh => ?_⟩
  · split <;> rfl
  · split <;> rfl
  · rw [hh]
    exact ⟨rfl, rfl⟩

theorem State.endRail_ended (hw : Tab.wf s.mg.trims = true) (n result : Nat) : RailEnded n result s (s.endRail n result) := by
  have h1 : AtTrim n s (s.setTrim n { s.trim n with sweeps := ((s.trim n).sweeps + 1) % 65536 }) := State.setTrim_atTrim _ _ _
  have e1 := State.setTrim_trim (n := n) hw { s.trim n with sweeps := ((s.trim n).sweeps + 1) % 65536 } n
  rw [if_pos rfl] at e1
  unfold State.endRail
  dsimp only
  generalize s.setTrim n { s.trim n with sweeps := ((s.trim n).sweeps + 1) % 65536 } = u1 at h1 e1 ⊢
  have h2 := State.trendShard_only u1 n result
  have m2 : (u1.trendShard n result).mg = u1.mg := rfl
  generalize u1.trendShard n result = u2 at h2 m2 ⊢
  have w2 : Tab.wf u2.mg.trims = true := by rw [m2]; exact h1.wf hw
  have e2 : u2.trim n = { s.trim n with sweeps := ((s.trim n).sweeps + 1) % 65536 } := by
    rw [← e1]
    unfold State.trim
    rw [m2]
  have hs2 : u2.mg.sweep = s.mg.sweep := by rw [m2]; exact h1.sweep
  have hc2 : ∀ a, u2.cfgAt a = s.cfgAt a := fun a => (h2.cfgAt_eq a).trans (h1.only.cfgAt_eq a)
  have hi2 : u2.inp = s.inp := h2.inp_eq.trans h1.only.inp_eq
  have he : u2.nominal n = s.nominal n ∧ u2.clampCode n (u2.nominal n) = s.clampCode n (s.nominal n)
      ∧ u2.trimWithheld n = s.trimWithheld n := by
    unfold State.clampCode State.bandLo State.bandHi State.nominal State.trimWithheld
    simp only [hc2, hi2]
    exact ⟨trivial, trivial, trivial⟩
  obtain ⟨hn2, hk2, ht2⟩ := he
  obtain ⟨na, ns, nn⟩ := State.trimNominal_trim (s := u2) (n := n) w2
  have h3 : AtTrim n u2 (if (u2.mg.sweep.rail == some n) = true then u2.trimNominal n else u2) := by
    split
    · exact State.applyTrim_atTrim _ _ _ _
    · exact .refl
  have a3 : ((if (u2.mg.sweep.rail == some n) = true then u2.trimNominal n else u2).trim n).aborts = (s.trim n).aborts := by
    split
    · rw [na, e2]
    · rw [e2]
  have s3 : ((if (u2.mg.sweep.rail == some n) = true then u2.trimNominal n else u2).trim n).sweeps = ((s.trim n).sweeps + 1) % 65536 := by
    split
    · rw [ns, e2]
    · rw [e2]
  have k3 : s.mg.sweep.rail ≠ some n → (if (u2.mg.sweep.rail == some n) = true then u2.trimNominal n else u2) = u2 := fun h =>
    if_neg (by rw [hs2]; exact fun hh => h (beq_iff_eq.1 hh))
  have n3 : s.mg.sweep.rail = some n → (if (u2.mg.sweep.rail == some n) = true then u2.trimNominal n else u2) = u2.trimNominal n := fun h =>
    if_pos (by rw [hs2]; exact beq_iff_eq.2 h)
  generalize (if (u2.mg.sweep.rail == some n) = true then u2.trimNominal n else u2) = u3 at h3 a3 s3 k3 n3 ⊢
  have w3 := h3.wf w2
  have h4 := State.setTrim_atTrim u3 n { u3.trim n with
    lastResult := BitVec.ofNat 4 result, aborts := if result = 1 then (u3.trim n).aborts else inc 255 (u3.trim n).aborts }
  have e4 := State.setTrim_trim (n := n) w3 { u3.trim n with
    lastResult := BitVec.ofNat 4 result, aborts := if result = 1 then (u3.trim n).aborts else inc 255 (u3.trim n).aborts } n
  rw [if_pos rfl] at e4
  generalize u3.setTrim n { u3.trim n with
    lastResult := BitVec.ofNat 4 result, aborts := if result = 1 then (u3.trim n).aborts else inc 255 (u3.trim n).aborts } = u4 at h4 e4 ⊢
  have hm : u4.mg = { s.mg with trims := u4.mg.trims } := by rw [h4.mg, h3.mg, m2, h1.mg]
  have hf {α : Type} (f : Trim → α) := congrArg f e4
  refine ⟨rfl, rfl, rfl, by rw [hm], ⟨by rw [hm], by rw [hm], by rw [hm], fun m hn => ?_⟩, hf Trim.lastResult, ?_,
    (hf Trim.sweeps).trans s3, fun h => ?_, fun h hh => ?_, ?_⟩
  · refine (h4.other w3 m hn).trans ((h3.other w2 m hn).trans (Eq.trans ?_ (h1.other hw m hn)))
    unfold State.trim
    rw [m2]
  · rw [← a3]
    exact hf Trim.aborts
  · have hx : u3.trim n = { s.trim n with sweeps := ((s.trim n).sweeps + 1) % 65536 } := (congrArg (State.trim · n) (k3 h)).trans e2
    exact ⟨(hf Trim.code).trans (by rw [hx]), (hf Trim.level).trans (by rw [hx])⟩
  · obtain ⟨hl, hc⟩ := nn (ht2.trans hh)
    rw [← n3 h] at hl hc
    exact ⟨(hf Trim.level).trans hl, (hf Trim.code).trans (hc.trans (by rw [hk2]))⟩
  · exact (h1.only.mono rfl).trans ((h2.mono rfl).trans ((h3.only.mono rfl).trans ((h4.only.mono rfl).trans (Only.refl _ _).mk_upd)))

end

/-! ## What the converters take (R94, R95, R323) -/

section
variable {s t : State}

/-- Converters taking work leave the readings and the comparators, and a conversion that was asked for is still waited for or has begun. -/
structure Assigns (s t : State) : Prop where
  readings : t.sense.readings = s.sense.readings
  cmps : t.sense.cmps = s.sense.cmps
  convs : t.sense.convs.length = s.sense.convs.length
  asked : ∀ i u, Asked i u s → Asked i u t

namespace Assigns

theorem refl : Assigns s s := ⟨rfl, rfl, rfl, fun _ _ => id⟩

theorem trans {u : State} (h : Assigns s t) (k : Assigns t u) : Assigns s u :=
  ⟨k.readings.trans h.readings, k.cmps.trans h.cmps, k.convs.trans h.convs, fun i x hx => k.asked i x (h.asked i x hx)⟩

/-- What leaves the readings, comparators, demands and converters. -/
theorem of_eq (hr : t.sense.readings = s.sense.readings) (hc : t.sense.cmps = s.sense.cmps) (hd : t.sense.demands = s.sense.demands)
    (hv : t.sense.convs = s.sense.convs) : Assigns s t :=
  ⟨hr, hc, by rw [hv], fun i u h => by unfold Asked at h ⊢; rwa [hd, hv]⟩

theorem foldl {α : Type} {f : State → α → State} (hf : ∀ u a, Assigns u (f u a)) : ∀ (l : List α) (s : State), Assigns s (l.foldl f s)
  | [], _ => .refl
  | a :: l, s => (hf s a).trans (foldl hf l (f s a))

end Assigns

/-- A conversion in an idle converter ends no other. -/
theorem mem_modNth_idle {l : List (Option Conv)} {c : Nat} {v : Conv} (x : Option Conv) (hi : (nth l c none).isNone = true)
    (h : some v ∈ l) : some v ∈ modNth l c (fun _ => x) := by
  obtain ⟨j, hj, he⟩ := List.mem_iff_getElem.1 h
  have hne : c ≠ j := fun hc => by
    subst hc
    unfold nth at hi
    rw [List.getElem?_eq_getElem hj, he] at hi
    exact Bool.false_ne_true hi
  refine List.mem_iff_getElem?.2 ⟨j, ?_⟩
  unfold modNth
  rw [List.getElem?_modify, List.getElem?_eq_getElem hj, he]
  exact congrArg some (if_neg hne)

theorem State.convert_assigns (s : State) {c : Nat} (hi : (nth s.sense.convs c none).isNone = true) (input d : Nat) (u : ConvUser) :
    Assigns s (s.convert c input d u) := by
  refine ⟨rfl, rfl, modNth_length _ _ _, fun i x h => ?_⟩
  rcases h with h | ⟨y, hy, v, rfl, h1, h2⟩
  · exact .inl h
  · exact .inr ⟨some v, mem_modNth_idle _ hi hy, v, rfl, h1, h2⟩

theorem State.setGroup_assigns (s : State) (g : Nat) (f : Group → Group) : Assigns s (s.setGroup g f) := .of_eq rfl rfl rfl rfl

theorem State.groupDone_assigns (s : State) (g : Nat) : Assigns s (s.groupDone g) := by
  unfold State.groupDone
  dsimp only
  split
  · exact State.setGroup_assigns _ _ _
  · exact .refl

theorem State.skipEmpty_assigns (g : Nat) : ∀ (k : Nat) (s : State), Assigns s (s.skipEmpty g k)
  | 0, _ => .refl
  | k + 1, s => by
    unfold State.skipEmpty
    dsimp only
    split
    · exact (State.setGroup_assigns _ _ _).trans (State.skipEmpty_assigns g k _)
    · exact .refl

theorem State.handGroup_assigns (s : State) (g : Nat) {c : Nat} (hi : (nth s.sense.convs c none).isNone = true) (d : Nat) :
    Assigns s (s.handGroup g c d) := by
  unfold State.handGroup
  dsimp only
  split
  · exact (State.skipEmpty_assigns g 8 s).trans (State.groupDone_assigns _ _)
  · exact (State.setGroup_assigns _ _ _).trans ((State.convert_assigns _ (by exact hi) _ _ _).trans (State.skipEmpty_assigns g 8 _))

theorem State.openOne_assigns (s : State) (g c : Nat) : Assigns s (s.openOne g c) := by
  unfold State.openOne
  dsimp only
  split
  case isTrue h =>
    simp only [Bool.and_eq_true] at h
    exact State.handGroup_assigns _ _ h.2 _
  case isFalse => exact .refl

theorem State.openGroups_assigns (s : State) : Assigns s s.openGroups :=
  Assigns.foldl (fun u g => Assigns.foldl (fun v c => v.openOne_assigns g c) _ u) _ s

theorem State.turnPass_assigns (s : State) : Assigns s s.turnPass := by
  unfold State.turnPass
  dsimp only
  split
  · exact .of_eq rfl rfl rfl rfl
  · exact .refl

theorem State.turnLate_assigns (s : State) : Assigns s s.turnLate := by
  unfold State.turnLate
  split
  · exact .refl
  · exact s.turnPass_assigns

/-- A pass that gives way to the next one leaves the converters. -/
theorem State.turnPass_convs (s : State) : s.turnPass.sense.convs = s.sense.convs := by
  unfold State.turnPass
  dsimp only
  split <;> rfl

theorem State.handScan_assigns (s : State) {c : Nat} (hi : (nth s.sense.convs c none).isNone = true) : Assigns s (s.handScan c) := by
  have hp := s.turnPass_assigns
  have hc := s.turnPass_convs
  unfold State.handScan
  generalize s.turnPass = u at hp hc ⊢
  dsimp only
  have hn : Assigns u { u with sense := { u.sense with scan := { u.sense.scan with next := u.sense.scan.next + 1 } } } :=
    .of_eq rfl rfl rfl rfl
  have hv : ({ u with sense := { u.sense with scan := { u.sense.scan with next := u.sense.scan.next + 1 } } } : State).sense.convs
    = u.sense.convs := rfl
  generalize ({ u with sense := { u.sense with scan := { u.sense.scan with next := u.sense.scan.next + 1 } } } : State) = v at hn hv ⊢
  exact hp.trans (hn.trans ((State.convert_assigns v (by rw [hv, hc]; exact hi) _ _ _).trans (State.turnLate_assigns _)))

/-- A demand that a converter takes has begun. -/
theorem State.serve_assigns (s : State) {c : Nat} (hi : (nth s.sense.convs c none).isNone = true) (hc : c < s.sense.convs.length)
    (d : Demand) : Assigns s (s.serve c d) := by
  refine ⟨rfl, rfl, modNth_length _ _ _, fun i x h => ?_⟩
  rcases h with h | ⟨y, hy, v, rfl, h1, h2⟩
  · obtain ⟨e, he, hx⟩ := List.any_eq_true.1 h
    by_cases hd : e = d
    · subst hd
      simp only [Bool.and_eq_true, beq_iff_eq] at hx
      refine .inr ⟨_, List.mem_iff_getElem?.2 ⟨c, ?_⟩, ⟨e.input, e.user, s.clk.now + 40⟩, rfl, hx.1, hx.2⟩
      show (modNth s.sense.convs c _)[c]? = _
      unfold modNth
      rw [List.getElem?_modify, List.getElem?_eq_getElem hc]
      exact congrArg some (if_pos rfl)
    · exact .inl (List.any_eq_true.2 ⟨e, (List.mem_erase_of_ne hd).2 he, hx⟩)
  · exact .inr ⟨some v, mem_modNth_idle _ hi hy, v, rfl, h1, h2⟩

theorem State.assign_assigns (c : Nat) : ∀ (k : Nat) (s : State), c < s.sense.convs.length → Assigns s (s.assign c k)
  | 0, _, _ => .refl
  | k + 1, s, hc => by
    unfold State.assign
    split
    case isTrue => exact .refl
    case isFalse hi =>
      have hi : (nth s.sense.convs c none).isNone = true := by simpa using hi
      split
      · exact s.serve_assigns hi hc _
      case h_2 g _ =>
        have h := s.handGroup_assigns g hi s.clk.now
        exact h.trans (State.assign_assigns c k _ (by rw [h.convs]; exact hc))
      · exact s.handScan_assigns hi
      · split
        · exact s.turnPass_assigns
        · exact .refl

theorem State.assignFold_assigns : ∀ (l : List Nat) (s : State), s.sense.convs.length = 4 → (∀ c ∈ l, c < 4) →
    Assigns s (l.foldl (fun t c => t.assign c 12) s)
  | [], _, _, _ => .refl
  | c :: l, s, h, hl => by
    have ha := State.assign_assigns c 12 s (by rw [h]; exact hl c List.mem_cons_self)
    exact ha.trans (State.assignFold_assigns l _ (ha.convs.trans h) (fun d hd => hl d (List.mem_cons_of_mem _ hd)))

theorem State.assignAll_assigns (s : State) (h : s.sense.convs.length = 4) : Assigns s s.assignAll :=
  s.openGroups_assigns.trans (State.assignFold_assigns _ _ (s.openGroups_assigns.convs.trans h) (by decide))

/-- A demand joins the others. -/
def State.queueDemand (s : State) (d : Demand) : State := { s with sense := { s.sense with demands := s.sense.demands ++ [d] } }

theorem State.queueDemand_assigns (s : State) (d : Demand) : Assigns s (s.queueDemand d) :=
  ⟨rfl, rfl, rfl, fun i x hx => by
    rcases hx with hx | hx
    · refine .inl ?_
      rw [show (s.queueDemand d).sense.demands = s.sense.demands ++ [d] from rfl, List.any_append, hx, Bool.true_or]
    · exact .inr hx⟩

/-- A demanded conversion is asked for, and every one that was is still. -/
theorem State.demand_assigns (s : State) (h : s.sense.convs.length = 4) (input : Nat) (u : ConvUser) :
    Asked input u (s.demand input u) ∧ Assigns s (s.demand input u) := by
  have h0 := s.openGroups_assigns
  unfold State.demand
  generalize s.openGroups = v at h0 ⊢
  dsimp only
  generalize hd : (⟨input, u, v.clk.now⟩ : Demand) = d
  have ha : (d.input == input && d.user == u) = true := by rw [← hd]; simp
  have hq := v.queueDemand_assigns d
  have hx : Asked input u (v.queueDemand d) := .inl (by
    rw [show (v.queueDemand d).sense.demands = v.sense.demands ++ [d] from rfl, List.any_append, List.any_cons, ha]
    simp)
  have hw := (v.queueDemand d).assignAll_assigns (hq.convs.trans (h0.convs.trans h))
  exact ⟨hw.asked _ _ hx, h0.trans (hq.trans hw)⟩

theorem unitsOk_convs (h : s.unitsOk = true) : s.sense.convs.length = 4 := by
  simp only [State.unitsOk, Bool.and_eq_true, beq_iff_eq] at h
  omega

end

end Sys2Proof.Machine
end

section
/-! SUPPORT. The rows of the sweep (O25). -/

set_option Elab.async false

namespace Sys2Proof.Machine

/-! ## The rows of the sweep (R165 to R170) -/

section
variable {s : State}

/-- MG_SWEEP_CONTROL. -/
def sweepControlReg : Reg := (regAt 0x70808).get (by decide +kernel)

theorem State.sweepControl_content (s : State) : s.content sweepControlReg = 0 := rfl

/-- A write of MG_SWEEP_CONTROL starts a cycle or stops one. -/
theorem State.sweepControl_writes (hl : s.pm.state.logs = true) {v : Word} (hv : v = 1 ∨ v = 2) :
    s.writeLive .class1 0x70808 v = if v = 1 then s.startCycle else s.stopCycle := by
  have hc : s.changes sweepControlReg v = v := by
    unfold State.changes
    rw [s.sweepControl_content]
    rcases hv with rfl | rfl
    · decide +kernel
    · decide +kernel
  have hm : s.mayWrite .class1 sweepControlReg = 3 :=
    (by decide +kernel : sweepControlReg.row.rw1 ||| sweepControlReg.row.w1c = 3)
  rw [State.writeLive_acts (r := sweepControlReg) hl (by decide +kernel) (by decide +kernel)
    (by rw [hc, hm]; rcases hv with rfl | rfl <;> decide) (by rw [hc]; rcases hv with rfl | rfl <;> decide) rfl]
  rcases hv with rfl | rfl <;> rfl

/-- The rails that a cycle which considers every rail finds. -/
theorem State.nextSwept_none (h : s.mg.sweep.todo = 0) : s.nextSwept = none ↔ ∀ n, n < 64 → s.sweepable n = false := by
  unfold State.nextSwept
  rw [List.find?_eq_none]
  refine ⟨fun k n hn => ?_, fun k n hn => ?_⟩
  · have := k n (List.mem_range.2 hn)
    rw [h, decide_eq_true (Nat.zero_le n), Bool.true_and] at this
    exact Bool.eq_false_iff.2 this
  · rw [k n (List.mem_range.1 hn), Bool.and_false]
    exact Bool.false_ne_true

/-- A cycle that starts where some rail is swept goes on; else it is complete at once. -/
theorem State.startCycle_starts (hr : s.pm.state = .running) (ha : s.mg.sweep.active = false) :
    s.startCycle.mg.sweep.cycleStart = s.clk.now ∧ s.startCycle.mg.sweep.rail = none
      ∧ s.startCycle.mg.sweep.cycleDue = (if fld (s.cfgAt 0x70800) 31 16 = 0 then none
          else some (s.clk.now + fld (s.cfgAt 0x70800) 31 16 * 60 * secondTicks))
      ∧ ((∃ n, n < 64 ∧ s.sweepable n = true) →
          s.startCycle.mg.sweep.active = true ∧ s.startCycle.mg.sweep.cycles = s.mg.sweep.cycles)
      ∧ ((∀ n, n < 64 → s.sweepable n = false) →
          s.startCycle.mg.sweep.active = false ∧ s.startCycle.mg.sweep.cycles = (s.mg.sweep.cycles + 1) % 65536)
      ∧ s.startCycle.mg.trims = s.mg.trims := by
  unfold State.startCycle
  rw [if_pos ⟨hr, ha⟩]
  dsimp only
  generalize hx : (if fld (s.cfgAt 0x70800) 31 16 = 0 then none
    else some (s.clk.now + fld (s.cfgAt 0x70800) 31 16 * 60 * secondTicks)) = due
  generalize max s.clk.now s.mg.sweep.notBefore = before
  have hn := State.nextSwept_none (s := { s with mg := { s.mg with sweep := { s.mg.sweep with
      active := true, rail := none, todo := 0, notBefore := before, cycleStart := s.clk.now, cycleDue := due } } }) rfl
  have hm := State.finishCycle_mg { s with mg := { s.mg with sweep := { s.mg.sweep with
      active := true, rail := none, todo := 0, notBefore := before, cycleStart := s.clk.now, cycleDue := due } } }
  have hf {α : Type} (f : Mg → α) := congrArg f hm
  refine ⟨hf (·.sweep.cycleStart), hf (·.sweep.rail), hf (·.sweep.cycleDue), fun ⟨n, h, hs⟩ => ?_, fun h => ?_, hf (·.trims)⟩
  · have hne : ¬ _ := fun h0 => Bool.false_ne_true ((hn.1 h0 n h).symm.trans hs)
    unfold State.finishCycle
    rw [if_neg (by
      rw [Bool.and_eq_true]
      exact fun hh => hne (Option.isNone_iff_eq_none.1 hh.2))]
    exact ⟨rfl, rfl⟩
  · unfold State.finishCycle
    rw [if_pos (by rw [hn.2 h]; rfl)]
    exact ⟨rfl, rfl⟩

theorem State.till_state (s : State) (d : Nat) : (s.till d).pm.state = s.pm.state := by rw [(s.till_only d).pm_eq]

theorem sweepCycleStart_answers {due : Nat} (hd : s.mg.sweep.cycleDue = some due) (hr : s.pm.state = .running)
    (ha : s.mg.sweep.active = false) : Answers .sweepCycleStart s fun t =>
      t.clk.now = max s.clk.now due ∧ t.mg.sweep.cycleStart = t.clk.now ∧ t.mg.sweep.rail = none
        ∧ t.mg.sweep.cycleDue = (if fld (s.cfgAt 0x70800) 31 16 = 0 then none
            else some (t.clk.now + fld (s.cfgAt 0x70800) 31 16 * 60 * secondTicks))
        ∧ ((∃ n, n < 64 ∧ s.sweepable n = true) → t.mg.sweep.active = true ∧ t.mg.sweep.cycles = s.mg.sweep.cycles)
        ∧ ((∀ n, n < 64 → s.sweepable n = false) →
            t.mg.sweep.active = false ∧ t.mg.sweep.cycles = (s.mg.sweep.cycles + 1) % 65536)
        ∧ t.mg.trims = s.mg.trims ∧ Only [.clk, .mg] s t := by
  refine Answers.of_exec (t := (s.till due).startCycle) ?_ ?_
  · unfold exec execSweepCycleStart
    rw [hd]
    exact if_pos ⟨hr, ha⟩
  · have hc := State.till_clock (s := s) due
    have ho := s.till_only due
    generalize s.till due = u at hc ho ⊢
    obtain ⟨h1, h2, h3, h4, h5, h6⟩ := State.startCycle_starts (s := u) (by rw [ho.pm_eq]; exact hr) (by rw [ho.mg_eq]; exact ha)
    have hk : u.startCycle.clk = u.clk := u.startCycle_only.clk_eq
    have hsw : ∀ n, u.sweepable n = s.sweepable n := fun n => by
      unfold State.sweepable State.sweepCfg
      rw [ho.cfgAt_eq, ho.cfgAt_eq]
    simp only [hsw, ho.mg_eq, ho.cfgAt_eq] at h3 h4 h5 h6
    rw [hk]
    exact ⟨hc, h1, h2, h3, h4, h5, h6, (ho.mono rfl).trans (u.startCycle_only.mono rfl)⟩

/-- The end of a cycle that sweeps rail n, after the rail's. -/
theorem State.finishCycle_ended {t : State} {n result : Nat} (h : RailEnded n result s t) :
    t.finishCycle.mg.sweep.rail = none ∧ t.finishCycle.mg.sweep.lastRail = n ∧ t.finishCycle.mg.sweep.todo = n + 1
      ∧ t.finishCycle.trim n = t.trim n ∧ MarginKept n s t.finishCycle ∧ Only [.mg, .log, .free] s t.finishCycle := by
  have hm := t.finishCycle_mg
  have hf {α : Type} (f : Mg → α) := congrArg f hm
  obtain ⟨c1, c2, c3, c4⟩ := h.kept
  exact ⟨(hf (·.sweep.rail)).trans h.rail, (hf (·.sweep.lastRail)).trans h.lastRail, (hf (·.sweep.todo)).trans h.todo,
    t.finishCycle_trim n, ⟨(hf (·.cal)).trans c1, (hf (·.calDigest)).trans c2, (hf (·.calEpoch)).trans c3,
      fun m hn => (t.finishCycle_trim m).trans (c4 m hn)⟩, h.only.trans (t.finishCycle_only.mono rfl)⟩

/-- What the skip of a rail depends on does not move with the clock. -/
theorem sweepSkip_clk {u : State} (h : Only [.clk] s u) (n : Nat) : u.sweepSkip n = s.sweepSkip n := by
  rw [h.clk_upd]
  rfl

theorem execSweepRailStart_case {n : Nat} (hr : s.pm.state = .running) (ha : s.mg.sweep.active = true) (hn : s.mg.sweep.rail = none)
    (hx : s.nextSwept = some n) : execSweepRailStart s = .next (
      if s.sweepSkip n = 0 then
        (({ s.till s.mg.sweep.notBefore with mg := { (s.till s.mg.sweep.notBefore).mg with
          sweep := { (s.till s.mg.sweep.notBefore).mg.sweep with
            railStart := (s.till s.mg.sweep.notBefore).clk.now, clamped := false } } }).beginPoint n 0).sweepSees
      else ((s.till s.mg.sweep.notBefore).endRail n (s.sweepSkip n)).finishCycle) := by
  have hk := sweepSkip_clk (s.till_only s.mg.sweep.notBefore) n
  unfold execSweepRailStart
  rw [if_pos ⟨hr, ha, hn⟩, hx]
  dsimp only
  rw [hk]
  by_cases h : s.sweepSkip n = 0
  · rw [if_pos h, if_pos h]
  · rw [if_neg h, if_neg h]

/-- Point p of a rail has begun. -/
theorem State.beginPoint_begins {n p : Nat} (hw : Tab.wf s.mg.trims = true) :
    ∃ c, (s.beginPoint n p).mg.sweep = { s.mg.sweep with
        rail := some n, point := p, pointStart := s.clk.now, sampleDue := s.clk.now, samples := [], clamped := c }
      ∧ Trimmed n 4 (s.pointCode n p) s (s.beginPoint n p) ∧ MarginKept n s (s.beginPoint n p) := by
  have ha := s.applyTrim_atTrim n 4 (s.pointCode n p)
  obtain ⟨h1, h2⟩ := State.applyTrim_trimmed (n := n) hw (level := 4) (by decide) (s.pointCode n p)
  have hc := ha.only.clk_eq
  unfold State.beginPoint
  generalize s.applyTrim n 4 (s.pointCode n p) = u at ha h1 h2 hc ⊢
  refine ⟨u.mg.sweep.clamped || (u.trim n).clamped, ?_, ⟨h1, h2⟩, ⟨?_, ?_, ?_, h2⟩⟩
  · dsimp only
    rw [hc, ha.sweep]
  · show u.mg.cal = _
    rw [ha.mg]
  · show u.mg.calDigest = _
    rw [ha.mg]
  · show u.mg.calEpoch = _
    rw [ha.mg]

/-- Point 0 is at the nominal code. -/
theorem State.pointCode_zero (s : State) (n : Nat) : s.pointCode n 0 = s.nominal n := by
  unfold State.pointCode sweepJ roundHalf
  have h1 : 1 ≤ s.sweepSteps n := le_max_left _ _
  rw [if_pos (Nat.zero_le _), Nat.cast_zero, zero_mul, if_pos (le_refl _), mul_zero, zero_add,
    Int.ediv_eq_zero_of_lt (by positivity) (by push_cast; omega), add_zero]

theorem MarginKept.trans {n : Nat} {t u : State} (h : MarginKept n s t) (k : MarginKept n t u) : MarginKept n s u := by
  obtain ⟨h1, h2, h3, h4⟩ := h
  obtain ⟨k1, k2, k3, k4⟩ := k
  exact ⟨k1.trans h1, k2.trans h2, k3.trans h3, fun m hm => (k4 m hm).trans (h4 m hm)⟩

theorem MarginKept.of_mg {n : Nat} {t : State} (h : t.mg = s.mg) : MarginKept n s t :=
  ⟨by rw [h], by rw [h], by rw [h], fun m _ => by unfold State.trim; rw [h]⟩

/-- The comparators of a rail as the sweep sees them are looked at when its first point has begun. -/
theorem State.sweepSees_case {n : Nat} (hr : s.mg.sweep.rail = some n) :
    s.sweepSees = if [0, 1, 2, 3].any (fun k => (s.coreCmp (4 * n + k)).out) then (s.endRail n 2).finishCycle else s := by
  unfold State.sweepSees State.abortRail
  rw [hr]
  dsimp only
  rw [if_pos rfl]

theorem coreCmp_congr {t : State} (hf : t.frozen = s.frozen) (hs : t.sense = s.sense) (k : Nat) : t.coreCmp k = s.coreCmp k := by
  unfold State.coreCmp State.cmp
  rw [hf, hs]

/-- A rail whose sweep begins, as of the end of the pause before it. -/
theorem railStart_begins {n : Nat} (hw : Tab.wf s.mg.trims = true) {u : State} (hu : u = { s.till s.mg.sweep.notBefore with
      mg := { (s.till s.mg.sweep.notBefore).mg with sweep := { (s.till s.mg.sweep.notBefore).mg.sweep with
        railStart := (s.till s.mg.sweep.notBefore).clk.now, clamped := false } } }) :
    u.clk.now = max s.clk.now s.mg.sweep.notBefore ∧ (∃ c, (u.beginPoint n 0).mg.sweep = { s.mg.sweep with
        railStart := u.clk.now, rail := some n, point := 0, pointStart := u.clk.now, sampleDue := u.clk.now, samples := [], clamped := c })
      ∧ Trimmed n 4 (s.nominal n) s (u.beginPoint n 0) ∧ MarginKept n s (u.beginPoint n 0)
      ∧ (∀ k, (u.beginPoint n 0).coreCmp k = s.coreCmp k) ∧ Tab.wf (u.beginPoint n 0).mg.trims = true
      ∧ (u.beginPoint n 0).clk = u.clk ∧ Only [.clk, .mg] s (u.beginPoint n 0) := by
  have hc := State.till_clock (s := s) s.mg.sweep.notBefore
  have ho := s.till_only s.mg.sweep.notBefore
  generalize s.till s.mg.sweep.notBefore = v at hu hc ho
  have hm := ho.mg_eq
  have hou : Only [.clk, .mg] s u := by
    rw [hu]
    exact (ho.mono rfl).mk_upd
  have hsw : u.mg.sweep = { s.mg.sweep with railStart := v.clk.now, clamped := false } := by rw [hu, ← hm]
  have ht : u.mg.trims = s.mg.trims := by rw [hu, ← hm]
  have hk : u.clk = v.clk := by rw [hu]
  have hkept : MarginKept n s u := ⟨by rw [hu, ← hm], by rw [hu, ← hm], by rw [hu, ← hm], fun m _ => by unfold State.trim; rw [ht]⟩
  obtain ⟨c, h1, ⟨h2, h2'⟩, h3⟩ := State.beginPoint_begins (s := u) (n := n) (p := 0) (by rw [ht]; exact hw)
  have hb := u.beginPoint_only n 0
  rw [hsw] at h1
  rw [u.pointCode_zero] at h2
  have hnom : u.nominal n = s.nominal n ∧ u.clampCode n (u.nominal n) = s.clampCode n (s.nominal n) ∧ u.trimWithheld n = s.trimWithheld n := by
    unfold State.clampCode State.bandLo State.bandHi State.nominal State.trimWithheld
    simp only [hou.cfgAt_eq, hou.inp_eq]
    exact ⟨trivial, trivial, trivial⟩
  have htr : ∀ m, u.trim m = s.trim m := fun m => by unfold State.trim; rw [ht]
  rw [hnom.2.2, hnom.2.1, hnom.1, htr] at h2
  refine ⟨(congrArg Clk.now hk).trans hc, ⟨c, by rw [h1, hk]⟩, ⟨h2, fun m hm => (h2' m hm).trans (htr m)⟩, hkept.trans h3,
    fun k => ?_, ?_, hb.clk_eq, hou.trans (hb.mono rfl)⟩
  · exact (coreCmp_congr hb.frozen_eq hb.sense_eq k).trans (coreCmp_congr hou.frozen_eq hou.sense_eq k)
  · unfold State.beginPoint
    exact (u.applyTrim_atTrim n 4 _).wf (by rw [ht]; exact hw)

/-- A rail's clean start applies its nominal code and begins point 0. -/
theorem sweepRailStarts {n : Nat} (hw : s.tablesOk = true) (hr : s.pm.state = .running) (ha : s.mg.sweep.active = true)
    (hn : s.mg.sweep.rail = none) (hx : s.nextSwept = some n) (hk : s.sweepSkip n = 0)
    (hc : ∀ k, k < 4 → (s.coreCmp (4 * n + k)).out = false) : Answers .sweepRailStart s fun t =>
      t.clk.now = max s.clk.now s.mg.sweep.notBefore ∧ t.mg.sweep.rail = some n ∧ t.mg.sweep.point = 0
        ∧ t.mg.sweep.railStart = t.clk.now ∧ t.mg.sweep.pointStart = t.clk.now ∧ t.mg.sweep.sampleDue = t.clk.now
        ∧ Trimmed n 4 (s.nominal n) s t ∧ MarginKept n s t ∧ Only [.clk, .mg] s t := by
  refine Answers.of_exec (execSweepRailStart_case hr ha hn hx) ?_
  rw [if_pos hk]
  generalize hu : ({ s.till s.mg.sweep.notBefore with mg := { (s.till s.mg.sweep.notBefore).mg with
          sweep := { (s.till s.mg.sweep.notBefore).mg.sweep with
            railStart := (s.till s.mg.sweep.notBefore).clk.now, clamped := false } } } : State) = u
  obtain ⟨h1, ⟨c, h2⟩, h3, h4, h5, h6, h7, h8⟩ := railStart_begins (n := n) (tablesOk_trims hw) hu.symm
  generalize u.beginPoint n 0 = v at h2 h3 h4 h5 h6 h7 h8 ⊢
  rw [State.sweepSees_case (s := v) (n := n) (by rw [h2]), if_neg (by
    simp only [List.any_cons, List.any_nil, h5]
    rw [hc 0 (by omega), hc 1 (by omega), hc 2 (by omega), hc 3 (by omega)]
    exact Bool.false_ne_true)]
  rw [h7, h2]
  exact ⟨h1, rfl, rfl, rfl, rfl, rfl, h3, h4, h8⟩

/-- A rail one of whose comparators delivers its fault side is aborted as it starts. -/
theorem sweepRailAborts {n : Nat} (hw : s.tablesOk = true) (hr : s.pm.state = .running) (ha : s.mg.sweep.active = true)
    (hn : s.mg.sweep.rail = none) (hx : s.nextSwept = some n) (hk : s.sweepSkip n = 0)
    (hc : ∃ k, k < 4 ∧ (s.coreCmp (4 * n + k)).out = true) : Answers .sweepRailStart s fun t =>
      t.mg.sweep.rail = none ∧ (t.trim n).lastResult = 2 ∧ (t.trim n).aborts = inc 255 (s.trim n).aborts
        ∧ MarginKept n s t ∧ Only [.clk, .mg, .log, .free] s t := by
  refine Answers.of_exec (execSweepRailStart_case hr ha hn hx) ?_
  rw [if_pos hk]
  generalize hu : ({ s.till s.mg.sweep.notBefore with mg := { (s.till s.mg.sweep.notBefore).mg with
          sweep := { (s.till s.mg.sweep.notBefore).mg.sweep with
            railStart := (s.till s.mg.sweep.notBefore).clk.now, clamped := false } } } : State) = u
  obtain ⟨-, ⟨c, h2⟩, ⟨h3, -⟩, h4, h5, h6, -, h8⟩ := railStart_begins (n := n) (tablesOk_trims hw) hu.symm
  generalize u.beginPoint n 0 = v at h2 h3 h4 h5 h6 h8 ⊢
  obtain ⟨k, hk4, ho⟩ := hc
  rw [State.sweepSees_case (s := v) (n := n) (by rw [h2]), if_pos (by
    refine List.any_eq_true.2 ⟨k, ?_, by rw [h5]; exact ho⟩
    have : k = 0 ∨ k = 1 ∨ k = 2 ∨ k = 3 := by omega
    simpa using this)]
  have he := v.endRail_ended h6 n 2
  obtain ⟨e1, -, -, e4, e5, e6⟩ := State.finishCycle_ended he
  refine ⟨e1, by rw [e4]; exact he.lastResult, ?_, h4.trans e5, (h8.mono rfl).trans (e6.mono rfl)⟩
  have hab : (v.trim n).aborts = (s.trim n).aborts := by
    rw [h3]
    split <;> rfl
  rw [e4, he.aborts, hab]
  rfl

theorem sweepSkip_ne_one (n : Nat) : s.sweepSkip n ≠ 1 := by
  unfold State.sweepSkip
  split
  · decide
  · split
    · decide
    · split <;> decide

/-- A rail that is skipped keeps its code and level. -/
theorem sweepRailSkips {n : Nat} (hw : s.tablesOk = true) (hr : s.pm.state = .running) (ha : s.mg.sweep.active = true)
    (hn : s.mg.sweep.rail = none) (hx : s.nextSwept = some n) (hk : s.sweepSkip n ≠ 0) : Answers .sweepRailStart s fun t =>
      t.mg.sweep.rail = none ∧ t.mg.sweep.todo = n + 1 ∧ (t.trim n).lastResult = BitVec.ofNat 4 (s.sweepSkip n)
        ∧ (t.trim n).code = (s.trim n).code ∧ (t.trim n).level = (s.trim n).level
        ∧ (t.trim n).aborts = inc 255 (s.trim n).aborts ∧ MarginKept n s t ∧ Only [.clk, .mg, .log, .free] s t := by
  refine Answers.of_exec (execSweepRailStart_case hr ha hn hx) ?_
  rw [if_neg hk]
  have h1 := sweepSkip_ne_one (s := s) n
  generalize s.sweepSkip n = r at h1 ⊢
  have ho := s.till_only s.mg.sweep.notBefore
  generalize s.till s.mg.sweep.notBefore = u at ho ⊢
  have he := u.endRail_ended (by rw [ho.mg_eq]; exact tablesOk_trims hw) n r
  obtain ⟨e1, -, e3, e4, e5, e6⟩ := State.finishCycle_ended he
  have ht : ∀ m, u.trim m = s.trim m := fun m => by unfold State.trim; rw [ho.mg_eq]
  obtain ⟨u1, u2⟩ := he.unswept (by rw [ho.mg_eq, hn]; exact fun h => nomatch h)
  have ha := he.aborts
  rw [if_neg h1] at ha
  rw [e4, ← ht]
  exact ⟨e1, e3, he.lastResult, u1, u2, ha, (MarginKept.of_mg ho.mg_eq).trans e5, (ho.mono rfl).trans (e6.mono rfl)⟩

/-- A stop ends the cycle and the sweep of its rail. -/
theorem State.endCycle_ended {n : Nat} (hw : Tab.wf s.mg.trims = true) (hr : s.mg.sweep.rail = some n) (result : Nat) :
    (s.endCycle result).mg.sweep.active = false ∧ (s.endCycle result).mg.sweep.rail = none
      ∧ ((s.endCycle result).trim n).lastResult = BitVec.ofNat 4 result
      ∧ ((s.endCycle result).trim n).aborts = (if result = 1 then (s.trim n).aborts else inc 255 (s.trim n).aborts)
      ∧ ((s.endCycle result).trim n).sweeps = ((s.trim n).sweeps + 1) % 65536 ∧ MarginKept n s (s.endCycle result) := by
  have he := s.endRail_ended hw n result
  unfold State.endCycle
  rw [hr]
  dsimp only
  generalize s.endRail n result = u at he ⊢
  exact ⟨rfl, he.rail, he.lastResult, he.aborts, he.sweeps, he.kept⟩

/-! ### Samples and points (R166, R168) -/

/-- A sample is due, and the next one follows. -/
def State.sampleDue (s : State) (n : Nat) : State :=
  let t := s.till s.mg.sweep.sampleDue
  { t with mg := { t.mg with sweep := { s.mg.sweep with
    sampleDue := s.mg.sweep.sampleDue + 2000, requests := s.mg.sweep.requests + (if s.sweepIsEn n then 2 else 1) } } }

theorem State.sampleDue_leaves (s : State) (n : Nat) : (s.sampleDue n).clk.now = max s.clk.now s.mg.sweep.sampleDue
    ∧ (s.sampleDue n).mg = { s.mg with sweep := { s.mg.sweep with
        sampleDue := s.mg.sweep.sampleDue + 2000, requests := s.mg.sweep.requests + (if s.sweepIsEn n then 2 else 1) } }
    ∧ Only [.clk, .mg] s (s.sampleDue n) := by
  have hc := State.till_clock (s := s) s.mg.sweep.sampleDue
  have ho := s.till_only s.mg.sweep.sampleDue
  unfold State.sampleDue
  generalize s.till s.mg.sweep.sampleDue = u at hc ho ⊢
  exact ⟨hc, by rw [← ho.mg_eq], (ho.mono rfl).mk_upd⟩

/-- The conversions of a sample are asked for. -/
def State.sampleAsks (s : State) (n : Nat) : State :=
  let u := s.sampleDue n
  let v := u.demand n (.sweep u.clk.now)
  if s.sweepIsEn n then v.demand (v.sweepIs n) (.sweep v.clk.now) else v

theorem execSweepSample_case {n : Nat} (hn : s.mg.sweep.rail = some n) (hr : s.pm.state = .running)
    (hd : s.mg.sweep.sampleDue < s.mg.sweep.pointStart + s.sweepDwell n) : execSweepSample s = .next (s.sampleAsks n) := by
  unfold execSweepSample State.sampleAsks State.sampleDue
  dsimp only
  rw [hn]
  dsimp only
  rw [if_pos ⟨hr, hd⟩]

/-- A sample's requests, one or two. -/
theorem sweepSample_asks {n : Nat} (hl : s.unitsOk = true) (hn : s.mg.sweep.rail = some n) (hr : s.pm.state = .running)
    (hd : s.mg.sweep.sampleDue < s.mg.sweep.pointStart + s.sweepDwell n) : Answers .sweepSample s fun t =>
      t.clk.now = max s.clk.now s.mg.sweep.sampleDue
        ∧ t.mg = { s.mg with sweep := { s.mg.sweep with
            sampleDue := s.mg.sweep.sampleDue + 2000, requests := s.mg.sweep.requests + (if s.sweepIsEn n then 2 else 1) } }
        ∧ Asked n (.sweep t.clk.now) t ∧ (s.sweepIsEn n = true → Asked (s.sweepIs n) (.sweep t.clk.now) t)
        ∧ t.sense.readings = s.sense.readings ∧ t.sense.cmps = s.sense.cmps ∧ Only [.clk, .mg, .sense] s t := by
  refine Answers.of_exec (execSweepSample_case hn hr hd) ?_
  obtain ⟨hk, hm, h1⟩ := s.sampleDue_leaves n
  unfold State.sampleAsks
  generalize s.sampleDue n = u at hk hm h1 ⊢
  dsimp only
  have hlu : u.sense.convs.length = 4 := by rw [h1.sense_eq]; exact unitsOk_convs hl
  obtain ⟨hq, ha⟩ := u.demand_assigns hlu n (.sweep u.clk.now)
  have h2 := u.demand_only n (.sweep u.clk.now)
  generalize u.demand n (.sweep u.clk.now) = v at hq ha h2 ⊢
  have his : v.sweepIs n = s.sweepIs n := by
    unfold State.sweepIs
    rw [h2.cfgAt_eq, h1.cfgAt_eq]
  obtain ⟨hq', ha'⟩ := v.demand_assigns (ha.convs.trans hlu) (v.sweepIs n) (.sweep v.clk.now)
  have h3 := v.demand_only (v.sweepIs n) (.sweep v.clk.now)
  have hvu : v.clk.now = u.clk.now := by rw [h2.clk_eq]
  by_cases he : s.sweepIsEn n = true
  · rw [if_pos he]
    rw [his, hvu] at hq' ha' h3 ⊢
    generalize v.demand (s.sweepIs n) (.sweep u.clk.now) = t at hq' ha' h3 ⊢
    have htu : t.clk.now = u.clk.now := by rw [h3.clk_eq, h2.clk_eq]
    rw [htu]
    exact ⟨hk, h3.mg_eq.trans (h2.mg_eq.trans hm), ha'.asked _ _ hq, fun _ => hq', ha'.readings.trans (ha.readings.trans (by rw [h1.sense_eq])),
      ha'.cmps.trans (ha.cmps.trans (by rw [h1.sense_eq])), (h1.mono rfl).trans ((h2.mono rfl).trans (h3.mono rfl))⟩
  · rw [if_neg he, hvu]
    exact ⟨hk, h2.mg_eq.trans hm, hq, fun h => absurd h he, ha.readings.trans (by rw [h1.sense_eq]), ha.cmps.trans (by rw [h1.sense_eq]),
      (h1.mono rfl).trans (h2.mono rfl)⟩

theorem execSweepPoint_case {n : Nat} (hn : s.mg.sweep.rail = some n) (hr : s.pm.state = .running) {u : State}
    (hu : u = (s.till (s.mg.sweep.pointStart + s.sweepDwell n)).pointDone n) : execSweepPoint s
    = .next (if u.mg.sweep.point < 4 * u.sweepSteps n then u.beginPoint n (u.mg.sweep.point + 1) else (u.endRail n 1).finishCycle) := by
  unfold execSweepPoint
  rw [hn]
  dsimp only
  rw [if_pos hr, ← hu]

/-- A completed point leaves the trims, and of the sweep the rail, the point and the instants. -/
theorem State.pointDone_leaves (s : State) (n : Nat) : (s.pointDone n).mg.trims = s.mg.trims ∧ (s.pointDone n).mg.sweep.rail = s.mg.sweep.rail
    ∧ (s.pointDone n).mg.sweep.point = s.mg.sweep.point ∧ MarginKept n s (s.pointDone n) := ⟨rfl, rfl, rfl, rfl, rfl, rfl, fun _ _ => rfl⟩

/-- A point's dwell has ended. -/
theorem point_done {n : Nat} (hn : s.mg.sweep.rail = some n) {u : State}
    (hu : u = (s.till (s.mg.sweep.pointStart + s.sweepDwell n)).pointDone n) :
    u.clk.now = max s.clk.now (s.mg.sweep.pointStart + s.sweepDwell n) ∧ u.mg.trims = s.mg.trims ∧ u.mg.sweep.rail = some n
      ∧ u.mg.sweep.point = s.mg.sweep.point ∧ MarginKept n s u ∧ Only [.clk, .mg, .free] s u := by
  have hc := State.till_clock (s := s) (s.mg.sweep.pointStart + s.sweepDwell n)
  have ho := s.till_only (s.mg.sweep.pointStart + s.sweepDwell n)
  generalize s.till (s.mg.sweep.pointStart + s.sweepDwell n) = v at hu hc ho
  obtain ⟨h1, h2, h3, h4⟩ := v.pointDone_leaves n
  have h5 := v.pointDone_only n
  rw [← hu] at h1 h2 h3 h4 h5
  rw [h5.clk_eq, h1, h2, h3, ho.mg_eq]
  exact ⟨hc, rfl, hn, rfl, (MarginKept.of_mg ho.mg_eq).trans h4, (ho.mono rfl).trans (h5.mono rfl)⟩

/-- What a trim depends on beside itself. -/
theorem trims_congr {u : State} (hc : ∀ a, u.cfgAt a = s.cfgAt a) (hi : u.inp = s.inp) (n : Nat) : u.nominal n = s.nominal n ∧ (∀ x, u.clampCode n x = s.clampCode n x)
      ∧ u.trimWithheld n = s.trimWithheld n ∧ u.sweepSteps n = s.sweepSteps n ∧ (∀ p, u.pointCode n p = s.pointCode n p) := by
  unfold State.pointCode State.sweepSteps State.sweepAmp State.sweepCfg State.clampCode State.bandLo State.bandHi State.nominal
    State.trimWithheld
  simp only [hc, hi, implies_true, and_self]

theorem sweepPoint_begins {n : Nat} (hw : s.tablesOk = true) (hn : s.mg.sweep.rail = some n) (hr : s.pm.state = .running)
    (hp : s.mg.sweep.point < 4 * s.sweepSteps n) : Answers .sweepPoint s fun t =>
      t.clk.now = max s.clk.now (s.mg.sweep.pointStart + s.sweepDwell n) ∧ t.mg.sweep.rail = some n
        ∧ t.mg.sweep.point = s.mg.sweep.point + 1 ∧ t.mg.sweep.pointStart = t.clk.now ∧ t.mg.sweep.samples = []
        ∧ Trimmed n 4 (s.pointCode n (s.mg.sweep.point + 1)) s t ∧ MarginKept n s t ∧ Only [.clk, .mg, .free] s t := by
  generalize hu : (s.till (s.mg.sweep.pointStart + s.sweepDwell n)).pointDone n = u
  refine Answers.of_exec (execSweepPoint_case hn hr hu.symm) ?_
  obtain ⟨h1, h2, h3, h4, h5, h6⟩ := point_done hn hu.symm
  obtain ⟨-, k2, k3, k4, k5⟩ := trims_congr (fun a => h6.cfgAt_eq a) h6.inp_eq n
  rw [h4, k4, if_pos hp]
  obtain ⟨c, b1, ⟨b2, b2'⟩, b3⟩ := State.beginPoint_begins (s := u) (n := n) (p := s.mg.sweep.point + 1)
    (by rw [h2]; exact tablesOk_trims hw)
  have b4 := u.beginPoint_only n (s.mg.sweep.point + 1)
  have htr : ∀ m, u.trim m = s.trim m := fun m => by unfold State.trim; rw [h2]
  simp only [k2, k3, k5, htr] at b2 b2'
  rw [b4.clk_eq, b1]
  exact ⟨h1, rfl, rfl, rfl, rfl, ⟨b2, b2'⟩, h5.trans b3, h6.trans (b4.mono rfl)⟩

theorem sweepPoint_completes {n : Nat} (hw : s.tablesOk = true) (hn : s.mg.sweep.rail = some n) (hr : s.pm.state = .running)
    (hp : 4 * s.sweepSteps n ≤ s.mg.sweep.point) (ht : s.trimWithheld n = false) : Answers .sweepPoint s fun t =>
      t.mg.sweep.rail = none ∧ t.mg.sweep.lastRail = n ∧ (t.trim n).lastResult = 1 ∧ (t.trim n).aborts = (s.trim n).aborts
        ∧ (t.trim n).sweeps = ((s.trim n).sweeps + 1) % 65536 ∧ (t.trim n).level = 0
        ∧ (t.trim n).code = BitVec.ofInt 12 (s.clampCode n (s.nominal n)) ∧ MarginKept n s t ∧ Only [.clk, .mg, .log, .free] s t := by
  generalize hu : (s.till (s.mg.sweep.pointStart + s.sweepDwell n)).pointDone n = u
  refine Answers.of_exec (execSweepPoint_case hn hr hu.symm) ?_
  obtain ⟨-, h2, h3, h4, h5, h6⟩ := point_done hn hu.symm
  obtain ⟨k1, k2, k3, k4, -⟩ := trims_congr (fun a => h6.cfgAt_eq a) h6.inp_eq n
  rw [h4, k4, if_neg (by omega)]
  have he := u.endRail_ended (by rw [h2]; exact tablesOk_trims hw) n 1
  obtain ⟨e1, e2, -, e4, e5, e6⟩ := State.finishCycle_ended he
  obtain ⟨n1, n2⟩ := he.nominal h3 (k3.trans ht)
  have htr : u.trim n = s.trim n := by unfold State.trim; rw [h2]
  have ha := he.aborts
  have hs := he.sweeps
  rw [if_pos rfl, htr] at ha
  rw [htr] at hs
  rw [k1, k2] at n2
  rw [e4]
  exact ⟨e1, e2, he.lastResult, ha, hs, n1, n2, h5.trans e5, (h6.mono rfl).trans (e6.mono rfl)⟩

end

/-- Settles O25, by what the end of a rail's consideration and the start of a point leave. -/
theorem sweeps : Obligations.Sweeps := by
  unfold Obligations.Sweeps
  refine ⟨fun due s => sweepCycleStart_answers, fun s hr ha => ?_, fun s hl h => ?_, fun n s hw hl ha hn => ?_, fun s hl ha hn => ?_,
    fun n s => sweepRailStarts, fun n s => sweepRailAborts, fun n s => sweepRailSkips, fun n s hu hn hr hd he => ?_,
    fun n s hu hn hr hd he => ?_, fun n s => sweepPoint_begins, fun n s => sweepPoint_completes⟩
  · have hl : s.pm.state.logs = true := by rw [hr]; rfl
    obtain ⟨h1, -, -, h4, h5, h6⟩ := State.startCycle_starts hr ha
    exact Answers.of_exec (congrArg Host.Outcome.next ((State.sweepControl_writes hl (.inl rfl)).trans (if_pos rfl)))
      ⟨h1, h4, h5, h6, s.startCycle_only⟩
  · refine Answers.of_exec (congrArg Host.Outcome.next ((State.sweepControl_writes hl (.inl rfl)).trans (if_pos rfl))) ?_
    unfold State.startCycle
    exact if_neg (fun ⟨hr, ha⟩ => h.elim (fun k => k hr) (fun k => Bool.false_ne_true (ha.symm.trans k)))
  · refine Answers.of_exec (t := s.endCycle 4) (congrArg Host.Outcome.next ((State.sweepControl_writes hl (.inr rfl)).trans
      ((if_neg (by decide)).trans (if_pos ha)))) ?_
    obtain ⟨h1, h2, h3, h4, h5, h6⟩ := State.endCycle_ended (tablesOk_trims hw) hn 4
    exact ⟨h1, h2, h3, h4, h5, h6, s.endCycle_only 4⟩
  · refine Answers.of_exec (t := s.endCycle 4) (congrArg Host.Outcome.next ((State.sweepControl_writes hl (.inr rfl)).trans
      ((if_neg (by decide)).trans (if_pos ha)))) ?_
    unfold State.endCycle
    rw [hn]
    exact ⟨rfl, (Only.refl _ _).mk_upd⟩
  · obtain ⟨t, hx, h1, h2, h3, -, h5⟩ := sweepSample_asks hu hn hr hd
    rw [he] at h2
    exact ⟨t, hx, h1, h2, h3, h5⟩
  · obtain ⟨t, hx, h1, h2, h3, h4, h5⟩ := sweepSample_asks hu hn hr hd
    rw [he] at h2
    exact ⟨t, hx, h1, h2, h3, h4 he, h5⟩

end Sys2Proof.Machine
end

section
/-! SUPPORT. A refutation of what a shard written leaves in the buffer (O26). -/

set_option Elab.async false

namespace Sys2Proof.Machine

/-! ## A shard that the flight recorder holds twice -/

/-- A device that writes a snapshot as shard 5, where an earlier position of the flight recorder holds a fault event under the same seq, and
the archive has no room for its window. -/
def seqTwice : State :=
  { ready with
      log.fr := { ready.log.fr with next := 5, pos := 1, slots := [(0, .good ⟨{ shard with trigger := true }, 5, none, 0, 0⟩)] }
      log.fa := { ready.log.fa with next := 2097152 }
      log.buffer := [shard] }

/-- Refutes O26: its clause on a shard written to the flight recorder holds the buffer to be left with the shards behind it. The copier finds
a shard by its seq, and where an earlier position holds another one of that seq, as in the state given here, it is that one which the copier
reaches: its window is refused, and the event of the refusal joins the buffer. -/
theorem not_shardsWritten : ¬ Obligations.ShardsWritten := by
  unfold Obligations.ShardsWritten
  rintro ⟨-, -, h, -⟩
  obtain ⟨t, ht, -, -, -, hb, -⟩ := h shard [] seqTwice (by decide +kernel) (by decide +kernel) rfl rfl (by decide +kernel)
  have hx : afterRow .shardCommit seqTwice (fun t => t.log.buffer.length == 1) = true := by decide +kernel
  rw [afterRow_next ht, hb rfl rfl rfl rfl] at hx
  exact absurd hx (by decide)

end Sys2Proof.Machine
end

section
/-! SUPPORT. What the copier's work and lost words leave of the log (O27). -/

set_option Elab.async false

namespace Sys2Proof.Machine

/-! ## What the copier's work leaves of the log (R188 to R190) -/

/-- The copier's work on the flight recorder: its list, the windows and the captured events change, nothing else of the log. -/
def Log.Worked (l m : Log) : Prop := m = { l with
  buffer := m.buffer, index := m.index, lastWindow := m.lastWindow, openWins := m.openWins, copies := m.copies
  windowRefused := m.windowRefused, snapSkipped := m.snapSkipped, eventLost := m.eventLost, skipFlag := m.skipFlag
  dropSnaps := m.dropSnaps, dropEvents := m.dropEvents }

/-- Its work on the archive: the archive, its space and the places of uncorrectable words change too. -/
def Log.Archived (l m : Log) : Prop := m = { l with
  buffer := m.buffer, index := m.index, lastWindow := m.lastWindow, openWins := m.openWins, copies := m.copies
  windowRefused := m.windowRefused, snapSkipped := m.snapSkipped, eventLost := m.eventLost, skipFlag := m.skipFlag
  dropSnaps := m.dropSnaps, dropEvents := m.dropEvents, fa := m.fa, drained := m.drained, spans := m.spans, bad := m.bad
  overwrittenLife := m.overwrittenLife, lostLife := m.lostLife }

namespace Log.Worked
variable {l m k : Log}

theorem refl : Log.Worked l l := rfl

theorem trans (h : Log.Worked l m) (g : Log.Worked m k) : Log.Worked l k := by
  unfold Log.Worked at *
  exact g.trans (by rw [h])

theorem archived (h : Log.Worked l m) : Log.Archived l m := by
  unfold Log.Worked Log.Archived at *
  rw [h]

theorem foldl {α : Type} {f : Log → α → Log} (hf : ∀ l a, Log.Worked l (f l a)) : ∀ (xs : List α) (l : Log), Log.Worked l (xs.foldl f l)
  | [], _ => refl
  | a :: xs, l => (hf l a).trans (foldl hf xs (f l a))

end Log.Worked

namespace Log.Archived
variable {l m k : Log}

theorem trans (h : Log.Archived l m) (g : Log.Archived m k) : Log.Archived l k := by
  unfold Log.Archived at *
  exact g.trans (by rw [h])

end Log.Archived

theorem Log.push_worked (l : Log) (x : Shard) : Log.Worked l (l.push x) := by
  unfold Log.push
  split
  · rfl
  · split
    · rfl
    · split <;> rfl

theorem Log.setEntry_worked (l : Log) (id : Nat) (f : WinEntry → WinEntry) : Log.Worked l (l.setEntry id f) := by
  unfold Log.setEntry
  split <;> rfl

theorem Log.closeOn_worked (l : Log) (q : Nat) : Log.Worked l (l.closeOn q) := by
  unfold Log.closeOn
  dsimp only
  split <;> rfl

section
variable (s : State)

theorem State.capture_worked (kind cause : Nat) (event : List Byte) : Log.Worked s.log (s.capture kind cause event).log := by
  unfold State.capture
  dsimp only
  split
  · exact Log.push_worked _ _
  · exact .refl

theorem State.logEvent_worked (code region v1 v2 : Nat) : Log.Worked s.log (s.logEvent code region v1 v2).log := State.capture_worked _ _ _ _

theorem State.openWindow_worked (y : Stored) (rest : List Copy) : Log.Worked s.log (s.openWindow y rest).log := by
  unfold State.openWindow
  split
  · rfl
  · exact Log.Worked.trans (m := (State.irqLg _ 1).log) rfl (State.logEvent_worked _ _ _ _ _)

theorem State.reachShard_worked (y : Stored) (c : Copy) (rest : List Copy) : Log.Worked s.log (s.reachShard y c rest).log := by
  have ht : Log.Worked s.log (if y.shard.trigger = true then
      if (s.admitsWindow || s.log.openWins.isEmpty) = true then s.openWindow y rest
      else (s.openWindow y rest).postCopy y (s.openWindow y rest).log.copies
    else if s.log.openWins.isEmpty = true then { s with log := { s.log with copies := rest } }
    else s.postCopy y rest).log := by
    split
    · split
      · exact s.openWindow_worked y rest
      · exact (s.openWindow_worked y rest).trans rfl
    · split <;> rfl
  simp only [State.reachShard]
  split
  · exact ht.trans (Log.closeOn_worked _ _)
  · exact ht

theorem State.missShard_worked (c : Copy) (rest : List Copy) : Log.Worked s.log (s.missShard c rest).log := by
  unfold State.missShard
  dsimp only
  have h1 : Log.Worked s.log (s.log.openWins.foldl (fun (l : Log) w => l.setEntry w.1 (fun e => { e with truncated := true })) s.log) :=
    .foldl (f := fun (l : Log) (w : Nat × Nat) => l.setEntry w.1 (fun e => { e with truncated := true }))
      (fun l w => l.setEntry_worked w.1 _) _ _
  generalize s.log.openWins.foldl (fun (l : Log) w => l.setEntry w.1 (fun e => { e with truncated := true })) s.log = l1 at h1 ⊢
  have h2 := h1.trans (.foldl (f := fun (l : Log) (w : Nat × Nat) => l.setEntry w.1 (fun e => e.ended true))
    (fun l w => l.setEntry_worked w.1 _) ((s.log.counted c.snap).filter (fun w => w.2 == 0 || c.truncated)) l1)
  generalize ((s.log.counted c.snap).filter (fun w => w.2 == 0 || c.truncated)).foldl
    (fun (l : Log) (w : Nat × Nat) => l.setEntry w.1 (fun e => e.ended true)) l1 = l2 at h2 ⊢
  have h3 : Log.Worked s.log { l2 with
      openWins := (s.log.counted c.snap).filter (fun w => !(w.2 == 0 || c.truncated)), copies := rest } := h2.trans rfl
  split
  · exact h3.trans (State.logEvent_worked _ _ _ _ _)
  · exact h3

theorem State.reach_worked : ∀ (n : Nat) (s : State), Log.Worked s.log (s.reach n).log
  | 0, _ => .refl
  | n + 1, s => by
    unfold State.reach
    split
    · split
      · split
        · exact (s.missShard_worked _ _).trans (State.reach_worked n _)
        · split
          · rfl
          · exact (s.reachShard_worked _ _ _).trans (State.reach_worked n _)
      · exact .refl
    · exact .refl

/-- With another copy at its head than a shard not reached yet, the list is as it is. -/
theorem State.reach_copy {s : State} {c : Copy} {rest : List Copy} (h : s.log.copies = c :: rest) (hc : c.why ≠ .shard) (n : Nat) :
    s.reach n = s := by
  cases n with
  | zero => rfl
  | succ n =>
    unfold State.reach
    rw [h]
    exact if_neg hc

theorem State.reach_none {s : State} (h : s.log.copies = []) (n : Nat) : s.reach n = s := by
  cases n with
  | zero => rfl
  | succ n =>
    unfold State.reach
    rw [h]

/-! ## Copies into the archive -/

theorem State.endWithout_worked (c : Copy) : Log.Worked s.log (s.endWithout c).log :=
  Log.Worked.foldl (fun l i => l.setEntry_worked i _) _ _

theorem State.makeSpace_archived : Log.Archived s.log s.makeSpace.log := by
  unfold State.makeSpace
  dsimp only
  cases s.windowOf s.log.drained with
  | none =>
    exact Log.Archived.trans (m := { s.log with
      drained := s.log.drained + 1, overwrittenLife := s.log.overwrittenLife + (s.log.drained + 1 - s.log.drained) }) rfl
      (State.logEvent_worked { s with log := _ } _ _ _ _).archived
  | some w =>
    dsimp only
    have h : Log.Archived s.log { s.log with
      drained := w.2, overwrittenLife := s.log.overwrittenLife + (w.2 - s.log.drained) } := rfl
    generalize ({ s.log with drained := w.2, overwrittenLife := s.log.overwrittenLife + (w.2 - s.log.drained) } : Log) = l at h ⊢
    have hl := Log.setEntry_worked l w.1 (fun e => { e with overwritten := true })
    generalize l.setEntry w.1 (fun e => { e with overwritten := true }) = m at hl ⊢
    exact h.trans (hl.trans (State.logEvent_worked { s with log := m } _ _ _ _)).archived

/-- The archive with a copy: the region has the shard committed at its position, and the rest of the log follows. -/
theorem State.makeCopy_writes (c : Copy) (y : Stored) :
    (s.makeCopy c y).log.fa = s.log.fa.commit (regionSize 1) (s.store 1 (c.shard y) (some y.seq) (s.copyWindow c))
      ∧ (s.makeCopy c y).log.drained = s.log.drained ∧ Log.Archived s.log (s.makeCopy c y).log := by
  unfold State.makeCopy
  dsimp only
  rw [State.archiveLow_log]
  have h1 : Log.Archived s.log (s.writeShard 1 (c.shard y) (some y.seq) (s.copyWindow c)).log := rfl
  have hfa : (s.writeShard 1 (c.shard y) (some y.seq) (s.copyWindow c)).log.fa
    = s.log.fa.commit (regionSize 1) (s.store 1 (c.shard y) (some y.seq) (s.copyWindow c)) := rfl
  have hdr : (s.writeShard 1 (c.shard y) (some y.seq) (s.copyWindow c)).log.drained = s.log.drained := rfl
  generalize (s.writeShard 1 (c.shard y) (some y.seq) (s.copyWindow c)).log = l at h1 hfa hdr ⊢
  have h2 : Log.Worked l ((s.copyWindows c).foldl (fun (l : Log) i =>
      l.setEntry i (fun e => e.copied s.log.fa.next (c.why == .pre) (c.why == .post && y.shard.kind == 1))) l) :=
    .foldl (fun l i => l.setEntry_worked i _) _ _
  generalize (s.copyWindows c).foldl (fun (l : Log) i =>
    l.setEntry i (fun e => e.copied s.log.fa.next (c.why == .pre) (c.why == .post && y.shard.kind == 1))) l = m at h2 ⊢
  have h3 := h2.trans (.foldl (f := fun (l : Log) (i : Nat) => l.setEntry i (fun e => e.ended c.truncated))
    (fun l i => l.setEntry_worked i _) c.ends m)
  generalize c.ends.foldl (fun (l : Log) (i : Nat) => l.setEntry i (fun e => e.ended c.truncated)) m = k at h3 ⊢
  refine ⟨?_, ?_, h1.trans (h3.archived.trans rfl)⟩
  · exact (congrArg Log.fa (h3 : k = _)).trans hfa
  · exact (congrArg Log.drained (h3 : k = _)).trans hdr

theorem State.copyHead_archived (c : Copy) (rest : List Copy) : Log.Archived s.log (s.copyHead c rest).log := by
  have h : Log.Archived s.log ({ s with log := { s.log with copies := rest } } : State).log := rfl
  unfold State.copyHead
  generalize ({ s with log := { s.log with copies := rest } } : State) = u at h ⊢
  dsimp only
  split
  · have hf := Log.Worked.foldl (f := fun (l : Log) (i : Nat) => l.setEntry i (fun e => { e with truncated := true }))
      (fun l i => l.setEntry_worked i _) (u.copyWindows c) u.log
    generalize (u.copyWindows c).foldl (fun (l : Log) i => l.setEntry i (fun e => { e with truncated := true })) u.log = l at hf ⊢
    have he := State.endWithout_worked { u with log := l } c
    exact h.trans (hf.trans (he.trans (State.logEvent_worked _ _ _ _ _))).archived
  · split
    · exact h.trans (State.makeCopy_writes _ _ _).2.2
    · split
      · exact h.trans ((State.makeSpace_archived _).trans (State.makeCopy_writes _ _ _).2.2)
      · have hl : Log.Archived u.log ({ u with log := { u.log with lostLife := u.log.lostLife + 1 } } : State).log := rfl
        exact h.trans (hl.trans (State.endWithout_worked _ _).archived)

/-! ## Words that a read has lost (R197) -/

theorem State.rewriteBlock_log (s : State) (c b : Nat) : ∃ x, (s.rewriteBlock c b).log = { s.log with stray := x } := ⟨_, rfl⟩

theorem State.irqLg_lost (s : State) : bit (s.irqLg 3).irq.lg 3 = true := bit_putBit_same _ (by decide) _

/-- An uncorrectable word is counted and flagged, and its place in a region of the log kept. -/
theorem State.lostWord_leaves (s : State) (r p : Nat) (w : BitVec 6) :
    (s.lostWord r p w).log.fr = s.log.fr ∧ (s.lostWord r p w).log.fa = s.log.fa ∧ (s.lostWord r p w).log.corrected = s.log.corrected
      ∧ (s.lostWord r p w).log.uncorrectable = inc 255 s.log.uncorrectable ∧ bit (s.lostWord r p w).irq.lg 3 = true
      ∧ (r ≠ 0 → (s.lostWord r p w).log.bad.contains (r, p, w.toNat) = true) ∧ (∀ e ∈ s.log.bad, e ∈ (s.lostWord r p w).log.bad) := by
  unfold State.lostWord
  dsimp only
  have hbad : (r ≠ 0 → (if r = 0 ∨ s.log.bad.contains (r, p, w.toNat) then s.log.bad else s.log.bad ++ [(r, p, w.toNat)]).contains
        (r, p, w.toNat) = true)
      ∧ ∀ e ∈ s.log.bad, e ∈ (if r = 0 ∨ s.log.bad.contains (r, p, w.toNat) then s.log.bad else s.log.bad ++ [(r, p, w.toNat)]) := by
    split
    case isTrue h => exact ⟨fun hr => h.resolve_left hr, fun e he => he⟩
    case isFalse h => exact ⟨fun _ => by simp, fun e he => List.mem_append_left _ he⟩
  generalize (if r = 0 ∨ s.log.bad.contains (r, p, w.toNat) then s.log.bad else s.log.bad ++ [(r, p, w.toNat)]) = bad at hbad ⊢
  obtain ⟨hb1, hb2⟩ := hbad
  have hi := State.irqLg_lost { s with log := { s.log with uncorrectable := inc 255 s.log.uncorrectable, bad := bad } }
  have hl : (State.irqLg { s with log := { s.log with uncorrectable := inc 255 s.log.uncorrectable, bad := bad } } 3).log
    = { s.log with uncorrectable := inc 255 s.log.uncorrectable, bad := bad } := rfl
  generalize State.irqLg { s with log := { s.log with uncorrectable := inc 255 s.log.uncorrectable, bad := bad } } 3 = u at hi hl ⊢
  have he := State.logEvent_worked u 0x01 r r (if r = 0 then p + 8 * w.toNat else p)
  have ho := State.logEvent_only u 0x01 r r (if r = 0 then p + 8 * w.toNat else p)
  generalize u.logEvent 0x01 r r (if r = 0 then p + 8 * w.toNat else p) = v at he ho ⊢
  rw [hl] at he
  have hf {α : Type} (f : Log → α) := congrArg f (he : v.log = _)
  have hv : bit v.irq.lg 3 = true := by rw [ho.irq_eq]; exact hi
  have hvb : v.log.bad = bad := hf (·.bad)
  split
  · obtain ⟨x, hx⟩ := State.rewriteBlock_log v (p / copyBytes) (p % copyBytes / 512)
    have hg {α : Type} (f : Log → α) := congrArg f hx
    have hgb : (v.rewriteBlock (p / copyBytes) (p % copyBytes / 512)).log.bad = bad := (hg (·.bad)).trans hvb
    rw [hgb]
    exact ⟨(hg (·.fr)).trans (hf (·.fr)), (hg (·.fa)).trans (hf (·.fa)), (hg (·.corrected)).trans (hf (·.corrected)),
      (hg (·.uncorrectable)).trans (hf (·.uncorrectable)), hv, hb1, hb2⟩
  · rw [hvb]
    exact ⟨hf (·.fr), hf (·.fa), hf (·.corrected), hf (·.uncorrectable), hv, hb1, hb2⟩

/-- Several words of a block. -/
theorem State.lostWords_leave (r p : Nat) : ∀ (l : List (BitVec 6)) (s : State),
    (l.foldl (fun t w => t.lostWord r p w) s).log.fr = s.log.fr ∧ (l.foldl (fun t w => t.lostWord r p w) s).log.fa = s.log.fa
      ∧ (l.foldl (fun t w => t.lostWord r p w) s).log.corrected = s.log.corrected
      ∧ (s.log.uncorrectable ≤ 255 →
          (l.foldl (fun t w => t.lostWord r p w) s).log.uncorrectable = min 255 (s.log.uncorrectable + l.length))
      ∧ Only [.log, .irq] s (l.foldl (fun t w => t.lostWord r p w) s)
  | [], s => ⟨rfl, rfl, rfl, fun h => by simp [h], Only.refl _ _⟩
  | w :: l, s => by
    obtain ⟨h1, h2, h3, h4, -⟩ := s.lostWord_leaves r p w
    obtain ⟨k1, k2, k3, k4, k5⟩ := State.lostWords_leave r p l (s.lostWord r p w)
    refine ⟨k1.trans h1, k2.trans h2, k3.trans h3, fun hs => ?_, ((s.lostWord_only r p w).mono rfl).trans k5⟩
    have hi : inc 255 s.log.uncorrectable = min 255 (s.log.uncorrectable + 1) := by
      unfold inc
      split <;> omega
    rw [List.foldl_cons, k4 (by rw [h4, hi]; exact min_le_left _ _), h4, hi, List.length_cons]
    omega

end

end Sys2Proof.Machine
end

section
/-! SUPPORT. The rows of the copier and the scrub (O27). -/

set_option Elab.async false

namespace Sys2Proof.Machine

/-! ## The rows of the copier and the scrub -/

section
variable {s : State} {n : Nat}

/-- The copier's state at its copy: the grant and the words corrected noted, the lost ones recorded. -/
def State.copyFrom (s : State) (c : Copy) (n : Nat) (lost : List (BitVec 6)) : State :=
  (s.frPlace c.origin).elim ((s.mramUsed true).countCorrected n)
    (fun e => lost.foldl (fun (u : State) w => u.lostWord 2 e.1 w) ((s.mramUsed true).countCorrected n))

theorem execArchiveCopy_case {c : Copy} {rest : List Copy} (hs : s.pm.state.logs = true) (ht : s.log.tornFa = none)
    (hc : s.log.copies = c :: rest) (hw : c.why ≠ .shard) (n : Nat) (lost : List (BitVec 6)) :
    execArchiveCopy s n lost = .next (((s.copyFrom c n lost).copyHead c rest).reach 64) := by
  unfold execArchiveCopy
  rw [if_pos ⟨hs, ht⟩, State.reach_copy hc hw]
  dsimp only
  rw [hc]
  exact if_neg hw

theorem execArchiveCopy_idle (h : s.pm.state.logs = false ∨ s.log.tornFa.isSome = true ∨ s.log.copies = []) (n : Nat)
    (lost : List (BitVec 6)) : execArchiveCopy s n lost = .next s := by
  unfold execArchiveCopy
  rcases h with h | h | h
  · exact if_neg (fun k => by rw [h] at k; exact Bool.false_ne_true k.1)
  · exact if_neg (fun k => by rw [k.2] at h; exact Bool.false_ne_true h)
  · split
    · rw [State.reach_none h]
      dsimp only
      rw [h]
    · rfl

/-- The copier's read counts its words; the regions are as they were. -/
theorem State.copyFrom_leaves (s : State) (c : Copy) (n : Nat) (lost : List (BitVec 6)) :
    (s.copyFrom c n lost).log.fr = s.log.fr ∧ (s.copyFrom c n lost).log.fa = s.log.fa
      ∧ (s.copyFrom c n lost).log.corrected = incBy 65535 s.log.corrected n
      ∧ (s.log.uncorrectable ≤ 255 → (∃ e, s.frPlace c.origin = some e) →
          (s.copyFrom c n lost).log.uncorrectable = min 255 (s.log.uncorrectable + lost.length))
      ∧ Only [.log, .irq] s (s.copyFrom c n lost) := by
  have h0 : ((s.mramUsed true).countCorrected n).log.fr = s.log.fr ∧ ((s.mramUsed true).countCorrected n).log.fa = s.log.fa
      ∧ ((s.mramUsed true).countCorrected n).log.corrected = incBy 65535 s.log.corrected n
      ∧ ((s.mramUsed true).countCorrected n).log.uncorrectable = s.log.uncorrectable
      ∧ Only [.log, .irq] s ((s.mramUsed true).countCorrected n) := ⟨rfl, rfl, rfl, rfl, (Only.refl _ _).mk_upd⟩
  unfold State.copyFrom
  generalize (s.mramUsed true).countCorrected n = u at h0 ⊢
  obtain ⟨h1, h2, h3, h4, h5⟩ := h0
  cases s.frPlace c.origin with
  | none => exact ⟨h1, h2, h3, fun _ ⟨e, he⟩ => (nomatch he), h5⟩
  | some e =>
    obtain ⟨k1, k2, k3, k4, k5⟩ := State.lostWords_leave 2 e.1 lost u
    exact ⟨k1.trans h1, k2.trans h2, k3.trans h3, fun hu _ => (k4 (by rw [h4]; exact hu)).trans (by rw [h4]), h5.trans k5⟩

/-- A read of a shard in place depends on the region and on the words lost there. -/
theorem frRead_congr {t : State} (hf : t.log.fr = s.log.fr) (hb : t.log.bad = s.log.bad) (q : Nat) : t.frRead q = s.frRead q := by
  unfold State.frRead State.frPlace State.readShard
  rw [hf, hb]

theorem frRead_none_iff (s : State) (q : Nat) : s.frRead q = none ↔ s.frShard q = none := by
  unfold State.frRead State.frShard
  rw [Option.map_eq_none_iff, Option.map_eq_none_iff]

/-- A copy whose shard is still there goes to the archive's position. -/
theorem archiveCopy_copies {c : Copy} {rest : List Copy} {y : Stored} (hw : s.tablesOk = true) (hs : s.pm.state.logs = true)
    (ht : s.log.tornFa = none) (hc : s.log.copies = c :: rest) (hwhy : c.why ≠ .shard) (hy : s.frRead c.origin = some y)
    (hf : 0 < s.freeCount) : Answers (.archiveCopy n) s fun t =>
      Committed 1 s.log.fa.pos { y.shard with flags := c.flags y.shard.flags } s.log.fa.next (some y.seq) s t
        ∧ (∀ q, q ≠ s.log.fa.pos → Tab.get? t.log.fa.slots q = Tab.get? s.log.fa.slots q) ∧ t.log.fr = s.log.fr
        ∧ t.log.drained = s.log.drained ∧ t.log.corrected = incBy 65535 s.log.corrected n ∧ Only [.log, .irq] s t := by
  refine Answers.of_exec (execArchiveCopy_case hs ht hc hwhy n []) ?_
  have hu : s.copyFrom c n [] = (s.mramUsed true).countCorrected n := by
    unfold State.copyFrom
    cases s.frPlace c.origin <;> rfl
  obtain ⟨h1, h2, h3, -, h5⟩ := s.copyFrom_leaves c n []
  have hbad : (s.copyFrom c n []).log.bad = s.log.bad := by rw [hu]; rfl
  have hdr : (s.copyFrom c n []).log.drained = s.log.drained := by rw [hu]; rfl
  generalize s.copyFrom c n [] = u at h1 h2 h3 h5 hbad hdr ⊢
  have hh : u.copyHead c rest = ({ u with log := { u.log with copies := rest } } : State).makeCopy c y := by
    unfold State.copyHead
    dsimp only
    rw [frRead_congr (s := s) (t := { u with log := { u.log with copies := rest } }) h1 hbad, hy]
    refine if_pos ?_
    show 0 < 2097152 - (u.log.fa.next - u.log.drained)
    rw [h2, hdr]
    exact hf
  have ho := u.copyHead_only c rest
  rw [hh] at ho ⊢
  obtain ⟨m1, m2, m3⟩ := State.makeCopy_writes ({ u with log := { u.log with copies := rest } } : State) c y
  have hst : ∀ w, ({ u with log := { u.log with copies := rest } } : State).store 1 (c.shard y) (some y.seq) w
      = s.store 1 (c.shard y) (some y.seq) w := fun w => by
    have hr : ({ u with log := { u.log with copies := rest } } : State).region 1 = s.region 1 := h2
    have hg : ({ u with log := { u.log with copies := rest } } : State).genesis 1 = s.genesis 1 := by
      show u.genesis 1 = _
      unfold State.genesis
      rw [h5.ident_eq]
    unfold State.store State.chainOf
    rw [hr, hg]
  rw [hst] at m1
  have hl : ({ u with log := { u.log with copies := rest } } : State).log = { u.log with copies := rest } := rfl
  generalize ({ u with log := { u.log with copies := rest } } : State).makeCopy c y = v at m1 m2 m3 ho ⊢
  rw [hl] at m1 m2 m3
  generalize ({ u with log := { u.log with copies := rest } } : State).copyWindow c = window at m1
  have hx := State.reach_worked 64 v
  have hxo := State.reach_only v 64
  generalize v.reach 64 = t at hx hxo ⊢
  have hfx {α : Type} (f : Log → α) := congrArg f (hx : t.log = _)
  have hfm {α : Type} (f : Log → α) := congrArg f (m3 : v.log = _)
  have hfa : t.log.fa = u.log.fa.commit (regionSize 1) (s.store 1 (c.shard y) (some y.seq) window) := (hfx (·.fa)).trans m1
  rw [h2] at hfa
  have hwf : Tab.wf s.log.fa.slots = true := by
    simp only [State.tablesOk, Bool.and_eq_true] at hw
    tauto
  refine ⟨⟨s.store 1 (c.shard y) (some y.seq) window, ?_, rfl, rfl, rfl, rfl, ?_, ?_, ?_⟩, fun q hq => ?_, (hfx (·.fr)).trans ((hfm (·.fr)).trans h1), (hfx (·.drained)).trans
    (m2.trans hdr), (hfx (·.corrected)).trans ((hfm (·.corrected)).trans h3), h5.trans (ho.mono rfl |>.trans (hxo.mono rfl))⟩
  · show Tab.get? t.log.fa.slots s.log.fa.pos = _
    rw [hfa]
    exact (Tab.get?_insert _ _ _ _ hwf).trans (if_pos rfl)
  · exact (congrArg Region.chain hfa : _)
  · exact (congrArg Region.next hfa : _)
  · exact (congrArg Region.pos hfa : _)
  · rw [hfa]
    exact (Tab.get?_insert _ _ _ _ hwf).trans (if_neg (Ne.symm hq))

/-- A copy whose shard is no longer there is not made. -/
theorem archiveCopy_misses {c : Copy} {rest : List Copy} (hs : s.pm.state.logs = true) (ht : s.log.tornFa = none)
    (hc : s.log.copies = c :: rest) (hwhy : c.why ≠ .shard) (hy : s.frShard c.origin = none) :
    Answers (.archiveCopy n) s fun t => t.log.fa = s.log.fa ∧ t.log.fr = s.log.fr ∧ Only [.log, .irq] s t := by
  refine Answers.of_exec (execArchiveCopy_case hs ht hc hwhy n []) ?_
  obtain ⟨h1, h2, -, -, h5⟩ := s.copyFrom_leaves c n []
  generalize s.copyFrom c n [] = u at h1 h2 h5 ⊢
  have ho := u.copyHead_only c rest
  have hw : Log.Worked { u.log with copies := rest } (u.copyHead c rest).log := by
    have hn : ({ u with log := { u.log with copies := rest } } : State).frRead c.origin = none := by
      refine (frRead_none_iff _ _).2 ?_
      unfold State.frShard State.frPlace at hy ⊢
      dsimp only
      rw [h1]
      exact hy
    unfold State.copyHead
    generalize hv : ({ u with log := { u.log with copies := rest } } : State) = v at hn ⊢
    have hl : ({ u.log with copies := rest } : Log) = v.log := by rw [← hv]
    rw [hl]
    dsimp only
    rw [hn]
    dsimp only
    have hf := Log.Worked.foldl (f := fun (l : Log) (i : Nat) => l.setEntry i (fun e => { e with truncated := true }))
      (fun l i => l.setEntry_worked i _) (v.copyWindows c) v.log
    generalize (v.copyWindows c).foldl (fun (l : Log) i => l.setEntry i (fun e => { e with truncated := true })) v.log = l at hf ⊢
    have he := State.endWithout_worked { v with log := l } c
    exact hf.trans (he.trans (State.logEvent_worked _ _ _ _ _))
  generalize u.copyHead c rest = v at hw ho ⊢
  have hx := hw.trans (State.reach_worked 64 v)
  have hxo := State.reach_only v 64
  generalize v.reach 64 = t at hx hxo ⊢
  have hfx {α : Type} (f : Log → α) := congrArg f (hx : t.log = _)
  exact ⟨(hfx (·.fa)).trans h2, (hfx (·.fr)).trans h1, h5.trans ((ho.mono rfl).trans (hxo.mono rfl))⟩

theorem archiveCopy_counts {lost : List (BitVec 6)} {c : Copy} {rest : List Copy} {e : Nat × Stored} (hs : s.pm.state.logs = true)
    (ht : s.log.tornFa = none) (hc : s.log.copies = c :: rest) (hwhy : c.why ≠ .shard) (he : s.frPlace c.origin = some e)
    (hu : s.log.uncorrectable ≤ 255) : Answers (.archiveCopy n lost) s fun t =>
      t.log.corrected = incBy 65535 s.log.corrected n ∧ t.log.uncorrectable = min 255 (s.log.uncorrectable + lost.length)
        ∧ t.log.fr = s.log.fr := by
  refine Answers.of_exec (execArchiveCopy_case hs ht hc hwhy n lost) ?_
  obtain ⟨h1, -, h3, h4, -⟩ := s.copyFrom_leaves c n lost
  have h4 := h4 hu ⟨e, he⟩
  generalize s.copyFrom c n lost = u at h1 h3 h4 ⊢
  have hx := (u.copyHead_archived c rest).trans (State.reach_worked 64 _).archived
  generalize (u.copyHead c rest).reach 64 = t at hx ⊢
  have hfx {α : Type} (f : Log → α) := congrArg f (hx : t.log = _)
  exact ⟨(hfx (·.corrected)).trans h3, (hfx (·.uncorrectable)).trans h4, (hfx (·.fr)).trans h1⟩

/-! ### The scrub (R197) -/

/-- The next block is due, and after the last one the next pass begins. -/
def State.scrubNext (s : State) : State :=
  let t := (s.till (s.log.scrubFrom + s.scrubTicks)).mramUsed false
  let wrap := decide (mramBlocks ≤ t.log.scrubBlock + 1)
  { t with log := { t.log with
      scrubFrom := s.log.scrubFrom + s.scrubTicks
      scrubBlock := if wrap then 0 else t.log.scrubBlock + 1
      scrubPasses := if wrap then (t.log.scrubPasses + 1) % 256 else t.log.scrubPasses } }

theorem State.scrubNext_leaves (s : State) : s.scrubNext.clk.now = max s.clk.now (s.log.scrubFrom + s.scrubTicks)
    ∧ s.scrubNext.log = { s.log with
        scrubFrom := s.log.scrubFrom + s.scrubTicks
        scrubBlock := if mramBlocks ≤ s.log.scrubBlock + 1 then 0 else s.log.scrubBlock + 1
        scrubPasses := if mramBlocks ≤ s.log.scrubBlock + 1 then (s.log.scrubPasses + 1) % 256 else s.log.scrubPasses
        copierRun := 0 }
    ∧ Only [.clk, .log] s s.scrubNext := by
  have hc := State.till_clock (s := s) (s.log.scrubFrom + s.scrubTicks)
  have ho := s.till_only (s.log.scrubFrom + s.scrubTicks)
  unfold State.scrubNext
  generalize s.till (s.log.scrubFrom + s.scrubTicks) = u at hc ho ⊢
  unfold State.mramUsed
  dsimp only
  simp only [Bool.false_eq_true, if_false, decide_eq_true_eq]
  rw [ho.log_eq]
  exact ⟨hc, rfl, (ho.mono rfl).mk_upd⟩

theorem execScrubRead_case (hs : s.pm.state.logs = true) (f : BlockRead) : execScrubRead f s
    = .next (f.lost.foldl (fun t w => t.lostWord (blockPlace s.log.scrubBlock).1 (blockPlace s.log.scrubBlock).2 w)
        (s.scrubNext.countCorrected f.corrected)) := by
  have hm : ∀ u : State, (u.mramUsed false).log.scrubBlock = u.log.scrubBlock := fun _ => rfl
  have hb : ((s.till (s.log.scrubFrom + s.scrubTicks)).mramUsed false).log.scrubBlock = s.log.scrubBlock := by
    rw [hm, (s.till_only _).log_eq]
  unfold execScrubRead State.blockRead State.scrubNext
  rw [if_pos hs]
  dsimp only
  rw [hb]

theorem blockPlace_region {b : Nat} (h : 0x20000 ≤ b) : (blockPlace b).1 ≠ 0 := by
  unfold blockPlace
  rw [if_neg (by omega)]
  split
  · exact Nat.one_ne_zero
  · exact Nat.succ_ne_zero 1

theorem scrubRead_clean (hs : s.pm.state.logs = true) : Answers (.scrubRead ⟨n, []⟩) s fun t =>
      t.clk.now = max s.clk.now (s.log.scrubFrom + s.scrubTicks)
        ∧ t.log = { s.log with
          scrubFrom := s.log.scrubFrom + s.scrubTicks
          scrubBlock := if mramBlocks ≤ s.log.scrubBlock + 1 then 0 else s.log.scrubBlock + 1
          scrubPasses := if mramBlocks ≤ s.log.scrubBlock + 1 then (s.log.scrubPasses + 1) % 256 else s.log.scrubPasses
          corrected := incBy 65535 s.log.corrected n, copierRun := 0 }
        ∧ Only [.clk, .log] s t := by
  refine Answers.of_exec (execScrubRead_case hs _) ?_
  obtain ⟨h1, h2, h3⟩ := s.scrubNext_leaves
  generalize s.scrubNext = u at h1 h2 h3 ⊢
  have hc : (u.countCorrected n).clk = u.clk := rfl
  have hl : (u.countCorrected n).log = { u.log with corrected := incBy 65535 u.log.corrected n } := rfl
  have hu : Only [.clk, .log] s (u.countCorrected n) := h3.mk_upd
  show (u.countCorrected n).clk.now = _ ∧ (u.countCorrected n).log = _ ∧ Only [.clk, .log] s (u.countCorrected n)
  rw [hc, hl, h2]
  exact ⟨h1, rfl, hu⟩

theorem scrubRead_loses {w : BitVec 6} (hs : s.pm.state.logs = true) : Answers (.scrubRead ⟨n, [w]⟩) s fun t =>
      t.clk.now = max s.clk.now (s.log.scrubFrom + s.scrubTicks) ∧ t.log.corrected = incBy 65535 s.log.corrected n
        ∧ t.log.uncorrectable = inc 255 s.log.uncorrectable ∧ bit t.irq.lg 3 = true
        ∧ (0x20000 ≤ s.log.scrubBlock →
            t.log.bad.contains ((blockPlace s.log.scrubBlock).1, (blockPlace s.log.scrubBlock).2, w.toNat) = true)
        ∧ (∀ e ∈ s.log.bad, e ∈ t.log.bad) ∧ t.log.fr = s.log.fr ∧ t.log.fa = s.log.fa ∧ Only [.clk, .log, .irq] s t := by
  refine Answers.of_exec (execScrubRead_case hs _) ?_
  obtain ⟨h1, h2, h3⟩ := s.scrubNext_leaves
  have hr := fun h => blockPlace_region (b := s.log.scrubBlock) h
  generalize blockPlace s.log.scrubBlock = place at hr ⊢
  generalize s.scrubNext = u at h1 h2 h3 ⊢
  obtain ⟨k1, k2, k3, k4, k5, k6, k7⟩ := (u.countCorrected n).lostWord_leaves place.1 place.2 w
  have ho := (u.countCorrected n).lostWord_only place.1 place.2 w
  have hl : (u.countCorrected n).log = { u.log with corrected := incBy 65535 u.log.corrected n } := rfl
  have hc : (u.countCorrected n).clk = u.clk := rfl
  have hu : Only [.clk, .log] s (u.countCorrected n) := h3.mk_upd
  show ((u.countCorrected n).lostWord place.1 place.2 w).clk.now = _ ∧ ((u.countCorrected n).lostWord place.1 place.2 w).log.corrected = _
    ∧ ((u.countCorrected n).lostWord place.1 place.2 w).log.uncorrectable = _
    ∧ bit ((u.countCorrected n).lostWord place.1 place.2 w).irq.lg 3 = true
    ∧ (0x20000 ≤ s.log.scrubBlock → ((u.countCorrected n).lostWord place.1 place.2 w).log.bad.contains (place.1, place.2, w.toNat) = true)
    ∧ (∀ e ∈ s.log.bad, e ∈ ((u.countCorrected n).lostWord place.1 place.2 w).log.bad)
    ∧ ((u.countCorrected n).lostWord place.1 place.2 w).log.fr = _ ∧ ((u.countCorrected n).lostWord place.1 place.2 w).log.fa = _
    ∧ Only [.clk, .log, .irq] s ((u.countCorrected n).lostWord place.1 place.2 w)
  generalize u.countCorrected n = v at k1 k2 k3 k4 k5 k6 k7 ho hl hc hu ⊢
  rw [hl, h2] at k1 k2 k3 k4 k7
  refine ⟨?_, k3, k4, k5, fun h => k6 (hr h), k7, k1, k2, (hu.mono rfl).trans (ho.mono rfl)⟩
  exact (congrArg Clk.now (ho.clk_eq.trans hc)).trans h1

theorem scrubRead_counts (f : BlockRead) (hs : s.pm.state.logs = true) : Answers (.scrubRead f) s fun t =>
      t.log.corrected = incBy 65535 s.log.corrected f.corrected ∧ (s.log.uncorrectable ≤ 255 →
          t.log.uncorrectable = min 255 (s.log.uncorrectable + f.lost.length))
        ∧ t.log.fr = s.log.fr ∧ t.log.fa = s.log.fa ∧ Only [.clk, .log, .irq] s t := by
  refine Answers.of_exec (execScrubRead_case hs _) ?_
  obtain ⟨-, h2, h3⟩ := s.scrubNext_leaves
  generalize blockPlace s.log.scrubBlock = place
  generalize s.scrubNext = u at h2 h3 ⊢
  obtain ⟨k1, k2, k3, k4, k5⟩ := State.lostWords_leave place.1 place.2 f.lost (u.countCorrected f.corrected)
  have hl : (u.countCorrected f.corrected).log = { u.log with corrected := incBy 65535 u.log.corrected f.corrected } := rfl
  have hu : Only [.clk, .log] s (u.countCorrected f.corrected) := h3.mk_upd
  rw [hl, h2] at k1 k2 k3 k4
  exact ⟨k3, k4, k1, k2, (hu.mono rfl).trans (k5.mono rfl)⟩

theorem scrubRead_unpowered (f : BlockRead) (hs : s.pm.state.logs = false) : execScrubRead f s = .next s := by
  unfold execScrubRead
  exact if_neg (by rw [hs]; exact Bool.false_ne_true)

end

/-- Settles O27, by what the copier's work and the record of a lost word leave of the log. -/
theorem archiveAndScrub : Obligations.ArchiveAndScrub := by
  unfold Obligations.ArchiveAndScrub
  exact ⟨fun n c rest y s => archiveCopy_copies, fun n c rest s => archiveCopy_misses, fun n lost c rest e s => archiveCopy_counts,
    fun n s h => Answers.of_exec (execArchiveCopy_idle h n []) rfl, fun n s => scrubRead_clean, fun n w s => scrubRead_loses,
    fun f s => scrubRead_counts f, fun f s hs => Answers.of_exec (scrubRead_unpowered f hs) rfl⟩

end Sys2Proof.Machine
end

section
/-! SUPPORT. Phase steps and whole seconds (O22). -/

set_option Elab.async false

namespace Sys2Proof.Machine

/-! ## Phase steps of a clock output (R316) -/

section

/-- The word of CK_OUT_PHASEn that a phase write makes up: the output's position as it reads, and the steps. -/
def phaseWord (pos : Nat) (q steps : Byte) : Word := ((at_ pos 14 ||| at_ q.toNat 0) &&& 0xFFFFC000) ||| at_ steps.toNat 0

theorem bit_position (pos : Nat) {i : Nat} (hi : i < 14) : (at_ pos 14).getLsbD i = false := by
  unfold at_
  rw [BitVec.getLsbD_ofNat, Nat.testBit_shiftLeft, decide_eq_false (p := i ≥ 14) (by omega), Bool.false_and, Bool.and_false]

theorem bit_steps (q : Byte) (i : Nat) (hi : i < 32) : (at_ q.toNat 0).getLsbD i = q.getLsbD i := by
  unfold at_
  rw [BitVec.getLsbD_ofNat, Nat.shiftLeft_zero, decide_eq_true hi, Bool.true_and]
  rfl

/-- The writable bits of such a word that differ from the register's are those in which the steps do. -/
theorem phaseWord_changes (pos : Nat) (q steps : Byte) :
    (phaseWord pos q steps ^^^ (at_ pos 14 ||| at_ q.toNat 0)) &&& 0xFFFFC0FF = (steps ^^^ q).zeroExtend 32 := by
  refine BitVec.eq_of_getLsbD_eq fun i hi => ?_
  have hp := bit_position pos (i := i)
  simp only [phaseWord, BitVec.getLsbD_and, BitVec.getLsbD_xor, BitVec.getLsbD_or, bit_steps _ i hi, BitVec.truncate_eq_setWidth,
    BitVec.getLsbD_setWidth, decide_eq_true hi, Bool.true_and]
  rcases Nat.lt_or_ge i 14 with h | h
  · rw [hp h]
    interval_cases i <;> simp
  · have hs : steps.getLsbD i = false ∧ q.getLsbD i = false := ⟨BitVec.getLsbD_of_ge _ _ (by omega), BitVec.getLsbD_of_ge _ _ (by omega)⟩
    rw [hs.1, hs.2]
    interval_cases i <;> simp

theorem phaseWord_steps (pos : Nat) (q steps : Byte) : BitVec.ofNat 8 (phaseWord pos q steps).toNat = steps := by
  refine BitVec.eq_of_getLsbD_eq fun i hi => ?_
  rw [BitVec.getLsbD_ofNat, decide_eq_true hi, Bool.true_and]
  show (phaseWord pos q steps).getLsbD i = _
  simp only [phaseWord, BitVec.getLsbD_and, BitVec.getLsbD_or, bit_steps _ i (Nat.lt_trans hi (by decide)), bit_position pos
    (Nat.lt_trans hi (by decide))]
  interval_cases i <;> simp

variable {s : State}

/-- CK_OUT_PHASEn. -/
def outPhaseReg (n : BitVec 2) : Reg := (regAt (0xC0044 + 0x10 * n.toNat)).get (by revert n; decide +kernel)

theorem outPhaseReg_at : ∀ n, regAt (0xC0044 + 0x10 * n.toNat) = some (outPhaseReg n) := by decide +kernel

theorem outPhaseReg_row : ∀ n, (outPhaseReg n).row = (outPhaseReg 0).row ∧ (outPhaseReg n).i = n.toNat := by decide +kernel

/-- The register reads the output's position and the steps that pend. -/
theorem State.outPhase_reads (s : State) : ∀ n, readReg s (outPhaseReg n)
      = at_ (s.outNow n.toNat).position 14 ||| at_ (BitVec.ofInt 8 (s.outNow n.toNat).pending).toNat 0
  | 0 => rfl
  | 1 => rfl
  | 2 => rfl
  | 3 => rfl

theorem State.outPhase_content (s : State) (n : BitVec 2) : s.content (outPhaseReg n)
    = at_ (s.outNow n.toNat).position 14 ||| at_ (BitVec.ofInt 8 (s.outNow n.toNat).pending).toNat 0 :=
  State.outPhase_reads { s with frozen := none } n

theorem State.outPhase_changes (s : State) (n : BitVec 2) (steps : Byte) :
    s.changes (outPhaseReg n) (phaseWord (s.outNow n.toNat).position (BitVec.ofInt 8 (s.outNow n.toNat).pending) steps)
      = (steps ^^^ BitVec.ofInt 8 (s.outNow n.toNat).pending).zeroExtend 32 := by
  have hm : ((outPhaseReg n).row.ro ||| (outPhaseReg n).row.rw) &&& ~~~(outPhaseReg n).row.w1c = 0xFFFFC0FF
      ∧ (outPhaseReg n).row.w1c = 0 := by
    rw [(outPhaseReg_row n).1]
    decide +kernel
  unfold State.changes
  rw [s.outPhase_content, BitVec.and_assoc, hm.1, phaseWord_changes, hm.2]
  simp

theorem zeroExtend_eq_zero (x : Byte) : x.zeroExtend 32 = 0 ↔ x = 0 := by
  refine ⟨fun h => ?_, fun h => by rw [h]; rfl⟩
  refine BitVec.eq_of_getLsbD_eq fun i hi => ?_
  have hb := congrArg (BitVec.getLsbD · i) h
  simpa [BitVec.getLsbD_setWidth, show i < 32 by omega] using hb

/-- Only the steps are written, as a command of class 1 may. -/
theorem State.outPhase_mayWrite (s : State) (n : BitVec 2) (x : Byte) :
    x.zeroExtend 32 &&& ~~~(s.mayWrite .class1 (outPhaseReg n)) = 0 := by
  have hm : s.mayWrite .class1 (outPhaseReg n) = 0xFF := by
    unfold State.mayWrite
    dsimp only
    rw [(outPhaseReg_row n).1]
    decide +kernel
  rw [hm]
  refine BitVec.eq_of_getLsbD_eq fun i hi => ?_
  simp only [BitVec.truncate_eq_setWidth, BitVec.getLsbD_and, BitVec.getLsbD_setWidth, decide_eq_true hi, Bool.true_and]
  rcases Nat.lt_or_ge i 8 with h | h
  · interval_cases i <;> simp
  · rw [BitVec.getLsbD_of_ge x i h]
    simp

theorem State.outPhase_ownRule (s : State) (n : BitVec 2) (c : Word) (pos : Nat) (q steps : Byte) :
    s.ownRule (outPhaseReg n) (phaseWord pos q steps) c
      = if decide ((s.outNow n.toNat).pending + steps.toInt < -128) || decide (127 < (s.outNow n.toNat).pending + steps.toInt) then some 0x40
        else none := by
  obtain ⟨hr, hi⟩ := outPhaseReg_row n
  have ht : s.phaseTotal (outPhaseReg n).i (phaseWord pos q steps) = (s.outNow n.toNat).pending + steps.toInt := by
    unfold State.phaseTotal
    rw [phaseWord_steps, hi]
  have hid : (outPhaseReg n).row.id = .ckOutPhase := by
    rw [hr]
    rfl
  unfold State.ownRule
  dsimp only
  rw [hid]
  dsimp only
  rw [ht]

theorem execCkOutPhaseWrite_word (n : BitVec 2) (steps : Byte) : execCkOutPhaseWrite n steps s
    = .next (s.writeLive .class1 (0xC0044 + 0x10 * n.toNat)
        (phaseWord (s.outNow n.toNat).position (BitVec.ofInt 8 (s.outNow n.toNat).pending) steps)) := by
  unfold execCkOutPhaseWrite State.readWord
  dsimp only
  rw [outPhaseReg_at]
  dsimp only
  rw [s.outPhase_reads]
  rfl

/-- Steps whose total fits a signed byte are added to those pending. -/
theorem ckOutPhaseWrite_adds {n : BitVec 2} {steps : Byte} (hl : s.pm.state.logs = true)
    (hlo : -128 ≤ (s.outNow n.toNat).pending + steps.toInt) (hhi : (s.outNow n.toNat).pending + steps.toInt ≤ 127)
    (hne : steps ≠ BitVec.ofInt 8 (s.outNow n.toNat).pending) : execCkOutPhaseWrite n steps s
      = .next { s with clk := { s.clk with outs := modNth s.clk.outs n.toNat (fun _ => { s.outNow n.toNat with
          pending := (s.outNow n.toNat).pending + steps.toInt
          mark := if (s.outNow n.toNat).pending = 0 then s.clk.now else (s.outNow n.toNat).mark }) } } := by
  obtain ⟨hr, hi⟩ := outPhaseReg_row n
  have hid : (outPhaseReg n).row.id = .ckOutPhase := by rw [hr]; rfl
  rw [execCkOutPhaseWrite_word, State.writeLive_acts hl (outPhaseReg_at n) (by rw [hr]; decide +kernel)
    (by rw [s.outPhase_changes]; exact s.outPhase_mayWrite n _)
    (by
      rw [s.outPhase_changes]
      exact fun h => hne (BitVec.xor_eq_zero_iff.1 ((zeroExtend_eq_zero _).1 h)))
    (by
      rw [s.outPhase_ownRule, decide_eq_false (by omega), decide_eq_false (by omega)]
      rfl)]
  generalize s.changes (outPhaseReg n) _ = c
  have hw : s.writeContent (outPhaseReg n) (phaseWord (s.outNow n.toNat).position (BitVec.ofInt 8 (s.outNow n.toNat).pending) steps)
      = { s with clk := { s.clk with outs := modNth s.clk.outs n.toNat (fun _ => { s.outNow n.toNat with
          pending := (s.outNow n.toNat).pending + steps.toInt
          mark := if (s.outNow n.toNat).pending = 0 then s.clk.now else (s.outNow n.toNat).mark }) } } := by
    have hz : (outPhaseReg n).row.base / 0x10000 ≠ 0xD ∧ (outPhaseReg n).row.w1c = 0 := by
      rw [hr]
      decide +kernel
    unfold State.writeContent
    rw [if_neg hz.1, hz.2]
    dsimp only
    rw [hid]
    dsimp only
    rw [show ∀ w x : Word, w &&& ~~~((0 : Word) &&& x) = w from fun w x => by
      rw [show (0 : Word) &&& x = 0 from BitVec.zero_and, show ~~~(0 : Word) = BitVec.allOnes 32 from by decide, BitVec.and_allOnes]]
    unfold State.addPhase State.phaseTotal
    rw [phaseWord_steps, hi]
  rw [hw]
  unfold State.writeAfter
  rw [hid]

/-- Steps whose total does not fit, or those already pending, change nothing. -/
theorem ckOutPhaseWrite_keeps {n : BitVec 2} {steps : Byte} (hl : s.pm.state.logs = true)
    (h : (s.outNow n.toNat).pending + steps.toInt < -128 ∨ 127 < (s.outNow n.toNat).pending + steps.toInt
      ∨ steps = BitVec.ofInt 8 (s.outNow n.toNat).pending) : execCkOutPhaseWrite n steps s = .next s := by
  rw [execCkOutPhaseWrite_word]
  refine congrArg Host.Outcome.next ?_
  have hc := s.outPhase_changes n steps
  generalize hv : phaseWord (s.outNow n.toNat).position (BitVec.ofInt 8 (s.outNow n.toNat).pending) steps = v at hc ⊢
  have hj : s.judgeWord .class1 (0xC0044 + 0x10 * n.toNat) v = if s.changes (outPhaseReg n) v = 0 then none
      else s.ownRule (outPhaseReg n) v (s.changes (outPhaseReg n) v) := by
    unfold State.judgeWord
    rw [outPhaseReg_at]
    dsimp only
    rw [if_neg (fun hn => hn (by rw [hc]; exact s.outPhase_mayWrite n _))]
  unfold State.writeLive State.writeOne
  rw [if_pos hl, hj]
  by_cases hz : s.changes (outPhaseReg n) v = 0
  · have hw : State.writeWord (s, []) (0xC0044 + 0x10 * n.toNat, v) = (s, []) := by
      unfold State.writeWord
      dsimp only
      rw [outPhaseReg_at]
      exact if_pos hz
    rw [if_pos hz]
    dsimp only
    rw [hw]
    rfl
  · have hne : steps ≠ BitVec.ofInt 8 (s.outNow n.toNat).pending := fun he => hz (by
      rw [hc, he, BitVec.xor_self]
      rfl)
    have ho : s.ownRule (outPhaseReg n) v (s.changes (outPhaseReg n) v) = some 0x40 := by
      rw [← hv, s.outPhase_ownRule, if_pos]
      rcases h with h | h | h
      · rw [decide_eq_true h, Bool.true_or]
      · rw [decide_eq_true h, Bool.or_true]
      · exact absurd h hne
    rw [if_neg hz, ho]
    rfl

/-! ## Whole seconds and references (R307, R308, R310) -/

/-- The clocks run from the PLL with neither a rate nor slew, and no part of an adjustment is left over. -/
def Clk.Even (c : Clk) : Prop :=
  c.tbSet = true ∧ c.corePll = true ∧ c.appliedRate = 0 ∧ c.slewLeft = 0 ∧ 0 ≤ c.rateAcc ∧ c.rateAcc < 100000000

theorem clampInt_zero (n : Nat) : clampInt (-(n : Int)) n 0 = 0 := by
  unfold clampInt
  split
  · omega
  · split <;> omega

/-- Then the time base advances by one for each tick. -/
theorem Clk.Even.run {c : Clk} (h : c.Even) (d : Nat) : (c.run d).Even ∧ (c.run d).stamp = c.stamp + d := by
  obtain ⟨h1, h2, h3, h4, h5, h6⟩ := h
  have hr : c.rateSteps d = 0 := by
    unfold Clk.rateSteps
    rw [h3, mul_zero, add_zero, Int.ediv_eq_zero_of_lt h5 h6]
    exact clampInt_zero _
  have hs : c.slewSteps d = 0 := by
    unfold Clk.slewSteps
    rw [h4]
    exact clampInt_zero _
  have e1 : (c.run d).stamp = (c.stamp + d + c.rateSteps d + c.slewSteps d).toNat := rfl
  have e2 : (c.run d).rateAcc = c.rateAcc + d * c.appliedRate - 100000000 * c.rateSteps d := rfl
  have e3 : (c.run d).slewLeft = c.slewLeft - c.slewSteps d := rfl
  have e4 : (c.run d).tbSet = c.tbSet ∧ (c.run d).corePll = c.corePll ∧ (c.run d).mode = c.mode ∧ (c.run d).rate = c.rate :=
    ⟨rfl, rfl, rfl, rfl⟩
  rw [hr, hs] at e1
  rw [hr, h3, mul_zero, mul_zero, add_zero, sub_zero] at e2
  rw [hs, sub_zero, h4] at e3
  generalize c.run d = u at e1 e2 e3 e4 ⊢
  obtain ⟨t1, t2, t3, t4⟩ := e4
  refine ⟨⟨t1.trans h1, t2.trans h2, ?_, e3, e2 ▸ h5, e2 ▸ h6⟩, by omega⟩
  unfold Clk.appliedRate at h3 ⊢
  rw [e3, t3, t4, if_pos (rfl : (0 : Int) = 0)]
  rw [if_pos h4] at h3
  exact h3

theorem Clk.Even.advance {c : Clk} (h : c.Even) (d : Nat) :
    (c.advance d).Even ∧ (c.advance d).stamp = c.stamp + d ∧ (c.advance d).now = c.now + d := by
  have hs : c.slewTicks = 0 := by
    unfold Clk.slewTicks
    rw [h.2.2.2.1]
    omega
  obtain ⟨h1, e1⟩ := h.run 0
  obtain ⟨h2, e2⟩ := h1.run d
  have ha : c.advance d = { (c.run 0).run d with now := c.now + d } := by
    unfold Clk.advance
    rw [h.1, h.2.1, hs, Nat.min_zero]
    rfl
  rw [ha]
  exact ⟨h2, e2.trans (by rw [e1]; rfl), rfl⟩

/-- Going on tick by tick, the state comes to the tick in which the time base reaches a value that is near enough. -/
theorem State.creep_reaches (target : Nat) : ∀ (k : Nat) (s : State), s.clk.Even → s.clk.stamp ≤ target → target ≤ s.clk.stamp + k →
    (s.creep target k).clk.stamp = target ∧ (s.creep target k).clk.now = s.clk.now + (target - s.clk.stamp)
  | 0, s, _, h1, h2 => ⟨by unfold State.creep; omega, by unfold State.creep; omega⟩
  | k + 1, s, he, h1, h2 => by
    unfold State.creep
    split
    case isTrue h => exact ⟨by omega, by omega⟩
    case isFalse h =>
      obtain ⟨ha, hs, hn⟩ := he.advance 1
      obtain ⟨e1, e2⟩ := State.creep_reaches target k (s.wait 1) ha (by show (s.clk.advance 1).stamp ≤ _; omega)
        (by show _ ≤ (s.clk.advance 1).stamp + k; omega)
      refine ⟨e1, e2.trans ?_⟩
      show (s.clk.advance 1).now + (target - (s.clk.advance 1).stamp) = _
      omega

/-- With the clocks even, the next multiple of m is met exactly. -/
theorem State.tillStamp_even (he : s.clk.Even) {m : Nat} (hm : 0 < m) :
    (s.tillStamp m).clk.stamp = (s.clk.stamp / m + 1) * m
      ∧ (s.tillStamp m).clk.now = s.clk.now + ((s.tillStamp m).clk.stamp - s.clk.stamp) := by
  have hlt : s.clk.stamp < (s.clk.stamp / m + 1) * m := by
    rw [Nat.mul_comm]
    exact Nat.lt_mul_div_succ _ hm
  unfold State.tillStamp
  dsimp only
  generalize (s.clk.stamp / m + 1) * m = target at hlt ⊢
  obtain ⟨-, hs, -⟩ := he.advance (target - s.clk.stamp)
  rw [if_pos he.2.1, show ((s.clk.advance (target - s.clk.stamp)).stamp : Int) - target = 0 by omega]
  generalize hw : (((target - s.clk.stamp : Nat) : Int) - 0 - ((0 : Int).natAbs / 10000 + 2 : Nat)).toNat = w
  have hwv : w = target - s.clk.stamp - 2 := by
    rw [← hw]
    simp only [Int.natAbs_zero, Nat.zero_div]
    omega
  obtain ⟨ha, hst, hn⟩ := he.advance w
  obtain ⟨e1, e2⟩ := State.creep_reaches target (2 * ((0 : Int).natAbs / 10000 + 2) + 4) (s.wait w) ha
    (by show (s.clk.advance w).stamp ≤ _; omega)
    (by
      show _ ≤ (s.clk.advance w).stamp + _
      simp only [Int.natAbs_zero, Nat.zero_div]
      omega)
  refine ⟨e1, e2.trans ?_⟩
  rw [e1]
  show (s.clk.advance w).now + (target - (s.clk.advance w).stamp) = _
  omega

/-- From the RC the time base passes the next multiple of m within the eight ticks of a cycle. -/
theorem State.tillStamp_rc (ht : s.clk.tbSet = true) (hp : s.clk.corePll = false) (hr : s.clk.rcPhase < 8) {m : Nat} (hm : 0 < m) :
    (s.clk.stamp / m + 1) * m ≤ (s.tillStamp m).clk.stamp ∧ (s.tillStamp m).clk.stamp < (s.clk.stamp / m + 1) * m + 8
      ∧ (s.tillStamp m).clk.now + s.clk.rcPhase = s.clk.now + ((s.tillStamp m).clk.stamp - s.clk.stamp) := by
  have hlt : s.clk.stamp < (s.clk.stamp / m + 1) * m := by
    rw [Nat.mul_comm]
    exact Nat.lt_mul_div_succ _ hm
  unfold State.tillStamp
  dsimp only
  generalize (s.clk.stamp / m + 1) * m = target at hlt ⊢
  rw [hp, if_neg Bool.false_ne_true]
  generalize hw : (target - s.clk.stamp + 7) / 8 * 8 - s.clk.rcPhase = w
  have ha : (s.wait w).clk.stamp = s.clk.stamp + (s.clk.rcPhase + w) / 8 * 8 ∧ (s.wait w).clk.now = s.clk.now + w := by
    show (s.clk.advance w).stamp = _ ∧ (s.clk.advance w).now = _
    unfold Clk.advance
    rw [ht, hp]
    exact ⟨rfl, rfl⟩
  rw [ha.1, ha.2]
  omega

theorem State.secondReached_leaves (s : State) : s.secondReached.clk = { s.clk with
      aonSeconds := min 0xFFFFFFFF (s.clk.stamp / secondTicks), aonPeriods := 0, aonAt := s.clk.now, aonLoaded := true }
    ∧ s.secondReached.log.timeFloor = (if s.log.responds then s.clk.stamp else s.log.timeFloor)
    ∧ (s.log.secOver = 0 → s.secondReached.log = { s.log with timeFloor := s.secondReached.log.timeFloor }) := by
  unfold State.secondReached
  dsimp only
  generalize min 0xFFFFFFFF (s.clk.stamp / secondTicks) = seconds
  generalize (if s.log.responds then s.clk.stamp else s.log.timeFloor) = floor
  split
  case isTrue h => exact ⟨rfl, rfl, fun _ => rfl⟩
  case isFalse h =>
    refine ⟨rfl, ?_, fun k => absurd k h⟩
    exact congrArg Log.timeFloor (State.logEvent_worked
      { s with
        clk := { s.clk with aonSeconds := seconds, aonPeriods := 0, aonAt := s.clk.now, aonLoaded := true }
        log := { s.log with timeFloor := floor } } 0x05 1 s.log.secOver 0 :)

end

end Sys2Proof.Machine
end

section
/-! SUPPORT. References and the rows of the time base (O22). -/

set_option Elab.async false

namespace Sys2Proof.Machine

/-! ## References (R310, R311) -/

section
variable {s : State}

/-- The nearest whole second is half a second away at most. -/
theorem Clk.secondError_le (c : Clk) : c.secondError.natAbs ≤ 100000000 := by
  unfold Clk.secondError secondTicks
  have := Nat.mod_lt c.stamp (by decide : 200000000 > 0)
  dsimp only
  split <;> omega

/-- What learning the frequency error of an event leaves. -/
theorem Clk.learn_leaves (c : Clk) (e : Int) : c.learn e = { c with errs := (c.learn e).errs, rate := (c.learn e).rate } := by
  unfold Clk.learn
  split
  · split <;> rfl
  · rfl

/-- A reference event of TSYNC by its error (Table 12.3). -/
theorem State.refEvent_tsync {e : Int} (hs : -2147483647 ≤ e ∧ e ≤ 2147483647) :
    let t := s.refEvent 1 e
    t.clk.offset = e ∧ t.clk.following = 1 ∧ t.clk.lastEvent = some s.clk.now ∧ t.clk.lastTsync = s.clk.lastTsync
      ∧ (e.natAbs ≤ 4 → t.clk.mode = .tracking ∧ t.clk.slewLeft = 0)
      ∧ (4 < e.natAbs → e.natAbs ≤ 200000 → t.clk.mode = .slewing ∧ t.clk.slewLeft = e)
      ∧ (200000 < e → t.clk.mode = .stepPending ∧ t.clk.slewLeft = 0 ∧ t.clk.jumpCount = inc 255 s.clk.jumpCount
          ∧ bit t.irq.ck 4 = true)
      ∧ (e < -200000 → bit (s.cfgAt 0xC0008) 29 = true → t.clk.mode = .slewing ∧ t.clk.slewLeft = e)
      ∧ (e < -200000 → bit (s.cfgAt 0xC0008) 29 = false → t.clk.mode = .ahead ∧ t.clk.slewLeft = 0
          ∧ t.clk.jumpCount = inc 255 s.clk.jumpCount ∧ bit t.irq.ck 4 = true)
      ∧ t.clk.stamp = s.clk.stamp ∧ t.clk.now = s.clk.now ∧ t.clk.stepCount = s.clk.stepCount ∧ Only [.clk, .irq] s t := by
  have hc : clampInt (-2147483647) 2147483647 e = e := by
    unfold clampInt
    rw [if_neg (by omega), if_neg (by omega)]
  have hsrc : ((1 : BitVec 2) == 2) = false := rfl
  have hl := Clk.learn_leaves { s.clk with offset := e, following := 1 } e
  unfold State.refEvent
  dsimp only
  rw [hc, hsrc, Bool.and_false, Bool.false_and, if_neg Bool.false_ne_true]
  generalize Clk.learn { s.clk with offset := e, following := 1 } e = d at hl ⊢
  have hf {α : Type} (f : Clk → α) := congrArg f hl
  split
  case isTrue h4 =>
    exact ⟨hf (·.offset), hf (·.following), rfl, hf (·.lastTsync), fun _ => ⟨rfl, rfl⟩, fun k => absurd h4 (by omega), fun k => by omega,
      fun k => by omega, fun k => by omega, hf (·.stamp), hf (·.now), hf (·.stepCount), (Only.refl _ _).mk_upd⟩
  case isFalse h4 =>
    split
    case isTrue h5 =>
      exact ⟨hf (·.offset), hf (·.following), rfl, hf (·.lastTsync), fun k => absurd k h4, fun _ _ => ⟨rfl, rfl⟩, fun k => by omega,
        fun k => by omega, fun k => by omega, hf (·.stamp), hf (·.now), hf (·.stepCount), (Only.refl _ _).mk_upd⟩
    case isFalse h5 =>
      split
      case isTrue h6 =>
        exact ⟨rfl, rfl, rfl, rfl, fun k => absurd k h4, fun _ k => absurd k h5, fun _ => ⟨rfl, rfl, rfl, State.irqCk_bit _ _ (by decide)⟩,
          fun k => by omega, fun k => by omega, rfl, rfl, rfl, (State.irqCk_only _ _).mono rfl |> fun h => (Only.refl _ _).mk_upd.trans h⟩
      case isFalse h6 =>
        split
        case isTrue h7 =>
          exact ⟨rfl, rfl, rfl, rfl, fun k => absurd k h4, fun _ k => absurd k h5, fun k => by omega, fun _ _ => ⟨rfl, rfl⟩,
            fun _ k => absurd (h7.symm.trans k) Bool.noConfusion, rfl, rfl, rfl, (Only.refl _ _).mk_upd⟩
        case isFalse h7 =>
          exact ⟨rfl, rfl, rfl, rfl, fun k => absurd k h4, fun _ k => absurd k h5, fun k => by omega, fun _ k => absurd k h7,
            fun _ _ => ⟨rfl, rfl, rfl, State.irqCk_bit _ _ (by decide)⟩, rfl, rfl, rfl,
            (State.irqCk_only _ _).mono rfl |> fun h => (Only.refl _ _).mk_upd.trans h⟩

/-- The clocks with a valid edge noted. -/
def State.edgeNoted (s : State) : State :=
  { s with clk := { s.clk with lastTsync := some s.clk.now, tsyncRun := inc 3 s.clk.tsyncRun } }

theorem execTsyncEdge_valid (hr : s.tbRuns = true) (hs : s.timeSrc = 1 ∨ s.timeSrc = 3) (hv : s.clk.tsyncValid = true) :
    execTsyncEdge s = .next (if s.timeSrc = 3 ∧ s.clk.following = 2 ∧ inc 3 s.clk.tsyncRun < 3 then s.edgeNoted.ignoreEvent
      else s.edgeNoted.refEvent 1 s.edgeNoted.clk.secondError) := by
  unfold execTsyncEdge
  dsimp only
  rw [if_neg (by rw [hr]; rcases hs with h | h <;> rw [h] <;> decide), if_pos hv]
  split <;> rfl

theorem execTsyncEdge_invalid (hr : s.tbRuns = true) (hs : s.timeSrc = 1 ∨ s.timeSrc = 3) (hv : s.clk.tsyncValid = false) :
    execTsyncEdge s = .next ({ s with clk := { s.clk with tsyncRun := 0 } } : State).ignoreEvent := by
  unfold execTsyncEdge
  dsimp only
  rw [if_neg (by rw [hr]; rcases hs with h | h <;> rw [h] <;> decide), if_neg (by rw [hv]; exact Bool.false_ne_true)]

theorem tsyncEdge_answers (hr : s.tbRuns = true) (hs : s.timeSrc = 1) (hv : s.clk.tsyncValid = true) :
    Answers .tsyncEdge s fun t =>
      let e := s.clk.secondError
      t.clk.offset = e ∧ t.clk.following = 1 ∧ t.clk.lastEvent = some s.clk.now ∧ t.clk.lastTsync = some s.clk.now
        ∧ (e.natAbs ≤ 4 → t.clk.mode = .tracking ∧ t.clk.slewLeft = 0)
        ∧ (4 < e.natAbs → e.natAbs ≤ 200000 → t.clk.mode = .slewing ∧ t.clk.slewLeft = e)
        ∧ (200000 < e → t.clk.mode = .stepPending ∧ t.clk.slewLeft = 0 ∧ t.clk.jumpCount = inc 255 s.clk.jumpCount
            ∧ bit t.irq.ck 4 = true)
        ∧ (e < -200000 → bit (s.cfgAt 0xC0008) 29 = true → t.clk.mode = .slewing ∧ t.clk.slewLeft = e)
        ∧ (e < -200000 → bit (s.cfgAt 0xC0008) 29 = false → t.clk.mode = .ahead ∧ t.clk.slewLeft = 0
            ∧ t.clk.jumpCount = inc 255 s.clk.jumpCount ∧ bit t.irq.ck 4 = true)
        ∧ t.clk.stamp = s.clk.stamp ∧ t.clk.now = s.clk.now ∧ t.clk.stepCount = s.clk.stepCount ∧ Only [.clk, .irq] s t := by
  refine Answers.of_exec (execTsyncEdge_valid hr (.inl hs) hv) ?_
  rw [if_neg (fun h => absurd (hs.symm.trans h.1) (by decide))]
  have he : s.edgeNoted.clk.secondError = s.clk.secondError := rfl
  have hle := s.clk.secondError_le
  rw [he]
  generalize s.clk.secondError = e at hle ⊢
  obtain ⟨h1, h2, h3, h4, h5, h6, h7, h8, h9, h10, h11, h12, h13⟩ := State.refEvent_tsync (s := s.edgeNoted) (e := e) (by omega)
  have ho : Only [.clk, .irq] s s.edgeNoted := (Only.refl _ _).mk_upd
  exact ⟨h1, h2, h3, h4, h5, h6, h7, h8, h9, h10, h11, h12, ho.trans h13⟩

theorem holdoverEntry_answers {t0 : Nat} (h0 : s.clk.lastEvent = some t0) (hr : s.tbRuns = true) (hf : s.clk.following ≠ 0) :
    Answers .holdoverEntry s fun t =>
      t.clk.now = max s.clk.now (t0 + (if s.clk.following = 1 then 2500 * msTicks else 10 * msTicks)) ∧ t.clk.mode = .holdover
        ∧ t.clk.following = 0 ∧ t.clk.slewLeft = 0 ∧ t.clk.holdovers = inc 255 s.clk.holdovers ∧ t.clk.rate = s.clk.rate
        ∧ bit t.irq.ck 5 = true ∧ Only [.clk, .irq] s t := by
  generalize hd : t0 + (if s.clk.following = 1 then 2500 * msTicks else 10 * msTicks) = due
  refine Answers.of_exec (t := State.irqCk { s.till due with clk := { (s.till due).clk with
        mode := .holdover, following := 0, slewLeft := 0, holdovers := inc 255 (s.till due).clk.holdovers, lastTsync := none
        tsyncRun := 0 } } 5) ?_ ?_
  · unfold exec execHoldoverEntry
    rw [h0]
    dsimp only
    rw [hr, Bool.true_and, if_pos (bne_iff_ne.2 hf), hd]
  · have hc := State.till_clock (s := s) due
    have ho := s.till_only due
    have hn : (s.till due).clk = _ := State.till_ran (s := s) due
    generalize s.till due = u at hc ho hn ⊢
    have hh : u.clk.holdovers = s.clk.holdovers ∧ u.clk.rate = s.clk.rate := by
      rw [hn]
      exact ⟨rfl, rfl⟩
    have hi := State.irqCk_only { u with clk := { u.clk with
      mode := .holdover, following := 0, slewLeft := 0, holdovers := inc 255 u.clk.holdovers, lastTsync := none, tsyncRun := 0 } } 5
    have hu : Only [.clk] s { u with clk := { u.clk with
      mode := .holdover, following := 0, slewLeft := 0, holdovers := inc 255 u.clk.holdovers, lastTsync := none, tsyncRun := 0 } } := ho.mk_upd
    have hb := State.irqCk_bit { u with clk := { u.clk with
      mode := .holdover, following := 0, slewLeft := 0, holdovers := inc 255 u.clk.holdovers, lastTsync := none, tsyncRun := 0 } } 5
      (by decide)
    refine ⟨?_, ?_, ?_, ?_, ?_, ?_, hb, (hu.mono rfl).trans (hi.mono rfl)⟩
    · rw [hi.clk_eq]
      exact hc
    · rw [hi.clk_eq]
    · rw [hi.clk_eq]
    · rw [hi.clk_eq]
    · rw [hi.clk_eq, ← hh.1]
    · rw [hi.clk_eq]
      exact hh.2

theorem wholeSecond_answers (hr : s.tbRuns = true) :
    Answers .wholeSecond s fun t =>
      t.clk.aonSeconds = min 0xFFFFFFFF (t.clk.stamp / secondTicks) ∧ t.clk.aonPeriods = 0 ∧ t.clk.aonAt = t.clk.now
        ∧ t.clk.aonLoaded = true ∧ t.log.timeFloor = (if s.log.responds then t.clk.stamp else s.log.timeFloor)
        ∧ (s.clk.corePll = true → s.clk.appliedRate = 0 → s.clk.slewLeft = 0 → 0 ≤ s.clk.rateAcc → s.clk.rateAcc < 100000000 →
            t.clk.stamp = (s.clk.stamp / secondTicks + 1) * secondTicks ∧ t.clk.now = s.clk.now + (t.clk.stamp - s.clk.stamp))
        ∧ (s.clk.corePll = false → s.clk.rcPhase < 8 →
            (s.clk.stamp / secondTicks + 1) * secondTicks ≤ t.clk.stamp
              ∧ t.clk.stamp < (s.clk.stamp / secondTicks + 1) * secondTicks + 8
              ∧ t.clk.now + s.clk.rcPhase = s.clk.now + (t.clk.stamp - s.clk.stamp))
        ∧ (s.log.secOver = 0 → t.log = { s.log with timeFloor := t.log.timeFloor }) ∧ Only [.clk, .log] s t := by
  refine Answers.of_exec (t := (s.tillStamp secondTicks).secondReached) ?_ ?_
  · unfold exec execWholeSecond
    exact if_pos hr
  · have htb : s.clk.tbSet = true := by
      unfold State.tbRuns at hr
      rw [Bool.and_eq_true] at hr
      exact hr.2
    have h1 := fun h : s.clk.Even => State.tillStamp_even h (m := secondTicks) (by decide)
    have h2 := fun (hp : s.clk.corePll = false) (hc : s.clk.rcPhase < 8) => State.tillStamp_rc htb hp hc (m := secondTicks) (by decide)
    have ho := s.tillStamp_only secondTicks
    generalize (s.clk.stamp / secondTicks + 1) * secondTicks = target at h1 h2 ⊢
    generalize s.tillStamp secondTicks = u at h1 h2 ho ⊢
    obtain ⟨k1, k2, k3⟩ := u.secondReached_leaves
    have hs := u.secondReached_only
    generalize u.secondReached = t at k1 k2 k3 hs ⊢
    have hk {α : Type} (f : Clk → α) := congrArg f k1
    have hst : t.clk.stamp = u.clk.stamp := hk (·.stamp)
    have hnow : t.clk.now = u.clk.now := hk (·.now)
    rw [hst, hnow, k2, ho.log_eq]
    rw [ho.log_eq, k2, ho.log_eq] at k3
    exact ⟨hk (·.aonSeconds), hk (·.aonPeriods), hk (·.aonAt), hk (·.aonLoaded), rfl,
      fun a b c d e => h1 ⟨htb, a, b, c, d, e⟩, h2, k3, (ho.mono rfl).trans (hs.mono rfl)⟩

end

/-- Settles O22, by how the time base comes to a whole second, and by what a write of CK_OUT_PHASEn changes. -/
theorem timeBase : Obligations.TimeBase := by
  unfold Obligations.TimeBase
  refine ⟨fun s => tsyncEdge_answers, fun s hr hs hv => Answers.of_exec (execTsyncEdge_invalid hr hs hv) ⟨rfl, (Only.refl _ _).mk_upd⟩,
    fun s hr hs hv hf hn => ?_, fun t0 s => holdoverEntry_answers, fun s => wholeSecond_answers, fun s hp => ?_,
    fun out steps s hu hl hlo hhi hne => ?_, fun out steps s hl h => Answers.of_exec (ckOutPhaseWrite_keeps hl h) rfl⟩
  · have hi : inc 3 s.clk.tsyncRun = s.clk.tsyncRun + 1 := if_pos (by omega)
    refine Answers.of_exec (execTsyncEdge_valid hr (.inr hs) hv) ?_
    rw [if_pos ⟨hs, hf, by omega⟩]
    unfold State.edgeNoted
    rw [hi]
    exact ⟨rfl, (Only.refl _ _).mk_upd⟩
  · refine Answers.of_exec (t := s.captureHi) ?_ ⟨rfl, (Only.refl _ _).mk_upd⟩
    unfold exec execCkTimeLoRead
    exact if_pos hp
  · refine Answers.of_exec (ckOutPhaseWrite_adds hl hlo hhi hne) ?_
    have hlen : out.toNat < s.clk.outs.length := by
      have := out.isLt
      simp only [State.unitsOk, Bool.and_eq_true, beq_iff_eq] at hu
      omega
    have hsame := nth_modNth s.clk.outs out.toNat out.toNat (fun _ => { s.outNow out.toNat with
      pending := (s.outNow out.toNat).pending + steps.toInt
      mark := if (s.outNow out.toNat).pending = 0 then s.clk.now else (s.outNow out.toNat).mark }) {} hlen
    rw [if_pos rfl] at hsame
    have hf {α : Type} (f : ClkOut → α) := congrArg f hsame
    exact ⟨hf (·.pending), hf (·.position), fun n hn => nth_modNth_ne _ _ _ _ _ (Ne.symm hn), rfl,
      (Only.refl _ _).mk_upd⟩

end Sys2Proof.Machine
end

section
/-! SUPPORT. A starved comparator in Standby (O11). -/

set_option Elab.async false

namespace Sys2Proof.Machine

/-! ## A starved comparator in Standby -/

/-- A device in Standby with PFW released and VIN good, whose next slot skips its comparator for the fourth time in a row. -/
def starves : State :=
  { ready with
      pm.state := .standby, pm.vinGood := true, pm.vinLow := false, out.pfw := false
      sense.cmps := [(0, { skipRun := 3 })]
      sense.test := { ready.sense.test with next := 0, slotDue := some 0, src := none } }

/-- Refutes O11: its clause on a starved comparator holds every output to stay. In Standby the fault of the starved self-test wakes the device,
and the wake path asserts PFW, which is released in the state given here. -/
theorem not_selfTestSlots : ¬ Obligations.SelfTestSlots := by
  unfold Obligations.SelfTestSlots
  rintro ⟨-, -, -, h, -⟩
  obtain ⟨t, ht, -, -, -, -, -, ho, -⟩ := h 0 starves (by decide +kernel) rfl rfl (by decide +kernel) (by decide +kernel) (by decide +kernel)
  have hx : afterRow .selftestSlot starves (fun t => t.out.pfw) = true := by decide +kernel
  rw [afterRow_next ht, ho] at hx
  exact absurd hx (by decide)

end Sys2Proof.Machine
end

section
/-! SUPPORT. Comparators written and released (O10). -/

set_option Elab.async false

namespace Sys2Proof.Machine

/-! ## What a change of comparators leaves in every state -/

/-- What faults received in any state leave: the tick count, the EN outputs and the stores. -/
structure Quiet (s t : State) : Prop where
  now : t.clk.now = s.clk.now
  en : t.out.en = s.out.en
  stores : SameStores s t

namespace Quiet

variable {s t u : State}

theorem refl (s : State) : Quiet s s := ⟨rfl, rfl, rfl, rfl, rfl, rfl, rfl, rfl, rfl, rfl, rfl⟩

theorem trans (h : Quiet s t) (k : Quiet t u) : Quiet s u := ⟨k.now.trans h.now, k.en.trans h.en, h.stores.trans k.stores⟩

theorem of_faultFrame (h : FaultFrame s t) : Quiet s t := ⟨by rw [h.clk], h.en, h.sameStores⟩

theorem foldl {α : Type} {f : State → α → State} (hf : ∀ t x, Quiet t (f t x)) {s : State} (l : List α) : Quiet s (l.foldl f s) := by
  induction l generalizing s with
  | nil => exact refl s
  | cons x l ih => exact (hf s x).trans ih

end Quiet

section
variable {s : State}

theorem State.wake_quiet : Quiet s s.wake := by
  have ho := s.wake_only
  have hl : s.wake.log.fr = s.log.fr ∧ s.wake.log.fa = s.log.fa ∧ s.wake.out.en = s.out.en := by
    unfold State.wake
    split
    · split
      · exact ⟨s.goTo_fr _ _, s.goTo_fa _ _, rfl⟩
      · exact ⟨rfl, rfl, rfl⟩
    · exact ⟨rfl, rfl, rfl⟩
  exact ⟨s.wake_now, hl.2.2, ho.ident_eq, ho.cfg_eq, by rw [ho.sec_eq], by rw [ho.kiln_eq], by rw [ho.kiln_eq], by rw [ho.fault_eq], hl.1,
    hl.2.1, ho.pending_eq⟩

theorem State.receive_quiet (f : FaultRec) : Quiet s (s.receive f) := by
  by_cases hs : s.pm.state = .standby
  · have hh (u : State) (table : Nat) : Quiet u (u.holdFault f table).wake :=
      (Quiet.of_faultFrame (u.holdFault_faultFrame f table)).trans State.wake_quiet
    unfold State.receive State.receiveAs State.receiveW State.receiveTH
    rw [hs]
    split
    · exact .of_faultFrame (s.faultShard_faultFrame _ _ _ _)
    · split
      · exact hh s _
      · exact (Quiet.of_faultFrame (s.recordOnly_faultFrame f)).trans (hh _ _)
  · exact .of_faultFrame (State.receive_faultFrame hs f)

theorem State.deliver_quiet (e : FaultRec × Nat) : Quiet s (s.deliver e) := by
  unfold State.deliver
  split
  · exact .of_faultFrame (FaultFrame.withFault rfl)
  · exact State.receive_quiet _

theorem State.endPersist_quiet (src : Nat) : Quiet s (s.endPersist src) := by
  have h1 : Quiet s { s with fault := { s.fault with persist := s.fault.persist.filter (fun p => p.1 != src) } } :=
    .of_faultFrame (FaultFrame.withFault rfl)
  exact h1.trans (Quiet.foldl (f := fun (u : State) (p : Nat × Nat × Nat) =>
    u.receive (persistFault p.1 p.2.1 (if u.clk.now < p.2.2 then 1 else 2))) (fun t p => State.receive_quiet _) _)

theorem State.coreSees_quiet (old : State) (srcs : List Nat) : Quiet s (s.coreSees old srcs) := by
  unfold State.coreSees
  exact (Quiet.of_faultFrame (s.observeChecks_faultFrame.trans (State.sweepSees_faultFrame _))).trans
    ((Quiet.foldl (fun _ => State.deliver_quiet) _).trans (Quiet.foldl (fun _ => State.endPersist_quiet) _))

theorem State.senseFault_quiet (f : FaultRec) : Quiet s (s.senseFault f) := by
  unfold State.senseFault
  split
  · exact .refl s
  · exact State.receive_quiet f

/-- A change of comparators: what arms, the FLT pins, and the faults received. -/
theorem State.senseChange_quiet (old : State) (srcs : List Nat) : Quiet s (s.senseChange old srcs) := by
  have h1 : Quiet s ((s.armAll srcs).refreshFlt old) :=
    .of_faultFrame ((FaultFrame.of_only (State.armAll_only _ _)).trans (.of_only (State.refreshFlt_only _ _)))
  unfold State.senseChange
  dsimp only
  split
  · exact h1
  · exact h1.trans (State.coreSees_quiet _ _)

/-! ## Comparators written -/

theorem tablesOk_cmps (h : s.tablesOk = true) : Tab.wf s.sense.cmps = true := by
  simp only [State.tablesOk, Bool.and_eq_true] at h
  tauto

theorem Tab.get?_insert_self {α : Type} (t : Tab α) (k : Nat) (v : α) : Tab.get? (Tab.insert t k v) k = some v := by
  induction t with
  | nil => exact if_pos rfl
  | cons e t ih =>
    unfold Tab.insert
    split
    · exact if_pos rfl
    · split
      · exact if_pos rfl
      · exact (if_neg ‹_›).trans ih

/-- A comparator's record, and the others, where one is written. -/
theorem State.setCmp_cmp (h : Tab.wf s.sense.cmps = true) (n x : Nat) (c : Cmp) : (s.setCmp n c).cmp x = if n = x then c else s.cmp x :=
  Tab.getD_put s.sense.cmps {} n x c h

theorem State.setCmp_same (h : Tab.wf s.sense.cmps = true) (n : Nat) (c : Cmp) : (s.setCmp n c).cmp n = c :=
  (State.setCmp_cmp h n n c).trans (if_pos rfl)

theorem State.setCmp_sameCmps (h : Tab.wf s.sense.cmps = true) (n : Nat) (c : Cmp) : SameCmps n s (s.setCmp n c) := fun x hx =>
  (State.setCmp_cmp h n x c).trans (if_neg (Ne.symm hx))

theorem State.setCmp_wf (h : Tab.wf s.sense.cmps = true) (n : Nat) (c : Cmp) : Tab.wf (s.setCmp n c).sense.cmps = true := Tab.wf_put h {} n c

theorem SameCmps.refl (n : Nat) (s : State) : SameCmps n s s := fun _ _ => rfl

theorem SameCmps.trans {n : Nat} {s t u : State} (h : SameCmps n s t) (k : SameCmps n t u) : SameCmps n s u := fun x hx =>
  (k x hx).trans (h x hx)

theorem SameCmps.of_eq {n : Nat} {s t : State} (h : t.sense.cmps = s.sense.cmps) : SameCmps n s t := fun x _ => by
  unfold State.cmp
  rw [h]

theorem State.cmp_congr {s t : State} (h : t.sense.cmps = s.sense.cmps) (n : Nat) : t.cmp n = s.cmp n := by
  unfold State.cmp
  rw [h]

/-- The FLT pins leave the comparators, the self-test and the overrun counts. -/
theorem State.refreshFlt_sense (old : State) :
    (s.refreshFlt old).sense = { s.sense with
      fltLatched := (s.refreshFlt old).sense.fltLatched, fltStretch := (s.refreshFlt old).sense.fltStretch
      fltLevel := (s.refreshFlt old).sense.fltLevel } := by
  unfold State.refreshFlt
  split
  · dsimp only
    rw [(State.tripPwm_only _ _).sense_eq]
    rfl
  · rfl

/-- What arms in a change of one comparator. -/
theorem State.armAll_one (n : Nat) :
    s.armAll [n] = s ∨ s.armAll [n] = s.setCmp n { s.cmp n with armed := true } := by
  unfold State.armAll
  rw [List.foldl_cons, List.foldl_nil]
  split
  · exact .inr rfl
  · exact .inl rfl

/-- A change of one comparator: it may arm, no other record changes, and of the sense die only the FLT pins. -/
structure Changed (n : Nat) (s t : State) : Prop where
  cmp : t.cmp n = { s.cmp n with armed := (t.cmp n).armed }
  armed : (s.cmp n).armed = true → (t.cmp n).armed = true
  others : SameCmps n s t
  wf : Tab.wf t.sense.cmps = true
  test : t.sense.test = s.sense.test
  overrun : t.sense.blankOverrun = s.sense.blankOverrun
  quiet : Quiet s t

/-- What arms with a change of one comparator, and the FLT pins. -/
theorem State.armFlt_changed (h : Tab.wf s.sense.cmps = true) (old : State) (n : Nat) : Changed n s ((s.armAll [n]).refreshFlt old) := by
  have hq : Quiet s ((s.armAll [n]).refreshFlt old) :=
    .of_faultFrame ((FaultFrame.of_only (State.armAll_only _ _)).trans (.of_only (State.refreshFlt_only _ _)))
  have hf := State.refreshFlt_sense (s := s.armAll [n]) old
  generalize (s.armAll [n]).refreshFlt old = t at hq hf ⊢
  have hk {α : Type} (f : Sense → α) := congrArg f hf
  have hc : t.sense.cmps = (s.armAll [n]).sense.cmps := hk (·.cmps)
  have ht : t.sense.test = (s.armAll [n]).sense.test := hk (·.test)
  have hb : t.sense.blankOverrun = (s.armAll [n]).sense.blankOverrun := hk (·.blankOverrun)
  obtain ha | ha := State.armAll_one (s := s) n
  · rw [ha] at hc ht hb
    have hn := State.cmp_congr hc n
    exact ⟨by rw [hn], fun k => by rwa [hn], .of_eq hc, hc ▸ h, ht, hb, hq⟩
  · rw [ha] at hc ht hb
    have hn := (State.cmp_congr hc n).trans (State.setCmp_same h n _)
    exact ⟨by rw [hn], fun _ => by rw [hn], (State.setCmp_sameCmps h n _).trans (.of_eq hc), hc ▸ State.setCmp_wf h n _, ht, hb, hq⟩

theorem Changed.of_sense {n : Nat} {s t u : State} (h : Changed n s t) (hs : u.sense = t.sense) (hq : Quiet s u) : Changed n s u := by
  have hc : u.sense.cmps = t.sense.cmps := congrArg Sense.cmps hs
  have hn := State.cmp_congr hc n
  exact ⟨by rw [hn]; exact h.cmp, fun k => by rw [hn]; exact h.armed k, h.others.trans (.of_eq hc), hc ▸ h.wf, by rw [hs]; exact h.test,
    by rw [hs]; exact h.overrun, hq⟩

theorem State.senseChange_changed (h : Tab.wf s.sense.cmps = true) (old : State) (n : Nat) : Changed n s (s.senseChange old [n]) := by
  refine (State.armFlt_changed h old n).of_sense ?_ (State.senseChange_quiet old [n])
  unfold State.senseChange
  dsimp only
  split
  · rfl
  · exact (State.coreSees_only _ _ _).sense_eq

/-- A comparator whose override has ended delivers its decision, unless something still holds its output. -/
theorem State.reeval_leaves (h : Tab.wf s.sense.cmps = true) (n : Nat) :
    (s.reeval n).cmp n = { s.cmp n with out := if s.holdsOutput n then (s.cmp n).out else (s.cmp n).decided }
      ∧ SameCmps n s (s.reeval n) ∧ Tab.wf (s.reeval n).sense.cmps = true ∧ CmpsOnly s (s.reeval n) := by
  have ho := s.reeval_cmpsOnly n
  unfold State.reeval at ho ⊢
  dsimp only at ho ⊢
  split
  · exact ⟨rfl, .refl n s, h, .refl s⟩
  · rw [if_neg ‹_›] at ho
    exact ⟨State.setCmp_same h n _, State.setCmp_sameCmps h n _, State.setCmp_wf h n _, ho⟩

theorem CmpsOnly.test {s t : State} (h : CmpsOnly s t) : t.sense.test = s.sense.test := by
  obtain ⟨c, rfl⟩ := h
  rfl

theorem CmpsOnly.overrun {s t : State} (h : CmpsOnly s t) : t.sense.blankOverrun = s.sense.blankOverrun := by
  obtain ⟨c, rfl⟩ := h
  rfl

theorem CmpsOnly.only {s t : State} (h : CmpsOnly s t) : Only [.sense] s t := by
  obtain ⟨c, rfl⟩ := h
  exact (Only.refl _ s).mk_upd

/-- A comparator released from an override. -/
structure Released (n : Nat) (s t : State) : Prop where
  cmp : t.cmp n = { s.cmp n with
    out := if s.holdsOutput n then (s.cmp n).out else (s.cmp n).decided, armed := (t.cmp n).armed }
  others : SameCmps n s t
  test : t.sense.test = s.sense.test
  overrun : t.sense.blankOverrun = s.sense.blankOverrun
  quiet : Quiet s t

theorem State.release_released (h : Tab.wf s.sense.cmps = true) (old : State) (n : Nat) : Released n s (s.release old n) := by
  obtain ⟨h1, h2, h3, h4⟩ := State.reeval_leaves h n
  have hc := State.senseChange_changed h3 old n
  unfold State.release
  refine ⟨?_, h2.trans hc.others, hc.test.trans h4.test, hc.overrun.trans h4.overrun,
    (Quiet.of_faultFrame (.of_only h4.only)).trans hc.quiet⟩
  rw [hc.cmp, h1]

end

end Sys2Proof.Machine
end

section
/-! SUPPORT. The timers of a comparator (O10). -/

set_option Elab.async false

namespace Sys2Proof.Machine

/-! ## The end of an override -/

section
variable {s : State} {src : BitVec 8} {due : Nat}

theorem State.holdsOutput_eq {c : Cmp} {n : Nat} (h : s.cmp n = c) : s.holdsOutput n = (c.settle.isSome || c.blanked || s.underTest n) := by
  unfold State.holdsOutput
  rw [h]

/-- The state at an instant: its clocks alone differ. -/
theorem State.till_upd (n : Nat) : s.till n = { s with clk := (s.till n).clk } := (s.till_only n).clk_upd

theorem State.till_cmp (n x : Nat) : (s.till n).cmp x = s.cmp x := State.cmp_congr (by rw [(s.till_only n).sense_eq]) x

theorem State.till_wf (h : s.tablesOk = true) (n : Nat) : Tab.wf (s.till n).sense.cmps = true := by
  rw [(s.till_only n).sense_eq]
  exact tablesOk_cmps h

theorem State.till_underTest (n x : Nat) : (s.till n).underTest x = s.underTest x := by
  unfold State.underTest
  rw [(s.till_only n).sense_eq]

theorem SameCmps.till (n due : Nat) : SameCmps n s (s.till due) := .of_eq (by rw [(s.till_only due).sense_eq])

/-- The settle hold of comparator n has ended, and the test that it restores with it. -/
def State.unheld (s : State) (n : Nat) : State :=
  let u := s.setCmp n { s.cmp n with settle := none }
  if u.underTest n && u.sense.test.phase == 5 then u.endTest else u

theorem execSettleHoldEnd_ends (h : (s.cmp src.toNat).settle = some due) :
    execSettleHoldEnd src s = .next (((s.till due).unheld src.toNat).release (s.till due) src.toNat) := by
  unfold execSettleHoldEnd
  dsimp only
  rw [h]
  rfl

theorem execSettleHoldEnd_idle (h : (s.cmp src.toNat).settle = none) : execSettleHoldEnd src s = .next s := by
  unfold execSettleHoldEnd
  dsimp only
  rw [h]

theorem State.unheld_leaves (h : Tab.wf s.sense.cmps = true) (n : Nat) :
    (s.unheld n).cmp n = { s.cmp n with settle := none } ∧ SameCmps n s (s.unheld n) ∧ Tab.wf (s.unheld n).sense.cmps = true
      ∧ ((s.underTest n && s.sense.test.phase == 5) = true → (s.unheld n).sense.test.src = none)
      ∧ ((s.underTest n && s.sense.test.phase == 5) = false → (s.unheld n).underTest n = s.underTest n) ∧ Only [.sense] s (s.unheld n) := by
  have hc := State.setCmp_same h n { s.cmp n with settle := none }
  have ho := State.setCmp_sameCmps h n { s.cmp n with settle := none }
  have hw := State.setCmp_wf h n { s.cmp n with settle := none }
  have hu : (s.setCmp n { s.cmp n with settle := none }).underTest n = s.underTest n := rfl
  have hp : (s.setCmp n { s.cmp n with settle := none }).sense.test = s.sense.test := rfl
  have hs := s.setCmp_only n { s.cmp n with settle := none }
  unfold State.unheld
  dsimp only
  generalize s.setCmp n { s.cmp n with settle := none } = u at hc ho hw hu hp hs ⊢
  rw [hu, hp]
  split
  · exact ⟨hc, ho, hw, fun _ => rfl, fun k => absurd (‹_ = true›.symm.trans k) Bool.noConfusion, hs.mk_upd⟩
  · exact ⟨hc, ho, hw, fun k => absurd k ‹_›, fun _ => hu, hs⟩

theorem settleHoldEnd_answers (hT : s.tablesOk = true) (h : (s.cmp src.toNat).settle = some due) :
    Answers (.settleHoldEnd src) s fun t =>
      t.clk.now = max s.clk.now due ∧ (t.cmp src.toNat).settle = none
        ∧ ((s.cmp src.toNat).blanked = false → (s.underTest src.toNat = false ∨ s.sense.test.phase = 5) →
            (t.cmp src.toNat).out = (s.cmp src.toNat).decided)
        ∧ ((s.cmp src.toNat).blanked = true ∨ s.underTest src.toNat = true ∧ s.sense.test.phase ≠ 5 →
            (t.cmp src.toNat).out = (s.cmp src.toNat).out)
        ∧ (s.underTest src.toNat = true → s.sense.test.phase = 5 → t.sense.test.src = none)
        ∧ SameCmps src.toNat s t ∧ t.out.en = s.out.en ∧ t.cfg = s.cfg := by
  refine Answers.of_exec (execSettleHoldEnd_ends h) ?_
  generalize src.toNat = n at h ⊢
  obtain ⟨hc, ho, hw, ht, hk, hs⟩ := State.unheld_leaves (State.till_wf hT due) n
  have hr := State.release_released hw (s.till due) n
  have hclk := State.till_clock (s := s) due
  have hu := s.till_only due
  rw [State.till_cmp] at hc
  rw [State.till_underTest, hu.sense_eq] at ht hk
  have ho := (SameCmps.till n due).trans ho
  generalize s.till due = u at hc ho hw ht hk hs hr hclk hu
  generalize u.unheld n = v at hc ho hw ht hk hs hr ⊢
  have hv : v.holdsOutput n = ((s.cmp n).blanked || v.underTest n) := (State.holdsOutput_eq hc).trans rfl
  have hd : (v.cmp n).decided = (s.cmp n).decided := by
    rw [hc]
    rfl
  have hout := congrArg Cmp.out hr.cmp
  dsimp only at hout
  rw [hv, hd] at hout
  refine ⟨?_, ?_, fun hb hx => ?_, fun hx => ?_, fun hx hp => ?_, ho.trans hr.others, ?_, ?_⟩
  · rw [hr.quiet.now, hs.clk_eq, hclk]
  · rw [hr.cmp, hc]
  · have hvt : v.underTest n = false := by
      cases hx : (s.underTest n && s.sense.test.phase == 5)
      · rw [hk hx]
        rcases ‹_ ∨ _› with k | k
        · exact k
        · rw [k] at hx
          exact (Bool.and_true _).symm.trans hx
      · unfold State.underTest
        rw [ht hx]
        rfl
    rw [hout, hb, hvt]
    rfl
  · have : ((s.cmp n).blanked || v.underTest n) = true := by
      rcases hx with hx | ⟨hx, hp⟩
      · rw [hx]
        rfl
      · rw [hk (by rw [hx, Bool.true_and]; exact beq_false_of_ne hp), hx, Bool.or_true]
    rw [hout, this, if_pos rfl, hc]
  · rw [hr.test]
    exact ht (by rw [hx, hp]; rfl)
  · rw [hr.quiet.en, hs.out_eq, hu.out_eq]
  · rw [hr.quiet.stores.2.1, hs.cfg_eq, hu.cfg_eq]

/-! ## Rows that act on one comparator at their tick -/

/-- Comparator n is c at an instant, the other comparators and all other parts as before. -/
structure AtTick (n due : Nat) (c : Cmp) (s v : State) : Prop where
  now : v.clk.now = max s.clk.now due
  cmp : v.cmp n = c
  others : SameCmps n s v
  wf : Tab.wf v.sense.cmps = true
  underTest : v.underTest n = s.underTest n
  only : Only [.clk, .sense] s v

theorem State.setCmp_atTick (hT : s.tablesOk = true) (n due : Nat) (c : Cmp) : AtTick n due c s ((s.till due).setCmp n c) := by
  have hw := State.till_wf hT due
  have ho := s.till_only due
  exact ⟨State.till_clock (s := s) due, State.setCmp_same hw n c, (SameCmps.till n due).trans (State.setCmp_sameCmps hw n c),
    State.setCmp_wf hw n c, State.till_underTest due n, (ho.mono rfl).trans ((State.setCmp_only _ n c).mono rfl)⟩

/-- An override of comparator n has ended at an instant. -/
theorem AtTick.release {n : Nat} {c : Cmp} {v : State} (h : AtTick n due c s v) (old : State) :
    (v.release old n).clk.now = max s.clk.now due
      ∧ (v.release old n).cmp n = { c with
          out := if c.settle.isSome || c.blanked || s.underTest n then c.out else c.decided, armed := ((v.release old n).cmp n).armed }
      ∧ SameCmps n s (v.release old n) ∧ (v.release old n).sense.blankOverrun = v.sense.blankOverrun
      ∧ Quiet v (v.release old n) ∧ (v.release old n).out.en = s.out.en ∧ (v.release old n).cfg = s.cfg := by
  have hr := State.release_released h.wf old n
  refine ⟨hr.quiet.now.trans h.now, ?_, h.others.trans hr.others, hr.overrun, hr.quiet, ?_, ?_⟩
  · have hc := hr.cmp
    rw [State.holdsOutput_eq h.cmp, h.cmp, h.underTest] at hc
    exact hc
  · rw [hr.quiet.en, h.only.out_eq]
  · rw [hr.quiet.stores.2.1, h.only.cfg_eq]

theorem State.till_cmpCfg (n x : Nat) : (s.till n).cmpCfg x = s.cmpCfg x := by
  rw [s.till_upd n]
  rfl

theorem State.till_cmpEnblank (n x : Nat) : (s.till n).cmpEnblank x = s.cmpEnblank x := by
  rw [s.till_upd n]
  rfl

theorem State.till_blankWidth (n x : Nat) : (s.till n).blankWidth x = s.blankWidth x := by
  rw [s.till_upd n]
  rfl

theorem State.till_syncBlanks (n x : Nat) : (s.till n).syncBlanks x = s.syncBlanks x := by
  have hc : (s.till n).clk.corePll = s.clk.corePll := by
    have hr : (s.till n).clk = _ := State.till_ran (s := s) n
    rw [hr]
  have hs : (s.till n).syncUses x = s.syncUses x := by
    rw [s.till_upd n]
    rfl
  unfold State.syncBlanks
  rw [hc, hs]

theorem pwmsyncWindowOpen_opens (hT : s.tablesOk = true) (h : (s.cmp src.toNat).syncOpen = some due) (hb : s.syncBlanks src.toNat = true)
    (hl : (s.cmp src.toNat).syncLock ≤ max s.clk.now due) :
    Answers (.pwmsyncWindowOpen src) s fun t =>
      t.clk.now = max s.clk.now due
        ∧ t.cmp src.toNat = { s.cmp src.toNat with
            syncOpen := none, syncSince := t.clk.now, syncClose := some (t.clk.now + s.blankWidth src.toNat) }
        ∧ SameCmps src.toNat s t ∧ Only [.clk, .sense] s t := by
  refine Answers.of_exec (t := (s.till due).setCmp src.toNat { s.cmp src.toNat with
    syncOpen := none, syncSince := (s.till due).clk.now, syncClose := some ((s.till due).clk.now + s.blankWidth src.toNat) }) ?_ ?_
  · unfold exec execPwmsyncWindowOpen
    dsimp only
    rw [h]
    dsimp only
    rw [State.till_syncBlanks, State.till_cmp, hb, State.till_clock, Bool.true_and, if_pos (decide_eq_true hl), State.till_blankWidth]
  · have ha := State.setCmp_atTick hT src.toNat due { s.cmp src.toNat with
      syncOpen := none, syncSince := (s.till due).clk.now, syncClose := some ((s.till due).clk.now + s.blankWidth src.toNat) }
    exact ⟨ha.now, ha.cmp, ha.others, ha.only⟩

theorem pwmsyncWindowOpen_passes (hT : s.tablesOk = true) (h : (s.cmp src.toNat).syncOpen = some due)
    (hb : s.syncBlanks src.toNat = false ∨ max s.clk.now due < (s.cmp src.toNat).syncLock) :
    Answers (.pwmsyncWindowOpen src) s fun t =>
      t.clk.now = max s.clk.now due ∧ t.cmp src.toNat = { s.cmp src.toNat with syncOpen := none }
        ∧ SameCmps src.toNat s t ∧ Only [.clk, .sense] s t := by
  refine Answers.of_exec (t := (s.till due).setCmp src.toNat { s.cmp src.toNat with syncOpen := none }) ?_ ?_
  · unfold exec execPwmsyncWindowOpen
    dsimp only
    rw [h]
    dsimp only
    rw [State.till_syncBlanks, State.till_cmp, State.till_clock, if_neg]
    rw [Bool.and_eq_true, decide_eq_true_eq]
    rintro ⟨k, l⟩
    rcases hb with hb | hb
    · exact absurd (k.symm.trans hb) Bool.noConfusion
    · omega
  · have ha := State.setCmp_atTick hT src.toNat due { s.cmp src.toNat with syncOpen := none }
    exact ⟨ha.now, ha.cmp, ha.others, ha.only⟩

theorem pwmsyncWindowClose_answers (hT : s.tablesOk = true) (h : (s.cmp src.toNat).syncClose = some due)
    (hd : due < (s.cmp src.toNat).syncSince + syncLimit) :
    Answers (.pwmsyncWindowClose src) s fun t =>
      t.clk.now = max s.clk.now due ∧ (t.cmp src.toNat).syncClose = none
        ∧ (t.cmp src.toNat).out = (if (s.cmp src.toNat).settle.isSome || (s.cmp src.toNat).enClose.isSome || s.underTest src.toNat
            then (s.cmp src.toNat).out else (s.cmp src.toNat).decided)
        ∧ SameCmps src.toNat s t ∧ t.out.en = s.out.en ∧ t.cfg = s.cfg := by
  have ha := State.setCmp_atTick hT src.toNat due { s.cmp src.toNat with syncClose := none }
  refine Answers.of_exec (t := ((s.till due).setCmp src.toNat { s.cmp src.toNat with syncClose := none }).release (s.till due) src.toNat) ?_ ?_
  · unfold exec execPwmsyncWindowClose
    dsimp only
    rw [h]
    dsimp only
    rw [if_pos hd, State.till_cmp]
  · obtain ⟨h1, h2, h3, -, -, h5, h6⟩ := ha.release (s.till due)
    generalize ((s.till due).setCmp src.toNat { s.cmp src.toNat with syncClose := none }).release (s.till due) src.toNat = t
      at h1 h2 h3 h5 h6 ⊢
    exact ⟨h1, by rw [h2], by rw [h2]; rfl, h3, h5, h6⟩

theorem enableWindowOpen_answers (hT : s.tablesOk = true) (h : (s.cmp src.toNat).enOpen = some due) :
    Answers (.enableWindowOpen src) s fun t =>
      t.clk.now = max s.clk.now due
        ∧ t.cmp src.toNat = { s.cmp src.toNat with
            enOpen := none
            enClose := if fld (s.cmpEnblank src.toNat) 15 0 = 0 then none
              else some (t.clk.now + fld (s.cmpEnblank src.toNat) 15 0 * usTicks) }
        ∧ SameCmps src.toNat s t ∧ Only [.clk, .sense] s t := by
  have ha := State.setCmp_atTick hT src.toNat due { s.cmp src.toNat with
    enOpen := none
    enClose := if fld (s.cmpEnblank src.toNat) 15 0 = 0 then none
      else some ((s.till due).clk.now + fld (s.cmpEnblank src.toNat) 15 0 * usTicks) }
  refine Answers.of_exec ?_ ⟨ha.now, ha.cmp, ha.others, ha.only⟩
  unfold exec execEnableWindowOpen
  dsimp only
  rw [h]
  dsimp only
  rw [State.till_cmp, State.till_cmpEnblank]

theorem enableWindowClose_answers (hT : s.tablesOk = true) (h : (s.cmp src.toNat).enClose = some due) :
    Answers (.enableWindowClose src) s fun t =>
      t.clk.now = max s.clk.now due ∧ (t.cmp src.toNat).enClose = none
        ∧ (t.cmp src.toNat).out = (if (s.cmp src.toNat).settle.isSome || (s.cmp src.toNat).syncClose.isSome || s.underTest src.toNat
            then (s.cmp src.toNat).out else (s.cmp src.toNat).decided)
        ∧ SameCmps src.toNat s t ∧ t.out.en = s.out.en ∧ t.cfg = s.cfg := by
  have ha := State.setCmp_atTick hT src.toNat due { s.cmp src.toNat with enClose := none }
  refine Answers.of_exec (t := ((s.till due).setCmp src.toNat { s.cmp src.toNat with enClose := none }).release (s.till due) src.toNat) ?_ ?_
  · unfold exec execEnableWindowClose
    dsimp only
    rw [h]
    dsimp only
    rw [State.till_cmp]
  · obtain ⟨h1, h2, h3, -, -, h5, h6⟩ := ha.release (s.till due)
    generalize ((s.till due).setCmp src.toNat { s.cmp src.toNat with enClose := none }).release (s.till due) src.toNat = t
      at h1 h2 h3 h5 h6 ⊢
    have hb : ({ s.cmp src.toNat with enClose := none } : Cmp).blanked = (s.cmp src.toNat).syncClose.isSome := Bool.or_false _
    rw [hb] at h2
    exact ⟨h1, by rw [h2], by rw [h2]; rfl, h3, h5, h6⟩

theorem Ramp.advance_some {r q : Ramp} {target : Nat} (h : r.advance target = some q) :
    q.pos = (if r.up then r.pos + 1 else r.pos - 1) ∧ q.next = r.next + r.div := by
  unfold Ramp.advance at h
  dsimp only at h
  generalize (if r.up then r.pos + 1 else r.pos - 1) = p at h ⊢
  split at h
  · cases h
  · cases h
    exact ⟨rfl, rfl⟩

/-- One more overrun of PWMSYNC blanking of a rail. -/
def State.countOverrun (s : State) (rail : Nat) : State :=
  { s with sense := { s.sense with
      blankOverrun := Tab.put 0 s.sense.blankOverrun rail (inc 65535 (Tab.getD s.sense.blankOverrun rail 0)) } }

theorem State.countOverrun_counts (rail : Nat) :
    Tab.getD (s.countOverrun rail).sense.blankOverrun rail 0 = inc 65535 (Tab.getD s.sense.blankOverrun rail 0) := by
  have hi : inc 65535 (Tab.getD s.sense.blankOverrun rail 0) ≠ 0 := by
    unfold inc
    split <;> omega
  unfold State.countOverrun
  dsimp only
  generalize inc 65535 (Tab.getD s.sense.blankOverrun rail 0) = k at hi ⊢
  unfold Tab.put Tab.getD
  rw [if_neg hi, Tab.get?_insert_self]
  rfl

theorem AtTick.counted {n : Nat} {c : Cmp} {v : State} (h : AtTick n due c s v) (rail : Nat) :
    AtTick n due c s (v.countOverrun rail) :=
  ⟨h.now, h.cmp, h.others, h.wf, h.underTest, h.only.mk_upd⟩

theorem rampDacStep_answers {r : Ramp} (hT : s.tablesOk = true) (h : (s.cmp src.toNat).ramp = some r) :
    Answers (.rampDacStep src) s fun t =>
      t.clk.now = max s.clk.now r.next
        ∧ t.cmp src.toNat = { s.cmp src.toNat with ramp := r.advance (fld (s.cmpCfg src.toNat) 11 0) }
        ∧ (∀ q, (t.cmp src.toNat).ramp = some q → q.pos = (if r.up then r.pos + 1 else r.pos - 1) ∧ q.next = r.next + r.div)
        ∧ SameCmps src.toNat s t ∧ Only [.clk, .sense] s t := by
  have ha := State.setCmp_atTick hT src.toNat r.next { s.cmp src.toNat with ramp := r.advance (fld (s.cmpCfg src.toNat) 11 0) }
  refine Answers.of_exec ?_ ⟨ha.now, ha.cmp, fun q hq => ?_, ha.others, ha.only⟩
  · unfold exec execRampDacStep
    dsimp only
    rw [h]
    dsimp only
    rw [State.till_cmp, State.till_cmpCfg]
  · rw [ha.cmp] at hq
    exact Ramp.advance_some hq

theorem execBlankingOverrun_ends (h : (s.cmp src.toNat).syncClose = some due) (hd : (s.cmp src.toNat).syncSince + syncLimit ≤ due)
    {t u : State} (ht : s.till ((s.cmp src.toNat).syncSince + syncLimit) = t)
    (hu : t.setCmp src.toNat { t.cmp src.toNat with syncClose := none, syncLock := t.clk.now + 256 } = u) :
    execBlankingOverrun src s = .next (((u.countOverrun (src.toNat / 4)).release t src.toNat).senseFault (wFault 7 src.toNat)) := by
  unfold execBlankingOverrun
  dsimp only
  rw [h]
  dsimp only
  rw [if_neg (by omega), ht, hu]
  rfl

theorem blankingOverrun_answers (hT : s.tablesOk = true) (h : (s.cmp src.toNat).syncClose = some due)
    (hd : (s.cmp src.toNat).syncSince + syncLimit ≤ due) :
    Answers (.blankingOverrun src) s fun t =>
      t.clk.now = max s.clk.now ((s.cmp src.toNat).syncSince + syncLimit) ∧ (t.cmp src.toNat).syncClose = none
        ∧ (t.cmp src.toNat).syncLock = t.clk.now + 256
        ∧ (t.cmp src.toNat).out = (if (s.cmp src.toNat).settle.isSome || (s.cmp src.toNat).enClose.isSome || s.underTest src.toNat
            then (s.cmp src.toNat).out else (s.cmp src.toNat).decided)
        ∧ Tab.getD t.sense.blankOverrun (src.toNat / 4) 0 = inc 65535 (Tab.getD s.sense.blankOverrun (src.toNat / 4) 0)
        ∧ SameCmps src.toNat s t ∧ t.out.en = s.out.en ∧ t.cfg = s.cfg := by
  refine Answers.of_exec (execBlankingOverrun_ends h hd rfl rfl) ?_
  generalize src.toNat = n
  generalize hl : (s.cmp n).syncSince + syncLimit = limit
  rw [State.till_cmp]
  have ha := State.setCmp_atTick hT n limit { s.cmp n with syncClose := none, syncLock := (s.till limit).clk.now + 256 }
  have hnow := State.till_clock (s := s) limit
  have hcount : ((s.till limit).setCmp n { s.cmp n with syncClose := none, syncLock := (s.till limit).clk.now + 256 }).sense.blankOverrun
      = s.sense.blankOverrun := by
    rw [← (s.till_only limit).sense_eq]
    rfl
  generalize s.till limit = u at ha hnow hcount ⊢
  generalize u.setCmp n { s.cmp n with syncClose := none, syncLock := u.clk.now + 256 } = v at ha hcount ⊢
  obtain ⟨h1, h2, h3, h4, h5, h6, h7⟩ := (ha.counted (n / 4)).release u
  have hk := v.countOverrun_counts (n / 4)
  generalize v.countOverrun (n / 4) = w at h1 h2 h3 h4 h5 h6 h7 hk ⊢
  generalize w.release u n = r at h1 h2 h3 h4 h5 h6 h7 ⊢
  have hf := State.senseFault_quiet (s := r) (wFault 7 n)
  have ho := r.senseFault_only (wFault 7 n)
  generalize r.senseFault (wFault 7 n) = t at hf ho ⊢
  have hc : t.cmp n = r.cmp n := State.cmp_congr (by rw [ho.sense_eq]) n
  rw [hc, h2, ho.sense_eq, hf.now, h1, ← hnow]
  refine ⟨rfl, rfl, rfl, rfl, ?_, h3.trans (.of_eq (by rw [ho.sense_eq])), hf.en.trans h6, ho.cfg_eq.trans h7⟩
  rw [h4, hk, hcount]

/-! ## A PWMSYNC edge (R78, R79) -/

/-- A comparator after a PWMSYNC edge that it takes. -/
def State.edgeCmp (s : State) (x : Nat) (c : Cmp) : Cmp :=
  if c.syncClose.isSome then { c with syncClose := some (s.clk.now + 3 + s.blankDelay x + s.blankWidth x) }
  else { c with syncOpen := some (s.clk.now + 3 + s.blankDelay x) }

/-- Comparator x takes the edges of a pin. -/
def State.takesEdge (s : State) (pin x : Nat) : Bool := s.syncUses x && fld (s.cmpCfg x) 25 24 == pin

/-- A PWMSYNC edge at one comparator. -/
def State.edgeAt (s : State) (pin x : Nat) : State := if s.takesEdge pin x then s.syncEdge x else s

theorem State.syncEdge_eq (x : Nat) : s.syncEdge x = s.setCmp x (s.edgeCmp x (s.cmp x)) := by
  unfold State.syncEdge State.edgeCmp
  dsimp only
  split <;> rfl

theorem State.edgeAt_leaves (h : Tab.wf s.sense.cmps = true) (pin x : Nat) :
    (s.edgeAt pin x).cmp x = (if s.takesEdge pin x then s.edgeCmp x (s.cmp x) else s.cmp x) ∧ SameCmps x s (s.edgeAt pin x)
      ∧ Tab.wf (s.edgeAt pin x).sense.cmps = true ∧ CmpsOnly s (s.edgeAt pin x) := by
  unfold State.edgeAt
  split
  · rw [State.syncEdge_eq]
    exact ⟨State.setCmp_same h x _, State.setCmp_sameCmps h x _, State.setCmp_wf h x _, s.setCmp_cmpsOnly _ _⟩
  · exact ⟨rfl, .refl x s, h, .refl s⟩

theorem CmpsOnly.takesEdge {t : State} (h : CmpsOnly s t) (pin x : Nat) : t.takesEdge pin x = s.takesEdge pin x := by
  obtain ⟨c, rfl⟩ := h
  rfl

theorem CmpsOnly.edgeCmp {t : State} (h : CmpsOnly s t) (x : Nat) (c : Cmp) : t.edgeCmp x c = s.edgeCmp x c := by
  obtain ⟨d, rfl⟩ := h
  rfl

/-- A PWMSYNC edge at the comparators of a list, each of which it reaches once. -/
theorem State.edges_leave (pin : Nat) (l : List Nat) (hl : l.Nodup) (h : Tab.wf s.sense.cmps = true) :
    CmpsOnly s (l.foldl (fun t x => t.edgeAt pin x) s)
      ∧ ∀ x, (l.foldl (fun t x => t.edgeAt pin x) s).cmp x = if x ∈ l ∧ s.takesEdge pin x = true then s.edgeCmp x (s.cmp x) else s.cmp x := by
  induction l generalizing s with
  | nil => exact ⟨.refl s, fun x => (if_neg (fun k => absurd k.1 List.not_mem_nil)).symm⟩
  | cons y l ih =>
    obtain ⟨hy, hn⟩ := List.nodup_cons.1 hl
    obtain ⟨h1, h2, h3, h4⟩ := State.edgeAt_leaves h pin y
    obtain ⟨k1, k2⟩ := ih hn h3
    refine ⟨h4.trans k1, fun x => (k2 x).trans ?_⟩
    rw [h4.takesEdge, h4.edgeCmp]
    by_cases hx : x = y
    · subst hx
      rw [if_neg (fun k => hy k.1), h1]
      by_cases hu : s.takesEdge pin x = true
      · rw [if_pos hu, if_pos ⟨List.mem_cons_self, hu⟩]
      · rw [if_neg hu, if_neg (fun k => hu k.2)]
    · rw [h2 x hx]
      simp only [List.mem_cons, hx, false_or]

theorem pwmsyncEdge_answers (hT : s.tablesOk = true) (pin : BitVec 2) :
    Answers (.pwmsyncEdge pin) s fun t =>
      Only [.sense] s t
        ∧ ∀ x, x < 256 →
          (s.syncUses x = true ∧ fld (s.cmpCfg x) 25 24 = pin.toNat →
            ((s.cmp x).syncClose ≠ none →
                t.cmp x = { s.cmp x with syncClose := some (s.clk.now + 3 + s.blankDelay x + s.blankWidth x) })
              ∧ ((s.cmp x).syncClose = none → t.cmp x = { s.cmp x with syncOpen := some (s.clk.now + 3 + s.blankDelay x) }))
          ∧ (¬ (s.syncUses x = true ∧ fld (s.cmpCfg x) 25 24 = pin.toNat) → t.cmp x = s.cmp x) := by
  obtain ⟨h1, h2⟩ := State.edges_leave (s := s) pin.toNat (List.range 256) List.nodup_range (tablesOk_cmps hT)
  refine Answers.of_exec (t := (List.range 256).foldl (fun t x => t.edgeAt pin.toNat x) s) rfl ⟨h1.only, fun x hx => ?_⟩
  have hk : s.takesEdge pin.toNat x = true ↔ s.syncUses x = true ∧ fld (s.cmpCfg x) 25 24 = pin.toNat := by
    unfold State.takesEdge
    rw [Bool.and_eq_true, beq_iff_eq]
  rw [h2 x, ← hk]
  refine ⟨fun k => ?_, fun k => if_neg (fun q => k q.2)⟩
  rw [if_pos ⟨List.mem_range.2 hx, k⟩]
  unfold State.edgeCmp
  exact ⟨fun q => if_pos (Option.isSome_iff_ne_none.2 q), fun q => if_neg (by rw [q]; exact Bool.false_ne_true)⟩

end

/-- Settles O10, by what each row writes to its comparator at its tick, and by what a comparator released from an override delivers. -/
theorem comparatorTimers : Obligations.ComparatorTimers := by
  unfold Obligations.ComparatorTimers
  have hidle {src : BitVec 8} {s : State} (h : (s.cmp src.toNat).syncClose = none) :
      execPwmsyncWindowClose src s = .next s ∧ execBlankingOverrun src s = .next s := by
    unfold execPwmsyncWindowClose execBlankingOverrun
    dsimp only
    rw [h]
    exact ⟨rfl, rfl⟩
  refine ⟨fun src due s => settleHoldEnd_answers, fun src s h => Answers.of_exec (execSettleHoldEnd_idle h) rfl,
    fun src due s => pwmsyncWindowOpen_opens, fun src due s => pwmsyncWindowOpen_passes, fun src due s => pwmsyncWindowClose_answers,
    fun src due s => blankingOverrun_answers, fun src due s => enableWindowOpen_answers, fun src due s => enableWindowClose_answers,
    fun src s h => Answers.of_exec (t := s) ?_ rfl, fun src s h => ⟨Answers.of_exec (hidle h).1 rfl, Answers.of_exec (hidle h).2 rfl⟩,
    fun src s h => Answers.of_exec (t := s) ?_ rfl, fun src s h => Answers.of_exec (t := s) ?_ rfl,
    fun src s h => Answers.of_exec (t := s) ?_ rfl, fun src r s => rampDacStep_answers, fun pin s hT => pwmsyncEdge_answers hT pin⟩
  · unfold exec execPwmsyncWindowOpen
    dsimp only
    rw [h]
  · unfold exec execEnableWindowOpen
    dsimp only
    rw [h]
  · unfold exec execEnableWindowClose
    dsimp only
    rw [h]
  · unfold exec execRampDacStep
    dsimp only
    rw [h]

end Sys2Proof.Machine
end

section
/-! SUPPORT. The bus clear at the end of Cooling (O8). -/

set_option Elab.async false

namespace Sys2Proof.Machine

/-! ## The bus clear at the end of Cooling -/

/-- A device in Cooling with every rail released and two-wire port 0 enabled and idle, whose sweep is due. -/
def sweepsLast : State :=
  ({ ready with pm.state := .cooling, walk := { ready.walk with active := true, sweepDue := some 0 } } : State).withReg 0xB0000 0x80000000

/-- Refutes O8: its clause on the sweep that ends Cooling holds the two-wire ports to stay. At entry to Ready every enabled port performs a bus
clear (R293), and the one that is idle in the state given here begins it in that tick. -/
theorem not_coolingAndQueue : ¬ Obligations.CoolingAndQueue := by
  unfold Obligations.CoolingAndQueue
  rintro ⟨-, -, -, -, -, -, -, -, h, -⟩
  obtain ⟨t, ht, -, -, -, -, -, -, -, -, ho⟩ := h 0 sweepsLast (by decide +kernel) rfl rfl (by decide +kernel) (by decide +kernel) (by decide +kernel)
  have hx : afterRow .coolingSweep sweepsLast (fun t => (t.port2 0).activity == 3) = true := by decide +kernel
  have hw : (t.port2 0) = sweepsLast.port2 0 := by
    unfold State.port2
    rw [ho.tw_eq]
  rw [afterRow_next ht, hw] at hx
  exact absurd hx (by decide)

end Sys2Proof.Machine
end

section
/-! SUPPORT. A short press told late (O6). -/

set_option Elab.async false

namespace Sys2Proof.Machine

/-! ## A short press told late -/

/-- A device in Firing for an on request of the tick at which a short press of 1,639 periods ended, one tick ago. -/
def pressedLate : State :=
  ({ ready with
      pm.state := .firing, clk.now := aonTicks 2294 + 1
      ctl := { ready.ctl with pbMode := .pressed, pbAt := 0, lastOn := some (aonTicks 2294, 0x10) } } : State).withReg 0x60000 1

/-- Refutes O6: its clause on a short press in Firing asks that no on request joins at the tick to which the row brings the device. Where the
row is told later than the press has ended, as in the state given here, the request is judged at the end of the press, and joins the on request
of that tick: no shutdown starts. -/
theorem not_pbPresses : ¬ Obligations.PbPresses := by
  unfold Obligations.PbPresses
  rintro ⟨-, -, -, -, -, -, -, -, -, h, -⟩
  obtain ⟨t, ht, -, -, ⟨hc, -⟩, -⟩ := h 1639 pressedLate (by decide +kernel) rfl (by decide) (by decide) (by decide +kernel)
    (.inl rfl) (by decide +kernel)
  have hx : afterRow (.pbShortPress 1639) pressedLate (fun t => t.pm.state == .firing) = true := by decide +kernel
  rw [afterRow_next ht, hc] at hx
  exact absurd hx (by decide)

end Sys2Proof.Machine
end

section
/-! SUPPORT. Faults received in Cooling, Starting and Standby (O7, O9). -/

set_option Elab.async false

namespace Sys2Proof.Machine

/-! ## The records of a fault -/

/-- The records that a fault leaves, and the queue that it leaves alone. -/
structure Noted (f : FaultRec) (stamp : Nat) (s t : State) : Prop where
  queue : t.fault.queue = s.fault.queue
  overflow : t.fault.overflow = s.fault.overflow
  first : t.fault.first = some (s.fault.first.getD (f, stamp))
  filled : t.fault.bisque.filled = true

section
variable {s : State} {f : FaultRec} {table : Nat}

theorem State.irqCt_bit (s : State) {i : Nat} (hi : i < 32) : bit (s.irqCt i).irq.ct i = true := bit_putBit_same _ hi _

/-- The bisque record is filled, and the queue and the first fault's record stay. -/
theorem State.recordBisque_leaves (s : State) (f : FaultRec) (stamp : Nat) : (s.recordBisque f stamp).fault.bisque.filled = true
    ∧ (s.recordBisque f stamp).fault.queue = s.fault.queue ∧ (s.recordBisque f stamp).fault.overflow = s.fault.overflow
    ∧ (s.recordBisque f stamp).fault.first = s.fault.first ∧ Only [.fault] s (s.recordBisque f stamp) := by
  unfold State.recordBisque
  split
  · exact ⟨‹_›, rfl, rfl, rfl, .refl _ s⟩
  · exact ⟨rfl, rfl, rfl, rfl, (Only.refl _ s).mk_upd⟩

theorem State.recordFault_noted (s : State) (f : FaultRec) : Noted f s.faultStamp s (s.recordFault f) := by
  obtain ⟨h1, h2, h3, h4, -⟩ := State.recordBisque_leaves (s.setLatch.recordFirst f s.faultStamp) f s.faultStamp
  exact ⟨h2, h3, h4, h1⟩

theorem State.faultStamp_cooling (h : s.pm.state = .cooling) : s.faultStamp = s.clk.stamp := by
  unfold State.faultStamp
  rw [h]

/-! ## The fault queue (R145) -/

/-- What the queue makes of a fault: a repeat counts where it stands, and another one joins the queue or finds it full. -/
theorem State.enqueue_fault (s : State) (f : FaultRec) (table : Nat) {r : State} (hr : s.recordFault f = r) :
    (∀ e, r.fault.queue.find? (fun d => d.same f) = some e → (s.enqueue f table).fault = { r.fault with
        queue := r.fault.queue.map (fun d => if d.same f then { d with repeats := inc 63 e.repeats } else d) })
      ∧ (r.fault.queue.find? (fun d => d.same f) = none → r.fault.queue.length < 16 →
          (s.enqueue f table).fault = { r.fault with queue := r.fault.queue ++ [⟨f, r.clk.stamp, 0⟩] }
            ∧ bit (s.enqueue f table).irq.ct 2 = true)
      ∧ (r.fault.queue.find? (fun d => d.same f) = none → 16 ≤ r.fault.queue.length →
          (s.enqueue f table).fault = { r.fault with overflow := inc 255 r.fault.overflow } ∧ bit (s.enqueue f table).irq.ct 3 = true) := by
  unfold State.enqueue
  dsimp only
  rw [hr]
  refine ⟨fun e he => ?_, fun hn hl => ?_, fun hn hl => ?_⟩
  · rw [he]
    rfl
  · rw [hn]
    dsimp only
    rw [if_pos hl]
    exact ⟨rfl, State.irqCt_bit _ (by decide)⟩
  · rw [hn]
    dsimp only
    rw [if_neg (by omega)]
    exact ⟨rfl, State.irqCt_bit _ (by decide)⟩

/-- A fault that the queue takes in Cooling. -/
theorem State.enqueue_queued (hs : s.pm.state = .cooling) : Queued f s (s.enqueue f table) := by
  have hn := s.recordFault_noted f
  have hp := (s.enqueue_pm f table).1
  have hc : (s.enqueue f table).clk = s.clk := (s.enqueue_only f table).clk_eq
  have hrc : (s.recordFault f).clk = s.clk := (s.recordFault_only f).clk_eq
  obtain ⟨k1, k2, k3⟩ := s.enqueue_fault f table rfl
  rw [State.faultStamp_cooling hs, ← hc] at hn
  generalize s.enqueue f table = t at hn hp hc k1 k2 k3 ⊢
  rw [hrc, ← hc] at k2
  generalize s.recordFault f = r at hn k1 k2 k3
  obtain ⟨hq, ho, hf, hb⟩ := hn
  rw [hq] at k1 k2 k3
  rw [ho] at k3
  have hall : t.fault.first = r.fault.first ∧ t.fault.bisque = r.fault.bisque := by
    cases hx : s.fault.queue.find? (fun d => d.same f) with
    | some e =>
      rw [k1 e hx]
      exact ⟨rfl, rfl⟩
    | none =>
      by_cases hl : s.fault.queue.length < 16
      · rw [(k2 hx hl).1]
        exact ⟨rfl, rfl⟩
      · rw [(k3 hx (by omega)).1]
        exact ⟨rfl, rfl⟩
  refine ⟨fun e he => ?_, fun hx hl => ?_, fun hx hl => ?_, by rw [hp], hall.1.trans hf, by rw [hall.2, hb]⟩
  · rw [k1 e he]
    exact ⟨rfl, ho⟩
  · obtain ⟨h1, h2⟩ := k2 hx hl
    rw [h1]
    exact ⟨rfl, ho, h2⟩
  · obtain ⟨h1, h2⟩ := k3 hx hl
    rw [h1]
    exact ⟨hq, rfl, h2⟩

/-- What queueing reads of a state, but for the walk, the outputs and what a lower part counts. -/
theorem Queued.of_eq {u t : State} (h : Queued f u t) (hf : u.fault = s.fault) : Queued f s t := by
  unfold Queued at h ⊢
  rwa [hf] at h

/-! ## Faults received in Cooling (Table 05.6) -/

/-- A fault of grade T in Cooling is queued, with TRIPO after the trip delay. -/
theorem State.coolT_leaves (hs : s.pm.state = .cooling) : Queued f s (s.coolT f table) ∧ (s.coolT f table).out = s.out
    ∧ (s.coolT f table).walk = { s.walk with
        tripDue := if s.out.tripo || s.walk.tripDue.isSome then s.walk.tripDue else some (s.clk.now + s.tripTicks) } := by
  have hq := State.enqueue_queued (f := f) (table := table) hs
  have he := s.enqueue_only f table
  have hx : (s.enqueue f table).tripTicks = s.tripTicks := by
    unfold State.tripTicks
    rw [he.cfgAt_eq]
  have ho := he.out_eq
  have hw := he.walk_eq
  have hc := he.clk_eq
  unfold State.coolT
  dsimp only
  generalize s.enqueue f table = u at hq hx ho hw hc ⊢
  split
  · rename_i h
    rw [ho, hw] at h
    exact ⟨hq, ho, by rw [if_pos h, hw]⟩
  · rename_i h
    rw [ho, hw] at h
    refine ⟨hq, ho, ?_⟩
    rw [if_neg h]
    dsimp only
    rw [hw, hc, hx]

/-- A fault of grade H in Cooling, under a table that is no H table, switches the walk to its own. -/
theorem State.coolH_switches (hs : s.pm.state = .cooling) (hh : s.isHTable s.walk.table = false) :
    Switched table f s (s.coolH f table) ∧ (s.coolH f table).out = { s.out with tripo := true }
      ∧ (s.coolH f table).fault.first = some (s.fault.first.getD (f, s.clk.stamp)) := by
  have hn := (s.faultShard f 0 table 0).recordFault_noted f
  have hst : (s.faultShard f 0 table 0).faultStamp = s.clk.stamp := State.faultStamp_cooling hs
  have hpm := (s.faultShard f 0 table 0).recordFault_pm f
  have ho := (s.faultShard f 0 table 0).recordFault_only f
  have hfr : ((s.faultShard f 0 table 0).recordFault f).fault.tables = s.fault.tables :=
    (State.recordFault_faultFrame (s.faultShard f 0 table 0) f).tables
  rw [hst] at hn
  unfold State.coolH
  dsimp only
  rw [hh, Bool.not_false, if_pos rfl]
  generalize (s.faultShard f 0 table 0).recordFault f = u at hn hpm ho hfr ⊢
  have hto := u.assertTripo_only
  have htout := u.assertTripo_out
  generalize u.assertTripo = v at hto htout ⊢
  have hw := State.walkSwitch_walk { v with walk := { v.walk with tripDue := none } } table f
  have hwo := State.walkSwitch_only { v with walk := { v.walk with tripDue := none } } table f
  generalize State.walkSwitch { v with walk := { v.walk with tripDue := none } } table f = t at hw hwo ⊢
  have hvw : v.walk = s.walk := hto.walk_eq.trans ho.walk_eq
  have hvc : v.clk = s.clk := hto.clk_eq.trans ho.clk_eq
  have htc : t.clk = s.clk := hwo.clk_eq.trans hvc
  have hvf : v.fault = u.fault := hto.fault_eq
  have htf : t.fault = u.fault := hwo.fault_eq.trans hvf
  have hent : State.tableEntries { v with walk := { v.walk with tripDue := none } } table = s.tableEntries table := by
    have htab : v.fault.tables = s.fault.tables := by
      rw [hvf]
      exact hfr
    unfold State.tableEntries
    dsimp only
    rw [htab]
  dsimp only at hw
  rw [hent, hvw] at hw
  have hf : t.fault.queue = s.fault.queue ∧ t.fault.first = some (s.fault.first.getD (f, s.clk.stamp)) := by
    rw [htf]
    exact ⟨hn.queue, hn.first⟩
  have hpm' : t.pm = u.pm := hwo.pm_eq.trans hto.pm_eq
  have hout : t.out = { s.out with tripo := true } := by
    have h1 : t.out = v.out := hwo.out_eq
    have h2 : u.out = s.out := ho.out_eq
    rw [h1, htout, h2]
  refine ⟨⟨?_, ?_, ?_, ?_, ?_, ?_, ?_, ?_, ?_, ?_, hf.1, ?_⟩, hout, hf.2⟩
  · rw [hpm', hpm]
    exact hs
  · rw [hw]
  · rw [hw]
  · rw [hw]
  · rw [hw]
  · rw [hw]
  · rw [hw]
  · rw [hw, htc, hvc]
  · rw [hout]
  · rw [hw]
  · rw [hpm', hpm]

/-- A fault of grade H in Cooling, under an H table: the walk goes on, or begins where its grace ran, and the fault is queued. -/
theorem State.coolH_queued (hs : s.pm.state = .cooling) (hh : s.isHTable s.walk.table = true) :
    Queued f s (s.coolH f table) ∧ (s.coolH f table).pm.state = .cooling ∧ (s.coolH f table).walk.table = s.walk.table
      ∧ (s.coolH f table).walk.entries = s.walk.entries
      ∧ (s.walk.grace = true → (s.coolH f table).out = { s.out with tripo := true } ∧ (s.coolH f table).walk.grace = false
          ∧ (s.coolH f table).walk.prev = s.clk.now ∧ (s.coolH f table).walk.active = s.walk.active)
      ∧ (s.walk.grace = false → (s.coolH f table).walk = s.walk ∧ (s.coolH f table).out = s.out) := by
  have hp := (s.coolH_pm f table).1
  have hst : (s.coolH f table).pm.state = .cooling := by
    rw [hp]
    exact hs
  unfold State.coolH at hst ⊢
  dsimp only at hst ⊢
  rw [hh, Bool.not_true, if_neg Bool.false_ne_true] at hst ⊢
  split
  · rename_i hg
    rw [if_pos hg] at hst
    have hto := s.assertTripo_only
    have htout := s.assertTripo_out
    generalize s.assertTripo = v at hto htout hst ⊢
    have hw := State.walkBegin_walk { v with walk := { v.walk with tripDue := none } }
    have hwo := State.walkBegin_only { v with walk := { v.walk with tripDue := none } }
    generalize State.walkBegin { v with walk := { v.walk with tripDue := none } } = u at hw hwo hst ⊢
    have hvw : v.walk = s.walk := hto.walk_eq
    have huc : v.clk = s.clk := hto.clk_eq
    have huf : u.fault = s.fault := hwo.fault_eq.trans hto.fault_eq
    have hup : u.pm = s.pm := hwo.pm_eq.trans hto.pm_eq
    have huo : u.out = v.out := hwo.out_eq
    have hq := State.enqueue_queued (s := u) (f := f) (table := table) (by rw [hup]; exact hs)
    have he := u.enqueue_only f table
    dsimp only at hw
    rw [hvw, huc] at hw
    rw [he.walk_eq, he.out_eq, huo, htout, hw]
    exact ⟨hq.of_eq huf, hst, rfl, rfl, fun _ => ⟨rfl, rfl, rfl, rfl⟩, fun k => absurd (hg.symm.trans k) Bool.noConfusion⟩
  · rename_i hg
    rw [if_neg hg] at hst
    have he := s.enqueue_only f table
    exact ⟨State.enqueue_queued hs, hst, by rw [he.walk_eq], by rw [he.walk_eq], fun k => absurd k hg, fun _ => ⟨he.walk_eq, he.out_eq⟩⟩

/-! ## Faults received in Starting and Standby (R48, R369) -/

/-- The fault logic holds a fault. -/
theorem State.holdFault_holds : HoldsFault f table s s (s.holdFault f table) := by
  unfold State.holdFault
  dsimp only
  refine ⟨fun h => ?_, fun h hl => ?_, fun h hc hl => ?_⟩
  · rw [if_pos h]
    exact ⟨rfl, rfl⟩
  · rw [if_neg (by rw [h]; exact Bool.false_ne_true), if_pos (.inr hl)]
    exact ⟨rfl, rfl⟩
  · rw [if_neg (by rw [h]; exact Bool.false_ne_true), if_neg (by rintro (k | k); exact hc k; omega)]
    exact ⟨rfl, rfl⟩

/-- What holding a fault leaves but for the list and the overflow count. -/
theorem State.holdFault_leaves (s : State) (f : FaultRec) (table : Nat) :
    (s.holdFault f table).pm = { s.pm with held := (s.holdFault f table).pm.held }
      ∧ (s.holdFault f table).fault = { s.fault with overflow := (s.holdFault f table).fault.overflow } := by
  unfold State.holdFault
  dsimp only
  split
  · exact ⟨rfl, rfl⟩
  · split <;> exact ⟨rfl, rfl⟩

/-- A fault of grade T or H in Starting or Standby: latch, records, PFW and TRIPO. -/
theorem State.recordOnly_leaves (s : State) (f : FaultRec) :
    (s.recordOnly f).pm = { s.pm with faultLatch := true, onPending := none, heldFirst := (s.recordOnly f).pm.heldFirst }
      ∧ (s.recordOnly f).out = { s.out with pfw := true, tripo := true }
      ∧ (s.recordOnly f).fault.queue = s.fault.queue ∧ (s.recordOnly f).fault.overflow = s.fault.overflow
      ∧ (s.recordOnly f).fault.bisque.filled = true
      ∧ (s.firstReadable = true → (s.recordOnly f).fault.first = some (s.fault.first.getD (f, s.clk.aonStamp))) := by
  obtain ⟨h1, h2, h3, h4, h5⟩ := State.recordBisque_leaves s.setLatch f s.clk.aonStamp
  have hpm : (s.setLatch.recordBisque f s.clk.aonStamp).pm = s.setLatch.pm := h5.pm_eq
  have hout : (s.setLatch.recordBisque f s.clk.aonStamp).out = s.out := h5.out_eq
  have hfr : (s.setLatch.recordBisque f s.clk.aonStamp).firstReadable = s.firstReadable := by
    unfold State.firstReadable
    rw [hpm, h5.cfgLoaded_eq]
    rfl
  unfold State.recordOnly
  dsimp only
  generalize s.setLatch.recordBisque f s.clk.aonStamp = u at h1 h2 h3 h4 hpm hout hfr ⊢
  rw [hfr]
  have hq (v : State) : v.assertPfw.assertTripo.pm = v.pm ∧ v.assertPfw.assertTripo.fault = v.fault
      ∧ v.assertPfw.assertTripo.out = { v.out with pfw := true, tripo := true } := by
    have k1 := v.assertPfw_only
    have k2 := v.assertPfw.assertTripo_only
    exact ⟨k2.pm_eq.trans k1.pm_eq, k2.fault_eq.trans k1.fault_eq, rfl⟩
  split
  · obtain ⟨k1, k2, k3⟩ := hq (u.recordFirst f s.clk.aonStamp)
    rw [k1, k2, k3]
    exact ⟨by rw [show (u.recordFirst f s.clk.aonStamp).pm = u.pm from rfl, hpm]; rfl, by rw [show (u.recordFirst f s.clk.aonStamp).out = u.out from rfl, hout], h2, h3, h1, fun _ => by
      rw [← show s.setLatch.fault.first = s.fault.first from rfl, ← h4]
      rfl⟩
  · obtain ⟨k1, k2, k3⟩ := hq { u with pm := { u.pm with heldFirst := some (u.pm.heldFirst.getD (f, s.clk.aonStamp)) } }
    rw [k1, k2, k3]
    exact ⟨by rw [hpm]; rfl, by rw [← hout], h2, h3, h1, fun h => absurd h ‹_›⟩

theorem State.receive_held (hs : s.pm.state = .starting) (hg : f.grade = 2 ∨ f.grade = 3) :
    s.receive f = (s.recordOnly f).holdFault f (s.tableOf f) := by
  have h0 : f.grade ≠ 0 ∧ f.grade ≠ 1 := by rcases hg with h | h <;> rw [h] <;> decide
  unfold State.receive State.receiveAs State.receiveTH
  rw [if_neg h0.1, if_neg h0.2, hs]

theorem State.receive_wakes (hs : s.pm.state = .standby) (hg : f.grade = 2 ∨ f.grade = 3) :
    s.receive f = ((s.recordOnly f).holdFault f (s.tableOf f)).wake := by
  have h0 : f.grade ≠ 0 ∧ f.grade ≠ 1 := by rcases hg with h | h <;> rw [h] <;> decide
  unfold State.receive State.receiveAs State.receiveTH
  rw [if_neg h0.1, if_neg h0.2, hs]

theorem State.receive_cools (hs : s.pm.state = .cooling) (hg : f.grade = 2 ∨ f.grade = 3) :
    s.receive f = if f.grade = 3 then s.coolH f (s.tableOf f) else s.coolT f (s.tableOf f) := by
  have h0 : f.grade ≠ 0 ∧ f.grade ≠ 1 := by rcases hg with h | h <;> rw [h] <;> decide
  unfold State.receive State.receiveAs State.receiveTH
  rw [if_neg h0.1, if_neg h0.2, hs]

/-- What holds a fault, seen from the state before its records. -/
theorem HoldsFault.of_eq {u t : State} (h : HoldsFault f table u u t) (hh : u.pm.held = s.pm.held)
    (ho : u.fault.overflow = s.fault.overflow) (hc : u.clk = s.clk) : HoldsFault f table s s t := by
  unfold HoldsFault at h ⊢
  rwa [hh, ho, hc] at h

/-- A fault of grade T or H recorded and held. -/
theorem State.recordOnly_holds (s : State) (f : FaultRec) (table : Nat) {t : State} (ht : (s.recordOnly f).holdFault f table = t) :
    HoldsFault f table s s t ∧ t.pm = { s.pm with faultLatch := true, onPending := none, heldFirst := t.pm.heldFirst, held := t.pm.held }
      ∧ t.out = { s.out with pfw := true, tripo := true } ∧ t.fault.queue = s.fault.queue ∧ t.fault.bisque.filled = true
      ∧ (s.firstReadable = true → t.fault.first = some (s.fault.first.getD (f, s.clk.aonStamp))) ∧ t.walk = s.walk := by
  obtain ⟨h1, h2, h3, h4, h5, h6⟩ := s.recordOnly_leaves f
  have hro := s.recordOnly_only f
  have hc : (s.recordOnly f).clk = s.clk := hro.clk_eq
  have hw : (s.recordOnly f).walk = s.walk := hro.walk_eq
  generalize s.recordOnly f = u at h1 h2 h3 h4 h5 h6 hc hw ht
  have hh := State.holdFault_holds (s := u) (f := f) (table := table)
  obtain ⟨k1, k2⟩ := u.holdFault_leaves f table
  have ho := u.holdFault_only f table
  rw [ht] at hh k1 k2 ho
  have hheld : u.pm.held = s.pm.held := by rw [h1]
  refine ⟨hh.of_eq hheld h4 hc, ?_, ho.out_eq.trans h2, ?_, ?_, fun h => ?_, ho.walk_eq.trans hw⟩
  · have hhf : t.pm.heldFirst = u.pm.heldFirst := by rw [k1]
    rw [hhf, k1, h1]
  · rw [k2]
    exact h3
  · rw [k2]
    exact h5
  · rw [k2]
    exact h6 h

end

end Sys2Proof.Machine
end

section
/-! SUPPORT. Comparator crossings (O9). -/

set_option Elab.async false

namespace Sys2Proof.Machine

/-! ## A crossing (R41, R70) -/

section
variable {s : State} {n : Nat}

theorem execComparatorCrossing_observes {src : BitVec 8} (fault : Bool) (he : s.evaluated src.toNat = true)
    (ht : s.sense.test.src ≠ some src.toNat) :
    execComparatorCrossing src fault s = .next ((s.observe src.toNat fault).senseChange s [src.toNat]) := by
  have hu : s.underTest src.toNat = false := beq_false_of_ne ht
  unfold execComparatorCrossing
  dsimp only
  rw [he, hu, Bool.false_and]
  rfl

theorem execComparatorCrossing_apart {src : BitVec 8} (fault : Bool)
    (h : s.evaluated src.toNat = false ∨ s.underTest src.toNat = true ∧ s.sense.test.phase < 5) :
    execComparatorCrossing src fault s = .next s := by
  unfold execComparatorCrossing
  dsimp only
  rcases h with h | ⟨h, hp⟩
  · rw [h]
    rfl
  · rw [h, decide_eq_true hp, Bool.and_self, Bool.not_true, Bool.and_false]
    rfl

/-- What a comparator that has not failed observes. -/
theorem State.observe_leaves (hw : Tab.wf s.sense.cmps = true) (hf : (s.cmp n).status ≠ .failed) (fault : Bool) :
    (s.observe n fault).cmp n = { s.cmp n with
        side := fault, status := if fault then .fault else .good, out := if s.holdsOutput n then (s.cmp n).out else fault }
      ∧ SameCmps n s (s.observe n fault) ∧ Tab.wf (s.observe n fault).sense.cmps = true ∧ CmpsOnly s (s.observe n fault) := by
  unfold State.observe
  dsimp only
  rw [if_neg hf]
  exact ⟨State.setCmp_same hw n _, State.setCmp_sameCmps hw n _, State.setCmp_wf hw n _, s.setCmp_cmpsOnly _ _⟩

theorem State.observe_failed (hf : (s.cmp n).status = .failed) (fault : Bool) : s.observe n fault = s := by
  unfold State.observe
  exact if_pos hf

theorem comparatorCrossing_observed {src : BitVec 8} (fault : Bool) (hT : s.tablesOk = true) (he : s.evaluated src.toNat = true)
    (ht : s.sense.test.src ≠ some src.toNat) (hf : (s.cmp src.toNat).status ≠ .failed) :
    Answers (.comparatorCrossing src fault) s fun t =>
      (t.cmp src.toNat).side = fault ∧ (t.cmp src.toNat).status = (if fault then .fault else .good)
        ∧ (s.holdsOutput src.toNat = false → (t.cmp src.toNat).out = fault)
        ∧ (s.holdsOutput src.toNat = true → (t.cmp src.toNat).out = (s.cmp src.toNat).out)
        ∧ SameCmps src.toNat s t ∧ t.out.en = s.out.en ∧ t.cfg = s.cfg ∧ t.sec.slots = s.sec.slots ∧ t.kiln.store = s.kiln.store := by
  refine Answers.of_exec (execComparatorCrossing_observes fault he ht) ?_
  obtain ⟨h1, h2, h3, h4⟩ := State.observe_leaves (tablesOk_cmps hT) hf fault
  have hc := State.senseChange_changed h3 s src.toNat
  have ho := h4.only
  generalize s.observe src.toNat fault = u at h1 h2 h3 ho hc ⊢
  obtain ⟨c1, -, c3, -, -, -, ⟨-, q2, q3⟩⟩ := hc
  obtain ⟨-, k2, k3, k4, -⟩ := q3
  rw [c1, h1]
  exact ⟨rfl, rfl, fun h => if_neg (by rw [h]; exact Bool.false_ne_true), fun h => if_pos h, h2.trans c3, by rw [q2, ho.out_eq],
    by rw [k2, ho.cfg_eq], by rw [k3, ho.sec_eq], by rw [k4, ho.kiln_eq]⟩

theorem comparatorCrossing_failed {src : BitVec 8} (fault : Bool) (hT : s.tablesOk = true) (he : s.evaluated src.toNat = true)
    (ht : s.sense.test.src ≠ some src.toNat) (hf : (s.cmp src.toNat).status = .failed) :
    Answers (.comparatorCrossing src fault) s fun t =>
      (t.cmp src.toNat).status = .failed ∧ (t.cmp src.toNat).out = (s.cmp src.toNat).out ∧ SameCmps src.toNat s t ∧ t.out.en = s.out.en := by
  refine Answers.of_exec (execComparatorCrossing_observes fault he ht) ?_
  rw [State.observe_failed hf]
  obtain ⟨c1, -, c3, -, -, -, ⟨-, q2, -⟩⟩ := State.senseChange_changed (tablesOk_cmps hT) s src.toNat
  rw [c1]
  exact ⟨hf, rfl, c3, q2⟩

/-! ## An assertion reaches the fault logic (Table 03.5) -/

/-- The fault of comparator n's fault side. -/
def State.sideFault (s : State) (n : Nat) : FaultRec :=
  ⟨BitVec.ofNat 8 (n % 4 + 1), BitVec.ofNat 2 (s.cmpGrade n), BitVec.ofNat 8 (n / 4), 0⟩

/-- An armed comparator that went from good to its fault side asserts, and no other fault comes of it while no self-test runs. -/
theorem State.assertionsOf_side {old : State} (hg : (old.cmp n).status = .good) (ho : (old.cmp n).out = false)
    (hb : (s.cmp n).status = .fault) (hout : (s.cmp n).out = true) (ha : s.armed n = true) (ht : s.sense.test.src = none) :
    s.assertionsOf old n = [(s.sideFault n, n)] := by
  have hu (x : Nat) : s.underTest x = false := by
    unfold State.underTest
    rw [ht]
    rfl
  unfold State.assertionsOf
  dsimp only
  rw [hu, hb, hg, hout, ho, ha]
  rfl

/-- One fault to deliver, whatever its grade. -/
theorem deliver_one (s : State) (e : FaultRec × Nat) :
    (([e].filter (fun x => x.1.grade == 3)) ++ ([e].filter (fun x => x.1.grade == 2)) ++ ([e].filter (fun x => x.1.grade == 1))
      ++ ([e].filter (fun x => x.1.grade == 0))).foldl State.deliver s = s.deliver e := by
  have h : ∀ g : BitVec 2, g = 3 ∨ g = 2 ∨ g = 1 ∨ g = 0 := by decide
  rcases h e.1.grade with h | h | h | h <;> simp [List.filter, h]

/-- What the core does of one comparator's assertion. -/
theorem State.coreSees_asserts {old v : State} (hv : s.observeChecks.sweepSees = v) {f : FaultRec} (h : v.assertionsOf old n = [(f, n)])
    (ho : (old.cmp n).out = false) : s.coreSees old [n] = v.deliver (f, n) := by
  unfold State.coreSees
  dsimp only
  rw [hv, List.flatMap_cons, List.flatMap_nil, List.append_nil, h]
  have hend : [n].filter (fun src => (old.cmp src).out && !(v.cmp src).out) = [] := by
    rw [List.filter_cons_of_neg (by rw [ho]; exact Bool.false_ne_true)]
    rfl
  rw [hend]
  exact deliver_one v (f, n)

/-- A state in which the core has taken note of a crossing, the fault logic not yet. -/
structure Sees (s v : State) : Prop where
  frame : FaultFrame s v
  only : Only [.sense, .irq, .pwm, .kiln, .mg, .log, .free] s v

theorem State.armed_congr {t : State} (hx : Only [.sense, .irq, .pwm, .kiln, .mg, .log, .free] s t)
    (ha : (s.cmp n).armed = true → (t.cmp n).armed = true) (hs : s.armed n = true) : t.armed n = true := by
  have hu : t.uvAlways (n / 4) = s.uvAlways (n / 4) := by
    unfold State.uvAlways
    rw [hx.cfgAt_eq]
  have hp : t.pinLow (n / 4) = s.pinLow (n / 4) := by
    unfold State.pinLow
    rw [hx.cfgAt_eq, hx.out_eq, hx.inp_eq]
  unfold State.armed at hs ⊢
  rw [hu, hp]
  simp only [Bool.or_eq_true, Bool.and_eq_true] at hs ⊢
  exact hs.imp id (fun k => ⟨k.1.imp ha id, k.2⟩)

theorem State.cmpReg_congr {ps : List Part} {t : State} (h : Only ps s t) (off x : Nat)
    (hp : Part.cfg ∉ ps ∧ Part.cfgLoaded ∉ ps ∧ Part.sgLoaded ∉ ps := by decide) : t.cmpReg off x = s.cmpReg off x := by
  have hr (a : Nat) : t.rawAt a = s.rawAt a := by
    unfold State.rawAt rawReg
    rw [h.cfg_eq hp.1]
  unfold State.cmpReg
  dsimp only
  rw [hr, h.cfgLoaded_eq hp.2.1, h.isSafety_eq _ ⟨hp.1, hp.2.2⟩]

theorem State.cmpGrade_congr {ps : List Part} {t : State} (h : Only ps s t) (ht : t.sense.test = s.sense.test)
    (hp : Part.cfg ∉ ps ∧ Part.cfgLoaded ∉ ps ∧ Part.sgLoaded ∉ ps := by decide) : t.cmpGrade n = s.cmpGrade n := by
  unfold State.cmpGrade State.cmpCfg State.cmpUse
  rw [ht, State.cmpReg_congr h _ _ hp]

theorem State.tableOf_congr {ps : List Part} {t : State} (h : Only ps s t) (f : FaultRec)
    (hp : Part.cfg ∉ ps ∧ Part.cfgLoaded ∉ ps ∧ Part.sgLoaded ∉ ps := by decide) : t.tableOf f = s.tableOf f := by
  unfold State.tableOf State.causeCfg
  simp only [h.cfgAt_eq _ hp]

/-- A crossing that makes a comparator assert is received. -/
theorem State.crossing_received {src : BitVec 8} (hT : s.tablesOk = true) (ha : s.Asserts src) (hc : s.pm.state ≠ .coppice)
    (hg : s.cmpGrade src.toNat = 3 ∨ s.cmpGrade src.toNat = 2 ∧ s.persistTicks = 0) :
    ∃ v, Sees s v ∧ (s.observe src.toNat true).senseChange s [src.toNat] = v.receive (s.srcFault src) := by
  obtain ⟨-, htest, hstop, hgood, hold, hout, harm⟩ := ha
  obtain ⟨h1, -, h3, h4⟩ := State.observe_leaves (n := src.toNat) (tablesOk_cmps hT) (by rw [hgood]; decide) true
  have h0 : s.srcFault src = s.sideFault src.toNat := rfl
  rw [h0]
  clear h0
  generalize src.toNat = n at *
  rw [hold, if_pos rfl, if_neg Bool.false_ne_true] at h1
  have hm := State.armFlt_changed h3 s n
  have hmo : Only [.sense, .irq, .pwm] s (((s.observe n true).armAll [n]).refreshFlt s) :=
    (h4.only.mono rfl).trans (((State.armAll_only _ _).mono rfl).trans ((State.refreshFlt_only _ _).mono rfl))
  have hmt := hm.test.trans h4.test
  have hsees : Sees s (((s.observe n true).armAll [n]).refreshFlt s).observeChecks.sweepSees :=
    ⟨(FaultFrame.of_only hmo).trans ((State.observeChecks_faultFrame _).trans (State.sweepSees_faultFrame _)),
      (hmo.mono rfl).trans (((State.observeChecks_only _).mono rfl).trans ((State.sweepSees_only _).mono rfl))⟩
  have hvs : (((s.observe n true).armAll [n]).refreshFlt s).observeChecks.sweepSees.sense
      = (((s.observe n true).armAll [n]).refreshFlt s).sense :=
    (State.sweepSees_only _).sense_eq.trans (State.observeChecks_only _).sense_eq
  have hchg : (s.observe n true).senseChange s [n] = (((s.observe n true).armAll [n]).refreshFlt s).coreSees s [n] := by
    unfold State.senseChange
    dsimp only
    refine if_neg ?_
    rw [h4.only.clk_eq, h4.only.pm_eq, hstop, Bool.false_or, beq_iff_eq]
    exact hc
  rw [hchg]
  generalize ((s.observe n true).armAll [n]).refreshFlt s = w at hm hmt hsees hvs ⊢
  generalize hv : w.observeChecks.sweepSees = v at hsees hvs
  have hcmp : v.cmp n = w.cmp n := State.cmp_congr (congrArg Sense.cmps hvs) n
  have hvt : v.sense.test = s.sense.test := (congrArg Sense.test hvs).trans hmt
  have hmc := hm.cmp
  have harmed : (s.cmp n).armed = true → (v.cmp n).armed = true := fun k => by
    rw [hcmp]
    exact hm.armed (by rw [h1]; exact k)
  rw [h1] at hmc
  rw [hmc] at hcmp
  have hasserts := State.assertionsOf_side (s := v) (old := s) (n := n) hgood hout (by rw [hcmp]) (by rw [hcmp])
    (State.armed_congr hsees.only harmed harm) (by rw [hvt, htest])
  have hf : v.sideFault n = s.sideFault n := by
    unfold State.sideFault
    rw [State.cmpGrade_congr hsees.only hvt]
  rw [hf] at hasserts
  refine ⟨v, hsees, (State.coreSees_asserts hv hasserts hout).trans ?_⟩
  have hpt : v.persistTicks = s.persistTicks := by
    unfold State.persistTicks
    rw [hsees.only.cfgAt_eq]
  unfold State.deliver
  refine if_neg ?_
  rw [hpt]
  rintro ⟨k1, -, k3⟩
  rcases hg with hg | hg
  · have hk : (s.sideFault n).grade = 3 := by
      unfold State.sideFault
      dsimp only
      rw [hg]
      rfl
    rw [hk] at k1
    exact absurd k1 (by decide)
  · exact k3 hg.2

/-- The grade of a comparator's fault, as its register gives it. -/
theorem State.srcFault_grade (src : BitVec 8) (h : s.cmpGrade src.toNat = 2 ∨ s.cmpGrade src.toNat = 3) :
    ((s.srcFault src).grade = 2 ∨ (s.srcFault src).grade = 3) ∧ ((s.srcFault src).grade = 3 ↔ s.cmpGrade src.toNat = 3) := by
  unfold State.srcFault
  dsimp only
  rcases h with h | h <;> rw [h] <;> decide

/-- A crossing that asserts, where the row is told. -/
theorem comparatorCrossing_received {src : BitVec 8} {P : State → Prop} (hT : s.tablesOk = true) (ha : s.Asserts src)
    (hc : s.pm.state ≠ .coppice) (hg : s.cmpGrade src.toNat = 3 ∨ s.cmpGrade src.toNat = 2 ∧ s.persistTicks = 0)
    (hP : ∀ v, Sees s v → P (v.receive (s.srcFault src))) : Answers (.comparatorCrossing src true) s P := by
  obtain ⟨v, hv, he⟩ := State.crossing_received hT ha hc hg
  have hne : s.sense.test.src ≠ some src.toNat := by
    rw [ha.2.1]
    exact nofun
  refine Answers.of_exec (execComparatorCrossing_observes true ha.1 hne) ?_
  rw [he]
  exact hP v hv

theorem comparatorCrossing_stops {src : BitVec 8} (hT : s.tablesOk = true) (ha : s.Asserts src)
    (hs : s.pm.state = .ready ∨ s.pm.state = .firing ∨ s.pm.state = .running)
    (hg : s.cmpGrade src.toNat = 3 ∨ s.cmpGrade src.toNat = 2 ∧ s.persistTicks = 0) :
    Answers (.comparatorCrossing src true) s fun t =>
      Shutdown t (s.tableOf (s.srcFault src)) ∧ t.pm.faultLatch = true ∧ t.pm.lastCause = (if s.cmpGrade src.toNat = 3 then 0x30 else 0x31)
        ∧ t.walk.grace = decide (s.cmpGrade src.toNat = 2) ∧ (s.cmpGrade src.toNat = 3 → t.out.tripo = true)
        ∧ t.out.en = s.out.en ∧ SameStores s t := by
  obtain ⟨hgr, h3⟩ := State.srcFault_grade src (hg.elim .inr (fun k => .inl k.1))
  refine comparatorCrossing_received hT ha (fun k => by rw [k] at hs; simp at hs) hg fun v hv => ?_
  have hpm : v.pm = s.pm := hv.only.pm_eq
  unfold State.receive
  rw [State.receiveAs_stops (hpm ▸ hs) hgr, State.tableOf_congr hv.only]
  have hx := v.startShutdown_starts (if (s.srcFault src).grade = 3 then Start.gradeH else Start.gradeT) (s.srcFault src)
    (s.tableOf (s.srcFault src)) (if (s.srcFault src).grade = 3 then Start.gradeH else Start.gradeT).pmCause none
  have hne : (if (s.srcFault src).grade = 3 then Start.gradeH else Start.gradeT) ≠ .off := by split <;> decide
  obtain ⟨-, hl, -, -⟩ := hx.seen hne
  refine ⟨hx.shutdown, hl, ?_, ?_, fun h => ?_, ?_, (hv.frame.trans hx.frame).sameStores⟩
  · rw [hx.lastCause]
    simp only [h3]
    split <;> rfl
  · rw [hx.walk]
    dsimp only
    simp only [h3]
    rcases hg with hg | hg
    · rw [hg]
      rfl
    · rw [hg.1]
      rfl
  · rw [hx.out]
    simp only [h3, h]
    simp
  · rw [hx.out, hv.only.out_eq]

theorem comparatorCrossing_queues {src : BitVec 8} (hT : s.tablesOk = true) (ha : s.Asserts src) (hs : s.pm.state = .cooling)
    (hg : s.cmpGrade src.toNat = 2) (hp : s.persistTicks = 0) :
    Answers (.comparatorCrossing src true) s fun t =>
      Queued (s.srcFault src) s t ∧ t.pm.state = .cooling ∧ t.out.tripo = s.out.tripo ∧ t.out.pfw = s.out.pfw ∧ t.out.en = s.out.en
        ∧ t.walk = { s.walk with
            tripDue := if s.out.tripo || s.walk.tripDue.isSome then s.walk.tripDue else some (s.clk.now + s.tripTicks) }
        ∧ SameStores s t := by
  obtain ⟨hgr, h3⟩ := State.srcFault_grade src (.inl hg)
  refine comparatorCrossing_received hT ha (fun k => by rw [k] at hs; cases hs) (.inr ⟨hg, hp⟩) fun v hv => ?_
  have hvs : v.pm.state = .cooling := by
    rw [hv.only.pm_eq]
    exact hs
  have hf := State.receive_faultFrame (s := v) (by rw [hvs]; decide) (s.srcFault src)
  rw [State.receive_cools hvs hgr, if_neg (fun k => by rw [h3, hg] at k; cases k)] at hf ⊢
  obtain ⟨h1, h2, h4⟩ := State.coolT_leaves (f := s.srcFault src) (table := v.tableOf (s.srcFault src)) hvs
  have hpm := (v.coolT_pm (s.srcFault src) (v.tableOf (s.srcFault src))).1
  have htt : v.tripTicks = s.tripTicks := by
    unfold State.tripTicks
    rw [hv.only.cfgAt_eq]
  rw [hv.only.walk_eq, hv.only.out_eq, hv.only.clk_eq, htt] at h4
  rw [hv.only.out_eq] at h2
  refine ⟨h1.of_eq hv.only.fault_eq, ?_, by rw [h2], by rw [h2], by rw [h2], h4, (hv.frame.trans hf).sameStores⟩
  rw [hpm]
  exact hvs

theorem State.isHTable_congr {v : State} (hv : Sees s v) : v.isHTable v.walk.table = s.isHTable s.walk.table := by
  unfold State.isHTable
  rw [hv.only.walk_eq, hv.only.fault_eq]

theorem comparatorCrossing_switches {src : BitVec 8} (hT : s.tablesOk = true) (ha : s.Asserts src) (hs : s.pm.state = .cooling)
    (hg : s.cmpGrade src.toNat = 3) (hh : s.isHTable s.walk.table = false) :
    Answers (.comparatorCrossing src true) s fun t =>
      Switched (s.tableOf (s.srcFault src)) (s.srcFault src) s t ∧ t.out.en = s.out.en ∧ t.out.pfw = s.out.pfw
        ∧ t.fault.first = some (s.fault.first.getD (s.srcFault src, s.clk.stamp)) ∧ SameStores s t := by
  obtain ⟨hgr, h3⟩ := State.srcFault_grade src (.inr hg)
  refine comparatorCrossing_received hT ha (fun k => by rw [k] at hs; cases hs) (.inl hg) fun v hv => ?_
  have hvs : v.pm.state = .cooling := by
    rw [hv.only.pm_eq]
    exact hs
  have hf := State.receive_faultFrame (s := v) (by rw [hvs]; decide) (s.srcFault src)
  rw [State.receive_cools hvs hgr, if_pos (h3.2 hg), State.tableOf_congr hv.only] at hf ⊢
  obtain ⟨h1, h2, h4⟩ := State.coolH_switches (f := s.srcFault src) (table := s.tableOf (s.srcFault src)) hvs
    ((State.isHTable_congr hv).trans hh)
  rw [hv.only.out_eq] at h2
  rw [hv.only.fault_eq, hv.only.clk_eq] at h4
  refine ⟨?_, by rw [h2], by rw [h2], h4, (hv.frame.trans hf).sameStores⟩
  unfold Switched State.tableEntries at h1 ⊢
  rwa [hv.only.walk_eq, hv.only.fault_eq] at h1

theorem comparatorCrossing_joins {src : BitVec 8} (hT : s.tablesOk = true) (ha : s.Asserts src) (hs : s.pm.state = .cooling)
    (hg : s.cmpGrade src.toNat = 3) (hh : s.isHTable s.walk.table = true) :
    Answers (.comparatorCrossing src true) s fun t =>
      Queued (s.srcFault src) s t ∧ t.pm.state = .cooling ∧ t.walk.table = s.walk.table ∧ t.walk.entries = s.walk.entries
        ∧ t.out.en = s.out.en ∧ (s.walk.grace = true → t.out.tripo = true ∧ t.walk.grace = false ∧ t.walk.prev = s.clk.now)
        ∧ (s.walk.grace = false → t.walk = s.walk ∧ t.out.tripo = s.out.tripo) ∧ SameStores s t := by
  obtain ⟨hgr, h3⟩ := State.srcFault_grade src (.inr hg)
  refine comparatorCrossing_received hT ha (fun k => by rw [k] at hs; cases hs) (.inl hg) fun v hv => ?_
  have hvs : v.pm.state = .cooling := by
    rw [hv.only.pm_eq]
    exact hs
  have hf := hv.frame.trans (State.receive_faultFrame (s := v) (by rw [hvs]; decide) (s.srcFault src))
  rw [State.receive_cools hvs hgr, if_pos (h3.2 hg)] at hf ⊢
  obtain ⟨h1, h2, h4, h5, h6, h7⟩ := State.coolH_queued (f := s.srcFault src) (table := v.tableOf (s.srcFault src)) hvs
    ((State.isHTable_congr hv).trans hh)
  rw [hv.only.walk_eq, hv.only.clk_eq] at h6
  rw [hv.only.walk_eq] at h4 h5 h7
  rw [hv.only.out_eq] at h7
  exact ⟨h1.of_eq hv.only.fault_eq, h2, h4, h5, hf.en, fun k => ⟨by rw [(h6 k).1], (h6 k).2.1, (h6 k).2.2.1⟩,
    fun k => ⟨(h7 k).1, by rw [(h7 k).2]⟩, hf.sameStores⟩

theorem Sees.holds {f : FaultRec} {table : Nat} {v t : State} (hv : Sees s v) (h : HoldsFault f table v v t) : HoldsFault f table s s t :=
  h.of_eq (by rw [hv.only.pm_eq]) (by rw [hv.only.fault_eq]) hv.only.clk_eq

theorem comparatorCrossing_wakes {src : BitVec 8} (hT : s.tablesOk = true) (ha : s.Asserts src) (hs : s.pm.state = .standby)
    (hg : s.cmpGrade src.toNat = 3 ∨ s.cmpGrade src.toNat = 2 ∧ s.persistTicks = 0) :
    Answers (.comparatorCrossing src true) s fun t =>
      t.pm.faultLatch = true ∧ t.out.pfw = true ∧ t.out.tripo = true ∧ t.out.en = s.out.en ∧ t.fault.bisque.filled = true
        ∧ HoldsFault (s.srcFault src) (s.tableOf (s.srcFault src)) s s t ∧ t.walk = s.walk ∧ t.fault.queue = s.fault.queue
        ∧ (s.pm.vinLow = false → s.pm.vinGood = true → t.pm.state = .starting ∧ t.pm.stage = 8 ∧ t.pm.lastCause = 0x02)
        ∧ (s.pm.vinLow = true ∨ s.pm.vinGood = false → t.pm.state = .standby) ∧ SameStores s t := by
  obtain ⟨hgr, -⟩ := State.srcFault_grade src (hg.elim .inr (fun k => .inl k.1))
  refine comparatorCrossing_received hT ha (fun k => by rw [k] at hs; cases hs) hg fun v hv => ?_
  have hvp : v.pm = s.pm := hv.only.pm_eq
  have hvs : v.pm.state = .standby := by
    rw [hvp]
    exact hs
  have hq := State.receive_quiet (s := v) (s.srcFault src)
  rw [State.receive_wakes hvs hgr, State.tableOf_congr hv.only] at hq ⊢
  obtain ⟨h1, h2, h3, h4, h5, -, h7⟩ := v.recordOnly_holds (s.srcFault src) (s.tableOf (s.srcFault src)) rfl
  generalize (v.recordOnly (s.srcFault src)).holdFault (s.srcFault src) (s.tableOf (s.srcFault src)) = u at h1 h2 h3 h4 h5 h7 hq ⊢
  have hus : u.pm.state = .standby := by
    rw [h2]
    exact hvs
  obtain ⟨w1, w2⟩ := State.wake_taken hus
  have huv : u.pm.vinLow = s.pm.vinLow ∧ u.pm.vinGood = s.pm.vinGood := by
    rw [h2, hvp]
    exact ⟨rfl, rfl⟩
  have hul : u.pm.faultLatch = true := by rw [h2]
  have hwl : u.wake.pm.faultLatch = true := by rw [State.wake_faultLatch, hul]
  have hwo := u.wake_only
  rw [huv.1, huv.2] at w1 w2
  have hheld : u.wake.pm.held = u.pm.held := by
    unfold State.wake
    split
    · split <;> rfl
    · rfl
  have hholds : HoldsFault (s.srcFault src) (s.tableOf (s.srcFault src)) s s u.wake := by
    have := hv.holds h1
    unfold HoldsFault at this ⊢
    rwa [hheld, hwo.fault_eq]
  have hpins : u.wake.out.pfw = true ∧ u.wake.out.tripo = true := by
    have hup : u.out.pfw = true ∧ u.out.tripo = true := by
      rw [h3]
      exact ⟨rfl, rfl⟩
    unfold State.wake
    split
    · split
      · exact ⟨rfl, rfl⟩
      · exact hup
    · exact hup
  refine ⟨hwl, hpins.1, hpins.2, ?_, ?_, hholds, ?_, ?_, fun hl hg => ?_, fun h => (w2 h).1, hv.frame.sameStores.trans hq.stores⟩
  · rw [hq.en, hv.only.out_eq]
  · rw [hwo.fault_eq]
    exact h5
  · rw [hwo.walk_eq, h7, hv.only.walk_eq]
  · rw [hwo.fault_eq, h4, hv.only.fault_eq]
  · obtain ⟨k1, k2, -, -, k5, -⟩ := w1 hl hg
    exact ⟨k1, k2, k5⟩

theorem comparatorCrossing_held {src : BitVec 8} (hT : s.tablesOk = true) (ha : s.Asserts src) (hs : s.pm.state = .starting)
    (hst : s.pm.stage = 5) (hg : s.cmpGrade src.toNat = 3 ∨ s.cmpGrade src.toNat = 2 ∧ s.persistTicks = 0) :
    Answers (.comparatorCrossing src true) s fun t =>
      t.pm.state = .starting ∧ t.pm.stage = 5 ∧ t.pm.faultLatch = true ∧ t.out.pfw = true ∧ t.out.tripo = true ∧ t.out.en = s.out.en
        ∧ HoldsFault (s.srcFault src) (s.tableOf (s.srcFault src)) s s t
        ∧ (s.cfgLoaded = true → t.fault.first = some (s.fault.first.getD (s.srcFault src, s.clk.aonStamp)))
        ∧ t.fault.bisque.filled = true ∧ t.walk = s.walk ∧ t.fault.queue = s.fault.queue ∧ SameStores s t := by
  obtain ⟨hgr, -⟩ := State.srcFault_grade src (hg.elim .inr (fun k => .inl k.1))
  refine comparatorCrossing_received hT ha (fun k => by rw [k] at hs; cases hs) hg fun v hv => ?_
  have hvp : v.pm = s.pm := hv.only.pm_eq
  have hvs : v.pm.state = .starting := by
    rw [hvp]
    exact hs
  have hq := State.receive_quiet (s := v) (s.srcFault src)
  rw [State.receive_held hvs hgr, State.tableOf_congr hv.only] at hq ⊢
  obtain ⟨h1, h2, h3, h4, h5, h6, h7⟩ := v.recordOnly_holds (s.srcFault src) (s.tableOf (s.srcFault src)) rfl
  generalize (v.recordOnly (s.srcFault src)).holdFault (s.srcFault src) (s.tableOf (s.srcFault src)) = u at h1 h2 h3 h4 h5 h6 h7 hq ⊢
  rw [hv.only.fault_eq, hv.only.clk_eq] at h6
  refine ⟨?_, ?_, ?_, ?_, ?_, ?_, hv.holds h1, fun hl => h6 ?_, h5, h7.trans hv.only.walk_eq, h4.trans (by rw [hv.only.fault_eq]),
    hv.frame.sameStores.trans hq.stores⟩
  · rw [h2]
    exact hvs
  · rw [h2, hvp]
    exact hst
  · rw [h2]
  · rw [h3]
  · rw [h3]
  · rw [hq.en, hv.only.out_eq]
  · unfold State.firstReadable
    rw [hv.only.cfgLoaded_eq, hvp, hl, hs, hst]
    rfl

end

/-- Settles O9, by what a comparator observes, and by the fault that its assertion brings in each state. -/
theorem comparatorFaults : Obligations.ComparatorFaults := by
  unfold Obligations.ComparatorFaults
  refine ⟨fun src fault s => comparatorCrossing_observed fault, fun src fault s => comparatorCrossing_failed fault,
    fun src s hT he ht hs hc hg ho hf ha hgr => comparatorCrossing_stops hT ⟨he, ht, hc, hg, ho, hf, ha⟩ hs hgr,
    fun src s hT ha hs hg hp => comparatorCrossing_queues hT ha hs hg hp,
    fun src s hT ha hs hg hh => comparatorCrossing_switches hT ha hs hg hh,
    fun src s hT ha hs hg hh => comparatorCrossing_joins hT ha hs hg hh, fun src s hT ha hs hg => comparatorCrossing_wakes hT ha hs hg,
    fun src s hT ha hs hst hg => comparatorCrossing_held hT ha hs hst hg,
    fun src fault s h => Answers.of_exec (execComparatorCrossing_apart fault h) rfl⟩

end Sys2Proof.Machine
end

section
/-! SUPPORT. What a fault leaves of the interrupts of the clocks (O7, O21). -/

set_option Elab.async false

namespace Sys2Proof.Machine

/-! ## What a fault leaves of the clock interrupts and of the TRIPI lines seen -/

/-- The clock interrupts and the TRIPI lines seen read as before. -/
structure Marks (s t : State) : Prop where
  ck : t.irq.ck = s.irq.ck
  seen : t.pwm.tripiSeen = s.pwm.tripiSeen

namespace Marks

variable {s t u : State}

theorem refl (s : State) : Marks s s := ⟨rfl, rfl⟩

theorem trans (h : Marks s t) (k : Marks t u) : Marks s u := ⟨k.ck.trans h.ck, k.seen.trans h.seen⟩

theorem of_only {ps : List Part} (h : Only ps s t) (hp : Part.irq ∉ ps ∧ Part.pwm ∉ ps := by decide) : Marks s t :=
  ⟨by rw [h.irq_eq hp.1], by rw [h.pwm_eq hp.2]⟩

theorem foldl {α : Type} {f : State → α → State} (hf : ∀ t x, Marks t (f t x)) {s : State} (l : List α) : Marks s (l.foldl f s) := by
  induction l generalizing s with
  | nil => exact refl s
  | cons x l ih => exact (hf s x).trans ih

end Marks

section
variable (s : State)

theorem State.tripPwm_marks (src : Word) : Marks s (s.tripPwm src) := by
  unfold State.tripPwm
  dsimp only
  split <;> exact ⟨rfl, rfl⟩

theorem State.assertPfw_marks : Marks s s.assertPfw := by
  unfold State.assertPfw
  split
  · exact ⟨rfl, rfl⟩
  · exact ⟨(s.tripPwm_marks _).ck, (s.tripPwm_marks _).seen⟩

theorem State.assertTripo_marks : Marks s s.assertTripo := by
  unfold State.assertTripo
  split
  · exact ⟨rfl, rfl⟩
  · exact ⟨(s.tripPwm_marks _).ck, (s.tripPwm_marks _).seen⟩

theorem State.enqueue_marks (f : FaultRec) (table : Nat) : Marks s (s.enqueue f table) := by
  have hr : Marks s (s.recordFault f) := .of_only (s.recordFault_only f)
  unfold State.enqueue
  dsimp only
  generalize s.recordFault f = u at hr ⊢
  split
  · exact ⟨hr.ck, hr.seen⟩
  · split <;> exact ⟨hr.ck, hr.seen⟩

theorem State.coolT_marks (f : FaultRec) (table : Nat) : Marks s (s.coolT f table) := by
  have h := s.enqueue_marks f table
  unfold State.coolT
  dsimp only
  generalize s.enqueue f table = u at h ⊢
  split
  · exact h
  · exact ⟨h.ck, h.seen⟩

theorem State.coolH_marks (f : FaultRec) (table : Nat) : Marks s (s.coolH f table) := by
  have ht (u : State) : Marks u { u.assertTripo with walk := { u.assertTripo.walk with tripDue := none } } :=
    ⟨u.assertTripo_marks.ck, u.assertTripo_marks.seen⟩
  unfold State.coolH
  dsimp only
  split
  · exact (Marks.of_only (State.faultShard_only _ _ _ _ _)).trans ((Marks.of_only (State.recordFault_only _ _)).trans
      ((ht _).trans (.of_only (State.walkSwitch_only _ _ _))))
  · split
    · exact (ht _).trans ((Marks.of_only (State.walkBegin_only _)).trans (State.enqueue_marks _ _ _))
    · exact s.enqueue_marks _ _

theorem State.refusalEffects_marks (c : Cmd) (status : Nat) : Marks s (s.refusalEffects c status) := by
  have hc : (s.countRefusal status).irq.ck = s.irq.ck := by
    unfold State.countRefusal
    dsimp only
    split
    · split <;> rfl
    · split <;> rfl
  have h := State.secShard_only (s.countRefusal status) c status
  exact ⟨(congrArg Irq.ck h.irq_eq).trans hc, by rw [(s.refusalEffects_only c status).pwm_eq]⟩

theorem State.finish_marks (c : Cmd) (status : Nat) (payload : List Byte) : Marks s (s.finish c status payload) := by
  have hp (u : State) (p : Port) : Marks u { u with port := p } := ⟨rfl, rfl⟩
  have hn (u : State) : Marks u (u.noteBroadcast c status) := ⟨rfl, rfl⟩
  have h := (s.refusalEffects_marks c status).trans (hp _ { (s.refusalEffects c status).port with
    execq := (s.refusalEffects c status).port.execq.filter (fun e => !(e == (c.ring, c.tag))) })
  unfold State.finish
  dsimp only
  refine h.trans ?_
  split
  · refine (hn _).trans ?_
    split
    · exact .of_only (State.dropCmd_only _ _ _)
    · split
      · exact .of_only (State.answer_only _ _ _ _)
      · split
        · exact .of_only (State.setCmd_only _ _)
        · exact .of_only (State.answer_only _ _ _ _)
  · exact .of_only (State.answer_only _ _ _ _)

theorem State.discardCooling_marks (pm : Nat) (keep : Option (Bool × Nat)) : Marks s (s.discardCooling pm keep) := by
  have hp (u : State) (p : Port) : Marks u { u with port := p } := ⟨rfl, rfl⟩
  have hd (u : State) (cause : Nat) (gone : List Cmd) : Marks u (u.recordDiscard cause gone) := by
    unfold State.recordDiscard
    dsimp only
    split <;> exact ⟨rfl, rfl⟩
  unfold State.discardCooling
  dsimp only
  exact (hp s _).trans ((Marks.foldl (fun t c => t.finish_marks c _ _) _).trans (hd _ _ _))

theorem State.startShutdown_marks (k : Start) (f : FaultRec) (table cause : Nat) (keep : Option (Bool × Nat)) :
    Marks s (s.startShutdown k f table cause keep) := by
  have hrecord : Marks s (s.shutdownRecord k f table) := by
    unfold State.shutdownRecord
    dsimp only
    split
    · exact .of_only s.leaveRunning_only
    · exact (Marks.of_only s.leaveRunning_only).trans ((Marks.of_only (State.faultShard_only _ _ _ _ _)).trans
        (.of_only (State.recordFault_only _ _)))
  have htell (u : State) : Marks u (u.shutdownTell k f table) := by
    unfold State.shutdownTell
    dsimp only
    refine Marks.trans ?_ ((Marks.of_only (State.soundHorn_only _ _ _)).trans (.of_only (State.tellTwin_only _ _ _ _)))
    split
    · exact u.assertPfw_marks.trans (State.assertTripo_marks _)
    · exact u.assertPfw_marks
  have henter (u : State) : Marks u (u.shutdownEnter cause keep) := by
    have hp (t : State) : Marks t { t with pm := { t.pm with offMinDue := none } } := ⟨rfl, rfl⟩
    unfold State.shutdownEnter
    dsimp only
    exact (((Marks.of_only u.abortEngines_only).trans (.of_only (State.endSequences_only _))).trans
      (.of_only (State.goTo_only _ _ _))).trans ((hp _).trans ((State.discardCooling_marks _ _ _).trans
        (.of_only (State.trimsNominal_only _))))
  have hwalk (u : State) (trip : List Nat) : Marks u (u.shutdownWalk k f table trip) := by
    have hi (t : State) : Marks t (t.irqCt 1) := ⟨rfl, rfl⟩
    have hw (t : State) (w : Walk) : Marks t { t with walk := w } := ⟨rfl, rfl⟩
    unfold State.shutdownWalk
    dsimp only
    split
    · exact (hw _ _).trans ((hi _).trans (.of_only (State.walkBegin_only _)))
    · exact (hw _ _).trans (hi _)
  rw [State.startShutdown_eq]
  exact hrecord.trans ((htell _).trans ((henter _).trans ((hwalk _ _).trans (.of_only (State.afterAbort_only _)))))

theorem State.recordOnly_marks (f : FaultRec) : Marks s (s.recordOnly f) := by
  have hl : Marks s (s.setLatch.recordBisque f s.clk.aonStamp) :=
    Marks.trans (u := s.setLatch.recordBisque f s.clk.aonStamp) (t := s.setLatch) ⟨rfl, rfl⟩ (.of_only (State.recordBisque_only _ _ _))
  unfold State.recordOnly
  dsimp only
  refine Marks.trans ?_ ((State.assertPfw_marks _).trans (State.assertTripo_marks _))
  split
  · exact hl.trans (.of_only (State.recordFirst_only _ _ _))
  · exact hl.trans ⟨rfl, rfl⟩

theorem State.receive_marks (f : FaultRec) : Marks s (s.receive f) := by
  have hc (c : Ctl) : Marks s { s with ctl := c } := ⟨rfl, rfl⟩
  have hi (t : State) (i : Nat) : Marks t (t.irqCt i) := ⟨rfl, rfl⟩
  have hh (t : State) (table : Nat) : Marks t (t.holdFault f table) := .of_only (t.holdFault_only f table)
  have hw (t : State) : Marks t t.wake := .of_only t.wake_only
  unfold State.receive State.receiveAs
  split
  · exact .of_only (State.faultShard_only _ _ _ _ _)
  · split
    · unfold State.receiveW
      split
      iterate 4 exact (hc _).trans ((hi _ _).trans (.of_only (State.faultShard_only _ _ _ _ _)))
      · exact hh _ _
      · exact (hh _ _).trans (hw _)
      · exact .refl s
    · unfold State.receiveTH
      dsimp only
      split
      iterate 3 exact s.startShutdown_marks _ _ _ _ _
      · split
        · exact s.coolH_marks f _
        · exact s.coolT_marks f _
      · exact (s.recordOnly_marks f).trans (hh _ _)
      · exact (s.recordOnly_marks f).trans ((hh _ _).trans (hw _))
      · exact .refl s

theorem State.receiveCause_marks (x source : Nat) : Marks s (s.receiveCause x source) := s.receive_marks _

theorem State.senseChange_marks (old : State) (srcs : List Nat) : Marks s (s.senseChange old srcs) := by
  have hd (t : State) (e : FaultRec × Nat) : Marks t (t.deliver e) := by
    unfold State.deliver
    split
    · exact ⟨rfl, rfl⟩
    · exact t.receive_marks _
  have he (t : State) (src : Nat) : Marks t (t.endPersist src) := by
    have h1 : Marks t { t with fault := { t.fault with persist := t.fault.persist.filter (fun p => p.1 != src) } } := ⟨rfl, rfl⟩
    exact h1.trans (Marks.foldl (f := fun (u : State) (p : Nat × Nat × Nat) =>
      u.receive (persistFault p.1 p.2.1 (if u.clk.now < p.2.2 then 1 else 2))) (fun t p => t.receive_marks _) _)
  have hf (t : State) : Marks t (t.refreshFlt old) := by
    have hx (n : Sense) : Marks t { t with sense := n } := ⟨rfl, rfl⟩
    unfold State.refreshFlt
    split
    · exact (hx _).trans (State.tripPwm_marks _ _)
    · exact .refl t
  have h1 : Marks s ((s.armAll srcs).refreshFlt old) := (Marks.of_only (State.armAll_only _ _)).trans (hf _)
  unfold State.senseChange
  dsimp only
  split
  · exact h1
  · refine h1.trans ?_
    unfold State.coreSees
    exact ((Marks.of_only (State.observeChecks_only _)).trans (.of_only (State.sweepSees_only _))).trans
      ((Marks.foldl hd _).trans (Marks.foldl he _))

end

end Sys2Proof.Machine
end

section
/-! SUPPORT. T_OFFMIN, the ownership window, TRIPI and the die sensors (O7). -/

set_option Elab.async false

namespace Sys2Proof.Machine

/-! ## T_OFFMIN and the ownership window -/

section
variable {s : State}

theorem execTOffminElapsed_case {due : Nat} (h : s.pm.offMinDue = some due) :
    execTOffminElapsed s = .next (State.tryPending { s.till due with pm := { (s.till due).pm with offMinDue := none } }) := by
  unfold execTOffminElapsed
  rw [h]

theorem tOffminElapsed_fires {due : Nat} {c : Byte} (h : s.pm.offMinDue = some due) (hp : s.pm.onPending = some c)
    (hs : s.pm.state = .ready) (hl : s.pm.faultLatch = false) (hr : s.pm.resetDue = none) (hpas : s.out.passive = false)
    (hh : s.twin.hand.holds = false) :
    Answers .tOffminElapsed s fun t =>
      (SomeEngine s → t.pm.state = .firing ∧ t.pm.lastCause = c) ∧ (¬ SomeEngine s → t.pm.state = .running) ∧ t.pm.onPending = none
        ∧ t.pm.offMinDue = none ∧ Only [.pm, .log, .kiln, .clk, .mg] s t := by
  refine Answers.of_exec (execTOffminElapsed_case h) ?_
  have hu : Only [.clk, .pm] s { s.till due with pm := { (s.till due).pm with offMinDue := none } } := ((s.till_only due).mono rfl).mk_upd
  have hpm : ({ s.till due with pm := { (s.till due).pm with offMinDue := none } } : State).pm = { s.pm with offMinDue := none } := by
    rw [← (s.till_only due).pm_eq]
  generalize ({ s.till due with pm := { (s.till due).pm with offMinDue := none } } : State) = u at hu hpm ⊢
  have hm : u.mayFire = true := by
    unfold State.mayFire
    rw [hpm, hu.out_eq, hs, hl, hr, hpas]
    rfl
  rw [State.tryPending_fires (s := u) (c := c) (by rw [hpm]; exact hp) hm (by rw [hu.twin_eq]; exact hh)]
  have hf := u.fireStart_starts c.toNat
  have hc : (BitVec.ofNat 8 c.toNat : Byte) = c := (BitVec.ofNat_toNat 8 c).trans (BitVec.setWidth_eq c)
  have he : SomeEngine u ↔ SomeEngine s := SomeEngine.congr hu
  have ho : Only [.pm, .log, .kiln, .clk, .mg] s (u.fireStart c.toNat) := (hu.mono rfl).trans hf.only
  generalize u.fireStart c.toNat = t at hf ho ⊢
  by_cases hx : SomeEngine u
  · obtain ⟨k, -⟩ := hf.some hx
    rw [k, hpm, hc]
    exact ⟨fun _ => ⟨rfl, rfl⟩, fun n => absurd (he.1 hx) n, rfl, rfl, ho⟩
  · obtain ⟨k, -⟩ := hf.none hx
    rw [k, hpm]
    exact ⟨fun n => absurd (he.2 n) hx, fun _ => rfl, rfl, rfl, ho⟩

theorem ownershipWindowClose_due {due : Nat} (h : s.sec.windowDue = some due) :
    Answers (.ownershipWindowClose false) s fun t =>
      t.clk.now = max s.clk.now due ∧ t.sec = { s.sec with windowDue := none } ∧ Only [.clk, .sec] s t := by
  refine Answers.of_exec (t := { s.till due with sec := { (s.till due).sec with windowDue := none } }) ?_ ⟨State.till_clock (s := s) due, ?_, ?_⟩
  · unfold exec execOwnershipWindowClose
    dsimp only
    rw [if_neg Bool.false_ne_true, h]
  · rw [← (s.till_only due).sec_eq]
  · exact ((s.till_only due).mono rfl).mk_upd

theorem ownershipWindowClose_released (hb : s.inp.pb = true) (hm : s.ctl.pbMode = .lockout) :
    Answers (.ownershipWindowClose true) s fun t =>
      t.sec = { s.sec with windowDue := none } ∧ t.inp = { s.inp with pb := false }
        ∧ t.ctl = { s.ctl with pbHeld := 0, pbAt := s.clk.now, pbSinceStage1 := false } ∧ Only [.sec, .ctl, .inp] s t := by
  refine Answers.of_exec (t := { s.setPb .lockout false 0 with sec := { (s.setPb .lockout false 0).sec with windowDue := none } }) ?_
    ⟨rfl, rfl, ?_, (Only.refl _ s).mk_upd⟩
  · unfold exec execOwnershipWindowClose
    dsimp only
    rw [if_pos rfl, hb, hm]
    rfl
  · unfold State.setPb
    dsimp only
    rw [Bool.and_false, ← hm]

/-! ## Faults received one after another -/

/-- A shutdown has started for a fault: Cooling, with the latch set, PFW asserted and the walk in progress. -/
structure Stopped (t : State) : Prop where
  state : t.pm.state = .cooling
  latch : t.pm.faultLatch = true
  pfw : t.out.pfw = true
  active : t.walk.active = true

/-- Nothing that a fault brings in Cooling ends it. -/
theorem Stopped.receive (h : Stopped s) (f : FaultRec) : Stopped (s.receive f) := by
  obtain ⟨hs, hl, hp, ha⟩ := h
  have hg : f.grade = 0 ∨ f.grade = 1 ∨ f.grade = 2 ∨ f.grade = 3 := by
    have : ∀ g : BitVec 2, g = 0 ∨ g = 1 ∨ g = 2 ∨ g = 3 := by decide
    exact this f.grade
  rcases hg with hg | hg | hg
  · unfold State.receive
    rw [State.receiveAs_status hg]
    exact ⟨hs, hl, hp, ha⟩
  · unfold State.receive
    rw [State.receiveAs_warns hg]
    have ho := State.receiveW_live (s := s) (by rw [hs]; rfl) f
    exact ⟨by rw [ho.pm_eq, hs], by rw [ho.pm_eq, hl], by rw [ho.out_eq, hp], by rw [ho.walk_eq, ha]⟩
  · rw [State.receive_cools hs hg]
    split
    · have hpm := (s.coolH_pm f (s.tableOf f)).1
      have hx : (s.coolH f (s.tableOf f)).out.pfw = true ∧ (s.coolH f (s.tableOf f)).walk.active = true := by
        cases hh : s.isHTable s.walk.table with
        | false =>
          obtain ⟨⟨-, k, -⟩, ho, -⟩ := State.coolH_switches (f := f) (table := s.tableOf f) hs hh
          exact ⟨by rw [ho, ← hp], k⟩
        | true =>
          obtain ⟨-, -, -, -, k1, k2⟩ := State.coolH_queued (f := f) (table := s.tableOf f) hs hh
          cases hgr : s.walk.grace with
          | true => exact ⟨by rw [(k1 hgr).1, ← hp], (k1 hgr).2.2.2.trans ha⟩
          | false => exact ⟨by rw [(k2 hgr).2, hp], by rw [(k2 hgr).1, ha]⟩
      exact ⟨by rw [hpm]; exact hs, by rw [hpm], hx.1, hx.2⟩
    · obtain ⟨-, ho, hw⟩ := State.coolT_leaves (f := f) (table := s.tableOf f) hs
      have hpm := (s.coolT_pm f (s.tableOf f)).1
      exact ⟨by rw [hpm]; exact hs, by rw [hpm], by rw [ho, hp], by rw [hw]; exact ha⟩

theorem Stopped.of_receive (hs : s.pm.state = .ready ∨ s.pm.state = .firing ∨ s.pm.state = .running) {f : FaultRec}
    (hg : f.grade = 2 ∨ f.grade = 3) : Stopped (s.receive f) := by
  unfold State.receive
  rw [State.receiveAs_stops hs hg]
  obtain ⟨h1, h2, h3, h4⟩ := (s.startShutdown_starts (if f.grade = 3 then Start.gradeH else Start.gradeT) f (s.tableOf f)
    (if f.grade = 3 then Start.gradeH else Start.gradeT).pmCause none).seen (by split <;> decide)
  exact ⟨h1, h2, h3, h4⟩

/-- A cause received from each of several sources. -/
theorem Stopped.causes (h : Stopped s) (x : Nat) (src : Nat → Nat) (l : List Nat) :
    Stopped (l.foldl (fun u i => u.receiveCause x (src i)) s) := by
  induction l generalizing s with
  | nil => exact h
  | cons i l ih => exact ih (h.receive _)

/-- A cause of grade T or H, received in Ready, Firing or Running from one source at least. -/
theorem Stopped.of_causes (hs : s.pm.state = .ready ∨ s.pm.state = .firing ∨ s.pm.state = .running) {x : Nat}
    (hg : 2 ≤ fld (s.causeCfg x) 5 4) (src : Nat → Nat) {l : List Nat} (hl : l ≠ []) :
    Stopped (l.foldl (fun u i => u.receiveCause x (src i)) s) := by
  cases l with
  | nil => exact absurd rfl hl
  | cons i l =>
    refine Stopped.causes (Stopped.of_receive hs ?_) x src l
    have hlt := fld_lt (s.causeCfg x) 5 4
    have h23 : fld (s.causeCfg x) 5 4 = 2 ∨ fld (s.causeCfg x) 5 4 = 3 := by omega
    rcases h23 with h | h <;> dsimp only <;> rw [h]
    · exact .inl rfl
    · exact .inr rfl

theorem SameStores.of_apart {ps : List Part} {t : State} (h : Only ps s t)
    (hp : (Part.ident ∉ ps ∧ Part.cfg ∉ ps ∧ Part.sec ∉ ps) ∧ Part.kiln ∉ ps ∧ Part.fault ∉ ps ∧ Part.log ∉ ps ∧ Part.pending ∉ ps := by
      decide) : SameStores s t := by
  obtain ⟨⟨h1, h2, h3⟩, h4, h5, h6, h7⟩ := hp
  exact ⟨h.ident_eq h1, h.cfg_eq h2, by rw [h.sec_eq h3], by rw [h.kiln_eq h4], by rw [h.kiln_eq h4], by rw [h.fault_eq h5],
    by rw [h.log_eq h6], by rw [h.log_eq h6], h.pending_eq h7⟩

/-- Causes received one after another leave the inputs, the stores and the marks. -/
theorem State.causes_leave (x : Nat) (src : Nat → Nat) (l : List Nat) :
    Marks s (l.foldl (fun u i => u.receiveCause x (src i)) s) ∧ Quiet s (l.foldl (fun u i => u.receiveCause x (src i)) s)
      ∧ (l.foldl (fun u i => u.receiveCause x (src i)) s).inp = s.inp
      ∧ (l.foldl (fun u i => u.receiveCause x (src i)) s).sec = s.sec := by
  refine ⟨Marks.foldl (fun t i => t.receiveCause_marks x (src i)) l, Quiet.foldl (fun t i => State.receive_quiet _) l, ?_⟩
  induction l generalizing s with
  | nil => exact ⟨rfl, rfl⟩
  | cons i l ih =>
    have h := s.receiveCause_only x (src i)
    obtain ⟨h1, h2⟩ := ih (s := s.receiveCause x (src i))
    exact ⟨h1.trans h.inp_eq, h2.trans h.sec_eq⟩

/-! ## TRIPI and the sensors of the dies -/

/-- The TRIPI lines newly asserted, seen and tripping their channels, the fault logic not yet. -/
def State.tripiSees (s : State) (levels : BitVec 4) : State :=
  let rise := levels &&& ~~~s.inp.tripi
  (State.noteSet { s with inp := { s.inp with tripi := levels }, pwm := { s.pwm with tripiSeen := s.pwm.tripiSeen ||| rise } }
    0xD0010 (at_ rise.toNat 28)).tripPwm (rise.zeroExtend 32)

theorem State.tripiSees_leaves (levels : BitVec 4) : Only [.inp, .pwm, .irq] s (s.tripiSees levels)
    ∧ (s.tripiSees levels).inp = { s.inp with tripi := levels }
    ∧ (s.tripiSees levels).pwm.tripiSeen = s.pwm.tripiSeen ||| (levels &&& ~~~s.inp.tripi) := by
  have hn : Only [.inp, .pwm, .irq] s (State.noteSet { s with
      inp := { s.inp with tripi := levels }, pwm := { s.pwm with tripiSeen := s.pwm.tripiSeen ||| (levels &&& ~~~s.inp.tripi) } }
      0xD0010 (at_ (levels &&& ~~~s.inp.tripi).toNat 28)) := (Only.refl _ s).mk_upd
  unfold State.tripiSees
  dsimp only
  exact ⟨hn.trans ((State.tripPwm_only _ _).mono rfl), (State.tripPwm_only _ _).inp_eq, (State.tripPwm_marks _ _).seen⟩

theorem execTripiAssert_acts {levels : BitVec 4} (hc : s.clocked = true) (hr : levels &&& ~~~s.inp.tripi ≠ 0) :
    execTripiAssert levels s
      = .next ((bitsOf (levels &&& ~~~s.inp.tripi)).foldl (fun u i => u.receiveCause 1 i) (s.tripiSees levels)) := by
  have ho : s.pm.state ≠ .off := fun h => by
    unfold State.clocked at hc
    rw [h] at hc
    cases hc
  unfold execTripiAssert
  dsimp only
  rw [if_neg ho, hc, Bool.true_and, if_pos (bne_iff_ne.2 hr)]
  rfl

theorem execTripiAssert_takes {levels : BitVec 4} (ho : s.pm.state ≠ .off) (h : s.clocked = false ∨ levels &&& ~~~s.inp.tripi = 0) :
    execTripiAssert levels s = .next { s with inp := { s.inp with tripi := levels } } := by
  unfold execTripiAssert
  dsimp only
  rw [if_neg ho, if_neg]
  rw [Bool.and_eq_true, bne_iff_ne]
  rintro ⟨k, l⟩
  rcases h with h | h
  · exact absurd (h.symm.trans k) Bool.noConfusion
  · exact l h

theorem tripiAssert_taken {levels : BitVec 4} (ho : s.pm.state ≠ .off) :
    Answers (.tripiAssert levels) s fun t => t.inp = { s.inp with tripi := levels } ∧ t.cfg = s.cfg ∧ t.sec.slots = s.sec.slots := by
  by_cases h : s.clocked = true ∧ levels &&& ~~~s.inp.tripi ≠ 0
  · refine Answers.of_exec (execTripiAssert_acts h.1 h.2) ?_
    obtain ⟨ho, hi, -⟩ := s.tripiSees_leaves levels
    obtain ⟨-, hq, h1, h2⟩ := State.causes_leave (s := s.tripiSees levels) 1 id (bitsOf (levels &&& ~~~s.inp.tripi))
    simp only [id] at hq h1 h2
    exact ⟨h1.trans hi, hq.stores.2.1.trans ho.cfg_eq, by rw [h2, ho.sec_eq]⟩
  · refine Answers.of_exec (execTripiAssert_takes ho ?_) ⟨rfl, rfl, rfl⟩
    cases hc : s.clocked with
    | false => exact .inl rfl
    | true => exact .inr (not_not.1 (fun k => h ⟨hc, k⟩))

theorem bitsOf_ne_nil : ∀ w : BitVec 4, w ≠ 0 → bitsOf w ≠ [] := by decide

theorem tripiAssert_stops {levels : BitVec 4} (hs : s.pm.state = .ready ∨ s.pm.state = .firing ∨ s.pm.state = .running)
    (hr : levels &&& ~~~s.inp.tripi ≠ 0) (hg : 2 ≤ fld (s.causeCfg 1) 5 4) :
    Answers (.tripiAssert levels) s fun t =>
      t.pm.state = .cooling ∧ t.pm.faultLatch = true ∧ t.out.pfw = true ∧ t.walk.active = true
        ∧ t.pwm.tripiSeen = s.pwm.tripiSeen ||| (levels &&& ~~~s.inp.tripi) ∧ SameStores s t := by
  have hc : s.clocked = true := by
    unfold State.clocked
    rcases hs with h | h | h <;> rw [h] <;> rfl
  refine Answers.of_exec (execTripiAssert_acts hc hr) ?_
  obtain ⟨ho, -, hseen⟩ := s.tripiSees_leaves levels
  obtain ⟨hm, hq, -, -⟩ := State.causes_leave (s := s.tripiSees levels) 1 id (bitsOf (levels &&& ~~~s.inp.tripi))
  have hcfg : (s.tripiSees levels).causeCfg 1 = s.causeCfg 1 := ho.cfgAt_eq _
  obtain ⟨h1, h2, h3, h4⟩ := Stopped.of_causes (s := s.tripiSees levels) (x := 1) (by rwa [ho.pm_eq]) (by rwa [hcfg]) id
    (bitsOf_ne_nil _ hr)
  simp only [id] at hm hq h1 h2 h3 h4
  exact ⟨h1, h2, h3, h4, hm.seen.trans hseen, (SameStores.of_apart ho).trans hq.stores⟩

/-- One line newly asserted. -/
theorem tripi_rise : ∀ (a : BitVec 4) (i : BitVec 2), bit a i.toNat = false →
    (a ||| one 4 i.toNat) &&& ~~~a = one 4 i.toNat ∧ one 4 i.toNat ≠ (0 : BitVec 4) ∧ bitsOf (one 4 i.toNat) = [i.toNat] := by decide

/-- One TRIPI line newly asserted is received. -/
theorem tripiAssert_received {P : State → Prop} {i : BitVec 2} (hc : s.clocked = true) (hi : bit s.inp.tripi i.toNat = false)
    (hP : ∀ u, Only [.inp, .pwm, .irq] s u → P (u.receive (s.pinFault 1 i.toNat))) :
    Answers (.tripiAssert (s.inp.tripi ||| one 4 i.toNat)) s P := by
  obtain ⟨h1, h2, h3⟩ := tripi_rise s.inp.tripi i hi
  refine Answers.of_exec (execTripiAssert_acts hc (by rwa [h1])) ?_
  obtain ⟨ho, -, -⟩ := s.tripiSees_leaves (s.inp.tripi ||| one 4 i.toNat)
  have hf : (s.tripiSees (s.inp.tripi ||| one 4 i.toNat)).pinFault 1 i.toNat = s.pinFault 1 i.toNat := by
    unfold State.pinFault State.causeCfg
    rw [ho.cfgAt_eq]
  rw [h1, h3, List.foldl_cons, List.foldl_nil]
  have := hP _ ho
  rw [← hf] at this
  exact this

theorem State.pinFault_grade (x source : Nat) (h : fld (s.causeCfg x) 5 4 = 2 ∨ fld (s.causeCfg x) 5 4 = 3) :
    ((s.pinFault x source).grade = 2 ∨ (s.pinFault x source).grade = 3)
      ∧ ((s.pinFault x source).grade = 3 ↔ fld (s.causeCfg x) 5 4 = 3) := by
  unfold State.pinFault
  dsimp only
  rcases h with h | h <;> rw [h] <;> decide

theorem tripiAssert_held {i : BitVec 2} (hs : s.pm.state = .starting) (hp : s.pm.logicPowered = true)
    (hi : bit s.inp.tripi i.toNat = false) (hg : 2 ≤ fld (s.causeCfg 1) 5 4) :
    Answers (.tripiAssert (s.inp.tripi ||| one 4 i.toNat)) s fun t =>
      t.pm.state = .starting ∧ t.pm.stage = s.pm.stage ∧ t.pm.faultLatch = true ∧ t.out.pfw = true ∧ t.out.tripo = true
        ∧ HoldsFault (s.pinFault 1 i.toNat) (s.tableOf (s.pinFault 1 i.toNat)) s s t
        ∧ t.fault.queue = s.fault.queue ∧ t.out.en = s.out.en ∧ SameStores s t := by
  have hc : s.clocked = true := by
    unfold State.clocked
    rw [hs, hp]
    rfl
  have hlt := fld_lt (s.causeCfg 1) 5 4
  obtain ⟨hgr, -⟩ := State.pinFault_grade (s := s) 1 i.toNat (by omega)
  refine tripiAssert_received hc hi fun u hu => ?_
  have hup : u.pm = s.pm := hu.pm_eq
  have hus : u.pm.state = .starting := by
    rw [hup]
    exact hs
  have hq := State.receive_quiet (s := u) (s.pinFault 1 i.toNat)
  rw [State.receive_held hus hgr, State.tableOf_congr hu] at hq ⊢
  obtain ⟨h1, h2, h3, h4, -⟩ := u.recordOnly_holds (s.pinFault 1 i.toNat) (s.tableOf (s.pinFault 1 i.toNat)) rfl
  generalize (u.recordOnly (s.pinFault 1 i.toNat)).holdFault (s.pinFault 1 i.toNat) (s.tableOf (s.pinFault 1 i.toNat)) = t at h1 h2 h3 h4 hq ⊢
  refine ⟨?_, ?_, ?_, ?_, ?_, h1.of_eq (by rw [hup]) (by rw [hu.fault_eq]) hu.clk_eq, h4.trans (by rw [hu.fault_eq]), ?_,
    (SameStores.of_apart hu).trans hq.stores⟩
  · rw [h2]
    exact hus
  · rw [h2, hup]
  · rw [h2]
  · rw [h3]
  · rw [h3]
  · rw [hq.en, hu.out_eq]

theorem tripiAssert_queued {i : BitVec 2} (hs : s.pm.state = .cooling) (hi : bit s.inp.tripi i.toNat = false)
    (hg : fld (s.causeCfg 1) 5 4 = 2) :
    Answers (.tripiAssert (s.inp.tripi ||| one 4 i.toNat)) s fun t =>
      Queued (s.pinFault 1 i.toNat) s t ∧ t.pm.state = .cooling ∧ t.out = s.out
        ∧ t.walk = { s.walk with
            tripDue := if s.out.tripo || s.walk.tripDue.isSome then s.walk.tripDue else some (s.clk.now + s.tripTicks) }
        ∧ SameStores s t := by
  have hc : s.clocked = true := by
    unfold State.clocked
    rw [hs]
    rfl
  obtain ⟨hgr, h3⟩ := State.pinFault_grade (s := s) 1 i.toNat (.inl hg)
  refine tripiAssert_received hc hi fun u hu => ?_
  have hus : u.pm.state = .cooling := by
    rw [hu.pm_eq]
    exact hs
  have hq := State.receive_quiet (s := u) (s.pinFault 1 i.toNat)
  rw [State.receive_cools hus hgr, if_neg (fun k => by rw [h3, hg] at k; cases k)] at hq ⊢
  obtain ⟨h1, h2, h4⟩ := State.coolT_leaves (f := s.pinFault 1 i.toNat) (table := u.tableOf (s.pinFault 1 i.toNat)) hus
  have hpm := (u.coolT_pm (s.pinFault 1 i.toNat) (u.tableOf (s.pinFault 1 i.toNat))).1
  have htt : u.tripTicks = s.tripTicks := by
    unfold State.tripTicks
    rw [hu.cfgAt_eq]
  rw [hu.walk_eq, hu.out_eq, hu.clk_eq, htt] at h4
  refine ⟨h1.of_eq hu.fault_eq, ?_, h2.trans hu.out_eq, h4, (SameStores.of_apart hu).trans hq.stores⟩
  rw [hpm]
  exact hus

theorem tripiAssert_switches {i : BitVec 2} (hs : s.pm.state = .cooling) (hi : bit s.inp.tripi i.toNat = false)
    (hg : fld (s.causeCfg 1) 5 4 = 3) (hh : s.isHTable s.walk.table = false) :
    Answers (.tripiAssert (s.inp.tripi ||| one 4 i.toNat)) s fun t =>
      Switched (s.tableOf (s.pinFault 1 i.toNat)) (s.pinFault 1 i.toNat) s t ∧ t.out = { s.out with tripo := true } ∧ SameStores s t := by
  have hc : s.clocked = true := by
    unfold State.clocked
    rw [hs]
    rfl
  obtain ⟨hgr, h3⟩ := State.pinFault_grade (s := s) 1 i.toNat (.inr hg)
  refine tripiAssert_received hc hi fun u hu => ?_
  have hus : u.pm.state = .cooling := by
    rw [hu.pm_eq]
    exact hs
  have hht : u.isHTable u.walk.table = false := by
    unfold State.isHTable at hh ⊢
    rwa [hu.walk_eq, hu.fault_eq]
  have hq := State.receive_quiet (s := u) (s.pinFault 1 i.toNat)
  rw [State.receive_cools hus hgr, if_pos (h3.2 hg), State.tableOf_congr hu] at hq ⊢
  obtain ⟨h1, h2, -⟩ := State.coolH_switches (f := s.pinFault 1 i.toNat) (table := s.tableOf (s.pinFault 1 i.toNat)) hus hht
  rw [hu.out_eq] at h2
  refine ⟨?_, h2, (SameStores.of_apart hu).trans hq.stores⟩
  unfold Switched State.tableEntries at h1 ⊢
  rwa [hu.walk_eq, hu.fault_eq] at h1

/-- The sensors above their limit, as they are taken. -/
def State.withOverTemp (s : State) (sensors : BitVec 4) : State := { s with inp := { s.inp with overTemp := sensors } }

theorem execDieOverTemperature_case {sensors : BitVec 4} (ho : s.pm.state ≠ .off) : execDieOverTemperature sensors s
    = .next (if s.pm.state = .standby then s.withOverTemp sensors
      else (bitsOf (sensors &&& ~~~s.inp.overTemp)).foldl (fun u i => u.receiveCause 2 (dieOf i)) (s.withOverTemp sensors)) := by
  unfold execDieOverTemperature
  dsimp only
  rw [if_neg ho]
  split <;> rfl

theorem dieOverTemperature_taken {sensors : BitVec 4} (ho : s.pm.state ≠ .off) :
    Answers (.dieOverTemperature sensors) s fun t =>
      t.inp = { s.inp with overTemp := sensors } ∧ t.cfg = s.cfg ∧ t.sec.slots = s.sec.slots := by
  refine Answers.of_exec (execDieOverTemperature_case ho) ?_
  split
  · exact ⟨rfl, rfl, rfl⟩
  · obtain ⟨-, hq, h1, h2⟩ := State.causes_leave (s := s.withOverTemp sensors) 2 dieOf (bitsOf (sensors &&& ~~~s.inp.overTemp))
    exact ⟨h1, hq.stores.2.1, by rw [h2]; rfl⟩

theorem dieOverTemperature_stops {sensors : BitVec 4} (hs : s.pm.state = .ready ∨ s.pm.state = .firing ∨ s.pm.state = .running)
    (hr : sensors &&& ~~~s.inp.overTemp ≠ 0) (hg : 2 ≤ fld (s.causeCfg 2) 5 4) :
    Answers (.dieOverTemperature sensors) s fun t =>
      t.pm.state = .cooling ∧ t.pm.faultLatch = true ∧ t.out.pfw = true ∧ t.walk.active = true ∧ SameStores s t := by
  refine Answers.of_exec (execDieOverTemperature_case (by rcases hs with h | h | h <;> rw [h] <;> decide)) ?_
  rw [if_neg (by rcases hs with h | h | h <;> rw [h] <;> decide)]
  obtain ⟨-, hq, -, -⟩ := State.causes_leave (s := s.withOverTemp sensors) 2 dieOf (bitsOf (sensors &&& ~~~s.inp.overTemp))
  obtain ⟨h1, h2, h3, h4⟩ := Stopped.of_causes (s := s.withOverTemp sensors) (x := 2) hs hg dieOf (bitsOf_ne_nil _ hr)
  exact ⟨h1, h2, h3, h4, (SameStores.of_apart (ps := [.inp]) (Only.refl _ s).mk_upd).trans hq.stores⟩

end

/-- Settles O7, by what a fault brings in each state, and by the lines and sensors that are newly asserted. -/
theorem heldRequestsAndPins : Obligations.HeldRequestsAndPins := by
  unfold Obligations.HeldRequestsAndPins
  refine ⟨fun due s h hp => ?_, fun due c s => tOffminElapsed_fires, fun due s => ownershipWindowClose_due,
    fun s => ownershipWindowClose_released, fun levels s => tripiAssert_taken,
    fun levels s hl hr => ?_, fun levels s => tripiAssert_stops, fun i s => tripiAssert_held, fun i s => tripiAssert_queued,
    fun i s => tripiAssert_switches, fun sensors s => dieOverTemperature_taken, fun sensors s => dieOverTemperature_stops⟩
  · refine Answers.of_exec (t := { s.till due with pm := { (s.till due).pm with offMinDue := none } }) ?_
      ⟨State.till_clock (s := s) due, ?_, ((s.till_only due).mono rfl).mk_upd⟩
    · refine (execTOffminElapsed_case h).trans (congrArg _ (State.tryPending_idle (.inl ?_)))
      rw [← hp, ← (s.till_only due).pm_eq]
    · rw [← (s.till_only due).pm_eq]
  · exact Answers.of_exec (execTripiAssert_takes (fun h => by rw [h] at hl; cases hl) (.inr hr)) ⟨rfl, (Only.refl _ s).mk_upd⟩

end Sys2Proof.Machine
end

section
/-! SUPPORT. Clocks and crossings (O21). -/

set_option Elab.async false

namespace Sys2Proof.Machine

section
variable {s : State}

theorem State.clocked_awake (h : s.clocked = true) : s.pm.state ≠ .standby := fun hs => by
  unfold State.clocked at h
  rw [hs] at h
  cases h

/-! ## A re-lock of the PLL -/

/-- The clocks as a re-lock leaves them: the outputs stop, and the core leaves the PLL. -/
def State.relockClk (s : State) : Clk :=
  { s.outsStop.clk with corePll := false, pllLocked := false, rcPhase := 0, relock := some s.clk.now, retryDue := none }

/-- A re-lock holds every output low and leaves the stores, the EN outputs and the interrupts of the clocks. -/
theorem State.startRelock_begins (h : s.clocked = true) :
    s.startRelock.clk = s.relockClk ∧ Marks s s.startRelock ∧ s.startRelock.out.en = s.out.en ∧ SameStores s s.startRelock := by
  have ho : Only [.clk] s { s with clk := s.relockClk } := (Only.refl _ s).mk_upd
  have hc : Only [.sense] { s with clk := s.relockClk } (s.enOpenSrcs.foldl State.closeEn { s with clk := s.relockClk }) :=
    Only.foldl (f := State.closeEn) _ (Only.refl _ _) (fun t src h => h.trans (t.closeEn_only src))
  have he : s.startRelock = (s.enOpenSrcs.foldl State.closeEn { s with clk := s.relockClk }).senseChange s s.enOpenSrcs := rfl
  generalize s.enOpenSrcs.foldl State.closeEn _ = u at hc he
  have hu : Only [.clk, .sense] s u := (ho.mono rfl).trans (hc.mono rfl)
  have hf := State.senseChange_faultFrame (s := u) (by rw [hu.pm_eq]; exact State.clocked_awake h) s s.enOpenSrcs
  rw [he]
  exact ⟨hf.clk.trans hc.clk_eq, (Marks.of_only hu).trans (u.senseChange_marks _ _), hf.en.trans (by rw [hu.out_eq]),
    (SameStores.of_apart hu).trans hf.sameStores⟩

theorem nth_map_range {α : Type} (f : Nat → α) (d : α) {n k : Nat} (h : k < n) : nth ((List.range n).map f) k d = f k := by
  show ((List.range n).map f)[k]?.getD d = f k
  rw [List.getElem?_map, List.getElem?_range h]
  rfl

theorem State.relockClk_outs {n : Nat} (h : n < 4) : (nth s.relockClk.outs n {}).running = false := by
  have he : s.relockClk.outs = (List.range 4).map (fun n => (s.outNow n).stop (s.outCfg n) s.clk) := rfl
  rw [he, nth_map_range _ _ h]
  rfl

theorem State.startRelock_relocking (h : s.clocked = true) : Relocking s s.startRelock := by
  obtain ⟨hc, -, -, -⟩ := State.startRelock_begins h
  unfold Relocking
  rw [hc]
  exact ⟨rfl, rfl, rfl, rfl, fun n hn => State.relockClk_outs hn, rfl, rfl⟩

theorem State.relocks_clocked (h : s.relocks = true) : s.clocked = true := by
  unfold State.relocks at h
  exact ((Bool.and_eq_true _ _).mp h).1

theorem refclkLost_relocks (hr : s.relocks = true) (hk : s.clk.refOk = true) : Answers .refclkLost s fun t =>
    t.clk.refOk = false ∧ t.clk.pllRefRc = true ∧ bit t.irq.ck 0 = true ∧ Relocking s t ∧ t.out.en = s.out.en ∧ SameStores s t := by
  have hc := State.relocks_clocked hr
  let u := { s with clk := { s.clk with refOk := false, refBack := false } }.irqCk 0
  let v : State := { u with clk := { u.clk with pllRefRc := true } }
  have hu : Only [.clk, .irq] s u := (((Only.refl _ s).mk_upd).trans ((State.irqCk_only _ 0).mono rfl))
  have hv : Only [.clk, .irq] s v := hu.trans ((Only.refl _ u).mk_upd)
  have hcv : v.clocked = true := hc
  refine Answers.of_exec (t := v.startRelock) ?_ ?_
  · show execRefclkLost s = _
    unfold execRefclkLost
    rw [if_pos (by rw [hc, hk]; rfl)]
    dsimp only
    rw [if_pos hr]
  · obtain ⟨h1, h2, h3, h4⟩ := State.startRelock_begins hcv
    have hck : bit v.irq.ck 0 = true := State.irqCk_bit _ 0 (by decide)
    obtain ⟨r1, r2, r3, r4, r5, r6, r7⟩ := State.startRelock_relocking hcv
    refine ⟨by rw [h1]; rfl, by rw [h1]; rfl, by rw [h2.ck]; exact hck, ⟨r1, r2, r3, r4, r5, r6, r7⟩, h3.trans (by rw [hv.out_eq]),
      (SameStores.of_apart hv).trans h4⟩

theorem refclkBack_relocks (hr : s.relocks = true) (hk : s.clk.refOk = false) : Answers .refclkBack s fun t =>
    t.clk.refOk = true ∧ t.clk.pllRefRc = false ∧ t.clk.refBack = true ∧ Relocking s t ∧ t.out.en = s.out.en ∧ SameStores s t := by
  have hc := State.relocks_clocked hr
  let v : State := { s with clk := { s.clk with refOk := true, refBack := true, pllRefRc := false } }
  have hv : Only [.clk] s v := (Only.refl _ s).mk_upd
  have hcv : v.clocked = true := hc
  refine Answers.of_exec (t := v.startRelock) ?_ ?_
  · show execRefclkBack s = _
    unfold execRefclkBack
    rw [if_pos (by rw [hc, hk]; rfl)]
    dsimp only
    rw [if_pos hr]
  · obtain ⟨h1, -, h3, h4⟩ := State.startRelock_begins hcv
    obtain ⟨r1, r2, r3, r4, r5, r6, r7⟩ := State.startRelock_relocking hcv
    exact ⟨by rw [h1]; rfl, by rw [h1]; rfl, by rw [h1]; rfl, ⟨r1, r2, r3, r4, r5, r6, r7⟩, h3, (SameStores.of_apart hv).trans h4⟩

theorem refclk_unlocked (hc : s.clocked = true) (hr : s.relocks = false) :
    (s.clk.refOk = true → Answers .refclkLost s fun t =>
        t.clk = { s.clk with refOk := false, refBack := false } ∧ bit t.irq.ck 0 = true ∧ Only [.clk, .irq] s t)
      ∧ (s.clk.refOk = false → Answers .refclkBack s fun t => t.clk = { s.clk with refOk := true } ∧ Only [.clk] s t) := by
  let u : State := { s with clk := { s.clk with refOk := false, refBack := false } }
  let v : State := { s with clk := { s.clk with refOk := true } }
  have hu : Only [.clk, .irq] s u := (Only.refl _ s).mk_upd
  refine ⟨fun hk => ?_, fun hk => ?_⟩
  · refine Answers.of_exec (t := u.irqCk 0) ?_ ⟨rfl, u.irqCk_bit 0 (by decide), hu.trans ((u.irqCk_only 0).mono rfl)⟩
    show execRefclkLost s = _
    unfold execRefclkLost
    rw [if_pos (by rw [hc, hk]; rfl)]
    dsimp only
    rw [if_neg (by rw [hr]; exact Bool.false_ne_true)]
  · refine Answers.of_exec (t := v) ?_ ⟨rfl, (Only.refl _ s).mk_upd⟩
    show execRefclkBack s = _
    unfold execRefclkBack
    rw [if_pos (by rw [hc, hk]; rfl)]
    dsimp only
    rw [if_neg (by rw [hr]; exact Bool.false_ne_true)]

theorem pllLossOfLock_relocks (hc : s.clocked = true) (hl : s.clk.pllLocked = true) (hr : (s.clk.refOk || s.clk.pllRefRc) = true) :
    Answers .pllLossOfLock s fun t =>
      t.clk.refOk = s.clk.refOk ∧ t.clk.pllRefRc = s.clk.pllRefRc ∧ Relocking s t ∧ t.out.en = s.out.en ∧ SameStores s t := by
  obtain ⟨h1, -, h3, h4⟩ := State.startRelock_begins hc
  refine Answers.of_exec (t := s.startRelock) (if_pos ?_) ⟨by rw [h1]; rfl, by rw [h1]; rfl, State.startRelock_relocking hc, h3, h4⟩
  unfold State.relocks
  rw [hc, hl, hr]
  rfl

/-! ## The PLL locks, or does not -/

/-- The state in which the PLL has locked, its interrupt raised where REFCLK is back. -/
def State.lockedClk (s : State) : State :=
  let t := { s with clk := { s.clk with
    relock := none, retryDue := none, pllLocked := true, corePll := true, pllRefRc := !s.clk.refOk, refBack := false
    relockCount := inc 255 s.clk.relockCount } }
  if s.clk.refBack then t.irqCk 1 else t

theorem State.lockedClk_frame : Only [.clk, .irq] s s.lockedClk
    ∧ s.lockedClk.clk = { s.clk with
      relock := none, retryDue := none, pllLocked := true, corePll := true, pllRefRc := !s.clk.refOk, refBack := false
      relockCount := inc 255 s.clk.relockCount }
    ∧ (s.clk.refBack = true → bit s.lockedClk.irq.ck 1 = true) ∧ (s.clk.refBack = false → s.lockedClk.irq = s.irq) := by
  unfold State.lockedClk
  dsimp only
  cases hb : s.clk.refBack with
  | true =>
    rw [if_pos rfl]
    exact ⟨((Only.refl _ s).mk_upd).trans ((State.irqCk_only _ 1).mono rfl), rfl, fun _ => State.irqCk_bit _ 1 (by decide), fun h => by cases h⟩
  | false =>
    rw [if_neg Bool.false_ne_true]
    exact ⟨(Only.refl _ s).mk_upd, rfl, fun h => (by cases h), fun _ => rfl⟩

theorem State.outNow_start (n : Nat) : (s.outNow n).start = (nth s.clk.outs n {}).start := by
  unfold State.outNow ClkOut.settle
  dsimp only
  split
  · rfl
  · split <;> rfl

theorem State.outsRun_outs {n : Nat} (h : n < 4) (hb : bit (s.outCfg n) 31 = true) :
    nth s.outsRun.clk.outs n {} = (s.outNow n).go (s.outCfg n) s.clk := by
  have he : s.outsRun.clk.outs = (List.range 4).map (fun n =>
    if bit (s.outCfg n) 31 then (s.outNow n).go (s.outCfg n) s.clk else s.outNow n) := rfl
  rw [he, nth_map_range _ _ h, if_pos hb]

theorem State.outNow_congr {t : State} {n : Nat} (hc : t.outCfg n = s.outCfg n) (ho : t.clk.outs = s.clk.outs)
    (hn : t.clk.now = s.clk.now) : t.outNow n = s.outNow n := by
  unfold State.outNow
  rw [hc, ho, hn]

theorem pllLock_locks (hc : s.clocked = true) (hr : s.clk.relock ≠ none) : Answers .pllLock s fun t =>
    t.clk.pllLocked = true ∧ t.clk.corePll = true ∧ t.clk.relock = none ∧ t.clk.pllRefRc = !s.clk.refOk
      ∧ t.clk.relockCount = inc 255 s.clk.relockCount ∧ t.clk.refBack = false ∧ (s.clk.refBack = true → bit t.irq.ck 1 = true)
      ∧ (s.clk.refBack = false → t.irq = s.irq)
      ∧ (s.outsLive = true → ∀ n, n < 4 → bit (s.outCfg n) 31 = true → (nth t.clk.outs n {}).running = true
          ∧ (nth t.clk.outs n {}).start = (nth s.clk.outs n {}).start
          ∧ (nth t.clk.outs n {}).begins
              = (if bit (s.outCfg n) 27 then s.clk.now else (s.outNow n).boundary (outDiv (s.outCfg n)) s.clk.now))
      ∧ (s.outsLive = false → t.clk.outs = s.clk.outs)
      ∧ t.clk.now = s.clk.now ∧ t.clk.stamp = s.clk.stamp ∧ Only [.clk, .irq] s t := by
  obtain ⟨ho, hk, hb, hn⟩ := State.lockedClk_frame (s := s)
  have hlive : s.lockedClk.outsLive = s.outsLive := by unfold State.outsLive; rw [ho.pm_eq]
  have hx : exec .pllLock s = .next (if s.lockedClk.outsLive then s.lockedClk.outsRun else s.lockedClk) :=
    if_pos (by rw [hc]; cases h : s.clk.relock with
      | none => exact absurd h hr
      | some _ => rfl)
  have hcfg (n : Nat) : s.lockedClk.outCfg n = s.outCfg n := ho.cfgAt_eq _
  have hnow (n : Nat) : s.lockedClk.outNow n = s.outNow n := State.outNow_congr (hcfg n) (by rw [hk]) (by rw [hk])
  rw [hlive] at hx
  cases hl : s.outsLive with
  | true =>
    rw [hl, if_pos rfl] at hx
    refine Answers.of_exec hx ?_
    have hi : s.lockedClk.outsRun.irq = s.lockedClk.irq := rfl
    have hcl : s.lockedClk.outsRun.clk = { s.lockedClk.clk with outs := s.lockedClk.outsRun.clk.outs } := rfl
    have houts {n : Nat} (h : n < 4) (hb : bit (s.outCfg n) 31 = true) :
        nth s.lockedClk.outsRun.clk.outs n {} = (s.outNow n).go (s.outCfg n) s.lockedClk.clk := by
      rw [State.outsRun_outs h (by rw [hcfg]; exact hb), hcfg, hnow]
    have hor := ho.trans (s.lockedClk.outsRun_only.mono rfl)
    generalize s.lockedClk.outsRun = t at hi hcl houts hor
    rw [hk] at hcl houts
    refine ⟨by rw [hcl], by rw [hcl], by rw [hcl], by rw [hcl], by rw [hcl], by rw [hcl], fun h => by rw [hi]; exact hb h,
      fun h => by rw [hi]; exact hn h, fun _ n hn hb => ?_, fun h => (by cases h), by rw [hcl], by rw [hcl], hor⟩
    rw [houts hn hb]
    exact ⟨rfl, State.outNow_start n, rfl⟩
  | false =>
    rw [hl, if_neg Bool.false_ne_true] at hx
    refine Answers.of_exec hx ?_
    exact ⟨by rw [hk], by rw [hk], by rw [hk], by rw [hk], by rw [hk], by rw [hk], hb, hn, fun h => (by cases h), fun _ => by rw [hk],
      by rw [hk], by rw [hk], ho⟩

/-- What the report of a cause leaves of a state that is awake. -/
theorem State.receiveCause_reports {u : State} {ps : List Part} (h : Only ps s u) (hs : s.pm.state ≠ .standby) (x source : Nat)
    (hp : ((Part.cfg ∉ ps ∧ Part.cfgLoaded ∉ ps ∧ Part.sgLoaded ∉ ps) ∧ Part.pm ∉ ps ∧ Part.out ∉ ps ∧ Part.ctl ∉ ps)
      ∧ (Part.ident ∉ ps ∧ Part.cfg ∉ ps ∧ Part.sec ∉ ps) ∧ Part.kiln ∉ ps ∧ Part.fault ∉ ps ∧ Part.log ∉ ps ∧ Part.pending ∉ ps := by
        decide) :
    (u.receiveCause x source).clk = u.clk ∧ (u.receiveCause x source).irq.ck = u.irq.ck ∧ CauseSeen x s (u.receiveCause x source)
      ∧ (u.receiveCause x source).frozen = u.frozen ∧ (u.receiveCause x source).out.en = s.out.en
      ∧ SameStores s (u.receiveCause x source) := by
  have hf := State.receiveCause_faultFrame (s := u) (by rw [h.pm_eq hp.1.2.1]; exact hs) x source
  exact ⟨hf.clk, (u.receiveCause_marks x source).ck, (State.receiveCause_seen x source).of_only h hp.1, hf.only.frozen_eq,
    hf.en.trans (by rw [h.out_eq hp.1.2.2.1]), (SameStores.of_apart h hp.2).trans hf.sameStores⟩

theorem relockFail_reports {t0 : Nat} (hr : s.clk.relock = some t0) (hc : s.clocked = true) : Answers .relockFail s fun t =>
    t.clk.now = max s.clk.now (t0 + 500 * usTicks) ∧ t.clk.relock = none ∧ t.clk.retryDue = some (t0 + 10 * msTicks)
      ∧ bit t.irq.ck 2 = true ∧ CauseSeen 3 s t ∧ t.out.en = s.out.en ∧ SameStores s t := by
  let v := s.till (t0 + 500 * usTicks)
  let u : State := ({ v with clk := { v.clk with relock := none, retryDue := some (t0 + 10 * msTicks) } } : State).irqCk 2
  have hu : Only [.clk, .irq] s u :=
    (((s.till_only _).mono rfl).trans ((Only.refl _ v).mk_upd)).trans ((State.irqCk_only _ 2).mono rfl)
  refine Answers.of_exec (t := u.receiveCause 3 0) ?_ ?_
  · show execRelockFail s = _
    unfold execRelockFail
    rw [hr]
    exact if_pos hc
  · obtain ⟨h1, h2, h3, -, h4, h5⟩ := State.receiveCause_reports hu (State.clocked_awake hc) 3 0
    refine ⟨by rw [h1]; exact State.till_clock _, by rw [h1]; rfl, by rw [h1]; rfl, ?_, h3, h4, h5⟩
    rw [h2]
    exact State.irqCk_bit _ 2 (by decide)

theorem relockRetry_tries {due : Nat} (hd : s.clk.retryDue = some due) (hc : s.clocked = true) : Answers .relockRetry s fun t =>
    t.clk.now = max s.clk.now due ∧ t.clk.relock = some t.clk.now ∧ t.clk.retryDue = none ∧ t.clk.corePll = s.clk.corePll
      ∧ Only [.clk] s t := by
  refine Answers.of_exec (t := { s.till due with clk := { (s.till due).clk with relock := some (s.till due).clk.now, retryDue := none } })
    ?_ ⟨State.till_clock _, rfl, rfl, (s.till_ran due).corePll, (s.till_only due).mk_upd⟩
  show execRelockRetry s = _
  unfold execRelockRetry
  rw [hd]
  exact if_pos hc

/-! ## The crossings -/

/-- A crossing's report before its cause: the bit of CK_XING_ERR and the interrupt. -/
def State.crossingNoted (s : State) (i : Nat) : State :=
  (State.noteSet { s with clk := { s.clk with xingErr := putBit s.clk.xingErr i true } } 0xC0020 (one 32 i)).irqCk 8

theorem State.crossingNoted_frame (i : Nat) : Only [.clk, .irq] s (s.crossingNoted i)
    ∧ (s.crossingNoted i).clk = { s.clk with xingErr := putBit s.clk.xingErr i true } ∧ bit (s.crossingNoted i).irq.ck 8 = true :=
  ⟨(((Only.refl _ s).mk_upd).trans ((State.noteSet_only _ _ _).mono rfl)).trans ((State.irqCk_only _ 8).mono rfl), rfl,
    State.irqCk_bit _ 8 (by decide)⟩

theorem State.crossingReport_two : s.crossingReport 2 = s.crossingNoted 2 := rfl

theorem State.crossingReport_other {i : Nat} (h : i ≠ 2) : s.crossingReport i = (s.crossingNoted i).receiveCause 3 i := if_neg h

theorem crossingError_reports {c : BitVec 4} (hc : s.clocked = true) (h1 : 1 ≤ c.toNat) (h4 : c.toNat ≤ 4) (h2 : c.toNat ≠ 2) :
    Answers (.crossingError c) s fun t =>
      t.clk.xingErr = putBit s.clk.xingErr c.toNat true ∧ bit t.irq.ck 8 = true ∧ CauseSeen 3 s t ∧ t.clk.stopped = s.clk.stopped
        ∧ t.out.en = s.out.en ∧ SameStores s t := by
  obtain ⟨ho, hk, hb⟩ := State.crossingNoted_frame (s := s) c.toNat
  obtain ⟨k1, k2, k3, -, k4, k5⟩ := State.receiveCause_reports ho (State.clocked_awake hc) 3 c.toNat
  refine Answers.of_exec (t := (s.crossingNoted c.toNat).receiveCause 3 c.toNat) ?_
    ⟨by rw [k1, hk], by rw [k2]; exact hb, k3, by rw [k1, hk], k4, k5⟩
  rw [← State.crossingReport_other h2]
  exact if_pos ⟨hc, h1, h4⟩

theorem crossingError_two (hc : s.clocked = true) : Answers (.crossingError 2) s fun t =>
    t.clk = { s.clk with xingErr := putBit s.clk.xingErr 2 true } ∧ bit t.irq.ck 8 = true ∧ Only [.clk, .irq] s t := by
  obtain ⟨ho, hk, hb⟩ := State.crossingNoted_frame (s := s) 2
  exact Answers.of_exec (t := s.crossingReport 2) (if_pos ⟨hc, by decide, by decide⟩) ⟨hk, hb, ho⟩

theorem clockStopped_reports {c : BitVec 4} (hc : s.clocked = true) (h13 : c = 1 ∨ c = 3) (hs : bit s.clk.stopped c.toNat = false) :
    Answers (.clockStopped c) s fun t =>
      t.clk.stopped = putBit s.clk.stopped c.toNat true ∧ t.clk.xingErr = putBit s.clk.xingErr c.toNat true
        ∧ (c = 1 → ∃ f, t.frozen = some f ∧ f.sense = s.sense ∧ f.sec = s.sec ∧ f.cfg = s.cfg ∧ f.sgStore = s.kiln.sgStore)
        ∧ (c = 3 → t.frozen = s.frozen) ∧ bit t.irq.ck 8 = true ∧ CauseSeen 3 s t ∧ t.out.en = s.out.en ∧ SameStores s t := by
  let v : State := { s with clk := { s.clk with stopped := putBit s.clk.stopped c.toNat true } }
  let u : State := if c.toNat = 1 then { v with frozen := some s.freeze } else v
  have hu : Only [.clk, .frozen] s u := by
    show Only _ s (if _ then _ else _)
    split
    · exact ((Only.refl _ s).mk_upd : Only [.clk, .frozen] s v).trans ((Only.refl _ v).mk_upd)
    · exact (Only.refl _ s).mk_upd
  have huk : u.clk = v.clk := by
    show (if _ then _ else _ : State).clk = _
    split <;> rfl
  have hi : c.toNat ≠ 2 ∧ (c.toNat = 1 ∨ c.toNat = 3) := by rcases h13 with rfl | rfl <;> decide
  obtain ⟨ho, hk, hb⟩ := State.crossingNoted_frame (s := u) c.toNat
  have hfr : (u.crossingNoted c.toNat).frozen = u.frozen := rfl
  have hsu : Only [.clk, .frozen, .irq] s (u.crossingNoted c.toNat) := (hu.mono rfl).trans (ho.mono rfl)
  obtain ⟨k1, k2, k3, k4, k5, k6⟩ := State.receiveCause_reports hsu (State.clocked_awake hc) 3 c.toNat
  refine Answers.of_exec (t := (u.crossingNoted c.toNat).receiveCause 3 c.toNat) ?_
    ⟨by rw [k1, hk, huk], by rw [k1, hk, huk], fun h => ⟨s.freeze, ?_, rfl, rfl, rfl, rfl⟩, fun h => ?_, by rw [k2]; exact hb, k3, k5, k6⟩
  · show execClockStopped c s = _
    unfold execClockStopped
    dsimp only
    rw [if_neg (by show ¬ (!s.clocked || bit s.clk.stopped c.toNat) = true; rw [hc, hs]; exact Bool.false_ne_true), if_neg hi.1, if_pos hi.2, State.crossingReport_other hi.1]
  · rw [k4, hfr]
    exact congrArg State.frozen (if_pos (by rw [h]; rfl))
  · rw [k4, hfr]
    have hn : u = v := if_neg (show c.toNat ≠ 1 by rw [h]; decide)
    rw [hn]

theorem clockStopped_coppice (hc : s.clocked = true) (hs : bit s.clk.stopped 2 = false) : Answers (.clockStopped 2) s fun t =>
    t.pm.state = .coppice ∧ t.pm.lastCause = 0x43 ∧ t.pm.faultLatch = true ∧ t.out.pfw = true ∧ t.out.tripo = true
      ∧ t.walk.reduced = true ∧ t.walk.table = 6 ∧ SameStores s t := by
  have hx : exec (.clockStopped 2) s = .next s.enterCoppice := by
    show execClockStopped 2 s = _
    unfold execClockStopped
    dsimp only
    rw [if_neg (by show ¬ (!s.clocked || bit s.clk.stopped 2) = true; rw [hc, hs]; exact Bool.false_ne_true), if_pos (show BitVec.toNat (2 : BitVec 4) = 2 by decide)]
  refine Answers.of_exec hx ?_
  obtain ⟨ho, hout, hwalk⟩ := State.enterCoppice_frame (s := s)
  obtain ⟨b1, b2, b3, -, b5, -, b7, b8, -, -, b11, b12, b13, b14, b15, b16, b17⟩ := State.coppiceBegun_frame (s := s)
  generalize s.enterCoppice = t at ho hout hwalk ⊢
  generalize s.coppiceBegun = b at *
  rw [b8] at hwalk
  rw [b5] at hout
  refine ⟨by rw [ho.pm_eq, b1], by rw [ho.pm_eq, b2], by rw [ho.pm_eq, b3], by rw [hout], by rw [hout], by rw [hwalk],
    by rw [hwalk]; rfl, ?_⟩
  unfold SameStores
  rw [ho.ident_eq, ho.cfg_eq, ho.sec_eq, ho.kiln_eq, ho.fault_eq, ho.log_eq, ho.pending_eq, b7, b16]
  exact ⟨b14, b15, rfl, rfl, rfl, b11, b12, b13, b17⟩

theorem crossingResumes_third (hc : s.clocked = true) (hs : bit s.clk.stopped 3 = true) : Answers (.crossingResumes 3) s fun t =>
    t.clk = { s.clk with stopped := putBit s.clk.stopped 3 false } ∧ Only [.clk] s t := by
  refine Answers.of_exec (t := { s with clk := { s.clk with stopped := putBit s.clk.stopped 3 false } }) ?_ ⟨rfl, (Only.refl _ s).mk_upd⟩
  show execCrossingResumes 3 s = _
  unfold execCrossingResumes
  dsimp only
  rw [if_pos ⟨hc, hs⟩]
  rfl

theorem crossingResumes_first (hc : s.clocked = true) (hs : bit s.clk.stopped 1 = true) : Answers (.crossingResumes 1) s fun t =>
    t.clk.stopped = putBit s.clk.stopped 1 false ∧ t.frozen = none ∧ t.sense = s.sense ∧ t.out.en = s.out.en ∧ SameStores s t := by
  let u : State := { s with clk := { s.clk with stopped := putBit s.clk.stopped 1 false }, frozen := none }
  have hu : Only [.clk, .frozen] s u := ((Only.refl _ s).mk_upd : Only [.clk, .frozen] s { s with frozen := none }).trans ((Only.refl _ _).mk_upd)
  have hx : ∀ f : Option Frozen, s.frozen = f → exec (.crossingResumes 1) s =
       .next (match f with | some f => u.coreSees { u with sense := f.sense } (List.range 256) | none => u) := by
    intro f hf
    show execCrossingResumes 1 s = _
    unfold execCrossingResumes
    dsimp only
    rw [if_pos ⟨hc, hs⟩, hf]
    cases f <;> rfl
  cases hf : s.frozen with
  | none => exact Answers.of_exec (hx _ hf) ⟨rfl, rfl, rfl, rfl, SameStores.of_apart hu⟩
  | some f =>
    refine Answers.of_exec (hx _ hf) ?_
    have hff := State.coreSees_faultFrame (s := u) (State.clocked_awake hc) { u with sense := f.sense } (List.range 256)
    have ho := u.coreSees_only { u with sense := f.sense } (List.range 256)
    exact ⟨by rw [hff.clk], ho.frozen_eq, ho.sense_eq, hff.en, (SameStores.of_apart hu).trans hff.sameStores⟩

end

/-- Settles O21, row by row, through what a re-lock, a cause's report and a crossing's note leave. -/
theorem clocksAndCrossings : Obligations.ClocksAndCrossings := by
  unfold Obligations.ClocksAndCrossings
  refine ⟨fun s => refclkLost_relocks, fun s => refclkBack_relocks, fun s => refclk_unlocked, fun s => pllLossOfLock_relocks,
    fun s => pllLock_locks, fun t0 s => relockFail_reports, fun due s => relockRetry_tries, fun ratio s hc hr => ?_, fun s hx => ?_,
    fun c s => crossingError_reports, fun s => crossingError_two, fun c s => clockStopped_reports, fun s => clockStopped_coppice,
    fun s => crossingResumes_third, fun s => crossingResumes_first⟩
  · exact Answers.of_exec (t := { s with clk := { s.clk with ratio := ratio, ratioValid := true } }) (if_pos (by rw [hc, hr]; rfl))
      ⟨rfl, (Only.refl _ s).mk_upd⟩
  · let u : State := { s with clk := { s.clk with x32Xtal := false } }
    have hu : Only [.clk, .irq] s u := (Only.refl _ s).mk_upd
    have hx' : exec .x32CrystalFail s = .next (if s.clocked then u.irqCk 7 else u) := if_pos hx
    cases hc : s.clocked with
    | true =>
      rw [hc, if_pos rfl] at hx'
      exact Answers.of_exec hx' ⟨rfl, fun _ => State.irqCk_bit _ 7 (by decide), hu.trans ((State.irqCk_only _ 7).mono rfl)⟩
    | false =>
      rw [hc, if_neg Bool.false_ne_true] at hx'
      exact Answers.of_exec hx' ⟨rfl, fun h => (by cases h), hu⟩

end Sys2Proof.Machine
end

section
/-! SUPPORT. ENABLE, DISABLE, RAMP, SIGNAL and SNAP (O15). -/

set_option Elab.async false

namespace Sys2Proof.Machine

section
variable {s t u v : State} {k : BitVec 3} {n op : Nat} {f : Fetch}

/-! ## An engine while the comparators change -/

/-- What a change of comparators in Firing leaves of engine n, which is in no CHECK: it goes on, or a fault's shutdown has aborted it. -/
structure Watched (n : Nat) (s t : State) : Prop where
  clk : t.clk = s.clk
  programs : SamePrograms s t
  flags : t.kiln.eventFlags = s.kiln.eventFlags
  length : t.kiln.engines.length = s.kiln.engines.length
  cfg : t.cfg = s.cfg
  sec : t.sec = s.sec
  course : (t.pm = s.pm ∧ t.eng n = s.eng n) ∨ (t.pm.state = .cooling ∧ t.pm.faultLatch = true ∧ t.eng n = (s.eng n).abort)

/-- Before the comparators change, the engines and the power mode are as they were. -/
theorem Watched.after (h : Watched n t u) (hc : t.clk = s.clk) (hk : t.kiln.engines = s.kiln.engines)
    (hf : t.kiln.eventFlags = s.kiln.eventFlags) (hp : SamePrograms s t) (hm : t.pm = s.pm) (hg : t.cfg = s.cfg) (hs : t.sec = s.sec) :
    Watched n s u := by
  obtain ⟨h1, ⟨p1, p2, p3⟩, h3, h4, h5, h6, h7⟩ := h
  obtain ⟨q1, q2, q3⟩ := hp
  have he : t.eng n = s.eng n := by
    unfold State.eng
    rw [hk]
  exact ⟨h1.trans hc, ⟨p1.trans q1, p2.trans q2, p3.trans q3⟩, h3.trans hf, h4.trans (by rw [hk]), h5.trans hg, h6.trans hs, by
    rwa [hm, he] at h7⟩

theorem Watched.of_acts {ps : List Part} (h : Only ps s t) (hp : Part.clk ∉ ps ∧ Part.kiln ∉ ps ∧ Part.pm ∉ ps ∧ Part.cfg ∉ ps ∧ Part.sec ∉ ps
    := by decide) : Watched n s t := by
  obtain ⟨h1, h2, h3, h4, h5⟩ := hp
  refine ⟨h.clk_eq h1, .of_same (h.kiln_eq h2), by rw [h.kiln_eq h2], by rw [h.kiln_eq h2], h.cfg_eq h4, h.sec_eq h5, .inl ⟨h.pm_eq h3, ?_⟩⟩
  unfold State.eng
  rw [h.kiln_eq h2]

/-- An engine in no CHECK, and what a CHECK's observation leaves of the engines' block. -/
structure Observed (n : Nat) (s t : State) : Prop where
  eng : t.eng n = s.eng n
  flags : t.kiln.eventFlags = s.kiln.eventFlags
  length : t.kiln.engines.length = s.kiln.engines.length
  programs : SamePrograms s t

theorem Observed.refl (n : Nat) (s : State) : Observed n s s := ⟨rfl, rfl, rfl, .of_same rfl⟩

theorem Observed.trans (h : Observed n s t) (k : Observed n t u) : Observed n s u := by
  obtain ⟨p1, p2, p3⟩ := h.programs
  obtain ⟨q1, q2, q3⟩ := k.programs
  exact ⟨k.eng.trans h.eng, k.flags.trans h.flags, k.length.trans h.length, q1.trans p1, q2.trans p2, q3.trans p3⟩

theorem State.observeEngine_observed (hb : (s.eng n).busy = .none) (j : Nat) : Observed n s (s.observeEngine j) := by
  unfold State.observeEngine
  split
  next w t0 rails hj =>
    have hne : n ≠ j := fun he => by
      rw [he] at hb
      exact absurd (hb.symm.trans hj) (by simp)
    exact ⟨nth_modNth_ne _ _ _ _ _ (Ne.symm hne), rfl, modNth_length _ _ _, ⟨rfl, rfl, rfl⟩⟩
  next => exact .refl n s

theorem State.observeChecks_observed (hb : (s.eng n).busy = .none) : Observed n s s.observeChecks := by
  have h (l : List Nat) : ∀ u : State, (u.eng n).busy = .none → Observed n u (l.foldl State.observeEngine u) := by
    induction l with
    | nil => exact fun u _ => .refl n u
    | cons j l ih =>
      intro u hu
      have ho := State.observeEngine_observed hu j
      exact ho.trans (ih _ (by rw [ho.eng]; exact hu))
  exact h _ s hb

theorem State.senseChange_watched (hf : s.pm.state = .firing) (hb : (s.eng n).busy = .none) (old : State) (srcs : List Nat) :
    Watched n s (s.senseChange old srcs) := by
  have ha : Only [.sense, .irq, .pwm] s ((s.armAll srcs).refreshFlt old) :=
    ((State.armAll_only _ _).mono rfl).trans ((State.refreshFlt_only _ _).mono rfl)
  unfold State.senseChange
  dsimp only
  generalize (s.armAll srcs).refreshFlt old = u at ha ⊢
  have hue : u.eng n = s.eng n := by
    unfold State.eng
    rw [ha.kiln_eq]
  split
  · exact .of_acts ha
  · have hl : u.pm.state.logs = true := by
      rw [ha.pm_eq, hf]
      rfl
    have ho := State.observeChecks_observed (s := u) (n := n) (by rw [hue]; exact hb)
    have hw := u.observeChecks.sweepSees_only
    have hs : Only [.mg, .log, .free, .kiln] u u.observeChecks.sweepSees := ((State.observeChecks_only _).mono rfl).trans (hw.mono rfl)
    have hr := State.coreSees_received hl old srcs
    have hor : Observed n s u.observeChecks.sweepSees := by
      have h0 : Observed n s u := ⟨hue, by rw [ha.kiln_eq], by rw [ha.kiln_eq], .of_same ha.kiln_eq⟩
      refine h0.trans (ho.trans ⟨?_, by rw [hw.kiln_eq], by rw [hw.kiln_eq], .of_same hw.kiln_eq⟩)
      unfold State.eng
      rw [hw.kiln_eq]
    have hsw : Only [.sense, .irq, .pwm, .mg, .log, .free, .kiln] s u.observeChecks.sweepSees := (ha.mono rfl).trans (hs.mono rfl)
    generalize u.observeChecks.sweepSees = w at hr hor hsw
    have hc := hr.frame.only
    generalize u.coreSees old srcs = t at hr hc ⊢
    have hpr : SamePrograms s t := by
      obtain ⟨p1, p2, p3⟩ := hor.programs
      obtain ⟨q1, q2, q3⟩ := hr.frame.programs
      exact ⟨q1.trans p1, q2.trans p2, q3.trans p3⟩
    obtain ⟨hp, hk⟩ | ⟨h0, -, -⟩ | ⟨-, h1, h2, hk⟩ := hr.course
    · refine ⟨hr.frame.clk.trans hsw.clk_eq, hpr, by rw [hk, hor.flags], by rw [hk, hor.length], hc.cfg_eq.trans hsw.cfg_eq,
        hc.sec_eq.trans hsw.sec_eq, .inl ⟨hp.trans hsw.pm_eq, ?_⟩⟩
      rw [← hor.eng]
      unfold State.eng
      rw [hk]
    · rw [hsw.pm_eq, hf] at h0
      cases h0
    · refine ⟨hr.frame.clk.trans hsw.clk_eq, hpr, by rw [hk]; exact hor.flags, ?_, hc.cfg_eq.trans hsw.cfg_eq,
        hc.sec_eq.trans hsw.sec_eq, .inr ⟨h1, h2, ?_⟩⟩
      · rw [hk]
        exact (List.length_map ..).trans hor.length
      · rw [← hor.eng, ← State.abortEngines_eng]
        unfold State.eng
        rw [hk]

theorem State.enHigh_watched (hf : s.pm.state = .firing) (hb : (s.eng n).busy = .none) (m : Rails) :
    Watched n s (s.enHigh m) ∧ (s.enHigh m).out.en = s.out.en ||| m := by
  by_cases hm : m &&& ~~~s.out.en = 0
  · have he : s.enHigh m = s := if_pos hm
    rw [he]
    refine ⟨.of_acts (Only.refl [] s), ?_⟩
    ext i hi
    have hx := congrArg (fun x : Rails => x[i]) hm
    simp only [BitVec.getElem_and, BitVec.getElem_not, BitVec.getElem_zero, BitVec.getElem_or] at hx ⊢
    revert hx
    cases m[i] <;> cases s.out.en[i] <;> simp
  · let t : State := { s with out := { s.out with en := s.out.en ||| (m &&& ~~~s.out.en) } }
    let v := (bitsOf (m &&& ~~~s.out.en)).foldl (fun (u : State) n => if (u.trim n).level = 5 then u.trimNominal n else u) t
    let w := (srcsOf (m &&& ~~~s.out.en)).foldl State.cmpEnable v
    have hv : Only [.mg] t v := Only.foldl _ (Only.refl _ t) (fun u n hu => Only.ite (hu.trans (u.trimNominal_only n)) hu)
    have hw : Only [.sense] v w := Only.foldl _ (Only.refl _ v) (fun u n hu => hu.trans (u.cmpEnable_only n))
    have ht : Only [.out] s t := (Only.refl _ s).mk_upd
    have ho : Only [.out, .mg, .sense] s w := (ht.mono rfl).trans ((hv.mono rfl).trans (hw.mono rfl))
    have he : s.enHigh m = w.senseChange s (srcsOf (m &&& ~~~s.out.en)) := if_neg hm
    have hwe : w.eng n = s.eng n := by
      unfold State.eng
      rw [ho.kiln_eq]
    have hc := State.senseChange_watched (s := w) (n := n) (by rw [ho.pm_eq]; exact hf) (by rw [hwe]; exact hb) s
      (srcsOf (m &&& ~~~s.out.en))
    rw [he]
    refine ⟨hc.after ho.clk_eq (by rw [ho.kiln_eq]) (by rw [ho.kiln_eq]) (.of_same ho.kiln_eq) ho.pm_eq ho.cfg_eq ho.sec_eq, ?_⟩
    rw [(w.senseChange_quiet _ _).en, hw.out_eq, hv.out_eq]
    show s.out.en ||| (m &&& ~~~s.out.en) = _
    ext i hi
    simp only [BitVec.getElem_and, BitVec.getElem_not, BitVec.getElem_or]
    cases m[i] <;> cases s.out.en[i] <;> rfl

theorem State.disable_watched (hf : s.pm.state = .firing) (hb : (s.eng n).busy = .none) (m : Rails) :
    Watched n s (s.disable m) ∧ (s.disable m).out.en = s.out.en &&& ~~~m := by
  by_cases hm : m = 0
  · have he : s.disable m = s := if_pos hm
    rw [he, hm]
    refine ⟨.of_acts (Only.refl [] s), ?_⟩
    show s.out.en = s.out.en &&& ~~~0#64
    rw [BitVec.not_zero, BitVec.and_allOnes]
  · let t : State := { s with out := { s.out with en := s.out.en &&& ~~~m } }
    let w := (srcsOf m).foldl State.cmpLow t
    have hw : Only [.sense] t w := Only.foldl _ (Only.refl _ t) (fun u n hu => hu.trans (u.cmpLow_only n))
    have ht : Only [.out] s t := (Only.refl _ s).mk_upd
    have ho : Only [.out, .sense] s w := (ht.mono rfl).trans (hw.mono rfl)
    have he : s.disable m = w.senseChange s (srcsOf m) := if_neg hm
    have hwe : w.eng n = s.eng n := by
      unfold State.eng
      rw [ho.kiln_eq]
    have hc := State.senseChange_watched (s := w) (n := n) (by rw [ho.pm_eq]; exact hf) (by rw [hwe]; exact hb) s (srcsOf m)
    rw [he]
    refine ⟨hc.after ho.clk_eq (by rw [ho.kiln_eq]) (by rw [ho.kiln_eq]) (.of_same ho.kiln_eq) ho.pm_eq ho.cfg_eq ho.sec_eq, ?_⟩
    rw [(w.senseChange_quiet _ _).en, hw.out_eq]

/-! ## The end of a step that the comparators have seen -/

/-- What the step leaves of its engine where its own act left it as at its issue, or a fault has aborted it. -/
theorem Issues.watched (h : Issues k op f s) (hp : (s.eng k.toNat).pc < lastStep k.toNat) (hx : Watched k.toNat (s.atIssue k op f) u) :
    (u.endStep k.toNat 1).out = u.out ∧ Issued k op s (u.endStep k.toNat 1)
      ∧ ((u.endStep k.toNat 1).pm.state = .firing → GoesTo k ((s.eng k.toNat).pc + 1) s (u.endStep k.toNat 1))
      ∧ ((u.endStep k.toNat 1).pm.state ≠ .firing → (u.endStep k.toNat 1).pm.state = .cooling
          ∧ ((u.endStep k.toNat 1).eng k.toNat).st = .aborted ∧ (u.endStep k.toNat 1).pm.faultLatch = true)
      ∧ SameFlags k s (u.endStep k.toNat 1) ∧ SamePrograms s (u.endStep k.toNat 1)
      ∧ (u.endStep k.toNat 1).kiln.eventFlags = s.kiln.eventFlags ∧ (u.endStep k.toNat 1).cfg = s.cfg
      ∧ (u.endStep k.toNat 1).sec = s.sec ∧ Only [.kiln] u (u.endStep k.toNat 1) := by
  have hv := h.atIssue
  obtain ⟨-, hfl, -⟩ := State.atIssue_tick (s := s) k op f
  have hf : s.pm.state = .firing := (State.mayIssue_engine h.1).1
  have hl := h.length
  generalize s.atIssue k op f = v at hv hx hfl
  have hpu : (u.eng k.toNat).pc = (s.eng k.toNat).pc := by
    obtain ⟨-, he⟩ | ⟨-, -, he⟩ := hx.course
    · rw [he, hv.stepped.eng]
      rfl
    · rw [he, hv.stepped.eng]
      rfl
  have hg := State.endStep_goes (t := u) (n := k.toNat) (by rw [hpu]; exact hp) 1
  have ho := State.endStep_only_kiln (t := u) (n := k.toNat) (by rw [hpu]; exact hp) 1
  rw [hpu] at hg
  have hul : k.toNat < u.kiln.engines.length := by
    rw [hx.length, hv.stepped.length]
    exact hl
  have hT : u.engTicks k.toNat 1 = s.engTicks k.toNat 1 := State.engTicks_pll (by rw [hx.clk]; exact hv.ran.corePll) _ _
  have hn : u.clk.now = issueTick k s := by rw [hx.clk, hv.now]
  have hpr : SamePrograms s (u.endStep k.toNat 1) := by
    obtain ⟨p1, p2, p3⟩ := hx.programs
    obtain ⟨q1, q2, q3⟩ := SamePrograms.of_kiln (s := s) (t := v) (by rw [hv.kiln])
    rw [hg]
    exact ⟨p1.trans q1, p2.trans q2, p3.trans q3⟩
  have hce : (u.endStep k.toNat 1).kiln.eventFlags = s.kiln.eventFlags := by
    rw [hg]
    exact hx.flags.trans hfl
  have hcl : (u.endStep k.toNat 1).clk.now = issueTick k s := by rw [ho.clk_eq, hn]
  refine ⟨ho.out_eq, ?_⟩
  have hcfg : (u.endStep k.toNat 1).cfg = s.cfg := ho.cfg_eq.trans (hx.cfg.trans hv.only.cfg_eq)
  have hsec : (u.endStep k.toNat 1).sec = s.sec := ho.sec_eq.trans (hx.sec.trans hv.only.sec_eq)
  obtain ⟨hpm, he⟩ | ⟨h1, h2, he⟩ := hx.course
  · have hst : (u.endStep k.toNat 1).pm.state = .firing := by rw [ho.pm_eq, hpm, hv.pm, hf]
    have hen : (u.endStep k.toNat 1).eng k.toNat = ((s.eng k.toNat).issued op).goes ((s.eng k.toNat).pc + 1)
        ((u.endStep k.toNat 1).clk.now + s.engTicks k.toNat 1) := by
      rw [hg]
      refine (State.setEng_same _ hul).trans ?_
      rw [he, hv.stepped.eng, if_pos (Engine.active_running rfl), hT]
      rfl
    exact ⟨.of_eng hcl hen rfl rfl rfl rfl, fun _ => .of_eng hen, fun x => absurd hst x, .of_eng hen rfl rfl rfl rfl, hpr, hce, hcfg,
      hsec, ho⟩
  · have hst : (u.endStep k.toNat 1).pm.state = .cooling := by rw [ho.pm_eq, h1]
    have hen : (u.endStep k.toNat 1).eng k.toNat = { (s.eng k.toNat).issued op with st := .aborted, busy := .none } := by
      rw [hg]
      refine (State.setEng_same _ hul).trans ?_
      rw [he, hv.stepped.eng]
      rfl
    refine ⟨.of_eng hcl hen rfl rfl rfl rfl, fun x => ?_, fun _ => ⟨hst, by rw [hen], by rw [ho.pm_eq, h2]⟩, .of_eng hen rfl rfl rfl rfl,
      hpr, hce, hcfg, hsec, ho⟩
    rw [hst] at x
    cases x

/-! ## The rails that a DISABLE of the tick selects -/

/-- What one engine adds to the rails of the DISABLE steps that are due. -/
def disableOf (o : Option Step64) : Rails :=
  match o with
  | some w => if stOp w = 2 then stRails w else 0
  | none => 0

theorem State.disablesDue_eq (s : State) : s.disablesDue = [0, 1, 2, 3, 4].foldl (fun m j => m ||| disableOf (s.issuesNow j)) 0 := by
  have h (l : List Nat) : ∀ m, (l.filterMap s.issuesNow).foldl (fun m w => if stOp w = 2 then m ||| stRails w else m) m
      = l.foldl (fun m j => m ||| disableOf (s.issuesNow j)) m := by
    induction l with
    | nil => exact fun _ => rfl
    | cons j l ih =>
      intro m
      cases hj : s.issuesNow j with
      | none =>
        rw [List.filterMap_cons_none hj, ih, List.foldl_cons, hj]
        show _ = l.foldl _ (m ||| 0#64)
        rw [BitVec.or_zero]
      | some w =>
        rw [List.filterMap_cons_some hj, List.foldl_cons, ih, List.foldl_cons, hj]
        have hd : disableOf (some w) = if stOp w = 2 then stRails w else 0#64 := rfl
        rw [hd]
        by_cases hw : stOp w = 2
        · rw [if_pos hw, if_pos hw]
        · rw [if_neg hw, if_neg hw, BitVec.or_zero]
  exact h _ _

theorem State.issuesNow_congr {j : Nat} (he : t.eng j = s.eng j) (hp : t.pm = s.pm) (hn : t.clk.now = s.clk.now)
    (hs : SamePrograms s t) (hb : t.stepBudget j = s.stepBudget j) (hd : t.timeBudget j = s.timeBudget j) :
    t.issuesNow j = s.issuesNow j := by
  obtain ⟨h1, h2, -⟩ := hs
  have ha (a : Nat) : t.stepAt j a = s.stepAt j a := by
    unfold State.stepAt
    rw [h1, h2]
  have hh : t.hasStep j = s.hasStep j := by
    unfold State.hasStep
    rw [he, hp, hn, hb, hd]
  unfold State.issuesNow State.stepOf
  simp only [hh, he, hp, hn, hb, hd, ha]

/-- An engine between steps whose next step is no DISABLE selects no rail. -/
theorem disableOf_none {j : Nat} (hb : (t.eng j).busy = .none) (ho : stOp (t.stepOf j) ≠ 2) : disableOf (t.issuesNow j) = 0 := by
  unfold State.issuesNow
  dsimp only
  rw [hb]
  dsimp only
  split
  · split
    · exact if_neg ho
    · rfl
  · rfl

theorem Issues.disablesDue (h : Issues k op f s) (ho : op ≠ 2) :
    (s.atIssue k op f).disablesDue = (s.till (issueTick k s)).disablesDue := by
  obtain ⟨-, hbusy, -, hop⟩ := State.mayIssue_engine h.1
  have hv := h.atIssue
  have hw := s.till_only (issueTick k s)
  have hwn : (s.till (issueTick k s)).clk.now = issueTick k s := by
    rw [s.till_clock]
    unfold issueTick
    omega
  rw [State.disablesDue_eq, State.disablesDue_eq]
  generalize s.atIssue k op f = v at hv
  generalize s.till (issueTick k s) = w at hw hwn
  have hwd (t : State) {ps : List Part} (ht : Only ps s t) (hp : Part.cfg ∉ ps ∧ Part.cfgLoaded ∉ ps ∧ Part.sgLoaded ∉ ps) (j : Nat) :
      t.engWdog j = s.engWdog j := by
    unfold State.engWdog
    simp only [ht.cfgAt_eq _ hp]
  have hvw (j : Nat) : v.engWdog j = w.engWdog j := (hwd v hv.only (by decide) j).trans (hwd w hw (by decide) j).symm
  have hpv : SamePrograms s v := .of_kiln (by rw [hv.kiln])
  have hpw : SamePrograms s w := .of_same hw.kiln_eq
  have hwe (j : Nat) : w.eng j = s.eng j := by
    unfold State.eng
    rw [hw.kiln_eq]
  have hpvw : SamePrograms w v := by
    obtain ⟨p1, p2, p3⟩ := hpv
    obtain ⟨q1, q2, q3⟩ := hpw
    exact ⟨p1.trans q1.symm, p2.trans q2.symm, p3.trans q3.symm⟩
  have hstep {t : State} (hp : SamePrograms s t) (hpc : (t.eng k.toNat).pc = (s.eng k.toNat).pc) : stOp (t.stepOf k.toNat) ≠ 2 := by
    obtain ⟨h1, h2, -⟩ := hp
    have he : t.stepOf k.toNat = s.stepOf k.toNat := by
      unfold State.stepOf State.stepAt
      rw [h1, h2, hpc]
    rw [he, hop]
    exact ho
  have hfun : (fun (m : Rails) j => m ||| disableOf (v.issuesNow j)) = fun m j => m ||| disableOf (w.issuesNow j) := by
    funext m j
    by_cases hj : j = k.toNat
    · rw [hj, disableOf_none (by rw [hv.stepped.eng]; exact hbusy) (hstep hpv (by rw [hv.stepped.eng]; rfl)),
        disableOf_none (by rw [hwe]; exact hbusy) (hstep hpw (by rw [hwe]))]
    · have he : v.eng j = w.eng j := (hv.stepped.others j hj).trans (hwe j).symm
      rw [State.issuesNow_congr he (hv.pm.trans hw.pm_eq.symm) (hv.now.trans hwn.symm) hpvw]
      · unfold State.stepBudget
        rw [hvw]
      · unfold State.timeBudget
        rw [hvw]
  rw [hfun]

/-- The rails that the step acts on, as its issue finds them (Table 04.13). -/
theorem Issues.actRails (h : Issues k op f s) (ho : op ≠ 2) :
    stRails (s.stepOf k.toNat) &&& ~~~(s.atIssue k op f).disabledNow = actRails k s := by
  obtain ⟨ht, -, -⟩ := State.atIssue_tick (s := s) k op f
  unfold State.disabledNow Machine.actRails
  rw [h.disablesDue ho, ht, h.atIssue.now]

/-! ## ENABLE and DISABLE -/

theorem Kiln.withTick_of {a b : Kiln} (h : a = { b with tick := a.tick }) (x : TickLog) : { a with tick := x } = { b with tick := x } := by
  rw [h]

theorem State.setFlags_kiln (s : State) (m : BitVec 16) :
    (s.setFlags m).kiln = { s.kiln with tick := (s.setFlags m).kiln.tick, eventFlags := s.kiln.eventFlags ||| m } := by
  unfold State.setFlags
  dsimp only
  rw [s.openTick_kiln]

/-- What the rows of EN outputs say, from what the comparators leave of the engine. -/
theorem Issues.rails (h : Issues k op f s) (hp : (s.eng k.toNat).pc < lastStep k.toNat) (hx : Watched k.toNat (s.atIssue k op f) u)
    {m : Rails} (hm : u.out.en = m) : (u.endStep k.toNat 1).out.en = m ∧ Issued k op s (u.endStep k.toNat 1)
      ∧ ((u.endStep k.toNat 1).pm.state = .firing → GoesTo k ((s.eng k.toNat).pc + 1) s (u.endStep k.toNat 1))
      ∧ ((u.endStep k.toNat 1).pm.state ≠ .firing → (u.endStep k.toNat 1).pm.state = .cooling
          ∧ ((u.endStep k.toNat 1).eng k.toNat).st = .aborted ∧ (u.endStep k.toNat 1).pm.faultLatch = true)
      ∧ SamePrograms s (u.endStep k.toNat 1) ∧ (u.endStep k.toNat 1).kiln.eventFlags = s.kiln.eventFlags
      ∧ (u.endStep k.toNat 1).cfg = s.cfg ∧ (u.endStep k.toNat 1).sec.slots = s.sec.slots := by
  obtain ⟨h1, h2, h3, h4, -, h6, h7, h8, h9, -⟩ := h.watched hp hx
  exact ⟨by rw [h1, hm], h2, h3, h4, h6, h7, h8, by rw [h9]⟩

theorem Issues.firing_between (h : Issues k op f s) :
    (s.atIssue k op f).pm.state = .firing ∧ ((s.atIssue k op f).eng k.toNat).busy = .none := by
  obtain ⟨h1, h2, -, -⟩ := State.mayIssue_engine h.1
  rw [h.atIssue.pm, h.atIssue.stepped.eng]
  exact ⟨h1, h2⟩

theorem enableStep_enables (h : Issues k 0x1 f s) (hp : (s.eng k.toNat).pc < lastStep k.toNat) :
    Answers (.enableStep k f) s fun t =>
      t.out.en = s.out.en ||| actRails k s ∧ Issued k 0x1 s t
        ∧ (t.pm.state = .firing → GoesTo k ((s.eng k.toNat).pc + 1) s t)
        ∧ (t.pm.state ≠ .firing → t.pm.state = .cooling ∧ (t.eng k.toNat).st = .aborted ∧ t.pm.faultLatch = true)
        ∧ SamePrograms s t ∧ t.kiln.eventFlags = s.kiln.eventFlags ∧ t.cfg = s.cfg ∧ t.sec.slots = s.sec.slots := by
  obtain ⟨hf, hb⟩ := h.firing_between
  obtain ⟨hw, he⟩ := State.enHigh_watched hf hb (stRails (s.stepOf k.toNat) &&& ~~~(s.atIssue k 0x1 f).disabledNow)
  exact Answers.of_exec (congrArg Host.Outcome.next (h.engStep _))
    (h.rails hp hw (he.trans (by rw [h.actRails (by decide), h.atIssue.only.out_eq])))

theorem disableStep_disables (h : Issues k 0x2 f s) (hp : (s.eng k.toNat).pc < lastStep k.toNat) :
    Answers (.disableStep k f) s fun t =>
      t.out.en = s.out.en &&& ~~~stRails (s.stepOf k.toNat) ∧ Issued k 0x2 s t
        ∧ (t.pm.state = .firing → GoesTo k ((s.eng k.toNat).pc + 1) s t)
        ∧ (t.pm.state ≠ .firing → t.pm.state = .cooling ∧ (t.eng k.toNat).st = .aborted ∧ t.pm.faultLatch = true)
        ∧ SamePrograms s t ∧ t.kiln.eventFlags = s.kiln.eventFlags ∧ t.cfg = s.cfg ∧ t.sec.slots = s.sec.slots := by
  obtain ⟨hf, hb⟩ := h.firing_between
  have hv := h.atIssue.only.out_eq
  let o := (s.atIssue k 0x2 f).openTick
  let u : State := { o with kiln := { o.kiln with tick := { o.kiln.tick with disabled := o.kiln.tick.disabled ||| stRails (s.stepOf k.toNat) } } }
  have hk : u.kiln = { (s.atIssue k 0x2 f).kiln with tick := u.kiln.tick } := by
    have ho : o.kiln = { (s.atIssue k 0x2 f).kiln with tick := o.kiln.tick } := State.openTick_kiln _
    exact Kiln.withTick_of ho _
  have hu : Only [.kiln] (s.atIssue k 0x2 f) u := (State.openTick_only _).trans ((Only.refl _ o).mk_upd)
  have hue : u.eng k.toNat = (s.atIssue k 0x2 f).eng k.toNat := by
    unfold State.eng
    rw [hk]
  obtain ⟨hw, he⟩ := State.disable_watched (s := u) (n := k.toNat) (by rw [hu.pm_eq]; exact hf) (by rw [hue]; exact hb)
    (stRails (s.stepOf k.toNat))
  rw [hu.out_eq, hv] at he
  exact Answers.of_exec (congrArg Host.Outcome.next (h.engStep _)) (h.rails hp (hw.after hu.clk_eq (by rw [hk]) (by rw [hk])
    ⟨by rw [hk], by rw [hk], by rw [hk]⟩ hu.pm_eq hu.cfg_eq hu.sec_eq) he)

/-! ## A step that passes on its own act -/

/-- What the end of a step leaves where its act left the engines. -/
theorem Issues.goesOn (h : Issues k op f s) (hp : (s.eng k.toNat).pc < lastStep k.toNat) (hc : u.clk = (s.atIssue k op f).clk)
    (he : u.kiln.engines = (s.atIssue k op f).kiln.engines) :
    Issued k op s (u.endStep k.toNat 1) ∧ GoesTo k ((s.eng k.toNat).pc + 1) s (u.endStep k.toNat 1) ∧ SameFlags k s (u.endStep k.toNat 1)
      ∧ OtherEngines k s (u.endStep k.toNat 1) ∧ Only [.kiln] u (u.endStep k.toNat 1)
      ∧ (u.endStep k.toNat 1).kiln = { u.kiln with engines := (u.endStep k.toNat 1).kiln.engines } := by
  have hv := h.atIssue
  have hst := hv.stepped.same he
  have hg := hv.goes h.length hst hc (Engine.active_running rfl) ((s.eng k.toNat).pc + 1)
  rw [State.endStep_goes (by rw [hst.eng]; exact hp), hst.eng]
  have hn : (u.goStep k.toNat ((s.eng k.toNat).pc + 1) 1).clk.now = issueTick k s := by
    rw [(u.goStep_only _ _ _).clk_eq, hc, hv.now]
  exact ⟨.of_eng hn hg.eng rfl rfl rfl rfl, .of_eng hg.eng, .of_eng hg.eng rfl rfl rfl rfl, hg.others, u.goStep_only _ _ _, rfl⟩

/-! ## SIGNAL and SNAP -/

theorem signalStep_signals (h : Issues k 0x9 f s) (hp : (s.eng k.toNat).pc < lastStep k.toNat) :
    Answers (.signalStep k f) s fun t =>
      let w := s.stepOf k.toNat
      Issued k 0x9 s t ∧ GoesTo k ((s.eng k.toNat).pc + 1) s t ∧ SameFlags k s t ∧ OtherEngines k s t
        ∧ (bit w 56 = false → t.kiln.eventFlags = s.kiln.eventFlags ||| stFlags w)
        ∧ (bit w 56 = true → t.kiln.eventFlags = s.kiln.eventFlags
            &&& ~~~(stFlags w &&& ~~~(if s.kiln.tick.time = issueTick k s then s.kiln.tick.evSet else 0)))
        ∧ SamePrograms s t ∧ t.kiln.failBits = s.kiln.failBits ∧ Only [.clk, .kiln] s t := by
  have hv := h.atIssue
  obtain ⟨ht, hfl, hfb⟩ := State.atIssue_tick (s := s) k 0x9 f
  let v := s.atIssue k 0x9 f
  let u : State := if bit (s.stepOf k.toNat) 56 then v.clearFlags (stFlags (s.stepOf k.toNat)) else v.setFlags (stFlags (s.stepOf k.toNat))
  have hx : exec (.signalStep k f) s = .next (u.endStep k.toNat 1) := congrArg Host.Outcome.next (h.engStep _)
  refine Answers.of_exec hx ?_
  have hu : Only [.kiln] v u ∧ u.kiln = { v.kiln with tick := u.kiln.tick, eventFlags := u.kiln.eventFlags }
      ∧ (bit (s.stepOf k.toNat) 56 = false → u.kiln.eventFlags = s.kiln.eventFlags ||| stFlags (s.stepOf k.toNat))
      ∧ (bit (s.stepOf k.toNat) 56 = true → u.kiln.eventFlags = s.kiln.eventFlags
        &&& ~~~(stFlags (s.stepOf k.toNat) &&& ~~~(if s.kiln.tick.time = issueTick k s then s.kiln.tick.evSet else 0))) := by
    cases hb : bit (s.stepOf k.toNat) 56 with
    | true =>
      have hu : u = v.clearFlags (stFlags (s.stepOf k.toNat)) := if_pos hb
      have hk := v.clearFlags_kiln (stFlags (s.stepOf k.toNat))
      rw [hu]
      refine ⟨v.clearFlags_only _, by rw [hk], fun h => (by cases h), fun _ => ?_⟩
      rw [hk]
      show v.kiln.eventFlags &&& _ = _
      rw [show v.kiln.eventFlags = _ from hfl, show v.kiln.tick = _ from ht, show v.clk.now = _ from hv.now]
    | false =>
      have hu : u = v.setFlags (stFlags (s.stepOf k.toNat)) := if_neg (by rw [hb]; exact Bool.false_ne_true)
      have hk := v.setFlags_kiln (stFlags (s.stepOf k.toNat))
      rw [hu]
      refine ⟨v.setFlags_only _, by rw [hk], fun _ => ?_, fun h => (by cases h)⟩
      rw [hk]
      exact congrArg (· ||| stFlags (s.stepOf k.toNat)) hfl
  obtain ⟨hou, huk, h0, h1⟩ := hu
  obtain ⟨t1, t2, t3, t4, t5, t6⟩ := h.goesOn hp hou.clk_eq (show u.kiln.engines = v.kiln.engines by rw [huk])
  have hkv := hv.kiln
  unfold EnginesOnly at hkv
  refine ⟨t1, t2, t3, t4, fun hb => by rw [t6]; exact h0 hb, fun hb => by rw [t6]; exact h1 hb, ?_, ?_,
    hv.only.trans ((hou.trans t5).mono rfl)⟩
  · obtain ⟨p1, p2, p3⟩ := SamePrograms.of_kiln (s := s) (t := s.atIssue k 0x9 f) (by rw [hkv])
    rw [SamePrograms, t6, huk]
    exact ⟨p1, p2, p3⟩
  · rw [t6, huk]
    exact hfb

theorem snapStep_snaps (h : Issues k 0xD f s) (hp : (s.eng k.toNat).pc < lastStep k.toNat) (hb : s.log.buffer.length < 32) :
    Answers (.snapStep k f) s fun t =>
      Issued k 0xD s t ∧ GoesTo k ((s.eng k.toNat).pc + 1) s t ∧ SameFlags k s t ∧ OtherEngines k s t ∧ EnginesOnly s t
        ∧ (∃ x : Shard, t.log = { s.log with buffer := s.log.buffer ++ [x] } ∧ x.kind = 0x0B
            ∧ x.event.take 6 = [BitVec.ofNat 8 k.toNat, 0] ++ leBytes 2 (s.eng k.toNat).pc ++ leBytes 2 (stMark (s.stepOf k.toNat)))
        ∧ Only [.clk, .kiln, .log] s t := by
  have hv := h.atIssue
  let v := s.atIssue k 0xD f
  let e := [BitVec.ofNat 8 k.toNat, 0] ++ leBytes 2 (v.eng k.toNat).pc ++ leBytes 2 (stMark (s.stepOf k.toNat))
  let u := v.capture 0x0B 0 e
  have hx : exec (.snapStep k f) s = .next (u.endStep k.toNat 1) := congrArg Host.Outcome.next (h.engStep _)
  refine Answers.of_exec hx ?_
  have hou : Only [.log] v u := v.capture_only _ _ _
  have hvl : v.log = s.log := hv.only.log_eq
  have hlog : u.log = { s.log with buffer := s.log.buffer ++ [v.shardNow 0x0B 0 0 e] } := by
    have h1 : u.log = v.log.push (v.shardNow 0x0B 0 0 e) := if_pos (by
      rw [show v.pm = s.pm from hv.pm, (State.mayIssue_engine h.1).1]
      rfl)
    rw [h1, hvl]
    exact if_pos hb
  obtain ⟨t1, t2, t3, t4, t5, t6⟩ := h.goesOn hp hou.clk_eq (show u.kiln.engines = v.kiln.engines by rw [hou.kiln_eq])
  have hkv := hv.kiln
  unfold EnginesOnly at hkv
  refine ⟨t1, t2, t3, t4, ?_, ⟨v.shardNow 0x0B 0 0 e, by rw [t5.log_eq, hlog], rfl, ?_⟩, (hv.only.mono rfl).trans ((hou.mono rfl).trans (t5.mono rfl))⟩
  · exact hv.kiln.upd (t6.trans (by rw [hou.kiln_eq]))
  · have hpc : (v.eng k.toNat).pc = (s.eng k.toNat).pc := (congrArg Engine.pc hv.stepped.eng : _)
    have hl : e.length = 6 := rfl
    show ((e ++ zeros 96).take 96).take 6 = _
    rw [List.take_take, show min 6 96 = 6 from rfl, List.take_left' hl]
    show [BitVec.ofNat 8 k.toNat, 0] ++ leBytes 2 (v.eng k.toNat).pc ++ leBytes 2 (stMark (s.stepOf k.toNat)) = _
    rw [hpc]

/-! ## RAMP (R75, R87) -/

/-- The ramp that an engine arms at a comparator now. -/
def State.rampOf (s : State) (j x : Nat) : Ramp where
  pos := fld (s.cmpReg 0x20 x) 27 16
  up := decide (fld (s.cmpReg 0x20 x) 27 16 < fld (s.cmpCfg x) 11 0)
  div := fld (s.cmpReg 0x20 x) 15 0 + 1
  next := s.clk.now + (fld (s.cmpReg 0x20 x) 15 0 + 1)
  armed := s.clk.now
  engine := j

/-- A comparator has taken a ramp and holds its output for its settling. -/
structure TakesRamp (j x : Nat) (s t : State) : Prop where
  ramp : (t.cmp x).ramp = some (s.rampOf j x)
  settle : (t.cmp x).settle ≠ none
  out : (t.cmp x).out = (s.cmp x).out

theorem State.armRamp_arms (h : Tab.wf s.sense.cmps = true) (j x : Nat) :
    SameCmps x s (s.armRamp j x) ∧ Tab.wf (s.armRamp j x).sense.cmps = true ∧ CmpsOnly s (s.armRamp j x)
      ∧ (fld (s.cmpReg 0x20 x) 27 16 ≠ fld (s.cmpCfg x) 11 0 → TakesRamp j x s (s.armRamp j x)) := by
  let c : Cmp := { s.cmp x with ramp := some (s.rampOf j x) }
  have hx : s.armRamp j x = if fld (s.cmpReg 0x20 x) 27 16 = fld (s.cmpCfg x) 11 0 then s.setCmp x { s.cmp x with ramp := none }
      else (s.setCmp x c).startSettle x := rfl
  rw [hx]
  split
  · exact ⟨State.setCmp_sameCmps h _ _, State.setCmp_wf h _ _, State.setCmp_cmpsOnly _ _ _, fun hn => absurd ‹_› hn⟩
  · have hw := State.setCmp_wf h x c
    have hsame := State.setCmp_same h x c
    have hoth := State.setCmp_sameCmps h x c
    have ho := s.setCmp_cmpsOnly x c
    generalize s.setCmp x c = t at hw hsame hoth ho
    unfold State.startSettle
    dsimp only
    refine ⟨hoth.trans (State.setCmp_sameCmps hw _ _), State.setCmp_wf hw _ _, ho.trans (State.setCmp_cmpsOnly _ _ _), fun _ => ?_⟩
    have hc := State.setCmp_same hw x { t.cmp x with settle := some (max ((t.cmp x).settle.getD 0) (t.clk.now + settleTicks (t.cmpMode x))) }
    refine ⟨?_, ?_, ?_⟩
    · rw [hc, hsame]
    · rw [hc]
      exact Option.some_ne_none _
    · rw [hc, hsame]

/-- What the comparators of a list are left by the ramps that an engine arms. -/
structure Ramped (j : Nat) (l : List Nat) (s t : State) : Prop where
  others : ∀ x, (x ∉ l ∨ bit (s.cmpCfg x) 23 = false) → t.cmp x = s.cmp x
  armed : ∀ x, x ∈ l → bit (s.cmpCfg x) 23 = true → (s.cmp x).ramp = none → fld (s.cmpReg 0x20 x) 27 16 ≠ fld (s.cmpCfg x) 11 0 →
    TakesRamp j x s t

/-- One comparator of a RAMP's list. -/
def State.rampOne (j : Nat) (t : State) (src : Nat) : State :=
  if bit (t.cmpCfg src) 23 && !(((t.cmp src).ramp.map (fun r => r.fresh j t.clk.now)).getD false) then t.armRamp j src else t

theorem State.rampOne_ramps (h : Tab.wf s.sense.cmps = true) (j x : Nat) : SameCmps x s (s.rampOne j x)
    ∧ Tab.wf (s.rampOne j x).sense.cmps = true ∧ CmpsOnly s (s.rampOne j x)
    ∧ (bit (s.cmpCfg x) 23 = false → s.rampOne j x = s)
    ∧ (bit (s.cmpCfg x) 23 = true → (s.cmp x).ramp = none → fld (s.cmpReg 0x20 x) 27 16 ≠ fld (s.cmpCfg x) 11 0 →
      TakesRamp j x s (s.rampOne j x)) := by
  obtain ⟨h1, h2, h3, h4⟩ := State.armRamp_arms h j x
  unfold State.rampOne
  split
  next hc =>
    refine ⟨h1, h2, h3, fun hb => ?_, fun _ _ => h4⟩
    rw [hb] at hc
    cases hc
  next hc =>
    refine ⟨.refl x s, h, .refl s, fun _ => rfl, fun hb hr => absurd ?_ hc⟩
    rw [hb, hr]
    rfl

theorem State.armRamps_ramped (h : Tab.wf s.sense.cmps = true) (j : Nat) {l : List Nat} (hl : l.Nodup) :
    Ramped j l s (s.armRamps j l) ∧ Tab.wf (s.armRamps j l).sense.cmps = true ∧ CmpsOnly s (s.armRamps j l) := by
  show Ramped j l s (l.foldl (State.rampOne j) s) ∧ Tab.wf (l.foldl (State.rampOne j) s).sense.cmps = true
    ∧ CmpsOnly s (l.foldl (State.rampOne j) s)
  induction l generalizing s with
  | nil => exact ⟨⟨fun _ _ => rfl, fun x hx => absurd hx List.not_mem_nil⟩, h, .refl s⟩
  | cons y l ih =>
    obtain ⟨hy, hl⟩ := List.nodup_cons.1 hl
    obtain ⟨h1, h2, h3, h4, h5⟩ := State.rampOne_ramps h j y
    rw [List.foldl_cons]
    generalize s.rampOne j y = t at h1 h2 h3 h4 h5
    obtain ⟨⟨i1, i2⟩, i3, i4⟩ := ih h2 hl
    have hcfg (x : Nat) : t.cmpCfg x = s.cmpCfg x := by
      obtain ⟨c, rfl⟩ := h3
      rfl
    have hreg (x : Nat) : t.cmpReg 0x20 x = s.cmpReg 0x20 x := by
      obtain ⟨c, rfl⟩ := h3
      rfl
    have hramp (x : Nat) : t.rampOf j x = s.rampOf j x := by
      obtain ⟨c, rfl⟩ := h3
      rfl
    refine ⟨⟨fun x hx => ?_, fun x hx hb hr hn => ?_⟩, i3, h3.trans i4⟩
    · obtain hx | hx := hx
      · obtain ⟨hxy, hxl⟩ := not_or.1 (List.mem_cons.not.1 hx)
        exact (i1 x (.inl hxl)).trans (h1 x hxy)
      · refine (i1 x (.inr (by rw [hcfg]; exact hx))).trans ?_
        by_cases hxy : x = y
        · rw [hxy] at hx ⊢
          rw [h4 hx]
        · exact h1 x hxy
    · by_cases hxy : x = y
      · subst hxy
        obtain ⟨k1, k2, k3⟩ := h5 hb hr hn
        have hk := i1 x (.inl hy)
        exact ⟨by rw [hk, k1], by rw [hk]; exact k2, by rw [hk, k3]⟩
      · have hk := h1 x hxy
        obtain ⟨k1, k2, k3⟩ := i2 x ((List.mem_cons.1 hx).resolve_left hxy) (by rw [hcfg]; exact hb) (by rw [hk]; exact hr)
          (by rw [hcfg, hreg]; exact hn)
        exact ⟨by rw [k1, hramp], k2, by rw [k3, hk]⟩

/-! The comparators of a mask. -/

theorem mem_bitsOf_iff {m : Rails} {i : Nat} : i ∈ bitsOf m ↔ i < 64 ∧ bit m i = true := by
  unfold bitsOf
  rw [List.mem_filter, List.mem_range]

theorem mem_srcsOf {m : Rails} {x : Nat} : x ∈ srcsOf m ↔ x / 4 < 64 ∧ bit m (x / 4) = true := by
  unfold srcsOf
  rw [List.mem_flatMap]
  constructor
  · rintro ⟨i, hi, hx⟩
    have hxi : x / 4 = i := by
      simp only [List.mem_cons, List.not_mem_nil, or_false] at hx
      omega
    rw [hxi]
    exact mem_bitsOf_iff.1 hi
  · intro hx
    refine ⟨x / 4, mem_bitsOf_iff.2 hx, ?_⟩
    simp only [List.mem_cons, List.not_mem_nil, or_false]
    omega

theorem srcsOf_nodup (m : Rails) : (srcsOf m).Nodup := by
  unfold srcsOf
  rw [List.nodup_flatMap]
  refine ⟨fun i _ => ?_, ?_⟩
  · simp
  · have hn : (bitsOf m).Nodup := List.nodup_range.filter _
    refine hn.imp fun {a b} hab => ?_
    intro x ha hb
    simp only [List.mem_cons, List.not_mem_nil, or_false] at ha hb
    omega

/-! A test of a comparator whose rail is armed is abandoned. -/

theorem State.abandonTest_leaves (h : Tab.wf s.sense.cmps = true) {y : Nat} (hy : s.sense.test.src = some y) :
    Only [.sense] s s.abandonTest ∧ SameCmps y s s.abandonTest ∧ Tab.wf s.abandonTest.sense.cmps = true
      ∧ s.abandonTest.sense.test.src = none := by
  unfold State.abandonTest
  rw [hy]
  dsimp only
  have hu : Only [.sense] s { s with sense := { s.sense with test := { s.sense.test with
      src := none, held := [], wrong := false, abandoned := inc 255 s.sense.test.abandoned } } } := (Only.refl _ s).mk_upd
  have hs : ∀ t : State, Tab.wf t.sense.cmps = true → SameCmps y t (t.testWrites s y) ∧ Tab.wf (t.testWrites s y).sense.cmps = true
      ∧ CmpsOnly t (t.testWrites s y) := by
    intro t ht
    unfold State.testWrites State.startSettle
    dsimp only
    split
    · exact ⟨State.setCmp_sameCmps ht _ _, State.setCmp_wf ht _ _, State.setCmp_cmpsOnly _ _ _⟩
    · exact ⟨.refl y t, ht, .refl t⟩
  have hc : SameCmps y s { s with sense := { s.sense with test := { s.sense.test with
      src := none, held := [], wrong := false, abandoned := inc 255 s.sense.test.abandoned } } } := .of_eq rfl
  obtain ⟨k1, k2, k3⟩ := hs { s with sense := { s.sense with test := { s.sense.test with
      src := none, held := [], wrong := false, abandoned := inc 255 s.sense.test.abandoned } } } h
  have ht := k3.test
  generalize State.testWrites _ s y = u at k1 k2 k3 ht ⊢
  obtain ⟨-, r2, r3, r4⟩ := State.reeval_leaves k2 y
  exact ⟨hu.trans (k3.only.trans r4.only), hc.trans (k1.trans r2), r3, by rw [r4.test, ht]⟩

/-- What a RAMP leaves of the comparators that are not under test. -/
theorem State.rampRails_ramped (h : Tab.wf s.sense.cmps = true) (j : Nat) {l : List Nat} (hl : l.Nodup) {x : Nat}
    (hx : s.underTest x = false) :
    ((x ∉ l ∨ bit (s.cmpCfg x) 23 = false) → (s.rampRails j l).cmp x = s.cmp x)
      ∧ (x ∈ l → bit (s.cmpCfg x) 23 = true → (s.cmp x).ramp = none → fld (s.cmpReg 0x20 x) 27 16 ≠ fld (s.cmpCfg x) 11 0 →
        TakesRamp j x s (s.rampRails j l)) := by
  obtain ⟨⟨i1, i2⟩, -, -⟩ := State.armRamps_ramped h j hl
  unfold State.rampRails
  split
  next y hy =>
    split
    · have hxy : x ≠ y := fun he => by
        unfold State.underTest at hx
        rw [hy, he, beq_self_eq_true] at hx
        cases hx
      obtain ⟨ho, hc, hw, ht⟩ := State.abandonTest_leaves h hy
      generalize s.abandonTest = u at ho hc hw ht ⊢
      obtain ⟨⟨a1, a2⟩, a3, a4⟩ := State.armRamps_ramped hw j hl
      generalize u.armRamps j l = v at a1 a2 a3 a4 ⊢
      have hz := (State.senseChange_changed a3 s y).others x hxy
      have hreg (off : Nat) : u.cmpReg off x = s.cmpReg off x := State.cmpReg_congr ho off x
      have hcfg : u.cmpCfg x = s.cmpCfg x := by
        unfold State.cmpCfg State.cmpUse
        rw [ht, if_neg (by exact fun k => by cases k), if_neg (by rw [hy]; exact fun k => hxy (Option.some.inj k).symm), hreg]
      have hramp : u.rampOf j x = s.rampOf j x := by
        unfold State.rampOf
        rw [hcfg, hreg, ho.clk_eq]
      refine ⟨fun k => ?_, fun k1 k2 k3 k4 => ?_⟩
      · rw [hz, a1 x (by rw [hcfg]; exact k), hc x hxy]
      · obtain ⟨b1, b2, b3⟩ := a2 x k1 (by rw [hcfg]; exact k2) (by rw [hc x hxy]; exact k3) (by rw [hcfg, hreg]; exact k4)
        exact ⟨by rw [hz, b1, hramp], by rw [hz]; exact b2, by rw [hz, b3, hc x hxy]⟩
    · exact ⟨i1 x, i2 x⟩
  next => exact ⟨i1 x, i2 x⟩

theorem State.rampRails_watched (hf : s.pm.state = .firing) (hb : (s.eng n).busy = .none) (j : Nat) (l : List Nat) :
    Watched n s (s.rampRails j l) := by
  have ha (u : State) : Only [.sense] u (u.armRamps j l) := u.armRamps_only j l
  unfold State.rampRails
  split
  · split
    · have ho : Only [.sense] s (s.abandonTest.armRamps j l) := s.abandonTest_only.trans (ha _)
      have he : (s.abandonTest.armRamps j l).eng n = s.eng n := by
        unfold State.eng
        rw [ho.kiln_eq]
      exact (State.senseChange_watched (by rw [ho.pm_eq]; exact hf) (by rw [he]; exact hb) s _).after ho.clk_eq (by rw [ho.kiln_eq])
        (by rw [ho.kiln_eq]) (.of_same ho.kiln_eq) ho.pm_eq ho.cfg_eq ho.sec_eq
    · exact .of_acts (ha s)
  · exact .of_acts (ha s)

theorem rampStep_ramps (hw : Tab.wf s.sense.cmps = true) (h : Issues k 0x6 f s) (hp : (s.eng k.toNat).pc < lastStep k.toNat) :
    Answers (.rampStep k f) s fun t =>
      Issued k 0x6 s t ∧ (t.pm.state = .firing → GoesTo k ((s.eng k.toNat).pc + 1) s t) ∧ SameFlags k s t
        ∧ (s.sense.test.src = none → t.pm.state = .firing ∧ OtherEngines k s t ∧ EnginesOnly s t)
        ∧ (∀ x, (bit (actRails k s) (x / 4) = false ∨ bit (s.cmpCfg x) 23 = false) → s.underTest x = false → t.cmp x = s.cmp x)
        ∧ (∀ x, x < 256 → bit (actRails k s) (x / 4) = true → bit (s.cmpCfg x) 23 = true → (s.cmp x).ramp = none →
            s.underTest x = false → fld (s.cmpReg 0x20 x) 27 16 ≠ fld (s.cmpCfg x) 11 0 →
          (t.cmp x).ramp = some {
              pos := fld (s.cmpReg 0x20 x) 27 16, up := decide (fld (s.cmpReg 0x20 x) 27 16 < fld (s.cmpCfg x) 11 0)
              div := fld (s.cmpReg 0x20 x) 15 0 + 1, next := issueTick k s + fld (s.cmpReg 0x20 x) 15 0 + 1
              armed := issueTick k s, engine := k.toNat }
            ∧ (t.cmp x).settle ≠ none ∧ (t.cmp x).out = (s.cmp x).out)
        ∧ (s.sense.test.src = none → Only [.clk, .kiln, .sense] s t) := by
  have hv := h.atIssue
  obtain ⟨hf, hb⟩ := h.firing_between
  have hx : exec (.rampStep k f) s = .next (((s.atIssue k 0x6 f).rampRails k.toNat (srcsOf (actRails k s))).endStep k.toNat 1) := by
    refine congrArg Host.Outcome.next ((h.engStep _).trans ?_)
    rw [h.actRails (by decide)]
  refine Answers.of_exec hx ?_
  have hwt := State.rampRails_watched hf hb k.toNat (srcsOf (actRails k s))
  obtain ⟨-, t2, t3, -, t5, -, -, -, -, t10⟩ := h.watched hp hwt
  have hvs : (s.atIssue k 0x6 f).sense = s.sense := hv.only.sense_eq
  have hcmp (x : Nat) : (s.atIssue k 0x6 f).cmp x = s.cmp x := State.cmp_congr (congrArg Sense.cmps hvs) x
  have hund (x : Nat) : (s.atIssue k 0x6 f).underTest x = s.underTest x := by
    unfold State.underTest
    rw [hvs]
  have hreg (off x : Nat) : (s.atIssue k 0x6 f).cmpReg off x = s.cmpReg off x := State.cmpReg_congr hv.only off x
  have hcfg (x : Nat) : (s.atIssue k 0x6 f).cmpCfg x = s.cmpCfg x := by
    unfold State.cmpCfg State.cmpUse
    rw [hvs, hreg]
  have hr {x : Nat} (hu : s.underTest x = false) := State.rampRails_ramped (s := s.atIssue k 0x6 f) (by rw [hvs]; exact hw) k.toNat
    (srcsOf_nodup (actRails k s)) (x := x) (by rw [hund]; exact hu)
  have hts (x : Nat) : (((s.atIssue k 0x6 f).rampRails k.toNat (srcsOf (actRails k s))).endStep k.toNat 1).cmp x
      = ((s.atIssue k 0x6 f).rampRails k.toNat (srcsOf (actRails k s))).cmp x := State.cmp_congr (congrArg Sense.cmps t10.sense_eq) x
  have hidle (hn : s.sense.test.src = none) : Only [.sense] (s.atIssue k 0x6 f)
      ((s.atIssue k 0x6 f).rampRails k.toNat (srcsOf (actRails k s))) := by
    rw [State.rampRails_idle (by rw [hvs]; exact hn)]
    exact State.armRamps_only _ _ _
  refine ⟨t2, t3, t5, fun hn => ?_, fun x hx hu => ?_, fun x hx hm hb hnr hu hne => ?_, fun hn => ?_⟩
  · have ho := hidle hn
    obtain ⟨-, -, -, g4, g5, g6⟩ := h.goesOn hp ho.clk_eq (by rw [ho.kiln_eq])
    exact ⟨by rw [g5.pm_eq, ho.pm_eq]; exact hf, g4, hv.kiln.upd (g6.trans (by rw [ho.kiln_eq]))⟩
  · rw [hts, (hr hu).1 ?_, hcmp]
    obtain hx | hx := hx
    · refine .inl fun hm => ?_
      rw [(mem_srcsOf.1 hm).2] at hx
      cases hx
    · exact .inr (by rw [hcfg]; exact hx)
  · obtain ⟨k1, k2, k3⟩ := (hr hu).2 (mem_srcsOf.2 ⟨by omega, hm⟩) (by rw [hcfg]; exact hb) (by rw [hcmp]; exact hnr)
      (by rw [hcfg, hreg]; exact hne)
    refine ⟨?_, by rw [hts]; exact k2, by rw [hts, k3, hcmp]⟩
    rw [hts, k1]
    unfold State.rampOf
    rw [hcfg, hreg, hv.now, ← Nat.add_assoc]
  · exact hv.only.mono rfl |>.trans (((hidle hn).mono rfl).trans (t10.mono rfl))

end

/-- Settles O15, by what the engine's own act and the comparators that see it leave of the engine. -/
theorem enableAndSignalSteps : Obligations.EnableAndSignalSteps := by
  unfold Obligations.EnableAndSignalSteps
  exact ⟨fun k f s => enableStep_enables, fun k f s => disableStep_disables, fun k f s hw => rampStep_ramps (tablesOk_cmps hw),
    fun k f s => signalStep_signals, fun k f s => snapStep_snaps⟩

end Sys2Proof.Machine
end

section
/-! SUPPORT. MARGIN, TRIM and PWM steps (O17). -/

set_option Elab.async false

namespace Sys2Proof.Machine

section
variable {s t u v : State} {k : BitVec 3} {n j op : Nat} {f : Fetch}

/-! ## The claims of a tick on trims and PWM channels (Table 04.13) -/

/-- Engine k has claimed trim n in the present tick. -/
def State.trimClaimed (s : State) (k n : Nat) : State :=
  { s.openTick with kiln := { s.openTick.kiln with tick := { s.openTick.kiln.tick with trimmed := (n, k) :: s.openTick.kiln.tick.trimmed } } }

/-- Engine k has claimed PWM channel n in the present tick. -/
def State.pwmClaimed (s : State) (k n : Nat) : State :=
  { s.openTick with kiln := { s.openTick.kiln with tick := { s.openTick.kiln.tick with pwm := (n, k) :: s.openTick.kiln.tick.pwm } } }

theorem State.openTick_trimmed (s : State) :
    s.openTick.kiln.tick.trimmed = if s.kiln.tick.time = s.clk.now then s.kiln.tick.trimmed else [] := by
  unfold State.openTick
  split <;> rfl

theorem State.openTick_pwm (s : State) : s.openTick.kiln.tick.pwm = if s.kiln.tick.time = s.clk.now then s.kiln.tick.pwm else [] := by
  unfold State.openTick
  split <;> rfl

theorem State.openTick_open (h : s.kiln.tick.time = s.clk.now) : s.openTick = s := if_pos h

theorem State.trimClaimed_kiln (s : State) (k n : Nat) :
    Only [.kiln] s (s.trimClaimed k n) ∧ (s.trimClaimed k n).kiln = { s.kiln with tick := (s.trimClaimed k n).kiln.tick } :=
  ⟨s.openTick_only.trans ((Only.refl _ s.openTick).mk_upd), Kiln.withTick_of s.openTick_kiln _⟩

theorem State.pwmClaimed_kiln (s : State) (k n : Nat) :
    Only [.kiln] s (s.pwmClaimed k n) ∧ (s.pwmClaimed k n).kiln = { s.kiln with tick := (s.pwmClaimed k n).kiln.tick } :=
  ⟨s.openTick_only.trans ((Only.refl _ s.openTick).mk_upd), Kiln.withTick_of s.openTick_kiln _⟩

theorem State.claimTrim_free (h : Machine.claimed (if s.kiln.tick.time = s.clk.now then s.kiln.tick.trimmed else []) n = none) (k : Nat)
    (act : State → State) : s.claimTrim k n act = act (s.trimClaimed k n) := by
  rw [← s.openTick_trimmed] at h
  unfold State.claimTrim
  dsimp only
  rw [h]
  rfl

theorem State.claimTrim_lower (ho : s.kiln.tick.time = s.clk.now) (h : Machine.claimed s.kiln.tick.trimmed n = some j) {k : Nat} (hj : j < k)
    (act : State → State) : s.claimTrim k n act = s.setEng k (fun e => { e with cl := true }) := by
  unfold State.claimTrim
  dsimp only
  rw [State.openTick_open ho, h]
  exact if_pos (decide_eq_true hj)

theorem State.claimPwm_free (h : Machine.claimed (if s.kiln.tick.time = s.clk.now then s.kiln.tick.pwm else []) n = none) (k : Nat)
    (act : State → State) : s.claimPwm k n act = act (s.pwmClaimed k n) := by
  rw [← s.openTick_pwm] at h
  unfold State.claimPwm
  dsimp only
  rw [h]
  rfl

theorem State.claimPwm_lower (ho : s.kiln.tick.time = s.clk.now) (h : Machine.claimed s.kiln.tick.pwm n = some j) {k : Nat} (hj : j < k)
    (act : State → State) : s.claimPwm k n act = s := by
  unfold State.claimPwm
  dsimp only
  rw [State.openTick_open ho, h]
  exact if_pos (decide_eq_true hj)

theorem Issues.trimFree (h : Issues k op f s) (hf : TrimFree k n s) (act : State → State) :
    (s.atIssue k op f).claimTrim k.toNat n act = act ((s.atIssue k op f).trimClaimed k.toNat n) := by
  refine State.claimTrim_free ?_ _ _
  rw [(State.atIssue_tick (s := s) k op f).1, h.atIssue.now]
  exact hf

theorem Issues.pwmFree (h : Issues k op f s) (hf : PwmFree k n s) (act : State → State) :
    (s.atIssue k op f).claimPwm k.toNat n act = act ((s.atIssue k op f).pwmClaimed k.toNat n) := by
  refine State.claimPwm_free ?_ _ _
  rw [(State.atIssue_tick (s := s) k op f).1, h.atIssue.now]
  exact hf

/-- What a claim leaves, from the state before the issue. -/
structure AtClaim (k : BitVec 3) (op : Nat) (s v : State) : Prop where
  now : v.clk.now = issueTick k s
  ran : s.clk.Ran v.clk
  stepped : Stepped k ((s.eng k.toNat).issued op) s v
  programs : SamePrograms s v
  only : Only [.clk, .kiln] s v

theorem AtIssue.claims (h : AtIssue k op s t) (ho : Only [.kiln] t v) (hk : v.kiln = { t.kiln with tick := v.kiln.tick }) :
    AtClaim k op s v := by
  refine ⟨by rw [ho.clk_eq, h.now], by rw [ho.clk_eq]; exact h.ran, h.stepped.same (by rw [hk]), ?_, h.only.trans (ho.mono rfl)⟩
  obtain ⟨p1, p2, p3⟩ := SamePrograms.of_kiln (s := s) (t := t) (by rw [h.kiln])
  rw [SamePrograms, hk]
  exact ⟨p1, p2, p3⟩

theorem Issues.trimClaimed (h : Issues k op f s) (n : Nat) : AtClaim k op s ((s.atIssue k op f).trimClaimed k.toNat n) :=
  h.atIssue.claims (State.trimClaimed_kiln _ _ _).1 (State.trimClaimed_kiln _ _ _).2

theorem Issues.pwmClaimed (h : Issues k op f s) (n : Nat) : AtClaim k op s ((s.atIssue k op f).pwmClaimed k.toNat n) :=
  h.atIssue.claims (State.pwmClaimed_kiln _ _ _).1 (State.pwmClaimed_kiln _ _ _).2

/-- The engine at the end of a step that acted after its claim and left it as g makes it. -/
theorem AtClaim.ends (hv : AtClaim k op s v) (hl : k.toNat < s.kiln.engines.length) (hp : (s.eng k.toNat).pc < lastStep k.toNat)
    {e : Engine} (hs : Stepped k e s u) (hc : u.clk = v.clk) (hst : e.st = .running) (hpc : e.pc = (s.eng k.toNat).pc) :
    (u.endStep k.toNat 1).eng k.toNat = e.goes ((s.eng k.toNat).pc + 1) ((u.endStep k.toNat 1).clk.now + s.engTicks k.toNat 1)
      ∧ (u.endStep k.toNat 1).clk.now = issueTick k s ∧ OtherEngines k s (u.endStep k.toNat 1) ∧ Only [.kiln] u (u.endStep k.toNat 1)
      ∧ (SamePrograms s u → SamePrograms s (u.endStep k.toNat 1)) := by
  have hg := hs.goes hl (Engine.active_running hst) ((s.eng k.toNat).pc + 1) 1
  rw [State.engTicks_pll (s := s) (t := u) (by rw [hc]; exact hv.ran.corePll)] at hg
  have ho := u.goStep_only k.toNat ((s.eng k.toNat).pc + 1) 1
  rw [State.endStep_goes (by rw [hs.eng, hpc]; exact hp), hs.eng, hpc]
  have hn : u.clk.now = issueTick k s := by rw [hc, hv.now]
  refine ⟨?_, by rw [ho.clk_eq, hn], hg.others, ho, id⟩
  rw [ho.clk_eq]
  exact hg.eng

/-- The same, for an act that leaves the engines. -/
theorem AtClaim.passes (hv : AtClaim k op s v) (hl : k.toNat < s.kiln.engines.length) (hp : (s.eng k.toNat).pc < lastStep k.toNat)
    (hc : u.clk = v.clk) (hk : u.kiln = v.kiln) :
    Issued k op s (u.endStep k.toNat 1) ∧ GoesTo k ((s.eng k.toNat).pc + 1) s (u.endStep k.toNat 1) ∧ SameFlags k s (u.endStep k.toNat 1)
      ∧ OtherEngines k s (u.endStep k.toNat 1) ∧ SamePrograms s (u.endStep k.toNat 1) ∧ Only [.kiln] u (u.endStep k.toNat 1) := by
  obtain ⟨h1, h2, h3, h4, h5⟩ := hv.ends hl hp (hv.stepped.same (by rw [hk])) hc rfl rfl
  refine ⟨.of_eng h2 h1 rfl rfl rfl rfl, .of_eng h1, .of_eng h1 rfl rfl rfl rfl, h3, h5 ?_, h4⟩
  obtain ⟨p1, p2, p3⟩ := hv.programs
  rw [SamePrograms, hk]
  exact ⟨p1, p2, p3⟩

/-! ## MARGIN -/

theorem Trimmed.of_before {ps : List Part} {level : Nat} {code : Int} (h : Trimmed n level code v t) (ho : Only ps s v)
    (hp : (Part.cfg ∉ ps ∧ Part.cfgLoaded ∉ ps ∧ Part.sgLoaded ∉ ps) ∧ Part.inp ∉ ps ∧ Part.mg ∉ ps := by decide) :
    Trimmed n level code s t := by
  have ht (m : Nat) : v.trim m = s.trim m := by
    unfold State.trim
    rw [ho.mg_eq hp.2.2]
  have hw : v.trimWithheld n = s.trimWithheld n := by
    unfold State.trimWithheld
    rw [ho.cfgAt_eq _ hp.1, ho.cfgAt_eq _ hp.1, ho.inp_eq hp.2.1]
  have hc (c : Int) : v.clampCode n c = s.clampCode n c := by
    unfold State.clampCode State.bandLo State.bandHi
    rw [ho.cfgAt_eq _ hp.1]
  unfold Trimmed at h ⊢
  simp only [ht, hw, hc] at h
  exact h

/-- The row of MARGIN where no lower engine has claimed the trim. -/
theorem marginStep_free (h : Issues k 0xB f s) {w : Step64} (hw : s.stepOf k.toNat = w) (ht : TrimFree k (stRail w) s)
    (hu : u = if bit w 58 then ((s.atIssue k 0xB f).trimClaimed k.toNat (stRail w)).marginPm k.toNat (stRail w) (fld w 57 56)
      else ((s.atIssue k 0xB f).trimClaimed k.toNat (stRail w)).marginTrim (stRail w) (fld w 57 56)) :
    exec (.marginStep k f) s = .next (if (u.eng k.toNat).busy = .none ∧ (u.eng k.toNat).pc = (s.eng k.toNat).pc
      then u.endStep k.toNat 1 else u) := by
  subst hw
  have hx := h.trimFree ht (fun x => if bit (s.stepOf k.toNat) 58 then
    x.marginPm k.toNat (stRail (s.stepOf k.toNat)) (fld (s.stepOf k.toNat) 57 56)
    else x.marginTrim (stRail (s.stepOf k.toNat)) (fld (s.stepOf k.toNat) 57 56))
  refine congrArg Host.Outcome.next ((h.engStep _).trans ?_)
  dsimp only
  rw [hx, ← hu, h.atIssue.stepped.eng]
  rfl

theorem marginStep_trims (hw : Tab.wf s.mg.trims = true) (h : Issues k 0xB f s) (hp : (s.eng k.toNat).pc < lastStep k.toNat)
    (hb : bit (s.stepOf k.toNat) 58 = false) (hf : TrimFree k (stRail (s.stepOf k.toNat)) s) :
    Answers (.marginStep k f) s fun t =>
      let n := stRail (s.stepOf k.toNat)
      let l := fld (s.stepOf k.toNat) 57 56
      Issued k 0xB s t ∧ GoesTo k ((s.eng k.toNat).pc + 1) s t ∧ SameFlags k s t ∧ OtherEngines k s t ∧ SamePrograms s t
        ∧ Trimmed n l (if l = 1 then s.marginHi n else if l = 2 then s.marginLo n else s.nominal n) s t
        ∧ Only [.clk, .kiln, .mg] s t := by
  obtain ⟨-, hbusy, -, -⟩ := State.mayIssue_engine h.1
  have hl5 : fld (s.stepOf k.toNat) 57 56 ≠ 5 := by
    have := fld_lt (s.stepOf k.toNat) 57 56
    omega
  have hx := marginStep_free h rfl hf (if_neg (by rw [hb]; exact Bool.false_ne_true)).symm
  have hv := h.trimClaimed (stRail (s.stepOf k.toNat))
  generalize (s.atIssue k 0xB f).trimClaimed k.toNat (stRail (s.stepOf k.toNat)) = v at hx hv
  generalize stRail (s.stepOf k.toNat) = n at hx
  generalize fld (s.stepOf k.toNat) 57 56 = l at hx hl5
  dsimp only
  have hcode : (if l = 1 then v.marginHi n else if l = 2 then v.marginLo n else v.nominal n)
      = if l = 1 then s.marginHi n else if l = 2 then s.marginLo n else s.nominal n := by
    unfold State.marginHi State.marginLo State.nominal
    rw [hv.only.cfgAt_eq, hv.only.cfgAt_eq]
  have htr : Trimmed n l (if l = 1 then s.marginHi n else if l = 2 then s.marginLo n else s.nominal n) v (v.marginTrim n l) := by
    rw [← hcode]
    exact State.applyTrim_trimmed (by rw [hv.only.mg_eq]; exact hw) hl5 _
  have hou : Only [.mg] v (v.marginTrim n l) := v.applyTrim_only _ _ _
  generalize v.marginTrim n l = u at hx htr hou
  have hue : u.eng k.toNat = (s.eng k.toNat).issued 0xB := (hv.stepped.same (by rw [hou.kiln_eq])).eng
  rw [if_pos (by rw [hue]; exact ⟨hbusy, rfl⟩)] at hx
  obtain ⟨t1, t2, t3, t4, t5, t6⟩ := hv.passes h.length hp hou.clk_eq hou.kiln_eq
  refine Answers.of_exec hx ⟨t1, t2, t3, t4, t5, ?_, (hv.only.mono rfl).trans ((hou.mono rfl).trans (t6.mono rfl))⟩
  obtain ⟨r1, r2⟩ := htr.of_before hv.only
  have hm (m : Nat) : (u.endStep k.toNat 1).trim m = u.trim m := by
    unfold State.trim
    rw [t6.mg_eq]
  exact ⟨(hm n).trans r1, fun m hm' => (hm m).trans (r2 m hm')⟩

theorem State.seqBlocked_congr {ps : List Part} (h : Only ps s v) (n : Nat)
    (hp : (Part.cfg ∉ ps ∧ Part.cfgLoaded ∉ ps ∧ Part.sgLoaded ∉ ps) ∧ Part.pm ∉ ps ∧ Part.tw ∉ ps := by decide) :
    v.seqBlocked n = s.seqBlocked n ∧ v.pmbPort n = s.pmbPort n := by
  have hb : v.pmbus n = s.pmbus n := h.cfgAt_eq _ hp.1
  have hpp : v.pmbPort n = s.pmbPort n := by
    unfold State.pmbPort
    rw [hb]
  refine ⟨?_, hpp⟩
  have hq : v.port2 (s.pmbPort n) = s.port2 (s.pmbPort n) := by
    unfold State.port2
    rw [h.tw_eq hp.2.2]
  unfold State.seqBlocked
  rw [hb, hpp, hq, twOn_congr (fun a => h.cfgAt_eq a hp.1) (h.pm_eq hp.2.1)]

theorem marginStep_blocked (h : Issues k 0xB f s) (hp : (s.eng k.toNat).pc < lastStep k.toNat)
    (hb : bit (s.stepOf k.toNat) 58 = true) (hf : TrimFree k (stRail (s.stepOf k.toNat)) s)
    (hq : s.seqBlocked (stRail (s.stepOf k.toNat)) ≠ none) :
    Answers (.marginStep k f) s fun t =>
      Issued k 0xB s t ∧ GoesTo k ((s.eng k.toNat).pc + 1) s t ∧ (t.eng k.toNat).tmo = true
        ∧ (t.eng k.toNat).cf = (s.eng k.toNat).cf ∧ OtherEngines k s t ∧ SamePrograms s t ∧ Only [.clk, .kiln, .mg, .tw] s t := by
  have hx := marginStep_free h rfl hf (if_pos hb).symm
  have hv := h.trimClaimed (stRail (s.stepOf k.toNat))
  generalize (s.atIssue k 0xB f).trimClaimed k.toNat (stRail (s.stepOf k.toNat)) = v at hx hv
  generalize stRail (s.stepOf k.toNat) = n at hx hq
  obtain ⟨r, hr⟩ := Option.ne_none_iff_exists'.1 hq
  have hm : v.marginPm k.toNat n (fld (s.stepOf k.toNat) 57 56)
      = ((((if r = 0 then v else v.setTw (v.pmbPort n) (fun x => { x with lastResult := r })).setPmb n 2).setTo k.toNat)).endStep k.toNat 1 := by
    unfold State.marginPm
    rw [(State.seqBlocked_congr hv.only n).1, hr]
  rw [hm] at hx
  have h1 : Only [.mg, .tw] v ((if r = 0 then v else v.setTw (v.pmbPort n) (fun x => { x with lastResult := r })).setPmb n 2) :=
    Only.trans (by
      split
      · exact Only.refl _ v
      · exact (v.setTw_only _ _).mono rfl) ((State.setPmb_only _ _ _).mono rfl)
  generalize (if r = 0 then v else v.setTw (v.pmbPort n) (fun x => { x with lastResult := r })).setPmb n 2 = w at hx h1
  have hs : Stepped k { (s.eng k.toNat).issued 0xB with tmo := true } s (w.setTo k.toNat) :=
    (hv.stepped.same (u := w) (by rw [h1.kiln_eq])).set h.length (fun e => { e with tmo := true })
  have ho : Only [.kiln] w (w.setTo k.toNat) := w.setTo_only _
  have hcl : (w.setTo k.toNat).clk = v.clk := ho.clk_eq.trans h1.clk_eq
  obtain ⟨e1, e2, e3, e4, e5⟩ := hv.ends h.length hp hs hcl rfl rfl
  have hpw : SamePrograms s (w.setTo k.toNat) := by
    obtain ⟨p1, p2, p3⟩ := hv.programs
    have hk : (w.setTo k.toNat).kiln = { v.kiln with engines := (w.setTo k.toNat).kiln.engines } := by
      rw [← h1.kiln_eq]
      rfl
    rw [SamePrograms, hk]
    exact ⟨p1, p2, p3⟩
  have hpt := e5 hpw
  have hne : ¬ ((((w.setTo k.toNat).endStep k.toNat 1).eng k.toNat).busy = .none
      ∧ (((w.setTo k.toNat).endStep k.toNat 1).eng k.toNat).pc = (s.eng k.toNat).pc) := by
    rw [e1]
    exact fun h => absurd h.2 (Nat.succ_ne_self _)
  rw [if_neg hne] at hx
  exact Answers.of_exec hx ⟨.of_eng e2 e1 rfl rfl rfl rfl, .of_eng e1, by rw [e1]; rfl, by rw [e1]; rfl, e3, hpt,
    (hv.only.mono rfl).trans ((h1.mono rfl).trans ((ho.mono rfl).trans (e4.mono rfl)))⟩

/-- A sequence that joins a port's queue is in it. -/
theorem TwPort.mem_enqueue (p : TwPort) (q : TwSeq) : q ∈ (p.enqueue q).queue := by
  unfold TwPort.enqueue
  dsimp only
  refine List.mem_append_right _ ?_
  split
  · exact List.mem_append_left _ (List.mem_append_right _ (List.mem_singleton_self q))
  · exact List.mem_append_right _ (List.mem_singleton_self q)

theorem State.startSeq_queues (q : TwSeq) (hp : s.pmbPort q.rail < s.tw.length) :
    q ∈ ((s.startSeq q).port2 (s.pmbPort q.rail)).queue := by
  have hm : q ∈ ((s.setTw (s.pmbPort q.rail) (fun x => x.enqueue q)).port2 (s.pmbPort q.rail)).queue := by
    rw [State.setTw_same _ hp]
    exact TwPort.mem_enqueue _ q
  have hl : (s.setTw (s.pmbPort q.rail) (fun x => x.enqueue q)).tw.length = s.tw.length := modNth_length _ _ _
  unfold State.startSeq
  dsimp only
  generalize s.setTw (s.pmbPort q.rail) (fun x => x.enqueue q) = u at hm hl ⊢
  split
  · rw [State.pump_port (by rw [hl]; exact hp)]
    exact hm
  · exact hm

theorem marginStep_queues (hu : s.unitsOk = true) (h : Issues k 0xB f s) (hb : bit (s.stepOf k.toNat) 58 = true)
    (hf : TrimFree k (stRail (s.stepOf k.toNat)) s) (hq : s.seqBlocked (stRail (s.stepOf k.toNat)) = none) :
    Answers (.marginStep k f) s fun t =>
      let n := stRail (s.stepOf k.toNat)
      Issued k 0xB s t ∧ WaitsIn k (.margin n) s t ∧ SameFlags k s t ∧ OtherEngines k s t ∧ SamePrograms s t
        ∧ (∃ q ∈ (t.port2 (s.pmbPort n)).queue, q = {
            rail := n, level := fld (s.stepOf k.toNat) 57 56, engine := some k.toNat, cmd := none, done := 0, ending := false })
        ∧ Only [.clk, .kiln, .tw] s t := by
  have hx := marginStep_free h rfl hf (if_pos hb).symm
  have hv := h.trimClaimed (stRail (s.stepOf k.toNat))
  generalize (s.atIssue k 0xB f).trimClaimed k.toNat (stRail (s.stepOf k.toNat)) = v at hx hv
  generalize stRail (s.stepOf k.toNat) = n at hx hq
  generalize fld (s.stepOf k.toNat) 57 56 = l at hx
  dsimp only
  obtain ⟨hqb, hpb⟩ := State.seqBlocked_congr hv.only n
  let q : TwSeq := { rail := n, level := l, engine := some k.toNat, cmd := none, done := 0, ending := false }
  let w := v.waitIn k.toNat (.margin n)
  have hm : v.marginPm k.toNat n l = w.startSeq q := by
    unfold State.marginPm
    rw [hqb, hq]
  rw [hm] at hx
  have hw := hv.stepped.set h.length (fun e => { e with st := .waiting, busy := .margin n })
  have how : Only [.kiln] v w := v.waitIn_only _ _
  have hos : Only [.tw] w (w.startSeq q) := w.startSeq_only q
  have hpw : w.pmbPort n = s.pmbPort n := (State.seqBlocked_congr how n).2.trans hpb
  have hlt : s.pmbPort n < w.tw.length := by
    rw [how.tw_eq, hv.only.tw_eq, unitsOk_tw hu]
    have := fld_lt (s.pmbus n) 9 8
    unfold State.pmbPort
    omega
  have hmem : q ∈ ((w.startSeq q).port2 (s.pmbPort n)).queue := by
    rw [← hpw] at hlt ⊢
    exact State.startSeq_queues q hlt
  have hst := Stepped.same hw (u := w.startSeq q) (by rw [hos.kiln_eq]; rfl)
  have hcl : (w.startSeq q).clk.now = issueTick k s := by rw [hos.clk_eq, how.clk_eq, hv.now]
  have hpr : SamePrograms s (w.startSeq q) := by
    obtain ⟨p1, p2, p3⟩ := hv.programs
    rw [SamePrograms, hos.kiln_eq]
    exact ⟨p1, p2, p3⟩
  rw [if_neg (by rw [hst.eng]; exact fun h => by cases h.1)] at hx
  exact Answers.of_exec hx ⟨.of_eng hcl hst.eng rfl rfl rfl rfl, .of_eng hst.eng, .of_eng hst.eng rfl rfl rfl rfl, hst.others, hpr,
    ⟨q, hmem, rfl⟩, (hv.only.mono rfl).trans ((how.mono rfl).trans (hos.mono rfl))⟩

/-! ## TRIM -/

theorem trimStep_trims (hw : Tab.wf s.mg.trims = true) (h : Issues k 0xC f s) (hp : (s.eng k.toNat).pc < lastStep k.toNat)
    (hf : TrimFree k (stRail (s.stepOf k.toNat)) s) :
    Answers (.trimStep k f) s fun t =>
      let n := stRail (s.stepOf k.toNat)
      let c := stCode (s.stepOf k.toNat)
      Issued k 0xC s t ∧ GoesTo k ((s.eng k.toNat).pc + 1) s t
        ∧ (t.eng k.toNat).cl = ((s.eng k.toNat).cl || decide (s.clampCode n c ≠ c)) ∧ (t.eng k.toNat).cf = (s.eng k.toNat).cf
        ∧ Trimmed n 3 c s t ∧ OtherEngines k s t ∧ SamePrograms s t ∧ Only [.clk, .kiln, .mg] s t := by
  have hfree := h.trimFree hf (fun x =>
    (x.applyTrim (stRail (s.stepOf k.toNat)) 3 (stCode (s.stepOf k.toNat))).setEng k.toNat (fun e => { e with
      cl := e.cl || decide (x.clampCode (stRail (s.stepOf k.toNat)) (stCode (s.stepOf k.toNat)) ≠ stCode (s.stepOf k.toNat)) }))
  have hx : exec (.trimStep k f) s = _ := congrArg Host.Outcome.next ((h.engStep _).trans (congrArg (fun u => State.endStep u k.toNat 1) hfree))
  have hv := h.trimClaimed (stRail (s.stepOf k.toNat))
  generalize (s.atIssue k 0xC f).trimClaimed k.toNat (stRail (s.stepOf k.toNat)) = v at hx hv
  generalize stRail (s.stepOf k.toNat) = n at hx
  generalize stCode (s.stepOf k.toNat) = c at hx
  have hc : v.clampCode n c = s.clampCode n c := by
    unfold State.clampCode State.bandLo State.bandHi
    rw [hv.only.cfgAt_eq]
  dsimp only at hx ⊢
  rw [hc] at hx
  have htr : Trimmed n 3 c v (v.applyTrim n 3 c) := State.applyTrim_trimmed (by rw [hv.only.mg_eq]; exact hw) (by decide) c
  have hou : Only [.mg] v (v.applyTrim n 3 c) := v.applyTrim_only _ _ _
  generalize v.applyTrim n 3 c = u at hx htr hou
  have hs := (hv.stepped.same (u := u) (by rw [hou.kiln_eq])).set h.length (fun e => { e with cl := e.cl || decide (s.clampCode n c ≠ c) })
  have ho := u.setEng_only k.toNat (fun e => { e with cl := e.cl || decide (s.clampCode n c ≠ c) })
  have hk : (u.setEng k.toNat (fun e => { e with cl := e.cl || decide (s.clampCode n c ≠ c) })).kiln = { v.kiln with
      engines := (u.setEng k.toNat (fun e => { e with cl := e.cl || decide (s.clampCode n c ≠ c) })).kiln.engines } := by
    rw [← hou.kiln_eq]
    rfl
  generalize u.setEng k.toNat (fun e => { e with cl := e.cl || decide (s.clampCode n c ≠ c) }) = w at hx hs ho hk
  obtain ⟨e1, e2, e3, e4, e5⟩ := hv.ends h.length hp hs (ho.clk_eq.trans hou.clk_eq) rfl rfl
  refine Answers.of_exec hx ⟨.of_eng e2 e1 rfl rfl rfl rfl, .of_eng e1, by rw [e1]; rfl, by rw [e1]; rfl, ?_, e3, e5 ?_,
    (hv.only.mono rfl).trans ((hou.mono rfl).trans ((ho.mono rfl).trans (e4.mono rfl)))⟩
  · obtain ⟨r1, r2⟩ := htr.of_before hv.only
    have hm (m : Nat) : (w.endStep k.toNat 1).trim m = u.trim m := by
      unfold State.trim
      rw [e4.mg_eq, ho.mg_eq]
    exact ⟨(hm n).trans r1, fun m hm' => (hm m).trans (r2 m hm')⟩
  · obtain ⟨p1, p2, p3⟩ := hv.programs
    rw [SamePrograms, hk]
    exact ⟨p1, p2, p3⟩

theorem trimStep_lower (h : Issues k 0xC f s) (hp : (s.eng k.toNat).pc < lastStep k.toNat) (ht : s.kiln.tick.time = issueTick k s)
    (hj : j < k.toNat) (hc : claimed s.kiln.tick.trimmed (stRail (s.stepOf k.toNat)) = some j) :
    Answers (.trimStep k f) s fun t =>
      Issued k 0xC s t ∧ GoesTo k ((s.eng k.toNat).pc + 1) s t ∧ (t.eng k.toNat).cl = true ∧ OtherEngines k s t ∧ EnginesOnly s t
        ∧ Only [.clk, .kiln] s t := by
  have hv := h.atIssue
  have htick := (State.atIssue_tick (s := s) k 0xC f).1
  have hl := State.claimTrim_lower (s := s.atIssue k 0xC f) (by rw [htick, hv.now]; exact ht) (by rw [htick]; exact hc) hj (fun x =>
    (x.applyTrim (stRail (s.stepOf k.toNat)) 3 (stCode (s.stepOf k.toNat))).setEng k.toNat (fun e => { e with
      cl := e.cl || decide (x.clampCode (stRail (s.stepOf k.toNat)) (stCode (s.stepOf k.toNat)) ≠ stCode (s.stepOf k.toNat)) }))
  have hx : exec (.trimStep k f) s = _ := congrArg Host.Outcome.next ((h.engStep _).trans (congrArg (fun u => State.endStep u k.toNat 1) hl))
  refine Answers.of_exec hx ?_
  generalize s.atIssue k 0xC f = v at hv
  have hs := hv.stepped.set h.length (fun e => { e with cl := true })
  have he := State.setEng_enginesOnly hv.kiln k.toNat (fun e => { e with cl := true })
  have ho := v.setEng_only k.toNat (fun e => { e with cl := true })
  generalize v.setEng k.toNat (fun e => { e with cl := true }) = u at hs he ho ⊢
  have hg := hv.goes h.length hs ho.clk_eq (Engine.active_running rfl) ((s.eng k.toNat).pc + 1)
  have hpc : (u.eng k.toNat).pc = (s.eng k.toNat).pc := by
    rw [hs.eng]
    rfl
  have hou := State.endStep_only_kiln (t := u) (n := k.toNat) (by rw [hpc]; exact hp) 1
  rw [State.endStep_goes (by rw [hpc]; exact hp), hpc] at hou ⊢
  refine ⟨.of_eng ?_ hg.eng rfl rfl rfl rfl, .of_eng hg.eng, by rw [hg.eng]; rfl, hg.others, State.goStep_enginesOnly he _ _ _,
    hv.only.trans ((ho.mono rfl).trans (hou.mono rfl))⟩
  rw [hou.clk_eq, ho.clk_eq, hv.now]

end

/-! ## The PWM channels -/

section
variable {s t u v : State} {c x : Nat}

theorem State.setCh_same (f : PwmCh → PwmCh) (h : c < s.pwm.chs.length) : (s.setCh c f).ch c = f (s.ch c) :=
  (nth_modNth _ _ _ _ _ h).trans (if_pos rfl)

theorem State.setCh_other (f : PwmCh → PwmCh) (h : x ≠ c) : (s.setCh c f).ch x = s.ch x := nth_modNth_ne _ _ _ _ _ (Ne.symm h)

theorem State.setCh_length (s : State) (c : Nat) (f : PwmCh → PwmCh) : (s.setCh c f).pwm.chs.length = s.pwm.chs.length :=
  modNth_length _ _ _

/-- What f leaves of a channel, a change by f leaves of every channel. -/
theorem State.setCh_chs {α : Type} (g : PwmCh → α) {f : PwmCh → PwmCh} (hf : ∀ h, g (f h) = g h) (s : State) (c x : Nat) :
    g ((s.setCh c f).ch x) = g (s.ch x) := by
  by_cases hx : x = c
  · subst hx
    by_cases hl : x < s.pwm.chs.length
    · rw [State.setCh_same f hl, hf]
    · have hn : (s.setCh x f).ch x = s.ch x := by
        show nth (modNth s.pwm.chs x f) x {} = nth s.pwm.chs x {}
        unfold nth
        rw [List.getElem?_eq_none (by rw [modNth_length]; omega), List.getElem?_eq_none (by omega)]
      rw [hn]
  · rw [State.setCh_other f hx]

/-- What g reads of every channel is as before, and so is the list's length. -/
structure ChsKeep {α : Type} (g : PwmCh → α) (s t : State) : Prop where
  ch : ∀ x, g (t.ch x) = g (s.ch x)
  length : t.pwm.chs.length = s.pwm.chs.length

namespace ChsKeep

variable {α : Type} {g : PwmCh → α}

theorem refl (s : State) : ChsKeep g s s := ⟨fun _ => rfl, rfl⟩

theorem trans (h : ChsKeep g s t) (k : ChsKeep g t u) : ChsKeep g s u :=
  ⟨fun x => (k.ch x).trans (h.ch x), k.length.trans h.length⟩

theorem of_chs (h : t.pwm.chs = s.pwm.chs) : ChsKeep g s t :=
  ⟨fun x => by unfold State.ch; rw [h], by rw [h]⟩

theorem set {f : PwmCh → PwmCh} (hf : ∀ h, g (f h) = g h) (s : State) (c : Nat) : ChsKeep g s (s.setCh c f) :=
  ⟨State.setCh_chs g hf s c, s.setCh_length c f⟩

theorem foldl {β : Type} {f : State → β → State} (hf : ∀ t b, ChsKeep g t (f t b)) (l : List β) : ChsKeep g s (l.foldl f s) := by
  induction l generalizing s with
  | nil => exact .refl s
  | cons b l ih => exact (hf s b).trans ih

end ChsKeep

theorem State.loadDone_chs {α : Type} (g : PwmCh → α) (s : State) : ChsKeep g s s.loadDone := by
  unfold State.loadDone
  split
  · exact .of_chs rfl
  · exact .refl s

/-- What a transfer leaves of a channel. -/
def PwmCh.kept (h : PwmCh) : Bool × Option Nat × Option (Nat × Word × Word) := (h.running, h.stepC, h.was)

/-- A channel's count and its compare. -/
def PwmCh.counts (h : PwmCh) : Bool × Nat × Nat × Nat × Nat := (h.running, h.base, h.start, h.p, h.c)

theorem PwmCh.follow_counts (h : PwmCh) (level : Bool) (dt now : Nat) : (h.follow level dt now).counts = h.counts := by
  unfold PwmCh.follow PwmCh.rise
  split
  · split
    · rfl
    · split <;> rfl
  · rfl

theorem State.transfer_chs (s : State) (c : Nat) : ChsKeep PwmCh.kept s (s.transfer c) := .set (fun _ => by rfl) s c

theorem State.pwSettle_chs (s : State) : ChsKeep PwmCh.kept s s.pwSettle := by
  unfold State.pwSettle
  split
  · refine ChsKeep.trans (ChsKeep.foldl (fun t b => ?_) _) (State.loadDone_chs _ _)
    split
    · exact t.transfer_chs b
    · exact .refl t
  · exact .refl s

theorem State.drive_counts (s : State) (c : Nat) : ChsKeep PwmCh.counts s (s.drive c) := by
  unfold State.drive
  dsimp only
  split
  · exact (ChsKeep.set (fun h => h.follow_counts _ _ _) s c).trans (.set (fun h => h.follow_counts _ _ _) _ _)
  · exact .set (fun h => h.follow_counts _ _ _) s c

/-- A fold over a channel and its partner that leaves the channel. -/
theorem State.driven_foldl {f : State → Nat → State} (s : State) (c : Nat) {P : State → Prop} (h1 : P (f s c))
    (h2 : ∀ t, P t → P (f t (c + 1))) : P ((s.driven c).foldl f s) := by
  unfold State.driven
  split
  · exact h2 _ h1
  · exact h1

/-- A channel whose transfer is not due counts on through its period start. -/
theorem State.periodStart_counts (hd : (s.ch c).due = false) : ((s.periodStart c).ch c).counts = (s.ch c).counts := by
  have h1 : ((s.driven c).foldl (fun (t : State) x =>
      if (t.ch x).due && t.pwm.loadAll && decide (t.pwm.loadTick < t.clk.now) then t.transfer x else t) s).ch c = s.ch c := by
    refine State.driven_foldl (P := fun t => t.ch c = s.ch c) s c ?_ fun t ht => ?_
    · rw [hd]
      rfl
    · split
      · exact (State.setCh_other _ (Nat.ne_of_lt (Nat.lt_succ_self c))).trans ht
      · exact ht
  unfold State.periodStart
  dsimp only
  generalize (s.driven c).foldl _ s = u at h1 ⊢
  have h2 : ChsKeep PwmCh.counts u ((u.driven c).foldl (fun (t : State) x => t.setCh x (fun h => { h with await := false })) u) :=
    ChsKeep.foldl (fun t b => .set (fun _ => by rfl) t b) _
  generalize (u.driven c).foldl _ u = v at h2 ⊢
  have h3 := h2.trans ((v.loadDone_chs PwmCh.counts).trans (v.loadDone.drive_counts c))
  generalize v.loadDone.drive c = w at h3 ⊢
  have h4 : (w.ch c).counts = (s.ch c).counts := (h3.ch c).trans (by rw [h1])
  split
  · exact h4
  · exact h4

theorem State.ownCounter_runs (h : s.ownCounter c = true) : s.pwRuns c = (s.ch c).running := by
  unfold State.ownCounter at h
  unfold State.pwRuns
  rw [beq_iff_eq.1 h]

theorem State.stopCh_stops (hc : c < s.pwm.chs.length) (ho : s.ownCounter c = true) : ((s.stopCh c).ch c).running = false := by
  have hr := State.ownCounter_runs ho
  unfold State.stopCh
  rw [ho]
  cases hs : (s.ch c).running with
  | false =>
    rw [hr, hs]
    exact hs
  | true =>
    rw [hr, hs]
    have hl : ChsKeep PwmCh.running s ((s.driven c).foldl (fun (t : State) x => t.setCh x PwmCh.fall) s) :=
      ChsKeep.foldl (fun t b => .set (fun _ => by rfl) t b) _
    exact congrArg PwmCh.running (State.setCh_same _ (by rw [hl.length]; exact hc))

theorem State.transferred (hc : c < s.pwm.chs.length) :
    ((s.driven c).foldl State.transfer s).ch c = (s.ch c).take s.clk.now (s.shadowAt c).1 (s.shadowAt c).2
      ∧ ((s.driven c).foldl State.transfer s).pwm.chs.length = s.pwm.chs.length := by
  refine ⟨State.driven_foldl (P := fun t => t.ch c = (s.ch c).take s.clk.now (s.shadowAt c).1 (s.shadowAt c).2) s c
    (State.setCh_same _ hc) fun t ht => (State.setCh_other _ (Nat.ne_of_lt (Nat.lt_succ_self c))).trans ht, ?_⟩
  exact (ChsKeep.foldl (g := PwmCh.kept) (fun t b => t.transfer_chs b) _).length

theorem State.startCh_starts (hc : c < s.pwm.chs.length) (ho : s.ownCounter c = true) : ((s.startCh c).ch c).running = true
    ∧ ((s.ch c).running = false → ((s.startCh c).ch c).counts
      = (true, 0, s.clk.now, fld (s.shadowAt c).1 31 16, fld (s.shadowAt c).1 15 0)) := by
  have hr := State.ownCounter_runs ho
  unfold State.startCh
  rw [ho]
  cases hs : (s.ch c).running with
  | true =>
    rw [hr, hs]
    exact ⟨hs, fun h => by cases h⟩
  | false =>
    rw [hr, hs]
    obtain ⟨h1, h2⟩ := State.transferred hc
    have ht : Only [.pwm] s ((s.driven c).foldl State.transfer s) :=
      Only.foldl _ (Only.refl _ s) (fun t x h => h.trans (t.transfer_only x))
    have hk : (s.startCh c) = s.startCh c := rfl
    rw [if_neg (by exact Bool.false_ne_true)]
    dsimp only
    generalize (s.driven c).foldl State.transfer s = u at h1 h2 ht
    have h3 := State.setCh_same (s := u) (c := c) (fun h => { h with running := true }) (by rw [h2]; exact hc)
    have h4 := u.setCh_length c (fun h => { h with running := true })
    have h5 : (u.setCh c (fun h => { h with running := true })).clk = s.clk := ht.clk_eq
    generalize u.setCh c (fun h => { h with running := true }) = w at h3 h4 h5
    have h6 : (w.zeroCounter c).ch c = { w.ch c with base := 0, start := w.clk.now } :=
      State.setCh_same _ (by rw [h4, h2]; exact hc)
    have h7 : (w.zeroCounter c).loadDone.ch c = (w.zeroCounter c).ch c := (State.loadDone_chs id (w.zeroCounter c)).ch c
    have h8 := State.periodStart_counts (s := (w.zeroCounter c).loadDone) (c := c) (by rw [h7, h6, h3, h1]; rfl)
    rw [h7, h6, h3, h1, h5] at h8
    generalize (w.zeroCounter c).loadDone.periodStart c = z at h8
    refine ⟨?_, fun _ => h8⟩
    exact congrArg Prod.fst h8

theorem State.startCh_other (ho : s.ownCounter c = false) : s.startCh c = s ∧ s.stopCh c = s := by
  unfold State.startCh State.stopCh
  rw [ho, Bool.not_false, Bool.or_true, Bool.or_true]
  exact ⟨if_pos rfl, if_pos rfl⟩

theorem State.shadowAt_congr (hk : (t.ch c).kept = (s.ch c).kept) (hn : t.clk.now = s.clk.now) (hc : ∀ a, t.cfgAt a = s.cfgAt a) :
    t.shadowAt c = s.shadowAt c := by
  have h1 : (t.ch c).stepC = (s.ch c).stepC := congrArg (fun p => p.2.1) hk
  have h2 : (t.ch c).was = (s.ch c).was := congrArg (fun p => p.2.2) hk
  unfold State.shadowAt State.shadow State.shadowTrig
  rw [h1, h2, hn, hc, hc]

theorem State.keepShadow_running (s : State) (c : Nat) : ChsKeep PwmCh.running s (s.keepShadow c) := by
  unfold State.keepShadow
  split
  · exact .refl s
  · exact .set (fun _ => by rfl) s c

/-- What a PWM step does with its channel. -/
structure PwmActs (w : Step64) (s t : State) : Prop where
  stops : pwAction w = 0 → s.ownCounter (pwChannel w) = true → (t.ch (pwChannel w)).running = false
  other : pwAction w < 2 → s.ownCounter (pwChannel w) = false → (t.ch (pwChannel w)).running = (s.ch (pwChannel w)).running
  starts : pwAction w = 1 → s.ownCounter (pwChannel w) = true → (t.ch (pwChannel w)).running = true
    ∧ ((s.ch (pwChannel w)).running = false → (t.ch (pwChannel w)).counts
      = (true, 0, s.clk.now, fld (s.shadowAt (pwChannel w)).1 31 16, fld (s.shadowAt (pwChannel w)).1 15 0))
  writes : pwAction w = 2 → (t.ch (pwChannel w)).stepC = some (pwValue w)
    ∧ (t.ch (pwChannel w)).running = (s.ch (pwChannel w)).running

theorem State.pwmAct_channel (w : Step64) (hc : pwChannel w < s.pwm.chs.length) : PwmActs w s (s.pwmAct w) := by
  have hk := s.pwSettle_chs
  have ho := s.pwSettle_only
  have hcfg (a : Nat) : s.pwSettle.cfgAt a = s.cfgAt a := ho.cfgAt_eq a
  have hsh := State.shadowAt_congr (hk.ch (pwChannel w)) (by rw [ho.clk_eq]) hcfg
  have hown : s.pwSettle.ownCounter (pwChannel w) = s.ownCounter (pwChannel w) := by
    unfold State.ownCounter State.pwBase State.pairComp
    rw [hcfg]
  have hrun : (s.pwSettle.ch (pwChannel w)).running = (s.ch (pwChannel w)).running := congrArg Prod.fst (hk.ch (pwChannel w))
  have hclk : s.pwSettle.clk.now = s.clk.now := by rw [ho.clk_eq]
  have hl : pwChannel w < s.pwSettle.pwm.chs.length := by rw [hk.length]; exact hc
  unfold State.pwmAct
  dsimp only
  generalize s.pwSettle = u at hsh hown hrun hclk hl ⊢
  split
  next h0 =>
    refine ⟨fun _ hs => State.stopCh_stops hl (by rw [hown]; exact hs), fun _ hs => ?_, fun h => ?_, fun h => ?_⟩
    · rw [(State.startCh_other (by rw [hown]; exact hs)).2]
      exact hrun
    · rw [h0] at h
      cases h
    · rw [h0] at h
      cases h
  next h1 =>
    refine ⟨fun h => ?_, fun _ hs => ?_, fun _ hs => ?_, fun h => ?_⟩
    · rw [h1] at h
      cases h
    · rw [(State.startCh_other (by rw [hown]; exact hs)).1]
      exact hrun
    · obtain ⟨k1, k2⟩ := State.startCh_starts hl (by rw [hown]; exact hs)
      refine ⟨k1, fun h => ?_⟩
      rw [k2 (by rw [hrun]; exact h), hclk, hsh]
    · rw [h1] at h
      cases h
  next h2 =>
    have hkr := u.keepShadow_running (pwChannel w)
    have hsame := State.setCh_same (s := u.keepShadow (pwChannel w)) (c := pwChannel w) (fun h => { h with stepC := some (pwValue w) })
      (by rw [hkr.length]; exact hl)
    refine ⟨fun h => ?_, fun h => ?_, fun h => ?_, fun _ => ?_⟩
    · rw [h2] at h
      cases h
    · rw [h2] at h
      exact absurd h (by decide)
    · rw [h2] at h
      cases h
    · rw [hsame]
      exact ⟨rfl, (hkr.ch _).trans hrun⟩
  next h0 h1 h2 =>
    exact ⟨fun h => absurd h h0, fun h => absurd h (by
      have h0 : pwAction w ≠ 0 := h0
      have h1 : pwAction w ≠ 1 := h1
      omega), fun h => absurd h h1, fun h => absurd h h2⟩

end

/-! ## PWM steps -/

section
variable {s t u v : State} {k : BitVec 3} {j : Nat} {f : Fetch}

theorem unitsOk_chs (h : s.unitsOk = true) : s.pwm.chs.length = 16 := by
  simp only [State.unitsOk, Bool.and_eq_true, beq_iff_eq] at h
  exact h.2

/-- The row of a PWM step where no lower engine has claimed what it acts on. -/
theorem pwmStep_free (h : Issues k 0xE f s) {c : Nat} (hc : (if pwAction (s.stepOf k.toNat) = 3 then 16 else pwChannel (s.stepOf k.toNat)) = c)
    (hf : PwmFree k c s) :
    exec (.pwmStep k f) s = .next ((((s.atIssue k 0xE f).pwmClaimed k.toNat c).pwmAct (s.stepOf k.toNat)).endStep k.toNat 1) := by
  subst hc
  exact congrArg Host.Outcome.next ((h.engStep _).trans (congrArg (fun u => State.endStep u k.toNat 1)
    (h.pwmFree hf (fun x => x.pwmAct (s.stepOf k.toNat)))))

theorem pwmStep_acts (hu : s.unitsOk = true) (h : Issues k 0xE f s) (hp : (s.eng k.toNat).pc < lastStep k.toNat)
    (ha : pwAction (s.stepOf k.toNat) < 3) (hf : PwmFree k (pwChannel (s.stepOf k.toNat)) s) :
    Answers (.pwmStep k f) s fun t =>
      let w := s.stepOf k.toNat
      let c := pwChannel w
      Issued k 0xE s t ∧ GoesTo k ((s.eng k.toNat).pc + 1) s t ∧ SameFlags k s t ∧ OtherEngines k s t ∧ SamePrograms s t
        ∧ (pwAction w = 0 → s.ownCounter c = true → (t.ch c).running = false)
        ∧ (pwAction w < 2 → s.ownCounter c = false → (t.ch c).running = (s.ch c).running)
        ∧ (pwAction w = 1 → s.ownCounter c = true → (t.ch c).running = true
            ∧ ((s.ch c).running = false → (t.ch c).counter t.clk.now = 0
                ∧ (t.ch c).p = fld ((s.till (issueTick k s)).shadowAt c).1 31 16
                ∧ (t.ch c).c = fld ((s.till (issueTick k s)).shadowAt c).1 15 0))
        ∧ (pwAction w = 2 → (t.ch c).stepC = some (pwValue w) ∧ (t.ch c).running = (s.ch c).running)
        ∧ Only [.clk, .kiln, .pwm, .irq] s t := by
  have hx := pwmStep_free h (if_neg (by omega)) hf
  have hv := h.pwmClaimed (pwChannel (s.stepOf k.toNat))
  generalize (s.atIssue k 0xE f).pwmClaimed k.toNat (pwChannel (s.stepOf k.toNat)) = v at hx hv
  generalize s.stepOf k.toNat = w at hx ha
  dsimp only
  have hvp : v.pwm = s.pwm := hv.only.pwm_eq
  have hch (x : Nat) : v.ch x = s.ch x := by
    unfold State.ch
    rw [hvp]
  have hown : v.ownCounter (pwChannel w) = s.ownCounter (pwChannel w) := by
    unfold State.ownCounter State.pwBase State.pairComp
    rw [hv.only.cfgAt_eq]
  have hto := s.till_only (issueTick k s)
  have hsh : v.shadowAt (pwChannel w) = (s.till (issueTick k s)).shadowAt (pwChannel w) := by
    refine State.shadowAt_congr ?_ ?_ fun a => (hv.only.cfgAt_eq a).trans (hto.cfgAt_eq a).symm
    · rw [hch]
      unfold State.ch
      rw [hto.pwm_eq]
    · rw [hv.now, s.till_clock]
      unfold issueTick
      omega
  obtain ⟨a1, a2, a3, a4⟩ := State.pwmAct_channel (s := v) w (by
    have := fld_lt w 51 48
    rw [hvp, unitsOk_chs hu]
    unfold pwChannel
    omega)
  have hou : Only [.irq, .pwm] v (v.pwmAct w) := (v.pwmAct_only w).mono rfl
  generalize v.pwmAct w = u at hx a1 a2 a3 a4 hou
  obtain ⟨t1, t2, t3, t4, t5, t6⟩ := hv.passes h.length hp hou.clk_eq hou.kiln_eq
  have hcu (x : Nat) : (u.endStep k.toNat 1).ch x = u.ch x := by
    unfold State.ch
    rw [t6.pwm_eq]
  have hn : (u.endStep k.toNat 1).clk.now = v.clk.now := by rw [t6.clk_eq, hou.clk_eq]
  refine Answers.of_exec hx ⟨t1, t2, t3, t4, t5, fun h0 ho => ?_, fun h2 ho => ?_, fun h1 ho => ?_, fun h2 => ?_,
    (hv.only.mono rfl).trans ((hou.mono rfl).trans (t6.mono rfl))⟩
  · rw [hcu]
    exact a1 h0 (by rw [hown]; exact ho)
  · rw [hcu, a2 h2 (by rw [hown]; exact ho), hch]
  · obtain ⟨r1, r2⟩ := a3 h1 (by rw [hown]; exact ho)
    rw [hcu]
    refine ⟨r1, fun hr => ?_⟩
    have hcounts := r2 (by rw [hch]; exact hr)
    rw [hsh] at hcounts
    have hb : (u.ch (pwChannel w)).base = 0 := congrArg (fun p => p.2.1) hcounts
    have hs : (u.ch (pwChannel w)).start = v.clk.now := congrArg (fun p => p.2.2.1) hcounts
    refine ⟨?_, congrArg (fun p => p.2.2.2.1) hcounts, congrArg (fun p => p.2.2.2.2) hcounts⟩
    unfold PwmCh.counter
    rw [r1, if_pos rfl, hb, hs, hn, Nat.sub_self]
    exact Nat.zero_mod _
  · obtain ⟨r1, r2⟩ := a4 h2
    rw [hcu]
    exact ⟨r1, r2.trans (by rw [hch])⟩

theorem pwmStep_loadAll (h : Issues k 0xE f s) (hp : (s.eng k.toNat).pc < lastStep k.toNat) (ha : pwAction (s.stepOf k.toNat) = 3)
    (hf : PwmFree k 16 s) :
    Answers (.pwmStep k f) s fun t =>
      Issued k 0xE s t ∧ GoesTo k ((s.eng k.toNat).pc + 1) s t ∧ t.pwm.loadAll = true ∧ SameFlags k s t ∧ OtherEngines k s t
        ∧ SamePrograms s t ∧ Only [.clk, .kiln, .pwm, .irq] s t := by
  have hx := pwmStep_free h (if_pos ha) hf
  have hv := h.pwmClaimed 16
  generalize (s.atIssue k 0xE f).pwmClaimed k.toNat 16 = v at hx hv
  generalize s.stepOf k.toNat = w at hx ha
  have hl : (v.pwmAct w).pwm.loadAll = true := by
    have he : v.pwmAct w = v.pwSettle.setLoadAll := by
      unfold State.pwmAct
      rw [ha] <;> rfl
    rw [he]
    unfold State.setLoadAll
    split
    · assumption
    · rfl
  have hou : Only [.irq, .pwm] v (v.pwmAct w) := (v.pwmAct_only w).mono rfl
  generalize v.pwmAct w = u at hx hl hou
  obtain ⟨t1, t2, t3, t4, t5, t6⟩ := hv.passes h.length hp hou.clk_eq hou.kiln_eq
  exact Answers.of_exec hx ⟨t1, t2, by rw [t6.pwm_eq]; exact hl, t3, t4, t5, (hv.only.mono rfl).trans ((hou.mono rfl).trans (t6.mono rfl))⟩

theorem pwmStep_lower (h : Issues k 0xE f s) (hp : (s.eng k.toNat).pc < lastStep k.toNat) (ht : s.kiln.tick.time = issueTick k s)
    (hj : j < k.toNat)
    (hc : claimed s.kiln.tick.pwm (if pwAction (s.stepOf k.toNat) = 3 then 16 else pwChannel (s.stepOf k.toNat)) = some j) :
    Answers (.pwmStep k f) s fun t =>
      Issued k 0xE s t ∧ GoesTo k ((s.eng k.toNat).pc + 1) s t ∧ SameFlags k s t ∧ OtherEngines k s t ∧ EnginesOnly s t
        ∧ Only [.clk, .kiln] s t := by
  have htick := (State.atIssue_tick (s := s) k 0xE f).1
  have hl := State.claimPwm_lower (s := s.atIssue k 0xE f) (by rw [htick, h.atIssue.now]; exact ht) (by rw [htick]; exact hc) hj
    (fun x => x.pwmAct (s.stepOf k.toNat))
  exact Answers.of_exec (congrArg Host.Outcome.next ((h.engStep _).trans (congrArg (fun u => State.endStep u k.toNat 1) hl)))
    (h.passes hp rfl)

end

/-- Settles O17, by the claims of a tick and what each step does to its trim, its port or its channel. -/
theorem marginAndPwmSteps : Obligations.MarginAndPwmSteps := by
  unfold Obligations.MarginAndPwmSteps
  exact ⟨fun k f s hw => marginStep_trims (tablesOk_trims hw), fun k f s => marginStep_blocked, fun k f s => marginStep_queues,
    fun k f s hw => trimStep_trims (tablesOk_trims hw), fun k f j s => trimStep_lower, fun k f s => pwmStep_acts,
    fun k f s => pwmStep_loadAll, fun k f j s => pwmStep_lower⟩

end Sys2Proof.Machine
end

section
/-! SUPPORT. What no consequence of a load and no reply touches (O41). -/

set_option Elab.async false

namespace Sys2Proof.Machine

/-! ## What an image brings

A load puts the registers, the stores and the tables in force, keeps the calibration set and ends the collection. Nothing that follows
from its registers, and no reply, touches any of these. -/

/-- The configuration registers, the stores, the cooling tables, the calibration set and the collection of an image. -/
def State.loaded (s : State) : Tab Word × Tab Step64 × Tab Step64 × List CoolTable × Tab Word × Option ImageLoad :=
  (s.cfg, s.kiln.store, s.kiln.sgStore, s.fault.tables, s.mg.cal, s.port.image)

section
variable {s t : State}

theorem Only.loaded_eq {ps : List Part} (h : Only ps s t)
    (hp : Part.cfg ∉ ps ∧ Part.kiln ∉ ps ∧ Part.fault ∉ ps ∧ Part.mg ∉ ps ∧ Part.port ∉ ps := by decide) : t.loaded = s.loaded := by
  obtain ⟨hc, hk, hf, hm, hpo⟩ := hp
  unfold State.loaded
  rw [h.cfg_eq hc, h.kiln_eq hk, h.fault_eq hf, h.mg_eq hm, h.port_eq hpo]

theorem loaded_foldl {α : Type} {f : State → α → State} (hf : ∀ t x, (f t x).loaded = t.loaded) (s : State) (l : List α) :
    (l.foldl f s).loaded = s.loaded := by
  induction l generalizing s with
  | nil => rfl
  | cons x l ih => exact (ih _).trans (hf s x)

end

section
variable (s : State)

/-! ### Trims and the sweep -/

theorem State.applyTrim_loaded (n level : Nat) (code : Int) : (s.applyTrim n level code).loaded = s.loaded := by
  unfold State.applyTrim
  dsimp only
  split <;> rfl

theorem State.trimNominal_loaded (n : Nat) : (s.trimNominal n).loaded = s.loaded := s.applyTrim_loaded n 0 _

theorem State.trimsNominal_loaded : s.trimsNominal.loaded = s.loaded := by
  refine loaded_foldl (fun t n => ?_) s _
  split
  · rfl
  · exact t.trimNominal_loaded n

theorem State.endRail_loaded (n result : Nat) : (s.endRail n result).loaded = s.loaded := by
  have hu : ((s.setTrim n { s.trim n with sweeps := ((s.trim n).sweeps + 1) % 65536 }).trendShard n result).loaded = s.loaded :=
    (Only.loaded_eq (State.trendShard_only _ _ _)).trans rfl
  unfold State.endRail
  dsimp only
  generalize (s.setTrim n { s.trim n with sweeps := ((s.trim n).sweeps + 1) % 65536 }).trendShard n result = u at hu ⊢
  split
  · exact (u.trimNominal_loaded n).trans hu
  · exact hu

theorem State.finishCycle_loaded : s.finishCycle.loaded = s.loaded := by
  unfold State.finishCycle
  split <;> rfl

theorem State.abortRail_loaded (n result : Nat) : (s.abortRail n result).loaded = s.loaded := by
  unfold State.abortRail
  split
  · exact (State.finishCycle_loaded _).trans (s.endRail_loaded n result)
  · rfl

theorem State.endCycle_loaded (result : Nat) : (s.endCycle result).loaded = s.loaded := by
  unfold State.endCycle
  dsimp only
  split
  · exact s.endRail_loaded _ result
  · rfl

theorem State.leaveRunning_loaded : s.leaveRunning.loaded = s.loaded := by
  unfold State.leaveRunning
  dsimp only
  split
  · split
    · exact s.endCycle_loaded 3
    · rfl
  · rfl

theorem State.sweepSees_loaded : s.sweepSees.loaded = s.loaded := by
  unfold State.sweepSees
  split
  · split
    · exact s.abortRail_loaded _ 2
    · rfl
  · rfl

theorem State.trimSide_loaded (old : State) (n : Nat) : (s.trimSide old n).loaded = s.loaded := by
  unfold State.trimSide
  split
  · rfl
  · split
    · exact s.trimNominal_loaded n
    · rfl

theorem State.startCycle_loaded : s.startCycle.loaded = s.loaded := by
  unfold State.startCycle
  dsimp only
  split
  · exact (State.finishCycle_loaded _).trans rfl
  · rfl

theorem State.stopCycle_loaded : s.stopCycle.loaded = s.loaded := by
  unfold State.stopCycle
  split
  · exact s.endCycle_loaded 4
  · rfl

theorem State.intervalChanged_loaded : s.intervalChanged.loaded = s.loaded := by
  unfold State.intervalChanged
  dsimp only
  split <;> rfl

/-! ### Replies -/

theorem State.dropCmd_loaded (ring : Bool) (tag : Nat) : (s.dropCmd ring tag).loaded = s.loaded := rfl

theorem State.replyOut_loaded (r : Reply) : (s.replyOut r).loaded = s.loaded := by
  unfold State.replyOut
  split
  · rfl
  · split <;> rfl

theorem State.post_loaded (r : Reply) : (s.post r).loaded = s.loaded := by
  have hd : (if r.keeps then s else s.dropCmd r.ring r.tag).loaded = s.loaded := by split <;> rfl
  unfold State.post
  dsimp only
  generalize (if r.keeps then s else s.dropCmd r.ring r.tag) = u at hd ⊢
  split
  · exact (State.replyOut_loaded _ r).trans ((Only.loaded_eq (State.sendFrame_only _ _ _)).trans hd)
  · split
    · exact (State.replyOut_loaded _ r).trans hd
    · rfl

theorem State.answer_loaded (c : Cmd) (status : Nat) (payload : List Byte) : (s.answer c status payload).loaded = s.loaded := by
  unfold State.answer
  dsimp only
  split
  · rfl
  · exact (State.post_loaded _ _).trans rfl

theorem State.refusalEffects_loaded (c : Cmd) (status : Nat) : (s.refusalEffects c status).loaded = s.loaded := by
  have hc : (s.countRefusal status).loaded = s.loaded := by
    unfold State.countRefusal
    dsimp only
    split
    · split <;> rfl
    · split <;> rfl
  exact (Only.loaded_eq (State.secShard_only _ c status)).trans hc

theorem State.finish_loaded (c : Cmd) (status : Nat) (payload : List Byte) : (s.finish c status payload).loaded = s.loaded := by
  have hr := s.refusalEffects_loaded c status
  unfold State.finish
  dsimp only
  generalize s.refusalEffects c status = u at hr ⊢
  split
  · split
    · exact hr
    · split
      · exact (State.answer_loaded _ c status payload).trans hr
      · split
        · exact hr
        · exact (State.answer_loaded _ c 0 []).trans hr
  · exact (State.answer_loaded _ c status payload).trans hr

theorem State.discardCooling_loaded (pm : Nat) (keep : Option (Bool × Nat)) : (s.discardCooling pm keep).loaded = s.loaded := by
  have hd (u : State) (cause : Nat) (gone : List Cmd) : (u.recordDiscard cause gone).loaded = u.loaded := by
    unfold State.recordDiscard
    dsimp only
    split <;> rfl
  unfold State.discardCooling
  dsimp only
  exact (hd _ _ _).trans ((loaded_foldl (fun t c => t.finish_loaded c _ _) _ _).trans rfl)

/-! ### Requests -/

theorem State.enterRunning_loaded : s.enterRunning.loaded = s.loaded := by
  have hg : (s.goTo .running 0x18).loaded = s.loaded := Only.loaded_eq (s.goTo_only .running 0x18)
  exact hg

theorem State.fireStart_loaded (cause : Nat) : (s.fireStart cause).loaded = s.loaded := by
  have hg : (({ s with pm := { s.pm with onPending := none } } : State).goTo .firing cause).loaded = s.loaded :=
    (Only.loaded_eq (State.goTo_only _ _ _)).trans rfl
  unfold State.fireStart
  dsimp only
  generalize ({ s with pm := { s.pm with onPending := none } } : State).goTo .firing cause = u at hg ⊢
  split
  · exact hg
  · exact (State.enterRunning_loaded _).trans hg

theorem State.tryPending_loaded : s.tryPending.loaded = s.loaded := by
  unfold State.tryPending
  split
  · split
    · exact s.fireStart_loaded _
    · rfl
  · rfl

theorem State.onRequest_loaded (cause : Nat) : (s.onRequest cause).loaded = s.loaded := by
  unfold State.onRequest
  split
  · unfold State.joinRequest
    dsimp only
    split <;> rfl
  · unfold State.newRequest
    dsimp only
    split
    · split
      · rfl
      · split
        · rfl
        · split
          · exact (State.fireStart_loaded _ cause).trans rfl
          · split <;> rfl
    · rfl

theorem State.releaseHeld_loaded : s.releaseHeld.loaded = s.loaded :=
  (State.tryPending_loaded _).trans ((loaded_foldl (f := fun (t : State) (c : Byte) => (t.mirror 1 c.toNat).onRequest c.toNat)
    (fun t c => (State.onRequest_loaded _ _).trans (Only.loaded_eq (t.mirror_only 1 c.toNat))) _ _).trans rfl)

/-! ### Faults -/

theorem State.recordBisque_loaded (f : FaultRec) (stamp : Nat) : (s.recordBisque f stamp).loaded = s.loaded := by
  unfold State.recordBisque
  dsimp only
  split
  · rfl
  · rfl

theorem State.recordFault_loaded (f : FaultRec) : (s.recordFault f).loaded = s.loaded :=
  (State.recordBisque_loaded _ f _).trans rfl

theorem State.enqueue_loaded (f : FaultRec) (table : Nat) : (s.enqueue f table).loaded = s.loaded := by
  have hr := s.recordFault_loaded f
  unfold State.enqueue
  dsimp only
  generalize s.recordFault f = u at hr ⊢
  split
  · exact hr
  · split <;> exact hr

theorem State.coolT_loaded (f : FaultRec) (table : Nat) : (s.coolT f table).loaded = s.loaded := by
  have h := s.enqueue_loaded f table
  unfold State.coolT
  dsimp only
  split <;> exact h


theorem State.walkSeek_loaded (k : Nat) : (s.walkSeek k).loaded = s.loaded := by
  induction k generalizing s with
  | zero => rfl
  | succ k ih =>
    unfold State.walkSeek
    dsimp only
    split
    · rfl
    · split
      · refine (ih _).trans ?_
        split
        · exact s.applyTrim_loaded _ _ _
        · rfl
      · rfl

theorem State.walkBegin_loaded : s.walkBegin.loaded = s.loaded := State.walkSeek_loaded _ 66

theorem State.coolH_loaded (f : FaultRec) (table : Nat) : (s.coolH f table).loaded = s.loaded := by
  have ht (u : State) : u.assertTripo.loaded = u.loaded := Only.loaded_eq u.assertTripo_only
  unfold State.coolH
  dsimp only
  split
  · exact (State.walkBegin_loaded _).trans ((ht _).trans ((State.recordFault_loaded _ f).trans
      (Only.loaded_eq (s.faultShard_only f 0 table 0))))
  · split
    · exact (State.enqueue_loaded _ f table).trans ((State.walkBegin_loaded _).trans (ht s))
    · exact s.enqueue_loaded f table

theorem State.holdFault_loaded (f : FaultRec) (table : Nat) : (s.holdFault f table).loaded = s.loaded := by
  unfold State.holdFault
  dsimp only
  split
  · rfl
  · split <;> rfl

theorem State.recordOnly_loaded (f : FaultRec) : (s.recordOnly f).loaded = s.loaded := by
  have hl : (s.setLatch.recordBisque f s.clk.aonStamp).loaded = s.loaded :=
    (State.recordBisque_loaded _ f _).trans (Only.loaded_eq s.setLatch_only)
  unfold State.recordOnly
  dsimp only
  generalize s.setLatch.recordBisque f s.clk.aonStamp = u at hl ⊢
  refine (Only.loaded_eq (State.assertTripo_only _)).trans ((Only.loaded_eq (State.assertPfw_only _)).trans ?_)
  split <;> exact hl

theorem State.endSequences_loaded : s.endSequences.loaded = s.loaded := by
  unfold State.endSequences State.endSeqs
  dsimp only
  exact (loaded_foldl (fun t n => by rfl) _ _).trans rfl

theorem State.afterAbort_loaded : s.afterAbort.loaded = s.loaded := by
  unfold State.afterAbort
  split
  · rfl
  · exact s.releaseHeld_loaded

theorem State.startShutdown_loaded (k : Start) (f : FaultRec) (table cause : Nat) (keep : Option (Bool × Nat)) :
    (s.startShutdown k f table cause keep).loaded = s.loaded := by
  have hrecord : (s.shutdownRecord k f table).loaded = s.loaded := by
    unfold State.shutdownRecord
    dsimp only
    split
    · exact s.leaveRunning_loaded
    · exact (State.recordFault_loaded _ f).trans ((Only.loaded_eq (State.faultShard_only _ f 0 table 0)).trans s.leaveRunning_loaded)
  have htell (u : State) : (u.shutdownTell k f table).loaded = u.loaded := by
    unfold State.shutdownTell
    dsimp only
    refine (Only.loaded_eq (State.tellTwin_only _ k f table)).trans ((Only.loaded_eq (State.soundHorn_only _ k f.cause)).trans ?_)
    split
    · exact (Only.loaded_eq (State.assertTripo_only _)).trans (Only.loaded_eq u.assertPfw_only)
    · exact Only.loaded_eq u.assertPfw_only
  have henter (u : State) : (u.shutdownEnter cause keep).loaded = u.loaded :=
    (State.trimsNominal_loaded _).trans ((State.discardCooling_loaded _ cause keep).trans
      ((Only.loaded_eq (State.goTo_only u.abortEngines.endSequences .cooling cause)).trans
        ((State.endSequences_loaded u.abortEngines).trans rfl)))
  have hwalk (u : State) (trip : List Nat) : (u.shutdownWalk k f table trip).loaded = u.loaded := by
    unfold State.shutdownWalk
    dsimp only
    split
    · exact State.walkBegin_loaded _
    · rfl
  rw [State.startShutdown_eq]
  exact (State.afterAbort_loaded _).trans ((hwalk _ _).trans ((henter _).trans ((htell _).trans hrecord)))

theorem State.receive_loaded (f : FaultRec) : (s.receive f).loaded = s.loaded := by
  have hw (u : State) : u.wake.loaded = u.loaded := Only.loaded_eq u.wake_only
  unfold State.receive State.receiveAs
  split
  · exact Only.loaded_eq (State.faultShard_only _ _ _ _ _)
  · split
    · unfold State.receiveW
      split
      iterate 4 exact (Only.loaded_eq (State.faultShard_only _ _ _ _ _)).trans rfl
      · exact s.holdFault_loaded f 0xFF
      · exact (hw _).trans (s.holdFault_loaded f 0xFF)
      · rfl
    · unfold State.receiveTH
      dsimp only
      split
      iterate 3 exact s.startShutdown_loaded _ _ _ _ _
      · split
        · exact s.coolH_loaded f _
        · exact s.coolT_loaded f _
      · exact (State.holdFault_loaded _ f _).trans (s.recordOnly_loaded f)
      · exact (hw _).trans ((State.holdFault_loaded _ f _).trans (s.recordOnly_loaded f))
      · rfl

theorem State.deliver_loaded (e : FaultRec × Nat) : (s.deliver e).loaded = s.loaded := by
  unfold State.deliver
  dsimp only
  split
  · rfl
  · exact s.receive_loaded _

theorem State.endPersist_loaded (src : Nat) : (s.endPersist src).loaded = s.loaded :=
  (loaded_foldl (f := fun (u : State) (p : Nat × Nat × Nat) => u.receive (persistFault p.1 p.2.1 (if u.clk.now < p.2.2 then 1 else 2)))
    (fun t p => t.receive_loaded _) _ _).trans rfl

theorem State.observeChecks_loaded : s.observeChecks.loaded = s.loaded := by
  refine loaded_foldl (fun t k => ?_) s _
  unfold State.observeEngine
  dsimp only
  split <;> rfl

theorem State.refreshFlt_loaded (old : State) : (s.refreshFlt old).loaded = s.loaded := Only.loaded_eq (s.refreshFlt_only old)

theorem State.forcedChange_loaded (old : State) : (s.forcedChange old).loaded = s.loaded :=
  (State.sweepSees_loaded _).trans ((State.observeChecks_loaded _).trans (s.refreshFlt_loaded old))

theorem State.senseChange_loaded (old : State) (srcs : List Nat) : (s.senseChange old srcs).loaded = s.loaded := by
  have ha : ((s.armAll srcs).refreshFlt old).loaded = s.loaded :=
    (State.refreshFlt_loaded _ old).trans (Only.loaded_eq (s.armAll_only srcs))
  unfold State.senseChange
  dsimp only
  split
  · exact ha
  · exact (loaded_foldl State.endPersist_loaded _ _).trans ((loaded_foldl State.deliver_loaded _ _).trans
      ((State.sweepSees_loaded _).trans ((State.observeChecks_loaded _).trans ha)))

/-! ### What follows from a word -/

theorem State.attenChanged_loaded (n : Nat) : (s.attenChanged n).loaded = s.loaded := by
  unfold State.attenChanged
  dsimp only
  exact (loaded_foldl (f := fun (u : State) (x : Nat) => u.receive (wFault 9 x)) (fun t x => t.receive_loaded _) _ _).trans
    ((State.forcedChange_loaded _ s).trans (loaded_foldl (fun t x => by rfl) s _))

theorem State.twinAtReady_loaded : s.twinAtReady.loaded = s.loaded := by
  unfold State.twinAtReady State.foundOrBlock
  split
  · split
    · rfl
    · split
      · exact (State.tryPending_loaded _).trans rfl
      · rfl
  · rfl

theorem State.twinEnChanged_loaded (old : State) : (s.twinEnChanged old).loaded = s.loaded := by
  unfold State.twinEnChanged
  dsimp only
  refine (loaded_foldl (fun t n => t.trimSide_loaded old n) _ _).trans ((State.senseChange_loaded _ _ _).trans
    ((loaded_foldl (fun t x => ?_) _ _).trans ((State.twinAtReady_loaded _).trans ?_)))
  · split <;> rfl
  · split
    · exact (State.releaseHeld_loaded _).trans rfl
    · rfl

theorem State.writeAfter_loaded (cfg : Tab Word) (r : Reg) (v c : Word) : (s.writeAfter cfg r v c).loaded = s.loaded := by
  have hatten : (if bit c 0 then s.attenChanged r.i else s).loaded = s.loaded := by
    split
    · exact s.attenChanged_loaded r.i
    · rfl
  unfold State.writeAfter
  dsimp only
  split
  · split
    · exact (State.senseChange_loaded _ _ _).trans hatten
    · exact hatten
  · exact Only.loaded_eq (s.cmpCfgChanged_only _ _ _)
  · exact s.refreshFlt_loaded _
  · exact s.refreshFlt_loaded _
  · exact Only.loaded_eq s.scanChanged_only
  · exact Only.loaded_eq s.scanChanged_only
  · exact Only.loaded_eq s.assignAll_only
  · split
    · exact s.intervalChanged_loaded
    · rfl
  · have hstop : (if bit v 1 then s.stopCycle else s).loaded = s.loaded := by
      split
      · exact s.stopCycle_loaded
      · rfl
    split
    · exact (State.startCycle_loaded _).trans hstop
    · exact hstop
  · split
    · exact Only.loaded_eq (s.twEnable_only r.i)
    · rfl
  · have hreset : (if bit v 0 then s.twReset r.i else s).loaded = s.loaded := by
      split
      · exact Only.loaded_eq (s.twReset_only r.i)
      · rfl
    split
    · exact (Only.loaded_eq (State.twClear_only _ r.i)).trans hreset
    · exact hreset
  · split
    · exact s.twinEnChanged_loaded _
    · rfl
  · exact loaded_foldl (fun t i => t.trimSide_loaded _ _) s _
  · have henum : (if bit v 1 then s.reenumerate else s).loaded = s.loaded := by
      split
      · exact Only.loaded_eq s.reenumerate_only
      · rfl
    split
    · exact (Only.loaded_eq (State.forgetAbsent_only _)).trans henum
    · exact henum
  · exact Only.loaded_eq (s.outChanged_only _ _ _)
  · rfl

theorem State.writesFollow_loaded (l : List Written) : (s.writesFollow l).loaded = s.loaded :=
  loaded_foldl (fun t w => t.writeAfter_loaded _ _ _ _) s l

end

end Sys2Proof.Machine
end

section
/-! SUPPORT. What a configuration image brings (O41). -/

set_option Elab.async false

namespace Sys2Proof.Machine

/-! ## The registers of a configuration image -/

theorem mem_insertReg {r q : Reg} {l : List Reg} : q ∈ insertReg r l ↔ q = r ∨ q ∈ l := by
  induction l with
  | nil => simp [insertReg]
  | cons x l ih =>
    unfold insertReg
    split
    · exact List.mem_cons
    · rw [List.mem_cons, List.mem_cons, ih]
      exact or_left_comm

theorem mem_foldr_insertReg {q : Reg} {l : List Reg} : q ∈ l.foldr insertReg [] ↔ q ∈ l := by
  induction l with
  | nil => simp
  | cons x l ih => rw [List.foldr_cons, mem_insertReg, ih, List.mem_cons]

/-- Each register of an image lies at an address of its own, below those of the Saggar block. -/
theorem regAt_of_mem_cfgRegs {r : Reg} (h : r ∈ cfgRegs) : regAt r.addr = some r ∧ r.addr < 0xF00000 := by
  have hall : (((rowsPm ++ rowsCh ++ rowsKl ++ rowsCt ++ rowsMg ++ rowsLg ++ rowsCm ++ rowsGl ++ rowsTw ++ rowsCk
      ++ rowsPw).filter (fun r => r.keep == .cfg)).flatMap RegRow.regs).all (fun r => regAt r.addr == some r && decide (r.addr < 0xF00000))
      = true := by decide +kernel
  have := List.all_eq_true.1 hall r (mem_foldr_insertReg.1 h)
  simpa using this

section
variable {s : State}

theorem Tab.getD_put_other {α : Type} [DecidableEq α] {t : Tab α} (h : Tab.wf t = true) {k j : Nat} (hk : k ≠ j) (d e v : α) :
    Tab.getD (Tab.put d t k v) j e = Tab.getD t j e := by
  unfold Tab.put Tab.getD
  split
  · rw [Tab.get?_erase t k j h, if_neg hk]
  · rw [Tab.get?_insert t k j v h, if_neg hk]

theorem State.putCfg_wf (h : Tab.wf s.cfg = true) (r : Reg) (v : Word) : Tab.wf (s.putCfg r v).cfg = true := Tab.wf_put h _ _ _

theorem State.putCfg_rawReg (h : Tab.wf s.cfg = true) (r : Reg) (v : Word) : rawReg (s.putCfg r v) r = v &&& r.row.rw := by
  unfold rawReg State.putCfg
  rw [Tab.getD_put _ _ _ _ _ h, if_pos rfl]

theorem State.putCfg_rawReg_other (h : Tab.wf s.cfg = true) {r q : Reg} (hq : r.addr ≠ q.addr) (v : Word) :
    rawReg (s.putCfg r v) q = rawReg s q := Tab.getD_put_other h hq _ _ _

/-- Registers written each with a value of its own. -/
theorem State.putCfg_foldl {f : Reg → Word} {q : Reg} {l : List Reg} (hl : ∀ r ∈ l, r.addr = q.addr → r = q)
    (h : Tab.wf s.cfg = true) :
    Tab.wf (l.foldl (fun (u : State) r => u.putCfg r (f r)) s).cfg = true
      ∧ rawReg (l.foldl (fun (u : State) r => u.putCfg r (f r)) s) q = if q ∈ l then f q &&& q.row.rw else rawReg s q := by
  induction l generalizing s with
  | nil => exact ⟨h, (if_neg List.not_mem_nil).symm⟩
  | cons r l ih =>
    obtain ⟨h1, h2⟩ := ih (fun x hx => hl x (List.mem_cons_of_mem _ hx)) (s.putCfg_wf h r (f r))
    refine ⟨h1, h2.trans ?_⟩
    by_cases hr : r.addr = q.addr
    · have hrq := hl r List.mem_cons_self hr
      subst hrq
      rw [if_pos List.mem_cons_self, State.putCfg_rawReg h, ite_self]
    · rw [State.putCfg_rawReg_other h hr]
      have hne : q ≠ r := fun k => hr (congrArg Reg.addr k.symm)
      simp [hne]

/-- A register written by its address. -/
def State.putAt (s : State) (a : Nat) (v : Word) : State :=
  match regAt a with
  | some r => s.putCfg r v
  | none => s

theorem State.putAt_wf (h : Tab.wf s.cfg = true) (a : Nat) (v : Word) : Tab.wf (s.putAt a v).cfg = true := by
  unfold State.putAt
  split
  · exact s.putCfg_wf h _ v
  · exact h

/-- The Saggar registers lie outside the registers that an image covers. -/
theorem State.putAt_rawReg (h : Tab.wf s.cfg = true) {a : Nat} (ha : (regAt a).map Reg.addr = some a) (h0 : 0xF00000 ≤ a) {q : Reg}
    (hq : q ∈ cfgRegs) (v : Word) : rawReg (s.putAt a v) q = rawReg s q := by
  unfold State.putAt
  split
  · next r hr =>
    rw [hr] at ha
    have hra : r.addr = a := Option.some.inj ha
    have := (regAt_of_mem_cfgRegs hq).2
    exact State.putCfg_rawReg_other h (by omega) v
  · rfl

theorem State.putAt_only (a : Nat) (v : Word) : Only [.cfg] s (s.putAt a v) := by
  unfold State.putAt
  split
  · exact s.putCfg_only _ v
  · exact Only.refl _ s

/-! ## The content of a configuration image -/

/-- The value that an image gives the register at an address, as written. -/
def ImageParts.word (x : ImageParts) (a : Nat) : Word :=
  ((x.regs.find? (fun e => e.1 == a)).map Prod.snd).getD 0 ||| ((x.held.find? (fun e => e.1 == a)).map Prod.snd).getD 0

/-- The cooling tables that an image brings. -/
def ImageParts.tables (x : ImageParts) : List CoolTable :=
  (List.range 8).map (fun c => (((x.soft ++ x.hard).find? (fun e => e.1 == c)).map Prod.snd).getD {})

/-- The registers of an image put in place. -/
def State.imageRegs (s : State) (x : ImageParts) : State :=
  ((cfgRegs.foldl (fun (u : State) r => u.putCfg r (x.word r.addr)) ((s.pwSettle.putAt 0xF00010 x.safety0).putAt 0xF00014 x.safety1)).putAt
    0xF00000 x.sgCfg).putAt 0xF00004 x.sgWdog

/-- The stores and the tables of an image put in place. -/
def State.withStores (s : State) (x : ImageParts) : State := { s with
  kiln := { s.kiln with store := storeOf x.store, sgStore := storeOf x.sgStore }
  fault := { s.fault with tables := x.tables } }

theorem State.imageContent_eq (s : State) (x : ImageParts) : s.imageContent x = (s.imageRegs x).withStores x := by
  unfold State.imageContent State.imageRegs State.imageSafety State.putAt ImageParts.word
  dsimp only
  generalize cfgRegs = l
  generalize regAt 0xF00010 = a, regAt 0xF00014 = b, regAt 0xF00000 = d, regAt 0xF00004 = e
  rfl

theorem State.imageRegs_only (x : ImageParts) : Only [.irq, .pwm, .cfg] s (s.imageRegs x) := by
  have hf (u : State) : Only [.cfg] u (cfgRegs.foldl (fun (u : State) r => u.putCfg r (x.word r.addr)) u) :=
    Only.foldl cfgRegs (Only.refl _ u) (fun v r hv => hv.trans (v.putCfg_only r _))
  have hc : Only [.cfg] s.pwSettle (s.imageRegs x) :=
    ((State.putAt_only _ _).trans (State.putAt_only _ _)).trans ((hf _).trans ((State.putAt_only _ _).trans (State.putAt_only _ _)))
  exact (s.pwSettle_only.mono (by decide)).trans (hc.mono (by decide))

/-- Every register that an image covers holds what the image says. -/
theorem State.imageRegs_rawReg (h : Tab.wf s.cfg = true) (x : ImageParts) {q : Reg} (hq : q ∈ cfgRegs) :
    rawReg (s.imageRegs x) q = x.word q.addr &&& q.row.rw := by
  have hs : Tab.wf s.pwSettle.cfg = true := by
    rw [s.pwSettle_only.cfg_eq]
    exact h
  obtain ⟨hw, hr⟩ := State.putCfg_foldl (f := fun r => x.word r.addr) (q := q) (l := cfgRegs)
    (fun r hr k => Option.some.inj ((regAt_of_mem_cfgRegs hr).1.symm.trans (k ▸ (regAt_of_mem_cfgRegs hq).1)))
    (State.putAt_wf (State.putAt_wf hs 0xF00010 x.safety0) 0xF00014 x.safety1)
  unfold State.imageRegs
  rw [State.putAt_rawReg (State.putAt_wf hw _ _) (by decide +kernel) (by decide) hq,
    State.putAt_rawReg hw (by decide +kernel) (by decide) hq, hr, if_pos hq]

/-- The reading of a store made from a list of steps. -/
theorem storeOf_getD (l : List Step64) (i : Nat) : Tab.getD (storeOf l) i 0 = l.getD i 0 := by
  have he : storeOf l = ((List.range l.length).map (fun i => (i, l.getD i 0))).filter (fun e => e.2 != 0) := by
    unfold storeOf
    congr 1
    apply List.ext_getElem
    · simp
    · intro i h1 h2
      simp at h1 ⊢
      rw [List.getElem?_eq_getElem h1]
      rfl
  rw [he, Tab.getD_filter_map List.nodup_range]
  split
  · rfl
  · next h =>
    rw [List.mem_range, Nat.not_lt] at h
    rw [List.getD_eq_default _ _ h]

/-- An image that passes its checks brings each table once. -/
theorem tables_of_ok {x : ImageParts} (h : tablesOk x = true) {n : Nat} (hn : n < 8) :
    some (nth x.tables n {}) = ((x.soft ++ x.hard).find? (fun e => e.1 == n)).map Prod.snd := by
  have hone : ((x.soft ++ x.hard).filter (fun e => e.1 == n)).length = 1 := by
    simp only [tablesOk, Bool.and_eq_true] at h
    simpa using List.all_eq_true.1 h.1.1.1.1.1.1.1.2 n (List.mem_range.2 hn)
  obtain ⟨e, he⟩ : ∃ e, (x.soft ++ x.hard).find? (fun e => e.1 == n) = some e := by
    rw [← Option.isSome_iff_exists, List.find?_isSome]
    obtain ⟨e, he⟩ := List.length_eq_one_iff.1 hone
    have hm : e ∈ (x.soft ++ x.hard).filter (fun e => e.1 == n) := he ▸ List.mem_singleton.2 rfl
    exact ⟨e, List.mem_filter.1 hm⟩
  unfold nth ImageParts.tables
  rw [List.getElem?_map, List.getElem?_range hn]
  simp only [Option.map_some, Option.getD_some, he]

end

/-! ## A collection has no part in what an image brings -/

section
variable (s : State) (im : Option ImageLoad)

theorem State.setImage_putAt (a : Nat) (v : Word) : (s.setImage im).putAt a v = (s.putAt a v).setImage im := by
  unfold State.putAt
  split <;> rfl

theorem State.setImage_pwSettle : (s.setImage im).pwSettle = s.pwSettle.setImage im := by
  have hd (u : State) : (u.setImage im).loadDone = u.loadDone.setImage im := by
    unfold State.loadDone
    have hc : ((u.setImage im).pwm.loadAll && (u.setImage im).pwm.chs.all (fun h => !h.due))
      = (u.pwm.loadAll && u.pwm.chs.all (fun h => !h.due)) := rfl
    rw [hc]
    split <;> rfl
  have ht (u : State) (c : Nat) :
      (if ((u.setImage im).ch c).due && !(u.setImage im).pwRuns c then (u.setImage im).transfer c else u.setImage im)
      = (if (u.ch c).due && !u.pwRuns c then u.transfer c else u).setImage im := by
    have hc : (((u.setImage im).ch c).due && !(u.setImage im).pwRuns c) = ((u.ch c).due && !u.pwRuns c) := rfl
    rw [hc]
    split <;> rfl
  unfold State.pwSettle
  have hc : ((s.setImage im).pwm.loadAll && decide ((s.setImage im).pwm.loadTick < (s.setImage im).clk.now))
    = (s.pwm.loadAll && decide (s.pwm.loadTick < s.clk.now)) := rfl
  rw [hc]
  split
  · rw [List.foldl_hom (State.setImage · im) ht, hd]
  · rfl

theorem State.setImage_imageRegs (x : ImageParts) : (s.setImage im).imageRegs x = (s.imageRegs x).setImage im := by
  unfold State.imageRegs
  rw [State.setImage_pwSettle, State.setImage_putAt, State.setImage_putAt,
    List.foldl_hom (State.setImage · im) (g₁ := fun (u : State) r => u.putCfg r (x.word r.addr)) (fun u r => by rfl),
    State.setImage_putAt, State.setImage_putAt]

theorem State.setImage_imageContent (x : ImageParts) : (s.setImage im).imageContent x = (s.imageContent x).setImage im := by
  have hw (u : State) : (u.setImage im).withStores x = (u.withStores x).setImage im := rfl
  rw [State.imageContent_eq, State.setImage_imageRegs, State.imageContent_eq, hw]

theorem State.setImage_imageNow : (s.setImage im).imageNow = s.imageNow :=
  Only.imageNow_eq (ps := [.port]) (Only.refl _ s).mk_upd

theorem State.setImage_imageOk (x : ImageParts) : (s.setImage im).imageOk x = s.imageOk x := by
  have hs : (s.setImage im).imageSafety x = (s.imageSafety x).setImage im := by
    have h := State.setImage_putAt (s.putAt 0xF00010 x.safety0) im 0xF00014 x.safety1
    rw [← s.setImage_putAt im 0xF00010 x.safety0] at h
    exact h
  have hc (u : State) : (u.setImage im).coversOk x = u.coversOk x := by
    have ho : Only [.port] u (u.setImage im) := (Only.refl _ u).mk_upd
    unfold State.coversOk State.openRegs State.heldRegs
    simp only [ho.heldMask_eq]
  have hv (u : State) : (u.setImage im).valuesOk = u.valuesOk := by
    unfold State.valuesOk
    rfl
  unfold State.imageOk
  dsimp only
  rw [State.setImage_imageContent, hs, hc, hv]

end

end Sys2Proof.Machine
end

section
/-! SUPPORT. The reset that follows an image (O41). -/

set_option Elab.async false

namespace Sys2Proof.Machine

/-! ## The reset that follows an image (R276) -/

section
variable {s t u : State} {c : Cmd}

/-- What `loaded` says of each part. -/
theorem State.loaded_iff : t.loaded = s.loaded ↔ t.cfg = s.cfg ∧ t.kiln.store = s.kiln.store ∧ t.kiln.sgStore = s.kiln.sgStore
    ∧ t.fault.tables = s.fault.tables ∧ t.mg.cal = s.mg.cal ∧ t.port.image = s.port.image := by
  simp [State.loaded]

theorem State.deviceReset_image (cause : Nat) (bits : BitVec 5) : (s.deviceReset cause bits).pm.failCode = 0
    ∧ (s.deviceReset cause bits).pm.imageReset = none ∧ (s.deviceReset cause bits).kiln.sgStore = s.kiln.sgStore
    ∧ (s.deviceReset cause bits).fault.tables = s.fault.tables := by
  have hc : Only [.log, .irq, .port] s s.finishShard.dropWork :=
    (s.finishShard_only.mono (by decide)).trans (s.finishShard.dropWork_only.mono (by decide))
  have hr (v : State) (b : Bool) (l : Log) : (if b then { v.afterReset with log := l } else v.afterReset).pm.failCode = 0
      ∧ (if b then { v.afterReset with log := l } else v.afterReset).pm.imageReset = none
      ∧ (if b then { v.afterReset with log := l } else v.afterReset).kiln.sgStore = v.kiln.sgStore
      ∧ (if b then { v.afterReset with log := l } else v.afterReset).fault.tables = v.fault.tables := by
    cases b <;> exact ⟨rfl, rfl, rfl, rfl⟩
  unfold State.deviceReset
  dsimp only
  generalize s.finishShard.dropWork = u at hc ⊢
  obtain ⟨h1, h2, h3, h4⟩ :=
    hr { u with pm := { u.pm with lastCause := BitVec.ofNat 8 cause, resetCause := u.pm.resetCause ||| bits } } u.pm.committing s.log
  exact ⟨h1, h2, h3.trans (congrArg Kiln.sgStore hc.kiln_eq), h4.trans (congrArg FaultBlk.tables hc.fault_eq)⟩

/-- Of the power mode, only the reset that follows an image may differ. -/
def ImageResetOnly (s t : State) : Prop := t.pm = { s.pm with imageReset := t.pm.imageReset }

theorem ImageResetOnly.of_pm (h : t.pm = s.pm) : ImageResetOnly s t := by
  unfold ImageResetOnly
  rw [h]

theorem ImageResetOnly.trans (h : ImageResetOnly s u) (k : ImageResetOnly u t) : ImageResetOnly s t := by
  unfold ImageResetOnly at *
  rw [k, h]

/-- A reply to another opcode than RESET moves no reset but the one after an image. -/
theorem State.replyOut_imageReset {r : Reply} (h : r.bytes.getD 4 0 ≠ 0x45) : ImageResetOnly s (s.replyOut r)
    ∧ (r.reset = true → (s.replyOut r).pm.imageReset = s.pm.imageReset.map (fun _ => s.clk.now + msTicks)) := by
  unfold State.replyOut
  cases hr : r.reset with
  | false => exact ⟨.of_pm rfl, fun k => absurd k (by decide)⟩
  | true =>
    rw [if_neg (by decide), if_neg h]
    exact ⟨rfl, fun _ => rfl⟩

theorem State.replyTo_op_ne (h : c.op ≠ 0x45) (status : Nat) (payload : List Byte) : (s.replyTo c status payload).getD 4 0 ≠ 0x45 := by
  rw [State.replyTo_op, BitVec.ofNat_toNat, BitVec.setWidth_eq]
  exact h

theorem State.post_imageReset {r : Reply} (h : r.bytes.getD 4 0 ≠ 0x45) : ImageResetOnly s (s.post r) := by
  have hd : (s.unlisted r).pm = s.pm := (s.unlisted_only r).pm_eq
  rw [State.post_eq]
  split
  · exact (ImageResetOnly.of_pm (((State.sendFrame_only _ _ _).pm_eq).trans hd)).trans (State.replyOut_imageReset h).1
  · split
    · exact (ImageResetOnly.of_pm hd).trans (State.replyOut_imageReset h).1
    · exact .of_pm rfl

theorem State.answer_imageReset (h : c.op ≠ 0x45) (status : Nat) (payload : List Byte) : ImageResetOnly s (s.answer c status payload) := by
  unfold State.answer
  dsimp only
  split
  · exact .of_pm rfl
  · refine (ImageResetOnly.of_pm (s.setCmd_only _).pm_eq).trans (State.post_imageReset (State.replyTo_op_ne h status payload))

theorem State.finish_imageReset (h : c.op ≠ 0x45) (status : Nat) (payload : List Byte) : ImageResetOnly s (s.finish c status payload) := by
  have hd : ImageResetOnly s (s.decided c status) := .of_pm (s.decided_only c status).pm_eq
  have hn : ImageResetOnly s ((s.decided c status).noteBroadcast c status) := hd.trans (.of_pm (State.noteBroadcast_only _ _ _).pm_eq)
  rw [State.finish_eq]
  split
  · split
    · exact hn.trans (.of_pm (State.dropCmd_only _ _ _).pm_eq)
    · split
      · exact hn.trans (State.answer_imageReset h _ _)
      · split
        · exact hn.trans (.of_pm (State.setCmd_only _ _).pm_eq)
        · exact hn.trans (State.answer_imageReset h _ _)
  · exact hd.trans (State.answer_imageReset h _ _)

/-- A reply of IMAGE_LOAD that is queued at once starts the 1 ms to the reset. -/
theorem State.ok_imageReset_queued {due : Nat} (h : c.op = 0xC9) (hi : s.pm.imageReset = some due) (hb : c.bcast = false)
    (hs : c.signReply = false) (hg : s.port.signing = []) (hw : s.port.waiting = []) {payload : List Byte} (hp : payload ≠ [])
    (hf : c.ring = true ∨ s.port.fits (s.replyTo c 0 payload).length = true) :
    (s.ok c payload).pm.imageReset = some (s.clk.now + msTicks) := by
  obtain ⟨a, b, d, e, f, hpd⟩ := s.decided_port c 0
  have hdo := s.decided_only c 0
  have hr : resets c.op 0 payload = true := by
    cases payload with
    | nil => exact absurd rfl hp
    | cons => rw [h]; rfl
  let r : Reply := (s.decided c 0).replyFor c 0 payload
  let v : State := (s.decided c 0).setCmd { c with phase := .replying }
  have hop : r.bytes.getD 4 0 ≠ 0x45 := State.replyTo_op_ne (by rw [h]; decide) 0 payload
  have he : s.ok c payload = v.post r := by
    show s.finish c 0 payload = _
    rw [State.finish_eq, if_neg (by rw [hb]; decide)]
    unfold State.answer
    dsimp only
    rw [if_neg (by rw [hs, hpd, hg]; decide)]
    rfl
  have hvo : Only [.irq, .log, .port] s v := hdo.trans ((State.setCmd_only _ _).mono (by decide))
  have hv : v.pm.imageReset = some due := by rw [hvo.pm_eq]; exact hi
  have hn : v.clk.now = s.clk.now := by rw [hvo.clk_eq]
  have hu : (v.unlisted r).pm = v.pm ∧ (v.unlisted r).clk = v.clk := ⟨(v.unlisted_only r).pm_eq, (v.unlisted_only r).clk_eq⟩
  have hall (w : State) (h1 : w.pm = v.pm) (h2 : w.clk = v.clk) : (w.replyOut r).pm.imageReset = some (s.clk.now + msTicks) := by
    rw [(State.replyOut_imageReset hop).2 hr, h1, h2, hv, hn]
    rfl
  rw [he, State.post_eq]
  by_cases hring : r.ring = true
  · rw [if_pos hring]
    exact hall _ (((State.sendFrame_only _ _ _).pm_eq).trans hu.1) (((State.sendFrame_only _ _ _).clk_eq).trans hu.2)
  · have hfit : s.port.fits r.bytes.length = true := by
      show s.port.fits ((s.decided c 0).replyTo c 0 payload).length = true
      rw [s.decided_replyTo]
      exact hf.resolve_left hring
    have hvp : v.port.replies = s.port.replies ∧ v.port.spiTags = s.port.spiTags ∧ v.port.waiting = [] := by
      refine ⟨?_, ?_, ?_⟩
      · show (s.decided c 0).port.replies = _
        rw [hpd]
      · show ((s.decided c 0).setCmd _).port.spiTags = _
        rw [State.setCmd_spiTags, hpd]
        rfl
      · show (s.decided c 0).port.waiting = _
        rw [hpd]
        exact hw
    obtain ⟨hv1, hv2, hv3⟩ := hvp
    have hue : v.unlisted r = v.dropCmd r.ring r.tag := rfl
    have hfu : (v.dropCmd r.ring r.tag).port.fits r.bytes.length = true :=
      Port.fits_of_fewer (p := s.port) (q := (v.dropCmd r.ring r.tag).port) hv1 ((v.dropCmd_spiTags _ _).trans (le_of_eq hv2)) hfit
    rw [if_neg hring, if_pos (by rw [hv3, hue, hfu]; rfl)]
    exact hall _ hu.1 hu.2

/-- A reply of IMAGE_LOAD that waits for its signature leaves the reset unsaid. -/
theorem State.ok_imageReset_unsaid (h : c.op = 0xC9) (hb : c.bcast = false) (hs : c.signReply = true) {payload : List Byte}
    (hp : payload ≠ []) : (s.ok c payload).pm = s.pm ∧ (s.ok c payload).resetUnsaid = true := by
  have hr : resets c.op 0 payload = true := by
    cases payload with
    | nil => exact absurd rfl hp
    | cons => rw [h]; rfl
  have he : s.ok c payload = { (s.decided c 0).setCmd { c with phase := .replying } with
      port := { ((s.decided c 0).setCmd { c with phase := .replying }).port with
        signing := ((s.decided c 0).setCmd { c with phase := .replying }).port.signing ++ [⟨c, 0, payload⟩] } } := by
    show s.finish c 0 payload = _
    rw [State.finish_eq, if_neg (by rw [hb]; decide)]
    unfold State.answer
    dsimp only
    rw [if_pos (by rw [hs]; rfl)]
    rfl
  rw [he]
  refine ⟨(s.decided_only c 0).pm_eq, ?_⟩
  unfold State.resetUnsaid
  rw [Bool.or_eq_true, List.any_eq_true]
  exact .inl ⟨⟨c, 0, payload⟩, List.mem_append_right _ (List.mem_singleton.2 rfl), hr⟩

end

end Sys2Proof.Machine
end

section
/-! SUPPORT. IMAGE_LOAD and what it puts in force (O41). -/

set_option Elab.async false

namespace Sys2Proof.Machine

/-! ## IMAGE_LOAD (R276) -/

section
variable {s t u : State} {c : Cmd} {k : Confirm} {x : ImageParts}

theorem SameReply.setImage (s : State) (im : Option ImageLoad) : SameReply s (s.setImage im) := ⟨rfl, rfl, rfl, rfl, rfl, rfl⟩

theorem State.refuse_image (s : State) (c : Cmd) (status : Nat) : (s.refuse c status).port.image = s.port.image :=
  (State.loaded_iff.1 (s.finish_loaded c status [])).2.2.2.2.2

theorem Runs.image_op (h : Runs 0xC9 c s) : c.op = 0xC9 := BitVec.eq_of_toNat_eq h.op_eq

/-- A refused part. -/
theorem State.refuse40_collection (h : Runs 0xC9 c s) (im : Option ImageLoad) : Answered c 0x40 [] s ((s.setImage im).refuse c 0x40)
    ∧ ((s.setImage im).refuse c 0x40).port.image = im ∧ Only [.port, .irq, .ring] s ((s.setImage im).refuse c 0x40) := by
  obtain ⟨h1, h2⟩ := State.refuse40_image (s := s.setImage im) h.op_eq
  exact ⟨h1.of_same (.setImage s im), State.refuse_image _ c 0x40, ((s.setImage_only im).mono (by decide)).trans h2⟩

/-- A part that the collection takes. -/
theorem State.ok_collection (h : Runs 0xC9 c s) (im : Option ImageLoad) : Answered c 0 [] s ((s.setImage im).ok c [])
    ∧ ((s.setImage im).ok c []).port.image = im ∧ Only [.port, .irq, .ring] s ((s.setImage im).ok c []) := by
  have hr : resets c.op 0 [] = false := by rw [h.image_op]; rfl
  obtain ⟨h2, -⟩ := State.finish_only_still (s := s.setImage im) (status := 0) hr (fun _ => by rw [h.image_op]; decide)
    (by unfold Uncounted; omega)
  exact ⟨((s.setImage im).ok_answered c []).of_same (.setImage s im), (State.loaded_iff.1 (State.finish_loaded _ c 0 [])).2.2.2.2.2,
    ((s.setImage_only im).mono (by decide)).trans h2⟩

/-- What IMAGE_LOAD does with a part that the collection takes, where its state allows it. -/
theorem Answers.imageLoad {P : State → Prop} {im : ImageLoad} (h : Runs 0xC9 c s) (hb : c.boot = false)
    (hs : s.pm.state = .ready ∨ s.failedStart = true)
    (ht : ImageLoad.take s.port.image c.payload (s.clk.now + secondTicks) = some im)
    (hp : P (if 20971520 < im.bytes.length then (s.setImage none).refuse c 0x40
      else if im.next < im.parts then (s.setImage (some im)).ok c []
      else (s.setImage none).imageEnd c im.bytes k)) : Answers (.imageLoad k) s P := by
  refine Answers.of_runs3 rfl h hb ?_
  rw [if_neg (fun hn => hs.elim hn.1 (fun hf => by rw [hf] at hn; exact absurd hn.2 (by decide))), ht]
  exact hp

/-- A part that the collection does not take, or one in a state that takes none, is refused. -/
theorem Answers.imageLoad_refused (h : Runs 0xC9 c s) (hb : c.boot = false)
    (hs : s.pm.state ≠ .ready ∧ s.failedStart = false
      ∨ ImageLoad.take s.port.image c.payload (s.clk.now + secondTicks) = none) :
    Answers (.imageLoad k) s fun t => Answered c 0x40 [] s t ∧ t.port.image = s.port.image ∧ Only [.port, .irq, .ring] s t := by
  refine Answers.of_runs3 rfl h hb ?_
  have hr := State.refuse40_collection h s.port.image
  split
  · exact hr
  · next hn =>
    rw [hs.resolve_left hn]
    exact hr

theorem take_first {im : Option ImageLoad} {p : List Byte} (h : leAt p 0 2 = 0) (due : Nat) :
    ImageLoad.take im p due = some { parts := leAt p 2 2, next := 1, bytes := p.drop 8, due := due } := by
  unfold ImageLoad.take
  rw [if_pos h]

theorem take_next {y : ImageLoad} {p : List Byte} (h0 : 0 < y.next) (h1 : leAt p 0 2 = y.next) (h2 : leAt p 2 2 = y.parts) (due : Nat) :
    ImageLoad.take (some y) p due = some { y with next := y.next + 1, bytes := y.bytes ++ p.drop 8, due := due } := by
  unfold ImageLoad.take
  rw [if_neg (by omega)]
  dsimp only
  rw [if_pos ⟨h1.symm, h2.symm⟩, h1]

theorem take_astray {im : Option ImageLoad} {p : List Byte} (h0 : leAt p 0 2 ≠ 0)
    (h : ∀ y, im = some y → y.next ≠ leAt p 0 2 ∨ y.parts ≠ leAt p 2 2) (due : Nat) : ImageLoad.take im p due = none := by
  unfold ImageLoad.take
  rw [if_neg h0]
  cases im with
  | none => rfl
  | some y =>
    dsimp only
    rw [if_neg (fun hn => (h y rfl).elim (fun a => a hn.1) (fun a => a hn.2))]

/-- The last part, or the only one, ends the collection. -/
theorem take_last {bytes : List Byte} (h : LastPart bytes c s) (due : Nat) : ∃ im, ImageLoad.take s.port.image c.payload due = some im
    ∧ im.bytes = bytes ∧ im.parts ≤ im.next := by
  rcases h with ⟨h0, h1, h2⟩ | ⟨y, hy, h1, h2, h3, h4, h5⟩
  · exact ⟨_, take_first h0 due, h2.symm, by rw [h1]⟩
  · rw [Option.mem_def.1 hy]
    exact ⟨_, take_next h3 h1 h2 due, h5.symm, le_of_eq h4.symm⟩

/-! ### The image that has arrived -/

theorem State.imageEnd_refused {bytes : List Byte} (h : ∀ x, parseImage bytes = some x → s.imageOk x = false) :
    s.imageEnd c bytes k = s.refuse c 0x40 := by
  unfold State.imageEnd
  split
  · rfl
  · split
    · next x hx => rw [if_neg (by rw [h x hx]; decide)]
    · rfl

theorem State.imageEnd_judged {bytes : List Byte} (hx : parseImage bytes = some x) (ho : s.imageOk x = true)
    (h9 : ¬ (s.pm.state = .starting ∧ s.pm.failCode = 9)) :
    s.imageEnd c bytes k = s.confirmed c (s.imageContent x != s) k (s.imageInForce c x) := by
  unfold State.imageEnd
  rw [if_neg h9, hx]
  dsimp only
  rw [if_pos ho]

/-- An image in force, with its shard. -/
def State.imagePut (s : State) (c : Cmd) (x : ImageParts) : State := ((s.imageContent x).newImage).imageShard s c 0xFFFF

theorem State.imagePut_only (s : State) (c : Cmd) (x : ImageParts) : Only [.sec, .log] (s.imageContent x) (s.imagePut c x) :=
  ((s.imageContent x).newImage_only_sec.mono (by decide)).trans ((State.capture_only _ _ _ _).mono (by decide))

theorem State.imagePut_sec (s : State) (c : Cmd) (x : ImageParts) : (s.imagePut c x).sec = (s.imageContent x).newImage.sec := rfl

/-- The state that an image is answered in after a start-up failure: a reset is to follow. -/
def State.resetFollows (s : State) : State := { s with pm := { s.pm with imageReset := some s.clk.now } }

theorem State.resetFollows_only (s : State) : Only [.pm] s s.resetFollows := (Only.refl _ s).mk_upd

theorem State.imageInForce_eq (s : State) (c : Cmd) (x : ImageParts) : s.imageInForce c x =
    if s.pm.state = .ready then
      ((s.imagePut c x).ok c (digestBytes (s.imageContent x).imageNow)).writesFollow ((s.imageContent x).newImage.imageWritten s)
    else (s.imagePut c x).resetFollows.ok c (digestBytes (s.imageContent x).imageNow) := by
  have hr (u : State) : u.newImage.imageReply = digestBytes u.imageNow := rfl
  have hc (u : State) : u.newImage.clk = (u.newImage.imageShard s c 0xFFFF).clk := rfl
  unfold State.imageInForce State.imagePut State.resetFollows
  dsimp only
  rw [hr, hc]

theorem State.ok_loaded (s : State) (c : Cmd) (payload : List Byte) : (s.ok c payload).loaded = s.loaded := s.finish_loaded c 0 payload

theorem State.resetFollows_loaded (s : State) : s.resetFollows.loaded = s.loaded := rfl

theorem State.imageInForce_loaded (s : State) (c : Cmd) (x : ImageParts) : (s.imageInForce c x).loaded = (s.imageContent x).loaded := by
  have hp : (s.imagePut c x).loaded = (s.imageContent x).loaded := (s.imagePut_only c x).loaded_eq
  rw [State.imageInForce_eq]
  split
  · rw [State.writesFollow_loaded, State.ok_loaded, hp]
  · rw [State.ok_loaded, State.resetFollows_loaded, hp]

theorem State.imageContent_image (s : State) (x : ImageParts) : (s.imageContent x).port.image = s.port.image := by
  rw [(s.imageContent_only x).port_eq]

theorem State.imageEnd_image (s : State) (c : Cmd) (bytes : List Byte) (k : Confirm) :
    (s.imageEnd c bytes k).port.image = s.port.image := by
  have hf : (s.confirmFails c).port.image = s.port.image := State.refuse_image _ c 0x7F
  have hi (x : ImageParts) : (s.imageInForce c x).port.image = s.port.image :=
    (State.loaded_iff.1 (s.imageInForce_loaded c x)).2.2.2.2.2.trans (s.imageContent_image x)
  unfold State.imageEnd State.confirmed
  split
  · exact s.refuse_image c 0x40
  · split
    · next x hx =>
      split
      · split
        · exact hf
        · exact hi x
      · exact s.refuse_image c 0x40
    · exact s.refuse_image c 0x40

/-! ### In Ready -/

/-- The partition is made from the registers, the Saggar store, the tables and the keys alone. -/
theorem State.partition_of_loaded (h : t.loaded = s.loaded) (hs : t.sec = s.sec) (hl : t.sgLoaded = s.sgLoaded) :
    t.partition = s.partition := by
  obtain ⟨hc, -, hg, ht, -⟩ := State.loaded_iff.1 h
  have hraw : t.rawAt = s.rawAt := by
    funext a
    unfold State.rawAt rawReg
    rw [hc]
  have hsafe : t.isSafety = s.isSafety := by
    funext n
    unfold State.isSafety State.safety
    rw [hraw, hl]
  have hmask (r : Reg) : heldMask t r = heldMask s r := by
    unfold heldMask
    rw [hsafe]
  have hwords : t.heldWords = s.heldWords := by
    unfold State.heldWords
    simp only [hc, hmask]
  have htable : t.isHTable = s.isHTable := by
    funext n
    unfold State.isHTable
    rw [ht]
  simp only [State.partition, hwords, htable, hs, hg, ht]

theorem State.imageContent_sec (s : State) (x : ImageParts) : (s.imageContent x).sec = s.sec := (s.imageContent_only x).sec_eq

/-- An image in force in Ready (R211, R276). -/
theorem State.imageInForce_ready (hs : s.pm.state = .ready) (c : Cmd) (x : ImageParts) :
    PartitionPut { s.sec with imageDigest := (s.imageContent x).imageNow } (s.imageInForce c x) := by
  let u : State := (s.imageContent x).newImage
  let t : State := s.imageInForce c x
  have hput : PartitionPut { s.sec with imageDigest := (s.imageContent x).imageNow } u := by
    have h := (s.imageContent x).newImage_put
    rw [s.imageContent_sec x] at h
    exact h
  have ho : Only [.clk, .pm, .out, .ctl, .sense, .kiln, .walk, .fault, .irq, .mg, .log, .cfg, .port, .ring, .twin, .tw, .twEnded, .pwm,
      .free] (s.imagePut c x) t := by
    have he : t = _ := s.imageInForce_eq c x
    rw [he, if_pos hs]
    exact ((State.ok_only _ c _).mono (by decide)).trans (State.writesFollow_only _ _)
  have hsec : t.sec = u.sec := ho.sec_eq.trans (s.imagePut_sec c x)
  have hl : t.sgLoaded = u.sgLoaded :=
    ho.sgLoaded_eq.trans ((s.imagePut_only c x).sgLoaded_eq.trans (s.imageContent x).newImage_only_sec.sgLoaded_eq.symm)
  have hload : t.loaded = u.loaded :=
    (s.imageInForce_loaded c x).trans (Only.loaded_eq (s.imageContent x).newImage_only_sec).symm
  show PartitionPut _ t
  unfold PartitionPut at hput ⊢
  rw [hsec, State.partition_of_loaded hload hsec hl]
  exact hput

theorem State.tablesOk_cfg (h : s.tablesOk = true) : Tab.wf s.cfg = true := by
  simp only [State.tablesOk, Bool.and_eq_true] at h
  tauto

/-- What an image leaves in the registers, the stores and the tables. -/
theorem State.imageContent_holds (ht : s.tablesOk = true) (hx : Machine.tablesOk x = true) (h : t.loaded = (s.imageContent x).loaded) :
    (∀ r ∈ cfgRegs, rawReg t r = (((x.regs.find? (fun e => e.1 == r.addr)).map Prod.snd).getD 0
        ||| ((x.held.find? (fun e => e.1 == r.addr)).map Prod.snd).getD 0) &&& r.row.rw)
      ∧ (∀ i, Tab.getD t.kiln.store i 0 = x.store.getD i 0) ∧ (∀ i, Tab.getD t.kiln.sgStore i 0 = x.sgStore.getD i 0)
      ∧ (∀ n < 8, some (nth t.fault.tables n {}) = ((x.soft ++ x.hard).find? (fun e => e.1 == n)).map Prod.snd) ∧ t.mg.cal = s.mg.cal := by
  obtain ⟨hc, hk, hg, hf, hm, -⟩ := State.loaded_iff.1 h
  rw [State.imageContent_eq] at hc hk hg hf
  have hw : Tab.wf s.cfg = true := s.tablesOk_cfg ht
  refine ⟨fun r hr => ?_, fun i => ?_, fun i => ?_, fun n hn => ?_, hm.trans (by rw [(s.imageContent_only x).mg_eq])⟩
  · have hr' : rawReg t r = rawReg (s.imageRegs x) r := by
      unfold rawReg
      rw [hc]
      rfl
    exact hr'.trans (State.imageRegs_rawReg hw x hr)
  · rw [hk]
    exact storeOf_getD x.store i
  · rw [hg]
    exact storeOf_getD x.sgStore i
  · rw [hf]
    exact tables_of_ok hx hn

/-! ### After a start-up failure -/

theorem digestBytes_ne_nil (d : Digest) : digestBytes d ≠ [] := List.cons_ne_nil _ _

/-- The reply that a reset follows (R276). -/
theorem State.resetFollows_ok (h : c.op = 0xC9) (hn : u.clk = s.clk) (hp : u.pm = s.pm) (hw : s.port.waiting = []) (hs : SameReply s u)
    {payload : List Byte} (hne : payload ≠ []) :
    Answered c 0 payload s (u.resetFollows.ok c payload) ∧ ImageResetOnly s (u.resetFollows.ok c payload)
      ∧ (c.bcast = false → c.signReply = false → s.port.signing = [] →
          (c.ring = true ∨ s.port.fits (s.replyTo c 0 payload).length = true) →
          (u.resetFollows.ok c payload).pm.imageReset = some (s.clk.now + msTicks))
      ∧ (c.bcast = false → c.signReply = true →
          (u.resetFollows.ok c payload).pm.imageReset = some s.clk.now ∧ (u.resetFollows.ok c payload).resetUnsaid = true) := by
  have hsame : SameReply s u.resetFollows := hs.trans (.of_only u.resetFollows_only)
  have hv : u.resetFollows.pm.imageReset = some s.clk.now := by
    unfold State.resetFollows
    rw [hn]
  have hpm : ImageResetOnly s u.resetFollows := by
    unfold ImageResetOnly State.resetFollows
    rw [hp]
  have hclk : u.resetFollows.clk.now = s.clk.now := congrArg Clk.now hn
  refine ⟨(u.resetFollows.ok_answered c payload).of_same hsame, hpm.trans (State.finish_imageReset (by rw [h]; decide) 0 payload),
    fun hb hr hg hf => ?_, fun hb hr => ?_⟩
  · rw [State.ok_imageReset_queued h hv hb hr (hsame.signing.trans hg) (hsame.waiting.trans hw) hne ?_, hclk]
    refine hf.imp id (fun hf => ?_)
    rw [State.replyTo_congr hsame.addr hsame.ident (.inr hr) 0 payload]
    unfold Port.fits Port.used at hf ⊢
    rw [hsame.tags, hsame.replies]
    exact hf
  · obtain ⟨h1, h2⟩ := State.ok_imageReset_unsaid (s := u.resetFollows) h hb hr hne
    exact ⟨by rw [h1]; exact hv, h2⟩

/-- An image in force after a start-up failure. -/
theorem State.imageInForce_failed (im : Option ImageLoad) (hs : s.pm.state ≠ .ready) (c : Cmd) (x : ImageParts) :
    ∃ u, (s.setImage im).imageInForce c x = u.resetFollows.ok c (digestBytes (s.imageContent x).imageNow) ∧ u.clk = s.clk ∧ u.pm = s.pm
      ∧ SameReply s u ∧ u.cfg = (s.imageContent x).cfg ∧ u.kiln = (s.imageContent x).kiln ∧ u.fault = (s.imageContent x).fault := by
  have hset (w : State) : (w.setImage im).clk = w.clk ∧ (w.setImage im).pm = w.pm ∧ (w.setImage im).cfg = w.cfg
      ∧ (w.setImage im).kiln = w.kiln ∧ (w.setImage im).fault = w.fault := ⟨rfl, rfl, rfl, rfl, rfl⟩
  have hu : Only [.sec, .log] ((s.imageContent x).setImage im) ((s.setImage im).imagePut c x) := by
    rw [← s.setImage_imageContent im x]
    exact (s.setImage im).imagePut_only c x
  have hput : Only [.kiln, .fault, .irq, .cfg, .pwm, .sec, .log] (s.setImage im) ((s.setImage im).imagePut c x) :=
    (((s.setImage im).imageContent_only x).mono (by decide)).trans (((s.setImage im).imagePut_only c x).mono (by decide))
  obtain ⟨hclk, hpm, -⟩ := hset s
  obtain ⟨-, -, hcfg, hkiln, hfault⟩ := hset (s.imageContent x)
  refine ⟨(s.setImage im).imagePut c x, ?_, hput.clk_eq.trans hclk, hput.pm_eq.trans hpm, (SameReply.setImage s im).trans (.of_only hput),
    hu.cfg_eq.trans hcfg, hu.kiln_eq.trans hkiln, hu.fault_eq.trans hfault⟩
  have hnow : ((s.setImage im).imageContent x).imageNow = (s.imageContent x).imageNow := by
    rw [State.setImage_imageContent, State.setImage_imageNow]
  rw [State.imageInForce_eq, if_neg (show (s.setImage im).pm.state ≠ .ready from hs), hnow]

end

end Sys2Proof.Machine
end

section
/-! SUPPORT. IMAGE_LOAD (O41). -/

set_option Elab.async false

namespace Sys2Proof.Machine

/-! ## The last part of an image, and the settling of its clauses -/

section
variable {s : State} {c : Cmd} {k : Confirm} {x : ImageParts} {bytes : List Byte}

/-- The device with its collection ended judges the image as it stands, and puts it in force where it is confirmed. -/
theorem State.imageEnd_confirmed (hx : parseImage bytes = some x) (ho : s.imageOk x = true)
    (h9 : ¬ (s.pm.state = .starting ∧ s.pm.failCode = 9)) (hk : s.confirms c k = true) :
    (s.setImage none).imageEnd c bytes k = (s.setImage none).imageInForce c x := by
  have hc : (s.setImage none).confirms c k = true := hk
  rw [State.imageEnd_judged hx ((s.setImage_imageOk none x).trans ho) h9, State.confirmed_passes (fun _ => hc)]

/-- An image that changes a register is refused where it is not confirmed. -/
theorem State.imageEnd_unconfirmed (hx : parseImage bytes = some x) (ho : s.imageOk x = true)
    (h9 : ¬ (s.pm.state = .starting ∧ s.pm.failCode = 9)) (hne : (s.imageContent x).cfg ≠ s.cfg) (hk : s.confirms c k = false) :
    (s.setImage none).imageEnd c bytes k = (s.setImage none).confirmFails c := by
  have hc : (s.setImage none).confirms c k = false := hk
  have hw (w : State) : (w.setImage none).cfg = w.cfg := rfl
  have hn : ((s.setImage none).imageContent x != s.setImage none) = true := by
    rw [bne_iff_ne, State.setImage_imageContent]
    intro he
    have h := congrArg State.cfg he
    rw [hw, hw] at h
    exact hne h
  rw [State.imageEnd_judged hx ((s.setImage_imageOk none x).trans ho) h9, State.confirmed_fails hn hc]

theorem State.failedStart_state (h : s.failedStart = true) : s.pm.state = .starting := by
  unfold State.failedStart at h
  exact eq_of_beq (Bool.and_eq_true_iff.1 h).1

theorem State.imageOk_tables (h : s.imageOk x = true) : Machine.tablesOk x = true := by
  unfold State.imageOk at h
  simp only [Bool.and_eq_true] at h
  exact h.1.1.1.1

/-- A confirmation that fails while the last part is judged. -/
theorem State.confirmFails_last (h : Runs 0xC9 c s) : Answered c 0x7F [] s ((s.setImage none).confirmFails c)
    ∧ ((s.setImage none).confirmFails c).sec = { s.sec with confirmFail := inc 255 s.sec.confirmFail }
    ∧ Only [.sec, .port, .irq, .ring] s ((s.setImage none).confirmFails c) := by
  let v : State := { s.setImage none with sec := { s.sec with confirmFail := inc 255 s.sec.confirmFail } }
  have hv : Only [.port, .sec] s v := (Only.refl _ s).mk_upd.mk_upd
  have hop : resets c.op 0x7F [] = false := by rw [h.image_op]; rfl
  obtain ⟨h2, -⟩ := State.finish_only_still (s := v) hop (fun _ => by rw [h.image_op]; decide) (by unfold Uncounted; omega)
  refine ⟨(v.finish_answered c (by decide) []).of_same ⟨rfl, rfl, rfl, rfl, rfl, rfl⟩, h2.sec_eq, ?_⟩
  exact (hv.mono (by decide)).trans (h2.mono (by decide))

/-- The last part in force after a start-up failure: the reply, what is in force, and the reset to follow. -/
theorem State.imageEnd_failed (h : Runs 0xC9 c s) (hs : s.pm.state ≠ .ready) (x : ImageParts) :
    Answered c 0 (digestBytes (s.imageContent x).imageNow) s ((s.setImage none).imageInForce c x)
      ∧ ((s.setImage none).imageInForce c x).cfg = (s.imageContent x).cfg
      ∧ ((s.setImage none).imageInForce c x).kiln = (s.imageContent x).kiln
      ∧ ((s.setImage none).imageInForce c x).fault = (s.imageContent x).fault
      ∧ ((s.setImage none).imageInForce c x).pm
          = { s.pm with imageReset := ((s.setImage none).imageInForce c x).pm.imageReset }
      ∧ (c.bcast = false → c.signReply = false → s.port.signing = [] →
          (c.ring = true ∨ s.port.fits (s.replyTo c 0 (digestBytes (s.imageContent x).imageNow)).length = true) →
          ((s.setImage none).imageInForce c x).pm.imageReset = some (s.clk.now + msTicks))
      ∧ (c.bcast = false → c.signReply = true → ((s.setImage none).imageInForce c x).pm.imageReset = some s.clk.now
          ∧ ((s.setImage none).imageInForce c x).resetUnsaid = true) := by
  obtain ⟨u, he, hn, hp, hr, hcfg, hkiln, hfault⟩ := s.imageInForce_failed none hs c x
  have hne := digestBytes_ne_nil (s.imageContent x).imageNow
  generalize digestBytes (s.imageContent x).imageNow = payload at he hne ⊢
  obtain ⟨h1, h2, h3, h4⟩ := State.resetFollows_ok h.image_op hn hp h.waiting hr hne
  have hok := (u.resetFollows.ok_only c payload)
  rw [he]
  exact ⟨h1, hok.cfg_eq.trans hcfg, hok.kiln_eq.trans hkiln, hok.fault_eq.trans hfault, h2, h3, h4⟩

/-- RESET_AFTER_IMAGE_LOAD, where its reset is due. -/
theorem execResetAfterImageLoad_due {due : Nat} (hd : s.pm.imageReset = some due) (hf : s.failedStart = true) (hu : s.resetUnsaid = false) :
    execResetAfterImageLoad s = .next ((s.till due).deviceReset 0x41 0) := by
  unfold execResetAfterImageLoad
  rw [hd]
  dsimp only
  rw [if_pos (by rw [hf, hu]; rfl)]

theorem execResetAfterImageLoad_idle (h : s.pm.imageReset = none ∨ s.failedStart = false ∨ s.resetUnsaid = true) :
    execResetAfterImageLoad s = .next s := by
  unfold execResetAfterImageLoad
  split
  · next due hd =>
    rw [if_neg]
    rcases h with h | h | h
    · exact absurd (h.symm.trans hd) (by simp)
    · rw [h]
      exact Bool.false_ne_true
    · rw [h, Bool.not_true, Bool.and_false]
      exact Bool.false_ne_true
  · rfl

end

/-- Settles O41: an image is collected in order, judged with its last part, and put in force or refused. -/
theorem imageLoading : Obligations.ImageLoading := by
  unfold Obligations.ImageLoading
  refine ⟨fun k c s h hb hs h0 h1 hl => ?_, fun k c x s h hb hs hx h1 h2 h3 h4 hl => ?_, fun k c s h hb h0 hn => ?_,
    fun k c s h hb hs hf => ?_, fun k c bytes s h hb hs hlast hl => ?_, fun im s hi => ?_, fun due s hd hf hu => ?_, fun s hi => ?_,
    fun s hi => ?_⟩
  · refine Answers.imageLoad h hb hs (take_first h0 _) ?_
    rw [if_neg (by simp only [List.length_drop]; omega), if_pos h1]
    exact State.ok_collection h _
  · refine Answers.imageLoad h hb hs (hx ▸ take_next h3 h1 h2 _) ?_
    rw [if_neg (by dsimp only; omega), if_pos h4]
    exact State.ok_collection h _
  · exact Answers.imageLoad_refused h hb (.inr (take_astray h0 hn _))
  · exact Answers.imageLoad_refused h hb (.inl ⟨hs, hf⟩)
  · obtain ⟨im, ht, rfl, hend⟩ := take_last hlast (s.clk.now + secondTicks)
    refine Answers.imageLoad h hb hs ht ?_
    rw [if_neg (by omega), if_neg (by omega)]
    refine ⟨State.imageEnd_image _ c _ k, fun x hx ho hk hr htab _ => ?_, fun x hx ho hk hf h9 => ?_, fun x hx ho hne hk hr => ?_,
      fun hno => ?_⟩
    · rw [State.imageEnd_confirmed hx ho (fun hn => by rw [hr] at hn; exact absurd hn.1 (by decide)) hk]
      have hload := (s.setImage none).imageInForce_loaded c x
      obtain ⟨h1, h2, h3, h4, h5⟩ := State.imageContent_holds (s := s.setImage none) htab (s.imageOk_tables ho) hload
      have hput := State.imageInForce_ready (s := s.setImage none) hr c x
      rw [State.setImage_imageContent, State.setImage_imageNow] at hput
      exact ⟨h1, h2, h3, h4, hput, h5⟩
    · have hst := State.failedStart_state hf
      rw [State.imageEnd_confirmed hx ho (fun hn => h9 hn.2) hk]
      exact State.imageEnd_failed h (by rw [hst]; decide) x
    · rw [State.imageEnd_unconfirmed hx ho (fun hn => by rw [hr] at hn; exact absurd hn.1 (by decide)) hne hk]
      exact State.confirmFails_last h
    · rw [State.imageEnd_refused (fun x hx => (s.setImage_imageOk none x).trans (hno x hx))]
      obtain ⟨h1, -, h3⟩ := State.refuse40_collection h none
      exact ⟨h1, h3⟩
  · have he : execImageCollectionTimeout s = .next ((s.till im.due).setImage none) := by
      unfold execImageCollectionTimeout
      rw [hi]
    have ht := s.till_only im.due
    refine Answers.of_exec he ⟨s.till_clock im.due, ?_, (ht.mono (by decide)).trans ((State.setImage_only _ _).mono (by decide))⟩
    show ({ (s.till im.due).port with image := none } : Port) = _
    rw [ht.port_eq]
  · refine Answers.of_exec (execResetAfterImageLoad_due hd hf hu) ?_
    have ht := s.till_only due
    have hn := s.till_clock due
    obtain ⟨p1, p2, p3⟩ := (s.till due).deviceReset_pm 0x41 0
    obtain ⟨d1, d2, d3, d4, d5, d6, -, -, d9⟩ := (s.till due).deviceReset_frame 0x41 0
    obtain ⟨i1, i2, i3, i4⟩ := State.deviceReset_image (s := s.till due) 0x41 0
    generalize s.till due = v at ht hn p1 p2 p3 d1 d2 d3 d4 d5 d6 d9 i1 i2 i3 i4 ⊢
    rw [ht.pm_eq] at d1
    rw [ht.cfg_eq] at d4
    rw [ht.sec_eq] at d5
    rw [ht.kiln_eq] at d6 i3
    rw [ht.fault_eq] at i4
    exact ⟨d9.trans hn, p1, p2, p3, i1, d1.trans BitVec.or_zero, i2, d2, d3, d4, d6, i3, i4, d5⟩
  · have he : execImageCollectionTimeout s = .next s := by
      unfold execImageCollectionTimeout
      rw [hi]
    exact Answers.of_exec he rfl
  · exact Answers.of_exec (execResetAfterImageLoad_idle hi) rfl

end Sys2Proof.Machine
end
